-- ==== Sys2Proof/Word.lean ====
section
/-! DEFINITION. The word types of the GHL-8: bytes, 32-bit registers and bough numbers (R4, R9). -/

namespace Sys2Proof

/-- A byte. -/
abbrev Byte := BitVec 8

/-- A 32-bit register word. -/
abbrev Word := BitVec 32

/-- A bough number, 0 to 7 (R9). -/
abbrev Bough := Fin 8

end Sys2Proof
end

