-- ==== Sys2Proof/Syntax.lean ====
section
/-! DEFINITION. The commands of the GHL-8, one constructor of Instr for each row of spec/opcode_table.json, and the
types of their operands. The table gives no bits for a row; an operand is what the surroundings bring (log entry 5). -/

namespace Sys2Proof

/-- The ticks of the lattice that LATTICE_TICK names (R45). -/
inductive Tick where
  | microsecond | sample | millisecond | operating | second
  deriving DecidableEq, Repr

/-- The kind of access that a flit carries to its target stop (R42, R599). -/
inductive AccessKind where
  | fetch | coreData | channel
  deriving DecidableEq, Repr

/-- An access of an initiator to an internal address (R42, R53): a read, or a write of one 64-bit word. -/
structure Access where
  /-- Stop of the initiator (R26). -/
  stop : Nat
  /-- Channel number at that stop, for a channel transfer (R625). -/
  chan : Nat
  /-- Internal address. -/
  addr : Nat
  /-- none for a read, the word for a write. -/
  write : Option (BitVec 64)
  kind : AccessKind
  deriving DecidableEq, Repr

/-- What a flit carries (R27, R34, R42). -/
inductive Load where
  /-- A flit of a bough's sample frame (R50). -/
  | frame (bough : Bough)
  /-- An energy result (R361). -/
  | result (bough : Bough)
  /-- Received carrier values, symbol fill or payload of a modem. -/
  | modem
  /-- A request to the target of an internal address. -/
  | access (x : Access)
  /-- A response: refused, address, the word read. -/
  | reply (refused : Bool) (addr : Nat) (word : Option (BitVec 64))
  /-- Other traffic of cores, host, crypto engine and blocks. -/
  | other
  deriving DecidableEq, Repr

/-- A flit (R28): the stop and the port that inject it, the stop that takes it, its class and what it carries. -/
structure Flit where
  src : Fin 23
  port : Nat
  dst : Fin 23
  cls : Fin 4
  load : Load
  deriving DecidableEq, Repr

/-- Labels of the derived keys (R571). -/
inductive KeyLabel where
  | roniAuth | updateAuth | lifecycle | canopyWrap | seccP256 | seccP521 | seccEd448 | readingSign | install
  deriving DecidableEq, Repr

/-- Operations of the crypto engine (R574). -/
inductive CryptoOp where
  | sign | verify | ecdh | hash | hmac | hkdf | gcm | random
  deriving DecidableEq, Repr

/-- A request to the crypto engine (R43, R573). -/
structure CryptoReq where
  /-- Stop of the requester. -/
  stop : Nat
  op : CryptoOp
  /-- Key register named, if the operation uses one. -/
  handle : Option Nat
  /-- Label of the key to derive, for hkdf. -/
  label : KeyLabel
  deriving DecidableEq, Repr

/-- A result that the crypto engine returned. -/
structure CryptoResult where
  stop : Nat
  op : CryptoOp
  ok : Bool
  deriving DecidableEq, Repr

/-- A message in the heartwood mailbox (R66): a session core asks for a reading of a bough. -/
structure Mail where
  core : Fin 2
  bough : Bough
  /-- KIND of R412 asked for. -/
  kind : Nat
  deriving DecidableEq, Repr

/-- What a filter chain of one modulator delivers at a sample tick (R308, R746): the output of M3 on the M path, of the
sinc⁴ filter on the S path, in counts. -/
structure RawSample where
  x : Int
  /-- The input lies beyond ±1.0 FS, or the modulator has not recovered (R746). -/
  beyond : Bool
  deriving DecidableEq, Repr

/-- What the 25 modulators of a bough deliver on the M path at a sample tick: its inputs' own and the reserve (R11). -/
structure BoughSamples where
  chans : Vector RawSample 24
  rsv : RawSample
  deriving DecidableEq, Repr

/-- Result of the known-pattern test (R613, R614). -/
structure PatternTest where
  /-- Failing cells of the passes: macro, row, codeword bit. -/
  cells : List (Nat × Nat × Nat)
  /-- Every codec test gave 1 corrected, 2 corrected, uncorrectable. -/
  codecOk : Bool
  /-- A cell of a spare already taken fails. -/
  spareFails : Bool
  /-- A word with two or more hard bits remains after step 7. -/
  beyondSpares : Bool
  deriving DecidableEq, Repr

/-- What the surroundings show to the safety self-check of P6 (R279). -/
structure SelfCheck where
  /-- Step 1: the power die declared loss and entered fail-safe. -/
  lossSeen : Bool
  /-- Step 2: it left fail-safe after ten frames. -/
  leftFailsafe : Bool
  linkOk : Bool
  /-- Step 3: boughs whose trip line was not confirmed. -/
  tripLineBad : BitVec 8
  /-- Step 4: switches i = 6b + 2k + s that failed the on-pulse test. -/
  switchBad : BitVec 48
  /-- Step 5: switches stuck on under the rest diagnosis. -/
  stuckOn : BitVec 48
  /-- Step 5: boughs with a valid contact sense that reads closed. -/
  contactClosed : BitVec 8
  /-- Step 5: boughs whose channel 7 is not below its limits. -/
  residualHigh : BitVec 8
  /-- Step 5: boughs whose channels 11 or 12 are out of range. -/
  insulationBad : BitVec 8
  /-- Step 5: ESTOPAN and ESTOPBN disagree. -/
  estopDiffer : Bool
  deriving DecidableEq, Repr

/-- A block of a received vehicle modem frame (R204). -/
structure RxBlock where
  seq : Nat
  /-- The block passed its CRC. -/
  ok : Bool
  data : List Byte
  deriving DecidableEq, Repr

/-- A block that a modem is to send (R205). -/
structure TxBlock where
  seq : Nat
  data : List Byte
  deriving DecidableEq, Repr

/-- Cipher suites of R189. -/
inductive Cipher where
  /-- TLS_AES_256_GCM_SHA384. -/
  | aes256Gcm
  /-- TLS_ECDHE_ECDSA_WITH_AES_128_CBC_SHA256. -/
  | ecdheAes128Cbc
  /-- TLS_ECDH_ECDSA_WITH_AES_128_CBC_SHA256. -/
  | ecdhAes128Cbc
  /-- A suite that the device does not support. -/
  | unsupported
  deriving DecidableEq, Repr

/-- The session timers of R195. -/
inductive V2gTimer where
  | sequence | communicationSetup | readyToCharge | cpStateDetection | cpOscillatorRetain
  deriving DecidableEq, Repr

/-- Protocols of R189. -/
inductive Proto where
  | din | iso2 | iso20
  deriving DecidableEq, Repr

/-- Vehicle requests that have no row of their own (R190, R192 to R194). -/
inductive V2G where
  | sessionSetup
  /-- ISO 15118-20 (R193). -/
  | authorizationSetup
  | serviceDiscovery
  | serviceDetail (service : Nat)
  /-- The service, and under ISO 15118-20 the mobility needs mode asked (R193). -/
  | serviceSelection (service mobility : Nat)
  | paymentSelection (contract : Bool)
  | authorization
  /-- Charge parameters: maximum and minimum power in W. -/
  | chargeParameters (maxW minW : Nat)
  | scheduleExchange (dynamicMode : Bool)
  /-- Pre-charge with its target voltage in mV and current in mA. -/
  | preCharge (targetMv targetMa : Int)
  /-- CurrentDemand or a charge loop, with its targets. -/
  | chargeLoop (targetMv targetMa : Int)
  | chargingStatus
  | meteringReceipt
  /-- CertificateUpdate (R192). -/
  | certificateUpdate
  | weldingDetection
  | notSupported
  deriving DecidableEq, Repr

/-- What PowerDelivery asks for (R214). -/
inductive PowerDelivery where
  | start | stop | stopRenegotiate | pause
  deriving DecidableEq, Repr

/-- A step of the AC closing sequence that has come (R260). -/
inductive AcStep where
  /-- Steps 1 and 2: preconditions checked, coil 1 driven. -/
  | begin
  /-- Step 3, 20 ms later: coils 0 and 2 driven. -/
  | second
  deriving DecidableEq, Repr

/-- A step of the DC closing sequence that has come (R261). -/
inductive DcStep where
  /-- Steps 1 and 2: preconditions checked, coil 1 driven. -/
  | begin
  /-- Step 3, 20 ms later: coil 2 driven, or coil 0 with PRECHG = 0. -/
  | second
  /-- Step 4: channel 8 has come within tolerance of channel 10; coil 0 driven. -/
  | linkReached
  /-- Step 5 done: channel 19 reads closed, coil 2 released. -/
  | mainClosed
  /-- Step 6: 60 ms after the release of coil 2. -/
  | preReleased
  /-- Step 7: the insulation check has its result. -/
  | insulation
  deriving DecidableEq, Repr

/-- Outcome of a switch test (R264, R266). -/
inductive TestResult where
  | pass | notOff | notRestored | noMove
  /-- The partner of the switch in an off-pulse test is stuck on (R299). -/
  | partnerStuck
  /-- The slot falls within 1 s of a step of a sequence: the test is skipped. -/
  | near
  /-- A trip or an emergency stop fell during the test (R293). -/
  | discarded
  deriving DecidableEq, Repr

/-- What the S path delivers of a bough's side-path channels (R25, R308): for each the output of the modulator that serves
it. -/
structure SideSample where
  ch7 : RawSample
  ch8 : RawSample
  ch11 : RawSample
  ch12 : RawSample
  ch13 : RawSample
  ch14 : RawSample
  ch19 : RawSample
  ch20 : RawSample
  ch21 : RawSample
  deriving DecidableEq, Repr

/-- The DC windows of R269. -/
inductive DcWindow where
  | ms100 | ms20 | ms5
  deriving DecidableEq, Repr

/-- Result of a reserve fit (R325): least squares over samples that the fractional delay interpolator makes, whose coefficients
the spec does not give (log entry 172). -/
structure FitResult where
  /-- RMS of the residual in 10⁻⁶ of FS. -/
  residualPpm : Nat
  /-- RGAIN × 2³⁰. -/
  rgain : Nat
  roff : Int
  /-- 1/256 sample. -/
  rdelay : Int
  deriving DecidableEq, Repr

/-- A canopy frame as the receiver gives it (R495, R496). -/
structure CnpRx where
  /-- The 16 bytes of its frame control. -/
  fc : List Byte
  /-- Message counter of the sender's nonce (R513); the spec does not say how a receiver comes to know it (log entry 189). -/
  counter : BitVec 64
  /-- Its blocks, 520 bytes each. -/
  blocks : List (List Byte)
  /-- Bits per symbol of the tone map that the receiver derives from the frame's SNR (R498). -/
  capacity : Nat
  deriving DecidableEq, Repr

/-- What the preamble detector of the canopy modem shows when a frame may start (R503). -/
inductive Medium where
  | idle
  /-- A frame is on the line. -/
  | busy
  /-- The frame started and met another station's. -/
  | collided
  deriving DecidableEq, Repr

/-- How a field WRITE ends (R546, R547). -/
inductive WriteEnd where
  | done
  /-- The second verify of a step failed. -/
  | failed
  /-- The field collapsed during a step of R546, 1 to 7. -/
  | cut (step : Fin 8)
  deriving DecidableEq, Repr

/-- How a TAG_FLUSH ends (R556, R560). -/
inductive FlushEnd where
  | done
  /-- The second verify failed at a page. -/
  | failed (page : Nat)
  /-- VIO fell during a step of R546 at a page. -/
  | cut (page : Nat) (step : Fin 8)
  deriving DecidableEq, Repr

/-- Class of a tamper loop sample (R576, R577). -/
inductive LoopClass where
  | intact | marginal | opened
  deriving DecidableEq, Repr

/-- The header fields of a host command that its subsystem uses (R705, R706). -/
structure CmdHdr where
  bough : Nat
  tag : Nat
  deriving DecidableEq, Repr

/-- The commands, one for each row of spec/opcode_table.json: those with operands first, then those without. -/
inductive Instr where
  /-- LATTICE_TICK (R45): A tick of the lattice (microsecond, sample, millisecond, operating or second) reaches the blocks that use it. -/
  | latticeTick (t : Tick) (busy : BitVec 23)
  /-- TRUNK_FLIT (R28): A flit crosses a trunk segment and is taken by the next stop, which serves it or passes it on. -/
  | trunkFlit (seg : Fin 23) (offers : List Flit) (errs : BitVec 9)
  /-- LANE_FAILED (R29): After three failed attempts a lane is declared failed, the spare lane takes its bits and event 0x0102 is recorded. -/
  | laneFailed (seg : Fin 23)
  /-- SPARE_LANE_PATTERN (R31): Once per second a test pattern is driven on each unused spare lane, and a failing lane is marked unusable. -/
  | spareLanePattern (bad : BitVec 23)
  /-- PACE_COUNT (R32): Each millisecond the replica handshakes are counted and HST_PACE is updated. -/
  | paceCount (counts : List Nat)
  /-- CRYSTAL_CHECK (R47): Once per second the 25 MHz cycles over 32,768 cycles of the 32.768 kHz crystal are counted. -/
  | crystalCheck (count : Nat)
  /-- CRYPTO_REQUEST (R43): A requester's operation reaches the crypto engine and is queued by requester priority. -/
  | cryptoRequest (r : CryptoReq)
  /-- HEARTWOOD_MAILBOX_WRITE (R66): A session core's write to the heartwood mailbox completes once class-2 credit is available. -/
  | heartwoodMailboxWrite (m : Mail)
  /-- SAMPLE_FRAME (R311): At a sample tick each bough's frame is built and sent round the ring to its consumers. -/
  | sampleFrame (bs : Vector BoughSamples 8)
  /-- ENERGY_RESULT_ACCEPT (R65): The heartwood gate accepts an energy result, and it supersedes any result held back. -/
  | energyResultAccept (b : Bough) (kind : Fin 2)
  /-- SUPPLY_TRIP (R86): A supply stays beyond a monitor threshold for the filter time, and the monitor's reaction is taken. -/
  | supplyTrip (id : Fin 13) (high : Bool)
  /-- SUPPLY_RECOVERY (R87): A tripped supply returns within range, ending the reset or the reaction that it held. -/
  | supplyRecovery (id : Fin 13)
  /-- BACKUP_SWITCHOVER (R83): VIO crosses 2.80 V and the backup domain switches between VIO and VBAK. -/
  | backupSwitchover (toVbak : Bool)
  /-- DIE_TEMP_UPDATE (R108): Every 10 ms the three die temperatures are measured and SYS_DIE_TEMP is updated. -/
  | dieTempUpdate (logic mixed power : Int)
  /-- POWER_DIE_THERMAL_SHUTDOWN (R95): The power die reaches 150 °C and turns every coil switch and load channel off. -/
  | powerDieThermalShutdown (temp : Int)
  /-- RESETN_LOW (R117): A low level on RESETN of at least 1 µs resets the device. -/
  | resetnLow (ns : Nat)
  /-- RESET_RELEASE (R116): At the reset release instant T0 phase P0 begins. -/
  | resetRelease (viohMv : Nat) (pllLocks : Bool)
  /-- PHASE_P1 (R123): Fuses and repair maps are applied, the directory is read, CYCLES is incremented and the start entry is written and read back. -/
  | phaseP1 (fusesOk : Bool) (readBackAt : Option (Fin 3))
  /-- PHASE_P2 (R613): The known-pattern test runs on all macros, and spares are taken for failing cells. -/
  | phaseP2 (t : PatternTest)
  /-- PHASE_P6 (R279): The safety self-check runs and the ledger is rebuilt from the journal. -/
  | phaseP6 (c : SelfCheck)
  /-- PHASE_P7 (R122): The device is ready, pilots of enabled boughs enter state A, and START_READY is raised. -/
  | phaseP7 (startMs : Nat)
  /-- COMMIT_ACCEPT (R143): A write of 1 to an HST_COMMIT bit snapshots the shadow page and sets PENDING. -/
  | commitAccept (req : BitVec 16)
  /-- COMMIT_APPLY (R144): At its boundary a subsystem checks the snapshot and applies or rejects it whole, then sets HST_COMMIT_DONE. -/
  | commitApply (sub : Fin 16)
  /-- COMMIT_BOUGH_APPLY (R145): A bough applies its fields of an accepted snapshot at its own boundary. -/
  | commitBoughApply (sub : Fin 16) (b : Bough)
  /-- REGISTER_WRITE (R700): A host write to a shadow page, mirror, bulk window or register that has no row of its own is stored or ignored. -/
  | registerWrite (addr : Nat) (bytes : List Byte)
  /-- PLATEAU_VALUE (R166): A plateau window ends and its mean pilot voltage is classified. -/
  | plateauValue (b : Bough) (positive : Bool) (mv : Int)
  /-- PILOT_FAULT_PROBE (R169): Every second during a pilot fault a 4 ms X1 probe checks for a return to A or B. -/
  | pilotFaultProbe (b : Bough) (mvs : List Int)
  /-- PROXIMITY_MEAN (R173): Every 10 ms the proximity resistance is computed from channel 14 and classified. -/
  | proximityMean (b : Bough)
  /-- CM_SLAC_PARM_REQ (R182): A CM_SLAC_PARM.REQ is received and its attenuation recorded at every bough. -/
  | cmSlacParmReq (mac runId : List Byte) (atten : Vector (Option Nat) 8)
  /-- CM_START_ATTEN_CHAR_IND (R183): A CM_START_ATTEN_CHAR.IND is received and sounding collection starts. -/
  | cmStartAttenCharInd (mac runId : List Byte) (atten : Vector (Option Nat) 8)
  /-- CM_MNBC_SOUND_IND (R182): A sound is received and its attenuation recorded at all eight receivers. -/
  | cmMnbcSoundInd (mac runId : List Byte) (atten : Vector (Option Nat) 8) (erased : Vector Nat 8) (groups : Vector Nat 58)
  /-- SOUNDING_END (R185): After 10 sounds or 600 ms the assignment is confirmed or released. -/
  | soundingEnd (mac runId : List Byte)
  /-- CM_SLAC_MATCH_REQ (R183): A CM_SLAC_MATCH.REQ is answered with NID and a new NMK, and the bough's modem is keyed. -/
  | cmSlacMatchReq (mac runId : List Byte)
  /-- CM_VALIDATE_REQ (R187): A CM_VALIDATE.REQ is answered with not required, or with ready to start toggle counting. -/
  | cmValidateReq (b : Bough) (count : Nat)
  /-- VALIDATE_COUNT_END (R187): After 600 ms of counting B-C-B toggles, validation answers success or failure. -/
  | validateCountEnd (b : Bough)
  /-- SLAC_WINDOW_EXPIRED (R181): SLAC_INIT passes without association, so the window closes and event 0x0207 is recorded. -/
  | slacWindowExpired (b : Bough)
  /-- STAGGER_RELEASE (R206): The held bough regains 5 % duty and candidacy when the earlier bough associates, its window closes or 3 s pass. -/
  | staggerRelease (b : Bough)
  /-- MODEM_FRAME_RECEIVED (R204): A vehicle modem frame is received, impulses are erased and failed blocks are named in the acknowledgement. -/
  | modemFrameReceived (b : Bough) (symbols : List (List Int)) (fcOk : Bool) (blocks : List RxBlock)
  /-- SELECTIVE_ACK_RECEIVED (R205): An acknowledgement naming failed blocks makes the DSP build a frame of those blocks only. -/
  | selectiveAckReceived (b : Bough) (failed : List Nat)
  /-- MODEM_FRAME_TRANSMIT (R52): A modem begins transmitting a frame once every symbol of it is built in the symbol buffer. -/
  | modemFrameTransmit (port : Fin 9) (symbols built : Nat) (blocks : List TxBlock) (medium : Medium)
  /-- SECC_DISCOVERY_REQ (R189): An SECC Discovery Protocol request is answered within 50 ms. -/
  | seccDiscoveryReq (b : Bough) (linkLocal : Bool) (udpPort : Nat)
  /-- SUPPORTED_APP_PROTOCOL (R189): The device chooses the protocol from the vehicle's list and records event 0x020B. -/
  | supportedAppProtocol (b : Bough) (conn : Nat) (list : List Proto) (tlsAsked : Bool) (suites : List Cipher)
  /-- V2G_REQUEST (R190): Any other vehicle request is answered within 250 ms, with Ongoing where a result waits. -/
  | v2gRequest (b : Bough) (r : V2G)
  /-- PAYMENT_DETAILS_REQ (R218): An eMAID arrives in PaymentDetails or Authorization and is decided under the authorisation steps. -/
  | paymentDetailsReq (b : Bough) (emaid : List Byte) (subCas : Nat) (chainOk inDate : Bool)
  /-- CABLE_CHECK_REQ (R214): A CableCheck request on an authorised DC session moves it to ENERGISING. -/
  | cableCheckReq (b : Bough)
  /-- POWER_DELIVERY_REQ (R214): A PowerDelivery Start, Stop or Pause moves the session between states. -/
  | powerDeliveryReq (b : Bough) (k : PowerDelivery)
  /-- SESSION_STOP_REQ (R215): The vehicle's SessionStop ends the session with stop reason 0x01. -/
  | sessionStopReq (b : Bough)
  /-- CERTIFICATE_INSTALLATION_REQ (R192): A certificate request is relayed to the host, or answered FAILED without a host. -/
  | certificateInstallationReq (b : Bough)
  /-- V2G_TIMER_EXPIRED (R195): A session protocol timer expires and the session stops with reason 0x08. -/
  | v2gTimerExpired (b : Bough) (k : V2gTimer)
  /-- HOST_WAIT_EXPIRED (R218): HOST_WAIT passes without SES_AUTH, so the next authorisation step runs. -/
  | hostWaitExpired (b : Bough)
  /-- AUTH_HOLD_EXPIRED (R214): AUTH_HOLD elapses in AUTHORISED and the session finishes with reason 0x11. -/
  | authHoldExpired (b : Bough)
  /-- CREDIT_CHECK (R227): Each second available credit and grants are checked, and the session stops when they are exhausted. -/
  | creditCheck (b : Bough)
  /-- GRANT_EXPIRED (R230): A REMOTE grant's expiry passes and the session enters STOPPING with reason 0x07. -/
  | grantExpired (b : Bough)
  /-- HOST_CEILING_EXPIRED (R231): The validity of a SES_CEILING ends and the ceiling is recomputed without it. -/
  | hostCeilingExpired (b : Bough)
  /-- CEILING_BELOW_MINIMUM (R214): The ceiling stays below the vehicle's minimum for 10 s and the session is suspended. -/
  | ceilingBelowMinimum (b : Bough)
  /-- STOP_WAIT_END (R216): The vehicle reduces current or STOP_WAIT passes, and the opening sequence is requested. -/
  | stopWaitEnd (b : Bough)
  /-- POWER_REQUEST (R232): Every 50 ms, or on a change, power request event 0x0304 is sent for the bough. -/
  | powerRequest (b : Bough)
  /-- CURRENT_ALLOWANCE_EXPIRED (R233): The vehicle stays above the offered current beyond its allowance and the session stops with reason 0x0B. -/
  | currentAllowanceExpired (b : Bough)
  /-- SES_AUTH_ACCEPT (R248): SES_AUTH accepting authorises a bough in CONNECTED or AUTHORISING, with its grant. -/
  | sesAuthAccept (h : CmdHdr) (remote : Bool) (amount : Int) (expiry : Nat) (ident : List Byte)
  /-- SES_AUTH_REFUSE (R236): SES_AUTH refusing refuses the identifier or withdraws an authorisation already given. -/
  | sesAuthRefuse (h : CmdHdr) (ident : List Byte)
  /-- SES_IDENT (R220): A host credential is held for the bough and decided in turn. -/
  | sesIdent (h : CmdHdr) (credential : List Byte)
  /-- SES_STOP (R236): The host stops the session according to its state. -/
  | sesStop (h : CmdHdr)
  /-- SES_GRANT (R230): The running session's grant is replaced from the next one-second check. -/
  | sesGrant (h : CmdHdr) (amount : Int) (expiry : Nat)
  /-- SES_CEILING (R231): The host ceiling and its validity are set for the bough. -/
  | sesCeiling (h : CmdHdr) (watts validity : Nat)
  /-- SES_CREDIT_ADD (R229): An amount is added to a ledger record, clearing emergency credit first. -/
  | sesCreditAdd (h : CmdHdr) (digest : List Byte) (amount : Int)
  /-- SES_CREDIT_SET (R237): A record's BALANCE is set to the amount. -/
  | sesCreditSet (h : CmdHdr) (digest : List Byte) (amount : Int)
  /-- SES_CREDIT_CREATE (R237): A new ledger record is inserted with the amount and flags. -/
  | sesCreditCreate (h : CmdHdr) (digest : List Byte) (flags : Byte) (amount : Int)
  /-- SES_CREDIT_DELETE (R237): A ledger record not held by a session is marked deleted. -/
  | sesCreditDelete (h : CmdHdr) (digest : List Byte)
  /-- SES_CREDIT_SET_FLAGS (R237): A record's FLAGS are set from the command, with VALID kept. -/
  | sesCreditSetFlags (h : CmdHdr) (digest : List Byte) (flags : Byte)
  /-- SES_LEDGER_LOAD_MERGE (R235): Records from the bulk window are merged into the ledger and journalled. -/
  | sesLedgerLoadMerge (h : CmdHdr) (count : Nat)
  /-- SES_LEDGER_LOAD_REPLACE (R235): The ledger bank is emptied, reloaded from the bulk window and snapshotted. -/
  | sesLedgerLoadReplace (h : CmdHdr) (count : Nat)
  /-- CLOSING_SEQUENCE (R260): The safety block checks the preconditions and drives the required coils of an AC closing sequence. -/
  | closingSequence (b : Bough) (k : AcStep)
  /-- DC_CLOSING_SEQUENCE (R261): A DC closing runs coil pre-charge, contact confirmation and the insulation check. -/
  | dcClosingSequence (b : Bough) (k : DcStep)
  /-- CONTACT_CONFIRMED (R260): Every valid sense of the required coils reads closed, and coils closed is reported with event 0x0401. -/
  | contactConfirmed (b : Bough)
  /-- CLOSING_CONFIRM_TIMEOUT (R260): CONF_MS or PRE_MAX passes without confirmation, so the coils open with trip code 15. -/
  | closingConfirmTimeout (b : Bough)
  /-- PRECHARGE_COMPLETE (R261): Channel 8 stays within PRE_TOL of VOLT for 100 ms with the pre-charge flag set, and the DC closing completes. -/
  | prechargeComplete (b : Bough)
  /-- ORDINARY_OPENING (R262): On the session engine's request coils 0 and 2 are released. -/
  | ordinaryOpening (b : Bough)
  /-- SECOND_RELEASE (R262): 20 ms after the first release of an ordinary opening, coil 1 is released. -/
  | secondRelease (b : Bough)
  /-- WELD_CHECK (R263): 60 ms after a coil's release its contact sense gives passed, weld or undetermined. -/
  | weldCheck (b : Bough) (k : Fin 3)
  /-- WELD_RECHECK (R263): An undetermined weld check repeats when the sense becomes valid again. -/
  | weldRecheck (b : Bough) (k : Fin 3)
  /-- SWITCH_TEST_SLOT (R264): At each 1.25 s slot one switch receives an off-pulse or on-pulse test. -/
  | switchTestSlot (slot : Fin 48) (r : TestResult)
  /-- STUCK_ON_CHECK (R265): Every 1 ms the outputs of off switches are checked, and ten on-level checks declare a switch stuck on. -/
  | stuckOnCheck (on : BitVec 48)
  /-- COIL_CURRENT_LIMIT (R257): A switch stays in current limit for more than 50 µs, so both switches of the coil turn off with fault 19. -/
  | coilCurrentLimit (b : Bough) (k : Fin 3)
  /-- COIL_OPEN_DETECT (R257): A driven coil stays below 20 mA for 10 ms, so the bough opens with fault 19. -/
  | coilOpenDetect (b : Bough) (k : Fin 3)
  /-- COIL_SUPPLY_LOW (R278): Channel 21 is below COIL_MIN for 50 ms with coils held, giving trip code 16. -/
  | coilSupplyLow (b : Bough)
  /-- EMERGENCY_STOP (R267): An emergency stop input is taken as low, every coil switch turns off and event 0x0409 is recorded. -/
  | emergencyStop (mvA mvB : Nat)
  /-- SIDE_PATH_SAMPLE (R329): An S sample of a bough reaches the safety block and its quantities are computed. -/
  | sidePathSample (b : Bough) (v : SideSample)
  /-- DC_RESIDUAL_PERSISTENCE (R269): A DC residual mean stays above its threshold for its persistence time, tripping with code 5, 6 or 7. -/
  | dcResidualPersistence (b : Bough) (w : DcWindow)
  /-- BRIDGE_STATE_END (R270): Every 250 ms the bridge switch toggles and an insulation result is computed. -/
  | bridgeStateEnd (b : Bough)
  /-- HEARTBEAT_SEND (R274): On every tenth millisecond tick the safety block sends a heartbeat frame unless withheld. -/
  | heartbeatSend (disagree : Bool)
  /-- HEARTBEAT_FRAME (R274): The power die receives a heartbeat or link frame and checks its counter and CRC. -/
  | heartbeatFrame (beat : Bool) (counter : BitVec 4) (crcOk : Bool)
  /-- CORE_SERVICE (R276): A session core services the logic die watchdog. -/
  | coreService (c : Fin 2)
  /-- LOGIC_WATCHDOG_EXPIRED (R276): A session core misses its 100 ms service, so its boughs trip with code 11 and event 0x040B is recorded. -/
  | logicWatchdogExpired (c : Fin 2)
  /-- SAF_CLEAR (R748): Latched codes selected by the mask clear where their conditions are met. -/
  | safClear (h : CmdHdr) (mask : Byte)
  /-- SAF_HOLD_SET (R291): The bough is held out of service, opening ordinarily if coils are driven. -/
  | safHoldSet (h : CmdHdr)
  /-- SAF_HOLD_RELEASE (R291): A hold set by SAF_HOLD is released. -/
  | safHoldRelease (h : CmdHdr)
  /-- PATROL_VISIT_END (R320): The reserve ends its PATROL_S visit on a channel and computes k against k0. -/
  | patrolVisitEnd (b : Bough)
  /-- MODULATOR_STUCK (R322): A bitstream holds one value for 1,024 bits, so the modulator is marked failed and event 0x0502 is recorded. -/
  | modulatorStuck (b : Bough) (n : Fin 25)
  /-- RESERVE_CHAINS_FILLED (R323): After 32 samples the reserve's values replace FAIL, and event 0x0504 cold is recorded. -/
  | reserveChainsFilled (b : Bough)
  /-- HOT_SWAP_FIT_START (R324): The fit begins at the first block boundary at least 32 samples after the reserve is connected. -/
  | hotSwapFitStart (b : Bough)
  /-- HOT_SWAP_FIT_END (R325): The fit over CAL_BLOCKS counted blocks ends, and the reserve takes the channel or the fit fails. -/
  | hotSwapFitEnd (b : Bough) (r : FitResult)
  /-- MTR_CAL (R317): A calibration measurement over N blocks is started for the named channels. -/
  | mtrCal (h : CmdHdr) (mask : BitVec 24) (n ref : Nat) (raw : Bool)
  /-- MTR_CAL_END (R317): N blocks are counted, or 4 × N pass, and event 0x0505 reports the results. -/
  | mtrCalEnd (b : Bough)
  /-- MTR_SWAP_HOT (R324): The host starts a hot swap of a channel onto the reserve. -/
  | mtrSwapHot (h : CmdHdr) (ch : Nat)
  /-- MTR_SWAP_RETURN (R326): The host requests the channel's return to its own modulator. -/
  | mtrSwapReturn (h : CmdHdr) (ch : Nat)
  /-- SWAP_RETURN_COMPARE_END (R326): After CAL_BLOCKS blocks of comparison the channel switches back or the result is 4. -/
  | swapReturnCompareEnd (b : Bough) (ppm : Nat)
  /-- MTR_SWAP_ABORT (R348): The running fit is stopped and the reserve returns to patrol or state 2. -/
  | mtrSwapAbort (h : CmdHdr) (ch : Nat)
  /-- MTR_SWAP_READMIT (R339): A failed mark is cleared, and the modulator is used again after it passes a patrol visit. -/
  | mtrSwapReadmit (h : CmdHdr) (ch : Nat)
  /-- CYCLE_END (R357): A positive-going zero crossing ends a cycle, and its net energies are counted into the pip registers. -/
  | cycleEnd (b : Bough) (before after : Int)
  /-- NO_CROSSING_TIMEOUT (R353): No crossing within 33.4 ms of the last one, so the grid is lost. -/
  | noCrossingTimeout (b : Bough)
  /-- NO_GRID_CYCLE (R353): While no grid is reported, each 20 ms interval of the millisecond tick ends a cycle. -/
  | noGridCycle (b : Bough)
  /-- METERING_GAP_OPEN (R360): Substitution of a phase runs past 2,441 samples, so no further energy is counted and event 0x0603 is recorded. -/
  | meteringGapOpen (b : Bough) (phase : Fin 3)
  /-- SAVE_TICK (R364): At each multiple of SAVE_S the heartwood writes a save entry and the ledger journal entries follow. -/
  | saveTick (slotFails : Nat) (halfFails : Bool)
  /-- NRG_READ (R380): The host asks for a block measurement report of a bough. -/
  | nrgRead (h : CmdHdr)
  /-- NRG_READ_REPLY (R380): At the next block boundary event 0x0608 carries the block's values. -/
  | nrgReadReply (b : Bough)
  /-- GATE_SILENCE (R418): No result for a bough reaches the gate for 100 ms, so a metering gap opens. -/
  | gateSilence (b : Bough)
  /-- BIL_TIME_SET (R407): The host sets calendar time and the local offset, subject to TIME_SRC. -/
  | bilTimeSet (h : CmdHdr) (utc : BitVec 32) (offset : Byte)
  /-- BIL_READ_ACK (R432): Queued readings up to the given READING_NO are removed. -/
  | bilReadAck (h : CmdHdr) (no : Nat)
  /-- BIL_READ_NOW (R432): An on-request reading is signed for the bough. -/
  | bilReadNow (h : CmdHdr)
  /-- BIL_INFO (R432): Event 0x070B returns the check value, public key and calendar identifiers. -/
  | bilInfo (h : CmdHdr)
  /-- BIL_READ_GET (R432): Readings are copied from the event log to the bulk window. -/
  | bilReadGet (h : CmdHdr) (first count : Nat)
  /-- AUX_SET (R444): The duty of host-owned channels is set, to apply at the next millisecond tick. -/
  | auxSet (h : CmdHdr) (mask : BitVec 32) (duty : Nat)
  /-- AUX_CLEAR (R450): Named latched channels are released and RETRY_CNT reset. -/
  | auxClear (h : CmdHdr) (mask : BitVec 32)
  /-- INRUSH_WINDOW_END (R446): A channel's inrush window ends and its active limit returns to the base limit. -/
  | inrushWindowEnd (ch : Fin 32)
  /-- CHANNEL_OVERCURRENT (R447): The current stays at the limit for 1.0 ms and the channel turns off with an overcurrent fault. -/
  | channelOvercurrent (ch : Fin 32)
  /-- CHANNEL_THERMAL_FAULT (R448): The channel sensor reaches 175 °C, the channel turns off and HOT is set. -/
  | channelThermalFault (ch : Fin 32) (temp : Int)
  /-- HOT_CLEAR (R448): The channel sensor falls below 155 °C and HOT clears. -/
  | hotClear (ch : Fin 32) (temp : Int)
  /-- RETRY_RESTART (R449): After RETRY_MS and HOT clear the channel restarts and RETRY_CNT counts one. -/
  | retryRestart (ch : Fin 32)
  /-- RETRY_COUNT_RESET (R449): RETRY_CNT returns to 0 after 10 s on without a fault. -/
  | retryCountReset (ch : Fin 32)
  /-- LAMP_COMPENSATION (R451): Once per millisecond the duty of a lamp channel is rescaled to the group supply. -/
  | lampCompensation (ch : Fin 32) (vs : Nat)
  /-- GROUP_SUPPLY_RETURN (R454): 10 ms after a group supply returns, its channels return to their commanded state. -/
  | groupSupplyReturn (g : Fin 4)
  /-- VLCD_OUT_OF_RANGE (R473): VLCD stays outside ±5 % for 100 ms, so the drive stops and event 0x0902 is recorded. -/
  | vlcdOutOfRange (mv : Nat)
  /-- CZC_EDGE (R501): A rising CZC edge aligns turns or ends the alignment. -/
  | czcEdge (pairUs : Nat)
  /-- BEACON_RECEIVED (R505): A member takes turn, time and allocation from a beacon of its site. -/
  | beaconReceived (f : CnpRx)
  /-- JOIN_REQUEST (R506): The coordinator receives a join request and adds the station to MEMBER_MAP. -/
  | joinRequest (f : CnpRx)
  /-- MEMBER_TIMEOUT (R507): 25 turns without a member's status frame remove it from MEMBER_MAP. -/
  | memberTimeout (station : Nat)
  /-- CANOPY_DATA_FRAME (R496): A canopy data frame is received, its blocks checked and the message decrypted when complete. -/
  | canopyDataFrame (f : CnpRx)
  /-- CANOPY_ACK (R497): An acknowledgement mask makes the sender resend the failed blocks, or drop the message after eight attempts. -/
  | canopyAck (f : CnpRx) (mask : BitVec 64)
  /-- TONE_MAP_FRAME (R498): A peer's tone map is received and used for later frames. -/
  | toneMapFrame (f : CnpRx) (num bits : Nat)
  /-- TONE_MAP_EXPIRED (R498): 30 s without a frame from a peer invalidate its tone map. -/
  | toneMapExpired (station : Nat)
  /-- STATUS_FRAME (R515): The coordinator takes a member's bough demands from its status frame. -/
  | statusFrame (f : CnpRx)
  /-- CEILING_FRAME (R517): A station takes its site ceilings from a ceiling frame. -/
  | ceilingFrame (f : CnpRx)
  /-- TRIP_FRAME (R518): A trip broadcast is received, and TRIP_FOLLOW sets the site ceilings to 0. -/
  | tripFrame (f : CnpRx)
  /-- CNP_SEND (R525): The host sends a datagram over the canopy link. -/
  | cnpSend (h : CmdHdr) (dst cls : Nat) (data : List Byte)
  /-- FIELD_ARRIVED (R553): A reader field arrives, FDETN goes low, and the tag source and event 0x0B01 are raised. -/
  | fieldArrived (level : Nat)
  /-- REQB (R537): The tag answers a REQB matching its AFI with ATQB in its drawn slot. -/
  | reqb (afi : Byte) (slots : Nat)
  /-- WUPB (R537): The tag answers a WUPB, including after HLTB. -/
  | wupb (afi : Byte) (slots : Nat)
  /-- SLOT_MARKER (R537): The tag answers the Slot-MARKER carrying its drawn slot number. -/
  | slotMarker (slot : Nat)
  /-- ATTRIB (R537): ATTRIB with the tag's PUPI selects it with a CID for 14443-4 blocks. -/
  | attrib (pupi : List Byte) (cid : Nat)
  /-- TAG_READ (R545): A field READ returns up to four pages. -/
  | tagRead (first count : Nat)
  /-- TAG_WRITE (R546): A field WRITE merges bytes into a page through a journalled transaction. -/
  | tagWrite (page off : Nat) (data : List Byte) (fin : WriteEnd)
  /-- TAG_ARBITER_GRANT (R549): The arbiter grants a waiting field or trunk transaction on the tag memory. -/
  | tagArbiterGrant (fieldWaits trunkWaits : Bool)
  /-- TAG_FLUSH (R556): The host's marked mirror pages are written to the tag memory. -/
  | tagFlush (h : CmdHdr) (fin : FlushEnd)
  /-- KEY_CHALLENGE (R585): A 16-byte nonce is issued for the next KEY_LIFECYCLE. -/
  | keyChallenge (h : CmdHdr)
  /-- KEY_LIFECYCLE (R567): A life-cycle transition is authenticated and checked. -/
  | keyLifecycle (h : CmdHdr) (target : Nat) (nonce tag : List Byte)
  /-- KEY_INSTALL (R568): A wrapped root is unwrapped and written into an empty slot. -/
  | keyInstall (h : CmdHdr) (slot : Nat) (nonce enc tag : List Byte)
  /-- KEY_INFO (R585): Event 0x0C09 returns the public keys and KEY_ID. -/
  | keyInfo (h : CmdHdr)
  /-- TAMPER_SAMPLE (R577): An armed tamper loop is sampled and classed intact, marginal or open. -/
  | tamperSample (loopB : Bool) (cls : LoopClass) (level : Nat)
  /-- LOOP_REARM (R577): A loop intact for 1 s after a tamper is re-armed. -/
  | loopRearm (loopB : Bool)
  /-- DRBG_HEALTH_FAIL (R575): A failed continuous health test withholds random output and records event 0x0C07. -/
  | drbgHealthFail (test : Nat)
  /-- DRBG_RETEST (R575): 1 s after a health failure the source is tested again. -/
  | drbgRetest (ok : Bool)
  /-- LBIST_SLICE (R615): A logic BIST slice of 2,048 patterns runs on an eligible partition. -/
  | lbistSlice (part : Fin 14) (granted : Bool) (sig : BitVec 32)
  /-- MARCH_SLICE (R618): One row is saved, tested with March C- and restored. -/
  | marchSlice (hard : List (Nat × Nat))
  /-- MEM_INJECT_MODE0 (R605): The test word of a macro is written with the mask, read back and the outcome reported. -/
  | memInjectMode0 (h : CmdHdr) (ramMacro : Nat) (data : BitVec 64)
  /-- MEM_INJECT_MODE1 (R605): An injection is armed for the next write to TARGET. -/
  | memInjectMode1 (h : CmdHdr)
  /-- MEM_MAP_GET (R626): The factory and field repair maps are copied to the bulk window. -/
  | memMapGet (h : CmdHdr)
  /-- HISTOGRAM_SAMPLE (R645): A histogram quantity is counted into its bin at its cadence. -/
  | histogramSample (id : Fin 40)
  /-- DUMP_SLOT_ERASED (R655): The background erase of an acknowledged dump slot completes. -/
  | dumpSlotErased (slot : Fin 2)
  /-- LOG_READ (R751): Valid records of a ring are copied to the bulk window in SEQ order. -/
  | logRead (h : CmdHdr) (ring first limit : Nat)
  /-- LOG_CLEAR (R650): The selected rings or histograms are cleared and event 0x0E02 is written. -/
  | logClear (h : CmdHdr) (scope : Byte)
  /-- LOG_DUMP_READ (R664): A part of a dump slot is copied to the bulk window. -/
  | logDumpRead (h : CmdHdr) (slot off : Nat)
  /-- LOG_DUMP_ACK (R655): The named dump slots are erased in the background. -/
  | logDumpAck (h : CmdHdr) (mask : Byte)
  /-- LOG_HIST_GET (R664): The 40 histograms are copied to the bulk window. -/
  | logHistGet (h : CmdHdr)
  /-- UPD_BEGIN (R677): An update header is checked and the inactive area of the part is erased. -/
  | updBegin (h : CmdHdr) (header : List Byte)
  /-- UPD_CHUNK (R678): A chunk of the update image is applied to the inactive area. -/
  | updChunk (h : CmdHdr) (off len : Nat)
  /-- UPD_END (R679): The built target is hashed and checked, and the part is staged. -/
  | updEnd (h : CmdHdr)
  /-- UPD_SCHEDULE (R680): The activation of every staged part is scheduled. -/
  | updSchedule (h : CmdHdr) (mode value : Nat)
  /-- UPD_CONFIRM (R684): The trial update is confirmed within the window. -/
  | updConfirm (h : CmdHdr)
  /-- UPD_ABORT (R691): The schedule is dropped and holds released, or a trial falls back at once. -/
  | updAbort (h : CmdHdr)
  /-- COMMAND_QUEUE_WRITE (R709): At HCSN rising a command written at 0x00_1000 is queued or discarded. -/
  | commandQueueWrite (addr : Nat) (bytes : List Byte)
  /-- EVENT_QUEUE_READ (R713): At HCSN rising the messages read whole from 0x00_2000 are removed from the event queue. -/
  | eventQueueRead (addr len : Nat)
  /-- HST_IRQ_CLEAR (R721): Writing 1 to a latched HST_IRQ bit clears that source. -/
  | hstIrqClear (mask : BitVec 32)
  /-- HST_COMMIT_DONE_CLEAR (R722): Writing 1 to an HST_COMMIT_DONE bit clears it. -/
  | hstCommitDoneClear (mask : BitVec 32)
  /-- HST_RESTART (R727): A valid restart command causes an internal reset within 1 ms. -/
  | hstRestart (h : CmdHdr) (body : List Byte)
  /-- HST_ECHO (R727): The body is returned in event 0x0002. -/
  | hstEcho (h : CmdHdr) (body : List Byte)
  /-- CHANNEL_LIMIT_REACHED (R447): A load channel's current reaches its active limit, so the channel regulates at the limit, reports STATE 3 and starts its 1.0 ms overcurrent count. -/
  | channelLimitReached (ch : Fin 32)
  /-- CALENDAR_SECOND (R46): Calendar time advances by one second on the 32.768 kHz crystal, on VCORE or VBAK. -/
  | calendarSecond
  /-- CALENDAR_RANGE_END (R20): Calendar time passes 0xFFFF_FFFE, becomes not known, and event 0x0703 with source 2 is recorded. -/
  | calendarRangeEnd
  /-- PLL_LOCK_LOSS (R48): PLL lock loss or a stopped 25 MHz oscillator stops the heartbeat and the sample frames, and event 0x0105 is recorded. -/
  | pllLockLoss
  /-- PLL_RECOVERY (R48): After 10 ms of uninterrupted lock the lattice restarts, frames and heartbeat resume, and event 0x0105 0xFFFE is recorded. -/
  | pllRecovery
  /-- CRYPTO_OPERATION_DONE (R574): The crypto engine completes an operation, returns its result and takes the next request. -/
  | cryptoOperationDone
  /-- BACKUP_DOMAIN_LOSS (R85): With VIO absent and VBAK below 1.8 V, the backup domain loses its contents. -/
  | backupDomainLoss
  /-- POWER_DIE_THERMAL_RECOVERY (R95): The power die falls below 135 °C and load channels return to their commanded state. -/
  | powerDieThermalRecovery
  /-- PHASE_P3 (R137): The Ronif slot is loaded and checked, and shadow pages are filled and applied. -/
  | phaseP3
  /-- PHASE_P4 (R674): The firmware bank is checked and loaded, and the cores and the event log start. -/
  | phaseP4
  /-- PHASE_P5 (R370): The heartwood bank is loaded, its check value computed, and the registers restored from the newest save entry. -/
  | phaseP5
  /-- WAIT_SUPPLY_END (R119): VPWR, VPOS12 and VNEG12 come into range, so P6 begins after waiting. -/
  | waitSupplyEnd
  /-- DECISION_WINDOW_END (R184): At the end of the decision window requests are paired with candidate boughs, and assigned or withheld. -/
  | decisionWindowEnd
  /-- EMERGENCY_STOP_RELEASE (R268): Both inputs are high for 1.0 s and the stop releases. -/
  | emergencyStopRelease
  /-- ESTOP_DISCREPANCY (R268): The inputs disagree longer than ESTOP_DISC, and discrepancy fault code 2 is latched. -/
  | estopDiscrepancy
  /-- HEARTBEAT_PERIOD_MISSED (R274): 10 ms of the power die oscillator pass without the next valid heartbeat. -/
  | heartbeatPeriodMissed
  /-- HEARTWOOD_CONVERSION (R363): At least once per second every register is converted to Wh with its carry. -/
  | heartwoodConversion
  /-- RATE_EVALUATION (R395): At each quarter-hour of local time the rate in force is evaluated again. -/
  | rateEvaluation
  /-- BILLING_BOUNDARY (R403): Calendar time reaches a demand-interval boundary and the interval is closed, priced, signed and saved. -/
  | billingBoundary
  /-- READING_RELEASE (R416): Once the covering save entry is complete, readings enter the queue and are recorded as event 0x0701. -/
  | readingRelease
  /-- CHECK_VALUE_RECOMPUTE (R422): Every 24 h of OPTIME, or on display request, the check value is recomputed and compared. -/
  | checkValueRecompute
  /-- ISENSE_SCAN_STEP (R452): Every SCAN_MS the sense mirror moves to the next channel of SCAN_MASK. -/
  | isenseScanStep
  /-- DISPLAY_UPDATE (R477): The heartwood writes the four display lines as one update. -/
  | displayUpdate
  /-- DISPLAY_FRAME_START (R477): At a frame start the lines that differ from the latest update are copied. -/
  | displayFrameStart
  /-- VLCD_ADJUST (R473): Once per second the VLCD target is adjusted for temperature. -/
  | vlcdAdjust
  /-- DISPLAY_RESTART (R473): 10 s after a VLCD fault the display restarts under the start sequence. -/
  | displayRestart
  /-- UPDATE_TIMEOUT (R478): No update reaches the display for 3 s, so it performs the ordered stop. -/
  | updateTimeout
  /-- DISPBTN_PRESS (R479): A press is recognised and ends low-power mode or advances the page. -/
  | dispbtnPress
  /-- DISPBTN_HOLD (R479): A press held for 2 s returns to the home page. -/
  | dispbtnHold
  /-- PAGE_IDLE_RETURN (R479): IDLE_S seconds without a press return to the home page. -/
  | pageIdleReturn
  /-- LOW_POWER_ENTRY (R480): LP_S seconds without a press and no energised bough put the display into low-power mode. -/
  | lowPowerEntry
  /-- TURN_START (R500): The coordinator begins a turn and sends its beacon. -/
  | turnStart
  /-- BEACON_LISTEN_END (R506): The listening time passes without a beacon, so a station with RANK 1 to 15 becomes coordinator. -/
  | beaconListenEnd
  /-- BEACON_MISSED (R507): A member misses a beacon, and at the fifth it enters election. -/
  | beaconMissed
  /-- LOAD_ALLOCATION (R516): Every LM_TURNS the load manager allocates ceilings and broadcasts a ceiling frame. -/
  | loadAllocation
  /-- CEILING_VALIDITY_EXPIRED (R517): CEIL_VALID turns pass without a new frame, so FALLBACK_CEIL applies and event 0x0A08 is recorded. -/
  | ceilingValidityExpired
  /-- TRIP_FOLLOW_EXPIRED (R518): 30 s after a followed trip the zero site ceiling ends. -/
  | tripFollowExpired
  /-- MESSAGE_COUNTER_ROLLOVER (R513): The message count would pass 0xFF_FFFF, so the counter takes the current OPTIME and restarts at 0. -/
  | messageCounterRollover
  /-- FIELD_LEFT (R553): The reader field leaves and FDETN is released. -/
  | fieldLeft
  /-- TAG_POWER_UP (R547): The tag powers up from the field or VIO and reads its journal headers. -/
  | tagPowerUp
  /-- HLTB (R537): The tag halts and answers only WUPB until the field is removed. -/
  | hltb
  /-- TAG_INFO (R545): A field INFO returns page 0, the field level and the trunk-hold bit. -/
  | tagInfo
  /-- METER_SNAPSHOT (R544): Every 3,600 s of OPTIME a meter snapshot is written to the tag pages. -/
  | meterSnapshot
  /-- LIFECYCLE_APPLY (R566): An accepted transition applies at the next millisecond tick and programs its fuse. -/
  | lifecycleApply
  /-- MASK_RENEWAL (R563): Every 8 s or 64 s a new mask is XORed into both shares of each root. -/
  | maskRenewal
  /-- OSCILLATOR_DETECTOR (R578): No 32.768 kHz edge for 4 ms declares a tamper. -/
  | oscillatorDetector
  /-- DRBG_RESEED (R575): Each second the DRBG is reseeded from the entropy source. -/
  | drbgReseed
  /-- SCRUB_ROW (R603): The trunk scrubber visits a row of main SRAM or the ledger and corrects it. -/
  | scrubRow
  /-- HEARTWOOD_SCRUB_ROW (R603): The heartwood scrubber visits a heartwood SRAM row off the trunk. -/
  | heartwoodScrubRow
  /-- FIELD_MAP_WRITE (R611): A field repair map entry is programmed for a soft repair or lane repair. -/
  | fieldMapWrite
  /-- RECORD_WRITE (R637): The recorder takes a queued event, assigns SEQ and writes it to its ring. -/
  | recordWrite
  /-- BUDGET_WINDOW_END (R644): At each window end events 0x0E03 are written for codes over budget and the counts clear. -/
  | budgetWindowEnd
  /-- HISTOGRAM_SNAPSHOT (R646): Every 3,600 s of OPTIME a histogram snapshot is written to flash. -/
  | histogramSnapshot
  /-- TAG_HISTOGRAM_SUMMARY (R647): Every 86,400 s of OPTIME histogram summaries are written to tag pages 24 to 63. -/
  | tagHistogramSummary
  /-- FATAL_RESTART (R652): After the dump, or when coils are open or FATAL_WAIT passes, the device restarts or enters fatal hold. -/
  | fatalRestart
  /-- ACTIVATION_CONDITION (R681): The activation condition holds, so draining begins and idle boughs are held. -/
  | activationCondition
  /-- DRAIN_END (R681): Every bough is held, so a save is made, the directory written and the device reset. -/
  | drainEnd
  /-- DRAIN_TIMEOUT (R681): WAIT_MAX passes before draining ends, so holds are released and event 0x0F09 is recorded. -/
  | drainTimeout
  /-- CONFIRMATION_WINDOW_END (R684): The window ends without confirmation, so the device confirms itself or writes STATE 4 and restarts. -/
  | confirmationWindowEnd
  /-- COMMAND_DISPATCH (R709): A queued command is passed to its subsystem within 1 ms or refused with event 0x0001. -/
  | commandDispatch
  /-- HOST_BAD_OPCODE (R697): A transaction with an unknown opcode is ignored and counted in BAD_OP. -/
  | hostBadOpcode
  /-- HCSN_CUT (R703): HCSN rises within a byte, and the partial byte is discarded and counted in CUT. -/
  | hcsnCut
  /-- BULK_RELEASE (R725): Writing RELEASE to HST_BULK ends state 3 and frees the bulk window. -/
  | bulkRelease
  /-- CZC_EDGE_ABSENT (R501): No CZC edge arrives within 25 ms of the expected one, so zero-cross alignment ends and the coordinator runs 40 ms turns. -/
  | czcEdgeAbsent
  /-- HCSN_FALLING (R734): HCSN falls to open a host transaction; a running host-port BIST slice ends within 1 µs, the port is restored and the slice is retried later. -/
  | hcsnFalling
  deriving DecidableEq, Repr

end Sys2Proof
end

