-- ==== Sys2Proof/Config.lean ====
section
/-! DEFINITION. What the spec leaves open and what it takes from outside itself: free values, the cryptographic
functions it names by standard, and the results of analogue measurement that it gives no arithmetic for. Every constant
is opaque: nothing in Lean can prove a value of it. -/

namespace Sys2Proof

/-- A free value of w bits; the argument is the model's counter (log entry 4). -/
opaque Config.freeValue {w : Nat} : Nat → BitVec w

/-- The public key of the Ed448 SECC key, whose secret is HKDF output (R571, R586), by RFC 8032. -/
opaque Config.ed448Public : List Byte → BitVec 456

/-- The signature that Orlar's code key made for a message: ECDSA P-384 over its SHA-384, r then s (R673, R674). -/
opaque Config.codeSignature : List Byte → BitVec 768

/-- Another signature verifies with Orlar's code key (R674). -/
opaque Config.otherSignature : List Byte → List Byte → Bool

/-- Random output of the device's DRBG or entropy cells (R575, R563); the argument is the model's counter. -/
opaque Config.random : Nat → BitVec 256

/-- The NID that ISO 15118-3 derives from an NMK (R188). -/
opaque Config.nidOfNmk : List Byte → BitVec 56

/-- The voltage v[n - D] interpolated in a phase's history, newest first, D in 1/256 sample (R349). -/
opaque Config.interpolate : List Int → Nat → Int

/-- Whether the device rounds an inexact result of this numerator and divisor up, where the spec gives no rounding. -/
opaque Config.roundUp : Int → Nat → Bool

/-- What the device takes for a quotient whose divisor is 0, where the spec states no result. -/
opaque Config.quotByZero : Int → Int

/-- Salt of the keys derived from a site key (R513). -/
opaque Config.canopySalt : List Byte

/-- Body of a tone map frame, which the spec lays out nowhere (R498): number, bits per symbol. -/
opaque Config.toneMapBody : Nat → Nat → List Byte

/-- Body of a join request, which the spec lays out nowhere (R506). -/
opaque Config.joinBody : List Byte

/-- Angles of the fundamental of a block, in 10⁻⁵ degree: bough, phase or pair, block count (R355). -/
opaque Config.angle : Nat → Nat → Nat → Int

/-- Cosine of an angle in 10⁻⁵ degree, in 1/10,000 (R355). -/
opaque Config.cosine : Int → Int

/-- The factory-fuse base of the modem MAC addresses, a locally administered address (R177). -/
opaque Config.fuseMac : BitVec 48

/-- Factory fuse correction of a bough's reserve: RGAIN × 2³⁰, ROFF, RDELAY (R323). -/
opaque Config.fuseCorrection : Bough → Nat × Int × Int

/-- Signature of a logic BIST run of a partition held in the active firmware bank (R615). -/
opaque Config.bistSignature : Fin 14 → BitVec 32

/-- The power entries of the schedules offered to a vehicle: bough, ms (R192, R193). -/
opaque Config.schedules : Bough → Nat → List (List Nat)

/-- The reason byte of event 0x0303, which the spec gives no numbers for (R238): 0 accepted, 1 contract chain failed, 2
refused by the host, 3 blocked, 4 in use, 5 no credit, 6 host required, 7 no identifier accepted, 8 no tariff, 9
displaced. -/
opaque Config.authReason : Nat → BitVec 8

/-- What a register field shows when its value does not fit and the spec states no saturation: field, value. -/
opaque Config.overflow : Nat → Nat → BitVec 32

/-- The stop reason of a session that a hold ends, which R215 gives no code for: 0 SAF_HOLD, 1 update, 2 fatal error. -/
opaque Config.holdReason : Nat → BitVec 8

/-- LAST_CAUSE of an opening by the fail-safe cause "link frames", which R278 gives no trip code for. -/
opaque Config.linkCause : BitVec 8

/-- The failure byte of event 0x0405, which R266 gives no numbers for: 0 does not turn off, 1 current not restored, 2 does
not move. -/
opaque Config.testFailure : Nat → BitVec 8

/-- Register file and status of a failed core in a dump, 512 bytes (R657). -/
opaque Config.dumpCore : Nat → List Byte

/-- The main SRAM regions that the failed partition's firmware lists (R657). -/
opaque Config.dumpRegions : Nat → List Byte

/-- Count and addresses of the words found uncorrectable while dumping (R657). -/
opaque Config.dumpBadWords : Nat → List Byte

/-- Messages that the heartwood mailbox holds beyond the first (R66); the spec gives no number. -/
opaque Config.mailboxMore : Nat

end Sys2Proof
end

