-- ==== Sys2Proof/Machine/State.lean ====
section
/-! DEFINITION. The machine's state as plain data: every register, counter, queue and flag that the spec gives the
GHL-8 (INVENTORY.md, State), its faults and refusals, and the state right after reset. -/

namespace Sys2Proof.Machine

/-- Pilot state as VEH_PORT_STAT reports it (R200). -/
inductive PilotState where
  | A | B | C | D | E | F | fault
  deriving DecidableEq, Repr

/-- Output mode of the pilot generator (R162). -/
inductive OutMode where
  | off | x1 | x2 | f
  deriving DecidableEq, Repr

/-- Session state (R213). -/
inductive SesState where
  | idle | connected | authorising | authorised | energising | charging | suspended | stopping | finished | faulted
  deriving DecidableEq, Repr

/-- Step of a closing sequence (R260, R261). -/
inductive Closing where
  | none
  /-- AC: coil 1 driven (step 3 of R260 follows). -/
  | acFirst
  /-- DC: coil 1 driven (step 3 of R261 follows). -/
  | dcFirst
  /-- AC: coils driven, contacts not yet confirmed (step 4 of R260). -/
  | acConfirm
  /-- DC: coils 1 and 2 driven (step 4 of R261). -/
  | dcLink
  /-- DC: coil 0 driven (step 5). -/
  | dcMain
  /-- DC: coil 2 released (step 6). -/
  | dcRelease
  /-- DC: insulation check (step 7). -/
  | dcInsulation
  /-- DC: protocol pre-charge (step 8). -/
  | dcPrecharge
  deriving DecidableEq, Repr

/-- Causes of the power die's fail-safe (R277, R290). -/
inductive FsCause where
  | wdog | estop | vpwr | thermal | link
  deriving DecidableEq, Repr

/-- State of the display (R486). -/
inductive LcdState where
  | off | pump | clearing | showing | lowPower | stopping
  deriving DecidableEq, Repr

/-- The digital output and bidirectional pins of R97. -/
inductive Pin where
  | hirqn | hsio (i : Fin 4) | mck | mcsn | mdq (i : Fin 8) | mdqs | mrstn | tdo | rstoutn | isel (i : Fin 5) | fdetn
  deriving DecidableEq, Repr

/-- What a digital pin shows (R97). -/
inductive PinLevel where
  | low | high | highZ
  /-- An open-drain output that does not pull. -/
  | released
  /-- Driven by an access to a memory or by the host's transfer. -/
  | transfer
  deriving DecidableEq, Repr

/-- Drive level of a COM or SEG pin (R471): 0, VLCD/3, 2·VLCD/3, VLCD. -/
inductive LcdLevel where
  | v0 | v1 | v2 | v3
  deriving DecidableEq, Repr

/-- The payload of a beacon (R505). -/
structure Beacon where
  turn : BitVec 32
  caltime : BitVec 32
  /-- Fraction of CALTIME in 1/65,536 s. -/
  calFrac : Nat
  offset : Byte
  turnKnown : Bool
  timeKnown : Bool
  czcAligned : Bool
  keyIdx : Bool
  turnLen : Nat
  pwLen : Nat
  rank : Nat
  members : Nat
  memberMap : BitVec 64
  /-- Station, start in symbols, length in symbols. -/
  slots : List (Nat × Nat × Nat)
  deriving DecidableEq, Repr

/-- The device's answer to a vehicle (R190, R192). -/
inductive Reply where
  | sdpResponse | protocolChosen | ok | ongoing | failed | refused
  /-- DC_CableCheck finished, with the isolation status of R747 (1 valid, 2 warning, 3 fault, 4 No_IMD). -/
  | isolation (status : Nat)
  /-- A response that carries the stop: 1 StopCharging, 2 Terminate, 3 EVSE_Shutdown (R216). -/
  | stopNotice (kind : Nat)
  /-- CM_SLAC_PARM.CNF of the assigned bough's modem: its MAC, the sounds expected, C_EV_match_MNBC time in ms and the security
  type (R180, R183). -/
  | slacParmCnf (mac : List Byte) (sounds timeoutMs security : Nat)
  /-- CM_ATTEN_CHAR.IND: the profile of the assigned bough, one attenuation for each of the 58 groups (R180, R183). -/
  | attenCharInd (profile : List Nat)
  /-- CM_SLAC_MATCH.CNF: the bough's NID and its new NMK (R183, R188). -/
  | slacMatchCnf (nid nmk : List Byte)
  /-- The schedules offered: tuples of power entries (R192 to R194); none as an entry is unlimited. -/
  | schedules (tuples : List (List (Option Nat)))
  /-- CM_VALIDATE.CNF with its result. -/
  | validate (result : Nat)
  deriving DecidableEq, Repr

/-- What a stop sends in a handshake slot (R35): from its pass buffer or from a port that injects. -/
structure Pick where
  /-- in transit, or injected; R35. -/
  transit : Bool := true
  /-- class; R34. -/
  cls : Fin 4 := 0
  /-- port of the stop; R35. -/
  port : Nat := 0
  deriving DecidableEq, Repr

/-- One trunk segment (R26, R28): its spare lane, its mode and what crosses it. -/
structure Seg where
  /-- lane 0..7; R29. -/
  carried : Option Nat := none
  /-- 1; R31. -/
  spareBad : Bool := false
  /-- 1; R30. -/
  half : Bool := false
  /-- 9; R30. -/
  failed : BitVec 9 := 0
  /-- up to 3 masks; R29. -/
  attempts : List (BitVec 9) := []
  /-- the flit started on the segment; R29, R35. -/
  sending : Option Pick := none
  /-- first half of it crossed; R30. -/
  halfSent : Bool := false
  /-- handshakes per class; R60. -/
  load : Vector Nat 4 := Vector.replicate 4 0
  deriving DecidableEq, Repr

/-- The trunk: lanes, pass buffers, pace, class loads and crossing buffers. -/
structure Trunk where
  /-- 23 segments; R26. -/
  seg : Vector Seg 23 := Vector.replicate 23 {}
  /-- 0..2 flits per class, oldest first; R36, R39. -/
  pass : Vector (Vector (List Flit) 4) 23 := Vector.replicate 23 (Vector.replicate 4 [])
  /-- flits that wait at a stop's ports, oldest first; R35, R39. -/
  inject : Vector (List Flit) 23 := Vector.replicate 23 []
  /-- port served last per class; R35. -/
  lastPort : Vector (Vector Nat 4) 23 := Vector.replicate 23 (Vector.replicate 4 0)
  /-- 13; R59. -/
  resends : Nat := 0
  /-- 5; R59. -/
  lastSeg : Nat := 0
  /-- 4; R59. -/
  lastLane : Nat := 0
  /-- 10; R32, R723. -/
  hstPace : Nat := 0
  /-- 10; R58. -/
  paceMin : Nat := 1023
  /-- 10; R58. -/
  paceMax : Nat := 0
  /-- 5; R58. -/
  minSeg : Nat := 0
  /-- 1; R58. -/
  paceLow : Bool := false
  /-- 0..10; R33. -/
  paceOk : Nat := 0
  /-- 8 each; R60. -/
  peak : Vector Nat 4 := Vector.replicate 4 0
  /-- 6; R57, R68. -/
  capNow : Nat := 6
  /-- 0..64 flits; R51. -/
  smpFill : Vector Nat 2 := Vector.replicate 2 0
  /-- 8; R61. -/
  smpPeak : Nat := 0
  /-- 0..8192 bytes; R51. -/
  vrxFill : Vector Nat 8 := Vector.replicate 8 0
  /-- 8; R61. -/
  vrxPeak : Nat := 0
  /-- 8; R61. -/
  vrxPeakId : Nat := 0
  /-- 0..16384 bytes; R51. -/
  crxFill : Nat := 0
  /-- 8; R61. -/
  crxPeak : Nat := 0
  /-- count per second; R49. -/
  overrun : Vector Nat 23 := Vector.replicate 23 0
  /-- one tick; R49. -/
  heldTick : Vector (Option Tick) 23 := Vector.replicate 23 none
  /-- queue; R66. -/
  mailbox : List Mail := []
  /-- queue; R66. -/
  mailWait : List Mail := []
  deriving DecidableEq, Repr

/-- The tick lattice, the crystals and the operating stamp. -/
structure Lattice where
  /-- 1; R45, R121. -/
  running : Bool := false
  /-- count; R45. -/
  us : Nat := 0
  /-- microseconds since the last millisecond tick; R164. -/
  usInMs : Nat := 0
  /-- count; R45. -/
  ms : Nat := 0
  /-- 24 (SEQ); R311. -/
  smp : Nat := 0
  /-- count; R45. -/
  opTicks : Nat := 0
  /-- count; R45. -/
  sec : Nat := 0
  /-- 1; R48. -/
  pllLost : Bool := false
  /-- 0..3; R47. -/
  devRun : Nat := 0
  /-- 0..3; R47. -/
  devOk : Nat := 0
  /-- 1; R47. -/
  deviating : Bool := false
  /-- 1; R123. -/
  stampOn : Bool := false
  /-- 24; R18. -/
  cycles : Nat := 0
  /-- 40; R18. -/
  optime : Nat := 0
  deriving DecidableEq, Repr

/-- One of the crypto engine's 32 key registers with its handle (R573). -/
structure KeyReg where
  /-- 0..31; R573. -/
  handle : Nat := 0
  /-- 5; R573. -/
  stop : Nat := 0
  /-- label; R571. -/
  label : KeyLabel := .roniAuth
  deriving DecidableEq, Repr

/-- The crypto engine: the operation running, the queue, the key registers, the random source. -/
structure Crypto where
  /-- one operation; R43. -/
  running : Option CryptoReq := none
  /-- requests in arrival order; R43. -/
  queue : List CryptoReq := []
  /-- at most 32; R573. -/
  keys : List KeyReg := []
  /-- 1; R583. -/
  drbgOk : Bool := false
  /-- count; R575. -/
  drbgReseeds : Nat := 0
  /-- a health test failed and no retest has passed; R575. -/
  drbgFail : Bool := false
  /-- the fell line fired during the running operation; R587. -/
  fellOp : Bool := false
  /-- results returned, newest first; R574. -/
  results : List CryptoResult := []
  deriving DecidableEq, Repr

/-- One 32-byte result of the energy engine for a bough (R361). -/
structure EngResult where
  /-- 24; R361. -/
  seq : Nat := 0
  /-- 8; R361. -/
  flags : BitVec 8 := 0
  /-- 64; R361. -/
  totalA : BitVec 64 := 0
  /-- 64; R361. -/
  totalB : BitVec 64 := 0
  /-- 64; R361. -/
  totalC : BitVec 64 := 0
  /-- 32; R361. -/
  aux : BitVec 32 := 0
  deriving DecidableEq, Repr

/-- Supply monitors, die temperatures and the backup switch-over. -/
structure Supply where
  /-- 13; R109. -/
  inRange : BitVec 13 := 0
  /-- 13; R86. -/
  tripped : BitVec 13 := 0
  /-- 13; R86, R116. -/
  trippedHigh : BitVec 13 := 0
  /-- 5; R109. -/
  lastTrip : Nat := 31
  /-- 1; R109. -/
  lastHigh : Bool := false
  /-- 1; R87, R116. -/
  resetHeld : Bool := false
  /-- a reset by a monitor holds RSTOUTN; R87. -/
  rstHold : Bool := false
  /-- 8 signed; R108. -/
  tLogic : Int := 0
  /-- 8 signed; R108. -/
  tMixed : Int := 0
  /-- 8 signed; R108. -/
  tPower : Int := 0
  /-- 1; R94. -/
  warned : Bool := false
  /-- 1; R95. -/
  shutdown : Bool := false
  /-- 1; R79. -/
  vioh33 : Bool := false
  deriving DecidableEq, Repr

/-- The start controller: phase, stop, image in use. -/
structure Start where
  /-- 4; R147. -/
  phase : Nat := 0
  /-- 4; R147. -/
  stopPhase : Nat := 0
  /-- 8; R147. -/
  stopReason : Nat := 0
  /-- phases completed, 0..8; R121. -/
  done : Nat := 0
  /-- 1; R116. -/
  released : Bool := false
  /-- 1; R147. -/
  ronifSlot : Nat := 0
  /-- 1; R147. -/
  fwBank : Nat := 0
  /-- 1; R147. -/
  hwBank : Nat := 0
  /-- 1; R147. -/
  waitSupply : Bool := false
  /-- supplies that tripped during P6; R161. -/
  waitFor : BitVec 13 := 0
  /-- stop to enter after the pattern test: phase, reason; R126. -/
  stopNext : Option (Nat × Nat) := none
  /-- 11; R147. -/
  startMs : Nat := 0
  /-- 16; R148. -/
  loaded : Nat := 0
  /-- 8; R148. -/
  ignored : Nat := 0
  /-- 8; R148. -/
  missing : Nat := 0
  /-- 32; R149. -/
  ronifSeq : Nat := 0
  /-- 16; R132. -/
  ronifFormat : Nat := 0
  /-- 16 bytes; R132, R541. -/
  ronifLabel : List Byte := []
  /-- table records in force; R135. -/
  tables : List (Nat × List Byte) := []
  /-- 1; R118. -/
  rstOutN : Bool := false
  /-- 1; R118. -/
  mrstN : Bool := false
  /-- 1; R125. -/
  selfChecked : Bool := false
  /-- 1; R125. -/
  ledgerBuilt : Bool := false
  /-- 1; R723. -/
  lifeValid : Bool := false
  /-- 1; R126 reason 3. -/
  fuseOk : Bool := true
  /-- channels of the phase's load that halted; R601. -/
  loadHalts : Nat := 0
  /-- 1; R683. -/
  trial : Bool := false
  deriving DecidableEq, Repr

/-- A message of the event queue (R705). -/
structure Msg where
  /-- 16; R705. -/
  type : Nat := 0
  /-- 8; R705. -/
  bough : Nat := 255
  /-- 8; R705. -/
  seq : Nat := 0
  /-- 16; R705. -/
  tag : Nat := 0
  /-- 0..4088 bytes; R705. -/
  body : List Byte := []
  deriving DecidableEq, Repr

/-- The host port: queues, interrupts, bulk window, counters, shadow pages and commits. -/
structure HostPort where
  /-- 64 KiB, bytes at 0x01_0000..0x01_FFFF; R141. -/
  shadow : List Host.Cell := []
  /-- 64 KiB; R141. -/
  applied : List Host.Cell := []
  /-- one snapshot per subsystem; R143. -/
  snaps : List (Nat × List Host.Cell) := []
  /-- 16; R150. -/
  pendingC : BitVec 16 := 0
  /-- 16; R150. -/
  rejected : BitVec 16 := 0
  /-- 16; R144. -/
  passed : BitVec 16 := 0
  /-- 16; R722. -/
  doneC : BitVec 16 := 0
  /-- 8; R151. -/
  safLeft : BitVec 8 := 0
  /-- 8; R151. -/
  sesLeft : BitVec 8 := 0
  /-- 8; R151. -/
  vehLeft : BitVec 8 := 0
  /-- boughs that have not applied a sampling commit; R145. -/
  mtrLeft : BitVec 8 := 0
  /-- boughs that have not applied an energy commit; R145. -/
  nrgLeft : BitVec 8 := 0
  /-- subsystems whose device-wide fields have not applied; R145. -/
  devLeft : BitVec 16 := 0
  /-- 8; R151. -/
  superseded : Nat := 0
  /-- 12 (latched bits); R721. -/
  irq : BitVec 12 := 0
  /-- 12; R721. -/
  irqEn : BitVec 12 := 0
  /-- 32; R725. -/
  scratch : BitVec 32 := 0
  /-- 16 KiB; R709. -/
  cq : List (List Byte) := []
  /-- 16; R724. -/
  accepted : Nat := 0
  /-- 8; R724. -/
  dropped : Nat := 0
  /-- 8; R724. -/
  lastReason : Nat := 0
  /-- 64 KiB; R712. -/
  eq : List Msg := []
  /-- 8; R724. -/
  eqSeq : Nat := 0
  /-- 8; R724. -/
  eqLost : Nat := 0
  /-- 1; R714. -/
  lostNoted : Bool := false
  /-- 2; R716. -/
  bulkState : Nat := 0
  /-- 16; R725. -/
  bulkType : Nat := 0
  /-- 32; R725. -/
  bulkLen : Nat := 0
  /-- 256 KiB; R704. -/
  bulk : List Host.Cell := []
  /-- 16; R724. -/
  ignoredW : Nat := 0
  /-- 8; R724. -/
  badOp : Nat := 0
  /-- 8; R724. -/
  cut : Nat := 0
  /-- 1; R734. -/
  bistRunning : Bool := false
  /-- 1; R734. -/
  bistRetry : Bool := false
  /-- 1; R697. -/
  csLow : Bool := false
  deriving DecidableEq, Repr

/-- One vehicle port: pilot, proximity, modem link (chapter "Vehicle ports"). -/
structure Port where
  /-- 4; R200. -/
  state : PilotState := .F
  /-- 2; R200. -/
  out : OutMode := .off
  /-- 1; R200. -/
  diode : Bool := false
  /-- 1; R200. -/
  ppValid : Bool := false
  /-- 4; R200. -/
  ppCode : Nat := 0
  /-- 10; R200. -/
  duty : Nat := 0
  /-- 10; R200. -/
  offered : Nat := 0
  /-- 16 signed; R201. -/
  posMv : Int := 0
  /-- 16 signed; R201. -/
  negMv : Int := 0
  /-- state; R168. -/
  cand : PilotState := .F
  /-- 0..3; R168. -/
  candRun : Nat := 0
  /-- 0..10; R168. -/
  badRun : Nat := 0
  /-- 1 invalid, 2 diode, 3 state E; R203. -/
  badKind : Nat := 0
  /-- 1: mode F left, state A not yet confirmed; R122, R168. -/
  fresh : Bool := false
  /-- mode, duty and offered current that wait for the rising edge; R164. -/
  next : Option (OutMode × Nat × Nat) := none
  /-- the current asked exceeds 80 A; R170. -/
  limited : Bool := false
  /-- state B confirmed since state A, with digital communication; R172. -/
  digitalOn : Bool := false
  /-- 4; R175. -/
  ppCand : Nat := 0
  /-- 0..3; R175. -/
  ppRun : Nat := 0
  /-- 16; R744. -/
  ppOhm : Nat := 0
  /-- sum of channel 14 in the running 10 ms, counts; R173. -/
  ppSum : Int := 0
  /-- its samples; R173. -/
  ppN : Nat := 0
  /-- 16; R744. -/
  rating : Nat := 0
  /-- 16; R210. -/
  ratingUse : Nat := 0
  /-- 4; R202. -/
  slac : Nat := 0
  /-- 2; R202. -/
  proto : Nat := 0
  /-- 1; R202. -/
  tls : Bool := false
  /-- 8; R202. -/
  atten : Nat := 0
  /-- 8; R202. -/
  margin : Nat := 0
  /-- 8; R202. -/
  retx : Nat := 0
  /-- the SLAC window has opened since state A; R181. -/
  winDone : Bool := false
  /-- the earlier bough that stagger waits for; R206. -/
  awaits : Option Bough := none
  /-- 1; R181. -/
  winOpen : Bool := false
  /-- order of confirmation of state B; R206. -/
  confirmSeq : Nat := 0
  /-- 6 bytes of the associated vehicle; R203. -/
  mac : List Byte := []
  /-- 16 bytes; R188. -/
  nmk : List Byte := []
  /-- 7 bytes; R188. -/
  nid : List Byte := []
  /-- 1: current by PWM after the SLAC window; R183. -/
  fallback : Bool := false
  deriving DecidableEq, Repr

/-- A block of a frame that a vehicle modem has sent (R205). -/
structure SentBlock where
  /-- number; R205. -/
  seq : Nat := 0
  /-- 1..4; R205. -/
  attempts : Nat := 0
  /-- its payload; R205. -/
  data : List Byte := []
  deriving DecidableEq, Repr

/-- The modem's frames and the protocol state of one port. -/
structure PortLink where
  /-- blocks of the frame in flight, held until acknowledged; R205. -/
  txBlocks : List SentBlock := []
  /-- blocks that wait for the next frame; R205. -/
  waitBlocks : List TxBlock := []
  /-- 1: the next frame holds the failed blocks only; R205. -/
  resend : Bool := false
  /-- variable fields that the DSP has set in the front end's templates: the NID; R44. -/
  template : List Byte := []
  /-- symbols of the last received frame whose carrier values were erased; R204. -/
  rxErased : List Bool := []
  /-- sum of squares of the last symbol; R204. -/
  symSq : Nat := 0
  /-- its samples; R204. -/
  symN : Nat := 0
  /-- 1: a built frame waits; R52. -/
  txWaiting : Bool := false
  /-- 0..128 symbols built; R52. -/
  txSymbols : Nat := 0
  /-- 1; R209. -/
  transmitting : Bool := false
  /-- blocks in place; R204. -/
  rxBlocks : List (Nat × List Byte) := []
  /-- blocks named failed in the last acknowledgement; R204. -/
  ackFailed : List Nat := []
  /-- count since the last event 0x0209; R203. -/
  bursts : Nat := 0
  /-- ms of the last event 0x0209; R203. -/
  burstMs : Option Nat := none
  /-- requested B-C-B toggles; R187. -/
  valCount : Nat := 0
  /-- 1; R187. -/
  validating : Bool := false
  /-- 1 state B seen, 2 state C after it; R187. -/
  togglePh : Vector Nat 8 := Vector.replicate 8 0
  /-- toggles seen on every bough's pilot; R187. -/
  toggles : Vector Nat 8 := Vector.replicate 8 0
  /-- the last answer sent to the vehicle; R190. -/
  reply : Option Reply := none
  /-- 1: contract (PnC) payment chosen; R220. -/
  pnc : Bool := false
  /-- 1: payment option known; R220. -/
  payKnown : Bool := false
  /-- 1: a BPT service agreed; R232. -/
  bpt : Bool := false
  /-- service agreed; R193. -/
  service : Nat := 0
  /-- mobility needs mode agreed; R193. -/
  mobility : Nat := 0
  /-- SessionSetup has come; R195. -/
  setup : Bool := false
  /-- the TCP connection of the bough; R189. -/
  conn : Option Nat := none
  /-- cipher suite of the TLS connection; R189. -/
  cipher : Option Cipher := none
  deriving DecidableEq, Repr

/-- A SLAC request: source MAC and RUN_ID (R182). -/
structure SlacReq where
  /-- 6 bytes; R182. -/
  mac : List Byte := []
  /-- 8 bytes; R182. -/
  runId : List Byte := []
  /-- dB per bough; R182. -/
  atten : Vector Nat 8 := Vector.replicate 8 90
  /-- dB per bough of CM_START_ATTEN_CHAR.IND; R182. -/
  startAtten : Vector Nat 8 := Vector.replicate 8 90
  /-- attenuation groups of the valid sounds at the assigned bough; R180, R183. -/
  profiles : List (Vector Nat 58) := []
  /-- valid sounds; R185. -/
  sounds : List (Vector Nat 8) := []
  /-- sounds heard; R183. -/
  heard : Nat := 0
  /-- bough; R184. -/
  assigned : Option (Fin 8) := none
  /-- dB; R202. -/
  margin : Nat := 0
  /-- 1; R185. -/
  confirmed : Bool := false
  /-- heard in the running decision window; R184. -/
  heardNow : Bool := false
  deriving DecidableEq, Repr

/-- The joint association engine (R184 to R186). -/
structure Assoc where
  /-- requests in order of arrival; R184. -/
  reqs : List SlacReq := []
  /-- count ordering confirmations of state B; R206. -/
  confirms : Nat := 0
  /-- 6 bytes; R177. -/
  macBase : List Byte := []
  deriving DecidableEq, Repr

/-- A REMOTE grant or an offline grant (R230). -/
structure Grant where
  /-- signed 48; R230. -/
  amount : Int := 0
  /-- 32, seconds; 0 none; R230. -/
  expiry : Nat := 0
  /-- 1; R219. -/
  offline : Bool := false
  deriving DecidableEq, Repr

/-- An identifier held by a bough (R220). -/
structure Ident where
  /-- 1 eMAID, 2 credential, 3 EVCCID; R238. -/
  kind : Nat := 0
  /-- 1..32 bytes; R217. -/
  bytes : List Byte := []
  /-- chain verifies against a trust anchor; R218. -/
  chainOk : Bool := true
  /-- certificates within validity; R218. -/
  inDate : Bool := true
  /-- 16, tag of the SES_IDENT that brought it; R706. -/
  tag : Option Nat := none
  deriving DecidableEq, Repr

/-- The session of one bough. -/
structure Session where
  /-- 4; R243. -/
  state : SesState := .idle
  /-- 3; R243. -/
  authBy : Nat := 0
  /-- 3; R243. -/
  identKind : Nat := 0
  /-- 3; R243. -/
  binding : Nat := 0
  /-- 8; R243. -/
  stopReason : Nat := 0
  /-- at most 4; R220. -/
  held : List Ident := []
  /-- 32; R245. -/
  num : Nat := 0
  /-- W; R231, R244. -/
  ceilW : Nat := 0
  /-- 16; R244. -/
  acCeil : Nat := 0
  /-- priced cost, running total; R221, R245. -/
  cost : Nat := 0
  /-- cost already debited; R227. -/
  debited : Nat := 0
  /-- identifier being decided or that authorised; R220. -/
  current : Option Ident := none
  /-- 8 bytes; R217. -/
  digest : List Byte := []
  /-- ledger slot of the record in use; R222. -/
  slot : Option Nat := none
  /-- CLASS of the session; R234. -/
  remote : Bool := false
  /-- grant of a REMOTE session; R230. -/
  grant : Option Grant := none
  /-- grant waiting for the next one-second check; R230. -/
  newGrant : Option Grant := none
  /-- 1; R221. -/
  needsPricing : Bool := false
  /-- ms at which the session was authorised; R249. -/
  tookMs : Nat := 0
  /-- exact emergency credit used, money units; R227. -/
  ecUsed : Nat := 0
  /-- available credit at authorisation; R238. -/
  creditAtAuth : Int := 0
  /-- event 0x0306 sent; R238. -/
  lowSent : Bool := false
  /-- limit cut waiting for the next check; R247. -/
  cutTo : Option Int := none
  /-- inside a friendly window at the last check; R228. -/
  inFriendly : Bool := false
  /-- tag of event 0x0302 awaited; R218. -/
  waitTag : Option Nat := none
  /-- NO_TIME of event 0x0303; R218. -/
  noTime : Bool := false
  /-- 16, tag of the SES_STOP that event 0x0305 answers; R234, R236. -/
  stopTag : Option Nat := none
  /-- 16, tag of the session's last event 0x0302; R230, R248. -/
  reqTag : Option Nat := none
  deriving DecidableEq, Repr

/-- What a bough's session asks of the power stage and holds of the vehicle. -/
structure SesLink where
  /-- 1: the host ceiling's validity ends; R231, R234. -/
  ceilTimed : Bool := false
  /-- host ceiling in W while valid; R231. -/
  hostCeil : Option Nat := none
  /-- vehicle's maximum, W; R231. -/
  vehMax : Nat := 0
  /-- vehicle's minimum, W; R214. -/
  vehMin : Nat := 0
  /-- the last change of the ceiling lowered it; R233. -/
  lowered : Bool := false
  /-- 1: a charge parameter exchange gave a maximum; R231. -/
  hasMax : Bool := false
  /-- DC target voltage, mV; R232. -/
  targetV : Int := 0
  /-- current limit, mA; R232. -/
  targetI : Int := 0
  /-- 16 (COUNT); R232. -/
  reqCount : Nat := 0
  /-- FLAGS bit 3; R232. -/
  dynamic : Bool := false
  /-- FLAGS bit 0; R232. -/
  cableCheck : Bool := false
  /-- FLAGS bit 1; R232. -/
  preCharge : Bool := false
  /-- export asked and permitted; R232. -/
  discharge : Bool := false
  /-- holds a begin reading; R214. -/
  begun : Bool := false
  /-- holds an end reading; R214. -/
  ended : Bool := false
  /-- reached CHARGING; R645. -/
  charged : Bool := false
  /-- seconds in CHARGING; R645. -/
  chargeSecs : Nat := 0
  /-- import plus export Wh at the start; R645. -/
  startWh : Nat := 0
  /-- energy in Wh of the ended session, not yet counted; R645. -/
  endWh : Option Int := none
  /-- seconds in CHARGING of the ended session, not yet counted; R645. -/
  endSecs : Option Nat := none
  /-- step 1 of R216 taken; R216. -/
  stopIssued : Bool := false
  /-- intermediate reading waits for the weld check; R253. -/
  readOnWeld : Bool := false
  /-- 0 none, 1 StopCharging, 2 Terminate, 3 EVSE_Shutdown, 4 mode X1; R216. -/
  notify : Nat := 0
  /-- being held once its session lets it (update, fatal); R681, R652. -/
  held : Bool := false
  deriving DecidableEq, Repr

/-- Device-wide session state. -/
structure SesDev where
  /-- 32 (session counter); R245. -/
  counter : Nat := 0
  /-- 15; R706. -/
  tagCount : Nat := 0
  /-- 6; R246. -/
  probeMax : Nat := 0
  /-- sessions begun since the last histogram; R645. -/
  begun : Nat := 0
  deriving DecidableEq, Repr

/-- A ledger journal entry (R224). -/
structure JEntry where
  /-- 64; R224. -/
  opstamp : BitVec 64 := 0
  /-- 16 bytes; R224. -/
  record : List Byte := []
  /-- 32; R224. -/
  slot : Nat := 0
  /-- CRC holds; R224. -/
  crcOk : Bool := true
  /-- session number, cost debited and emergency credit used that the entry shows; R369. -/
  session : Option (Nat × Nat × Nat) := none
  deriving DecidableEq, Repr

/-- One half of the ledger journal (R224). -/
structure Half where
  /-- 4 MiB; R224. -/
  snapshot : List Host.Cell := []
  /-- header area reads all 0xFF; R226. -/
  erased : Bool := true
  /-- header and snapshot CRC hold; R224. -/
  headOk : Bool := false
  /-- 32; R224. -/
  generation : Nat := 0
  /-- at most 30,720; R224. -/
  entries : List JEntry := []
  deriving DecidableEq, Repr

/-- One coil channel (R255, R256). -/
structure Coil where
  /-- 1; R288. -/
  driven : Bool := false
  /-- pull-in has ended, the low side chops; R256. -/
  holding : Bool := false
  /-- ms at which the coil was driven; R256. -/
  sinceMs : Nat := 0
  /-- released, weld check due; R263. -/
  weldWait : Bool := false
  /-- weld check undetermined; R263. -/
  undet : Bool := false
  /-- weld declared; R300. -/
  welded : Bool := false
  /-- consecutive on-level checks, high side; R265. -/
  hiStuck : Nat := 0
  /-- as hiStuck, low side; R265. -/
  loStuck : Nat := 0
  /-- test passed since the last trip 12 or 13; R278. -/
  hiPassed : Bool := false
  /-- as hiPassed, low side; R278. -/
  loPassed : Bool := false
  deriving DecidableEq, Repr

/-- The latest side-path quantities of a bough (R25, R329). -/
structure SideVals where
  /-- µA; R269. -/
  ch7 : Int := 0
  /-- µV; R261. -/
  ch8 : Int := 0
  /-- µV (from the trunk frame); R258. -/
  ch10 : Int := 0
  /-- µV; R270. -/
  ch11 : Int := 0
  /-- µV; R270. -/
  ch12 : Int := 0
  /-- µV; R168. -/
  ch13 : Int := 0
  /-- µV; R173. -/
  ch14 : Int := 0
  /-- counts; R258. -/
  ch19 : Int := 0
  /-- counts; R258. -/
  ch20 : Int := 0
  /-- µV; R259. -/
  ch21 : Int := 0
  /-- channels whose S sample carries OVR; R746. -/
  ovr : BitVec 24 := 0
  /-- channels whose S sample carries SET; R316. -/
  set : BitVec 24 := 0
  /-- channels whose S path delivers the substitute; R327. -/
  fail : BitVec 24 := 0
  deriving DecidableEq, Repr

/-- The safety block's state for one bough. -/
structure SafBough where
  /-- 3 coils; R12. -/
  coils : Vector Coil 3 := Vector.replicate 3 {}
  /-- HELD by SAF_HOLD; R291. -/
  holdCmd : Bool := false
  /-- HELD by start; R139. -/
  holdStart : Bool := false
  /-- HELD by BIST or fatal error; R617, R652. -/
  holdOther : Bool := false
  /-- BRIDGE_CH left to its owner for a conflict of the image; R281. -/
  noBridge : Bool := false
  /-- HELD by the draining of an update; R681. -/
  holdUpd : Bool := false
  /-- latched trip codes, in order of latching; R295. -/
  latched : List Nat := []
  /-- latched codes since whose latching state A was confirmed; R278. -/
  seenA : List Nat := []
  /-- 8; R288. -/
  lastCause : Nat := 0
  /-- 8; R288. -/
  testsFailed : Nat := 0
  /-- closing sequence step; R260, R261. -/
  closing : Closing := .none
  /-- closing requested by the session engine; R214. -/
  closeReq : Bool := false
  /-- opening requested; R216. -/
  openReq : Bool := false
  /-- ordinary opening between its two releases; R262. -/
  opening : Bool := false
  /-- ms of the closing request; R292. -/
  reqMs : Nat := 0
  /-- 0 none, 1 valid, 2 warning, 3 fault, 4 not monitored; R747. -/
  isolation : Nat := 0
  /-- latest samples; R329. -/
  side : SideVals := {}
  /-- safety side path holds the state C or D; R168. -/
  pilotCD : Bool := false
  deriving DecidableEq, Repr

/-- Residual current and insulation of one bough. -/
structure SafMeas where
  /-- last 2,441 samples of channel 7, µA, newest first; R269. -/
  hist : List Int := []
  /-- last 488 samples of channel 0 from the trunk frames, counts, newest first; R258, R307. -/
  ch0Hist : List Int := []
  /-- last 1,220 samples of channel 11, µV, newest first; R270. -/
  vpHist : List Int := []
  /-- as vpHist, channel 12; R270. -/
  vnHist : List Int := []
  /-- 10; R289. -/
  acMa : Nat := 0
  /-- 12 signed; R289. -/
  dcMa : Int := 0
  /-- 0..8 samples; R269. -/
  fastRun : Nat := 0
  /-- 0..3 samples; R273. -/
  ovpRun : Nat := 0
  /-- 2; R289. -/
  imd : Nat := 0
  /-- result of step 7: 0 none yet, 1 valid, 2 warning, 3 fault; R747. -/
  check : Nat := 0
  /-- 8; R289. -/
  riso : Nat := 0
  /-- bridge state 0 or 1; R270. -/
  bridgeOn : Bool := false
  /-- mean Vp of the previous state; R270. -/
  prevVp : Option Int := none
  /-- mean Vn of the previous state; R270. -/
  prevVn : Option Int := none
  /-- consecutive results below the fault threshold; R271. -/
  faultRun : Nat := 0
  /-- consecutive warning results; R271. -/
  warnRun : Nat := 0
  /-- event 0x0406 recorded in this session; R271. -/
  warned : Bool := false
  deriving DecidableEq, Repr

/-- Device-wide safety state and the power die. -/
structure SafDev where
  /-- ESTOPAN taken as high; R290. -/
  estopA : Bool := false
  /-- ESTOPBN taken as high; R290. -/
  estopB : Bool := false
  /-- 1; R290. -/
  stop : Bool := false
  /-- 1; R290. -/
  disc : Bool := false
  /-- both inputs low together since the discrepancy; R268. -/
  discLow : Bool := false
  /-- fail-safe causes that hold; R277, R290. -/
  fsCauses : List FsCause := [.wdog]
  /-- 3 (FS_CAUSE); R290. -/
  fsReport : Nat := 0
  /-- 2; R290. -/
  wdog : BitVec 2 := 0
  /-- 6; R290. -/
  slot : Nat := 0
  /-- switches whose tests were skipped; R264. -/
  skipped : List Nat := []
  /-- 4, counter sent; R274. -/
  hbCount : Nat := 0
  /-- 4, next counter value; R274. -/
  hbExpect : Nat := 0
  /-- consecutive missed periods; R274. -/
  hbMissed : Nat := 0
  /-- consecutive valid heartbeats; R277. -/
  hbValid : Nat := 0
  /-- consecutive valid link frames; R277. -/
  linkValid : Nat := 0
  /-- failing link frames in the running 10 ms; R277. -/
  crcFails : Nat := 0
  /-- session cores serviced in the window; R276. -/
  serviced : BitVec 2 := 0
  /-- session cores stopped on a fatal error; R67. -/
  coreDead : BitVec 2 := 0
  /-- first heartbeat received since T0; R122. -/
  firstBeat : Bool := false
  deriving DecidableEq, Repr

/-- One sampling channel. -/
structure MtrCh where
  /-- own modulator marked failed; R336. -/
  failed : Bool := false
  /-- channel lost until the next start; R323. -/
  lost : Bool := false
  /-- M samples still carrying SET; R316. -/
  settle : Nat := 0
  /-- S samples still carrying SET; R316. -/
  settleS : Nat := 0
  /-- overload run; R746. -/
  ovrRun : Bool := false
  /-- sign of the overload; R746. -/
  ovrNeg : Bool := false
  /-- overload run on the S path; R746. -/
  ovrRunS : Bool := false
  /-- its sign; R746. -/
  ovrNegS : Bool := false
  /-- last nine outputs of M3, counts, newest first; R308, R313. -/
  m3 : List Int := []
  /-- OVR sample in the last block; R338. -/
  ovrBlock : Bool := false
  /-- OVR sample in the running block; R338. -/
  ovrNow : Bool := false
  /-- event 0x0501 recorded in this second; R340. -/
  ovrNoted : Bool := false
  /-- sample with OVR, FAIL or SET in the running block; R317. -/
  markNow : Bool := false
  /-- (k0 - 1) × 2^20; R320, R365. -/
  k0 : Option Int := none
  /-- re-admitted, waiting for a patrol visit; R339. -/
  readmit : Bool := false
  /-- last value y, counts; R312. -/
  value : Int := 0
  deriving DecidableEq, Repr

/-- Sums of one channel's samples in a measurement (R317, R320). -/
structure CalSum where
  /-- samples; R317. -/
  n : Nat := 0
  /-- their sum, counts; R317. -/
  sum : Int := 0
  /-- the sum of their squares; R317. -/
  sq : Nat := 0
  deriving DecidableEq, Repr

/-- A running MTR_CAL measurement (R317). -/
structure CalRun where
  /-- channels; R339. -/
  mask : BitVec 24 := 0
  /-- blocks wanted; R339. -/
  n : Nat := 0
  /-- reference channel; R339. -/
  ref : Nat := 255
  /-- raw samples; R339. -/
  raw : Bool := false
  /-- the first block boundary after the command has passed; R317. -/
  begun : Bool := false
  /-- blocks counted; R317. -/
  counted : Nat := 0
  /-- blocks passed; R317. -/
  passed : Nat := 0
  /-- the running block; R317. -/
  cur : Vector CalSum 24 := Vector.replicate 24 {}
  /-- the blocks counted; R317. -/
  tot : Vector CalSum 24 := Vector.replicate 24 {}
  /-- 16; R706. -/
  tag : Nat := 0
  deriving DecidableEq, Repr

/-- The sampling block of one bough. -/
structure Mtr where
  /-- 24 channels; R9. -/
  ch : Vector MtrCh 24 := Vector.replicate 24 {}
  /-- 5; R336. -/
  served : Nat := 31
  /-- 3; R336. -/
  rsvState : Nat := 0
  /-- 5; R337. -/
  rsvIn : Nat := 31
  /-- 8; R337. -/
  fitBlocks : Nat := 0
  /-- blocks passed in the fit; R325. -/
  fitPassed : Nat := 0
  /-- tag of the command that started the fit; R339. -/
  fitTag : Option Nat := none
  /-- fit started under R321; R325. -/
  fitPatrol : Bool := false
  /-- the fit has begun; R324. -/
  fitOn : Bool := false
  /-- a return is being compared; R326. -/
  returning : Bool := false
  /-- channel of a cold swap in progress; R323. -/
  coldCh : Option Nat := none
  /-- 16; R337. -/
  mismatch : Nat := 0
  /-- channel of the patrol visit; R320. -/
  patrolAt : Nat := 0
  /-- channels that mismatched in this cycle; R321. -/
  misNow : List Nat := []
  /-- channels that mismatched in the cycle before; R321. -/
  misPrev : List Nat := []
  /-- k of the last visit; R325. -/
  swapRatio : Int := 0
  /-- RGAIN × 2^30; R365. -/
  rgain : Nat := 1073741824
  /-- counts; R365. -/
  roff : Int := 0
  /-- 1/256 sample; R365. -/
  rdelay : Int := 0
  /-- running MTR_CAL; R317. -/
  cal : Option CalRun := none
  /-- last nine outputs of the reserve's M3, counts, newest first; R308. -/
  rsvM3 : List Int := []
  /-- samples until the reserve's chains are filled; R323, R324. -/
  rsvSettle : Nat := 0
  /-- overload run of the reserve; R746. -/
  rsvRun : Bool := false
  /-- its sign; R746. -/
  rsvNeg : Bool := false
  /-- raw samples of the channel visited; R320. -/
  visA : CalSum := {}
  /-- raw samples of the reserve in the visit; R320. -/
  visR : CalSum := {}
  /-- raw samples of the channel fitted, running block; R325. -/
  fitCur : CalSum := {}
  /-- raw samples of the channel fitted, blocks counted; R325. -/
  fitTot : CalSum := {}
  /-- reserve sample with OVR or SET in the running block; R325. -/
  rsvMark : Bool := false
  /-- the reserve modulator is marked failed; R321. -/
  rsvModFailed : Bool := false
  deriving DecidableEq, Repr

/-- One pip register with its residue (R356, R358). -/
structure PipReg where
  /-- 64; R356. -/
  count : BitVec 64 := 0
  /-- fraction in units of one over the denominator; R358. -/
  residue : Nat := 0
  deriving DecidableEq, Repr

/-- The energy pipeline of one bough. -/
structure Nrg where
  /-- 6 registers; R356. -/
  reg : Vector PipReg 6 := Vector.replicate 6 {}
  /-- 1; R375. -/
  noGrid : Bool := true
  /-- 1; R375. -/
  substBlk : Bool := false
  /-- 1; R375. -/
  gap : Bool := false
  /-- 1; R375. -/
  ovrBlk : Bool := false
  /-- 1; R375. -/
  dirExp : Bool := false
  /-- 2; R375. -/
  refCh : Nat := 0
  /-- block frequency, mHz; R375. -/
  freq : Nat := 0
  /-- consecutive valid cycles; R353. -/
  goodCyc : Nat := 0
  /-- consecutive periods out of range; R353. -/
  badCyc : Nat := 0
  /-- cycles in the running block; R353. -/
  cycles : Nat := 0
  /-- last cycle's period, 1/256 sample; R349. -/
  period : Nat := 0
  /-- samples since the last crossing; R352. -/
  crossN : Nat := 0
  /-- place of the last crossing after its sample, 1/256 sample; R352. -/
  crossFrac : Option Nat := none
  /-- frequency of the last cycle, mHz; R355. -/
  cycFreq : Nat := 0
  /-- running cycle's apparent energy; R357. -/
  eS : Int := 0
  /-- samples in the running cycle; R357. -/
  n : Nat := 0
  /-- consecutive substituted samples per phase; R360. -/
  sub : Vector Nat 3 := Vector.replicate 3 0
  /-- samples substituted in this second; R381. -/
  subSec : Nat := 0
  /-- phases substituted in this second; R381. -/
  subMask : Nat := 0
  /-- substituted sample in the running block; R375. -/
  runSubst : Bool := false
  /-- OVR sample of p or q in the running block; R375. -/
  runOvr : Bool := false
  /-- 32, samples substituted since start; R361. -/
  subTotal : Nat := 0
  /-- metering gap open on a phase; R360. -/
  gapPh : Vector Bool 3 := Vector.replicate 3 false
  /-- 24, SEQ of the last frame taken; R360. -/
  lastSeq : Option Nat := none
  /-- OVR since the last result of the same KIND; R361. -/
  kindOvr : Vector Bool 2 := Vector.replicate 2 false
  /-- tags of NRG_READ commands waiting for the block boundary; R380. -/
  pendRead : List Nat := []
  /-- ms of the last event 0x0607; R381. -/
  dirMs : Option Nat := none
  /-- P of the last cycle, W; R361. -/
  lastP : Int := 0
  /-- TYPE taken by the engine; R386. -/
  isDC : Bool := false
  deriving DecidableEq, Repr

/-- Cycle, block and second quantities of one bough (R355). -/
structure NrgAvg where
  /-- 256-sample voltage history of each phase, newest first; R349. -/
  vHist : Vector (List Int) 3 := Vector.replicate 3 []
  /-- running cycle's sums of squared voltages; R355. -/
  sqU : Vector Nat 3 := Vector.replicate 3 0
  /-- running cycle's sums of squared currents, channel 6 last; R355. -/
  sqI : Vector Nat 4 := Vector.replicate 4 0
  /-- unsubstituted samples of the running cycle per phase, channel 6 last; R360. -/
  nOk : Vector Nat 4 := Vector.replicate 4 0
  /-- last cycle's RMS voltages, µV; R355. -/
  uRms : Vector Nat 3 := Vector.replicate 3 0
  /-- last cycle's RMS at or above NOGRID_PCT; R352. -/
  uOk : Vector Bool 3 := Vector.replicate 3 false
  /-- last cycle's RMS currents, µA, neutral last; R355. -/
  iRms : Vector Nat 4 := Vector.replicate 4 0
  /-- last cycle's mean p per phase; R360. -/
  mP : Vector Int 3 := Vector.replicate 3 0
  /-- last cycle's mean q per phase; R360. -/
  mQ : Vector Int 3 := Vector.replicate 3 0
  /-- last cycle's mean loss; R360. -/
  mL : Int := 0
  /-- running cycle's sums of p per phase; R360. -/
  sP : Vector Int 3 := Vector.replicate 3 0
  /-- running cycle's sums of q per phase; R360. -/
  sQ : Vector Int 3 := Vector.replicate 3 0
  /-- running cycle's sum of loss; R360. -/
  sL : Int := 0
  /-- running block's sum of p; R355. -/
  bP : Int := 0
  /-- running block's sum of q; R355. -/
  bQ : Int := 0
  /-- running block's sum of s; R355. -/
  bS : Int := 0
  /-- running block's sums of channels 8, 9, 10; R355. -/
  bDC : Vector Int 3 := Vector.replicate 3 0
  /-- running block's sums of squared voltages; R355. -/
  bSqU : Vector Nat 3 := Vector.replicate 3 0
  /-- unsubstituted samples of the running block per phase, channel 6 last; R355. -/
  bOk : Vector Nat 4 := Vector.replicate 4 0
  /-- running block's sums of squared currents; R355. -/
  bSqI : Vector Nat 4 := Vector.replicate 4 0
  /-- samples in the running block; R355. -/
  bN : Nat := 0
  /-- sum of the block's periods, 1/256 sample; R355. -/
  bPeriods : Nat := 0
  /-- running second's sum of p; R365. -/
  secP : Int := 0
  /-- running second's sum of q; R355. -/
  secQ : Int := 0
  /-- running second's sum of s; R355. -/
  secS : Int := 0
  /-- running second's sums of squared voltages; R355. -/
  secSqU : Vector Nat 3 := Vector.replicate 3 0
  /-- running second's sums of squared currents, channel 6 last; R355. -/
  secSqI : Vector Nat 4 := Vector.replicate 4 0
  /-- unsubstituted samples of the running second per phase, channel 6 last; R355. -/
  secOk : Vector Nat 4 := Vector.replicate 4 0
  /-- running second's sums of channels 8, 9, 10; R355. -/
  secDC : Vector Int 3 := Vector.replicate 3 0
  /-- samples in the running second; R365. -/
  secN : Nat := 0
  deriving DecidableEq, Repr

/-- The quantities of the last second (R355). -/
structure SecStat where
  /-- RMS voltages, mV; R355. -/
  u : Vector Nat 3 := Vector.replicate 3 0
  /-- RMS currents, mA, neutral last; R355. -/
  i : Vector Nat 4 := Vector.replicate 4 0
  /-- means of channels 8, 9, 10: mV, mA, mV; R355. -/
  dc : Vector Int 3 := Vector.replicate 3 0
  /-- var; R355. -/
  q : Int := 0
  /-- VA; R355. -/
  s : Int := 0
  /-- 1/10,000; R355. -/
  pf : BitVec 16 := 0x8000
  deriving DecidableEq, Repr

/-- Status registers of one bough's energy pipeline. -/
structure NrgStat where
  /-- 32 signed, W; R376. -/
  p : Int := 0
  /-- 32 signed, var; R376. -/
  q : Int := 0
  /-- 32 signed, VA; R376. -/
  s : Int := 0
  /-- 16; R377. -/
  pf : BitVec 16 := 0x8000
  /-- neutral RMS, mA; R377, R380. -/
  inRms : Nat := 0
  /-- block RMS voltages, mV; R378. -/
  u : Vector Nat 3 := Vector.replicate 3 0
  /-- block RMS currents, mA; R378. -/
  i : Vector Nat 3 := Vector.replicate 3 0
  /-- block means of channels 8, 9, 10: mV, mA, mV; R380. -/
  dcMean : Vector Int 3 := Vector.replicate 3 0
  /-- 10^-5 degree; R380. -/
  phi : Vector Int 3 := Vector.replicate 3 (-2147483648)
  /-- 10^-5 degree; R380. -/
  vAng : Vector Int 2 := Vector.replicate 2 (-2147483648)
  /-- SEQ of the last block's last sample; R380. -/
  seq : Nat := 0
  /-- OPSTAMP of the last block's end; R380. -/
  stamp : BitVec 64 := 0
  /-- cos φ, 1/10,000, none without an angle; R355. -/
  dpf : Vector (Option Int) 3 := Vector.replicate 3 none
  /-- the last second; R355. -/
  second : SecStat := {}
  /-- blocks ended; R355. -/
  blocks : Nat := 0
  /-- mean active power over the last second, W; R365. -/
  pmean : Int := 0
  deriving DecidableEq, Repr

/-- The block of a bough in a save entry (R365). -/
structure SaveBough where
  /-- 6 × 64; R365. -/
  reg : Vector (BitVec 64) 6 := Vector.replicate 6 0
  /-- 6 × 32; R365. -/
  carry : Vector Nat 6 := Vector.replicate 6 0
  /-- 5; R365. -/
  served : Nat := 31
  /-- 3; R365. -/
  rsvState : Nat := 0
  /-- 24; R365. -/
  failed : BitVec 24 := 0
  /-- 32; R365. -/
  rgain : Nat := 1073741824
  /-- 32 signed; R365. -/
  roff : Int := 0
  /-- 16 signed; R365. -/
  rdelay : Int := 0
  /-- 32 signed; R365. -/
  pmean : Int := 0
  /-- STATE bit 0; R365. -/
  isOpen : Bool := false
  /-- STATE bit 1; R365. -/
  coils : Bool := false
  /-- 24 ratios; R365. -/
  k0 : List (Option Int) := []
  /-- 64; R424. -/
  whImp : Nat := 0
  /-- 64; R424. -/
  whExp : Nat := 0
  /-- signed 48; R424. -/
  cost : Int := 0
  /-- signed 48; R424. -/
  credit : Int := 0
  /-- 32; R424. -/
  sesNum : Nat := 0
  /-- 16; R424. -/
  sesIndex : Nat := 0
  /-- 1; R424. -/
  priced : Bool := false
  /-- 10; R424. -/
  costCarry : Nat := 0
  /-- 10; R424. -/
  credCarry : Nat := 0
  /-- 64; R424. -/
  aImpStart : BitVec 64 := 0
  deriving DecidableEq, Repr

/-- A rate register with its carries (R400). -/
structure RateReg where
  /-- 64, Wh; R424. -/
  imp : Nat := 0
  /-- 64, Wh; R424. -/
  exp : Nat := 0
  /-- 32; R424. -/
  impCarry : Nat := 0
  /-- 32; R424. -/
  expCarry : Nat := 0
  deriving DecidableEq, Repr

/-- A periodic save entry (R365, R424). -/
structure SaveEntry where
  /-- slot of the ring, 0..479; R366. -/
  place : Nat := 0
  /-- 64; R365. -/
  opstamp : BitVec 64 := 0
  /-- 32; R365. -/
  caltime : BitVec 32 := 0xFFFFFFFF
  /-- CRC; R124. -/
  crcOk : Bool := true
  /-- 32; R365. -/
  saveNo : Nat := 0
  /-- 32; R365. -/
  sesNum : Nat := 0
  /-- 8; R365. -/
  saveS : Nat := 10
  /-- 8; R365. -/
  cause : Nat := 0
  /-- 8 blocks; R365. -/
  boughs : Vector SaveBough 8 := Vector.replicate 8 {}
  /-- 32; R424. -/
  readingNo : Nat := 0
  /-- 32; R424. -/
  hwm : Nat := 0
  /-- 32; R424. -/
  calId : Nat := 0
  /-- 8; R424. -/
  rate : Nat := 255
  /-- 8; R424. -/
  demandMin : Nat := 15
  /-- 8 signed; R424. -/
  offset : Int := 0
  /-- 8; R424. -/
  flags : Nat := 0
  /-- 32; R424. -/
  intStart : Nat := 0
  /-- 64; R424. -/
  intStamp : BitVec 64 := 0
  /-- 32; R424. -/
  lrCount : Nat := 0
  /-- 16 bytes; R424. -/
  prev : List Byte := []
  /-- 32; R424. -/
  setbacks : Nat := 0
  /-- 8 bytes; R424. -/
  check8 : List Byte := []
  /-- 16 registers; R424. -/
  rates : Vector RateReg 16 := Vector.replicate 16 {}
  deriving DecidableEq, Repr

/-- A start entry (R124). -/
structure StartEntry where
  /-- slot of the ring, 0..479; R366. -/
  place : Nat := 0
  /-- 64; R124. -/
  opstamp : BitVec 64 := 0
  /-- 32; R124. -/
  caltime : BitVec 32 := 0xFFFFFFFF
  /-- CRC; R124. -/
  crcOk : Bool := true
  deriving DecidableEq, Repr

/-- A signed reading of 256 bytes (R413). -/
structure Reading where
  /-- 32; R413. -/
  no : Nat := 0
  /-- 8; R413. -/
  bough : Nat := 0
  /-- 8; R413. -/
  kind : Nat := 0
  /-- 256 bytes; R413. -/
  raw : List Byte := []
  deriving DecidableEq, Repr

/-- The heartwood's state for one bough. -/
structure BilBough where
  /-- registers at the last conversion; R362. -/
  last : Vector (BitVec 64) 6 := Vector.replicate 6 0
  /-- carries of the six registers; R362. -/
  carry : Vector Nat 6 := Vector.replicate 6 0
  /-- cumulative Wh import; R413. -/
  whImp : Nat := 0
  /-- cumulative Wh export; R413. -/
  whExp : Nat := 0
  /-- signed 48; R399. -/
  cost : Int := 0
  /-- signed 48; R399. -/
  credit : Int := 0
  /-- thousandths; R399. -/
  costCarry : Nat := 0
  /-- thousandths; R399. -/
  credCarry : Nat := 0
  /-- the session needs pricing; R424. -/
  priced : Bool := false
  /-- begin reading and no end reading; R365. -/
  sesOpen : Bool := false
  /-- 32; R413. -/
  sesNum : Nat := 0
  /-- next SES_INDEX; R413. -/
  sesIndex : Nat := 0
  /-- A_IMP at the open interval's start; R424. -/
  aImpStart : BitVec 64 := 0
  /-- A_EXP at the open interval's start; R412. -/
  aExpStart : BitVec 64 := 0
  /-- 32, W; R431. -/
  demand : Nat := 0
  /-- flags of the period; R414. -/
  flags : BitVec 16 := 0
  /-- metering gap open at the heartwood; R418. -/
  gapOpen : Bool := false
  /-- OPSTAMP of the gap's start; R418. -/
  gapStart : BitVec 64 := 0
  /-- PMEAN of the last second before the gap; R418. -/
  gapPmean : Int := 0
  /-- interval contains part of a gap; R418. -/
  intGap : Bool := false
  /-- an on-request reading was taken this second; R432. -/
  readNow : Bool := false
  /-- last results accepted, by KIND; R65. -/
  accepted : Vector EngResult 2 := Vector.replicate 2 {}
  /-- results held back at the gate, by KIND; R65. -/
  heldRes : Vector (Option EngResult) 2 := Vector.replicate 2 none
  deriving DecidableEq, Repr

/-- The heartwood's device-wide billing state. -/
structure Bil where
  /-- active calendar, 1,088 bytes; R391. -/
  calendar : Option (List Byte) := none
  /-- pending calendar, 1,088 bytes; R397. -/
  passive : Option (List Byte) := none
  /-- 4 bytes; R391. -/
  currency : Option (List Byte) := none
  /-- 8; R426. -/
  rate : Nat := 255
  /-- 8; R426. -/
  demandMin : Nat := 15
  /-- 8 signed, in force; R426. -/
  offset : Int := 0
  /-- offset waiting for the next boundary; R406. -/
  newOffset : Option Int := none
  /-- 32; R427. -/
  hwm : Nat := 0
  /-- 1; R405. -/
  hasHwm : Bool := false
  /-- 32; R424. -/
  intStart : Nat := 0
  /-- 64; R424. -/
  intStamp : BitVec 64 := 0
  /-- an interval is open; R411. -/
  intOpen : Bool := false
  /-- the open interval will close EXTENDED; R409. -/
  extended : Bool := false
  /-- 32; R428. -/
  readingNo : Nat := 0
  /-- 16 bytes; R413. -/
  prev : List Byte := []
  /-- 32; R390. -/
  lrCount : Nat := 0
  /-- 32; R424. -/
  setbacks : Nat := 0
  /-- 32 bytes, computed check value; R421. -/
  check : List Byte := []
  /-- 32; R421. -/
  codeLen : Nat := 0
  /-- heartwood code as held in heartwood SRAM; R421. -/
  code : List Byte := []
  /-- 16 rate registers; R389. -/
  rates : Vector RateReg 16 := Vector.replicate 16 {}
  /-- readings signed, not yet released; R416. -/
  waiting : List Reading := []
  /-- at most 1,024; R417. -/
  queue : List Reading := []
  /-- 16; R429. -/
  droppedQ : Nat := 0
  /-- 32; R365. -/
  saveNo : Nat := 0
  /-- consecutive failed slots; R367. -/
  saveFails : Nat := 0
  /-- a save entry covers the waiting readings; R416. -/
  covered : Bool := false
  /-- signs no reading after a fatal error; R422. -/
  stopped : Bool := false
  /-- last signed READING_NO; R581. -/
  lastSigned : Nat := 0
  /-- millisecond tick of the last save entry that an event caused; R364, R435. -/
  savedTick : Option Nat := none
  deriving DecidableEq, Repr

/-- One load channel of the power die. -/
structure AuxCh where
  /-- commanded duty, 0.1 %; R444. -/
  duty : Nat := 0
  /-- AUX_SET waiting for the tick or for P7; R444. -/
  waitDuty : Option Nat := none
  /-- duty after compensation; R451. -/
  outDuty : Nat := 0
  /-- duty from the next rising edge; R445. -/
  nextDuty : Nat := 0
  /-- 1; R463. -/
  on : Bool := false
  /-- inrush window open; R446. -/
  inrush : Bool := false
  /-- window's multiple, held to its end; R470. -/
  inrushX3 : Bool := false
  /-- window's LIMIT, held to its end; R470. -/
  inrushLimit : Nat := 0
  /-- STATE 3; R463. -/
  atLimit : Bool := false
  /-- STATE 4; R449. -/
  retryWait : Bool := false
  /-- STATE 5; R449. -/
  latched : Bool := false
  /-- STATE 6; R454. -/
  uv : Bool := false
  /-- 4; R463. -/
  retryCnt : Nat := 0
  /-- 1; R463. -/
  hot : Bool := false
  /-- 9 signed; R463. -/
  temp : Int := 0
  /-- 2; R463. -/
  lastFault : Nat := 0
  /-- 12; R463. -/
  current : Nat := 0
  /-- held by the safety block; R463. -/
  bridge : Bool := false
  /-- state of the bridge switch; R270. -/
  bridgeOn : Bool := false
  /-- fault in fail-safe keeps the channel off; R457. -/
  fsFault : Bool := false
  /-- event 0x0802 recorded in this second; R447. -/
  faultNoted : Bool := false
  /-- RETRY_MS has passed; R449. -/
  retryDue : Bool := false
  deriving DecidableEq, Repr

/-- Device-wide auxiliary state. -/
structure AuxDev where
  /-- group supplies in 10 mV; R464. -/
  vgrp : Vector Nat 4 := Vector.replicate 4 0
  /-- channel on ISENSE; R452. -/
  isel : Option Nat := none
  /-- power-die thermal shutdown holds; R457. -/
  thermalOff : Bool := false
  /-- VPWR trip holds; R457. -/
  vpwrOff : Bool := false
  deriving DecidableEq, Repr

/-- The segment display (chapter "Segment display"). -/
structure Lcd where
  /-- 3; R486. -/
  state : LcdState := .off
  /-- 5; R486. -/
  page : Nat := 0
  /-- 8, 0.02 V; R486. -/
  vlcd : Nat := 0
  /-- mV; R473. -/
  target : Nat := 0
  /-- 8; R486. -/
  superseded : Nat := 0
  /-- 4; R486. -/
  dirty : BitVec 4 := 0
  /-- 4 lines of 96 elements by segment; R477. -/
  latest : Vector (BitVec 96) 4 := Vector.replicate 4 0
  /-- 4 lines; R477. -/
  shown : Vector (BitVec 96) 4 := Vector.replicate 4 0
  /-- 256 bytes, record 0x9100; R474. -/
  glyph : Option (List Byte) := none
  /-- cleared frames still due; R481, R482. -/
  clearFrames : Nat := 0
  /-- an update waits for its frame start; R488. -/
  updated : Bool := false
  /-- backlight allowed; R481, R483. -/
  backlight : Bool := false
  /-- pump enabled; R481. -/
  pump : Bool := false
  /-- phase length in force; R472. -/
  phaseLen : Nat := 64
  /-- cause of the running ordered stop; R487. -/
  stopCause : Nat := 0
  /-- stopped by VLCD out of range; R473. -/
  faulted : Bool := false
  /-- ms of the start request; R487. -/
  startMs : Nat := 0
  deriving DecidableEq, Repr

/-- A station as the coordinator knows it. -/
structure Member where
  /-- 6; R505. -/
  station : Nat := 0
  /-- turns without a status frame; R507. -/
  silent : Nat := 0
  /-- 100 W; R515. -/
  demand : Vector Nat 8 := Vector.replicate 8 0
  /-- 100 W, signed; R515. -/
  power : Vector Int 8 := Vector.replicate 8 0
  /-- STATE; R515. -/
  sesState : Vector Nat 8 := Vector.replicate 8 0
  deriving DecidableEq, Repr

/-- A peer of the canopy link. -/
structure Peer where
  /-- 6; R498. -/
  station : Nat := 0
  /-- tone map number held, 0 none; R498. -/
  tmap : Nat := 0
  /-- bits per symbol of the map; R498. -/
  bits : Nat := 0
  /-- consecutive frames with more than 25 % failed; R499. -/
  badFrames : Nat := 0
  /-- number of the tone map sent to the peer, 0 none; R498. -/
  sentMap : Nat := 0
  /-- bits per symbol of the map sent; R498. -/
  sentBits : Nat := 0
  /-- consecutive frames whose capacity differs by more than 10 %; R498. -/
  differs : Nat := 0
  /-- the peer has sent under the map sent to it; R498, R499. -/
  used : Bool := false
  deriving DecidableEq, Repr

/-- A block held of a message being received. -/
structure CnpHeld where
  /-- 6; R495. -/
  src : Nat := 0
  /-- frame type; R495. -/
  typ : Nat := 0
  /-- 16, block sequence; R496. -/
  seq : Nat := 0
  /-- 1, last block of the message; R496. -/
  last : Bool := false
  /-- 1 to 512 bytes; R496. -/
  data : List Byte := []
  deriving DecidableEq, Repr

/-- A canopy frame that waits for its transmit opportunity. -/
structure CnpFrame where
  /-- 8, TYPE; R495. -/
  typ : Nat := 0
  /-- 8; R495. -/
  dst : Nat := 255
  /-- 2; R495. -/
  cls : Nat := 0
  /-- 8, TMAP; R495. -/
  tmap : Nat := 0
  /-- 1, key index; R495. -/
  key : Bool := false
  /-- 16, FSEQ; R495. -/
  fseq : Nat := 0
  /-- blocks of 520 bytes; R496. -/
  blocks : List (List Byte) := []
  deriving DecidableEq, Repr

/-- A block of a message not yet acknowledged. -/
structure CnpPiece where
  /-- 16; R496. -/
  seq : Nat := 0
  /-- times sent; R497. -/
  attempts : Nat := 1
  /-- 520 bytes; R496. -/
  bytes : List Byte := []
  deriving DecidableEq, Repr

/-- A canopy message being sent, with its blocks not yet acknowledged. -/
structure TxMsg where
  /-- 8; R497. -/
  dst : Nat := 255
  /-- 2; R495. -/
  cls : Nat := 0
  /-- frame type: 1, 3, 6 or 7; R497. -/
  typ : Nat := 1
  /-- blocks not yet acknowledged; R497. -/
  blocks : List CnpPiece := []
  /-- tag of CNP_SEND; R525. -/
  tag : Option Nat := none
  deriving DecidableEq, Repr

/-- The canopy link. -/
structure Canopy where
  /-- 3; R523. -/
  role : Nat := 0
  /-- 1; R523. -/
  turnKnown : Bool := false
  /-- 1; R523. -/
  czcLock : Bool := false
  /-- consecutive edge pairs in range; R501. -/
  czcGood : Nat := 0
  /-- 1: first edge of a pair seen; R501. -/
  czcEdge : Bool := false
  /-- 1; R523. -/
  keyIdx : Bool := false
  /-- 6; R523. -/
  coord : Nat := 0
  /-- 4; R508. -/
  coordRank : Nat := 0
  /-- 5; R523. -/
  missed : Nat := 0
  /-- 32; R524. -/
  turn : BitVec 32 := 0
  /-- µs; R500. -/
  turnLen : Nat := 40000
  /-- µs; R500. -/
  pwLen : Nat := 4000
  /-- joined stations; R505. -/
  members : List Member := []
  /-- 64; R505. -/
  memberMap : BitVec 64 := 0
  /-- 7; R523. -/
  memberCount : Nat := 0
  /-- station, start, length in symbols; R502. -/
  slots : List (Nat × Nat × Nat) := []
  /-- membership record, 144 bytes; R512. -/
  record : Option (List Byte) := none
  /-- unwrapped site key 0; R512. -/
  key0 : Option (List Byte) := none
  /-- unwrapped site key 1; R512. -/
  key1 : Option (List Byte) := none
  /-- 40, bits 63:24 of the message counter; R513. -/
  msgTime : Nat := 0
  /-- 24, bits 23:0; R513. -/
  msgCount : Nat := 0
  /-- 16; R495. -/
  fseq : Nat := 0
  /-- peers with tone maps; R498. -/
  peers : List Peer := []
  /-- messages being sent; R497. -/
  tx : List TxMsg := []
  /-- blocks received of messages not complete; R496. -/
  rx : List CnpHeld := []
  /-- frames that wait for their transmit opportunity; R500. -/
  out : List CnpFrame := []
  /-- the frame given to the line last: frame control and blocks; R495. -/
  line : List Byte := []
  /-- the acknowledgement frame sent last, from the front end's template; R44, R497. -/
  ack : List Byte := []
  /-- contention window, slots; R503. -/
  cw : Nat := 16
  /-- backoff drawn for the frame that contends, slots; R503. -/
  backoff : Option Nat := none
  /-- a class-3 burst of another station heard in this window; R504. -/
  heardTrip : Bool := false
  /-- 16; R524. -/
  retx : Nat := 0
  /-- 8; R524. -/
  droppedM : Nat := 0
  /-- 16; R524. -/
  siteDemand : Nat := 0
  /-- 16; R524. -/
  siteAlloc : Nat := 0
  /-- site ceilings in 100 W while valid; R517. -/
  siteCeil : Option (Vector Nat 8) := none
  /-- turns of validity left; R517. -/
  ceilTurns : Nat := 0
  /-- TURN of the last ceiling frame; R526. -/
  lastCeilTurn : BitVec 32 := 0
  /-- event 0x0A08 recorded; R517. -/
  expiredNoted : Bool := false
  /-- site ceiling 0 after a followed trip; R518. -/
  tripZero : Bool := false
  /-- trip frames to send, windows left; R518. -/
  tripDue : List (List Byte × Nat) := []
  /-- ceiling frames waiting for a window; R529. -/
  ceilDue : List (List Byte) := []
  /-- turns since the last allocation; R516. -/
  lmCount : Nat := 0
  /-- turns since the last join request; R506. -/
  joinWait : Nat := 0
  /-- listening for beacons; R506. -/
  listening : Bool := false
  /-- sends beacons; R500. -/
  beaconing : Bool := false
  /-- 0..128 symbols built; R52. -/
  txSymbols : Nat := 0
  /-- 1; R52. -/
  transmitting : Bool := false
  /-- a built frame waits; R52. -/
  txWaiting : Bool := false
  /-- stopped by BIST, DSP trap or fell; R617, R581. -/
  offByFault : Bool := false
  deriving DecidableEq, Repr

/-- The service tag's logic. -/
structure Tag where
  /-- 1; R555. -/
  field : Bool := false
  /-- field level, 0.1 A/m; R545. -/
  level : Nat := 0
  /-- FDETN low; R552. -/
  fdetLow : Bool := false
  /-- 2; R555. -/
  owner : Nat := 0
  /-- holder of the last transaction; R549. -/
  lastOwner : Nat := 0
  /-- a field transaction waits; R549. -/
  fieldWait : Bool := false
  /-- a trunk transaction waits; R549. -/
  trunkWait : Bool := false
  /-- 1; R555. -/
  recovered : Bool := false
  /-- 4; R555. -/
  lastStatus : Nat := 0
  /-- 16; R555. -/
  writes : Nat := 0
  /-- commands served since the field arrived; R557. -/
  served : Nat := 0
  /-- tag powered and recovery complete; R538. -/
  powered : Bool := false
  /-- HLTB received; R537. -/
  halted : Bool := false
  /-- CID after ATTRIB; R537. -/
  selected : Option Nat := none
  /-- drawn slot R; R537. -/
  drawn : Option Nat := none
  /-- last answer to the reader; R545. -/
  reply : Option (List Byte) := none
  /-- 16 KiB copy in main SRAM; R550. -/
  mirror : List Host.Cell := []
  /-- marked mirror bytes, rising; R550. -/
  marked : List Nat := []
  /-- next journal pair, 0..7; R546. -/
  pair : Nat := 0
  /-- journal sequence number; R546. -/
  seq : Nat := 0
  /-- 32; R544. -/
  snapNo : Nat := 0
  /-- next snapshot goes to copy B; R544. -/
  snapB : Bool := false
  deriving DecidableEq, Repr

/-- A root held as two shares (R563). -/
structure Root where
  /-- 256; R563. -/
  shareA : BitVec 256 := 0
  /-- 256; R563. -/
  shareB : BitVec 256 := 0
  /-- the stored check word; R564. -/
  check : BitVec 32 := 0
  deriving DecidableEq, Repr

/-- The backup domain (R83): calendar, key store, tamper, trip flag. -/
structure Backup where
  /-- 32; R20, R427. -/
  caltime : BitVec 32 := 0xFFFFFFFF
  /-- 8 signed; R21, R85. -/
  offset : Int := 0
  /-- 13; R87. -/
  tripBits : BitVec 13 := 0
  /-- 13; R87. -/
  highBits : BitVec 13 := 0
  /-- 1: supplied by VBAK; R83. -/
  onVbak : Bool := false
  /-- switch-overs VIO to VBAK since the last start; R110. -/
  switches : Nat := 0
  /-- contents lost since the last start; R85. -/
  lost : Bool := false
  /-- 4 × 32 bytes in two shares; R562, R741. -/
  roots : Vector (Option Root) 4 := Vector.replicate 4 none
  /-- SERVICE flag; R565. -/
  service : Bool := false
  /-- 8; R583. -/
  fells : Nat := 0
  /-- 4; R583. -/
  cause : BitVec 4 := 0
  /-- 32; R584. -/
  fellTime : BitVec 32 := 0xFFFFFFFF
  /-- a fell waits to be recorded at start; R579. -/
  fellUnrec : Bool := false
  /-- marginal loops to record at start; R577. -/
  margUnrec : BitVec 2 := 0
  /-- 32; R582. -/
  tamperCfg : BitVec 32 := 7
  /-- count of mask renewals; R563. -/
  renewals : Nat := 0
  /-- 2; R584. -/
  loopA : Nat := 0
  /-- 2; R584. -/
  loopB : Nat := 0
  /-- 8; R584. -/
  levelA : Nat := 0
  /-- 8; R584. -/
  levelB : Nat := 0
  /-- consecutive open samples; R577. -/
  openA : Nat := 0
  /-- consecutive open samples; R577. -/
  openB : Nat := 0
  /-- armed; R97. -/
  armedA : Bool := true
  /-- armed; R97. -/
  armedB : Bool := true
  /-- 1; R584. -/
  oscOk : Bool := false
  deriving DecidableEq, Repr

/-- The key commands' volatile state. -/
structure KeyDev where
  /-- 16 bytes, nonce of the latest KEY_CHALLENGE; R567. -/
  nonce : Option (List Byte) := none
  /-- ms at which it was issued; R567. -/
  nonceMs : Nat := 0
  /-- accepted life-cycle transition; R566. -/
  target : Option Nat := none
  /-- tag of its command; R706. -/
  tag : Nat := 0
  deriving DecidableEq, Repr

/-- Spares of one SRAM macro (R607). -/
structure Macro where
  /-- row and spare row in use; R609. -/
  rows : List (Nat × Nat) := []
  /-- column group and spare in use; R609. -/
  cols : List (Nat × Nat) := []
  deriving DecidableEq, Repr

/-- A word with wrong or hard bits. -/
structure BadWord where
  /-- internal address, multiple of 8; R598. -/
  addr : Nat := 0
  /-- wrong codeword bits; R596. -/
  flips : BitVec 79 := 0
  /-- bits that stay wrong when written; R598. -/
  hard : BitVec 79 := 0
  deriving DecidableEq, Repr

/-- SRAM contents by internal address, error state and test state. -/
structure Mem where
  /-- SRAM bytes by internal address (R53); R53. -/
  cells : List Host.Cell := []
  /-- words with wrong bits; R598. -/
  bad : List BadWord := []
  /-- 221 macros; R607. -/
  macros : Vector Macro 221 := Vector.replicate 221 {}
  /-- 16; R622. -/
  corr : Nat := 0
  /-- 8; R622. -/
  uncorr : Nat := 0
  /-- 8; R622. -/
  degraded : Nat := 0
  /-- 29; R622. -/
  lastAddr : Nat := 0
  /-- 2; R622. -/
  lastKind : Nat := 0
  /-- 8; R623. -/
  soft : Nat := 0
  /-- soft repairs and lane repairs not yet in the field map; R611. -/
  softList : List (BitVec 32) := []
  /-- macros whose event 0x0D01 was recorded this second; R598. -/
  corrNoted : List Nat := []
  /-- next trunk row, 0..98,303; R603. -/
  scrubRow : Nat := 0
  /-- next heartwood row, 0..4,095; R603. -/
  hwScrubRow : Nat := 0
  /-- 16; R624. -/
  passes : Nat := 0
  /-- next march row; R618. -/
  marchRow : Nat := 0
  /-- rows skipped in this pass; R618. -/
  marchSkip : List Nat := []
  /-- 4; R625. -/
  part : Nat := 15
  /-- 14; R625. -/
  failedParts : BitVec 14 := 0
  /-- 14; R625. -/
  runs : Nat := 0
  /-- slices of the running run per partition; R615. -/
  slices : Vector Nat 14 := Vector.replicate 14 0
  /-- MISR state per partition; R615. -/
  misr : Vector (BitVec 32) 14 := Vector.replicate 14 0
  /-- partitions repeating a run; R617. -/
  repeating : BitVec 14 := 0
  /-- 1; R625. -/
  halted : Bool := false
  /-- 5; R625. -/
  haltStop : Nat := 0
  /-- 8; R625. -/
  haltCh : Nat := 0
  /-- mode 1 injection armed; R605. -/
  armed : Bool := false
  /-- target word; R605. -/
  armAddr : Nat := 0
  /-- mask taken at arming; R605. -/
  armMask : BitVec 79 := 0
  deriving DecidableEq, Repr

/-- A record of the event log (R635). -/
structure LogRec where
  /-- 16; R635. -/
  code : Nat := 0
  /-- 8; R635. -/
  bough : Nat := 255
  /-- 8; R635. -/
  flags : BitVec 8 := 0
  /-- 64; R635. -/
  opstamp : BitVec 64 := 0
  /-- 32; R635. -/
  caltime : BitVec 32 := 0xFFFFFFFF
  /-- 32; R635. -/
  seq : BitVec 32 := 0
  /-- 0..996 bytes; R635. -/
  data : List Byte := []
  /-- MARK programmed and CRC holds; R636. -/
  valid : Bool := true
  /-- skipped by LOG_READ; R651. -/
  cleared : Bool := false
  deriving DecidableEq, Repr

/-- A ring of the event log (R638, R639). -/
structure Ring where
  /-- sector and record, oldest first; R639. -/
  recs : List (Nat × LogRec) := []
  /-- sector being written; R639. -/
  sector : Nat := 0
  /-- bytes used in it; R639. -/
  used : Nat := 0
  deriving DecidableEq, Repr

/-- The count of one code in the running window (R644). -/
structure Budget where
  /-- 16; R644. -/
  code : Nat := 0
  /-- records in the window; R644. -/
  count : Nat := 0
  /-- diverted or suppressed; R644. -/
  overrun : Nat := 0
  /-- 1 diverted, 0 suppressed; R665. -/
  diverted : Bool := false
  /-- OPSTAMP of the first over budget; R644. -/
  first : BitVec 64 := 0
  /-- OPSTAMP of the last; R644. -/
  last : BitVec 64 := 0
  deriving DecidableEq, Repr

/-- A histogram (R645). -/
structure Hist where
  /-- 16 × 32; R645. -/
  bins : Vector Nat 16 := Vector.replicate 16 0
  /-- 32 signed; R646. -/
  min : Int := 2147483647
  /-- 32 signed; R646. -/
  max : Int := -2147483648
  /-- 64; R645. -/
  maxStamp : BitVec 64 := 0
  deriving DecidableEq, Repr

/-- A histogram snapshot in flash (R646). -/
structure HistSnap where
  /-- sector of the area, 0..15; R638. -/
  place : Nat := 0
  /-- 32; R646. -/
  no : Nat := 0
  /-- 64; R646. -/
  opstamp : BitVec 64 := 0
  /-- 40 histograms; R646. -/
  hists : List Hist := []
  /-- CRC holds; R646. -/
  valid : Bool := true
  deriving DecidableEq, Repr

/-- The event recorder (stop 22). -/
structure Log where
  /-- 64 KiB, 8 KiB of it for exempt codes; R641. -/
  queue : List LogRec := []
  /-- held before the log is available; R641. -/
  held : List LogRec := []
  /-- records beyond the hold limits; R641. -/
  heldLost : Nat := 0
  /-- records held from P0 to P2, at most 16; R641. -/
  heldEarly : Nat := 0
  /-- the log is available; R640. -/
  logOn : Bool := false
  /-- 32; R662. -/
  next : BitVec 32 := 0
  /-- 16; R661. -/
  overrun : Nat := 0
  /-- 8; R661. -/
  lost : Nat := 0
  /-- records lost and not yet reported; R641. -/
  lostDue : Nat := 0
  /-- counts of the running window; R644. -/
  budgets : List Budget := []
  /-- 40 histograms; R645. -/
  hists : Vector Hist 40 := Vector.replicate 40 {}
  /-- 32; R646. -/
  snapNo : Nat := 0
  /-- CORR at the last histogram sample; R645. -/
  lastCorr : Nat := 0
  /-- RETX at the last histogram sample; R645. -/
  lastRetx : Nat := 0
  /-- record 0xE100: code, budget, class; R753. -/
  override : List (Nat × Nat × Nat) := []
  /-- CAUSE of the fatal error declared; R652. -/
  fatalCause : Option Nat := none
  /-- SECOND; R656. -/
  fatalSecond : Nat := 0
  /-- fatal hold; R653. -/
  fatalHold : Bool := false
  /-- stop of the failed block; R656. -/
  fatalStop : Nat := 0
  /-- the dump is complete; R654. -/
  dumped : Bool := false
  /-- slot of the running dump; R655. -/
  dumpSlot : Nat := 0
  deriving DecidableEq, Repr

/-- The open staging of an update part (R677). -/
structure Staging where
  /-- 2; R675. -/
  part : Nat := 0
  /-- 128 bytes; R675. -/
  header : List Byte := []
  /-- image bytes received; R687. -/
  received : Nat := 0
  /-- bytes of an operation that is not complete; R678. -/
  op : List Byte := []
  /-- target bytes built; R676. -/
  built : List Byte := []
  /-- END seen; R676. -/
  ended : Bool := false
  deriving DecidableEq, Repr

/-- The field update (chapter "Field update"). -/
structure Upd where
  /-- 4; R687. -/
  state : Nat := 0
  /-- open staging; R677. -/
  stage : Option Staging := none
  /-- 3; R687. -/
  staged : BitVec 3 := 0
  /-- FORMAT of a staged Ronif image; R680. -/
  stagedFmt : Nat := 0
  /-- FMT_MIN and FMT_MAX of a staged firmware bank; R680. -/
  stagedRange : Nat × Nat := (0, 0)
  /-- 3; R687. -/
  switched : BitVec 3 := 0
  /-- 2; R687. -/
  mode : Nat := 0
  /-- 32; R687. -/
  when : Nat := 0
  /-- OPTIME at which the window or the drain ends (LEFT); R687. -/
  endAt : Nat := 0
  deriving DecidableEq, Repr

/-- A directory copy (R128). -/
structure Dir where
  /-- MAGIC and CRC correct; R129. -/
  magicOk : Bool := false
  /-- 32; R128. -/
  seq : Nat := 0
  /-- 8; R128. -/
  ronif : Nat := 0
  /-- 8; R128. -/
  fw : Nat := 0
  /-- 8; R128. -/
  hw : Nat := 0
  /-- bytes 12 to 27, reserved; R128. -/
  rest : BitVec 128 := 0
  /-- 8; R128, R682. -/
  upd : BitVec 8 := 0
  deriving DecidableEq, Repr

/-- A dump slot (R655, R656). -/
structure Dump where
  /-- 2 (SLOT_A, SLOT_B); R663. -/
  state : Nat := 0
  /-- 32; R656. -/
  no : Nat := 0
  /-- 8; R656. -/
  cause : Nat := 0
  /-- 8; R656. -/
  second : Nat := 0
  /-- 8; R656. -/
  stop : Nat := 0
  /-- 64; R656. -/
  opstamp : BitVec 64 := 0
  /-- contents of the slot; R656. -/
  bytes : List Byte := []
  deriving DecidableEq, Repr

/-- The attached flash (R127). -/
structure Flash where
  /-- a flash answers as R131 requires; R131. -/
  present : Bool := true
  /-- 512 Mbit; R127. -/
  big : Bool := false
  /-- two directory copies; R128. -/
  dir : Vector Dir 2 := Vector.replicate 2 {}
  /-- two slots of 1 MiB; R127. -/
  ronif : Vector (List Byte) 2 := Vector.replicate 2 []
  /-- two banks of 4 MiB; R127. -/
  fw : Vector (List Byte) 2 := Vector.replicate 2 []
  /-- two banks of 512 KiB; R127. -/
  hw : Vector (List Byte) 2 := Vector.replicate 2 []
  /-- start entries in the save area, newest first; R366. -/
  starts : List StartEntry := []
  /-- save entries in the save area, newest first; R366. -/
  saves : List SaveEntry := []
  /-- next slot, 0..479; R366. -/
  saveSlot : Nat := 0
  /-- two journal halves; R224. -/
  half : Vector Half 2 := Vector.replicate 2 {}
  /-- active half; R246. -/
  active : Nat := 0
  /-- halves of the journal whose writes fail; R238. -/
  halfBad : BitVec 2 := 0
  /-- reading ring; R638. -/
  reading : Ring := {}
  /-- coded ring; R638. -/
  coded : Ring := {}
  /-- general ring; R638. -/
  general : Ring := {}
  /-- at most 16 snapshots; R638. -/
  snaps : List HistSnap := []
  /-- slots A and B; R655. -/
  dumps : Vector Dump 2 := Vector.replicate 2 {}
  /-- newest DUMP_NO; R663. -/
  dumpNo : Nat := 0
  /-- a fatal error not yet reported by event 0x0E05; R654. -/
  dumpNote : Bool := false
  /-- OPTIME of the fatal restarts; R653. -/
  restarts : List Nat := []
  deriving DecidableEq, Repr

/-- What outlives a reset: fuses, flash, tag memory, the power die's table. -/
structure Nonvol where
  /-- 3, fuse-held life-cycle code; R565, R741. -/
  life : Nat := 0
  /-- 8 bytes; R541. -/
  serial : List Byte := [0, 0, 0, 0, 0, 0, 0, 0]
  /-- 32 bytes; R568. -/
  installSecret : List Byte := []
  /-- at most 512 entries; R610. -/
  factoryMap : List (BitVec 32) := []
  /-- at most 64 entries; R610. -/
  fieldMap : List (BitVec 32) := []
  /-- 32 or 64 MiB; R127. -/
  flash : Flash := {}
  /-- 16 KiB; R539. -/
  tagMem : List Host.Cell := []
  /-- valid headers of the journal pairs: target page, sequence; R546, R547. -/
  tagHdr : Vector (Option (Nat × Nat)) 8 := Vector.replicate 8 none
  /-- 32 bytes; R456. -/
  fsTable : Vector Byte 32 := Vector.replicate 32 0
  /-- input served by a consumed reserve, 31 none; R319. -/
  rsvInput : Vector Nat 8 := Vector.replicate 8 31
  deriving DecidableEq, Repr

/-- The state of the GHL-8. -/
structure State where
  /-- Commands waiting, first in first out. -/
  pending : List Instr := []
  /-- The model's own counter of free values (log entry 4). -/
  freeCount : Nat := 0
  trunk : Trunk := {}
  lat : Lattice := {}
  crypto : Crypto := {}
  supply : Supply := {}
  start : Start := {}
  host : HostPort := {}
  ports : Vector Port 8 := Vector.replicate 8 {}
  links : Vector PortLink 8 := Vector.replicate 8 {}
  assoc : Assoc := {}
  ses : Vector Session 8 := Vector.replicate 8 {}
  sesL : Vector SesLink 8 := Vector.replicate 8 {}
  sesDev : SesDev := {}
  saf : Vector SafBough 8 := Vector.replicate 8 {}
  meas : Vector SafMeas 8 := Vector.replicate 8 {}
  safDev : SafDev := {}
  mtr : Vector Mtr 8 := Vector.replicate 8 {}
  nrg : Vector Nrg 8 := Vector.replicate 8 {}
  avg : Vector NrgAvg 8 := Vector.replicate 8 {}
  nst : Vector NrgStat 8 := Vector.replicate 8 {}
  bilB : Vector BilBough 8 := Vector.replicate 8 {}
  bil : Bil := {}
  aux : Vector AuxCh 32 := Vector.replicate 32 {}
  auxDev : AuxDev := {}
  lcd : Lcd := {}
  canopy : Canopy := {}
  tag : Tag := {}
  key : KeyDev := {}
  mem : Mem := {}
  log : Log := {}
  upd : Upd := {}
  bak : Backup := {}
  nv : Nonvol := {}
  deriving DecidableEq, Repr

/-- Why a step stops. -/
inductive Fault where
  /-- A command body holds a value outside the range its chapter gives, and that chapter names no result (R739, R730).
  Raised by the host command concerned. Safe: the spec leaves the device's behaviour undefined. -/
  | undefinedBodyValue (mnemonic : String)
  /-- MEM_INJECT mode 1 with TARGET outside main SRAM general memory and the ledger bank (R739). Raised by
  MEM_INJECT_MODE1. Safe: the spec leaves the device's behaviour undefined. -/
  | undefinedInjectTarget
  deriving DecidableEq, Repr

/-- Why a command has no meaning in the model. -/
inductive Refusal where
  /-- The command's meaning is not modelled. Safe: the step stops. -/
  | notModelled (mnemonic : String)
  deriving DecidableEq, Repr

/-- The machine right after reset: every field at the value the spec states for reset, and where it states none at the
value that log entries 1 and 2 name. -/
def State.reset : State := {}

end Sys2Proof.Machine
end

