-- ==== Sys2Proof/Machine/Ops.lean ====
section
/-! DEFINITION. The operations that every family of commands shares: bit fields and byte order, checksums, byte
memories in canonical form, the shadow pages and their settings, the operating stamp, the event recorder, the event
queue and the interrupt sources. -/

namespace Sys2Proof.Machine

/-- What a command answers. -/
abbrev Res := Host.Outcome State Fault Refusal

/-! ## Bits, bytes and checksums -/

/-- Bits hi down to lo of a 32-bit register (R4). -/
def fld (w : BitVec 32) (hi lo : Nat) : Nat := (w.toNat >>> lo) % 2 ^ (hi - lo + 1)

/-- Bit i of a register. -/
def bitOf (w : BitVec 32) (i : Nat) : Bool := w.getLsbD i

/-- 1 for true. -/
def b2n (b : Bool) : Nat := if b then 1 else 0

/-- A number in two's complement of n bits. -/
def ofInt (n : Nat) (x : Int) : Nat := (x % (2 ^ n : Nat)).toNat

/-- The two's-complement value of the low n bits. -/
def toInt (n x : Nat) : Int := if x % 2 ^ n < 2 ^ (n - 1) then (x % 2 ^ n : Nat) else (x % 2 ^ n : Nat) - (2 ^ n : Nat)

/-- x held between lo and hi. -/
def clampI (lo hi x : Int) : Int := if x < lo then lo else if hi < x then hi else x

/-- n bytes of x, little-endian (R4). -/
def leN : Nat → Nat → List Byte
  | 0, _ => []
  | n + 1, x => BitVec.ofNat 8 x :: leN n (x / 256)

/-- n bytes of a signed value, little-endian. -/
def leI (n : Nat) (x : Int) : List Byte := leN n (ofInt (8 * n) x)

/-- The number that bytes spell, little-endian. -/
def ofLe : List Byte → Nat
  | [] => 0
  | b :: bs => b.toNat + 256 * ofLe bs

/-- The number that bytes spell, big-endian. -/
def ofBe (bs : List Byte) : Nat := ofLe bs.reverse

/-- Byte i; the bytes beyond the end read as 0 (R711). -/
def byteAt (bs : List Byte) (i : Nat) : Byte := bs.getD i 0

/-- n bytes from offset i, those beyond the end 0 (R711). -/
def bytesAt (bs : List Byte) (i : Nat) : Nat → List Byte
  | 0 => []
  | n + 1 => byteAt bs i :: bytesAt bs (i + 1) n

/-- n bytes from offset i as an unsigned little-endian number. -/
def leAt (bs : List Byte) (i n : Nat) : Nat := ofLe (bytesAt bs i n)

/-- x divided by d, where the spec gives no rounding: the exact quotient where it is whole, else one of the two whole
numbers beside it (log entry 37). -/
def quot (x : Int) (d : Nat) : Int :=
  if d = 0 then Config.quotByZero x
  else if x % (d : Int) = 0 then x / (d : Int)
  else x / (d : Int) + (if Config.roundUp x d then 1 else 0)

/-- The whole part of a square root below 2^64, bit by bit from the top. -/
def sqrtOf (n : Nat) : Nat :=
  (List.range 64).foldl (fun r k => let c := r + 2 ^ (63 - k); if c * c ≤ n then c else r) 0

/-- The root of the mean of squares, sum sq over n: exact where it is whole, else one of the two whole numbers beside it
(log entry 37). -/
def rms (sq n : Nat) : Nat :=
  let r := sqrtOf (sq / n)
  if n = 0 then (Config.quotByZero sq).toNat
  else if r * r * n = sq then r
  else r + (if Config.roundUp sq n then 1 else 0)

/-- A value of a field of n bits, two's complement where negative; what does not fit shows a value that the spec does not
state (log entry 116). -/
def fit (n : Nat) (x : Int) : Nat :=
  if -(2 ^ (n - 1) : Int) ≤ x ∧ x < (2 ^ n : Nat) then ofInt n x else (Config.overflow n (ofInt 64 x)).toNat % 2 ^ n

/-- A register assembled from its fields, given as low bit and value. -/
def word (fs : List (Nat × Nat)) : BitVec 32 := BitVec.ofNat 32 (fs.foldl (fun w f => w + f.2 * 2 ^ f.1) 0)

/-- n bytes from offset i as a signed little-endian number. -/
def leIAt (bs : List Byte) (i n : Nat) : Int := toInt (8 * n) (leAt bs i n)

/-- bs cut or padded with 0x00 to n bytes. -/
def padTo (n : Nat) (bs : List Byte) : List Byte := bytesAt bs 0 n

/-- One bit of a reflected CRC with polynomial p. -/
def crcBit (p c : Nat) : Nat := if c % 2 = 1 then (c / 2) ^^^ p else c / 2

/-- Eight bits of a reflected CRC. -/
def crcByte (p c : Nat) (b : Byte) : Nat :=
  crcBit p (crcBit p (crcBit p (crcBit p (crcBit p (crcBit p (crcBit p (crcBit p (c ^^^ b.toNat))))))))

/-- CRC-32C (R130). -/
def crc32c (bs : List Byte) : Nat := (bs.foldl (crcByte 0x82F63B78) 0xFFFFFFFF) ^^^ 0xFFFFFFFF

/-- The bytes followed by their CRC-32C, stored little-endian (R130). -/
def withCrc (bs : List Byte) : List Byte := bs ++ leN 4 (crc32c bs)

/-- The last four bytes are the CRC-32C of the bytes before them. -/
def crcHolds (bs : List Byte) : Bool := bs.length ≥ 4 && leAt bs (bs.length - 4) 4 == crc32c (bs.take (bs.length - 4))

/-! ## Vectors -/

/-- The vector with its entry i changed. -/
def modAt {α : Type} {n : Nat} (v : Vector α n) (i : Fin n) (f : α → α) : Vector α n := v.set i (f v[i])

/-- As modAt, for a number; the vector unchanged where it lies outside. -/
def modN {α : Type} {n : Nat} (v : Vector α n) (i : Nat) (f : α → α) : Vector α n :=
  if h : i < n then v.set i (f v[i]) else v

/-- Entry i, or d where i lies outside. -/
def getN {α : Type} {n : Nat} (v : Vector α n) (i : Nat) (d : α) : α := if h : i < n then v[i] else d

/-- The boughs 0 to 7. -/
def allBoughs : List Bough := [0, 1, 2, 3, 4, 5, 6, 7]

/-- f done for every bough in rising order. -/
def forBoughs (f : Bough → State → State) (s : State) : State := allBoughs.foldl (fun t b => f b t) s

/-- f done for the boughs whose bit of the mask is 1. -/
def forMask (m : Nat) (f : Bough → State → State) (s : State) : State :=
  forBoughs (fun b t => if m.testBit b.val then f b t else t) s

/-- The number of boughs that p holds of. -/
def countBoughs (p : Bough → Bool) : Nat := (allBoughs.filter p).length

/-- The mask of the boughs that p holds of. -/
def maskOf (p : Bough → Bool) : Nat := allBoughs.foldl (fun m b => if p b then m ||| (1 <<< b.val) else m) 0

/-- One port changed. -/
def State.onPort (s : State) (b : Bough) (f : Port → Port) : State := { s with ports := modAt s.ports b f }
def State.onLink (s : State) (b : Bough) (f : PortLink → PortLink) : State := { s with links := modAt s.links b f }
def State.onSes (s : State) (b : Bough) (f : Session → Session) : State := { s with ses := modAt s.ses b f }
def State.onSesL (s : State) (b : Bough) (f : SesLink → SesLink) : State := { s with sesL := modAt s.sesL b f }
def State.onSaf (s : State) (b : Bough) (f : SafBough → SafBough) : State := { s with saf := modAt s.saf b f }
def State.onMeas (s : State) (b : Bough) (f : SafMeas → SafMeas) : State := { s with meas := modAt s.meas b f }
def State.onMtr (s : State) (b : Bough) (f : Mtr → Mtr) : State := { s with mtr := modAt s.mtr b f }
def State.onNrg (s : State) (b : Bough) (f : Nrg → Nrg) : State := { s with nrg := modAt s.nrg b f }
def State.onAvg (s : State) (b : Bough) (f : NrgAvg → NrgAvg) : State := { s with avg := modAt s.avg b f }
def State.onNst (s : State) (b : Bough) (f : NrgStat → NrgStat) : State := { s with nst := modAt s.nst b f }
def State.onBil (s : State) (b : Bough) (f : BilBough → BilBough) : State := { s with bilB := modAt s.bilB b f }
def State.onAux (s : State) (c : Fin 32) (f : AuxCh → AuxCh) : State := { s with aux := modAt s.aux c f }

/-! ## Byte memories in canonical form

A byte memory is a list of cells with strictly rising addresses that lists no cell equal to d of its address, d giving
what an unlisted address reads as. -/

/-- The byte at address a. -/
def memGet (d : Nat → Byte) : List Host.Cell → Nat → Byte
  | [], a => d a
  | (b, v) :: m, a => if b = a then v else memGet d m a

/-- The memory with byte v at address a. -/
def memPut (d : Nat → Byte) : List Host.Cell → Nat → Byte → List Host.Cell
  | [], a, v => if v = d a then [] else [(a, v)]
  | (b, w) :: m, a, v =>
    if b < a then (b, w) :: memPut d m a v
    else if b = a then (if v = d a then m else (a, v) :: m)
    else if v = d a then (b, w) :: m else (a, v) :: (b, w) :: m

/-- Bytes written from address a on. -/
def memPuts (d : Nat → Byte) (m : List Host.Cell) (a : Nat) : List Byte → List Host.Cell
  | [] => m
  | v :: vs => memPuts d (memPut d m a v) (a + 1) vs

/-- n bytes from address a. -/
def memGets (d : Nat → Byte) (m : List Host.Cell) (a : Nat) : Nat → List Byte
  | 0 => []
  | n + 1 => memGet d m a :: memGets d m (a + 1) n

/-- The cells of src written into m. -/
def memMerge (d : Nat → Byte) (m : List Host.Cell) : List Host.Cell → List Host.Cell
  | [] => m
  | (a, v) :: src => memMerge d (memPut d m a v) src

/-- The canonical form: rising addresses, no cell that reads as unlisted. -/
def memWf (d : Nat → Byte) : List Host.Cell → Bool
  | [] => true
  | (a, v) :: m => v != d a && (match m with | [] => true | (b, _) :: _ => decide (a < b)) && memWf d m

/-- A memory whose unlisted bytes read 0x00. -/
def zeroB : Nat → Byte := fun _ => 0

/-! ## Settings: the shadow pages (R24, R141)

Offset a of the settings is the host offset minus 0x01_0000; bits 15:12 are the subsystem. -/

/-- Reset value and defined bits of a settings register in the value half (the register tables of every chapter). -/
def pageInfo (a : Nat) : Option (Nat × Nat) :=
  let s := a / 0x1000
  let o := a % 0x1000
  match s with
  | 0x0 => if o = 0 then some (0x0001FFFF, 0x0001FFFF) else none
  | 0x1 => match o with
    | 0x000 => some (0x800000D2, 0x800003FF)
    | 0x004 => some (0x00000006, 0x0000003F)
    | 0x008 => some (0x80000073, 0x800000FF)
    | _ => none
  | 0x2 => if o = 0x400 then some (0x0028060C, 0x80FFFFFF) else if o < 0x200 then
      match o % 0x40 with
      | 0 => some (0, 0xF8FF03FF)
      | 4 => some (0, 0xDFFFFFFF)
      | 8 => some (0x00000700, 0x00FF0703)
      | _ => none
    else none
  | 0x3 => match o with
    | 0 => some (0x00050000, 0xC0FFFF00)
    | 4 => some (0, 0xFFFFFFFF)
    | _ => if 0x100 ≤ o ∧ o < 0x300 then
        match o % 0x40 with
        | 0 => some (0x0000E61E, 0xE003FFFF)
        | 4 => some (0, 0xFFFFFFFF)
        | _ => none
      else none
  | 0x4 => if o = 0x400 then some (0x00000032, 0x800000FF) else if o < 0x200 then
      match o % 0x40 with
      | 0x00 => some (0x0300001E, 0xFF1F01FF)
      | 0x04 => some (0x64646432, 0xFFFFFFFF)
      | 0x08 => some (0, 0xFFFFFFFF)
      | 0x0C => some (0x006401F4, 0xFFFFFFFF)
      | 0x10 => some (0x012C1412, 0x03FFFFFF)
      | 0x14 => some (0x01D601D6, 0xFFFFFFFF)
      | _ => none
    else none
  | 0x5 => if o < 0xC00 then
      match o % 0x10 with
      | 0x0 => some (0x00400000, 0x00FFFFFF)
      | 0x4 => some (0, 0x00FFFFFF)
      | 0x8 => some (0, 0xF80007FF)
      | 0xC => some (0, 0xFFFFFFFF)
      | _ => none
    else if o < 0xC20 then (if o % 4 = 0 then some (0x800007D0, 0xC000FFFF) else none)
    else if o = 0xC40 then some (0x00000105, 0x0000FFFF) else none
  | 0x6 => if o = 0x400 then some (0x0000140A, 0x0000FFFF)
    else if o < 0x200 ∧ o % 0x40 = 0 then some (0x60000000, 0xE00FFFFF) else none
  | 0x7 => if o = 0 then some (0x28000000, 0xFC000000) else none
  | 0x8 => if o = 0x100 then some (0x000A03E8, 0xDFFF3FFF) else if o = 0x104 then some (0xFFFFFFFF, 0xFFFFFFFF)
    else if o < 0x80 ∧ o % 4 = 0 then some (0, 0xFFDFFC1F) else none
  | 0x9 => match o with
    | 0 => some (0x852003E8, 0xFFFF83FF)
    | 4 => some (0xFF00DE3C, 0xFFFFFFFF)
    | _ => none
  | 0xA => match o with
    | 0 => some (0x80000000, 0xC0FFFFFF)
    | 4 => some (0x00282830, 0x00FFFFFF)
    | 8 => some (0x0000194B, 0xFFFFFFFF)
    | _ => if 0x100 ≤ o ∧ o < 0x180 ∧ o % 4 = 0 then some (0, 0xFFFFFFFF) else none
  | 0xB => if o = 0 then some (0xE8000000, 0xF80000FF) else none
  | 0xC => if o = 0 then some (7, 7) else none
  | 0xD => match o with
    | 0x00 => some (0x8000000A, 0x800007FF)
    | 0x04 => some (0xC0640040, 0xC3FF00FF)
    | 0x08 => some (0, 0xFFFFFFF8)
    | 0x0C => some (0, 0xFFFFFFFF)
    | 0x10 => some (0, 0xFFFFFFFF)
    | 0x14 => some (0, 0x00007FFF)
    | _ => none
  | 0xE => match o with
    | 0 => some (0x801E303C, 0x80FFF0FF)
    | 4 => some (0x00001020, 0x0000FFFF)
    | _ => none
  | 0xF => if o = 0 then some (0x00001E3C, 0x8000FFFF) else none
  | _ => none

/-- The safety page's inverse half holds each defined bit inverted, 0x800 above its value (R142). -/
def isInverse (a : Nat) : Bool := a / 0x1000 == 4 && a % 0x1000 ≥ 0x800

/-- Reset value and defined bits of the register at a, the inverse half of the safety page included (R142). -/
def pageInfo2 (a : Nat) : Option (Nat × Nat) :=
  if isInverse a then (pageInfo (a - 0x800)).map (fun rm => (rm.1 ^^^ rm.2, rm.2)) else pageInfo a

/-- Reset value of a settings byte; bytes that hold no register read 0 (R5). -/
def pageReset (a : Nat) : Byte :=
  match pageInfo2 (a - a % 4) with
  | some (r, _) => BitVec.ofNat 8 (r >>> (8 * (a % 4)))
  | none => 0

/-- Defined bits of a settings byte; the reserved ones take no write (R5). -/
def pageMask (a : Nat) : Byte :=
  match pageInfo2 (a - a % 4) with
  | some (_, m) => BitVec.ofNat 8 (m >>> (8 * (a % 4)))
  | none => 0

/-- A byte written to a settings page: reserved bits ignore it and read 0 (R5). -/
def pagePut (m : List Host.Cell) (a : Nat) (v : Byte) : List Host.Cell :=
  if a < 0x10000 then memPut pageReset m a (v &&& pageMask a) else m

/-- Bytes written to a settings page. -/
def pagePuts (m : List Host.Cell) (a : Nat) : List Byte → List Host.Cell
  | [] => m
  | v :: vs => pagePuts (pagePut m a v) (a + 1) vs

/-- The 32-bit register at a of a page copy. -/
def pageWord (m : List Host.Cell) (a : Nat) : BitVec 32 := BitVec.ofNat 32 (ofLe (memGets pageReset m a 4))

/-- m with the settings of src wherever p holds of their offset. -/
def pageTake (p : Nat → Bool) (m src : List Host.Cell) : List Host.Cell :=
  memMerge pageReset (m.filter (fun c => !p c.1)) (src.filter (fun c => p c.1))

/-- The register at a of the values in force (R141). -/
def State.cfg (s : State) (a : Nat) : BitVec 32 := pageWord s.host.applied a

/-- The settings registers by name, in force (R141); the name's chapter describes the fields. -/
def State.hstCfg (s : State) := s.cfg 0x0000
def State.sysPaceAlarm (s : State) := s.cfg 0x1000
def State.sysBgCap (s : State) := s.cfg 0x1004
def State.sysTempWarn (s : State) := s.cfg 0x1008
def State.vehPortCfg (s : State) (b : Bough) := s.cfg (0x2000 + 0x40 * b.val)
def State.vehPpCfg (s : State) (b : Bough) := s.cfg (0x2004 + 0x40 * b.val)
def State.vehModemCfg (s : State) (b : Bough) := s.cfg (0x2008 + 0x40 * b.val)
def State.vehSlacCfg (s : State) := s.cfg 0x2400
def State.sesAuthCfg (s : State) := s.cfg 0x3000
def State.sesCreditCfg (s : State) := s.cfg 0x3004
def State.sesBoughCfg (s : State) (b : Bough) := s.cfg (0x3100 + 0x40 * b.val)
def State.sesCeilCfg (s : State) (b : Bough) := s.cfg (0x3104 + 0x40 * b.val)
def State.safBoughCfg (s : State) (b : Bough) := s.cfg (0x4000 + 0x40 * b.val)
def State.safCoilCfg (s : State) (b : Bough) := s.cfg (0x4004 + 0x40 * b.val)
def State.safDcCfg (s : State) (b : Bough) := s.cfg (0x4008 + 0x40 * b.val)
def State.safImdCfg (s : State) (b : Bough) := s.cfg (0x400C + 0x40 * b.val)
def State.safSenseCfg (s : State) (b : Bough) := s.cfg (0x4010 + 0x40 * b.val)
def State.safBridgeCfg (s : State) (b : Bough) := s.cfg (0x4014 + 0x40 * b.val)
def State.safDevCfg (s : State) := s.cfg 0x4400
def State.mtrGain (s : State) (c : Nat) := s.cfg (0x5000 + 0x10 * c)
def State.mtrOffset (s : State) (c : Nat) := s.cfg (0x5004 + 0x10 * c)
def State.mtrShape (s : State) (c : Nat) := s.cfg (0x5008 + 0x10 * c)
def State.mtrFs (s : State) (c : Nat) := s.cfg (0x500C + 0x10 * c)
def State.mtrRsvCfg (s : State) (b : Bough) := s.cfg (0x5C00 + 4 * b.val)
def State.mtrDevCfg (s : State) := s.cfg 0x5C40
def State.nrgBoughCfg (s : State) (b : Bough) := s.cfg (0x6000 + 0x40 * b.val)
def State.nrgDevCfg (s : State) := s.cfg 0x6400
def State.bilCfg (s : State) := s.cfg 0x7000
def State.auxChCfg (s : State) (c : Nat) := s.cfg (0x8000 + 4 * c)
def State.auxDevCfg (s : State) := s.cfg 0x8100
def State.auxScanMask (s : State) := s.cfg 0x8104
def State.lcdCfg (s : State) := s.cfg 0x9000
def State.lcdPageCfg (s : State) := s.cfg 0x9004
def State.cnpCfg (s : State) := s.cfg 0xA000
def State.cnpTurnCfg (s : State) := s.cfg 0xA004
def State.cnpLmCfg (s : State) := s.cfg 0xA008
def State.tagCfg (s : State) := s.cfg 0xB000
def State.keyTamperCfg (s : State) := s.cfg 0xC000
def State.memScrubCfg (s : State) := s.cfg 0xD000
def State.memTestCfg (s : State) := s.cfg 0xD004
def State.memInjectCfg (s : State) := s.cfg 0xD008
def State.memFlipmask (s : State) (i : Nat) := s.cfg (0xD00C + 4 * i)
def State.logCfg (s : State) := s.cfg 0xE000
def State.logBudget (s : State) := s.cfg 0xE004
def State.updCfg (s : State) := s.cfg 0xF000

/-! ## Time -/

/-- ALARM_LEVEL; values below 100 act as 100 (R56). -/
def alarmLevel (s : State) : Nat := max 100 (fld s.sysPaceAlarm 9 0)

/-- The operating stamp (R18). -/
def State.opstamp (s : State) : BitVec 64 := BitVec.ofNat 64 (s.lat.cycles * 2 ^ 40 + s.lat.optime % 2 ^ 40)

/-- Calendar time is known (R20). -/
def State.timeKnown (s : State) : Bool := s.bak.caltime != 0xFFFFFFFF

/-- Calendar time in UTC seconds. -/
def State.now (s : State) : Nat := s.bak.caltime.toNat

/-- BELOW_HWM: calendar time has been set back to the high-water mark or below it, and has not passed it since (R409). -/
def State.belowHwm (s : State) : Bool := s.timeKnown && s.bil.extended && decide (s.now ≤ s.bil.hwm)

/-- A free value of w bits and the state with the model's counter advanced (log entry 4). -/
def State.free (s : State) (w : Nat) : BitVec w × State :=
  (Config.freeValue s.freeCount, { s with freeCount := s.freeCount + 1 })

/-! ## Windows of the host port (R704) -/

/-- The start has stopped (R126). -/
def State.stopped (s : State) : Bool := s.start.phase == 0xF

/-- The windows available at the end of P2 are open (R704, R126). -/
def State.open2 (s : State) : Bool := s.start.done ≥ 3 || (s.stopped && s.start.stopReason != 0x01)

/-- The shadow pages and the commit path are open (R140). -/
def State.open3 (s : State) : Bool := s.start.done ≥ 4

/-- The event log is available: P4 has completed (R640). -/
def State.open4 (s : State) : Bool := s.start.done ≥ 5

/-- READY: P7 has been reached and the device runs. -/
def State.ready (s : State) : Bool := s.start.done ≥ 8

/-- Life-cycle codes of R565 that later definitions name. -/
def lcFactory : Nat := 0
def lcPersonalised : Nat := 1
def lcDeployed : Nat := 2
def lcService : Nat := 3
def lcScrapped : Nat := 7

/-! ## Interrupt sources (R718) -/

/-- Interrupt source i latched (R718, R731). -/
def raiseIrq (i : Nat) (s : State) : State := { s with host.irq := s.host.irq ||| BitVec.ofNat 12 (1 <<< i) }

/-! ## The event recorder (R635 to R644) -/

/-- Events that reach the host only and are never written to the log (R642). -/
def hostOnly (code : Nat) : Bool := [0x0002, 0x0304, 0x0608, 0x070B, 0x0A0C, 0x0C09].contains code

/-- Exempt codes (R643). -/
def exemptCode (code : Nat) : Bool :=
  [0x0112, 0x0403, 0x0404, 0x0409, 0x0702, 0x0703, 0x0705, 0x0706, 0x0707, 0x0708, 0x0C01, 0x0C03, 0x0C04,
   0x0701].contains code || code / 256 == 0x0E

/-- Flood-class codes (R643). -/
def floodCode (code : Nat) : Bool :=
  [0x0104, 0x0106, 0x0108, 0x0209, 0x0501, 0x0602, 0x0802, 0x0A05, 0x0A0A, 0x0B01, 0x0C08, 0x0D01].contains code

/-- The class and budget of a code that is not exempt: flood, and the budget (R643, R753). -/
def codeClass (s : State) (code : Nat) : Bool × Nat :=
  match s.log.override.find? (fun e => e.1 == code) with
  | some (_, budget, cls) => (cls == 1, budget)
  | none => if floodCode code then (true, fld s.logBudget 15 8) else (false, fld s.logBudget 7 0)

/-- Bytes that a record takes (R635). -/
def recSize (dlen : Nat) : Nat := (28 + dlen + 7) / 8 * 8

/-- Bytes that the queue of the recorder holds. -/
def logFill (s : State) : Nat := (s.log.queue.map (fun r => recSize r.data.length)).sum

/-- A record with the fields common to all records (R635, R22, R648, R649). -/
def mkRec (s : State) (code bough : Nat) (flags : Nat) (data : List Byte) : LogRec :=
  { code := code, bough := bough,
    flags := BitVec.ofNat 8 (flags + 4 * b2n s.belowHwm
      + 8 * b2n (s.lat.cycles == 0xFFFFFF && code != 0x0E06)),
    opstamp := s.opstamp, caltime := s.bak.caltime, data := data }

/-- A record that R644 keeps takes the next SEQ and enters the queue, or is lost when its part is full (R637, R641). -/
def enqueueRec (r : LogRec) (s : State) : State :=
  let r' := { r with seq := s.log.next }
  let s := { s with log.next := s.log.next + 1 }
  let room := if exemptCode r.code then 65536 else 57344
  if logFill s + recSize r.data.length ≤ room then { s with log.queue := s.log.queue ++ [r'] }
  else { s with log.lost := min 255 (s.log.lost + 1), log.lostDue := s.log.lostDue + 1 }

/-- The count of one code in the running window (R644). -/
def budgetOf (s : State) (code : Nat) : Budget := (s.log.budgets.find? (fun e => e.code == code)).getD { code := code }

def putBudget (e : Budget) (s : State) : State :=
  { s with log.budgets := s.log.budgets.filter (fun x => x.code != e.code) ++ [e] }

/-- One record beyond its budget counted (R644, R661). -/
def countOver (e : Budget) (diverted : Bool) (stamp : BitVec 64) (s : State) : State :=
  putBudget { e with overrun := e.overrun + 1, diverted := diverted,
                     first := if e.overrun = 0 then stamp else e.first, last := stamp }
    { s with log.overrun := min 65535 (s.log.overrun + 1) }

/-- The ring decision of R637 and R644 for one record. -/
def decideRec (r : LogRec) (s : State) : State :=
  if exemptCode r.code then enqueueRec r s
  else
    let cb := codeClass s r.code
    let e := budgetOf s r.code
    if cb.2 = 255 ∨ e.count < cb.2 then enqueueRec r (putBudget { e with count := e.count + 1 } s)
    else if cb.1 && bitOf s.logCfg 31 then
      enqueueRec { r with flags := r.flags ||| 0x10 } (countOver e true r.opstamp s)
    else countOver e false r.opstamp s

/-- A record held before the log is available, within the limits of R641. -/
def holdRec (r : LogRec) (s : State) : State :=
  let r := { r with flags := r.flags ||| 1 }
  if s.start.done < 3 then
    if s.log.heldEarly < 16 then { s with log.held := s.log.held ++ [r], log.heldEarly := s.log.heldEarly + 1 }
    else { s with log.heldLost := s.log.heldLost + 1 }
  else if s.log.held.length - s.log.heldEarly < 256 then { s with log.held := s.log.held ++ [r] }
  else { s with log.heldLost := s.log.heldLost + 1 }

/-- An event recorded in the event log: held before P4 completes, decided after (R640, R644). -/
def recordEvent (code bough flags : Nat) (data : List Byte) (s : State) : State :=
  if hostOnly code then s
  else if s.log.logOn then decideRec (mkRec s code bough flags data) s
  else holdRec (mkRec s code bough flags data) s

/-! ## The event queue (R712 to R714) -/

/-- Bytes of the queued messages. -/
def eqUsed (s : State) : Nat := (s.host.eq.map (fun m => 8 + m.body.length)).sum

/-- The event takes the next SEQ, or none for event 0x0304 (R712). -/
def eqAdvance (code : Nat) (s : State) : State :=
  if code = 0x0304 then s else { s with host.eqSeq := (s.host.eqSeq + 1) % 256 }

/-- The message of an event, with the queue's SEQ, or 0 for event 0x0304 (R712). -/
def mkMsg (code bough tag : Nat) (data : List Byte) (s : State) : Msg :=
  { type := code, bough := bough, seq := if code = 0x0304 then 0 else s.host.eqSeq, tag := tag, body := data }

/-- Bytes of the queue that an event may fill: the last 8 KiB are held for answers (R714). -/
def eqRoom (answers : Bool) : Nat := if answers then 65536 else 57344

/-- One event lost: LOST, EQ_LOST and, once per second, event 0x0003 (R714). -/
def eqLose (first : Nat) (s : State) : State :=
  let s := raiseIrq 8 { s with host.eqLost := min 255 (s.host.eqLost + 1) }
  if s.host.lostNoted then s
  else
    let data := leN 4 1 ++ leN 1 first
    let s := recordEvent 0x0003 255 0 data { s with host.lostNoted := true }
    if bitOf s.hstCfg 0 && decide (eqUsed s + 8 + data.length ≤ eqRoom false) then
      eqAdvance 0x0003 { s with host.eq := s.host.eq ++ [mkMsg 0x0003 255 0 data s] }
    else s

/-- An arriving event placed in the event queue, or lost (R712, R714). -/
def placeEvent (code bough tag : Nat) (answers : Bool) (data : List Byte) (s : State) : State :=
  let m := mkMsg code bough tag data s
  if eqUsed s + 8 + data.length ≤ eqRoom answers then eqAdvance code { s with host.eq := s.host.eq ++ [m] }
  else if code = 0x0304 ∧ s.host.eq.any (fun x => x.type == 0x0304 && x.bough == bough) then
    { s with host.eq := s.host.eq.map (fun x => if x.type == 0x0304 && x.bough == bough then m else x) }
  else eqLose s.host.eqSeq (eqAdvance code s)

/-- The port places the event in its queue (R712): an answer always, another when EVT_MASK selects its subsystem. -/
def postEvent (code bough tag : Nat) (answers : Bool) (data : List Byte) (s : State) : State :=
  if !s.open2 || code == 0x0701 then s
  else if answers then placeEvent code bough tag true data s
  else if bitOf s.hstCfg (code / 256) && (code != 0x0304 || bitOf s.hstCfg 16) then placeEvent code bough tag false data s
  else s

/-- An event of bough b (255: device-wide): recorded, and placed in the event queue with tag 0 (R706). -/
def emit (code bough : Nat) (data : List Byte) (s : State) : State :=
  postEvent code bough 0 false data (recordEvent code bough 0 data s)

/-- An event that reports an earlier power cycle carries AT_START (R752). -/
def emitAtStart (code bough : Nat) (data : List Byte) (s : State) : State :=
  postEvent code bough 0 false data (recordEvent code bough 2 data s)

/-- An event that answers a command echoes its tag (R706). -/
def answer (code bough tag : Nat) (data : List Byte) (s : State) : State :=
  postEvent code bough tag true data (recordEvent code bough 0 data s)

/-! ## Trunk stops (R26) that events name -/

def State.onHost (s : State) (f : HostPort → HostPort) : State := { s with host := f s.host }

end Sys2Proof.Machine
end

