-- ==== Sys2Proof/Machine/Aes.lean ====
section
/-! DEFINITION. AES-128 and AES-256 (FIPS 197) and their Galois counter mode (NIST SP 800-38D) for 12-byte nonces, the
public algorithms that R512, R513 and R568 name, written out over lists of numbers 0 to 255. -/

namespace Sys2Proof.Machine

/-- The S-box in rows of 32 bytes, entry 0 of a row in its low byte. -/
def aesRows : List Nat :=
  [0xC072A49CAFA2D4ADF04759FA7DC982CA76ABD7FE2B670130C56F6BF27B777C63]
  ++ [0x75B227EBE28012079A059618C323C7041531D871F1E5A534CCF73F362693FDB7]
  ++ [0xCF584C4A39BECB6A5BB1FC20ED00D153842FE329B3D63B52A05A6E1B1A2C8309]
  ++ [0xD2F3FF1021DAB6BCF5389D928F40A351A89F3C507F02F94585334D43FBAAEFD0]
  ++ [0xDB0B5EDE14B8EE4688902A22DC4F816073195D643D7EA7C41744975FEC130CCD]
  ++ [0x08AE7A65EAF4566CA94ED58D6D37C8E779E4959162ACD3C25C2406490A3A32E0]
  ++ [0x9E1DC186B95735610EF6034866B53E708A8BBD4B1F74DDE8C6B4A61C2E2578BA]
  ++ [0x16BB54B00F2D99416842E6BF0D89A18CDF2855CEE9871E9B948ED9691198F8E1]

/-- The S-box. -/
def aesSub (x : Nat) : Nat := (aesRows.getD (x / 32) 0 >>> (8 * (x % 32))) % 256

/-- Twice x in the field of FIPS 197. -/
def aesDouble (x : Nat) : Nat := if x < 128 then 2 * x else (2 * x) ^^^ 0x11B

/-- The four bytes of a word, the high one first. -/
def aesBytes (w : Nat) : List Nat := [w / 2 ^ 24 % 256, w / 2 ^ 16 % 256, w / 2 ^ 8 % 256, w % 256]

/-- The number that bytes spell, the high one first. -/
def aesWord (bs : List Nat) : Nat := bs.foldl (fun n b => 256 * n + b) 0

/-- The round constant that FIPS 197 adds at the j-th turn of the key schedule, j from 0. -/
def aesRcon (j : Nat) : Nat := (List.range j).foldl (fun x _ => aesDouble x) 1

/-- The words of the schedule of a key of nk words, newest first: n more from word i on. -/
def aesExpand (nk : Nat) : Nat → Nat → List Nat → List Nat
  | 0, _, ws => ws
  | n + 1, i, ws =>
    let t := ws.getD 0 0
    let u :=
      if i % nk = 0 then aesWord ((aesBytes (t % 2 ^ 24 * 256 + t / 2 ^ 24)).map aesSub) ^^^ (aesRcon (i / nk - 1) * 2 ^ 24)
      else if 6 < nk ∧ i % nk = 4 then aesWord ((aesBytes t).map aesSub)
      else t
    aesExpand nk n (i + 1) ((ws.getD (nk - 1) 0 ^^^ u) :: ws)

/-- The words of the schedule of a key of 16 or 32 bytes, in order. -/
def aesKeys (key : List Nat) : List Nat :=
  let nk := key.length / 4
  (aesExpand nk (3 * nk + 28) nk (((List.range nk).map (fun i => aesWord ((key.drop (4 * i)).take 4))).reverse)).reverse

/-- The round key of round r. -/
def aesRoundKey (ks : List Nat) (r : Nat) : List Nat := ((ks.drop (4 * r)).take 4).flatMap aesBytes

/-- Two lists added without carry. -/
def aesXor (a b : List Nat) : List Nat := List.zipWith (· ^^^ ·) a b

/-- Rows shifted: byte r of column c comes from column c + r. -/
def aesShift (st : List Nat) : List Nat :=
  (List.range 16).map (fun i => st.getD (4 * ((i / 4 + i % 4) % 4) + i % 4) 0)

/-- One column mixed. -/
def aesMix (c : List Nat) : List Nat :=
  (List.range 4).map (fun r =>
    let x := fun (i : Nat) => c.getD ((r + i) % 4) 0
    aesDouble (x 0) ^^^ aesDouble (x 1) ^^^ x 1 ^^^ x 2 ^^^ x 3)

/-- The columns mixed. -/
def aesMixAll (st : List Nat) : List Nat := (List.range 4).flatMap (fun c => aesMix ((st.drop (4 * c)).take 4))

/-- Round r of n; the last mixes no column. -/
def aesRound (ks : List Nat) (n : Nat) (st : List Nat) (r : Nat) : List Nat :=
  let u := aesShift (st.map aesSub)
  aesXor (if r = n then u else aesMixAll u) (aesRoundKey ks r)

/-- One block of 16 bytes encrypted under a key schedule. -/
def aesBlock (ks : List Nat) (block : List Nat) : List Nat :=
  let n := ks.length / 4 - 1
  ((List.range n).map (· + 1)).foldl (aesRound ks n) (aesXor block (aesRoundKey ks 0))

/-- One bit of the product in the field of SP 800-38D: bit i of x from the top. -/
def ghashBit (x : Nat) (zv : Nat × Nat) (i : Nat) : Nat × Nat :=
  (if x.testBit (127 - i) then zv.1 ^^^ zv.2 else zv.1,
   if zv.2 % 2 = 1 then zv.2 / 2 ^^^ (0xE1 * 2 ^ 120) else zv.2 / 2)

/-- The product in the field of SP 800-38D. -/
def ghashMul (x y : Nat) : Nat := ((List.range 128).foldl (ghashBit x) (0, y)).1

/-- Bytes cut into blocks of 16, the last padded with 0; n bounds their number. -/
def aesBlocks : Nat → List Nat → List (List Nat)
  | 0, _ => []
  | _, [] => []
  | n + 1, b :: bs => (((b :: bs).take 16) ++ List.replicate (16 - (b :: bs).length) 0) :: aesBlocks n ((b :: bs).drop 16)

/-- The tag of associated data and ciphertext, before its encryption. -/
def ghash (h : Nat) (aad ct : List Nat) : Nat :=
  let blocks := aesBlocks aad.length aad ++ aesBlocks ct.length ct
  let last := 8 * aad.length * 2 ^ 64 + 8 * ct.length
  ghashMul ((blocks.foldl (fun y b => ghashMul (y ^^^ aesWord b) h) 0) ^^^ last) h

/-- The counter block of a nonce. -/
def gcmCounter (nonce : List Nat) (i : Nat) : List Nat := nonce ++ aesBytes i

/-- Bytes as numbers. -/
def toNats (bs : List Byte) : List Nat := bs.map (·.toNat)

/-- The tag of AES-GCM (R512, R513, R568). -/
def gcmTag (key nonce aad ct : List Byte) : List Byte :=
  let ks := aesKeys (toNats key)
  let h := aesWord (aesBlock ks (List.replicate 16 0))
  let t := ghash h (toNats aad) (toNats ct) ^^^ aesWord (aesBlock ks (gcmCounter (toNats nonce) 1))
  (List.range 16).map (fun i => BitVec.ofNat 8 (t >>> (8 * (15 - i))))

/-- A text of AES-GCM under its key stream (R512, R513, R568). -/
def gcmText (key nonce text : List Byte) : List Byte :=
  let ks := aesKeys (toNats key)
  let stream := (List.range ((text.length + 15) / 16)).flatMap (fun i => aesBlock ks (gcmCounter (toNats nonce) (i + 2)))
  List.zipWith (fun b k => b ^^^ BitVec.ofNat 8 k) text stream

/-- AES-GCM opened: key, nonce, associated data, ciphertext, tag; none when the tag fails (R512, R513, R568). -/
def gcmOpen (key nonce aad ct tag : List Byte) : Option (List Byte) :=
  if gcmTag key nonce aad ct = tag then some (gcmText key nonce ct) else none

end Sys2Proof.Machine
end

