-- ==== Sys2Proof/Machine/Hash.lean ====
section
/-! DEFINITION. SHA-256, HMAC-SHA-256 and HKDF-SHA-256, the public algorithms that the manual names (R217, R421, R567,
R570), written out over byte lists. -/

namespace Sys2Proof.Machine

/-- The round constants in rows of eight words, the first word of a row in its high bits. -/
def shaRows : List Nat :=
  [0x428A2F9871374491B5C0FBCFE9B5DBA53956C25B59F111F1923F82A4AB1C5ED5]
  ++ [0xD807AA9812835B01243185BE550C7DC372BE5D7480DEB1FE9BDC06A7C19BF174]
  ++ [0xE49B69C1EFBE47860FC19DC6240CA1CC2DE92C6F4A7484AA5CB0A9DC76F988DA]
  ++ [0x983E5152A831C66DB00327C8BF597FC7C6E00BF3D5A7914706CA635114292967]
  ++ [0x27B70A852E1B21384D2C6DFC53380D13650A7354766A0ABB81C2C92E92722C85]
  ++ [0xA2BFE8A1A81A664BC24B8B70C76C51A3D192E819D6990624F40E3585106AA070]
  ++ [0x19A4C1161E376C082748774C34B0BCB5391C0CB34ED8AA4A5B9CCA4F682E6FF3]
  ++ [0x748F82EE78A5636F84C878148CC7020890BEFFFAA4506CEBBEF9A3F7C67178F2]

/-- Word i of the eight words that a number holds, the first in its high bits. -/
def shaWord (x i : Nat) : Nat := (x >>> (32 * (7 - i))) % 2 ^ 32

/-- The round constants in the order of their use. -/
def shaConstants : List Nat := shaRows.flatMap (fun r => (List.range 8).map (shaWord r))

/-- A word turned right by n bits. -/
def turn (n x : Nat) : Nat := x >>> n ||| (x <<< (32 - n)) % 2 ^ 32

/-- Three turns of a word added without carry. -/
def turns (i j k x : Nat) : Nat := Nat.xor (turn i x) (Nat.xor (turn j x) (turn k x))

/-- The schedule's word after the sixteen of a window. -/
def shaNext (win : List Nat) : Nat :=
  let low := win.getD 1 0
  let high := win.getD 14 0
  (win.getD 0 0 + win.getD 9 0 + Nat.xor (Nat.xor (turn 7 low) (turn 18 low)) (low >>> 3)
    + Nat.xor (Nat.xor (turn 17 high) (turn 19 high)) (high >>> 10)) % 2 ^ 32

/-- The words worked on after a round in which kw, the constant and the schedule's word together, goes in. -/
def shaMix (kw : Nat) (v : List Nat) : List Nat :=
  let x := fun (i : Nat) => v.getD i 0
  let pick := Nat.xor (x 6) (Nat.land (x 4) (Nat.xor (x 5) (x 6)))
  let most := Nat.lor (Nat.land (x 0) (x 1)) (Nat.land (x 2) (Nat.lor (x 0) (x 1)))
  let into := x 7 + kw + pick + turns 6 11 25 (x 4)
  [(into + most + turns 2 13 22 (x 0)) % 2 ^ 32, x 0, x 1, x 2, (x 3 + into) % 2 ^ 32, x 4, x 5, x 6]

/-- All rounds over a window of sixteen words: each takes the window's first word and puts the next one at its end. -/
def shaRounds : List Nat → List Nat → List Nat → List Nat
  | [], _, v => v
  | k :: ks, win, v => shaRounds ks (win.drop 1 ++ [shaNext win]) (shaMix (k + win.getD 0 0) v)

/-- The words of a block of 64 bytes, each with its high byte first. -/
def shaWindow (block : List Byte) : List Nat := (List.range 16).map (fun i => ofBe ((block.drop (4 * i)).take 4))

/-- The chaining value, eight words, after n blocks. -/
def shaChain : Nat → List Nat → List Byte → List Nat
  | 0, v, _ => v
  | n + 1, v, bs =>
    let u := shaRounds shaConstants (shaWindow (bs.take 64)) v
    shaChain n ((List.range 8).map (fun i => (v.getD i 0 + u.getD i 0) % 2 ^ 32)) (bs.drop 64)

/-- The first chaining value. -/
def shaStart : List Nat :=
  (List.range 8).map (shaWord 0x6A09E667BB67AE853C6EF372A54FF53A510E527F9B05688C1F83D9AB5BE0CD19)

/-- n bytes of x, big-endian. -/
def beN (n x : Nat) : List Byte := (leN n x).reverse

/-- The padded message. -/
def shaPad (bs : List Byte) : List Byte :=
  bs ++ 0x80 :: List.replicate ((119 - bs.length % 64) % 64) 0 ++ beN 8 (8 * bs.length)

/-- SHA-256: 32 bytes. -/
def sha256 (bs : List Byte) : List Byte :=
  let m := shaPad bs
  (shaChain (m.length / 64) shaStart m).flatMap (beN 4)

/-- The HMAC key block. -/
def hmacKey (key : List Byte) : List Byte := padTo 64 (if key.length ≤ 64 then key else sha256 key)

/-- HMAC-SHA-256. -/
def hmac (key msg : List Byte) : List Byte :=
  let k := hmacKey key
  sha256 (k.map (· ^^^ 0x5C) ++ sha256 (k.map (· ^^^ 0x36) ++ msg))

/-- n blocks of HKDF-Expand after the block t with counter i. -/
def hkdfExpand (prk info : List Byte) : Nat → Nat → List Byte → List Byte
  | 0, _, _ => []
  | n + 1, i, t =>
    let u := hmac prk (t ++ info ++ [BitVec.ofNat 8 i])
    u ++ hkdfExpand prk info n (i + 1) u

/-- HKDF-SHA-256 of RFC 5869: input key, salt, info, length (R570). -/
def hkdf (ikm salt info : List Byte) (len : Nat) : List Byte :=
  (hkdfExpand (hmac salt ikm) info ((len + 31) / 32) 1 []).take len

/-- The characters of a label as ASCII bytes. -/
def ascii (t : String) : List Byte := t.toList.map (fun c => BitVec.ofNat 8 c.toNat)

/-! ## Roots and derived keys (R562 to R571) -/

/-- The life-cycle code of R565: SERVICE is DEPLOYED in the fuses with the SERVICE flag. -/
def State.lifecycle (s : State) : Nat := if s.nv.life = lcDeployed ∧ s.bak.service then lcService else s.nv.life

/-- Slot of the root in use, 15 for none (R565, R583). -/
def State.rootInUse (s : State) : Nat :=
  match s.lifecycle with
  | 0 | 1 => 0
  | 2 => 1
  | 3 => 2
  | _ => 15

/-- The root of a slot: the XOR of its shares (R563); none when the slot is empty. -/
def State.rootOf (s : State) (i : Nat) : Option (List Byte) :=
  match getN s.bak.roots i none with
  | some r => some (beN 32 (r.shareA ^^^ r.shareB).toNat)
  | none => none

/-- The check word of a root: the first 4 bytes of HMAC-SHA-256 keyed by it over "check" (R564). -/
def checkWord (root : List Byte) : BitVec 32 := BitVec.ofNat 32 (ofBe ((hmac root (ascii "check")).take 4))

/-- The heartwood root is available: slot 3 holds it and the state is PERSONALISED, DEPLOYED or SERVICE (R565). -/
def State.heartwoodRoot (s : State) : Option (List Byte) :=
  if s.lifecycle = lcPersonalised ∨ s.lifecycle = lcDeployed ∨ s.lifecycle = lcService then s.rootOf 3 else none

/-- The ASCII label and the length of a derived key (R571). -/
def labelText : KeyLabel → String × Nat
  | .roniAuth => ("ronif-auth", 32)
  | .updateAuth => ("update-auth", 32)
  | .lifecycle => ("lifecycle", 32)
  | .canopyWrap => ("canopy-wrap", 32)
  | .seccP256 => ("secc-p256", 40)
  | .seccP521 => ("secc-p521", 74)
  | .seccEd448 => ("secc-ed448", 57)
  | .readingSign => ("reading-sign", 40)
  | .install => ("install", 32)

/-- A key derived from a root, salt SERIAL (R570, R571). -/
def State.derive (s : State) (root : List Byte) (l : KeyLabel) : List Byte :=
  hkdf root s.nv.serial (ascii (labelText l).1 ++ [0]) (labelText l).2

/-- The install key, from the fuse install secret (R568). -/
def State.installKey (s : State) : List Byte := s.derive s.nv.installSecret .install

end Sys2Proof.Machine
end

