-- ==== Sys2Proof/Machine/Recorder.lean ====
section
/-! DEFINITION. What many families need of the service tag's memory, the histograms and a fatal error: tag pages
(R540, R546), histograms (R645) and the declaration of a fatal error (R652, R654). -/

namespace Sys2Proof.Machine

/-! ## Tag pages -/

/-- The 64 bytes of page p of the tag memory. -/
def tagPage (s : State) (p : Nat) : List Byte := memGets zeroB s.nv.tagMem (64 * p) 64

/-- The mirror's page with the bytes that no host write has marked taken from bs (R550). -/
def mirrorPage (marked : List Nat) (m : List Host.Cell) (a : Nat) : List Byte → List Host.Cell
  | [] => m
  | v :: vs => mirrorPage marked (if marked.contains a then m else memPut zeroB m a v) (a + 1) vs

/-- The mirror after a transaction on page p: it follows while VIO is present (R546, R550). -/
def mirrorAfter (p : Nat) (bs : List Byte) (s : State) : List Host.Cell :=
  if s.bak.onVbak then s.tag.mirror else mirrorPage s.tag.marked s.tag.mirror (64 * p) bs

/-- One journalled transaction writes page p: the journal pair advances in rotation, the page takes its content, the
header is erased, the mirror follows (R546, R550, R555). -/
def tagCommit (p : Nat) (bs : List Byte) (s : State) : State :=
  let bs := padTo 64 bs
  let slot := 240 + 2 * s.tag.pair
  { s with
    nv.tagMem := memPuts zeroB (memPuts zeroB (memPuts zeroB s.nv.tagMem (64 * slot) bs) (64 * (slot + 1))
      (List.replicate 64 0)) (64 * p) bs,
    tag.mirror := mirrorAfter p bs s,
    tag.pair := (s.tag.pair + 1) % 8, tag.seq := s.tag.seq + 1, tag.lastOwner := 2, tag.owner := 0,
    tag.writes := min 65535 (s.tag.writes + 1) }

/-- A page that the device writes ends in the CRC-32C of its bytes 0 to 59 (R540). -/
def tagWritePage (p : Nat) (body : List Byte) (s : State) : State := tagCommit p (withCrc (padTo 60 body)) s

/-! ## Histograms (R645) -/

/-- LOW and STEP of a histogram. -/
def histScale (id : Nat) : Int × Int :=
  if id < 32 then
    match id % 4 with
    | 0 => (-20, 10)
    | 1 => (1000, 5000)
    | 2 => (5, 15)
    | _ => (1, 2)
  else match id with
    | 32 | 33 | 34 => (-30, 10)
    | 35 => (210, 25)
    | 36 => (1, 1)
    | 37 => (1, 50)
    | 38 => (700, 25)
    | _ => (1, 5)

/-- The bin in which x counts. -/
def histBin (id : Nat) (x : Int) : Nat :=
  let (low, step) := histScale id
  if x < low then 0 else
    let i := ((x - low) / step).toNat + 1
    if i ≤ 14 then i else 15

/-- One value taken into a histogram, with the stamp of the highest: x in whole units as it is counted, bin the value
rounded down, which decides the bin alone. -/
def histTake (id : Nat) (bin x : Int) (stamp : BitVec 64) (h : Hist) : Hist :=
  { h with bins := modN h.bins (histBin id bin) (fun n => min 0xFFFFFFFF (n + 1)),
           min := if x < h.min then x else h.min,
           max := if h.max < x then x else h.max,
           maxStamp := if h.max < x then stamp else h.maxStamp }

/-- num ÷ den counted in histogram id; the extremes hold it as the device rounds it, where it is no whole unit (log
entry 118). -/
def histAdd (id : Nat) (num : Int) (den : Nat) (s : State) : State :=
  let x := quot num den
  { s with log.hists := modN s.log.hists id (histTake id (num / den) x s.opstamp) }

/-! ## Records, newest first -/

/-- A record put in its place by falling SEQ. -/
def insertRec (r : LogRec) : List LogRec → List LogRec
  | [] => [r]
  | x :: xs => if x.seq.toNat ≤ r.seq.toNat then r :: x :: xs else x :: insertRec r xs

/-- Every record that the log and its queue hold, newest first. -/
def allRecs (s : State) : List LogRec :=
  let f := s.nv.flash
  ((f.reading.recs ++ f.coded.recs ++ f.general.recs).map (·.2) ++ s.log.queue).foldl (fun l r => insertRec r l) []

/-- An entry of tag pages 4 to 6: CODE, BOUGH, FLAGS, OPSTAMP (R658). -/
def recEntry (r : LogRec) : List Byte := leN 2 r.code ++ leN 1 r.bough ++ [r.flags] ++ leN 8 r.opstamp.toNat

/-! ## Fatal errors (R652 to R654) -/

/-- Tag page 3: the fatal dump summary (R658). -/
def fatalPage (s : State) (no stamp caltime cause stop slot st addr : Nat) (trap : Nat) : List Byte :=
  let _ := s
  ascii "RFTL" ++ leN 4 no ++ leN 8 stamp ++ leN 4 caltime ++ leN 1 cause ++ leN 1 stop ++ leN 1 slot ++ leN 1 st
    ++ leN 4 addr ++ leN 4 trap

/-- Fatal restarts within the last 3,600 s of OPTIME (R653, R663). -/
def recentRestarts (s : State) : Nat :=
  (s.nv.flash.restarts.filter (fun t => decide (s.lat.optime < t + 3600 * 64))).length

/-- A dump goes to slot A when slot A is erased or being erased, otherwise to slot B (R655). -/
def dumpSlotFor (s : State) : Nat :=
  let a := (getN s.nv.flash.dumps 0 {}).state
  if a = 0 ∨ a = 3 then 0 else 1

/-- The session cores that a fatal cause stops: 0b01 core 0, 0b10 core 1 (R652). -/
def fatalCores (cause stop : Nat) : BitVec 2 :=
  match cause with
  | 1 => if stop = 2 then 1 else 2
  | 4 => 0
  | _ => 3

/-- The display's ordered stop asked for (R482): event 0x0904 with its cause; the frame starts that follow carry it out.
-/
def orderStop (cause : Nat) (s : State) : State :=
  if s.lcd.state = .off ∨ s.lcd.stopCause ≠ 0 then s
  else emit 0x0904 255 (leN 1 cause) { s with lcd.stopCause := cause }

/-- A fatal error declared: its immediate actions, the FATAL source and the beginning of the dump (R652, R654). During
a dump only SECOND takes a later cause (R668). stop is the failed block, addr the fault address or 0. -/
def fatalError (cause stop addr : Nat) (s : State) : State :=
  let s := if cause = 2 then orderStop 3 s else s
  let s := { s with safDev.coreDead := s.safDev.coreDead ||| fatalCores cause stop,
                    bil.stopped := s.bil.stopped || cause == 2,
                    sesL := if cause = 1 then s.sesL.mapFinIdx (fun i l _ =>
                      if (i < 4) = (stop = 2) then l else { l with held := true }) else s.sesL }
  if s.log.fatalCause.isSome ∧ !s.log.dumped then raiseIrq 11 { s with log.fatalSecond := cause }
  else
    let slot := dumpSlotFor s
    let no := s.nv.flash.dumpNo + 1
    let (trap, s) := s.free 32
    let s := raiseIrq 11 { s with
      log.fatalCause := some cause, log.fatalSecond := 0, log.fatalStop := stop, log.dumpSlot := slot,
      log.dumped := false, nv.flash.dumpNo := no, nv.flash.dumpNote := true,
      nv.flash.dumps := modN (s.nv.flash.dumps.map (fun d => if d.state = 3 then { d with state := 0 } else d)) slot (fun _ => { state := 3, no := no, cause := cause, stop := stop, opstamp := s.opstamp }) }
    let s := tagWritePage 3 (fatalPage s no s.opstamp.toNat s.now cause stop slot 0 addr trap.toNat) s
    let newest := (allRecs s).take 15
    let s := tagWritePage 4 ((newest.take 5).flatMap recEntry) s
    let s := tagWritePage 5 (((newest.drop 5).take 5).flatMap recEntry) s
    tagWritePage 6 ((newest.drop 10).flatMap recEntry) s

/-- The session core that serves bough b (R40). -/
def coreOf (b : Bough) : Fin 2 := if b.val < 4 then 0 else 1

/-- The session core of bough b runs (R67). -/
def coreAlive (s : State) (b : Bough) : Bool := !s.safDev.coreDead.getLsbD (coreOf b).val

end Sys2Proof.Machine
end

