-- ==== Sys2Proof/Machine/AuxCore.lean ====
section
/-! DEFINITION. The auxiliary load channels' shared operations: owners and duties (R442, R457), inrush windows (R446),
faults and retries (R447 to R450), lamp compensation (R451). -/

namespace Sys2Proof.Machine

/-- The channels 0 to 31. -/
def allChannels : List (Fin 32) := List.finRange 32

/-- OWNER of a channel in the values in force. -/
def auxOwner (s : State) (c : Fin 32) : Nat := fld (s.auxChCfg c.val) 31 30

/-- The power die is in fail-safe, or P7 has not been reached (R457). -/
def auxFailsafe (s : State) : Bool := !s.safDev.fsCauses.isEmpty || !s.ready

/-- The byte of the stored fail-safe table for a channel (R456). -/
def fsByte (s : State) (c : Fin 32) : Byte := s.nv.fsTable[c]

/-- The cable lock of bough b is to be on (R442). -/
def lockOn (s : State) (b : Bough) : Bool :=
  match s.ses[b].state with
  | .energising | .charging | .suspended | .stopping => true
  | .faulted => s.saf[b].latched.contains 14
  | _ => false

/-- The bough that BOUGH names. -/
def auxBoughOf (s : State) (c : Fin 32) : Bough := ⟨fld (s.auxChCfg c.val) 29 27, by unfold fld; exact Nat.mod_lt _ (by decide)⟩

/-- The duty that the channel's owner asks, 0.1 % (R442, R443). -/
def auxWanted (s : State) (c : Fin 32) : Nat :=
  let a := s.aux[c]
  if a.bridge then (if a.bridgeOn then 1000 else 0)
  else match auxOwner s c with
    | 0 => a.duty
    | 1 => if lockOn s (auxBoughOf s c) then 1000 else 0
    | 2 => if s.lcd.backlight then fld s.lcdCfg 9 0 else 0
    | _ => if s.ready then 1000 else 0

/-- The channel's load group has no supply, or had none less than 10 ms ago (R114, R454). -/
def groupAbsent (s : State) (c : Fin 32) : Bool := s.aux[c].uv || !s.supply.inRange.getLsbD (9 + c.val / 8)

/-- The duty that the channel has: what turns it off first, then the fail-safe table, then the owner. -/
def auxDuty (s : State) (c : Fin 32) : Nat :=
  let a := s.aux[c]
  if a.hot || s.auxDev.vpwrOff || s.auxDev.thermalOff || groupAbsent s c then 0
  else if auxFailsafe s then (if (fsByte s c).getLsbD 7 && !a.fsFault then 1000 else 0)
  else if a.latched || a.retryWait then 0
  else auxWanted s c

/-- d_out of R451: VREF in 10 mV, Vs in 10 mV, round() taken as half up (DEDUCED, log entry 30). -/
def lampDuty (d vref vs : Nat) : Nat :=
  let v := max vs (vref / 2)
  min 1000 ((2 * d * vref * vref + v * v) / (2 * v * v))

/-- The duty of a channel after compensation (R451); in fail-safe there is none (R457). -/
def auxOut (s : State) (c : Fin 32) (d : Nat) : Nat :=
  let w := s.auxChCfg c.val
  if d = 0 ∨ !bitOf w 26 ∨ auxFailsafe s ∨ s.aux[c].bridge then d
  else lampDuty d (if bitOf w 25 then 2400 else 1200) (getN s.auxDev.vgrp (c.val / 8) 0)

/-- The PWM period of a channel in µs (R445). -/
def pwmPeriod (s : State) (c : Fin 32) : Nat :=
  match fld (s.auxChCfg c.val) 24 23 with
  | 0 => 10000
  | 1 => 5000
  | 2 => 2500
  | _ => 1000

/-- Microseconds since the channel's last rising edge: periods begin at millisecond ticks that are multiples of 10, and
the edge falls (ch mod 8) · 125 µs after a beginning (R445). -/
def sinceEdge (s : State) (c : Fin 32) : Nat :=
  (1000 * (s.lat.ms % 10) + s.lat.usInMs + 10000 - 125 * (c.val % 8)) % pwmPeriod s c

/-- The channel's rising edge: a duty that changed applies (R445). -/
def pwmEdge (c : Fin 32) (s : State) : State :=
  if s.aux[c].on && sinceEdge s c == 0 then s.onAux c (fun a => { a with outDuty := a.nextDuty }) else s

/-- The output of a channel that is on, switched by PWM below a duty of 1,000 (R445). -/
def auxLevel (s : State) (c : Fin 32) : Bool :=
  let a := s.aux[c]
  a.on && (decide (1000 ≤ a.outDuty) || decide (1000 * sinceEdge s c < a.outDuty * pwmPeriod s c))

/-- What ISENSE shows, as the channel current in 10 mA: the selected channel's, at most the 7.2 A of its compliance, and 0
for a channel that is off (R452, R453). -/
def senseCurrent (s : State) : Nat :=
  match s.auxDev.isel with
  | some n => if h : n < 32 then (if s.aux[n].on then min 720 s.aux[n].current else 0) else 0
  | none => 0

/-- The channel brought up to date: off at once; on at once with a new inrush window when it was off (R446, R459; log
entry 196); another duty from its next rising edge when it was on (R445). A load current that no command brings is free
(log entry 4). -/
def auxDrive (c : Fin 32) (s : State) : State :=
  let d := auxDuty s c
  let w := s.auxChCfg c.val
  if d = 0 then s.onAux c (fun a => { a with on := false, outDuty := 0, nextDuty := 0, inrush := false, atLimit := false, current := 0 })
  else
    let out := auxOut s c d
    if s.aux[c].on then s.onAux c (fun a => { a with nextDuty := out })
    else
      let win := decide (0 < fld w 20 14) && !auxFailsafe s
      let (i, s) := s.free 12
      s.onAux c (fun a => { a with on := true, outDuty := out, nextDuty := out, inrush := win, inrushX3 := bitOf w 22,
                                   inrushLimit := fld w 4 0, atLimit := false, current := i.toNat })

/-- The active base limit in 10 mA: 0.5 A + 0.25 A × LIMIT (R446); the stored LIMIT in fail-safe (R457). -/
def auxLimit (s : State) (c : Fin 32) : Nat :=
  let a := s.aux[c]
  if auxFailsafe s then 50 + 25 * ((fsByte s c).toNat % 32)
  else if a.inrush then (50 + 25 * a.inrushLimit) * (if a.inrushX3 then 3 else 2)
  else 50 + 25 * fld (s.auxChCfg c.val) 4 0

/-- A restart that its delay and HOT allow: RETRY_CNT counts it (R449, R469). -/
def auxRetry (c : Fin 32) (s : State) : State :=
  let a := s.aux[c]
  if a.retryWait && a.retryDue && !a.hot && !auxFailsafe s then
    auxDrive c (s.onAux c (fun a => { a with retryWait := false, retryDue := false, retryCnt := a.retryCnt + 1 }))
  else auxDrive c s

/-- Every channel brought up to date. -/
def auxAll (s : State) : State := allChannels.foldl (fun t c => auxRetry c t) s

/-- A channel fault, 1 overcurrent or 2 thermal: event 0x0802 once per second, retry wait or latch (R447 to R449). In
fail-safe there are no retries: the channel stays off (R457). -/
def auxFault (c : Fin 32) (kind : Nat) (s : State) : State :=
  let a := s.aux[c]
  let fs := auxFailsafe s
  let s := s.onAux c (fun a => { a with lastFault := kind, faultNoted := true })
  let s := if a.faultNoted then s else
    emit 0x0802 255 (leN 1 c.val ++ leN 1 (auxOwner s c) ++ leN 1 kind ++ leN 1 a.retryCnt ++ leN 2 a.current ++ leI 2 a.temp) s
  if fs then auxDrive c (s.onAux c (fun a => { a with fsFault := true }))
  else if a.retryCnt = fld (s.auxChCfg c.val) 13 10 then
    emit 0x0803 255 (leN 1 c.val ++ leN 1 (auxOwner s c) ++ leN 4 (a.retryCnt + 1))
      (auxDrive c (s.onAux c (fun a => { a with latched := true })))
  else auxDrive c (s.onAux c (fun a => { a with retryWait := true, retryDue := false }))

/-- Low-power mode ends: the backlight is allowed again and the normal rate applies from the next slot boundary, which no
command marks (R472, R480, R483, R490; DESIGN CHOICE, log entry 194). -/
def leaveLowPower (s : State) : State :=
  if s.lcd.state = .lowPower then
    { s with lcd.state := .showing, lcd.backlight := true, lcd.phaseLen := fld s.lcdCfg 22 15 }
  else s

/-- The channels that the safety block holds: BRIDGE_CH of each bough with IMD_EN = 1, but not of a bough held at start
for a conflict (R281, R443). -/
def takeBridges (s : State) : State :=
  let held := fun (c : Fin 32) => allBoughs.any (fun b =>
    bitOf (s.safBoughCfg b) 27 && fld (s.safBoughCfg b) 20 16 == c.val && !s.saf[b].noBridge)
  allChannels.foldl (fun t c => auxDrive c (t.onAux c (fun a =>
    { a with bridge := held c, bridgeOn := a.bridgeOn && held c }))) s

end Sys2Proof.Machine
end

