-- ==== Sys2Proof/Machine/AuxLoads.lean ====
section
/-! DEFINITION. The commands of the auxiliary load channels (R442 to R470). -/

namespace Sys2Proof.Machine

/-- The channels of a mask. -/
def maskChannels (mask : BitVec 32) : List (Fin 32) := allChannels.filter (fun c => mask.getLsbD c.val)

/-- AUX_SET (R444, R465): held for the next millisecond tick, or for P7. -/
def execAuxSet (h : CmdHdr) (mask : BitVec 32) (duty : Nat) (s : State) : Res :=
  let cs := maskChannels mask
  let r : Nat := if 1000 < duty then 4 else if cs.any (fun c => auxOwner s c != 0 || s.aux[c].bridge) then 2 else 0
  let s := if r = 0 then cs.foldl (fun t c => t.onAux c (fun a => { a with waitDuty := some duty })) s else s
  .next (answer 0x0801 255 h.tag (leN 1 r) s)

/-- AUX_CLEAR (R450): the retry count and the latch go; the restart is not counted and waits for HOT. -/
def execAuxClear (h : CmdHdr) (mask : BitVec 32) (s : State) : Res :=
  let f := fun (t : State) (c : Fin 32) =>
    auxDrive c (t.onAux c (fun a => { a with retryCnt := 0, latched := false }))
  .next (answer 0x0801 255 h.tag (leN 1 0) ((maskChannels mask).foldl f s))

/-- INRUSH_WINDOW_END (R446, R447): the base limit applies from here. -/
def execInrushWindowEnd (ch : Fin 32) (s : State) : Res :=
  .next (s.onAux ch (fun a => { a with inrush := false }))

/-- CHANNEL_LIMIT_REACHED (R446, R447): the channel regulates at its active limit. -/
def execChannelLimitReached (ch : Fin 32) (s : State) : Res :=
  if s.aux[ch].on then
    let i := auxLimit s ch
    .next (s.onAux ch (fun a => { a with atLimit := true, current := i }))
  else .next s

/-- CHANNEL_OVERCURRENT (R447): 1.0 ms at the limit outside an inrush window. -/
def execChannelOvercurrent (ch : Fin 32) (s : State) : Res :=
  if s.aux[ch].on && !s.aux[ch].inrush then .next (auxFault ch 1 s) else .next s

/-- CHANNEL_THERMAL_FAULT (R448): the sensor reached 175 °C; HOT sets, and a channel that was on has a thermal fault. -/
def execChannelThermalFault (ch : Fin 32) (temp : Int) (s : State) : Res :=
  let was := s.aux[ch].on
  let s := s.onAux ch (fun a => { a with hot := true, temp := temp })
  if was then .next (auxFault ch 2 s) else .next (auxDrive ch s)

/-- HOT_CLEAR (R448, R468): the sensor fell below 155 °C. -/
def execHotClear (ch : Fin 32) (temp : Int) (s : State) : Res :=
  .next (auxRetry ch (s.onAux ch (fun a => { a with hot := false, temp := temp })))

/-- RETRY_RESTART (R449): RETRY_MS has passed since the fault. -/
def execRetryRestart (ch : Fin 32) (s : State) : Res :=
  .next (auxRetry ch (s.onAux ch (fun a => { a with retryDue := a.retryWait })))

/-- RETRY_COUNT_RESET (R449): the channel has been on for 10 s without a fault. -/
def execRetryCountReset (ch : Fin 32) (s : State) : Res :=
  if s.aux[ch].on then .next (s.onAux ch (fun a => { a with retryCnt := 0 })) else .next s

/-- LAMP_COMPENSATION (R451): the group supply averaged over the last 1 ms, in 10 mV, replaces the duty. -/
def execLampCompensation (ch : Fin 32) (vs : Nat) (s : State) : Res :=
  let s := { s with auxDev.vgrp := modN s.auxDev.vgrp (ch.val / 8) (fun _ => vs) }
  .next (if s.aux[ch].on then auxDrive ch s else s)

/-- The next channel of SCAN_MASK in rising order after the one selected (R452). -/
def nextScan (mask : BitVec 32) (cur : Option Nat) : Option Nat :=
  let cs := (List.range 32).filter (fun c => mask.getLsbD c)
  match cs.find? (fun c => match cur with | some x => decide (x < c) | none => true) with
  | some c => some c
  | none => cs.head?

/-- The channel on ISENSE for the settings in force (R452). -/
def senseChannel (s : State) (cur : Option Nat) : Option Nat :=
  match fld s.auxDevCfg 31 30 with
  | 1 => some (fld s.auxDevCfg 28 24)
  | 2 => cur
  | _ => none

/-- ISENSE_SCAN_STEP (R452): with SEL_MODE 2 the next channel of the mask. -/
def execIsenseScanStep (s : State) : Res :=
  if fld s.auxDevCfg 31 30 = 2 then .next { s with auxDev.isel := nextScan s.auxScanMask s.auxDev.isel }
  else .next { s with auxDev.isel := senseChannel s s.auxDev.isel }

/-- GROUP_SUPPLY_RETURN (R454, R114): 10 ms after the supply is back in range, its channels return to their commanded
state with a new inrush window. -/
def execGroupSupplyReturn (g : Fin 4) (s : State) : Res :=
  if !s.supply.inRange.getLsbD (9 + g.val) then .next s
  else
    let cs := allChannels.filter (fun c => c.val / 8 == g.val)
    .next (cs.foldl (fun t c => auxDrive c (t.onAux c (fun a => { a with uv := false }))) s)

end Sys2Proof.Machine
end

