-- ==== Sys2Proof/Machine/Ecc.lean ====
section
/-! DEFINITION. The elliptic-curve arithmetic of the reading key and of the SECC keys (R571, R572): the curves P-256 and
P-521, the private scalar, public keys and ECDSA signatures. A curve is named by the length of a coordinate in bytes: 32 for
P-256, 66 for P-521. The curve constants and the formulas are the standards' (PRESUMED, log entry 197). -/

namespace Sys2Proof.Machine

/-- The prime of the curve's field. -/
def curveP (c : Nat) : Nat := if c = 32 then 2 ^ 256 - 2 ^ 224 + 2 ^ 192 + 2 ^ 96 - 1 else 2 ^ 521 - 1

/-- The order n of the curve (R572). -/
def curveN (c : Nat) : Nat :=
  if c = 32 then 0xFFFFFFFF00000000FFFFFFFFFFFFFFFFBCE6FAADA7179E84F3B9CAC2FC632551
  else 2 ^ 521 - 0x5AE79787C40D069948033FEB708F65A2FC44A36477663B851449048E16EC79BF7

/-- The base point. -/
def curveG (c : Nat) : Nat × Nat :=
  if c = 32 then (0x6B17D1F2E12C4247F8BCE6E563A440F277037D812DEB33A0F4A13945D898C296,
    0x4FE342E2FE1A7F9B8EE7EB4A7C0F9E162BCE33576B315ECECBB6406837BF51F5)
  else (0x00C6858E06B70404E9CD9E3ECB662395B4429C648139053FB521F828AF606B4D3DBAA14B5E77EFE75928FE1DC127A2FFA8DE3348B3C1856A429BF97E7E31C2E5BD66,
    0x011839296A789A3BC0045C8A5FB42C7D1BD998F54449579B446817AFBD17273E662C97EE72995EF42640C550B9013FAD0761353C7086A272C24088BE94769FD16650)

/-- Bits that every scalar and field element of the two curves fits. -/
def eccBits : Nat := 521

/-- b to the power e modulo m, for an exponent of at most f bits. -/
def powMod (m b : Nat) : Nat → Nat → Nat
  | 0, _ => 1
  | f + 1, e => powMod m (b * b % m) f (e / 2) * (if e % 2 = 1 then b else 1) % m

/-- The inverse modulo a prime m. -/
def invMod (m x : Nat) : Nat := powMod m (x % m) eccBits (m - 2)

/-- x - y modulo m, both below m. -/
def subMod (m x y : Nat) : Nat := (x + m - y) % m

/-- The third point of a line of slope w through two points, reflected. -/
def chord (m w : Nat) (u v : Nat × Nat) : Nat × Nat :=
  let x := subMod m (subMod m (w * w % m) u.1) v.1
  (x, subMod m (w * subMod m u.1 x % m) u.2)

/-- The sum of two points of curve c; none is the neutral point. Both curves have the coefficient a = -3. -/
def addPoint (c : Nat) : Option (Nat × Nat) → Option (Nat × Nat) → Option (Nat × Nat)
  | none, v => v
  | u, none => u
  | some u, some v =>
    let m := curveP c
    if u.1 ≠ v.1 then some (chord m (subMod m v.2 u.2 * invMod m (subMod m v.1 u.1) % m) u v)
    else if u.2 ≠ v.2 ∨ u.2 = 0 then none
    else some (chord m (subMod m (3 * u.1 * u.1 % m) 3 * invMod m (2 * u.2) % m) u v)

/-- k times a point, for k of at most f bits. -/
def timesPoint (c : Nat) : Nat → Nat → Option (Nat × Nat) → Option (Nat × Nat)
  | 0, _, _ => none
  | f + 1, k, u =>
    let rest := timesPoint c f (k / 2) (addPoint c u u)
    if k % 2 = 1 then addPoint c u rest else rest

/-- The private scalar d = (x mod (n - 1)) + 1 of HKDF output x, read big-endian (R572). -/
def scalarOf (c : Nat) (x : Nat) : Nat := x % (curveN c - 1) + 1

/-- k times the base point. -/
def basePoint (c k : Nat) : Nat × Nat := (timesPoint c eccBits k (some (curveG c))).getD (0, 0)

/-- The uncompressed public key of a key derived from a root: 65 or 133 bytes (R413, R586). -/
def publicKey (c : Nat) (derived : List Byte) : List Byte :=
  let q := basePoint c (scalarOf c (ofBe derived))
  0x04 :: (beN c q.1 ++ beN c q.2)

/-- The ECDSA P-256 signature of a hash under a private scalar d with the random scalar k: r then s, 32 bytes each,
big-endian (R413). -/
def ecdsaSign (d k : Nat) (hash : List Byte) : List Byte :=
  let n := curveN 32
  let r := (basePoint 32 k).1 % n
  beN 32 r ++ beN 32 (invMod n k * ((ofBe hash + r * d) % n) % n)

end Sys2Proof.Machine
end

