-- ==== Sys2Proof/Machine/CommitCore.lean ====
section
/-! DEFINITION. What every commit shares: its snapshot, its completion and its rejection (R143, R144, R154). -/

namespace Sys2Proof.Machine

/-- The snapshot of subsystem sub that waits, as a list of shadow cells (R143). -/
def snapOf (s : State) (sub : Nat) : Option (List Host.Cell) := (s.host.snaps.find? (fun e => e.1 == sub)).map (·.2)

/-- The register at settings offset a in the snapshot of its subsystem, or the value in force. -/
def snapWord (s : State) (a : Nat) : BitVec 32 :=
  match snapOf s (a / 0x1000) with
  | some m => pageWord m a
  | none => s.cfg a

/-- The settings of the snapshot of subsystem sub whose offsets p selects come into force (R144). -/
def applySnap (sub : Nat) (p : Nat → Bool) (s : State) : State :=
  match snapOf s sub with
  | some m => { s with host.applied := pageTake p s.host.applied m }
  | none => s

/-- A 16-bit mask with bit i. -/
def subBit (i : Nat) : BitVec 16 := BitVec.ofNat 16 (1 <<< i)

/-- The commit of subsystem sub is complete: PENDING clears, HST_COMMIT_DONE sets, REJECTED follows (R144). -/
def finishCommit (sub : Nat) (rejected : Bool) (s : State) : State :=
  { s with
    host.snaps := s.host.snaps.filter (fun e => e.1 != sub),
    host.pendingC := s.host.pendingC &&& ~~~subBit sub,
    host.passed := s.host.passed &&& ~~~subBit sub,
    host.devLeft := s.host.devLeft &&& ~~~subBit sub,
    host.doneC := s.host.doneC ||| subBit sub,
    host.rejected := if rejected then s.host.rejected ||| subBit sub else s.host.rejected &&& ~~~subBit sub }

/-- A snapshot rejected whole with its reason (R144): every applied value stays. -/
def rejectCommit (sub reason : Nat) (s : State) : State :=
  emit 0x0113 255 (leN 1 sub ++ leN 1 reason) (finishCommit sub true s)

/-- The reason that R144 gives when several rules break: the first of 2, 4, 3, 1. -/
def firstReason (rs : List Nat) : Option Nat := [2, 4, 3, 1].find? (fun r => rs.contains r)

/-- A commit of subsystem sub waits. -/
def commitPending (s : State) (sub : Nat) : Bool := (snapOf s sub).isSome

end Sys2Proof.Machine
end

