-- ==== Sys2Proof/Machine/Heartwood.lean ====
section
/-! DEFINITION. The heartwood: conversion and pricing (R362, R399), the calendar (R394), readings (R413), save entries
(R365, R424), demand intervals (R403) and calendar time (R408 to R411). -/

namespace Sys2Proof.Machine

/-! ## Rounding and money -/

/-- num ÷ den rounded up. -/
def ceilDiv (num den : Nat) : Nat := (num + den - 1) / den

/-- num ÷ den rounded to nearest; the spec gives no rule for a tie, so a free bit decides it (log entry 4). -/
def nearest (num : Int) (den : Nat) (s : State) : Int × State :=
  let q := num / den
  let r := (num % den).toNat
  if 2 * r < den then (q, s)
  else if den < 2 * r then (q + 1, s)
  else
    let (c, s) := s.free 1
    (if c = 1 then q + 1 else q, s)

/-- A signed value of n bits; where x lies outside, the spec states no value and it is free (log entry 4). -/
def fitInt (n : Nat) (x : Int) (s : State) : Int × State :=
  if -(2 ^ (n - 1) : Int) ≤ x ∧ x < (2 ^ (n - 1) : Int) then (x, s)
  else
    let (c, s) := s.free n
    (c.toInt, s)

/-! ## Registers and conversion -/

/-- Register r of bough b in the totals that the gate accepted last (R361). -/
def engReg (s : State) (b : Bough) (r : Nat) : BitVec 64 :=
  let e := s.bilB[b].accepted
  match r with
  | 0 => e[0].totalA
  | 1 => e[0].totalB
  | 2 => e[0].totalC
  | 3 => e[1].totalA
  | 4 => e[1].totalB
  | _ => e[1].totalC

/-- Pips of one watt-hour (R362). -/
def pipsPerWh : Nat := 235929600

/-- convert(prev, now, c) of R362: watt-hours and the new carry. -/
def convert (prev now : BitVec 64) (c : Nat) : Nat × Nat :=
  let t := (now - prev).toNat + c
  (t / pipsPerWh, t % pipsPerWh)

/-- Price of a rate in the active calendar; 0 import, 4 export (R392). -/
def priceOf (cal : List Byte) (rate off : Nat) : Nat := leAt cal (32 + 12 * rate + off) 4

/-- Pricing is available (R396): a rate is in force. -/
def pricing (s : State) : Bool := s.bil.calendar.isSome && s.bil.rate != 255

/-- price() of R399 for a session that needs pricing. -/
def priceBough (b : Bough) (whImp whExp : Nat) (s : State) : State :=
  match s.bil.calendar with
  | none => s
  | some cal =>
    let e := s.bilB[b]
    let t := whImp * priceOf cal s.bil.rate 0 + e.costCarry
    let u := whExp * priceOf cal s.bil.rate 4 + e.credCarry
    let (cost, s) := fitInt 48 (e.cost + (t / 1000 : Nat)) s
    let (credit, s) := fitInt 48 (e.credit + (u / 1000 : Nat)) s
    s.onBil b (fun e => { e with cost := cost, costCarry := t % 1000, credit := credit, credCarry := u % 1000 })

/-- The rate registers take a difference of A_IMP and of A_EXP at the rate in force (R400). -/
def rateAdd (dImp dExp : Nat) (s : State) : State :=
  { s with bil.rates := modN s.bil.rates s.bil.rate (fun r =>
      { imp := (r.imp + (dImp + r.impCarry) / pipsPerWh) % 2 ^ 64, impCarry := (dImp + r.impCarry) % pipsPerWh,
        exp := (r.exp + (dExp + r.expCarry) / pipsPerWh) % 2 ^ 64, expCarry := (dExp + r.expCarry) % pipsPerWh }) }

/-- Register r of bough b converted with its carry (R362): watt-hours. -/
def convReg (s : State) (b : Bough) (r : Fin 6) : Nat × Nat := convert s.bilB[b].last[r] (engReg s b r.val) s.bilB[b].carry[r]

/-- Every register of bough b converted and priced at the rate in force (R363, R399, R400). -/
def convertBough (b : Bough) (s : State) : State :=
  let e := s.bilB[b]
  let imp := convReg s b 0
  let exp := convReg s b 1
  let dImp := (engReg s b 0 - e.last[0]).toNat
  let dExp := (engReg s b 1 - e.last[1]).toNat
  let c := convReg s b
  let now := engReg s b
  let s := s.onBil b (fun e => { e with
    whImp := (e.whImp + imp.1) % 2 ^ 64, whExp := (e.whExp + exp.1) % 2 ^ 64,
    carry := #v[(c 0).2, (c 1).2, (c 2).2, (c 3).2, (c 4).2, (c 5).2],
    last := #v[now 0, now 1, now 2, now 3, now 4, now 5] })
  if pricing s then
    let s := rateAdd dImp dExp s
    if e.sesOpen && e.priced then priceBough b imp.1 exp.1 s else s
  else s

/-- Every register of every bough converted (R363). -/
def convertAll (s : State) : State := forBoughs convertBough s

/-! ## Dates and rates (R394) -/

/-- Year, month and day of a day counted from 2000-01-01 in the Gregorian calendar. -/
def civil (day : Int) : Int × Nat × Nat :=
  let z := (day + 730425).toNat
  let era := z / 146097
  let doe := z % 146097
  let yoe := (doe - doe / 1460 + doe / 36524 - doe / 146096) / 365
  let doy := doe - (365 * yoe + yoe / 4 - yoe / 100)
  let mp := (5 * doy + 2) / 153
  let d := doy - (153 * mp + 2) / 5 + 1
  let m := if mp < 10 then mp + 3 else mp - 9
  ((yoe + 400 * era : Nat) + (if m ≤ 2 then 1 else 0 : Int), m, d)

/-- Weekday of a day counted from 2000-01-01, a Saturday; 0 Monday to 6 Sunday. -/
def weekday (day : Int) : Nat := ((day + 5) % 7).toNat

/-- Local seconds of a calendar time under an offset (R21). -/
def localSecs (t : Nat) (off : Int) : Int := t + 900 * off

/-- The day profile that a special day names for a date, the lowest index first (R394). -/
def specialDay (cal : List Byte) (y : Int) (m d : Nat) : Nat → Nat → Option Nat
  | 0, _ => none
  | n + 1, i =>
    let o := 832 + 4 * i
    let yy := leAt cal (o + 2) 1
    if leAt cal o 1 = m ∧ leAt cal (o + 1) 1 = d ∧ (yy = 255 ∨ y = 2000 + (yy : Int)) then some (leAt cal (o + 3) 1)
    else specialDay cal y m d n (i + 1)

/-- Seasons used in a calendar: they come first (R393). -/
def seasonsUsed (cal : List Byte) : Nat := ((List.range 8).takeWhile (fun i => leAt cal (800 + 4 * i) 1 != 0)).length

/-- The last season starting on or before a date, or the last of the list (R394). -/
def seasonOf (cal : List Byte) (m d : Nat) : Nat :=
  let used := List.range (seasonsUsed cal)
  let before := used.filter (fun i => decide (32 * leAt cal (800 + 4 * i) 1 + leAt cal (801 + 4 * i) 1 ≤ 32 * m + d))
  (before.getLast?).getD (seasonsUsed cal - 1)

/-- The rate of the last switch point of a day profile with start at or before a quarter-hour (R394). -/
def switchRate (cal : List Byte) (prof q : Nat) : Nat :=
  let o := 224 + 16 * prof
  let pts := (List.range 8).filter (fun i => leAt cal (o + 2 * i) 1 != 255 && decide (leAt cal (o + 2 * i) 1 ≤ q))
  match pts.getLast? with
  | some i => leAt cal (o + 2 * i + 1) 1
  | none => 255

/-- rate_at(t) of R394, t in local seconds. -/
def rateAt (cal : List Byte) (t : Int) : Nat :=
  let day := t / 86400
  let q := (t % 86400).toNat / 900
  let (y, m, d) := civil day
  let prof := match specialDay cal y m d 64 0 with
    | some p => p
    | none => leAt cal (736 + 8 * leAt cal (802 + 4 * seasonOf cal m d) 1 + weekday day) 1
  switchRate cal prof q

/-- The rate in force for the calendar, the time and the offset held (R394, R396). -/
def rateNow (s : State) : Nat :=
  match s.bil.calendar with
  | none => 255
  | some cal => if s.timeKnown then rateAt cal (localSecs s.now s.bil.offset) else leAt cal 5 1

/-- The rate evaluated; on a change every register is converted into the outgoing rate first (R395). -/
def evalRate (s : State) : State :=
  let r := rateNow s
  if r = s.bil.rate then s else
    let s := convertAll s
    { s with bil.rate := r }

/-! ## Save entries (R365, R424) -/

/-- A coil of the bough is driven. -/
def coilsClosed (s : State) (b : Bough) : Bool := s.saf[b].coils.any (·.driven)

/-- The FAILED bits of a bough's channels. -/
def failedMask (s : State) (b : Bough) : BitVec 24 :=
  BitVec.ofNat 24 ((List.range 24).foldl (fun m n => if (getN s.mtr[b].ch n {}).failed then m ||| (1 <<< n) else m) 0)

/-- The block of a bough in a save entry. -/
def saveBough (s : State) (b : Bough) : SaveBough :=
  let e := s.bilB[b]
  let m := s.mtr[b]
  { reg := e.last, carry := e.carry, served := m.served, rsvState := m.rsvState, failed := failedMask s b,
    rgain := m.rgain, roff := m.roff, rdelay := m.rdelay, pmean := s.nst[b].pmean,
    isOpen := e.sesOpen, coils := coilsClosed s b, k0 := m.ch.toList.map (·.k0),
    whImp := e.whImp, whExp := e.whExp, cost := e.cost, credit := e.credit, sesNum := e.sesNum, sesIndex := e.sesIndex,
    priced := e.priced, costCarry := e.costCarry, credCarry := e.credCarry, aImpStart := e.aImpStart }

/-- CAL_ID of a calendar, 0 for none. -/
def calId : Option (List Byte) → Nat
  | none => 0
  | some c => leAt c 0 4

/-- The save entry of this instant with a cause. -/
def mkSave (s : State) (cause : Nat) : SaveEntry :=
  { opstamp := s.opstamp, caltime := s.bak.caltime, saveNo := s.bil.saveNo + 1, sesNum := s.sesDev.counter,
    saveS := fld s.nrgDevCfg 7 0, cause := cause,
    boughs := Vector.ofFn (fun b => saveBough s b),
    readingNo := s.bil.readingNo, hwm := s.bil.hwm, calId := calId s.bil.calendar, rate := s.bil.rate,
    demandMin := s.bil.demandMin, offset := s.bil.offset,
    flags := b2n s.timeKnown + 2 * b2n s.bil.passive.isSome + 4 * b2n s.belowHwm,
    intStart := s.bil.intStart, intStamp := s.bil.intStamp, lrCount := s.bil.lrCount, prev := padTo 16 s.bil.prev,
    setbacks := s.bil.setbacks, check8 := padTo 8 s.bil.check, rates := s.bil.rates }

/-- Slots of the save area ring (R366). -/
def saveSlots : Nat := 480

/-- The newest save entry whose CRC holds: an entry that fails it is passed over (R124, R159). -/
def newestSave (s : State) : Option SaveEntry := s.nv.flash.saves.find? (·.crcOk)

/-- The next slot of the ring is begun: the sector after its own is erased, and the entries there are lost (R366). -/
def beginSlot (s : State) : State :=
  let k := s.nv.flash.saveSlot
  let keep := fun (p : Nat) => p / 2 != (k / 2 + 1) % 240 && p != k
  { s with nv.flash.saveSlot := (k + 1) % saveSlots,
           nv.flash.saves := s.nv.flash.saves.filter (fun e => keep e.place),
           nv.flash.starts := s.nv.flash.starts.filter (fun e => keep e.place) }

/-- A save entry written in the next slot of the ring (R366). Every waiting reading is covered (R416); an event's entry is
remembered by its tick (R364). -/
def writeSave (cause : Nat) (s : State) : State :=
  let s := convertAll s
  let e := { mkSave s cause with place := s.nv.flash.saveSlot }
  let s := beginSlot s
  { s with bil.saveNo := e.saveNo, bil.covered := true,
           bil.savedTick := if cause = 0 then s.bil.savedTick else some s.lat.ms,
           nv.flash.saves := e :: s.nv.flash.saves }

/-! ## Legally relevant changes (R390) -/

/-- One legally relevant change counted and recorded as event 0x0707. -/
def lrChange (kind bough ch : Nat) (extra : List Byte) (s : State) : State :=
  let s := { s with bil.lrCount := s.bil.lrCount + 1 }
  emit 0x0707 bough (leN 1 kind ++ leN 1 ch ++ leN 4 s.bil.lrCount ++ extra) s

/-! ## Gap bounds (R370, R418) -/

/-- Σ FS_VAL_v · FS_VAL_i over the phases in use, or channels 8 and 9 (R370), in 10⁻¹² W. -/
def pFullScale (s : State) (b : Bough) : Nat :=
  let fs := fun n => (s.mtrFs (24 * b.val + n)).toNat
  if s.nrg[b].isDC then fs 8 * fs 9
  else if fld (s.nrgBoughCfg b) 30 29 = 1 then fs 0 * fs 3
  else fs 0 * fs 3 + fs 1 * fs 4 + fs 2 * fs 5

/-- P_FS over half-seconds ÷ div in Wh, rounded up: num ÷ den seconds. -/
def gapBound (s : State) (b : Bough) (num den : Nat) : Nat := ceilDiv (pFullScale s b * num) (den * 3600 * 10 ^ 12)

/-- A mean power over num ÷ den seconds in Wh, rounded to nearest. -/
def gapEstimate (pmean : Int) (num den : Nat) (s : State) : Int × State := nearest (pmean * num) (den * 3600) s

/-! ## Signed readings (R412 to R416) -/

/-- The public key of readings; none while no heartwood root is available (R415). -/
def readingKey (s : State) : Option (List Byte) :=
  (s.heartwoodRoot).map (fun r => publicKey 32 (s.derive r .readingSign))

/-- KEY_ID: the first 8 bytes of SHA-256 over the public key, or zero bytes (R413, R415). -/
def keyId (s : State) : List Byte :=
  match readingKey s with
  | some k => (sha256 k).take 8
  | none => List.replicate 8 0

/-- What a trigger adds to a reading. -/
abbrev ReadingExtra := Nat × Int × Bool

/-- FLAGS of a reading of bough b (R414). -/
def readingFlags (b : Bough) (interrupted : Bool) (s : State) : Nat :=
  let e := s.bilB[b]
  let period := (e.flags &&& 0x187A).toNat
  (if s.timeKnown then 0 else 1) ||| period ||| (4 * b2n s.belowHwm)
    ||| (0x80 * b2n (!pricing s || (e.sesOpen && !e.priced)))
    ||| (0x100 * b2n s.heartwoodRoot.isNone) ||| (0x200 * b2n (s.lifecycle == lcService))
    ||| (0x400 * b2n interrupted)

/-- Bytes 0 to 191 of a reading of bough b with its kind, gap bound and estimate (R413). -/
def readingBody (b : Bough) (kind gapWh : Nat) (gapEst : Int) (flags : Nat) (s : State) : List Byte :=
  let e := s.bilB[b]
  let inSes := e.sesOpen
  ascii "RSR1" ++ leN 4 s.bil.readingNo ++ leN 8 s.opstamp.toNat ++ leN 4 s.now ++ leI 1 s.bil.offset
    ++ leN 1 b.val ++ leN 1 kind ++ leN 1 0
    ++ leN 4 (if inSes then e.sesNum else 0) ++ leN 2 (if inSes then e.sesIndex else 0) ++ leN 2 flags
    ++ e.last.toList.flatMap (fun r => leN 8 r.toNat)
    ++ leN 8 e.whImp ++ leN 8 e.whExp ++ leN 4 e.carry[0] ++ leN 4 e.carry[1]
    ++ leN 1 s.bil.rate ++ leN 1 s.bil.demandMin ++ leN 2 (leAt (s.bil.currency.getD []) 0 2)
    ++ leN 4 (calId s.bil.calendar)
    ++ leI 6 (if inSes then e.cost else 0) ++ leI 6 (if inSes then e.credit else 0)
    ++ leN 4 s.bil.hwm ++ leN 4 e.demand ++ leN 4 gapWh ++ leI 4 gapEst ++ leN 4 s.bil.lrCount
    ++ (if inSes && kind != 6 then padTo 8 s.ses[b].digest else List.replicate 8 0)
    ++ padTo 8 s.bil.check ++ keyId s ++ padTo 16 s.bil.prev ++ List.replicate 8 0

/-- SIG: the signature under the key derived from the heartwood root, or 64 zero bytes (R413, R415). -/
def readingSig (body : List Byte) (s : State) : List Byte :=
  match s.heartwoodRoot with
  | none => List.replicate 64 0
  | some r => ecdsaSign (scalarOf 32 (ofBe (s.derive r .readingSign))) (scalarOf 32 (Config.random s.freeCount).toNat) (sha256 body)

/-- A reading of bough b numbered, chained and signed; it waits for its save entry (R416). After a heartwood mismatch
no reading is signed (R422). -/
def signWith (b : Bough) (kind gapWh : Nat) (gapEst : Int) (flags : Nat) (s : State) : State :=
  if s.bil.stopped then s else
    let body := readingBody b kind gapWh gapEst flags s
    let rd : Reading := { no := s.bil.readingNo, bough := b.val, kind := kind, raw := body ++ readingSig body s }
    let s := s.onBil b (fun e => { e with flags := 0, sesIndex := if e.sesOpen then e.sesIndex + 1 else e.sesIndex })
    { s with freeCount := s.freeCount + 1, bil.readingNo := (s.bil.readingNo + 1) % 2 ^ 32,
             bil.lastSigned := s.bil.readingNo, bil.prev := (sha256 body).take 16,
             bil.waiting := s.bil.waiting ++ [rd], bil.covered := false }

/-- A reading on the tick of a boundary: the boundary's save entry is the one that covers it too (R435). -/
def coverOnTick (s : State) : State :=
  match s.nv.flash.saves with
  | e :: rest =>
    if e.cause = 2 ∧ s.bil.savedTick = some s.lat.ms then
      { s with bil.covered := true, nv.flash.saves := { mkSave s 2 with saveNo := s.bil.saveNo, place := e.place } :: rest }
    else s
  | [] => s

/-- A reading of bough b after its registers are converted (R363). -/
def signReading (b : Bough) (kind : Nat) (s : State) : State :=
  let s := convertBough b s
  coverOnTick (signWith b kind 0 0 (readingFlags b false s) s)

/-- The begin reading: the session's COST starts at START_FEE when it needs pricing, at 0 otherwise (R399). -/
def beginReading (b : Bough) (s : State) : State :=
  let s := convertBough b s
  let fee : Nat := match s.bil.calendar with
    | some c => leAt c 12 4
    | none => 0
  let priced := s.ses[b].needsPricing
  let num := s.ses[b].num
  let s := s.onBil b (fun e => { e with
    sesOpen := true, sesNum := num, sesIndex := 0, priced := priced, cost := if priced then fee else 0, credit := 0,
    costCarry := 0, credCarry := 0 })
  coverOnTick (signWith b 1 0 0 (readingFlags b false s) s)

/-- The end reading closes the session at the heartwood. -/
def endReading (b : Bough) (s : State) : State :=
  if s.bilB[b].sesOpen then (signReading b 3 s).onBil b (fun e => { e with sesOpen := false }) else s

/-- The period flag of bit i set for bough b (R414). -/
def noteFlag (i : Nat) (b : Bough) (s : State) : State :=
  s.onBil b (fun e => { e with flags := e.flags ||| BitVec.ofNat 16 (1 <<< i) })

/-- The period flag of bit i set for every bough. -/
def noteFlagAll (i : Nat) (s : State) : State := forBoughs (noteFlag i) s

/-- One reading released: event 0x0701 with the whole record, and a place in the queue of 1,024 (R417). -/
def releaseOne (rd : Reading) (s : State) : State :=
  let s := recordEvent 0x0701 rd.bough 0 rd.raw s
  if s.bil.queue.length < 1024 then { s with bil.queue := s.bil.queue ++ [rd] }
  else
    match s.bil.queue with
    | [] => { s with bil.queue := [rd] }
    | old :: rest =>
      emit 0x0709 255 (leN 4 old.no)
        { s with bil.queue := rest ++ [rd], bil.droppedQ := min 65535 (s.bil.droppedQ + 1) }

/-- The waiting readings released once a save entry covers them, written now where none does yet (R364, R416). -/
def releaseReadings (s : State) : State :=
  if s.bil.waiting.isEmpty then s else
    let s := if s.bil.covered then s else writeSave 1 s
    let rs := s.bil.waiting
    rs.foldl (fun t r => releaseOne r t) { s with bil.waiting := [] }

/-! ## Boundaries (R402 to R406) -/

/-- Seconds of a demand interval of m minutes. -/
def period (m : Nat) : Int := 60 * m

/-- The first boundary above lo under an offset. -/
def nextBoundary (m : Nat) (off : Int) (lo : Int) : Int := lo + period m - (lo + 900 * off) % period m

/-- The last boundary at or below hi under an offset. -/
def lastBoundary (m : Nat) (off : Int) (hi : Int) : Int := hi - (hi + 900 * off) % period m

/-- Boundaries above lo and at or below hi: the first, the last, their number. -/
def boundaries (m : Nat) (off : Int) (lo hi : Int) : Option (Int × Int × Nat) :=
  let a := nextBoundary m off lo
  let z := lastBoundary m off hi
  if a ≤ z then some (a, z, ((z - a) / period m).toNat + 1) else none

/-- OPTIME of a stamp, 1/64 s (R18). -/
def optimeOf (stamp : BitVec 64) : Nat := stamp.toNat % 2 ^ 40

/-- Ticks of 1/64 s from a stamp until now. -/
def ticksSince (s : State) (stamp : BitVec 64) : Nat := s.lat.optime % 2 ^ 40 - optimeOf stamp

/-- Demand of a bough over the open interval (R404); with no duration the spec states no value, and it is free. -/
def demandOf (b : Bough) (s : State) : Nat × State :=
  let t := ticksSince s s.bil.intStamp
  if t = 0 then
    let (v, s) := s.free 32
    (v.toNat, s)
  else (((engReg s b 0 - s.bilB[b].aImpStart).toNat * 64) / (65536 * t), s)

/-- The demand of every bough taken into its register. -/
def takeDemands (s : State) : State :=
  forBoughs (fun b t => let (d, t) := demandOf b t; t.onBil b (fun e => { e with demand := d })) s

/-- Event 0x0702 (R433). -/
def intervalEvent (first last : Int) (count flags : Nat) (demands : List Nat) (s : State) : State :=
  emit 0x0702 255 (leI 4 first ++ leI 4 last ++ leN 4 count ++ leN 1 flags ++ demands.flatMap (leN 4)
    ++ leN 4 demands.sum) s

/-- The next interval begins at calendar time t with the registers of now. -/
def openInterval (t : Int) (s : State) : State :=
  let s := forBoughs (fun b s =>
    let i := engReg s b 0
    let x := engReg s b 1
    s.onBil b (fun e => { e with aImpStart := i, aExpStart := x, intGap := e.gapOpen })) s
  { s with bil.intStart := t.toNat, bil.intStamp := s.opstamp, bil.intOpen := true, bil.extended := false }

/-- The open interval closed at boundary B, its demands computed over its actual duration (R403 step 3). -/
def closeInterval (B : Int) (s : State) : State :=
  let s := takeDemands s
  let gap := allBoughs.any (fun b => s.bilB[b].intGap)
  let flags := 2 * b2n s.bil.extended + 8 * b2n gap
  let s := intervalEvent B B 1 flags (allBoughs.map (fun b => s.bilB[b].demand)) s
  { s with bil.hwm := B.toNat, bil.hasHwm := true }

/-- The turn number of the canopy link, where known (R398). -/
def turnNow (s : State) : Option Nat := if s.canopy.turnKnown then some s.canopy.turn.toNat else none

/-- The condition of a pending calendar holds at boundary time t (R398). -/
def activates (s : State) (t : Int) : Bool :=
  match s.bil.passive with
  | none => false
  | some c =>
    if leAt c 4 1 = 1 then decide ((leAt c 8 4 : Int) ≤ t)
    else match turnNow s with
      | some n => decide (leAt c 8 4 ≤ n)
      | none => false

/-- The pending calendar becomes active, with the boundary it was due at and the one it is applied at (R398). -/
def activateCalendar (due applied : Nat) (s : State) : State :=
  match s.bil.passive with
  | none => s
  | some c =>
    let old := calId s.bil.calendar
    let s := noteFlagAll 6 { s with bil.calendar := some c, bil.passive := none }
    let s := emit 0x0705 255 (leN 4 old ++ leN 4 (leAt c 0 4) ++ leN 4 due ++ leN 4 applied ++ leN 1 1) s
    lrChange 5 255 255 [] s

/-- Minutes of a DEMAND code (R425). -/
def demandMinutes (code : Nat) : Nat :=
  match code with
  | 0 => 1
  | 1 => 5
  | 2 => 15
  | 3 => 30
  | _ => 60

/-- The values of the snapshot of subsystem 0x7 are in their ranges (R425). -/
def bilSnapOk (s : State) : Bool :=
  decide (fld (snapWord s 0x7000) 30 28 ≤ 4) && decide (fld (snapWord s 0x7000) 27 26 ≤ 2)

/-- DEMAND_MIN of the snapshot of subsystem 0x7. -/
def snapDemand (s : State) : Nat := demandMinutes (fld (snapWord s 0x7000) 30 28)

/-- The snapshot of subsystem 0x7 checked and applied or rejected whole (R144, R425, R390 kind 6). -/
def applyBilCommit (s : State) : State :=
  if !commitPending s 7 then s
  else if !bilSnapOk s then rejectCommit 7 4 s
  else
    let d := snapDemand s
    let changed := d != s.bil.demandMin
    let s := finishCommit 7 false (applySnap 7 (fun a => a / 0x1000 == 7) s)
    if changed then lrChange 6 255 255 [] { s with bil.demandMin := d } else s

/-- The boundary B is one of the old and of the new length (R406). -/
def commonBoundary (s : State) (B : Int) : Bool :=
  decide ((B + 900 * s.bil.offset) % period (snapDemand s) = 0)

/-- Step 4 of R403 for the commit: it waits where it changes DEMAND and B is no boundary of the new length (R406), and
before P7 (R146). -/
def boundaryCommit (B : Int) (s : State) : State :=
  if !s.ready then s
  else if bilSnapOk s && !commonBoundary s B then s else applyBilCommit s

/-- A change of offset that waited for the boundary applies (R406). -/
def applyOffset (s : State) : State :=
  match s.bil.newOffset with
  | some o => { s with bil.offset := o, bak.offset := o, bil.newOffset := none }
  | none => s

/-- Step 6 of R403: the boundary readings of R412. moved holds the boughs whose A_IMP or A_EXP moved. -/
def boundaryReadings (activated : Bool) (moved : Nat) (s : State) : State :=
  let m := if activated then 255 else if bitOf s.bilCfg 31 then moved else 0
  forMask m (fun b t => signReading b 4 t) s

/-- The boughs whose A_IMP or A_EXP moved in the open interval. -/
def movedMask (s : State) : Nat :=
  maskOf (fun b => engReg s b 0 != s.bilB[b].aImpStart || engReg s b 1 != s.bilB[b].aExpStart)

/-- Calendar time stands at a boundary above the high-water mark (R402, R405, R411). -/
def atBoundary (s : State) : Bool :=
  s.timeKnown && decide (lastBoundary s.bil.demandMin s.bil.offset s.now = s.now)
    && (!s.bil.hasHwm || decide (s.bil.hwm < s.now)) && s.bil.intOpen

/-- Steps 1 to 7 of R403 at boundary B = calendar time; step 8 is the release of the readings. -/
def boundary (s : State) : State :=
  let B : Int := s.now
  let s := convertAll s
  let moved := movedMask s
  let s := closeInterval B s
  let s := openInterval B s
  let act := activates s B
  let s := if act then activateCalendar s.now s.now s else s
  let s := boundaryCommit B s
  let s := applyOffset s
  let s := evalRate s
  let s := boundaryReadings act moved s
  writeSave 2 s

/-! ## Calendar time (R408 to R411) -/

/-- The interval containing the time opens (R411). -/
def openAtTime (s : State) : State := openInterval (lastBoundary s.bil.demandMin s.bil.offset s.now) s

/-- Boundaries passed by a set forward: the first closed with its actual duration, the later ones skipped (R410). A
waiting commit of DEMAND is judged at the last of them (DESIGN CHOICE, log entry 171). -/
def passBoundaries (a z : Int) (n : Nat) (s : State) : State :=
  let s := convertAll s
  let moved := movedMask s
  let s := closeInterval a s
  let p := period s.bil.demandMin
  let s := if n > 1 then
      let s := forBoughs (fun b t => t.onBil b (fun e => { e with demand := 0 })) s
      intervalEvent (a + p) z (n - 1) 4 (List.replicate 8 0) s
    else s
  let due := (List.range n).find? (fun i => activates s (a + p * (i : Nat)))
  let s := match due with
    | some i => activateCalendar (a + p * (i : Nat)).toNat s.now s
    | none => s
  let s := { s with bil.hwm := z.toNat }
  let s := openInterval z s
  let s := boundaryCommit z s
  let s := applyOffset s
  let s := evalRate s
  let s := boundaryReadings due.isSome moved s
  writeSave 2 s

/-- What follows a set of calendar time from old, where none means that it was not known (R409 to R411). -/
def afterSet (old : Option Nat) (s : State) : State :=
  let low : Option Int := match old, s.bil.hasHwm with
    | some o, true => some (max o s.bil.hwm : Nat)
    | some o, false => if s.bil.intOpen then some o else none
    | none, true => some s.bil.hwm
    | none, false => none
  if s.bil.hasHwm && decide (s.now ≤ s.bil.hwm) then
    evalRate { s with bil.extended := true, bil.setbacks := s.bil.setbacks + 1, bil.intOpen := true }
  else match low with
    | none => evalRate (openAtTime s)
    | some lo =>
      match boundaries s.bil.demandMin s.bil.offset lo s.now with
      | some (a, z, n) => passBoundaries a z n s
      | none => evalRate s

/-- Calendar time set: the counters change at once, event 0x0703 is recorded with its source, the readings carry
TIME_SET (R408). -/
def setTime (v : BitVec 32) (source : Nat) (s : State) : State :=
  let old := s.bak.caltime
  let s := noteFlagAll 1 { s with bak.caltime := v }
  let below := s.bil.hasHwm && decide (v.toNat ≤ s.bil.hwm)
  let off := s.bil.newOffset.getD s.bil.offset
  let s := emit 0x0703 255 (leN 4 old.toNat ++ leN 4 v.toNat ++ leI 1 off ++ leN 1 source ++ leN 1 (b2n below)) s
  afterSet (if old = 0xFFFFFFFF then none else some old.toNat) s

/-- A local offset as the device takes it: any value outside -56 to 56 is treated as 0 (R21). -/
def localOffset (o : Int) : Int := if -56 ≤ o ∧ o ≤ 56 then o else 0

/-- The record of a set that leaves calendar time as it is: event 0x0703 with the offset taken (R21, R408; log entry 73).
-/
def recordOffset (source : Nat) (s : State) : State :=
  let t := s.bak.caltime.toNat
  emit 0x0703 255 (leN 4 t ++ leN 4 t ++ leI 1 (s.bil.newOffset.getD s.bil.offset) ++ leN 1 source
    ++ leN 1 (b2n s.belowHwm)) s

/-- A change of the local offset, as R21 takes it: pending until the next boundary, at once while calendar time is not
known (R406). -/
def setOffset (x : Int) (s : State) : State :=
  let o := localOffset x
  if s.timeKnown then { s with bil.newOffset := if o = s.bil.offset then none else some o }
  else { s with bil.offset := o, bak.offset := o, bil.newOffset := none }

end Sys2Proof.Machine
end

