-- ==== Sys2Proof/Machine/Sram.lean ====
section
/-! DEFINITION. The SRAM codeword (R595 to R597), reads and writes of words (R598, R599, R605), macros and spares (R607
to R611), and the bulk window as a command's target (R716). -/

namespace Sys2Proof.Machine

/-! ## The codeword -/

/-- A field element of GF(2⁷) times α, α a root of x⁷ + x³ + 1 (R596). -/
def gfTimes (a : Nat) : Nat := if a < 64 then 2 * a else (2 * a) ^^^ 0x89

/-- α to the power n. -/
def gfPow : Nat → Nat
  | 0 => 1
  | n + 1 => gfTimes (gfPow n)

/-- Exponent p(k) of codeword bit k (R595). -/
def bitExp (k : Nat) : Nat := if k < 64 then 14 + k else k - 64

/-- The two field elements of codeword bits 0 to 77 (R596). -/
def bitElem (k : Nat) : Nat × Nat := (gfPow (bitExp k), gfPow (3 * bitExp k % 127))

/-- The sums of R596 over bits 0 to 77. -/
def syndrome (c : BitVec 79) : Nat × Nat :=
  (List.range 78).foldl (fun s k => if c.getLsbD k then (s.1 ^^^ (bitElem k).1, s.2 ^^^ (bitElem k).2) else s) (0, 0)

/-- Number of 1 bits. -/
def weight (c : BitVec 79) : Nat := ((List.range 79).filter (fun k => c.getLsbD k)).length

/-- A codeword is valid (R596). -/
def codewordOk (c : BitVec 79) : Bool := syndrome c == (0, 0) && weight c % 2 == 0

/-- One step of the division by g(x) = (x⁷ + x³ + 1)(x⁷ + x³ + x² + x + 1) (R596). -/
def checkStep (r : Nat) (b : Bool) : Nat :=
  let t := 2 * r + b2n b
  if t < 16384 then t else t ^^^ 0x4377

/-- The check bits: the remainder of x¹⁴ · D(x) divided by g(x). -/
def checkBits (d : BitVec 64) : Nat :=
  (((List.range 64).map (fun k => d.getLsbD (63 - k))) ++ List.replicate 14 false).foldl checkStep 0

/-- The codeword of 64 data bits (R595). -/
def encodeWord (d : BitVec 64) : BitVec 79 :=
  let c := BitVec.ofNat 79 (d.toNat + checkBits d * 2 ^ 64)
  if weight c % 2 = 1 then c ||| BitVec.ofNat 79 (2 ^ 78) else c

/-- Some bit of 0 to 77 explains the syndrome. -/
def oneLocated (t : Nat × Nat) : Bool := (List.range 78).any (fun k => bitElem k == t)

/-- Two bits of 0 to 77 explain the syndrome. -/
def twoLocated (t : Nat × Nat) : Bool :=
  (List.range 78).any (fun k =>
    let e := bitElem k
    oneLocated (e.1 ^^^ t.1, e.2 ^^^ t.2))

/-- The decoder's outcome for the wrong bits e: 0 clean, 1 or 2 bits corrected, 3 uncorrectable (R597). -/
def classify (e : BitVec 79) : Nat :=
  let t := syndrome e
  if weight e % 2 = 0 then (if t == (0, 0) then 0 else if oneLocated t || twoLocated t then 2 else 3)
  else if t == (0, 0) || oneLocated t then 1 else 3

/-- The outcome of a read of a word with wrong bits e: for four or more wrong bits it is not defined, and free
(R597, log entry 4). -/
def outcome (e : BitVec 79) (s : State) : Nat × State :=
  if weight e < 4 then (classify e, s)
  else
    let (v, s) := s.free 2
    (v.toNat, s)

/-! ## Macros (R607, R608) -/

/-- The macro of an internal address, where SRAM answers. -/
def macroOf (a : Nat) : Option Nat :=
  if a < 0x00800000 then some (a / 65536)
  else if 0x01000000 ≤ a ∧ a < 0x01400000 then some (128 + (a - 0x01000000) / 65536)
  else if 0x02000000 ≤ a ∧ a < 0x02080000 then some (192 + (a - 0x02000000) / 65536)
  else if 0x04000000 ≤ a ∧ a < 0x04015000 then some (200 + (a - 0x04000000) / 4096)
  else none

/-- A macro is small: a crossing buffer. -/
def macroSmall (m : Nat) : Bool := decide (200 ≤ m)

/-- Row of an address in its macro. -/
def rowOf (a : Nat) : Nat :=
  match macroOf a with
  | some m => a / 128 % (if macroSmall m then 32 else 512)
  | none => 0

/-- First address of a row of a macro. -/
def rowAddr (m row : Nat) : Nat :=
  (if m < 128 then m * 65536
   else if m < 192 then 0x01000000 + (m - 128) * 65536
   else if m < 200 then 0x02000000 + (m - 192) * 65536
   else 0x04000000 + (m - 200) * 4096) + row * 128

/-- The macro of a number. -/
def macroAt (s : State) (m : Nat) : Macro := getN s.mem.macros m {}

/-- Spare rows that a macro has (R607). -/
def rowSpares (m : Nat) : Nat := if macroSmall m then 2 else 4

/-- The lowest spare not in use. -/
def freeSpare (n : Nat) (used : List (Nat × Nat)) : Option Nat :=
  (List.range n).find? (fun i => !used.any (fun u => u.2 == i))

/-! ## The repair map entries (R610) -/

/-- CRC-8 over bits 31:8 of an entry, polynomial 0x07, most significant bit first. -/
def crc8 (e : Nat) : Nat :=
  (List.range 24).foldl (fun c k =>
    let top := (c / 128 % 2) ^^^ (e >>> (31 - k)) % 2
    let c := c * 2 % 256
    if top = 1 then c ^^^ 7 else c) 0

/-- An entry with its CRC-8. -/
def mapEntry (e : Nat) : BitVec 32 := BitVec.ofNat 32 (e + crc8 e)

def rowEntry (m row spare : Nat) : BitVec 32 := mapEntry (0x40000000 + m * 2 ^ 22 + row * 2 ^ 13 + spare * 2 ^ 11)
def colEntry (m grp spare : Nat) : BitVec 32 := mapEntry (0x80000000 + m * 2 ^ 22 + grp * 2 ^ 15 + spare * 2 ^ 14)
def laneEntry (seg lane : Nat) : BitVec 32 := mapEntry (0xC0000000 + seg * 2 ^ 25 + lane * 2 ^ 21)

/-! ## Wrong and hard bits -/

/-- The word with wrong or hard bits at an address. -/
def badAt (s : State) (a : Nat) : BadWord := (s.mem.bad.find? (fun w => w.addr == a)).getD { addr := a }

/-- The wrong and hard bits of a word set; a word with neither is not listed. -/
def putBad (w : BadWord) (s : State) : State :=
  { s with mem.bad := s.mem.bad.filter (fun x => x.addr != w.addr) ++ (if w.flips = 0 ∧ w.hard = 0 then [] else [w]) }

/-- The same codeword bit is hard in two or more rows of the macro, the cells given among them (R609). -/
def manyRows (cells : List (Nat × Nat × Nat)) (m bit : Nat) (s : State) : Bool :=
  let rows := (cells.filter (fun c => c.1 == m && c.2.2 == bit)).map (fun c => c.2.1)
    ++ (s.mem.bad.filter (fun w => macroOf w.addr == some m && w.hard.getLsbD bit)).map (fun w => rowOf w.addr)
  rows.eraseDups.length ≥ 2

/-- The hard bits of a column group, or of a row, gone with their spare. The spare takes the contents: a word that the
decoder corrects is right again, an uncorrectable one keeps its raw codeword (R609, R629). -/
def clearHard (p : BadWord → Bool) (mask : BitVec 79) (s : State) : State :=
  let f := fun (w : BadWord) => if p w then
      { w with hard := w.hard &&& ~~~mask, flips := if weight w.flips < 3 then w.flips &&& ~~~mask else w.flips }
    else w
  let ws := (s.mem.bad.map f).filter (fun w => !(w.flips == 0 && w.hard == 0))
  { s with mem.bad := ws }

/-- A mask with codeword bit k. -/
def cwBit (k : Nat) : BitVec 79 := BitVec.ofNat 79 (2 ^ k)

/-- A soft repair counted, with its map entry to write and event 0x0D03 (R609, R611). -/
def softRepair (m kind idx spare : Nat) (entry : BitVec 32) (s : State) : State :=
  emit 0x0D03 255 (leN 1 m ++ leN 1 kind ++ leN 2 idx ++ leN 1 spare)
    { s with mem.soft := min 255 (s.mem.soft + 1), mem.softList := s.mem.softList ++ [entry] }

/-- A hard cell of the word at a takes a spare, or stays as a degraded word (R609). cells are the hard cells found with
it: macro, row, codeword bit. -/
def repairHard (cells : List (Nat × Nat × Nat)) (a bit : Nat) (s : State) : State :=
  match macroOf a with
  | none => s
  | some m =>
    let row := rowOf a
    let mc := macroAt s m
    if mc.rows.any (fun r => r.1 == row) || mc.cols.any (fun c => c.1 == bit) then s
    else match manyRows cells m bit s, freeSpare 2 mc.cols, freeSpare (rowSpares m) mc.rows with
    | true, some sp, _ =>
      softRepair m 2 bit sp (colEntry m bit sp)
        (clearHard (fun w => macroOf w.addr == some m) (cwBit bit)
          { s with mem.macros := modN s.mem.macros m (fun x => { x with cols := x.cols ++ [(bit, sp)] }) })
    | _, _, some sp =>
      softRepair m 1 row sp (rowEntry m row sp)
        (clearHard (fun w => macroOf w.addr == some m && rowOf w.addr == row) (BitVec.allOnes 79)
          { s with mem.macros := modN s.mem.macros m (fun x => { x with rows := x.rows ++ [(row, sp)] }) })
    | _, _, none =>
      let w := badAt s a
      let hard := w.hard ||| cwBit bit
      let s := putBad { w with hard := hard } s
      let many := decide (weight hard ≥ 2)
      emit 0x0D06 255 (leN 1 m ++ leN 4 a ++ leN 1 (b2n many))
        (if weight w.hard = 0 then { s with mem.degraded := min 255 (s.mem.degraded + 1) } else s)

/-! ## Reads and writes of words -/

/-- Address and kind of the last error (R622). -/
def eccLast (a kind : Nat) (s : State) : State := { s with mem.lastAddr := a / 8, mem.lastKind := kind }

/-- A corrected read: written back, counted, repaired when hard, event 0x0D01 once per macro and second (R598). -/
def corrected (a n stop : Nat) (s : State) : State :=
  let w := badAt s a
  let hard := w.flips &&& w.hard
  let s := putBad { w with flips := hard } (eccLast a n { s with mem.corr := min 65535 (s.mem.corr + 1) })
  let m := (macroOf a).getD 0
  let s := if s.mem.corrNoted.contains m then s else
    emit 0x0D01 255 (leN 4 a ++ leN 4 n ++ leN 1 stop ++ leN 1 (b2n (hard != 0)) ++ leN 4 1)
      { s with mem.corrNoted := s.mem.corrNoted ++ [m] }
  ((List.range 79).filter (fun k => hard.getLsbD k)).foldl (fun t k => repairHard [] a k t) s

/-- An uncorrectable word: counted, MEM_ECC_LAST, event 0x0D02 with its action, the memory source (R599). -/
def uncorrectable (a stop action : Nat) (s : State) : State :=
  emit 0x0D02 255 (leN 4 a ++ leN 1 stop ++ leN 1 action)
    (raiseIrq 6 (eccLast a 3 { s with mem.uncorr := min 255 (s.mem.uncorr + 1) }))

/-- The word at a read by an initiator: true when it is delivered, corrected where it had to be (R597, R598). -/
def readWord (a stop : Nat) (s : State) : Bool × State :=
  let (o, s) := outcome (badAt s a).flips s
  if o = 0 then (true, s) else if o = 3 then (false, s) else (true, corrected a o stop s)

/-- A word written by an initiator: its wrong bits go, hard bits may stay wrong (free, log entry 4), and an armed
injection applies once (R605). -/
def writtenWord (a : Nat) (s : State) : State :=
  let w := badAt s a
  let (stuck, s) := if w.hard = 0 then ((0 : BitVec 79), s) else
    let (v, s) := s.free 79
    (v &&& w.hard, s)
  if s.mem.armed && s.mem.armAddr == a then
    putBad { w with flips := s.mem.armMask ^^^ stuck } { s with mem.armed := false }
  else putBad { w with flips := stuck } s

/-- The words that n bytes from a touch. -/
def wordsOf (a n : Nat) : List Nat := (List.range ((a % 8 + n + 7) / 8)).map (fun i => a / 8 * 8 + 8 * i)

/-- Bytes written to SRAM by an initiator. -/
def sramWrite (a : Nat) (bs : List Byte) (s : State) : State :=
  let ws := (wordsOf a bs.length).filter (fun w =>
    s.mem.bad.any (fun x => x.addr == w) || (s.mem.armed && s.mem.armAddr == w))
  ws.foldl (fun t w => writtenWord w t) { s with mem.cells := memPuts zeroB s.mem.cells a bs }

/-- Bytes of SRAM as the decoder delivers them. -/
def sramBytes (s : State) (a n : Nat) : List Byte := memGets zeroB s.mem.cells a n

/-! ## The bulk window as a command's target (R716) -/

/-- Data written by the device to the bulk window: state 3, its length, BULK_DONE. -/
def bulkOut (type : Nat) (data : List Byte) (s : State) : State :=
  raiseIrq 10 { s with host.bulk := memPuts zeroB s.host.bulk 0 data, host.bulkState := 3, host.bulkType := type,
                       host.bulkLen := data.length }

/-- An inbound command held the window and gave it back: state 0, BULK_DONE. -/
def bulkIn (type : Nat) (s : State) : State := raiseIrq 10 { s with host.bulkState := 0, host.bulkType := type }

/-- n bytes of the bulk window from offset i. -/
def bulkBytes (s : State) (i n : Nat) : List Byte := memGets zeroB s.host.bulk i n

end Sys2Proof.Machine
end

