-- ==== Sys2Proof/Machine/Ledger.lean ====
section
/-! DEFINITION. The ledger bank and its journal (R222 to R229, R600): lookup, insertion, entries, compaction, debit. -/

namespace Sys2Proof.Machine

/-- Slots of the ledger bank (R53). -/
def ledgerSlots : Nat := 262144

/-- Internal address of a slot. -/
def slotAddr (i : Nat) : Nat := 0x01000000 + 16 * i

/-! ## Records (R222) -/

def recDigest (r : List Byte) : List Byte := bytesAt r 0 8
def recBalance (r : List Byte) : Int := toInt 40 (leAt r 8 5)
def recFlag (r : List Byte) (i : Nat) : Bool := (byteAt r 13).getLsbD i
def recValid (r : List Byte) : Bool := recFlag r 0
def recEcUsed (r : List Byte) : Nat := leAt r 14 2

/-- A record of its fields. -/
def mkRecord (digest : List Byte) (balance : Int) (flags : Byte) (ecUsed : Nat) : List Byte :=
  padTo 8 digest ++ leI 5 balance ++ [flags] ++ leN 2 ecUsed

/-- A balance held in the range of R17. -/
def clampBalance (x : Int) : Int := clampI (-(2 ^ 39)) (2 ^ 39 - 1) x

/-- A slot is empty: VALID 0 and DIGEST all zero. -/
def slotEmpty (r : List Byte) : Bool := !recValid r && recDigest r == List.replicate 8 0

/-- The digest of an identifier (R217). -/
def nonZeroDigest (d : List Byte) : List Byte := if d = List.replicate 8 0 then 1 :: List.replicate 7 0 else d
def digestOf (ident : List Byte) : List Byte := nonZeroDigest ((sha256 ident).take 8)

/-- The home slot of a digest (R223). -/
def homeSlot (d : List Byte) : Nat :=
  (byteAt d 0).toNat + 256 * (byteAt d 1).toNat + 65536 * ((byteAt d 2).toNat % 4)

/-! ## Journal (R224 to R226) -/

def halfAt (s : State) (h : Nat) : Half := getN s.nv.flash.half h {}

/-- The 32 bytes of a journal entry (R224). An entry that fails its CRC holds another CRC than that of its bytes. -/
def entryBytes (e : JEntry) : List Byte :=
  let bs := leN 8 e.opstamp.toNat ++ padTo 16 e.record ++ leN 4 e.slot
  bs ++ leN 4 (if e.crcOk then crc32c bs else crc32c bs ^^^ 1)

/-- The bytes of a half's header (R224): "RLJ1", GENERATION, the CRC-32C of the snapshot, the CRC-32C of these 12 bytes.
-/
def headBytes (h : Half) : List Byte :=
  let bs := [0x52, 0x4C, 0x4A, 0x31] ++ leN 4 h.generation ++ leN 4 (crc32c (memGets zeroB h.snapshot 0 0x400000))
  bs ++ leN 4 (crc32c bs)

/-- The byte of a half at an offset (R224): snapshot, header, entry log; what is erased reads 0xFF. -/
def halfByte (h : Half) (o : Nat) : Byte :=
  if o < 0x400000 then (if h.erased then 0xFF else memGet zeroB h.snapshot o)
  else if o < 0x410000 then (if h.erased || 16 ≤ o - 0x400000 then 0xFF else (headBytes h).getD (o - 0x400000) 0xFF)
  else match h.entries[(o - 0x410000) / 32]? with
    | some e => (entryBytes e).getD ((o - 0x410000) % 32) 0xFF
    | none => 0xFF

/-- The byte of the ledger journal's area at a flash offset: half 0 at 0x00C0_0000, half 1 at 0x0110_0000 (R224). -/
def journalByte (s : State) (o : Nat) : Byte := halfByte (halfAt s ((o - 0xC00000) / 0x500000)) ((o - 0xC00000) % 0x500000)

/-- The ledger bank as a snapshot: cells by offset in the bank. -/
def bankCells (s : State) : List Host.Cell :=
  (s.mem.cells.filter (fun c => decide (0x01000000 ≤ c.1 ∧ c.1 < 0x01400000))).map (fun c => (c.1 - 0x01000000, c.2))

/-- A new snapshot in the other half with a higher GENERATION; that half becomes active (R225). A half that can't be
written gives event 0x030B with a write failure, and the active half stays (R238; log entry 182). -/
def compact (s : State) : State :=
  let a := s.nv.flash.active
  let o := 1 - a
  let g := (halfAt s a).generation + 1
  let bank := bankCells s
  if s.nv.flash.halfBad.getLsbD o then emit 0x030B 255 (leN 1 1) s
  else emit 0x030B 255 (leN 1 o ++ leN 4 g)
    { s with nv.flash.half := modN s.nv.flash.half o (fun _ =>
               { snapshot := bank, erased := false, headOk := true, generation := g }),
             nv.flash.active := o }

/-- Entries that a half holds (R224). -/
def logEntries : Nat := 30720

/-- One journal entry for a slot, with a compaction first when the log is full (R225). ses is what the entry shows of a
running session (R369, log entry 130). -/
def journalAs (ses : Option (Nat × Nat × Nat)) (i : Nat) (s : State) : State :=
  let s := if (halfAt s s.nv.flash.active).entries.length < logEntries then s else compact s
  let e : JEntry := { opstamp := s.opstamp, record := sramBytes s (slotAddr i) 16, slot := i, session := ses }
  if logEntries ≤ (halfAt s s.nv.flash.active).entries.length then s
  else { s with nv.flash.half := modN s.nv.flash.half s.nv.flash.active (fun h => { h with entries := h.entries ++ [e] }) }

/-- A journal entry that shows no session's cost. -/
def journal (i : Nat) (s : State) : State := journalAs none i s

/-- The journal entry of bough b's session for its record: its number, what is debited, its emergency credit use. -/
def journalFor (b : Bough) (i : Nat) (s : State) : State :=
  let e := s.ses[b]
  journalAs (some (e.num, e.debited, e.ecUsed)) i s

/-! ## Slots -/

/-- A record written to a slot. -/
def putSlot (i : Nat) (r : List Byte) (s : State) : State := sramWrite (slotAddr i) (padTo 16 r) s

/-- The newest journalled record of a slot, or the snapshot's (R600). -/
def journalled (s : State) (i : Nat) : List Byte :=
  let h := halfAt s s.nv.flash.active
  match h.entries.reverse.find? (fun e => e.slot == i && e.crcOk) with
  | some e => e.record
  | none => memGets zeroB h.snapshot (16 * i) 16

/-- A ledger word that the lookup engine could not read: the slot is rewritten from the journal, event 0x0D02 with
action 5; when it fails again it is marked deleted with event 0x0309 (R600). -/
def restoreSlot (i : Nat) (s : State) : State :=
  let r := journalled s i
  let a := slotAddr i
  let s := emit 0x0D02 255 (leN 4 a ++ leN 1 7 ++ leN 1 5) (putSlot i r s)
  let (ok1, s) := readWord a 7 s
  let (ok2, s) := readWord (a + 8) 7 s
  if ok1 && ok2 then s
  else emit 0x0309 255 (recDigest r) (putSlot i (mkRecord (recDigest r) 0 0 0) s)

/-- A slot read by the lookup engine; none where a word is uncorrectable: the channel halts, the lookup has no record
and the slot is restored (R599, R600). -/
def readSlot (i : Nat) (s : State) : Option (List Byte) × State :=
  let a := slotAddr i
  let (ok1, s) := readWord a 7 s
  let (ok2, s) := readWord (a + 8) 7 s
  if ok1 && ok2 then (some (sramBytes s a 16), s)
  else
    let bad := if ok1 then a + 8 else a
    let s := uncorrectable bad 7 2 { s with mem.haltStop := 7, mem.haltCh := 0 }
    (none, restoreSlot i s)

/-- The longest probe run since reset (R246). -/
def noteProbe (k : Nat) (s : State) : State := { s with sesDev.probeMax := max s.sesDev.probeMax k }

/-- Lookup of a digest over at most n more probes from probe k (R223). -/
def lookupFrom (d : List Byte) : Nat → Nat → State → Option Nat × State
  | 0, _, s => (none, noteProbe 63 s)
  | n + 1, k, s =>
    let i := (homeSlot d + k) % ledgerSlots
    match readSlot i s with
    | (none, s) => (none, noteProbe k s)
    | (some r, s) =>
      if recValid r && recDigest r == d then (some i, noteProbe k s)
      else if slotEmpty r then (none, noteProbe k s)
      else lookupFrom d n (k + 1) s

/-- Lookup of R223: the slot of the record with a digest. -/
def lookup (d : List Byte) (s : State) : Option Nat × State := lookupFrom d 64 0 s

/-- The first empty or deleted slot of the probes (R223). -/
def freeFrom (d : List Byte) : Nat → Nat → State → Option Nat × State
  | 0, _, s => (none, noteProbe 63 s)
  | n + 1, k, s =>
    let i := (homeSlot d + k) % ledgerSlots
    match readSlot i s with
    | (some r, s) => if recValid r then freeFrom d n (k + 1) s else (some i, noteProbe k s)
    | (none, s) => freeFrom d n (k + 1) s

/-- A record inserted under R223; event 0x0309 when no slot is free. The slot it took. -/
def insertRecord (r : List Byte) (s : State) : Option Nat × State :=
  match freeFrom (recDigest r) 64 0 s with
  | (some i, s) => (some i, putSlot i r s)
  | (none, s) => (none, emit 0x0309 255 (recDigest r) s)

/-- The record of a slot as it stands. -/
def slotRecord (s : State) (i : Nat) : List Byte := sramBytes s (slotAddr i) 16

/-! ## Credit (R227, R229) -/

/-- EC_LIMIT in money units. -/
def ecLimit (s : State) : Nat := 1000 * fld s.sesCreditCfg 31 16

/-- Unused emergency credit of a record with its exact use; 0 unless EC_OK (R227). -/
def ecRoom (s : State) (r : List Byte) (used : Nat) : Nat := if recFlag r 3 then ecLimit s - used else 0

/-- debit() of R227 on a balance and an exact emergency credit use; room is 0 for a REMOTE record. -/
def debit (balance : Int) (room cost : Nat) : Int × Nat :=
  let take := min cost balance.toNat
  let cost1 := cost - take
  let ec := min cost1 room
  (clampBalance (balance - take - (cost1 - ec : Nat)), ec)

/-- Emergency credit use as the record holds it: units of 1,000 money units, rounded up (R222). -/
def ecUnits (used : Nat) : Nat := ceilDiv used 1000

/-- The record's class is REMOTE. -/
def recRemote (r : List Byte) : Bool := recFlag r 7

/-- The boughs that run a session on a slot: several with MULTI = 1. -/
def holdersOf (s : State) (i : Nat) : List Bough := allBoughs.filter (fun b => s.ses[b].slot == some i)

/-- The bough that runs a session on a slot. -/
def holderOf (s : State) (i : Nat) : Option Bough := (holdersOf s i).head?

/-- The emergency credit used of a record: exact in money units while a session holds it, else the record's units (R222,
R227). Every holder of the record keeps the same amount. -/
def heldEc (s : State) (i : Nat) : Nat :=
  match holderOf s i with
  | some b => s.ses[b].ecUsed
  | none => 1000 * recEcUsed (sramBytes s (slotAddr i) 16)

/-- The emergency credit used of a record kept with every session that holds it. -/
def keepEc (i used : Nat) (s : State) : State :=
  { s with ses := s.ses.map (fun e => if e.slot = some i then { e with ecUsed := used } else e) }

/-- The cost of bough b not yet debited taken from its record (R227). -/
def debitSession (b : Bough) (s : State) : State :=
  let e := s.ses[b]
  match e.slot with
  | none => s
  | some i =>
    let r := slotRecord s i
    let room := if recRemote r then 0 else ecRoom s r e.ecUsed
    let (bal, ec) := debit (recBalance r) room (e.cost - e.debited)
    let used := e.ecUsed + ec
    let s := keepEc i used (s.onSes b (fun x => { x with debited := max x.cost x.debited }))
    putSlot i (mkRecord (recDigest r) bal (byteAt r 13) (if recRemote r then recEcUsed r else ecUnits used)) s

/-- Available credit of a running session: balance and unused emergency credit less the cost not yet debited, of every
session on the record (R227; log entry 181). -/
def available (s : State) (b : Bough) : Int :=
  let e := s.ses[b]
  match e.slot with
  | none => 0
  | some i =>
    let r := slotRecord s i
    recBalance r + ecRoom s r e.ecUsed - (((holdersOf s i).map (fun c => s.ses[c].cost - s.ses[c].debited)).sum : Nat)

/-! ## Friendly windows (R228) -/

/-- A record of the Ronif image in force (R134). -/
def tableOf (s : State) (t : Nat) : Option (List Byte) := (s.start.tables.find? (fun e => e.1 == t)).map (·.2)

/-- Today is a special day of the active calendar. -/
def isSpecialDay (s : State) (day : Int) : Bool :=
  match s.bil.calendar with
  | none => false
  | some cal =>
    let (y, m, d) := civil day
    (specialDay cal y m d 64 0).isSome

/-- Local time lies in a friendly window; windows apply only while calendar time is known. -/
def friendlyNow (s : State) : Bool :=
  s.timeKnown &&
    match tableOf s 0x3101 with
    | none => false
    | some t =>
      let l := localSecs s.now s.bil.offset
      let day := l / 86400
      let q := (l % 86400).toNat / 900
      (List.range (t.length / 4)).any (fun i =>
        let mask := byteAt t (4 * i)
        (mask.getLsbD (weekday day) || (mask.getLsbD 7 && isSpecialDay s day))
          && decide (leAt t (4 * i + 1) 1 ≤ q) && decide (q < leAt t (4 * i + 2) 1))

end Sys2Proof.Machine
end

