-- ==== Sys2Proof/Machine/SesCore.lean ====
section
/-! DEFINITION. The session engine's shared operations: pilot outputs (R162, R170 to R172), ceilings and power requests
(R231, R232), session states (R213 to R216), authorisation (R217 to R221). -/

namespace Sys2Proof.Machine

/-! ## Kinds and holds -/

/-- TYPE of a bough in the values in force: DC (R280). -/
def isDC (s : State) (b : Bough) : Bool := bitOf (s.safBoughCfg b) 31

/-- A coil waits for SAF_CLEAR after a weld or a failed on-pulse test; a hold of any kind keeps the bough out of
service (R288). -/
def heldOut (s : State) (b : Bough) : Bool := s.saf[b].holdCmd || s.saf[b].holdStart || s.saf[b].holdOther
  || s.saf[b].holdUpd

/-- The bough is in states B, C or D. -/
def plugged (s : State) (b : Bough) : Bool :=
  match s.ports[b].state with
  | .B | .C | .D => true
  | _ => false

/-- No modulator serves local channel n: its word carries FAIL, and the S path of a side-path channel delivers the
substitute of R327 (R311, R323, R339). -/
def chFails (m : Mtr) (n : Nat) : Bool :=
  let c := getN m.ch n {}
  (c.failed || c.lost || c.readmit) && m.served != n

/-- The bits of chFails. -/
def chFailMask (m : Mtr) : BitVec 24 :=
  BitVec.ofNat 24 ((List.range 24).foldl (fun w n => if chFails m n then w ||| (1 <<< n) else w) 0)

/-! ## Trims (R312, R746) -/

/-- x held in the signed 24-bit range of R312, and whether it had to be. -/
def saturate (x : Int) : Int × Bool :=
  if x < -8388607 then (-8388607, true) else if 8388607 < x then (8388607, true) else (x, false)

/-- The gain and offset trims of R312 on a sample of local channel n. -/
def trimmed (s : State) (b : Bough) (n : Nat) (x : Int) : Int × Bool :=
  let c := 24 * b.val + n
  saturate (((x + toInt 24 (fld (s.mtrOffset c) 23 0)) * fld (s.mtrGain c) 23 0 + 2 ^ 21) / 2 ^ 22)

/-- The reserve's correction on a raw sample (R325); what the factory repair map gave the reserve has none (R319). -/
def fitted (m : Mtr) (x : Int) : Int := if m.rsvState = 5 then x else quot (x * m.rgain) (2 ^ 30) + m.roff

/-- The value of a sample of an overload run, with the sign of the overload: that of the run's first sample (R746). -/
def overloadValue (run neg : Bool) (r : RawSample) : Int :=
  if (if run then neg else decide (r.x < 0)) then -8388607 else 8388607

/-- The sign that an overload run keeps. -/
def keepNeg (run neg : Bool) (r : RawSample) : Bool := if r.beyond && !run then decide (r.x < 0) else neg

/-! ## Pilot outputs -/

/-- Digital communication is offered, until the fallback of R183 (R172). -/
def offersHlc (s : State) (b : Bough) : Bool := bitOf (s.vehPortCfg b) 30 && !s.ports[b].fallback

/-- The duty is 5 %: from the confirmation of state B until the bough returns to state A (R172). -/
def digital (s : State) (b : Bough) : Bool := offersHlc s b && s.ports[b].digitalOn

/-- The asked current I in 0.1 A (R170); on a DC port the cable rating plays no part (R175). -/
def askedCurrent (s : State) (b : Bough) : Nat :=
  let maxI := fld (s.vehPortCfg b) 9 0
  let cable := if fld (s.vehPpCfg b) 31 30 = 2 then 10 * fld (s.vehPpCfg b) 15 10 else s.ports[b].ratingUse
  let c := min maxI s.ses[b].acCeil
  if bitOf (s.vehPortCfg b) 28 then c else min c cable

/-- The duty of an offered current, in 0.1 %; none for mode X1 (R171). -/
def dutyOf (i : Nat) : Option Nat :=
  if i < 60 then none
  else if i ≤ 510 then some (i * 5 / 3)
  else some (max 850 (min i 800 * 2 / 5 + 640))

/-- Proximity withholds current: short, invalid, no cable or no connector (R175, R210). -/
def ppWithholds (s : State) (b : Bough) : Bool :=
  fld (s.vehPpCfg b) 31 30 != 2 && [0, 8, 9].contains s.ports[b].ppCode

/-- The power die forces every CPOUT to mode F (R277) or a supply trip does (R86). -/
def forcedF (s : State) : Bool :=
  !s.safDev.fsCauses.isEmpty || s.safDev.stop || !s.supply.inRange.getLsbD 6 || !s.supply.inRange.getLsbD 7

/-- What the pilot generator drives: mode, and the duty and current offered (R162, R169, R172, R206, R216). -/
def pilotDrive (s : State) (b : Bough) : OutMode × Nat × Nat :=
  let p := s.ports[b]
  if !s.safDev.firstBeat || !s.supply.inRange.getLsbD 7 then (.off, 0, 0)
  else if !s.ready || !bitOf (s.vehPortCfg b) 31 || heldOut s b || p.state == .fault || forcedF s || s.log.fatalHold
      || s.stopped then
    (.f, 0, 0)
  else if !plugged s b || p.slac == 5 || ppWithholds s b || s.sesL[b].notify == 4 then (.x1, 1000, 0)
  else if digital s b then (.x2, 50, 0)
  else if offersHlc s b then (.x1, 1000, 0)
  else
    let i := min (askedCurrent s b) 800
    match dutyOf i with
    | some d => (.x2, d, i)
    | none => (.x1, 1000, 0)

/-- The state that the port shows under an output mode: modes F and Off report state F (R165); a port that leaves them
enters state A (R122) and has yet to confirm it. -/
def portUnder (m : OutMode) (p : Port) : Port :=
  if m = .f ∨ m = .off then
    (if p.state = .fault then p else { p with state := .F, candRun := 0, badRun := 0, fresh := false, diode := false })
  else if p.state = .F then { p with state := .A, candRun := 0, badRun := 0, fresh := true }
  else p

/-- The bough's modem leaves the logical network and discards the NMK (R188); no request stays assigned to the bough. The
frame in progress completes (R209). -/
def leaveNetwork (b : Bough) (s : State) : State :=
  let s := { s with assoc.reqs := s.assoc.reqs.filter (fun r => r.assigned != some b) }
  let s := s.onPort b (fun p => { p with
    slac := if p.winOpen && p.slac != 5 then 1 else if p.winOpen then p.slac else 0, proto := 0, tls := false, mac := [],
    nmk := [], nid := [] })
  s.onLink b (fun l => { bursts := l.bursts, burstMs := l.burstMs, transmitting := l.transmitting, txBlocks := l.txBlocks,
                         txSymbols := l.txSymbols })

/-- The port takes what the generator is to drive. A change from mode X2, or into it, waits for the bough's next rising
edge, so that no period has a partly changed duty; modes F and Off act at once (R164, R210, R211). Event 0x020A when the
current asked begins to exceed 80 A (R170). -/
def setOutput (b : Bough) (s : State) : State :=
  let (m, d, i) := pilotDrive s b
  let asked := askedCurrent s b
  let lim := m == .x2 && !digital s b && decide (800 < asked)
  let was := s.ports[b].limited
  let s := s.onPort b (fun p =>
    let q := { portUnder m p with limited := lim }
    if (p.out = .x2 ∧ (m = .x2 ∨ m = .x1)) ∨ (p.out = .x1 ∧ m = .x2) then
      { q with next := if p.out = m ∧ p.duty = d ∧ p.offered = i then none else some (m, d, i) }
    else { q with out := m, duty := d, offered := i, next := none, diode := false, negMv := if m = .x2 then q.negMv else 0 })
  let s := if m = .f ∨ m = .off then s.onSaf b (fun f => { f with pilotCD := false }) else s
  if lim && !was then emit 0x020A b.val (leN 4 asked ++ leN 4 800) s else s

/-- The boughs that stagger holds until bough b is associated or its window closes are candidates again (R206). -/
def releaseHeld (b : Bough) (s : State) : State :=
  forBoughs (fun h t =>
    if t.ports[h].slac = 5 ∧ t.ports[h].awaits = some b then
      setOutput h (t.onPort h (fun p => { p with slac := 1, awaits := none }))
    else t) s

/-- The SLAC window of bough b closes (R181). -/
def closeWindow (b : Bough) (s : State) : State :=
  releaseHeld b (s.onPort b (fun p => { p with winOpen := false, slac := if p.slac = 4 then 4 else 0, awaits := none }))

/-- The bough has returned to state A: its window closes, its association ends, and 5 % duty waits for state B again
(R172, R181, R188). -/
def backToA (b : Bough) (s : State) : State :=
  (closeWindow b (leaveNetwork b s)).onPort b (fun p => { p with digitalOn := false, winDone := false, fallback := false })

/-- The pilot generator of bough b brought up to date; a port that leaves modes F and Off returns to state A. -/
def driveOutput (b : Bough) (s : State) : State :=
  let was := s.ports[b].state
  let s := setOutput b s
  if was = .F ∧ s.ports[b].state = .A then backToA b s else s

/-- Every pilot generator brought up to date. -/
def driveAll (s : State) : State := forBoughs driveOutput s

/-! ## Ceilings (R231) -/

/-- The session keeps a ceiling: authorised, and not stopping (DEDUCED, log entry 22). -/
def hasCeiling (st : SesState) : Bool :=
  match st with
  | .authorised | .energising | .charging | .suspended => true
  | _ => false

/-- Site ceiling in W, or FALLBACK_CEIL while none is valid (R231, R517, R518). -/
def siteTerm (s : State) (b : Bough) : Nat × Nat :=
  if s.canopy.tripZero then (0, 3)
  else match s.canopy.siteCeil with
    | some v => (100 * v[b], 3)
    | none => (100 * fld (s.sesCeilCfg b) 31 16, 4)

/-- The terms of R231 in its order: value in W and BINDING. -/
def ceilTerms (s : State) (b : Bough) : List (Nat × Nat) :=
  let l := s.sesL[b]
  [(100 * fld (s.sesCeilCfg b) 15 0, 1)] ++ (if l.hasMax then [(l.vehMax, 0)] else [])
    ++ (match l.hostCeil with | some w => [(w, 2)] | none => []) ++ [siteTerm s b]

/-- The lowest term, the first at a tie. -/
def lowest : List (Nat × Nat) → Nat × Nat
  | [] => (0, 5)
  | [x] => x
  | x :: y :: r => let m := lowest (y :: r); if x.1 ≤ m.1 then x else m

/-- Phases in use of an AC bough. -/
def phases (s : State) (b : Bough) : Nat := if fld (s.nrgBoughCfg b) 30 29 = 1 then 1 else 3

/-- The lowest phase voltage of the last block in mV, NOM_V while the bough reports no grid (R231). -/
def ceilMv (s : State) (b : Bough) : Nat :=
  if s.nrg[b].noGrid then 1000 * fld (s.sesBoughCfg b) 17 8
  else if phases s b = 1 then s.nst[b].u[0] else min s.nst[b].u[0] (min s.nst[b].u[1] s.nst[b].u[2])

/-- The AC current ceiling in 0.1 A, 0 on a DC bough (R231, R244). -/
def acCeilOf (s : State) (b : Bough) (w : Nat) : Nat := if isDC s b then 0 else 10000 * w / (phases s b * ceilMv s b)

/-- The ceiling of bough b computed anew (R231). -/
def recalcCeil (b : Bough) (s : State) : State :=
  let (w, k) := if hasCeiling s.ses[b].state then lowest (ceilTerms s b) else (0, 5)
  let a := acCeilOf s b w
  let old := s.ses[b].ceilW
  let s := if w = old then s else s.onSesL b (fun l => { l with lowered := decide (w < old) })
  s.onSes b (fun e => { e with ceilW := w, acCeil := a, binding := k })

/-! ## Power requests (R232) -/

/-- The session engine sends power requests in these states. -/
def sendsRequests (st : SesState) : Bool :=
  match st with
  | .energising | .charging | .stopping => true
  | _ => false

/-- The ledger record decided the session: AUTH_BY ledger or offline grant (R218, R219). -/
def ledgerDecides (e : Session) : Bool := e.authBy == 2 || e.authBy == 4

/-- Discharge is permitted: BPT_EN, BPT_OK where a record decides, and a BPT service agreed (R232). -/
def mayDischarge (s : State) (b : Bough) : Bool :=
  bitOf (s.sesBoughCfg b) 29 && s.links[b].bpt &&
    match s.ses[b].slot with
    | some i => !ledgerDecides s.ses[b] || recFlag (slotRecord s i) 1
    | none => true

/-- MODE of R232. -/
def requestMode (s : State) (b : Bough) : Nat :=
  if !sendsRequests s.ses[b].state then 0
  else (if isDC s b then 3 else 1) + b2n (s.sesL[b].discharge && mayDischarge s b)

/-- The body of R232 but for COUNT and OPSTAMP. -/
def requestFields (s : State) (b : Bough) : List Byte :=
  let l := s.sesL[b]
  let e := s.ses[b]
  let sign : Int := if l.discharge && mayDischarge s b then -1 else 1
  let flags := b2n l.cableCheck + 2 * b2n l.preCharge + 4 * b2n (e.state == .stopping) + 8 * b2n l.dynamic
  let curr : Int := if isDC s b then l.targetI.natAbs else 100 * e.acCeil
  leN 1 (requestMode s b) ++ leN 1 flags ++ leI 4 (if isDC s b then l.targetV else 0) ++ leI 4 (sign * curr)
    ++ leI 4 (sign * e.ceilW) ++ leN 4 e.ceilW ++ leN 1 e.binding ++ leN 3 0

/-- Event 0x0304 for bough b. -/
def powerRequest (b : Bough) (s : State) : State :=
  if sendsRequests s.ses[b].state && coreAlive s b then
    let s := s.onSesL b (fun l => { l with reqCount := (l.reqCount + 1) % 65536 })
    emit 0x0304 b.val (leN 2 s.sesL[b].reqCount ++ requestFields s b ++ leN 8 s.opstamp.toNat) s
  else s

/-- f changes what the session asks for: the ceiling and the pilot follow, and a request goes at once when any of its
fields changed (R231, R232). -/
def withRequest (b : Bough) (f : State → State) (s : State) : State :=
  let before := requestFields s b
  let s := driveOutput b (recalcCeil b (f s))
  if requestFields s b = before then s else powerRequest b s

/-- The ceilings of every bough computed anew. -/
def recalcAll (s : State) : State := forBoughs (fun b => withRequest b id) s

/-! ## Session states (R213, R214) -/

/-- The number of a session state (R213). -/
def sesNo (st : SesState) : Nat :=
  match st with
  | .idle => 0 | .connected => 1 | .authorising => 2 | .authorised => 3 | .energising => 4
  | .charging => 5 | .suspended => 6 | .stopping => 7 | .finished => 8 | .faulted => 9

/-- The session moves to a state: event 0x0301, ceiling, pilot and power request follow. -/
def goState (b : Bough) (st : SesState) (s : State) : State :=
  let old := s.ses[b].state
  let s := if st = .energising then leaveLowPower s else s
  auxAll <| withRequest b (fun s =>
    emit 0x0301 b.val (leN 4 s.ses[b].num ++ leN 1 (sesNo old) ++ leN 1 (sesNo st))
      (s.onSes b (fun e => { e with state := st }))) s

/-- The running total that the heartwood reports (R221, R401). -/
def reportCost (b : Bough) (s : State) : State :=
  let c := if s.bilB[b].sesOpen && s.ses[b].needsPricing then s.bilB[b].cost.toNat else s.ses[b].cost
  s.onSes b (fun e => { e with cost := c })

/-- What histograms 4b + 1 and 4b + 2 take of a session that reached CHARGING (R645). -/
def noteHistogram (b : Bough) (s : State) : State :=
  let wh : Int := (s.bilB[b].whImp + s.bilB[b].whExp : Nat) - (s.sesL[b].startWh : Int)
  s.onSesL b (fun l =>
    if l.charged then { l with charged := false, endWh := some wh, endSecs := some l.chargeSecs } else l)

/-- The intermediate reading that waits for the weld check is taken before anything follows it (R214, R253). -/
def lateReading (b : Bough) (s : State) : State :=
  if s.sesL[b].readOnWeld then signReading b 2 (s.onSesL b (fun l => { l with readOnWeld := false })) else s

/-- The SES_IDENT commands whose identifiers are displaced or discarded are answered by a refusing event 0x0303 (R220,
R234; its reason is log entry 180). -/
def discardIdents (b : Bough) (is : List Ident) (s : State) : State :=
  (is.filterMap (·.tag)).foldl (fun t g =>
    answer 0x0303 b.val g (leN 1 0 ++ leN 1 0 ++ [Config.authReason 9] ++ leN 1 0) t) s

/-- The end of a session: the end reading when it holds a begin reading, the final cost, debit and journal entry, event
0x0305 (R214, R225, R227). -/
def closeSession (b : Bough) (s : State) : State :=
  let s := lateReading b (reportCost b s)
  let s := if s.sesL[b].begun && !s.sesL[b].ended then
      let s := endReading b s
      let c := if s.ses[b].needsPricing then s.bilB[b].cost.toNat else 0
      (s.onSes b (fun e => { e with cost := c })).onSesL b (fun l => { l with ended := true })
    else s
  let s := noteHistogram b (debitSession b s)
  let s := match s.ses[b].slot with
    | some i => journalFor b i s
    | none => s
  let e := s.ses[b]
  let d := leN 4 e.num ++ leN 1 e.stopReason ++ leN 6 e.cost ++ leN 6 e.debited
  let s := match e.stopTag with
    | some t => answer 0x0305 b.val t d s
    | none => emit 0x0305 b.val d s
  let s := discardIdents b e.held s
  s.onSes b (fun e => { e with
    slot := none, held := [], grant := none, newGrant := none, cutTo := none, waitTag := none, stopTag := none })

/-- FINISHED with a stop reason set before. -/
def finishSession (b : Bough) (s : State) : State :=
  leaveNetwork b (closeSession b (goState b .finished s))

/-- IDLE: nothing of the session stays but what its registers report last. -/
def idleSession (b : Bough) (s : State) : State :=
  let s := goState b .idle s
  let s := s.onSes b (fun e => { num := e.num, stopReason := e.stopReason, cost := e.cost })
  let s := s.onSesL b (fun l => { hostCeil := l.hostCeil, ceilTimed := l.ceilTimed, held := l.held, reqCount := l.reqCount,
                                   endWh := l.endWh, endSecs := l.endSecs })
  let s := s.onPort b (fun p => { p with fallback := false })
  let s := s.onSaf b (fun f => { f with closeReq := false })
  withRequest b id (leaveNetwork b s)

/-- A session that has neither finished nor faulted ends without a begin reading (R215). -/
def endEarly (b : Bough) (reason : Nat) (s : State) : State :=
  idleSession b (closeSession b (s.onSes b (fun e => { e with stopReason := reason })))

/-- Coils are open and every weld check has passed. -/
def weldsPassed (s : State) (b : Bough) : Bool := s.saf[b].coils.all (fun c => !c.driven && !c.weldWait && !c.undet)

/-- The pilot stands at state A, in fault, or the bough is held: a finished session passes to IDLE (R214). -/
def mustIdle (s : State) (b : Bough) : Bool :=
  s.ports[b].state == .A || s.ports[b].state == .fault || heldOut s b

/-- STOPPING has its coils open and checked: FINISHED, and IDLE when the vehicle has gone (R214, R253). -/
def stopDone (b : Bough) (s : State) : State :=
  let s := finishSession b s
  if mustIdle s b then idleSession b s else s

/-- How the protocol in use tells the vehicle to stop: 1 StopCharging, 2 Terminate, 3 EVSE_Shutdown, 4 mode X1 (R216). -/
def stopNotice (s : State) (b : Bough) : Nat :=
  match s.ports[b].proto with
  | 2 => 1
  | 3 => 2
  | 1 => 3
  | _ => 4

/-- STOPPING with a reason (R214): step 1 of R216; with the coils already open it waits for the weld check alone
(R253). -/
def enterStopping (b : Bough) (reason : Nat) (s : State) : State :=
  let isOpen := !coilsClosed s b
  let notice := stopNotice s b
  let s := s.onSes b (fun e => { e with stopReason := reason })
  let s := s.onSesL b (fun l => { l with
    stopIssued := !isOpen, notify := if isOpen then l.notify else notice })
  let s := s.onSaf b (fun f => { f with closeReq := false })
  let s := goState b .stopping s
  if isOpen && weldsPassed s b then stopDone b s else s

/-- A stop cause of R215 other than 0x09 and 0x0A, for the states of R214 and R236. A core that has stopped moves none of
its boughs' sessions (R67). -/
def stopSession (b : Bough) (reason : Nat) (s : State) : State :=
  if !coreAlive s b then s
  else match s.ses[b].state with
  | .energising | .charging | .suspended => enterStopping b reason s
  | .connected | .authorising | .authorised =>
    finishSession b (s.onSes b (fun e => { e with stopReason := reason }))
  | _ => s

/-- A trip (0x09) or a weld (0x0A): FAULTED with the end reading (R214), unless the bough's core has stopped (R67). -/
def faultSession (b : Bough) (reason : Nat) (s : State) : State :=
  if !coreAlive s b then s
  else match s.ses[b].state with
  | .energising | .charging | .suspended | .stopping =>
    let s := s.onSes b (fun e => { e with stopReason := reason })
    let s := s.onSaf b (fun f => { f with closeReq := false, openReq := false })
    leaveNetwork b (closeSession b (goState b .faulted s))
  | _ => s

/-- State A confirmed (reason 0x02), pilot fault (0x12), cable gone (0x10) or the bough held: IDLE, a session that holds a
begin reading and no end reading closed first (R214, R253), unless the bough's core has stopped (R67). -/
def leaveSession (b : Bough) (reason : Nat) (s : State) : State :=
  if !coreAlive s b then s
  else match s.ses[b].state with
  | .idle => s
  | .finished | .faulted => idleSession b s
  | .stopping => s
  | .connected | .authorising | .authorised => endEarly b reason s
  | _ => if s.sesL[b].begun || coilsClosed s b then enterStopping b reason s else endEarly b reason s

/-- Plug-in: a new session with the next session number (R214, R245), unless the bough's core has stopped (R67). -/
def connect (b : Bough) (s : State) : State :=
  if !coreAlive s b then s else
  let n := (s.sesDev.counter + 1) % 2 ^ 32
  let s := { s with sesDev.counter := n, sesDev.begun := s.sesDev.begun + 1 }
  let s := s.onSes b (fun e => { num := n, stopReason := e.stopReason })
  let s := s.onSesL b (fun l => { hostCeil := l.hostCeil, ceilTimed := l.ceilTimed, held := l.held, reqCount := l.reqCount })
  let wh := s.bilB[b].whImp + s.bilB[b].whExp
  goState b .connected ((s.onSesL b (fun l => { l with startWh := wh, chargeSecs := 0 })).onMeas b (fun m => { m with warned := false }))

/-! ## Authorisation (R217 to R221) -/

/-- Event 0x0303: as the answer to each command tag given, or unsolicited. -/
def authResult (b : Bough) (accepted : Bool) (reason : Nat) (tags : List Nat) (s : State) : State :=
  let e := s.ses[b]
  let d := leN 1 (b2n accepted) ++ leN 1 (if accepted then e.authBy else 0) ++ [Config.authReason reason]
    ++ leN 1 (b2n e.noTime)
  match tags with
  | [] => emit 0x0303 b.val d s
  | ts => ts.foldl (fun t g => answer 0x0303 b.val g d t) s

/-- The command tags that wait for a decision on the identifier. -/
def identTags (i : Option Ident) : List Nat :=
  match i with
  | some x => x.tag.toList
  | none => []

/-- ENERGISING: a closing sequence requested of the safety block (R214). -/
def energise (b : Bough) (s : State) : State :=
  goState b .energising (s.onSaf b (fun f => { f with closeReq := true, reqMs := s.lat.ms }))

/-- An AC vehicle is ready: state C, or state D with VENT_OK = 1 (R214). -/
def acReady (s : State) (b : Bough) : Bool :=
  !isDC s b && (s.ports[b].state == .C || (s.ports[b].state == .D && bitOf (s.sesBoughCfg b) 30))

/-- The session's record lets it run on inside a friendly window (R228). -/
def friendlyFor (s : State) (b : Bough) : Bool :=
  match s.ses[b].slot with
  | some i => recFlag (slotRecord s i) 2 && friendlyNow s
  | none => false

/-- The session is authorised (R214): the rest of the held identifiers go (R220). -/
def acceptIdent (b : Bough) (authBy : Nat) (priced : Bool) (tags : List Nat) (s : State) : State :=
  let rest := s.ses[b].held
  let s := s.onSes b (fun e => { e with
    authBy := authBy, needsPricing := priced, held := [], waitTag := none, tookMs := s.lat.ms })
  let s := discardIdents b rest (authResult b true 0 (tags ++ identTags s.ses[b].current) s)
  let s := goState b .authorised s
  let a := available s b
  let f := friendlyFor s b
  let s := s.onSes b (fun e => { e with creditAtAuth := a, lowSent := false, inFriendly := f })
  if acReady s b then energise b s else s

/-- Bough c, that took a record in the same millisecond tick, yields it to the lower bough b (R249). -/
def yields (s : State) (b c : Bough) : Bool := decide (b.val < c.val) && s.ses[c].tookMs == s.lat.ms

/-- Step 3 of R218 and R219 for the record of slot i: AUTH_BY, grant and reason; reason 0 accepts. -/
def recordDecision (b : Bough) (i : Nat) (s : State) : Nat × Option Grant × Nat :=
  let r := slotRecord s i
  let credit := recBalance r + ecRoom s r (1000 * recEcUsed r)
  let busy := allBoughs.any (fun c => c != b && s.ses[c].slot == some i && !yields s b c)
  if recFlag r 6 then (0, none, 3)
  else if busy && !recFlag r 5 then (0, none, 4)
  else if !recRemote r then
    (if 0 < credit then (2, none, 0) else if recFlag r 2 && friendlyNow s then (2, none, 0) else (0, none, 5))
  else if recFlag r 4 && decide (0 < recBalance r) then
    (4, some { amount := min (recBalance r) (1000 * fld s.sesCreditCfg 15 0), expiry := 0, offline := true }, 0)
  else (0, none, 6)

/-- A refusal: event 0x0303, back to CONNECTED. -/
def refuseIdent (b : Bough) (reason : Nat) (tags : List Nat) (s : State) : State :=
  let s := authResult b false reason (tags ++ identTags s.ses[b].current) s
  let s := s.onSes b (fun e => { e with current := none, digest := [], identKind := 0, waitTag := none, noTime := false })
  goState b .connected s

/-- The higher boughs that took the record of slot i in this millisecond tick are refused as in use (R249). -/
def revokeOthers (b : Bough) (i : Nat) (s : State) : State :=
  forBoughs (fun c t =>
    if c ≠ b ∧ t.ses[c].slot = some i then
      let t := t.onSes c (fun e => { e with slot := none, grant := none, needsPricing := false, authBy := 0 })
      refuseIdent c 4 [] (t.onSaf c (fun f => { f with closeReq := false }))
    else t) s

/-- Steps 3 to 5 of R218. none: accepted; some reason: refused. -/
def decideLocal (b : Bough) (s : State) : Option Nat × State :=
  let e := s.ses[b]
  let (slot, s) := if e.current.isSome then lookup e.digest s else (none, s)
  match slot with
  | some i =>
    let (by_, g, reason) := recordDecision b i s
    if reason ≠ 0 then (some reason, s)
    else if !pricing s then (some 8, s)
    else
      let r := slotRecord s i
      let s := if recFlag r 5 then s else revokeOthers b i s
      let s := s.onSes b (fun e => { e with
        slot := some i, grant := g, remote := recRemote r, ecUsed := heldEc s i, debited := 0 })
      (none, acceptIdent b by_ true [] s)
  | none =>
    if bitOf (s.sesBoughCfg b) 31 then
      (none, acceptIdent b 3 false [] s)
    else (some 7, s)

/-- Event 0x0302 with a tag whose bit 15 is set (R218, R706). -/
def askHost (b : Bough) (s : State) : State :=
  let n := (s.sesDev.tagCount + 1) % 32768
  let tag := 32768 + n
  let s := { s with sesDev.tagCount := n }
  let s := s.onSes b (fun e => { e with waitTag := some tag, reqTag := some tag })
  let (k, bytes) := match s.ses[b].current with
    | some i => (i.kind, i.bytes)
    | none => (0, [])
  let d := leN 1 k ++ bytes
  postEvent 0x0302 b.val tag false d (recordEvent 0x0302 b.val 0 d s)

/-- HOST_WAIT step and the later steps for the identifier being decided (R218). -/
def decideAfterChain (b : Bough) (s : State) : Option Nat × State :=
  if bitOf s.sesAuthCfg 31 && s.ses[b].current.isSome then (none, askHost b s) else decideLocal b s

/-- The identifier is taken: AUTHORISING, step 1 of R218, then the later steps. none: decided or waiting. -/
def takeIdent (b : Bough) (i : Ident) (s : State) : Option Nat × State :=
  let contract := i.kind == 1
  let s := s.onSes b (fun e => { e with
    current := some i, digest := digestOf i.bytes, identKind := i.kind, noTime := contract && !s.timeKnown })
  let s := goState b .authorising s
  if contract && (!i.chainOk || (s.timeKnown && !i.inDate)) then (some 1, s) else decideAfterChain b s

/-- The held credential waits for the vehicle's payment option under PnC (R220). -/
def waitsForPayment (s : State) (b : Bough) (i : Ident) : Bool :=
  i.kind == 2 && decide (2 ≤ s.ports[b].proto) && !s.links[b].payKnown

/-- Identifiers tried in order of arrival until one is accepted or waits for the host (R220); n bounds the tries. -/
def tryHeld (b : Bough) : Nat → State → State
  | 0, s => s
  | n + 1, s =>
    if s.ses[b].state != .connected then s
    else match s.ses[b].held with
      | [] => s
      | i :: rest =>
        if waitsForPayment s b i then s
        else
          match takeIdent b i (s.onSes b (fun e => { e with held := rest })) with
          | (none, s) => s
          | (some reason, s) => tryHeld b n (refuseIdent b reason [] s)

/-- An identifier arrives: held in order of arrival, a fifth displacing the oldest, and taken when none is being
decided (R220). -/
def offerIdent (b : Bough) (i : Ident) (s : State) : State :=
  match s.ses[b].state with
  | .connected | .authorising =>
    let gone := s.ses[b].held.take (s.ses[b].held.length - 3)
    tryHeld b 5 (discardIdents b gone (s.onSes b (fun e => { e with held := e.held.drop gone.length ++ [i] })))
  | _ => s

/-- The decision of the identifier refused: the next held one is taken (R219, R220). -/
def refuseAndNext (b : Bough) (reason : Nat) (tags : List Nat) (s : State) : State :=
  tryHeld b 5 (refuseIdent b reason tags s)

/-- The steps after an unanswered request (R218). -/
def decideSilence (b : Bough) (s : State) : State :=
  match decideLocal b (s.onSes b (fun e => { e with waitTag := none })) with
  | (none, s) => s
  | (some reason, s) => refuseAndNext b reason [] s

/-- Free vend with no identifier, at CONNECTED (R218). -/
def freeVendNow (b : Bough) (s : State) : State :=
  if s.ses[b].state == .connected && bitOf (s.sesBoughCfg b) 31 && s.ses[b].held.isEmpty then
    acceptIdent b 3 false [] (goState b .authorising s)
  else s

end Sys2Proof.Machine
end

