-- ==== Sys2Proof/Machine/SafCore.lean ====
section
/-! DEFINITION. The safety block's shared operations: contact senses (R258), openings (R262), trips (R278), weld checks
(R263), the power die's fail-safe (R277) and what the session engine does at each. -/

namespace Sys2Proof.Machine

/-! ## Contact senses -/

/-- The channel that senses coil k's contact: 19 for coil 0, 20 for coil 1 or, with PRECHG, for coil 2 (R258). -/
def senseValue (s : State) (b : Bough) (k : Fin 3) : Option Int :=
  let pre := bitOf (s.safBoughCfg b) 30
  match k.val with
  | 0 => some s.saf[b].side.ch19
  | 1 => if pre then none else some s.saf[b].side.ch20
  | _ => if pre then some s.saf[b].side.ch20 else none

/-- The RMS of channel 0 is at least 20 % of its full-scale range, on counts (R258, R745); over the last 488 samples (log
entry 176). -/
def phaseLive (s : State) (b : Bough) : Bool :=
  let h := s.meas[b].ch0Hist
  !h.isEmpty && decide (h.length * 2 ^ 46 ≤ 25 * (h.map (fun x => x.natAbs * x.natAbs)).sum)

/-- A sense is valid (R258). -/
def senseValid (s : State) (b : Bough) : Bool :=
  bitOf (s.safBoughCfg b) 29 || (if isDC s b then decide (50000000 ≤ s.saf[b].side.ch10) else phaseLive s b)

/-- The channel of coil k's sense delivers the substitute of R327: the sense is not valid. -/
def senseFails (s : State) (b : Bough) (k : Fin 3) : Bool := s.saf[b].side.fail.getLsbD (if k = 0 then 19 else 20)

/-- What coil k's sense reads: none without a sense or while it is not valid; some true closed. -/
def senseReads (s : State) (b : Bough) (k : Fin 3) : Option Bool :=
  match senseValue s b k with
  | none => none
  | some v =>
    if senseValid s b && !senseFails s b k then some (decide ((fld (s.safSenseCfg b) 25 16 : Int) * 2 ^ 23 < 1000 * v))
    else none

def allCoils : List (Fin 3) := [0, 1, 2]

/-- REQ names coil k. -/
def required (s : State) (b : Bough) (k : Fin 3) : Bool := (s.safBoughCfg b).getLsbD (24 + k.val)

/-- CLOSED of SAF_STAT: valid senses that read closed. -/
def closedMask (s : State) (b : Bough) : Nat :=
  allCoils.foldl (fun m k => if senseReads s b k = some true then m ||| (1 <<< k.val) else m) 0

/-- One coil changed. -/
def onCoil (b : Bough) (k : Fin 3) (f : Coil → Coil) (s : State) : State :=
  s.onSaf b (fun x => { x with coils := modAt x.coils k f })

/-- Coil k driven: its pull-in begins (R256). -/
def drive (b : Bough) (k : Fin 3) (s : State) : State :=
  onCoil b k (fun c => { c with driven := true, holding := false, sinceMs := s.lat.ms }) s

/-- Duty in % of a switch of coil k, side 0 high and 1 low (R256): both conduct fully in pull-in; in hold the low side
chops with HOLD_DUTY; a coil that is off conducts nothing. -/
def switchDuty (s : State) (b : Bough) (k : Fin 3) (side : Fin 2) : Nat :=
  let c := s.saf[b].coils[k]
  if !c.driven then 0 else if c.holding && side == 1 then fld (s.safCoilCfg b) 23 16 else 100

/-- A driven coil passes from pull-in to hold after PULLIN ms (R256). -/
def holdCoils (b : Bough) (s : State) : State :=
  s.onSaf b (fun f => { f with coils := f.coils.map (fun c =>
    if c.driven && !c.holding && decide (c.sinceMs + fld (s.safCoilCfg b) 31 24 ≤ s.lat.ms) then { c with holding := true }
    else c) })

/-- Coil k released: its weld check follows 60 ms later (R263). -/
def release (b : Bough) (k : Fin 3) (s : State) : State :=
  onCoil b k (fun c => if c.driven then { c with driven := false, holding := false, weldWait := true } else c) s

/-! ## Openings -/

/-- Every coil of the bough released at once, with the cause of LAST_CAUSE; event 0x0402 when a coil was driven (R262,
R288). -/
def openNow (b : Bough) (cause : Nat) (s : State) : State :=
  let was := coilsClosed s b
  let s := allCoils.foldl (fun t k => release b k t) s
  let s := s.onSaf b (fun f => { f with
    closing := .none, opening := false, openReq := false, lastCause := if was then cause else f.lastCause })
  if was then emit 0x0402 b.val (leN 1 cause) s else s

/-- Step of R260 or R261 that a closing sequence has not yet reached: step 2 after the request (DEDUCED, log entry 177).
-/
def closingStep (c : Closing) : Nat :=
  match c with
  | .none => 2 | .acFirst => 3 | .dcFirst => 3 | .acConfirm => 4 | .dcLink => 4 | .dcMain => 5 | .dcRelease => 6 | .dcInsulation => 7 | .dcPrecharge => 8

/-- A closing sequence abandoned: event 0x0407 with its step and the cause (R294). -/
def abandonClosing (b : Bough) (cause : Nat) (s : State) : State :=
  if s.saf[b].closing == .none && !s.saf[b].closeReq then s
  else
    let s := emit 0x0407 b.val (leN 1 (closingStep s.saf[b].closing) ++ leN 1 cause) s
    let s := s.onSaf b (fun f => { f with closing := .none, closeReq := false })
    withRequest b (fun t => t.onSesL b (fun l => { l with cableCheck := false, preCharge := false })) s

/-- Trip codes that latch (R278). -/
def latches (code : Nat) : Bool := [3, 4, 5, 6, 7, 8, 9, 12, 13, 14, 15, 19].contains code

/-- FAULT of SAF_STAT: the lowest latched code (R295). -/
def faultCode (s : State) (b : Bough) : Nat := s.saf[b].latched.foldl (fun m c => if m = 0 ∨ c < m then c else m) 0

/-- This station and the list of the membership record that may use the priority window (R504, R512). -/
def ownStation (s : State) : Nat := leAt (s.canopy.record.getD []) 4 1
def stationListed (s : State) (station : Nat) : Bool :=
  match s.canopy.record with
  | some r => (bytesAt r 132 8).contains (BitVec.ofNat 8 station) && station != 255
  | none => false

/-- A listed station that is joined broadcasts a trip frame in three windows (R518). -/
def dueTripFrame (mask code : Nat) (s : State) : State :=
  if (s.canopy.role == 2 || s.canopy.role == 3) && stationListed s (ownStation s) then
    let f := leN 1 (ownStation s) ++ leN 1 mask ++ leN 1 code ++ leN 1 0 ++ leN 4 s.canopy.turn.toNat
    { s with canopy.tripDue := s.canopy.tripDue ++ [(f, 3)] }
  else s

/-- A trip of bough b: the sequence abandoned, event 0x0403 with its code and measured value, the latch, the opening, and
the session (R278, R294, R295, R214). -/
def trip (b : Bough) (code : Nat) (value : Int) (s : State) : State :=
  let s := abandonClosing b (code + 0x20) s
  let s := dueTripFrame (1 <<< b.val) code (emit 0x0403 b.val (leN 1 code ++ leI 4 value) s)
  let s := if latches code then s.onSaf b (fun f => { f with
      latched := if f.latched.contains code then f.latched else f.latched ++ [code],
      seenA := f.seenA.filter (· != code),
      coils := if code = 12 ∨ code = 13 then f.coils.map (fun c => { c with hiPassed := false, loPassed := false })
        else f.coils }) else s
  let s := openNow b (code + 0x20) s
  auxAll (faultSession b (if code = 14 then 0x0A else 0x09) s)

/-- A trip of the whole device: one event 0x0403 with BOUGH 0xFF, every coil open (R273, R278). -/
def tripAll (code : Nat) (s : State) : State :=
  let s := forBoughs (fun b t => abandonClosing b (code + 0x20) t) s
  let s := dueTripFrame 255 code (emit 0x0403 255 (leN 1 code ++ leN 4 0) s)
  forBoughs (fun b t => faultSession b 0x09 (openNow b (code + 0x20) t)) s

/-- An opening that the session engine requests (R216, R262), unless the coils are open already. -/
def requestOpening (b : Bough) (s : State) : State :=
  if coilsClosed s b then s.onSaf b (fun f => { f with openReq := true }) else s

/-! ## Weld checks (R263) -/

/-- The report "opened and weld check passed" reaches the session engine (R214, R253). -/
def weldReport (b : Bough) (s : State) : State :=
  if !weldsPassed s b then s
  else
    let s := lateReading b s
    if s.ses[b].state = .stopping then stopDone b s else s

/-- The result of a weld check of coil k by its sense; a coil without a contact sense passes (DEDUCED, log entry 27). -/
def weldResult (b : Bough) (k : Fin 3) (s : State) : State :=
  if (senseValue s b k).isNone then weldReport b (onCoil b k (fun c => { c with weldWait := false, undet := false }) s)
  else match senseReads s b k with
    | some false => weldReport b (onCoil b k (fun c => { c with weldWait := false, undet := false }) s)
    | some true =>
      let s := onCoil b k (fun c => { c with weldWait := false, undet := false, welded := true }) s
      let v := (senseValue s b k).getD 0
      trip b 14 v (emit 0x0404 b.val (leN 1 k.val ++ leI 4 v) s)
    | none => emit 0x040D b.val (leN 1 k.val) (onCoil b k (fun c => { c with weldWait := false, undet := true }) s)

/-! ## Fail-safe of the power die (R277) -/

/-- FS_CAUSE of a cause (R290). -/
def fsNo (c : FsCause) : Nat :=
  match c with
  | .wdog => 1 | .estop => 2 | .vpwr => 3 | .thermal => 4 | .link => 5

/-- A fail-safe cause begins: every coil off, the load channels in their stored states, every CPOUT in mode F, event
0x040A on entry. code is the trip code of the cause, 0 for link frames. -/
def fsEnter (c : FsCause) (code : Nat) (s : State) : State :=
  if s.safDev.fsCauses.contains c then s
  else
    let first := s.safDev.fsCauses.isEmpty
    let s := { s with safDev.fsCauses := s.safDev.fsCauses ++ [c], safDev.fsReport := fsNo c }
    let s := if first then emit 0x040A 255 (leN 1 (fsNo c) ++ leN 1 1) s else s
    let s := if code = 0 then
        forBoughs (fun b t => faultSession b 0x09 (openNow b Config.linkCause.toNat (abandonClosing b Config.linkCause.toNat t))) s
      else tripAll code s
    auxAll (driveAll s)

/-- A fail-safe cause ends; the fail-safe persists while another remains (R277). -/
def fsLeave (c : FsCause) (s : State) : State :=
  if !s.safDev.fsCauses.contains c then s
  else
    let rest := s.safDev.fsCauses.filter (· != c)
    let s := { s with safDev.fsCauses := rest, safDev.fsReport := match rest.getLast? with | some x => fsNo x | none => 0 }
    if rest.isEmpty then
      let s := { s with aux := s.aux.map (fun a => { a with fsFault := false, on := false }) }
      auxAll (driveAll (emit 0x040A 255 (leN 1 (fsNo c) ++ leN 1 0) s))
    else s

/-- Latched codes that a state A clears: 9 and 15 always, 3 to 8 with AUTO_CLEAR (R278, R287). -/
def clearAtA (b : Bough) (s : State) : State :=
  let auto := bitOf s.safDevCfg 31
  auxAll (s.onSaf b (fun f => { f with
    seenA := f.latched,
    latched := f.latched.filter (fun c => !(c == 9 || c == 15 || (auto && decide (3 ≤ c ∧ c ≤ 8)))) }))

/-- A bough held out of service: the pilot goes to mode F; a session passes to IDLE, closed first where it holds a begin
reading (R214, R288). r names the reason byte (log entry 25). -/
def holdSession (b : Bough) (r : Nat) (s : State) : State :=
  driveOutput b (leaveSession b (Config.holdReason r).toNat s)

end Sys2Proof.Machine
end

