-- ==== Sys2Proof/Machine/Contactors.lean ====
section
/-! DEFINITION. The commands of the contactors and of earth-fault supervision (R254 to R303). -/

namespace Sys2Proof.Machine

/-! ## Closing sequences (R259 to R261) -/

/-- The preconditions of R259. -/
def mayClose (s : State) (b : Bough) : Bool :=
  !heldOut s b && s.saf[b].latched.isEmpty && !s.safDev.stop
    && (s.ports[b].state == .C || s.ports[b].state == .D) && s.safDev.fsCauses.isEmpty
    && allCoils.all (fun k => !required s b k || senseReads s b k != some true)
    && s.saf[b].coils.all (fun c => !c.undet)
    && decide (500000 * (fld (s.safSenseCfg b) 7 0 : Int) ≤ s.saf[b].side.ch21)
    && !(isDC s b && bitOf (s.safBoughCfg b) 27 && s.meas[b].imd == 3)

/-- The coils of a list that REQ names driven. -/
def driveRequired (b : Bough) (ks : List (Fin 3)) (s : State) : State :=
  ks.foldl (fun t k => if required t b k then drive b k t else t) s

/-- Step 2 of a closing sequence: coil 1 driven (R260, R261). -/
def beginClosing (b : Bough) (c : Closing) (s : State) : State :=
  driveRequired b [1] (s.onSaf b (fun f => { f with closing := c, closeReq := false }))

/-- Step 3, 20 ms later: the coils that follow coil 1. -/
def followClosing (b : Bough) (ks : List (Fin 3)) (c : Closing) (s : State) : State :=
  driveRequired b ks (s.onSaf b (fun f => { f with closing := c }))

/-- The session enters CHARGING: the begin reading on the first time (R214, R412). -/
def enterCharging (b : Bough) (s : State) : State :=
  if s.ses[b].state != .energising || !coreAlive s b then s
  else
    let s := goState b .charging s
    if s.sesL[b].begun then s
    else
      let s := beginReading b (s.onSesL b (fun l => { l with begun := true, charged := true }))
      reportCost b s

/-- The report "coils closed": event 0x0401 with CLOSED and the time from the request (R260, R261). -/
def reportClosed (b : Bough) (s : State) : State :=
  let s := s.onSaf b (fun f => { f with closing := .none })
  let s := withRequest b (fun t => t.onSesL b (fun l => { l with cableCheck := false, preCharge := false })) s
  let s := emit 0x0401 b.val (leN 1 (closedMask s b) ++ leN 4 (s.lat.ms - s.saf[b].reqMs)) s
  enterCharging b s

/-- CLOSING_SEQUENCE (R259, R260): an AC closing sequence that the session engine requested, step 2 and then step 3. -/
def execClosingSequence (b : Bough) (k : AcStep) (s : State) : Res :=
  match k with
  | .begin =>
    if !s.saf[b].closeReq || isDC s b || s.saf[b].closing != .none then .next s
    else if mayClose s b then .next (beginClosing b .acFirst s)
    else .next (trip b 20 0 (s.onSaf b (fun f => { f with closeReq := false })))
  | .second =>
    if s.saf[b].closing == .acFirst && !isDC s b then .next (followClosing b [0, 2] .acConfirm s) else .next s

/-- Channel 8 is within the larger of 10 V and PRE_TOL × channel 10 of channel 10 (R261 step 4). -/
def linkNear (s : State) (b : Bough) : Bool :=
  let v := s.saf[b].side
  decide (1000 * (v.ch8 - v.ch10).natAbs ≤ max 10000000000 (fld (s.safSenseCfg b) 15 8 * v.ch10.natAbs))

/-- Step 5 done: coil 2 released (R261 step 6). -/
def mainClosed (b : Bough) (s : State) : State :=
  if s.saf[b].closing == .dcMain && senseReads s b 0 == some true then
    release b 2 (s.onSaf b (fun f => { f with closing := .dcRelease }))
  else s

/-- Step 7 begins: the cable-check flag is set, and the result must be one that comes from now on. -/
def beginInsulation (b : Bough) (s : State) : State :=
  let s := (s.onSaf b (fun f => { f with closing := .dcInsulation, isolation := 0 })).onMeas b (fun m => { m with check := 0 })
  withRequest b (fun t => t.onSesL b (fun l => { l with cableCheck := true })) s

/-- Step 6, 60 ms after the release of coil 2 (R261, R747). -/
def preReleased (b : Bough) (s : State) : State :=
  if s.saf[b].closing != .dcRelease then s
  else match senseReads s b 2 with
    | some false => beginInsulation b (onCoil b 2 (fun c => { c with weldWait := false }) s)
    | some true =>
      let v := (senseValue s b 2).getD 0
      trip b 14 v (emit 0x0404 b.val (leN 1 2 ++ leI 4 v) (onCoil b 2 (fun c => { c with weldWait := false, welded := true }) s))
    | none =>
      trip b 20 0 (emit 0x040D b.val (leN 1 2) (onCoil b 2 (fun c => { c with weldWait := false, undet := true }) s))

/-- The isolation status that the protocol carries: DIN SPEC 70121 has no No_IMD and sends Valid (R747). -/
def isolationStatus (s : State) (b : Bough) (r : Nat) : Nat := if r = 4 ∧ s.ports[b].proto = 1 then 1 else r

/-- The result of step 7 reaches the session engine, which carries it to the vehicle as the isolation status (R747). -/
def reportIsolation (b : Bough) (r : Nat) (s : State) : State :=
  let st := isolationStatus s b r
  (s.onSaf b (fun f => { f with isolation := r })).onLink b (fun l => { l with reply := some (.isolation st) })

/-- Step 7: channel 8 has reached 0.9 × VOLT and the insulation check has a result, or there is none to make (R747). -/
def insulationDone (b : Bough) (s : State) : State :=
  let reached := decide (9 * 1000 * s.sesL[b].targetV ≤ 10 * s.saf[b].side.ch8)
  let r := if bitOf (s.safBoughCfg b) 27 then s.meas[b].check else 4
  if s.saf[b].closing != .dcInsulation || !reached || r == 0 then s
  else if r = 3 then trip b 8 s.meas[b].riso (reportIsolation b 3 s)
  else
    let s := (reportIsolation b r s).onSaf b (fun f => { f with closing := .dcPrecharge })
    withRequest b (fun t => t.onSesL b (fun l => { l with cableCheck := false, preCharge := true })) s

/-- DC_CLOSING_SEQUENCE (R261): the step that has come. With PRECHG = 0 coils 1 and 0 close as in R260. -/
def execDcClosingSequence (b : Bough) (k : DcStep) (s : State) : Res :=
  match k with
  | .begin =>
    if !s.saf[b].closeReq || !isDC s b || s.saf[b].closing != .none then .next s
    else if !mayClose s b then .next (trip b 20 0 (s.onSaf b (fun f => { f with closeReq := false })))
    else .next (beginClosing b .dcFirst s)
  | .second =>
    if s.saf[b].closing != .dcFirst then .next s
    else if bitOf (s.safBoughCfg b) 30 then .next (followClosing b [2] .dcLink s)
    else .next (followClosing b [0] .acConfirm s)
  | .linkReached =>
    if s.saf[b].closing == .dcLink && linkNear s b then
      .next (driveRequired b [0] (s.onSaf b (fun f => { f with closing := .dcMain })))
    else .next s
  | .mainClosed => .next (mainClosed b s)
  | .preReleased => .next (preReleased b s)
  | .insulation => .next (insulationDone b s)

/-- Every valid sense of a required coil reads closed (R260 step 4). -/
def contactsClosed (s : State) (b : Bough) : Bool :=
  allCoils.all (fun k => !required s b k || senseReads s b k != some false)

/-- CONTACT_CONFIRMED (R260 step 5, R261 step 5). -/
def execContactConfirmed (b : Bough) (s : State) : Res :=
  match s.saf[b].closing with
  | .acConfirm =>
    if !contactsClosed s b then .next s
    else if isDC s b then .next (beginInsulation b s) else .next (reportClosed b s)
  | .dcMain => .next (mainClosed b s)
  | _ => .next s

/-- CLOSING_CONFIRM_TIMEOUT (R260, R261): steps 4 and 5 not reached in time. -/
def execClosingConfirmTimeout (b : Bough) (s : State) : Res :=
  match s.saf[b].closing with
  | .acConfirm | .dcLink | .dcMain => .next (trip b 15 0 s)
  | _ => .next s

/-- PRECHARGE_COMPLETE (R261 steps 8 and 9): channel 8 has been within PRE_TOL × VOLT of VOLT for 100 ms. -/
def execPrechargeComplete (b : Bough) (s : State) : Res :=
  let volt := 1000 * s.sesL[b].targetV
  if s.saf[b].closing == .dcPrecharge
      && decide (1000 * (s.saf[b].side.ch8 - volt).natAbs ≤ fld (s.safSenseCfg b) 15 8 * volt.natAbs) then
    .next (reportClosed b s)
  else .next s

/-! ## Openings and weld checks (R262, R263) -/

/-- ORDINARY_OPENING (R262): coils 0 and 2 released on the session engine's request; a closing sequence ends. -/
def execOrdinaryOpening (b : Bough) (s : State) : Res :=
  if !s.saf[b].openReq then .next s
  else
    let s := abandonClosing b 0 s
    let s := release b 2 (release b 0 s)
    .next (emit 0x0402 b.val (leN 1 0) (s.onSaf b (fun f => { f with openReq := false, opening := true, lastCause := 0 })))

/-- SECOND_RELEASE (R262): coil 1, 20 ms later. -/
def execSecondRelease (b : Bough) (s : State) : Res :=
  if s.saf[b].opening then .next (release b 1 (s.onSaf b (fun f => { f with opening := false }))) else .next s

/-- WELD_CHECK (R263): 60 ms after the release of coil k; of coil 2 in step 6 of a DC closing it is that step's (R747). -/
def execWeldCheck (b : Bough) (k : Fin 3) (s : State) : Res :=
  if k = 2 && s.saf[b].closing == .dcRelease then .next (preReleased b s)
  else if s.saf[b].coils[k].weldWait then .next (weldResult b k s) else .next s

/-- WELD_RECHECK (R263): an undetermined check repeats when the sense becomes valid. -/
def execWeldRecheck (b : Bough) (k : Fin 3) (s : State) : Res :=
  if s.saf[b].coils[k].undet && (senseReads s b k).isSome then .next (weldResult b k s) else .next s

/-! ## Switch tests (R264 to R266) and coil faults (R257) -/

/-- A failed test: counted, event 0x0405, trip (R266). f is the failure. -/
def testFailed (b : Bough) (k : Fin 3) (side f code : Nat) (s : State) : State :=
  let s := s.onSaf b (fun x => { x with testsFailed := min 255 (x.testsFailed + 1) })
  let s := emit 0x0405 b.val (leN 1 k.val ++ leN 1 side ++ [Config.testFailure f]) s
  trip b code 0 s

/-- Bough and coil of switch i = 6b + 2k + s (R264). -/
def switchBough (i : Fin 48) : Bough := ⟨i.val / 6, by omega⟩
def switchCoil (i : Fin 48) : Fin 3 := ⟨i.val / 2 % 3, by omega⟩

/-- SWITCH_TEST_SLOT (R264, R266, R293). -/
def execSwitchTestSlot (slot : Fin 48) (r : TestResult) (s : State) : Res :=
  let b := switchBough slot
  let k := switchCoil slot
  let side := slot.val % 2
  let again := s.safDev.skipped.contains slot.val
  let s := if again then { s with safDev.skipped := s.safDev.skipped.erase slot.val } else { s with safDev.slot := slot.val }
  match r with
  | .pass => .next (onCoil b k (fun c => if side = 0 then { c with hiPassed := true } else { c with loPassed := true }) s)
  | .notOff => .next (testFailed b k side 0 12 s)
  | .notRestored => .next (testFailed b k side 1 13 s)
  | .noMove => .next (testFailed b k side 2 13 s)
  | .partnerStuck => .next (testFailed b k (1 - side) 0 12 s)
  | .near => .next { s with safDev.skipped := s.safDev.skipped ++ [slot.val] }
  | .discarded => .next s

/-- Consecutive checks with the output of switch i at the on level (R265). -/
def stuckRun (s : State) (i : Fin 48) : Nat :=
  let c := s.saf[switchBough i].coils[switchCoil i]
  if i.val % 2 = 0 then c.hiStuck else c.loStuck

/-- The run of switch i put in its place. -/
def setStuckRun (i : Fin 48) (n : Nat) (s : State) : State :=
  onCoil (switchBough i) (switchCoil i) (fun c => if i.val % 2 = 0 then { c with hiStuck := n } else { c with loStuck := n }) s

/-- One check of switch i: ten consecutive on-level checks of an off switch of an open coil declare it stuck on. -/
def stuckCheck (on : BitVec 48) (i : Fin 48) (s : State) : State :=
  if s.saf[switchBough i].coils[switchCoil i].driven || !on.getLsbD i.val then setStuckRun i 0 s
  else
    let n := min 10 (stuckRun s i + 1)
    let was := stuckRun s i
    let s := setStuckRun i n s
    if n = 10 ∧ was < 10 then testFailed (switchBough i) (switchCoil i) (i.val % 2) 0 12 s else s

/-- STUCK_ON_CHECK (R265, R266): one check of all switches, the mask names the outputs at the on level. -/
def execStuckOnCheck (on : BitVec 48) (s : State) : Res :=
  .next ((List.finRange 48).foldl (fun t i => stuckCheck on i t) s)

/-- COIL_CURRENT_LIMIT (R257): a switch that conducts, of a driven coil or in an on-pulse test, stayed in its current
limit for more than 50 µs; the power die turns off both switches of the coil. -/
def execCoilCurrentLimit (b : Bough) (_k : Fin 3) (s : State) : Res := .next (trip b 19 0 s)

/-- COIL_OPEN_DETECT (R257): the current of a driven coil stayed below 20 mA for 10 ms. -/
def execCoilOpenDetect (b : Bough) (k : Fin 3) (s : State) : Res :=
  if s.saf[b].coils[k].driven then .next (trip b 19 0 s) else .next s

/-- COIL_SUPPLY_LOW (R278 code 16): channel 21 below COIL_MIN for 50 ms while coils are held. -/
def execCoilSupplyLow (b : Bough) (s : State) : Res :=
  if coilsClosed s b then .next (trip b 16 s.saf[b].side.ch21 s) else .next s

/-! ## Emergency stop (R267, R268) -/

/-- Event 0x0409. -/
def stopEvent (s : State) : State :=
  emit 0x0409 255 (leN 1 (b2n s.safDev.stop) ++ leN 1 (b2n s.safDev.estopA) ++ leN 1 (b2n s.safDev.estopB)
    ++ leN 1 (b2n s.safDev.disc)) s

/-- A voltage on ESTOPAN or ESTOPBN is taken as high above 7.0 V only (R99). -/
def estopHigh (mv : Nat) : Bool := decide (7000 < mv)

/-- EMERGENCY_STOP (R267): the inputs' voltages, in mV, that have passed the filter; a stop becomes active when either is
low. -/
def execEmergencyStop (mvA mvB : Nat) (s : State) : Res :=
  let lowA := !estopHigh mvA
  let lowB := !estopHigh mvB
  let s := { s with safDev.estopA := !lowA, safDev.estopB := !lowB,
                    safDev.discLow := s.safDev.discLow || (s.safDev.disc && lowA && lowB) }
  if (lowA || lowB) && !s.safDev.stop then .next (fsEnter .estop 1 (stopEvent { s with safDev.stop := true }))
  else .next s

/-- EMERGENCY_STOP_RELEASE (R268): both inputs have been high for 1.0 s; a discrepancy holds the stop until both have been
low together. -/
def execEmergencyStopRelease (s : State) : Res :=
  let s := { s with safDev.estopA := true, safDev.estopB := true }
  if s.safDev.disc && !s.safDev.discLow then .next s
  else if s.safDev.stop then
    .next (driveAll (fsLeave .estop (stopEvent { s with safDev.stop := false, safDev.disc := false, safDev.discLow := false })))
  else .next s

/-- ESTOP_DISCREPANCY (R268): the inputs have disagreed for longer than ESTOP_DISC. -/
def execEstopDiscrepancy (s : State) : Res :=
  if s.safDev.estopA == s.safDev.estopB || s.safDev.disc then .next s
  else .next (tripAll 2 { s with safDev.disc := true, safDev.discLow := false })

/-! ## Residual current, overvoltage, insulation (R269 to R273) -/

/-- The newest n samples of channel 7, when there are so many. -/
def window (s : State) (b : Bough) (n : Nat) : Option (List Int) :=
  let h := s.meas[b].hist.take n
  if h.length = n then some h else none

/-- A DC mean of the newest n samples reaches a threshold in µA, by magnitude (R269). -/
def dcReaches (s : State) (b : Bough) (n thr : Nat) : Option Int :=
  match window s b n with
  | some h => if n * thr ≤ h.sum.natAbs then some (quot h.sum n) else none
  | none => none

/-- n² times the mean square of (sample − DC mean) over 488 samples. -/
def acSquare (h : List Int) : Nat := (488 * (h.map (fun x => x * x)).sum - h.sum * h.sum).toNat

/-- The AC value reaches AC_THR over the last 488 samples (R269). -/
def acReaches (s : State) (b : Bough) : Bool :=
  match window s b 488 with
  | some h => decide ((488 * 1000 * fld (s.safBoughCfg b) 8 0) ^ 2 ≤ acSquare h)
  | none => false

/-- The registers of R289 from the window of samples. -/
def measureResidual (b : Bough) (s : State) : State :=
  let ac := match window s b 488 with
    | some h => min 1023 (rms (acSquare h) (488 * 488 * 1000000))
    | none => s.meas[b].acMa
  let dc := match window s b 2441 with
    | some h => clampI (-2047) 2047 (quot h.sum 2441000)
    | none => s.meas[b].dcMa
  s.onMeas b (fun m => { m with acMa := ac, dcMa := dc })

/-- The channels of the side path with their samples (R25). -/
def sideList (v : SideSample) : List (Nat × RawSample) :=
  [(7, v.ch7), (8, v.ch8), (11, v.ch11), (12, v.ch12), (13, v.ch13), (14, v.ch14), (19, v.ch19), (20, v.ch20), (21, v.ch21)]

/-- The S sample y of channel n and its OVR: OFFSET and GAIN without DELAY, saturated in an overload run (R308, R312,
R746); the reserve's sample has its correction (R325). -/
def sideY (s : State) (b : Bough) (n : Nat) (r : RawSample) : Int × Bool :=
  let m := s.mtr[b]
  let c := getN m.ch n {}
  if r.beyond then (overloadValue c.ovrRunS c.ovrNegS r, true)
  else trimmed s b n (if m.served = n then fitted m r.x else r.x)

/-- y in the unit of the channel (R312). -/
def inUnit (s : State) (b : Bough) (n : Nat) (y : Int) : Int := quot (y * (s.mtrFs (24 * b.val + n)).toNat) (2 ^ 23)

/-- The channels of a list as a mask. -/
def chBits (ns : List Nat) : BitVec 24 := BitVec.ofNat 24 (ns.foldl (fun m n => m ||| (1 <<< n)) 0)

/-- What the chains of the S path keep of a sample: the overload run, and the samples that still carry SET. -/
def keepSide (v : SideSample) (m : Mtr) : Mtr :=
  { m with ch := (sideList v).foldl (fun ch p =>
      modN ch p.1 (fun c => { c with
        ovrNegS := keepNeg c.ovrRunS c.ovrNegS p.2, ovrRunS := p.2.beyond, settleS := c.settleS - 1 })) m.ch }

/-- The quantities of an S sample taken by the safety block (R25, R329); a channel with FAIL delivers its substitute:
full scale on 7 and 8, 0 V on 13 and 21 (R327). -/
def takeSide (b : Bough) (v : SideSample) (s : State) : State :=
  let fail := chFailMask s.mtr[b]
  let y := fun (n : Nat) (r : RawSample) => (sideY s b n r).1
  let unit := fun (n : Nat) (r : RawSample) (sub : Option Int) =>
    if fail.getLsbD n then sub.getD (inUnit s b n (y n r)) else inUnit s b n (y n r)
  let full := fun (n : Nat) => some ((s.mtrFs (24 * b.val + n)).toNat : Int)
  let ch7 := unit 7 v.ch7 (full 7)
  let ch11 := unit 11 v.ch11 none
  let ch12 := unit 12 v.ch12 none
  let ovr := chBits (((sideList v).filter (fun p => (sideY s b p.1 p.2).2)).map (·.1))
  let set := chBits (((sideList v).filter (fun p => decide (0 < (getN s.mtr[b].ch p.1 {}).settleS))).map (·.1))
  let s := s.onSaf b (fun f => { f with side := {
    ch7 := ch7, ch8 := unit 8 v.ch8 (full 8), ch10 := f.side.ch10, ch11 := ch11, ch12 := ch12, ch13 := unit 13 v.ch13 (some 0),
    ch14 := unit 14 v.ch14 none, ch19 := y 19 v.ch19, ch20 := y 20 v.ch20, ch21 := unit 21 v.ch21 (some 0), ovr := ovr,
    set := set, fail := fail } })
  (s.onMtr b (keepSide v)).onMeas b (fun m => { m with
    hist := (ch7 :: m.hist).take 2441, vpHist := (ch11 :: m.vpHist).take 1220, vnHist := (ch12 :: m.vnHist).take 1220 })

/-- Channel 7 against AC_THR at every sample: codes 4 and 3, until their latch stands (R269, R295; log entry 178). -/
def residualTrips (b : Bough) (s : State) : State :=
  let x := s.saf[b].side.ch7
  let thr := 1000 * fld (s.safBoughCfg b) 8 0
  let run := if 5 * thr ≤ x.natAbs then min 8 (s.meas[b].fastRun + 1) else 0
  let s := s.onMeas b (fun m => { m with fastRun := run })
  let s := if run = 8 && !s.saf[b].latched.contains 4 then trip b 4 x s else s
  if acReaches s b && !s.saf[b].latched.contains 3 then trip b 3 s.meas[b].acMa s else s

/-- Channel 8 above OVP_V for three samples: code 9 (R273, R283). -/
def overvoltage (b : Bough) (s : State) : State :=
  let v := s.saf[b].side.ch8
  let lim := 1000000 * fld (s.safDcCfg b) 15 0
  let run := if isDC s b && decide ((lim : Int) < v) then min 3 (s.meas[b].ovpRun + 1) else 0
  let s := s.onMeas b (fun m => { m with ovpRun := run })
  if run = 3 && !s.saf[b].latched.contains 9 then trip b 9 v s else s

/-- SIDE_PATH_SAMPLE (R329, R269, R273). -/
def execSidePathSample (b : Bough) (v : SideSample) (s : State) : Res :=
  .next (overvoltage b (residualTrips b (measureResidual b (takeSide b v s))))

/-- DC_RESIDUAL_PERSISTENCE (R269): a DC mean has stood at its threshold for its persistence; only with DC_RCM = 1. -/
def execDcResidualPersistence (b : Bough) (w : DcWindow) (s : State) : Res :=
  let (n, thr, code) := match w with
    | .ms100 => (2441, 6000, 5)
    | .ms20 => (488, 60000, 6)
    | .ms5 => (122, 200000, 7)
  match bitOf (s.safBoughCfg b) 28, dcReaches s b n thr with
  | true, some v => .next (trip b code v s)
  | _, _ => .next s

/-- The insulation of R270 as a fraction of Ω, num over den; a zero den is infinite, none is not measurable. Voltages in
one unit, rm and rb in Ω. -/
def insulation (vp0 vn0 vp1 vn1 : Int) (rm rb : Nat) : Option (Nat × Nat) :=
  let d := vn1 * vp0 - vp1 * vn0
  if vn0 = 0 ∨ d * vn0 ≤ 0 then none
  else
    let g := vp1 * (vn0 + vp0) * rm - 2 * rb * d
    let (d, g) := if d < 0 then (-d, -g) else (d, g)
    some (if g ≤ 0 then (1, 0) else ((rb * rm * d).toNat, g.toNat))

/-- The bridge of bough b switched to its other state (R270). -/
def toggleBridge (b : Bough) (s : State) : State :=
  let on := !s.meas[b].bridgeOn
  let ch := fld (s.safBoughCfg b) 20 16
  let s := s.onMeas b (fun m => { m with bridgeOn := on })
  match allChannels.find? (fun c => c.val == ch) with
  | some c => if s.aux[c].bridge then auxDrive c (s.onAux c (fun a => { a with bridgeOn := on })) else s
  | none => s

/-- The measures after one insulation result that is below the fault threshold, or at least it and below the warning
threshold, with its register value: two such in a row set the state reported, any other result sets it good; before
that the result reported before stands (R271, log entry 179). -/
def takeInsulation (below warn : Bool) (reg : Nat) (m : SafMeas) : SafMeas :=
  let fr := if below then m.faultRun + 1 else 0
  let wr := if warn then m.warnRun + 1 else 0
  let took := fun (old : Nat) => if 2 ≤ fr then 3 else if 2 ≤ wr then 2 else if below || warn then old else 1
  { m with imd := took m.imd, check := took m.check, riso := reg, faultRun := fr, warnRun := wr }

/-- One insulation result classified (R271): a fault is declared at the second consecutive result below the fault
threshold (trip code 8), a warning reported at the second consecutive warning result. -/
def judgeInsulation (b : Bough) (r : Option (Nat × Nat)) (s : State) : State :=
  match r with
  | none => s.onMeas b (fun m => { m with imd := 0, faultRun := 0, warnRun := 0 })
  | some (n, d) =>
    let u := fld (s.safDcCfg b) 31 16
    let below := decide (n < fld (s.safImdCfg b) 31 16 * u * d)
    let warn := !below && decide (n < fld (s.safImdCfg b) 15 0 * u * d)
    let reg := if d = 0 then 255 else min 255 (n / (10000 * d))
    let s := s.onMeas b (takeInsulation below warn reg)
    let s := if s.meas[b].warnRun = 2 && !s.meas[b].warned then
        emit 0x0406 b.val (leN 1 reg) (s.onMeas b (fun m => { m with warned := true })) else s
    if s.meas[b].faultRun = 2 then
      trip b 8 (if d = 0 then 0 else (n / d : Nat)) (if s.saf[b].closing == .dcInsulation then reportIsolation b 3 s else s)
    else s

/-- The mean of the samples of a channel over the last 50 ms, in µV. -/
def stateMean (h : List Int) : Int := if h.isEmpty then 0 else quot h.sum h.length

/-- BRIDGE_STATE_END (R270, R271): the means of Vp and Vn over the last 50 ms of the state that ends. A channel that
delivers its substitute makes the result a fault (R327). -/
def execBridgeStateEnd (b : Bough) (s : State) : Res :=
  if !bitOf (s.safBoughCfg b) 27 then .next s
  else
    let m := s.meas[b]
    let vp := stateMean m.vpHist
    let vn := stateMean m.vnHist
    let rm := 1000 * fld (s.safBridgeCfg b) 31 16
    let rb := 1000 * fld (s.safBridgeCfg b) 15 0
    let r := match m.prevVp, m.prevVn with
      | some pp, some pn =>
        if chFails s.mtr[b] 11 || chFails s.mtr[b] 12 then some (0, 1)
        else if vp + vn < 50000000 then none
        else if m.bridgeOn then insulation pp pn vp vn rm rb else insulation vp vn pp pn rm rb
      | _, _ => none
    let s := judgeInsulation b r s
    .next (toggleBridge b (s.onMeas b (fun m => { m with prevVp := some vp, prevVn := some vn })))

/-! ## Heartbeat, fail-safe and watchdogs (R274 to R277) -/

/-- HEARTBEAT_SEND (R274, R275): withheld when the redundant copies disagree, PLL lock is lost, a monitor reset is held
or a test calls for it. -/
def execHeartbeatSend (disagree : Bool) (s : State) : Res :=
  if disagree || s.lat.pllLost || s.supply.resetHeld then .next s
  else .next { s with safDev.hbCount := (s.safDev.hbCount + 1) % 16 }

/-- A link frame whose CRC fails: more than 16 within 10 ms enter fail-safe (R277). -/
def linkBad (s : State) : State :=
  let s := { s with safDev.linkValid := 0, safDev.crcFails := s.safDev.crcFails + 1 }
  if 16 < s.safDev.crcFails then fsEnter .link 0 s else s

/-- A frame that passed its CRC: ten consecutive ones end the link cause (R277). -/
def linkGood (s : State) : State :=
  let s := { s with safDev.linkValid := s.safDev.linkValid + 1 }
  if 10 ≤ s.safDev.linkValid then fsLeave .link s else s

/-- A heartbeat with the next counter value: ten consecutive ones end the watchdog-loss cause (R277). The first releases
the pilots from Off (R122). -/
def beatGood (counter : Nat) (s : State) : State :=
  let first := !s.safDev.firstBeat
  let s := { s with safDev.hbMissed := 0, safDev.crcFails := 0, safDev.hbValid := s.safDev.hbValid + 1,
                    safDev.hbExpect := (counter + 1) % 16, safDev.firstBeat := true }
  let s := if first then driveAll s else s
  if 10 ≤ s.safDev.hbValid then fsLeave .wdog s else s

/-- HEARTBEAT_FRAME (R274, R277). A heartbeat out of sequence is not valid; the next value follows the one received. -/
def execHeartbeatFrame (beat : Bool) (counter : BitVec 4) (crcOk : Bool) (s : State) : Res :=
  if !crcOk then .next (linkBad s)
  else
    let s := linkGood s
    if !beat then .next s
    else if counter.toNat = s.safDev.hbExpect || !s.safDev.firstBeat then .next (beatGood counter.toNat s)
    else .next { s with safDev.hbValid := 0, safDev.hbExpect := (counter.toNat + 1) % 16 }

/-- HEARTBEAT_PERIOD_MISSED (R274, R277): three in a row are watchdog loss, trip code 10. -/
def execHeartbeatPeriodMissed (s : State) : Res :=
  let s := { s with safDev.hbMissed := s.safDev.hbMissed + 1, safDev.hbValid := 0, safDev.crcFails := 0 }
  if 3 ≤ s.safDev.hbMissed then .next (fsEnter .wdog 10 s) else .next s

/-- CORE_SERVICE (R276): a running session core serves the logic die watchdog. -/
def execCoreService (c : Fin 2) (s : State) : Res :=
  if s.safDev.coreDead.getLsbD c.val then .next s
  else .next { s with safDev.serviced := s.safDev.serviced ||| BitVec.ofNat 2 (1 <<< c.val) }

/-- LOGIC_WATCHDOG_EXPIRED (R276, R302): 100 ms without a service trip the core's boughs with code 11; a window with a
service only ends. -/
def execLogicWatchdogExpired (c : Fin 2) (s : State) : Res :=
  let bit := BitVec.ofNat 2 (1 <<< c.val)
  if s.safDev.serviced.getLsbD c.val then .next { s with safDev.serviced := s.safDev.serviced &&& ~~~bit }
  else
    let s := emit 0x040B 255 (leN 1 c.val) { s with safDev.wdog := s.safDev.wdog ||| bit }
    .next (forBoughs (fun b t => if coreOf b = c then trip b 11 0 t else t) s)

/-! ## Safety commands (R291, R748) -/

/-- The codes that a mask of SAF_CLEAR selects. -/
def clearSelects (mask : Byte) (code : Nat) : Bool :=
  (mask.getLsbD 0 && ((decide (3 ≤ code ∧ code ≤ 9)) || code == 15)) || (mask.getLsbD 1 && code == 14)
    || (mask.getLsbD 2 && (code == 12 || code == 13 || code == 19))

/-- The condition of R278 for clearing a latched code is met: for a code that state A clears, the pilot stands in A or
state A was confirmed since the code latched. -/
def mayClear (s : State) (b : Bough) (code : Nat) : Bool :=
  match code with
  | 12 | 13 => s.saf[b].coils.all (fun c => c.hiPassed && c.loPassed)
  | 14 => allCoils.all (fun k => senseReads s b k != some true)
  | 19 => true
  | c => s.ports[b].state == .A || s.saf[b].seenA.contains c

/-- SAF_CLEAR of bough b: result and state (R748). -/
def clearLatches (b : Bough) (mask : Byte) (s : State) : Nat × State :=
  if coilsClosed s b then (3, s)
  else
    let sel := s.saf[b].latched.filter (clearSelects mask)
    if sel.isEmpty then (2, s)
    else
      let gone := sel.filter (mayClear s b)
      let s' := s.onSaf b (fun f => { f with
        latched := f.latched.filter (fun c => !gone.contains c),
        coils := if gone.contains 14 then f.coils.map (fun c => { c with welded := false }) else f.coils })
      (if gone.length = sel.length then 0 else 1, auxAll s')

/-- The bough that a header names; the port has refused any other (R710 reason 4). -/
def hdrBough (h : CmdHdr) : Option Bough := if p : h.bough < 8 then some ⟨h.bough, p⟩ else none

/-- f on the bough of the header. -/
def onHdr (h : CmdHdr) (s : State) (f : Bough → Res) : Res :=
  match hdrBough h with
  | some b => f b
  | none => .next s

/-- SAF_CLEAR (R291, R748). -/
def execSafClear (h : CmdHdr) (mask : Byte) (s : State) : Res :=
  onHdr h s fun b =>
    let (r, s) := clearLatches b mask s
    .next (answer 0x0408 b.val h.tag (leN 1 r) s)

/-- SAF_HOLD with 1 (R291): the bough is held; driven coils open ordinarily through the session engine. -/
def execSafHoldSet (h : CmdHdr) (s : State) : Res :=
  onHdr h s fun b =>
    .next (answer 0x0408 b.val h.tag (leN 1 0) (holdSession b 0 (s.onSaf b (fun f => { f with holdCmd := true }))))

/-- SAF_HOLD with 0 (R291): the hold set by SAF_HOLD is released. -/
def execSafHoldRelease (h : CmdHdr) (s : State) : Res :=
  onHdr h s fun b =>
    .next (answer 0x0408 b.val h.tag (leN 1 0) (driveOutput b (s.onSaf b (fun f => { f with holdCmd := false }))))

end Sys2Proof.Machine
end

