-- ==== Sys2Proof/Machine/Sessions.lean ====
section
/-! DEFINITION. The commands of sessions, authorisation and credit (R213 to R253). -/

namespace Sys2Proof.Machine

/-! ## Movements between the session states that several commands share -/

/-- Energy transfer may run: ENERGISING, CHARGING, SUSPENDED (R214). -/
def transferring (st : SesState) : Bool :=
  match st with
  | .energising | .charging | .suspended => true
  | _ => false

/-- The session holds an authorisation and has not begun to stop. -/
def authorised (st : SesState) : Bool := st == .authorised || transferring st

/-- A stop cause of R215 that only counts while energy transfer may run. -/
def stopTransfer (b : Bough) (reason : Nat) (s : State) : State :=
  if transferring s.ses[b].state then enterStopping b reason s else s

/-- SUSPENDED from CHARGING (R214): opening and intermediate reading; when the safety block has opened the coils already,
the reading waits for the weld check (R253). -/
def suspend (b : Bough) (s : State) : State :=
  if s.ses[b].state != .charging then s
  else if coilsClosed s b then signReading b 2 (requestOpening b (goState b .suspended s))
  else
    let s := goState b .suspended s
    if weldsPassed s b then signReading b 2 s else s.onSesL b (fun l => { l with readOnWeld := true })

/-- ENERGISING again from SUSPENDED when the ceiling is at or above the vehicle's minimum (R214). -/
def resume (b : Bough) (s : State) : State :=
  if s.ses[b].state == .suspended && decide (s.sesL[b].vehMin ≤ s.ses[b].ceilW) then energise b (lateReading b s) else s

/-- Event 0x0308. -/
def sesAnswer (bough tag result : Nat) (s : State) : State := answer 0x0308 bough tag (leN 1 result) s

/-- f on the bough of the header; a bough outside 0 to 7 is answered with result 0xFF (R234). A core that has stopped
answers nothing (R67; DEDUCED, log entry 195). -/
def onSesHdr (h : CmdHdr) (s : State) (f : Bough → Res) : Res :=
  match hdrBough h with
  | some b => if coreAlive s b then f b else .next s
  | none => .next (sesAnswer h.bough h.tag 0xFF s)

/-- f on a bough whose session core runs (R40, R67). -/
def onCore (b : Bough) (s : State) (f : State → State) : Res := .next (if coreAlive s b then f s else s)

/-! ## Checks at their instants -/

/-- HOST_WAIT_EXPIRED (R218): silence gives no result and the next steps decide; on a free-vend bough without an
identifier, free vend applies. -/
def execHostWaitExpired (b : Bough) (s : State) : Res :=
  onCore b s fun s =>
    match s.ses[b].state with
    | .authorising => if s.ses[b].waitTag.isSome then decideSilence b s else s
    | .connected => freeVendNow b s
    | _ => s

/-- AUTH_HOLD_EXPIRED (R214, R239): FINISHED with reason 0x11; AUTH_HOLD = 0 sets no limit. -/
def execAuthHoldExpired (b : Bough) (s : State) : Res :=
  onCore b s fun s =>
    if s.ses[b].state == .authorised && fld s.sesAuthCfg 15 8 != 0 then
      finishSession b (s.onSes b (fun e => { e with stopReason := 0x11 }))
    else s

/-- A SES_GRANT waiting for the check takes effect; a limit below the cost already used is a cut (R230, R247). -/
def takeNewGrant (b : Bough) (s : State) : State :=
  s.onSes b (fun e => match e.newGrant with
    | none => e
    | some g => { e with
        grant := some g, newGrant := none,
        cutTo := if g.amount ≠ 0 ∧ g.amount < e.cost then some g.amount else e.cutTo })

/-- The grant's AMOUNT has been reached (R230). -/
def grantReached (e : Session) : Bool :=
  match e.grant with
  | some g => g.amount != 0 && decide (g.amount ≤ e.cost)
  | none => false

/-- Event 0x0306, once, when available credit has fallen below a tenth of its value at authorisation (R238). -/
def noteLowCredit (b : Bough) (s : State) : State :=
  let e := s.ses[b]
  let a := available s b
  if !e.lowSent && decide (0 ≤ e.creditAtAuth) && decide (10 * a < e.creditAtAuth) then
    emit 0x0306 b.val (leI 6 a) (s.onSes b (fun e => { e with lowSent := true }))
  else s

/-- Available credit of a LOCAL session: it stops at 0 or less outside a friendly window (R227, R228). -/
def checkLocal (b : Bough) (s : State) : State :=
  let s := noteLowCredit b s
  let was := s.ses[b].inFriendly
  let isIn := friendlyFor s b
  let s := s.onSes b (fun e => { e with inFriendly := isIn })
  if available s b ≤ 0 && !isIn then enterStopping b (if was then 0x0D else 0x04) s else s

/-- The limits of a session that transfers energy: a cut, its grant, its credit (R227, R228, R230, R247). -/
def checkLimits (b : Bough) (s : State) : State :=
  let e := s.ses[b]
  match e.cutTo with
  | some n =>
    enterStopping b 0x05
      (emit 0x0307 b.val (leI 6 n ++ leN 6 e.cost) (s.onSes b (fun e => { e with cutTo := none })))
  | none =>
    if grantReached e then enterStopping b 0x06 s
    else if e.slot.isSome && !e.remote then checkLocal b s
    else s

/-- CREDIT_CHECK (R227, R228, R230, R247). -/
def execCreditCheck (b : Bough) (s : State) : Res :=
  onCore b s fun s =>
    let s := reportCost b s
    if !authorised s.ses[b].state then s
    else
      let s := takeNewGrant b s
      if transferring s.ses[b].state then checkLimits b s else s

/-- GRANT_EXPIRED (R230). -/
def execGrantExpired (b : Bough) (s : State) : Res :=
  onCore b s fun s =>
    match s.ses[b].grant with
    | some g => if g.expiry ≠ 0 then stopTransfer b 0x07 s else s
    | none => s

/-- HOST_CEILING_EXPIRED (R231): a validity of 0 does not end. -/
def execHostCeilingExpired (b : Bough) (s : State) : Res :=
  onCore b s fun s =>
    if s.sesL[b].ceilTimed then
      withRequest b (fun s => s.onSesL b (fun l => { l with hostCeil := none, ceilTimed := false })) s
    else s

/-- CEILING_BELOW_MINIMUM (R214, R252): below the vehicle's minimum for 10 s. -/
def execCeilingBelowMinimum (b : Bough) (s : State) : Res :=
  onCore b s fun s => if decide (s.ses[b].ceilW < s.sesL[b].vehMin) then suspend b s else s

/-- STOP_WAIT_END (R216 steps 2 and 3): the opening is requested. -/
def execStopWaitEnd (b : Bough) (s : State) : Res :=
  onCore b s fun s =>
    if s.ses[b].state == .stopping && s.sesL[b].stopIssued then
      requestOpening b (s.onSesL b (fun l => { l with stopIssued := false }))
    else s

/-- POWER_REQUEST (R232). -/
def execPowerRequest (b : Bough) (s : State) : Res := .next (powerRequest b s)

/-- The offered current in mA: the AC ceiling of R231, or the current limit asked of a DC power stage (R232). -/
def offeredMa (s : State) (b : Bough) : Nat := if isDC s b then s.sesL[b].targetI.natAbs else 100 * s.ses[b].acCeil

/-- The current of the last block in mA: the largest phase current, or the mean of channel 9. -/
def blockMa (s : State) (b : Bough) : Nat :=
  let n := s.nst[b]
  if isDC s b then n.dcMean[(1 : Fin 3)].natAbs else max n.i[0] (max n.i[1] n.i[2])

/-- CURRENT_ALLOWANCE_EXPIRED (R233): 6 s after a lower ceiling the block's current still exceeds the offered current by
more than 10 % plus 1.0 A. -/
def execCurrentAllowanceExpired (b : Bough) (s : State) : Res :=
  onCore b s fun s =>
    if s.sesL[b].lowered && decide (11 * offeredMa s b + 10000 < 10 * blockMa s b) then stopTransfer b 0x0B s else s

/-! ## SES_AUTH and SES_IDENT (R218, R236, R248) -/

/-- A host acceptance authorises the bough: a money grant needs pricing, and debits the identifier's record where the
ledger holds one (R221, R230). -/
def hostAccept (b : Bough) (remote : Bool) (g : Grant) (tag : Nat) (s : State) : State :=
  if g.amount ≠ 0 && !pricing s then
    (if s.ses[b].state == .authorising then refuseAndNext b 8 [tag] s else authResult b false 8 [tag] s)
  else
    let (slot, s) := if g.amount ≠ 0 && s.ses[b].current.isSome then lookup s.ses[b].digest s else (none, s)
    let ec := match slot with
      | some i => heldEc s i
      | none => 0
    let s := s.onSes b (fun e => { e with slot := slot, grant := some g, remote := remote, ecUsed := ec, debited := 0 })
    acceptIdent b 1 (g.amount != 0) [tag] s

/-- SES_AUTH accepting, by the state of the session (R214, R218, R230, R248). -/
def authAccept (b : Bough) (remote : Bool) (g : Grant) (ident : List Byte) (tag : Nat) (s : State) : State :=
  let e := s.ses[b]
  match e.state with
  | .authorising => if e.waitTag = some tag then hostAccept b remote g tag s else sesAnswer b.val tag 2 s
  | .connected =>
    if ident.isEmpty then hostAccept b remote g tag s
    else
      let i : Ident := { kind := 2, bytes := ident }
      hostAccept b remote g tag (s.onSes b (fun e => { e with current := some i, digest := digestOf ident, identKind := 2 }))
  | st =>
    let offline := match e.grant with | some g => g.offline | none => false
    if authorised st && offline && e.reqTag = some tag then
      authResult b true 0 [tag] (s.onSes b (fun e => { e with grant := some g, remote := remote, authBy := 1 }))
    else sesAnswer b.val tag 2 s

/-- SES_AUTH with decision 1. -/
def execSesAuthAccept (h : CmdHdr) (remote : Bool) (amount : Int) (expiry : Nat) (ident : List Byte) (s : State) : Res :=
  if 32 < ident.length then .fault (.undefinedBodyValue "SES_AUTH_ACCEPT")
  else onSesHdr h s fun b => .next (authAccept b remote { amount := amount, expiry := expiry } ident h.tag s)

/-- The refusal names the identifier that authorised the session: by its bytes, or by the tag of its event 0x0302. -/
def namesAuthorised (e : Session) (ident : List Byte) (tag : Nat) : Bool :=
  e.current.isSome && ((!ident.isEmpty && digestOf ident == e.digest) || (ident.isEmpty && e.reqTag == some tag))

/-- SES_AUTH refusing, by the state of the session (R218, R236, R248). -/
def authRefuse (b : Bough) (ident : List Byte) (tag : Nat) (s : State) : State :=
  let e := s.ses[b]
  if e.state = .authorising && e.waitTag = some tag then refuseAndNext b 2 [tag] s
  else if authorised e.state && namesAuthorised e ident tag then
    authResult b false 2 [tag] (stopSession b 0x0E s)
  else sesAnswer b.val tag 2 s

/-- SES_AUTH with decision 0. -/
def execSesAuthRefuse (h : CmdHdr) (ident : List Byte) (s : State) : Res :=
  if 32 < ident.length then .fault (.undefinedBodyValue "SES_AUTH_REFUSE")
  else onSesHdr h s fun b => .next (authRefuse b ident h.tag s)

/-- SES_IDENT (R220): held and decided in turn; outside CONNECTED and AUTHORISING nothing takes it. -/
def execSesIdent (h : CmdHdr) (credential : List Byte) (s : State) : Res :=
  if credential.isEmpty || 32 < credential.length then .fault (.undefinedBodyValue "SES_IDENT")
  else onSesHdr h s fun b =>
    match s.ses[b].state with
    | .idle => .next (sesAnswer b.val h.tag 2 s)
    | .connected | .authorising => .next (offerIdent b { kind := 2, bytes := credential, tag := some h.tag } s)
    | _ => .next (authResult b false 7 [h.tag] s)

/-! ## SES_STOP, SES_GRANT, SES_CEILING (R230, R231, R236) -/

/-- SES_STOP (R236): event 0x0305 at the session's end answers it. -/
def execSesStop (h : CmdHdr) (s : State) : Res :=
  onSesHdr h s fun b =>
    match s.ses[b].state with
    | .idle | .stopping | .finished | .faulted => .next (sesAnswer b.val h.tag 2 s)
    | _ => .next (stopSession b 0x03 (s.onSes b (fun e => { e with stopTag := some h.tag })))

/-- SES_GRANT (R230): the grant waits for the next one-second check. A bough whose session is not authorised holds no
grant to replace. -/
def execSesGrant (h : CmdHdr) (amount : Int) (expiry : Nat) (s : State) : Res :=
  onSesHdr h s fun b =>
    let st := s.ses[b].state
    if authorised st then
      .next (sesAnswer b.val h.tag 0 (s.onSes b (fun e => { e with newGrant := some { amount := amount, expiry := expiry } })))
    else .next (sesAnswer b.val h.tag 2 s)

/-- SES_CEILING (R231, R234). -/
def execSesCeiling (h : CmdHdr) (watts validity : Nat) (s : State) : Res :=
  if 0x7FFFFFFF < watts then .fault (.undefinedBodyValue "SES_CEILING")
  else onSesHdr h s fun b =>
    .next (sesAnswer b.val h.tag 0 (withRequest b (fun s =>
      s.onSesL b (fun l => { l with hostCeil := some watts, ceilTimed := validity != 0 })) s))

/-! ## SES_CREDIT (R229, R237) -/

/-- A record written to slot i and journalled; the result is 3 when its balance had to be clamped (R17, R237). -/
def putCredit (h : CmdHdr) (i : Nat) (r : List Byte) (balance : Int) (ecUsed : Nat) (s : State) : State :=
  let s := journal i (putSlot i (mkRecord (recDigest r) (clampBalance balance) (byteAt r 13) ecUsed) s)
  sesAnswer 255 h.tag (if clampBalance balance = balance then 0 else 3) s

/-- f on the slot of the record with a digest; result 1 where there is none (R237). -/
def onRecord (h : CmdHdr) (digest : List Byte) (s : State) (f : Nat → List Byte → State → State) : Res :=
  match lookup (padTo 8 digest) s with
  | (some i, s) => .next (f i (slotRecord s i) s)
  | (none, s) => .next (sesAnswer 255 h.tag 1 s)

/-- SES_CREDIT add (R229). -/
def addCredit (h : CmdHdr) (amount : Int) (i : Nat) (r : List Byte) (s : State) : State :=
  if amount < 0 then putCredit h i r (recBalance r + amount) (recEcUsed r) s
  else match holderOf s i with
    | some b =>
      let used := s.ses[b].ecUsed
      let take := min used amount.toNat
      let s := keepEc i (used - take) s
      putCredit h i r (recBalance r + (amount - take)) (ecUnits (used - take)) s
    | none =>
      let n := min (recEcUsed r) (amount.toNat / 1000)
      putCredit h i r (recBalance r + (amount - 1000 * n)) (recEcUsed r - n) s

/-- SES_CREDIT op 0. -/
def execSesCreditAdd (h : CmdHdr) (digest : List Byte) (amount : Int) (s : State) : Res :=
  onRecord h digest s (addCredit h amount)

/-- A balance set below what a running LOCAL session has used is a cut, for every session on the record (R247). -/
def noteCut (i : Nat) (old : Int) (s : State) : State :=
  (holdersOf s i).foldl (fun s b =>
    let s := reportCost b s
    let e := s.ses[b]
    let r := slotRecord s i
    if !e.remote && decide (recBalance r < old) && decide (available s b < 0) then
      s.onSes b (fun e => { e with cutTo := some (recBalance r + ecRoom s r e.ecUsed) })
    else s) s

/-- SES_CREDIT op 1. -/
def execSesCreditSet (h : CmdHdr) (digest : List Byte) (amount : Int) (s : State) : Res :=
  onRecord h digest s (fun i r s => noteCut i (recBalance r) (putCredit h i r amount (recEcUsed r) s))

/-- SES_CREDIT op 2. -/
def execSesCreditCreate (h : CmdHdr) (digest : List Byte) (flags : Byte) (amount : Int) (s : State) : Res :=
  let d := padTo 8 digest
  match lookup d s with
  | (some _, s) => .next (sesAnswer 255 h.tag 5 s)
  | (none, s) =>
    match insertRecord (mkRecord d (clampBalance amount) (flags ||| 1) 0) s with
    | (some i, s) => .next (sesAnswer 255 h.tag 0 (journal i s))
    | (none, s) => .next (sesAnswer 255 h.tag 4 s)

/-- SES_CREDIT op 3. -/
def execSesCreditDelete (h : CmdHdr) (digest : List Byte) (s : State) : Res :=
  onRecord h digest s (fun i r s =>
    if (holderOf s i).isSome then sesAnswer 255 h.tag 4 s
    else
      let gone := mkRecord (recDigest r) (recBalance r) (byteAt r 13 &&& 0xFE) (recEcUsed r)
      sesAnswer 255 h.tag 0 (journal i (putSlot i gone s)))

/-- SES_CREDIT op 4. -/
def execSesCreditSetFlags (h : CmdHdr) (digest : List Byte) (flags : Byte) (s : State) : Res :=
  onRecord h digest s (fun i r s =>
    let r' := mkRecord (recDigest r) (recBalance r) (flags ||| 1) (recEcUsed r)
    let before := allBoughs.map (fun b => (b, requestFields s b))
    let s := journal i (putSlot i r' s)
    let s := before.foldl (fun t p => if requestFields t p.1 = p.2 then t else powerRequest p.1 t) s
    sesAnswer 255 h.tag 0 s)

/-! ## SES_LEDGER_LOAD (R235) -/

/-- A digest belongs to a running session. -/
def digestHeld (s : State) (d : List Byte) : Bool :=
  allBoughs.any (fun b => match s.ses[b].slot with | some i => recDigest (slotRecord s i) == d | none => false)

/-- One loaded record: a set where its digest exists, else a create. The slot it went to. -/
def loadRecord (r : List Byte) (s : State) : Option Nat × State :=
  let d := nonZeroDigest (recDigest r)
  let flags := byteAt r 13 ||| 1
  match lookup d s with
  | (some i, s) => (some i, putSlot i (mkRecord d (recBalance r) flags (recEcUsed (slotRecord s i))) s)
  | (none, s) => insertRecord (mkRecord d (recBalance r) flags (recEcUsed r)) s

/-- The counts of a load: loaded, skipped, failed. -/
abbrev LoadCount := Nat × Nat × Nat

/-- Record i of a merge. -/
def mergeOne (i : Nat) (c : LoadCount) (s : State) : LoadCount × State :=
  let r := bulkBytes s (16 * i) 16
  if digestHeld s (nonZeroDigest (recDigest r)) then ((c.1, c.2.1 + 1, c.2.2), s)
  else match loadRecord r s with
    | (some k, s) => ((c.1 + 1, c.2.1, c.2.2), journal k s)
    | (none, s) => ((c.1, c.2.1, c.2.2 + 1), s)

/-- Record i of a replace-all. -/
def replaceOne (i : Nat) (c : LoadCount) (s : State) : LoadCount × State :=
  match loadRecord (bulkBytes s (16 * i) 16) s with
  | (some _, s) => ((c.1 + 1, c.2.1, c.2.2), s)
  | (none, s) => ((c.1, c.2.1, c.2.2 + 1), s)

/-- f for the records 0 to n - 1 in order. -/
def loadAll (f : Nat → LoadCount → State → LoadCount × State) (n : Nat) (s : State) : LoadCount × State :=
  (List.range n).foldl (fun a i => f i a.1 a.2) ((0, 0, 0), s)

/-- Event 0x030A and the bulk window given back. -/
def loadAnswer (h : CmdHdr) (result : Nat) (c : LoadCount) (s : State) : State :=
  answer 0x030A 255 h.tag (leN 1 result ++ leN 4 c.1 ++ leN 4 c.2.1 ++ leN 4 c.2.2) (bulkIn 0x8307 s)

/-- SES_LEDGER_LOAD with mode 0. -/
def execSesLedgerLoadMerge (h : CmdHdr) (count : Nat) (s : State) : Res :=
  if count = 0 ∨ 16384 < count then .fault (.undefinedBodyValue "SES_LEDGER_LOAD_MERGE")
  else
    let s := if (halfAt s s.nv.flash.active).entries.length + count ≤ logEntries then s else compact s
    let (c, s) := loadAll mergeOne count s
    .next (loadAnswer h 0 c s)

/-- The ledger bank with every record gone. -/
def emptyBank (s : State) : State :=
  let inBank : Nat → Bool := fun a => decide (0x01000000 ≤ a ∧ a < 0x01400000)
  let ws := (s.mem.bad.filter (fun w => inBank w.addr)).map (·.addr)
  ws.foldl (fun t a => writtenWord a t) { s with mem.cells := s.mem.cells.filter (fun c => !inBank c.1) }

/-- SES_LEDGER_LOAD with mode 1: refused while any session holds a record. -/
def execSesLedgerLoadReplace (h : CmdHdr) (count : Nat) (s : State) : Res :=
  if count = 0 ∨ 16384 < count then .fault (.undefinedBodyValue "SES_LEDGER_LOAD_REPLACE")
  else if allBoughs.any (fun b => s.ses[b].slot.isSome) then .next (loadAnswer h 4 (0, 0, 0) s)
  else
    let (c, s) := loadAll replaceOne count (emptyBank s)
    .next (loadAnswer h 0 c (compact s))

end Sys2Proof.Machine
end

