-- ==== Sys2Proof/Machine/Ports.lean ====
section
/-! DEFINITION. The commands of the vehicle ports: pilot (R162 to R172), proximity (R173 to R175), joint association (R180
to R188), modem frames (R204, R205) and the protocol dialogue (R189 to R195). -/

namespace Sys2Proof.Machine

/-! ## Plateaus (R166 to R169) -/

/-- Centre of a state's bands in mV (R166). -/
def bandCentre (st : PilotState) : Option Int :=
  match st with
  | .A => some 12000 | .B => some 9000 | .C => some 6000 | .D => some 3000 | .E => some 0
  | .F | .fault => none

/-- The value lies within w mV of the centre of the state's bands. -/
def inBand (st : PilotState) (w mv : Int) : Bool :=
  match bandCentre st with
  | some c => decide (c - w ≤ mv) && decide (mv ≤ c + w)
  | none => false

/-- Hold band of a state: 1.5 V on either side of its centre. -/
def inHold (st : PilotState) (mv : Int) : Bool := inBand st 1500 mv

/-- The state in whose enter band the value lies: 1.0 V on either side. -/
def enterState (mv : Int) : Option PilotState := [.A, .B, .C, .D, .E].find? (fun st => inBand st 1000 mv)

/-- The state that a positive plateau counts for; none: invalid (R166). -/
def classifyPlateau (now : PilotState) (mv : Int) : Option PilotState := if inHold now mv then some now else enterState mv

/-- State C or D. -/
def isCD (st : PilotState) : Bool := st == .C || st == .D

/-- The safety side path sees the pilot leave C and D: immediate opening with cause 1; no trip (R168, R278, R297). -/
def pilotLeft (b : Bough) (s : State) : State :=
  let s := s.onSaf b (fun f => { f with pilotCD := false, closeReq := false })
  openNow b 1 (abandonClosing b 1 s)

/-- One positive plateau at the safety side path. -/
def sidePlateau (b : Bough) (mv : Int) (s : State) : State :=
  if !isCD s.ports[b].state then s
  else if inHold .C mv || inHold .D mv then s.onSaf b (fun f => { f with pilotCD := true })
  else if s.saf[b].pilotCD then pilotLeft b s
  else s

/-- Free vend at CONNECTED without delay, with HOST_EN = 0 (R218). -/
def freeVendAtOnce (b : Bough) (s : State) : State := if bitOf s.sesAuthCfg 31 then s else freeVendNow b s

/-- The session engine acts on a confirmed pilot state (R214, R215, R253). -/
def sesPilot (b : Bough) (old : PilotState) (s : State) : State :=
  if !coreAlive s b then s
  else match s.ports[b].state with
  | .A => leaveSession b 0x02 s
  | .B =>
    match s.ses[b].state with
    | .idle => if old == .A then freeVendAtOnce b (connect b s) else s
    | .charging => if isDC s b then enterStopping b 0x12 s else suspend b s
    | _ => s
  | .C | .D =>
    match s.ses[b].state with
    | .idle => if old == .A && s.ports[b].state == .C then freeVendAtOnce b (connect b s) else s
    | .authorised => if acReady s b then energise b s else s
    | .suspended =>
      if s.ports[b].state == .D && !bitOf (s.sesBoughCfg b) 30 then enterStopping b 0x0C s
      else if acReady s b then resume b s else s
    | .energising | .charging =>
      if s.ports[b].state == .D && !bitOf (s.sesBoughCfg b) 30 then enterStopping b 0x0C s else s
    | _ => s
  | _ => s

/-- Stop reason of a session that a pilot fault ends: 0x12 in CHARGING; R215 names none elsewhere. -/
def faultReason (s : State) (b : Bough) : Nat :=
  if s.ses[b].state == .charging then 0x12 else (Config.holdReason 3).toNat

/-- A pilot fault (R169): mode F, association ended, event 0x0203. -/
def pilotFault (b : Bough) (kind : Nat) (s : State) : State :=
  let s := s.onPort b (fun p => { p with state := .fault, badKind := kind, badRun := 0, candRun := 0, fresh := false })
  let s := emit 0x0203 b.val (leN 1 kind ++ leI 2 s.ports[b].posMv) s
  let s := driveOutput b (leaveNetwork b s)
  leaveSession b (faultReason s b) s

/-- The step of bough b's count of B-C-B toggles: 1 state B seen, 2 state C after it (R187). -/
def togglePhase (old : Nat) (st : PilotState) : Nat :=
  match st with
  | .B => 1
  | .C => if old = 1 ∨ old = 2 then 2 else 0
  | _ => 0

/-- The confirmed state counted for every validation that runs: a toggle is B, then C, then B (R187). -/
def countToggle (b : Bough) (s : State) : State :=
  let st := s.ports[b].state
  { s with links := s.links.map (fun l =>
      if l.validating then { l with
        toggles := if l.togglePh[b] = 2 && st == .B then modAt l.toggles b (· + 1) else l.toggles,
        togglePh := l.togglePh.set b (togglePhase l.togglePh[b] st) }
      else l) }

/-- State B confirmed with digital communication: 5 % duty from now on (R172); the order of the first confirmations
(R206). -/
def startDigital (b : Bough) (s : State) : State :=
  if s.ports[b].state == .B && offersHlc s b && !s.ports[b].digitalOn then
    let n := s.assoc.confirms + 1
    ({ s with assoc.confirms := n }).onPort b (fun p => { p with digitalOn := true, confirmSeq := n })
  else s

/-- A new pilot state is confirmed (R168, R203): the port's events, then the session engine. -/
def confirmState (b : Bough) (st : PilotState) (s : State) : State :=
  let old := s.ports[b].state
  let s := s.onPort b (fun p => { p with state := st, candRun := 0, badRun := 0, fresh := false })
  match st with
  | .E => pilotFault b 3 s
  | .A =>
    let s := emit 0x0202 b.val (leN 1 s.ports[b].slac) s
    let s := (backToA b s).onPort b (fun p => { p with ratingUse := p.rating })
    driveOutput b (sesPilot b old (clearAtA b (countToggle b s)))
  | _ =>
    let s := if old == .A && (st == .B || st == .C) then emit 0x0201 b.val (leN 1 s.ports[b].ppCode) s else s
    let s := if isCD st then s.onSaf b (fun f => { f with pilotCD := true }) else s
    driveOutput b (sesPilot b old (countToggle b (startDigital b s)))

/-- The run of plateaus towards another state (R168): three confirm it. A port that has left mode F confirms A in the same
way. -/
def runPlateau (b : Bough) (k : Option PilotState) (s : State) : State :=
  let p := s.ports[b]
  match k with
  | none => s.onPort b (fun p => { p with candRun := 0 })
  | some st =>
    if st == p.state && !(p.fresh && st == .A) then s.onPort b (fun p => { p with candRun := 0 })
    else
      let n := if st = p.cand then p.candRun + 1 else 1
      let s := s.onPort b (fun p => { p with cand := st, candRun := n })
      if 3 ≤ n then confirmState b st s else s

/-- A period judged for a pilot fault: ten bad ones in a row declare it (R168). -/
def runBad (b : Bough) (bad : Bool) (kind : Nat) (s : State) : State :=
  let n := if bad then s.ports[b].badRun + 1 else 0
  let s := s.onPort b (fun p => { p with badRun := n, badKind := if bad then kind else p.badKind })
  if 10 ≤ n then pilotFault b kind s else s

/-- Channel 13 has no modulator: it delivers 0 V and every plateau is invalid (R327). -/
def pilotLost (s : State) (b : Bough) : Bool := chFails s.mtr[b] 13

/-- A positive plateau value. -/
def positivePlateau (b : Bough) (mv : Int) (s : State) : State :=
  let s := sidePlateau b mv (s.onPort b (fun p => { p with posMv := mv }))
  let k := if pilotLost s b then none else classifyPlateau s.ports[b].state mv
  let inX1 := s.ports[b].out == .x1
  let s := if inX1 then runBad b k.isNone 1 s else s
  if s.ports[b].state == .fault then s else runPlateau b k s

/-- A negative plateau value in mode X2 (R167): it ends the period, whose positive value stands in POS_MV. -/
def negativePlateau (b : Bough) (mv : Int) (s : State) : State :=
  let bcd := plugged s b
  let diode := bcd && decide (-10500 < mv) && !pilotLost s b
  let invalid := pilotLost s b || (bcd && decide (mv < -13500)) || (classifyPlateau s.ports[b].state s.ports[b].posMv).isNone
  let s := s.onPort b (fun p => { p with negMv := mv, diode := diode })
  let s := if diode && s.saf[b].pilotCD && isCD s.ports[b].state then pilotLeft b s else s
  runBad b (diode || invalid) (if invalid then 1 else 2) s

/-- PLATEAU_VALUE (R165 to R168): a window that ended; modes F and Off have none, and mode X1 only the positive one. -/
def execPlateauValue (b : Bough) (positive : Bool) (mv : Int) (s : State) : Res :=
  let mv := if pilotLost s b then 0 else mv
  match s.ports[b].out with
  | .off | .f => .next s
  | .x1 => .next (if positive then positivePlateau b mv s else s)
  | .x2 => .next (if positive then positivePlateau b mv s else negativePlateau b mv s)

/-- Three values in a row lie in the enter band of A or B. -/
def threeAB : List Int → Nat → Bool
  | [], n => decide (3 ≤ n)
  | v :: vs, n =>
    if 3 ≤ n then true
    else threeAB vs (if enterState v == some .A || enterState v == some .B then n + 1 else 0)

/-- PILOT_FAULT_PROBE (R169): the positive plateaus of a 4 ms X1 probe. The port then enters state A, from which a vehicle
is confirmed anew. -/
def execPilotFaultProbe (b : Bough) (mvs : List Int) (s : State) : Res :=
  if s.ports[b].state != .fault || heldOut s b || forcedF s || !bitOf (s.vehPortCfg b) 31 then .next s
  else
    let s := s.onPort b (fun p => { p with posMv := mvs.getLast?.getD p.posMv })
    if threeAB mvs 0 && !pilotLost s b then
      .next (driveOutput b (backToA b s |>.onPort b (fun p => { p with state := .A, candRun := 0, badRun := 0, fresh := true })))
    else .next s

/-! ## Proximity (R173 to R175, R210, R744) -/

/-- The class of a resistance num over den Ω, den 0 for an open contact (R174). -/
def ppClass (mode num den : Nat) : Nat :=
  let above := fun (r : Nat) => decide (r * den < num) || den == 0
  let within := fun (lo hi : Nat) => den != 0 && decide (lo * den ≤ num) && decide (num ≤ hi * den)
  if mode = 0 then
    if above 4500 then 0
    else if within 1100 2000 then 1
    else if within 500 900 then 2
    else if within 160 300 then 3
    else if within 75 130 then 4
    else if num < 60 * den then 8
    else 9
  else if above 1800 then 0
  else if within 100 200 then 5
  else if within 330 520 then 6
  else 9

/-- The rating of a result in 0.1 A (R744). -/
def ppRating (s : State) (b : Bough) (code : Nat) : Nat :=
  match code with
  | 1 => 130 | 2 => 200 | 3 => 320 | 4 => 630
  | 5 | 6 | 7 => 10 * fld (s.vehPpCfg b) 15 10
  | _ => 0

/-- The rating of the confirmed result; old is the result before. In a session only a fall is used at once (R210, R744);
event 0x0204 when the rating changes. -/
def takeRating (b : Bough) (old : Nat) (s : State) : State :=
  let was := s.ports[b].rating
  let code := s.ports[b].ppCode
  let r := ppRating s b code
  let calm := s.ses[b].state == .idle
  let s := s.onPort b (fun p => { p with rating := r, ratingUse := if calm then r else min p.ratingUse r })
  driveOutput b (if r = was then s else emit 0x0204 b.val (leN 1 old ++ leN 1 code) s)

/-- A result of proximity confirmed (R175). -/
def confirmPp (b : Bough) (code : Nat) (s : State) : State :=
  takeRating b s.ports[b].ppCode (s.onPort b (fun p => { p with
    ppCode := code, ppValid := !(code == 8 || code == 9), ppRun := 0 }))

/-- Proximity shows no cable or no connector while the state is B, C or D: the session ends (R210). -/
def cableGone (b : Bough) (s : State) : State := if plugged s b then stopTransfer b 0x10 s else s

/-- PROXIMITY_MEAN (R173 to R175): PULLUP × V / (REF − V) with V the mean of channel 14 over the 10 ms, both terms
multiplied by n × 2²³. A 10 ms without a sample gives no result. -/
def execProximityMean (b : Bough) (s : State) : Res :=
  let mode := fld (s.vehPpCfg b) 31 30
  let p := s.ports[b]
  let s := s.onPort b (fun p => { p with ppSum := 0, ppN := 0 })
  if mode = 2 then .next (confirmPp b 7 (s.onPort b (fun p => { p with ppOhm := 0 })))
  else if p.ppN = 0 && !chFails s.mtr[b] 14 then .next s
  else
    let v := p.ppSum.toNat * (s.mtrFs (24 * b.val + 14)).toNat
    let num := fld (s.vehPpCfg b) 28 16 * v
    let den := 10000 * fld (s.vehPpCfg b) 9 0 * p.ppN * 2 ^ 23 - v
    let s := s.onPort b (fun p => { p with ppOhm := if den = 0 then 0xFFFF else (quot num den).toNat })
    let c := if chFails s.mtr[b] 14 then 9 else ppClass mode num den
    let p := s.ports[b]
    if c = p.ppCode then
      let s := s.onPort b (fun p => { p with ppRun := 0, ppValid := !(c == 8 || c == 9) })
      .next (if c = 0 then cableGone b s else s)
    else
      let n := if c = p.ppCand then p.ppRun + 1 else 1
      let s := s.onPort b (fun p => { p with ppCand := c, ppRun := n })
      if 3 ≤ n then
        let s := confirmPp b c s
        .next (if c = 0 then cableGone b s else s)
      else .next s

/-! ## Joint association (R181 to R188, R206 to R208) -/

/-- The request of a vehicle's MAC and RUN_ID. -/
def isReq (mac runId : List Byte) (r : SlacReq) : Bool := r.mac == mac && r.runId == runId

/-- The request found. -/
def findReq (s : State) (mac runId : List Byte) : Option SlacReq := s.assoc.reqs.find? (isReq mac runId)

/-- The request changed. -/
def onReq (mac runId : List Byte) (f : SlacReq → SlacReq) (s : State) : State :=
  { s with assoc.reqs := s.assoc.reqs.map (fun r => if isReq mac runId r then f r else r) }

/-- An answer of a port to its vehicle. -/
def reply (b : Bough) (r : Reply) (s : State) : State := s.onLink b (fun l => { l with reply := some r })

/-- The MAC address of the modem of bough b: the base address plus b, first byte the most significant (R177; DEDUCED, log
entry 183). -/
def modemMac (s : State) (b : Bough) : List Byte := (leN 6 (ofLe (padTo 6 s.assoc.macBase).reverse + b.val)).reverse

/-- CM_SLAC_PARM.CNF with the parameters of R180. -/
def sendParmCnf (b : Bough) (s : State) : State := reply b (.slacParmCnf (modemMac s b) 10 600 0) s

/-- The attenuations that the eight receivers report: 90 dB where the frame control was not decoded (R182). -/
def attens (v : Vector (Option Nat) 8) : Vector Nat 8 := v.map (·.getD 90)

/-- CM_SLAC_PARM_REQ (R182): each repetition is decided afresh (R186); a second one within the window takes the place and
the attenuations of the first (DESIGN CHOICE, log entry 184). A request assigned already is answered again. -/
def execCmSlacParmReq (mac runId : List Byte) (atten : Vector (Option Nat) 8) (s : State) : Res :=
  let a := attens atten
  match findReq s mac runId with
  | some { assigned := some b, .. } => .next (sendParmCnf b (onReq mac runId (fun q => { q with atten := a, heardNow := true }) s))
  | _ =>
    let rest := s.assoc.reqs.filter (fun r => !isReq mac runId r)
    .next { s with assoc.reqs := rest ++ [{ mac := mac, runId := runId, atten := a, heardNow := true }] }

/-- A bough is a candidate while its window is open and it is not associated nor held by stagger (R181, R206). -/
def candidate (s : State) (b : Bough) : Bool := s.ports[b].winOpen && s.ports[b].slac != 4 && s.ports[b].slac != 5

/-- A bough may take a request: a candidate, or the bough with which the request's vehicle is associated (R186). -/
def mayTake (s : State) (r : SlacReq) (b : Bough) : Bool := candidate s b || (s.ports[b].slac == 4 && s.ports[b].mac == r.mac)

/-- A pairing: for each request in order its bough, if any; with the number paired and the sum of attenuations. -/
abbrev Pairing := List (Option Bough) × Nat × Nat

/-- The better of two pairings; the first at a tie (R184). -/
def betterPairing (p q : Pairing) : Pairing :=
  if p.2.1 < q.2.1 ∨ (p.2.1 = q.2.1 ∧ q.2.2 < p.2.2) then q else p

/-- The best pairing of requests to boughs not yet used, lower boughs tried first (R184). -/
def bestPairing (s : State) : List SlacReq → List Bough → Pairing
  | [], _ => ([], 0, 0)
  | r :: rs, used =>
    let without := bestPairing s rs used
    let withB := fun (b : Bough) =>
      let p := bestPairing s rs (b :: used)
      ((some b :: p.1, p.2.1 + 1, p.2.2 + r.atten[b]) : Pairing)
    let free := allBoughs.filter (fun b => mayTake s r b && !used.contains b)
    match free.map withB ++ [(none :: without.1, without.2.1, without.2.2)] with
    | [] => ([], 0, 0)
    | p :: ps => ps.foldl betterPairing p

/-- The least of a list of margins. -/
def leastMargin (xs : List Int) : Option Int := xs.foldl (fun m x => match m with | none => some x | some y => some (min x y)) none

/-- m1 and m2 of R184; m2 is none with no other request. -/
def margins (reqs : List SlacReq) (r : SlacReq) (x : Bough) : Int × Option Int :=
  let a := fun (q : SlacReq) (y : Bough) => (q.atten[y] : Int)
  ((leastMargin ((allBoughs.filter (· != x)).map (fun y => a r y - a r x))).getD 0,
   leastMargin ((reqs.filter (fun q => !isReq r.mac r.runId q)).map (fun q => a q x - a r x)))

/-- The smaller of m1 and m2. -/
def marginOf (m : Int × Option Int) : Int :=
  match m.2 with
  | some y => min m.1 y
  | none => m.1

/-- Event 0x0206. -/
def withheld (bough : Nat) (mac : List Byte) (reason : Nat) (s : State) : State :=
  emit 0x0206 bough (padTo 6 mac ++ leN 1 reason) s

/-- Boughs that could not be told apart for request r at bough x. -/
def involved (s : State) (pairs : List (SlacReq × Option Bough)) (r : SlacReq) (x : Bough) : List Bough :=
  let m : Int := fld s.vehSlacCfg 7 0
  let near := allBoughs.filter (fun y => y != x && candidate s y && decide ((r.atten[y] : Int) - r.atten[x] < m))
  let rivals := pairs.filterMap (fun (q, y) =>
    if !isReq r.mac r.runId q && decide ((q.atten[x] : Int) - r.atten[x] < m) then y else none)
  (x :: near ++ rivals).eraseDups

/-- The bough of a list that confirmed state B last. -/
def latestOf (s : State) : List Bough → Option Bough
  | [] => none
  | b :: bs => match latestOf s bs with
    | some c => if s.ports[b].confirmSeq < s.ports[c].confirmSeq then some c else some b
    | none => some b

/-- The stagger of R206: of the candidates involved that no request took, the later-confirmed one is held until the
earlier one is associated; its own STAGGER counts (DESIGN CHOICE, log entry 185). -/
def stagger (bs : List Bough) (s : State) : State :=
  let cands := bs.filter (fun b => candidate s b && s.ports[b].slac == 1)
  match latestOf s cands with
  | none => s
  | some held =>
    match latestOf s (cands.filter (· != held)) with
    | none => s
    | some first =>
      if bitOf (s.vehPortCfg held) 27 then
        emit 0x020C held.val (leN 1 first.val)
          (driveOutput held (s.onPort held (fun p => { p with slac := 5, awaits := some first })))
      else s

/-- The margins of a pairing suffice (R184). -/
def marginOk (s : State) (m : Int × Option Int) : Bool := decide ((fld s.vehSlacCfg 7 0 : Int) ≤ marginOf m)

/-- One pairing of the decision: the request assigned to bough x where its margins suffice (R184); heard is every request
of the window. -/
def assignReq (heard : List SlacReq) (p : SlacReq × Option Bough) (s : State) : State :=
  let r := p.1
  match p.2 with
  | none => s
  | some x =>
    let m := margins heard r x
    if marginOk s m then
      let s := onReq r.mac r.runId (fun q => { q with assigned := some x, margin := (marginOf m).toNat }) s
      sendParmCnf x (s.onPort x (fun p => { p with slac := 2 }))
    else s

/-- A request withheld: not paired (reason 4), or its margins do not suffice (reason 1), then with the stagger of R206. -/
def withholdReq (heard : List SlacReq) (pairs : List (SlacReq × Option Bough)) (p : SlacReq × Option Bough) (s : State) : State :=
  let r := p.1
  match p.2 with
  | none => withheld 255 r.mac 4 s
  | some x => if marginOk s (margins heard r x) then s else stagger (involved s pairs r x) (withheld x.val r.mac 1 s)

/-- DECISION_WINDOW_END (R184, R207): the requests heard in the window and not yet assigned are decided together. -/
def execDecisionWindowEnd (s : State) : Res :=
  let heard := s.assoc.reqs.filter (·.heardNow)
  let reqs := heard.filter (·.assigned.isNone)
  let pairs := reqs.zip (bestPairing s reqs []).1
  let s := pairs.foldl (fun t p => assignReq heard p t) s
  let s := pairs.foldl (fun t p => withholdReq heard pairs p t) s
  .next { s with assoc.reqs := s.assoc.reqs.map (fun r => { r with heardNow := false }) }

/-- CM_START_ATTEN_CHAR_IND (R183 step 7): sounding of an assigned request begins. -/
def execCmStartAttenCharInd (mac runId : List Byte) (atten : Vector (Option Nat) 8) (s : State) : Res :=
  match findReq s mac runId with
  | some { assigned := some b, .. } =>
    .next ((onReq mac runId (fun q => { q with
        startAtten := attens atten, sounds := [], profiles := [], heard := 0, confirmed := false }) s).onPort b
      (fun p => { p with slac := 3 }))
  | _ => .next s

/-- CM_MNBC_SOUND_IND (R182, R185, R208): erased is the share of erased carriers at each receiver in percent, groups the
assigned bough's attenuation groups; a sound invalid at any receiver counts at none. Ten sounds are taken. -/
def execCmMnbcSoundInd (mac runId : List Byte) (atten : Vector (Option Nat) 8) (erased : Vector Nat 8) (groups : Vector Nat 58)
    (s : State) : Res :=
  match findReq s mac runId with
  | some { assigned := some b, .. } =>
    if s.ports[b].slac != 3 then .next s
    else
      let valid := allBoughs.all (fun x => decide (erased[x] ≤ 25))
      .next (onReq mac runId (fun q => if q.heard < 10 then
        { q with heard := q.heard + 1, sounds := if valid then q.sounds ++ [attens atten] else q.sounds,
                 profiles := if valid then q.profiles ++ [groups] else q.profiles } else q) s)
  | _ => .next s

/-- Sum of the valid sounds at bough x. -/
def soundSum (r : SlacReq) (x : Bough) : Nat := (r.sounds.map (fun v => v[x])).sum

/-- The mean at the assigned bough is lower by CONFIRM_MARGIN than at every other (R185). -/
def soundsConfirm (s : State) (r : SlacReq) (x : Bough) : Bool :=
  let n := r.sounds.length
  allBoughs.all (fun y => y == x || decide (soundSum r x + fld s.vehSlacCfg 15 8 * n ≤ soundSum r y))

/-- An assignment released: the window stays open (R185). -/
def releaseReq (mac runId : List Byte) (b : Bough) (reason : Nat) (s : State) : State :=
  let s := onReq mac runId (fun q => { q with assigned := none, sounds := [], heard := 0 }) s
  withheld b.val mac reason (s.onPort b (fun p => { p with slac := if p.winOpen then 1 else 0 }))

/-- The profile of the assigned bough: the mean of each attenuation group over the valid sounds (R183). -/
def profileOf (r : SlacReq) : List Nat :=
  (List.finRange 58).map (fun g => (quot ((r.profiles.map (fun v => v[g])).sum : Nat) r.profiles.length).toNat)

/-- SOUNDING_END (R185): ATTEN is the mean of the valid sounds at the assigned bough (DESIGN CHOICE, log entry 186). The
assignment is confirmed or released. -/
def execSoundingEnd (mac runId : List Byte) (s : State) : Res :=
  match findReq s mac runId with
  | some r =>
    match r.assigned with
    | none => .next s
    | some b =>
      if s.ports[b].slac != 3 then .next s
      else if r.sounds.length < 5 then .next (releaseReq mac runId b 3 s)
      else if !soundsConfirm s r b then .next (releaseReq mac runId b 2 s)
      else
        let mean := (quot (soundSum r b) r.sounds.length).toNat
        let s := (onReq mac runId (fun q => { q with confirmed := true }) s).onPort b (fun p => { p with atten := mean })
        .next (reply b (.attenCharInd (profileOf r)) s)
  | none => .next s

/-- The association of bough b with a vehicle under a new NMK (R183 steps 9 and 10, R188); the DSP sets the variable
fields of the front end's templates to the new network (R44). -/
def associate (b : Bough) (r : SlacReq) (s : State) : State :=
  let nmk := leN 16 (Config.random s.freeCount).toNat
  let s := { s with freeCount := s.freeCount + 1,
                    assoc.reqs := s.assoc.reqs.filter (fun q => !isReq r.mac r.runId q) }
  let nid := leN 7 (Config.nidOfNmk nmk).toNat
  let s := s.onLink b (fun l => { bursts := l.bursts, burstMs := l.burstMs, transmitting := l.transmitting,
                                  template := nid, reply := some (.slacMatchCnf nid nmk) })
  let s := s.onPort b (fun p => { p with
    slac := 4, mac := padTo 6 r.mac, nmk := nmk, nid := nid, margin := r.margin, retx := 0, proto := 0, tls := false })
  let s := closeWindow b s
  emit 0x0205 b.val (padTo 6 r.mac ++ leN 1 s.ports[b].atten ++ leN 1 r.margin) s

/-- CM_SLAC_MATCH_REQ (R183 step 9): only a confirmed assignment is answered, and only while random output is given
(R575). -/
def execCmSlacMatchReq (mac runId : List Byte) (s : State) : Res :=
  match findReq s mac runId with
  | some r =>
    match r.assigned with
    | some b => .next (if r.confirmed && s.crypto.drbgOk then associate b r s else s)
    | none => .next s
  | none => .next s

/-- The bough answers matching messages: a request is assigned to it (R186). -/
def answersMatching (s : State) (b : Bough) : Bool := [2, 3, 4].contains s.ports[b].slac

/-- CM_VALIDATE_REQ (R187). -/
def execCmValidateReq (b : Bough) (count : Nat) (s : State) : Res :=
  if !answersMatching s b then .next s
  else if bitOf s.vehSlacCfg 31 then
    .next (s.onLink b (fun l => { l with
      validating := true, valCount := count, toggles := Vector.replicate 8 0,
      togglePh := Vector.ofFn (fun (x : Bough) => togglePhase 0 s.ports[x].state), reply := some (.validate 1) }))
  else .next (reply b (.validate 4) s)

/-- VALIDATE_COUNT_END (R187): success when only the assigned bough shows the requested count. -/
def execValidateCountEnd (b : Bough) (s : State) : Res :=
  if !s.links[b].validating then .next s
  else
    let l := s.links[b]
    let ok := allBoughs.all (fun x => (l.toggles[x] == l.valCount) == (x == b))
    .next (s.onLink b (fun l => { l with validating := false, reply := some (.validate (if ok then 2 else 3)) }))

/-- SLAC_WINDOW_EXPIRED (R181, R183): event 0x0207; with BASIC = 1 the port goes on with current by PWM. A held bough's
window is extended (R206). -/
def execSlacWindowExpired (b : Bough) (s : State) : Res :=
  if !s.ports[b].winOpen || s.ports[b].slac = 5 then .next s
  else
    let s := { s with assoc.reqs := s.assoc.reqs.filter (fun r => r.assigned != some b) }
    let basic := bitOf (s.vehPortCfg b) 29
    let s := emit 0x0207 b.val [] ((closeWindow b s).onPort b (fun p => { p with fallback := p.fallback || basic }))
    .next (driveOutput b s)

/-- STAGGER_RELEASE (R206 step 2): 3 s have passed. The association or the window's close of the bough awaited releases it
earlier. -/
def execStaggerRelease (b : Bough) (s : State) : Res :=
  if s.ports[b].slac = 5 then .next (driveOutput b (s.onPort b (fun p => { p with slac := 1, awaits := none })))
  else .next s

/-! ## Modem frames (R52, R204, R205) -/

/-- Ten seconds have passed since the last event 0x0209, or there was none. -/
def burstDue (s : State) (b : Bough) : Bool :=
  match s.links[b].burstMs with
  | some t => decide (t + 10000 ≤ s.lat.ms)
  | none => true

/-- Event 0x0209, at most one in 10 s (R203, R204). -/
def noteBurst (b : Bough) (s : State) : State :=
  let n := s.links[b].bursts + 1
  if burstDue s b then emit 0x0209 b.val (leN 4 n) (s.onLink b (fun l => { l with bursts := 0, burstMs := some s.lat.ms }))
  else s.onLink b (fun l => { l with bursts := n })

/-- The receive crossing buffer of bough b, 8 KiB, takes one symbol of 3,072 bytes (R51, R61). -/
def noteVrx (b : Bough) (s : State) : State :=
  let fill := min 8192 (s.trunk.vrxFill[b] + 3072)
  let s := { s with trunk.vrxFill := s.trunk.vrxFill.set b fill }
  if s.trunk.vrxPeak < fill / 32 then { s with trunk.vrxPeak := fill / 32, trunk.vrxPeakId := b.val } else s

/-- Blocks placed in their original positions; a duplicate is discarded (R204). -/
def placeBlocks (have_ : List (Nat × List Byte)) (bs : List RxBlock) : List (Nat × List Byte) :=
  bs.foldl (fun m x => if x.ok && !m.any (fun e => e.1 == x.seq) then m ++ [(x.seq, x.data)] else m) have_

/-- The impulse detector marks a sample whose magnitude exceeds four times the RMS of the last symbol, of n samples with
the sum of squares sq (R204). -/
def impulseMark (sq n : Nat) (x : Int) : Bool := decide (16 * sq < x.natAbs * x.natAbs * n) && n != 0

/-- A symbol as the port decodes it: its marked samples zeroed (R204). -/
def zeroMarked (sq n : Nat) (xs : List Int) : List Int := xs.map (fun x => if impulseMark sq n x then 0 else x)

/-- One symbol of a frame being received: whether its carrier values are erased, and the running RMS. -/
def takeSymbol (b : Bough) (xs : List Int) (s : State) : State :=
  s.onLink b (fun l =>
    let ys := zeroMarked l.symSq l.symN xs
    { l with rxErased := l.rxErased ++ [xs.any (impulseMark l.symSq l.symN)],
             symSq := (ys.map (fun y => y.natAbs * y.natAbs)).sum, symN := ys.length })

/-- MODEM_FRAME_RECEIVED (R204): the symbols' samples, and what decoding gave. Without frame control there is no
acknowledgement. -/
def execModemFrameReceived (b : Bough) (symbols : List (List Int)) (fcOk : Bool) (blocks : List RxBlock) (s : State) : Res :=
  let s := (noteVrx b s).onLink b (fun l => { l with rxErased := [] })
  let s := symbols.foldl (fun t xs => takeSymbol b xs t) s
  let s := if s.links[b].rxErased.any id then noteBurst b s else s
  if !fcOk then .next s
  else
    let bad := (blocks.filter (fun x => !x.ok)).map (·.seq)
    .next (s.onLink b (fun l => { l with rxBlocks := placeBlocks l.rxBlocks blocks, ackFailed := bad }))

/-- Event 0x0208 for a block sent n times (R205). -/
def abandonBlock (b : Bough) (n : Nat) (s : State) : State := emit 0x0208 b.val (leN 4 n) s

/-- SELECTIVE_ACK_RECEIVED (R205): a new frame of the failed blocks only. RETX counts the blocks that this port resends
(DESIGN CHOICE, log entry 187). -/
def execSelectiveAckReceived (b : Bough) (failed : List Nat) (s : State) : Res :=
  let back := s.links[b].txBlocks.filter (fun x => failed.contains x.seq)
  let again := (back.filter (fun x => decide (x.attempts < 4))).map (fun x => { x with attempts := x.attempts + 1 })
  let gone := back.filter (fun x => decide (4 ≤ x.attempts))
  let s := gone.foldl (fun t x => abandonBlock b x.attempts t) s
  let s := s.onPort b (fun p => { p with retx := min 255 (p.retx + again.length) })
  .next (s.onLink b (fun l => { l with
    txBlocks := again, resend := !again.isEmpty, txWaiting := !again.isEmpty, txSymbols := 0, transmitting := false }))

/-- The pilot stands in states B to D: the state is confirmed and the last plateau still counts for one of them (R209). -/
def pilotIn (s : State) (b : Bough) : Bool :=
  plugged s b && (match classifyPlateau s.ports[b].state s.ports[b].posMv with
    | some .B | some .C | some .D => true
    | _ => false)

/-- A vehicle modem's frame: it starts only once every symbol is built in the buffer of 128 slots, and not once the pilot
has left states B to D (R52, R176, R209). A frame of failed blocks holds no other (R205). -/
def startFrame (b : Bough) (symbols built : Nat) (blocks : List TxBlock) (s : State) : State :=
  let s := s.onLink b (fun l =>
    let known := fun (x : TxBlock) => l.txBlocks.any (fun e => e.seq == x.seq) || l.waitBlocks.any (fun e => e.seq == x.seq)
    let wait := l.waitBlocks ++ blocks.filter (fun x => !known x)
    if l.resend then { l with waitBlocks := wait, txSymbols := min built 128 }
    else { l with txBlocks := l.txBlocks ++ wait.map (fun x => { seq := x.seq, attempts := 1, data := x.data }),
                  waitBlocks := [], txSymbols := min built 128 })
  let go := decide (symbols ≤ 128) && decide (symbols ≤ built) && pilotIn s b
  s.onLink b (fun l => { l with transmitting := go, txWaiting := !go, resend := l.resend && !go })

/-! ## Protocol dialogue (R189 to R195) -/

/-- The bough is associated and its session core runs: its link is usable (R67, R183). -/
def linked (s : State) (b : Bough) : Bool := s.ports[b].slac == 4 && coreAlive s b

/-- f where the link is usable; no answer otherwise. -/
def onLinked (b : Bough) (s : State) (f : State → State) : Res := if linked s b then .next (f s) else .next s

/-- A response of the dialogue; the next one after a stop carries the stop (R216). -/
def respond (b : Bough) (r : Reply) (s : State) : State :=
  let n := s.sesL[b].notify
  if s.ses[b].state == .stopping && n != 0 && n != 4 then
    reply b (.stopNotice n) (s.onSesL b (fun l => { l with notify := 0 }))
  else reply b r s

/-- SECC_DISCOVERY_REQ (R189): over IPv6 link-local addresses and UDP port 15118 alone. -/
def execSeccDiscoveryReq (b : Bough) (linkLocal : Bool) (udpPort : Nat) (s : State) : Res :=
  if linkLocal && udpPort == 15118 then onLinked b s (reply b .sdpResponse) else .next s

/-- ISO 15118-2 runs over TLS: the vehicle asks for it, or TLS_POLICY is 1 (R189, R198). -/
def iso2Tls (s : State) (b : Bough) (tlsAsked : Bool) : Bool := tlsAsked || fld (s.vehModemCfg b) 1 0 == 1

/-- The cipher suite for a protocol over TLS, from the vehicle's list in the order of R189. -/
def suiteFor (p : Proto) (suites : List Cipher) : Option Cipher :=
  match p with
  | .iso20 => [Cipher.aes256Gcm].find? suites.contains
  | .iso2 => [Cipher.ecdheAes128Cbc, Cipher.ecdhAes128Cbc].find? suites.contains
  | .din => none

/-- A protocol over TLS needs the SECC keys, which the operator root gives, and a suite in common (R189, R572, R581). -/
def tlsPossible (s : State) (p : Proto) (suites : List Cipher) : Bool := (s.rootOf 1).isSome && (suiteFor p suites).isSome

/-- A protocol of the vehicle's list that VEH_MODEM_CFG enables and that the device can run: DIN SPEC 70121 for DC alone
(R189, R194). -/
def protoOk (s : State) (b : Bough) (list : List Proto) (tlsAsked : Bool) (suites : List Cipher) (p : Proto) : Bool :=
  (match p with
   | .iso20 => tlsPossible s .iso20 suites
   | .iso2 => !iso2Tls s b tlsAsked || tlsPossible s .iso2 suites
   | .din => isDC s b) &&
  list.contains p && bitOf (s.vehModemCfg b) (match p with | .iso20 => 10 | .iso2 => 9 | .din => 8)

/-- SUPPORTED_APP_PROTOCOL (R189): ISO 15118-20, then ISO 15118-2, then DIN SPEC 70121. A bough has one TCP connection; a
message on another is not served. -/
def execSupportedAppProtocol (b : Bough) (conn : Nat) (list : List Proto) (tlsAsked : Bool) (suites : List Cipher)
    (s : State) : Res :=
  onLinked b s fun s =>
    if s.links[b].conn.any (· != conn) then s
    else
      let s := s.onLink b (fun l => { l with conn := some conn })
      match [Proto.iso20, Proto.iso2, Proto.din].find? (protoOk s b list tlsAsked suites) with
      | none => reply b .failed s
      | some p =>
        let (n, tls) := match p with
          | .iso20 => (3, true)
          | .iso2 => (2, iso2Tls s b tlsAsked)
          | .din => (1, false)
        let s := s.onPort b (fun x => { x with proto := n, tls := tls })
        let s := s.onLink b (fun l => { l with cipher := if tls then suiteFor p suites else none })
        reply b .protocolChosen (emit 0x020B b.val (leN 1 n ++ leN 1 (b2n tls)) s)

/-- A request is part of the agreed protocol and of the bough's kind (R192 to R194). -/
def supported (s : State) (b : Bough) (r : V2G) : Bool :=
  let p := s.ports[b].proto
  let dc := isDC s b
  match r with
  | .sessionSetup | .serviceDiscovery | .authorization | .chargeParameters _ _ => p != 0
  | .authorizationSetup => p == 3
  | .certificateUpdate => p == 2
  | .serviceDetail svc => (p == 2 && svc == 2) || (p == 3 && [1, 2, 5, 6].contains svc)
  | .serviceSelection svc mobility =>
    ((p == 1 || p == 2) && svc == 1) || (p == 2 && svc == 2)
      || (p == 3 && (if dc then [2, 6] else [1, 5]).contains svc && [1, 2].contains mobility)
  | .paymentSelection contract => p != 0 && !(p == 1 && contract)
  | .scheduleExchange _ => p == 3
  | .preCharge _ _ | .weldingDetection => dc && p != 0
  | .chargeLoop _ _ => p == 3 || (dc && p != 0)
  | .chargingStatus => p == 2 && !dc
  | .meteringReceipt => p == 2 || p == 3
  | .notSupported => false

/-- Targets of the vehicle: a negative current asks for discharge, which is refused where R232 does not permit it. -/
def setTargets (b : Bough) (mv ma : Int) (s : State) : State :=
  withRequest b (fun s =>
    let out := decide (ma < 0) && mayDischarge s b
    s.onSesL b (fun l => { l with targetV := mv, targetI := if ma < 0 && !out then 0 else ma, discharge := out })) s

/-- A service chosen; a BPT service only where discharge is permitted (R193, R232). -/
def chooseService (b : Bough) (svc mobility : Nat) (s : State) : State :=
  let bpt := s.ports[b].proto == 3 && (svc == 5 || svc == 6)
  let t := withRequest b (fun t => t.onLink b (fun l => { l with service := svc, bpt := bpt, mobility := mobility })) s
  if bpt && !mayDischarge t b then respond b .failed s else respond b .ok t

/-- The schedules that the device offers: one unlimited entry under DIN SPEC 70121, else up to 3 tuples of up to 24 power
entries, whose contents the spec does not give (R192 to R194; log entry 188). -/
def offeredSchedules (s : State) (b : Bough) : List (List (Option Nat)) :=
  if s.ports[b].proto = 1 then [[none]]
  else ((Config.schedules b s.lat.ms).take 3).map (fun t => (t.take 24).map some)

/-- A certificate request: relayed to the host, or answered FAILED without one (R192). -/
def relayCertificate (b : Bough) (s : State) : State := respond b (if bitOf s.sesAuthCfg 31 then .ongoing else .failed) s

/-- What a supported request does, and its answer. -/
def serveV2g (b : Bough) (r : V2G) (s : State) : State :=
  match r with
  | .sessionSetup =>
    let s := s.onLink b (fun l => { l with setup := true })
    let s := if bitOf s.sesAuthCfg 30 then offerIdent b { kind := 3, bytes := s.ports[b].mac } s else s
    respond b .ok s
  | .serviceSelection svc mobility => chooseService b svc mobility s
  | .certificateUpdate => relayCertificate b s
  | .paymentSelection contract =>
    respond b .ok (tryHeld b 5 (s.onLink b (fun l => { l with pnc := contract, payKnown := true })))
  | .authorization => respond b (if authorised s.ses[b].state then .ok else .ongoing) s
  | .chargeParameters maxW minW =>
    let s := withRequest b (fun s => s.onSesL b (fun l => { l with hasMax := true, vehMax := maxW, vehMin := minW })) s
    respond b (if s.ports[b].proto = 3 then .ok else .schedules (offeredSchedules s b)) s
  | .scheduleExchange dyn =>
    respond b (.schedules (offeredSchedules s b)) (withRequest b (fun s => s.onSesL b (fun l => { l with dynamic := dyn })) s)
  | .preCharge mv ma => respond b .ok (setTargets b mv ma s)
  | .chargeLoop mv ma => respond b .ok (setTargets b mv ma s)
  | .authorizationSetup | .serviceDiscovery | .serviceDetail _ | .chargingStatus | .meteringReceipt | .weldingDetection | .notSupported =>
    respond b .ok s

/-- V2G_REQUEST (R190, R192 to R194). -/
def execV2gRequest (b : Bough) (r : V2G) (s : State) : Res :=
  onLinked b s fun s => if supported s b r then serveV2g b r s else respond b .failed s

/-- PAYMENT_DETAILS_REQ (R217, R218): the eMAID without its separators, decided under R218. DIN SPEC 70121 has external
payment only; a chain verifies only against record 0x3100, with at most two sub-CAs. -/
def execPaymentDetailsReq (b : Bough) (emaid : List Byte) (subCas : Nat) (chainOk inDate : Bool) (s : State) : Res :=
  onLinked b s fun s =>
    if s.ports[b].proto < 2 then respond b .failed s
    else
      let bytes := emaid.filter (fun c => c != 0x2D && c != 0x20)
      let anchored := chainOk && decide (subCas ≤ 2) && (tableOf s 0x3100).isSome
      let s := offerIdent b { kind := 1, bytes := bytes, chainOk := anchored, inDate := inDate } s
      respond b (if authorised s.ses[b].state then .ok else if s.ses[b].state == .authorising then .ongoing else .failed) s

/-- CABLE_CHECK_REQ (R214): an authorised DC session enters ENERGISING; the answer carries the isolation status when there
is one (R261, R747). -/
def execCableCheckReq (b : Bough) (s : State) : Res :=
  onLinked b s fun s =>
    let s := if isDC s b && s.ses[b].state == .authorised then energise b (s.onSaf b (fun f => { f with isolation := 0 })) else s
    if !isDC s b || s.ports[b].proto = 0 then respond b .failed s
    else
      let r := s.saf[b].isolation
      respond b (if r = 0 then .ongoing else .isolation (isolationStatus s b r)) s

/-- POWER_DELIVERY_REQ (R214, R215). -/
def execPowerDeliveryReq (b : Bough) (k : PowerDelivery) (s : State) : Res :=
  onLinked b s fun s =>
    match k with
    | .start => respond b .ok (resume b s)
    | .stop => respond b .ok (stopTransfer b 0x01 s)
    | .stopRenegotiate => respond b .ok (suspend b s)
    | .pause => respond b .ok (suspend b s)

/-- SESSION_STOP_REQ (R215). -/
def execSessionStopReq (b : Bough) (s : State) : Res := onLinked b s fun s => respond b .ok (stopTransfer b 0x01 s)

/-- CERTIFICATE_INSTALLATION_REQ (R192, R193): ISO 15118-2 and ISO 15118-20 alone have it. -/
def execCertificateInstallationReq (b : Bough) (s : State) : Res :=
  onLinked b s fun s => if s.ports[b].proto < 2 then respond b .failed s else relayCertificate b s

/-- A timer of R195 counts on bough b: communication setup until SessionSetup, ready-to-charge under ISO 15118-2 and DIN
SPEC 70121; the retention of the oscillator ends nothing, since 5 % duty stands until state A (R172). -/
def timerCounts (s : State) (b : Bough) (k : V2gTimer) : Bool :=
  match k with
  | .sequence | .cpStateDetection => true
  | .communicationSetup => !s.links[b].setup
  | .readyToCharge => s.ports[b].proto == 1 || s.ports[b].proto == 2
  | .cpOscillatorRetain => false

/-- V2G_TIMER_EXPIRED (R195, R215). -/
def execV2gTimerExpired (b : Bough) (k : V2gTimer) (s : State) : Res :=
  onLinked b s fun s => if timerCounts s b k then stopTransfer b 0x08 s else s

end Sys2Proof.Machine
end

