-- ==== Sys2Proof/Machine/EnergyCore.lean ====
section
/-! DEFINITION. The energy engine (R349 to R361): one sample, one cycle, one block. Energies are whole numbers in units
of 1/(2^18 · 10^26) pip, in which the AC terms of R358 carry a factor 10^6. -/

namespace Sys2Proof.Machine

/-- An M sample as its frame word gives it: VALUE, OVR, FAIL, SET (R311). -/
abbrev MWord := Int × Bool × Bool × Bool

/-- The word of channel n. -/
def wordAt (ws : List MWord) (n : Nat) : MWord := ws.getD n (0, false, true, false)

/-- A sample that metering does not use: FAIL or SET (R360). -/
def wordBad (w : MWord) : Bool := w.2.2.1 || w.2.2.2

/-- FS_VAL of local channel n of bough b. -/
def fsVal (s : State) (b : Bough) (n : Nat) : Nat := (s.mtrFs (24 * b.val + n)).toNat

/-- Units of one pip. -/
def pipUnits : Nat := 2 ^ 18 * 10 ^ 26

/-- Units of one W sample: the sum over samples divided by this and their number is a mean in W. -/
def wattUnits : Nat := 2 ^ 46 * 10 ^ 18

def allPhases : List (Fin 3) := [0, 1, 2]

/-- A phase is in use; a DC bough has one (R349, R350). -/
def phaseUsed (s : State) (b : Bough) (x : Fin 3) : Bool :=
  x == 0 || (!s.nrg[b].isDC && fld (s.nrgBoughCfg b) 30 29 != 1)

/-- Local channels of a phase's voltage and current (R349, R350). -/
def voltCh (dc : Bool) (x : Fin 3) : Nat := if dc then 8 else x.val
def ampCh (dc : Bool) (x : Fin 3) : Nat := if dc then 9 else x.val + 3

/-- p of a phase at one sample (R349, R350). -/
def samplePower (s : State) (b : Bough) (ws : List MWord) (x : Fin 3) : Int :=
  let dc := s.nrg[b].isDC
  let v := (wordAt ws (voltCh dc x)).1
  let i := (wordAt ws (ampCh dc x)).1
  let f := (fsVal s b (voltCh dc x) * fsVal s b (ampCh dc x) : Nat)
  let r := (fld (s.nrgBoughCfg b) 19 0 * fsVal s b 9 * fsVal s b 9 : Nat)
  v * i * f * 10 ^ 6 - (if dc then i * i * r else 0)

/-- Loss of a DC sample (R350). -/
def sampleLoss (s : State) (b : Bough) (ws : List MWord) : Int :=
  let i := (wordAt ws 9).1
  if s.nrg[b].isDC then i * i * (fld (s.nrgBoughCfg b) 19 0 * fsVal s b 9 * fsVal s b 9 : Nat) else 0

/-- v[n − D] from the history, newest first, D in 1/256 sample: the sample itself where D is whole (R349). -/
def backSample (hist : List Int) (d : Nat) : Int :=
  if d % 256 = 0 then hist.getD (d / 256) 0 else Config.interpolate hist d

/-- q of a phase: the voltage a quarter of the last cycle ago, from its history (R349). -/
def sampleReactive (s : State) (b : Bough) (ws : List MWord) (x : Fin 3) : Int :=
  if s.nrg[b].isDC then 0
  else
    let v := backSample s.avg[b].vHist[x] (quot s.nrg[b].period 4).toNat
    v * (wordAt ws (x.val + 3)).1 * (fsVal s b x.val * fsVal s b (x.val + 3) : Nat) * 10 ^ 6

/-- s of a phase: the product of the last cycle's RMS values (R349). -/
def sampleApparent (s : State) (b : Bough) (x : Fin 3) : Int :=
  if s.nrg[b].isDC then 0
  else (s.avg[b].uRms[x] * s.avg[b].iRms[(⟨x.val, by omega⟩ : Fin 4)] * 2 ^ 46 * 10 ^ 6 : Nat)

/-- Substitution runs too long for phase x to count energy (R360). -/
def noEnergy (s : State) (b : Bough) (x : Fin 3) : Bool := decide (2441 < s.nrg[b].sub[x]) || s.nrg[b].gapPh[x]

/-- The closing of a phase's metering gap, event 0x0603 with its length in samples (R360). -/
def closeGap (b : Bough) (x : Fin 3) (s : State) : State :=
  if s.nrg[b].gapPh[x] then
    let len := s.nrg[b].sub[x] - 2441
    let s := s.onNrg b (fun e => { e with gapPh := e.gapPh.set x false })
    emit 0x0603 b.val (leN 1 0 ++ leN 4 len) (s.onNrg b (fun e => { e with gap := e.gapPh.any id }))
  else s

/-- The sums of a phase take p, q and s. -/
def addPhase (b : Bough) (x : Fin 3) (p q ap : Int) (s : State) : State :=
  let s := s.onNrg b (fun e => { e with eS := e.eS + ap })
  s.onAvg b (fun a => { a with
    sP := modAt a.sP x (· + p), sQ := modAt a.sQ x (· + q), secP := a.secP + p, secQ := a.secQ + q, secS := a.secS + ap })

/-- The squares of a phase for its RMS values. -/
def addSquares (b : Bough) (x : Fin 3) (ws : List MWord) (s : State) : State :=
  let dc := s.nrg[b].isDC
  let v := (wordAt ws (voltCh dc x)).1.natAbs
  let i := (wordAt ws (ampCh dc x)).1.natAbs
  let y : Fin 4 := ⟨x.val, by omega⟩
  s.onAvg b (fun a => { a with
    sqU := modAt a.sqU x (· + v * v), sqI := modAt a.sqI y (· + i * i), nOk := modAt a.nOk y (· + 1),
    secSqU := modAt a.secSqU x (· + v * v), secSqI := modAt a.secSqI y (· + i * i), secOk := modAt a.secOk y (· + 1) })

/-- A valid sample of phase x. -/
def goodPhase (b : Bough) (ws : List MWord) (x : Fin 3) (s : State) : State :=
  let s := closeGap b x s
  let s := s.onNrg b (fun e => { e with sub := e.sub.set x 0 })
  let ovr := (wordAt ws (voltCh s.nrg[b].isDC x)).2.1 || (wordAt ws (ampCh s.nrg[b].isDC x)).2.1
  let s := s.onNrg b (fun e => { e with runOvr := e.runOvr || ovr, kindOvr := e.kindOvr.map (· || ovr) })
  let s := s.onAvg b (fun a => { a with sL := a.sL + (if x = 0 then sampleLoss s b ws else 0) })
  addSquares b x ws (addPhase b x (samplePower s b ws x) (sampleReactive s b ws x) (sampleApparent s b x) s)

/-- A sample of phase x replaced by the means of the last cycle (R360). -/
def substPhase (b : Bough) (x : Fin 3) (s : State) : State :=
  let s := s.onNrg b (fun e => { e with sub := modAt e.sub x (· + 1), subMask := e.subMask ||| (1 <<< x.val) })
  if noEnergy s b x then s
  else
    let a := s.avg[b]
    let s := s.onAvg b (fun a => { a with sL := a.sL + (if x = 0 then a.mL else 0) })
    addPhase b x a.mP[x] a.mQ[x] (sampleApparent s b x) s

/-- One phase of one sample. -/
def takePhase (b : Bough) (ws : List MWord) (x : Fin 3) (s : State) : State :=
  let dc := s.nrg[b].isDC
  if !phaseUsed s b x then s
  else if wordBad (wordAt ws (voltCh dc x)) || wordBad (wordAt ws (ampCh dc x)) then substPhase b x s
  else goodPhase b ws x s

/-- A phase of the sample is substituted. -/
def anyBad (s : State) (b : Bough) (ws : List MWord) : Bool :=
  let dc := s.nrg[b].isDC
  allPhases.any (fun x => phaseUsed s b x && (wordBad (wordAt ws (voltCh dc x)) || wordBad (wordAt ws (ampCh dc x))))

/-- The neutral current, the DC channels and the voltage histories of one sample. -/
def takeRest (b : Bough) (ws : List MWord) (s : State) : State :=
  let i := (wordAt ws 6).1.natAbs
  let ok := !wordBad (wordAt ws 6)
  s.onAvg b (fun a => { a with
    vHist := Vector.ofFn (fun (x : Fin 3) => ((wordAt ws x.val).1 :: a.vHist[x]).take 256),
    sqI := modAt a.sqI 3 (· + (if ok then i * i else 0)), nOk := modAt a.nOk 3 (· + b2n ok),
    bDC := Vector.ofFn (fun (k : Fin 3) => a.bDC[k] + (wordAt ws (8 + k.val)).1),
    secSqI := modAt a.secSqI 3 (· + (if ok then i * i else 0)), secOk := modAt a.secOk 3 (· + b2n ok),
    secDC := Vector.ofFn (fun (k : Fin 3) => a.secDC[k] + (wordAt ws (8 + k.val)).1),
    secN := a.secN + 1 })

/-- One sample of the energy engine: power at the sample and substitution (R349, R350, R360). -/
def engineSample (b : Bough) (ws : List MWord) (s : State) : State :=
  let bad := anyBad s b ws
  let s := allPhases.foldl (fun t x => takePhase b ws x t) s
  let s := takeRest b ws s
  s.onNrg b (fun e => { e with
    n := e.n + 1, crossN := e.crossN + 1, runSubst := e.runSubst || bad, subSec := e.subSec + b2n bad,
    subTotal := min 0xFFFFFFFF (e.subTotal + b2n bad) })

/-- n missing samples: FAIL on every phase (R360). -/
def missingSamples (b : Bough) : Nat → State → State
  | 0, s => s
  | n + 1, s => missingSamples b n (engineSample b [] s)

/-! ## Results (R361) -/

/-- A mean power in W, saturated to 32 bits. -/
def meanWatts (sum : Int) (n : Nat) : Int := clampI (-(2 ^ 31)) (2 ^ 31 - 1) (quot sum (n * wattUnits))

/-- Register r of the engine. -/
def pipCount (s : State) (b : Bough) (r : Fin 6) : BitVec 64 := s.nrg[b].reg[r].count

/-- The result of one sample tick, held for the heartwood gate: it supersedes any result held back (R65, R361). -/
def sendResult (b : Bough) (seq : Nat) (s : State) : State :=
  let k : Fin 2 := ⟨seq % 2, by omega⟩
  let e := s.nrg[b]
  let flags := b.val + 8 * k.val + 16 * b2n (e.sub.any (· != 0)) + 32 * b2n e.gap + 64 * b2n e.kindOvr[k] + 128 * b2n e.noGrid
  let r : EngResult := if k = 0 then
      { seq := seq, flags := BitVec.ofNat 8 flags, totalA := pipCount s b 0, totalB := pipCount s b 1,
        totalC := pipCount s b 2, aux := BitVec.ofInt 32 e.lastP }
    else
      { seq := seq, flags := BitVec.ofNat 8 flags, totalA := pipCount s b 3, totalB := pipCount s b 4,
        totalC := pipCount s b 5, aux := BitVec.ofNat 32 e.subTotal }
  let s := s.onNrg b (fun e => { e with kindOvr := e.kindOvr.set k false })
  s.onBil b (fun x => { x with heldRes := x.heldRes.set k (some r) })

/-- The engine takes a sample frame with its SEQ: missing samples first (R360). It takes frames once P5 has restored the
registers (R326). -/
def engineFrame (b : Bough) (seq : Nat) (ws : List MWord) (s : State) : State :=
  if s.start.done < 6 then s
  else
    let lost := match s.nrg[b].lastSeq with
      | some l => (seq + 2 ^ 24 - l - 1) % 2 ^ 24
      | none => 0
    let s := engineSample b ws (missingSamples b lost s)
    sendResult b seq (s.onNrg b (fun e => { e with lastSeq := some seq }))

/-! ## Cycle end (R357) -/

/-- Energy counted into register r (R357, R358); event 0x0604 when it wraps. -/
def countReg (b : Bough) (r : Fin 6) (units : Nat) (s : State) : State :=
  let p := s.nrg[b].reg[r]
  let t := p.residue + units
  let c := p.count.toNat + t / pipUnits
  let s := s.onNrg b (fun e => { e with reg := e.reg.set r { count := BitVec.ofNat 64 c, residue := t % pipUnits } })
  if 2 ^ 64 ≤ c then emit 0x0604 b.val (leN 1 r.val) s else s

/-- A net energy counted into the register of its sign. -/
def countNet (b : Bough) (pos neg : Fin 6) (e : Int) (s : State) : State :=
  if 0 < e then countReg b pos e.toNat s else if e < 0 then countReg b neg (-e).toNat s else s

/-- Ten seconds have passed since the last event 0x0607, or there was none. -/
def dirDue (s : State) (b : Bough) : Bool :=
  match s.nrg[b].dirMs with
  | some t => decide (t + 10000 ≤ s.lat.ms)
  | none => true

/-- Event 0x0607, at most one in 10 s (R381). -/
def noteDir (b : Bough) (exp : Bool) (s : State) : State :=
  let s := s.onNrg b (fun e => { e with dirExp := exp })
  if dirDue s b then emit 0x0607 b.val (leN 1 (b2n exp)) (s.onNrg b (fun e => { e with dirMs := some s.lat.ms })) else s

/-- The direction of a cycle's net active energy. -/
def takeDir (b : Bough) (e : Int) (s : State) : State :=
  if e = 0 ∨ s.nrg[b].dirExp = decide (e < 0) then s else noteDir b (decide (e < 0)) s

/-- The RMS of n samples with a sum of squares in counts, in 10⁻⁶ of the channel's unit of R307. -/
def rmsMicro (sq n fs : Nat) : Nat := rms (sq * fs * fs) (n * 2 ^ 46)

/-- The reference threshold of R352, on counts (R745). -/
def aboveNoGrid (s : State) (sq n : Nat) : Bool := decide (n * (fld s.nrgDevCfg 15 8 * 2 ^ 23) ^ 2 ≤ sq * 10000)

/-- The cycle's RMS values and means; a cycle without an unsubstituted sample repeats the values before (R355, R360). -/
def cycleMeans (b : Bough) (s : State) : State :=
  let e := s.nrg[b]
  let dc := e.isDC
  let fs := fsVal s b
  let a := s.avg[b]
  let u : Vector Nat 3 := Vector.ofFn (fun (x : Fin 3) =>
    let n := a.nOk[(⟨x.val, by omega⟩ : Fin 4)]
    if n = 0 then a.uRms[x] else rmsMicro a.sqU[x] n (fs (voltCh dc x)))
  let ok : Vector Bool 3 := Vector.ofFn (fun (x : Fin 3) =>
    let n := a.nOk[(⟨x.val, by omega⟩ : Fin 4)]
    if n = 0 then a.uOk[x] else aboveNoGrid s a.sqU[x] n)
  let i : Vector Nat 4 := Vector.ofFn (fun (x : Fin 4) =>
    if a.nOk[x] = 0 then a.iRms[x] else rmsMicro a.sqI[x] a.nOk[x] (fs (if dc && x != 3 then 9 else x.val + 3)))
  let mean := fun (t : Int) (old : Int) => if e.n = 0 then old else quot t e.n
  s.onAvg b (fun a => { a with
    uRms := u, uOk := ok, iRms := i, mL := mean a.sL a.mL,
    mP := Vector.ofFn (fun (x : Fin 3) => mean a.sP[x] a.mP[x]),
    mQ := Vector.ofFn (fun (x : Fin 3) => mean a.sQ[x] a.mQ[x]) })

/-- The cycle's sums pass into the block's and start again. -/
def foldCycle (b : Bough) (s : State) : State :=
  let e := s.nrg[b]
  let s := s.onAvg b (fun a => { a with
    bP := a.bP + a.sP.toList.sum, bQ := a.bQ + a.sQ.toList.sum, bS := a.bS + e.eS, bN := a.bN + e.n,
    bSqU := Vector.zipWith (· + ·) a.bSqU a.sqU, bSqI := Vector.zipWith (· + ·) a.bSqI a.sqI,
    bOk := Vector.zipWith (· + ·) a.bOk a.nOk,
    sP := Vector.replicate 3 0, sQ := Vector.replicate 3 0, sL := 0, sqU := Vector.replicate 3 0,
    sqI := Vector.replicate 4 0, nOk := Vector.replicate 4 0 })
  s.onNrg b (fun e => { e with eS := 0, n := 0, cycles := if e.n = 0 then e.cycles else e.cycles + 1 })

/-- The reference channel, re-selected at each cycle end (R352). -/
def selectRef (b : Bough) (s : State) : State :=
  match allPhases.find? (fun x => phaseUsed s b x && s.avg[b].uOk[x]) with
  | some x => s.onNrg b (fun e => { e with refCh := x.val })
  | none => s

/-- A cycle ends: its net energies are counted (R357). -/
def endCycle (b : Bough) (s : State) : State :=
  let a := s.avg[b]
  let e := s.nrg[b]
  let eP := a.sP.toList.sum
  let s := countNet b 0 1 eP s
  let s := if e.isDC then countReg b 5 a.sL.toNat s
    else countReg b 2 e.eS.toNat (countNet b 3 4 a.sQ.toList.sum s)
  let s := takeDir b eP s
  let p := meanWatts eP e.n
  let s := if e.n = 0 then s else s.onNrg b (fun e => { e with lastP := p })
  selectRef b (foldCycle b (cycleMeans b s))

/-! ## Block end (R355, R375 to R379) -/

/-- Two sums of samples together. -/
def CalSum.join (a x : CalSum) : CalSum := { n := a.n + x.n, sum := a.sum + x.sum, sq := a.sq + x.sq }

/-- The modulator block quantities of a block end: OVR, MTR_CAL and fit counts (R317, R325, R338). -/
def samplingBlockEnd (b : Bough) (s : State) : State :=
  s.onMtr b (fun m =>
    let marked := fun (n : Nat) => (getN m.ch n {}).markNow
    let cal := m.cal.map (fun c =>
      if !c.begun then { c with begun := true }
      else
        let bad := (List.range 24).any (fun n => (c.mask.getLsbD n || n == c.ref) && marked n)
        { c with
          passed := c.passed + 1, counted := if bad then c.counted else c.counted + 1, cur := Vector.replicate 24 {},
          tot := if bad then c.tot else c.tot.zipWith CalSum.join c.cur })
    let on := m.fitOn || m.returning
    let bad := m.rsvMark || marked m.rsvIn
    { m with
      cal := cal,
      fitPassed := if on then m.fitPassed + 1 else m.fitPassed,
      fitBlocks := if on && !bad then m.fitBlocks + 1 else m.fitBlocks,
      fitTot := if on && !bad then m.fitTot.join m.fitCur else m.fitTot, fitCur := {},
      rsvMark := false,
      ch := m.ch.map (fun c => { c with ovrBlock := c.ovrNow, ovrNow := false, markNow := false }) })

/-- Block RMS in thousandths of the unit, repeating the value before when no sample was valid. -/
def rmsMilli (sq n fs old : Nat) : Nat := if n = 0 then old else rms (sq * fs * fs) (n * 2 ^ 46 * 10 ^ 6)

/-- PF of sums of p and s (R355). -/
def powerFactor (p ap : Int) : BitVec 16 :=
  if ap = 0 then 0x8000 else BitVec.ofInt 16 (clampI (-10000) 10000 (quot (10000 * p) ap.toNat))

/-- The quantities of the second that ends (R355); without a sample, those of the second before stay. -/
def closeSecond (b : Bough) (s : State) : State :=
  let a := s.avg[b]
  let dc := s.nrg[b].isDC
  let fs := fsVal s b
  let old := s.nst[b].second
  let sec : SecStat := {
    u := Vector.ofFn (fun (x : Fin 3) => rmsMilli a.secSqU[x] a.secOk[(⟨x.val, by omega⟩ : Fin 4)] (fs (voltCh dc x)) old.u[x]),
    i := Vector.ofFn (fun (x : Fin 4) => rmsMilli a.secSqI[x] a.secOk[x] (fs (if dc && x != 3 then 9 else x.val + 3)) old.i[x]),
    dc := Vector.ofFn (fun (k : Fin 3) => quot (a.secDC[k] * fs (8 + k.val)) (a.secN * 2 ^ 23 * 1000)),
    q := meanWatts a.secQ a.secN, s := meanWatts a.secS a.secN, pf := powerFactor a.secP a.secS }
  let s := if a.secN = 0 then s else s.onNst b (fun n => { n with pmean := meanWatts a.secP a.secN, second := sec })
  s.onAvg b (fun a => { a with
    secP := 0, secQ := 0, secS := 0, secN := 0, secSqU := Vector.replicate 3 0, secSqI := Vector.replicate 4 0,
    secOk := Vector.replicate 4 0, secDC := Vector.replicate 3 0 })

/-- The quantities of the block that ends go to the status registers. -/
def closeBlock (b : Bough) (s : State) : State :=
  let a := s.avg[b]
  let e := s.nrg[b]
  let fs := fsVal s b
  let freq := if e.noGrid || a.bPeriods = 0 then 0 else (quot (e.cycles * 6250000000 : Nat) a.bPeriods).toNat
  let none32 : Int := -2147483648
  let old := s.nst[b]
  let ang := fun (k : Nat) => if e.noGrid then none32 else Config.angle b.val k old.blocks
  let nst : NrgStat := { old with
    p := meanWatts a.bP a.bN, q := meanWatts a.bQ a.bN, s := meanWatts a.bS a.bN,
    pf := powerFactor a.bP a.bS,
    inRms := rmsMilli a.bSqI[3] a.bOk[3] (fs 6) old.inRms,
    u := Vector.ofFn (fun (x : Fin 3) =>
      rmsMilli a.bSqU[x] a.bOk[(⟨x.val, by omega⟩ : Fin 4)] (fs (voltCh e.isDC x)) old.u[x]),
    i := Vector.ofFn (fun (x : Fin 3) =>
      let y : Fin 4 := ⟨x.val, by omega⟩
      rmsMilli a.bSqI[y] a.bOk[y] (fs (ampCh e.isDC x)) old.i[x]),
    dcMean := Vector.ofFn (fun (k : Fin 3) => quot (a.bDC[k] * fs (8 + k.val)) (a.bN * 2 ^ 23 * 1000)),
    phi := #v[ang 0, ang 1, ang 2],
    dpf := Vector.ofFn (fun (x : Fin 3) => if e.noGrid then none else some (Config.cosine (ang x.val))), vAng := #v[ang 3, ang 4],
    seq := e.lastSeq.getD 0, stamp := s.opstamp, blocks := old.blocks + 1 }
  let s := s.onNst b (fun _ => nst)
  let s := s.onNrg b (fun e => { e with
    freq := freq, substBlk := e.runSubst, ovrBlk := e.runOvr, runSubst := false, runOvr := false, cycles := 0 })
  let s := s.onAvg b (fun a => { a with
    bP := 0, bQ := 0, bS := 0, bN := 0, bSqU := Vector.replicate 3 0, bSqI := Vector.replicate 4 0,
    bOk := Vector.replicate 4 0, bDC := Vector.replicate 3 0, bPeriods := 0 })
  samplingBlockEnd b s

/-- A block ends; one without a sample has no quantities. -/
def endBlock (b : Bough) (s : State) : State := if s.avg[b].bN = 0 then s else closeBlock b s

/-! ## Grid (R353, R354, R386) -/

/-- The grid is lost with a reason at a cycle's end: the running block ends, event 0x0601. -/
def gridLost (b : Bough) (reason : Nat) (s : State) : State :=
  if s.nrg[b].noGrid then s
  else
    let s := endBlock b s
    let f := s.nrg[b].freq
    let s := s.onNrg b (fun e => { e with noGrid := true, goodCyc := 0, badCyc := 0, freq := 0, period := 0 })
    withRequest b id (emit 0x0601 b.val (leN 1 0 ++ leN 1 reason ++ leN 4 f) s)

/-- The period lies within the frequency range (R353): 6,250,000 ÷ period in Hz. -/
def periodOk (s : State) (b : Bough) (period : Nat) : Bool :=
  if bitOf (s.nrgBoughCfg b) 31 then decide (54 * period ≤ 6250000) && decide (6250000 ≤ 66 * period)
  else decide (45 * period ≤ 6250000) && decide (6250000 ≤ 55 * period)

/-- A phase in use reaches the threshold in the last cycle. -/
def hasReference (s : State) (b : Bough) : Bool := allPhases.any (fun x => phaseUsed s b x && s.avg[b].uOk[x])

/-- The grid is present: a grid block begins at this crossing (R354). -/
def gridPresent (b : Bough) (period : Nat) (s : State) : State :=
  let s := endBlock b (endCycle b s)
  let s := s.onNrg b (fun e => { e with noGrid := false, goodCyc := 0, badCyc := 0, period := period })
  let f := (quot 6250000000 period).toNat
  withRequest b id (emit 0x0601 b.val (leN 1 1 ++ leN 1 0 ++ leN 4 f) s)

/-- Cycles of a block (R353). -/
def blockCycles (s : State) (b : Bough) : Nat := if bitOf (s.nrgBoughCfg b) 31 then 12 else 10

/-- The engine takes a new TYPE at its cycle end; the running cycle and block have ended there (R386). -/
def takeType (b : Bough) (s : State) : State :=
  if isDC s b = s.nrg[b].isDC then s
  else
    let s := endBlock b (if isDC s b then gridLost b 4 s else s)
    s.onNrg b (fun e => { e with isDC := isDC s b, noGrid := true, goodCyc := 0, badCyc := 0 })

/-- A block boundary of the bough has come: what waits for it applies. -/
def blockDone (b : Bough) (s : State) : State := withRequest b id (endBlock b s)

end Sys2Proof.Machine
end

