-- ==== Sys2Proof/Machine/Sampling.lean ====
section
/-! DEFINITION. The commands of the sampling channels (R304 to R348): frames, the reserve modulator's patrol, swaps and
calibration. -/

namespace Sys2Proof.Machine

/-! ## The M path (R308, R311 to R313, R746) -/

/-- The output of stage M4: the outputs of M3, newest first, 4 + DELAY/256 samples ago (R308, R313). The filters before it
are the operand's (log entry 172). -/
def delayed (hist : List Int) (delay : Int) : Int := backSample hist (1024 + delay).toNat

/-- DELAY of local channel n. -/
def delayOf (s : State) (b : Bough) (n : Nat) : Int := toInt 11 (fld (s.mtrShape (24 * b.val + n)) 10 0)

/-- The sample of the modulator that serves channel n, delayed by d: the reserve's with its correction, uncorrected when
the factory repair map consumed it (R319, R325). -/
def servedSample (m : Mtr) (n : Nat) (d : Int) : Int :=
  if m.served != n then delayed (getN m.ch n {}).m3 d
  else fitted m (delayed m.rsvM3 (if m.rsvState = 5 then d else d + m.rdelay))

/-- The input of the modulator that serves channel n lies beyond its range. -/
def servedBeyond (m : Mtr) (n : Nat) (bs : BoughSamples) : RawSample :=
  if m.served = n then bs.rsv else bs.chans.toList.getD n { x := 0, beyond := false }

/-- VALUE, OVR, FAIL and SET of channel n in this tick's frame (R311, R312); a sample of an overload run is saturated with
the overload's sign (R746). -/
def frameValue (s : State) (b : Bough) (bs : BoughSamples) (n : Nat) : MWord :=
  let m := s.mtr[b]
  let c := getN m.ch n {}
  let r := servedBeyond m n bs
  if chFails m n then (0, false, true, decide (0 < c.settle))
  else if r.beyond then (overloadValue c.ovrRun c.ovrNeg r, true, false, decide (0 < c.settle))
  else
    let (y, sat) := trimmed s b n (servedSample m n (delayOf s b n))
    (y, sat, false, decide (0 < c.settle))

/-- The values of every channel. -/
def frameValues (s : State) (b : Bough) (bs : BoughSamples) : List MWord := (List.range 24).map (frameValue s b bs)

/-- The reserve's own sample (R311): with the trims of the channel to which it is connected, none when it is connected to
nothing, and FAIL while its modulator is marked failed (DESIGN CHOICE, log entry 173). -/
def reserveValue (s : State) (b : Bough) (bs : BoughSamples) : MWord :=
  let m := s.mtr[b]
  let set := decide (0 < m.rsvSettle)
  if m.rsvModFailed then (0, false, true, set)
  else if bs.rsv.beyond then (overloadValue m.rsvRun m.rsvNeg bs.rsv, true, false, set)
  else if m.rsvIn < 24 then
    let d := delayOf s b m.rsvIn
    let x := if m.served = m.rsvIn then servedSample m m.rsvIn d else delayed m.rsvM3 d
    let (y, sat) := trimmed s b m.rsvIn x
    (y, sat, false, set)
  else
    let (y, sat) := saturate (delayed m.rsvM3 0)
    (y, sat, false, set)

/-- A sample word of a frame (R311). -/
def sampleWord (w : MWord) (rsv : Bool) : BitVec 32 :=
  word [(8, BitVec.ofInt 24 w.1 |>.toNat), (7, b2n w.2.1), (6, b2n w.2.2.1), (5, b2n rsv), (4, b2n w.2.2.2)]

/-- The 32 words of a bough's frame (R311). -/
def frameOf (s : State) (b : Bough) (bs : BoughSamples) : List (BitVec 32) :=
  let m := s.mtr[b]
  word [(29, b.val), (24, fit 5 m.rsvIn), (0, s.lat.smp)]
    :: (List.range 24).map (fun n => sampleWord (frameValue s b bs n) (m.served == n && !chFails m n))
    ++ sampleWord (reserveValue s b bs) true :: List.replicate 6 0

/-- The outputs of M3 enter the chains; the reserve's fill since its connection. -/
def fillChains (b : Bough) (bs : BoughSamples) (s : State) : State :=
  s.onMtr b (fun m => { m with
    ch := m.ch.mapFinIdx (fun n c h => { c with m3 := (bs.chans[n].x :: c.m3).take 9 }),
    rsvM3 := (bs.rsv.x :: m.rsvM3).take 9 })

/-- One sample added to sums. -/
def CalSum.add (c : CalSum) (x : Int) : CalSum := { n := c.n + 1, sum := c.sum + x, sq := c.sq + x.natAbs * x.natAbs }

/-- The running MTR_CAL takes a sample of every channel: after the trims, or raw with DELAY 0 (R317). -/
def calTake (m : Mtr) (ws : List MWord) (c : CalRun) : CalRun :=
  if !c.begun then c
  else { c with cur := c.cur.mapFinIdx (fun n t _ => t.add (if c.raw then servedSample m n 0 else (wordAt ws n).1)) }

/-- A sample of the patrol visit, compared on the raw samples of both modulators; one that settles or lies beyond the
range is left out (R320). -/
def visitTake (bs : BoughSamples) (m : Mtr) : Mtr :=
  match bs.chans.toList[m.rsvIn]? with
  | none => m
  | some r =>
    if m.rsvState ≠ 0 ∨ 0 < m.rsvSettle ∨ r.beyond ∨ bs.rsv.beyond ∨ 0 < (getN m.ch m.rsvIn {}).settle then m
    else { m with visA := m.visA.add r.x, visR := m.visR.add bs.rsv.x }

/-- A sample of the channel's own modulator while a fit onto it runs (R325). -/
def fitTake (bs : BoughSamples) (m : Mtr) : Mtr :=
  match m.fitOn, bs.chans.toList[m.rsvIn]? with
  | true, some r => { m with fitCur := m.fitCur.add r.x }
  | _, _ => m

/-- What a channel keeps of its sample. -/
def keepSample (r : RawSample) (w : MWord) (c : MtrCh) : MtrCh :=
  { c with
    value := w.1, settle := c.settle - 1, ovrNow := c.ovrNow || w.2.1, ovrNoted := c.ovrNoted || w.2.1,
    markNow := c.markNow || w.2.1 || wordBad w,
    ovrNeg := keepNeg c.ovrRun c.ovrNeg r, ovrRun := r.beyond && !w.2.2.1 }

/-- What the bough keeps of a tick's samples. -/
def keepSamples (b : Bough) (bs : BoughSamples) (ws : List MWord) (s : State) : State :=
  s.onMtr b (fun m =>
    let v := fitTake bs (visitTake bs m)
    { v with
      ch := v.ch.mapFinIdx (fun n c _ => keepSample (servedBeyond m n bs) (wordAt ws n) c),
      cal := v.cal.map (calTake m ws),
      rsvMark := v.rsvMark || bs.rsv.beyond || decide (0 < v.rsvSettle), rsvSettle := v.rsvSettle - 1,
      rsvNeg := keepNeg v.rsvRun v.rsvNeg bs.rsv, rsvRun := bs.rsv.beyond })

/-- Event 0x0501, at most one per channel and second (R340); it is recorded at the second's first sample with OVR (log
entry 60). -/
def noteOverloads (b : Bough) (ws : List MWord) (s : State) : State :=
  (List.range 24).foldl (fun t n =>
    if (wordAt ws n).2.1 && !(getN t.mtr[b].ch n {}).ovrNoted then emit 0x0501 b.val (leN 1 n ++ leN 4 1) t else t) s

/-! ## The frame's way round the ring (R27, R63, R307) -/

/-- VALUE, OVR, FAIL and SET of a sample word (R311). -/
def ofWord (w : BitVec 32) : MWord := (toInt 24 (fld w 31 8), bitOf w 7, bitOf w 6, bitOf w 4)

/-- The samples of words 1 to 24 of a frame. -/
def frameSamples (f : List (BitVec 32)) : List MWord := ((f.drop 1).take 24).map ofWord

/-- SEQ of a frame. -/
def frameSeq (f : List (BitVec 32)) : Nat := fld (f.getD 0 0) 23 0

/-- The vehicle port takes channel 14 for its proximity mean (R173, R307). -/
def portCopy (b : Bough) (f : List (BitVec 32)) (s : State) : State :=
  let w := wordAt (frameSamples f) 14
  if w.2.2.1 then s else s.onPort b (fun p => { p with ppSum := p.ppSum + w.1, ppN := p.ppN + 1 })

/-- The safety block takes channels 0 and 10 (R307, R258, R261): the samples of channel 0 in counts, channel 10 in µV. -/
def safetyCopy (b : Bough) (f : List (BitVec 32)) (s : State) : State :=
  let ws := frameSamples f
  let s := s.onMeas b (fun m => { m with ch0Hist := ((wordAt ws 0).1 :: m.ch0Hist).take 488 })
  s.onSaf b (fun x => { x with side := { x.side with ch10 := quot ((wordAt ws 10).1 * fsVal s b 10) (2 ^ 23) } })

/-- Stop i copies the parts it needs of a frame that passes (R27): the energy engine of the bough, the modem stop that
holds its vehicle port (DEDUCED, log entry 174) and the safety block. -/
def copyAt (b : Bough) (f : List (BitVec 32)) (i : Nat) (s : State) : State :=
  if i = 9 + b.val / 4 then engineFrame b (frameSeq f) (frameSamples f) s
  else if i = 13 + b.val / 2 then portCopy b f s
  else if i = 18 then safetyCopy b f s
  else s

/-- The stops that a frame of stop i passes, in the direction of travel; the last is stop i itself, which removes it. -/
def ringFrom (i : Nat) : List Nat := (List.range 23).map (fun k => (i + 1 + k) % 23)

/-- The frame written to its sample crossing, 4 flits of 64, or dropped whole with one event 0x0104 for each frame lost
(R51, R64; log entry 175); one that crosses travels once round the ring. -/
def crossFrame (b : Bough) (f : List (BitVec 32)) (s : State) : State :=
  let x : Fin 2 := if b.val < 4 then 0 else 1
  let fill := s.trunk.smpFill[x] + 4
  if 64 < fill then emit 0x0104 b.val (leN 3 s.lat.smp ++ leN 4 1) s
  else (ringFrom (11 + x.val)).foldl (fun t i => copyAt b f i t)
    { s with trunk.smpFill := s.trunk.smpFill.set x fill, trunk.smpPeak := max s.trunk.smpPeak fill }

/-- One bough's samples of a tick: its frame built, and sent round the ring. -/
def takeSamples (b : Bough) (bs : BoughSamples) (s : State) : State :=
  let s := fillChains b bs s
  let ws := frameValues s b bs
  let f := frameOf s b bs
  crossFrame b f (keepSamples b bs ws (noteOverloads b ws s))

/-- SAMPLE_FRAME (R311): the frames of stop 11 pass stop 12 before that stop's own (R63). No frames leave while the
lattice does not run or the PLL has lost lock (R48). -/
def execSampleFrame (bs : Vector BoughSamples 8) (s : State) : Res :=
  if !s.lat.running || s.lat.pllLost then .next s
  else .next (forBoughs (fun b t => takeSamples b bs[b] t) s)

/-! ## The reserve's states (R319 to R326) -/

/-- The reserve is free of other work: patrol with PATROL_EN, ready without (R334). -/
def idleState (s : State) (b : Bough) : Nat := if bitOf (s.mtrRsvCfg b) 31 then 0 else 2

/-- The reserve connected to input n: its chains fill for 32 samples, which carry SET (R311, R323, R324; DEDUCED, log
entry 66). -/
def connectReserve (n : Nat) (m : Mtr) : Mtr := { m with rsvIn := n, rsvM3 := [], rsvSettle := 32, visA := {}, visR := {} }

/-- The reserve returns to patrol or state 2, connected to nothing. -/
def idleReserve (b : Bough) (s : State) : State :=
  let st := idleState s b
  s.onMtr b (fun m => { m with
    rsvState := st, rsvIn := 31, fitOn := false, fitBlocks := 0, fitPassed := 0, fitTag := none, fitPatrol := false,
    returning := false, coldCh := none })

/-- Event 0x0506 to the command that started the fit or the return, when a command did. -/
def fitAnswer (b : Bough) (result : Nat) (s : State) : State :=
  match s.mtr[b].fitTag with
  | some t => answer 0x0506 b.val t (leN 1 result) (s.onMtr b (fun m => { m with fitTag := none }))
  | none => s

/-- CAL_BLOCKS. -/
def calBlocks (s : State) : Nat := fld s.mtrDevCfg 7 0

/-- Event 0x0502 (R340). -/
def modulatorFault (b : Bough) (n kind : Nat) (s : State) : State :=
  emit 0x0502 b.val (leN 1 n ++ leN 1 kind ++ leN 2 s.mtr[b].mismatch) s

/-- A swap applied: event 0x0504, the legally relevant change and its save entry with CAUSE 3 (R324, R364, R390). -/
def swapApplied (b : Bough) (ch before after kind : Nat) (s : State) : State :=
  let m := s.mtr[b]
  let s := emit 0x0504 b.val (leN 1 ch ++ leN 1 before ++ leN 1 after ++ leN 3 ((s.lat.smp + 1) % 2 ^ 24)
    ++ leN 4 m.rgain ++ leI 4 m.roff ++ leI 2 m.rdelay ++ leN 1 kind) s
  writeSave 3 (lrChange 3 b.val ch [] s)

/-- A hot swap onto channel ch begins: event 0x0503, state 1 (R324). -/
def startFit (b : Bough) (ch : Nat) (tag : Option Nat) (s : State) : State :=
  let s := emit 0x0503 b.val (leN 1 ch ++ leN 1 (b2n tag.isNone)) s
  s.onMtr b (fun m => { connectReserve ch m with
    rsvState := 1, fitOn := false, fitBlocks := 0, fitPassed := 0, fitTag := tag, fitPatrol := tag.isNone })

/-- Channel n has lost its modulator and no reserve takes it (R323, R343). -/
def loseChannel (b : Bough) (n : Nat) (s : State) : State :=
  emit 0x0507 b.val (leN 1 n) (s.onMtr b (fun m => { m with ch := modN m.ch n (fun c => { c with lost := true }) }))

/-- A cold swap begins: the reserve is connected to channel n (R323). -/
def startCold (b : Bough) (n : Nat) (s : State) : State :=
  let s := fitAnswer b (if s.mtr[b].rsvIn = n then 2 else 5) s
  s.onMtr b (fun m => { connectReserve n m with
    rsvState := 3, coldCh := some n, fitOn := false, fitBlocks := 0, fitPassed := 0, fitPatrol := false })

/-- The reserve modulator is stuck (R322, R342, R343): the channel that it serves is lost. -/
def stuckReserve (b : Bough) (s : State) : State :=
  let m := s.mtr[b]
  if m.rsvModFailed then s
  else
    let s := fitAnswer b 5 (modulatorFault b 24 1 s)
    let lostCh := if m.rsvState = 3 ∨ m.rsvState = 5 then m.rsvIn else 31
    let s := s.onMtr b (fun m => { m with
      rsvModFailed := true, rsvState := 4, rsvIn := 31, served := 31, fitOn := false, fitBlocks := 0, fitPassed := 0,
      returning := false, coldCh := none })
    if lostCh < 24 then loseChannel b lostCh s else s

/-- Channel n's own modulator is stuck (R322, R323). A modulator that a hot swap displaced serves no channel. -/
def stuckActive (b : Bough) (n : Nat) (s : State) : State :=
  let m := s.mtr[b]
  if (getN m.ch n {}).failed then s
  else
    let s := modulatorFault b n 1 (s.onMtr b (fun m => { m with ch := modN m.ch n (fun c => { c with failed := true }) }))
    if m.served = n then
      (if m.returning then (fitAnswer b 2 s).onMtr b (fun m => { m with returning := false, fitBlocks := 0, fitPassed := 0 })
       else s)
    else if m.rsvState ≤ 2 then startCold b n s
    else loseChannel b n s

/-- MODULATOR_STUCK (R322, R323, R342, R343); modulator 24 is the reserve. -/
def execModulatorStuck (b : Bough) (n : Fin 25) (s : State) : Res :=
  if n.val = 24 then .next (stuckReserve b s) else .next (stuckActive b n.val s)

/-- RESERVE_CHAINS_FILLED (R323): the reserve's values replace FAIL, with the factory fuse correction. -/
def execReserveChainsFilled (b : Bough) (s : State) : Res :=
  match s.mtr[b].coldCh with
  | none => .next s
  | some n =>
    let (g, o, d) := Config.fuseCorrection b
    .next (swapApplied b n n 24 1 (s.onMtr b (fun m => { m with
      served := n, coldCh := none, rgain := g % 2 ^ 32, roff := o, rdelay := d })))

/-! ## Patrol (R320, R321) -/

/-- |k/k0 − 1| in ppm, stopped at 65,535 (R337); k and k0 as (ratio − 1) × 2²⁰. -/
def mismatchPpm (k k0 : Int) : Nat := min 65535 (quot ((k - k0).natAbs * 10 ^ 6 : Nat) (2 ^ 20 + k0).toNat).toNat

/-- The visit mismatches: |k/k0 − 1| exceeds PATROL_TOL ppm (R320). -/
def mismatches (k k0 : Int) (tol : Nat) : Bool := decide ((tol : Int) * (2 ^ 20 + k0) < ((k - k0).natAbs * 10 ^ 6 : Nat))

/-- A valid visit on channel n: k0 learned, or compared; a passed visit re-admits the modulator (R320, R339). -/
def visit (b : Bough) (n : Nat) (k : Int) (s : State) : State :=
  let c := getN s.mtr[b].ch n {}
  match c.k0 with
  | none => s.onMtr b (fun m => { m with
      swapRatio := k, mismatch := 0, ch := modN m.ch n (fun c => { c with k0 := some k, readmit := false }) })
  | some k0 =>
    let bad := mismatches k k0 (fld (s.mtrRsvCfg b) 15 0)
    s.onMtr b (fun m => { m with
      swapRatio := k, mismatch := mismatchPpm k k0, misNow := if bad then m.misNow ++ [n] else m.misNow,
      ch := modN m.ch n (fun c => { c with readmit := c.readmit && bad }) })

/-- The end of a patrol cycle (R321). -/
def judgeCycle (b : Bough) (s : State) : State :=
  let m := s.mtr[b]
  let next := fun (t : State) => t.onMtr b (fun m => { m with misPrev := m.misNow, misNow := [] })
  if 2 ≤ m.misNow.length then
    next (modulatorFault b 24 3 (s.onMtr b (fun m => { m with rsvState := 4, rsvIn := 31 })))
  else match m.misNow with
    | [n] =>
      if m.misPrev = [n] then
        let s := next (modulatorFault b n 2 s)
        if bitOf (s.mtrRsvCfg b) 30 then startFit b n none s else s
      else next s
    | _ => next s

/-- n² times the variance of n samples. -/
def variance (c : CalSum) : Nat := (c.n * c.sq - c.sum.natAbs * c.sum.natAbs : Nat)

/-- The AC RMS of n samples lies below 5 % of 2²³ counts (R317, R320, R745); none at all do. -/
def weakSum (c : CalSum) : Bool := c.n == 0 || decide (400 * variance c < c.n * c.n * 2 ^ 46)

/-- k of a visit, as (k − 1) × 2²⁰: the ratio of the AC RMS of the two modulators' raw samples (R320). -/
def visitK (m : Mtr) : Int := (rms (variance m.visA * 2 ^ 40) (max 1 (variance m.visR)) : Int) - 2 ^ 20

/-- The channel that patrol visits after n: failed channels and the one served are skipped (R320). -/
def nextVisit (m : Mtr) (n : Nat) : Nat :=
  (((List.range 24).map (fun k => (n + 1 + k) % 24)).find? (fun j => !(getN m.ch j {}).failed && m.served != j)).getD n

/-- PATROL_VISIT_END (R320, R321): a visit to a channel with an AC RMS below 5 % of FS gives no ratio. The cycle ends with
its last channel. The first end after the reserve returned to patrol only connects it. -/
def execPatrolVisitEnd (b : Bough) (s : State) : Res :=
  let m := s.mtr[b]
  if m.rsvState ≠ 0 then .next s
  else
    let n := m.patrolAt
    let on := m.rsvIn == n
    let skip := !on || weakSum m.visA || (getN m.ch n {}).failed || m.served == n
    let s := if skip then s else visit b n (visitK m) s
    let nxt := if on then nextVisit s.mtr[b] n else n
    let s := s.onMtr b (fun m => { connectReserve nxt m with patrolAt := nxt })
    .next (if on && decide (nxt ≤ n) then judgeCycle b s else s)

/-! ## Hot swap and return (R324 to R326) -/

/-- HOT_SWAP_FIT_START (R324 step 3). -/
def execHotSwapFitStart (b : Bough) (s : State) : Res :=
  if s.mtr[b].rsvState = 1 then
    .next (s.onMtr b (fun m => if m.fitOn then m
      else { m with fitOn := true, fitBlocks := 0, fitPassed := 0, fitCur := {}, fitTot := {}, rsvMark := false }))
  else .next s

/-- RGAIN of the fit: times k0/k of the last visit when patrol started the swap (R325). -/
def fitGain (m : Mtr) (ch rgain : Nat) : Nat :=
  if m.fitPatrol then
    (quot (rgain * (2 ^ 20 + (getN m.ch ch {}).k0.getD 0)) (2 ^ 20 + m.swapRatio).toNat).toNat
  else rgain

/-- RDELAY of the fit: the factory fuse value unless the channel's AC RMS is at least 5 % of FS (R325). -/
def fitDelay (m : Mtr) (b : Bough) (r : FitResult) : Int := if weakSum m.fitTot then (Config.fuseCorrection b).2.2 else r.rdelay

/-- The fit succeeds (R325). -/
def fitOk (s : State) (b : Bough) (ch : Nat) (r : FitResult) : Bool :=
  let g := fitGain s.mtr[b] ch r.rgain
  let d := fitDelay s.mtr[b] b r
  let t := delayOf s b ch + d
  decide (r.residualPpm ≤ 100) && decide (98 * 2 ^ 30 ≤ 100 * g) && decide (100 * g ≤ 102 * 2 ^ 30)
    && decide (d.natAbs ≤ 256) && decide (-1024 ≤ t) && decide (t ≤ 1023)

/-- The fit has failed: the channel stays on its own modulator. -/
def fitFailed (b : Bough) (s : State) : State := idleReserve b (fitAnswer b 3 s)

/-- HOT_SWAP_FIT_END (R324 step 5, R325): CAL_BLOCKS blocks counted, or 4 × CAL_BLOCKS passed. -/
def execHotSwapFitEnd (b : Bough) (r : FitResult) (s : State) : Res :=
  let m := s.mtr[b]
  if m.rsvState ≠ 1 || !m.fitOn then .next s
  else if calBlocks s ≤ m.fitBlocks then
    if fitOk s b m.rsvIn r then
      let g := fitGain m m.rsvIn r.rgain
      let d := fitDelay m b r
      let s := s.onMtr b (fun m => { m with
        served := m.rsvIn, rsvState := 3, rgain := g, roff := r.roff, rdelay := d, fitOn := false, fitBlocks := 0,
        fitPassed := 0, fitPatrol := false })
      .next (fitAnswer b 0 (swapApplied b m.rsvIn m.rsvIn 24 0 s))
    else .next (fitFailed b s)
  else if 4 * calBlocks s ≤ m.fitPassed then .next (fitFailed b s)
  else .next s

/-- SWAP_RETURN_COMPARE_END (R326): ppm is the two modulators' difference over the comparison. -/
def execSwapReturnCompareEnd (b : Bough) (ppm : Nat) (s : State) : Res :=
  let m := s.mtr[b]
  if !m.returning then .next s
  else if calBlocks s ≤ m.fitBlocks && decide (ppm ≤ fld (s.mtrRsvCfg b) 15 0) then
    let st := idleState s b
    let tag := m.fitTag
    let ch := m.served
    let s := s.onMtr b (fun m => { m with
      served := 31, rsvState := st, rsvIn := 31, returning := false, fitBlocks := 0, fitPassed := 0, fitTag := none })
    let s := swapApplied b ch 24 ch 2 s
    match tag with
    | some t => .next (answer 0x0506 b.val t (leN 1 0) s)
    | none => .next s
  else if calBlocks s ≤ m.fitBlocks || decide (4 * calBlocks s ≤ m.fitPassed) then
    .next ((fitAnswer b 4 s).onMtr b (fun m => { m with returning := false, fitBlocks := 0, fitPassed := 0 }))
  else .next s

/-! ## Commands (R339, R348) -/

/-- A swap or a return of the bough runs (R348). -/
def swapRuns (s : State) (b : Bough) : Bool := s.mtr[b].rsvState == 1 || s.mtr[b].returning || s.mtr[b].coldCh.isSome

/-- Event 0x0506 to a sampling command. -/
def mtrAnswer (b : Bough) (h : CmdHdr) (result : Nat) (s : State) : Res := .next (answer 0x0506 b.val h.tag (leN 1 result) s)

/-- MTR_SWAP op 0 (R324). -/
def execMtrSwapHot (h : CmdHdr) (ch : Nat) (s : State) : Res :=
  onHdr h s fun b =>
    if 24 ≤ ch then .fault (.undefinedBodyValue "MTR_SWAP_HOT")
    else if swapRuns s b then mtrAnswer b h 4 s
    else if s.mtr[b].rsvState ≠ 0 ∧ s.mtr[b].rsvState ≠ 2 then mtrAnswer b h 1 s
    else if chFails s.mtr[b] ch then mtrAnswer b h 2 s
    else .next (startFit b ch (some h.tag) s)

/-- MTR_SWAP op 1 (R326). -/
def execMtrSwapReturn (h : CmdHdr) (ch : Nat) (s : State) : Res :=
  onHdr h s fun b =>
    if 24 ≤ ch then .fault (.undefinedBodyValue "MTR_SWAP_RETURN")
    else if swapRuns s b || s.mtr[b].rsvState != 3 || s.mtr[b].served != ch then mtrAnswer b h 4 s
    else
      let c := getN s.mtr[b].ch ch {}
      if c.failed || c.lost || c.readmit then mtrAnswer b h 2 s
      else .next (s.onMtr b (fun m => { m with
        returning := true, fitBlocks := 0, fitPassed := 0, fitTag := some h.tag, rsvMark := false }))

/-- MTR_SWAP op 2 (R348): the running fit or comparison stops, and the command that started it ends with result 5. -/
def execMtrSwapAbort (h : CmdHdr) (ch : Nat) (s : State) : Res :=
  onHdr h s fun b =>
    if 24 ≤ ch then .fault (.undefinedBodyValue "MTR_SWAP_ABORT")
    else if s.mtr[b].rsvState = 1 then mtrAnswer b h 0 (idleReserve b (fitAnswer b 5 s))
    else if s.mtr[b].returning then
      mtrAnswer b h 0 ((fitAnswer b 5 s).onMtr b (fun m => { m with returning := false, fitBlocks := 0, fitPassed := 0 }))
    else mtrAnswer b h 4 s

/-- MTR_SWAP op 3 (R339): a failed mark cleared; 24 names the reserve. -/
def execMtrSwapReadmit (h : CmdHdr) (ch : Nat) (s : State) : Res :=
  onHdr h s fun b =>
    if 25 ≤ ch then .fault (.undefinedBodyValue "MTR_SWAP_READMIT")
    else if swapRuns s b then mtrAnswer b h 4 s
    else if ch = 24 then
      let st := idleState s b
      mtrAnswer b h 0 (s.onMtr b (fun m => { m with
        rsvModFailed := false, rsvState := if m.rsvState = 4 then st else m.rsvState }))
    else
      mtrAnswer b h 0 (s.onMtr b (fun m => { m with
        ch := modN m.ch ch (fun c => { c with failed := false, readmit := c.readmit || c.failed }) }))

/-- MTR_CAL (R317). -/
def execMtrCal (h : CmdHdr) (mask : BitVec 24) (n ref : Nat) (raw : Bool) (s : State) : Res :=
  onHdr h s fun b =>
    if n = 0 ∨ 250 < n ∨ (24 ≤ ref ∧ ref ≠ 255) then .fault (.undefinedBodyValue "MTR_CAL")
    else if s.mtr[b].cal.isSome then mtrAnswer b h 4 s
    else .next (s.onMtr b (fun m => { m with cal := some { mask := mask, n := n, ref := ref, raw := raw, tag := h.tag } }))

/-- Event 0x0505 of channel n: mean and AC RMS in 1/256 count over the blocks counted; the angle is 0x8000_0000 without a
reference, below 5 % of FS on either channel, or with no grid (R317, R347). The angle itself is the energy engine's, which
the spec gives no arithmetic for (log entry 61). -/
def calEvent (b : Bough) (c : CalRun) (n : Nat) (s : State) : State :=
  let t := getN c.tot n {}
  let angle :=
    if c.ref = 255 ∨ weakSum t ∨ weakSum (getN c.tot c.ref {}) ∨ s.nrg[b].noGrid then -2147483648
    else Config.angle b.val (256 + 32 * n + c.ref) s.lat.ms
  let mean := if t.n = 0 then 0 else quot (256 * t.sum) t.n
  let ac := if t.n = 0 then 0 else rms (65536 * variance t) (t.n * t.n)
  emit 0x0505 b.val (leN 1 n ++ leI 4 mean ++ leN 4 ac ++ leI 4 angle ++ leN 4 c.counted) s

/-- MTR_CAL_END (R317): N blocks counted, or 4 × N passed. -/
def execMtrCalEnd (b : Bough) (s : State) : Res :=
  match s.mtr[b].cal with
  | none => .next s
  | some c =>
    if c.counted < c.n ∧ c.passed < 4 * c.n then .next s
    else
      let s := ((List.range 24).filter (fun n => c.mask.getLsbD n)).foldl (fun t n => calEvent b c n t) s
      .next (answer 0x0506 b.val c.tag (leN 1 0) (s.onMtr b (fun m => { m with cal := none })))

end Sys2Proof.Machine
end

