-- ==== Sys2Proof/Machine/Energy.lean ====
section
/-! DEFINITION. The commands of the energy engine, of its results at the heartwood gate and of the periodic save (R352 to
R371, R418). -/

namespace Sys2Proof.Machine

/-! ## Cycles (R352 to R357) -/

/-- A crossing while the grid is present ends a cycle: the grid may be lost, or the block may end (R353). -/
def gridCycle (b : Bough) (period : Nat) (s : State) : State :=
  let s := endCycle b s
  let bad := if periodOk s b period then 0 else s.nrg[b].badCyc + 1
  let s := s.onNrg b (fun e => { e with badCyc := bad, period := period })
  let s := s.onAvg b (fun a => { a with bPeriods := a.bPeriods + period })
  if isDC s b then takeType b s
  else if 2 ≤ bad then gridLost b 1 s
  else if !hasReference s b then gridLost b 3 s
  else if blockCycles s b ≤ s.nrg[b].cycles then blockDone b s
  else s

/-- A crossing while no grid is reported: the tenth valid one in a row declares the grid present (R353). -/
def searchCycle (b : Bough) (period : Nat) (s : State) : State :=
  let good := if periodOk s b period && hasReference s b then s.nrg[b].goodCyc + 1 else 0
  let s := s.onNrg b (fun e => { e with goodCyc := good })
  if 10 ≤ good then gridPresent b period s else s

/-- The place of a positive-going crossing after the sample before it, by linear interpolation, in 1/256 sample (R352). -/
def crossingAt (before after : Int) : Nat := (quot (256 * -before) (after - before).toNat).toNat

/-- The period that a crossing ends in 1/256 sample; none without a crossing before it (R352). -/
def crossPeriod (s : State) (b : Bough) (before after : Int) : Option Nat :=
  (s.nrg[b].crossFrac).map (fun f => 256 * s.nrg[b].crossN + crossingAt before after - f)

/-- The next period counts from this crossing; the cycle's frequency in mHz (R355). -/
def noteCrossing (b : Bough) (before after : Int) (s : State) : State :=
  let p := (crossPeriod s b before after).getD 0
  s.onNrg b (fun e => { e with
    crossN := 0, crossFrac := some (crossingAt before after), cycFreq := if p = 0 then 0 else (quot 6250000000 p).toNat })

/-- CYCLE_END (R352, R357): the filtered reference at the two samples either side of a positive-going zero crossing; the
sample after it belongs to the cycle that begins. The filter's coefficients are not the spec's (log entry 172). A DC
bough has no crossings. -/
def execCycleEnd (b : Bough) (before after : Int) (s : State) : Res :=
  if s.nrg[b].isDC || !(decide (before < 0) && decide (0 ≤ after)) then .next s
  else
    let p := crossPeriod s b before after
    let s := noteCrossing b before after s
    match p with
    | none => .next s
    | some p => .next (if s.nrg[b].noGrid then searchCycle b p s else gridCycle b p s)

/-- NO_CROSSING_TIMEOUT (R353, R354): the running cycle and block end at the sample of the declaration. The cycle that it
cuts has no period. -/
def execNoCrossingTimeout (b : Bough) (s : State) : Res :=
  if s.nrg[b].noGrid then .next s
  else
    let n := s.nrg[b].cycles
    .next (gridLost b 2 ((endCycle b s).onNrg b (fun e => { e with cycles := n })))

/-- NO_GRID_CYCLE (R353, R354): a multiple of 20 ms of the millisecond tick; a multiple of 200 ms ends the block. -/
def execNoGridCycle (b : Bough) (s : State) : Res :=
  if !s.nrg[b].noGrid then .next s
  else
    let s := takeType b (endCycle b s)
    .next (if s.lat.ms % 200 = 0 then blockDone b s else s)

/-- METERING_GAP_OPEN (R360): substitution of a phase has run for more than 2,441 samples. -/
def execMeteringGapOpen (b : Bough) (phase : Fin 3) (s : State) : Res :=
  if s.nrg[b].sub[phase] ≤ 2441 || s.nrg[b].gapPh[phase] then .next s
  else .next (emit 0x0603 b.val (leN 1 1 ++ leN 4 0)
    (s.onNrg b (fun e => { e with gapPh := e.gapPh.set phase true, gap := true })))

/-! ## The periodic save (R364 to R369) -/

/-- n slots that failed their program verify, each with event 0x0605 (R367). -/
def failSlots : Nat → State → State
  | 0, s => s
  | n + 1, s =>
    let slot := s.nv.flash.saveSlot
    let k := s.bil.saveFails + 1
    failSlots n (emit 0x0605 255 (leN 1 slot ++ leN 4 k) (beginSlot { s with bil.saveFails := k }))

/-- The journal entry of a running session's record, its priced cost debited first (R225, R227, R369). -/
def journalSession (b : Bough) (s : State) : State :=
  let s := debitSession b s
  match s.ses[b].slot with
  | some i => journalFor b i s
  | none => s

/-- SAVE_TICK (R364, R367): slotFails is the number of slots that fail before one holds the entry; three are a fatal
error. With an event save on the same tick the one entry is the event's (R364). halfFails: the other half of the ledger
journal can't be written (R238). -/
def execSaveTick (slotFails : Nat) (halfFails : Bool) (s : State) : Res :=
  if s.start.done < 6 then .next s
  else
    let s := { s with nv.flash.halfBad := if halfFails then 3 else 0 }
    let s := failSlots (min slotFails 3) { s with bil.saveFails := 0 }
    if 3 ≤ slotFails then .next (fatalError 6 8 0 s)
    else
      let cause : Nat := if !s.bil.waiting.isEmpty && !s.bil.covered then 1 else 0
      let s := { s with bil.saveFails := 0 }
      let s := if s.bil.savedTick = some s.lat.ms ∧ cause = 0 then s else writeSave cause s
      .next (forBoughs journalSession s)

/-! ## Measurement reports (R380) -/

/-- NRG_READ (R380): answered at the next block boundary. -/
def execNrgRead (h : CmdHdr) (s : State) : Res :=
  onHdr h s fun b => .next (s.onNrg b (fun e => { e with pendRead := e.pendRead ++ [h.tag] }))

/-- Bits 31:24 of NRG_STAT (R375). -/
def nrgStatHigh (s : State) (b : Bough) : Nat :=
  let e := s.nrg[b]
  128 * b2n e.noGrid + 64 * b2n e.substBlk + 32 * b2n e.gap + 16 * b2n e.ovrBlk + 8 * b2n e.dirExp + 2 * e.refCh

/-- The body of event 0x0608 (R380). -/
def reportBody (s : State) (b : Bough) : List Byte :=
  let e := s.nrg[b]
  let n := s.nst[b]
  leN 3 n.seq ++ leN 1 (nrgStatHigh s b) ++ leN 4 e.freq
    ++ e.reg.toList.flatMap (fun r => leN 8 r.count.toNat)
    ++ n.u.toList.flatMap (leN 4) ++ n.i.toList.flatMap (leN 4) ++ leN 4 n.inRms
    ++ n.phi.toList.flatMap (leI 4) ++ n.vAng.toList.flatMap (leI 4)
    ++ leI 4 n.p ++ leI 4 n.q ++ leI 4 n.s ++ leN 2 n.pf.toNat ++ leN 2 0 ++ leN 8 n.stamp.toNat
    ++ n.dcMean.toList.flatMap (leI 4)

/-- NRG_READ_REPLY (R380): event 0x0608 to every command that waits, at the block boundary. -/
def execNrgReadReply (b : Bough) (s : State) : Res :=
  let tags := s.nrg[b].pendRead
  let body := reportBody s b
  .next (tags.foldl (fun t g => answer 0x0608 b.val g body t) (s.onNrg b (fun e => { e with pendRead := [] })))

/-! ## The heartwood gate (R65, R363, R418) -/

/-- A metering gap opens at the heartwood (R418). -/
def openGate (b : Bough) (s : State) : State :=
  if s.bilB[b].gapOpen then s
  else
    let p := s.nst[b].pmean
    let t := s.opstamp
    noteFlag 4 b (s.onBil b (fun e => { e with gapOpen := true, gapStart := t, gapPmean := p, intGap := true }))

/-- The gap closes: event 0x0706, and on a bough with an open session or with coils closed a KIND 5 reading with its
bound and estimate (R412, R418). -/
def closeGate (b : Bough) (s : State) : State :=
  if !s.bilB[b].gapOpen then s
  else
    let e := s.bilB[b]
    let t := ticksSince s e.gapStart
    let wh := gapBound s b t 64
    let (est, s) := gapEstimate e.gapPmean t 64 s
    let s := emit 0x0706 b.val (leN 8 e.gapStart.toNat ++ leN 8 s.opstamp.toNat ++ leN 4 wh ++ leI 4 est) s
    let s := noteFlag 4 b (convertBough b (s.onBil b (fun e => { e with gapOpen := false })))
    if s.bilB[b].sesOpen || coilsClosed s b then signWith b 5 wh est (readingFlags b false s) s else s

/-- The marks of a result enter the flags of the reading period (R414). -/
def noteMarks (b : Bough) (r : EngResult) (s : State) : State :=
  let f := fun (bit flag : Nat) (s : State) => if r.flags.getLsbD bit then noteFlag flag b s else s
  f 4 3 (f 5 4 (f 6 5 s))

/-- ENERGY_RESULT_ACCEPT (R65): the result held for the gate, whose running totals supersede those before it. -/
def execEnergyResultAccept (b : Bough) (kind : Fin 2) (s : State) : Res :=
  match s.bilB[b].heldRes[kind] with
  | none => .next s
  | some r =>
    let s := s.onBil b (fun e => { e with accepted := e.accepted.set kind r, heldRes := e.heldRes.set kind none })
    let s := noteMarks b r s
    .next (if r.flags.getLsbD 5 then openGate b s else closeGate b s)

/-- GATE_SILENCE (R418): no result of the bough has reached the gate for 100 ms. -/
def execGateSilence (b : Bough) (s : State) : Res :=
  if s.start.done < 6 then .next s else .next (openGate b s)

/-- The pass buffer of stop i for a class (R36). -/
def passAt (s : State) (i : Nat) (k : Fin 4) : List Flit := (getN s.trunk.pass i (Vector.replicate 4 []))[k]

/-- The writes that wait enter the heartwood mailbox in their order while it has room and stop 8 a class-2 credit (R66).
-/
def admitMail (s : State) : State :=
  if (passAt s 8 2).length < 2 then
    let n := Config.mailboxMore + 1 - s.trunk.mailbox.length
    { s with trunk.mailbox := s.trunk.mailbox ++ s.trunk.mailWait.take n, trunk.mailWait := s.trunk.mailWait.drop n }
  else s

/-- The heartwood empties its mailbox; the writes that waited take its places (R66). The readings that the messages ask
for are signed at their triggers (log entry 80). -/
def emptyMailbox (s : State) : State := admitMail { s with trunk.mailbox := [] }

/-- HEARTWOOD_CONVERSION (R363): every register converted, and the running totals reported to the session engine (R221,
R401). -/
def execHeartwoodConversion (s : State) : Res :=
  if s.start.done < 6 || s.bil.stopped then .next s
  else .next (forBoughs (fun b t => if t.bilB[b].sesOpen then reportCost b t else t) (convertAll (emptyMailbox s)))

end Sys2Proof.Machine
end

