-- ==== Sys2Proof/Machine/Billing.lean ====
section
/-! DEFINITION. The commands of calendar time, tariffs and readings (R20, R46, R394 to R441). -/

namespace Sys2Proof.Machine

/-- The heartwood runs: P5 has completed and no fatal error has stopped it (R422). -/
def heartwoodRuns (s : State) : Bool := decide (6 ≤ s.start.done) && !s.bil.stopped

/-! ## Calendar time (R20, R46) -/

/-- The end of the calendar's range: calendar time becomes not known; the heartwood records it and the rules for unknown
time apply, a waiting offset among them (R20, R406). -/
def rangeEnd (s : State) : State :=
  let s := { s with bak.caltime := 0xFFFFFFFF }
  if heartwoodRuns s then
    let off := s.bil.newOffset.getD s.bil.offset
    evalRate (applyOffset (emit 0x0703 255 (leN 4 0xFFFFFFFE ++ leN 4 0xFFFFFFFF ++ leI 1 off ++ leN 1 2 ++ leN 1 0) s))
  else s

/-- CALENDAR_SECOND (R46, R20): the count advances on VCORE or VBAK while it is known; the 32.768 kHz crystal runs
(R584). -/
def execCalendarSecond (s : State) : Res :=
  let s := { s with bak.oscOk := true }
  if s.bak.caltime = 0xFFFFFFFF then .next s
  else if s.bak.caltime = 0xFFFFFFFE then .next (rangeEnd s)
  else .next { s with bak.caltime := s.bak.caltime + 1 }

/-- CALENDAR_RANGE_END (R20): the second after 0xFFFF_FFFE begins. -/
def execCalendarRangeEnd (s : State) : Res :=
  if s.bak.caltime = 0xFFFFFFFE then .next (rangeEnd s) else .next s

/-! ## Rates, boundaries, readings -/

/-- RATE_EVALUATION (R395). -/
def execRateEvaluation (s : State) : Res := if heartwoodRuns s then .next (evalRate s) else .next s

/-- BILLING_BOUNDARY (R403): calendar time stands at a boundary above the high-water mark. -/
def execBillingBoundary (s : State) : Res := if heartwoodRuns s && atBoundary s then .next (boundary s) else .next s

/-- READING_RELEASE (R416, R417). -/
def execReadingRelease (s : State) : Res := .next (releaseReadings s)

/-- The check value recomputed and compared: a mismatch is a fatal error of the heartwood (R422). -/
def recomputeCheck (s : State) : State :=
  let v := sha256 (s.bil.code.take s.bil.codeLen)
  if v = s.bil.check then s else fatalError 2 8 0 (emit 0x0708 255 (padTo 8 s.bil.check ++ padTo 8 v) s)

/-- CHECK_VALUE_RECOMPUTE (R422). -/
def execCheckValueRecompute (s : State) : Res := if heartwoodRuns s then .next (recomputeCheck s) else .next s

/-! ## Commands (R407, R432) -/

/-- The device is joined to a site: it is a member or the coordinator (R523). -/
def joinedSite (s : State) : Bool := s.canopy.role == 2 || s.canopy.role == 3

/-- TIME_SRC lets the host set calendar time (R407). -/
def hostMaySet (s : State) : Bool :=
  match fld s.bilCfg 27 26 with
  | 1 => false
  | 2 => !joinedSite s
  | _ => true

/-- TIME_SRC lets the canopy link set calendar time (R407). -/
def canopyMaySet (s : State) : Bool :=
  match fld s.bilCfg 27 26 with
  | 1 => true
  | 2 => joinedSite s
  | _ => false

/-- The time part of BIL_TIME_SET: with 0xFFFF_FFFF the offset alone is set and event 0x0703 shows an unchanged time (log
entry 73). -/
def hostSetTime (utc : BitVec 32) (s : State) : State :=
  if utc = 0xFFFFFFFF then evalRate (recordOffset 0 s)
  else setTime utc 0 s

/-- BIL_TIME_SET (R21, R406 to R411, R432): an offset outside -56 to 56 is taken as 0, and event 0x0703 records it. -/
def execBilTimeSet (h : CmdHdr) (utc : BitVec 32) (offset : Byte) (s : State) : Res :=
  let keep := offset == 0x7F
  let o := offset.toInt
  let r : Nat := if !hostMaySet s then 2 else 0
  let s := if r = 0 then hostSetTime utc (if keep then s else setOffset o s) else s
  .next (answer 0x070A 255 h.tag (leN 1 r) s)

/-- BIL_READ_ACK (R417, R432): the queued readings up to the one named leave the queue; with none of that number there is
nothing to remove, result 1 (log entry 74). -/
def execBilReadAck (h : CmdHdr) (no : Nat) (s : State) : Res :=
  match s.bil.queue.findIdx? (fun r => r.no == no) with
  | some i => .next (answer 0x070A 255 h.tag (leN 1 0) { s with bil.queue := s.bil.queue.drop (i + 1) })
  | none => .next (answer 0x070A 255 h.tag (leN 1 1) s)

/-- BIL_READ_NOW (R412 KIND 7, R432): at most one per bough and second. After a heartwood mismatch no reading is signed
(R422) and the result is open: a free value. -/
def execBilReadNow (h : CmdHdr) (s : State) : Res :=
  onHdr h s fun b =>
    if s.bilB[b].readNow then .next (answer 0x070A b.val h.tag (leN 1 4) s)
    else if s.bil.stopped then
      let (v, s) := s.free 8
      .next (answer 0x070A b.val h.tag [v] s)
    else
      .next (answer 0x070A b.val h.tag (leN 1 0) (signReading b 7 (s.onBil b (fun e => { e with readNow := true }))))

/-- BIL_INFO (R432, R433, R415). -/
def execBilInfo (h : CmdHdr) (s : State) : Res :=
  let key := (readingKey s).getD (List.replicate 65 0)
  let act := match s.bil.passive with
    | some c => leAt c 8 4
    | none => 0
  .next (answer 0x070B 255 h.tag (padTo 32 s.bil.check ++ key ++ keyId s ++ leN 4 (calId s.bil.calendar)
    ++ leN 4 (calId s.bil.passive) ++ leN 4 act) s)

/-- The readings that the event log holds, by number (R417). -/
def loggedReadings (s : State) (first count : Nat) : List LogRec :=
  ((s.nv.flash.reading.recs.map (·.2)).filter (fun r => r.code == 0x0701 && r.valid && !r.cleared
    && decide ((leAt r.data 4 4 + 2 ^ 32 - first) % 2 ^ 32 < count)))

/-- BIL_READ_GET (R432): the readings found go to the bulk window in the log's order; with none the result is 1. -/
def execBilReadGet (h : CmdHdr) (first count : Nat) (s : State) : Res :=
  if count = 0 ∨ 1024 < count then .next (answer 0x070A 255 h.tag (leN 1 3) s)
  else
    match loggedReadings s first count with
    | [] => .next (answer 0x070A 255 h.tag (leN 1 1) s)
    | rs => .next (answer 0x070A 255 h.tag (leN 1 0) (bulkOut 0x8705 (rs.flatMap (·.data)) s))

end Sys2Proof.Machine
end

