-- ==== Sys2Proof/Machine/FlashMap.lean ====
section
/-! DEFINITION. The attached flash byte by byte (R127): directory copies (R128), save and start entries (R124, R365, R366,
R424), slots, banks and the ledger journal (R224), the rings of the event log (R635, R638), histogram snapshots (R646) and
dumps (R656). State holds the areas by their contents; here is what each byte of them reads as. -/

namespace Sys2Proof.Machine

/-! ## Entries as bytes -/

/-- A body closed by its CRC-32C; an entry that fails it holds another. -/
def crcClosed (ok : Bool) (bs : List Byte) : List Byte := bs ++ leN 4 (if ok then crc32c bs else crc32c bs ^^^ 1)

/-- A directory copy of 32 bytes (R128); an unwritten one is erased. -/
def dirBytes (d : Dir) : List Byte :=
  if d.magicOk then
    crcClosed true (ascii "RDIR" ++ leN 4 d.seq ++ leN 1 d.ronif ++ leN 1 d.fw ++ leN 1 d.hw ++ [d.upd] ++ leN 16 d.rest.toNat)
  else List.replicate 32 0xFF

/-- The 16 bytes of a start entry (R124). -/
def startBytes (e : StartEntry) : List Byte := crcClosed e.crcOk (leN 8 e.opstamp.toNat ++ leN 4 e.caltime.toNat)

/-- The learned ratio of a channel: 0x8000 when not learned (R365). -/
def ratioBytes : Option Int → List Byte
  | some k => leI 2 k
  | none => leN 2 0x8000

/-- BOUGH{b} of a save entry, 144 bytes (R365). -/
def saveBoughBytes (x : SaveBough) : List Byte :=
  x.reg.toList.flatMap (fun r => leN 8 r.toNat) ++ x.carry.toList.flatMap (leN 4)
    ++ leN 4 (word [(27, fit 5 x.served), (24, fit 3 x.rsvState), (0, x.failed.toNat)]).toNat
    ++ leN 4 x.rgain ++ leI 4 x.roff ++ leI 2 x.rdelay ++ leN 2 0 ++ leI 4 x.pmean
    ++ leN 4 (b2n x.isOpen + 2 * b2n x.coils) ++ (List.range 24).flatMap (fun i => ratioBytes (x.k0.getD i none))

/-- BILL{b} of a save entry, 48 bytes (R424). -/
def saveBillBytes (x : SaveBough) : List Byte :=
  leN 8 x.whImp ++ leN 8 x.whExp ++ leI 6 x.cost ++ leI 6 x.credit ++ leN 4 x.sesNum ++ leN 2 x.sesIndex
    ++ leN 1 (b2n x.priced) ++ leN 1 0 ++ leN 4 (x.costCarry + 2 ^ 10 * x.credCarry) ++ leN 8 x.aImpStart.toNat

/-- RATE{i} of a save entry, 24 bytes (R424). -/
def rateBytes (r : RateReg) : List Byte := leN 8 r.imp ++ leN 8 r.exp ++ leN 4 r.impCarry ++ leN 4 r.expCarry

/-- BILLING of a save entry, 828 bytes (R424). -/
def billingBytes (e : SaveEntry) : List Byte :=
  leN 4 e.readingNo ++ leN 4 e.hwm ++ leN 4 e.calId ++ leN 1 e.rate ++ leN 1 e.demandMin ++ leI 1 e.offset ++ leN 1 e.flags
    ++ leN 4 e.intStart ++ leN 8 e.intStamp.toNat ++ leN 4 e.lrCount ++ padTo 16 e.prev ++ leN 4 e.setbacks
    ++ padTo 8 e.check8 ++ e.rates.toList.flatMap rateBytes ++ e.boughs.toList.flatMap saveBillBytes

/-- The 2,048 bytes of a save entry (R365). -/
def saveBytes (e : SaveEntry) : List Byte :=
  crcClosed e.crcOk (leN 8 e.opstamp.toNat ++ leN 4 e.caltime.toNat ++ ascii "PSAV" ++ leN 4 e.saveNo ++ leN 4 e.sesNum
    ++ leN 1 e.saveS ++ leN 1 e.cause ++ leN 19 0 ++ leN 19 0 ++ e.boughs.toList.flatMap saveBoughBytes ++ billingBytes e)

/-- A record as it stands in flash (R635). -/
def recBytes (r : LogRec) : List Byte :=
  let body := leN 2 r.data.length ++ leN 2 r.code ++ leN 1 r.bough ++ [r.flags] ++ leN 8 r.opstamp.toNat ++ leN 4 r.caltime.toNat
    ++ leN 4 r.seq.toNat ++ r.data
  leN 2 (if r.valid then 0xA5C3 else 0xFFFF) ++ withCrc (padTo (recSize r.data.length - 6) body)

/-- A histogram in the layout of R646. -/
def histBytes (h : Hist) : List Byte :=
  h.bins.toList.flatMap (fun n => leN 4 n) ++ leI 4 h.min ++ leI 4 h.max ++ leN 8 h.maxStamp.toNat

/-- The 3,268 bytes of a histogram snapshot (R646). -/
def snapBytes (e : HistSnap) : List Byte :=
  crcClosed e.valid (ascii "RHST" ++ leN 4 e.no ++ leN 8 e.opstamp.toNat ++ List.replicate 48 0
    ++ (List.range 40).flatMap (fun i => histBytes (e.hists.getD i {})))

/-! ## Bytes at offsets -/

/-- Byte o of an area that begins with the given bytes; the rest is erased. -/
def erasedFrom (bs : List Byte) (o : Nat) : Byte := bs.getD o 0xFF

/-- Byte o of the save area: slots of 2,048 bytes (R366). -/
def saveByte (f : Flash) (o : Nat) : Byte :=
  let k := o / 2048
  match f.saves.find? (fun e => e.place == k), f.starts.find? (fun e => e.place == k) with
  | some e, _ => erasedFrom (saveBytes e) (o % 2048)
  | none, some e => erasedFrom (startBytes e) (o % 2048)
  | none, none => 0xFF

/-- Byte o of a ring of the event log: sectors of 4,096 bytes (R639). -/
def ringByte (g : Ring) (o : Nat) : Byte :=
  let rs := (g.recs.filter (fun e => e.1 == o / 4096)).map (·.2)
  erasedFrom (rs.flatMap recBytes) (o % 4096)

/-- Byte o of the histogram area: a snapshot at the start of each sector (R638, R646). -/
def histByte (f : Flash) (o : Nat) : Byte :=
  match f.snaps.find? (fun e => e.place == o / 4096) with
  | some e => erasedFrom (snapBytes e) (o % 4096)
  | none => 0xFF

/-- The byte at a flash offset (R127, R638); a 256 Mbit flash ends at 32 MiB. -/
def flashByte (s : State) (o : Nat) : Option Byte :=
  let f := s.nv.flash
  if o < 0x8000 then some (erasedFrom (dirBytes f.dir[0]) o)
  else if o < 0x10000 then some (erasedFrom (dirBytes f.dir[1]) (o - 0x8000))
  else if o < 0x100000 then some (saveByte f (o - 0x10000))
  else if o < 0x200000 then some (erasedFrom f.ronif[0] (o - 0x100000))
  else if o < 0x300000 then some (erasedFrom f.ronif[1] (o - 0x200000))
  else if o < 0x700000 then some (erasedFrom f.fw[0] (o - 0x300000))
  else if o < 0xB00000 then some (erasedFrom f.fw[1] (o - 0x700000))
  else if o < 0xB80000 then some (erasedFrom f.hw[0] (o - 0xB00000))
  else if o < 0xC00000 then some (erasedFrom f.hw[1] (o - 0xB80000))
  else if o < 0x1600000 then some (journalByte s o)
  else if o < 0x1800000 then some (ringByte f.reading (o - 0x1600000))
  else if o < 0x1B00000 then some (ringByte f.coded (o - 0x1800000))
  else if o < 0x1BF0000 then some (ringByte f.general (o - 0x1B00000))
  else if o < 0x1C00000 then some (histByte f (o - 0x1BF0000))
  else if o < 0x1E00000 then some (erasedFrom f.dumps[0].bytes (o - 0x1C00000))
  else if o < 0x2000000 then some (erasedFrom f.dumps[1].bytes (o - 0x1E00000))
  else if f.big ∧ o < 0x4000000 then some (ringByte f.coded (o - 0x2000000 + 0x300000))
  else none

/-- A word of eight bytes. -/
def wordOf (bs : List Byte) : BitVec 64 := BitVec.ofNat 64 (ofLe bs)

/-- The eight bytes at a flash offset, where the flash reaches so far. -/
def flashWord (s : State) (o : Nat) : Option (BitVec 64) :=
  let bs := (List.range 8).filterMap (fun i => flashByte s (o + i))
  if bs.length = 8 then some (wordOf bs) else none

end Sys2Proof.Machine
end

