-- ==== Sys2Proof/Machine/Trunk.lean ====
section
/-! DEFINITION. The commands of the trunk, of the tick lattice and of the crypto engine (R26 to R68, R573 to R575). -/

namespace Sys2Proof.Machine

/-! ## Lanes and segments (R28 to R31) -/

/-- Numbers of the lanes of a mask. -/
def lanesOf (m : BitVec 9) : List Nat := (List.range 9).filter (fun i => m.getLsbD i)

/-- Lanes of a segment that work: the spare lane only while it is usable (R30, R31). -/
def workingLanes (g : Seg) : List Nat := (List.range 9).filter (fun i => !g.failed.getLsbD i && !(i == 8 && g.spareBad))

/-- Lanes that carry a flit: eight, the spare in place of the lane that it carries, or four in half mode. -/
def lanesInUse (g : Seg) : List Nat :=
  if g.half then (workingLanes g).take 4
  else match g.carried with
    | none => List.range 8
    | some l => (List.range 8).filter (· != l) ++ [8]

/-- Handshake slots of a segment in one 40.96 µs period: HST_PACE × 40.96 (R50); the floor pace until the first count
(log entry 77). In half mode a flit takes two of them (R30). -/
def paceSlots (s : State) : Nat := (if s.trunk.hstPace = 0 then 210 else s.trunk.hstPace) * 4096 / 100

/-- Handshakes that one flit takes on a segment (R30). -/
def flitCost (g : Seg) : Nat := if g.half then 2 else 1

/-- The segment of a flit changed. -/
def onSeg (i : Fin 23) (f : Seg → Seg) (s : State) : State := { s with trunk.seg := modAt s.trunk.seg i f }

/-- The pass buffer of stop i for a class changed. -/
def onPass (i : Nat) (k : Fin 4) (f : List Flit → List Flit) (s : State) : State :=
  { s with trunk.pass := modN s.trunk.pass i (fun v => modAt v k f) }

/-- The flits that wait at the ports of stop i, oldest first. -/
def waitingAt (s : State) (i : Nat) : List Flit := getN s.trunk.inject i []

/-- The flits that wait at stop i changed. -/
def onInject (i : Nat) (f : List Flit → List Flit) (s : State) : State :=
  { s with trunk.inject := modN s.trunk.inject i f }

/-! ## Access between initiators and targets (R42, R53) -/

/-- The area of the attached flash at a flash offset is one that a session core, the heartwood or the recorder may write
(R42, R127). -/
def inLedgerJournal (o : Nat) : Bool := decide (0x00C00000 ≤ o ∧ o < 0x01600000)
def inHeartwoodBanks (o : Nat) : Bool := decide ((0x00B00000 ≤ o ∧ o < 0x00C00000) ∨ (0x00010000 ≤ o ∧ o < 0x00100000))
def inLogAreas (o : Nat) : Bool := decide (0x01600000 ≤ o ∧ o < 0x04000000)

/-- The kinds of initiators of R42 by stop. -/
def isSessionCore (stop : Nat) : Bool := stop == 2 || stop == 3
def isModemStop (stop : Nat) : Bool := decide (13 ≤ stop ∧ stop ≤ 17)

/-- The stop at which the target of an address stands (R26, R53); none where the spec gives a range no stop of its own
(the register blocks, the crossing buffers) and for an unmapped address. -/
def targetStop (a : Nat) : Option Nat :=
  if a < 0x00380000 then some 5
  else if a < 0x00700000 then some 6
  else if a < 0x007C0000 then some (13 + (a - 0x00700000) / 0x30000)
  else if a < 0x00800000 then some 17
  else if 0x01000000 ≤ a ∧ a < 0x01400000 then some 7
  else if 0x02000000 ≤ a ∧ a < 0x02080000 then some 8
  else if 0x03000000 ≤ a ∧ a < 0x03001000 then some 21
  else if 0x0C000000 ≤ a ∧ a < 0x0C004000 then some 20
  else if 0x10000000 ≤ a ∧ a < 0x14000000 then some 0
  else none

/-- The table of R42: stop, write, address; no for an unmapped address (R53). Payload areas and the reading queue have no
addresses in the spec: a modem DSP reaches all of main SRAM, and the heartwood writes there (log entry 78). The host
port reads the mirror and the bulk window of the tag memory and of flash (R42). -/
def accessAllowed (s : State) (stop : Nat) (write : Bool) (a : Nat) : Bool :=
  if a < 0x00800000 then isSessionCore stop || isModemStop stop || stop == 0 || stop == 1 || stop == 22 || (stop == 8 && write)
  else if 0x01000000 ≤ a ∧ a < 0x01400000 then isSessionCore stop || stop == 0 || stop == 22 || (stop == 1 && write)
  else if 0x02000000 ≤ a ∧ a < 0x02080000 then stop == 0 && write && s.start.phase == 5
  else if 0x08000000 ≤ a ∧ a < 0x09000000 then true
  else if 0x0C000000 ≤ a ∧ a < 0x0C004000 then
    let p := (a - 0x0C000000) / 64
    isSessionCore stop || stop == 1 || (stop == 0 && (!write || decide (2 ≤ p ∧ p ≤ 6)))
      || (stop == 8 && (p == 1 || decide (8 ≤ p ∧ p ≤ 23))) || (stop == 22 && decide (24 ≤ p ∧ p ≤ 63))
  else if 0x10000000 ≤ a ∧ a < 0x14000000 then
    let o := a - 0x10000000
    (isSessionCore stop && (!write || inLedgerJournal o)) || (stop == 8 && inHeartwoodBanks o) || stop == 0 || stop == 1
      || (stop == 22 && inLogAreas o)
  else false

/-- A read that finds an uncorrectable word (R599): a core traps, which is a fatal error of it; a channel halts, and a
ledger slot is restored (R600); a halt of the start controller's load is counted (R601). -/
def readFails (x : Access) (s : State) : State :=
  match x.kind with
  | .channel =>
    let s := uncorrectable x.addr x.stop 2 { s with
      mem.halted := true, mem.haltStop := x.stop, mem.haltCh := x.chan,
      start.loadHalts := s.start.loadHalts + (if x.stop = 0 ∧ 3 ≤ s.start.phase ∧ s.start.phase ≤ 6 then 1 else 0) }
    if 0x01000000 ≤ x.addr then restoreSlot ((x.addr - 0x01000000) / 16) s else s
  | _ =>
    let s := uncorrectable x.addr x.stop 1 s
    fatalError (if isModemStop x.stop then 4 else if x.stop = 8 then 2 else 1) x.stop x.addr s

/-- The owner of a halted channel has restarted it (R601). -/
def restartChannel (x : Access) (s : State) : State :=
  if s.mem.halted && x.kind == .channel && s.mem.haltStop == x.stop && s.mem.haltCh == x.chan then
    { s with mem.halted := false } else s

/-- A word of the tag memory written through the trunk: one journalled transaction of its page (R546). -/
def tagWord (a : Nat) (bs : List Byte) (s : State) : State :=
  let o := a - 0x0C000000
  let p := o / 64
  tagCommit p (memGets zeroB (memPuts zeroB s.nv.tagMem o bs) (64 * p) 64) s

/-- A response joins the flits that wait at the target's stop, in the class of its request (R26, R42). -/
def respondTo (f : Flit) (refused : Bool) (a : Nat) (w : Option (BitVec 64)) (s : State) : State :=
  onInject f.dst.val (· ++ [{ src := f.dst, port := 0, dst := f.src, cls := f.cls, load := .reply refused a w }]) s

/-- A write served by its target: SRAM (R605), the tag memory (R546) or, for the host port, its mirror (R550). Register
blocks and the attached flash give a flit's word no effect of its own: their rows do (log entry 79). -/
def serveWrite (x : Access) (v : BitVec 64) (s : State) : State :=
  let a := x.addr / 8 * 8
  if (macroOf a).isSome then sramWrite a (leN 8 v.toNat) s
  else if 0x0C000000 ≤ a ∧ a < 0x0C004000 then
    if x.stop = 1 then { s with tag.mirror := memPuts zeroB s.tag.mirror (a - 0x0C000000) (leN 8 v.toNat) }
    else tagWord a (leN 8 v.toNat) s
  else s

/-- A read served by its target (R599): the word goes back; what a register block answers is free, since the spec lays
out no word of it, and so is what lies past the end of a 256 Mbit flash. -/
def serveRead (f : Flit) (x : Access) (s : State) : State :=
  let a := x.addr / 8 * 8
  if (macroOf a).isSome then
    let (ok, s) := readWord a x.stop s
    if ok then respondTo f false x.addr (some (wordOf (memGets zeroB s.mem.cells a 8))) s
    else readFails { x with addr := a } s
  else if 0x0C000000 ≤ a ∧ a < 0x0C004000 then
    let m := if x.stop = 1 then s.tag.mirror else s.nv.tagMem
    respondTo f false x.addr (some (wordOf (memGets zeroB m (a - 0x0C000000) 8))) s
  else match (if 0x10000000 ≤ a ∧ a < 0x14000000 then flashWord s (a - 0x10000000) else none) with
    | some w => respondTo f false x.addr (some w) s
    | none =>
      let (w, s) := s.free 64
      respondTo f false x.addr (some w) s

/-- An access served by its target (R42, R53): one that the table does not permit is answered by a refusal, with event
0x0108. -/
def serveAccess (f : Flit) (x : Access) (s : State) : State :=
  if !accessAllowed s x.stop x.write.isSome x.addr then
    respondTo f true x.addr none (emit 0x0108 255 (leN 1 x.stop ++ leN 4 x.addr) s)
  else
    let s := restartChannel x s
    match x.write with
    | some v => serveWrite x v s
    | none => serveRead f x s

/-! ## Flits (R26 to R29, R34 to R39, R62) -/

/-- The table of R26 with the classes of R34: what a stop injects, and in which class. A response carries the class of its
request, whichever stop gives it. -/
def mayInject (i : Nat) (f : Flit) : Bool :=
  match f.load with
  | .reply _ _ _ => true
  | .frame b => f.cls == 0 && i == (if b.val < 4 then 11 else 12) && f.dst.val == i
  | .result b => f.cls == 0 && i == (if b.val < 4 then 9 else 10) && f.dst == 8
  | .modem => f.cls == 1 && (isModemStop i || decide (5 ≤ i ∧ i ≤ 6))
  | .access x =>
    x.stop == i && (targetStop x.addr).all (· == f.dst.val)
      && ((f.cls == 2 && (decide (i ≤ 4) || i == 8 || decide (18 ≤ i ∧ i ≤ 22))) || (f.cls == 1 && isModemStop i)
        || (f.cls == 3 && i == 22))
  | .other => (f.cls == 2 && (decide (i ≤ 8) || decide (18 ≤ i ∧ i ≤ 22))) || (f.cls == 3 && i == 22)

/-- The flits that the ports of stop i bring join those that wait; the stop injects no other. -/
def takeOffers (i : Fin 23) (offers : List Flit) (s : State) : State :=
  onInject i.val (· ++ offers.filter (fun f => f.src == i && mayInject i.val f)) s

/-- A stop holds a credit of the class for the next stop (R36). -/
def hasCredit (s : State) (i : Nat) (k : Fin 4) : Bool := decide ((passAt s ((i + 1) % 23) k).length < 2)

/-- Slots that the class leaves alone in this period: the reservation of classes 0 and 1, 1,334 flits, which classes 2 and
3 never take on a segment that can carry more (R50), and the CAP of class 3 (R38, R57). -/
def classRoom (s : State) (i : Fin 23) (k : Fin 4) : Bool :=
  let g := s.trunk.seg[i]
  let c := flitCost g
  let back := g.load[(2 : Fin 4)] + g.load[(3 : Fin 4)] + c
  if k.val < 2 then true
  else (decide (paceSlots s ≤ 1334 * c) || decide (back + 1334 * c ≤ paceSlots s))
    && (k.val == 2 || decide (64 * (g.load[(3 : Fin 4)] + c) ≤ s.trunk.capNow * paceSlots s))

/-- A flit of the class in transit may go on: a background transfer that has started completes after CAP 0 (R68). -/
def transitRoom (s : State) (i : Fin 23) (k : Fin 4) : Bool := classRoom s i k || (k == 3 && s.trunk.capNow == 0)

/-- The port served next, round-robin (R35): the lowest above the one served last, else the lowest. -/
def nextPort (last : Nat) (ps : List Nat) : Option Nat :=
  let least := fun (l : List Nat) => l.foldl (fun m p => match m with | none => some p | some q => some (min p q)) none
  match least (ps.filter (fun p => decide (last < p))) with
  | some p => some p
  | none => least ps

/-- What stop i would send of class k (R35): a flit in transit before one to be injected, with a credit for the next stop
(R36). -/
def pickClass (s : State) (i : Fin 23) (k : Fin 4) : Option Pick :=
  if !hasCredit s i.val k then none
  else if !(passAt s i.val k).isEmpty && transitRoom s i k then some { transit := true, cls := k, port := 0 }
  else if !classRoom s i k then none
  else (nextPort (getN s.trunk.lastPort i.val (Vector.replicate 4 0))[k]
      (((waitingAt s i.val).filter (fun f => f.cls == k)).map (·.port))).map
    (fun p => { transit := false, cls := k, port := p })

/-- What the stop sends in the slot (R29, R35): the flit already started, else the first of the eight steps that has one.
-/
def pickFlit (s : State) (i : Fin 23) : Option Pick :=
  match s.trunk.seg[i].sending with
  | some p => some p
  | none => ([0, 1, 2, 3] : List (Fin 4)).findSome? (pickClass s i)

/-- The flit that a pick names. -/
def pickedFlit (s : State) (i : Fin 23) (p : Pick) : Option Flit :=
  if p.transit then (passAt s i.val p.cls).head?
  else (waitingAt s i.val).find? (fun f => f.cls == p.cls && f.port == p.port)

/-- The flit leaves the stop: its pass buffer gives the credit back, or its port has been served. -/
def leaveStop (i : Fin 23) (p : Pick) (f : Flit) (s : State) : State :=
  if p.transit then onPass i.val p.cls (·.drop 1) s
  else onInject i.val (·.erase f)
    { s with trunk.lastPort := modN s.trunk.lastPort i.val (fun v => v.set p.cls p.port) }

/-- The next stop takes a flit that is for it, the crossing its own frame back (R27), or holds it to pass it on. -/
def arrive (n : Nat) (f : Flit) (s : State) : State :=
  if f.dst.val = n then
    match f.load with
    | .access x => serveAccess f x s
    | _ => s
  else onPass n f.cls (· ++ [f]) s

/-- A handshake without error: a flit crosses, in half mode with its second half (R30). -/
def crossFlit (i : Fin 23) (p : Pick) (f : Flit) (s : State) : State :=
  let g := s.trunk.seg[i]
  if g.half && !g.halfSent then
    onSeg i (fun g => { g with sending := some p, halfSent := true, attempts := [] }) s
  else
    let s := onSeg i (fun g => { g with sending := none, halfSent := false, attempts := [] }) s
    admitMail (arrive ((i.val + 1) % 23) f (leaveStop i p f s))

/-- A handshake with errors on lanes in use: the flit stays with its sender and is sent again before any other (R29,
R62). -/
def rejectFlit (i : Fin 23) (p : Pick) (bad : BitVec 9) (s : State) : State :=
  onSeg i (fun g => { g with sending := some p, attempts := g.attempts ++ [bad] })
    { s with trunk.resends := min 8191 (s.trunk.resends + 1) }

/-- The lanes in use that showed an error. -/
def badLanes (g : Seg) (errs : BitVec 9) : BitVec 9 :=
  BitVec.ofNat 9 ((lanesOf errs).foldl (fun m i => if (lanesInUse g).contains i then m ||| (1 <<< i) else m) 0)

/-- TRUNK_FLIT (R28, R29, R35): one handshake slot of the segment that starts at stop i, after the flits that the stop's
ports bring. A flit that failed three times waits for LANE_FAILED. -/
def execTrunkFlit (i : Fin 23) (offers : List Flit) (errs : BitVec 9) (s : State) : Res :=
  let s := takeOffers i offers s
  let g := s.trunk.seg[i]
  if 3 ≤ g.attempts.length then .next s
  else match pickFlit s i with
  | none => .next s
  | some p => match pickedFlit s i p with
    | none => .next s
    | some f =>
      let s := onSeg i (fun g => { g with load := modAt g.load p.cls (· + 1) }) s
      let bad := badLanes g errs
      if bad = 0 then .next (crossFlit i p f s) else .next (rejectFlit i p bad s)

/-- The lane to declare failed (R29): in error in all attempts, else with the most errors; the lower number at a tie. -/
def failedLane (g : Seg) : Nat :=
  let count := fun (i : Nat) => (g.attempts.filter (fun m => m.getLsbD i)).length
  (List.range 9).foldl (fun best i => if count best < count i then i else best) 0

/-- LANE_FAILED (R29, R30): the spare lane takes the failed lane's bits, or the segment goes to half mode; with fewer than
four working lanes it is a fatal error. -/
def execLaneFailed (seg : Fin 23) (s : State) : Res :=
  let g := s.trunk.seg[seg]
  if g.attempts.length < 3 then .next s
  else
    let l := failedLane g
    let s := { s with trunk.lastSeg := seg.val, trunk.lastLane := l }
    let s := onSeg seg (fun g => { g with failed := g.failed ||| BitVec.ofNat 9 (1 <<< l), attempts := [] }) s
    if g.carried.isNone && !g.spareBad && !g.half then
      let s := { s with mem.softList := s.mem.softList ++ [laneEntry seg.val l] }
      .next (emit 0x0102 255 (leN 1 seg.val ++ leN 1 l) (onSeg seg (fun g => { g with carried := some l }) s))
    else
      let s := onSeg seg (fun g => { g with half := true, halfSent := false }) s
      let g := s.trunk.seg[seg]
      let s := emit 0x0103 255 (leN 1 seg.val ++ leN 4 (lanesOf g.failed).length) s
      .next (if (workingLanes g).length < 4 then fatalError 5 seg.val 0 s else s)

/-- SPARE_LANE_PATTERN (R31): the segments whose unused spare lane failed its pattern. -/
def execSpareLanePattern (bad : BitVec 23) (s : State) : Res :=
  if !s.lat.running || s.lat.pllLost then .next s
  else .next ((List.finRange 23).foldl (fun t i =>
    let g := t.trunk.seg[i]
    if bad.getLsbD i.val && g.carried.isNone && !g.spareBad then
      emit 0x0107 255 (leN 1 i.val)
        (onSeg i (fun g => { g with spareBad := true }) { t with mem.softList := t.mem.softList ++ [laneEntry i.val 8] })
    else t) s)

/-! ## Pace (R32, R33) -/

/-- The pace alarm on a new HST_PACE value of segment seg (R33). -/
def paceAlarm (seg : Nat) (s : State) : State :=
  let p := s.trunk.hstPace
  if !bitOf s.sysPaceAlarm 31 then { s with trunk.paceLow := false, trunk.paceOk := 0 }
  else if p < alarmLevel s then
    if s.trunk.paceLow then { s with trunk.paceOk := 0 }
    else emit 0x0101 255 (leN 2 p ++ leN 1 seg) (raiseIrq 5 { s with trunk.paceLow := true, trunk.paceOk := 0 })
  else if s.trunk.paceLow then
    if 10 ≤ s.trunk.paceOk + 1 then { s with trunk.paceLow := false, trunk.paceOk := 0 }
    else { s with trunk.paceOk := s.trunk.paceOk + 1 }
  else s

/-- The segment with the lowest count, the lower number at a tie. -/
def slowestSeg (counts : List Nat) : Nat :=
  (List.range 23).foldl (fun best i => if counts.getD i 0 < counts.getD best 0 then i else best) 0

/-- PACE_COUNT (R32, R58): the replica handshakes of the 23 segments over one millisecond. -/
def execPaceCount (counts : List Nat) (s : State) : Res :=
  if !s.lat.running || s.lat.pllLost then .next s
  else
    let g := slowestSeg counts
    let p := counts.getD g 0 / 1000
    let s := { s with trunk.hstPace := p, trunk.paceMax := max s.trunk.paceMax p,
                      trunk.minSeg := if p < s.trunk.paceMin then g else s.trunk.minSeg,
                      trunk.paceMin := min s.trunk.paceMin p }
    .next (paceAlarm g s)

/-! ## Crystals and PLL (R47, R48) -/

/-- CRYSTAL_CHECK (R47): 25 MHz cycles counted over 32,768 cycles of the 32.768 kHz crystal. -/
def execCrystalCheck (count : Nat) (s : State) : Res :=
  if !s.lat.running || s.lat.pllLost then .next s
  else
    let d : Int := (count : Int) - 25000000
    if 12500 < d.natAbs then
      let n := min 3 (s.lat.devRun + 1)
      let s := { s with lat.devRun := n, lat.devOk := 0 }
      if n = 3 ∧ !s.lat.deviating then
        .next (emit 0x0105 255 (leI 4 (quot d 25)) { s with lat.deviating := true })
      else .next s
    else
      let n := min 3 (s.lat.devOk + 1)
      .next { s with lat.devRun := 0, lat.devOk := n, lat.deviating := s.lat.deviating && decide (n < 3) }

/-- PLL_LOCK_LOSS (R48): heartbeat and sample frames stop while it lasts. -/
def execPllLockLoss (s : State) : Res :=
  if !s.lat.running || s.lat.pllLost then .next s
  else .next (emit 0x0105 255 (leN 4 0xFFFF) { s with lat.pllLost := true })

/-- PLL_RECOVERY (R48): the lattice restarts at a millisecond tick boundary, frames and heartbeat resume. -/
def execPllRecovery (s : State) : Res :=
  if s.lat.pllLost then .next (emit 0x0105 255 (leN 4 0xFFFE) { s with lat.pllLost := false }) else .next s

/-! ## Ticks (R45, R49) -/

/-- One overrun of a stop: event 0x0106 at the first in each second (R49); it is recorded at once, so its count is 1
(DESIGN CHOICE, log entry 165). -/
def countOverrun (i : Fin 23) (s : State) : State :=
  let n := s.trunk.overrun[i] + 1
  let s := { s with trunk.overrun := s.trunk.overrun.set i n }
  if n = 1 then emit 0x0106 255 (leN 1 i.val ++ leN 4 n) s else s

/-- The class loads of the period that ends enter the peaks in 1/256 of the segment's slots (R60). -/
def takePeaks (s : State) : State :=
  let peak := fun (k : Fin 4) => (List.finRange 23).foldl (fun m i =>
    let g := s.trunk.seg[i]
    max m (min 255 (256 * g.load[k] / max 1 (paceSlots s)))) s.trunk.peak[k]
  { s with trunk.peak := Vector.ofFn peak, trunk.seg := s.trunk.seg.map (fun g => { g with load := Vector.replicate 4 0 }) }

/-- The sample tick: a new budget period begins, under the CAP in force (R68); the crossings have drained what
the period's slots took (R51). -/
def sampleTick (s : State) : State :=
  let s := takePeaks s
  let slots := paceSlots s
  { s with lat.smp := (s.lat.smp + 1) % 2 ^ 24, trunk.capNow := fld s.sysBgCap 5 0,
           trunk.smpFill := s.trunk.smpFill.map (· - slots),
           trunk.vrxFill := s.trunk.vrxFill.map (· - 32 * slots), trunk.crxFill := s.trunk.crxFill - 32 * slots }

/-- A bough that waits to be held is held once its session lets it (R652, R681). -/
def holdWhenIdle (b : Bough) (s : State) : State :=
  if s.sesL[b].held && !s.saf[b].holdOther && !s.saf[b].holdUpd then
    match s.ses[b].state with
    | .idle | .finished | .faulted =>
      let upd := s.log.fatalCause.isNone
      holdSession b (if upd then 1 else 2) (s.onSaf b (fun f => { f with holdOther := !upd, holdUpd := upd }))
    | _ => s
  else s

/-- The SLAC window opens when 5 % duty starts after the confirmation of state B, once until state A (R181, R183 step 3).
-/
def openWindow (b : Bough) (s : State) : State :=
  let p := s.ports[b]
  if digital s b && p.out == .x2 && p.duty == 50 && !p.winDone && p.slac != 4 then
    s.onPort b (fun p => { p with winOpen := true, winDone := true, slac := 1 })
  else s

/-- What waits for the pilot's rising edge applies (R164). -/
def pilotEdge (b : Bough) (s : State) : State :=
  match s.ports[b].next with
  | none => s
  | some (m, d, i) => openWindow b (s.onPort b (fun p => { p with
      out := m, duty := d, offered := i, next := none, diode := p.diode && m == .x2, negMv := if m = .x2 then p.negMv else 0 }))

/-- The duties of AUX_SET that wait apply; those that came before P7 wait for it (R444). -/
def auxEdge (s : State) : State :=
  if !s.ready then s
  else allChannels.foldl (fun t c =>
    match t.aux[c].waitDuty with
    | some d => auxDrive c (t.onAux c (fun a => { a with duty := d, waitDuty := none }))
    | none => t) s

/-- The channels whose rising edge falls now (R445). -/
def auxEdges (s : State) : State := allChannels.foldl (fun t c => pwmEdge c t) s

/-- A host-port test slice has ended by the next millisecond tick (R615, R734; log entry 89). -/
def endPortSlice (s : State) : State :=
  if s.host.bistRunning then { s with host.bistRunning := false, mem.part := 15 } else s

/-- The second values of bough b: event 0x0602 of the second's substitutions, and the mean power (R355, R365, R381). -/
def secondBough (b : Bough) (s : State) : State :=
  let e := s.nrg[b]
  let s := if 0 < e.subSec then emit 0x0602 b.val (leN 1 e.subMask ++ leN 4 e.subSec) s else s
  let s := s.onNrg b (fun e => { e with subSec := 0, subMask := 0 })
  let s := closeSecond b s
  let s := s.onBil b (fun e => { e with readNow := false })
  let s := if s.ses[b].state = .charging then s.onSesL b (fun l => { l with chargeSecs := l.chargeSecs + 1 }) else s
  s.onMtr b (fun m => { m with ch := m.ch.map (fun c => { c with ovrNoted := false }) })

/-- The work of stop i at a tick: the session cores hold boughs that became idle, the safety block ends pull-ins, stop 19
takes its waiting duties, stop 22 ends the host port's test slice, and the energy engine closes the second of its
boughs. -/
def stopWork (t : Tick) (i : Fin 23) (s : State) : State :=
  match t, i.val with
  | .millisecond, 2 => forMask 0x0F holdWhenIdle s
  | .millisecond, 3 => forMask 0xF0 holdWhenIdle s
  | .millisecond, 18 => forBoughs holdCoils s
  | .millisecond, 19 => auxEdge s
  | .millisecond, 22 => endPortSlice s
  | .second, 9 => forMask 0x0F secondBough s
  | .second, 10 => forMask 0xF0 secondBough s
  | _, _ => s

/-- A tick at stop i (R49): a stop that still works on the tick before holds this one, one at most, and counts an overrun;
one that has finished takes the tick it held and then this one. -/
def stopTick (t : Tick) (busy : BitVec 23) (i : Fin 23) (s : State) : State :=
  if busy.getLsbD i.val then
    countOverrun i (if s.trunk.heldTick[i].isSome then s else { s with trunk.heldTick := s.trunk.heldTick.set i (some t) })
  else
    let s := match s.trunk.heldTick[i] with
      | some h => stopWork h i { s with trunk.heldTick := s.trunk.heldTick.set i none }
      | none => s
    stopWork t i s

/-- What a tick does besides the work of the stops. The microsecond tick gives bough b its rising edge 125·b µs after
each millisecond tick (R164), and the load channels theirs (R445); at a second, what is recorded at most once per
second may be recorded again. -/
def latticeWork (t : Tick) (s : State) : State :=
  match t with
  | .microsecond =>
    let s := { s with lat.us := s.lat.us + 1, lat.usInMs := s.lat.usInMs + 1 }
    auxEdges (forBoughs (fun b u => if s.lat.usInMs = 125 * b.val then pilotEdge b u else u) s)
  | .sample => sampleTick s
  | .millisecond => auxEdges (pilotEdge 0 { s with lat.ms := s.lat.ms + 1, lat.usInMs := 0 })
  | .operating => { s with
      lat.opTicks := s.lat.opTicks + 1,
      lat.optime := if s.lat.stampOn then min (2 ^ 40 - 1) (s.lat.optime + 1) else s.lat.optime }
  | .second => { s with lat.sec := s.lat.sec + 1, trunk.overrun := Vector.replicate 23 0, mem.corrNoted := [],
                        host.lostNoted := false, aux := s.aux.map (fun a => { a with faultNoted := false }) }

/-- LATTICE_TICK (R45, R49): busy names the stops that still work on the tick before. -/
def execLatticeTick (t : Tick) (busy : BitVec 23) (s : State) : Res :=
  if !s.lat.running || s.lat.pllLost then .next s
  else .next ((List.finRange 23).foldl (fun u i => stopTick t busy i u) (latticeWork t s))

/-! ## Crypto engine (R43, R573 to R575) -/

/-- Order of R43: heartwood, session cores, start controller. -/
def cryptoRank (stop : Nat) : Nat := if stop = 8 then 0 else if isSessionCore stop then 1 else 2

/-- The next request: the lowest rank, in arrival order. -/
def nextCrypto (q : List CryptoReq) : Option CryptoReq :=
  match q.find? (fun r => cryptoRank r.stop == 0) with
  | some r => some r
  | none => match q.find? (fun r => cryptoRank r.stop == 1) with
    | some r => some r
    | none => q.head?

/-- The request names no handle, or one bound to its stop; reading-sign handles go to the heartwood gate alone (R573). -/
def handleOk (s : State) (r : CryptoReq) : Bool :=
  (match r.handle with
   | none => true
   | some h => s.crypto.keys.any (fun k => k.handle == h && k.stop == r.stop))
    && !(r.op == .hkdf && r.label == .readingSign && r.stop != 8)

/-- CRYPTO_REQUEST (R42, R43, R573). -/
def execCryptoRequest (r : CryptoReq) (s : State) : Res :=
  if !(r.stop == 8 || isSessionCore r.stop || r.stop == 0) then
    let (a, s) := s.free 32
    .next (emit 0x0108 255 (leN 1 r.stop ++ leN 4 a.toNat) s)
  else if !handleOk s r then .next (emit 0x0C08 255 (leN 1 r.stop ++ leN 1 (r.handle.getD 0)) s)
  else if s.crypto.running.isSome then .next { s with crypto.queue := s.crypto.queue ++ [r] }
  else .next { s with crypto.running := some r }

/-- The root that a label derives from is held (R571). -/
def labelAvailable (s : State) (l : KeyLabel) : Bool :=
  match l with
  | .seccP256 | .seccP521 | .seccEd448 => (s.rootOf 1).isSome
  | .readingSign => s.heartwoodRoot.isSome
  | .install => !s.nv.installSecret.isEmpty
  | _ => (s.rootOf s.rootInUse).isSome

/-- The lowest key register not in use. -/
def freeHandle (s : State) : Option Nat := (List.range 32).find? (fun h => !s.crypto.keys.any (fun k => k.handle == h))

/-- The outcome of an operation: a derivation takes a key register; what needs random output fails while it is withheld
(R575); the outcome of a verification or of an opening depends on data that the command does not bring: free. -/
def finishCrypto (r : CryptoReq) (s : State) : Bool × State :=
  match r.op with
  | .hkdf =>
    match labelAvailable s r.label, freeHandle s with
    | true, some h => (true, { s with crypto.keys := s.crypto.keys ++ [{ handle := h, stop := r.stop, label := r.label }] })
    | _, _ => (false, s)
  | .random | .ecdh | .sign => (s.crypto.drbgOk, s)
  | .verify | .gcm =>
    let (v, s) := s.free 1
    (v == 1, s)
  | .hash | .hmac => (true, s)

/-- CRYPTO_OPERATION_DONE (R43, R574). -/
def execCryptoOperationDone (s : State) : Res :=
  match s.crypto.running with
  | none => .next s
  | some r =>
    let (ok, s) := if s.crypto.fellOp then (false, s) else finishCrypto r s
    let s := { s with crypto.fellOp := false, crypto.results := { stop := r.stop, op := r.op, ok := ok } :: s.crypto.results }
    match nextCrypto s.crypto.queue with
    | none => .next { s with crypto.running := none }
    | some n => .next { s with crypto.running := some n, crypto.queue := s.crypto.queue.erase n }

/-! ## Heartwood mailbox (R66) -/

/-- HEARTWOOD_MAILBOX_WRITE (R66): the write of a running session core completes once the mailbox has room and class 2 a
credit at stop 8, after the writes that already wait. -/
def execHeartwoodMailboxWrite (m : Mail) (s : State) : Res :=
  if s.safDev.coreDead.getLsbD m.core.val then .next s
  else .next (admitMail { s with trunk.mailWait := s.trunk.mailWait ++ [m] })

end Sys2Proof.Machine
end

