-- ==== Sys2Proof/Machine/Supply.lean ====
section
/-! DEFINITION. The device reset, and the commands of supplies, temperatures and the backup domain (R78 to R119). -/

namespace Sys2Proof.Machine

/-- What the service tag keeps through a reset of the device: the reader's field powers it. -/
def tagThroughReset (t : Tag) : Tag :=
  { field := t.field, level := t.level, fdetLow := t.fdetLow, powered := t.powered, halted := t.halted,
    selected := t.selected, drawn := t.drawn, reply := t.reply, served := t.served, pair := t.pair, seq := t.seq }

/-- Causes of the power die's fail-safe while the logic die is reset: no heartbeat, and what the power die's own supply
and temperature hold (R87, R277). -/
def causesInReset (s : State) : List FsCause :=
  [.wdog] ++ (if s.supply.tripped.getLsbD 5 then [.vpwr] else []) ++ (if s.supply.shutdown then [.thermal] else [])

/-- A device reset: nothing survives but nonvolatile memory, the backup domain, what the surroundings apply to the pins,
and the commands that wait (R87, R117, R160). -/
def deviceReset (s : State) : State :=
  { State.reset with
    pending := s.pending, freeCount := s.freeCount, nv := s.nv, bak := s.bak, tag := tagThroughReset s.tag,
    supply := { inRange := s.supply.inRange, tripped := s.supply.tripped, trippedHigh := s.supply.trippedHigh,
                resetHeld := s.supply.resetHeld, rstHold := s.supply.rstHold, shutdown := s.supply.shutdown },
    safDev := { fsCauses := causesInReset s },
    aux := s.aux.map (fun a => { uv := a.uv }),
    auxDev := { thermalOff := s.supply.shutdown, vpwrOff := s.supply.tripped.getLsbD 5 } }

/-- A bit of the supply monitors. -/
def supplyBit (id : Fin 13) : BitVec 13 := BitVec.ofNat 13 (1 <<< id.val)

/-- The trip entered in the supply-trip flag of the backup domain (R87, R112); the flag is lost while VIO and VBAK are
both below their limits (R85, R113). -/
def flagTrip (id : Fin 13) (high : Bool) (s : State) : State :=
  if s.bak.onVbak && s.bak.lost then s
  else
    { s with bak.tripBits := s.bak.tripBits ||| supplyBit id,
             bak.highBits := if high then s.bak.highBits ||| supplyBit id else s.bak.highBits }

/-- The channels of load group g lose their supply (R86, R454). -/
def groupOff (g : Nat) (s : State) : State :=
  (allChannels.filter (fun c => c.val / 8 == g)).foldl (fun t c =>
    auxDrive c (t.onAux c (fun a => { a with uv := true }))) s

/-- The reaction of R86 to a trip that does not reset the device. -/
def tripReaction (id : Fin 13) (s : State) : State :=
  match id.val with
  | 5 => fsEnter .vpwr 17 { s with auxDev.vpwrOff := true }
  | 6 | 7 => driveAll s
  | 9 | 10 | 11 | 12 => groupOff (id.val - 9) s
  | _ => s

/-- A bough with no coil driven and no closing sequence. -/
def openedBough (f : SafBough) : SafBough :=
  { f with coils := f.coils.map (fun c => { c with driven := false, holding := false }), closing := .none }

/-- What the power die does at a trip while the logic die is held in reset: coils and load channels off with VPWR, the
channels of a load group off with theirs (R86, R87). -/
def tripInReset (id : Fin 13) (s : State) : State :=
  match id.val with
  | 5 => auxAll { s with auxDev.vpwrOff := true,
                         saf := s.saf.map openedBough,
                         safDev.fsCauses := if s.safDev.fsCauses.contains .vpwr then s.safDev.fsCauses
                           else s.safDev.fsCauses ++ [.vpwr] }
  | 6 | 7 => driveAll s
  | 9 | 10 | 11 | 12 => groupOff (id.val - 9) s
  | _ => s

/-- Trips whose events the reset would lose, because their records still wait to be written, enter the flag: supplies that
trip together are all kept, whichever tripped first (R87, R112). -/
def keepTrips (s : State) : State :=
  ((s.log.held ++ s.log.queue).filter (fun r => r.code == 0x0109)).foldl (fun t r =>
    match (List.finRange 13).find? (fun i => i.val == leAt r.data 0 1) with
    | some i => flagTrip i (leAt r.data 1 1 == 1) t
    | none => t) s

/-- SUPPLY_TRIP (R86 to R89, R112, R161). A trip that falls while a reset is in progress, up to T0, is kept in the flag.
It counts for LAST_TRIP; the trip that causes a reset falls before it and is cleared by it (R109, DESIGN CHOICE, log
entry 166). -/
def execSupplyTrip (id : Fin 13) (high : Bool) (s : State) : Res :=
  if s.supply.tripped.getLsbD id.val then .next s
  else
    let s := { s with supply.tripped := s.supply.tripped ||| supplyBit id,
                      supply.trippedHigh := if high then s.supply.trippedHigh ||| supplyBit id else s.supply.trippedHigh,
                      supply.inRange := s.supply.inRange &&& ~~~supplyBit id,
                      supply.lastTrip := id.val, supply.lastHigh := high }
    if s.supply.resetHeld || !s.start.released then
      .next (tripInReset id (flagTrip id high { s with
        supply.resetHeld := s.supply.resetHeld || (decide (id.val ≤ 4) && !high),
        supply.rstHold := s.supply.rstHold || (decide (id.val ≤ 4) && !high) }))
    else if id.val ≤ 4 ∧ !high then
      .next (deviceReset (flagTrip id false (keepTrips { s with supply.resetHeld := true, supply.rstHold := true })))
    else
      let wait := s.start.phase == 6 && decide (5 ≤ id.val) && (!s.start.waitSupply || s.start.waitFor != 0)
      .next (tripReaction id (emit 0x0109 255 (leN 1 id.val ++ leN 1 (b2n high))
        { s with start.waitSupply := s.start.waitSupply || wait,
                 start.waitFor := if wait then s.start.waitFor ||| supplyBit id else s.start.waitFor }))

/-- No monitor of 0 to 4 reports its supply below the low threshold (R116). -/
def resetFree (s : State) : Bool := (s.supply.tripped &&& ~~~s.supply.trippedHigh &&& 0x1F) == 0

/-- The end of the reaction to a trip (R87, R88, R277). Group channels wait for GROUP_SUPPLY_RETURN. -/
def recoveryAction (id : Fin 13) (s : State) : State :=
  match id.val with
  | 5 => auxAll (fsLeave .vpwr { s with auxDev.vpwrOff := false })
  | 6 | 7 => driveAll s
  | _ => s

/-- The group's channels wait for GROUP_SUPPLY_RETURN where their supply was absent without a trip, as at power-on
(R114). -/
def groupWaits (id : Fin 13) (s : State) : State := if 9 ≤ id.val then groupOff (id.val - 9) s else s

/-- SUPPLY_RECOVERY (R87, R88): the supply stands within both thresholds. After a reset that a monitor caused, RSTOUTN
stays low until every tripped supply is back, also past the end of P0 (R87, R121). -/
def execSupplyRecovery (id : Fin 13) (s : State) : Res :=
  let was := s.supply.tripped.getLsbD id.val
  let absent := !s.supply.inRange.getLsbD id.val
  let s := { s with supply.tripped := s.supply.tripped &&& ~~~supplyBit id,
                    supply.trippedHigh := s.supply.trippedHigh &&& ~~~supplyBit id,
                    supply.inRange := s.supply.inRange ||| supplyBit id }
  let s := if s.supply.rstHold && s.supply.tripped == 0 then
      { s with supply.rstHold := false, start.rstOutN := s.start.rstOutN || decide (1 ≤ s.start.done) } else s
  let s := if absent then groupWaits id s else s
  .next (if was then recoveryAction id s else s)

/-- BACKUP_SWITCHOVER (R83, R110): switch-overs to VBAK are counted. -/
def execBackupSwitchover (toVbak : Bool) (s : State) : Res :=
  .next { s with bak.onVbak := toVbak,
                 bak.switches := if toVbak && !s.bak.onVbak then s.bak.switches + 1 else s.bak.switches }

/-- BACKUP_DOMAIN_LOSS (R85): with VIO absent the backup domain's contents are gone. -/
def execBackupDomainLoss (s : State) : Res :=
  if s.bak.onVbak then .next { s with bak := { onVbak := true, lost := true } } else .next s

/-- WARN_LEVEL; values above 125 act as 125 (R107). -/
def warnLevel (s : State) : Int := min 125 (toInt 8 (fld s.sysTempWarn 7 0))

/-- DIE_TEMP_UPDATE (R94, R108): event 0x010B once, until all three dies have fallen 5 K below the level. Where several
dies reach it in one update the event names the lowest number (DESIGN CHOICE, log entry 167). -/
def execDieTempUpdate (logic mixed power : Int) (s : State) : Res :=
  let s := { s with supply.tLogic := logic, supply.tMixed := mixed, supply.tPower := power }
  let lv := warnLevel s
  let cool := decide (logic ≤ lv - 5) && decide (mixed ≤ lv - 5) && decide (power ≤ lv - 5)
  let hot : Option (Nat × Int) :=
    if lv ≤ logic then some (0, logic) else if lv ≤ mixed then some (1, mixed) else if lv ≤ power then some (2, power)
    else none
  match hot with
  | some (die, t) =>
    if bitOf s.sysTempWarn 31 && !s.supply.warned then
      .next (emit 0x010B 255 (leN 1 die ++ leI 4 t) { s with supply.warned := true })
    else .next s
  | none => .next { s with supply.warned := s.supply.warned && !cool }

/-- POWER_DIE_THERMAL_SHUTDOWN (R95, R278 code 18). -/
def execPowerDieThermalShutdown (temp : Int) (s : State) : Res :=
  if s.supply.shutdown then .next s
  else
    .next (fsEnter .thermal 18 (emit 0x010C 255 (leI 4 temp)
      { s with supply.shutdown := true, auxDev.thermalOff := true }))

/-- POWER_DIE_THERMAL_RECOVERY (R95): the power die has fallen below 135 °C. -/
def execPowerDieThermalRecovery (s : State) : Res :=
  if s.supply.shutdown then
    .next (auxAll (fsLeave .thermal { s with supply.shutdown := false, auxDev.thermalOff := false }))
  else .next s

/-- RESETN_LOW (R117): at least 1 µs resets the device, less than 100 ns does nothing; between the two the spec says
neither, and a free bit decides (log entry 86). -/
def execResetnLow (ns : Nat) (s : State) : Res :=
  if ns < 100 then .next s
  else if 1000 ≤ ns then .next (deviceReset s)
  else
    let (v, s) := s.free 1
    .next (if v = 1 then deviceReset s else s)

end Sys2Proof.Machine
end

