-- ==== Sys2Proof/Machine/Display.lean ====
section
/-! DEFINITION. The commands of the segment display (R471 to R490). -/

namespace Sys2Proof.Machine

/-! ## Pages (R476, R479) -/

/-- A page is enabled by LCD_PAGE_CFG; C1 and C2 always are (R476). -/
def pageOn (s : State) (p : Nat) : Bool :=
  if p < 8 then bitOf s.lcdPageCfg (24 + p)
  else if p < 16 then bitOf s.lcdPageCfg (8 + p)
  else if p = 16 then bitOf s.lcdPageCfg 15
  else if p = 17 then bitOf s.lcdPageCfg 14
  else decide (p < 20)

/-- The home page: the enabled page with the lowest number. -/
def homePage (s : State) : Nat := ((List.range 20).find? (pageOn s)).getD 18

/-- The next enabled page, from page 19 back to the home page (R479). -/
def nextPage (s : State) : Nat := ((List.range 20).find? (fun p => decide (s.lcd.page < p) && pageOn s p)).getD (homePage s)

/-! ## Characters and elements (R475) -/

/-- The segments of a character; any other character is shown as "-". -/
def glyphOf (c : Nat) : Nat :=
  match c with
  | 0x30 => 0x3F | 0x31 => 0x06 | 0x32 => 0x5B | 0x33 => 0x4F | 0x34 => 0x66 | 0x35 => 0x6D | 0x36 => 0x7D
  | 0x37 => 0x07 | 0x38 => 0x7F | 0x39 => 0x6F | 0x41 => 0x77 | 0x62 => 0x7C | 0x43 => 0x39 | 0x64 => 0x5E
  | 0x45 => 0x79 | 0x46 => 0x71 | 0x4C => 0x38 | 0x50 => 0x73 | 0x72 => 0x50 | 0x6E => 0x54 | 0x74 => 0x78
  | 0x20 => 0x00 | _ => 0x40

/-- The segments of a decimal digit, or of a hexadecimal digit as A, b, C, d, E, F. -/
def digitGlyph (d : Nat) : Nat :=
  match d with
  | 10 => 0x77 | 11 => 0x7C | 12 => 0x39 | 13 => 0x5E | 14 => 0x79 | 15 => 0x71
  | _ => glyphOf (0x30 + d)

/-- Decimal digits of n at positions 11 down to 12 - k, the digit at place `point` with the decimal point, leading zeros
blanked above place `keep` (R476). Place 0 is the last position. -/
def decimals (n k keep point : Nat) : List Nat :=
  (List.range k).reverse.map (fun i =>
    let d := n / 10 ^ i % 10
    if n < 10 ^ i ∧ keep < i then 0 else digitGlyph d + (if point ≠ 0 ∧ i = point then 128 else 0))

/-- A value of at most ten positions, right-aligned at positions 2 to 11. -/
def rightAlign (v : List Nat) : List Nat := List.replicate (10 - v.length) 0 ++ v

/-- Eight hexadecimal digits of four bytes, the high nibble first (R423). -/
def hexDigits (bs : List Byte) : List Nat := bs.flatMap (fun b => [digitGlyph (b.toNat / 16), digitGlyph (b.toNat % 16)])

/-- The segment bytes of the twelve positions of page p; lab is the display label of the rate in force (R476). -/
def pageText (s : State) (p : Nat) (lab : List Byte) : List Nat :=
  if p < 8 then
    [glyphOf 0x50, digitGlyph p] ++ rightAlign (decimals (getN s.bilB p {}).whImp 9 3 3)
  else if p < 16 then
    [glyphOf 0x45, digitGlyph (p - 8)] ++ rightAlign (decimals (getN s.bilB (p - 8) {}).whExp 9 3 3)
  else if p = 16 then
    lab.map (fun b => glyphOf b.toNat) ++ rightAlign (match s.bil.calendar, pricing s with
      | some cal, true => decimals (priceOf cal s.bil.rate 0) 10 5 5
      | _, _ => [0x40, 0x40, 0x40, 0x40])
  else if p = 17 then [glyphOf 0x4C, glyphOf 0x43] ++ rightAlign (decimals s.bil.lrCount 10 0 0)
  else if p = 18 then [glyphOf 0x43, digitGlyph 1] ++ rightAlign (hexDigits (bytesAt s.bil.check 0 4))
  else [glyphOf 0x43, digitGlyph 2] ++ rightAlign (hexDigits (bytesAt s.bil.check 4 4))

/-- A metering gap is open on bough b. -/
def gapOpenAt (s : State) (b : Bough) : Bool := s.bilB[b].gapOpen || s.nrg[b].gapPh.any id

/-- Annunciator i (R475). -/
def annunciator (s : State) (p i : Nat) : Bool :=
  if i < 8 then (getN s.ses i {}).state != .idle
  else if i < 16 then allBoughs.any (fun b => b.val + 8 == i && closedMask s b != 0)
  else if i < 24 then (getN s.nrg (i - 16) {}).dirExp
  else match i with
    | 24 => !s.timeKnown
    | 25 => !pricing s
    | 26 => s.heartwoodRoot.isNone
    | 27 => s.lifecycle == lcService
    | 28 => allBoughs.any (gapOpenAt s)
    | 29 => p == 18 || p == 19
    | _ => false

/-- Element e of the display for a page with its text. -/
def elementOn (s : State) (p : Nat) (text : List Nat) (e : Nat) : Bool :=
  if e < 96 then (text.getD (e / 8) 0).testBit (e % 8) else annunciator s p (e - 96)

/-- The four lines of the glass: the elements that are on, at the common and segment of the glyph map (R474). -/
def linesOf (g : List Byte) (on : Nat → Bool) : Vector (BitVec 96) 4 :=
  Vector.ofFn (fun (j : Fin 4) => BitVec.ofNat 96 ((List.range 128).foldl (fun m e =>
    if leAt g (2 * e) 1 = j.val && on e then m ||| (1 <<< leAt g (2 * e + 1) 1) else m) 0))

/-- The display label of the rate in force; while pricing is unavailable the spec names no label for page 16, and its two
characters are free (log entry 92). -/
def rateLabel (s : State) : List Byte × State :=
  match s.bil.calendar, pricing s with
  | some cal, true => (bytesAt cal (32 + 12 * s.bil.rate + 8) 2, s)
  | _, _ =>
    let (v, s) := s.free 16
    (leN 2 v.toNat, s)

/-! ## Drive voltage (R473) -/

/-- The target of VLCD in mV for MIXED of SYS_DIE_TEMP. -/
def vlcdTarget (s : State) : Nat :=
  let base : Int := 3000 + 100 * (fld s.lcdCfg 27 23 : Nat)
  (clampI 3000 5000 (base - 5 * (fld s.lcdCfg 29 28 : Nat) * (s.supply.tMixed - 25))).toNat

/-- A measured voltage lies within ±5 % of the target. -/
def vlcdInRange (s : State) (mv : Nat) : Bool := decide (95 * s.lcd.target ≤ 100 * mv) && decide (100 * mv ≤ 105 * s.lcd.target)

/-- The measured voltage in 0.02 V once it is known to lie between two bounds; what it is there is free (log entry 93). -/
def measureVlcd (lo hi : Nat) (s : State) : State :=
  let (v, s) := s.free 8
  { s with lcd.vlcd := lo + v.toNat % (hi - lo + 1) }

/-! ## Start and stop (R481, R482) -/

/-- The start sequence begins: the pump is enabled, every pin at V0. Without a glyph map the display does not start
(R474); EN = 0 keeps it off. -/
def startDisplay (s : State) : State :=
  if s.lcd.state = .off && bitOf s.lcdCfg 31 && s.lcd.glyph.isSome then
    { s with lcd.state := .pump, lcd.pump := true, lcd.target := vlcdTarget s, lcd.startMs := s.lat.ms,
             lcd.page := homePage s, lcd.stopCause := 0, lcd.faulted := false, lcd.updated := false,
             lcd.latest := Vector.replicate 4 0, lcd.shown := Vector.replicate 4 0, lcd.dirty := 0 }
  else s

/-- Every COM and SEG pin at V0, the pump stopped and VLCD discharged below 0.3 V. -/
def displayOff (s : State) : State :=
  measureVlcd 0 14 { s with lcd.state := .off, lcd.pump := false, lcd.backlight := false, lcd.clearFrames := 0,
                            lcd.shown := Vector.replicate 4 0, lcd.dirty := 0, lcd.updated := false }

/-- The lines of the latest update that differ from those shown. -/
def dirtyOf (latest shown : Vector (BitVec 96) 4) : BitVec 4 :=
  BitVec.ofNat 4 ((List.finRange 4).foldl (fun m j => if latest[j] != shown[j] then m ||| (1 <<< j.val) else m) 0)

/-- DISPLAY_UPDATE (R477, R478, R488): the heartwood writes the four lines; a display stopped for want of updates starts
again. -/
def execDisplayUpdate (s : State) : Res :=
  match heartwoodRuns s, s.lcd.glyph with
  | true, some g =>
    let s := if s.lcd.stopCause = 2 && !s.lcd.faulted then startDisplay s else s
    let (lab, s) := if s.lcd.page = 16 then rateLabel s else ([], s)
    let text := pageText s s.lcd.page lab
    let lines := linesOf g (elementOn s s.lcd.page text)
    .next { s with lcd.superseded := if s.lcd.updated then min 255 (s.lcd.superseded + 1) else s.lcd.superseded,
                   lcd.updated := true, lcd.latest := lines, lcd.dirty := dirtyOf lines s.lcd.shown }
  | _, _ => .next s

/-- The latest update copied to the glass; DIRTY clears (R477). -/
def copyLines (s : State) : State :=
  { s with lcd.shown := s.lcd.latest, lcd.dirty := 0, lcd.updated := false }

/-- The phase length that the frame begins with (R472, R490). -/
def framePhase (s : State) : Nat := if s.lcd.state = .lowPower then 4096 else fld s.lcdCfg 22 15

/-- The ordered stop at a frame start: backlight off and two frames with every element off, then the pins at V0; with EN
set again meanwhile the display restarts (R482, log entry 94). -/
def stopFrame (s : State) : State :=
  if s.lcd.state != .stopping then
    auxAll { s with lcd.state := .stopping, lcd.backlight := false, lcd.clearFrames := 2,
                    lcd.shown := Vector.replicate 4 0 }
  else if 1 < s.lcd.clearFrames then { s with lcd.clearFrames := s.lcd.clearFrames - 1 }
  else
    let s := displayOff s
    if s.lcd.stopCause = 1 then startDisplay s else s

/-- DISPLAY_FRAME_START (R477, R481, R482): a frame begins. -/
def execDisplayFrameStart (s : State) : Res :=
  let s := { s with lcd.phaseLen := framePhase s }
  match s.lcd.state with
  | .off => .next s
  | .pump =>
    if s.lcd.stopCause ≠ 0 then .next (stopFrame s)
    else
      let t := s.lcd.target
      .next (measureVlcd ((95 * t + 1999) / 2000) (105 * t / 2000) { s with lcd.state := .clearing, lcd.clearFrames := 2 })
  | .clearing =>
    if s.lcd.stopCause ≠ 0 then .next (stopFrame s)
    else if 1 < s.lcd.clearFrames then .next { s with lcd.clearFrames := s.lcd.clearFrames - 1 }
    else
      let s := emit 0x0901 255 (leN 4 (s.lat.ms - s.lcd.startMs))
        { s with lcd.state := .showing, lcd.clearFrames := 0, lcd.backlight := true }
      .next (auxAll (copyLines s))
  | .showing | .lowPower => if s.lcd.stopCause ≠ 0 then .next (stopFrame s) else .next (copyLines s)
  | .stopping => .next (stopFrame s)

/-- VLCD_ADJUST (R473): the target follows MIXED. -/
def execVlcdAdjust (s : State) : Res := .next { s with lcd.target := vlcdTarget s }

/-- The drive runs. -/
def driveRuns (s : State) : Bool :=
  match s.lcd.state with
  | .off | .pump => false
  | _ => true

/-! ## Drive waveform (R471)

Slot j and its phase, a or b, are counted by the 32.768 kHz crystal, which no command ticks; the levels are given for each of
them. -/

/-- Level of COM pin j in slot `slot`; phaseB for the second half. Every pin is at V0 while the drive does not run (R471,
R481, R482). -/
def comLevel (s : State) (slot : Fin 4) (phaseB : Bool) (j : Fin 4) : LcdLevel :=
  if !driveRuns s then .v0
  else match j == slot, phaseB with
    | true, false => .v3
    | true, true => .v0
    | false, false => .v1
    | false, true => .v2

/-- Level of SEG pin i in slot `slot`: the element of that common and segment on or off (R471). -/
def segLevel (s : State) (slot : Fin 4) (phaseB : Bool) (i : Nat) : LcdLevel :=
  if !driveRuns s then .v0
  else match s.lcd.shown[slot].getLsbD i, phaseB with
    | true, false => .v0
    | true, true => .v3
    | false, false => .v2
    | false, true => .v1

/-- VLCD_OUT_OF_RANGE (R473, R487). -/
def execVlcdOutOfRange (mv : Nat) (s : State) : Res :=
  if !driveRuns s || vlcdInRange s mv then .next s
  else
    let s := emit 0x0902 255 (leI 1 (quot s.lcd.target 20) ++ leI 1 (quot mv 20)) s
    .next (auxAll { s with lcd.state := .off, lcd.pump := false, lcd.backlight := false, lcd.clearFrames := 0,
                           lcd.shown := Vector.replicate 4 0, lcd.dirty := 0, lcd.updated := false, lcd.faulted := true,
                           lcd.vlcd := (quot mv 20).toNat })

/-- DISPLAY_RESTART (R473, R481): 10 s after the fault. -/
def execDisplayRestart (s : State) : Res :=
  if s.lcd.faulted && heartwoodRuns s then .next (startDisplay s) else .next s

/-- UPDATE_TIMEOUT (R478). -/
def execUpdateTimeout (s : State) : Res :=
  match s.lcd.state with
  | .showing | .lowPower => .next (orderStop 2 s)
  | _ => .next s

/-! ## DISPBTN and low power (R479, R480, R490) -/

/-- The display shows and no ordered stop runs. -/
def showsPages (s : State) : Bool := s.lcd.state == .showing && s.lcd.stopCause == 0

/-- DISPBTN_PRESS (R479): entering page 18 recomputes the check value (R422). -/
def execDispbtnPress (s : State) : Res :=
  if s.lcd.stopCause ≠ 0 then .next s
  else if s.lcd.state = .lowPower then .next (auxAll (leaveLowPower s))
  else if s.lcd.state = .showing then
    let p := nextPage s
    let s := { s with lcd.page := p }
    .next (if p = 18 && heartwoodRuns s then recomputeCheck s else s)
  else .next s

/-- DISPBTN_HOLD (R479). -/
def execDispbtnHold (s : State) : Res :=
  if showsPages s then .next { s with lcd.page := homePage s } else .next s

/-- PAGE_IDLE_RETURN (R479). -/
def execPageIdleReturn (s : State) : Res :=
  if showsPages s then .next { s with lcd.page := homePage s } else .next s

/-- A bough is in ENERGISING, CHARGING, SUSPENDED or STOPPING. -/
def anyEnergised (s : State) : Bool :=
  allBoughs.any (fun b => match s.ses[b].state with
    | .energising | .charging | .suspended | .stopping => true
    | _ => false)

/-- LOW_POWER_ENTRY (R480). -/
def execLowPowerEntry (s : State) : Res :=
  if showsPages s && bitOf s.lcdCfg 30 && !anyEnergised s then
    .next (auxAll { s with lcd.state := .lowPower, lcd.page := homePage s, lcd.backlight := false })
  else .next s

end Sys2Proof.Machine
end

