-- ==== Sys2Proof/Machine/CanopyCore.lean ====
section
/-! DEFINITION. The canopy link's shared operations: the membership record and keys (R512 to R514), roles (R506, R523),
frames and messages (R495 to R499), turns (R500 to R504), ceilings (R515 to R517). -/

namespace Sys2Proof.Machine

/-! ## Membership record (R512) -/

def cnpSite (s : State) : Nat := leAt (s.canopy.record.getD []) 0 4
def cnpRank (s : State) : Nat := leAt (s.canopy.record.getD []) 5 1
def cnpLM (s : State) : Bool := (byteAt (s.canopy.record.getD []) 6).getLsbD 0
def cnpFollow (s : State) : Bool := (byteAt (s.canopy.record.getD []) 6).getLsbD 1
def cnpSwitch (s : State) : Nat := leAt (s.canopy.record.getD []) 8 4

/-- n is at or above m as turn numbers (R510). -/
def atOrAbove (n m : Nat) : Bool := decide ((n + 2 ^ 32 - m % 2 ^ 32) % 2 ^ 32 < 2 ^ 31)

/-- The turn number lies within 50 turns of SWITCH_TURN: frames of both keys are taken (R514). -/
def bothKeys (s : State) : Bool :=
  cnpSwitch s != 0 && s.canopy.turnKnown
    && (let d := (s.canopy.turn.toNat + 2 ^ 32 - cnpSwitch s) % 2 ^ 32
        decide (d ≤ 50) || decide (2 ^ 32 - 50 ≤ d))

/-- The device runs the link: EN, a membership record, no stop by BIST, trap or fell, P7 reached. -/
def cnpMayRun (s : State) : Bool :=
  bitOf s.cnpCfg 31 && s.canopy.record.isSome && !s.canopy.offByFault && s.ready

/-! ## Notches (R492) -/

/-- A carrier lies in a fixed notch: within half a spacing of an amateur band, in units of 48.828125 kHz (R491, R492). -/
def fixedNotch (k : Nat) : Bool :=
  let f := k * 48828125
  [(1800, 2000), (3500, 4000), (7000, 7300), (10100, 10150), (14000, 14350), (18068, 18168), (21000, 21450),
   (24890, 24990), (28000, 29700)].any (fun (r : Nat × Nat) =>
     decide (r.1 * 1000000 ≤ f + 24414000) && decide (f ≤ r.2 * 1000000 + 24414000))

/-- Usable carriers under a setting of the notch masks, register i giving carriers 32·i to 32·i + 31. -/
def usableCarriers (mask : Nat → BitVec 32) : Nat :=
  ((List.range 987).filter (fun i =>
    let k := 37 + i
    !fixedNotch k && !(mask (k / 32)).getLsbD (k % 32))).length

/-- Bits per symbol of ROBO-4 with the notches in force (R491). -/
def roboBits (s : State) : Nat := usableCarriers (fun i => s.cfg (0xA100 + 4 * i)) / 4

/-- Bits per symbol under TMAP tm towards a station: ROBO-4, ROBO-6 or the peer's tone map (R491, R495). -/
def bitsUnder (s : State) (station tm : Nat) : Nat :=
  match tm with
  | 0 => roboBits s
  | 1 => usableCarriers (fun i => s.cfg (0xA100 + 4 * i)) / 6
  | _ => ((s.canopy.peers.find? (fun p => p.station == station)).map (·.bits)).getD (roboBits s)

/-- Payload symbols of n blocks at a number of bits per symbol (R491, R496). -/
def symbolsOf (bits n : Nat) : Nat := (4160 * n + (max 1 bits - 1)) / max 1 bits

/-! ## Frame control (R495) -/

/-- One bit of the CRC-16 of R495. -/
def fcrcBit (c : Nat) : Nat := if c < 2 ^ 15 then 2 * c else (2 * c) ^^^ 0x11021

/-- FCRC of bytes 0 to 13 (R495). -/
def fcrc (bs : List Byte) : Nat :=
  bs.foldl (fun c b => (List.range 8).foldl (fun x _ => fcrcBit x) (c ^^^ (256 * b.toNat))) 0xFFFF

/-- The frame control of this station's frame: type, receiver, class, key index, TMAP, blocks, symbols, FSEQ (R495). -/
def frameControl (s : State) (typ dst cls : Nat) (key : Bool) (tm nblocks symbols seq : Nat) : List Byte :=
  let body := leN 1 typ ++ leN 1 (ownStation s) ++ leN 1 dst ++ leN 1 (cls + 4 * b2n key) ++ leN 1 tm ++ leN 1 nblocks
    ++ leN 2 symbols ++ leN 4 (cnpSite s) ++ leN 2 seq
  body ++ leN 2 (fcrc body)

def fcType (f : CnpRx) : Nat := leAt f.fc 0 1
def fcSrc (f : CnpRx) : Nat := leAt f.fc 1 1
def fcDst (f : CnpRx) : Nat := leAt f.fc 2 1
def fcCls (f : CnpRx) : Nat := leAt f.fc 3 1 % 4
def fcKey (f : CnpRx) : Bool := (byteAt f.fc 3).getLsbD 2
def fcTmap (f : CnpRx) : Nat := leAt f.fc 4 1
def fcSite (f : CnpRx) : Nat := leAt f.fc 8 4

/-- The frame control is whole: its FCRC holds (R495). -/
def fcHolds (f : CnpRx) : Bool := f.fc.length == 16 && leAt f.fc 14 2 == fcrc (f.fc.take 14)

/-! ## Blocks (R496) -/

/-- The blocks of a message: 520 bytes each, with sequence, length, last bit, data and CRC-32C (R496). -/
def cutBlocks (msg : List Byte) : List (List Byte) :=
  let n := (msg.length + 511) / 512
  (List.range n).map (fun i =>
    let d := (msg.drop (512 * i)).take 512
    withCrc (leN 2 i ++ leN 2 (d.length + 0x8000 * b2n (i + 1 == n)) ++ padTo 512 d))

/-- A block received that passes its CRC and has a length of 1 to 512 (R496). -/
def blockOf (src typ : Nat) (bs : List Byte) : Option CnpHeld :=
  let len := leAt bs 2 2 % 1024
  if bs.length = 520 ∧ crcHolds bs ∧ 1 ≤ len ∧ len ≤ 512 then
    some { src := src, typ := typ, seq := leAt bs 0 2, last := (byteAt bs 3).getLsbD 7, data := bytesAt bs 4 len }
  else none

/-! ## Keys and messages (R513) -/

/-- The nonce of a message: station, message counter, three zero bytes (R513). -/
def cnpNonce (station : Nat) (counter : BitVec 64) : List Byte := leN 1 station ++ leN 8 counter.toNat ++ [0, 0, 0]

/-- The key that a label names, from the site key of an index (R513); the info is formed as R570 forms it, the salt is
open (DESIGN CHOICE, log entry 189). -/
def cnpKey (s : State) (idx : Bool) (label : String) : Option (List Byte) :=
  (if idx then s.canopy.key1 else s.canopy.key0).map (fun k => hkdf k Config.canopySalt (ascii label ++ [0]) 16)

/-- A message of this station: its body encrypted and its tag, or a beacon's payload and its GMAC tag (R496, R505, R513).
-/
def sealMsg (s : State) (typ : Nat) (counter : BitVec 64) (body : List Byte) : List Byte :=
  let n := cnpNonce (ownStation s) counter
  if typ = 0 then body ++ gcmTag ((cnpKey s s.canopy.keyIdx "canopy-beacon").getD []) n body []
  else
    let k := (cnpKey s s.canopy.keyIdx "canopy-data").getD []
    let ct := gcmText k n body
    ct ++ gcmTag k n [] ct

/-- The body of a message received, none when its tag fails (R513). -/
def openMsg (s : State) (f : CnpRx) (msg : List Byte) : Option (List Byte) :=
  let n := cnpNonce (fcSrc f) f.counter
  let text := msg.take (msg.length - 16)
  let tag := msg.drop (msg.length - 16)
  if fcType f = 0 then
    match cnpKey s (fcKey f) "canopy-beacon" with
    | some k => if gcmTag k n text [] = tag then some text else none
    | none => none
  else
    match cnpKey s (fcKey f) "canopy-data" with
    | some k => gcmOpen k n [] text tag
    | none => none

/-! ## Roles (R506, R523) -/

/-- The role changes: event 0x0A01. -/
def setRole (r : Nat) (s : State) : State :=
  if s.canopy.role = r then s
  else emit 0x0A01 255 (leN 1 s.canopy.role ++ leN 1 r ++ leN 1 s.canopy.coord) { s with canopy.role := r }

/-- The site ceilings end: event 0x0A08 once (R517). -/
def dropSiteCeil (s : State) : State :=
  if s.canopy.siteCeil.isNone then s
  else
    let s := if s.canopy.expiredNoted then s else
      emit 0x0A08 255 (leN 4 s.canopy.lastCeilTurn.toNat) { s with canopy.expiredNoted := true }
    recalcAll { s with canopy.siteCeil := none, canopy.ceilTurns := 0 }

/-- The messages being sent end as not joined (log entry 95). -/
def dropMessages (s : State) : State :=
  let tags := s.canopy.tx.filterMap (·.tag)
  tags.foldl (fun t g => answer 0x0A0B 255 g (leN 1 1) t) { s with canopy.tx := [], canopy.out := [], canopy.backoff := none }

/-- The device leaves the site for role r: it stops beaconing, drops what its membership held, and no site ceiling is
valid (R517, R519). -/
def leaveSite (r : Nat) (s : State) : State :=
  let s := setRole r s
  let s := dropMessages { s with canopy.beaconing := false, canopy.members := [], canopy.memberMap := 0,
                                 canopy.memberCount := 0, canopy.slots := [], canopy.tripDue := [], canopy.ceilDue := [],
                                 canopy.rx := [] }
  dropSiteCeil s

/-- The link off: nothing is sent or listened for. -/
def cnpOff (s : State) : State := leaveSite 0 { s with canopy.listening := false }

/-- Listening for beacons under a role (R506). -/
def cnpListen (r : Nat) (s : State) : State :=
  setRole r { s with canopy.listening := true, canopy.beaconing := false, canopy.joinWait := 0 }

/-! ## Messages (R495, R513) -/

/-- The message counter before a message is sent. Before the count passes 0xFF_FFFF the counter takes the current OPTIME,
or the first OPTIME above the value held, for which the device waits (R513). -/
def rollCounter (s : State) : State :=
  if s.canopy.msgCount < 0xFFFFFF then s
  else { s with canopy.msgTime := max (s.canopy.msgTime + 1) s.lat.optime, canopy.msgCount := 0 }

/-- A frame waits for its transmit opportunity; FSEQ advances. -/
def queueFrame (f : CnpFrame) (s : State) : State :=
  { s with canopy.out := s.canopy.out ++ [{ f with key := s.canopy.keyIdx, fseq := s.canopy.fseq }],
           canopy.fseq := (s.canopy.fseq + 1) % 65536 }

/-- The 64-bit message counter of the next message. -/
def nextCounter (s : State) : BitVec 64 :=
  let c := (rollCounter s).canopy
  BitVec.ofNat 64 (c.msgTime * 2 ^ 24 + c.msgCount)

/-- Frames that their receiver acknowledges: unicast, of type 1, 3, 6 or 7 (R497). -/
def acknowledged (typ dst : Nat) : Bool := dst != 255 && [1, 3, 6, 7].contains typ

/-- The tone map used towards a station (R498, R499). -/
def tmapTo (s : State) (dst : Nat) : Nat := ((s.canopy.peers.find? (fun p => p.station == dst)).map (·.tmap)).getD 0

/-- One message sent: sealed under the next counter, cut into blocks and queued; where it is acknowledged its blocks are
kept. A newer status frame, join request or tone map takes the place of one not yet acknowledged (DESIGN CHOICE, log entry
190). -/
def sendMsg (typ dst cls : Nat) (body : List Byte) (tag : Option Nat) (s : State) : State :=
  let s := rollCounter s
  let blocks := cutBlocks (sealMsg s typ (nextCounter s) body)
  let s := queueFrame { typ := typ, dst := dst, cls := cls, tmap := if typ = 0 then 1 else tmapTo s dst, blocks := blocks }
    { s with canopy.msgCount := s.canopy.msgCount + 1 }
  if acknowledged typ dst then
    let pieces : List CnpPiece := (List.zip (List.range blocks.length) blocks).map (fun e => { seq := e.1, bytes := e.2 })
    let m : TxMsg := { typ := typ, dst := dst, cls := cls, tag := tag, blocks := pieces }
    { s with canopy.tx := s.canopy.tx.filter (fun x => typ == 1 || !(x.typ == typ && x.dst == dst)) ++ [m] }
  else s

/-- A frame refused: event 0x0A0A. -/
def refuseFrame (src reason : Nat) (s : State) : State := emit 0x0A0A 255 (leN 1 src ++ leN 1 reason) s

/-- The reason for which a frame is discarded at its frame control: another site, an unlisted sender of class 2 or 3
(R504, R513). -/
def frameReason (s : State) (f : CnpRx) : Option Nat :=
  if fcSite f ≠ cnpSite s then some 2
  else if 2 ≤ fcCls f ∧ !stationListed s (fcSrc f) then some 3
  else none

/-- The link hears a frame of a type for this station, its frame control whole. -/
def hears (s : State) (typ : Nat) (f : CnpRx) : Bool :=
  s.canopy.role != 0 && s.canopy.record.isSome && fcHolds f && fcType f == typ && (fcDst f == 255 || fcDst f == ownStation s)

/-- The canopy receive buffer of 16 KiB takes one symbol, 2,048 bytes (R51, R61). -/
def noteCrx (s : State) : State :=
  if s.canopy.role = 0 then s
  else
    let fill := min 16384 (s.trunk.crxFill + 2048)
    { s with trunk.crxFill := fill, trunk.crxPeak := max s.trunk.crxPeak (fill / 64) }

/-- The key index of a frame is accepted: the one in use, or both around SWITCH_TURN (R514). -/
def keyAccepted (s : State) (idx : Bool) : Bool := idx == s.canopy.keyIdx || bothKeys s

/-- The blocks held from a sender of messages of a type, in rising order. -/
def heldBlocks (s : State) (src typ : Nat) : List CnpHeld := s.canopy.rx.filter (fun e => e.src == src && e.typ == typ)

/-- The bytes of a message whose blocks 0 to its last are all held. -/
def messageOf (bs : List CnpHeld) : Option (List Byte) :=
  match bs.find? (·.last) with
  | none => none
  | some z =>
    let parts := (List.range (z.seq + 1)).map (fun i => bs.find? (fun b => b.seq == i))
    if parts.all (·.isSome) then some (parts.flatMap (fun p => match p with | some b => b.data | none => [])) else none

/-- Bit i for block i of a frame that passed its CRC (R497). -/
def ackMask (f : CnpRx) : Nat :=
  (List.zip (List.range f.blocks.length) f.blocks).foldl (fun m e =>
    if (blockOf (fcSrc f) (fcType f) e.2).isSome then m + 2 ^ e.1 else m) 0

/-- The acknowledgement that the front end sends from its template, in ROBO-4 (R44, R497); it carries no counter or tag
(DEDUCED, log entry 191). -/
def acknowledge (f : CnpRx) (s : State) : State :=
  if acknowledged (fcType f) (fcDst f) then
    { s with canopy.ack := frameControl s 2 (fcSrc f) (fcCls f) s.canopy.keyIdx 0 1 (symbolsOf (roboBits s) 1) s.canopy.fseq
                             ++ leN 8 (ackMask f) }
  else s

/-- The blocks of a frame join those held from its sender; a block held already begins a new message. -/
def collect (f : CnpRx) (s : State) : Option (List Byte) × State :=
  let new := f.blocks.filterMap (blockOf (fcSrc f) (fcType f))
  let old := heldBlocks s (fcSrc f) (fcType f)
  let keep := if new.any (fun b => old.any (fun c => c.seq == b.seq)) then [] else old
  let rest := s.canopy.rx.filter (fun e => !(e.src == fcSrc f && e.typ == fcType f))
  match messageOf (keep ++ new) with
  | some msg => (some msg, { s with canopy.rx := rest })
  | none => (none, { s with canopy.rx := rest ++ keep ++ new })

/-- A message complete: what act does with its body, or its discarding when its tag or key index fails (R513, R514). -/
def takeMessage (f : CnpRx) (msg : List Byte) (act : List Byte → State → State) (s : State) : State :=
  if !keyAccepted s (fcKey f) then refuseFrame (fcSrc f) 1 s
  else match openMsg s f msg with
    | some body => act body s
    | none => refuseFrame (fcSrc f) 1 s

/-! ## Tone maps (R498, R499) -/

/-- The peer of a station. -/
def peerOf (s : State) (station : Nat) : Peer :=
  (s.canopy.peers.find? (fun p => p.station == station)).getD { station := station }

def putPeer (p : Peer) (s : State) : State :=
  { s with canopy.peers := s.canopy.peers.filter (fun q => q.station != p.station) ++ [p] }

/-- The peer's tone map is given up: ROBO-4 until a new map arrives; event 0x0A04. -/
def dropMap (station : Nat) (s : State) : State :=
  let p := peerOf s station
  if p.tmap = 0 then s
  else emit 0x0A04 255 (leN 1 station ++ leN 1 0 ++ leN 4 (roboBits s)) (putPeer { p with tmap := 0, bits := 0, badFrames := 0 } s)

/-- A tone map of capacity c sent to a peer: the numbers 2 and 3 in turn (R498). -/
def sendMap (p : Peer) (c : Nat) (s : State) : State :=
  let n := if p.sentMap = 2 then 3 else 2
  sendMsg 7 p.station 1 (Config.toneMapBody n c) none
    (putPeer { p with sentMap := n, sentBits := c, differs := 0, used := false } s)

/-- The tone map that a frame's SNR asks for: sent where none has been, where its capacity differs by more than 10 % over
three consecutive frames, or where the peer no longer uses the one it had used (R498, R499). -/
def deriveMap (f : CnpRx) (s : State) : State :=
  if !joinedSite s then s
  else
    let p := peerOf s (fcSrc f)
    let far := decide (p.sentBits < 10 * (f.capacity - p.sentBits) ∨ p.sentBits < 10 * (p.sentBits - f.capacity))
    let n := if far then p.differs + 1 else 0
    let dropped := p.used && fcDst f != 255 && fcTmap f == 0
    if p.sentMap = 0 || n ≥ 3 || dropped then sendMap p f.capacity s
    else putPeer { p with differs := n, used := p.used || fcTmap f == p.sentMap } s

/-- A frame taken: its blocks acknowledged and held, and what act does with the body of a message that is complete. -/
def onFrame (typ : Nat) (f : CnpRx) (s : State) (act : List Byte → State → State) : Res :=
  let s := noteCrx s
  if !hears s typ f then .next s
  else match frameReason s f with
    | some r => .next (refuseFrame (fcSrc f) r s)
    | none =>
      let s := deriveMap f (acknowledge f s)
      match collect f s with
      | (some msg, s) => .next (takeMessage f msg act s)
      | (none, s) => .next s

/-! ## Turns (R500 to R504, R509, R514) -/

/-- From SWITCH_TURN onward the station sends under key 1; event 0x0A09 at the switch (R514). -/
def switchKey (s : State) : State :=
  if !s.canopy.keyIdx && cnpSwitch s != 0 && s.canopy.key1.isSome && s.canopy.turnKnown
      && atOrAbove s.canopy.turn.toNat (cnpSwitch s) then
    emit 0x0A09 255 (leN 1 1 ++ leN 4 s.canopy.turn.toNat) { s with canopy.keyIdx := true }
  else s

/-- Frames of one block, with their preamble and frame control, that fit a priority window after its two resolution slots;
at least one (R491, R500, R504). -/
def windowFrames (s : State) : Nat :=
  max 1 ((10 * s.canopy.pwLen - 1024) / (1536 + 256 * symbolsOf (roboBits s) 1))

/-- The priority window of the turn that passes: the trip frames that are due go first, those that fit, three windows
each; what waits goes first in the next. A ceiling frame goes where no trip frame of this or another station took the
window (R504, R518, R529). -/
def passWindow (s : State) : State :=
  match s.canopy.tripDue with
  | [] =>
    if s.canopy.heardTrip then { s with canopy.heardTrip := false }
    else match s.canopy.ceilDue with
      | [] => s
      | body :: rest => sendMsg 4 255 2 body none { s with canopy.ceilDue := rest }
  | due =>
    let n := windowFrames s
    let go := due.take n
    let s := go.foldl (fun t d => sendMsg 5 255 3 d.1 none t) { s with canopy.heardTrip := false }
    { s with canopy.tripDue := due.drop n ++ (go.map (fun d => (d.1, d.2 - 1))).filter (fun d => decide (0 < d.2)) }

/-- One turn passes at a joined station. -/
def passTurn (s : State) : State :=
  let s := switchKey (passWindow s)
  { s with canopy.ceilTurns := s.canopy.ceilTurns - 1 }

/-- TURN + 1, while the turn number is known. -/
def countTurn (s : State) : State := if s.canopy.turnKnown then { s with canopy.turn := s.canopy.turn + 1 } else s

/-- PW_LEN and CR_MIN in µs. -/
def pwMicros (s : State) : Nat := 100 * fld s.cnpTurnCfg 23 16
def crMicros (s : State) : Nat := 100 * fld s.cnpTurnCfg 15 8

/-- Symbols of each contention-free slot: the time left after the beacon, CR_MIN and PW_LEN, divided equally in whole
symbols of 25.6 µs, at most 4 ms (R502). -/
def slotSymbols (left n : Nat) : Nat := min 156 (left * 10 / (n * 256))

/-- The slots of a turn: station, start in symbols from the turn start, length (R502). -/
def allotSlots (s : State) : List (Nat × Nat × Nat) :=
  let ms := ((List.range 64).filter (fun i => s.canopy.memberMap.getLsbD i)).take (fld s.cnpTurnCfg 7 0)
  let left := s.canopy.turnLen - 1024 - crMicros s - pwMicros s
  let len := slotSymbols left ms.length
  (List.zip ms (List.range ms.length)).map (fun e => (e.1, 40 + e.2 * len, len))

/-- The membership map of a list of stations. -/
def mapOf (ms : List Member) : BitVec 64 := ms.foldl (fun m e => m ||| BitVec.ofNat 64 (1 <<< e.station)) 0

/-- The members as the coordinator knows them, with the map and the count that follow. -/
def setMembers (ms : List Member) (s : State) : State :=
  { s with canopy.members := ms, canopy.memberMap := mapOf ms, canopy.memberCount := ms.length }

/-! ## Status, demands and ceilings (R515 to R517) -/

/-- Demand of bough b in 100 W: the lesser of LOCAL_CEIL and the vehicle's maximum while the session is AUTHORISED to
SUSPENDED (R515). -/
def ownDemand (s : State) (b : Bough) : Nat :=
  if hasCeiling s.ses[b].state then
    let local_ := fld (s.sesCeilCfg b) 15 0
    if s.sesL[b].hasMax then min local_ (s.sesL[b].vehMax / 100) else local_
  else 0

/-- This station's own status (R515). -/
def ownStatus (s : State) (e : Member) : Member :=
  { e with silent := 0, demand := Vector.ofFn (fun b => ownDemand s b),
           power := Vector.ofFn (fun (b : Bough) => quot s.nst[b].p 100),
           sesState := Vector.ofFn (fun (b : Bough) => sesNo s.ses[b].state) }

/-- The body of the status frame (R515). -/
def statusBody (s : State) : List Byte :=
  let e := ownStatus s {}
  leN 4 s.canopy.turn.toNat
    ++ allBoughs.flatMap (fun b => leN 2 e.demand[b] ++ leI 2 e.power[b] ++ leN 1 e.sesState[b]) ++ leN 4 0

/-- A status frame's body as the coordinator takes it (R515). -/
def takeStatus (body : List Byte) (e : Member) : Member :=
  { e with silent := 0, demand := Vector.ofFn (fun (b : Bough) => leAt body (4 + 5 * b.val) 2),
           power := Vector.ofFn (fun (b : Bough) => leIAt body (6 + 5 * b.val) 2),
           sesState := Vector.ofFn (fun (b : Bough) => leAt body (8 + 5 * b.val) 1) }

/-- The status frame, of class 1, to the coordinator once in each turn (R515). -/
def sendStatus (s : State) : State := sendMsg 3 s.canopy.coord 1 (statusBody s) none s

/-- One bough with demand: station, bough, demand in 100 W. -/
abbrev Want := Nat × Nat × Nat

/-- The allocation of R516 over at most n rounds. -/
def allocate : Nat → Nat → List Want → List Want
  | 0, _, _ => []
  | n + 1, avail, act =>
    if act.isEmpty then []
    else
      let share := avail / act.length
      let sat := act.filter (fun w => decide (w.2.2 ≤ share))
      if sat.isEmpty then act.map (fun w => (w.1, w.2.1, share))
      else sat ++ allocate n (avail - (sat.map (·.2.2)).sum) (act.filter (fun w => !decide (w.2.2 ≤ share)))

/-- The boughs with demand, in rising order of station and bough. -/
def wants (ms : List Member) : List Want :=
  (List.range 64).flatMap (fun st => (ms.filter (fun e => e.station == st)).flatMap (fun e =>
    allBoughs.filterMap (fun b => if e.demand[b] = 0 then none else some (st, b.val, e.demand[b]))))

/-- A list of ceilings in the order of the wants. -/
def inOrder (ws cs : List Want) : List Want :=
  ws.filterMap (fun w => cs.find? (fun c => c.1 == w.1 && c.2.1 == w.2.1))

/-- The site ceilings taken from the entries that name this station: a bough without an entry has 0 (R517). -/
def takeCeilings (src : Nat) (turn : BitVec 32) (valid : Nat) (entries : List Want) (s : State) : State :=
  let mine := entries.filter (fun e => e.1 == ownStation s)
  let v : Vector Nat 8 := Vector.ofFn (fun (b : Bough) => match mine.find? (fun e => e.2.1 == b.val) with
    | some e => e.2.2
    | none => 0)
  let s := emit 0x0A07 255 (leN 1 src ++ leN 4 turn.toNat ++ mine.flatMap (fun e => leN 1 e.1 ++ leN 1 e.2.1 ++ leN 2 e.2.2))
    { s with canopy.siteCeil := some v, canopy.ceilTurns := valid, canopy.lastCeilTurn := turn, canopy.expiredNoted := false }
  recalcAll s

/-- The body of a ceiling frame (R516). -/
def ceilingBody (turn : BitVec 32) (valid : Nat) (entries : List Want) : List Byte :=
  leN 4 turn.toNat ++ leN 2 valid ++ leN 2 entries.length
    ++ entries.flatMap (fun e => leN 1 e.1 ++ leN 1 e.2.1 ++ leN 2 e.2.2)

/-- The entries of a ceiling frame's body. -/
def entriesOf (body : List Byte) : List Want :=
  (List.range (leAt body 6 2)).map (fun i => (leAt body (8 + 4 * i) 1, leAt body (9 + 4 * i) 1, leAt body (10 + 4 * i) 2))

/-- Entries of one ceiling frame that fits the priority window in ROBO-4 and 128 symbols (R491, R516). -/
def entriesFit (s : State) : Nat :=
  let symbols := min 128 ((10 * pwMicros s - 1024 - 1536) / 256)
  max 1 ((512 * (symbols * roboBits s / 4160) - 24) / 4)

/-- Entries cut into ceiling frames; n bounds their number. -/
def cutEntries (k : Nat) : Nat → List Want → List (List Want)
  | 0, _ => []
  | n + 1, ws => if ws.length ≤ k then [ws] else ws.take k :: cutEntries k n (ws.drop k)

end Sys2Proof.Machine
end

