-- ==== Sys2Proof/Machine/Canopy.lean ====
section
/-! DEFINITION. The commands of the canopy link (R491 to R534). -/

namespace Sys2Proof.Machine

/-! ## Turns (R500 to R502, R507 to R509) -/

/-- The turn number of a turn that the coordinator begins: one more than before; a station that begins to send beacons
without a known number starts from 25 × CALTIME where calendar time is known (R509). -/
def coordTurn (s : State) : State :=
  if s.canopy.turnKnown then countTurn s
  else if !s.canopy.beaconing && s.timeKnown then
    { s with canopy.turnKnown := true, canopy.turn := BitVec.ofNat 32 (25 * s.now) }
  else s

/-- The members at a new turn: this station's own status, one more turn without a status frame for every other. -/
def ageMembers (s : State) : State :=
  setMembers (s.canopy.members.map (fun e =>
    if e.station = ownStation s then ownStatus s e else { e with silent := e.silent + 1 })) s

/-- The payload of this coordinator's beacon (R505, R511); frac is the fraction of calendar time, which no command counts
(log entry 192). -/
def beaconBody (s : State) (frac : Nat) : List Byte :=
  let c := s.canopy
  leN 4 (if c.turnKnown then c.turn.toNat else 0) ++ leN 4 s.now ++ leN 2 frac ++ leI 1 s.bil.offset
    ++ leN 1 (b2n c.turnKnown + 2 * b2n s.timeKnown + 4 * b2n c.czcLock + 8 * b2n c.keyIdx)
    ++ leN 2 c.turnLen ++ leN 2 c.pwLen ++ leN 1 (cnpRank s) ++ leN 1 c.memberCount ++ leN 1 c.slots.length ++ leN 1 0
    ++ leN 8 c.memberMap.toNat ++ c.slots.flatMap (fun e => leN 1 e.1 ++ leN 2 e.2.1 ++ leN 1 e.2.2)

/-- TURN_START (R500, R502, R509, R532): the window of the turn before passes; the coordinator begins a turn and sends its
beacon, in ROBO-6. -/
def execTurnStart (s : State) : Res :=
  if s.canopy.role != 3 then .next s
  else
    let aligned := bitOf s.cnpCfg 30 && s.canopy.czcLock
    let s := passTurn (coordTurn s)
    let s := { s with canopy.turnLen := if aligned then s.canopy.turnLen else 40000, canopy.pwLen := pwMicros s }
    let s := ageMembers { s with canopy.beaconing := true, canopy.lmCount := s.canopy.lmCount + 1 }
    let s := { s with canopy.slots := allotSlots s }
    let (frac, s) := s.free 16
    .next (sendMsg 0 255 0 (beaconBody s frac.toNat) none s)

/-- Zero-cross alignment ends; the coordinator runs 40 ms turns (R501). -/
def loseCzc (s : State) : State :=
  { s with canopy.czcLock := false, canopy.czcGood := 0, canopy.turnLen := if s.canopy.role = 3 then 40000 else s.canopy.turnLen }

/-- The pair of edges that ends: in range it counts towards alignment, and an aligned turn takes its length (R501). -/
def czcPair (pairUs : Nat) (s : State) : State :=
  if pairUs < 30000 ∨ 45000 < pairUs then loseCzc s
  else
    let n := min 10 (s.canopy.czcGood + 1)
    let lock := s.canopy.role == 3 && (s.canopy.czcLock || n == 10)
    { s with canopy.czcGood := n, canopy.czcLock := if s.canopy.role = 3 then lock else s.canopy.czcLock,
             canopy.turnLen := if lock then pairUs else s.canopy.turnLen }

/-- CZC_EDGE (R501): pairUs is the time since the rising edge before the last. -/
def execCzcEdge (pairUs : Nat) (s : State) : Res :=
  if !bitOf s.cnpCfg 30 then .next s
  else if s.canopy.czcEdge then .next (czcPair pairUs { s with canopy.czcEdge := false })
  else .next { s with canopy.czcEdge := true }

/-- CZC_EDGE_ABSENT (R501). -/
def execCzcEdgeAbsent (s : State) : Res :=
  if bitOf s.cnpCfg 30 then .next (loseCzc { s with canopy.czcEdge := false }) else .next s

/-! ## Beacons (R505 to R509, R511) -/

/-- A member takes TURN from a beacon; event 0x0A03 when its own count differs by more than one (R509). -/
def takeTurn (bc : Beacon) (s : State) : State :=
  if !bc.turnKnown then { s with canopy.turnKnown := false, canopy.turn := 0 }
  else
    let own := s.canopy.turn + 1
    let far := s.canopy.turnKnown && decide (1 < (bc.turn - own).toNat) && decide (1 < (own - bc.turn).toNat)
    let s := if far then emit 0x0A03 255 (leN 4 own.toNat ++ leN 4 bc.turn.toNat) s else s
    { s with canopy.turnKnown := true, canopy.turn := bc.turn }

/-- The payload of a beacon (R505). -/
def beaconOf (body : List Byte) : Beacon :=
  { turn := BitVec.ofNat 32 (leAt body 0 4), caltime := BitVec.ofNat 32 (leAt body 4 4), calFrac := leAt body 8 2,
    offset := byteAt body 10, turnKnown := (byteAt body 11).getLsbD 0, timeKnown := (byteAt body 11).getLsbD 1,
    czcAligned := (byteAt body 11).getLsbD 2, keyIdx := (byteAt body 11).getLsbD 3, turnLen := leAt body 12 2,
    pwLen := leAt body 14 2, rank := leAt body 16 1, members := leAt body 17 1,
    memberMap := BitVec.ofNat 64 (leAt body 20 8),
    slots := (List.range (leAt body 18 1)).map (fun i => (leAt body (28 + 4 * i) 1, leAt body (29 + 4 * i) 2, leAt body (31 + 4 * i) 1)) }

/-- The distributed time in 1/65,536 s at the decoding of the frame control: 102.4 µs of preamble and two symbols after
the turn start (R491, R511). -/
def distributedTime (bc : Beacon) : Nat := bc.caltime.toNat * 65536 + bc.calFrac + (quot (1536 * 65536) 10000000).toNat

/-- A member passes the beacon's calendar time and offset to the heartwood, which sets calendar time when it differs by
1 s or more (R406, R407, R511); its own fraction is a free value (log entry 192). -/
def takeTime (bc : Beacon) (s : State) : State :=
  if !(bc.timeKnown && canopyMaySet s && heartwoodRuns s && bc.caltime != 0xFFFFFFFF) then s
  else
    let o := bc.offset.toInt
    let change := decide (localOffset o ≠ s.bil.newOffset.getD s.bil.offset)
    let s := if change then setOffset o s else s
    let (frac, s) := s.free 16
    let there := distributedTime bc
    let own := s.now * 65536 + frac.toNat
    let far := !s.timeKnown || decide (own + 65536 ≤ there) || decide (there + 65536 ≤ own)
    if far && there / 65536 < 0xFFFFFFFF then setTime (BitVec.ofNat 32 (there / 65536)) 1 s
    else if change && localOffset o != o then recordOffset 1 s
    else s

/-- What any station of the site takes from a beacon that it follows. -/
def followBeacon (src : Nat) (bc : Beacon) (s : State) : State :=
  { s with canopy.coord := src, canopy.coordRank := bc.rank, canopy.missed := 0, canopy.listening := false,
           canopy.memberMap := bc.memberMap, canopy.memberCount := bc.members, canopy.slots := bc.slots,
           canopy.turnLen := bc.turnLen, canopy.pwLen := bc.pwLen, canopy.czcLock := bc.czcAligned }

/-- A station that is not yet in MEMBER_MAP sends a join request, and again every four turns (R506). -/
def askToJoin (s : State) : State :=
  let s := if s.canopy.joinWait = 0 then sendMsg 6 s.canopy.coord 1 Config.joinBody none s else s
  { s with canopy.joinWait := (s.canopy.joinWait + 1) % 4 }

/-- A beacon of the site heard by a station that does not coordinate: once MEMBER_MAP shows it, it is a member, takes the
turn and the time and sends its status frame (R506, R509, R511, R515). -/
def heardBeacon (src : Nat) (bc : Beacon) (s : State) : State :=
  let s := followBeacon src bc s
  if bc.memberMap.getLsbD (ownStation s) then
    takeTime bc (sendStatus (passTurn (takeTurn bc (setRole 2 { s with canopy.joinWait := 0 }))))
  else askToJoin (if s.canopy.role = 1 ∨ s.canopy.role = 4 then s else dropSiteCeil (setRole 1 s))

/-- This coordinator keeps the role against another one (R508). -/
def keepsRole (src : Nat) (bc : Beacon) (s : State) : Bool :=
  decide (cnpRank s < bc.rank) || (cnpRank s == bc.rank && decide (ownStation s < src))

/-- BEACON_RECEIVED (R505 to R511). -/
def execBeaconReceived (f : CnpRx) (s : State) : Res :=
  onFrame 0 f s fun body s =>
    let bc := beaconOf body
    let src := fcSrc f
    if s.canopy.role = 3 then
      let keep := keepsRole src bc s
      let s := emit 0x0A0D 255 (leN 1 src ++ leN 1 bc.rank ++ leN 1 (b2n keep)) s
      if keep then s
      else heardBeacon src bc { s with canopy.beaconing := false, canopy.members := [], canopy.ceilDue := [] }
    else heardBeacon src bc s

/-- BEACON_LISTEN_END (R506): a station with RANK 1 to 15 becomes coordinator; RANK 0 keeps listening in ROLE 1. -/
def execBeaconListenEnd (s : State) : Res :=
  if !(s.canopy.listening && cnpMayRun s) then .next s
  else if cnpRank s = 0 then .next (setRole 1 s)
  else
    let st := ownStation s
    let s := setMembers [ownStatus s { station := st }] { s with
      canopy.listening := false, canopy.beaconing := false, canopy.coord := st, canopy.coordRank := cnpRank s,
      canopy.missed := 0, canopy.lmCount := 0, canopy.slots := [] }
    .next (setRole 3 s)

/-- BEACON_MISSED (R507, R509, R533): the turns are counted on and the last allocation used; at the fifth the station
runs an election. -/
def execBeaconMissed (s : State) : Res :=
  let electing := (s.canopy.role == 4 || s.canopy.role == 1) && decide (5 ≤ s.canopy.missed)
  if s.canopy.role != 2 && !electing then .next s
  else
    let n := min 31 (s.canopy.missed + 1)
    let s := passTurn (countTurn { s with canopy.missed := n })
    if s.canopy.role == 2 && n == 5 then .next (cnpListen 4 (emit 0x0A02 255 (leN 1 n) s))
    else if s.canopy.role == 2 then .next (sendStatus s)
    else .next s

/-- JOIN_REQUEST (R506): the coordinator adds the station to MEMBER_MAP. -/
def execJoinRequest (f : CnpRx) (s : State) : Res :=
  onFrame 6 f s fun _ s =>
    if s.canopy.role != 3 || s.canopy.members.any (fun e => e.station == fcSrc f) || decide (63 < fcSrc f) then s
    else setMembers (s.canopy.members ++ [{ station := fcSrc f }]) s

/-- MEMBER_TIMEOUT (R507): 25 turns without the member's status frame. -/
def execMemberTimeout (station : Nat) (s : State) : Res :=
  if s.canopy.role != 3 || station == ownStation s then .next s
  else .next (setMembers (s.canopy.members.filter (fun e => !(e.station == station && decide (25 ≤ e.silent)))) s)

/-! ## Messages (R496 to R499, R525) -/

/-- CANOPY_DATA_FRAME (R496, R497, R525): a datagram complete is delivered whole. -/
def execCanopyDataFrame (f : CnpRx) (s : State) : Res :=
  onFrame 1 f s fun body s =>
    if joinedSite s then emit 0x0A0C 255 (leN 1 (fcSrc f) ++ leN 1 (fcCls f) ++ body) s else s

/-- The first message that waits for an acknowledgement of a peer. -/
def txTo (s : State) (peer : Nat) : Option TxMsg := s.canopy.tx.find? (fun m => m.dst == peer)

/-- The first message to a peer changed, or taken out. -/
def replaceTx (peer : Nat) (m : Option TxMsg) : List TxMsg → List TxMsg
  | [] => []
  | x :: xs => if x.dst = peer then (match m with | some y => y :: xs | none => xs) else x :: replaceTx peer m xs

/-- The outcome of CNP_SEND told, where the message has its tag. -/
def answerSend (m : TxMsg) (r : Nat) (s : State) : State :=
  match m.tag with
  | some g => answer 0x0A0B 255 g (leN 1 r) s
  | none => s

/-- Frames with more than 25 % of their blocks failed: two in a row drop the tone map (R499). -/
def noteFrame (peer failed total : Nat) (s : State) : State :=
  let p := peerOf s peer
  if p.tmap = 0 then s
  else if total < 4 * failed then
    if p.badFrames = 0 then putPeer { p with badFrames := 1 } s else dropMap peer s
  else putPeer { p with badFrames := 0 } s

/-- A frame of the failed blocks waits for the sender's next transmit opportunity, under the tone map then in use (R497,
R499, R531). -/
def resendBlocks (m : TxMsg) (failed : List CnpPiece) (s : State) : State :=
  let s := queueFrame { typ := m.typ, dst := m.dst, cls := m.cls, tmap := tmapTo s m.dst, blocks := failed.map (·.bytes) } s
  { s with canopy.tx := replaceTx m.dst (some { m with blocks := failed.map (fun e => { e with attempts := e.attempts + 1 }) }) s.canopy.tx,
           canopy.retx := min 65535 (s.canopy.retx + failed.length) }

/-- The blocks of a message whose bit of the mask is 0 (R497). -/
def failedOf (m : TxMsg) (mask : BitVec 64) : List CnpPiece :=
  ((List.zip m.blocks (List.range m.blocks.length)).filter (fun e => !mask.getLsbD e.2)).map (·.1)

/-- The acknowledgement of the first message to its peer: the message is done, its failed blocks are resent, or it is
dropped after a block's eighth failure (R497). -/
def takeAck (m : TxMsg) (mask : BitVec 64) (s : State) : State :=
  let failed := failedOf m mask
  let s := noteFrame m.dst failed.length m.blocks.length { s with canopy.transmitting := false }
  match failed, failed.find? (fun e => decide (8 ≤ e.attempts)) with
  | [], _ => answerSend m 0 { s with canopy.tx := replaceTx m.dst none s.canopy.tx }
  | _, some e =>
    answerSend m 3 (emit 0x0A05 255 (leN 1 m.dst ++ leN 2 e.seq ++ leN 4 e.attempts)
      { s with canopy.tx := replaceTx m.dst none s.canopy.tx, canopy.droppedM := min 255 (s.canopy.droppedM + 1) })
  | _, none => resendBlocks m failed s

/-- CANOPY_ACK (R497): mask bit i is 1 when block i of the frame passed. -/
def execCanopyAck (f : CnpRx) (mask : BitVec 64) (s : State) : Res :=
  let s := noteCrx s
  if !hears s 2 f then .next s
  else match frameReason s f, txTo s (fcSrc f) with
    | some r, _ => .next (refuseFrame (fcSrc f) r s)
    | none, some m => .next (takeAck m mask s)
    | none, none => .next s

/-- TONE_MAP_FRAME (R498): the peer's map is used from the next frame on. -/
def execToneMapFrame (f : CnpRx) (num bits : Nat) (s : State) : Res :=
  onFrame 7 f s fun _ s =>
    let p := peerOf s (fcSrc f)
    emit 0x0A04 255 (leN 1 (fcSrc f) ++ leN 1 num ++ leN 4 bits) (putPeer { p with tmap := num, bits := bits, badFrames := 0 } s)

/-- TONE_MAP_EXPIRED (R498). -/
def execToneMapExpired (station : Nat) (s : State) : Res := .next (dropMap station s)

/-- CNP_SEND (R525): a broadcast is sent at once; a unicast message is answered when it is acknowledged or dropped. -/
def execCnpSend (h : CmdHdr) (dst cls : Nat) (data : List Byte) (s : State) : Res :=
  if (63 < dst ∧ dst ≠ 255) ∨ 1 < cls ∨ data.length = 0 ∨ 1500 < data.length then .next (answer 0x0A0B 255 h.tag (leN 1 4) s)
  else if !joinedSite s then .next (answer 0x0A0B 255 h.tag (leN 1 1) s)
  else if dst = 255 then .next (answer 0x0A0B 255 h.tag (leN 1 0) (sendMsg 1 255 cls data none s))
  else .next (sendMsg 1 dst cls data (some h.tag) s)

/-- MESSAGE_COUNTER_ROLLOVER (R513). -/
def execMessageCounterRollover (s : State) : Res := .next (rollCounter s)

/-! ## Access to the line (R52, R500 to R504) -/

/-- The frame that goes next: a beacon, then class 3, then class 2, then the first that waits (R500, R504). -/
def nextOut (s : State) : Option CnpFrame :=
  match s.canopy.out.find? (fun e => e.typ == 0), s.canopy.out.find? (fun e => e.cls == 3), s.canopy.out.find? (fun e => e.cls == 2) with
  | some e, _, _ => some e
  | _, some e, _ => some e
  | _, _, some e => some e
  | _, _, _ => s.canopy.out.head?

/-- Payload symbols of a frame under its tone map. -/
def frameSymbols (s : State) (e : CnpFrame) : Nat := symbolsOf (bitsUnder s e.dst e.tmap) e.blocks.length

/-- A frame goes in the contention region: of class 0 or 1, and a join request, of a station that is not joined, without a
slot, or too long for its slot with preamble and frame control (R491, R500, R502, R506, R507). -/
def contends (s : State) (e : CnpFrame) : Bool :=
  e.typ != 0 && decide (e.cls ≤ 1)
    && (e.typ == 6 || !joinedSite s
        || !s.canopy.slots.any (fun x => x.1 == ownStation s && decide (frameSymbols s e + 6 ≤ x.2.2)))

/-- The backoff of a frame that contends: 0 to 7 slots in class 1, 8 to CW in class 0; the value drawn is free (R503). -/
def drawBackoff (e : CnpFrame) (s : State) : State :=
  if s.canopy.backoff.isSome then s
  else
    let (v, s) := s.free 8
    { s with canopy.backoff := some (if e.cls = 1 then v.toNat % 8 else 8 + v.toNat % (s.canopy.cw - 7)) }

/-- The bytes of a frame on the line. -/
def frameBytes (s : State) (e : CnpFrame) : List Byte :=
  frameControl s e.typ e.dst e.cls e.key e.tmap e.blocks.length (frameSymbols s e) e.fseq ++ e.blocks.flatten

/-- A frame given to the line: it waits no longer. CW starts at 16 again for the next (DESIGN CHOICE, log entry 193). -/
def giveFrame (e : CnpFrame) (s : State) : State :=
  { s with canopy.line := frameBytes s e, canopy.out := s.canopy.out.erase e, canopy.backoff := none, canopy.cw := 16 }

/-- A frame that contends, as the preamble detector shows the line: it defers while a frame is on the line, and a
collision doubles CW up to 128 (R503). The result says whether it starts. -/
def contend (e : CnpFrame) (medium : Medium) (s : State) : Bool × State :=
  let s := drawBackoff e s
  match medium with
  | .busy => (false, s)
  | .idle => (true, giveFrame e s)
  | .collided => (true, { s with canopy.line := frameBytes s e, canopy.cw := min 128 (2 * s.canopy.cw), canopy.backoff := none })

/-- A canopy frame: it starts only once every symbol is built in the buffer of 128 slots, while the link runs (R52), and
in the contention region by R503. -/
def startCanopyFrame (symbols built : Nat) (medium : Medium) (s : State) : State :=
  let s := { s with canopy.txSymbols := min built 128 }
  let ready := decide (symbols ≤ 128) && decide (symbols ≤ built) && s.canopy.role != 0
  let (go, s) :=
    if !ready then (false, s)
    else match nextOut s with
      | none => (true, s)
      | some e => if contends s e then contend e medium s else (true, giveFrame e s)
  { s with canopy.transmitting := go, canopy.txWaiting := !go }

/-- MODEM_FRAME_TRANSMIT (R52) at vehicle modem 0 to 7, or at the canopy modem, 8, whose messages CANOPY_ACK follows. -/
def execModemFrameTransmit (port : Fin 9) (symbols built : Nat) (blocks : List TxBlock) (medium : Medium) (s : State) : Res :=
  match allBoughs.find? (fun b => b.val == port.val) with
  | some b => .next (startFrame b symbols built blocks s)
  | none => .next (startCanopyFrame symbols built medium s)

/-! ## Load management and trips (R515 to R518) -/

/-- STATUS_FRAME (R515): the coordinator keeps the latest status of each member. -/
def execStatusFrame (f : CnpRx) (s : State) : Res :=
  onFrame 3 f s fun body s =>
    if s.canopy.role != 3 then s
    else setMembers (s.canopy.members.map (fun e => if e.station = fcSrc f then takeStatus body e else e)) s

/-- SITE_LIMIT, LM_TURNS and CEIL_VALID. -/
def siteLimit (s : State) : Nat := fld s.cnpLmCfg 31 16
def lmTurns (s : State) : Nat := fld s.cnpLmCfg 15 8
def ceilValid (s : State) : Nat := fld s.cnpLmCfg 7 0

/-- The conditions of R516. -/
def mayAllocate (s : State) : Bool :=
  s.canopy.role == 3 && cnpLM s && stationListed s (ownStation s) && decide (0 < siteLimit s)
    && decide (lmTurns s ≤ s.canopy.lmCount)

/-- LOAD_ALLOCATION (R516): the ceilings allocated, the frames due in successive windows, this station's own ceilings
taken (log entry 98). -/
def execLoadAllocation (s : State) : Res :=
  if !mayAllocate s then .next s
  else
    let ms := s.canopy.members.map (fun e => if e.station = ownStation s then ownStatus s e else e)
    let s := setMembers ms { s with canopy.lmCount := 0 }
    let ws := wants ms
    let cs := inOrder ws (allocate (ws.length + 1) (10 * siteLimit s) ws)
    let s := { s with canopy.siteDemand := (quot (ws.map (·.2.2)).sum 10).toNat,
                      canopy.siteAlloc := (quot (cs.map (·.2.2)).sum 10).toNat,
                      canopy.ceilDue := s.canopy.ceilDue
                        ++ (cutEntries (entriesFit s) (cs.length + 1) cs).map (ceilingBody s.canopy.turn (ceilValid s)) }
    .next (takeCeilings (ownStation s) s.canopy.turn (ceilValid s) cs s)

/-- CEILING_FRAME (R517). -/
def execCeilingFrame (f : CnpRx) (s : State) : Res :=
  onFrame 4 f s fun body s =>
    if joinedSite s then takeCeilings (fcSrc f) (BitVec.ofNat 32 (leAt body 0 4)) (leAt body 4 2) (entriesOf body) s else s

/-- CEILING_VALIDITY_EXPIRED (R517): CEIL_VALID turns have passed. -/
def execCeilingValidityExpired (s : State) : Res :=
  if s.canopy.ceilTurns = 0 then .next (dropSiteCeil s) else .next s

/-- TRIP_FRAME (R518): it also shows that another station's class-3 burst took the window (R504). -/
def execTripFrame (f : CnpRx) (s : State) : Res :=
  onFrame 5 f s fun body s =>
    let s := emit 0x0A06 255 (leN 1 (fcSrc f) ++ bytesAt body 1 2) { s with canopy.heardTrip := true }
    if cnpFollow s then recalcAll { s with canopy.tripZero := true } else s

/-- TRIP_FOLLOW_EXPIRED (R518). -/
def execTripFollowExpired (s : State) : Res := .next (recalcAll { s with canopy.tripZero := false })

end Sys2Proof.Machine
end

