-- ==== Sys2Proof/Machine/Memory.lean ====
section
/-! DEFINITION. The commands of memory integrity, repair and the in-service test (R595 to R634). -/

namespace Sys2Proof.Machine

/-! ## Scrubbing (R603, R604) -/

/-- Rows of main SRAM and the ledger bank, and with the heartwood's rows (R603, R618). -/
def trunkRows : Nat := 98304
def allRows : Nat := 102400

/-- First address of row i in address order: main SRAM, ledger bank, heartwood SRAM. -/
def rowBase (i : Nat) : Nat :=
  if i < 65536 then 128 * i else if i < trunkRows then 0x01000000 + 128 * (i - 65536) else 0x02000000 + 128 * (i - trunkRows)

/-- The words of a row that hold wrong bits. -/
def badWords (s : State) (a : Nat) : List Nat :=
  (s.mem.bad.filter (fun w => decide (a ≤ w.addr ∧ w.addr < a + 128))).map (·.addr)

/-- An uncorrectable word found by a scrubber or a march: left as it stands, event 0x0D02 with its action; a ledger word
goes to R600, a heartwood word is a fatal error of the heartwood (R602, R604). -/
def foundBad (a action : Nat) (s : State) : State :=
  let s := uncorrectable a 22 action s
  if 0x02000000 ≤ a then fatalError 2 8 a s
  else if 0x01000000 ≤ a ∧ action = 3 then restoreSlot ((a - 0x01000000) / 16) s
  else s

/-- One word of a row that the scrubber visits. -/
def scrubWord (a : Nat) (s : State) : State :=
  let (o, s) := outcome (badAt s a).flips s
  if o = 0 then s else if o = 3 then foundBad a 3 s else corrected a o 22 s

/-- The words of a row corrected. -/
def scrubAt (a : Nat) (s : State) : State := (badWords s a).foldl (fun t w => scrubWord w t) s

/-- SCRUB_ROW (R603, R604): with CAP 0 the trunk scrubber makes no progress. -/
def execScrubRow (s : State) : Res :=
  if !bitOf s.memScrubCfg 31 || s.trunk.capNow == 0 then .next s
  else
    let i := s.mem.scrubRow
    let s := scrubAt (rowBase i) s
    if i + 1 < trunkRows then .next { s with mem.scrubRow := i + 1 }
    else .next { s with mem.scrubRow := 0, mem.passes := min 65535 (s.mem.passes + 1) }

/-- HEARTWOOD_SCRUB_ROW (R603, R604). -/
def execHeartwoodScrubRow (s : State) : Res :=
  if !bitOf s.memScrubCfg 31 then .next s
  else
    let i := s.mem.hwScrubRow
    let s := scrubAt (0x02000000 + 128 * i) s
    .next { s with mem.hwScrubRow := (i + 1) % 4096 }

/-! ## Logic BIST (R615 to R617, R632) -/

/-- Slices of a run. -/
def slicesOf (p : Fin 14) : Nat :=
  match p.val with
  | 0 | 1 | 13 => 128
  | 3 => 32
  | _ => 64

/-- The bough of a vehicle modem DSP's partition. -/
def dspBough (p : Fin 14) : Bough := ⟨(p.val - 4) % 8, Nat.mod_lt _ (by decide)⟩

/-- The bulk window is held by a command. -/
def bulkHeld (s : State) : Bool := s.host.bulkState == 1 || s.host.bulkState == 2

/-- The partition accepts a slice (R615, R616, R632). granted is what the surroundings show: the core's grant at an idle
point, HCSN high for 1 ms, another station's slot, the heartwood's request. -/
def acceptsSlice (p : Fin 14) (granted : Bool) (s : State) : Bool :=
  bitOf s.memTestCfg 31 && s.trunk.capNow != 0 && !s.host.bistRunning &&
  match p.val with
  | 0 | 1 => granted && !s.safDev.coreDead.getLsbD p.val
  | 2 => s.crypto.running.isNone && s.crypto.queue.isEmpty
  | 3 => granted && !s.host.csLow && !bulkHeld s
  | 12 => granted && !s.canopy.offByFault
  | 13 => granted && !s.bil.stopped
  | _ => s.ports[dspBough p].slac == 0 && !s.saf[dspBough p].holdOther

/-- A bit of the partitions. -/
def partBit (p : Fin 14) : BitVec 14 := BitVec.ofNat 14 (1 <<< p.val)

/-- The consequence of a failed partition (R617, R652). -/
def partFailed (p : Fin 14) (s : State) : State :=
  match p.val with
  | 0 | 1 => fatalError 1 (2 + p.val) 0 s
  | 2 => fatalError 3 4 0 s
  | 3 => s
  | 12 => cnpOff { s with canopy.offByFault := true }
  | 13 => fatalError 2 8 0 s
  | _ => holdSession (dspBough p) 2 (s.onSaf (dspBough p) (fun f => { f with holdOther := true }))

/-- The end of a run: its signature compared with the value of the active firmware bank (R615, R617). -/
def endRun (p : Fin 14) (sig : BitVec 32) (s : State) : State :=
  let s := { s with mem.slices := s.mem.slices.set p 0, mem.runs := min 16383 (s.mem.runs + 1) }
  let ev := fun (r : Nat) (s : State) => emit 0x0D08 255 (leN 1 p.val ++ leN 1 r ++ leN 4 sig.toNat) s
  if sig = Config.bistSignature p then ev 0 { s with mem.repeating := s.mem.repeating &&& ~~~partBit p }
  else if (s.mem.repeating &&& partBit p) = 0 then ev 1 { s with mem.repeating := s.mem.repeating ||| partBit p }
  else partFailed p (ev 2 { s with mem.repeating := s.mem.repeating &&& ~~~partBit p,
                                   mem.failedParts := s.mem.failedParts ||| partBit p })

/-- LBIST_SLICE (R615, R617): sig is the MISR state that the slice leaves, carried to the next. A slice of the host
port's logic runs until the next millisecond tick or until HCSN falls (R734, log entry 89). -/
def execLbistSlice (part : Fin 14) (granted : Bool) (sig : BitVec 32) (s : State) : Res :=
  if !acceptsSlice part granted s then .next s
  else
    let n := s.mem.slices[part] + 1
    let s := { s with mem.misr := s.mem.misr.set part sig }
    if n < slicesOf part then
      let s := { s with mem.slices := s.mem.slices.set part n }
      .next (if part = 3 then { s with host.bistRunning := true, host.bistRetry := false, mem.part := 3 } else s)
    else .next (endRun part sig { s with host.bistRetry := s.host.bistRetry && part != 3 })

/-! ## March (R618, R629) -/

/-- The row lies in the symbol buffer of a modem that transmits. -/
def rowBlocked (s : State) (a : Nat) : Bool :=
  allBoughs.any (fun b => s.links[b].transmitting && decide (0x00700000 + b.val * 0x18000 ≤ a)
    && decide (a < 0x00700000 + (b.val + 1) * 0x18000))
  || (s.canopy.transmitting && decide (0x007C0000 ≤ a) && decide (a < 0x00800000))

/-- One row marched: uncorrectable words restored as they were, hard cells repaired (R609, R618, R629). hard holds word
position in the row and codeword bit. -/
def marchAt (a : Nat) (hard : List (Nat × Nat)) (s : State) : State :=
  let m := (macroOf a).getD 0
  let cells := hard.map (fun h => (m, rowOf a, h.2))
  let s := (badWords s a).foldl (fun t w =>
    let (o, t) := outcome (badAt t w).flips t
    if o = 3 then foundBad w 4 t else t) s
  (hard.filter (fun h => decide (h.1 < 16 ∧ h.2 < 79))).foldl (fun t h => repairHard cells (a + 8 * h.1) h.2 t) s

/-- The next row of the pass; the rows put off come at its end (R618). -/
def marchNext (s : State) : State :=
  if s.mem.marchRow = allRows ∧ s.mem.marchSkip.isEmpty then { s with mem.marchRow := 0 } else s

/-- MARCH_SLICE (R618): the row of a transmitting modem's symbol buffer is put off. -/
def execMarchSlice (hard : List (Nat × Nat)) (s : State) : Res :=
  if !bitOf s.memTestCfg 30 || s.trunk.capNow == 0 then .next s
  else if s.mem.marchRow < allRows then
    let i := s.mem.marchRow
    let s := { s with mem.marchRow := i + 1 }
    if rowBlocked s (rowBase i) then .next { s with mem.marchSkip := s.mem.marchSkip ++ [i] }
    else .next (marchNext (marchAt (rowBase i) hard s))
  else
    match s.mem.marchSkip.find? (fun i => !rowBlocked s (rowBase i)) with
    | some i => .next (marchNext (marchAt (rowBase i) hard { s with mem.marchSkip := s.mem.marchSkip.erase i }))
    | none => .next (marchNext s)

/-! ## Repair maps (R611, R626) -/

/-- FIELD_MAP_WRITE (R611): one field entry for the oldest repair that is not yet permanent. -/
def execFieldMapWrite (s : State) : Res :=
  if !s.ready then .next s
  else match s.mem.softList with
    | [] => .next s
    | e :: rest =>
      let n := s.nv.fieldMap.length
      let s := { s with mem.softList := rest }
      if n < 64 then
        .next (emit 0x0D04 255 (leN 4 n ++ leN 4 e.toNat ++ leN 1 0) { s with nv.fieldMap := s.nv.fieldMap ++ [e] })
      else .next (emit 0x0D04 255 (leN 4 64 ++ leN 4 e.toNat ++ leN 1 1) s)

/-- A map as its entries stand, unused ones zero. -/
def mapBytes (n : Nat) (es : List (BitVec 32)) : List Byte := padTo (4 * n) (es.flatMap (fun e => leN 4 e.toNat))

/-- Entries of a map that are used. -/
def usedEntries (es : List (BitVec 32)) : Nat := (es.filter (· != 0)).length

/-- MEM_MAP_GET (R626). -/
def execMemMapGet (h : CmdHdr) (s : State) : Res :=
  let data := mapBytes 512 s.nv.factoryMap ++ mapBytes 64 s.nv.fieldMap
  .next (answer 0x0D0A 255 h.tag (leN 4 (usedEntries s.nv.factoryMap) ++ leN 4 (usedEntries s.nv.fieldMap))
    (bulkOut 0x8D02 data s))

/-! ## Injection (R605, R606) -/

/-- The applied flip mask (R621). -/
def flipMask (s : State) : BitVec 79 :=
  BitVec.ofNat 79 ((s.memFlipmask 0).toNat + (s.memFlipmask 1).toNat * 2 ^ 32 + (s.memFlipmask 2).toNat * 2 ^ 64)

/-- The data that an injection of mode 0 returns: the data written where the decoder corrects them; after more wrong bits
than it is defined for, or where it delivers no word, the spec gives none and they are free (log entry 18). -/
def injectedData (data : BitVec 64) (o : Nat) (s : State) : BitVec 64 × State :=
  if weight (flipMask s) < 4 ∧ o ≠ 3 then (data, s) else s.free 64

/-- MEM_INJECT_MODE0 (R605, R626): the test word of a macro, outside the address map. -/
def execMemInjectMode0 (h : CmdHdr) (ramMacro : Nat) (data : BitVec 64) (s : State) : Res :=
  if 220 < ramMacro then .next (answer 0x0D09 255 h.tag (leN 1 3) s)
  else
    let r := outcome (flipMask s) { s with mem.armed := false }
    let d := injectedData data r.1 r.2
    .next (answer 0x0D09 255 h.tag (leN 1 0 ++ leN 1 r.1 ++ leN 4 (if r.1 = 3 then 0 else r.1) ++ leN 8 d.1.toNat) d.2)

/-- The word that TARGET names. -/
def injectTarget (s : State) : Nat := (s.memInjectCfg).toNat / 8 * 8

/-- TARGET lies where R605 asks. -/
def targetOk (a : Nat) : Bool := decide (a < 0x00700000) || (decide (0x01000000 ≤ a) && decide (a < 0x01400000))

/-- MEM_INJECT_MODE1 (R605, R606): refused in DEPLOYED; a target elsewhere is undefined (R739). -/
def execMemInjectMode1 (h : CmdHdr) (s : State) : Res :=
  if s.lifecycle = lcDeployed then .next (answer 0x0D09 255 h.tag (leN 1 4) s)
  else if !targetOk (injectTarget s) then .fault .undefinedInjectTarget
  else
    .next (answer 0x0D09 255 h.tag (leN 1 0 ++ leN 1 1)
      { s with mem.armed := true, mem.armAddr := injectTarget s, mem.armMask := flipMask s })

end Sys2Proof.Machine
end

