-- ==== Sys2Proof/Machine/TagOps.lean ====
section
/-! DEFINITION. The service tag (R535 to R561): its pages, its radio protocol, field commands and meter snapshots. -/

namespace Sys2Proof.Machine

/-- VIO is present: the backup domain does not run on VBAK (R83). -/
def vioOn (s : State) : Bool := !s.bak.onVbak

/-- f while VIO is present (R553). -/
def whileVio (f : State → State) (s : State) : State := if vioOn s then f s else s

/-! ## Pages (R539 to R541) -/

/-- PUPI: bytes 8 to 11 of SHA-256 over SERIAL (R541). -/
def pupiOf (s : State) : List Byte := bytesAt (sha256 (padTo 8 s.nv.serial)) 8 4

/-- FIELD_CFG from TAG_CFG in force (R541, R554). -/
def fieldCfg (s : State) : Nat := fld s.tagCfg 31 28 * 16

/-- The identity page's bytes 0 to 59 with the given settings and image (R541). -/
def identityBody (s : State) (afi cfg seq : Nat) (label : List Byte) (stamp cal : Nat) : List Byte :=
  ascii "RTAG" ++ leN 2 1 ++ leN 1 8 ++ leN 1 0 ++ padTo 8 s.nv.serial ++ pupiOf s ++ leN 1 afi ++ leN 1 s.lifecycle
    ++ leN 1 cfg ++ leN 1 0 ++ leN 8 stamp ++ leN 4 cal ++ leN 4 seq ++ padTo 16 label ++ leN 4 0

/-- The identity page rewritten where its settings, image or life-cycle state differ from the given values (R541). -/
def updateIdentity (afi cfg seq : Nat) (label : List Byte) (s : State) : State :=
  let old := tagPage s 0
  let same := identityBody s afi cfg seq label (leAt old 24 8) (leAt old 32 4)
  if crcHolds old && old.take 60 == same then s
  else tagWritePage 0 (identityBody s afi cfg seq label s.opstamp.toNat s.now) s

/-- The page as a commit or an image leaves it (R541, R554). -/
def refreshIdentity (s : State) : State := updateIdentity (fld s.tagCfg 7 0) (fieldCfg s) s.start.ronifSeq s.start.ronifLabel s

/-- A page that the field may not reach (R539). -/
def pageRefused (p : Nat) : Bool := p == 7 || decide (192 ≤ p)

/-- A page that the device writes and closes with a CRC (R540). -/
def pageHasCrc (p : Nat) : Bool := decide (p < 64) && p != 7

/-- Event 0x0B05 for a page whose CRC fails when the device reads it (R540). -/
def notePageCrc (p : Nat) (s : State) : State :=
  if pageHasCrc p && !crcHolds (tagPage s p) then whileVio (emit 0x0B05 255 (leN 1 p)) s else s

/-- The page in P1, when no image is in use yet: a good page keeps its settings and image, which P3 brings up to date
(DEDUCED, log entry 103). A page whose CRC fails is recorded (R540). -/
def startIdentity (s : State) : State :=
  let old := tagPage s 0
  let s := notePageCrc 0 s
  if crcHolds old then updateIdentity (leAt old 20 1) (leAt old 22 1) (leAt old 36 4) (bytesAt old 40 16) s
  else refreshIdentity s

/-! ## Radio (R536, R537, R542) -/

/-- FIELD_CFG of page 0, which the tag obeys at all times (R542). -/
def pageEn (s : State) : Bool := (byteAt (tagPage s 0) 22).getLsbD 7
def pageWriteEn (s : State) : Bool := (byteAt (tagPage s 0) 22).getLsbD 6

/-- The tag answers requests: powered with recovery done, in a field, enabled (R538, R542). -/
def tagAnswers (s : State) : Bool := s.tag.powered && s.tag.field && pageEn s

/-- Bit rates of the ATQB (R536). -/
def atqbRates (cfg : Nat) : Nat :=
  match cfg / 16 % 4 with
  | 0 => 0x00
  | 1 => 0x11
  | _ => 0x33

/-- The 12-byte ATQB (R536). -/
def atqb (s : State) : List Byte :=
  let p := tagPage s 0
  leN 1 0x50 ++ bytesAt p 16 4 ++ bytesAt p 8 4 ++ leN 1 (atqbRates (leAt p 22 1)) ++ leN 1 0x81 ++ leN 1 0x41

/-- The AFI of a request names this tag (R537). -/
def afiMatches (s : State) (afi : Byte) : Bool :=
  let own := byteAt (tagPage s 0) 20
  afi == 0 || afi == own || (afi.toNat < 16 && afi.toNat == own.toNat % 16)

/-- A request with N slots that the tag answers: R is drawn uniformly from 1 to N; at once when it is 1 (R537). -/
def drawSlot (n : Nat) (s : State) : State :=
  let (v, s) := s.free 4
  let r := 1 + v.toNat % n
  if r = 1 then { s with tag.drawn := none, tag.reply := some (atqb s) }
  else { s with tag.drawn := some r, tag.reply := none }

/-- A request of the anticollision loop (R537). -/
def anticollision (afi : Byte) (slots : Nat) (s : State) : State :=
  if tagAnswers s && s.tag.selected.isNone && afiMatches s afi && [1, 2, 4, 8, 16].contains slots then drawSlot slots s
  else s

/-- REQB (R537): not answered after HLTB. -/
def execReqb (afi : Byte) (slots : Nat) (s : State) : Res :=
  if s.tag.halted then .next s else .next (anticollision afi slots s)

/-- WUPB (R537): also wakes a halted tag. -/
def execWupb (afi : Byte) (slots : Nat) (s : State) : Res :=
  let wakes := tagAnswers s && s.tag.selected.isNone && afiMatches s afi
  .next (anticollision afi slots { s with tag.halted := s.tag.halted && !wakes })

/-- SLOT_MARKER (R537). -/
def execSlotMarker (slot : Nat) (s : State) : Res :=
  if tagAnswers s && s.tag.selected.isNone && !s.tag.halted && s.tag.drawn == some slot then
    .next { s with tag.drawn := none, tag.reply := some (atqb s) }
  else .next s

/-- ATTRIB (R537): with this tag's PUPI. The spec gives the answer's bytes no layout. -/
def execAttrib (pupi : List Byte) (cid : Nat) (s : State) : Res :=
  if tagAnswers s && s.tag.selected.isNone && !s.tag.halted && pupi == bytesAt (tagPage s 0) 16 4 && decide (cid ≤ 14) then
    .next { s with tag.selected := some cid, tag.drawn := none, tag.reply := none }
  else .next s

/-- HLTB (R537). -/
def execHltb (s : State) : Res :=
  if tagAnswers s && s.tag.selected.isNone then .next { s with tag.halted := true, tag.drawn := none, tag.reply := none }
  else .next s

/-! ## Field and power (R547, R552, R553) -/

/-- FIELD_ARRIVED (R552, R553): a field of 1.5 A/m or more; level in 0.1 A/m. A stronger or weaker level of a field that
is present is only noted. -/
def execFieldArrived (level : Nat) (s : State) : Res :=
  if s.tag.field then .next { s with tag.level := level }
  else if level < 15 then .next s
  else
    let s := { s with tag.field := true, tag.level := level, tag.fdetLow := true, tag.served := 0, tag.halted := false,
                      tag.selected := none, tag.drawn := none, tag.reply := none }
    .next (whileVio (fun s => emit 0x0B01 255 (leN 1 1 ++ leN 4 0) (raiseIrq 7 s)) s)

/-- The field leaves (R552, R553): without VIO the tag loses its power. -/
def fieldGone (s : State) : State :=
  if !s.tag.field then s
  else
    let n := s.tag.served
    let s := { s with tag.field := false, tag.level := 0, tag.fdetLow := false, tag.halted := false, tag.selected := none,
                      tag.drawn := none, tag.reply := none, tag.powered := s.tag.powered && vioOn s }
    whileVio (fun s => emit 0x0B01 255 (leN 1 0 ++ leN 4 n) (raiseIrq 7 s)) s

/-- FIELD_LEFT (R552, R553). -/
def execFieldLeft (s : State) : Res := .next (fieldGone s)

/-- The mirror follows the memory while VIO is present (R546, R550). -/
def mirrorFrom (p : Nat) (bs : List Byte) (s : State) : State :=
  { s with tag.mirror := mirrorPage s.tag.marked s.tag.mirror (64 * p) bs }

/-- A valid header's transaction completed: the data slot of pair j copied to its target, the header erased; event
0x0B03 (R547). -/
def recoverPair (e : Nat × Nat × Nat) (s : State) : State :=
  let (j, page, seq) := e
  let bs := tagPage s (240 + 2 * j)
  let s := { s with nv.tagMem := memPuts zeroB s.nv.tagMem (64 * page) bs, nv.tagHdr := modN s.nv.tagHdr j (fun _ => none),
                    tag.recovered := true }
  whileVio (fun s => emit 0x0B03 255 (leN 1 page ++ leN 4 seq) (mirrorFrom page bs s)) s

/-- The valid headers with their pairs, in sequence order. -/
def validHeaders (s : State) : List (Nat × Nat × Nat) :=
  let hs := (List.range 8).filterMap (fun j => (getN s.nv.tagHdr j none).map (fun h => (j, h.1, h.2)))
  hs.mergeSort (fun a b => decide (a.2.2 ≤ b.2.2))

/-- TAG_POWER_UP (R538, R547): from the field or from VIO. -/
def execTagPowerUp (s : State) : Res :=
  if !(s.tag.field || vioOn s) then .next s
  else
    let s := (validHeaders s).foldl (fun t e => recoverPair e t) { s with tag.recovered := false }
    .next { s with tag.powered := true }

/-! ## Field commands (R545, R546, R549) -/

/-- A field command answered: its response, its status in TAG_STAT, the port idle again. -/
def fieldAnswer (status : Nat) (data : List Byte) (s : State) : State :=
  { s with tag.reply := some (leN 1 status ++ data), tag.lastStatus := status, tag.served := s.tag.served + 1,
           tag.lastOwner := 1, tag.owner := 0, tag.fieldWait := false }

/-- f for a tag that a reader has selected (R537, R561). -/
def whenSelected (s : State) (f : State → State) : Res :=
  if tagAnswers s && s.tag.selected.isSome then .next (f s) else .next s

/-- Status of a READ (R545): malformed, out of range, refused, in this order. -/
def readStatus (first count : Nat) : Nat :=
  if count = 0 ∨ 4 < count then 3
  else if 256 < first + count then 1
  else if (List.range count).any (fun i => pageRefused (first + i)) then 2
  else 0

/-- TAG_READ (R540, R545). -/
def execTagRead (first count : Nat) (s : State) : Res :=
  whenSelected s fun s =>
    let st := readStatus first count
    if st ≠ 0 then fieldAnswer st [] s
    else
      let ps := (List.range count).map (first + ·)
      let s := ps.foldl (fun t p => notePageCrc p t) s
      fieldAnswer 0 (ps.flatMap (tagPage s)) s

/-- Status of a WRITE before it begins (R542, R545, R546). -/
def writeStatus (page off len : Nat) (s : State) : Nat :=
  if 63 < off ∨ len = 0 ∨ 64 - off < len then 3
  else if 255 < page then 1
  else if !(decide (64 ≤ page) && decide (page ≤ 71) && pageWriteEn s) then 2
  else if s.tag.level < 25 then 4
  else 0

/-- A page's content with bytes merged at an offset. -/
def mergeAt (old : List Byte) (off : Nat) (data : List Byte) : List Byte :=
  old.take off ++ data ++ old.drop (off + data.length)

/-- A transaction abandoned after a second verify failure: what the page holds then is not given, and free (R546, log
entry 104). -/
def abandonPage (p : Nat) (s : State) : State :=
  let (v, s) := s.free 512
  let bs := leN 64 v.toNat
  mirrorFrom p bs { s with nv.tagMem := memPuts zeroB s.nv.tagMem (64 * p) bs, tag.pair := (s.tag.pair + 1) % 8,
                           tag.seq := s.tag.seq + 1 }

/-- A transaction of page p that a collapse of the supply cuts during a step of R546: step 3 leaves the data slot torn,
step 5 the target page; the header is valid from step 5 on, and at steps 4 and 6 valid or not. What a torn page holds,
and the header at steps 4 and 6, are free (R547). -/
def cutWrite (p : Nat) (bs : List Byte) (step : Nat) (s : State) : State :=
  let (v, s) := s.free 512
  let (k, s) := s.free 1
  let torn := leN 64 v.toNat
  let j := s.tag.pair
  let m := s.nv.tagMem
  let m := if step < 3 then m else memPuts zeroB m (64 * (240 + 2 * j)) (if step = 3 then torn else padTo 64 bs)
  let m := if step < 5 then m else memPuts zeroB m (64 * p) (if step = 5 then torn else padTo 64 bs)
  let valid := step = 5 ∨ (step = 4 ∨ step = 6) ∧ k = 1
  { s with nv.tagMem := m, nv.tagHdr := modN s.nv.tagHdr j (fun _ => if valid then some (p, s.tag.seq) else none),
           tag.pair := (j + 1) % 8, tag.seq := s.tag.seq + 1, tag.owner := 0 }

/-- Event 0x0B06 for a field write that is not done. -/
def refuseWrite (page status : Nat) (s : State) : State :=
  fieldAnswer status [] (whileVio (emit 0x0B06 255 (leN 1 page ++ leN 1 status)) s)

/-- A field write carried out: its page, its answer, and event 0x0B02 for a service request (R546, R551, R553). -/
def writeField (page off : Nat) (data : List Byte) (s : State) : State :=
  let bs := mergeAt (tagPage s page) off data
  let s := fieldAnswer 0 [] (tagCommit page bs s)
  if page = 64 ∧ off = 0 ∧ byteAt data 0 = 1 then whileVio (emit 0x0B02 255 (bs.take 16)) s else s

/-- TAG_WRITE (R545 to R547, R551, R553). A collapse of the field cuts a write that runs on field power, and ends only the
dialogue of one that runs on VIO. -/
def execTagWrite (page off : Nat) (data : List Byte) (fin : WriteEnd) (s : State) : Res :=
  whenSelected s fun s =>
    let st := writeStatus page off data.length s
    if st ≠ 0 then refuseWrite page st s
    else match fin with
      | .done => writeField page off data s
      | .failed => refuseWrite page 5 (abandonPage page s)
      | .cut k =>
        fieldGone (if vioOn s then writeField page off data s
          else cutWrite page (mergeAt (tagPage s page) off data) k.val s)

/-- TAG_INFO (R545). -/
def execTagInfo (s : State) : Res :=
  whenSelected s fun s => fieldAnswer 0 (tagPage s 0 ++ leN 1 s.tag.level ++ leN 1 (b2n (s.tag.owner == 2))) s

/-- TAG_ARBITER_GRANT (R549): a running transaction is never interrupted; of two that wait, the one that did not hold the
last goes first. -/
def execTagArbiterGrant (fieldWaits trunkWaits : Bool) (s : State) : Res :=
  let f := fieldWaits || s.tag.fieldWait
  let t := trunkWaits || s.tag.trunkWait
  if s.tag.owner ≠ 0 then .next { s with tag.fieldWait := f, tag.trunkWait := t }
  else
    let o : Nat := if f && t then (if s.tag.lastOwner = 1 then 2 else 1) else if f then 1 else if t then 2 else 0
    .next { s with tag.owner := o, tag.lastOwner := if o = 0 then s.tag.lastOwner else o,
                   tag.fieldWait := f && o != 1, tag.trunkWait := t && o != 2 }

/-! ## Host side (R550, R556) -/

/-- Pages with marked bytes, rising. -/
def markedPages (s : State) : List Nat := (List.range 256).filter (fun p => s.tag.marked.any (fun a => a / 64 == p))

/-- A marked page's content: the marked bytes of the mirror merged into the memory's page. -/
def flushContent (s : State) (p : Nat) : List Byte :=
  (List.range 64).map (fun i =>
    let a := 64 * p + i
    if s.tag.marked.contains a then memGet zeroB s.tag.mirror a else memGet zeroB s.nv.tagMem a)

/-- One marked page written as one transaction. -/
def flushPage (p : Nat) (s : State) : State :=
  let bs := flushContent s p
  tagCommit p bs { s with tag.marked := s.tag.marked.filter (fun a => a / 64 != p) }

/-- The marked pages below p written, in rising order. -/
def flushBelow (p : Nat) (s : State) : State := ((markedPages s).takeWhile (· != p)).foldl (fun t q => flushPage q t) s

/-- TAG_FLUSH (R556, R560): the marked pages in rising order; at the page that fails its verify the flush ends (log entry
105). Where VIO falls the tag goes on from a field, the page being written completes, and no answer leaves the device;
without a field the write ends at the collapse. The reset that VIO's monitor causes is SUPPLY_TRIP's. -/
def execTagFlush (h : CmdHdr) (fin : FlushEnd) (s : State) : Res :=
  let all := (markedPages s).foldl (fun t p => flushPage p t) s
  let done := answer 0x0B04 255 h.tag (leN 1 0) all
  match fin with
  | .done => .next done
  | .failed bad =>
    if (markedPages s).contains bad then
      .next (answer 0x0B04 255 h.tag (leN 1 5 ++ leN 1 bad) (abandonPage bad (flushBelow bad s)))
    else .next done
  | .cut p k =>
    if !(markedPages s).contains p then .next done
    else
      let s := flushBelow p s
      if s.tag.field then .next (flushPage p s)
      else
        let s := cutWrite p (flushContent s p) k.val s
        .next { s with tag.powered := false }

/-! ## Meter snapshots (R544) -/

/-- Bits 31:16 of BIL_STAT as the snapshot holds them. -/
def snapFlags (s : State) : Nat :=
  s.bil.rate % 256 + 256 * (128 * b2n s.timeKnown + 64 * b2n s.belowHwm + 32 * b2n s.bil.passive.isSome
    + 16 * b2n (!pricing s) + 8 * b2n s.heartwoodRoot.isNone)

/-- Bytes 0 to 59 of bough b's snapshot page. -/
def snapBody (s : State) (b : Bough) : List Byte :=
  let e := s.bilB[b]
  leN 1 b.val ++ leN 1 (b2n s.tag.snapB) ++ leN 2 0 ++ leN 4 s.tag.snapNo ++ leN 8 s.opstamp.toNat ++ leN 4 s.now
    ++ leN 8 e.whImp ++ leN 8 e.whExp ++ leN 4 s.bil.readingNo ++ leN 4 s.bil.lrCount ++ leN 1 (sesNo s.ses[b].state)
    ++ leN 1 (faultCode s b) ++ leN 2 (snapFlags s) ++ leN 4 e.demand ++ leN 4 (calId s.bil.calendar) ++ leN 4 0

/-- A meter snapshot of every bough into copy A and copy B alternately. -/
def meterSnapshot (s : State) : State :=
  let s := { s with tag.snapNo := (s.tag.snapNo + 1) % 2 ^ 32 }
  let base := if s.tag.snapB then 16 else 8
  let s := forBoughs (fun b t => tagWritePage (base + b.val) (snapBody t b) t) s
  { s with tag.snapB := !s.tag.snapB }

/-- METER_SNAPSHOT (R544). -/
def execMeterSnapshot (s : State) : Res :=
  if bitOf s.tagCfg 27 && heartwoodRuns s then .next (meterSnapshot s) else .next s

/-- The newest snapshot found at start: its number, and the copy that the next one goes to (R544). -/
def restoreSnapNo (s : State) : State :=
  let no := fun (p : Nat) => if crcHolds (tagPage s p) then leAt (tagPage s p) 4 4 else 0
  let a := (allBoughs.map (fun b => no (8 + b.val))).foldl max 0
  let b := (allBoughs.map (fun b => no (16 + b.val))).foldl max 0
  { s with tag.snapNo := max a b, tag.snapB := decide (b < a) }

end Sys2Proof.Machine
end

