-- ==== Sys2Proof/Machine/Keys.lean ====
section
/-! DEFINITION. Keys, roots and tamper (R562 to R594). -/

namespace Sys2Proof.Machine

/-! ## Staging lost (R694) and draining ended (R681, R691) -/

/-- The holds of a draining released; those of a fatal error stay. -/
def releaseDrain (s : State) : State :=
  let keep := s.log.fatalCause.isSome
  let s := forBoughs (fun b t =>
    (t.onSaf b (fun f => { f with holdUpd := false })).onSesL b (fun l => { l with held := l.held && keep })) s
  driveAll s

/-- Parts staged or being received: 0 Ronif, 1 firmware, 2 heartwood. -/
def stagedParts (s : State) : List Nat :=
  (List.range 3).filter (fun p => s.upd.staged.getLsbD p || (match s.upd.stage with | some g => g.part == p | none => false))

/-- Every staging and the schedule discarded: event 0x0F07 for each part. An update on trial is not affected (R694). -/
def discardStaging (cause : Nat) (s : State) : State :=
  let s := (stagedParts s).foldl (fun t p => emit 0x0F07 255 (leN 1 p ++ leN 1 cause) t) s
  let draining := s.upd.state == 4
  let s := { s with upd.stage := none, upd.staged := 0, upd.mode := 0, upd.when := 0,
                    upd.state := if 5 ≤ s.upd.state then s.upd.state else 0,
                    upd.endAt := if draining then 0 else s.upd.endAt }
  if draining then releaseDrain s else s

/-! ## The fell line (R579 to R581, R587 to R593) -/

/-- The device runs on VCORE, so an event can be recorded at once. -/
def deviceRuns (s : State) : Bool := vioOn s && s.start.released

/-- A KEY_LIFECYCLE that a fell interrupts is answered with result 6 and has no effect (R590). -/
def interruptKey (s : State) : State :=
  match s.key.target with
  | some _ => answer 0x0C06 255 s.key.tag (leN 1 6) { s with key.target := none }
  | none => s

/-- What the fell line clears (R579, R580). -/
def fellClears (s : State) : State :=
  { s with bak.roots := Vector.replicate 4 none, bak.service := false, crypto.keys := [], crypto.drbgOk := false,
           crypto.fellOp := s.crypto.running.isSome, canopy.key0 := none, canopy.key1 := none,
           ports := s.ports.map (fun p => { p with tls := false }) }

/-- The tamper record. -/
def fellRecord (cause : BitVec 4) (s : State) : State :=
  { s with bak.fells := min 255 (s.bak.fells + 1), bak.cause := cause, bak.fellTime := s.bak.caltime }

/-- The fell line fires with a cause mask. -/
def fellLine (cause : BitVec 4) (s : State) : State :=
  let heart := s.heartwoodRoot.isSome
  let s := fellRecord cause (fellClears s)
  if deviceRuns s then
    let s := emit 0x0C01 255 (leN 1 cause.toNat ++ leN 4 s.now ++ leN 1 s.bak.fells ++ leN 1 0) s
    let s := if heart then emit 0x0C03 255 (leN 4 s.bil.lastSigned) s else s
    let s := if s.canopy.role = 0 then s else cnpOff s
    discardStaging 3 (interruptKey { s with canopy.offByFault := true })
  else { s with bak.fellUnrec := true }

/-! ## Tamper detection (R577, R578) -/

/-- Loops A (false) and B (true): enabled, armed, class, consecutive open samples. -/
def loopEnabled (s : State) (b : Bool) : Bool := s.bak.tamperCfg.getLsbD (if b then 1 else 0)
def loopArmed (s : State) (b : Bool) : Bool := if b then s.bak.armedB else s.bak.armedA
def loopOpens (s : State) (b : Bool) : Nat := if b then s.bak.openB else s.bak.openA
def loopState (s : State) (b : Bool) : Nat := if b then s.bak.loopB else s.bak.loopA

/-- LOOP_A and LOOP_B codes of a class (R584). -/
def loopCode (c : LoopClass) : Nat :=
  match c with
  | .intact => 0
  | .marginal => 1
  | .opened => 2

/-- A sample's class, level and count of consecutive open samples kept. -/
def setLoop (b : Bool) (code level opens : Nat) (s : State) : State :=
  if b then { s with bak.loopB := code, bak.levelB := level, bak.openB := opens }
  else { s with bak.loopA := code, bak.levelA := level, bak.openA := opens }

def setArmed (b v : Bool) (s : State) : State := if b then { s with bak.armedB := v } else { s with bak.armedA := v }

/-- The cause bit of a loop (R583). -/
def loopCause (b : Bool) : BitVec 4 := if b then 2 else 1

/-- The other loop opened between the same two samples: one fell with both bits (R593). -/
def bothOpen (b : Bool) (s : State) : Bool :=
  loopEnabled s !b && loopArmed s !b && decide (1 ≤ loopOpens s !b)

/-- A tamper declared by loop b. -/
def loopTamper (b : Bool) (s : State) : State :=
  let both := bothOpen b s
  let s := setArmed b false s
  let s := if both then setArmed (!b) false s else s
  fellLine (if both then 3 else loopCause b) s

/-- A marginal loop on entry: event 0x0C02, or a mark for the next start (R577). -/
def loopMarginal (b : Bool) (level : Nat) (s : State) : State :=
  if deviceRuns s then emit 0x0C02 255 (leN 1 (b2n b) ++ leN 1 level) s
  else { s with bak.margUnrec := s.bak.margUnrec ||| (if b then 2 else 1) }

/-- VIO is absent and VBAK too low: the domain has lost its contents, and nothing is declared or recorded (R591). -/
def domainDead (s : State) : Bool := s.bak.onVbak && s.bak.lost

/-- TAMPER_SAMPLE (R577, R579, R591): level in 1/256 of the backup supply. -/
def execTamperSample (loopB : Bool) (cls : LoopClass) (level : Nat) (s : State) : Res :=
  if domainDead s || !loopEnabled s loopB then .next s
  else
    let was := loopState s loopB
    let opens : Nat := if cls = .opened then min 2 (loopOpens s loopB + 1) else 0
    let s := setLoop loopB (loopCode cls) (min 255 level) opens s
    if cls = .marginal ∧ was ≠ 1 then .next (loopMarginal loopB (min 255 level) s)
    else if opens = 2 ∧ loopArmed s loopB then .next (loopTamper loopB s)
    else .next s

/-- OSCILLATOR_DETECTOR (R578). -/
def execOscillatorDetector (s : State) : Res :=
  if domainDead s then .next s
  else if s.bak.tamperCfg.getLsbD 2 then .next (fellLine 4 { s with bak.oscOk := false }) else .next { s with bak.oscOk := false }

/-- LOOP_REARM (R577): intact for 1 s. -/
def execLoopRearm (loopB : Bool) (s : State) : Res :=
  if loopState s loopB = 0 then .next (setArmed loopB true s) else .next s

/-! ## Random source and masks (R563, R575) -/

/-- DRBG_RESEED (R575). -/
def execDrbgReseed (s : State) : Res :=
  if s.crypto.drbgFail then .next s
  else .next { s with crypto.drbgOk := true, crypto.drbgReseeds := s.crypto.drbgReseeds + 1 }

/-- DRBG_HEALTH_FAIL (R575). -/
def execDrbgHealthFail (test : Nat) (s : State) : Res :=
  .next (emit 0x0C07 255 (leN 1 test) { s with crypto.drbgOk := false, crypto.drbgFail := true })

/-- DRBG_RETEST (R575). -/
def execDrbgRetest (ok : Bool) (s : State) : Res :=
  if s.crypto.drbgFail && ok then .next { s with crypto.drbgOk := true, crypto.drbgFail := false } else .next s

/-- Both shares of a root with a mask XORed in. -/
def maskRoot (m : BitVec 256) (r : Root) : Root := { r with shareA := r.shareA ^^^ m, shareB := r.shareB ^^^ m }

/-- MASK_RENEWAL (R563): on every fourth renewal the mask is all ones. -/
def execMaskRenewal (s : State) : Res :=
  let n := s.bak.renewals + 1
  let c := s.freeCount
  let mask := fun (i : Nat) => if n % 4 = 0 then BitVec.allOnes 256 else Config.random (c + i)
  .next { s with bak.renewals := n, freeCount := c + 4,
                 bak.roots := Vector.ofFn (fun (i : Fin 4) => s.bak.roots[i].map (maskRoot (mask i.val))) }

/-! ## Commands (R566 to R568, R585) -/

/-- KEY_CHALLENGE (R567, R585). -/
def execKeyChallenge (h : CmdHdr) (s : State) : Res :=
  if !s.crypto.drbgOk then .next (answer 0x0C06 255 h.tag (leN 1 5) s)
  else
    let nonce := leN 16 (Config.random s.freeCount).toNat
    .next (answer 0x0C06 255 h.tag (leN 1 0 ++ nonce)
      { s with freeCount := s.freeCount + 1, key.nonce := some nonce, key.nonceMs := s.lat.ms })

/-- Slots of the authorising roots of a transition; none where R566 has no such transition. -/
def authorisers (s : State) (target : Nat) : List Nat :=
  match s.lifecycle, target with
  | 0, 1 => [0]
  | 1, 2 => [0]
  | 2, 3 => [1]
  | 3, 2 => [2, 1]
  | 7, _ => []
  | _, 7 => [s.rootInUse]
  | _, _ => []

/-- The precondition of a transition (R566). -/
def lifePrecondition (s : State) (target : Nat) : Bool :=
  match s.lifecycle, target with
  | 0, 1 => (s.rootOf 3).isSome
  | 1, 2 => (s.rootOf 1).isSome
  | 2, 3 => (s.rootOf 2).isSome
  | _, _ => true

/-- The tag of R567 under the root of a slot. -/
def lifeTag (s : State) (slot target : Nat) (nonce : List Byte) : Option (List Byte) :=
  (s.rootOf slot).map (fun r =>
    hmac (s.derive r .lifecycle) (padTo 8 s.nv.serial ++ padTo 16 nonce ++ leN 1 s.lifecycle ++ leN 1 target))

/-- The nonce is that of the latest challenge and at most 60 s old. -/
def nonceOk (s : State) (nonce : List Byte) : Bool :=
  s.key.nonce == some (padTo 16 nonce) && decide (s.lat.ms ≤ s.key.nonceMs + 60000)

/-- Result of the checks of a KEY_LIFECYCLE: challenge, transition, authentication, precondition (log entry 111). -/
def lifeResult (s : State) (target : Nat) (nonce tag : List Byte) : Nat :=
  if !nonceOk s nonce then 1
  else if authorisers s target = [] ∨ s.key.target.isSome then 3
  else if !(authorisers s target).any (fun r => lifeTag s r target nonce == some (padTo 32 tag)) then 2
  else if !lifePrecondition s target then 4
  else 0

/-- KEY_LIFECYCLE (R566, R567): accepted, it applies at the next millisecond tick and is answered then. -/
def execKeyLifecycle (h : CmdHdr) (target : Nat) (nonce tag : List Byte) (s : State) : Res :=
  let r := lifeResult s target nonce tag
  let s := { s with key.nonce := none }
  if r = 0 then .next { s with key.target := some target, key.tag := h.tag }
  else .next (answer 0x0C06 255 h.tag (leN 1 r) s)

/-- The fuse or the SERVICE flag of a transition. -/
def setLife (target : Nat) (s : State) : State :=
  if target = lcService then { s with bak.service := true }
  else { s with nv.life := target, bak.service := false }

/-- LIFECYCLE_APPLY (R566, R694): before SCRAPPED the fell line fires. -/
def execLifecycleApply (s : State) : Res :=
  match s.key.target with
  | none => .next s
  | some t =>
    let old := s.lifecycle
    let s := { s with key.target := none }
    let s := if t = lcScrapped then fellLine 8 s else s
    let s := emit 0x0C04 255 (leN 1 old ++ leN 1 t) (setLife t (discardStaging 4 s))
    .next (answer 0x0C06 255 s.key.tag (leN 1 0) s)

/-- The states in which a slot may be written (R568). -/
def slotInstallable (s : State) (slot : Nat) : Bool :=
  match slot with
  | 0 => s.lifecycle == lcFactory
  | 1 => s.lifecycle == lcPersonalised || s.lifecycle == lcDeployed || s.lifecycle == lcService
  | 2 => s.lifecycle == lcPersonalised || s.lifecycle == lcDeployed
  | 3 => s.lifecycle == lcFactory || s.lifecycle == lcPersonalised || s.lifecycle == lcDeployed || s.lifecycle == lcService
  | _ => false

/-- The root that a KEY_INSTALL carries, where its tag holds. -/
def unwrapRoot (s : State) (slot : Nat) (nonce enc tag : List Byte) : Option (List Byte) :=
  gcmOpen s.installKey (padTo 12 nonce) (padTo 8 s.nv.serial ++ leN 1 slot ++ leN 1 s.lifecycle)
    (padTo 32 enc) (padTo 16 tag)

/-- A root held as two shares, with its check word (R563, R564). -/
def sharedRoot (s : State) (root : List Byte) : Root :=
  let m := Config.random s.freeCount
  { shareA := m, shareB := m ^^^ BitVec.ofNat 256 (ofBe (padTo 32 root)), check := checkWord (padTo 32 root) }

/-- KEY_INSTALL (R568): a slot that the table does not name is installable in no state. -/
def execKeyInstall (h : CmdHdr) (slot : Nat) (nonce enc tag : List Byte) (s : State) : Res :=
  if !slotInstallable s slot then .next (answer 0x0C06 255 h.tag (leN 1 3) s)
  else if (s.rootOf slot).isSome then .next (answer 0x0C06 255 h.tag (leN 1 4) s)
  else match unwrapRoot s slot nonce enc tag with
    | none => .next (answer 0x0C06 255 h.tag (leN 1 2) s)
    | some root =>
      let r := sharedRoot s root
      let s := { s with freeCount := s.freeCount + 1, bak.roots := modN s.bak.roots slot (fun _ => some r) }
      .next (answer 0x0C06 255 h.tag (leN 1 0) (emit 0x0C04 255 (leN 1 slot) s))

/-- The public key of an SECC key of n bytes, zero bytes while the operator root is absent (R571, R572, R586). -/
def seccKey (s : State) (n : Nat) (l : KeyLabel) : List Byte :=
  match s.rootOf 1 with
  | some r =>
    let x := s.derive r l
    match n with
    | 65 => publicKey 32 x
    | 133 => publicKey 66 x
    | _ => leN n (Config.ed448Public x).toNat
  | none => List.replicate n 0

/-- KEY_INFO (R585, R586). -/
def execKeyInfo (h : CmdHdr) (s : State) : Res :=
  .next (answer 0x0C09 255 h.tag (seccKey s 65 .seccP256 ++ seccKey s 133 .seccP521 ++ seccKey s 57 .seccEd448
    ++ (readingKey s).getD (List.replicate 65 0) ++ keyId s) s)

end Sys2Proof.Machine
end

