-- ==== Sys2Proof/Machine/Flags.lean ====
section
/-! DEFINITION. The interrupt sources of HST_IRQ and the output HIRQN (R718), and the status registers as the host reads
them: the global HST_ registers, the live status mirror and the other windows (R699, R704). -/

namespace Sys2Proof.Machine

/-! ## Interrupts (R718) -/

/-- The level sources: COMMIT_DONE, EVENT and READING follow their conditions (R715, R718). -/
def levelSources (s : State) : BitVec 12 :=
  BitVec.ofNat 12 (4 * b2n (s.host.doneC != 0) + 8 * b2n (!s.host.eq.isEmpty) + 16 * b2n (!s.bil.queue.isEmpty))

/-- The latched sources: all but 2, 3 and 4. -/
def latchedMask : BitVec 12 := 0xFE3

/-- HST_IRQ: latched bits as set, level bits as their conditions stand (R718, R721). -/
def irqWord (s : State) : BitVec 12 := (s.host.irq &&& latchedMask) ||| levelSources s

/-- HIRQN is high while no enabled source is 1 (R718). -/
def hirqn (s : State) : Bool := (irqWord s &&& s.host.irqEn) == 0

/-! ## Digital pins (R97) -/

/-- RESETN or the device's own reset holds the digital pins: T0 has not come (R97, R116). -/
def pinsHeld (s : State) : Bool := !s.start.released

/-- The level of a digital pin while RESETN is low (R97). -/
def pinInReset (s : State) (p : Pin) : PinLevel :=
  match p with
  | .hirqn | .mcsn => .high
  | .mck | .mrstn | .rstoutn | .isel _ => .low
  | .hsio _ | .mdq _ | .mdqs | .tdo => .highZ
  | .fdetn => if s.tag.fdetLow then .low else .released

/-- The level of a digital pin: in reset the table's; afterwards as the rules of its block say. The memory and host
interface pins follow their transfers, and TDO the test port (R97, R118, R448, R552, R718). -/
def pinLevel (s : State) (p : Pin) : PinLevel :=
  if pinsHeld s then pinInReset s p
  else match p with
    | .hirqn => if hirqn s then .high else .low
    | .rstoutn => if s.start.rstOutN then .released else .low
    | .mrstn => if s.start.mrstN then .high else .low
    | .isel i => if (s.auxDev.isel.getD 0).testBit i.val then .high else .low
    | .fdetn => if s.tag.fdetLow then .low else .released
    | .hsio _ => if s.host.csLow then .transfer else .highZ
    | .mck | .mcsn | .mdq _ | .mdqs => .transfer
    | .tdo => .highZ

/-! ## Fields -/

/-- x ÷ d as the device rounds it; an exact quotient needs no rounding (log entry 37). -/
def roundQ (x : Int) (d : Nat) : Int := quot x d

/-- A count that stops at the top of its field of n bits. -/
def stopAt (n x : Nat) : Nat := min (2 ^ n - 1) x

/-! ## Trunk, supplies and start (R58 to R61, R108, R109, R147 to R151) -/

def sysWord (s : State) (o : Nat) : BitVec 32 :=
  let t := s.trunk
  match o with
  | 0x00 => word [(31, b2n t.paceLow), (20, fit 5 t.minSeg), (10, fit 10 t.paceMax), (0, fit 10 t.paceMin)]
  | 0x04 => word [(27, (t.seg.toList.filter (fun g => g.carried.isSome)).length), (22, (t.seg.toList.filter (·.half)).length),
      (17, fit 5 t.lastSeg), (13, fit 4 t.lastLane), (0, fit 13 t.resends)]
  | 0x08 => word [(24, fit 8 t.peak[(3 : Fin 4)]), (16, fit 8 t.peak[(2 : Fin 4)]), (8, fit 8 t.peak[(1 : Fin 4)]),
      (0, fit 8 t.peak[(0 : Fin 4)])]
  | 0x0C => word [(24, fit 8 t.crxPeak), (16, fit 8 t.vrxPeak), (8, fit 8 t.vrxPeakId), (0, fit 8 t.smpPeak)]
  | 0x10 =>
    let u := s.supply
    word [(24, fit 8 (max u.tLogic (max u.tMixed u.tPower))), (16, fit 8 u.tPower), (8, fit 8 u.tMixed), (0, fit 8 u.tLogic)]
  | 0x14 => word [(21, b2n s.supply.lastHigh), (16, fit 5 s.supply.lastTrip), (0, s.supply.inRange.toNat)]
  | 0x18 =>
    let p := s.start
    word [(28, fit 4 p.phase), (24, fit 4 p.stopPhase), (16, fit 8 p.stopReason), (15, fit 1 p.ronifSlot), (14, fit 1 p.fwBank),
      (13, fit 1 p.hwBank), (12, b2n p.waitSupply), (0, stopAt 11 p.startMs)]
  | 0x1C => word [(16, fit 16 s.start.loaded), (8, stopAt 8 s.start.ignored), (0, stopAt 8 s.start.missing)]
  | 0x20 => BitVec.ofNat 32 s.start.ronifSeq
  | 0x24 => word [(16, s.host.rejected.toNat), (0, s.host.pendingC.toNat)]
  | 0x28 => word [(24, s.host.safLeft.toNat), (16, s.host.sesLeft.toNat), (8, s.host.vehLeft.toNat),
      (0, stopAt 8 s.host.superseded)]
  | _ => 0

/-! ## Vehicle ports and sessions (R200 to R202, R744, R243 to R246) -/

def pilotNo : PilotState → Nat
  | .A => 0 | .B => 1 | .C => 2 | .D => 3 | .E => 4 | .F => 5 | .fault => 6

def outNo : OutMode → Nat
  | .off => 0 | .x1 => 1 | .x2 => 2 | .f => 3

def vehWord (s : State) (b : Bough) (o : Nat) : BitVec 32 :=
  let p := s.ports[b]
  match o with
  | 0 => word [(28, pilotNo p.state), (26, outNo p.out), (25, b2n p.diode), (24, b2n p.ppValid), (20, fit 4 p.ppCode),
      (10, fit 10 p.duty), (0, fit 10 p.offered)]
  | 4 => word [(16, fit 16 p.posMv), (0, fit 16 p.negMv)]
  | 8 => word [(28, fit 4 p.slac), (26, fit 2 p.proto), (25, b2n p.tls), (16, fit 8 p.atten), (8, fit 8 p.margin),
      (0, stopAt 8 p.retx)]
  | _ => word [(16, fit 16 p.ppOhm), (0, fit 16 p.rating)]

def sesWord (s : State) (b : Bough) (o : Nat) : BitVec 32 :=
  let e := s.ses[b]
  match o with
  | 0 => word [(28, sesNo e.state), (25, fit 3 e.authBy), (22, fit 3 e.identKind), (19, fit 3 e.binding), (8, fit 8 e.stopReason),
      (0, fit 8 e.held.length)]
  | 4 => word [(16, fit 16 (e.ceilW / 100 : Nat)), (0, fit 16 e.acCeil)]
  | 8 => BitVec.ofNat 32 (stopAt 32 e.cost)
  | _ => BitVec.ofNat 32 e.num

/-- Ledger records with VALID = 1 (R246). -/
def ledgerRecords (s : State) : Nat :=
  (s.mem.cells.filter (fun c => decide (0x01000000 ≤ c.1 ∧ c.1 < 0x01400000) && c.1 % 16 == 13 && c.2.getLsbD 0)).length

def sesDevWord (s : State) (o : Nat) : BitVec 32 :=
  let h := halfAt s s.nv.flash.active
  match o with
  | 0x80 => word [(13, fit 19 (ledgerRecords s)), (7, fit 6 s.sesDev.probeMax), (6, fit 1 s.nv.flash.active)]
  | 0x84 => word [(16, fit 16 h.entries.length), (0, h.generation % 65536)]
  | _ => 0

/-! ## Safety (R288 to R290) -/

def safWord (s : State) (b : Bough) (o : Nat) : BitVec 32 :=
  let f := s.saf[b]
  let m := s.meas[b]
  match o with
  | 0 => word [(29, closedMask s b),
      (26, allCoils.foldl (fun w k => if f.coils[k].driven then w ||| (1 <<< k.val) else w) 0), (25, b2n (heldOut s b)),
      (24, b2n (f.coils.any (·.undet))), (16, faultCode s b), (8, fit 8 f.lastCause), (0, stopAt 8 f.testsFailed)]
  | 4 => word [(22, stopAt 10 m.acMa), (10, ofInt 12 (clampI (-2047) 2047 m.dcMa)), (8, if bitOf (s.safBoughCfg b) 27 then fit 2 m.imd else 0), (0, stopAt 8 m.riso)]
  | _ => 0

def safDevWord (s : State) : BitVec 32 :=
  let d := s.safDev
  word [(31, b2n d.estopA), (30, b2n d.estopB), (29, b2n d.stop), (28, b2n d.disc), (27, b2n (!d.fsCauses.isEmpty)),
    (24, fit 3 d.fsReport), (22, d.wdog.toNat), (0, fit 6 d.slot)]

/-! ## Sampling and energy (R336 to R338, R375 to R379) -/

/-- A mask of the channels that p holds of. -/
def chMask (m : Mtr) (p : MtrCh → Bool) : Nat :=
  (List.range 24).foldl (fun w n => if p (getN m.ch n {}) then w ||| (1 <<< n) else w) 0

def mtrWord (s : State) (b : Bough) (o : Nat) : BitVec 32 :=
  let m := s.mtr[b]
  match o with
  | 0 => word [(27, fit 5 m.served), (24, fit 3 m.rsvState), (0, chMask m (·.failed))]
  | 4 => word [(27, fit 5 m.rsvIn), (16, fit 8 m.fitBlocks), (0, fit 16 m.mismatch)]
  | 8 => BitVec.ofNat 32 (chMask m (·.ovrBlock))
  | _ => 0

/-- Three phase values of 10 bits. -/
def threeWord (v : Vector Nat 3) (d : Nat) : BitVec 32 :=
  word [(20, fit 10 (roundQ v[2] d)), (10, fit 10 (roundQ v[1] d)), (0, fit 10 (roundQ v[0] d))]

def nrgWord (s : State) (b : Bough) (o : Nat) : BitVec 32 :=
  let e := s.nrg[b]
  let n := s.nst[b]
  match o with
  | 0x00 => word [(31, b2n e.noGrid), (30, b2n e.substBlk), (29, b2n (e.gap || e.gapPh.any id)), (28, b2n e.ovrBlk), (27, b2n e.dirExp),
      (25, fit 2 e.refCh), (0, if e.noGrid then 0 else fit 16 (roundQ e.freq 10))]
  | 0x04 => BitVec.ofNat 32 (fit 32 n.p)
  | 0x08 => BitVec.ofNat 32 (fit 32 n.q)
  | 0x0C => BitVec.ofNat 32 (fit 32 n.s)
  | 0x10 => word [(16, n.pf.toNat), (0, fit 16 (roundQ n.inRms 100))]
  | 0x14 => threeWord n.u 500
  | 0x18 => threeWord n.i 100
  | _ => word [(17, fit 15 (roundQ n.dcMean[(0 : Fin 3)] 100)), (0, fit 17 (roundQ n.dcMean[(1 : Fin 3)] 100))]

/-! ## Heartwood (R426 to R431) -/

/-- The heartwood runs: P5 has completed. -/
def bilUp (s : State) : Bool := s.start.done ≥ 6

def bilWord (s : State) (o : Nat) : BitVec 32 :=
  let b := s.bil
  match o with
  | 0x00 => word [(31, b2n s.timeKnown), (30, b2n s.belowHwm), (29, b2n b.passive.isSome), (28, b2n (bilUp s && !pricing s)),
      (27, b2n (bilUp s && s.heartwoodRoot.isNone)), (16, fit 8 b.rate), (8, fit 8 b.demandMin), (0, fit 8 b.offset)]
  | 0x04 => s.bak.caltime
  | 0x08 => BitVec.ofNat 32 (if b.hasHwm then b.hwm else 0)
  | 0x0C => BitVec.ofNat 32 (calId b.calendar)
  | 0x10 => word [(16, fit 16 b.queue.length), (0, stopAt 16 b.droppedQ)]
  | 0x14 => BitVec.ofNat 32 b.readingNo
  | 0x18 => BitVec.ofNat 32 (ofBe (bytesAt b.check 0 4))
  | 0x1C => BitVec.ofNat 32 (ofBe (bytesAt b.check 4 4))
  | _ => if 0x20 ≤ o ∧ o < 0x40 then BitVec.ofNat 32 (s.bilB.toList.getD ((o - 0x20) / 4) {}).demand else 0

/-! ## Load channels, display, canopy link (R463, R464, R486, R523, R524) -/

/-- STATE of a load channel. -/
def auxState (s : State) (a : AuxCh) : Nat :=
  if !s.safDev.fsCauses.isEmpty then 7 else if a.uv then 6 else if a.latched then 5 else if a.retryWait then 4
  else if a.atLimit then 3 else if a.inrush then 2 else if a.on then 1 else 0

def auxWord (s : State) (o : Nat) : BitVec 32 :=
  if o < 0x80 then
    let a := s.aux.toList.getD (o / 4) {}
    word [(29, if s.ready then auxState s a else 0), (25, stopAt 4 a.retryCnt), (24, b2n a.hot), (15, fit 9 a.temp), (13, fit 2 a.lastFault),
      (12, b2n a.bridge), (0, stopAt 12 a.current)]
  else if o = 0x80 then
    let g := fun (i : Nat) => stopAt 8 (roundQ (getN s.auxDev.vgrp i 0 : Nat) 20).toNat
    word [(24, g 3), (16, g 2), (8, g 1), (0, g 0)]
  else 0

def lcdNo : LcdState → Nat
  | .off => 0 | .pump => 1 | .clearing => 2 | .showing => 3 | .lowPower => 4 | .stopping => 5

def lcdWord (s : State) (o : Nat) : BitVec 32 :=
  let l := s.lcd
  if o = 0 then
    word [(29, lcdNo l.state), (24, fit 5 l.page), (16, fit 8 l.vlcd), (8, stopAt 8 l.superseded), (0, l.dirty.toNat)]
  else 0

def cnpWord (s : State) (o : Nat) : BitVec 32 :=
  let c := s.canopy
  match o with
  | 0x00 => word [(29, fit 3 c.role), (28, b2n c.turnKnown), (27, b2n c.czcLock), (26, b2n c.keyIdx),
      (25, b2n (stationListed s (ownStation s))), (18, fit 6 (ownStation s)), (12, fit 6 c.coord), (5, fit 7 c.memberCount),
      (0, stopAt 5 c.missed)]
  | 0x04 => if c.turnKnown then c.turn else 0
  | 0x08 => word [(16, stopAt 16 c.retx), (8, stopAt 8 c.droppedM), (0, stopAt 8 (c.peers.filter (fun p => p.tmap != 0)).length)]
  | 0x0C => word [(16, fit 16 c.siteDemand), (0, fit 16 c.siteAlloc)]
  | _ => 0

/-! ## Tag, keys, memory (R555, R583, R584, R622 to R625) -/

def tagWordStat (s : State) (o : Nat) : BitVec 32 :=
  let t := s.tag
  if o = 0 then
    word [(31, b2n t.field), (29, fit 2 t.owner), (28, b2n t.recovered), (24, fit 4 t.lastStatus), (16, stopAt 8 (markedPages s).length),
      (0, stopAt 16 t.writes)]
  else 0

/-- The fuses have been read: the key registers show the backup domain (R564). -/
def keysUp (s : State) : Bool := s.start.lifeValid

def keyWord (s : State) (o : Nat) : BitVec 32 :=
  let k := s.bak
  match o with
  | 0x00 =>
    if !keysUp s then 0
    else
      let roots := (List.range 4).foldl (fun w i => if (s.rootOf i).isSome then w ||| (1 <<< i) else w) 0
      let inUse := if (s.rootOf s.rootInUse).isSome then s.rootInUse else 15
      word [(29, fit 3 s.lifecycle), (24, roots), (20, fit 4 inUse), (19, b2n s.crypto.drbgOk), (15, k.cause.toNat),
        (7, stopAt 8 k.fells), (0, fit 6 s.crypto.keys.length)]
  | 0x04 => word [(30, if k.tamperCfg.getLsbD 0 then fit 2 k.loopA else 3), (28, if k.tamperCfg.getLsbD 1 then fit 2 k.loopB else 3), (27, b2n k.oscOk),
      (8, fit 8 k.levelA), (0, fit 8 k.levelB)]
  | 0x08 => k.fellTime
  | _ => 0

/-- Free spares of a macro: rows, column groups (R607). -/
def freeSpares (s : State) (m : Nat) : Nat × Nat := (rowSpares m - (macroAt s m).rows.length, 2 - (macroAt s m).cols.length)

/-- The lowest value of f over the macros. -/
def fewest (f : Nat → Nat) : Nat := (List.range 221).foldl (fun w m => min w (f m)) (f 0)

/-- The macro with the fewest free spares, the lowest number at a tie (log entry 117). -/
def macroMin (s : State) : Nat :=
  let n := fun m => (freeSpares s m).1 + (freeSpares s m).2
  ((List.range 221).find? (fun m => n m == fewest n)).getD 0

def memWord (s : State) (o : Nat) : BitVec 32 :=
  let m := s.mem
  match o with
  | 0x00 => word [(16, stopAt 16 m.corr), (8, stopAt 8 m.uncorr), (0, stopAt 8 m.degraded)]
  | 0x04 => word [(3, fit 29 m.lastAddr), (1, fit 2 m.lastKind)]
  | 0x08 =>
    if s.start.done < 3 then 0
    else word [(24, stopAt 8 m.soft), (17, stopAt 7 (s.nv.fieldMap.filter (· != 0)).length), (12, fewest (fun m => (freeSpares s m).1)),
      (10, fewest (fun m => (freeSpares s m).2)), (0, macroMin s)]
  | 0x0C => word [(31, b2n (s.trunk.capNow == 0)), (24, fit 7 (m.scrubRow * 100 / trunkRows : Nat)), (0, stopAt 16 m.passes)]
  | 0x10 => word [(28, fit 4 m.part), (14, m.failedParts.toNat), (0, stopAt 14 m.runs)]
  | 0x14 => word [(31, b2n m.halted), (16, fit 5 m.haltStop), (0, fit 8 m.haltCh)]
  | _ => 0

/-! ## Event log and update (R661 to R663, R687) -/

def logWord (s : State) (o : Nat) : BitVec 32 :=
  match o with
  | 0x00 => word [(16, stopAt 16 s.log.overrun), (8, stopAt 8 (roundQ (logFill s) 1024).toNat), (0, stopAt 8 s.log.lost)]
  | 0x04 => s.log.next
  | 0x08 => word [(30, fit 2 (getN s.nv.flash.dumps 0 {}).state), (28, fit 2 (getN s.nv.flash.dumps 1 {}).state),
      (27, b2n s.log.fatalHold), (16, stopAt 8 (recentRestarts s)), (0, s.nv.flash.dumpNo % 65536)]
  | _ => 0

/-- Ticks of OPTIME in a minute (R19). -/
def minuteTicks : Nat := 60 * 64

def updWord (s : State) (o : Nat) : BitVec 32 :=
  let u := s.upd
  match o with
  | 0x00 => word [(28, fit 4 u.state), (26, match u.stage with | some g => fit 2 g.part | none => 0), (23, u.staged.toNat),
      (20, u.switched.toNat), (18, fit 2 u.mode), (0, stopAt 8 (roundQ (u.endAt - s.lat.optime : Nat) minuteTicks).toNat)]
  | 0x04 => BitVec.ofNat 32 (match u.stage with | some g => g.received | none => 0)
  | 0x08 => BitVec.ofNat 32 u.when
  | _ => 0

/-! ## The global HST_ registers (R719 to R725) -/

/-- Bytes of the command queue in use (R709). -/
def cqUsed (s : State) : Nat := (s.host.cq.map List.length).sum

def hstWord (s : State) (o : Nat) : BitVec 32 :=
  let h := s.host
  match o with
  | 0x00 => 0x47080001
  | 0x04 => word [(28, fit 4 s.start.phase), (27, b2n s.ready), (26, b2n s.log.fatalHold), (24, fit 2 h.bulkState),
      (16, stopAt 8 h.eq.length), (0, if s.open2 then fit 16 (16384 - cqUsed s : Nat) else 0)]
  | 0x08 => (irqWord s).setWidth 32
  | 0x0C => h.irqEn.setWidth 32
  | 0x14 => h.doneC.setWidth 32
  | 0x18 => BitVec.ofNat 32 (fit 10 s.trunk.hstPace)
  | 0x1C => if s.start.lifeValid then word [(31, 1), (0, fit 3 s.lifecycle)] else 0
  | 0x20 => word [(20, fit 12 (roundQ (eqUsed s) 64)), (8, stopAt 8 h.eqLost), (0, fit 8 h.eqSeq)]
  | 0x24 => word [(24, stopAt 8 h.dropped), (16, fit 8 h.lastReason), (0, stopAt 16 h.accepted)]
  | 0x28 => word [(24, fit 2 h.bulkState), (0, fit 16 h.bulkType)]
  | 0x2C => BitVec.ofNat 32 h.bulkLen
  | 0x30 => h.scratch
  | 0x34 => word [(16, stopAt 16 h.ignoredW), (8, stopAt 8 h.badOp), (0, stopAt 8 h.cut)]
  | _ => 0

/-! ## The windows as the host reads them (R699, R704) -/

/-- A bough's number from an offset in rows of n bytes. -/
def boughAt (o n : Nat) : Bough := ⟨o / n % 8, Nat.mod_lt _ (by decide)⟩

/-- The register of the live status mirror at offset o below 0x03_0000 + 0x1000, o a multiple of 4. -/
def liveWord (s : State) (o : Nat) : BitVec 32 :=
  let r := o % 0x100
  match o / 0x100 with
  | 1 => sysWord s r
  | 2 => if r < 0x80 then vehWord s (boughAt r 16) (r % 16) else 0
  | 3 => if r < 0x80 then sesWord s (boughAt r 16) (r % 16) else sesDevWord s r
  | 4 => if r < 0x80 then safWord s (boughAt r 16) (r % 16) else if r = 0x80 then safDevWord s else 0
  | 5 => if r < 0x80 then mtrWord s (boughAt r 16) (r % 16) else 0
  | 6 => nrgWord s (boughAt r 32) (r % 32)
  | 7 => bilWord s r
  | 8 => auxWord s r
  | 9 => lcdWord s r
  | 10 => cnpWord s r
  | 11 => tagWordStat s r
  | 12 => keyWord s r
  | 13 => memWord s r
  | 14 => logWord s r
  | 15 => updWord s r
  | _ => 0

/-- Byte i of a register. -/
def byteOf (w : BitVec 32) (i : Nat) : Byte := BitVec.ofNat 8 (w.toNat >>> (8 * i))

/-- A message as its bytes (R705). -/
def msgBytes (m : Msg) : List Byte :=
  leN 2 m.type ++ leN 1 m.bough ++ leN 1 m.seq ++ leN 2 m.body.length ++ leN 2 m.tag ++ m.body

/-- The byte of the host's window at offset a; before a window opens its reads return 0, and unmapped offsets read as 0
(R699, R704, R713, R417, R539, R550). -/
def hostByte (s : State) (a : Nat) : Byte :=
  if a < 0x100 then (if s.start.done ≥ 1 ∨ s.stopped then byteOf (hstWord s (a - a % 4)) (a % 4) else 0)
  else if 0x2000 ≤ a ∧ a < 0x3000 then (if s.open2 then byteAt (s.host.eq.flatMap msgBytes) (a - 0x2000) else 0)
  else if 0x3000 ≤ a ∧ a < 0x4000 then
    (if s.open2 then byteAt (s.bil.queue.getD ((a - 0x3000) / 256) {}).raw ((a - 0x3000) % 256) else 0)
  else if 0x10000 ≤ a ∧ a < 0x20000 then (if s.open3 then memGet pageReset s.host.shadow (a - 0x10000) else 0)
  else if 0x20000 ≤ a ∧ a < 0x24000 then
    (if s.open2 ∧ !pageRefused ((a - 0x20000) / 64) then memGet zeroB s.tag.mirror (a - 0x20000) else 0)
  else if 0x30000 ≤ a ∧ a < 0x31000 then
    (if s.start.done ≥ 1 ∨ s.stopped then byteOf (liveWord s (a - 0x30000 - a % 4)) (a % 4) else 0)
  else if 0x40000 ≤ a ∧ a < 0x80000 then (if s.open2 then memGet zeroB s.host.bulk (a - 0x40000) else 0)
  else 0

end Sys2Proof.Machine
end

