-- ==== Sys2Proof/Machine/Records.lean ====
section
/-! DEFINITION. The commands of the event recorder: rings, budgets, histograms, the fatal dump and its restart (R635 to
R672). -/

namespace Sys2Proof.Machine

/-! ## Records and rings (R635, R638, R639) -/

/-- Bytes of a sector (R639). -/
def sectorSize : Nat := 4096

/-- Sectors of the three rings; on a 512 Mbit flash the coded ring goes on in the extension (R638). -/
def readingSectors : Nat := 512
def codedSectors (s : State) : Nat := if s.nv.flash.big then 768 + 8192 else 768
def generalSectors : Nat := 240

/-- A sector of a ring erased: its records are lost (R639). -/
def eraseSector (k : Nat) (g : Ring) : Ring := { g with recs := g.recs.filter (fun e => e.1 != k) }

/-- The recorder begins to write sector k of n: the next one is erased (R639). -/
def beginSector (n k : Nat) (g : Ring) : Ring := { eraseSector ((k + 1) % n) g with sector := k, used := 0 }

/-- A record written to a ring of n sectors; it never crosses a sector boundary (R639). -/
def ringPut (n : Nat) (r : LogRec) (g : Ring) : Ring :=
  let sz := recSize r.data.length
  let g := if g.used = 0 then beginSector n g.sector g
    else if g.used + sz ≤ sectorSize then g else beginSector n ((g.sector + 1) % n) g
  { g with recs := g.recs ++ [(g.sector, r)], used := g.used + sz }

/-- A decided record goes to its ring: readings, diverted records, every other (R638, R644). -/
def putRecord (r : LogRec) (s : State) : State :=
  if r.code = 0x0701 then { s with nv.flash.reading := ringPut readingSectors r s.nv.flash.reading }
  else if r.flags.getLsbD 4 then { s with nv.flash.general := ringPut generalSectors r s.nv.flash.general }
  else { s with nv.flash.coded := ringPut (codedSectors s) r s.nv.flash.coded }

/-- Records that found their part of the queue full are reported (R641). -/
def reportLost (s : State) : State :=
  if s.log.lostDue = 0 then s
  else emit 0x0E04 255 (leN 4 s.log.lostDue ++ leN 1 0) { s with log.lostDue := 0 }

/-- RECORD_WRITE (R636, R639): the oldest record of the queue is written to its ring. SEQ was taken at the decision
(R637). -/
def execRecordWrite (s : State) : Res :=
  if !s.log.logOn then .next s
  else match s.log.queue with
    | [] => .next (reportLost s)
    | r :: rest => .next (reportLost (putRecord r { s with log.queue := rest }))

/-! ## Budget windows (R644) -/

/-- Event 0x0E03 of a code over budget. -/
def budgetEvent (e : Budget) (s : State) : State :=
  if e.overrun = 0 then s
  else emit 0x0E03 255 (leN 2 e.code ++ leN 1 (b2n e.diverted) ++ leN 4 e.overrun ++ leN 8 e.first.toNat ++ leN 8 e.last.toNat) s

/-- The end of a window: the counts cleared, one event 0x0E03 for each code that was over budget (R644). -/
def endWindow (s : State) : State :=
  s.log.budgets.foldl (fun t e => budgetEvent e t) { s with log.budgets := [], log.overrun := 0 }

/-- BUDGET_WINDOW_END (R644). -/
def execBudgetWindowEnd (s : State) : Res := .next (if s.log.logOn then endWindow s else s)

/-! ## Histograms (R645 to R647) -/

/-- The hottest of channels 15 to 18 of bough b, in m°C × 2²³ (R25, R312). -/
def hottest (s : State) (b : Bough) : Int :=
  let t := fun (n : Nat) => (getN s.mtr[b].ch n {}).value * ((s.mtrFs (24 * b.val + n)).toNat : Int)
  max (max (t 15) (t 16)) (max (t 17) (t 18))

/-- The sample of one of a bough's four histograms (R645). -/
def sampleBough (id : Nat) (b : Bough) (s : State) : State :=
  match id % 4 with
  | 0 => if coilsClosed s b then histAdd id (hottest s b) (1000 * 2 ^ 23) s else s
  | 1 => match s.sesL[b].endWh with
    | some x => histAdd id x 1 (s.onSesL b (fun l => { l with endWh := none }))
    | none => s
  | 2 => match s.sesL[b].endSecs with
    | some x => histAdd id x 60 (s.onSesL b (fun l => { l with endSecs := none }))
    | none => s
  | _ => if coilsClosed s b then histAdd id s.meas[b].acMa 1 s else s

/-- The sample of a device-wide histogram (R645). -/
def sampleDevice (id : Nat) (s : State) : State :=
  match id with
  | 32 => histAdd id s.supply.tLogic 1 s
  | 33 => histAdd id s.supply.tMixed 1 s
  | 34 => histAdd id s.supply.tPower 1 s
  | 35 => histAdd id s.trunk.hstPace 1 s
  | 36 => histAdd id (s.mem.corr - s.log.lastCorr : Nat) 1 { s with log.lastCorr := s.mem.corr }
  | 37 => histAdd id (s.canopy.retx - s.log.lastRetx : Nat) 1 { s with log.lastRetx := s.canopy.retx }
  | 38 => histAdd id s.start.startMs 1 s
  | _ => histAdd id s.sesDev.begun 1 { s with sesDev.begun := 0 }

/-- HISTOGRAM_SAMPLE (R645): the quantity of histogram id at its cadence. -/
def execHistogramSample (id : Fin 40) (s : State) : Res :=
  if !s.log.logOn then .next s
  else .next (if id.val < 32 then sampleBough id.val ⟨id.val / 4 % 8, Nat.mod_lt _ (by decide)⟩ s else sampleDevice id.val s)

/-- A snapshot in the next of the area's 16 sectors (R646). -/
def snapshotHists (s : State) : State :=
  let no := (s.log.snapNo + 1) % 2 ^ 32
  let place := match s.nv.flash.snaps with
    | e :: _ => (e.place + 1) % 16
    | [] => 0
  let snap : HistSnap := { no := no, opstamp := s.opstamp, hists := s.log.hists.toList, place := place }
  { s with log.snapNo := no,
           nv.flash.snaps := (snap :: s.nv.flash.snaps).take 16 }

/-- HISTOGRAM_SNAPSHOT (R646). -/
def execHistogramSnapshot (s : State) : Res := .next (if s.log.logOn then snapshotHists s else s)

/-- The summary page of a histogram (R647). -/
def summaryPage (id : Nat) (h : Hist) : List Byte :=
  leN 1 id ++ leN 1 (if id < 32 then id / 4 else 255) ++ leN 2 0 ++ leI 4 h.min ++ leI 4 h.max ++ leN 8 h.maxStamp.toNat
    ++ h.bins.toList.flatMap (fun n => leN 2 (min 65535 n)) ++ leN 4 (min 0xFFFFFFFF h.bins.toList.sum) ++ leN 4 0

/-- Tag pages 24 to 63 written (R647). -/
def summarise (s : State) : State :=
  (List.range 40).foldl (fun t id => tagWritePage (24 + id) (summaryPage id (getN t.log.hists id {})) t) s

/-- TAG_HISTOGRAM_SUMMARY (R647). -/
def execTagHistogramSummary (s : State) : Res := .next (if s.log.logOn then summarise s else s)

/-! ## The dump (R655 to R658) -/

/-- Records of the queue and the newest of the coded ring that fit in n bytes, oldest first (R657). -/
def newestRecs (n : Nat) (rs : List LogRec) : List LogRec :=
  (rs.reverse.foldl (fun (a : List LogRec × Nat × Bool) r =>
    let sz := recSize r.data.length
    if a.2.2 && decide (a.2.1 + sz ≤ n) then (r :: a.1, a.2.1 + sz, true) else (a.1, a.2.1, false)) ([], 0, true)).1

/-- The records of section 3. -/
def dumpRecs (s : State) : List LogRec := newestRecs 262144 (s.nv.flash.coded.recs.map (·.2) ++ s.log.queue)

/-- Section 2: the global registers, then the live status mirror (R657). -/
def registerSection (s : State) : List Byte :=
  (List.range 64).flatMap (fun i => leN 4 (hstWord s (4 * i)).toNat) ++
    (List.range 1024).flatMap (fun i => leN 4 (liveWord s (4 * i)).toNat)

/-- The sections of a dump (R657): what the failed core and its firmware give is not in the spec (log entry 119). A
heartwood dump has no section 1. -/
def dumpSections (cause : Nat) (s : State) : List (Nat × List Byte) :=
  (if cause = 1 ∨ cause = 4 then [(1, padTo 512 (Config.dumpCore s.freeCount))] else [])
    ++ [(2, registerSection s), (3, (dumpRecs s).flatMap recBytes), (4, Config.dumpRegions s.freeCount),
        (5, Config.dumpBadWords s.freeCount)]

/-- A section with its CRC-32C, filled to a 256-byte boundary with erased bytes. -/
def sectionBytes (bs : List Byte) : List Byte :=
  let x := withCrc bs
  x ++ List.replicate ((256 - x.length % 256) % 256) 0xFF

/-- PARTITION of a dump: the failed partition of R615, or 0xFF. -/
def dumpPartition (cause stop : Nat) (s : State) : Nat :=
  let p := match cause with
    | 1 => stop - 2
    | 2 => 13
    | 3 => 2
    | _ => 255
  if s.mem.failedParts.getLsbD p then p else 255

/-- The 256-byte header (R656); the earlier summary in tag page 3 gives the instant of the declaration. -/
def dumpHeader (d : Dump) (st : Nat) (secs : List (Nat × List Byte)) (pc : Nat) (s : State) : List Byte :=
  let page := tagPage s 3
  let rs := dumpRecs s
  let total := 256 + (secs.map (fun e => (sectionBytes e.2).length)).sum
  let table := secs.flatMap (fun e => leN 2 e.1 ++ leN 2 0 ++ leN 4 (e.2.length + 4))
  let body := leN 2 1 ++ leN 1 d.cause ++ leN 1 st ++ leN 4 d.no ++ leN 4 total ++ leN 8 d.opstamp.toNat ++ bytesAt page 16 4
    ++ leN 1 d.stop ++ leN 1 (dumpPartition d.cause d.stop s) ++ leN 1 s.log.fatalSecond ++ leN 1 (recentRestarts s)
    ++ bytesAt page 24 4 ++ bytesAt page 28 4 ++ leN 4 pc ++ leN 1 s.start.fwBank ++ leN 1 s.start.hwBank
    ++ leN 1 s.start.ronifSlot ++ leN 1 0 ++ leN 4 s.start.ronifSeq
    ++ leN 4 (match rs.head? with | some r => r.seq.toNat | none => 0)
    ++ leN 4 (match rs.getLast? with | some r => r.seq.toNat | none => 0) ++ leN 4 0 ++ padTo 128 table
  ascii "RDMP" ++ withCrc (padTo 248 body)

/-- Step 3 of R654: the dump in its slot, complete or cut short. -/
def writeDump (st pc : Nat) (s : State) : State :=
  let d := getN s.nv.flash.dumps s.log.dumpSlot {}
  let secs := dumpSections d.cause s
  let bytes := dumpHeader d st secs pc s ++ secs.flatMap (fun e => sectionBytes e.2)
  { s with freeCount := s.freeCount + 1,
           nv.flash.dumps := modN s.nv.flash.dumps s.log.dumpSlot (fun d =>
             { d with state := st, second := s.log.fatalSecond, bytes := bytes }) }

/-- The queue flushed to the log (R654, R667). -/
def flushQueue (s : State) : State := s.log.queue.foldl (fun t r => putRecord r t) { s with log.queue := [] }

/-- Steps 3 to 5 of R654 but for the restart. Whether the dump completes in its time the spec leaves to the flash, and
a free bit tells (log entry 119); without a flash it is not written. -/
def finishDump (s : State) : State :=
  let (v, s) := s.free 1
  let (pc, s) := s.free 32
  let st := if !s.nv.flash.present then 3 else if v = 1 then 1 else 2
  let s := flushQueue (if st = 3 then { s with nv.flash.dumps := modN s.nv.flash.dumps s.log.dumpSlot (fun d => { d with state := 0 }) }
    else writeDump st pc.toNat s)
  let page := tagPage s 3
  let s := tagWritePage 3 (page.take 23 ++ leN 1 st ++ bytesAt page 24 36) s
  { snapshotHists s with log.dumped := true }

/-! ## Fatal restart (R652, R653, R668) -/

/-- Causes whose restart follows the dump (R652). -/
def restartsAfterDump (c : Nat) : Bool := c == 2 || c == 3 || c == 5 || c == 6

/-- Fatal hold (R653): coils open, pilots in state F. -/
def enterHold (s : State) : State :=
  let s := emit 0x0E08 255 (leN 1 (recentRestarts s)) { s with log.fatalHold := true }
  forBoughs (fun b t => holdSession b 2 (openNow b 0 t)) s

/-- FATAL_RESTART (R652 to R654, R668): the dump is finished first; cause 1 alone then waits for open coils or
FATAL_WAIT, which the sender asserts with the next FATAL_RESTART; cause 4 alone restarts nothing. -/
def execFatalRestart (s : State) : Res :=
  match s.log.fatalCause with
  | none => .next s
  | some c =>
    if s.log.fatalHold then .next s
    else
      let first := !s.log.dumped
      let s := if first then finishDump s else s
      let after := restartsAfterDump c || restartsAfterDump s.log.fatalSecond
      let waits := c == 1 || s.log.fatalSecond == 1
      if !after && !waits then .next { s with log.fatalCause := none, log.fatalSecond := 0 }
      else if !after && first && fld s.logCfg 23 16 != 0 && allBoughs.any (fun b => coilsClosed s b) then .next s
      else if fld s.logCfg 15 12 ≤ recentRestarts s then .next (enterHold s)
      else
        let recent := s.nv.flash.restarts.filter (fun t => decide (s.lat.optime < t + 3600 * 64))
        .next (deviceReset { s with nv.flash.restarts := s.lat.optime :: recent })

/-- DUMP_SLOT_ERASED (R655, R665): not while the slot is being written. -/
def execDumpSlotErased (slot : Fin 2) (s : State) : Res :=
  let writing := s.log.fatalCause.isSome && !s.log.dumped && s.log.dumpSlot == slot.val
  if s.nv.flash.dumps[slot].state = 3 ∧ !writing then
    .next (emit 0x0E07 255 (leN 1 slot.val) { s with nv.flash.dumps := s.nv.flash.dumps.set slot {} })
  else .next s

/-! ## Commands (R664, R751) -/

/-- Event 0x0E01 with a result and its answer data. -/
def logAnswer (h : CmdHdr) (r : Nat) (data : List Byte) (s : State) : Res := .next (answer 0x0E01 255 h.tag (leN 1 r ++ data) s)

/-- The ring that LOG_READ names. -/
def ringOf (s : State) (ring : Nat) : Ring :=
  match ring with
  | 0 => s.nv.flash.coded
  | 1 => s.nv.flash.general
  | _ => s.nv.flash.reading

/-- The records of a ring that LOG_READ may copy from a first SEQ on (R636, R651, R751). -/
def readable (s : State) (ring first : Nat) : List LogRec :=
  (((ringOf s ring).recs.map (·.2)).filter (fun r => r.valid && !r.cleared)).filter (fun r =>
    first == 0xFFFFFFFF || atOrAbove r.seq.toNat first)

/-- The whole records that fit in limit bytes, from the first on (R751). -/
def prefixRecs : Nat → List LogRec → List LogRec
  | _, [] => []
  | limit, r :: rs =>
    let sz := recSize r.data.length
    if sz ≤ limit then r :: prefixRecs (limit - sz) rs else []

/-- LOG_READ (R664, R751). -/
def execLogRead (h : CmdHdr) (ring first limit : Nat) (s : State) : Res :=
  if bulkHeld s then logAnswer h 3 [] s
  else if 2 < ring ∨ limit = 0 ∨ 262144 < limit then logAnswer h 4 [] s
  else match readable s ring first with
    | [] => logAnswer h 1 [] s
    | r :: rs =>
      match prefixRecs limit (r :: rs) with
      | [] => logAnswer h 4 [] s
      | p :: ps =>
        let bs := (p :: ps).flatMap recBytes
        logAnswer h 0 (leN 4 p.seq.toNat ++ leN 4 (((p :: ps).getLast?).getD p).seq.toNat ++ leN 4 bs.length) (bulkOut 0x8E01 bs s)

/-- Records that LOG_CLEAR never clears (R650). -/
def keptRec (code : Nat) : Bool := code / 256 == 7 || [0x0C01, 0x0C03, 0x0C04].contains code || code / 256 == 0x0E

/-- The records of a ring that a clearing takes. -/
def clearable (g : Ring) : List LogRec := (g.recs.map (·.2)).filter (fun r => r.valid && !r.cleared && !keptRec r.code)

/-- A ring with every such record marked (R651). -/
def clearRing (g : Ring) : Ring :=
  { g with recs := g.recs.map (fun e => (e.1, if keptRec e.2.code then e.2 else { e.2 with cleared := true })) }

/-- LOG_CLEAR (R650, R651, R664). -/
def execLogClear (h : CmdHdr) (scope : Byte) (s : State) : Res :=
  if s.lifecycle = lcDeployed ∨ s.lifecycle = lcScrapped then logAnswer h 2 [] s
  else if 8 ≤ scope.toNat then logAnswer h 4 [] s
  else
    let coded := if scope.getLsbD 0 then clearable s.nv.flash.coded else []
    let general := if scope.getLsbD 1 then clearable s.nv.flash.general else []
    let gone := coded ++ general
    let top := gone.foldl (fun (m : Nat) r => if atOrAbove r.seq.toNat m ∨ m = 0 then r.seq.toNat else m) 0
    let s := emit 0x0E02 255 ([scope] ++ leN 1 s.lifecycle ++ leN 4 top ++ leN 4 gone.length ++ bytesAt (tagPage s 64) 4 8) s
    let s := if scope.getLsbD 0 then { s with nv.flash.coded := clearRing s.nv.flash.coded } else s
    let s := if scope.getLsbD 1 then { s with nv.flash.general := clearRing s.nv.flash.general } else s
    let s := if scope.getLsbD 2 then summarise (snapshotHists { s with log.hists := Vector.replicate 40 {} }) else s
    logAnswer h 0 (leN 4 top) s

/-- Bytes that LOG_DUMP_READ copies at most. -/
def dumpPart : Nat := 262144

/-- LOG_DUMP_READ (R664): the part of the dump from an offset on. -/
def execLogDumpRead (h : CmdHdr) (slot off : Nat) (s : State) : Res :=
  if bulkHeld s then logAnswer h 3 [] s
  else if 1 < slot ∨ off % dumpPart ≠ 0 then logAnswer h 4 [] s
  else
    let d := getN s.nv.flash.dumps slot {}
    if d.state = 0 ∨ d.state = 3 then logAnswer h 1 [] s
    else if d.bytes.length ≤ off then logAnswer h 4 [] s
    else
      let bs := (d.bytes.drop off).take dumpPart
      logAnswer h 0 (leN 4 bs.length) (bulkOut 0x8E03 bs s)

/-- The slots that a mask names begin to be erased (R655); a slot being written does not. -/
def eraseSlots (mask : Nat) (s : State) : State :=
  let writing := fun (i : Nat) => s.log.fatalCause.isSome && !s.log.dumped && s.log.dumpSlot == i
  { s with nv.flash.dumps := s.nv.flash.dumps.mapFinIdx (fun i d _ =>
      if mask.testBit i && !writing i && d.state != 0 then { d with state := 3, bytes := [] } else d) }

/-- LOG_DUMP_ACK (R655, R664). -/
def execLogDumpAck (h : CmdHdr) (mask : Byte) (s : State) : Res :=
  if 4 ≤ mask.toNat then logAnswer h 4 [] s else logAnswer h 0 [] (eraseSlots mask.toNat s)

/-- LOG_HIST_GET (R664): 40 entries. -/
def execLogHistGet (h : CmdHdr) (s : State) : Res :=
  if bulkHeld s then logAnswer h 3 [] s
  else logAnswer h 0 (leN 4 40) (bulkOut 0x8E05 (s.log.hists.toList.flatMap histBytes) s)

end Sys2Proof.Machine
end

