-- ==== Sys2Proof/Machine/Image.lean ====
section
/-! DEFINITION. What start-up and field update share: the directory (R128, R129, R682), the Ronif image and its checks
(R132 to R137), and the bank header and its check (R673, R674). -/

namespace Sys2Proof.Machine

/-! ## Areas of the flash -/

/-- Sizes of the areas of R127: Ronif slot, firmware bank, heartwood bank. -/
def areaSize (part : Nat) : Nat :=
  match part with
  | 0 => 1048576
  | 1 => 4194304
  | _ => 524288

/-- n bytes of an area from offset i; what was never written reads as erased flash, 0xFF. -/
def areaBytes (area : List Byte) (i n : Nat) : List Byte :=
  let bs := (area.drop i).take n
  bs ++ List.replicate (n - bs.length) 0xFF

/-- A number at offset i of an area. -/
def areaLe (area : List Byte) (i n : Nat) : Nat := ofLe (areaBytes area i n)

/-- Area i of a part: 0 Ronif slot, 1 firmware bank, 2 heartwood bank. -/
def areaOf (s : State) (part i : Nat) : List Byte :=
  match part with
  | 0 => getN s.nv.flash.ronif i []
  | 1 => getN s.nv.flash.fw i []
  | _ => getN s.nv.flash.hw i []

/-- Area i of a part written. -/
def putArea (part i : Nat) (bs : List Byte) (s : State) : State :=
  match part with
  | 0 => { s with nv.flash.ronif := modN s.nv.flash.ronif i (fun _ => bs) }
  | 1 => { s with nv.flash.fw := modN s.nv.flash.fw i (fun _ => bs) }
  | _ => { s with nv.flash.hw := modN s.nv.flash.hw i (fun _ => bs) }

/-! ## The directory (R128, R129, R682) -/

/-- A copy is correct (R129). -/
def dirOk (d : Dir) : Bool := d.magicOk && decide (d.ronif < 2) && decide (d.fw < 2) && decide (d.hw < 2)

/-- The copy in force: its content, and the reason byte of event 0x010E if there is one (R129). -/
def chooseDir (s : State) : Dir × Option Nat :=
  let a := s.nv.flash.dir[(0 : Fin 2)]
  let b := s.nv.flash.dir[(1 : Fin 2)]
  if dirOk a && dirOk b then
    (if a.seq = b.seq then (a, if a = b then none else some 0x0B) else if a.seq < b.seq then (b, none) else (a, none))
  else if dirOk a then (a, none)
  else if dirOk b then (b, none)
  else ({}, some 0x0A)

/-- The copy that a directory write replaces (R682). -/
def dirTarget (s : State) : Nat :=
  let a := s.nv.flash.dir[(0 : Fin 2)]
  let b := s.nv.flash.dir[(1 : Fin 2)]
  if !dirOk a then 0 else if !dirOk b then 1 else if a.seq < b.seq then 0 else 1

/-- SEQ of the next directory: one above the higher SEQ of the correct copies. -/
def dirSeq (s : State) : Nat :=
  let n := fun (d : Dir) => if dirOk d then d.seq + 1 else 0
  max (n s.nv.flash.dir[(0 : Fin 2)]) (n s.nv.flash.dir[(1 : Fin 2)]) % 2 ^ 32

/-- A directory written (R682): areas, STATE and SWITCHED. -/
def writeDir (d : Dir) (st : Nat) (switched : BitVec 3) (s : State) : State :=
  let d := { d with magicOk := true, rest := 0, seq := dirSeq s, upd := BitVec.ofNat 8 (st + 8 * switched.toNat) }
  { s with nv.flash.dir := modN s.nv.flash.dir (dirTarget s) (fun _ => d) }

/-- STATE and SWITCHED of a directory (R682). -/
def dirState (d : Dir) : Nat := d.upd.toNat % 8
def dirSwitched (d : Dir) : BitVec 3 := BitVec.ofNat 3 (d.upd.toNat / 8)

/-- The active area of a part. -/
def activeArea (d : Dir) (part : Nat) : Nat :=
  match part with
  | 0 => d.ronif
  | 1 => d.fw
  | _ => d.hw

/-- The areas of the parts of a mask exchanged. -/
def swapParts (m : BitVec 3) (d : Dir) : Dir :=
  { d with ronif := if m.getLsbD 0 then 1 - d.ronif else d.ronif, fw := if m.getLsbD 1 then 1 - d.fw else d.fw,
           hw := if m.getLsbD 2 then 1 - d.hw else d.hw }

/-! ## Banks (R673, R674) -/

/-- FMT_MIN and FMT_MAX of a bank. -/
def bankRange (bank : List Byte) : Nat × Nat := (areaLe bank 16 2, areaLe bank 18 2)

/-- CODE_LEN of a bank. -/
def bankLen (bank : List Byte) : Nat := areaLe bank 8 4

/-- The longest code of a part, 1 firmware or 2 heartwood (R674). -/
def maxCode (part : Nat) : Nat := if part = 1 then 4194048 else 393216

/-- The code of a bank, no more than its part may hold. -/
def bankCode (part : Nat) (bank : List Byte) : List Byte := areaBytes bank 256 (min (bankLen bank) (maxCode part))

/-- SIG verifies with Orlar's code key (R674): the signature that the key made, or another that verifies (log entry 8). -/
def codeKeyVerify (msg sig : List Byte) : Bool := sig == beN 96 (Config.codeSignature msg).toNat || Config.otherSignature msg sig

/-- A bank of a part, 1 firmware or 2 heartwood, is valid (R674). -/
def bankOk (part : Nat) (bank : List Byte) : Bool :=
  let h := areaBytes bank 0 256
  bytesAt h 0 4 == ascii "RBNK" && crcHolds h && leAt h 4 1 == part && leAt h 5 1 == 8 && leAt h 6 1 == 0
    && decide (bankLen bank ≤ maxCode part)
    && codeKeyVerify (bytesAt h 0 52) (bytesAt h 52 96) && sha256 (bankCode part bank) == bytesAt h 20 32

/-- FORMAT lies in the range of a bank. -/
def formatIn (f : Nat) (r : Nat × Nat) : Bool := decide (r.1 ≤ f) && decide (f ≤ r.2)

/-! ## The Ronif image (R132 to R137) -/

/-- A record: type, body, and for a safety record the first byte in which its two copies disagree (R134, R136). -/
abbrev ImgRec := Nat × List Byte × Option Nat

/-- The first offset at which the second copy is not the first inverted. -/
def firstDiff : Nat → List Byte → List Byte → Option Nat
  | _, [], _ => none
  | i, a :: as, bs =>
    match bs with
    | [] => some i
    | b :: bs => if a ^^^ b = 0xFF then firstDiff (i + 1) as bs else some i

/-- Bytes that a record with a body of l bytes takes (R134). -/
def imgRecSize (l : Nat) : Nat := 8 + 4 * ((l + 3) / 4)

/-- The records from here to the end record, which must end the bytes; none when step 5 of R137 fails. n bounds their
number. -/
def parseRecs : Nat → List Byte → Option (List ImgRec)
  | 0, _ => none
  | n + 1, bs =>
    let t := leAt bs 0 2
    let l := leAt bs 2 2
    let sz := imgRecSize l
    let one := bs.take sz
    if bs.length < sz ∨ 65520 < l ∨ !crcHolds one then none
    else if t % 4096 = 0xFFF then (if t = 0x1FFF ∧ l = 0 ∧ bs.length = sz then some [(t, [], none)] else none)
    else
      let body := bytesAt one 4 l
      if t / 4096 = 4 then
        (if bs.length < 2 * sz then none
         else (parseRecs n (bs.drop (2 * sz))).map (fun rs => (t, body, firstDiff 0 one ((bs.drop sz).take sz)) :: rs))
      else (parseRecs n (bs.drop sz)).map (fun rs => (t, body, none) :: rs)

/-- IMG_LEN and FORMAT of an image. -/
def imgLen (img : List Byte) : Nat := areaLe img 8 4
def imgFormat (img : List Byte) : Nat := areaLe img 4 2

/-- The records of an image, the end record among them (R134). -/
def imgRecords (img : List Byte) : Option (List ImgRec) :=
  let n := imgLen img
  parseRecs n (areaBytes img 64 (n - 96))

/-- Step 6 of R137: AUTH 1, ROOT names the root in use, and the tag verifies (R133). -/
def imgAuth (s : State) (img : List Byte) : Bool :=
  let n := imgLen img
  leAt (areaBytes img 0 64) 15 1 == 1 && leAt (areaBytes img 0 64) 14 1 == s.rootInUse &&
    match s.rootOf s.rootInUse with
    | some r => hmac (s.derive r .roniAuth) (areaBytes img 0 (n - 32)) == areaBytes img (n - 32) 32
    | none => false

/-- IMG_LEN lies in its range: step 4 of R137, without which the later steps have no image to read. -/
def imgLenOk (img : List Byte) : Bool := decide (104 ≤ imgLen img ∧ imgLen img ≤ 1048576)

/-- The steps of R137 that an image passes, in order; range gives step 3 its formats, none leaves the step out (R679). -/
def imgSteps (s : State) (range : Option (Nat × Nat)) (img : List Byte) : List (Nat × Bool) :=
  let h := areaBytes img 0 64
  [(1, bytesAt h 0 4 == ascii "RNF1" && leAt h 6 2 == 64 && crcHolds h), (2, leAt h 24 1 == 8 && leAt h 25 1 == 0)]
    ++ (match range with | some r => [(3, formatIn (imgFormat img) r)] | none => [])
    ++ [(4, imgLenOk img),
        (5, imgLenOk img && match imgRecords img with | some rs => rs.length == leAt h 12 2 | none => false),
        (6, imgLenOk img && imgAuth s img)]

/-- The first step that fails (R137). -/
def imgCheck (s : State) (range : Option (Nat × Nat)) (img : List Byte) : Option Nat :=
  ((imgSteps s range img).find? (fun e => !e.2)).map (·.1)

end Sys2Proof.Machine
end

