-- ==== Sys2Proof/Machine/Update.lean ====
section
/-! DEFINITION. The commands of the field update (R673 to R696). -/

namespace Sys2Proof.Machine

/-- Event 0x0F01 with a result and a step (R688, R689). -/
def updAnswer (h : CmdHdr) (r step : Nat) (s : State) : State := answer 0x0F01 255 h.tag (leN 1 r ++ leN 1 step) s

/-- STATE of UPD_STAT when no schedule and no trial stands (R687). -/
def restState (s : State) : Nat := if s.upd.stage.isSome then 1 else if s.upd.staged != 0 then 2 else 0

/-- UPD_BEGIN, UPD_CHUNK and UPD_END are busy while scheduled, draining or on trial (R691). -/
def updBusy (s : State) : Bool := s.upd.state == 3 || s.upd.state == 4 || s.upd.state == 5

/-- The directory in force. -/
def dirNow (s : State) : Dir := (chooseDir s).1

/-- The active and the inactive area of a part (R127). -/
def activeNo (s : State) (part : Nat) : Nat := activeArea (dirNow s) part
def inactiveNo (s : State) (part : Nat) : Nat := 1 - activeNo s part

/-! ## Staging (R675 to R679) -/

/-- Fields of an update header (R675). -/
def hdrPart (h : List Byte) : Nat := leAt h 4 1
def hdrImgLen (h : List Byte) : Nat := leAt h 8 4
def hdrTargetLen (h : List Byte) : Nat := leAt h 12 4
def hdrSourceLen (h : List Byte) : Nat := leAt h 48 4
def hdrVersion (h : List Byte) : Nat := leAt h 84 4

/-- Step 5 of R677. -/
def versionOk (s : State) (h : List Byte) : Bool :=
  if s.lifecycle = lcDeployed ∨ s.lifecycle = lcService then
    let a := areaOf s (hdrPart h) (activeNo s (hdrPart h))
    if hdrPart h = 0 then decide (areaLe a 16 4 < hdrVersion h) else decide (areaLe a 12 4 ≤ hdrVersion h)
  else true

/-- The steps of R677 that a header passes, in order. -/
def hdrSteps (s : State) (h : List Byte) : List (Nat × Bool) :=
  let size := areaSize (hdrPart h)
  let full := leAt h 7 1 == 0
  [(1, bytesAt h 0 4 == ascii "RUPD" && decide (hdrPart h < 3) && decide (leAt h 7 1 < 2) && decide (132 ≤ hdrImgLen h)
      && decide (hdrTargetLen h ≤ size) && decide (hdrSourceLen h ≤ size) && (full || decide (1 ≤ hdrSourceLen h))),
   (2, leAt h 5 1 == 8 && leAt h 6 1 == 0),
   (3, leAt h 88 1 == s.rootInUse && (match s.rootOf s.rootInUse with
      | some r => hmac (s.derive r .updateAuth) (bytesAt h 0 96) == bytesAt h 96 32
      | none => false)),
   (4, full || sha256 (areaBytes (areaOf s (hdrPart h) (activeNo s (hdrPart h))) 0 (hdrSourceLen h)) == bytesAt h 16 32),
   (5, versionOk s h)]

/-- The open staging ended with its cause (R690, R691). -/
def dropStage (cause : Nat) (s : State) : State :=
  match s.upd.stage with
  | some g => emit 0x0F07 255 (leN 1 g.part ++ leN 1 cause) { s with upd.stage := none }
  | none => s

/-- A staged part discarded because its area is taken anew (R690). -/
def dropStaged (part : Nat) (s : State) : State :=
  if s.upd.staged.getLsbD part then
    emit 0x0F07 255 (leN 1 part ++ leN 1 1) { s with upd.staged := s.upd.staged &&& ~~~BitVec.ofNat 3 (1 <<< part) }
  else s

/-- UPD_BEGIN (R677, R690, R691). -/
def execUpdBegin (h : CmdHdr) (header : List Byte) (s : State) : Res :=
  if updBusy s then .next (updAnswer h 5 0 s)
  else
    let hd := padTo 128 header
    let s := dropStage 1 s
    match (hdrSteps s hd).find? (fun e => !e.2) with
    | some e => .next (updAnswer h 1 e.1 { s with upd.state := if s.upd.state = 6 then 6 else restState s })
    | none =>
      let part := hdrPart hd
      let s := putArea part (inactiveNo s part) [] (dropStaged part s)
      .next (updAnswer h 0 0 { s with upd.stage := some { part := part, header := hd, received := 128 }, upd.state := 1 })

/-- The operation at the front of the bytes received (R676): none when it is in error or not whole yet; some true for an
error. -/
def takeOp (source : List Byte) (g : Staging) : Staging × Option Bool :=
  let h := g.header
  let n := leAt g.op 1 3
  let fits := decide (1 ≤ n) && decide (g.built.length + n ≤ hdrTargetLen h)
  let put := fun (sz : Nat) (bs : List Byte) => ({ g with op := g.op.drop sz, built := g.built ++ bs }, none)
  if g.op.length < 4 then (g, some false)
  else if g.ended then (g, some true)
  else match leAt g.op 0 1 with
    | 0 =>
      if n = 0 ∧ g.op.length = 4 ∧ g.received = hdrImgLen h ∧ g.built.length = hdrTargetLen h then
        ({ g with op := [], ended := true }, none)
      else (g, some true)
    | 1 =>
      let o := leAt g.op 4 4
      if !fits then (g, some true)
      else if g.op.length < 8 then (g, some false)
      else if leAt h 7 1 = 0 ∨ hdrSourceLen h < o + n then (g, some true)
      else put 8 (areaBytes source o n)
    | 2 =>
      let sz := 4 + (n + 3) / 4 * 4
      if !fits then (g, some true) else if g.op.length < sz then (g, some false) else put sz (bytesAt g.op 4 n)
    | 3 =>
      if !fits then (g, some true) else if g.op.length < 8 then (g, some false)
      else put 8 (List.replicate n (byteAt g.op 4))
    | _ => (g, some true)

/-- Every operation that has arrived whole; k bounds their number. True when the body is in error. -/
def takeOps (source : List Byte) : Nat → Staging → Staging × Bool
  | 0, g => (g, false)
  | k + 1, g =>
    match takeOp source g with
    | (g, some e) => (g, e)
    | (g, none) => takeOps source k g

/-- UPD_CHUNK (R678, R676): len bytes of the bulk window at image offset off. -/
def execUpdChunk (h : CmdHdr) (off len : Nat) (s : State) : Res :=
  if updBusy s || bulkHeld s then .next (updAnswer h 5 0 s)
  else match s.upd.stage with
    | none => .next (updAnswer h 2 0 (bulkIn 0x8F02 s))
    | some g =>
      if len = 0 ∨ 262144 < len ∨ off ≠ g.received ∨ hdrImgLen g.header < off + len then
        .next (updAnswer h 4 0 (bulkIn 0x8F02 s))
      else
        let g := { g with received := off + len, op := g.op ++ bulkBytes s 0 len }
        let (g, bad) := takeOps (areaOf s g.part (activeNo s g.part)) (g.op.length + 1) g
        let s := bulkIn 0x8F02 s
        if bad ∨ (g.received = hdrImgLen g.header ∧ !g.ended) then
          let s := { s with upd.stage := none }
          .next (updAnswer h 3 0 { s with upd.state := restState s })
        else .next (updAnswer h 0 0 (putArea g.part (inactiveNo s g.part) g.built { s with upd.stage := some g }))

/-- The target of a staging passes the checks of R679. -/
def targetGood (s : State) (g : Staging) : Bool :=
  let area := areaOf s g.part (inactiveNo s g.part)
  let bs := areaBytes area 0 (hdrTargetLen g.header)
  g.ended && sha256 bs == bytesAt g.header 52 32 &&
    (if g.part = 0 then (imgCheck s none bs).isNone else bankOk g.part bs && areaLe bs 12 4 == hdrVersion g.header)

/-- UPD_END (R679): the part is staged, or the check failed. -/
def execUpdEnd (h : CmdHdr) (s : State) : Res :=
  if updBusy s then .next (updAnswer h 5 0 s)
  else match s.upd.stage with
    | none => .next (updAnswer h 2 0 s)
    | some g =>
      let good := targetGood s g
      let area := areaOf s g.part (inactiveNo s g.part)
      let s := { s with upd.stage := none }
      if !good then .next (updAnswer h 6 0 { s with upd.state := restState s })
      else
        let s := { s with upd.staged := s.upd.staged ||| BitVec.ofNat 3 (1 <<< g.part), upd.state := 2,
                          upd.stagedFmt := if g.part = 0 then imgFormat area else s.upd.stagedFmt,
                          upd.stagedRange := if g.part = 1 then bankRange area else s.upd.stagedRange }
        .next (updAnswer h 0 0 (emit 0x0F02 255 (leN 1 g.part ++ leN 4 (hdrVersion g.header) ++ bytesAt g.header 52 8) s))

/-! ## Schedule and activation (R680, R681, R692) -/

/-- The image that would be active has a FORMAT that the bank that would be active accepts (R680). -/
def pairAccepted (s : State) : Bool :=
  let fmt := if s.upd.staged.getLsbD 0 then s.upd.stagedFmt else imgFormat (areaOf s 0 (activeNo s 0))
  let range := if s.upd.staged.getLsbD 1 then s.upd.stagedRange else bankRange (areaOf s 1 (activeNo s 1))
  formatIn fmt range

/-- UPD_SCHEDULE (R680). -/
def execUpdSchedule (h : CmdHdr) (mode value : Nat) (s : State) : Res :=
  if s.upd.staged = 0 ∨ s.upd.state = 4 then .next (updAnswer h 2 0 s)
  else if 2 < mode then .next (updAnswer h 4 0 s)
  else if !pairAccepted s then .next (updAnswer h 6 0 s)
  else .next (updAnswer h 0 0 { s with upd.mode := mode, upd.when := value, upd.state := 3 })

/-- The condition of a schedule holds (R680, R695). -/
def conditionHolds (s : State) : Bool :=
  match s.upd.mode with
  | 0 => true
  | 1 => s.timeKnown && decide (s.upd.when ≤ s.now)
  | _ => s.canopy.turnKnown && atOrAbove s.canopy.turn.toNat s.upd.when

/-- The session of bough b lies in one of the states that draining waits for (R681). -/
def energised (s : State) (b : Bough) : Bool :=
  match s.ses[b].state with
  | .energising | .charging | .suspended | .stopping => true
  | _ => false

/-- ACTIVATION_CONDITION (R681 steps 1 and 2). -/
def execActivationCondition (s : State) : Res :=
  if s.upd.state ≠ 3 ∨ !conditionHolds s then .next s
  else
    let s := emit 0x0F03 255 (leN 1 s.upd.staged.toNat ++ leN 1 s.upd.mode ++ leN 4 s.upd.when)
      { s with upd.state := 4, upd.endAt := s.lat.optime + minuteTicks * fld s.updCfg 7 0 }
    .next (forBoughs (fun b t =>
      if energised t b then t.onSesL b (fun l => { l with held := true })
      else holdSession b 1 (t.onSaf b (fun f => { f with holdUpd := true }))) s)

/-- Records that wait reach the flash in the millisecond before an ordered reset (log entry 125). -/
def orderedReset (s : State) : State := deviceReset (flushQueue s)

/-- DRAIN_END (R681 steps 3 to 6, R682): every bough is held. -/
def execDrainEnd (s : State) : Res :=
  if s.upd.state ≠ 4 ∨ !allBoughs.all (heldOut s) then .next s
  else
    let m := s.upd.staged
    let s := if m.getLsbD 2 then writeSave 4 s else s
    let s := writeDir (swapParts m (dirNow s)) 1 m s
    .next (orderedReset (emit 0x0F04 255 (leN 1 m.toNat ++ leN 4 (dirNow s).seq) s))

/-- The schedule dropped (R681, R691). -/
def dropSchedule (s : State) : State :=
  let draining := s.upd.state == 4
  let s := { s with upd.mode := 0, upd.when := 0, upd.endAt := 0, upd.state := restState s }
  if draining then releaseDrain s else s

/-- DRAIN_TIMEOUT (R681): WAIT_MAX has passed. -/
def execDrainTimeout (s : State) : Res :=
  if s.upd.state ≠ 4 then .next s
  else
    let busy := maskOf (fun b => !heldOut s b)
    .next (emit 0x0F09 255 (leN 1 busy) (dropSchedule s))

/-! ## Confirmation and fall-back (R683, R684) -/

/-- The window is open: a trial that has reached P7. -/
def windowOpen (s : State) : Bool := s.upd.state == 5 && s.ready

/-- The update confirmed, 0 by the host or 1 by the device itself (R684). -/
def confirmUpdate (how : Nat) (s : State) : State :=
  let m := s.upd.switched
  let s := writeDir (dirNow s) 0 0 s
  let s := { s with upd.switched := 0, upd.endAt := 0, start.trial := false, upd.state := restState s }
  emit 0x0F05 255 (leN 1 m.toNat ++ leN 1 how) s

/-- The old parts made active again: directory with STATE 3, event 0x0F06 (R683). -/
def fallBack (m : BitVec 3) (cause : Nat) (s : State) : State :=
  let s := writeDir (swapParts m (dirNow s)) 3 0 s
  emit 0x0F06 255 (leN 1 m.toNat ++ leN 1 cause) { s with upd.switched := 0, start.trial := false, upd.state := 6 }

/-- UPD_CONFIRM (R684). -/
def execUpdConfirm (h : CmdHdr) (s : State) : Res :=
  if windowOpen s then .next (updAnswer h 0 0 (confirmUpdate 0 s)) else .next (updAnswer h 2 0 s)

/-- UPD_ABORT (R684, R691): on trial the device falls back at once; otherwise the schedule and an open staging end. -/
def execUpdAbort (h : CmdHdr) (s : State) : Res :=
  if windowOpen s then .next (orderedReset (updAnswer h 0 0 (fallBack s.upd.switched 4 s)))
  else
    let s := dropStage 2 s
    .next (updAnswer h 0 0 (if s.upd.state = 6 then s else dropSchedule s))

/-- CONFIRMATION_WINDOW_END (R684). -/
def execConfirmationWindowEnd (s : State) : Res :=
  if !windowOpen s then .next s
  else if bitOf s.updCfg 31 then .next (confirmUpdate 1 s)
  else .next (deviceReset (writeDir (dirNow s) 4 s.upd.switched s))

end Sys2Proof.Machine
end

