-- ==== Sys2Proof/Machine/Rules.lean ====
section
/-! DEFINITION. The checks of a snapshot (R144): ranges (reason 4), refusals by the owning block (reason 3), the inverse
half of the safety page (reason 2) and the consistency rules of the chapters (reason 1). -/

namespace Sys2Proof.Machine

/-! ## Ranges (reason 4) -/

/-- x lies between lo and hi. -/
def within (lo hi x : Nat) : Bool := decide (lo ≤ x) && decide (x ≤ hi)

/-- x lies between lo and hi, for a signed value. -/
def withinI (lo hi x : Int) : Bool := decide (lo ≤ x) && decide (x ≤ hi)

/-- Ranges of the safety registers (R280 to R287). -/
def safRangeOk (o : Nat) (w : BitVec 32) : Bool :=
  if o = 0x400 then within 5 200 (fld w 7 0)
  else match o % 0x40 with
    | 0x00 => within 10 300 (fld w 8 0)
    | 0x04 => within 10 250 (fld w 31 24) && within 20 100 (fld w 23 16) && within 20 250 (fld w 15 8) && within 5 200 (fld w 7 0)
    | 0x08 => (fld w 31 16 == 0 || within 50 1500 (fld w 31 16)) && within 0 1650 (fld w 15 0)
    | 0x0C => within 100 1000 (fld w 31 16) && within 100 1000 (fld w 15 0)
    | 0x10 => within 50 900 (fld w 25 16) && within 5 100 (fld w 15 8)
    | _ => within 47 4700 (fld w 31 16) && within 47 4700 (fld w 15 0)

/-- Ranges of the sampling registers (R330 to R335). -/
def mtrRangeOk (o : Nat) (w : BitVec 32) : Bool :=
  if o < 0xC00 then
    match o % 0x10 with
    | 0x0 => within 0x200000 0x600000 (fld w 23 0)
    | 0x4 => withinI (-262144) 262143 (toInt 24 (fld w 23 0))
    | 0x8 => within 0 5 (fld w 31 29)
    | _ => true
  else if o = 0xC40 then within 1 10 (fld w 15 8) && within 2 50 (fld w 7 0)
  else within 100 20000 (fld w 15 0)

/-- The fields of the settings register at offset a lie in the ranges of its chapter; a value for which the chapter says
how it acts is in range. -/
def rangeOk (a : Nat) (w : BitVec 32) : Bool :=
  let o := a % 0x1000
  match a / 0x1000 with
  | 0x2 =>
    if o = 0x400 then within 3 30 (fld w 15 8) && within 3 30 (fld w 7 0)
    else match o % 0x40 with
      | 4 => fld w 31 30 != 3
      | 8 => decide (fld w 1 0 < 2)
      | _ => true
  | 0x3 =>
    if o < 0x100 then true
    else if o % 0x40 = 0 then within 100 500 (fld w 17 8) && within 10 100 (fld w 7 0)
    else true
  | 0x4 => safRangeOk o w
  | 0x5 => mtrRangeOk o w
  | 0x6 =>
    if o = 0x400 then within 5 50 (fld w 15 8) && within 1 60 (fld w 7 0)
    else (fld w 30 29 == 1 || fld w 30 29 == 3) && within 0 999999 (fld w 19 0)
  | 0x7 => within 0 4 (fld w 30 28) && fld w 27 26 != 3
  | 0x8 =>
    if o = 0x100 then fld w 31 30 != 3 && within 10 10000 (fld w 13 0)
    else if o = 0x104 then true
    else within 0 100 (fld w 20 14) && within 0 22 (fld w 4 0)
  | 0x9 =>
    if o = 0 then within 0 20 (fld w 27 23) && within 32 128 (fld w 22 15) && within 0 1000 (fld w 9 0)
    else within 5 60 (fld w 13 8) && within 10 255 (fld w 7 0)
  | 0xA => match o with
    | 0 => withinI (-40) 12 (toInt 8 (fld w 23 16)) && within 0 20000 (fld w 15 0)
    | 4 => within 20 80 (fld w 23 16) && within 20 100 (fld w 15 8) && within 1 48 (fld w 7 0)
    | 8 => within 1 250 (fld w 15 8) && within 2 255 (fld w 7 0)
    | _ => true
  | 0xB => fld w 29 28 != 3
  | 0xD => match o with
    | 0 => within 1 1440 (fld w 10 0)
    | 4 => within 10 1000 (fld w 25 16) && within 1 255 (fld w 7 0)
    | _ => true
  | 0xE => if o = 0 then within 0 240 (fld w 23 16) && within 1 240 (fld w 7 0) else true
  | 0xF => within 1 240 (fld w 15 8) && within 1 255 (fld w 7 0)
  | _ => true

/-- The offsets of the settings registers of subsystem sub, value half. -/
def pageRegs (sub : Nat) : List Nat :=
  ((List.range 1024).map (fun i => sub * 0x1000 + 4 * i)).filter (fun a => (pageInfo a).isSome)

/-! ## What counts as applied (R144) -/

/-- A register as it counts for the rules of other subsystems: of the snapshot from the moment it passes, otherwise the
value in force (R144). -/
def effWord (s : State) (a : Nat) : BitVec 32 :=
  if s.host.passed.getLsbD (a / 0x1000) then snapWord s a else s.cfg a

/-! ## Consistency (reason 1) -/

/-- A bough's IMD_EN and BRIDGE_CH under a reading of the settings. -/
def bridgeOf (g : Nat → BitVec 32) (b : Bough) : Option Nat :=
  let w := g (0x4000 + 0x40 * b.val)
  if bitOf w 27 then some (fld w 20 16) else none

/-- OWNER 1, 2 or 3 of a load channel under a reading of the settings. -/
def ownedBy (g : Nat → BitVec 32) (c : Nat) : Bool := decide (0 < fld (g (0x8000 + 4 * c)) 31 30)

/-- The rules of R280, R283 and R284 for one bough's registers in a snapshot. -/
def safBoughOk (s : State) (g : Nat → BitVec 32) (b : Bough) : Bool :=
  let w := g (0x4000 + 0x40 * b.val)
  let dc := g (0x4008 + 0x40 * b.val)
  let imd := g (0x400C + 0x40 * b.val)
  fld w 26 24 != 0 && !(bitOf w 30 && !bitOf w 26) && !(bitOf w 27 && !bitOf w 31)
    && !(decide (fld dc 15 0 < fld dc 31 16)) && !(bitOf w 31 && fld dc 31 16 == 0)
    && !(decide (fld imd 15 0 < fld imd 31 16))
    && match bridgeOf g b with
       | none => true
       | some c => !ownedBy (effWord s) c
           && allBoughs.all (fun x => x == b || (bridgeOf g x != some c && bridgeOf s.cfg x != some c))

/-- The consistency rules of a subsystem's chapter over a snapshot g (reason 1 of R144). -/
def consistent (s : State) (sub : Nat) (g : Nat → BitVec 32) : Bool :=
  match sub with
  | 0x2 => allBoughs.all (fun b =>
      let w := g (0x2000 + 0x40 * b.val)
      !(bitOf w 31 && !bitOf w 30 && !bitOf w 29) && !(bitOf w 28 && bitOf w 29))
  | 0x3 => allBoughs.all (fun b =>
      let w := g (0x3104 + 0x40 * b.val)
      decide (fld w 31 16 ≤ fld w 15 0))
  | 0x4 => allBoughs.all (safBoughOk s g)
  | 0x5 => (List.range 192).all (fun c =>
      !([7, 8, 11, 12, 13, 14, 21].contains (c % 24) && g (0x500C + 0x10 * c) == 0 && s.mtrFs c != 0))
  | 0x8 =>
    decide (((List.range 32).filter (fun c => fld (g (0x8000 + 4 * c)) 31 30 == 2)).length ≤ 1)
      && (List.finRange 32).all (fun c =>
           !(ownedBy g c.val && (s.aux[c].bridge || allBoughs.any (fun b => bridgeOf (effWord s) b == some c.val))))
      && !(fld (g 0x8100) 31 30 == 2 && g 0x8104 == 0)
  | 0x9 => !(bitOf (g 0x9000) 30 && decide (fld (g 0x9004) 7 0 < fld (g 0x9004) 13 8))
  | 0xA => decide (768 ≤ usableCarriers (fun i => g (0xA100 + 4 * i))) && decide (fld (g 0xA008) 15 8 < fld (g 0xA008) 7 0)
  | _ => true

/-! ## Refusals (reason 3) -/

/-- Local channels that carry legally relevant metering (R315). -/
def legalChannel (c : Nat) : Bool := c % 24 ≤ 6 || c % 24 == 8 || c % 24 == 9

/-- A snapshot changes a trim field of global channel c (R315). -/
def trimChanged (s : State) (g : Nat → BitVec 32) (c : Nat) : Bool :=
  [0, 4, 8, 12].any (fun o => g (0x5000 + 0x10 * c + o) != s.cfg (0x5000 + 0x10 * c + o))

/-- The owning block refuses a field (reason 3 of R144: R315, R359, R582). -/
def refused (s : State) (sub : Nat) (g : Nat → BitVec 32) : Bool :=
  match sub with
  | 0x5 => s.lifecycle == lcDeployed && (List.range 192).any (fun c => legalChannel c && trimChanged s g c)
  | 0x6 => s.lifecycle == lcDeployed && allBoughs.any (fun b => g (0x6000 + 0x40 * b.val) != s.nrgBoughCfg b)
  | 0xC => (s.lifecycle == lcDeployed || s.lifecycle == lcService) && (s.keyTamperCfg &&& ~~~(g 0xC000)) != 0
  | _ => false

/-! ## Value and inverse (reason 2) -/

/-- Every bit of a defined field of the register at a agrees with its inverse (R142). -/
def inverseOk (a : Nat) (m : List Host.Cell) : Bool :=
  match pageInfo a with
  | some (_, mask) => (pageWord m a ^^^ pageWord m (a + 0x800)) &&& BitVec.ofNat 32 mask == BitVec.ofNat 32 mask
  | none => true

/-! ## The check of a snapshot (R144) -/

/-- The reasons for which a snapshot is rejected. -/
def snapReasons (s : State) (sub : Nat) (m : List Host.Cell) : List Nat :=
  let g := pageWord m
  let regs := pageRegs sub
  (if sub = 4 ∧ !regs.all (fun a => isInverse a || inverseOk a m) then [2] else [])
    ++ (if regs.all (fun a => rangeOk a (g a)) then [] else [4])
    ++ (if refused s sub g then [3] else [])
    ++ (if consistent s sub g then [] else [1])

/-- The reason for which the waiting snapshot of a subsystem is rejected, if any. -/
def snapVerdict (s : State) (sub : Nat) : Option Nat :=
  match snapOf s sub with
  | some m => firstReason (snapReasons s sub m)
  | none => none

end Sys2Proof.Machine
end

