-- ==== Sys2Proof/Machine/Commits.lean ====
section
/-! DEFINITION. The commands of the commit path: COMMIT_ACCEPT, COMMIT_APPLY and COMMIT_BOUGH_APPLY (R143 to R146,
R153 to R158). -/

namespace Sys2Proof.Machine

/-! ## Acceptance (R143, R154) -/

/-- Subsystems whose fields apply bough by bough (R145). -/
def perBough (sub : Nat) : Bool := within 2 6 sub

/-- Snapshot of one shadow page taken, an earlier one replaced (R143, R154). -/
def acceptOne (sub : Nat) (s : State) : State :=
  let again := commitPending s sub
  let snap := s.host.shadow.filter (fun c => c.1 / 0x1000 == sub)
  let all := fun (n : Nat) (v : BitVec 8) => if sub = n then 0xFF else v
  { s with
    host.snaps := s.host.snaps.filter (fun e => e.1 != sub) ++ [(sub, snap)],
    host.pendingC := s.host.pendingC ||| subBit sub,
    host.passed := s.host.passed &&& ~~~subBit sub,
    host.devLeft := s.host.devLeft ||| subBit sub,
    host.vehLeft := all 2 s.host.vehLeft, host.sesLeft := all 3 s.host.sesLeft, host.safLeft := all 4 s.host.safLeft,
    host.mtrLeft := all 5 s.host.mtrLeft, host.nrgLeft := all 6 s.host.nrgLeft,
    host.superseded := if again then min 255 (s.host.superseded + 1) else s.host.superseded }

/-- A write to HST_COMMIT: the requested commits accepted; ignored before the end of P3 (R140, R143, R722). -/
def acceptCommits (req : BitVec 16) (s : State) : State :=
  if s.open3 then (List.range 16).foldl (fun t i => if req.getLsbD i then acceptOne i t else t) s else s

/-- COMMIT_ACCEPT (R143). -/
def execCommitAccept (req : BitVec 16) (s : State) : Res := .next (acceptCommits req s)

/-! ## Completion (R144, R145) -/

/-- Boughs that have not applied the commit of subsystem sub. -/
def leftMask (s : State) (sub : Nat) : BitVec 8 :=
  match sub with
  | 2 => s.host.vehLeft
  | 3 => s.host.sesLeft
  | 4 => s.host.safLeft
  | 5 => s.host.mtrLeft
  | 6 => s.host.nrgLeft
  | _ => 0

/-- The mask of boughs left of subsystem sub changed. -/
def setLeft (sub : Nat) (m : BitVec 8) (s : State) : State :=
  match sub with
  | 2 => { s with host.vehLeft := m }
  | 3 => { s with host.sesLeft := m }
  | 4 => { s with host.safLeft := m }
  | 5 => { s with host.mtrLeft := m }
  | 6 => { s with host.nrgLeft := m }
  | _ => s

/-- The commit rejected whole for every bough (R144). -/
def rejectAll (sub reason : Nat) (s : State) : State :=
  rejectCommit sub reason (setLeft sub 0 s)

/-- The commit is complete once the device-wide fields and every bough have applied (R145). -/
def completeIfDone (sub : Nat) (s : State) : State :=
  if s.host.devLeft.getLsbD sub || leftMask s sub != 0 then s else finishCommit sub false s

/-- The snapshot passes its check, made once, or the commit is rejected (R144): act applies the part that is due. -/
def checked (sub : Nat) (act : State → State) (s : State) : State :=
  if s.host.passed.getLsbD sub then act s
  else match snapVerdict s sub with
    | some r => rejectAll sub r s
    | none => act { s with host.passed := s.host.passed ||| subBit sub }

/-! ## What a bough's fields are -/

/-- The bough that a settings register belongs to; none for a device-wide one (R145). -/
def boughOf (a : Nat) : Option Nat :=
  let o := a % 0x1000
  match a / 0x1000 with
  | 2 => if o < 0x200 then some (o / 0x40) else none
  | 3 => if 0x100 ≤ o ∧ o < 0x300 then some ((o - 0x100) / 0x40) else none
  | 4 => if o % 0x800 < 0x200 then some (o % 0x800 / 0x40) else none
  | 5 => if o < 0xC00 then some (o / 0x180) else if o < 0xC20 then some ((o - 0xC00) / 4) else none
  | 6 => if o < 0x200 then some (o / 0x40) else none
  | _ => none

/-- Settings of bough b of subsystem sub. -/
def ofBough (sub : Nat) (b : Bough) (a : Nat) : Bool := a / 0x1000 == sub && boughOf a == some b.val

/-- Device-wide settings of subsystem sub. -/
def ofDevice (sub : Nat) (a : Nat) : Bool := a / 0x1000 == sub && boughOf a == none

/-! ## Boundaries (R145) -/

/-- A request of a vehicle stands between steps 4 and 10 of R183. -/
def matching (s : State) : Bool :=
  s.assoc.reqs.any (fun r => r.heardNow) || allBoughs.any (fun b => s.ports[b].slac == 2 || s.ports[b].slac == 3)

/-- No session runs at bough b. -/
def noSession (s : State) (b : Bough) : Bool :=
  match s.ses[b].state with
  | .idle | .finished | .faulted => true
  | _ => false

/-- The state that the boundary of the device-wide fields asks for; the instant itself is the sender's (R145, R199,
R287). -/
def deviceBoundary (s : State) (sub : Nat) : Bool :=
  match sub with
  | 0x2 => !matching s
  | 0x4 => allBoughs.all (fun b => !coilsClosed s b)
  | 0x7 => !s.timeKnown
  | 0xB => s.tag.owner != 1
  | 0xD => !s.host.bistRunning
  | _ => true

/-- The state that the boundary of bough b asks for (R145, R212, R158). -/
def boughBoundary (s : State) (sub : Nat) (b : Bough) : Bool :=
  match sub with
  | 2 => s.ports[b].state == .A || s.ports[b].state == .F || noSession s b
  | 3 => noSession s b
  | 4 => !coilsClosed s b
  | _ => true

/-! ## Device-wide fields -/

/-- What follows the device-wide fields of a subsystem. old holds the values before. -/
def afterDevice (sub : Nat) (old s : State) : State :=
  match sub with
  | 0x1 =>
    if !bitOf s.sysPaceAlarm 31 then { s with trunk.paceLow := false, trunk.paceOk := 0 }
    else if alarmLevel old = alarmLevel s then s
    else { s with trunk.paceOk := 0 }
  | 0x6 => if fld old.nrgDevCfg 7 0 = fld s.nrgDevCfg 7 0 then s else writeSave 0 s
  | 0x8 =>
    let s := { s with auxDev.isel := senseChannel s s.auxDev.isel }
    auxAll (allChannels.foldl (fun t c =>
      if auxOwner old c = auxOwner t c ∨ t.aux[c].bridge then t
      else t.onAux c (fun a => { a with on := false, outDuty := 0, duty := 0, inrush := false, atLimit := false,
                                        current := 0 })) s)
  | 0x9 =>
    if bitOf old.lcdCfg 31 && !bitOf s.lcdCfg 31 then orderStop 1 s
    else if bitOf s.lcdCfg 31 then auxAll (if bitOf old.lcdCfg 31 then s else startDisplay s)
    else s
  | 0xA =>
    if bitOf old.cnpCfg 31 && !bitOf s.cnpCfg 31 then cnpOff s
    else if !bitOf old.cnpCfg 31 && cnpMayRun s then cnpListen 1 s
    else s
  | 0xB => if old.tagCfg &&& 0xF00000FF = s.tagCfg &&& 0xF00000FF then s else refreshIdentity s
  | 0xC => { s with bak.tamperCfg := s.keyTamperCfg }
  | 0xE => if s.log.logOn && fld old.logCfg 7 0 != fld s.logCfg 7 0 then endWindow s else s
  | _ => s

/-- The device-wide fields of a snapshot that has passed apply (R144). -/
def applyDevice (sub : Nat) (s : State) : State :=
  let t := afterDevice sub s (applySnap sub (ofDevice sub) s)
  completeIfDone sub { t with host.devLeft := t.host.devLeft &&& ~~~subBit sub }

/-- COMMIT_APPLY (R144, R145): the boundary of a subsystem, or of its device-wide fields. Before P7 nothing applies
(R146). -/
def execCommitApply (sub : Fin 16) (s : State) : Res :=
  if !s.ready || !commitPending s sub.val || !s.host.devLeft.getLsbD sub.val || !deviceBoundary s sub.val then .next s
  else if sub.val = 7 then .next (applyBilCommit s)
  else .next (checked sub.val (applyDevice sub.val) s)

/-! ## A bough's fields -/

/-- Channels with an S path (R307). -/
def sideChannel (n : Nat) : Bool := [7, 8, 11, 12, 13, 14, 19, 20, 21].contains n

/-- A bough's settings taken from the snapshot; PGA of a side-path channel waits while a coil of the bough is closed
(R316). The second result says whether one waits. -/
def takeTrims (b : Bough) (s : State) : Bool × State :=
  let shut := coilsClosed s b
  let waits := fun (n : Nat) =>
    let c := 24 * b.val + n
    shut && sideChannel n && fld (snapWord s (0x5008 + 0x10 * c)) 31 29 != fld (s.mtrShape c) 31 29
  let held := (List.range 24).filter waits
  let t := applySnap 5 (ofBough 5 b) s
  let t := held.foldl (fun t n =>
    let c := 24 * b.val + n
    let w := (s.mtrShape c &&& 0xE0000000) ||| (t.mtrShape c &&& 0x1FFFFFFF)
    { t with host.applied := pagePuts t.host.applied (0x5008 + 0x10 * c) (leN 4 w.toNat) }) t
  (!held.isEmpty, t)

/-- Local channels of bough b whose trims differ between two states. -/
def trimsMoved (b : Bough) (old new : State) : List Nat :=
  (List.range 24).filter (fun n => trimChanged old (fun a => new.cfg a) (24 * b.val + n))

/-- A new PGA of channel n: 24 M samples and 3 S samples carry SET, k0 is learned anew, a fit onto it begins again (R316,
R320, R341). -/
def newPga (b : Bough) (n : Nat) (s : State) : State :=
  s.onMtr b (fun m =>
    let m := { m with ch := modN m.ch n (fun c =>
      { c with settle := 24, settleS := if sideChannel n then 3 else c.settleS, k0 := none }) }
    if m.rsvState = 1 ∧ m.rsvIn = n then { m with fitOn := false, fitBlocks := 0, fitPassed := 0, fitCur := {}, fitTot := {} } else m)

/-- The sampling settings of bough b apply: event 0x0508, the legally relevant changes with their save entry before
(R315, R316, R364, R390). -/
def applyTrims (b : Bough) (s : State) : Bool × State :=
  let moved := trimsMoved b s (takeTrims b s).2
  let legal := moved.filter legalChannel
  let s := if legal.isEmpty then s else writeSave 4 s
  let (waits, t) := takeTrims b s
  let pga := moved.filter (fun n => fld (s.mtrShape (24 * b.val + n)) 31 29 != fld (t.mtrShape (24 * b.val + n)) 31 29)
  let t := pga.foldl (fun t n => newPga b n t) t
  let t := if moved.isEmpty then t else
    emit 0x0508 b.val (leN 3 (moved.foldl (fun m n => m + 2 ^ n) 0)) t
  (waits, legal.foldl (fun t n => lrChange 1 b.val n [] t) t)

/-- The energy settings of bough b apply (R359, R364, R386). -/
def applyLegalEnergy (b : Bough) (s : State) : State :=
  let old := s.nrgBoughCfg b
  let new := snapWord s (0x6000 + 0x40 * b.val)
  if old = new then applySnap 6 (ofBough 6 b) s
  else
    let s := writeSave 4 s
    let s := if bitOf old 31 = bitOf new 31 then s else gridLost b 4 s
    let s := applySnap 6 (ofBough 6 b) s
    let s := if fld old 19 0 = fld new 19 0 then s else emit 0x0609 b.val (leN 3 (fld old 19 0) ++ leN 3 (fld new 19 0)) s
    lrChange 2 b.val 255 [] s

/-- The fields of bough b of a snapshot that has passed apply; a bough with a PGA that waits stays pending (R144,
R145). -/
def applyBough (sub : Nat) (b : Bough) (s : State) : State :=
  let take := applySnap sub (ofBough sub b)
  let (waits, t) := match sub with
    | 2 =>
      let t := withRequest b take s
      (false, if [5, 6, 7].contains t.ports[b].ppCode then takeRating b t.ports[b].ppCode t else t)
    | 4 => (false, takeBridges (withRequest b take s))
    | 5 =>
      let (w, t) := applyTrims b s
      (w, withRequest b id t)
    | 6 => (false, withRequest b (applyLegalEnergy b) s)
    | _ => (false, withRequest b take s)
  if waits then t
  else completeIfDone sub (setLeft sub (leftMask t sub &&& ~~~BitVec.ofNat 8 (1 <<< b.val)) t)

/-- COMMIT_BOUGH_APPLY (R145): the boundary of bough b of a subsystem that applies bough by bough. -/
def execCommitBoughApply (sub : Fin 16) (b : Bough) (s : State) : Res :=
  if !s.ready || !commitPending s sub.val || !(leftMask s sub.val).getLsbD b.val || !boughBoundary s sub.val b then .next s
  else .next (checked sub.val (applyBough sub.val b) s)

end Sys2Proof.Machine
end

