-- ==== Sys2Proof/Machine/Operands.lean ====
section
/-! DEFINITION. The host's commands as messages: header, type catalogue and bodies (R234, R291, R339, R432, R525, R605,
R664, R688, R705, R709 to R711, R727, R729). -/

namespace Sys2Proof.Machine

/-! ## The header (R705) -/

def msgType (m : List Byte) : Nat := leAt m 0 2
def msgSeq (m : List Byte) : Nat := leAt m 3 1
def msgLen (m : List Byte) : Nat := leAt m 4 2
def msgHdr (m : List Byte) : CmdHdr := { bough := leAt m 2 1, tag := leAt m 6 2 }
def msgBody (m : List Byte) : List Byte := (m.drop 8).take (msgLen m)

/-! ## The type catalogue (R729) -/

/-- The number of commands of a subsystem; their local numbers run from 1. -/
def commandsOf (sub : Nat) : Nat :=
  match sub with
  | 0x0 => 2
  | 0x3 => 7
  | 0x4 => 2
  | 0x5 => 2
  | 0x6 => 1
  | 0x7 => 5
  | 0x8 => 2
  | 0xA => 1
  | 0xB => 1
  | 0xC => 4
  | 0xD => 2
  | 0xE => 5
  | 0xF => 6
  | _ => 0

/-- The type is a command that its subsystem has (R710 reason 1). -/
def typeKnown (t : Nat) : Bool :=
  t / 0x1000 == 8 && decide (1 ≤ t % 256) && decide (t % 256 ≤ commandsOf (t / 256 % 16))

/-- The command takes its bough from the header (R729). -/
def boughFromHeader (t : Nat) : Bool :=
  [0x8301, 0x8302, 0x8303, 0x8304, 0x8305, 0x8401, 0x8402, 0x8501, 0x8502, 0x8601, 0x8703].contains t

/-- The port accepts the command in this phase and state (R729). -/
def acceptedNow (s : State) (t : Nat) : Bool :=
  if t = 0x8E02 ∨ t = 0x8E05 then s.open4
  else if [0x0, 0xB, 0xC, 0xD, 0xE].contains (t / 256 % 16) then s.open2
  else s.ready && !s.log.fatalHold

/-- A bulk command whose chapter names no busy result (R717). -/
def refusedBusy (t : Nat) : Bool := [0x8307, 0x8705, 0x8D02].contains t

/-! ## Bodies; bytes beyond the end read as 0 (R711) -/

/-- SES_AUTH (R234). -/
def authInstr (h : CmdHdr) (x : List Byte) : Option Instr :=
  let ident := bytesAt x 17 (leAt x 16 1)
  match leAt x 0 1, leAt x 1 1 with
  | 0, 0 => some (.sesAuthRefuse h ident)
  | 0, 1 => some (.sesAuthRefuse h ident)
  | 1, 0 => some (.sesAuthAccept h false (leIAt x 4 6) (leAt x 12 4) ident)
  | 1, 1 => some (.sesAuthAccept h true (leIAt x 4 6) (leAt x 12 4) ident)
  | _, _ => none

/-- SES_CREDIT (R234). -/
def creditInstr (h : CmdHdr) (x : List Byte) : Option Instr :=
  let d := bytesAt x 0 8
  let amount := leIAt x 10 6
  match leAt x 8 1 with
  | 0 => some (.sesCreditAdd h d amount)
  | 1 => some (.sesCreditSet h d amount)
  | 2 => some (.sesCreditCreate h d (byteAt x 9) amount)
  | 3 => some (.sesCreditDelete h d)
  | 4 => some (.sesCreditSetFlags h d (byteAt x 9))
  | _ => none

/-- SES_LEDGER_LOAD (R234). -/
def loadInstr (h : CmdHdr) (x : List Byte) : Option Instr :=
  match leAt x 4 1 with
  | 0 => some (.sesLedgerLoadMerge h (leAt x 0 4))
  | 1 => some (.sesLedgerLoadReplace h (leAt x 0 4))
  | _ => none

/-- SAF_HOLD (R291). -/
def holdInstr (h : CmdHdr) (x : List Byte) : Option Instr :=
  match leAt x 0 1 with
  | 0 => some (.safHoldRelease h)
  | 1 => some (.safHoldSet h)
  | _ => none

/-- MTR_CAL (R339). -/
def calInstr (h : CmdHdr) (x : List Byte) : Option Instr :=
  let mask := BitVec.ofNat 24 (leAt x 0 3)
  match leAt x 5 1 with
  | 0 => some (.mtrCal h mask (leAt x 3 1) (leAt x 4 1) false)
  | 1 => some (.mtrCal h mask (leAt x 3 1) (leAt x 4 1) true)
  | _ => none

/-- MTR_SWAP (R339). -/
def swapInstr (h : CmdHdr) (x : List Byte) : Option Instr :=
  match leAt x 0 1 with
  | 0 => some (.mtrSwapHot h (leAt x 1 1))
  | 1 => some (.mtrSwapReturn h (leAt x 1 1))
  | 2 => some (.mtrSwapAbort h (leAt x 1 1))
  | 3 => some (.mtrSwapReadmit h (leAt x 1 1))
  | _ => none

/-- MEM_INJECT (R605, R626). -/
def injectInstr (h : CmdHdr) (x : List Byte) : Option Instr :=
  match leAt x 0 1 with
  | 0 => some (.memInjectMode0 h (leAt x 1 1) (BitVec.ofNat 64 (leAt x 4 8)))
  | 1 => some (.memInjectMode1 h)
  | _ => none

/-- The command of a type with its body; none when an operation code of the body names no command. -/
def bodyInstr (t : Nat) (h : CmdHdr) (x : List Byte) : Option Instr :=
  match t with
  | 0x8001 => some (.hstRestart h x)
  | 0x8002 => some (.hstEcho h x)
  | 0x8301 => authInstr h x
  | 0x8302 => some (.sesIdent h (bytesAt x 1 (leAt x 0 1)))
  | 0x8303 => some (.sesStop h)
  | 0x8304 => some (.sesGrant h (leIAt x 0 6) (leAt x 8 4))
  | 0x8305 => some (.sesCeiling h (leAt x 0 4) (leAt x 4 4))
  | 0x8306 => creditInstr h x
  | 0x8307 => loadInstr h x
  | 0x8401 => some (.safClear h (byteAt x 0))
  | 0x8402 => holdInstr h x
  | 0x8501 => calInstr h x
  | 0x8502 => swapInstr h x
  | 0x8601 => some (.nrgRead h)
  | 0x8701 => some (.bilTimeSet h (BitVec.ofNat 32 (leAt x 0 4)) (byteAt x 4))
  | 0x8702 => some (.bilReadAck h (leAt x 0 4))
  | 0x8703 => some (.bilReadNow h)
  | 0x8704 => some (.bilInfo h)
  | 0x8705 => some (.bilReadGet h (leAt x 0 4) (leAt x 4 2))
  | 0x8801 => some (.auxSet h (BitVec.ofNat 32 (leAt x 0 4)) (leAt x 4 2))
  | 0x8802 => some (.auxClear h (BitVec.ofNat 32 (leAt x 0 4)))
  | 0x8A01 => some (.cnpSend h (leAt x 0 1) (leAt x 1 1) (bytesAt x 4 (leAt x 2 2)))
  | 0x8B01 => some (.tagFlush h .done)
  | 0x8C01 => some (.keyChallenge h)
  | 0x8C02 => some (.keyLifecycle h (leAt x 0 1) (bytesAt x 4 16) (bytesAt x 20 32))
  | 0x8C03 => some (.keyInstall h (leAt x 0 1) (bytesAt x 2 12) (bytesAt x 14 32) (bytesAt x 46 16))
  | 0x8C04 => some (.keyInfo h)
  | 0x8D01 => injectInstr h x
  | 0x8D02 => some (.memMapGet h)
  | 0x8E01 => some (.logRead h (leAt x 0 1) (leAt x 4 4) (leAt x 8 4))
  | 0x8E02 => some (.logClear h (byteAt x 0))
  | 0x8E03 => some (.logDumpRead h (leAt x 0 1) (leAt x 4 4))
  | 0x8E04 => some (.logDumpAck h (byteAt x 0))
  | 0x8E05 => some (.logHistGet h)
  | 0x8F01 => some (.updBegin h (bytesAt x 0 128))
  | 0x8F02 => some (.updChunk h (leAt x 0 4) (leAt x 4 4))
  | 0x8F03 => some (.updEnd h)
  | 0x8F04 => some (.updSchedule h (leAt x 0 1) (leAt x 4 4))
  | 0x8F05 => some (.updConfirm h)
  | 0x8F06 => some (.updAbort h)
  | _ => none

/-- The command that a message of the command queue spells. -/
def hostInstr (m : List Byte) : Option Instr := bodyInstr (msgType m) (msgHdr m) (msgBody m)

end Sys2Proof.Machine
end

