-- ==== Sys2Proof/Machine/Loading.lean ====
section
/-! DEFINITION. The records of the Ronif image as P3 takes them: validity, shadow pages, tables, required records and the
safety page's inverse half (R138 to R140). -/

namespace Sys2Proof.Machine

/-! ## Validity of table records -/

/-- Switch point i of day profile d: its start and its rate. -/
def calPoint (cal : List Byte) (d i : Nat) : Nat × Nat := (leAt cal (224 + 16 * d + 2 * i) 1, leAt cal (225 + 16 * d + 2 * i) 1)

/-- A referenced day profile: point 0 starts at 0, used starts rise, unused points follow, rates below RATES (R393). -/
def dayOk (cal : List Byte) (d : Nat) : Bool :=
  let ps := (List.range 8).map (calPoint cal d)
  let used := ps.takeWhile (fun p => p.1 != 0xFF)
  (match used with | p :: _ => p.1 == 0 | [] => false)
    && (ps.drop used.length).all (fun p => p.1 == 0xFF)
    && used.all (fun p => decide (p.1 ≤ 95) && decide (p.2 < leAt cal 6 1))
    && (used.zip (used.drop 1)).all (fun e => decide (e.1.1 < e.2.1))

/-- The used seasons in order: month, day, week profile. -/
def calSeasons (cal : List Byte) : List (Nat × Nat × Nat) :=
  (((List.range 8).map (fun i => (leAt cal (800 + 4 * i) 1, leAt cal (801 + 4 * i) 1, leAt cal (802 + 4 * i) 1)))).takeWhile
    (fun e => e.1 != 0)

/-- The used special days: month, day, day profile. -/
def calSpecials (cal : List Byte) : List (Nat × Nat × Nat) :=
  ((List.range 64).map (fun i => (leAt cal (832 + 4 * i) 1, leAt cal (833 + 4 * i) 1, leAt cal (835 + 4 * i) 1))).filter
    (fun e => e.1 != 0)

/-- A date of a calendar: month 1 to 12, day 1 to 31. -/
def dateOk (e : Nat × Nat × Nat) : Bool := within 1 12 e.1 && within 1 31 e.2.1

/-- The seasons and special days of a calendar hold (R392, R393). -/
def calDatesOk (cal : List Byte) : Bool :=
  let ss := calSeasons cal
  !ss.isEmpty && ((List.range 8).drop ss.length).all (fun i => leAt cal (800 + 4 * i) 1 == 0)
    && ss.all (fun e => dateOk e && decide (e.2.2 < 8))
    && (ss.zip (ss.drop 1)).all (fun e => decide (e.1.1 < e.2.1) || (e.1.1 == e.2.1 && decide (e.1.2.1 < e.2.2.1)))
    && (calSpecials cal).all dateOk

/-- Every day profile index is below 32, and every referenced day profile holds (R393). -/
def calDaysOk (cal : List Byte) : Bool :=
  let weeks := (List.range 8).flatMap (fun w => (List.range 7).map (fun i => leAt cal (736 + 8 * w + i) 1))
  let refd := (calSeasons cal).flatMap (fun e => (List.range 7).map (fun i => leAt cal (736 + 8 * e.2.2 + i) 1))
    ++ (calSpecials cal).map (·.2.2)
  weeks.all (fun d => decide (d < 32)) && refd.all (fun d => decide (d < 32) && dayOk cal d)

/-- A calendar record is valid by itself (R393). -/
def calOk (passive : Bool) (cal : List Byte) : Bool :=
  let id := leAt cal 0 4
  let mode := leAt cal 4 1
  cal.length == 1088 && id != 0 && id != 0xFFFFFFFF && (if passive then within 1 2 mode else mode == 0)
    && within 1 16 (leAt cal 6 1) && (leAt cal 5 1 == 0xFF || decide (leAt cal 5 1 < leAt cal 6 1))
    && calDatesOk cal && calDaysOk cal

/-- CAL_ID of the record 0x7100 that an image leaves in force (R138, R393). -/
def imageCalId (rs : List ImgRec) : Option Nat :=
  ((rs.filter (fun r => r.1 == 0x7100 && calOk false r.2.1)).getLast?).map (fun r => leAt r.2.1 0 4)

/-- A glyph map is valid (R474). -/
def glyphOk (g : List Byte) : Bool :=
  let es := (List.range 128).map (fun e => (leAt g (2 * e) 1, leAt g (2 * e + 1) 1))
  let on := es.filter (fun e => e.1 != 0xFF)
  g.length == 256 && on.all (fun e => decide (e.1 < 4) && decide (e.2 < 96)) && on.eraseDups.length == on.length

/-- The wrapping key of the site keys: derived from the root in use (R512). -/
def wrapKey (s : State) : Option (List Byte) := (s.rootOf s.rootInUse).map (fun r => s.derive r .canopyWrap)

/-- A wrapped site key at offset i of a membership record; none when its tag fails. -/
def siteKey (s : State) (r : List Byte) (i : Nat) : Option (List Byte) :=
  match wrapKey s with
  | some k => gcmOpen k (bytesAt r i 12) [] (bytesAt r (i + 12) 32) (bytesAt r (i + 44) 16)
  | none => none

/-- Site key 1 is used (R512). -/
def usesKey1 (r : List Byte) : Bool := !(bytesAt r 84 48).all (· == 0)

/-- A membership record is valid (R512). -/
def memberOk (s : State) (r : List Byte) : Bool :=
  r.length == 144 && leAt r 0 4 != 0 && within 0 63 (leAt r 4 1) && within 0 15 (leAt r 5 1)
    && (siteKey s r 12).isSome && (!usesKey1 r || (siteKey s r 72).isSome)

/-- A calibration table is valid: its length, every range, no FS_VAL of 0 where a unit is needed (R314, R745). -/
def calTableOk (b : Nat) (t : List Byte) : Bool :=
  t.length == 384 &&
    (List.range 96).all (fun i => rangeOk (0x5000 + 0x180 * b + 4 * i) (BitVec.ofNat 32 (leAt t (4 * i) 4))) &&
    [7, 8, 11, 12, 13, 14, 21].all (fun n => leAt t (16 * n + 12) 4 != 0)

/-- Friendly windows (R228). -/
def windowsOk (t : List Byte) : Bool :=
  t.length % 4 == 0 && decide (t.length ≤ 64) &&
    (List.range (t.length / 4)).all (fun i => within 0 95 (leAt t (4 * i + 1) 1) && within 1 96 (leAt t (4 * i + 2) 1))

/-- Budgets of record 0xE100 (R753). -/
def budgetsOk (t : List Byte) : Bool :=
  t.length % 4 == 0 && decide (t.length ≤ 256) && (List.range (t.length / 4)).all (fun i => decide (leAt t (4 * i + 3) 1 ≤ 1))

/-- The reason of event 0x0110 for which a table record is ignored; active is the CAL_ID of record 0x7100 (R138). -/
def tableReason (s : State) (active : Option Nat) (t : Nat) (body : List Byte) : Option Nat :=
  let judge := fun (ok : Bool) => if ok then none else some 3
  if 0x5100 ≤ t ∧ t < 0x5108 then judge (calTableOk (t - 0x5100) body)
  else match t with
    | 0x2100 => judge (body.length == 6)
    | 0x3100 => none
    | 0x3101 => judge (windowsOk body)
    | 0x7100 => judge (calOk false body)
    | 0x7101 => judge (calOk true body && active != some (leAt body 0 4))
    | 0x7102 => judge (body.length == 4 && within 0 5 (leAt body 2 1))
    | 0x8100 => judge (body.length == 32 && body.all (fun x => decide (x.toNat % 32 ≤ 22)))
    | 0x9100 => judge (glyphOk body)
    | 0xA100 => judge (memberOk s body)
    | 0xC100 => none
    | 0xE100 => judge (budgetsOk body)
    | _ => some 1

/-! ## Records (R138) -/

/-- The device while an image loads, and the settings bytes written by page records with the type of the last. -/
abbrev Loading := State × List (Nat × Nat)

/-- A record ignored (R138, R148). -/
def ignoreRecord (t reason : Nat) (s : State) : State :=
  emit 0x0110 255 (leN 2 t ++ leN 1 reason) { s with start.ignored := min 255 (s.start.ignored + 1) }

/-- A record applied (R148). -/
def countLoaded (s : State) : State := { s with start.loaded := s.start.loaded + 1 }

/-- A bough held out of service by the start (R139). -/
def holdAtStart (b : Bough) (s : State) : State := s.onSaf b (fun f => { f with holdStart := true })

/-- Offsets that the data of a page record covers. -/
def pageSpan (body : List Byte) : List Nat := (List.range (body.length - 2)).map (fun i => leAt body 0 2 + i)

/-- The boughs that a safety page record names; all for a device-wide one (R138). -/
def safetyNames (body : List Byte) : List Bough :=
  let bs := (pageSpan body).map (fun o => o % 0x800 / 0x40)
  if bs.isEmpty || bs.any (fun i => decide (8 ≤ i)) then allBoughs else allBoughs.filter (fun b => bs.contains b.val)

/-- Events 0x0110 with reason 4 for the types whose bytes a page record writes again: one event for each type overwritten,
however many of its records that were (DESIGN CHOICE, log entry 168). -/
def overwrites (written : List (Nat × Nat)) (base n : Nat) (s : State) : State :=
  let old := (written.filter (fun e => decide (base ≤ e.1 ∧ e.1 < base + n))).map (·.2)
  old.eraseDups.foldl (fun t ty => emit 0x0110 255 (leN 2 ty ++ leN 1 4) t) s

/-- A page record (R135, R138, R492). One whose body is too short for an offset has reason 2 (DESIGN CHOICE, log entry
169). -/
def loadPage (t : Nat) (body : List Byte) (l : Loading) : Loading :=
  let (s, written) := l
  let off := leAt body 0 2
  let data := body.drop 2
  let n := data.length
  let base := t / 4096 * 0x1000 + off
  if body.length < 2 ∨ off % 4 ≠ 0 ∨ 0x1000 < off + n then (ignoreRecord t 2 s, written)
  else
    let page := pagePuts s.host.shadow base data
    let regs := (List.range ((n + 3) / 4)).map (fun i => base + 4 * i)
    if !regs.all (fun a => isInverse a || (pageInfo a).isNone || rangeOk a (pageWord page a)) then (ignoreRecord t 3 s, written)
    else if t / 4096 = 0xA ∧ usableCarriers (fun i => pageWord page (0xA100 + 4 * i)) < 768 then (ignoreRecord t 1 s, written)
    else
      (overwrites written base n (countLoaded { s with host.shadow := page }),
       (List.range n).map (fun i => (base + i, t)) ++ written)

/-- A table record; a calibration table goes to the shadow page (R138, R314). -/
def loadTable (active : Option Nat) (t : Nat) (body : List Byte) (s : State) : State :=
  match tableReason s active t body with
  | some r => ignoreRecord t r s
  | none =>
    let s := if (tableOf s t).isSome then emit 0x0110 255 (leN 2 t ++ leN 1 4) s else s
    let s := countLoaded { s with start.tables := s.start.tables.filter (fun e => e.1 != t) ++ [(t, body)] }
    if 0x5100 ≤ t ∧ t < 0x5108 then { s with host.shadow := pagePuts s.host.shadow (0x5000 + 0x180 * (t - 0x5100)) body }
    else s

/-- One record of an accepted image (R138). The offset of the first differing byte takes 2 bytes of event 0x0111 (DESIGN
CHOICE, log entry 170). -/
def imageRecord (active : Option Nat) (l : Loading) (r : ImgRec) : Loading :=
  let (t, body, diff) := r
  let n := t % 4096
  if n = 0xFFF then l
  else match diff with
    | some i =>
      let s := emit 0x0111 255 (leN 2 t ++ leN 2 i) { l.1 with start.ignored := min 255 (l.1.start.ignored + 1) }
      let bs := if n < 0x100 then safetyNames body else allBoughs
      (bs.foldl (fun x b => holdAtStart b x) s, l.2)
    | none =>
      if n < 0x100 then loadPage t body l
      else if n < 0x800 then (loadTable active t body l.1, l.2)
      else (ignoreRecord t 1 l.1, l.2)

/-! ## The safety page (R140, R280, R281) -/

/-- The type of the page record that wrote any of n bytes from a last; 0x4000 where none did. -/
def writerOf (written : List (Nat × Nat)) (as : List Nat) : Nat :=
  match written.find? (fun e => as.contains e.1) with
  | some e => e.2
  | none => 0x4000

/-- The four byte offsets of a register. -/
def regBytes (a : Nat) : List Nat := [a, a + 1, a + 2, a + 3]

/-- Inverse bytes that no page record writes, of value bytes that one does, written by the device (R140). -/
def completeInverse (written : List (Nat × Nat)) (s : State) : State :=
  let has := fun (a : Nat) => written.any (fun e => e.1 == a)
  let due := (written.map (·.1)).filter (fun a => a / 0x1000 == 4 && !isInverse a && !has (a + 0x800))
  due.foldl (fun t a =>
    { t with host.shadow := pagePut t.host.shadow (a + 0x800) (~~~memGet pageReset t.host.shadow a) }) s

/-- A safety register whose halves disagree takes its reset values; its bough, or every bough, is held; event 0x0111 with
the first disagreeing byte (R140). -/
def checkSafetyReg (written : List (Nat × Nat)) (a : Nat) (s : State) : State :=
  let m := s.host.shadow
  if inverseOk a m then s
  else
    let bad := (regBytes a).filter (fun x =>
      (memGet pageReset m x ^^^ memGet pageReset m (x + 0x800)) &&& pageMask x != pageMask x)
    let t := writerOf written (regBytes a ++ regBytes (a + 0x800))
    let s := emit 0x0111 255 (leN 2 t ++ leN 2 (bad.headD a % 0x1000)) s
    let s := { s with host.shadow := s.host.shadow.filter (fun c =>
      !((regBytes a).contains c.1 || (regBytes (a + 0x800)).contains c.1)) }
    match boughOf a with
    | some b => (allBoughs.filter (fun x => x.val == b)).foldl (fun t x => holdAtStart x t) s
    | none => forBoughs holdAtStart s

/-- A bough held for a setting of the image, with event 0x0110 reason 3 for the record that sets it (R280, R281). -/
def holdForSetting (written : List (Nat × Nat)) (a : Nat) (b : Bough) (s : State) : State :=
  holdAtStart b (emit 0x0110 255 (leN 2 (writerOf written [a]) ++ leN 1 3) s)

/-- Conflicts of PRECHG, BRIDGE_CH and OWNER that the image itself sets up (R280, R281). -/
def imageConflicts (written : List (Nat × Nat)) (s : State) : State :=
  let s := forBoughs (fun b t =>
    let w := t.safBoughCfg b
    if bitOf w 30 && !bitOf w 26 then holdForSetting written (0x4003 + 0x40 * b.val) b t else t) s
  let clash := fun (b : Bough) =>
    match bridgeOf s.cfg b with
    | none => false
    | some c => ownedBy s.cfg c || allBoughs.any (fun x => x != b && bridgeOf s.cfg x == some c)
  forBoughs (fun b t =>
    if clash b then
      (holdForSetting written (0x4002 + 0x40 * b.val) b t).onSaf b (fun f => { f with noBridge := true })
    else t) s

/-! ## Required records (R139) -/

/-- A required record is absent: event 0x010F with its type, and MISSING (R139, R148). -/
def missing (t : Nat) (s : State) : State :=
  emit 0x010F 255 (leN 2 t) { s with start.missing := min 255 (s.start.missing + 1) }

/-- A page record covers bough b's safety settings. -/
def safetyCovered (written : List (Nat × Nat)) (b : Bough) : Bool := written.any (fun e => ofBough 4 b e.1)

/-- The required records of R139. -/
def requireRecords (written : List (Nat × Nat)) (s : State) : State :=
  let s := forBoughs (fun b t =>
    let t := if safetyCovered written b then t else holdAtStart b (missing 0x4000 t)
    if (tableOf t (0x5100 + b.val)).isSome then t else holdAtStart b (missing (0x5100 + b.val) t)) s
  let need := fun (ty : Nat) (act : State → State) (t : State) => if (tableOf t ty).isSome then t else act (missing ty t)
  need 0x7102 (forBoughs holdAtStart) (need 0xA100 id (need 0x7100 id s))

/-! ## What the tables set -/

/-- The stored fail-safe table of the power die (R456). -/
def takeFailsafe (s : State) : State :=
  let old := s.nv.fsTable.toList
  match tableOf s 0x8100 with
  | none => emit 0x0805 255 old s
  | some t =>
    if t = old then s
    else emit 0x0804 255 (old ++ t) { s with nv.fsTable := Vector.ofFn (fun (i : Fin 32) => byteAt t i.val) }

/-- The glyph map (R474). -/
def takeGlyphs (s : State) : State :=
  match tableOf s 0x9100 with
  | none => emit 0x0903 255 [] s
  | some g => { s with lcd.glyph := some g }

/-- Budgets of record 0xE100; entries of exempt codes are ignored alone, with one event for the record (R753). -/
def takeBudgets (s : State) : State :=
  match tableOf s 0xE100 with
  | none => s
  | some t =>
    let es := (List.range (t.length / 4)).map (fun i => (leAt t (4 * i) 2, leAt t (4 * i + 2) 1, leAt t (4 * i + 3) 1))
    let s := { s with log.override := es.filter (fun e => !exemptCode e.1) }
    if es.any (fun e => exemptCode e.1) then emit 0x0110 255 (leN 2 0xE100 ++ leN 1 3) s else s

/-- The membership record with its site keys (R512). -/
def takeMembership (s : State) : State :=
  match tableOf s 0xA100 with
  | none => s
  | some r => { s with canopy.record := some r, canopy.key0 := siteKey s r 12,
                       canopy.key1 := if usesKey1 r then siteKey s r 72 else none }

/-- The base address derived from the device's fuses, made a locally administered unicast address (R177). -/
def fuseBase : List Byte :=
  match leN 6 Config.fuseMac.toNat with
  | x :: xs => ((x ||| 2) &&& 0xFE) :: xs
  | [] => []

/-- The base of the modem addresses: record 0x2100, or an address from the fuses (R177). -/
def takeMac (s : State) : State := { s with assoc.macBase := (tableOf s 0x2100).getD fuseBase }

/-- What follows the settings of an image coming into force. -/
def settingsInForce (s : State) : State :=
  let s := { s with bak.tamperCfg := s.keyTamperCfg, trunk.capNow := fld s.sysBgCap 5 0,
                    auxDev.isel := senseChannel s s.auxDev.isel,
                    bil.demandMin := demandMinutes (fld s.bilCfg 30 28), bil.offset := s.bak.offset }
  let s := forBoughs (fun b t => (t.onNrg b (fun e => { e with isDC := isDC t b })).onMtr b (fun m =>
    if m.rsvState = 5 then m else { m with rsvState := idleState t b })) s
  auxAll (takeBridges (driveAll (refreshIdentity s)))

/-- The records of an accepted image, from the reset values of every page (R138 to R140). -/
def loadRecords (rs : List ImgRec) (s : State) : State :=
  let active := imageCalId rs
  let s := { s with host.shadow := [], start.tables := [], start.loaded := 0, start.ignored := 0, start.missing := 0 }
  let (s, written) := rs.foldl (imageRecord active) (s, [])
  let s := (pageRegs 4).foldl (fun t a => checkSafetyReg written a t) (completeInverse written s)
  let s := imageConflicts written { s with host.applied := s.host.shadow }
  let s := takeMac (takeMembership (takeBudgets (takeGlyphs (takeFailsafe s))))
  let s := { s with bil.currency := tableOf s 0x7102 }
  settingsInForce (requireRecords written s)

end Sys2Proof.Machine
end

