-- ==== Sys2Proof/Machine/Start.lean ====
section
/-! DEFINITION. The start from reset release to the firmware: phases P0 to P4 and the stopped state (R116 to R131, R610,
R612, R613, R640, R641, R674, R683). -/

namespace Sys2Proof.Machine

/-- The start stands at phase p (R121). -/
def atPhase (s : State) (p : Nat) : Bool := s.start.released && s.start.phase == p && s.start.done == p

/-- Phase p has completed (R121). -/
def phaseDone (p : Nat) (s : State) : State := { s with start.phase := p + 1, start.done := p + 1, start.loadHalts := 0 }

/-- The phase's load halted twice: the retry failed too (R601). -/
def loadFailed (s : State) : Bool := decide (2 ≤ s.start.loadHalts)

/-- The start stop summary of tag page 2 (R658). -/
def stopSummary (s : State) : State :=
  let old := tagPage s 2
  let n := if crcHolds old && bytesAt old 0 4 == ascii "RSTP" then leAt old 24 4 else 0
  tagWritePage 2 (ascii "RSTP" ++ leN 1 s.start.stopPhase ++ leN 1 s.start.stopReason ++ leN 1 1 ++ leN 1 0
    ++ leN 8 s.opstamp.toNat ++ leN 4 s.now ++ leN 4 (sysWord s 0x18).toNat ++ leN 4 (n + 1)) s

/-- The start stops in phase p (R126, R152). -/
def stopStart (p reason : Nat) (s : State) : State :=
  let s := { s with start.phase := 0xF, start.stopPhase := p, start.stopReason := reason, start.waitSupply := false }
  raiseIrq 1 (stopSummary (emit 0x0112 255 (leN 1 p ++ leN 1 reason) s))

/-! ## P0 -/

/-- The start cannot go on, and the pattern test of P2 comes before the stopped state is entered (R126). -/
def stopAfterTest (p reason : Nat) (s : State) : State := { s with start.stopNext := some (p, reason) }

/-- RESET_RELEASE (R79, R87, R116, R118, R121, R122, R126): T0 and phase P0. Supply monitors 0 to 4 are above their low
thresholds. -/
def execResetRelease (viohMv : Nat) (pllLocks : Bool) (s : State) : Res :=
  if s.start.released || !resetFree s then .next s
  else
    let s := { s with start.released := true, start.mrstN := true, supply.inRange := s.supply.inRange ||| (0x1F &&& ~~~s.supply.tripped),
                      supply.resetHeld := false, supply.vioh33 := decide (2500 < viohMv) }
    let s := auxAll s
    if !pllLocks then .next (stopStart 0 0x01 s)
    else
      let s := { s with lat.running := true }
      if !s.nv.flash.present then .next (stopAfterTest 0 0x02 s)
      else .next (driveAll (phaseDone 0 { s with start.rstOutN := !s.supply.rstHold }))

/-! ## Repair maps (R610, R612) -/

/-- Event 0x0D05: a map entry ignored, 0 factory or 1 field. -/
def ignoreEntry (map i : Nat) (s : State) : State := emit 0x0D05 255 (leN 1 map ++ leN 4 i) s

/-- A row entry: macro, row and spare in range, the spare free. -/
def applyRow (map i e : Nat) (s : State) : State :=
  let m := e / 2 ^ 22 % 256
  let row := e / 2 ^ 13 % 512
  let sp := e / 2 ^ 11 % 4
  if 221 ≤ m ∨ (macroSmall m ∧ 32 ≤ row) ∨ rowSpares m ≤ sp ∨ (macroAt s m).rows.any (fun r => r.2 == sp) then
    ignoreEntry map i s
  else { s with mem.macros := modN s.mem.macros m (fun x => { x with rows := x.rows ++ [(row, sp)] }) }

/-- A column group entry. -/
def applyCol (map i e : Nat) (s : State) : State :=
  let m := e / 2 ^ 22 % 256
  let grp := e / 2 ^ 15 % 128
  let sp := e / 2 ^ 14 % 2
  if 221 ≤ m ∨ 79 ≤ grp ∨ (macroAt s m).cols.any (fun c => c.2 == sp) then ignoreEntry map i s
  else { s with mem.macros := modN s.mem.macros m (fun x => { x with cols := x.cols ++ [(grp, sp)] }) }

/-- A lane entry: the spare lane assigned or marked unusable; two entries for a segment start it in half mode. -/
def applyLane (map i e : Nat) (s : State) : State :=
  let g := e / 2 ^ 25 % 32
  let lane := e / 2 ^ 21 % 16
  if h : g < 23 then
    if 8 < lane then ignoreEntry map i s
    else onSeg ⟨g, h⟩ (fun x =>
      let second := x.carried.isSome || x.spareBad
      let x := { x with failed := if lane < 8 then x.failed ||| BitVec.ofNat 9 (1 <<< lane) else x.failed,
                        half := x.half || second }
      if lane = 8 then { x with spareBad := true }
      else if second then x else { x with carried := some lane }) s
  else ignoreEntry map i s

/-- One map entry with its index; an entry of all zero bits is unused. -/
def applyEntry (map : Nat) (s : State) (ie : Nat × BitVec 32) : State :=
  let (i, w) := ie
  let e := w.toNat
  if e = 0 then s
  else if crc8 e ≠ e % 256 then ignoreEntry map i s
  else match e / 2 ^ 30 with
    | 1 => applyRow map i e s
    | 2 => applyCol map i e s
    | 3 => applyLane map i e s
    | _ => ignoreEntry map i s

/-- A map's entries with their indices. -/
def indexed (n : Nat) (es : List (BitVec 32)) : List (Nat × BitVec 32) := (List.range n).zip es

/-- The factory map, then the field map (R612). -/
def applyMaps (s : State) : State :=
  let s := (indexed 512 s.nv.factoryMap).foldl (applyEntry 0) s
  (indexed 64 s.nv.fieldMap).foldl (applyEntry 1) s

/-- A reserve that the factory map assigns to an input (R319). -/
def applyReserves (s : State) : State :=
  forBoughs (fun b t =>
    let n := t.nv.rsvInput[b]
    if n < 24 then t.onMtr b (fun m => { m with rsvState := 5, served := n, rsvIn := n }) else t) s

/-! ## P1 -/

/-- The directory taken (R129). -/
def readDirectory (s : State) : State :=
  match chooseDir s with
  | (d, some r) => emit 0x010E 255 (leN 1 d.ronif ++ leN 1 r) s
  | (_, none) => s

/-- What the update state of the directory asks for (R683). -/
def actOnState (s : State) : State :=
  let d := dirNow s
  match dirState d with
  | 1 =>
    let s := writeDir d 2 (dirSwitched d) s
    { s with upd.state := 5, upd.switched := dirSwitched d, start.trial := true }
  | 2 => fallBack (dirSwitched d) 2 s
  | 4 => fallBack (dirSwitched d) 1 s
  | _ => s

/-- OPSTAMP of the newest valid entry of the save area; an entry whose CRC fails is passed over (R123, R124, R159). -/
def newestEntry (s : State) : Option (BitVec 64) :=
  match s.nv.flash.starts.find? (·.crcOk), newestSave s with
  | some a, some b => some (if a.opstamp.toNat < b.opstamp.toNat then b.opstamp else a.opstamp)
  | some a, none => some a.opstamp
  | none, some b => some b.opstamp
  | none, none => none

/-- CYCLES and OPTIME of this start (R18, R123). -/
def startStamp (s : State) : Nat × Nat :=
  match newestEntry s with
  | some e => (min 0xFFFFFF (e.toNat / 2 ^ 40 + 1), min (2 ^ 40 - 1) (e.toNat % 2 ^ 40 + 4096))
  | none => (1, 0)

/-- A start entry written in the next slot of the ring (R124, R366). -/
def putStart (e : StartEntry) (s : State) : State :=
  let e := { e with place := s.nv.flash.saveSlot }
  let s := beginSlot s
  { s with nv.flash.starts := e :: s.nv.flash.starts }

/-- n writes of the start entry whose read-back failed leave n entries in the save area whose CRC fails (R124, R126). -/
def tornStarts (n : Nat) (s : State) : State :=
  let (cyc, opt) := startStamp s
  let stamp := BitVec.ofNat 64 (cyc * 2 ^ 40 + opt)
  (List.range n).foldl (fun t _ => putStart { opstamp := stamp, caltime := s.bak.caltime, crcOk := false } t) s

/-- The start entry written at the n-th attempt and read back: OPSTAMP runs. Events of P0 carry its stamp (R123, R124,
R152). -/
def writeStartEntry (n : Fin 3) (s : State) : State :=
  let (cyc, opt) := startStamp s
  let full := decide (cyc = 0xFFFFFF) && (match newestEntry s with | some e => e.toNat / 2 ^ 40 != 0xFFFFFF | none => false)
  let s := { s with lat.cycles := cyc, lat.optime := opt, lat.stampOn := true, canopy.msgTime := opt, canopy.msgCount := 0 }
  let e : StartEntry := { opstamp := s.opstamp, caltime := s.bak.caltime }
  let s := tornStarts n.val s
  let s := putStart e s
  let s := { s with log.held := s.log.held.map (fun r => if r.opstamp = 0 then { r with opstamp := e.opstamp } else r) }
  if full then emit 0x0E06 255 (leN 8 s.opstamp.toNat) s else s

/-- The reset trips kept in the backup domain, and its switch-overs (R87, R110). -/
def reportSupplies (s : State) : State :=
  let s := (List.range 13).foldl (fun t i =>
    if t.bak.tripBits.getLsbD i then emitAtStart 0x0109 255 (leN 1 i ++ leN 1 (b2n (t.bak.highBits.getLsbD i))) t else t) s
  let s := emitAtStart 0x010A 255 (leN 4 s.bak.switches) s
  { s with bak.tripBits := 0, bak.highBits := 0, bak.switches := 0 }

/-- A root whose check word does not match is cleared (R564). -/
def checkRoot (i : Fin 4) (s : State) : State :=
  match s.bak.roots[i] with
  | some r =>
    if r.check = checkWord (beN 32 (r.shareA ^^^ r.shareB).toNat) then s
    else emitAtStart 0x0C05 255 (leN 1 i.val ++ leN 1 1) { s with bak.roots := s.bak.roots.set i none }
  | none => s

/-- What the backup domain has to tell of the time before the start (R564, R577, R579, R591). -/
def reportBackup (s : State) : State :=
  let s := (List.finRange 4).foldl (fun t i => checkRoot i t) s
  let s := if s.bak.lost then
      (List.range 4).foldl (fun t i => emitAtStart 0x0C05 255 (leN 1 i ++ leN 1 2) t) { s with bak.lost := false }
    else s
  let s := if s.bak.fellUnrec then
      emitAtStart 0x0C01 255 (leN 1 s.bak.cause.toNat ++ leN 4 s.bak.fellTime.toNat ++ leN 1 s.bak.fells ++ leN 1 1)
        { s with bak.fellUnrec := false }
    else s
  let s := if s.bak.margUnrec.getLsbD 0 then emitAtStart 0x0C02 255 (leN 1 0 ++ leN 1 s.bak.levelA) s else s
  let s := if s.bak.margUnrec.getLsbD 1 then emitAtStart 0x0C02 255 (leN 1 1 ++ leN 1 s.bak.levelB) s else s
  { s with bak.margUnrec := 0 }

/-- PHASE_P1 (R121, R123, R124, R126, R612, R683): whether the fuse and repair map check passes, and the attempt whose
read-back succeeds, are the surroundings'. -/
def execPhaseP1 (fusesOk : Bool) (readBackAt : Option (Fin 3)) (s : State) : Res :=
  if !atPhase s 1 || s.start.stopNext.isSome then .next s
  else
    let s := { s with start.fuseOk := fusesOk }
    if !fusesOk then .next (stopAfterTest 1 0x03 s)
    else
      let s := { s with start.lifeValid := true }
      if s.lifecycle = lcScrapped then .next (stopAfterTest 1 0x05 s)
      else
        let s := applyReserves (applyMaps s)
        match readBackAt with
        | none => .next (stopAfterTest 1 0x04 (tornStarts 3 s))
        | some n =>
          let s := writeStartEntry n s
          let s := actOnState (readDirectory s)
          let s := reportBackup (reportSupplies s)
          .next (phaseDone 1 (startIdentity { s with crypto.drbgOk := true }))

/-! ## P2 (R613) -/

/-- The pattern test's leave: SRAM holds zero data, failing cells have spares, the mirror holds the tag memory, event
0x0D07. -/
def patternTest (t : PatternTest) (s : State) : State :=
  let failing := (t.cells.map (·.1)).eraseDups.length
  let taken := fun (s : State) => (s.mem.macros.toList.map (fun m => m.rows.length + m.cols.length)).sum
  let before := taken s
  let s := { s with mem.cells := [], mem.bad := s.mem.bad.filterMap (fun w =>
      if w.hard = 0 then none else some { w with flips := 0 }), host.bulk := [], tag.mirror := s.nv.tagMem }
  let s := t.cells.foldl (fun x c => repairHard t.cells (rowAddr c.1 c.2.1) c.2.2 x) s
  emit 0x0D07 255 (leN 4 failing ++ leN 4 (taken s - before) ++ leN 4 s.mem.degraded) s

/-- The test shows a fault beyond the remaining spares (R126). -/
def beyondRepair (t : PatternTest) : Bool := !t.codecOk || t.spareFails || t.beyondSpares

/-- PHASE_P2 (R126, R613): the known-pattern test; after a stop in P0 with reason 0x02 or in P1 it runs before the stopped
state is entered and the windows open. -/
def execPhaseP2 (t : PatternTest) (s : State) : Res :=
  match s.start.stopNext with
  | some (p, reason) => .next (stopStart p reason { patternTest t s with start.stopNext := none })
  | none =>
    if !atPhase s 2 then .next s
    else
      let s := patternTest t s
      .next (if beyondRepair t then stopStart 2 0x06 s else phaseDone 2 s)

/-! ## P3 (R137) -/

/-- The formats of step 3: those of the firmware bank named, else of the other where that alone is valid; with neither
the step is left out, and P4 stops the start (log entry 134). -/
def acceptedFormats (s : State) : Option (Nat × Nat) :=
  let d := dirNow s
  let a := areaOf s 1 d.fw
  let b := areaOf s 1 (1 - d.fw)
  if bankOk 1 a then some (bankRange a) else if bankOk 1 b then some (bankRange b) else none

/-- The image of a slot in use, with its records taken (R138 to R140, R149). -/
def useSlot (n : Nat) (s : State) : State :=
  let img := areaOf s 0 n
  loadRecords ((imgRecords img).getD []) { s with
    start.ronifSlot := n, start.ronifSeq := areaLe img 16 4, start.ronifFormat := imgFormat img,
    start.ronifLabel := areaBytes img 32 16 }

/-- PHASE_P3 (R137, R126): the slot that the directory names, or the other. -/
def execPhaseP3 (s : State) : Res :=
  if !atPhase s 3 then .next s
  else if loadFailed s then .next (stopStart 3 0x07 s)
  else
    let n := (dirNow s).ronif
    let range := acceptedFormats s
    match imgCheck s range (areaOf s 0 n) with
    | none => .next (phaseDone 3 (useSlot n s))
    | some k =>
      let s := emit 0x010E 255 (leN 1 n ++ leN 1 k) s
      match imgCheck s range (areaOf s 0 (1 - n)) with
      | none => .next (phaseDone 3 (useSlot (1 - n) s))
      | some k => .next (stopStart 3 0x07 (emit 0x010E 255 (leN 1 (1 - n) ++ leN 1 k) s))

/-! ## P4 (R640, R641, R674) -/

/-- A bank passes: valid, and the image's FORMAT lies in its range (R674). -/
def bankPasses (s : State) (part i : Nat) : Bool :=
  let a := areaOf s part i
  bankOk part a && formatIn s.start.ronifFormat (bankRange a)

/-- The bank that passes: the one named, else the other; none when neither does (R674). -/
def pickBank (s : State) (part : Nat) : Option Nat :=
  let n := activeArea (dirNow s) part
  if bankPasses s part n then some n else if bankPasses s part (1 - n) then some (1 - n) else none

/-- A bank used in place of the one named: event 0x0F08; on a trial start also STATE 3 and event 0x0F06 with cause 3
(R674, R683). -/
def noteBank (part i : Nat) (s : State) : State :=
  if i = activeArea (dirNow s) part then s
  else
    let s := emit 0x0F08 255 (leN 1 part ++ leN 1 i) s
    if !s.start.trial then s
    else
      let s := writeDir (dirNow s) 3 0 s
      emit 0x0F06 255 (leN 1 (1 <<< part) ++ leN 1 3) { s with start.trial := false, upd.switched := 0, upd.state := 6 }

/-- A ring resumes at the start of the sector after its newest record, which is erased first (R640). -/
def resumeRing (n : Nat) (g : Ring) : Ring :=
  match g.recs.getLast? with
  | none => { g with used := 0 }
  | some e => { eraseSector ((e.1 + 1) % n) g with sector := (e.1 + 1) % n, used := 0 }

/-- SEQ after the newest record of the log (R637, R662). -/
def nextSeq (s : State) : BitVec 32 :=
  let f := s.nv.flash
  let rs := (f.reading.recs ++ f.coded.recs ++ f.general.recs).map (fun e => e.2.seq)
  match rs with
  | [] => 0
  | q :: qs => qs.foldl (fun m x => if atOrAbove x.toNat m.toNat then x else m) q + 1

/-- The counts of the newest valid snapshot of the histograms (R646). -/
def resumeHists (s : State) : State :=
  match s.nv.flash.snaps.find? (·.valid) with
  | some h => { s with log.hists := Vector.ofFn (fun (i : Fin 40) => h.hists.getD i.val {}), log.snapNo := h.no }
  | none => s

/-- Event 0x0E05 of a fatal error of an earlier power cycle (R654, R658). -/
def reportFatal (s : State) : State :=
  if !s.nv.flash.dumpNote then s
  else
    let p := tagPage s 3
    emitAtStart 0x0E05 255 (bytesAt p 20 1 ++ bytesAt p 4 4 ++ bytesAt p 22 2 ++ bytesAt p 24 4)
      { s with nv.flash.dumpNote := false }

/-- The event log becomes available: rings resume, held records are decided, lost ones reported (R640, R641). -/
def startLog (s : State) : State :=
  let f := s.nv.flash
  let s := { s with log.logOn := true, log.next := nextSeq s,
                    nv.flash.reading := resumeRing readingSectors f.reading,
                    nv.flash.coded := resumeRing (codedSectors s) f.coded,
                    nv.flash.general := resumeRing generalSectors f.general,
                    nv.flash.dumps := f.dumps.map (fun (d : Dump) => if d.state = 3 then {} else d) }
  let held := s.log.held
  let s := held.foldl (fun t r => decideRec r t) { s with log.held := [], log.heldEarly := 0 }
  let lost := s.log.heldLost
  let s := if lost = 0 then s else emit 0x0E04 255 (leN 4 lost ++ leN 1 1) { s with log.heldLost := 0 }
  reportFatal (resumeHists s)

/-- PHASE_P4 (R640, R674): the firmware bank, the cores, the event log. -/
def execPhaseP4 (s : State) : Res :=
  if !atPhase s 4 then .next s
  else if loadFailed s then .next (stopStart 4 0x08 s)
  else match pickBank s 1 with
    | none => .next (stopStart 4 0x08 s)
    | some i => .next (phaseDone 4 (startLog (noteBank 1 i { s with start.fwBank := i })))

end Sys2Proof.Machine
end

