-- ==== Sys2Proof/Machine/Restore.lean ====
section
/-! DEFINITION. Phase P5: the heartwood bank, its check value, the registers restored, the calendar and the boundaries of
the time without power (R370, R371, R397, R411, R419 to R421, R434, R543, R685, R750). -/

namespace Sys2Proof.Machine

/-! ## The heartwood bank (R421, R543, R674) -/

/-- The check value page written after the comparison, whatever its outcome (R543). -/
def checkPage (bank : Nat) (good : Bool) (s : State) : State :=
  tagWritePage 1 (ascii "RCHK" ++ s.bil.check ++ leN 4 s.bil.codeLen ++ leN 8 s.opstamp.toNat ++ leN 4 s.now ++ leN 1 bank
    ++ leN 1 (b2n good)) s

/-- A bank's code in heartwood SRAM with its computed check value (R421). -/
def loadHeartwood (bank : Nat) (s : State) : State :=
  let a := areaOf s 2 bank
  let code := bankCode 2 a
  { s with start.hwBank := bank, bil.code := code, bil.codeLen := bankLen a, bil.check := sha256 code }

/-! ## Registers restored (R370, R326, R750) -/

/-- Three registers as the totals of one KIND. -/
def totalsFrom (e : SaveBough) (i : Nat) : EngResult :=
  { totalA := getN e.reg i 0, totalB := getN e.reg (i + 1) 0, totalC := getN e.reg (i + 2) 0 }

/-- A bough's registers and heartwood state from its blocks of the save entry. -/
def restoreBill (e : SaveBough) (b : Bough) (s : State) : State :=
  (s.onNrg b (fun n => { n with reg := e.reg.map (fun c => { count := c, residue := 0 }) })).onBil b (fun x =>
    { x with last := e.reg, carry := e.carry, accepted := #v[totalsFrom e 0, totalsFrom e 3],
             whImp := e.whImp, whExp := e.whExp, cost := e.cost, credit := e.credit, costCarry := e.costCarry,
             credCarry := e.credCarry, priced := e.priced, sesOpen := e.isOpen, sesNum := e.sesNum,
             sesIndex := e.sesIndex, aImpStart := e.aImpStart, aExpStart := getN e.reg 1 0 })

/-- The modulator map, the reserve correction, the failed marks and the learned ratios (R326). A reserve that the factory
map assigns stays so (R319). -/
def restoreMap (e : SaveBough) (b : Bough) (s : State) : State :=
  let idle := idleState s b
  s.onMtr b (fun m =>
    let m := { m with rgain := e.rgain, roff := e.roff, rdelay := e.rdelay, rsvModFailed := e.rsvState == 4,
                      ch := m.ch.mapFinIdx (fun i c _ => { c with failed := e.failed.getLsbD i, k0 := e.k0.getD i none }) }
    if m.rsvState = 5 then m
    else if e.rsvState = 3 then { m with rsvState := 3, served := e.served, rsvIn := e.served }
    else { m with rsvState := if e.rsvState = 4 then 4 else idle, served := 31, rsvIn := 31 })

/-- The newest save entry restored; event 0x0606 with its number, its stamp and the time bound in ms (R370). -/
def restoreEntry (s : State) : State :=
  match newestSave s with
  | none => emit 0x0606 255 (leN 4 0 ++ leN 8 0 ++ leN 4 0) s
  | some e =>
    let s := forBoughs (fun b t => restoreMap e.boughs[b] b (restoreBill e.boughs[b] b t)) s
    let s := { s with sesDev.counter := e.sesNum, bil.saveNo := e.saveNo, bil.readingNo := e.readingNo,
                      bil.lastSigned := e.readingNo - 1, bil.hwm := e.hwm, bil.hasHwm := e.hwm != 0,
                      bil.intStart := e.intStart, bil.intStamp := e.intStamp, bil.lrCount := e.lrCount, bil.prev := e.prev,
                      bil.setbacks := e.setbacks, bil.rates := e.rates }
    emit 0x0606 255 (leN 4 e.saveNo ++ leN 8 e.opstamp.toNat ++ leN 4 (1000 * e.saveS + 500)) s

/-! ## Changes found in P5 -/

/-- The calendars of the image, by the ACTIVE_CAL_ID restored (R397): true when the active one was replaced. -/
def chooseCalendars (s : State) : Bool × State :=
  let saved := match newestSave s with | some e => e.calId | none => 0
  let a := tableOf s 0x7100
  let p := tableOf s 0x7101
  let keep := p.isSome && calId p == saved
  let s := { s with bil.calendar := if keep then p else a, bil.passive := if keep then none else p }
  let id := calId s.bil.calendar
  let changed := saved != 0 && id != saved
  let s := if changed then
      let s := emit 0x0705 255 (leN 4 saved ++ leN 4 id ++ leN 4 s.now ++ leN 4 s.now ++ leN 1 2) s
      lrChange 5 255 255 [] (noteFlagAll 6 s)
    else s
  match s.bil.passive with
  | some c => (changed, emit 0x0704 255 (leN 4 (leAt c 0 4) ++ leN 1 (leAt c 4 1) ++ leN 4 (leAt c 8 4)) s)
  | none => (changed, s)

/-- A heartwood of other content, and a DEMAND_MIN in force that differs from the saved one (R685, R750). -/
def findChanges (s : State) : Bool × State :=
  match newestSave s with
  | none => (false, s)
  | some e =>
    let old := padTo 8 e.check8
    let new := padTo 8 s.bil.check
    let bank := old != new
    let s := if bank then lrChange 4 255 255 (old ++ new) s else s
    let demand := e.demandMin != s.bil.demandMin
    (bank || demand, if demand then lrChange 6 255 255 [] s else s)

/-- The boundary at which a pending calendar with a calendar-time condition was due, of those from a to z (R398, R434).
The turn number is not known in P5. -/
def dueBoundary (s : State) (a z : Int) : Option Nat :=
  match s.bil.passive with
  | some c =>
    let act : Int := leAt c 8 4
    let due := max a (nextBoundary s.bil.demandMin s.bil.offset (act - 1))
    if leAt c 4 1 = 1 ∧ due ≤ z then some due.toNat else none
  | none => none

/-- The boundaries that passed without power closed as MISSED, a pending calendar activated, the current interval opened:
true when a calendar was activated (R411, R420). -/
def missedBoundaries (s : State) : Bool × State :=
  if !s.timeKnown then (false, { s with bil.intOpen := (newestSave s).isSome })
  else
    let below := s.bil.hasHwm && decide (s.now ≤ s.bil.hwm)
    let open5 := fun (t : State) =>
      let start : Int := if below then t.bil.intStart else lastBoundary t.bil.demandMin t.bil.offset t.now
      let t := openInterval start t
      { t with bil.extended := below }
    match (if s.bil.hasHwm then boundaries s.bil.demandMin s.bil.offset s.bil.hwm s.now else none) with
    | none => (false, open5 s)
    | some (a, z, n) =>
      let s := intervalEvent a z n 1 (List.replicate 8 0) s
      let due := dueBoundary s a z
      let s := match due with
        | some d => activateCalendar d s.now s
        | none => s
      (due.isSome, open5 { s with bil.hwm := z.toNat })

/-! ## Interrupted sessions (R371, R419) -/

/-- What a restored bough with STATE bit 0 or bit 1 asks for: a KIND 6 reading and the close of its session, or a KIND 5
reading. -/
def interruptedBough (e : SaveEntry) (b : Bough) (s : State) : State :=
  let x := e.boughs[b]
  if !x.isOpen && !x.coils then s
  else
    let num := 2 * e.saveS + 1
    let wh := gapBound s b num 2
    let (est, s) := gapEstimate x.pmean num 2 s
    if x.isOpen then
      let flags := readingFlags b true s ||| 0x10 ||| (if e.rate = 0xFF then 0x80 else 0)
      let s := signWith b 6 wh est flags s
      let cost := x.cost.toNat
      (s.onBil b (fun y => { y with sesOpen := false })).onSes b (fun y =>
        { y with stopReason := 0x0F, num := x.sesNum, cost := cost, needsPricing := x.priced })
    else signWith b 5 wh est (readingFlags b false s ||| 0x10) s

/-- Readings of the boughs whose session or closed coils the loss of power cut (R419). -/
def interruptedReadings (s : State) : State :=
  match newestSave s with
  | none => s
  | some e => forBoughs (interruptedBough e) s

/-! ## P5 -/

/-- The local offset that the backup domain holds, as R21 takes it. -/
def takeOffset (s : State) : State := { s with bil.offset := localOffset s.bak.offset, bak.offset := localOffset s.bak.offset }

/-- The heartwood's work after its check value holds (R370, R397, R419, R420, R544). -/
def startHeartwood (s : State) : State :=
  let s := restoreEntry (takeOffset s)
  let (c1, s) := chooseCalendars s
  let (c2, s) := findChanges s
  let (act, s) := missedBoundaries s
  let s := { s with bil.rate := rateNow s }
  let s := interruptedReadings s
  let s := if act then forBoughs (fun b t => signReading b 4 t) s else s
  let s := if c1 || c2 || act then writeSave 4 s else s
  let s := releaseReadings s
  let s := restoreSnapNo s
  startDisplay (if bitOf s.tagCfg 27 then meterSnapshot s else s)

/-- PHASE_P5 (R370, R421, R674, R126). -/
def execPhaseP5 (s : State) : Res :=
  if !atPhase s 5 then .next s
  else if loadFailed s then .next (stopStart 5 0x09 s)
  else match pickBank s 2 with
    | none =>
      let n := activeArea (dirNow s) 2
      .next (stopStart 5 0x09 (checkPage n false (loadHeartwood n s)))
    | some i =>
      let s := noteBank 2 i (loadHeartwood i s)
      .next (phaseDone 5 (startHeartwood (checkPage i true s)))

end Sys2Proof.Machine
end

