-- ==== Sys2Proof/Machine/Ready.lean ====
section
/-! DEFINITION. Phases P6 and P7: the wait for the supplies, the safety self-check, the ledger rebuilt from its journal,
interrupted sessions closed, READY (R119, R122, R125, R161, R226, R279, R369, R553, R684). -/

namespace Sys2Proof.Machine

/-! ## The safety self-check (R279) -/

/-- Steps 1 and 2: the heartbeat withheld and resumed. No coil is closed, and no trip is recorded (log entry 140). -/
def heartbeatTest (s : State) : State :=
  let first := s.safDev.fsCauses.isEmpty
  let s := if s.safDev.fsCauses.contains .wdog then s
    else { s with safDev.fsCauses := s.safDev.fsCauses ++ [.wdog], safDev.fsReport := 1 }
  let s := if first then emit 0x040A 255 (leN 1 1 ++ leN 1 1) s else s
  let beats := { s with safDev.hbMissed := 0, safDev.hbValid := 10, safDev.firstBeat := true }
  fsLeave .wdog beats

/-- Bough b's failed switches of a mask, as coil and side. -/
def badSwitches (m : BitVec 48) (b : Bough) : List (Fin 3 × Nat) :=
  (((List.finRange 48).filter (fun i => m.getLsbD i.val && switchBough i == b))).map (fun i => (switchCoil i, i.val % 2))

/-- The first step that bough b fails (R279). -/
def failedStep (c : SelfCheck) (b : Bough) : Option Nat :=
  if c.tripLineBad.getLsbD b.val then some 3
  else if !(badSwitches c.switchBad b).isEmpty then some 4
  else if !(badSwitches c.stuckOn b).isEmpty || c.contactClosed.getLsbD b.val || c.residualHigh.getLsbD b.val
      || c.insulationBad.getLsbD b.val then some 5
  else none

/-- Event 0x040C: the step; the bough is its header's (R292, R707). -/
def checkEvent (step bough : Nat) (s : State) : State := emit 0x040C bough (leN 1 step) s

/-- The failures of bough b latch their trip codes and hold it; a trip line has no code (R278, R279, log entry 141). -/
def checkBough (c : SelfCheck) (b : Bough) (s : State) : State :=
  match failedStep c b with
  | none => s
  | some step =>
    let s := (badSwitches c.switchBad b).foldl (fun t e => testFailed b e.1 e.2 2 13 t) s
    let s := (badSwitches c.stuckOn b).foldl (fun t e => testFailed b e.1 e.2 0 12 t) s
    let s := if c.contactClosed.getLsbD b.val then trip b 14 0 s else s
    let dc := s.meas[b].dcMa
    let s := if c.residualHigh.getLsbD b.val then trip b (if 3 ≤ dc.natAbs then 5 else 3) dc s else s
    let s := if c.insulationBad.getLsbD b.val then trip b 8 0 s else s
    checkEvent step b.val (holdAtStart b s)

/-- The step of the whole device that failed: 1, 2, or the link, which step 2 depends on. -/
def deviceStep (c : SelfCheck) : Option Nat := if !c.lossSeen then some 1 else if !c.leftFailsafe || !c.linkOk then some 2 else none

/-- The results of steps 3 to 5 recorded (R279). -/
def selfCheck (c : SelfCheck) (s : State) : State :=
  let passed := !c.estopDiffer && allBoughs.all (fun b => (failedStep c b).isNone)
  let s := forBoughs (checkBough c) (heartbeatTest s)
  let s := if c.estopDiffer then checkEvent 5 255 s else s
  let s := if passed then checkEvent 0 255 s else s
  { s with start.selfChecked := true }

/-! ## The ledger (R226) -/

/-- The half to rebuild from: a valid header with the higher GENERATION. -/
def liveHalf (s : State) : Option Nat :=
  let a := halfAt s 0
  let b := halfAt s 1
  if a.headOk && b.headOk then some (if a.generation < b.generation then 1 else 0)
  else if a.headOk then some 0
  else if b.headOk then some 1
  else none

/-- Entries up to the first that fails its CRC. -/
def goodEntries (h : Half) : List JEntry := h.entries.takeWhile (·.crcOk)

/-- The ledger bank's cells: the snapshot with the entries replayed in order. -/
def replay (h : Half) : List Host.Cell :=
  (goodEntries h).foldl (fun m e => memPuts zeroB m (16 * e.slot) (padTo 16 e.record)) h.snapshot

/-- The ledger bank rebuilt; none when the journal is unreadable in both halves (R126, R226). -/
def rebuildLedger (s : State) : Option State :=
  match liveHalf s with
  | some i =>
    let h := halfAt s i
    let bank := (replay h).map (fun c => (c.1 + 0x01000000, c.2))
    some { s with mem.cells := memMerge zeroB s.mem.cells bank, nv.flash.active := i, start.ledgerBuilt := true,
                  nv.flash.half := modN s.nv.flash.half i (fun x => { x with entries := goodEntries h }) }
  | none =>
    if (halfAt s 0).erased && (halfAt s 1).erased then
      some (emit 0x030B 255 (leN 1 0 ++ leN 4 1) { s with
        nv.flash.half := modN s.nv.flash.half 0 (fun _ =>
          { snapshot := bankCells s, erased := false, headOk := true, generation := 1 }),
        nv.flash.active := 0, start.ledgerBuilt := true })
    else none

/-- The newest journal entry that a session left (R369). -/
def sessionEntry (s : State) (num : Nat) : Option JEntry :=
  (halfAt s s.nv.flash.active).entries.reverse.find? (fun e =>
    match e.session with
    | some (n, _, _) => n == num
    | none => false)

/-- The close of an interrupted session: what its journal does not show is debited; event 0x0305 (R215, R369, R419). -/
def closeInterrupted (b : Bough) (s : State) : State :=
  if s.ses[b].stopReason ≠ 0x0F then s
  else
    let s := match sessionEntry s s.ses[b].num with
      | some e =>
        match e.session with
        | some (_, debited, used) =>
          let s := s.onSes b (fun x => { x with slot := some e.slot, debited := debited, ecUsed := used })
          journalFor b e.slot (debitSession b s)
        | none => s
      | none => s
    let x := s.ses[b]
    let s := emitAtStart 0x0305 b.val (leN 4 x.num ++ leN 1 0x0F ++ leN 6 x.cost ++ leN 6 x.debited) s
    s.onSes b (fun x => { num := x.num, stopReason := x.stopReason, cost := x.cost })

/-! ## P6 and P7 -/

/-- VPWR, VPOS12 and VNEG12 are in range (R119). -/
def startSupplies (s : State) : Bool := [5, 6, 7].all (fun i => s.supply.inRange.getLsbD i)

/-- PHASE_P6 (R119, R125, R126, R226, R279, R369). -/
def execPhaseP6 (c : SelfCheck) (s : State) : Res :=
  if !atPhase s 6 || s.start.waitSupply then .next s
  else if loadFailed s then .next (stopStart 6 0x0B s)
  else if !startSupplies s then .next { s with start.waitSupply := true }
  else match deviceStep c with
    | some step => .next (stopStart 6 0x0A (checkEvent step 255 s))
    | none =>
      let s := selfCheck c s
      match rebuildLedger s with
      | none => .next (stopStart 6 0x0B s)
      | some s => .next (phaseDone 6 (forBoughs closeInterrupted s))

/-- WAIT_SUPPLY_END (R119, R161): the three supplies, and whatever tripped during P6, are back in range. -/
def execWaitSupplyEnd (s : State) : Res :=
  if s.start.phase = 6 ∧ s.start.waitSupply ∧ startSupplies s ∧ s.supply.tripped &&& s.start.waitFor = 0 then
    .next { s with start.waitSupply := false, start.waitFor := 0 }
  else .next s

/-- The service request page raised while the device had no power (R553). -/
def serviceRequest (s : State) : State :=
  let p := tagPage s 64
  if byteAt p 0 = 1 then emitAtStart 0x0B02 255 (p.take 16) s else s

/-- ACTIVE of the start stop summary written 0 (R658). -/
def clearSummary (s : State) : State :=
  let p := tagPage s 2
  if crcHolds p && byteAt p 6 = 1 then tagWritePage 2 (p.take 6 ++ leN 1 0 ++ bytesAt p 7 53) s else s

/-- PHASE_P7 (R121, R122, R444, R506, R553, R684): the device is ready. -/
def execPhaseP7 (startMs : Nat) (s : State) : Res :=
  if !(s.start.phase == 7 && s.start.done == 7) then .next s
  else
    let s := { s with start.done := 8, start.startMs := min 2047 startMs }
    let s := emit 0x010D 255 (leN 2 s.start.startMs ++ leN 1 s.start.ronifSlot ++ leN 1 s.start.fwBank
      ++ leN 1 s.start.hwBank) s
    let s := { s with aux := s.aux.map (fun a => { a with fsFault := false, on := a.on && auxFailsafe s }) }
    let s := auxAll (auxEdge (driveAll (raiseIrq 0 s)))
    let s := if cnpMayRun s then cnpListen 1 s else s
    let s := clearSummary (serviceRequest s)
    .next (if s.start.trial then { s with upd.endAt := s.lat.optime + minuteTicks * fld s.updCfg 15 8 } else s)

end Sys2Proof.Machine
end

