-- ==== Sys2Proof/Machine/HostPort.lean ====
section
/-! DEFINITION. The commands of the host port: writes, the command queue and its dispatch, the event queue, the link's
counters and the port's own commands (R697 to R735). -/

namespace Sys2Proof.Machine

/-! ## The port's own commands (R727) -/

/-- HST_RESTART (R727, R733): an internal reset; another body the port refuses before the command reaches it (R710). -/
def execHstRestart (h : CmdHdr) (body : List Byte) (s : State) : Res :=
  let _ := h
  if bytesAt body 0 4 = ascii "RSTR" then .next (deviceReset s) else .next s

/-- HST_ECHO (R727). -/
def execHstEcho (h : CmdHdr) (body : List Byte) (s : State) : Res := .next (answer 0x0002 255 h.tag body s)

/-! ## Transactions -/

/-- What an opcode on HSIO0 begins: none for one that the port does not know; a write (true) or a read, on one lane or on
four (R697). -/
def hostOpcode (op : Nat) : Option (Bool × Nat) :=
  match op with
  | 0x02 => some (true, 1)
  | 0x0B => some (false, 1)
  | 0x32 => some (true, 4)
  | 0xEB => some (false, 4)
  | _ => none

/-- The values of the lanes at the clocks that carry a byte: bit by bit on one lane, most significant first; two nibbles
on four, the high one first, HSIO3 its most significant bit (R698). -/
def onLanes (lanes : Nat) (b : Byte) : List Nat :=
  if lanes = 4 then [b.toNat / 16, b.toNat % 16] else (List.range 8).map (fun i => b.toNat / 2 ^ (7 - i) % 2)

/-- The address of a transaction, most significant byte first (R698). -/
def addressBytes (a : Nat) : List Byte := beN 3 a

/-- What the device drives in a read of n bytes: wait bytes of 0x00, the marker 0xA5, then the data at rising addresses
across the windows (R699). How many bytes it waits is a matter of time, which the model leaves out. -/
def readStream (s : State) (waits a n : Nat) : List Byte :=
  List.replicate waits 0x00 ++ 0xA5 :: (List.range n).map (fun i => hostByte s ((a + i) % 0x1000000))

/-- HCSN is high again: a row of a transaction stands for all of it (log entry 150). -/
def endTransaction (s : State) : State := { s with host.csLow := false }

/-- The global registers and the live status mirror are open (R126, R704). -/
def globalOpen (s : State) : Bool := decide (1 ≤ s.start.done) || s.stopped

/-- n writes counted in IGNORED (R700, R724). -/
def countIgnored (n : Nat) (s : State) : State := { s with host.ignoredW := min 65535 (s.host.ignoredW + n) }

/-- HOST_BAD_OPCODE (R697). -/
def execHostBadOpcode (s : State) : Res := .next (endTransaction { s with host.badOp := min 255 (s.host.badOp + 1) })

/-- HCSN_CUT (R703). -/
def execHcsnCut (s : State) : Res := .next (endTransaction { s with host.cut := min 255 (s.host.cut + 1) })

/-- HCSN_FALLING (R734): a running host-port slice ends, its count is taken back and it is retried later. -/
def execHcsnFalling (s : State) : Res :=
  let s := { s with host.csLow := true }
  if s.host.bistRunning then
    .next { s with host.bistRunning := false, host.bistRetry := true, mem.part := 15,
                   mem.slices := modN s.mem.slices 3 (· - 1) }
  else .next s

/-! ## Registers that act on a write -/

/-- Latched sources cleared by writing 1 (R718, R721). -/
def clearIrq (mask : BitVec 32) (s : State) : State :=
  if globalOpen s then { s with host.irq := s.host.irq &&& ~~~(mask.setWidth 12 &&& latchedMask) } else s

/-- HST_COMMIT_DONE bits cleared by writing 1 (R722). -/
def clearDone (mask : BitVec 32) (s : State) : State :=
  if globalOpen s then { s with host.doneC := s.host.doneC &&& ~~~(mask.setWidth 16) } else s

/-- RELEASE: state 3 of the bulk window ends (R716, R725). -/
def releaseBulk (s : State) : State :=
  if globalOpen s && s.host.bulkState == 3 then { s with host.bulkState := 0 } else s

/-- HST_IRQ_CLEAR (R721). -/
def execHstIrqClear (mask : BitVec 32) (s : State) : Res := .next (endTransaction (clearIrq mask s))

/-- HST_COMMIT_DONE_CLEAR (R722). -/
def execHstCommitDoneClear (mask : BitVec 32) (s : State) : Res := .next (endTransaction (clearDone mask s))

/-- BULK_RELEASE (R725). -/
def execBulkRelease (s : State) : Res := .next (endTransaction (releaseBulk s))

/-- A global register written whole; one with no writable field is counted (R700, R719 to R725). -/
def actGlobal (o : Nat) (v : BitVec 32) (s : State) : State :=
  match o with
  | 0x08 => clearIrq v s
  | 0x0C => { s with host.irqEn := v.setWidth 12 }
  | 0x10 => acceptCommits (v.setWidth 16) s
  | 0x14 => clearDone v s
  | 0x28 => if v.getLsbD 31 then releaseBulk s else s
  | 0x30 => { s with host.scratch := v }
  | _ => countIgnored 1 s

/-! ## The window map (R704) -/

/-- A register lies at offset o of the live status mirror (the register tables of every chapter). -/
def liveMapped (o : Nat) : Bool :=
  let r := o % 0x100
  match o / 0x100 with
  | 0x1 => decide (r ≤ 0x28)
  | 0x2 => decide (r < 0x80)
  | 0x3 => decide (r ≤ 0x84)
  | 0x4 => (decide (r < 0x80) && decide (r % 16 ≤ 4)) || r == 0x80
  | 0x5 => decide (r < 0x80) && decide (r % 16 ≤ 8)
  | 0x6 => true
  | 0x7 => decide (r < 0x40)
  | 0x8 => decide (r ≤ 0x80)
  | 0x9 => r == 0
  | 0xA => decide (r ≤ 0xC)
  | 0xB => r == 0
  | 0xC => decide (r ≤ 8)
  | 0xD => decide (r ≤ 0x14)
  | 0xE => decide (r ≤ 8)
  | 0xF => decide (r ≤ 8)
  | _ => false

/-- A register of the global registers or the live status mirror lies at the word at a. -/
def registerAt (a : Nat) : Bool := decide (a < 0x38) || (a / 0x1000 == 0x30 && liveMapped (a % 0x1000))

/-- The offset lies in no window, or in an open window of registers where no register is (R700, R704, R719). -/
def unmapped (s : State) (a : Nat) : Bool :=
  if a < 0x100 ∨ a / 0x1000 = 0x30 then globalOpen s && !registerAt (a - a % 4)
  else !(decide (0x1000 ≤ a ∧ a < 0x4000) || a / 0x10000 == 1 || decide (0x20000 ≤ a ∧ a < 0x24000)
    || decide (0x40000 ≤ a ∧ a < 0x80000))

/-- Runs of consecutive bytes of a transaction that lie at unmapped offsets (R700). -/
def unmappedRuns (s : State) (addr n : Nat) : Nat :=
  ((List.range n).filter (fun i => unmapped s (addr + i) && (i == 0 || !unmapped s (addr + i - 1)))).length

/-- The part of a transaction that lies from lo to below hi: its first offset and its bytes. -/
def partIn (lo hi addr : Nat) (bs : List Byte) : Nat × List Byte :=
  (max lo addr, (bs.drop (lo - addr)).take (hi - max lo addr))

/-- The word at a of the global registers or the mirror takes the part of the transaction that it gets: whole it acts, in
part it is ignored and counted (R700). -/
def writeWord (addr : Nat) (bs : List Byte) (a : Nat) (s : State) : State :=
  if !registerAt a then s
  else if addr ≤ a ∧ a + 4 ≤ addr + bs.length then
    (if a < 0x100 then actGlobal a (BitVec.ofNat 32 (leAt bs (a - addr) 4)) s else countIgnored 1 s)
  else countIgnored 1 s

/-- Words of registers that a transaction touches from lo to below hi, rising. -/
def touchedWords (lo hi addr n : Nat) : List Nat :=
  ((List.range ((hi - lo) / 4)).map (fun i => lo + 4 * i)).filter (fun a => decide (addr < a + 4) && decide (a < addr + n))

/-- The registers of a window written (R700). -/
def writeRegs (lo hi addr : Nat) (bs : List Byte) (s : State) : State :=
  if globalOpen s then (touchedWords lo hi addr bs.length).foldl (fun t a => writeWord addr bs a t) s else s

/-- Bytes written to the shadow pages (R140, R141). -/
def writeShadow (a : Nat) (bs : List Byte) (s : State) : State :=
  if s.open3 then { s with host.shadow := pagePuts s.host.shadow (a - 0x10000) bs } else s

/-- A page of the tag mirror that the host may write (R539). -/
def hostPage (p : Nat) : Bool := p == 64 || (decide (72 ≤ p) && decide (p ≤ 191))

/-- A number put in its place in a rising list. -/
def insertNat (n : Nat) : List Nat → List Nat
  | [] => [n]
  | x :: xs => if n < x then n :: x :: xs else if n = x then x :: xs else x :: insertNat n xs

/-- Bytes written to the tag mirror: only the mirror changes, and the bytes are marked (R550). -/
def writeMirror (a : Nat) (bs : List Byte) (s : State) : State :=
  if !s.open2 then s
  else ((List.range bs.length).zip bs).foldl (fun t e =>
    let o := a - 0x20000 + e.1
    if hostPage (o / 64) then
      { t with tag.mirror := memPut zeroB t.tag.mirror o e.2, tag.marked := insertNat o t.tag.marked }
    else t) s

/-- Bytes written to the bulk window: ignored and counted while a command holds it (R716). -/
def writeBulk (a : Nat) (bs : List Byte) (s : State) : State :=
  if !s.open2 || bs.isEmpty then s
  else if bulkHeld s then countIgnored 1 s
  else { s with host.bulk := memPuts zeroB s.host.bulk (a - 0x40000) bs }

/-! ## The command queue (R709) -/

/-- A message discarded at HCSN rising. bs are the bytes received from window offset a on, of which those of the header
give TYPE and TAG (R709, R728). -/
def discardCommand (reason a : Nat) (bs : List Byte) (s : State) : State :=
  let whole := a == 0x1000 && decide (8 ≤ bs.length)
  let hasTag := decide (a ≤ 0x1006) && decide (0x1008 ≤ a + bs.length)
  let tag := if hasTag then leAt bs (0x1006 - a) 2 else 0
  let s := { s with host.dropped := min 255 (s.host.dropped + 1), host.lastReason := reason }
  raiseIrq 9 (answer 0x0004 255 tag (leN 1 reason ++ leN 2 (if whole then msgType bs else 0)) s)

/-- The bytes of a transaction that started in the command queue's window at a. -/
def queueCommand (a : Nat) (bs : List Byte) (s : State) : State :=
  if !s.open2 then s
  else if a ≠ 0x1000 ∨ bs.length < 8 ∨ bs.length < 8 + msgLen bs then discardCommand 6 a bs s
  else if 16384 - cqUsed s < 8 + msgLen bs then discardCommand 5 a bs s
  else { s with host.cq := s.host.cq ++ [bs.take (8 + msgLen bs)] }

/-- An offset of the command queue's window. -/
def inQueueWindow (a : Nat) : Bool := decide (0x1000 ≤ a) && decide (a < 0x2000)

/-- COMMAND_QUEUE_WRITE (R709). -/
def execCommandQueueWrite (addr : Nat) (bytes : List Byte) (s : State) : Res :=
  .next (endTransaction (if inQueueWindow addr then queueCommand addr bytes s else s))

/-- Bytes of a transaction that started outside the queue's window and ran into it (R709). -/
def strayCommand (a : Nat) (bs : List Byte) (s : State) : State :=
  if s.open2 && !bs.isEmpty then discardCommand 6 a bs s else s

/-- The bytes of one write, the windows in rising order (R700, R704). -/
def writeSpan (addr : Nat) (bs : List Byte) (s : State) : State :=
  let s := countIgnored (unmappedRuns s addr bs.length) s
  let s := writeRegs 0 0x100 addr bs s
  let q := partIn 0x1000 0x2000 addr bs
  let s := strayCommand q.1 q.2 s
  let p := partIn 0x10000 0x20000 addr bs
  let s := writeShadow p.1 p.2 s
  let t := partIn 0x20000 0x24000 addr bs
  let s := writeMirror t.1 t.2 s
  let s := writeRegs 0x30000 0x31000 addr bs s
  let b := partIn 0x40000 0x80000 addr bs
  writeBulk b.1 b.2 s

/-- REGISTER_WRITE (R140, R141, R550, R700, R716): one write transaction; the 24-bit address goes on from 0 after its
end. -/
def execRegisterWrite (addr : Nat) (bytes : List Byte) (s : State) : Res :=
  let a := addr % 0x1000000
  if inQueueWindow a then .next (endTransaction (queueCommand a bytes s))
  else
    let s := writeSpan a (bytes.take (0x1000000 - a)) s
    let rest := bytes.drop (0x1000000 - a)
    .next (endTransaction (if rest.isEmpty then s else writeSpan 0 rest s))

/-! ## Dispatch (R709, R710, R729, R735) -/

/-- A command of the host passed to its subsystem. -/
def runHost (i : Instr) (s : State) : Res :=
  match i with
  | .sesAuthAccept h remote amount expiry ident => execSesAuthAccept h remote amount expiry ident s
  | .sesAuthRefuse h ident => execSesAuthRefuse h ident s
  | .sesIdent h credential => execSesIdent h credential s
  | .sesStop h => execSesStop h s
  | .sesGrant h amount expiry => execSesGrant h amount expiry s
  | .sesCeiling h watts validity => execSesCeiling h watts validity s
  | .sesCreditAdd h digest amount => execSesCreditAdd h digest amount s
  | .sesCreditSet h digest amount => execSesCreditSet h digest amount s
  | .sesCreditCreate h digest flags amount => execSesCreditCreate h digest flags amount s
  | .sesCreditDelete h digest => execSesCreditDelete h digest s
  | .sesCreditSetFlags h digest flags => execSesCreditSetFlags h digest flags s
  | .sesLedgerLoadMerge h count => execSesLedgerLoadMerge h count s
  | .sesLedgerLoadReplace h count => execSesLedgerLoadReplace h count s
  | .safClear h mask => execSafClear h mask s
  | .safHoldSet h => execSafHoldSet h s
  | .safHoldRelease h => execSafHoldRelease h s
  | .mtrCal h mask n ref raw => execMtrCal h mask n ref raw s
  | .mtrSwapHot h ch => execMtrSwapHot h ch s
  | .mtrSwapReturn h ch => execMtrSwapReturn h ch s
  | .mtrSwapAbort h ch => execMtrSwapAbort h ch s
  | .mtrSwapReadmit h ch => execMtrSwapReadmit h ch s
  | .nrgRead h => execNrgRead h s
  | .bilTimeSet h utc offset => execBilTimeSet h utc offset s
  | .bilReadAck h no => execBilReadAck h no s
  | .bilReadNow h => execBilReadNow h s
  | .bilInfo h => execBilInfo h s
  | .bilReadGet h first count => execBilReadGet h first count s
  | .auxSet h mask duty => execAuxSet h mask duty s
  | .auxClear h mask => execAuxClear h mask s
  | .cnpSend h dst cls data => execCnpSend h dst cls data s
  | .tagFlush h badPage => execTagFlush h badPage s
  | .keyChallenge h => execKeyChallenge h s
  | .keyLifecycle h target nonce tag => execKeyLifecycle h target nonce tag s
  | .keyInstall h slot nonce enc tag => execKeyInstall h slot nonce enc tag s
  | .keyInfo h => execKeyInfo h s
  | .memInjectMode0 h ramMacro data => execMemInjectMode0 h ramMacro data s
  | .memInjectMode1 h => execMemInjectMode1 h s
  | .memMapGet h => execMemMapGet h s
  | .logRead h ring first limit => execLogRead h ring first limit s
  | .logClear h scope => execLogClear h scope s
  | .logDumpRead h slot off => execLogDumpRead h slot off s
  | .logDumpAck h mask => execLogDumpAck h mask s
  | .logHistGet h => execLogHistGet h s
  | .updBegin h header => execUpdBegin h header s
  | .updChunk h off len => execUpdChunk h off len s
  | .updEnd h => execUpdEnd h s
  | .updSchedule h mode value => execUpdSchedule h mode value s
  | .updConfirm h => execUpdConfirm h s
  | .updAbort h => execUpdAbort h s
  | .hstRestart h body => execHstRestart h body s
  | .hstEcho h body => execHstEcho h body s
  | _ => .next s

/-- The first reason of R710 for which a queued command is refused. -/
def refusal (s : State) (m : List Byte) : Option Nat :=
  let t := msgType m
  if !typeKnown t then some 1
  else if 4088 < msgLen m then some 2
  else if !acceptedNow s t then some 3
  else if boughFromHeader t && t / 256 % 16 != 3 && decide (7 < (msgHdr m).bough) then some 4
  else if refusedBusy t && bulkHeld s then some 7
  else if t = 0x8001 ∧ bytesAt (msgBody m) 0 4 ≠ ascii "RSTR" then some 8
  else none

/-- COMMAND_DISPATCH (R709, R710, R735): the oldest queued command, refused with event 0x0001 or passed on. -/
def execCommandDispatch (s : State) : Res :=
  match s.host.cq with
  | [] => .next s
  | m :: rest =>
    let s := { s with host.cq := rest }
    match refusal s m with
    | some r =>
      .next (answer 0x0001 255 (msgHdr m).tag (leN 2 (msgType m) ++ leN 1 r ++ leN 1 (msgSeq m))
        { s with host.dropped := min 255 (s.host.dropped + 1), host.lastReason := r })
    | none =>
      let s := { s with host.accepted := min 65535 (s.host.accepted + 1) }
      match hostInstr m with
      | some i => runHost i s
      | none => .fault (.undefinedBodyValue "COMMAND_DISPATCH")

/-! ## The event queue (R713) -/

/-- The messages that a read of n bytes takes whole are gone. -/
def takeWhole : Nat → List Msg → List Msg
  | _, [] => []
  | n, m :: ms => if 8 + m.body.length ≤ n then takeWhole (n - (8 + m.body.length)) ms else m :: ms

/-- EVENT_QUEUE_READ (R713): the window holds 4 KiB of the stream. -/
def execEventQueueRead (addr len : Nat) (s : State) : Res :=
  let s := endTransaction s
  if s.open2 && addr == 0x2000 then .next { s with host.eq := takeWhole (min len 0x1000) s.host.eq } else .next s

end Sys2Proof.Machine
end

