-- ==== Sys2Proof/Machine/Dispatch.lean ====
section
/-! DEFINITION. The effect of each command, one arm for each row of the command table. -/

namespace Sys2Proof.Machine

def exec (i : Instr) (s : State) : Host.Outcome State Fault Refusal :=
  match i with
  | .latticeTick t busy => Sys2Proof.Machine.execLatticeTick t busy s
  | .trunkFlit seg offers errs => Sys2Proof.Machine.execTrunkFlit seg offers errs s
  | .laneFailed seg => Sys2Proof.Machine.execLaneFailed seg s
  | .spareLanePattern bad => Sys2Proof.Machine.execSpareLanePattern bad s
  | .paceCount counts => Sys2Proof.Machine.execPaceCount counts s
  | .crystalCheck count => Sys2Proof.Machine.execCrystalCheck count s
  | .cryptoRequest r => Sys2Proof.Machine.execCryptoRequest r s
  | .heartwoodMailboxWrite m => Sys2Proof.Machine.execHeartwoodMailboxWrite m s
  | .sampleFrame bs => Sys2Proof.Machine.execSampleFrame bs s
  | .energyResultAccept b kind => Sys2Proof.Machine.execEnergyResultAccept b kind s
  | .supplyTrip id high => Sys2Proof.Machine.execSupplyTrip id high s
  | .supplyRecovery id => Sys2Proof.Machine.execSupplyRecovery id s
  | .backupSwitchover toVbak => Sys2Proof.Machine.execBackupSwitchover toVbak s
  | .dieTempUpdate logic mixed power => Sys2Proof.Machine.execDieTempUpdate logic mixed power s
  | .powerDieThermalShutdown temp => Sys2Proof.Machine.execPowerDieThermalShutdown temp s
  | .resetnLow ns => Sys2Proof.Machine.execResetnLow ns s
  | .resetRelease viohMv pllLocks => Sys2Proof.Machine.execResetRelease viohMv pllLocks s
  | .phaseP1 fusesOk readBackAt => Sys2Proof.Machine.execPhaseP1 fusesOk readBackAt s
  | .phaseP2 t => Sys2Proof.Machine.execPhaseP2 t s
  | .phaseP6 c => Sys2Proof.Machine.execPhaseP6 c s
  | .phaseP7 startMs => Sys2Proof.Machine.execPhaseP7 startMs s
  | .commitAccept req => Sys2Proof.Machine.execCommitAccept req s
  | .commitApply sub => Sys2Proof.Machine.execCommitApply sub s
  | .commitBoughApply sub b => Sys2Proof.Machine.execCommitBoughApply sub b s
  | .registerWrite addr bytes => Sys2Proof.Machine.execRegisterWrite addr bytes s
  | .plateauValue b positive mv => Sys2Proof.Machine.execPlateauValue b positive mv s
  | .pilotFaultProbe b mvs => Sys2Proof.Machine.execPilotFaultProbe b mvs s
  | .proximityMean b => Sys2Proof.Machine.execProximityMean b s
  | .cmSlacParmReq mac runId atten => Sys2Proof.Machine.execCmSlacParmReq mac runId atten s
  | .cmStartAttenCharInd mac runId atten => Sys2Proof.Machine.execCmStartAttenCharInd mac runId atten s
  | .cmMnbcSoundInd mac runId atten erased groups => Sys2Proof.Machine.execCmMnbcSoundInd mac runId atten erased groups s
  | .soundingEnd mac runId => Sys2Proof.Machine.execSoundingEnd mac runId s
  | .cmSlacMatchReq mac runId => Sys2Proof.Machine.execCmSlacMatchReq mac runId s
  | .cmValidateReq b count => Sys2Proof.Machine.execCmValidateReq b count s
  | .validateCountEnd b => Sys2Proof.Machine.execValidateCountEnd b s
  | .slacWindowExpired b => Sys2Proof.Machine.execSlacWindowExpired b s
  | .staggerRelease b => Sys2Proof.Machine.execStaggerRelease b s
  | .modemFrameReceived b symbols fcOk blocks => Sys2Proof.Machine.execModemFrameReceived b symbols fcOk blocks s
  | .selectiveAckReceived b failed => Sys2Proof.Machine.execSelectiveAckReceived b failed s
  | .modemFrameTransmit port symbols built blocks medium => Sys2Proof.Machine.execModemFrameTransmit port symbols built blocks medium s
  | .seccDiscoveryReq b linkLocal udpPort => Sys2Proof.Machine.execSeccDiscoveryReq b linkLocal udpPort s
  | .supportedAppProtocol b conn list tlsAsked suites => Sys2Proof.Machine.execSupportedAppProtocol b conn list tlsAsked suites s
  | .v2gRequest b r => Sys2Proof.Machine.execV2gRequest b r s
  | .paymentDetailsReq b emaid subCas chainOk inDate => Sys2Proof.Machine.execPaymentDetailsReq b emaid subCas chainOk inDate s
  | .cableCheckReq b => Sys2Proof.Machine.execCableCheckReq b s
  | .powerDeliveryReq b k => Sys2Proof.Machine.execPowerDeliveryReq b k s
  | .sessionStopReq b => Sys2Proof.Machine.execSessionStopReq b s
  | .certificateInstallationReq b => Sys2Proof.Machine.execCertificateInstallationReq b s
  | .v2gTimerExpired b k => Sys2Proof.Machine.execV2gTimerExpired b k s
  | .hostWaitExpired b => Sys2Proof.Machine.execHostWaitExpired b s
  | .authHoldExpired b => Sys2Proof.Machine.execAuthHoldExpired b s
  | .creditCheck b => Sys2Proof.Machine.execCreditCheck b s
  | .grantExpired b => Sys2Proof.Machine.execGrantExpired b s
  | .hostCeilingExpired b => Sys2Proof.Machine.execHostCeilingExpired b s
  | .ceilingBelowMinimum b => Sys2Proof.Machine.execCeilingBelowMinimum b s
  | .stopWaitEnd b => Sys2Proof.Machine.execStopWaitEnd b s
  | .powerRequest b => Sys2Proof.Machine.execPowerRequest b s
  | .currentAllowanceExpired b => Sys2Proof.Machine.execCurrentAllowanceExpired b s
  | .sesAuthAccept h remote amount expiry ident => Sys2Proof.Machine.execSesAuthAccept h remote amount expiry ident s
  | .sesAuthRefuse h ident => Sys2Proof.Machine.execSesAuthRefuse h ident s
  | .sesIdent h credential => Sys2Proof.Machine.execSesIdent h credential s
  | .sesStop h => Sys2Proof.Machine.execSesStop h s
  | .sesGrant h amount expiry => Sys2Proof.Machine.execSesGrant h amount expiry s
  | .sesCeiling h watts validity => Sys2Proof.Machine.execSesCeiling h watts validity s
  | .sesCreditAdd h digest amount => Sys2Proof.Machine.execSesCreditAdd h digest amount s
  | .sesCreditSet h digest amount => Sys2Proof.Machine.execSesCreditSet h digest amount s
  | .sesCreditCreate h digest flags amount => Sys2Proof.Machine.execSesCreditCreate h digest flags amount s
  | .sesCreditDelete h digest => Sys2Proof.Machine.execSesCreditDelete h digest s
  | .sesCreditSetFlags h digest flags => Sys2Proof.Machine.execSesCreditSetFlags h digest flags s
  | .sesLedgerLoadMerge h count => Sys2Proof.Machine.execSesLedgerLoadMerge h count s
  | .sesLedgerLoadReplace h count => Sys2Proof.Machine.execSesLedgerLoadReplace h count s
  | .closingSequence b k => Sys2Proof.Machine.execClosingSequence b k s
  | .dcClosingSequence b k => Sys2Proof.Machine.execDcClosingSequence b k s
  | .contactConfirmed b => Sys2Proof.Machine.execContactConfirmed b s
  | .closingConfirmTimeout b => Sys2Proof.Machine.execClosingConfirmTimeout b s
  | .prechargeComplete b => Sys2Proof.Machine.execPrechargeComplete b s
  | .ordinaryOpening b => Sys2Proof.Machine.execOrdinaryOpening b s
  | .secondRelease b => Sys2Proof.Machine.execSecondRelease b s
  | .weldCheck b k => Sys2Proof.Machine.execWeldCheck b k s
  | .weldRecheck b k => Sys2Proof.Machine.execWeldRecheck b k s
  | .switchTestSlot slot r => Sys2Proof.Machine.execSwitchTestSlot slot r s
  | .stuckOnCheck on => Sys2Proof.Machine.execStuckOnCheck on s
  | .coilCurrentLimit b k => Sys2Proof.Machine.execCoilCurrentLimit b k s
  | .coilOpenDetect b k => Sys2Proof.Machine.execCoilOpenDetect b k s
  | .coilSupplyLow b => Sys2Proof.Machine.execCoilSupplyLow b s
  | .emergencyStop mvA mvB => Sys2Proof.Machine.execEmergencyStop mvA mvB s
  | .sidePathSample b v => Sys2Proof.Machine.execSidePathSample b v s
  | .dcResidualPersistence b w => Sys2Proof.Machine.execDcResidualPersistence b w s
  | .bridgeStateEnd b => Sys2Proof.Machine.execBridgeStateEnd b s
  | .heartbeatSend disagree => Sys2Proof.Machine.execHeartbeatSend disagree s
  | .heartbeatFrame beat counter crcOk => Sys2Proof.Machine.execHeartbeatFrame beat counter crcOk s
  | .coreService c => Sys2Proof.Machine.execCoreService c s
  | .logicWatchdogExpired c => Sys2Proof.Machine.execLogicWatchdogExpired c s
  | .safClear h mask => Sys2Proof.Machine.execSafClear h mask s
  | .safHoldSet h => Sys2Proof.Machine.execSafHoldSet h s
  | .safHoldRelease h => Sys2Proof.Machine.execSafHoldRelease h s
  | .patrolVisitEnd b => Sys2Proof.Machine.execPatrolVisitEnd b s
  | .modulatorStuck b n => Sys2Proof.Machine.execModulatorStuck b n s
  | .reserveChainsFilled b => Sys2Proof.Machine.execReserveChainsFilled b s
  | .hotSwapFitStart b => Sys2Proof.Machine.execHotSwapFitStart b s
  | .hotSwapFitEnd b r => Sys2Proof.Machine.execHotSwapFitEnd b r s
  | .mtrCal h mask n ref raw => Sys2Proof.Machine.execMtrCal h mask n ref raw s
  | .mtrCalEnd b => Sys2Proof.Machine.execMtrCalEnd b s
  | .mtrSwapHot h ch => Sys2Proof.Machine.execMtrSwapHot h ch s
  | .mtrSwapReturn h ch => Sys2Proof.Machine.execMtrSwapReturn h ch s
  | .swapReturnCompareEnd b ppm => Sys2Proof.Machine.execSwapReturnCompareEnd b ppm s
  | .mtrSwapAbort h ch => Sys2Proof.Machine.execMtrSwapAbort h ch s
  | .mtrSwapReadmit h ch => Sys2Proof.Machine.execMtrSwapReadmit h ch s
  | .cycleEnd b before after => Sys2Proof.Machine.execCycleEnd b before after s
  | .noCrossingTimeout b => Sys2Proof.Machine.execNoCrossingTimeout b s
  | .noGridCycle b => Sys2Proof.Machine.execNoGridCycle b s
  | .meteringGapOpen b phase => Sys2Proof.Machine.execMeteringGapOpen b phase s
  | .saveTick slotFails halfFails => Sys2Proof.Machine.execSaveTick slotFails halfFails s
  | .nrgRead h => Sys2Proof.Machine.execNrgRead h s
  | .nrgReadReply b => Sys2Proof.Machine.execNrgReadReply b s
  | .gateSilence b => Sys2Proof.Machine.execGateSilence b s
  | .bilTimeSet h utc offset => Sys2Proof.Machine.execBilTimeSet h utc offset s
  | .bilReadAck h no => Sys2Proof.Machine.execBilReadAck h no s
  | .bilReadNow h => Sys2Proof.Machine.execBilReadNow h s
  | .bilInfo h => Sys2Proof.Machine.execBilInfo h s
  | .bilReadGet h first count => Sys2Proof.Machine.execBilReadGet h first count s
  | .auxSet h mask duty => Sys2Proof.Machine.execAuxSet h mask duty s
  | .auxClear h mask => Sys2Proof.Machine.execAuxClear h mask s
  | .inrushWindowEnd ch => Sys2Proof.Machine.execInrushWindowEnd ch s
  | .channelOvercurrent ch => Sys2Proof.Machine.execChannelOvercurrent ch s
  | .channelThermalFault ch temp => Sys2Proof.Machine.execChannelThermalFault ch temp s
  | .hotClear ch temp => Sys2Proof.Machine.execHotClear ch temp s
  | .retryRestart ch => Sys2Proof.Machine.execRetryRestart ch s
  | .retryCountReset ch => Sys2Proof.Machine.execRetryCountReset ch s
  | .lampCompensation ch vs => Sys2Proof.Machine.execLampCompensation ch vs s
  | .groupSupplyReturn g => Sys2Proof.Machine.execGroupSupplyReturn g s
  | .vlcdOutOfRange mv => Sys2Proof.Machine.execVlcdOutOfRange mv s
  | .czcEdge pairUs => Sys2Proof.Machine.execCzcEdge pairUs s
  | .beaconReceived f => Sys2Proof.Machine.execBeaconReceived f s
  | .joinRequest f => Sys2Proof.Machine.execJoinRequest f s
  | .memberTimeout station => Sys2Proof.Machine.execMemberTimeout station s
  | .canopyDataFrame f => Sys2Proof.Machine.execCanopyDataFrame f s
  | .canopyAck f mask => Sys2Proof.Machine.execCanopyAck f mask s
  | .toneMapFrame f num bits => Sys2Proof.Machine.execToneMapFrame f num bits s
  | .toneMapExpired station => Sys2Proof.Machine.execToneMapExpired station s
  | .statusFrame f => Sys2Proof.Machine.execStatusFrame f s
  | .ceilingFrame f => Sys2Proof.Machine.execCeilingFrame f s
  | .tripFrame f => Sys2Proof.Machine.execTripFrame f s
  | .cnpSend h dst cls data => Sys2Proof.Machine.execCnpSend h dst cls data s
  | .fieldArrived level => Sys2Proof.Machine.execFieldArrived level s
  | .reqb afi slots => Sys2Proof.Machine.execReqb afi slots s
  | .wupb afi slots => Sys2Proof.Machine.execWupb afi slots s
  | .slotMarker slot => Sys2Proof.Machine.execSlotMarker slot s
  | .attrib pupi cid => Sys2Proof.Machine.execAttrib pupi cid s
  | .tagRead first count => Sys2Proof.Machine.execTagRead first count s
  | .tagWrite page off data fin => Sys2Proof.Machine.execTagWrite page off data fin s
  | .tagArbiterGrant fieldWaits trunkWaits => Sys2Proof.Machine.execTagArbiterGrant fieldWaits trunkWaits s
  | .tagFlush h fin => Sys2Proof.Machine.execTagFlush h fin s
  | .keyChallenge h => Sys2Proof.Machine.execKeyChallenge h s
  | .keyLifecycle h target nonce tag => Sys2Proof.Machine.execKeyLifecycle h target nonce tag s
  | .keyInstall h slot nonce enc tag => Sys2Proof.Machine.execKeyInstall h slot nonce enc tag s
  | .keyInfo h => Sys2Proof.Machine.execKeyInfo h s
  | .tamperSample loopB cls level => Sys2Proof.Machine.execTamperSample loopB cls level s
  | .loopRearm loopB => Sys2Proof.Machine.execLoopRearm loopB s
  | .drbgHealthFail test => Sys2Proof.Machine.execDrbgHealthFail test s
  | .drbgRetest ok => Sys2Proof.Machine.execDrbgRetest ok s
  | .lbistSlice part granted sig => Sys2Proof.Machine.execLbistSlice part granted sig s
  | .marchSlice hard => Sys2Proof.Machine.execMarchSlice hard s
  | .memInjectMode0 h ramMacro data => Sys2Proof.Machine.execMemInjectMode0 h ramMacro data s
  | .memInjectMode1 h => Sys2Proof.Machine.execMemInjectMode1 h s
  | .memMapGet h => Sys2Proof.Machine.execMemMapGet h s
  | .histogramSample id => Sys2Proof.Machine.execHistogramSample id s
  | .dumpSlotErased slot => Sys2Proof.Machine.execDumpSlotErased slot s
  | .logRead h ring first limit => Sys2Proof.Machine.execLogRead h ring first limit s
  | .logClear h scope => Sys2Proof.Machine.execLogClear h scope s
  | .logDumpRead h slot off => Sys2Proof.Machine.execLogDumpRead h slot off s
  | .logDumpAck h mask => Sys2Proof.Machine.execLogDumpAck h mask s
  | .logHistGet h => Sys2Proof.Machine.execLogHistGet h s
  | .updBegin h header => Sys2Proof.Machine.execUpdBegin h header s
  | .updChunk h off len => Sys2Proof.Machine.execUpdChunk h off len s
  | .updEnd h => Sys2Proof.Machine.execUpdEnd h s
  | .updSchedule h mode value => Sys2Proof.Machine.execUpdSchedule h mode value s
  | .updConfirm h => Sys2Proof.Machine.execUpdConfirm h s
  | .updAbort h => Sys2Proof.Machine.execUpdAbort h s
  | .commandQueueWrite addr bytes => Sys2Proof.Machine.execCommandQueueWrite addr bytes s
  | .eventQueueRead addr len => Sys2Proof.Machine.execEventQueueRead addr len s
  | .hstIrqClear mask => Sys2Proof.Machine.execHstIrqClear mask s
  | .hstCommitDoneClear mask => Sys2Proof.Machine.execHstCommitDoneClear mask s
  | .hstRestart h body => Sys2Proof.Machine.execHstRestart h body s
  | .hstEcho h body => Sys2Proof.Machine.execHstEcho h body s
  | .channelLimitReached ch => Sys2Proof.Machine.execChannelLimitReached ch s
  | .calendarSecond => Sys2Proof.Machine.execCalendarSecond s
  | .calendarRangeEnd => Sys2Proof.Machine.execCalendarRangeEnd s
  | .pllLockLoss => Sys2Proof.Machine.execPllLockLoss s
  | .pllRecovery => Sys2Proof.Machine.execPllRecovery s
  | .cryptoOperationDone => Sys2Proof.Machine.execCryptoOperationDone s
  | .backupDomainLoss => Sys2Proof.Machine.execBackupDomainLoss s
  | .powerDieThermalRecovery => Sys2Proof.Machine.execPowerDieThermalRecovery s
  | .phaseP3 => Sys2Proof.Machine.execPhaseP3 s
  | .phaseP4 => Sys2Proof.Machine.execPhaseP4 s
  | .phaseP5 => Sys2Proof.Machine.execPhaseP5 s
  | .waitSupplyEnd => Sys2Proof.Machine.execWaitSupplyEnd s
  | .decisionWindowEnd => Sys2Proof.Machine.execDecisionWindowEnd s
  | .emergencyStopRelease => Sys2Proof.Machine.execEmergencyStopRelease s
  | .estopDiscrepancy => Sys2Proof.Machine.execEstopDiscrepancy s
  | .heartbeatPeriodMissed => Sys2Proof.Machine.execHeartbeatPeriodMissed s
  | .heartwoodConversion => Sys2Proof.Machine.execHeartwoodConversion s
  | .rateEvaluation => Sys2Proof.Machine.execRateEvaluation s
  | .billingBoundary => Sys2Proof.Machine.execBillingBoundary s
  | .readingRelease => Sys2Proof.Machine.execReadingRelease s
  | .checkValueRecompute => Sys2Proof.Machine.execCheckValueRecompute s
  | .isenseScanStep => Sys2Proof.Machine.execIsenseScanStep s
  | .displayUpdate => Sys2Proof.Machine.execDisplayUpdate s
  | .displayFrameStart => Sys2Proof.Machine.execDisplayFrameStart s
  | .vlcdAdjust => Sys2Proof.Machine.execVlcdAdjust s
  | .displayRestart => Sys2Proof.Machine.execDisplayRestart s
  | .updateTimeout => Sys2Proof.Machine.execUpdateTimeout s
  | .dispbtnPress => Sys2Proof.Machine.execDispbtnPress s
  | .dispbtnHold => Sys2Proof.Machine.execDispbtnHold s
  | .pageIdleReturn => Sys2Proof.Machine.execPageIdleReturn s
  | .lowPowerEntry => Sys2Proof.Machine.execLowPowerEntry s
  | .turnStart => Sys2Proof.Machine.execTurnStart s
  | .beaconListenEnd => Sys2Proof.Machine.execBeaconListenEnd s
  | .beaconMissed => Sys2Proof.Machine.execBeaconMissed s
  | .loadAllocation => Sys2Proof.Machine.execLoadAllocation s
  | .ceilingValidityExpired => Sys2Proof.Machine.execCeilingValidityExpired s
  | .tripFollowExpired => Sys2Proof.Machine.execTripFollowExpired s
  | .messageCounterRollover => Sys2Proof.Machine.execMessageCounterRollover s
  | .fieldLeft => Sys2Proof.Machine.execFieldLeft s
  | .tagPowerUp => Sys2Proof.Machine.execTagPowerUp s
  | .hltb => Sys2Proof.Machine.execHltb s
  | .tagInfo => Sys2Proof.Machine.execTagInfo s
  | .meterSnapshot => Sys2Proof.Machine.execMeterSnapshot s
  | .lifecycleApply => Sys2Proof.Machine.execLifecycleApply s
  | .maskRenewal => Sys2Proof.Machine.execMaskRenewal s
  | .oscillatorDetector => Sys2Proof.Machine.execOscillatorDetector s
  | .drbgReseed => Sys2Proof.Machine.execDrbgReseed s
  | .scrubRow => Sys2Proof.Machine.execScrubRow s
  | .heartwoodScrubRow => Sys2Proof.Machine.execHeartwoodScrubRow s
  | .fieldMapWrite => Sys2Proof.Machine.execFieldMapWrite s
  | .recordWrite => Sys2Proof.Machine.execRecordWrite s
  | .budgetWindowEnd => Sys2Proof.Machine.execBudgetWindowEnd s
  | .histogramSnapshot => Sys2Proof.Machine.execHistogramSnapshot s
  | .tagHistogramSummary => Sys2Proof.Machine.execTagHistogramSummary s
  | .fatalRestart => Sys2Proof.Machine.execFatalRestart s
  | .activationCondition => Sys2Proof.Machine.execActivationCondition s
  | .drainEnd => Sys2Proof.Machine.execDrainEnd s
  | .drainTimeout => Sys2Proof.Machine.execDrainTimeout s
  | .confirmationWindowEnd => Sys2Proof.Machine.execConfirmationWindowEnd s
  | .commandDispatch => Sys2Proof.Machine.execCommandDispatch s
  | .hostBadOpcode => Sys2Proof.Machine.execHostBadOpcode s
  | .hcsnCut => Sys2Proof.Machine.execHcsnCut s
  | .bulkRelease => Sys2Proof.Machine.execBulkRelease s
  | .czcEdgeAbsent => Sys2Proof.Machine.execCzcEdgeAbsent s
  | .hcsnFalling => Sys2Proof.Machine.execHcsnFalling s

end Sys2Proof.Machine
end

