-- ==== Sys2Proof/Safety.lean ====
section
/-! DEFINITION. The words in which claims are made: a command that completes, the parts of the state that a command may
change, memories in canonical form, and coils that a protection holds open. -/

namespace Sys2Proof.Safety

open Sys2Proof.Machine

/-- The command answers a next state, of which P holds. -/
def Completes (i : Instr) (s : State) (P : State → Prop) : Prop := ∃ t, exec i s = .next t ∧ P t

/-- TYPE, BOUGH, TAG and body of the last message of the event queue (R705). -/
def lastEvent (s : State) : Option (Nat × Nat × Nat × List Byte) :=
  s.host.eq.getLast?.map (fun m => (m.type, m.bough, m.tag, m.body))

/-- An answer of up to 8,184 bytes reaches the event queue: the window is open (R704), and the part that other events may
fill is not overrun (R714). -/
def CanAnswer (s : State) : Prop := s.open2 = true ∧ eqUsed s ≤ 57344

/-- An event that is no answer reaches the event queue with n bytes of body: the window is open, EVT_MASK selects its
subsystem, and the queue has room (R712, R714). -/
def CanReport (code n : Nat) (s : State) : Prop :=
  s.open2 = true ∧ bitOf s.hstCfg (code / 256) = true ∧ eqUsed s + 8 + n ≤ 57344

/-- The command answers a next state whose event queue ends with this event. -/
def Answers (i : Instr) (s : State) (code bough tag : Nat) (data : List Byte) : Prop :=
  Completes i s fun t => lastEvent t = some (code, bough, tag, data)

/-- The frame completes a message of a type, and the message opens to the body: the link hears it, does not refuse it at
its frame control, holds every other block of it, and its tag and key index hold (R495, R496, R513). -/
def Delivers (typ : Nat) (f : CnpRx) (body : List Byte) (s : State) : Prop :=
  hears s typ f = true ∧ frameReason s f = none ∧ ∃ msg u,
    collect f (deriveMap f (acknowledge f (noteCrx s))) = (some msg, u) ∧ keyAccepted u (fcKey f) = true
      ∧ openMsg u f msg = some body

/-- The parts of the state that frames speak of. Some lie within others: `coils` within `safety`, `stops`
within `powerDie`, `mirror` within `tag`, `cells` within `memory`. -/
inductive Part where
  | queue | free | trunk | lattice | crypto | supply | start | pages | commits | events | commands | bulk | link
  | ports | modems | association | sessions | powerLinks | sessionDev | coils | safety | measures | stops | powerDie
  | sampling | energy | averages | quantities | billed | heartwood | loads | loadDev | display | canopy | tag | mirror
  | keys | memory | cells | recorder | update | backup | fuses | lifecycle | flash | tagMem | stored
  deriving DecidableEq, Repr

/-- What the protections of R278 and R277 look at in a bough's safety state: which coils are driven, the latched trip
codes, the step of a closing sequence. -/
def coilView (f : SafBough) : Vector Bool 3 × List Nat × Closing := (f.coils.map (·.driven), f.latched, f.closing)

/-- The two states agree on the part. -/
def Part.same (p : Part) (s t : State) : Prop :=
  match p with
  | .queue => t.pending = s.pending
  | .free => t.freeCount = s.freeCount
  | .trunk => t.trunk = s.trunk
  | .lattice => t.lat = s.lat
  | .crypto => t.crypto = s.crypto
  | .supply => t.supply = s.supply
  | .start => t.start = s.start
  | .pages => (t.host.shadow, t.host.applied) = (s.host.shadow, s.host.applied)
  | .commits =>
    (t.host.snaps, t.host.pendingC, t.host.rejected, t.host.passed, t.host.doneC, t.host.safLeft, t.host.sesLeft,
      t.host.vehLeft, t.host.mtrLeft, t.host.nrgLeft, t.host.devLeft, t.host.superseded)
    = (s.host.snaps, s.host.pendingC, s.host.rejected, s.host.passed, s.host.doneC, s.host.safLeft, s.host.sesLeft,
      s.host.vehLeft, s.host.mtrLeft, s.host.nrgLeft, s.host.devLeft, s.host.superseded)
  | .events =>
    (t.host.eq, t.host.eqSeq, t.host.eqLost, t.host.lostNoted, t.host.irq)
    = (s.host.eq, s.host.eqSeq, s.host.eqLost, s.host.lostNoted, s.host.irq)
  | .commands =>
    (t.host.cq, t.host.accepted, t.host.dropped, t.host.lastReason)
    = (s.host.cq, s.host.accepted, s.host.dropped, s.host.lastReason)
  | .bulk =>
    (t.host.bulkState, t.host.bulkType, t.host.bulkLen, t.host.bulk)
    = (s.host.bulkState, s.host.bulkType, s.host.bulkLen, s.host.bulk)
  | .link =>
    (t.host.irqEn, t.host.scratch, t.host.ignoredW, t.host.badOp, t.host.cut, t.host.bistRunning, t.host.bistRetry,
      t.host.csLow)
    = (s.host.irqEn, s.host.scratch, s.host.ignoredW, s.host.badOp, s.host.cut, s.host.bistRunning, s.host.bistRetry,
      s.host.csLow)
  | .ports => t.ports = s.ports
  | .modems => t.links = s.links
  | .association => t.assoc = s.assoc
  | .sessions => t.ses = s.ses
  | .powerLinks => t.sesL = s.sesL
  | .sessionDev => t.sesDev = s.sesDev
  | .coils => t.saf.map coilView = s.saf.map coilView
  | .safety => t.saf = s.saf
  | .measures => t.meas = s.meas
  | .stops => (t.safDev.fsCauses, t.safDev.stop) = (s.safDev.fsCauses, s.safDev.stop)
  | .powerDie => t.safDev = s.safDev
  | .sampling => t.mtr = s.mtr
  | .energy => t.nrg = s.nrg
  | .averages => t.avg = s.avg
  | .quantities => t.nst = s.nst
  | .billed => t.bilB = s.bilB
  | .heartwood => t.bil = s.bil
  | .loads => t.aux = s.aux
  | .loadDev => t.auxDev = s.auxDev
  | .display => t.lcd = s.lcd
  | .canopy => t.canopy = s.canopy
  | .tag => t.tag = s.tag
  | .mirror => t.tag.mirror = s.tag.mirror
  | .keys => t.key = s.key
  | .memory => t.mem = s.mem
  | .cells => t.mem.cells = s.mem.cells
  | .recorder => t.log = s.log
  | .update => t.upd = s.upd
  | .backup => t.bak = s.bak
  | .fuses =>
    (t.nv.serial, t.nv.installSecret, t.nv.factoryMap, t.nv.rsvInput)
    = (s.nv.serial, s.nv.installSecret, s.nv.factoryMap, s.nv.rsvInput)
  | .lifecycle => t.nv.life = s.nv.life
  | .flash => t.nv.flash = s.nv.flash
  | .tagMem => t.nv.tagMem = s.nv.tagMem
  | .stored => (t.nv.fieldMap, t.nv.tagHdr, t.nv.fsTable) = (s.nv.fieldMap, s.nv.tagHdr, s.nv.fsTable)

/-- The number of a part in a mask. -/
def Part.bit (p : Part) : Nat := p.ctorIdx

/-- A set of parts as a mask. -/
def parts (ps : List Part) : Nat := ps.foldl (fun m p => m ||| 2 ^ p.bit) 0

/-- Outside the parts of the mask w nothing has changed. -/
def Kept (w : Nat) (s t : State) : Prop := ∀ p : Part, w.testBit p.bit = false → p.same s t

/-- Wherever the command answers a next state, it has changed nothing outside the parts listed. -/
def Changes (ps : List Part) (i : Instr) : Prop := ∀ s t, exec i s = .next t → Kept (parts ps) s t

/-- The byte memories are in canonical form: equal contents are equal data. -/
def MemOk (s : State) : Prop :=
  memWf pageReset s.host.shadow = true ∧ memWf pageReset s.host.applied = true ∧ memWf zeroB s.host.bulk = true
    ∧ memWf zeroB s.tag.mirror = true ∧ memWf zeroB s.mem.cells = true ∧ memWf zeroB s.nv.tagMem = true

/-- A protection holds bough b open: a latched trip code (R278), a fail-safe of the power die (R277), an emergency stop
(R273). -/
def heldOpen (s : State) (b : Bough) : Prop :=
  s.saf[b].latched ≠ [] ∨ s.safDev.fsCauses ≠ [] ∨ s.safDev.stop = true

/-- While a protection holds a bough open no coil of it is driven and no closing sequence runs. -/
def CoilsSafe (s : State) : Prop :=
  ∀ b : Bough, heldOpen s b → (∀ k : Fin 3, s.saf[b].coils[k].driven = false) ∧ s.saf[b].closing = .none

/-- The command's body lies in the ranges for which the spec says what happens (R730, R739); the dispatch of a message is
judged by the command that it spells. -/
def inRange (i : Instr) (s : State) : Bool :=
  match i with
  | .sesAuthAccept _ _ _ _ ident => decide (ident.length ≤ 32)
  | .sesAuthRefuse _ ident => decide (ident.length ≤ 32)
  | .sesIdent _ credential => !credential.isEmpty && decide (credential.length ≤ 32)
  | .sesCeiling _ watts _ => decide (watts ≤ 0x7FFFFFFF)
  | .sesLedgerLoadMerge _ count => decide (1 ≤ count) && decide (count ≤ 16384)
  | .sesLedgerLoadReplace _ count => decide (1 ≤ count) && decide (count ≤ 16384)
  | .mtrCal h _ n ref _ => decide (8 ≤ h.bough) || (decide (1 ≤ n) && decide (n ≤ 250) && (decide (ref < 24) || ref == 255))
  | .mtrSwapHot h ch => decide (8 ≤ h.bough) || decide (ch < 24)
  | .mtrSwapReturn h ch => decide (8 ≤ h.bough) || decide (ch < 24)
  | .mtrSwapAbort h ch => decide (8 ≤ h.bough) || decide (ch < 24)
  | .mtrSwapReadmit h ch => decide (8 ≤ h.bough) || decide (ch < 25)
  | .memInjectMode1 _ => s.lifecycle == lcDeployed || targetOk (injectTarget s)
  | _ => true

end Sys2Proof.Safety
end

