-- ==== Sys2Proof/Certificates/Slice0/Obligations.lean ====
section
/-! DEFINITION. The statements for the provers. They come from the numbered rules of spec/: what each command does where the
rules say that it does it, where it is turned away or stops, what it leaves unchanged, and what every step keeps. -/

open Sys2Proof Sys2Proof.Machine Sys2Proof.Safety

/-- A step takes the command at the front of the queue and runs it on the state with the queue's rest; on an empty queue the
block idles (the model's choice, log entry 6). -/
def Obligations.StepRunsFrontCommand : Prop :=
  (∀ (s : State) (c : Instr) (rest : List Instr), s.pending = c :: rest → step s = exec c { s with pending := rest })
  ∧ ∀ s : State, s.pending = [] → step s = .next s

/-- Right after reset (R20, R83, R117, R121, R277, R721, R725, R741): no phase has run and no tick passes; the settings of
the pages show the reset values of their registers; every coil is released, and the power die is in fail-safe until
heartbeats come; every pilot is in mode F or off; no event, no command and no snapshot waits; the key store is empty and
calendar time is not known. The memories are in canonical form and no coil is driven under a protection. -/
def Obligations.ResetState : Prop :=
  let s := State.reset
  s.start.phase = 0 ∧ s.start.done = 0 ∧ s.lat.running = false ∧ s.pending = [] ∧ s.host.eq = [] ∧ s.host.cq = []
    ∧ s.host.irq = 0 ∧ s.host.scratch = 0 ∧ s.host.pendingC = 0 ∧ s.safDev.fsCauses = [FsCause.wdog]
    ∧ (∀ b : Bough, (∀ k : Fin 3, s.saf[b].coils[k].driven = false) ∧ s.saf[b].latched = [] ∧ s.ses[b].state = .idle
        ∧ s.mtr[b].served = 31 ∧ s.nrg[b].noGrid = true ∧ s.vehPortCfg b = 0 ∧ s.safBridgeCfg b = 0x01D601D6)
    ∧ (∀ c < 192, s.mtrGain c = 0x00400000 ∧ s.mtrOffset c = 0) ∧ s.auxScanMask = 0xFFFFFFFF ∧ s.memScrubCfg = 0x8000000A
    ∧ s.bak.caltime = 0xFFFFFFFF ∧ s.bak.roots = Vector.replicate 4 none ∧ s.bil.rate = 255 ∧ s.canopy.role = 0
    ∧ MemOk s ∧ CoilsSafe s

/-- Where a command stops: a host command whose body holds a value outside its range, for which its chapter names no result,
an injection with a TARGET outside the ranges of R605, and the dispatch of a message that spells no command; every other
command answers a next state, whatever the state (R730, R739). -/
def Obligations.CommandsStopOnlyOnUndefinedBodies : Prop :=
  ∀ (i : Instr) (s : State), i ≠ .commandDispatch →
    (inRange i s = true → ∃ t, exec i s = .next t)
    ∧ (inRange i s = false → ∃ e, exec i s = .fault e)

/-- What no command changes: no command touches the queue of commands, and none the fuses, that is SERIAL, the install
secret, the factory repair map and the reserve's factory correction. The life-cycle fuses change by LIFECYCLE_APPLY
alone (R566). -/
def Obligations.QueueAndFusesStand : Prop :=
  ∀ (i : Instr) (s t : State), exec i s = .next t →
    t.pending = s.pending ∧ t.nv.serial = s.nv.serial ∧ t.nv.installSecret = s.nv.installSecret
      ∧ t.nv.factoryMap = s.nv.factoryMap ∧ t.nv.rsvInput = s.nv.rsvInput ∧ (i ≠ .lifecycleApply → t.nv.life = s.nv.life)

/-- Every step keeps the byte memories in canonical form: the shadow and applied pages, the bulk window, SRAM, the tag
memory and its mirror. -/
def Obligations.MemoriesStayCanonical : Prop :=
  ∀ s t : State, MemOk s → step s = .next t → MemOk t

/-- Every step keeps the contactors open under a protection (R273, R277, R278): while a trip code is latched on a bough,
while a cause of the power die's fail-safe holds or while an emergency stop is active, no coil of the bough is driven
and no closing sequence runs. -/
def Obligations.ProtectionsKeepCoilsOpen : Prop :=
  ∀ s t : State, CoilsSafe s → step s = .next t → CoilsSafe t

/-- The backlight is allowed only while the display is in STATE 3 (R483), and every step keeps this. -/
def Obligations.BacklightOnlyWhileShowing : Prop :=
  ∀ s t : State, (s.lcd.backlight = true → s.lcd.state = .showing) → step s = .next t →
    (t.lcd.backlight = true → t.lcd.state = .showing)

/-- Status registers as the host reads them (R376, R662): NRG_P, NRG_Q and NRG_S give the block means in W, var and VA,
signed; LOG_SEQ gives the next record number. They are 0 at reset, the four bytes are read at their offsets, and a write
to them stores nothing. Shown to complete: registerWrite. -/
def Obligations.MeasurementAndLogRegisters : Prop :=
  (∀ (s : State) (b : Bough), -(2 ^ 31) ≤ s.nst[b].p → s.nst[b].p < 2 ^ 31 → -(2 ^ 31) ≤ s.nst[b].q → s.nst[b].q < 2 ^ 31 →
      -(2 ^ 31) ≤ s.nst[b].s → s.nst[b].s < 2 ^ 31 →
      liveWord s (0x604 + 0x20 * b.val) = BitVec.ofInt 32 s.nst[b].p
        ∧ liveWord s (0x604 + 0x20 * b.val + 4) = BitVec.ofInt 32 s.nst[b].q
        ∧ liveWord s (0x604 + 0x20 * b.val + 8) = BitVec.ofInt 32 s.nst[b].s)
  ∧ (∀ s : State, liveWord s 0xE04 = s.log.next)
  ∧ (∀ (b : Bough) (k : Fin 3), liveWord State.reset (0x604 + 0x20 * b.val + 4 * k.val) = 0 ∧ liveWord State.reset 0xE04 = 0)
  ∧ (∀ (s : State) (o : Nat) (k : Fin 4), 1 ≤ s.start.done → o % 4 = 0 → o < 0x1000 →
      hostByte s (0x30000 + o + k.val) = (liveWord s o).extractLsb' (8 * k.val) 8)
  ∧ (∀ (s : State) (o : Nat) (v : BitVec 32), o % 4 = 0 → o < 0x1000 →
      Completes (.registerWrite (0x30000 + o) (leN 4 v.toNat)) s fun t =>
        ∀ r, liveWord t r = liveWord s r)

/-- Two tampers of the backup domain (R578, R593): with OSC_EN 1 the loss of the 32.768 kHz edges is a tamper with its own
cause; when both loops open between the same two samples, one fell occurs, with both bits in its cause mask. A domain
that neither supply holds up declares nothing (R591). Shown to complete: oscillatorDetector, tamperSample. -/
def Obligations.OscillatorAndBothLoopTampers : Prop :=
  (∀ s : State, domainDead s = false → s.bak.tamperCfg.getLsbD 2 = true → Completes .oscillatorDetector s fun t =>
      t.bak.fells = min 255 (s.bak.fells + 1) ∧ t.bak.cause = 4 ∧ t.bak.fellTime = s.bak.caltime
        ∧ t.bak.roots = Vector.replicate 4 none)
  ∧ (∀ (s : State) (l : Nat), domainDead s = false → s.bak.tamperCfg.getLsbD 0 = true → s.bak.tamperCfg.getLsbD 1 = true →
      s.bak.armedA = true → s.bak.armedB = true →
      (s.bak.openA = 1 → 1 ≤ s.bak.openB → Completes (.tamperSample false .opened l) s fun t =>
        t.bak.fells = min 255 (s.bak.fells + 1) ∧ t.bak.cause = 3 ∧ t.bak.armedA = false ∧ t.bak.armedB = false)
      ∧ (s.bak.openB = 1 → 1 ≤ s.bak.openA → Completes (.tamperSample true .opened l) s fun t =>
        t.bak.fells = min 255 (s.bak.fells + 1) ∧ t.bak.cause = 3 ∧ t.bak.armedA = false ∧ t.bak.armedB = false))

/-- R171. A current I in 0.1 A gives no duty and mode X1 below 6.0 A; the duty floor(I × 5 / 3) up to 51.0 A, which offers d
× 0.06 A; above, the larger of 850 and floor(I × 2 / 5) + 640, which offers 51.0 A at 850 and (d / 10 − 64) × 2.5 A
above; the current offered, here in 0.01 A, is never more than I. A port that offers a current by PWM drives that duty
in mode X2. -/
def Obligations.PilotDuty : Prop :=
  let offers := fun (d : Nat) => if d ≤ 850 then 6 * d else 25 * (d - 640)
  (∀ i, i ≤ 800 →
    (i < 60 → dutyOf i = none)
    ∧ (60 ≤ i → i ≤ 510 → dutyOf i = some (i * 5 / 3) ∧ offers (i * 5 / 3) = 6 * (i * 5 / 3))
    ∧ (511 ≤ i → ∃ d, dutyOf i = some d ∧ d = max 850 (i * 2 / 5 + 640)
        ∧ (d = 850 → offers d = 5100) ∧ (851 ≤ d → 100 * offers d = (10 * d - 6400) * 250))
    ∧ ∀ d, dutyOf i = some d → offers d ≤ 10 * i)
  ∧ ∀ (s : State) (b : Bough), (pilotDrive s b).1 = .x1 ∨ (pilotDrive s b).1 = .x2 → plugged s b = true →
      s.ports[b].slac ≠ 5 → ppWithholds s b = false → s.sesL[b].notify ≠ 4 → digital s b = false →
      (askedCurrent s b < 60 → pilotDrive s b = (.x1, 1000, 0))
      ∧ (60 ≤ askedCurrent s b → ∃ d, dutyOf (min (askedCurrent s b) 800) = some d
          ∧ pilotDrive s b = (.x2, d, min (askedCurrent s b) 800))

/-- TRUNK_FLIT (R28, R29, R35, R39, R62): with the flits that the stop's ports bring, a stop sends by class, lower classes
first, and within a class what is in transit before what it injects; a flit whose lanes in use show no error is taken by
the next stop, which holds it last in its pass buffer unless it is for that stop, while the sender's buffer or port lets
it go; a flit with an error on a lane in use is rejected, stays with its sender, is sent again before any other and is
counted as resent. LANE_FAILED (R29): after three failed attempts a lane is declared failed, and where the spare lane is
unused and usable it takes that lane's bits. SPARE_LANE_PATTERN (R31): an unused spare lane that fails its pattern is
marked unusable, and no data lane is touched. Shown to complete: trunkFlit, laneFailed, spareLanePattern. -/
def Obligations.TrunkFlitsAndLanes : Prop :=
  (∀ (s : State) (i : Fin 23) (offers : List Flit) (errs : BitVec 9) (p : Pick) (f : Flit),
    s.trunk.seg[i].attempts.length < 3 → pickFlit (takeOffers i offers s) i = some p →
    pickedFlit (takeOffers i offers s) i p = some f →
    (badLanes s.trunk.seg[i] errs = 0 → s.trunk.seg[i].half = false → f.dst.val ≠ (i.val + 1) % 23 →
      Completes (.trunkFlit i offers errs) s fun t =>
        passAt t ((i.val + 1) % 23) f.cls = passAt s ((i.val + 1) % 23) f.cls ++ [f]
          ∧ (p.transit = true → passAt t i.val p.cls = (passAt s i.val p.cls).drop 1)
          ∧ (p.transit = false → waitingAt t i.val = (waitingAt (takeOffers i offers s) i.val).erase f)
          ∧ t.trunk.seg[i].attempts = [] ∧ t.trunk.resends = s.trunk.resends)
    ∧ (badLanes s.trunk.seg[i] errs ≠ 0 →
      Completes (.trunkFlit i offers errs) s fun t =>
        t.trunk.resends = min 8191 (s.trunk.resends + 1) ∧ t.trunk.pass = s.trunk.pass
          ∧ t.trunk.seg[i].attempts = s.trunk.seg[i].attempts ++ [badLanes s.trunk.seg[i] errs]
          ∧ t.trunk.seg[i].sending = some p))
  ∧ (∀ (s : State) (i : Fin 23) (p : Pick), s.trunk.seg[i].sending = none → pickFlit s i = some p →
      (∀ k : Fin 4, k < p.cls → pickClass s i k = none) ∧ hasCredit s i.val p.cls = true
        ∧ (p.transit = false → passAt s i.val p.cls = [] ∨ transitRoom s i p.cls = false))
  ∧ (∀ (s : State) (g : Fin 23), s.trunk.seg[g].attempts.length = 3 → s.trunk.seg[g].carried = none →
      s.trunk.seg[g].spareBad = false → s.trunk.seg[g].half = false →
      Completes (.laneFailed g) s fun t =>
        t.trunk.seg[g].carried = some (failedLane s.trunk.seg[g]) ∧ t.trunk.seg[g].attempts = []
          ∧ t.trunk.lastSeg = g.val ∧ t.trunk.lastLane = failedLane s.trunk.seg[g] ∧ t.trunk.pass = s.trunk.pass)
  ∧ (∀ (s : State) (bad : BitVec 23) (g : Fin 23), s.lat.running = true → s.lat.pllLost = false →
      Completes (.spareLanePattern bad) s fun t =>
        t.trunk.seg[g].spareBad
            = (s.trunk.seg[g].spareBad || (bad.getLsbD g.val && s.trunk.seg[g].carried.isNone))
          ∧ t.trunk.seg[g].failed = s.trunk.seg[g].failed ∧ t.trunk.seg[g].half = s.trunk.seg[g].half)

/-- Flits served by SRAM (R42, R53, R597 to R599, R605): a word that a session core writes to main SRAM stands there and
nowhere else, and its wrong bits are gone; an access that the address map does not allow has no effect but event 0x0108
and the refusal that goes back; a read that finds one wrong bit has it corrected and counted, the word is clean and goes
back. Shown to complete: trunkFlit. -/
def Obligations.SramAccesses : Prop :=
  ∀ (s : State) (i : Fin 23) (f : Flit) (x : Access) (p : Pick), s.trunk.seg[i].attempts = [] →
    s.trunk.seg[i].half = false → pickFlit (takeOffers i [f] s) i = some p →
    pickedFlit (takeOffers i [f] s) i p = some f → f.dst.val = (i.val + 1) % 23 → f.load = .access x →
    (∀ v, x.write = some v → x.stop = 2 → x.addr < 0x00800000 → MemOk s →
      (badAt s (x.addr / 8 * 8)).hard = 0 → s.mem.armed = false → Completes (.trunkFlit i [f] 0) s fun t =>
        (∀ k < 8, memGet zeroB t.mem.cells (x.addr / 8 * 8 + k) = v.extractLsb' (8 * k) 8)
          ∧ (∀ a, a < x.addr / 8 * 8 ∨ x.addr / 8 * 8 + 8 ≤ a → memGet zeroB t.mem.cells a = memGet zeroB s.mem.cells a)
          ∧ (badAt t (x.addr / 8 * 8)).flips = 0 ∧ t.nv.tagMem = s.nv.tagMem)
    ∧ (accessAllowed s x.stop x.write.isSome x.addr = false → CanReport 0x0108 5 s →
        Completes (.trunkFlit i [f] 0) s fun t => t.mem = s.mem ∧ t.nv.tagMem = s.nv.tagMem
          ∧ { src := f.dst, port := 0, dst := f.src, cls := f.cls, load := .reply true x.addr none } ∈ waitingAt t f.dst.val
          ∧ lastEvent t = some (0x0108, 255, 0, leN 1 x.stop ++ leN 4 x.addr))
    ∧ (x.write = none → x.stop = 2 → x.addr < 0x00800000 → s.mem.halted = false →
      ∀ k < 79, (badAt s (x.addr / 8 * 8)).flips = cwBit k → (badAt s (x.addr / 8 * 8)).hard = 0 →
        Completes (.trunkFlit i [f] 0) s fun t => t.mem.cells = s.mem.cells
          ∧ t.mem.corr = min 65535 (s.mem.corr + 1) ∧ (badAt t (x.addr / 8 * 8)).flips = 0
          ∧ { src := f.dst, port := 0, dst := f.src, cls := f.cls, load := .reply false x.addr
                (some (wordOf (memGets zeroB s.mem.cells (x.addr / 8 * 8) 8))) } ∈ waitingAt t f.dst.val)

/-- CRYSTAL_CHECK (R47): three consecutive seconds beyond 500 ppm enter crystal deviation, three within it leave it;
PLL_LOCK_LOSS and PLL_RECOVERY (R48): the condition begins with event 0x0105 0xFFFF and ends with 0xFFFE, OPTIME and SEQ
standing meanwhile. LATTICE_TICK (R45, R18, R49): each tick advances its own count by one; OPTIME counts operating ticks
within 40 bits; the stops named as still at work count an overrun, and hold one tick each; while the PLL has lost lock
no tick has any effect (R48). PACE_COUNT (R32, R33): HST_PACE is the lowest of the 23 counts in whole millions per
second, rounded down; below ALARM_LEVEL with EN 1 the pace alarm is raised once, with its HST_IRQ source; it clears
after ten values at or above the level, and at once while EN is 0. Shown to complete: crystalCheck, pllLockLoss,
pllRecovery, latticeTick, paceCount. -/
def Obligations.LatticeAndPace : Prop :=
  ((∀ (s : State) (count : Nat), s.lat.running = true → s.lat.pllLost = false →
    (count < 24987500 ∨ 25012500 < count → s.lat.devRun = 2 → Completes (.crystalCheck count) s fun t =>
      t.lat.deviating = true ∧ t.lat.devOk = 0)
    ∧ (24987500 ≤ count → count ≤ 25012500 → s.lat.devOk = 2 → Completes (.crystalCheck count) s fun t =>
      t.lat.deviating = false ∧ t.lat.devRun = 0 ∧ t.log = s.log)
    ∧ (count < 24987500 ∨ 25012500 < count → s.lat.devRun < 2 → Completes (.crystalCheck count) s fun t =>
      t.lat.deviating = s.lat.deviating ∧ t.lat.devRun = s.lat.devRun + 1))
  ∧ (∀ s : State, s.lat.running = true → s.lat.pllLost = false → CanReport 0x0105 4 s →
      Completes .pllLockLoss s fun t => t.lat.pllLost = true ∧ t.lat.optime = s.lat.optime ∧ t.lat.smp = s.lat.smp
        ∧ lastEvent t = some (0x0105, 255, 0, [0xFF, 0xFF, 0, 0]))
  ∧ (∀ s : State, s.lat.pllLost = true → CanReport 0x0105 4 s →
      Completes .pllRecovery s fun t => t.lat.pllLost = false ∧ t.lat.optime = s.lat.optime ∧ t.lat.smp = s.lat.smp
        ∧ lastEvent t = some (0x0105, 255, 0, [0xFE, 0xFF, 0, 0])))
  ∧ (∀ (s : State) (busy : BitVec 23), s.lat.running = true →
    (s.lat.pllLost = false →
      (Completes (.latticeTick .microsecond busy) s fun t =>
          t.lat = { s.lat with us := s.lat.us + 1, usInMs := s.lat.usInMs + 1 }
          ∧ ∀ g : Fin 23, t.trunk.overrun[g] = s.trunk.overrun[g] + b2n (busy.getLsbD g.val)
            ∧ t.trunk.heldTick[g].isSome = busy.getLsbD g.val)
      ∧ (Completes (.latticeTick .sample busy) s fun t =>
          t.lat = { s.lat with smp := (s.lat.smp + 1) % 2 ^ 24 } ∧ t.trunk.capNow = fld s.sysBgCap 5 0)
      ∧ (Completes (.latticeTick .millisecond busy) s fun t => t.lat = { s.lat with ms := s.lat.ms + 1, usInMs := 0 })
      ∧ (s.lat.stampOn = true → s.lat.optime < 2 ^ 40 - 1 → Completes (.latticeTick .operating busy) s fun t =>
          t.lat.optime = s.lat.optime + 1 ∧ t.lat.opTicks = s.lat.opTicks + 1 ∧ t.bak = s.bak)
      ∧ (Completes (.latticeTick .second busy) s fun t => t.lat = { s.lat with sec := s.lat.sec + 1 }
          ∧ (∀ g : Fin 23, t.trunk.overrun[g] = b2n (busy.getLsbD g.val)) ∧ t.mem.corrNoted = []))
    ∧ (s.lat.pllLost = true → ∀ k, exec (.latticeTick k busy) s = .next s))
  ∧ (∀ (s : State) (counts : List Nat), counts.length = 23 → s.lat.running = true → s.lat.pllLost = false →
    (Completes (.paceCount counts) s fun t =>
      (∀ c ∈ counts, t.trunk.hstPace ≤ c / 1000) ∧ (∃ c ∈ counts, t.trunk.hstPace = c / 1000)
        ∧ (bitOf s.sysPaceAlarm 31 = false → t.trunk.paceLow = false ∧ t.host.irq = s.host.irq)
        ∧ (bitOf s.sysPaceAlarm 31 = true → t.trunk.hstPace < alarmLevel s → t.trunk.paceLow = true
            ∧ (s.trunk.paceLow = false → t.host.irq.getLsbD 5 = true))
        ∧ (bitOf s.sysPaceAlarm 31 = true → alarmLevel s ≤ t.trunk.hstPace → s.trunk.paceLow = true →
            t.trunk.paceLow = decide (s.trunk.paceOk < 9))))

/-- CRYPTO_REQUEST and CRYPTO_OPERATION_DONE (R43, R573, R574): an idle engine takes a request at once and a busy one queues
it behind the earlier ones; when the running operation ends its result goes to its requester, and the engine takes the
queued heartwood request first, then a session core's, then the start controller's, in arrival order; with an empty
queue it is idle. A request naming a handle that is not bound to the requester's stop is refused with event 0x0C08.
HEARTWOOD_MAILBOX_WRITE (R66): the write of a session core that is not declared failed completes at once while nothing
waits before it, the mailbox has room and stop 8 a class-2 credit; otherwise it waits behind the writes that wait
already, and writes enter the mailbox in their order; the heartwood is not touched. Shown to complete: cryptoRequest,
cryptoOperationDone, heartwoodMailboxWrite. -/
def Obligations.CryptoAndMailbox : Prop :=
  ((∀ (s : State) (r : CryptoReq), r.stop = 8 ∨ r.stop = 2 ∨ r.stop = 3 ∨ r.stop = 0 →
    (handleOk s r = true → s.crypto.running = none → Completes (.cryptoRequest r) s fun t =>
      t.crypto.running = some r ∧ t.crypto.queue = s.crypto.queue)
    ∧ (handleOk s r = true → s.crypto.running ≠ none → Completes (.cryptoRequest r) s fun t =>
      t.crypto.running = s.crypto.running ∧ t.crypto.queue = s.crypto.queue ++ [r])
    ∧ (∀ h, r.handle = some h → (∀ k ∈ s.crypto.keys, k.handle = h → k.stop ≠ r.stop) → CanReport 0x0C08 2 s →
      Completes (.cryptoRequest r) s fun t => t.crypto = s.crypto
        ∧ lastEvent t = some (0x0C08, 255, 0, leN 1 r.stop ++ leN 1 h)))
  ∧ (∀ (s : State) (r : CryptoReq), s.crypto.running = some r → s.crypto.fellOp = false →
      Completes .cryptoOperationDone s fun t =>
        (∃ ok, t.crypto.results = { stop := r.stop, op := r.op, ok := ok } :: s.crypto.results)
          ∧ t.crypto.running = nextCrypto s.crypto.queue
          ∧ ∀ n, t.crypto.running = some n → n ∈ s.crypto.queue
            ∧ (∀ m ∈ s.crypto.queue, cryptoRank n.stop ≤ cryptoRank m.stop)))
  ∧ (∀ (s : State) (m : Mail), s.safDev.coreDead.getLsbD m.core.val = false →
    (Completes (.heartwoodMailboxWrite m) s fun t =>
      t.trunk.mailbox ++ t.trunk.mailWait = s.trunk.mailbox ++ s.trunk.mailWait ++ [m] ∧ t.bil = s.bil
        ∧ (t.trunk.mailWait ≠ [] → 2 ≤ (passAt s 8 2).length ∨ Config.mailboxMore < t.trunk.mailbox.length))
    ∧ (s.trunk.mailWait = [] → s.trunk.mailbox.length ≤ Config.mailboxMore → (passAt s 8 2).length < 2 →
      Completes (.heartwoodMailboxWrite m) s fun t => t.trunk.mailbox = s.trunk.mailbox ++ [m] ∧ t.trunk.mailWait = [])
    ∧ (Config.mailboxMore < s.trunk.mailbox.length ∨ 2 ≤ (passAt s 8 2).length →
      Completes (.heartwoodMailboxWrite m) s fun t =>
        t.trunk.mailbox = s.trunk.mailbox ∧ t.trunk.mailWait = s.trunk.mailWait ++ [m]))

/-- CALENDAR_SECOND and CALENDAR_RANGE_END (R20, R46): a known calendar time advances by one second; at 0xFFFF_FFFE it
becomes not known; a time that is not known stays so. BACKUP_SWITCHOVER (R83): it runs on unchanged across a switch-over
in either direction. BACKUP_DOMAIN_LOSS (R85): calendar time is not known, the local offset is 0, the key store is
empty. Shown to complete: calendarSecond, calendarRangeEnd, backupSwitchover, backupDomainLoss. -/
def Obligations.CalendarAndBackupDomain : Prop :=
  (∀ s : State,
    (s.bak.caltime.toNat < 0xFFFFFFFE → Completes .calendarSecond s fun t =>
      t.bak.caltime.toNat = s.bak.caltime.toNat + 1 ∧ t.lat = s.lat)
    ∧ (s.bak.caltime = 0xFFFFFFFE → Completes .calendarSecond s fun t => t.bak.caltime = 0xFFFFFFFF)
    ∧ (s.bak.caltime = 0xFFFFFFFF → Completes .calendarSecond s fun t => t.bak.caltime = 0xFFFFFFFF)
    ∧ (s.bak.caltime = 0xFFFFFFFE → Completes .calendarRangeEnd s fun t => t.bak.caltime = 0xFFFFFFFF))
  ∧ (∀ (s : State) (v : Bool), Completes (.backupSwitchover v) s fun t =>
      t.bak = { s.bak with onVbak := v, switches := t.bak.switches }
        ∧ t.bak.switches = s.bak.switches + b2n (v && !s.bak.onVbak))
  ∧ (∀ s : State, s.bak.onVbak = true → Completes .backupDomainLoss s fun t =>
      t.bak.caltime = 0xFFFFFFFF ∧ t.bak.offset = 0 ∧ t.bak.roots = Vector.replicate 4 none ∧ t.nv = s.nv)

/-- SUPPLY_TRIP (R86, R87): in operation a low trip of monitor 0 to 4 resets the device, keeps nonvolatile memory and the
backup domain, and sets the monitor's trip bit in the supply-trip flag, without its high bit; a trip of VPWR makes the
power die drop every coil and turns the load channels off; a high trip of 0 to 4 is an event only; a trip while the
reset is held enters the flag. SUPPLY_RECOVERY (R87): the monitor reads within range again, and RSTOUTN, held low since
a monitor's reset, is released once no supply is tripped. DIE_TEMP_UPDATE (R94, R108), POWER_DIE_THERMAL_SHUTDOWN and
its recovery (R95), RESETN_LOW (R117): the three temperatures are taken over; a die at WARN_LEVEL gives event 0x010B
once, and the warning changes nothing else; at shutdown every coil drops and the load channels go off; a pulse of at
least 1 µs resets the device, one below 100 ns does nothing. Shown to complete: supplyTrip, supplyRecovery,
dieTempUpdate, powerDieThermalShutdown, powerDieThermalRecovery, resetnLow. -/
def Obligations.SuppliesAndTemperatures : Prop :=
  ((∀ (s : State) (id : Fin 13), s.supply.tripped.getLsbD id.val = false → s.supply.resetHeld = false →
    s.start.released = true →
    (id.val ≤ 4 → (s.bak.onVbak && s.bak.lost) = false → (∀ r ∈ s.log.held ++ s.log.queue, r.code ≠ 0x0109) →
      Completes (.supplyTrip id false) s fun t =>
        t.supply.resetHeld = true ∧ t.supply.rstHold = true ∧ t.start = {} ∧ t.ports = Vector.replicate 8 {} ∧ t.nv = s.nv
          ∧ t.bak = { s.bak with tripBits := s.bak.tripBits ||| supplyBit id })
    ∧ (id.val ≤ 4 ∨ id.val = 8 → CanReport 0x0109 2 s → ∀ high, (id.val ≤ 4 → high = true) →
      Completes (.supplyTrip id high) s fun t =>
        t.saf = s.saf ∧ t.ports = s.ports ∧ t.aux = s.aux ∧ t.bak = s.bak ∧ t.supply.lastTrip = id.val
          ∧ lastEvent t = some (0x0109, 255, 0, [BitVec.ofNat 8 id.val, BitVec.ofNat 8 (b2n high)]))
    ∧ (id.val = 5 → ∀ high, Completes (.supplyTrip id high) s fun t =>
        t.auxDev.vpwrOff = true ∧ FsCause.vpwr ∈ t.safDev.fsCauses
          ∧ ∀ (b : Bough) (k : Fin 3), FsCause.vpwr ∉ s.safDev.fsCauses → t.saf[b].coils[k].driven = false))
  ∧ (∀ (s : State) (id : Fin 13) (high : Bool), s.supply.tripped.getLsbD id.val = false →
      s.supply.resetHeld = true ∨ s.start.released = false → (s.bak.onVbak && s.bak.lost) = false →
      Completes (.supplyTrip id high) s fun t =>
        t.bak.tripBits = s.bak.tripBits ||| supplyBit id
          ∧ t.bak.highBits = (if high then s.bak.highBits ||| supplyBit id else s.bak.highBits)
          ∧ t.supply.resetHeld = (s.supply.resetHeld || (decide (id.val ≤ 4) && !high)))
  ∧ (∀ (s : State) (id : Fin 13), Completes (.supplyRecovery id) s fun t =>
      t.supply.tripped = s.supply.tripped &&& ~~~supplyBit id ∧ t.supply.inRange = s.supply.inRange ||| supplyBit id
        ∧ t.supply.resetHeld = s.supply.resetHeld
        ∧ (s.supply.rstHold = true → t.supply.rstHold = !(t.supply.tripped == 0))))
  ∧ ((∀ (s : State) (l m p : Int), Completes (.dieTempUpdate l m p) s fun t =>
      t.supply.tLogic = l ∧ t.supply.tMixed = m ∧ t.supply.tPower = p ∧ t.saf = s.saf ∧ t.aux = s.aux)
  ∧ (∀ (s : State) (l m p : Int), bitOf s.sysTempWarn 31 = true → s.supply.warned = false → warnLevel s ≤ l →
      CanReport 0x010B 5 s → Completes (.dieTempUpdate l m p) s fun t =>
        lastEvent t = some (0x010B, 255, 0, 0 :: leI 4 l) ∧ t.supply.warned = true)
  ∧ (∀ (s : State) (l m p : Int), s.supply.warned = true → warnLevel s - 5 < l →
      Completes (.dieTempUpdate l m p) s fun t => t.supply.warned = true ∧ t.host.eq = s.host.eq)
  ∧ (∀ (s : State) (temp : Int), s.supply.shutdown = false → FsCause.thermal ∉ s.safDev.fsCauses →
      Completes (.powerDieThermalShutdown temp) s fun t =>
        t.supply.shutdown = true ∧ t.auxDev.thermalOff = true ∧ FsCause.thermal ∈ t.safDev.fsCauses
          ∧ ∀ (b : Bough) (k : Fin 3), t.saf[b].coils[k].driven = false)
  ∧ (∀ s : State, s.supply.shutdown = true → Completes .powerDieThermalRecovery s fun t =>
      t.supply.shutdown = false ∧ t.auxDev.thermalOff = false ∧ FsCause.thermal ∉ t.safDev.fsCauses
        ∧ ∀ (b : Bough) (k : Fin 3), t.saf[b].coils[k].driven = s.saf[b].coils[k].driven)
  ∧ (∀ (s : State) (ns : Nat), (1000 ≤ ns → Completes (.resetnLow ns) s fun t =>
        t.nv = s.nv ∧ t.bak = s.bak ∧ t.start = {} ∧ t.host = {} ∧ t.ports = Vector.replicate 8 {})
      ∧ (ns < 100 → exec (.resetnLow ns) s = .next s)))

/-- RESET_RELEASE and phases P1 to P4 complete (R116, R118, R121, R123, R613, R640): each leaves the start at the next
phase; P0 releases RSTOUTN unless a monitor's reset still holds it (R87); P1 makes the stamp run with CYCLES one above
the newest entry's, or 1; P2 leaves SRAM with zero data and the tag mirror as the tag memory; P4 makes the event log
available. P5 to P7 complete (R119, R121, R122, R125, R279): P6 waits while VPWR, VPOS12 or VNEG12 is out of range,
without a limit, and runs once they are in range; P7 makes the device ready and raises the start-ready source. The stops
of the start (R126, R601): the phase and the reason of each, PHASE at 0xF and the start-stop source of HST_IRQ. A stop
of P0 with reason 0x02 and one of P1 wait for the pattern test of P2, which runs before the stopped state is entered; a
load that halted twice stops P3 to P6. Shown to complete: resetRelease, phaseP1, phaseP2, phaseP3, phaseP4, phaseP5,
phaseP6, waitSupplyEnd, phaseP7. -/
def Obligations.StartSequence : Prop :=
  ((∀ (s : State) (mv : Nat), s.start.released = false → resetFree s = true → s.nv.flash.present = true →
      Completes (.resetRelease mv true) s fun t => t.start.released = true ∧ t.start.done = 1 ∧ t.start.phase = 1
        ∧ t.start.rstOutN = !s.supply.rstHold ∧ t.start.mrstN = true ∧ t.lat.running = true)
  ∧ (∀ (s : State) (n : Fin 3), atPhase s 1 = true → s.start.stopNext = none → s.lifecycle ≠ lcScrapped →
      Completes (.phaseP1 true (some n)) s fun t => t.start.done = 2 ∧ t.start.phase = 2 ∧ t.lat.stampOn = true
        ∧ t.lat.cycles = (newestEntry s).elim 1 (fun e => min 0xFFFFFF (e.toNat / 2 ^ 40 + 1))
        ∧ t.lat.optime = (newestEntry s).elim 0 (fun e => min (2 ^ 40 - 1) (e.toNat % 2 ^ 40 + 4096)))
  ∧ (∀ (s : State) (p : PatternTest), atPhase s 2 = true → s.start.stopNext = none → beyondRepair p = false →
      Completes (.phaseP2 p) s fun t => t.start.done = 3 ∧ t.start.phase = 3 ∧ t.mem.cells = []
        ∧ t.tag.mirror = s.nv.tagMem ∧ t.open2 = true)
  ∧ (∀ s : State, atPhase s 3 = true → loadFailed s = false →
      imgCheck s (acceptedFormats s) (areaOf s 0 (dirNow s).ronif) = none →
      Completes .phaseP3 s fun t => t.start.done = 4 ∧ t.start.phase = 4 ∧ t.start.ronifSlot = (dirNow s).ronif
        ∧ t.open3 = true)
  ∧ (∀ (s : State) (i : Nat), atPhase s 4 = true → loadFailed s = false → pickBank s 1 = some i →
      Completes .phaseP4 s fun t => t.start.done = 5 ∧ t.start.phase = 5 ∧ t.start.fwBank = i ∧ t.log.logOn = true
        ∧ t.log.held = [] ∧ t.open4 = true))
  ∧ ((∀ (s : State) (i : Nat), atPhase s 5 = true → loadFailed s = false → pickBank s 2 = some i →
      Completes .phaseP5 s fun t => t.start.done = 6 ∧ t.start.phase = 6)
  ∧ (∀ (s : State) (c : SelfCheck), atPhase s 6 = true → s.start.waitSupply = false → loadFailed s = false →
      startSupplies s = false →
      Completes (.phaseP6 c) s fun t => t = { s with start.waitSupply := true })
  ∧ (∀ s : State, s.start.phase = 6 → s.start.waitSupply = true → startSupplies s = true →
      s.supply.tripped &&& s.start.waitFor = 0 →
      Completes .waitSupplyEnd s fun t => t = { s with start.waitSupply := false, start.waitFor := 0 })
  ∧ (∀ (s : State) (c : SelfCheck), atPhase s 6 = true → s.start.waitSupply = false → loadFailed s = false →
      startSupplies s = true → deviceStep c = none → (rebuildLedger (selfCheck c s)).isSome = true →
      Completes (.phaseP6 c) s fun t => t.start.done = 7 ∧ t.start.phase = 7 ∧ t.start.ledgerBuilt = true)
  ∧ (∀ (s : State) (ms : Nat), s.start.phase = 7 → s.start.done = 7 →
      Completes (.phaseP7 ms) s fun t => t.ready = true ∧ t.start.startMs = min 2047 ms ∧ t.host.irq.getLsbD 0 = true))
  ∧ (let Stops := fun (i : Instr) (s : State) (p r : Nat) => Completes i s fun t => t.start.phase = 0xF
    ∧ t.start.stopPhase = p ∧ t.start.stopReason = r ∧ t.host.irq.getLsbD 1 = true ∧ t.start.done = s.start.done
  let Waits := fun (i : Instr) (s : State) (p r : Nat) => Completes i s fun t =>
    t.start.stopNext = some (p, r) ∧ t.start.done = s.start.done ∧ t.start.phase = s.start.phase
  (∀ (s : State) (mv : Nat), s.start.released = false → resetFree s = true →
    Stops (.resetRelease mv false) s 0 1 ∧ (s.nv.flash.present = false → Waits (.resetRelease mv true) s 0 2))
  ∧ (∀ (s : State) (n : Option (Fin 3)), atPhase s 1 = true → s.start.stopNext = none → Waits (.phaseP1 false n) s 1 3
      ∧ (s.lifecycle = lcScrapped → Waits (.phaseP1 true n) s 1 5)
      ∧ (s.lifecycle ≠ lcScrapped → Waits (.phaseP1 true none) s 1 4))
  ∧ (∀ (s : State) (p : PatternTest), (∀ k r, s.start.stopNext = some (k, r) → Stops (.phaseP2 p) s k r)
      ∧ (s.start.stopNext = none → atPhase s 2 = true → beyondRepair p = true → Stops (.phaseP2 p) s 2 6))
  ∧ (∀ s : State, loadFailed s = true → (atPhase s 3 = true → Stops .phaseP3 s 3 7)
      ∧ (atPhase s 4 = true → Stops .phaseP4 s 4 8) ∧ (atPhase s 5 = true → Stops .phaseP5 s 5 9)
      ∧ (atPhase s 6 = true → s.start.waitSupply = false → ∀ c, Stops (.phaseP6 c) s 6 0x0B))
  ∧ (∀ s : State, atPhase s 4 = true → loadFailed s = false → pickBank s 1 = none → Stops .phaseP4 s 4 8)
  ∧ (∀ s : State, atPhase s 5 = true → loadFailed s = false → pickBank s 2 = none → Stops .phaseP5 s 5 9)
  ∧ (∀ (s : State) (c : SelfCheck), atPhase s 6 = true → s.start.waitSupply = false → loadFailed s = false →
      startSupplies s = true → (deviceStep c ≠ none → Stops (.phaseP6 c) s 6 0x0A)
      ∧ (deviceStep c = none → rebuildLedger (selfCheck c s) = none → Stops (.phaseP6 c) s 6 0x0B)))

/-- COMMIT_ACCEPT (R143, R154): each subsystem requested gets a snapshot of its shadow page as it stands and its PENDING
bit, in place of an earlier one, and no setting in force changes; before the end of P3 the write is ignored (R722).
COMMIT_APPLY and COMMIT_BOUGH_APPLY (R144, R145): at its boundary a snapshot that its rules break is rejected whole:
every setting in force stays, PENDING clears, HST_COMMIT_DONE and REJECTED are set, event 0x0113 gives the reason; one
that passes applies, and with nothing left to apply the commit is done and REJECTED clears. Shown to complete:
commitAccept, commitApply, commitBoughApply. -/
def Obligations.Commits : Prop :=
  (∀ (s : State) (req : BitVec 16),
    (s.open3 = true → Completes (.commitAccept req) s fun t =>
      t.host.pendingC = s.host.pendingC ||| req ∧ t.host.applied = s.host.applied ∧ t.host.shadow = s.host.shadow
        ∧ ∀ i : Fin 16, (req.getLsbD i.val = true → snapOf t i.val
              = some (s.host.shadow.filter (fun c => c.1 / 0x1000 == i.val)))
            ∧ (req.getLsbD i.val = false → snapOf t i.val = snapOf s i.val))
    ∧ (s.open3 = false → exec (.commitAccept req) s = .next s))
  ∧ ((∀ (s : State) (sub : Fin 16) (r : Nat), s.ready = true → commitPending s sub.val = true → sub ≠ 7 →
    s.host.passed.getLsbD sub.val = false → snapVerdict s sub.val = some r → CanReport 0x0113 2 s →
    (s.host.devLeft.getLsbD sub.val = true → deviceBoundary s sub.val = true → Completes (.commitApply sub) s fun t =>
      t.host.applied = s.host.applied ∧ t.host.pendingC.getLsbD sub.val = false ∧ t.host.doneC.getLsbD sub.val = true
        ∧ t.host.rejected.getLsbD sub.val = true
        ∧ lastEvent t = some (0x0113, 255, 0, [BitVec.ofNat 8 sub.val, BitVec.ofNat 8 r]))
    ∧ (∀ b : Bough, (leftMask s sub.val).getLsbD b.val = true → boughBoundary s sub.val b = true →
      Completes (.commitBoughApply sub b) s fun t =>
        t.host.applied = s.host.applied ∧ t.host.pendingC.getLsbD sub.val = false ∧ t.host.rejected.getLsbD sub.val = true))
  ∧ (∀ (s : State) (sub : Fin 16) (m : List Host.Cell), s.ready = true → snapOf s sub.val = some m → sub ≠ 7 →
      s.host.devLeft.getLsbD sub.val = true → deviceBoundary s sub.val = true → leftMask s sub.val = 0 →
      s.host.passed.getLsbD sub.val = true ∨ snapVerdict s sub.val = none →
      Completes (.commitApply sub) s fun t =>
        t.host.applied = pageTake (ofDevice sub.val) s.host.applied m ∧ t.host.pendingC.getLsbD sub.val = false
          ∧ t.host.doneC.getLsbD sub.val = true ∧ t.host.rejected.getLsbD sub.val = false)
  ∧ (∀ (s : State) (sub : Fin 16) (m : List Host.Cell) (b : Bough), s.ready = true → snapOf s sub.val = some m →
      sub = 2 ∨ sub = 3 ∨ sub = 4 → leftMask s sub.val = BitVec.ofNat 8 (2 ^ b.val) → boughBoundary s sub.val b = true →
      s.host.devLeft.getLsbD sub.val = false → s.host.passed.getLsbD sub.val = true ∨ snapVerdict s sub.val = none →
      Completes (.commitBoughApply sub b) s fun t =>
        t.host.applied = pageTake (ofBough sub.val b) s.host.applied m ∧ t.host.pendingC.getLsbD sub.val = false
          ∧ t.host.doneC.getLsbD sub.val = true))

/-- REGISTER_WRITE (R140, R141, R550, R700, R716, R725): a write inside one window stores its bytes there and nowhere else:
HST_SCRATCH; the shadow page, whose reserved bits take nothing; the bulk window while no command holds it. Every other
byte reads as before, and no setting in force changes. Shown to complete: registerWrite. -/
def Obligations.WindowWrites : Prop :=
  (∀ (s : State) (v : BitVec 32), globalOpen s = true → Completes (.registerWrite 0x30 (leN 4 v.toNat)) s fun t =>
      t.host.scratch = v ∧ t.host.shadow = s.host.shadow ∧ t.host.bulk = s.host.bulk)
  ∧ (∀ (s : State) (a : Nat) (bs : List Byte), a + bs.length ≤ 0x10000 → s.open3 = true → MemOk s →
      Completes (.registerWrite (0x10000 + a) bs) s fun t =>
        (∀ i : Fin bs.length, memGet pageReset t.host.shadow (a + i.val) = bs[i] &&& pageMask (a + i.val))
          ∧ (∀ x, x < a ∨ a + bs.length ≤ x → memGet pageReset t.host.shadow x = memGet pageReset s.host.shadow x)
          ∧ t.host.applied = s.host.applied ∧ t.host.ignoredW = min 65535 s.host.ignoredW)
  ∧ (∀ (s : State) (a : Nat) (bs : List Byte), a + bs.length ≤ 0x40000 → s.open2 = true → bulkHeld s = false →
      MemOk s →
      Completes (.registerWrite (0x40000 + a) bs) s fun t =>
        (∀ i : Fin bs.length, memGet zeroB t.host.bulk (a + i.val) = bs[i])
          ∧ (∀ x, x < a ∨ a + bs.length ≤ x → memGet zeroB t.host.bulk x = memGet zeroB s.host.bulk x))

/-- The command queue (R709, R710, R727, R735): a whole message with room is queued, cut to 8 + LEN bytes; an incomplete one
is discarded with reason 6, one without room with reason 5, and CQ_DROP is set. COMMAND_DISPATCH takes the oldest: a
refused one has no effect but event 0x0001, one that is accepted has the effect of the command that it spells. The
port's link, clears and own commands (R697, R703, R713, R716, R718, R722, R727, R734): a bad opcode and a cut byte are
counted up to 255; a write of 1 clears the latched source, or the done bit; RELEASE ends state 3; a read from the start
of the event window takes out the messages read whole; HCSN falling ends a host-port test slice, to be retried; HST_ECHO
answers with its body and HST_RESTART resets the device. Shown to complete: commandQueueWrite, commandDispatch,
hostBadOpcode, hcsnCut, hstIrqClear, hstCommitDoneClear, bulkRelease, eventQueueRead, hcsnFalling, hstEcho, hstRestart. -/
def Obligations.HostPortLink : Prop :=
  ((∀ (s : State) (bs : List Byte), s.open2 = true → 8 ≤ bs.length →
    (8 + msgLen bs ≤ bs.length → 8 + msgLen bs + cqUsed s ≤ 16384 → Completes (.commandQueueWrite 0x1000 bs) s fun t =>
      t.host.cq = s.host.cq ++ [bs.take (8 + msgLen bs)] ∧ t.host.dropped = s.host.dropped)
    ∧ (bs.length < 8 + msgLen bs → CanAnswer s → Completes (.commandQueueWrite 0x1000 bs) s fun t =>
      t.host.cq = s.host.cq ∧ t.host.lastReason = 6 ∧ t.host.irq.getLsbD 9 = true
        ∧ lastEvent t = some (0x0004, 255, leAt bs 6 2, 6 :: leN 2 (msgType bs)))
    ∧ (8 + msgLen bs ≤ bs.length → 16384 < 8 + msgLen bs + cqUsed s → Completes (.commandQueueWrite 0x1000 bs) s fun t =>
      t.host.cq = s.host.cq ∧ t.host.lastReason = 5 ∧ t.host.irq.getLsbD 9 = true))
  ∧ (∀ (s : State) (m : List Byte) (rest : List (List Byte)), s.host.cq = m :: rest →
    (∀ r, refusal s m = some r → CanAnswer s → Completes .commandDispatch s fun t =>
      t.host.cq = rest ∧ t.host.lastReason = r ∧ t.host.accepted = s.host.accepted
        ∧ lastEvent t = some (0x0001, 255, (msgHdr m).tag, leN 2 (msgType m) ++ leN 1 r ++ leN 1 (msgSeq m)))
    ∧ (refusal s m = none → msgType m = 0x8002 → CanAnswer s → Completes .commandDispatch s fun t =>
      t.host.cq = rest ∧ t.host.accepted = min 65535 (s.host.accepted + 1) ∧ t.host.dropped = s.host.dropped
        ∧ lastEvent t = some (0x0002, 255, (msgHdr m).tag, msgBody m))
    ∧ (∀ i, refusal s m = none → hostInstr m = some i →
      exec .commandDispatch s
        = exec i { s with host.cq := rest, host.accepted := min 65535 (s.host.accepted + 1) })
    ∧ (refusal s m = none → hostInstr m = none →
      exec .commandDispatch s = .fault (.undefinedBodyValue "COMMAND_DISPATCH"))))
  ∧ (∀ s : State,
    (Completes .hostBadOpcode s fun t => t.host.badOp = min 255 (s.host.badOp + 1) ∧ t.host.cut = s.host.cut)
    ∧ (Completes .hcsnCut s fun t => t.host.cut = min 255 (s.host.cut + 1) ∧ t.host.badOp = s.host.badOp)
    ∧ (globalOpen s = true → ∀ (m : BitVec 32) (i : Fin 12),
        (Completes (.hstIrqClear m) s fun t => t.host.irq.getLsbD i.val
          = (s.host.irq.getLsbD i.val && !(m.getLsbD i.val && latchedMask.getLsbD i.val))))
    ∧ (globalOpen s = true → ∀ m : BitVec 32, Completes (.hstCommitDoneClear m) s fun t =>
        ∀ i : Fin 16, t.host.doneC.getLsbD i.val = (s.host.doneC.getLsbD i.val && !m.getLsbD i.val))
    ∧ (globalOpen s = true → s.host.bulkState = 3 → Completes .bulkRelease s fun t =>
        t.host.bulkState = 0 ∧ t.host.bulk = s.host.bulk)
    ∧ (∀ (m : Msg) (rest : List Msg) (n : Nat), s.open2 = true → s.host.eq = m :: rest →
        (n < 8 + m.body.length → Completes (.eventQueueRead 0x2000 n) s fun t => t.host.eq = s.host.eq)
        ∧ (8 + m.body.length ≤ 4096 → Completes (.eventQueueRead 0x2000 (8 + m.body.length)) s fun t => t.host.eq = rest))
    ∧ (∀ n a, a ≠ 0x2000 → Completes (.eventQueueRead a n) s fun t => t.host.eq = s.host.eq)
    ∧ (s.host.bistRunning = true → Completes .hcsnFalling s fun t =>
        t.host.bistRunning = false ∧ t.host.bistRetry = true ∧ t.host.csLow = true)
    ∧ (∀ (h : CmdHdr) (body : List Byte), CanAnswer s → body.length ≤ 4088 →
        Answers (.hstEcho h body) s 0x0002 255 h.tag body)
    ∧ (∀ (h : CmdHdr), Completes (.hstRestart h [0x52, 0x53, 0x54, 0x52]) s fun t =>
        t.nv = s.nv ∧ t.bak = s.bak ∧ t.start = {} ∧ t.host = {} ∧ t.saf = Vector.replicate 8 {}))

/-- PLATEAU_VALUE (R165, R166, R168): in modes F and Off nothing is measured; a value in the hold band of the present state
ends a run towards another; the first and the second plateau in the enter band of another state only lengthen the run;
the third, from C to B, confirms B and ends a toggle for every validation that runs and has seen B before C (R187); a
tenth bad plateau in X1 is a pilot fault. PILOT_FAULT_PROBE (R169): three plateaus in a row in the enter band of A or B
end the fault, and the port goes back to mode X1; otherwise it stays in the fault. PROXIMITY_MEAN (R173 to R175): the
resistance is PULLUP × V / (REF − V); a result changes at the third mean in a row that gives it, with its rating; before
that only the run grows; a tethered cable gives TETHER_A. Shown to complete: plateauValue, pilotFaultProbe,
proximityMean. -/
def Obligations.PilotPlateausAndProximity : Prop :=
  (∀ (s : State) (b : Bough) (mv : Int), pilotLost s b = false →
    (s.ports[b].out = .off ∨ s.ports[b].out = .f → ∀ v, exec (.plateauValue b v mv) s = .next s)
    ∧ (s.ports[b].out = .x1 ∨ s.ports[b].out = .x2 →
      (inHold s.ports[b].state mv = true → s.ports[b].state ≠ .fault → s.ports[b].fresh = false →
        Completes (.plateauValue b true mv) s fun t =>
          t.ports[b].state = s.ports[b].state ∧ t.ports[b].candRun = 0 ∧ t.ports[b].posMv = mv)
      ∧ (∀ st n, classifyPlateau s.ports[b].state mv = some st → st ≠ s.ports[b].state → s.ports[b].state ≠ .fault →
          s.ports[b].cand = st → s.ports[b].candRun = n → n < 2 →
        Completes (.plateauValue b true mv) s fun t =>
          t.ports[b].state = s.ports[b].state ∧ t.ports[b].cand = st ∧ t.ports[b].candRun = n + 1)
      ∧ (classifyPlateau .C mv = some .B → s.ports[b].state = .C → s.ports[b].cand = .B → s.ports[b].candRun = 2 →
          s.ses[b].state = .connected → (pilotDrive s b).1 = .x1 ∨ (pilotDrive s b).1 = .x2 →
        Completes (.plateauValue b true mv) s fun t =>
          t.ports[b].state = .B ∧ t.ses[b] = s.ses[b]
            ∧ ∀ c : Bough, s.links[c].validating = true →
                t.links[c].toggles[b] = s.links[c].toggles[b] + (if s.links[c].togglePh[b] = 2 then 1 else 0)))
    ∧ (s.ports[b].out = .x1 → classifyPlateau s.ports[b].state mv = none → s.ports[b].badRun = 9 →
        s.ports[b].state ≠ .fault → Completes (.plateauValue b true mv) s fun t =>
          t.ports[b].state = .fault ∧ t.ports[b].badKind = 1 ∧ t.ports[b].slac = 0))
  ∧ ((∀ (s : State) (b : Bough) (mvs : List Int), s.ports[b].state = .fault → heldOut s b = false → forcedF s = false →
    bitOf (s.vehPortCfg b) 31 = true → pilotLost s b = false →
    (threeAB mvs 0 = false → Completes (.pilotFaultProbe b mvs) s fun t => t.ports[b].state = .fault)
    ∧ (threeAB mvs 0 = true → s.ready = true → s.stopped = false → s.safDev.firstBeat = true → s.log.fatalHold = false →
      Completes (.pilotFaultProbe b mvs) s fun t => t.ports[b].state = .A ∧ t.ports[b].winOpen = false ∧ t.ses = s.ses))
  ∧ (∀ (s : State) (b : Bough), fld (s.vehPpCfg b) 31 30 ≠ 2 → chFails s.mtr[b] 14 = false → 0 < s.ports[b].ppN →
    let v := s.ports[b].ppSum.toNat * (s.mtrFs (24 * b.val + 14)).toNat
    let num := fld (s.vehPpCfg b) 28 16 * v
    let den := 10000 * fld (s.vehPpCfg b) 9 0 * s.ports[b].ppN * 2 ^ 23 - v
    (Completes (.proximityMean b) s fun t => t.ports[b].ppN = 0
        ∧ t.ports[b].ppOhm = (if den = 0 then 0xFFFF else (quot num den).toNat))
    ∧ ∀ c n, ppClass (fld (s.vehPpCfg b) 31 30) num den = c → c ≠ s.ports[b].ppCode → s.ports[b].ppCand = c →
      s.ports[b].ppRun = n →
      (n < 2 → Completes (.proximityMean b) s fun t => t.ports[b].ppCode = s.ports[b].ppCode
          ∧ t.ports[b].ppRun = n + 1 ∧ t.ports[b].rating = s.ports[b].rating)
      ∧ (n = 2 → Completes (.proximityMean b) s fun t => t.ports[b].ppCode = c ∧ t.ports[b].rating = ppRating s b c))
  ∧ (∀ (s : State) (b : Bough), fld (s.vehPpCfg b) 31 30 = 2 → Completes (.proximityMean b) s fun t =>
      t.ports[b].ppCode = 7 ∧ t.ports[b].rating = 10 * fld (s.vehPpCfg b) 15 10))

/-- CM_SLAC_PARM_REQ and DECISION_WINDOW_END (R180, R182, R184, R186): a request that is not assigned is recorded with the
attenuations at all eight boughs, 90 dB where a receiver decoded nothing, afresh at each repetition; one that is
assigned is answered by its bough; at the window's end no request stays undecided, and a request is newly assigned only
with a margin of at least ASSOC_MARGIN. Sounding and matching (R182, R183, R185, R188, R208): a valid sound of an
assigned request is kept, one erased beyond 25 % at any receiver only counts as heard; fewer than 5 valid sounds release
the assignment with reason 3, a mean that is not lower than every other by CONFIRM_MARGIN with reason 2, and the window
stays open; otherwise the assignment is confirmed and the profile sent, and its match request associates the bough and
ends its window. Validation (R187), the end of a SLAC window (R181, R183) and of a stagger (R206): with VALIDATE 0 the
answer is 4; with VALIDATE 1 it is 1 and counting starts; the count ends with 2 when only the assigned bough shows the
requested count, else with 3; a window that expires closes with event 0x0207, and with BASIC the port goes on with
current by PWM; a held bough is a candidate again. Shown to complete: cmSlacParmReq, decisionWindowEnd,
cmStartAttenCharInd, cmMnbcSoundInd, soundingEnd, cmSlacMatchReq, cmValidateReq, validateCountEnd, slacWindowExpired,
staggerRelease. -/
def Obligations.Association : Prop :=
  ((∀ (s : State) (mac runId : List Byte) (atten : Vector (Option Nat) 8),
    ((∀ r, findReq s mac runId = some r → r.assigned = none) → Completes (.cmSlacParmReq mac runId atten) s fun t =>
      findReq t mac runId = some { mac := mac, runId := runId, atten := attens atten, heardNow := true })
    ∧ (∀ r b, findReq s mac runId = some r → r.assigned = some b → Completes (.cmSlacParmReq mac runId atten) s fun t =>
      t.links[b].reply = some (.slacParmCnf (modemMac s b) 10 600 0) ∧ t.ports = s.ports))
  ∧ (∀ s : State, Completes .decisionWindowEnd s fun t => ∀ r ∈ t.assoc.reqs, r.heardNow = false
        ∧ ∀ x, r.assigned = some x →
          (∃ q ∈ s.assoc.reqs, q.mac = r.mac ∧ q.runId = r.runId ∧ q.assigned = some x)
            ∨ fld s.vehSlacCfg 7 0 ≤ r.margin))
  ∧ (∀ (s : State) (mac runId : List Byte) (r : SlacReq) (b : Bough), findReq s mac runId = some r → r.assigned = some b →
    (∀ v, Completes (.cmStartAttenCharInd mac runId v) s fun t => t.ports[b].slac = 3
        ∧ ∃ q, findReq t mac runId = some q ∧ q.sounds = [] ∧ q.heard = 0 ∧ q.startAtten = attens v)
    ∧ (∀ (v : Vector (Option Nat) 8) (e : Vector Nat 8) (g : Vector Nat 58), s.ports[b].slac = 3 → r.heard < 10 →
        Completes (.cmMnbcSoundInd mac runId v e g) s fun t =>
        ∃ q, findReq t mac runId = some q ∧ q.heard = r.heard + 1
          ∧ ((∀ x : Bough, e[x] ≤ 25) → q.sounds = r.sounds ++ [attens v] ∧ q.profiles = r.profiles ++ [g])
          ∧ ((∃ x : Bough, 25 < e[x]) → q.sounds = r.sounds))
    ∧ (s.ports[b].slac = 3 → r.sounds.length < 5 → CanReport 0x0206 7 s → Completes (.soundingEnd mac runId) s fun t =>
        (∃ q, findReq t mac runId = some q ∧ q.assigned = none) ∧ t.ports[b].winOpen = s.ports[b].winOpen
          ∧ lastEvent t = some (0x0206, b.val, 0, padTo 6 mac ++ [3]))
    ∧ (s.ports[b].slac = 3 → 5 ≤ r.sounds.length → soundsConfirm s r b = false → CanReport 0x0206 7 s →
        Completes (.soundingEnd mac runId) s fun t =>
          (∃ q, findReq t mac runId = some q ∧ q.assigned = none)
            ∧ lastEvent t = some (0x0206, b.val, 0, padTo 6 mac ++ [2]))
    ∧ (s.ports[b].slac = 3 → 5 ≤ r.sounds.length → soundsConfirm s r b = true → Completes (.soundingEnd mac runId) s fun t =>
        (∃ q, findReq t mac runId = some q ∧ q.confirmed = true)
          ∧ t.links[b].reply = some (.attenCharInd (profileOf r)))
    ∧ (r.confirmed = true → s.crypto.drbgOk = true → Completes (.cmSlacMatchReq mac runId) s fun t =>
        t.ports[b].slac = 4 ∧ t.ports[b].winOpen = false ∧ t.ports[b].mac = padTo 6 mac ∧ t.ports[b].nmk.length = 16
          ∧ t.links[b].reply = some (.slacMatchCnf t.ports[b].nid t.ports[b].nmk) ∧ findReq t mac runId = none))
  ∧ ((∀ (s : State) (b : Bough) (n : Nat), answersMatching s b = true →
    (bitOf s.vehSlacCfg 31 = false → Completes (.cmValidateReq b n) s fun t => t.links[b].reply = some (.validate 4))
    ∧ (bitOf s.vehSlacCfg 31 = true → Completes (.cmValidateReq b n) s fun t => t.links[b].reply = some (.validate 1)
        ∧ t.links[b].validating = true ∧ t.links[b].valCount = n ∧ t.links[b].toggles = Vector.replicate 8 0))
  ∧ (∀ (s : State) (b : Bough), s.links[b].validating = true →
    Completes (.validateCountEnd b) s fun t => t.links[b].validating = false
      ∧ ((s.links[b].toggles[b] = s.links[b].valCount ∧ ∀ c : Bough, c ≠ b → s.links[b].toggles[c] ≠ s.links[b].valCount) →
          t.links[b].reply = some (.validate 2))
      ∧ ((s.links[b].toggles[b] ≠ s.links[b].valCount ∨ ∃ c : Bough, c ≠ b ∧ s.links[b].toggles[c] = s.links[b].valCount) →
          t.links[b].reply = some (.validate 3)))
  ∧ (∀ (s : State) (b : Bough), s.ports[b].winOpen = true → s.ports[b].slac ≠ 5 →
    Completes (.slacWindowExpired b) s fun t => t.ports[b].winOpen = false
      ∧ t.ports[b].slac = (if s.ports[b].slac = 4 then 4 else 0)
      ∧ t.ports[b].fallback = (s.ports[b].fallback || bitOf (s.vehPortCfg b) 29)
      ∧ ∀ r ∈ t.assoc.reqs, r.assigned ≠ some b)
  ∧ (∀ (s : State) (b : Bough), s.ports[b].slac = 5 → Completes (.staggerRelease b) s fun t =>
      t.ports[b].slac = 1 ∧ candidate t b = s.ports[b].winOpen))

/-- Modem frames (R52, R204, R205, R209): without frame control no block and no acknowledgement; blocks that pass are placed
once each in their positions and the others are named; an acknowledgement keeps only the failed blocks, each sent once
more and at most four times in all; a frame of at most 128 symbols starts only once every symbol is built, at a bough
whose pilot stands in states B to D, and on the canopy line only where the line is free. Shown to complete:
modemFrameReceived, selectiveAckReceived, modemFrameTransmit. -/
def Obligations.ModemFrames : Prop :=
  (∀ (s : State) (b : Bough) (symbols : List (List Int)) (blocks : List RxBlock),
    (Completes (.modemFrameReceived b symbols false blocks) s fun t =>
        t.links[b].rxBlocks = s.links[b].rxBlocks ∧ t.links[b].ackFailed = s.links[b].ackFailed
          ∧ t.links[b].rxErased.length = symbols.length)
    ∧ (Completes (.modemFrameReceived b symbols true blocks) s fun t =>
        t.links[b].ackFailed = (blocks.filter (fun x => !x.ok)).map (·.seq)
          ∧ (∀ x ∈ s.links[b].rxBlocks, x ∈ t.links[b].rxBlocks)
          ∧ (∀ x ∈ blocks, x.ok = true → ∃ d, (x.seq, d) ∈ t.links[b].rxBlocks)
          ∧ ∀ e ∈ t.links[b].rxBlocks, e ∉ s.links[b].rxBlocks → ∃ x ∈ blocks, x.ok = true ∧ e = (x.seq, x.data)))
  ∧ (∀ (s : State) (b : Bough) (failed : List Nat), Completes (.selectiveAckReceived b failed) s fun t =>
      t.links[b].txBlocks = ((s.links[b].txBlocks.filter (fun x => failed.contains x.seq)).filter
          (fun x => decide (x.attempts < 4))).map (fun x => { x with attempts := x.attempts + 1 })
        ∧ t.links[b].transmitting = false ∧ t.ports[b].retx = min 255 (s.ports[b].retx + t.links[b].txBlocks.length))
  ∧ (∀ (s : State) (b : Bough) (symbols built : Nat) (blocks : List TxBlock) (m : Medium),
      Completes (.modemFrameTransmit b.castSucc symbols built blocks m) s fun t =>
        t.links[b].transmitting = (decide (symbols ≤ 128) && decide (symbols ≤ built) && pilotIn s b)
          ∧ t.links[b].txWaiting = !t.links[b].transmitting ∧ t.canopy = s.canopy
          ∧ (s.links[b].resend = true → t.links[b].txBlocks = s.links[b].txBlocks))
  ∧ (∀ (s : State) (symbols built : Nat) (blocks : List TxBlock) (m : Medium),
      Completes (.modemFrameTransmit 8 symbols built blocks m) s fun t => t.links = s.links
        ∧ (t.canopy.transmitting = true → symbols ≤ 128 ∧ symbols ≤ built ∧ s.canopy.role ≠ 0)
        ∧ (∀ e, nextOut s = some e → contends s e = true → m = .busy → t.canopy.transmitting = false))

/-- The dialogue with an associated vehicle (R189, R190, R192, R195, R214, R215): the discovery answer on UDP port 15118;
the protocol ISO 15118-20 before -2 before DIN SPEC 70121 among those asked for, enabled and possible, with event
0x020B; an unsupported request fails; an authorised DC session starts to close at its cable check; power delivery stop
and session stop end the transfer with reason 0x01, a protocol timer that counts with 0x08. A bough that is not
associated, or whose core is dead, answers nothing. Shown to complete: seccDiscoveryReq, supportedAppProtocol,
v2gRequest, paymentDetailsReq, certificateInstallationReq, cableCheckReq, powerDeliveryReq, sessionStopReq,
v2gTimerExpired. -/
def Obligations.VehicleDialogue : Prop :=
  (∀ (s : State) (b : Bough), linked s b = false →
    (∀ l u, exec (.seccDiscoveryReq b l u) s = .next s) ∧ exec (.sessionStopReq b) s = .next s
      ∧ (∀ r, exec (.v2gRequest b r) s = .next s) ∧ (∀ k, exec (.powerDeliveryReq b k) s = .next s)
      ∧ exec (.cableCheckReq b) s = .next s ∧ (∀ k, exec (.v2gTimerExpired b k) s = .next s))
  ∧ (∀ (s : State) (b : Bough), linked s b = true → s.ses[b].state ≠ .stopping →
    (Completes (.seccDiscoveryReq b true 15118) s fun t => t.links[b].reply = some .sdpResponse)
    ∧ (∀ conn list tls suites p, (∀ c, s.links[b].conn = some c → c = conn) →
        [Proto.iso20, Proto.iso2, Proto.din].find? (protoOk s b list tls suites) = some p → CanReport 0x020B 2 s →
        Completes (.supportedAppProtocol b conn list tls suites) s fun t =>
          t.ports[b].proto = (match p with | .iso20 => 3 | .iso2 => 2 | .din => 1)
            ∧ (p = .iso20 → t.ports[b].tls = true) ∧ (p = .din → t.ports[b].tls = false)
            ∧ t.links[b].reply = some .protocolChosen
            ∧ lastEvent t = some (0x020B, b.val, 0, leN 1 t.ports[b].proto ++ leN 1 (b2n t.ports[b].tls)))
    ∧ (∀ conn list tls suites c, s.links[b].conn = some c → c ≠ conn →
        exec (.supportedAppProtocol b conn list tls suites) s = .next s)
    ∧ (∀ r, supported s b r = false → Completes (.v2gRequest b r) s fun t =>
        t.links[b].reply = some .failed ∧ t.ses = s.ses ∧ t.sesL = s.sesL)
    ∧ (s.ports[b].proto ≠ 0 → Completes (.v2gRequest b .serviceDiscovery) s fun t => t.links[b].reply = some .ok)
    ∧ (s.ports[b].proto < 2 → ∀ e n c d, Completes (.paymentDetailsReq b e n c d) s fun t =>
        t.links[b].reply = some .failed ∧ t.ses = s.ses)
    ∧ (2 ≤ s.ports[b].proto → Completes (.certificateInstallationReq b) s fun t =>
        t.links[b].reply = some (if bitOf s.sesAuthCfg 31 then .ongoing else .failed))
    ∧ (isDC s b = true → s.ses[b].state = .authorised → Completes (.cableCheckReq b) s fun t =>
        t.ses[b].state = .energising ∧ t.saf[b].closeReq = true ∧ t.saf[b].isolation = 0))
  ∧ (∀ (s : State) (b : Bough), linked s b = true → transferring s.ses[b].state = true → coilsClosed s b = true →
    (Completes (.powerDeliveryReq b .stop) s fun t => t.ses[b].state = .stopping ∧ t.ses[b].stopReason = 0x01)
    ∧ (Completes (.sessionStopReq b) s fun t => t.ses[b].state = .stopping ∧ t.ses[b].stopReason = 0x01)
    ∧ (∀ k, timerCounts s b k = true → Completes (.v2gTimerExpired b k) s fun t =>
        t.ses[b].state = .stopping ∧ t.ses[b].stopReason = 0x08 ∧ t.saf[b].closeReq = false))

/-- The session's timers (R214 to R216, R218, R230 to R233, R239, R252): what each does when its time has run out, on a
bough whose session core runs. CREDIT_CHECK (R227, R230, R247), on the cost as the heartwood reports it: a grant of a
nonzero amount that is reached stops the session with reason 0x06; a new grant below the cost is a cut, event 0x0307 and
reason 0x05; a LOCAL session without credit and outside a friendly window stops with reason 0x04 or 0x0D; no other state
stops. Shown to complete: authHoldExpired, hostWaitExpired, hostCeilingExpired, ceilingBelowMinimum, stopWaitEnd,
powerRequest, currentAllowanceExpired, grantExpired, creditCheck. -/
def Obligations.SessionTimers : Prop :=
  (∀ (s : State) (b : Bough), coreAlive s b = true →
    (s.ses[b].state = .authorised → fld s.sesAuthCfg 15 8 ≠ 0 → Completes (.authHoldExpired b) s fun t =>
      t.ses[b].state = .finished ∧ t.ses[b].stopReason = 0x11)
    ∧ (fld s.sesAuthCfg 15 8 = 0 → exec (.authHoldExpired b) s = .next s)
    ∧ (s.ses[b].state = .connected → bitOf (s.sesBoughCfg b) 31 = true → s.ses[b].held = [] →
      Completes (.hostWaitExpired b) s fun t => authorised t.ses[b].state = true ∧ t.ses[b].authBy = 3)
    ∧ (s.sesL[b].ceilTimed = true → Completes (.hostCeilingExpired b) s fun t =>
      t.sesL[b].hostCeil = none ∧ t.sesL[b].ceilTimed = false ∧ t.ses[b].state = s.ses[b].state)
    ∧ (s.ses[b].state = .charging → s.ses[b].ceilW < s.sesL[b].vehMin → Completes (.ceilingBelowMinimum b) s fun t =>
      t.ses[b].state = .suspended)
    ∧ (s.sesL[b].vehMin ≤ s.ses[b].ceilW → exec (.ceilingBelowMinimum b) s = .next s)
    ∧ (s.ses[b].state = .stopping → s.sesL[b].stopIssued = true → coilsClosed s b = true →
      Completes (.stopWaitEnd b) s fun t => t.saf[b].openReq = true ∧ t.sesL[b].stopIssued = false)
    ∧ (sendsRequests s.ses[b].state = true → Completes (.powerRequest b) s fun t =>
      t.sesL[b].reqCount = (s.sesL[b].reqCount + 1) % 65536 ∧ t.ses = s.ses)
    ∧ (sendsRequests s.ses[b].state = false → exec (.powerRequest b) s = .next s)
    ∧ (transferring s.ses[b].state = true → coilsClosed s b = true →
      (s.sesL[b].lowered = true → 11 * offeredMa s b + 10000 < 10 * blockMa s b →
        Completes (.currentAllowanceExpired b) s fun t => t.ses[b].state = .stopping ∧ t.ses[b].stopReason = 0x0B)
      ∧ (∀ g, s.ses[b].grant = some g → g.expiry ≠ 0 → Completes (.grantExpired b) s fun t =>
        t.ses[b].state = .stopping ∧ t.ses[b].stopReason = 0x07))
    ∧ (10 * blockMa s b ≤ 11 * offeredMa s b + 10000 → exec (.currentAllowanceExpired b) s = .next s)
    ∧ (∀ g, s.ses[b].grant = some g → g.expiry = 0 → exec (.grantExpired b) s = .next s))
  ∧ (∀ (s : State) (b : Bough) (c : Nat), coreAlive s b = true → s.ses[b].cost = c → s.bilB[b].sesOpen = false →
    transferring s.ses[b].state = true → coilsClosed s b = true →
      (∀ g, s.ses[b].grant = some g → s.ses[b].newGrant = none → s.ses[b].cutTo = none → g.amount ≠ 0 → g.amount ≤ c →
        Completes (.creditCheck b) s fun t => t.ses[b].state = .stopping ∧ t.ses[b].stopReason = 0x06)
      ∧ (∀ g, s.ses[b].newGrant = some g → g.amount ≠ 0 → g.amount < c → Completes (.creditCheck b) s fun t =>
          t.ses[b].state = .stopping ∧ t.ses[b].stopReason = 0x05 ∧ t.ses[b].grant = some g)
      ∧ (s.ses[b].grant = none → s.ses[b].newGrant = none → s.ses[b].cutTo = none → s.ses[b].remote = false →
          s.ses[b].slot.isSome = true → available s b ≤ 0 → friendlyFor s b = false →
          Completes (.creditCheck b) s fun t => t.ses[b].state = .stopping
            ∧ t.ses[b].stopReason = (if s.ses[b].inFriendly then 0x0D else 0x04))
      ∧ (s.ses[b].grant = none → s.ses[b].newGrant = none → s.ses[b].cutTo = none → s.ses[b].slot = none →
          Completes (.creditCheck b) s fun t => t.ses[b].state = s.ses[b].state))

/-- SES_AUTH, SES_IDENT, SES_STOP, SES_GRANT and SES_CEILING (R218, R220, R230, R231, R234, R236): what each does in the
states that take it on a bough whose session core runs, and the result that it answers with. Where a SES command stops
or is turned away (R234, R730): a bough above 7 in the header is answered with 0xFF; a body value outside its range with
no result of its own leaves the behaviour undefined. Shown to complete: sesAuthAccept, sesAuthRefuse, sesIdent, sesStop,
sesGrant, sesCeiling. -/
def Obligations.SessionCommands : Prop :=
  (∀ (s : State) (h : CmdHdr) (b : Bough), h.bough = b.val → coreAlive s b = true →
    (∀ remote expiry, s.ses[b].state = .authorising → s.ses[b].waitTag = some h.tag →
      Completes (.sesAuthAccept h remote 0 expiry []) s fun t =>
        authorised t.ses[b].state = true ∧ t.ses[b].authBy = 1 ∧ t.ses[b].remote = remote
          ∧ t.ses[b].grant = some { amount := 0, expiry := expiry })
    ∧ (∀ remote amount expiry, s.ses[b].state = .authorising → s.ses[b].waitTag ≠ some h.tag → CanAnswer s →
      Answers (.sesAuthAccept h remote amount expiry []) s 0x0308 b.val h.tag [2])
    ∧ (∀ ident, ident.length ≤ 32 → s.ses[b].state = .authorised → namesAuthorised s.ses[b] ident h.tag = true →
      Completes (.sesAuthRefuse h ident) s fun t => t.ses[b].state = .finished ∧ t.ses[b].stopReason = 0x0E)
    ∧ (∀ ident, ident.length ≤ 32 → s.ses[b].state = .idle → CanAnswer s →
      Answers (.sesAuthRefuse h ident) s 0x0308 b.val h.tag [2])
    ∧ (∀ x, x ≠ [] → x.length ≤ 32 → s.ses[b].state = .authorising → Completes (.sesIdent h x) s fun t =>
        t.ses[b].held = (if s.ses[b].held.length < 4 then s.ses[b].held else s.ses[b].held.drop 1)
            ++ [{ kind := 2, bytes := x, tag := some h.tag }]
          ∧ t.ses[b].state = .authorising)
    ∧ (∀ x, x ≠ [] → x.length ≤ 32 → s.ses[b].state = .idle → CanAnswer s →
      Answers (.sesIdent h x) s 0x0308 b.val h.tag [2])
    ∧ (transferring s.ses[b].state = true → coilsClosed s b = true → Completes (.sesStop h) s fun t =>
        t.ses[b].state = .stopping ∧ t.ses[b].stopReason = 0x03 ∧ t.ses[b].stopTag = some h.tag)
    ∧ (s.ses[b].state = .authorised → Completes (.sesStop h) s fun t =>
        t.ses[b].state = .finished ∧ t.ses[b].stopReason = 0x03)
    ∧ (s.ses[b].state = .idle → CanAnswer s → Answers (.sesStop h) s 0x0308 b.val h.tag [2])
    ∧ (∀ amount expiry, authorised s.ses[b].state = true → Completes (.sesGrant h amount expiry) s fun t =>
        t.ses[b].newGrant = some { amount := amount, expiry := expiry } ∧ t.ses[b].grant = s.ses[b].grant
          ∧ (CanAnswer s → lastEvent t = some (0x0308, b.val, h.tag, [0])))
    ∧ (∀ amount expiry, s.ses[b].state = .idle → CanAnswer s →
      Answers (.sesGrant h amount expiry) s 0x0308 b.val h.tag [2])
    ∧ (∀ w v, w ≤ 0x7FFFFFFF → Completes (.sesCeiling h w v) s fun t =>
        t.sesL[b].hostCeil = some w ∧ t.sesL[b].ceilTimed = (v != 0) ∧ t.ses[b].state = s.ses[b].state))
  ∧ (∀ (s : State) (h : CmdHdr), 
    (7 < h.bough → CanAnswer s →
      Answers (.sesStop h) s 0x0308 h.bough h.tag [0xFF]
        ∧ (∀ amount expiry, Answers (.sesGrant h amount expiry) s 0x0308 h.bough h.tag [0xFF])
        ∧ (∀ w v, w ≤ 0x7FFFFFFF → Answers (.sesCeiling h w v) s 0x0308 h.bough h.tag [0xFF])
        ∧ (∀ x, x ≠ [] → x.length ≤ 32 → Answers (.sesIdent h x) s 0x0308 h.bough h.tag [0xFF]))
    ∧ (∀ x, x = [] ∨ 32 < x.length → exec (.sesIdent h x) s = .fault (.undefinedBodyValue "SES_IDENT"))
    ∧ (∀ w v, 0x7FFFFFFF < w → exec (.sesCeiling h w v) s = .fault (.undefinedBodyValue "SES_CEILING"))
    ∧ (∀ n, n = 0 ∨ 16384 < n →
        exec (.sesLedgerLoadMerge h n) s = .fault (.undefinedBodyValue "SES_LEDGER_LOAD_MERGE")))

/-- SES_CREDIT (R229, R237): without a record the result is 1, a create where one exists 5; a set writes the balance, held
in the range of R17; new flags keep VALID and the balance; a delete clears VALID where no session holds the record, and
is refused with 4 where one does. The record written is the one that the lookup found. debit() (R227): the record pays
first, then unused emergency credit, then the balance goes below zero; nothing is lost while the balance stays in its
range. Shown to complete: sesCreditAdd, sesCreditSet, sesCreditDelete, sesCreditSetFlags, sesCreditCreate. -/
def Obligations.CreditRecords : Prop :=
  (∀ (s u : State) (h : CmdHdr) (d : List Byte), d.length = 8 → MemOk s →
    (lookup d s = (none, u) → CanAnswer u →
      (∀ x, Answers (.sesCreditAdd h d x) s 0x0308 255 h.tag [1])
        ∧ (∀ x, Answers (.sesCreditSet h d x) s 0x0308 255 h.tag [1])
        ∧ Answers (.sesCreditDelete h d) s 0x0308 255 h.tag [1]
        ∧ (∀ f, Answers (.sesCreditSetFlags h d f) s 0x0308 255 h.tag [1]))
    ∧ (∀ i, lookup d s = (some i, u) → CanAnswer u →
      (∀ x, Completes (.sesCreditSet h d x) s fun t =>
        slotRecord t i = mkRecord (recDigest (slotRecord u i)) (clampBalance x) (byteAt (slotRecord u i) 13)
          (recEcUsed (slotRecord u i)))
      ∧ (∀ x, x < 0 → Completes (.sesCreditAdd h d x) s fun t =>
        slotRecord t i = mkRecord (recDigest (slotRecord u i)) (clampBalance (recBalance (slotRecord u i) + x))
          (byteAt (slotRecord u i) 13) (recEcUsed (slotRecord u i)))
      ∧ (∀ f, Completes (.sesCreditSetFlags h d f) s fun t =>
        slotRecord t i = mkRecord (recDigest (slotRecord u i)) (recBalance (slotRecord u i)) (f ||| 1)
            (recEcUsed (slotRecord u i))
          ∧ lastEvent t = some (0x0308, 255, h.tag, [0]))
      ∧ (holderOf u i = none → Completes (.sesCreditDelete h d) s fun t => recValid (slotRecord t i) = false
          ∧ lastEvent t = some (0x0308, 255, h.tag, [0]))
      ∧ (holderOf u i ≠ none → Answers (.sesCreditDelete h d) s 0x0308 255 h.tag [4])
      ∧ (∀ f x, Answers (.sesCreditCreate h d f x) s 0x0308 255 h.tag [5]))
    ∧ (∀ i v f x, lookup d s = (none, u) → freeFrom d 64 0 u = (some i, v) → CanAnswer v →
      Completes (.sesCreditCreate h d f x) s fun t =>
        slotRecord t i = mkRecord d (clampBalance x) (f ||| 1) 0 ∧ lastEvent t = some (0x0308, 255, h.tag, [0])))
  ∧ (∀ (balance : Int) (room cost : Nat), -(2 ^ 38) ≤ balance → balance < 2 ^ 38 → cost < 2 ^ 38 →
    let p := debit balance room cost
    p.2 ≤ room ∧ p.1 - p.2 = balance - cost
      ∧ (0 < p.2 → p.1 ≤ 0) ∧ ((cost : Int) ≤ balance → p.2 = 0)
      ∧ (p.1 < 0 → 0 ≤ balance → p.2 = room))

/-- SES_LEDGER_LOAD (R235, R716): a replace is refused with result 4 while a session holds a record, and changes no record;
a load gives the bulk window back and sets BULK_DONE; a record whose digest exists is set, its flags with VALID. Shown
to complete: sesLedgerLoadMerge, sesLedgerLoadReplace. -/
def Obligations.LedgerLoads : Prop :=
  ∀ (s : State) (h : CmdHdr) (n : Nat), 1 ≤ n → n ≤ 16384 →
    (Completes (.sesLedgerLoadMerge h n) s fun t => t.host.bulkState = 0 ∧ t.host.irq.getLsbD 10 = true)
    ∧ ((∀ b : Bough, s.ses[b].slot = none) → Completes (.sesLedgerLoadReplace h n) s fun t =>
        t.host.bulkState = 0 ∧ t.host.irq.getLsbD 10 = true ∧ t.nv.flash.active = 1 - s.nv.flash.active)
    ∧ ((∃ b : Bough, s.ses[b].slot ≠ none) → CanAnswer s → Completes (.sesLedgerLoadReplace h n) s fun t =>
        lastEvent t = some (0x030A, 255, h.tag, 4 :: List.replicate 12 0) ∧ t.mem = s.mem ∧ t.nv = s.nv)
    ∧ (∀ i u, MemOk s → digestHeld s (nonZeroDigest (recDigest (bulkBytes s 0 16))) = false →
        (halfAt s s.nv.flash.active).entries.length < logEntries →
        lookup (nonZeroDigest (recDigest (bulkBytes s 0 16))) s = (some i, u) →
        Completes (.sesLedgerLoadMerge h 1) s fun t =>
          slotRecord t i = mkRecord (nonZeroDigest (recDigest (bulkBytes s 0 16))) (recBalance (bulkBytes s 0 16))
            (byteAt (bulkBytes s 0 16) 13 ||| 1) (recEcUsed (slotRecord u i)))

/-- Closing (R259 to R261): a requested closing with its preconditions drives coil 1 of those that REQ names, the request is
spent; the coils that follow it are driven in the step after: 0 and 2, on a DC bough with PRECHG coil 2 alone, without
it coil 0 alone. A request without its preconditions is spent, every coil stays open, and the bough trips with code 20.
No coil of another bough is driven. The steps after it (R260, R261, R214): with every required sense closed the AC
sequence is done and the session charges with its begin reading; coil 0 follows once the link voltage is near; coil 2 is
released when coil 0's sense reads closed; the insulation step, where IMD_EN is 0, begins pre-charge when the voltage
has come; at pre-charge complete the DC sequence is done; a step that does not come in time opens the bough with trip
code 15, which latches. Shown to complete: closingSequence, dcClosingSequence, contactConfirmed, prechargeComplete,
closingConfirmTimeout. -/
def Obligations.ClosingContactors : Prop :=
  (∀ (s : State) (b : Bough),
    (s.saf[b].closeReq = true → s.saf[b].closing = .none → isDC s b = false → mayClose s b = true →
      Completes (.closingSequence b .begin) s fun t =>
        t.saf[b].closing = .acFirst ∧ t.saf[b].closeReq = false
          ∧ (∀ k : Fin 3, t.saf[b].coils[k].driven = (s.saf[b].coils[k].driven || (k == 1 && required s b 1)))
          ∧ ∀ c, c ≠ b → t.saf[c] = s.saf[c])
    ∧ (s.saf[b].closing = .acFirst → isDC s b = false → Completes (.closingSequence b .second) s fun t =>
        t.saf[b].closing = .acConfirm
          ∧ (∀ k : Fin 3, t.saf[b].coils[k].driven = (s.saf[b].coils[k].driven || (k != 1 && required s b k)))
          ∧ ∀ c, c ≠ b → t.saf[c] = s.saf[c])
    ∧ (s.saf[b].closeReq = true → s.saf[b].closing = .none → isDC s b = true → mayClose s b = true →
      Completes (.dcClosingSequence b .begin) s fun t =>
        t.saf[b].closing = .dcFirst ∧ t.saf[b].closeReq = false
          ∧ ∀ k : Fin 3, t.saf[b].coils[k].driven = (s.saf[b].coils[k].driven || (k == 1 && required s b 1)))
    ∧ (s.saf[b].closing = .dcFirst → bitOf (s.safBoughCfg b) 30 = true →
      Completes (.dcClosingSequence b .second) s fun t => t.saf[b].closing = .dcLink
        ∧ ∀ k : Fin 3, t.saf[b].coils[k].driven = (s.saf[b].coils[k].driven || (k == 2 && required s b 2)))
    ∧ (s.saf[b].closing = .dcFirst → bitOf (s.safBoughCfg b) 30 = false →
      Completes (.dcClosingSequence b .second) s fun t => t.saf[b].closing = .acConfirm
        ∧ ∀ k : Fin 3, t.saf[b].coils[k].driven = (s.saf[b].coils[k].driven || (k == 0 && required s b 0)))
    ∧ (s.saf[b].closeReq = true → s.saf[b].closing = .none → isDC s b = false → mayClose s b = false →
      Completes (.closingSequence b .begin) s fun t =>
        (∀ k : Fin 3, t.saf[b].coils[k].driven = false) ∧ t.saf[b].closing = .none ∧ t.saf[b].closeReq = false)
    ∧ (s.saf[b].closeReq = true → s.saf[b].closing = .none → isDC s b = true → mayClose s b = false →
      Completes (.dcClosingSequence b .begin) s fun t =>
        (∀ k : Fin 3, t.saf[b].coils[k].driven = false) ∧ t.saf[b].closing = .none ∧ t.saf[b].closeReq = false))
  ∧ (∀ (s : State) (b : Bough),
    (s.saf[b].closing = .acConfirm → isDC s b = false → contactsClosed s b = true → s.ses[b].state = .energising →
      coreAlive s b = true → Completes (.contactConfirmed b) s fun t =>
        t.saf[b].closing = .none ∧ t.ses[b].state = .charging ∧ t.sesL[b].begun = true
          ∧ ∀ k : Fin 3, t.saf[b].coils[k].driven = s.saf[b].coils[k].driven)
    ∧ (s.saf[b].closing = .dcLink → linkNear s b = true → Completes (.dcClosingSequence b .linkReached) s fun t =>
      t.saf[b].closing = .dcMain
        ∧ t.saf[b].coils[(0 : Fin 3)].driven = (s.saf[b].coils[(0 : Fin 3)].driven || required s b 0))
    ∧ (s.saf[b].closing = .dcMain → senseReads s b 0 = some true → Completes (.contactConfirmed b) s fun t =>
      t.saf[b].closing = .dcRelease ∧ t.saf[b].coils[(2 : Fin 3)].driven = false)
    ∧ (s.saf[b].closing = .dcInsulation → bitOf (s.safBoughCfg b) 27 = false →
        9 * 1000 * s.sesL[b].targetV ≤ 10 * s.saf[b].side.ch8 → Completes (.dcClosingSequence b .insulation) s fun t =>
      t.saf[b].closing = .dcPrecharge ∧ t.saf[b].isolation = 4 ∧ t.sesL[b].preCharge = true)
    ∧ (s.saf[b].closing = .dcPrecharge → s.ses[b].state = .energising → coreAlive s b = true →
        1000 * (s.saf[b].side.ch8 - 1000 * s.sesL[b].targetV).natAbs
          ≤ fld (s.safSenseCfg b) 15 8 * (1000 * s.sesL[b].targetV).natAbs →
      Completes (.prechargeComplete b) s fun t =>
        t.saf[b].closing = .none ∧ t.ses[b].state = .charging ∧ t.sesL[b].preCharge = false)
    ∧ (s.saf[b].closing = .acConfirm ∨ s.saf[b].closing = .dcLink ∨ s.saf[b].closing = .dcMain →
      Completes (.closingConfirmTimeout b) s fun t =>
        15 ∈ t.saf[b].latched ∧ t.saf[b].closing = .none ∧ ∀ k : Fin 3, t.saf[b].coils[k].driven = false))

/-- Opening (R262, R263): on the session engine's request coils 0 and 2 are released and event 0x0402 is recorded with cause
0; coil 1 follows; a weld check of a released coil passes where its sense reads open, is undetermined without a valid
sense, and is repeated when the sense becomes valid; a sense that reads closed is a weld: trip code 14, which latches.
In a DC closing sequence the check of coil 2 leads to the insulation step, or abandons the sequence where it fails or is
undetermined. Shown to complete: ordinaryOpening, secondRelease, weldCheck, weldRecheck. -/
def Obligations.OpeningAndWelds : Prop :=
  ∀ (s : State) (b : Bough),
    (s.saf[b].openReq = true → s.saf[b].closing = .none → CanReport 0x0402 1 s → Completes (.ordinaryOpening b) s fun t =>
      t.saf[b].coils[(0 : Fin 3)].driven = false ∧ t.saf[b].coils[(2 : Fin 3)].driven = false
        ∧ t.saf[b].coils[(1 : Fin 3)] = s.saf[b].coils[(1 : Fin 3)] ∧ t.saf[b].opening = true ∧ t.saf[b].lastCause = 0
        ∧ lastEvent t = some (0x0402, b.val, 0, [0]))
    ∧ (s.saf[b].opening = true → Completes (.secondRelease b) s fun t =>
      t.saf[b].coils[(1 : Fin 3)].driven = false ∧ t.saf[b].opening = false)
    ∧ (∀ k : Fin 3, s.saf[b].coils[k].weldWait = true → (k = 2 → s.saf[b].closing ≠ .dcRelease) →
      (senseReads s b k = some false → Completes (.weldCheck b k) s fun t =>
          t.saf[b].coils[k].weldWait = false ∧ t.saf[b].coils[k].undet = false ∧ t.saf[b].latched = s.saf[b].latched)
      ∧ ((senseValue s b k).isSome = true → senseReads s b k = none → Completes (.weldCheck b k) s fun t =>
          t.saf[b].coils[k].weldWait = false ∧ t.saf[b].coils[k].undet = true)
      ∧ (senseReads s b k = some true → Completes (.weldCheck b k) s fun t =>
          14 ∈ t.saf[b].latched ∧ t.saf[b].coils[k].welded = true ∧ ∀ j : Fin 3, t.saf[b].coils[j].driven = false))
    ∧ (s.saf[b].closing = .dcRelease →
      (senseReads s b 2 = some false → Completes (.weldCheck b 2) s fun t =>
          t.saf[b].closing = .dcInsulation ∧ t.sesL[b].cableCheck = true ∧ t.saf[b].latched = s.saf[b].latched)
      ∧ (senseReads s b 2 = some true → Completes (.weldCheck b 2) s fun t =>
          14 ∈ t.saf[b].latched ∧ t.saf[b].closing = .none ∧ ∀ j : Fin 3, t.saf[b].coils[j].driven = false)
      ∧ (senseReads s b 2 = none → Completes (.weldCheck b 2) s fun t =>
          t.saf[b].coils[(2 : Fin 3)].undet = true ∧ t.saf[b].closing = .none
            ∧ ∀ j : Fin 3, t.saf[b].coils[j].driven = false))
    ∧ (∀ k : Fin 3, s.saf[b].coils[k].undet = true → senseReads s b k = some false →
        Completes (.weldRecheck b k) s fun t => t.saf[b].coils[k].undet = false)

/-- Switch tests, stuck switches and coil faults (R257, R264 to R266, R278): a passed test is noted for its side, a failed
one counts and latches code 12 or 13, one too near a step waits; ten checks in a row at the on level of an off switch
are code 12; a coil's current limit or open detection is code 19, low coil supply trips without a latch. Every trip
opens its bough. Shown to complete: switchTestSlot, stuckOnCheck, coilCurrentLimit, coilOpenDetect, coilSupplyLow. -/
def Obligations.SwitchAndCoilFaults : Prop :=
  (∀ (s : State) (i : Fin 48),
    (i.val ∉ s.safDev.skipped → Completes (.switchTestSlot i .pass) s fun t => t.safDev.slot = i.val
      ∧ (i.val % 2 = 0 → t.saf[switchBough i].coils[switchCoil i].hiPassed = true)
      ∧ (i.val % 2 = 1 → t.saf[switchBough i].coils[switchCoil i].loPassed = true)
      ∧ t.saf[switchBough i].latched = s.saf[switchBough i].latched)
    ∧ (i.val ∈ s.safDev.skipped → Completes (.switchTestSlot i .pass) s fun t =>
      t.safDev.slot = s.safDev.slot ∧ t.safDev.skipped = s.safDev.skipped.erase i.val)
    ∧ (∀ r, r = .notOff ∨ r = .partnerStuck → Completes (.switchTestSlot i r) s fun t => 12 ∈ t.saf[switchBough i].latched
        ∧ t.saf[switchBough i].testsFailed = min 255 (s.saf[switchBough i].testsFailed + 1)
        ∧ ∀ k : Fin 3, t.saf[switchBough i].coils[k].driven = false)
    ∧ (∀ r, r = .noMove ∨ r = .notRestored → Completes (.switchTestSlot i r) s fun t => 13 ∈ t.saf[switchBough i].latched
        ∧ ∀ k : Fin 3, t.saf[switchBough i].coils[k].driven = false)
    ∧ (i.val ∉ s.safDev.skipped → Completes (.switchTestSlot i .near) s fun t =>
        t.safDev.skipped = s.safDev.skipped ++ [i.val] ∧ t.saf = s.saf)
    ∧ (Completes (.switchTestSlot i .discarded) s fun t => t.saf = s.saf))
  ∧ (∀ (s : State) (i : Fin 48), s.saf[switchBough i].coils[switchCoil i].driven = false →
    (stuckRun s i < 9 → Completes (.stuckOnCheck (BitVec.ofNat 48 (2 ^ i.val))) s fun t =>
      stuckRun t i = stuckRun s i + 1 ∧ t.saf[switchBough i].latched = s.saf[switchBough i].latched)
    ∧ (stuckRun s i = 9 → Completes (.stuckOnCheck (BitVec.ofNat 48 (2 ^ i.val))) s fun t =>
      12 ∈ t.saf[switchBough i].latched)
    ∧ (Completes (.stuckOnCheck 0) s fun t => stuckRun t i = 0 ∧ t.saf.map (·.latched) = s.saf.map (·.latched)))
  ∧ (∀ (s : State) (b : Bough) (k : Fin 3),
    Completes (.coilCurrentLimit b k) s fun t => 19 ∈ t.saf[b].latched ∧ ∀ j : Fin 3, t.saf[b].coils[j].driven = false)
  ∧ (∀ (s : State) (b : Bough) (k : Fin 3), s.saf[b].coils[k].driven = true →
    (Completes (.coilOpenDetect b k) s fun t => 19 ∈ t.saf[b].latched ∧ ∀ j : Fin 3, t.saf[b].coils[j].driven = false)
    ∧ (Completes (.coilSupplyLow b) s fun t => t.saf[b].latched = s.saf[b].latched
        ∧ ∀ j : Fin 3, t.saf[b].coils[j].driven = false))

/-- Emergency stop (R267, R268, R273): either input at or below 7.0 V makes a stop active and opens every coil of every
bough; both high for 1.0 s release it, but a discrepancy holds until both inputs have been low together; inputs that
disagree too long are a discrepancy, and every coil opens. Shown to complete: emergencyStop, emergencyStopRelease,
estopDiscrepancy. -/
def Obligations.EmergencyStops : Prop :=
  ∀ s : State,
    (s.safDev.stop = false → FsCause.estop ∉ s.safDev.fsCauses → ∀ a b, a ≤ 7000 ∨ b ≤ 7000 →
      Completes (.emergencyStop a b) s fun t => t.safDev.stop = true ∧ FsCause.estop ∈ t.safDev.fsCauses
        ∧ ∀ (c : Bough) (k : Fin 3), t.saf[c].coils[k].driven = false)
    ∧ (s.safDev.stop = true → ∀ a b, Completes (.emergencyStop a b) s fun t =>
        t.safDev.stop = true ∧ t.saf = s.saf ∧ t.safDev.estopA = decide (7000 < a) ∧ t.safDev.estopB = decide (7000 < b))
    ∧ (∀ a b, 7000 < a → 7000 < b → Completes (.emergencyStop a b) s fun t =>
        t.safDev.stop = s.safDev.stop ∧ t.saf = s.saf ∧ t.safDev.fsCauses = s.safDev.fsCauses)
    ∧ (s.safDev.stop = true → s.safDev.disc = false → Completes .emergencyStopRelease s fun t =>
        t.safDev.stop = false ∧ FsCause.estop ∉ t.safDev.fsCauses
          ∧ ∀ (c : Bough) (k : Fin 3), t.saf[c].coils[k].driven = s.saf[c].coils[k].driven)
    ∧ (s.safDev.disc = true → s.safDev.discLow = false → Completes .emergencyStopRelease s fun t =>
        t.safDev.stop = s.safDev.stop ∧ t.safDev.disc = true ∧ t.safDev.fsCauses = s.safDev.fsCauses)
    ∧ (s.safDev.estopA ≠ s.safDev.estopB → s.safDev.disc = false → Completes .estopDiscrepancy s fun t =>
        t.safDev.disc = true ∧ ∀ (c : Bough) (k : Fin 3), t.saf[c].coils[k].driven = false)

/-- Heartbeat and watchdogs (R274 to R277): the logic die sends the next counter value, none while PLL lock is lost; three
periods in a row without a valid heartbeat are watchdog loss and open every coil; ten valid heartbeats in a row end that
cause and close none; 17 frames with a bad CRC between heartbeats enter fail-safe; a core that did not serve its
watchdog for 100 ms trips the boughs it runs. Shown to complete: heartbeatSend, heartbeatPeriodMissed, heartbeatFrame,
coreService, logicWatchdogExpired. -/
def Obligations.HeartbeatAndWatchdogs : Prop :=
  ∀ s : State,
    (s.lat.pllLost = false → s.supply.resetHeld = false → Completes (.heartbeatSend false) s fun t =>
      t.safDev.hbCount = (s.safDev.hbCount + 1) % 16)
    ∧ (s.lat.pllLost = true → exec (.heartbeatSend false) s = .next s)
    ∧ (s.safDev.hbMissed < 2 → Completes .heartbeatPeriodMissed s fun t =>
        t.safDev.hbMissed = s.safDev.hbMissed + 1 ∧ t.safDev.fsCauses = s.safDev.fsCauses ∧ t.saf = s.saf)
    ∧ (s.safDev.hbMissed = 2 → FsCause.wdog ∉ s.safDev.fsCauses → Completes .heartbeatPeriodMissed s fun t =>
        FsCause.wdog ∈ t.safDev.fsCauses ∧ ∀ (c : Bough) (k : Fin 3), t.saf[c].coils[k].driven = false)
    ∧ (∀ n : BitVec 4, n.toNat = s.safDev.hbExpect → s.safDev.firstBeat = true → s.safDev.linkValid < 9 →
      (s.safDev.hbValid = 9 → Completes (.heartbeatFrame true n true) s fun t =>
        FsCause.wdog ∉ t.safDev.fsCauses ∧ ∀ (c : Bough) (k : Fin 3), t.saf[c].coils[k].driven = s.saf[c].coils[k].driven)
      ∧ (s.safDev.hbValid < 9 → Completes (.heartbeatFrame true n true) s fun t =>
        t.safDev.hbValid = s.safDev.hbValid + 1 ∧ t.safDev.fsCauses = s.safDev.fsCauses
          ∧ t.safDev.hbExpect = (n.toNat + 1) % 16))
    ∧ (∀ b n, FsCause.link ∉ s.safDev.fsCauses →
      (s.safDev.crcFails < 16 → Completes (.heartbeatFrame b n false) s fun t =>
        t.safDev.crcFails = s.safDev.crcFails + 1 ∧ t.safDev.fsCauses = s.safDev.fsCauses)
      ∧ (s.safDev.crcFails = 16 → Completes (.heartbeatFrame b n false) s fun t =>
        FsCause.link ∈ t.safDev.fsCauses ∧ ∀ (c : Bough) (k : Fin 3), t.saf[c].coils[k].driven = false))
    ∧ (∀ c : Fin 2,
      (s.safDev.coreDead.getLsbD c.val = false → Completes (.coreService c) s fun t =>
        t.safDev.serviced.getLsbD c.val = true ∧ t.saf = s.saf)
      ∧ (s.safDev.serviced.getLsbD c.val = true → Completes (.logicWatchdogExpired c) s fun t =>
        t.safDev.serviced.getLsbD c.val = false ∧ t.saf = s.saf)
      ∧ (s.safDev.serviced.getLsbD c.val = false → Completes (.logicWatchdogExpired c) s fun t =>
        t.safDev.wdog.getLsbD c.val = true
          ∧ ∀ (b : Bough) (k : Fin 3), coreOf b = c → t.saf[b].coils[k].driven = false))

/-- SIDE_PATH_SAMPLE and DC_RESIDUAL_PERSISTENCE (R25, R269, R273, R327): the sample's values are taken, a channel without a
modulator delivers its substitute; the eighth sample in a row at five times AC_THR is code 4, the third above OVP_V on a
DC bough code 9; a mean square of 488 samples at AC_THR is code 3; a DC mean at its threshold is code 5, 6 or 7 with
DC_RCM, and nothing without. All latch and open. BRIDGE_STATE_END (R270, R271, R327): with IMD 0 nothing is measured;
each state's end takes the means of its samples over and turns the bridge; without two states, or with less than 50 V on
the link, there is no result; a channel without a modulator counts as a fault, and the second fault in a row is trip
code 8. Shown to complete: sidePathSample, dcResidualPersistence, bridgeStateEnd. -/
def Obligations.ResidualAndInsulation : Prop :=
  ((∀ (s : State) (b : Bough) (v : SideSample), chFailMask s.mtr[b] = 0 →
    let y7 := inUnit s b 7 (sideY s b 7 v.ch7).1
    let y8 := inUnit s b 8 (sideY s b 8 v.ch8).1
    (y7.natAbs < 5 * (1000 * fld (s.safBoughCfg b) 8 0) → isDC s b = false → s.meas[b].hist.length < 487 →
      Completes (.sidePathSample b v) s fun t =>
        t.saf[b].side.ch7 = y7 ∧ t.saf[b].side.ch8 = y8
          ∧ t.saf[b].side.ch21 = inUnit s b 21 (sideY s b 21 v.ch21).1 ∧ t.saf[b].side.ovr.getLsbD 7 = (sideY s b 7 v.ch7).2
          ∧ t.meas[b].hist = y7 :: s.meas[b].hist ∧ t.meas[b].fastRun = 0 ∧ t.saf[b].latched = s.saf[b].latched)
    ∧ (5 * (1000 * fld (s.safBoughCfg b) 8 0) ≤ y7.natAbs → 7 ≤ s.meas[b].fastRun →
      Completes (.sidePathSample b v) s fun t =>
        4 ∈ t.saf[b].latched ∧ (4 ∉ s.saf[b].latched → ∀ k : Fin 3, t.saf[b].coils[k].driven = false))
    ∧ (acReaches (takeSide b v s) b = true → Completes (.sidePathSample b v) s fun t =>
        3 ∈ t.saf[b].latched ∧ (3 ∉ s.saf[b].latched → ∀ k : Fin 3, t.saf[b].coils[k].driven = false))
    ∧ (isDC s b = true → 1000000 * (fld (s.safDcCfg b) 15 0 : Int) < y8 → 2 ≤ s.meas[b].ovpRun →
      Completes (.sidePathSample b v) s fun t =>
        9 ∈ t.saf[b].latched ∧ (9 ∉ s.saf[b].latched → ∀ k : Fin 3, t.saf[b].coils[k].driven = false)))
  ∧ (∀ (s : State) (b : Bough) (v : SideSample),
    (chFails s.mtr[b] 7 = true → Completes (.sidePathSample b v) s fun t =>
      t.saf[b].side.ch7 = (s.mtrFs (24 * b.val + 7)).toNat)
    ∧ (chFails s.mtr[b] 21 = true → Completes (.sidePathSample b v) s fun t => t.saf[b].side.ch21 = 0))
  ∧ (∀ (s : State) (b : Bough),
    (bitOf (s.safBoughCfg b) 28 = false → ∀ w, exec (.dcResidualPersistence b w) s = .next s)
    ∧ (bitOf (s.safBoughCfg b) 28 = true →
      (dcReaches s b 2441 6000 ≠ none → Completes (.dcResidualPersistence b .ms100) s fun t =>
        5 ∈ t.saf[b].latched ∧ ∀ k : Fin 3, t.saf[b].coils[k].driven = false)
      ∧ (dcReaches s b 488 60000 ≠ none → Completes (.dcResidualPersistence b .ms20) s fun t =>
        6 ∈ t.saf[b].latched ∧ ∀ k : Fin 3, t.saf[b].coils[k].driven = false)
      ∧ (dcReaches s b 122 200000 ≠ none → Completes (.dcResidualPersistence b .ms5) s fun t =>
        7 ∈ t.saf[b].latched ∧ ∀ k : Fin 3, t.saf[b].coils[k].driven = false))))
  ∧ (∀ (s : State) (b : Bough) (vp vn : Int), vp = stateMean s.meas[b].vpHist → vn = stateMean s.meas[b].vnHist →
    (bitOf (s.safBoughCfg b) 27 = false → exec (.bridgeStateEnd b) s = .next s)
    ∧ (bitOf (s.safBoughCfg b) 27 = true → Completes (.bridgeStateEnd b) s fun t =>
        t.meas[b].prevVp = some vp ∧ t.meas[b].prevVn = some vn ∧ t.meas[b].bridgeOn = !s.meas[b].bridgeOn)
    ∧ (bitOf (s.safBoughCfg b) 27 = true → s.meas[b].prevVp = none ∨ s.meas[b].prevVn = none →
        Completes (.bridgeStateEnd b) s fun t => t.meas[b].imd = 0 ∧ t.saf = s.saf)
    ∧ (bitOf (s.safBoughCfg b) 27 = true → s.meas[b].prevVp ≠ none → s.meas[b].prevVn ≠ none →
        chFails s.mtr[b] 11 = true → 0 < fld (s.safImdCfg b) 31 16 * fld (s.safDcCfg b) 31 16 → s.meas[b].faultRun = 1 →
        Completes (.bridgeStateEnd b) s fun t =>
          8 ∈ t.saf[b].latched ∧ t.meas[b].imd = 3 ∧ ∀ k : Fin 3, t.saf[b].coils[k].driven = false))

/-- SAF_CLEAR and SAF_HOLD (R278, R288, R291, R748): a clear is refused with 3 while a coil is driven, with 2 where its mask
selects no latched code; a code whose condition is met clears with result 0, one whose condition is not stays with
result 1; a hold is set at once and keeps the bough out of service, a release ends that hold alone. Shown to complete:
safClear, safHoldSet, safHoldRelease. -/
def Obligations.SafetyCommands : Prop :=
  ∀ (s : State) (h : CmdHdr) (b : Bough), h.bough = b.val →
    (∀ m, coilsClosed s b = true → CanAnswer s →
      Completes (.safClear h m) s fun t => t.saf = s.saf ∧ lastEvent t = some (0x0408, b.val, h.tag, [3]))
    ∧ (∀ m, coilsClosed s b = false → s.saf[b].latched.filter (clearSelects m) = [] → CanAnswer s →
      Completes (.safClear h m) s fun t => t.saf = s.saf ∧ lastEvent t = some (0x0408, b.val, h.tag, [2]))
    ∧ (∀ m c, coilsClosed s b = false → s.saf[b].latched = [c] → clearSelects m c = true → mayClear s b c = true →
      Completes (.safClear h m) s fun t => t.saf[b].latched = []
        ∧ (CanAnswer s → lastEvent t = some (0x0408, b.val, h.tag, [0])))
    ∧ (∀ m c, coilsClosed s b = false → s.saf[b].latched = [c] → clearSelects m c = true → mayClear s b c = false →
      Completes (.safClear h m) s fun t => t.saf[b].latched = [c]
        ∧ (CanAnswer s → lastEvent t = some (0x0408, b.val, h.tag, [1])))
    ∧ (Completes (.safHoldSet h) s fun t => t.saf[b].holdCmd = true ∧ heldOut t b = true)
    ∧ (Completes (.safHoldRelease h) s fun t => t.saf[b].holdCmd = false ∧ t.saf[b].holdStart = s.saf[b].holdStart
        ∧ t.saf[b].holdOther = s.saf[b].holdOther ∧ t.saf[b].holdUpd = s.saf[b].holdUpd
        ∧ (CanAnswer s → lastEvent t = some (0x0408, b.val, h.tag, [0])))

/-- SAMPLE_FRAME (R308, R311, R312, R746, R64, R48): a channel that no modulator serves gives 0; an input beyond full scale
gives ±8,388,607 with the sign of the overload; any other sample is delayed by 4 samples and DELAY, trimmed with OFFSET
and GAIN and held in the range. A bough's frame takes 4 of its crossing's 64 flits, and one that finds no room is
dropped whole. No frame leaves while PLL lock is lost. Shown to complete: sampleFrame. -/
def Obligations.SampleFrames : Prop :=
  ∀ (s : State) (bs : Vector BoughSamples 8),
    (s.lat.pllLost = true → exec (.sampleFrame bs) s = .next s)
    ∧ (s.lat.running = true → s.lat.pllLost = false → ∀ (b : Bough) (n : Fin 24),
      Completes (.sampleFrame bs) s fun t =>
        (chFails s.mtr[b] n.val = true → t.mtr[b].ch[n].value = 0)
        ∧ (chFails s.mtr[b] n.val = false → s.mtr[b].served ≠ n.val → bs[b].chans[n].beyond = true →
            t.mtr[b].ch[n].value = if (if s.mtr[b].ch[n].ovrRun then s.mtr[b].ch[n].ovrNeg else decide (bs[b].chans[n].x < 0))
              then -8388607 else 8388607)
        ∧ (chFails s.mtr[b] n.val = false → s.mtr[b].served ≠ n.val → bs[b].chans[n].beyond = false →
            t.mtr[b].ch[n].value = clampI (-8388607) 8388607
              (((delayed ((bs[b].chans[n].x :: s.mtr[b].ch[n].m3).take 9) (delayOf s b n.val)
                  + toInt 24 (fld (s.mtrOffset (24 * b.val + n.val)) 23 0))
                  * fld (s.mtrGain (24 * b.val + n.val)) 23 0 + 2 ^ 21) / 2 ^ 22)))
    ∧ (s.lat.running = true → s.lat.pllLost = false → ∀ c : Fin 2, Completes (.sampleFrame bs) s fun t =>
        (s.trunk.smpFill[c] ≤ 48 → t.trunk.smpFill[c] = s.trunk.smpFill[c] + 16)
          ∧ (60 < s.trunk.smpFill[c] → t.trunk.smpFill[c] = s.trunk.smpFill[c]))

/-- The reserve modulator (R320 to R326, R342): a patrol visit learns k0 or compares with it; a stuck modulator is replaced
by the reserve while it is free, else its channel is lost; a fit that succeeds connects the reserve, one that fails or
finds no block in time leaves the channel on its own modulator; a return that agrees frees the reserve. MTR_SWAP and
MTR_CAL (R317, R324, R326, R339, R347, R348): a hot swap begins a fit while the reserve is free, with result 2 on a
channel without a modulator; a return needs the reserve at that channel; one swap, return or measurement at a time, else
result 4; an abort ends the running fit; a re-admission clears the failed mark. A measurement ends once its N blocks are
counted; event 0x0506 answers with result 0. Shown to complete: patrolVisitEnd, modulatorStuck, reserveChainsFilled,
hotSwapFitStart, hotSwapFitEnd, swapReturnCompareEnd, mtrSwapHot, mtrSwapReturn, mtrSwapReadmit, mtrSwapAbort, mtrCal,
mtrCalEnd. -/
def Obligations.ReserveModulator : Prop :=
  (∀ (s : State) (b : Bough),
    (s.mtr[b].rsvState ≠ 0 → exec (.patrolVisitEnd b) s = .next s)
    ∧ (∀ n : Fin 24, s.mtr[b].rsvState = 0 → s.mtr[b].rsvIn = n.val → s.mtr[b].patrolAt = n.val →
        weakSum s.mtr[b].visA = false → s.mtr[b].ch[n].failed = false → s.mtr[b].served ≠ n.val →
        n.val < nextVisit s.mtr[b] n.val →
      (s.mtr[b].ch[n].k0 = none → Completes (.patrolVisitEnd b) s fun t =>
        t.mtr[b].ch[n].k0 = some (visitK s.mtr[b]) ∧ t.mtr[b].misNow = s.mtr[b].misNow
          ∧ t.mtr[b].patrolAt = nextVisit s.mtr[b] n.val ∧ t.mtr[b].rsvIn = nextVisit s.mtr[b] n.val)
      ∧ (∀ k0, s.mtr[b].ch[n].k0 = some k0 → Completes (.patrolVisitEnd b) s fun t =>
        t.mtr[b].ch[n].k0 = some k0
          ∧ t.mtr[b].misNow = (if (fld (s.mtrRsvCfg b) 15 0 : Int) * (2 ^ 20 + k0)
                < (visitK s.mtr[b] - k0).natAbs * 10 ^ 6
              then s.mtr[b].misNow ++ [n.val] else s.mtr[b].misNow)))
    ∧ (∀ n : Fin 24, s.mtr[b].ch[n].failed = false → s.mtr[b].served ≠ n.val →
      (s.mtr[b].rsvState ≤ 2 → Completes (.modulatorStuck b n.castSucc) s fun t =>
        t.mtr[b].ch[n].failed = true ∧ t.mtr[b].rsvState = 3 ∧ t.mtr[b].rsvIn = n.val ∧ t.mtr[b].coldCh = some n.val)
      ∧ (2 < s.mtr[b].rsvState → Completes (.modulatorStuck b n.castSucc) s fun t =>
        t.mtr[b].ch[n].failed = true ∧ t.mtr[b].ch[n].lost = true ∧ t.mtr[b].rsvState = s.mtr[b].rsvState))
    ∧ (∀ n, s.mtr[b].coldCh = some n → Completes (.reserveChainsFilled b) s fun t =>
        t.mtr[b].served = n ∧ t.mtr[b].coldCh = none)
    ∧ (s.mtr[b].rsvState = 1 → s.mtr[b].fitOn = false → Completes (.hotSwapFitStart b) s fun t =>
        t.mtr[b].fitOn = true ∧ t.mtr[b].fitBlocks = 0 ∧ t.mtr[b].served = s.mtr[b].served)
    ∧ (∀ r, s.mtr[b].rsvState = 1 → s.mtr[b].fitOn = true →
      (calBlocks s ≤ s.mtr[b].fitBlocks → fitOk s b s.mtr[b].rsvIn r = true → Completes (.hotSwapFitEnd b r) s fun t =>
        t.mtr[b].served = s.mtr[b].rsvIn ∧ t.mtr[b].rsvState = 3 ∧ t.mtr[b].roff = r.roff ∧ t.mtr[b].fitOn = false)
      ∧ (calBlocks s ≤ s.mtr[b].fitBlocks → 100 < r.residualPpm → Completes (.hotSwapFitEnd b r) s fun t =>
        t.mtr[b].served = s.mtr[b].served ∧ t.mtr[b].fitOn = false ∧ t.mtr[b].rsvIn = 31
          ∧ t.mtr[b].rsvState = (if bitOf (s.mtrRsvCfg b) 31 then 0 else 2))
      ∧ (s.mtr[b].fitBlocks < calBlocks s → s.mtr[b].fitPassed < 4 * calBlocks s →
        exec (.hotSwapFitEnd b r) s = .next s))
    ∧ (∀ ppm, s.mtr[b].returning = true → calBlocks s ≤ s.mtr[b].fitBlocks →
      (ppm ≤ fld (s.mtrRsvCfg b) 15 0 → Completes (.swapReturnCompareEnd b ppm) s fun t =>
        t.mtr[b].served = 31 ∧ t.mtr[b].rsvIn = 31 ∧ t.mtr[b].returning = false
          ∧ t.mtr[b].rsvState = (if bitOf (s.mtrRsvCfg b) 31 then 0 else 2))
      ∧ (fld (s.mtrRsvCfg b) 15 0 < ppm → Completes (.swapReturnCompareEnd b ppm) s fun t =>
        t.mtr[b].served = s.mtr[b].served ∧ t.mtr[b].returning = false ∧ t.mtr[b].rsvState = s.mtr[b].rsvState)))
  ∧ (∀ (s : State) (h : CmdHdr) (b : Bough), h.bough = b.val →
    (∀ ch, ch < 24 →
      (swapRuns s b = true → CanAnswer s → Answers (.mtrSwapHot h ch) s 0x0506 b.val h.tag [4]
        ∧ Answers (.mtrSwapReturn h ch) s 0x0506 b.val h.tag [4] ∧ Answers (.mtrSwapReadmit h ch) s 0x0506 b.val h.tag [4])
      ∧ (swapRuns s b = false → s.mtr[b].rsvState = 0 ∨ s.mtr[b].rsvState = 2 →
        (chFails s.mtr[b] ch = true → CanAnswer s → Answers (.mtrSwapHot h ch) s 0x0506 b.val h.tag [2])
        ∧ (chFails s.mtr[b] ch = false → Completes (.mtrSwapHot h ch) s fun t =>
          t.mtr[b].rsvState = 1 ∧ t.mtr[b].rsvIn = ch ∧ t.mtr[b].fitTag = some h.tag ∧ t.mtr[b].served = s.mtr[b].served))
      ∧ (∀ c, s.mtr[b].ch[ch]? = some c → swapRuns s b = false → s.mtr[b].rsvState = 3 → s.mtr[b].served = ch →
        c.failed = false → c.lost = false → c.readmit = false → Completes (.mtrSwapReturn h ch) s fun t =>
          t.mtr[b].returning = true ∧ t.mtr[b].fitBlocks = 0 ∧ t.mtr[b].served = ch)
      ∧ (s.mtr[b].rsvState = 1 → Completes (.mtrSwapAbort h ch) s fun t =>
          t.mtr[b].fitOn = false ∧ t.mtr[b].rsvState = (if bitOf (s.mtrRsvCfg b) 31 then 0 else 2)
            ∧ t.mtr[b].served = s.mtr[b].served ∧ (CanAnswer s → s.mtr[b].fitTag = none →
              lastEvent t = some (0x0506, b.val, h.tag, [0])))
      ∧ (swapRuns s b = false → Completes (.mtrSwapReadmit h ch) s fun t =>
          (∃ c d, s.mtr[b].ch[ch]? = some c ∧ t.mtr[b].ch[ch]? = some d ∧ d.failed = false
            ∧ d.readmit = (c.readmit || c.failed)) ∧ (CanAnswer s → lastEvent t = some (0x0506, b.val, h.tag, [0]))))
    ∧ (∀ mask n ref raw, 1 ≤ n → n ≤ 250 → ref < 24 ∨ ref = 255 →
      (s.mtr[b].cal = none → Completes (.mtrCal h mask n ref raw) s fun t => ∃ c, t.mtr[b].cal = some c
        ∧ c.mask = mask ∧ c.n = n ∧ c.ref = ref ∧ c.raw = raw ∧ c.counted = 0 ∧ c.tag = h.tag)
      ∧ (s.mtr[b].cal.isSome = true → CanAnswer s → Answers (.mtrCal h mask n ref raw) s 0x0506 b.val h.tag [4]))
    ∧ (∀ c, s.mtr[b].cal = some c → c.n ≤ c.counted → CanAnswer s →
      Completes (.mtrCalEnd b) s fun t => t.mtr[b].cal = none ∧ lastEvent t = some (0x0506, b.val, c.tag, [0])))

/-- The cycles and blocks of the energy engine (R353, R354, R357, R358, R360): while no grid is reported a crossing counts
towards the ten valid ones; two periods out of range, or the timeout, end the grid; each cycle's net active energy
enters the register of its sign, and the residue stays below one pip; substitution of a phase beyond 2,441 samples opens
a gap. Results, reports and saves (R65, R363, R364, R367, R380, R418): NRG_READ waits for the block boundary, where
event 0x0608 answers it; the gate takes the result held back once; silence at the gate opens a metering gap, and a
result without the gap mark closes it; a conversion takes every register over; a save entry is numbered in turn and
three failed slots are fatal. Shown to complete: cycleEnd, noCrossingTimeout, noGridCycle, meteringGapOpen, nrgRead,
nrgReadReply, energyResultAccept, gateSilence, heartwoodConversion, saveTick. -/
def Obligations.EnergyEngine : Prop :=
  (∀ (s : State) (b : Bough),
    (∀ x y : Int, s.nrg[b].isDC = true ∨ 0 ≤ x ∨ y < 0 → exec (.cycleEnd b x y) s = .next s)
    ∧ (∀ x y : Int, s.nrg[b].isDC = false → x < 0 → 0 ≤ y →
      (Completes (.cycleEnd b x y) s fun t => t.nrg[b].crossN = 0 ∧ t.nrg[b].crossFrac = some (crossingAt x y))
      ∧ (∀ p, crossPeriod s b x y = some p → s.nrg[b].noGrid = true →
        (periodOk s b p = true → hasReference s b = true → s.nrg[b].goodCyc < 9 → Completes (.cycleEnd b x y) s fun t =>
          t.nrg[b].goodCyc = s.nrg[b].goodCyc + 1 ∧ t.nrg[b].noGrid = true)
        ∧ (periodOk s b p = false → Completes (.cycleEnd b x y) s fun t => t.nrg[b].goodCyc = 0 ∧ t.nrg[b].noGrid = true)
        ∧ (periodOk s b p = true → hasReference s b = true → s.nrg[b].goodCyc = 9 → Completes (.cycleEnd b x y) s fun t =>
          t.nrg[b].noGrid = false ∧ t.nrg[b].period = p))
      ∧ (∀ p, crossPeriod s b x y = some p → isDC s b = false → s.nrg[b].noGrid = false → periodOk s b p = false →
        (s.nrg[b].badCyc = 1 → Completes (.cycleEnd b x y) s fun t => t.nrg[b].noGrid = true ∧ t.nrg[b].goodCyc = 0)
        ∧ (s.nrg[b].badCyc = 0 → hasReference (endCycle b (noteCrossing b x y s)) b = true →
            s.nrg[b].cycles + 1 < blockCycles s b →
          Completes (.cycleEnd b x y) s fun t => t.nrg[b].noGrid = false ∧ t.nrg[b].badCyc = 1)))
    ∧ (s.nrg[b].noGrid = false → Completes (.noCrossingTimeout b) s fun t => t.nrg[b].noGrid = true ∧ t.nrg[b].freq = 0)
    ∧ (s.nrg[b].noGrid = true → exec (.noCrossingTimeout b) s = .next s)
    ∧ (s.nrg[b].noGrid = false → exec (.noGridCycle b) s = .next s)
    ∧ (s.nrg[b].noGrid = true → s.nrg[b].isDC = isDC s b →
        0 < s.avg[b].sP[(0 : Fin 3)] → s.avg[b].sP[(1 : Fin 3)] = 0 → s.avg[b].sP[(2 : Fin 3)] = 0 →
        Completes (.noGridCycle b) s fun t =>
          t.nrg[b].reg[(0 : Fin 6)].count.toNat * pipUnits + t.nrg[b].reg[(0 : Fin 6)].residue
              = (s.nrg[b].reg[(0 : Fin 6)].count.toNat * pipUnits + s.nrg[b].reg[(0 : Fin 6)].residue
                  + s.avg[b].sP[(0 : Fin 3)].toNat) % (2 ^ 64 * pipUnits)
            ∧ t.nrg[b].reg[(1 : Fin 6)] = s.nrg[b].reg[(1 : Fin 6)] ∧ t.avg[b].sP = Vector.replicate 3 0)
    ∧ (∀ x : Fin 3, 2441 < s.nrg[b].sub[x] → s.nrg[b].gapPh[x] = false → Completes (.meteringGapOpen b x) s fun t =>
        t.nrg[b].gapPh[x] = true ∧ t.nrg[b].gap = true)
    ∧ (∀ x : Fin 3, s.nrg[b].sub[x] ≤ 2441 → exec (.meteringGapOpen b x) s = .next s))
  ∧ ((∀ (s : State) (h : CmdHdr) (b : Bough), h.bough = b.val →
      Completes (.nrgRead h) s fun t => t.nrg[b].pendRead = s.nrg[b].pendRead ++ [h.tag] ∧ t.host = s.host)
  ∧ (∀ (s : State) (b : Bough) (g : Nat), s.nrg[b].pendRead = [g] → CanAnswer s →
      Completes (.nrgReadReply b) s fun t => t.nrg[b].pendRead = []
        ∧ ∃ d, lastEvent t = some (0x0608, b.val, g, d) ∧ d.take 3 = leN 3 s.nst[b].seq)
  ∧ (∀ (s : State) (b : Bough) (k : Fin 2) (r : EngResult), s.bilB[b].heldRes[k] = some r → s.bilB[b].gapOpen = false →
      r.flags.getLsbD 5 = false → Completes (.energyResultAccept b k) s fun t =>
        t.bilB[b].accepted[k] = r ∧ t.bilB[b].heldRes[k] = none ∧ t.bilB[b].gapOpen = false)
  ∧ (∀ (s : State) (b : Bough) (k : Fin 2), s.bilB[b].heldRes[k] = none → exec (.energyResultAccept b k) s = .next s)
  ∧ (∀ (s : State) (b : Bough), 6 ≤ s.start.done → s.bilB[b].gapOpen = false → Completes (.gateSilence b) s fun t =>
      t.bilB[b].gapOpen = true ∧ t.bilB[b].gapStart = s.opstamp ∧ t.bilB[b].gapPmean = s.nst[b].pmean)
  ∧ (∀ s : State, 6 ≤ s.start.done → s.bil.stopped = false → pricing s = false → Completes .heartwoodConversion s fun t =>
      ∀ b : Bough, t.bilB[b].last[(0 : Fin 6)] = engReg s b 0 ∧ t.bilB[b].whImp = (s.bilB[b].whImp
        + ((engReg s b 0 - s.bilB[b].last[(0 : Fin 6)]).toNat + s.bilB[b].carry[(0 : Fin 6)]) / 235929600) % 2 ^ 64)
  ∧ (∀ s : State, 6 ≤ s.start.done → s.bil.savedTick ≠ some s.lat.ms →
      Completes (.saveTick 0 false) s fun t => t.bil.saveNo = s.bil.saveNo + 1)
  ∧ (∀ s : State, ∀ f : Bool, 6 ≤ s.start.done → Completes (.saveTick 3 f) s fun t => t.bil.saveNo = s.bil.saveNo))

/-- The heartwood's clock of the tariff (R395, R402, R403, R416, R417, R422): the rate evaluated is that of the calendar and
the time; at a boundary the high-water mark and the interval's start become the boundary; the waiting readings leave for
the queue; a code whose hash is no longer the check value stops the heartwood. Shown to complete: rateEvaluation,
billingBoundary, readingRelease, checkValueRecompute. -/
def Obligations.TariffClock : Prop :=
  ∀ s : State,
    (6 ≤ s.start.done → s.bil.stopped = false → Completes .rateEvaluation s fun t =>
      t.bil.rate = rateNow s ∧ t.bil.calendar = s.bil.calendar ∧ t.bak = s.bak)
    ∧ (6 ≤ s.start.done → s.bil.stopped = false → atBoundary s = true → Completes .billingBoundary s fun t =>
      t.bil.hwm = s.now ∧ t.bil.hasHwm = true ∧ t.bil.intStart = s.now ∧ t.bak.caltime = s.bak.caltime)
    ∧ (s.timeKnown = false → exec .billingBoundary s = .next s)
    ∧ (s.bil.covered = true → s.bil.queue.length + s.bil.waiting.length ≤ 1024 → Completes .readingRelease s fun t =>
      t.bil.waiting = [] ∧ t.bil.queue = s.bil.queue ++ s.bil.waiting)
    ∧ (sha256 (s.bil.code.take s.bil.codeLen) = s.bil.check → exec .checkValueRecompute s = .next s)
    ∧ (6 ≤ s.start.done → s.bil.stopped = false → sha256 (s.bil.code.take s.bil.codeLen) ≠ s.bil.check →
      Completes .checkValueRecompute s fun t => t.bil.stopped = true)

/-- BIL_TIME_SET, BIL_READ_ACK, BIL_READ_NOW, BIL_INFO, BIL_READ_GET (R407, R408, R412, R417, R432, R433): a set that
TIME_SRC refuses answers 2, an offset beyond ±56 is taken as 0 (R21), and a set that is taken changes calendar time at
once; an acknowledgement removes the readings up to the one named, else answers 1; one reading on request each second,
else 4; a count beyond 1 to 1,024 answers 3. Shown to complete: bilTimeSet, bilReadAck, bilReadNow, bilInfo, bilReadGet. -/
def Obligations.BillingCommands : Prop :=
  ∀ (s : State) (h : CmdHdr),
    (∀ utc off, fld s.bilCfg 27 26 = 1 → CanAnswer s → Completes (.bilTimeSet h utc off) s fun t =>
      t.bak = s.bak ∧ t.bil = s.bil ∧ lastEvent t = some (0x070A, 255, h.tag, [2]))
    ∧ (∀ off : Byte, fld s.bilCfg 27 26 = 0 → off ≠ 0x7F → Completes (.bilTimeSet h 0xFFFFFFFF off) s fun t =>
      t.bil.newOffset.getD t.bil.offset = (if -56 ≤ off.toInt ∧ off.toInt ≤ 56 then off.toInt else 0)
        ∧ t.bak.caltime = s.bak.caltime ∧ (CanAnswer s → lastEvent t = some (0x070A, 255, h.tag, [0])))
    ∧ (∀ utc : BitVec 32, fld s.bilCfg 27 26 = 0 → utc ≠ 0xFFFFFFFF → Completes (.bilTimeSet h utc 0x7F) s fun t =>
      t.bak.caltime = utc ∧ t.bil.code = s.bil.code)
    ∧ (∀ (pre post : List Reading) (r : Reading), s.bil.queue = pre ++ r :: post → (∀ x ∈ pre, x.no ≠ r.no) →
      Completes (.bilReadAck h r.no) s fun t => t.bil.queue = post
        ∧ (CanAnswer s → lastEvent t = some (0x070A, 255, h.tag, [0])))
    ∧ (∀ no, (∀ x ∈ s.bil.queue, x.no ≠ no) → CanAnswer s → Completes (.bilReadAck h no) s fun t =>
      t.bil.queue = s.bil.queue ∧ lastEvent t = some (0x070A, 255, h.tag, [1]))
    ∧ (∀ b : Bough, h.bough = b.val → s.bil.stopped = false →
      (s.bilB[b].readNow = true → CanAnswer s → Answers (.bilReadNow h) s 0x070A b.val h.tag [4])
      ∧ (s.bilB[b].readNow = false → Completes (.bilReadNow h) s fun t =>
        (∃ rd, t.bil.waiting = s.bil.waiting ++ [rd] ∧ rd.no = s.bil.readingNo ∧ rd.kind = 7 ∧ rd.bough = b.val)
          ∧ t.bil.readingNo = (s.bil.readingNo + 1) % 2 ^ 32 ∧ t.bilB[b].readNow = true))
    ∧ (CanAnswer s → Completes (.bilInfo h) s fun t => t.bil = s.bil ∧ ∃ d, lastEvent t = some (0x070B, 255, h.tag, d)
        ∧ d.take 32 = padTo 32 s.bil.check)
    ∧ (∀ first count, count = 0 ∨ 1024 < count → CanAnswer s → Answers (.bilReadGet h first count) s 0x070A 255 h.tag [3])
    ∧ (∀ first count, 1 ≤ count → count ≤ 1024 → loggedReadings s first count ≠ [] → Completes (.bilReadGet h first count) s
        fun t => t.host.bulkState = 3 ∧ t.host.irq.getLsbD 10 = true
          ∧ (CanAnswer s → lastEvent t = some (0x070A, 255, h.tag, [0])))

/-- AUX_SET and AUX_CLEAR (R444, R450, R465): a duty is held for the next tick at every channel of the mask; a duty above
1,000 answers 4 and a channel of another owner 2, and nothing is taken; a clear resets the retry count and the latch.
The life of a load channel (R446 to R454): the window's end brings the base limit; a channel at its limit regulates
there; an overcurrent outside a window, and a thermal fault at any time, turn the channel off and wait, or latch once
the retries are used; a restart counts; ten good seconds clear the count; a group supply that is still out keeps its
channels off. Other channels are left as they were. Lamp compensation (R451): at the reference voltage and while V_S is
at least half of it the duty keeps the lamp's power, rounded to the nearest 0.1 %, and never exceeds 1,000; the rounding
of a tie upwards is the model's reading (log 30). Shown to complete: auxSet, auxClear, inrushWindowEnd,
channelLimitReached, channelOvercurrent, channelThermalFault, hotClear, retryRestart, retryCountReset, lampCompensation,
isenseScanStep, groupSupplyReturn. -/
def Obligations.LoadChannels : Prop :=
  (∀ (s : State) (h : CmdHdr) (mask : BitVec 32) (duty : Nat),
    (duty ≤ 1000 → (∀ c : Fin 32, mask.getLsbD c.val = true → auxOwner s c = 0 ∧ s.aux[c].bridge = false) →
      Completes (.auxSet h mask duty) s fun t =>
        ∀ c : Fin 32, t.aux[c] = if mask.getLsbD c.val then { s.aux[c] with waitDuty := some duty } else s.aux[c])
    ∧ (1000 < duty → CanAnswer s → Completes (.auxSet h mask duty) s fun t =>
        t.aux = s.aux ∧ lastEvent t = some (0x0801, 255, h.tag, [4]))
    ∧ (∀ c : Fin 32, duty ≤ 1000 → mask.getLsbD c.val = true → auxOwner s c ≠ 0 → CanAnswer s →
      Completes (.auxSet h mask duty) s fun t => t.aux = s.aux ∧ lastEvent t = some (0x0801, 255, h.tag, [2]))
    ∧ (Completes (.auxClear h mask) s fun t => ∀ c : Fin 32,
        (mask.getLsbD c.val = true → t.aux[c].retryCnt = 0 ∧ t.aux[c].latched = false)
          ∧ (mask.getLsbD c.val = false → t.aux[c] = s.aux[c])))
  ∧ (∀ (s : State) (c : Fin 32),
    (Completes (.inrushWindowEnd c) s fun t => t.aux[c].inrush = false ∧ ∀ d, d ≠ c → t.aux[d] = s.aux[d])
    ∧ (s.aux[c].on = true → Completes (.channelLimitReached c) s fun t =>
      t.aux[c].atLimit = true ∧ t.aux[c].current = auxLimit s c)
    ∧ (s.aux[c].on = false → exec (.channelLimitReached c) s = .next s ∧ exec (.channelOvercurrent c) s = .next s
      ∧ exec (.retryCountReset c) s = .next s)
    ∧ (s.aux[c].on = true → s.aux[c].inrush = true → exec (.channelOvercurrent c) s = .next s)
    ∧ (s.aux[c].on = true → s.aux[c].inrush = false → auxFailsafe s = false →
      (s.aux[c].retryCnt ≠ fld (s.auxChCfg c.val) 13 10 → Completes (.channelOvercurrent c) s fun t =>
        t.aux[c].on = false ∧ t.aux[c].retryWait = true ∧ t.aux[c].lastFault = 1 ∧ t.aux[c].latched = s.aux[c].latched)
      ∧ (s.aux[c].retryCnt = fld (s.auxChCfg c.val) 13 10 → Completes (.channelOvercurrent c) s fun t =>
        t.aux[c].on = false ∧ t.aux[c].latched = true ∧ t.aux[c].lastFault = 1))
    ∧ (∀ temp, Completes (.channelThermalFault c temp) s fun t =>
        t.aux[c].on = false ∧ t.aux[c].hot = true ∧ t.aux[c].temp = temp ∧ (s.aux[c].on = true → t.aux[c].lastFault = 2))
    ∧ (∀ temp, Completes (.hotClear c temp) s fun t => t.aux[c].hot = false ∧ t.aux[c].temp = temp)
    ∧ (s.aux[c].retryWait = true → s.aux[c].hot = false → auxFailsafe s = false → Completes (.retryRestart c) s fun t =>
        t.aux[c].retryWait = false ∧ t.aux[c].retryCnt = s.aux[c].retryCnt + 1)
    ∧ (s.aux[c].retryWait = true → s.aux[c].hot = true → Completes (.retryRestart c) s fun t =>
        t.aux[c].retryWait = true ∧ t.aux[c].retryCnt = s.aux[c].retryCnt)
    ∧ (s.aux[c].on = true → Completes (.retryCountReset c) s fun t => t.aux[c].retryCnt = 0 ∧ t.aux[c].on = true)
    ∧ (∀ vs d, s.aux[c].on = true → auxDuty s c = d → 0 < d → bitOf (s.auxChCfg c.val) 26 = true →
        bitOf (s.auxChCfg c.val) 25 = false → auxFailsafe s = false → s.aux[c].bridge = false →
        Completes (.lampCompensation c vs) s fun t => t.aux[c].nextDuty = lampDuty d 1200 vs)
    ∧ (fld s.auxDevCfg 31 30 = 1 → Completes .isenseScanStep s fun t => t.auxDev.isel = some (fld s.auxDevCfg 28 24))
    ∧ (∀ g : Fin 4, s.supply.inRange.getLsbD (9 + g.val) = false → exec (.groupSupplyReturn g) s = .next s)
    ∧ (∀ g : Fin 4, s.supply.inRange.getLsbD (9 + g.val) = true → c.val / 8 = g.val →
        Completes (.groupSupplyReturn g) s fun t => t.aux[c].uv = false))
  ∧ (∀ d vref vs : Nat, d ≤ 1000 → 2 ≤ vref →
    lampDuty d vref vs ≤ 1000 ∧ lampDuty d vref vref = d
      ∧ (vref ≤ 2 * vs → lampDuty d vref vs < 1000 →
          2 * d * vref * vref ≤ (2 * lampDuty d vref vs + 1) * vs * vs
            ∧ 2 * lampDuty d vref vs * vs * vs ≤ 2 * d * vref * vref + vs * vs)
      ∧ (∀ vs', vs ≤ vs' → lampDuty d vref vs' ≤ lampDuty d vref vs))

/-- The display (R473, R477 to R482, R487): an update waits for its frame; a frame start copies it and clears DIRTY, and
takes the start sequence on, from the pump to two cleared frames and to showing with event 0x0901; the pages go round
through the enabled ones and back to the home page; want of updates orders a stop; a drive voltage beyond 5 % stops it
with event 0x0902, and it starts again 10 s later; low power needs its permission and no energised bough. Shown to
complete: displayUpdate, displayFrameStart, vlcdAdjust, vlcdOutOfRange, displayRestart, updateTimeout, dispbtnPress,
dispbtnHold, pageIdleReturn, lowPowerEntry. -/
def Obligations.DisplayRuns : Prop :=
  ∀ s : State,
    (heartwoodRuns s = true → s.lcd.glyph.isSome = true → s.lcd.stopCause ≠ 2 → Completes .displayUpdate s fun t =>
      t.lcd.updated = true ∧ t.lcd.shown = s.lcd.shown ∧ t.lcd.page = s.lcd.page
        ∧ t.lcd.superseded = if s.lcd.updated then min 255 (s.lcd.superseded + 1) else s.lcd.superseded)
    ∧ (s.lcd.state = .showing → s.lcd.stopCause = 0 → Completes .displayFrameStart s fun t =>
      t.lcd.shown = s.lcd.latest ∧ t.lcd.dirty = 0 ∧ t.lcd.phaseLen = fld s.lcdCfg 22 15)
    ∧ (s.lcd.state = .pump → s.lcd.stopCause = 0 → Completes .displayFrameStart s fun t =>
      t.lcd.state = .clearing ∧ t.lcd.clearFrames = 2 ∧ t.lcd.shown = s.lcd.shown)
    ∧ (s.lcd.state = .clearing → s.lcd.stopCause = 0 → s.lcd.clearFrames = 1 → CanReport 0x0901 4 s →
      Completes .displayFrameStart s fun t => t.lcd.state = .showing ∧ t.lcd.backlight = true
        ∧ t.lcd.shown = s.lcd.latest ∧ lastEvent t = some (0x0901, 255, 0, leN 4 (s.lat.ms - s.lcd.startMs)))
    ∧ (s.lcd.state = .showing → s.lcd.stopCause ≠ 0 → Completes .displayFrameStart s fun t =>
      t.lcd.state = .stopping ∧ t.lcd.backlight = false ∧ t.lcd.shown = Vector.replicate 4 0 ∧ t.lcd.clearFrames = 2)
    ∧ (Completes .vlcdAdjust s fun t => t.lcd.target = vlcdTarget s ∧ 3000 ≤ t.lcd.target ∧ t.lcd.target ≤ 5000)
    ∧ (∀ mv, s.lcd.state = .showing → vlcdInRange s mv = false → Completes (.vlcdOutOfRange mv) s fun t =>
      t.lcd.state = .off ∧ t.lcd.faulted = true ∧ t.lcd.shown = Vector.replicate 4 0 ∧ t.lcd.backlight = false)
    ∧ (∀ mv, vlcdInRange s mv = true → exec (.vlcdOutOfRange mv) s = .next s)
    ∧ (s.lcd.faulted = true → heartwoodRuns s = true → s.lcd.state = .off → bitOf s.lcdCfg 31 = true →
      s.lcd.glyph.isSome = true → Completes .displayRestart s fun t => t.lcd.state = .pump ∧ t.lcd.faulted = false)
    ∧ (s.lcd.state = .showing → s.lcd.stopCause = 0 → Completes .updateTimeout s fun t => t.lcd.stopCause = 2)
    ∧ (s.lcd.state = .showing → s.lcd.stopCause = 0 →
      (Completes .dispbtnPress s fun t => t.lcd.page = nextPage s)
      ∧ (Completes .dispbtnHold s fun t => t.lcd.page = homePage s ∧ t.lcd.state = .showing)
      ∧ (Completes .pageIdleReturn s fun t => t.lcd.page = homePage s ∧ t.lcd.state = .showing)
      ∧ (bitOf s.lcdCfg 30 = true → anyEnergised s = false → Completes .lowPowerEntry s fun t =>
          t.lcd.state = .lowPower ∧ t.lcd.page = homePage s ∧ t.lcd.backlight = false)
      ∧ (anyEnergised s = true → exec .lowPowerEntry s = .next s))
    ∧ (s.lcd.state = .lowPower → s.lcd.stopCause = 0 → Completes .dispbtnPress s fun t =>
      t.lcd.state = .showing ∧ t.lcd.backlight = true ∧ t.lcd.page = s.lcd.page)

/-- Turns and roles of the canopy link (R500, R501, R505 to R509, R532, R533): only a coordinator begins turns; the tenth
pair of edges in range aligns it, one pair out of range or an absent edge ends the alignment; a station that MEMBER_MAP
shows is a member and takes the turn; of two coordinators the one with the lower rank number, then the lower station,
keeps the role; after listening in vain a station with a rank coordinates; the fifth missed beacon starts an election.
Shown to complete: turnStart, czcEdge, czcEdgeAbsent, beaconReceived, beaconListenEnd, beaconMissed. -/
def Obligations.CanopyTurns : Prop :=
  (∀ s : State, s.canopy.role ≠ 3 → exec .turnStart s = .next s)
  ∧ (∀ s : State, s.canopy.role = 3 → s.canopy.turnKnown = true → s.canopy.tripDue = [] → s.canopy.ceilDue = [] →
      Completes .turnStart s fun t => t.canopy.turn = s.canopy.turn + 1 ∧ t.canopy.beaconing = true
        ∧ t.canopy.lmCount = s.canopy.lmCount + 1 ∧ t.canopy.ceilTurns = s.canopy.ceilTurns - 1
        ∧ t.canopy.turnLen = (if bitOf s.cnpCfg 30 && s.canopy.czcLock then s.canopy.turnLen else 40000)
        ∧ ∃ e, t.canopy.out = s.canopy.out ++ [e] ∧ e.typ = 0 ∧ e.dst = 255)
  ∧ (∀ (s : State) (p : Nat), bitOf s.cnpCfg 30 = true →
      (s.canopy.czcEdge = false → Completes (.czcEdge p) s fun t => t.canopy.czcEdge = true ∧ t.canopy.czcLock = s.canopy.czcLock)
      ∧ (s.canopy.czcEdge = true → s.canopy.role = 3 → 30000 ≤ p → p ≤ 45000 → s.canopy.czcGood = 9 →
        Completes (.czcEdge p) s fun t => t.canopy.czcLock = true ∧ t.canopy.turnLen = p)
      ∧ (s.canopy.czcEdge = true → s.canopy.role = 3 → p < 30000 ∨ 45000 < p → Completes (.czcEdge p) s fun t =>
        t.canopy.czcLock = false ∧ t.canopy.czcGood = 0 ∧ t.canopy.turnLen = 40000)
      ∧ (s.canopy.role = 3 → Completes .czcEdgeAbsent s fun t =>
        t.canopy.czcLock = false ∧ t.canopy.czcGood = 0 ∧ t.canopy.turnLen = 40000))
  ∧ (∀ (s : State) (f : CnpRx) (body : List Byte), Delivers 0 f body s →
      let bc := beaconOf body
      (s.canopy.role = 2 → bc.timeKnown = false → bc.turnKnown = true → bc.memberMap.getLsbD (ownStation s) = true →
        Completes (.beaconReceived f) s fun t => t.canopy.role = 2 ∧ t.canopy.turn = bc.turn ∧ t.canopy.turnKnown = true
          ∧ t.canopy.missed = 0 ∧ t.canopy.coord = fcSrc f ∧ t.canopy.slots = bc.slots ∧ t.canopy.turnLen = bc.turnLen)
      ∧ (s.canopy.role = 3 → cnpRank s < bc.rank ∨ (cnpRank s = bc.rank ∧ ownStation s < fcSrc f) →
        Completes (.beaconReceived f) s fun t =>
          t.canopy.role = 3 ∧ t.canopy.members = s.canopy.members ∧ t.canopy.turn = s.canopy.turn)
      ∧ (s.canopy.role = 3 → bc.rank < cnpRank s → bc.timeKnown = false → bc.memberMap.getLsbD (ownStation s) = true →
        Completes (.beaconReceived f) s fun t => t.canopy.role = 2 ∧ t.canopy.coord = fcSrc f ∧ t.canopy.members = []))
  ∧ (∀ s : State, s.canopy.listening = true → cnpMayRun s = true →
      (0 < cnpRank s → Completes .beaconListenEnd s fun t => t.canopy.role = 3 ∧ t.canopy.listening = false
        ∧ t.canopy.coord = ownStation s ∧ t.canopy.memberCount = 1)
      ∧ (cnpRank s = 0 → Completes .beaconListenEnd s fun t => t.canopy.role = 1 ∧ t.canopy.listening = true))
  ∧ (∀ s : State, s.canopy.role = 2 → s.canopy.tripDue = [] → s.canopy.ceilDue = [] → s.canopy.turnKnown = true →
      (s.canopy.missed < 4 → Completes .beaconMissed s fun t =>
        t.canopy.role = 2 ∧ t.canopy.missed = s.canopy.missed + 1 ∧ t.canopy.turn = s.canopy.turn + 1)
      ∧ (s.canopy.missed = 4 → Completes .beaconMissed s fun t => t.canopy.role = 4 ∧ t.canopy.listening = true))

/-- Members, load management and trips (R506, R507, R515 to R518): the coordinator adds a station that asks, keeps its
latest status, and removes it after 25 turns without one; an allocation shares SITE_LIMIT out, and no member's share
passes its demand; a ceiling frame replaces the site ceilings of this station, and what it does not name is 0; they end
with their validity; a followed trip sets them to 0 until it ends. Shown to complete: joinRequest, statusFrame,
memberTimeout, loadAllocation, ceilingFrame, ceilingValidityExpired, tripFrame, tripFollowExpired. -/
def Obligations.CanopySite : Prop :=
  (∀ (s : State) (f : CnpRx) (body : List Byte), s.canopy.role = 3 →
    (Delivers 6 f body s → fcSrc f ≤ 63 → (∀ e ∈ s.canopy.members, e.station ≠ fcSrc f) →
      Completes (.joinRequest f) s fun t => t.canopy.members = s.canopy.members ++ [{ station := fcSrc f }]
        ∧ t.canopy.memberMap.getLsbD (fcSrc f) = true ∧ t.canopy.memberCount = s.canopy.members.length + 1)
    ∧ (Delivers 3 f body s → Completes (.statusFrame f) s fun t =>
        t.canopy.members.map (·.station) = s.canopy.members.map (·.station)
          ∧ ∀ e ∈ t.canopy.members, e.station = fcSrc f → e.silent = 0 ∧ ∀ b : Bough,
              e.demand[b] = leAt body (4 + 5 * b.val) 2 ∧ e.power[b] = leIAt body (6 + 5 * b.val) 2
                ∧ e.sesState[b] = leAt body (8 + 5 * b.val) 1))
  ∧ (∀ (s : State) (station : Nat), s.canopy.role = 3 → station ≠ ownStation s → Completes (.memberTimeout station) s fun t =>
      ∀ e, e ∈ t.canopy.members ↔ e ∈ s.canopy.members ∧ ¬(e.station = station ∧ 25 ≤ e.silent))
  ∧ (∀ s : State, mayAllocate s = true → Completes .loadAllocation s fun t =>
      t.canopy.lmCount = 0 ∧ t.canopy.lastCeilTurn = s.canopy.turn ∧ t.canopy.ceilTurns = fld s.cnpLmCfg 7 0
        ∧ s.canopy.ceilDue <+: t.canopy.ceilDue ∧ s.canopy.ceilDue.length < t.canopy.ceilDue.length)
  ∧ (∀ (n avail : Nat) (act : List Want), act.length < n →
      ((allocate n avail act).map (·.2.2)).sum ≤ avail
        ∧ ∀ w ∈ allocate n avail act, ∃ d ∈ act, w.1 = d.1 ∧ w.2.1 = d.2.1 ∧ w.2.2 ≤ d.2.2)
  ∧ (∀ (s : State) (f : CnpRx) (body : List Byte), joinedSite s = true → Delivers 4 f body s →
      Completes (.ceilingFrame f) s fun t => t.canopy.ceilTurns = leAt body 4 2
        ∧ t.canopy.lastCeilTurn = BitVec.ofNat 32 (leAt body 0 4) ∧ ∃ v, t.canopy.siteCeil = some v
          ∧ ∀ b : Bough, (∀ e ∈ entriesOf body, ¬(e.1 = ownStation s ∧ e.2.1 = b.val)) → v[b] = 0)
  ∧ (∀ s : State, (s.canopy.ceilTurns = 0 → Completes .ceilingValidityExpired s fun t => t.canopy.siteCeil = none)
      ∧ (s.canopy.ceilTurns ≠ 0 → exec .ceilingValidityExpired s = .next s))
  ∧ (∀ (s : State) (f : CnpRx) (body : List Byte), Delivers 5 f body s → Completes (.tripFrame f) s fun t =>
        t.canopy.tripZero = (s.canopy.tripZero || cnpFollow s) ∧ t.canopy.heardTrip = true ∧ t.saf = s.saf)
  ∧ (∀ s : State, Completes .tripFollowExpired s fun t => t.canopy.tripZero = false ∧ t.saf = s.saf)

/-- Messages of the canopy link (R496 to R499, R504, R513, R525): a frame of another site, or one whose tag fails, has no
effect but event 0x0A0A; a message of one block is delivered whole; an acknowledgement of every block ends the message,
one that names a failed block has it sent again, and the eighth attempt drops the message with event 0x0A05; a tone map
is used and dropped; CNP_SEND answers a bad destination with 4, a station outside a site with 1, a broadcast with 0; the
message counter never stands still. Shown to complete: joinRequest, canopyDataFrame, canopyAck, toneMapFrame,
toneMapExpired, cnpSend, messageCounterRollover. -/
def Obligations.CanopyMessages : Prop :=
  (∀ (s : State) (f : CnpRx), hears s 6 f = true → fcSite f ≠ cnpSite s → CanReport 0x0A0A 2 s →
      Completes (.joinRequest f) s fun t => t.canopy = s.canopy ∧ lastEvent t = some (0x0A0A, 255, 0, leN 1 (fcSrc f) ++ [2]))
  ∧ (∀ (s : State) (f : CnpRx), hears s 6 f = true → frameReason s f = none →
      (let (m, u) := collect f (deriveMap f (acknowledge f (noteCrx s)))
       m.any (fun msg => !keyAccepted s (fcKey f) || (openMsg u f msg).isNone)) = true → CanReport 0x0A0A 2 s →
      Completes (.joinRequest f) s fun t => t.canopy.members = s.canopy.members ∧ t.canopy.memberMap = s.canopy.memberMap
        ∧ lastEvent t = some (0x0A0A, 255, 0, leN 1 (fcSrc f) ++ [1]))
  ∧ (∀ (s : State) (f : CnpRx) (body : List Byte), Delivers 1 f body s → joinedSite s = true →
      CanReport 0x0A0C (2 + body.length) s → Completes (.canopyDataFrame f) s fun t =>
        heldBlocks t (fcSrc f) 1 = []
          ∧ lastEvent t = some (0x0A0C, 255, 0, leN 1 (fcSrc f) ++ leN 1 (fcCls f) ++ body))
  ∧ (∀ (s : State) (f : CnpRx) (m : TxMsg) (mask : BitVec 64), hears s 2 f = true → frameReason s f = none →
      txTo s (fcSrc f) = some m →
      (failedOf m mask = [] → Completes (.canopyAck f mask) s fun t =>
        t.canopy.tx = replaceTx m.dst none s.canopy.tx ∧ t.canopy.retx = s.canopy.retx)
      ∧ (failedOf m mask ≠ [] → (∀ e ∈ failedOf m mask, e.attempts < 8) → Completes (.canopyAck f mask) s fun t =>
        t.canopy.tx = replaceTx m.dst (some { m with
            blocks := (failedOf m mask).map (fun e => { e with attempts := e.attempts + 1 }) }) s.canopy.tx
          ∧ t.canopy.retx = min 65535 (s.canopy.retx + (failedOf m mask).length))
      ∧ ((∃ e ∈ failedOf m mask, 8 ≤ e.attempts) → Completes (.canopyAck f mask) s fun t =>
        t.canopy.tx = replaceTx m.dst none s.canopy.tx ∧ t.canopy.droppedM = min 255 (s.canopy.droppedM + 1)))
  ∧ (∀ (s : State) (f : CnpRx) (body : List Byte) (num bits : Nat), Delivers 7 f body s →
      Completes (.toneMapFrame f num bits) s fun t =>
        (peerOf t (fcSrc f)).tmap = num ∧ (peerOf t (fcSrc f)).bits = bits)
  ∧ (∀ (s : State) (st : Nat), Completes (.toneMapExpired st) s fun t => (peerOf t st).tmap = 0)
  ∧ (∀ (s : State) (h : CmdHdr) (dst cls : Nat) (data : List Byte),
      (CanAnswer s → (63 < dst ∧ dst ≠ 255) ∨ 1 < cls ∨ data = [] ∨ 1500 < data.length →
        Answers (.cnpSend h dst cls data) s 0x0A0B 255 h.tag [4])
      ∧ (dst ≤ 63 ∨ dst = 255 → cls ≤ 1 → data ≠ [] → data.length ≤ 1500 →
        (CanAnswer s → joinedSite s = false → Answers (.cnpSend h dst cls data) s 0x0A0B 255 h.tag [1])
        ∧ (joinedSite s = true → dst ≠ 255 → Completes (.cnpSend h dst cls data) s fun t =>
            (∃ m, t.canopy.tx = s.canopy.tx ++ [m] ∧ m.typ = 1 ∧ m.dst = dst ∧ m.cls = cls ∧ m.tag = some h.tag)
              ∧ ∃ e, t.canopy.out = s.canopy.out ++ [e] ∧ e.typ = 1 ∧ e.dst = dst)
        ∧ (CanAnswer s → joinedSite s = true → dst = 255 → Completes (.cnpSend h dst cls data) s fun t =>
            t.canopy.tx = s.canopy.tx ∧ lastEvent t = some (0x0A0B, 255, h.tag, [0]))))
  ∧ (∀ s : State, (s.canopy.msgCount < 0xFFFFFF → exec .messageCounterRollover s = .next s)
      ∧ (0xFFFFFF ≤ s.canopy.msgCount → Completes .messageCounterRollover s fun t =>
          t.canopy.msgCount = 0 ∧ s.canopy.msgTime < t.canopy.msgTime ∧ s.lat.optime ≤ t.canopy.msgTime))

/-- The tag's radio (R536 to R538, R542, R552, R553): a field of 1.5 A/m or more arrives and clears what the last reader
left; power-up completes the journalled transactions; a request with one slot is answered at once with the ATQB, after
HLTB only WUPB wakes the tag, a slot marker answers the drawn slot, and ATTRIB with this PUPI selects. Shown to
complete: fieldArrived, fieldLeft, tagPowerUp, reqb, wupb, slotMarker, attrib, hltb. -/
def Obligations.TagRadio : Prop :=
  (∀ (s : State) (l : Nat), s.tag.field = false →
      (l < 15 → exec (.fieldArrived l) s = .next s)
      ∧ (15 ≤ l → Completes (.fieldArrived l) s fun t => t.tag.field = true ∧ t.tag.level = l ∧ t.tag.fdetLow = true
          ∧ t.tag.selected = none ∧ t.tag.served = 0 ∧ (s.bak.onVbak = false → t.host.irq.getLsbD 7 = true)))
  ∧ (∀ s : State, s.tag.field = true → Completes .fieldLeft s fun t => t.tag.field = false ∧ t.tag.fdetLow = false
      ∧ t.tag.selected = none ∧ t.tag.powered = (s.tag.powered && !s.bak.onVbak))
  ∧ (∀ s : State, s.tag.field = false → exec .fieldLeft s = .next s)
  ∧ (∀ s : State, s.tag.field = true ∨ s.bak.onVbak = false → Completes .tagPowerUp s fun t => t.tag.powered = true
      ∧ (validHeaders s = [] → t.nv.tagMem = s.nv.tagMem ∧ t.tag.recovered = false))
  ∧ (∀ s : State, tagAnswers s = true → s.tag.selected = none →
      (s.tag.halted = false → Completes (.reqb 0 1) s fun t => t.tag.reply = some (atqb s) ∧ t.tag.drawn = none)
      ∧ (s.tag.halted = true → ∀ afi n, exec (.reqb afi n) s = .next s)
      ∧ (Completes (.wupb 0 1) s fun t => t.tag.halted = false ∧ t.tag.reply = some (atqb s))
      ∧ (∀ n, s.tag.halted = false → s.tag.drawn = some n → Completes (.slotMarker n) s fun t =>
          t.tag.reply = some (atqb s) ∧ t.tag.drawn = none)
      ∧ (∀ n, s.tag.drawn ≠ some n → exec (.slotMarker n) s = .next s)
      ∧ (∀ cid, cid ≤ 14 → s.tag.halted = false → Completes (.attrib (bytesAt (tagPage s 0) 16 4) cid) s fun t =>
          t.tag.selected = some cid)
      ∧ (∀ pupi cid, pupi ≠ bytesAt (tagPage s 0) 16 4 → exec (.attrib pupi cid) s = .next s)
      ∧ (Completes .hltb s fun t => t.tag.halted = true ∧ t.tag.reply = none))
  ∧ (∀ s : State, tagAnswers s = false → exec .hltb s = .next s ∧ exec .tagInfo s = .next s
      ∧ (∀ a n, exec (.reqb a n) s = .next s) ∧ (∀ f c, exec (.tagRead f c) s = .next s))

/-- Field commands on the tag memory (R539, R545 to R547, R549 to R551, R556): a read gives its pages and refuses the others
with its status; a write merges its bytes into one of pages 64 to 71, with status 1 beyond the memory, 2 where writing
is not permitted, 4 in a weak field, 5 when its verify fails; every other page outside the journal keeps its bytes. The
arbiter never interrupts a holder and of two that wait takes the one that did not hold last. A flush writes what is
marked and nothing else. Shown to complete: tagRead, tagWrite, tagInfo, tagArbiterGrant, tagFlush, meterSnapshot. -/
def Obligations.TagCommands : Prop :=
  (∀ s : State, tagAnswers s = true → s.tag.selected.isSome = true →
    (∀ first count, 1 ≤ count → count ≤ 4 → first + count ≤ 256 →
      ((∀ i < count, pageRefused (first + i) = false ∧ pageHasCrc (first + i) = false) →
        Completes (.tagRead first count) s fun t => t.nv.tagMem = s.nv.tagMem
          ∧ t.tag.reply = some (0 :: (List.range count).flatMap (fun i => tagPage s (first + i))) ∧ t.tag.lastStatus = 0)
      ∧ ((∃ i < count, pageRefused (first + i) = true) → Completes (.tagRead first count) s fun t =>
          t.tag.reply = some [2] ∧ t.nv.tagMem = s.nv.tagMem))
    ∧ (∀ page off data, off + data.length ≤ 64 → data ≠ [] → 64 ≤ page → page ≤ 71 → pageWriteEn s = true →
      (25 ≤ s.tag.level → MemOk s → Completes (.tagWrite page off data .done) s fun t =>
        tagPage t page = mergeAt (tagPage s page) off data ∧ t.tag.lastStatus = 0
          ∧ ∀ a, a < 64 * 240 → a / 64 ≠ page → memGet zeroB t.nv.tagMem a = memGet zeroB s.nv.tagMem a)
      ∧ (25 ≤ s.tag.level → Completes (.tagWrite page off data .failed) s fun t => t.tag.lastStatus = 5
          ∧ ∀ a, a / 64 ≠ page → memGet zeroB t.nv.tagMem a = memGet zeroB s.nv.tagMem a)
      ∧ (s.tag.level < 25 → Completes (.tagWrite page off data .done) s fun t =>
          t.tag.lastStatus = 4 ∧ t.nv.tagMem = s.nv.tagMem))
    ∧ (∀ page off data v, off + data.length ≤ 64 → data ≠ [] →
      (255 < page → Completes (.tagWrite page off data v) s fun t => t.tag.lastStatus = 1 ∧ t.nv.tagMem = s.nv.tagMem)
      ∧ (page ≤ 255 → page < 64 ∨ 71 < page → Completes (.tagWrite page off data v) s fun t =>
          t.tag.lastStatus = 2 ∧ t.nv.tagMem = s.nv.tagMem))
    ∧ (Completes .tagInfo s fun t => t.tag.reply = some (0 :: (tagPage s 0 ++ leN 1 s.tag.level ++ leN 1 (b2n (s.tag.owner == 2))))))
  ∧ (∀ s : State, (s.tag.owner ≠ 0 → ∀ f w, Completes (.tagArbiterGrant f w) s fun t => t.tag.owner = s.tag.owner
        ∧ t.tag.fieldWait = (f || s.tag.fieldWait) ∧ t.tag.trunkWait = (w || s.tag.trunkWait))
      ∧ (s.tag.owner = 0 → Completes (.tagArbiterGrant true true) s fun t =>
          t.tag.owner = (if s.tag.lastOwner = 1 then 2 else 1) ∧ t.tag.lastOwner = t.tag.owner))
  ∧ (∀ (s : State) (h : CmdHdr) (a : Nat), s.tag.marked = [a] → a < 64 * 240 → MemOk s →
      Completes (.tagFlush h .done) s fun t => t.tag.marked = [] ∧ memGet zeroB t.nv.tagMem a = memGet zeroB s.tag.mirror a
        ∧ (∀ x, x < 64 * 240 → x ≠ a → memGet zeroB t.nv.tagMem x = memGet zeroB s.nv.tagMem x)
        ∧ (CanAnswer s → lastEvent t = some (0x0B04, 255, h.tag, [0])))
  ∧ (∀ s : State, bitOf s.tagCfg 27 = true → heartwoodRuns s = true → Completes .meterSnapshot s fun t =>
      t.tag.snapNo = (s.tag.snapNo + 1) % 2 ^ 32 ∧ t.tag.snapB = !s.tag.snapB)

/-- Tamper, random source and masks (R563, R575, R577 to R580, R583): the second open sample in a row of an armed loop is a
fell: every root, key register and site key goes, the fell is counted and its cause kept; one open sample only counts; a
loop that is not enabled does nothing; intact again it is armed; the crystal's loss is a fell where it is enabled; a
failed health test stops the random source until a retest passes; a renewal of the masks changes no root. Shown to
complete: tamperSample, loopRearm, oscillatorDetector, drbgHealthFail, drbgRetest, drbgReseed, maskRenewal. -/
def Obligations.TamperAndRandom : Prop :=
  ∀ s : State,
    (s.bak.tamperCfg.getLsbD 0 = false → ∀ c l, exec (.tamperSample false c l) s = .next s)
    ∧ (s.bak.tamperCfg.getLsbD 0 = true → ∀ l,
      (s.bak.openA = 0 → Completes (.tamperSample false .opened l) s fun t =>
        t.bak.openA = 1 ∧ t.bak.loopA = 2 ∧ t.bak.roots = s.bak.roots ∧ t.bak.fells = s.bak.fells)
      ∧ (s.bak.openA = 1 → s.bak.armedA = true → s.bak.armedB = false → Completes (.tamperSample false .opened l) s fun t =>
        t.bak.roots = Vector.replicate 4 none ∧ t.crypto.keys = [] ∧ t.canopy.key0 = none ∧ t.canopy.key1 = none
          ∧ t.bak.fells = min 255 (s.bak.fells + 1) ∧ t.bak.cause = 1 ∧ t.bak.fellTime = s.bak.caltime ∧ t.bak.armedA = false)
      ∧ (Completes (.tamperSample false .intact l) s fun t => t.bak.openA = 0 ∧ t.bak.loopA = 0 ∧ t.bak.roots = s.bak.roots))
    ∧ (s.bak.loopA = 0 → Completes (.loopRearm false) s fun t => t.bak.armedA = true ∧ t.bak.armedB = s.bak.armedB)
    ∧ (s.bak.loopA ≠ 0 → exec (.loopRearm false) s = .next s)
    ∧ (s.bak.tamperCfg.getLsbD 2 = true → Completes .oscillatorDetector s fun t =>
      t.bak.roots = Vector.replicate 4 none ∧ t.bak.cause = 4 ∧ t.bak.oscOk = false)
    ∧ (s.bak.tamperCfg.getLsbD 2 = false → Completes .oscillatorDetector s fun t =>
      t.bak.roots = s.bak.roots ∧ t.bak.fells = s.bak.fells ∧ t.bak.oscOk = false)
    ∧ (∀ n, Completes (.drbgHealthFail n) s fun t => t.crypto.drbgOk = false ∧ t.crypto.drbgFail = true)
    ∧ (s.crypto.drbgFail = true → exec .drbgReseed s = .next s ∧ exec (.drbgRetest false) s = .next s
      ∧ Completes (.drbgRetest true) s fun t => t.crypto.drbgOk = true ∧ t.crypto.drbgFail = false)
    ∧ (s.crypto.drbgFail = false → Completes .drbgReseed s fun t => t.crypto.drbgReseeds = s.crypto.drbgReseeds + 1)
    ∧ (Completes .maskRenewal s fun t => t.bak.renewals = s.bak.renewals + 1 ∧ ∀ i : Fin 4,
        (t.bak.roots[i]).map (fun r => r.shareA ^^^ r.shareB) = (s.bak.roots[i]).map (fun r => r.shareA ^^^ r.shareB))

/-- KEY_CHALLENGE, KEY_LIFECYCLE, LIFECYCLE_APPLY, KEY_INSTALL and KEY_INFO (R566 to R568, R585): without a random source a
challenge answers 5; a wrong nonce answers 1 and any attempt uses the nonce up; SCRAPPED is left by no transition; an
accepted one applies at its tick; a root is installed in a slot that the state opens and that is empty, with result 3 or
4 else. Shown to complete: keyChallenge, keyLifecycle, lifecycleApply, keyInstall, keyInfo. -/
def Obligations.KeyCommands : Prop :=
  ∀ (s : State) (h : CmdHdr), CanAnswer s →
    (s.crypto.drbgOk = false → Answers (.keyChallenge h) s 0x0C06 255 h.tag [5])
    ∧ (s.crypto.drbgOk = true → Completes (.keyChallenge h) s fun t => ∃ n, t.key.nonce = some n ∧ n.length = 16
        ∧ t.key.nonceMs = s.lat.ms ∧ lastEvent t = some (0x0C06, 255, h.tag, 0 :: n))
    ∧ (∀ target nonce tag, Completes (.keyLifecycle h target nonce tag) s fun t => t.key.nonce = none ∧ t.nv = s.nv
        ∧ (s.key.nonce ≠ some (padTo 16 nonce) → t.key.target = s.key.target
            ∧ lastEvent t = some (0x0C06, 255, h.tag, [1]))
        ∧ (nonceOk s nonce = true → s.lifecycle = lcScrapped → t.key.target = s.key.target
            ∧ lastEvent t = some (0x0C06, 255, h.tag, [3]))
        ∧ (lifeResult s target nonce tag = 0 → t.key.target = some target ∧ t.key.tag = h.tag))
    ∧ (s.key.target = none → exec .lifecycleApply s = .next s)
    ∧ (∀ l, s.key.target = some l → l < 3 → s.upd.stage = none → s.upd.staged = 0 → s.upd.state ≠ 4 →
        Completes .lifecycleApply s fun t => t.nv.life = l ∧ t.bak.service = false ∧ t.key.target = none
          ∧ t.bak.roots = s.bak.roots)
    ∧ (∀ slot nonce enc tag, slotInstallable s slot = false →
        Answers (.keyInstall h slot nonce enc tag) s 0x0C06 255 h.tag [3])
    ∧ (∀ slot nonce enc tag, slotInstallable s slot = true → (s.rootOf slot).isSome = true →
        Answers (.keyInstall h slot nonce enc tag) s 0x0C06 255 h.tag [4])
    ∧ (∀ (slot : Fin 4) nonce enc tag root, slotInstallable s slot.val = true → s.rootOf slot.val = none →
        unwrapRoot s slot.val nonce enc tag = some root →
        Completes (.keyInstall h slot.val nonce enc tag) s fun t => ∃ r, t.bak.roots[slot] = some r
          ∧ r.shareA ^^^ r.shareB = BitVec.ofNat 256 (ofBe (padTo 32 root)))
    ∧ (Completes (.keyInfo h) s fun t => t.bak = s.bak ∧ t.key = s.key
        ∧ ∃ d, lastEvent t = some (0x0C09, 255, h.tag, d)
          ∧ d.take 65 = seccKey s 65 .seccP256)

/-- Scrubbing, in-service tests and repair (R603, R604, R611, R615 to R618, R626): the scrubbers pass the rows in address
order, the trunk's one not while CAP is 0; a slice that its partition does not accept has no effect; the last slice of a
run with the right signature counts the run, with a wrong one it is repeated, and a second wrong one marks the partition
failed; a march keeps what the rows hold; one soft repair at a time enters the field map, while it has room. The decoder
(R597): no wrong bit is clean, one wrong bit of the 79 is 1 corrected, any two are 2 corrected. MEM_INJECT (R605, R606,
R626): a macro beyond 220 answers 3; mode 0 answers with the decoder's outcome and the data for the flip mask on a test
word outside the address map, and changes no memory; mode 1 is refused with 4 in DEPLOYED, and elsewhere arms the word
of TARGET; a TARGET that lies elsewhere leaves the behaviour undefined (R739). Shown to complete: scrubRow,
heartwoodScrubRow, lbistSlice, marchSlice, fieldMapWrite, memMapGet, memInjectMode0, memInjectMode1. -/
def Obligations.MemoryService : Prop :=
  (∀ s : State,
    (bitOf s.memScrubCfg 31 = false ∨ s.trunk.capNow = 0 → exec .scrubRow s = .next s)
    ∧ (bitOf s.memScrubCfg 31 = true → s.trunk.capNow ≠ 0 → badWords s (rowBase s.mem.scrubRow) = [] →
      (s.mem.scrubRow < 98303 → Completes .scrubRow s fun t =>
        t.mem.scrubRow = s.mem.scrubRow + 1 ∧ t.mem.passes = s.mem.passes ∧ t.mem.cells = s.mem.cells)
      ∧ (s.mem.scrubRow = 98303 → Completes .scrubRow s fun t =>
        t.mem.scrubRow = 0 ∧ t.mem.passes = min 65535 (s.mem.passes + 1) ∧ t.mem.cells = s.mem.cells))
    ∧ (bitOf s.memScrubCfg 31 = true → s.mem.bad = [] → Completes .heartwoodScrubRow s fun t =>
        t.mem.hwScrubRow = (s.mem.hwScrubRow + 1) % 4096 ∧ t.mem.bad = [] ∧ t.mem.scrubRow = s.mem.scrubRow)
    ∧ (∀ (p : Fin 14) (g : Bool) (sig : BitVec 32),
      (acceptsSlice p g s = false → exec (.lbistSlice p g sig) s = .next s)
      ∧ (acceptsSlice p g s = true → s.mem.slices[p] + 1 < slicesOf p → Completes (.lbistSlice p g sig) s fun t =>
        t.mem.slices[p] = s.mem.slices[p] + 1 ∧ t.mem.runs = s.mem.runs ∧ t.mem.failedParts = s.mem.failedParts)
      ∧ (acceptsSlice p g s = true → slicesOf p ≤ s.mem.slices[p] + 1 →
        (sig = Config.bistSignature p → Completes (.lbistSlice p g sig) s fun t =>
          t.mem.slices[p] = 0 ∧ t.mem.runs = min 16383 (s.mem.runs + 1) ∧ t.mem.failedParts = s.mem.failedParts)
        ∧ (sig ≠ Config.bistSignature p → s.mem.repeating.getLsbD p.val = false → Completes (.lbistSlice p g sig) s fun t =>
          t.mem.repeating.getLsbD p.val = true ∧ t.mem.failedParts = s.mem.failedParts)
        ∧ (sig ≠ Config.bistSignature p → s.mem.repeating.getLsbD p.val = true → Completes (.lbistSlice p g sig) s fun t =>
          t.mem.repeating.getLsbD p.val = false ∧ t.mem.failedParts.getLsbD p.val = true)))
    ∧ (bitOf s.memTestCfg 30 = false ∨ s.trunk.capNow = 0 → ∀ hard, exec (.marchSlice hard) s = .next s)
    ∧ (bitOf s.memTestCfg 30 = true → s.trunk.capNow ≠ 0 → s.mem.marchRow + 1 < allRows →
        badWords s (rowBase s.mem.marchRow) = [] → Completes (.marchSlice []) s fun t =>
          t.mem.marchRow = s.mem.marchRow + 1 ∧ t.mem.cells = s.mem.cells ∧ t.mem.bad = s.mem.bad)
    ∧ (∀ e rest, s.ready = true → s.mem.softList = e :: rest →
      (s.nv.fieldMap.length < 64 → Completes .fieldMapWrite s fun t =>
        t.nv.fieldMap = s.nv.fieldMap ++ [e] ∧ t.mem.softList = rest)
      ∧ (64 ≤ s.nv.fieldMap.length → Completes .fieldMapWrite s fun t =>
        t.nv.fieldMap = s.nv.fieldMap ∧ t.mem.softList = rest))
    ∧ (∀ h : CmdHdr, Completes (.memMapGet h) s fun t => t.host.bulkState = 3 ∧ t.host.irq.getLsbD 10 = true
        ∧ t.nv.fieldMap = s.nv.fieldMap ∧ (CanAnswer s → lastEvent t = some (0x0D0A, 255, h.tag,
          leN 4 (usedEntries s.nv.factoryMap) ++ leN 4 (usedEntries s.nv.fieldMap)))))
  ∧ (classify 0 = 0 ∧ (∀ k < 79, classify (cwBit k) = 1)
    ∧ ∀ k < 79, ∀ l < 79, k ≠ l → classify (cwBit k ^^^ cwBit l) = 2)
  ∧ (∀ (s : State) (h : CmdHdr),
    (∀ m d, 220 < m → CanAnswer s → Answers (.memInjectMode0 h m d) s 0x0D09 255 h.tag [3])
    ∧ (∀ m d, m ≤ 220 → weight (flipMask s) < 4 → classify (flipMask s) ≠ 3 → CanAnswer s →
      Completes (.memInjectMode0 h m d) s fun t => t.mem.cells = s.mem.cells ∧ t.mem.bad = s.mem.bad
        ∧ t.nv.tagMem = s.nv.tagMem ∧ lastEvent t = some (0x0D09, 255, h.tag,
          leN 1 0 ++ leN 1 (classify (flipMask s)) ++ leN 4 (classify (flipMask s)) ++ leN 8 d.toNat))
    ∧ (s.lifecycle = lcDeployed → CanAnswer s → Answers (.memInjectMode1 h) s 0x0D09 255 h.tag [4])
    ∧ (s.lifecycle ≠ lcDeployed → targetOk (injectTarget s) = true → Completes (.memInjectMode1 h) s fun t =>
        t.mem.armed = true ∧ t.mem.armAddr = injectTarget s ∧ t.mem.armMask = flipMask s ∧ t.mem.bad = s.mem.bad)
    ∧ (s.lifecycle ≠ lcDeployed → targetOk (injectTarget s) = false →
        exec (.memInjectMode1 h) s = .fault .undefinedInjectTarget))

/-- The recorder at work (R636 to R639, R644 to R647): the oldest record of the queue is written to its ring, readings,
diverted records and the others apart; a window's end clears the counts; a histogram takes its quantity and no other
histogram changes; a snapshot is numbered; the summary writes the tag pages 24 to 63 and no page below. The fatal
restart and the dump slots (R652, R653, R655, R668): without a fatal error, and in fatal hold, nothing restarts; after a
dump of a cause that restarts the device resets and notes the restart, but once the restarts of the last hour reach
their limit every coil opens and the device holds; an erased slot is free again. Shown to complete: recordWrite,
budgetWindowEnd, histogramSample, histogramSnapshot, tagHistogramSummary, fatalRestart, dumpSlotErased. -/
def Obligations.RecorderAndRestarts : Prop :=
  (∀ s : State,
    (s.log.logOn = false → exec .recordWrite s = .next s ∧ exec .budgetWindowEnd s = .next s
      ∧ exec .histogramSnapshot s = .next s ∧ exec .tagHistogramSummary s = .next s
      ∧ ∀ id, exec (.histogramSample id) s = .next s)
    ∧ (∀ r rest, s.log.logOn = true → s.log.queue = r :: rest → s.log.lostDue = 0 → Completes .recordWrite s fun t =>
        t.log.queue = rest
          ∧ (r.code = 0x0701 → r ∈ t.nv.flash.reading.recs.map (·.2) ∧ t.nv.flash.coded = s.nv.flash.coded)
          ∧ (r.code ≠ 0x0701 → r.flags.getLsbD 4 = true → r ∈ t.nv.flash.general.recs.map (·.2)
              ∧ t.nv.flash.coded = s.nv.flash.coded)
          ∧ (r.code ≠ 0x0701 → r.flags.getLsbD 4 = false → r ∈ t.nv.flash.coded.recs.map (·.2)
              ∧ t.nv.flash.general = s.nv.flash.general))
    ∧ (s.log.logOn = true → Completes .budgetWindowEnd s fun t => t.log.budgets = [] ∧ t.log.overrun = 0)
    ∧ (s.log.logOn = true → Completes (.histogramSample 35) s fun t =>
        (∃ h, t.log.hists[(35 : Fin 40)] = h ∧ h.max = max s.log.hists[(35 : Fin 40)].max s.trunk.hstPace
          ∧ h.min = min s.log.hists[(35 : Fin 40)].min s.trunk.hstPace)
        ∧ ∀ j : Fin 40, j.val ≠ 35 → t.log.hists[j] = s.log.hists[j])
    ∧ (s.log.logOn = true → Completes .histogramSnapshot s fun t => t.log.snapNo = (s.log.snapNo + 1) % 2 ^ 32
        ∧ t.nv.flash.snaps.length ≤ 16 ∧ t.log.hists = s.log.hists)
    ∧ (s.log.logOn = true → MemOk s → Completes .tagHistogramSummary s fun t =>
        (∀ id : Fin 40, tagPage t (24 + id.val) = withCrc (padTo 60 (summaryPage id.val s.log.hists[id])))
          ∧ ∀ a, a < 64 * 24 → memGet zeroB t.nv.tagMem a = memGet zeroB s.nv.tagMem a))
  ∧ (∀ s : State,
    (s.log.fatalCause = none ∨ s.log.fatalHold = true → exec .fatalRestart s = .next s)
    ∧ (∀ c, s.log.fatalCause = some c → s.log.fatalHold = false → s.log.dumped = true → restartsAfterDump c = true →
      (recentRestarts s < fld s.logCfg 15 12 → Completes .fatalRestart s fun t =>
        t.start = {} ∧ t.bak = s.bak ∧ t.nv.flash.restarts.head? = some s.lat.optime ∧ t.saf = Vector.replicate 8 {})
      ∧ (fld s.logCfg 15 12 ≤ recentRestarts s → Completes .fatalRestart s fun t =>
        t.log.fatalHold = true ∧ ∀ (b : Bough) (k : Fin 3), t.saf[b].coils[k].driven = false))
    ∧ (∀ k : Fin 2, s.nv.flash.dumps[k].state = 3 → s.log.fatalCause = none → Completes (.dumpSlotErased k) s fun t =>
        t.nv.flash.dumps[k] = {} ∧ t.nv.flash.coded = s.nv.flash.coded)
    ∧ (∀ k : Fin 2, s.nv.flash.dumps[k].state ≠ 3 → exec (.dumpSlotErased k) s = .next s))

/-- LOG_READ, LOG_CLEAR, LOG_DUMP_READ, LOG_DUMP_ACK and LOG_HIST_GET (R650, R651, R655, R664, R751): busy answers 3, a bad
argument 4, nothing to read 1; what is read goes to the bulk window; a clearing is refused with 2 in DEPLOYED and
SCRAPPED, and elsewhere marks every record of its rings but those that are kept; an acknowledgement begins to erase the
slots named. Shown to complete: logRead, logDumpRead, logHistGet, logClear, logDumpAck. -/
def Obligations.LogCommands : Prop :=
  ∀ (s : State) (h : CmdHdr), CanAnswer s →
    (bulkHeld s = true → (∀ a b c, Answers (.logRead h a b c) s 0x0E01 255 h.tag [3])
      ∧ (∀ a b, Answers (.logDumpRead h a b) s 0x0E01 255 h.tag [3]) ∧ Answers (.logHistGet h) s 0x0E01 255 h.tag [3])
    ∧ (bulkHeld s = false →
      (∀ ring first limit, 2 < ring ∨ limit = 0 ∨ 262144 < limit → Answers (.logRead h ring first limit) s 0x0E01 255 h.tag [4])
      ∧ (∀ ring first limit, ring ≤ 2 → 1 ≤ limit → limit ≤ 262144 →
        (readable s ring first = [] → Answers (.logRead h ring first limit) s 0x0E01 255 h.tag [1])
        ∧ (∀ p ps, readable s ring first = p :: ps → recSize p.data.length ≤ limit →
          Completes (.logRead h ring first limit) s fun t => t.host.bulkState = 3 ∧ t.host.irq.getLsbD 10 = true
            ∧ t.nv = s.nv ∧ ∃ d, lastEvent t = some (0x0E01, 255, h.tag, leN 1 0 ++ leN 4 p.seq.toNat ++ d)))
      ∧ (∀ slot off, 1 < slot ∨ off % 262144 ≠ 0 → Answers (.logDumpRead h slot off) s 0x0E01 255 h.tag [4])
      ∧ (∀ k : Fin 2, s.nv.flash.dumps[k].state = 0 → Answers (.logDumpRead h k.val 0) s 0x0E01 255 h.tag [1])
      ∧ (∀ k : Fin 2, s.nv.flash.dumps[k].state = 1 → s.nv.flash.dumps[k].bytes ≠ [] →
        Completes (.logDumpRead h k.val 0) s fun t => t.host.bulkState = 3 ∧ t.nv = s.nv
          ∧ lastEvent t = some (0x0E01, 255, h.tag, leN 1 0 ++ leN 4 (min 262144 s.nv.flash.dumps[k].bytes.length)))
      ∧ (Completes (.logHistGet h) s fun t => t.host.bulkState = 3 ∧ t.log.hists = s.log.hists
          ∧ lastEvent t = some (0x0E01, 255, h.tag, leN 1 0 ++ leN 4 40)))
    ∧ (s.lifecycle = lcDeployed ∨ s.lifecycle = lcScrapped → ∀ scope, Completes (.logClear h scope) s fun t =>
        t.nv = s.nv ∧ lastEvent t = some (0x0E01, 255, h.tag, [2]))
    ∧ (s.lifecycle ≠ lcDeployed → s.lifecycle ≠ lcScrapped →
      (∀ scope : Byte, 8 ≤ scope.toNat → Answers (.logClear h scope) s 0x0E01 255 h.tag [4])
      ∧ (Completes (.logClear h 1) s fun t => t.nv.flash.general = s.nv.flash.general
          ∧ t.nv.flash.coded.recs.length = s.nv.flash.coded.recs.length
          ∧ (∀ e ∈ t.nv.flash.coded.recs, keptRec e.2.code = false → e.2.cleared = true)
          ∧ ∀ e ∈ s.nv.flash.coded.recs, keptRec e.2.code = true → e ∈ t.nv.flash.coded.recs))
    ∧ (∀ m : Byte, 4 ≤ m.toNat → Answers (.logDumpAck h m) s 0x0E01 255 h.tag [4])
    ∧ (s.log.fatalCause = none → s.nv.flash.dumps[(0 : Fin 2)].state ≠ 0 → Completes (.logDumpAck h 1) s fun t =>
        t.nv.flash.dumps[(0 : Fin 2)].state = 3 ∧ t.nv.flash.dumps[(1 : Fin 2)] = s.nv.flash.dumps[(1 : Fin 2)])

/-- Staging an update (R676 to R679, R688 to R691): while scheduled, draining or on trial the commands answer 5; a header
answers 1 with the step that it fails, or opens a staging; a chunk without a staging answers 2, one out of order 4, and
a fill operation adds its bytes; an end without a staging answers 2, with a target that fails its checks 6, and a good
target is staged. Shown to complete: updBegin, updChunk, updEnd. -/
def Obligations.UpdateStaging : Prop :=
  ∀ (s : State) (h : CmdHdr), CanAnswer s →
    (updBusy s = true → (∀ hd, Answers (.updBegin h hd) s 0x0F01 255 h.tag [5, 0])
      ∧ (∀ o l, Answers (.updChunk h o l) s 0x0F01 255 h.tag [5, 0]) ∧ Answers (.updEnd h) s 0x0F01 255 h.tag [5, 0])
    ∧ (updBusy s = false →
      (∀ hd k, hd.length = 128 → s.upd.stage = none → (hdrSteps s hd).find? (fun e => !e.2) = some (k, false) →
        Completes (.updBegin h hd) s fun t => t.nv = s.nv ∧ t.upd.stage = none ∧ t.upd.staged = s.upd.staged
          ∧ lastEvent t = some (0x0F01, 255, h.tag, [1, BitVec.ofNat 8 k]))
      ∧ (∀ hd, hd.length = 128 → s.upd.stage = none → s.upd.staged = 0 → (∀ e ∈ hdrSteps s hd, e.2 = true) →
        Completes (.updBegin h hd) s fun t => t.upd.state = 1
          ∧ t.upd.stage = some { part := hdrPart hd, header := hd, received := 128 }
          ∧ lastEvent t = some (0x0F01, 255, h.tag, [0, 0]))
      ∧ (s.upd.stage = none → Answers (.updEnd h) s 0x0F01 255 h.tag [2, 0])
      ∧ (∀ g, s.upd.stage = some g →
        (targetGood s g = false → Completes (.updEnd h) s fun t => t.upd.stage = none ∧ t.upd.staged = s.upd.staged
          ∧ lastEvent t = some (0x0F01, 255, h.tag, [6, 0]))
        ∧ (targetGood s g = true → Completes (.updEnd h) s fun t => t.upd.stage = none ∧ t.upd.state = 2
          ∧ t.upd.staged = s.upd.staged ||| BitVec.ofNat 3 (1 <<< g.part)))
      ∧ (bulkHeld s = true → ∀ o l, Answers (.updChunk h o l) s 0x0F01 255 h.tag [5, 0])
      ∧ (bulkHeld s = false →
        (s.upd.stage = none → ∀ o l, Answers (.updChunk h o l) s 0x0F01 255 h.tag [2, 0])
        ∧ (∀ g o l, s.upd.stage = some g → l = 0 ∨ 262144 < l ∨ o ≠ g.received ∨ hdrImgLen g.header < o + l →
          Completes (.updChunk h o l) s fun t => t.upd.stage = some g ∧ t.nv = s.nv
            ∧ lastEvent t = some (0x0F01, 255, h.tag, [4, 0]))
        ∧ (∀ g n v, s.upd.stage = some g → g.op = [] → g.ended = false → g.received + 8 < hdrImgLen g.header → 1 ≤ n →
            n < 2 ^ 24 → g.built.length + n ≤ hdrTargetLen g.header → bulkBytes s 0 8 = 3 :: leN 3 n ++ [v, 0, 0, 0] →
          Completes (.updChunk h g.received 8) s fun t => (∃ g', t.upd.stage = some g' ∧ g'.received = g.received + 8
            ∧ g'.built = g.built ++ List.replicate n v ∧ g'.op = [])
            ∧ lastEvent t = some (0x0F01, 255, h.tag, [0, 0]))))

/-- Scheduling and activation (R680 to R684, R691, R692): a schedule needs a staged part, a known mode and a pair whose
FORMAT is accepted; its condition begins the draining, where a bough that transfers is held once its session lets it and
any other at once; with every bough held the device writes the directory and resets; WAIT_MAX drops the schedule; on
trial a confirmation ends the trial and an abort falls back, and without either the window's end decides by AUTO. Shown
to complete: updSchedule, activationCondition, drainEnd, drainTimeout, updConfirm, updAbort, confirmationWindowEnd. -/
def Obligations.UpdateActivation : Prop :=
  ∀ (s : State) (h : CmdHdr),
    (CanAnswer s → (∀ m v, s.upd.staged = 0 ∨ s.upd.state = 4 → Answers (.updSchedule h m v) s 0x0F01 255 h.tag [2, 0])
      ∧ (∀ m v, s.upd.staged ≠ 0 → s.upd.state ≠ 4 →
        (2 < m → Answers (.updSchedule h m v) s 0x0F01 255 h.tag [4, 0])
        ∧ (m ≤ 2 → pairAccepted s = false → Answers (.updSchedule h m v) s 0x0F01 255 h.tag [6, 0])
        ∧ (m ≤ 2 → pairAccepted s = true → Completes (.updSchedule h m v) s fun t =>
          t.upd.state = 3 ∧ t.upd.mode = m ∧ t.upd.when = v ∧ lastEvent t = some (0x0F01, 255, h.tag, [0, 0]))))
    ∧ (s.upd.state ≠ 3 → exec .activationCondition s = .next s)
    ∧ (s.upd.state = 3 → conditionHolds s = true → Completes .activationCondition s fun t => t.upd.state = 4
        ∧ (∀ b : Bough, energised s b = true → t.sesL[b].held = true ∧ t.saf[b].holdUpd = s.saf[b].holdUpd)
        ∧ ∀ b : Bough, energised s b = false → t.saf[b].holdUpd = true)
    ∧ (s.upd.state ≠ 4 → exec .drainEnd s = .next s ∧ exec .drainTimeout s = .next s)
    ∧ (s.upd.state = 4 → (∀ b : Bough, heldOut s b = true) → Completes .drainEnd s fun t => t.start = {} ∧ t.upd = {}
        ∧ t.bak = s.bak ∧ ∃ d ∈ t.nv.flash.dir.toList, dirState d = 1 ∧ dirSwitched d = s.upd.staged)
    ∧ (s.upd.state = 4 → s.log.fatalCause = none → Completes .drainTimeout s fun t => t.upd.mode = 0 ∧ t.upd.state ≠ 4
        ∧ t.upd.staged = s.upd.staged ∧ ∀ b : Bough, t.saf[b].holdUpd = false ∧ t.sesL[b].held = false)
    ∧ (windowOpen s = false → CanAnswer s → Answers (.updConfirm h) s 0x0F01 255 h.tag [2, 0])
    ∧ (windowOpen s = true → Completes (.updConfirm h) s fun t => t.upd.switched = 0 ∧ t.start.trial = false
        ∧ t.upd.state ≠ 5 ∧ (CanAnswer s → lastEvent t = some (0x0F01, 255, h.tag, [0, 0])))
    ∧ (windowOpen s = true → Completes (.updAbort h) s fun t => t.start = {} ∧ t.upd = {} ∧ t.bak = s.bak
        ∧ ∃ d ∈ t.nv.flash.dir.toList, dirState d = 3)
    ∧ (windowOpen s = false → s.upd.stage = none → s.upd.state = 3 → Completes (.updAbort h) s fun t => t.upd.mode = 0
        ∧ t.upd.state ≠ 3 ∧ t.upd.staged = s.upd.staged ∧ (CanAnswer s → lastEvent t = some (0x0F01, 255, h.tag, [0, 0])))
    ∧ (windowOpen s = false → exec .confirmationWindowEnd s = .next s)
    ∧ (windowOpen s = true → bitOf s.updCfg 31 = true → Completes .confirmationWindowEnd s fun t =>
        t.upd.switched = 0 ∧ t.start.trial = false)
    ∧ (windowOpen s = true → bitOf s.updCfg 31 = false → Completes .confirmationWindowEnd s fun t =>
        t.start = {} ∧ ∃ d ∈ t.nv.flash.dir.toList, dirState d = 4 ∧ dirSwitched d = s.upd.switched)

/-- Frames of the commands of the trunk, the lattice, the supplies, the start, the commits and the host port: each changes
only the parts of the state listed with it; every register, counter, queue and byte outside them is as before. -/
def Obligations.FramesOfTrunkSuppliesAndStart : Prop :=
  (∀ t busy, Changes [.free, .trunk, .lattice, .events, .link, .ports, .modems, .association, .sessions,
      .powerLinks, .coils, .safety, .sampling, .energy, .averages, .quantities, .billed, .heartwood, .loads, .display,
      .memory, .cells, .recorder, .flash] (.latticeTick t busy))
  ∧ (∀ seg offers errs, Changes [.free, .trunk, .start, .events, .modems, .powerLinks, .powerDie, .heartwood,
      .display, .tag, .mirror, .memory, .cells, .recorder, .flash, .tagMem] (.trunkFlit seg offers errs))
  ∧ (∀ seg, Changes [.free, .trunk, .events, .powerLinks, .powerDie, .heartwood, .display, .tag, .mirror, .memory,
      .recorder, .flash, .tagMem] (.laneFailed seg))
  ∧ (∀ bad, Changes [.trunk, .events, .memory, .recorder] (.spareLanePattern bad))
  ∧ (∀ counts, Changes [.trunk, .events, .recorder] (.paceCount counts))
  ∧ (∀ count, Changes [.lattice, .events, .recorder] (.crystalCheck count))
  ∧ (∀ r, Changes [.free, .crypto, .events, .recorder] (.cryptoRequest r))
  ∧ (∀ m, Changes [.trunk] (.heartwoodMailboxWrite m))
  ∧ (∀ id high, Changes [.free, .trunk, .lattice, .crypto, .supply, .start, .pages, .commits, .events, .commands,
      .bulk, .link, .ports, .modems, .association, .sessions, .powerLinks, .sessionDev, .coils, .safety, .measures,
      .stops, .powerDie, .sampling, .energy, .averages, .quantities, .billed, .heartwood, .loads, .loadDev, .display,
      .canopy, .tag, .mirror, .keys, .memory, .cells, .recorder, .update, .backup, .flash] (.supplyTrip id high))
  ∧ (∀ id, Changes [.free, .supply, .start, .events, .ports, .modems, .association, .safety, .stops, .powerDie,
      .loads, .loadDev, .recorder] (.supplyRecovery id))
  ∧ (∀ toVbak, Changes [.backup] (.backupSwitchover toVbak))
  ∧ (∀ logic mixed power, Changes [.supply, .events, .recorder] (.dieTempUpdate logic mixed power))
  ∧ (∀ temp, Changes [.free, .supply, .events, .ports, .modems, .association, .sessions, .powerLinks, .coils,
      .safety, .stops, .powerDie, .billed, .heartwood, .loads, .loadDev, .display, .canopy, .memory, .cells,
      .recorder, .flash] (.powerDieThermalShutdown temp))
  ∧ (∀ ns, Changes [.free, .trunk, .lattice, .crypto, .supply, .start, .pages, .commits, .events, .commands, .bulk,
      .link, .ports, .modems, .association, .sessions, .powerLinks, .sessionDev, .coils, .safety, .measures, .stops,
      .powerDie, .sampling, .energy, .averages, .quantities, .billed, .heartwood, .loads, .loadDev, .display, .canopy,
      .tag, .mirror, .keys, .memory, .cells, .recorder, .update] (.resetnLow ns))
  ∧ (∀ viohMv pllLocks, Changes [.free, .lattice, .supply, .start, .events, .ports, .modems, .association, .safety,
      .loads, .tag, .mirror, .recorder, .tagMem] (.resetRelease viohMv pllLocks))
  ∧ (∀ fusesOk readBackAt, Changes [.trunk, .lattice, .crypto, .start, .events, .sampling, .canopy, .tag, .mirror,
      .memory, .recorder, .update, .backup, .flash, .tagMem] (.phaseP1 fusesOk readBackAt))
  ∧ (∀ t, Changes [.start, .events, .bulk, .tag, .mirror, .memory, .cells, .recorder, .tagMem] (.phaseP2 t))
  ∧ (∀ c, Changes [.free, .start, .events, .ports, .modems, .association, .sessions, .powerLinks, .coils, .safety,
      .stops, .powerDie, .billed, .heartwood, .loads, .display, .canopy, .tag, .mirror, .memory, .cells, .recorder,
      .flash, .tagMem] (.phaseP6 c))
  ∧ (∀ startMs, Changes [.free, .start, .events, .ports, .modems, .association, .safety, .loads, .canopy, .tag,
      .mirror, .recorder, .update, .tagMem] (.phaseP7 startMs))
  ∧ (∀ req, Changes [.commits] (.commitAccept req))
  ∧ (∀ sub, Changes [.free, .trunk, .pages, .commits, .events, .ports, .modems, .association, .sessions,
      .powerLinks, .safety, .billed, .heartwood, .loads, .loadDev, .display, .canopy, .tag, .mirror, .recorder,
      .backup, .flash, .tagMem] (.commitApply sub))
  ∧ (∀ sub b, Changes [.free, .pages, .commits, .events, .ports, .modems, .association, .sessions, .powerLinks,
      .safety, .sampling, .energy, .averages, .quantities, .billed, .heartwood, .loads, .recorder, .flash]
      (.commitBoughApply sub b))
  ∧ (∀ addr bytes, Changes [.pages, .commits, .events, .commands, .bulk, .link, .tag, .mirror, .recorder]
      (.registerWrite addr bytes))
  ∧ (∀ addr bytes, Changes [.events, .commands, .link, .recorder] (.commandQueueWrite addr bytes))
  ∧ (∀ addr len, Changes [.events, .link] (.eventQueueRead addr len))
  ∧ (∀ mask, Changes [.events, .link] (.hstIrqClear mask))
  ∧ (∀ mask, Changes [.commits, .link] (.hstCommitDoneClear mask))
  ∧ (∀ h body, Changes [.trunk, .lattice, .crypto, .supply, .start, .pages, .commits, .events, .commands, .bulk,
      .link, .ports, .modems, .association, .sessions, .powerLinks, .sessionDev, .coils, .safety, .measures, .stops,
      .powerDie, .sampling, .energy, .averages, .quantities, .billed, .heartwood, .loads, .loadDev, .display, .canopy,
      .tag, .mirror, .keys, .memory, .cells, .recorder, .update] (.hstRestart h body))
  ∧ (∀ h body, Changes [.events, .recorder] (.hstEcho h body))
  ∧ (Changes [.lattice, .events, .recorder] .pllLockLoss)
  ∧ (Changes [.lattice, .events, .recorder] .pllRecovery)
  ∧ (Changes [.free, .crypto] .cryptoOperationDone)
  ∧ (Changes [.backup] .backupDomainLoss)
  ∧ (Changes [.free, .supply, .events, .ports, .modems, .association, .safety, .stops, .powerDie, .loads, .loadDev,
      .recorder] .powerDieThermalRecovery)
  ∧ (Changes [.free, .trunk, .start, .pages, .events, .ports, .modems, .association, .safety, .sampling, .energy,
      .heartwood, .loads, .loadDev, .display, .canopy, .tag, .mirror, .recorder, .backup, .tagMem, .stored] .phaseP3)
  ∧ (Changes [.start, .events, .tag, .mirror, .recorder, .update, .flash, .tagMem] .phaseP4)
  ∧ (Changes [.free, .start, .events, .sessions, .sessionDev, .sampling, .energy, .billed, .heartwood, .display,
      .tag, .mirror, .recorder, .update, .backup, .flash, .tagMem] .phaseP5)
  ∧ (Changes [.start] .waitSupplyEnd)
  ∧ (Changes [.free, .trunk, .lattice, .crypto, .supply, .start, .pages, .commits, .events, .commands, .bulk, .link,
      .ports, .modems, .association, .sessions, .powerLinks, .sessionDev, .coils, .safety, .measures, .stops,
      .powerDie, .sampling, .energy, .averages, .quantities, .billed, .heartwood, .loads, .loadDev, .display, .canopy,
      .tag, .mirror, .keys, .memory, .cells, .recorder, .update, .backup, .flash, .tagMem, .stored] .commandDispatch)
  ∧ (Changes [.link] .hostBadOpcode)
  ∧ (Changes [.link] .hcsnCut)
  ∧ (Changes [.bulk, .link] .bulkRelease)
  ∧ (Changes [.link, .memory] .hcsnFalling)

/-- Frames of the commands of the vehicle ports, the sessions, the ledger and the safety block: each changes only the parts
of the state listed with it; everything outside them is as before. -/
def Obligations.FramesOfPortsSessionsAndSafety : Prop :=
  (∀ b positive mv, Changes [.free, .events, .ports, .modems, .association, .sessions, .powerLinks, .sessionDev,
      .coils, .safety, .measures, .billed, .heartwood, .loads, .display, .memory, .cells, .recorder, .flash]
      (.plateauValue b positive mv))
  ∧ (∀ b mvs, Changes [.events, .ports, .modems, .association, .safety, .recorder] (.pilotFaultProbe b mvs))
  ∧ (∀ b, Changes [.free, .events, .ports, .modems, .association, .sessions, .powerLinks, .safety, .billed,
      .heartwood, .loads, .display, .memory, .cells, .recorder, .flash] (.proximityMean b))
  ∧ (∀ mac runId atten, Changes [.modems, .association] (.cmSlacParmReq mac runId atten))
  ∧ (∀ mac runId atten, Changes [.ports, .association] (.cmStartAttenCharInd mac runId atten))
  ∧ (∀ mac runId atten erased groups, Changes [.association] (.cmMnbcSoundInd mac runId atten erased groups))
  ∧ (∀ mac runId, Changes [.events, .ports, .modems, .association, .recorder] (.soundingEnd mac runId))
  ∧ (∀ mac runId, Changes [.free, .events, .ports, .modems, .association, .safety, .recorder] (.cmSlacMatchReq mac
      runId))
  ∧ (∀ b count, Changes [.modems] (.cmValidateReq b count))
  ∧ (∀ b, Changes [.modems] (.validateCountEnd b))
  ∧ (∀ b, Changes [.events, .ports, .modems, .association, .safety, .recorder] (.slacWindowExpired b))
  ∧ (∀ b, Changes [.events, .ports, .modems, .association, .safety, .recorder] (.staggerRelease b))
  ∧ (∀ b symbols fcOk blocks, Changes [.trunk, .events, .modems, .recorder] (.modemFrameReceived b symbols fcOk
      blocks))
  ∧ (∀ b failed, Changes [.events, .ports, .modems, .recorder] (.selectiveAckReceived b failed))
  ∧ (∀ b linkLocal udpPort, Changes [.modems] (.seccDiscoveryReq b linkLocal udpPort))
  ∧ (∀ b conn list tlsAsked suites, Changes [.events, .ports, .modems, .recorder] (.supportedAppProtocol b conn list
      tlsAsked suites))
  ∧ (∀ b r, Changes [.free, .events, .ports, .modems, .association, .sessions, .powerLinks, .sessionDev, .safety,
      .loads, .display, .memory, .cells, .recorder] (.v2gRequest b r))
  ∧ (∀ b emaid subCas chainOk inDate, Changes [.free, .events, .ports, .modems, .association, .sessions,
      .powerLinks, .sessionDev, .safety, .loads, .display, .memory, .cells, .recorder] (.paymentDetailsReq b emaid
      subCas chainOk inDate))
  ∧ (∀ b, Changes [.free, .events, .ports, .modems, .association, .sessions, .powerLinks, .safety, .loads, .display,
      .recorder] (.cableCheckReq b))
  ∧ (∀ b k, Changes [.free, .events, .ports, .modems, .association, .sessions, .powerLinks, .safety, .billed,
      .heartwood, .loads, .display, .memory, .cells, .recorder, .flash] (.powerDeliveryReq b k))
  ∧ (∀ b, Changes [.free, .events, .ports, .modems, .association, .sessions, .powerLinks, .safety, .billed,
      .heartwood, .loads, .display, .memory, .cells, .recorder, .flash] (.sessionStopReq b))
  ∧ (∀ b, Changes [.modems, .powerLinks] (.certificateInstallationReq b))
  ∧ (∀ b k, Changes [.free, .events, .ports, .modems, .association, .sessions, .powerLinks, .safety, .billed,
      .heartwood, .loads, .display, .memory, .cells, .recorder, .flash] (.v2gTimerExpired b k))
  ∧ (∀ b, Changes [.free, .events, .ports, .modems, .association, .sessions, .powerLinks, .sessionDev, .safety,
      .loads, .display, .memory, .cells, .recorder] (.hostWaitExpired b))
  ∧ (∀ b, Changes [.free, .events, .ports, .modems, .association, .sessions, .powerLinks, .safety, .billed,
      .heartwood, .loads, .display, .memory, .cells, .recorder, .flash] (.authHoldExpired b))
  ∧ (∀ b, Changes [.free, .events, .ports, .modems, .association, .sessions, .powerLinks, .safety, .billed,
      .heartwood, .loads, .display, .memory, .cells, .recorder, .flash] (.creditCheck b))
  ∧ (∀ b, Changes [.free, .events, .ports, .modems, .association, .sessions, .powerLinks, .safety, .billed,
      .heartwood, .loads, .display, .memory, .cells, .recorder, .flash] (.grantExpired b))
  ∧ (∀ b, Changes [.events, .ports, .modems, .association, .sessions, .powerLinks, .safety, .recorder]
      (.hostCeilingExpired b))
  ∧ (∀ b, Changes [.free, .events, .ports, .modems, .association, .sessions, .powerLinks, .safety, .billed,
      .heartwood, .loads, .display, .recorder, .flash] (.ceilingBelowMinimum b))
  ∧ (∀ b, Changes [.powerLinks, .safety] (.stopWaitEnd b))
  ∧ (∀ b, Changes [.events, .powerLinks, .recorder] (.powerRequest b))
  ∧ (∀ b, Changes [.free, .events, .ports, .modems, .association, .sessions, .powerLinks, .safety, .billed,
      .heartwood, .loads, .display, .memory, .cells, .recorder, .flash] (.currentAllowanceExpired b))
  ∧ (∀ h remote amount expiry ident, Changes [.free, .events, .ports, .modems, .association, .sessions, .powerLinks,
      .sessionDev, .safety, .loads, .display, .memory, .cells, .recorder] (.sesAuthAccept h remote amount expiry
      ident))
  ∧ (∀ h ident, Changes [.free, .events, .ports, .modems, .association, .sessions, .powerLinks, .sessionDev,
      .safety, .billed, .heartwood, .loads, .display, .memory, .cells, .recorder, .flash] (.sesAuthRefuse h ident))
  ∧ (∀ h credential, Changes [.free, .events, .ports, .modems, .association, .sessions, .powerLinks, .sessionDev,
      .safety, .loads, .display, .memory, .cells, .recorder] (.sesIdent h credential))
  ∧ (∀ h, Changes [.free, .events, .ports, .modems, .association, .sessions, .powerLinks, .safety, .billed,
      .heartwood, .loads, .display, .memory, .cells, .recorder, .flash] (.sesStop h))
  ∧ (∀ h amount expiry, Changes [.events, .sessions, .recorder] (.sesGrant h amount expiry))
  ∧ (∀ h watts validity, Changes [.events, .ports, .modems, .association, .sessions, .powerLinks, .safety,
      .recorder] (.sesCeiling h watts validity))
  ∧ (∀ h digest amount, Changes [.free, .events, .sessions, .sessionDev, .memory, .cells, .recorder, .flash]
      (.sesCreditAdd h digest amount))
  ∧ (∀ h digest amount, Changes [.free, .events, .sessions, .sessionDev, .memory, .cells, .recorder, .flash]
      (.sesCreditSet h digest amount))
  ∧ (∀ h digest flags amount, Changes [.free, .events, .sessionDev, .memory, .cells, .recorder, .flash]
      (.sesCreditCreate h digest flags amount))
  ∧ (∀ h digest, Changes [.free, .events, .sessionDev, .memory, .cells, .recorder, .flash] (.sesCreditDelete h
      digest))
  ∧ (∀ h digest flags, Changes [.free, .events, .powerLinks, .sessionDev, .memory, .cells, .recorder, .flash]
      (.sesCreditSetFlags h digest flags))
  ∧ (∀ h count, Changes [.free, .events, .bulk, .sessionDev, .memory, .cells, .recorder, .flash]
      (.sesLedgerLoadMerge h count))
  ∧ (∀ h count, Changes [.free, .events, .bulk, .sessionDev, .memory, .cells, .recorder, .flash]
      (.sesLedgerLoadReplace h count))
  ∧ (∀ b k, Changes [.free, .events, .ports, .modems, .association, .sessions, .powerLinks, .coils, .safety,
      .billed, .heartwood, .loads, .display, .canopy, .memory, .cells, .recorder, .flash] (.closingSequence b k))
  ∧ (∀ b k, Changes [.free, .events, .ports, .modems, .association, .sessions, .powerLinks, .coils, .safety,
      .measures, .billed, .heartwood, .loads, .display, .canopy, .memory, .cells, .recorder, .flash]
      (.dcClosingSequence b k))
  ∧ (∀ b, Changes [.free, .events, .ports, .modems, .association, .sessions, .powerLinks, .coils, .safety,
      .measures, .billed, .heartwood, .loads, .display, .recorder, .flash] (.contactConfirmed b))
  ∧ (∀ b, Changes [.free, .events, .ports, .modems, .association, .sessions, .powerLinks, .coils, .safety, .billed,
      .heartwood, .loads, .display, .canopy, .memory, .cells, .recorder, .flash] (.closingConfirmTimeout b))
  ∧ (∀ b, Changes [.free, .events, .ports, .modems, .association, .sessions, .powerLinks, .coils, .safety, .billed,
      .heartwood, .loads, .display, .recorder, .flash] (.prechargeComplete b))
  ∧ (∀ b, Changes [.events, .ports, .modems, .association, .sessions, .powerLinks, .coils, .safety, .recorder]
      (.ordinaryOpening b))
  ∧ (∀ b, Changes [.coils, .safety] (.secondRelease b))
  ∧ (∀ b k, Changes [.free, .events, .ports, .modems, .association, .sessions, .powerLinks, .coils, .safety,
      .measures, .billed, .heartwood, .loads, .display, .canopy, .memory, .cells, .recorder, .flash] (.weldCheck b k))
  ∧ (∀ b k, Changes [.free, .events, .ports, .modems, .association, .sessions, .powerLinks, .coils, .safety,
      .billed, .heartwood, .loads, .display, .canopy, .memory, .cells, .recorder, .flash] (.weldRecheck b k))
  ∧ (∀ slot r, Changes [.free, .events, .ports, .modems, .association, .sessions, .powerLinks, .coils, .safety,
      .powerDie, .billed, .heartwood, .loads, .display, .canopy, .memory, .cells, .recorder, .flash] (.switchTestSlot
      slot r))
  ∧ (∀ on, Changes [.free, .events, .ports, .modems, .association, .sessions, .powerLinks, .coils, .safety, .billed,
      .heartwood, .loads, .display, .canopy, .memory, .cells, .recorder, .flash] (.stuckOnCheck on))
  ∧ (∀ b k, Changes [.free, .events, .ports, .modems, .association, .sessions, .powerLinks, .coils, .safety,
      .billed, .heartwood, .loads, .display, .canopy, .memory, .cells, .recorder, .flash] (.coilCurrentLimit b k))
  ∧ (∀ b k, Changes [.free, .events, .ports, .modems, .association, .sessions, .powerLinks, .coils, .safety,
      .billed, .heartwood, .loads, .display, .canopy, .memory, .cells, .recorder, .flash] (.coilOpenDetect b k))
  ∧ (∀ b, Changes [.free, .events, .ports, .modems, .association, .sessions, .powerLinks, .coils, .safety, .billed,
      .heartwood, .loads, .display, .canopy, .memory, .cells, .recorder, .flash] (.coilSupplyLow b))
  ∧ (∀ mvA mvB, Changes [.free, .events, .ports, .modems, .association, .sessions, .powerLinks, .coils, .safety,
      .stops, .powerDie, .billed, .heartwood, .loads, .display, .canopy, .memory, .cells, .recorder, .flash]
      (.emergencyStop mvA mvB))
  ∧ (∀ b v, Changes [.free, .events, .ports, .modems, .association, .sessions, .powerLinks, .coils, .safety,
      .measures, .sampling, .billed, .heartwood, .loads, .display, .canopy, .memory, .cells, .recorder, .flash]
      (.sidePathSample b v))
  ∧ (∀ b w, Changes [.free, .events, .ports, .modems, .association, .sessions, .powerLinks, .coils, .safety,
      .billed, .heartwood, .loads, .display, .canopy, .memory, .cells, .recorder, .flash] (.dcResidualPersistence b
      w))
  ∧ (∀ b, Changes [.free, .events, .ports, .modems, .association, .sessions, .powerLinks, .coils, .safety,
      .measures, .billed, .heartwood, .loads, .display, .canopy, .memory, .cells, .recorder, .flash] (.bridgeStateEnd
      b))
  ∧ (∀ disagree, Changes [.powerDie] (.heartbeatSend disagree))
  ∧ (∀ beat counter crcOk, Changes [.free, .events, .ports, .modems, .association, .sessions, .powerLinks, .coils,
      .safety, .stops, .powerDie, .billed, .heartwood, .loads, .display, .canopy, .memory, .cells, .recorder, .flash]
      (.heartbeatFrame beat counter crcOk))
  ∧ (∀ c, Changes [.powerDie] (.coreService c))
  ∧ (∀ c, Changes [.free, .events, .ports, .modems, .association, .sessions, .powerLinks, .coils, .safety,
      .powerDie, .billed, .heartwood, .loads, .display, .canopy, .memory, .cells, .recorder, .flash]
      (.logicWatchdogExpired c))
  ∧ (∀ h mask, Changes [.free, .events, .coils, .safety, .loads, .recorder] (.safClear h mask))
  ∧ (∀ h, Changes [.free, .events, .ports, .modems, .association, .sessions, .powerLinks, .safety, .billed,
      .heartwood, .loads, .display, .memory, .cells, .recorder, .flash] (.safHoldSet h))
  ∧ (∀ h, Changes [.events, .ports, .modems, .association, .safety, .recorder] (.safHoldRelease h))
  ∧ (Changes [.events, .ports, .modems, .association, .safety, .recorder] .decisionWindowEnd)
  ∧ (Changes [.free, .events, .ports, .modems, .association, .safety, .stops, .powerDie, .loads, .recorder]
      .emergencyStopRelease)
  ∧ (Changes [.free, .events, .ports, .modems, .association, .sessions, .powerLinks, .coils, .safety, .powerDie,
      .billed, .heartwood, .loads, .display, .canopy, .memory, .cells, .recorder, .flash] .estopDiscrepancy)
  ∧ (Changes [.free, .events, .ports, .modems, .association, .sessions, .powerLinks, .coils, .safety, .stops,
      .powerDie, .billed, .heartwood, .loads, .display, .canopy, .memory, .cells, .recorder, .flash]
      .heartbeatPeriodMissed)

/-- Frames of the commands of sampling, the energy engine, the heartwood, the load channels and the display: each changes
only the parts of the state listed with it; everything outside them is as before. -/
def Obligations.FramesOfMeteringLoadsAndDisplay : Prop :=
  (∀ bs, Changes [.trunk, .events, .ports, .safety, .measures, .sampling, .energy, .averages, .billed, .loads,
      .recorder] (.sampleFrame bs))
  ∧ (∀ b kind, Changes [.free, .events, .billed, .heartwood, .recorder] (.energyResultAccept b kind))
  ∧ (∀ b, Changes [.events, .sampling, .recorder] (.patrolVisitEnd b))
  ∧ (∀ b n, Changes [.events, .sampling, .recorder] (.modulatorStuck b n))
  ∧ (∀ b, Changes [.free, .events, .sampling, .billed, .heartwood, .recorder, .flash] (.reserveChainsFilled b))
  ∧ (∀ b, Changes [.sampling] (.hotSwapFitStart b))
  ∧ (∀ b r, Changes [.free, .events, .sampling, .billed, .heartwood, .recorder, .flash] (.hotSwapFitEnd b r))
  ∧ (∀ h mask n ref raw, Changes [.events, .sampling, .recorder] (.mtrCal h mask n ref raw))
  ∧ (∀ b, Changes [.events, .sampling, .recorder] (.mtrCalEnd b))
  ∧ (∀ h ch, Changes [.events, .sampling, .recorder] (.mtrSwapHot h ch))
  ∧ (∀ h ch, Changes [.events, .sampling, .recorder] (.mtrSwapReturn h ch))
  ∧ (∀ b ppm, Changes [.free, .events, .sampling, .billed, .heartwood, .recorder, .flash] (.swapReturnCompareEnd b
      ppm))
  ∧ (∀ h ch, Changes [.events, .sampling, .recorder] (.mtrSwapAbort h ch))
  ∧ (∀ h ch, Changes [.events, .sampling, .recorder] (.mtrSwapReadmit h ch))
  ∧ (∀ b before after, Changes [.events, .ports, .modems, .association, .sessions, .powerLinks, .safety, .sampling,
      .energy, .averages, .quantities, .recorder] (.cycleEnd b before after))
  ∧ (∀ b, Changes [.events, .ports, .modems, .association, .sessions, .powerLinks, .safety, .sampling, .energy,
      .averages, .quantities, .recorder] (.noCrossingTimeout b))
  ∧ (∀ b, Changes [.events, .ports, .modems, .association, .sessions, .powerLinks, .safety, .sampling, .energy,
      .averages, .quantities, .recorder] (.noGridCycle b))
  ∧ (∀ b phase, Changes [.events, .energy, .recorder] (.meteringGapOpen b phase))
  ∧ (∀ slotFails halfFails, Changes [.free, .events, .sessions, .powerLinks, .powerDie, .billed, .heartwood,
      .display, .tag, .mirror, .memory, .cells, .recorder, .flash, .tagMem] (.saveTick slotFails halfFails))
  ∧ (∀ h, Changes [.energy] (.nrgRead h))
  ∧ (∀ b, Changes [.events, .energy, .recorder] (.nrgReadReply b))
  ∧ (∀ b, Changes [.billed] (.gateSilence b))
  ∧ (∀ h utc offset, Changes [.free, .pages, .commits, .events, .billed, .heartwood, .recorder, .backup, .flash]
      (.bilTimeSet h utc offset))
  ∧ (∀ h no, Changes [.events, .heartwood, .recorder] (.bilReadAck h no))
  ∧ (∀ h, Changes [.free, .events, .billed, .heartwood, .recorder, .flash] (.bilReadNow h))
  ∧ (∀ h, Changes [.events, .recorder] (.bilInfo h))
  ∧ (∀ h first count, Changes [.events, .bulk, .recorder] (.bilReadGet h first count))
  ∧ (∀ h mask duty, Changes [.events, .loads, .recorder] (.auxSet h mask duty))
  ∧ (∀ h mask, Changes [.free, .events, .loads, .recorder] (.auxClear h mask))
  ∧ (∀ ch, Changes [.loads] (.inrushWindowEnd ch))
  ∧ (∀ ch, Changes [.free, .events, .loads, .recorder] (.channelOvercurrent ch))
  ∧ (∀ ch temp, Changes [.free, .events, .loads, .recorder] (.channelThermalFault ch temp))
  ∧ (∀ ch temp, Changes [.free, .loads] (.hotClear ch temp))
  ∧ (∀ ch, Changes [.free, .loads] (.retryRestart ch))
  ∧ (∀ ch, Changes [.loads] (.retryCountReset ch))
  ∧ (∀ ch vs, Changes [.free, .loads, .loadDev] (.lampCompensation ch vs))
  ∧ (∀ g, Changes [.free, .loads] (.groupSupplyReturn g))
  ∧ (∀ mv, Changes [.free, .events, .loads, .display, .recorder] (.vlcdOutOfRange mv))
  ∧ (∀ ch, Changes [.loads] (.channelLimitReached ch))
  ∧ (Changes [.free, .events, .billed, .heartwood, .recorder, .backup] .calendarSecond)
  ∧ (Changes [.free, .events, .billed, .heartwood, .recorder, .backup] .calendarRangeEnd)
  ∧ (Changes [.free, .trunk, .sessions, .billed, .heartwood] .heartwoodConversion)
  ∧ (Changes [.free, .billed, .heartwood] .rateEvaluation)
  ∧ (Changes [.free, .pages, .commits, .events, .billed, .heartwood, .recorder, .backup, .flash] .billingBoundary)
  ∧ (Changes [.free, .events, .billed, .heartwood, .recorder, .flash] .readingRelease)
  ∧ (Changes [.free, .events, .powerLinks, .powerDie, .heartwood, .display, .tag, .mirror, .recorder, .flash,
      .tagMem] .checkValueRecompute)
  ∧ (Changes [.loadDev] .isenseScanStep)
  ∧ (Changes [.free, .display] .displayUpdate)
  ∧ (Changes [.free, .events, .loads, .display, .recorder] .displayFrameStart)
  ∧ (Changes [.display] .vlcdAdjust)
  ∧ (Changes [.display] .displayRestart)
  ∧ (Changes [.events, .display, .recorder] .updateTimeout)
  ∧ (Changes [.free, .events, .powerLinks, .powerDie, .heartwood, .loads, .display, .tag, .mirror, .recorder,
      .flash, .tagMem] .dispbtnPress)
  ∧ (Changes [.display] .dispbtnHold)
  ∧ (Changes [.display] .pageIdleReturn)
  ∧ (Changes [.free, .loads, .display] .lowPowerEntry)

/-- Frames of the commands of the canopy link, the service tag, the keys, the memories, the recorder and the update: each
changes only the parts of the state listed with it; everything outside them is as before. -/
def Obligations.FramesOfCanopyTagKeysMemoryLogAndUpdate : Prop :=
  (∀ port symbols built blocks medium, Changes [.free, .modems, .canopy] (.modemFrameTransmit port symbols built
      blocks medium))
  ∧ (∀ pairUs, Changes [.canopy] (.czcEdge pairUs))
  ∧ (∀ f, Changes [.free, .trunk, .pages, .commits, .events, .ports, .modems, .association, .sessions, .powerLinks,
      .safety, .billed, .heartwood, .canopy, .recorder, .backup, .flash] (.beaconReceived f))
  ∧ (∀ f, Changes [.trunk, .events, .canopy, .recorder] (.joinRequest f))
  ∧ (∀ station, Changes [.canopy] (.memberTimeout station))
  ∧ (∀ f, Changes [.trunk, .events, .canopy, .recorder] (.canopyDataFrame f))
  ∧ (∀ f mask, Changes [.trunk, .events, .canopy, .recorder] (.canopyAck f mask))
  ∧ (∀ f num bits, Changes [.trunk, .events, .canopy, .recorder] (.toneMapFrame f num bits))
  ∧ (∀ station, Changes [.events, .canopy, .recorder] (.toneMapExpired station))
  ∧ (∀ f, Changes [.trunk, .events, .canopy, .recorder] (.statusFrame f))
  ∧ (∀ f, Changes [.trunk, .events, .ports, .modems, .association, .sessions, .powerLinks, .safety, .canopy,
      .recorder] (.ceilingFrame f))
  ∧ (∀ f, Changes [.trunk, .events, .ports, .modems, .association, .sessions, .powerLinks, .safety, .canopy,
      .recorder] (.tripFrame f))
  ∧ (∀ h dst cls data, Changes [.events, .canopy, .recorder] (.cnpSend h dst cls data))
  ∧ (∀ level, Changes [.events, .tag, .recorder] (.fieldArrived level))
  ∧ (∀ afi slots, Changes [.free, .tag] (.reqb afi slots))
  ∧ (∀ afi slots, Changes [.free, .tag] (.wupb afi slots))
  ∧ (∀ slot, Changes [.tag] (.slotMarker slot))
  ∧ (∀ pupi cid, Changes [.tag] (.attrib pupi cid))
  ∧ (∀ first count, Changes [.events, .tag, .recorder] (.tagRead first count))
  ∧ (∀ page off data fin, Changes [.free, .events, .tag, .mirror, .recorder, .tagMem, .stored] (.tagWrite page off
      data fin))
  ∧ (∀ fieldWaits trunkWaits, Changes [.tag] (.tagArbiterGrant fieldWaits trunkWaits))
  ∧ (∀ h fin, Changes [.free, .events, .tag, .mirror, .recorder, .tagMem, .stored] (.tagFlush h fin))
  ∧ (∀ h, Changes [.free, .events, .keys, .recorder] (.keyChallenge h))
  ∧ (∀ h target nonce tag, Changes [.events, .keys, .recorder] (.keyLifecycle h target nonce tag))
  ∧ (∀ h slot nonce enc tag, Changes [.free, .events, .recorder, .backup] (.keyInstall h slot nonce enc tag))
  ∧ (∀ h, Changes [.events, .recorder] (.keyInfo h))
  ∧ (∀ loopB cls level, Changes [.crypto, .events, .ports, .modems, .association, .sessions, .powerLinks, .safety,
      .canopy, .keys, .recorder, .update, .backup] (.tamperSample loopB cls level))
  ∧ (∀ loopB, Changes [.backup] (.loopRearm loopB))
  ∧ (∀ test, Changes [.crypto, .events, .recorder] (.drbgHealthFail test))
  ∧ (∀ ok, Changes [.crypto] (.drbgRetest ok))
  ∧ (∀ part granted sig, Changes [.free, .events, .link, .ports, .modems, .association, .sessions, .powerLinks,
      .safety, .powerDie, .billed, .heartwood, .loads, .display, .canopy, .tag, .mirror, .memory, .cells, .recorder,
      .flash, .tagMem] (.lbistSlice part granted sig))
  ∧ (∀ hard, Changes [.free, .events, .powerLinks, .powerDie, .heartwood, .display, .tag, .mirror, .memory, .cells,
      .recorder, .flash, .tagMem] (.marchSlice hard))
  ∧ (∀ h ramMacro data, Changes [.free, .events, .memory, .recorder] (.memInjectMode0 h ramMacro data))
  ∧ (∀ h, Changes [.events, .memory, .recorder] (.memInjectMode1 h))
  ∧ (∀ h, Changes [.events, .bulk, .recorder] (.memMapGet h))
  ∧ (∀ id, Changes [.powerLinks, .sessionDev, .recorder] (.histogramSample id))
  ∧ (∀ slot, Changes [.events, .recorder, .flash] (.dumpSlotErased slot))
  ∧ (∀ h ring first limit, Changes [.events, .bulk, .recorder] (.logRead h ring first limit))
  ∧ (∀ h scope, Changes [.events, .tag, .mirror, .recorder, .flash, .tagMem] (.logClear h scope))
  ∧ (∀ h slot off, Changes [.events, .bulk, .recorder] (.logDumpRead h slot off))
  ∧ (∀ h mask, Changes [.events, .recorder, .flash] (.logDumpAck h mask))
  ∧ (∀ h, Changes [.events, .bulk, .recorder] (.logHistGet h))
  ∧ (∀ h header, Changes [.events, .recorder, .update, .flash] (.updBegin h header))
  ∧ (∀ h off len, Changes [.events, .bulk, .recorder, .update, .flash] (.updChunk h off len))
  ∧ (∀ h, Changes [.events, .recorder, .update] (.updEnd h))
  ∧ (∀ h mode value, Changes [.events, .recorder, .update] (.updSchedule h mode value))
  ∧ (∀ h, Changes [.start, .events, .recorder, .update, .flash] (.updConfirm h))
  ∧ (∀ h, Changes [.trunk, .lattice, .crypto, .supply, .start, .pages, .commits, .events, .commands, .bulk, .link,
      .ports, .modems, .association, .sessions, .powerLinks, .sessionDev, .coils, .safety, .measures, .stops,
      .powerDie, .sampling, .energy, .averages, .quantities, .billed, .heartwood, .loads, .loadDev, .display, .canopy,
      .tag, .mirror, .keys, .memory, .cells, .recorder, .update, .flash] (.updAbort h))
  ∧ (Changes [.free, .events, .canopy, .recorder] .turnStart)
  ∧ (Changes [.events, .canopy, .recorder] .beaconListenEnd)
  ∧ (Changes [.events, .canopy, .recorder] .beaconMissed)
  ∧ (Changes [.events, .ports, .modems, .association, .sessions, .powerLinks, .safety, .canopy, .recorder]
      .loadAllocation)
  ∧ (Changes [.events, .ports, .modems, .association, .sessions, .powerLinks, .safety, .canopy, .recorder]
      .ceilingValidityExpired)
  ∧ (Changes [.events, .ports, .modems, .association, .sessions, .powerLinks, .safety, .canopy, .recorder]
      .tripFollowExpired)
  ∧ (Changes [.canopy] .messageCounterRollover)
  ∧ (Changes [.events, .tag, .recorder] .fieldLeft)
  ∧ (Changes [.events, .tag, .mirror, .recorder, .tagMem, .stored] .tagPowerUp)
  ∧ (Changes [.tag] .hltb)
  ∧ (Changes [.tag] .tagInfo)
  ∧ (Changes [.tag, .mirror, .tagMem] .meterSnapshot)
  ∧ (Changes [.crypto, .events, .ports, .modems, .association, .sessions, .powerLinks, .safety, .canopy, .keys,
      .recorder, .update, .backup, .lifecycle] .lifecycleApply)
  ∧ (Changes [.free, .backup] .maskRenewal)
  ∧ (Changes [.crypto, .events, .ports, .modems, .association, .sessions, .powerLinks, .safety, .canopy, .keys,
      .recorder, .update, .backup] .oscillatorDetector)
  ∧ (Changes [.crypto] .drbgReseed)
  ∧ (Changes [.free, .events, .powerLinks, .powerDie, .heartwood, .display, .tag, .mirror, .memory, .cells,
      .recorder, .flash, .tagMem] .scrubRow)
  ∧ (Changes [.free, .events, .powerLinks, .powerDie, .heartwood, .display, .tag, .mirror, .memory, .cells,
      .recorder, .flash, .tagMem] .heartwoodScrubRow)
  ∧ (Changes [.events, .memory, .recorder, .stored] .fieldMapWrite)
  ∧ (Changes [.events, .recorder, .flash] .recordWrite)
  ∧ (Changes [.events, .recorder] .budgetWindowEnd)
  ∧ (Changes [.recorder, .flash] .histogramSnapshot)
  ∧ (Changes [.tag, .mirror, .tagMem] .tagHistogramSummary)
  ∧ (Changes [.free, .trunk, .lattice, .crypto, .supply, .start, .pages, .commits, .events, .commands, .bulk, .link,
      .ports, .modems, .association, .sessions, .powerLinks, .sessionDev, .coils, .safety, .measures, .stops,
      .powerDie, .sampling, .energy, .averages, .quantities, .billed, .heartwood, .loads, .loadDev, .display, .canopy,
      .tag, .mirror, .keys, .memory, .cells, .recorder, .update, .flash, .tagMem] .fatalRestart)
  ∧ (Changes [.free, .events, .ports, .modems, .association, .sessions, .powerLinks, .safety, .billed, .heartwood,
      .loads, .display, .memory, .cells, .recorder, .update, .flash] .activationCondition)
  ∧ (Changes [.free, .trunk, .lattice, .crypto, .supply, .start, .pages, .commits, .events, .commands, .bulk, .link,
      .ports, .modems, .association, .sessions, .powerLinks, .sessionDev, .coils, .safety, .measures, .stops,
      .powerDie, .sampling, .energy, .averages, .quantities, .billed, .heartwood, .loads, .loadDev, .display, .canopy,
      .tag, .mirror, .keys, .memory, .cells, .recorder, .update, .flash] .drainEnd)
  ∧ (Changes [.events, .ports, .modems, .association, .powerLinks, .safety, .recorder, .update] .drainTimeout)
  ∧ (Changes [.trunk, .lattice, .crypto, .supply, .start, .pages, .commits, .events, .commands, .bulk, .link,
      .ports, .modems, .association, .sessions, .powerLinks, .sessionDev, .coils, .safety, .measures, .stops,
      .powerDie, .sampling, .energy, .averages, .quantities, .billed, .heartwood, .loads, .loadDev, .display, .canopy,
      .tag, .mirror, .keys, .memory, .cells, .recorder, .update, .flash] .confirmationWindowEnd)
  ∧ (Changes [.canopy] .czcEdgeAbsent)

/-- Each of the commands of the trunk, the lattice, the supplies, the start, the commits, the host port, the vehicle ports,
the sessions, the ledger and the safety block COMPLETES: in every state and for all operands that meet the conditions
under which the spec lets it run, there is a next state, with the command's own effect. Shown to complete: latticeTick,
spareLanePattern, paceCount, crystalCheck, sampleFrame, pllLockLoss, pllRecovery, trunkFlit, laneFailed, cryptoRequest,
cryptoOperationDone, heartwoodMailboxWrite, energyResultAccept, supplyTrip, supplyRecovery, backupSwitchover,
backupDomainLoss, dieTempUpdate, powerDieThermalShutdown, powerDieThermalRecovery, resetnLow, resetRelease, phaseP1,
phaseP2, phaseP3, phaseP4, phaseP5, phaseP6, waitSupplyEnd, phaseP7, calendarSecond, calendarRangeEnd, commitAccept,
commitApply, commitBoughApply, registerWrite, hstIrqClear, hstCommitDoneClear, bulkRelease, commandQueueWrite,
eventQueueRead, commandDispatch, hstRestart, hstEcho, hostBadOpcode, hcsnCut, hcsnFalling, plateauValue,
pilotFaultProbe, proximityMean, cmSlacParmReq, cmStartAttenCharInd, cmMnbcSoundInd, soundingEnd, cmSlacMatchReq,
decisionWindowEnd, cmValidateReq, validateCountEnd, slacWindowExpired, staggerRelease, modemFrameReceived,
selectiveAckReceived, modemFrameTransmit, seccDiscoveryReq, supportedAppProtocol, v2gRequest, paymentDetailsReq,
cableCheckReq, certificateInstallationReq, powerDeliveryReq, sessionStopReq, v2gTimerExpired, hostWaitExpired,
authHoldExpired, hostCeilingExpired, ceilingBelowMinimum, stopWaitEnd, powerRequest, creditCheck, grantExpired,
currentAllowanceExpired, sesAuthAccept, sesAuthRefuse, sesIdent, sesStop, sesGrant, sesCeiling, sesCreditAdd,
sesCreditSet, sesCreditDelete, sesCreditSetFlags, sesCreditCreate, sesLedgerLoadMerge, sesLedgerLoadReplace,
closingSequence, dcClosingSequence, contactConfirmed, closingConfirmTimeout, prechargeComplete, ordinaryOpening,
secondRelease, weldCheck, weldRecheck, coilCurrentLimit, coilOpenDetect, coilSupplyLow, sidePathSample,
dcResidualPersistence, bridgeStateEnd, safClear, safHoldSet, safHoldRelease, switchTestSlot, stuckOnCheck,
emergencyStop, emergencyStopRelease, estopDiscrepancy, heartbeatSend, heartbeatFrame, heartbeatPeriodMissed,
coreService, logicWatchdogExpired. -/
def Obligations.TrunkToSafetyCommandsComplete : Prop :=
  (∀ s : State,
    (s.lat.running = true → s.lat.pllLost = false →
      (∀ k busy, ∃ t, exec (.latticeTick k busy) s = .next t ∧
        (k = .microsecond → t.lat.us = s.lat.us + 1) ∧ (k = .sample → t.lat.smp = (s.lat.smp + 1) % 2 ^ 24)
          ∧ (k = .millisecond → t.lat.ms = s.lat.ms + 1) ∧ (k = .operating → t.lat.opTicks = s.lat.opTicks + 1)
          ∧ (k = .second → t.lat.sec = s.lat.sec + 1))
      ∧ (∀ bad, ∃ t, exec (.spareLanePattern bad) s = .next t ∧ ∀ g : Fin 23, bad.getLsbD g.val = true →
        s.trunk.seg[g].carried = none → t.trunk.seg[g].spareBad = true)
      ∧ (∀ counts, ∃ t, exec (.paceCount counts) s = .next t ∧ t.trunk.hstPace = counts.getD (slowestSeg counts) 0 / 1000)
      ∧ (∀ n, n < 24987500 ∨ 25012500 < n → ∃ t, exec (.crystalCheck n) s = .next t ∧ t.lat.devRun = min 3 (s.lat.devRun + 1))
      ∧ (∀ n, 24987500 ≤ n → n ≤ 25012500 → ∃ t, exec (.crystalCheck n) s = .next t ∧ t.lat.devOk = min 3 (s.lat.devOk + 1))
      ∧ (∀ bs, ∃ t, exec (.sampleFrame bs) s = .next t ∧ ∀ (b : Bough) (n : Fin 24), chFails s.mtr[b] n.val = true →
        t.mtr[b].ch[n].value = 0)
      ∧ (∃ t, exec .pllLockLoss s = .next t ∧ t.lat.pllLost = true))
    ∧ (s.lat.pllLost = true → ∃ t, exec .pllRecovery s = .next t ∧ t.lat.pllLost = false)
    ∧ (∀ (i : Fin 23) offers errs p f, s.trunk.seg[i].attempts.length < 3 → pickFlit (takeOffers i offers s) i = some p →
      pickedFlit (takeOffers i offers s) i p = some f → ∃ t, exec (.trunkFlit i offers errs) s = .next t ∧
        badLanes s.trunk.seg[i] errs = 0 → t.trunk.seg[i].attempts = [])
    ∧ (∀ i : Fin 23, s.trunk.seg[i].attempts.length = 3 → ∃ t, exec (.laneFailed i) s = .next t ∧
      t.trunk.seg[i].failed.getLsbD (failedLane s.trunk.seg[i]) = true)
    ∧ (∀ r, r.stop = 8 ∨ r.stop = 2 ∨ r.stop = 3 ∨ r.stop = 0 → handleOk s r = true → s.crypto.running = none → ∃ t, exec (.cryptoRequest r) s = .next t ∧ t.crypto.running = some r)
    ∧ (∀ r, s.crypto.running = some r → ∃ t, exec .cryptoOperationDone s = .next t ∧
      t.crypto.running = nextCrypto s.crypto.queue)
    ∧ (∀ m : Mail, s.safDev.coreDead.getLsbD m.core.val = false → ∃ t, exec (.heartwoodMailboxWrite m) s = .next t ∧
      m ∈ t.trunk.mailbox ++ t.trunk.mailWait)
    ∧ (∀ (b : Bough) (k : Fin 2) r, s.bilB[b].heldRes[k] = some r → ∃ t, exec (.energyResultAccept b k) s = .next t ∧
      t.bilB[b].accepted[k] = r ∧ t.bilB[b].heldRes[k] = none))
  ∧ (∀ s : State,
    (∀ (id : Fin 13) high, s.supply.tripped.getLsbD id.val = false → id.val = 5 ∨ 8 ≤ id.val → s.start.released = true →
      s.supply.resetHeld = false → ∃ t, exec (.supplyTrip id high) s = .next t ∧ t.supply.tripped.getLsbD id.val = true)
    ∧ (∀ id : Fin 13, ∃ t, exec (.supplyRecovery id) s = .next t ∧ t.supply.tripped.getLsbD id.val = false)
    ∧ (∀ v, ∃ t, exec (.backupSwitchover v) s = .next t ∧ t.bak.onVbak = v)
    ∧ (s.bak.onVbak = true → ∃ t, exec .backupDomainLoss s = .next t ∧ t.bak.caltime = 0xFFFFFFFF)
    ∧ (∀ l m p, ∃ t, exec (.dieTempUpdate l m p) s = .next t ∧ t.supply.tLogic = l ∧ t.supply.tMixed = m ∧ t.supply.tPower = p)
    ∧ (∀ x, s.supply.shutdown = false → ∃ t, exec (.powerDieThermalShutdown x) s = .next t ∧ t.supply.shutdown = true)
    ∧ (s.supply.shutdown = true → ∃ t, exec .powerDieThermalRecovery s = .next t ∧ t.supply.shutdown = false)
    ∧ (∀ ns, 1000 ≤ ns → ∃ t, exec (.resetnLow ns) s = .next t ∧ t.start = {} ∧ t.nv = s.nv)
    ∧ (∀ mv, s.start.released = false → resetFree s = true → s.nv.flash.present = true →
      ∃ t, exec (.resetRelease mv true) s = .next t ∧ t.start.phase = 1)
    ∧ (∀ n, atPhase s 1 = true → s.start.stopNext = none → s.lifecycle ≠ lcScrapped →
      ∃ t, exec (.phaseP1 true (some n)) s = .next t ∧ t.start.phase = 2)
    ∧ (∀ p, atPhase s 2 = true → s.start.stopNext = none → beyondRepair p = false →
      ∃ t, exec (.phaseP2 p) s = .next t ∧ t.start.phase = 3)
    ∧ (atPhase s 3 = true → loadFailed s = false → imgCheck s (acceptedFormats s) (areaOf s 0 (dirNow s).ronif) = none →
      ∃ t, exec .phaseP3 s = .next t ∧ t.start.phase = 4)
    ∧ (atPhase s 4 = true → loadFailed s = false → (pickBank s 1).isSome = true → ∃ t, exec .phaseP4 s = .next t ∧ t.start.phase = 5)
    ∧ (atPhase s 5 = true → loadFailed s = false → (pickBank s 2).isSome = true → ∃ t, exec .phaseP5 s = .next t ∧ t.start.phase = 6)
    ∧ (∀ c, atPhase s 6 = true → s.start.waitSupply = false → loadFailed s = false → startSupplies s = true →
      deviceStep c = none → (rebuildLedger (selfCheck c s)).isSome = true → ∃ t, exec (.phaseP6 c) s = .next t ∧ t.start.phase = 7)
    ∧ (s.start.phase = 6 → s.start.waitSupply = true → startSupplies s = true → s.supply.tripped &&& s.start.waitFor = 0 →
      ∃ t, exec .waitSupplyEnd s = .next t ∧ t.start.waitSupply = false)
    ∧ (∀ ms, s.start.phase = 7 → s.start.done = 7 → ∃ t, exec (.phaseP7 ms) s = .next t ∧ t.ready = true)
    ∧ (s.bak.caltime.toNat < 0xFFFFFFFE → ∃ t, exec .calendarSecond s = .next t ∧ t.bak.caltime = s.bak.caltime + 1)
    ∧ (s.bak.caltime = 0xFFFFFFFE → ∃ t, exec .calendarRangeEnd s = .next t ∧ t.bak.caltime = 0xFFFFFFFF))
  ∧ (∀ s : State,
    (∀ req, s.open3 = true → ∃ t, exec (.commitAccept req) s = .next t ∧ t.host.pendingC = s.host.pendingC ||| req)
    ∧ (∀ sub : Fin 16, s.ready = true → (snapOf s sub.val).isSome = true → sub ≠ 7 → s.host.devLeft.getLsbD sub.val = true →
      deviceBoundary s sub.val = true → leftMask s sub.val = 0 → s.host.passed.getLsbD sub.val = true →
      ∃ t, exec (.commitApply sub) s = .next t ∧ t.host.doneC.getLsbD sub.val = true)
    ∧ (∀ (sub : Fin 16) (b : Bough), s.ready = true → (snapOf s sub.val).isSome = true → sub = 2 ∨ sub = 3 ∨ sub = 4 →
      leftMask s sub.val = BitVec.ofNat 8 (2 ^ b.val) → boughBoundary s sub.val b = true →
      s.host.devLeft.getLsbD sub.val = false → s.host.passed.getLsbD sub.val = true →
      ∃ t, exec (.commitBoughApply sub b) s = .next t ∧ t.host.doneC.getLsbD sub.val = true)
    ∧ (globalOpen s = true →
      (∀ v : BitVec 32, ∃ t, exec (.registerWrite 0x30 (leN 4 v.toNat)) s = .next t ∧ t.host.scratch = v)
      ∧ (∀ m, ∃ t, exec (.hstIrqClear m) s = .next t ∧ ∀ i : Fin 12, m.getLsbD i.val = true → latchedMask.getLsbD i.val = true →
        t.host.irq.getLsbD i.val = false)
      ∧ (∀ m, ∃ t, exec (.hstCommitDoneClear m) s = .next t ∧ t.host.doneC &&& m.setWidth 16 = 0)
      ∧ (s.host.bulkState = 3 → ∃ t, exec .bulkRelease s = .next t ∧ t.host.bulkState = 0))
    ∧ (∀ bs, s.open2 = true → 8 ≤ bs.length → 8 + msgLen bs ≤ bs.length → 8 + msgLen bs + cqUsed s ≤ 16384 →
      ∃ t, exec (.commandQueueWrite 0x1000 bs) s = .next t ∧ t.host.cq = s.host.cq ++ [bs.take (8 + msgLen bs)])
    ∧ (∀ m rest, s.open2 = true → s.host.eq = m :: rest → 8 + m.body.length ≤ 4096 →
      ∃ t, exec (.eventQueueRead 0x2000 (8 + m.body.length)) s = .next t ∧ t.host.eq = rest)
    ∧ (∀ m rest, s.host.cq = m :: rest → refusal s m = none → msgType m = 0x8002 →
      ∃ t, exec .commandDispatch s = .next t ∧ t.host.cq = rest)
    ∧ (∀ h : CmdHdr, ∃ t, exec (.hstRestart h [0x52, 0x53, 0x54, 0x52]) s = .next t ∧ t.start = {} ∧ t.nv = s.nv)
    ∧ (∀ h body, CanAnswer s → body.length ≤ 4088 → ∃ t, exec (.hstEcho h body) s = .next t ∧
      lastEvent t = some (0x0002, 255, h.tag, body))
    ∧ (∃ t, exec .hostBadOpcode s = .next t ∧ t.host.badOp = min 255 (s.host.badOp + 1))
    ∧ (∃ t, exec .hcsnCut s = .next t ∧ t.host.cut = min 255 (s.host.cut + 1))
    ∧ (∃ t, exec .hcsnFalling s = .next t ∧ t.host.csLow = true))
  ∧ (∀ (s : State) (b : Bough),
    (∀ mv, pilotLost s b = false → s.ports[b].out = .x1 ∨ s.ports[b].out = .x2 → inHold s.ports[b].state mv = true →
      s.ports[b].state ≠ .fault → s.ports[b].fresh = false →
      ∃ t, exec (.plateauValue b true mv) s = .next t ∧ t.ports[b].posMv = mv)
    ∧ (∀ mvs, s.ports[b].state = .fault → heldOut s b = false → forcedF s = false → bitOf (s.vehPortCfg b) 31 = true →
      pilotLost s b = false → threeAB mvs 0 = false → ∃ t, exec (.pilotFaultProbe b mvs) s = .next t ∧ t.ports[b].state = .fault)
    ∧ (fld (s.vehPpCfg b) 31 30 = 2 → ∃ t, exec (.proximityMean b) s = .next t ∧ t.ports[b].ppCode = 7)
    ∧ (∀ mac runId v, (∀ r, findReq s mac runId = some r → r.assigned = none) →
      ∃ t, exec (.cmSlacParmReq mac runId v) s = .next t ∧ (findReq t mac runId).isSome = true)
    ∧ (∀ mac runId r, findReq s mac runId = some r → r.assigned = some b →
      (∀ v, ∃ t, exec (.cmStartAttenCharInd mac runId v) s = .next t ∧ t.ports[b].slac = 3)
      ∧ (∀ v e g, s.ports[b].slac = 3 → r.heard < 10 → ∃ t, exec (.cmMnbcSoundInd mac runId v e g) s = .next t ∧
        ∃ q, findReq t mac runId = some q ∧ q.heard = r.heard + 1)
      ∧ (s.ports[b].slac = 3 → 5 ≤ r.sounds.length → soundsConfirm s r b = true → ∃ t, exec (.soundingEnd mac runId) s = .next t ∧
        t.links[b].reply = some (.attenCharInd (profileOf r)))
      ∧ (r.confirmed = true → s.crypto.drbgOk = true → ∃ t, exec (.cmSlacMatchReq mac runId) s = .next t ∧ t.ports[b].slac = 4))
    ∧ (∃ t, exec .decisionWindowEnd s = .next t ∧ ∀ r ∈ t.assoc.reqs, r.heardNow = false)
    ∧ (∀ n, answersMatching s b = true → bitOf s.vehSlacCfg 31 = true → ∃ t, exec (.cmValidateReq b n) s = .next t ∧
      t.links[b].validating = true)
    ∧ (s.links[b].validating = true → ∃ t, exec (.validateCountEnd b) s = .next t ∧ t.links[b].validating = false)
    ∧ (s.ports[b].winOpen = true → s.ports[b].slac ≠ 5 → ∃ t, exec (.slacWindowExpired b) s = .next t ∧ t.ports[b].winOpen = false)
    ∧ (s.ports[b].slac = 5 → ∃ t, exec (.staggerRelease b) s = .next t ∧ t.ports[b].slac = 1)
    ∧ (∀ xs blocks, ∃ t, exec (.modemFrameReceived b xs true blocks) s = .next t ∧
      t.links[b].ackFailed = (blocks.filter (fun x => !x.ok)).map (·.seq))
    ∧ (∀ failed, ∃ t, exec (.selectiveAckReceived b failed) s = .next t ∧ t.links[b].transmitting = false)
    ∧ (∀ n built blocks m, n ≤ 128 → n ≤ built → pilotIn s b = true →
      ∃ t, exec (.modemFrameTransmit b.castSucc n built blocks m) s = .next t ∧ t.links[b].transmitting = true)
    ∧ (linked s b = true → s.ses[b].state ≠ .stopping →
      (∃ t, exec (.seccDiscoveryReq b true 15118) s = .next t ∧ t.links[b].reply = some .sdpResponse)
      ∧ (∀ conn list tls suites p, s.links[b].conn = none → p ∈ [Proto.iso20, Proto.iso2, Proto.din] →
        protoOk s b list tls suites p = true →
        ∃ t, exec (.supportedAppProtocol b conn list tls suites) s = .next t ∧ t.ports[b].proto ≠ 0)
      ∧ (s.ports[b].proto ≠ 0 → ∃ t, exec (.v2gRequest b .serviceDiscovery) s = .next t ∧ t.links[b].reply = some .ok)
      ∧ (∀ e n c d, 2 ≤ s.ports[b].proto → s.ses[b].state = .connected → e ≠ [] → ∃ t, exec (.paymentDetailsReq b e n c d) s = .next t ∧
        t.links[b].reply ≠ none)
      ∧ (isDC s b = true → s.ses[b].state = .authorised → ∃ t, exec (.cableCheckReq b) s = .next t ∧ t.ses[b].state = .energising)
      ∧ (2 ≤ s.ports[b].proto → ∃ t, exec (.certificateInstallationReq b) s = .next t ∧ t.links[b].reply ≠ none)
      ∧ (transferring s.ses[b].state = true → coilsClosed s b = true →
        (∃ t, exec (.powerDeliveryReq b .stop) s = .next t ∧ t.ses[b].state = .stopping)
        ∧ (∃ t, exec (.sessionStopReq b) s = .next t ∧ t.ses[b].state = .stopping)
        ∧ (∀ k, timerCounts s b k = true → ∃ t, exec (.v2gTimerExpired b k) s = .next t ∧ t.ses[b].state = .stopping))))
  ∧ (∀ (s : State) (b : Bough), coreAlive s b = true →
    (s.ses[b].state = .connected → bitOf (s.sesBoughCfg b) 31 = true → s.ses[b].held = [] →
      ∃ t, exec (.hostWaitExpired b) s = .next t ∧ t.ses[b].authBy = 3)
    ∧ (s.ses[b].state = .authorised → fld s.sesAuthCfg 15 8 ≠ 0 → ∃ t, exec (.authHoldExpired b) s = .next t ∧
      t.ses[b].state = .finished)
    ∧ (s.sesL[b].ceilTimed = true → ∃ t, exec (.hostCeilingExpired b) s = .next t ∧ t.sesL[b].hostCeil = none)
    ∧ (s.ses[b].state = .charging → s.ses[b].ceilW < s.sesL[b].vehMin → ∃ t, exec (.ceilingBelowMinimum b) s = .next t ∧
      t.ses[b].state = .suspended)
    ∧ (s.ses[b].state = .stopping → s.sesL[b].stopIssued = true → coilsClosed s b = true →
      ∃ t, exec (.stopWaitEnd b) s = .next t ∧ t.saf[b].openReq = true)
    ∧ (sendsRequests s.ses[b].state = true → ∃ t, exec (.powerRequest b) s = .next t ∧
      t.sesL[b].reqCount = (s.sesL[b].reqCount + 1) % 65536)
    ∧ (transferring s.ses[b].state = true → coilsClosed s b = true →
      (∀ g, s.bilB[b].sesOpen = false → s.ses[b].grant = some g → s.ses[b].newGrant = none → s.ses[b].cutTo = none →
        g.amount ≠ 0 → g.amount ≤ s.ses[b].cost → ∃ t, exec (.creditCheck b) s = .next t ∧ t.ses[b].stopReason = 0x06)
      ∧ (∀ g, s.ses[b].grant = some g → g.expiry ≠ 0 → ∃ t, exec (.grantExpired b) s = .next t ∧ t.ses[b].stopReason = 0x07)
      ∧ (s.sesL[b].lowered = true → 11 * offeredMa s b + 10000 < 10 * blockMa s b →
        ∃ t, exec (.currentAllowanceExpired b) s = .next t ∧ t.ses[b].stopReason = 0x0B))
    ∧ (∀ h : CmdHdr, h.bough = b.val →
      (∀ remote expiry, s.ses[b].state = .authorising → s.ses[b].waitTag = some h.tag →
        ∃ t, exec (.sesAuthAccept h remote 0 expiry []) s = .next t ∧ t.ses[b].authBy = 1)
      ∧ (∀ ident, ident.length ≤ 32 → s.ses[b].state = .authorised → namesAuthorised s.ses[b] ident h.tag = true →
        ∃ t, exec (.sesAuthRefuse h ident) s = .next t ∧ t.ses[b].state = .finished)
      ∧ (∀ x, x ≠ [] → x.length ≤ 32 → s.ses[b].state = .authorising → ∃ t, exec (.sesIdent h x) s = .next t ∧
        { kind := 2, bytes := x, tag := some h.tag } ∈ t.ses[b].held)
      ∧ (s.ses[b].state = .authorised → ∃ t, exec (.sesStop h) s = .next t ∧ t.ses[b].state = .finished)
      ∧ (∀ amount expiry, authorised s.ses[b].state = true → ∃ t, exec (.sesGrant h amount expiry) s = .next t ∧
        t.ses[b].newGrant = some { amount := amount, expiry := expiry })
      ∧ (∀ w v, w ≤ 0x7FFFFFFF → ∃ t, exec (.sesCeiling h w v) s = .next t ∧ t.sesL[b].hostCeil = some w)))
  ∧ (∀ (s u : State) (h : CmdHdr) (d : List Byte), d.length = 8 → MemOk s →
    (∀ i, lookup d s = (some i, u) →
      (∀ x, x < 0 → ∃ t, exec (.sesCreditAdd h d x) s = .next t ∧
        recBalance (slotRecord t i) = clampBalance (recBalance (slotRecord u i) + x))
      ∧ (∀ x, ∃ t, exec (.sesCreditSet h d x) s = .next t ∧ recBalance (slotRecord t i) = clampBalance x)
      ∧ (holderOf u i = none → ∃ t, exec (.sesCreditDelete h d) s = .next t ∧ recValid (slotRecord t i) = false)
      ∧ (∀ f, ∃ t, exec (.sesCreditSetFlags h d f) s = .next t ∧ byteAt (slotRecord t i) 13 = f ||| 1))
    ∧ (∀ i v f x, lookup d s = (none, u) → freeFrom d 64 0 u = (some i, v) →
      ∃ t, exec (.sesCreditCreate h d f x) s = .next t ∧ slotRecord t i = mkRecord d (clampBalance x) (f ||| 1) 0)
    ∧ (∀ n, 1 ≤ n → n ≤ 16384 → ∃ t, exec (.sesLedgerLoadMerge h n) s = .next t ∧ t.host.irq.getLsbD 10 = true)
    ∧ (∀ n, 1 ≤ n → n ≤ 16384 → (∀ b : Bough, s.ses[b].slot = none) → ∃ t, exec (.sesLedgerLoadReplace h n) s = .next t ∧
      t.nv.flash.active = 1 - s.nv.flash.active))
  ∧ (∀ (s : State) (b : Bough),
    (s.saf[b].closeReq = true → s.saf[b].closing = .none → mayClose s b = true →
      (isDC s b = false → ∃ t, exec (.closingSequence b .begin) s = .next t ∧ t.saf[b].closing = .acFirst)
      ∧ (isDC s b = true → ∃ t, exec (.dcClosingSequence b .begin) s = .next t ∧ t.saf[b].closing = .dcFirst))
    ∧ (s.saf[b].closing = .acConfirm → contactsClosed s b = true → s.ses[b].state = .energising → coreAlive s b = true →
      isDC s b = false → ∃ t, exec (.contactConfirmed b) s = .next t ∧ t.ses[b].state = .charging)
    ∧ (s.saf[b].closing = .acConfirm → ∃ t, exec (.closingConfirmTimeout b) s = .next t ∧ 15 ∈ t.saf[b].latched)
    ∧ (s.saf[b].closing = .dcPrecharge → s.ses[b].state = .energising → coreAlive s b = true →
      1000 * (s.saf[b].side.ch8 - 1000 * s.sesL[b].targetV).natAbs
        ≤ fld (s.safSenseCfg b) 15 8 * (1000 * s.sesL[b].targetV).natAbs →
      ∃ t, exec (.prechargeComplete b) s = .next t ∧ t.ses[b].state = .charging)
    ∧ (s.saf[b].openReq = true → s.saf[b].closing = .none → ∃ t, exec (.ordinaryOpening b) s = .next t ∧ t.saf[b].opening = true)
    ∧ (s.saf[b].opening = true → ∃ t, exec (.secondRelease b) s = .next t ∧ t.saf[b].opening = false)
    ∧ (∀ k : Fin 3,
      (s.saf[b].coils[k].weldWait = true → s.saf[b].closing = .none → senseReads s b k = some false →
        ∃ t, exec (.weldCheck b k) s = .next t ∧ t.saf[b].coils[k].weldWait = false)
      ∧ (s.saf[b].coils[k].undet = true → senseReads s b k = some false → ∃ t, exec (.weldRecheck b k) s = .next t ∧
        t.saf[b].coils[k].undet = false)
      ∧ (∃ t, exec (.coilCurrentLimit b k) s = .next t ∧ 19 ∈ t.saf[b].latched)
      ∧ (s.saf[b].coils[k].driven = true →
        (∃ t, exec (.coilOpenDetect b k) s = .next t ∧ 19 ∈ t.saf[b].latched)
        ∧ (∃ t, exec (.coilSupplyLow b) s = .next t ∧ t.saf[b].coils[k].driven = false)))
    ∧ (∀ v, chFails s.mtr[b] 21 = true → ∃ t, exec (.sidePathSample b v) s = .next t ∧ t.saf[b].side.ch21 = 0)
    ∧ (bitOf (s.safBoughCfg b) 28 = true → dcReaches s b 2441 6000 ≠ none →
      ∃ t, exec (.dcResidualPersistence b .ms100) s = .next t ∧ 5 ∈ t.saf[b].latched)
    ∧ (bitOf (s.safBoughCfg b) 27 = true → ∃ t, exec (.bridgeStateEnd b) s = .next t ∧ t.meas[b].bridgeOn = !s.meas[b].bridgeOn)
    ∧ (∀ h : CmdHdr, h.bough = b.val →
      (∀ m c, coilsClosed s b = false → s.saf[b].latched = [c] → clearSelects m c = true → mayClear s b c = true →
        ∃ t, exec (.safClear h m) s = .next t ∧ t.saf[b].latched = [])
      ∧ (∃ t, exec (.safHoldSet h) s = .next t ∧ t.saf[b].holdCmd = true)
      ∧ (∃ t, exec (.safHoldRelease h) s = .next t ∧ t.saf[b].holdCmd = false)))
  ∧ (∀ s : State,
    (∀ i : Fin 48, i.val ∉ s.safDev.skipped → ∃ t, exec (.switchTestSlot i .pass) s = .next t ∧ t.safDev.slot = i.val)
    ∧ (∀ i : Fin 48, s.saf[switchBough i].coils[switchCoil i].driven = false →
      ∃ t, exec (.stuckOnCheck 0) s = .next t ∧ stuckRun t i = 0)
    ∧ (∀ a b, s.safDev.stop = false → a ≤ 7000 ∨ b ≤ 7000 → ∃ t, exec (.emergencyStop a b) s = .next t ∧ t.safDev.stop = true)
    ∧ (s.safDev.stop = true → s.safDev.disc = false → ∃ t, exec .emergencyStopRelease s = .next t ∧ t.safDev.stop = false)
    ∧ (s.safDev.estopA ≠ s.safDev.estopB → s.safDev.disc = false → ∃ t, exec .estopDiscrepancy s = .next t ∧ t.safDev.disc = true)
    ∧ (s.lat.pllLost = false → s.supply.resetHeld = false → ∃ t, exec (.heartbeatSend false) s = .next t ∧
      t.safDev.hbCount = (s.safDev.hbCount + 1) % 16)
    ∧ (∀ n : BitVec 4, n.toNat = s.safDev.hbExpect → s.safDev.firstBeat = true → s.safDev.linkValid < 9 → s.safDev.hbValid < 9 →
      ∃ t, exec (.heartbeatFrame true n true) s = .next t ∧ t.safDev.hbValid = s.safDev.hbValid + 1)
    ∧ (s.safDev.hbMissed < 2 → ∃ t, exec .heartbeatPeriodMissed s = .next t ∧ t.safDev.hbMissed = s.safDev.hbMissed + 1)
    ∧ (∀ c : Fin 2, s.safDev.coreDead.getLsbD c.val = false →
      (∃ t, exec (.coreService c) s = .next t ∧ t.safDev.serviced.getLsbD c.val = true)
      ∧ (s.safDev.serviced.getLsbD c.val = false → ∃ t, exec (.logicWatchdogExpired c) s = .next t ∧
        t.safDev.wdog.getLsbD c.val = true)))

/-- Each of the commands of sampling, the energy engine, the heartwood, the load channels, the display, the canopy link, the
service tag, the keys, the memories, the recorder and the update COMPLETES: in every state and for all operands that
meet the conditions under which the spec lets it run, there is a next state, with the command's own effect. Shown to
complete: patrolVisitEnd, modulatorStuck, reserveChainsFilled, hotSwapFitStart, hotSwapFitEnd, swapReturnCompareEnd,
mtrCalEnd, mtrCal, mtrSwapHot, mtrSwapReturn, mtrSwapReadmit, mtrSwapAbort, nrgRead, bilReadNow, cycleEnd,
noCrossingTimeout, noGridCycle, meteringGapOpen, nrgReadReply, gateSilence, saveTick, heartwoodConversion,
rateEvaluation, billingBoundary, readingRelease, checkValueRecompute, bilTimeSet, bilReadAck, bilInfo, bilReadGet,
auxSet, auxClear, inrushWindowEnd, channelLimitReached, channelOvercurrent, retryCountReset, lampCompensation,
channelThermalFault, hotClear, retryRestart, groupSupplyReturn, isenseScanStep, displayUpdate, vlcdAdjust,
displayRestart, vlcdOutOfRange, displayFrameStart, updateTimeout, dispbtnPress, dispbtnHold, pageIdleReturn,
lowPowerEntry, turnStart, czcEdge, czcEdgeAbsent, beaconListenEnd, beaconMissed, loadAllocation, ceilingValidityExpired,
tripFollowExpired, messageCounterRollover, toneMapExpired, memberTimeout, cnpSend, beaconReceived, joinRequest,
canopyDataFrame, canopyAck, toneMapFrame, statusFrame, ceilingFrame, tripFrame, fieldArrived, fieldLeft, tagPowerUp,
reqb, wupb, slotMarker, attrib, hltb, tagRead, tagWrite, tagInfo, tagArbiterGrant, tagFlush, meterSnapshot,
keyChallenge, keyLifecycle, lifecycleApply, keyInstall, keyInfo, tamperSample, loopRearm, oscillatorDetector,
drbgHealthFail, drbgRetest, drbgReseed, maskRenewal, scrubRow, heartwoodScrubRow, lbistSlice, marchSlice, fieldMapWrite,
memMapGet, memInjectMode0, memInjectMode1, recordWrite, budgetWindowEnd, histogramSample, histogramSnapshot,
tagHistogramSummary, fatalRestart, dumpSlotErased, logRead, logDumpRead, logHistGet, logClear, logDumpAck, updBegin,
updChunk, updEnd, updSchedule, activationCondition, drainEnd, drainTimeout, updConfirm, updAbort, confirmationWindowEnd. -/
def Obligations.SamplingToUpdateCommandsComplete : Prop :=
  (∀ (s : State) (b : Bough),
    (∀ n : Fin 24, s.mtr[b].rsvState = 0 → s.mtr[b].rsvIn = n.val → s.mtr[b].patrolAt = n.val →
      weakSum s.mtr[b].visA = false → s.mtr[b].ch[n].failed = false → s.mtr[b].served ≠ n.val →
      n.val < nextVisit s.mtr[b] n.val → s.mtr[b].ch[n].k0 = none → ∃ t, exec (.patrolVisitEnd b) s = .next t ∧
        t.mtr[b].ch[n].k0 = some (visitK s.mtr[b]))
    ∧ (∀ n : Fin 24, s.mtr[b].ch[n].failed = false → s.mtr[b].served ≠ n.val → ∃ t, exec (.modulatorStuck b n.castSucc) s = .next t ∧
        t.mtr[b].ch[n].failed = true)
    ∧ (∀ n, s.mtr[b].coldCh = some n → ∃ t, exec (.reserveChainsFilled b) s = .next t ∧ t.mtr[b].served = n)
    ∧ (s.mtr[b].rsvState = 1 → s.mtr[b].fitOn = false → ∃ t, exec (.hotSwapFitStart b) s = .next t ∧ t.mtr[b].fitOn = true)
    ∧ (∀ r, s.mtr[b].rsvState = 1 → s.mtr[b].fitOn = true → calBlocks s ≤ s.mtr[b].fitBlocks →
      fitOk s b s.mtr[b].rsvIn r = true → ∃ t, exec (.hotSwapFitEnd b r) s = .next t ∧ t.mtr[b].served = s.mtr[b].rsvIn)
    ∧ (∀ ppm, s.mtr[b].returning = true → calBlocks s ≤ s.mtr[b].fitBlocks → ppm ≤ fld (s.mtrRsvCfg b) 15 0 →
      ∃ t, exec (.swapReturnCompareEnd b ppm) s = .next t ∧ t.mtr[b].served = 31)
    ∧ (∀ c, s.mtr[b].cal = some c → c.n ≤ c.counted → ∃ t, exec (.mtrCalEnd b) s = .next t ∧ t.mtr[b].cal = none)
    ∧ (∀ h : CmdHdr, h.bough = b.val →
      (∀ mask n ref raw, 1 ≤ n → n ≤ 250 → ref < 24 ∨ ref = 255 → s.mtr[b].cal = none →
        ∃ t, exec (.mtrCal h mask n ref raw) s = .next t ∧ t.mtr[b].cal.isSome = true)
      ∧ (∀ ch, ch < 24 → swapRuns s b = false →
        (s.mtr[b].rsvState = 0 ∨ s.mtr[b].rsvState = 2 → chFails s.mtr[b] ch = false → ∃ t, exec (.mtrSwapHot h ch) s = .next t ∧
          t.mtr[b].rsvState = 1 ∧ t.mtr[b].rsvIn = ch)
        ∧ (∀ c, s.mtr[b].ch[ch]? = some c → s.mtr[b].rsvState = 3 → s.mtr[b].served = ch → c.failed = false →
          c.lost = false → c.readmit = false → ∃ t, exec (.mtrSwapReturn h ch) s = .next t ∧ t.mtr[b].returning = true)
        ∧ (∃ t, exec (.mtrSwapReadmit h ch) s = .next t ∧ ∃ d, t.mtr[b].ch[ch]? = some d ∧ d.failed = false))
      ∧ (∀ ch, ch < 24 → s.mtr[b].rsvState = 1 → ∃ t, exec (.mtrSwapAbort h ch) s = .next t ∧ t.mtr[b].fitOn = false)
      ∧ (∃ t, exec (.nrgRead h) s = .next t ∧ t.nrg[b].pendRead = s.nrg[b].pendRead ++ [h.tag])
      ∧ (s.bil.stopped = false → s.bilB[b].readNow = false → ∃ t, exec (.bilReadNow h) s = .next t ∧ t.bilB[b].readNow = true))
    ∧ (∀ x y : Int, s.nrg[b].isDC = false → x < 0 → 0 ≤ y → ∃ t, exec (.cycleEnd b x y) s = .next t ∧ t.nrg[b].crossN = 0)
    ∧ (s.nrg[b].noGrid = false → ∃ t, exec (.noCrossingTimeout b) s = .next t ∧ t.nrg[b].noGrid = true)
    ∧ (s.nrg[b].noGrid = true → s.nrg[b].isDC = isDC s b → ∃ t, exec (.noGridCycle b) s = .next t ∧
      t.avg[b].sP = Vector.replicate 3 0)
    ∧ (∀ x : Fin 3, 2441 < s.nrg[b].sub[x] → s.nrg[b].gapPh[x] = false → ∃ t, exec (.meteringGapOpen b x) s = .next t ∧
      t.nrg[b].gapPh[x] = true)
    ∧ (∀ g, s.nrg[b].pendRead = [g] → ∃ t, exec (.nrgReadReply b) s = .next t ∧ t.nrg[b].pendRead = [])
    ∧ (6 ≤ s.start.done → s.bilB[b].gapOpen = false → ∃ t, exec (.gateSilence b) s = .next t ∧ t.bilB[b].gapOpen = true))
  ∧ (∀ s : State, 6 ≤ s.start.done → s.bil.stopped = false →
    (s.bil.savedTick ≠ some s.lat.ms → ∃ t, exec (.saveTick 0 false) s = .next t ∧ t.bil.saveNo = s.bil.saveNo + 1)
    ∧ (pricing s = false → ∃ t, exec .heartwoodConversion s = .next t ∧ ∀ b : Bough, t.bilB[b].last[(0 : Fin 6)] = engReg s b 0)
    ∧ (∃ t, exec .rateEvaluation s = .next t ∧ t.bil.rate = rateNow s)
    ∧ (atBoundary s = true → ∃ t, exec .billingBoundary s = .next t ∧ t.bil.hwm = s.now)
    ∧ (s.bil.covered = true → s.bil.queue.length + s.bil.waiting.length ≤ 1024 → ∃ t, exec .readingRelease s = .next t ∧
      t.bil.queue = s.bil.queue ++ s.bil.waiting)
    ∧ (sha256 (s.bil.code.take s.bil.codeLen) ≠ s.bil.check → ∃ t, exec .checkValueRecompute s = .next t ∧ t.bil.stopped = true))
  ∧ (∀ (s : State) (h : CmdHdr),
    (∀ utc : BitVec 32, fld s.bilCfg 27 26 = 0 → utc ≠ 0xFFFFFFFF → ∃ t, exec (.bilTimeSet h utc 0x7F) s = .next t ∧
      t.bak.caltime = utc)
    ∧ (∀ r, s.bil.queue = [r] → ∃ t, exec (.bilReadAck h r.no) s = .next t ∧ t.bil.queue = [])
    ∧ (CanAnswer s → ∃ t, exec (.bilInfo h) s = .next t ∧ ∃ d, lastEvent t = some (0x070B, 255, h.tag, d))
    ∧ (∀ first count, 1 ≤ count → count ≤ 1024 → loggedReadings s first count ≠ [] →
      ∃ t, exec (.bilReadGet h first count) s = .next t ∧ t.host.bulkState = 3))
  ∧ (∀ (s : State) (h : CmdHdr) (c : Fin 32),
    (∀ mask duty, duty ≤ 1000 → (∀ c : Fin 32, mask.getLsbD c.val = true → auxOwner s c = 0 ∧ s.aux[c].bridge = false) →
      mask.getLsbD c.val = true → ∃ t, exec (.auxSet h mask duty) s = .next t ∧ t.aux[c].waitDuty = some duty)
    ∧ (∀ mask, mask.getLsbD c.val = true → ∃ t, exec (.auxClear h mask) s = .next t ∧ t.aux[c].latched = false)
    ∧ (∃ t, exec (.inrushWindowEnd c) s = .next t ∧ t.aux[c].inrush = false)
    ∧ (s.aux[c].on = true →
      (∃ t, exec (.channelLimitReached c) s = .next t ∧ t.aux[c].atLimit = true)
      ∧ (s.aux[c].inrush = false → auxFailsafe s = false → ∃ t, exec (.channelOvercurrent c) s = .next t ∧ t.aux[c].on = false)
      ∧ (∃ t, exec (.retryCountReset c) s = .next t ∧ t.aux[c].retryCnt = 0)
      ∧ (∀ vs, 0 < auxDuty s c → bitOf (s.auxChCfg c.val) 26 = true → bitOf (s.auxChCfg c.val) 25 = false →
        auxFailsafe s = false → s.aux[c].bridge = false → ∃ t, exec (.lampCompensation c vs) s = .next t ∧
          t.aux[c].nextDuty = lampDuty (auxDuty s c) 1200 vs))
    ∧ (∀ x, ∃ t, exec (.channelThermalFault c x) s = .next t ∧ t.aux[c].hot = true)
    ∧ (∀ x, ∃ t, exec (.hotClear c x) s = .next t ∧ t.aux[c].hot = false)
    ∧ (s.aux[c].retryWait = true → s.aux[c].hot = false → auxFailsafe s = false → ∃ t, exec (.retryRestart c) s = .next t ∧
      t.aux[c].retryCnt = s.aux[c].retryCnt + 1)
    ∧ (∀ g : Fin 4, s.supply.inRange.getLsbD (9 + g.val) = true → c.val / 8 = g.val → ∃ t, exec (.groupSupplyReturn g) s = .next t ∧
      t.aux[c].uv = false)
    ∧ (fld s.auxDevCfg 31 30 = 1 → ∃ t, exec .isenseScanStep s = .next t ∧ t.auxDev.isel = some (fld s.auxDevCfg 28 24)))
  ∧ (∀ s : State,
    (heartwoodRuns s = true → s.lcd.glyph.isSome = true → s.lcd.stopCause ≠ 2 → ∃ t, exec .displayUpdate s = .next t ∧
      t.lcd.updated = true)
    ∧ (∃ t, exec .vlcdAdjust s = .next t ∧ t.lcd.target = vlcdTarget s)
    ∧ (s.lcd.faulted = true → heartwoodRuns s = true → s.lcd.state = .off → bitOf s.lcdCfg 31 = true →
      s.lcd.glyph.isSome = true → ∃ t, exec .displayRestart s = .next t ∧ t.lcd.state = .pump)
    ∧ (s.lcd.state = .showing →
      (∀ mv, vlcdInRange s mv = false → ∃ t, exec (.vlcdOutOfRange mv) s = .next t ∧ t.lcd.state = .off)
      ∧ (s.lcd.stopCause = 0 →
        (∃ t, exec .displayFrameStart s = .next t ∧ t.lcd.shown = s.lcd.latest)
        ∧ (∃ t, exec .updateTimeout s = .next t ∧ t.lcd.stopCause = 2)
        ∧ (∃ t, exec .dispbtnPress s = .next t ∧ t.lcd.page = nextPage s)
        ∧ (∃ t, exec .dispbtnHold s = .next t ∧ t.lcd.page = homePage s)
        ∧ (∃ t, exec .pageIdleReturn s = .next t ∧ t.lcd.page = homePage s)
        ∧ (bitOf s.lcdCfg 30 = true → anyEnergised s = false → ∃ t, exec .lowPowerEntry s = .next t ∧ t.lcd.state = .lowPower))))
  ∧ (∀ s : State,
    (s.canopy.role = 3 → s.canopy.turnKnown = true → s.canopy.tripDue = [] → s.canopy.ceilDue = [] →
      ∃ t, exec .turnStart s = .next t ∧ t.canopy.turn = s.canopy.turn + 1)
    ∧ (∀ p, bitOf s.cnpCfg 30 = true → s.canopy.czcEdge = false → ∃ t, exec (.czcEdge p) s = .next t ∧ t.canopy.czcEdge = true)
    ∧ (bitOf s.cnpCfg 30 = true → s.canopy.role = 3 → ∃ t, exec .czcEdgeAbsent s = .next t ∧ t.canopy.turnLen = 40000)
    ∧ (s.canopy.listening = true → cnpMayRun s = true → 0 < cnpRank s → ∃ t, exec .beaconListenEnd s = .next t ∧ t.canopy.role = 3)
    ∧ (s.canopy.role = 2 → s.canopy.tripDue = [] → s.canopy.ceilDue = [] → s.canopy.turnKnown = true → s.canopy.missed < 4 →
      ∃ t, exec .beaconMissed s = .next t ∧ t.canopy.missed = s.canopy.missed + 1)
    ∧ (mayAllocate s = true → ∃ t, exec .loadAllocation s = .next t ∧ t.canopy.lmCount = 0)
    ∧ (s.canopy.ceilTurns = 0 → ∃ t, exec .ceilingValidityExpired s = .next t ∧ t.canopy.siteCeil = none)
    ∧ (∃ t, exec .tripFollowExpired s = .next t ∧ t.canopy.tripZero = false)
    ∧ (0xFFFFFF ≤ s.canopy.msgCount → ∃ t, exec .messageCounterRollover s = .next t ∧ t.canopy.msgCount = 0)
    ∧ (∀ st, ∃ t, exec (.toneMapExpired st) s = .next t ∧ (peerOf t st).tmap = 0)
    ∧ (∀ st, s.canopy.role = 3 → st ≠ ownStation s → ∃ t, exec (.memberTimeout st) s = .next t ∧
      ∀ e ∈ t.canopy.members, ¬(e.station = st ∧ 25 ≤ e.silent))
    ∧ (∀ h dst cls data, dst ≤ 63 → cls ≤ 1 → data ≠ [] → data.length ≤ 1500 → joinedSite s = true →
      ∃ t, exec (.cnpSend h dst cls data) s = .next t ∧ ∃ m, t.canopy.tx = s.canopy.tx ++ [m] ∧ m.dst = dst)
    ∧ (∀ (f : CnpRx) (body : List Byte),
      (Delivers 0 f body s → s.canopy.role = 2 → (beaconOf body).timeKnown = false →
        (beaconOf body).memberMap.getLsbD (ownStation s) = true →
        ∃ t, exec (.beaconReceived f) s = .next t ∧ t.canopy.coord = fcSrc f ∧ t.canopy.missed = 0)
      ∧ (Delivers 6 f body s → s.canopy.role = 3 → fcSrc f ≤ 63 → (∀ e ∈ s.canopy.members, e.station ≠ fcSrc f) →
        ∃ t, exec (.joinRequest f) s = .next t ∧ t.canopy.memberMap.getLsbD (fcSrc f) = true)
      ∧ (Delivers 1 f body s → joinedSite s = true → ∃ t, exec (.canopyDataFrame f) s = .next t ∧ heldBlocks t (fcSrc f) 1 = [])
      ∧ (∀ m mask, hears s 2 f = true → frameReason s f = none → txTo s (fcSrc f) = some m → failedOf m mask = [] →
        ∃ t, exec (.canopyAck f mask) s = .next t ∧ t.canopy.tx = replaceTx m.dst none s.canopy.tx)
      ∧ (∀ num bits, Delivers 7 f body s → ∃ t, exec (.toneMapFrame f num bits) s = .next t ∧ (peerOf t (fcSrc f)).tmap = num)
      ∧ (Delivers 3 f body s → s.canopy.role = 3 → ∃ t, exec (.statusFrame f) s = .next t ∧
        ∀ e ∈ t.canopy.members, e.station = fcSrc f → e.silent = 0)
      ∧ (joinedSite s = true → Delivers 4 f body s → ∃ t, exec (.ceilingFrame f) s = .next t ∧ t.canopy.ceilTurns = leAt body 4 2)
      ∧ (Delivers 5 f body s → ∃ t, exec (.tripFrame f) s = .next t ∧ t.canopy.heardTrip = true)))
  ∧ (∀ (s : State) (h : CmdHdr),
    (∀ l, s.tag.field = false → 15 ≤ l → ∃ t, exec (.fieldArrived l) s = .next t ∧ t.tag.field = true)
    ∧ (s.tag.field = true → ∃ t, exec .fieldLeft s = .next t ∧ t.tag.field = false)
    ∧ (s.tag.field = true → ∃ t, exec .tagPowerUp s = .next t ∧ t.tag.powered = true)
    ∧ (tagAnswers s = true → s.tag.selected = none → s.tag.halted = false →
      (∃ t, exec (.reqb 0 1) s = .next t ∧ t.tag.reply = some (atqb s))
      ∧ (∃ t, exec (.wupb 0 1) s = .next t ∧ t.tag.reply = some (atqb s))
      ∧ (∀ n, s.tag.drawn = some n → ∃ t, exec (.slotMarker n) s = .next t ∧ t.tag.reply = some (atqb s))
      ∧ (∀ cid, cid ≤ 14 → ∃ t, exec (.attrib (bytesAt (tagPage s 0) 16 4) cid) s = .next t ∧ t.tag.selected = some cid)
      ∧ (∃ t, exec .hltb s = .next t ∧ t.tag.halted = true))
    ∧ (tagAnswers s = true → s.tag.selected.isSome = true →
      (∀ first count, 1 ≤ count → count ≤ 4 → first + count ≤ 256 →
        (∀ i < count, pageRefused (first + i) = false ∧ pageHasCrc (first + i) = false) →
        ∃ t, exec (.tagRead first count) s = .next t ∧ t.tag.lastStatus = 0)
      ∧ (∀ page off data, off + data.length ≤ 64 → data ≠ [] → 64 ≤ page → page ≤ 71 → pageWriteEn s = true →
        25 ≤ s.tag.level → ∃ t, exec (.tagWrite page off data .done) s = .next t ∧ t.tag.lastStatus = 0)
      ∧ (∃ t, exec .tagInfo s = .next t ∧ t.tag.reply.isSome = true))
    ∧ (s.tag.owner = 0 → ∃ t, exec (.tagArbiterGrant true true) s = .next t ∧ t.tag.owner = (if s.tag.lastOwner = 1 then 2 else 1))
    ∧ (∀ a, s.tag.marked = [a] → a < 64 * 240 → ∃ t, exec (.tagFlush h .done) s = .next t ∧ t.tag.marked = [])
    ∧ (bitOf s.tagCfg 27 = true → heartwoodRuns s = true → ∃ t, exec .meterSnapshot s = .next t ∧
      t.tag.snapNo = (s.tag.snapNo + 1) % 2 ^ 32))
  ∧ (∀ (s : State) (h : CmdHdr),
    (s.crypto.drbgOk = true → ∃ t, exec (.keyChallenge h) s = .next t ∧ t.key.nonce.isSome = true)
    ∧ (∀ target nonce tag, lifeResult s target nonce tag = 0 → ∃ t, exec (.keyLifecycle h target nonce tag) s = .next t ∧
      t.key.target = some target)
    ∧ (∀ l, s.key.target = some l → l < 3 → s.upd.stage = none → s.upd.staged = 0 → s.upd.state ≠ 4 →
      ∃ t, exec .lifecycleApply s = .next t ∧ t.nv.life = l)
    ∧ (∀ (slot : Fin 4) nonce enc tag, slotInstallable s slot.val = true → s.rootOf slot.val = none →
      (unwrapRoot s slot.val nonce enc tag).isSome = true →
      ∃ t, exec (.keyInstall h slot.val nonce enc tag) s = .next t ∧ t.bak.roots[slot].isSome = true)
    ∧ (CanAnswer s → ∃ t, exec (.keyInfo h) s = .next t ∧ ∃ d, lastEvent t = some (0x0C09, 255, h.tag, d))
    ∧ (s.bak.tamperCfg.getLsbD 0 = true → ∀ l, ∃ t, exec (.tamperSample false .intact l) s = .next t ∧ t.bak.loopA = 0)
    ∧ (s.bak.loopA = 0 → ∃ t, exec (.loopRearm false) s = .next t ∧ t.bak.armedA = true)
    ∧ (∃ t, exec .oscillatorDetector s = .next t ∧ t.bak.oscOk = false)
    ∧ (∀ n, ∃ t, exec (.drbgHealthFail n) s = .next t ∧ t.crypto.drbgOk = false)
    ∧ (s.crypto.drbgFail = true → ∃ t, exec (.drbgRetest true) s = .next t ∧ t.crypto.drbgOk = true)
    ∧ (s.crypto.drbgFail = false → ∃ t, exec .drbgReseed s = .next t ∧ t.crypto.drbgReseeds = s.crypto.drbgReseeds + 1)
    ∧ (∃ t, exec .maskRenewal s = .next t ∧ t.bak.renewals = s.bak.renewals + 1))
  ∧ (∀ (s : State) (h : CmdHdr),
    (bitOf s.memScrubCfg 31 = true → s.trunk.capNow ≠ 0 → s.mem.scrubRow < 98303 → ∃ t, exec .scrubRow s = .next t ∧
      t.mem.scrubRow = s.mem.scrubRow + 1)
    ∧ (bitOf s.memScrubCfg 31 = true → ∃ t, exec .heartwoodScrubRow s = .next t ∧ t.mem.hwScrubRow = (s.mem.hwScrubRow + 1) % 4096)
    ∧ (∀ p g sig, acceptsSlice p g s = true → s.mem.slices[p] + 1 < slicesOf p → ∃ t, exec (.lbistSlice p g sig) s = .next t ∧
      t.mem.slices[p] = s.mem.slices[p] + 1)
    ∧ (bitOf s.memTestCfg 30 = true → s.trunk.capNow ≠ 0 → s.mem.marchRow + 1 < allRows →
      badWords s (rowBase s.mem.marchRow) = [] → ∃ t, exec (.marchSlice []) s = .next t ∧ t.mem.marchRow = s.mem.marchRow + 1)
    ∧ (∀ e rest, s.ready = true → s.mem.softList = e :: rest → ∃ t, exec .fieldMapWrite s = .next t ∧ t.mem.softList = rest)
    ∧ (∃ t, exec (.memMapGet h) s = .next t ∧ t.host.bulkState = 3)
    ∧ (∀ m d, m ≤ 220 → weight (flipMask s) < 4 → classify (flipMask s) ≠ 3 → CanAnswer s →
      ∃ t, exec (.memInjectMode0 h m d) s = .next t ∧ lastEvent t = some (0x0D09, 255, h.tag,
        leN 1 0 ++ leN 1 (classify (flipMask s)) ++ leN 4 (classify (flipMask s)) ++ leN 8 d.toNat))
    ∧ (s.lifecycle ≠ lcDeployed → targetOk (injectTarget s) = true → ∃ t, exec (.memInjectMode1 h) s = .next t ∧ t.mem.armed = true))
  ∧ (∀ (s : State) (h : CmdHdr),
    (s.log.logOn = true →
      (∀ r rest, s.log.queue = r :: rest → s.log.lostDue = 0 → ∃ t, exec .recordWrite s = .next t ∧ t.log.queue = rest)
      ∧ (∃ t, exec .budgetWindowEnd s = .next t ∧ t.log.budgets = [])
      ∧ (∃ t, exec (.histogramSample 35) s = .next t ∧
        t.log.hists[(35 : Fin 40)].max = max s.log.hists[(35 : Fin 40)].max s.trunk.hstPace)
      ∧ (∃ t, exec .histogramSnapshot s = .next t ∧ t.log.snapNo = (s.log.snapNo + 1) % 2 ^ 32)
      ∧ (MemOk s → ∃ t, exec .tagHistogramSummary s = .next t ∧
        ∀ id : Fin 40, tagPage t (24 + id.val) = withCrc (padTo 60 (summaryPage id.val s.log.hists[id]))))
    ∧ (∀ c, s.log.fatalCause = some c → s.log.fatalHold = false → s.log.dumped = true → restartsAfterDump c = true →
      recentRestarts s < fld s.logCfg 15 12 → ∃ t, exec .fatalRestart s = .next t ∧ t.start = {})
    ∧ (∀ k : Fin 2, s.nv.flash.dumps[k].state = 3 → s.log.fatalCause = none → ∃ t, exec (.dumpSlotErased k) s = .next t ∧
      t.nv.flash.dumps[k] = {})
    ∧ (bulkHeld s = false →
      (∀ ring first limit p ps, ring ≤ 2 → 1 ≤ limit → limit ≤ 262144 → readable s ring first = p :: ps →
        recSize p.data.length ≤ limit → ∃ t, exec (.logRead h ring first limit) s = .next t ∧ t.host.bulkState = 3)
      ∧ (∀ k : Fin 2, s.nv.flash.dumps[k].state = 1 → s.nv.flash.dumps[k].bytes ≠ [] →
        ∃ t, exec (.logDumpRead h k.val 0) s = .next t ∧ t.host.bulkState = 3)
      ∧ (∃ t, exec (.logHistGet h) s = .next t ∧ t.host.bulkState = 3))
    ∧ (s.lifecycle ≠ lcDeployed → s.lifecycle ≠ lcScrapped → ∃ t, exec (.logClear h 1) s = .next t ∧
      ∀ e ∈ t.nv.flash.coded.recs, keptRec e.2.code = false → e.2.cleared = true)
    ∧ (s.log.fatalCause = none → s.nv.flash.dumps[(0 : Fin 2)].state ≠ 0 → ∃ t, exec (.logDumpAck h 1) s = .next t ∧
      t.nv.flash.dumps[(0 : Fin 2)].state = 3))
  ∧ (∀ (s : State) (h : CmdHdr),
    (updBusy s = false →
      (∀ hd, hd.length = 128 → s.upd.stage = none → s.upd.staged = 0 → (∀ e ∈ hdrSteps s hd, e.2 = true) →
        ∃ t, exec (.updBegin h hd) s = .next t ∧ t.upd.state = 1)
      ∧ (∀ g n v, bulkHeld s = false → s.upd.stage = some g → g.op = [] → g.ended = false →
        g.received + 8 < hdrImgLen g.header → 1 ≤ n → n < 2 ^ 24 → g.built.length + n ≤ hdrTargetLen g.header →
        bulkBytes s 0 8 = 3 :: leN 3 n ++ [v, 0, 0, 0] → ∃ t, exec (.updChunk h g.received 8) s = .next t ∧
          ∃ g', t.upd.stage = some g' ∧ g'.built = g.built ++ List.replicate n v)
      ∧ (∀ g, s.upd.stage = some g → targetGood s g = true → ∃ t, exec (.updEnd h) s = .next t ∧ t.upd.state = 2))
    ∧ (∀ m v, s.upd.staged ≠ 0 → s.upd.state ≠ 4 → m ≤ 2 → pairAccepted s = true → ∃ t, exec (.updSchedule h m v) s = .next t ∧
      t.upd.state = 3 ∧ t.upd.mode = m)
    ∧ (s.upd.state = 3 → conditionHolds s = true → ∃ t, exec .activationCondition s = .next t ∧ t.upd.state = 4)
    ∧ (s.upd.state = 4 → (∀ b : Bough, heldOut s b = true) → ∃ t, exec .drainEnd s = .next t ∧ t.start = {})
    ∧ (s.upd.state = 4 → s.log.fatalCause = none → ∃ t, exec .drainTimeout s = .next t ∧ t.upd.mode = 0)
    ∧ (windowOpen s = true →
      (∃ t, exec (.updConfirm h) s = .next t ∧ t.start.trial = false)
      ∧ (∃ t, exec (.updAbort h) s = .next t ∧ t.start = {})
      ∧ (bitOf s.updCfg 31 = true → ∃ t, exec .confirmationWindowEnd s = .next t ∧ t.start.trial = false)))
end

