-- ==== Sys2Proof/Laws/Bytes.lean ====
section
/-! SUPPORT. Byte strings: what is read at an offset, and a string that carries its CRC-32C. -/

namespace Sys2Proof.Machine

theorem bytesAt_eq_map (bs : List Byte) (i n : Nat) : bytesAt bs i n = (List.range n).map (fun k => byteAt bs (i + k)) := by
  induction n generalizing i with
  | zero => rfl
  | succ n ih =>
    rw [bytesAt, ih, List.range_succ_eq_map, List.map_cons, List.map_map]
    simp [Function.comp_def, Nat.add_comm, Nat.add_left_comm]

@[simp] theorem bytesAt_length (bs : List Byte) (i n : Nat) : (bytesAt bs i n).length = n := by simp [bytesAt_eq_map]

@[simp] theorem padTo_length (n : Nat) (bs : List Byte) : (padTo n bs).length = n := bytesAt_length bs 0 n

theorem byteAt_append_right (xs ys : List Byte) (i : Nat) : byteAt (xs ++ ys) (xs.length + i) = byteAt ys i := by
  simp [byteAt, List.getElem?_append_right]

theorem byteAt_append_left (xs ys : List Byte) (i : Nat) (h : i < xs.length) : byteAt (xs ++ ys) i = byteAt xs i := by
  simp [byteAt, List.getElem?_append_left h]

theorem byteAt_padTo (n i : Nat) (bs : List Byte) (h : i < n) : byteAt (padTo n bs) i = byteAt bs i := by
  simp [byteAt, padTo, bytesAt_eq_map, h]

/-- A string in the middle of another, read at its offset. -/
theorem bytesAt_middle (xs ys zs : List Byte) : bytesAt (xs ++ ys ++ zs) xs.length ys.length = ys := by
  apply List.ext_getElem (by simp)
  intro i h _
  have hi : i < ys.length := by simpa using h
  have e := byteAt_append_left (xs ++ ys) zs (xs.length + i) (by simp; omega)
  rw [byteAt_append_right] at e
  have g : (bytesAt (xs ++ ys ++ zs) xs.length ys.length)[i] = byteAt (xs ++ ys ++ zs) (xs.length + i) := by
    simp only [bytesAt_eq_map, List.getElem_map, List.getElem_range]
  rw [g, e]; simp [byteAt, hi]

/-! ## CRC-32C (R130) -/

theorem crcBit_lt (p c : Nat) (hp : p < 2 ^ 32) (hc : c < 2 ^ 32) : crcBit p c < 2 ^ 32 := by
  unfold crcBit; split
  · exact Nat.xor_lt_two_pow (by omega) hp
  · omega

theorem crcByte_lt (p c : Nat) (b : Byte) (hp : p < 2 ^ 32) (hc : c < 2 ^ 32) : crcByte p c b < 2 ^ 32 := by
  unfold crcByte
  have : c ^^^ b.toNat < 2 ^ 32 := Nat.xor_lt_two_pow hc (by have := b.isLt; omega)
  repeat (first | exact this | apply crcBit_lt _ _ hp)

theorem crc32c_lt (bs : List Byte) : crc32c bs < 2 ^ 32 := by
  have h : ∀ (l : List Byte) (c : Nat), c < 2 ^ 32 → l.foldl (crcByte 0x82F63B78) c < 2 ^ 32 := by
    intro l; induction l with
    | nil => intro c hc; exact hc
    | cons b l ih => intro c hc; exact ih _ (crcByte_lt _ _ b (by norm_num) hc)
  exact Nat.xor_lt_two_pow (h bs _ (by norm_num)) (by norm_num)

/-- A value of two bytes, read where it was written. -/
theorem leAt_two (xs ys : List Byte) (v : Nat) (h : v < 65536) : leAt (xs ++ leN 2 v ++ ys) xs.length 2 = v := by
  have hl : (leN 2 v).length = 2 := rfl
  have e := bytesAt_middle xs (leN 2 v) ys
  rw [hl] at e
  rw [leAt, e]
  simp [leN, ofLe]
  omega

/-- A string followed by its CRC holds it. -/
theorem crcHolds_withCrc (bs : List Byte) : crcHolds (withCrc bs) = true := by
  have hl : (withCrc bs).length = bs.length + 4 := by simp [withCrc, leN]
  have hc := crc32c_lt bs
  have e : leAt (withCrc bs) bs.length 4 = crc32c bs := by
    have m := bytesAt_middle bs (leN 4 (crc32c bs)) []
    rw [List.append_nil, show (leN 4 (crc32c bs)).length = 4 from rfl] at m
    rw [leAt, withCrc, m]
    simp [leN, ofLe]
    omega
  simp only [crcHolds, hl, Nat.add_sub_cancel, e]
  simp [withCrc]

end Sys2Proof.Machine
end

