-- ==== Sys2Proof/Laws/Canopy.lean ====
section
/-! SUPPORT. A canopy message of one block: what a receiver makes of it (R496, R513). -/

namespace Sys2Proof.Machine

/-- The one physical block of a message of at most 512 bytes (R496): its sequence 0, its length with the last-block bit,
its bytes, its CRC. -/
def oneBlock (msg : List Byte) : List Byte := withCrc (leN 2 0 ++ leN 2 (msg.length + 0x8000) ++ padTo 512 msg)

/-- A message of at most 512 bytes is cut into one block. -/
theorem cutBlocks_one (msg : List Byte) (h1 : 1 ≤ msg.length) (h2 : msg.length ≤ 512) :
    cutBlocks msg = [oneBlock msg] := by
  have hn : (msg.length + 511) / 512 = 1 := by omega
  simp [cutBlocks, oneBlock, hn, Nat.min_eq_right h2, List.take_of_length_le h2, b2n]

/-- That block passes its CRC and gives the message back, as the last block. -/
theorem blockOf_one (src typ : Nat) (msg : List Byte) (h1 : 1 ≤ msg.length) (h2 : msg.length ≤ 512) :
    blockOf src typ (oneBlock msg)
      = some { src := src, typ := typ, seq := 0, last := true, data := msg } := by
  generalize hb : oneBlock msg = bs
  have hlen : bs.length = 520 := by rw [← hb]; simp [oneBlock, withCrc, leN]
  have hcrc : crcHolds bs = true := by rw [← hb]; exact crcHolds_withCrc _
  have hv : leAt bs 2 2 = msg.length + 0x8000 := by
    have e := leAt_two (leN 2 0) (padTo 512 msg ++ leN 4 (crc32c (leN 2 0 ++ leN 2 (msg.length + 0x8000) ++ padTo 512 msg)))
      (msg.length + 0x8000) (by omega)
    rw [← hb, oneBlock, withCrc, List.append_assoc]
    exact e
  have hs : leAt bs 0 2 = 0 := by rw [← hb]; simp [oneBlock, withCrc, leN, leAt, bytesAt, byteAt, ofLe]
  have h3 : (byteAt bs 3).getLsbD 7 = true := by
    rw [← hb]
    have e : (msg.length + 0x8000) / 256 / 128 % 2 = 1 := by omega
    have g : byteAt (oneBlock msg) 3 = BitVec.ofNat 8 ((msg.length + 0x8000) / 256) := rfl
    rw [g, BitVec.getLsbD_ofNat, Nat.testBit_eq_decide_div_mod_eq, show 2 ^ 7 = 128 from rfl, e]
    rfl
  have hd : bytesAt bs 4 msg.length = msg := by
    apply List.ext_getElem (by simp)
    intro i h _
    have hi : i < msg.length := by simpa using h
    have e := byteAt_append_right (leN 2 0 ++ leN 2 (msg.length + 0x8000))
      (padTo 512 msg ++ leN 4 (crc32c (leN 2 0 ++ leN 2 (msg.length + 0x8000) ++ padTo 512 msg))) i
    rw [byteAt_append_left (padTo 512 msg) _ i (by rw [padTo_length]; omega), byteAt_padTo _ _ _ (by omega)] at e
    simp only [bytesAt_eq_map, List.getElem_map, List.getElem_range, ← hb, oneBlock, withCrc]
    rw [List.append_assoc (leN 2 0 ++ leN 2 (msg.length + 0x8000))]
    exact e.trans (by simp [byteAt, hi])
  have hm : leAt bs 2 2 % 1024 = msg.length := by rw [hv]; omega
  simp only [blockOf, hm, hlen, hcrc, hs, h3, hd]
  simp [h1, h2]

/-- A frame of that block, from a sender of whom nothing is held, completes the message. -/
theorem collect_one (f : CnpRx) (s : State) (msg : List Byte) (h1 : 1 ≤ msg.length) (h2 : msg.length ≤ 512)
    (hb : f.blocks = cutBlocks msg) (hh : heldBlocks s (fcSrc f) (fcType f) = []) :
    collect f s = (some msg,
      { s with canopy.rx := s.canopy.rx.filter (fun e => !(e.src == fcSrc f && e.typ == fcType f)) }) := by
  simp [collect, hb, cutBlocks_one msg h1 h2, blockOf_one _ _ msg h1 h2, hh, messageOf]

theorem gcmTag_length (key nonce aad ct : List Byte) : (gcmTag key nonce aad ct).length = 16 := by simp [gcmTag]

theorem gcmText_length_le (key nonce text : List Byte) : (gcmText key nonce text).length ≤ text.length := by
  simp only [gcmText, List.length_zipWith]; exact Nat.min_le_left _ _

/-- The state in which a frame's blocks are collected. -/
def atCollect (f : CnpRx) (s : State) : State := deriveMap f (acknowledge f (noteCrx s))

/-- The key that a label names, where index 0 holds a site key. -/
theorem cnpKey_zero (s : State) (f : CnpRx) (label : String) (k : List Byte) (hi : fcKey f = false) (hk : s.canopy.key0 = some k) :
    cnpKey s (fcKey f) label = some (hkdf k Config.canopySalt (ascii label ++ [0]) 16) := by simp [cnpKey, hi, hk]

/-- A beacon whose tag is the one the site key makes opens to its payload. -/
theorem openMsg_beacon (s : State) (f : CnpRx) (k body : List Byte) (ht : fcType f = 0)
    (hk : cnpKey s (fcKey f) "canopy-beacon" = some k) :
    openMsg s f (body ++ gcmTag k (cnpNonce (fcSrc f) f.counter) body []) = some body := by
  have n := gcmTag_length k (cnpNonce (fcSrc f) f.counter) body []
  simp [openMsg, ht, hk, List.length_append, n]

/-- A message whose tag is the one the site key makes opens to its text under the key stream. -/
theorem openMsg_data (s : State) (f : CnpRx) (k ct : List Byte) (ht : fcType f ≠ 0)
    (hk : cnpKey s (fcKey f) "canopy-data" = some k) :
    openMsg s f (ct ++ gcmTag k (cnpNonce (fcSrc f) f.counter) [] ct)
      = some (gcmText k (cnpNonce (fcSrc f) f.counter) ct) := by
  have n := gcmTag_length k (cnpNonce (fcSrc f) f.counter) [] ct
  simp [openMsg, ht, hk, List.length_append, n, gcmOpen]

/-- A beacon sealed under the site key of the frame's index is delivered. -/
theorem delivers_beacon (f : CnpRx) (s : State) (k body : List Byte) (hl : body.length ≤ 496)
    (hh : hears s 0 f = true) (hr : frameReason s f = none) (ht : fcType f = 0)
    (hx : heldBlocks (atCollect f s) (fcSrc f) (fcType f) = []) (ha : keyAccepted (atCollect f s) (fcKey f) = true)
    (hk : cnpKey (atCollect f s) (fcKey f) "canopy-beacon" = some k)
    (hb : f.blocks = cutBlocks (body ++ gcmTag k (cnpNonce (fcSrc f) f.counter) body [])) :
    Safety.Delivers 0 f body s := by
  have n := gcmTag_length k (cnpNonce (fcSrc f) f.counter) body []
  exact ⟨hh, hr, _, _, collect_one f _ _ (by rw [List.length_append, n]; omega) (by rw [List.length_append, n]; omega) hb hx,
    ha, openMsg_beacon _ f k body ht hk⟩

/-- A message sealed under the site key of the frame's index is delivered, and opens to its text under the key stream. -/
theorem delivers_data (typ : Nat) (f : CnpRx) (s : State) (k ct : List Byte) (hl : ct.length ≤ 496)
    (hh : hears s typ f = true) (hr : frameReason s f = none) (ht : fcType f ≠ 0)
    (hx : heldBlocks (atCollect f s) (fcSrc f) (fcType f) = []) (ha : keyAccepted (atCollect f s) (fcKey f) = true)
    (hk : cnpKey (atCollect f s) (fcKey f) "canopy-data" = some k)
    (hb : f.blocks = cutBlocks (ct ++ gcmTag k (cnpNonce (fcSrc f) f.counter) [] ct)) :
    Safety.Delivers typ f (gcmText k (cnpNonce (fcSrc f) f.counter) ct) s := by
  have n := gcmTag_length k (cnpNonce (fcSrc f) f.counter) [] ct
  exact ⟨hh, hr, _, _, collect_one f _ _ (by rw [List.length_append, n]; omega) (by rw [List.length_append, n]; omega) hb hx,
    ha, openMsg_data _ f k ct ht hk⟩

end Sys2Proof.Machine
end

