-- ==== Sys2Proof/Laws/Events.lean ====
section
/-! SUPPORT. What the shared operations of the recorder and of the event queue can do: recording an event changes the
recorder's part alone, placing it in the event queue the recorder's and the port's, and of the port's part nothing but
the queue, its counters and the interrupt sources. -/

set_option Elab.async false

namespace Sys2Proof.Machine

/-! ## The recorder -/

/-- Nothing but the recorder's part changes. -/
def LogKept (s t : State) : Prop := t = { s with log := t.log }

theorem LogKept.trans {s t u : State} (h : LogKept s t) (k : LogKept t u) : LogKept s u := by
  unfold LogKept at *
  rw [k, h]

theorem enqueueRec_kept (r : LogRec) (s : State) : LogKept s (enqueueRec r s) := by
  unfold enqueueRec
  dsimp only
  (repeat' split) <;> rfl

theorem holdRec_kept (r : LogRec) (s : State) : LogKept s (holdRec r s) := by
  unfold holdRec
  dsimp only
  split
  · split <;> rfl
  · split <;> rfl

theorem countOver_kept (e : Budget) (d : Bool) (x : BitVec 64) (s : State) : LogKept s (countOver e d x s) := rfl

theorem decideRec_kept (r : LogRec) (s : State) : LogKept s (decideRec r s) := by
  unfold decideRec
  dsimp only
  split
  · exact enqueueRec_kept r s
  · split
    · exact .trans (t := putBudget _ s) rfl (enqueueRec_kept _ _)
    · split
      · exact .trans (countOver_kept _ _ _ s) (enqueueRec_kept _ _)
      · exact countOver_kept _ _ _ s

/-- Recording an event changes nothing but the recorder's part. -/
theorem recordEvent_log (c b f : Nat) (d : List Byte) (s : State) : LogKept s (recordEvent c b f d s) := by
  unfold recordEvent
  split
  · rfl
  · split
    · exact decideRec_kept _ s
    · exact holdRec_kept _ s

/-! ## The event queue -/

/-- Of the port's part an event changes the queue, SEQ, the lost count, the note of a loss and the sources alone. -/
def PortKept (s t : State) : Prop :=
  t = { s with log := t.log, host := { s.host with
    eq := t.host.eq, eqSeq := t.host.eqSeq, eqLost := t.host.eqLost, lostNoted := t.host.lostNoted, irq := t.host.irq } }

theorem PortKept.refl (s : State) : PortKept s s := rfl

theorem PortKept.trans {s t u : State} (h : PortKept s t) (k : PortKept t u) : PortKept s u := by
  unfold PortKept at *
  rw [k, h]

theorem raiseIrq_kept (i : Nat) (s : State) : PortKept s (raiseIrq i s) := rfl

theorem recordEvent_kept (c b f : Nat) (d : List Byte) (s : State) : PortKept s (recordEvent c b f d s) := by
  unfold PortKept
  rw [recordEvent_log c b f d s]

theorem eqAdvance_kept (c : Nat) (s : State) : PortKept s (eqAdvance c s) := by
  unfold eqAdvance
  split <;> rfl

theorem PortKept.eqSet {s t : State} (h : PortKept s t) (q : List Msg) : PortKept s { t with host.eq := q } :=
  h.trans (show PortKept t _ from rfl)

theorem eqLose_kept (n : Nat) (s : State) : PortKept s (eqLose n s) := by
  have h : PortKept s { raiseIrq 8 { s with host.eqLost := min 255 (s.host.eqLost + 1) } with host.lostNoted := true } :=
    rfl
  unfold eqLose
  dsimp only
  split
  · rfl
  · split
    · exact .trans (.eqSet (h.trans (recordEvent_kept _ _ _ _ _)) _) (eqAdvance_kept _ _)
    · exact h.trans (recordEvent_kept _ _ _ _ _)

theorem placeEvent_kept (c b g : Nat) (a : Bool) (d : List Byte) (s : State) : PortKept s (placeEvent c b g a d s) := by
  unfold placeEvent
  dsimp only
  split
  · exact .trans (.eqSet (.refl s) _) (eqAdvance_kept _ _)
  · split
    · rfl
    · exact .trans (eqAdvance_kept _ _) (eqLose_kept _ _)

theorem postEvent_kept (c b g : Nat) (a : Bool) (d : List Byte) (s : State) : PortKept s (postEvent c b g a d s) := by
  unfold postEvent
  split
  · rfl
  · split
    · exact placeEvent_kept _ _ _ _ _ _
    · split
      · exact placeEvent_kept _ _ _ _ _ _
      · rfl

theorem emit_kept (c b : Nat) (d : List Byte) (s : State) : PortKept s (emit c b d s) :=
  .trans (recordEvent_kept _ _ _ _ _) (postEvent_kept _ _ _ _ _ _)

theorem emitAtStart_kept (c b : Nat) (d : List Byte) (s : State) : PortKept s (emitAtStart c b d s) :=
  .trans (recordEvent_kept _ _ _ _ _) (postEvent_kept _ _ _ _ _ _)

theorem answer_kept (c b g : Nat) (d : List Byte) (s : State) : PortKept s (answer c b g d s) :=
  .trans (recordEvent_kept _ _ _ _ _) (postEvent_kept _ _ _ _ _ _)

/-! ## Field by field -/

section
variable (c b f : Nat) (d : List Byte) (s : State)

@[simp] theorem recordEvent_pending : (recordEvent c b f d s).pending = s.pending := by rw [recordEvent_log c b f d s]
@[simp] theorem recordEvent_freeCount : (recordEvent c b f d s).freeCount = s.freeCount := by rw [recordEvent_log c b f d s]
@[simp] theorem recordEvent_trunk : (recordEvent c b f d s).trunk = s.trunk := by rw [recordEvent_log c b f d s]
@[simp] theorem recordEvent_lat : (recordEvent c b f d s).lat = s.lat := by rw [recordEvent_log c b f d s]
@[simp] theorem recordEvent_crypto : (recordEvent c b f d s).crypto = s.crypto := by rw [recordEvent_log c b f d s]
@[simp] theorem recordEvent_supply : (recordEvent c b f d s).supply = s.supply := by rw [recordEvent_log c b f d s]
@[simp] theorem recordEvent_start : (recordEvent c b f d s).start = s.start := by rw [recordEvent_log c b f d s]
@[simp] theorem recordEvent_host : (recordEvent c b f d s).host = s.host := by rw [recordEvent_log c b f d s]
@[simp] theorem recordEvent_ports : (recordEvent c b f d s).ports = s.ports := by rw [recordEvent_log c b f d s]
@[simp] theorem recordEvent_links : (recordEvent c b f d s).links = s.links := by rw [recordEvent_log c b f d s]
@[simp] theorem recordEvent_assoc : (recordEvent c b f d s).assoc = s.assoc := by rw [recordEvent_log c b f d s]
@[simp] theorem recordEvent_ses : (recordEvent c b f d s).ses = s.ses := by rw [recordEvent_log c b f d s]
@[simp] theorem recordEvent_sesL : (recordEvent c b f d s).sesL = s.sesL := by rw [recordEvent_log c b f d s]
@[simp] theorem recordEvent_sesDev : (recordEvent c b f d s).sesDev = s.sesDev := by rw [recordEvent_log c b f d s]
@[simp] theorem recordEvent_saf : (recordEvent c b f d s).saf = s.saf := by rw [recordEvent_log c b f d s]
@[simp] theorem recordEvent_meas : (recordEvent c b f d s).meas = s.meas := by rw [recordEvent_log c b f d s]
@[simp] theorem recordEvent_safDev : (recordEvent c b f d s).safDev = s.safDev := by rw [recordEvent_log c b f d s]
@[simp] theorem recordEvent_mtr : (recordEvent c b f d s).mtr = s.mtr := by rw [recordEvent_log c b f d s]
@[simp] theorem recordEvent_nrg : (recordEvent c b f d s).nrg = s.nrg := by rw [recordEvent_log c b f d s]
@[simp] theorem recordEvent_avg : (recordEvent c b f d s).avg = s.avg := by rw [recordEvent_log c b f d s]
@[simp] theorem recordEvent_nst : (recordEvent c b f d s).nst = s.nst := by rw [recordEvent_log c b f d s]
@[simp] theorem recordEvent_bilB : (recordEvent c b f d s).bilB = s.bilB := by rw [recordEvent_log c b f d s]
@[simp] theorem recordEvent_bil : (recordEvent c b f d s).bil = s.bil := by rw [recordEvent_log c b f d s]
@[simp] theorem recordEvent_aux : (recordEvent c b f d s).aux = s.aux := by rw [recordEvent_log c b f d s]
@[simp] theorem recordEvent_auxDev : (recordEvent c b f d s).auxDev = s.auxDev := by rw [recordEvent_log c b f d s]
@[simp] theorem recordEvent_lcd : (recordEvent c b f d s).lcd = s.lcd := by rw [recordEvent_log c b f d s]
@[simp] theorem recordEvent_canopy : (recordEvent c b f d s).canopy = s.canopy := by rw [recordEvent_log c b f d s]
@[simp] theorem recordEvent_tag : (recordEvent c b f d s).tag = s.tag := by rw [recordEvent_log c b f d s]
@[simp] theorem recordEvent_key : (recordEvent c b f d s).key = s.key := by rw [recordEvent_log c b f d s]
@[simp] theorem recordEvent_mem : (recordEvent c b f d s).mem = s.mem := by rw [recordEvent_log c b f d s]
@[simp] theorem recordEvent_upd : (recordEvent c b f d s).upd = s.upd := by rw [recordEvent_log c b f d s]
@[simp] theorem recordEvent_bak : (recordEvent c b f d s).bak = s.bak := by rw [recordEvent_log c b f d s]
@[simp] theorem recordEvent_nv : (recordEvent c b f d s).nv = s.nv := by rw [recordEvent_log c b f d s]

end

section
variable (i : Nat) (s : State)

@[simp] theorem raiseIrq_pending : (raiseIrq i s).pending = s.pending := rfl
@[simp] theorem raiseIrq_freeCount : (raiseIrq i s).freeCount = s.freeCount := rfl
@[simp] theorem raiseIrq_trunk : (raiseIrq i s).trunk = s.trunk := rfl
@[simp] theorem raiseIrq_lat : (raiseIrq i s).lat = s.lat := rfl
@[simp] theorem raiseIrq_crypto : (raiseIrq i s).crypto = s.crypto := rfl
@[simp] theorem raiseIrq_supply : (raiseIrq i s).supply = s.supply := rfl
@[simp] theorem raiseIrq_start : (raiseIrq i s).start = s.start := rfl
@[simp] theorem raiseIrq_ports : (raiseIrq i s).ports = s.ports := rfl
@[simp] theorem raiseIrq_links : (raiseIrq i s).links = s.links := rfl
@[simp] theorem raiseIrq_assoc : (raiseIrq i s).assoc = s.assoc := rfl
@[simp] theorem raiseIrq_ses : (raiseIrq i s).ses = s.ses := rfl
@[simp] theorem raiseIrq_sesL : (raiseIrq i s).sesL = s.sesL := rfl
@[simp] theorem raiseIrq_sesDev : (raiseIrq i s).sesDev = s.sesDev := rfl
@[simp] theorem raiseIrq_saf : (raiseIrq i s).saf = s.saf := rfl
@[simp] theorem raiseIrq_meas : (raiseIrq i s).meas = s.meas := rfl
@[simp] theorem raiseIrq_safDev : (raiseIrq i s).safDev = s.safDev := rfl
@[simp] theorem raiseIrq_mtr : (raiseIrq i s).mtr = s.mtr := rfl
@[simp] theorem raiseIrq_nrg : (raiseIrq i s).nrg = s.nrg := rfl
@[simp] theorem raiseIrq_avg : (raiseIrq i s).avg = s.avg := rfl
@[simp] theorem raiseIrq_nst : (raiseIrq i s).nst = s.nst := rfl
@[simp] theorem raiseIrq_bilB : (raiseIrq i s).bilB = s.bilB := rfl
@[simp] theorem raiseIrq_bil : (raiseIrq i s).bil = s.bil := rfl
@[simp] theorem raiseIrq_aux : (raiseIrq i s).aux = s.aux := rfl
@[simp] theorem raiseIrq_auxDev : (raiseIrq i s).auxDev = s.auxDev := rfl
@[simp] theorem raiseIrq_lcd : (raiseIrq i s).lcd = s.lcd := rfl
@[simp] theorem raiseIrq_canopy : (raiseIrq i s).canopy = s.canopy := rfl
@[simp] theorem raiseIrq_tag : (raiseIrq i s).tag = s.tag := rfl
@[simp] theorem raiseIrq_key : (raiseIrq i s).key = s.key := rfl
@[simp] theorem raiseIrq_mem : (raiseIrq i s).mem = s.mem := rfl
@[simp] theorem raiseIrq_log : (raiseIrq i s).log = s.log := rfl
@[simp] theorem raiseIrq_upd : (raiseIrq i s).upd = s.upd := rfl
@[simp] theorem raiseIrq_bak : (raiseIrq i s).bak = s.bak := rfl
@[simp] theorem raiseIrq_nv : (raiseIrq i s).nv = s.nv := rfl
@[simp] theorem raiseIrq_host_shadow : (raiseIrq i s).host.shadow = s.host.shadow := rfl
@[simp] theorem raiseIrq_host_applied : (raiseIrq i s).host.applied = s.host.applied := rfl
@[simp] theorem raiseIrq_host_snaps : (raiseIrq i s).host.snaps = s.host.snaps := rfl
@[simp] theorem raiseIrq_host_pendingC : (raiseIrq i s).host.pendingC = s.host.pendingC := rfl
@[simp] theorem raiseIrq_host_rejected : (raiseIrq i s).host.rejected = s.host.rejected := rfl
@[simp] theorem raiseIrq_host_passed : (raiseIrq i s).host.passed = s.host.passed := rfl
@[simp] theorem raiseIrq_host_doneC : (raiseIrq i s).host.doneC = s.host.doneC := rfl
@[simp] theorem raiseIrq_host_safLeft : (raiseIrq i s).host.safLeft = s.host.safLeft := rfl
@[simp] theorem raiseIrq_host_sesLeft : (raiseIrq i s).host.sesLeft = s.host.sesLeft := rfl
@[simp] theorem raiseIrq_host_vehLeft : (raiseIrq i s).host.vehLeft = s.host.vehLeft := rfl
@[simp] theorem raiseIrq_host_mtrLeft : (raiseIrq i s).host.mtrLeft = s.host.mtrLeft := rfl
@[simp] theorem raiseIrq_host_nrgLeft : (raiseIrq i s).host.nrgLeft = s.host.nrgLeft := rfl
@[simp] theorem raiseIrq_host_devLeft : (raiseIrq i s).host.devLeft = s.host.devLeft := rfl
@[simp] theorem raiseIrq_host_superseded : (raiseIrq i s).host.superseded = s.host.superseded := rfl
@[simp] theorem raiseIrq_host_irqEn : (raiseIrq i s).host.irqEn = s.host.irqEn := rfl
@[simp] theorem raiseIrq_host_scratch : (raiseIrq i s).host.scratch = s.host.scratch := rfl
@[simp] theorem raiseIrq_host_cq : (raiseIrq i s).host.cq = s.host.cq := rfl
@[simp] theorem raiseIrq_host_accepted : (raiseIrq i s).host.accepted = s.host.accepted := rfl
@[simp] theorem raiseIrq_host_dropped : (raiseIrq i s).host.dropped = s.host.dropped := rfl
@[simp] theorem raiseIrq_host_lastReason : (raiseIrq i s).host.lastReason = s.host.lastReason := rfl
@[simp] theorem raiseIrq_host_eq : (raiseIrq i s).host.eq = s.host.eq := rfl
@[simp] theorem raiseIrq_host_eqSeq : (raiseIrq i s).host.eqSeq = s.host.eqSeq := rfl
@[simp] theorem raiseIrq_host_eqLost : (raiseIrq i s).host.eqLost = s.host.eqLost := rfl
@[simp] theorem raiseIrq_host_lostNoted : (raiseIrq i s).host.lostNoted = s.host.lostNoted := rfl
@[simp] theorem raiseIrq_host_bulkState : (raiseIrq i s).host.bulkState = s.host.bulkState := rfl
@[simp] theorem raiseIrq_host_bulkType : (raiseIrq i s).host.bulkType = s.host.bulkType := rfl
@[simp] theorem raiseIrq_host_bulkLen : (raiseIrq i s).host.bulkLen = s.host.bulkLen := rfl
@[simp] theorem raiseIrq_host_bulk : (raiseIrq i s).host.bulk = s.host.bulk := rfl
@[simp] theorem raiseIrq_host_ignoredW : (raiseIrq i s).host.ignoredW = s.host.ignoredW := rfl
@[simp] theorem raiseIrq_host_badOp : (raiseIrq i s).host.badOp = s.host.badOp := rfl
@[simp] theorem raiseIrq_host_cut : (raiseIrq i s).host.cut = s.host.cut := rfl
@[simp] theorem raiseIrq_host_bistRunning : (raiseIrq i s).host.bistRunning = s.host.bistRunning := rfl
@[simp] theorem raiseIrq_host_bistRetry : (raiseIrq i s).host.bistRetry = s.host.bistRetry := rfl
@[simp] theorem raiseIrq_host_csLow : (raiseIrq i s).host.csLow = s.host.csLow := rfl

end

section
variable (c b : Nat) (d : List Byte) (s : State)

@[simp] theorem emit_pending : (emit c b d s).pending = s.pending := by rw [emit_kept c b d s]
@[simp] theorem emit_freeCount : (emit c b d s).freeCount = s.freeCount := by rw [emit_kept c b d s]
@[simp] theorem emit_trunk : (emit c b d s).trunk = s.trunk := by rw [emit_kept c b d s]
@[simp] theorem emit_lat : (emit c b d s).lat = s.lat := by rw [emit_kept c b d s]
@[simp] theorem emit_crypto : (emit c b d s).crypto = s.crypto := by rw [emit_kept c b d s]
@[simp] theorem emit_supply : (emit c b d s).supply = s.supply := by rw [emit_kept c b d s]
@[simp] theorem emit_start : (emit c b d s).start = s.start := by rw [emit_kept c b d s]
@[simp] theorem emit_ports : (emit c b d s).ports = s.ports := by rw [emit_kept c b d s]
@[simp] theorem emit_links : (emit c b d s).links = s.links := by rw [emit_kept c b d s]
@[simp] theorem emit_assoc : (emit c b d s).assoc = s.assoc := by rw [emit_kept c b d s]
@[simp] theorem emit_ses : (emit c b d s).ses = s.ses := by rw [emit_kept c b d s]
@[simp] theorem emit_sesL : (emit c b d s).sesL = s.sesL := by rw [emit_kept c b d s]
@[simp] theorem emit_sesDev : (emit c b d s).sesDev = s.sesDev := by rw [emit_kept c b d s]
@[simp] theorem emit_saf : (emit c b d s).saf = s.saf := by rw [emit_kept c b d s]
@[simp] theorem emit_meas : (emit c b d s).meas = s.meas := by rw [emit_kept c b d s]
@[simp] theorem emit_safDev : (emit c b d s).safDev = s.safDev := by rw [emit_kept c b d s]
@[simp] theorem emit_mtr : (emit c b d s).mtr = s.mtr := by rw [emit_kept c b d s]
@[simp] theorem emit_nrg : (emit c b d s).nrg = s.nrg := by rw [emit_kept c b d s]
@[simp] theorem emit_avg : (emit c b d s).avg = s.avg := by rw [emit_kept c b d s]
@[simp] theorem emit_nst : (emit c b d s).nst = s.nst := by rw [emit_kept c b d s]
@[simp] theorem emit_bilB : (emit c b d s).bilB = s.bilB := by rw [emit_kept c b d s]
@[simp] theorem emit_bil : (emit c b d s).bil = s.bil := by rw [emit_kept c b d s]
@[simp] theorem emit_aux : (emit c b d s).aux = s.aux := by rw [emit_kept c b d s]
@[simp] theorem emit_auxDev : (emit c b d s).auxDev = s.auxDev := by rw [emit_kept c b d s]
@[simp] theorem emit_lcd : (emit c b d s).lcd = s.lcd := by rw [emit_kept c b d s]
@[simp] theorem emit_canopy : (emit c b d s).canopy = s.canopy := by rw [emit_kept c b d s]
@[simp] theorem emit_tag : (emit c b d s).tag = s.tag := by rw [emit_kept c b d s]
@[simp] theorem emit_key : (emit c b d s).key = s.key := by rw [emit_kept c b d s]
@[simp] theorem emit_mem : (emit c b d s).mem = s.mem := by rw [emit_kept c b d s]
@[simp] theorem emit_upd : (emit c b d s).upd = s.upd := by rw [emit_kept c b d s]
@[simp] theorem emit_bak : (emit c b d s).bak = s.bak := by rw [emit_kept c b d s]
@[simp] theorem emit_nv : (emit c b d s).nv = s.nv := by rw [emit_kept c b d s]
@[simp] theorem emit_host_shadow : (emit c b d s).host.shadow = s.host.shadow := by rw [emit_kept c b d s]
@[simp] theorem emit_host_applied : (emit c b d s).host.applied = s.host.applied := by rw [emit_kept c b d s]
@[simp] theorem emit_host_snaps : (emit c b d s).host.snaps = s.host.snaps := by rw [emit_kept c b d s]
@[simp] theorem emit_host_pendingC : (emit c b d s).host.pendingC = s.host.pendingC := by rw [emit_kept c b d s]
@[simp] theorem emit_host_rejected : (emit c b d s).host.rejected = s.host.rejected := by rw [emit_kept c b d s]
@[simp] theorem emit_host_passed : (emit c b d s).host.passed = s.host.passed := by rw [emit_kept c b d s]
@[simp] theorem emit_host_doneC : (emit c b d s).host.doneC = s.host.doneC := by rw [emit_kept c b d s]
@[simp] theorem emit_host_safLeft : (emit c b d s).host.safLeft = s.host.safLeft := by rw [emit_kept c b d s]
@[simp] theorem emit_host_sesLeft : (emit c b d s).host.sesLeft = s.host.sesLeft := by rw [emit_kept c b d s]
@[simp] theorem emit_host_vehLeft : (emit c b d s).host.vehLeft = s.host.vehLeft := by rw [emit_kept c b d s]
@[simp] theorem emit_host_mtrLeft : (emit c b d s).host.mtrLeft = s.host.mtrLeft := by rw [emit_kept c b d s]
@[simp] theorem emit_host_nrgLeft : (emit c b d s).host.nrgLeft = s.host.nrgLeft := by rw [emit_kept c b d s]
@[simp] theorem emit_host_devLeft : (emit c b d s).host.devLeft = s.host.devLeft := by rw [emit_kept c b d s]
@[simp] theorem emit_host_superseded : (emit c b d s).host.superseded = s.host.superseded := by rw [emit_kept c b d s]
@[simp] theorem emit_host_irqEn : (emit c b d s).host.irqEn = s.host.irqEn := by rw [emit_kept c b d s]
@[simp] theorem emit_host_scratch : (emit c b d s).host.scratch = s.host.scratch := by rw [emit_kept c b d s]
@[simp] theorem emit_host_cq : (emit c b d s).host.cq = s.host.cq := by rw [emit_kept c b d s]
@[simp] theorem emit_host_accepted : (emit c b d s).host.accepted = s.host.accepted := by rw [emit_kept c b d s]
@[simp] theorem emit_host_dropped : (emit c b d s).host.dropped = s.host.dropped := by rw [emit_kept c b d s]
@[simp] theorem emit_host_lastReason : (emit c b d s).host.lastReason = s.host.lastReason := by rw [emit_kept c b d s]
@[simp] theorem emit_host_bulkState : (emit c b d s).host.bulkState = s.host.bulkState := by rw [emit_kept c b d s]
@[simp] theorem emit_host_bulkType : (emit c b d s).host.bulkType = s.host.bulkType := by rw [emit_kept c b d s]
@[simp] theorem emit_host_bulkLen : (emit c b d s).host.bulkLen = s.host.bulkLen := by rw [emit_kept c b d s]
@[simp] theorem emit_host_bulk : (emit c b d s).host.bulk = s.host.bulk := by rw [emit_kept c b d s]
@[simp] theorem emit_host_ignoredW : (emit c b d s).host.ignoredW = s.host.ignoredW := by rw [emit_kept c b d s]
@[simp] theorem emit_host_badOp : (emit c b d s).host.badOp = s.host.badOp := by rw [emit_kept c b d s]
@[simp] theorem emit_host_cut : (emit c b d s).host.cut = s.host.cut := by rw [emit_kept c b d s]
@[simp] theorem emit_host_bistRunning : (emit c b d s).host.bistRunning = s.host.bistRunning := by rw [emit_kept c b d s]
@[simp] theorem emit_host_bistRetry : (emit c b d s).host.bistRetry = s.host.bistRetry := by rw [emit_kept c b d s]
@[simp] theorem emit_host_csLow : (emit c b d s).host.csLow = s.host.csLow := by rw [emit_kept c b d s]

end

section
variable (c b : Nat) (d : List Byte) (s : State)

@[simp] theorem emitAtStart_pending : (emitAtStart c b d s).pending = s.pending := by rw [emitAtStart_kept c b d s]
@[simp] theorem emitAtStart_freeCount : (emitAtStart c b d s).freeCount = s.freeCount := by rw [emitAtStart_kept c b d s]
@[simp] theorem emitAtStart_trunk : (emitAtStart c b d s).trunk = s.trunk := by rw [emitAtStart_kept c b d s]
@[simp] theorem emitAtStart_lat : (emitAtStart c b d s).lat = s.lat := by rw [emitAtStart_kept c b d s]
@[simp] theorem emitAtStart_crypto : (emitAtStart c b d s).crypto = s.crypto := by rw [emitAtStart_kept c b d s]
@[simp] theorem emitAtStart_supply : (emitAtStart c b d s).supply = s.supply := by rw [emitAtStart_kept c b d s]
@[simp] theorem emitAtStart_start : (emitAtStart c b d s).start = s.start := by rw [emitAtStart_kept c b d s]
@[simp] theorem emitAtStart_ports : (emitAtStart c b d s).ports = s.ports := by rw [emitAtStart_kept c b d s]
@[simp] theorem emitAtStart_links : (emitAtStart c b d s).links = s.links := by rw [emitAtStart_kept c b d s]
@[simp] theorem emitAtStart_assoc : (emitAtStart c b d s).assoc = s.assoc := by rw [emitAtStart_kept c b d s]
@[simp] theorem emitAtStart_ses : (emitAtStart c b d s).ses = s.ses := by rw [emitAtStart_kept c b d s]
@[simp] theorem emitAtStart_sesL : (emitAtStart c b d s).sesL = s.sesL := by rw [emitAtStart_kept c b d s]
@[simp] theorem emitAtStart_sesDev : (emitAtStart c b d s).sesDev = s.sesDev := by rw [emitAtStart_kept c b d s]
@[simp] theorem emitAtStart_saf : (emitAtStart c b d s).saf = s.saf := by rw [emitAtStart_kept c b d s]
@[simp] theorem emitAtStart_meas : (emitAtStart c b d s).meas = s.meas := by rw [emitAtStart_kept c b d s]
@[simp] theorem emitAtStart_safDev : (emitAtStart c b d s).safDev = s.safDev := by rw [emitAtStart_kept c b d s]
@[simp] theorem emitAtStart_mtr : (emitAtStart c b d s).mtr = s.mtr := by rw [emitAtStart_kept c b d s]
@[simp] theorem emitAtStart_nrg : (emitAtStart c b d s).nrg = s.nrg := by rw [emitAtStart_kept c b d s]
@[simp] theorem emitAtStart_avg : (emitAtStart c b d s).avg = s.avg := by rw [emitAtStart_kept c b d s]
@[simp] theorem emitAtStart_nst : (emitAtStart c b d s).nst = s.nst := by rw [emitAtStart_kept c b d s]
@[simp] theorem emitAtStart_bilB : (emitAtStart c b d s).bilB = s.bilB := by rw [emitAtStart_kept c b d s]
@[simp] theorem emitAtStart_bil : (emitAtStart c b d s).bil = s.bil := by rw [emitAtStart_kept c b d s]
@[simp] theorem emitAtStart_aux : (emitAtStart c b d s).aux = s.aux := by rw [emitAtStart_kept c b d s]
@[simp] theorem emitAtStart_auxDev : (emitAtStart c b d s).auxDev = s.auxDev := by rw [emitAtStart_kept c b d s]
@[simp] theorem emitAtStart_lcd : (emitAtStart c b d s).lcd = s.lcd := by rw [emitAtStart_kept c b d s]
@[simp] theorem emitAtStart_canopy : (emitAtStart c b d s).canopy = s.canopy := by rw [emitAtStart_kept c b d s]
@[simp] theorem emitAtStart_tag : (emitAtStart c b d s).tag = s.tag := by rw [emitAtStart_kept c b d s]
@[simp] theorem emitAtStart_key : (emitAtStart c b d s).key = s.key := by rw [emitAtStart_kept c b d s]
@[simp] theorem emitAtStart_mem : (emitAtStart c b d s).mem = s.mem := by rw [emitAtStart_kept c b d s]
@[simp] theorem emitAtStart_upd : (emitAtStart c b d s).upd = s.upd := by rw [emitAtStart_kept c b d s]
@[simp] theorem emitAtStart_bak : (emitAtStart c b d s).bak = s.bak := by rw [emitAtStart_kept c b d s]
@[simp] theorem emitAtStart_nv : (emitAtStart c b d s).nv = s.nv := by rw [emitAtStart_kept c b d s]
@[simp] theorem emitAtStart_host_shadow : (emitAtStart c b d s).host.shadow = s.host.shadow := by rw [emitAtStart_kept c b d s]
@[simp] theorem emitAtStart_host_applied : (emitAtStart c b d s).host.applied = s.host.applied := by rw [emitAtStart_kept c b d s]
@[simp] theorem emitAtStart_host_snaps : (emitAtStart c b d s).host.snaps = s.host.snaps := by rw [emitAtStart_kept c b d s]
@[simp] theorem emitAtStart_host_pendingC : (emitAtStart c b d s).host.pendingC = s.host.pendingC := by rw [emitAtStart_kept c b d s]
@[simp] theorem emitAtStart_host_rejected : (emitAtStart c b d s).host.rejected = s.host.rejected := by rw [emitAtStart_kept c b d s]
@[simp] theorem emitAtStart_host_passed : (emitAtStart c b d s).host.passed = s.host.passed := by rw [emitAtStart_kept c b d s]
@[simp] theorem emitAtStart_host_doneC : (emitAtStart c b d s).host.doneC = s.host.doneC := by rw [emitAtStart_kept c b d s]
@[simp] theorem emitAtStart_host_safLeft : (emitAtStart c b d s).host.safLeft = s.host.safLeft := by rw [emitAtStart_kept c b d s]
@[simp] theorem emitAtStart_host_sesLeft : (emitAtStart c b d s).host.sesLeft = s.host.sesLeft := by rw [emitAtStart_kept c b d s]
@[simp] theorem emitAtStart_host_vehLeft : (emitAtStart c b d s).host.vehLeft = s.host.vehLeft := by rw [emitAtStart_kept c b d s]
@[simp] theorem emitAtStart_host_mtrLeft : (emitAtStart c b d s).host.mtrLeft = s.host.mtrLeft := by rw [emitAtStart_kept c b d s]
@[simp] theorem emitAtStart_host_nrgLeft : (emitAtStart c b d s).host.nrgLeft = s.host.nrgLeft := by rw [emitAtStart_kept c b d s]
@[simp] theorem emitAtStart_host_devLeft : (emitAtStart c b d s).host.devLeft = s.host.devLeft := by rw [emitAtStart_kept c b d s]
@[simp] theorem emitAtStart_host_superseded : (emitAtStart c b d s).host.superseded = s.host.superseded := by rw [emitAtStart_kept c b d s]
@[simp] theorem emitAtStart_host_irqEn : (emitAtStart c b d s).host.irqEn = s.host.irqEn := by rw [emitAtStart_kept c b d s]
@[simp] theorem emitAtStart_host_scratch : (emitAtStart c b d s).host.scratch = s.host.scratch := by rw [emitAtStart_kept c b d s]
@[simp] theorem emitAtStart_host_cq : (emitAtStart c b d s).host.cq = s.host.cq := by rw [emitAtStart_kept c b d s]
@[simp] theorem emitAtStart_host_accepted : (emitAtStart c b d s).host.accepted = s.host.accepted := by rw [emitAtStart_kept c b d s]
@[simp] theorem emitAtStart_host_dropped : (emitAtStart c b d s).host.dropped = s.host.dropped := by rw [emitAtStart_kept c b d s]
@[simp] theorem emitAtStart_host_lastReason : (emitAtStart c b d s).host.lastReason = s.host.lastReason := by rw [emitAtStart_kept c b d s]
@[simp] theorem emitAtStart_host_bulkState : (emitAtStart c b d s).host.bulkState = s.host.bulkState := by rw [emitAtStart_kept c b d s]
@[simp] theorem emitAtStart_host_bulkType : (emitAtStart c b d s).host.bulkType = s.host.bulkType := by rw [emitAtStart_kept c b d s]
@[simp] theorem emitAtStart_host_bulkLen : (emitAtStart c b d s).host.bulkLen = s.host.bulkLen := by rw [emitAtStart_kept c b d s]
@[simp] theorem emitAtStart_host_bulk : (emitAtStart c b d s).host.bulk = s.host.bulk := by rw [emitAtStart_kept c b d s]
@[simp] theorem emitAtStart_host_ignoredW : (emitAtStart c b d s).host.ignoredW = s.host.ignoredW := by rw [emitAtStart_kept c b d s]
@[simp] theorem emitAtStart_host_badOp : (emitAtStart c b d s).host.badOp = s.host.badOp := by rw [emitAtStart_kept c b d s]
@[simp] theorem emitAtStart_host_cut : (emitAtStart c b d s).host.cut = s.host.cut := by rw [emitAtStart_kept c b d s]
@[simp] theorem emitAtStart_host_bistRunning : (emitAtStart c b d s).host.bistRunning = s.host.bistRunning := by rw [emitAtStart_kept c b d s]
@[simp] theorem emitAtStart_host_bistRetry : (emitAtStart c b d s).host.bistRetry = s.host.bistRetry := by rw [emitAtStart_kept c b d s]
@[simp] theorem emitAtStart_host_csLow : (emitAtStart c b d s).host.csLow = s.host.csLow := by rw [emitAtStart_kept c b d s]

end

section
variable (c b g : Nat) (d : List Byte) (s : State)

@[simp] theorem answer_pending : (answer c b g d s).pending = s.pending := by rw [answer_kept c b g d s]
@[simp] theorem answer_freeCount : (answer c b g d s).freeCount = s.freeCount := by rw [answer_kept c b g d s]
@[simp] theorem answer_trunk : (answer c b g d s).trunk = s.trunk := by rw [answer_kept c b g d s]
@[simp] theorem answer_lat : (answer c b g d s).lat = s.lat := by rw [answer_kept c b g d s]
@[simp] theorem answer_crypto : (answer c b g d s).crypto = s.crypto := by rw [answer_kept c b g d s]
@[simp] theorem answer_supply : (answer c b g d s).supply = s.supply := by rw [answer_kept c b g d s]
@[simp] theorem answer_start : (answer c b g d s).start = s.start := by rw [answer_kept c b g d s]
@[simp] theorem answer_ports : (answer c b g d s).ports = s.ports := by rw [answer_kept c b g d s]
@[simp] theorem answer_links : (answer c b g d s).links = s.links := by rw [answer_kept c b g d s]
@[simp] theorem answer_assoc : (answer c b g d s).assoc = s.assoc := by rw [answer_kept c b g d s]
@[simp] theorem answer_ses : (answer c b g d s).ses = s.ses := by rw [answer_kept c b g d s]
@[simp] theorem answer_sesL : (answer c b g d s).sesL = s.sesL := by rw [answer_kept c b g d s]
@[simp] theorem answer_sesDev : (answer c b g d s).sesDev = s.sesDev := by rw [answer_kept c b g d s]
@[simp] theorem answer_saf : (answer c b g d s).saf = s.saf := by rw [answer_kept c b g d s]
@[simp] theorem answer_meas : (answer c b g d s).meas = s.meas := by rw [answer_kept c b g d s]
@[simp] theorem answer_safDev : (answer c b g d s).safDev = s.safDev := by rw [answer_kept c b g d s]
@[simp] theorem answer_mtr : (answer c b g d s).mtr = s.mtr := by rw [answer_kept c b g d s]
@[simp] theorem answer_nrg : (answer c b g d s).nrg = s.nrg := by rw [answer_kept c b g d s]
@[simp] theorem answer_avg : (answer c b g d s).avg = s.avg := by rw [answer_kept c b g d s]
@[simp] theorem answer_nst : (answer c b g d s).nst = s.nst := by rw [answer_kept c b g d s]
@[simp] theorem answer_bilB : (answer c b g d s).bilB = s.bilB := by rw [answer_kept c b g d s]
@[simp] theorem answer_bil : (answer c b g d s).bil = s.bil := by rw [answer_kept c b g d s]
@[simp] theorem answer_aux : (answer c b g d s).aux = s.aux := by rw [answer_kept c b g d s]
@[simp] theorem answer_auxDev : (answer c b g d s).auxDev = s.auxDev := by rw [answer_kept c b g d s]
@[simp] theorem answer_lcd : (answer c b g d s).lcd = s.lcd := by rw [answer_kept c b g d s]
@[simp] theorem answer_canopy : (answer c b g d s).canopy = s.canopy := by rw [answer_kept c b g d s]
@[simp] theorem answer_tag : (answer c b g d s).tag = s.tag := by rw [answer_kept c b g d s]
@[simp] theorem answer_key : (answer c b g d s).key = s.key := by rw [answer_kept c b g d s]
@[simp] theorem answer_mem : (answer c b g d s).mem = s.mem := by rw [answer_kept c b g d s]
@[simp] theorem answer_upd : (answer c b g d s).upd = s.upd := by rw [answer_kept c b g d s]
@[simp] theorem answer_bak : (answer c b g d s).bak = s.bak := by rw [answer_kept c b g d s]
@[simp] theorem answer_nv : (answer c b g d s).nv = s.nv := by rw [answer_kept c b g d s]
@[simp] theorem answer_host_shadow : (answer c b g d s).host.shadow = s.host.shadow := by rw [answer_kept c b g d s]
@[simp] theorem answer_host_applied : (answer c b g d s).host.applied = s.host.applied := by rw [answer_kept c b g d s]
@[simp] theorem answer_host_snaps : (answer c b g d s).host.snaps = s.host.snaps := by rw [answer_kept c b g d s]
@[simp] theorem answer_host_pendingC : (answer c b g d s).host.pendingC = s.host.pendingC := by rw [answer_kept c b g d s]
@[simp] theorem answer_host_rejected : (answer c b g d s).host.rejected = s.host.rejected := by rw [answer_kept c b g d s]
@[simp] theorem answer_host_passed : (answer c b g d s).host.passed = s.host.passed := by rw [answer_kept c b g d s]
@[simp] theorem answer_host_doneC : (answer c b g d s).host.doneC = s.host.doneC := by rw [answer_kept c b g d s]
@[simp] theorem answer_host_safLeft : (answer c b g d s).host.safLeft = s.host.safLeft := by rw [answer_kept c b g d s]
@[simp] theorem answer_host_sesLeft : (answer c b g d s).host.sesLeft = s.host.sesLeft := by rw [answer_kept c b g d s]
@[simp] theorem answer_host_vehLeft : (answer c b g d s).host.vehLeft = s.host.vehLeft := by rw [answer_kept c b g d s]
@[simp] theorem answer_host_mtrLeft : (answer c b g d s).host.mtrLeft = s.host.mtrLeft := by rw [answer_kept c b g d s]
@[simp] theorem answer_host_nrgLeft : (answer c b g d s).host.nrgLeft = s.host.nrgLeft := by rw [answer_kept c b g d s]
@[simp] theorem answer_host_devLeft : (answer c b g d s).host.devLeft = s.host.devLeft := by rw [answer_kept c b g d s]
@[simp] theorem answer_host_superseded : (answer c b g d s).host.superseded = s.host.superseded := by rw [answer_kept c b g d s]
@[simp] theorem answer_host_irqEn : (answer c b g d s).host.irqEn = s.host.irqEn := by rw [answer_kept c b g d s]
@[simp] theorem answer_host_scratch : (answer c b g d s).host.scratch = s.host.scratch := by rw [answer_kept c b g d s]
@[simp] theorem answer_host_cq : (answer c b g d s).host.cq = s.host.cq := by rw [answer_kept c b g d s]
@[simp] theorem answer_host_accepted : (answer c b g d s).host.accepted = s.host.accepted := by rw [answer_kept c b g d s]
@[simp] theorem answer_host_dropped : (answer c b g d s).host.dropped = s.host.dropped := by rw [answer_kept c b g d s]
@[simp] theorem answer_host_lastReason : (answer c b g d s).host.lastReason = s.host.lastReason := by rw [answer_kept c b g d s]
@[simp] theorem answer_host_bulkState : (answer c b g d s).host.bulkState = s.host.bulkState := by rw [answer_kept c b g d s]
@[simp] theorem answer_host_bulkType : (answer c b g d s).host.bulkType = s.host.bulkType := by rw [answer_kept c b g d s]
@[simp] theorem answer_host_bulkLen : (answer c b g d s).host.bulkLen = s.host.bulkLen := by rw [answer_kept c b g d s]
@[simp] theorem answer_host_bulk : (answer c b g d s).host.bulk = s.host.bulk := by rw [answer_kept c b g d s]
@[simp] theorem answer_host_ignoredW : (answer c b g d s).host.ignoredW = s.host.ignoredW := by rw [answer_kept c b g d s]
@[simp] theorem answer_host_badOp : (answer c b g d s).host.badOp = s.host.badOp := by rw [answer_kept c b g d s]
@[simp] theorem answer_host_cut : (answer c b g d s).host.cut = s.host.cut := by rw [answer_kept c b g d s]
@[simp] theorem answer_host_bistRunning : (answer c b g d s).host.bistRunning = s.host.bistRunning := by rw [answer_kept c b g d s]
@[simp] theorem answer_host_bistRetry : (answer c b g d s).host.bistRetry = s.host.bistRetry := by rw [answer_kept c b g d s]
@[simp] theorem answer_host_csLow : (answer c b g d s).host.csLow = s.host.csLow := by rw [answer_kept c b g d s]

end

end Sys2Proof.Machine
end

