-- ==== Sys2Proof/Laws/State.lean ====
section
/-! SUPPORT. The fields of State under the updates of one bough's, one load channel's or the port's part: one lemma for
each field and update. -/

namespace Sys2Proof.Machine

@[simp] theorem modAt_get {α : Type} {n : Nat} (v : Vector α n) (i : Fin n) (f : α → α) : (modAt v i f)[i] = f v[i] := by
  simp [modAt]

@[simp] theorem modAt_get_other {α : Type} {n : Nat} (v : Vector α n) (i j : Fin n) (f : α → α) (h : i ≠ j) :
    (modAt v i f)[j] = v[j] := by
  have : i.val ≠ j.val := fun e => h (Fin.ext e)
  simp [modAt, Vector.getElem_set, this]

section
variable (s : State) (b : Bough) (f : Port → Port)

@[simp] theorem State.onPort_pending : (s.onPort b f).pending = s.pending := rfl
@[simp] theorem State.onPort_freeCount : (s.onPort b f).freeCount = s.freeCount := rfl
@[simp] theorem State.onPort_trunk : (s.onPort b f).trunk = s.trunk := rfl
@[simp] theorem State.onPort_lat : (s.onPort b f).lat = s.lat := rfl
@[simp] theorem State.onPort_crypto : (s.onPort b f).crypto = s.crypto := rfl
@[simp] theorem State.onPort_supply : (s.onPort b f).supply = s.supply := rfl
@[simp] theorem State.onPort_start : (s.onPort b f).start = s.start := rfl
@[simp] theorem State.onPort_host : (s.onPort b f).host = s.host := rfl
@[simp] theorem State.onPort_ports : (s.onPort b f).ports = modAt s.ports b f := rfl
@[simp] theorem State.onPort_links : (s.onPort b f).links = s.links := rfl
@[simp] theorem State.onPort_assoc : (s.onPort b f).assoc = s.assoc := rfl
@[simp] theorem State.onPort_ses : (s.onPort b f).ses = s.ses := rfl
@[simp] theorem State.onPort_sesL : (s.onPort b f).sesL = s.sesL := rfl
@[simp] theorem State.onPort_sesDev : (s.onPort b f).sesDev = s.sesDev := rfl
@[simp] theorem State.onPort_saf : (s.onPort b f).saf = s.saf := rfl
@[simp] theorem State.onPort_meas : (s.onPort b f).meas = s.meas := rfl
@[simp] theorem State.onPort_safDev : (s.onPort b f).safDev = s.safDev := rfl
@[simp] theorem State.onPort_mtr : (s.onPort b f).mtr = s.mtr := rfl
@[simp] theorem State.onPort_nrg : (s.onPort b f).nrg = s.nrg := rfl
@[simp] theorem State.onPort_avg : (s.onPort b f).avg = s.avg := rfl
@[simp] theorem State.onPort_nst : (s.onPort b f).nst = s.nst := rfl
@[simp] theorem State.onPort_bilB : (s.onPort b f).bilB = s.bilB := rfl
@[simp] theorem State.onPort_bil : (s.onPort b f).bil = s.bil := rfl
@[simp] theorem State.onPort_aux : (s.onPort b f).aux = s.aux := rfl
@[simp] theorem State.onPort_auxDev : (s.onPort b f).auxDev = s.auxDev := rfl
@[simp] theorem State.onPort_lcd : (s.onPort b f).lcd = s.lcd := rfl
@[simp] theorem State.onPort_canopy : (s.onPort b f).canopy = s.canopy := rfl
@[simp] theorem State.onPort_tag : (s.onPort b f).tag = s.tag := rfl
@[simp] theorem State.onPort_key : (s.onPort b f).key = s.key := rfl
@[simp] theorem State.onPort_mem : (s.onPort b f).mem = s.mem := rfl
@[simp] theorem State.onPort_log : (s.onPort b f).log = s.log := rfl
@[simp] theorem State.onPort_upd : (s.onPort b f).upd = s.upd := rfl
@[simp] theorem State.onPort_bak : (s.onPort b f).bak = s.bak := rfl
@[simp] theorem State.onPort_nv : (s.onPort b f).nv = s.nv := rfl

end

section
variable (s : State) (b : Bough) (f : PortLink → PortLink)

@[simp] theorem State.onLink_pending : (s.onLink b f).pending = s.pending := rfl
@[simp] theorem State.onLink_freeCount : (s.onLink b f).freeCount = s.freeCount := rfl
@[simp] theorem State.onLink_trunk : (s.onLink b f).trunk = s.trunk := rfl
@[simp] theorem State.onLink_lat : (s.onLink b f).lat = s.lat := rfl
@[simp] theorem State.onLink_crypto : (s.onLink b f).crypto = s.crypto := rfl
@[simp] theorem State.onLink_supply : (s.onLink b f).supply = s.supply := rfl
@[simp] theorem State.onLink_start : (s.onLink b f).start = s.start := rfl
@[simp] theorem State.onLink_host : (s.onLink b f).host = s.host := rfl
@[simp] theorem State.onLink_ports : (s.onLink b f).ports = s.ports := rfl
@[simp] theorem State.onLink_links : (s.onLink b f).links = modAt s.links b f := rfl
@[simp] theorem State.onLink_assoc : (s.onLink b f).assoc = s.assoc := rfl
@[simp] theorem State.onLink_ses : (s.onLink b f).ses = s.ses := rfl
@[simp] theorem State.onLink_sesL : (s.onLink b f).sesL = s.sesL := rfl
@[simp] theorem State.onLink_sesDev : (s.onLink b f).sesDev = s.sesDev := rfl
@[simp] theorem State.onLink_saf : (s.onLink b f).saf = s.saf := rfl
@[simp] theorem State.onLink_meas : (s.onLink b f).meas = s.meas := rfl
@[simp] theorem State.onLink_safDev : (s.onLink b f).safDev = s.safDev := rfl
@[simp] theorem State.onLink_mtr : (s.onLink b f).mtr = s.mtr := rfl
@[simp] theorem State.onLink_nrg : (s.onLink b f).nrg = s.nrg := rfl
@[simp] theorem State.onLink_avg : (s.onLink b f).avg = s.avg := rfl
@[simp] theorem State.onLink_nst : (s.onLink b f).nst = s.nst := rfl
@[simp] theorem State.onLink_bilB : (s.onLink b f).bilB = s.bilB := rfl
@[simp] theorem State.onLink_bil : (s.onLink b f).bil = s.bil := rfl
@[simp] theorem State.onLink_aux : (s.onLink b f).aux = s.aux := rfl
@[simp] theorem State.onLink_auxDev : (s.onLink b f).auxDev = s.auxDev := rfl
@[simp] theorem State.onLink_lcd : (s.onLink b f).lcd = s.lcd := rfl
@[simp] theorem State.onLink_canopy : (s.onLink b f).canopy = s.canopy := rfl
@[simp] theorem State.onLink_tag : (s.onLink b f).tag = s.tag := rfl
@[simp] theorem State.onLink_key : (s.onLink b f).key = s.key := rfl
@[simp] theorem State.onLink_mem : (s.onLink b f).mem = s.mem := rfl
@[simp] theorem State.onLink_log : (s.onLink b f).log = s.log := rfl
@[simp] theorem State.onLink_upd : (s.onLink b f).upd = s.upd := rfl
@[simp] theorem State.onLink_bak : (s.onLink b f).bak = s.bak := rfl
@[simp] theorem State.onLink_nv : (s.onLink b f).nv = s.nv := rfl

end

section
variable (s : State) (b : Bough) (f : Session → Session)

@[simp] theorem State.onSes_pending : (s.onSes b f).pending = s.pending := rfl
@[simp] theorem State.onSes_freeCount : (s.onSes b f).freeCount = s.freeCount := rfl
@[simp] theorem State.onSes_trunk : (s.onSes b f).trunk = s.trunk := rfl
@[simp] theorem State.onSes_lat : (s.onSes b f).lat = s.lat := rfl
@[simp] theorem State.onSes_crypto : (s.onSes b f).crypto = s.crypto := rfl
@[simp] theorem State.onSes_supply : (s.onSes b f).supply = s.supply := rfl
@[simp] theorem State.onSes_start : (s.onSes b f).start = s.start := rfl
@[simp] theorem State.onSes_host : (s.onSes b f).host = s.host := rfl
@[simp] theorem State.onSes_ports : (s.onSes b f).ports = s.ports := rfl
@[simp] theorem State.onSes_links : (s.onSes b f).links = s.links := rfl
@[simp] theorem State.onSes_assoc : (s.onSes b f).assoc = s.assoc := rfl
@[simp] theorem State.onSes_ses : (s.onSes b f).ses = modAt s.ses b f := rfl
@[simp] theorem State.onSes_sesL : (s.onSes b f).sesL = s.sesL := rfl
@[simp] theorem State.onSes_sesDev : (s.onSes b f).sesDev = s.sesDev := rfl
@[simp] theorem State.onSes_saf : (s.onSes b f).saf = s.saf := rfl
@[simp] theorem State.onSes_meas : (s.onSes b f).meas = s.meas := rfl
@[simp] theorem State.onSes_safDev : (s.onSes b f).safDev = s.safDev := rfl
@[simp] theorem State.onSes_mtr : (s.onSes b f).mtr = s.mtr := rfl
@[simp] theorem State.onSes_nrg : (s.onSes b f).nrg = s.nrg := rfl
@[simp] theorem State.onSes_avg : (s.onSes b f).avg = s.avg := rfl
@[simp] theorem State.onSes_nst : (s.onSes b f).nst = s.nst := rfl
@[simp] theorem State.onSes_bilB : (s.onSes b f).bilB = s.bilB := rfl
@[simp] theorem State.onSes_bil : (s.onSes b f).bil = s.bil := rfl
@[simp] theorem State.onSes_aux : (s.onSes b f).aux = s.aux := rfl
@[simp] theorem State.onSes_auxDev : (s.onSes b f).auxDev = s.auxDev := rfl
@[simp] theorem State.onSes_lcd : (s.onSes b f).lcd = s.lcd := rfl
@[simp] theorem State.onSes_canopy : (s.onSes b f).canopy = s.canopy := rfl
@[simp] theorem State.onSes_tag : (s.onSes b f).tag = s.tag := rfl
@[simp] theorem State.onSes_key : (s.onSes b f).key = s.key := rfl
@[simp] theorem State.onSes_mem : (s.onSes b f).mem = s.mem := rfl
@[simp] theorem State.onSes_log : (s.onSes b f).log = s.log := rfl
@[simp] theorem State.onSes_upd : (s.onSes b f).upd = s.upd := rfl
@[simp] theorem State.onSes_bak : (s.onSes b f).bak = s.bak := rfl
@[simp] theorem State.onSes_nv : (s.onSes b f).nv = s.nv := rfl

end

section
variable (s : State) (b : Bough) (f : SesLink → SesLink)

@[simp] theorem State.onSesL_pending : (s.onSesL b f).pending = s.pending := rfl
@[simp] theorem State.onSesL_freeCount : (s.onSesL b f).freeCount = s.freeCount := rfl
@[simp] theorem State.onSesL_trunk : (s.onSesL b f).trunk = s.trunk := rfl
@[simp] theorem State.onSesL_lat : (s.onSesL b f).lat = s.lat := rfl
@[simp] theorem State.onSesL_crypto : (s.onSesL b f).crypto = s.crypto := rfl
@[simp] theorem State.onSesL_supply : (s.onSesL b f).supply = s.supply := rfl
@[simp] theorem State.onSesL_start : (s.onSesL b f).start = s.start := rfl
@[simp] theorem State.onSesL_host : (s.onSesL b f).host = s.host := rfl
@[simp] theorem State.onSesL_ports : (s.onSesL b f).ports = s.ports := rfl
@[simp] theorem State.onSesL_links : (s.onSesL b f).links = s.links := rfl
@[simp] theorem State.onSesL_assoc : (s.onSesL b f).assoc = s.assoc := rfl
@[simp] theorem State.onSesL_ses : (s.onSesL b f).ses = s.ses := rfl
@[simp] theorem State.onSesL_sesL : (s.onSesL b f).sesL = modAt s.sesL b f := rfl
@[simp] theorem State.onSesL_sesDev : (s.onSesL b f).sesDev = s.sesDev := rfl
@[simp] theorem State.onSesL_saf : (s.onSesL b f).saf = s.saf := rfl
@[simp] theorem State.onSesL_meas : (s.onSesL b f).meas = s.meas := rfl
@[simp] theorem State.onSesL_safDev : (s.onSesL b f).safDev = s.safDev := rfl
@[simp] theorem State.onSesL_mtr : (s.onSesL b f).mtr = s.mtr := rfl
@[simp] theorem State.onSesL_nrg : (s.onSesL b f).nrg = s.nrg := rfl
@[simp] theorem State.onSesL_avg : (s.onSesL b f).avg = s.avg := rfl
@[simp] theorem State.onSesL_nst : (s.onSesL b f).nst = s.nst := rfl
@[simp] theorem State.onSesL_bilB : (s.onSesL b f).bilB = s.bilB := rfl
@[simp] theorem State.onSesL_bil : (s.onSesL b f).bil = s.bil := rfl
@[simp] theorem State.onSesL_aux : (s.onSesL b f).aux = s.aux := rfl
@[simp] theorem State.onSesL_auxDev : (s.onSesL b f).auxDev = s.auxDev := rfl
@[simp] theorem State.onSesL_lcd : (s.onSesL b f).lcd = s.lcd := rfl
@[simp] theorem State.onSesL_canopy : (s.onSesL b f).canopy = s.canopy := rfl
@[simp] theorem State.onSesL_tag : (s.onSesL b f).tag = s.tag := rfl
@[simp] theorem State.onSesL_key : (s.onSesL b f).key = s.key := rfl
@[simp] theorem State.onSesL_mem : (s.onSesL b f).mem = s.mem := rfl
@[simp] theorem State.onSesL_log : (s.onSesL b f).log = s.log := rfl
@[simp] theorem State.onSesL_upd : (s.onSesL b f).upd = s.upd := rfl
@[simp] theorem State.onSesL_bak : (s.onSesL b f).bak = s.bak := rfl
@[simp] theorem State.onSesL_nv : (s.onSesL b f).nv = s.nv := rfl

end

section
variable (s : State) (b : Bough) (f : SafBough → SafBough)

@[simp] theorem State.onSaf_pending : (s.onSaf b f).pending = s.pending := rfl
@[simp] theorem State.onSaf_freeCount : (s.onSaf b f).freeCount = s.freeCount := rfl
@[simp] theorem State.onSaf_trunk : (s.onSaf b f).trunk = s.trunk := rfl
@[simp] theorem State.onSaf_lat : (s.onSaf b f).lat = s.lat := rfl
@[simp] theorem State.onSaf_crypto : (s.onSaf b f).crypto = s.crypto := rfl
@[simp] theorem State.onSaf_supply : (s.onSaf b f).supply = s.supply := rfl
@[simp] theorem State.onSaf_start : (s.onSaf b f).start = s.start := rfl
@[simp] theorem State.onSaf_host : (s.onSaf b f).host = s.host := rfl
@[simp] theorem State.onSaf_ports : (s.onSaf b f).ports = s.ports := rfl
@[simp] theorem State.onSaf_links : (s.onSaf b f).links = s.links := rfl
@[simp] theorem State.onSaf_assoc : (s.onSaf b f).assoc = s.assoc := rfl
@[simp] theorem State.onSaf_ses : (s.onSaf b f).ses = s.ses := rfl
@[simp] theorem State.onSaf_sesL : (s.onSaf b f).sesL = s.sesL := rfl
@[simp] theorem State.onSaf_sesDev : (s.onSaf b f).sesDev = s.sesDev := rfl
@[simp] theorem State.onSaf_saf : (s.onSaf b f).saf = modAt s.saf b f := rfl
@[simp] theorem State.onSaf_meas : (s.onSaf b f).meas = s.meas := rfl
@[simp] theorem State.onSaf_safDev : (s.onSaf b f).safDev = s.safDev := rfl
@[simp] theorem State.onSaf_mtr : (s.onSaf b f).mtr = s.mtr := rfl
@[simp] theorem State.onSaf_nrg : (s.onSaf b f).nrg = s.nrg := rfl
@[simp] theorem State.onSaf_avg : (s.onSaf b f).avg = s.avg := rfl
@[simp] theorem State.onSaf_nst : (s.onSaf b f).nst = s.nst := rfl
@[simp] theorem State.onSaf_bilB : (s.onSaf b f).bilB = s.bilB := rfl
@[simp] theorem State.onSaf_bil : (s.onSaf b f).bil = s.bil := rfl
@[simp] theorem State.onSaf_aux : (s.onSaf b f).aux = s.aux := rfl
@[simp] theorem State.onSaf_auxDev : (s.onSaf b f).auxDev = s.auxDev := rfl
@[simp] theorem State.onSaf_lcd : (s.onSaf b f).lcd = s.lcd := rfl
@[simp] theorem State.onSaf_canopy : (s.onSaf b f).canopy = s.canopy := rfl
@[simp] theorem State.onSaf_tag : (s.onSaf b f).tag = s.tag := rfl
@[simp] theorem State.onSaf_key : (s.onSaf b f).key = s.key := rfl
@[simp] theorem State.onSaf_mem : (s.onSaf b f).mem = s.mem := rfl
@[simp] theorem State.onSaf_log : (s.onSaf b f).log = s.log := rfl
@[simp] theorem State.onSaf_upd : (s.onSaf b f).upd = s.upd := rfl
@[simp] theorem State.onSaf_bak : (s.onSaf b f).bak = s.bak := rfl
@[simp] theorem State.onSaf_nv : (s.onSaf b f).nv = s.nv := rfl

end

section
variable (s : State) (b : Bough) (f : SafMeas → SafMeas)

@[simp] theorem State.onMeas_pending : (s.onMeas b f).pending = s.pending := rfl
@[simp] theorem State.onMeas_freeCount : (s.onMeas b f).freeCount = s.freeCount := rfl
@[simp] theorem State.onMeas_trunk : (s.onMeas b f).trunk = s.trunk := rfl
@[simp] theorem State.onMeas_lat : (s.onMeas b f).lat = s.lat := rfl
@[simp] theorem State.onMeas_crypto : (s.onMeas b f).crypto = s.crypto := rfl
@[simp] theorem State.onMeas_supply : (s.onMeas b f).supply = s.supply := rfl
@[simp] theorem State.onMeas_start : (s.onMeas b f).start = s.start := rfl
@[simp] theorem State.onMeas_host : (s.onMeas b f).host = s.host := rfl
@[simp] theorem State.onMeas_ports : (s.onMeas b f).ports = s.ports := rfl
@[simp] theorem State.onMeas_links : (s.onMeas b f).links = s.links := rfl
@[simp] theorem State.onMeas_assoc : (s.onMeas b f).assoc = s.assoc := rfl
@[simp] theorem State.onMeas_ses : (s.onMeas b f).ses = s.ses := rfl
@[simp] theorem State.onMeas_sesL : (s.onMeas b f).sesL = s.sesL := rfl
@[simp] theorem State.onMeas_sesDev : (s.onMeas b f).sesDev = s.sesDev := rfl
@[simp] theorem State.onMeas_saf : (s.onMeas b f).saf = s.saf := rfl
@[simp] theorem State.onMeas_meas : (s.onMeas b f).meas = modAt s.meas b f := rfl
@[simp] theorem State.onMeas_safDev : (s.onMeas b f).safDev = s.safDev := rfl
@[simp] theorem State.onMeas_mtr : (s.onMeas b f).mtr = s.mtr := rfl
@[simp] theorem State.onMeas_nrg : (s.onMeas b f).nrg = s.nrg := rfl
@[simp] theorem State.onMeas_avg : (s.onMeas b f).avg = s.avg := rfl
@[simp] theorem State.onMeas_nst : (s.onMeas b f).nst = s.nst := rfl
@[simp] theorem State.onMeas_bilB : (s.onMeas b f).bilB = s.bilB := rfl
@[simp] theorem State.onMeas_bil : (s.onMeas b f).bil = s.bil := rfl
@[simp] theorem State.onMeas_aux : (s.onMeas b f).aux = s.aux := rfl
@[simp] theorem State.onMeas_auxDev : (s.onMeas b f).auxDev = s.auxDev := rfl
@[simp] theorem State.onMeas_lcd : (s.onMeas b f).lcd = s.lcd := rfl
@[simp] theorem State.onMeas_canopy : (s.onMeas b f).canopy = s.canopy := rfl
@[simp] theorem State.onMeas_tag : (s.onMeas b f).tag = s.tag := rfl
@[simp] theorem State.onMeas_key : (s.onMeas b f).key = s.key := rfl
@[simp] theorem State.onMeas_mem : (s.onMeas b f).mem = s.mem := rfl
@[simp] theorem State.onMeas_log : (s.onMeas b f).log = s.log := rfl
@[simp] theorem State.onMeas_upd : (s.onMeas b f).upd = s.upd := rfl
@[simp] theorem State.onMeas_bak : (s.onMeas b f).bak = s.bak := rfl
@[simp] theorem State.onMeas_nv : (s.onMeas b f).nv = s.nv := rfl

end

section
variable (s : State) (b : Bough) (f : Mtr → Mtr)

@[simp] theorem State.onMtr_pending : (s.onMtr b f).pending = s.pending := rfl
@[simp] theorem State.onMtr_freeCount : (s.onMtr b f).freeCount = s.freeCount := rfl
@[simp] theorem State.onMtr_trunk : (s.onMtr b f).trunk = s.trunk := rfl
@[simp] theorem State.onMtr_lat : (s.onMtr b f).lat = s.lat := rfl
@[simp] theorem State.onMtr_crypto : (s.onMtr b f).crypto = s.crypto := rfl
@[simp] theorem State.onMtr_supply : (s.onMtr b f).supply = s.supply := rfl
@[simp] theorem State.onMtr_start : (s.onMtr b f).start = s.start := rfl
@[simp] theorem State.onMtr_host : (s.onMtr b f).host = s.host := rfl
@[simp] theorem State.onMtr_ports : (s.onMtr b f).ports = s.ports := rfl
@[simp] theorem State.onMtr_links : (s.onMtr b f).links = s.links := rfl
@[simp] theorem State.onMtr_assoc : (s.onMtr b f).assoc = s.assoc := rfl
@[simp] theorem State.onMtr_ses : (s.onMtr b f).ses = s.ses := rfl
@[simp] theorem State.onMtr_sesL : (s.onMtr b f).sesL = s.sesL := rfl
@[simp] theorem State.onMtr_sesDev : (s.onMtr b f).sesDev = s.sesDev := rfl
@[simp] theorem State.onMtr_saf : (s.onMtr b f).saf = s.saf := rfl
@[simp] theorem State.onMtr_meas : (s.onMtr b f).meas = s.meas := rfl
@[simp] theorem State.onMtr_safDev : (s.onMtr b f).safDev = s.safDev := rfl
@[simp] theorem State.onMtr_mtr : (s.onMtr b f).mtr = modAt s.mtr b f := rfl
@[simp] theorem State.onMtr_nrg : (s.onMtr b f).nrg = s.nrg := rfl
@[simp] theorem State.onMtr_avg : (s.onMtr b f).avg = s.avg := rfl
@[simp] theorem State.onMtr_nst : (s.onMtr b f).nst = s.nst := rfl
@[simp] theorem State.onMtr_bilB : (s.onMtr b f).bilB = s.bilB := rfl
@[simp] theorem State.onMtr_bil : (s.onMtr b f).bil = s.bil := rfl
@[simp] theorem State.onMtr_aux : (s.onMtr b f).aux = s.aux := rfl
@[simp] theorem State.onMtr_auxDev : (s.onMtr b f).auxDev = s.auxDev := rfl
@[simp] theorem State.onMtr_lcd : (s.onMtr b f).lcd = s.lcd := rfl
@[simp] theorem State.onMtr_canopy : (s.onMtr b f).canopy = s.canopy := rfl
@[simp] theorem State.onMtr_tag : (s.onMtr b f).tag = s.tag := rfl
@[simp] theorem State.onMtr_key : (s.onMtr b f).key = s.key := rfl
@[simp] theorem State.onMtr_mem : (s.onMtr b f).mem = s.mem := rfl
@[simp] theorem State.onMtr_log : (s.onMtr b f).log = s.log := rfl
@[simp] theorem State.onMtr_upd : (s.onMtr b f).upd = s.upd := rfl
@[simp] theorem State.onMtr_bak : (s.onMtr b f).bak = s.bak := rfl
@[simp] theorem State.onMtr_nv : (s.onMtr b f).nv = s.nv := rfl

end

section
variable (s : State) (b : Bough) (f : Nrg → Nrg)

@[simp] theorem State.onNrg_pending : (s.onNrg b f).pending = s.pending := rfl
@[simp] theorem State.onNrg_freeCount : (s.onNrg b f).freeCount = s.freeCount := rfl
@[simp] theorem State.onNrg_trunk : (s.onNrg b f).trunk = s.trunk := rfl
@[simp] theorem State.onNrg_lat : (s.onNrg b f).lat = s.lat := rfl
@[simp] theorem State.onNrg_crypto : (s.onNrg b f).crypto = s.crypto := rfl
@[simp] theorem State.onNrg_supply : (s.onNrg b f).supply = s.supply := rfl
@[simp] theorem State.onNrg_start : (s.onNrg b f).start = s.start := rfl
@[simp] theorem State.onNrg_host : (s.onNrg b f).host = s.host := rfl
@[simp] theorem State.onNrg_ports : (s.onNrg b f).ports = s.ports := rfl
@[simp] theorem State.onNrg_links : (s.onNrg b f).links = s.links := rfl
@[simp] theorem State.onNrg_assoc : (s.onNrg b f).assoc = s.assoc := rfl
@[simp] theorem State.onNrg_ses : (s.onNrg b f).ses = s.ses := rfl
@[simp] theorem State.onNrg_sesL : (s.onNrg b f).sesL = s.sesL := rfl
@[simp] theorem State.onNrg_sesDev : (s.onNrg b f).sesDev = s.sesDev := rfl
@[simp] theorem State.onNrg_saf : (s.onNrg b f).saf = s.saf := rfl
@[simp] theorem State.onNrg_meas : (s.onNrg b f).meas = s.meas := rfl
@[simp] theorem State.onNrg_safDev : (s.onNrg b f).safDev = s.safDev := rfl
@[simp] theorem State.onNrg_mtr : (s.onNrg b f).mtr = s.mtr := rfl
@[simp] theorem State.onNrg_nrg : (s.onNrg b f).nrg = modAt s.nrg b f := rfl
@[simp] theorem State.onNrg_avg : (s.onNrg b f).avg = s.avg := rfl
@[simp] theorem State.onNrg_nst : (s.onNrg b f).nst = s.nst := rfl
@[simp] theorem State.onNrg_bilB : (s.onNrg b f).bilB = s.bilB := rfl
@[simp] theorem State.onNrg_bil : (s.onNrg b f).bil = s.bil := rfl
@[simp] theorem State.onNrg_aux : (s.onNrg b f).aux = s.aux := rfl
@[simp] theorem State.onNrg_auxDev : (s.onNrg b f).auxDev = s.auxDev := rfl
@[simp] theorem State.onNrg_lcd : (s.onNrg b f).lcd = s.lcd := rfl
@[simp] theorem State.onNrg_canopy : (s.onNrg b f).canopy = s.canopy := rfl
@[simp] theorem State.onNrg_tag : (s.onNrg b f).tag = s.tag := rfl
@[simp] theorem State.onNrg_key : (s.onNrg b f).key = s.key := rfl
@[simp] theorem State.onNrg_mem : (s.onNrg b f).mem = s.mem := rfl
@[simp] theorem State.onNrg_log : (s.onNrg b f).log = s.log := rfl
@[simp] theorem State.onNrg_upd : (s.onNrg b f).upd = s.upd := rfl
@[simp] theorem State.onNrg_bak : (s.onNrg b f).bak = s.bak := rfl
@[simp] theorem State.onNrg_nv : (s.onNrg b f).nv = s.nv := rfl

end

section
variable (s : State) (b : Bough) (f : NrgAvg → NrgAvg)

@[simp] theorem State.onAvg_pending : (s.onAvg b f).pending = s.pending := rfl
@[simp] theorem State.onAvg_freeCount : (s.onAvg b f).freeCount = s.freeCount := rfl
@[simp] theorem State.onAvg_trunk : (s.onAvg b f).trunk = s.trunk := rfl
@[simp] theorem State.onAvg_lat : (s.onAvg b f).lat = s.lat := rfl
@[simp] theorem State.onAvg_crypto : (s.onAvg b f).crypto = s.crypto := rfl
@[simp] theorem State.onAvg_supply : (s.onAvg b f).supply = s.supply := rfl
@[simp] theorem State.onAvg_start : (s.onAvg b f).start = s.start := rfl
@[simp] theorem State.onAvg_host : (s.onAvg b f).host = s.host := rfl
@[simp] theorem State.onAvg_ports : (s.onAvg b f).ports = s.ports := rfl
@[simp] theorem State.onAvg_links : (s.onAvg b f).links = s.links := rfl
@[simp] theorem State.onAvg_assoc : (s.onAvg b f).assoc = s.assoc := rfl
@[simp] theorem State.onAvg_ses : (s.onAvg b f).ses = s.ses := rfl
@[simp] theorem State.onAvg_sesL : (s.onAvg b f).sesL = s.sesL := rfl
@[simp] theorem State.onAvg_sesDev : (s.onAvg b f).sesDev = s.sesDev := rfl
@[simp] theorem State.onAvg_saf : (s.onAvg b f).saf = s.saf := rfl
@[simp] theorem State.onAvg_meas : (s.onAvg b f).meas = s.meas := rfl
@[simp] theorem State.onAvg_safDev : (s.onAvg b f).safDev = s.safDev := rfl
@[simp] theorem State.onAvg_mtr : (s.onAvg b f).mtr = s.mtr := rfl
@[simp] theorem State.onAvg_nrg : (s.onAvg b f).nrg = s.nrg := rfl
@[simp] theorem State.onAvg_avg : (s.onAvg b f).avg = modAt s.avg b f := rfl
@[simp] theorem State.onAvg_nst : (s.onAvg b f).nst = s.nst := rfl
@[simp] theorem State.onAvg_bilB : (s.onAvg b f).bilB = s.bilB := rfl
@[simp] theorem State.onAvg_bil : (s.onAvg b f).bil = s.bil := rfl
@[simp] theorem State.onAvg_aux : (s.onAvg b f).aux = s.aux := rfl
@[simp] theorem State.onAvg_auxDev : (s.onAvg b f).auxDev = s.auxDev := rfl
@[simp] theorem State.onAvg_lcd : (s.onAvg b f).lcd = s.lcd := rfl
@[simp] theorem State.onAvg_canopy : (s.onAvg b f).canopy = s.canopy := rfl
@[simp] theorem State.onAvg_tag : (s.onAvg b f).tag = s.tag := rfl
@[simp] theorem State.onAvg_key : (s.onAvg b f).key = s.key := rfl
@[simp] theorem State.onAvg_mem : (s.onAvg b f).mem = s.mem := rfl
@[simp] theorem State.onAvg_log : (s.onAvg b f).log = s.log := rfl
@[simp] theorem State.onAvg_upd : (s.onAvg b f).upd = s.upd := rfl
@[simp] theorem State.onAvg_bak : (s.onAvg b f).bak = s.bak := rfl
@[simp] theorem State.onAvg_nv : (s.onAvg b f).nv = s.nv := rfl

end

section
variable (s : State) (b : Bough) (f : NrgStat → NrgStat)

@[simp] theorem State.onNst_pending : (s.onNst b f).pending = s.pending := rfl
@[simp] theorem State.onNst_freeCount : (s.onNst b f).freeCount = s.freeCount := rfl
@[simp] theorem State.onNst_trunk : (s.onNst b f).trunk = s.trunk := rfl
@[simp] theorem State.onNst_lat : (s.onNst b f).lat = s.lat := rfl
@[simp] theorem State.onNst_crypto : (s.onNst b f).crypto = s.crypto := rfl
@[simp] theorem State.onNst_supply : (s.onNst b f).supply = s.supply := rfl
@[simp] theorem State.onNst_start : (s.onNst b f).start = s.start := rfl
@[simp] theorem State.onNst_host : (s.onNst b f).host = s.host := rfl
@[simp] theorem State.onNst_ports : (s.onNst b f).ports = s.ports := rfl
@[simp] theorem State.onNst_links : (s.onNst b f).links = s.links := rfl
@[simp] theorem State.onNst_assoc : (s.onNst b f).assoc = s.assoc := rfl
@[simp] theorem State.onNst_ses : (s.onNst b f).ses = s.ses := rfl
@[simp] theorem State.onNst_sesL : (s.onNst b f).sesL = s.sesL := rfl
@[simp] theorem State.onNst_sesDev : (s.onNst b f).sesDev = s.sesDev := rfl
@[simp] theorem State.onNst_saf : (s.onNst b f).saf = s.saf := rfl
@[simp] theorem State.onNst_meas : (s.onNst b f).meas = s.meas := rfl
@[simp] theorem State.onNst_safDev : (s.onNst b f).safDev = s.safDev := rfl
@[simp] theorem State.onNst_mtr : (s.onNst b f).mtr = s.mtr := rfl
@[simp] theorem State.onNst_nrg : (s.onNst b f).nrg = s.nrg := rfl
@[simp] theorem State.onNst_avg : (s.onNst b f).avg = s.avg := rfl
@[simp] theorem State.onNst_nst : (s.onNst b f).nst = modAt s.nst b f := rfl
@[simp] theorem State.onNst_bilB : (s.onNst b f).bilB = s.bilB := rfl
@[simp] theorem State.onNst_bil : (s.onNst b f).bil = s.bil := rfl
@[simp] theorem State.onNst_aux : (s.onNst b f).aux = s.aux := rfl
@[simp] theorem State.onNst_auxDev : (s.onNst b f).auxDev = s.auxDev := rfl
@[simp] theorem State.onNst_lcd : (s.onNst b f).lcd = s.lcd := rfl
@[simp] theorem State.onNst_canopy : (s.onNst b f).canopy = s.canopy := rfl
@[simp] theorem State.onNst_tag : (s.onNst b f).tag = s.tag := rfl
@[simp] theorem State.onNst_key : (s.onNst b f).key = s.key := rfl
@[simp] theorem State.onNst_mem : (s.onNst b f).mem = s.mem := rfl
@[simp] theorem State.onNst_log : (s.onNst b f).log = s.log := rfl
@[simp] theorem State.onNst_upd : (s.onNst b f).upd = s.upd := rfl
@[simp] theorem State.onNst_bak : (s.onNst b f).bak = s.bak := rfl
@[simp] theorem State.onNst_nv : (s.onNst b f).nv = s.nv := rfl

end

section
variable (s : State) (b : Bough) (f : BilBough → BilBough)

@[simp] theorem State.onBil_pending : (s.onBil b f).pending = s.pending := rfl
@[simp] theorem State.onBil_freeCount : (s.onBil b f).freeCount = s.freeCount := rfl
@[simp] theorem State.onBil_trunk : (s.onBil b f).trunk = s.trunk := rfl
@[simp] theorem State.onBil_lat : (s.onBil b f).lat = s.lat := rfl
@[simp] theorem State.onBil_crypto : (s.onBil b f).crypto = s.crypto := rfl
@[simp] theorem State.onBil_supply : (s.onBil b f).supply = s.supply := rfl
@[simp] theorem State.onBil_start : (s.onBil b f).start = s.start := rfl
@[simp] theorem State.onBil_host : (s.onBil b f).host = s.host := rfl
@[simp] theorem State.onBil_ports : (s.onBil b f).ports = s.ports := rfl
@[simp] theorem State.onBil_links : (s.onBil b f).links = s.links := rfl
@[simp] theorem State.onBil_assoc : (s.onBil b f).assoc = s.assoc := rfl
@[simp] theorem State.onBil_ses : (s.onBil b f).ses = s.ses := rfl
@[simp] theorem State.onBil_sesL : (s.onBil b f).sesL = s.sesL := rfl
@[simp] theorem State.onBil_sesDev : (s.onBil b f).sesDev = s.sesDev := rfl
@[simp] theorem State.onBil_saf : (s.onBil b f).saf = s.saf := rfl
@[simp] theorem State.onBil_meas : (s.onBil b f).meas = s.meas := rfl
@[simp] theorem State.onBil_safDev : (s.onBil b f).safDev = s.safDev := rfl
@[simp] theorem State.onBil_mtr : (s.onBil b f).mtr = s.mtr := rfl
@[simp] theorem State.onBil_nrg : (s.onBil b f).nrg = s.nrg := rfl
@[simp] theorem State.onBil_avg : (s.onBil b f).avg = s.avg := rfl
@[simp] theorem State.onBil_nst : (s.onBil b f).nst = s.nst := rfl
@[simp] theorem State.onBil_bilB : (s.onBil b f).bilB = modAt s.bilB b f := rfl
@[simp] theorem State.onBil_bil : (s.onBil b f).bil = s.bil := rfl
@[simp] theorem State.onBil_aux : (s.onBil b f).aux = s.aux := rfl
@[simp] theorem State.onBil_auxDev : (s.onBil b f).auxDev = s.auxDev := rfl
@[simp] theorem State.onBil_lcd : (s.onBil b f).lcd = s.lcd := rfl
@[simp] theorem State.onBil_canopy : (s.onBil b f).canopy = s.canopy := rfl
@[simp] theorem State.onBil_tag : (s.onBil b f).tag = s.tag := rfl
@[simp] theorem State.onBil_key : (s.onBil b f).key = s.key := rfl
@[simp] theorem State.onBil_mem : (s.onBil b f).mem = s.mem := rfl
@[simp] theorem State.onBil_log : (s.onBil b f).log = s.log := rfl
@[simp] theorem State.onBil_upd : (s.onBil b f).upd = s.upd := rfl
@[simp] theorem State.onBil_bak : (s.onBil b f).bak = s.bak := rfl
@[simp] theorem State.onBil_nv : (s.onBil b f).nv = s.nv := rfl

end

section
variable (s : State) (b : Fin 32) (f : AuxCh → AuxCh)

@[simp] theorem State.onAux_pending : (s.onAux b f).pending = s.pending := rfl
@[simp] theorem State.onAux_freeCount : (s.onAux b f).freeCount = s.freeCount := rfl
@[simp] theorem State.onAux_trunk : (s.onAux b f).trunk = s.trunk := rfl
@[simp] theorem State.onAux_lat : (s.onAux b f).lat = s.lat := rfl
@[simp] theorem State.onAux_crypto : (s.onAux b f).crypto = s.crypto := rfl
@[simp] theorem State.onAux_supply : (s.onAux b f).supply = s.supply := rfl
@[simp] theorem State.onAux_start : (s.onAux b f).start = s.start := rfl
@[simp] theorem State.onAux_host : (s.onAux b f).host = s.host := rfl
@[simp] theorem State.onAux_ports : (s.onAux b f).ports = s.ports := rfl
@[simp] theorem State.onAux_links : (s.onAux b f).links = s.links := rfl
@[simp] theorem State.onAux_assoc : (s.onAux b f).assoc = s.assoc := rfl
@[simp] theorem State.onAux_ses : (s.onAux b f).ses = s.ses := rfl
@[simp] theorem State.onAux_sesL : (s.onAux b f).sesL = s.sesL := rfl
@[simp] theorem State.onAux_sesDev : (s.onAux b f).sesDev = s.sesDev := rfl
@[simp] theorem State.onAux_saf : (s.onAux b f).saf = s.saf := rfl
@[simp] theorem State.onAux_meas : (s.onAux b f).meas = s.meas := rfl
@[simp] theorem State.onAux_safDev : (s.onAux b f).safDev = s.safDev := rfl
@[simp] theorem State.onAux_mtr : (s.onAux b f).mtr = s.mtr := rfl
@[simp] theorem State.onAux_nrg : (s.onAux b f).nrg = s.nrg := rfl
@[simp] theorem State.onAux_avg : (s.onAux b f).avg = s.avg := rfl
@[simp] theorem State.onAux_nst : (s.onAux b f).nst = s.nst := rfl
@[simp] theorem State.onAux_bilB : (s.onAux b f).bilB = s.bilB := rfl
@[simp] theorem State.onAux_bil : (s.onAux b f).bil = s.bil := rfl
@[simp] theorem State.onAux_aux : (s.onAux b f).aux = modAt s.aux b f := rfl
@[simp] theorem State.onAux_auxDev : (s.onAux b f).auxDev = s.auxDev := rfl
@[simp] theorem State.onAux_lcd : (s.onAux b f).lcd = s.lcd := rfl
@[simp] theorem State.onAux_canopy : (s.onAux b f).canopy = s.canopy := rfl
@[simp] theorem State.onAux_tag : (s.onAux b f).tag = s.tag := rfl
@[simp] theorem State.onAux_key : (s.onAux b f).key = s.key := rfl
@[simp] theorem State.onAux_mem : (s.onAux b f).mem = s.mem := rfl
@[simp] theorem State.onAux_log : (s.onAux b f).log = s.log := rfl
@[simp] theorem State.onAux_upd : (s.onAux b f).upd = s.upd := rfl
@[simp] theorem State.onAux_bak : (s.onAux b f).bak = s.bak := rfl
@[simp] theorem State.onAux_nv : (s.onAux b f).nv = s.nv := rfl

end

end Sys2Proof.Machine
end

