-- ==== Sys2Proof/Laws/Frame.lean ====
section
/-! SUPPORT. Frames put together: a chain of operations changes no more than its links change. -/

set_option Elab.async false

namespace Sys2Proof.Safety

open Sys2Proof.Machine

theorem Part.same_refl (p : Part) (s : State) : p.same s s := by cases p <;> rfl

theorem Part.same_trans (p : Part) {s t u : State} (h : p.same s t) (k : p.same t u) : p.same s u := by
  cases p <;> exact Eq.trans k h

theorem Kept.refl (w : Nat) (s : State) : Kept w s s := fun p _ => p.same_refl s

/-- The set v lies within w. -/
def within (v w : Nat) : Bool := v ||| w == w

theorem testBit_of_within {v w i : Nat} (h : within v w = true) (hw : w.testBit i = false) : v.testBit i = false := by
  have e : v ||| w = w := by simpa [within] using h
  rw [← e, Nat.testBit_or, Bool.or_eq_false_iff] at hw
  exact hw.1

theorem Kept.mono {v w : Nat} {s t : State} (h : Kept v s t) (hs : within v w = true) : Kept w s t :=
  fun p hp => h p (testBit_of_within hs hp)

theorem Kept.trans {v w : Nat} {s t u : State} (h : Kept w s t) (k : Kept v t u) (hs : within v w = true) : Kept w s u :=
  fun p hp => p.same_trans (h p hp) (k p (testBit_of_within hs hp))

/-- An update of the last state. The equation on the queue says which state is updated. -/
theorem Kept.set {w : Nat} {s t u : State} (_ : u.pending = t.pending) (h : Kept w s t) (k : Kept w t u) : Kept w s u :=
  fun p hp => p.same_trans (h p hp) (k p hp)

/-- One update of a state changes nothing outside the parts of the mask w. -/
structure Upd (w : Nat) (s t : State) : Prop where
  kept : Kept w s t

/-- Kept, of a state written out field by field. -/
structure KeptMk (w : Nat) (s t : State) : Prop where
  kept : Kept w s t

theorem kept_mk {w : Nat} {s : State} {x0 x1 x2 x3 x4 x5 x6 x7 x8 x9 x10 x11 x12 x13 x14 x15 x16 x17 x18 x19 x20 x21 x22 x23 x24 x25 x26 x27 x28 x29 x30 x31 x32 x33} :
    Kept w s (State.mk x0 x1 x2 x3 x4 x5 x6 x7 x8 x9 x10 x11 x12 x13 x14 x15 x16 x17 x18 x19 x20 x21 x22 x23 x24 x25 x26 x27 x28 x29 x30 x31 x32 x33)
    = KeptMk w s (State.mk x0 x1 x2 x3 x4 x5 x6 x7 x8 x9 x10 x11 x12 x13 x14 x15 x16 x17 x18 x19 x20 x21 x22 x23 x24 x25 x26 x27 x28 x29 x30 x31 x32 x33) :=
  propext ⟨fun h => ⟨h⟩, fun h => h.kept⟩

/-- As Kept.set, for a state written out field by field. -/
theorem KeptMk.set {w : Nat} {s t : State} {x0 x1 x2 x3 x4 x5 x6 x7 x8 x9 x10 x11 x12 x13 x14 x15 x16 x17 x18 x19 x20 x21 x22 x23 x24 x25 x26 x27 x28 x29 x30 x31 x32 x33} (e : x0 = t.pending) (h : Kept w s t)
    (k : Upd w t (State.mk x0 x1 x2 x3 x4 x5 x6 x7 x8 x9 x10 x11 x12 x13 x14 x15 x16 x17 x18 x19 x20 x21 x22 x23 x24 x25 x26 x27 x28 x29 x30 x31 x32 x33)) :
    KeptMk w s (State.mk x0 x1 x2 x3 x4 x5 x6 x7 x8 x9 x10 x11 x12 x13 x14 x15 x16 x17 x18 x19 x20 x21 x22 x23 x24 x25 x26 x27 x28 x29 x30 x31 x32 x33) := ⟨.set e h k.kept⟩

/-- One update, part by part. -/
theorem Upd.of {w : Nat} {t : State} {x0 x1 x2 x3 x4 x5 x6 x7 x8 x9 x10 x11 x12 x13 x14 x15 x16 x17 x18 x19 x20 x21 x22 x23 x24 x25 x26 x27 x28 x29 x30 x31 x32 x33}
    (hqueue : w.testBit (Part.bit .queue) = false → x0 = t.pending)
    (hfree : w.testBit (Part.bit .free) = false → x1 = t.freeCount)
    (htrunk : w.testBit (Part.bit .trunk) = false → x2 = t.trunk)
    (hlattice : w.testBit (Part.bit .lattice) = false → x3 = t.lat)
    (hcrypto : w.testBit (Part.bit .crypto) = false → x4 = t.crypto)
    (hsupply : w.testBit (Part.bit .supply) = false → x5 = t.supply)
    (hstart : w.testBit (Part.bit .start) = false → x6 = t.start)
    (hpages : w.testBit (Part.bit .pages) = false → (x7.shadow, x7.applied) = (t.host.shadow, t.host.applied))
    (hcommits : w.testBit (Part.bit .commits) = false → (x7.snaps, x7.pendingC, x7.rejected, x7.passed, x7.doneC, x7.safLeft, x7.sesLeft, x7.vehLeft, x7.mtrLeft, x7.nrgLeft, x7.devLeft, x7.superseded) = (t.host.snaps, t.host.pendingC, t.host.rejected, t.host.passed, t.host.doneC, t.host.safLeft, t.host.sesLeft, t.host.vehLeft, t.host.mtrLeft, t.host.nrgLeft, t.host.devLeft, t.host.superseded))
    (hevents : w.testBit (Part.bit .events) = false → (x7.eq, x7.eqSeq, x7.eqLost, x7.lostNoted, x7.irq) = (t.host.eq, t.host.eqSeq, t.host.eqLost, t.host.lostNoted, t.host.irq))
    (hcommands : w.testBit (Part.bit .commands) = false → (x7.cq, x7.accepted, x7.dropped, x7.lastReason) = (t.host.cq, t.host.accepted, t.host.dropped, t.host.lastReason))
    (hbulk : w.testBit (Part.bit .bulk) = false → (x7.bulkState, x7.bulkType, x7.bulkLen, x7.bulk) = (t.host.bulkState, t.host.bulkType, t.host.bulkLen, t.host.bulk))
    (hlink : w.testBit (Part.bit .link) = false → (x7.irqEn, x7.scratch, x7.ignoredW, x7.badOp, x7.cut, x7.bistRunning, x7.bistRetry, x7.csLow) = (t.host.irqEn, t.host.scratch, t.host.ignoredW, t.host.badOp, t.host.cut, t.host.bistRunning, t.host.bistRetry, t.host.csLow))
    (hports : w.testBit (Part.bit .ports) = false → x8 = t.ports)
    (hmodems : w.testBit (Part.bit .modems) = false → x9 = t.links)
    (hassociation : w.testBit (Part.bit .association) = false → x10 = t.assoc)
    (hsessions : w.testBit (Part.bit .sessions) = false → x11 = t.ses)
    (hpowerLinks : w.testBit (Part.bit .powerLinks) = false → x12 = t.sesL)
    (hsessionDev : w.testBit (Part.bit .sessionDev) = false → x13 = t.sesDev)
    (hcoils : w.testBit (Part.bit .coils) = false → x14.map coilView = t.saf.map coilView)
    (hsafety : w.testBit (Part.bit .safety) = false → x14 = t.saf)
    (hmeasures : w.testBit (Part.bit .measures) = false → x15 = t.meas)
    (hstops : w.testBit (Part.bit .stops) = false → (x16.fsCauses, x16.stop) = (t.safDev.fsCauses, t.safDev.stop))
    (hpowerDie : w.testBit (Part.bit .powerDie) = false → x16 = t.safDev)
    (hsampling : w.testBit (Part.bit .sampling) = false → x17 = t.mtr)
    (henergy : w.testBit (Part.bit .energy) = false → x18 = t.nrg)
    (haverages : w.testBit (Part.bit .averages) = false → x19 = t.avg)
    (hquantities : w.testBit (Part.bit .quantities) = false → x20 = t.nst)
    (hbilled : w.testBit (Part.bit .billed) = false → x21 = t.bilB)
    (hheartwood : w.testBit (Part.bit .heartwood) = false → x22 = t.bil)
    (hloads : w.testBit (Part.bit .loads) = false → x23 = t.aux)
    (hloadDev : w.testBit (Part.bit .loadDev) = false → x24 = t.auxDev)
    (hdisplay : w.testBit (Part.bit .display) = false → x25 = t.lcd)
    (hcanopy : w.testBit (Part.bit .canopy) = false → x26 = t.canopy)
    (htag : w.testBit (Part.bit .tag) = false → x27 = t.tag)
    (hmirror : w.testBit (Part.bit .mirror) = false → x27.mirror = t.tag.mirror)
    (hkeys : w.testBit (Part.bit .keys) = false → x28 = t.key)
    (hmemory : w.testBit (Part.bit .memory) = false → x29 = t.mem)
    (hcells : w.testBit (Part.bit .cells) = false → x29.cells = t.mem.cells)
    (hrecorder : w.testBit (Part.bit .recorder) = false → x30 = t.log)
    (hupdate : w.testBit (Part.bit .update) = false → x31 = t.upd)
    (hbackup : w.testBit (Part.bit .backup) = false → x32 = t.bak)
    (hfuses : w.testBit (Part.bit .fuses) = false → (x33.serial, x33.installSecret, x33.factoryMap, x33.rsvInput) = (t.nv.serial, t.nv.installSecret, t.nv.factoryMap, t.nv.rsvInput))
    (hlifecycle : w.testBit (Part.bit .lifecycle) = false → x33.life = t.nv.life)
    (hflash : w.testBit (Part.bit .flash) = false → x33.flash = t.nv.flash)
    (htagMem : w.testBit (Part.bit .tagMem) = false → x33.tagMem = t.nv.tagMem)
    (hstored : w.testBit (Part.bit .stored) = false → (x33.fieldMap, x33.tagHdr, x33.fsTable) = (t.nv.fieldMap, t.nv.tagHdr, t.nv.fsTable)) :
    Upd w t (State.mk x0 x1 x2 x3 x4 x5 x6 x7 x8 x9 x10 x11 x12 x13 x14 x15 x16 x17 x18 x19 x20 x21 x22 x23 x24 x25 x26 x27 x28 x29 x30 x31 x32 x33) := by
  refine ⟨fun p hp => ?_⟩
  cases p
  · exact hqueue hp
  · exact hfree hp
  · exact htrunk hp
  · exact hlattice hp
  · exact hcrypto hp
  · exact hsupply hp
  · exact hstart hp
  · exact hpages hp
  · exact hcommits hp
  · exact hevents hp
  · exact hcommands hp
  · exact hbulk hp
  · exact hlink hp
  · exact hports hp
  · exact hmodems hp
  · exact hassociation hp
  · exact hsessions hp
  · exact hpowerLinks hp
  · exact hsessionDev hp
  · exact hcoils hp
  · exact hsafety hp
  · exact hmeasures hp
  · exact hstops hp
  · exact hpowerDie hp
  · exact hsampling hp
  · exact henergy hp
  · exact haverages hp
  · exact hquantities hp
  · exact hbilled hp
  · exact hheartwood hp
  · exact hloads hp
  · exact hloadDev hp
  · exact hdisplay hp
  · exact hcanopy hp
  · exact htag hp
  · exact hmirror hp
  · exact hkeys hp
  · exact hmemory hp
  · exact hcells hp
  · exact hrecorder hp
  · exact hupdate hp
  · exact hbackup hp
  · exact hfuses hp
  · exact hlifecycle hp
  · exact hflash hp
  · exact htagMem hp
  · exact hstored hp

theorem Kept.ite {w : Nat} {s t u : State} {c : Prop} [Decidable c] (h : c → Kept w s t) (k : ¬c → Kept w s u) :
    Kept w s (if c then t else u) := by
  split
  · exact h ‹_›
  · exact k ‹_›

/-- What an answer keeps when it is a next state. -/
def KeptR (w : Nat) (s : State) (r : Res) : Prop := ∀ t, r = .next t → Kept w s t

theorem Kept.ofPair {α : Type} {w : Nat} {s t : State} {a : α} {x : α × State} (e : x = (a, t)) (h : Kept w s x.2) :
    Kept w s t := by
  rw [e] at h
  exact h

theorem Kept.foldl {α : Type} {w : Nat} {s t : State} (l : List α) (f : State → α → State) (h : Kept w s t)
    (hf : ∀ u x, Kept w s u → Kept w s (f u x)) : Kept w s (l.foldl f t) := by
  induction l generalizing t with
  | nil => exact h
  | cons x l ih => exact ih (hf t x h)

theorem Kept.foldlFst {α β : Type} {w : Nat} {s : State} (l : List α) (f : State × β → α → State × β) {a : State × β}
    (h : Kept w s a.1) (hf : ∀ x e, Kept w s x.1 → Kept w s (f x e).1) : Kept w s (l.foldl f a).1 := by
  induction l generalizing a with
  | nil => exact h
  | cons e l ih => exact ih (hf a e h)

theorem Kept.forBoughs {w : Nat} {s t : State} (f : Bough → State → State) (h : Kept w s t)
    (hf : ∀ b u, Kept w s u → Kept w s (f b u)) : Kept w s (forBoughs f t) :=
  .foldl _ _ h fun u b hu => hf b u hu

theorem Kept.forMask {w : Nat} {s t : State} (m : Nat) (f : Bough → State → State) (h : Kept w s t)
    (hf : ∀ b u, Kept w s u → Kept w s (f b u)) : Kept w s (forMask m f t) := by
  refine .forBoughs _ h fun b u hu => ?_
  split
  · exact hf b u hu
  · exact hu

/-! ## The events -/

theorem kept_of_port {s t : State} (h : PortKept s t) : Kept (parts [.events, .recorder]) s t := by
  intro p hp
  unfold PortKept at h
  rw [h]
  cases p <;> first | rfl | exact absurd hp (by decide)

theorem kept_of_log {s t : State} (h : LogKept s t) : Kept (parts [.recorder]) s t := by
  intro p hp
  unfold LogKept at h
  rw [h]
  cases p <;> first | rfl | exact absurd hp (by decide)

/-- An update of a bough's safety state leaves coils, latched codes and the closing sequence alone. -/
structure SameView (f : SafBough → SafBough) : Prop where
  same : ∀ x, coilView (f x) = coilView x

section
variable {w : Nat} {s t : State} (h : Kept w s t)
include h

theorem raiseIrq_changes (i : Nat) (hw : within (parts [.events]) w = true := by decide) : Kept w s (raiseIrq i t) :=
  h.trans (v := parts [.events]) (fun p hp => by cases p <;> first | rfl | exact absurd hp (by decide)) hw

theorem emit_changes (c b : Nat) (d : List Byte) (hw : within (parts [.events, .recorder]) w = true := by decide) :
    Kept w s (emit c b d t) := h.trans (kept_of_port (emit_kept c b d t)) hw

theorem emitAtStart_changes (c b : Nat) (d : List Byte)
    (hw : within (parts [.events, .recorder]) w = true := by decide) : Kept w s (emitAtStart c b d t) :=
  h.trans (kept_of_port (emitAtStart_kept c b d t)) hw

theorem answer_changes (c b g : Nat) (d : List Byte) (hw : within (parts [.events, .recorder]) w = true := by decide) :
    Kept w s (answer c b g d t) := h.trans (kept_of_port (answer_kept c b g d t)) hw

theorem postEvent_changes (c b g : Nat) (a : Bool) (d : List Byte)
    (hw : within (parts [.events, .recorder]) w = true := by decide) : Kept w s (postEvent c b g a d t) :=
  h.trans (kept_of_port (postEvent_kept c b g a d t)) hw

theorem recordEvent_changes (c b f : Nat) (d : List Byte) (hw : within (parts [.recorder]) w = true := by decide) :
    Kept w s (recordEvent c b f d t) := h.trans (kept_of_log (recordEvent_log c b f d t)) hw

theorem decideRec_changes (r : LogRec) (hw : within (parts [.recorder]) w = true := by decide) :
    Kept w s (decideRec r t) := h.trans (kept_of_log (decideRec_kept r t)) hw

theorem enqueueRec_changes (r : LogRec) (hw : within (parts [.recorder]) w = true := by decide) :
    Kept w s (enqueueRec r t) := h.trans (kept_of_log (enqueueRec_kept r t)) hw

theorem free_changes (n : Nat) (hw : within (parts [.free]) w = true := by decide) : Kept w s (t.free n).2 :=
  h.trans (v := parts [.free]) (fun p hp => by cases p <;> first | rfl | exact absurd hp (by decide)) hw

/-! ## The updates of one bough's part -/

theorem onPort_changes (b : Bough) (f : Port → Port) (hw : within (parts [.ports]) w = true := by decide) :
    Kept w s (t.onPort b f) :=
  h.trans (v := parts [.ports]) (fun p hp => by cases p <;> first | rfl | exact absurd hp (by decide)) hw

theorem onLink_changes (b : Bough) (f : PortLink → PortLink) (hw : within (parts [.modems]) w = true := by decide) :
    Kept w s (t.onLink b f) :=
  h.trans (v := parts [.modems]) (fun p hp => by cases p <;> first | rfl | exact absurd hp (by decide)) hw

theorem onSes_changes (b : Bough) (f : Session → Session) (hw : within (parts [.sessions]) w = true := by decide) :
    Kept w s (t.onSes b f) :=
  h.trans (v := parts [.sessions]) (fun p hp => by cases p <;> first | rfl | exact absurd hp (by decide)) hw

theorem onSesL_changes (b : Bough) (f : SesLink → SesLink) (hw : within (parts [.powerLinks]) w = true := by decide) :
    Kept w s (t.onSesL b f) :=
  h.trans (v := parts [.powerLinks]) (fun p hp => by cases p <;> first | rfl | exact absurd hp (by decide)) hw

theorem onMeas_changes (b : Bough) (f : SafMeas → SafMeas) (hw : within (parts [.measures]) w = true := by decide) :
    Kept w s (t.onMeas b f) :=
  h.trans (v := parts [.measures]) (fun p hp => by cases p <;> first | rfl | exact absurd hp (by decide)) hw

theorem onMtr_changes (b : Bough) (f : Mtr → Mtr) (hw : within (parts [.sampling]) w = true := by decide) :
    Kept w s (t.onMtr b f) :=
  h.trans (v := parts [.sampling]) (fun p hp => by cases p <;> first | rfl | exact absurd hp (by decide)) hw

theorem onNrg_changes (b : Bough) (f : Nrg → Nrg) (hw : within (parts [.energy]) w = true := by decide) :
    Kept w s (t.onNrg b f) :=
  h.trans (v := parts [.energy]) (fun p hp => by cases p <;> first | rfl | exact absurd hp (by decide)) hw

theorem onAvg_changes (b : Bough) (f : NrgAvg → NrgAvg) (hw : within (parts [.averages]) w = true := by decide) :
    Kept w s (t.onAvg b f) :=
  h.trans (v := parts [.averages]) (fun p hp => by cases p <;> first | rfl | exact absurd hp (by decide)) hw

theorem onNst_changes (b : Bough) (f : NrgStat → NrgStat) (hw : within (parts [.quantities]) w = true := by decide) :
    Kept w s (t.onNst b f) :=
  h.trans (v := parts [.quantities]) (fun p hp => by cases p <;> first | rfl | exact absurd hp (by decide)) hw

theorem onBil_changes (b : Bough) (f : BilBough → BilBough) (hw : within (parts [.billed]) w = true := by decide) :
    Kept w s (t.onBil b f) :=
  h.trans (v := parts [.billed]) (fun p hp => by cases p <;> first | rfl | exact absurd hp (by decide)) hw

theorem onAux_changes (b : Fin 32) (f : AuxCh → AuxCh) (hw : within (parts [.loads]) w = true := by decide) :
    Kept w s (t.onAux b f) :=
  h.trans (v := parts [.loads]) (fun p hp => by cases p <;> first | rfl | exact absurd hp (by decide)) hw

theorem onSaf_changes (b : Bough) (f : SafBough → SafBough)
    (hw : within (parts [.safety, .coils]) w = true := by decide) : Kept w s (t.onSaf b f) :=
  h.trans (v := parts [.safety, .coils]) (fun p hp => by cases p <;> first | rfl | exact absurd hp (by decide)) hw

omit h in
theorem SameView.of {f : SafBough → SafBough} (hf : ∀ x, coilView (f x) = coilView x) : SameView f := ⟨hf⟩

/-- An update of a bough's safety state that leaves coils, latched codes and the closing sequence alone. -/
theorem onSaf_changes_view (b : Bough) (f : SafBough → SafBough) (hf : SameView f)
    (hw : within (parts [.safety]) w = true := by decide) : Kept w s (t.onSaf b f) := by
  refine h.trans (v := parts [.safety]) (fun p hp => ?_) hw
  cases p
  case coils =>
    show (modAt t.saf b f).map coilView = t.saf.map coilView
    ext1 i hi
    simp only [modAt, Vector.getElem_map, Vector.getElem_set]
    split
    · rename_i h
      subst h
      exact hf.same _
    · rfl
  all_goals first | rfl | exact absurd hp (by decide)

end

/-! ## Operations that take an operation -/

theorem KeptR.next {w : Nat} {s t : State} (h : Kept w s t) : KeptR w s (.next t) := by
  rintro u ⟨⟩
  exact h

theorem KeptR.fault {w : Nat} {s : State} (e : Fault) : KeptR w s (.fault e) := by rintro u ⟨⟩

end Sys2Proof.Safety
end

