-- ==== Sys2Proof/Laws/Frames/Recorder.lean ====
section
/-! SUPPORT. What each shared operation of Machine/Recorder.lean may change. -/

set_option Elab.async false
set_option linter.unreachableTactic false
set_option linter.unusedTactic false
set_option linter.unusedSimpArgs false

namespace Sys2Proof.Safety

open Sys2Proof.Machine

theorem tagCommit_changes {w₀ : Nat} {s₀ s : State} (h₀ : Kept w₀ s₀ s)  (p : Nat) (bs : List Byte)
    (hw₀ : within (parts [.tag, .mirror, .tagMem]) w₀ = true := by decide) :
    Kept w₀ s₀ (tagCommit p bs s) := by
  refine h₀.trans (v := parts [.tag, .mirror, .tagMem]) ?_ hw₀
  clear h₀ hw₀
  unfold tagCommit
  try dsimp only
  repeat' first
    | with_reducible first | exact Kept.refl _ _ | assumption
    | with_reducible refine Kept.ite (fun _ => ?_) (fun _ => ?_)
    | simp only [↓kept_mk]; refine KeptMk.set rfl ?_ ?_
    | apply Upd.of <;> intro hp <;>
        first | exact absurd hp (by decide) | with_reducible rfl | dsimp only
    | split
    | dsimp only [id]

theorem tagWritePage_changes {w₀ : Nat} {s₀ s : State} (h₀ : Kept w₀ s₀ s)  (p : Nat) (body : List Byte)
    (hw₀ : within (parts [.tag, .mirror, .tagMem]) w₀ = true := by decide) :
    Kept w₀ s₀ (tagWritePage p body s) := by
  refine h₀.trans (v := parts [.tag, .mirror, .tagMem]) ?_ hw₀
  clear h₀ hw₀
  unfold tagWritePage
  try dsimp only
  repeat' first
    | with_reducible first | exact Kept.refl _ _ | assumption
    | with_reducible first | refine tagCommit_changes ?_ _ _
    | with_reducible refine Kept.ite (fun _ => ?_) (fun _ => ?_)
    | split
    | dsimp only [id]

theorem histAdd_changes {w₀ : Nat} {s₀ s : State} (h₀ : Kept w₀ s₀ s)  (id : Nat) (num : Int) (den : Nat)
    (hw₀ : within (parts [.recorder]) w₀ = true := by decide) :
    Kept w₀ s₀ (histAdd id num den s) := by
  refine h₀.trans (v := parts [.recorder]) ?_ hw₀
  clear h₀ hw₀
  unfold histAdd
  try dsimp only
  repeat' first
    | with_reducible first | exact Kept.refl _ _ | assumption
    | with_reducible refine Kept.ite (fun _ => ?_) (fun _ => ?_)
    | simp only [↓kept_mk]; refine KeptMk.set rfl ?_ ?_
    | apply Upd.of <;> intro hp <;>
        first | exact absurd hp (by decide) | with_reducible rfl | dsimp only
    | split
    | dsimp only [id]

theorem orderStop_changes {w₀ : Nat} {s₀ s : State} (h₀ : Kept w₀ s₀ s)  (cause : Nat)
    (hw₀ : within (parts [.events, .display, .recorder]) w₀ = true := by decide) :
    Kept w₀ s₀ (orderStop cause s) := by
  refine h₀.trans (v := parts [.events, .display, .recorder]) ?_ hw₀
  clear h₀ hw₀
  unfold orderStop
  try dsimp only
  repeat' first
    | with_reducible first | exact Kept.refl _ _ | assumption
    | with_reducible first | refine emit_changes ?_ _ _ _
    | with_reducible refine Kept.ite (fun _ => ?_) (fun _ => ?_)
    | simp only [↓kept_mk]; refine KeptMk.set rfl ?_ ?_
    | apply Upd.of <;> intro hp <;>
        first | exact absurd hp (by decide) | with_reducible rfl | dsimp only
    | split
    | dsimp only [id]

theorem fatalError_changes {w₀ : Nat} {s₀ s : State} (h₀ : Kept w₀ s₀ s)  (cause stop addr : Nat)
    (hw₀ : within (parts [.free, .events, .powerLinks, .powerDie, .heartwood, .display, .tag, .mirror, .recorder, .flash, .tagMem]) w₀ = true := by decide) :
    Kept w₀ s₀ (fatalError cause stop addr s) := by
  refine h₀.trans (v := parts [.free, .events, .powerLinks, .powerDie, .heartwood, .display, .tag, .mirror, .recorder, .flash, .tagMem]) ?_ hw₀
  clear h₀ hw₀
  unfold fatalError
  try dsimp only
  repeat' first
    | with_reducible first | exact Kept.refl _ _ | assumption
    | with_reducible first | refine orderStop_changes ?_ _ | refine raiseIrq_changes ?_ _
    | with_reducible first | refine tagWritePage_changes ?_ _ _ | refine free_changes ?_ _
    | with_reducible refine Kept.ite (fun _ => ?_) (fun _ => ?_)
    | simp only [↓kept_mk]; refine KeptMk.set rfl ?_ ?_
    | apply Upd.of <;> intro hp <;>
        first | exact absurd hp (by decide) | with_reducible rfl | dsimp only
    | (with_reducible refine Kept.ofPair (by assumption) ?_)
    | split
    | dsimp only [id]

end Sys2Proof.Safety
end

