-- ==== Sys2Proof/Laws/Frames/AuxCore.lean ====
section
/-! SUPPORT. What each shared operation of Machine/AuxCore.lean may change. -/

set_option Elab.async false
set_option linter.unreachableTactic false
set_option linter.unusedTactic false
set_option linter.unusedSimpArgs false

namespace Sys2Proof.Safety

open Sys2Proof.Machine

theorem pwmEdge_changes {w₀ : Nat} {s₀ s : State} (h₀ : Kept w₀ s₀ s)  (c : Fin 32)
    (hw₀ : within (parts [.loads]) w₀ = true := by decide) :
    Kept w₀ s₀ (pwmEdge c s) := by
  refine h₀.trans (v := parts [.loads]) ?_ hw₀
  clear h₀ hw₀
  unfold pwmEdge
  try dsimp only
  repeat' first
    | with_reducible first | exact Kept.refl _ _ | assumption
    | with_reducible first | refine onAux_changes ?_ _ _
    | with_reducible refine Kept.ite (fun _ => ?_) (fun _ => ?_)
    | simp only [↓kept_mk]; refine KeptMk.set rfl ?_ ?_
    | apply Upd.of <;> intro hp <;>
        first | exact absurd hp (by decide) | with_reducible rfl | dsimp only
    | split
    | dsimp only [id]

theorem auxDrive_changes {w₀ : Nat} {s₀ s : State} (h₀ : Kept w₀ s₀ s)  (c : Fin 32)
    (hw₀ : within (parts [.free, .loads]) w₀ = true := by decide) :
    Kept w₀ s₀ (auxDrive c s) := by
  refine h₀.trans (v := parts [.free, .loads]) ?_ hw₀
  clear h₀ hw₀
  unfold auxDrive
  try dsimp only
  repeat' first
    | with_reducible first | exact Kept.refl _ _ | assumption
    | with_reducible first | refine onAux_changes ?_ _ _ | refine free_changes ?_ _
    | with_reducible refine Kept.ite (fun _ => ?_) (fun _ => ?_)
    | simp only [↓kept_mk]; refine KeptMk.set rfl ?_ ?_
    | apply Upd.of <;> intro hp <;>
        first | exact absurd hp (by decide) | with_reducible rfl | dsimp only
    | (with_reducible refine Kept.ofPair (by assumption) ?_)
    | split
    | dsimp only [id]

theorem auxRetry_changes {w₀ : Nat} {s₀ s : State} (h₀ : Kept w₀ s₀ s)  (c : Fin 32)
    (hw₀ : within (parts [.free, .loads]) w₀ = true := by decide) :
    Kept w₀ s₀ (auxRetry c s) := by
  refine h₀.trans (v := parts [.free, .loads]) ?_ hw₀
  clear h₀ hw₀
  unfold auxRetry
  try dsimp only
  repeat' first
    | with_reducible first | exact Kept.refl _ _ | assumption
    | with_reducible first | refine auxDrive_changes ?_ _ | refine onAux_changes ?_ _ _
    | with_reducible refine Kept.ite (fun _ => ?_) (fun _ => ?_)
    | simp only [↓kept_mk]; refine KeptMk.set rfl ?_ ?_
    | apply Upd.of <;> intro hp <;>
        first | exact absurd hp (by decide) | with_reducible rfl | dsimp only
    | split
    | dsimp only [id]

theorem auxAll_changes {w₀ : Nat} {s₀ s : State} (h₀ : Kept w₀ s₀ s)  
    (hw₀ : within (parts [.free, .loads]) w₀ = true := by decide) :
    Kept w₀ s₀ (auxAll s) := by
  refine h₀.trans (v := parts [.free, .loads]) ?_ hw₀
  clear h₀ hw₀
  unfold auxAll
  try dsimp only
  repeat' first
    | with_reducible first | exact Kept.refl _ _ | assumption
    | with_reducible first | refine auxRetry_changes ?_ _ | refine Kept.foldl _ _ ?_ fun u x hu => ?_
    | with_reducible refine Kept.ite (fun _ => ?_) (fun _ => ?_)
    | split
    | dsimp only [id]

theorem auxFault_changes {w₀ : Nat} {s₀ s : State} (h₀ : Kept w₀ s₀ s)  (c : Fin 32) (kind : Nat)
    (hw₀ : within (parts [.free, .events, .loads, .recorder]) w₀ = true := by decide) :
    Kept w₀ s₀ (auxFault c kind s) := by
  refine h₀.trans (v := parts [.free, .events, .loads, .recorder]) ?_ hw₀
  clear h₀ hw₀
  unfold auxFault
  try dsimp only
  repeat' first
    | with_reducible first | exact Kept.refl _ _ | assumption
    | with_reducible first | refine auxDrive_changes ?_ _ | refine emit_changes ?_ _ _ _ | refine onAux_changes ?_ _ _
    | with_reducible refine Kept.ite (fun _ => ?_) (fun _ => ?_)
    | simp only [↓kept_mk]; refine KeptMk.set rfl ?_ ?_
    | apply Upd.of <;> intro hp <;>
        first | exact absurd hp (by decide) | with_reducible rfl | dsimp only
    | split
    | dsimp only [id]

theorem leaveLowPower_changes {w₀ : Nat} {s₀ s : State} (h₀ : Kept w₀ s₀ s)  
    (hw₀ : within (parts [.display]) w₀ = true := by decide) :
    Kept w₀ s₀ (leaveLowPower s) := by
  refine h₀.trans (v := parts [.display]) ?_ hw₀
  clear h₀ hw₀
  unfold leaveLowPower
  try dsimp only
  repeat' first
    | with_reducible first | exact Kept.refl _ _ | assumption
    | with_reducible refine Kept.ite (fun _ => ?_) (fun _ => ?_)
    | simp only [↓kept_mk]; refine KeptMk.set rfl ?_ ?_
    | apply Upd.of <;> intro hp <;>
        first | exact absurd hp (by decide) | with_reducible rfl | dsimp only
    | split
    | dsimp only [id]

theorem takeBridges_changes {w₀ : Nat} {s₀ s : State} (h₀ : Kept w₀ s₀ s)  
    (hw₀ : within (parts [.free, .loads]) w₀ = true := by decide) :
    Kept w₀ s₀ (takeBridges s) := by
  refine h₀.trans (v := parts [.free, .loads]) ?_ hw₀
  clear h₀ hw₀
  unfold takeBridges
  try dsimp only
  repeat' first
    | with_reducible first | exact Kept.refl _ _ | assumption
    | with_reducible first | refine auxDrive_changes ?_ _ | refine onAux_changes ?_ _ _
    | with_reducible first | refine Kept.foldl _ _ ?_ fun u x hu => ?_
    | with_reducible refine Kept.ite (fun _ => ?_) (fun _ => ?_)
    | simp only [↓kept_mk]; refine KeptMk.set rfl ?_ ?_
    | apply Upd.of <;> intro hp <;>
        first | exact absurd hp (by decide) | with_reducible rfl | dsimp only
    | split
    | dsimp only [id]

end Sys2Proof.Safety
end

