-- ==== Sys2Proof/Laws/Frames/CommitCore.lean ====
section
/-! SUPPORT. What each shared operation of Machine/CommitCore.lean may change. -/

set_option Elab.async false
set_option linter.unreachableTactic false
set_option linter.unusedTactic false
set_option linter.unusedSimpArgs false

namespace Sys2Proof.Safety

open Sys2Proof.Machine

theorem applySnap_changes {w₀ : Nat} {s₀ s : State} (h₀ : Kept w₀ s₀ s)  (sub : Nat) (p : Nat → Bool)
    (hw₀ : within (parts [.pages]) w₀ = true := by decide) :
    Kept w₀ s₀ (applySnap sub p s) := by
  refine h₀.trans (v := parts [.pages]) ?_ hw₀
  clear h₀ hw₀
  unfold applySnap
  try dsimp only
  repeat' first
    | with_reducible first | exact Kept.refl _ _ | assumption
    | with_reducible refine Kept.ite (fun _ => ?_) (fun _ => ?_)
    | simp only [↓kept_mk]; refine KeptMk.set rfl ?_ ?_
    | apply Upd.of <;> intro hp <;>
        first | exact absurd hp (by decide) | with_reducible rfl | dsimp only
    | split
    | dsimp only [id]

theorem finishCommit_changes {w₀ : Nat} {s₀ s : State} (h₀ : Kept w₀ s₀ s)  (sub : Nat) (rejected : Bool)
    (hw₀ : within (parts [.commits]) w₀ = true := by decide) :
    Kept w₀ s₀ (finishCommit sub rejected s) := by
  refine h₀.trans (v := parts [.commits]) ?_ hw₀
  clear h₀ hw₀
  unfold finishCommit
  try dsimp only
  repeat' first
    | with_reducible first | exact Kept.refl _ _ | assumption
    | with_reducible refine Kept.ite (fun _ => ?_) (fun _ => ?_)
    | simp only [↓kept_mk]; refine KeptMk.set rfl ?_ ?_
    | apply Upd.of <;> intro hp <;>
        first | exact absurd hp (by decide) | with_reducible rfl | dsimp only
    | split
    | dsimp only [id]

theorem rejectCommit_changes {w₀ : Nat} {s₀ s : State} (h₀ : Kept w₀ s₀ s)  (sub reason : Nat)
    (hw₀ : within (parts [.commits, .events, .recorder]) w₀ = true := by decide) :
    Kept w₀ s₀ (rejectCommit sub reason s) := by
  refine h₀.trans (v := parts [.commits, .events, .recorder]) ?_ hw₀
  clear h₀ hw₀
  unfold rejectCommit
  try dsimp only
  repeat' first
    | with_reducible first | exact Kept.refl _ _ | assumption
    | with_reducible first | refine emit_changes ?_ _ _ _ | refine finishCommit_changes ?_ _ _
    | with_reducible refine Kept.ite (fun _ => ?_) (fun _ => ?_)
    | split
    | dsimp only [id]

end Sys2Proof.Safety
end

