-- ==== Sys2Proof/Laws/Frames/Heartwood.lean ====
section
/-! SUPPORT. What each shared operation of Machine/Heartwood.lean may change. -/

set_option Elab.async false
set_option linter.unreachableTactic false
set_option linter.unusedTactic false
set_option linter.unusedSimpArgs false

namespace Sys2Proof.Safety

open Sys2Proof.Machine

theorem nearest_changes {w₀ : Nat} {s₀ s : State} (h₀ : Kept w₀ s₀ s)  (num : Int) (den : Nat)
    (hw₀ : within (parts [.free]) w₀ = true := by decide) :
    Kept w₀ s₀ (nearest num den s).2 := by
  refine h₀.trans (v := parts [.free]) ?_ hw₀
  clear h₀ hw₀
  unfold nearest
  try dsimp only
  repeat' first
    | with_reducible first | exact Kept.refl _ _ | assumption
    | with_reducible first | refine free_changes ?_ _
    | with_reducible refine Kept.ite (fun _ => ?_) (fun _ => ?_)
    | (with_reducible refine Kept.ofPair (by assumption) ?_)
    | split
    | dsimp only [id]

theorem fitInt_changes {w₀ : Nat} {s₀ s : State} (h₀ : Kept w₀ s₀ s)  (n : Nat) (x : Int)
    (hw₀ : within (parts [.free]) w₀ = true := by decide) :
    Kept w₀ s₀ (fitInt n x s).2 := by
  refine h₀.trans (v := parts [.free]) ?_ hw₀
  clear h₀ hw₀
  unfold fitInt
  try dsimp only
  repeat' first
    | with_reducible first | exact Kept.refl _ _ | assumption
    | with_reducible first | refine free_changes ?_ _
    | with_reducible refine Kept.ite (fun _ => ?_) (fun _ => ?_)
    | (with_reducible refine Kept.ofPair (by assumption) ?_)
    | split
    | dsimp only [id]

theorem priceBough_changes {w₀ : Nat} {s₀ s : State} (h₀ : Kept w₀ s₀ s)  (b : Bough) (whImp whExp : Nat)
    (hw₀ : within (parts [.free, .billed]) w₀ = true := by decide) :
    Kept w₀ s₀ (priceBough b whImp whExp s) := by
  refine h₀.trans (v := parts [.free, .billed]) ?_ hw₀
  clear h₀ hw₀
  unfold priceBough
  try dsimp only
  repeat' first
    | with_reducible first | exact Kept.refl _ _ | assumption
    | with_reducible first | refine fitInt_changes ?_ _ _ | refine onBil_changes ?_ _ _
    | with_reducible refine Kept.ite (fun _ => ?_) (fun _ => ?_)
    | simp only [↓kept_mk]; refine KeptMk.set rfl ?_ ?_
    | apply Upd.of <;> intro hp <;>
        first | exact absurd hp (by decide) | with_reducible rfl | dsimp only
    | (with_reducible refine Kept.ofPair (by assumption) ?_)
    | split
    | dsimp only [id]

theorem rateAdd_changes {w₀ : Nat} {s₀ s : State} (h₀ : Kept w₀ s₀ s)  (dImp dExp : Nat)
    (hw₀ : within (parts [.heartwood]) w₀ = true := by decide) :
    Kept w₀ s₀ (rateAdd dImp dExp s) := by
  refine h₀.trans (v := parts [.heartwood]) ?_ hw₀
  clear h₀ hw₀
  unfold rateAdd
  try dsimp only
  repeat' first
    | with_reducible first | exact Kept.refl _ _ | assumption
    | with_reducible refine Kept.ite (fun _ => ?_) (fun _ => ?_)
    | simp only [↓kept_mk]; refine KeptMk.set rfl ?_ ?_
    | apply Upd.of <;> intro hp <;>
        first | exact absurd hp (by decide) | with_reducible rfl | dsimp only
    | split
    | dsimp only [id]

theorem convertBough_changes {w₀ : Nat} {s₀ s : State} (h₀ : Kept w₀ s₀ s)  (b : Bough)
    (hw₀ : within (parts [.free, .billed, .heartwood]) w₀ = true := by decide) :
    Kept w₀ s₀ (convertBough b s) := by
  refine h₀.trans (v := parts [.free, .billed, .heartwood]) ?_ hw₀
  clear h₀ hw₀
  unfold convertBough
  try dsimp only
  repeat' first
    | with_reducible first | exact Kept.refl _ _ | assumption
    | with_reducible first | refine priceBough_changes ?_ _ _ _ | refine rateAdd_changes ?_ _ _
    | with_reducible first | refine onBil_changes ?_ _ _
    | with_reducible refine Kept.ite (fun _ => ?_) (fun _ => ?_)
    | simp only [↓kept_mk]; refine KeptMk.set rfl ?_ ?_
    | apply Upd.of <;> intro hp <;>
        first | exact absurd hp (by decide) | with_reducible rfl | dsimp only
    | split
    | dsimp only [id]

theorem convertAll_changes {w₀ : Nat} {s₀ s : State} (h₀ : Kept w₀ s₀ s)  
    (hw₀ : within (parts [.free, .billed, .heartwood]) w₀ = true := by decide) :
    Kept w₀ s₀ (convertAll s) := by
  refine h₀.trans (v := parts [.free, .billed, .heartwood]) ?_ hw₀
  clear h₀ hw₀
  unfold convertAll
  try dsimp only
  repeat' first
    | with_reducible first | exact Kept.refl _ _ | assumption
    | with_reducible first | refine convertBough_changes ?_ _ | refine Kept.forBoughs _ ?_ fun b u hu => ?_
    | with_reducible refine Kept.ite (fun _ => ?_) (fun _ => ?_)
    | split
    | dsimp only [id]

theorem evalRate_changes {w₀ : Nat} {s₀ s : State} (h₀ : Kept w₀ s₀ s)  
    (hw₀ : within (parts [.free, .billed, .heartwood]) w₀ = true := by decide) :
    Kept w₀ s₀ (evalRate s) := by
  refine h₀.trans (v := parts [.free, .billed, .heartwood]) ?_ hw₀
  clear h₀ hw₀
  unfold evalRate
  try dsimp only
  repeat' first
    | with_reducible first | exact Kept.refl _ _ | assumption
    | with_reducible first | refine convertAll_changes ?_
    | with_reducible refine Kept.ite (fun _ => ?_) (fun _ => ?_)
    | simp only [↓kept_mk]; refine KeptMk.set rfl ?_ ?_
    | apply Upd.of <;> intro hp <;>
        first | exact absurd hp (by decide) | with_reducible rfl | dsimp only
    | split
    | dsimp only [id]

theorem beginSlot_changes {w₀ : Nat} {s₀ s : State} (h₀ : Kept w₀ s₀ s)  
    (hw₀ : within (parts [.flash]) w₀ = true := by decide) :
    Kept w₀ s₀ (beginSlot s) := by
  refine h₀.trans (v := parts [.flash]) ?_ hw₀
  clear h₀ hw₀
  unfold beginSlot
  try dsimp only
  repeat' first
    | with_reducible first | exact Kept.refl _ _ | assumption
    | with_reducible refine Kept.ite (fun _ => ?_) (fun _ => ?_)
    | simp only [↓kept_mk]; refine KeptMk.set rfl ?_ ?_
    | apply Upd.of <;> intro hp <;>
        first | exact absurd hp (by decide) | with_reducible rfl | dsimp only
    | split
    | dsimp only [id]

theorem writeSave_changes {w₀ : Nat} {s₀ s : State} (h₀ : Kept w₀ s₀ s)  (cause : Nat)
    (hw₀ : within (parts [.free, .billed, .heartwood, .flash]) w₀ = true := by decide) :
    Kept w₀ s₀ (writeSave cause s) := by
  refine h₀.trans (v := parts [.free, .billed, .heartwood, .flash]) ?_ hw₀
  clear h₀ hw₀
  unfold writeSave
  try dsimp only
  repeat' first
    | with_reducible first | exact Kept.refl _ _ | assumption
    | with_reducible first | refine beginSlot_changes ?_ | refine convertAll_changes ?_
    | with_reducible refine Kept.ite (fun _ => ?_) (fun _ => ?_)
    | simp only [↓kept_mk]; refine KeptMk.set rfl ?_ ?_
    | apply Upd.of <;> intro hp <;>
        first | exact absurd hp (by decide) | with_reducible rfl | dsimp only
    | split
    | dsimp only [id]

theorem lrChange_changes {w₀ : Nat} {s₀ s : State} (h₀ : Kept w₀ s₀ s)  (kind bough ch : Nat) (extra : List Byte)
    (hw₀ : within (parts [.events, .heartwood, .recorder]) w₀ = true := by decide) :
    Kept w₀ s₀ (lrChange kind bough ch extra s) := by
  refine h₀.trans (v := parts [.events, .heartwood, .recorder]) ?_ hw₀
  clear h₀ hw₀
  unfold lrChange
  try dsimp only
  repeat' first
    | with_reducible first | exact Kept.refl _ _ | assumption
    | with_reducible first | refine emit_changes ?_ _ _ _
    | with_reducible refine Kept.ite (fun _ => ?_) (fun _ => ?_)
    | simp only [↓kept_mk]; refine KeptMk.set rfl ?_ ?_
    | apply Upd.of <;> intro hp <;>
        first | exact absurd hp (by decide) | with_reducible rfl | dsimp only
    | split
    | dsimp only [id]

theorem gapEstimate_changes {w₀ : Nat} {s₀ s : State} (h₀ : Kept w₀ s₀ s)  (pmean : Int) (num den : Nat)
    (hw₀ : within (parts [.free]) w₀ = true := by decide) :
    Kept w₀ s₀ (gapEstimate pmean num den s).2 := by
  refine h₀.trans (v := parts [.free]) ?_ hw₀
  clear h₀ hw₀
  unfold gapEstimate
  try dsimp only
  repeat' first
    | with_reducible first | exact Kept.refl _ _ | assumption
    | with_reducible first | refine nearest_changes ?_ _ _
    | with_reducible refine Kept.ite (fun _ => ?_) (fun _ => ?_)
    | (with_reducible refine Kept.ofPair (by assumption) ?_)
    | split
    | dsimp only [id]

theorem signWith_changes {w₀ : Nat} {s₀ s : State} (h₀ : Kept w₀ s₀ s)  (b : Bough) (kind gapWh : Nat) (gapEst : Int) (flags : Nat)
    (hw₀ : within (parts [.free, .billed, .heartwood]) w₀ = true := by decide) :
    Kept w₀ s₀ (signWith b kind gapWh gapEst flags s) := by
  refine h₀.trans (v := parts [.free, .billed, .heartwood]) ?_ hw₀
  clear h₀ hw₀
  unfold signWith
  try dsimp only
  repeat' first
    | with_reducible first | exact Kept.refl _ _ | assumption
    | with_reducible first | refine onBil_changes ?_ _ _
    | with_reducible refine Kept.ite (fun _ => ?_) (fun _ => ?_)
    | simp only [↓kept_mk]; refine KeptMk.set rfl ?_ ?_
    | apply Upd.of <;> intro hp <;>
        first | exact absurd hp (by decide) | with_reducible rfl | dsimp only
    | (with_reducible refine Kept.ofPair (by assumption) ?_)
    | split
    | dsimp only [id]

theorem coverOnTick_changes {w₀ : Nat} {s₀ s : State} (h₀ : Kept w₀ s₀ s)  
    (hw₀ : within (parts [.heartwood, .flash]) w₀ = true := by decide) :
    Kept w₀ s₀ (coverOnTick s) := by
  refine h₀.trans (v := parts [.heartwood, .flash]) ?_ hw₀
  clear h₀ hw₀
  unfold coverOnTick
  try dsimp only
  repeat' first
    | with_reducible first | exact Kept.refl _ _ | assumption
    | with_reducible refine Kept.ite (fun _ => ?_) (fun _ => ?_)
    | simp only [↓kept_mk]; refine KeptMk.set rfl ?_ ?_
    | apply Upd.of <;> intro hp <;>
        first | exact absurd hp (by decide) | with_reducible rfl | dsimp only
    | split
    | dsimp only [id]

theorem signReading_changes {w₀ : Nat} {s₀ s : State} (h₀ : Kept w₀ s₀ s)  (b : Bough) (kind : Nat)
    (hw₀ : within (parts [.free, .billed, .heartwood, .flash]) w₀ = true := by decide) :
    Kept w₀ s₀ (signReading b kind s) := by
  refine h₀.trans (v := parts [.free, .billed, .heartwood, .flash]) ?_ hw₀
  clear h₀ hw₀
  unfold signReading
  try dsimp only
  repeat' first
    | with_reducible first | exact Kept.refl _ _ | assumption
    | with_reducible first | refine convertBough_changes ?_ _ | refine coverOnTick_changes ?_
    | with_reducible first | refine signWith_changes ?_ _ _ _ _ _
    | with_reducible refine Kept.ite (fun _ => ?_) (fun _ => ?_)
    | split
    | dsimp only [id]

theorem beginReading_changes {w₀ : Nat} {s₀ s : State} (h₀ : Kept w₀ s₀ s)  (b : Bough)
    (hw₀ : within (parts [.free, .billed, .heartwood, .flash]) w₀ = true := by decide) :
    Kept w₀ s₀ (beginReading b s) := by
  refine h₀.trans (v := parts [.free, .billed, .heartwood, .flash]) ?_ hw₀
  clear h₀ hw₀
  unfold beginReading
  try dsimp only
  repeat' first
    | with_reducible first | exact Kept.refl _ _ | assumption
    | with_reducible first | refine convertBough_changes ?_ _ | refine coverOnTick_changes ?_
    | with_reducible first | refine signWith_changes ?_ _ _ _ _ _ | refine onBil_changes ?_ _ _
    | with_reducible refine Kept.ite (fun _ => ?_) (fun _ => ?_)
    | simp only [↓kept_mk]; refine KeptMk.set rfl ?_ ?_
    | apply Upd.of <;> intro hp <;>
        first | exact absurd hp (by decide) | with_reducible rfl | dsimp only
    | split
    | dsimp only [id]

theorem endReading_changes {w₀ : Nat} {s₀ s : State} (h₀ : Kept w₀ s₀ s)  (b : Bough)
    (hw₀ : within (parts [.free, .billed, .heartwood, .flash]) w₀ = true := by decide) :
    Kept w₀ s₀ (endReading b s) := by
  refine h₀.trans (v := parts [.free, .billed, .heartwood, .flash]) ?_ hw₀
  clear h₀ hw₀
  unfold endReading
  try dsimp only
  repeat' first
    | with_reducible first | exact Kept.refl _ _ | assumption
    | with_reducible first | refine signReading_changes ?_ _ _ | refine onBil_changes ?_ _ _
    | with_reducible refine Kept.ite (fun _ => ?_) (fun _ => ?_)
    | simp only [↓kept_mk]; refine KeptMk.set rfl ?_ ?_
    | apply Upd.of <;> intro hp <;>
        first | exact absurd hp (by decide) | with_reducible rfl | dsimp only
    | split
    | dsimp only [id]

theorem noteFlag_changes {w₀ : Nat} {s₀ s : State} (h₀ : Kept w₀ s₀ s)  (i : Nat) (b : Bough)
    (hw₀ : within (parts [.billed]) w₀ = true := by decide) :
    Kept w₀ s₀ (noteFlag i b s) := by
  refine h₀.trans (v := parts [.billed]) ?_ hw₀
  clear h₀ hw₀
  unfold noteFlag
  try dsimp only
  repeat' first
    | with_reducible first | exact Kept.refl _ _ | assumption
    | with_reducible first | refine onBil_changes ?_ _ _
    | with_reducible refine Kept.ite (fun _ => ?_) (fun _ => ?_)
    | simp only [↓kept_mk]; refine KeptMk.set rfl ?_ ?_
    | apply Upd.of <;> intro hp <;>
        first | exact absurd hp (by decide) | with_reducible rfl | dsimp only
    | split
    | dsimp only [id]

theorem noteFlagAll_changes {w₀ : Nat} {s₀ s : State} (h₀ : Kept w₀ s₀ s)  (i : Nat)
    (hw₀ : within (parts [.billed]) w₀ = true := by decide) :
    Kept w₀ s₀ (noteFlagAll i s) := by
  refine h₀.trans (v := parts [.billed]) ?_ hw₀
  clear h₀ hw₀
  unfold noteFlagAll
  try dsimp only
  repeat' first
    | with_reducible first | exact Kept.refl _ _ | assumption
    | with_reducible first | refine noteFlag_changes ?_ _ _ | refine Kept.forBoughs _ ?_ fun b u hu => ?_
    | with_reducible refine Kept.ite (fun _ => ?_) (fun _ => ?_)
    | split
    | dsimp only [id]

theorem releaseOne_changes {w₀ : Nat} {s₀ s : State} (h₀ : Kept w₀ s₀ s)  (rd : Reading)
    (hw₀ : within (parts [.events, .heartwood, .recorder]) w₀ = true := by decide) :
    Kept w₀ s₀ (releaseOne rd s) := by
  refine h₀.trans (v := parts [.events, .heartwood, .recorder]) ?_ hw₀
  clear h₀ hw₀
  unfold releaseOne
  try dsimp only
  repeat' first
    | with_reducible first | exact Kept.refl _ _ | assumption
    | with_reducible first | refine emit_changes ?_ _ _ _ | refine recordEvent_changes ?_ _ _ _ _
    | with_reducible refine Kept.ite (fun _ => ?_) (fun _ => ?_)
    | simp only [↓kept_mk]; refine KeptMk.set rfl ?_ ?_
    | apply Upd.of <;> intro hp <;>
        first | exact absurd hp (by decide) | with_reducible rfl | dsimp only
    | split
    | dsimp only [id]

theorem releaseReadings_changes {w₀ : Nat} {s₀ s : State} (h₀ : Kept w₀ s₀ s)  
    (hw₀ : within (parts [.free, .events, .billed, .heartwood, .recorder, .flash]) w₀ = true := by decide) :
    Kept w₀ s₀ (releaseReadings s) := by
  refine h₀.trans (v := parts [.free, .events, .billed, .heartwood, .recorder, .flash]) ?_ hw₀
  clear h₀ hw₀
  unfold releaseReadings
  try dsimp only
  repeat' first
    | with_reducible first | exact Kept.refl _ _ | assumption
    | with_reducible first | refine releaseOne_changes ?_ _ | refine writeSave_changes ?_ _
    | with_reducible first | refine Kept.foldl _ _ ?_ fun u x hu => ?_
    | with_reducible refine Kept.ite (fun _ => ?_) (fun _ => ?_)
    | simp only [↓kept_mk]; refine KeptMk.set rfl ?_ ?_
    | apply Upd.of <;> intro hp <;>
        first | exact absurd hp (by decide) | with_reducible rfl | dsimp only
    | split
    | dsimp only [id]

theorem demandOf_changes {w₀ : Nat} {s₀ s : State} (h₀ : Kept w₀ s₀ s)  (b : Bough)
    (hw₀ : within (parts [.free]) w₀ = true := by decide) :
    Kept w₀ s₀ (demandOf b s).2 := by
  refine h₀.trans (v := parts [.free]) ?_ hw₀
  clear h₀ hw₀
  unfold demandOf
  try dsimp only
  repeat' first
    | with_reducible first | exact Kept.refl _ _ | assumption
    | with_reducible first | refine free_changes ?_ _
    | with_reducible refine Kept.ite (fun _ => ?_) (fun _ => ?_)
    | (with_reducible refine Kept.ofPair (by assumption) ?_)
    | split
    | dsimp only [id]

theorem takeDemands_changes {w₀ : Nat} {s₀ s : State} (h₀ : Kept w₀ s₀ s)  
    (hw₀ : within (parts [.free, .billed]) w₀ = true := by decide) :
    Kept w₀ s₀ (takeDemands s) := by
  refine h₀.trans (v := parts [.free, .billed]) ?_ hw₀
  clear h₀ hw₀
  unfold takeDemands
  try dsimp only
  repeat' first
    | with_reducible first | exact Kept.refl _ _ | assumption
    | with_reducible first | refine demandOf_changes ?_ _ | refine onBil_changes ?_ _ _
    | with_reducible first | refine Kept.forBoughs _ ?_ fun b u hu => ?_
    | with_reducible refine Kept.ite (fun _ => ?_) (fun _ => ?_)
    | simp only [↓kept_mk]; refine KeptMk.set rfl ?_ ?_
    | apply Upd.of <;> intro hp <;>
        first | exact absurd hp (by decide) | with_reducible rfl | dsimp only
    | (with_reducible refine Kept.ofPair (by assumption) ?_)
    | split
    | dsimp only [id]

theorem intervalEvent_changes {w₀ : Nat} {s₀ s : State} (h₀ : Kept w₀ s₀ s)  (first last : Int) (count flags : Nat) (demands : List Nat)
    (hw₀ : within (parts [.events, .recorder]) w₀ = true := by decide) :
    Kept w₀ s₀ (intervalEvent first last count flags demands s) := by
  refine h₀.trans (v := parts [.events, .recorder]) ?_ hw₀
  clear h₀ hw₀
  unfold intervalEvent
  try dsimp only
  repeat' first
    | with_reducible first | exact Kept.refl _ _ | assumption
    | with_reducible first | refine emit_changes ?_ _ _ _
    | with_reducible refine Kept.ite (fun _ => ?_) (fun _ => ?_)
    | split
    | dsimp only [id]

theorem openInterval_changes {w₀ : Nat} {s₀ s : State} (h₀ : Kept w₀ s₀ s)  (t : Int)
    (hw₀ : within (parts [.billed, .heartwood]) w₀ = true := by decide) :
    Kept w₀ s₀ (openInterval t s) := by
  refine h₀.trans (v := parts [.billed, .heartwood]) ?_ hw₀
  clear h₀ hw₀
  unfold openInterval
  try dsimp only
  repeat' first
    | with_reducible first | exact Kept.refl _ _ | assumption
    | with_reducible first | refine onBil_changes ?_ _ _ | refine Kept.forBoughs _ ?_ fun b u hu => ?_
    | with_reducible refine Kept.ite (fun _ => ?_) (fun _ => ?_)
    | simp only [↓kept_mk]; refine KeptMk.set rfl ?_ ?_
    | apply Upd.of <;> intro hp <;>
        first | exact absurd hp (by decide) | with_reducible rfl | dsimp only
    | split
    | dsimp only [id]

theorem closeInterval_changes {w₀ : Nat} {s₀ s : State} (h₀ : Kept w₀ s₀ s)  (B : Int)
    (hw₀ : within (parts [.free, .events, .billed, .heartwood, .recorder]) w₀ = true := by decide) :
    Kept w₀ s₀ (closeInterval B s) := by
  refine h₀.trans (v := parts [.free, .events, .billed, .heartwood, .recorder]) ?_ hw₀
  clear h₀ hw₀
  unfold closeInterval
  try dsimp only
  repeat' first
    | with_reducible first | exact Kept.refl _ _ | assumption
    | with_reducible first | refine intervalEvent_changes ?_ _ _ _ _ _ | refine takeDemands_changes ?_
    | with_reducible refine Kept.ite (fun _ => ?_) (fun _ => ?_)
    | simp only [↓kept_mk]; refine KeptMk.set rfl ?_ ?_
    | apply Upd.of <;> intro hp <;>
        first | exact absurd hp (by decide) | with_reducible rfl | dsimp only
    | split
    | dsimp only [id]

theorem activateCalendar_changes {w₀ : Nat} {s₀ s : State} (h₀ : Kept w₀ s₀ s)  (due applied : Nat)
    (hw₀ : within (parts [.events, .billed, .heartwood, .recorder]) w₀ = true := by decide) :
    Kept w₀ s₀ (activateCalendar due applied s) := by
  refine h₀.trans (v := parts [.events, .billed, .heartwood, .recorder]) ?_ hw₀
  clear h₀ hw₀
  unfold activateCalendar
  try dsimp only
  repeat' first
    | with_reducible first | exact Kept.refl _ _ | assumption
    | with_reducible first | refine emit_changes ?_ _ _ _ | refine lrChange_changes ?_ _ _ _ _
    | with_reducible first | refine noteFlagAll_changes ?_ _
    | with_reducible refine Kept.ite (fun _ => ?_) (fun _ => ?_)
    | simp only [↓kept_mk]; refine KeptMk.set rfl ?_ ?_
    | apply Upd.of <;> intro hp <;>
        first | exact absurd hp (by decide) | with_reducible rfl | dsimp only
    | split
    | dsimp only [id]

theorem applyBilCommit_changes {w₀ : Nat} {s₀ s : State} (h₀ : Kept w₀ s₀ s)  
    (hw₀ : within (parts [.pages, .commits, .events, .heartwood, .recorder]) w₀ = true := by decide) :
    Kept w₀ s₀ (applyBilCommit s) := by
  refine h₀.trans (v := parts [.pages, .commits, .events, .heartwood, .recorder]) ?_ hw₀
  clear h₀ hw₀
  unfold applyBilCommit
  try dsimp only
  repeat' first
    | with_reducible first | exact Kept.refl _ _ | assumption
    | with_reducible first | refine applySnap_changes ?_ _ _ | refine finishCommit_changes ?_ _ _
    | with_reducible first | refine lrChange_changes ?_ _ _ _ _ | refine rejectCommit_changes ?_ _ _
    | with_reducible refine Kept.ite (fun _ => ?_) (fun _ => ?_)
    | simp only [↓kept_mk]; refine KeptMk.set rfl ?_ ?_
    | apply Upd.of <;> intro hp <;>
        first | exact absurd hp (by decide) | with_reducible rfl | dsimp only
    | split
    | dsimp only [id]

theorem boundaryCommit_changes {w₀ : Nat} {s₀ s : State} (h₀ : Kept w₀ s₀ s)  (B : Int)
    (hw₀ : within (parts [.pages, .commits, .events, .heartwood, .recorder]) w₀ = true := by decide) :
    Kept w₀ s₀ (boundaryCommit B s) := by
  refine h₀.trans (v := parts [.pages, .commits, .events, .heartwood, .recorder]) ?_ hw₀
  clear h₀ hw₀
  unfold boundaryCommit
  try dsimp only
  repeat' first
    | with_reducible first | exact Kept.refl _ _ | assumption
    | with_reducible first | refine applyBilCommit_changes ?_
    | with_reducible refine Kept.ite (fun _ => ?_) (fun _ => ?_)
    | split
    | dsimp only [id]

theorem applyOffset_changes {w₀ : Nat} {s₀ s : State} (h₀ : Kept w₀ s₀ s)  
    (hw₀ : within (parts [.heartwood, .backup]) w₀ = true := by decide) :
    Kept w₀ s₀ (applyOffset s) := by
  refine h₀.trans (v := parts [.heartwood, .backup]) ?_ hw₀
  clear h₀ hw₀
  unfold applyOffset
  try dsimp only
  repeat' first
    | with_reducible first | exact Kept.refl _ _ | assumption
    | with_reducible refine Kept.ite (fun _ => ?_) (fun _ => ?_)
    | simp only [↓kept_mk]; refine KeptMk.set rfl ?_ ?_
    | apply Upd.of <;> intro hp <;>
        first | exact absurd hp (by decide) | with_reducible rfl | dsimp only
    | split
    | dsimp only [id]

theorem boundaryReadings_changes {w₀ : Nat} {s₀ s : State} (h₀ : Kept w₀ s₀ s)  (activated : Bool) (moved : Nat)
    (hw₀ : within (parts [.free, .billed, .heartwood, .flash]) w₀ = true := by decide) :
    Kept w₀ s₀ (boundaryReadings activated moved s) := by
  refine h₀.trans (v := parts [.free, .billed, .heartwood, .flash]) ?_ hw₀
  clear h₀ hw₀
  unfold boundaryReadings
  try dsimp only
  repeat' first
    | with_reducible first | exact Kept.refl _ _ | assumption
    | with_reducible first | refine signReading_changes ?_ _ _ | refine Kept.forMask _ _ ?_ fun b u hu => ?_
    | with_reducible refine Kept.ite (fun _ => ?_) (fun _ => ?_)
    | split
    | dsimp only [id]

theorem boundary_changes {w₀ : Nat} {s₀ s : State} (h₀ : Kept w₀ s₀ s)  
    (hw₀ : within (parts [.free, .pages, .commits, .events, .billed, .heartwood, .recorder, .backup, .flash]) w₀ = true := by decide) :
    Kept w₀ s₀ (boundary s) := by
  refine h₀.trans (v := parts [.free, .pages, .commits, .events, .billed, .heartwood, .recorder, .backup, .flash]) ?_ hw₀
  clear h₀ hw₀
  unfold boundary
  try dsimp only
  repeat' first
    | with_reducible first | exact Kept.refl _ _ | assumption
    | with_reducible first | refine activateCalendar_changes ?_ _ _ | refine applyOffset_changes ?_
    | with_reducible first | refine boundaryCommit_changes ?_ _ | refine boundaryReadings_changes ?_ _ _
    | with_reducible first | refine closeInterval_changes ?_ _ | refine convertAll_changes ?_
    | with_reducible first | refine evalRate_changes ?_ | refine openInterval_changes ?_ _
    | with_reducible first | refine writeSave_changes ?_ _
    | with_reducible refine Kept.ite (fun _ => ?_) (fun _ => ?_)
    | split
    | dsimp only [id]

theorem openAtTime_changes {w₀ : Nat} {s₀ s : State} (h₀ : Kept w₀ s₀ s)  
    (hw₀ : within (parts [.billed, .heartwood]) w₀ = true := by decide) :
    Kept w₀ s₀ (openAtTime s) := by
  refine h₀.trans (v := parts [.billed, .heartwood]) ?_ hw₀
  clear h₀ hw₀
  unfold openAtTime
  try dsimp only
  repeat' first
    | with_reducible first | exact Kept.refl _ _ | assumption
    | with_reducible first | refine openInterval_changes ?_ _
    | with_reducible refine Kept.ite (fun _ => ?_) (fun _ => ?_)
    | split
    | dsimp only [id]

theorem passBoundaries_changes {w₀ : Nat} {s₀ s : State} (h₀ : Kept w₀ s₀ s)  (a z : Int) (n : Nat)
    (hw₀ : within (parts [.free, .pages, .commits, .events, .billed, .heartwood, .recorder, .backup, .flash]) w₀ = true := by decide) :
    Kept w₀ s₀ (passBoundaries a z n s) := by
  refine h₀.trans (v := parts [.free, .pages, .commits, .events, .billed, .heartwood, .recorder, .backup, .flash]) ?_ hw₀
  clear h₀ hw₀
  unfold passBoundaries
  try dsimp only
  repeat' first
    | with_reducible first | exact Kept.refl _ _ | assumption
    | with_reducible first | refine activateCalendar_changes ?_ _ _ | refine applyOffset_changes ?_
    | with_reducible first | refine boundaryCommit_changes ?_ _ | refine boundaryReadings_changes ?_ _ _
    | with_reducible first | refine closeInterval_changes ?_ _ | refine convertAll_changes ?_
    | with_reducible first | refine evalRate_changes ?_ | refine intervalEvent_changes ?_ _ _ _ _ _
    | with_reducible first | refine openInterval_changes ?_ _ | refine writeSave_changes ?_ _
    | with_reducible first | refine onBil_changes ?_ _ _ | refine Kept.forBoughs _ ?_ fun b u hu => ?_
    | with_reducible refine Kept.ite (fun _ => ?_) (fun _ => ?_)
    | simp only [↓kept_mk]; refine KeptMk.set rfl ?_ ?_
    | apply Upd.of <;> intro hp <;>
        first | exact absurd hp (by decide) | with_reducible rfl | dsimp only
    | split
    | dsimp only [id]

theorem afterSet_changes {w₀ : Nat} {s₀ s : State} (h₀ : Kept w₀ s₀ s)  (old : Option Nat)
    (hw₀ : within (parts [.free, .pages, .commits, .events, .billed, .heartwood, .recorder, .backup, .flash]) w₀ = true := by decide) :
    Kept w₀ s₀ (afterSet old s) := by
  refine h₀.trans (v := parts [.free, .pages, .commits, .events, .billed, .heartwood, .recorder, .backup, .flash]) ?_ hw₀
  clear h₀ hw₀
  unfold afterSet
  try dsimp only
  repeat' first
    | with_reducible first | exact Kept.refl _ _ | assumption
    | with_reducible first | refine evalRate_changes ?_ | refine openAtTime_changes ?_
    | with_reducible first | refine passBoundaries_changes ?_ _ _ _
    | with_reducible refine Kept.ite (fun _ => ?_) (fun _ => ?_)
    | simp only [↓kept_mk]; refine KeptMk.set rfl ?_ ?_
    | apply Upd.of <;> intro hp <;>
        first | exact absurd hp (by decide) | with_reducible rfl | dsimp only
    | split
    | dsimp only [id]

theorem setTime_changes {w₀ : Nat} {s₀ s : State} (h₀ : Kept w₀ s₀ s)  (v : BitVec 32) (source : Nat)
    (hw₀ : within (parts [.free, .pages, .commits, .events, .billed, .heartwood, .recorder, .backup, .flash]) w₀ = true := by decide) :
    Kept w₀ s₀ (setTime v source s) := by
  refine h₀.trans (v := parts [.free, .pages, .commits, .events, .billed, .heartwood, .recorder, .backup, .flash]) ?_ hw₀
  clear h₀ hw₀
  unfold setTime
  try dsimp only
  repeat' first
    | with_reducible first | exact Kept.refl _ _ | assumption
    | with_reducible first | refine afterSet_changes ?_ _ | refine emit_changes ?_ _ _ _
    | with_reducible first | refine noteFlagAll_changes ?_ _
    | with_reducible refine Kept.ite (fun _ => ?_) (fun _ => ?_)
    | simp only [↓kept_mk]; refine KeptMk.set rfl ?_ ?_
    | apply Upd.of <;> intro hp <;>
        first | exact absurd hp (by decide) | with_reducible rfl | dsimp only
    | split
    | dsimp only [id]

theorem recordOffset_changes {w₀ : Nat} {s₀ s : State} (h₀ : Kept w₀ s₀ s)  (source : Nat)
    (hw₀ : within (parts [.events, .recorder]) w₀ = true := by decide) :
    Kept w₀ s₀ (recordOffset source s) := by
  refine h₀.trans (v := parts [.events, .recorder]) ?_ hw₀
  clear h₀ hw₀
  unfold recordOffset
  try dsimp only
  repeat' first
    | with_reducible first | exact Kept.refl _ _ | assumption
    | with_reducible first | refine emit_changes ?_ _ _ _
    | with_reducible refine Kept.ite (fun _ => ?_) (fun _ => ?_)
    | split
    | dsimp only [id]

theorem setOffset_changes {w₀ : Nat} {s₀ s : State} (h₀ : Kept w₀ s₀ s)  (x : Int)
    (hw₀ : within (parts [.heartwood, .backup]) w₀ = true := by decide) :
    Kept w₀ s₀ (setOffset x s) := by
  refine h₀.trans (v := parts [.heartwood, .backup]) ?_ hw₀
  clear h₀ hw₀
  unfold setOffset
  try dsimp only
  repeat' first
    | with_reducible first | exact Kept.refl _ _ | assumption
    | with_reducible refine Kept.ite (fun _ => ?_) (fun _ => ?_)
    | simp only [↓kept_mk]; refine KeptMk.set rfl ?_ ?_
    | apply Upd.of <;> intro hp <;>
        first | exact absurd hp (by decide) | with_reducible rfl | dsimp only
    | split
    | dsimp only [id]

end Sys2Proof.Safety
end

