-- ==== Sys2Proof/Laws/Frames/Sram.lean ====
section
/-! SUPPORT. What each shared operation of Machine/Sram.lean may change. -/

set_option Elab.async false
set_option linter.unreachableTactic false
set_option linter.unusedTactic false
set_option linter.unusedSimpArgs false

namespace Sys2Proof.Safety

open Sys2Proof.Machine

theorem outcome_changes {w₀ : Nat} {s₀ s : State} (h₀ : Kept w₀ s₀ s)  (e : BitVec 79)
    (hw₀ : within (parts [.free]) w₀ = true := by decide) :
    Kept w₀ s₀ (outcome e s).2 := by
  refine h₀.trans (v := parts [.free]) ?_ hw₀
  clear h₀ hw₀
  unfold outcome
  try dsimp only
  repeat' first
    | with_reducible first | exact Kept.refl _ _ | assumption
    | with_reducible first | refine free_changes ?_ _
    | with_reducible refine Kept.ite (fun _ => ?_) (fun _ => ?_)
    | (with_reducible refine Kept.ofPair (by assumption) ?_)
    | split
    | dsimp only [id]

theorem putBad_changes {w₀ : Nat} {s₀ s : State} (h₀ : Kept w₀ s₀ s)  (w : BadWord)
    (hw₀ : within (parts [.memory]) w₀ = true := by decide) :
    Kept w₀ s₀ (putBad w s) := by
  refine h₀.trans (v := parts [.memory]) ?_ hw₀
  clear h₀ hw₀
  unfold putBad
  try dsimp only
  repeat' first
    | with_reducible first | exact Kept.refl _ _ | assumption
    | with_reducible refine Kept.ite (fun _ => ?_) (fun _ => ?_)
    | simp only [↓kept_mk]; refine KeptMk.set rfl ?_ ?_
    | apply Upd.of <;> intro hp <;>
        first | exact absurd hp (by decide) | with_reducible rfl | dsimp only
    | split
    | dsimp only [id]

theorem clearHard_changes {w₀ : Nat} {s₀ s : State} (h₀ : Kept w₀ s₀ s)  (p : BadWord → Bool) (mask : BitVec 79)
    (hw₀ : within (parts [.memory]) w₀ = true := by decide) :
    Kept w₀ s₀ (clearHard p mask s) := by
  refine h₀.trans (v := parts [.memory]) ?_ hw₀
  clear h₀ hw₀
  unfold clearHard
  try dsimp only
  repeat' first
    | with_reducible first | exact Kept.refl _ _ | assumption
    | with_reducible refine Kept.ite (fun _ => ?_) (fun _ => ?_)
    | simp only [↓kept_mk]; refine KeptMk.set rfl ?_ ?_
    | apply Upd.of <;> intro hp <;>
        first | exact absurd hp (by decide) | with_reducible rfl | dsimp only
    | split
    | dsimp only [id]

theorem softRepair_changes {w₀ : Nat} {s₀ s : State} (h₀ : Kept w₀ s₀ s)  (m kind idx spare : Nat) (entry : BitVec 32)
    (hw₀ : within (parts [.events, .memory, .recorder]) w₀ = true := by decide) :
    Kept w₀ s₀ (softRepair m kind idx spare entry s) := by
  refine h₀.trans (v := parts [.events, .memory, .recorder]) ?_ hw₀
  clear h₀ hw₀
  unfold softRepair
  try dsimp only
  repeat' first
    | with_reducible first | exact Kept.refl _ _ | assumption
    | with_reducible first | refine emit_changes ?_ _ _ _
    | with_reducible refine Kept.ite (fun _ => ?_) (fun _ => ?_)
    | simp only [↓kept_mk]; refine KeptMk.set rfl ?_ ?_
    | apply Upd.of <;> intro hp <;>
        first | exact absurd hp (by decide) | with_reducible rfl | dsimp only
    | split
    | dsimp only [id]

theorem repairHard_changes {w₀ : Nat} {s₀ s : State} (h₀ : Kept w₀ s₀ s)  (cells : List (Nat × Nat × Nat)) (a bit : Nat)
    (hw₀ : within (parts [.events, .memory, .recorder]) w₀ = true := by decide) :
    Kept w₀ s₀ (repairHard cells a bit s) := by
  refine h₀.trans (v := parts [.events, .memory, .recorder]) ?_ hw₀
  clear h₀ hw₀
  unfold repairHard
  try dsimp only
  repeat' first
    | with_reducible first | exact Kept.refl _ _ | assumption
    | with_reducible first | refine clearHard_changes ?_ _ _ | refine emit_changes ?_ _ _ _
    | with_reducible first | refine putBad_changes ?_ _ | refine softRepair_changes ?_ _ _ _ _ _
    | with_reducible refine Kept.ite (fun _ => ?_) (fun _ => ?_)
    | simp only [↓kept_mk]; refine KeptMk.set rfl ?_ ?_
    | apply Upd.of <;> intro hp <;>
        first | exact absurd hp (by decide) | with_reducible rfl | dsimp only
    | split
    | dsimp only [id]

theorem eccLast_changes {w₀ : Nat} {s₀ s : State} (h₀ : Kept w₀ s₀ s)  (a kind : Nat)
    (hw₀ : within (parts [.memory]) w₀ = true := by decide) :
    Kept w₀ s₀ (eccLast a kind s) := by
  refine h₀.trans (v := parts [.memory]) ?_ hw₀
  clear h₀ hw₀
  unfold eccLast
  try dsimp only
  repeat' first
    | with_reducible first | exact Kept.refl _ _ | assumption
    | with_reducible refine Kept.ite (fun _ => ?_) (fun _ => ?_)
    | simp only [↓kept_mk]; refine KeptMk.set rfl ?_ ?_
    | apply Upd.of <;> intro hp <;>
        first | exact absurd hp (by decide) | with_reducible rfl | dsimp only
    | split
    | dsimp only [id]

theorem corrected_changes {w₀ : Nat} {s₀ s : State} (h₀ : Kept w₀ s₀ s)  (a n stop : Nat)
    (hw₀ : within (parts [.events, .memory, .recorder]) w₀ = true := by decide) :
    Kept w₀ s₀ (corrected a n stop s) := by
  refine h₀.trans (v := parts [.events, .memory, .recorder]) ?_ hw₀
  clear h₀ hw₀
  unfold corrected
  try dsimp only
  repeat' first
    | with_reducible first | exact Kept.refl _ _ | assumption
    | with_reducible first | refine eccLast_changes ?_ _ _ | refine emit_changes ?_ _ _ _ | refine putBad_changes ?_ _
    | with_reducible first | refine repairHard_changes ?_ _ _ _ | refine Kept.foldl _ _ ?_ fun u x hu => ?_
    | with_reducible refine Kept.ite (fun _ => ?_) (fun _ => ?_)
    | simp only [↓kept_mk]; refine KeptMk.set rfl ?_ ?_
    | apply Upd.of <;> intro hp <;>
        first | exact absurd hp (by decide) | with_reducible rfl | dsimp only
    | split
    | dsimp only [id]

theorem uncorrectable_changes {w₀ : Nat} {s₀ s : State} (h₀ : Kept w₀ s₀ s)  (a stop action : Nat)
    (hw₀ : within (parts [.events, .memory, .recorder]) w₀ = true := by decide) :
    Kept w₀ s₀ (uncorrectable a stop action s) := by
  refine h₀.trans (v := parts [.events, .memory, .recorder]) ?_ hw₀
  clear h₀ hw₀
  unfold uncorrectable
  try dsimp only
  repeat' first
    | with_reducible first | exact Kept.refl _ _ | assumption
    | with_reducible first | refine eccLast_changes ?_ _ _ | refine emit_changes ?_ _ _ _
    | with_reducible first | refine raiseIrq_changes ?_ _
    | with_reducible refine Kept.ite (fun _ => ?_) (fun _ => ?_)
    | simp only [↓kept_mk]; refine KeptMk.set rfl ?_ ?_
    | apply Upd.of <;> intro hp <;>
        first | exact absurd hp (by decide) | with_reducible rfl | dsimp only
    | split
    | dsimp only [id]

theorem readWord_changes {w₀ : Nat} {s₀ s : State} (h₀ : Kept w₀ s₀ s)  (a stop : Nat)
    (hw₀ : within (parts [.free, .events, .memory, .recorder]) w₀ = true := by decide) :
    Kept w₀ s₀ (readWord a stop s).2 := by
  refine h₀.trans (v := parts [.free, .events, .memory, .recorder]) ?_ hw₀
  clear h₀ hw₀
  unfold readWord
  try dsimp only
  repeat' first
    | with_reducible first | exact Kept.refl _ _ | assumption
    | with_reducible first | refine corrected_changes ?_ _ _ _ | refine outcome_changes ?_ _
    | with_reducible refine Kept.ite (fun _ => ?_) (fun _ => ?_)
    | (with_reducible refine Kept.ofPair (by assumption) ?_)
    | split
    | dsimp only [id]

theorem writtenWord_changes {w₀ : Nat} {s₀ s : State} (h₀ : Kept w₀ s₀ s)  (a : Nat)
    (hw₀ : within (parts [.free, .memory]) w₀ = true := by decide) :
    Kept w₀ s₀ (writtenWord a s) := by
  refine h₀.trans (v := parts [.free, .memory]) ?_ hw₀
  clear h₀ hw₀
  unfold writtenWord
  try dsimp only
  repeat' first
    | with_reducible first | exact Kept.refl _ _ | assumption
    | with_reducible first | refine putBad_changes ?_ _ | refine free_changes ?_ _
    | with_reducible refine Kept.ite (fun _ => ?_) (fun _ => ?_)
    | simp only [↓kept_mk]; refine KeptMk.set rfl ?_ ?_
    | apply Upd.of <;> intro hp <;>
        first | exact absurd hp (by decide) | with_reducible rfl | dsimp only
    | (with_reducible refine Kept.ofPair (by assumption) ?_)
    | split
    | dsimp only [id]

theorem sramWrite_changes {w₀ : Nat} {s₀ s : State} (h₀ : Kept w₀ s₀ s)  (a : Nat) (bs : List Byte)
    (hw₀ : within (parts [.free, .memory, .cells]) w₀ = true := by decide) :
    Kept w₀ s₀ (sramWrite a bs s) := by
  refine h₀.trans (v := parts [.free, .memory, .cells]) ?_ hw₀
  clear h₀ hw₀
  unfold sramWrite
  try dsimp only
  repeat' first
    | with_reducible first | exact Kept.refl _ _ | assumption
    | with_reducible first | refine writtenWord_changes ?_ _ | refine Kept.foldl _ _ ?_ fun u x hu => ?_
    | with_reducible refine Kept.ite (fun _ => ?_) (fun _ => ?_)
    | simp only [↓kept_mk]; refine KeptMk.set rfl ?_ ?_
    | apply Upd.of <;> intro hp <;>
        first | exact absurd hp (by decide) | with_reducible rfl | dsimp only
    | split
    | dsimp only [id]

theorem bulkOut_changes {w₀ : Nat} {s₀ s : State} (h₀ : Kept w₀ s₀ s)  (type : Nat) (data : List Byte)
    (hw₀ : within (parts [.events, .bulk]) w₀ = true := by decide) :
    Kept w₀ s₀ (bulkOut type data s) := by
  refine h₀.trans (v := parts [.events, .bulk]) ?_ hw₀
  clear h₀ hw₀
  unfold bulkOut
  try dsimp only
  repeat' first
    | with_reducible first | exact Kept.refl _ _ | assumption
    | with_reducible first | refine raiseIrq_changes ?_ _
    | with_reducible refine Kept.ite (fun _ => ?_) (fun _ => ?_)
    | simp only [↓kept_mk]; refine KeptMk.set rfl ?_ ?_
    | apply Upd.of <;> intro hp <;>
        first | exact absurd hp (by decide) | with_reducible rfl | dsimp only
    | split
    | dsimp only [id]

theorem bulkIn_changes {w₀ : Nat} {s₀ s : State} (h₀ : Kept w₀ s₀ s)  (type : Nat)
    (hw₀ : within (parts [.events, .bulk]) w₀ = true := by decide) :
    Kept w₀ s₀ (bulkIn type s) := by
  refine h₀.trans (v := parts [.events, .bulk]) ?_ hw₀
  clear h₀ hw₀
  unfold bulkIn
  try dsimp only
  repeat' first
    | with_reducible first | exact Kept.refl _ _ | assumption
    | with_reducible first | refine raiseIrq_changes ?_ _
    | with_reducible refine Kept.ite (fun _ => ?_) (fun _ => ?_)
    | simp only [↓kept_mk]; refine KeptMk.set rfl ?_ ?_
    | apply Upd.of <;> intro hp <;>
        first | exact absurd hp (by decide) | with_reducible rfl | dsimp only
    | split
    | dsimp only [id]

end Sys2Proof.Safety
end

