-- ==== Sys2Proof/Laws/Frames/Ledger.lean ====
section
/-! SUPPORT. What each shared operation of Machine/Ledger.lean may change. -/

set_option Elab.async false
set_option linter.unreachableTactic false
set_option linter.unusedTactic false
set_option linter.unusedSimpArgs false

namespace Sys2Proof.Safety

open Sys2Proof.Machine

theorem compact_changes {w₀ : Nat} {s₀ s : State} (h₀ : Kept w₀ s₀ s)  
    (hw₀ : within (parts [.events, .recorder, .flash]) w₀ = true := by decide) :
    Kept w₀ s₀ (compact s) := by
  refine h₀.trans (v := parts [.events, .recorder, .flash]) ?_ hw₀
  clear h₀ hw₀
  unfold compact
  try dsimp only
  repeat' first
    | with_reducible first | exact Kept.refl _ _ | assumption
    | with_reducible first | refine emit_changes ?_ _ _ _
    | with_reducible refine Kept.ite (fun _ => ?_) (fun _ => ?_)
    | simp only [↓kept_mk]; refine KeptMk.set rfl ?_ ?_
    | apply Upd.of <;> intro hp <;>
        first | exact absurd hp (by decide) | with_reducible rfl | dsimp only
    | split
    | dsimp only [id]

theorem journalAs_changes {w₀ : Nat} {s₀ s : State} (h₀ : Kept w₀ s₀ s)  (ses : Option (Nat × Nat × Nat)) (i : Nat)
    (hw₀ : within (parts [.events, .recorder, .flash]) w₀ = true := by decide) :
    Kept w₀ s₀ (journalAs ses i s) := by
  refine h₀.trans (v := parts [.events, .recorder, .flash]) ?_ hw₀
  clear h₀ hw₀
  unfold journalAs
  try dsimp only
  repeat' first
    | with_reducible first | exact Kept.refl _ _ | assumption
    | with_reducible first | refine compact_changes ?_
    | with_reducible refine Kept.ite (fun _ => ?_) (fun _ => ?_)
    | simp only [↓kept_mk]; refine KeptMk.set rfl ?_ ?_
    | apply Upd.of <;> intro hp <;>
        first | exact absurd hp (by decide) | with_reducible rfl | dsimp only
    | split
    | dsimp only [id]

theorem journal_changes {w₀ : Nat} {s₀ s : State} (h₀ : Kept w₀ s₀ s)  (i : Nat)
    (hw₀ : within (parts [.events, .recorder, .flash]) w₀ = true := by decide) :
    Kept w₀ s₀ (journal i s) := by
  refine h₀.trans (v := parts [.events, .recorder, .flash]) ?_ hw₀
  clear h₀ hw₀
  unfold journal
  try dsimp only
  repeat' first
    | with_reducible first | exact Kept.refl _ _ | assumption
    | with_reducible first | refine journalAs_changes ?_ _ _
    | with_reducible refine Kept.ite (fun _ => ?_) (fun _ => ?_)
    | split
    | dsimp only [id]

theorem journalFor_changes {w₀ : Nat} {s₀ s : State} (h₀ : Kept w₀ s₀ s)  (b : Bough) (i : Nat)
    (hw₀ : within (parts [.events, .recorder, .flash]) w₀ = true := by decide) :
    Kept w₀ s₀ (journalFor b i s) := by
  refine h₀.trans (v := parts [.events, .recorder, .flash]) ?_ hw₀
  clear h₀ hw₀
  unfold journalFor
  try dsimp only
  repeat' first
    | with_reducible first | exact Kept.refl _ _ | assumption
    | with_reducible first | refine journalAs_changes ?_ _ _
    | with_reducible refine Kept.ite (fun _ => ?_) (fun _ => ?_)
    | split
    | dsimp only [id]

theorem putSlot_changes {w₀ : Nat} {s₀ s : State} (h₀ : Kept w₀ s₀ s)  (i : Nat) (r : List Byte)
    (hw₀ : within (parts [.free, .memory, .cells]) w₀ = true := by decide) :
    Kept w₀ s₀ (putSlot i r s) := by
  refine h₀.trans (v := parts [.free, .memory, .cells]) ?_ hw₀
  clear h₀ hw₀
  unfold putSlot
  try dsimp only
  repeat' first
    | with_reducible first | exact Kept.refl _ _ | assumption
    | with_reducible first | refine sramWrite_changes ?_ _ _
    | with_reducible refine Kept.ite (fun _ => ?_) (fun _ => ?_)
    | split
    | dsimp only [id]

theorem restoreSlot_changes {w₀ : Nat} {s₀ s : State} (h₀ : Kept w₀ s₀ s)  (i : Nat)
    (hw₀ : within (parts [.free, .events, .memory, .cells, .recorder]) w₀ = true := by decide) :
    Kept w₀ s₀ (restoreSlot i s) := by
  refine h₀.trans (v := parts [.free, .events, .memory, .cells, .recorder]) ?_ hw₀
  clear h₀ hw₀
  unfold restoreSlot
  try dsimp only
  repeat' first
    | with_reducible first | exact Kept.refl _ _ | assumption
    | with_reducible first | refine emit_changes ?_ _ _ _ | refine putSlot_changes ?_ _ _
    | with_reducible first | refine readWord_changes ?_ _ _
    | with_reducible refine Kept.ite (fun _ => ?_) (fun _ => ?_)
    | (with_reducible refine Kept.ofPair (by assumption) ?_)
    | split
    | dsimp only [id]

theorem readSlot_changes {w₀ : Nat} {s₀ s : State} (h₀ : Kept w₀ s₀ s)  (i : Nat)
    (hw₀ : within (parts [.free, .events, .memory, .cells, .recorder]) w₀ = true := by decide) :
    Kept w₀ s₀ (readSlot i s).2 := by
  refine h₀.trans (v := parts [.free, .events, .memory, .cells, .recorder]) ?_ hw₀
  clear h₀ hw₀
  unfold readSlot
  try dsimp only
  repeat' first
    | with_reducible first | exact Kept.refl _ _ | assumption
    | with_reducible first | refine readWord_changes ?_ _ _ | refine restoreSlot_changes ?_ _
    | with_reducible first | refine uncorrectable_changes ?_ _ _ _
    | with_reducible refine Kept.ite (fun _ => ?_) (fun _ => ?_)
    | simp only [↓kept_mk]; refine KeptMk.set rfl ?_ ?_
    | apply Upd.of <;> intro hp <;>
        first | exact absurd hp (by decide) | with_reducible rfl | dsimp only
    | (with_reducible refine Kept.ofPair (by assumption) ?_)
    | split
    | dsimp only [id]

theorem noteProbe_changes {w₀ : Nat} {s₀ s : State} (h₀ : Kept w₀ s₀ s)  (k : Nat)
    (hw₀ : within (parts [.sessionDev]) w₀ = true := by decide) :
    Kept w₀ s₀ (noteProbe k s) := by
  refine h₀.trans (v := parts [.sessionDev]) ?_ hw₀
  clear h₀ hw₀
  unfold noteProbe
  try dsimp only
  repeat' first
    | with_reducible first | exact Kept.refl _ _ | assumption
    | with_reducible refine Kept.ite (fun _ => ?_) (fun _ => ?_)
    | simp only [↓kept_mk]; refine KeptMk.set rfl ?_ ?_
    | apply Upd.of <;> intro hp <;>
        first | exact absurd hp (by decide) | with_reducible rfl | dsimp only
    | split
    | dsimp only [id]

theorem lookupFrom_changes {w : Nat} {s₀ s : State} (h : Kept w s₀ s) (d : List Byte) (n k : Nat)
    (hw : within (parts [.free, .events, .sessionDev, .memory, .cells, .recorder]) w = true := by decide) : Kept w s₀ (lookupFrom d n k s).2 := by
  refine h.trans (v := parts [.free, .events, .sessionDev, .memory, .cells, .recorder]) ?_ hw
  clear h hw
  induction n generalizing k s with
  | zero => exact noteProbe_changes (.refl _ _) _
  | succ n ih =>
    unfold lookupFrom
    dsimp only
    have hr := readSlot_changes (w₀ := parts [.free, .events, .sessionDev, .memory, .cells, .recorder]) (.refl _ s) ((homeSlot d + k) % ledgerSlots)
    split
    · rename_i e
      rw [e] at hr
      exact noteProbe_changes hr _
    · rename_i e
      rw [e] at hr
      split
      · exact noteProbe_changes hr _
      · split
        · exact noteProbe_changes hr _
        · exact hr.trans (ih _) (by decide)

theorem lookup_changes {w₀ : Nat} {s₀ s : State} (h₀ : Kept w₀ s₀ s)  (d : List Byte)
    (hw₀ : within (parts [.free, .events, .sessionDev, .memory, .cells, .recorder]) w₀ = true := by decide) :
    Kept w₀ s₀ (lookup d s).2 := by
  refine h₀.trans (v := parts [.free, .events, .sessionDev, .memory, .cells, .recorder]) ?_ hw₀
  clear h₀ hw₀
  unfold lookup
  try dsimp only
  repeat' first
    | with_reducible first | exact Kept.refl _ _ | assumption
    | with_reducible first | refine lookupFrom_changes ?_ _ _ _
    | with_reducible refine Kept.ite (fun _ => ?_) (fun _ => ?_)
    | (with_reducible refine Kept.ofPair (by assumption) ?_)
    | split
    | dsimp only [id]

theorem freeFrom_changes {w : Nat} {s₀ s : State} (h : Kept w s₀ s) (d : List Byte) (n k : Nat)
    (hw : within (parts [.free, .events, .sessionDev, .memory, .cells, .recorder]) w = true := by decide) : Kept w s₀ (freeFrom d n k s).2 := by
  refine h.trans (v := parts [.free, .events, .sessionDev, .memory, .cells, .recorder]) ?_ hw
  clear h hw
  induction n generalizing k s with
  | zero => exact noteProbe_changes (.refl _ _) _
  | succ n ih =>
    unfold freeFrom
    dsimp only
    have hr := readSlot_changes (w₀ := parts [.free, .events, .sessionDev, .memory, .cells, .recorder]) (.refl _ s) ((homeSlot d + k) % ledgerSlots)
    split
    · rename_i e
      rw [e] at hr
      split
      · exact hr.trans (ih _) (by decide)
      · exact noteProbe_changes hr _
    · rename_i e
      rw [e] at hr
      exact hr.trans (ih _) (by decide)

theorem insertRecord_changes {w₀ : Nat} {s₀ s : State} (h₀ : Kept w₀ s₀ s)  (r : List Byte)
    (hw₀ : within (parts [.free, .events, .sessionDev, .memory, .cells, .recorder]) w₀ = true := by decide) :
    Kept w₀ s₀ (insertRecord r s).2 := by
  refine h₀.trans (v := parts [.free, .events, .sessionDev, .memory, .cells, .recorder]) ?_ hw₀
  clear h₀ hw₀
  unfold insertRecord
  try dsimp only
  repeat' first
    | with_reducible first | exact Kept.refl _ _ | assumption
    | with_reducible first | refine emit_changes ?_ _ _ _ | refine freeFrom_changes ?_ _ _ _
    | with_reducible first | refine putSlot_changes ?_ _ _
    | with_reducible refine Kept.ite (fun _ => ?_) (fun _ => ?_)
    | simp only [↓kept_mk]; refine KeptMk.set rfl ?_ ?_
    | apply Upd.of <;> intro hp <;>
        first | exact absurd hp (by decide) | with_reducible rfl | dsimp only
    | (with_reducible refine Kept.ofPair (by assumption) ?_)
    | split
    | dsimp only [id]

theorem keepEc_changes {w₀ : Nat} {s₀ s : State} (h₀ : Kept w₀ s₀ s)  (i used : Nat)
    (hw₀ : within (parts [.sessions]) w₀ = true := by decide) :
    Kept w₀ s₀ (keepEc i used s) := by
  refine h₀.trans (v := parts [.sessions]) ?_ hw₀
  clear h₀ hw₀
  unfold keepEc
  try dsimp only
  repeat' first
    | with_reducible first | exact Kept.refl _ _ | assumption
    | with_reducible refine Kept.ite (fun _ => ?_) (fun _ => ?_)
    | simp only [↓kept_mk]; refine KeptMk.set rfl ?_ ?_
    | apply Upd.of <;> intro hp <;>
        first | exact absurd hp (by decide) | with_reducible rfl | dsimp only
    | split
    | dsimp only [id]

theorem debitSession_changes {w₀ : Nat} {s₀ s : State} (h₀ : Kept w₀ s₀ s)  (b : Bough)
    (hw₀ : within (parts [.free, .sessions, .memory, .cells]) w₀ = true := by decide) :
    Kept w₀ s₀ (debitSession b s) := by
  refine h₀.trans (v := parts [.free, .sessions, .memory, .cells]) ?_ hw₀
  clear h₀ hw₀
  unfold debitSession
  try dsimp only
  repeat' first
    | with_reducible first | exact Kept.refl _ _ | assumption
    | with_reducible first | refine keepEc_changes ?_ _ _ | refine putSlot_changes ?_ _ _
    | with_reducible first | refine onSes_changes ?_ _ _
    | with_reducible refine Kept.ite (fun _ => ?_) (fun _ => ?_)
    | simp only [↓kept_mk]; refine KeptMk.set rfl ?_ ?_
    | apply Upd.of <;> intro hp <;>
        first | exact absurd hp (by decide) | with_reducible rfl | dsimp only
    | split
    | dsimp only [id]

end Sys2Proof.Safety
end

