-- ==== Sys2Proof/Laws/Frames/SesCore.lean ====
section
/-! SUPPORT. What each shared operation of Machine/SesCore.lean may change. -/

set_option Elab.async false
set_option linter.unreachableTactic false
set_option linter.unusedTactic false
set_option linter.unusedSimpArgs false

namespace Sys2Proof.Safety

open Sys2Proof.Machine

theorem leaveNetwork_changes {w₀ : Nat} {s₀ s : State} (h₀ : Kept w₀ s₀ s)  (b : Bough)
    (hw₀ : within (parts [.ports, .modems, .association]) w₀ = true := by decide) :
    Kept w₀ s₀ (leaveNetwork b s) := by
  refine h₀.trans (v := parts [.ports, .modems, .association]) ?_ hw₀
  clear h₀ hw₀
  unfold leaveNetwork
  try dsimp only
  repeat' first
    | with_reducible first | exact Kept.refl _ _ | assumption
    | with_reducible first | refine onLink_changes ?_ _ _ | refine onPort_changes ?_ _ _
    | with_reducible refine Kept.ite (fun _ => ?_) (fun _ => ?_)
    | simp only [↓kept_mk]; refine KeptMk.set rfl ?_ ?_
    | apply Upd.of <;> intro hp <;>
        first | exact absurd hp (by decide) | with_reducible rfl | dsimp only
    | split
    | dsimp only [id]

theorem setOutput_changes {w₀ : Nat} {s₀ s : State} (h₀ : Kept w₀ s₀ s)  (b : Bough)
    (hw₀ : within (parts [.events, .ports, .safety, .recorder]) w₀ = true := by decide) :
    Kept w₀ s₀ (setOutput b s) := by
  refine h₀.trans (v := parts [.events, .ports, .safety, .recorder]) ?_ hw₀
  clear h₀ hw₀
  unfold setOutput
  try dsimp only
  repeat' first
    | with_reducible first | exact Kept.refl _ _ | assumption
    | with_reducible first | refine emit_changes ?_ _ _ _ | refine onPort_changes ?_ _ _
    | with_reducible first | refine onSaf_changes_view ?_ _ _ ?_
    | exact SameView.of fun x => by first | rfl | (dsimp only; split <;> rfl)
    | with_reducible refine Kept.ite (fun _ => ?_) (fun _ => ?_)
    | simp only [↓kept_mk]; refine KeptMk.set rfl ?_ ?_
    | apply Upd.of <;> intro hp <;>
        first | exact absurd hp (by decide) | with_reducible rfl | dsimp only
    | split
    | dsimp only [id]

theorem releaseHeld_changes {w₀ : Nat} {s₀ s : State} (h₀ : Kept w₀ s₀ s)  (b : Bough)
    (hw₀ : within (parts [.events, .ports, .safety, .recorder]) w₀ = true := by decide) :
    Kept w₀ s₀ (releaseHeld b s) := by
  refine h₀.trans (v := parts [.events, .ports, .safety, .recorder]) ?_ hw₀
  clear h₀ hw₀
  unfold releaseHeld
  try dsimp only
  repeat' first
    | with_reducible first | exact Kept.refl _ _ | assumption
    | with_reducible first | refine setOutput_changes ?_ _ | refine onPort_changes ?_ _ _
    | with_reducible first | refine Kept.forBoughs _ ?_ fun b u hu => ?_
    | with_reducible refine Kept.ite (fun _ => ?_) (fun _ => ?_)
    | simp only [↓kept_mk]; refine KeptMk.set rfl ?_ ?_
    | apply Upd.of <;> intro hp <;>
        first | exact absurd hp (by decide) | with_reducible rfl | dsimp only
    | split
    | dsimp only [id]

theorem closeWindow_changes {w₀ : Nat} {s₀ s : State} (h₀ : Kept w₀ s₀ s)  (b : Bough)
    (hw₀ : within (parts [.events, .ports, .safety, .recorder]) w₀ = true := by decide) :
    Kept w₀ s₀ (closeWindow b s) := by
  refine h₀.trans (v := parts [.events, .ports, .safety, .recorder]) ?_ hw₀
  clear h₀ hw₀
  unfold closeWindow
  try dsimp only
  repeat' first
    | with_reducible first | exact Kept.refl _ _ | assumption
    | with_reducible first | refine releaseHeld_changes ?_ _ | refine onPort_changes ?_ _ _
    | with_reducible refine Kept.ite (fun _ => ?_) (fun _ => ?_)
    | simp only [↓kept_mk]; refine KeptMk.set rfl ?_ ?_
    | apply Upd.of <;> intro hp <;>
        first | exact absurd hp (by decide) | with_reducible rfl | dsimp only
    | split
    | dsimp only [id]

theorem backToA_changes {w₀ : Nat} {s₀ s : State} (h₀ : Kept w₀ s₀ s)  (b : Bough)
    (hw₀ : within (parts [.events, .ports, .modems, .association, .safety, .recorder]) w₀ = true := by decide) :
    Kept w₀ s₀ (backToA b s) := by
  refine h₀.trans (v := parts [.events, .ports, .modems, .association, .safety, .recorder]) ?_ hw₀
  clear h₀ hw₀
  unfold backToA
  try dsimp only
  repeat' first
    | with_reducible first | exact Kept.refl _ _ | assumption
    | with_reducible first | refine closeWindow_changes ?_ _ | refine leaveNetwork_changes ?_ _
    | with_reducible first | refine onPort_changes ?_ _ _
    | with_reducible refine Kept.ite (fun _ => ?_) (fun _ => ?_)
    | simp only [↓kept_mk]; refine KeptMk.set rfl ?_ ?_
    | apply Upd.of <;> intro hp <;>
        first | exact absurd hp (by decide) | with_reducible rfl | dsimp only
    | split
    | dsimp only [id]

theorem driveOutput_changes {w₀ : Nat} {s₀ s : State} (h₀ : Kept w₀ s₀ s)  (b : Bough)
    (hw₀ : within (parts [.events, .ports, .modems, .association, .safety, .recorder]) w₀ = true := by decide) :
    Kept w₀ s₀ (driveOutput b s) := by
  refine h₀.trans (v := parts [.events, .ports, .modems, .association, .safety, .recorder]) ?_ hw₀
  clear h₀ hw₀
  unfold driveOutput
  try dsimp only
  repeat' first
    | with_reducible first | exact Kept.refl _ _ | assumption
    | with_reducible first | refine backToA_changes ?_ _ | refine setOutput_changes ?_ _
    | with_reducible refine Kept.ite (fun _ => ?_) (fun _ => ?_)
    | split
    | dsimp only [id]

theorem driveAll_changes {w₀ : Nat} {s₀ s : State} (h₀ : Kept w₀ s₀ s)  
    (hw₀ : within (parts [.events, .ports, .modems, .association, .safety, .recorder]) w₀ = true := by decide) :
    Kept w₀ s₀ (driveAll s) := by
  refine h₀.trans (v := parts [.events, .ports, .modems, .association, .safety, .recorder]) ?_ hw₀
  clear h₀ hw₀
  unfold driveAll
  try dsimp only
  repeat' first
    | with_reducible first | exact Kept.refl _ _ | assumption
    | with_reducible first | refine driveOutput_changes ?_ _ | refine Kept.forBoughs _ ?_ fun b u hu => ?_
    | with_reducible refine Kept.ite (fun _ => ?_) (fun _ => ?_)
    | split
    | dsimp only [id]

theorem recalcCeil_changes {w₀ : Nat} {s₀ s : State} (h₀ : Kept w₀ s₀ s)  (b : Bough)
    (hw₀ : within (parts [.sessions, .powerLinks]) w₀ = true := by decide) :
    Kept w₀ s₀ (recalcCeil b s) := by
  refine h₀.trans (v := parts [.sessions, .powerLinks]) ?_ hw₀
  clear h₀ hw₀
  unfold recalcCeil
  try dsimp only
  repeat' first
    | with_reducible first | exact Kept.refl _ _ | assumption
    | with_reducible first | refine onSes_changes ?_ _ _ | refine onSesL_changes ?_ _ _
    | with_reducible refine Kept.ite (fun _ => ?_) (fun _ => ?_)
    | simp only [↓kept_mk]; refine KeptMk.set rfl ?_ ?_
    | apply Upd.of <;> intro hp <;>
        first | exact absurd hp (by decide) | with_reducible rfl | dsimp only
    | split
    | dsimp only [id]

theorem powerRequest_changes {w₀ : Nat} {s₀ s : State} (h₀ : Kept w₀ s₀ s)  (b : Bough)
    (hw₀ : within (parts [.events, .powerLinks, .recorder]) w₀ = true := by decide) :
    Kept w₀ s₀ (powerRequest b s) := by
  refine h₀.trans (v := parts [.events, .powerLinks, .recorder]) ?_ hw₀
  clear h₀ hw₀
  unfold powerRequest
  try dsimp only
  repeat' first
    | with_reducible first | exact Kept.refl _ _ | assumption
    | with_reducible first | refine emit_changes ?_ _ _ _ | refine onSesL_changes ?_ _ _
    | with_reducible refine Kept.ite (fun _ => ?_) (fun _ => ?_)
    | simp only [↓kept_mk]; refine KeptMk.set rfl ?_ ?_
    | apply Upd.of <;> intro hp <;>
        first | exact absurd hp (by decide) | with_reducible rfl | dsimp only
    | split
    | dsimp only [id]

theorem withRequest_changes {w : Nat} {s₀ s : State} (h : Kept w s₀ s) (b : Bough) (f : State → State)
    (hf : ∀ u, Kept w s₀ u → Kept w s₀ (f u)) (hw : within (parts [.events, .ports, .modems, .association, .sessions, .powerLinks, .safety, .recorder]) w = true := by decide) :
    Kept w s₀ (withRequest b f s) := by
  refine (hf s h).trans (v := parts [.events, .ports, .modems, .association, .sessions, .powerLinks, .safety, .recorder]) ?_ hw
  unfold withRequest
  dsimp only
  split
  · exact driveOutput_changes (recalcCeil_changes (.refl _ _) _) _
  · exact powerRequest_changes (driveOutput_changes (recalcCeil_changes (.refl _ _) _) _) _

theorem recalcAll_changes {w₀ : Nat} {s₀ s : State} (h₀ : Kept w₀ s₀ s)  
    (hw₀ : within (parts [.events, .ports, .modems, .association, .sessions, .powerLinks, .safety, .recorder]) w₀ = true := by decide) :
    Kept w₀ s₀ (recalcAll s) := by
  refine h₀.trans (v := parts [.events, .ports, .modems, .association, .sessions, .powerLinks, .safety, .recorder]) ?_ hw₀
  clear h₀ hw₀
  unfold recalcAll
  try dsimp only
  repeat' first
    | with_reducible first | exact Kept.refl _ _ | assumption
    | with_reducible first | refine withRequest_changes ?_ _ _ (fun u hu => ?_)
    | with_reducible first | refine Kept.forBoughs _ ?_ fun b u hu => ?_
    | with_reducible refine Kept.ite (fun _ => ?_) (fun _ => ?_)
    | split
    | dsimp only [id]

theorem goState_changes {w₀ : Nat} {s₀ s : State} (h₀ : Kept w₀ s₀ s)  (b : Bough) (st : SesState)
    (hw₀ : within (parts [.free, .events, .ports, .modems, .association, .sessions, .powerLinks, .safety, .loads, .display, .recorder]) w₀ = true := by decide) :
    Kept w₀ s₀ (goState b st s) := by
  refine h₀.trans (v := parts [.free, .events, .ports, .modems, .association, .sessions, .powerLinks, .safety, .loads, .display, .recorder]) ?_ hw₀
  clear h₀ hw₀
  unfold goState
  try dsimp only
  repeat' first
    | with_reducible first | exact Kept.refl _ _ | assumption
    | with_reducible first | refine auxAll_changes ?_ | refine emit_changes ?_ _ _ _ | refine leaveLowPower_changes ?_
    | with_reducible first | refine onSes_changes ?_ _ _ | refine withRequest_changes ?_ _ _ (fun u hu => ?_)
    | with_reducible refine Kept.ite (fun _ => ?_) (fun _ => ?_)
    | simp only [↓kept_mk]; refine KeptMk.set rfl ?_ ?_
    | apply Upd.of <;> intro hp <;>
        first | exact absurd hp (by decide) | with_reducible rfl | dsimp only
    | split
    | dsimp only [id]

theorem reportCost_changes {w₀ : Nat} {s₀ s : State} (h₀ : Kept w₀ s₀ s)  (b : Bough)
    (hw₀ : within (parts [.sessions]) w₀ = true := by decide) :
    Kept w₀ s₀ (reportCost b s) := by
  refine h₀.trans (v := parts [.sessions]) ?_ hw₀
  clear h₀ hw₀
  unfold reportCost
  try dsimp only
  repeat' first
    | with_reducible first | exact Kept.refl _ _ | assumption
    | with_reducible first | refine onSes_changes ?_ _ _
    | with_reducible refine Kept.ite (fun _ => ?_) (fun _ => ?_)
    | simp only [↓kept_mk]; refine KeptMk.set rfl ?_ ?_
    | apply Upd.of <;> intro hp <;>
        first | exact absurd hp (by decide) | with_reducible rfl | dsimp only
    | split
    | dsimp only [id]

theorem noteHistogram_changes {w₀ : Nat} {s₀ s : State} (h₀ : Kept w₀ s₀ s)  (b : Bough)
    (hw₀ : within (parts [.powerLinks]) w₀ = true := by decide) :
    Kept w₀ s₀ (noteHistogram b s) := by
  refine h₀.trans (v := parts [.powerLinks]) ?_ hw₀
  clear h₀ hw₀
  unfold noteHistogram
  try dsimp only
  repeat' first
    | with_reducible first | exact Kept.refl _ _ | assumption
    | with_reducible first | refine onSesL_changes ?_ _ _
    | with_reducible refine Kept.ite (fun _ => ?_) (fun _ => ?_)
    | simp only [↓kept_mk]; refine KeptMk.set rfl ?_ ?_
    | apply Upd.of <;> intro hp <;>
        first | exact absurd hp (by decide) | with_reducible rfl | dsimp only
    | split
    | dsimp only [id]

theorem lateReading_changes {w₀ : Nat} {s₀ s : State} (h₀ : Kept w₀ s₀ s)  (b : Bough)
    (hw₀ : within (parts [.free, .powerLinks, .billed, .heartwood, .flash]) w₀ = true := by decide) :
    Kept w₀ s₀ (lateReading b s) := by
  refine h₀.trans (v := parts [.free, .powerLinks, .billed, .heartwood, .flash]) ?_ hw₀
  clear h₀ hw₀
  unfold lateReading
  try dsimp only
  repeat' first
    | with_reducible first | exact Kept.refl _ _ | assumption
    | with_reducible first | refine signReading_changes ?_ _ _ | refine onSesL_changes ?_ _ _
    | with_reducible refine Kept.ite (fun _ => ?_) (fun _ => ?_)
    | simp only [↓kept_mk]; refine KeptMk.set rfl ?_ ?_
    | apply Upd.of <;> intro hp <;>
        first | exact absurd hp (by decide) | with_reducible rfl | dsimp only
    | split
    | dsimp only [id]

theorem discardIdents_changes {w₀ : Nat} {s₀ s : State} (h₀ : Kept w₀ s₀ s)  (b : Bough) (is : List Ident)
    (hw₀ : within (parts [.events, .recorder]) w₀ = true := by decide) :
    Kept w₀ s₀ (discardIdents b is s) := by
  refine h₀.trans (v := parts [.events, .recorder]) ?_ hw₀
  clear h₀ hw₀
  unfold discardIdents
  try dsimp only
  repeat' first
    | with_reducible first | exact Kept.refl _ _ | assumption
    | with_reducible first | refine answer_changes ?_ _ _ _ _ | refine Kept.foldl _ _ ?_ fun u x hu => ?_
    | with_reducible refine Kept.ite (fun _ => ?_) (fun _ => ?_)
    | split
    | dsimp only [id]

theorem closeSession_changes {w₀ : Nat} {s₀ s : State} (h₀ : Kept w₀ s₀ s)  (b : Bough)
    (hw₀ : within (parts [.free, .events, .sessions, .powerLinks, .billed, .heartwood, .memory, .cells, .recorder, .flash]) w₀ = true := by decide) :
    Kept w₀ s₀ (closeSession b s) := by
  refine h₀.trans (v := parts [.free, .events, .sessions, .powerLinks, .billed, .heartwood, .memory, .cells, .recorder, .flash]) ?_ hw₀
  clear h₀ hw₀
  unfold closeSession
  try dsimp only
  repeat' first
    | with_reducible first | exact Kept.refl _ _ | assumption
    | with_reducible first | refine answer_changes ?_ _ _ _ _ | refine debitSession_changes ?_ _
    | with_reducible first | refine discardIdents_changes ?_ _ _ | refine emit_changes ?_ _ _ _
    | with_reducible first | refine endReading_changes ?_ _ | refine journalFor_changes ?_ _ _
    | with_reducible first | refine lateReading_changes ?_ _ | refine noteHistogram_changes ?_ _
    | with_reducible first | refine reportCost_changes ?_ _ | refine onSes_changes ?_ _ _
    | with_reducible first | refine onSesL_changes ?_ _ _
    | with_reducible refine Kept.ite (fun _ => ?_) (fun _ => ?_)
    | simp only [↓kept_mk]; refine KeptMk.set rfl ?_ ?_
    | apply Upd.of <;> intro hp <;>
        first | exact absurd hp (by decide) | with_reducible rfl | dsimp only
    | split
    | dsimp only [id]

theorem finishSession_changes {w₀ : Nat} {s₀ s : State} (h₀ : Kept w₀ s₀ s)  (b : Bough)
    (hw₀ : within (parts [.free, .events, .ports, .modems, .association, .sessions, .powerLinks, .safety, .billed, .heartwood, .loads, .display, .memory, .cells, .recorder, .flash]) w₀ = true := by decide) :
    Kept w₀ s₀ (finishSession b s) := by
  refine h₀.trans (v := parts [.free, .events, .ports, .modems, .association, .sessions, .powerLinks, .safety, .billed, .heartwood, .loads, .display, .memory, .cells, .recorder, .flash]) ?_ hw₀
  clear h₀ hw₀
  unfold finishSession
  try dsimp only
  repeat' first
    | with_reducible first | exact Kept.refl _ _ | assumption
    | with_reducible first | refine closeSession_changes ?_ _ | refine goState_changes ?_ _ _
    | with_reducible first | refine leaveNetwork_changes ?_ _
    | with_reducible refine Kept.ite (fun _ => ?_) (fun _ => ?_)
    | split
    | dsimp only [id]

theorem idleSession_changes {w₀ : Nat} {s₀ s : State} (h₀ : Kept w₀ s₀ s)  (b : Bough)
    (hw₀ : within (parts [.free, .events, .ports, .modems, .association, .sessions, .powerLinks, .safety, .loads, .display, .recorder]) w₀ = true := by decide) :
    Kept w₀ s₀ (idleSession b s) := by
  refine h₀.trans (v := parts [.free, .events, .ports, .modems, .association, .sessions, .powerLinks, .safety, .loads, .display, .recorder]) ?_ hw₀
  clear h₀ hw₀
  unfold idleSession
  try dsimp only
  repeat' first
    | with_reducible first | exact Kept.refl _ _ | assumption
    | with_reducible first | refine goState_changes ?_ _ _ | refine leaveNetwork_changes ?_ _
    | with_reducible first | refine onPort_changes ?_ _ _ | refine onSaf_changes_view ?_ _ _ ?_
    | with_reducible first | refine onSes_changes ?_ _ _ | refine onSesL_changes ?_ _ _
    | with_reducible first | refine withRequest_changes ?_ _ _ (fun u hu => ?_)
    | exact SameView.of fun x => by first | rfl | (dsimp only; split <;> rfl)
    | with_reducible refine Kept.ite (fun _ => ?_) (fun _ => ?_)
    | simp only [↓kept_mk]; refine KeptMk.set rfl ?_ ?_
    | apply Upd.of <;> intro hp <;>
        first | exact absurd hp (by decide) | with_reducible rfl | dsimp only
    | split
    | dsimp only [id]

theorem endEarly_changes {w₀ : Nat} {s₀ s : State} (h₀ : Kept w₀ s₀ s)  (b : Bough) (reason : Nat)
    (hw₀ : within (parts [.free, .events, .ports, .modems, .association, .sessions, .powerLinks, .safety, .billed, .heartwood, .loads, .display, .memory, .cells, .recorder, .flash]) w₀ = true := by decide) :
    Kept w₀ s₀ (endEarly b reason s) := by
  refine h₀.trans (v := parts [.free, .events, .ports, .modems, .association, .sessions, .powerLinks, .safety, .billed, .heartwood, .loads, .display, .memory, .cells, .recorder, .flash]) ?_ hw₀
  clear h₀ hw₀
  unfold endEarly
  try dsimp only
  repeat' first
    | with_reducible first | exact Kept.refl _ _ | assumption
    | with_reducible first | refine closeSession_changes ?_ _ | refine idleSession_changes ?_ _
    | with_reducible first | refine onSes_changes ?_ _ _
    | with_reducible refine Kept.ite (fun _ => ?_) (fun _ => ?_)
    | simp only [↓kept_mk]; refine KeptMk.set rfl ?_ ?_
    | apply Upd.of <;> intro hp <;>
        first | exact absurd hp (by decide) | with_reducible rfl | dsimp only
    | split
    | dsimp only [id]

theorem stopDone_changes {w₀ : Nat} {s₀ s : State} (h₀ : Kept w₀ s₀ s)  (b : Bough)
    (hw₀ : within (parts [.free, .events, .ports, .modems, .association, .sessions, .powerLinks, .safety, .billed, .heartwood, .loads, .display, .memory, .cells, .recorder, .flash]) w₀ = true := by decide) :
    Kept w₀ s₀ (stopDone b s) := by
  refine h₀.trans (v := parts [.free, .events, .ports, .modems, .association, .sessions, .powerLinks, .safety, .billed, .heartwood, .loads, .display, .memory, .cells, .recorder, .flash]) ?_ hw₀
  clear h₀ hw₀
  unfold stopDone
  try dsimp only
  repeat' first
    | with_reducible first | exact Kept.refl _ _ | assumption
    | with_reducible first | refine finishSession_changes ?_ _ | refine idleSession_changes ?_ _
    | with_reducible refine Kept.ite (fun _ => ?_) (fun _ => ?_)
    | split
    | dsimp only [id]

theorem enterStopping_changes {w₀ : Nat} {s₀ s : State} (h₀ : Kept w₀ s₀ s)  (b : Bough) (reason : Nat)
    (hw₀ : within (parts [.free, .events, .ports, .modems, .association, .sessions, .powerLinks, .safety, .billed, .heartwood, .loads, .display, .memory, .cells, .recorder, .flash]) w₀ = true := by decide) :
    Kept w₀ s₀ (enterStopping b reason s) := by
  refine h₀.trans (v := parts [.free, .events, .ports, .modems, .association, .sessions, .powerLinks, .safety, .billed, .heartwood, .loads, .display, .memory, .cells, .recorder, .flash]) ?_ hw₀
  clear h₀ hw₀
  unfold enterStopping
  try dsimp only
  repeat' first
    | with_reducible first | exact Kept.refl _ _ | assumption
    | with_reducible first | refine goState_changes ?_ _ _ | refine stopDone_changes ?_ _
    | with_reducible first | refine onSaf_changes_view ?_ _ _ ?_ | refine onSes_changes ?_ _ _
    | with_reducible first | refine onSesL_changes ?_ _ _
    | exact SameView.of fun x => by first | rfl | (dsimp only; split <;> rfl)
    | with_reducible refine Kept.ite (fun _ => ?_) (fun _ => ?_)
    | simp only [↓kept_mk]; refine KeptMk.set rfl ?_ ?_
    | apply Upd.of <;> intro hp <;>
        first | exact absurd hp (by decide) | with_reducible rfl | dsimp only
    | split
    | dsimp only [id]

theorem stopSession_changes {w₀ : Nat} {s₀ s : State} (h₀ : Kept w₀ s₀ s)  (b : Bough) (reason : Nat)
    (hw₀ : within (parts [.free, .events, .ports, .modems, .association, .sessions, .powerLinks, .safety, .billed, .heartwood, .loads, .display, .memory, .cells, .recorder, .flash]) w₀ = true := by decide) :
    Kept w₀ s₀ (stopSession b reason s) := by
  refine h₀.trans (v := parts [.free, .events, .ports, .modems, .association, .sessions, .powerLinks, .safety, .billed, .heartwood, .loads, .display, .memory, .cells, .recorder, .flash]) ?_ hw₀
  clear h₀ hw₀
  unfold stopSession
  try dsimp only
  repeat' first
    | with_reducible first | exact Kept.refl _ _ | assumption
    | with_reducible first | refine enterStopping_changes ?_ _ _ | refine finishSession_changes ?_ _
    | with_reducible first | refine onSes_changes ?_ _ _
    | with_reducible refine Kept.ite (fun _ => ?_) (fun _ => ?_)
    | simp only [↓kept_mk]; refine KeptMk.set rfl ?_ ?_
    | apply Upd.of <;> intro hp <;>
        first | exact absurd hp (by decide) | with_reducible rfl | dsimp only
    | split
    | dsimp only [id]

theorem faultSession_changes {w₀ : Nat} {s₀ s : State} (h₀ : Kept w₀ s₀ s)  (b : Bough) (reason : Nat)
    (hw₀ : within (parts [.free, .events, .ports, .modems, .association, .sessions, .powerLinks, .safety, .billed, .heartwood, .loads, .display, .memory, .cells, .recorder, .flash]) w₀ = true := by decide) :
    Kept w₀ s₀ (faultSession b reason s) := by
  refine h₀.trans (v := parts [.free, .events, .ports, .modems, .association, .sessions, .powerLinks, .safety, .billed, .heartwood, .loads, .display, .memory, .cells, .recorder, .flash]) ?_ hw₀
  clear h₀ hw₀
  unfold faultSession
  try dsimp only
  repeat' first
    | with_reducible first | exact Kept.refl _ _ | assumption
    | with_reducible first | refine closeSession_changes ?_ _ | refine goState_changes ?_ _ _
    | with_reducible first | refine leaveNetwork_changes ?_ _ | refine onSaf_changes_view ?_ _ _ ?_
    | with_reducible first | refine onSes_changes ?_ _ _
    | exact SameView.of fun x => by first | rfl | (dsimp only; split <;> rfl)
    | with_reducible refine Kept.ite (fun _ => ?_) (fun _ => ?_)
    | simp only [↓kept_mk]; refine KeptMk.set rfl ?_ ?_
    | apply Upd.of <;> intro hp <;>
        first | exact absurd hp (by decide) | with_reducible rfl | dsimp only
    | split
    | dsimp only [id]

theorem leaveSession_changes {w₀ : Nat} {s₀ s : State} (h₀ : Kept w₀ s₀ s)  (b : Bough) (reason : Nat)
    (hw₀ : within (parts [.free, .events, .ports, .modems, .association, .sessions, .powerLinks, .safety, .billed, .heartwood, .loads, .display, .memory, .cells, .recorder, .flash]) w₀ = true := by decide) :
    Kept w₀ s₀ (leaveSession b reason s) := by
  refine h₀.trans (v := parts [.free, .events, .ports, .modems, .association, .sessions, .powerLinks, .safety, .billed, .heartwood, .loads, .display, .memory, .cells, .recorder, .flash]) ?_ hw₀
  clear h₀ hw₀
  unfold leaveSession
  try dsimp only
  repeat' first
    | with_reducible first | exact Kept.refl _ _ | assumption
    | with_reducible first | refine endEarly_changes ?_ _ _ | refine enterStopping_changes ?_ _ _
    | with_reducible first | refine idleSession_changes ?_ _
    | with_reducible refine Kept.ite (fun _ => ?_) (fun _ => ?_)
    | simp only [↓kept_mk]; refine KeptMk.set rfl ?_ ?_
    | apply Upd.of <;> intro hp <;>
        first | exact absurd hp (by decide) | with_reducible rfl | dsimp only
    | split
    | dsimp only [id]

theorem connect_changes {w₀ : Nat} {s₀ s : State} (h₀ : Kept w₀ s₀ s)  (b : Bough)
    (hw₀ : within (parts [.free, .events, .ports, .modems, .association, .sessions, .powerLinks, .sessionDev, .safety, .measures, .loads, .display, .recorder]) w₀ = true := by decide) :
    Kept w₀ s₀ (connect b s) := by
  refine h₀.trans (v := parts [.free, .events, .ports, .modems, .association, .sessions, .powerLinks, .sessionDev, .safety, .measures, .loads, .display, .recorder]) ?_ hw₀
  clear h₀ hw₀
  unfold connect
  try dsimp only
  repeat' first
    | with_reducible first | exact Kept.refl _ _ | assumption
    | with_reducible first | refine goState_changes ?_ _ _ | refine onMeas_changes ?_ _ _
    | with_reducible first | refine onSes_changes ?_ _ _ | refine onSesL_changes ?_ _ _
    | with_reducible refine Kept.ite (fun _ => ?_) (fun _ => ?_)
    | simp only [↓kept_mk]; refine KeptMk.set rfl ?_ ?_
    | apply Upd.of <;> intro hp <;>
        first | exact absurd hp (by decide) | with_reducible rfl | dsimp only
    | split
    | dsimp only [id]

theorem authResult_changes {w₀ : Nat} {s₀ s : State} (h₀ : Kept w₀ s₀ s)  (b : Bough) (accepted : Bool) (reason : Nat) (tags : List Nat)
    (hw₀ : within (parts [.events, .recorder]) w₀ = true := by decide) :
    Kept w₀ s₀ (authResult b accepted reason tags s) := by
  refine h₀.trans (v := parts [.events, .recorder]) ?_ hw₀
  clear h₀ hw₀
  unfold authResult
  try dsimp only
  repeat' first
    | with_reducible first | exact Kept.refl _ _ | assumption
    | with_reducible first | refine answer_changes ?_ _ _ _ _ | refine emit_changes ?_ _ _ _
    | with_reducible first | refine Kept.foldl _ _ ?_ fun u x hu => ?_
    | with_reducible refine Kept.ite (fun _ => ?_) (fun _ => ?_)
    | simp only [↓kept_mk]; refine KeptMk.set rfl ?_ ?_
    | apply Upd.of <;> intro hp <;>
        first | exact absurd hp (by decide) | with_reducible rfl | dsimp only
    | split
    | dsimp only [id]

theorem energise_changes {w₀ : Nat} {s₀ s : State} (h₀ : Kept w₀ s₀ s)  (b : Bough)
    (hw₀ : within (parts [.free, .events, .ports, .modems, .association, .sessions, .powerLinks, .safety, .loads, .display, .recorder]) w₀ = true := by decide) :
    Kept w₀ s₀ (energise b s) := by
  refine h₀.trans (v := parts [.free, .events, .ports, .modems, .association, .sessions, .powerLinks, .safety, .loads, .display, .recorder]) ?_ hw₀
  clear h₀ hw₀
  unfold energise
  try dsimp only
  repeat' first
    | with_reducible first | exact Kept.refl _ _ | assumption
    | with_reducible first | refine goState_changes ?_ _ _ | refine onSaf_changes_view ?_ _ _ ?_
    | exact SameView.of fun x => by first | rfl | (dsimp only; split <;> rfl)
    | with_reducible refine Kept.ite (fun _ => ?_) (fun _ => ?_)
    | simp only [↓kept_mk]; refine KeptMk.set rfl ?_ ?_
    | apply Upd.of <;> intro hp <;>
        first | exact absurd hp (by decide) | with_reducible rfl | dsimp only
    | split
    | dsimp only [id]

theorem acceptIdent_changes {w₀ : Nat} {s₀ s : State} (h₀ : Kept w₀ s₀ s)  (b : Bough) (authBy : Nat) (priced : Bool) (tags : List Nat)
    (hw₀ : within (parts [.free, .events, .ports, .modems, .association, .sessions, .powerLinks, .safety, .loads, .display, .recorder]) w₀ = true := by decide) :
    Kept w₀ s₀ (acceptIdent b authBy priced tags s) := by
  refine h₀.trans (v := parts [.free, .events, .ports, .modems, .association, .sessions, .powerLinks, .safety, .loads, .display, .recorder]) ?_ hw₀
  clear h₀ hw₀
  unfold acceptIdent
  try dsimp only
  repeat' first
    | with_reducible first | exact Kept.refl _ _ | assumption
    | with_reducible first | refine authResult_changes ?_ _ _ _ _ | refine discardIdents_changes ?_ _ _
    | with_reducible first | refine energise_changes ?_ _ | refine goState_changes ?_ _ _
    | with_reducible first | refine onSes_changes ?_ _ _
    | with_reducible refine Kept.ite (fun _ => ?_) (fun _ => ?_)
    | simp only [↓kept_mk]; refine KeptMk.set rfl ?_ ?_
    | apply Upd.of <;> intro hp <;>
        first | exact absurd hp (by decide) | with_reducible rfl | dsimp only
    | split
    | dsimp only [id]

theorem refuseIdent_changes {w₀ : Nat} {s₀ s : State} (h₀ : Kept w₀ s₀ s)  (b : Bough) (reason : Nat) (tags : List Nat)
    (hw₀ : within (parts [.free, .events, .ports, .modems, .association, .sessions, .powerLinks, .safety, .loads, .display, .recorder]) w₀ = true := by decide) :
    Kept w₀ s₀ (refuseIdent b reason tags s) := by
  refine h₀.trans (v := parts [.free, .events, .ports, .modems, .association, .sessions, .powerLinks, .safety, .loads, .display, .recorder]) ?_ hw₀
  clear h₀ hw₀
  unfold refuseIdent
  try dsimp only
  repeat' first
    | with_reducible first | exact Kept.refl _ _ | assumption
    | with_reducible first | refine authResult_changes ?_ _ _ _ _ | refine goState_changes ?_ _ _
    | with_reducible first | refine onSes_changes ?_ _ _
    | with_reducible refine Kept.ite (fun _ => ?_) (fun _ => ?_)
    | simp only [↓kept_mk]; refine KeptMk.set rfl ?_ ?_
    | apply Upd.of <;> intro hp <;>
        first | exact absurd hp (by decide) | with_reducible rfl | dsimp only
    | split
    | dsimp only [id]

theorem revokeOthers_changes {w₀ : Nat} {s₀ s : State} (h₀ : Kept w₀ s₀ s)  (b : Bough) (i : Nat)
    (hw₀ : within (parts [.free, .events, .ports, .modems, .association, .sessions, .powerLinks, .safety, .loads, .display, .recorder]) w₀ = true := by decide) :
    Kept w₀ s₀ (revokeOthers b i s) := by
  refine h₀.trans (v := parts [.free, .events, .ports, .modems, .association, .sessions, .powerLinks, .safety, .loads, .display, .recorder]) ?_ hw₀
  clear h₀ hw₀
  unfold revokeOthers
  try dsimp only
  repeat' first
    | with_reducible first | exact Kept.refl _ _ | assumption
    | with_reducible first | refine refuseIdent_changes ?_ _ _ _ | refine onSaf_changes_view ?_ _ _ ?_
    | with_reducible first | refine onSes_changes ?_ _ _ | refine Kept.forBoughs _ ?_ fun b u hu => ?_
    | exact SameView.of fun x => by first | rfl | (dsimp only; split <;> rfl)
    | with_reducible refine Kept.ite (fun _ => ?_) (fun _ => ?_)
    | simp only [↓kept_mk]; refine KeptMk.set rfl ?_ ?_
    | apply Upd.of <;> intro hp <;>
        first | exact absurd hp (by decide) | with_reducible rfl | dsimp only
    | split
    | dsimp only [id]

theorem decideLocal_changes {w₀ : Nat} {s₀ s : State} (h₀ : Kept w₀ s₀ s)  (b : Bough)
    (hw₀ : within (parts [.free, .events, .ports, .modems, .association, .sessions, .powerLinks, .sessionDev, .safety, .loads, .display, .memory, .cells, .recorder]) w₀ = true := by decide) :
    Kept w₀ s₀ (decideLocal b s).2 := by
  refine h₀.trans (v := parts [.free, .events, .ports, .modems, .association, .sessions, .powerLinks, .sessionDev, .safety, .loads, .display, .memory, .cells, .recorder]) ?_ hw₀
  clear h₀ hw₀
  unfold decideLocal
  try dsimp only
  repeat' first
    | with_reducible first | exact Kept.refl _ _ | assumption
    | with_reducible first | refine acceptIdent_changes ?_ _ _ _ _ | refine lookup_changes ?_ _
    | with_reducible first | refine revokeOthers_changes ?_ _ _ | refine onSes_changes ?_ _ _
    | with_reducible refine Kept.ite (fun _ => ?_) (fun _ => ?_)
    | simp only [↓kept_mk]; refine KeptMk.set rfl ?_ ?_
    | apply Upd.of <;> intro hp <;>
        first | exact absurd hp (by decide) | with_reducible rfl | dsimp only
    | (with_reducible refine Kept.ofPair (by assumption) ?_)
    | split
    | dsimp only [id]

theorem askHost_changes {w₀ : Nat} {s₀ s : State} (h₀ : Kept w₀ s₀ s)  (b : Bough)
    (hw₀ : within (parts [.events, .sessions, .sessionDev, .recorder]) w₀ = true := by decide) :
    Kept w₀ s₀ (askHost b s) := by
  refine h₀.trans (v := parts [.events, .sessions, .sessionDev, .recorder]) ?_ hw₀
  clear h₀ hw₀
  unfold askHost
  try dsimp only
  repeat' first
    | with_reducible first | exact Kept.refl _ _ | assumption
    | with_reducible first | refine postEvent_changes ?_ _ _ _ _ _ | refine recordEvent_changes ?_ _ _ _ _
    | with_reducible first | refine onSes_changes ?_ _ _
    | with_reducible refine Kept.ite (fun _ => ?_) (fun _ => ?_)
    | simp only [↓kept_mk]; refine KeptMk.set rfl ?_ ?_
    | apply Upd.of <;> intro hp <;>
        first | exact absurd hp (by decide) | with_reducible rfl | dsimp only
    | split
    | dsimp only [id]

theorem decideAfterChain_changes {w₀ : Nat} {s₀ s : State} (h₀ : Kept w₀ s₀ s)  (b : Bough)
    (hw₀ : within (parts [.free, .events, .ports, .modems, .association, .sessions, .powerLinks, .sessionDev, .safety, .loads, .display, .memory, .cells, .recorder]) w₀ = true := by decide) :
    Kept w₀ s₀ (decideAfterChain b s).2 := by
  refine h₀.trans (v := parts [.free, .events, .ports, .modems, .association, .sessions, .powerLinks, .sessionDev, .safety, .loads, .display, .memory, .cells, .recorder]) ?_ hw₀
  clear h₀ hw₀
  unfold decideAfterChain
  try dsimp only
  repeat' first
    | with_reducible first | exact Kept.refl _ _ | assumption
    | with_reducible first | refine askHost_changes ?_ _ | refine decideLocal_changes ?_ _
    | with_reducible refine Kept.ite (fun _ => ?_) (fun _ => ?_)
    | (with_reducible refine Kept.ofPair (by assumption) ?_)
    | split
    | dsimp only [id]

theorem takeIdent_changes {w₀ : Nat} {s₀ s : State} (h₀ : Kept w₀ s₀ s)  (b : Bough) (i : Ident)
    (hw₀ : within (parts [.free, .events, .ports, .modems, .association, .sessions, .powerLinks, .sessionDev, .safety, .loads, .display, .memory, .cells, .recorder]) w₀ = true := by decide) :
    Kept w₀ s₀ (takeIdent b i s).2 := by
  refine h₀.trans (v := parts [.free, .events, .ports, .modems, .association, .sessions, .powerLinks, .sessionDev, .safety, .loads, .display, .memory, .cells, .recorder]) ?_ hw₀
  clear h₀ hw₀
  unfold takeIdent
  try dsimp only
  repeat' first
    | with_reducible first | exact Kept.refl _ _ | assumption
    | with_reducible first | refine decideAfterChain_changes ?_ _ | refine goState_changes ?_ _ _
    | with_reducible first | refine onSes_changes ?_ _ _
    | with_reducible refine Kept.ite (fun _ => ?_) (fun _ => ?_)
    | simp only [↓kept_mk]; refine KeptMk.set rfl ?_ ?_
    | apply Upd.of <;> intro hp <;>
        first | exact absurd hp (by decide) | with_reducible rfl | dsimp only
    | (with_reducible refine Kept.ofPair (by assumption) ?_)
    | split
    | dsimp only [id]

theorem tryHeld_changes {w : Nat} {s₀ s : State} (h : Kept w s₀ s) (b : Bough) (n : Nat)
    (hw : within (parts [.free, .events, .ports, .modems, .association, .sessions, .powerLinks, .sessionDev, .safety, .loads, .display, .memory, .cells, .recorder]) w = true := by decide) : Kept w s₀ (tryHeld b n s) := by
  refine h.trans (v := parts [.free, .events, .ports, .modems, .association, .sessions, .powerLinks, .sessionDev, .safety, .loads, .display, .memory, .cells, .recorder]) ?_ hw
  clear h hw
  induction n generalizing s with
  | zero => exact .refl _ _
  | succ n ih =>
    unfold tryHeld
    split
    · exact .refl _ _
    · split
      · exact .refl _ _
      · rename_i i rest _
        split
        · exact .refl _ _
        · have hr := takeIdent_changes (w₀ := parts [.free, .events, .ports, .modems, .association, .sessions, .powerLinks, .sessionDev, .safety, .loads, .display, .memory, .cells, .recorder]) (onSes_changes (.refl _ s) b (fun e => { e with held := rest })) b i
          split
          · rename_i e
            rw [e] at hr
            exact hr
          · rename_i e
            rw [e] at hr
            exact (refuseIdent_changes hr _ _ _).trans ih (by decide)

theorem offerIdent_changes {w₀ : Nat} {s₀ s : State} (h₀ : Kept w₀ s₀ s)  (b : Bough) (i : Ident)
    (hw₀ : within (parts [.free, .events, .ports, .modems, .association, .sessions, .powerLinks, .sessionDev, .safety, .loads, .display, .memory, .cells, .recorder]) w₀ = true := by decide) :
    Kept w₀ s₀ (offerIdent b i s) := by
  refine h₀.trans (v := parts [.free, .events, .ports, .modems, .association, .sessions, .powerLinks, .sessionDev, .safety, .loads, .display, .memory, .cells, .recorder]) ?_ hw₀
  clear h₀ hw₀
  unfold offerIdent
  try dsimp only
  repeat' first
    | with_reducible first | exact Kept.refl _ _ | assumption
    | with_reducible first | refine discardIdents_changes ?_ _ _ | refine tryHeld_changes ?_ _ _
    | with_reducible first | refine onSes_changes ?_ _ _
    | with_reducible refine Kept.ite (fun _ => ?_) (fun _ => ?_)
    | simp only [↓kept_mk]; refine KeptMk.set rfl ?_ ?_
    | apply Upd.of <;> intro hp <;>
        first | exact absurd hp (by decide) | with_reducible rfl | dsimp only
    | split
    | dsimp only [id]

theorem refuseAndNext_changes {w₀ : Nat} {s₀ s : State} (h₀ : Kept w₀ s₀ s)  (b : Bough) (reason : Nat) (tags : List Nat)
    (hw₀ : within (parts [.free, .events, .ports, .modems, .association, .sessions, .powerLinks, .sessionDev, .safety, .loads, .display, .memory, .cells, .recorder]) w₀ = true := by decide) :
    Kept w₀ s₀ (refuseAndNext b reason tags s) := by
  refine h₀.trans (v := parts [.free, .events, .ports, .modems, .association, .sessions, .powerLinks, .sessionDev, .safety, .loads, .display, .memory, .cells, .recorder]) ?_ hw₀
  clear h₀ hw₀
  unfold refuseAndNext
  try dsimp only
  repeat' first
    | with_reducible first | exact Kept.refl _ _ | assumption
    | with_reducible first | refine refuseIdent_changes ?_ _ _ _ | refine tryHeld_changes ?_ _ _
    | with_reducible refine Kept.ite (fun _ => ?_) (fun _ => ?_)
    | split
    | dsimp only [id]

theorem decideSilence_changes {w₀ : Nat} {s₀ s : State} (h₀ : Kept w₀ s₀ s)  (b : Bough)
    (hw₀ : within (parts [.free, .events, .ports, .modems, .association, .sessions, .powerLinks, .sessionDev, .safety, .loads, .display, .memory, .cells, .recorder]) w₀ = true := by decide) :
    Kept w₀ s₀ (decideSilence b s) := by
  refine h₀.trans (v := parts [.free, .events, .ports, .modems, .association, .sessions, .powerLinks, .sessionDev, .safety, .loads, .display, .memory, .cells, .recorder]) ?_ hw₀
  clear h₀ hw₀
  unfold decideSilence
  try dsimp only
  repeat' first
    | with_reducible first | exact Kept.refl _ _ | assumption
    | with_reducible first | refine decideLocal_changes ?_ _ | refine refuseAndNext_changes ?_ _ _ _
    | with_reducible first | refine onSes_changes ?_ _ _
    | with_reducible refine Kept.ite (fun _ => ?_) (fun _ => ?_)
    | simp only [↓kept_mk]; refine KeptMk.set rfl ?_ ?_
    | apply Upd.of <;> intro hp <;>
        first | exact absurd hp (by decide) | with_reducible rfl | dsimp only
    | (with_reducible refine Kept.ofPair (by assumption) ?_)
    | split
    | dsimp only [id]

theorem freeVendNow_changes {w₀ : Nat} {s₀ s : State} (h₀ : Kept w₀ s₀ s)  (b : Bough)
    (hw₀ : within (parts [.free, .events, .ports, .modems, .association, .sessions, .powerLinks, .safety, .loads, .display, .recorder]) w₀ = true := by decide) :
    Kept w₀ s₀ (freeVendNow b s) := by
  refine h₀.trans (v := parts [.free, .events, .ports, .modems, .association, .sessions, .powerLinks, .safety, .loads, .display, .recorder]) ?_ hw₀
  clear h₀ hw₀
  unfold freeVendNow
  try dsimp only
  repeat' first
    | with_reducible first | exact Kept.refl _ _ | assumption
    | with_reducible first | refine acceptIdent_changes ?_ _ _ _ _ | refine goState_changes ?_ _ _
    | with_reducible refine Kept.ite (fun _ => ?_) (fun _ => ?_)
    | split
    | dsimp only [id]

end Sys2Proof.Safety
end

