-- ==== Sys2Proof/Laws/Frames/SafCore.lean ====
section
/-! SUPPORT. What each shared operation of Machine/SafCore.lean may change. -/

set_option Elab.async false
set_option linter.unreachableTactic false
set_option linter.unusedTactic false
set_option linter.unusedSimpArgs false

namespace Sys2Proof.Safety

open Sys2Proof.Machine

theorem onCoil_changes {w₀ : Nat} {s₀ s : State} (h₀ : Kept w₀ s₀ s)  (b : Bough) (k : Fin 3) (f : Coil → Coil)
    (hw₀ : within (parts [.coils, .safety]) w₀ = true := by decide) :
    Kept w₀ s₀ (onCoil b k f s) := by
  refine h₀.trans (v := parts [.coils, .safety]) ?_ hw₀
  clear h₀ hw₀
  unfold onCoil
  try dsimp only
  repeat' first
    | with_reducible first | exact Kept.refl _ _ | assumption
    | with_reducible first | refine onSaf_changes ?_ _ _
    | with_reducible refine Kept.ite (fun _ => ?_) (fun _ => ?_)
    | simp only [↓kept_mk]; refine KeptMk.set rfl ?_ ?_
    | apply Upd.of <;> intro hp <;>
        first | exact absurd hp (by decide) | with_reducible rfl | dsimp only
    | split
    | dsimp only [id]

theorem drive_changes {w₀ : Nat} {s₀ s : State} (h₀ : Kept w₀ s₀ s)  (b : Bough) (k : Fin 3)
    (hw₀ : within (parts [.coils, .safety]) w₀ = true := by decide) :
    Kept w₀ s₀ (drive b k s) := by
  refine h₀.trans (v := parts [.coils, .safety]) ?_ hw₀
  clear h₀ hw₀
  unfold drive
  try dsimp only
  repeat' first
    | with_reducible first | exact Kept.refl _ _ | assumption
    | with_reducible first | refine onCoil_changes ?_ _ _ _
    | with_reducible refine Kept.ite (fun _ => ?_) (fun _ => ?_)
    | simp only [↓kept_mk]; refine KeptMk.set rfl ?_ ?_
    | apply Upd.of <;> intro hp <;>
        first | exact absurd hp (by decide) | with_reducible rfl | dsimp only
    | split
    | dsimp only [id]

theorem holdCoils_changes {w₀ : Nat} {s₀ s : State} (h₀ : Kept w₀ s₀ s)  (b : Bough)
    (hw₀ : within (parts [.coils, .safety]) w₀ = true := by decide) :
    Kept w₀ s₀ (holdCoils b s) := by
  refine h₀.trans (v := parts [.coils, .safety]) ?_ hw₀
  clear h₀ hw₀
  unfold holdCoils
  try dsimp only
  repeat' first
    | with_reducible first | exact Kept.refl _ _ | assumption
    | with_reducible first | refine onSaf_changes ?_ _ _
    | with_reducible refine Kept.ite (fun _ => ?_) (fun _ => ?_)
    | simp only [↓kept_mk]; refine KeptMk.set rfl ?_ ?_
    | apply Upd.of <;> intro hp <;>
        first | exact absurd hp (by decide) | with_reducible rfl | dsimp only
    | split
    | dsimp only [id]

theorem release_changes {w₀ : Nat} {s₀ s : State} (h₀ : Kept w₀ s₀ s)  (b : Bough) (k : Fin 3)
    (hw₀ : within (parts [.coils, .safety]) w₀ = true := by decide) :
    Kept w₀ s₀ (release b k s) := by
  refine h₀.trans (v := parts [.coils, .safety]) ?_ hw₀
  clear h₀ hw₀
  unfold release
  try dsimp only
  repeat' first
    | with_reducible first | exact Kept.refl _ _ | assumption
    | with_reducible first | refine onCoil_changes ?_ _ _ _
    | with_reducible refine Kept.ite (fun _ => ?_) (fun _ => ?_)
    | simp only [↓kept_mk]; refine KeptMk.set rfl ?_ ?_
    | apply Upd.of <;> intro hp <;>
        first | exact absurd hp (by decide) | with_reducible rfl | dsimp only
    | split
    | dsimp only [id]

theorem openNow_changes {w₀ : Nat} {s₀ s : State} (h₀ : Kept w₀ s₀ s)  (b : Bough) (cause : Nat)
    (hw₀ : within (parts [.events, .coils, .safety, .recorder]) w₀ = true := by decide) :
    Kept w₀ s₀ (openNow b cause s) := by
  refine h₀.trans (v := parts [.events, .coils, .safety, .recorder]) ?_ hw₀
  clear h₀ hw₀
  unfold openNow
  try dsimp only
  repeat' first
    | with_reducible first | exact Kept.refl _ _ | assumption
    | with_reducible first | refine emit_changes ?_ _ _ _ | refine release_changes ?_ _ _
    | with_reducible first | refine onSaf_changes ?_ _ _ | refine Kept.foldl _ _ ?_ fun u x hu => ?_
    | with_reducible refine Kept.ite (fun _ => ?_) (fun _ => ?_)
    | simp only [↓kept_mk]; refine KeptMk.set rfl ?_ ?_
    | apply Upd.of <;> intro hp <;>
        first | exact absurd hp (by decide) | with_reducible rfl | dsimp only
    | split
    | dsimp only [id]

theorem abandonClosing_changes {w₀ : Nat} {s₀ s : State} (h₀ : Kept w₀ s₀ s)  (b : Bough) (cause : Nat)
    (hw₀ : within (parts [.events, .ports, .modems, .association, .sessions, .powerLinks, .coils, .safety, .recorder]) w₀ = true := by decide) :
    Kept w₀ s₀ (abandonClosing b cause s) := by
  refine h₀.trans (v := parts [.events, .ports, .modems, .association, .sessions, .powerLinks, .coils, .safety, .recorder]) ?_ hw₀
  clear h₀ hw₀
  unfold abandonClosing
  try dsimp only
  repeat' first
    | with_reducible first | exact Kept.refl _ _ | assumption
    | with_reducible first | refine emit_changes ?_ _ _ _ | refine onSaf_changes ?_ _ _ | refine onSesL_changes ?_ _ _
    | with_reducible first | refine withRequest_changes ?_ _ _ (fun u hu => ?_)
    | with_reducible refine Kept.ite (fun _ => ?_) (fun _ => ?_)
    | simp only [↓kept_mk]; refine KeptMk.set rfl ?_ ?_
    | apply Upd.of <;> intro hp <;>
        first | exact absurd hp (by decide) | with_reducible rfl | dsimp only
    | split
    | dsimp only [id]

theorem dueTripFrame_changes {w₀ : Nat} {s₀ s : State} (h₀ : Kept w₀ s₀ s)  (mask code : Nat)
    (hw₀ : within (parts [.canopy]) w₀ = true := by decide) :
    Kept w₀ s₀ (dueTripFrame mask code s) := by
  refine h₀.trans (v := parts [.canopy]) ?_ hw₀
  clear h₀ hw₀
  unfold dueTripFrame
  try dsimp only
  repeat' first
    | with_reducible first | exact Kept.refl _ _ | assumption
    | with_reducible refine Kept.ite (fun _ => ?_) (fun _ => ?_)
    | simp only [↓kept_mk]; refine KeptMk.set rfl ?_ ?_
    | apply Upd.of <;> intro hp <;>
        first | exact absurd hp (by decide) | with_reducible rfl | dsimp only
    | split
    | dsimp only [id]

theorem trip_changes {w₀ : Nat} {s₀ s : State} (h₀ : Kept w₀ s₀ s)  (b : Bough) (code : Nat) (value : Int)
    (hw₀ : within (parts [.free, .events, .ports, .modems, .association, .sessions, .powerLinks, .coils, .safety, .billed, .heartwood, .loads, .display, .canopy, .memory, .cells, .recorder, .flash]) w₀ = true := by decide) :
    Kept w₀ s₀ (trip b code value s) := by
  refine h₀.trans (v := parts [.free, .events, .ports, .modems, .association, .sessions, .powerLinks, .coils, .safety, .billed, .heartwood, .loads, .display, .canopy, .memory, .cells, .recorder, .flash]) ?_ hw₀
  clear h₀ hw₀
  unfold trip
  try dsimp only
  repeat' first
    | with_reducible first | exact Kept.refl _ _ | assumption
    | with_reducible first | refine abandonClosing_changes ?_ _ _ | refine auxAll_changes ?_
    | with_reducible first | refine dueTripFrame_changes ?_ _ _ | refine emit_changes ?_ _ _ _
    | with_reducible first | refine faultSession_changes ?_ _ _ | refine openNow_changes ?_ _ _
    | with_reducible first | refine onSaf_changes ?_ _ _
    | with_reducible refine Kept.ite (fun _ => ?_) (fun _ => ?_)
    | simp only [↓kept_mk]; refine KeptMk.set rfl ?_ ?_
    | apply Upd.of <;> intro hp <;>
        first | exact absurd hp (by decide) | with_reducible rfl | dsimp only
    | split
    | dsimp only [id]

theorem tripAll_changes {w₀ : Nat} {s₀ s : State} (h₀ : Kept w₀ s₀ s)  (code : Nat)
    (hw₀ : within (parts [.free, .events, .ports, .modems, .association, .sessions, .powerLinks, .coils, .safety, .billed, .heartwood, .loads, .display, .canopy, .memory, .cells, .recorder, .flash]) w₀ = true := by decide) :
    Kept w₀ s₀ (tripAll code s) := by
  refine h₀.trans (v := parts [.free, .events, .ports, .modems, .association, .sessions, .powerLinks, .coils, .safety, .billed, .heartwood, .loads, .display, .canopy, .memory, .cells, .recorder, .flash]) ?_ hw₀
  clear h₀ hw₀
  unfold tripAll
  try dsimp only
  repeat' first
    | with_reducible first | exact Kept.refl _ _ | assumption
    | with_reducible first | refine abandonClosing_changes ?_ _ _ | refine dueTripFrame_changes ?_ _ _
    | with_reducible first | refine emit_changes ?_ _ _ _ | refine faultSession_changes ?_ _ _
    | with_reducible first | refine openNow_changes ?_ _ _ | refine Kept.forBoughs _ ?_ fun b u hu => ?_
    | with_reducible refine Kept.ite (fun _ => ?_) (fun _ => ?_)
    | split
    | dsimp only [id]

theorem requestOpening_changes {w₀ : Nat} {s₀ s : State} (h₀ : Kept w₀ s₀ s)  (b : Bough)
    (hw₀ : within (parts [.safety]) w₀ = true := by decide) :
    Kept w₀ s₀ (requestOpening b s) := by
  refine h₀.trans (v := parts [.safety]) ?_ hw₀
  clear h₀ hw₀
  unfold requestOpening
  try dsimp only
  repeat' first
    | with_reducible first | exact Kept.refl _ _ | assumption
    | with_reducible first | refine onSaf_changes_view ?_ _ _ ?_
    | exact SameView.of fun x => by first | rfl | (dsimp only; split <;> rfl)
    | with_reducible refine Kept.ite (fun _ => ?_) (fun _ => ?_)
    | simp only [↓kept_mk]; refine KeptMk.set rfl ?_ ?_
    | apply Upd.of <;> intro hp <;>
        first | exact absurd hp (by decide) | with_reducible rfl | dsimp only
    | split
    | dsimp only [id]

theorem weldReport_changes {w₀ : Nat} {s₀ s : State} (h₀ : Kept w₀ s₀ s)  (b : Bough)
    (hw₀ : within (parts [.free, .events, .ports, .modems, .association, .sessions, .powerLinks, .safety, .billed, .heartwood, .loads, .display, .memory, .cells, .recorder, .flash]) w₀ = true := by decide) :
    Kept w₀ s₀ (weldReport b s) := by
  refine h₀.trans (v := parts [.free, .events, .ports, .modems, .association, .sessions, .powerLinks, .safety, .billed, .heartwood, .loads, .display, .memory, .cells, .recorder, .flash]) ?_ hw₀
  clear h₀ hw₀
  unfold weldReport
  try dsimp only
  repeat' first
    | with_reducible first | exact Kept.refl _ _ | assumption
    | with_reducible first | refine lateReading_changes ?_ _ | refine stopDone_changes ?_ _
    | with_reducible refine Kept.ite (fun _ => ?_) (fun _ => ?_)
    | split
    | dsimp only [id]

theorem weldResult_changes {w₀ : Nat} {s₀ s : State} (h₀ : Kept w₀ s₀ s)  (b : Bough) (k : Fin 3)
    (hw₀ : within (parts [.free, .events, .ports, .modems, .association, .sessions, .powerLinks, .coils, .safety, .billed, .heartwood, .loads, .display, .canopy, .memory, .cells, .recorder, .flash]) w₀ = true := by decide) :
    Kept w₀ s₀ (weldResult b k s) := by
  refine h₀.trans (v := parts [.free, .events, .ports, .modems, .association, .sessions, .powerLinks, .coils, .safety, .billed, .heartwood, .loads, .display, .canopy, .memory, .cells, .recorder, .flash]) ?_ hw₀
  clear h₀ hw₀
  unfold weldResult
  try dsimp only
  repeat' first
    | with_reducible first | exact Kept.refl _ _ | assumption
    | with_reducible first | refine emit_changes ?_ _ _ _ | refine onCoil_changes ?_ _ _ _
    | with_reducible first | refine trip_changes ?_ _ _ _ | refine weldReport_changes ?_ _
    | with_reducible refine Kept.ite (fun _ => ?_) (fun _ => ?_)
    | simp only [↓kept_mk]; refine KeptMk.set rfl ?_ ?_
    | apply Upd.of <;> intro hp <;>
        first | exact absurd hp (by decide) | with_reducible rfl | dsimp only
    | split
    | dsimp only [id]

theorem fsEnter_changes {w₀ : Nat} {s₀ s : State} (h₀ : Kept w₀ s₀ s)  (c : FsCause) (code : Nat)
    (hw₀ : within (parts [.free, .events, .ports, .modems, .association, .sessions, .powerLinks, .coils, .safety, .stops, .powerDie, .billed, .heartwood, .loads, .display, .canopy, .memory, .cells, .recorder, .flash]) w₀ = true := by decide) :
    Kept w₀ s₀ (fsEnter c code s) := by
  refine h₀.trans (v := parts [.free, .events, .ports, .modems, .association, .sessions, .powerLinks, .coils, .safety, .stops, .powerDie, .billed, .heartwood, .loads, .display, .canopy, .memory, .cells, .recorder, .flash]) ?_ hw₀
  clear h₀ hw₀
  unfold fsEnter
  try dsimp only
  repeat' first
    | with_reducible first | exact Kept.refl _ _ | assumption
    | with_reducible first | refine abandonClosing_changes ?_ _ _ | refine auxAll_changes ?_
    | with_reducible first | refine driveAll_changes ?_ | refine emit_changes ?_ _ _ _
    | with_reducible first | refine faultSession_changes ?_ _ _ | refine openNow_changes ?_ _ _
    | with_reducible first | refine tripAll_changes ?_ _ | refine Kept.forBoughs _ ?_ fun b u hu => ?_
    | with_reducible refine Kept.ite (fun _ => ?_) (fun _ => ?_)
    | simp only [↓kept_mk]; refine KeptMk.set rfl ?_ ?_
    | apply Upd.of <;> intro hp <;>
        first | exact absurd hp (by decide) | with_reducible rfl | dsimp only
    | split
    | dsimp only [id]

theorem fsLeave_changes {w₀ : Nat} {s₀ s : State} (h₀ : Kept w₀ s₀ s)  (c : FsCause)
    (hw₀ : within (parts [.free, .events, .ports, .modems, .association, .safety, .stops, .powerDie, .loads, .recorder]) w₀ = true := by decide) :
    Kept w₀ s₀ (fsLeave c s) := by
  refine h₀.trans (v := parts [.free, .events, .ports, .modems, .association, .safety, .stops, .powerDie, .loads, .recorder]) ?_ hw₀
  clear h₀ hw₀
  unfold fsLeave
  try dsimp only
  repeat' first
    | with_reducible first | exact Kept.refl _ _ | assumption
    | with_reducible first | refine auxAll_changes ?_ | refine driveAll_changes ?_ | refine emit_changes ?_ _ _ _
    | with_reducible refine Kept.ite (fun _ => ?_) (fun _ => ?_)
    | simp only [↓kept_mk]; refine KeptMk.set rfl ?_ ?_
    | apply Upd.of <;> intro hp <;>
        first | exact absurd hp (by decide) | with_reducible rfl | dsimp only
    | split
    | dsimp only [id]

theorem clearAtA_changes {w₀ : Nat} {s₀ s : State} (h₀ : Kept w₀ s₀ s)  (b : Bough)
    (hw₀ : within (parts [.free, .coils, .safety, .loads]) w₀ = true := by decide) :
    Kept w₀ s₀ (clearAtA b s) := by
  refine h₀.trans (v := parts [.free, .coils, .safety, .loads]) ?_ hw₀
  clear h₀ hw₀
  unfold clearAtA
  try dsimp only
  repeat' first
    | with_reducible first | exact Kept.refl _ _ | assumption
    | with_reducible first | refine auxAll_changes ?_ | refine onSaf_changes ?_ _ _
    | with_reducible refine Kept.ite (fun _ => ?_) (fun _ => ?_)
    | simp only [↓kept_mk]; refine KeptMk.set rfl ?_ ?_
    | apply Upd.of <;> intro hp <;>
        first | exact absurd hp (by decide) | with_reducible rfl | dsimp only
    | split
    | dsimp only [id]

theorem holdSession_changes {w₀ : Nat} {s₀ s : State} (h₀ : Kept w₀ s₀ s)  (b : Bough) (r : Nat)
    (hw₀ : within (parts [.free, .events, .ports, .modems, .association, .sessions, .powerLinks, .safety, .billed, .heartwood, .loads, .display, .memory, .cells, .recorder, .flash]) w₀ = true := by decide) :
    Kept w₀ s₀ (holdSession b r s) := by
  refine h₀.trans (v := parts [.free, .events, .ports, .modems, .association, .sessions, .powerLinks, .safety, .billed, .heartwood, .loads, .display, .memory, .cells, .recorder, .flash]) ?_ hw₀
  clear h₀ hw₀
  unfold holdSession
  try dsimp only
  repeat' first
    | with_reducible first | exact Kept.refl _ _ | assumption
    | with_reducible first | refine driveOutput_changes ?_ _ | refine leaveSession_changes ?_ _ _
    | with_reducible refine Kept.ite (fun _ => ?_) (fun _ => ?_)
    | split
    | dsimp only [id]

end Sys2Proof.Safety
end

