-- ==== Sys2Proof/Laws/Frames/Contactors.lean ====
section
/-! SUPPORT. What each shared operation of Machine/Contactors.lean may change. -/

set_option Elab.async false
set_option linter.unreachableTactic false
set_option linter.unusedTactic false
set_option linter.unusedSimpArgs false

namespace Sys2Proof.Safety

open Sys2Proof.Machine

theorem driveRequired_changes {w₀ : Nat} {s₀ s : State} (h₀ : Kept w₀ s₀ s)  (b : Bough) (ks : List (Fin 3))
    (hw₀ : within (parts [.coils, .safety]) w₀ = true := by decide) :
    Kept w₀ s₀ (driveRequired b ks s) := by
  refine h₀.trans (v := parts [.coils, .safety]) ?_ hw₀
  clear h₀ hw₀
  unfold driveRequired
  try dsimp only
  repeat' first
    | with_reducible first | exact Kept.refl _ _ | assumption
    | with_reducible first | refine drive_changes ?_ _ _ | refine Kept.foldl _ _ ?_ fun u x hu => ?_
    | with_reducible refine Kept.ite (fun _ => ?_) (fun _ => ?_)
    | split
    | dsimp only [id]

theorem beginClosing_changes {w₀ : Nat} {s₀ s : State} (h₀ : Kept w₀ s₀ s)  (b : Bough) (c : Closing)
    (hw₀ : within (parts [.coils, .safety]) w₀ = true := by decide) :
    Kept w₀ s₀ (beginClosing b c s) := by
  refine h₀.trans (v := parts [.coils, .safety]) ?_ hw₀
  clear h₀ hw₀
  unfold beginClosing
  try dsimp only
  repeat' first
    | with_reducible first | exact Kept.refl _ _ | assumption
    | with_reducible first | refine driveRequired_changes ?_ _ _ | refine onSaf_changes ?_ _ _
    | with_reducible refine Kept.ite (fun _ => ?_) (fun _ => ?_)
    | simp only [↓kept_mk]; refine KeptMk.set rfl ?_ ?_
    | apply Upd.of <;> intro hp <;>
        first | exact absurd hp (by decide) | with_reducible rfl | dsimp only
    | split
    | dsimp only [id]

theorem followClosing_changes {w₀ : Nat} {s₀ s : State} (h₀ : Kept w₀ s₀ s)  (b : Bough) (ks : List (Fin 3)) (c : Closing)
    (hw₀ : within (parts [.coils, .safety]) w₀ = true := by decide) :
    Kept w₀ s₀ (followClosing b ks c s) := by
  refine h₀.trans (v := parts [.coils, .safety]) ?_ hw₀
  clear h₀ hw₀
  unfold followClosing
  try dsimp only
  repeat' first
    | with_reducible first | exact Kept.refl _ _ | assumption
    | with_reducible first | refine driveRequired_changes ?_ _ _ | refine onSaf_changes ?_ _ _
    | with_reducible refine Kept.ite (fun _ => ?_) (fun _ => ?_)
    | simp only [↓kept_mk]; refine KeptMk.set rfl ?_ ?_
    | apply Upd.of <;> intro hp <;>
        first | exact absurd hp (by decide) | with_reducible rfl | dsimp only
    | split
    | dsimp only [id]

theorem enterCharging_changes {w₀ : Nat} {s₀ s : State} (h₀ : Kept w₀ s₀ s)  (b : Bough)
    (hw₀ : within (parts [.free, .events, .ports, .modems, .association, .sessions, .powerLinks, .safety, .billed, .heartwood, .loads, .display, .recorder, .flash]) w₀ = true := by decide) :
    Kept w₀ s₀ (enterCharging b s) := by
  refine h₀.trans (v := parts [.free, .events, .ports, .modems, .association, .sessions, .powerLinks, .safety, .billed, .heartwood, .loads, .display, .recorder, .flash]) ?_ hw₀
  clear h₀ hw₀
  unfold enterCharging
  try dsimp only
  repeat' first
    | with_reducible first | exact Kept.refl _ _ | assumption
    | with_reducible first | refine beginReading_changes ?_ _ | refine goState_changes ?_ _ _
    | with_reducible first | refine reportCost_changes ?_ _ | refine onSesL_changes ?_ _ _
    | with_reducible refine Kept.ite (fun _ => ?_) (fun _ => ?_)
    | simp only [↓kept_mk]; refine KeptMk.set rfl ?_ ?_
    | apply Upd.of <;> intro hp <;>
        first | exact absurd hp (by decide) | with_reducible rfl | dsimp only
    | split
    | dsimp only [id]

theorem reportClosed_changes {w₀ : Nat} {s₀ s : State} (h₀ : Kept w₀ s₀ s)  (b : Bough)
    (hw₀ : within (parts [.free, .events, .ports, .modems, .association, .sessions, .powerLinks, .coils, .safety, .billed, .heartwood, .loads, .display, .recorder, .flash]) w₀ = true := by decide) :
    Kept w₀ s₀ (reportClosed b s) := by
  refine h₀.trans (v := parts [.free, .events, .ports, .modems, .association, .sessions, .powerLinks, .coils, .safety, .billed, .heartwood, .loads, .display, .recorder, .flash]) ?_ hw₀
  clear h₀ hw₀
  unfold reportClosed
  try dsimp only
  repeat' first
    | with_reducible first | exact Kept.refl _ _ | assumption
    | with_reducible first | refine emit_changes ?_ _ _ _ | refine enterCharging_changes ?_ _
    | with_reducible first | refine onSaf_changes ?_ _ _ | refine onSesL_changes ?_ _ _
    | with_reducible first | refine withRequest_changes ?_ _ _ (fun u hu => ?_)
    | with_reducible refine Kept.ite (fun _ => ?_) (fun _ => ?_)
    | simp only [↓kept_mk]; refine KeptMk.set rfl ?_ ?_
    | apply Upd.of <;> intro hp <;>
        first | exact absurd hp (by decide) | with_reducible rfl | dsimp only
    | split
    | dsimp only [id]

theorem mainClosed_changes {w₀ : Nat} {s₀ s : State} (h₀ : Kept w₀ s₀ s)  (b : Bough)
    (hw₀ : within (parts [.coils, .safety]) w₀ = true := by decide) :
    Kept w₀ s₀ (mainClosed b s) := by
  refine h₀.trans (v := parts [.coils, .safety]) ?_ hw₀
  clear h₀ hw₀
  unfold mainClosed
  try dsimp only
  repeat' first
    | with_reducible first | exact Kept.refl _ _ | assumption
    | with_reducible first | refine release_changes ?_ _ _ | refine onSaf_changes ?_ _ _
    | with_reducible refine Kept.ite (fun _ => ?_) (fun _ => ?_)
    | simp only [↓kept_mk]; refine KeptMk.set rfl ?_ ?_
    | apply Upd.of <;> intro hp <;>
        first | exact absurd hp (by decide) | with_reducible rfl | dsimp only
    | split
    | dsimp only [id]

theorem beginInsulation_changes {w₀ : Nat} {s₀ s : State} (h₀ : Kept w₀ s₀ s)  (b : Bough)
    (hw₀ : within (parts [.events, .ports, .modems, .association, .sessions, .powerLinks, .coils, .safety, .measures, .recorder]) w₀ = true := by decide) :
    Kept w₀ s₀ (beginInsulation b s) := by
  refine h₀.trans (v := parts [.events, .ports, .modems, .association, .sessions, .powerLinks, .coils, .safety, .measures, .recorder]) ?_ hw₀
  clear h₀ hw₀
  unfold beginInsulation
  try dsimp only
  repeat' first
    | with_reducible first | exact Kept.refl _ _ | assumption
    | with_reducible first | refine onMeas_changes ?_ _ _ | refine onSaf_changes ?_ _ _ | refine onSesL_changes ?_ _ _
    | with_reducible first | refine withRequest_changes ?_ _ _ (fun u hu => ?_)
    | with_reducible refine Kept.ite (fun _ => ?_) (fun _ => ?_)
    | simp only [↓kept_mk]; refine KeptMk.set rfl ?_ ?_
    | apply Upd.of <;> intro hp <;>
        first | exact absurd hp (by decide) | with_reducible rfl | dsimp only
    | split
    | dsimp only [id]

theorem preReleased_changes {w₀ : Nat} {s₀ s : State} (h₀ : Kept w₀ s₀ s)  (b : Bough)
    (hw₀ : within (parts [.free, .events, .ports, .modems, .association, .sessions, .powerLinks, .coils, .safety, .measures, .billed, .heartwood, .loads, .display, .canopy, .memory, .cells, .recorder, .flash]) w₀ = true := by decide) :
    Kept w₀ s₀ (preReleased b s) := by
  refine h₀.trans (v := parts [.free, .events, .ports, .modems, .association, .sessions, .powerLinks, .coils, .safety, .measures, .billed, .heartwood, .loads, .display, .canopy, .memory, .cells, .recorder, .flash]) ?_ hw₀
  clear h₀ hw₀
  unfold preReleased
  try dsimp only
  repeat' first
    | with_reducible first | exact Kept.refl _ _ | assumption
    | with_reducible first | refine beginInsulation_changes ?_ _ | refine emit_changes ?_ _ _ _
    | with_reducible first | refine onCoil_changes ?_ _ _ _ | refine trip_changes ?_ _ _ _
    | with_reducible refine Kept.ite (fun _ => ?_) (fun _ => ?_)
    | simp only [↓kept_mk]; refine KeptMk.set rfl ?_ ?_
    | apply Upd.of <;> intro hp <;>
        first | exact absurd hp (by decide) | with_reducible rfl | dsimp only
    | split
    | dsimp only [id]

theorem reportIsolation_changes {w₀ : Nat} {s₀ s : State} (h₀ : Kept w₀ s₀ s)  (b : Bough) (r : Nat)
    (hw₀ : within (parts [.modems, .safety]) w₀ = true := by decide) :
    Kept w₀ s₀ (reportIsolation b r s) := by
  refine h₀.trans (v := parts [.modems, .safety]) ?_ hw₀
  clear h₀ hw₀
  unfold reportIsolation
  try dsimp only
  repeat' first
    | with_reducible first | exact Kept.refl _ _ | assumption
    | with_reducible first | refine onLink_changes ?_ _ _ | refine onSaf_changes_view ?_ _ _ ?_
    | exact SameView.of fun x => by first | rfl | (dsimp only; split <;> rfl)
    | with_reducible refine Kept.ite (fun _ => ?_) (fun _ => ?_)
    | simp only [↓kept_mk]; refine KeptMk.set rfl ?_ ?_
    | apply Upd.of <;> intro hp <;>
        first | exact absurd hp (by decide) | with_reducible rfl | dsimp only
    | split
    | dsimp only [id]

theorem insulationDone_changes {w₀ : Nat} {s₀ s : State} (h₀ : Kept w₀ s₀ s)  (b : Bough)
    (hw₀ : within (parts [.free, .events, .ports, .modems, .association, .sessions, .powerLinks, .coils, .safety, .billed, .heartwood, .loads, .display, .canopy, .memory, .cells, .recorder, .flash]) w₀ = true := by decide) :
    Kept w₀ s₀ (insulationDone b s) := by
  refine h₀.trans (v := parts [.free, .events, .ports, .modems, .association, .sessions, .powerLinks, .coils, .safety, .billed, .heartwood, .loads, .display, .canopy, .memory, .cells, .recorder, .flash]) ?_ hw₀
  clear h₀ hw₀
  unfold insulationDone
  try dsimp only
  repeat' first
    | with_reducible first | exact Kept.refl _ _ | assumption
    | with_reducible first | refine reportIsolation_changes ?_ _ _ | refine trip_changes ?_ _ _ _
    | with_reducible first | refine onSaf_changes ?_ _ _ | refine onSesL_changes ?_ _ _
    | with_reducible first | refine withRequest_changes ?_ _ _ (fun u hu => ?_)
    | with_reducible refine Kept.ite (fun _ => ?_) (fun _ => ?_)
    | simp only [↓kept_mk]; refine KeptMk.set rfl ?_ ?_
    | apply Upd.of <;> intro hp <;>
        first | exact absurd hp (by decide) | with_reducible rfl | dsimp only
    | split
    | dsimp only [id]

theorem testFailed_changes {w₀ : Nat} {s₀ s : State} (h₀ : Kept w₀ s₀ s)  (b : Bough) (k : Fin 3) (side f code : Nat)
    (hw₀ : within (parts [.free, .events, .ports, .modems, .association, .sessions, .powerLinks, .coils, .safety, .billed, .heartwood, .loads, .display, .canopy, .memory, .cells, .recorder, .flash]) w₀ = true := by decide) :
    Kept w₀ s₀ (testFailed b k side f code s) := by
  refine h₀.trans (v := parts [.free, .events, .ports, .modems, .association, .sessions, .powerLinks, .coils, .safety, .billed, .heartwood, .loads, .display, .canopy, .memory, .cells, .recorder, .flash]) ?_ hw₀
  clear h₀ hw₀
  unfold testFailed
  try dsimp only
  repeat' first
    | with_reducible first | exact Kept.refl _ _ | assumption
    | with_reducible first | refine emit_changes ?_ _ _ _ | refine trip_changes ?_ _ _ _ | refine onSaf_changes ?_ _ _
    | with_reducible refine Kept.ite (fun _ => ?_) (fun _ => ?_)
    | simp only [↓kept_mk]; refine KeptMk.set rfl ?_ ?_
    | apply Upd.of <;> intro hp <;>
        first | exact absurd hp (by decide) | with_reducible rfl | dsimp only
    | split
    | dsimp only [id]

theorem setStuckRun_changes {w₀ : Nat} {s₀ s : State} (h₀ : Kept w₀ s₀ s)  (i : Fin 48) (n : Nat)
    (hw₀ : within (parts [.coils, .safety]) w₀ = true := by decide) :
    Kept w₀ s₀ (setStuckRun i n s) := by
  refine h₀.trans (v := parts [.coils, .safety]) ?_ hw₀
  clear h₀ hw₀
  unfold setStuckRun
  try dsimp only
  repeat' first
    | with_reducible first | exact Kept.refl _ _ | assumption
    | with_reducible first | refine onCoil_changes ?_ _ _ _
    | with_reducible refine Kept.ite (fun _ => ?_) (fun _ => ?_)
    | simp only [↓kept_mk]; refine KeptMk.set rfl ?_ ?_
    | apply Upd.of <;> intro hp <;>
        first | exact absurd hp (by decide) | with_reducible rfl | dsimp only
    | split
    | dsimp only [id]

theorem stuckCheck_changes {w₀ : Nat} {s₀ s : State} (h₀ : Kept w₀ s₀ s)  (on : BitVec 48) (i : Fin 48)
    (hw₀ : within (parts [.free, .events, .ports, .modems, .association, .sessions, .powerLinks, .coils, .safety, .billed, .heartwood, .loads, .display, .canopy, .memory, .cells, .recorder, .flash]) w₀ = true := by decide) :
    Kept w₀ s₀ (stuckCheck on i s) := by
  refine h₀.trans (v := parts [.free, .events, .ports, .modems, .association, .sessions, .powerLinks, .coils, .safety, .billed, .heartwood, .loads, .display, .canopy, .memory, .cells, .recorder, .flash]) ?_ hw₀
  clear h₀ hw₀
  unfold stuckCheck
  try dsimp only
  repeat' first
    | with_reducible first | exact Kept.refl _ _ | assumption
    | with_reducible first | refine setStuckRun_changes ?_ _ _ | refine testFailed_changes ?_ _ _ _ _ _
    | with_reducible refine Kept.ite (fun _ => ?_) (fun _ => ?_)
    | split
    | dsimp only [id]

theorem stopEvent_changes {w₀ : Nat} {s₀ s : State} (h₀ : Kept w₀ s₀ s)  
    (hw₀ : within (parts [.events, .recorder]) w₀ = true := by decide) :
    Kept w₀ s₀ (stopEvent s) := by
  refine h₀.trans (v := parts [.events, .recorder]) ?_ hw₀
  clear h₀ hw₀
  unfold stopEvent
  try dsimp only
  repeat' first
    | with_reducible first | exact Kept.refl _ _ | assumption
    | with_reducible first | refine emit_changes ?_ _ _ _
    | with_reducible refine Kept.ite (fun _ => ?_) (fun _ => ?_)
    | split
    | dsimp only [id]

theorem measureResidual_changes {w₀ : Nat} {s₀ s : State} (h₀ : Kept w₀ s₀ s)  (b : Bough)
    (hw₀ : within (parts [.measures]) w₀ = true := by decide) :
    Kept w₀ s₀ (measureResidual b s) := by
  refine h₀.trans (v := parts [.measures]) ?_ hw₀
  clear h₀ hw₀
  unfold measureResidual
  try dsimp only
  repeat' first
    | with_reducible first | exact Kept.refl _ _ | assumption
    | with_reducible first | refine onMeas_changes ?_ _ _
    | with_reducible refine Kept.ite (fun _ => ?_) (fun _ => ?_)
    | simp only [↓kept_mk]; refine KeptMk.set rfl ?_ ?_
    | apply Upd.of <;> intro hp <;>
        first | exact absurd hp (by decide) | with_reducible rfl | dsimp only
    | split
    | dsimp only [id]

theorem takeSide_changes {w₀ : Nat} {s₀ s : State} (h₀ : Kept w₀ s₀ s)  (b : Bough) (v : SideSample)
    (hw₀ : within (parts [.safety, .measures, .sampling]) w₀ = true := by decide) :
    Kept w₀ s₀ (takeSide b v s) := by
  refine h₀.trans (v := parts [.safety, .measures, .sampling]) ?_ hw₀
  clear h₀ hw₀
  unfold takeSide
  try dsimp only
  repeat' first
    | with_reducible first | exact Kept.refl _ _ | assumption
    | with_reducible first | refine onMeas_changes ?_ _ _ | refine onMtr_changes ?_ _ _
    | with_reducible first | refine onSaf_changes_view ?_ _ _ ?_
    | exact SameView.of fun x => by first | rfl | (dsimp only; split <;> rfl)
    | with_reducible refine Kept.ite (fun _ => ?_) (fun _ => ?_)
    | simp only [↓kept_mk]; refine KeptMk.set rfl ?_ ?_
    | apply Upd.of <;> intro hp <;>
        first | exact absurd hp (by decide) | with_reducible rfl | dsimp only
    | split
    | dsimp only [id]

theorem residualTrips_changes {w₀ : Nat} {s₀ s : State} (h₀ : Kept w₀ s₀ s)  (b : Bough)
    (hw₀ : within (parts [.free, .events, .ports, .modems, .association, .sessions, .powerLinks, .coils, .safety, .measures, .billed, .heartwood, .loads, .display, .canopy, .memory, .cells, .recorder, .flash]) w₀ = true := by decide) :
    Kept w₀ s₀ (residualTrips b s) := by
  refine h₀.trans (v := parts [.free, .events, .ports, .modems, .association, .sessions, .powerLinks, .coils, .safety, .measures, .billed, .heartwood, .loads, .display, .canopy, .memory, .cells, .recorder, .flash]) ?_ hw₀
  clear h₀ hw₀
  unfold residualTrips
  try dsimp only
  repeat' first
    | with_reducible first | exact Kept.refl _ _ | assumption
    | with_reducible first | refine trip_changes ?_ _ _ _ | refine onMeas_changes ?_ _ _
    | with_reducible refine Kept.ite (fun _ => ?_) (fun _ => ?_)
    | simp only [↓kept_mk]; refine KeptMk.set rfl ?_ ?_
    | apply Upd.of <;> intro hp <;>
        first | exact absurd hp (by decide) | with_reducible rfl | dsimp only
    | split
    | dsimp only [id]

theorem overvoltage_changes {w₀ : Nat} {s₀ s : State} (h₀ : Kept w₀ s₀ s)  (b : Bough)
    (hw₀ : within (parts [.free, .events, .ports, .modems, .association, .sessions, .powerLinks, .coils, .safety, .measures, .billed, .heartwood, .loads, .display, .canopy, .memory, .cells, .recorder, .flash]) w₀ = true := by decide) :
    Kept w₀ s₀ (overvoltage b s) := by
  refine h₀.trans (v := parts [.free, .events, .ports, .modems, .association, .sessions, .powerLinks, .coils, .safety, .measures, .billed, .heartwood, .loads, .display, .canopy, .memory, .cells, .recorder, .flash]) ?_ hw₀
  clear h₀ hw₀
  unfold overvoltage
  try dsimp only
  repeat' first
    | with_reducible first | exact Kept.refl _ _ | assumption
    | with_reducible first | refine trip_changes ?_ _ _ _ | refine onMeas_changes ?_ _ _
    | with_reducible refine Kept.ite (fun _ => ?_) (fun _ => ?_)
    | simp only [↓kept_mk]; refine KeptMk.set rfl ?_ ?_
    | apply Upd.of <;> intro hp <;>
        first | exact absurd hp (by decide) | with_reducible rfl | dsimp only
    | split
    | dsimp only [id]

theorem toggleBridge_changes {w₀ : Nat} {s₀ s : State} (h₀ : Kept w₀ s₀ s)  (b : Bough)
    (hw₀ : within (parts [.free, .measures, .loads]) w₀ = true := by decide) :
    Kept w₀ s₀ (toggleBridge b s) := by
  refine h₀.trans (v := parts [.free, .measures, .loads]) ?_ hw₀
  clear h₀ hw₀
  unfold toggleBridge
  try dsimp only
  repeat' first
    | with_reducible first | exact Kept.refl _ _ | assumption
    | with_reducible first | refine auxDrive_changes ?_ _ | refine onAux_changes ?_ _ _ | refine onMeas_changes ?_ _ _
    | with_reducible refine Kept.ite (fun _ => ?_) (fun _ => ?_)
    | simp only [↓kept_mk]; refine KeptMk.set rfl ?_ ?_
    | apply Upd.of <;> intro hp <;>
        first | exact absurd hp (by decide) | with_reducible rfl | dsimp only
    | split
    | dsimp only [id]

theorem judgeInsulation_changes {w₀ : Nat} {s₀ s : State} (h₀ : Kept w₀ s₀ s)  (b : Bough) (r : Option (Nat × Nat))
    (hw₀ : within (parts [.free, .events, .ports, .modems, .association, .sessions, .powerLinks, .coils, .safety, .measures, .billed, .heartwood, .loads, .display, .canopy, .memory, .cells, .recorder, .flash]) w₀ = true := by decide) :
    Kept w₀ s₀ (judgeInsulation b r s) := by
  refine h₀.trans (v := parts [.free, .events, .ports, .modems, .association, .sessions, .powerLinks, .coils, .safety, .measures, .billed, .heartwood, .loads, .display, .canopy, .memory, .cells, .recorder, .flash]) ?_ hw₀
  clear h₀ hw₀
  unfold judgeInsulation
  try dsimp only
  repeat' first
    | with_reducible first | exact Kept.refl _ _ | assumption
    | with_reducible first | refine emit_changes ?_ _ _ _ | refine reportIsolation_changes ?_ _ _
    | with_reducible first | refine trip_changes ?_ _ _ _ | refine onMeas_changes ?_ _ _
    | with_reducible refine Kept.ite (fun _ => ?_) (fun _ => ?_)
    | simp only [↓kept_mk]; refine KeptMk.set rfl ?_ ?_
    | apply Upd.of <;> intro hp <;>
        first | exact absurd hp (by decide) | with_reducible rfl | dsimp only
    | split
    | dsimp only [id]

theorem linkBad_changes {w₀ : Nat} {s₀ s : State} (h₀ : Kept w₀ s₀ s)  
    (hw₀ : within (parts [.free, .events, .ports, .modems, .association, .sessions, .powerLinks, .coils, .safety, .stops, .powerDie, .billed, .heartwood, .loads, .display, .canopy, .memory, .cells, .recorder, .flash]) w₀ = true := by decide) :
    Kept w₀ s₀ (linkBad s) := by
  refine h₀.trans (v := parts [.free, .events, .ports, .modems, .association, .sessions, .powerLinks, .coils, .safety, .stops, .powerDie, .billed, .heartwood, .loads, .display, .canopy, .memory, .cells, .recorder, .flash]) ?_ hw₀
  clear h₀ hw₀
  unfold linkBad
  try dsimp only
  repeat' first
    | with_reducible first | exact Kept.refl _ _ | assumption
    | with_reducible first | refine fsEnter_changes ?_ _ _
    | with_reducible refine Kept.ite (fun _ => ?_) (fun _ => ?_)
    | simp only [↓kept_mk]; refine KeptMk.set rfl ?_ ?_
    | apply Upd.of <;> intro hp <;>
        first | exact absurd hp (by decide) | with_reducible rfl | dsimp only
    | split
    | dsimp only [id]

theorem linkGood_changes {w₀ : Nat} {s₀ s : State} (h₀ : Kept w₀ s₀ s)  
    (hw₀ : within (parts [.free, .events, .ports, .modems, .association, .safety, .stops, .powerDie, .loads, .recorder]) w₀ = true := by decide) :
    Kept w₀ s₀ (linkGood s) := by
  refine h₀.trans (v := parts [.free, .events, .ports, .modems, .association, .safety, .stops, .powerDie, .loads, .recorder]) ?_ hw₀
  clear h₀ hw₀
  unfold linkGood
  try dsimp only
  repeat' first
    | with_reducible first | exact Kept.refl _ _ | assumption
    | with_reducible first | refine fsLeave_changes ?_ _
    | with_reducible refine Kept.ite (fun _ => ?_) (fun _ => ?_)
    | simp only [↓kept_mk]; refine KeptMk.set rfl ?_ ?_
    | apply Upd.of <;> intro hp <;>
        first | exact absurd hp (by decide) | with_reducible rfl | dsimp only
    | split
    | dsimp only [id]

theorem beatGood_changes {w₀ : Nat} {s₀ s : State} (h₀ : Kept w₀ s₀ s)  (counter : Nat)
    (hw₀ : within (parts [.free, .events, .ports, .modems, .association, .safety, .stops, .powerDie, .loads, .recorder]) w₀ = true := by decide) :
    Kept w₀ s₀ (beatGood counter s) := by
  refine h₀.trans (v := parts [.free, .events, .ports, .modems, .association, .safety, .stops, .powerDie, .loads, .recorder]) ?_ hw₀
  clear h₀ hw₀
  unfold beatGood
  try dsimp only
  repeat' first
    | with_reducible first | exact Kept.refl _ _ | assumption
    | with_reducible first | refine driveAll_changes ?_ | refine fsLeave_changes ?_ _
    | with_reducible refine Kept.ite (fun _ => ?_) (fun _ => ?_)
    | simp only [↓kept_mk]; refine KeptMk.set rfl ?_ ?_
    | apply Upd.of <;> intro hp <;>
        first | exact absurd hp (by decide) | with_reducible rfl | dsimp only
    | split
    | dsimp only [id]

theorem clearLatches_changes {w₀ : Nat} {s₀ s : State} (h₀ : Kept w₀ s₀ s)  (b : Bough) (mask : Byte)
    (hw₀ : within (parts [.free, .coils, .safety, .loads]) w₀ = true := by decide) :
    Kept w₀ s₀ (clearLatches b mask s).2 := by
  refine h₀.trans (v := parts [.free, .coils, .safety, .loads]) ?_ hw₀
  clear h₀ hw₀
  unfold clearLatches
  try dsimp only
  repeat' first
    | with_reducible first | exact Kept.refl _ _ | assumption
    | with_reducible first | refine auxAll_changes ?_ | refine onSaf_changes ?_ _ _
    | with_reducible refine Kept.ite (fun _ => ?_) (fun _ => ?_)
    | simp only [↓kept_mk]; refine KeptMk.set rfl ?_ ?_
    | apply Upd.of <;> intro hp <;>
        first | exact absurd hp (by decide) | with_reducible rfl | dsimp only
    | split
    | dsimp only [id]

end Sys2Proof.Safety
end

