-- ==== Sys2Proof/Laws/Frames/Sessions.lean ====
section
/-! SUPPORT. What each shared operation of Machine/Sessions.lean may change. -/

set_option Elab.async false
set_option linter.unreachableTactic false
set_option linter.unusedTactic false
set_option linter.unusedSimpArgs false

namespace Sys2Proof.Safety

open Sys2Proof.Machine

theorem stopTransfer_changes {w₀ : Nat} {s₀ s : State} (h₀ : Kept w₀ s₀ s)  (b : Bough) (reason : Nat)
    (hw₀ : within (parts [.free, .events, .ports, .modems, .association, .sessions, .powerLinks, .safety, .billed, .heartwood, .loads, .display, .memory, .cells, .recorder, .flash]) w₀ = true := by decide) :
    Kept w₀ s₀ (stopTransfer b reason s) := by
  refine h₀.trans (v := parts [.free, .events, .ports, .modems, .association, .sessions, .powerLinks, .safety, .billed, .heartwood, .loads, .display, .memory, .cells, .recorder, .flash]) ?_ hw₀
  clear h₀ hw₀
  unfold stopTransfer
  try dsimp only
  repeat' first
    | with_reducible first | exact Kept.refl _ _ | assumption
    | with_reducible first | refine enterStopping_changes ?_ _ _
    | with_reducible refine Kept.ite (fun _ => ?_) (fun _ => ?_)
    | split
    | dsimp only [id]

theorem suspend_changes {w₀ : Nat} {s₀ s : State} (h₀ : Kept w₀ s₀ s)  (b : Bough)
    (hw₀ : within (parts [.free, .events, .ports, .modems, .association, .sessions, .powerLinks, .safety, .billed, .heartwood, .loads, .display, .recorder, .flash]) w₀ = true := by decide) :
    Kept w₀ s₀ (suspend b s) := by
  refine h₀.trans (v := parts [.free, .events, .ports, .modems, .association, .sessions, .powerLinks, .safety, .billed, .heartwood, .loads, .display, .recorder, .flash]) ?_ hw₀
  clear h₀ hw₀
  unfold suspend
  try dsimp only
  repeat' first
    | with_reducible first | exact Kept.refl _ _ | assumption
    | with_reducible first | refine goState_changes ?_ _ _ | refine requestOpening_changes ?_ _
    | with_reducible first | refine signReading_changes ?_ _ _ | refine onSesL_changes ?_ _ _
    | with_reducible refine Kept.ite (fun _ => ?_) (fun _ => ?_)
    | simp only [↓kept_mk]; refine KeptMk.set rfl ?_ ?_
    | apply Upd.of <;> intro hp <;>
        first | exact absurd hp (by decide) | with_reducible rfl | dsimp only
    | split
    | dsimp only [id]

theorem resume_changes {w₀ : Nat} {s₀ s : State} (h₀ : Kept w₀ s₀ s)  (b : Bough)
    (hw₀ : within (parts [.free, .events, .ports, .modems, .association, .sessions, .powerLinks, .safety, .billed, .heartwood, .loads, .display, .recorder, .flash]) w₀ = true := by decide) :
    Kept w₀ s₀ (resume b s) := by
  refine h₀.trans (v := parts [.free, .events, .ports, .modems, .association, .sessions, .powerLinks, .safety, .billed, .heartwood, .loads, .display, .recorder, .flash]) ?_ hw₀
  clear h₀ hw₀
  unfold resume
  try dsimp only
  repeat' first
    | with_reducible first | exact Kept.refl _ _ | assumption
    | with_reducible first | refine energise_changes ?_ _ | refine lateReading_changes ?_ _
    | with_reducible refine Kept.ite (fun _ => ?_) (fun _ => ?_)
    | split
    | dsimp only [id]

theorem sesAnswer_changes {w₀ : Nat} {s₀ s : State} (h₀ : Kept w₀ s₀ s)  (bough tag result : Nat)
    (hw₀ : within (parts [.events, .recorder]) w₀ = true := by decide) :
    Kept w₀ s₀ (sesAnswer bough tag result s) := by
  refine h₀.trans (v := parts [.events, .recorder]) ?_ hw₀
  clear h₀ hw₀
  unfold sesAnswer
  try dsimp only
  repeat' first
    | with_reducible first | exact Kept.refl _ _ | assumption
    | with_reducible first | refine answer_changes ?_ _ _ _ _
    | with_reducible refine Kept.ite (fun _ => ?_) (fun _ => ?_)
    | split
    | dsimp only [id]

theorem takeNewGrant_changes {w₀ : Nat} {s₀ s : State} (h₀ : Kept w₀ s₀ s)  (b : Bough)
    (hw₀ : within (parts [.sessions]) w₀ = true := by decide) :
    Kept w₀ s₀ (takeNewGrant b s) := by
  refine h₀.trans (v := parts [.sessions]) ?_ hw₀
  clear h₀ hw₀
  unfold takeNewGrant
  try dsimp only
  repeat' first
    | with_reducible first | exact Kept.refl _ _ | assumption
    | with_reducible first | refine onSes_changes ?_ _ _
    | with_reducible refine Kept.ite (fun _ => ?_) (fun _ => ?_)
    | simp only [↓kept_mk]; refine KeptMk.set rfl ?_ ?_
    | apply Upd.of <;> intro hp <;>
        first | exact absurd hp (by decide) | with_reducible rfl | dsimp only
    | split
    | dsimp only [id]

theorem noteLowCredit_changes {w₀ : Nat} {s₀ s : State} (h₀ : Kept w₀ s₀ s)  (b : Bough)
    (hw₀ : within (parts [.events, .sessions, .recorder]) w₀ = true := by decide) :
    Kept w₀ s₀ (noteLowCredit b s) := by
  refine h₀.trans (v := parts [.events, .sessions, .recorder]) ?_ hw₀
  clear h₀ hw₀
  unfold noteLowCredit
  try dsimp only
  repeat' first
    | with_reducible first | exact Kept.refl _ _ | assumption
    | with_reducible first | refine emit_changes ?_ _ _ _ | refine onSes_changes ?_ _ _
    | with_reducible refine Kept.ite (fun _ => ?_) (fun _ => ?_)
    | simp only [↓kept_mk]; refine KeptMk.set rfl ?_ ?_
    | apply Upd.of <;> intro hp <;>
        first | exact absurd hp (by decide) | with_reducible rfl | dsimp only
    | split
    | dsimp only [id]

theorem checkLocal_changes {w₀ : Nat} {s₀ s : State} (h₀ : Kept w₀ s₀ s)  (b : Bough)
    (hw₀ : within (parts [.free, .events, .ports, .modems, .association, .sessions, .powerLinks, .safety, .billed, .heartwood, .loads, .display, .memory, .cells, .recorder, .flash]) w₀ = true := by decide) :
    Kept w₀ s₀ (checkLocal b s) := by
  refine h₀.trans (v := parts [.free, .events, .ports, .modems, .association, .sessions, .powerLinks, .safety, .billed, .heartwood, .loads, .display, .memory, .cells, .recorder, .flash]) ?_ hw₀
  clear h₀ hw₀
  unfold checkLocal
  try dsimp only
  repeat' first
    | with_reducible first | exact Kept.refl _ _ | assumption
    | with_reducible first | refine enterStopping_changes ?_ _ _ | refine noteLowCredit_changes ?_ _
    | with_reducible first | refine onSes_changes ?_ _ _
    | with_reducible refine Kept.ite (fun _ => ?_) (fun _ => ?_)
    | simp only [↓kept_mk]; refine KeptMk.set rfl ?_ ?_
    | apply Upd.of <;> intro hp <;>
        first | exact absurd hp (by decide) | with_reducible rfl | dsimp only
    | split
    | dsimp only [id]

theorem checkLimits_changes {w₀ : Nat} {s₀ s : State} (h₀ : Kept w₀ s₀ s)  (b : Bough)
    (hw₀ : within (parts [.free, .events, .ports, .modems, .association, .sessions, .powerLinks, .safety, .billed, .heartwood, .loads, .display, .memory, .cells, .recorder, .flash]) w₀ = true := by decide) :
    Kept w₀ s₀ (checkLimits b s) := by
  refine h₀.trans (v := parts [.free, .events, .ports, .modems, .association, .sessions, .powerLinks, .safety, .billed, .heartwood, .loads, .display, .memory, .cells, .recorder, .flash]) ?_ hw₀
  clear h₀ hw₀
  unfold checkLimits
  try dsimp only
  repeat' first
    | with_reducible first | exact Kept.refl _ _ | assumption
    | with_reducible first | refine checkLocal_changes ?_ _ | refine emit_changes ?_ _ _ _
    | with_reducible first | refine enterStopping_changes ?_ _ _ | refine onSes_changes ?_ _ _
    | with_reducible refine Kept.ite (fun _ => ?_) (fun _ => ?_)
    | simp only [↓kept_mk]; refine KeptMk.set rfl ?_ ?_
    | apply Upd.of <;> intro hp <;>
        first | exact absurd hp (by decide) | with_reducible rfl | dsimp only
    | split
    | dsimp only [id]

theorem hostAccept_changes {w₀ : Nat} {s₀ s : State} (h₀ : Kept w₀ s₀ s)  (b : Bough) (remote : Bool) (g : Grant) (tag : Nat)
    (hw₀ : within (parts [.free, .events, .ports, .modems, .association, .sessions, .powerLinks, .sessionDev, .safety, .loads, .display, .memory, .cells, .recorder]) w₀ = true := by decide) :
    Kept w₀ s₀ (hostAccept b remote g tag s) := by
  refine h₀.trans (v := parts [.free, .events, .ports, .modems, .association, .sessions, .powerLinks, .sessionDev, .safety, .loads, .display, .memory, .cells, .recorder]) ?_ hw₀
  clear h₀ hw₀
  unfold hostAccept
  try dsimp only
  repeat' first
    | with_reducible first | exact Kept.refl _ _ | assumption
    | with_reducible first | refine acceptIdent_changes ?_ _ _ _ _ | refine authResult_changes ?_ _ _ _ _
    | with_reducible first | refine lookup_changes ?_ _ | refine refuseAndNext_changes ?_ _ _ _
    | with_reducible first | refine onSes_changes ?_ _ _
    | with_reducible refine Kept.ite (fun _ => ?_) (fun _ => ?_)
    | simp only [↓kept_mk]; refine KeptMk.set rfl ?_ ?_
    | apply Upd.of <;> intro hp <;>
        first | exact absurd hp (by decide) | with_reducible rfl | dsimp only
    | (with_reducible refine Kept.ofPair (by assumption) ?_)
    | split
    | dsimp only [id]

theorem authAccept_changes {w₀ : Nat} {s₀ s : State} (h₀ : Kept w₀ s₀ s)  (b : Bough) (remote : Bool) (g : Grant) (ident : List Byte) (tag : Nat)
    (hw₀ : within (parts [.free, .events, .ports, .modems, .association, .sessions, .powerLinks, .sessionDev, .safety, .loads, .display, .memory, .cells, .recorder]) w₀ = true := by decide) :
    Kept w₀ s₀ (authAccept b remote g ident tag s) := by
  refine h₀.trans (v := parts [.free, .events, .ports, .modems, .association, .sessions, .powerLinks, .sessionDev, .safety, .loads, .display, .memory, .cells, .recorder]) ?_ hw₀
  clear h₀ hw₀
  unfold authAccept
  try dsimp only
  repeat' first
    | with_reducible first | exact Kept.refl _ _ | assumption
    | with_reducible first | refine authResult_changes ?_ _ _ _ _ | refine hostAccept_changes ?_ _ _ _ _
    | with_reducible first | refine sesAnswer_changes ?_ _ _ _ | refine onSes_changes ?_ _ _
    | with_reducible refine Kept.ite (fun _ => ?_) (fun _ => ?_)
    | simp only [↓kept_mk]; refine KeptMk.set rfl ?_ ?_
    | apply Upd.of <;> intro hp <;>
        first | exact absurd hp (by decide) | with_reducible rfl | dsimp only
    | split
    | dsimp only [id]

theorem authRefuse_changes {w₀ : Nat} {s₀ s : State} (h₀ : Kept w₀ s₀ s)  (b : Bough) (ident : List Byte) (tag : Nat)
    (hw₀ : within (parts [.free, .events, .ports, .modems, .association, .sessions, .powerLinks, .sessionDev, .safety, .billed, .heartwood, .loads, .display, .memory, .cells, .recorder, .flash]) w₀ = true := by decide) :
    Kept w₀ s₀ (authRefuse b ident tag s) := by
  refine h₀.trans (v := parts [.free, .events, .ports, .modems, .association, .sessions, .powerLinks, .sessionDev, .safety, .billed, .heartwood, .loads, .display, .memory, .cells, .recorder, .flash]) ?_ hw₀
  clear h₀ hw₀
  unfold authRefuse
  try dsimp only
  repeat' first
    | with_reducible first | exact Kept.refl _ _ | assumption
    | with_reducible first | refine authResult_changes ?_ _ _ _ _ | refine refuseAndNext_changes ?_ _ _ _
    | with_reducible first | refine sesAnswer_changes ?_ _ _ _ | refine stopSession_changes ?_ _ _
    | with_reducible refine Kept.ite (fun _ => ?_) (fun _ => ?_)
    | split
    | dsimp only [id]

theorem putCredit_changes {w₀ : Nat} {s₀ s : State} (h₀ : Kept w₀ s₀ s)  (h : CmdHdr) (i : Nat) (r : List Byte) (balance : Int) (ecUsed : Nat)
    (hw₀ : within (parts [.free, .events, .memory, .cells, .recorder, .flash]) w₀ = true := by decide) :
    Kept w₀ s₀ (putCredit h i r balance ecUsed s) := by
  refine h₀.trans (v := parts [.free, .events, .memory, .cells, .recorder, .flash]) ?_ hw₀
  clear h₀ hw₀
  unfold putCredit
  try dsimp only
  repeat' first
    | with_reducible first | exact Kept.refl _ _ | assumption
    | with_reducible first | refine journal_changes ?_ _ | refine putSlot_changes ?_ _ _
    | with_reducible first | refine sesAnswer_changes ?_ _ _ _
    | with_reducible refine Kept.ite (fun _ => ?_) (fun _ => ?_)
    | split
    | dsimp only [id]

theorem addCredit_changes {w₀ : Nat} {s₀ s : State} (h₀ : Kept w₀ s₀ s)  (h : CmdHdr) (amount : Int) (i : Nat) (r : List Byte)
    (hw₀ : within (parts [.free, .events, .sessions, .memory, .cells, .recorder, .flash]) w₀ = true := by decide) :
    Kept w₀ s₀ (addCredit h amount i r s) := by
  refine h₀.trans (v := parts [.free, .events, .sessions, .memory, .cells, .recorder, .flash]) ?_ hw₀
  clear h₀ hw₀
  unfold addCredit
  try dsimp only
  repeat' first
    | with_reducible first | exact Kept.refl _ _ | assumption
    | with_reducible first | refine keepEc_changes ?_ _ _ | refine putCredit_changes ?_ _ _ _ _ _
    | with_reducible refine Kept.ite (fun _ => ?_) (fun _ => ?_)
    | simp only [↓kept_mk]; refine KeptMk.set rfl ?_ ?_
    | apply Upd.of <;> intro hp <;>
        first | exact absurd hp (by decide) | with_reducible rfl | dsimp only
    | split
    | dsimp only [id]

theorem noteCut_changes {w₀ : Nat} {s₀ s : State} (h₀ : Kept w₀ s₀ s)  (i : Nat) (old : Int)
    (hw₀ : within (parts [.sessions]) w₀ = true := by decide) :
    Kept w₀ s₀ (noteCut i old s) := by
  refine h₀.trans (v := parts [.sessions]) ?_ hw₀
  clear h₀ hw₀
  unfold noteCut
  try dsimp only
  repeat' first
    | with_reducible first | exact Kept.refl _ _ | assumption
    | with_reducible first | refine reportCost_changes ?_ _ | refine onSes_changes ?_ _ _
    | with_reducible first | refine Kept.foldl _ _ ?_ fun u x hu => ?_
    | with_reducible refine Kept.ite (fun _ => ?_) (fun _ => ?_)
    | simp only [↓kept_mk]; refine KeptMk.set rfl ?_ ?_
    | apply Upd.of <;> intro hp <;>
        first | exact absurd hp (by decide) | with_reducible rfl | dsimp only
    | split
    | dsimp only [id]

theorem loadRecord_changes {w₀ : Nat} {s₀ s : State} (h₀ : Kept w₀ s₀ s)  (r : List Byte)
    (hw₀ : within (parts [.free, .events, .sessionDev, .memory, .cells, .recorder]) w₀ = true := by decide) :
    Kept w₀ s₀ (loadRecord r s).2 := by
  refine h₀.trans (v := parts [.free, .events, .sessionDev, .memory, .cells, .recorder]) ?_ hw₀
  clear h₀ hw₀
  unfold loadRecord
  try dsimp only
  repeat' first
    | with_reducible first | exact Kept.refl _ _ | assumption
    | with_reducible first | refine insertRecord_changes ?_ _ | refine lookup_changes ?_ _
    | with_reducible first | refine putSlot_changes ?_ _ _
    | with_reducible refine Kept.ite (fun _ => ?_) (fun _ => ?_)
    | simp only [↓kept_mk]; refine KeptMk.set rfl ?_ ?_
    | apply Upd.of <;> intro hp <;>
        first | exact absurd hp (by decide) | with_reducible rfl | dsimp only
    | (with_reducible refine Kept.ofPair (by assumption) ?_)
    | split
    | dsimp only [id]

theorem mergeOne_changes {w₀ : Nat} {s₀ s : State} (h₀ : Kept w₀ s₀ s)  (i : Nat) (c : LoadCount)
    (hw₀ : within (parts [.free, .events, .sessionDev, .memory, .cells, .recorder, .flash]) w₀ = true := by decide) :
    Kept w₀ s₀ (mergeOne i c s).2 := by
  refine h₀.trans (v := parts [.free, .events, .sessionDev, .memory, .cells, .recorder, .flash]) ?_ hw₀
  clear h₀ hw₀
  unfold mergeOne
  try dsimp only
  repeat' first
    | with_reducible first | exact Kept.refl _ _ | assumption
    | with_reducible first | refine journal_changes ?_ _ | refine loadRecord_changes ?_ _
    | with_reducible refine Kept.ite (fun _ => ?_) (fun _ => ?_)
    | simp only [↓kept_mk]; refine KeptMk.set rfl ?_ ?_
    | apply Upd.of <;> intro hp <;>
        first | exact absurd hp (by decide) | with_reducible rfl | dsimp only
    | (with_reducible refine Kept.ofPair (by assumption) ?_)
    | split
    | dsimp only [id]

theorem replaceOne_changes {w₀ : Nat} {s₀ s : State} (h₀ : Kept w₀ s₀ s)  (i : Nat) (c : LoadCount)
    (hw₀ : within (parts [.free, .events, .sessionDev, .memory, .cells, .recorder]) w₀ = true := by decide) :
    Kept w₀ s₀ (replaceOne i c s).2 := by
  refine h₀.trans (v := parts [.free, .events, .sessionDev, .memory, .cells, .recorder]) ?_ hw₀
  clear h₀ hw₀
  unfold replaceOne
  try dsimp only
  repeat' first
    | with_reducible first | exact Kept.refl _ _ | assumption
    | with_reducible first | refine loadRecord_changes ?_ _
    | with_reducible refine Kept.ite (fun _ => ?_) (fun _ => ?_)
    | simp only [↓kept_mk]; refine KeptMk.set rfl ?_ ?_
    | apply Upd.of <;> intro hp <;>
        first | exact absurd hp (by decide) | with_reducible rfl | dsimp only
    | (with_reducible refine Kept.ofPair (by assumption) ?_)
    | split
    | dsimp only [id]

theorem loadAll_changes {w : Nat} {s₀ s : State} (h : Kept w s₀ s) (f : Nat → LoadCount → State → LoadCount × State) (n : Nat)
    (hf : ∀ i c u, Kept w s₀ u → Kept w s₀ (f i c u).2) : Kept w s₀ (loadAll f n s).2 := by
  unfold loadAll
  suffices H : ∀ (l : List Nat) (a : LoadCount × State), Kept w s₀ a.2 →
      Kept w s₀ (l.foldl (fun a i => f i a.1 a.2) a).2 from H _ _ h
  intro l
  induction l with
  | nil => exact fun a ha => ha
  | cons i l ih => exact fun a ha => ih _ (hf i a.1 a.2 ha)

theorem loadAnswer_changes {w₀ : Nat} {s₀ s : State} (h₀ : Kept w₀ s₀ s)  (h : CmdHdr) (result : Nat) (c : LoadCount)
    (hw₀ : within (parts [.events, .bulk, .recorder]) w₀ = true := by decide) :
    Kept w₀ s₀ (loadAnswer h result c s) := by
  refine h₀.trans (v := parts [.events, .bulk, .recorder]) ?_ hw₀
  clear h₀ hw₀
  unfold loadAnswer
  try dsimp only
  repeat' first
    | with_reducible first | exact Kept.refl _ _ | assumption
    | with_reducible first | refine answer_changes ?_ _ _ _ _ | refine bulkIn_changes ?_ _
    | with_reducible refine Kept.ite (fun _ => ?_) (fun _ => ?_)
    | split
    | dsimp only [id]

theorem emptyBank_changes {w₀ : Nat} {s₀ s : State} (h₀ : Kept w₀ s₀ s)  
    (hw₀ : within (parts [.free, .memory, .cells]) w₀ = true := by decide) :
    Kept w₀ s₀ (emptyBank s) := by
  refine h₀.trans (v := parts [.free, .memory, .cells]) ?_ hw₀
  clear h₀ hw₀
  unfold emptyBank
  try dsimp only
  repeat' first
    | with_reducible first | exact Kept.refl _ _ | assumption
    | with_reducible first | refine writtenWord_changes ?_ _ | refine Kept.foldl _ _ ?_ fun u x hu => ?_
    | with_reducible refine Kept.ite (fun _ => ?_) (fun _ => ?_)
    | simp only [↓kept_mk]; refine KeptMk.set rfl ?_ ?_
    | apply Upd.of <;> intro hp <;>
        first | exact absurd hp (by decide) | with_reducible rfl | dsimp only
    | split
    | dsimp only [id]

end Sys2Proof.Safety
end

