-- ==== Sys2Proof/Laws/Frames/Ports.lean ====
section
/-! SUPPORT. What each shared operation of Machine/Ports.lean may change. -/

set_option Elab.async false
set_option linter.unreachableTactic false
set_option linter.unusedTactic false
set_option linter.unusedSimpArgs false

namespace Sys2Proof.Safety

open Sys2Proof.Machine

theorem pilotLeft_changes {w₀ : Nat} {s₀ s : State} (h₀ : Kept w₀ s₀ s)  (b : Bough)
    (hw₀ : within (parts [.events, .ports, .modems, .association, .sessions, .powerLinks, .coils, .safety, .recorder]) w₀ = true := by decide) :
    Kept w₀ s₀ (pilotLeft b s) := by
  refine h₀.trans (v := parts [.events, .ports, .modems, .association, .sessions, .powerLinks, .coils, .safety, .recorder]) ?_ hw₀
  clear h₀ hw₀
  unfold pilotLeft
  try dsimp only
  repeat' first
    | with_reducible first | exact Kept.refl _ _ | assumption
    | with_reducible first | refine abandonClosing_changes ?_ _ _ | refine openNow_changes ?_ _ _
    | with_reducible first | refine onSaf_changes ?_ _ _
    | with_reducible refine Kept.ite (fun _ => ?_) (fun _ => ?_)
    | simp only [↓kept_mk]; refine KeptMk.set rfl ?_ ?_
    | apply Upd.of <;> intro hp <;>
        first | exact absurd hp (by decide) | with_reducible rfl | dsimp only
    | split
    | dsimp only [id]

theorem sidePlateau_changes {w₀ : Nat} {s₀ s : State} (h₀ : Kept w₀ s₀ s)  (b : Bough) (mv : Int)
    (hw₀ : within (parts [.events, .ports, .modems, .association, .sessions, .powerLinks, .coils, .safety, .recorder]) w₀ = true := by decide) :
    Kept w₀ s₀ (sidePlateau b mv s) := by
  refine h₀.trans (v := parts [.events, .ports, .modems, .association, .sessions, .powerLinks, .coils, .safety, .recorder]) ?_ hw₀
  clear h₀ hw₀
  unfold sidePlateau
  try dsimp only
  repeat' first
    | with_reducible first | exact Kept.refl _ _ | assumption
    | with_reducible first | refine pilotLeft_changes ?_ _ | refine onSaf_changes ?_ _ _
    | with_reducible refine Kept.ite (fun _ => ?_) (fun _ => ?_)
    | simp only [↓kept_mk]; refine KeptMk.set rfl ?_ ?_
    | apply Upd.of <;> intro hp <;>
        first | exact absurd hp (by decide) | with_reducible rfl | dsimp only
    | split
    | dsimp only [id]

theorem freeVendAtOnce_changes {w₀ : Nat} {s₀ s : State} (h₀ : Kept w₀ s₀ s)  (b : Bough)
    (hw₀ : within (parts [.free, .events, .ports, .modems, .association, .sessions, .powerLinks, .safety, .loads, .display, .recorder]) w₀ = true := by decide) :
    Kept w₀ s₀ (freeVendAtOnce b s) := by
  refine h₀.trans (v := parts [.free, .events, .ports, .modems, .association, .sessions, .powerLinks, .safety, .loads, .display, .recorder]) ?_ hw₀
  clear h₀ hw₀
  unfold freeVendAtOnce
  try dsimp only
  repeat' first
    | with_reducible first | exact Kept.refl _ _ | assumption
    | with_reducible first | refine freeVendNow_changes ?_ _
    | with_reducible refine Kept.ite (fun _ => ?_) (fun _ => ?_)
    | split
    | dsimp only [id]

theorem sesPilot_changes {w₀ : Nat} {s₀ s : State} (h₀ : Kept w₀ s₀ s)  (b : Bough) (old : PilotState)
    (hw₀ : within (parts [.free, .events, .ports, .modems, .association, .sessions, .powerLinks, .sessionDev, .safety, .measures, .billed, .heartwood, .loads, .display, .memory, .cells, .recorder, .flash]) w₀ = true := by decide) :
    Kept w₀ s₀ (sesPilot b old s) := by
  refine h₀.trans (v := parts [.free, .events, .ports, .modems, .association, .sessions, .powerLinks, .sessionDev, .safety, .measures, .billed, .heartwood, .loads, .display, .memory, .cells, .recorder, .flash]) ?_ hw₀
  clear h₀ hw₀
  unfold sesPilot
  try dsimp only
  repeat' first
    | with_reducible first | exact Kept.refl _ _ | assumption
    | with_reducible first | refine connect_changes ?_ _ | refine energise_changes ?_ _
    | with_reducible first | refine enterStopping_changes ?_ _ _ | refine freeVendAtOnce_changes ?_ _
    | with_reducible first | refine leaveSession_changes ?_ _ _ | refine resume_changes ?_ _
    | with_reducible first | refine suspend_changes ?_ _
    | with_reducible refine Kept.ite (fun _ => ?_) (fun _ => ?_)
    | simp only [↓kept_mk]; refine KeptMk.set rfl ?_ ?_
    | apply Upd.of <;> intro hp <;>
        first | exact absurd hp (by decide) | with_reducible rfl | dsimp only
    | split
    | dsimp only [id]

theorem pilotFault_changes {w₀ : Nat} {s₀ s : State} (h₀ : Kept w₀ s₀ s)  (b : Bough) (kind : Nat)
    (hw₀ : within (parts [.free, .events, .ports, .modems, .association, .sessions, .powerLinks, .safety, .billed, .heartwood, .loads, .display, .memory, .cells, .recorder, .flash]) w₀ = true := by decide) :
    Kept w₀ s₀ (pilotFault b kind s) := by
  refine h₀.trans (v := parts [.free, .events, .ports, .modems, .association, .sessions, .powerLinks, .safety, .billed, .heartwood, .loads, .display, .memory, .cells, .recorder, .flash]) ?_ hw₀
  clear h₀ hw₀
  unfold pilotFault
  try dsimp only
  repeat' first
    | with_reducible first | exact Kept.refl _ _ | assumption
    | with_reducible first | refine driveOutput_changes ?_ _ | refine emit_changes ?_ _ _ _
    | with_reducible first | refine leaveNetwork_changes ?_ _ | refine leaveSession_changes ?_ _ _
    | with_reducible first | refine onPort_changes ?_ _ _
    | with_reducible refine Kept.ite (fun _ => ?_) (fun _ => ?_)
    | simp only [↓kept_mk]; refine KeptMk.set rfl ?_ ?_
    | apply Upd.of <;> intro hp <;>
        first | exact absurd hp (by decide) | with_reducible rfl | dsimp only
    | split
    | dsimp only [id]

theorem countToggle_changes {w₀ : Nat} {s₀ s : State} (h₀ : Kept w₀ s₀ s)  (b : Bough)
    (hw₀ : within (parts [.modems]) w₀ = true := by decide) :
    Kept w₀ s₀ (countToggle b s) := by
  refine h₀.trans (v := parts [.modems]) ?_ hw₀
  clear h₀ hw₀
  unfold countToggle
  try dsimp only
  repeat' first
    | with_reducible first | exact Kept.refl _ _ | assumption
    | with_reducible refine Kept.ite (fun _ => ?_) (fun _ => ?_)
    | simp only [↓kept_mk]; refine KeptMk.set rfl ?_ ?_
    | apply Upd.of <;> intro hp <;>
        first | exact absurd hp (by decide) | with_reducible rfl | dsimp only
    | split
    | dsimp only [id]

theorem startDigital_changes {w₀ : Nat} {s₀ s : State} (h₀ : Kept w₀ s₀ s)  (b : Bough)
    (hw₀ : within (parts [.ports, .association]) w₀ = true := by decide) :
    Kept w₀ s₀ (startDigital b s) := by
  refine h₀.trans (v := parts [.ports, .association]) ?_ hw₀
  clear h₀ hw₀
  unfold startDigital
  try dsimp only
  repeat' first
    | with_reducible first | exact Kept.refl _ _ | assumption
    | with_reducible first | refine onPort_changes ?_ _ _
    | with_reducible refine Kept.ite (fun _ => ?_) (fun _ => ?_)
    | simp only [↓kept_mk]; refine KeptMk.set rfl ?_ ?_
    | apply Upd.of <;> intro hp <;>
        first | exact absurd hp (by decide) | with_reducible rfl | dsimp only
    | split
    | dsimp only [id]

theorem confirmState_changes {w₀ : Nat} {s₀ s : State} (h₀ : Kept w₀ s₀ s)  (b : Bough) (st : PilotState)
    (hw₀ : within (parts [.free, .events, .ports, .modems, .association, .sessions, .powerLinks, .sessionDev, .coils, .safety, .measures, .billed, .heartwood, .loads, .display, .memory, .cells, .recorder, .flash]) w₀ = true := by decide) :
    Kept w₀ s₀ (confirmState b st s) := by
  refine h₀.trans (v := parts [.free, .events, .ports, .modems, .association, .sessions, .powerLinks, .sessionDev, .coils, .safety, .measures, .billed, .heartwood, .loads, .display, .memory, .cells, .recorder, .flash]) ?_ hw₀
  clear h₀ hw₀
  unfold confirmState
  try dsimp only
  repeat' first
    | with_reducible first | exact Kept.refl _ _ | assumption
    | with_reducible first | refine backToA_changes ?_ _ | refine clearAtA_changes ?_ _
    | with_reducible first | refine countToggle_changes ?_ _ | refine driveOutput_changes ?_ _
    | with_reducible first | refine emit_changes ?_ _ _ _ | refine pilotFault_changes ?_ _ _
    | with_reducible first | refine sesPilot_changes ?_ _ _ | refine startDigital_changes ?_ _
    | with_reducible first | refine onPort_changes ?_ _ _ | refine onSaf_changes ?_ _ _
    | with_reducible refine Kept.ite (fun _ => ?_) (fun _ => ?_)
    | simp only [↓kept_mk]; refine KeptMk.set rfl ?_ ?_
    | apply Upd.of <;> intro hp <;>
        first | exact absurd hp (by decide) | with_reducible rfl | dsimp only
    | split
    | dsimp only [id]

theorem runPlateau_changes {w₀ : Nat} {s₀ s : State} (h₀ : Kept w₀ s₀ s)  (b : Bough) (k : Option PilotState)
    (hw₀ : within (parts [.free, .events, .ports, .modems, .association, .sessions, .powerLinks, .sessionDev, .coils, .safety, .measures, .billed, .heartwood, .loads, .display, .memory, .cells, .recorder, .flash]) w₀ = true := by decide) :
    Kept w₀ s₀ (runPlateau b k s) := by
  refine h₀.trans (v := parts [.free, .events, .ports, .modems, .association, .sessions, .powerLinks, .sessionDev, .coils, .safety, .measures, .billed, .heartwood, .loads, .display, .memory, .cells, .recorder, .flash]) ?_ hw₀
  clear h₀ hw₀
  unfold runPlateau
  try dsimp only
  repeat' first
    | with_reducible first | exact Kept.refl _ _ | assumption
    | with_reducible first | refine confirmState_changes ?_ _ _ | refine onPort_changes ?_ _ _
    | with_reducible refine Kept.ite (fun _ => ?_) (fun _ => ?_)
    | simp only [↓kept_mk]; refine KeptMk.set rfl ?_ ?_
    | apply Upd.of <;> intro hp <;>
        first | exact absurd hp (by decide) | with_reducible rfl | dsimp only
    | split
    | dsimp only [id]

theorem runBad_changes {w₀ : Nat} {s₀ s : State} (h₀ : Kept w₀ s₀ s)  (b : Bough) (bad : Bool) (kind : Nat)
    (hw₀ : within (parts [.free, .events, .ports, .modems, .association, .sessions, .powerLinks, .safety, .billed, .heartwood, .loads, .display, .memory, .cells, .recorder, .flash]) w₀ = true := by decide) :
    Kept w₀ s₀ (runBad b bad kind s) := by
  refine h₀.trans (v := parts [.free, .events, .ports, .modems, .association, .sessions, .powerLinks, .safety, .billed, .heartwood, .loads, .display, .memory, .cells, .recorder, .flash]) ?_ hw₀
  clear h₀ hw₀
  unfold runBad
  try dsimp only
  repeat' first
    | with_reducible first | exact Kept.refl _ _ | assumption
    | with_reducible first | refine pilotFault_changes ?_ _ _ | refine onPort_changes ?_ _ _
    | with_reducible refine Kept.ite (fun _ => ?_) (fun _ => ?_)
    | simp only [↓kept_mk]; refine KeptMk.set rfl ?_ ?_
    | apply Upd.of <;> intro hp <;>
        first | exact absurd hp (by decide) | with_reducible rfl | dsimp only
    | split
    | dsimp only [id]

theorem positivePlateau_changes {w₀ : Nat} {s₀ s : State} (h₀ : Kept w₀ s₀ s)  (b : Bough) (mv : Int)
    (hw₀ : within (parts [.free, .events, .ports, .modems, .association, .sessions, .powerLinks, .sessionDev, .coils, .safety, .measures, .billed, .heartwood, .loads, .display, .memory, .cells, .recorder, .flash]) w₀ = true := by decide) :
    Kept w₀ s₀ (positivePlateau b mv s) := by
  refine h₀.trans (v := parts [.free, .events, .ports, .modems, .association, .sessions, .powerLinks, .sessionDev, .coils, .safety, .measures, .billed, .heartwood, .loads, .display, .memory, .cells, .recorder, .flash]) ?_ hw₀
  clear h₀ hw₀
  unfold positivePlateau
  try dsimp only
  repeat' first
    | with_reducible first | exact Kept.refl _ _ | assumption
    | with_reducible first | refine runBad_changes ?_ _ _ _ | refine runPlateau_changes ?_ _ _
    | with_reducible first | refine sidePlateau_changes ?_ _ _ | refine onPort_changes ?_ _ _
    | with_reducible refine Kept.ite (fun _ => ?_) (fun _ => ?_)
    | simp only [↓kept_mk]; refine KeptMk.set rfl ?_ ?_
    | apply Upd.of <;> intro hp <;>
        first | exact absurd hp (by decide) | with_reducible rfl | dsimp only
    | split
    | dsimp only [id]

theorem negativePlateau_changes {w₀ : Nat} {s₀ s : State} (h₀ : Kept w₀ s₀ s)  (b : Bough) (mv : Int)
    (hw₀ : within (parts [.free, .events, .ports, .modems, .association, .sessions, .powerLinks, .coils, .safety, .billed, .heartwood, .loads, .display, .memory, .cells, .recorder, .flash]) w₀ = true := by decide) :
    Kept w₀ s₀ (negativePlateau b mv s) := by
  refine h₀.trans (v := parts [.free, .events, .ports, .modems, .association, .sessions, .powerLinks, .coils, .safety, .billed, .heartwood, .loads, .display, .memory, .cells, .recorder, .flash]) ?_ hw₀
  clear h₀ hw₀
  unfold negativePlateau
  try dsimp only
  repeat' first
    | with_reducible first | exact Kept.refl _ _ | assumption
    | with_reducible first | refine pilotLeft_changes ?_ _ | refine runBad_changes ?_ _ _ _
    | with_reducible first | refine onPort_changes ?_ _ _
    | with_reducible refine Kept.ite (fun _ => ?_) (fun _ => ?_)
    | simp only [↓kept_mk]; refine KeptMk.set rfl ?_ ?_
    | apply Upd.of <;> intro hp <;>
        first | exact absurd hp (by decide) | with_reducible rfl | dsimp only
    | split
    | dsimp only [id]

theorem takeRating_changes {w₀ : Nat} {s₀ s : State} (h₀ : Kept w₀ s₀ s)  (b : Bough) (old : Nat)
    (hw₀ : within (parts [.events, .ports, .modems, .association, .safety, .recorder]) w₀ = true := by decide) :
    Kept w₀ s₀ (takeRating b old s) := by
  refine h₀.trans (v := parts [.events, .ports, .modems, .association, .safety, .recorder]) ?_ hw₀
  clear h₀ hw₀
  unfold takeRating
  try dsimp only
  repeat' first
    | with_reducible first | exact Kept.refl _ _ | assumption
    | with_reducible first | refine driveOutput_changes ?_ _ | refine emit_changes ?_ _ _ _
    | with_reducible first | refine onPort_changes ?_ _ _
    | with_reducible refine Kept.ite (fun _ => ?_) (fun _ => ?_)
    | simp only [↓kept_mk]; refine KeptMk.set rfl ?_ ?_
    | apply Upd.of <;> intro hp <;>
        first | exact absurd hp (by decide) | with_reducible rfl | dsimp only
    | split
    | dsimp only [id]

theorem confirmPp_changes {w₀ : Nat} {s₀ s : State} (h₀ : Kept w₀ s₀ s)  (b : Bough) (code : Nat)
    (hw₀ : within (parts [.events, .ports, .modems, .association, .safety, .recorder]) w₀ = true := by decide) :
    Kept w₀ s₀ (confirmPp b code s) := by
  refine h₀.trans (v := parts [.events, .ports, .modems, .association, .safety, .recorder]) ?_ hw₀
  clear h₀ hw₀
  unfold confirmPp
  try dsimp only
  repeat' first
    | with_reducible first | exact Kept.refl _ _ | assumption
    | with_reducible first | refine takeRating_changes ?_ _ _ | refine onPort_changes ?_ _ _
    | with_reducible refine Kept.ite (fun _ => ?_) (fun _ => ?_)
    | simp only [↓kept_mk]; refine KeptMk.set rfl ?_ ?_
    | apply Upd.of <;> intro hp <;>
        first | exact absurd hp (by decide) | with_reducible rfl | dsimp only
    | split
    | dsimp only [id]

theorem cableGone_changes {w₀ : Nat} {s₀ s : State} (h₀ : Kept w₀ s₀ s)  (b : Bough)
    (hw₀ : within (parts [.free, .events, .ports, .modems, .association, .sessions, .powerLinks, .safety, .billed, .heartwood, .loads, .display, .memory, .cells, .recorder, .flash]) w₀ = true := by decide) :
    Kept w₀ s₀ (cableGone b s) := by
  refine h₀.trans (v := parts [.free, .events, .ports, .modems, .association, .sessions, .powerLinks, .safety, .billed, .heartwood, .loads, .display, .memory, .cells, .recorder, .flash]) ?_ hw₀
  clear h₀ hw₀
  unfold cableGone
  try dsimp only
  repeat' first
    | with_reducible first | exact Kept.refl _ _ | assumption
    | with_reducible first | refine stopTransfer_changes ?_ _ _
    | with_reducible refine Kept.ite (fun _ => ?_) (fun _ => ?_)
    | split
    | dsimp only [id]

theorem onReq_changes {w₀ : Nat} {s₀ s : State} (h₀ : Kept w₀ s₀ s)  (mac runId : List Byte) (f : SlacReq → SlacReq)
    (hw₀ : within (parts [.association]) w₀ = true := by decide) :
    Kept w₀ s₀ (onReq mac runId f s) := by
  refine h₀.trans (v := parts [.association]) ?_ hw₀
  clear h₀ hw₀
  unfold onReq
  try dsimp only
  repeat' first
    | with_reducible first | exact Kept.refl _ _ | assumption
    | with_reducible refine Kept.ite (fun _ => ?_) (fun _ => ?_)
    | simp only [↓kept_mk]; refine KeptMk.set rfl ?_ ?_
    | apply Upd.of <;> intro hp <;>
        first | exact absurd hp (by decide) | with_reducible rfl | dsimp only
    | split
    | dsimp only [id]

theorem reply_changes {w₀ : Nat} {s₀ s : State} (h₀ : Kept w₀ s₀ s)  (b : Bough) (r : Reply)
    (hw₀ : within (parts [.modems]) w₀ = true := by decide) :
    Kept w₀ s₀ (reply b r s) := by
  refine h₀.trans (v := parts [.modems]) ?_ hw₀
  clear h₀ hw₀
  unfold reply
  try dsimp only
  repeat' first
    | with_reducible first | exact Kept.refl _ _ | assumption
    | with_reducible first | refine onLink_changes ?_ _ _
    | with_reducible refine Kept.ite (fun _ => ?_) (fun _ => ?_)
    | simp only [↓kept_mk]; refine KeptMk.set rfl ?_ ?_
    | apply Upd.of <;> intro hp <;>
        first | exact absurd hp (by decide) | with_reducible rfl | dsimp only
    | split
    | dsimp only [id]

theorem sendParmCnf_changes {w₀ : Nat} {s₀ s : State} (h₀ : Kept w₀ s₀ s)  (b : Bough)
    (hw₀ : within (parts [.modems]) w₀ = true := by decide) :
    Kept w₀ s₀ (sendParmCnf b s) := by
  refine h₀.trans (v := parts [.modems]) ?_ hw₀
  clear h₀ hw₀
  unfold sendParmCnf
  try dsimp only
  repeat' first
    | with_reducible first | exact Kept.refl _ _ | assumption
    | with_reducible first | refine reply_changes ?_ _ _
    | with_reducible refine Kept.ite (fun _ => ?_) (fun _ => ?_)
    | split
    | dsimp only [id]

theorem withheld_changes {w₀ : Nat} {s₀ s : State} (h₀ : Kept w₀ s₀ s)  (bough : Nat) (mac : List Byte) (reason : Nat)
    (hw₀ : within (parts [.events, .recorder]) w₀ = true := by decide) :
    Kept w₀ s₀ (withheld bough mac reason s) := by
  refine h₀.trans (v := parts [.events, .recorder]) ?_ hw₀
  clear h₀ hw₀
  unfold withheld
  try dsimp only
  repeat' first
    | with_reducible first | exact Kept.refl _ _ | assumption
    | with_reducible first | refine emit_changes ?_ _ _ _
    | with_reducible refine Kept.ite (fun _ => ?_) (fun _ => ?_)
    | split
    | dsimp only [id]

theorem stagger_changes {w₀ : Nat} {s₀ s : State} (h₀ : Kept w₀ s₀ s)  (bs : List Bough)
    (hw₀ : within (parts [.events, .ports, .modems, .association, .safety, .recorder]) w₀ = true := by decide) :
    Kept w₀ s₀ (stagger bs s) := by
  refine h₀.trans (v := parts [.events, .ports, .modems, .association, .safety, .recorder]) ?_ hw₀
  clear h₀ hw₀
  unfold stagger
  try dsimp only
  repeat' first
    | with_reducible first | exact Kept.refl _ _ | assumption
    | with_reducible first | refine driveOutput_changes ?_ _ | refine emit_changes ?_ _ _ _
    | with_reducible first | refine onPort_changes ?_ _ _
    | with_reducible refine Kept.ite (fun _ => ?_) (fun _ => ?_)
    | simp only [↓kept_mk]; refine KeptMk.set rfl ?_ ?_
    | apply Upd.of <;> intro hp <;>
        first | exact absurd hp (by decide) | with_reducible rfl | dsimp only
    | split
    | dsimp only [id]

theorem assignReq_changes {w₀ : Nat} {s₀ s : State} (h₀ : Kept w₀ s₀ s)  (heard : List SlacReq) (p : SlacReq × Option Bough)
    (hw₀ : within (parts [.ports, .modems, .association]) w₀ = true := by decide) :
    Kept w₀ s₀ (assignReq heard p s) := by
  refine h₀.trans (v := parts [.ports, .modems, .association]) ?_ hw₀
  clear h₀ hw₀
  unfold assignReq
  try dsimp only
  repeat' first
    | with_reducible first | exact Kept.refl _ _ | assumption
    | with_reducible first | refine onReq_changes ?_ _ _ _ | refine sendParmCnf_changes ?_ _
    | with_reducible first | refine onPort_changes ?_ _ _
    | with_reducible refine Kept.ite (fun _ => ?_) (fun _ => ?_)
    | simp only [↓kept_mk]; refine KeptMk.set rfl ?_ ?_
    | apply Upd.of <;> intro hp <;>
        first | exact absurd hp (by decide) | with_reducible rfl | dsimp only
    | split
    | dsimp only [id]

theorem withholdReq_changes {w₀ : Nat} {s₀ s : State} (h₀ : Kept w₀ s₀ s)  (heard : List SlacReq) (pairs : List (SlacReq × Option Bough)) (p : SlacReq × Option Bough)
    (hw₀ : within (parts [.events, .ports, .modems, .association, .safety, .recorder]) w₀ = true := by decide) :
    Kept w₀ s₀ (withholdReq heard pairs p s) := by
  refine h₀.trans (v := parts [.events, .ports, .modems, .association, .safety, .recorder]) ?_ hw₀
  clear h₀ hw₀
  unfold withholdReq
  try dsimp only
  repeat' first
    | with_reducible first | exact Kept.refl _ _ | assumption
    | with_reducible first | refine stagger_changes ?_ _ | refine withheld_changes ?_ _ _ _
    | with_reducible refine Kept.ite (fun _ => ?_) (fun _ => ?_)
    | simp only [↓kept_mk]; refine KeptMk.set rfl ?_ ?_
    | apply Upd.of <;> intro hp <;>
        first | exact absurd hp (by decide) | with_reducible rfl | dsimp only
    | split
    | dsimp only [id]

theorem releaseReq_changes {w₀ : Nat} {s₀ s : State} (h₀ : Kept w₀ s₀ s)  (mac runId : List Byte) (b : Bough) (reason : Nat)
    (hw₀ : within (parts [.events, .ports, .association, .recorder]) w₀ = true := by decide) :
    Kept w₀ s₀ (releaseReq mac runId b reason s) := by
  refine h₀.trans (v := parts [.events, .ports, .association, .recorder]) ?_ hw₀
  clear h₀ hw₀
  unfold releaseReq
  try dsimp only
  repeat' first
    | with_reducible first | exact Kept.refl _ _ | assumption
    | with_reducible first | refine onReq_changes ?_ _ _ _ | refine withheld_changes ?_ _ _ _
    | with_reducible first | refine onPort_changes ?_ _ _
    | with_reducible refine Kept.ite (fun _ => ?_) (fun _ => ?_)
    | simp only [↓kept_mk]; refine KeptMk.set rfl ?_ ?_
    | apply Upd.of <;> intro hp <;>
        first | exact absurd hp (by decide) | with_reducible rfl | dsimp only
    | split
    | dsimp only [id]

theorem associate_changes {w₀ : Nat} {s₀ s : State} (h₀ : Kept w₀ s₀ s)  (b : Bough) (r : SlacReq)
    (hw₀ : within (parts [.free, .events, .ports, .modems, .association, .safety, .recorder]) w₀ = true := by decide) :
    Kept w₀ s₀ (associate b r s) := by
  refine h₀.trans (v := parts [.free, .events, .ports, .modems, .association, .safety, .recorder]) ?_ hw₀
  clear h₀ hw₀
  unfold associate
  try dsimp only
  repeat' first
    | with_reducible first | exact Kept.refl _ _ | assumption
    | with_reducible first | refine closeWindow_changes ?_ _ | refine emit_changes ?_ _ _ _
    | with_reducible first | refine reply_changes ?_ _ _ | refine onLink_changes ?_ _ _ | refine onPort_changes ?_ _ _
    | with_reducible refine Kept.ite (fun _ => ?_) (fun _ => ?_)
    | simp only [↓kept_mk]; refine KeptMk.set rfl ?_ ?_
    | apply Upd.of <;> intro hp <;>
        first | exact absurd hp (by decide) | with_reducible rfl | dsimp only
    | (with_reducible refine Kept.ofPair (by assumption) ?_)
    | split
    | dsimp only [id]

theorem noteBurst_changes {w₀ : Nat} {s₀ s : State} (h₀ : Kept w₀ s₀ s)  (b : Bough)
    (hw₀ : within (parts [.events, .modems, .recorder]) w₀ = true := by decide) :
    Kept w₀ s₀ (noteBurst b s) := by
  refine h₀.trans (v := parts [.events, .modems, .recorder]) ?_ hw₀
  clear h₀ hw₀
  unfold noteBurst
  try dsimp only
  repeat' first
    | with_reducible first | exact Kept.refl _ _ | assumption
    | with_reducible first | refine emit_changes ?_ _ _ _ | refine onLink_changes ?_ _ _
    | with_reducible refine Kept.ite (fun _ => ?_) (fun _ => ?_)
    | simp only [↓kept_mk]; refine KeptMk.set rfl ?_ ?_
    | apply Upd.of <;> intro hp <;>
        first | exact absurd hp (by decide) | with_reducible rfl | dsimp only
    | split
    | dsimp only [id]

theorem noteVrx_changes {w₀ : Nat} {s₀ s : State} (h₀ : Kept w₀ s₀ s)  (b : Bough)
    (hw₀ : within (parts [.trunk]) w₀ = true := by decide) :
    Kept w₀ s₀ (noteVrx b s) := by
  refine h₀.trans (v := parts [.trunk]) ?_ hw₀
  clear h₀ hw₀
  unfold noteVrx
  try dsimp only
  repeat' first
    | with_reducible first | exact Kept.refl _ _ | assumption
    | with_reducible refine Kept.ite (fun _ => ?_) (fun _ => ?_)
    | simp only [↓kept_mk]; refine KeptMk.set rfl ?_ ?_
    | apply Upd.of <;> intro hp <;>
        first | exact absurd hp (by decide) | with_reducible rfl | dsimp only
    | split
    | dsimp only [id]

theorem takeSymbol_changes {w₀ : Nat} {s₀ s : State} (h₀ : Kept w₀ s₀ s)  (b : Bough) (xs : List Int)
    (hw₀ : within (parts [.modems]) w₀ = true := by decide) :
    Kept w₀ s₀ (takeSymbol b xs s) := by
  refine h₀.trans (v := parts [.modems]) ?_ hw₀
  clear h₀ hw₀
  unfold takeSymbol
  try dsimp only
  repeat' first
    | with_reducible first | exact Kept.refl _ _ | assumption
    | with_reducible first | refine onLink_changes ?_ _ _
    | with_reducible refine Kept.ite (fun _ => ?_) (fun _ => ?_)
    | simp only [↓kept_mk]; refine KeptMk.set rfl ?_ ?_
    | apply Upd.of <;> intro hp <;>
        first | exact absurd hp (by decide) | with_reducible rfl | dsimp only
    | split
    | dsimp only [id]

theorem abandonBlock_changes {w₀ : Nat} {s₀ s : State} (h₀ : Kept w₀ s₀ s)  (b : Bough) (n : Nat)
    (hw₀ : within (parts [.events, .recorder]) w₀ = true := by decide) :
    Kept w₀ s₀ (abandonBlock b n s) := by
  refine h₀.trans (v := parts [.events, .recorder]) ?_ hw₀
  clear h₀ hw₀
  unfold abandonBlock
  try dsimp only
  repeat' first
    | with_reducible first | exact Kept.refl _ _ | assumption
    | with_reducible first | refine emit_changes ?_ _ _ _
    | with_reducible refine Kept.ite (fun _ => ?_) (fun _ => ?_)
    | split
    | dsimp only [id]

theorem startFrame_changes {w₀ : Nat} {s₀ s : State} (h₀ : Kept w₀ s₀ s)  (b : Bough) (symbols built : Nat) (blocks : List TxBlock)
    (hw₀ : within (parts [.modems]) w₀ = true := by decide) :
    Kept w₀ s₀ (startFrame b symbols built blocks s) := by
  refine h₀.trans (v := parts [.modems]) ?_ hw₀
  clear h₀ hw₀
  unfold startFrame
  try dsimp only
  repeat' first
    | with_reducible first | exact Kept.refl _ _ | assumption
    | with_reducible first | refine onLink_changes ?_ _ _
    | with_reducible refine Kept.ite (fun _ => ?_) (fun _ => ?_)
    | simp only [↓kept_mk]; refine KeptMk.set rfl ?_ ?_
    | apply Upd.of <;> intro hp <;>
        first | exact absurd hp (by decide) | with_reducible rfl | dsimp only
    | split
    | dsimp only [id]

theorem respond_changes {w₀ : Nat} {s₀ s : State} (h₀ : Kept w₀ s₀ s)  (b : Bough) (r : Reply)
    (hw₀ : within (parts [.modems, .powerLinks]) w₀ = true := by decide) :
    Kept w₀ s₀ (respond b r s) := by
  refine h₀.trans (v := parts [.modems, .powerLinks]) ?_ hw₀
  clear h₀ hw₀
  unfold respond
  try dsimp only
  repeat' first
    | with_reducible first | exact Kept.refl _ _ | assumption
    | with_reducible first | refine reply_changes ?_ _ _ | refine onSesL_changes ?_ _ _
    | with_reducible refine Kept.ite (fun _ => ?_) (fun _ => ?_)
    | simp only [↓kept_mk]; refine KeptMk.set rfl ?_ ?_
    | apply Upd.of <;> intro hp <;>
        first | exact absurd hp (by decide) | with_reducible rfl | dsimp only
    | split
    | dsimp only [id]

theorem setTargets_changes {w₀ : Nat} {s₀ s : State} (h₀ : Kept w₀ s₀ s)  (b : Bough) (mv ma : Int)
    (hw₀ : within (parts [.events, .ports, .modems, .association, .sessions, .powerLinks, .safety, .recorder]) w₀ = true := by decide) :
    Kept w₀ s₀ (setTargets b mv ma s) := by
  refine h₀.trans (v := parts [.events, .ports, .modems, .association, .sessions, .powerLinks, .safety, .recorder]) ?_ hw₀
  clear h₀ hw₀
  unfold setTargets
  try dsimp only
  repeat' first
    | with_reducible first | exact Kept.refl _ _ | assumption
    | with_reducible first | refine onSesL_changes ?_ _ _ | refine withRequest_changes ?_ _ _ (fun u hu => ?_)
    | with_reducible refine Kept.ite (fun _ => ?_) (fun _ => ?_)
    | simp only [↓kept_mk]; refine KeptMk.set rfl ?_ ?_
    | apply Upd.of <;> intro hp <;>
        first | exact absurd hp (by decide) | with_reducible rfl | dsimp only
    | split
    | dsimp only [id]

theorem chooseService_changes {w₀ : Nat} {s₀ s : State} (h₀ : Kept w₀ s₀ s)  (b : Bough) (svc mobility : Nat)
    (hw₀ : within (parts [.events, .ports, .modems, .association, .sessions, .powerLinks, .safety, .recorder]) w₀ = true := by decide) :
    Kept w₀ s₀ (chooseService b svc mobility s) := by
  refine h₀.trans (v := parts [.events, .ports, .modems, .association, .sessions, .powerLinks, .safety, .recorder]) ?_ hw₀
  clear h₀ hw₀
  unfold chooseService
  try dsimp only
  repeat' first
    | with_reducible first | exact Kept.refl _ _ | assumption
    | with_reducible first | refine respond_changes ?_ _ _ | refine onLink_changes ?_ _ _
    | with_reducible first | refine withRequest_changes ?_ _ _ (fun u hu => ?_)
    | with_reducible refine Kept.ite (fun _ => ?_) (fun _ => ?_)
    | simp only [↓kept_mk]; refine KeptMk.set rfl ?_ ?_
    | apply Upd.of <;> intro hp <;>
        first | exact absurd hp (by decide) | with_reducible rfl | dsimp only
    | split
    | dsimp only [id]

theorem relayCertificate_changes {w₀ : Nat} {s₀ s : State} (h₀ : Kept w₀ s₀ s)  (b : Bough)
    (hw₀ : within (parts [.modems, .powerLinks]) w₀ = true := by decide) :
    Kept w₀ s₀ (relayCertificate b s) := by
  refine h₀.trans (v := parts [.modems, .powerLinks]) ?_ hw₀
  clear h₀ hw₀
  unfold relayCertificate
  try dsimp only
  repeat' first
    | with_reducible first | exact Kept.refl _ _ | assumption
    | with_reducible first | refine respond_changes ?_ _ _
    | with_reducible refine Kept.ite (fun _ => ?_) (fun _ => ?_)
    | split
    | dsimp only [id]

theorem serveV2g_changes {w₀ : Nat} {s₀ s : State} (h₀ : Kept w₀ s₀ s)  (b : Bough) (r : V2G)
    (hw₀ : within (parts [.free, .events, .ports, .modems, .association, .sessions, .powerLinks, .sessionDev, .safety, .loads, .display, .memory, .cells, .recorder]) w₀ = true := by decide) :
    Kept w₀ s₀ (serveV2g b r s) := by
  refine h₀.trans (v := parts [.free, .events, .ports, .modems, .association, .sessions, .powerLinks, .sessionDev, .safety, .loads, .display, .memory, .cells, .recorder]) ?_ hw₀
  clear h₀ hw₀
  unfold serveV2g
  try dsimp only
  repeat' first
    | with_reducible first | exact Kept.refl _ _ | assumption
    | with_reducible first | refine chooseService_changes ?_ _ _ _ | refine offerIdent_changes ?_ _ _
    | with_reducible first | refine relayCertificate_changes ?_ _ | refine respond_changes ?_ _ _
    | with_reducible first | refine setTargets_changes ?_ _ _ _ | refine tryHeld_changes ?_ _ _
    | with_reducible first | refine onLink_changes ?_ _ _ | refine onSesL_changes ?_ _ _
    | with_reducible first | refine withRequest_changes ?_ _ _ (fun u hu => ?_)
    | with_reducible refine Kept.ite (fun _ => ?_) (fun _ => ?_)
    | simp only [↓kept_mk]; refine KeptMk.set rfl ?_ ?_
    | apply Upd.of <;> intro hp <;>
        first | exact absurd hp (by decide) | with_reducible rfl | dsimp only
    | split
    | dsimp only [id]

end Sys2Proof.Safety
end

