-- ==== Sys2Proof/Laws/Frames/EnergyCore.lean ====
section
/-! SUPPORT. What each shared operation of Machine/EnergyCore.lean may change. -/

set_option Elab.async false
set_option linter.unreachableTactic false
set_option linter.unusedTactic false
set_option linter.unusedSimpArgs false

namespace Sys2Proof.Safety

open Sys2Proof.Machine

theorem closeGap_changes {w₀ : Nat} {s₀ s : State} (h₀ : Kept w₀ s₀ s)  (b : Bough) (x : Fin 3)
    (hw₀ : within (parts [.events, .energy, .recorder]) w₀ = true := by decide) :
    Kept w₀ s₀ (closeGap b x s) := by
  refine h₀.trans (v := parts [.events, .energy, .recorder]) ?_ hw₀
  clear h₀ hw₀
  unfold closeGap
  try dsimp only
  repeat' first
    | with_reducible first | exact Kept.refl _ _ | assumption
    | with_reducible first | refine emit_changes ?_ _ _ _ | refine onNrg_changes ?_ _ _
    | with_reducible refine Kept.ite (fun _ => ?_) (fun _ => ?_)
    | simp only [↓kept_mk]; refine KeptMk.set rfl ?_ ?_
    | apply Upd.of <;> intro hp <;>
        first | exact absurd hp (by decide) | with_reducible rfl | dsimp only
    | split
    | dsimp only [id]

theorem addPhase_changes {w₀ : Nat} {s₀ s : State} (h₀ : Kept w₀ s₀ s)  (b : Bough) (x : Fin 3) (p q ap : Int)
    (hw₀ : within (parts [.energy, .averages]) w₀ = true := by decide) :
    Kept w₀ s₀ (addPhase b x p q ap s) := by
  refine h₀.trans (v := parts [.energy, .averages]) ?_ hw₀
  clear h₀ hw₀
  unfold addPhase
  try dsimp only
  repeat' first
    | with_reducible first | exact Kept.refl _ _ | assumption
    | with_reducible first | refine onAvg_changes ?_ _ _ | refine onNrg_changes ?_ _ _
    | with_reducible refine Kept.ite (fun _ => ?_) (fun _ => ?_)
    | simp only [↓kept_mk]; refine KeptMk.set rfl ?_ ?_
    | apply Upd.of <;> intro hp <;>
        first | exact absurd hp (by decide) | with_reducible rfl | dsimp only
    | split
    | dsimp only [id]

theorem addSquares_changes {w₀ : Nat} {s₀ s : State} (h₀ : Kept w₀ s₀ s)  (b : Bough) (x : Fin 3) (ws : List MWord)
    (hw₀ : within (parts [.averages]) w₀ = true := by decide) :
    Kept w₀ s₀ (addSquares b x ws s) := by
  refine h₀.trans (v := parts [.averages]) ?_ hw₀
  clear h₀ hw₀
  unfold addSquares
  try dsimp only
  repeat' first
    | with_reducible first | exact Kept.refl _ _ | assumption
    | with_reducible first | refine onAvg_changes ?_ _ _
    | with_reducible refine Kept.ite (fun _ => ?_) (fun _ => ?_)
    | simp only [↓kept_mk]; refine KeptMk.set rfl ?_ ?_
    | apply Upd.of <;> intro hp <;>
        first | exact absurd hp (by decide) | with_reducible rfl | dsimp only
    | split
    | dsimp only [id]

theorem goodPhase_changes {w₀ : Nat} {s₀ s : State} (h₀ : Kept w₀ s₀ s)  (b : Bough) (ws : List MWord) (x : Fin 3)
    (hw₀ : within (parts [.events, .energy, .averages, .recorder]) w₀ = true := by decide) :
    Kept w₀ s₀ (goodPhase b ws x s) := by
  refine h₀.trans (v := parts [.events, .energy, .averages, .recorder]) ?_ hw₀
  clear h₀ hw₀
  unfold goodPhase
  try dsimp only
  repeat' first
    | with_reducible first | exact Kept.refl _ _ | assumption
    | with_reducible first | refine addPhase_changes ?_ _ _ _ _ _ | refine addSquares_changes ?_ _ _ _
    | with_reducible first | refine closeGap_changes ?_ _ _ | refine onAvg_changes ?_ _ _
    | with_reducible first | refine onNrg_changes ?_ _ _
    | with_reducible refine Kept.ite (fun _ => ?_) (fun _ => ?_)
    | simp only [↓kept_mk]; refine KeptMk.set rfl ?_ ?_
    | apply Upd.of <;> intro hp <;>
        first | exact absurd hp (by decide) | with_reducible rfl | dsimp only
    | split
    | dsimp only [id]

theorem substPhase_changes {w₀ : Nat} {s₀ s : State} (h₀ : Kept w₀ s₀ s)  (b : Bough) (x : Fin 3)
    (hw₀ : within (parts [.energy, .averages]) w₀ = true := by decide) :
    Kept w₀ s₀ (substPhase b x s) := by
  refine h₀.trans (v := parts [.energy, .averages]) ?_ hw₀
  clear h₀ hw₀
  unfold substPhase
  try dsimp only
  repeat' first
    | with_reducible first | exact Kept.refl _ _ | assumption
    | with_reducible first | refine addPhase_changes ?_ _ _ _ _ _ | refine onAvg_changes ?_ _ _
    | with_reducible first | refine onNrg_changes ?_ _ _
    | with_reducible refine Kept.ite (fun _ => ?_) (fun _ => ?_)
    | simp only [↓kept_mk]; refine KeptMk.set rfl ?_ ?_
    | apply Upd.of <;> intro hp <;>
        first | exact absurd hp (by decide) | with_reducible rfl | dsimp only
    | split
    | dsimp only [id]

theorem takePhase_changes {w₀ : Nat} {s₀ s : State} (h₀ : Kept w₀ s₀ s)  (b : Bough) (ws : List MWord) (x : Fin 3)
    (hw₀ : within (parts [.events, .energy, .averages, .recorder]) w₀ = true := by decide) :
    Kept w₀ s₀ (takePhase b ws x s) := by
  refine h₀.trans (v := parts [.events, .energy, .averages, .recorder]) ?_ hw₀
  clear h₀ hw₀
  unfold takePhase
  try dsimp only
  repeat' first
    | with_reducible first | exact Kept.refl _ _ | assumption
    | with_reducible first | refine goodPhase_changes ?_ _ _ _ | refine substPhase_changes ?_ _ _
    | with_reducible refine Kept.ite (fun _ => ?_) (fun _ => ?_)
    | split
    | dsimp only [id]

theorem takeRest_changes {w₀ : Nat} {s₀ s : State} (h₀ : Kept w₀ s₀ s)  (b : Bough) (ws : List MWord)
    (hw₀ : within (parts [.averages]) w₀ = true := by decide) :
    Kept w₀ s₀ (takeRest b ws s) := by
  refine h₀.trans (v := parts [.averages]) ?_ hw₀
  clear h₀ hw₀
  unfold takeRest
  try dsimp only
  repeat' first
    | with_reducible first | exact Kept.refl _ _ | assumption
    | with_reducible first | refine onAvg_changes ?_ _ _
    | with_reducible refine Kept.ite (fun _ => ?_) (fun _ => ?_)
    | simp only [↓kept_mk]; refine KeptMk.set rfl ?_ ?_
    | apply Upd.of <;> intro hp <;>
        first | exact absurd hp (by decide) | with_reducible rfl | dsimp only
    | split
    | dsimp only [id]

theorem engineSample_changes {w₀ : Nat} {s₀ s : State} (h₀ : Kept w₀ s₀ s)  (b : Bough) (ws : List MWord)
    (hw₀ : within (parts [.events, .energy, .averages, .recorder]) w₀ = true := by decide) :
    Kept w₀ s₀ (engineSample b ws s) := by
  refine h₀.trans (v := parts [.events, .energy, .averages, .recorder]) ?_ hw₀
  clear h₀ hw₀
  unfold engineSample
  try dsimp only
  repeat' first
    | with_reducible first | exact Kept.refl _ _ | assumption
    | with_reducible first | refine takePhase_changes ?_ _ _ _ | refine takeRest_changes ?_ _ _
    | with_reducible first | refine onNrg_changes ?_ _ _ | refine Kept.foldl _ _ ?_ fun u x hu => ?_
    | with_reducible refine Kept.ite (fun _ => ?_) (fun _ => ?_)
    | simp only [↓kept_mk]; refine KeptMk.set rfl ?_ ?_
    | apply Upd.of <;> intro hp <;>
        first | exact absurd hp (by decide) | with_reducible rfl | dsimp only
    | split
    | dsimp only [id]

theorem missingSamples_changes {w : Nat} {s₀ s : State} (h : Kept w s₀ s) (b : Bough) (n : Nat)
    (hw : within (parts [.events, .energy, .averages, .recorder]) w = true := by decide) : Kept w s₀ (missingSamples b n s) := by
  induction n generalizing s with
  | zero => exact h
  | succ n ih => exact ih (engineSample_changes h _ _ (by exact hw))

theorem sendResult_changes {w₀ : Nat} {s₀ s : State} (h₀ : Kept w₀ s₀ s)  (b : Bough) (seq : Nat)
    (hw₀ : within (parts [.energy, .billed, .loads]) w₀ = true := by decide) :
    Kept w₀ s₀ (sendResult b seq s) := by
  refine h₀.trans (v := parts [.energy, .billed, .loads]) ?_ hw₀
  clear h₀ hw₀
  unfold sendResult
  try dsimp only
  repeat' first
    | with_reducible first | exact Kept.refl _ _ | assumption
    | with_reducible first | refine onBil_changes ?_ _ _ | refine onNrg_changes ?_ _ _
    | with_reducible refine Kept.ite (fun _ => ?_) (fun _ => ?_)
    | simp only [↓kept_mk]; refine KeptMk.set rfl ?_ ?_
    | apply Upd.of <;> intro hp <;>
        first | exact absurd hp (by decide) | with_reducible rfl | dsimp only
    | split
    | dsimp only [id]

theorem engineFrame_changes {w₀ : Nat} {s₀ s : State} (h₀ : Kept w₀ s₀ s)  (b : Bough) (seq : Nat) (ws : List MWord)
    (hw₀ : within (parts [.events, .energy, .averages, .billed, .loads, .recorder]) w₀ = true := by decide) :
    Kept w₀ s₀ (engineFrame b seq ws s) := by
  refine h₀.trans (v := parts [.events, .energy, .averages, .billed, .loads, .recorder]) ?_ hw₀
  clear h₀ hw₀
  unfold engineFrame
  try dsimp only
  repeat' first
    | with_reducible first | exact Kept.refl _ _ | assumption
    | with_reducible first | refine engineSample_changes ?_ _ _ | refine missingSamples_changes ?_ _ _
    | with_reducible first | refine sendResult_changes ?_ _ _ | refine onNrg_changes ?_ _ _
    | with_reducible refine Kept.ite (fun _ => ?_) (fun _ => ?_)
    | simp only [↓kept_mk]; refine KeptMk.set rfl ?_ ?_
    | apply Upd.of <;> intro hp <;>
        first | exact absurd hp (by decide) | with_reducible rfl | dsimp only
    | split
    | dsimp only [id]

theorem countReg_changes {w₀ : Nat} {s₀ s : State} (h₀ : Kept w₀ s₀ s)  (b : Bough) (r : Fin 6) (units : Nat)
    (hw₀ : within (parts [.events, .energy, .recorder]) w₀ = true := by decide) :
    Kept w₀ s₀ (countReg b r units s) := by
  refine h₀.trans (v := parts [.events, .energy, .recorder]) ?_ hw₀
  clear h₀ hw₀
  unfold countReg
  try dsimp only
  repeat' first
    | with_reducible first | exact Kept.refl _ _ | assumption
    | with_reducible first | refine emit_changes ?_ _ _ _ | refine onNrg_changes ?_ _ _
    | with_reducible refine Kept.ite (fun _ => ?_) (fun _ => ?_)
    | simp only [↓kept_mk]; refine KeptMk.set rfl ?_ ?_
    | apply Upd.of <;> intro hp <;>
        first | exact absurd hp (by decide) | with_reducible rfl | dsimp only
    | split
    | dsimp only [id]

theorem countNet_changes {w₀ : Nat} {s₀ s : State} (h₀ : Kept w₀ s₀ s)  (b : Bough) (pos neg : Fin 6) (e : Int)
    (hw₀ : within (parts [.events, .energy, .recorder]) w₀ = true := by decide) :
    Kept w₀ s₀ (countNet b pos neg e s) := by
  refine h₀.trans (v := parts [.events, .energy, .recorder]) ?_ hw₀
  clear h₀ hw₀
  unfold countNet
  try dsimp only
  repeat' first
    | with_reducible first | exact Kept.refl _ _ | assumption
    | with_reducible first | refine countReg_changes ?_ _ _ _
    | with_reducible refine Kept.ite (fun _ => ?_) (fun _ => ?_)
    | split
    | dsimp only [id]

theorem noteDir_changes {w₀ : Nat} {s₀ s : State} (h₀ : Kept w₀ s₀ s)  (b : Bough) (exp : Bool)
    (hw₀ : within (parts [.events, .energy, .recorder]) w₀ = true := by decide) :
    Kept w₀ s₀ (noteDir b exp s) := by
  refine h₀.trans (v := parts [.events, .energy, .recorder]) ?_ hw₀
  clear h₀ hw₀
  unfold noteDir
  try dsimp only
  repeat' first
    | with_reducible first | exact Kept.refl _ _ | assumption
    | with_reducible first | refine emit_changes ?_ _ _ _ | refine onNrg_changes ?_ _ _
    | with_reducible refine Kept.ite (fun _ => ?_) (fun _ => ?_)
    | simp only [↓kept_mk]; refine KeptMk.set rfl ?_ ?_
    | apply Upd.of <;> intro hp <;>
        first | exact absurd hp (by decide) | with_reducible rfl | dsimp only
    | split
    | dsimp only [id]

theorem takeDir_changes {w₀ : Nat} {s₀ s : State} (h₀ : Kept w₀ s₀ s)  (b : Bough) (e : Int)
    (hw₀ : within (parts [.events, .energy, .recorder]) w₀ = true := by decide) :
    Kept w₀ s₀ (takeDir b e s) := by
  refine h₀.trans (v := parts [.events, .energy, .recorder]) ?_ hw₀
  clear h₀ hw₀
  unfold takeDir
  try dsimp only
  repeat' first
    | with_reducible first | exact Kept.refl _ _ | assumption
    | with_reducible first | refine noteDir_changes ?_ _ _
    | with_reducible refine Kept.ite (fun _ => ?_) (fun _ => ?_)
    | split
    | dsimp only [id]

theorem cycleMeans_changes {w₀ : Nat} {s₀ s : State} (h₀ : Kept w₀ s₀ s)  (b : Bough)
    (hw₀ : within (parts [.averages]) w₀ = true := by decide) :
    Kept w₀ s₀ (cycleMeans b s) := by
  refine h₀.trans (v := parts [.averages]) ?_ hw₀
  clear h₀ hw₀
  unfold cycleMeans
  try dsimp only
  repeat' first
    | with_reducible first | exact Kept.refl _ _ | assumption
    | with_reducible first | refine onAvg_changes ?_ _ _
    | with_reducible refine Kept.ite (fun _ => ?_) (fun _ => ?_)
    | simp only [↓kept_mk]; refine KeptMk.set rfl ?_ ?_
    | apply Upd.of <;> intro hp <;>
        first | exact absurd hp (by decide) | with_reducible rfl | dsimp only
    | split
    | dsimp only [id]

theorem foldCycle_changes {w₀ : Nat} {s₀ s : State} (h₀ : Kept w₀ s₀ s)  (b : Bough)
    (hw₀ : within (parts [.energy, .averages]) w₀ = true := by decide) :
    Kept w₀ s₀ (foldCycle b s) := by
  refine h₀.trans (v := parts [.energy, .averages]) ?_ hw₀
  clear h₀ hw₀
  unfold foldCycle
  try dsimp only
  repeat' first
    | with_reducible first | exact Kept.refl _ _ | assumption
    | with_reducible first | refine onAvg_changes ?_ _ _ | refine onNrg_changes ?_ _ _
    | with_reducible refine Kept.ite (fun _ => ?_) (fun _ => ?_)
    | simp only [↓kept_mk]; refine KeptMk.set rfl ?_ ?_
    | apply Upd.of <;> intro hp <;>
        first | exact absurd hp (by decide) | with_reducible rfl | dsimp only
    | split
    | dsimp only [id]

theorem selectRef_changes {w₀ : Nat} {s₀ s : State} (h₀ : Kept w₀ s₀ s)  (b : Bough)
    (hw₀ : within (parts [.energy]) w₀ = true := by decide) :
    Kept w₀ s₀ (selectRef b s) := by
  refine h₀.trans (v := parts [.energy]) ?_ hw₀
  clear h₀ hw₀
  unfold selectRef
  try dsimp only
  repeat' first
    | with_reducible first | exact Kept.refl _ _ | assumption
    | with_reducible first | refine onNrg_changes ?_ _ _
    | with_reducible refine Kept.ite (fun _ => ?_) (fun _ => ?_)
    | simp only [↓kept_mk]; refine KeptMk.set rfl ?_ ?_
    | apply Upd.of <;> intro hp <;>
        first | exact absurd hp (by decide) | with_reducible rfl | dsimp only
    | split
    | dsimp only [id]

theorem endCycle_changes {w₀ : Nat} {s₀ s : State} (h₀ : Kept w₀ s₀ s)  (b : Bough)
    (hw₀ : within (parts [.events, .energy, .averages, .recorder]) w₀ = true := by decide) :
    Kept w₀ s₀ (endCycle b s) := by
  refine h₀.trans (v := parts [.events, .energy, .averages, .recorder]) ?_ hw₀
  clear h₀ hw₀
  unfold endCycle
  try dsimp only
  repeat' first
    | with_reducible first | exact Kept.refl _ _ | assumption
    | with_reducible first | refine countNet_changes ?_ _ _ _ _ | refine countReg_changes ?_ _ _ _
    | with_reducible first | refine cycleMeans_changes ?_ _ | refine foldCycle_changes ?_ _
    | with_reducible first | refine selectRef_changes ?_ _ | refine takeDir_changes ?_ _ _
    | with_reducible first | refine onNrg_changes ?_ _ _
    | with_reducible refine Kept.ite (fun _ => ?_) (fun _ => ?_)
    | simp only [↓kept_mk]; refine KeptMk.set rfl ?_ ?_
    | apply Upd.of <;> intro hp <;>
        first | exact absurd hp (by decide) | with_reducible rfl | dsimp only
    | split
    | dsimp only [id]

theorem samplingBlockEnd_changes {w₀ : Nat} {s₀ s : State} (h₀ : Kept w₀ s₀ s)  (b : Bough)
    (hw₀ : within (parts [.sampling]) w₀ = true := by decide) :
    Kept w₀ s₀ (samplingBlockEnd b s) := by
  refine h₀.trans (v := parts [.sampling]) ?_ hw₀
  clear h₀ hw₀
  unfold samplingBlockEnd
  try dsimp only
  repeat' first
    | with_reducible first | exact Kept.refl _ _ | assumption
    | with_reducible first | refine onMtr_changes ?_ _ _
    | with_reducible refine Kept.ite (fun _ => ?_) (fun _ => ?_)
    | simp only [↓kept_mk]; refine KeptMk.set rfl ?_ ?_
    | apply Upd.of <;> intro hp <;>
        first | exact absurd hp (by decide) | with_reducible rfl | dsimp only
    | split
    | dsimp only [id]

theorem closeSecond_changes {w₀ : Nat} {s₀ s : State} (h₀ : Kept w₀ s₀ s)  (b : Bough)
    (hw₀ : within (parts [.averages, .quantities]) w₀ = true := by decide) :
    Kept w₀ s₀ (closeSecond b s) := by
  refine h₀.trans (v := parts [.averages, .quantities]) ?_ hw₀
  clear h₀ hw₀
  unfold closeSecond
  try dsimp only
  repeat' first
    | with_reducible first | exact Kept.refl _ _ | assumption
    | with_reducible first | refine onAvg_changes ?_ _ _ | refine onNst_changes ?_ _ _
    | with_reducible refine Kept.ite (fun _ => ?_) (fun _ => ?_)
    | simp only [↓kept_mk]; refine KeptMk.set rfl ?_ ?_
    | apply Upd.of <;> intro hp <;>
        first | exact absurd hp (by decide) | with_reducible rfl | dsimp only
    | split
    | dsimp only [id]

theorem closeBlock_changes {w₀ : Nat} {s₀ s : State} (h₀ : Kept w₀ s₀ s)  (b : Bough)
    (hw₀ : within (parts [.sampling, .energy, .averages, .quantities]) w₀ = true := by decide) :
    Kept w₀ s₀ (closeBlock b s) := by
  refine h₀.trans (v := parts [.sampling, .energy, .averages, .quantities]) ?_ hw₀
  clear h₀ hw₀
  unfold closeBlock
  try dsimp only
  repeat' first
    | with_reducible first | exact Kept.refl _ _ | assumption
    | with_reducible first | refine samplingBlockEnd_changes ?_ _ | refine onAvg_changes ?_ _ _
    | with_reducible first | refine onNrg_changes ?_ _ _ | refine onNst_changes ?_ _ _
    | with_reducible refine Kept.ite (fun _ => ?_) (fun _ => ?_)
    | simp only [↓kept_mk]; refine KeptMk.set rfl ?_ ?_
    | apply Upd.of <;> intro hp <;>
        first | exact absurd hp (by decide) | with_reducible rfl | dsimp only
    | split
    | dsimp only [id]

theorem endBlock_changes {w₀ : Nat} {s₀ s : State} (h₀ : Kept w₀ s₀ s)  (b : Bough)
    (hw₀ : within (parts [.sampling, .energy, .averages, .quantities]) w₀ = true := by decide) :
    Kept w₀ s₀ (endBlock b s) := by
  refine h₀.trans (v := parts [.sampling, .energy, .averages, .quantities]) ?_ hw₀
  clear h₀ hw₀
  unfold endBlock
  try dsimp only
  repeat' first
    | with_reducible first | exact Kept.refl _ _ | assumption
    | with_reducible first | refine closeBlock_changes ?_ _
    | with_reducible refine Kept.ite (fun _ => ?_) (fun _ => ?_)
    | split
    | dsimp only [id]

theorem gridLost_changes {w₀ : Nat} {s₀ s : State} (h₀ : Kept w₀ s₀ s)  (b : Bough) (reason : Nat)
    (hw₀ : within (parts [.events, .ports, .modems, .association, .sessions, .powerLinks, .safety, .sampling, .energy, .averages, .quantities, .recorder]) w₀ = true := by decide) :
    Kept w₀ s₀ (gridLost b reason s) := by
  refine h₀.trans (v := parts [.events, .ports, .modems, .association, .sessions, .powerLinks, .safety, .sampling, .energy, .averages, .quantities, .recorder]) ?_ hw₀
  clear h₀ hw₀
  unfold gridLost
  try dsimp only
  repeat' first
    | with_reducible first | exact Kept.refl _ _ | assumption
    | with_reducible first | refine emit_changes ?_ _ _ _ | refine endBlock_changes ?_ _ | refine onNrg_changes ?_ _ _
    | with_reducible first | refine withRequest_changes ?_ _ _ (fun u hu => ?_)
    | with_reducible refine Kept.ite (fun _ => ?_) (fun _ => ?_)
    | simp only [↓kept_mk]; refine KeptMk.set rfl ?_ ?_
    | apply Upd.of <;> intro hp <;>
        first | exact absurd hp (by decide) | with_reducible rfl | dsimp only
    | split
    | dsimp only [id]

theorem gridPresent_changes {w₀ : Nat} {s₀ s : State} (h₀ : Kept w₀ s₀ s)  (b : Bough) (period : Nat)
    (hw₀ : within (parts [.events, .ports, .modems, .association, .sessions, .powerLinks, .safety, .sampling, .energy, .averages, .quantities, .recorder]) w₀ = true := by decide) :
    Kept w₀ s₀ (gridPresent b period s) := by
  refine h₀.trans (v := parts [.events, .ports, .modems, .association, .sessions, .powerLinks, .safety, .sampling, .energy, .averages, .quantities, .recorder]) ?_ hw₀
  clear h₀ hw₀
  unfold gridPresent
  try dsimp only
  repeat' first
    | with_reducible first | exact Kept.refl _ _ | assumption
    | with_reducible first | refine emit_changes ?_ _ _ _ | refine endBlock_changes ?_ _
    | with_reducible first | refine endCycle_changes ?_ _ | refine onNrg_changes ?_ _ _
    | with_reducible first | refine withRequest_changes ?_ _ _ (fun u hu => ?_)
    | with_reducible refine Kept.ite (fun _ => ?_) (fun _ => ?_)
    | simp only [↓kept_mk]; refine KeptMk.set rfl ?_ ?_
    | apply Upd.of <;> intro hp <;>
        first | exact absurd hp (by decide) | with_reducible rfl | dsimp only
    | split
    | dsimp only [id]

theorem takeType_changes {w₀ : Nat} {s₀ s : State} (h₀ : Kept w₀ s₀ s)  (b : Bough)
    (hw₀ : within (parts [.events, .ports, .modems, .association, .sessions, .powerLinks, .safety, .sampling, .energy, .averages, .quantities, .recorder]) w₀ = true := by decide) :
    Kept w₀ s₀ (takeType b s) := by
  refine h₀.trans (v := parts [.events, .ports, .modems, .association, .sessions, .powerLinks, .safety, .sampling, .energy, .averages, .quantities, .recorder]) ?_ hw₀
  clear h₀ hw₀
  unfold takeType
  try dsimp only
  repeat' first
    | with_reducible first | exact Kept.refl _ _ | assumption
    | with_reducible first | refine endBlock_changes ?_ _ | refine gridLost_changes ?_ _ _
    | with_reducible first | refine onNrg_changes ?_ _ _
    | with_reducible refine Kept.ite (fun _ => ?_) (fun _ => ?_)
    | simp only [↓kept_mk]; refine KeptMk.set rfl ?_ ?_
    | apply Upd.of <;> intro hp <;>
        first | exact absurd hp (by decide) | with_reducible rfl | dsimp only
    | split
    | dsimp only [id]

theorem blockDone_changes {w₀ : Nat} {s₀ s : State} (h₀ : Kept w₀ s₀ s)  (b : Bough)
    (hw₀ : within (parts [.events, .ports, .modems, .association, .sessions, .powerLinks, .safety, .sampling, .energy, .averages, .quantities, .recorder]) w₀ = true := by decide) :
    Kept w₀ s₀ (blockDone b s) := by
  refine h₀.trans (v := parts [.events, .ports, .modems, .association, .sessions, .powerLinks, .safety, .sampling, .energy, .averages, .quantities, .recorder]) ?_ hw₀
  clear h₀ hw₀
  unfold blockDone
  try dsimp only
  repeat' first
    | with_reducible first | exact Kept.refl _ _ | assumption
    | with_reducible first | refine endBlock_changes ?_ _ | refine withRequest_changes ?_ _ _ (fun u hu => ?_)
    | with_reducible refine Kept.ite (fun _ => ?_) (fun _ => ?_)
    | split
    | dsimp only [id]

end Sys2Proof.Safety
end

