-- ==== Sys2Proof/Laws/Frames/Sampling.lean ====
section
/-! SUPPORT. What each shared operation of Machine/Sampling.lean may change. -/

set_option Elab.async false
set_option linter.unreachableTactic false
set_option linter.unusedTactic false
set_option linter.unusedSimpArgs false

namespace Sys2Proof.Safety

open Sys2Proof.Machine

theorem fillChains_changes {w₀ : Nat} {s₀ s : State} (h₀ : Kept w₀ s₀ s)  (b : Bough) (bs : BoughSamples)
    (hw₀ : within (parts [.sampling]) w₀ = true := by decide) :
    Kept w₀ s₀ (fillChains b bs s) := by
  refine h₀.trans (v := parts [.sampling]) ?_ hw₀
  clear h₀ hw₀
  unfold fillChains
  try dsimp only
  repeat' first
    | with_reducible first | exact Kept.refl _ _ | assumption
    | with_reducible first | refine onMtr_changes ?_ _ _
    | with_reducible refine Kept.ite (fun _ => ?_) (fun _ => ?_)
    | simp only [↓kept_mk]; refine KeptMk.set rfl ?_ ?_
    | apply Upd.of <;> intro hp <;>
        first | exact absurd hp (by decide) | with_reducible rfl | dsimp only
    | split
    | dsimp only [id]

theorem keepSamples_changes {w₀ : Nat} {s₀ s : State} (h₀ : Kept w₀ s₀ s)  (b : Bough) (bs : BoughSamples) (ws : List MWord)
    (hw₀ : within (parts [.sampling]) w₀ = true := by decide) :
    Kept w₀ s₀ (keepSamples b bs ws s) := by
  refine h₀.trans (v := parts [.sampling]) ?_ hw₀
  clear h₀ hw₀
  unfold keepSamples
  try dsimp only
  repeat' first
    | with_reducible first | exact Kept.refl _ _ | assumption
    | with_reducible first | refine onMtr_changes ?_ _ _
    | with_reducible refine Kept.ite (fun _ => ?_) (fun _ => ?_)
    | simp only [↓kept_mk]; refine KeptMk.set rfl ?_ ?_
    | apply Upd.of <;> intro hp <;>
        first | exact absurd hp (by decide) | with_reducible rfl | dsimp only
    | split
    | dsimp only [id]

theorem noteOverloads_changes {w₀ : Nat} {s₀ s : State} (h₀ : Kept w₀ s₀ s)  (b : Bough) (ws : List MWord)
    (hw₀ : within (parts [.events, .recorder]) w₀ = true := by decide) :
    Kept w₀ s₀ (noteOverloads b ws s) := by
  refine h₀.trans (v := parts [.events, .recorder]) ?_ hw₀
  clear h₀ hw₀
  unfold noteOverloads
  try dsimp only
  repeat' first
    | with_reducible first | exact Kept.refl _ _ | assumption
    | with_reducible first | refine emit_changes ?_ _ _ _ | refine Kept.foldl _ _ ?_ fun u x hu => ?_
    | with_reducible refine Kept.ite (fun _ => ?_) (fun _ => ?_)
    | split
    | dsimp only [id]

theorem portCopy_changes {w₀ : Nat} {s₀ s : State} (h₀ : Kept w₀ s₀ s)  (b : Bough) (f : List (BitVec 32))
    (hw₀ : within (parts [.ports]) w₀ = true := by decide) :
    Kept w₀ s₀ (portCopy b f s) := by
  refine h₀.trans (v := parts [.ports]) ?_ hw₀
  clear h₀ hw₀
  unfold portCopy
  try dsimp only
  repeat' first
    | with_reducible first | exact Kept.refl _ _ | assumption
    | with_reducible first | refine onPort_changes ?_ _ _
    | with_reducible refine Kept.ite (fun _ => ?_) (fun _ => ?_)
    | simp only [↓kept_mk]; refine KeptMk.set rfl ?_ ?_
    | apply Upd.of <;> intro hp <;>
        first | exact absurd hp (by decide) | with_reducible rfl | dsimp only
    | split
    | dsimp only [id]

theorem safetyCopy_changes {w₀ : Nat} {s₀ s : State} (h₀ : Kept w₀ s₀ s)  (b : Bough) (f : List (BitVec 32))
    (hw₀ : within (parts [.safety, .measures]) w₀ = true := by decide) :
    Kept w₀ s₀ (safetyCopy b f s) := by
  refine h₀.trans (v := parts [.safety, .measures]) ?_ hw₀
  clear h₀ hw₀
  unfold safetyCopy
  try dsimp only
  repeat' first
    | with_reducible first | exact Kept.refl _ _ | assumption
    | with_reducible first | refine onMeas_changes ?_ _ _ | refine onSaf_changes_view ?_ _ _ ?_
    | exact SameView.of fun x => by first | rfl | (dsimp only; split <;> rfl)
    | with_reducible refine Kept.ite (fun _ => ?_) (fun _ => ?_)
    | simp only [↓kept_mk]; refine KeptMk.set rfl ?_ ?_
    | apply Upd.of <;> intro hp <;>
        first | exact absurd hp (by decide) | with_reducible rfl | dsimp only
    | split
    | dsimp only [id]

theorem copyAt_changes {w₀ : Nat} {s₀ s : State} (h₀ : Kept w₀ s₀ s)  (b : Bough) (f : List (BitVec 32)) (i : Nat)
    (hw₀ : within (parts [.events, .ports, .safety, .measures, .energy, .averages, .billed, .loads, .recorder]) w₀ = true := by decide) :
    Kept w₀ s₀ (copyAt b f i s) := by
  refine h₀.trans (v := parts [.events, .ports, .safety, .measures, .energy, .averages, .billed, .loads, .recorder]) ?_ hw₀
  clear h₀ hw₀
  unfold copyAt
  try dsimp only
  repeat' first
    | with_reducible first | exact Kept.refl _ _ | assumption
    | with_reducible first | refine engineFrame_changes ?_ _ _ _ | refine portCopy_changes ?_ _ _
    | with_reducible first | refine safetyCopy_changes ?_ _ _
    | with_reducible refine Kept.ite (fun _ => ?_) (fun _ => ?_)
    | split
    | dsimp only [id]

theorem crossFrame_changes {w₀ : Nat} {s₀ s : State} (h₀ : Kept w₀ s₀ s)  (b : Bough) (f : List (BitVec 32))
    (hw₀ : within (parts [.trunk, .events, .ports, .safety, .measures, .energy, .averages, .billed, .loads, .recorder]) w₀ = true := by decide) :
    Kept w₀ s₀ (crossFrame b f s) := by
  refine h₀.trans (v := parts [.trunk, .events, .ports, .safety, .measures, .energy, .averages, .billed, .loads, .recorder]) ?_ hw₀
  clear h₀ hw₀
  unfold crossFrame
  try dsimp only
  repeat' first
    | with_reducible first | exact Kept.refl _ _ | assumption
    | with_reducible first | refine copyAt_changes ?_ _ _ _ | refine emit_changes ?_ _ _ _
    | with_reducible first | refine Kept.foldl _ _ ?_ fun u x hu => ?_
    | with_reducible refine Kept.ite (fun _ => ?_) (fun _ => ?_)
    | simp only [↓kept_mk]; refine KeptMk.set rfl ?_ ?_
    | apply Upd.of <;> intro hp <;>
        first | exact absurd hp (by decide) | with_reducible rfl | dsimp only
    | split
    | dsimp only [id]

theorem takeSamples_changes {w₀ : Nat} {s₀ s : State} (h₀ : Kept w₀ s₀ s)  (b : Bough) (bs : BoughSamples)
    (hw₀ : within (parts [.trunk, .events, .ports, .safety, .measures, .sampling, .energy, .averages, .billed, .loads, .recorder]) w₀ = true := by decide) :
    Kept w₀ s₀ (takeSamples b bs s) := by
  refine h₀.trans (v := parts [.trunk, .events, .ports, .safety, .measures, .sampling, .energy, .averages, .billed, .loads, .recorder]) ?_ hw₀
  clear h₀ hw₀
  unfold takeSamples
  try dsimp only
  repeat' first
    | with_reducible first | exact Kept.refl _ _ | assumption
    | with_reducible first | refine crossFrame_changes ?_ _ _ | refine fillChains_changes ?_ _ _
    | with_reducible first | refine keepSamples_changes ?_ _ _ _ | refine noteOverloads_changes ?_ _ _
    | with_reducible refine Kept.ite (fun _ => ?_) (fun _ => ?_)
    | split
    | dsimp only [id]

theorem idleReserve_changes {w₀ : Nat} {s₀ s : State} (h₀ : Kept w₀ s₀ s)  (b : Bough)
    (hw₀ : within (parts [.sampling]) w₀ = true := by decide) :
    Kept w₀ s₀ (idleReserve b s) := by
  refine h₀.trans (v := parts [.sampling]) ?_ hw₀
  clear h₀ hw₀
  unfold idleReserve
  try dsimp only
  repeat' first
    | with_reducible first | exact Kept.refl _ _ | assumption
    | with_reducible first | refine onMtr_changes ?_ _ _
    | with_reducible refine Kept.ite (fun _ => ?_) (fun _ => ?_)
    | simp only [↓kept_mk]; refine KeptMk.set rfl ?_ ?_
    | apply Upd.of <;> intro hp <;>
        first | exact absurd hp (by decide) | with_reducible rfl | dsimp only
    | split
    | dsimp only [id]

theorem fitAnswer_changes {w₀ : Nat} {s₀ s : State} (h₀ : Kept w₀ s₀ s)  (b : Bough) (result : Nat)
    (hw₀ : within (parts [.events, .sampling, .recorder]) w₀ = true := by decide) :
    Kept w₀ s₀ (fitAnswer b result s) := by
  refine h₀.trans (v := parts [.events, .sampling, .recorder]) ?_ hw₀
  clear h₀ hw₀
  unfold fitAnswer
  try dsimp only
  repeat' first
    | with_reducible first | exact Kept.refl _ _ | assumption
    | with_reducible first | refine answer_changes ?_ _ _ _ _ | refine onMtr_changes ?_ _ _
    | with_reducible refine Kept.ite (fun _ => ?_) (fun _ => ?_)
    | simp only [↓kept_mk]; refine KeptMk.set rfl ?_ ?_
    | apply Upd.of <;> intro hp <;>
        first | exact absurd hp (by decide) | with_reducible rfl | dsimp only
    | split
    | dsimp only [id]

theorem modulatorFault_changes {w₀ : Nat} {s₀ s : State} (h₀ : Kept w₀ s₀ s)  (b : Bough) (n kind : Nat)
    (hw₀ : within (parts [.events, .recorder]) w₀ = true := by decide) :
    Kept w₀ s₀ (modulatorFault b n kind s) := by
  refine h₀.trans (v := parts [.events, .recorder]) ?_ hw₀
  clear h₀ hw₀
  unfold modulatorFault
  try dsimp only
  repeat' first
    | with_reducible first | exact Kept.refl _ _ | assumption
    | with_reducible first | refine emit_changes ?_ _ _ _
    | with_reducible refine Kept.ite (fun _ => ?_) (fun _ => ?_)
    | split
    | dsimp only [id]

theorem swapApplied_changes {w₀ : Nat} {s₀ s : State} (h₀ : Kept w₀ s₀ s)  (b : Bough) (ch before after kind : Nat)
    (hw₀ : within (parts [.free, .events, .billed, .heartwood, .recorder, .flash]) w₀ = true := by decide) :
    Kept w₀ s₀ (swapApplied b ch before after kind s) := by
  refine h₀.trans (v := parts [.free, .events, .billed, .heartwood, .recorder, .flash]) ?_ hw₀
  clear h₀ hw₀
  unfold swapApplied
  try dsimp only
  repeat' first
    | with_reducible first | exact Kept.refl _ _ | assumption
    | with_reducible first | refine emit_changes ?_ _ _ _ | refine lrChange_changes ?_ _ _ _ _
    | with_reducible first | refine writeSave_changes ?_ _
    | with_reducible refine Kept.ite (fun _ => ?_) (fun _ => ?_)
    | split
    | dsimp only [id]

theorem startFit_changes {w₀ : Nat} {s₀ s : State} (h₀ : Kept w₀ s₀ s)  (b : Bough) (ch : Nat) (tag : Option Nat)
    (hw₀ : within (parts [.events, .sampling, .recorder]) w₀ = true := by decide) :
    Kept w₀ s₀ (startFit b ch tag s) := by
  refine h₀.trans (v := parts [.events, .sampling, .recorder]) ?_ hw₀
  clear h₀ hw₀
  unfold startFit
  try dsimp only
  repeat' first
    | with_reducible first | exact Kept.refl _ _ | assumption
    | with_reducible first | refine emit_changes ?_ _ _ _ | refine onMtr_changes ?_ _ _
    | with_reducible refine Kept.ite (fun _ => ?_) (fun _ => ?_)
    | simp only [↓kept_mk]; refine KeptMk.set rfl ?_ ?_
    | apply Upd.of <;> intro hp <;>
        first | exact absurd hp (by decide) | with_reducible rfl | dsimp only
    | split
    | dsimp only [id]

theorem loseChannel_changes {w₀ : Nat} {s₀ s : State} (h₀ : Kept w₀ s₀ s)  (b : Bough) (n : Nat)
    (hw₀ : within (parts [.events, .sampling, .recorder]) w₀ = true := by decide) :
    Kept w₀ s₀ (loseChannel b n s) := by
  refine h₀.trans (v := parts [.events, .sampling, .recorder]) ?_ hw₀
  clear h₀ hw₀
  unfold loseChannel
  try dsimp only
  repeat' first
    | with_reducible first | exact Kept.refl _ _ | assumption
    | with_reducible first | refine emit_changes ?_ _ _ _ | refine onMtr_changes ?_ _ _
    | with_reducible refine Kept.ite (fun _ => ?_) (fun _ => ?_)
    | simp only [↓kept_mk]; refine KeptMk.set rfl ?_ ?_
    | apply Upd.of <;> intro hp <;>
        first | exact absurd hp (by decide) | with_reducible rfl | dsimp only
    | split
    | dsimp only [id]

theorem startCold_changes {w₀ : Nat} {s₀ s : State} (h₀ : Kept w₀ s₀ s)  (b : Bough) (n : Nat)
    (hw₀ : within (parts [.events, .sampling, .recorder]) w₀ = true := by decide) :
    Kept w₀ s₀ (startCold b n s) := by
  refine h₀.trans (v := parts [.events, .sampling, .recorder]) ?_ hw₀
  clear h₀ hw₀
  unfold startCold
  try dsimp only
  repeat' first
    | with_reducible first | exact Kept.refl _ _ | assumption
    | with_reducible first | refine fitAnswer_changes ?_ _ _ | refine onMtr_changes ?_ _ _
    | with_reducible refine Kept.ite (fun _ => ?_) (fun _ => ?_)
    | simp only [↓kept_mk]; refine KeptMk.set rfl ?_ ?_
    | apply Upd.of <;> intro hp <;>
        first | exact absurd hp (by decide) | with_reducible rfl | dsimp only
    | split
    | dsimp only [id]

theorem stuckReserve_changes {w₀ : Nat} {s₀ s : State} (h₀ : Kept w₀ s₀ s)  (b : Bough)
    (hw₀ : within (parts [.events, .sampling, .recorder]) w₀ = true := by decide) :
    Kept w₀ s₀ (stuckReserve b s) := by
  refine h₀.trans (v := parts [.events, .sampling, .recorder]) ?_ hw₀
  clear h₀ hw₀
  unfold stuckReserve
  try dsimp only
  repeat' first
    | with_reducible first | exact Kept.refl _ _ | assumption
    | with_reducible first | refine fitAnswer_changes ?_ _ _ | refine loseChannel_changes ?_ _ _
    | with_reducible first | refine modulatorFault_changes ?_ _ _ _ | refine onMtr_changes ?_ _ _
    | with_reducible refine Kept.ite (fun _ => ?_) (fun _ => ?_)
    | simp only [↓kept_mk]; refine KeptMk.set rfl ?_ ?_
    | apply Upd.of <;> intro hp <;>
        first | exact absurd hp (by decide) | with_reducible rfl | dsimp only
    | split
    | dsimp only [id]

theorem stuckActive_changes {w₀ : Nat} {s₀ s : State} (h₀ : Kept w₀ s₀ s)  (b : Bough) (n : Nat)
    (hw₀ : within (parts [.events, .sampling, .recorder]) w₀ = true := by decide) :
    Kept w₀ s₀ (stuckActive b n s) := by
  refine h₀.trans (v := parts [.events, .sampling, .recorder]) ?_ hw₀
  clear h₀ hw₀
  unfold stuckActive
  try dsimp only
  repeat' first
    | with_reducible first | exact Kept.refl _ _ | assumption
    | with_reducible first | refine fitAnswer_changes ?_ _ _ | refine loseChannel_changes ?_ _ _
    | with_reducible first | refine modulatorFault_changes ?_ _ _ _ | refine startCold_changes ?_ _ _
    | with_reducible first | refine onMtr_changes ?_ _ _
    | with_reducible refine Kept.ite (fun _ => ?_) (fun _ => ?_)
    | simp only [↓kept_mk]; refine KeptMk.set rfl ?_ ?_
    | apply Upd.of <;> intro hp <;>
        first | exact absurd hp (by decide) | with_reducible rfl | dsimp only
    | split
    | dsimp only [id]

theorem visit_changes {w₀ : Nat} {s₀ s : State} (h₀ : Kept w₀ s₀ s)  (b : Bough) (n : Nat) (k : Int)
    (hw₀ : within (parts [.sampling]) w₀ = true := by decide) :
    Kept w₀ s₀ (visit b n k s) := by
  refine h₀.trans (v := parts [.sampling]) ?_ hw₀
  clear h₀ hw₀
  unfold visit
  try dsimp only
  repeat' first
    | with_reducible first | exact Kept.refl _ _ | assumption
    | with_reducible first | refine onMtr_changes ?_ _ _
    | with_reducible refine Kept.ite (fun _ => ?_) (fun _ => ?_)
    | simp only [↓kept_mk]; refine KeptMk.set rfl ?_ ?_
    | apply Upd.of <;> intro hp <;>
        first | exact absurd hp (by decide) | with_reducible rfl | dsimp only
    | split
    | dsimp only [id]

theorem judgeCycle_changes {w₀ : Nat} {s₀ s : State} (h₀ : Kept w₀ s₀ s)  (b : Bough)
    (hw₀ : within (parts [.events, .sampling, .recorder]) w₀ = true := by decide) :
    Kept w₀ s₀ (judgeCycle b s) := by
  refine h₀.trans (v := parts [.events, .sampling, .recorder]) ?_ hw₀
  clear h₀ hw₀
  unfold judgeCycle
  try dsimp only
  repeat' first
    | with_reducible first | exact Kept.refl _ _ | assumption
    | with_reducible first | refine modulatorFault_changes ?_ _ _ _ | refine startFit_changes ?_ _ _ _
    | with_reducible first | refine onMtr_changes ?_ _ _
    | with_reducible refine Kept.ite (fun _ => ?_) (fun _ => ?_)
    | simp only [↓kept_mk]; refine KeptMk.set rfl ?_ ?_
    | apply Upd.of <;> intro hp <;>
        first | exact absurd hp (by decide) | with_reducible rfl | dsimp only
    | split
    | dsimp only [id]

theorem fitFailed_changes {w₀ : Nat} {s₀ s : State} (h₀ : Kept w₀ s₀ s)  (b : Bough)
    (hw₀ : within (parts [.events, .sampling, .recorder]) w₀ = true := by decide) :
    Kept w₀ s₀ (fitFailed b s) := by
  refine h₀.trans (v := parts [.events, .sampling, .recorder]) ?_ hw₀
  clear h₀ hw₀
  unfold fitFailed
  try dsimp only
  repeat' first
    | with_reducible first | exact Kept.refl _ _ | assumption
    | with_reducible first | refine fitAnswer_changes ?_ _ _ | refine idleReserve_changes ?_ _
    | with_reducible refine Kept.ite (fun _ => ?_) (fun _ => ?_)
    | split
    | dsimp only [id]

theorem calEvent_changes {w₀ : Nat} {s₀ s : State} (h₀ : Kept w₀ s₀ s)  (b : Bough) (c : CalRun) (n : Nat)
    (hw₀ : within (parts [.events, .recorder]) w₀ = true := by decide) :
    Kept w₀ s₀ (calEvent b c n s) := by
  refine h₀.trans (v := parts [.events, .recorder]) ?_ hw₀
  clear h₀ hw₀
  unfold calEvent
  try dsimp only
  repeat' first
    | with_reducible first | exact Kept.refl _ _ | assumption
    | with_reducible first | refine emit_changes ?_ _ _ _
    | with_reducible refine Kept.ite (fun _ => ?_) (fun _ => ?_)
    | split
    | dsimp only [id]

end Sys2Proof.Safety
end

