-- ==== Sys2Proof/Laws/Frames/Energy.lean ====
section
/-! SUPPORT. What each shared operation of Machine/Energy.lean may change. -/

set_option Elab.async false
set_option linter.unreachableTactic false
set_option linter.unusedTactic false
set_option linter.unusedSimpArgs false

namespace Sys2Proof.Safety

open Sys2Proof.Machine

theorem gridCycle_changes {w₀ : Nat} {s₀ s : State} (h₀ : Kept w₀ s₀ s)  (b : Bough) (period : Nat)
    (hw₀ : within (parts [.events, .ports, .modems, .association, .sessions, .powerLinks, .safety, .sampling, .energy, .averages, .quantities, .recorder]) w₀ = true := by decide) :
    Kept w₀ s₀ (gridCycle b period s) := by
  refine h₀.trans (v := parts [.events, .ports, .modems, .association, .sessions, .powerLinks, .safety, .sampling, .energy, .averages, .quantities, .recorder]) ?_ hw₀
  clear h₀ hw₀
  unfold gridCycle
  try dsimp only
  repeat' first
    | with_reducible first | exact Kept.refl _ _ | assumption
    | with_reducible first | refine blockDone_changes ?_ _ | refine endCycle_changes ?_ _
    | with_reducible first | refine gridLost_changes ?_ _ _ | refine takeType_changes ?_ _
    | with_reducible first | refine onAvg_changes ?_ _ _ | refine onNrg_changes ?_ _ _
    | with_reducible refine Kept.ite (fun _ => ?_) (fun _ => ?_)
    | simp only [↓kept_mk]; refine KeptMk.set rfl ?_ ?_
    | apply Upd.of <;> intro hp <;>
        first | exact absurd hp (by decide) | with_reducible rfl | dsimp only
    | split
    | dsimp only [id]

theorem searchCycle_changes {w₀ : Nat} {s₀ s : State} (h₀ : Kept w₀ s₀ s)  (b : Bough) (period : Nat)
    (hw₀ : within (parts [.events, .ports, .modems, .association, .sessions, .powerLinks, .safety, .sampling, .energy, .averages, .quantities, .recorder]) w₀ = true := by decide) :
    Kept w₀ s₀ (searchCycle b period s) := by
  refine h₀.trans (v := parts [.events, .ports, .modems, .association, .sessions, .powerLinks, .safety, .sampling, .energy, .averages, .quantities, .recorder]) ?_ hw₀
  clear h₀ hw₀
  unfold searchCycle
  try dsimp only
  repeat' first
    | with_reducible first | exact Kept.refl _ _ | assumption
    | with_reducible first | refine gridPresent_changes ?_ _ _ | refine onNrg_changes ?_ _ _
    | with_reducible refine Kept.ite (fun _ => ?_) (fun _ => ?_)
    | simp only [↓kept_mk]; refine KeptMk.set rfl ?_ ?_
    | apply Upd.of <;> intro hp <;>
        first | exact absurd hp (by decide) | with_reducible rfl | dsimp only
    | split
    | dsimp only [id]

theorem noteCrossing_changes {w₀ : Nat} {s₀ s : State} (h₀ : Kept w₀ s₀ s)  (b : Bough) (before after : Int)
    (hw₀ : within (parts [.energy]) w₀ = true := by decide) :
    Kept w₀ s₀ (noteCrossing b before after s) := by
  refine h₀.trans (v := parts [.energy]) ?_ hw₀
  clear h₀ hw₀
  unfold noteCrossing
  try dsimp only
  repeat' first
    | with_reducible first | exact Kept.refl _ _ | assumption
    | with_reducible first | refine onNrg_changes ?_ _ _
    | with_reducible refine Kept.ite (fun _ => ?_) (fun _ => ?_)
    | simp only [↓kept_mk]; refine KeptMk.set rfl ?_ ?_
    | apply Upd.of <;> intro hp <;>
        first | exact absurd hp (by decide) | with_reducible rfl | dsimp only
    | split
    | dsimp only [id]

theorem failSlots_changes {w : Nat} {s₀ s : State} (h : Kept w s₀ s) (n : Nat)
    (hw : within (parts [.events, .heartwood, .recorder, .flash]) w = true := by decide) : Kept w s₀ (failSlots n s) := by
  refine h.trans (v := parts [.events, .heartwood, .recorder, .flash]) ?_ hw
  clear h hw
  induction n generalizing s with
  | zero => exact .refl _ _
  | succ n ih =>
    unfold failSlots
    dsimp only
    refine Kept.trans ?_ ih (by decide)
    with_reducible refine emit_changes ?_ _ _ _
    refine beginSlot_changes ?_
    simp only [↓kept_mk]
    refine KeptMk.set rfl (.refl _ _) ?_
    apply Upd.of <;> intro hp <;> first | exact absurd hp (by decide) | with_reducible rfl | dsimp only

theorem journalSession_changes {w₀ : Nat} {s₀ s : State} (h₀ : Kept w₀ s₀ s)  (b : Bough)
    (hw₀ : within (parts [.free, .events, .sessions, .memory, .cells, .recorder, .flash]) w₀ = true := by decide) :
    Kept w₀ s₀ (journalSession b s) := by
  refine h₀.trans (v := parts [.free, .events, .sessions, .memory, .cells, .recorder, .flash]) ?_ hw₀
  clear h₀ hw₀
  unfold journalSession
  try dsimp only
  repeat' first
    | with_reducible first | exact Kept.refl _ _ | assumption
    | with_reducible first | refine debitSession_changes ?_ _ | refine journalFor_changes ?_ _ _
    | with_reducible refine Kept.ite (fun _ => ?_) (fun _ => ?_)
    | simp only [↓kept_mk]; refine KeptMk.set rfl ?_ ?_
    | apply Upd.of <;> intro hp <;>
        first | exact absurd hp (by decide) | with_reducible rfl | dsimp only
    | split
    | dsimp only [id]

theorem openGate_changes {w₀ : Nat} {s₀ s : State} (h₀ : Kept w₀ s₀ s)  (b : Bough)
    (hw₀ : within (parts [.billed]) w₀ = true := by decide) :
    Kept w₀ s₀ (openGate b s) := by
  refine h₀.trans (v := parts [.billed]) ?_ hw₀
  clear h₀ hw₀
  unfold openGate
  try dsimp only
  repeat' first
    | with_reducible first | exact Kept.refl _ _ | assumption
    | with_reducible first | refine noteFlag_changes ?_ _ _ | refine onBil_changes ?_ _ _
    | with_reducible refine Kept.ite (fun _ => ?_) (fun _ => ?_)
    | simp only [↓kept_mk]; refine KeptMk.set rfl ?_ ?_
    | apply Upd.of <;> intro hp <;>
        first | exact absurd hp (by decide) | with_reducible rfl | dsimp only
    | split
    | dsimp only [id]

theorem closeGate_changes {w₀ : Nat} {s₀ s : State} (h₀ : Kept w₀ s₀ s)  (b : Bough)
    (hw₀ : within (parts [.free, .events, .billed, .heartwood, .recorder]) w₀ = true := by decide) :
    Kept w₀ s₀ (closeGate b s) := by
  refine h₀.trans (v := parts [.free, .events, .billed, .heartwood, .recorder]) ?_ hw₀
  clear h₀ hw₀
  unfold closeGate
  try dsimp only
  repeat' first
    | with_reducible first | exact Kept.refl _ _ | assumption
    | with_reducible first | refine convertBough_changes ?_ _ | refine emit_changes ?_ _ _ _
    | with_reducible first | refine gapEstimate_changes ?_ _ _ _ | refine noteFlag_changes ?_ _ _
    | with_reducible first | refine signWith_changes ?_ _ _ _ _ _ | refine onBil_changes ?_ _ _
    | with_reducible refine Kept.ite (fun _ => ?_) (fun _ => ?_)
    | simp only [↓kept_mk]; refine KeptMk.set rfl ?_ ?_
    | apply Upd.of <;> intro hp <;>
        first | exact absurd hp (by decide) | with_reducible rfl | dsimp only
    | (with_reducible refine Kept.ofPair (by assumption) ?_)
    | split
    | dsimp only [id]

theorem noteMarks_changes {w₀ : Nat} {s₀ s : State} (h₀ : Kept w₀ s₀ s)  (b : Bough) (r : EngResult)
    (hw₀ : within (parts [.billed]) w₀ = true := by decide) :
    Kept w₀ s₀ (noteMarks b r s) := by
  refine h₀.trans (v := parts [.billed]) ?_ hw₀
  clear h₀ hw₀
  unfold noteMarks
  try dsimp only
  repeat' first
    | with_reducible first | exact Kept.refl _ _ | assumption
    | with_reducible first | refine noteFlag_changes ?_ _ _
    | with_reducible refine Kept.ite (fun _ => ?_) (fun _ => ?_)
    | split
    | dsimp only [id]

theorem admitMail_changes {w₀ : Nat} {s₀ s : State} (h₀ : Kept w₀ s₀ s)  
    (hw₀ : within (parts [.trunk]) w₀ = true := by decide) :
    Kept w₀ s₀ (admitMail s) := by
  refine h₀.trans (v := parts [.trunk]) ?_ hw₀
  clear h₀ hw₀
  unfold admitMail
  try dsimp only
  repeat' first
    | with_reducible first | exact Kept.refl _ _ | assumption
    | with_reducible refine Kept.ite (fun _ => ?_) (fun _ => ?_)
    | simp only [↓kept_mk]; refine KeptMk.set rfl ?_ ?_
    | apply Upd.of <;> intro hp <;>
        first | exact absurd hp (by decide) | with_reducible rfl | dsimp only
    | split
    | dsimp only [id]

theorem emptyMailbox_changes {w₀ : Nat} {s₀ s : State} (h₀ : Kept w₀ s₀ s)  
    (hw₀ : within (parts [.trunk]) w₀ = true := by decide) :
    Kept w₀ s₀ (emptyMailbox s) := by
  refine h₀.trans (v := parts [.trunk]) ?_ hw₀
  clear h₀ hw₀
  unfold emptyMailbox
  try dsimp only
  repeat' first
    | with_reducible first | exact Kept.refl _ _ | assumption
    | with_reducible first | refine admitMail_changes ?_
    | with_reducible refine Kept.ite (fun _ => ?_) (fun _ => ?_)
    | simp only [↓kept_mk]; refine KeptMk.set rfl ?_ ?_
    | apply Upd.of <;> intro hp <;>
        first | exact absurd hp (by decide) | with_reducible rfl | dsimp only
    | split
    | dsimp only [id]

end Sys2Proof.Safety
end

