-- ==== Sys2Proof/Laws/Frames/Billing.lean ====
section
/-! SUPPORT. What each shared operation of Machine/Billing.lean may change. -/

set_option Elab.async false
set_option linter.unreachableTactic false
set_option linter.unusedTactic false
set_option linter.unusedSimpArgs false

namespace Sys2Proof.Safety

open Sys2Proof.Machine

theorem rangeEnd_changes {w₀ : Nat} {s₀ s : State} (h₀ : Kept w₀ s₀ s)  
    (hw₀ : within (parts [.free, .events, .billed, .heartwood, .recorder, .backup]) w₀ = true := by decide) :
    Kept w₀ s₀ (rangeEnd s) := by
  refine h₀.trans (v := parts [.free, .events, .billed, .heartwood, .recorder, .backup]) ?_ hw₀
  clear h₀ hw₀
  unfold rangeEnd
  try dsimp only
  repeat' first
    | with_reducible first | exact Kept.refl _ _ | assumption
    | with_reducible first | refine applyOffset_changes ?_ | refine emit_changes ?_ _ _ _ | refine evalRate_changes ?_
    | with_reducible refine Kept.ite (fun _ => ?_) (fun _ => ?_)
    | simp only [↓kept_mk]; refine KeptMk.set rfl ?_ ?_
    | apply Upd.of <;> intro hp <;>
        first | exact absurd hp (by decide) | with_reducible rfl | dsimp only
    | split
    | dsimp only [id]

theorem recomputeCheck_changes {w₀ : Nat} {s₀ s : State} (h₀ : Kept w₀ s₀ s)  
    (hw₀ : within (parts [.free, .events, .powerLinks, .powerDie, .heartwood, .display, .tag, .mirror, .recorder, .flash, .tagMem]) w₀ = true := by decide) :
    Kept w₀ s₀ (recomputeCheck s) := by
  refine h₀.trans (v := parts [.free, .events, .powerLinks, .powerDie, .heartwood, .display, .tag, .mirror, .recorder, .flash, .tagMem]) ?_ hw₀
  clear h₀ hw₀
  unfold recomputeCheck
  try dsimp only
  repeat' first
    | with_reducible first | exact Kept.refl _ _ | assumption
    | with_reducible first | refine emit_changes ?_ _ _ _ | refine fatalError_changes ?_ _ _ _
    | with_reducible refine Kept.ite (fun _ => ?_) (fun _ => ?_)
    | split
    | dsimp only [id]

theorem hostSetTime_changes {w₀ : Nat} {s₀ s : State} (h₀ : Kept w₀ s₀ s)  (utc : BitVec 32)
    (hw₀ : within (parts [.free, .pages, .commits, .events, .billed, .heartwood, .recorder, .backup, .flash]) w₀ = true := by decide) :
    Kept w₀ s₀ (hostSetTime utc s) := by
  refine h₀.trans (v := parts [.free, .pages, .commits, .events, .billed, .heartwood, .recorder, .backup, .flash]) ?_ hw₀
  clear h₀ hw₀
  unfold hostSetTime
  try dsimp only
  repeat' first
    | with_reducible first | exact Kept.refl _ _ | assumption
    | with_reducible first | refine evalRate_changes ?_ | refine recordOffset_changes ?_ _
    | with_reducible first | refine setTime_changes ?_ _ _
    | with_reducible refine Kept.ite (fun _ => ?_) (fun _ => ?_)
    | split
    | dsimp only [id]

end Sys2Proof.Safety
end

