-- ==== Sys2Proof/Laws/Frames/Trunk.lean ====
section
/-! SUPPORT. What each shared operation of Machine/Trunk.lean may change. -/

set_option Elab.async false
set_option linter.unreachableTactic false
set_option linter.unusedTactic false
set_option linter.unusedSimpArgs false

namespace Sys2Proof.Safety

open Sys2Proof.Machine

theorem onSeg_changes {w₀ : Nat} {s₀ s : State} (h₀ : Kept w₀ s₀ s)  (i : Fin 23) (f : Seg → Seg)
    (hw₀ : within (parts [.trunk]) w₀ = true := by decide) :
    Kept w₀ s₀ (onSeg i f s) := by
  refine h₀.trans (v := parts [.trunk]) ?_ hw₀
  clear h₀ hw₀
  unfold onSeg
  try dsimp only
  repeat' first
    | with_reducible first | exact Kept.refl _ _ | assumption
    | with_reducible refine Kept.ite (fun _ => ?_) (fun _ => ?_)
    | simp only [↓kept_mk]; refine KeptMk.set rfl ?_ ?_
    | apply Upd.of <;> intro hp <;>
        first | exact absurd hp (by decide) | with_reducible rfl | dsimp only
    | split
    | dsimp only [id]

theorem onPass_changes {w₀ : Nat} {s₀ s : State} (h₀ : Kept w₀ s₀ s)  (i : Nat) (k : Fin 4) (f : List Flit → List Flit)
    (hw₀ : within (parts [.trunk]) w₀ = true := by decide) :
    Kept w₀ s₀ (onPass i k f s) := by
  refine h₀.trans (v := parts [.trunk]) ?_ hw₀
  clear h₀ hw₀
  unfold onPass
  try dsimp only
  repeat' first
    | with_reducible first | exact Kept.refl _ _ | assumption
    | with_reducible refine Kept.ite (fun _ => ?_) (fun _ => ?_)
    | simp only [↓kept_mk]; refine KeptMk.set rfl ?_ ?_
    | apply Upd.of <;> intro hp <;>
        first | exact absurd hp (by decide) | with_reducible rfl | dsimp only
    | split
    | dsimp only [id]

theorem onInject_changes {w₀ : Nat} {s₀ s : State} (h₀ : Kept w₀ s₀ s)  (i : Nat) (f : List Flit → List Flit)
    (hw₀ : within (parts [.trunk]) w₀ = true := by decide) :
    Kept w₀ s₀ (onInject i f s) := by
  refine h₀.trans (v := parts [.trunk]) ?_ hw₀
  clear h₀ hw₀
  unfold onInject
  try dsimp only
  repeat' first
    | with_reducible first | exact Kept.refl _ _ | assumption
    | with_reducible refine Kept.ite (fun _ => ?_) (fun _ => ?_)
    | simp only [↓kept_mk]; refine KeptMk.set rfl ?_ ?_
    | apply Upd.of <;> intro hp <;>
        first | exact absurd hp (by decide) | with_reducible rfl | dsimp only
    | split
    | dsimp only [id]

theorem readFails_changes {w₀ : Nat} {s₀ s : State} (h₀ : Kept w₀ s₀ s)  (x : Access)
    (hw₀ : within (parts [.free, .start, .events, .powerLinks, .powerDie, .heartwood, .display, .tag, .mirror, .memory, .cells, .recorder, .flash, .tagMem]) w₀ = true := by decide) :
    Kept w₀ s₀ (readFails x s) := by
  refine h₀.trans (v := parts [.free, .start, .events, .powerLinks, .powerDie, .heartwood, .display, .tag, .mirror, .memory, .cells, .recorder, .flash, .tagMem]) ?_ hw₀
  clear h₀ hw₀
  unfold readFails
  try dsimp only
  repeat' first
    | with_reducible first | exact Kept.refl _ _ | assumption
    | with_reducible first | refine fatalError_changes ?_ _ _ _ | refine restoreSlot_changes ?_ _
    | with_reducible first | refine uncorrectable_changes ?_ _ _ _
    | with_reducible refine Kept.ite (fun _ => ?_) (fun _ => ?_)
    | simp only [↓kept_mk]; refine KeptMk.set rfl ?_ ?_
    | apply Upd.of <;> intro hp <;>
        first | exact absurd hp (by decide) | with_reducible rfl | dsimp only
    | split
    | dsimp only [id]

theorem restartChannel_changes {w₀ : Nat} {s₀ s : State} (h₀ : Kept w₀ s₀ s)  (x : Access)
    (hw₀ : within (parts [.memory]) w₀ = true := by decide) :
    Kept w₀ s₀ (restartChannel x s) := by
  refine h₀.trans (v := parts [.memory]) ?_ hw₀
  clear h₀ hw₀
  unfold restartChannel
  try dsimp only
  repeat' first
    | with_reducible first | exact Kept.refl _ _ | assumption
    | with_reducible refine Kept.ite (fun _ => ?_) (fun _ => ?_)
    | simp only [↓kept_mk]; refine KeptMk.set rfl ?_ ?_
    | apply Upd.of <;> intro hp <;>
        first | exact absurd hp (by decide) | with_reducible rfl | dsimp only
    | split
    | dsimp only [id]

theorem tagWord_changes {w₀ : Nat} {s₀ s : State} (h₀ : Kept w₀ s₀ s)  (a : Nat) (bs : List Byte)
    (hw₀ : within (parts [.tag, .mirror, .tagMem]) w₀ = true := by decide) :
    Kept w₀ s₀ (tagWord a bs s) := by
  refine h₀.trans (v := parts [.tag, .mirror, .tagMem]) ?_ hw₀
  clear h₀ hw₀
  unfold tagWord
  try dsimp only
  repeat' first
    | with_reducible first | exact Kept.refl _ _ | assumption
    | with_reducible first | refine tagCommit_changes ?_ _ _
    | with_reducible refine Kept.ite (fun _ => ?_) (fun _ => ?_)
    | split
    | dsimp only [id]

theorem respondTo_changes {w₀ : Nat} {s₀ s : State} (h₀ : Kept w₀ s₀ s)  (f : Flit) (refused : Bool) (a : Nat) (w : Option (BitVec 64))
    (hw₀ : within (parts [.trunk, .modems]) w₀ = true := by decide) :
    Kept w₀ s₀ (respondTo f refused a w s) := by
  refine h₀.trans (v := parts [.trunk, .modems]) ?_ hw₀
  clear h₀ hw₀
  unfold respondTo
  try dsimp only
  repeat' first
    | with_reducible first | exact Kept.refl _ _ | assumption
    | with_reducible first | refine onInject_changes ?_ _ _ | refine reply_changes ?_ _ _
    | with_reducible refine Kept.ite (fun _ => ?_) (fun _ => ?_)
    | split
    | dsimp only [id]

theorem serveWrite_changes {w₀ : Nat} {s₀ s : State} (h₀ : Kept w₀ s₀ s)  (x : Access) (v : BitVec 64)
    (hw₀ : within (parts [.free, .tag, .mirror, .memory, .cells, .tagMem]) w₀ = true := by decide) :
    Kept w₀ s₀ (serveWrite x v s) := by
  refine h₀.trans (v := parts [.free, .tag, .mirror, .memory, .cells, .tagMem]) ?_ hw₀
  clear h₀ hw₀
  unfold serveWrite
  try dsimp only
  repeat' first
    | with_reducible first | exact Kept.refl _ _ | assumption
    | with_reducible first | refine sramWrite_changes ?_ _ _ | refine tagWord_changes ?_ _ _
    | with_reducible refine Kept.ite (fun _ => ?_) (fun _ => ?_)
    | simp only [↓kept_mk]; refine KeptMk.set rfl ?_ ?_
    | apply Upd.of <;> intro hp <;>
        first | exact absurd hp (by decide) | with_reducible rfl | dsimp only
    | split
    | dsimp only [id]

theorem serveRead_changes {w₀ : Nat} {s₀ s : State} (h₀ : Kept w₀ s₀ s)  (f : Flit) (x : Access)
    (hw₀ : within (parts [.free, .trunk, .start, .events, .modems, .powerLinks, .powerDie, .heartwood, .display, .tag, .mirror, .memory, .cells, .recorder, .flash, .tagMem]) w₀ = true := by decide) :
    Kept w₀ s₀ (serveRead f x s) := by
  refine h₀.trans (v := parts [.free, .trunk, .start, .events, .modems, .powerLinks, .powerDie, .heartwood, .display, .tag, .mirror, .memory, .cells, .recorder, .flash, .tagMem]) ?_ hw₀
  clear h₀ hw₀
  unfold serveRead
  try dsimp only
  repeat' first
    | with_reducible first | exact Kept.refl _ _ | assumption
    | with_reducible first | refine readFails_changes ?_ _ | refine readWord_changes ?_ _ _
    | with_reducible first | refine respondTo_changes ?_ _ _ _ _ | refine free_changes ?_ _
    | with_reducible refine Kept.ite (fun _ => ?_) (fun _ => ?_)
    | simp only [↓kept_mk]; refine KeptMk.set rfl ?_ ?_
    | apply Upd.of <;> intro hp <;>
        first | exact absurd hp (by decide) | with_reducible rfl | dsimp only
    | (with_reducible refine Kept.ofPair (by assumption) ?_)
    | split
    | dsimp only [id]

theorem serveAccess_changes {w₀ : Nat} {s₀ s : State} (h₀ : Kept w₀ s₀ s)  (f : Flit) (x : Access)
    (hw₀ : within (parts [.free, .trunk, .start, .events, .modems, .powerLinks, .powerDie, .heartwood, .display, .tag, .mirror, .memory, .cells, .recorder, .flash, .tagMem]) w₀ = true := by decide) :
    Kept w₀ s₀ (serveAccess f x s) := by
  refine h₀.trans (v := parts [.free, .trunk, .start, .events, .modems, .powerLinks, .powerDie, .heartwood, .display, .tag, .mirror, .memory, .cells, .recorder, .flash, .tagMem]) ?_ hw₀
  clear h₀ hw₀
  unfold serveAccess
  try dsimp only
  repeat' first
    | with_reducible first | exact Kept.refl _ _ | assumption
    | with_reducible first | refine emit_changes ?_ _ _ _ | refine respondTo_changes ?_ _ _ _ _
    | with_reducible first | refine restartChannel_changes ?_ _ | refine serveRead_changes ?_ _ _
    | with_reducible first | refine serveWrite_changes ?_ _ _
    | with_reducible refine Kept.ite (fun _ => ?_) (fun _ => ?_)
    | simp only [↓kept_mk]; refine KeptMk.set rfl ?_ ?_
    | apply Upd.of <;> intro hp <;>
        first | exact absurd hp (by decide) | with_reducible rfl | dsimp only
    | split
    | dsimp only [id]

theorem takeOffers_changes {w₀ : Nat} {s₀ s : State} (h₀ : Kept w₀ s₀ s)  (i : Fin 23) (offers : List Flit)
    (hw₀ : within (parts [.trunk]) w₀ = true := by decide) :
    Kept w₀ s₀ (takeOffers i offers s) := by
  refine h₀.trans (v := parts [.trunk]) ?_ hw₀
  clear h₀ hw₀
  unfold takeOffers
  try dsimp only
  repeat' first
    | with_reducible first | exact Kept.refl _ _ | assumption
    | with_reducible first | refine onInject_changes ?_ _ _
    | with_reducible refine Kept.ite (fun _ => ?_) (fun _ => ?_)
    | split
    | dsimp only [id]

theorem leaveStop_changes {w₀ : Nat} {s₀ s : State} (h₀ : Kept w₀ s₀ s)  (i : Fin 23) (p : Pick) (f : Flit)
    (hw₀ : within (parts [.trunk]) w₀ = true := by decide) :
    Kept w₀ s₀ (leaveStop i p f s) := by
  refine h₀.trans (v := parts [.trunk]) ?_ hw₀
  clear h₀ hw₀
  unfold leaveStop
  try dsimp only
  repeat' first
    | with_reducible first | exact Kept.refl _ _ | assumption
    | with_reducible first | refine onInject_changes ?_ _ _ | refine onPass_changes ?_ _ _ _
    | with_reducible refine Kept.ite (fun _ => ?_) (fun _ => ?_)
    | simp only [↓kept_mk]; refine KeptMk.set rfl ?_ ?_
    | apply Upd.of <;> intro hp <;>
        first | exact absurd hp (by decide) | with_reducible rfl | dsimp only
    | split
    | dsimp only [id]

theorem arrive_changes {w₀ : Nat} {s₀ s : State} (h₀ : Kept w₀ s₀ s)  (n : Nat) (f : Flit)
    (hw₀ : within (parts [.free, .trunk, .start, .events, .modems, .powerLinks, .powerDie, .heartwood, .display, .tag, .mirror, .memory, .cells, .recorder, .flash, .tagMem]) w₀ = true := by decide) :
    Kept w₀ s₀ (arrive n f s) := by
  refine h₀.trans (v := parts [.free, .trunk, .start, .events, .modems, .powerLinks, .powerDie, .heartwood, .display, .tag, .mirror, .memory, .cells, .recorder, .flash, .tagMem]) ?_ hw₀
  clear h₀ hw₀
  unfold arrive
  try dsimp only
  repeat' first
    | with_reducible first | exact Kept.refl _ _ | assumption
    | with_reducible first | refine onPass_changes ?_ _ _ _ | refine serveAccess_changes ?_ _ _
    | with_reducible refine Kept.ite (fun _ => ?_) (fun _ => ?_)
    | simp only [↓kept_mk]; refine KeptMk.set rfl ?_ ?_
    | apply Upd.of <;> intro hp <;>
        first | exact absurd hp (by decide) | with_reducible rfl | dsimp only
    | split
    | dsimp only [id]

theorem crossFlit_changes {w₀ : Nat} {s₀ s : State} (h₀ : Kept w₀ s₀ s)  (i : Fin 23) (p : Pick) (f : Flit)
    (hw₀ : within (parts [.free, .trunk, .start, .events, .modems, .powerLinks, .powerDie, .heartwood, .display, .tag, .mirror, .memory, .cells, .recorder, .flash, .tagMem]) w₀ = true := by decide) :
    Kept w₀ s₀ (crossFlit i p f s) := by
  refine h₀.trans (v := parts [.free, .trunk, .start, .events, .modems, .powerLinks, .powerDie, .heartwood, .display, .tag, .mirror, .memory, .cells, .recorder, .flash, .tagMem]) ?_ hw₀
  clear h₀ hw₀
  unfold crossFlit
  try dsimp only
  repeat' first
    | with_reducible first | exact Kept.refl _ _ | assumption
    | with_reducible first | refine admitMail_changes ?_ | refine arrive_changes ?_ _ _
    | with_reducible first | refine leaveStop_changes ?_ _ _ _ | refine onSeg_changes ?_ _ _
    | with_reducible refine Kept.ite (fun _ => ?_) (fun _ => ?_)
    | simp only [↓kept_mk]; refine KeptMk.set rfl ?_ ?_
    | apply Upd.of <;> intro hp <;>
        first | exact absurd hp (by decide) | with_reducible rfl | dsimp only
    | split
    | dsimp only [id]

theorem rejectFlit_changes {w₀ : Nat} {s₀ s : State} (h₀ : Kept w₀ s₀ s)  (i : Fin 23) (p : Pick) (bad : BitVec 9)
    (hw₀ : within (parts [.trunk]) w₀ = true := by decide) :
    Kept w₀ s₀ (rejectFlit i p bad s) := by
  refine h₀.trans (v := parts [.trunk]) ?_ hw₀
  clear h₀ hw₀
  unfold rejectFlit
  try dsimp only
  repeat' first
    | with_reducible first | exact Kept.refl _ _ | assumption
    | with_reducible first | refine onSeg_changes ?_ _ _
    | with_reducible refine Kept.ite (fun _ => ?_) (fun _ => ?_)
    | simp only [↓kept_mk]; refine KeptMk.set rfl ?_ ?_
    | apply Upd.of <;> intro hp <;>
        first | exact absurd hp (by decide) | with_reducible rfl | dsimp only
    | split
    | dsimp only [id]

theorem paceAlarm_changes {w₀ : Nat} {s₀ s : State} (h₀ : Kept w₀ s₀ s)  (seg : Nat)
    (hw₀ : within (parts [.trunk, .events, .recorder]) w₀ = true := by decide) :
    Kept w₀ s₀ (paceAlarm seg s) := by
  refine h₀.trans (v := parts [.trunk, .events, .recorder]) ?_ hw₀
  clear h₀ hw₀
  unfold paceAlarm
  try dsimp only
  repeat' first
    | with_reducible first | exact Kept.refl _ _ | assumption
    | with_reducible first | refine emit_changes ?_ _ _ _ | refine raiseIrq_changes ?_ _
    | with_reducible refine Kept.ite (fun _ => ?_) (fun _ => ?_)
    | simp only [↓kept_mk]; refine KeptMk.set rfl ?_ ?_
    | apply Upd.of <;> intro hp <;>
        first | exact absurd hp (by decide) | with_reducible rfl | dsimp only
    | split
    | dsimp only [id]

theorem countOverrun_changes {w₀ : Nat} {s₀ s : State} (h₀ : Kept w₀ s₀ s)  (i : Fin 23)
    (hw₀ : within (parts [.trunk, .events, .recorder]) w₀ = true := by decide) :
    Kept w₀ s₀ (countOverrun i s) := by
  refine h₀.trans (v := parts [.trunk, .events, .recorder]) ?_ hw₀
  clear h₀ hw₀
  unfold countOverrun
  try dsimp only
  repeat' first
    | with_reducible first | exact Kept.refl _ _ | assumption
    | with_reducible first | refine emit_changes ?_ _ _ _
    | with_reducible refine Kept.ite (fun _ => ?_) (fun _ => ?_)
    | simp only [↓kept_mk]; refine KeptMk.set rfl ?_ ?_
    | apply Upd.of <;> intro hp <;>
        first | exact absurd hp (by decide) | with_reducible rfl | dsimp only
    | split
    | dsimp only [id]

theorem takePeaks_changes {w₀ : Nat} {s₀ s : State} (h₀ : Kept w₀ s₀ s)  
    (hw₀ : within (parts [.trunk]) w₀ = true := by decide) :
    Kept w₀ s₀ (takePeaks s) := by
  refine h₀.trans (v := parts [.trunk]) ?_ hw₀
  clear h₀ hw₀
  unfold takePeaks
  try dsimp only
  repeat' first
    | with_reducible first | exact Kept.refl _ _ | assumption
    | with_reducible first | refine Kept.foldl _ _ ?_ fun u x hu => ?_
    | with_reducible refine Kept.ite (fun _ => ?_) (fun _ => ?_)
    | simp only [↓kept_mk]; refine KeptMk.set rfl ?_ ?_
    | apply Upd.of <;> intro hp <;>
        first | exact absurd hp (by decide) | with_reducible rfl | dsimp only
    | split
    | dsimp only [id]

theorem sampleTick_changes {w₀ : Nat} {s₀ s : State} (h₀ : Kept w₀ s₀ s)  
    (hw₀ : within (parts [.trunk, .lattice]) w₀ = true := by decide) :
    Kept w₀ s₀ (sampleTick s) := by
  refine h₀.trans (v := parts [.trunk, .lattice]) ?_ hw₀
  clear h₀ hw₀
  unfold sampleTick
  try dsimp only
  repeat' first
    | with_reducible first | exact Kept.refl _ _ | assumption
    | with_reducible first | refine takePeaks_changes ?_
    | with_reducible refine Kept.ite (fun _ => ?_) (fun _ => ?_)
    | simp only [↓kept_mk]; refine KeptMk.set rfl ?_ ?_
    | apply Upd.of <;> intro hp <;>
        first | exact absurd hp (by decide) | with_reducible rfl | dsimp only
    | split
    | dsimp only [id]

theorem holdWhenIdle_changes {w₀ : Nat} {s₀ s : State} (h₀ : Kept w₀ s₀ s)  (b : Bough)
    (hw₀ : within (parts [.free, .events, .ports, .modems, .association, .sessions, .powerLinks, .safety, .billed, .heartwood, .loads, .display, .memory, .cells, .recorder, .flash]) w₀ = true := by decide) :
    Kept w₀ s₀ (holdWhenIdle b s) := by
  refine h₀.trans (v := parts [.free, .events, .ports, .modems, .association, .sessions, .powerLinks, .safety, .billed, .heartwood, .loads, .display, .memory, .cells, .recorder, .flash]) ?_ hw₀
  clear h₀ hw₀
  unfold holdWhenIdle
  try dsimp only
  repeat' first
    | with_reducible first | exact Kept.refl _ _ | assumption
    | with_reducible first | refine holdSession_changes ?_ _ _ | refine onSaf_changes_view ?_ _ _ ?_
    | exact SameView.of fun x => by first | rfl | (dsimp only; split <;> rfl)
    | with_reducible refine Kept.ite (fun _ => ?_) (fun _ => ?_)
    | simp only [↓kept_mk]; refine KeptMk.set rfl ?_ ?_
    | apply Upd.of <;> intro hp <;>
        first | exact absurd hp (by decide) | with_reducible rfl | dsimp only
    | split
    | dsimp only [id]

theorem openWindow_changes {w₀ : Nat} {s₀ s : State} (h₀ : Kept w₀ s₀ s)  (b : Bough)
    (hw₀ : within (parts [.ports]) w₀ = true := by decide) :
    Kept w₀ s₀ (openWindow b s) := by
  refine h₀.trans (v := parts [.ports]) ?_ hw₀
  clear h₀ hw₀
  unfold openWindow
  try dsimp only
  repeat' first
    | with_reducible first | exact Kept.refl _ _ | assumption
    | with_reducible first | refine onPort_changes ?_ _ _
    | with_reducible refine Kept.ite (fun _ => ?_) (fun _ => ?_)
    | simp only [↓kept_mk]; refine KeptMk.set rfl ?_ ?_
    | apply Upd.of <;> intro hp <;>
        first | exact absurd hp (by decide) | with_reducible rfl | dsimp only
    | split
    | dsimp only [id]

theorem pilotEdge_changes {w₀ : Nat} {s₀ s : State} (h₀ : Kept w₀ s₀ s)  (b : Bough)
    (hw₀ : within (parts [.ports]) w₀ = true := by decide) :
    Kept w₀ s₀ (pilotEdge b s) := by
  refine h₀.trans (v := parts [.ports]) ?_ hw₀
  clear h₀ hw₀
  unfold pilotEdge
  try dsimp only
  repeat' first
    | with_reducible first | exact Kept.refl _ _ | assumption
    | with_reducible first | refine openWindow_changes ?_ _ | refine onPort_changes ?_ _ _
    | with_reducible refine Kept.ite (fun _ => ?_) (fun _ => ?_)
    | simp only [↓kept_mk]; refine KeptMk.set rfl ?_ ?_
    | apply Upd.of <;> intro hp <;>
        first | exact absurd hp (by decide) | with_reducible rfl | dsimp only
    | split
    | dsimp only [id]

theorem auxEdge_changes {w₀ : Nat} {s₀ s : State} (h₀ : Kept w₀ s₀ s)  
    (hw₀ : within (parts [.free, .loads]) w₀ = true := by decide) :
    Kept w₀ s₀ (auxEdge s) := by
  refine h₀.trans (v := parts [.free, .loads]) ?_ hw₀
  clear h₀ hw₀
  unfold auxEdge
  try dsimp only
  repeat' first
    | with_reducible first | exact Kept.refl _ _ | assumption
    | with_reducible first | refine auxDrive_changes ?_ _ | refine onAux_changes ?_ _ _
    | with_reducible first | refine Kept.foldl _ _ ?_ fun u x hu => ?_
    | with_reducible refine Kept.ite (fun _ => ?_) (fun _ => ?_)
    | simp only [↓kept_mk]; refine KeptMk.set rfl ?_ ?_
    | apply Upd.of <;> intro hp <;>
        first | exact absurd hp (by decide) | with_reducible rfl | dsimp only
    | split
    | dsimp only [id]

theorem auxEdges_changes {w₀ : Nat} {s₀ s : State} (h₀ : Kept w₀ s₀ s)  
    (hw₀ : within (parts [.loads]) w₀ = true := by decide) :
    Kept w₀ s₀ (auxEdges s) := by
  refine h₀.trans (v := parts [.loads]) ?_ hw₀
  clear h₀ hw₀
  unfold auxEdges
  try dsimp only
  repeat' first
    | with_reducible first | exact Kept.refl _ _ | assumption
    | with_reducible first | refine pwmEdge_changes ?_ _ | refine Kept.foldl _ _ ?_ fun u x hu => ?_
    | with_reducible refine Kept.ite (fun _ => ?_) (fun _ => ?_)
    | split
    | dsimp only [id]

theorem endPortSlice_changes {w₀ : Nat} {s₀ s : State} (h₀ : Kept w₀ s₀ s)  
    (hw₀ : within (parts [.link, .memory]) w₀ = true := by decide) :
    Kept w₀ s₀ (endPortSlice s) := by
  refine h₀.trans (v := parts [.link, .memory]) ?_ hw₀
  clear h₀ hw₀
  unfold endPortSlice
  try dsimp only
  repeat' first
    | with_reducible first | exact Kept.refl _ _ | assumption
    | with_reducible refine Kept.ite (fun _ => ?_) (fun _ => ?_)
    | simp only [↓kept_mk]; refine KeptMk.set rfl ?_ ?_
    | apply Upd.of <;> intro hp <;>
        first | exact absurd hp (by decide) | with_reducible rfl | dsimp only
    | split
    | dsimp only [id]

theorem secondBough_changes {w₀ : Nat} {s₀ s : State} (h₀ : Kept w₀ s₀ s)  (b : Bough)
    (hw₀ : within (parts [.events, .powerLinks, .sampling, .energy, .averages, .quantities, .billed, .recorder]) w₀ = true := by decide) :
    Kept w₀ s₀ (secondBough b s) := by
  refine h₀.trans (v := parts [.events, .powerLinks, .sampling, .energy, .averages, .quantities, .billed, .recorder]) ?_ hw₀
  clear h₀ hw₀
  unfold secondBough
  try dsimp only
  repeat' first
    | with_reducible first | exact Kept.refl _ _ | assumption
    | with_reducible first | refine closeSecond_changes ?_ _ | refine emit_changes ?_ _ _ _
    | with_reducible first | refine onBil_changes ?_ _ _ | refine onMtr_changes ?_ _ _ | refine onNrg_changes ?_ _ _
    | with_reducible first | refine onSesL_changes ?_ _ _
    | with_reducible refine Kept.ite (fun _ => ?_) (fun _ => ?_)
    | simp only [↓kept_mk]; refine KeptMk.set rfl ?_ ?_
    | apply Upd.of <;> intro hp <;>
        first | exact absurd hp (by decide) | with_reducible rfl | dsimp only
    | split
    | dsimp only [id]

theorem stopWork_changes {w₀ : Nat} {s₀ s : State} (h₀ : Kept w₀ s₀ s)  (t : Tick) (i : Fin 23)
    (hw₀ : within (parts [.free, .events, .link, .ports, .modems, .association, .sessions, .powerLinks, .coils, .safety, .sampling, .energy, .averages, .quantities, .billed, .heartwood, .loads, .display, .memory, .cells, .recorder, .flash]) w₀ = true := by decide) :
    Kept w₀ s₀ (stopWork t i s) := by
  refine h₀.trans (v := parts [.free, .events, .link, .ports, .modems, .association, .sessions, .powerLinks, .coils, .safety, .sampling, .energy, .averages, .quantities, .billed, .heartwood, .loads, .display, .memory, .cells, .recorder, .flash]) ?_ hw₀
  clear h₀ hw₀
  unfold stopWork
  try dsimp only
  repeat' first
    | with_reducible first | exact Kept.refl _ _ | assumption
    | with_reducible first | refine auxEdge_changes ?_ | refine endPortSlice_changes ?_
    | with_reducible first | refine holdCoils_changes ?_ _ | refine holdWhenIdle_changes ?_ _
    | with_reducible first | refine secondBough_changes ?_ _ | refine Kept.forBoughs _ ?_ fun b u hu => ?_
    | with_reducible first | refine Kept.forMask _ _ ?_ fun b u hu => ?_
    | with_reducible refine Kept.ite (fun _ => ?_) (fun _ => ?_)
    | simp only [↓kept_mk]; refine KeptMk.set rfl ?_ ?_
    | apply Upd.of <;> intro hp <;>
        first | exact absurd hp (by decide) | with_reducible rfl | dsimp only
    | split
    | dsimp only [id]

theorem stopTick_changes {w₀ : Nat} {s₀ s : State} (h₀ : Kept w₀ s₀ s)  (t : Tick) (busy : BitVec 23) (i : Fin 23)
    (hw₀ : within (parts [.free, .trunk, .events, .link, .ports, .modems, .association, .sessions, .powerLinks, .coils, .safety, .sampling, .energy, .averages, .quantities, .billed, .heartwood, .loads, .display, .memory, .cells, .recorder, .flash]) w₀ = true := by decide) :
    Kept w₀ s₀ (stopTick t busy i s) := by
  refine h₀.trans (v := parts [.free, .trunk, .events, .link, .ports, .modems, .association, .sessions, .powerLinks, .coils, .safety, .sampling, .energy, .averages, .quantities, .billed, .heartwood, .loads, .display, .memory, .cells, .recorder, .flash]) ?_ hw₀
  clear h₀ hw₀
  unfold stopTick
  try dsimp only
  repeat' first
    | with_reducible first | exact Kept.refl _ _ | assumption
    | with_reducible first | refine countOverrun_changes ?_ _ | refine stopWork_changes ?_ _ _
    | with_reducible refine Kept.ite (fun _ => ?_) (fun _ => ?_)
    | simp only [↓kept_mk]; refine KeptMk.set rfl ?_ ?_
    | apply Upd.of <;> intro hp <;>
        first | exact absurd hp (by decide) | with_reducible rfl | dsimp only
    | split
    | dsimp only [id]

theorem latticeWork_changes {w₀ : Nat} {s₀ s : State} (h₀ : Kept w₀ s₀ s)  (t : Tick)
    (hw₀ : within (parts [.trunk, .lattice, .events, .ports, .loads, .memory]) w₀ = true := by decide) :
    Kept w₀ s₀ (latticeWork t s) := by
  refine h₀.trans (v := parts [.trunk, .lattice, .events, .ports, .loads, .memory]) ?_ hw₀
  clear h₀ hw₀
  unfold latticeWork
  try dsimp only
  repeat' first
    | with_reducible first | exact Kept.refl _ _ | assumption
    | with_reducible first | refine auxEdges_changes ?_ | refine pilotEdge_changes ?_ _ | refine sampleTick_changes ?_
    | with_reducible first | refine Kept.forBoughs _ ?_ fun b u hu => ?_
    | with_reducible refine Kept.ite (fun _ => ?_) (fun _ => ?_)
    | simp only [↓kept_mk]; refine KeptMk.set rfl ?_ ?_
    | apply Upd.of <;> intro hp <;>
        first | exact absurd hp (by decide) | with_reducible rfl | dsimp only
    | split
    | dsimp only [id]

theorem finishCrypto_changes {w₀ : Nat} {s₀ s : State} (h₀ : Kept w₀ s₀ s)  (r : CryptoReq)
    (hw₀ : within (parts [.free, .crypto]) w₀ = true := by decide) :
    Kept w₀ s₀ (finishCrypto r s).2 := by
  refine h₀.trans (v := parts [.free, .crypto]) ?_ hw₀
  clear h₀ hw₀
  unfold finishCrypto
  try dsimp only
  repeat' first
    | with_reducible first | exact Kept.refl _ _ | assumption
    | with_reducible first | refine free_changes ?_ _
    | with_reducible refine Kept.ite (fun _ => ?_) (fun _ => ?_)
    | simp only [↓kept_mk]; refine KeptMk.set rfl ?_ ?_
    | apply Upd.of <;> intro hp <;>
        first | exact absurd hp (by decide) | with_reducible rfl | dsimp only
    | (with_reducible refine Kept.ofPair (by assumption) ?_)
    | split
    | dsimp only [id]

end Sys2Proof.Safety
end

