-- ==== Sys2Proof/Laws/Frames/Supply.lean ====
section
/-! SUPPORT. What each shared operation of Machine/Supply.lean may change. -/

set_option Elab.async false
set_option linter.unreachableTactic false
set_option linter.unusedTactic false
set_option linter.unusedSimpArgs false

namespace Sys2Proof.Safety

open Sys2Proof.Machine

theorem deviceReset_changes {w₀ : Nat} {s₀ s : State} (h₀ : Kept w₀ s₀ s)
    (hw₀ : within (parts [.trunk, .lattice, .crypto, .supply, .start, .pages, .commits, .events, .commands, .bulk, .link, .ports, .modems, .association, .sessions, .powerLinks, .sessionDev, .coils, .safety, .measures, .stops, .powerDie, .sampling, .energy, .averages, .quantities, .billed, .heartwood, .loads, .loadDev, .display, .canopy, .tag, .mirror, .keys, .memory, .cells, .recorder, .update]) w₀ = true := by decide) : Kept w₀ s₀ (deviceReset s) := by
  have hd : Kept (parts [.trunk, .lattice, .crypto, .supply, .start, .pages, .commits, .events, .commands, .bulk, .link, .ports, .modems, .association, .sessions, .powerLinks, .sessionDev, .coils, .safety, .measures, .stops, .powerDie, .sampling, .energy, .averages, .quantities, .billed, .heartwood, .loads, .loadDev, .display, .canopy, .tag, .mirror, .keys, .memory, .cells, .recorder, .update]) s (deviceReset s) := by
    intro p hp
    cases p
    all_goals first | exact absurd hp (by decide) | rfl
  exact h₀.trans hd hw₀

theorem flagTrip_changes {w₀ : Nat} {s₀ s : State} (h₀ : Kept w₀ s₀ s)  (id : Fin 13) (high : Bool)
    (hw₀ : within (parts [.backup]) w₀ = true := by decide) :
    Kept w₀ s₀ (flagTrip id high s) := by
  refine h₀.trans (v := parts [.backup]) ?_ hw₀
  clear h₀ hw₀
  unfold flagTrip
  try dsimp only
  repeat' first
    | with_reducible first | exact Kept.refl _ _ | assumption
    | with_reducible refine Kept.ite (fun _ => ?_) (fun _ => ?_)
    | simp only [↓kept_mk]; refine KeptMk.set rfl ?_ ?_
    | apply Upd.of <;> intro hp <;>
        first | exact absurd hp (by decide) | with_reducible rfl | dsimp only
    | split
    | dsimp only [id]

theorem groupOff_changes {w₀ : Nat} {s₀ s : State} (h₀ : Kept w₀ s₀ s)  (g : Nat)
    (hw₀ : within (parts [.free, .loads]) w₀ = true := by decide) :
    Kept w₀ s₀ (groupOff g s) := by
  refine h₀.trans (v := parts [.free, .loads]) ?_ hw₀
  clear h₀ hw₀
  unfold groupOff
  try dsimp only
  repeat' first
    | with_reducible first | exact Kept.refl _ _ | assumption
    | with_reducible first | refine auxDrive_changes ?_ _ | refine onAux_changes ?_ _ _
    | with_reducible first | refine Kept.foldl _ _ ?_ fun u x hu => ?_
    | with_reducible refine Kept.ite (fun _ => ?_) (fun _ => ?_)
    | simp only [↓kept_mk]; refine KeptMk.set rfl ?_ ?_
    | apply Upd.of <;> intro hp <;>
        first | exact absurd hp (by decide) | with_reducible rfl | dsimp only
    | split
    | dsimp only [id]

theorem tripReaction_changes {w₀ : Nat} {s₀ s : State} (h₀ : Kept w₀ s₀ s)  (id : Fin 13)
    (hw₀ : within (parts [.free, .events, .ports, .modems, .association, .sessions, .powerLinks, .coils, .safety, .stops, .powerDie, .billed, .heartwood, .loads, .loadDev, .display, .canopy, .memory, .cells, .recorder, .flash]) w₀ = true := by decide) :
    Kept w₀ s₀ (tripReaction id s) := by
  refine h₀.trans (v := parts [.free, .events, .ports, .modems, .association, .sessions, .powerLinks, .coils, .safety, .stops, .powerDie, .billed, .heartwood, .loads, .loadDev, .display, .canopy, .memory, .cells, .recorder, .flash]) ?_ hw₀
  clear h₀ hw₀
  unfold tripReaction
  try dsimp only
  repeat' first
    | with_reducible first | exact Kept.refl _ _ | assumption
    | with_reducible first | refine driveAll_changes ?_ | refine fsEnter_changes ?_ _ _ | refine groupOff_changes ?_ _
    | with_reducible refine Kept.ite (fun _ => ?_) (fun _ => ?_)
    | simp only [↓kept_mk]; refine KeptMk.set rfl ?_ ?_
    | apply Upd.of <;> intro hp <;>
        first | exact absurd hp (by decide) | with_reducible rfl | dsimp only
    | split
    | dsimp only [id]

theorem tripInReset_changes {w₀ : Nat} {s₀ s : State} (h₀ : Kept w₀ s₀ s)  (id : Fin 13)
    (hw₀ : within (parts [.free, .events, .ports, .modems, .association, .coils, .safety, .stops, .powerDie, .loads, .loadDev, .recorder]) w₀ = true := by decide) :
    Kept w₀ s₀ (tripInReset id s) := by
  refine h₀.trans (v := parts [.free, .events, .ports, .modems, .association, .coils, .safety, .stops, .powerDie, .loads, .loadDev, .recorder]) ?_ hw₀
  clear h₀ hw₀
  unfold tripInReset
  try dsimp only
  repeat' first
    | with_reducible first | exact Kept.refl _ _ | assumption
    | with_reducible first | refine auxAll_changes ?_ | refine driveAll_changes ?_ | refine groupOff_changes ?_ _
    | with_reducible refine Kept.ite (fun _ => ?_) (fun _ => ?_)
    | simp only [↓kept_mk]; refine KeptMk.set rfl ?_ ?_
    | apply Upd.of <;> intro hp <;>
        first | exact absurd hp (by decide) | with_reducible rfl | dsimp only
    | split
    | dsimp only [id]

theorem keepTrips_changes {w₀ : Nat} {s₀ s : State} (h₀ : Kept w₀ s₀ s)  
    (hw₀ : within (parts [.backup]) w₀ = true := by decide) :
    Kept w₀ s₀ (keepTrips s) := by
  refine h₀.trans (v := parts [.backup]) ?_ hw₀
  clear h₀ hw₀
  unfold keepTrips
  try dsimp only
  repeat' first
    | with_reducible first | exact Kept.refl _ _ | assumption
    | with_reducible first | refine flagTrip_changes ?_ _ _ | refine Kept.foldl _ _ ?_ fun u x hu => ?_
    | with_reducible refine Kept.ite (fun _ => ?_) (fun _ => ?_)
    | simp only [↓kept_mk]; refine KeptMk.set rfl ?_ ?_
    | apply Upd.of <;> intro hp <;>
        first | exact absurd hp (by decide) | with_reducible rfl | dsimp only
    | split
    | dsimp only [id]

theorem recoveryAction_changes {w₀ : Nat} {s₀ s : State} (h₀ : Kept w₀ s₀ s)  (id : Fin 13)
    (hw₀ : within (parts [.free, .events, .ports, .modems, .association, .safety, .stops, .powerDie, .loads, .loadDev, .recorder]) w₀ = true := by decide) :
    Kept w₀ s₀ (recoveryAction id s) := by
  refine h₀.trans (v := parts [.free, .events, .ports, .modems, .association, .safety, .stops, .powerDie, .loads, .loadDev, .recorder]) ?_ hw₀
  clear h₀ hw₀
  unfold recoveryAction
  try dsimp only
  repeat' first
    | with_reducible first | exact Kept.refl _ _ | assumption
    | with_reducible first | refine auxAll_changes ?_ | refine driveAll_changes ?_ | refine fsLeave_changes ?_ _
    | with_reducible refine Kept.ite (fun _ => ?_) (fun _ => ?_)
    | simp only [↓kept_mk]; refine KeptMk.set rfl ?_ ?_
    | apply Upd.of <;> intro hp <;>
        first | exact absurd hp (by decide) | with_reducible rfl | dsimp only
    | split
    | dsimp only [id]

theorem groupWaits_changes {w₀ : Nat} {s₀ s : State} (h₀ : Kept w₀ s₀ s)  (id : Fin 13)
    (hw₀ : within (parts [.free, .loads]) w₀ = true := by decide) :
    Kept w₀ s₀ (groupWaits id s) := by
  refine h₀.trans (v := parts [.free, .loads]) ?_ hw₀
  clear h₀ hw₀
  unfold groupWaits
  try dsimp only
  repeat' first
    | with_reducible first | exact Kept.refl _ _ | assumption
    | with_reducible first | refine groupOff_changes ?_ _
    | with_reducible refine Kept.ite (fun _ => ?_) (fun _ => ?_)
    | split
    | dsimp only [id]

end Sys2Proof.Safety
end

