-- ==== Sys2Proof/Laws/Frames/Display.lean ====
section
/-! SUPPORT. What each shared operation of Machine/Display.lean may change. -/

set_option Elab.async false
set_option linter.unreachableTactic false
set_option linter.unusedTactic false
set_option linter.unusedSimpArgs false

namespace Sys2Proof.Safety

open Sys2Proof.Machine

theorem rateLabel_changes {w₀ : Nat} {s₀ s : State} (h₀ : Kept w₀ s₀ s)  
    (hw₀ : within (parts [.free]) w₀ = true := by decide) :
    Kept w₀ s₀ (rateLabel s).2 := by
  refine h₀.trans (v := parts [.free]) ?_ hw₀
  clear h₀ hw₀
  unfold rateLabel
  try dsimp only
  repeat' first
    | with_reducible first | exact Kept.refl _ _ | assumption
    | with_reducible first | refine free_changes ?_ _
    | with_reducible refine Kept.ite (fun _ => ?_) (fun _ => ?_)
    | simp only [↓kept_mk]; refine KeptMk.set rfl ?_ ?_
    | apply Upd.of <;> intro hp <;>
        first | exact absurd hp (by decide) | with_reducible rfl | dsimp only
    | (with_reducible refine Kept.ofPair (by assumption) ?_)
    | split
    | dsimp only [id]

theorem measureVlcd_changes {w₀ : Nat} {s₀ s : State} (h₀ : Kept w₀ s₀ s)  (lo hi : Nat)
    (hw₀ : within (parts [.free, .display]) w₀ = true := by decide) :
    Kept w₀ s₀ (measureVlcd lo hi s) := by
  refine h₀.trans (v := parts [.free, .display]) ?_ hw₀
  clear h₀ hw₀
  unfold measureVlcd
  try dsimp only
  repeat' first
    | with_reducible first | exact Kept.refl _ _ | assumption
    | with_reducible first | refine free_changes ?_ _
    | with_reducible refine Kept.ite (fun _ => ?_) (fun _ => ?_)
    | simp only [↓kept_mk]; refine KeptMk.set rfl ?_ ?_
    | apply Upd.of <;> intro hp <;>
        first | exact absurd hp (by decide) | with_reducible rfl | dsimp only
    | (with_reducible refine Kept.ofPair (by assumption) ?_)
    | split
    | dsimp only [id]

theorem startDisplay_changes {w₀ : Nat} {s₀ s : State} (h₀ : Kept w₀ s₀ s)  
    (hw₀ : within (parts [.display]) w₀ = true := by decide) :
    Kept w₀ s₀ (startDisplay s) := by
  refine h₀.trans (v := parts [.display]) ?_ hw₀
  clear h₀ hw₀
  unfold startDisplay
  try dsimp only
  repeat' first
    | with_reducible first | exact Kept.refl _ _ | assumption
    | with_reducible refine Kept.ite (fun _ => ?_) (fun _ => ?_)
    | simp only [↓kept_mk]; refine KeptMk.set rfl ?_ ?_
    | apply Upd.of <;> intro hp <;>
        first | exact absurd hp (by decide) | with_reducible rfl | dsimp only
    | split
    | dsimp only [id]

theorem displayOff_changes {w₀ : Nat} {s₀ s : State} (h₀ : Kept w₀ s₀ s)  
    (hw₀ : within (parts [.free, .display]) w₀ = true := by decide) :
    Kept w₀ s₀ (displayOff s) := by
  refine h₀.trans (v := parts [.free, .display]) ?_ hw₀
  clear h₀ hw₀
  unfold displayOff
  try dsimp only
  repeat' first
    | with_reducible first | exact Kept.refl _ _ | assumption
    | with_reducible first | refine measureVlcd_changes ?_ _ _
    | with_reducible refine Kept.ite (fun _ => ?_) (fun _ => ?_)
    | simp only [↓kept_mk]; refine KeptMk.set rfl ?_ ?_
    | apply Upd.of <;> intro hp <;>
        first | exact absurd hp (by decide) | with_reducible rfl | dsimp only
    | split
    | dsimp only [id]

theorem copyLines_changes {w₀ : Nat} {s₀ s : State} (h₀ : Kept w₀ s₀ s)  
    (hw₀ : within (parts [.display]) w₀ = true := by decide) :
    Kept w₀ s₀ (copyLines s) := by
  refine h₀.trans (v := parts [.display]) ?_ hw₀
  clear h₀ hw₀
  unfold copyLines
  try dsimp only
  repeat' first
    | with_reducible first | exact Kept.refl _ _ | assumption
    | with_reducible refine Kept.ite (fun _ => ?_) (fun _ => ?_)
    | simp only [↓kept_mk]; refine KeptMk.set rfl ?_ ?_
    | apply Upd.of <;> intro hp <;>
        first | exact absurd hp (by decide) | with_reducible rfl | dsimp only
    | split
    | dsimp only [id]

theorem stopFrame_changes {w₀ : Nat} {s₀ s : State} (h₀ : Kept w₀ s₀ s)  
    (hw₀ : within (parts [.free, .loads, .display]) w₀ = true := by decide) :
    Kept w₀ s₀ (stopFrame s) := by
  refine h₀.trans (v := parts [.free, .loads, .display]) ?_ hw₀
  clear h₀ hw₀
  unfold stopFrame
  try dsimp only
  repeat' first
    | with_reducible first | exact Kept.refl _ _ | assumption
    | with_reducible first | refine auxAll_changes ?_ | refine displayOff_changes ?_ | refine startDisplay_changes ?_
    | with_reducible refine Kept.ite (fun _ => ?_) (fun _ => ?_)
    | simp only [↓kept_mk]; refine KeptMk.set rfl ?_ ?_
    | apply Upd.of <;> intro hp <;>
        first | exact absurd hp (by decide) | with_reducible rfl | dsimp only
    | split
    | dsimp only [id]

end Sys2Proof.Safety
end

