-- ==== Sys2Proof/Laws/Frames/CanopyCore.lean ====
section
/-! SUPPORT. What each shared operation of Machine/CanopyCore.lean may change. -/

set_option Elab.async false
set_option linter.unreachableTactic false
set_option linter.unusedTactic false
set_option linter.unusedSimpArgs false

namespace Sys2Proof.Safety

open Sys2Proof.Machine

theorem setRole_changes {w₀ : Nat} {s₀ s : State} (h₀ : Kept w₀ s₀ s)  (r : Nat)
    (hw₀ : within (parts [.events, .canopy, .recorder]) w₀ = true := by decide) :
    Kept w₀ s₀ (setRole r s) := by
  refine h₀.trans (v := parts [.events, .canopy, .recorder]) ?_ hw₀
  clear h₀ hw₀
  unfold setRole
  try dsimp only
  repeat' first
    | with_reducible first | exact Kept.refl _ _ | assumption
    | with_reducible first | refine emit_changes ?_ _ _ _
    | with_reducible refine Kept.ite (fun _ => ?_) (fun _ => ?_)
    | simp only [↓kept_mk]; refine KeptMk.set rfl ?_ ?_
    | apply Upd.of <;> intro hp <;>
        first | exact absurd hp (by decide) | with_reducible rfl | dsimp only
    | split
    | dsimp only [id]

theorem dropSiteCeil_changes {w₀ : Nat} {s₀ s : State} (h₀ : Kept w₀ s₀ s)  
    (hw₀ : within (parts [.events, .ports, .modems, .association, .sessions, .powerLinks, .safety, .canopy, .recorder]) w₀ = true := by decide) :
    Kept w₀ s₀ (dropSiteCeil s) := by
  refine h₀.trans (v := parts [.events, .ports, .modems, .association, .sessions, .powerLinks, .safety, .canopy, .recorder]) ?_ hw₀
  clear h₀ hw₀
  unfold dropSiteCeil
  try dsimp only
  repeat' first
    | with_reducible first | exact Kept.refl _ _ | assumption
    | with_reducible first | refine emit_changes ?_ _ _ _ | refine recalcAll_changes ?_
    | with_reducible refine Kept.ite (fun _ => ?_) (fun _ => ?_)
    | simp only [↓kept_mk]; refine KeptMk.set rfl ?_ ?_
    | apply Upd.of <;> intro hp <;>
        first | exact absurd hp (by decide) | with_reducible rfl | dsimp only
    | split
    | dsimp only [id]

theorem dropMessages_changes {w₀ : Nat} {s₀ s : State} (h₀ : Kept w₀ s₀ s)  
    (hw₀ : within (parts [.events, .canopy, .recorder]) w₀ = true := by decide) :
    Kept w₀ s₀ (dropMessages s) := by
  refine h₀.trans (v := parts [.events, .canopy, .recorder]) ?_ hw₀
  clear h₀ hw₀
  unfold dropMessages
  try dsimp only
  repeat' first
    | with_reducible first | exact Kept.refl _ _ | assumption
    | with_reducible first | refine answer_changes ?_ _ _ _ _ | refine Kept.foldl _ _ ?_ fun u x hu => ?_
    | with_reducible refine Kept.ite (fun _ => ?_) (fun _ => ?_)
    | simp only [↓kept_mk]; refine KeptMk.set rfl ?_ ?_
    | apply Upd.of <;> intro hp <;>
        first | exact absurd hp (by decide) | with_reducible rfl | dsimp only
    | split
    | dsimp only [id]

theorem leaveSite_changes {w₀ : Nat} {s₀ s : State} (h₀ : Kept w₀ s₀ s)  (r : Nat)
    (hw₀ : within (parts [.events, .ports, .modems, .association, .sessions, .powerLinks, .safety, .canopy, .recorder]) w₀ = true := by decide) :
    Kept w₀ s₀ (leaveSite r s) := by
  refine h₀.trans (v := parts [.events, .ports, .modems, .association, .sessions, .powerLinks, .safety, .canopy, .recorder]) ?_ hw₀
  clear h₀ hw₀
  unfold leaveSite
  try dsimp only
  repeat' first
    | with_reducible first | exact Kept.refl _ _ | assumption
    | with_reducible first | refine dropMessages_changes ?_ | refine dropSiteCeil_changes ?_
    | with_reducible first | refine setRole_changes ?_ _
    | with_reducible refine Kept.ite (fun _ => ?_) (fun _ => ?_)
    | simp only [↓kept_mk]; refine KeptMk.set rfl ?_ ?_
    | apply Upd.of <;> intro hp <;>
        first | exact absurd hp (by decide) | with_reducible rfl | dsimp only
    | split
    | dsimp only [id]

theorem cnpOff_changes {w₀ : Nat} {s₀ s : State} (h₀ : Kept w₀ s₀ s)  
    (hw₀ : within (parts [.events, .ports, .modems, .association, .sessions, .powerLinks, .safety, .canopy, .recorder]) w₀ = true := by decide) :
    Kept w₀ s₀ (cnpOff s) := by
  refine h₀.trans (v := parts [.events, .ports, .modems, .association, .sessions, .powerLinks, .safety, .canopy, .recorder]) ?_ hw₀
  clear h₀ hw₀
  unfold cnpOff
  try dsimp only
  repeat' first
    | with_reducible first | exact Kept.refl _ _ | assumption
    | with_reducible first | refine leaveSite_changes ?_ _
    | with_reducible refine Kept.ite (fun _ => ?_) (fun _ => ?_)
    | simp only [↓kept_mk]; refine KeptMk.set rfl ?_ ?_
    | apply Upd.of <;> intro hp <;>
        first | exact absurd hp (by decide) | with_reducible rfl | dsimp only
    | split
    | dsimp only [id]

theorem cnpListen_changes {w₀ : Nat} {s₀ s : State} (h₀ : Kept w₀ s₀ s)  (r : Nat)
    (hw₀ : within (parts [.events, .canopy, .recorder]) w₀ = true := by decide) :
    Kept w₀ s₀ (cnpListen r s) := by
  refine h₀.trans (v := parts [.events, .canopy, .recorder]) ?_ hw₀
  clear h₀ hw₀
  unfold cnpListen
  try dsimp only
  repeat' first
    | with_reducible first | exact Kept.refl _ _ | assumption
    | with_reducible first | refine setRole_changes ?_ _
    | with_reducible refine Kept.ite (fun _ => ?_) (fun _ => ?_)
    | simp only [↓kept_mk]; refine KeptMk.set rfl ?_ ?_
    | apply Upd.of <;> intro hp <;>
        first | exact absurd hp (by decide) | with_reducible rfl | dsimp only
    | split
    | dsimp only [id]

theorem rollCounter_changes {w₀ : Nat} {s₀ s : State} (h₀ : Kept w₀ s₀ s)  
    (hw₀ : within (parts [.canopy]) w₀ = true := by decide) :
    Kept w₀ s₀ (rollCounter s) := by
  refine h₀.trans (v := parts [.canopy]) ?_ hw₀
  clear h₀ hw₀
  unfold rollCounter
  try dsimp only
  repeat' first
    | with_reducible first | exact Kept.refl _ _ | assumption
    | with_reducible refine Kept.ite (fun _ => ?_) (fun _ => ?_)
    | simp only [↓kept_mk]; refine KeptMk.set rfl ?_ ?_
    | apply Upd.of <;> intro hp <;>
        first | exact absurd hp (by decide) | with_reducible rfl | dsimp only
    | split
    | dsimp only [id]

theorem queueFrame_changes {w₀ : Nat} {s₀ s : State} (h₀ : Kept w₀ s₀ s)  (f : CnpFrame)
    (hw₀ : within (parts [.canopy]) w₀ = true := by decide) :
    Kept w₀ s₀ (queueFrame f s) := by
  refine h₀.trans (v := parts [.canopy]) ?_ hw₀
  clear h₀ hw₀
  unfold queueFrame
  try dsimp only
  repeat' first
    | with_reducible first | exact Kept.refl _ _ | assumption
    | with_reducible refine Kept.ite (fun _ => ?_) (fun _ => ?_)
    | simp only [↓kept_mk]; refine KeptMk.set rfl ?_ ?_
    | apply Upd.of <;> intro hp <;>
        first | exact absurd hp (by decide) | with_reducible rfl | dsimp only
    | split
    | dsimp only [id]

theorem sendMsg_changes {w₀ : Nat} {s₀ s : State} (h₀ : Kept w₀ s₀ s)  (typ dst cls : Nat) (body : List Byte) (tag : Option Nat)
    (hw₀ : within (parts [.canopy]) w₀ = true := by decide) :
    Kept w₀ s₀ (sendMsg typ dst cls body tag s) := by
  refine h₀.trans (v := parts [.canopy]) ?_ hw₀
  clear h₀ hw₀
  unfold sendMsg
  try dsimp only
  repeat' first
    | with_reducible first | exact Kept.refl _ _ | assumption
    | with_reducible first | refine queueFrame_changes ?_ _ | refine rollCounter_changes ?_
    | with_reducible refine Kept.ite (fun _ => ?_) (fun _ => ?_)
    | simp only [↓kept_mk]; refine KeptMk.set rfl ?_ ?_
    | apply Upd.of <;> intro hp <;>
        first | exact absurd hp (by decide) | with_reducible rfl | dsimp only
    | split
    | dsimp only [id]

theorem refuseFrame_changes {w₀ : Nat} {s₀ s : State} (h₀ : Kept w₀ s₀ s)  (src reason : Nat)
    (hw₀ : within (parts [.events, .recorder]) w₀ = true := by decide) :
    Kept w₀ s₀ (refuseFrame src reason s) := by
  refine h₀.trans (v := parts [.events, .recorder]) ?_ hw₀
  clear h₀ hw₀
  unfold refuseFrame
  try dsimp only
  repeat' first
    | with_reducible first | exact Kept.refl _ _ | assumption
    | with_reducible first | refine emit_changes ?_ _ _ _
    | with_reducible refine Kept.ite (fun _ => ?_) (fun _ => ?_)
    | split
    | dsimp only [id]

theorem noteCrx_changes {w₀ : Nat} {s₀ s : State} (h₀ : Kept w₀ s₀ s)  
    (hw₀ : within (parts [.trunk]) w₀ = true := by decide) :
    Kept w₀ s₀ (noteCrx s) := by
  refine h₀.trans (v := parts [.trunk]) ?_ hw₀
  clear h₀ hw₀
  unfold noteCrx
  try dsimp only
  repeat' first
    | with_reducible first | exact Kept.refl _ _ | assumption
    | with_reducible refine Kept.ite (fun _ => ?_) (fun _ => ?_)
    | simp only [↓kept_mk]; refine KeptMk.set rfl ?_ ?_
    | apply Upd.of <;> intro hp <;>
        first | exact absurd hp (by decide) | with_reducible rfl | dsimp only
    | split
    | dsimp only [id]

theorem acknowledge_changes {w₀ : Nat} {s₀ s : State} (h₀ : Kept w₀ s₀ s)  (f : CnpRx)
    (hw₀ : within (parts [.canopy]) w₀ = true := by decide) :
    Kept w₀ s₀ (acknowledge f s) := by
  refine h₀.trans (v := parts [.canopy]) ?_ hw₀
  clear h₀ hw₀
  unfold acknowledge
  try dsimp only
  repeat' first
    | with_reducible first | exact Kept.refl _ _ | assumption
    | with_reducible refine Kept.ite (fun _ => ?_) (fun _ => ?_)
    | simp only [↓kept_mk]; refine KeptMk.set rfl ?_ ?_
    | apply Upd.of <;> intro hp <;>
        first | exact absurd hp (by decide) | with_reducible rfl | dsimp only
    | split
    | dsimp only [id]

theorem collect_changes {w₀ : Nat} {s₀ s : State} (h₀ : Kept w₀ s₀ s)  (f : CnpRx)
    (hw₀ : within (parts [.canopy]) w₀ = true := by decide) :
    Kept w₀ s₀ (collect f s).2 := by
  refine h₀.trans (v := parts [.canopy]) ?_ hw₀
  clear h₀ hw₀
  unfold collect
  try dsimp only
  repeat' first
    | with_reducible first | exact Kept.refl _ _ | assumption
    | with_reducible refine Kept.ite (fun _ => ?_) (fun _ => ?_)
    | simp only [↓kept_mk]; refine KeptMk.set rfl ?_ ?_
    | apply Upd.of <;> intro hp <;>
        first | exact absurd hp (by decide) | with_reducible rfl | dsimp only
    | split
    | dsimp only [id]

theorem takeMessage_changes {w : Nat} {s₀ s : State} (h : Kept w s₀ s) (f : CnpRx) (msg : List Byte)
    (act : List Byte → State → State) (hf : ∀ m u, Kept w s₀ u → Kept w s₀ (act m u))
    (hw : within (parts [.events, .recorder]) w = true := by decide) : Kept w s₀ (takeMessage f msg act s) := by
  unfold takeMessage
  split
  · exact refuseFrame_changes h _ _ hw
  · split
    · exact hf _ _ h
    · exact refuseFrame_changes h _ _ hw

theorem putPeer_changes {w₀ : Nat} {s₀ s : State} (h₀ : Kept w₀ s₀ s)  (p : Peer)
    (hw₀ : within (parts [.canopy]) w₀ = true := by decide) :
    Kept w₀ s₀ (putPeer p s) := by
  refine h₀.trans (v := parts [.canopy]) ?_ hw₀
  clear h₀ hw₀
  unfold putPeer
  try dsimp only
  repeat' first
    | with_reducible first | exact Kept.refl _ _ | assumption
    | with_reducible refine Kept.ite (fun _ => ?_) (fun _ => ?_)
    | simp only [↓kept_mk]; refine KeptMk.set rfl ?_ ?_
    | apply Upd.of <;> intro hp <;>
        first | exact absurd hp (by decide) | with_reducible rfl | dsimp only
    | split
    | dsimp only [id]

theorem dropMap_changes {w₀ : Nat} {s₀ s : State} (h₀ : Kept w₀ s₀ s)  (station : Nat)
    (hw₀ : within (parts [.events, .canopy, .recorder]) w₀ = true := by decide) :
    Kept w₀ s₀ (dropMap station s) := by
  refine h₀.trans (v := parts [.events, .canopy, .recorder]) ?_ hw₀
  clear h₀ hw₀
  unfold dropMap
  try dsimp only
  repeat' first
    | with_reducible first | exact Kept.refl _ _ | assumption
    | with_reducible first | refine emit_changes ?_ _ _ _ | refine putPeer_changes ?_ _
    | with_reducible refine Kept.ite (fun _ => ?_) (fun _ => ?_)
    | simp only [↓kept_mk]; refine KeptMk.set rfl ?_ ?_
    | apply Upd.of <;> intro hp <;>
        first | exact absurd hp (by decide) | with_reducible rfl | dsimp only
    | split
    | dsimp only [id]

theorem sendMap_changes {w₀ : Nat} {s₀ s : State} (h₀ : Kept w₀ s₀ s)  (p : Peer) (c : Nat)
    (hw₀ : within (parts [.canopy]) w₀ = true := by decide) :
    Kept w₀ s₀ (sendMap p c s) := by
  refine h₀.trans (v := parts [.canopy]) ?_ hw₀
  clear h₀ hw₀
  unfold sendMap
  try dsimp only
  repeat' first
    | with_reducible first | exact Kept.refl _ _ | assumption
    | with_reducible first | refine putPeer_changes ?_ _ | refine sendMsg_changes ?_ _ _ _ _ _
    | with_reducible refine Kept.ite (fun _ => ?_) (fun _ => ?_)
    | simp only [↓kept_mk]; refine KeptMk.set rfl ?_ ?_
    | apply Upd.of <;> intro hp <;>
        first | exact absurd hp (by decide) | with_reducible rfl | dsimp only
    | split
    | dsimp only [id]

theorem deriveMap_changes {w₀ : Nat} {s₀ s : State} (h₀ : Kept w₀ s₀ s)  (f : CnpRx)
    (hw₀ : within (parts [.canopy]) w₀ = true := by decide) :
    Kept w₀ s₀ (deriveMap f s) := by
  refine h₀.trans (v := parts [.canopy]) ?_ hw₀
  clear h₀ hw₀
  unfold deriveMap
  try dsimp only
  repeat' first
    | with_reducible first | exact Kept.refl _ _ | assumption
    | with_reducible first | refine putPeer_changes ?_ _ | refine sendMap_changes ?_ _ _
    | with_reducible refine Kept.ite (fun _ => ?_) (fun _ => ?_)
    | simp only [↓kept_mk]; refine KeptMk.set rfl ?_ ?_
    | apply Upd.of <;> intro hp <;>
        first | exact absurd hp (by decide) | with_reducible rfl | dsimp only
    | split
    | dsimp only [id]

theorem switchKey_changes {w₀ : Nat} {s₀ s : State} (h₀ : Kept w₀ s₀ s)  
    (hw₀ : within (parts [.events, .canopy, .recorder]) w₀ = true := by decide) :
    Kept w₀ s₀ (switchKey s) := by
  refine h₀.trans (v := parts [.events, .canopy, .recorder]) ?_ hw₀
  clear h₀ hw₀
  unfold switchKey
  try dsimp only
  repeat' first
    | with_reducible first | exact Kept.refl _ _ | assumption
    | with_reducible first | refine emit_changes ?_ _ _ _
    | with_reducible refine Kept.ite (fun _ => ?_) (fun _ => ?_)
    | simp only [↓kept_mk]; refine KeptMk.set rfl ?_ ?_
    | apply Upd.of <;> intro hp <;>
        first | exact absurd hp (by decide) | with_reducible rfl | dsimp only
    | split
    | dsimp only [id]

theorem passWindow_changes {w₀ : Nat} {s₀ s : State} (h₀ : Kept w₀ s₀ s)  
    (hw₀ : within (parts [.canopy]) w₀ = true := by decide) :
    Kept w₀ s₀ (passWindow s) := by
  refine h₀.trans (v := parts [.canopy]) ?_ hw₀
  clear h₀ hw₀
  unfold passWindow
  try dsimp only
  repeat' first
    | with_reducible first | exact Kept.refl _ _ | assumption
    | with_reducible first | refine sendMsg_changes ?_ _ _ _ _ _ | refine Kept.foldl _ _ ?_ fun u x hu => ?_
    | with_reducible refine Kept.ite (fun _ => ?_) (fun _ => ?_)
    | simp only [↓kept_mk]; refine KeptMk.set rfl ?_ ?_
    | apply Upd.of <;> intro hp <;>
        first | exact absurd hp (by decide) | with_reducible rfl | dsimp only
    | split
    | dsimp only [id]

theorem passTurn_changes {w₀ : Nat} {s₀ s : State} (h₀ : Kept w₀ s₀ s)  
    (hw₀ : within (parts [.events, .canopy, .recorder]) w₀ = true := by decide) :
    Kept w₀ s₀ (passTurn s) := by
  refine h₀.trans (v := parts [.events, .canopy, .recorder]) ?_ hw₀
  clear h₀ hw₀
  unfold passTurn
  try dsimp only
  repeat' first
    | with_reducible first | exact Kept.refl _ _ | assumption
    | with_reducible first | refine passWindow_changes ?_ | refine switchKey_changes ?_
    | with_reducible refine Kept.ite (fun _ => ?_) (fun _ => ?_)
    | simp only [↓kept_mk]; refine KeptMk.set rfl ?_ ?_
    | apply Upd.of <;> intro hp <;>
        first | exact absurd hp (by decide) | with_reducible rfl | dsimp only
    | split
    | dsimp only [id]

theorem countTurn_changes {w₀ : Nat} {s₀ s : State} (h₀ : Kept w₀ s₀ s)  
    (hw₀ : within (parts [.canopy]) w₀ = true := by decide) :
    Kept w₀ s₀ (countTurn s) := by
  refine h₀.trans (v := parts [.canopy]) ?_ hw₀
  clear h₀ hw₀
  unfold countTurn
  try dsimp only
  repeat' first
    | with_reducible first | exact Kept.refl _ _ | assumption
    | with_reducible refine Kept.ite (fun _ => ?_) (fun _ => ?_)
    | simp only [↓kept_mk]; refine KeptMk.set rfl ?_ ?_
    | apply Upd.of <;> intro hp <;>
        first | exact absurd hp (by decide) | with_reducible rfl | dsimp only
    | split
    | dsimp only [id]

theorem setMembers_changes {w₀ : Nat} {s₀ s : State} (h₀ : Kept w₀ s₀ s)  (ms : List Member)
    (hw₀ : within (parts [.canopy]) w₀ = true := by decide) :
    Kept w₀ s₀ (setMembers ms s) := by
  refine h₀.trans (v := parts [.canopy]) ?_ hw₀
  clear h₀ hw₀
  unfold setMembers
  try dsimp only
  repeat' first
    | with_reducible first | exact Kept.refl _ _ | assumption
    | with_reducible refine Kept.ite (fun _ => ?_) (fun _ => ?_)
    | simp only [↓kept_mk]; refine KeptMk.set rfl ?_ ?_
    | apply Upd.of <;> intro hp <;>
        first | exact absurd hp (by decide) | with_reducible rfl | dsimp only
    | split
    | dsimp only [id]

theorem sendStatus_changes {w₀ : Nat} {s₀ s : State} (h₀ : Kept w₀ s₀ s)  
    (hw₀ : within (parts [.canopy]) w₀ = true := by decide) :
    Kept w₀ s₀ (sendStatus s) := by
  refine h₀.trans (v := parts [.canopy]) ?_ hw₀
  clear h₀ hw₀
  unfold sendStatus
  try dsimp only
  repeat' first
    | with_reducible first | exact Kept.refl _ _ | assumption
    | with_reducible first | refine sendMsg_changes ?_ _ _ _ _ _
    | with_reducible refine Kept.ite (fun _ => ?_) (fun _ => ?_)
    | split
    | dsimp only [id]

theorem takeCeilings_changes {w₀ : Nat} {s₀ s : State} (h₀ : Kept w₀ s₀ s)  (src : Nat) (turn : BitVec 32) (valid : Nat) (entries : List Want)
    (hw₀ : within (parts [.events, .ports, .modems, .association, .sessions, .powerLinks, .safety, .canopy, .recorder]) w₀ = true := by decide) :
    Kept w₀ s₀ (takeCeilings src turn valid entries s) := by
  refine h₀.trans (v := parts [.events, .ports, .modems, .association, .sessions, .powerLinks, .safety, .canopy, .recorder]) ?_ hw₀
  clear h₀ hw₀
  unfold takeCeilings
  try dsimp only
  repeat' first
    | with_reducible first | exact Kept.refl _ _ | assumption
    | with_reducible first | refine emit_changes ?_ _ _ _ | refine recalcAll_changes ?_
    | with_reducible refine Kept.ite (fun _ => ?_) (fun _ => ?_)
    | simp only [↓kept_mk]; refine KeptMk.set rfl ?_ ?_
    | apply Upd.of <;> intro hp <;>
        first | exact absurd hp (by decide) | with_reducible rfl | dsimp only
    | split
    | dsimp only [id]

end Sys2Proof.Safety
end

