-- ==== Sys2Proof/Laws/Frames/Canopy.lean ====
section
/-! SUPPORT. What each shared operation of Machine/Canopy.lean may change. -/

set_option Elab.async false
set_option linter.unreachableTactic false
set_option linter.unusedTactic false
set_option linter.unusedSimpArgs false

namespace Sys2Proof.Safety

open Sys2Proof.Machine

theorem coordTurn_changes {w₀ : Nat} {s₀ s : State} (h₀ : Kept w₀ s₀ s)  
    (hw₀ : within (parts [.canopy]) w₀ = true := by decide) :
    Kept w₀ s₀ (coordTurn s) := by
  refine h₀.trans (v := parts [.canopy]) ?_ hw₀
  clear h₀ hw₀
  unfold coordTurn
  try dsimp only
  repeat' first
    | with_reducible first | exact Kept.refl _ _ | assumption
    | with_reducible first | refine countTurn_changes ?_
    | with_reducible refine Kept.ite (fun _ => ?_) (fun _ => ?_)
    | simp only [↓kept_mk]; refine KeptMk.set rfl ?_ ?_
    | apply Upd.of <;> intro hp <;>
        first | exact absurd hp (by decide) | with_reducible rfl | dsimp only
    | split
    | dsimp only [id]

theorem ageMembers_changes {w₀ : Nat} {s₀ s : State} (h₀ : Kept w₀ s₀ s)  
    (hw₀ : within (parts [.canopy]) w₀ = true := by decide) :
    Kept w₀ s₀ (ageMembers s) := by
  refine h₀.trans (v := parts [.canopy]) ?_ hw₀
  clear h₀ hw₀
  unfold ageMembers
  try dsimp only
  repeat' first
    | with_reducible first | exact Kept.refl _ _ | assumption
    | with_reducible first | refine setMembers_changes ?_ _
    | with_reducible refine Kept.ite (fun _ => ?_) (fun _ => ?_)
    | simp only [↓kept_mk]; refine KeptMk.set rfl ?_ ?_
    | apply Upd.of <;> intro hp <;>
        first | exact absurd hp (by decide) | with_reducible rfl | dsimp only
    | split
    | dsimp only [id]

theorem loseCzc_changes {w₀ : Nat} {s₀ s : State} (h₀ : Kept w₀ s₀ s)  
    (hw₀ : within (parts [.canopy]) w₀ = true := by decide) :
    Kept w₀ s₀ (loseCzc s) := by
  refine h₀.trans (v := parts [.canopy]) ?_ hw₀
  clear h₀ hw₀
  unfold loseCzc
  try dsimp only
  repeat' first
    | with_reducible first | exact Kept.refl _ _ | assumption
    | with_reducible refine Kept.ite (fun _ => ?_) (fun _ => ?_)
    | simp only [↓kept_mk]; refine KeptMk.set rfl ?_ ?_
    | apply Upd.of <;> intro hp <;>
        first | exact absurd hp (by decide) | with_reducible rfl | dsimp only
    | split
    | dsimp only [id]

theorem czcPair_changes {w₀ : Nat} {s₀ s : State} (h₀ : Kept w₀ s₀ s)  (pairUs : Nat)
    (hw₀ : within (parts [.canopy]) w₀ = true := by decide) :
    Kept w₀ s₀ (czcPair pairUs s) := by
  refine h₀.trans (v := parts [.canopy]) ?_ hw₀
  clear h₀ hw₀
  unfold czcPair
  try dsimp only
  repeat' first
    | with_reducible first | exact Kept.refl _ _ | assumption
    | with_reducible first | refine loseCzc_changes ?_
    | with_reducible refine Kept.ite (fun _ => ?_) (fun _ => ?_)
    | simp only [↓kept_mk]; refine KeptMk.set rfl ?_ ?_
    | apply Upd.of <;> intro hp <;>
        first | exact absurd hp (by decide) | with_reducible rfl | dsimp only
    | split
    | dsimp only [id]

theorem takeTurn_changes {w₀ : Nat} {s₀ s : State} (h₀ : Kept w₀ s₀ s)  (bc : Beacon)
    (hw₀ : within (parts [.events, .canopy, .recorder]) w₀ = true := by decide) :
    Kept w₀ s₀ (takeTurn bc s) := by
  refine h₀.trans (v := parts [.events, .canopy, .recorder]) ?_ hw₀
  clear h₀ hw₀
  unfold takeTurn
  try dsimp only
  repeat' first
    | with_reducible first | exact Kept.refl _ _ | assumption
    | with_reducible first | refine emit_changes ?_ _ _ _
    | with_reducible refine Kept.ite (fun _ => ?_) (fun _ => ?_)
    | simp only [↓kept_mk]; refine KeptMk.set rfl ?_ ?_
    | apply Upd.of <;> intro hp <;>
        first | exact absurd hp (by decide) | with_reducible rfl | dsimp only
    | split
    | dsimp only [id]

theorem takeTime_changes {w₀ : Nat} {s₀ s : State} (h₀ : Kept w₀ s₀ s)  (bc : Beacon)
    (hw₀ : within (parts [.free, .pages, .commits, .events, .billed, .heartwood, .recorder, .backup, .flash]) w₀ = true := by decide) :
    Kept w₀ s₀ (takeTime bc s) := by
  refine h₀.trans (v := parts [.free, .pages, .commits, .events, .billed, .heartwood, .recorder, .backup, .flash]) ?_ hw₀
  clear h₀ hw₀
  unfold takeTime
  try dsimp only
  repeat' first
    | with_reducible first | exact Kept.refl _ _ | assumption
    | with_reducible first | refine recordOffset_changes ?_ _ | refine setOffset_changes ?_ _
    | with_reducible first | refine setTime_changes ?_ _ _ | refine free_changes ?_ _
    | with_reducible refine Kept.ite (fun _ => ?_) (fun _ => ?_)
    | (with_reducible refine Kept.ofPair (by assumption) ?_)
    | split
    | dsimp only [id]

theorem followBeacon_changes {w₀ : Nat} {s₀ s : State} (h₀ : Kept w₀ s₀ s)  (src : Nat) (bc : Beacon)
    (hw₀ : within (parts [.canopy]) w₀ = true := by decide) :
    Kept w₀ s₀ (followBeacon src bc s) := by
  refine h₀.trans (v := parts [.canopy]) ?_ hw₀
  clear h₀ hw₀
  unfold followBeacon
  try dsimp only
  repeat' first
    | with_reducible first | exact Kept.refl _ _ | assumption
    | with_reducible refine Kept.ite (fun _ => ?_) (fun _ => ?_)
    | simp only [↓kept_mk]; refine KeptMk.set rfl ?_ ?_
    | apply Upd.of <;> intro hp <;>
        first | exact absurd hp (by decide) | with_reducible rfl | dsimp only
    | split
    | dsimp only [id]

theorem askToJoin_changes {w₀ : Nat} {s₀ s : State} (h₀ : Kept w₀ s₀ s)  
    (hw₀ : within (parts [.canopy]) w₀ = true := by decide) :
    Kept w₀ s₀ (askToJoin s) := by
  refine h₀.trans (v := parts [.canopy]) ?_ hw₀
  clear h₀ hw₀
  unfold askToJoin
  try dsimp only
  repeat' first
    | with_reducible first | exact Kept.refl _ _ | assumption
    | with_reducible first | refine sendMsg_changes ?_ _ _ _ _ _
    | with_reducible refine Kept.ite (fun _ => ?_) (fun _ => ?_)
    | simp only [↓kept_mk]; refine KeptMk.set rfl ?_ ?_
    | apply Upd.of <;> intro hp <;>
        first | exact absurd hp (by decide) | with_reducible rfl | dsimp only
    | split
    | dsimp only [id]

theorem heardBeacon_changes {w₀ : Nat} {s₀ s : State} (h₀ : Kept w₀ s₀ s)  (src : Nat) (bc : Beacon)
    (hw₀ : within (parts [.free, .pages, .commits, .events, .ports, .modems, .association, .sessions, .powerLinks, .safety, .billed, .heartwood, .canopy, .recorder, .backup, .flash]) w₀ = true := by decide) :
    Kept w₀ s₀ (heardBeacon src bc s) := by
  refine h₀.trans (v := parts [.free, .pages, .commits, .events, .ports, .modems, .association, .sessions, .powerLinks, .safety, .billed, .heartwood, .canopy, .recorder, .backup, .flash]) ?_ hw₀
  clear h₀ hw₀
  unfold heardBeacon
  try dsimp only
  repeat' first
    | with_reducible first | exact Kept.refl _ _ | assumption
    | with_reducible first | refine askToJoin_changes ?_ | refine dropSiteCeil_changes ?_
    | with_reducible first | refine followBeacon_changes ?_ _ _ | refine passTurn_changes ?_
    | with_reducible first | refine sendStatus_changes ?_ | refine setRole_changes ?_ _ | refine takeTime_changes ?_ _
    | with_reducible first | refine takeTurn_changes ?_ _
    | with_reducible refine Kept.ite (fun _ => ?_) (fun _ => ?_)
    | simp only [↓kept_mk]; refine KeptMk.set rfl ?_ ?_
    | apply Upd.of <;> intro hp <;>
        first | exact absurd hp (by decide) | with_reducible rfl | dsimp only
    | split
    | dsimp only [id]

theorem answerSend_changes {w₀ : Nat} {s₀ s : State} (h₀ : Kept w₀ s₀ s)  (m : TxMsg) (r : Nat)
    (hw₀ : within (parts [.events, .recorder]) w₀ = true := by decide) :
    Kept w₀ s₀ (answerSend m r s) := by
  refine h₀.trans (v := parts [.events, .recorder]) ?_ hw₀
  clear h₀ hw₀
  unfold answerSend
  try dsimp only
  repeat' first
    | with_reducible first | exact Kept.refl _ _ | assumption
    | with_reducible first | refine answer_changes ?_ _ _ _ _
    | with_reducible refine Kept.ite (fun _ => ?_) (fun _ => ?_)
    | simp only [↓kept_mk]; refine KeptMk.set rfl ?_ ?_
    | apply Upd.of <;> intro hp <;>
        first | exact absurd hp (by decide) | with_reducible rfl | dsimp only
    | split
    | dsimp only [id]

theorem noteFrame_changes {w₀ : Nat} {s₀ s : State} (h₀ : Kept w₀ s₀ s)  (peer failed total : Nat)
    (hw₀ : within (parts [.events, .canopy, .recorder]) w₀ = true := by decide) :
    Kept w₀ s₀ (noteFrame peer failed total s) := by
  refine h₀.trans (v := parts [.events, .canopy, .recorder]) ?_ hw₀
  clear h₀ hw₀
  unfold noteFrame
  try dsimp only
  repeat' first
    | with_reducible first | exact Kept.refl _ _ | assumption
    | with_reducible first | refine dropMap_changes ?_ _ | refine putPeer_changes ?_ _
    | with_reducible refine Kept.ite (fun _ => ?_) (fun _ => ?_)
    | simp only [↓kept_mk]; refine KeptMk.set rfl ?_ ?_
    | apply Upd.of <;> intro hp <;>
        first | exact absurd hp (by decide) | with_reducible rfl | dsimp only
    | split
    | dsimp only [id]

theorem resendBlocks_changes {w₀ : Nat} {s₀ s : State} (h₀ : Kept w₀ s₀ s)  (m : TxMsg) (failed : List CnpPiece)
    (hw₀ : within (parts [.canopy]) w₀ = true := by decide) :
    Kept w₀ s₀ (resendBlocks m failed s) := by
  refine h₀.trans (v := parts [.canopy]) ?_ hw₀
  clear h₀ hw₀
  unfold resendBlocks
  try dsimp only
  repeat' first
    | with_reducible first | exact Kept.refl _ _ | assumption
    | with_reducible first | refine queueFrame_changes ?_ _
    | with_reducible refine Kept.ite (fun _ => ?_) (fun _ => ?_)
    | simp only [↓kept_mk]; refine KeptMk.set rfl ?_ ?_
    | apply Upd.of <;> intro hp <;>
        first | exact absurd hp (by decide) | with_reducible rfl | dsimp only
    | split
    | dsimp only [id]

theorem takeAck_changes {w₀ : Nat} {s₀ s : State} (h₀ : Kept w₀ s₀ s)  (m : TxMsg) (mask : BitVec 64)
    (hw₀ : within (parts [.events, .canopy, .recorder]) w₀ = true := by decide) :
    Kept w₀ s₀ (takeAck m mask s) := by
  refine h₀.trans (v := parts [.events, .canopy, .recorder]) ?_ hw₀
  clear h₀ hw₀
  unfold takeAck
  try dsimp only
  repeat' first
    | with_reducible first | exact Kept.refl _ _ | assumption
    | with_reducible first | refine answerSend_changes ?_ _ _ | refine emit_changes ?_ _ _ _
    | with_reducible first | refine noteFrame_changes ?_ _ _ _ | refine resendBlocks_changes ?_ _ _
    | with_reducible refine Kept.ite (fun _ => ?_) (fun _ => ?_)
    | simp only [↓kept_mk]; refine KeptMk.set rfl ?_ ?_
    | apply Upd.of <;> intro hp <;>
        first | exact absurd hp (by decide) | with_reducible rfl | dsimp only
    | split
    | dsimp only [id]

theorem drawBackoff_changes {w₀ : Nat} {s₀ s : State} (h₀ : Kept w₀ s₀ s)  (e : CnpFrame)
    (hw₀ : within (parts [.free, .canopy]) w₀ = true := by decide) :
    Kept w₀ s₀ (drawBackoff e s) := by
  refine h₀.trans (v := parts [.free, .canopy]) ?_ hw₀
  clear h₀ hw₀
  unfold drawBackoff
  try dsimp only
  repeat' first
    | with_reducible first | exact Kept.refl _ _ | assumption
    | with_reducible first | refine free_changes ?_ _
    | with_reducible refine Kept.ite (fun _ => ?_) (fun _ => ?_)
    | simp only [↓kept_mk]; refine KeptMk.set rfl ?_ ?_
    | apply Upd.of <;> intro hp <;>
        first | exact absurd hp (by decide) | with_reducible rfl | dsimp only
    | (with_reducible refine Kept.ofPair (by assumption) ?_)
    | split
    | dsimp only [id]

theorem giveFrame_changes {w₀ : Nat} {s₀ s : State} (h₀ : Kept w₀ s₀ s)  (e : CnpFrame)
    (hw₀ : within (parts [.canopy]) w₀ = true := by decide) :
    Kept w₀ s₀ (giveFrame e s) := by
  refine h₀.trans (v := parts [.canopy]) ?_ hw₀
  clear h₀ hw₀
  unfold giveFrame
  try dsimp only
  repeat' first
    | with_reducible first | exact Kept.refl _ _ | assumption
    | with_reducible refine Kept.ite (fun _ => ?_) (fun _ => ?_)
    | simp only [↓kept_mk]; refine KeptMk.set rfl ?_ ?_
    | apply Upd.of <;> intro hp <;>
        first | exact absurd hp (by decide) | with_reducible rfl | dsimp only
    | split
    | dsimp only [id]

theorem contend_changes {w₀ : Nat} {s₀ s : State} (h₀ : Kept w₀ s₀ s)  (e : CnpFrame) (medium : Medium)
    (hw₀ : within (parts [.free, .canopy]) w₀ = true := by decide) :
    Kept w₀ s₀ (contend e medium s).2 := by
  refine h₀.trans (v := parts [.free, .canopy]) ?_ hw₀
  clear h₀ hw₀
  unfold contend
  try dsimp only
  repeat' first
    | with_reducible first | exact Kept.refl _ _ | assumption
    | with_reducible first | refine drawBackoff_changes ?_ _ | refine giveFrame_changes ?_ _
    | with_reducible refine Kept.ite (fun _ => ?_) (fun _ => ?_)
    | simp only [↓kept_mk]; refine KeptMk.set rfl ?_ ?_
    | apply Upd.of <;> intro hp <;>
        first | exact absurd hp (by decide) | with_reducible rfl | dsimp only
    | split
    | dsimp only [id]

theorem startCanopyFrame_changes {w₀ : Nat} {s₀ s : State} (h₀ : Kept w₀ s₀ s)  (symbols built : Nat) (medium : Medium)
    (hw₀ : within (parts [.free, .canopy]) w₀ = true := by decide) :
    Kept w₀ s₀ (startCanopyFrame symbols built medium s) := by
  refine h₀.trans (v := parts [.free, .canopy]) ?_ hw₀
  clear h₀ hw₀
  unfold startCanopyFrame
  try dsimp only
  repeat' first
    | with_reducible first | exact Kept.refl _ _ | assumption
    | with_reducible first | refine contend_changes ?_ _ _ | refine giveFrame_changes ?_ _
    | with_reducible refine Kept.ite (fun _ => ?_) (fun _ => ?_)
    | simp only [↓kept_mk]; refine KeptMk.set rfl ?_ ?_
    | apply Upd.of <;> intro hp <;>
        first | exact absurd hp (by decide) | with_reducible rfl | dsimp only
    | (with_reducible refine Kept.ofPair (by assumption) ?_)
    | split
    | dsimp only [id]

end Sys2Proof.Safety
end

