-- ==== Sys2Proof/Laws/Frames/Memory.lean ====
section
/-! SUPPORT. What each shared operation of Machine/Memory.lean may change. -/

set_option Elab.async false
set_option linter.unreachableTactic false
set_option linter.unusedTactic false
set_option linter.unusedSimpArgs false

namespace Sys2Proof.Safety

open Sys2Proof.Machine

theorem foundBad_changes {w₀ : Nat} {s₀ s : State} (h₀ : Kept w₀ s₀ s)  (a action : Nat)
    (hw₀ : within (parts [.free, .events, .powerLinks, .powerDie, .heartwood, .display, .tag, .mirror, .memory, .cells, .recorder, .flash, .tagMem]) w₀ = true := by decide) :
    Kept w₀ s₀ (foundBad a action s) := by
  refine h₀.trans (v := parts [.free, .events, .powerLinks, .powerDie, .heartwood, .display, .tag, .mirror, .memory, .cells, .recorder, .flash, .tagMem]) ?_ hw₀
  clear h₀ hw₀
  unfold foundBad
  try dsimp only
  repeat' first
    | with_reducible first | exact Kept.refl _ _ | assumption
    | with_reducible first | refine fatalError_changes ?_ _ _ _ | refine restoreSlot_changes ?_ _
    | with_reducible first | refine uncorrectable_changes ?_ _ _ _
    | with_reducible refine Kept.ite (fun _ => ?_) (fun _ => ?_)
    | split
    | dsimp only [id]

theorem scrubWord_changes {w₀ : Nat} {s₀ s : State} (h₀ : Kept w₀ s₀ s)  (a : Nat)
    (hw₀ : within (parts [.free, .events, .powerLinks, .powerDie, .heartwood, .display, .tag, .mirror, .memory, .cells, .recorder, .flash, .tagMem]) w₀ = true := by decide) :
    Kept w₀ s₀ (scrubWord a s) := by
  refine h₀.trans (v := parts [.free, .events, .powerLinks, .powerDie, .heartwood, .display, .tag, .mirror, .memory, .cells, .recorder, .flash, .tagMem]) ?_ hw₀
  clear h₀ hw₀
  unfold scrubWord
  try dsimp only
  repeat' first
    | with_reducible first | exact Kept.refl _ _ | assumption
    | with_reducible first | refine corrected_changes ?_ _ _ _ | refine foundBad_changes ?_ _ _
    | with_reducible first | refine outcome_changes ?_ _
    | with_reducible refine Kept.ite (fun _ => ?_) (fun _ => ?_)
    | (with_reducible refine Kept.ofPair (by assumption) ?_)
    | split
    | dsimp only [id]

theorem scrubAt_changes {w₀ : Nat} {s₀ s : State} (h₀ : Kept w₀ s₀ s)  (a : Nat)
    (hw₀ : within (parts [.free, .events, .powerLinks, .powerDie, .heartwood, .display, .tag, .mirror, .memory, .cells, .recorder, .flash, .tagMem]) w₀ = true := by decide) :
    Kept w₀ s₀ (scrubAt a s) := by
  refine h₀.trans (v := parts [.free, .events, .powerLinks, .powerDie, .heartwood, .display, .tag, .mirror, .memory, .cells, .recorder, .flash, .tagMem]) ?_ hw₀
  clear h₀ hw₀
  unfold scrubAt
  try dsimp only
  repeat' first
    | with_reducible first | exact Kept.refl _ _ | assumption
    | with_reducible first | refine scrubWord_changes ?_ _ | refine Kept.foldl _ _ ?_ fun u x hu => ?_
    | with_reducible refine Kept.ite (fun _ => ?_) (fun _ => ?_)
    | split
    | dsimp only [id]

theorem partFailed_changes {w₀ : Nat} {s₀ s : State} (h₀ : Kept w₀ s₀ s)  (p : Fin 14)
    (hw₀ : within (parts [.free, .events, .ports, .modems, .association, .sessions, .powerLinks, .safety, .powerDie, .billed, .heartwood, .loads, .display, .canopy, .tag, .mirror, .memory, .cells, .recorder, .flash, .tagMem]) w₀ = true := by decide) :
    Kept w₀ s₀ (partFailed p s) := by
  refine h₀.trans (v := parts [.free, .events, .ports, .modems, .association, .sessions, .powerLinks, .safety, .powerDie, .billed, .heartwood, .loads, .display, .canopy, .tag, .mirror, .memory, .cells, .recorder, .flash, .tagMem]) ?_ hw₀
  clear h₀ hw₀
  unfold partFailed
  try dsimp only
  repeat' first
    | with_reducible first | exact Kept.refl _ _ | assumption
    | with_reducible first | refine cnpOff_changes ?_ | refine fatalError_changes ?_ _ _ _
    | with_reducible first | refine holdSession_changes ?_ _ _ | refine onSaf_changes_view ?_ _ _ ?_
    | exact SameView.of fun x => by first | rfl | (dsimp only; split <;> rfl)
    | with_reducible refine Kept.ite (fun _ => ?_) (fun _ => ?_)
    | simp only [↓kept_mk]; refine KeptMk.set rfl ?_ ?_
    | apply Upd.of <;> intro hp <;>
        first | exact absurd hp (by decide) | with_reducible rfl | dsimp only
    | split
    | dsimp only [id]

theorem endRun_changes {w₀ : Nat} {s₀ s : State} (h₀ : Kept w₀ s₀ s)  (p : Fin 14) (sig : BitVec 32)
    (hw₀ : within (parts [.free, .events, .ports, .modems, .association, .sessions, .powerLinks, .safety, .powerDie, .billed, .heartwood, .loads, .display, .canopy, .tag, .mirror, .memory, .cells, .recorder, .flash, .tagMem]) w₀ = true := by decide) :
    Kept w₀ s₀ (endRun p sig s) := by
  refine h₀.trans (v := parts [.free, .events, .ports, .modems, .association, .sessions, .powerLinks, .safety, .powerDie, .billed, .heartwood, .loads, .display, .canopy, .tag, .mirror, .memory, .cells, .recorder, .flash, .tagMem]) ?_ hw₀
  clear h₀ hw₀
  unfold endRun
  try dsimp only
  repeat' first
    | with_reducible first | exact Kept.refl _ _ | assumption
    | with_reducible first | refine emit_changes ?_ _ _ _ | refine partFailed_changes ?_ _
    | with_reducible refine Kept.ite (fun _ => ?_) (fun _ => ?_)
    | simp only [↓kept_mk]; refine KeptMk.set rfl ?_ ?_
    | apply Upd.of <;> intro hp <;>
        first | exact absurd hp (by decide) | with_reducible rfl | dsimp only
    | split
    | dsimp only [id]

theorem marchAt_changes {w₀ : Nat} {s₀ s : State} (h₀ : Kept w₀ s₀ s)  (a : Nat) (hard : List (Nat × Nat))
    (hw₀ : within (parts [.free, .events, .powerLinks, .powerDie, .heartwood, .display, .tag, .mirror, .memory, .cells, .recorder, .flash, .tagMem]) w₀ = true := by decide) :
    Kept w₀ s₀ (marchAt a hard s) := by
  refine h₀.trans (v := parts [.free, .events, .powerLinks, .powerDie, .heartwood, .display, .tag, .mirror, .memory, .cells, .recorder, .flash, .tagMem]) ?_ hw₀
  clear h₀ hw₀
  unfold marchAt
  try dsimp only
  repeat' first
    | with_reducible first | exact Kept.refl _ _ | assumption
    | with_reducible first | refine foundBad_changes ?_ _ _ | refine outcome_changes ?_ _
    | with_reducible first | refine repairHard_changes ?_ _ _ _ | refine Kept.foldl _ _ ?_ fun u x hu => ?_
    | with_reducible refine Kept.ite (fun _ => ?_) (fun _ => ?_)
    | (with_reducible refine Kept.ofPair (by assumption) ?_)
    | split
    | dsimp only [id]

theorem marchNext_changes {w₀ : Nat} {s₀ s : State} (h₀ : Kept w₀ s₀ s)  
    (hw₀ : within (parts [.memory]) w₀ = true := by decide) :
    Kept w₀ s₀ (marchNext s) := by
  refine h₀.trans (v := parts [.memory]) ?_ hw₀
  clear h₀ hw₀
  unfold marchNext
  try dsimp only
  repeat' first
    | with_reducible first | exact Kept.refl _ _ | assumption
    | with_reducible refine Kept.ite (fun _ => ?_) (fun _ => ?_)
    | simp only [↓kept_mk]; refine KeptMk.set rfl ?_ ?_
    | apply Upd.of <;> intro hp <;>
        first | exact absurd hp (by decide) | with_reducible rfl | dsimp only
    | split
    | dsimp only [id]

theorem injectedData_changes {w₀ : Nat} {s₀ s : State} (h₀ : Kept w₀ s₀ s)  (data : BitVec 64) (o : Nat)
    (hw₀ : within (parts [.free]) w₀ = true := by decide) :
    Kept w₀ s₀ (injectedData data o s).2 := by
  refine h₀.trans (v := parts [.free]) ?_ hw₀
  clear h₀ hw₀
  unfold injectedData
  try dsimp only
  repeat' first
    | with_reducible first | exact Kept.refl _ _ | assumption
    | with_reducible first | refine free_changes ?_ _
    | with_reducible refine Kept.ite (fun _ => ?_) (fun _ => ?_)
    | (with_reducible refine Kept.ofPair (by assumption) ?_)
    | split
    | dsimp only [id]

end Sys2Proof.Safety
end

