-- ==== Sys2Proof/Laws/Frames/TagOps.lean ====
section
/-! SUPPORT. What each shared operation of Machine/TagOps.lean may change. -/

set_option Elab.async false
set_option linter.unreachableTactic false
set_option linter.unusedTactic false
set_option linter.unusedSimpArgs false

namespace Sys2Proof.Safety

open Sys2Proof.Machine

theorem whileVio_changes {w : Nat} {s₀ s : State} (h : Kept w s₀ s) (f : State → State)
    (hf : ∀ u, Kept w s₀ u → Kept w s₀ (f u)) : Kept w s₀ (whileVio f s) := by
  unfold whileVio
  split
  · exact hf s h
  · exact h

theorem updateIdentity_changes {w₀ : Nat} {s₀ s : State} (h₀ : Kept w₀ s₀ s)  (afi cfg seq : Nat) (label : List Byte)
    (hw₀ : within (parts [.tag, .mirror, .tagMem]) w₀ = true := by decide) :
    Kept w₀ s₀ (updateIdentity afi cfg seq label s) := by
  refine h₀.trans (v := parts [.tag, .mirror, .tagMem]) ?_ hw₀
  clear h₀ hw₀
  unfold updateIdentity
  try dsimp only
  repeat' first
    | with_reducible first | exact Kept.refl _ _ | assumption
    | with_reducible first | refine tagWritePage_changes ?_ _ _
    | with_reducible refine Kept.ite (fun _ => ?_) (fun _ => ?_)
    | split
    | dsimp only [id]

theorem refreshIdentity_changes {w₀ : Nat} {s₀ s : State} (h₀ : Kept w₀ s₀ s)  
    (hw₀ : within (parts [.tag, .mirror, .tagMem]) w₀ = true := by decide) :
    Kept w₀ s₀ (refreshIdentity s) := by
  refine h₀.trans (v := parts [.tag, .mirror, .tagMem]) ?_ hw₀
  clear h₀ hw₀
  unfold refreshIdentity
  try dsimp only
  repeat' first
    | with_reducible first | exact Kept.refl _ _ | assumption
    | with_reducible first | refine updateIdentity_changes ?_ _ _ _ _
    | with_reducible refine Kept.ite (fun _ => ?_) (fun _ => ?_)
    | split
    | dsimp only [id]

theorem notePageCrc_changes {w₀ : Nat} {s₀ s : State} (h₀ : Kept w₀ s₀ s)  (p : Nat)
    (hw₀ : within (parts [.events, .recorder]) w₀ = true := by decide) :
    Kept w₀ s₀ (notePageCrc p s) := by
  refine h₀.trans (v := parts [.events, .recorder]) ?_ hw₀
  clear h₀ hw₀
  unfold notePageCrc
  try dsimp only
  repeat' first
    | with_reducible first | exact Kept.refl _ _ | assumption
    | with_reducible first | refine emit_changes ?_ _ _ _ | refine whileVio_changes ?_ _ (fun u hu => ?_)
    | with_reducible refine Kept.ite (fun _ => ?_) (fun _ => ?_)
    | split
    | dsimp only [id]

theorem startIdentity_changes {w₀ : Nat} {s₀ s : State} (h₀ : Kept w₀ s₀ s)  
    (hw₀ : within (parts [.events, .tag, .mirror, .recorder, .tagMem]) w₀ = true := by decide) :
    Kept w₀ s₀ (startIdentity s) := by
  refine h₀.trans (v := parts [.events, .tag, .mirror, .recorder, .tagMem]) ?_ hw₀
  clear h₀ hw₀
  unfold startIdentity
  try dsimp only
  repeat' first
    | with_reducible first | exact Kept.refl _ _ | assumption
    | with_reducible first | refine notePageCrc_changes ?_ _ | refine refreshIdentity_changes ?_
    | with_reducible first | refine updateIdentity_changes ?_ _ _ _ _
    | with_reducible refine Kept.ite (fun _ => ?_) (fun _ => ?_)
    | split
    | dsimp only [id]

theorem drawSlot_changes {w₀ : Nat} {s₀ s : State} (h₀ : Kept w₀ s₀ s)  (n : Nat)
    (hw₀ : within (parts [.free, .tag]) w₀ = true := by decide) :
    Kept w₀ s₀ (drawSlot n s) := by
  refine h₀.trans (v := parts [.free, .tag]) ?_ hw₀
  clear h₀ hw₀
  unfold drawSlot
  try dsimp only
  repeat' first
    | with_reducible first | exact Kept.refl _ _ | assumption
    | with_reducible first | refine free_changes ?_ _
    | with_reducible refine Kept.ite (fun _ => ?_) (fun _ => ?_)
    | simp only [↓kept_mk]; refine KeptMk.set rfl ?_ ?_
    | apply Upd.of <;> intro hp <;>
        first | exact absurd hp (by decide) | with_reducible rfl | dsimp only
    | (with_reducible refine Kept.ofPair (by assumption) ?_)
    | split
    | dsimp only [id]

theorem anticollision_changes {w₀ : Nat} {s₀ s : State} (h₀ : Kept w₀ s₀ s)  (afi : Byte) (slots : Nat)
    (hw₀ : within (parts [.free, .tag]) w₀ = true := by decide) :
    Kept w₀ s₀ (anticollision afi slots s) := by
  refine h₀.trans (v := parts [.free, .tag]) ?_ hw₀
  clear h₀ hw₀
  unfold anticollision
  try dsimp only
  repeat' first
    | with_reducible first | exact Kept.refl _ _ | assumption
    | with_reducible first | refine drawSlot_changes ?_ _
    | with_reducible refine Kept.ite (fun _ => ?_) (fun _ => ?_)
    | split
    | dsimp only [id]

theorem fieldGone_changes {w₀ : Nat} {s₀ s : State} (h₀ : Kept w₀ s₀ s)  
    (hw₀ : within (parts [.events, .tag, .recorder]) w₀ = true := by decide) :
    Kept w₀ s₀ (fieldGone s) := by
  refine h₀.trans (v := parts [.events, .tag, .recorder]) ?_ hw₀
  clear h₀ hw₀
  unfold fieldGone
  try dsimp only
  repeat' first
    | with_reducible first | exact Kept.refl _ _ | assumption
    | with_reducible first | refine emit_changes ?_ _ _ _ | refine raiseIrq_changes ?_ _
    | with_reducible first | refine whileVio_changes ?_ _ (fun u hu => ?_)
    | with_reducible refine Kept.ite (fun _ => ?_) (fun _ => ?_)
    | simp only [↓kept_mk]; refine KeptMk.set rfl ?_ ?_
    | apply Upd.of <;> intro hp <;>
        first | exact absurd hp (by decide) | with_reducible rfl | dsimp only
    | split
    | dsimp only [id]

theorem mirrorFrom_changes {w₀ : Nat} {s₀ s : State} (h₀ : Kept w₀ s₀ s)  (p : Nat) (bs : List Byte)
    (hw₀ : within (parts [.tag, .mirror]) w₀ = true := by decide) :
    Kept w₀ s₀ (mirrorFrom p bs s) := by
  refine h₀.trans (v := parts [.tag, .mirror]) ?_ hw₀
  clear h₀ hw₀
  unfold mirrorFrom
  try dsimp only
  repeat' first
    | with_reducible first | exact Kept.refl _ _ | assumption
    | with_reducible refine Kept.ite (fun _ => ?_) (fun _ => ?_)
    | simp only [↓kept_mk]; refine KeptMk.set rfl ?_ ?_
    | apply Upd.of <;> intro hp <;>
        first | exact absurd hp (by decide) | with_reducible rfl | dsimp only
    | split
    | dsimp only [id]

theorem recoverPair_changes {w₀ : Nat} {s₀ s : State} (h₀ : Kept w₀ s₀ s)  (e : Nat × Nat × Nat)
    (hw₀ : within (parts [.events, .tag, .mirror, .recorder, .tagMem, .stored]) w₀ = true := by decide) :
    Kept w₀ s₀ (recoverPair e s) := by
  refine h₀.trans (v := parts [.events, .tag, .mirror, .recorder, .tagMem, .stored]) ?_ hw₀
  clear h₀ hw₀
  unfold recoverPair
  try dsimp only
  repeat' first
    | with_reducible first | exact Kept.refl _ _ | assumption
    | with_reducible first | refine emit_changes ?_ _ _ _ | refine mirrorFrom_changes ?_ _ _
    | with_reducible first | refine whileVio_changes ?_ _ (fun u hu => ?_)
    | with_reducible refine Kept.ite (fun _ => ?_) (fun _ => ?_)
    | simp only [↓kept_mk]; refine KeptMk.set rfl ?_ ?_
    | apply Upd.of <;> intro hp <;>
        first | exact absurd hp (by decide) | with_reducible rfl | dsimp only
    | split
    | dsimp only [id]

theorem fieldAnswer_changes {w₀ : Nat} {s₀ s : State} (h₀ : Kept w₀ s₀ s)  (status : Nat) (data : List Byte)
    (hw₀ : within (parts [.tag]) w₀ = true := by decide) :
    Kept w₀ s₀ (fieldAnswer status data s) := by
  refine h₀.trans (v := parts [.tag]) ?_ hw₀
  clear h₀ hw₀
  unfold fieldAnswer
  try dsimp only
  repeat' first
    | with_reducible first | exact Kept.refl _ _ | assumption
    | with_reducible refine Kept.ite (fun _ => ?_) (fun _ => ?_)
    | simp only [↓kept_mk]; refine KeptMk.set rfl ?_ ?_
    | apply Upd.of <;> intro hp <;>
        first | exact absurd hp (by decide) | with_reducible rfl | dsimp only
    | split
    | dsimp only [id]

theorem abandonPage_changes {w₀ : Nat} {s₀ s : State} (h₀ : Kept w₀ s₀ s)  (p : Nat)
    (hw₀ : within (parts [.free, .tag, .mirror, .tagMem]) w₀ = true := by decide) :
    Kept w₀ s₀ (abandonPage p s) := by
  refine h₀.trans (v := parts [.free, .tag, .mirror, .tagMem]) ?_ hw₀
  clear h₀ hw₀
  unfold abandonPage
  try dsimp only
  repeat' first
    | with_reducible first | exact Kept.refl _ _ | assumption
    | with_reducible first | refine mirrorFrom_changes ?_ _ _ | refine free_changes ?_ _
    | with_reducible refine Kept.ite (fun _ => ?_) (fun _ => ?_)
    | simp only [↓kept_mk]; refine KeptMk.set rfl ?_ ?_
    | apply Upd.of <;> intro hp <;>
        first | exact absurd hp (by decide) | with_reducible rfl | dsimp only
    | (with_reducible refine Kept.ofPair (by assumption) ?_)
    | split
    | dsimp only [id]

theorem cutWrite_changes {w₀ : Nat} {s₀ s : State} (h₀ : Kept w₀ s₀ s)  (p : Nat) (bs : List Byte) (step : Nat)
    (hw₀ : within (parts [.free, .tag, .tagMem, .stored]) w₀ = true := by decide) :
    Kept w₀ s₀ (cutWrite p bs step s) := by
  refine h₀.trans (v := parts [.free, .tag, .tagMem, .stored]) ?_ hw₀
  clear h₀ hw₀
  unfold cutWrite
  try dsimp only
  repeat' first
    | with_reducible first | exact Kept.refl _ _ | assumption
    | with_reducible first | refine free_changes ?_ _
    | with_reducible refine Kept.ite (fun _ => ?_) (fun _ => ?_)
    | simp only [↓kept_mk]; refine KeptMk.set rfl ?_ ?_
    | apply Upd.of <;> intro hp <;>
        first | exact absurd hp (by decide) | with_reducible rfl | dsimp only
    | (with_reducible refine Kept.ofPair (by assumption) ?_)
    | split
    | dsimp only [id]

theorem refuseWrite_changes {w₀ : Nat} {s₀ s : State} (h₀ : Kept w₀ s₀ s)  (page status : Nat)
    (hw₀ : within (parts [.events, .tag, .recorder]) w₀ = true := by decide) :
    Kept w₀ s₀ (refuseWrite page status s) := by
  refine h₀.trans (v := parts [.events, .tag, .recorder]) ?_ hw₀
  clear h₀ hw₀
  unfold refuseWrite
  try dsimp only
  repeat' first
    | with_reducible first | exact Kept.refl _ _ | assumption
    | with_reducible first | refine emit_changes ?_ _ _ _ | refine fieldAnswer_changes ?_ _ _
    | with_reducible first | refine whileVio_changes ?_ _ (fun u hu => ?_)
    | with_reducible refine Kept.ite (fun _ => ?_) (fun _ => ?_)
    | split
    | dsimp only [id]

theorem writeField_changes {w₀ : Nat} {s₀ s : State} (h₀ : Kept w₀ s₀ s)  (page off : Nat) (data : List Byte)
    (hw₀ : within (parts [.events, .tag, .mirror, .recorder, .tagMem]) w₀ = true := by decide) :
    Kept w₀ s₀ (writeField page off data s) := by
  refine h₀.trans (v := parts [.events, .tag, .mirror, .recorder, .tagMem]) ?_ hw₀
  clear h₀ hw₀
  unfold writeField
  try dsimp only
  repeat' first
    | with_reducible first | exact Kept.refl _ _ | assumption
    | with_reducible first | refine emit_changes ?_ _ _ _ | refine fieldAnswer_changes ?_ _ _
    | with_reducible first | refine tagCommit_changes ?_ _ _ | refine whileVio_changes ?_ _ (fun u hu => ?_)
    | with_reducible refine Kept.ite (fun _ => ?_) (fun _ => ?_)
    | split
    | dsimp only [id]

theorem flushPage_changes {w₀ : Nat} {s₀ s : State} (h₀ : Kept w₀ s₀ s)  (p : Nat)
    (hw₀ : within (parts [.tag, .mirror, .tagMem]) w₀ = true := by decide) :
    Kept w₀ s₀ (flushPage p s) := by
  refine h₀.trans (v := parts [.tag, .mirror, .tagMem]) ?_ hw₀
  clear h₀ hw₀
  unfold flushPage
  try dsimp only
  repeat' first
    | with_reducible first | exact Kept.refl _ _ | assumption
    | with_reducible first | refine tagCommit_changes ?_ _ _
    | with_reducible refine Kept.ite (fun _ => ?_) (fun _ => ?_)
    | simp only [↓kept_mk]; refine KeptMk.set rfl ?_ ?_
    | apply Upd.of <;> intro hp <;>
        first | exact absurd hp (by decide) | with_reducible rfl | dsimp only
    | split
    | dsimp only [id]

theorem flushBelow_changes {w₀ : Nat} {s₀ s : State} (h₀ : Kept w₀ s₀ s)  (p : Nat)
    (hw₀ : within (parts [.tag, .mirror, .tagMem]) w₀ = true := by decide) :
    Kept w₀ s₀ (flushBelow p s) := by
  refine h₀.trans (v := parts [.tag, .mirror, .tagMem]) ?_ hw₀
  clear h₀ hw₀
  unfold flushBelow
  try dsimp only
  repeat' first
    | with_reducible first | exact Kept.refl _ _ | assumption
    | with_reducible first | refine flushPage_changes ?_ _ | refine Kept.foldl _ _ ?_ fun u x hu => ?_
    | with_reducible refine Kept.ite (fun _ => ?_) (fun _ => ?_)
    | split
    | dsimp only [id]

theorem meterSnapshot_changes {w₀ : Nat} {s₀ s : State} (h₀ : Kept w₀ s₀ s)  
    (hw₀ : within (parts [.tag, .mirror, .tagMem]) w₀ = true := by decide) :
    Kept w₀ s₀ (meterSnapshot s) := by
  refine h₀.trans (v := parts [.tag, .mirror, .tagMem]) ?_ hw₀
  clear h₀ hw₀
  unfold meterSnapshot
  try dsimp only
  repeat' first
    | with_reducible first | exact Kept.refl _ _ | assumption
    | with_reducible first | refine tagWritePage_changes ?_ _ _ | refine Kept.forBoughs _ ?_ fun b u hu => ?_
    | with_reducible refine Kept.ite (fun _ => ?_) (fun _ => ?_)
    | simp only [↓kept_mk]; refine KeptMk.set rfl ?_ ?_
    | apply Upd.of <;> intro hp <;>
        first | exact absurd hp (by decide) | with_reducible rfl | dsimp only
    | split
    | dsimp only [id]

theorem restoreSnapNo_changes {w₀ : Nat} {s₀ s : State} (h₀ : Kept w₀ s₀ s)  
    (hw₀ : within (parts [.tag]) w₀ = true := by decide) :
    Kept w₀ s₀ (restoreSnapNo s) := by
  refine h₀.trans (v := parts [.tag]) ?_ hw₀
  clear h₀ hw₀
  unfold restoreSnapNo
  try dsimp only
  repeat' first
    | with_reducible first | exact Kept.refl _ _ | assumption
    | with_reducible first | refine Kept.foldl _ _ ?_ fun u x hu => ?_
    | with_reducible refine Kept.ite (fun _ => ?_) (fun _ => ?_)
    | simp only [↓kept_mk]; refine KeptMk.set rfl ?_ ?_
    | apply Upd.of <;> intro hp <;>
        first | exact absurd hp (by decide) | with_reducible rfl | dsimp only
    | split
    | dsimp only [id]

end Sys2Proof.Safety
end

