-- ==== Sys2Proof/Laws/Frames/Keys.lean ====
section
/-! SUPPORT. What each shared operation of Machine/Keys.lean may change. -/

set_option Elab.async false
set_option linter.unreachableTactic false
set_option linter.unusedTactic false
set_option linter.unusedSimpArgs false

namespace Sys2Proof.Safety

open Sys2Proof.Machine

theorem releaseDrain_changes {w₀ : Nat} {s₀ s : State} (h₀ : Kept w₀ s₀ s)  
    (hw₀ : within (parts [.events, .ports, .modems, .association, .powerLinks, .safety, .recorder]) w₀ = true := by decide) :
    Kept w₀ s₀ (releaseDrain s) := by
  refine h₀.trans (v := parts [.events, .ports, .modems, .association, .powerLinks, .safety, .recorder]) ?_ hw₀
  clear h₀ hw₀
  unfold releaseDrain
  try dsimp only
  repeat' first
    | with_reducible first | exact Kept.refl _ _ | assumption
    | with_reducible first | refine driveAll_changes ?_ | refine onSaf_changes_view ?_ _ _ ?_
    | with_reducible first | refine onSesL_changes ?_ _ _ | refine Kept.forBoughs _ ?_ fun b u hu => ?_
    | exact SameView.of fun x => by first | rfl | (dsimp only; split <;> rfl)
    | with_reducible refine Kept.ite (fun _ => ?_) (fun _ => ?_)
    | simp only [↓kept_mk]; refine KeptMk.set rfl ?_ ?_
    | apply Upd.of <;> intro hp <;>
        first | exact absurd hp (by decide) | with_reducible rfl | dsimp only
    | split
    | dsimp only [id]

theorem discardStaging_changes {w₀ : Nat} {s₀ s : State} (h₀ : Kept w₀ s₀ s)  (cause : Nat)
    (hw₀ : within (parts [.events, .ports, .modems, .association, .powerLinks, .safety, .recorder, .update]) w₀ = true := by decide) :
    Kept w₀ s₀ (discardStaging cause s) := by
  refine h₀.trans (v := parts [.events, .ports, .modems, .association, .powerLinks, .safety, .recorder, .update]) ?_ hw₀
  clear h₀ hw₀
  unfold discardStaging
  try dsimp only
  repeat' first
    | with_reducible first | exact Kept.refl _ _ | assumption
    | with_reducible first | refine emit_changes ?_ _ _ _ | refine releaseDrain_changes ?_
    | with_reducible first | refine Kept.foldl _ _ ?_ fun u x hu => ?_
    | with_reducible refine Kept.ite (fun _ => ?_) (fun _ => ?_)
    | simp only [↓kept_mk]; refine KeptMk.set rfl ?_ ?_
    | apply Upd.of <;> intro hp <;>
        first | exact absurd hp (by decide) | with_reducible rfl | dsimp only
    | split
    | dsimp only [id]

theorem interruptKey_changes {w₀ : Nat} {s₀ s : State} (h₀ : Kept w₀ s₀ s)  
    (hw₀ : within (parts [.events, .keys, .recorder]) w₀ = true := by decide) :
    Kept w₀ s₀ (interruptKey s) := by
  refine h₀.trans (v := parts [.events, .keys, .recorder]) ?_ hw₀
  clear h₀ hw₀
  unfold interruptKey
  try dsimp only
  repeat' first
    | with_reducible first | exact Kept.refl _ _ | assumption
    | with_reducible first | refine answer_changes ?_ _ _ _ _
    | with_reducible refine Kept.ite (fun _ => ?_) (fun _ => ?_)
    | simp only [↓kept_mk]; refine KeptMk.set rfl ?_ ?_
    | apply Upd.of <;> intro hp <;>
        first | exact absurd hp (by decide) | with_reducible rfl | dsimp only
    | split
    | dsimp only [id]

theorem fellClears_changes {w₀ : Nat} {s₀ s : State} (h₀ : Kept w₀ s₀ s)  
    (hw₀ : within (parts [.crypto, .ports, .canopy, .backup]) w₀ = true := by decide) :
    Kept w₀ s₀ (fellClears s) := by
  refine h₀.trans (v := parts [.crypto, .ports, .canopy, .backup]) ?_ hw₀
  clear h₀ hw₀
  unfold fellClears
  try dsimp only
  repeat' first
    | with_reducible first | exact Kept.refl _ _ | assumption
    | with_reducible refine Kept.ite (fun _ => ?_) (fun _ => ?_)
    | simp only [↓kept_mk]; refine KeptMk.set rfl ?_ ?_
    | apply Upd.of <;> intro hp <;>
        first | exact absurd hp (by decide) | with_reducible rfl | dsimp only
    | split
    | dsimp only [id]

theorem fellRecord_changes {w₀ : Nat} {s₀ s : State} (h₀ : Kept w₀ s₀ s)  (cause : BitVec 4)
    (hw₀ : within (parts [.backup]) w₀ = true := by decide) :
    Kept w₀ s₀ (fellRecord cause s) := by
  refine h₀.trans (v := parts [.backup]) ?_ hw₀
  clear h₀ hw₀
  unfold fellRecord
  try dsimp only
  repeat' first
    | with_reducible first | exact Kept.refl _ _ | assumption
    | with_reducible refine Kept.ite (fun _ => ?_) (fun _ => ?_)
    | simp only [↓kept_mk]; refine KeptMk.set rfl ?_ ?_
    | apply Upd.of <;> intro hp <;>
        first | exact absurd hp (by decide) | with_reducible rfl | dsimp only
    | split
    | dsimp only [id]

theorem fellLine_changes {w₀ : Nat} {s₀ s : State} (h₀ : Kept w₀ s₀ s)  (cause : BitVec 4)
    (hw₀ : within (parts [.crypto, .events, .ports, .modems, .association, .sessions, .powerLinks, .safety, .canopy, .keys, .recorder, .update, .backup]) w₀ = true := by decide) :
    Kept w₀ s₀ (fellLine cause s) := by
  refine h₀.trans (v := parts [.crypto, .events, .ports, .modems, .association, .sessions, .powerLinks, .safety, .canopy, .keys, .recorder, .update, .backup]) ?_ hw₀
  clear h₀ hw₀
  unfold fellLine
  try dsimp only
  repeat' first
    | with_reducible first | exact Kept.refl _ _ | assumption
    | with_reducible first | refine cnpOff_changes ?_ | refine discardStaging_changes ?_ _
    | with_reducible first | refine emit_changes ?_ _ _ _ | refine fellClears_changes ?_
    | with_reducible first | refine fellRecord_changes ?_ _ | refine interruptKey_changes ?_
    | with_reducible refine Kept.ite (fun _ => ?_) (fun _ => ?_)
    | simp only [↓kept_mk]; refine KeptMk.set rfl ?_ ?_
    | apply Upd.of <;> intro hp <;>
        first | exact absurd hp (by decide) | with_reducible rfl | dsimp only
    | split
    | dsimp only [id]

theorem setLoop_changes {w₀ : Nat} {s₀ s : State} (h₀ : Kept w₀ s₀ s)  (b : Bool) (code level opens : Nat)
    (hw₀ : within (parts [.backup]) w₀ = true := by decide) :
    Kept w₀ s₀ (setLoop b code level opens s) := by
  refine h₀.trans (v := parts [.backup]) ?_ hw₀
  clear h₀ hw₀
  unfold setLoop
  try dsimp only
  repeat' first
    | with_reducible first | exact Kept.refl _ _ | assumption
    | with_reducible refine Kept.ite (fun _ => ?_) (fun _ => ?_)
    | simp only [↓kept_mk]; refine KeptMk.set rfl ?_ ?_
    | apply Upd.of <;> intro hp <;>
        first | exact absurd hp (by decide) | with_reducible rfl | dsimp only
    | split
    | dsimp only [id]

theorem setArmed_changes {w₀ : Nat} {s₀ s : State} (h₀ : Kept w₀ s₀ s)  (b v : Bool)
    (hw₀ : within (parts [.backup]) w₀ = true := by decide) :
    Kept w₀ s₀ (setArmed b v s) := by
  refine h₀.trans (v := parts [.backup]) ?_ hw₀
  clear h₀ hw₀
  unfold setArmed
  try dsimp only
  repeat' first
    | with_reducible first | exact Kept.refl _ _ | assumption
    | with_reducible refine Kept.ite (fun _ => ?_) (fun _ => ?_)
    | simp only [↓kept_mk]; refine KeptMk.set rfl ?_ ?_
    | apply Upd.of <;> intro hp <;>
        first | exact absurd hp (by decide) | with_reducible rfl | dsimp only
    | split
    | dsimp only [id]

theorem loopTamper_changes {w₀ : Nat} {s₀ s : State} (h₀ : Kept w₀ s₀ s)  (b : Bool)
    (hw₀ : within (parts [.crypto, .events, .ports, .modems, .association, .sessions, .powerLinks, .safety, .canopy, .keys, .recorder, .update, .backup]) w₀ = true := by decide) :
    Kept w₀ s₀ (loopTamper b s) := by
  refine h₀.trans (v := parts [.crypto, .events, .ports, .modems, .association, .sessions, .powerLinks, .safety, .canopy, .keys, .recorder, .update, .backup]) ?_ hw₀
  clear h₀ hw₀
  unfold loopTamper
  try dsimp only
  repeat' first
    | with_reducible first | exact Kept.refl _ _ | assumption
    | with_reducible first | refine fellLine_changes ?_ _ | refine setArmed_changes ?_ _ _
    | with_reducible refine Kept.ite (fun _ => ?_) (fun _ => ?_)
    | split
    | dsimp only [id]

theorem loopMarginal_changes {w₀ : Nat} {s₀ s : State} (h₀ : Kept w₀ s₀ s)  (b : Bool) (level : Nat)
    (hw₀ : within (parts [.events, .recorder, .backup]) w₀ = true := by decide) :
    Kept w₀ s₀ (loopMarginal b level s) := by
  refine h₀.trans (v := parts [.events, .recorder, .backup]) ?_ hw₀
  clear h₀ hw₀
  unfold loopMarginal
  try dsimp only
  repeat' first
    | with_reducible first | exact Kept.refl _ _ | assumption
    | with_reducible first | refine emit_changes ?_ _ _ _
    | with_reducible refine Kept.ite (fun _ => ?_) (fun _ => ?_)
    | simp only [↓kept_mk]; refine KeptMk.set rfl ?_ ?_
    | apply Upd.of <;> intro hp <;>
        first | exact absurd hp (by decide) | with_reducible rfl | dsimp only
    | split
    | dsimp only [id]

theorem setLife_changes {w₀ : Nat} {s₀ s : State} (h₀ : Kept w₀ s₀ s)  (target : Nat)
    (hw₀ : within (parts [.backup, .lifecycle]) w₀ = true := by decide) :
    Kept w₀ s₀ (setLife target s) := by
  refine h₀.trans (v := parts [.backup, .lifecycle]) ?_ hw₀
  clear h₀ hw₀
  unfold setLife
  try dsimp only
  repeat' first
    | with_reducible first | exact Kept.refl _ _ | assumption
    | with_reducible refine Kept.ite (fun _ => ?_) (fun _ => ?_)
    | simp only [↓kept_mk]; refine KeptMk.set rfl ?_ ?_
    | apply Upd.of <;> intro hp <;>
        first | exact absurd hp (by decide) | with_reducible rfl | dsimp only
    | split
    | dsimp only [id]

end Sys2Proof.Safety
end

