-- ==== Sys2Proof/Laws/Frames/Records.lean ====
section
/-! SUPPORT. What each shared operation of Machine/Records.lean may change. -/

set_option Elab.async false
set_option linter.unreachableTactic false
set_option linter.unusedTactic false
set_option linter.unusedSimpArgs false

namespace Sys2Proof.Safety

open Sys2Proof.Machine

theorem putRecord_changes {w₀ : Nat} {s₀ s : State} (h₀ : Kept w₀ s₀ s)  (r : LogRec)
    (hw₀ : within (parts [.flash]) w₀ = true := by decide) :
    Kept w₀ s₀ (putRecord r s) := by
  refine h₀.trans (v := parts [.flash]) ?_ hw₀
  clear h₀ hw₀
  unfold putRecord
  try dsimp only
  repeat' first
    | with_reducible first | exact Kept.refl _ _ | assumption
    | with_reducible refine Kept.ite (fun _ => ?_) (fun _ => ?_)
    | simp only [↓kept_mk]; refine KeptMk.set rfl ?_ ?_
    | apply Upd.of <;> intro hp <;>
        first | exact absurd hp (by decide) | with_reducible rfl | dsimp only
    | split
    | dsimp only [id]

theorem reportLost_changes {w₀ : Nat} {s₀ s : State} (h₀ : Kept w₀ s₀ s)  
    (hw₀ : within (parts [.events, .recorder]) w₀ = true := by decide) :
    Kept w₀ s₀ (reportLost s) := by
  refine h₀.trans (v := parts [.events, .recorder]) ?_ hw₀
  clear h₀ hw₀
  unfold reportLost
  try dsimp only
  repeat' first
    | with_reducible first | exact Kept.refl _ _ | assumption
    | with_reducible first | refine emit_changes ?_ _ _ _
    | with_reducible refine Kept.ite (fun _ => ?_) (fun _ => ?_)
    | simp only [↓kept_mk]; refine KeptMk.set rfl ?_ ?_
    | apply Upd.of <;> intro hp <;>
        first | exact absurd hp (by decide) | with_reducible rfl | dsimp only
    | split
    | dsimp only [id]

theorem budgetEvent_changes {w₀ : Nat} {s₀ s : State} (h₀ : Kept w₀ s₀ s)  (e : Budget)
    (hw₀ : within (parts [.events, .recorder]) w₀ = true := by decide) :
    Kept w₀ s₀ (budgetEvent e s) := by
  refine h₀.trans (v := parts [.events, .recorder]) ?_ hw₀
  clear h₀ hw₀
  unfold budgetEvent
  try dsimp only
  repeat' first
    | with_reducible first | exact Kept.refl _ _ | assumption
    | with_reducible first | refine emit_changes ?_ _ _ _
    | with_reducible refine Kept.ite (fun _ => ?_) (fun _ => ?_)
    | split
    | dsimp only [id]

theorem endWindow_changes {w₀ : Nat} {s₀ s : State} (h₀ : Kept w₀ s₀ s)  
    (hw₀ : within (parts [.events, .recorder]) w₀ = true := by decide) :
    Kept w₀ s₀ (endWindow s) := by
  refine h₀.trans (v := parts [.events, .recorder]) ?_ hw₀
  clear h₀ hw₀
  unfold endWindow
  try dsimp only
  repeat' first
    | with_reducible first | exact Kept.refl _ _ | assumption
    | with_reducible first | refine budgetEvent_changes ?_ _ | refine Kept.foldl _ _ ?_ fun u x hu => ?_
    | with_reducible refine Kept.ite (fun _ => ?_) (fun _ => ?_)
    | simp only [↓kept_mk]; refine KeptMk.set rfl ?_ ?_
    | apply Upd.of <;> intro hp <;>
        first | exact absurd hp (by decide) | with_reducible rfl | dsimp only
    | split
    | dsimp only [id]

theorem sampleBough_changes {w₀ : Nat} {s₀ s : State} (h₀ : Kept w₀ s₀ s)  (id : Nat) (b : Bough)
    (hw₀ : within (parts [.powerLinks, .recorder]) w₀ = true := by decide) :
    Kept w₀ s₀ (sampleBough id b s) := by
  refine h₀.trans (v := parts [.powerLinks, .recorder]) ?_ hw₀
  clear h₀ hw₀
  unfold sampleBough
  try dsimp only
  repeat' first
    | with_reducible first | exact Kept.refl _ _ | assumption
    | with_reducible first | refine histAdd_changes ?_ _ _ _ | refine onSesL_changes ?_ _ _
    | with_reducible refine Kept.ite (fun _ => ?_) (fun _ => ?_)
    | simp only [↓kept_mk]; refine KeptMk.set rfl ?_ ?_
    | apply Upd.of <;> intro hp <;>
        first | exact absurd hp (by decide) | with_reducible rfl | dsimp only
    | split
    | dsimp only [id]

theorem sampleDevice_changes {w₀ : Nat} {s₀ s : State} (h₀ : Kept w₀ s₀ s)  (id : Nat)
    (hw₀ : within (parts [.sessionDev, .recorder]) w₀ = true := by decide) :
    Kept w₀ s₀ (sampleDevice id s) := by
  refine h₀.trans (v := parts [.sessionDev, .recorder]) ?_ hw₀
  clear h₀ hw₀
  unfold sampleDevice
  try dsimp only
  repeat' first
    | with_reducible first | exact Kept.refl _ _ | assumption
    | with_reducible first | refine histAdd_changes ?_ _ _ _
    | with_reducible refine Kept.ite (fun _ => ?_) (fun _ => ?_)
    | simp only [↓kept_mk]; refine KeptMk.set rfl ?_ ?_
    | apply Upd.of <;> intro hp <;>
        first | exact absurd hp (by decide) | with_reducible rfl | dsimp only
    | split
    | dsimp only [id]

theorem snapshotHists_changes {w₀ : Nat} {s₀ s : State} (h₀ : Kept w₀ s₀ s)  
    (hw₀ : within (parts [.recorder, .flash]) w₀ = true := by decide) :
    Kept w₀ s₀ (snapshotHists s) := by
  refine h₀.trans (v := parts [.recorder, .flash]) ?_ hw₀
  clear h₀ hw₀
  unfold snapshotHists
  try dsimp only
  repeat' first
    | with_reducible first | exact Kept.refl _ _ | assumption
    | with_reducible refine Kept.ite (fun _ => ?_) (fun _ => ?_)
    | simp only [↓kept_mk]; refine KeptMk.set rfl ?_ ?_
    | apply Upd.of <;> intro hp <;>
        first | exact absurd hp (by decide) | with_reducible rfl | dsimp only
    | split
    | dsimp only [id]

theorem summarise_changes {w₀ : Nat} {s₀ s : State} (h₀ : Kept w₀ s₀ s)  
    (hw₀ : within (parts [.tag, .mirror, .tagMem]) w₀ = true := by decide) :
    Kept w₀ s₀ (summarise s) := by
  refine h₀.trans (v := parts [.tag, .mirror, .tagMem]) ?_ hw₀
  clear h₀ hw₀
  unfold summarise
  try dsimp only
  repeat' first
    | with_reducible first | exact Kept.refl _ _ | assumption
    | with_reducible first | refine tagWritePage_changes ?_ _ _ | refine Kept.foldl _ _ ?_ fun u x hu => ?_
    | with_reducible refine Kept.ite (fun _ => ?_) (fun _ => ?_)
    | split
    | dsimp only [id]

theorem writeDump_changes {w₀ : Nat} {s₀ s : State} (h₀ : Kept w₀ s₀ s)  (st pc : Nat)
    (hw₀ : within (parts [.free, .flash]) w₀ = true := by decide) :
    Kept w₀ s₀ (writeDump st pc s) := by
  refine h₀.trans (v := parts [.free, .flash]) ?_ hw₀
  clear h₀ hw₀
  unfold writeDump
  try dsimp only
  repeat' first
    | with_reducible first | exact Kept.refl _ _ | assumption
    | with_reducible refine Kept.ite (fun _ => ?_) (fun _ => ?_)
    | simp only [↓kept_mk]; refine KeptMk.set rfl ?_ ?_
    | apply Upd.of <;> intro hp <;>
        first | exact absurd hp (by decide) | with_reducible rfl | dsimp only
    | (with_reducible refine Kept.ofPair (by assumption) ?_)
    | split
    | dsimp only [id]

theorem flushQueue_changes {w₀ : Nat} {s₀ s : State} (h₀ : Kept w₀ s₀ s)  
    (hw₀ : within (parts [.recorder, .flash]) w₀ = true := by decide) :
    Kept w₀ s₀ (flushQueue s) := by
  refine h₀.trans (v := parts [.recorder, .flash]) ?_ hw₀
  clear h₀ hw₀
  unfold flushQueue
  try dsimp only
  repeat' first
    | with_reducible first | exact Kept.refl _ _ | assumption
    | with_reducible first | refine putRecord_changes ?_ _ | refine Kept.foldl _ _ ?_ fun u x hu => ?_
    | with_reducible refine Kept.ite (fun _ => ?_) (fun _ => ?_)
    | simp only [↓kept_mk]; refine KeptMk.set rfl ?_ ?_
    | apply Upd.of <;> intro hp <;>
        first | exact absurd hp (by decide) | with_reducible rfl | dsimp only
    | split
    | dsimp only [id]

theorem finishDump_changes {w₀ : Nat} {s₀ s : State} (h₀ : Kept w₀ s₀ s)  
    (hw₀ : within (parts [.free, .tag, .mirror, .recorder, .flash, .tagMem]) w₀ = true := by decide) :
    Kept w₀ s₀ (finishDump s) := by
  refine h₀.trans (v := parts [.free, .tag, .mirror, .recorder, .flash, .tagMem]) ?_ hw₀
  clear h₀ hw₀
  unfold finishDump
  try dsimp only
  repeat' first
    | with_reducible first | exact Kept.refl _ _ | assumption
    | with_reducible first | refine flushQueue_changes ?_ | refine snapshotHists_changes ?_
    | with_reducible first | refine tagWritePage_changes ?_ _ _ | refine writeDump_changes ?_ _ _
    | with_reducible first | refine free_changes ?_ _
    | with_reducible refine Kept.ite (fun _ => ?_) (fun _ => ?_)
    | simp only [↓kept_mk]; refine KeptMk.set rfl ?_ ?_
    | apply Upd.of <;> intro hp <;>
        first | exact absurd hp (by decide) | with_reducible rfl | dsimp only
    | (with_reducible refine Kept.ofPair (by assumption) ?_)
    | split
    | dsimp only [id]

theorem enterHold_changes {w₀ : Nat} {s₀ s : State} (h₀ : Kept w₀ s₀ s)  
    (hw₀ : within (parts [.free, .events, .ports, .modems, .association, .sessions, .powerLinks, .coils, .safety, .billed, .heartwood, .loads, .display, .memory, .cells, .recorder, .flash]) w₀ = true := by decide) :
    Kept w₀ s₀ (enterHold s) := by
  refine h₀.trans (v := parts [.free, .events, .ports, .modems, .association, .sessions, .powerLinks, .coils, .safety, .billed, .heartwood, .loads, .display, .memory, .cells, .recorder, .flash]) ?_ hw₀
  clear h₀ hw₀
  unfold enterHold
  try dsimp only
  repeat' first
    | with_reducible first | exact Kept.refl _ _ | assumption
    | with_reducible first | refine emit_changes ?_ _ _ _ | refine holdSession_changes ?_ _ _
    | with_reducible first | refine openNow_changes ?_ _ _ | refine Kept.forBoughs _ ?_ fun b u hu => ?_
    | with_reducible refine Kept.ite (fun _ => ?_) (fun _ => ?_)
    | simp only [↓kept_mk]; refine KeptMk.set rfl ?_ ?_
    | apply Upd.of <;> intro hp <;>
        first | exact absurd hp (by decide) | with_reducible rfl | dsimp only
    | split
    | dsimp only [id]

theorem eraseSlots_changes {w₀ : Nat} {s₀ s : State} (h₀ : Kept w₀ s₀ s)  (mask : Nat)
    (hw₀ : within (parts [.flash]) w₀ = true := by decide) :
    Kept w₀ s₀ (eraseSlots mask s) := by
  refine h₀.trans (v := parts [.flash]) ?_ hw₀
  clear h₀ hw₀
  unfold eraseSlots
  try dsimp only
  repeat' first
    | with_reducible first | exact Kept.refl _ _ | assumption
    | with_reducible refine Kept.ite (fun _ => ?_) (fun _ => ?_)
    | simp only [↓kept_mk]; refine KeptMk.set rfl ?_ ?_
    | apply Upd.of <;> intro hp <;>
        first | exact absurd hp (by decide) | with_reducible rfl | dsimp only
    | split
    | dsimp only [id]

end Sys2Proof.Safety
end

