-- ==== Sys2Proof/Laws/Frames/Image.lean ====
section
/-! SUPPORT. What each shared operation of Machine/Image.lean may change. -/

set_option Elab.async false
set_option linter.unreachableTactic false
set_option linter.unusedTactic false
set_option linter.unusedSimpArgs false

namespace Sys2Proof.Safety

open Sys2Proof.Machine

theorem putArea_changes {w₀ : Nat} {s₀ s : State} (h₀ : Kept w₀ s₀ s)  (part i : Nat) (bs : List Byte)
    (hw₀ : within (parts [.flash]) w₀ = true := by decide) :
    Kept w₀ s₀ (putArea part i bs s) := by
  refine h₀.trans (v := parts [.flash]) ?_ hw₀
  clear h₀ hw₀
  unfold putArea
  try dsimp only
  repeat' first
    | with_reducible first | exact Kept.refl _ _ | assumption
    | with_reducible refine Kept.ite (fun _ => ?_) (fun _ => ?_)
    | simp only [↓kept_mk]; refine KeptMk.set rfl ?_ ?_
    | apply Upd.of <;> intro hp <;>
        first | exact absurd hp (by decide) | with_reducible rfl | dsimp only
    | split
    | dsimp only [id]

theorem writeDir_changes {w₀ : Nat} {s₀ s : State} (h₀ : Kept w₀ s₀ s)  (d : Dir) (st : Nat) (switched : BitVec 3)
    (hw₀ : within (parts [.flash]) w₀ = true := by decide) :
    Kept w₀ s₀ (writeDir d st switched s) := by
  refine h₀.trans (v := parts [.flash]) ?_ hw₀
  clear h₀ hw₀
  unfold writeDir
  try dsimp only
  repeat' first
    | with_reducible first | exact Kept.refl _ _ | assumption
    | with_reducible refine Kept.ite (fun _ => ?_) (fun _ => ?_)
    | simp only [↓kept_mk]; refine KeptMk.set rfl ?_ ?_
    | apply Upd.of <;> intro hp <;>
        first | exact absurd hp (by decide) | with_reducible rfl | dsimp only
    | split
    | dsimp only [id]

end Sys2Proof.Safety
end

