-- ==== Sys2Proof/Laws/Frames/Update.lean ====
section
/-! SUPPORT. What each shared operation of Machine/Update.lean may change. -/

set_option Elab.async false
set_option linter.unreachableTactic false
set_option linter.unusedTactic false
set_option linter.unusedSimpArgs false

namespace Sys2Proof.Safety

open Sys2Proof.Machine

theorem updAnswer_changes {w₀ : Nat} {s₀ s : State} (h₀ : Kept w₀ s₀ s)  (h : CmdHdr) (r step : Nat)
    (hw₀ : within (parts [.events, .recorder]) w₀ = true := by decide) :
    Kept w₀ s₀ (updAnswer h r step s) := by
  refine h₀.trans (v := parts [.events, .recorder]) ?_ hw₀
  clear h₀ hw₀
  unfold updAnswer
  try dsimp only
  repeat' first
    | with_reducible first | exact Kept.refl _ _ | assumption
    | with_reducible first | refine answer_changes ?_ _ _ _ _
    | with_reducible refine Kept.ite (fun _ => ?_) (fun _ => ?_)
    | split
    | dsimp only [id]

theorem dropStage_changes {w₀ : Nat} {s₀ s : State} (h₀ : Kept w₀ s₀ s)  (cause : Nat)
    (hw₀ : within (parts [.events, .recorder, .update]) w₀ = true := by decide) :
    Kept w₀ s₀ (dropStage cause s) := by
  refine h₀.trans (v := parts [.events, .recorder, .update]) ?_ hw₀
  clear h₀ hw₀
  unfold dropStage
  try dsimp only
  repeat' first
    | with_reducible first | exact Kept.refl _ _ | assumption
    | with_reducible first | refine emit_changes ?_ _ _ _
    | with_reducible refine Kept.ite (fun _ => ?_) (fun _ => ?_)
    | simp only [↓kept_mk]; refine KeptMk.set rfl ?_ ?_
    | apply Upd.of <;> intro hp <;>
        first | exact absurd hp (by decide) | with_reducible rfl | dsimp only
    | split
    | dsimp only [id]

theorem dropStaged_changes {w₀ : Nat} {s₀ s : State} (h₀ : Kept w₀ s₀ s)  (part : Nat)
    (hw₀ : within (parts [.events, .recorder, .update]) w₀ = true := by decide) :
    Kept w₀ s₀ (dropStaged part s) := by
  refine h₀.trans (v := parts [.events, .recorder, .update]) ?_ hw₀
  clear h₀ hw₀
  unfold dropStaged
  try dsimp only
  repeat' first
    | with_reducible first | exact Kept.refl _ _ | assumption
    | with_reducible first | refine emit_changes ?_ _ _ _
    | with_reducible refine Kept.ite (fun _ => ?_) (fun _ => ?_)
    | simp only [↓kept_mk]; refine KeptMk.set rfl ?_ ?_
    | apply Upd.of <;> intro hp <;>
        first | exact absurd hp (by decide) | with_reducible rfl | dsimp only
    | split
    | dsimp only [id]

theorem orderedReset_changes {w₀ : Nat} {s₀ s : State} (h₀ : Kept w₀ s₀ s)  
    (hw₀ : within (parts [.trunk, .lattice, .crypto, .supply, .start, .pages, .commits, .events, .commands, .bulk, .link, .ports, .modems, .association, .sessions, .powerLinks, .sessionDev, .coils, .safety, .measures, .stops, .powerDie, .sampling, .energy, .averages, .quantities, .billed, .heartwood, .loads, .loadDev, .display, .canopy, .tag, .mirror, .keys, .memory, .cells, .recorder, .update, .flash]) w₀ = true := by decide) :
    Kept w₀ s₀ (orderedReset s) := by
  suffices hd : Kept (parts [.trunk, .lattice, .crypto, .supply, .start, .pages, .commits, .events, .commands, .bulk, .link, .ports, .modems, .association, .sessions, .powerLinks, .sessionDev, .coils, .safety, .measures, .stops, .powerDie, .sampling, .energy, .averages, .quantities, .billed, .heartwood, .loads, .loadDev, .display, .canopy, .tag, .mirror, .keys, .memory, .cells, .recorder, .update, .flash]) s (orderedReset s) from h₀.trans hd hw₀
  clear h₀ hw₀
  unfold orderedReset
  try dsimp only
  repeat' first
    | with_reducible first | exact Kept.refl _ _ | assumption
    | with_reducible first | refine deviceReset_changes ?_ | refine flushQueue_changes ?_
    | with_reducible refine Kept.ite (fun _ => ?_) (fun _ => ?_)
    | split
    | dsimp only [id]

theorem dropSchedule_changes {w₀ : Nat} {s₀ s : State} (h₀ : Kept w₀ s₀ s)  
    (hw₀ : within (parts [.events, .ports, .modems, .association, .powerLinks, .safety, .recorder, .update]) w₀ = true := by decide) :
    Kept w₀ s₀ (dropSchedule s) := by
  refine h₀.trans (v := parts [.events, .ports, .modems, .association, .powerLinks, .safety, .recorder, .update]) ?_ hw₀
  clear h₀ hw₀
  unfold dropSchedule
  try dsimp only
  repeat' first
    | with_reducible first | exact Kept.refl _ _ | assumption
    | with_reducible first | refine releaseDrain_changes ?_
    | with_reducible refine Kept.ite (fun _ => ?_) (fun _ => ?_)
    | simp only [↓kept_mk]; refine KeptMk.set rfl ?_ ?_
    | apply Upd.of <;> intro hp <;>
        first | exact absurd hp (by decide) | with_reducible rfl | dsimp only
    | split
    | dsimp only [id]

theorem confirmUpdate_changes {w₀ : Nat} {s₀ s : State} (h₀ : Kept w₀ s₀ s)  (how : Nat)
    (hw₀ : within (parts [.start, .events, .recorder, .update, .flash]) w₀ = true := by decide) :
    Kept w₀ s₀ (confirmUpdate how s) := by
  refine h₀.trans (v := parts [.start, .events, .recorder, .update, .flash]) ?_ hw₀
  clear h₀ hw₀
  unfold confirmUpdate
  try dsimp only
  repeat' first
    | with_reducible first | exact Kept.refl _ _ | assumption
    | with_reducible first | refine emit_changes ?_ _ _ _ | refine writeDir_changes ?_ _ _ _
    | with_reducible refine Kept.ite (fun _ => ?_) (fun _ => ?_)
    | simp only [↓kept_mk]; refine KeptMk.set rfl ?_ ?_
    | apply Upd.of <;> intro hp <;>
        first | exact absurd hp (by decide) | with_reducible rfl | dsimp only
    | split
    | dsimp only [id]

theorem fallBack_changes {w₀ : Nat} {s₀ s : State} (h₀ : Kept w₀ s₀ s)  (m : BitVec 3) (cause : Nat)
    (hw₀ : within (parts [.start, .events, .recorder, .update, .flash]) w₀ = true := by decide) :
    Kept w₀ s₀ (fallBack m cause s) := by
  refine h₀.trans (v := parts [.start, .events, .recorder, .update, .flash]) ?_ hw₀
  clear h₀ hw₀
  unfold fallBack
  try dsimp only
  repeat' first
    | with_reducible first | exact Kept.refl _ _ | assumption
    | with_reducible first | refine emit_changes ?_ _ _ _ | refine writeDir_changes ?_ _ _ _
    | with_reducible refine Kept.ite (fun _ => ?_) (fun _ => ?_)
    | simp only [↓kept_mk]; refine KeptMk.set rfl ?_ ?_
    | apply Upd.of <;> intro hp <;>
        first | exact absurd hp (by decide) | with_reducible rfl | dsimp only
    | split
    | dsimp only [id]

end Sys2Proof.Safety
end

