-- ==== Sys2Proof/Laws/Frames/Commits.lean ====
section
/-! SUPPORT. What each shared operation of Machine/Commits.lean may change. -/

set_option Elab.async false
set_option linter.unreachableTactic false
set_option linter.unusedTactic false
set_option linter.unusedSimpArgs false

namespace Sys2Proof.Safety

open Sys2Proof.Machine

theorem acceptOne_changes {w₀ : Nat} {s₀ s : State} (h₀ : Kept w₀ s₀ s)  (sub : Nat)
    (hw₀ : within (parts [.commits]) w₀ = true := by decide) :
    Kept w₀ s₀ (acceptOne sub s) := by
  refine h₀.trans (v := parts [.commits]) ?_ hw₀
  clear h₀ hw₀
  unfold acceptOne
  try dsimp only
  repeat' first
    | with_reducible first | exact Kept.refl _ _ | assumption
    | with_reducible refine Kept.ite (fun _ => ?_) (fun _ => ?_)
    | simp only [↓kept_mk]; refine KeptMk.set rfl ?_ ?_
    | apply Upd.of <;> intro hp <;>
        first | exact absurd hp (by decide) | with_reducible rfl | dsimp only
    | split
    | dsimp only [id]

theorem acceptCommits_changes {w₀ : Nat} {s₀ s : State} (h₀ : Kept w₀ s₀ s)  (req : BitVec 16)
    (hw₀ : within (parts [.commits]) w₀ = true := by decide) :
    Kept w₀ s₀ (acceptCommits req s) := by
  refine h₀.trans (v := parts [.commits]) ?_ hw₀
  clear h₀ hw₀
  unfold acceptCommits
  try dsimp only
  repeat' first
    | with_reducible first | exact Kept.refl _ _ | assumption
    | with_reducible first | refine acceptOne_changes ?_ _ | refine Kept.foldl _ _ ?_ fun u x hu => ?_
    | with_reducible refine Kept.ite (fun _ => ?_) (fun _ => ?_)
    | split
    | dsimp only [id]

theorem setLeft_changes {w₀ : Nat} {s₀ s : State} (h₀ : Kept w₀ s₀ s)  (sub : Nat) (m : BitVec 8)
    (hw₀ : within (parts [.commits]) w₀ = true := by decide) :
    Kept w₀ s₀ (setLeft sub m s) := by
  refine h₀.trans (v := parts [.commits]) ?_ hw₀
  clear h₀ hw₀
  unfold setLeft
  try dsimp only
  repeat' first
    | with_reducible first | exact Kept.refl _ _ | assumption
    | with_reducible refine Kept.ite (fun _ => ?_) (fun _ => ?_)
    | simp only [↓kept_mk]; refine KeptMk.set rfl ?_ ?_
    | apply Upd.of <;> intro hp <;>
        first | exact absurd hp (by decide) | with_reducible rfl | dsimp only
    | split
    | dsimp only [id]

theorem rejectAll_changes {w₀ : Nat} {s₀ s : State} (h₀ : Kept w₀ s₀ s)  (sub reason : Nat)
    (hw₀ : within (parts [.commits, .events, .recorder]) w₀ = true := by decide) :
    Kept w₀ s₀ (rejectAll sub reason s) := by
  refine h₀.trans (v := parts [.commits, .events, .recorder]) ?_ hw₀
  clear h₀ hw₀
  unfold rejectAll
  try dsimp only
  repeat' first
    | with_reducible first | exact Kept.refl _ _ | assumption
    | with_reducible first | refine rejectCommit_changes ?_ _ _ | refine setLeft_changes ?_ _ _
    | with_reducible refine Kept.ite (fun _ => ?_) (fun _ => ?_)
    | split
    | dsimp only [id]

theorem completeIfDone_changes {w₀ : Nat} {s₀ s : State} (h₀ : Kept w₀ s₀ s)  (sub : Nat)
    (hw₀ : within (parts [.commits]) w₀ = true := by decide) :
    Kept w₀ s₀ (completeIfDone sub s) := by
  refine h₀.trans (v := parts [.commits]) ?_ hw₀
  clear h₀ hw₀
  unfold completeIfDone
  try dsimp only
  repeat' first
    | with_reducible first | exact Kept.refl _ _ | assumption
    | with_reducible first | refine finishCommit_changes ?_ _ _
    | with_reducible refine Kept.ite (fun _ => ?_) (fun _ => ?_)
    | split
    | dsimp only [id]

theorem checked_changes {w : Nat} {s₀ s : State} (h : Kept w s₀ s) (sub : Nat) (act : State → State)
    (hf : ∀ u, Kept w s₀ u → Kept w s₀ (act u)) (hw : within (parts [.commits, .events, .recorder]) w = true := by decide) :
    Kept w s₀ (checked sub act s) := by
  unfold checked
  split
  · exact hf s h
  · split
    · exact rejectAll_changes h _ _ (by exact hw)
    · refine hf _ (h.trans (v := parts [.commits, .events, .recorder]) ?_ hw)
      intro p hp; cases p <;> first | exact absurd hp (by decide) | rfl

theorem afterDevice_changes {w₀ : Nat} {s₀ s : State} (h₀ : Kept w₀ s₀ s) (old : State) (sub : Nat)
    (hw₀ : within (parts [.free, .trunk, .events, .ports, .modems, .association, .sessions, .powerLinks, .safety, .billed, .heartwood, .loads, .loadDev, .display, .canopy, .tag, .mirror, .recorder, .backup, .flash, .tagMem]) w₀ = true := by decide) :
    Kept w₀ s₀ (afterDevice sub old s) := by
  refine h₀.trans (v := parts [.free, .trunk, .events, .ports, .modems, .association, .sessions, .powerLinks, .safety, .billed, .heartwood, .loads, .loadDev, .display, .canopy, .tag, .mirror, .recorder, .backup, .flash, .tagMem]) ?_ hw₀
  clear h₀ hw₀
  unfold afterDevice
  try dsimp only
  repeat' first
    | with_reducible first | exact Kept.refl _ _ | assumption
    | with_reducible first | refine auxAll_changes ?_ | refine cnpListen_changes ?_ _ | refine cnpOff_changes ?_
    | with_reducible first | refine endWindow_changes ?_ | refine orderStop_changes ?_ _
    | with_reducible first | refine refreshIdentity_changes ?_ | refine startDisplay_changes ?_
    | with_reducible first | refine writeSave_changes ?_ _ | refine onAux_changes ?_ _ _
    | with_reducible first | refine Kept.foldl _ _ ?_ fun u x hu => ?_
    | with_reducible refine Kept.ite (fun _ => ?_) (fun _ => ?_)
    | simp only [↓kept_mk]; refine KeptMk.set rfl ?_ ?_
    | apply Upd.of <;> intro hp <;>
        first | exact absurd hp (by decide) | with_reducible rfl | dsimp only
    | split
    | dsimp only [id]

theorem applyDevice_changes {w₀ : Nat} {s₀ s : State} (h₀ : Kept w₀ s₀ s)  (sub : Nat)
    (hw₀ : within (parts [.free, .trunk, .pages, .commits, .events, .ports, .modems, .association, .sessions, .powerLinks, .safety, .billed, .heartwood, .loads, .loadDev, .display, .canopy, .tag, .mirror, .recorder, .backup, .flash, .tagMem]) w₀ = true := by decide) :
    Kept w₀ s₀ (applyDevice sub s) := by
  refine h₀.trans (v := parts [.free, .trunk, .pages, .commits, .events, .ports, .modems, .association, .sessions, .powerLinks, .safety, .billed, .heartwood, .loads, .loadDev, .display, .canopy, .tag, .mirror, .recorder, .backup, .flash, .tagMem]) ?_ hw₀
  clear h₀ hw₀
  unfold applyDevice
  try dsimp only
  repeat' first
    | with_reducible first | exact Kept.refl _ _ | assumption
    | with_reducible first | refine afterDevice_changes ?_ _ _ | refine applySnap_changes ?_ _ _
    | with_reducible first | refine completeIfDone_changes ?_ _
    | with_reducible refine Kept.ite (fun _ => ?_) (fun _ => ?_)
    | simp only [↓kept_mk]; refine KeptMk.set rfl ?_ ?_
    | apply Upd.of <;> intro hp <;>
        first | exact absurd hp (by decide) | with_reducible rfl | dsimp only
    | split
    | dsimp only [id]

theorem takeTrims_changes {w₀ : Nat} {s₀ s : State} (h₀ : Kept w₀ s₀ s)  (b : Bough)
    (hw₀ : within (parts [.pages]) w₀ = true := by decide) :
    Kept w₀ s₀ (takeTrims b s).2 := by
  refine h₀.trans (v := parts [.pages]) ?_ hw₀
  clear h₀ hw₀
  unfold takeTrims
  try dsimp only
  repeat' first
    | with_reducible first | exact Kept.refl _ _ | assumption
    | with_reducible first | refine applySnap_changes ?_ _ _ | refine Kept.foldl _ _ ?_ fun u x hu => ?_
    | with_reducible refine Kept.ite (fun _ => ?_) (fun _ => ?_)
    | simp only [↓kept_mk]; refine KeptMk.set rfl ?_ ?_
    | apply Upd.of <;> intro hp <;>
        first | exact absurd hp (by decide) | with_reducible rfl | dsimp only
    | split
    | dsimp only [id]

theorem newPga_changes {w₀ : Nat} {s₀ s : State} (h₀ : Kept w₀ s₀ s)  (b : Bough) (n : Nat)
    (hw₀ : within (parts [.sampling]) w₀ = true := by decide) :
    Kept w₀ s₀ (newPga b n s) := by
  refine h₀.trans (v := parts [.sampling]) ?_ hw₀
  clear h₀ hw₀
  unfold newPga
  try dsimp only
  repeat' first
    | with_reducible first | exact Kept.refl _ _ | assumption
    | with_reducible first | refine onMtr_changes ?_ _ _
    | with_reducible refine Kept.ite (fun _ => ?_) (fun _ => ?_)
    | simp only [↓kept_mk]; refine KeptMk.set rfl ?_ ?_
    | apply Upd.of <;> intro hp <;>
        first | exact absurd hp (by decide) | with_reducible rfl | dsimp only
    | split
    | dsimp only [id]

theorem applyTrims_changes {w₀ : Nat} {s₀ s : State} (h₀ : Kept w₀ s₀ s)  (b : Bough)
    (hw₀ : within (parts [.free, .pages, .events, .sampling, .billed, .heartwood, .recorder, .flash]) w₀ = true := by decide) :
    Kept w₀ s₀ (applyTrims b s).2 := by
  refine h₀.trans (v := parts [.free, .pages, .events, .sampling, .billed, .heartwood, .recorder, .flash]) ?_ hw₀
  clear h₀ hw₀
  unfold applyTrims
  try dsimp only
  repeat' first
    | with_reducible first | exact Kept.refl _ _ | assumption
    | with_reducible first | refine emit_changes ?_ _ _ _ | refine lrChange_changes ?_ _ _ _ _
    | with_reducible first | refine newPga_changes ?_ _ _ | refine takeTrims_changes ?_ _
    | with_reducible first | refine writeSave_changes ?_ _ | refine Kept.foldl _ _ ?_ fun u x hu => ?_
    | with_reducible refine Kept.ite (fun _ => ?_) (fun _ => ?_)
    | (with_reducible refine Kept.ofPair (by assumption) ?_)
    | split
    | dsimp only [id]

theorem applyLegalEnergy_changes {w₀ : Nat} {s₀ s : State} (h₀ : Kept w₀ s₀ s)  (b : Bough)
    (hw₀ : within (parts [.free, .pages, .events, .ports, .modems, .association, .sessions, .powerLinks, .safety, .sampling, .energy, .averages, .quantities, .billed, .heartwood, .recorder, .flash]) w₀ = true := by decide) :
    Kept w₀ s₀ (applyLegalEnergy b s) := by
  refine h₀.trans (v := parts [.free, .pages, .events, .ports, .modems, .association, .sessions, .powerLinks, .safety, .sampling, .energy, .averages, .quantities, .billed, .heartwood, .recorder, .flash]) ?_ hw₀
  clear h₀ hw₀
  unfold applyLegalEnergy
  try dsimp only
  repeat' first
    | with_reducible first | exact Kept.refl _ _ | assumption
    | with_reducible first | refine applySnap_changes ?_ _ _ | refine emit_changes ?_ _ _ _
    | with_reducible first | refine gridLost_changes ?_ _ _ | refine lrChange_changes ?_ _ _ _ _
    | with_reducible first | refine writeSave_changes ?_ _
    | with_reducible refine Kept.ite (fun _ => ?_) (fun _ => ?_)
    | split
    | dsimp only [id]

theorem applyBough_changes {w₀ : Nat} {s₀ s : State} (h₀ : Kept w₀ s₀ s)  (sub : Nat) (b : Bough)
    (hw₀ : within (parts [.free, .pages, .commits, .events, .ports, .modems, .association, .sessions, .powerLinks, .safety, .sampling, .energy, .averages, .quantities, .billed, .heartwood, .loads, .recorder, .flash]) w₀ = true := by decide) :
    Kept w₀ s₀ (applyBough sub b s) := by
  refine h₀.trans (v := parts [.free, .pages, .commits, .events, .ports, .modems, .association, .sessions, .powerLinks, .safety, .sampling, .energy, .averages, .quantities, .billed, .heartwood, .loads, .recorder, .flash]) ?_ hw₀
  clear h₀ hw₀
  unfold applyBough
  try dsimp only
  repeat' first
    | with_reducible first | exact Kept.refl _ _ | assumption
    | with_reducible first | refine applyLegalEnergy_changes ?_ _ | refine applySnap_changes ?_ _ _
    | with_reducible first | refine applyTrims_changes ?_ _ | refine completeIfDone_changes ?_ _
    | with_reducible first | refine setLeft_changes ?_ _ _ | refine takeBridges_changes ?_
    | with_reducible first | refine takeRating_changes ?_ _ _ | refine withRequest_changes ?_ _ _ (fun u hu => ?_)
    | with_reducible refine Kept.ite (fun _ => ?_) (fun _ => ?_)
    | simp only [↓kept_mk]; refine KeptMk.set rfl ?_ ?_
    | apply Upd.of <;> intro hp <;>
        first | exact absurd hp (by decide) | with_reducible rfl | dsimp only
    | (with_reducible refine Kept.ofPair (by assumption) ?_)
    | split
    | dsimp only [id]

end Sys2Proof.Safety
end

