-- ==== Sys2Proof/Laws/Frames/Loading.lean ====
section
/-! SUPPORT. What each shared operation of Machine/Loading.lean may change. -/

set_option Elab.async false
set_option linter.unreachableTactic false
set_option linter.unusedTactic false
set_option linter.unusedSimpArgs false

namespace Sys2Proof.Safety

open Sys2Proof.Machine

theorem ignoreRecord_changes {w₀ : Nat} {s₀ s : State} (h₀ : Kept w₀ s₀ s)  (t reason : Nat)
    (hw₀ : within (parts [.start, .events, .recorder]) w₀ = true := by decide) :
    Kept w₀ s₀ (ignoreRecord t reason s) := by
  refine h₀.trans (v := parts [.start, .events, .recorder]) ?_ hw₀
  clear h₀ hw₀
  unfold ignoreRecord
  try dsimp only
  repeat' first
    | with_reducible first | exact Kept.refl _ _ | assumption
    | with_reducible first | refine emit_changes ?_ _ _ _
    | with_reducible refine Kept.ite (fun _ => ?_) (fun _ => ?_)
    | simp only [↓kept_mk]; refine KeptMk.set rfl ?_ ?_
    | apply Upd.of <;> intro hp <;>
        first | exact absurd hp (by decide) | with_reducible rfl | dsimp only
    | split
    | dsimp only [id]

theorem countLoaded_changes {w₀ : Nat} {s₀ s : State} (h₀ : Kept w₀ s₀ s)  
    (hw₀ : within (parts [.start]) w₀ = true := by decide) :
    Kept w₀ s₀ (countLoaded s) := by
  refine h₀.trans (v := parts [.start]) ?_ hw₀
  clear h₀ hw₀
  unfold countLoaded
  try dsimp only
  repeat' first
    | with_reducible first | exact Kept.refl _ _ | assumption
    | with_reducible refine Kept.ite (fun _ => ?_) (fun _ => ?_)
    | simp only [↓kept_mk]; refine KeptMk.set rfl ?_ ?_
    | apply Upd.of <;> intro hp <;>
        first | exact absurd hp (by decide) | with_reducible rfl | dsimp only
    | split
    | dsimp only [id]

theorem holdAtStart_changes {w₀ : Nat} {s₀ s : State} (h₀ : Kept w₀ s₀ s)  (b : Bough)
    (hw₀ : within (parts [.safety]) w₀ = true := by decide) :
    Kept w₀ s₀ (holdAtStart b s) := by
  refine h₀.trans (v := parts [.safety]) ?_ hw₀
  clear h₀ hw₀
  unfold holdAtStart
  try dsimp only
  repeat' first
    | with_reducible first | exact Kept.refl _ _ | assumption
    | with_reducible first | refine onSaf_changes_view ?_ _ _ ?_
    | exact SameView.of fun x => by first | rfl | (dsimp only; split <;> rfl)
    | with_reducible refine Kept.ite (fun _ => ?_) (fun _ => ?_)
    | simp only [↓kept_mk]; refine KeptMk.set rfl ?_ ?_
    | apply Upd.of <;> intro hp <;>
        first | exact absurd hp (by decide) | with_reducible rfl | dsimp only
    | split
    | dsimp only [id]

theorem overwrites_changes {w₀ : Nat} {s₀ s : State} (h₀ : Kept w₀ s₀ s)  (written : List (Nat × Nat)) (base n : Nat)
    (hw₀ : within (parts [.events, .recorder]) w₀ = true := by decide) :
    Kept w₀ s₀ (overwrites written base n s) := by
  refine h₀.trans (v := parts [.events, .recorder]) ?_ hw₀
  clear h₀ hw₀
  unfold overwrites
  try dsimp only
  repeat' first
    | with_reducible first | exact Kept.refl _ _ | assumption
    | with_reducible first | refine emit_changes ?_ _ _ _ | refine Kept.foldl _ _ ?_ fun u x hu => ?_
    | with_reducible refine Kept.ite (fun _ => ?_) (fun _ => ?_)
    | split
    | dsimp only [id]

theorem loadPage_changes {w₀ : Nat} {s₀ : State} {l : Loading} (h₀ : Kept w₀ s₀ l.1) (t : Nat) (body : List Byte)
    (hw₀ : within (parts [.start, .pages, .events, .recorder]) w₀ = true := by decide) : Kept w₀ s₀ (loadPage t body l).1 := by
  obtain ⟨s, written⟩ := l
  suffices hd : Kept (parts [.start, .pages, .events, .recorder]) s (loadPage t body (s, written)).1 from h₀.trans hd hw₀
  unfold loadPage
  dsimp only
  split
  · exact ignoreRecord_changes (.refl _ _) _ _
  · split
    · exact ignoreRecord_changes (.refl _ _) _ _
    · split
      · exact ignoreRecord_changes (.refl _ _) _ _
      · with_reducible refine overwrites_changes (countLoaded_changes ?_) _ _ _
        simp only [↓kept_mk]
        refine KeptMk.set rfl (.refl _ _) ?_
        apply Upd.of <;> intro hp <;> first | exact absurd hp (by decide) | with_reducible rfl | dsimp only

theorem loadTable_changes {w₀ : Nat} {s₀ s : State} (h₀ : Kept w₀ s₀ s)  (active : Option Nat) (t : Nat) (body : List Byte)
    (hw₀ : within (parts [.start, .pages, .events, .recorder]) w₀ = true := by decide) :
    Kept w₀ s₀ (loadTable active t body s) := by
  refine h₀.trans (v := parts [.start, .pages, .events, .recorder]) ?_ hw₀
  clear h₀ hw₀
  unfold loadTable
  try dsimp only
  repeat' first
    | with_reducible first | exact Kept.refl _ _ | assumption
    | with_reducible first | refine countLoaded_changes ?_ | refine emit_changes ?_ _ _ _
    | with_reducible first | refine ignoreRecord_changes ?_ _ _
    | with_reducible refine Kept.ite (fun _ => ?_) (fun _ => ?_)
    | simp only [↓kept_mk]; refine KeptMk.set rfl ?_ ?_
    | apply Upd.of <;> intro hp <;>
        first | exact absurd hp (by decide) | with_reducible rfl | dsimp only
    | split
    | dsimp only [id]

theorem imageRecord_changes {w₀ : Nat} {s₀ : State} {l : Loading} (h₀ : Kept w₀ s₀ l.1) (active : Option Nat) (r : ImgRec)
    (hw₀ : within (parts [.start, .pages, .events, .safety, .recorder]) w₀ = true := by decide) : Kept w₀ s₀ (imageRecord active l r).1 := by
  suffices hd : Kept (parts [.start, .pages, .events, .safety, .recorder]) l.1 (imageRecord active l r).1 from h₀.trans hd hw₀
  unfold imageRecord
  dsimp only
  split
  · exact .refl _ _
  · split
    · with_reducible refine Kept.foldl _ _ ?_ fun u x hu => ?_
      · with_reducible refine emit_changes ?_ _ _ _
        simp only [↓kept_mk]
        refine KeptMk.set rfl (.refl _ _) ?_
        apply Upd.of <;> intro hp <;> first | exact absurd hp (by decide) | with_reducible rfl | dsimp only
      · exact holdAtStart_changes hu _
    · split
      · exact loadPage_changes (.refl _ _) _ _
      · split
        · exact loadTable_changes (.refl _ _) _ _ _
        · exact ignoreRecord_changes (.refl _ _) _ _

theorem completeInverse_changes {w₀ : Nat} {s₀ s : State} (h₀ : Kept w₀ s₀ s)  (written : List (Nat × Nat))
    (hw₀ : within (parts [.pages]) w₀ = true := by decide) :
    Kept w₀ s₀ (completeInverse written s) := by
  refine h₀.trans (v := parts [.pages]) ?_ hw₀
  clear h₀ hw₀
  unfold completeInverse
  try dsimp only
  repeat' first
    | with_reducible first | exact Kept.refl _ _ | assumption
    | with_reducible first | refine Kept.foldl _ _ ?_ fun u x hu => ?_
    | with_reducible refine Kept.ite (fun _ => ?_) (fun _ => ?_)
    | simp only [↓kept_mk]; refine KeptMk.set rfl ?_ ?_
    | apply Upd.of <;> intro hp <;>
        first | exact absurd hp (by decide) | with_reducible rfl | dsimp only
    | split
    | dsimp only [id]

theorem checkSafetyReg_changes {w₀ : Nat} {s₀ s : State} (h₀ : Kept w₀ s₀ s)  (written : List (Nat × Nat)) (a : Nat)
    (hw₀ : within (parts [.pages, .events, .safety, .recorder]) w₀ = true := by decide) :
    Kept w₀ s₀ (checkSafetyReg written a s) := by
  refine h₀.trans (v := parts [.pages, .events, .safety, .recorder]) ?_ hw₀
  clear h₀ hw₀
  unfold checkSafetyReg
  try dsimp only
  repeat' first
    | with_reducible first | exact Kept.refl _ _ | assumption
    | with_reducible first | refine emit_changes ?_ _ _ _ | refine holdAtStart_changes ?_ _
    | with_reducible first | refine Kept.forBoughs _ ?_ fun b u hu => ?_ | refine Kept.foldl _ _ ?_ fun u x hu => ?_
    | with_reducible refine Kept.ite (fun _ => ?_) (fun _ => ?_)
    | simp only [↓kept_mk]; refine KeptMk.set rfl ?_ ?_
    | apply Upd.of <;> intro hp <;>
        first | exact absurd hp (by decide) | with_reducible rfl | dsimp only
    | split
    | dsimp only [id]

theorem holdForSetting_changes {w₀ : Nat} {s₀ s : State} (h₀ : Kept w₀ s₀ s)  (written : List (Nat × Nat)) (a : Nat) (b : Bough)
    (hw₀ : within (parts [.events, .safety, .recorder]) w₀ = true := by decide) :
    Kept w₀ s₀ (holdForSetting written a b s) := by
  refine h₀.trans (v := parts [.events, .safety, .recorder]) ?_ hw₀
  clear h₀ hw₀
  unfold holdForSetting
  try dsimp only
  repeat' first
    | with_reducible first | exact Kept.refl _ _ | assumption
    | with_reducible first | refine emit_changes ?_ _ _ _ | refine holdAtStart_changes ?_ _
    | with_reducible refine Kept.ite (fun _ => ?_) (fun _ => ?_)
    | split
    | dsimp only [id]

theorem imageConflicts_changes {w₀ : Nat} {s₀ s : State} (h₀ : Kept w₀ s₀ s)  (written : List (Nat × Nat))
    (hw₀ : within (parts [.events, .safety, .recorder]) w₀ = true := by decide) :
    Kept w₀ s₀ (imageConflicts written s) := by
  refine h₀.trans (v := parts [.events, .safety, .recorder]) ?_ hw₀
  clear h₀ hw₀
  unfold imageConflicts
  try dsimp only
  repeat' first
    | with_reducible first | exact Kept.refl _ _ | assumption
    | with_reducible first | refine holdForSetting_changes ?_ _ _ _ | refine onSaf_changes_view ?_ _ _ ?_
    | with_reducible first | refine Kept.forBoughs _ ?_ fun b u hu => ?_
    | exact SameView.of fun x => by first | rfl | (dsimp only; split <;> rfl)
    | with_reducible refine Kept.ite (fun _ => ?_) (fun _ => ?_)
    | simp only [↓kept_mk]; refine KeptMk.set rfl ?_ ?_
    | apply Upd.of <;> intro hp <;>
        first | exact absurd hp (by decide) | with_reducible rfl | dsimp only
    | split
    | dsimp only [id]

theorem missing_changes {w₀ : Nat} {s₀ s : State} (h₀ : Kept w₀ s₀ s)  (t : Nat)
    (hw₀ : within (parts [.start, .events, .recorder]) w₀ = true := by decide) :
    Kept w₀ s₀ (missing t s) := by
  refine h₀.trans (v := parts [.start, .events, .recorder]) ?_ hw₀
  clear h₀ hw₀
  unfold missing
  try dsimp only
  repeat' first
    | with_reducible first | exact Kept.refl _ _ | assumption
    | with_reducible first | refine emit_changes ?_ _ _ _
    | with_reducible refine Kept.ite (fun _ => ?_) (fun _ => ?_)
    | simp only [↓kept_mk]; refine KeptMk.set rfl ?_ ?_
    | apply Upd.of <;> intro hp <;>
        first | exact absurd hp (by decide) | with_reducible rfl | dsimp only
    | split
    | dsimp only [id]

theorem requireRecords_changes {w₀ : Nat} {s₀ s : State} (h₀ : Kept w₀ s₀ s)  (written : List (Nat × Nat))
    (hw₀ : within (parts [.start, .events, .safety, .recorder]) w₀ = true := by decide) :
    Kept w₀ s₀ (requireRecords written s) := by
  refine h₀.trans (v := parts [.start, .events, .safety, .recorder]) ?_ hw₀
  clear h₀ hw₀
  unfold requireRecords
  try dsimp only
  repeat' first
    | with_reducible first | exact Kept.refl _ _ | assumption
    | with_reducible first | refine holdAtStart_changes ?_ _ | refine missing_changes ?_ _
    | with_reducible first | refine Kept.forBoughs _ ?_ fun b u hu => ?_
    | with_reducible refine Kept.ite (fun _ => ?_) (fun _ => ?_)
    | split
    | dsimp only [id]

theorem takeFailsafe_changes {w₀ : Nat} {s₀ s : State} (h₀ : Kept w₀ s₀ s)  
    (hw₀ : within (parts [.events, .recorder, .stored]) w₀ = true := by decide) :
    Kept w₀ s₀ (takeFailsafe s) := by
  refine h₀.trans (v := parts [.events, .recorder, .stored]) ?_ hw₀
  clear h₀ hw₀
  unfold takeFailsafe
  try dsimp only
  repeat' first
    | with_reducible first | exact Kept.refl _ _ | assumption
    | with_reducible first | refine emit_changes ?_ _ _ _
    | with_reducible refine Kept.ite (fun _ => ?_) (fun _ => ?_)
    | simp only [↓kept_mk]; refine KeptMk.set rfl ?_ ?_
    | apply Upd.of <;> intro hp <;>
        first | exact absurd hp (by decide) | with_reducible rfl | dsimp only
    | split
    | dsimp only [id]

theorem takeGlyphs_changes {w₀ : Nat} {s₀ s : State} (h₀ : Kept w₀ s₀ s)  
    (hw₀ : within (parts [.events, .display, .recorder]) w₀ = true := by decide) :
    Kept w₀ s₀ (takeGlyphs s) := by
  refine h₀.trans (v := parts [.events, .display, .recorder]) ?_ hw₀
  clear h₀ hw₀
  unfold takeGlyphs
  try dsimp only
  repeat' first
    | with_reducible first | exact Kept.refl _ _ | assumption
    | with_reducible first | refine emit_changes ?_ _ _ _
    | with_reducible refine Kept.ite (fun _ => ?_) (fun _ => ?_)
    | simp only [↓kept_mk]; refine KeptMk.set rfl ?_ ?_
    | apply Upd.of <;> intro hp <;>
        first | exact absurd hp (by decide) | with_reducible rfl | dsimp only
    | split
    | dsimp only [id]

theorem takeBudgets_changes {w₀ : Nat} {s₀ s : State} (h₀ : Kept w₀ s₀ s)  
    (hw₀ : within (parts [.events, .recorder]) w₀ = true := by decide) :
    Kept w₀ s₀ (takeBudgets s) := by
  refine h₀.trans (v := parts [.events, .recorder]) ?_ hw₀
  clear h₀ hw₀
  unfold takeBudgets
  try dsimp only
  repeat' first
    | with_reducible first | exact Kept.refl _ _ | assumption
    | with_reducible first | refine emit_changes ?_ _ _ _
    | with_reducible refine Kept.ite (fun _ => ?_) (fun _ => ?_)
    | simp only [↓kept_mk]; refine KeptMk.set rfl ?_ ?_
    | apply Upd.of <;> intro hp <;>
        first | exact absurd hp (by decide) | with_reducible rfl | dsimp only
    | split
    | dsimp only [id]

theorem takeMembership_changes {w₀ : Nat} {s₀ s : State} (h₀ : Kept w₀ s₀ s)  
    (hw₀ : within (parts [.canopy]) w₀ = true := by decide) :
    Kept w₀ s₀ (takeMembership s) := by
  refine h₀.trans (v := parts [.canopy]) ?_ hw₀
  clear h₀ hw₀
  unfold takeMembership
  try dsimp only
  repeat' first
    | with_reducible first | exact Kept.refl _ _ | assumption
    | with_reducible refine Kept.ite (fun _ => ?_) (fun _ => ?_)
    | simp only [↓kept_mk]; refine KeptMk.set rfl ?_ ?_
    | apply Upd.of <;> intro hp <;>
        first | exact absurd hp (by decide) | with_reducible rfl | dsimp only
    | split
    | dsimp only [id]

theorem takeMac_changes {w₀ : Nat} {s₀ s : State} (h₀ : Kept w₀ s₀ s)  
    (hw₀ : within (parts [.association]) w₀ = true := by decide) :
    Kept w₀ s₀ (takeMac s) := by
  refine h₀.trans (v := parts [.association]) ?_ hw₀
  clear h₀ hw₀
  unfold takeMac
  try dsimp only
  repeat' first
    | with_reducible first | exact Kept.refl _ _ | assumption
    | with_reducible refine Kept.ite (fun _ => ?_) (fun _ => ?_)
    | simp only [↓kept_mk]; refine KeptMk.set rfl ?_ ?_
    | apply Upd.of <;> intro hp <;>
        first | exact absurd hp (by decide) | with_reducible rfl | dsimp only
    | split
    | dsimp only [id]

theorem settingsInForce_changes {w₀ : Nat} {s₀ s : State} (h₀ : Kept w₀ s₀ s)  
    (hw₀ : within (parts [.free, .trunk, .events, .ports, .modems, .association, .safety, .sampling, .energy, .heartwood, .loads, .loadDev, .tag, .mirror, .recorder, .backup, .tagMem]) w₀ = true := by decide) :
    Kept w₀ s₀ (settingsInForce s) := by
  refine h₀.trans (v := parts [.free, .trunk, .events, .ports, .modems, .association, .safety, .sampling, .energy, .heartwood, .loads, .loadDev, .tag, .mirror, .recorder, .backup, .tagMem]) ?_ hw₀
  clear h₀ hw₀
  unfold settingsInForce
  try dsimp only
  repeat' first
    | with_reducible first | exact Kept.refl _ _ | assumption
    | with_reducible first | refine auxAll_changes ?_ | refine driveAll_changes ?_ | refine refreshIdentity_changes ?_
    | with_reducible first | refine takeBridges_changes ?_ | refine onMtr_changes ?_ _ _ | refine onNrg_changes ?_ _ _
    | with_reducible first | refine Kept.forBoughs _ ?_ fun b u hu => ?_
    | with_reducible refine Kept.ite (fun _ => ?_) (fun _ => ?_)
    | simp only [↓kept_mk]; refine KeptMk.set rfl ?_ ?_
    | apply Upd.of <;> intro hp <;>
        first | exact absurd hp (by decide) | with_reducible rfl | dsimp only
    | split
    | dsimp only [id]

theorem loadRecords_changes {w₀ : Nat} {s₀ s : State} (h₀ : Kept w₀ s₀ s)  (rs : List ImgRec)
    (hw₀ : within (parts [.free, .trunk, .start, .pages, .events, .ports, .modems, .association, .safety, .sampling, .energy, .heartwood, .loads, .loadDev, .display, .canopy, .tag, .mirror, .recorder, .backup, .tagMem, .stored]) w₀ = true := by decide) :
    Kept w₀ s₀ (loadRecords rs s) := by
  refine h₀.trans (v := parts [.free, .trunk, .start, .pages, .events, .ports, .modems, .association, .safety, .sampling, .energy, .heartwood, .loads, .loadDev, .display, .canopy, .tag, .mirror, .recorder, .backup, .tagMem, .stored]) ?_ hw₀
  clear h₀ hw₀
  unfold loadRecords
  try dsimp only
  repeat' first
    | with_reducible first | exact Kept.refl _ _ | assumption
    | with_reducible first | refine checkSafetyReg_changes ?_ _ _ | refine completeInverse_changes ?_ _
    | with_reducible first | refine imageConflicts_changes ?_ _ | refine imageRecord_changes ?_ _ _
    | with_reducible first | refine requireRecords_changes ?_ _ | refine settingsInForce_changes ?_
    | with_reducible first | refine takeBudgets_changes ?_ | refine takeFailsafe_changes ?_
    | with_reducible first | refine takeGlyphs_changes ?_ | refine takeMac_changes ?_
    | with_reducible first | refine takeMembership_changes ?_ | refine Kept.foldlFst _ _ ?_ fun u x hu => ?_
    | with_reducible first | refine Kept.foldl _ _ ?_ fun u x hu => ?_
    | with_reducible refine Kept.ite (fun _ => ?_) (fun _ => ?_)
    | simp only [↓kept_mk]; refine KeptMk.set rfl ?_ ?_
    | apply Upd.of <;> intro hp <;>
        first | exact absurd hp (by decide) | with_reducible rfl | dsimp only
    | split
    | dsimp only [id]

end Sys2Proof.Safety
end

