-- ==== Sys2Proof/Laws/Frames/Start.lean ====
section
/-! SUPPORT. What each shared operation of Machine/Start.lean may change. -/

set_option Elab.async false
set_option linter.unreachableTactic false
set_option linter.unusedTactic false
set_option linter.unusedSimpArgs false

namespace Sys2Proof.Safety

open Sys2Proof.Machine

theorem phaseDone_changes {w₀ : Nat} {s₀ s : State} (h₀ : Kept w₀ s₀ s)  (p : Nat)
    (hw₀ : within (parts [.start]) w₀ = true := by decide) :
    Kept w₀ s₀ (phaseDone p s) := by
  refine h₀.trans (v := parts [.start]) ?_ hw₀
  clear h₀ hw₀
  unfold phaseDone
  try dsimp only
  repeat' first
    | with_reducible first | exact Kept.refl _ _ | assumption
    | with_reducible refine Kept.ite (fun _ => ?_) (fun _ => ?_)
    | simp only [↓kept_mk]; refine KeptMk.set rfl ?_ ?_
    | apply Upd.of <;> intro hp <;>
        first | exact absurd hp (by decide) | with_reducible rfl | dsimp only
    | split
    | dsimp only [id]

theorem stopSummary_changes {w₀ : Nat} {s₀ s : State} (h₀ : Kept w₀ s₀ s)  
    (hw₀ : within (parts [.tag, .mirror, .tagMem]) w₀ = true := by decide) :
    Kept w₀ s₀ (stopSummary s) := by
  refine h₀.trans (v := parts [.tag, .mirror, .tagMem]) ?_ hw₀
  clear h₀ hw₀
  unfold stopSummary
  try dsimp only
  repeat' first
    | with_reducible first | exact Kept.refl _ _ | assumption
    | with_reducible first | refine tagWritePage_changes ?_ _ _
    | with_reducible refine Kept.ite (fun _ => ?_) (fun _ => ?_)
    | split
    | dsimp only [id]

theorem stopStart_changes {w₀ : Nat} {s₀ s : State} (h₀ : Kept w₀ s₀ s)  (p reason : Nat)
    (hw₀ : within (parts [.start, .events, .tag, .mirror, .recorder, .tagMem]) w₀ = true := by decide) :
    Kept w₀ s₀ (stopStart p reason s) := by
  refine h₀.trans (v := parts [.start, .events, .tag, .mirror, .recorder, .tagMem]) ?_ hw₀
  clear h₀ hw₀
  unfold stopStart
  try dsimp only
  repeat' first
    | with_reducible first | exact Kept.refl _ _ | assumption
    | with_reducible first | refine emit_changes ?_ _ _ _ | refine raiseIrq_changes ?_ _
    | with_reducible first | refine stopSummary_changes ?_
    | with_reducible refine Kept.ite (fun _ => ?_) (fun _ => ?_)
    | simp only [↓kept_mk]; refine KeptMk.set rfl ?_ ?_
    | apply Upd.of <;> intro hp <;>
        first | exact absurd hp (by decide) | with_reducible rfl | dsimp only
    | split
    | dsimp only [id]

theorem stopAfterTest_changes {w₀ : Nat} {s₀ s : State} (h₀ : Kept w₀ s₀ s)  (p reason : Nat)
    (hw₀ : within (parts [.start]) w₀ = true := by decide) :
    Kept w₀ s₀ (stopAfterTest p reason s) := by
  refine h₀.trans (v := parts [.start]) ?_ hw₀
  clear h₀ hw₀
  unfold stopAfterTest
  try dsimp only
  repeat' first
    | with_reducible first | exact Kept.refl _ _ | assumption
    | with_reducible refine Kept.ite (fun _ => ?_) (fun _ => ?_)
    | simp only [↓kept_mk]; refine KeptMk.set rfl ?_ ?_
    | apply Upd.of <;> intro hp <;>
        first | exact absurd hp (by decide) | with_reducible rfl | dsimp only
    | split
    | dsimp only [id]

theorem ignoreEntry_changes {w₀ : Nat} {s₀ s : State} (h₀ : Kept w₀ s₀ s)  (map i : Nat)
    (hw₀ : within (parts [.events, .recorder]) w₀ = true := by decide) :
    Kept w₀ s₀ (ignoreEntry map i s) := by
  refine h₀.trans (v := parts [.events, .recorder]) ?_ hw₀
  clear h₀ hw₀
  unfold ignoreEntry
  try dsimp only
  repeat' first
    | with_reducible first | exact Kept.refl _ _ | assumption
    | with_reducible first | refine emit_changes ?_ _ _ _
    | with_reducible refine Kept.ite (fun _ => ?_) (fun _ => ?_)
    | split
    | dsimp only [id]

theorem applyRow_changes {w₀ : Nat} {s₀ s : State} (h₀ : Kept w₀ s₀ s)  (map i e : Nat)
    (hw₀ : within (parts [.events, .memory, .recorder]) w₀ = true := by decide) :
    Kept w₀ s₀ (applyRow map i e s) := by
  refine h₀.trans (v := parts [.events, .memory, .recorder]) ?_ hw₀
  clear h₀ hw₀
  unfold applyRow
  try dsimp only
  repeat' first
    | with_reducible first | exact Kept.refl _ _ | assumption
    | with_reducible first | refine ignoreEntry_changes ?_ _ _
    | with_reducible refine Kept.ite (fun _ => ?_) (fun _ => ?_)
    | simp only [↓kept_mk]; refine KeptMk.set rfl ?_ ?_
    | apply Upd.of <;> intro hp <;>
        first | exact absurd hp (by decide) | with_reducible rfl | dsimp only
    | split
    | dsimp only [id]

theorem applyCol_changes {w₀ : Nat} {s₀ s : State} (h₀ : Kept w₀ s₀ s)  (map i e : Nat)
    (hw₀ : within (parts [.events, .memory, .recorder]) w₀ = true := by decide) :
    Kept w₀ s₀ (applyCol map i e s) := by
  refine h₀.trans (v := parts [.events, .memory, .recorder]) ?_ hw₀
  clear h₀ hw₀
  unfold applyCol
  try dsimp only
  repeat' first
    | with_reducible first | exact Kept.refl _ _ | assumption
    | with_reducible first | refine ignoreEntry_changes ?_ _ _
    | with_reducible refine Kept.ite (fun _ => ?_) (fun _ => ?_)
    | simp only [↓kept_mk]; refine KeptMk.set rfl ?_ ?_
    | apply Upd.of <;> intro hp <;>
        first | exact absurd hp (by decide) | with_reducible rfl | dsimp only
    | split
    | dsimp only [id]

theorem applyLane_changes {w₀ : Nat} {s₀ s : State} (h₀ : Kept w₀ s₀ s)  (map i e : Nat)
    (hw₀ : within (parts [.trunk, .events, .recorder]) w₀ = true := by decide) :
    Kept w₀ s₀ (applyLane map i e s) := by
  refine h₀.trans (v := parts [.trunk, .events, .recorder]) ?_ hw₀
  clear h₀ hw₀
  unfold applyLane
  try dsimp only
  repeat' first
    | with_reducible first | exact Kept.refl _ _ | assumption
    | with_reducible first | refine ignoreEntry_changes ?_ _ _ | refine onSeg_changes ?_ _ _
    | with_reducible refine Kept.ite (fun _ => ?_) (fun _ => ?_)
    | simp only [↓kept_mk]; refine KeptMk.set rfl ?_ ?_
    | apply Upd.of <;> intro hp <;>
        first | exact absurd hp (by decide) | with_reducible rfl | dsimp only
    | split
    | dsimp only [id]

theorem applyEntry_changes {w₀ : Nat} {s₀ s : State} (h₀ : Kept w₀ s₀ s)  (map : Nat) (ie : Nat × BitVec 32)
    (hw₀ : within (parts [.trunk, .events, .memory, .recorder]) w₀ = true := by decide) :
    Kept w₀ s₀ (applyEntry map s ie) := by
  refine h₀.trans (v := parts [.trunk, .events, .memory, .recorder]) ?_ hw₀
  clear h₀ hw₀
  unfold applyEntry
  try dsimp only
  repeat' first
    | with_reducible first | exact Kept.refl _ _ | assumption
    | with_reducible first | refine applyCol_changes ?_ _ _ _ | refine applyLane_changes ?_ _ _ _
    | with_reducible first | refine applyRow_changes ?_ _ _ _ | refine ignoreEntry_changes ?_ _ _
    | with_reducible refine Kept.ite (fun _ => ?_) (fun _ => ?_)
    | simp only [↓kept_mk]; refine KeptMk.set rfl ?_ ?_
    | apply Upd.of <;> intro hp <;>
        first | exact absurd hp (by decide) | with_reducible rfl | dsimp only
    | split
    | dsimp only [id]

theorem applyMaps_changes {w₀ : Nat} {s₀ s : State} (h₀ : Kept w₀ s₀ s)  
    (hw₀ : within (parts [.trunk, .events, .memory, .recorder]) w₀ = true := by decide) :
    Kept w₀ s₀ (applyMaps s) := by
  refine h₀.trans (v := parts [.trunk, .events, .memory, .recorder]) ?_ hw₀
  clear h₀ hw₀
  unfold applyMaps
  try dsimp only
  repeat' first
    | with_reducible first | exact Kept.refl _ _ | assumption
    | with_reducible first | refine applyEntry_changes ?_ _ _ | refine Kept.foldl _ _ ?_ fun u x hu => ?_
    | with_reducible refine Kept.ite (fun _ => ?_) (fun _ => ?_)
    | split
    | dsimp only [id]

theorem applyReserves_changes {w₀ : Nat} {s₀ s : State} (h₀ : Kept w₀ s₀ s)  
    (hw₀ : within (parts [.sampling]) w₀ = true := by decide) :
    Kept w₀ s₀ (applyReserves s) := by
  refine h₀.trans (v := parts [.sampling]) ?_ hw₀
  clear h₀ hw₀
  unfold applyReserves
  try dsimp only
  repeat' first
    | with_reducible first | exact Kept.refl _ _ | assumption
    | with_reducible first | refine onMtr_changes ?_ _ _ | refine Kept.forBoughs _ ?_ fun b u hu => ?_
    | with_reducible refine Kept.ite (fun _ => ?_) (fun _ => ?_)
    | simp only [↓kept_mk]; refine KeptMk.set rfl ?_ ?_
    | apply Upd.of <;> intro hp <;>
        first | exact absurd hp (by decide) | with_reducible rfl | dsimp only
    | split
    | dsimp only [id]

theorem readDirectory_changes {w₀ : Nat} {s₀ s : State} (h₀ : Kept w₀ s₀ s)  
    (hw₀ : within (parts [.events, .recorder]) w₀ = true := by decide) :
    Kept w₀ s₀ (readDirectory s) := by
  refine h₀.trans (v := parts [.events, .recorder]) ?_ hw₀
  clear h₀ hw₀
  unfold readDirectory
  try dsimp only
  repeat' first
    | with_reducible first | exact Kept.refl _ _ | assumption
    | with_reducible first | refine emit_changes ?_ _ _ _
    | with_reducible refine Kept.ite (fun _ => ?_) (fun _ => ?_)
    | simp only [↓kept_mk]; refine KeptMk.set rfl ?_ ?_
    | apply Upd.of <;> intro hp <;>
        first | exact absurd hp (by decide) | with_reducible rfl | dsimp only
    | split
    | dsimp only [id]

theorem actOnState_changes {w₀ : Nat} {s₀ s : State} (h₀ : Kept w₀ s₀ s)  
    (hw₀ : within (parts [.start, .events, .recorder, .update, .flash]) w₀ = true := by decide) :
    Kept w₀ s₀ (actOnState s) := by
  refine h₀.trans (v := parts [.start, .events, .recorder, .update, .flash]) ?_ hw₀
  clear h₀ hw₀
  unfold actOnState
  try dsimp only
  repeat' first
    | with_reducible first | exact Kept.refl _ _ | assumption
    | with_reducible first | refine fallBack_changes ?_ _ _ | refine writeDir_changes ?_ _ _ _
    | with_reducible refine Kept.ite (fun _ => ?_) (fun _ => ?_)
    | simp only [↓kept_mk]; refine KeptMk.set rfl ?_ ?_
    | apply Upd.of <;> intro hp <;>
        first | exact absurd hp (by decide) | with_reducible rfl | dsimp only
    | split
    | dsimp only [id]

theorem putStart_changes {w₀ : Nat} {s₀ s : State} (h₀ : Kept w₀ s₀ s)  (e : StartEntry)
    (hw₀ : within (parts [.flash]) w₀ = true := by decide) :
    Kept w₀ s₀ (putStart e s) := by
  refine h₀.trans (v := parts [.flash]) ?_ hw₀
  clear h₀ hw₀
  unfold putStart
  try dsimp only
  repeat' first
    | with_reducible first | exact Kept.refl _ _ | assumption
    | with_reducible first | refine beginSlot_changes ?_
    | with_reducible refine Kept.ite (fun _ => ?_) (fun _ => ?_)
    | simp only [↓kept_mk]; refine KeptMk.set rfl ?_ ?_
    | apply Upd.of <;> intro hp <;>
        first | exact absurd hp (by decide) | with_reducible rfl | dsimp only
    | split
    | dsimp only [id]

theorem tornStarts_changes {w₀ : Nat} {s₀ s : State} (h₀ : Kept w₀ s₀ s)  (n : Nat)
    (hw₀ : within (parts [.flash]) w₀ = true := by decide) :
    Kept w₀ s₀ (tornStarts n s) := by
  refine h₀.trans (v := parts [.flash]) ?_ hw₀
  clear h₀ hw₀
  unfold tornStarts
  try dsimp only
  repeat' first
    | with_reducible first | exact Kept.refl _ _ | assumption
    | with_reducible first | refine putStart_changes ?_ _ | refine Kept.foldl _ _ ?_ fun u x hu => ?_
    | with_reducible refine Kept.ite (fun _ => ?_) (fun _ => ?_)
    | split
    | dsimp only [id]

theorem writeStartEntry_changes {w₀ : Nat} {s₀ s : State} (h₀ : Kept w₀ s₀ s)  (n : Fin 3)
    (hw₀ : within (parts [.lattice, .events, .canopy, .recorder, .flash]) w₀ = true := by decide) :
    Kept w₀ s₀ (writeStartEntry n s) := by
  refine h₀.trans (v := parts [.lattice, .events, .canopy, .recorder, .flash]) ?_ hw₀
  clear h₀ hw₀
  unfold writeStartEntry
  try dsimp only
  repeat' first
    | with_reducible first | exact Kept.refl _ _ | assumption
    | with_reducible first | refine emit_changes ?_ _ _ _ | refine putStart_changes ?_ _
    | with_reducible first | refine tornStarts_changes ?_ _
    | with_reducible refine Kept.ite (fun _ => ?_) (fun _ => ?_)
    | simp only [↓kept_mk]; refine KeptMk.set rfl ?_ ?_
    | apply Upd.of <;> intro hp <;>
        first | exact absurd hp (by decide) | with_reducible rfl | dsimp only
    | split
    | dsimp only [id]

theorem reportSupplies_changes {w₀ : Nat} {s₀ s : State} (h₀ : Kept w₀ s₀ s)  
    (hw₀ : within (parts [.events, .recorder, .backup]) w₀ = true := by decide) :
    Kept w₀ s₀ (reportSupplies s) := by
  refine h₀.trans (v := parts [.events, .recorder, .backup]) ?_ hw₀
  clear h₀ hw₀
  unfold reportSupplies
  try dsimp only
  repeat' first
    | with_reducible first | exact Kept.refl _ _ | assumption
    | with_reducible first | refine emitAtStart_changes ?_ _ _ _ | refine Kept.foldl _ _ ?_ fun u x hu => ?_
    | with_reducible refine Kept.ite (fun _ => ?_) (fun _ => ?_)
    | simp only [↓kept_mk]; refine KeptMk.set rfl ?_ ?_
    | apply Upd.of <;> intro hp <;>
        first | exact absurd hp (by decide) | with_reducible rfl | dsimp only
    | split
    | dsimp only [id]

theorem checkRoot_changes {w₀ : Nat} {s₀ s : State} (h₀ : Kept w₀ s₀ s)  (i : Fin 4)
    (hw₀ : within (parts [.events, .recorder, .backup]) w₀ = true := by decide) :
    Kept w₀ s₀ (checkRoot i s) := by
  refine h₀.trans (v := parts [.events, .recorder, .backup]) ?_ hw₀
  clear h₀ hw₀
  unfold checkRoot
  try dsimp only
  repeat' first
    | with_reducible first | exact Kept.refl _ _ | assumption
    | with_reducible first | refine emitAtStart_changes ?_ _ _ _
    | with_reducible refine Kept.ite (fun _ => ?_) (fun _ => ?_)
    | simp only [↓kept_mk]; refine KeptMk.set rfl ?_ ?_
    | apply Upd.of <;> intro hp <;>
        first | exact absurd hp (by decide) | with_reducible rfl | dsimp only
    | split
    | dsimp only [id]

theorem reportBackup_changes {w₀ : Nat} {s₀ s : State} (h₀ : Kept w₀ s₀ s)  
    (hw₀ : within (parts [.events, .recorder, .backup]) w₀ = true := by decide) :
    Kept w₀ s₀ (reportBackup s) := by
  refine h₀.trans (v := parts [.events, .recorder, .backup]) ?_ hw₀
  clear h₀ hw₀
  unfold reportBackup
  try dsimp only
  repeat' first
    | with_reducible first | exact Kept.refl _ _ | assumption
    | with_reducible first | refine checkRoot_changes ?_ _ | refine emitAtStart_changes ?_ _ _ _
    | with_reducible first | refine Kept.foldl _ _ ?_ fun u x hu => ?_
    | with_reducible refine Kept.ite (fun _ => ?_) (fun _ => ?_)
    | simp only [↓kept_mk]; refine KeptMk.set rfl ?_ ?_
    | apply Upd.of <;> intro hp <;>
        first | exact absurd hp (by decide) | with_reducible rfl | dsimp only
    | split
    | dsimp only [id]

theorem patternTest_changes {w₀ : Nat} {s₀ s : State} (h₀ : Kept w₀ s₀ s)  (t : PatternTest)
    (hw₀ : within (parts [.events, .bulk, .tag, .mirror, .memory, .cells, .recorder]) w₀ = true := by decide) :
    Kept w₀ s₀ (patternTest t s) := by
  refine h₀.trans (v := parts [.events, .bulk, .tag, .mirror, .memory, .cells, .recorder]) ?_ hw₀
  clear h₀ hw₀
  unfold patternTest
  try dsimp only
  repeat' first
    | with_reducible first | exact Kept.refl _ _ | assumption
    | with_reducible first | refine emit_changes ?_ _ _ _ | refine repairHard_changes ?_ _ _ _
    | with_reducible first | refine Kept.foldl _ _ ?_ fun u x hu => ?_
    | with_reducible refine Kept.ite (fun _ => ?_) (fun _ => ?_)
    | simp only [↓kept_mk]; refine KeptMk.set rfl ?_ ?_
    | apply Upd.of <;> intro hp <;>
        first | exact absurd hp (by decide) | with_reducible rfl | dsimp only
    | split
    | dsimp only [id]

theorem useSlot_changes {w₀ : Nat} {s₀ s : State} (h₀ : Kept w₀ s₀ s)  (n : Nat)
    (hw₀ : within (parts [.free, .trunk, .start, .pages, .events, .ports, .modems, .association, .safety, .sampling, .energy, .heartwood, .loads, .loadDev, .display, .canopy, .tag, .mirror, .recorder, .backup, .tagMem, .stored]) w₀ = true := by decide) :
    Kept w₀ s₀ (useSlot n s) := by
  refine h₀.trans (v := parts [.free, .trunk, .start, .pages, .events, .ports, .modems, .association, .safety, .sampling, .energy, .heartwood, .loads, .loadDev, .display, .canopy, .tag, .mirror, .recorder, .backup, .tagMem, .stored]) ?_ hw₀
  clear h₀ hw₀
  unfold useSlot
  try dsimp only
  repeat' first
    | with_reducible first | exact Kept.refl _ _ | assumption
    | with_reducible first | refine loadRecords_changes ?_ _
    | with_reducible refine Kept.ite (fun _ => ?_) (fun _ => ?_)
    | simp only [↓kept_mk]; refine KeptMk.set rfl ?_ ?_
    | apply Upd.of <;> intro hp <;>
        first | exact absurd hp (by decide) | with_reducible rfl | dsimp only
    | split
    | dsimp only [id]

theorem noteBank_changes {w₀ : Nat} {s₀ s : State} (h₀ : Kept w₀ s₀ s)  (part i : Nat)
    (hw₀ : within (parts [.start, .events, .recorder, .update, .flash]) w₀ = true := by decide) :
    Kept w₀ s₀ (noteBank part i s) := by
  refine h₀.trans (v := parts [.start, .events, .recorder, .update, .flash]) ?_ hw₀
  clear h₀ hw₀
  unfold noteBank
  try dsimp only
  repeat' first
    | with_reducible first | exact Kept.refl _ _ | assumption
    | with_reducible first | refine emit_changes ?_ _ _ _ | refine writeDir_changes ?_ _ _ _
    | with_reducible refine Kept.ite (fun _ => ?_) (fun _ => ?_)
    | simp only [↓kept_mk]; refine KeptMk.set rfl ?_ ?_
    | apply Upd.of <;> intro hp <;>
        first | exact absurd hp (by decide) | with_reducible rfl | dsimp only
    | split
    | dsimp only [id]

theorem resumeHists_changes {w₀ : Nat} {s₀ s : State} (h₀ : Kept w₀ s₀ s)  
    (hw₀ : within (parts [.recorder]) w₀ = true := by decide) :
    Kept w₀ s₀ (resumeHists s) := by
  refine h₀.trans (v := parts [.recorder]) ?_ hw₀
  clear h₀ hw₀
  unfold resumeHists
  try dsimp only
  repeat' first
    | with_reducible first | exact Kept.refl _ _ | assumption
    | with_reducible refine Kept.ite (fun _ => ?_) (fun _ => ?_)
    | simp only [↓kept_mk]; refine KeptMk.set rfl ?_ ?_
    | apply Upd.of <;> intro hp <;>
        first | exact absurd hp (by decide) | with_reducible rfl | dsimp only
    | split
    | dsimp only [id]

theorem reportFatal_changes {w₀ : Nat} {s₀ s : State} (h₀ : Kept w₀ s₀ s)  
    (hw₀ : within (parts [.events, .recorder, .flash]) w₀ = true := by decide) :
    Kept w₀ s₀ (reportFatal s) := by
  refine h₀.trans (v := parts [.events, .recorder, .flash]) ?_ hw₀
  clear h₀ hw₀
  unfold reportFatal
  try dsimp only
  repeat' first
    | with_reducible first | exact Kept.refl _ _ | assumption
    | with_reducible first | refine emitAtStart_changes ?_ _ _ _
    | with_reducible refine Kept.ite (fun _ => ?_) (fun _ => ?_)
    | simp only [↓kept_mk]; refine KeptMk.set rfl ?_ ?_
    | apply Upd.of <;> intro hp <;>
        first | exact absurd hp (by decide) | with_reducible rfl | dsimp only
    | split
    | dsimp only [id]

theorem startLog_changes {w₀ : Nat} {s₀ s : State} (h₀ : Kept w₀ s₀ s)  
    (hw₀ : within (parts [.events, .recorder, .flash]) w₀ = true := by decide) :
    Kept w₀ s₀ (startLog s) := by
  refine h₀.trans (v := parts [.events, .recorder, .flash]) ?_ hw₀
  clear h₀ hw₀
  unfold startLog
  try dsimp only
  repeat' first
    | with_reducible first | exact Kept.refl _ _ | assumption
    | with_reducible first | refine decideRec_changes ?_ _ | refine emit_changes ?_ _ _ _
    | with_reducible first | refine reportFatal_changes ?_ | refine resumeHists_changes ?_
    | with_reducible first | refine Kept.foldl _ _ ?_ fun u x hu => ?_
    | with_reducible refine Kept.ite (fun _ => ?_) (fun _ => ?_)
    | simp only [↓kept_mk]; refine KeptMk.set rfl ?_ ?_
    | apply Upd.of <;> intro hp <;>
        first | exact absurd hp (by decide) | with_reducible rfl | dsimp only
    | split
    | dsimp only [id]

end Sys2Proof.Safety
end

