-- ==== Sys2Proof/Laws/Frames/Restore.lean ====
section
/-! SUPPORT. What each shared operation of Machine/Restore.lean may change. -/

set_option Elab.async false
set_option linter.unreachableTactic false
set_option linter.unusedTactic false
set_option linter.unusedSimpArgs false

namespace Sys2Proof.Safety

open Sys2Proof.Machine

theorem checkPage_changes {w₀ : Nat} {s₀ s : State} (h₀ : Kept w₀ s₀ s)  (bank : Nat) (good : Bool)
    (hw₀ : within (parts [.tag, .mirror, .tagMem]) w₀ = true := by decide) :
    Kept w₀ s₀ (checkPage bank good s) := by
  refine h₀.trans (v := parts [.tag, .mirror, .tagMem]) ?_ hw₀
  clear h₀ hw₀
  unfold checkPage
  try dsimp only
  repeat' first
    | with_reducible first | exact Kept.refl _ _ | assumption
    | with_reducible first | refine tagWritePage_changes ?_ _ _
    | with_reducible refine Kept.ite (fun _ => ?_) (fun _ => ?_)
    | split
    | dsimp only [id]

theorem loadHeartwood_changes {w₀ : Nat} {s₀ s : State} (h₀ : Kept w₀ s₀ s)  (bank : Nat)
    (hw₀ : within (parts [.start, .heartwood]) w₀ = true := by decide) :
    Kept w₀ s₀ (loadHeartwood bank s) := by
  refine h₀.trans (v := parts [.start, .heartwood]) ?_ hw₀
  clear h₀ hw₀
  unfold loadHeartwood
  try dsimp only
  repeat' first
    | with_reducible first | exact Kept.refl _ _ | assumption
    | with_reducible refine Kept.ite (fun _ => ?_) (fun _ => ?_)
    | simp only [↓kept_mk]; refine KeptMk.set rfl ?_ ?_
    | apply Upd.of <;> intro hp <;>
        first | exact absurd hp (by decide) | with_reducible rfl | dsimp only
    | split
    | dsimp only [id]

theorem restoreBill_changes {w₀ : Nat} {s₀ s : State} (h₀ : Kept w₀ s₀ s)  (e : SaveBough) (b : Bough)
    (hw₀ : within (parts [.energy, .billed]) w₀ = true := by decide) :
    Kept w₀ s₀ (restoreBill e b s) := by
  refine h₀.trans (v := parts [.energy, .billed]) ?_ hw₀
  clear h₀ hw₀
  unfold restoreBill
  try dsimp only
  repeat' first
    | with_reducible first | exact Kept.refl _ _ | assumption
    | with_reducible first | refine onBil_changes ?_ _ _ | refine onNrg_changes ?_ _ _
    | with_reducible refine Kept.ite (fun _ => ?_) (fun _ => ?_)
    | simp only [↓kept_mk]; refine KeptMk.set rfl ?_ ?_
    | apply Upd.of <;> intro hp <;>
        first | exact absurd hp (by decide) | with_reducible rfl | dsimp only
    | split
    | dsimp only [id]

theorem restoreMap_changes {w₀ : Nat} {s₀ s : State} (h₀ : Kept w₀ s₀ s)  (e : SaveBough) (b : Bough)
    (hw₀ : within (parts [.sampling]) w₀ = true := by decide) :
    Kept w₀ s₀ (restoreMap e b s) := by
  refine h₀.trans (v := parts [.sampling]) ?_ hw₀
  clear h₀ hw₀
  unfold restoreMap
  try dsimp only
  repeat' first
    | with_reducible first | exact Kept.refl _ _ | assumption
    | with_reducible first | refine onMtr_changes ?_ _ _
    | with_reducible refine Kept.ite (fun _ => ?_) (fun _ => ?_)
    | simp only [↓kept_mk]; refine KeptMk.set rfl ?_ ?_
    | apply Upd.of <;> intro hp <;>
        first | exact absurd hp (by decide) | with_reducible rfl | dsimp only
    | split
    | dsimp only [id]

theorem restoreEntry_changes {w₀ : Nat} {s₀ s : State} (h₀ : Kept w₀ s₀ s)  
    (hw₀ : within (parts [.events, .sessionDev, .sampling, .energy, .billed, .heartwood, .recorder]) w₀ = true := by decide) :
    Kept w₀ s₀ (restoreEntry s) := by
  refine h₀.trans (v := parts [.events, .sessionDev, .sampling, .energy, .billed, .heartwood, .recorder]) ?_ hw₀
  clear h₀ hw₀
  unfold restoreEntry
  try dsimp only
  repeat' first
    | with_reducible first | exact Kept.refl _ _ | assumption
    | with_reducible first | refine emit_changes ?_ _ _ _ | refine restoreBill_changes ?_ _ _
    | with_reducible first | refine restoreMap_changes ?_ _ _ | refine Kept.forBoughs _ ?_ fun b u hu => ?_
    | with_reducible refine Kept.ite (fun _ => ?_) (fun _ => ?_)
    | simp only [↓kept_mk]; refine KeptMk.set rfl ?_ ?_
    | apply Upd.of <;> intro hp <;>
        first | exact absurd hp (by decide) | with_reducible rfl | dsimp only
    | split
    | dsimp only [id]

theorem chooseCalendars_changes {w₀ : Nat} {s₀ s : State} (h₀ : Kept w₀ s₀ s)  
    (hw₀ : within (parts [.events, .billed, .heartwood, .recorder]) w₀ = true := by decide) :
    Kept w₀ s₀ (chooseCalendars s).2 := by
  refine h₀.trans (v := parts [.events, .billed, .heartwood, .recorder]) ?_ hw₀
  clear h₀ hw₀
  unfold chooseCalendars
  try dsimp only
  repeat' first
    | with_reducible first | exact Kept.refl _ _ | assumption
    | with_reducible first | refine emit_changes ?_ _ _ _ | refine lrChange_changes ?_ _ _ _ _
    | with_reducible first | refine noteFlagAll_changes ?_ _
    | with_reducible refine Kept.ite (fun _ => ?_) (fun _ => ?_)
    | simp only [↓kept_mk]; refine KeptMk.set rfl ?_ ?_
    | apply Upd.of <;> intro hp <;>
        first | exact absurd hp (by decide) | with_reducible rfl | dsimp only
    | split
    | dsimp only [id]

theorem findChanges_changes {w₀ : Nat} {s₀ s : State} (h₀ : Kept w₀ s₀ s)  
    (hw₀ : within (parts [.events, .heartwood, .recorder]) w₀ = true := by decide) :
    Kept w₀ s₀ (findChanges s).2 := by
  refine h₀.trans (v := parts [.events, .heartwood, .recorder]) ?_ hw₀
  clear h₀ hw₀
  unfold findChanges
  try dsimp only
  repeat' first
    | with_reducible first | exact Kept.refl _ _ | assumption
    | with_reducible first | refine lrChange_changes ?_ _ _ _ _
    | with_reducible refine Kept.ite (fun _ => ?_) (fun _ => ?_)
    | simp only [↓kept_mk]; refine KeptMk.set rfl ?_ ?_
    | apply Upd.of <;> intro hp <;>
        first | exact absurd hp (by decide) | with_reducible rfl | dsimp only
    | split
    | dsimp only [id]

theorem missedBoundaries_changes {w₀ : Nat} {s₀ s : State} (h₀ : Kept w₀ s₀ s)  
    (hw₀ : within (parts [.events, .billed, .heartwood, .recorder]) w₀ = true := by decide) :
    Kept w₀ s₀ (missedBoundaries s).2 := by
  refine h₀.trans (v := parts [.events, .billed, .heartwood, .recorder]) ?_ hw₀
  clear h₀ hw₀
  unfold missedBoundaries
  try dsimp only
  repeat' first
    | with_reducible first | exact Kept.refl _ _ | assumption
    | with_reducible first | refine activateCalendar_changes ?_ _ _ | refine intervalEvent_changes ?_ _ _ _ _ _
    | with_reducible first | refine openInterval_changes ?_ _
    | with_reducible refine Kept.ite (fun _ => ?_) (fun _ => ?_)
    | simp only [↓kept_mk]; refine KeptMk.set rfl ?_ ?_
    | apply Upd.of <;> intro hp <;>
        first | exact absurd hp (by decide) | with_reducible rfl | dsimp only
    | split
    | dsimp only [id]

theorem interruptedBough_changes {w₀ : Nat} {s₀ s : State} (h₀ : Kept w₀ s₀ s)  (e : SaveEntry) (b : Bough)
    (hw₀ : within (parts [.free, .sessions, .billed, .heartwood]) w₀ = true := by decide) :
    Kept w₀ s₀ (interruptedBough e b s) := by
  refine h₀.trans (v := parts [.free, .sessions, .billed, .heartwood]) ?_ hw₀
  clear h₀ hw₀
  unfold interruptedBough
  try dsimp only
  repeat' first
    | with_reducible first | exact Kept.refl _ _ | assumption
    | with_reducible first | refine gapEstimate_changes ?_ _ _ _ | refine signWith_changes ?_ _ _ _ _ _
    | with_reducible first | refine onBil_changes ?_ _ _ | refine onSes_changes ?_ _ _
    | with_reducible refine Kept.ite (fun _ => ?_) (fun _ => ?_)
    | simp only [↓kept_mk]; refine KeptMk.set rfl ?_ ?_
    | apply Upd.of <;> intro hp <;>
        first | exact absurd hp (by decide) | with_reducible rfl | dsimp only
    | (with_reducible refine Kept.ofPair (by assumption) ?_)
    | split
    | dsimp only [id]

theorem interruptedReadings_changes {w₀ : Nat} {s₀ s : State} (h₀ : Kept w₀ s₀ s)  
    (hw₀ : within (parts [.free, .sessions, .billed, .heartwood]) w₀ = true := by decide) :
    Kept w₀ s₀ (interruptedReadings s) := by
  refine h₀.trans (v := parts [.free, .sessions, .billed, .heartwood]) ?_ hw₀
  clear h₀ hw₀
  unfold interruptedReadings
  try dsimp only
  repeat' first
    | with_reducible first | exact Kept.refl _ _ | assumption
    | with_reducible first | refine interruptedBough_changes ?_ _ _ | refine Kept.forBoughs _ ?_ fun b u hu => ?_
    | with_reducible refine Kept.ite (fun _ => ?_) (fun _ => ?_)
    | simp only [↓kept_mk]; refine KeptMk.set rfl ?_ ?_
    | apply Upd.of <;> intro hp <;>
        first | exact absurd hp (by decide) | with_reducible rfl | dsimp only
    | split
    | dsimp only [id]

theorem takeOffset_changes {w₀ : Nat} {s₀ s : State} (h₀ : Kept w₀ s₀ s)  
    (hw₀ : within (parts [.heartwood, .backup]) w₀ = true := by decide) :
    Kept w₀ s₀ (takeOffset s) := by
  refine h₀.trans (v := parts [.heartwood, .backup]) ?_ hw₀
  clear h₀ hw₀
  unfold takeOffset
  try dsimp only
  repeat' first
    | with_reducible first | exact Kept.refl _ _ | assumption
    | with_reducible refine Kept.ite (fun _ => ?_) (fun _ => ?_)
    | simp only [↓kept_mk]; refine KeptMk.set rfl ?_ ?_
    | apply Upd.of <;> intro hp <;>
        first | exact absurd hp (by decide) | with_reducible rfl | dsimp only
    | split
    | dsimp only [id]

theorem startHeartwood_changes {w₀ : Nat} {s₀ s : State} (h₀ : Kept w₀ s₀ s)  
    (hw₀ : within (parts [.free, .events, .sessions, .sessionDev, .sampling, .energy, .billed, .heartwood, .display, .tag, .mirror, .recorder, .backup, .flash, .tagMem]) w₀ = true := by decide) :
    Kept w₀ s₀ (startHeartwood s) := by
  refine h₀.trans (v := parts [.free, .events, .sessions, .sessionDev, .sampling, .energy, .billed, .heartwood, .display, .tag, .mirror, .recorder, .backup, .flash, .tagMem]) ?_ hw₀
  clear h₀ hw₀
  unfold startHeartwood
  try dsimp only
  repeat' first
    | with_reducible first | exact Kept.refl _ _ | assumption
    | with_reducible first | refine chooseCalendars_changes ?_ | refine findChanges_changes ?_
    | with_reducible first | refine interruptedReadings_changes ?_ | refine meterSnapshot_changes ?_
    | with_reducible first | refine missedBoundaries_changes ?_ | refine releaseReadings_changes ?_
    | with_reducible first | refine restoreEntry_changes ?_ | refine restoreSnapNo_changes ?_
    | with_reducible first | refine signReading_changes ?_ _ _ | refine startDisplay_changes ?_
    | with_reducible first | refine takeOffset_changes ?_ | refine writeSave_changes ?_ _
    | with_reducible first | refine Kept.forBoughs _ ?_ fun b u hu => ?_
    | with_reducible refine Kept.ite (fun _ => ?_) (fun _ => ?_)
    | simp only [↓kept_mk]; refine KeptMk.set rfl ?_ ?_
    | apply Upd.of <;> intro hp <;>
        first | exact absurd hp (by decide) | with_reducible rfl | dsimp only
    | (with_reducible refine Kept.ofPair (by assumption) ?_)
    | split
    | dsimp only [id]

end Sys2Proof.Safety
end

