-- ==== Sys2Proof/Laws/Frames/Ready.lean ====
section
/-! SUPPORT. What each shared operation of Machine/Ready.lean may change. -/

set_option Elab.async false
set_option linter.unreachableTactic false
set_option linter.unusedTactic false
set_option linter.unusedSimpArgs false

namespace Sys2Proof.Safety

open Sys2Proof.Machine

theorem heartbeatTest_changes {w₀ : Nat} {s₀ s : State} (h₀ : Kept w₀ s₀ s)  
    (hw₀ : within (parts [.free, .events, .ports, .modems, .association, .safety, .stops, .powerDie, .loads, .recorder]) w₀ = true := by decide) :
    Kept w₀ s₀ (heartbeatTest s) := by
  refine h₀.trans (v := parts [.free, .events, .ports, .modems, .association, .safety, .stops, .powerDie, .loads, .recorder]) ?_ hw₀
  clear h₀ hw₀
  unfold heartbeatTest
  try dsimp only
  repeat' first
    | with_reducible first | exact Kept.refl _ _ | assumption
    | with_reducible first | refine emit_changes ?_ _ _ _ | refine fsLeave_changes ?_ _
    | with_reducible refine Kept.ite (fun _ => ?_) (fun _ => ?_)
    | simp only [↓kept_mk]; refine KeptMk.set rfl ?_ ?_
    | apply Upd.of <;> intro hp <;>
        first | exact absurd hp (by decide) | with_reducible rfl | dsimp only
    | split
    | dsimp only [id]

theorem checkEvent_changes {w₀ : Nat} {s₀ s : State} (h₀ : Kept w₀ s₀ s)  (step bough : Nat)
    (hw₀ : within (parts [.events, .recorder]) w₀ = true := by decide) :
    Kept w₀ s₀ (checkEvent step bough s) := by
  refine h₀.trans (v := parts [.events, .recorder]) ?_ hw₀
  clear h₀ hw₀
  unfold checkEvent
  try dsimp only
  repeat' first
    | with_reducible first | exact Kept.refl _ _ | assumption
    | with_reducible first | refine emit_changes ?_ _ _ _
    | with_reducible refine Kept.ite (fun _ => ?_) (fun _ => ?_)
    | split
    | dsimp only [id]

theorem checkBough_changes {w₀ : Nat} {s₀ s : State} (h₀ : Kept w₀ s₀ s)  (c : SelfCheck) (b : Bough)
    (hw₀ : within (parts [.free, .events, .ports, .modems, .association, .sessions, .powerLinks, .coils, .safety, .billed, .heartwood, .loads, .display, .canopy, .memory, .cells, .recorder, .flash]) w₀ = true := by decide) :
    Kept w₀ s₀ (checkBough c b s) := by
  refine h₀.trans (v := parts [.free, .events, .ports, .modems, .association, .sessions, .powerLinks, .coils, .safety, .billed, .heartwood, .loads, .display, .canopy, .memory, .cells, .recorder, .flash]) ?_ hw₀
  clear h₀ hw₀
  unfold checkBough
  try dsimp only
  repeat' first
    | with_reducible first | exact Kept.refl _ _ | assumption
    | with_reducible first | refine checkEvent_changes ?_ _ _ | refine holdAtStart_changes ?_ _
    | with_reducible first | refine testFailed_changes ?_ _ _ _ _ _ | refine trip_changes ?_ _ _ _
    | with_reducible first | refine Kept.foldl _ _ ?_ fun u x hu => ?_
    | with_reducible refine Kept.ite (fun _ => ?_) (fun _ => ?_)
    | simp only [↓kept_mk]; refine KeptMk.set rfl ?_ ?_
    | apply Upd.of <;> intro hp <;>
        first | exact absurd hp (by decide) | with_reducible rfl | dsimp only
    | split
    | dsimp only [id]

theorem selfCheck_changes {w₀ : Nat} {s₀ s : State} (h₀ : Kept w₀ s₀ s)  (c : SelfCheck)
    (hw₀ : within (parts [.free, .start, .events, .ports, .modems, .association, .sessions, .powerLinks, .coils, .safety, .stops, .powerDie, .billed, .heartwood, .loads, .display, .canopy, .memory, .cells, .recorder, .flash]) w₀ = true := by decide) :
    Kept w₀ s₀ (selfCheck c s) := by
  refine h₀.trans (v := parts [.free, .start, .events, .ports, .modems, .association, .sessions, .powerLinks, .coils, .safety, .stops, .powerDie, .billed, .heartwood, .loads, .display, .canopy, .memory, .cells, .recorder, .flash]) ?_ hw₀
  clear h₀ hw₀
  unfold selfCheck
  try dsimp only
  repeat' first
    | with_reducible first | exact Kept.refl _ _ | assumption
    | with_reducible first | refine checkBough_changes ?_ _ _ | refine checkEvent_changes ?_ _ _
    | with_reducible first | refine heartbeatTest_changes ?_ | refine Kept.forBoughs _ ?_ fun b u hu => ?_
    | with_reducible refine Kept.ite (fun _ => ?_) (fun _ => ?_)
    | simp only [↓kept_mk]; refine KeptMk.set rfl ?_ ?_
    | apply Upd.of <;> intro hp <;>
        first | exact absurd hp (by decide) | with_reducible rfl | dsimp only
    | split
    | dsimp only [id]

theorem closeInterrupted_changes {w₀ : Nat} {s₀ s : State} (h₀ : Kept w₀ s₀ s)  (b : Bough)
    (hw₀ : within (parts [.free, .events, .sessions, .memory, .cells, .recorder, .flash]) w₀ = true := by decide) :
    Kept w₀ s₀ (closeInterrupted b s) := by
  refine h₀.trans (v := parts [.free, .events, .sessions, .memory, .cells, .recorder, .flash]) ?_ hw₀
  clear h₀ hw₀
  unfold closeInterrupted
  try dsimp only
  repeat' first
    | with_reducible first | exact Kept.refl _ _ | assumption
    | with_reducible first | refine debitSession_changes ?_ _ | refine emitAtStart_changes ?_ _ _ _
    | with_reducible first | refine journalFor_changes ?_ _ _ | refine onSes_changes ?_ _ _
    | with_reducible refine Kept.ite (fun _ => ?_) (fun _ => ?_)
    | simp only [↓kept_mk]; refine KeptMk.set rfl ?_ ?_
    | apply Upd.of <;> intro hp <;>
        first | exact absurd hp (by decide) | with_reducible rfl | dsimp only
    | split
    | dsimp only [id]

theorem serviceRequest_changes {w₀ : Nat} {s₀ s : State} (h₀ : Kept w₀ s₀ s)  
    (hw₀ : within (parts [.events, .recorder]) w₀ = true := by decide) :
    Kept w₀ s₀ (serviceRequest s) := by
  refine h₀.trans (v := parts [.events, .recorder]) ?_ hw₀
  clear h₀ hw₀
  unfold serviceRequest
  try dsimp only
  repeat' first
    | with_reducible first | exact Kept.refl _ _ | assumption
    | with_reducible first | refine emitAtStart_changes ?_ _ _ _
    | with_reducible refine Kept.ite (fun _ => ?_) (fun _ => ?_)
    | split
    | dsimp only [id]

theorem clearSummary_changes {w₀ : Nat} {s₀ s : State} (h₀ : Kept w₀ s₀ s)  
    (hw₀ : within (parts [.tag, .mirror, .tagMem]) w₀ = true := by decide) :
    Kept w₀ s₀ (clearSummary s) := by
  refine h₀.trans (v := parts [.tag, .mirror, .tagMem]) ?_ hw₀
  clear h₀ hw₀
  unfold clearSummary
  try dsimp only
  repeat' first
    | with_reducible first | exact Kept.refl _ _ | assumption
    | with_reducible first | refine tagWritePage_changes ?_ _ _
    | with_reducible refine Kept.ite (fun _ => ?_) (fun _ => ?_)
    | split
    | dsimp only [id]

end Sys2Proof.Safety
end

