-- ==== Sys2Proof/Laws/Frames/HostPort.lean ====
section
/-! SUPPORT. What each shared operation of Machine/HostPort.lean may change. -/

set_option Elab.async false
set_option linter.unreachableTactic false
set_option linter.unusedTactic false
set_option linter.unusedSimpArgs false

namespace Sys2Proof.Safety

open Sys2Proof.Machine

theorem endTransaction_changes {w₀ : Nat} {s₀ s : State} (h₀ : Kept w₀ s₀ s)  
    (hw₀ : within (parts [.link]) w₀ = true := by decide) :
    Kept w₀ s₀ (endTransaction s) := by
  refine h₀.trans (v := parts [.link]) ?_ hw₀
  clear h₀ hw₀
  unfold endTransaction
  try dsimp only
  repeat' first
    | with_reducible first | exact Kept.refl _ _ | assumption
    | with_reducible refine Kept.ite (fun _ => ?_) (fun _ => ?_)
    | simp only [↓kept_mk]; refine KeptMk.set rfl ?_ ?_
    | apply Upd.of <;> intro hp <;>
        first | exact absurd hp (by decide) | with_reducible rfl | dsimp only
    | split
    | dsimp only [id]

theorem countIgnored_changes {w₀ : Nat} {s₀ s : State} (h₀ : Kept w₀ s₀ s)  (n : Nat)
    (hw₀ : within (parts [.link]) w₀ = true := by decide) :
    Kept w₀ s₀ (countIgnored n s) := by
  refine h₀.trans (v := parts [.link]) ?_ hw₀
  clear h₀ hw₀
  unfold countIgnored
  try dsimp only
  repeat' first
    | with_reducible first | exact Kept.refl _ _ | assumption
    | with_reducible refine Kept.ite (fun _ => ?_) (fun _ => ?_)
    | simp only [↓kept_mk]; refine KeptMk.set rfl ?_ ?_
    | apply Upd.of <;> intro hp <;>
        first | exact absurd hp (by decide) | with_reducible rfl | dsimp only
    | split
    | dsimp only [id]

theorem clearIrq_changes {w₀ : Nat} {s₀ s : State} (h₀ : Kept w₀ s₀ s)  (mask : BitVec 32)
    (hw₀ : within (parts [.events]) w₀ = true := by decide) :
    Kept w₀ s₀ (clearIrq mask s) := by
  refine h₀.trans (v := parts [.events]) ?_ hw₀
  clear h₀ hw₀
  unfold clearIrq
  try dsimp only
  repeat' first
    | with_reducible first | exact Kept.refl _ _ | assumption
    | with_reducible refine Kept.ite (fun _ => ?_) (fun _ => ?_)
    | simp only [↓kept_mk]; refine KeptMk.set rfl ?_ ?_
    | apply Upd.of <;> intro hp <;>
        first | exact absurd hp (by decide) | with_reducible rfl | dsimp only
    | split
    | dsimp only [id]

theorem clearDone_changes {w₀ : Nat} {s₀ s : State} (h₀ : Kept w₀ s₀ s)  (mask : BitVec 32)
    (hw₀ : within (parts [.commits]) w₀ = true := by decide) :
    Kept w₀ s₀ (clearDone mask s) := by
  refine h₀.trans (v := parts [.commits]) ?_ hw₀
  clear h₀ hw₀
  unfold clearDone
  try dsimp only
  repeat' first
    | with_reducible first | exact Kept.refl _ _ | assumption
    | with_reducible refine Kept.ite (fun _ => ?_) (fun _ => ?_)
    | simp only [↓kept_mk]; refine KeptMk.set rfl ?_ ?_
    | apply Upd.of <;> intro hp <;>
        first | exact absurd hp (by decide) | with_reducible rfl | dsimp only
    | split
    | dsimp only [id]

theorem releaseBulk_changes {w₀ : Nat} {s₀ s : State} (h₀ : Kept w₀ s₀ s)  
    (hw₀ : within (parts [.bulk]) w₀ = true := by decide) :
    Kept w₀ s₀ (releaseBulk s) := by
  refine h₀.trans (v := parts [.bulk]) ?_ hw₀
  clear h₀ hw₀
  unfold releaseBulk
  try dsimp only
  repeat' first
    | with_reducible first | exact Kept.refl _ _ | assumption
    | with_reducible refine Kept.ite (fun _ => ?_) (fun _ => ?_)
    | simp only [↓kept_mk]; refine KeptMk.set rfl ?_ ?_
    | apply Upd.of <;> intro hp <;>
        first | exact absurd hp (by decide) | with_reducible rfl | dsimp only
    | split
    | dsimp only [id]

theorem actGlobal_changes {w₀ : Nat} {s₀ s : State} (h₀ : Kept w₀ s₀ s)  (o : Nat) (v : BitVec 32)
    (hw₀ : within (parts [.commits, .events, .bulk, .link]) w₀ = true := by decide) :
    Kept w₀ s₀ (actGlobal o v s) := by
  refine h₀.trans (v := parts [.commits, .events, .bulk, .link]) ?_ hw₀
  clear h₀ hw₀
  unfold actGlobal
  try dsimp only
  repeat' first
    | with_reducible first | exact Kept.refl _ _ | assumption
    | with_reducible first | refine acceptCommits_changes ?_ _ | refine clearDone_changes ?_ _
    | with_reducible first | refine clearIrq_changes ?_ _ | refine countIgnored_changes ?_ _
    | with_reducible first | refine releaseBulk_changes ?_
    | with_reducible refine Kept.ite (fun _ => ?_) (fun _ => ?_)
    | simp only [↓kept_mk]; refine KeptMk.set rfl ?_ ?_
    | apply Upd.of <;> intro hp <;>
        first | exact absurd hp (by decide) | with_reducible rfl | dsimp only
    | split
    | dsimp only [id]

theorem writeWord_changes {w₀ : Nat} {s₀ s : State} (h₀ : Kept w₀ s₀ s)  (addr : Nat) (bs : List Byte) (a : Nat)
    (hw₀ : within (parts [.commits, .events, .bulk, .link]) w₀ = true := by decide) :
    Kept w₀ s₀ (writeWord addr bs a s) := by
  refine h₀.trans (v := parts [.commits, .events, .bulk, .link]) ?_ hw₀
  clear h₀ hw₀
  unfold writeWord
  try dsimp only
  repeat' first
    | with_reducible first | exact Kept.refl _ _ | assumption
    | with_reducible first | refine actGlobal_changes ?_ _ _ | refine countIgnored_changes ?_ _
    | with_reducible refine Kept.ite (fun _ => ?_) (fun _ => ?_)
    | split
    | dsimp only [id]

theorem writeRegs_changes {w₀ : Nat} {s₀ s : State} (h₀ : Kept w₀ s₀ s)  (lo hi addr : Nat) (bs : List Byte)
    (hw₀ : within (parts [.commits, .events, .bulk, .link]) w₀ = true := by decide) :
    Kept w₀ s₀ (writeRegs lo hi addr bs s) := by
  refine h₀.trans (v := parts [.commits, .events, .bulk, .link]) ?_ hw₀
  clear h₀ hw₀
  unfold writeRegs
  try dsimp only
  repeat' first
    | with_reducible first | exact Kept.refl _ _ | assumption
    | with_reducible first | refine writeWord_changes ?_ _ _ _ | refine Kept.foldl _ _ ?_ fun u x hu => ?_
    | with_reducible refine Kept.ite (fun _ => ?_) (fun _ => ?_)
    | split
    | dsimp only [id]

theorem writeShadow_changes {w₀ : Nat} {s₀ s : State} (h₀ : Kept w₀ s₀ s)  (a : Nat) (bs : List Byte)
    (hw₀ : within (parts [.pages]) w₀ = true := by decide) :
    Kept w₀ s₀ (writeShadow a bs s) := by
  refine h₀.trans (v := parts [.pages]) ?_ hw₀
  clear h₀ hw₀
  unfold writeShadow
  try dsimp only
  repeat' first
    | with_reducible first | exact Kept.refl _ _ | assumption
    | with_reducible refine Kept.ite (fun _ => ?_) (fun _ => ?_)
    | simp only [↓kept_mk]; refine KeptMk.set rfl ?_ ?_
    | apply Upd.of <;> intro hp <;>
        first | exact absurd hp (by decide) | with_reducible rfl | dsimp only
    | split
    | dsimp only [id]

theorem writeMirror_changes {w₀ : Nat} {s₀ s : State} (h₀ : Kept w₀ s₀ s)  (a : Nat) (bs : List Byte)
    (hw₀ : within (parts [.tag, .mirror]) w₀ = true := by decide) :
    Kept w₀ s₀ (writeMirror a bs s) := by
  refine h₀.trans (v := parts [.tag, .mirror]) ?_ hw₀
  clear h₀ hw₀
  unfold writeMirror
  try dsimp only
  repeat' first
    | with_reducible first | exact Kept.refl _ _ | assumption
    | with_reducible first | refine Kept.foldl _ _ ?_ fun u x hu => ?_
    | with_reducible refine Kept.ite (fun _ => ?_) (fun _ => ?_)
    | simp only [↓kept_mk]; refine KeptMk.set rfl ?_ ?_
    | apply Upd.of <;> intro hp <;>
        first | exact absurd hp (by decide) | with_reducible rfl | dsimp only
    | split
    | dsimp only [id]

theorem writeBulk_changes {w₀ : Nat} {s₀ s : State} (h₀ : Kept w₀ s₀ s)  (a : Nat) (bs : List Byte)
    (hw₀ : within (parts [.bulk, .link]) w₀ = true := by decide) :
    Kept w₀ s₀ (writeBulk a bs s) := by
  refine h₀.trans (v := parts [.bulk, .link]) ?_ hw₀
  clear h₀ hw₀
  unfold writeBulk
  try dsimp only
  repeat' first
    | with_reducible first | exact Kept.refl _ _ | assumption
    | with_reducible first | refine countIgnored_changes ?_ _
    | with_reducible refine Kept.ite (fun _ => ?_) (fun _ => ?_)
    | simp only [↓kept_mk]; refine KeptMk.set rfl ?_ ?_
    | apply Upd.of <;> intro hp <;>
        first | exact absurd hp (by decide) | with_reducible rfl | dsimp only
    | split
    | dsimp only [id]

theorem discardCommand_changes {w₀ : Nat} {s₀ s : State} (h₀ : Kept w₀ s₀ s)  (reason a : Nat) (bs : List Byte)
    (hw₀ : within (parts [.events, .commands, .recorder]) w₀ = true := by decide) :
    Kept w₀ s₀ (discardCommand reason a bs s) := by
  refine h₀.trans (v := parts [.events, .commands, .recorder]) ?_ hw₀
  clear h₀ hw₀
  unfold discardCommand
  try dsimp only
  repeat' first
    | with_reducible first | exact Kept.refl _ _ | assumption
    | with_reducible first | refine answer_changes ?_ _ _ _ _ | refine raiseIrq_changes ?_ _
    | with_reducible refine Kept.ite (fun _ => ?_) (fun _ => ?_)
    | simp only [↓kept_mk]; refine KeptMk.set rfl ?_ ?_
    | apply Upd.of <;> intro hp <;>
        first | exact absurd hp (by decide) | with_reducible rfl | dsimp only
    | split
    | dsimp only [id]

theorem queueCommand_changes {w₀ : Nat} {s₀ s : State} (h₀ : Kept w₀ s₀ s)  (a : Nat) (bs : List Byte)
    (hw₀ : within (parts [.events, .commands, .recorder]) w₀ = true := by decide) :
    Kept w₀ s₀ (queueCommand a bs s) := by
  refine h₀.trans (v := parts [.events, .commands, .recorder]) ?_ hw₀
  clear h₀ hw₀
  unfold queueCommand
  try dsimp only
  repeat' first
    | with_reducible first | exact Kept.refl _ _ | assumption
    | with_reducible first | refine discardCommand_changes ?_ _ _ _
    | with_reducible refine Kept.ite (fun _ => ?_) (fun _ => ?_)
    | simp only [↓kept_mk]; refine KeptMk.set rfl ?_ ?_
    | apply Upd.of <;> intro hp <;>
        first | exact absurd hp (by decide) | with_reducible rfl | dsimp only
    | split
    | dsimp only [id]

theorem strayCommand_changes {w₀ : Nat} {s₀ s : State} (h₀ : Kept w₀ s₀ s)  (a : Nat) (bs : List Byte)
    (hw₀ : within (parts [.events, .commands, .recorder]) w₀ = true := by decide) :
    Kept w₀ s₀ (strayCommand a bs s) := by
  refine h₀.trans (v := parts [.events, .commands, .recorder]) ?_ hw₀
  clear h₀ hw₀
  unfold strayCommand
  try dsimp only
  repeat' first
    | with_reducible first | exact Kept.refl _ _ | assumption
    | with_reducible first | refine discardCommand_changes ?_ _ _ _
    | with_reducible refine Kept.ite (fun _ => ?_) (fun _ => ?_)
    | split
    | dsimp only [id]

theorem writeSpan_changes {w₀ : Nat} {s₀ s : State} (h₀ : Kept w₀ s₀ s)  (addr : Nat) (bs : List Byte)
    (hw₀ : within (parts [.pages, .commits, .events, .commands, .bulk, .link, .tag, .mirror, .recorder]) w₀ = true := by decide) :
    Kept w₀ s₀ (writeSpan addr bs s) := by
  refine h₀.trans (v := parts [.pages, .commits, .events, .commands, .bulk, .link, .tag, .mirror, .recorder]) ?_ hw₀
  clear h₀ hw₀
  unfold writeSpan
  try dsimp only
  repeat' first
    | with_reducible first | exact Kept.refl _ _ | assumption
    | with_reducible first | refine countIgnored_changes ?_ _ | refine strayCommand_changes ?_ _ _
    | with_reducible first | refine writeBulk_changes ?_ _ _ | refine writeMirror_changes ?_ _ _
    | with_reducible first | refine writeRegs_changes ?_ _ _ _ _ | refine writeShadow_changes ?_ _ _
    | with_reducible refine Kept.ite (fun _ => ?_) (fun _ => ?_)
    | split
    | dsimp only [id]

end Sys2Proof.Safety
end

