-- ==== Sys2Proof/Laws/Frames/Answers.lean ====
section
/-! SUPPORT. Frames of the operations that choose the answer of a command: by its header, by a credit record, by the link
of a port, by a canopy frame or by the field of the tag. -/

set_option Elab.async false

namespace Sys2Proof.Safety

open Sys2Proof.Machine

variable {w₀ : Nat} {s₀ s : State}

theorem onHdr_keeps (h₀ : Kept w₀ s₀ s) (h : CmdHdr) (f : Bough → Res) (hf : ∀ b, KeptR w₀ s₀ (f b)) :
    KeptR w₀ s₀ (onHdr h s f) := by
  unfold onHdr
  split
  · exact hf _
  · exact .next h₀

theorem onSesHdr_keeps (h₀ : Kept w₀ s₀ s) (h : CmdHdr) (f : Bough → Res) (hf : ∀ b, KeptR w₀ s₀ (f b))
    (hw₀ : within (parts [.events, .recorder]) w₀ = true := by decide) : KeptR w₀ s₀ (onSesHdr h s f) := by
  unfold onSesHdr
  split
  · split
    · exact hf _
    · exact .next h₀
  · exact .next (sesAnswer_changes h₀ _ _ _ hw₀)

theorem onRecord_keeps (h₀ : Kept w₀ s₀ s) (h : CmdHdr) (digest : List Byte) (f : Nat → List Byte → State → State)
    (hf : ∀ i r u, Kept w₀ s₀ u → Kept w₀ s₀ (f i r u))
    (hw₀ : within (parts [.free, .events, .sessionDev, .memory, .cells, .recorder]) w₀ = true := by decide)
    (hv₀ : within (parts [.events, .recorder]) w₀ = true := by decide) : KeptR w₀ s₀ (onRecord h digest s f) := by
  have hl := lookup_changes h₀ (padTo 8 digest) hw₀
  unfold onRecord
  split
  · rename_i e
    rw [e] at hl
    exact .next (hf _ _ _ hl)
  · rename_i e
    rw [e] at hl
    exact .next (sesAnswer_changes hl _ _ _ hv₀)

theorem onLinked_keeps (h₀ : Kept w₀ s₀ s) (b : Bough) (f : State → State) (hf : ∀ u, Kept w₀ s₀ u → Kept w₀ s₀ (f u)) :
    KeptR w₀ s₀ (onLinked b s f) := by
  unfold onLinked
  split
  · exact .next (hf _ h₀)
  · exact .next h₀

theorem mtrAnswer_keeps (h₀ : Kept w₀ s₀ s) (b : Bough) (h : CmdHdr) (r : Nat)
    (hw₀ : within (parts [.events, .recorder]) w₀ = true := by decide) : KeptR w₀ s₀ (mtrAnswer b h r s) :=
  .next (answer_changes h₀ _ _ _ _ hw₀)

theorem logAnswer_keeps (h₀ : Kept w₀ s₀ s) (h : CmdHdr) (r : Nat) (data : List Byte)
    (hw₀ : within (parts [.events, .recorder]) w₀ = true := by decide) : KeptR w₀ s₀ (logAnswer h r data s) :=
  .next (answer_changes h₀ _ _ _ _ hw₀)

theorem onCore_keeps (h₀ : Kept w₀ s₀ s) (b : Bough) (f : State → State) (hf : ∀ u, Kept w₀ s₀ u → Kept w₀ s₀ (f u)) :
    KeptR w₀ s₀ (onCore b s f) := by
  refine .next ?_
  split
  · exact hf _ h₀
  · exact h₀

theorem onFrame_keeps (h₀ : Kept w₀ s₀ s) (typ : Nat) (f : CnpRx) (act : List Byte → State → State)
    (ha : ∀ m u, Kept w₀ s₀ u → Kept w₀ s₀ (act m u))
    (hw₀ : within (parts [.trunk]) w₀ = true := by decide)
    (hv₀ : within (parts [.events, .recorder]) w₀ = true := by decide)
    (hc₀ : within (parts [.canopy]) w₀ = true := by decide) : KeptR w₀ s₀ (onFrame typ f s act) := by
  have hc := noteCrx_changes h₀ hw₀
  unfold onFrame
  dsimp only
  split
  · exact .next hc
  · split
    · exact .next (refuseFrame_changes hc _ _ hv₀)
    · have hm := collect_changes (deriveMap_changes (acknowledge_changes hc f hc₀) f hc₀) f hc₀
      split
      · rename_i e
        rw [e] at hm
        exact .next (takeMessage_changes hm _ _ _ ha hv₀)
      · rename_i e
        rw [e] at hm
        exact .next hm

theorem whenSelected_keeps (h₀ : Kept w₀ s₀ s) (f : State → State) (hf : ∀ u, Kept w₀ s₀ u → Kept w₀ s₀ (f u)) :
    KeptR w₀ s₀ (whenSelected s f) := by
  unfold whenSelected
  split
  · exact .next (hf _ h₀)
  · exact .next h₀

end Sys2Proof.Safety
end

