-- ==== Sys2Proof/Laws/Memory.lean ====
section
/-! SUPPORT. Byte memories: a read after a write, the canonical form as a rising list without default cells, and that
every operation over a memory keeps it. -/

set_option Elab.async false

namespace Sys2Proof.Machine

variable {d : Nat → Byte}

/-- The canonical form said without recursion. -/
theorem memWf_iff (m : List Host.Cell) :
    memWf d m = true ↔ (∀ c ∈ m, c.2 ≠ d c.1) ∧ m.Pairwise (fun x y => x.1 < y.1) := by
  induction m with
  | nil => simp [memWf]
  | cons c m ih =>
    obtain ⟨a, v⟩ := c
    cases m with
    | nil => simp [memWf]
    | cons e m =>
      obtain ⟨b, w⟩ := e
      simp only [memWf, Bool.and_eq_true, bne_iff_ne, ne_eq, decide_eq_true_eq] at ih ⊢
      rw [and_assoc, ih]
      simp only [List.mem_cons, List.pairwise_cons, forall_eq_or_imp]
      constructor
      · rintro ⟨h1, h2, ⟨h3, h4⟩, h5, h6⟩
        exact ⟨⟨h1, h3, h4⟩, ⟨h2, fun c hc => lt_trans h2 (h5 c hc)⟩, h5, h6⟩
      · rintro ⟨⟨h1, h3, h4⟩, ⟨h2, -⟩, h5, h6⟩
        exact ⟨h1, h2, ⟨h3, h4⟩, h5, h6⟩

theorem memWf_tail {c : Host.Cell} {m : List Host.Cell} (h : memWf d (c :: m) = true) : memWf d m = true := by
  rw [memWf_iff] at h ⊢
  exact ⟨fun x hx => h.1 x (List.mem_cons_of_mem _ hx), (List.pairwise_cons.mp h.2).2⟩

theorem memWf_filter {m : List Host.Cell} (p : Host.Cell → Bool) (h : memWf d m = true) :
    memWf d (m.filter p) = true := by
  rw [memWf_iff] at h ⊢
  exact ⟨fun x hx => h.1 x (List.mem_of_mem_filter hx), h.2.filter p⟩

/-- A cell of a memory after a write is the written one or one of the memory before. -/
theorem mem_memPut {m : List Host.Cell} {a : Nat} {v : Byte} {c : Host.Cell} (h : c ∈ memPut d m a v) :
    (c = (a, v) ∧ v ≠ d a) ∨ c ∈ m := by
  induction m with
  | nil =>
    unfold memPut at h
    split at h <;> simp_all
  | cons e m ih =>
    obtain ⟨b, w⟩ := e
    unfold memPut at h
    split at h
    · rcases List.mem_cons.mp h with h | h
      · exact .inr (h ▸ List.mem_cons_self)
      · exact (ih h).imp_right (List.mem_cons_of_mem _)
    · split at h
      · split at h
        · exact .inr (List.mem_cons_of_mem _ h)
        · rcases List.mem_cons.mp h with h | h
          · exact .inl ⟨h, by assumption⟩
          · exact .inr (List.mem_cons_of_mem _ h)
      · split at h
        · exact .inr h
        · rcases List.mem_cons.mp h with h | h
          · exact .inl ⟨h, by assumption⟩
          · exact .inr h

theorem memPut_wf {m : List Host.Cell} (a : Nat) (v : Byte) (h : memWf d m = true) : memWf d (memPut d m a v) = true := by
  rw [memWf_iff]
  refine ⟨fun c hc => ?_, ?_⟩
  · rcases mem_memPut hc with ⟨rfl, hv⟩ | hc
    · exact hv
    · exact ((memWf_iff m).mp h).1 c hc
  · induction m with
    | nil => unfold memPut; split <;> simp
    | cons e m ih =>
      obtain ⟨b, w⟩ := e
      have hp := ((memWf_iff _).mp h).2
      have hl := (List.pairwise_cons.mp hp).1
      have ht := ih (memWf_tail h)
      unfold memPut
      split
      · rename_i hb
        refine List.pairwise_cons.mpr ⟨fun c hc => ?_, ht⟩
        rcases mem_memPut hc with ⟨rfl, -⟩ | hc
        · exact hb
        · exact hl c hc
      · split
        · rename_i hb
          split
          · exact (List.pairwise_cons.mp hp).2
          · subst hb
            exact List.pairwise_cons.mpr ⟨fun c hc => hl c hc, (List.pairwise_cons.mp hp).2⟩
        · rename_i h1 h2
          have hab : a < b := by omega
          split
          · exact hp
          · refine List.pairwise_cons.mpr ⟨fun c hc => ?_, hp⟩
            rcases List.mem_cons.mp hc with rfl | hc
            · exact hab
            · exact lt_trans hab (hl c hc)

theorem memPuts_wf (vs : List Byte) {m : List Host.Cell} (a : Nat) (h : memWf d m = true) :
    memWf d (memPuts d m a vs) = true := by
  induction vs generalizing m a with
  | nil => exact h
  | cons v vs ih => exact ih (a + 1) (memPut_wf a v h)

theorem memMerge_wf (src : List Host.Cell) {m : List Host.Cell} (h : memWf d m = true) :
    memWf d (memMerge d m src) = true := by
  induction src generalizing m with
  | nil => exact h
  | cons c src ih => exact ih (memPut_wf c.1 c.2 h)

/-- Below its first address a canonical memory reads as unlisted. -/
theorem memGet_below {m : List Host.Cell} {a : Nat} (h : ∀ c ∈ m, a < c.1) : memGet d m a = d a := by
  induction m with
  | nil => rfl
  | cons e m ih =>
    have he := h e List.mem_cons_self
    have : e.1 ≠ a := by omega
    simp [memGet, this, ih fun c hc => h c (List.mem_cons_of_mem _ hc)]

/-- A read of the byte that was written. -/
theorem memGet_memPut_same {m : List Host.Cell} (a : Nat) (v : Byte) (h : memWf d m = true) :
    memGet d (memPut d m a v) a = v := by
  induction m with
  | nil => unfold memPut; split <;> simp_all [memGet]
  | cons e m ih =>
    obtain ⟨b, w⟩ := e
    have hl := (List.pairwise_cons.mp ((memWf_iff _).mp h).2).1
    unfold memPut
    split
    · have : b ≠ a := by omega
      simp [memGet, this, ih (memWf_tail h)]
    · split
      · rename_i hb
        subst hb
        split
        · rename_i hv
          exact hv ▸ memGet_below hl
        · simp [memGet]
      · split
        · rename_i h1 h2 hv
          refine hv ▸ memGet_below fun c hc => ?_
          rcases List.mem_cons.mp hc with rfl | hc
          · show a < b
            omega
          · have := hl c hc
            simp only at this ⊢
            omega
        · simp [memGet]

/-- A write leaves every other byte alone. -/
theorem memGet_memPut_other {m : List Host.Cell} {a x : Nat} (v : Byte) (hx : x ≠ a) :
    memGet d (memPut d m a v) x = memGet d m x := by
  have hx' : a ≠ x := fun e => hx e.symm
  induction m with
  | nil => unfold memPut; split <;> simp [memGet, hx']
  | cons e m ih =>
    obtain ⟨b, w⟩ := e
    unfold memPut
    split
    · simp [memGet, ih]
    · split
      · rename_i hb
        subst hb
        split <;> simp [memGet, hx']
      · split <;> simp [memGet, hx']

/-- A write of several bytes leaves the bytes outside them alone. -/
theorem memGet_memPuts_other (vs : List Byte) {m : List Host.Cell} {a x : Nat} (hx : x < a ∨ a + vs.length ≤ x) :
    memGet d (memPuts d m a vs) x = memGet d m x := by
  induction vs generalizing m a with
  | nil => rfl
  | cons v vs ih =>
    simp only [List.length_cons] at hx
    rw [memPuts, ih (by omega), memGet_memPut_other v (by omega)]

/-- Byte i of the bytes written is what the memory reads there. -/
theorem memGet_memPuts (vs : List Byte) {m : List Host.Cell} (a : Nat) (h : memWf d m = true) (i : Nat) (hi : i < vs.length) :
    memGet d (memPuts d m a vs) (a + i) = vs[i] := by
  induction vs generalizing m a i with
  | nil => simp at hi
  | cons v vs ih =>
    cases i with
    | zero =>
      rw [memPuts, memGet_memPuts_other vs (by omega)]
      simpa using memGet_memPut_same a v h
    | succ i =>
      have := ih (a + 1) (memPut_wf a v h) i (by simpa using hi)
      rw [memPuts, show a + (i + 1) = a + 1 + i by omega, this]
      rfl

theorem pagePut_wf {m : List Host.Cell} (a : Nat) (v : Byte) (h : memWf pageReset m = true) :
    memWf pageReset (pagePut m a v) = true := by
  unfold pagePut
  split
  · exact memPut_wf _ _ h
  · exact h

theorem pagePuts_wf (vs : List Byte) {m : List Host.Cell} (a : Nat) (h : memWf pageReset m = true) :
    memWf pageReset (pagePuts m a vs) = true := by
  induction vs generalizing m a with
  | nil => exact h
  | cons v vs ih => exact ih (a + 1) (pagePut_wf a v h)

theorem pageTake_wf (p : Nat → Bool) (src : List Host.Cell) {m : List Host.Cell} (h : memWf pageReset m = true) :
    memWf pageReset (pageTake p m src) = true := memMerge_wf _ (memWf_filter _ h)

end Sys2Proof.Machine
end

