-- ==== Sys2Proof/Laws/Invariant.lean ====
section
/-! SUPPORT. How the two invariants of Safety.lean come through an operation: one that changes neither coils nor stops
keeps CoilsSafe, one that changes no byte memory keeps MemOk. -/

set_option Elab.async false

namespace Sys2Proof.Safety

open Sys2Proof.Machine

/-- Every part but the coils and the stops, as a mask. -/
def offCoils : Nat := 0x7fffffb7ffff

/-- Every part but those that hold a byte memory, as a mask. -/
def offMemory : Nat := 0x5fb7fffff77f

theorem coilView_get {s t : State} (h : Part.coils.same s t) (b : Bough) : coilView t.saf[b] = coilView s.saf[b] := by
  have h' : t.saf.map coilView = s.saf.map coilView := h
  have := congrArg (fun v => v[b]) h'
  simpa using this

/-- What CoilsSafe asks of a bough's safety state, by the protections common to all. -/
def CoilsOf (held : Bool) (f : SafBough) : Prop :=
  f.latched ≠ [] ∨ held = true → (∀ k : Fin 3, f.coils[k].driven = false) ∧ f.closing = .none

/-- A protection of the whole device holds. -/
def heldAll (d : SafDev) : Bool := !d.fsCauses.isEmpty || d.stop

theorem coilsSafe_iff (s : State) : CoilsSafe s ↔ ∀ b : Bough, CoilsOf (heldAll s.safDev) s.saf[b] := by
  simp [CoilsSafe, CoilsOf, heldOpen, heldAll]

theorem coilsOf_view {held : Bool} {f g : SafBough} (h : CoilsOf held f) (e : coilView g = coilView f) : CoilsOf held g := by
  have e1 : g.coils.map (·.driven) = f.coils.map (·.driven) := congrArg Prod.fst e
  have e2 : g.latched = f.latched := congrArg (·.2.1) e
  have e3 : g.closing = f.closing := congrArg (·.2.2) e
  intro hg
  rw [e2] at hg
  refine ⟨fun k => ?_, e3.trans (h hg).2⟩
  have := congrArg (fun v => v[k]) e1
  simp only [Fin.getElem_fin, Vector.getElem_map] at this
  exact this.trans ((h hg).1 k)

theorem CoilsSafe.of {s t : State} (k : Kept offCoils s t) (h : CoilsSafe s) : CoilsSafe t := by
  rw [coilsSafe_iff] at h ⊢
  intro b
  have hs : (t.safDev.fsCauses, t.safDev.stop) = (s.safDev.fsCauses, s.safDev.stop) := k .stops (by decide)
  have e : heldAll t.safDev = heldAll s.safDev := by
    obtain ⟨e1, e2⟩ := Prod.mk.inj hs
    unfold heldAll
    rw [e1, e2]
  rw [e]
  exact coilsOf_view (h b) (coilView_get (k .coils (by decide)) b)

/-- CoilsSafe, of a state written out field by field. -/
structure CoilsMk (f : Vector SafBough 8) (d : SafDev) : Prop where
  safe : ∀ b : Bough, CoilsOf (heldAll d) f[b]

theorem coilsSafe_mk {x0 x1 x2 x3 x4 x5 x6 x7 x8 x9 x10 x11 x12 x13 x14 x15 x16 x17 x18 x19 x20 x21 x22 x23 x24 x25 x26 x27 x28 x29 x30 x31 x32 x33} :
    CoilsSafe (State.mk x0 x1 x2 x3 x4 x5 x6 x7 x8 x9 x10 x11 x12 x13 x14 x15 x16 x17 x18 x19 x20 x21 x22 x23 x24 x25 x26 x27 x28 x29 x30 x31 x32 x33)
    = CoilsMk x14 x16 :=
  propext ⟨fun h => ⟨(coilsSafe_iff _).mp h⟩, fun h => (coilsSafe_iff _).mpr h.safe⟩

theorem CoilsMk.of {t : State} {f : Vector SafBough 8} {d : SafDev} (e : f = t.saf)
    (e1 : d.fsCauses = t.safDev.fsCauses) (e2 : d.stop = t.safDev.stop) (h : CoilsSafe t) : CoilsMk f d := by
  refine ⟨fun b => ?_⟩
  have : heldAll d = heldAll t.safDev := by unfold heldAll; rw [e1, e2]
  rw [this, e]
  exact (coilsSafe_iff t).mp h b

theorem CoilsSafe.ite {t u : State} {c : Prop} [Decidable c] (h : c → CoilsSafe t) (k : ¬c → CoilsSafe u) :
    CoilsSafe (if c then t else u) := by
  split
  · exact h ‹_›
  · exact k ‹_›

theorem CoilsSafe.foldl {α : Type} {s : State} (l : List α) (f : State → α → State) (h : CoilsSafe s)
    (hf : ∀ u x, CoilsSafe u → CoilsSafe (f u x)) : CoilsSafe (l.foldl f s) := by
  induction l generalizing s with
  | nil => exact h
  | cons x l ih => exact ih (hf s x h)

theorem CoilsSafe.forBoughs {s : State} (f : Bough → State → State) (h : CoilsSafe s)
    (hf : ∀ b u, CoilsSafe u → CoilsSafe (f b u)) : CoilsSafe (forBoughs f s) :=
  .foldl _ _ h fun u b hu => hf b u hu

theorem CoilsSafe.forMask {s : State} (m : Nat) (f : Bough → State → State) (h : CoilsSafe s)
    (hf : ∀ b u, CoilsSafe u → CoilsSafe (f b u)) : CoilsSafe (forMask m f s) :=
  .forBoughs _ h fun b u hu => by
    split
    · exact hf b u hu
    · exact hu

theorem CoilsSafe.ofPair {α : Type} {t : State} {a : α} {x : α × State} (e : x = (a, t)) (h : CoilsSafe x.2) :
    CoilsSafe t := by
  rw [e] at h
  exact h

/-- An update of one bough's safety state. -/
theorem CoilsSafe.onSaf {s : State} (h : CoilsSafe s) (b : Bough) (f : SafBough → SafBough)
    (hf : CoilsOf (heldAll s.safDev) s.saf[b] → CoilsOf (heldAll s.safDev) (f s.saf[b])) : CoilsSafe (s.onSaf b f) := by
  rw [coilsSafe_iff] at h ⊢
  intro c
  show CoilsOf (heldAll s.safDev) (modAt s.saf b f)[c]
  by_cases e : b = c
  · subst e
    rw [modAt_get]
    exact hf (h b)
  · rw [modAt_get_other _ _ _ _ e]
    exact h c

/-! ## The byte memories -/

theorem MemOk.of {s t : State} (k : Kept offMemory s t) (h : MemOk s) : MemOk t := by
  obtain ⟨e1, e2⟩ := Prod.mk.inj (k .pages (by decide))
  obtain ⟨-, e3⟩ := Prod.mk.inj (k .bulk (by decide))
  obtain ⟨-, e3⟩ := Prod.mk.inj e3
  obtain ⟨-, e3⟩ := Prod.mk.inj e3
  have e4 : t.tag.mirror = s.tag.mirror := k .mirror (by decide)
  have e5 : t.mem.cells = s.mem.cells := k .cells (by decide)
  have e6 : t.nv.tagMem = s.nv.tagMem := k .tagMem (by decide)
  unfold MemOk
  rw [e1, e2, e3, e4, e5, e6]
  exact h

/-- MemOk, of a state written out field by field. -/
structure MemMk (p : HostPort) (g : Tag) (m : Mem) (v : Nonvol) : Prop where
  shadow : memWf pageReset p.shadow = true
  applied : memWf pageReset p.applied = true
  bulk : memWf zeroB p.bulk = true
  mirror : memWf zeroB g.mirror = true
  cells : memWf zeroB m.cells = true
  tagMem : memWf zeroB v.tagMem = true

theorem memOk_mk {x0 x1 x2 x3 x4 x5 x6 x7 x8 x9 x10 x11 x12 x13 x14 x15 x16 x17 x18 x19 x20 x21 x22 x23 x24 x25 x26 x27 x28 x29 x30 x31 x32 x33} :
    MemOk (State.mk x0 x1 x2 x3 x4 x5 x6 x7 x8 x9 x10 x11 x12 x13 x14 x15 x16 x17 x18 x19 x20 x21 x22 x23 x24 x25 x26 x27 x28 x29 x30 x31 x32 x33)
    = MemMk x7 x27 x29 x33 :=
  propext ⟨fun ⟨a, b, c, d, e, f⟩ => ⟨a, b, c, d, e, f⟩, fun ⟨a, b, c, d, e, f⟩ => ⟨a, b, c, d, e, f⟩⟩

theorem MemOk.shadow {s : State} (h : MemOk s) : memWf pageReset s.host.shadow = true := h.1
theorem MemOk.applied {s : State} (h : MemOk s) : memWf pageReset s.host.applied = true := h.2.1
theorem MemOk.bulk {s : State} (h : MemOk s) : memWf zeroB s.host.bulk = true := h.2.2.1
theorem MemOk.mirror {s : State} (h : MemOk s) : memWf zeroB s.tag.mirror = true := h.2.2.2.1
theorem MemOk.cells {s : State} (h : MemOk s) : memWf zeroB s.mem.cells = true := h.2.2.2.2.1
theorem MemOk.tagMem {s : State} (h : MemOk s) : memWf zeroB s.nv.tagMem = true := h.2.2.2.2.2

theorem mirrorPage_wf (marked : List Nat) (bs : List Byte) {m : List Host.Cell} (a : Nat) (h : memWf zeroB m = true) :
    memWf zeroB (mirrorPage marked m a bs) = true := by
  induction bs generalizing m a with
  | nil => exact h
  | cons v vs ih =>
    unfold mirrorPage
    refine ih _ ?_
    split
    · exact h
    · exact memPut_wf _ _ h

theorem MemOk.ite {t u : State} {c : Prop} [Decidable c] (h : c → MemOk t) (k : ¬c → MemOk u) :
    MemOk (if c then t else u) := by
  split
  · exact h ‹_›
  · exact k ‹_›

theorem MemOk.foldl {α : Type} {s : State} (l : List α) (f : State → α → State) (h : MemOk s)
    (hf : ∀ u x, MemOk u → MemOk (f u x)) : MemOk (l.foldl f s) := by
  induction l generalizing s with
  | nil => exact h
  | cons x l ih => exact ih (hf s x h)

theorem MemOk.foldlFst {α β : Type} (l : List α) (f : State × β → α → State × β) {a : State × β} (h : MemOk a.1)
    (hf : ∀ x e, MemOk x.1 → MemOk (f x e).1) : MemOk (l.foldl f a).1 := by
  induction l generalizing a with
  | nil => exact h
  | cons e l ih => exact ih (hf a e h)

theorem MemOk.forBoughs {s : State} (f : Bough → State → State) (h : MemOk s)
    (hf : ∀ b u, MemOk u → MemOk (f b u)) : MemOk (forBoughs f s) :=
  .foldl _ _ h fun u b hu => hf b u hu

theorem MemOk.forMask {s : State} (m : Nat) (f : Bough → State → State) (h : MemOk s)
    (hf : ∀ b u, MemOk u → MemOk (f b u)) : MemOk (forMask m f s) :=
  .forBoughs _ h fun b u hu => by
    split
    · exact hf b u hu
    · exact hu

theorem MemOk.mirrorAfter_wf {s : State} (h : MemOk s) (p : Nat) (bs : List Byte) :
    memWf zeroB (mirrorAfter p bs s) = true := by
  unfold mirrorAfter
  split
  · exact h.2.2.2.1
  · exact mirrorPage_wf _ _ _ h.2.2.2.1

theorem MemOk.ofPair {α : Type} {t : State} {a : α} {x : α × State} (e : x = (a, t)) (h : MemOk x.2) : MemOk t := by
  rw [e] at h
  exact h

end Sys2Proof.Safety
end

