-- ==== Sys2Proof/Laws/Invariants/Coils.lean ====
section
/-! SUPPORT. The operations of the safety block keep every coil open that a protection holds open. -/

set_option Elab.async false
set_option linter.unreachableTactic false
set_option linter.unusedTactic false
set_option linter.unusedSimpArgs false

namespace Sys2Proof.Safety

open Sys2Proof.Machine

/-! ## One bough -/

/-- No coil is driven and no closing sequence runs. -/
def Opened (f : SafBough) : Prop := (∀ k : Fin 3, f.coils[k].driven = false) ∧ f.closing = .none

theorem Opened.coilsOf {f : SafBough} (h : Opened f) (held : Bool) : CoilsOf held f := fun _ => h

theorem Opened.of_view {f g : SafBough} (h : Opened f) (e : coilView g = coilView f) : Opened g := by
  refine ⟨fun k => ?_, (congrArg (·.2.2) e).trans h.2⟩
  have := congrArg (fun v => v.1[k]) e
  simp only [coilView, Fin.getElem_fin, Vector.getElem_map] at this
  exact this.trans (h.1 k)

/-- The latched codes shrink, no coil is driven anew and the closing sequence stays or ends. -/
theorem CoilsOf.less {held : Bool} {f g : SafBough} (h : CoilsOf held f) (hl : g.latched ≠ [] → f.latched ≠ [])
    (hd : ∀ k : Fin 3, f.coils[k].driven = false → g.coils[k].driven = false)
    (hc : g.closing = f.closing ∨ g.closing = .none) : CoilsOf held g := by
  intro hg
  obtain ⟨a, b⟩ := h (hg.imp_left hl)
  exact ⟨fun k => hd k (a k), hc.elim (fun e => e.trans b) id⟩

theorem not_held {s : State} (h : CoilsSafe s) {b : Bough} (hc : s.saf[b].closing ≠ .none) : ¬heldOpen s b :=
  fun hh => hc (h b hh).2

theorem onSaf_safe_view {s : State} (h₀ : CoilsSafe s) (b : Bough) (f : SafBough → SafBough) (hf : SameView f) :
    CoilsSafe (s.onSaf b f) := h₀.onSaf b f fun h => coilsOf_view h (hf.same _)

theorem onSaf_safe_free {s : State} (h₀ : CoilsSafe s) (b : Bough) (f : SafBough → SafBough) (hn : ¬heldOpen s b)
    (hl : (f s.saf[b]).latched = s.saf[b].latched) : CoilsSafe (s.onSaf b f) := by
  refine h₀.onSaf b f fun _ hh => absurd ?_ hn
  rw [hl] at hh
  simpa [heldOpen, heldAll] using hh

theorem withRequest_safe {s : State} (h₀ : CoilsSafe s) (b : Bough) (f : State → State)
    (hf : ∀ u, CoilsSafe u → CoilsSafe (f u)) : CoilsSafe (withRequest b f s) := by
  unfold withRequest
  dsimp only
  have h1 : CoilsSafe (driveOutput b (recalcCeil b (f s))) :=
    .of (driveOutput_changes (recalcCeil_changes (.refl _ _) _) _) (hf s h₀)
  split
  · exact h1
  · exact .of (powerRequest_changes (.refl _ _) _) h1

/-- An update of one coil that drives none. -/
theorem onCoil_safe {s : State} (h₀ : CoilsSafe s) (b : Bough) (k : Fin 3) (f : Coil → Coil)
    (hf : ∀ c, c.driven = false → (f c).driven = false := by intro c hc; first | exact hc | (dsimp only; split <;> exact hc)) :
    CoilsSafe (onCoil b k f s) := by
  refine h₀.onSaf b _ fun h => h.less id (fun j hj => ?_) (.inl rfl)
  show (modAt s.saf[b].coils k f)[j].driven = false
  by_cases e : k = j
  · subst e
    rw [modAt_get]
    exact hf _ hj
  · rw [modAt_get_other _ _ _ _ e]
    exact hj

theorem drive_safe {s : State} (h₀ : CoilsSafe s) (b : Bough) (k : Fin 3) (hn : ¬heldOpen s b) : CoilsSafe (drive b k s) :=
  onSaf_safe_free h₀ b _ hn rfl

theorem onCoil_held {s : State} (b : Bough) (k : Fin 3) (f : Coil → Coil) (c : Bough) :
    heldOpen (onCoil b k f s) c ↔ heldOpen s c := by
  unfold heldOpen onCoil
  simp only [State.onSaf_saf, State.onSaf_safDev]
  by_cases e : b = c
  · subst e
    rw [modAt_get]
  · rw [modAt_get_other _ _ _ _ e]

theorem driveRequired_safe {s : State} (h₀ : CoilsSafe s) (b : Bough) (ks : List (Fin 3)) (hn : ¬heldOpen s b) :
    CoilsSafe (driveRequired b ks s) := by
  unfold driveRequired
  induction ks generalizing s with
  | nil => exact h₀
  | cons k ks ih =>
    rw [List.foldl_cons]
    split
    · exact ih (drive_safe h₀ b k hn) (fun h => hn ((onCoil_held b k _ b).mp h))
    · exact ih h₀ hn

theorem release_safe {s : State} (h₀ : CoilsSafe s) (b : Bough) (k : Fin 3) : CoilsSafe (release b k s) :=
  onCoil_safe h₀ b k _ (fun c hc => by split <;> first | rfl | exact hc)

/-! ## Openings -/

theorem release_off (b : Bough) (k : Fin 3) (s : State) : (release b k s).saf[b].coils[k].driven = false := by
  unfold release onCoil
  rw [State.onSaf_saf, modAt_get]
  dsimp only
  rw [modAt_get]
  split
  · rfl
  · exact Bool.eq_false_iff.mpr ‹¬_›

theorem release_stays {b c : Bough} {k j : Fin 3} {s : State} (h : s.saf[c].coils[j].driven = false) :
    (release b k s).saf[c].coils[j].driven = false := by
  unfold release onCoil
  rw [State.onSaf_saf]
  by_cases e : b = c
  · subst e
    rw [modAt_get]
    dsimp only
    by_cases e : k = j
    · subst e
      rw [modAt_get]
      split
      · rfl
      · exact h
    · rw [modAt_get_other _ _ _ _ e]
      exact h
  · rw [modAt_get_other _ _ _ _ e]
    exact h

theorem releaseAll_off (b : Bough) (s : State) (k : Fin 3) :
    (allCoils.foldl (fun t k => release b k t) s).saf[b].coils[k].driven = false := by
  show (release b 2 (release b 1 (release b 0 s))).saf[b].coils[k].driven = false
  match k with
  | 0 => exact release_stays (release_stays (release_off _ _ _))
  | 1 => exact release_stays (release_off _ _ _)
  | 2 => exact release_off _ _ _

theorem releaseAll_other {b c : Bough} (s : State) (e : b ≠ c) :
    (allCoils.foldl (fun t k => release b k t) s).saf[c] = s.saf[c] := by
  show (release b 2 (release b 1 (release b 0 s))).saf[c] = s.saf[c]
  simp only [release, onCoil, State.onSaf_saf, modAt_get_other _ _ _ _ e]

theorem openNow_saf (b : Bough) (cause : Nat) (s : State) (c : Bough) :
    coilView (openNow b cause s).saf[c]
    = if b = c then coilView { (allCoils.foldl (fun t k => release b k t) s).saf[b] with closing := .none }
      else coilView s.saf[c] := by
  unfold openNow
  dsimp only
  have e1 : ∀ (p : Bool) (t u : State), (if p then emit 0x0402 b.val (leN 1 cause) t else t).saf = t.saf := by
    intro p t u
    split
    · exact emit_saf _ _ _ _
    · rfl
  rw [e1 _ _ s, State.onSaf_saf]
  by_cases e : b = c
  · subst e
    rw [if_pos rfl, modAt_get]
    rfl
  · rw [if_neg e, modAt_get_other _ _ _ _ e, releaseAll_other s e]

theorem openNow_opens (b : Bough) (cause : Nat) (s : State) : Opened (openNow b cause s).saf[b] := by
  refine Opened.of_view (f := { (allCoils.foldl (fun t k => release b k t) s).saf[b] with closing := .none })
    ⟨fun k => releaseAll_off b s k, rfl⟩ ?_
  rw [openNow_saf, if_pos rfl]

theorem openNow_safeBut {s : State} {b : Bough} (cause : Nat)
    (h : ∀ c, b ≠ c → CoilsOf (heldAll s.safDev) s.saf[c]) : CoilsSafe (openNow b cause s) := by
  rw [coilsSafe_iff]
  have hd : heldAll (openNow b cause s).safDev = heldAll s.safDev := by
    have k0 : Kept (parts [.events, .coils, .safety, .recorder]) s (openNow b cause s) := openNow_changes (.refl _ _) _ _
    have k : Part.stops.same s (openNow b cause s) := k0 .stops (by decide)
    obtain ⟨e1, e2⟩ := Prod.mk.inj k
    unfold heldAll
    rw [e1, e2]
  intro c
  rw [hd]
  by_cases e : b = c
  · subst e
    exact (openNow_opens _ _ _).coilsOf _
  · refine coilsOf_view (h c e) ?_
    rw [openNow_saf, if_neg e]

theorem openNow_safe {s : State} (h₀ : CoilsSafe s) (b : Bough) (cause : Nat) : CoilsSafe (openNow b cause s) :=
  openNow_safeBut cause fun c _ => (coilsSafe_iff s).mp h₀ c

theorem abandonClosing_safe {s : State} (h₀ : CoilsSafe s) (b : Bough) (cause : Nat) :
    CoilsSafe (abandonClosing b cause s) := by
  unfold abandonClosing
  dsimp only
  split
  · exact h₀
  · refine withRequest_safe ?_ _ _ fun u hu => .of (onSesL_changes (.refl _ _) _ _) hu
    refine CoilsSafe.onSaf (.of (emit_changes (.refl _ _) _ _ _) h₀) _ _ fun h => ?_
    exact h.less id (fun _ => id) (.inr rfl)

theorem trip_safe {s : State} (h₀ : CoilsSafe s) (b : Bough) (code : Nat) (value : Int) :
    CoilsSafe (trip b code value s) := by
  unfold trip
  dsimp only
  have h1 : CoilsSafe (dueTripFrame (1 <<< b.val) code
      (emit 0x0403 b.val (leN 1 code ++ leI 4 value) (abandonClosing b (code + 0x20) s))) :=
    .of (dueTripFrame_changes (.refl _ _) _ _) (.of (emit_changes (.refl _ _) _ _ _) (abandonClosing_safe h₀ _ _))
  refine .of (auxAll_changes (.refl _ _)) (.of (faultSession_changes (.refl _ _) _ _) (openNow_safeBut _ fun c e => ?_))
  split
  · simp only [State.onSaf_saf, State.onSaf_safDev, modAt_get_other _ _ _ _ e]
    exact (coilsSafe_iff _).mp h1 c
  · exact (coilsSafe_iff _).mp h1 c

/-! ## Openings of every bough -/

theorem opened_kept {s t : State} (k : Kept offCoils s t) {c : Bough} (h : Opened s.saf[c]) : Opened t.saf[c] :=
  h.of_view (coilView_get (k .coils (by decide)) c)

theorem openNow_stays (b c : Bough) (cause : Nat) {s : State} (h : Opened s.saf[c]) : Opened (openNow b cause s).saf[c] := by
  by_cases e : b = c
  · subst e
    exact openNow_opens _ _ _
  · refine h.of_view ?_
    rw [openNow_saf, if_neg e]

/-- f opens the bough that it is done for and leaves open ones open: done for every bough it opens them all. -/
theorem forBoughs_opens (f : Bough → State → State) (s : State) (h1 : ∀ (b : Bough) (u : State), Opened (f b u).saf[b])
    (h2 : ∀ (b c : Bough) (u : State), Opened u.saf[c] → Opened (f b u).saf[c]) (b : Bough) : Opened (forBoughs f s).saf[b] := by
  unfold forBoughs
  have hm : b ∈ allBoughs := by revert b; decide
  suffices H : ∀ (l : List Bough) (u : State), (b ∈ l ∨ Opened u.saf[b]) → Opened (l.foldl (fun t b => f b t) u).saf[b] from
    H _ _ (.inl hm)
  intro l
  induction l with
  | nil => exact fun u h => h.resolve_left (by simp)
  | cons a l ih =>
    intro u h
    refine ih _ ?_
    rcases h with h | h
    · rcases List.mem_cons.mp h with rfl | h
      · exact .inr (h1 _ _)
      · exact .inl h
    · exact .inr (h2 _ _ _ h)

theorem safe_of_opened {s : State} (h : ∀ b : Bough, Opened s.saf[b]) : CoilsSafe s := fun b _ => h b

theorem faultOpen_opened (b : Bough) (r x : Nat) (u : State) : Opened (faultSession b r (openNow b x u)).saf[b] :=
  opened_kept (faultSession_changes (.refl _ _) _ _) (openNow_opens _ _ _)

theorem faultOpen_stays (b c : Bough) (r x : Nat) {u : State} (h : Opened u.saf[c]) :
    Opened (faultSession b r (openNow b x u)).saf[c] :=
  opened_kept (faultSession_changes (.refl _ _) _ _) (openNow_stays _ _ _ h)

theorem tripAll_opens (code : Nat) (s : State) (b : Bough) : Opened (tripAll code s).saf[b] :=
  forBoughs_opens _ _ (fun _ _ => faultOpen_opened _ _ _ _) (fun _ _ _ h => faultOpen_stays _ _ _ _ h) b

theorem tripAll_safe {s : State} (_ : CoilsSafe s) (code : Nat) : CoilsSafe (tripAll code s) :=
  safe_of_opened (tripAll_opens code s)

theorem abandonClosing_stays (b c : Bough) (x : Nat) {s : State} (h : Opened s.saf[c]) :
    Opened (abandonClosing b x s).saf[c] := by
  unfold abandonClosing
  dsimp only
  split
  · exact h
  · refine opened_kept (withRequest_changes (.refl _ _) _ _ fun u hu => onSesL_changes hu _ _) ?_
    simp only [State.onSaf_saf, emit_saf]
    by_cases e : b = c
    · subst e
      rw [modAt_get]
      exact ⟨h.1, rfl⟩
    · rw [modAt_get_other _ _ _ _ e]
      exact h

/-- A fail-safe cause that is new opens every coil. -/
theorem fsEnter_safe {s : State} (c : FsCause) (code : Nat) (h₀ : s.safDev.fsCauses.contains c = true → CoilsSafe s) :
    CoilsSafe (fsEnter c code s) := by
  unfold fsEnter
  dsimp only
  split
  · exact h₀ ‹_›
  · refine .of (auxAll_changes (.refl _ _)) (.of (driveAll_changes (.refl _ _)) ?_)
    split
    · refine safe_of_opened (forBoughs_opens _ _ (fun _ _ => faultOpen_opened _ _ _ _) fun _ _ _ h => ?_)
      exact faultOpen_stays _ _ _ _ (abandonClosing_stays _ _ _ h)
    · exact safe_of_opened (tripAll_opens _ _)

/-! ## Protections that end -/

theorem CoilsMk.fewer {t : State} {d : SafDev} (hd : heldAll d = true → heldAll t.safDev = true) (h : CoilsSafe t) :
    CoilsMk t.saf d := by
  refine ⟨fun b hh => (coilsSafe_iff t).mp h b (hh.imp_right hd)⟩

theorem fsLeave_safe {s : State} (h₀ : CoilsSafe s) (c : FsCause) : CoilsSafe (fsLeave c s) := by
  unfold fsLeave
  dsimp only
  split
  · exact h₀
  · have h1 : CoilsSafe { s with
        safDev.fsCauses := s.safDev.fsCauses.filter (· != c),
        safDev.fsReport := match (s.safDev.fsCauses.filter (· != c)).getLast? with | some x => fsNo x | none => 0 } := by
      simp only [↓coilsSafe_mk]
      refine CoilsMk.fewer (fun h => ?_) h₀
      unfold heldAll at h ⊢
      simp only [Bool.or_eq_true, Bool.not_eq_true'] at h ⊢
      refine h.imp_left fun h => ?_
      cases e : s.safDev.fsCauses with
      | nil => simp [e] at h
      | cons => rfl
    split
    · refine .of (auxAll_changes (.refl _ _)) (.of (driveAll_changes (.refl _ _)) (.of (emit_changes (.refl _ _) _ _ _) ?_))
      simp only [↓coilsSafe_mk] at h1 ⊢
      exact h1
    · exact h1

theorem clearAtA_safe {s : State} (h₀ : CoilsSafe s) (b : Bough) : CoilsSafe (clearAtA b s) := by
  unfold clearAtA
  dsimp only
  refine .of (auxAll_changes (.refl _ _)) (h₀.onSaf _ _ fun h => h.less (fun hl e => hl ?_) (fun _ => id) (.inl rfl))
  show List.filter _ s.saf[b].latched = []
  rw [e]
  rfl

theorem clearLatches_safe {s : State} (h₀ : CoilsSafe s) (b : Bough) (mask : Byte) : CoilsSafe (clearLatches b mask s).2 := by
  unfold clearLatches
  dsimp only
  split
  · exact h₀
  · split
    · exact h₀
    · dsimp only
      refine .of (auxAll_changes (.refl _ _)) (h₀.onSaf _ _ fun h => h.less (fun hl e => hl ?_) (fun k hk => ?_) (.inl rfl))
      · show List.filter _ s.saf[b].latched = []
        rw [e]
        rfl
      · split
        · simpa using hk
        · exact hk

/-! ## Closing sequences -/

theorem mayClose_free {s : State} {b : Bough} (h : mayClose s b = true) : ¬heldOpen s b := by
  unfold mayClose at h
  simp only [Bool.and_eq_true] at h
  obtain ⟨⟨⟨⟨⟨⟨⟨⟨_, hl⟩, hs⟩, _⟩, hf⟩, _⟩, _⟩, _⟩, _⟩ := h
  unfold heldOpen
  simp only [List.isEmpty_iff] at hl hf
  simp only [Bool.not_eq_true'] at hs
  rintro (h | h | h)
  · exact h hl
  · exact h hf
  · rw [hs] at h
    cases h

theorem beginClosing_safe {s : State} (h₀ : CoilsSafe s) (b : Bough) (c : Closing) (hn : ¬heldOpen s b) :
    CoilsSafe (beginClosing b c s) := by
  unfold beginClosing
  refine driveRequired_safe (onSaf_safe_free h₀ b _ hn rfl) b _ ?_
  unfold heldOpen at hn ⊢
  rwa [State.onSaf_safDev, State.onSaf_saf, modAt_get]

theorem followClosing_safe {s : State} (h₀ : CoilsSafe s) (b : Bough) (ks : List (Fin 3)) (c : Closing) (hn : ¬heldOpen s b) :
    CoilsSafe (followClosing b ks c s) := by
  unfold followClosing
  refine driveRequired_safe (onSaf_safe_free h₀ b _ hn rfl) b ks ?_
  unfold heldOpen at hn ⊢
  rwa [State.onSaf_safDev, State.onSaf_saf, modAt_get]

theorem closed_safe {s : State} (h₀ : CoilsSafe s) (b : Bough) :
    CoilsSafe (s.onSaf b (fun f => { f with closing := .none })) :=
  h₀.onSaf b _ fun h => h.less id (fun _ => id) (.inr rfl)

theorem reportClosed_safe {s : State} (h₀ : CoilsSafe s) (b : Bough) : CoilsSafe (reportClosed b s) := by
  unfold reportClosed
  dsimp only
  refine .of (enterCharging_changes (.refl _ _) _) (.of (emit_changes (.refl _ _) _ _ _) ?_)
  exact withRequest_safe (closed_safe h₀ b) _ _ fun u hu => .of (onSesL_changes (.refl _ _) _ _) hu

theorem closing_ne {c d : Closing} (h : (c == d) = true) (hd : d ≠ .none) : c ≠ .none := by
  rw [beq_iff_eq.mp h]
  exact hd

theorem mainClosed_safe {s : State} (h₀ : CoilsSafe s) (b : Bough) : CoilsSafe (mainClosed b s) := by
  unfold mainClosed
  split
  · rename_i h
    rw [Bool.and_eq_true] at h
    exact release_safe (onSaf_safe_free h₀ b _ (not_held h₀ (closing_ne h.1 (by decide))) rfl) _ _
  · exact h₀

theorem beginInsulation_safe {s : State} (h₀ : CoilsSafe s) (b : Bough) (hc : s.saf[b].closing ≠ .none) :
    CoilsSafe (beginInsulation b s) := by
  unfold beginInsulation
  dsimp only
  exact withRequest_safe (.of (onMeas_changes (.refl _ _) _ _) (onSaf_safe_free h₀ b _ (not_held h₀ hc) rfl)) _ _
    fun u hu => .of (onSesL_changes (.refl _ _) _ _) hu

theorem onCoil_closing (b c : Bough) (k : Fin 3) (f : Coil → Coil) (s : State) :
    (onCoil b k f s).saf[c].closing = s.saf[c].closing := by
  unfold onCoil
  rw [State.onSaf_saf]
  by_cases e : b = c
  · subst e
    rw [modAt_get]
  · rw [modAt_get_other _ _ _ _ e]

theorem preReleased_safe {s : State} (h₀ : CoilsSafe s) (b : Bough) : CoilsSafe (preReleased b s) := by
  unfold preReleased
  split
  · exact h₀
  · rename_i h
    have hc : s.saf[b].closing ≠ .none := by
      intro e
      rw [e] at h
      exact h rfl
    split
    · refine beginInsulation_safe (onCoil_safe h₀ _ _ _) _ ?_
      rwa [onCoil_closing]
    · exact trip_safe (.of (emit_changes (.refl _ _) _ _ _) (onCoil_safe h₀ _ _ _)) _ _ _
    · exact trip_safe (.of (emit_changes (.refl _ _) _ _ _) (onCoil_safe h₀ _ _ _)) _ _ _

theorem insulationDone_safe {s : State} (h₀ : CoilsSafe s) (b : Bough) : CoilsSafe (insulationDone b s) := by
  unfold insulationDone
  dsimp only
  generalize (if bitOf (s.safBoughCfg b) 27 then s.meas[b].check else 4) = r
  split
  · exact h₀
  · rename_i h
    split
    · exact trip_safe (.of (reportIsolation_changes (.refl _ _) _ _) h₀) _ _ _
    · have hc : s.saf[b].closing ≠ .none := by
        intro e
        rw [e] at h
        exact h rfl
      have k : Kept offCoils s (reportIsolation b r s) := reportIsolation_changes (.refl _ _) b r
      refine withRequest_safe ?_ _ _ fun u hu => .of (onSesL_changes (.refl _ _) _ _) hu
      refine onSaf_safe_free (.of k h₀) b _ (not_held (.of k h₀) ?_) rfl
      intro e
      refine hc ((congrArg (·.2.2) (coilView_get (k .coils (by decide)) b)).symm.trans e)

/-! ## The power die -/

theorem safDev_safe {s : State} (h₀ : CoilsSafe s) (d : SafDev) (e1 : d.fsCauses = s.safDev.fsCauses)
    (e2 : d.stop = s.safDev.stop) : CoilsSafe { s with safDev := d } := by
  simp only [↓coilsSafe_mk]
  exact CoilsMk.of rfl e1 e2 h₀


end Sys2Proof.Safety
end

