-- ==== Sys2Proof/Laws/Invariants/CoilRules.lean ====
section
/-! SUPPORT. The operations of weld checks, sessions, trips and measurement keep every coil open that a protection holds
open. -/

set_option Elab.async false
set_option linter.unreachableTactic false
set_option linter.unusedTactic false
set_option linter.unusedSimpArgs false
set_option linter.unusedVariables false

namespace Sys2Proof.Safety

open Sys2Proof.Machine

theorem holdCoils_safe {s : State} (h₀ : CoilsSafe s) (b : Bough) : CoilsSafe (holdCoils b s) := by
  refine onSaf_safe_view h₀ b _ (SameView.of fun x => ?_)
  unfold coilView
  rw [Vector.map_map]
  refine Prod.ext (Vector.map_congr_left fun c _ => ?_) rfl
  show (if _ then _ else c : Coil).driven = c.driven
  split <;> rfl

theorem weldResult_safe {s : State} (h₀ : CoilsSafe s)  (b : Bough) (k : Fin 3) : CoilsSafe (weldResult b k s) := by
  unfold weldResult
  try dsimp only
  repeat' first
    | with_reducible assumption
    | with_reducible first | (show CoilsSafe (emit _ _ _ _); refine CoilsSafe.of (emit_changes (.refl _ _) _ _ _) ?_)
    | with_reducible first | refine onCoil_safe ?_ _ _ _ | refine trip_safe ?_ _ _ _
    | with_reducible first | (show CoilsSafe (weldReport _ _); refine CoilsSafe.of (weldReport_changes (.refl _ _) _) ?_)
    | with_reducible refine CoilsSafe.ite (fun _ => ?_) (fun _ => ?_)
    | simp only [↓coilsSafe_mk]; refine CoilsMk.of rfl rfl rfl ?_
    | split
    | dsimp only [id]

theorem testFailed_safe {s : State} (h₀ : CoilsSafe s)  (b : Bough) (k : Fin 3) (side f code : Nat) : CoilsSafe (testFailed b k side f code s) := by
  unfold testFailed
  try dsimp only
  repeat' first
    | with_reducible assumption
    | with_reducible first | (show CoilsSafe (emit _ _ _ _); refine CoilsSafe.of (emit_changes (.refl _ _) _ _ _) ?_)
    | with_reducible first | refine trip_safe ?_ _ _ _ | refine onSaf_safe_view ?_ _ _ ?_
    | with_reducible refine CoilsSafe.ite (fun _ => ?_) (fun _ => ?_)
    | exact SameView.of fun x => by first | rfl | (dsimp only; split <;> rfl)
    | simp only [↓coilsSafe_mk]; refine CoilsMk.of rfl rfl rfl ?_
    | split
    | dsimp only [id]

theorem setStuckRun_safe {s : State} (h₀ : CoilsSafe s)  (i : Fin 48) (n : Nat) : CoilsSafe (setStuckRun i n s) := by
  unfold setStuckRun
  try dsimp only
  repeat' first
    | with_reducible assumption
    | with_reducible first | refine onCoil_safe ?_ _ _ _
    | with_reducible refine CoilsSafe.ite (fun _ => ?_) (fun _ => ?_)
    | simp only [↓coilsSafe_mk]; refine CoilsMk.of rfl rfl rfl ?_
    | split
    | dsimp only [id]

theorem stuckCheck_safe {s : State} (h₀ : CoilsSafe s)  (on : BitVec 48) (i : Fin 48) : CoilsSafe (stuckCheck on i s) := by
  unfold stuckCheck
  try dsimp only
  repeat' first
    | with_reducible assumption
    | with_reducible first | refine setStuckRun_safe ?_ _ _ | refine testFailed_safe ?_ _ _ _ _ _
    | with_reducible refine CoilsSafe.ite (fun _ => ?_) (fun _ => ?_)
    | split
    | dsimp only [id]

theorem residualTrips_safe {s : State} (h₀ : CoilsSafe s)  (b : Bough) : CoilsSafe (residualTrips b s) := by
  unfold residualTrips
  try dsimp only
  repeat' first
    | with_reducible assumption
    | with_reducible first | refine trip_safe ?_ _ _ _
    | with_reducible first | (show CoilsSafe (State.onMeas _ _ _); refine CoilsSafe.of (onMeas_changes (.refl _ _) _ _) ?_)
    | with_reducible refine CoilsSafe.ite (fun _ => ?_) (fun _ => ?_)
    | simp only [↓coilsSafe_mk]; refine CoilsMk.of rfl rfl rfl ?_
    | split
    | dsimp only [id]

theorem overvoltage_safe {s : State} (h₀ : CoilsSafe s)  (b : Bough) : CoilsSafe (overvoltage b s) := by
  unfold overvoltage
  try dsimp only
  repeat' first
    | with_reducible assumption
    | with_reducible first | refine trip_safe ?_ _ _ _
    | with_reducible first | (show CoilsSafe (State.onMeas _ _ _); refine CoilsSafe.of (onMeas_changes (.refl _ _) _ _) ?_)
    | with_reducible refine CoilsSafe.ite (fun _ => ?_) (fun _ => ?_)
    | simp only [↓coilsSafe_mk]; refine CoilsMk.of rfl rfl rfl ?_
    | split
    | dsimp only [id]

theorem judgeInsulation_safe {s : State} (h₀ : CoilsSafe s)  (b : Bough) (r : Option (Nat × Nat)) : CoilsSafe (judgeInsulation b r s) := by
  unfold judgeInsulation
  try dsimp only
  repeat' first
    | with_reducible assumption
    | with_reducible first | (show CoilsSafe (emit _ _ _ _); refine CoilsSafe.of (emit_changes (.refl _ _) _ _ _) ?_)
    | with_reducible first | (show CoilsSafe (reportIsolation _ _ _); refine CoilsSafe.of (reportIsolation_changes (.refl _ _) _ _) ?_)
    | with_reducible first | refine trip_safe ?_ _ _ _
    | with_reducible first | (show CoilsSafe (State.onMeas _ _ _); refine CoilsSafe.of (onMeas_changes (.refl _ _) _ _) ?_)
    | with_reducible refine CoilsSafe.ite (fun _ => ?_) (fun _ => ?_)
    | simp only [↓coilsSafe_mk]; refine CoilsMk.of rfl rfl rfl ?_
    | split
    | dsimp only [id]

theorem linkBad_safe {s : State} (h₀ : CoilsSafe s)   : CoilsSafe (linkBad s) := by
  unfold linkBad
  try dsimp only
  repeat' first
    | with_reducible assumption
    | with_reducible first | refine fsEnter_safe _ _ (fun _ => ?_)
    | with_reducible refine CoilsSafe.ite (fun _ => ?_) (fun _ => ?_)
    | simp only [↓coilsSafe_mk]; refine CoilsMk.of rfl rfl rfl ?_
    | split
    | dsimp only [id]

theorem linkGood_safe {s : State} (h₀ : CoilsSafe s)   : CoilsSafe (linkGood s) := by
  unfold linkGood
  try dsimp only
  repeat' first
    | with_reducible assumption
    | with_reducible first | refine fsLeave_safe ?_ _
    | with_reducible refine CoilsSafe.ite (fun _ => ?_) (fun _ => ?_)
    | simp only [↓coilsSafe_mk]; refine CoilsMk.of rfl rfl rfl ?_
    | split
    | dsimp only [id]

theorem beatGood_safe {s : State} (h₀ : CoilsSafe s)  (counter : Nat) : CoilsSafe (beatGood counter s) := by
  unfold beatGood
  try dsimp only
  repeat' first
    | with_reducible assumption
    | with_reducible first | (show CoilsSafe (driveAll _); refine CoilsSafe.of (driveAll_changes (.refl _ _)) ?_)
    | with_reducible first | refine fsLeave_safe ?_ _
    | with_reducible refine CoilsSafe.ite (fun _ => ?_) (fun _ => ?_)
    | simp only [↓coilsSafe_mk]; refine CoilsMk.of rfl rfl rfl ?_
    | split
    | dsimp only [id]

theorem pilotLeft_safe {s : State} (h₀ : CoilsSafe s)  (b : Bough) : CoilsSafe (pilotLeft b s) := by
  unfold pilotLeft
  try dsimp only
  repeat' first
    | with_reducible assumption
    | with_reducible first | refine abandonClosing_safe ?_ _ _ | refine openNow_safe ?_ _ _
    | with_reducible first | refine onSaf_safe_view ?_ _ _ ?_
    | with_reducible refine CoilsSafe.ite (fun _ => ?_) (fun _ => ?_)
    | exact SameView.of fun x => by first | rfl | (dsimp only; split <;> rfl)
    | simp only [↓coilsSafe_mk]; refine CoilsMk.of rfl rfl rfl ?_
    | split
    | dsimp only [id]

theorem sidePlateau_safe {s : State} (h₀ : CoilsSafe s)  (b : Bough) (mv : Int) : CoilsSafe (sidePlateau b mv s) := by
  unfold sidePlateau
  try dsimp only
  repeat' first
    | with_reducible assumption
    | with_reducible first | refine pilotLeft_safe ?_ _ | refine onSaf_safe_view ?_ _ _ ?_
    | with_reducible refine CoilsSafe.ite (fun _ => ?_) (fun _ => ?_)
    | exact SameView.of fun x => by first | rfl | (dsimp only; split <;> rfl)
    | simp only [↓coilsSafe_mk]; refine CoilsMk.of rfl rfl rfl ?_
    | split
    | dsimp only [id]

theorem confirmState_safe {s : State} (h₀ : CoilsSafe s)  (b : Bough) (st : PilotState) : CoilsSafe (confirmState b st s) := by
  unfold confirmState
  try dsimp only
  repeat' first
    | with_reducible assumption
    | with_reducible first | (show CoilsSafe (backToA _ _); refine CoilsSafe.of (backToA_changes (.refl _ _) _) ?_)
    | with_reducible first | refine clearAtA_safe ?_ _
    | with_reducible first | (show CoilsSafe (countToggle _ _); refine CoilsSafe.of (countToggle_changes (.refl _ _) _) ?_)
    | with_reducible first | (show CoilsSafe (driveOutput _ _); refine CoilsSafe.of (driveOutput_changes (.refl _ _) _) ?_)
    | with_reducible first | (show CoilsSafe (emit _ _ _ _); refine CoilsSafe.of (emit_changes (.refl _ _) _ _ _) ?_)
    | with_reducible first | (show CoilsSafe (pilotFault _ _ _); refine CoilsSafe.of (pilotFault_changes (.refl _ _) _ _) ?_)
    | with_reducible first | (show CoilsSafe (sesPilot _ _ _); refine CoilsSafe.of (sesPilot_changes (.refl _ _) _ _) ?_)
    | with_reducible first | (show CoilsSafe (startDigital _ _); refine CoilsSafe.of (startDigital_changes (.refl _ _) _) ?_)
    | with_reducible first | (show CoilsSafe (State.onPort _ _ _); refine CoilsSafe.of (onPort_changes (.refl _ _) _ _) ?_)
    | with_reducible first | refine onSaf_safe_view ?_ _ _ ?_
    | with_reducible refine CoilsSafe.ite (fun _ => ?_) (fun _ => ?_)
    | exact SameView.of fun x => by first | rfl | (dsimp only; split <;> rfl)
    | simp only [↓coilsSafe_mk]; refine CoilsMk.of rfl rfl rfl ?_
    | split
    | dsimp only [id]

theorem runPlateau_safe {s : State} (h₀ : CoilsSafe s)  (b : Bough) (k : Option PilotState) : CoilsSafe (runPlateau b k s) := by
  unfold runPlateau
  try dsimp only
  repeat' first
    | with_reducible assumption
    | with_reducible first | refine confirmState_safe ?_ _ _
    | with_reducible first | (show CoilsSafe (State.onPort _ _ _); refine CoilsSafe.of (onPort_changes (.refl _ _) _ _) ?_)
    | with_reducible refine CoilsSafe.ite (fun _ => ?_) (fun _ => ?_)
    | simp only [↓coilsSafe_mk]; refine CoilsMk.of rfl rfl rfl ?_
    | split
    | dsimp only [id]

theorem positivePlateau_safe {s : State} (h₀ : CoilsSafe s)  (b : Bough) (mv : Int) : CoilsSafe (positivePlateau b mv s) := by
  unfold positivePlateau
  try dsimp only
  repeat' first
    | with_reducible assumption
    | with_reducible first | (show CoilsSafe (runBad _ _ _ _); refine CoilsSafe.of (runBad_changes (.refl _ _) _ _ _) ?_)
    | with_reducible first | refine runPlateau_safe ?_ _ _ | refine sidePlateau_safe ?_ _ _
    | with_reducible first | (show CoilsSafe (State.onPort _ _ _); refine CoilsSafe.of (onPort_changes (.refl _ _) _ _) ?_)
    | with_reducible refine CoilsSafe.ite (fun _ => ?_) (fun _ => ?_)
    | simp only [↓coilsSafe_mk]; refine CoilsMk.of rfl rfl rfl ?_
    | split
    | dsimp only [id]

theorem negativePlateau_safe {s : State} (h₀ : CoilsSafe s)  (b : Bough) (mv : Int) : CoilsSafe (negativePlateau b mv s) := by
  unfold negativePlateau
  try dsimp only
  repeat' first
    | with_reducible assumption
    | with_reducible first | refine pilotLeft_safe ?_ _
    | with_reducible first | (show CoilsSafe (runBad _ _ _ _); refine CoilsSafe.of (runBad_changes (.refl _ _) _ _ _) ?_)
    | with_reducible first | (show CoilsSafe (State.onPort _ _ _); refine CoilsSafe.of (onPort_changes (.refl _ _) _ _) ?_)
    | with_reducible refine CoilsSafe.ite (fun _ => ?_) (fun _ => ?_)
    | simp only [↓coilsSafe_mk]; refine CoilsMk.of rfl rfl rfl ?_
    | split
    | dsimp only [id]

theorem stopWork_safe {s : State} (h₀ : CoilsSafe s)  (t : Tick) (i : Fin 23) : CoilsSafe (stopWork t i s) := by
  unfold stopWork
  try dsimp only
  repeat' first
    | with_reducible assumption
    | with_reducible first | (show CoilsSafe (auxEdge _); refine CoilsSafe.of (auxEdge_changes (.refl _ _)) ?_)
    | with_reducible first | (show CoilsSafe (endPortSlice _); refine CoilsSafe.of (endPortSlice_changes (.refl _ _)) ?_)
    | with_reducible first | refine holdCoils_safe ?_ _
    | with_reducible first | (show CoilsSafe (holdWhenIdle _ _); refine CoilsSafe.of (holdWhenIdle_changes (.refl _ _) _) ?_)
    | with_reducible first | (show CoilsSafe (secondBough _ _); refine CoilsSafe.of (secondBough_changes (.refl _ _) _) ?_)
    | with_reducible first | refine CoilsSafe.forBoughs _ ?_ fun b u hu => ?_
    | with_reducible first | refine CoilsSafe.forMask _ _ ?_ fun b u hu => ?_
    | with_reducible refine CoilsSafe.ite (fun _ => ?_) (fun _ => ?_)
    | simp only [↓coilsSafe_mk]; refine CoilsMk.of rfl rfl rfl ?_
    | split
    | dsimp only [id]

theorem stopTick_safe {s : State} (h₀ : CoilsSafe s)  (t : Tick) (busy : BitVec 23) (i : Fin 23) : CoilsSafe (stopTick t busy i s) := by
  unfold stopTick
  try dsimp only
  repeat' first
    | with_reducible assumption
    | with_reducible first | (show CoilsSafe (countOverrun _ _); refine CoilsSafe.of (countOverrun_changes (.refl _ _) _) ?_)
    | with_reducible first | refine stopWork_safe ?_ _ _
    | with_reducible refine CoilsSafe.ite (fun _ => ?_) (fun _ => ?_)
    | simp only [↓coilsSafe_mk]; refine CoilsMk.of rfl rfl rfl ?_
    | split
    | dsimp only [id]

/-- A device reset leaves every coil as the reset state has it: open. -/
theorem deviceReset_safe (s : State) : CoilsSafe (deviceReset s) := by
  have h1 : ∀ (b : Bough) (k : Fin 3), ((Vector.replicate 8 ({} : SafBough))[b].coils[k]).driven = false := by decide
  have h2 : ∀ b : Bough, (Vector.replicate 8 ({} : SafBough))[b].closing = .none := by decide
  exact fun b _ => ⟨h1 b, h2 b⟩

theorem tripReaction_safe {s : State} (h₀ : CoilsSafe s)  (id : Fin 13) : CoilsSafe (tripReaction id s) := by
  unfold tripReaction
  try dsimp only
  repeat' first
    | with_reducible assumption
    | with_reducible first | (show CoilsSafe (driveAll _); refine CoilsSafe.of (driveAll_changes (.refl _ _)) ?_)
    | with_reducible first | refine fsEnter_safe _ _ (fun _ => ?_)
    | with_reducible first | (show CoilsSafe (groupOff _ _); refine CoilsSafe.of (groupOff_changes (.refl _ _) _) ?_)
    | with_reducible refine CoilsSafe.ite (fun _ => ?_) (fun _ => ?_)
    | simp only [↓coilsSafe_mk]; refine CoilsMk.of rfl rfl rfl ?_
    | split
    | dsimp only [id]

/-- A trip of VPWR leaves every coil open. -/
theorem tripInReset_safe {s : State} (h₀ : CoilsSafe s) (id : Fin 13) : CoilsSafe (tripInReset id s) := by
  unfold tripInReset
  split
  · refine .of (auxAll_changes (.refl _ _)) (safe_of_opened fun b => ?_)
    show Opened (s.saf.map openedBough)[b]
    rw [Fin.getElem_fin, Vector.getElem_map]
    refine ⟨fun k => ?_, rfl⟩
    show (Vector.map (fun c : Coil => { c with driven := false, holding := false }) s.saf[b.val].coils)[k].driven = false
    rw [Fin.getElem_fin, Vector.getElem_map]
  · exact .of (driveAll_changes (.refl _ _)) h₀
  · exact .of (driveAll_changes (.refl _ _)) h₀
  all_goals first | exact .of (groupOff_changes (.refl _ _) _) h₀ | exact h₀

theorem recoveryAction_safe {s : State} (h₀ : CoilsSafe s)  (id : Fin 13) : CoilsSafe (recoveryAction id s) := by
  unfold recoveryAction
  try dsimp only
  repeat' first
    | with_reducible assumption
    | with_reducible first | (show CoilsSafe (auxAll _); refine CoilsSafe.of (auxAll_changes (.refl _ _)) ?_)
    | with_reducible first | (show CoilsSafe (driveAll _); refine CoilsSafe.of (driveAll_changes (.refl _ _)) ?_)
    | with_reducible first | refine fsLeave_safe ?_ _
    | with_reducible refine CoilsSafe.ite (fun _ => ?_) (fun _ => ?_)
    | simp only [↓coilsSafe_mk]; refine CoilsMk.of rfl rfl rfl ?_
    | split
    | dsimp only [id]

theorem enterHold_safe {s : State} (h₀ : CoilsSafe s)   : CoilsSafe (enterHold s) := by
  unfold enterHold
  try dsimp only
  repeat' first
    | with_reducible assumption
    | with_reducible first | (show CoilsSafe (emit _ _ _ _); refine CoilsSafe.of (emit_changes (.refl _ _) _ _ _) ?_)
    | with_reducible first | (show CoilsSafe (holdSession _ _ _); refine CoilsSafe.of (holdSession_changes (.refl _ _) _ _) ?_)
    | with_reducible first | refine openNow_safe ?_ _ _ | refine CoilsSafe.forBoughs _ ?_ fun b u hu => ?_
    | with_reducible refine CoilsSafe.ite (fun _ => ?_) (fun _ => ?_)
    | simp only [↓coilsSafe_mk]; refine CoilsMk.of rfl rfl rfl ?_
    | split
    | dsimp only [id]

theorem orderedReset_safe {s : State} (h₀ : CoilsSafe s)   : CoilsSafe (orderedReset s) := by
  unfold orderedReset
  try dsimp only
  repeat' first
    | with_reducible assumption
    | with_reducible first | refine deviceReset_safe ?_
    | with_reducible first | (show CoilsSafe (flushQueue _); refine CoilsSafe.of (flushQueue_changes (.refl _ _)) ?_)
    | with_reducible refine CoilsSafe.ite (fun _ => ?_) (fun _ => ?_)
    | split
    | dsimp only [id]

theorem CoilsSafe.fewer {s t : State} (hv : ∀ b : Bough, coilView t.saf[b] = coilView s.saf[b])
    (hd : heldAll t.safDev = true → heldAll s.safDev = true) (h : CoilsSafe s) : CoilsSafe t := by
  rw [coilsSafe_iff] at h ⊢
  exact fun b => coilsOf_view (fun hh => h b (hh.imp_right hd)) (hv b)

theorem fsLeave_causes (c : FsCause) (s : State) :
    (fsLeave c s).safDev.fsCauses = s.safDev.fsCauses.filter (· != c) ∧ (fsLeave c s).safDev.stop = s.safDev.stop := by
  unfold fsLeave
  dsimp only
  split
  · rename_i h
    refine ⟨(List.filter_eq_self.mpr fun x hx => ?_).symm, rfl⟩
    simp only [Bool.not_eq_true', List.contains_eq_mem, decide_eq_false_iff_not] at h
    simp only [bne_iff_ne, ne_eq]
    exact fun e => h (e ▸ hx)
  · split
    · generalize hu : emit 0x040A 255 _ _ = u
      have k : Kept offCoils u (auxAll (driveAll u)) := auxAll_changes (driveAll_changes (.refl _ _))
      obtain ⟨e1, e2⟩ := Prod.mk.inj (k .stops (by decide))
      rw [e1, e2, ← hu, emit_safDev]
      exact ⟨rfl, rfl⟩
    · exact ⟨rfl, rfl⟩

theorem heartbeatTest_safe {s : State} (h₀ : CoilsSafe s) : CoilsSafe (heartbeatTest s) := by
  have hv : Kept (parts [.free, .events, .ports, .modems, .association, .safety, .stops, .powerDie, .loads, .recorder]) s (heartbeatTest s) :=
    heartbeatTest_changes (.refl _ _)
  refine CoilsSafe.fewer (coilView_get (hv .coils (by decide))) (fun h => ?_) h₀
  have hc : ∀ l : List FsCause, (!(l.filter (· != .wdog)).isEmpty) = true → (!l.isEmpty) = true := by
    intro l
    cases l <;> simp
  unfold heartbeatTest at h
  dsimp only at h
  obtain ⟨e1, e2⟩ := fsLeave_causes .wdog _
  unfold heldAll at h ⊢
  rw [e1, e2, Bool.or_eq_true] at h
  rw [Bool.or_eq_true]
  refine h.imp (fun h => hc _ ?_) (fun h => ?_)
  · rw [← h]
    split <;> split <;> simp [emit_safDev, List.filter_append]
  · rw [← h]
    split <;> split <;> simp [emit_safDev]

theorem checkBough_safe {s : State} (h₀ : CoilsSafe s)  (c : SelfCheck) (b : Bough) : CoilsSafe (checkBough c b s) := by
  unfold checkBough
  try dsimp only
  repeat' first
    | with_reducible assumption
    | with_reducible first | (show CoilsSafe (checkEvent _ _ _); refine CoilsSafe.of (checkEvent_changes (.refl _ _) _ _) ?_)
    | with_reducible first | (show CoilsSafe (holdAtStart _ _); refine CoilsSafe.of (holdAtStart_changes (.refl _ _) _) ?_)
    | with_reducible first | refine testFailed_safe ?_ _ _ _ _ _ | refine trip_safe ?_ _ _ _
    | with_reducible first | refine CoilsSafe.foldl _ _ ?_ fun u x hu => ?_
    | with_reducible refine CoilsSafe.ite (fun _ => ?_) (fun _ => ?_)
    | simp only [↓coilsSafe_mk]; refine CoilsMk.of rfl rfl rfl ?_
    | split
    | dsimp only [id]

theorem selfCheck_safe {s : State} (h₀ : CoilsSafe s)  (c : SelfCheck) : CoilsSafe (selfCheck c s) := by
  unfold selfCheck
  try dsimp only
  repeat' first
    | with_reducible assumption
    | with_reducible first | refine checkBough_safe ?_ _ _
    | with_reducible first | (show CoilsSafe (checkEvent _ _ _); refine CoilsSafe.of (checkEvent_changes (.refl _ _) _ _) ?_)
    | with_reducible first | refine heartbeatTest_safe ?_ | refine CoilsSafe.forBoughs _ ?_ fun b u hu => ?_
    | with_reducible refine CoilsSafe.ite (fun _ => ?_) (fun _ => ?_)
    | simp only [↓coilsSafe_mk]; refine CoilsMk.of rfl rfl rfl ?_
    | split
    | dsimp only [id]

end Sys2Proof.Safety
end

