-- ==== Sys2Proof/Laws/Invariants/Memories.lean ====
section
/-! SUPPORT. Every shared operation that writes a byte memory keeps its canonical form. -/

set_option Elab.async false
set_option linter.unreachableTactic false
set_option linter.unusedTactic false
set_option linter.unusedSimpArgs false

namespace Sys2Proof.Safety

open Sys2Proof.Machine

theorem withRequest_memOk {s : State} (h₀ : MemOk s) (b : Bough) (f : State → State) (hf : ∀ u, MemOk u → MemOk (f u)) :
    MemOk (withRequest b f s) := by
  unfold withRequest
  dsimp only
  have h1 : MemOk (driveOutput b (recalcCeil b (f s))) :=
    .of (driveOutput_changes (recalcCeil_changes (.refl _ _) _) _) (hf s h₀)
  split
  · exact h1
  · exact .of (powerRequest_changes (.refl _ _) _) h1

theorem whileVio_memOk {s : State} (h₀ : MemOk s) (f : State → State) (hf : ∀ u, MemOk u → MemOk (f u)) :
    MemOk (whileVio f s) := by
  unfold whileVio
  split
  · exact hf s h₀
  · exact h₀

theorem checked_memOk {s : State} (h₀ : MemOk s) (sub : Nat) (act : State → State) (hf : ∀ u, MemOk u → MemOk (act u)) :
    MemOk (checked sub act s) := by
  unfold checked
  split
  · exact hf s h₀
  · split
    · exact .of (rejectAll_changes (.refl _ _) _ _) h₀
    · refine hf _ (.of (s := s) ?_ h₀)
      intro p hp; cases p <;> first | exact absurd hp (by decide) | rfl

theorem loadAll_memOk {s : State} (h₀ : MemOk s) (f : Nat → LoadCount → State → LoadCount × State) (n : Nat)
    (hf : ∀ i c u, MemOk u → MemOk (f i c u).2) : MemOk (loadAll f n s).2 := by
  unfold loadAll
  suffices H : ∀ (l : List Nat) (a : LoadCount × State), MemOk a.2 →
      MemOk (l.foldl (fun a i => f i a.1 a.2) a).2 from H _ _ h₀
  intro l
  induction l with
  | nil => exact fun a ha => ha
  | cons i l ih => exact fun a ha => ih _ (hf i a.1 a.2 ha)

theorem tagCommit_memOk {s : State} (h₀ : MemOk s)  (p : Nat) (bs : List Byte) : MemOk (tagCommit p bs s) := by
  unfold tagCommit
  try dsimp only
  repeat' first
    | with_reducible assumption
    | with_reducible refine MemOk.ite (fun _ => ?_) (fun _ => ?_)
    | simp only [↓memOk_mk]; refine MemMk.mk ?_ ?_ ?_ ?_ ?_ ?_
    | with_reducible first | refine memPuts_wf _ _ ?_ | refine memPut_wf _ _ ?_ | refine pagePuts_wf _ _ ?_ | refine pagePut_wf _ _ ?_ | refine pageTake_wf _ _ ?_ | refine memWf_filter _ ?_ | refine memMerge_wf _ ?_ | refine mirrorPage_wf _ _ _ ?_ | refine MemOk.mirrorAfter_wf ?_ _ _
    | with_reducible first | refine MemOk.shadow ?_ | refine MemOk.applied ?_ | refine MemOk.bulk ?_ | refine MemOk.mirror ?_ | refine MemOk.cells ?_ | refine MemOk.tagMem ?_
    | exact (rfl : memWf _ [] = true)
    | dsimp only [id]
    | split

theorem tagWritePage_memOk {s : State} (h₀ : MemOk s)  (p : Nat) (body : List Byte) : MemOk (tagWritePage p body s) := by
  unfold tagWritePage
  try dsimp only
  repeat' first
    | with_reducible assumption
    | with_reducible first | refine tagCommit_memOk ?_ _ _
    | with_reducible refine MemOk.ite (fun _ => ?_) (fun _ => ?_)
    | dsimp only [id]
    | split

theorem fatalError_memOk {s : State} (h₀ : MemOk s)  (cause stop addr : Nat) : MemOk (fatalError cause stop addr s) := by
  unfold fatalError
  try dsimp only
  repeat' first
    | with_reducible assumption
    | with_reducible first | (show MemOk (orderStop _ _); refine MemOk.of (orderStop_changes (.refl _ _) _) ?_)
    | with_reducible first | (show MemOk (raiseIrq _ _); refine MemOk.of (raiseIrq_changes (.refl _ _) _) ?_)
    | with_reducible first | refine tagWritePage_memOk ?_ _ _
    | with_reducible first | (show MemOk (State.free _ _).2; refine MemOk.of (free_changes (.refl _ _) _) ?_)
    | with_reducible refine MemOk.ite (fun _ => ?_) (fun _ => ?_)
    | simp only [↓memOk_mk]; refine MemMk.mk ?_ ?_ ?_ ?_ ?_ ?_
    | with_reducible first | refine memPuts_wf _ _ ?_ | refine memPut_wf _ _ ?_ | refine pagePuts_wf _ _ ?_ | refine pagePut_wf _ _ ?_ | refine pageTake_wf _ _ ?_ | refine memWf_filter _ ?_ | refine memMerge_wf _ ?_ | refine mirrorPage_wf _ _ _ ?_ | refine MemOk.mirrorAfter_wf ?_ _ _
    | with_reducible first | refine MemOk.shadow ?_ | refine MemOk.applied ?_ | refine MemOk.bulk ?_ | refine MemOk.mirror ?_ | refine MemOk.cells ?_ | refine MemOk.tagMem ?_
    | exact (rfl : memWf _ [] = true)
    | (with_reducible refine MemOk.ofPair (by assumption) ?_)
    | dsimp only [id]
    | split

theorem applySnap_memOk {s : State} (h₀ : MemOk s)  (sub : Nat) (p : Nat → Bool) : MemOk (applySnap sub p s) := by
  unfold applySnap
  try dsimp only
  repeat' first
    | with_reducible assumption
    | with_reducible refine MemOk.ite (fun _ => ?_) (fun _ => ?_)
    | simp only [↓memOk_mk]; refine MemMk.mk ?_ ?_ ?_ ?_ ?_ ?_
    | with_reducible first | refine memPuts_wf _ _ ?_ | refine memPut_wf _ _ ?_ | refine pagePuts_wf _ _ ?_ | refine pagePut_wf _ _ ?_ | refine pageTake_wf _ _ ?_ | refine memWf_filter _ ?_ | refine memMerge_wf _ ?_ | refine mirrorPage_wf _ _ _ ?_ | refine MemOk.mirrorAfter_wf ?_ _ _
    | with_reducible first | refine MemOk.shadow ?_ | refine MemOk.applied ?_ | refine MemOk.bulk ?_ | refine MemOk.mirror ?_ | refine MemOk.cells ?_ | refine MemOk.tagMem ?_
    | exact (rfl : memWf _ [] = true)
    | dsimp only [id]
    | split

theorem applyBilCommit_memOk {s : State} (h₀ : MemOk s)   : MemOk (applyBilCommit s) := by
  unfold applyBilCommit
  try dsimp only
  repeat' first
    | with_reducible assumption
    | with_reducible first | refine applySnap_memOk ?_ _ _
    | with_reducible first | (show MemOk (finishCommit _ _ _); refine MemOk.of (finishCommit_changes (.refl _ _) _ _) ?_)
    | with_reducible first | (show MemOk (lrChange _ _ _ _ _); refine MemOk.of (lrChange_changes (.refl _ _) _ _ _ _) ?_)
    | with_reducible first | (show MemOk (rejectCommit _ _ _); refine MemOk.of (rejectCommit_changes (.refl _ _) _ _) ?_)
    | with_reducible refine MemOk.ite (fun _ => ?_) (fun _ => ?_)
    | simp only [↓memOk_mk]; refine MemMk.mk ?_ ?_ ?_ ?_ ?_ ?_
    | with_reducible first | refine memPuts_wf _ _ ?_ | refine memPut_wf _ _ ?_ | refine pagePuts_wf _ _ ?_ | refine pagePut_wf _ _ ?_ | refine pageTake_wf _ _ ?_ | refine memWf_filter _ ?_ | refine memMerge_wf _ ?_ | refine mirrorPage_wf _ _ _ ?_ | refine MemOk.mirrorAfter_wf ?_ _ _
    | with_reducible first | refine MemOk.shadow ?_ | refine MemOk.applied ?_ | refine MemOk.bulk ?_ | refine MemOk.mirror ?_ | refine MemOk.cells ?_ | refine MemOk.tagMem ?_
    | exact (rfl : memWf _ [] = true)
    | dsimp only [id]
    | split

theorem boundaryCommit_memOk {s : State} (h₀ : MemOk s)  (B : Int) : MemOk (boundaryCommit B s) := by
  unfold boundaryCommit
  try dsimp only
  repeat' first
    | with_reducible assumption
    | with_reducible first | refine applyBilCommit_memOk ?_
    | with_reducible refine MemOk.ite (fun _ => ?_) (fun _ => ?_)
    | dsimp only [id]
    | split

theorem boundary_memOk {s : State} (h₀ : MemOk s)   : MemOk (boundary s) := by
  unfold boundary
  try dsimp only
  repeat' first
    | with_reducible assumption
    | with_reducible first | (show MemOk (activateCalendar _ _ _); refine MemOk.of (activateCalendar_changes (.refl _ _) _ _) ?_)
    | with_reducible first | (show MemOk (applyOffset _); refine MemOk.of (applyOffset_changes (.refl _ _)) ?_)
    | with_reducible first | refine boundaryCommit_memOk ?_ _
    | with_reducible first | (show MemOk (boundaryReadings _ _ _); refine MemOk.of (boundaryReadings_changes (.refl _ _) _ _) ?_)
    | with_reducible first | (show MemOk (closeInterval _ _); refine MemOk.of (closeInterval_changes (.refl _ _) _) ?_)
    | with_reducible first | (show MemOk (convertAll _); refine MemOk.of (convertAll_changes (.refl _ _)) ?_)
    | with_reducible first | (show MemOk (evalRate _); refine MemOk.of (evalRate_changes (.refl _ _)) ?_)
    | with_reducible first | (show MemOk (openInterval _ _); refine MemOk.of (openInterval_changes (.refl _ _) _) ?_)
    | with_reducible first | (show MemOk (writeSave _ _); refine MemOk.of (writeSave_changes (.refl _ _) _) ?_)
    | with_reducible refine MemOk.ite (fun _ => ?_) (fun _ => ?_)
    | dsimp only [id]
    | split

theorem passBoundaries_memOk {s : State} (h₀ : MemOk s)  (a z : Int) (n : Nat) : MemOk (passBoundaries a z n s) := by
  unfold passBoundaries
  try dsimp only
  repeat' first
    | with_reducible assumption
    | with_reducible first | (show MemOk (activateCalendar _ _ _); refine MemOk.of (activateCalendar_changes (.refl _ _) _ _) ?_)
    | with_reducible first | (show MemOk (applyOffset _); refine MemOk.of (applyOffset_changes (.refl _ _)) ?_)
    | with_reducible first | refine boundaryCommit_memOk ?_ _
    | with_reducible first | (show MemOk (boundaryReadings _ _ _); refine MemOk.of (boundaryReadings_changes (.refl _ _) _ _) ?_)
    | with_reducible first | (show MemOk (closeInterval _ _); refine MemOk.of (closeInterval_changes (.refl _ _) _) ?_)
    | with_reducible first | (show MemOk (convertAll _); refine MemOk.of (convertAll_changes (.refl _ _)) ?_)
    | with_reducible first | (show MemOk (evalRate _); refine MemOk.of (evalRate_changes (.refl _ _)) ?_)
    | with_reducible first | (show MemOk (intervalEvent _ _ _ _ _ _); refine MemOk.of (intervalEvent_changes (.refl _ _) _ _ _ _ _) ?_)
    | with_reducible first | (show MemOk (openInterval _ _); refine MemOk.of (openInterval_changes (.refl _ _) _) ?_)
    | with_reducible first | (show MemOk (writeSave _ _); refine MemOk.of (writeSave_changes (.refl _ _) _) ?_)
    | with_reducible first | (show MemOk (State.onBil _ _ _); refine MemOk.of (onBil_changes (.refl _ _) _ _) ?_)
    | with_reducible first | refine MemOk.forBoughs _ ?_ fun b u hu => ?_
    | with_reducible refine MemOk.ite (fun _ => ?_) (fun _ => ?_)
    | simp only [↓memOk_mk]; refine MemMk.mk ?_ ?_ ?_ ?_ ?_ ?_
    | with_reducible first | refine memPuts_wf _ _ ?_ | refine memPut_wf _ _ ?_ | refine pagePuts_wf _ _ ?_ | refine pagePut_wf _ _ ?_ | refine pageTake_wf _ _ ?_ | refine memWf_filter _ ?_ | refine memMerge_wf _ ?_ | refine mirrorPage_wf _ _ _ ?_ | refine MemOk.mirrorAfter_wf ?_ _ _
    | with_reducible first | refine MemOk.shadow ?_ | refine MemOk.applied ?_ | refine MemOk.bulk ?_ | refine MemOk.mirror ?_ | refine MemOk.cells ?_ | refine MemOk.tagMem ?_
    | exact (rfl : memWf _ [] = true)
    | dsimp only [id]
    | split

theorem afterSet_memOk {s : State} (h₀ : MemOk s)  (old : Option Nat) : MemOk (afterSet old s) := by
  unfold afterSet
  try dsimp only
  repeat' first
    | with_reducible assumption
    | with_reducible first | (show MemOk (evalRate _); refine MemOk.of (evalRate_changes (.refl _ _)) ?_)
    | with_reducible first | (show MemOk (openAtTime _); refine MemOk.of (openAtTime_changes (.refl _ _)) ?_)
    | with_reducible first | refine passBoundaries_memOk ?_ _ _ _
    | with_reducible refine MemOk.ite (fun _ => ?_) (fun _ => ?_)
    | simp only [↓memOk_mk]; refine MemMk.mk ?_ ?_ ?_ ?_ ?_ ?_
    | with_reducible first | refine memPuts_wf _ _ ?_ | refine memPut_wf _ _ ?_ | refine pagePuts_wf _ _ ?_ | refine pagePut_wf _ _ ?_ | refine pageTake_wf _ _ ?_ | refine memWf_filter _ ?_ | refine memMerge_wf _ ?_ | refine mirrorPage_wf _ _ _ ?_ | refine MemOk.mirrorAfter_wf ?_ _ _
    | with_reducible first | refine MemOk.shadow ?_ | refine MemOk.applied ?_ | refine MemOk.bulk ?_ | refine MemOk.mirror ?_ | refine MemOk.cells ?_ | refine MemOk.tagMem ?_
    | exact (rfl : memWf _ [] = true)
    | dsimp only [id]
    | split

theorem setTime_memOk {s : State} (h₀ : MemOk s)  (v : BitVec 32) (source : Nat) : MemOk (setTime v source s) := by
  unfold setTime
  try dsimp only
  repeat' first
    | with_reducible assumption
    | with_reducible first | refine afterSet_memOk ?_ _
    | with_reducible first | (show MemOk (emit _ _ _ _); refine MemOk.of (emit_changes (.refl _ _) _ _ _) ?_)
    | with_reducible first | (show MemOk (noteFlagAll _ _); refine MemOk.of (noteFlagAll_changes (.refl _ _) _) ?_)
    | with_reducible refine MemOk.ite (fun _ => ?_) (fun _ => ?_)
    | simp only [↓memOk_mk]; refine MemMk.mk ?_ ?_ ?_ ?_ ?_ ?_
    | with_reducible first | refine memPuts_wf _ _ ?_ | refine memPut_wf _ _ ?_ | refine pagePuts_wf _ _ ?_ | refine pagePut_wf _ _ ?_ | refine pageTake_wf _ _ ?_ | refine memWf_filter _ ?_ | refine memMerge_wf _ ?_ | refine mirrorPage_wf _ _ _ ?_ | refine MemOk.mirrorAfter_wf ?_ _ _
    | with_reducible first | refine MemOk.shadow ?_ | refine MemOk.applied ?_ | refine MemOk.bulk ?_ | refine MemOk.mirror ?_ | refine MemOk.cells ?_ | refine MemOk.tagMem ?_
    | exact (rfl : memWf _ [] = true)
    | dsimp only [id]
    | split

theorem sramWrite_memOk {s : State} (h₀ : MemOk s)  (a : Nat) (bs : List Byte) : MemOk (sramWrite a bs s) := by
  unfold sramWrite
  try dsimp only
  repeat' first
    | with_reducible assumption
    | with_reducible first | (show MemOk (writtenWord _ _); refine MemOk.of (writtenWord_changes (.refl _ _) _) ?_)
    | with_reducible first | refine MemOk.foldl _ _ ?_ fun u x hu => ?_
    | with_reducible refine MemOk.ite (fun _ => ?_) (fun _ => ?_)
    | simp only [↓memOk_mk]; refine MemMk.mk ?_ ?_ ?_ ?_ ?_ ?_
    | with_reducible first | refine memPuts_wf _ _ ?_ | refine memPut_wf _ _ ?_ | refine pagePuts_wf _ _ ?_ | refine pagePut_wf _ _ ?_ | refine pageTake_wf _ _ ?_ | refine memWf_filter _ ?_ | refine memMerge_wf _ ?_ | refine mirrorPage_wf _ _ _ ?_ | refine MemOk.mirrorAfter_wf ?_ _ _
    | with_reducible first | refine MemOk.shadow ?_ | refine MemOk.applied ?_ | refine MemOk.bulk ?_ | refine MemOk.mirror ?_ | refine MemOk.cells ?_ | refine MemOk.tagMem ?_
    | exact (rfl : memWf _ [] = true)
    | dsimp only [id]
    | split

theorem bulkOut_memOk {s : State} (h₀ : MemOk s)  (type : Nat) (data : List Byte) : MemOk (bulkOut type data s) := by
  unfold bulkOut
  try dsimp only
  repeat' first
    | with_reducible assumption
    | with_reducible first | (show MemOk (raiseIrq _ _); refine MemOk.of (raiseIrq_changes (.refl _ _) _) ?_)
    | with_reducible refine MemOk.ite (fun _ => ?_) (fun _ => ?_)
    | simp only [↓memOk_mk]; refine MemMk.mk ?_ ?_ ?_ ?_ ?_ ?_
    | with_reducible first | refine memPuts_wf _ _ ?_ | refine memPut_wf _ _ ?_ | refine pagePuts_wf _ _ ?_ | refine pagePut_wf _ _ ?_ | refine pageTake_wf _ _ ?_ | refine memWf_filter _ ?_ | refine memMerge_wf _ ?_ | refine mirrorPage_wf _ _ _ ?_ | refine MemOk.mirrorAfter_wf ?_ _ _
    | with_reducible first | refine MemOk.shadow ?_ | refine MemOk.applied ?_ | refine MemOk.bulk ?_ | refine MemOk.mirror ?_ | refine MemOk.cells ?_ | refine MemOk.tagMem ?_
    | exact (rfl : memWf _ [] = true)
    | dsimp only [id]
    | split

theorem bulkIn_memOk {s : State} (h₀ : MemOk s)  (type : Nat) : MemOk (bulkIn type s) := by
  unfold bulkIn
  try dsimp only
  repeat' first
    | with_reducible assumption
    | with_reducible first | (show MemOk (raiseIrq _ _); refine MemOk.of (raiseIrq_changes (.refl _ _) _) ?_)
    | with_reducible refine MemOk.ite (fun _ => ?_) (fun _ => ?_)
    | simp only [↓memOk_mk]; refine MemMk.mk ?_ ?_ ?_ ?_ ?_ ?_
    | with_reducible first | refine memPuts_wf _ _ ?_ | refine memPut_wf _ _ ?_ | refine pagePuts_wf _ _ ?_ | refine pagePut_wf _ _ ?_ | refine pageTake_wf _ _ ?_ | refine memWf_filter _ ?_ | refine memMerge_wf _ ?_ | refine mirrorPage_wf _ _ _ ?_ | refine MemOk.mirrorAfter_wf ?_ _ _
    | with_reducible first | refine MemOk.shadow ?_ | refine MemOk.applied ?_ | refine MemOk.bulk ?_ | refine MemOk.mirror ?_ | refine MemOk.cells ?_ | refine MemOk.tagMem ?_
    | exact (rfl : memWf _ [] = true)
    | dsimp only [id]
    | split

theorem putSlot_memOk {s : State} (h₀ : MemOk s)  (i : Nat) (r : List Byte) : MemOk (putSlot i r s) := by
  unfold putSlot
  try dsimp only
  repeat' first
    | with_reducible assumption
    | with_reducible first | refine sramWrite_memOk ?_ _ _
    | with_reducible refine MemOk.ite (fun _ => ?_) (fun _ => ?_)
    | dsimp only [id]
    | split

theorem restoreSlot_memOk {s : State} (h₀ : MemOk s)  (i : Nat) : MemOk (restoreSlot i s) := by
  unfold restoreSlot
  try dsimp only
  repeat' first
    | with_reducible assumption
    | with_reducible first | (show MemOk (emit _ _ _ _); refine MemOk.of (emit_changes (.refl _ _) _ _ _) ?_)
    | with_reducible first | refine putSlot_memOk ?_ _ _
    | with_reducible first | (show MemOk (readWord _ _ _).2; refine MemOk.of (readWord_changes (.refl _ _) _ _) ?_)
    | with_reducible refine MemOk.ite (fun _ => ?_) (fun _ => ?_)
    | (with_reducible refine MemOk.ofPair (by assumption) ?_)
    | dsimp only [id]
    | split

theorem readSlot_memOk {s : State} (h₀ : MemOk s)  (i : Nat) : MemOk (readSlot i s).2 := by
  unfold readSlot
  try dsimp only
  repeat' first
    | with_reducible assumption
    | with_reducible first | (show MemOk (readWord _ _ _).2; refine MemOk.of (readWord_changes (.refl _ _) _ _) ?_)
    | with_reducible first | refine restoreSlot_memOk ?_ _
    | with_reducible first | (show MemOk (uncorrectable _ _ _ _); refine MemOk.of (uncorrectable_changes (.refl _ _) _ _ _) ?_)
    | with_reducible refine MemOk.ite (fun _ => ?_) (fun _ => ?_)
    | simp only [↓memOk_mk]; refine MemMk.mk ?_ ?_ ?_ ?_ ?_ ?_
    | with_reducible first | refine memPuts_wf _ _ ?_ | refine memPut_wf _ _ ?_ | refine pagePuts_wf _ _ ?_ | refine pagePut_wf _ _ ?_ | refine pageTake_wf _ _ ?_ | refine memWf_filter _ ?_ | refine memMerge_wf _ ?_ | refine mirrorPage_wf _ _ _ ?_ | refine MemOk.mirrorAfter_wf ?_ _ _
    | with_reducible first | refine MemOk.shadow ?_ | refine MemOk.applied ?_ | refine MemOk.bulk ?_ | refine MemOk.mirror ?_ | refine MemOk.cells ?_ | refine MemOk.tagMem ?_
    | exact (rfl : memWf _ [] = true)
    | (with_reducible refine MemOk.ofPair (by assumption) ?_)
    | dsimp only [id]
    | split

theorem lookupFrom_memOk {s : State} (h₀ : MemOk s) (d : List Byte) (n k : Nat) : MemOk (lookupFrom d n k s).2 := by
  induction n generalizing k s with
  | zero => exact .of (noteProbe_changes (.refl _ _) _) h₀
  | succ n ih =>
    unfold lookupFrom
    dsimp only
    have hr := readSlot_memOk h₀ ((homeSlot d + k) % ledgerSlots)
    split
    · rename_i e
      rw [e] at hr
      exact .of (noteProbe_changes (.refl _ _) _) hr
    · rename_i e
      rw [e] at hr
      split
      · exact .of (noteProbe_changes (.refl _ _) _) hr
      · split
        · exact .of (noteProbe_changes (.refl _ _) _) hr
        · exact ih hr _

theorem lookup_memOk {s : State} (h₀ : MemOk s)  (d : List Byte) : MemOk (lookup d s).2 := by
  unfold lookup
  try dsimp only
  repeat' first
    | with_reducible assumption
    | with_reducible first | refine lookupFrom_memOk ?_ _ _ _
    | with_reducible refine MemOk.ite (fun _ => ?_) (fun _ => ?_)
    | (with_reducible refine MemOk.ofPair (by assumption) ?_)
    | dsimp only [id]
    | split

theorem freeFrom_memOk {s : State} (h₀ : MemOk s) (d : List Byte) (n k : Nat) : MemOk (freeFrom d n k s).2 := by
  induction n generalizing k s with
  | zero => exact .of (noteProbe_changes (.refl _ _) _) h₀
  | succ n ih =>
    unfold freeFrom
    dsimp only
    have hr := readSlot_memOk h₀ ((homeSlot d + k) % ledgerSlots)
    split
    · rename_i e
      rw [e] at hr
      split
      · exact ih hr _
      · exact .of (noteProbe_changes (.refl _ _) _) hr
    · rename_i e
      rw [e] at hr
      exact ih hr _

theorem insertRecord_memOk {s : State} (h₀ : MemOk s)  (r : List Byte) : MemOk (insertRecord r s).2 := by
  unfold insertRecord
  try dsimp only
  repeat' first
    | with_reducible assumption
    | with_reducible first | (show MemOk (emit _ _ _ _); refine MemOk.of (emit_changes (.refl _ _) _ _ _) ?_)
    | with_reducible first | refine freeFrom_memOk ?_ _ _ _ | refine putSlot_memOk ?_ _ _
    | with_reducible refine MemOk.ite (fun _ => ?_) (fun _ => ?_)
    | simp only [↓memOk_mk]; refine MemMk.mk ?_ ?_ ?_ ?_ ?_ ?_
    | with_reducible first | refine memPuts_wf _ _ ?_ | refine memPut_wf _ _ ?_ | refine pagePuts_wf _ _ ?_ | refine pagePut_wf _ _ ?_ | refine pageTake_wf _ _ ?_ | refine memWf_filter _ ?_ | refine memMerge_wf _ ?_ | refine mirrorPage_wf _ _ _ ?_ | refine MemOk.mirrorAfter_wf ?_ _ _
    | with_reducible first | refine MemOk.shadow ?_ | refine MemOk.applied ?_ | refine MemOk.bulk ?_ | refine MemOk.mirror ?_ | refine MemOk.cells ?_ | refine MemOk.tagMem ?_
    | exact (rfl : memWf _ [] = true)
    | (with_reducible refine MemOk.ofPair (by assumption) ?_)
    | dsimp only [id]
    | split

theorem debitSession_memOk {s : State} (h₀ : MemOk s)  (b : Bough) : MemOk (debitSession b s) := by
  unfold debitSession
  try dsimp only
  repeat' first
    | with_reducible assumption
    | with_reducible first | (show MemOk (keepEc _ _ _); refine MemOk.of (keepEc_changes (.refl _ _) _ _) ?_)
    | with_reducible first | refine putSlot_memOk ?_ _ _
    | with_reducible first | (show MemOk (State.onSes _ _ _); refine MemOk.of (onSes_changes (.refl _ _) _ _) ?_)
    | with_reducible refine MemOk.ite (fun _ => ?_) (fun _ => ?_)
    | simp only [↓memOk_mk]; refine MemMk.mk ?_ ?_ ?_ ?_ ?_ ?_
    | with_reducible first | refine memPuts_wf _ _ ?_ | refine memPut_wf _ _ ?_ | refine pagePuts_wf _ _ ?_ | refine pagePut_wf _ _ ?_ | refine pageTake_wf _ _ ?_ | refine memWf_filter _ ?_ | refine memMerge_wf _ ?_ | refine mirrorPage_wf _ _ _ ?_ | refine MemOk.mirrorAfter_wf ?_ _ _
    | with_reducible first | refine MemOk.shadow ?_ | refine MemOk.applied ?_ | refine MemOk.bulk ?_ | refine MemOk.mirror ?_ | refine MemOk.cells ?_ | refine MemOk.tagMem ?_
    | exact (rfl : memWf _ [] = true)
    | dsimp only [id]
    | split

theorem closeSession_memOk {s : State} (h₀ : MemOk s)  (b : Bough) : MemOk (closeSession b s) := by
  unfold closeSession
  try dsimp only
  repeat' first
    | with_reducible assumption
    | with_reducible first | (show MemOk (answer _ _ _ _ _); refine MemOk.of (answer_changes (.refl _ _) _ _ _ _) ?_)
    | with_reducible first | refine debitSession_memOk ?_ _
    | with_reducible first | (show MemOk (discardIdents _ _ _); refine MemOk.of (discardIdents_changes (.refl _ _) _ _) ?_)
    | with_reducible first | (show MemOk (emit _ _ _ _); refine MemOk.of (emit_changes (.refl _ _) _ _ _) ?_)
    | with_reducible first | (show MemOk (endReading _ _); refine MemOk.of (endReading_changes (.refl _ _) _) ?_)
    | with_reducible first | (show MemOk (journalFor _ _ _); refine MemOk.of (journalFor_changes (.refl _ _) _ _) ?_)
    | with_reducible first | (show MemOk (lateReading _ _); refine MemOk.of (lateReading_changes (.refl _ _) _) ?_)
    | with_reducible first | (show MemOk (noteHistogram _ _); refine MemOk.of (noteHistogram_changes (.refl _ _) _) ?_)
    | with_reducible first | (show MemOk (reportCost _ _); refine MemOk.of (reportCost_changes (.refl _ _) _) ?_)
    | with_reducible first | (show MemOk (State.onSes _ _ _); refine MemOk.of (onSes_changes (.refl _ _) _ _) ?_)
    | with_reducible first | (show MemOk (State.onSesL _ _ _); refine MemOk.of (onSesL_changes (.refl _ _) _ _) ?_)
    | with_reducible refine MemOk.ite (fun _ => ?_) (fun _ => ?_)
    | simp only [↓memOk_mk]; refine MemMk.mk ?_ ?_ ?_ ?_ ?_ ?_
    | with_reducible first | refine memPuts_wf _ _ ?_ | refine memPut_wf _ _ ?_ | refine pagePuts_wf _ _ ?_ | refine pagePut_wf _ _ ?_ | refine pageTake_wf _ _ ?_ | refine memWf_filter _ ?_ | refine memMerge_wf _ ?_ | refine mirrorPage_wf _ _ _ ?_ | refine MemOk.mirrorAfter_wf ?_ _ _
    | with_reducible first | refine MemOk.shadow ?_ | refine MemOk.applied ?_ | refine MemOk.bulk ?_ | refine MemOk.mirror ?_ | refine MemOk.cells ?_ | refine MemOk.tagMem ?_
    | exact (rfl : memWf _ [] = true)
    | dsimp only [id]
    | split

theorem finishSession_memOk {s : State} (h₀ : MemOk s)  (b : Bough) : MemOk (finishSession b s) := by
  unfold finishSession
  try dsimp only
  repeat' first
    | with_reducible assumption
    | with_reducible first | refine closeSession_memOk ?_ _
    | with_reducible first | (show MemOk (goState _ _ _); refine MemOk.of (goState_changes (.refl _ _) _ _) ?_)
    | with_reducible first | (show MemOk (leaveNetwork _ _); refine MemOk.of (leaveNetwork_changes (.refl _ _) _) ?_)
    | with_reducible refine MemOk.ite (fun _ => ?_) (fun _ => ?_)
    | dsimp only [id]
    | split

theorem endEarly_memOk {s : State} (h₀ : MemOk s)  (b : Bough) (reason : Nat) : MemOk (endEarly b reason s) := by
  unfold endEarly
  try dsimp only
  repeat' first
    | with_reducible assumption
    | with_reducible first | refine closeSession_memOk ?_ _
    | with_reducible first | (show MemOk (idleSession _ _); refine MemOk.of (idleSession_changes (.refl _ _) _) ?_)
    | with_reducible first | (show MemOk (State.onSes _ _ _); refine MemOk.of (onSes_changes (.refl _ _) _ _) ?_)
    | with_reducible refine MemOk.ite (fun _ => ?_) (fun _ => ?_)
    | simp only [↓memOk_mk]; refine MemMk.mk ?_ ?_ ?_ ?_ ?_ ?_
    | with_reducible first | refine memPuts_wf _ _ ?_ | refine memPut_wf _ _ ?_ | refine pagePuts_wf _ _ ?_ | refine pagePut_wf _ _ ?_ | refine pageTake_wf _ _ ?_ | refine memWf_filter _ ?_ | refine memMerge_wf _ ?_ | refine mirrorPage_wf _ _ _ ?_ | refine MemOk.mirrorAfter_wf ?_ _ _
    | with_reducible first | refine MemOk.shadow ?_ | refine MemOk.applied ?_ | refine MemOk.bulk ?_ | refine MemOk.mirror ?_ | refine MemOk.cells ?_ | refine MemOk.tagMem ?_
    | exact (rfl : memWf _ [] = true)
    | dsimp only [id]
    | split

theorem stopDone_memOk {s : State} (h₀ : MemOk s)  (b : Bough) : MemOk (stopDone b s) := by
  unfold stopDone
  try dsimp only
  repeat' first
    | with_reducible assumption
    | with_reducible first | refine finishSession_memOk ?_ _
    | with_reducible first | (show MemOk (idleSession _ _); refine MemOk.of (idleSession_changes (.refl _ _) _) ?_)
    | with_reducible refine MemOk.ite (fun _ => ?_) (fun _ => ?_)
    | dsimp only [id]
    | split

theorem enterStopping_memOk {s : State} (h₀ : MemOk s)  (b : Bough) (reason : Nat) : MemOk (enterStopping b reason s) := by
  unfold enterStopping
  try dsimp only
  repeat' first
    | with_reducible assumption
    | with_reducible first | (show MemOk (goState _ _ _); refine MemOk.of (goState_changes (.refl _ _) _ _) ?_)
    | with_reducible first | refine stopDone_memOk ?_ _
    | with_reducible first | (show MemOk (State.onSaf _ _ _); refine MemOk.of (onSaf_changes (.refl _ _) _ _) ?_)
    | with_reducible first | (show MemOk (State.onSes _ _ _); refine MemOk.of (onSes_changes (.refl _ _) _ _) ?_)
    | with_reducible first | (show MemOk (State.onSesL _ _ _); refine MemOk.of (onSesL_changes (.refl _ _) _ _) ?_)
    | with_reducible refine MemOk.ite (fun _ => ?_) (fun _ => ?_)
    | simp only [↓memOk_mk]; refine MemMk.mk ?_ ?_ ?_ ?_ ?_ ?_
    | with_reducible first | refine memPuts_wf _ _ ?_ | refine memPut_wf _ _ ?_ | refine pagePuts_wf _ _ ?_ | refine pagePut_wf _ _ ?_ | refine pageTake_wf _ _ ?_ | refine memWf_filter _ ?_ | refine memMerge_wf _ ?_ | refine mirrorPage_wf _ _ _ ?_ | refine MemOk.mirrorAfter_wf ?_ _ _
    | with_reducible first | refine MemOk.shadow ?_ | refine MemOk.applied ?_ | refine MemOk.bulk ?_ | refine MemOk.mirror ?_ | refine MemOk.cells ?_ | refine MemOk.tagMem ?_
    | exact (rfl : memWf _ [] = true)
    | dsimp only [id]
    | split

theorem stopSession_memOk {s : State} (h₀ : MemOk s)  (b : Bough) (reason : Nat) : MemOk (stopSession b reason s) := by
  unfold stopSession
  try dsimp only
  repeat' first
    | with_reducible assumption
    | with_reducible first | refine enterStopping_memOk ?_ _ _ | refine finishSession_memOk ?_ _
    | with_reducible first | (show MemOk (State.onSes _ _ _); refine MemOk.of (onSes_changes (.refl _ _) _ _) ?_)
    | with_reducible refine MemOk.ite (fun _ => ?_) (fun _ => ?_)
    | simp only [↓memOk_mk]; refine MemMk.mk ?_ ?_ ?_ ?_ ?_ ?_
    | with_reducible first | refine memPuts_wf _ _ ?_ | refine memPut_wf _ _ ?_ | refine pagePuts_wf _ _ ?_ | refine pagePut_wf _ _ ?_ | refine pageTake_wf _ _ ?_ | refine memWf_filter _ ?_ | refine memMerge_wf _ ?_ | refine mirrorPage_wf _ _ _ ?_ | refine MemOk.mirrorAfter_wf ?_ _ _
    | with_reducible first | refine MemOk.shadow ?_ | refine MemOk.applied ?_ | refine MemOk.bulk ?_ | refine MemOk.mirror ?_ | refine MemOk.cells ?_ | refine MemOk.tagMem ?_
    | exact (rfl : memWf _ [] = true)
    | dsimp only [id]
    | split

theorem faultSession_memOk {s : State} (h₀ : MemOk s)  (b : Bough) (reason : Nat) : MemOk (faultSession b reason s) := by
  unfold faultSession
  try dsimp only
  repeat' first
    | with_reducible assumption
    | with_reducible first | refine closeSession_memOk ?_ _
    | with_reducible first | (show MemOk (goState _ _ _); refine MemOk.of (goState_changes (.refl _ _) _ _) ?_)
    | with_reducible first | (show MemOk (leaveNetwork _ _); refine MemOk.of (leaveNetwork_changes (.refl _ _) _) ?_)
    | with_reducible first | (show MemOk (State.onSaf _ _ _); refine MemOk.of (onSaf_changes (.refl _ _) _ _) ?_)
    | with_reducible first | (show MemOk (State.onSes _ _ _); refine MemOk.of (onSes_changes (.refl _ _) _ _) ?_)
    | with_reducible refine MemOk.ite (fun _ => ?_) (fun _ => ?_)
    | simp only [↓memOk_mk]; refine MemMk.mk ?_ ?_ ?_ ?_ ?_ ?_
    | with_reducible first | refine memPuts_wf _ _ ?_ | refine memPut_wf _ _ ?_ | refine pagePuts_wf _ _ ?_ | refine pagePut_wf _ _ ?_ | refine pageTake_wf _ _ ?_ | refine memWf_filter _ ?_ | refine memMerge_wf _ ?_ | refine mirrorPage_wf _ _ _ ?_ | refine MemOk.mirrorAfter_wf ?_ _ _
    | with_reducible first | refine MemOk.shadow ?_ | refine MemOk.applied ?_ | refine MemOk.bulk ?_ | refine MemOk.mirror ?_ | refine MemOk.cells ?_ | refine MemOk.tagMem ?_
    | exact (rfl : memWf _ [] = true)
    | dsimp only [id]
    | split

theorem leaveSession_memOk {s : State} (h₀ : MemOk s)  (b : Bough) (reason : Nat) : MemOk (leaveSession b reason s) := by
  unfold leaveSession
  try dsimp only
  repeat' first
    | with_reducible assumption
    | with_reducible first | refine endEarly_memOk ?_ _ _ | refine enterStopping_memOk ?_ _ _
    | with_reducible first | (show MemOk (idleSession _ _); refine MemOk.of (idleSession_changes (.refl _ _) _) ?_)
    | with_reducible refine MemOk.ite (fun _ => ?_) (fun _ => ?_)
    | simp only [↓memOk_mk]; refine MemMk.mk ?_ ?_ ?_ ?_ ?_ ?_
    | with_reducible first | refine memPuts_wf _ _ ?_ | refine memPut_wf _ _ ?_ | refine pagePuts_wf _ _ ?_ | refine pagePut_wf _ _ ?_ | refine pageTake_wf _ _ ?_ | refine memWf_filter _ ?_ | refine memMerge_wf _ ?_ | refine mirrorPage_wf _ _ _ ?_ | refine MemOk.mirrorAfter_wf ?_ _ _
    | with_reducible first | refine MemOk.shadow ?_ | refine MemOk.applied ?_ | refine MemOk.bulk ?_ | refine MemOk.mirror ?_ | refine MemOk.cells ?_ | refine MemOk.tagMem ?_
    | exact (rfl : memWf _ [] = true)
    | dsimp only [id]
    | split

theorem decideLocal_memOk {s : State} (h₀ : MemOk s)  (b : Bough) : MemOk (decideLocal b s).2 := by
  unfold decideLocal
  try dsimp only
  repeat' first
    | with_reducible assumption
    | with_reducible first | (show MemOk (acceptIdent _ _ _ _ _); refine MemOk.of (acceptIdent_changes (.refl _ _) _ _ _ _) ?_)
    | with_reducible first | refine lookup_memOk ?_ _
    | with_reducible first | (show MemOk (revokeOthers _ _ _); refine MemOk.of (revokeOthers_changes (.refl _ _) _ _) ?_)
    | with_reducible first | (show MemOk (State.onSes _ _ _); refine MemOk.of (onSes_changes (.refl _ _) _ _) ?_)
    | with_reducible refine MemOk.ite (fun _ => ?_) (fun _ => ?_)
    | simp only [↓memOk_mk]; refine MemMk.mk ?_ ?_ ?_ ?_ ?_ ?_
    | with_reducible first | refine memPuts_wf _ _ ?_ | refine memPut_wf _ _ ?_ | refine pagePuts_wf _ _ ?_ | refine pagePut_wf _ _ ?_ | refine pageTake_wf _ _ ?_ | refine memWf_filter _ ?_ | refine memMerge_wf _ ?_ | refine mirrorPage_wf _ _ _ ?_ | refine MemOk.mirrorAfter_wf ?_ _ _
    | with_reducible first | refine MemOk.shadow ?_ | refine MemOk.applied ?_ | refine MemOk.bulk ?_ | refine MemOk.mirror ?_ | refine MemOk.cells ?_ | refine MemOk.tagMem ?_
    | exact (rfl : memWf _ [] = true)
    | (with_reducible refine MemOk.ofPair (by assumption) ?_)
    | dsimp only [id]
    | split

theorem decideAfterChain_memOk {s : State} (h₀ : MemOk s)  (b : Bough) : MemOk (decideAfterChain b s).2 := by
  unfold decideAfterChain
  try dsimp only
  repeat' first
    | with_reducible assumption
    | with_reducible first | (show MemOk (askHost _ _); refine MemOk.of (askHost_changes (.refl _ _) _) ?_)
    | with_reducible first | refine decideLocal_memOk ?_ _
    | with_reducible refine MemOk.ite (fun _ => ?_) (fun _ => ?_)
    | (with_reducible refine MemOk.ofPair (by assumption) ?_)
    | dsimp only [id]
    | split

theorem takeIdent_memOk {s : State} (h₀ : MemOk s)  (b : Bough) (i : Ident) : MemOk (takeIdent b i s).2 := by
  unfold takeIdent
  try dsimp only
  repeat' first
    | with_reducible assumption
    | with_reducible first | refine decideAfterChain_memOk ?_ _
    | with_reducible first | (show MemOk (goState _ _ _); refine MemOk.of (goState_changes (.refl _ _) _ _) ?_)
    | with_reducible first | (show MemOk (State.onSes _ _ _); refine MemOk.of (onSes_changes (.refl _ _) _ _) ?_)
    | with_reducible refine MemOk.ite (fun _ => ?_) (fun _ => ?_)
    | simp only [↓memOk_mk]; refine MemMk.mk ?_ ?_ ?_ ?_ ?_ ?_
    | with_reducible first | refine memPuts_wf _ _ ?_ | refine memPut_wf _ _ ?_ | refine pagePuts_wf _ _ ?_ | refine pagePut_wf _ _ ?_ | refine pageTake_wf _ _ ?_ | refine memWf_filter _ ?_ | refine memMerge_wf _ ?_ | refine mirrorPage_wf _ _ _ ?_ | refine MemOk.mirrorAfter_wf ?_ _ _
    | with_reducible first | refine MemOk.shadow ?_ | refine MemOk.applied ?_ | refine MemOk.bulk ?_ | refine MemOk.mirror ?_ | refine MemOk.cells ?_ | refine MemOk.tagMem ?_
    | exact (rfl : memWf _ [] = true)
    | (with_reducible refine MemOk.ofPair (by assumption) ?_)
    | dsimp only [id]
    | split

theorem tryHeld_memOk {s : State} (h₀ : MemOk s) (b : Bough) (n : Nat) : MemOk (tryHeld b n s) := by
  induction n generalizing s with
  | zero => exact h₀
  | succ n ih =>
    unfold tryHeld
    split
    · exact h₀
    · split
      · exact h₀
      · rename_i i rest _
        split
        · exact h₀
        · have hr := takeIdent_memOk (.of (onSes_changes (.refl _ s) b (fun e => { e with held := rest })) h₀) b i
          split
          · rename_i e
            rw [e] at hr
            exact hr
          · rename_i e
            rw [e] at hr
            exact ih (.of (refuseIdent_changes (.refl _ _) _ _ _) hr)

theorem offerIdent_memOk {s : State} (h₀ : MemOk s)  (b : Bough) (i : Ident) : MemOk (offerIdent b i s) := by
  unfold offerIdent
  try dsimp only
  repeat' first
    | with_reducible assumption
    | with_reducible first | (show MemOk (discardIdents _ _ _); refine MemOk.of (discardIdents_changes (.refl _ _) _ _) ?_)
    | with_reducible first | refine tryHeld_memOk ?_ _ _
    | with_reducible first | (show MemOk (State.onSes _ _ _); refine MemOk.of (onSes_changes (.refl _ _) _ _) ?_)
    | with_reducible refine MemOk.ite (fun _ => ?_) (fun _ => ?_)
    | simp only [↓memOk_mk]; refine MemMk.mk ?_ ?_ ?_ ?_ ?_ ?_
    | with_reducible first | refine memPuts_wf _ _ ?_ | refine memPut_wf _ _ ?_ | refine pagePuts_wf _ _ ?_ | refine pagePut_wf _ _ ?_ | refine pageTake_wf _ _ ?_ | refine memWf_filter _ ?_ | refine memMerge_wf _ ?_ | refine mirrorPage_wf _ _ _ ?_ | refine MemOk.mirrorAfter_wf ?_ _ _
    | with_reducible first | refine MemOk.shadow ?_ | refine MemOk.applied ?_ | refine MemOk.bulk ?_ | refine MemOk.mirror ?_ | refine MemOk.cells ?_ | refine MemOk.tagMem ?_
    | exact (rfl : memWf _ [] = true)
    | dsimp only [id]
    | split

theorem refuseAndNext_memOk {s : State} (h₀ : MemOk s)  (b : Bough) (reason : Nat) (tags : List Nat) : MemOk (refuseAndNext b reason tags s) := by
  unfold refuseAndNext
  try dsimp only
  repeat' first
    | with_reducible assumption
    | with_reducible first | (show MemOk (refuseIdent _ _ _ _); refine MemOk.of (refuseIdent_changes (.refl _ _) _ _ _) ?_)
    | with_reducible first | refine tryHeld_memOk ?_ _ _
    | with_reducible refine MemOk.ite (fun _ => ?_) (fun _ => ?_)
    | dsimp only [id]
    | split

theorem decideSilence_memOk {s : State} (h₀ : MemOk s)  (b : Bough) : MemOk (decideSilence b s) := by
  unfold decideSilence
  try dsimp only
  repeat' first
    | with_reducible assumption
    | with_reducible first | refine decideLocal_memOk ?_ _ | refine refuseAndNext_memOk ?_ _ _ _
    | with_reducible first | (show MemOk (State.onSes _ _ _); refine MemOk.of (onSes_changes (.refl _ _) _ _) ?_)
    | with_reducible refine MemOk.ite (fun _ => ?_) (fun _ => ?_)
    | simp only [↓memOk_mk]; refine MemMk.mk ?_ ?_ ?_ ?_ ?_ ?_
    | with_reducible first | refine memPuts_wf _ _ ?_ | refine memPut_wf _ _ ?_ | refine pagePuts_wf _ _ ?_ | refine pagePut_wf _ _ ?_ | refine pageTake_wf _ _ ?_ | refine memWf_filter _ ?_ | refine memMerge_wf _ ?_ | refine mirrorPage_wf _ _ _ ?_ | refine MemOk.mirrorAfter_wf ?_ _ _
    | with_reducible first | refine MemOk.shadow ?_ | refine MemOk.applied ?_ | refine MemOk.bulk ?_ | refine MemOk.mirror ?_ | refine MemOk.cells ?_ | refine MemOk.tagMem ?_
    | exact (rfl : memWf _ [] = true)
    | (with_reducible refine MemOk.ofPair (by assumption) ?_)
    | dsimp only [id]
    | split

theorem trip_memOk {s : State} (h₀ : MemOk s)  (b : Bough) (code : Nat) (value : Int) : MemOk (trip b code value s) := by
  unfold trip
  try dsimp only
  repeat' first
    | with_reducible assumption
    | with_reducible first | (show MemOk (abandonClosing _ _ _); refine MemOk.of (abandonClosing_changes (.refl _ _) _ _) ?_)
    | with_reducible first | (show MemOk (auxAll _); refine MemOk.of (auxAll_changes (.refl _ _)) ?_)
    | with_reducible first | (show MemOk (dueTripFrame _ _ _); refine MemOk.of (dueTripFrame_changes (.refl _ _) _ _) ?_)
    | with_reducible first | (show MemOk (emit _ _ _ _); refine MemOk.of (emit_changes (.refl _ _) _ _ _) ?_)
    | with_reducible first | refine faultSession_memOk ?_ _ _
    | with_reducible first | (show MemOk (openNow _ _ _); refine MemOk.of (openNow_changes (.refl _ _) _ _) ?_)
    | with_reducible first | (show MemOk (State.onSaf _ _ _); refine MemOk.of (onSaf_changes (.refl _ _) _ _) ?_)
    | with_reducible refine MemOk.ite (fun _ => ?_) (fun _ => ?_)
    | simp only [↓memOk_mk]; refine MemMk.mk ?_ ?_ ?_ ?_ ?_ ?_
    | with_reducible first | refine memPuts_wf _ _ ?_ | refine memPut_wf _ _ ?_ | refine pagePuts_wf _ _ ?_ | refine pagePut_wf _ _ ?_ | refine pageTake_wf _ _ ?_ | refine memWf_filter _ ?_ | refine memMerge_wf _ ?_ | refine mirrorPage_wf _ _ _ ?_ | refine MemOk.mirrorAfter_wf ?_ _ _
    | with_reducible first | refine MemOk.shadow ?_ | refine MemOk.applied ?_ | refine MemOk.bulk ?_ | refine MemOk.mirror ?_ | refine MemOk.cells ?_ | refine MemOk.tagMem ?_
    | exact (rfl : memWf _ [] = true)
    | dsimp only [id]
    | split

theorem tripAll_memOk {s : State} (h₀ : MemOk s)  (code : Nat) : MemOk (tripAll code s) := by
  unfold tripAll
  try dsimp only
  repeat' first
    | with_reducible assumption
    | with_reducible first | (show MemOk (abandonClosing _ _ _); refine MemOk.of (abandonClosing_changes (.refl _ _) _ _) ?_)
    | with_reducible first | (show MemOk (dueTripFrame _ _ _); refine MemOk.of (dueTripFrame_changes (.refl _ _) _ _) ?_)
    | with_reducible first | (show MemOk (emit _ _ _ _); refine MemOk.of (emit_changes (.refl _ _) _ _ _) ?_)
    | with_reducible first | refine faultSession_memOk ?_ _ _
    | with_reducible first | (show MemOk (openNow _ _ _); refine MemOk.of (openNow_changes (.refl _ _) _ _) ?_)
    | with_reducible first | refine MemOk.forBoughs _ ?_ fun b u hu => ?_
    | with_reducible refine MemOk.ite (fun _ => ?_) (fun _ => ?_)
    | dsimp only [id]
    | split

theorem weldReport_memOk {s : State} (h₀ : MemOk s)  (b : Bough) : MemOk (weldReport b s) := by
  unfold weldReport
  try dsimp only
  repeat' first
    | with_reducible assumption
    | with_reducible first | (show MemOk (lateReading _ _); refine MemOk.of (lateReading_changes (.refl _ _) _) ?_)
    | with_reducible first | refine stopDone_memOk ?_ _
    | with_reducible refine MemOk.ite (fun _ => ?_) (fun _ => ?_)
    | dsimp only [id]
    | split

theorem weldResult_memOk {s : State} (h₀ : MemOk s)  (b : Bough) (k : Fin 3) : MemOk (weldResult b k s) := by
  unfold weldResult
  try dsimp only
  repeat' first
    | with_reducible assumption
    | with_reducible first | (show MemOk (emit _ _ _ _); refine MemOk.of (emit_changes (.refl _ _) _ _ _) ?_)
    | with_reducible first | (show MemOk (onCoil _ _ _ _); refine MemOk.of (onCoil_changes (.refl _ _) _ _ _) ?_)
    | with_reducible first | refine trip_memOk ?_ _ _ _ | refine weldReport_memOk ?_ _
    | with_reducible refine MemOk.ite (fun _ => ?_) (fun _ => ?_)
    | simp only [↓memOk_mk]; refine MemMk.mk ?_ ?_ ?_ ?_ ?_ ?_
    | with_reducible first | refine memPuts_wf _ _ ?_ | refine memPut_wf _ _ ?_ | refine pagePuts_wf _ _ ?_ | refine pagePut_wf _ _ ?_ | refine pageTake_wf _ _ ?_ | refine memWf_filter _ ?_ | refine memMerge_wf _ ?_ | refine mirrorPage_wf _ _ _ ?_ | refine MemOk.mirrorAfter_wf ?_ _ _
    | with_reducible first | refine MemOk.shadow ?_ | refine MemOk.applied ?_ | refine MemOk.bulk ?_ | refine MemOk.mirror ?_ | refine MemOk.cells ?_ | refine MemOk.tagMem ?_
    | exact (rfl : memWf _ [] = true)
    | dsimp only [id]
    | split

theorem fsEnter_memOk {s : State} (h₀ : MemOk s)  (c : FsCause) (code : Nat) : MemOk (fsEnter c code s) := by
  unfold fsEnter
  try dsimp only
  repeat' first
    | with_reducible assumption
    | with_reducible first | (show MemOk (abandonClosing _ _ _); refine MemOk.of (abandonClosing_changes (.refl _ _) _ _) ?_)
    | with_reducible first | (show MemOk (auxAll _); refine MemOk.of (auxAll_changes (.refl _ _)) ?_)
    | with_reducible first | (show MemOk (driveAll _); refine MemOk.of (driveAll_changes (.refl _ _)) ?_)
    | with_reducible first | (show MemOk (emit _ _ _ _); refine MemOk.of (emit_changes (.refl _ _) _ _ _) ?_)
    | with_reducible first | refine faultSession_memOk ?_ _ _
    | with_reducible first | (show MemOk (openNow _ _ _); refine MemOk.of (openNow_changes (.refl _ _) _ _) ?_)
    | with_reducible first | refine tripAll_memOk ?_ _ | refine MemOk.forBoughs _ ?_ fun b u hu => ?_
    | with_reducible refine MemOk.ite (fun _ => ?_) (fun _ => ?_)
    | simp only [↓memOk_mk]; refine MemMk.mk ?_ ?_ ?_ ?_ ?_ ?_
    | with_reducible first | refine memPuts_wf _ _ ?_ | refine memPut_wf _ _ ?_ | refine pagePuts_wf _ _ ?_ | refine pagePut_wf _ _ ?_ | refine pageTake_wf _ _ ?_ | refine memWf_filter _ ?_ | refine memMerge_wf _ ?_ | refine mirrorPage_wf _ _ _ ?_ | refine MemOk.mirrorAfter_wf ?_ _ _
    | with_reducible first | refine MemOk.shadow ?_ | refine MemOk.applied ?_ | refine MemOk.bulk ?_ | refine MemOk.mirror ?_ | refine MemOk.cells ?_ | refine MemOk.tagMem ?_
    | exact (rfl : memWf _ [] = true)
    | dsimp only [id]
    | split

theorem holdSession_memOk {s : State} (h₀ : MemOk s)  (b : Bough) (r : Nat) : MemOk (holdSession b r s) := by
  unfold holdSession
  try dsimp only
  repeat' first
    | with_reducible assumption
    | with_reducible first | (show MemOk (driveOutput _ _); refine MemOk.of (driveOutput_changes (.refl _ _) _) ?_)
    | with_reducible first | refine leaveSession_memOk ?_ _ _
    | with_reducible refine MemOk.ite (fun _ => ?_) (fun _ => ?_)
    | dsimp only [id]
    | split

theorem preReleased_memOk {s : State} (h₀ : MemOk s)  (b : Bough) : MemOk (preReleased b s) := by
  unfold preReleased
  try dsimp only
  repeat' first
    | with_reducible assumption
    | with_reducible first | (show MemOk (beginInsulation _ _); refine MemOk.of (beginInsulation_changes (.refl _ _) _) ?_)
    | with_reducible first | (show MemOk (emit _ _ _ _); refine MemOk.of (emit_changes (.refl _ _) _ _ _) ?_)
    | with_reducible first | (show MemOk (onCoil _ _ _ _); refine MemOk.of (onCoil_changes (.refl _ _) _ _ _) ?_)
    | with_reducible first | refine trip_memOk ?_ _ _ _
    | with_reducible refine MemOk.ite (fun _ => ?_) (fun _ => ?_)
    | simp only [↓memOk_mk]; refine MemMk.mk ?_ ?_ ?_ ?_ ?_ ?_
    | with_reducible first | refine memPuts_wf _ _ ?_ | refine memPut_wf _ _ ?_ | refine pagePuts_wf _ _ ?_ | refine pagePut_wf _ _ ?_ | refine pageTake_wf _ _ ?_ | refine memWf_filter _ ?_ | refine memMerge_wf _ ?_ | refine mirrorPage_wf _ _ _ ?_ | refine MemOk.mirrorAfter_wf ?_ _ _
    | with_reducible first | refine MemOk.shadow ?_ | refine MemOk.applied ?_ | refine MemOk.bulk ?_ | refine MemOk.mirror ?_ | refine MemOk.cells ?_ | refine MemOk.tagMem ?_
    | exact (rfl : memWf _ [] = true)
    | dsimp only [id]
    | split

theorem insulationDone_memOk {s : State} (h₀ : MemOk s)  (b : Bough) : MemOk (insulationDone b s) := by
  unfold insulationDone
  try dsimp only
  repeat' first
    | with_reducible assumption
    | with_reducible first | (show MemOk (reportIsolation _ _ _); refine MemOk.of (reportIsolation_changes (.refl _ _) _ _) ?_)
    | with_reducible first | refine trip_memOk ?_ _ _ _ | refine withRequest_memOk ?_ _ _ (fun u hu => ?_)
    | with_reducible first | (show MemOk (State.onSaf _ _ _); refine MemOk.of (onSaf_changes (.refl _ _) _ _) ?_)
    | with_reducible first | (show MemOk (State.onSesL _ _ _); refine MemOk.of (onSesL_changes (.refl _ _) _ _) ?_)
    | with_reducible refine MemOk.ite (fun _ => ?_) (fun _ => ?_)
    | simp only [↓memOk_mk]; refine MemMk.mk ?_ ?_ ?_ ?_ ?_ ?_
    | with_reducible first | refine memPuts_wf _ _ ?_ | refine memPut_wf _ _ ?_ | refine pagePuts_wf _ _ ?_ | refine pagePut_wf _ _ ?_ | refine pageTake_wf _ _ ?_ | refine memWf_filter _ ?_ | refine memMerge_wf _ ?_ | refine mirrorPage_wf _ _ _ ?_ | refine MemOk.mirrorAfter_wf ?_ _ _
    | with_reducible first | refine MemOk.shadow ?_ | refine MemOk.applied ?_ | refine MemOk.bulk ?_ | refine MemOk.mirror ?_ | refine MemOk.cells ?_ | refine MemOk.tagMem ?_
    | exact (rfl : memWf _ [] = true)
    | dsimp only [id]
    | split

theorem testFailed_memOk {s : State} (h₀ : MemOk s)  (b : Bough) (k : Fin 3) (side f code : Nat) : MemOk (testFailed b k side f code s) := by
  unfold testFailed
  try dsimp only
  repeat' first
    | with_reducible assumption
    | with_reducible first | (show MemOk (emit _ _ _ _); refine MemOk.of (emit_changes (.refl _ _) _ _ _) ?_)
    | with_reducible first | refine trip_memOk ?_ _ _ _
    | with_reducible first | (show MemOk (State.onSaf _ _ _); refine MemOk.of (onSaf_changes (.refl _ _) _ _) ?_)
    | with_reducible refine MemOk.ite (fun _ => ?_) (fun _ => ?_)
    | simp only [↓memOk_mk]; refine MemMk.mk ?_ ?_ ?_ ?_ ?_ ?_
    | with_reducible first | refine memPuts_wf _ _ ?_ | refine memPut_wf _ _ ?_ | refine pagePuts_wf _ _ ?_ | refine pagePut_wf _ _ ?_ | refine pageTake_wf _ _ ?_ | refine memWf_filter _ ?_ | refine memMerge_wf _ ?_ | refine mirrorPage_wf _ _ _ ?_ | refine MemOk.mirrorAfter_wf ?_ _ _
    | with_reducible first | refine MemOk.shadow ?_ | refine MemOk.applied ?_ | refine MemOk.bulk ?_ | refine MemOk.mirror ?_ | refine MemOk.cells ?_ | refine MemOk.tagMem ?_
    | exact (rfl : memWf _ [] = true)
    | dsimp only [id]
    | split

theorem stuckCheck_memOk {s : State} (h₀ : MemOk s)  (on : BitVec 48) (i : Fin 48) : MemOk (stuckCheck on i s) := by
  unfold stuckCheck
  try dsimp only
  repeat' first
    | with_reducible assumption
    | with_reducible first | (show MemOk (setStuckRun _ _ _); refine MemOk.of (setStuckRun_changes (.refl _ _) _ _) ?_)
    | with_reducible first | refine testFailed_memOk ?_ _ _ _ _ _
    | with_reducible refine MemOk.ite (fun _ => ?_) (fun _ => ?_)
    | dsimp only [id]
    | split

theorem residualTrips_memOk {s : State} (h₀ : MemOk s)  (b : Bough) : MemOk (residualTrips b s) := by
  unfold residualTrips
  try dsimp only
  repeat' first
    | with_reducible assumption
    | with_reducible first | refine trip_memOk ?_ _ _ _
    | with_reducible first | (show MemOk (State.onMeas _ _ _); refine MemOk.of (onMeas_changes (.refl _ _) _ _) ?_)
    | with_reducible refine MemOk.ite (fun _ => ?_) (fun _ => ?_)
    | simp only [↓memOk_mk]; refine MemMk.mk ?_ ?_ ?_ ?_ ?_ ?_
    | with_reducible first | refine memPuts_wf _ _ ?_ | refine memPut_wf _ _ ?_ | refine pagePuts_wf _ _ ?_ | refine pagePut_wf _ _ ?_ | refine pageTake_wf _ _ ?_ | refine memWf_filter _ ?_ | refine memMerge_wf _ ?_ | refine mirrorPage_wf _ _ _ ?_ | refine MemOk.mirrorAfter_wf ?_ _ _
    | with_reducible first | refine MemOk.shadow ?_ | refine MemOk.applied ?_ | refine MemOk.bulk ?_ | refine MemOk.mirror ?_ | refine MemOk.cells ?_ | refine MemOk.tagMem ?_
    | exact (rfl : memWf _ [] = true)
    | dsimp only [id]
    | split

theorem overvoltage_memOk {s : State} (h₀ : MemOk s)  (b : Bough) : MemOk (overvoltage b s) := by
  unfold overvoltage
  try dsimp only
  repeat' first
    | with_reducible assumption
    | with_reducible first | refine trip_memOk ?_ _ _ _
    | with_reducible first | (show MemOk (State.onMeas _ _ _); refine MemOk.of (onMeas_changes (.refl _ _) _ _) ?_)
    | with_reducible refine MemOk.ite (fun _ => ?_) (fun _ => ?_)
    | simp only [↓memOk_mk]; refine MemMk.mk ?_ ?_ ?_ ?_ ?_ ?_
    | with_reducible first | refine memPuts_wf _ _ ?_ | refine memPut_wf _ _ ?_ | refine pagePuts_wf _ _ ?_ | refine pagePut_wf _ _ ?_ | refine pageTake_wf _ _ ?_ | refine memWf_filter _ ?_ | refine memMerge_wf _ ?_ | refine mirrorPage_wf _ _ _ ?_ | refine MemOk.mirrorAfter_wf ?_ _ _
    | with_reducible first | refine MemOk.shadow ?_ | refine MemOk.applied ?_ | refine MemOk.bulk ?_ | refine MemOk.mirror ?_ | refine MemOk.cells ?_ | refine MemOk.tagMem ?_
    | exact (rfl : memWf _ [] = true)
    | dsimp only [id]
    | split

theorem judgeInsulation_memOk {s : State} (h₀ : MemOk s)  (b : Bough) (r : Option (Nat × Nat)) : MemOk (judgeInsulation b r s) := by
  unfold judgeInsulation
  try dsimp only
  repeat' first
    | with_reducible assumption
    | with_reducible first | (show MemOk (emit _ _ _ _); refine MemOk.of (emit_changes (.refl _ _) _ _ _) ?_)
    | with_reducible first | (show MemOk (reportIsolation _ _ _); refine MemOk.of (reportIsolation_changes (.refl _ _) _ _) ?_)
    | with_reducible first | refine trip_memOk ?_ _ _ _
    | with_reducible first | (show MemOk (State.onMeas _ _ _); refine MemOk.of (onMeas_changes (.refl _ _) _ _) ?_)
    | with_reducible refine MemOk.ite (fun _ => ?_) (fun _ => ?_)
    | simp only [↓memOk_mk]; refine MemMk.mk ?_ ?_ ?_ ?_ ?_ ?_
    | with_reducible first | refine memPuts_wf _ _ ?_ | refine memPut_wf _ _ ?_ | refine pagePuts_wf _ _ ?_ | refine pagePut_wf _ _ ?_ | refine pageTake_wf _ _ ?_ | refine memWf_filter _ ?_ | refine memMerge_wf _ ?_ | refine mirrorPage_wf _ _ _ ?_ | refine MemOk.mirrorAfter_wf ?_ _ _
    | with_reducible first | refine MemOk.shadow ?_ | refine MemOk.applied ?_ | refine MemOk.bulk ?_ | refine MemOk.mirror ?_ | refine MemOk.cells ?_ | refine MemOk.tagMem ?_
    | exact (rfl : memWf _ [] = true)
    | dsimp only [id]
    | split

theorem linkBad_memOk {s : State} (h₀ : MemOk s)   : MemOk (linkBad s) := by
  unfold linkBad
  try dsimp only
  repeat' first
    | with_reducible assumption
    | with_reducible first | refine fsEnter_memOk ?_ _ _
    | with_reducible refine MemOk.ite (fun _ => ?_) (fun _ => ?_)
    | simp only [↓memOk_mk]; refine MemMk.mk ?_ ?_ ?_ ?_ ?_ ?_
    | with_reducible first | refine memPuts_wf _ _ ?_ | refine memPut_wf _ _ ?_ | refine pagePuts_wf _ _ ?_ | refine pagePut_wf _ _ ?_ | refine pageTake_wf _ _ ?_ | refine memWf_filter _ ?_ | refine memMerge_wf _ ?_ | refine mirrorPage_wf _ _ _ ?_ | refine MemOk.mirrorAfter_wf ?_ _ _
    | with_reducible first | refine MemOk.shadow ?_ | refine MemOk.applied ?_ | refine MemOk.bulk ?_ | refine MemOk.mirror ?_ | refine MemOk.cells ?_ | refine MemOk.tagMem ?_
    | exact (rfl : memWf _ [] = true)
    | dsimp only [id]
    | split

theorem stopTransfer_memOk {s : State} (h₀ : MemOk s)  (b : Bough) (reason : Nat) : MemOk (stopTransfer b reason s) := by
  unfold stopTransfer
  try dsimp only
  repeat' first
    | with_reducible assumption
    | with_reducible first | refine enterStopping_memOk ?_ _ _
    | with_reducible refine MemOk.ite (fun _ => ?_) (fun _ => ?_)
    | dsimp only [id]
    | split

theorem checkLocal_memOk {s : State} (h₀ : MemOk s)  (b : Bough) : MemOk (checkLocal b s) := by
  unfold checkLocal
  try dsimp only
  repeat' first
    | with_reducible assumption
    | with_reducible first | refine enterStopping_memOk ?_ _ _
    | with_reducible first | (show MemOk (noteLowCredit _ _); refine MemOk.of (noteLowCredit_changes (.refl _ _) _) ?_)
    | with_reducible first | (show MemOk (State.onSes _ _ _); refine MemOk.of (onSes_changes (.refl _ _) _ _) ?_)
    | with_reducible refine MemOk.ite (fun _ => ?_) (fun _ => ?_)
    | simp only [↓memOk_mk]; refine MemMk.mk ?_ ?_ ?_ ?_ ?_ ?_
    | with_reducible first | refine memPuts_wf _ _ ?_ | refine memPut_wf _ _ ?_ | refine pagePuts_wf _ _ ?_ | refine pagePut_wf _ _ ?_ | refine pageTake_wf _ _ ?_ | refine memWf_filter _ ?_ | refine memMerge_wf _ ?_ | refine mirrorPage_wf _ _ _ ?_ | refine MemOk.mirrorAfter_wf ?_ _ _
    | with_reducible first | refine MemOk.shadow ?_ | refine MemOk.applied ?_ | refine MemOk.bulk ?_ | refine MemOk.mirror ?_ | refine MemOk.cells ?_ | refine MemOk.tagMem ?_
    | exact (rfl : memWf _ [] = true)
    | dsimp only [id]
    | split

theorem checkLimits_memOk {s : State} (h₀ : MemOk s)  (b : Bough) : MemOk (checkLimits b s) := by
  unfold checkLimits
  try dsimp only
  repeat' first
    | with_reducible assumption
    | with_reducible first | refine checkLocal_memOk ?_ _
    | with_reducible first | (show MemOk (emit _ _ _ _); refine MemOk.of (emit_changes (.refl _ _) _ _ _) ?_)
    | with_reducible first | refine enterStopping_memOk ?_ _ _
    | with_reducible first | (show MemOk (State.onSes _ _ _); refine MemOk.of (onSes_changes (.refl _ _) _ _) ?_)
    | with_reducible refine MemOk.ite (fun _ => ?_) (fun _ => ?_)
    | simp only [↓memOk_mk]; refine MemMk.mk ?_ ?_ ?_ ?_ ?_ ?_
    | with_reducible first | refine memPuts_wf _ _ ?_ | refine memPut_wf _ _ ?_ | refine pagePuts_wf _ _ ?_ | refine pagePut_wf _ _ ?_ | refine pageTake_wf _ _ ?_ | refine memWf_filter _ ?_ | refine memMerge_wf _ ?_ | refine mirrorPage_wf _ _ _ ?_ | refine MemOk.mirrorAfter_wf ?_ _ _
    | with_reducible first | refine MemOk.shadow ?_ | refine MemOk.applied ?_ | refine MemOk.bulk ?_ | refine MemOk.mirror ?_ | refine MemOk.cells ?_ | refine MemOk.tagMem ?_
    | exact (rfl : memWf _ [] = true)
    | dsimp only [id]
    | split

theorem hostAccept_memOk {s : State} (h₀ : MemOk s)  (b : Bough) (remote : Bool) (g : Grant) (tag : Nat) : MemOk (hostAccept b remote g tag s) := by
  unfold hostAccept
  try dsimp only
  repeat' first
    | with_reducible assumption
    | with_reducible first | (show MemOk (acceptIdent _ _ _ _ _); refine MemOk.of (acceptIdent_changes (.refl _ _) _ _ _ _) ?_)
    | with_reducible first | (show MemOk (authResult _ _ _ _ _); refine MemOk.of (authResult_changes (.refl _ _) _ _ _ _) ?_)
    | with_reducible first | refine lookup_memOk ?_ _ | refine refuseAndNext_memOk ?_ _ _ _
    | with_reducible first | (show MemOk (State.onSes _ _ _); refine MemOk.of (onSes_changes (.refl _ _) _ _) ?_)
    | with_reducible refine MemOk.ite (fun _ => ?_) (fun _ => ?_)
    | simp only [↓memOk_mk]; refine MemMk.mk ?_ ?_ ?_ ?_ ?_ ?_
    | with_reducible first | refine memPuts_wf _ _ ?_ | refine memPut_wf _ _ ?_ | refine pagePuts_wf _ _ ?_ | refine pagePut_wf _ _ ?_ | refine pageTake_wf _ _ ?_ | refine memWf_filter _ ?_ | refine memMerge_wf _ ?_ | refine mirrorPage_wf _ _ _ ?_ | refine MemOk.mirrorAfter_wf ?_ _ _
    | with_reducible first | refine MemOk.shadow ?_ | refine MemOk.applied ?_ | refine MemOk.bulk ?_ | refine MemOk.mirror ?_ | refine MemOk.cells ?_ | refine MemOk.tagMem ?_
    | exact (rfl : memWf _ [] = true)
    | (with_reducible refine MemOk.ofPair (by assumption) ?_)
    | dsimp only [id]
    | split

theorem authAccept_memOk {s : State} (h₀ : MemOk s)  (b : Bough) (remote : Bool) (g : Grant) (ident : List Byte) (tag : Nat) : MemOk (authAccept b remote g ident tag s) := by
  unfold authAccept
  try dsimp only
  repeat' first
    | with_reducible assumption
    | with_reducible first | (show MemOk (authResult _ _ _ _ _); refine MemOk.of (authResult_changes (.refl _ _) _ _ _ _) ?_)
    | with_reducible first | refine hostAccept_memOk ?_ _ _ _ _
    | with_reducible first | (show MemOk (sesAnswer _ _ _ _); refine MemOk.of (sesAnswer_changes (.refl _ _) _ _ _) ?_)
    | with_reducible first | (show MemOk (State.onSes _ _ _); refine MemOk.of (onSes_changes (.refl _ _) _ _) ?_)
    | with_reducible refine MemOk.ite (fun _ => ?_) (fun _ => ?_)
    | simp only [↓memOk_mk]; refine MemMk.mk ?_ ?_ ?_ ?_ ?_ ?_
    | with_reducible first | refine memPuts_wf _ _ ?_ | refine memPut_wf _ _ ?_ | refine pagePuts_wf _ _ ?_ | refine pagePut_wf _ _ ?_ | refine pageTake_wf _ _ ?_ | refine memWf_filter _ ?_ | refine memMerge_wf _ ?_ | refine mirrorPage_wf _ _ _ ?_ | refine MemOk.mirrorAfter_wf ?_ _ _
    | with_reducible first | refine MemOk.shadow ?_ | refine MemOk.applied ?_ | refine MemOk.bulk ?_ | refine MemOk.mirror ?_ | refine MemOk.cells ?_ | refine MemOk.tagMem ?_
    | exact (rfl : memWf _ [] = true)
    | dsimp only [id]
    | split

theorem authRefuse_memOk {s : State} (h₀ : MemOk s)  (b : Bough) (ident : List Byte) (tag : Nat) : MemOk (authRefuse b ident tag s) := by
  unfold authRefuse
  try dsimp only
  repeat' first
    | with_reducible assumption
    | with_reducible first | (show MemOk (authResult _ _ _ _ _); refine MemOk.of (authResult_changes (.refl _ _) _ _ _ _) ?_)
    | with_reducible first | refine refuseAndNext_memOk ?_ _ _ _
    | with_reducible first | (show MemOk (sesAnswer _ _ _ _); refine MemOk.of (sesAnswer_changes (.refl _ _) _ _ _) ?_)
    | with_reducible first | refine stopSession_memOk ?_ _ _
    | with_reducible refine MemOk.ite (fun _ => ?_) (fun _ => ?_)
    | dsimp only [id]
    | split

theorem putCredit_memOk {s : State} (h₀ : MemOk s)  (h : CmdHdr) (i : Nat) (r : List Byte) (balance : Int) (ecUsed : Nat) : MemOk (putCredit h i r balance ecUsed s) := by
  unfold putCredit
  try dsimp only
  repeat' first
    | with_reducible assumption
    | with_reducible first | (show MemOk (journal _ _); refine MemOk.of (journal_changes (.refl _ _) _) ?_)
    | with_reducible first | refine putSlot_memOk ?_ _ _
    | with_reducible first | (show MemOk (sesAnswer _ _ _ _); refine MemOk.of (sesAnswer_changes (.refl _ _) _ _ _) ?_)
    | with_reducible refine MemOk.ite (fun _ => ?_) (fun _ => ?_)
    | dsimp only [id]
    | split

theorem addCredit_memOk {s : State} (h₀ : MemOk s)  (h : CmdHdr) (amount : Int) (i : Nat) (r : List Byte) : MemOk (addCredit h amount i r s) := by
  unfold addCredit
  try dsimp only
  repeat' first
    | with_reducible assumption
    | with_reducible first | (show MemOk (keepEc _ _ _); refine MemOk.of (keepEc_changes (.refl _ _) _ _) ?_)
    | with_reducible first | refine putCredit_memOk ?_ _ _ _ _ _
    | with_reducible refine MemOk.ite (fun _ => ?_) (fun _ => ?_)
    | simp only [↓memOk_mk]; refine MemMk.mk ?_ ?_ ?_ ?_ ?_ ?_
    | with_reducible first | refine memPuts_wf _ _ ?_ | refine memPut_wf _ _ ?_ | refine pagePuts_wf _ _ ?_ | refine pagePut_wf _ _ ?_ | refine pageTake_wf _ _ ?_ | refine memWf_filter _ ?_ | refine memMerge_wf _ ?_ | refine mirrorPage_wf _ _ _ ?_ | refine MemOk.mirrorAfter_wf ?_ _ _
    | with_reducible first | refine MemOk.shadow ?_ | refine MemOk.applied ?_ | refine MemOk.bulk ?_ | refine MemOk.mirror ?_ | refine MemOk.cells ?_ | refine MemOk.tagMem ?_
    | exact (rfl : memWf _ [] = true)
    | dsimp only [id]
    | split

theorem loadRecord_memOk {s : State} (h₀ : MemOk s)  (r : List Byte) : MemOk (loadRecord r s).2 := by
  unfold loadRecord
  try dsimp only
  repeat' first
    | with_reducible assumption
    | with_reducible first | refine insertRecord_memOk ?_ _ | refine lookup_memOk ?_ _ | refine putSlot_memOk ?_ _ _
    | with_reducible refine MemOk.ite (fun _ => ?_) (fun _ => ?_)
    | simp only [↓memOk_mk]; refine MemMk.mk ?_ ?_ ?_ ?_ ?_ ?_
    | with_reducible first | refine memPuts_wf _ _ ?_ | refine memPut_wf _ _ ?_ | refine pagePuts_wf _ _ ?_ | refine pagePut_wf _ _ ?_ | refine pageTake_wf _ _ ?_ | refine memWf_filter _ ?_ | refine memMerge_wf _ ?_ | refine mirrorPage_wf _ _ _ ?_ | refine MemOk.mirrorAfter_wf ?_ _ _
    | with_reducible first | refine MemOk.shadow ?_ | refine MemOk.applied ?_ | refine MemOk.bulk ?_ | refine MemOk.mirror ?_ | refine MemOk.cells ?_ | refine MemOk.tagMem ?_
    | exact (rfl : memWf _ [] = true)
    | (with_reducible refine MemOk.ofPair (by assumption) ?_)
    | dsimp only [id]
    | split

theorem mergeOne_memOk {s : State} (h₀ : MemOk s)  (i : Nat) (c : LoadCount) : MemOk (mergeOne i c s).2 := by
  unfold mergeOne
  try dsimp only
  repeat' first
    | with_reducible assumption
    | with_reducible first | (show MemOk (journal _ _); refine MemOk.of (journal_changes (.refl _ _) _) ?_)
    | with_reducible first | refine loadRecord_memOk ?_ _
    | with_reducible refine MemOk.ite (fun _ => ?_) (fun _ => ?_)
    | simp only [↓memOk_mk]; refine MemMk.mk ?_ ?_ ?_ ?_ ?_ ?_
    | with_reducible first | refine memPuts_wf _ _ ?_ | refine memPut_wf _ _ ?_ | refine pagePuts_wf _ _ ?_ | refine pagePut_wf _ _ ?_ | refine pageTake_wf _ _ ?_ | refine memWf_filter _ ?_ | refine memMerge_wf _ ?_ | refine mirrorPage_wf _ _ _ ?_ | refine MemOk.mirrorAfter_wf ?_ _ _
    | with_reducible first | refine MemOk.shadow ?_ | refine MemOk.applied ?_ | refine MemOk.bulk ?_ | refine MemOk.mirror ?_ | refine MemOk.cells ?_ | refine MemOk.tagMem ?_
    | exact (rfl : memWf _ [] = true)
    | (with_reducible refine MemOk.ofPair (by assumption) ?_)
    | dsimp only [id]
    | split

theorem replaceOne_memOk {s : State} (h₀ : MemOk s)  (i : Nat) (c : LoadCount) : MemOk (replaceOne i c s).2 := by
  unfold replaceOne
  try dsimp only
  repeat' first
    | with_reducible assumption
    | with_reducible first | refine loadRecord_memOk ?_ _
    | with_reducible refine MemOk.ite (fun _ => ?_) (fun _ => ?_)
    | simp only [↓memOk_mk]; refine MemMk.mk ?_ ?_ ?_ ?_ ?_ ?_
    | with_reducible first | refine memPuts_wf _ _ ?_ | refine memPut_wf _ _ ?_ | refine pagePuts_wf _ _ ?_ | refine pagePut_wf _ _ ?_ | refine pageTake_wf _ _ ?_ | refine memWf_filter _ ?_ | refine memMerge_wf _ ?_ | refine mirrorPage_wf _ _ _ ?_ | refine MemOk.mirrorAfter_wf ?_ _ _
    | with_reducible first | refine MemOk.shadow ?_ | refine MemOk.applied ?_ | refine MemOk.bulk ?_ | refine MemOk.mirror ?_ | refine MemOk.cells ?_ | refine MemOk.tagMem ?_
    | exact (rfl : memWf _ [] = true)
    | (with_reducible refine MemOk.ofPair (by assumption) ?_)
    | dsimp only [id]
    | split

theorem loadAnswer_memOk {s : State} (h₀ : MemOk s)  (h : CmdHdr) (result : Nat) (c : LoadCount) : MemOk (loadAnswer h result c s) := by
  unfold loadAnswer
  try dsimp only
  repeat' first
    | with_reducible assumption
    | with_reducible first | (show MemOk (answer _ _ _ _ _); refine MemOk.of (answer_changes (.refl _ _) _ _ _ _) ?_)
    | with_reducible first | refine bulkIn_memOk ?_ _
    | with_reducible refine MemOk.ite (fun _ => ?_) (fun _ => ?_)
    | dsimp only [id]
    | split

theorem emptyBank_memOk {s : State} (h₀ : MemOk s)   : MemOk (emptyBank s) := by
  unfold emptyBank
  try dsimp only
  repeat' first
    | with_reducible assumption
    | with_reducible first | (show MemOk (writtenWord _ _); refine MemOk.of (writtenWord_changes (.refl _ _) _) ?_)
    | with_reducible first | refine MemOk.foldl _ _ ?_ fun u x hu => ?_
    | with_reducible refine MemOk.ite (fun _ => ?_) (fun _ => ?_)
    | simp only [↓memOk_mk]; refine MemMk.mk ?_ ?_ ?_ ?_ ?_ ?_
    | with_reducible first | refine memPuts_wf _ _ ?_ | refine memPut_wf _ _ ?_ | refine pagePuts_wf _ _ ?_ | refine pagePut_wf _ _ ?_ | refine pageTake_wf _ _ ?_ | refine memWf_filter _ ?_ | refine memMerge_wf _ ?_ | refine mirrorPage_wf _ _ _ ?_ | refine MemOk.mirrorAfter_wf ?_ _ _
    | with_reducible first | refine MemOk.shadow ?_ | refine MemOk.applied ?_ | refine MemOk.bulk ?_ | refine MemOk.mirror ?_ | refine MemOk.cells ?_ | refine MemOk.tagMem ?_
    | exact (rfl : memWf _ [] = true)
    | dsimp only [id]
    | split

theorem sesPilot_memOk {s : State} (h₀ : MemOk s)  (b : Bough) (old : PilotState) : MemOk (sesPilot b old s) := by
  unfold sesPilot
  try dsimp only
  repeat' first
    | with_reducible assumption
    | with_reducible first | (show MemOk (connect _ _); refine MemOk.of (connect_changes (.refl _ _) _) ?_)
    | with_reducible first | (show MemOk (energise _ _); refine MemOk.of (energise_changes (.refl _ _) _) ?_)
    | with_reducible first | refine enterStopping_memOk ?_ _ _
    | with_reducible first | (show MemOk (freeVendAtOnce _ _); refine MemOk.of (freeVendAtOnce_changes (.refl _ _) _) ?_)
    | with_reducible first | refine leaveSession_memOk ?_ _ _
    | with_reducible first | (show MemOk (resume _ _); refine MemOk.of (resume_changes (.refl _ _) _) ?_)
    | with_reducible first | (show MemOk (suspend _ _); refine MemOk.of (suspend_changes (.refl _ _) _) ?_)
    | with_reducible refine MemOk.ite (fun _ => ?_) (fun _ => ?_)
    | simp only [↓memOk_mk]; refine MemMk.mk ?_ ?_ ?_ ?_ ?_ ?_
    | with_reducible first | refine memPuts_wf _ _ ?_ | refine memPut_wf _ _ ?_ | refine pagePuts_wf _ _ ?_ | refine pagePut_wf _ _ ?_ | refine pageTake_wf _ _ ?_ | refine memWf_filter _ ?_ | refine memMerge_wf _ ?_ | refine mirrorPage_wf _ _ _ ?_ | refine MemOk.mirrorAfter_wf ?_ _ _
    | with_reducible first | refine MemOk.shadow ?_ | refine MemOk.applied ?_ | refine MemOk.bulk ?_ | refine MemOk.mirror ?_ | refine MemOk.cells ?_ | refine MemOk.tagMem ?_
    | exact (rfl : memWf _ [] = true)
    | dsimp only [id]
    | split

theorem pilotFault_memOk {s : State} (h₀ : MemOk s)  (b : Bough) (kind : Nat) : MemOk (pilotFault b kind s) := by
  unfold pilotFault
  try dsimp only
  repeat' first
    | with_reducible assumption
    | with_reducible first | (show MemOk (driveOutput _ _); refine MemOk.of (driveOutput_changes (.refl _ _) _) ?_)
    | with_reducible first | (show MemOk (emit _ _ _ _); refine MemOk.of (emit_changes (.refl _ _) _ _ _) ?_)
    | with_reducible first | (show MemOk (leaveNetwork _ _); refine MemOk.of (leaveNetwork_changes (.refl _ _) _) ?_)
    | with_reducible first | refine leaveSession_memOk ?_ _ _
    | with_reducible first | (show MemOk (State.onPort _ _ _); refine MemOk.of (onPort_changes (.refl _ _) _ _) ?_)
    | with_reducible refine MemOk.ite (fun _ => ?_) (fun _ => ?_)
    | simp only [↓memOk_mk]; refine MemMk.mk ?_ ?_ ?_ ?_ ?_ ?_
    | with_reducible first | refine memPuts_wf _ _ ?_ | refine memPut_wf _ _ ?_ | refine pagePuts_wf _ _ ?_ | refine pagePut_wf _ _ ?_ | refine pageTake_wf _ _ ?_ | refine memWf_filter _ ?_ | refine memMerge_wf _ ?_ | refine mirrorPage_wf _ _ _ ?_ | refine MemOk.mirrorAfter_wf ?_ _ _
    | with_reducible first | refine MemOk.shadow ?_ | refine MemOk.applied ?_ | refine MemOk.bulk ?_ | refine MemOk.mirror ?_ | refine MemOk.cells ?_ | refine MemOk.tagMem ?_
    | exact (rfl : memWf _ [] = true)
    | dsimp only [id]
    | split

theorem confirmState_memOk {s : State} (h₀ : MemOk s)  (b : Bough) (st : PilotState) : MemOk (confirmState b st s) := by
  unfold confirmState
  try dsimp only
  repeat' first
    | with_reducible assumption
    | with_reducible first | (show MemOk (backToA _ _); refine MemOk.of (backToA_changes (.refl _ _) _) ?_)
    | with_reducible first | (show MemOk (clearAtA _ _); refine MemOk.of (clearAtA_changes (.refl _ _) _) ?_)
    | with_reducible first | (show MemOk (countToggle _ _); refine MemOk.of (countToggle_changes (.refl _ _) _) ?_)
    | with_reducible first | (show MemOk (driveOutput _ _); refine MemOk.of (driveOutput_changes (.refl _ _) _) ?_)
    | with_reducible first | (show MemOk (emit _ _ _ _); refine MemOk.of (emit_changes (.refl _ _) _ _ _) ?_)
    | with_reducible first | refine pilotFault_memOk ?_ _ _ | refine sesPilot_memOk ?_ _ _
    | with_reducible first | (show MemOk (startDigital _ _); refine MemOk.of (startDigital_changes (.refl _ _) _) ?_)
    | with_reducible first | (show MemOk (State.onPort _ _ _); refine MemOk.of (onPort_changes (.refl _ _) _ _) ?_)
    | with_reducible first | (show MemOk (State.onSaf _ _ _); refine MemOk.of (onSaf_changes (.refl _ _) _ _) ?_)
    | with_reducible refine MemOk.ite (fun _ => ?_) (fun _ => ?_)
    | simp only [↓memOk_mk]; refine MemMk.mk ?_ ?_ ?_ ?_ ?_ ?_
    | with_reducible first | refine memPuts_wf _ _ ?_ | refine memPut_wf _ _ ?_ | refine pagePuts_wf _ _ ?_ | refine pagePut_wf _ _ ?_ | refine pageTake_wf _ _ ?_ | refine memWf_filter _ ?_ | refine memMerge_wf _ ?_ | refine mirrorPage_wf _ _ _ ?_ | refine MemOk.mirrorAfter_wf ?_ _ _
    | with_reducible first | refine MemOk.shadow ?_ | refine MemOk.applied ?_ | refine MemOk.bulk ?_ | refine MemOk.mirror ?_ | refine MemOk.cells ?_ | refine MemOk.tagMem ?_
    | exact (rfl : memWf _ [] = true)
    | dsimp only [id]
    | split

theorem runPlateau_memOk {s : State} (h₀ : MemOk s)  (b : Bough) (k : Option PilotState) : MemOk (runPlateau b k s) := by
  unfold runPlateau
  try dsimp only
  repeat' first
    | with_reducible assumption
    | with_reducible first | refine confirmState_memOk ?_ _ _
    | with_reducible first | (show MemOk (State.onPort _ _ _); refine MemOk.of (onPort_changes (.refl _ _) _ _) ?_)
    | with_reducible refine MemOk.ite (fun _ => ?_) (fun _ => ?_)
    | simp only [↓memOk_mk]; refine MemMk.mk ?_ ?_ ?_ ?_ ?_ ?_
    | with_reducible first | refine memPuts_wf _ _ ?_ | refine memPut_wf _ _ ?_ | refine pagePuts_wf _ _ ?_ | refine pagePut_wf _ _ ?_ | refine pageTake_wf _ _ ?_ | refine memWf_filter _ ?_ | refine memMerge_wf _ ?_ | refine mirrorPage_wf _ _ _ ?_ | refine MemOk.mirrorAfter_wf ?_ _ _
    | with_reducible first | refine MemOk.shadow ?_ | refine MemOk.applied ?_ | refine MemOk.bulk ?_ | refine MemOk.mirror ?_ | refine MemOk.cells ?_ | refine MemOk.tagMem ?_
    | exact (rfl : memWf _ [] = true)
    | dsimp only [id]
    | split

theorem runBad_memOk {s : State} (h₀ : MemOk s)  (b : Bough) (bad : Bool) (kind : Nat) : MemOk (runBad b bad kind s) := by
  unfold runBad
  try dsimp only
  repeat' first
    | with_reducible assumption
    | with_reducible first | refine pilotFault_memOk ?_ _ _
    | with_reducible first | (show MemOk (State.onPort _ _ _); refine MemOk.of (onPort_changes (.refl _ _) _ _) ?_)
    | with_reducible refine MemOk.ite (fun _ => ?_) (fun _ => ?_)
    | simp only [↓memOk_mk]; refine MemMk.mk ?_ ?_ ?_ ?_ ?_ ?_
    | with_reducible first | refine memPuts_wf _ _ ?_ | refine memPut_wf _ _ ?_ | refine pagePuts_wf _ _ ?_ | refine pagePut_wf _ _ ?_ | refine pageTake_wf _ _ ?_ | refine memWf_filter _ ?_ | refine memMerge_wf _ ?_ | refine mirrorPage_wf _ _ _ ?_ | refine MemOk.mirrorAfter_wf ?_ _ _
    | with_reducible first | refine MemOk.shadow ?_ | refine MemOk.applied ?_ | refine MemOk.bulk ?_ | refine MemOk.mirror ?_ | refine MemOk.cells ?_ | refine MemOk.tagMem ?_
    | exact (rfl : memWf _ [] = true)
    | dsimp only [id]
    | split

theorem positivePlateau_memOk {s : State} (h₀ : MemOk s)  (b : Bough) (mv : Int) : MemOk (positivePlateau b mv s) := by
  unfold positivePlateau
  try dsimp only
  repeat' first
    | with_reducible assumption
    | with_reducible first | refine runBad_memOk ?_ _ _ _ | refine runPlateau_memOk ?_ _ _
    | with_reducible first | (show MemOk (sidePlateau _ _ _); refine MemOk.of (sidePlateau_changes (.refl _ _) _ _) ?_)
    | with_reducible first | (show MemOk (State.onPort _ _ _); refine MemOk.of (onPort_changes (.refl _ _) _ _) ?_)
    | with_reducible refine MemOk.ite (fun _ => ?_) (fun _ => ?_)
    | simp only [↓memOk_mk]; refine MemMk.mk ?_ ?_ ?_ ?_ ?_ ?_
    | with_reducible first | refine memPuts_wf _ _ ?_ | refine memPut_wf _ _ ?_ | refine pagePuts_wf _ _ ?_ | refine pagePut_wf _ _ ?_ | refine pageTake_wf _ _ ?_ | refine memWf_filter _ ?_ | refine memMerge_wf _ ?_ | refine mirrorPage_wf _ _ _ ?_ | refine MemOk.mirrorAfter_wf ?_ _ _
    | with_reducible first | refine MemOk.shadow ?_ | refine MemOk.applied ?_ | refine MemOk.bulk ?_ | refine MemOk.mirror ?_ | refine MemOk.cells ?_ | refine MemOk.tagMem ?_
    | exact (rfl : memWf _ [] = true)
    | dsimp only [id]
    | split

theorem negativePlateau_memOk {s : State} (h₀ : MemOk s)  (b : Bough) (mv : Int) : MemOk (negativePlateau b mv s) := by
  unfold negativePlateau
  try dsimp only
  repeat' first
    | with_reducible assumption
    | with_reducible first | (show MemOk (pilotLeft _ _); refine MemOk.of (pilotLeft_changes (.refl _ _) _) ?_)
    | with_reducible first | refine runBad_memOk ?_ _ _ _
    | with_reducible first | (show MemOk (State.onPort _ _ _); refine MemOk.of (onPort_changes (.refl _ _) _ _) ?_)
    | with_reducible refine MemOk.ite (fun _ => ?_) (fun _ => ?_)
    | simp only [↓memOk_mk]; refine MemMk.mk ?_ ?_ ?_ ?_ ?_ ?_
    | with_reducible first | refine memPuts_wf _ _ ?_ | refine memPut_wf _ _ ?_ | refine pagePuts_wf _ _ ?_ | refine pagePut_wf _ _ ?_ | refine pageTake_wf _ _ ?_ | refine memWf_filter _ ?_ | refine memMerge_wf _ ?_ | refine mirrorPage_wf _ _ _ ?_ | refine MemOk.mirrorAfter_wf ?_ _ _
    | with_reducible first | refine MemOk.shadow ?_ | refine MemOk.applied ?_ | refine MemOk.bulk ?_ | refine MemOk.mirror ?_ | refine MemOk.cells ?_ | refine MemOk.tagMem ?_
    | exact (rfl : memWf _ [] = true)
    | dsimp only [id]
    | split

theorem cableGone_memOk {s : State} (h₀ : MemOk s)  (b : Bough) : MemOk (cableGone b s) := by
  unfold cableGone
  try dsimp only
  repeat' first
    | with_reducible assumption
    | with_reducible first | refine stopTransfer_memOk ?_ _ _
    | with_reducible refine MemOk.ite (fun _ => ?_) (fun _ => ?_)
    | dsimp only [id]
    | split

theorem serveV2g_memOk {s : State} (h₀ : MemOk s)  (b : Bough) (r : V2G) : MemOk (serveV2g b r s) := by
  unfold serveV2g
  try dsimp only
  repeat' first
    | with_reducible assumption
    | with_reducible first | (show MemOk (chooseService _ _ _ _); refine MemOk.of (chooseService_changes (.refl _ _) _ _ _) ?_)
    | with_reducible first | refine offerIdent_memOk ?_ _ _
    | with_reducible first | (show MemOk (relayCertificate _ _); refine MemOk.of (relayCertificate_changes (.refl _ _) _) ?_)
    | with_reducible first | (show MemOk (respond _ _ _); refine MemOk.of (respond_changes (.refl _ _) _ _) ?_)
    | with_reducible first | (show MemOk (setTargets _ _ _ _); refine MemOk.of (setTargets_changes (.refl _ _) _ _ _) ?_)
    | with_reducible first | refine tryHeld_memOk ?_ _ _ | refine withRequest_memOk ?_ _ _ (fun u hu => ?_)
    | with_reducible first | (show MemOk (State.onLink _ _ _); refine MemOk.of (onLink_changes (.refl _ _) _ _) ?_)
    | with_reducible first | (show MemOk (State.onSesL _ _ _); refine MemOk.of (onSesL_changes (.refl _ _) _ _) ?_)
    | with_reducible refine MemOk.ite (fun _ => ?_) (fun _ => ?_)
    | simp only [↓memOk_mk]; refine MemMk.mk ?_ ?_ ?_ ?_ ?_ ?_
    | with_reducible first | refine memPuts_wf _ _ ?_ | refine memPut_wf _ _ ?_ | refine pagePuts_wf _ _ ?_ | refine pagePut_wf _ _ ?_ | refine pageTake_wf _ _ ?_ | refine memWf_filter _ ?_ | refine memMerge_wf _ ?_ | refine mirrorPage_wf _ _ _ ?_ | refine MemOk.mirrorAfter_wf ?_ _ _
    | with_reducible first | refine MemOk.shadow ?_ | refine MemOk.applied ?_ | refine MemOk.bulk ?_ | refine MemOk.mirror ?_ | refine MemOk.cells ?_ | refine MemOk.tagMem ?_
    | exact (rfl : memWf _ [] = true)
    | dsimp only [id]
    | split

theorem journalSession_memOk {s : State} (h₀ : MemOk s)  (b : Bough) : MemOk (journalSession b s) := by
  unfold journalSession
  try dsimp only
  repeat' first
    | with_reducible assumption
    | with_reducible first | refine debitSession_memOk ?_ _
    | with_reducible first | (show MemOk (journalFor _ _ _); refine MemOk.of (journalFor_changes (.refl _ _) _ _) ?_)
    | with_reducible refine MemOk.ite (fun _ => ?_) (fun _ => ?_)
    | simp only [↓memOk_mk]; refine MemMk.mk ?_ ?_ ?_ ?_ ?_ ?_
    | with_reducible first | refine memPuts_wf _ _ ?_ | refine memPut_wf _ _ ?_ | refine pagePuts_wf _ _ ?_ | refine pagePut_wf _ _ ?_ | refine pageTake_wf _ _ ?_ | refine memWf_filter _ ?_ | refine memMerge_wf _ ?_ | refine mirrorPage_wf _ _ _ ?_ | refine MemOk.mirrorAfter_wf ?_ _ _
    | with_reducible first | refine MemOk.shadow ?_ | refine MemOk.applied ?_ | refine MemOk.bulk ?_ | refine MemOk.mirror ?_ | refine MemOk.cells ?_ | refine MemOk.tagMem ?_
    | exact (rfl : memWf _ [] = true)
    | dsimp only [id]
    | split

theorem recomputeCheck_memOk {s : State} (h₀ : MemOk s)   : MemOk (recomputeCheck s) := by
  unfold recomputeCheck
  try dsimp only
  repeat' first
    | with_reducible assumption
    | with_reducible first | (show MemOk (emit _ _ _ _); refine MemOk.of (emit_changes (.refl _ _) _ _ _) ?_)
    | with_reducible first | refine fatalError_memOk ?_ _ _ _
    | with_reducible refine MemOk.ite (fun _ => ?_) (fun _ => ?_)
    | dsimp only [id]
    | split

theorem hostSetTime_memOk {s : State} (h₀ : MemOk s)  (utc : BitVec 32) : MemOk (hostSetTime utc s) := by
  unfold hostSetTime
  try dsimp only
  repeat' first
    | with_reducible assumption
    | with_reducible first | (show MemOk (evalRate _); refine MemOk.of (evalRate_changes (.refl _ _)) ?_)
    | with_reducible first | (show MemOk (recordOffset _ _); refine MemOk.of (recordOffset_changes (.refl _ _) _) ?_)
    | with_reducible first | refine setTime_memOk ?_ _ _
    | with_reducible refine MemOk.ite (fun _ => ?_) (fun _ => ?_)
    | dsimp only [id]
    | split

theorem readFails_memOk {s : State} (h₀ : MemOk s)  (x : Access) : MemOk (readFails x s) := by
  unfold readFails
  try dsimp only
  repeat' first
    | with_reducible assumption
    | with_reducible first | refine fatalError_memOk ?_ _ _ _ | refine restoreSlot_memOk ?_ _
    | with_reducible first | (show MemOk (uncorrectable _ _ _ _); refine MemOk.of (uncorrectable_changes (.refl _ _) _ _ _) ?_)
    | with_reducible refine MemOk.ite (fun _ => ?_) (fun _ => ?_)
    | simp only [↓memOk_mk]; refine MemMk.mk ?_ ?_ ?_ ?_ ?_ ?_
    | with_reducible first | refine memPuts_wf _ _ ?_ | refine memPut_wf _ _ ?_ | refine pagePuts_wf _ _ ?_ | refine pagePut_wf _ _ ?_ | refine pageTake_wf _ _ ?_ | refine memWf_filter _ ?_ | refine memMerge_wf _ ?_ | refine mirrorPage_wf _ _ _ ?_ | refine MemOk.mirrorAfter_wf ?_ _ _
    | with_reducible first | refine MemOk.shadow ?_ | refine MemOk.applied ?_ | refine MemOk.bulk ?_ | refine MemOk.mirror ?_ | refine MemOk.cells ?_ | refine MemOk.tagMem ?_
    | exact (rfl : memWf _ [] = true)
    | dsimp only [id]
    | split

theorem tagWord_memOk {s : State} (h₀ : MemOk s)  (a : Nat) (bs : List Byte) : MemOk (tagWord a bs s) := by
  unfold tagWord
  try dsimp only
  repeat' first
    | with_reducible assumption
    | with_reducible first | refine tagCommit_memOk ?_ _ _
    | with_reducible refine MemOk.ite (fun _ => ?_) (fun _ => ?_)
    | dsimp only [id]
    | split

theorem serveWrite_memOk {s : State} (h₀ : MemOk s)  (x : Access) (v : BitVec 64) : MemOk (serveWrite x v s) := by
  unfold serveWrite
  try dsimp only
  repeat' first
    | with_reducible assumption
    | with_reducible first | refine sramWrite_memOk ?_ _ _ | refine tagWord_memOk ?_ _ _
    | with_reducible refine MemOk.ite (fun _ => ?_) (fun _ => ?_)
    | simp only [↓memOk_mk]; refine MemMk.mk ?_ ?_ ?_ ?_ ?_ ?_
    | with_reducible first | refine memPuts_wf _ _ ?_ | refine memPut_wf _ _ ?_ | refine pagePuts_wf _ _ ?_ | refine pagePut_wf _ _ ?_ | refine pageTake_wf _ _ ?_ | refine memWf_filter _ ?_ | refine memMerge_wf _ ?_ | refine mirrorPage_wf _ _ _ ?_ | refine MemOk.mirrorAfter_wf ?_ _ _
    | with_reducible first | refine MemOk.shadow ?_ | refine MemOk.applied ?_ | refine MemOk.bulk ?_ | refine MemOk.mirror ?_ | refine MemOk.cells ?_ | refine MemOk.tagMem ?_
    | exact (rfl : memWf _ [] = true)
    | dsimp only [id]
    | split

theorem serveRead_memOk {s : State} (h₀ : MemOk s)  (f : Flit) (x : Access) : MemOk (serveRead f x s) := by
  unfold serveRead
  try dsimp only
  repeat' first
    | with_reducible assumption
    | with_reducible first | refine readFails_memOk ?_ _
    | with_reducible first | (show MemOk (readWord _ _ _).2; refine MemOk.of (readWord_changes (.refl _ _) _ _) ?_)
    | with_reducible first | (show MemOk (respondTo _ _ _ _ _); refine MemOk.of (respondTo_changes (.refl _ _) _ _ _ _) ?_)
    | with_reducible first | (show MemOk (State.free _ _).2; refine MemOk.of (free_changes (.refl _ _) _) ?_)
    | with_reducible refine MemOk.ite (fun _ => ?_) (fun _ => ?_)
    | simp only [↓memOk_mk]; refine MemMk.mk ?_ ?_ ?_ ?_ ?_ ?_
    | with_reducible first | refine memPuts_wf _ _ ?_ | refine memPut_wf _ _ ?_ | refine pagePuts_wf _ _ ?_ | refine pagePut_wf _ _ ?_ | refine pageTake_wf _ _ ?_ | refine memWf_filter _ ?_ | refine memMerge_wf _ ?_ | refine mirrorPage_wf _ _ _ ?_ | refine MemOk.mirrorAfter_wf ?_ _ _
    | with_reducible first | refine MemOk.shadow ?_ | refine MemOk.applied ?_ | refine MemOk.bulk ?_ | refine MemOk.mirror ?_ | refine MemOk.cells ?_ | refine MemOk.tagMem ?_
    | exact (rfl : memWf _ [] = true)
    | (with_reducible refine MemOk.ofPair (by assumption) ?_)
    | dsimp only [id]
    | split

theorem serveAccess_memOk {s : State} (h₀ : MemOk s)  (f : Flit) (x : Access) : MemOk (serveAccess f x s) := by
  unfold serveAccess
  try dsimp only
  repeat' first
    | with_reducible assumption
    | with_reducible first | (show MemOk (emit _ _ _ _); refine MemOk.of (emit_changes (.refl _ _) _ _ _) ?_)
    | with_reducible first | (show MemOk (respondTo _ _ _ _ _); refine MemOk.of (respondTo_changes (.refl _ _) _ _ _ _) ?_)
    | with_reducible first | (show MemOk (restartChannel _ _); refine MemOk.of (restartChannel_changes (.refl _ _) _) ?_)
    | with_reducible first | refine serveRead_memOk ?_ _ _ | refine serveWrite_memOk ?_ _ _
    | with_reducible refine MemOk.ite (fun _ => ?_) (fun _ => ?_)
    | simp only [↓memOk_mk]; refine MemMk.mk ?_ ?_ ?_ ?_ ?_ ?_
    | with_reducible first | refine memPuts_wf _ _ ?_ | refine memPut_wf _ _ ?_ | refine pagePuts_wf _ _ ?_ | refine pagePut_wf _ _ ?_ | refine pageTake_wf _ _ ?_ | refine memWf_filter _ ?_ | refine memMerge_wf _ ?_ | refine mirrorPage_wf _ _ _ ?_ | refine MemOk.mirrorAfter_wf ?_ _ _
    | with_reducible first | refine MemOk.shadow ?_ | refine MemOk.applied ?_ | refine MemOk.bulk ?_ | refine MemOk.mirror ?_ | refine MemOk.cells ?_ | refine MemOk.tagMem ?_
    | exact (rfl : memWf _ [] = true)
    | dsimp only [id]
    | split

theorem arrive_memOk {s : State} (h₀ : MemOk s)  (n : Nat) (f : Flit) : MemOk (arrive n f s) := by
  unfold arrive
  try dsimp only
  repeat' first
    | with_reducible assumption
    | with_reducible first | (show MemOk (onPass _ _ _ _); refine MemOk.of (onPass_changes (.refl _ _) _ _ _) ?_)
    | with_reducible first | refine serveAccess_memOk ?_ _ _
    | with_reducible refine MemOk.ite (fun _ => ?_) (fun _ => ?_)
    | simp only [↓memOk_mk]; refine MemMk.mk ?_ ?_ ?_ ?_ ?_ ?_
    | with_reducible first | refine memPuts_wf _ _ ?_ | refine memPut_wf _ _ ?_ | refine pagePuts_wf _ _ ?_ | refine pagePut_wf _ _ ?_ | refine pageTake_wf _ _ ?_ | refine memWf_filter _ ?_ | refine memMerge_wf _ ?_ | refine mirrorPage_wf _ _ _ ?_ | refine MemOk.mirrorAfter_wf ?_ _ _
    | with_reducible first | refine MemOk.shadow ?_ | refine MemOk.applied ?_ | refine MemOk.bulk ?_ | refine MemOk.mirror ?_ | refine MemOk.cells ?_ | refine MemOk.tagMem ?_
    | exact (rfl : memWf _ [] = true)
    | dsimp only [id]
    | split

theorem crossFlit_memOk {s : State} (h₀ : MemOk s)  (i : Fin 23) (p : Pick) (f : Flit) : MemOk (crossFlit i p f s) := by
  unfold crossFlit
  try dsimp only
  repeat' first
    | with_reducible assumption
    | with_reducible first | (show MemOk (admitMail _); refine MemOk.of (admitMail_changes (.refl _ _)) ?_)
    | with_reducible first | refine arrive_memOk ?_ _ _
    | with_reducible first | (show MemOk (leaveStop _ _ _ _); refine MemOk.of (leaveStop_changes (.refl _ _) _ _ _) ?_)
    | with_reducible first | (show MemOk (onSeg _ _ _); refine MemOk.of (onSeg_changes (.refl _ _) _ _) ?_)
    | with_reducible refine MemOk.ite (fun _ => ?_) (fun _ => ?_)
    | simp only [↓memOk_mk]; refine MemMk.mk ?_ ?_ ?_ ?_ ?_ ?_
    | with_reducible first | refine memPuts_wf _ _ ?_ | refine memPut_wf _ _ ?_ | refine pagePuts_wf _ _ ?_ | refine pagePut_wf _ _ ?_ | refine pageTake_wf _ _ ?_ | refine memWf_filter _ ?_ | refine memMerge_wf _ ?_ | refine mirrorPage_wf _ _ _ ?_ | refine MemOk.mirrorAfter_wf ?_ _ _
    | with_reducible first | refine MemOk.shadow ?_ | refine MemOk.applied ?_ | refine MemOk.bulk ?_ | refine MemOk.mirror ?_ | refine MemOk.cells ?_ | refine MemOk.tagMem ?_
    | exact (rfl : memWf _ [] = true)
    | dsimp only [id]
    | split

theorem holdWhenIdle_memOk {s : State} (h₀ : MemOk s)  (b : Bough) : MemOk (holdWhenIdle b s) := by
  unfold holdWhenIdle
  try dsimp only
  repeat' first
    | with_reducible assumption
    | with_reducible first | refine holdSession_memOk ?_ _ _
    | with_reducible first | (show MemOk (State.onSaf _ _ _); refine MemOk.of (onSaf_changes (.refl _ _) _ _) ?_)
    | with_reducible refine MemOk.ite (fun _ => ?_) (fun _ => ?_)
    | simp only [↓memOk_mk]; refine MemMk.mk ?_ ?_ ?_ ?_ ?_ ?_
    | with_reducible first | refine memPuts_wf _ _ ?_ | refine memPut_wf _ _ ?_ | refine pagePuts_wf _ _ ?_ | refine pagePut_wf _ _ ?_ | refine pageTake_wf _ _ ?_ | refine memWf_filter _ ?_ | refine memMerge_wf _ ?_ | refine mirrorPage_wf _ _ _ ?_ | refine MemOk.mirrorAfter_wf ?_ _ _
    | with_reducible first | refine MemOk.shadow ?_ | refine MemOk.applied ?_ | refine MemOk.bulk ?_ | refine MemOk.mirror ?_ | refine MemOk.cells ?_ | refine MemOk.tagMem ?_
    | exact (rfl : memWf _ [] = true)
    | dsimp only [id]
    | split

theorem stopWork_memOk {s : State} (h₀ : MemOk s)  (t : Tick) (i : Fin 23) : MemOk (stopWork t i s) := by
  unfold stopWork
  try dsimp only
  repeat' first
    | with_reducible assumption
    | with_reducible first | (show MemOk (auxEdge _); refine MemOk.of (auxEdge_changes (.refl _ _)) ?_)
    | with_reducible first | (show MemOk (endPortSlice _); refine MemOk.of (endPortSlice_changes (.refl _ _)) ?_)
    | with_reducible first | (show MemOk (holdCoils _ _); refine MemOk.of (holdCoils_changes (.refl _ _) _) ?_)
    | with_reducible first | refine holdWhenIdle_memOk ?_ _
    | with_reducible first | (show MemOk (secondBough _ _); refine MemOk.of (secondBough_changes (.refl _ _) _) ?_)
    | with_reducible first | refine MemOk.forBoughs _ ?_ fun b u hu => ?_
    | with_reducible first | refine MemOk.forMask _ _ ?_ fun b u hu => ?_
    | with_reducible refine MemOk.ite (fun _ => ?_) (fun _ => ?_)
    | simp only [↓memOk_mk]; refine MemMk.mk ?_ ?_ ?_ ?_ ?_ ?_
    | with_reducible first | refine memPuts_wf _ _ ?_ | refine memPut_wf _ _ ?_ | refine pagePuts_wf _ _ ?_ | refine pagePut_wf _ _ ?_ | refine pageTake_wf _ _ ?_ | refine memWf_filter _ ?_ | refine memMerge_wf _ ?_ | refine mirrorPage_wf _ _ _ ?_ | refine MemOk.mirrorAfter_wf ?_ _ _
    | with_reducible first | refine MemOk.shadow ?_ | refine MemOk.applied ?_ | refine MemOk.bulk ?_ | refine MemOk.mirror ?_ | refine MemOk.cells ?_ | refine MemOk.tagMem ?_
    | exact (rfl : memWf _ [] = true)
    | dsimp only [id]
    | split

theorem stopTick_memOk {s : State} (h₀ : MemOk s)  (t : Tick) (busy : BitVec 23) (i : Fin 23) : MemOk (stopTick t busy i s) := by
  unfold stopTick
  try dsimp only
  repeat' first
    | with_reducible assumption
    | with_reducible first | (show MemOk (countOverrun _ _); refine MemOk.of (countOverrun_changes (.refl _ _) _) ?_)
    | with_reducible first | refine stopWork_memOk ?_ _ _
    | with_reducible refine MemOk.ite (fun _ => ?_) (fun _ => ?_)
    | simp only [↓memOk_mk]; refine MemMk.mk ?_ ?_ ?_ ?_ ?_ ?_
    | with_reducible first | refine memPuts_wf _ _ ?_ | refine memPut_wf _ _ ?_ | refine pagePuts_wf _ _ ?_ | refine pagePut_wf _ _ ?_ | refine pageTake_wf _ _ ?_ | refine memWf_filter _ ?_ | refine memMerge_wf _ ?_ | refine mirrorPage_wf _ _ _ ?_ | refine MemOk.mirrorAfter_wf ?_ _ _
    | with_reducible first | refine MemOk.shadow ?_ | refine MemOk.applied ?_ | refine MemOk.bulk ?_ | refine MemOk.mirror ?_ | refine MemOk.cells ?_ | refine MemOk.tagMem ?_
    | exact (rfl : memWf _ [] = true)
    | dsimp only [id]
    | split

theorem deviceReset_memOk {s : State} (h₀ : MemOk s) : MemOk (deviceReset s) :=
  ⟨rfl, rfl, rfl, rfl, rfl, h₀.tagMem⟩

theorem tripReaction_memOk {s : State} (h₀ : MemOk s)  (id : Fin 13) : MemOk (tripReaction id s) := by
  unfold tripReaction
  try dsimp only
  repeat' first
    | with_reducible assumption
    | with_reducible first | (show MemOk (driveAll _); refine MemOk.of (driveAll_changes (.refl _ _)) ?_)
    | with_reducible first | refine fsEnter_memOk ?_ _ _
    | with_reducible first | (show MemOk (groupOff _ _); refine MemOk.of (groupOff_changes (.refl _ _) _) ?_)
    | with_reducible refine MemOk.ite (fun _ => ?_) (fun _ => ?_)
    | simp only [↓memOk_mk]; refine MemMk.mk ?_ ?_ ?_ ?_ ?_ ?_
    | with_reducible first | refine memPuts_wf _ _ ?_ | refine memPut_wf _ _ ?_ | refine pagePuts_wf _ _ ?_ | refine pagePut_wf _ _ ?_ | refine pageTake_wf _ _ ?_ | refine memWf_filter _ ?_ | refine memMerge_wf _ ?_ | refine mirrorPage_wf _ _ _ ?_ | refine MemOk.mirrorAfter_wf ?_ _ _
    | with_reducible first | refine MemOk.shadow ?_ | refine MemOk.applied ?_ | refine MemOk.bulk ?_ | refine MemOk.mirror ?_ | refine MemOk.cells ?_ | refine MemOk.tagMem ?_
    | exact (rfl : memWf _ [] = true)
    | dsimp only [id]
    | split

theorem takeTime_memOk {s : State} (h₀ : MemOk s)  (bc : Beacon) : MemOk (takeTime bc s) := by
  unfold takeTime
  try dsimp only
  repeat' first
    | with_reducible assumption
    | with_reducible first | (show MemOk (recordOffset _ _); refine MemOk.of (recordOffset_changes (.refl _ _) _) ?_)
    | with_reducible first | (show MemOk (setOffset _ _); refine MemOk.of (setOffset_changes (.refl _ _) _) ?_)
    | with_reducible first | refine setTime_memOk ?_ _ _
    | with_reducible first | (show MemOk (State.free _ _).2; refine MemOk.of (free_changes (.refl _ _) _) ?_)
    | with_reducible refine MemOk.ite (fun _ => ?_) (fun _ => ?_)
    | (with_reducible refine MemOk.ofPair (by assumption) ?_)
    | dsimp only [id]
    | split

theorem heardBeacon_memOk {s : State} (h₀ : MemOk s)  (src : Nat) (bc : Beacon) : MemOk (heardBeacon src bc s) := by
  unfold heardBeacon
  try dsimp only
  repeat' first
    | with_reducible assumption
    | with_reducible first | (show MemOk (askToJoin _); refine MemOk.of (askToJoin_changes (.refl _ _)) ?_)
    | with_reducible first | (show MemOk (dropSiteCeil _); refine MemOk.of (dropSiteCeil_changes (.refl _ _)) ?_)
    | with_reducible first | (show MemOk (followBeacon _ _ _); refine MemOk.of (followBeacon_changes (.refl _ _) _ _) ?_)
    | with_reducible first | (show MemOk (passTurn _); refine MemOk.of (passTurn_changes (.refl _ _)) ?_)
    | with_reducible first | (show MemOk (sendStatus _); refine MemOk.of (sendStatus_changes (.refl _ _)) ?_)
    | with_reducible first | (show MemOk (setRole _ _); refine MemOk.of (setRole_changes (.refl _ _) _) ?_)
    | with_reducible first | refine takeTime_memOk ?_ _
    | with_reducible first | (show MemOk (takeTurn _ _); refine MemOk.of (takeTurn_changes (.refl _ _) _) ?_)
    | with_reducible refine MemOk.ite (fun _ => ?_) (fun _ => ?_)
    | simp only [↓memOk_mk]; refine MemMk.mk ?_ ?_ ?_ ?_ ?_ ?_
    | with_reducible first | refine memPuts_wf _ _ ?_ | refine memPut_wf _ _ ?_ | refine pagePuts_wf _ _ ?_ | refine pagePut_wf _ _ ?_ | refine pageTake_wf _ _ ?_ | refine memWf_filter _ ?_ | refine memMerge_wf _ ?_ | refine mirrorPage_wf _ _ _ ?_ | refine MemOk.mirrorAfter_wf ?_ _ _
    | with_reducible first | refine MemOk.shadow ?_ | refine MemOk.applied ?_ | refine MemOk.bulk ?_ | refine MemOk.mirror ?_ | refine MemOk.cells ?_ | refine MemOk.tagMem ?_
    | exact (rfl : memWf _ [] = true)
    | dsimp only [id]
    | split

theorem foundBad_memOk {s : State} (h₀ : MemOk s)  (a action : Nat) : MemOk (foundBad a action s) := by
  unfold foundBad
  try dsimp only
  repeat' first
    | with_reducible assumption
    | with_reducible first | refine fatalError_memOk ?_ _ _ _ | refine restoreSlot_memOk ?_ _
    | with_reducible first | (show MemOk (uncorrectable _ _ _ _); refine MemOk.of (uncorrectable_changes (.refl _ _) _ _ _) ?_)
    | with_reducible refine MemOk.ite (fun _ => ?_) (fun _ => ?_)
    | dsimp only [id]
    | split

theorem scrubWord_memOk {s : State} (h₀ : MemOk s)  (a : Nat) : MemOk (scrubWord a s) := by
  unfold scrubWord
  try dsimp only
  repeat' first
    | with_reducible assumption
    | with_reducible first | (show MemOk (corrected _ _ _ _); refine MemOk.of (corrected_changes (.refl _ _) _ _ _) ?_)
    | with_reducible first | refine foundBad_memOk ?_ _ _
    | with_reducible first | (show MemOk (outcome _ _).2; refine MemOk.of (outcome_changes (.refl _ _) _) ?_)
    | with_reducible refine MemOk.ite (fun _ => ?_) (fun _ => ?_)
    | (with_reducible refine MemOk.ofPair (by assumption) ?_)
    | dsimp only [id]
    | split

theorem scrubAt_memOk {s : State} (h₀ : MemOk s)  (a : Nat) : MemOk (scrubAt a s) := by
  unfold scrubAt
  try dsimp only
  repeat' first
    | with_reducible assumption
    | with_reducible first | refine scrubWord_memOk ?_ _ | refine MemOk.foldl _ _ ?_ fun u x hu => ?_
    | with_reducible refine MemOk.ite (fun _ => ?_) (fun _ => ?_)
    | dsimp only [id]
    | split

theorem partFailed_memOk {s : State} (h₀ : MemOk s)  (p : Fin 14) : MemOk (partFailed p s) := by
  unfold partFailed
  try dsimp only
  repeat' first
    | with_reducible assumption
    | with_reducible first | (show MemOk (cnpOff _); refine MemOk.of (cnpOff_changes (.refl _ _)) ?_)
    | with_reducible first | refine fatalError_memOk ?_ _ _ _ | refine holdSession_memOk ?_ _ _
    | with_reducible first | (show MemOk (State.onSaf _ _ _); refine MemOk.of (onSaf_changes (.refl _ _) _ _) ?_)
    | with_reducible refine MemOk.ite (fun _ => ?_) (fun _ => ?_)
    | simp only [↓memOk_mk]; refine MemMk.mk ?_ ?_ ?_ ?_ ?_ ?_
    | with_reducible first | refine memPuts_wf _ _ ?_ | refine memPut_wf _ _ ?_ | refine pagePuts_wf _ _ ?_ | refine pagePut_wf _ _ ?_ | refine pageTake_wf _ _ ?_ | refine memWf_filter _ ?_ | refine memMerge_wf _ ?_ | refine mirrorPage_wf _ _ _ ?_ | refine MemOk.mirrorAfter_wf ?_ _ _
    | with_reducible first | refine MemOk.shadow ?_ | refine MemOk.applied ?_ | refine MemOk.bulk ?_ | refine MemOk.mirror ?_ | refine MemOk.cells ?_ | refine MemOk.tagMem ?_
    | exact (rfl : memWf _ [] = true)
    | dsimp only [id]
    | split

theorem endRun_memOk {s : State} (h₀ : MemOk s)  (p : Fin 14) (sig : BitVec 32) : MemOk (endRun p sig s) := by
  unfold endRun
  try dsimp only
  repeat' first
    | with_reducible assumption
    | with_reducible first | (show MemOk (emit _ _ _ _); refine MemOk.of (emit_changes (.refl _ _) _ _ _) ?_)
    | with_reducible first | refine partFailed_memOk ?_ _
    | with_reducible refine MemOk.ite (fun _ => ?_) (fun _ => ?_)
    | simp only [↓memOk_mk]; refine MemMk.mk ?_ ?_ ?_ ?_ ?_ ?_
    | with_reducible first | refine memPuts_wf _ _ ?_ | refine memPut_wf _ _ ?_ | refine pagePuts_wf _ _ ?_ | refine pagePut_wf _ _ ?_ | refine pageTake_wf _ _ ?_ | refine memWf_filter _ ?_ | refine memMerge_wf _ ?_ | refine mirrorPage_wf _ _ _ ?_ | refine MemOk.mirrorAfter_wf ?_ _ _
    | with_reducible first | refine MemOk.shadow ?_ | refine MemOk.applied ?_ | refine MemOk.bulk ?_ | refine MemOk.mirror ?_ | refine MemOk.cells ?_ | refine MemOk.tagMem ?_
    | exact (rfl : memWf _ [] = true)
    | dsimp only [id]
    | split

theorem marchAt_memOk {s : State} (h₀ : MemOk s)  (a : Nat) (hard : List (Nat × Nat)) : MemOk (marchAt a hard s) := by
  unfold marchAt
  try dsimp only
  repeat' first
    | with_reducible assumption
    | with_reducible first | refine foundBad_memOk ?_ _ _
    | with_reducible first | (show MemOk (outcome _ _).2; refine MemOk.of (outcome_changes (.refl _ _) _) ?_)
    | with_reducible first | (show MemOk (repairHard _ _ _ _); refine MemOk.of (repairHard_changes (.refl _ _) _ _ _) ?_)
    | with_reducible first | refine MemOk.foldl _ _ ?_ fun u x hu => ?_
    | with_reducible refine MemOk.ite (fun _ => ?_) (fun _ => ?_)
    | (with_reducible refine MemOk.ofPair (by assumption) ?_)
    | dsimp only [id]
    | split

theorem updateIdentity_memOk {s : State} (h₀ : MemOk s)  (afi cfg seq : Nat) (label : List Byte) : MemOk (updateIdentity afi cfg seq label s) := by
  unfold updateIdentity
  try dsimp only
  repeat' first
    | with_reducible assumption
    | with_reducible first | refine tagWritePage_memOk ?_ _ _
    | with_reducible refine MemOk.ite (fun _ => ?_) (fun _ => ?_)
    | dsimp only [id]
    | split

theorem refreshIdentity_memOk {s : State} (h₀ : MemOk s)   : MemOk (refreshIdentity s) := by
  unfold refreshIdentity
  try dsimp only
  repeat' first
    | with_reducible assumption
    | with_reducible first | refine updateIdentity_memOk ?_ _ _ _ _
    | with_reducible refine MemOk.ite (fun _ => ?_) (fun _ => ?_)
    | dsimp only [id]
    | split

theorem startIdentity_memOk {s : State} (h₀ : MemOk s)   : MemOk (startIdentity s) := by
  unfold startIdentity
  try dsimp only
  repeat' first
    | with_reducible assumption
    | with_reducible first | (show MemOk (notePageCrc _ _); refine MemOk.of (notePageCrc_changes (.refl _ _) _) ?_)
    | with_reducible first | refine refreshIdentity_memOk ?_ | refine updateIdentity_memOk ?_ _ _ _ _
    | with_reducible refine MemOk.ite (fun _ => ?_) (fun _ => ?_)
    | dsimp only [id]
    | split

theorem mirrorFrom_memOk {s : State} (h₀ : MemOk s)  (p : Nat) (bs : List Byte) : MemOk (mirrorFrom p bs s) := by
  unfold mirrorFrom
  try dsimp only
  repeat' first
    | with_reducible assumption
    | with_reducible refine MemOk.ite (fun _ => ?_) (fun _ => ?_)
    | simp only [↓memOk_mk]; refine MemMk.mk ?_ ?_ ?_ ?_ ?_ ?_
    | with_reducible first | refine memPuts_wf _ _ ?_ | refine memPut_wf _ _ ?_ | refine pagePuts_wf _ _ ?_ | refine pagePut_wf _ _ ?_ | refine pageTake_wf _ _ ?_ | refine memWf_filter _ ?_ | refine memMerge_wf _ ?_ | refine mirrorPage_wf _ _ _ ?_ | refine MemOk.mirrorAfter_wf ?_ _ _
    | with_reducible first | refine MemOk.shadow ?_ | refine MemOk.applied ?_ | refine MemOk.bulk ?_ | refine MemOk.mirror ?_ | refine MemOk.cells ?_ | refine MemOk.tagMem ?_
    | exact (rfl : memWf _ [] = true)
    | dsimp only [id]
    | split

theorem recoverPair_memOk {s : State} (h₀ : MemOk s)  (e : Nat × Nat × Nat) : MemOk (recoverPair e s) := by
  unfold recoverPair
  try dsimp only
  repeat' first
    | with_reducible assumption
    | with_reducible first | (show MemOk (emit _ _ _ _); refine MemOk.of (emit_changes (.refl _ _) _ _ _) ?_)
    | with_reducible first | refine mirrorFrom_memOk ?_ _ _ | refine whileVio_memOk ?_ _ (fun u hu => ?_)
    | with_reducible refine MemOk.ite (fun _ => ?_) (fun _ => ?_)
    | simp only [↓memOk_mk]; refine MemMk.mk ?_ ?_ ?_ ?_ ?_ ?_
    | with_reducible first | refine memPuts_wf _ _ ?_ | refine memPut_wf _ _ ?_ | refine pagePuts_wf _ _ ?_ | refine pagePut_wf _ _ ?_ | refine pageTake_wf _ _ ?_ | refine memWf_filter _ ?_ | refine memMerge_wf _ ?_ | refine mirrorPage_wf _ _ _ ?_ | refine MemOk.mirrorAfter_wf ?_ _ _
    | with_reducible first | refine MemOk.shadow ?_ | refine MemOk.applied ?_ | refine MemOk.bulk ?_ | refine MemOk.mirror ?_ | refine MemOk.cells ?_ | refine MemOk.tagMem ?_
    | exact (rfl : memWf _ [] = true)
    | dsimp only [id]
    | split

theorem abandonPage_memOk {s : State} (h₀ : MemOk s)  (p : Nat) : MemOk (abandonPage p s) := by
  unfold abandonPage
  try dsimp only
  repeat' first
    | with_reducible assumption
    | with_reducible first | refine mirrorFrom_memOk ?_ _ _
    | with_reducible first | (show MemOk (State.free _ _).2; refine MemOk.of (free_changes (.refl _ _) _) ?_)
    | with_reducible refine MemOk.ite (fun _ => ?_) (fun _ => ?_)
    | simp only [↓memOk_mk]; refine MemMk.mk ?_ ?_ ?_ ?_ ?_ ?_
    | with_reducible first | refine memPuts_wf _ _ ?_ | refine memPut_wf _ _ ?_ | refine pagePuts_wf _ _ ?_ | refine pagePut_wf _ _ ?_ | refine pageTake_wf _ _ ?_ | refine memWf_filter _ ?_ | refine memMerge_wf _ ?_ | refine mirrorPage_wf _ _ _ ?_ | refine MemOk.mirrorAfter_wf ?_ _ _
    | with_reducible first | refine MemOk.shadow ?_ | refine MemOk.applied ?_ | refine MemOk.bulk ?_ | refine MemOk.mirror ?_ | refine MemOk.cells ?_ | refine MemOk.tagMem ?_
    | exact (rfl : memWf _ [] = true)
    | (with_reducible refine MemOk.ofPair (by assumption) ?_)
    | dsimp only [id]
    | split

theorem cutWrite_memOk {s : State} (h₀ : MemOk s)  (p : Nat) (bs : List Byte) (step : Nat) : MemOk (cutWrite p bs step s) := by
  unfold cutWrite
  try dsimp only
  repeat' first
    | with_reducible assumption
    | with_reducible first | (show MemOk (State.free _ _).2; refine MemOk.of (free_changes (.refl _ _) _) ?_)
    | with_reducible refine MemOk.ite (fun _ => ?_) (fun _ => ?_)
    | simp only [↓memOk_mk]; refine MemMk.mk ?_ ?_ ?_ ?_ ?_ ?_
    | with_reducible first | refine memPuts_wf _ _ ?_ | refine memPut_wf _ _ ?_ | refine pagePuts_wf _ _ ?_ | refine pagePut_wf _ _ ?_ | refine pageTake_wf _ _ ?_ | refine memWf_filter _ ?_ | refine memMerge_wf _ ?_ | refine mirrorPage_wf _ _ _ ?_ | refine MemOk.mirrorAfter_wf ?_ _ _
    | with_reducible first | refine MemOk.shadow ?_ | refine MemOk.applied ?_ | refine MemOk.bulk ?_ | refine MemOk.mirror ?_ | refine MemOk.cells ?_ | refine MemOk.tagMem ?_
    | exact (rfl : memWf _ [] = true)
    | (with_reducible refine MemOk.ofPair (by assumption) ?_)
    | dsimp only [id]
    | split

theorem writeField_memOk {s : State} (h₀ : MemOk s)  (page off : Nat) (data : List Byte) : MemOk (writeField page off data s) := by
  unfold writeField
  try dsimp only
  repeat' first
    | with_reducible assumption
    | with_reducible first | (show MemOk (emit _ _ _ _); refine MemOk.of (emit_changes (.refl _ _) _ _ _) ?_)
    | with_reducible first | (show MemOk (fieldAnswer _ _ _); refine MemOk.of (fieldAnswer_changes (.refl _ _) _ _) ?_)
    | with_reducible first | refine tagCommit_memOk ?_ _ _ | refine whileVio_memOk ?_ _ (fun u hu => ?_)
    | with_reducible refine MemOk.ite (fun _ => ?_) (fun _ => ?_)
    | dsimp only [id]
    | split

theorem flushPage_memOk {s : State} (h₀ : MemOk s)  (p : Nat) : MemOk (flushPage p s) := by
  unfold flushPage
  try dsimp only
  repeat' first
    | with_reducible assumption
    | with_reducible first | refine tagCommit_memOk ?_ _ _
    | with_reducible refine MemOk.ite (fun _ => ?_) (fun _ => ?_)
    | simp only [↓memOk_mk]; refine MemMk.mk ?_ ?_ ?_ ?_ ?_ ?_
    | with_reducible first | refine memPuts_wf _ _ ?_ | refine memPut_wf _ _ ?_ | refine pagePuts_wf _ _ ?_ | refine pagePut_wf _ _ ?_ | refine pageTake_wf _ _ ?_ | refine memWf_filter _ ?_ | refine memMerge_wf _ ?_ | refine mirrorPage_wf _ _ _ ?_ | refine MemOk.mirrorAfter_wf ?_ _ _
    | with_reducible first | refine MemOk.shadow ?_ | refine MemOk.applied ?_ | refine MemOk.bulk ?_ | refine MemOk.mirror ?_ | refine MemOk.cells ?_ | refine MemOk.tagMem ?_
    | exact (rfl : memWf _ [] = true)
    | dsimp only [id]
    | split

theorem flushBelow_memOk {s : State} (h₀ : MemOk s)  (p : Nat) : MemOk (flushBelow p s) := by
  unfold flushBelow
  try dsimp only
  repeat' first
    | with_reducible assumption
    | with_reducible first | refine flushPage_memOk ?_ _ | refine MemOk.foldl _ _ ?_ fun u x hu => ?_
    | with_reducible refine MemOk.ite (fun _ => ?_) (fun _ => ?_)
    | dsimp only [id]
    | split

theorem meterSnapshot_memOk {s : State} (h₀ : MemOk s)   : MemOk (meterSnapshot s) := by
  unfold meterSnapshot
  try dsimp only
  repeat' first
    | with_reducible assumption
    | with_reducible first | refine tagWritePage_memOk ?_ _ _ | refine MemOk.forBoughs _ ?_ fun b u hu => ?_
    | with_reducible refine MemOk.ite (fun _ => ?_) (fun _ => ?_)
    | simp only [↓memOk_mk]; refine MemMk.mk ?_ ?_ ?_ ?_ ?_ ?_
    | with_reducible first | refine memPuts_wf _ _ ?_ | refine memPut_wf _ _ ?_ | refine pagePuts_wf _ _ ?_ | refine pagePut_wf _ _ ?_ | refine pageTake_wf _ _ ?_ | refine memWf_filter _ ?_ | refine memMerge_wf _ ?_ | refine mirrorPage_wf _ _ _ ?_ | refine MemOk.mirrorAfter_wf ?_ _ _
    | with_reducible first | refine MemOk.shadow ?_ | refine MemOk.applied ?_ | refine MemOk.bulk ?_ | refine MemOk.mirror ?_ | refine MemOk.cells ?_ | refine MemOk.tagMem ?_
    | exact (rfl : memWf _ [] = true)
    | dsimp only [id]
    | split

theorem summarise_memOk {s : State} (h₀ : MemOk s)   : MemOk (summarise s) := by
  unfold summarise
  try dsimp only
  repeat' first
    | with_reducible assumption
    | with_reducible first | refine tagWritePage_memOk ?_ _ _ | refine MemOk.foldl _ _ ?_ fun u x hu => ?_
    | with_reducible refine MemOk.ite (fun _ => ?_) (fun _ => ?_)
    | dsimp only [id]
    | split

theorem finishDump_memOk {s : State} (h₀ : MemOk s)   : MemOk (finishDump s) := by
  unfold finishDump
  try dsimp only
  repeat' first
    | with_reducible assumption
    | with_reducible first | (show MemOk (flushQueue _); refine MemOk.of (flushQueue_changes (.refl _ _)) ?_)
    | with_reducible first | (show MemOk (snapshotHists _); refine MemOk.of (snapshotHists_changes (.refl _ _)) ?_)
    | with_reducible first | refine tagWritePage_memOk ?_ _ _
    | with_reducible first | (show MemOk (writeDump _ _ _); refine MemOk.of (writeDump_changes (.refl _ _) _ _) ?_)
    | with_reducible first | (show MemOk (State.free _ _).2; refine MemOk.of (free_changes (.refl _ _) _) ?_)
    | with_reducible refine MemOk.ite (fun _ => ?_) (fun _ => ?_)
    | simp only [↓memOk_mk]; refine MemMk.mk ?_ ?_ ?_ ?_ ?_ ?_
    | with_reducible first | refine memPuts_wf _ _ ?_ | refine memPut_wf _ _ ?_ | refine pagePuts_wf _ _ ?_ | refine pagePut_wf _ _ ?_ | refine pageTake_wf _ _ ?_ | refine memWf_filter _ ?_ | refine memMerge_wf _ ?_ | refine mirrorPage_wf _ _ _ ?_ | refine MemOk.mirrorAfter_wf ?_ _ _
    | with_reducible first | refine MemOk.shadow ?_ | refine MemOk.applied ?_ | refine MemOk.bulk ?_ | refine MemOk.mirror ?_ | refine MemOk.cells ?_ | refine MemOk.tagMem ?_
    | exact (rfl : memWf _ [] = true)
    | (with_reducible refine MemOk.ofPair (by assumption) ?_)
    | dsimp only [id]
    | split

theorem enterHold_memOk {s : State} (h₀ : MemOk s)   : MemOk (enterHold s) := by
  unfold enterHold
  try dsimp only
  repeat' first
    | with_reducible assumption
    | with_reducible first | (show MemOk (emit _ _ _ _); refine MemOk.of (emit_changes (.refl _ _) _ _ _) ?_)
    | with_reducible first | refine holdSession_memOk ?_ _ _
    | with_reducible first | (show MemOk (openNow _ _ _); refine MemOk.of (openNow_changes (.refl _ _) _ _) ?_)
    | with_reducible first | refine MemOk.forBoughs _ ?_ fun b u hu => ?_
    | with_reducible refine MemOk.ite (fun _ => ?_) (fun _ => ?_)
    | simp only [↓memOk_mk]; refine MemMk.mk ?_ ?_ ?_ ?_ ?_ ?_
    | with_reducible first | refine memPuts_wf _ _ ?_ | refine memPut_wf _ _ ?_ | refine pagePuts_wf _ _ ?_ | refine pagePut_wf _ _ ?_ | refine pageTake_wf _ _ ?_ | refine memWf_filter _ ?_ | refine memMerge_wf _ ?_ | refine mirrorPage_wf _ _ _ ?_ | refine MemOk.mirrorAfter_wf ?_ _ _
    | with_reducible first | refine MemOk.shadow ?_ | refine MemOk.applied ?_ | refine MemOk.bulk ?_ | refine MemOk.mirror ?_ | refine MemOk.cells ?_ | refine MemOk.tagMem ?_
    | exact (rfl : memWf _ [] = true)
    | dsimp only [id]
    | split

theorem orderedReset_memOk {s : State} (h₀ : MemOk s)   : MemOk (orderedReset s) := by
  unfold orderedReset
  try dsimp only
  repeat' first
    | with_reducible assumption
    | with_reducible first | refine deviceReset_memOk ?_
    | with_reducible first | (show MemOk (flushQueue _); refine MemOk.of (flushQueue_changes (.refl _ _)) ?_)
    | with_reducible refine MemOk.ite (fun _ => ?_) (fun _ => ?_)
    | dsimp only [id]
    | split

theorem afterDevice_memOk {s : State} (h₀ : MemOk s) (old : State) (sub : Nat) : MemOk (afterDevice sub old s) := by
  unfold afterDevice
  try dsimp only
  repeat' first
    | with_reducible assumption
    | with_reducible first | (show MemOk (auxAll _); refine MemOk.of (auxAll_changes (.refl _ _)) ?_)
    | with_reducible first | (show MemOk (cnpListen _ _); refine MemOk.of (cnpListen_changes (.refl _ _) _) ?_)
    | with_reducible first | (show MemOk (cnpOff _); refine MemOk.of (cnpOff_changes (.refl _ _)) ?_)
    | with_reducible first | (show MemOk (endWindow _); refine MemOk.of (endWindow_changes (.refl _ _)) ?_)
    | with_reducible first | (show MemOk (orderStop _ _); refine MemOk.of (orderStop_changes (.refl _ _) _) ?_)
    | with_reducible first | refine refreshIdentity_memOk ?_
    | with_reducible first | (show MemOk (startDisplay _); refine MemOk.of (startDisplay_changes (.refl _ _)) ?_)
    | with_reducible first | (show MemOk (writeSave _ _); refine MemOk.of (writeSave_changes (.refl _ _) _) ?_)
    | with_reducible first | (show MemOk (State.onAux _ _ _); refine MemOk.of (onAux_changes (.refl _ _) _ _) ?_)
    | with_reducible first | refine MemOk.foldl _ _ ?_ fun u x hu => ?_
    | with_reducible refine MemOk.ite (fun _ => ?_) (fun _ => ?_)
    | simp only [↓memOk_mk]; refine MemMk.mk ?_ ?_ ?_ ?_ ?_ ?_
    | with_reducible first | refine memPuts_wf _ _ ?_ | refine memPut_wf _ _ ?_ | refine pagePuts_wf _ _ ?_ | refine pagePut_wf _ _ ?_ | refine pageTake_wf _ _ ?_ | refine memWf_filter _ ?_ | refine memMerge_wf _ ?_ | refine mirrorPage_wf _ _ _ ?_ | refine MemOk.mirrorAfter_wf ?_ _ _
    | with_reducible first | refine MemOk.shadow ?_ | refine MemOk.applied ?_ | refine MemOk.bulk ?_ | refine MemOk.mirror ?_ | refine MemOk.cells ?_ | refine MemOk.tagMem ?_
    | exact (rfl : memWf _ [] = true)
    | dsimp only [id]
    | split

theorem applyDevice_memOk {s : State} (h₀ : MemOk s)  (sub : Nat) : MemOk (applyDevice sub s) := by
  unfold applyDevice
  try dsimp only
  repeat' first
    | with_reducible assumption
    | with_reducible first | refine afterDevice_memOk ?_ _ _ | refine applySnap_memOk ?_ _ _
    | with_reducible first | (show MemOk (completeIfDone _ _); refine MemOk.of (completeIfDone_changes (.refl _ _) _) ?_)
    | with_reducible refine MemOk.ite (fun _ => ?_) (fun _ => ?_)
    | simp only [↓memOk_mk]; refine MemMk.mk ?_ ?_ ?_ ?_ ?_ ?_
    | with_reducible first | refine memPuts_wf _ _ ?_ | refine memPut_wf _ _ ?_ | refine pagePuts_wf _ _ ?_ | refine pagePut_wf _ _ ?_ | refine pageTake_wf _ _ ?_ | refine memWf_filter _ ?_ | refine memMerge_wf _ ?_ | refine mirrorPage_wf _ _ _ ?_ | refine MemOk.mirrorAfter_wf ?_ _ _
    | with_reducible first | refine MemOk.shadow ?_ | refine MemOk.applied ?_ | refine MemOk.bulk ?_ | refine MemOk.mirror ?_ | refine MemOk.cells ?_ | refine MemOk.tagMem ?_
    | exact (rfl : memWf _ [] = true)
    | dsimp only [id]
    | split

theorem takeTrims_memOk {s : State} (h₀ : MemOk s)  (b : Bough) : MemOk (takeTrims b s).2 := by
  unfold takeTrims
  try dsimp only
  repeat' first
    | with_reducible assumption
    | with_reducible first | refine applySnap_memOk ?_ _ _ | refine MemOk.foldl _ _ ?_ fun u x hu => ?_
    | with_reducible refine MemOk.ite (fun _ => ?_) (fun _ => ?_)
    | simp only [↓memOk_mk]; refine MemMk.mk ?_ ?_ ?_ ?_ ?_ ?_
    | with_reducible first | refine memPuts_wf _ _ ?_ | refine memPut_wf _ _ ?_ | refine pagePuts_wf _ _ ?_ | refine pagePut_wf _ _ ?_ | refine pageTake_wf _ _ ?_ | refine memWf_filter _ ?_ | refine memMerge_wf _ ?_ | refine mirrorPage_wf _ _ _ ?_ | refine MemOk.mirrorAfter_wf ?_ _ _
    | with_reducible first | refine MemOk.shadow ?_ | refine MemOk.applied ?_ | refine MemOk.bulk ?_ | refine MemOk.mirror ?_ | refine MemOk.cells ?_ | refine MemOk.tagMem ?_
    | exact (rfl : memWf _ [] = true)
    | dsimp only [id]
    | split

theorem applyTrims_memOk {s : State} (h₀ : MemOk s)  (b : Bough) : MemOk (applyTrims b s).2 := by
  unfold applyTrims
  try dsimp only
  repeat' first
    | with_reducible assumption
    | with_reducible first | (show MemOk (emit _ _ _ _); refine MemOk.of (emit_changes (.refl _ _) _ _ _) ?_)
    | with_reducible first | (show MemOk (lrChange _ _ _ _ _); refine MemOk.of (lrChange_changes (.refl _ _) _ _ _ _) ?_)
    | with_reducible first | (show MemOk (newPga _ _ _); refine MemOk.of (newPga_changes (.refl _ _) _ _) ?_)
    | with_reducible first | refine takeTrims_memOk ?_ _
    | with_reducible first | (show MemOk (writeSave _ _); refine MemOk.of (writeSave_changes (.refl _ _) _) ?_)
    | with_reducible first | refine MemOk.foldl _ _ ?_ fun u x hu => ?_
    | with_reducible refine MemOk.ite (fun _ => ?_) (fun _ => ?_)
    | (with_reducible refine MemOk.ofPair (by assumption) ?_)
    | dsimp only [id]
    | split

theorem applyLegalEnergy_memOk {s : State} (h₀ : MemOk s)  (b : Bough) : MemOk (applyLegalEnergy b s) := by
  unfold applyLegalEnergy
  try dsimp only
  repeat' first
    | with_reducible assumption
    | with_reducible first | refine applySnap_memOk ?_ _ _
    | with_reducible first | (show MemOk (emit _ _ _ _); refine MemOk.of (emit_changes (.refl _ _) _ _ _) ?_)
    | with_reducible first | (show MemOk (gridLost _ _ _); refine MemOk.of (gridLost_changes (.refl _ _) _ _) ?_)
    | with_reducible first | (show MemOk (lrChange _ _ _ _ _); refine MemOk.of (lrChange_changes (.refl _ _) _ _ _ _) ?_)
    | with_reducible first | (show MemOk (writeSave _ _); refine MemOk.of (writeSave_changes (.refl _ _) _) ?_)
    | with_reducible refine MemOk.ite (fun _ => ?_) (fun _ => ?_)
    | dsimp only [id]
    | split

theorem applyBough_memOk {s : State} (h₀ : MemOk s)  (sub : Nat) (b : Bough) : MemOk (applyBough sub b s) := by
  unfold applyBough
  try dsimp only
  repeat' first
    | with_reducible assumption
    | with_reducible first | refine applyLegalEnergy_memOk ?_ _ | refine applySnap_memOk ?_ _ _
    | with_reducible first | refine applyTrims_memOk ?_ _
    | with_reducible first | (show MemOk (completeIfDone _ _); refine MemOk.of (completeIfDone_changes (.refl _ _) _) ?_)
    | with_reducible first | (show MemOk (setLeft _ _ _); refine MemOk.of (setLeft_changes (.refl _ _) _ _) ?_)
    | with_reducible first | (show MemOk (takeBridges _); refine MemOk.of (takeBridges_changes (.refl _ _)) ?_)
    | with_reducible first | (show MemOk (takeRating _ _ _); refine MemOk.of (takeRating_changes (.refl _ _) _ _) ?_)
    | with_reducible first | refine withRequest_memOk ?_ _ _ (fun u hu => ?_)
    | with_reducible refine MemOk.ite (fun _ => ?_) (fun _ => ?_)
    | simp only [↓memOk_mk]; refine MemMk.mk ?_ ?_ ?_ ?_ ?_ ?_
    | with_reducible first | refine memPuts_wf _ _ ?_ | refine memPut_wf _ _ ?_ | refine pagePuts_wf _ _ ?_ | refine pagePut_wf _ _ ?_ | refine pageTake_wf _ _ ?_ | refine memWf_filter _ ?_ | refine memMerge_wf _ ?_ | refine mirrorPage_wf _ _ _ ?_ | refine MemOk.mirrorAfter_wf ?_ _ _
    | with_reducible first | refine MemOk.shadow ?_ | refine MemOk.applied ?_ | refine MemOk.bulk ?_ | refine MemOk.mirror ?_ | refine MemOk.cells ?_ | refine MemOk.tagMem ?_
    | exact (rfl : memWf _ [] = true)
    | (with_reducible refine MemOk.ofPair (by assumption) ?_)
    | dsimp only [id]
    | split

theorem loadPage_memOk {l : Loading} (h₀ : MemOk l.1) (t : Nat) (body : List Byte) : MemOk (loadPage t body l).1 := by
  obtain ⟨s, written⟩ := l
  unfold loadPage
  dsimp only
  split
  · exact .of (ignoreRecord_changes (.refl _ _) _ _) h₀
  · split
    · exact .of (ignoreRecord_changes (.refl _ _) _ _) h₀
    · split
      · exact .of (ignoreRecord_changes (.refl _ _) _ _) h₀
      · refine .of (overwrites_changes (countLoaded_changes (.refl _ _)) _ _ _) ?_
        simp only [↓memOk_mk]
        exact ⟨pagePuts_wf _ _ h₀.1, h₀.2.1, h₀.2.2.1, h₀.2.2.2.1, h₀.2.2.2.2.1, h₀.2.2.2.2.2⟩

theorem loadTable_memOk {s : State} (h₀ : MemOk s)  (active : Option Nat) (t : Nat) (body : List Byte) : MemOk (loadTable active t body s) := by
  unfold loadTable
  try dsimp only
  repeat' first
    | with_reducible assumption
    | with_reducible first | (show MemOk (countLoaded _); refine MemOk.of (countLoaded_changes (.refl _ _)) ?_)
    | with_reducible first | (show MemOk (emit _ _ _ _); refine MemOk.of (emit_changes (.refl _ _) _ _ _) ?_)
    | with_reducible first | (show MemOk (ignoreRecord _ _ _); refine MemOk.of (ignoreRecord_changes (.refl _ _) _ _) ?_)
    | with_reducible refine MemOk.ite (fun _ => ?_) (fun _ => ?_)
    | simp only [↓memOk_mk]; refine MemMk.mk ?_ ?_ ?_ ?_ ?_ ?_
    | with_reducible first | refine memPuts_wf _ _ ?_ | refine memPut_wf _ _ ?_ | refine pagePuts_wf _ _ ?_ | refine pagePut_wf _ _ ?_ | refine pageTake_wf _ _ ?_ | refine memWf_filter _ ?_ | refine memMerge_wf _ ?_ | refine mirrorPage_wf _ _ _ ?_ | refine MemOk.mirrorAfter_wf ?_ _ _
    | with_reducible first | refine MemOk.shadow ?_ | refine MemOk.applied ?_ | refine MemOk.bulk ?_ | refine MemOk.mirror ?_ | refine MemOk.cells ?_ | refine MemOk.tagMem ?_
    | exact (rfl : memWf _ [] = true)
    | dsimp only [id]
    | split

theorem imageRecord_memOk {l : Loading} (h₀ : MemOk l.1) (active : Option Nat) (r : ImgRec) : MemOk (imageRecord active l r).1 := by
  unfold imageRecord
  dsimp only
  split
  · exact h₀
  · split
    · refine MemOk.foldl _ _ ?_ fun u x hu => .of (holdAtStart_changes (.refl _ _) _) hu
      refine .of (emit_changes (.refl _ _) _ _ _) ?_
      simp only [↓memOk_mk]
      exact ⟨h₀.1, h₀.2.1, h₀.2.2.1, h₀.2.2.2.1, h₀.2.2.2.2.1, h₀.2.2.2.2.2⟩
    · split
      · exact loadPage_memOk h₀ _ _
      · split
        · exact loadTable_memOk h₀ _ _ _
        · exact .of (ignoreRecord_changes (.refl _ _) _ _) h₀

theorem completeInverse_memOk {s : State} (h₀ : MemOk s)  (written : List (Nat × Nat)) : MemOk (completeInverse written s) := by
  unfold completeInverse
  try dsimp only
  repeat' first
    | with_reducible assumption
    | with_reducible first | refine MemOk.foldl _ _ ?_ fun u x hu => ?_
    | with_reducible refine MemOk.ite (fun _ => ?_) (fun _ => ?_)
    | simp only [↓memOk_mk]; refine MemMk.mk ?_ ?_ ?_ ?_ ?_ ?_
    | with_reducible first | refine memPuts_wf _ _ ?_ | refine memPut_wf _ _ ?_ | refine pagePuts_wf _ _ ?_ | refine pagePut_wf _ _ ?_ | refine pageTake_wf _ _ ?_ | refine memWf_filter _ ?_ | refine memMerge_wf _ ?_ | refine mirrorPage_wf _ _ _ ?_ | refine MemOk.mirrorAfter_wf ?_ _ _
    | with_reducible first | refine MemOk.shadow ?_ | refine MemOk.applied ?_ | refine MemOk.bulk ?_ | refine MemOk.mirror ?_ | refine MemOk.cells ?_ | refine MemOk.tagMem ?_
    | exact (rfl : memWf _ [] = true)
    | dsimp only [id]
    | split

theorem checkSafetyReg_memOk {s : State} (h₀ : MemOk s)  (written : List (Nat × Nat)) (a : Nat) : MemOk (checkSafetyReg written a s) := by
  unfold checkSafetyReg
  try dsimp only
  repeat' first
    | with_reducible assumption
    | with_reducible first | (show MemOk (emit _ _ _ _); refine MemOk.of (emit_changes (.refl _ _) _ _ _) ?_)
    | with_reducible first | (show MemOk (holdAtStart _ _); refine MemOk.of (holdAtStart_changes (.refl _ _) _) ?_)
    | with_reducible first | refine MemOk.forBoughs _ ?_ fun b u hu => ?_ | refine MemOk.foldl _ _ ?_ fun u x hu => ?_
    | with_reducible refine MemOk.ite (fun _ => ?_) (fun _ => ?_)
    | simp only [↓memOk_mk]; refine MemMk.mk ?_ ?_ ?_ ?_ ?_ ?_
    | with_reducible first | refine memPuts_wf _ _ ?_ | refine memPut_wf _ _ ?_ | refine pagePuts_wf _ _ ?_ | refine pagePut_wf _ _ ?_ | refine pageTake_wf _ _ ?_ | refine memWf_filter _ ?_ | refine memMerge_wf _ ?_ | refine mirrorPage_wf _ _ _ ?_ | refine MemOk.mirrorAfter_wf ?_ _ _
    | with_reducible first | refine MemOk.shadow ?_ | refine MemOk.applied ?_ | refine MemOk.bulk ?_ | refine MemOk.mirror ?_ | refine MemOk.cells ?_ | refine MemOk.tagMem ?_
    | exact (rfl : memWf _ [] = true)
    | dsimp only [id]
    | split

theorem settingsInForce_memOk {s : State} (h₀ : MemOk s)   : MemOk (settingsInForce s) := by
  unfold settingsInForce
  try dsimp only
  repeat' first
    | with_reducible assumption
    | with_reducible first | (show MemOk (auxAll _); refine MemOk.of (auxAll_changes (.refl _ _)) ?_)
    | with_reducible first | (show MemOk (driveAll _); refine MemOk.of (driveAll_changes (.refl _ _)) ?_)
    | with_reducible first | refine refreshIdentity_memOk ?_
    | with_reducible first | (show MemOk (takeBridges _); refine MemOk.of (takeBridges_changes (.refl _ _)) ?_)
    | with_reducible first | (show MemOk (State.onMtr _ _ _); refine MemOk.of (onMtr_changes (.refl _ _) _ _) ?_)
    | with_reducible first | (show MemOk (State.onNrg _ _ _); refine MemOk.of (onNrg_changes (.refl _ _) _ _) ?_)
    | with_reducible first | refine MemOk.forBoughs _ ?_ fun b u hu => ?_
    | with_reducible refine MemOk.ite (fun _ => ?_) (fun _ => ?_)
    | simp only [↓memOk_mk]; refine MemMk.mk ?_ ?_ ?_ ?_ ?_ ?_
    | with_reducible first | refine memPuts_wf _ _ ?_ | refine memPut_wf _ _ ?_ | refine pagePuts_wf _ _ ?_ | refine pagePut_wf _ _ ?_ | refine pageTake_wf _ _ ?_ | refine memWf_filter _ ?_ | refine memMerge_wf _ ?_ | refine mirrorPage_wf _ _ _ ?_ | refine MemOk.mirrorAfter_wf ?_ _ _
    | with_reducible first | refine MemOk.shadow ?_ | refine MemOk.applied ?_ | refine MemOk.bulk ?_ | refine MemOk.mirror ?_ | refine MemOk.cells ?_ | refine MemOk.tagMem ?_
    | exact (rfl : memWf _ [] = true)
    | dsimp only [id]
    | split

theorem loadRecords_memOk {s : State} (h₀ : MemOk s)  (rs : List ImgRec) : MemOk (loadRecords rs s) := by
  unfold loadRecords
  try dsimp only
  repeat' first
    | with_reducible assumption
    | with_reducible first | refine checkSafetyReg_memOk ?_ _ _ | refine completeInverse_memOk ?_ _
    | with_reducible first | (show MemOk (imageConflicts _ _); refine MemOk.of (imageConflicts_changes (.refl _ _) _) ?_)
    | with_reducible first | refine imageRecord_memOk ?_ _ _
    | with_reducible first | (show MemOk (requireRecords _ _); refine MemOk.of (requireRecords_changes (.refl _ _) _) ?_)
    | with_reducible first | refine settingsInForce_memOk ?_
    | with_reducible first | (show MemOk (takeBudgets _); refine MemOk.of (takeBudgets_changes (.refl _ _)) ?_)
    | with_reducible first | (show MemOk (takeFailsafe _); refine MemOk.of (takeFailsafe_changes (.refl _ _)) ?_)
    | with_reducible first | (show MemOk (takeGlyphs _); refine MemOk.of (takeGlyphs_changes (.refl _ _)) ?_)
    | with_reducible first | (show MemOk (takeMac _); refine MemOk.of (takeMac_changes (.refl _ _)) ?_)
    | with_reducible first | (show MemOk (takeMembership _); refine MemOk.of (takeMembership_changes (.refl _ _)) ?_)
    | with_reducible first | refine MemOk.foldlFst _ _ ?_ fun u x hu => ?_
    | with_reducible first | refine MemOk.foldl _ _ ?_ fun u x hu => ?_
    | with_reducible refine MemOk.ite (fun _ => ?_) (fun _ => ?_)
    | simp only [↓memOk_mk]; refine MemMk.mk ?_ ?_ ?_ ?_ ?_ ?_
    | with_reducible first | refine memPuts_wf _ _ ?_ | refine memPut_wf _ _ ?_ | refine pagePuts_wf _ _ ?_ | refine pagePut_wf _ _ ?_ | refine pageTake_wf _ _ ?_ | refine memWf_filter _ ?_ | refine memMerge_wf _ ?_ | refine mirrorPage_wf _ _ _ ?_ | refine MemOk.mirrorAfter_wf ?_ _ _
    | with_reducible first | refine MemOk.shadow ?_ | refine MemOk.applied ?_ | refine MemOk.bulk ?_ | refine MemOk.mirror ?_ | refine MemOk.cells ?_ | refine MemOk.tagMem ?_
    | exact (rfl : memWf _ [] = true)
    | dsimp only [id]
    | split

theorem stopSummary_memOk {s : State} (h₀ : MemOk s)   : MemOk (stopSummary s) := by
  unfold stopSummary
  try dsimp only
  repeat' first
    | with_reducible assumption
    | with_reducible first | refine tagWritePage_memOk ?_ _ _
    | with_reducible refine MemOk.ite (fun _ => ?_) (fun _ => ?_)
    | dsimp only [id]
    | split

theorem stopStart_memOk {s : State} (h₀ : MemOk s)  (p reason : Nat) : MemOk (stopStart p reason s) := by
  unfold stopStart
  try dsimp only
  repeat' first
    | with_reducible assumption
    | with_reducible first | (show MemOk (emit _ _ _ _); refine MemOk.of (emit_changes (.refl _ _) _ _ _) ?_)
    | with_reducible first | (show MemOk (raiseIrq _ _); refine MemOk.of (raiseIrq_changes (.refl _ _) _) ?_)
    | with_reducible first | refine stopSummary_memOk ?_
    | with_reducible refine MemOk.ite (fun _ => ?_) (fun _ => ?_)
    | simp only [↓memOk_mk]; refine MemMk.mk ?_ ?_ ?_ ?_ ?_ ?_
    | with_reducible first | refine memPuts_wf _ _ ?_ | refine memPut_wf _ _ ?_ | refine pagePuts_wf _ _ ?_ | refine pagePut_wf _ _ ?_ | refine pageTake_wf _ _ ?_ | refine memWf_filter _ ?_ | refine memMerge_wf _ ?_ | refine mirrorPage_wf _ _ _ ?_ | refine MemOk.mirrorAfter_wf ?_ _ _
    | with_reducible first | refine MemOk.shadow ?_ | refine MemOk.applied ?_ | refine MemOk.bulk ?_ | refine MemOk.mirror ?_ | refine MemOk.cells ?_ | refine MemOk.tagMem ?_
    | exact (rfl : memWf _ [] = true)
    | dsimp only [id]
    | split

theorem patternTest_memOk {s : State} (h₀ : MemOk s)  (t : PatternTest) : MemOk (patternTest t s) := by
  unfold patternTest
  try dsimp only
  repeat' first
    | with_reducible assumption
    | with_reducible first | (show MemOk (emit _ _ _ _); refine MemOk.of (emit_changes (.refl _ _) _ _ _) ?_)
    | with_reducible first | (show MemOk (repairHard _ _ _ _); refine MemOk.of (repairHard_changes (.refl _ _) _ _ _) ?_)
    | with_reducible first | refine MemOk.foldl _ _ ?_ fun u x hu => ?_
    | with_reducible refine MemOk.ite (fun _ => ?_) (fun _ => ?_)
    | simp only [↓memOk_mk]; refine MemMk.mk ?_ ?_ ?_ ?_ ?_ ?_
    | with_reducible first | refine memPuts_wf _ _ ?_ | refine memPut_wf _ _ ?_ | refine pagePuts_wf _ _ ?_ | refine pagePut_wf _ _ ?_ | refine pageTake_wf _ _ ?_ | refine memWf_filter _ ?_ | refine memMerge_wf _ ?_ | refine mirrorPage_wf _ _ _ ?_ | refine MemOk.mirrorAfter_wf ?_ _ _
    | with_reducible first | refine MemOk.shadow ?_ | refine MemOk.applied ?_ | refine MemOk.bulk ?_ | refine MemOk.mirror ?_ | refine MemOk.cells ?_ | refine MemOk.tagMem ?_
    | exact (rfl : memWf _ [] = true)
    | dsimp only [id]
    | split

theorem useSlot_memOk {s : State} (h₀ : MemOk s)  (n : Nat) : MemOk (useSlot n s) := by
  unfold useSlot
  try dsimp only
  repeat' first
    | with_reducible assumption
    | with_reducible first | refine loadRecords_memOk ?_ _
    | with_reducible refine MemOk.ite (fun _ => ?_) (fun _ => ?_)
    | simp only [↓memOk_mk]; refine MemMk.mk ?_ ?_ ?_ ?_ ?_ ?_
    | with_reducible first | refine memPuts_wf _ _ ?_ | refine memPut_wf _ _ ?_ | refine pagePuts_wf _ _ ?_ | refine pagePut_wf _ _ ?_ | refine pageTake_wf _ _ ?_ | refine memWf_filter _ ?_ | refine memMerge_wf _ ?_ | refine mirrorPage_wf _ _ _ ?_ | refine MemOk.mirrorAfter_wf ?_ _ _
    | with_reducible first | refine MemOk.shadow ?_ | refine MemOk.applied ?_ | refine MemOk.bulk ?_ | refine MemOk.mirror ?_ | refine MemOk.cells ?_ | refine MemOk.tagMem ?_
    | exact (rfl : memWf _ [] = true)
    | dsimp only [id]
    | split

theorem checkPage_memOk {s : State} (h₀ : MemOk s)  (bank : Nat) (good : Bool) : MemOk (checkPage bank good s) := by
  unfold checkPage
  try dsimp only
  repeat' first
    | with_reducible assumption
    | with_reducible first | refine tagWritePage_memOk ?_ _ _
    | with_reducible refine MemOk.ite (fun _ => ?_) (fun _ => ?_)
    | dsimp only [id]
    | split

theorem startHeartwood_memOk {s : State} (h₀ : MemOk s)   : MemOk (startHeartwood s) := by
  unfold startHeartwood
  try dsimp only
  repeat' first
    | with_reducible assumption
    | with_reducible first | (show MemOk (chooseCalendars _).2; refine MemOk.of (chooseCalendars_changes (.refl _ _)) ?_)
    | with_reducible first | (show MemOk (findChanges _).2; refine MemOk.of (findChanges_changes (.refl _ _)) ?_)
    | with_reducible first | (show MemOk (interruptedReadings _); refine MemOk.of (interruptedReadings_changes (.refl _ _)) ?_)
    | with_reducible first | refine meterSnapshot_memOk ?_
    | with_reducible first | (show MemOk (missedBoundaries _).2; refine MemOk.of (missedBoundaries_changes (.refl _ _)) ?_)
    | with_reducible first | (show MemOk (releaseReadings _); refine MemOk.of (releaseReadings_changes (.refl _ _)) ?_)
    | with_reducible first | (show MemOk (restoreEntry _); refine MemOk.of (restoreEntry_changes (.refl _ _)) ?_)
    | with_reducible first | (show MemOk (restoreSnapNo _); refine MemOk.of (restoreSnapNo_changes (.refl _ _)) ?_)
    | with_reducible first | (show MemOk (signReading _ _ _); refine MemOk.of (signReading_changes (.refl _ _) _ _) ?_)
    | with_reducible first | (show MemOk (startDisplay _); refine MemOk.of (startDisplay_changes (.refl _ _)) ?_)
    | with_reducible first | (show MemOk (takeOffset _); refine MemOk.of (takeOffset_changes (.refl _ _)) ?_)
    | with_reducible first | (show MemOk (writeSave _ _); refine MemOk.of (writeSave_changes (.refl _ _) _) ?_)
    | with_reducible first | refine MemOk.forBoughs _ ?_ fun b u hu => ?_
    | with_reducible refine MemOk.ite (fun _ => ?_) (fun _ => ?_)
    | simp only [↓memOk_mk]; refine MemMk.mk ?_ ?_ ?_ ?_ ?_ ?_
    | with_reducible first | refine memPuts_wf _ _ ?_ | refine memPut_wf _ _ ?_ | refine pagePuts_wf _ _ ?_ | refine pagePut_wf _ _ ?_ | refine pageTake_wf _ _ ?_ | refine memWf_filter _ ?_ | refine memMerge_wf _ ?_ | refine mirrorPage_wf _ _ _ ?_ | refine MemOk.mirrorAfter_wf ?_ _ _
    | with_reducible first | refine MemOk.shadow ?_ | refine MemOk.applied ?_ | refine MemOk.bulk ?_ | refine MemOk.mirror ?_ | refine MemOk.cells ?_ | refine MemOk.tagMem ?_
    | exact (rfl : memWf _ [] = true)
    | (with_reducible refine MemOk.ofPair (by assumption) ?_)
    | dsimp only [id]
    | split

theorem checkBough_memOk {s : State} (h₀ : MemOk s)  (c : SelfCheck) (b : Bough) : MemOk (checkBough c b s) := by
  unfold checkBough
  try dsimp only
  repeat' first
    | with_reducible assumption
    | with_reducible first | (show MemOk (checkEvent _ _ _); refine MemOk.of (checkEvent_changes (.refl _ _) _ _) ?_)
    | with_reducible first | (show MemOk (holdAtStart _ _); refine MemOk.of (holdAtStart_changes (.refl _ _) _) ?_)
    | with_reducible first | refine testFailed_memOk ?_ _ _ _ _ _ | refine trip_memOk ?_ _ _ _
    | with_reducible first | refine MemOk.foldl _ _ ?_ fun u x hu => ?_
    | with_reducible refine MemOk.ite (fun _ => ?_) (fun _ => ?_)
    | simp only [↓memOk_mk]; refine MemMk.mk ?_ ?_ ?_ ?_ ?_ ?_
    | with_reducible first | refine memPuts_wf _ _ ?_ | refine memPut_wf _ _ ?_ | refine pagePuts_wf _ _ ?_ | refine pagePut_wf _ _ ?_ | refine pageTake_wf _ _ ?_ | refine memWf_filter _ ?_ | refine memMerge_wf _ ?_ | refine mirrorPage_wf _ _ _ ?_ | refine MemOk.mirrorAfter_wf ?_ _ _
    | with_reducible first | refine MemOk.shadow ?_ | refine MemOk.applied ?_ | refine MemOk.bulk ?_ | refine MemOk.mirror ?_ | refine MemOk.cells ?_ | refine MemOk.tagMem ?_
    | exact (rfl : memWf _ [] = true)
    | dsimp only [id]
    | split

theorem selfCheck_memOk {s : State} (h₀ : MemOk s)  (c : SelfCheck) : MemOk (selfCheck c s) := by
  unfold selfCheck
  try dsimp only
  repeat' first
    | with_reducible assumption
    | with_reducible first | refine checkBough_memOk ?_ _ _
    | with_reducible first | (show MemOk (checkEvent _ _ _); refine MemOk.of (checkEvent_changes (.refl _ _) _ _) ?_)
    | with_reducible first | (show MemOk (heartbeatTest _); refine MemOk.of (heartbeatTest_changes (.refl _ _)) ?_)
    | with_reducible first | refine MemOk.forBoughs _ ?_ fun b u hu => ?_
    | with_reducible refine MemOk.ite (fun _ => ?_) (fun _ => ?_)
    | simp only [↓memOk_mk]; refine MemMk.mk ?_ ?_ ?_ ?_ ?_ ?_
    | with_reducible first | refine memPuts_wf _ _ ?_ | refine memPut_wf _ _ ?_ | refine pagePuts_wf _ _ ?_ | refine pagePut_wf _ _ ?_ | refine pageTake_wf _ _ ?_ | refine memWf_filter _ ?_ | refine memMerge_wf _ ?_ | refine mirrorPage_wf _ _ _ ?_ | refine MemOk.mirrorAfter_wf ?_ _ _
    | with_reducible first | refine MemOk.shadow ?_ | refine MemOk.applied ?_ | refine MemOk.bulk ?_ | refine MemOk.mirror ?_ | refine MemOk.cells ?_ | refine MemOk.tagMem ?_
    | exact (rfl : memWf _ [] = true)
    | dsimp only [id]
    | split

theorem closeInterrupted_memOk {s : State} (h₀ : MemOk s)  (b : Bough) : MemOk (closeInterrupted b s) := by
  unfold closeInterrupted
  try dsimp only
  repeat' first
    | with_reducible assumption
    | with_reducible first | refine debitSession_memOk ?_ _
    | with_reducible first | (show MemOk (emitAtStart _ _ _ _); refine MemOk.of (emitAtStart_changes (.refl _ _) _ _ _) ?_)
    | with_reducible first | (show MemOk (journalFor _ _ _); refine MemOk.of (journalFor_changes (.refl _ _) _ _) ?_)
    | with_reducible first | (show MemOk (State.onSes _ _ _); refine MemOk.of (onSes_changes (.refl _ _) _ _) ?_)
    | with_reducible refine MemOk.ite (fun _ => ?_) (fun _ => ?_)
    | simp only [↓memOk_mk]; refine MemMk.mk ?_ ?_ ?_ ?_ ?_ ?_
    | with_reducible first | refine memPuts_wf _ _ ?_ | refine memPut_wf _ _ ?_ | refine pagePuts_wf _ _ ?_ | refine pagePut_wf _ _ ?_ | refine pageTake_wf _ _ ?_ | refine memWf_filter _ ?_ | refine memMerge_wf _ ?_ | refine mirrorPage_wf _ _ _ ?_ | refine MemOk.mirrorAfter_wf ?_ _ _
    | with_reducible first | refine MemOk.shadow ?_ | refine MemOk.applied ?_ | refine MemOk.bulk ?_ | refine MemOk.mirror ?_ | refine MemOk.cells ?_ | refine MemOk.tagMem ?_
    | exact (rfl : memWf _ [] = true)
    | dsimp only [id]
    | split

theorem clearSummary_memOk {s : State} (h₀ : MemOk s)   : MemOk (clearSummary s) := by
  unfold clearSummary
  try dsimp only
  repeat' first
    | with_reducible assumption
    | with_reducible first | refine tagWritePage_memOk ?_ _ _
    | with_reducible refine MemOk.ite (fun _ => ?_) (fun _ => ?_)
    | dsimp only [id]
    | split

theorem releaseBulk_memOk {s : State} (h₀ : MemOk s)   : MemOk (releaseBulk s) := by
  unfold releaseBulk
  try dsimp only
  repeat' first
    | with_reducible assumption
    | with_reducible refine MemOk.ite (fun _ => ?_) (fun _ => ?_)
    | simp only [↓memOk_mk]; refine MemMk.mk ?_ ?_ ?_ ?_ ?_ ?_
    | with_reducible first | refine memPuts_wf _ _ ?_ | refine memPut_wf _ _ ?_ | refine pagePuts_wf _ _ ?_ | refine pagePut_wf _ _ ?_ | refine pageTake_wf _ _ ?_ | refine memWf_filter _ ?_ | refine memMerge_wf _ ?_ | refine mirrorPage_wf _ _ _ ?_ | refine MemOk.mirrorAfter_wf ?_ _ _
    | with_reducible first | refine MemOk.shadow ?_ | refine MemOk.applied ?_ | refine MemOk.bulk ?_ | refine MemOk.mirror ?_ | refine MemOk.cells ?_ | refine MemOk.tagMem ?_
    | exact (rfl : memWf _ [] = true)
    | dsimp only [id]
    | split

theorem actGlobal_memOk {s : State} (h₀ : MemOk s)  (o : Nat) (v : BitVec 32) : MemOk (actGlobal o v s) := by
  unfold actGlobal
  try dsimp only
  repeat' first
    | with_reducible assumption
    | with_reducible first | (show MemOk (acceptCommits _ _); refine MemOk.of (acceptCommits_changes (.refl _ _) _) ?_)
    | with_reducible first | (show MemOk (clearDone _ _); refine MemOk.of (clearDone_changes (.refl _ _) _) ?_)
    | with_reducible first | (show MemOk (clearIrq _ _); refine MemOk.of (clearIrq_changes (.refl _ _) _) ?_)
    | with_reducible first | (show MemOk (countIgnored _ _); refine MemOk.of (countIgnored_changes (.refl _ _) _) ?_)
    | with_reducible first | refine releaseBulk_memOk ?_
    | with_reducible refine MemOk.ite (fun _ => ?_) (fun _ => ?_)
    | simp only [↓memOk_mk]; refine MemMk.mk ?_ ?_ ?_ ?_ ?_ ?_
    | with_reducible first | refine memPuts_wf _ _ ?_ | refine memPut_wf _ _ ?_ | refine pagePuts_wf _ _ ?_ | refine pagePut_wf _ _ ?_ | refine pageTake_wf _ _ ?_ | refine memWf_filter _ ?_ | refine memMerge_wf _ ?_ | refine mirrorPage_wf _ _ _ ?_ | refine MemOk.mirrorAfter_wf ?_ _ _
    | with_reducible first | refine MemOk.shadow ?_ | refine MemOk.applied ?_ | refine MemOk.bulk ?_ | refine MemOk.mirror ?_ | refine MemOk.cells ?_ | refine MemOk.tagMem ?_
    | exact (rfl : memWf _ [] = true)
    | dsimp only [id]
    | split

theorem writeWord_memOk {s : State} (h₀ : MemOk s)  (addr : Nat) (bs : List Byte) (a : Nat) : MemOk (writeWord addr bs a s) := by
  unfold writeWord
  try dsimp only
  repeat' first
    | with_reducible assumption
    | with_reducible first | refine actGlobal_memOk ?_ _ _
    | with_reducible first | (show MemOk (countIgnored _ _); refine MemOk.of (countIgnored_changes (.refl _ _) _) ?_)
    | with_reducible refine MemOk.ite (fun _ => ?_) (fun _ => ?_)
    | dsimp only [id]
    | split

theorem writeRegs_memOk {s : State} (h₀ : MemOk s)  (lo hi addr : Nat) (bs : List Byte) : MemOk (writeRegs lo hi addr bs s) := by
  unfold writeRegs
  try dsimp only
  repeat' first
    | with_reducible assumption
    | with_reducible first | refine writeWord_memOk ?_ _ _ _ | refine MemOk.foldl _ _ ?_ fun u x hu => ?_
    | with_reducible refine MemOk.ite (fun _ => ?_) (fun _ => ?_)
    | dsimp only [id]
    | split

theorem writeShadow_memOk {s : State} (h₀ : MemOk s)  (a : Nat) (bs : List Byte) : MemOk (writeShadow a bs s) := by
  unfold writeShadow
  try dsimp only
  repeat' first
    | with_reducible assumption
    | with_reducible refine MemOk.ite (fun _ => ?_) (fun _ => ?_)
    | simp only [↓memOk_mk]; refine MemMk.mk ?_ ?_ ?_ ?_ ?_ ?_
    | with_reducible first | refine memPuts_wf _ _ ?_ | refine memPut_wf _ _ ?_ | refine pagePuts_wf _ _ ?_ | refine pagePut_wf _ _ ?_ | refine pageTake_wf _ _ ?_ | refine memWf_filter _ ?_ | refine memMerge_wf _ ?_ | refine mirrorPage_wf _ _ _ ?_ | refine MemOk.mirrorAfter_wf ?_ _ _
    | with_reducible first | refine MemOk.shadow ?_ | refine MemOk.applied ?_ | refine MemOk.bulk ?_ | refine MemOk.mirror ?_ | refine MemOk.cells ?_ | refine MemOk.tagMem ?_
    | exact (rfl : memWf _ [] = true)
    | dsimp only [id]
    | split

theorem writeMirror_memOk {s : State} (h₀ : MemOk s)  (a : Nat) (bs : List Byte) : MemOk (writeMirror a bs s) := by
  unfold writeMirror
  try dsimp only
  repeat' first
    | with_reducible assumption
    | with_reducible first | refine MemOk.foldl _ _ ?_ fun u x hu => ?_
    | with_reducible refine MemOk.ite (fun _ => ?_) (fun _ => ?_)
    | simp only [↓memOk_mk]; refine MemMk.mk ?_ ?_ ?_ ?_ ?_ ?_
    | with_reducible first | refine memPuts_wf _ _ ?_ | refine memPut_wf _ _ ?_ | refine pagePuts_wf _ _ ?_ | refine pagePut_wf _ _ ?_ | refine pageTake_wf _ _ ?_ | refine memWf_filter _ ?_ | refine memMerge_wf _ ?_ | refine mirrorPage_wf _ _ _ ?_ | refine MemOk.mirrorAfter_wf ?_ _ _
    | with_reducible first | refine MemOk.shadow ?_ | refine MemOk.applied ?_ | refine MemOk.bulk ?_ | refine MemOk.mirror ?_ | refine MemOk.cells ?_ | refine MemOk.tagMem ?_
    | exact (rfl : memWf _ [] = true)
    | dsimp only [id]
    | split

theorem writeBulk_memOk {s : State} (h₀ : MemOk s)  (a : Nat) (bs : List Byte) : MemOk (writeBulk a bs s) := by
  unfold writeBulk
  try dsimp only
  repeat' first
    | with_reducible assumption
    | with_reducible first | (show MemOk (countIgnored _ _); refine MemOk.of (countIgnored_changes (.refl _ _) _) ?_)
    | with_reducible refine MemOk.ite (fun _ => ?_) (fun _ => ?_)
    | simp only [↓memOk_mk]; refine MemMk.mk ?_ ?_ ?_ ?_ ?_ ?_
    | with_reducible first | refine memPuts_wf _ _ ?_ | refine memPut_wf _ _ ?_ | refine pagePuts_wf _ _ ?_ | refine pagePut_wf _ _ ?_ | refine pageTake_wf _ _ ?_ | refine memWf_filter _ ?_ | refine memMerge_wf _ ?_ | refine mirrorPage_wf _ _ _ ?_ | refine MemOk.mirrorAfter_wf ?_ _ _
    | with_reducible first | refine MemOk.shadow ?_ | refine MemOk.applied ?_ | refine MemOk.bulk ?_ | refine MemOk.mirror ?_ | refine MemOk.cells ?_ | refine MemOk.tagMem ?_
    | exact (rfl : memWf _ [] = true)
    | dsimp only [id]
    | split

theorem writeSpan_memOk {s : State} (h₀ : MemOk s)  (addr : Nat) (bs : List Byte) : MemOk (writeSpan addr bs s) := by
  unfold writeSpan
  try dsimp only
  repeat' first
    | with_reducible assumption
    | with_reducible first | (show MemOk (countIgnored _ _); refine MemOk.of (countIgnored_changes (.refl _ _) _) ?_)
    | with_reducible first | (show MemOk (strayCommand _ _ _); refine MemOk.of (strayCommand_changes (.refl _ _) _ _) ?_)
    | with_reducible first | refine writeBulk_memOk ?_ _ _ | refine writeMirror_memOk ?_ _ _
    | with_reducible first | refine writeRegs_memOk ?_ _ _ _ _ | refine writeShadow_memOk ?_ _ _
    | with_reducible refine MemOk.ite (fun _ => ?_) (fun _ => ?_)
    | dsimp only [id]
    | split

end Sys2Proof.Safety
end

