-- ==== Sys2Proof/Laws/Queue.lean ====
section
/-! SUPPORT. What the event queue holds after an event: an answer that CanAnswer lets in, and an event that CanReport lets
in, is the queue's last message; room for answers stays. -/

set_option Elab.async false

namespace Sys2Proof.Safety

open Sys2Proof.Machine

/-- Whether an answer is let in depends on the queue and the phase alone. -/
theorem CanAnswer.of_eq {s t : State} (h : CanAnswer s) (e1 : t.host.eq = s.host.eq) (e2 : t.start = s.start) :
    CanAnswer t := by
  unfold CanAnswer State.open2 State.stopped eqUsed at *
  rwa [e1, e2]

/-- Whether an event is let in depends on the queue, the phase and the settings in force. -/
theorem CanReport.of_eq {c n : Nat} {s t : State} (h : CanReport c n s) (e1 : t.host.eq = s.host.eq)
    (e2 : t.start = s.start) (e3 : t.host.applied = s.host.applied) : CanReport c n t := by
  unfold CanReport State.open2 State.stopped eqUsed State.hstCfg State.cfg at *
  rwa [e1, e2, e3]

theorem eqUsed_recordEvent (c b f : Nat) (d : List Byte) (s : State) : eqUsed (recordEvent c b f d s) = eqUsed s := by
  unfold eqUsed
  rw [recordEvent_host]

theorem open2_recordEvent (c b f : Nat) (d : List Byte) (s : State) : (recordEvent c b f d s).open2 = s.open2 := by
  unfold State.open2 State.stopped
  rw [recordEvent_start]

theorem hstCfg_recordEvent (c b f : Nat) (d : List Byte) (s : State) : (recordEvent c b f d s).hstCfg = s.hstCfg := by
  unfold State.hstCfg State.cfg
  rw [recordEvent_host]

theorem eqAdvance_eq (c : Nat) (s : State) : (eqAdvance c s).host.eq = s.host.eq := by
  unfold eqAdvance
  split <;> rfl

/-- An event with room is placed last. -/
theorem placeEvent_eq {s : State} (c b g : Nat) (a : Bool) (d : List Byte) (h : eqUsed s + 8 + d.length ≤ eqRoom a) :
    (placeEvent c b g a d s).host.eq = s.host.eq ++ [mkMsg c b g d s] := by
  unfold placeEvent
  dsimp only
  rw [if_pos h, eqAdvance_eq]

theorem lastEvent_of {s : State} {q : List Msg} {m : Msg} (h : s.host.eq = q ++ [m]) :
    lastEvent s = some (m.type, m.bough, m.tag, m.body) := by
  unfold lastEvent
  rw [h]
  simp

/-- An answer is the queue's last message. -/
theorem answer_last {s : State} (h : CanAnswer s) (c b g : Nat) (d : List Byte) (hc : c ≠ 0x0701 := by decide)
    (hl : d.length ≤ 8184 := by simp) : lastEvent (answer c b g d s) = some (c, b, g, d) := by
  obtain ⟨ho, hr⟩ := h
  unfold answer postEvent
  rw [open2_recordEvent, ho, if_neg (by simp [hc]), if_pos rfl]
  refine lastEvent_of (placeEvent_eq _ _ _ _ _ ?_)
  rw [eqUsed_recordEvent]
  unfold eqRoom
  rw [if_pos rfl]
  omega

/-- An event that is no answer is the queue's last message. -/
theorem emit_last {s : State} {n : Nat} (c b : Nat) (d : List Byte) (h : CanReport c n s) (hc : c ≠ 0x0701 := by decide)
    (hd : c ≠ 0x0304 := by decide) (hl : d.length ≤ n := by simp) : lastEvent (emit c b d s) = some (c, b, 0, d) := by
  obtain ⟨ho, hm, hr⟩ := h
  unfold emit postEvent
  rw [open2_recordEvent, hstCfg_recordEvent, ho, hm, if_neg (by simp [hc]), if_neg (by decide), if_pos (by simp [hd])]
  refine lastEvent_of (placeEvent_eq _ _ _ _ _ ?_)
  rw [eqUsed_recordEvent]
  unfold eqRoom
  rw [if_neg (by decide)]
  omega

theorem eqUsed_append {s t : State} {m : Msg} (h : t.host.eq = s.host.eq ++ [m]) :
    eqUsed t = eqUsed s + 8 + m.body.length := by
  unfold eqUsed
  rw [h]
  simp only [List.map_append, List.map_cons, List.map_nil, List.sum_append, List.sum_cons, List.sum_nil]
  omega

theorem open2_eqAdvance (c : Nat) (s : State) : (eqAdvance c s).open2 = s.open2 := by
  unfold eqAdvance
  split <;> rfl

theorem eqUsed_eqAdvance (c : Nat) (s : State) : eqUsed (eqAdvance c s) = eqUsed s := by
  unfold eqUsed
  rw [eqAdvance_eq]

/-- The loss of an event leaves the part that answers alone may fill. -/
theorem eqLose_canAnswer {s : State} (h : CanAnswer s) (n : Nat) : CanAnswer (eqLose n s) := by
  obtain ⟨ho, hr⟩ := h
  unfold eqLose
  dsimp only
  split
  · exact ⟨ho, hr⟩
  · generalize hu : recordEvent _ _ _ _ _ = u
    have h1 : u.open2 = true := by
      rw [← hu, open2_recordEvent]
      exact ho
    have h2 : eqUsed u ≤ 57344 := by
      rw [← hu, eqUsed_recordEvent]
      exact hr
    split
    · rename_i hx
      simp only [Bool.and_eq_true, decide_eq_true_eq] at hx
      refine ⟨by rw [open2_eqAdvance]; exact h1, ?_⟩
      rw [eqUsed_eqAdvance, eqUsed_append rfl]
      exact hx.2
    · exact ⟨h1, h2⟩

/-- An event that is no answer leaves room for answers. -/
theorem emit_canAnswer {s : State} (h : CanAnswer s) (c b : Nat) (d : List Byte) (hd : c ≠ 0x0304 := by decide) :
    CanAnswer (emit c b d s) := by
  have h1 : CanAnswer (recordEvent c b 0 d s) := h.of_eq (by rw [recordEvent_host]) (by rw [recordEvent_start])
  unfold emit postEvent
  generalize recordEvent c b 0 d s = u at h1
  split
  · exact h1
  · rw [if_neg (by decide)]
    split
    · unfold placeEvent
      dsimp only
      split
      · rename_i hr
        obtain ⟨ho, -⟩ := h1
        refine ⟨by rw [open2_eqAdvance]; exact ho, ?_⟩
        rw [eqUsed_eqAdvance, eqUsed_append rfl]
        exact hr
      · rw [if_neg (by simp [hd])]
        refine eqLose_canAnswer ⟨?_, ?_⟩ _
        · rw [open2_eqAdvance]
          exact h1.1
        · rw [eqUsed_eqAdvance]
          exact h1.2
    · exact h1

end Sys2Proof.Safety
end

