-- ==== Sys2Proof/Laws/Vectors.lean ====
section
/-! SUPPORT. Entries of a vector with one entry changed, read by index or by number. -/

set_option Elab.async false

namespace Sys2Proof.Safety

open Sys2Proof.Machine

variable {α : Type} {n : Nat} (v : Vector α n)

@[simp] theorem modAt_val (i : Fin n) (f : α → α) : (modAt v i f)[i.val] = f v[i.val] := by simp [modAt]

theorem modAt_val_ne (i : Fin n) (f : α → α) (j : Nat) (hj : j < n) (h : i.val ≠ j) : (modAt v i f)[j] = v[j] := by
  simp [modAt, h]

theorem modAt_fin (i j : Fin n) (f : α → α) : (modAt v i f)[j] = if i = j then f v[j] else v[j] := by
  unfold modAt
  by_cases e : i = j
  · subst e
    simp
  · rw [if_neg e]
    exact Vector.getElem_set_ne _ _ fun h => e (Fin.ext h)

@[simp] theorem getN_modN (i : Nat) (h : i < n) (f : α → α) (d : α) : getN (modN v i f) i d = f (getN v i d) := by
  simp [modN, getN, h]

theorem getN_modN_ne (i j : Nat) (h : i ≠ j) (f : α → α) (d : α) : getN (modN v i f) j d = getN v j d := by
  unfold modN getN
  split
  · split
    · exact Vector.getElem_set_ne _ _ h
    · rfl
  · rfl

end Sys2Proof.Safety
end

