-- ==== Sys2Proof/WellFormed.lean ====
section
/-! DEFINITION. Which commands are well formed: every operand fits the field, the list or the bus that carries it in the
spec. Operands whose type already fits need no check. The step does not rest on these checks: an ill-formed command has
the meaning that its operands give it. -/

namespace Sys2Proof

/-- The value fits an unsigned field of n bytes. -/
def fitsU (n x : Nat) : Bool := decide (x < 256 ^ n)

/-- The amount fits a signed field of 6 bytes (R706, R707). -/
def fitsAmount (x : Int) : Bool := decide (-(2 ^ 47) ≤ x) && decide (x < 2 ^ 47)

/-- The header's BOUGH is a byte and its TAG two bytes (R705). -/
def CmdHdr.wf (h : CmdHdr) : Bool := fitsU 1 h.bough && fitsU 2 h.tag

/-- A canopy frame has 16 bytes of frame control and blocks of 520 bytes (R495, R496). -/
def CnpRx.wf (f : CnpRx) : Bool := f.fc.length == 16 && f.blocks.all (fun x => x.length == 520)

/-- A SLAC message carries a MAC address of 6 bytes and a run identifier of 8 (R179). -/
def slacWf (mac runId : List Byte) : Bool := mac.length == 6 && runId.length == 8

/-- A write of the host port: a 24-bit offset and at least one byte (R698). -/
def writeWf (addr : Nat) (bytes : List Byte) : Bool := fitsU 3 addr && !bytes.isEmpty

/-- Every operand of the command fits what carries it. -/
def Instr.wf (i : Instr) : Bool :=
  match i with
  | .paceCount counts => counts.length == 23
  | .registerWrite addr bytes => writeWf addr bytes
  | .commandQueueWrite addr bytes => writeWf addr bytes
  | .eventQueueRead addr _ => fitsU 3 addr
  | .cmSlacParmReq mac runId _ => slacWf mac runId
  | .cmStartAttenCharInd mac runId _ => slacWf mac runId
  | .cmMnbcSoundInd mac runId _ _ _ => slacWf mac runId
  | .soundingEnd mac runId => slacWf mac runId
  | .modemFrameTransmit _ symbols _ _ _ => decide (symbols ≤ 128)
  | .cmSlacMatchReq mac runId => slacWf mac runId
  | .sesAuthAccept h _ amount expiry ident => h.wf && fitsAmount amount && fitsU 4 expiry && fitsU 1 ident.length
  | .sesAuthRefuse h ident => h.wf && fitsU 1 ident.length
  | .sesIdent h credential => h.wf && fitsU 1 credential.length
  | .sesStop h => h.wf
  | .sesGrant h amount expiry => h.wf && fitsAmount amount && fitsU 4 expiry
  | .sesCeiling h watts validity => h.wf && fitsU 4 watts && fitsU 4 validity
  | .sesCreditAdd h digest amount => h.wf && digest.length == 8 && fitsAmount amount
  | .sesCreditSet h digest amount => h.wf && digest.length == 8 && fitsAmount amount
  | .sesCreditCreate h digest _ amount => h.wf && digest.length == 8 && fitsAmount amount
  | .sesCreditDelete h digest => h.wf && digest.length == 8
  | .sesCreditSetFlags h digest _ => h.wf && digest.length == 8
  | .sesLedgerLoadMerge h count => h.wf && fitsU 4 count
  | .sesLedgerLoadReplace h count => h.wf && fitsU 4 count
  | .safClear h _ => h.wf
  | .safHoldSet h => h.wf
  | .safHoldRelease h => h.wf
  | .mtrCal h _ n ref _ => h.wf && fitsU 1 n && fitsU 1 ref
  | .mtrSwapHot h ch => h.wf && fitsU 1 ch
  | .mtrSwapReturn h ch => h.wf && fitsU 1 ch
  | .mtrSwapAbort h ch => h.wf && fitsU 1 ch
  | .mtrSwapReadmit h ch => h.wf && fitsU 1 ch
  | .nrgRead h => h.wf
  | .bilTimeSet h _ _ => h.wf
  | .bilReadAck h no => h.wf && fitsU 4 no
  | .bilReadNow h => h.wf
  | .bilInfo h => h.wf
  | .bilReadGet h first count => h.wf && fitsU 4 first && fitsU 2 count
  | .auxSet h _ duty => h.wf && fitsU 2 duty
  | .auxClear h _ => h.wf
  | .beaconReceived f => f.wf
  | .joinRequest f => f.wf
  | .canopyDataFrame f => f.wf
  | .canopyAck f _ => f.wf
  | .toneMapFrame f _ _ => f.wf
  | .statusFrame f => f.wf
  | .ceilingFrame f => f.wf
  | .tripFrame f => f.wf
  | .cnpSend h dst cls data => h.wf && fitsU 1 dst && fitsU 1 cls && fitsU 2 data.length
  | .attrib pupi cid => pupi.length == 4 && decide (cid < 16)
  | .tagFlush h _ => h.wf
  | .keyChallenge h => h.wf
  | .keyLifecycle h target nonce tag => h.wf && fitsU 1 target && nonce.length == 16 && tag.length == 32
  | .keyInstall h slot nonce enc tag =>
    h.wf && fitsU 1 slot && nonce.length == 12 && enc.length == 32 && tag.length == 16
  | .keyInfo h => h.wf
  | .memInjectMode0 h ramMacro _ => h.wf && fitsU 1 ramMacro
  | .memInjectMode1 h => h.wf
  | .memMapGet h => h.wf
  | .logRead h ring first limit => h.wf && fitsU 1 ring && fitsU 4 first && fitsU 4 limit
  | .logClear h _ => h.wf
  | .logDumpRead h slot off => h.wf && fitsU 1 slot && fitsU 4 off
  | .logDumpAck h _ => h.wf
  | .logHistGet h => h.wf
  | .updBegin h header => h.wf && header.length == 128
  | .updChunk h off len => h.wf && fitsU 4 off && fitsU 4 len
  | .updEnd h => h.wf
  | .updSchedule h mode value => h.wf && fitsU 1 mode && fitsU 4 value
  | .updConfirm h => h.wf
  | .updAbort h => h.wf
  | .hstRestart h body => h.wf && fitsU 2 body.length
  | .hstEcho h body => h.wf && fitsU 2 body.length
  | _ => true

end Sys2Proof
end

