-- ==== Sys2Proof/Tests/Slice0.lean ====
section
/-! SUPPORT. The model's own tests: ill-formed commands that WellFormed refuses, the spec's worked examples, steps on small
states, and for every statement with hypotheses states and operands that meet them together. -/

open Sys2Proof Sys2Proof.Machine Sys2Proof.Safety
set_option maxRecDepth 100000

namespace Sys2Proof.Tests

set_option Elab.async false

/-- A device in operation: started, with calendar time known and heartbeats taken. -/
def readyBase : State := { State.reset with
  start := { State.reset.start with phase := 7, done := 8, released := true, rstOutN := true, mrstN := true, lifeValid := true, fuseOk := true, selfChecked := true, ledgerBuilt := true },
  lat := { State.reset.lat with running := true, stampOn := true, cycles := 5, optime := 123456 },
  log := { State.reset.log with logOn := true },
  bak := { State.reset.bak with caltime := 1700000000 },
  safDev := { State.reset.safDev with fsCauses := [], firstBeat := true },
  supply := { State.reset.supply with inRange := 0x1FFF } }

/-- Settings put in force. -/
def withCfg (l : List (Nat × Nat)) (s : State) : State :=
  { s with host := { s.host with applied := l.foldl (fun m e => pagePuts m e.1 (leN 4 e.2)) s.host.applied } }

/-- Bough 2 with one of its structures replaced, its coil 0 driven. -/
def prt (p : Port) (s : State := readyBase) : State := { s with ports := s.ports.set 2 p }
def lnk (p : PortLink) (s : State := readyBase) : State := { s with links := s.links.set 2 p }
def ssn (p : Session) (s : State := readyBase) : State := { s with ses := s.ses.set 2 p }
def sln (p : SesLink) (s : State := readyBase) : State := { s with sesL := s.sesL.set 2 p }
def sfb (p : SafBough) (s : State := readyBase) : State := { s with saf := s.saf.set 2 p }
def closedS (s : State) : State :=
  { s with saf := s.saf.set 2 { s.saf[2] with coils := s.saf[2].coils.set 0 { driven := true } } }

theorem canAnswer_of (s : State) (h : (s.open2 && decide (eqUsed s ≤ 57344)) = true) : CanAnswer s := by
  simpa [CanAnswer] using h
theorem canReport_of (c n : Nat) (s : State)
    (h : (s.open2 && (bitOf s.hstCfg (c / 256) && decide (eqUsed s + 8 + n ≤ 57344))) = true) : CanReport c n s := by
  simpa [CanReport] using h
theorem canReport_le (c m n : Nat) (s : State) (h : CanReport c m s) (hn : n ≤ m) : CanReport c n s :=
  ⟨h.1, h.2.1, by have := h.2.2; omega⟩
theorem memOk_of (s : State) (h : (memWf pageReset s.host.shadow && (memWf pageReset s.host.applied
    && (memWf zeroB s.host.bulk && (memWf zeroB s.tag.mirror && (memWf zeroB s.mem.cells && memWf zeroB s.nv.tagMem))))) = true) :
    MemOk s := by
  simpa [MemOk] using h

/-! ## Canopy frames sealed under a site key -/

def siteKey : List Byte := List.replicate 32 5
def dataKey : List Byte := hkdf siteKey Config.canopySalt (ascii "canopy-data" ++ [0]) 16
def beaconKey : List Byte := hkdf siteKey Config.canopySalt (ascii "canopy-beacon" ++ [0]) 16

/-- A canopy network record of site 0x11223344: station, rank, flags. -/
def siteRecord (st rank flags : Byte) : List Byte :=
  leN 4 0x11223344 ++ [st, rank, flags, 0] ++ leN 4 0 ++ List.replicate 120 0 ++ [1, 2, 5, 9, 255, 255, 255, 255] ++ List.replicate 60 0

/-- The frame control that a station of that site sends. -/
def siteFc (st : Byte) (typ dst cls : Nat) (key : Bool) : List Byte :=
  frameControl { readyBase with canopy := { readyBase.canopy with record := some (siteRecord st 1 3) } } typ dst cls key 0 1 5 3

/-- A frame of one block, sealed under the site key: a beacon's payload, or the ciphertext of another message. -/
def sealedRx (st : Byte) (typ dst cls : Nat) (ct : List Byte) : CnpRx :=
  { fc := siteFc st typ dst cls false, counter := 99, capacity := 200,
    blocks := cutBlocks (if typ = 0 then ct ++ gcmTag beaconKey (cnpNonce st.toNat 99) ct []
      else ct ++ gcmTag dataKey (cnpNonce st.toNat 99) [] ct) }

theorem delivers_sealedBeacon (st : Byte) (dst cls : Nat) (body : List Byte) (s : State)
    (h : (hears s 0 (sealedRx st 0 dst cls body) && ((frameReason s (sealedRx st 0 dst cls body)).isNone
      && (decide (fcType (sealedRx st 0 dst cls body) = 0) && (fcSrc (sealedRx st 0 dst cls body) == st.toNat
      && (!fcKey (sealedRx st 0 dst cls body) && ((heldBlocks (atCollect (sealedRx st 0 dst cls body) s) st.toNat 0).isEmpty
      && (keyAccepted (atCollect (sealedRx st 0 dst cls body) s) false
      && ((atCollect (sealedRx st 0 dst cls body) s).canopy.key0 == some siteKey && decide (body.length ≤ 496))))))))) = true) :
    Delivers 0 (sealedRx st 0 dst cls body) body s := by
  generalize hf : sealedRx st 0 dst cls body = f at h
  simp only [Bool.and_eq_true, decide_eq_true_eq, beq_iff_eq, Option.isNone_iff_eq_none, List.isEmpty_iff, Bool.not_eq_true'] at h
  obtain ⟨h1, h2, h3, h4, h5, h6, h7, h8, h9⟩ := h
  refine delivers_beacon f s beaconKey body h9 h1 h2 h3 (by rw [h3, h4]; exact h6) (by rw [h5]; exact h7)
    (cnpKey_zero _ f _ _ h5 h8) ?_
  rw [h4, ← hf]; rfl

theorem delivers_sealed (st : Byte) (typ dst cls : Nat) (ct : List Byte) (s : State)
    (h : (hears s typ (sealedRx st typ dst cls ct) && ((frameReason s (sealedRx st typ dst cls ct)).isNone
      && (decide (fcType (sealedRx st typ dst cls ct) = typ ∧ typ ≠ 0) && (fcSrc (sealedRx st typ dst cls ct) == st.toNat
      && (!fcKey (sealedRx st typ dst cls ct) && ((heldBlocks (atCollect (sealedRx st typ dst cls ct) s) st.toNat typ).isEmpty
      && (keyAccepted (atCollect (sealedRx st typ dst cls ct) s) false
      && ((atCollect (sealedRx st typ dst cls ct) s).canopy.key0 == some siteKey && decide (ct.length ≤ 496))))))))) = true) :
    Delivers typ (sealedRx st typ dst cls ct) (gcmText dataKey (cnpNonce st.toNat 99) ct) s := by
  generalize hf : sealedRx st typ dst cls ct = f at h
  simp only [Bool.and_eq_true, decide_eq_true_eq, beq_iff_eq, Option.isNone_iff_eq_none, List.isEmpty_iff, Bool.not_eq_true'] at h
  obtain ⟨h1, h2, ⟨h3, h0⟩, h4, h5, h6, h7, h8, h9⟩ := h
  have hc : f.counter = 99 := by rw [← hf]; rfl
  have d := delivers_data typ f s dataKey ct h9 h1 h2 (by rw [h3]; exact h0) (by rw [h3, h4]; exact h6) (by rw [h5]; exact h7)
    (cnpKey_zero _ f _ _ h5 h8) (by rw [h4, ← hf]; simp only [sealedRx, if_neg h0])
  rw [h4, hc] at d
  exact d

/-- A ciphertext of three bytes, whose text is no longer. -/
def ct3 : List Byte := [1, 2, 3]
theorem textOfCt3_le (n : Nat) : 2 + (gcmText dataKey (cnpNonce n 99) ct3).length ≤ 5 := by
  have h := gcmText_length_le dataKey (cnpNonce n 99) ct3
  have e : ct3.length = 3 := rfl
  omega

/-- A frame control of another site. -/
def otherFc : List Byte := (siteFc 1 6 255 1 false).take 8 ++ [0] ++ ((siteFc 1 6 255 1 false).drop 9).take 5
def otherSite : List Byte := otherFc ++ leN 2 (fcrc otherFc)


/-! ## Well-formedness: one ill-formed command for each check, which the check refuses -/

/-- A header whose TAG does not fit two bytes, and one whose BOUGH does not fit one. -/
def badTag : CmdHdr := { bough := 2, tag := 65536 }
def badBough : CmdHdr := { bough := 256, tag := 7 }
def okHdr : CmdHdr := { bough := 2, tag := 7 }
def badFc : CnpRx := { fc := [1], counter := 0, blocks := [], capacity := 0 }
def badBlock : CnpRx := { fc := List.replicate 16 0, counter := 0, blocks := [[1]], capacity := 0 }
def none8 : Vector (Option Nat) 8 := Vector.replicate 8 none
def mac6 : List Byte := [1, 2, 3, 4, 5, 6]
def run8 : List Byte := [1, 2, 3, 4, 5, 6, 7, 8]

theorem test_illFormed_ports :
    ([.paceCount [5], .registerWrite 16777216 [1], .registerWrite 48 [],
      .commandQueueWrite 16777216 [1], .eventQueueRead 16777216 4, .cmSlacParmReq [1] run8 none8,
      .cmSlacParmReq mac6 [1] none8, .cmStartAttenCharInd [1] run8 none8,
      .cmMnbcSoundInd mac6 [] none8 (Vector.replicate 8 0) (Vector.replicate 58 0), .modemFrameTransmit 0 129 129 [] .idle,
      .soundingEnd [] run8, .cmSlacMatchReq mac6 []] : List Instr).all (fun i => !i.wf) = true := by decide +kernel

theorem test_illFormed_sessions :
    ([.sesAuthAccept badTag false 0 0 [], .sesAuthAccept okHdr false (2 ^ 47) 0 [], .sesAuthAccept okHdr false 0 (2 ^ 32) [],
      .sesAuthAccept okHdr false 0 0 (List.replicate 256 0), .sesAuthRefuse okHdr (List.replicate 256 0), .sesAuthRefuse badBough [],
      .sesIdent okHdr (List.replicate 256 0), .sesStop badTag, .sesGrant okHdr (-(2 ^ 47) - 1) 0, .sesGrant okHdr 0 (2 ^ 32),
      .sesCeiling okHdr (2 ^ 32) 0, .sesCeiling okHdr 0 (2 ^ 32), .sesCreditAdd okHdr [1] 0, .sesCreditSet okHdr run8 (2 ^ 47),
      .sesCreditCreate okHdr [] 0 0, .sesCreditDelete okHdr [1], .sesCreditSetFlags okHdr [1] 0,
      .sesLedgerLoadMerge okHdr (2 ^ 32), .sesLedgerLoadReplace okHdr (2 ^ 32), .safClear badTag 0, .safHoldSet badTag,
      .safHoldRelease badTag] : List Instr).all (fun i => !i.wf) = true := by decide +kernel

theorem test_illFormed_meters :
    ([.mtrCal okHdr 0 256 0 false, .mtrCal okHdr 0 1 256 false,
      .mtrSwapHot okHdr 256,
      .mtrSwapReturn okHdr 256, .mtrSwapAbort okHdr 256, .mtrSwapReadmit okHdr 256, .nrgRead badTag, .bilTimeSet badTag 0 0,
      .bilReadAck okHdr (2 ^ 32), .bilReadNow badTag, .bilInfo badTag, .bilReadGet okHdr (2 ^ 32) 1, .bilReadGet okHdr 0 65536,
      .auxSet okHdr 0 65536, .auxClear badTag 0] : List Instr).all (fun i => !i.wf) = true := by decide +kernel

theorem test_illFormed_links :
    ([.beaconReceived badFc, .joinRequest badFc, .canopyDataFrame badBlock, .canopyAck badFc 0, .toneMapFrame badFc 0 0,
      .statusFrame badBlock, .ceilingFrame badFc, .tripFrame badFc, .cnpSend okHdr 256 0 [], .cnpSend okHdr 0 256 [],
      .cnpSend okHdr 0 0 (List.replicate 65536 0), .attrib [1] 0, .attrib [1, 2, 3, 4] 16, .tagFlush badTag .done]
      : List Instr).all (fun i => !i.wf) = true := by decide +kernel

theorem test_illFormed_services :
    ([.keyChallenge badTag, .keyLifecycle okHdr 256 (List.replicate 16 0) (List.replicate 32 0),
      .keyLifecycle okHdr 0 [] (List.replicate 32 0), .keyLifecycle okHdr 0 (List.replicate 16 0) [],
      .keyInstall okHdr 256 (List.replicate 12 0) (List.replicate 32 0) (List.replicate 16 0),
      .keyInstall okHdr 0 [] (List.replicate 32 0) (List.replicate 16 0),
      .keyInstall okHdr 0 (List.replicate 12 0) [] (List.replicate 16 0),
      .keyInstall okHdr 0 (List.replicate 12 0) (List.replicate 32 0) [], .keyInfo badTag, .memInjectMode0 okHdr 256 0,
      .memInjectMode1 badTag, .memMapGet badTag, .logRead okHdr 256 0 1, .logRead okHdr 0 (2 ^ 32) 1, .logRead okHdr 0 0 (2 ^ 32),
      .logClear badTag 0, .logDumpRead okHdr 256 0, .logDumpRead okHdr 0 (2 ^ 32), .logDumpAck badTag 0, .logHistGet badTag,
      .updBegin okHdr [], .updChunk okHdr (2 ^ 32) 0, .updChunk okHdr 0 (2 ^ 32), .updEnd badTag, .updSchedule okHdr 256 0,
      .updSchedule okHdr 0 (2 ^ 32), .updConfirm badTag, .updAbort badTag, .hstRestart okHdr (List.replicate 65536 0),
      .hstEcho okHdr (List.replicate 65536 0)] : List Instr).all (fun i => !i.wf) = true := by decide +kernel

/-! ## The spec's worked examples, and published vectors of the algorithms that it names -/

/-- FIPS 180-4's one-block example: SHA-256 of "abc". -/
theorem test_sha256_abc : ofBe (sha256 [0x61, 0x62, 0x63])
    = 0xba7816bf8f01cfea414140de5dae2223b00361a396177a9cb410ff61f20015ad := by decide +kernel

/-- The check value of CRC-32C, over "123456789" (R130). -/
theorem test_crc32c_check : crc32c (ascii "123456789") = 0xE3069283 := by decide +kernel

/-- Test case 14 of the specification of GCM: AES-256 with a zero key, a zero nonce and one zero block (R512, R568). -/
theorem test_gcm_zeroBlock : let z := List.replicate 16 (0 : Byte)
    ofBe (gcmText (z ++ z) (z.take 12) z) = 0xcea7403d4d606b6e074ec5d3baf39d18
      ∧ ofBe (gcmTag (z ++ z) (z.take 12) [] (gcmText (z ++ z) (z.take 12) z)) = 0xd0d1c8a799996bf0265b98b5d48ab919 := by
  decide +kernel

/-- The two conversions worked under R172, and the request for 51.5 A that the rule raises to 850. -/
theorem test_duty_examples : dutyOf 200 = some 333 ∧ dutyOf 630 = some 892 ∧ dutyOf 515 = some 850 := by decide

/-- The two requests of the example in "Vehicle ports" (R206): bough 2 hears X with 22 dB, bough 3 hears Y with 24 dB. -/
def slacX : SlacReq := { mac := mac6, runId := run8, atten := #v[90, 90, 22, 51, 70, 90, 90, 90] }
def slacY : SlacReq := { mac := [1, 2, 3, 4, 5, 7], runId := run8, atten := #v[90, 90, 49, 24, 70, 90, 90, 90] }
def slacState : State :=
  { readyBase with
    ports := ((readyBase.ports.set 2 { state := .B, winOpen := true, slac := 1 }).set 3 { state := .B, winOpen := true, slac := 1 }).set 4
      { state := .B, winOpen := true, slac := 1 }
    assoc := { readyBase.assoc with reqs := [slacX, slacY] } }

theorem test_association_example : bestPairing slacState [slacX, slacY] [] = ([some 2, some 3], 2, 46)
    ∧ margins [slacX, slacY] slacX 2 = (29, some 27) ∧ margins [slacX, slacY] slacY 3 = (25, some 27) := by decide +kernel

/-- The final debit of the example under R229: 300,000 from the balance, 500,000 as emergency credit, −4,960 left. -/
theorem test_debit_example : debit 300000 500000 804960 = (-4960, 500000) := by decide

/-- The top-up of 1,000,000 units that follows it: EC_USED is cleared and the balance becomes 495,040. -/
theorem test_topUp_example :
    slotRecord (addCredit { bough := 255, tag := 7 } 1000000 5 (mkRecord run8 (-4960) 9 500) readyBase) 5
      = mkRecord run8 495040 9 0 := by decide +kernel

/-- The host credit of the example under R17: the balance stops at the end of its range. -/
theorem test_balance_holds : clampBalance (200000000000 + 400000000000) = 549755813887 := by decide

/-- The fault of the example under R271, voltages in 10 mV: 60.0 kΩ to three digits, below the threshold of 80 kΩ. -/
theorem test_insulation_example : insulation 8136 71864 7385 72615 470000 470000 ≠ none
    ∧ (match insulation 8136 71864 7385 72615 470000 470000 with
       | some (n, d) => decide (59900 * d ≤ n) && decide (n ≤ 60100 * d)
       | none => false) = true := by decide +kernel

/-- The two intervals of the example under R363. -/
theorem test_convert_example : convert 0 1698800000000 100000000 = (7200, 206880000)
    ∧ convert 0 943800000000 206880000 = (4001, 52550400) := by decide +kernel

/-- The register that wraps in "Energy and pips": 4 Wh and a carry of 61,587,968 pips. -/
theorem test_convert_wraps : convert 0xFFFFFFFFF0000000 0x20000000 200000000 = (4, 61587968) := by decide +kernel

/-- Lamp LSW26 of the example under R451: 24.0, 27.6, 20.0 and 16.0 V against a reference of 24 V. -/
theorem test_lamp_example : lampDuty 500 1200 1200 = 500 ∧ lampDuty 500 1200 1380 = 378 ∧ lampDuty 500 1200 1000 = 720
    ∧ lampDuty 500 1200 800 = 1000 := by decide

/-- The slots of the example under R502: 48 slots in 30.976 ms are 25 symbols each. -/
theorem test_slot_example : slotSymbols 30976 48 = 25 := by decide

/-- The allocation of the example under R516: 150 kW over 50, 11, 150 and 22 kW. -/
theorem test_allocation_example : allocate 4 1500 [(1, 0, 500), (1, 1, 110), (2, 0, 1500), (2, 1, 220)]
    = [(1, 1, 110), (2, 1, 220), (1, 0, 500), (2, 0, 670)] := by decide

/-- The display of the example under R476: 1,234,567,890 Wh at bough 3 shows as P3 and 234567.890. -/
theorem test_display_example :
    pageText { readyBase with bilB := readyBase.bilB.set 3 { whImp := 1234567890 } } 3 [0x54, 0x31]
      = [0x73, 0x4F, 0x00, 0x5B, 0x4F, 0x66, 0x6D, 0x7D, 0x07 + 128, 0x7F, 0x6F, 0x3F] := by decide +kernel

/-- Address 0x0012_3450 of the example under R608: macro 18, row 104, position 10. -/
theorem test_macro_example : macroOf 0x123450 = some 18 ∧ rowOf 0x123450 = 104 ∧ 0x123450 / 8 % 16 = 10 := by decide

/-- The three masks of the example under R606: bit 78; bits 5 and 70; bits 5, 41 and 70. -/
theorem test_inject_example : classify (cwBit 78) = 1 ∧ classify (cwBit 5 ^^^ cwBit 70) = 2
    ∧ classify (cwBit 5 ^^^ cwBit 41 ^^^ cwBit 70) = 3 := by decide +kernel

/-- The SES_CEILING of the worked example in "Host port": the 16 bytes spell it, and its answer is event 0x0308. -/
def ceilingMessage : List Byte :=
  [0x05, 0x83, 0x02, 0x07, 0x08, 0x00, 0x34, 0x12, 0xF8, 0x2A, 0x00, 0x00, 0x3C, 0x00, 0x00, 0x00]

theorem test_ceiling_message : hostInstr ceilingMessage = some (.sesCeiling { bough := 2, tag := 0x1234 } 11000 60) := by
  decide +kernel

theorem test_ceiling_answer :
    (match exec (.sesCeiling { bough := 2, tag := 0x1234 } 11000 60) readyBase with
     | .next t => lastEvent t == some (0x0308, 2, 0x1234, [0])
     | _ => false) = true := by decide +kernel

/-- HST_ID of the worked example in "Limits and ordering". -/
theorem test_hostId : hstWord readyBase 0 = 0x47080001 := by decide +kernel

/-! ## Steps -/

/-- A second passes on a device in operation: the front command runs, the rest of the queue waits. -/
theorem test_step_calendar :
    (match step { readyBase with pending := [.calendarSecond, .pllLockLoss] } with
     | .next t => t.bak.caltime == 1700000001 && t.pending == [.pllLockLoss]
     | _ => false) = true := by decide +kernel

/-- On an empty queue the block idles. -/
theorem test_step_idles : step State.reset = .next State.reset := rfl

/-- No word spells a command: the table gives its rows no bits. -/
theorem test_no_words : decodeTableWord 16 0x8305 = none ∧ State.reset.withFetchWord 16 0x8305 = State.reset := ⟨rfl, rfl⟩

/-- An emergency stop opens a closed contactor of another bough too (R267, R273). -/
theorem test_emergencyStop_opens :
    (match exec (.emergencyStop 7000 12000) (closedS (ssn { state := .charging })) with
     | .next t => !t.saf[(2 : Fin 8)].coils[(0 : Fin 3)].driven && t.safDev.stop
     | _ => false) = true := by decide +kernel

/-- A command body outside its range stops under its name, and one within it does not. -/
theorem test_stop_named : exec (.sesIdent okHdr []) readyBase = .fault (.undefinedBodyValue "SES_IDENT")
    ∧ inRange (.sesIdent okHdr []) readyBase = false ∧ inRange (.sesIdent okHdr [1]) readyBase = true := ⟨rfl, rfl, rfl⟩

/-! ## States and operands that meet the hypotheses of the statements -/

namespace MeasurementAndLogRegisters

def w0 : State := readyBase
def w1 : State := { readyBase with nst := readyBase.nst.map (fun q => { q with p := -5, q := 2147483647, s := -2147483648 }) }


/-- The hypotheses of every clause of MeasurementAndLogRegisters are met together by these states and operands. -/
theorem test_MeasurementAndLogRegisters_hypotheses :
    (∃ (s : State) (b : Bough), -2 ^ 31 ≤ s.nst[b].p ∧ s.nst[b].p < 2 ^ 31 ∧ -2 ^ 31 ≤ s.nst[b].q ∧ s.nst[b].q < 2
      ^ 31 ∧ -2 ^ 31 ≤ s.nst[b].s ∧ s.nst[b].s < 2 ^ 31)
    ∧ (∃ (s : State) (o : ℕ), 1 ≤ s.start.done ∧ o % 4 = 0 ∧ o < 4096)
    ∧ (∃ (o : ℕ), o % 4 = 0 ∧ o < 4096) :=
  ⟨⟨w1, 7, by decide +kernel, by decide +kernel, by decide +kernel, by decide +kernel, by decide +kernel,
    by decide +kernel⟩,
   ⟨w0, 3588, by decide +kernel, by decide +kernel, by decide +kernel⟩,
   ⟨0, by decide +kernel, by decide +kernel⟩⟩

end MeasurementAndLogRegisters

namespace OscillatorAndBothLoopTampers

def rt : Root := { shareA := 7, shareB := 9 }
def bk (b : Backup) : State := { readyBase with bak := b, crypto := { readyBase.crypto with keys := [{ handle := 3,
                                                                                                       stop := 2 }] },
                                                canopy := { readyBase.canopy with key0 := some [1] } }
def b0 : Backup := { readyBase.bak with roots := #v[some rt, none, some rt, none] }
def w5 : State := bk { b0 with openA := 1, openB := 2 }
def w6 : State := bk { b0 with openB := 1, openA := 2 }
def w14 : State := State.reset


/-- The hypotheses of every clause of OscillatorAndBothLoopTampers are met together by these states and operands. -/
theorem test_OscillatorAndBothLoopTampers_hypotheses :
    (∃ (s : State), domainDead s = false ∧ s.bak.tamperCfg.getLsbD 2 = true)
    ∧ (∃ (s : State), domainDead s = false ∧ s.bak.tamperCfg.getLsbD 0 = true ∧ s.bak.tamperCfg.getLsbD 1 = true ∧
      s.bak.armedA = true ∧ s.bak.armedB = true ∧ s.bak.openA = 1 ∧ 1 ≤ s.bak.openB)
    ∧ (∃ (s : State), domainDead s = false ∧ s.bak.tamperCfg.getLsbD 0 = true ∧ s.bak.tamperCfg.getLsbD 1 = true ∧
      s.bak.armedA = true ∧ s.bak.armedB = true ∧ s.bak.openB = 1 ∧ 1 ≤ s.bak.openA) :=
  ⟨⟨w14, by decide +kernel, by decide +kernel⟩,
   ⟨w5, by decide +kernel, by decide +kernel, by decide +kernel, by decide +kernel, by decide +kernel,
    by decide +kernel, by decide +kernel⟩,
   ⟨w6, by decide +kernel, by decide +kernel, by decide +kernel, by decide +kernel, by decide +kernel,
    by decide +kernel, by decide +kernel⟩⟩

end OscillatorAndBothLoopTampers

namespace PilotDuty

def wX2 (maxI : Nat) : State := withCfg [(0x2080, 0x90000000 + maxI), (0x2084, 0x8000FC00), (0x4080, 0x07000000)] (prt
    { state := .B, out := .x2, ppCode := 3, ratingUse := 320 } (ssn { state := .connected, acCeil := 10000 }))
def w0 : State := wX2 40
def w1 : State := wX2 200


/-- The hypotheses of every clause of PilotDuty are met together by these states and operands. -/
theorem test_PilotDuty_hypotheses :
    (∃ i ≤ 800, i < 60)
    ∧ (∃ i ≤ 800, 60 ≤ i ∧ i ≤ 510)
    ∧ (∃ i ≤ 800, 511 ≤ i)
    ∧ (∃ (i : ℕ) (d : ℕ), i ≤ 800 ∧ dutyOf i = some d)
    ∧ (∃ (s : State) (b : Bough), ((pilotDrive s b).1 = OutMode.x1 ∨ (pilotDrive s b).1 = OutMode.x2) ∧ plugged s b
      = true ∧ s.ports[b].slac ≠ 5 ∧ ppWithholds s b = false ∧ s.sesL[b].notify ≠ 4 ∧ digital s b = false ∧
      askedCurrent s b < 60)
    ∧ (∃ (s : State) (b : Bough), ((pilotDrive s b).1 = OutMode.x1 ∨ (pilotDrive s b).1 = OutMode.x2) ∧ plugged s b
      = true ∧ s.ports[b].slac ≠ 5 ∧ ppWithholds s b = false ∧ s.sesL[b].notify ≠ 4 ∧ digital s b = false ∧ 60
      ≤ askedCurrent s b) :=
  ⟨⟨42, by decide +kernel, by decide +kernel⟩,
   ⟨434, by decide +kernel, by decide +kernel, by decide +kernel⟩,
   ⟨723, by decide +kernel, by decide +kernel⟩,
   ⟨78, 130, by decide +kernel, by decide +kernel⟩,
   ⟨w0, 2, by decide +kernel, by decide +kernel, by decide +kernel, by decide +kernel, by decide +kernel,
    by decide +kernel, by decide +kernel⟩,
   ⟨w1, 2, by decide +kernel, by decide +kernel, by decide +kernel, by decide +kernel, by decide +kernel,
    by decide +kernel, by decide +kernel⟩⟩

end PilotDuty

namespace TrunkFlitsAndLanes

def fl (d : Nat) (k : Fin 4) (l : Load) : Flit := { src := 2, port := 0, dst := Fin.ofNat 23 d, cls := k, load := l }
def wSeg (g : Seg) (s : State := readyBase) : State := { s with trunk := { s.trunk with seg := s.trunk.seg.set 2 g } }
def wSeg3 : State := wSeg { attempts := [4, 4, 6] }
def wSegC : State := wSeg { carried := some 3, failed := 8 }
def wPass (k : Fin 4) : State := { readyBase with trunk := { readyBase.trunk with pass := readyBase.trunk.pass.set 2 ((readyBase.trunk.pass[2]).set k [fl 5 k .other]) } }
def wFull : State := { readyBase with trunk := { readyBase.trunk with pass := readyBase.trunk.pass.set 3 (Vector.replicate 4 [fl 5 2 .other, fl 8 2 .other]) } }
def wInj (k : Fin 4) (s : State := readyBase) : State := { s with trunk := { s.trunk with inject := s.trunk.inject.set 2 [fl 5 k .other] } }
def w0 : State := wInj 2
def w4 : State := wInj 2 (wPass 2)
def w5 : State := wSeg3
def w6 : State := wSegC
def w10 : State := wPass 3
def w11 : State := wFull
def w12 : State := wSeg { half := true, failed := 3, sending := some { transit := true, cls := 2, port := 0 } } (wPass
    2)
def w13 : State := readyBase
def w14 : State := State.reset


/-- The hypotheses of every clause of TrunkFlitsAndLanes are met together by these states and operands. -/
theorem test_TrunkFlitsAndLanes_hypotheses :
    (∃ (s : State) (i : Fin 23) (offers : List Flit) (errs : BitVec 9) (p : Pick) (f : Flit),
      s.trunk.seg[i].attempts.length < 3 ∧ pickFlit (takeOffers i offers s) i = some p ∧ pickedFlit
      (takeOffers i offers s) i p = some f ∧ badLanes s.trunk.seg[i] errs = 0 ∧ s.trunk.seg[i].half = false ∧
      ↑f.dst ≠ (i.val + 1) % 23)
    ∧ (∃ (s : State) (i : Fin 23) (offers : List Flit) (errs : BitVec 9) (p : Pick) (f : Flit),
      s.trunk.seg[i].attempts.length < 3 ∧ pickFlit (takeOffers i offers s) i = some p ∧ pickedFlit
      (takeOffers i offers s) i p = some f ∧ badLanes s.trunk.seg[i] errs ≠ 0)
    ∧ (∃ (s : State) (i : Fin 23) (p : Pick) (k : Fin 4), s.trunk.seg[i].sending = none ∧ pickFlit s i = some p ∧ k
      < p.cls)
    ∧ (∃ (s : State) (i : Fin 23) (p : Pick), s.trunk.seg[i].sending = none ∧ pickFlit s i = some p ∧ p.transit =
      false)
    ∧ (∃ (s : State) (g : Fin 23), s.trunk.seg[g].attempts.length = 3 ∧ s.trunk.seg[g].carried = none ∧
      s.trunk.seg[g].spareBad = false ∧ s.trunk.seg[g].half = false)
    ∧ (∃ (s : State), s.lat.running = true ∧ s.lat.pllLost = false) :=
  ⟨⟨w14, 2, [{ src := 2, port := 0, dst := 5, cls := 2, load := Sys2Proof.Load.other }], 0, { transit := false, cls := 2,
                                                                                              port := 0 }, { src := 2,
                                                                                                             port := 0,
                                                                                                             dst := 5,
                                                                                                             cls := 2,
                                                                                                             load := Sys2Proof.Load.other },
    by decide +kernel, by decide +kernel, by decide +kernel, by decide +kernel, by decide +kernel, by decide +kernel⟩,
   ⟨w6, 2, [{ src := 2, port := 0, dst := 5, cls := 2, load := Sys2Proof.Load.other }], 256, { transit := false, cls := 2,
                                                                                               port := 0 }, { src := 2,
                                                                                                              port := 0,
                                                                                                              dst := 5,
                                                                                                              cls := 2,
                                                                                                              load := Sys2Proof.Load.other },
    by decide +kernel, by decide +kernel, by decide +kernel, by decide +kernel⟩,
   ⟨w4, 2, { transit := true, cls := 2, port := 0 }, 1, by decide +kernel, by decide +kernel, by decide +kernel⟩,
   ⟨w0, 2, { transit := false, cls := 2, port := 0 }, by decide +kernel, by decide +kernel, by decide +kernel⟩,
   ⟨w5, 2, by decide +kernel, by decide +kernel, by decide +kernel, by decide +kernel⟩,
   ⟨w12, by decide +kernel, by decide +kernel⟩⟩

end TrunkFlitsAndLanes

namespace SramAccesses

def mr (m : Mem) (s : State := readyBase) : State := { s with mem := m }
def acc0 : Access := { stop := 2, chan := 0, addr := 8, write := some 5, kind := .coreData }
def accs : List Access := [{ stop := 2, chan := 0, addr := 8, write := some 5, kind := .coreData }, { stop := 2, chan := 0,
                                                                                                      addr := 8, write := none,
                                                                                                      kind := .coreData },
    { stop := 2, chan := 0, addr := 0x104, write := some 5, kind := .coreData }, { stop := 2, chan := 0, addr := 0x104,
                                                                                   write := some 5, kind := .coreData },
    { stop := 2, chan := 0, addr := 0x104, write := none, kind := .fetch }, { stop := 3, chan := 0, addr := 0x01000010,
                                                                              write := some 5, kind := .coreData }, { stop := 22,
                                                                                                                      chan := 1,
                                                                                                                      addr := 0x02000000,
                                                                                                                      write := none,
                                                                                                                      kind := .channel },
    { stop := 0, chan := 1, addr := 0x10, write := some 5, kind := .channel }]
def ac0 (x : Access) (d : Fin 23) : Flit := { src := Fin.ofNat 23 x.stop, port := 0, dst := d, cls := 2, load := .access x }
def inPass (x : Access) (d : Fin 23) (s : State) : State := { s with trunk := { s.trunk with pass := modN s.trunk.pass (d.val - 1) (fun v => v.set 2 [ac0 x d]) } }
def w11 : State := inPass (accs.getD 1 acc0) 5 (mr { bad := [{ addr := 8, flips := cwBit 2, hard := 0 }] })
def w12 : State := inPass (accs.getD 2 acc0) 5 (mr { bad := [{ addr := 8, flips := cwBit 2, hard := 0 }] })
def w32 : State := inPass (accs.getD 6 acc0) 8 readyBase


/-- The hypotheses of every clause of SramAccesses are met together by these states and operands. -/
theorem test_SramAccesses_hypotheses :
    (∃ (s : State) (i : Fin 23) (f : Flit) (x : Access) (p : Pick) (v : BitVec 64), s.trunk.seg[i].attempts = [] ∧
      s.trunk.seg[i].half = false ∧ pickFlit (takeOffers i [f] s) i = some p ∧ pickedFlit (takeOffers i [f] s)
      i p = some f ∧ ↑f.dst = (i.val + 1) % 23 ∧ f.load = Load.access x ∧ x.write = some v ∧ x.stop = 2 ∧
      x.addr < 8388608 ∧ MemOk s ∧ (badAt s (x.addr / 8 * 8)).hard = 0 ∧ s.mem.armed = false)
    ∧ (∃ (s : State) (i : Fin 23) (f : Flit) (x : Access) (p : Pick), s.trunk.seg[i].attempts = [] ∧
      s.trunk.seg[i].half = false ∧ pickFlit (takeOffers i [f] s) i = some p ∧ pickedFlit (takeOffers i [f] s)
      i p = some f ∧ ↑f.dst = (i.val + 1) % 23 ∧ f.load = Load.access x ∧ accessAllowed s x.stop
      x.write.isSome x.addr = false ∧ CanReport 264 5 s)
    ∧ (∃ (s : State) (i : Fin 23) (f : Flit) (x : Access) (p : Pick) (k : ℕ), s.trunk.seg[i].attempts = [] ∧
      s.trunk.seg[i].half = false ∧ pickFlit (takeOffers i [f] s) i = some p ∧ pickedFlit (takeOffers i [f] s)
      i p = some f ∧ ↑f.dst = (i.val + 1) % 23 ∧ f.load = Load.access x ∧ x.write = none ∧ x.stop = 2 ∧ x.addr
      < 8388608 ∧ s.mem.halted = false ∧ k < 79 ∧ (badAt s (x.addr / 8 * 8)).flips = cwBit k ∧ (badAt s
      (x.addr / 8 * 8)).hard = 0) :=
  ⟨⟨w12, 4, { src := 2, port := 0, dst := 5, cls := 2, load := Sys2Proof.Load.access { stop := 2, chan := 0, addr := 260,
                                                                                       write := some 0x0000000000000005,
                                                                                       kind := Sys2Proof.AccessKind.coreData } },
    { stop := 2, chan := 0, addr := 260, write := some 0x0000000000000005, kind := Sys2Proof.AccessKind.coreData }, { transit := true,
                                                                                                                      cls := 2,
                                                                                                                      port := 0 },
    0x0000000000000005, by decide +kernel, by decide +kernel, by decide +kernel, by decide +kernel, by decide +kernel,
    by decide +kernel, by decide +kernel, by decide +kernel, by decide +kernel, memOk_of _ (by decide +kernel),
    by decide +kernel, by decide +kernel⟩,
   ⟨w32, 7, { src := 22, port := 0, dst := 8, cls := 2, load := Sys2Proof.Load.access { stop := 22, chan := 1, addr := 33554432,
                                                                                        write := none, kind := Sys2Proof.AccessKind.channel } },
    { stop := 22, chan := 1, addr := 33554432, write := none, kind := Sys2Proof.AccessKind.channel }, { transit := true,
                                                                                                        cls := 2, port := 0 },
    by decide +kernel, by decide +kernel, by decide +kernel, by decide +kernel, by decide +kernel, by decide +kernel,
    by decide +kernel, canReport_of _ _ _ (by decide +kernel)⟩,
   ⟨w11, 4, { src := 2, port := 0, dst := 5, cls := 2, load := Sys2Proof.Load.access { stop := 2, chan := 0, addr := 8,
                                                                                       write := none, kind := Sys2Proof.AccessKind.coreData } },
    { stop := 2, chan := 0, addr := 8, write := none, kind := Sys2Proof.AccessKind.coreData }, { transit := true, cls := 2,
                                                                                                 port := 0 }, 2,
    by decide +kernel, by decide +kernel, by decide +kernel, by decide +kernel, by decide +kernel, by decide +kernel,
    by decide +kernel, by decide +kernel, by decide +kernel, by decide +kernel, by decide +kernel, by decide +kernel,
    by decide +kernel⟩⟩

end SramAccesses

namespace LatticeAndPace

def wRun : State := { readyBase with lat := { readyBase.lat with devRun := 2 } }
def wRunOk : State := { readyBase with lat := { readyBase.lat with devOk := 2 } }
def wPace2 : State := { readyBase with trunk := { readyBase.trunk with paceLow := true, paceOk := 3 } }
def wPll : State := { readyBase with lat := { readyBase.lat with pllLost := true } }
def w0 : State := wRun
def w1 : State := wRunOk
def w3 : State := wPace2
def w5 : State := wPll
def w6 : State := readyBase


/-- The hypotheses of every clause of LatticeAndPace are met together by these states and operands. -/
theorem test_LatticeAndPace_hypotheses :
    (∃ (s : State) (count : ℕ), s.lat.running = true ∧ s.lat.pllLost = false ∧ (count < 24987500 ∨ 25012500 <
      count) ∧ s.lat.devRun = 2)
    ∧ (∃ (s : State) (count : ℕ), s.lat.running = true ∧ s.lat.pllLost = false ∧ 24987500 ≤ count ∧ count ≤ 25012500
      ∧ s.lat.devOk = 2)
    ∧ (∃ (s : State) (count : ℕ), s.lat.running = true ∧ s.lat.pllLost = false ∧ (count < 24987500 ∨ 25012500 <
      count) ∧ s.lat.devRun < 2)
    ∧ (∃ (s : State), s.lat.running = true ∧ s.lat.pllLost = false ∧ CanReport 261 4 s)
    ∧ (∃ (s : State), s.lat.pllLost = true ∧ CanReport 261 4 s)
    ∧ (∃ (s : State), s.lat.running = true ∧ s.lat.pllLost = false ∧ s.lat.stampOn = true ∧ s.lat.optime < 2 ^ 40 -
      1)
    ∧ (∃ (s : State), s.lat.running = true ∧ s.lat.pllLost = true)
    ∧ (∃ (s : State) (counts : List ℕ), counts.length = 23 ∧ s.lat.running = true ∧ s.lat.pllLost = false) :=
  ⟨⟨w0, 47, by decide +kernel, by decide +kernel, by decide +kernel, by decide +kernel⟩,
   ⟨w1, 24987500, by decide +kernel, by decide +kernel, by decide +kernel, by decide +kernel, by decide +kernel⟩,
   ⟨w1, 179, by decide +kernel, by decide +kernel, by decide +kernel, by decide +kernel⟩,
   ⟨w0, by decide +kernel, by decide +kernel, canReport_of _ _ _ (by decide +kernel)⟩,
   ⟨w5, by decide +kernel, canReport_of _ _ _ (by decide +kernel)⟩,
   ⟨w6, by decide +kernel, by decide +kernel, by decide +kernel, by decide +kernel⟩,
   ⟨w5, by decide +kernel, by decide +kernel⟩,
   ⟨w3, [212090, 209129, 213551, 212127, 212131, 207953, 210509, 209150, 210877, 205661, 205935, 208324, 210152,
    205873, 205828, 206266, 205995, 211273, 213858, 207932, 211699, 207190, 207509], by decide +kernel,
    by decide +kernel, by decide +kernel⟩⟩

end LatticeAndPace

namespace CryptoAndMailbox

def wCrypto : State := { readyBase with crypto := { readyBase.crypto with running := some { stop := 2, op := .sign,
                                                                                            handle := none, label := .seccP256 },
                                                                          queue := [{ stop := 0, op := .hash, handle := none,
                                                                                      label := .seccP256 }, { stop := 3,
                                                                                                              op := .gcm,
                                                                                                              handle := some 3,
                                                                                                              label := .seccP256 }, { stop := 8,
                                                                                                                                      op := .sign,
                                                                                                                                      handle := some 7,
                                                                                                                                      label := .readingSign }],
                                                                          keys := [{ handle := 3, stop := 3, label := .seccP256 }, { handle := 7,
                                                                                                                                     stop := 8,
                                                                                                                                     label := .readingSign }] } }
def wCryptoH : State := { readyBase with crypto := { wCrypto.crypto with running := some { stop := 0, op := .hkdf,
                                                                                           handle := none, label := .roniAuth } } }
def wCryptoI : State := { readyBase with crypto := { wCrypto.crypto with running := none, queue := [] } }
def fl : Flit := { src := 3, port := 0, dst := 9, cls := 2, load := .other }
def wMbFull : State := { readyBase with trunk := { readyBase.trunk with pass := readyBase.trunk.pass.map (fun v => v.map (fun _ => [fl, fl])) } }
def w0 : State := wCrypto
def w1 : State := wCryptoH
def w2 : State := wCryptoI
def w3 : State := wMbFull
def w4 : State := readyBase


/-- The hypotheses of every clause of CryptoAndMailbox are met together by these states and operands. -/
theorem test_CryptoAndMailbox_hypotheses :
    (∃ (s : State) (r : CryptoReq), (r.stop = 8 ∨ r.stop = 2 ∨ r.stop = 3 ∨ r.stop = 0) ∧ handleOk s r = true ∧
      s.crypto.running = none)
    ∧ (∃ (s : State) (r : CryptoReq), (r.stop = 8 ∨ r.stop = 2 ∨ r.stop = 3 ∨ r.stop = 0) ∧ handleOk s r = true ∧
      s.crypto.running ≠ none)
    ∧ (∃ (s : State) (r : CryptoReq) (h : ℕ), (r.stop = 8 ∨ r.stop = 2 ∨ r.stop = 3 ∨ r.stop = 0) ∧ r.handle = some
      h ∧ (∀ k ∈ s.crypto.keys, k.handle = h → k.stop ≠ r.stop) ∧ CanReport 3080 2 s)
    ∧ (∃ (s : State) (r : CryptoReq), s.crypto.running = some r ∧ s.crypto.fellOp = false)
    ∧ (∃ (s : State) (m : Mail), s.safDev.coreDead.getLsbD ↑m.core = false ∧ s.trunk.mailWait = [] ∧
      s.trunk.mailbox.length ≤ Config.mailboxMore ∧ (passAt s 8 2).length < 2)
    ∧ (∃ (s : State) (m : Mail), s.safDev.coreDead.getLsbD ↑m.core = false ∧ (Config.mailboxMore <
      s.trunk.mailbox.length ∨ 2 ≤ (passAt s 8 2).length)) :=
  ⟨⟨w2, { stop := 2, op := Sys2Proof.CryptoOp.hmac, handle := none, label := Sys2Proof.KeyLabel.readingSign },
    by decide +kernel, by decide +kernel, by decide +kernel⟩,
   ⟨w0, { stop := 8, op := Sys2Proof.CryptoOp.hmac, handle := none, label := Sys2Proof.KeyLabel.readingSign },
    by decide +kernel, by decide +kernel, by decide +kernel⟩,
   ⟨w4, { stop := 8, op := Sys2Proof.CryptoOp.random, handle := some 7, label := Sys2Proof.KeyLabel.install }, 7,
    by decide +kernel, by decide +kernel, by decide +kernel, canReport_of _ _ _ (by decide +kernel)⟩,
   ⟨w0, { stop := 2, op := Sys2Proof.CryptoOp.sign, handle := none, label := Sys2Proof.KeyLabel.seccP256 },
    by decide +kernel, by decide +kernel⟩,
   ⟨w2, { core := 0, bough := 0, kind := 0 }, by decide +kernel, by decide +kernel, by decide +kernel,
    by decide +kernel⟩,
   ⟨w3, { core := 0, bough := 2, kind := 5 }, by decide +kernel, by decide +kernel⟩⟩

end CryptoAndMailbox

namespace CalendarAndBackupDomain

def wCal : State := { readyBase with bak := { readyBase.bak with caltime := 0xFFFFFFFE } }
def wVbak : State := { readyBase with bak := { readyBase.bak with onVbak := true } }
def w0 : State := wCal
def w1 : State := wVbak
def w3 : State := State.reset


/-- The hypotheses of every clause of CalendarAndBackupDomain are met together by these states and operands. -/
theorem test_CalendarAndBackupDomain_hypotheses :
    (∃ (s : State), s.bak.caltime.toNat < 4294967294)
    ∧ (∃ (s : State), s.bak.caltime = 4294967294)
    ∧ (∃ (s : State), s.bak.caltime = 4294967295)
    ∧ (∃ (s : State), s.bak.caltime = 4294967294)
    ∧ (∃ (s : State), s.bak.onVbak = true) :=
  ⟨⟨w1, by decide +kernel⟩,
   ⟨w0, by decide +kernel⟩,
   ⟨w3, by decide +kernel⟩,
   ⟨w0, by decide +kernel⟩,
   ⟨w1, by decide +kernel⟩⟩

end CalendarAndBackupDomain

namespace SuppliesAndTemperatures

def wWarned : State := { readyBase with supply := { readyBase.supply with warned := true } }
def wShut : State := { readyBase with supply := { readyBase.supply with shutdown := true }, safDev := { readyBase.safDev with fsCauses := [.thermal] },
                                      auxDev := { readyBase.auxDev with thermalOff := true } }
def wTrip (m : BitVec 13) : State := { readyBase with supply := { readyBase.supply with tripped := m, inRange := ~~~m,
                                                                                        resetHeld := m &&& 0x1F != 0 } }
def wDriven : State := { readyBase with saf := readyBase.saf.map (fun f => { f with coils := f.coils.map (fun c => { c with driven := true }) }) }
def rh (s : State) : State := { s with supply := { s.supply with rstHold := true } }
def w1 : State := rh (wTrip 1)
def w3 : State := wWarned
def w4 : State := wShut
def w6 : State := wTrip 4
def w7 : State := wTrip 0x20
def w8 : State := wDriven
def w9 : State := readyBase
def w10 : State := readyBase
def w11 : State := State.reset


/-- The hypotheses of every clause of SuppliesAndTemperatures are met together by these states and operands. -/
theorem test_SuppliesAndTemperatures_hypotheses :
    (∃ (s : State) (id : Fin 13), s.supply.tripped.getLsbD id.val = false ∧ s.supply.resetHeld = false ∧
      s.start.released = true ∧ id.val ≤ 4 ∧ (s.bak.onVbak && s.bak.lost) = false ∧ ∀ r ∈ s.log.held ++
      s.log.queue, r.code ≠ 265)
    ∧ (∃ (s : State) (id : Fin 13) (high : Bool), s.supply.tripped.getLsbD id.val = false ∧ s.supply.resetHeld =
      false ∧ s.start.released = true ∧ (id.val ≤ 4 ∨ id.val = 8) ∧ CanReport 265 2 s ∧ (id.val ≤ 4 → high =
      true))
    ∧ (∃ (s : State) (id : Fin 13), s.supply.tripped.getLsbD id.val = false ∧ s.supply.resetHeld = false ∧
      s.start.released = true ∧ id.val = 5)
    ∧ (∃ (s : State) (id : Fin 13), s.supply.tripped.getLsbD id.val = false ∧ (s.supply.resetHeld = true ∨
      s.start.released = false) ∧ (s.bak.onVbak && s.bak.lost) = false)
    ∧ (∃ (s : State) (l : ℤ), bitOf s.sysTempWarn 31 = true ∧ s.supply.warned = false ∧ warnLevel s ≤ l ∧ CanReport
      267 5 s)
    ∧ (∃ (s : State) (l : ℤ), s.supply.warned = true ∧ warnLevel s - 5 < l)
    ∧ (∃ (s : State), s.supply.shutdown = false ∧ FsCause.thermal ∉ s.safDev.fsCauses)
    ∧ (∃ (s : State), s.supply.shutdown = true)
    ∧ (∃ (ns : ℕ), 1000 ≤ ns)
    ∧ (∃ (ns : ℕ), ns < 100) :=
  ⟨⟨w3, 2, by decide +kernel, by decide +kernel, by decide +kernel, by decide +kernel, by decide +kernel,
    by decide +kernel⟩,
   ⟨w7, 2, true, by decide +kernel, by decide +kernel, by decide +kernel, by decide +kernel, canReport_of _ _ _
    (by decide +kernel), by decide +kernel⟩,
   ⟨w10, 5, by decide +kernel, by decide +kernel, by decide +kernel, by decide +kernel⟩,
   ⟨w1, 6, by decide +kernel, by decide +kernel, by decide +kernel⟩,
   ⟨w8, 171, by decide +kernel, by decide +kernel, by decide +kernel, canReport_of _ _ _ (by decide +kernel)⟩,
   ⟨w3, 500, by decide +kernel, by decide +kernel⟩,
   ⟨w3, by decide +kernel, by decide +kernel⟩,
   ⟨w4, by decide +kernel⟩,
   ⟨4096, by decide +kernel⟩,
   ⟨4, by decide +kernel⟩⟩

end SuppliesAndTemperatures

namespace StartSequence

def bankBody (part : Nat) : List Byte :=
  ascii "RBNK" ++ leN 1 part ++ leN 1 8 ++ leN 1 0 ++ leN 1 0 ++ leN 4 0 ++
    leN 4 1 ++ leN 2 0 ++ leN 2 9 ++ sha256 []
def bankHdr (part : Nat) : List Byte :=
  withCrc (padTo 252 (bankBody part ++ beN 96 (Config.codeSignature (bankBody
    part)).toNat))
def atP (p : Nat) : State := { readyBase with start := { phase := p, done := p, released := true, rstOutN := true },
                                              log := {}, lat := { running := true } }
def flashOk : Flash := { readyBase.nv.flash with present := true, fw := #v[bankHdr 1, bankHdr 1], hw := #v[bankHdr 2, bankHdr 2] }
def wP4 : State := { atP 4 with nv := { readyBase.nv with flash := flashOk } }
def wP5 : State := { atP 5 with nv := { readyBase.nv with flash := flashOk } }
def vend : Root := { shareA := 5, shareB := 9, check := checkWord (padTo 32 (beN 32 12)) }
def imgSt : State := { atP 3 with nv := { readyBase.nv with life := 0, flash := flashOk }, bak := { readyBase.bak with roots := #v[some vend, none, none, none] } }
def image : List Byte :=
  let hdr := withCrc (padTo 60 (ascii "RNF1" ++ leN 2 1 ++ leN 2 64 ++ leN 4 104 ++ leN 2 1
    ++ leN 1 0 ++ leN 1 1 ++ leN 4 3 ++ leN 4 0 ++ leN 1 8 ++ leN 1 0))
  let rec1 := withCrc (leN 2 0x1FFF ++ leN 2
    0)
  let b := hdr ++ rec1
  b ++ hmac (imgSt.derive ((imgSt.rootOf 0).getD []) .roniAuth) b
def wP3 : State := { imgSt with nv := { imgSt.nv with flash := { flashOk with fw := #v[[], []], ronif := #v[image, image] } } }
def wP1 : State := { atP 1 with nv := { readyBase.nv with flash := { flashOk with starts := [{ opstamp := 0x0000050000000123,
                                                                                               caltime := 0 }] } } }
def wP1scrap : State := { atP 1 with nv := { wP1.nv with life := 7 } }
def wP6w : State := { atP 6 with start := { (atP 6).start with waitSupply := true } }
def wP6n : State := { atP 6 with supply := { readyBase.supply with inRange := 0x1F } }
def wP6e : State := { atP 6 with nv := { readyBase.nv with flash := { flashOk with half := #v[{ erased := false,
                                                                                                headOk := false,
                                                                                                snapshot := [],
                                                                                                generation := 0,
                                                                                                entries := [] }, { erased := false,
                                                                                                                   headOk := false,
                                                                                                                   snapshot := [],
                                                                                                                   generation := 0,
                                                                                                                   entries := [] }] } } }
def wP6o : State := { atP 6 with nv := { readyBase.nv with flash := { flashOk with half := #v[{ erased := true, headOk := false,
                                                                                                snapshot := [],
                                                                                                generation := 0,
                                                                                                entries := [] }, { erased := true,
                                                                                                                   headOk := false,
                                                                                                                   snapshot := [],
                                                                                                                   generation := 0,
                                                                                                                   entries := [] }] } } }
def lf (s : State) : State := { s with start := { s.start with loadHalts := 2 } }
def sn (s : State) : State := { s with start := { s.start with stopNext := some (1, 3) } }
def w0 : State := { State.reset with nv := { State.reset.nv with flash := { State.reset.nv.flash with present := false } } }
def w3 : State := State.reset
def w4 : State := wP1
def w5 : State := wP1scrap
def w6 : State := atP 1
def w7 : State := atP 2
def w8 : State := wP3
def w10 : State := wP4
def w11 : State := atP 4
def w12 : State := wP5
def w13 : State := atP 5
def w14 : State := atP 6
def w15 : State := wP6w
def w16 : State := wP6n
def w17 : State := wP6e
def w18 : State := wP6o
def w19 : State := atP 7
def w20 : State := lf (atP 3)
def w21 : State := lf (atP 4)
def w22 : State := lf (atP 5)
def w23 : State := lf (atP 6)
def w24 : State := sn (atP 2)

theorem bank_bytes (part x c : Nat) :
    areaBytes (padTo 252 (bankBody part ++ beN 96 x) ++ leN 4 c) 0 256 = padTo 252 (bankBody part ++ beN 96 x) ++ leN 4 c := by
  have : (padTo 252 (bankBody part ++ beN 96 x) ++ leN 4 c).length = 256 := rfl
  simp [areaBytes, List.take_of_length_le, this]
theorem bankOk_bankHdr (part : Nat) (h : part = 1 ∨ part = 2) : bankOk part (bankHdr part) = true := by
  have hb := bank_bytes part (Config.codeSignature (bankBody part)).toNat
    (crc32c (padTo 252 (bankBody part ++ beN 96 (Config.codeSignature (bankBody part)).toNat)))
  have hc : crcHolds (bankHdr part) = true := crcHolds_withCrc _
  have hs : bytesAt (bankHdr part) 52 96 = beN 96 (Config.codeSignature (bankBody part)).toNat := by
    rcases h with rfl | rfl <;> rfl
  have hm : bytesAt (bankHdr part) 0 52 = bankBody part := by rcases h with rfl | rfl <;> rfl
  have hv : codeKeyVerify (bytesAt (bankHdr part) 0 52) (bytesAt (bankHdr part) 52 96) = true := by
    rw [hm, hs]; simp [codeKeyVerify]
  have e : areaBytes (bankHdr part) 0 256 = bankHdr part := hb
  unfold bankOk
  simp only [e, hc, hv, Bool.and_true]
  rcases h with rfl | rfl <;> decide +kernel

theorem pickBank_firmware : pickBank wP4 1 = some 0 := by
  have h : bankPasses wP4 1 (activeArea (dirNow wP4) 1) = true := by
    rw [bankPasses, show areaOf wP4 1 (activeArea (dirNow wP4) 1) = bankHdr 1 from rfl, bankOk_bankHdr 1 (.inl rfl)]
    decide +kernel
  rw [pickBank, h]
  rfl
theorem pickBank_heartwood : pickBank wP5 2 = some 0 := by
  have h : bankPasses wP5 2 (activeArea (dirNow wP5) 2) = true := by
    rw [bankPasses, show areaOf wP5 2 (activeArea (dirNow wP5) 2) = bankHdr 2 from rfl, bankOk_bankHdr 2 (.inr rfl)]
    decide +kernel
  rw [pickBank, h]
  rfl

/-- The hypotheses of every clause of StartSequence are met together by these states and operands. -/
theorem test_StartSequence_hypotheses :
    (∃ (s : State), s.start.released = false ∧ resetFree s = true ∧ s.nv.flash.present = true)
    ∧ (∃ (s : State), atPhase s 1 = true ∧ s.start.stopNext = none ∧ s.lifecycle ≠ lcScrapped)
    ∧ (∃ (s : State) (p : PatternTest), atPhase s 2 = true ∧ s.start.stopNext = none ∧ beyondRepair p = false)
    ∧ (∃ (s : State), atPhase s 3 = true ∧ loadFailed s = false ∧ imgCheck s (acceptedFormats s) (areaOf s 0 (dirNow
      s).ronif) = none)
    ∧ (∃ (s : State) (i : ℕ), atPhase s 4 = true ∧ loadFailed s = false ∧ pickBank s 1 = some i)
    ∧ (∃ (s : State) (i : ℕ), atPhase s 5 = true ∧ loadFailed s = false ∧ pickBank s 2 = some i)
    ∧ (∃ (s : State), atPhase s 6 = true ∧ s.start.waitSupply = false ∧ loadFailed s = false ∧ startSupplies s =
      false)
    ∧ (∃ (s : State), s.start.phase = 6 ∧ s.start.waitSupply = true ∧ startSupplies s = true ∧ s.supply.tripped &&&
      s.start.waitFor = 0)
    ∧ (∃ (s : State) (c : SelfCheck), atPhase s 6 = true ∧ s.start.waitSupply = false ∧ loadFailed s = false ∧
      startSupplies s = true ∧ deviceStep c = none ∧ (rebuildLedger (selfCheck c s)).isSome = true)
    ∧ (∃ (s : State), s.start.phase = 7 ∧ s.start.done = 7)
    ∧ (∃ (s : State), s.start.released = false ∧ resetFree s = true ∧ s.nv.flash.present = false)
    ∧ (∃ (s : State), atPhase s 1 = true ∧ s.start.stopNext = none ∧ s.lifecycle = lcScrapped)
    ∧ (∃ (s : State), atPhase s 1 = true ∧ s.start.stopNext = none ∧ s.lifecycle ≠ lcScrapped)
    ∧ (∃ (s : State) (k : ℕ) (r : ℕ), s.start.stopNext = some (k, r))
    ∧ (∃ (s : State) (p : PatternTest), s.start.stopNext = none ∧ atPhase s 2 = true ∧ beyondRepair p = true)
    ∧ (∃ (s : State), loadFailed s = true ∧ atPhase s 3 = true)
    ∧ (∃ (s : State), loadFailed s = true ∧ atPhase s 4 = true)
    ∧ (∃ (s : State), loadFailed s = true ∧ atPhase s 5 = true)
    ∧ (∃ (s : State), loadFailed s = true ∧ atPhase s 6 = true ∧ s.start.waitSupply = false)
    ∧ (∃ (s : State), atPhase s 4 = true ∧ loadFailed s = false ∧ pickBank s 1 = none)
    ∧ (∃ (s : State), atPhase s 5 = true ∧ loadFailed s = false ∧ pickBank s 2 = none)
    ∧ (∃ (s : State) (c : SelfCheck), atPhase s 6 = true ∧ s.start.waitSupply = false ∧ loadFailed s = false ∧
      startSupplies s = true ∧ deviceStep c ≠ none)
    ∧ (∃ (s : State) (c : SelfCheck), atPhase s 6 = true ∧ s.start.waitSupply = false ∧ loadFailed s = false ∧
      startSupplies s = true ∧ deviceStep c = none ∧ rebuildLedger (selfCheck c s) = none) :=
  ⟨⟨w3, by decide +kernel, by decide +kernel, by decide +kernel⟩,
   ⟨w4, by decide +kernel, by decide +kernel, by decide +kernel⟩,
   ⟨w7, { cells := [], codecOk := true, spareFails := false, beyondSpares := false }, by decide +kernel,
    by decide +kernel, by decide +kernel⟩,
   ⟨w8, by decide +kernel, by decide +kernel, by decide +kernel⟩,
   ⟨w10, 0, by decide +kernel, by decide +kernel, pickBank_firmware⟩,
   ⟨w12, 0, by decide +kernel, by decide +kernel, pickBank_heartwood⟩,
   ⟨w16, by decide +kernel, by decide +kernel, by decide +kernel, by decide +kernel⟩,
   ⟨w15, by decide +kernel, by decide +kernel, by decide +kernel, by decide +kernel⟩,
   ⟨w18, { lossSeen := true, leftFailsafe := true, linkOk := true, tripLineBad := 4, switchBad := 0x000000000000,
           stuckOn := 0x000000000000, contactClosed := 0, residualHigh := 0, insulationBad := 4, estopDiffer := false },
    by decide +kernel, by decide +kernel, by decide +kernel, by decide +kernel, by decide +kernel, by decide +kernel⟩,
   ⟨w19, by decide +kernel, by decide +kernel⟩,
   ⟨w0, by decide +kernel, by decide +kernel, by decide +kernel⟩,
   ⟨w5, by decide +kernel, by decide +kernel, by decide +kernel⟩,
   ⟨w6, by decide +kernel, by decide +kernel, by decide +kernel⟩,
   ⟨w24, 1, 3, rfl⟩,
   ⟨w7, { cells := [(34, 4, 11)], codecOk := false, spareFails := true, beyondSpares := true }, by decide +kernel,
    by decide +kernel, by decide +kernel⟩,
   ⟨w20, by decide +kernel, by decide +kernel⟩,
   ⟨w21, by decide +kernel, by decide +kernel⟩,
   ⟨w22, by decide +kernel, by decide +kernel⟩,
   ⟨w23, by decide +kernel, by decide +kernel, by decide +kernel⟩,
   ⟨w11, by decide +kernel, by decide +kernel, by decide +kernel⟩,
   ⟨w13, by decide +kernel, by decide +kernel, by decide +kernel⟩,
   ⟨w18, { lossSeen := false, leftFailsafe := true, linkOk := true, tripLineBad := 0, switchBad := 0x000000000000,
           stuckOn := 0x000000000000, contactClosed := 4, residualHigh := 0, insulationBad := 0, estopDiffer := false },
    by decide +kernel, by decide +kernel, by decide +kernel, by decide +kernel, by decide +kernel⟩,
   ⟨w17, { lossSeen := true, leftFailsafe := true, linkOk := true, tripLineBad := 0, switchBad := 0x000000001000,
           stuckOn := 0x000000000000, contactClosed := 0, residualHigh := 4, insulationBad := 0, estopDiffer := false },
    by decide +kernel, by decide +kernel, by decide +kernel, by decide +kernel, by decide +kernel, by decide +kernel⟩⟩

end StartSequence

namespace Commits

def snapSt (sub : Nat) (cells : List Host.Cell) (pass : Bool) (dev : Bool) (left : BitVec 8) : State := { readyBase with host := { readyBase.host with
  snaps := [(sub, cells)],
                                                                                                                                   pendingC := BitVec.ofNat 16 (2^sub),
                                                                                                                                   rejected := BitVec.ofNat 16 (2^sub),
                                                                                                                                   passed := if pass then BitVec.ofNat 16 (2^sub) else 0,
                                                                                                                                   devLeft := if dev then BitVec.ofNat 16 (2^sub) else 0,
  vehLeft := left,
                                                                                                                                   sesLeft := left,
                                                                                                                                   safLeft := left,
                                                                                                                                   mtrLeft := left,
                                                                                                                                   nrgLeft := left } }
def w0 : State := State.reset
def w4 : State := snapSt 9 [(0x9003, 5)] true true 0
def w9 : State := snapSt 0xB [(0xB003,0)] false true 0
def w12 : State := snapSt 4 [] false false 4
def w13 : State := snapSt 2 [] true false 4
def w15 : State := snapSt 2 [] false true 0
def w20 : State := snapSt 2 [(0x2087, 0xC0)] false true 4
def w23 : State := snapSt 9 [(0x9003, 0xFF)] false true 0
def w24 : State := readyBase


/-- The hypotheses of every clause of Commits are met together by these states and operands. -/
theorem test_Commits_hypotheses :
    (∃ (s : State), s.open3 = true)
    ∧ (∃ (s : State), s.open3 = false)
    ∧ (∃ (s : State) (sub : Fin 16) (r : ℕ), s.ready = true ∧ commitPending s sub.val = true ∧ sub ≠ 7 ∧
      s.host.passed.getLsbD sub.val = false ∧ snapVerdict s sub.val = some r ∧ CanReport 275 2 s ∧
      s.host.devLeft.getLsbD sub.val = true ∧ deviceBoundary s sub.val = true)
    ∧ (∃ (s : State) (sub : Fin 16) (r : ℕ) (b : Bough), s.ready = true ∧ commitPending s sub.val = true ∧ sub ≠ 7 ∧
      s.host.passed.getLsbD sub.val = false ∧ snapVerdict s sub.val = some r ∧ CanReport 275 2 s ∧ (leftMask s
      sub.val).getLsbD b.val = true ∧ boughBoundary s (sub.val) b = true)
    ∧ (∃ (s : State) (sub : Fin 16) (m : List Host.Cell), s.ready = true ∧ snapOf s sub.val = some m ∧ sub ≠ 7 ∧
      s.host.devLeft.getLsbD sub.val = true ∧ deviceBoundary s sub.val = true ∧ leftMask s sub.val = 0 ∧
      (s.host.passed.getLsbD sub.val = true ∨ snapVerdict s sub.val = none))
    ∧ (∃ (s : State) (sub : Fin 16) (m : List Host.Cell) (b : Bough), s.ready = true ∧ snapOf s sub.val = some m ∧
      (sub = 2 ∨ sub = 3 ∨ sub = 4) ∧ leftMask s sub.val = BitVec.ofNat 8 (2 ^ b.val) ∧ boughBoundary s
      (sub.val) b = true ∧ s.host.devLeft.getLsbD sub.val = false ∧ (s.host.passed.getLsbD sub.val = true ∨
      snapVerdict s sub.val = none)) :=
  ⟨⟨w24, by decide +kernel⟩,
   ⟨w0, by decide +kernel⟩,
   ⟨w23, 9, 4, by decide +kernel, by decide +kernel, by decide +kernel, by decide +kernel, by decide +kernel,
    canReport_of _ _ _ (by decide +kernel), by decide +kernel, by decide +kernel⟩,
   ⟨w20, 2, 4, 2, by decide +kernel, by decide +kernel, by decide +kernel, by decide +kernel, by decide +kernel,
    canReport_of _ _ _ (by decide +kernel), by decide +kernel, by decide +kernel⟩,
   ⟨w15, 2, [], by decide +kernel, by decide +kernel, by decide +kernel, by decide +kernel, by decide +kernel,
    by decide +kernel, by decide +kernel⟩,
   ⟨w12, 4, [], 2, by decide +kernel, by decide +kernel, by decide +kernel, by decide +kernel, by decide +kernel,
    by decide +kernel, by decide +kernel⟩⟩

end Commits

namespace WindowWrites

def w0 : State := readyBase
def w1 : State := { readyBase with host := { readyBase.host with shadow := [(0x4000, 1)], bulk := [(5, 7)] } }


/-- The hypotheses of every clause of WindowWrites are met together by these states and operands. -/
theorem test_WindowWrites_hypotheses :
    (∃ (s : State), globalOpen s = true)
    ∧ (∃ (s : State) (a : ℕ) (bs : List Byte), a + bs.length ≤ 65536 ∧ s.open3 = true ∧ MemOk s)
    ∧ (∃ (s : State) (a : ℕ) (bs : List Byte), a + bs.length ≤ 262144 ∧ s.open2 = true ∧ bulkHeld s = false ∧ MemOk
      s) :=
  ⟨⟨w1, by decide +kernel⟩,
   ⟨w1, 255, [], by decide +kernel, by decide +kernel, memOk_of _ (by decide +kernel)⟩,
   ⟨w0, 6, [83, 3, 2, 255, 82, 83, 2, 3, 0, 9, 255, 7, 1, 82, 0, 7, 9, 2, 1, 7, 83, 82, 83, 83, 2, 83, 1, 7, 255, 3,
    1, 7], by decide +kernel, by decide +kernel, by decide +kernel, memOk_of _ (by decide +kernel)⟩⟩

end WindowWrites

namespace HostPortLink

def msg (t len : Nat) (body : List Byte) : List Byte := leN 2 t ++ [2] ++ [9] ++ leN 2 len ++ leN 2 0x1234 ++ body
def cqs (m : List Byte) : State := { readyBase with host := { readyBase.host with cq := [m, msg 0x8303 0 []] } }
def wCqFull : State := { readyBase with host := { readyBase.host with cq := List.replicate 5 (List.replicate 3270 0) } }
def wBist : State := { readyBase with host := { readyBase.host with bistRunning := true } }
def wEq : State := { readyBase with host := { readyBase.host with eq := [{ type := 0x0109, bough := 255, seq := 0, tag := 0,
                                                                           body := [1, 0] }, { type := 0x0105, bough := 255,
                                                                                               seq := 1, tag := 0,
                                                                                               body := [1, 0, 0, 0] }] } }
def wBulk3 : State := { readyBase with host := { readyBase.host with bulkState := 3 } }
def w0 : State := cqs (msg 0x8002 3 [1,2,3])
def w3 : State := cqs (msg 0x8001 4 [0,0,0,0])
def w4 : State := cqs (msg 0x9001 0 [])
def w5 : State := cqs (msg 0x8301 1 [7])
def w9 : State := wCqFull
def w10 : State := wBist
def w11 : State := wEq
def w12 : State := wBulk3


/-- The hypotheses of every clause of HostPortLink are met together by these states and operands. -/
theorem test_HostPortLink_hypotheses :
    (∃ (s : State) (bs : List Byte), s.open2 = true ∧ 8 ≤ bs.length ∧ 8 + msgLen bs ≤ bs.length ∧ 8 + msgLen bs +
      cqUsed s ≤ 16384)
    ∧ (∃ (s : State) (bs : List Byte), s.open2 = true ∧ 8 ≤ bs.length ∧ bs.length < 8 + msgLen bs ∧ CanAnswer s)
    ∧ (∃ (s : State) (bs : List Byte), s.open2 = true ∧ 8 ≤ bs.length ∧ 8 + msgLen bs ≤ bs.length ∧ 16384 < 8 +
      msgLen bs + cqUsed s)
    ∧ (∃ (s : State) (m : List Byte) (rest : List (List Byte)) (r : ℕ), s.host.cq = m :: rest ∧ refusal s m = some r
      ∧ CanAnswer s)
    ∧ (∃ (s : State) (m : List Byte) (rest : List (List Byte)), s.host.cq = m :: rest ∧ refusal s m = none ∧ msgType
      m = 32770 ∧ CanAnswer s)
    ∧ (∃ (s : State) (m : List Byte) (rest : List (List Byte)) (i : Instr), s.host.cq = m :: rest ∧ refusal s m =
      none ∧ hostInstr m = some i)
    ∧ (∃ (s : State) (m : List Byte) (rest : List (List Byte)), s.host.cq = m :: rest ∧ refusal s m = none ∧
      hostInstr m = none)
    ∧ (∃ (s : State), globalOpen s = true)
    ∧ (∃ (s : State), globalOpen s = true)
    ∧ (∃ (s : State), globalOpen s = true ∧ s.host.bulkState = 3)
    ∧ (∃ (s : State) (m : Msg) (rest : List Msg) (n : ℕ), s.open2 = true ∧ s.host.eq = m :: rest ∧ n < 8 +
      m.body.length)
    ∧ (∃ (s : State) (m : Msg) (rest : List Msg), s.open2 = true ∧ s.host.eq = m :: rest ∧ 8 + m.body.length ≤ 4096)
    ∧ (∃ (a : ℕ), a ≠ 8192)
    ∧ (∃ (s : State), s.host.bistRunning = true)
    ∧ (∃ (s : State) (body : List Byte), CanAnswer s ∧ body.length ≤ 4088) :=
  ⟨⟨w3, [2, 128, 2, 9, 42, 0, 52, 18, 7, 7, 7, 7, 7, 7, 7, 7, 7, 7, 7, 7, 7, 7, 7, 7, 7, 7, 7, 7, 7, 7, 7, 7, 7, 7, 7,
    7, 7, 7, 7, 7, 7, 7, 7, 7, 7, 7, 7, 7, 7, 7], by decide +kernel, by decide +kernel, by decide +kernel,
    by decide +kernel⟩,
   ⟨w3, [95, 8, 5, 12, 255, 126, 8, 255, 214, 181, 255, 253, 115, 0, 64, 255, 1], by decide +kernel,
    by decide +kernel, by decide +kernel, canAnswer_of _ (by decide +kernel)⟩,
   ⟨w9, [2, 128, 2, 9, 27, 1, 52, 18, 7, 7, 7, 7, 7, 7, 7, 7, 7, 7, 7, 7, 7, 7, 7, 7, 7, 7, 7, 7, 7, 7, 7, 7, 7, 7, 7,
    7, 7, 7, 7, 7, 7, 7, 7, 7, 7, 7, 7, 7, 7, 7, 7, 7, 7, 7, 7, 7, 7, 7, 7, 7, 7, 7, 7, 7, 7, 7, 7, 7, 7, 7, 7, 7, 7,
    7, 7, 7, 7, 7, 7, 7, 7, 7, 7, 7, 7, 7, 7, 7, 7, 7, 7, 7, 7, 7, 7, 7, 7, 7, 7, 7, 7, 7, 7, 7, 7, 7, 7, 7, 7, 7, 7,
    7, 7, 7, 7, 7, 7, 7, 7, 7, 7, 7, 7, 7, 7, 7, 7, 7, 7, 7, 7, 7, 7, 7, 7, 7, 7, 7, 7, 7, 7, 7, 7, 7, 7, 7, 7, 7, 7,
    7, 7, 7, 7, 7, 7, 7, 7, 7, 7, 7, 7, 7, 7, 7, 7, 7, 7, 7, 7, 7, 7, 7, 7, 7, 7, 7, 7, 7, 7, 7, 7, 7, 7, 7, 7, 7, 7,
    7, 7, 7, 7, 7, 7, 7, 7, 7, 7, 7, 7, 7, 7, 7, 7, 7, 7, 7, 7, 7, 7, 7, 7, 7, 7, 7, 7, 7, 7, 7, 7, 7, 7, 7, 7, 7, 7,
    7, 7, 7, 7, 7, 7, 7, 7, 7, 7, 7, 7, 7, 7, 7, 7, 7, 7, 7, 7, 7, 7, 7, 7, 7, 7, 7, 7, 7, 7, 7, 7, 7, 7, 7, 7, 7, 7,
    7, 7, 7, 7, 7, 7, 7, 7, 7, 7, 7, 7, 7, 7, 7, 7, 7, 7, 7, 7, 7, 7, 7, 7, 7, 7, 7, 7], by decide +kernel,
    by decide +kernel, by decide +kernel, by decide +kernel⟩,
   ⟨w4, [1, 144, 2, 9, 0, 0, 52, 18], [[3, 131, 2, 9, 0, 0, 52, 18]], 1, by decide +kernel, by decide +kernel,
    canAnswer_of _ (by decide +kernel)⟩,
   ⟨w0, [2, 128, 2, 9, 3, 0, 52, 18, 1, 2, 3], [[3, 131, 2, 9, 0, 0, 52, 18]], by decide +kernel, by decide +kernel,
    by decide +kernel, canAnswer_of _ (by decide +kernel)⟩,
   ⟨w0, [2, 128, 2, 9, 3, 0, 52, 18, 1, 2, 3], [[3, 131, 2, 9, 0, 0, 52, 18]], Sys2Proof.Instr.hstEcho { bough := 2,
                                                                                                         tag := 4660 }
    [1, 2, 3], by decide +kernel, by decide +kernel, by decide +kernel⟩,
   ⟨w5, [1, 131, 2, 9, 1, 0, 52, 18, 7], [[3, 131, 2, 9, 0, 0, 52, 18]], by decide +kernel, by decide +kernel,
    by decide +kernel⟩,
   ⟨w4, by decide +kernel⟩,
   ⟨w9, by decide +kernel⟩,
   ⟨w12, by decide +kernel, by decide +kernel⟩,
   ⟨w11, { type := 265, bough := 255, seq := 0, tag := 0, body := [1, 0] }, [{ type := 261, bough := 255, seq := 1,
                                                                               tag := 0, body := [1, 0, 0, 0] }], 4,
    by decide +kernel, by decide +kernel, by decide +kernel⟩,
   ⟨w11, { type := 265, bough := 255, seq := 0, tag := 0, body := [1, 0] }, [{ type := 261, bough := 255, seq := 1,
                                                                               tag := 0, body := [1, 0, 0, 0] }],
    by decide +kernel, by decide +kernel, by decide +kernel⟩,
   ⟨6, by decide +kernel⟩,
   ⟨w10, by decide +kernel⟩,
   ⟨w5, [22, 255, 81, 107, 230, 4, 255, 255, 0, 255, 16, 128, 128, 32, 2, 255, 255, 255], canAnswer_of _
    (by decide +kernel), by decide +kernel⟩⟩

end HostPortLink

namespace PilotPlateausAndProximity

def pcfg (s : State) : State := withCfg [(0x2080, 0x90000140), (0x2084, 0x0000C000 + 330)] s
def p1 (p : Port) : State := pcfg (prt p (ssn { state := .connected }))
def wFault : State := p1 { state := .fault, out := .f }
def wPP (n c : Nat) : State := p1 { state := .B, out := .x1, ppCand := c, ppRun := n }
def valid (s : State) : State := { s with links := s.links.map (fun l => { l with validating := true }) }
def pps (sum : Int) (run cand code : Nat) : State := withCfg [(0x2084, 0x014A014A), (0x53EC, 0x800000)] (p1 { state := .B,
                                                                                                              out := .x1,
                                                                                                              ppSum := sum,
                                                                                                              ppN := 1,
                                                                                                              ppRun := run,
                                                                                                              ppCand := cand,
                                                                                                              ppCode := code })
def w1 : State := pps 1320000 1 3 0
def w5 : State := pps 1320000 2 3 0
def w18 : State := wFault
def w20 : State := p1 { state := .B, out := .x1, badRun := 9 }
def w21 : State := p1 { state := .C, out := .x1, cand := .B, candRun := 2 }
def w22 : State := valid (p1 { state := .C, out := .x2, cand := .B, candRun := 2 })
def w24 : State := p1 { state := .B, out := .x2, cand := .C, candRun := 0 }
def w35 : State := withCfg [(0x2084, 0x80002800)] (wPP 0 0)


/-- The hypotheses of every clause of PilotPlateausAndProximity are met together by these states and operands. -/
theorem test_PilotPlateausAndProximity_hypotheses :
    (∃ (s : State) (b : Bough), pilotLost s b = false ∧ (s.ports[b].out = OutMode.off ∨ s.ports[b].out =
      OutMode.f))
    ∧ (∃ (s : State) (b : Bough) (mv : ℤ), pilotLost s b = false ∧ (s.ports[b].out = OutMode.x1 ∨ s.ports[b].out =
      OutMode.x2) ∧ inHold s.ports[b].state mv = true ∧ s.ports[b].state ≠ PilotState.fault ∧ s.ports[b].fresh
      = false)
    ∧ (∃ (s : State) (b : Bough) (mv : ℤ) (st : PilotState) (n : ℕ), pilotLost s b = false ∧ (s.ports[b].out =
      OutMode.x1 ∨ s.ports[b].out = OutMode.x2) ∧ classifyPlateau s.ports[b].state mv = some st ∧ st ≠
      s.ports[b].state ∧ s.ports[b].state ≠ PilotState.fault ∧ s.ports[b].cand = st ∧ s.ports[b].candRun = n ∧
      n < 2)
    ∧ (∃ (s : State) (b : Bough) (mv : ℤ), pilotLost s b = false ∧ (s.ports[b].out = OutMode.x1 ∨ s.ports[b].out =
      OutMode.x2) ∧ classifyPlateau PilotState.C mv = some PilotState.B ∧ s.ports[b].state = PilotState.C ∧
      s.ports[b].cand = PilotState.B ∧ s.ports[b].candRun = 2 ∧ s.ses[b].state = SesState.connected ∧
      ((pilotDrive s b).1 = OutMode.x1 ∨ (pilotDrive s b).1 = OutMode.x2))
    ∧ (∃ (s : State) (b : Bough) (mv : ℤ), pilotLost s b = false ∧ s.ports[b].out = OutMode.x1 ∧ classifyPlateau
      s.ports[b].state mv = none ∧ s.ports[b].badRun = 9 ∧ s.ports[b].state ≠ PilotState.fault)
    ∧ (∃ (s : State) (b : Bough) (mvs : List ℤ), s.ports[b].state = PilotState.fault ∧ heldOut s b = false ∧ forcedF
      s = false ∧ bitOf (s.vehPortCfg b) 31 = true ∧ pilotLost s b = false ∧ threeAB mvs 0 = false)
    ∧ (∃ (s : State) (b : Bough) (mvs : List ℤ), s.ports[b].state = PilotState.fault ∧ heldOut s b = false ∧ forcedF
      s = false ∧ bitOf (s.vehPortCfg b) 31 = true ∧ pilotLost s b = false ∧ threeAB mvs 0 = true ∧ s.ready =
      true ∧ s.stopped = false ∧ s.safDev.firstBeat = true ∧ s.log.fatalHold = false)
    ∧ (∃ (s : State) (b : Bough) (c : ℕ) (n : ℕ), fld (s.vehPpCfg b) 31 30 ≠ 2 ∧ chFails s.mtr[b] 14 = false ∧ 0 <
      s.ports[b].ppN ∧ ppClass (fld (s.vehPpCfg b) 31 30) (fld (s.vehPpCfg b) 28 16 * (s.ports[b].ppSum.toNat
      * (s.mtrFs (24 * b.val + 14)).toNat)) (10000 * fld (s.vehPpCfg b) 9 0 * s.ports[b].ppN * 2 ^ 23 -
      s.ports[b].ppSum.toNat * (s.mtrFs (24 * b.val + 14)).toNat) = c ∧ c ≠ s.ports[b].ppCode ∧
      s.ports[b].ppCand = c ∧ s.ports[b].ppRun = n ∧ n < 2)
    ∧ (∃ (s : State) (b : Bough) (c : ℕ) (n : ℕ), fld (s.vehPpCfg b) 31 30 ≠ 2 ∧ chFails s.mtr[b] 14 = false ∧ 0 <
      s.ports[b].ppN ∧ ppClass (fld (s.vehPpCfg b) 31 30) (fld (s.vehPpCfg b) 28 16 * (s.ports[b].ppSum.toNat
      * (s.mtrFs (24 * b.val + 14)).toNat)) (10000 * fld (s.vehPpCfg b) 9 0 * s.ports[b].ppN * 2 ^ 23 -
      s.ports[b].ppSum.toNat * (s.mtrFs (24 * b.val + 14)).toNat) = c ∧ c ≠ s.ports[b].ppCode ∧
      s.ports[b].ppCand = c ∧ s.ports[b].ppRun = n ∧ n = 2)
    ∧ (∃ (s : State) (b : Bough), fld (s.vehPpCfg b) 31 30 = 2) :=
  ⟨⟨w24, 7, by decide +kernel, by decide +kernel⟩,
   ⟨w24, 2, 9900, by decide +kernel, by decide +kernel, by decide +kernel, by decide +kernel, by decide +kernel⟩,
   ⟨w24, 2, 6000, Sys2Proof.Machine.PilotState.C, 0, by decide +kernel, by decide +kernel, by decide +kernel,
    by decide +kernel, by decide +kernel, by decide +kernel, by decide +kernel, by decide +kernel⟩,
   ⟨w21, 2, 9900, by decide +kernel, by decide +kernel, by decide +kernel, by decide +kernel, by decide +kernel,
    by decide +kernel, by decide +kernel, by decide +kernel⟩,
   ⟨w20, 2, 1600, by decide +kernel, by decide +kernel, by decide +kernel, by decide +kernel, by decide +kernel⟩,
   ⟨w18, 2, [0, 0, 6000, 0], by decide +kernel, by decide +kernel, by decide +kernel, by decide +kernel,
    by decide +kernel, by decide +kernel⟩,
   ⟨w18, 2, [9000, 9100, 9100], by decide +kernel, by decide +kernel, by decide +kernel, by decide +kernel,
    by decide +kernel, by decide +kernel, by decide +kernel, by decide +kernel, by decide +kernel, by decide +kernel⟩,
   ⟨w1, 2, 3, 1, by decide +kernel, by decide +kernel, by decide +kernel, by decide +kernel, by decide +kernel,
    by decide +kernel, by decide +kernel, by decide +kernel⟩,
   ⟨w5, 2, 3, 2, by decide +kernel, by decide +kernel, by decide +kernel, by decide +kernel, by decide +kernel,
    by decide +kernel, by decide +kernel, by decide +kernel⟩,
   ⟨w35, 2, by decide +kernel⟩⟩

end PilotPlateausAndProximity

namespace Association

def mac1 : List Byte := [1,2,3,4,5,6]
def run1 : List Byte := [9,9,9,9,9,9,9,9]
def mac2 : List Byte := [1,2,3,4,5,7]
def at1 : Vector Nat 8 := #v[40,40,10,40,40,40,40,40]
def at2 : Vector Nat 8 := #v[10,40,40,40,40,40,40,40]
def asg (slac : Nat) (r : SlacReq) (s : State := readyBase) : State := { prt { state := .B, out := .x2, slac := slac,
                                                                               winOpen := true } s with assoc := { readyBase.assoc with reqs := [{ mac := mac2,
                                                                                                                                                   runId := run1,
                                                                                                                                                   atten := at2 }, r] } }
def req (n : Nat) : SlacReq := { mac := mac1, runId := run1, atten := at1, assigned := some 2, sounds := List.replicate n at1,
                                 heard := n }
def drb (s : State) : State := { s with crypto := { s.crypto with drbgOk := true } }
def w2 : State := asg 2 (req 3)
def w3 : State := asg 3 (req 3)
def w4 : State := asg 3 (req 6)
def w5 : State := asg 3 { req 6 with sounds := List.replicate 6 (Vector.replicate 8 20) }
def w6 : State := drb (asg 3 { req 6 with confirmed := true })
def w7 : State := withCfg [(0x2400, 0x8028060C)] (asg 4 (req 3))
def w9 : State := lnk { validating := true, valCount := 2, toggles := #v[0,0,2,2,0,0,0,0] }
def w11 : State := prt { state := .B, slac := 5, winOpen := true }
def w14 : State := withCfg [(0x2080, 0xB8000140),(0x2000, 0xB8000140)] { readyBase with ports := readyBase.ports.map (fun _ => { state := .B,
                                                                                                                                 out := .x2,
                                                                                                                                 slac := 1,
                                                                                                                                 winOpen := true }),
                                                                                        assoc := { readyBase.assoc with reqs := [{ mac := mac2,
                                                                                                                                   runId := run1,
                                                                                                                                   atten := at2 },{ mac := mac1,
                                                                                                                                                    runId := run1,
                                                                                                                                                    atten := #v[12,40,14,40,40,40,40,40] }] } }


/-- The hypotheses of every clause of Association are met together by these states and operands. -/
theorem test_Association_hypotheses :
    (∃ (s : State) (mac : List Byte) (runId : List Byte), ∀ (r : SlacReq), findReq s mac runId = some r →
      r.assigned = none)
    ∧ (∃ (s : State) (mac : List Byte) (runId : List Byte) (r : SlacReq) (b : Fin 8), findReq s mac runId = some r ∧
      r.assigned = some b)
    ∧ (∃ (s : State) (mac : List Byte) (runId : List Byte) (r : SlacReq) (b : Bough), findReq s mac runId = some r ∧
      r.assigned = some b ∧ s.ports[b].slac = 3 ∧ r.heard < 10)
    ∧ (∃ (s : State) (mac : List Byte) (runId : List Byte) (r : SlacReq) (b : Bough), findReq s mac runId = some r ∧
      r.assigned = some b ∧ s.ports[b].slac = 3 ∧ r.sounds.length < 5 ∧ CanReport 518 7 s)
    ∧ (∃ (s : State) (mac : List Byte) (runId : List Byte) (r : SlacReq) (b : Bough), findReq s mac runId = some r ∧
      r.assigned = some b ∧ s.ports[b].slac = 3 ∧ 5 ≤ r.sounds.length ∧ soundsConfirm s r b = false ∧
      CanReport 518 7 s)
    ∧ (∃ (s : State) (mac : List Byte) (runId : List Byte) (r : SlacReq) (b : Bough), findReq s mac runId = some r ∧
      r.assigned = some b ∧ s.ports[b].slac = 3 ∧ 5 ≤ r.sounds.length ∧ soundsConfirm s r b = true)
    ∧ (∃ (s : State) (mac : List Byte) (runId : List Byte) (r : SlacReq) (b : Bough), findReq s mac runId = some r ∧
      r.assigned = some b ∧ r.confirmed = true ∧ s.crypto.drbgOk = true)
    ∧ (∃ (s : State) (b : Bough), answersMatching s b = true ∧ bitOf s.vehSlacCfg 31 = false)
    ∧ (∃ (s : State) (b : Bough), answersMatching s b = true ∧ bitOf s.vehSlacCfg 31 = true)
    ∧ (∃ (s : State) (b : Bough), s.links[b].validating = true)
    ∧ (∃ (s : State) (b : Bough), s.ports[b].winOpen = true ∧ s.ports[b].slac ≠ 5)
    ∧ (∃ (s : State) (b : Bough), s.ports[b].slac = 5) :=
  ⟨⟨w14, [1, 2, 3, 4, 5, 6], [1, 2, 3, 4, 5, 6], by decide +kernel⟩,
   ⟨w2, [1, 2, 3, 4, 5, 6], [9, 9, 9, 9, 9, 9, 9, 9], { mac := [1, 2, 3, 4, 5, 6], runId := [9, 9, 9, 9, 9, 9, 9, 9],
                                                        atten := #v[40, 40, 10, 40, 40, 40, 40, 40], startAtten := #v[90, 90, 90, 90, 90, 90, 90, 90],
                                                        profiles := [], sounds := [#v[40, 40, 10, 40, 40, 40, 40, 40], #v[40, 40, 10, 40, 40, 40, 40, 40], #v[40, 40, 10, 40, 40, 40, 40, 40]],
                                                        heard := 3, assigned := some 2, margin := 0, confirmed := false,
                                                        heardNow := false }, 2, by decide +kernel, by decide +kernel⟩,
   ⟨w3, [1, 2, 3, 4, 5, 6], [9, 9, 9, 9, 9, 9, 9, 9], { mac := [1, 2, 3, 4, 5, 6], runId := [9, 9, 9, 9, 9, 9, 9, 9],
                                                        atten := #v[40, 40, 10, 40, 40, 40, 40, 40], startAtten := #v[90, 90, 90, 90, 90, 90, 90, 90],
                                                        profiles := [], sounds := [#v[40, 40, 10, 40, 40, 40, 40, 40], #v[40, 40, 10, 40, 40, 40, 40, 40], #v[40, 40, 10, 40, 40, 40, 40, 40]],
                                                        heard := 3, assigned := some 2, margin := 0, confirmed := false,
                                                        heardNow := false }, 2, by decide +kernel, by decide +kernel,
    by decide +kernel, by decide +kernel⟩,
   ⟨w3, [1, 2, 3, 4, 5, 6], [9, 9, 9, 9, 9, 9, 9, 9], { mac := [1, 2, 3, 4, 5, 6], runId := [9, 9, 9, 9, 9, 9, 9, 9],
                                                        atten := #v[40, 40, 10, 40, 40, 40, 40, 40], startAtten := #v[90, 90, 90, 90, 90, 90, 90, 90],
                                                        profiles := [], sounds := [#v[40, 40, 10, 40, 40, 40, 40, 40], #v[40, 40, 10, 40, 40, 40, 40, 40], #v[40, 40, 10, 40, 40, 40, 40, 40]],
                                                        heard := 3, assigned := some 2, margin := 0, confirmed := false,
                                                        heardNow := false }, 2, by decide +kernel, by decide +kernel,
    by decide +kernel, by decide +kernel, canReport_of _ _ _ (by decide +kernel)⟩,
   ⟨w5, [1, 2, 3, 4, 5, 6], [9, 9, 9, 9, 9, 9, 9, 9], { mac := [1, 2, 3, 4, 5, 6], runId := [9, 9, 9, 9, 9, 9, 9, 9],
                                                        atten := #v[40, 40, 10, 40, 40, 40, 40, 40], startAtten := #v[90, 90, 90, 90, 90, 90, 90, 90],
                                                        profiles := [], sounds := [#v[20, 20, 20, 20, 20, 20, 20, 20], #v[20, 20, 20, 20, 20, 20, 20, 20], #v[20, 20, 20, 20, 20, 20, 20, 20], #v[20, 20, 20, 20, 20, 20, 20, 20], #v[20, 20, 20, 20, 20, 20, 20, 20], #v[20, 20, 20, 20, 20, 20, 20, 20]],
                                                        heard := 6, assigned := some 2, margin := 0, confirmed := false,
                                                        heardNow := false }, 2, by decide +kernel, by decide +kernel,
    by decide +kernel, by decide +kernel, by decide +kernel, canReport_of _ _ _ (by decide +kernel)⟩,
   ⟨w4, [1, 2, 3, 4, 5, 6], [9, 9, 9, 9, 9, 9, 9, 9], { mac := [1, 2, 3, 4, 5, 6], runId := [9, 9, 9, 9, 9, 9, 9, 9],
                                                        atten := #v[40, 40, 10, 40, 40, 40, 40, 40], startAtten := #v[90, 90, 90, 90, 90, 90, 90, 90],
                                                        profiles := [], sounds := [#v[40, 40, 10, 40, 40, 40, 40, 40], #v[40, 40, 10, 40, 40, 40, 40, 40], #v[40, 40, 10, 40, 40, 40, 40, 40], #v[40, 40, 10, 40, 40, 40, 40, 40], #v[40, 40, 10, 40, 40, 40, 40, 40], #v[40, 40, 10, 40, 40, 40, 40, 40]],
                                                        heard := 6, assigned := some 2, margin := 0, confirmed := false,
                                                        heardNow := false }, 2, by decide +kernel, by decide +kernel,
    by decide +kernel, by decide +kernel, by decide +kernel⟩,
   ⟨w6, [1, 2, 3, 4, 5, 6], [9, 9, 9, 9, 9, 9, 9, 9], { mac := [1, 2, 3, 4, 5, 6], runId := [9, 9, 9, 9, 9, 9, 9, 9],
                                                        atten := #v[40, 40, 10, 40, 40, 40, 40, 40], startAtten := #v[90, 90, 90, 90, 90, 90, 90, 90],
                                                        profiles := [], sounds := [#v[40, 40, 10, 40, 40, 40, 40, 40], #v[40, 40, 10, 40, 40, 40, 40, 40], #v[40, 40, 10, 40, 40, 40, 40, 40], #v[40, 40, 10, 40, 40, 40, 40, 40], #v[40, 40, 10, 40, 40, 40, 40, 40], #v[40, 40, 10, 40, 40, 40, 40, 40]],
                                                        heard := 6, assigned := some 2, margin := 0, confirmed := true,
                                                        heardNow := false }, 2, by decide +kernel, by decide +kernel,
    by decide +kernel, by decide +kernel⟩,
   ⟨w6, 2, by decide +kernel, by decide +kernel⟩,
   ⟨w7, 2, by decide +kernel, by decide +kernel⟩,
   ⟨w9, 2, by decide +kernel⟩,
   ⟨w6, 2, by decide +kernel, by decide +kernel⟩,
   ⟨w11, 2, by decide +kernel⟩⟩

end Association

namespace ModemFrames

def w0 : State := prt { state := .B, out := .x2, posMv := 9000 } (lnk { txBlocks := [{ seq := 1, attempts := 1 }],
                                                                        resend := true })

end ModemFrames

namespace VehicleDialogue

def vd (st : SesState) (proto : Nat) (dc : Bool) : State := withCfg ((0x2080, 0xD0000140) :: (if dc then [(0x4080,
    0x87000000 + 30)] else [])) (prt { state := .C, out := .x2, slac := 4, proto := proto } (ssn { state := st }))
def rooted (s : State) : State := { s with bak := { s.bak with roots := #v[none, some { shareA := 1, shareB := 2,
                                                                                        check := 0 }, none, none] } }
def hostEn (s : State) : State := withCfg [(0x3000, 0x80050000)] s
def lnkc (s : State) : State := { s with links := s.links.map (fun l => { l with conn := some 3 }) }
def w0 : State := vd .authorised 2 true
def w1 : State := vd .connected 1 false
def w3 : State := vd .authorised 0 false
def w4 : State := rooted (vd .authorising 2 true)
def w5 : State := hostEn (vd .connected 2 false)
def w6 : State := hostEn (vd .authorised 3 true)
def w7 : State := closedS (vd .charging 2 true)
def w8 : State := closedS (vd .charging 3 false)
def w9 : State := closedS (vd .energising 1 true)
def w11 : State := readyBase
def w13 : State := lnkc (vd .authorised 3 true)


/-- The hypotheses of every clause of VehicleDialogue are met together by these states and operands. -/
theorem test_VehicleDialogue_hypotheses :
    (∃ (s : State) (b : Bough), linked s b = false)
    ∧ (∃ (s : State) (b : Bough) (conn : ℕ) (list : List Proto) (tls : Bool) (suites : List Cipher) (p : Proto),
      linked s b = true ∧ s.ses[b].state ≠ SesState.stopping ∧ (∀ (c : ℕ), s.links[b].conn = some c → c =
      conn) ∧ List.find? (protoOk s b list tls suites) [Proto.iso20, Proto.iso2, Proto.din] = some p ∧
      CanReport 523 2 s)
    ∧ (∃ (s : State) (b : Bough) (conn : ℕ) (c : ℕ), linked s b = true ∧ s.ses[b].state ≠ SesState.stopping ∧
      s.links[b].conn = some c ∧ c ≠ conn)
    ∧ (∃ (s : State) (b : Bough) (r : V2G), linked s b = true ∧ s.ses[b].state ≠ SesState.stopping ∧ supported s b r
      = false)
    ∧ (∃ (s : State) (b : Bough), linked s b = true ∧ s.ses[b].state ≠ SesState.stopping ∧ s.ports[b].proto ≠ 0)
    ∧ (∃ (s : State) (b : Bough), linked s b = true ∧ s.ses[b].state ≠ SesState.stopping ∧ s.ports[b].proto < 2)
    ∧ (∃ (s : State) (b : Bough), linked s b = true ∧ s.ses[b].state ≠ SesState.stopping ∧ 2 ≤ s.ports[b].proto)
    ∧ (∃ (s : State) (b : Bough), linked s b = true ∧ s.ses[b].state ≠ SesState.stopping ∧ isDC s b = true ∧
      s.ses[b].state = SesState.authorised)
    ∧ (∃ (s : State) (b : Bough) (k : V2gTimer), linked s b = true ∧ transferring s.ses[b].state = true ∧
      coilsClosed s b = true ∧ timerCounts s b k = true) :=
  ⟨⟨w11, 2, by decide +kernel⟩,
   ⟨w4, 2, 11, [Sys2Proof.Proto.iso2], true, [Sys2Proof.Cipher.ecdheAes128Cbc, Sys2Proof.Cipher.ecdhAes128Cbc,
    Sys2Proof.Cipher.ecdhAes128Cbc], Sys2Proof.Proto.iso2, by decide +kernel, by decide +kernel, by decide +kernel,
    by decide +kernel, canReport_of _ _ _ (by decide +kernel)⟩,
   ⟨w13, 2, 1440, 3, by decide +kernel, by decide +kernel, by decide +kernel, by decide +kernel⟩,
   ⟨w7, 2, Sys2Proof.V2G.authorizationSetup, by decide +kernel, by decide +kernel, by decide +kernel⟩,
   ⟨w1, 2, by decide +kernel, by decide +kernel, by decide +kernel⟩,
   ⟨w3, 2, by decide +kernel, by decide +kernel, by decide +kernel⟩,
   ⟨w6, 2, by decide +kernel, by decide +kernel, by decide +kernel⟩,
   ⟨w13, 2, by decide +kernel, by decide +kernel, by decide +kernel, by decide +kernel⟩,
   ⟨w9, 2, Sys2Proof.V2gTimer.cpStateDetection, by decide +kernel, by decide +kernel, by decide +kernel,
    by decide +kernel⟩⟩

end VehicleDialogue

namespace SessionTimers

def st (e : Session) : State := ssn e (prt { state := .C, out := .x2 })
def w0 : State := { sln { lowered := true } (closedS (st { state := .charging, acCeil := 10 })) with nst := readyBase.nst.map (fun n => { n with i := #v[20000,0,0] }) }
def w2 : State := withCfg [(0x3000, 0x00050500)] (ssn { state := .authorised, grant := some { amount := 0, expiry := 5 },
                                                        slot := some 3 })
def w3 : State := withCfg [(0x3180, 0x8000E61E)] (ssn { state := .connected })
def w4 : State := sln { ceilTimed := true, hostCeil := some 500 } (ssn { state := .charging, ceilW := 500, acCeil := 10 })
def w5 : State := sln { vehMin := 3000 } (closedS (st { state := .charging, ceilW := 1000 }))
def w6 : State := sln { stopIssued := true } (closedS (st { state := .stopping }))
def w7 : State := closedS (st { state := .charging, grant := some { amount := 5000, expiry := 1700000100 } })
def w8 : State := closedS (st { state := .suspended, cost := 5000, grant := some { amount := 5000, expiry := 1700000100 } })
def w9 : State := closedS (st { state := .charging, cost := 20000, newGrant := some { amount := 5000, expiry := 1700000100 } })
def w11 : State := closedS (st { state := .energising, cost := 5000, slot := some 3, remote := false, inFriendly := true })
def w13 : State := closedS (st { state := .charging, cost := 100, grant := some { amount := 100, expiry := 0 } })


/-- The hypotheses of every clause of SessionTimers are met together by these states and operands. -/
theorem test_SessionTimers_hypotheses :
    (∃ (s : State) (b : Bough), coreAlive s b = true ∧ s.ses[b].state = SesState.authorised ∧ fld s.sesAuthCfg 15
      8 ≠ 0)
    ∧ (∃ (s : State) (b : Bough), coreAlive s b = true ∧ fld s.sesAuthCfg 15 8 = 0)
    ∧ (∃ (s : State) (b : Bough), coreAlive s b = true ∧ s.ses[b].state = SesState.connected ∧ bitOf (s.sesBoughCfg
      b) 31 = true ∧ s.ses[b].held = [])
    ∧ (∃ (s : State) (b : Bough), coreAlive s b = true ∧ s.sesL[b].ceilTimed = true)
    ∧ (∃ (s : State) (b : Bough), coreAlive s b = true ∧ s.ses[b].state = SesState.charging ∧ s.ses[b].ceilW <
      s.sesL[b].vehMin)
    ∧ (∃ (s : State) (b : Bough), coreAlive s b = true ∧ s.sesL[b].vehMin ≤ s.ses[b].ceilW)
    ∧ (∃ (s : State) (b : Bough), coreAlive s b = true ∧ s.ses[b].state = SesState.stopping ∧ s.sesL[b].stopIssued =
      true ∧ coilsClosed s b = true)
    ∧ (∃ (s : State) (b : Bough), coreAlive s b = true ∧ sendsRequests s.ses[b].state = true)
    ∧ (∃ (s : State) (b : Bough), coreAlive s b = true ∧ sendsRequests s.ses[b].state = false)
    ∧ (∃ (s : State) (b : Bough), coreAlive s b = true ∧ transferring s.ses[b].state = true ∧ coilsClosed s b = true
      ∧ s.sesL[b].lowered = true ∧ 11 * offeredMa s b + 10000 < 10 * blockMa s b)
    ∧ (∃ (s : State) (b : Bough) (g : Grant), coreAlive s b = true ∧ transferring s.ses[b].state = true ∧
      coilsClosed s b = true ∧ s.ses[b].grant = some g ∧ g.expiry ≠ 0)
    ∧ (∃ (s : State) (b : Bough), coreAlive s b = true ∧ 10 * blockMa s b ≤ 11 * offeredMa s b + 10000)
    ∧ (∃ (s : State) (b : Bough) (g : Grant), coreAlive s b = true ∧ s.ses[b].grant = some g ∧ g.expiry = 0)
    ∧ (∃ (s : State) (b : Bough) (c : ℕ) (g : Grant), coreAlive s b = true ∧ s.ses[b].cost = c ∧ s.bilB[b].sesOpen =
      false ∧ transferring s.ses[b].state = true ∧ coilsClosed s b = true ∧ s.ses[b].grant = some g ∧
      s.ses[b].newGrant = none ∧ s.ses[b].cutTo = none ∧ g.amount ≠ 0 ∧ g.amount ≤ ↑c)
    ∧ (∃ (s : State) (b : Bough) (c : ℕ) (g : Grant), coreAlive s b = true ∧ s.ses[b].cost = c ∧ s.bilB[b].sesOpen =
      false ∧ transferring s.ses[b].state = true ∧ coilsClosed s b = true ∧ s.ses[b].newGrant = some g ∧
      g.amount ≠ 0 ∧ g.amount < ↑c)
    ∧ (∃ (s : State) (b : Bough) (c : ℕ), coreAlive s b = true ∧ s.ses[b].cost = c ∧ s.bilB[b].sesOpen = false ∧
      transferring s.ses[b].state = true ∧ coilsClosed s b = true ∧ s.ses[b].grant = none ∧ s.ses[b].newGrant
      = none ∧ s.ses[b].cutTo = none ∧ s.ses[b].remote = false ∧ s.ses[b].slot.isSome = true ∧ available s b ≤
      0 ∧ friendlyFor s b = false)
    ∧ (∃ (s : State) (b : Bough) (c : ℕ), coreAlive s b = true ∧ s.ses[b].cost = c ∧ s.bilB[b].sesOpen = false ∧
      transferring s.ses[b].state = true ∧ coilsClosed s b = true ∧ s.ses[b].grant = none ∧ s.ses[b].newGrant
      = none ∧ s.ses[b].cutTo = none ∧ s.ses[b].slot = none) :=
  ⟨⟨w2, 2, by decide +kernel, by decide +kernel, by decide +kernel⟩,
   ⟨w3, 2, by decide +kernel, by decide +kernel⟩,
   ⟨w3, 2, by decide +kernel, by decide +kernel, by decide +kernel, by decide +kernel⟩,
   ⟨w4, 2, by decide +kernel, by decide +kernel⟩,
   ⟨w5, 2, by decide +kernel, by decide +kernel, by decide +kernel⟩,
   ⟨w11, 2, by decide +kernel, by decide +kernel⟩,
   ⟨w6, 2, by decide +kernel, by decide +kernel, by decide +kernel, by decide +kernel⟩,
   ⟨w5, 2, by decide +kernel, by decide +kernel⟩,
   ⟨w2, 2, by decide +kernel, by decide +kernel⟩,
   ⟨w0, 2, by decide +kernel, by decide +kernel, by decide +kernel, by decide +kernel, by decide +kernel⟩,
   ⟨w7, 2, { amount := 5000, expiry := 1700000100, offline := false }, by decide +kernel, by decide +kernel,
    by decide +kernel, by decide +kernel, by decide +kernel⟩,
   ⟨w5, 0, by decide +kernel, by decide +kernel⟩,
   ⟨w13, 2, { amount := 100, expiry := 0, offline := false }, by decide +kernel, by decide +kernel, by decide +kernel⟩,
   ⟨w8, 2, 5000, { amount := 5000, expiry := 1700000100, offline := false }, by decide +kernel, by decide +kernel,
    by decide +kernel, by decide +kernel, by decide +kernel, by decide +kernel, by decide +kernel, by decide +kernel,
    by decide +kernel, by decide +kernel⟩,
   ⟨w9, 2, 20000, { amount := 5000, expiry := 1700000100, offline := false }, by decide +kernel, by decide +kernel,
    by decide +kernel, by decide +kernel, by decide +kernel, by decide +kernel, by decide +kernel, by decide +kernel⟩,
   ⟨w11, 2, 5000, by decide +kernel, by decide +kernel, by decide +kernel, by decide +kernel, by decide +kernel,
    by decide +kernel, by decide +kernel, by decide +kernel, by decide +kernel, by decide +kernel, by decide +kernel,
    by decide +kernel⟩,
   ⟨w5, 2, 0, by decide +kernel, by decide +kernel, by decide +kernel, by decide +kernel, by decide +kernel,
    by decide +kernel, by decide +kernel, by decide +kernel, by decide +kernel⟩⟩

end SessionTimers

namespace SessionCommands

def st (e : Session) : State := ssn e (prt { state := .C, out := .x2 })
def idn : Ident := { kind := 2, bytes := [1,2,3], tag := some 7 }
def w0 : State := st { state := .authorising, waitTag := some 7, current := some idn, digest := digestOf [1,2,3] }
def w1 : State := st { state := .authorising, held := List.replicate 4 idn, waitTag := some 9 }
def w2 : State := st { state := .authorised, current := some idn, digest := digestOf [1,2,3], reqTag := some 7 }
def w3 : State := readyBase
def w5 : State := closedS (st { state := .suspended })
def w6 : State := st { state := .authorised }
def w7 : State := st { state := .connected }


/-- The hypotheses of every clause of SessionCommands are met together by these states and operands. -/
theorem test_SessionCommands_hypotheses :
    (∃ (s : State) (h : CmdHdr) (b : Bough), h.bough = b.val ∧ coreAlive s b = true ∧ s.ses[b].state =
      SesState.authorising ∧ s.ses[b].waitTag = some h.tag)
    ∧ (∃ (s : State) (h : CmdHdr) (b : Bough), h.bough = b.val ∧ coreAlive s b = true ∧ s.ses[b].state =
      SesState.authorising ∧ s.ses[b].waitTag ≠ some h.tag ∧ CanAnswer s)
    ∧ (∃ (s : State) (h : CmdHdr) (b : Bough) (ident : List Byte), h.bough = b.val ∧ coreAlive s b = true ∧
      ident.length ≤ 32 ∧ s.ses[b].state = SesState.authorised ∧ namesAuthorised s.ses[b] ident h.tag = true)
    ∧ (∃ (s : State) (h : CmdHdr) (b : Bough) (ident : List Byte), h.bough = b.val ∧ coreAlive s b = true ∧
      ident.length ≤ 32 ∧ s.ses[b].state = SesState.idle ∧ CanAnswer s)
    ∧ (∃ (s : State) (h : CmdHdr) (b : Bough) (x : List Byte), h.bough = b.val ∧ coreAlive s b = true ∧ x ≠ [] ∧
      x.length ≤ 32 ∧ s.ses[b].state = SesState.authorising)
    ∧ (∃ (s : State) (h : CmdHdr) (b : Bough) (x : List Byte), h.bough = b.val ∧ coreAlive s b = true ∧ x ≠ [] ∧
      x.length ≤ 32 ∧ s.ses[b].state = SesState.idle ∧ CanAnswer s)
    ∧ (∃ (s : State) (h : CmdHdr) (b : Bough), h.bough = b.val ∧ coreAlive s b = true ∧ transferring s.ses[b].state
      = true ∧ coilsClosed s b = true)
    ∧ (∃ (s : State) (h : CmdHdr) (b : Bough), h.bough = b.val ∧ coreAlive s b = true ∧ s.ses[b].state =
      SesState.authorised)
    ∧ (∃ (s : State) (h : CmdHdr) (b : Bough), h.bough = b.val ∧ coreAlive s b = true ∧ s.ses[b].state =
      SesState.idle ∧ CanAnswer s)
    ∧ (∃ (s : State) (h : CmdHdr) (b : Bough), h.bough = b.val ∧ coreAlive s b = true ∧ authorised s.ses[b].state =
      true)
    ∧ (∃ (s : State) (h : CmdHdr) (b : Bough), h.bough = b.val ∧ coreAlive s b = true ∧ s.ses[b].state =
      SesState.idle ∧ CanAnswer s)
    ∧ (∃ (s : State) (h : CmdHdr) (b : Bough) (w : ℕ), h.bough = b.val ∧ coreAlive s b = true ∧ w ≤ 2147483647)
    ∧ (∃ (s : State) (h : CmdHdr) (w : ℕ), 7 < h.bough ∧ CanAnswer s ∧ w ≤ 2147483647)
    ∧ (∃ (s : State) (h : CmdHdr) (x : List Byte), 7 < h.bough ∧ CanAnswer s ∧ x ≠ [] ∧ x.length ≤ 32)
    ∧ (∃ (x : List Byte), x = [] ∨ 32 < x.length)
    ∧ (∃ (w : ℕ), 2147483647 < w)
    ∧ (∃ (n : ℕ), n = 0 ∨ 16384 < n) :=
  ⟨⟨w1, { bough := 2, tag := 9 }, 2, by decide +kernel, by decide +kernel, by decide +kernel, by decide +kernel⟩,
   ⟨w0, { bough := 2, tag := 9 }, 2, by decide +kernel, by decide +kernel, by decide +kernel, by decide +kernel,
    canAnswer_of _ (by decide +kernel)⟩,
   ⟨w2, { bough := 2, tag := 9 }, 2, [1, 2, 3], by decide +kernel, by decide +kernel, by decide +kernel,
    by decide +kernel, by decide +kernel⟩,
   ⟨w3, { bough := 2, tag := 7 }, 2, [], by decide +kernel, by decide +kernel, by decide +kernel, by decide +kernel,
    canAnswer_of _ (by decide +kernel)⟩,
   ⟨w1, { bough := 2, tag := 9 }, 2, [1, 2, 3], by decide +kernel, by decide +kernel, by decide +kernel,
    by decide +kernel, by decide +kernel⟩,
   ⟨w3, { bough := 2, tag := 9 }, 2, [7, 7, 7, 7, 7, 7, 7, 7, 7, 7, 7, 7, 7, 7, 7, 7, 7, 7, 7, 7, 7, 7, 7, 7, 7, 7, 7,
    7, 7, 7, 7, 7], by decide +kernel, by decide +kernel, by decide +kernel, by decide +kernel, by decide +kernel,
    canAnswer_of _ (by decide +kernel)⟩,
   ⟨w5, { bough := 2, tag := 7 }, 2, by decide +kernel, by decide +kernel, by decide +kernel, by decide +kernel⟩,
   ⟨w2, { bough := 2, tag := 9 }, 2, by decide +kernel, by decide +kernel, by decide +kernel⟩,
   ⟨w6, { bough := 0, tag := 9 }, 0, by decide +kernel, by decide +kernel, by decide +kernel, canAnswer_of _
    (by decide +kernel)⟩,
   ⟨w5, { bough := 2, tag := 9 }, 2, by decide +kernel, by decide +kernel, by decide +kernel⟩,
   ⟨w3, { bough := 0, tag := 9 }, 0, by decide +kernel, by decide +kernel, by decide +kernel, canAnswer_of _
    (by decide +kernel)⟩,
   ⟨w2, { bough := 2, tag := 9 }, 2, 198, by decide +kernel, by decide +kernel, by decide +kernel⟩,
   ⟨w7, { bough := 8, tag := 7 }, 4096, by decide +kernel, canAnswer_of _ (by decide +kernel), by decide +kernel⟩,
   ⟨w1, { bough := 8, tag := 7 }, [7, 7, 7, 7, 7, 7, 7, 7, 7, 7, 7, 7, 7, 7, 7, 7, 7, 7, 7, 7, 7, 7, 7, 7, 7, 7, 7, 7,
    7, 7, 7, 7], by decide +kernel, canAnswer_of _ (by decide +kernel), by decide +kernel, by decide +kernel⟩,
   ⟨[7, 7, 7, 7, 7, 7, 7, 7, 7, 7, 7, 7, 7, 7, 7, 7, 7, 7, 7, 7, 7, 7, 7, 7, 7, 7, 7, 7, 7, 7, 7, 7, 7],
    by decide +kernel⟩,
   ⟨4294967295, by decide +kernel⟩,
   ⟨0, by decide +kernel⟩⟩

end SessionCommands

namespace CreditRecords

def d1 : List Byte := [1, 2, 3, 4, 5, 6, 7, 8]
def w0 : State := putSlot (homeSlot d1) (mkRecord d1 5000 1 3) readyBase
def w1 : State := ssn { state := .charging, slot := some (homeSlot d1), digest := d1, cost := 10 } w0
def hd : CmdHdr := { bough := 255, tag := 7 }

/-- The hypotheses of every clause of CreditRecords are met together by these states and operands. -/
theorem test_CreditRecords_hypotheses :
    (∃ (s u : State) (d : List Byte), d.length = 8 ∧ MemOk s ∧ lookup d s = (none, u) ∧ CanAnswer u)
    ∧ (∃ (s u : State) (d : List Byte) (i : Nat) (x : Int), d.length = 8 ∧ MemOk s ∧ lookup d s = (some i, u) ∧ CanAnswer u
      ∧ x < 0 ∧ holderOf u i = none)
    ∧ (∃ (s u : State) (d : List Byte) (i : Nat), d.length = 8 ∧ MemOk s ∧ lookup d s = (some i, u) ∧ CanAnswer u
      ∧ holderOf u i ≠ none)
    ∧ (∃ (s u v : State) (d : List Byte) (i : Nat), d.length = 8 ∧ MemOk s ∧ lookup d s = (none, u)
      ∧ freeFrom d 64 0 u = (some i, v) ∧ CanAnswer v)
    ∧ (∃ (balance : Int) (room cost : Nat), -(2 ^ 38) ≤ balance ∧ balance < 2 ^ 38 ∧ cost < 2 ^ 38
      ∧ 0 < (debit balance room cost).2 ∧ (debit balance room cost).1 < 0 ∧ 0 ≤ balance)
    ∧ (∃ (balance : Int) (cost : Nat), -(2 ^ 38) ≤ balance ∧ balance < 2 ^ 38 ∧ cost < 2 ^ 38
      ∧ (cost : Int) ≤ balance) :=
  ⟨⟨readyBase, _, d1, rfl, memOk_of _ (by decide +kernel), Prod.ext (by decide +kernel) rfl,
    canAnswer_of _ (by decide +kernel)⟩,
   ⟨w0, _, d1, homeSlot d1, -1, rfl, memOk_of _ (by decide +kernel), Prod.ext (by decide +kernel) rfl,
    canAnswer_of _ (by decide +kernel), by decide, by decide +kernel⟩,
   ⟨w1, _, d1, homeSlot d1, rfl, memOk_of _ (by decide +kernel), Prod.ext (by decide +kernel) rfl,
    canAnswer_of _ (by decide +kernel), by decide +kernel⟩,
   ⟨readyBase, _, _, d1, homeSlot d1, rfl, memOk_of _ (by decide +kernel), Prod.ext (by decide +kernel) rfl,
    Prod.ext (by decide +kernel) rfl, canAnswer_of _ (by decide +kernel)⟩,
   ⟨10, 5, 20, by decide +kernel⟩, ⟨2 ^ 38 - 1, 2 ^ 38 - 1, by decide +kernel⟩⟩

end CreditRecords

namespace LedgerLoads

def w0 : State := CreditRecords.w1
def w1 : State :=
  { CreditRecords.w0 with host := { readyBase.host with bulk := memPuts zeroB [] 0 (mkRecord CreditRecords.d1 77 8 9) } }

/-- The hypotheses of every clause of LedgerLoads are met together by these states and operands. -/
theorem test_LedgerLoads_hypotheses :
    (∃ (s : State) (n : Nat), 1 ≤ n ∧ n ≤ 16384 ∧ ∀ b : Bough, s.ses[b].slot = none)
    ∧ (∃ (s : State) (n : Nat), 1 ≤ n ∧ n ≤ 16384 ∧ (∃ b : Bough, s.ses[b].slot ≠ none) ∧ CanAnswer s)
    ∧ (∃ (s u : State) (i : Nat), MemOk s ∧ digestHeld s (nonZeroDigest (recDigest (bulkBytes s 0 16))) = false
      ∧ (halfAt s s.nv.flash.active).entries.length < logEntries
      ∧ lookup (nonZeroDigest (recDigest (bulkBytes s 0 16))) s = (some i, u)) :=
  ⟨⟨readyBase, 16384, by decide, by decide, by decide +kernel⟩,
   ⟨w0, 1, by decide, by decide, by decide +kernel, canAnswer_of _ (by decide +kernel)⟩,
   ⟨w1, _, homeSlot CreditRecords.d1, memOk_of _ (by decide +kernel), by decide +kernel, by decide +kernel,
    Prod.ext (by decide +kernel) rfl⟩⟩

end LedgerLoads

namespace ClosingContactors

def sfbm (f : SafBough) (s : State) : State := { sfb f s with meas := s.meas.set 2 { s.meas[2] with ch0Hist := List.replicate 488 8000000 } }
def hot (c : List (Nat × Nat)) (f : SafBough) (s : State := readyBase) : State :=
  withCfg c (sfbm { f with side := { f.side with ch21 := 10000000,
                                                                                                                                   ch10 := if f.side.ch10 = 0 then 60000000 else f.side.ch10 } }
    (prt { state := .C, out := .x2 } s))
def ac : List (Nat × Nat) := [(0x4080, 0x0300001E), (0x2080, 0x80000140)]
def dc : List (Nat × Nat) := [(0x4080, 0xC700001E), (0x2080, 0x90000140)]
def dcn : List (Nat × Nat) := [(0x4080, 0x8300001E), (0x2080, 0x90000140)]
def cl : SideVals := { ch19 := 9000000, ch20 := 9000000, ch8 := 400000000, ch10 := 400000000 }
def w1 : State := hot ac { closeReq := true }
def w2 : State := hot ac { closing := .acFirst }
def w3 : State := hot dc { closing := .dcFirst }
def w4 : State := hot dcn { closing := .dcFirst }
def w5 : State := hot dc { closeReq := true, latched := [4] }
def w6 : State := hot [(0x4080, 0xCF00001E), (0x2080, 0x90000140)] { closing := .dcInsulation, side := cl } (sln { targetV := 400000 })
def w7 : State := hot dc { closing := .dcInsulation, side := cl } (sln { targetV := 400000 })
def w9 : State := hot dcn { closeReq := true }
def w10 : State := hot ac { closeReq := true, latched := [3] }
def w11 : State := hot ac { closing := .acConfirm, side := cl } (ssn { state := .energising })
def w12 : State := hot ac { closing := .acConfirm } (ssn { state := .energising })
def w14 : State := hot dc { closing := .dcLink, side := cl }
def w17 : State := closedS (hot dc { closing := .dcMain, side := cl })
def w19 : State := hot dcn { closing := .dcPrecharge, side := cl } (sln { targetV := 399900, preCharge := true } (ssn
    { state := .energising }))


/-- The hypotheses of every clause of ClosingContactors are met together by these states and operands. -/
theorem test_ClosingContactors_hypotheses :
    (∃ (s : State) (b : Bough), s.saf[b].closeReq = true ∧ s.saf[b].closing = Closing.none ∧ isDC s b = false ∧
      mayClose s b = true)
    ∧ (∃ (s : State) (b : Bough), s.saf[b].closing = Closing.acFirst ∧ isDC s b = false)
    ∧ (∃ (s : State) (b : Bough), s.saf[b].closeReq = true ∧ s.saf[b].closing = Closing.none ∧ isDC s b = true ∧
      mayClose s b = true)
    ∧ (∃ (s : State) (b : Bough), s.saf[b].closing = Closing.dcFirst ∧ bitOf (s.safBoughCfg b) 30 = true)
    ∧ (∃ (s : State) (b : Bough), s.saf[b].closing = Closing.dcFirst ∧ bitOf (s.safBoughCfg b) 30 = false)
    ∧ (∃ (s : State) (b : Bough), s.saf[b].closeReq = true ∧ s.saf[b].closing = Closing.none ∧ isDC s b = false ∧
      mayClose s b = false)
    ∧ (∃ (s : State) (b : Bough), s.saf[b].closeReq = true ∧ s.saf[b].closing = Closing.none ∧ isDC s b = true ∧
      mayClose s b = false)
    ∧ (∃ (s : State) (b : Bough), s.saf[b].closing = Closing.acConfirm ∧ isDC s b = false ∧ contactsClosed s b =
      true ∧ s.ses[b].state = SesState.energising ∧ coreAlive s b = true)
    ∧ (∃ (s : State) (b : Bough), s.saf[b].closing = Closing.dcLink ∧ linkNear s b = true)
    ∧ (∃ (s : State) (b : Bough), s.saf[b].closing = Closing.dcMain ∧ senseReads s b 0 = some true)
    ∧ (∃ (s : State) (b : Bough), s.saf[b].closing = Closing.dcInsulation ∧ bitOf (s.safBoughCfg b) 27 = false ∧ 9 *
      1000 * s.sesL[b].targetV ≤ 10 * s.saf[b].side.ch8)
    ∧ (∃ (s : State) (b : Bough), s.saf[b].closing = Closing.dcPrecharge ∧ s.ses[b].state = SesState.energising ∧
      coreAlive s b = true ∧ 1000 * (s.saf[b].side.ch8 - 1000 * s.sesL[b].targetV).natAbs ≤ fld (s.safSenseCfg
      b) 15 8 * (1000 * s.sesL[b].targetV).natAbs)
    ∧ (∃ (s : State) (b : Bough), s.saf[b].closing = Closing.acConfirm ∨ s.saf[b].closing = Closing.dcLink ∨
      s.saf[b].closing = Closing.dcMain) :=
  ⟨⟨w1, 2, by decide +kernel, by decide +kernel, by decide +kernel, by decide +kernel⟩,
   ⟨w2, 2, by decide +kernel, by decide +kernel⟩,
   ⟨w9, 2, by decide +kernel, by decide +kernel, by decide +kernel, by decide +kernel⟩,
   ⟨w3, 2, by decide +kernel, by decide +kernel⟩,
   ⟨w4, 2, by decide +kernel, by decide +kernel⟩,
   ⟨w10, 2, by decide +kernel, by decide +kernel, by decide +kernel, by decide +kernel⟩,
   ⟨w5, 2, by decide +kernel, by decide +kernel, by decide +kernel, by decide +kernel⟩,
   ⟨w11, 2, by decide +kernel, by decide +kernel, by decide +kernel, by decide +kernel, by decide +kernel⟩,
   ⟨w14, 2, by decide +kernel, by decide +kernel⟩,
   ⟨w17, 2, by decide +kernel, by decide +kernel⟩,
   ⟨w7, 2, by decide +kernel, by decide +kernel, by decide +kernel⟩,
   ⟨w19, 2, by decide +kernel, by decide +kernel, by decide +kernel, by decide +kernel⟩,
   ⟨w17, 2, by decide +kernel⟩⟩

end ClosingContactors

namespace OpeningAndWelds

def sfbm (f : SafBough) (s : State) : State := { sfb f s with meas := s.meas.set 2 { s.meas[2] with ch0Hist := List.replicate 488 8000000 } }
def hot (c : List (Nat × Nat)) (f : SafBough) (s : State := readyBase) : State :=
  withCfg c (sfbm { f with side := { f.side with ch21 := 10000000,
                                                                                                                                   ch10 := 60000000 } }
    (prt { state := .C, out := .x2 } s))
def ac : List (Nat × Nat) := [(0x4080, 0x0300001E), (0x2080, 0x80000140)]
def dc : List (Nat × Nat) := [(0x4080, 0xC700001E), (0x2080, 0x90000140)]
def cl : SideVals := { ch19 := 9000000, ch20 := 9000000 }
def w : Vector Coil 3 := Vector.replicate 3 { weldWait := true }
def u : Vector Coil 3 := Vector.replicate 3 { undet := true }
def dr : Vector Coil 3 := Vector.replicate 3 { driven := true }
def w1 : State := hot dc { closing := .dcRelease, coils := w }
def w2 : State := hot dc { closing := .dcRelease, coils := w, side := cl }
def w3 : State := sfb { closing := .dcRelease, coils := w }
def w5 : State := hot dc { openReq := true, coils := dr } (ssn { state := .charging })
def w6 : State := hot ac { opening := true, coils := dr }
def w9 : State := hot dc { coils := w, side := cl }
def w10 : State := hot dc { coils := w } (ssn { state := .finished })
def w11 : State := sfb { coils := w } (ssn { state := .stopping })
def w14 : State := hot dc { coils := u }


/-- The hypotheses of every clause of OpeningAndWelds are met together by these states and operands. -/
theorem test_OpeningAndWelds_hypotheses :
    (∃ (s : State) (b : Bough), s.saf[b].openReq = true ∧ s.saf[b].closing = Closing.none ∧ CanReport 1026 1 s)
    ∧ (∃ (s : State) (b : Bough), s.saf[b].opening = true)
    ∧ (∃ (s : State) (b : Bough) (k : Fin 3), s.saf[b].coils[k].weldWait = true ∧ (k = 2 → s.saf[b].closing ≠
      Closing.dcRelease) ∧ senseReads s b k = some false)
    ∧ (∃ (s : State) (b : Bough) (k : Fin 3), s.saf[b].coils[k].weldWait = true ∧ (k = 2 → s.saf[b].closing ≠
      Closing.dcRelease) ∧ (senseValue s b k).isSome = true ∧ senseReads s b k = none)
    ∧ (∃ (s : State) (b : Bough) (k : Fin 3), s.saf[b].coils[k].weldWait = true ∧ (k = 2 → s.saf[b].closing ≠
      Closing.dcRelease) ∧ senseReads s b k = some true)
    ∧ (∃ (s : State) (b : Bough), s.saf[b].closing = Closing.dcRelease ∧ senseReads s b 2 = some false)
    ∧ (∃ (s : State) (b : Bough), s.saf[b].closing = Closing.dcRelease ∧ senseReads s b 2 = some true)
    ∧ (∃ (s : State) (b : Bough), s.saf[b].closing = Closing.dcRelease ∧ senseReads s b 2 = none)
    ∧ (∃ (s : State) (b : Bough) (k : Fin 3), s.saf[b].coils[k].undet = true ∧ senseReads s b k = some false) :=
  ⟨⟨w5, 2, by decide +kernel, by decide +kernel, canReport_of _ _ _ (by decide +kernel)⟩,
   ⟨w6, 2, by decide +kernel⟩,
   ⟨w10, 2, 2, by decide +kernel, by decide +kernel, by decide +kernel⟩,
   ⟨w11, 2, 1, by decide +kernel, by decide +kernel, by decide +kernel, by decide +kernel⟩,
   ⟨w9, 2, 2, by decide +kernel, by decide +kernel, by decide +kernel⟩,
   ⟨w1, 2, by decide +kernel, by decide +kernel⟩,
   ⟨w2, 2, by decide +kernel, by decide +kernel⟩,
   ⟨w3, 2, by decide +kernel, by decide +kernel⟩,
   ⟨w14, 2, 2, by decide +kernel, by decide +kernel⟩⟩

end OpeningAndWelds

namespace SwitchAndCoilFaults

def sk (n : Nat) : State := sfb { coils := Vector.replicate 3 { hiStuck := n, loStuck := n } } readyBase
def dr : Vector Coil 3 := Vector.replicate 3 { driven := true, hiStuck := 4, loStuck := 4 }
def w0 : State := readyBase
def w1 : State := sk 8
def w2 : State := sk 9
def w4 : State := sfb { coils := dr, testsFailed := 255 } (ssn { state := .charging })
def w6 : State := { readyBase with saf := readyBase.saf.map (fun f => { f with coils := Vector.replicate 3 { hiStuck := 9,
                                                                                                             loStuck := 9 } }) }
def w7 : State := { readyBase with safDev := { readyBase.safDev with skipped := [2, 17] } }


/-- The hypotheses of every clause of SwitchAndCoilFaults are met together by these states and operands. -/
theorem test_SwitchAndCoilFaults_hypotheses :
    (∃ (s : State) (i : Fin 48), i.val ∉ s.safDev.skipped)
    ∧ (∃ (s : State) (i : Fin 48), i.val ∈ s.safDev.skipped)
    ∧ (∃ (r : TestResult), r = TestResult.notOff ∨ r = TestResult.partnerStuck)
    ∧ (∃ (r : TestResult), r = TestResult.noMove ∨ r = TestResult.notRestored)
    ∧ (∃ (s : State) (i : Fin 48), i.val ∉ s.safDev.skipped)
    ∧ (∃ (s : State) (i : Fin 48), s.saf[switchBough i].coils[switchCoil i].driven = false ∧ stuckRun s i < 9)
    ∧ (∃ (s : State) (i : Fin 48), s.saf[switchBough i].coils[switchCoil i].driven = false ∧ stuckRun s i = 9)
    ∧ (∃ (s : State) (b : Bough) (k : Fin 3), s.saf[b].coils[k].driven = true) :=
  ⟨⟨w7, 23, by decide +kernel⟩,
   ⟨w7, 2, by decide +kernel⟩,
   ⟨Sys2Proof.TestResult.partnerStuck, by decide +kernel⟩,
   ⟨Sys2Proof.TestResult.noMove, by decide +kernel⟩,
   ⟨w0, 26, by decide +kernel⟩,
   ⟨w7, 12, by decide +kernel, by decide +kernel⟩,
   ⟨w6, 2, by decide +kernel, by decide +kernel⟩,
   ⟨w4, 2, 2, by decide +kernel⟩⟩

end SwitchAndCoilFaults

namespace EmergencyStops

def sd (d : SafDev) (s : State := readyBase) : State := { s with safDev := d }
def rb : SafDev := readyBase.safDev
def w2 : State := sd { rb with stop := true, disc := true, fsCauses := [.estop] }
def w5 : State := sd { rb with estopB := true, stop := true, fsCauses := [.estop] }
def w7 : State := State.reset


/-- The hypotheses of every clause of EmergencyStops are met together by these states and operands. -/
theorem test_EmergencyStops_hypotheses :
    (∃ (s : State) (a : ℕ) (b : ℕ), s.safDev.stop = false ∧ FsCause.estop ∉ s.safDev.fsCauses ∧ (a ≤ 7000 ∨ b ≤
      7000))
    ∧ (∃ (s : State), s.safDev.stop = true)
    ∧ (∃ (a : ℕ) (b : ℕ), 7000 < a ∧ 7000 < b)
    ∧ (∃ (s : State), s.safDev.stop = true ∧ s.safDev.disc = false)
    ∧ (∃ (s : State), s.safDev.disc = true ∧ s.safDev.discLow = false)
    ∧ (∃ (s : State), s.safDev.estopA ≠ s.safDev.estopB ∧ s.safDev.disc = false) :=
  ⟨⟨w7, 47, 12, by decide +kernel, by decide +kernel, by decide +kernel⟩,
   ⟨w2, by decide +kernel⟩,
   ⟨1099511627775, 1099511627775, by decide +kernel, by decide +kernel⟩,
   ⟨w5, by decide +kernel, by decide +kernel⟩,
   ⟨w2, by decide +kernel, by decide +kernel⟩,
   ⟨w5, by decide +kernel, by decide +kernel⟩⟩

end EmergencyStops

namespace HeartbeatAndWatchdogs

def dr : Vector Coil 3 := Vector.replicate 3 { driven := true }
def sd (d : SafDev) (s : State := readyBase) : State := { s with safDev := d }
def rb : SafDev := readyBase.safDev
def drs : State := { readyBase with saf := readyBase.saf.map (fun f => { f with coils := dr }), ses := readyBase.ses.map (fun x => { x with state := .charging }) }
def w0 : State := { readyBase with lat := { readyBase.lat with pllLost := true } }
def w3 : State := sd { rb with hbMissed := 2 } drs
def w5 : State := sd { rb with hbValid := 9, fsCauses := [.wdog] } drs
def w6 : State := sd { rb with hbValid := 4, fsCauses := [.wdog, .estop] }
def w7 : State := sd { rb with crcFails := 16 } drs
def w8 : State := sd { rb with crcFails := 15 } drs
def w9 : State := sd { rb with serviced := 3 } drs
def w11 : State := sd { rb with hbExpect := 3, linkValid := 8, fsCauses := [.wdog, .link] } drs


/-- The hypotheses of every clause of HeartbeatAndWatchdogs are met together by these states and operands. -/
theorem test_HeartbeatAndWatchdogs_hypotheses :
    (∃ (s : State), s.lat.pllLost = false ∧ s.supply.resetHeld = false)
    ∧ (∃ (s : State), s.lat.pllLost = true)
    ∧ (∃ (s : State), s.safDev.hbMissed < 2)
    ∧ (∃ (s : State), s.safDev.hbMissed = 2 ∧ FsCause.wdog ∉ s.safDev.fsCauses)
    ∧ (∃ (s : State) (n : BitVec 4), n.toNat = s.safDev.hbExpect ∧ s.safDev.firstBeat = true ∧ s.safDev.linkValid <
      9 ∧ s.safDev.hbValid = 9)
    ∧ (∃ (s : State) (n : BitVec 4), n.toNat = s.safDev.hbExpect ∧ s.safDev.firstBeat = true ∧ s.safDev.linkValid <
      9 ∧ s.safDev.hbValid < 9)
    ∧ (∃ (s : State), FsCause.link ∉ s.safDev.fsCauses ∧ s.safDev.crcFails < 16)
    ∧ (∃ (s : State), FsCause.link ∉ s.safDev.fsCauses ∧ s.safDev.crcFails = 16)
    ∧ (∃ (s : State) (c : Fin 2), s.safDev.coreDead.getLsbD c.val = false)
    ∧ (∃ (s : State) (c : Fin 2), s.safDev.serviced.getLsbD c.val = true)
    ∧ (∃ (s : State) (c : Fin 2), s.safDev.serviced.getLsbD c.val = false) :=
  ⟨⟨w7, by decide +kernel, by decide +kernel⟩,
   ⟨w0, by decide +kernel⟩,
   ⟨w11, by decide +kernel⟩,
   ⟨w3, by decide +kernel, by decide +kernel⟩,
   ⟨w5, 0, by decide +kernel, by decide +kernel, by decide +kernel, by decide +kernel⟩,
   ⟨w3, 0, by decide +kernel, by decide +kernel, by decide +kernel, by decide +kernel⟩,
   ⟨w8, by decide +kernel, by decide +kernel⟩,
   ⟨w7, by decide +kernel, by decide +kernel⟩,
   ⟨w7, 0, by decide +kernel⟩,
   ⟨w9, 0, by decide +kernel⟩,
   ⟨w6, 0, by decide +kernel⟩⟩

end HeartbeatAndWatchdogs

namespace ResidualAndInsulation

def fCh (n : Nat) (s : State) : State := { s with mtr := s.mtr.set 2 { s.mtr[2] with ch := modN s.mtr[2].ch n (fun c => { c with failed := true }) } }
def dr : Vector Coil 3 := Vector.replicate 3 { driven := true }
def ms (m : SafMeas) (s : State := readyBase) : State := { s with meas := s.meas.set 2 m }
def ac : List (Nat × Nat) := [(0x537C, 0x800000), (0x538C, 0x7FFFFFFF), (0x545C, 0x800000), (0x4080, 0x0300001E)]
def acr : List (Nat × Nat) := [(0x537C, 0x800000), (0x538C, 0x7FFFFFFF), (0x545C, 0x800000), (0x4080, 0x1300001E)]
def dc : List (Nat × Nat) := [(0x537C, 0x800000), (0x538C, 0x7FFFFFFF), (0x545C, 0x800000), (0x4080, 0xDF00001E),
    (0x4088, 0x01F40226)]
def on (c : List (Nat × Nat)) (s : State) : State := withCfg c (ssn { state := .charging } (sfb { coils := dr } s))
def f11 (s : State) : State := { s with mtr := s.mtr.set 2 { s.mtr[2] with ch := s.mtr[2].ch.set 11 { failed := true } } }
def z0 : RawSample := { x := 0, beyond := false }
def dcx : List (Nat × Nat) := [(0x537C, 0x800000), (0x538C, 0x40000000), (0x545C, 0x800000), (0x4080, 0xDF00001E),
    (0x4088, 0x01F40226)]
def zs : SideSample := { ch7 := z0, ch8 := { x := 5242880, beyond := false }, ch11 := z0, ch12 := z0, ch13 := z0, ch14 := z0,
                         ch19 := z0, ch20 := z0, ch21 := z0 }
def w0 : State := fCh 7 (on ac readyBase)
def w1 : State := fCh 21 (on dc readyBase)
def w4 : State := on ac (ms { fastRun := 7 })
def w8 : State := on acr (ms { hist := List.replicate 2441 70000 })
def w9 : State := on acr (ms { hist := List.replicate 487 70000 })
def w11 : State := on dc (ms { hist := List.replicate 487 (-300000), prevVp := some 200000000, prevVn := some (-200000000) })
def w13 : State := on dc (f11 (ms { prevVp := some 5, prevVn := some 5, faultRun := 1 }))
def w14 : State := on dc (ms { prevVp := some 5, faultRun := 1 })
def w16 : State := on dcx (ms { ovpRun := 2 })


/-- The hypotheses of every clause of ResidualAndInsulation are met together by these states and operands. -/
theorem test_ResidualAndInsulation_hypotheses :
    (∃ (s : State) (b : Bough) (v : SideSample), chFailMask s.mtr[b] = 0 ∧ (inUnit s b 7 (sideY s b 7
      v.ch7).1).natAbs < 5 * (1000 * fld (s.safBoughCfg b) 8 0) ∧ isDC s b = false ∧ s.meas[b].hist.length <
      487)
    ∧ (∃ (s : State) (b : Bough) (v : SideSample), chFailMask s.mtr[b] = 0 ∧ 5 * (1000 * fld (s.safBoughCfg b) 8 0)
      ≤ (inUnit s b 7 (sideY s b 7 v.ch7).1).natAbs ∧ 7 ≤ s.meas[b].fastRun)
    ∧ (∃ (s : State) (b : Bough) (v : SideSample), chFailMask s.mtr[b] = 0 ∧ acReaches (takeSide b v s) b = true)
    ∧ (∃ (s : State) (b : Bough) (v : SideSample), chFailMask s.mtr[b] = 0 ∧ isDC s b = true ∧ 1000000 * ↑(fld
      (s.safDcCfg b) 15 0) < inUnit s b 8 (sideY s b 8 v.ch8).1 ∧ 2 ≤ s.meas[b].ovpRun)
    ∧ (∃ (s : State) (b : Bough), chFails s.mtr[b] 7 = true)
    ∧ (∃ (s : State) (b : Bough), chFails s.mtr[b] 21 = true)
    ∧ (∃ (s : State) (b : Bough), bitOf (s.safBoughCfg b) 28 = false)
    ∧ (∃ (s : State) (b : Bough), bitOf (s.safBoughCfg b) 28 = true ∧ dcReaches s b 2441 6000 ≠ none)
    ∧ (∃ (s : State) (b : Bough), bitOf (s.safBoughCfg b) 28 = true ∧ dcReaches s b 488 60000 ≠ none)
    ∧ (∃ (s : State) (b : Bough), bitOf (s.safBoughCfg b) 28 = true ∧ dcReaches s b 122 200000 ≠ none)
    ∧ (∃ (s : State) (b : Bough) (vp : ℤ) (vn : ℤ), vp = stateMean s.meas[b].vpHist ∧ vn = stateMean
      s.meas[b].vnHist ∧ bitOf (s.safBoughCfg b) 27 = false)
    ∧ (∃ (s : State) (b : Bough) (vp : ℤ) (vn : ℤ), vp = stateMean s.meas[b].vpHist ∧ vn = stateMean
      s.meas[b].vnHist ∧ bitOf (s.safBoughCfg b) 27 = true)
    ∧ (∃ (s : State) (b : Bough) (vp : ℤ) (vn : ℤ), vp = stateMean s.meas[b].vpHist ∧ vn = stateMean
      s.meas[b].vnHist ∧ bitOf (s.safBoughCfg b) 27 = true ∧ (s.meas[b].prevVp = none ∨ s.meas[b].prevVn =
      none))
    ∧ (∃ (s : State) (b : Bough) (vp : ℤ) (vn : ℤ), vp = stateMean s.meas[b].vpHist ∧ vn = stateMean
      s.meas[b].vnHist ∧ bitOf (s.safBoughCfg b) 27 = true ∧ s.meas[b].prevVp ≠ none ∧ s.meas[b].prevVn ≠ none
      ∧ chFails s.mtr[b] 11 = true ∧ 0 < fld (s.safImdCfg b) 31 16 * fld (s.safDcCfg b) 31 16 ∧
      s.meas[b].faultRun = 1) :=
  ⟨⟨w11, 0, { ch7 := { x := 4, beyond := false }, ch8 := { x := -8, beyond := true }, ch11 := { x := 1, beyond := true },
              ch12 := { x := 7, beyond := false }, ch13 := { x := 15, beyond := false }, ch14 := { x := 100, beyond := false },
              ch19 := { x := 8, beyond := false }, ch20 := { x := -1, beyond := true }, ch21 := { x := -127, beyond := true } },
    by decide +kernel, by decide +kernel, by decide +kernel, by decide +kernel⟩,
   ⟨w4, 2, { ch7 := { x := 1099511627775, beyond := false }, ch8 := { x := 8191, beyond := false }, ch11 := { x := 3,
                                                                                                              beyond := false },
             ch12 := { x := -23, beyond := false }, ch13 := { x := -3, beyond := false }, ch14 := { x := -187, beyond := true },
             ch19 := { x := 5, beyond := true }, ch20 := { x := 11, beyond := true }, ch21 := { x := 2, beyond := false } },
    by decide +kernel, by decide +kernel, by decide +kernel⟩,
   ⟨w9, 2, { ch7 := { x := 15, beyond := true }, ch8 := { x := -59, beyond := true }, ch11 := { x := -4294967295,
                                                                                                beyond := true }, ch12 := { x := 10,
                                                                                                                            beyond := false },
             ch13 := { x := 5, beyond := false }, ch14 := { x := -3, beyond := true }, ch19 := { x := 0, beyond := true },
             ch20 := { x := 10, beyond := false }, ch21 := { x := 234, beyond := true } }, by decide +kernel,
    by decide +kernel⟩,
   ⟨w16, 2, zs, by decide +kernel, by decide +kernel, by decide +kernel, by decide +kernel⟩,
   ⟨w0, 2, by decide +kernel⟩,
   ⟨w1, 2, by decide +kernel⟩,
   ⟨w4, 0, by decide +kernel⟩,
   ⟨w8, 2, by decide +kernel, by decide +kernel⟩,
   ⟨w8, 2, by decide +kernel, by decide +kernel⟩,
   ⟨w11, 2, by decide +kernel, by decide +kernel⟩,
   ⟨w4, 2, 0, 0, by decide +kernel, by decide +kernel, by decide +kernel⟩,
   ⟨w14, 2, 0, 0, by decide +kernel, by decide +kernel, by decide +kernel⟩,
   ⟨w1, 2, 0, 0, by decide +kernel, by decide +kernel, by decide +kernel, by decide +kernel⟩,
   ⟨w13, 2, 0, 0, by decide +kernel, by decide +kernel, by decide +kernel, by decide +kernel, by decide +kernel,
    by decide +kernel, by decide +kernel, by decide +kernel⟩⟩

end ResidualAndInsulation

namespace SafetyCommands

def dr : Vector Coil 3 := Vector.replicate 3 { driven := true }
def lt (l : List Nat) (s : State := readyBase) : State := sfb { latched := l } s
def w1 : State := sfb { coils := dr }
def w9 : State := lt [14]
def w11 : State := lt [19]
def w16 : State := { lt [3] with safDev := { readyBase.safDev with stop := true, fsCauses := [.estop] } }


/-- The hypotheses of every clause of SafetyCommands are met together by these states and operands. -/
theorem test_SafetyCommands_hypotheses :
    (∃ (s : State) (h : CmdHdr) (b : Bough), h.bough = b.val ∧ coilsClosed s b = true ∧ CanAnswer s)
    ∧ (∃ (s : State) (h : CmdHdr) (b : Bough) (m : Byte), h.bough = b.val ∧ coilsClosed s b = false ∧ List.filter
      (clearSelects m) s.saf[b].latched = [] ∧ CanAnswer s)
    ∧ (∃ (s : State) (h : CmdHdr) (b : Bough) (m : Byte) (c : ℕ), h.bough = b.val ∧ coilsClosed s b = false ∧
      s.saf[b].latched = [c] ∧ clearSelects m c = true ∧ mayClear s b c = true)
    ∧ (∃ (s : State) (h : CmdHdr) (b : Bough) (m : Byte) (c : ℕ), h.bough = b.val ∧ coilsClosed s b = false ∧
      s.saf[b].latched = [c] ∧ clearSelects m c = true ∧ mayClear s b c = false) :=
  ⟨⟨w1, { bough := 2, tag := 7 }, 2, by decide +kernel, by decide +kernel, canAnswer_of _ (by decide +kernel)⟩,
   ⟨w16, { bough := 2, tag := 9 }, 2, 0, by decide +kernel, by decide +kernel, by decide +kernel, canAnswer_of _
    (by decide +kernel)⟩,
   ⟨w9, { bough := 2, tag := 7 }, 2, 18, 14, by decide +kernel, by decide +kernel, by decide +kernel,
    by decide +kernel, by decide +kernel⟩,
   ⟨w16, { bough := 2, tag := 9 }, 2, 9, 3, by decide +kernel, by decide +kernel, by decide +kernel,
    by decide +kernel, by decide +kernel⟩⟩

end SafetyCommands

namespace SampleFrames

def mtx (m : Mtr) (s : State := readyBase) : State := { s with mtr := s.mtr.set 2 m }
def chs (c : MtrCh) : Vector MtrCh 24 := Vector.replicate 24 c
def w0 : State := { readyBase with lat := { readyBase.lat with pllLost := true } }
def w1 : State := readyBase
def w8 : State := mtx { ch := chs { settle := 4, settleS := 3 }, served := 3, cal := some { mask := 15, n := 3 } }


/-- The hypotheses of every clause of SampleFrames are met together by these states and operands. -/
theorem test_SampleFrames_hypotheses :
    (∃ (s : State), s.lat.pllLost = true)
    ∧ (∃ (s : State), s.lat.running = true ∧ s.lat.pllLost = false)
    ∧ (∃ (s : State), s.lat.running = true ∧ s.lat.pllLost = false) :=
  ⟨⟨w0, by decide +kernel⟩,
   ⟨w8, by decide +kernel, by decide +kernel⟩,
   ⟨w1, by decide +kernel, by decide +kernel⟩⟩

end SampleFrames

namespace ReserveModulator

def mtx (m : Mtr) (s : State := readyBase) : State := { s with mtr := s.mtr.set 2 m }
def chs (c : MtrCh) : Vector MtrCh 24 := Vector.replicate 24 c
def vs : CalSum := { n := 100, sum := 0, sq := 100 * 4000000 ^ 2 }
def pat (c : MtrCh) : Mtr := { ch := chs c, rsvIn := 2, patrolAt := 2, visA := vs, visR := vs }
def w1 : State := mtx (pat {})
def w2 : State := mtx (pat { k0 := some 1000 })
def w3 : State := mtx (pat { k0 := some 0 })
def w7 : State := mtx { rsvState := 3 }
def w8 : State := mtx { rsvState := 3, served := 2, rsvIn := 2 }
def w9 : State := mtx { coldCh := some 2, rsvState := 3 }
def w10 : State := mtx { rsvState := 1, rsvIn := 2 }
def w12 : State := mtx { rsvState := 1, rsvIn := 2, fitOn := true, fitBlocks := 5, fitTag := some 7, fitTot := vs }
def w13 : State := mtx { rsvState := 1, rsvIn := 2, fitOn := true, fitBlocks := 1, fitPassed := 3 }
def w15 : State := mtx { rsvState := 3, served := 2, rsvIn := 2, returning := true, fitBlocks := 5 }
def w16 : State := mtx { ch := chs { failed := true } }
def w17 : State := mtx { ch := chs { failed := true, lost := true }, rsvState := 2 }
def w18 : State := mtx { cal := some { mask := 15, n := 3, counted := 3, tag := 7 } }
def w20 : State := mtx { ch := chs { readmit := true } }
def w21 : State := withCfg [(0x5C08, 0x000007D0)] (mtx { rsvState := 1, rsvIn := 2, fitOn := true, fitBlocks := 5 })


/-- The hypotheses of every clause of ReserveModulator are met together by these states and operands. -/
theorem test_ReserveModulator_hypotheses :
    (∃ (s : State) (b : Bough), s.mtr[b].rsvState ≠ 0)
    ∧ (∃ (s : State) (b : Bough) (n : Fin 24), s.mtr[b].rsvState = 0 ∧ s.mtr[b].rsvIn = n.val ∧ s.mtr[b].patrolAt =
      n.val ∧ weakSum s.mtr[b].visA = false ∧ s.mtr[b].ch[n].failed = false ∧ s.mtr[b].served ≠ n.val ∧ n.val
      < nextVisit s.mtr[b] n.val ∧ s.mtr[b].ch[n].k0 = none)
    ∧ (∃ (s : State) (b : Bough) (n : Fin 24) (k0 : ℤ), s.mtr[b].rsvState = 0 ∧ s.mtr[b].rsvIn = n.val ∧
      s.mtr[b].patrolAt = n.val ∧ weakSum s.mtr[b].visA = false ∧ s.mtr[b].ch[n].failed = false ∧
      s.mtr[b].served ≠ n.val ∧ n.val < nextVisit s.mtr[b] n.val ∧ s.mtr[b].ch[n].k0 = some k0)
    ∧ (∃ (s : State) (b : Bough) (n : Fin 24), s.mtr[b].ch[n].failed = false ∧ s.mtr[b].served ≠ n.val ∧
      s.mtr[b].rsvState ≤ 2)
    ∧ (∃ (s : State) (b : Bough) (n : Fin 24), s.mtr[b].ch[n].failed = false ∧ s.mtr[b].served ≠ n.val ∧ 2 <
      s.mtr[b].rsvState)
    ∧ (∃ (s : State) (b : Bough) (n : ℕ), s.mtr[b].coldCh = some n)
    ∧ (∃ (s : State) (b : Bough), s.mtr[b].rsvState = 1 ∧ s.mtr[b].fitOn = false)
    ∧ (∃ (s : State) (b : Bough) (r : FitResult), s.mtr[b].rsvState = 1 ∧ s.mtr[b].fitOn = true ∧ calBlocks s ≤
      s.mtr[b].fitBlocks ∧ fitOk s b s.mtr[b].rsvIn r = true)
    ∧ (∃ (s : State) (b : Bough) (r : FitResult), s.mtr[b].rsvState = 1 ∧ s.mtr[b].fitOn = true ∧ calBlocks s ≤
      s.mtr[b].fitBlocks ∧ 100 < r.residualPpm)
    ∧ (∃ (s : State) (b : Bough), s.mtr[b].rsvState = 1 ∧ s.mtr[b].fitOn = true ∧ s.mtr[b].fitBlocks < calBlocks s ∧
      s.mtr[b].fitPassed < 4 * calBlocks s)
    ∧ (∃ (s : State) (b : Bough) (ppm : ℕ), s.mtr[b].returning = true ∧ calBlocks s ≤ s.mtr[b].fitBlocks ∧ ppm ≤ fld
      (s.mtrRsvCfg b) 15 0)
    ∧ (∃ (s : State) (b : Bough) (ppm : ℕ), s.mtr[b].returning = true ∧ calBlocks s ≤ s.mtr[b].fitBlocks ∧ fld
      (s.mtrRsvCfg b) 15 0 < ppm)
    ∧ (∃ (s : State) (h : CmdHdr) (b : Bough) (ch : ℕ), h.bough = b.val ∧ ch < 24 ∧ swapRuns s b = true ∧ CanAnswer
      s)
    ∧ (∃ (s : State) (h : CmdHdr) (b : Bough) (ch : ℕ), h.bough = b.val ∧ ch < 24 ∧ swapRuns s b = false ∧
      (s.mtr[b].rsvState = 0 ∨ s.mtr[b].rsvState = 2) ∧ chFails s.mtr[b] ch = true ∧ CanAnswer s)
    ∧ (∃ (s : State) (h : CmdHdr) (b : Bough) (ch : ℕ), h.bough = b.val ∧ ch < 24 ∧ swapRuns s b = false ∧
      (s.mtr[b].rsvState = 0 ∨ s.mtr[b].rsvState = 2) ∧ chFails s.mtr[b] ch = false)
    ∧ (∃ (s : State) (h : CmdHdr) (b : Bough) (ch : ℕ) (c : MtrCh), h.bough = b.val ∧ ch < 24 ∧ s.mtr[b].ch[ch]? =
      some c ∧ swapRuns s b = false ∧ s.mtr[b].rsvState = 3 ∧ s.mtr[b].served = ch ∧ c.failed = false ∧ c.lost
      = false ∧ c.readmit = false)
    ∧ (∃ (s : State) (h : CmdHdr) (b : Bough) (ch : ℕ), h.bough = b.val ∧ ch < 24 ∧ s.mtr[b].rsvState = 1)
    ∧ (∃ (s : State) (h : CmdHdr) (b : Bough) (ch : ℕ), h.bough = b.val ∧ ch < 24 ∧ swapRuns s b = false)
    ∧ (∃ (s : State) (h : CmdHdr) (b : Bough) (n : ℕ) (ref : ℕ), h.bough = b.val ∧ 1 ≤ n ∧ n ≤ 250 ∧ (ref < 24 ∨ ref
      = 255) ∧ s.mtr[b].cal = none)
    ∧ (∃ (s : State) (h : CmdHdr) (b : Bough) (n : ℕ) (ref : ℕ), h.bough = b.val ∧ 1 ≤ n ∧ n ≤ 250 ∧ (ref < 24 ∨ ref
      = 255) ∧ s.mtr[b].cal.isSome = true ∧ CanAnswer s)
    ∧ (∃ (s : State) (h : CmdHdr) (b : Bough) (c : CalRun), h.bough = b.val ∧ s.mtr[b].cal = some c ∧ c.n ≤
      c.counted ∧ CanAnswer s) :=
  ⟨⟨w17, 2, by decide +kernel⟩,
   ⟨w1, 2, 2, by decide +kernel, by decide +kernel, by decide +kernel, by decide +kernel, by decide +kernel,
    by decide +kernel, by decide +kernel, by decide +kernel⟩,
   ⟨w3, 2, 2, 0, by decide +kernel, by decide +kernel, by decide +kernel, by decide +kernel, by decide +kernel,
    by decide +kernel, by decide +kernel, by decide +kernel⟩,
   ⟨w8, 0, 2, by decide +kernel, by decide +kernel, by decide +kernel⟩,
   ⟨w7, 2, 2, by decide +kernel, by decide +kernel, by decide +kernel⟩,
   ⟨w9, 2, 2, by decide +kernel⟩,
   ⟨w10, 2, by decide +kernel, by decide +kernel⟩,
   ⟨w12, 2, { residualPpm := 50, rgain := 1073741824, roff := 5, rdelay := 3 }, by decide +kernel, by decide +kernel,
    by decide +kernel, by decide +kernel⟩,
   ⟨w21, 2, { residualPpm := 101, rgain := 1073741824, roff := 5, rdelay := 3 }, by decide +kernel, by decide +kernel,
    by decide +kernel, by decide +kernel⟩,
   ⟨w13, 2, by decide +kernel, by decide +kernel, by decide +kernel, by decide +kernel⟩,
   ⟨w15, 2, 1, by decide +kernel, by decide +kernel, by decide +kernel⟩,
   ⟨w15, 2, 2001, by decide +kernel, by decide +kernel, by decide +kernel⟩,
   ⟨w21, { bough := 2, tag := 7 }, 2, 0, by decide +kernel, by decide +kernel, by decide +kernel, canAnswer_of _
    (by decide +kernel)⟩,
   ⟨w20, { bough := 2, tag := 7 }, 2, 2, by decide +kernel, by decide +kernel, by decide +kernel, by decide +kernel,
    by decide +kernel, canAnswer_of _ (by decide +kernel)⟩,
   ⟨w2, { bough := 2, tag := 7 }, 2, 3, by decide +kernel, by decide +kernel, by decide +kernel, by decide +kernel,
    by decide +kernel⟩,
   ⟨w8, { bough := 2, tag := 9 }, 2, 2, { failed := false, lost := false, settle := 0, settleS := 0, ovrRun := false,
                                          ovrNeg := false, ovrRunS := false, ovrNegS := false, m3 := [], ovrBlock := false,
                                          ovrNow := false, ovrNoted := false, markNow := false, k0 := none, readmit := false,
                                          value := 0 }, by decide +kernel, by decide +kernel, by decide +kernel,
    by decide +kernel, by decide +kernel, by decide +kernel, by decide +kernel, by decide +kernel, by decide +kernel⟩,
   ⟨w10, { bough := 2, tag := 9 }, 2, 1, by decide +kernel, by decide +kernel, by decide +kernel⟩,
   ⟨w16, { bough := 2, tag := 7 }, 2, 9, by decide +kernel, by decide +kernel, by decide +kernel⟩,
   ⟨w2, { bough := 2, tag := 7 }, 2, 23, 7, by decide +kernel, by decide +kernel, by decide +kernel,
    by decide +kernel, by decide +kernel⟩,
   ⟨w18, { bough := 2, tag := 7 }, 2, 7, 7, by decide +kernel, by decide +kernel, by decide +kernel,
    by decide +kernel, by decide +kernel, canAnswer_of _ (by decide +kernel)⟩,
   ⟨w18, { bough := 2, tag := 7 }, 2, { mask := 15, n := 3, ref := 255, raw := false, begun := false, counted := 3,
                                        passed := 0, cur := #v[{ n := 0, sum := 0, sq := 0 }, { n := 0, sum := 0, sq := 0 }, { n := 0,
                                                                                                                               sum := 0,
                                                                                                                               sq := 0 }, { n := 0,
                                                                                                                                            sum := 0,
                                                                                                                                            sq := 0 }, { n := 0,
                                                                                                                                                         sum := 0,
                                                                                                                                                         sq := 0 }, { n := 0,
                                                                                                                                                                      sum := 0,
                                                                                                                                                                      sq := 0 }, { n := 0,
                                                                                                                                                                                   sum := 0,
                                                                                                                                                                                   sq := 0 }, { n := 0,
                                                                                                                                                                                                sum := 0,
                                                                                                                                                                                                sq := 0 }, { n := 0,
                                                                                                                                                                                                             sum := 0,
                                                                                                                                                                                                             sq := 0 }, { n := 0,
                                                                                                                                                                                                                          sum := 0,
                                                                                                                                                                                                                          sq := 0 }, { n := 0,
                                                                                                                                                                                                                                       sum := 0,
                                                                                                                                                                                                                                       sq := 0 }, { n := 0,
                                                                                                                                                                                                                                                    sum := 0,
                                                                                                                                                                                                                                                    sq := 0 }, { n := 0,
                                                                                                                                                                                                                                                                 sum := 0,
                                                                                                                                                                                                                                                                 sq := 0 }, { n := 0,
                                                                                                                                                                                                                                                                              sum := 0,
                                                                                                                                                                                                                                                                              sq := 0 }, { n := 0,
                                                                                                                                                                                                                                                                                           sum := 0,
                                                                                                                                                                                                                                                                                           sq := 0 }, { n := 0,
                                                                                                                                                                                                                                                                                                        sum := 0,
                                                                                                                                                                                                                                                                                                        sq := 0 }, { n := 0,
                                                                                                                                                                                                                                                                                                                     sum := 0,
                                                                                                                                                                                                                                                                                                                     sq := 0 }, { n := 0,
                                                                                                                                                                                                                                                                                                                                  sum := 0,
                                                                                                                                                                                                                                                                                                                                  sq := 0 }, { n := 0,
                                                                                                                                                                                                                                                                                                                                               sum := 0,
                                                                                                                                                                                                                                                                                                                                               sq := 0 }, { n := 0,
                                                                                                                                                                                                                                                                                                                                                            sum := 0,
                                                                                                                                                                                                                                                                                                                                                            sq := 0 }, { n := 0,
                                                                                                                                                                                                                                                                                                                                                                         sum := 0,
                                                                                                                                                                                                                                                                                                                                                                         sq := 0 }, { n := 0,
                                                                                                                                                                                                                                                                                                                                                                                      sum := 0,
                                                                                                                                                                                                                                                                                                                                                                                      sq := 0 }, { n := 0,
                                                                                                                                                                                                                                                                                                                                                                                                   sum := 0,
                                                                                                                                                                                                                                                                                                                                                                                                   sq := 0 }, { n := 0,
                                                                                                                                                                                                                                                                                                                                                                                                                sum := 0,
                                                                                                                                                                                                                                                                                                                                                                                                                sq := 0 }],
                                        tot := #v[{ n := 0, sum := 0, sq := 0 }, { n := 0, sum := 0, sq := 0 }, { n := 0,
                                                                                                                  sum := 0,
                                                                                                                  sq := 0 }, { n := 0,
                                                                                                                               sum := 0,
                                                                                                                               sq := 0 }, { n := 0,
                                                                                                                                            sum := 0,
                                                                                                                                            sq := 0 }, { n := 0,
                                                                                                                                                         sum := 0,
                                                                                                                                                         sq := 0 }, { n := 0,
                                                                                                                                                                      sum := 0,
                                                                                                                                                                      sq := 0 }, { n := 0,
                                                                                                                                                                                   sum := 0,
                                                                                                                                                                                   sq := 0 }, { n := 0,
                                                                                                                                                                                                sum := 0,
                                                                                                                                                                                                sq := 0 }, { n := 0,
                                                                                                                                                                                                             sum := 0,
                                                                                                                                                                                                             sq := 0 }, { n := 0,
                                                                                                                                                                                                                          sum := 0,
                                                                                                                                                                                                                          sq := 0 }, { n := 0,
                                                                                                                                                                                                                                       sum := 0,
                                                                                                                                                                                                                                       sq := 0 }, { n := 0,
                                                                                                                                                                                                                                                    sum := 0,
                                                                                                                                                                                                                                                    sq := 0 }, { n := 0,
                                                                                                                                                                                                                                                                 sum := 0,
                                                                                                                                                                                                                                                                 sq := 0 }, { n := 0,
                                                                                                                                                                                                                                                                              sum := 0,
                                                                                                                                                                                                                                                                              sq := 0 }, { n := 0,
                                                                                                                                                                                                                                                                                           sum := 0,
                                                                                                                                                                                                                                                                                           sq := 0 }, { n := 0,
                                                                                                                                                                                                                                                                                                        sum := 0,
                                                                                                                                                                                                                                                                                                        sq := 0 }, { n := 0,
                                                                                                                                                                                                                                                                                                                     sum := 0,
                                                                                                                                                                                                                                                                                                                     sq := 0 }, { n := 0,
                                                                                                                                                                                                                                                                                                                                  sum := 0,
                                                                                                                                                                                                                                                                                                                                  sq := 0 }, { n := 0,
                                                                                                                                                                                                                                                                                                                                               sum := 0,
                                                                                                                                                                                                                                                                                                                                               sq := 0 }, { n := 0,
                                                                                                                                                                                                                                                                                                                                                            sum := 0,
                                                                                                                                                                                                                                                                                                                                                            sq := 0 }, { n := 0,
                                                                                                                                                                                                                                                                                                                                                                         sum := 0,
                                                                                                                                                                                                                                                                                                                                                                         sq := 0 }, { n := 0,
                                                                                                                                                                                                                                                                                                                                                                                      sum := 0,
                                                                                                                                                                                                                                                                                                                                                                                      sq := 0 }, { n := 0,
                                                                                                                                                                                                                                                                                                                                                                                                   sum := 0,
                                                                                                                                                                                                                                                                                                                                                                                                   sq := 0 }],
                                        tag := 7 }, by decide +kernel, by decide +kernel, by decide +kernel,
    canAnswer_of _ (by decide +kernel)⟩⟩

end ReserveModulator

namespace EnergyEngine

def rr : EngResult := { seq := 5, flags := 0, totalA := 500 }
def r5 : EngResult := { seq := 6, flags := 0x20, totalA := 500 }
def ng (m : Nrg) (s : State := readyBase) : State := { s with nrg := s.nrg.set 2 m }
def av (m : NrgAvg) (s : State := readyBase) : State := { s with avg := s.avg.set 2 m }
def bb (m : BilBough) (s : State := readyBase) : State := { s with bilB := s.bilB.set 2 m }
def on (s : State) : State := withCfg [(0x6080, 0x60000000)] s
def refd (s : State) : State := { s with avg := s.avg.map (fun a => { a with uOk := Vector.replicate 3 true, uRms := Vector.replicate 3 230000000 }) }
def cx (n : Nat) (s : State) : State := { s with nrg := s.nrg.set 2 { s.nrg[2] with crossN := n, crossFrac := some 0,
                                                                                    goodCyc := s.nrg[2].goodCyc } }
def w7 : State := av { sP := #v[5000000000, 0, 0], sL := 4 } (ng { noGrid := true })
def w8 : State := av { sP := #v[50000000000000, 0, 0], sL := 4 } (ng { noGrid := true, reg := Vector.replicate 6 { count := BitVec.ofNat 64 (2^64-1),
                                                                                                                   residue := 3 } })
def w9 : State := ng { sub := Vector.replicate 3 2442 }
def w11 : State := ng { pendRead := [7] }
def w13 : State := bb { heldRes := #v[some rr, none] }
def w14 : State := bb { heldRes := #v[some r5, some rr] }
def w17 : State := cx 488 (on (refd (ng { noGrid := true, goodCyc := 3 })))
def w18 : State := cx 100 (on (refd (ng { noGrid := true, goodCyc := 3 })))
def w19 : State := cx 488 (on (refd (ng { noGrid := true, goodCyc := 9 })))
def w21 : State := cx 488 (on (refd (ng { noGrid := false, badCyc := 0 })))
def w22 : State := cx 100 (on (refd (ng { noGrid := false, badCyc := 0 })))
def w23 : State := cx 488 (on (refd (ng { noGrid := false, badCyc := 1 })))
def w24 : State := cx 100 (on (refd (ng { noGrid := false, badCyc := 1 })))
def w25 : State := cx 488 (on (ng { noGrid := false }))


/-- The hypotheses of every clause of EnergyEngine are met together by these states and operands. -/
theorem test_EnergyEngine_hypotheses :
    (∃ (s : State) (b : Bough) (x : ℤ) (y : ℤ), s.nrg[b].isDC = true ∨ 0 ≤ x ∨ y < 0)
    ∧ (∃ (s : State) (b : Bough) (x : ℤ) (y : ℤ) (p : ℕ), s.nrg[b].isDC = false ∧ x < 0 ∧ 0 ≤ y ∧ crossPeriod s b x
      y = some p ∧ s.nrg[b].noGrid = true ∧ periodOk s b p = true ∧ hasReference s b = true ∧ s.nrg[b].goodCyc
      < 9)
    ∧ (∃ (s : State) (b : Bough) (x : ℤ) (y : ℤ) (p : ℕ), s.nrg[b].isDC = false ∧ x < 0 ∧ 0 ≤ y ∧ crossPeriod s b x
      y = some p ∧ s.nrg[b].noGrid = true ∧ periodOk s b p = false)
    ∧ (∃ (s : State) (b : Bough) (x : ℤ) (y : ℤ) (p : ℕ), s.nrg[b].isDC = false ∧ x < 0 ∧ 0 ≤ y ∧ crossPeriod s b x
      y = some p ∧ s.nrg[b].noGrid = true ∧ periodOk s b p = true ∧ hasReference s b = true ∧ s.nrg[b].goodCyc
      = 9)
    ∧ (∃ (s : State) (b : Bough) (x : ℤ) (y : ℤ) (p : ℕ), s.nrg[b].isDC = false ∧ x < 0 ∧ 0 ≤ y ∧ crossPeriod s b x
      y = some p ∧ isDC s b = false ∧ s.nrg[b].noGrid = false ∧ periodOk s b p = false ∧ s.nrg[b].badCyc = 1)
    ∧ (∃ (s : State) (b : Bough) (x : ℤ) (y : ℤ) (p : ℕ), s.nrg[b].isDC = false ∧ x < 0 ∧ 0 ≤ y ∧ crossPeriod s b x
      y = some p ∧ isDC s b = false ∧ s.nrg[b].noGrid = false ∧ periodOk s b p = false ∧ s.nrg[b].badCyc = 0 ∧
      hasReference (endCycle b (noteCrossing b x y s)) b = true ∧ s.nrg[b].cycles + 1 < blockCycles s b)
    ∧ (∃ (s : State) (b : Bough), s.nrg[b].noGrid = false)
    ∧ (∃ (s : State) (b : Bough), s.nrg[b].noGrid = true)
    ∧ (∃ (s : State) (b : Bough), s.nrg[b].noGrid = false)
    ∧ (∃ (s : State) (b : Bough), s.nrg[b].noGrid = true ∧ s.nrg[b].isDC = isDC s b ∧ 0 < s.avg[b].sP[0] ∧
      s.avg[b].sP[1] = 0 ∧ s.avg[b].sP[2] = 0)
    ∧ (∃ (s : State) (b : Bough) (x : Fin 3), 2441 < s.nrg[b].sub[x] ∧ s.nrg[b].gapPh[x] = false)
    ∧ (∃ (s : State) (b : Bough) (x : Fin 3), s.nrg[b].sub[x] ≤ 2441)
    ∧ (∃ (h : CmdHdr) (b : Bough), h.bough = b.val)
    ∧ (∃ (s : State) (b : Bough) (g : ℕ), s.nrg[b].pendRead = [g] ∧ CanAnswer s)
    ∧ (∃ (s : State) (b : Bough) (k : Fin 2) (r : EngResult), s.bilB[b].heldRes[k] = some r ∧ s.bilB[b].gapOpen =
      false ∧ r.flags.getLsbD 5 = false)
    ∧ (∃ (s : State) (b : Bough) (k : Fin 2), s.bilB[b].heldRes[k] = none)
    ∧ (∃ (s : State) (b : Bough), 6 ≤ s.start.done ∧ s.bilB[b].gapOpen = false)
    ∧ (∃ (s : State), 6 ≤ s.start.done ∧ s.bil.stopped = false ∧ pricing s = false)
    ∧ (∃ (s : State), 6 ≤ s.start.done ∧ s.bil.savedTick ≠ some s.lat.ms)
    ∧ (∃ (s : State), 6 ≤ s.start.done) :=
  ⟨⟨w23, 2, 0, -1, by decide +kernel⟩,
   ⟨w17, 2, -1, 0, 125184, by decide +kernel, by decide +kernel, by decide +kernel, by decide +kernel,
    by decide +kernel, by decide +kernel, by decide +kernel, by decide +kernel⟩,
   ⟨w18, 2, -1, 1, 25728, by decide +kernel, by decide +kernel, by decide +kernel, by decide +kernel,
    by decide +kernel, by decide +kernel⟩,
   ⟨w19, 2, -1, 1, 125056, by decide +kernel, by decide +kernel, by decide +kernel, by decide +kernel,
    by decide +kernel, by decide +kernel, by decide +kernel, by decide +kernel⟩,
   ⟨w24, 2, -1, 1, 25728, by decide +kernel, by decide +kernel, by decide +kernel, by decide +kernel,
    by decide +kernel, by decide +kernel, by decide +kernel, by decide +kernel⟩,
   ⟨w22, 2, -1, 0, 25856, by decide +kernel, by decide +kernel, by decide +kernel, by decide +kernel,
    by decide +kernel, by decide +kernel, by decide +kernel, by decide +kernel, by decide +kernel, by decide +kernel⟩,
   ⟨w21, 2, by decide +kernel⟩,
   ⟨w18, 2, by decide +kernel⟩,
   ⟨w22, 2, by decide +kernel⟩,
   ⟨w8, 2, by decide +kernel, by decide +kernel, by decide +kernel, by decide +kernel, by decide +kernel⟩,
   ⟨w9, 2, 2, by decide +kernel, by decide +kernel⟩,
   ⟨w18, 2, 0, by decide +kernel⟩,
   ⟨{ bough := 2, tag := 9 }, 2, by decide +kernel⟩,
   ⟨w11, 2, 7, by decide +kernel, canAnswer_of _ (by decide +kernel)⟩,
   ⟨w13, 2, 0, { seq := 5, flags := 0, totalA := 0x00000000000001f4, totalB := 0x0000000000000000, totalC := 0x0000000000000000,
                 aux := 0 }, by decide +kernel, by decide +kernel, by decide +kernel⟩,
   ⟨w18, 2, 0, by decide +kernel⟩,
   ⟨w9, 0, by decide +kernel, by decide +kernel⟩,
   ⟨w14, by decide +kernel, by decide +kernel, by decide +kernel⟩,
   ⟨w25, by decide +kernel, by decide +kernel⟩,
   ⟨w7, by decide +kernel⟩⟩

end EnergyEngine

namespace TariffClock

def bl (b : Bil) (s : State := readyBase) : State := { s with bil := b }
def rb : Bil := { readyBase.bil with check := sha256 [] }
def at1 (s : State) : State := { s with bak := { s.bak with caltime := 1700000100 } }
def w0 : State := readyBase
def w2 : State := at1 (bl { rb with intOpen := true })
def w4 : State := bl { rb with covered := true, waiting := [{ no := 3 }], queue := [{ no := 2 }] }
def w5 : State := bl { rb with code := [1,2,3], codeLen := 2, check := sha256 [1,2] }
def w6 : State := bl { rb with code := [1,2,3], codeLen := 3, check := sha256 [1,2] }
def w7 : State := State.reset


/-- The hypotheses of every clause of TariffClock are met together by these states and operands. -/
theorem test_TariffClock_hypotheses :
    (∃ (s : State), 6 ≤ s.start.done ∧ s.bil.stopped = false)
    ∧ (∃ (s : State), 6 ≤ s.start.done ∧ s.bil.stopped = false ∧ atBoundary s = true)
    ∧ (∃ (s : State), s.timeKnown = false)
    ∧ (∃ (s : State), s.bil.covered = true ∧ s.bil.queue.length + s.bil.waiting.length ≤ 1024)
    ∧ (∃ (s : State), sha256 (List.take s.bil.codeLen s.bil.code) = s.bil.check)
    ∧ (∃ (s : State), 6 ≤ s.start.done ∧ s.bil.stopped = false ∧ sha256 (List.take s.bil.codeLen s.bil.code) ≠
      s.bil.check) :=
  ⟨⟨w5, by decide +kernel, by decide +kernel⟩,
   ⟨w2, by decide +kernel, by decide +kernel, by decide +kernel⟩,
   ⟨w7, by decide +kernel⟩,
   ⟨w4, by decide +kernel, by decide +kernel⟩,
   ⟨w5, by decide +kernel⟩,
   ⟨w6, by decide +kernel, by decide +kernel, by decide +kernel⟩⟩

end TariffClock

namespace BillingCommands

def bl (b : Bil) (s : State := readyBase) : State := { s with bil := b }
def r1 : Reading := { no := 3, raw := [1] }
def r2 : Reading := { no := 7 }
def rb : Bil := { readyBase.bil with check := sha256 [] }
def lr : LogRec := { code := 0x0701, data := [0,0,0,0,5,0,0,0,1,2] }
def ts (n : Nat) (s : State) : State := withCfg [(0x7000, 0x20000000 + n * 0x04000000)] s
def w0 : State := ts 0 readyBase
def w1 : State := ts 1 (bl rb)
def w3 : State := bl { rb with queue := [r1] }
def w5 : State := bl { rb with queue := [r1, r2, { no := 9 }] }
def w6 : State := ts 0 { (bl rb) with bilB := readyBase.bilB.map (fun x => { x with readNow := true }) }
def w7 : State := { (bl rb) with nv := { readyBase.nv with flash := { readyBase.nv.flash with reading := { recs := [(0, lr), (1, lr)] } } } }
def w8 : State := State.reset


/-- The hypotheses of every clause of BillingCommands are met together by these states and operands. -/
theorem test_BillingCommands_hypotheses :
    (∃ (s : State), fld s.bilCfg 27 26 = 1 ∧ CanAnswer s)
    ∧ (∃ (s : State) (off : Byte), fld s.bilCfg 27 26 = 0 ∧ off ≠ 127)
    ∧ (∃ (s : State) (utc : BitVec 32), fld s.bilCfg 27 26 = 0 ∧ utc ≠ 4294967295)
    ∧ (∃ (s : State) (pre : List Reading) (post : List Reading) (r : Reading), s.bil.queue = pre ++ r :: post ∧ ∀ x
      ∈ pre, x.no ≠ r.no)
    ∧ (∃ (s : State) (no : ℕ), (∀ x ∈ s.bil.queue, x.no ≠ no) ∧ CanAnswer s)
    ∧ (∃ (s : State) (h : CmdHdr) (b : Bough), h.bough = b.val ∧ s.bil.stopped = false ∧ s.bilB[b].readNow = true ∧
      CanAnswer s)
    ∧ (∃ (s : State) (h : CmdHdr) (b : Bough), h.bough = b.val ∧ s.bil.stopped = false ∧ s.bilB[b].readNow = false)
    ∧ (∃ (s : State), CanAnswer s)
    ∧ (∃ (s : State) (count : ℕ), (count = 0 ∨ 1024 < count) ∧ CanAnswer s)
    ∧ (∃ (s : State) (first : ℕ) (count : ℕ), 1 ≤ count ∧ count ≤ 1024 ∧ loggedReadings s first count ≠ []) :=
  ⟨⟨w1, by decide +kernel, canAnswer_of _ (by decide +kernel)⟩,
   ⟨w0, 255, by decide +kernel, by decide +kernel⟩,
   ⟨w6, 12, by decide +kernel, by decide +kernel⟩,
   ⟨w3, [], [], { no := 3, bough := 0, kind := 0, raw := [1] }, by decide +kernel, by decide +kernel⟩,
   ⟨w1, 10, by decide +kernel, canAnswer_of _ (by decide +kernel)⟩,
   ⟨w6, { bough := 2, tag := 7 }, 2, by decide +kernel, by decide +kernel, by decide +kernel, canAnswer_of _
    (by decide +kernel)⟩,
   ⟨w8, { bough := 0, tag := 9 }, 0, by decide +kernel, by decide +kernel, by decide +kernel⟩,
   ⟨w0, canAnswer_of _ (by decide +kernel)⟩,
   ⟨w5, 24987500, by decide +kernel, canAnswer_of _ (by decide +kernel)⟩,
   ⟨w7, 1, 256, by decide +kernel, by decide +kernel, by decide +kernel⟩⟩

end BillingCommands

namespace LoadChannels

def ax (c : AuxCh) (s : State := readyBase) : State := { s with aux := s.aux.set 2 c }
def lamp (s : State) : State := withCfg [(0x8008, 0x04000000 + 0x3E8)] s
def own1 (s : State) : State := withCfg [(0x8008, 0x40000000)] s
def rt3 (s : State) : State := withCfg [(0x8008, 0x00000C00)] s
def w0 : State := readyBase
def w2 : State := ax { on := true, inrush := true, duty := 500 }
def w3 : State := lamp (ax { on := true, duty := 500 })
def w4 : State := rt3 (ax { on := true, duty := 500, retryCnt := 3 })
def w5 : State := rt3 (ax { on := true, duty := 500, retryCnt := 1 })
def w6 : State := own1 readyBase
def w7 : State := ax { retryWait := true, retryCnt := 1, duty := 500 }
def w8 : State := ax { retryWait := true, hot := true }
def w10 : State := withCfg [(0x8100, 0x450A03E8)] readyBase
def w14 : State := State.reset


/-- The hypotheses of every clause of LoadChannels are met together by these states and operands. -/
theorem test_LoadChannels_hypotheses :
    (∃ (s : State) (mask : BitVec 32), ∃ duty ≤ 1000, ∀ (c : Fin 32), mask.getLsbD c.val = true → auxOwner s c = 0
      ∧ s.aux[c].bridge = false)
    ∧ (∃ (s : State) (duty : ℕ), 1000 < duty ∧ CanAnswer s)
    ∧ (∃ (s : State) (mask : BitVec 32) (duty : ℕ) (c : Fin 32), duty ≤ 1000 ∧ mask.getLsbD c.val = true ∧ auxOwner
      s c ≠ 0 ∧ CanAnswer s)
    ∧ (∃ (s : State) (c : Fin 32), s.aux[c].on = true)
    ∧ (∃ (s : State) (c : Fin 32), s.aux[c].on = false)
    ∧ (∃ (s : State) (c : Fin 32), s.aux[c].on = true ∧ s.aux[c].inrush = true)
    ∧ (∃ (s : State) (c : Fin 32), s.aux[c].on = true ∧ s.aux[c].inrush = false ∧ auxFailsafe s = false ∧
      s.aux[c].retryCnt ≠ fld (s.auxChCfg c.val) 13 10)
    ∧ (∃ (s : State) (c : Fin 32), s.aux[c].on = true ∧ s.aux[c].inrush = false ∧ auxFailsafe s = false ∧
      s.aux[c].retryCnt = fld (s.auxChCfg c.val) 13 10)
    ∧ (∃ (s : State) (c : Fin 32), s.aux[c].retryWait = true ∧ s.aux[c].hot = false ∧ auxFailsafe s = false)
    ∧ (∃ (s : State) (c : Fin 32), s.aux[c].retryWait = true ∧ s.aux[c].hot = true)
    ∧ (∃ (s : State) (c : Fin 32), s.aux[c].on = true)
    ∧ (∃ (s : State) (c : Fin 32) (d : ℕ), s.aux[c].on = true ∧ auxDuty s c = d ∧ 0 < d ∧ bitOf (s.auxChCfg c.val)
      26 = true ∧ bitOf (s.auxChCfg c.val) 25 = false ∧ auxFailsafe s = false ∧ s.aux[c].bridge = false)
    ∧ (∃ (s : State), fld s.auxDevCfg 31 30 = 1)
    ∧ (∃ (s : State) (g : Fin 4), s.supply.inRange.getLsbD (9 + g.val) = false)
    ∧ (∃ (s : State) (c : Fin 32) (g : Fin 4), s.supply.inRange.getLsbD (9 + g.val) = true ∧ c.val / 8 = g.val)
    ∧ (∃ (d : ℕ) (vref : ℕ) (vs : ℕ), d ≤ 1000 ∧ 2 ≤ vref ∧ vref ≤ 2 * vs ∧ lampDuty d vref vs < 1000)
    ∧ (∃ (d : ℕ) (vref : ℕ) (vs : ℕ) (vs' : ℕ), d ≤ 1000 ∧ 2 ≤ vref ∧ vs ≤ vs') :=
  ⟨⟨w14, 4, 1, by decide +kernel, by decide +kernel⟩,
   ⟨w0, 1300, by decide +kernel, canAnswer_of _ (by decide +kernel)⟩,
   ⟨w6, 4, 500, 2, by decide +kernel, by decide +kernel, by decide +kernel, canAnswer_of _ (by decide +kernel)⟩,
   ⟨w3, 2, by decide +kernel⟩,
   ⟨w14, 2, by decide +kernel⟩,
   ⟨w2, 2, by decide +kernel, by decide +kernel⟩,
   ⟨w5, 2, by decide +kernel, by decide +kernel, by decide +kernel, by decide +kernel⟩,
   ⟨w4, 2, by decide +kernel, by decide +kernel, by decide +kernel, by decide +kernel⟩,
   ⟨w7, 2, by decide +kernel, by decide +kernel, by decide +kernel⟩,
   ⟨w8, 2, by decide +kernel, by decide +kernel⟩,
   ⟨w3, 2, by decide +kernel⟩,
   ⟨w3, 2, 500, by decide +kernel, by decide +kernel, by decide +kernel, by decide +kernel, by decide +kernel,
    by decide +kernel, by decide +kernel⟩,
   ⟨w10, by decide +kernel⟩,
   ⟨w14, 1, by decide +kernel⟩,
   ⟨w5, 2, 0, by decide +kernel, by decide +kernel⟩,
   ⟨500, 3, 500, by decide +kernel, by decide +kernel, by decide +kernel, by decide +kernel⟩,
   ⟨599, 1000, 0, 2400, by decide +kernel, by decide +kernel, by decide +kernel⟩⟩

end LoadChannels

namespace DisplayRuns

def lc (c : Lcd) (s : State := readyBase) : State := { s with lcd := c }
def on : Lcd := { glyph := some [1], latest := #v[1,2,3,4], shown := #v[5,6,7,8], dirty := 15, target := 4100, vlcd := 205 }
def w0 : State := ssn { state := .charging } (lc { on with state := .showing })
def w3 : State := lc { on with state := .showing, backlight := true }
def w4 : State := lc { on with state := .pump, pump := true }
def w5 : State := lc { on with state := .clearing, clearFrames := 1, startMs := 0 }
def w8 : State := lc { on with state := .showing, stopCause := 2 }
def w10 : State := lc { on with faulted := true }
def w11 : State := withCfg [(0x9000, 0xC52003E8)] (lc { on with state := .showing, page := 3 })
def w12 : State := withCfg [(0x9000, 0xC52003E8)] (lc { on with state := .lowPower })


/-- The hypotheses of every clause of DisplayRuns are met together by these states and operands. -/
theorem test_DisplayRuns_hypotheses :
    (∃ (s : State), heartwoodRuns s = true ∧ s.lcd.glyph.isSome = true ∧ s.lcd.stopCause ≠ 2)
    ∧ (∃ (s : State), s.lcd.state = LcdState.showing ∧ s.lcd.stopCause = 0)
    ∧ (∃ (s : State), s.lcd.state = LcdState.pump ∧ s.lcd.stopCause = 0)
    ∧ (∃ (s : State), s.lcd.state = LcdState.clearing ∧ s.lcd.stopCause = 0 ∧ s.lcd.clearFrames = 1 ∧ CanReport 2305
      4 s)
    ∧ (∃ (s : State), s.lcd.state = LcdState.showing ∧ s.lcd.stopCause ≠ 0)
    ∧ (∃ (s : State) (mv : ℕ), s.lcd.state = LcdState.showing ∧ vlcdInRange s mv = false)
    ∧ (∃ (s : State) (mv : ℕ), vlcdInRange s mv = true)
    ∧ (∃ (s : State), s.lcd.faulted = true ∧ heartwoodRuns s = true ∧ s.lcd.state = LcdState.off ∧ bitOf s.lcdCfg 31
      = true ∧ s.lcd.glyph.isSome = true)
    ∧ (∃ (s : State), s.lcd.state = LcdState.showing ∧ s.lcd.stopCause = 0)
    ∧ (∃ (s : State), s.lcd.state = LcdState.showing ∧ s.lcd.stopCause = 0 ∧ bitOf s.lcdCfg 30 = true ∧ anyEnergised
      s = false)
    ∧ (∃ (s : State), s.lcd.state = LcdState.showing ∧ s.lcd.stopCause = 0 ∧ anyEnergised s = true)
    ∧ (∃ (s : State), s.lcd.state = LcdState.lowPower ∧ s.lcd.stopCause = 0) :=
  ⟨⟨w10, by decide +kernel, by decide +kernel, by decide +kernel⟩,
   ⟨w3, by decide +kernel, by decide +kernel⟩,
   ⟨w4, by decide +kernel, by decide +kernel⟩,
   ⟨w5, by decide +kernel, by decide +kernel, by decide +kernel, canReport_of _ _ _ (by decide +kernel)⟩,
   ⟨w8, by decide +kernel, by decide +kernel⟩,
   ⟨w8, 0, by decide +kernel, by decide +kernel⟩,
   ⟨w11, 4300, by decide +kernel⟩,
   ⟨w10, by decide +kernel, by decide +kernel, by decide +kernel, by decide +kernel, by decide +kernel⟩,
   ⟨w11, by decide +kernel, by decide +kernel⟩,
   ⟨w11, by decide +kernel, by decide +kernel, by decide +kernel, by decide +kernel⟩,
   ⟨w0, by decide +kernel, by decide +kernel, by decide +kernel⟩,
   ⟨w12, by decide +kernel, by decide +kernel⟩⟩

end DisplayRuns

namespace CanopyTurns

def recs (st rank flags : Byte) : List Byte := leN 4 0x11223344 ++ [st, rank, flags, 0] ++ leN 4 0 ++ List.replicate
    120 0 ++ [1,2,5,9,255,255,255,255] ++ List.replicate 60 0
def rec0 : List Byte := recs 2 1 3
def recr (rank flags : Byte) : List Byte := recs 2 rank flags
def cn (c : Canopy) (s : State := readyBase) : State := withCfg [(0xA008, 0x01404B4B)] { s with canopy := c }
def c0 : Canopy := { record := some rec0, key0 := some (List.replicate 32 5), coord := 5, turn := 7, turnKnown := true }
def sender (st rank : Byte) : State := cn { c0 with role := 3, record := some (recs st rank 3), slots := [(1,2,3)],
                                                    memberMap := 4 }
def bcn (rank tk timeK : Nat) (m : BitVec 64) : List Byte :=
  let b := beaconBody { (sender 1 1) with canopy := { (sender 1 1).canopy with memberMap := m,
                                                                                                                                            turnKnown := tk == 1,
                                                                                                                                            turn := 9 } }
    0
  (b.take 11) ++ [BitVec.ofNat 8 (tk + 2 * timeK)] ++ (b.drop 12).take 4 ++ [BitVec.ofNat 8 rank] ++ b.drop 17
def cz (s : State) : State := withCfg [(0xA000, 0xC0000000)] s
def w1 : State := cn { c0 with role := 3 }
def w2 : State := cz (cn { c0 with role := 3, czcLock := true, turnLen := 36000, czcEdge := true })
def w3 : State := cz (cn { c0 with role := 3, czcGood := 9, czcEdge := true })
def w4 : State := cz (cn { c0 with role := 3 })
def w5 : State := cn { c0 with role := 2 }
def w6 : State := cn { c0 with role := 2, turn := 100 }
def w7 : State := cn { c0 with role := 3, record := some (recr 0 3) }
def w8 : State := cn { c0 with role := 3, record := some (recr 6 3) }
def w9 : State := cn { c0 with role := 2, missed := 4 }
def w10 : State := cn { c0 with role := 2, missed := 3 }
def w12 : State := cn { c0 with role := 1, listening := true, record := some (recr 0 3) }
def w13 : State := cn { c0 with role := 4, listening := true }


/-- The hypotheses of every clause of CanopyTurns are met together by these states and operands. -/
theorem test_CanopyTurns_hypotheses :
    (∃ (s : State), s.canopy.role ≠ 3)
    ∧ (∃ (s : State), s.canopy.role = 3 ∧ s.canopy.turnKnown = true ∧ s.canopy.tripDue = [] ∧ s.canopy.ceilDue = [])
    ∧ (∃ (s : State), bitOf s.cnpCfg 30 = true ∧ s.canopy.czcEdge = false)
    ∧ (∃ (s : State) (p : ℕ), bitOf s.cnpCfg 30 = true ∧ s.canopy.czcEdge = true ∧ s.canopy.role = 3 ∧ 30000 ≤ p ∧ p
      ≤ 45000 ∧ s.canopy.czcGood = 9)
    ∧ (∃ (s : State) (p : ℕ), bitOf s.cnpCfg 30 = true ∧ s.canopy.czcEdge = true ∧ s.canopy.role = 3 ∧ (p < 30000 ∨
      45000 < p))
    ∧ (∃ (s : State), bitOf s.cnpCfg 30 = true ∧ s.canopy.role = 3)
    ∧ (∃ (s : State) (f : CnpRx) (body : List Byte), Delivers 0 f body s ∧ s.canopy.role = 2 ∧ (beaconOf
      body).timeKnown = false ∧ (beaconOf body).turnKnown = true ∧ (beaconOf body).memberMap.getLsbD
      (ownStation s) = true)
    ∧ (∃ (s : State) (f : CnpRx) (body : List Byte), Delivers 0 f body s ∧ s.canopy.role = 3 ∧ (cnpRank s <
      (beaconOf body).rank ∨ cnpRank s = (beaconOf body).rank ∧ ownStation s < fcSrc f))
    ∧ (∃ (s : State) (f : CnpRx) (body : List Byte), Delivers 0 f body s ∧ s.canopy.role = 3 ∧ (beaconOf body).rank
      < cnpRank s ∧ (beaconOf body).timeKnown = false ∧ (beaconOf body).memberMap.getLsbD (ownStation s) =
      true)
    ∧ (∃ (s : State), s.canopy.listening = true ∧ cnpMayRun s = true ∧ 0 < cnpRank s)
    ∧ (∃ (s : State), s.canopy.listening = true ∧ cnpMayRun s = true ∧ cnpRank s = 0)
    ∧ (∃ (s : State), s.canopy.role = 2 ∧ s.canopy.tripDue = [] ∧ s.canopy.ceilDue = [] ∧ s.canopy.turnKnown = true
      ∧ s.canopy.missed < 4)
    ∧ (∃ (s : State), s.canopy.role = 2 ∧ s.canopy.tripDue = [] ∧ s.canopy.ceilDue = [] ∧ s.canopy.turnKnown = true
      ∧ s.canopy.missed = 4) :=
  ⟨⟨w10, by decide +kernel⟩,
   ⟨w2, by decide +kernel, by decide +kernel, by decide +kernel, by decide +kernel⟩,
   ⟨w4, by decide +kernel, by decide +kernel⟩,
   ⟨w3, 30000, by decide +kernel, by decide +kernel, by decide +kernel, by decide +kernel, by decide +kernel,
    by decide +kernel⟩,
   ⟨w2, 29999, by decide +kernel, by decide +kernel, by decide +kernel, by decide +kernel⟩,
   ⟨w2, by decide +kernel, by decide +kernel⟩,
   ⟨w5, sealedRx 1 0 255 0 (bcn 0 1 0 4), bcn 0 1 0 4, delivers_sealedBeacon _ _ _ _ _ (by decide +kernel),
    by decide +kernel, by decide +kernel, by decide +kernel, by decide +kernel⟩,
   ⟨w7, sealedRx 1 0 255 0 (bcn 5 1 0 4), bcn 5 1 0 4, delivers_sealedBeacon _ _ _ _ _ (by decide +kernel),
    by decide +kernel, by decide +kernel⟩,
   ⟨w8, sealedRx 1 0 255 0 (bcn 0 1 0 4), bcn 0 1 0 4, delivers_sealedBeacon _ _ _ _ _ (by decide +kernel),
    by decide +kernel, by decide +kernel, by decide +kernel, by decide +kernel⟩,
   ⟨w13, by decide +kernel, by decide +kernel, by decide +kernel⟩,
   ⟨w12, by decide +kernel, by decide +kernel, by decide +kernel⟩,
   ⟨w6, by decide +kernel, by decide +kernel, by decide +kernel, by decide +kernel, by decide +kernel⟩,
   ⟨w9, by decide +kernel, by decide +kernel, by decide +kernel, by decide +kernel, by decide +kernel⟩⟩

end CanopyTurns

namespace CanopySite

def recs (st rank flags : Byte) : List Byte := leN 4 0x11223344 ++ [st, rank, flags, 0] ++ leN 4 0 ++ List.replicate
    120 0 ++ [1,2,5,9,255,255,255,255] ++ List.replicate 60 0
def rec0 : List Byte := recs 2 1 3
def cn (c : Canopy) (s : State := readyBase) : State := withCfg [(0xA008, 0x01404B4B)] { s with canopy := c }
def c0 : Canopy := { record := some rec0, key0 := some (List.replicate 32 5), coord := 5, turn := 7, turnKnown := true }
def vb (s : State) : State := { s with ses := s.ses.set 2 { state := .charging }, ports := s.ports.set 2 { state := .C } }
def w2 : State := cn { c0 with role := 3, members := [{ station := 1, silent := 25 }] }
def w3 : State := cn { c0 with role := 3, members := [{ station := 1, silent := 24 }, { station := 5, silent := 30 }, { station := 1,
                                                                                                                        silent := 30 }] }
def w4 : State := vb (cn { c0 with role := 3, lmCount := 100, members := [{ station := 1, demand := #v[100,0,60,0,0,0,0,0] }, { station := 5 }] })
def w5 : State := cn { c0 with role := 3, lmCount := 100 }
def w8 : State := cn { c0 with role := 2, siteCeil := some (Vector.replicate 8 100), ceilTurns := 4, tripZero := true }


/-- The hypotheses of every clause of CanopySite are met together by these states and operands. -/
theorem test_CanopySite_hypotheses :
    (∃ (s : State) (f : CnpRx) (body : List Byte), s.canopy.role = 3 ∧ Delivers 6 f body s ∧ fcSrc f ≤ 63 ∧ ∀ e ∈
      s.canopy.members, e.station ≠ fcSrc f)
    ∧ (∃ (s : State) (f : CnpRx) (body : List Byte), s.canopy.role = 3 ∧ Delivers 3 f body s)
    ∧ (∃ (s : State) (station : ℕ), s.canopy.role = 3 ∧ station ≠ ownStation s)
    ∧ (∃ (s : State), mayAllocate s = true)
    ∧ (∃ (n : ℕ) (avail : ℕ) (act : List Want) (w : Want), act.length < n ∧ w ∈ allocate n avail act)
    ∧ (∃ (s : State) (f : CnpRx) (body : List Byte), joinedSite s = true ∧ Delivers 4 f body s)
    ∧ (∃ (s : State), s.canopy.ceilTurns = 0)
    ∧ (∃ (s : State), s.canopy.ceilTurns ≠ 0)
    ∧ (∃ (s : State) (f : CnpRx) (body : List Byte), Delivers 5 f body s) :=
  ⟨⟨w5, sealedRx 9 6 255 0 ct3, _, by decide +kernel, delivers_sealed _ _ _ _ _ _ (by decide +kernel),
    by decide +kernel, fun e h => nomatch h⟩,
   ⟨w3, sealedRx 1 3 255 1 ct3, _, by decide +kernel, delivers_sealed _ _ _ _ _ _ (by decide +kernel)⟩,
   ⟨w5, 1, by decide +kernel, by decide +kernel⟩,
   ⟨w5, by decide +kernel⟩,
   ⟨100, 1, [(2, 3, 6), (2, 2, 320), (5, 2, 60), (5, 2, 320)], (2, 2, 0), by decide +kernel, by decide +kernel⟩,
   ⟨w8, sealedRx 9 4 255 2 ct3, _, by decide +kernel, delivers_sealed _ _ _ _ _ _ (by decide +kernel)⟩,
   ⟨w2, by decide +kernel⟩,
   ⟨w8, by decide +kernel⟩,
   ⟨w2, sealedRx 1 5 255 3 ct3, _, delivers_sealed _ _ _ _ _ _ (by decide +kernel)⟩⟩

end CanopySite

namespace CanopyMessages

def recs (st rank flags : Byte) : List Byte := leN 4 0x11223344 ++ [st, rank, flags, 0] ++ leN 4 0 ++ List.replicate
    120 0 ++ [1,2,5,9,255,255,255,255] ++ List.replicate 60 0
def rec0 : List Byte := recs 2 1 3
def cn (c : Canopy) (s : State := readyBase) : State := withCfg [(0xA008, 0x01404B4B)] { s with canopy := c }
def c0 : Canopy := { record := some rec0, key0 := some (List.replicate 32 5), coord := 5, turn := 7, turnKnown := true }
def m0 (n : Nat) : TxMsg := { dst := 1, cls := 0, blocks := [{ seq := 0, bytes := [1], attempts := n }, { seq := 1,
                                                                                                          bytes := [2],
                                                                                                          attempts := 1 }],
                              tag := some 7 }
def w0 : State := readyBase
def w1 : State := cn { c0 with role := 3 }
def w2 : State := cn { c0 with role := 2 }
def w3 : State := cn { c0 with role := 2 }
def w5 : State := cn { c0 with role := 2, keyIdx := true }
def w6 : State := cn { c0 with role := 2, tx := [m0 1] }
def w7 : State := cn { c0 with role := 2, tx := [m0 7] }
def w8 : State := cn { c0 with role := 2, tx := [m0 8, m0 3] }
def w9 : State := cn { c0 with role := 2, msgCount := 0xFFFFFF, msgTime := 5 }
def w11 : State := cn { c0 with role := 2, peers := [{ station := 1, tmap := 3 }] }
def w12 : State := cn { c0 with role := 2, peers := [{ station := 1, tmap := 3 }, { station := 5, tmap := 7 }] }
def w14 : State := cn { c0 with role := 2, tx := [m0 8] }


/-- The hypotheses of every clause of CanopyMessages are met together by these states and operands. -/
theorem test_CanopyMessages_hypotheses :
    (∃ (s : State) (f : CnpRx), hears s 6 f = true ∧ fcSite f ≠ cnpSite s ∧ CanReport 2570 2 s)
    ∧ (∃ (s : State) (f : CnpRx), hears s 6 f = true ∧ frameReason s f = none ∧ (collect f (deriveMap f (acknowledge
      f (noteCrx s)))).1.any (fun msg => !keyAccepted s (fcKey f) || (openMsg (collect f (deriveMap f
      (acknowledge f (noteCrx s)))).2 f msg).isNone) = true ∧ CanReport 2570 2 s)
    ∧ (∃ (s : State) (f : CnpRx) (body : List Byte), Delivers 1 f body s ∧ joinedSite s = true ∧ CanReport 2572 (2 +
      body.length) s)
    ∧ (∃ (s : State) (f : CnpRx) (m : TxMsg) (mask : BitVec 64), hears s 2 f = true ∧ frameReason s f = none ∧ txTo
      s (fcSrc f) = some m ∧ failedOf m mask = [])
    ∧ (∃ (s : State) (f : CnpRx) (m : TxMsg) (mask : BitVec 64), hears s 2 f = true ∧ frameReason s f = none ∧ txTo
      s (fcSrc f) = some m ∧ failedOf m mask ≠ [] ∧ ∀ e ∈ failedOf m mask, e.attempts < 8)
    ∧ (∃ (s : State) (f : CnpRx) (m : TxMsg) (mask : BitVec 64), hears s 2 f = true ∧ frameReason s f = none ∧ txTo
      s (fcSrc f) = some m ∧ ∃ e ∈ failedOf m mask, 8 ≤ e.attempts)
    ∧ (∃ (s : State) (f : CnpRx) (body : List Byte), Delivers 7 f body s)
    ∧ (∃ (s : State) (dst : ℕ) (cls : ℕ) (data : List Byte), CanAnswer s ∧ (63 < dst ∧ dst ≠ 255 ∨ 1 < cls ∨ data =
      [] ∨ 1500 < data.length))
    ∧ (∃ (s : State) (dst : ℕ) (cls : ℕ) (data : List Byte), (dst ≤ 63 ∨ dst = 255) ∧ cls ≤ 1 ∧ data ≠ [] ∧
      data.length ≤ 1500 ∧ CanAnswer s ∧ joinedSite s = false)
    ∧ (∃ (s : State) (dst : ℕ) (cls : ℕ) (data : List Byte), (dst ≤ 63 ∨ dst = 255) ∧ cls ≤ 1 ∧ data ≠ [] ∧
      data.length ≤ 1500 ∧ joinedSite s = true ∧ dst ≠ 255)
    ∧ (∃ (s : State) (dst : ℕ) (cls : ℕ) (data : List Byte), (dst ≤ 63 ∨ dst = 255) ∧ cls ≤ 1 ∧ data ≠ [] ∧
      data.length ≤ 1500 ∧ CanAnswer s ∧ joinedSite s = true ∧ dst = 255)
    ∧ (∃ (s : State), s.canopy.msgCount < 16777215)
    ∧ (∃ (s : State), 16777215 ≤ s.canopy.msgCount) :=
  ⟨⟨w12, { (sealedRx 1 6 255 1 []) with fc := otherSite }, by decide +kernel, by decide +kernel, canReport_of _ _ _
    (by decide +kernel)⟩,
   ⟨w6, { fc := siteFc 1 6 255 1 true, counter := 99, capacity := 200, blocks := cutBlocks [1] }, by decide +kernel,
    by decide +kernel, by decide +kernel, canReport_of _ _ _ (by decide +kernel)⟩,
   ⟨w11, sealedRx 1 1 2 1 ct3, _, delivers_sealed _ _ _ _ _ _ (by decide +kernel), by decide +kernel, canReport_le _ 5
    _ _ (canReport_of _ _ _ (by decide +kernel)) (textOfCt3_le 1)⟩,
   ⟨w6, sealedRx 1 2 2 0 [1], m0 1, 3, by decide +kernel, by decide +kernel, by decide +kernel, by decide +kernel⟩,
   ⟨w6, sealedRx 1 2 2 0 [1], m0 1, 0, by decide +kernel, by decide +kernel, by decide +kernel, by decide +kernel,
    by decide +kernel⟩,
   ⟨w14, sealedRx 1 2 2 0 [1], m0 8, 0, by decide +kernel, by decide +kernel, by decide +kernel, by decide +kernel⟩,
   ⟨w1, sealedRx 1 7 255 0 ct3, _, delivers_sealed _ _ _ _ _ _ (by decide +kernel)⟩,
   ⟨w8, 64, 1, [7], canAnswer_of _ (by decide +kernel), by decide +kernel⟩,
   ⟨w0, 0, 1, [7], by decide +kernel, by decide +kernel, by decide +kernel, by decide +kernel, canAnswer_of _
    (by decide +kernel), by decide +kernel⟩,
   ⟨w7, 5, 1, [7], by decide +kernel, by decide +kernel, by decide +kernel, by decide +kernel, by decide +kernel,
    by decide +kernel⟩,
   ⟨w5, 255, 1, [7], by decide +kernel, by decide +kernel, by decide +kernel, by decide +kernel, canAnswer_of _
    (by decide +kernel), by decide +kernel, by decide +kernel⟩,
   ⟨w2, by decide +kernel⟩,
   ⟨w9, by decide +kernel⟩⟩

end CanopyMessages

namespace TagRadio

def fcfg : State := { readyBase with nv := { readyBase.nv with serial := [1,2,3,4,5,6,7,8] } }
def fc : State := refreshIdentity fcfg
def tg (t : Tag) (s : State := fc) : State := { s with tag := { t with mirror := s.tag.mirror } }
def p : Tag := { field := true, powered := true, level := 30 }
def w0 : State := readyBase
def w1 : State := fc
def w2 : State := tg p
def w3 : State := tg { p with halted := true }
def w4 : State := tg { p with drawn := some 3 }
def w5 : State := tg { p with drawn := some 5 }
def w7 : State := { (tg p) with bak := { readyBase.bak with onVbak := true } }
def w8 : State := { (tg p) with nv := { fc.nv with tagHdr := #v[some (3, 5), none,none,none,none,none,none,none] } }
def w9 : State := State.reset


/-- The hypotheses of every clause of TagRadio are met together by these states and operands. -/
theorem test_TagRadio_hypotheses :
    (∃ (s : State) (l : ℕ), s.tag.field = false ∧ l < 15)
    ∧ (∃ (s : State) (l : ℕ), s.tag.field = false ∧ 15 ≤ l)
    ∧ (∃ (s : State), s.tag.field = true)
    ∧ (∃ (s : State), s.tag.field = false)
    ∧ (∃ (s : State), s.tag.field = true ∨ s.bak.onVbak = false)
    ∧ (∃ (s : State), tagAnswers s = true ∧ s.tag.selected = none ∧ s.tag.halted = false)
    ∧ (∃ (s : State), tagAnswers s = true ∧ s.tag.selected = none ∧ s.tag.halted = true)
    ∧ (∃ (s : State) (n : ℕ), tagAnswers s = true ∧ s.tag.selected = none ∧ s.tag.halted = false ∧ s.tag.drawn =
      some n)
    ∧ (∃ (s : State) (n : ℕ), tagAnswers s = true ∧ s.tag.selected = none ∧ s.tag.drawn ≠ some n)
    ∧ (∃ (s : State) (cid : ℕ), tagAnswers s = true ∧ s.tag.selected = none ∧ cid ≤ 14 ∧ s.tag.halted = false)
    ∧ (∃ (s : State) (pupi : List Byte), tagAnswers s = true ∧ s.tag.selected = none ∧ pupi ≠ bytesAt (tagPage s 0)
      16 4)
    ∧ (∃ (s : State), tagAnswers s = false) :=
  ⟨⟨w1, 14, by decide +kernel, by decide +kernel⟩,
   ⟨w0, 15, by decide +kernel, by decide +kernel⟩,
   ⟨w8, by decide +kernel⟩,
   ⟨w0, by decide +kernel⟩,
   ⟨w3, by decide +kernel⟩,
   ⟨w8, by decide +kernel, by decide +kernel, by decide +kernel⟩,
   ⟨w3, by decide +kernel, by decide +kernel, by decide +kernel⟩,
   ⟨w5, 5, by decide +kernel, by decide +kernel, by decide +kernel, by decide +kernel⟩,
   ⟨w7, 1, by decide +kernel, by decide +kernel, by decide +kernel⟩,
   ⟨w2, 0, by decide +kernel, by decide +kernel, by decide +kernel, by decide +kernel⟩,
   ⟨w7, [1, 2, 3, 4], by decide +kernel, by decide +kernel, by decide +kernel⟩,
   ⟨w1, by decide +kernel⟩⟩

end TagRadio

namespace TagCommands

def fcfg : State := { readyBase with nv := { readyBase.nv with serial := [1,2,3,4,5,6,7,8] } }
def fc : State := refreshIdentity fcfg
def tg (t : Tag) (s : State := fc) : State := { s with tag := { t with mirror := s.tag.mirror } }
def p : Tag := { field := true, powered := true, level := 30, selected := some 3 }
def w0 : State := tg { p with marked := [5] }
def w1 : State := tg { p with marked := [64] }
def w5 : State := tg { p with level := 20 }
def w6 : State := tg { p with owner := 1 }
def w7 : State := tg { p with owner := 2, lastOwner := 1 }
def w8 : State := tg { p with lastOwner := 1, fieldWait := true }
def w9 : State := tg { p with lastOwner := 2 }
def w10 : State := tg { p with marked := [3, 64] }


/-- The hypotheses of every clause of TagCommands are met together by these states and operands. -/
theorem test_TagCommands_hypotheses :
    (∃ (s : State) (first : ℕ) (count : ℕ), tagAnswers s = true ∧ s.tag.selected.isSome = true ∧ 1 ≤ count ∧ count
      ≤ 4 ∧ first + count ≤ 256 ∧ ∀ i < count, pageRefused (first + i) = false ∧ pageHasCrc (first + i) =
      false)
    ∧ (∃ (s : State) (first : ℕ) (count : ℕ), tagAnswers s = true ∧ s.tag.selected.isSome = true ∧ 1 ≤ count ∧ count
      ≤ 4 ∧ first + count ≤ 256 ∧ ∃ i < count, pageRefused (first + i) = true)
    ∧ (∃ (s : State) (page : ℕ) (off : ℕ) (data : List Byte), tagAnswers s = true ∧ s.tag.selected.isSome = true ∧
      off + data.length ≤ 64 ∧ data ≠ [] ∧ 64 ≤ page ∧ page ≤ 71 ∧ pageWriteEn s = true ∧ 25 ≤ s.tag.level ∧
      MemOk s)
    ∧ (∃ (s : State) (page : ℕ) (off : ℕ) (data : List Byte), tagAnswers s = true ∧ s.tag.selected.isSome = true ∧
      off + data.length ≤ 64 ∧ data ≠ [] ∧ 64 ≤ page ∧ page ≤ 71 ∧ pageWriteEn s = true ∧ 25 ≤ s.tag.level)
    ∧ (∃ (s : State) (page : ℕ) (off : ℕ) (data : List Byte), tagAnswers s = true ∧ s.tag.selected.isSome = true ∧
      off + data.length ≤ 64 ∧ data ≠ [] ∧ 64 ≤ page ∧ page ≤ 71 ∧ pageWriteEn s = true ∧ s.tag.level < 25)
    ∧ (∃ (s : State) (page : ℕ) (off : ℕ) (data : List Byte), tagAnswers s = true ∧ s.tag.selected.isSome = true ∧
      off + data.length ≤ 64 ∧ data ≠ [] ∧ 255 < page)
    ∧ (∃ (s : State) (page : ℕ) (off : ℕ) (data : List Byte), tagAnswers s = true ∧ s.tag.selected.isSome = true ∧
      off + data.length ≤ 64 ∧ data ≠ [] ∧ page ≤ 255 ∧ (page < 64 ∨ 71 < page))
    ∧ (∃ (s : State), s.tag.owner ≠ 0)
    ∧ (∃ (s : State), s.tag.owner = 0)
    ∧ (∃ (s : State) (a : ℕ), s.tag.marked = [a] ∧ a < 64 * 240 ∧ MemOk s)
    ∧ (∃ (s : State), bitOf s.tagCfg 27 = true ∧ heartwoodRuns s = true) :=
  ⟨⟨w8, 71, 4, by decide +kernel, by decide +kernel, by decide +kernel, by decide +kernel, by decide +kernel,
    by decide +kernel⟩,
   ⟨w9, 250, 1, by decide +kernel, by decide +kernel, by decide +kernel, by decide +kernel, by decide +kernel,
    by decide +kernel⟩,
   ⟨w9, 64, 7, [9], by decide +kernel, by decide +kernel, by decide +kernel, by decide +kernel, by decide +kernel,
    by decide +kernel, by decide +kernel, by decide +kernel, memOk_of _ (by decide +kernel)⟩,
   ⟨w0, 71, 7, [9], by decide +kernel, by decide +kernel, by decide +kernel, by decide +kernel, by decide +kernel,
    by decide +kernel, by decide +kernel, by decide +kernel⟩,
   ⟨w5, 64, 0, [1, 2, 3, 4], by decide +kernel, by decide +kernel, by decide +kernel, by decide +kernel,
    by decide +kernel, by decide +kernel, by decide +kernel, by decide +kernel⟩,
   ⟨w7, 256, 2, [9], by decide +kernel, by decide +kernel, by decide +kernel, by decide +kernel, by decide +kernel⟩,
   ⟨w1, 63, 4, [9], by decide +kernel, by decide +kernel, by decide +kernel, by decide +kernel, by decide +kernel,
    by decide +kernel⟩,
   ⟨w6, by decide +kernel⟩,
   ⟨w10, by decide +kernel⟩,
   ⟨w0, 5, by decide +kernel, by decide +kernel, memOk_of _ (by decide +kernel)⟩,
   ⟨w0, by decide +kernel, by decide +kernel⟩⟩

end TagCommands

namespace TamperAndRandom

def rt : Root := { shareA := 7, shareB := 9 }
def bk (b : Backup) : State := { readyBase with bak := b, crypto := { readyBase.crypto with keys := [{ handle := 3,
                                                                                                       stop := 2 }] },
                                                canopy := { readyBase.canopy with key0 := some [1] } }
def b0 : Backup := { readyBase.bak with roots := #v[some rt, none, some rt, none] }
def w2 : State := bk { b0 with openA := 1 }
def w3 : State := bk { b0 with openA := 1, armedB := false, fells := 255 }
def w5 : State := bk { b0 with openA := 1, openB := 2 }
def w7 : State := bk { b0 with loopA := 2, armedA := false }
def w9 : State := bk { b0 with tamperCfg := 3 }
def w10 : State := bk { b0 with tamperCfg := 4 }
def w12 : State := { (bk b0) with crypto := { readyBase.crypto with drbgFail := true } }


/-- The hypotheses of every clause of TamperAndRandom are met together by these states and operands. -/
theorem test_TamperAndRandom_hypotheses :
    (∃ (s : State), s.bak.tamperCfg.getLsbD 0 = false)
    ∧ (∃ (s : State), s.bak.tamperCfg.getLsbD 0 = true ∧ s.bak.openA = 0)
    ∧ (∃ (s : State), s.bak.tamperCfg.getLsbD 0 = true ∧ s.bak.openA = 1 ∧ s.bak.armedA = true ∧ s.bak.armedB =
      false)
    ∧ (∃ (s : State), s.bak.loopA = 0)
    ∧ (∃ (s : State), s.bak.loopA ≠ 0)
    ∧ (∃ (s : State), s.bak.tamperCfg.getLsbD 2 = true)
    ∧ (∃ (s : State), s.bak.tamperCfg.getLsbD 2 = false)
    ∧ (∃ (s : State), s.crypto.drbgFail = true)
    ∧ (∃ (s : State), s.crypto.drbgFail = false) :=
  ⟨⟨w10, by decide +kernel⟩,
   ⟨w9, by decide +kernel, by decide +kernel⟩,
   ⟨w3, by decide +kernel, by decide +kernel, by decide +kernel, by decide +kernel⟩,
   ⟨w5, by decide +kernel⟩,
   ⟨w7, by decide +kernel⟩,
   ⟨w2, by decide +kernel⟩,
   ⟨w9, by decide +kernel⟩,
   ⟨w12, by decide +kernel⟩,
   ⟨w7, by decide +kernel⟩⟩

end TamperAndRandom

namespace KeyCommands

def rt : Root := { shareA := 7, shareB := 9 }
def nn : List Byte := List.replicate 16 5
def life (n : Nat) (k : KeyDev) (b : Backup := readyBase.bak) : State := { readyBase with nv := { readyBase.nv with life := n },
                                                                                          key := k, bak := b, crypto := { readyBase.crypto with drbgOk := true } }
def b0 : Backup := { readyBase.bak with roots := #v[some rt, none, some rt, none] }
def b1 : Backup := { readyBase.bak with roots := #v[some rt, some rt, some rt, none] }
def wL : State := life 1 { nonce := some nn } b1
def wR : List Byte := List.replicate 32 0x3C
def wN : List Byte := List.replicate 12 5
def wI : State := life 1 {} b0
def wC : List Byte := gcmText wI.installKey wN wR
def wG : List Byte := gcmTag wI.installKey wN (padTo 8 wI.nv.serial ++ leN 1 1 ++ leN 1 1) wC
def w0 : State := life 0 { target := some 1, tag := 9 }
def w1 : State := readyBase
def w2 : State := wL
def w3 : State := wI
def w4 : State := wL
def w5 : State := wI


/-- The hypotheses of every clause of KeyCommands are met together by these states and operands. -/
theorem test_KeyCommands_hypotheses :
    (∃ (s : State), CanAnswer s ∧ s.crypto.drbgOk = false)
    ∧ (∃ (s : State), CanAnswer s ∧ s.crypto.drbgOk = true)
    ∧ (∃ (s : State), CanAnswer s ∧ s.key.target = none)
    ∧ (∃ (s : State) (l : ℕ), CanAnswer s ∧ s.key.target = some l ∧ l < 3 ∧ s.upd.stage = none ∧ s.upd.staged = 0 ∧
      s.upd.state ≠ 4)
    ∧ (∃ (s : State) (slot : ℕ), CanAnswer s ∧ slotInstallable s slot = false)
    ∧ (∃ (s : State) (slot : ℕ), CanAnswer s ∧ slotInstallable s slot = true ∧ (s.rootOf slot).isSome = true)
    ∧ (∃ (s : State) (slot : Fin 4) (nonce : List Byte) (enc : List Byte) (tag : List Byte) (root : List Byte),
      CanAnswer s ∧ slotInstallable s slot.val = true ∧ s.rootOf slot.val = none ∧ unwrapRoot s (slot.val)
      nonce enc tag = some root) :=
  ⟨⟨w1, canAnswer_of _ (by decide +kernel), by decide +kernel⟩,
   ⟨w5, canAnswer_of _ (by decide +kernel), by decide +kernel⟩,
   ⟨w3, canAnswer_of _ (by decide +kernel), by decide +kernel⟩,
   ⟨w0, 1, canAnswer_of _ (by decide +kernel), by decide +kernel, by decide +kernel, by decide +kernel,
    by decide +kernel, by decide +kernel⟩,
   ⟨w1, 1, canAnswer_of _ (by decide +kernel), by decide +kernel⟩,
   ⟨w3, 2, canAnswer_of _ (by decide +kernel), by decide +kernel, by decide +kernel⟩,
   ⟨w3, 1, wN, wC, wG, wR, canAnswer_of _ (by decide +kernel), by decide +kernel, by decide +kernel,
    by decide +kernel⟩⟩

end KeyCommands

namespace MemoryService

def mmx (m : Mem) (s : State := readyBase) : State := { s with mem := m, start := { s.start with done := 8 } }
def rb : State := { readyBase with trunk := { readyBase.trunk with capNow := 6 } }
def fl (x : Nat) (t : Nat) (s : State) : State := withCfg [(0xD008, t), (0xD00C, x)] s
def w0 : State := { rb with nv := { rb.nv with life := 2 } }
def w1 : State := rb
def w2 : State := mmx { scrubRow := 98303 } rb
def w3 : State := mmx { scrubRow := 5 } rb
def w4 : State := mmx { slices := Vector.replicate 14 1000000 } rb
def w5 : State := mmx { slices := Vector.replicate 14 1000000, repeating := 0x3FFF } rb
def w7 : State := mmx { marchRow := allRows - 2 } rb
def w8 : State := mmx { marchRow := allRows - 1 } rb
def w9 : State := mmx { softList := [5, 9] } rb
def w10 : State := { mmx { softList := [5] } rb with nv := { rb.nv with fieldMap := List.replicate 64 3 } }
def w13 : State := fl 7 0x700000 { rb with nv := { rb.nv with life := 1 } }
def w15 : State := fl 0 0x13FFFF8 { rb with nv := { rb.nv with life := 0 } }
def w16 : State := mmx { bad := [{ addr := 0x40, flips := 4, hard := 0 }] } rb
def w17 : State := { rb with trunk := { rb.trunk with capNow := 0 } }


/-- The hypotheses of every clause of MemoryService are met together by these states and operands. -/
theorem test_MemoryService_hypotheses :
    (∃ (s : State), bitOf s.memScrubCfg 31 = false ∨ s.trunk.capNow = 0)
    ∧ (∃ (s : State), bitOf s.memScrubCfg 31 = true ∧ s.trunk.capNow ≠ 0 ∧ badWords s (rowBase s.mem.scrubRow) = []
      ∧ s.mem.scrubRow < 98303)
    ∧ (∃ (s : State), bitOf s.memScrubCfg 31 = true ∧ s.trunk.capNow ≠ 0 ∧ badWords s (rowBase s.mem.scrubRow) = []
      ∧ s.mem.scrubRow = 98303)
    ∧ (∃ (s : State), bitOf s.memScrubCfg 31 = true ∧ s.mem.bad = [])
    ∧ (∃ (s : State) (p : Fin 14) (g : Bool), acceptsSlice p g s = false)
    ∧ (∃ (s : State) (p : Fin 14) (g : Bool), acceptsSlice p g s = true ∧ s.mem.slices[p] + 1 < slicesOf p)
    ∧ (∃ (s : State) (p : Fin 14) (g : Bool) (sig : BitVec 32), acceptsSlice p g s = true ∧ slicesOf p ≤
      s.mem.slices[p] + 1 ∧ sig = Config.bistSignature p)
    ∧ (∃ (s : State) (p : Fin 14) (g : Bool) (sig : BitVec 32), acceptsSlice p g s = true ∧ slicesOf p ≤
      s.mem.slices[p] + 1 ∧ sig ≠ Config.bistSignature p ∧ s.mem.repeating.getLsbD p.val = false)
    ∧ (∃ (s : State) (p : Fin 14) (g : Bool) (sig : BitVec 32), acceptsSlice p g s = true ∧ slicesOf p ≤
      s.mem.slices[p] + 1 ∧ sig ≠ Config.bistSignature p ∧ s.mem.repeating.getLsbD p.val = true)
    ∧ (∃ (s : State), bitOf s.memTestCfg 30 = false ∨ s.trunk.capNow = 0)
    ∧ (∃ (s : State), bitOf s.memTestCfg 30 = true ∧ s.trunk.capNow ≠ 0 ∧ s.mem.marchRow + 1 < allRows ∧ badWords s
      (rowBase s.mem.marchRow) = [])
    ∧ (∃ (s : State) (e : BitVec 32) (rest : List (BitVec 32)), s.ready = true ∧ s.mem.softList = e :: rest ∧
      s.nv.fieldMap.length < 64)
    ∧ (∃ (s : State) (e : BitVec 32) (rest : List (BitVec 32)), s.ready = true ∧ s.mem.softList = e :: rest ∧ 64 ≤
      s.nv.fieldMap.length)
    ∧ (∃ (k : ℕ), k < 79)
    ∧ (∃ (k : ℕ) (l : ℕ), k < 79 ∧ l < 79 ∧ k ≠ l)
    ∧ (∃ (s : State) (m : ℕ), 220 < m ∧ CanAnswer s)
    ∧ (∃ (s : State), ∃ m ≤ 220, weight (flipMask s) < 4 ∧ classify (flipMask s) ≠ 3 ∧ CanAnswer s)
    ∧ (∃ (s : State), s.lifecycle = lcDeployed ∧ CanAnswer s)
    ∧ (∃ (s : State), s.lifecycle ≠ lcDeployed ∧ targetOk (injectTarget s) = true)
    ∧ (∃ (s : State), s.lifecycle ≠ lcDeployed ∧ targetOk (injectTarget s) = false) :=
  ⟨⟨w17, by decide +kernel⟩,
   ⟨w0, by decide +kernel, by decide +kernel, by decide +kernel, by decide +kernel⟩,
   ⟨w2, by decide +kernel, by decide +kernel, by decide +kernel, by decide +kernel⟩,
   ⟨w4, by decide +kernel, by decide +kernel⟩,
   ⟨w17, 2, true, by decide +kernel⟩,
   ⟨w16, 4, true, by decide +kernel, by decide +kernel⟩,
   ⟨w4, 5, true, _, by decide +kernel, by decide +kernel, rfl⟩,
   ⟨w4, 5, true, Config.bistSignature 5 + 1, by decide +kernel, by decide +kernel, fun h => by bv_omega,
    by decide +kernel⟩,
   ⟨w5, 2, false, Config.bistSignature 2 + 1, by decide +kernel, by decide +kernel, fun h => by bv_omega,
    by decide +kernel⟩,
   ⟨w17, by decide +kernel⟩,
   ⟨w3, by decide +kernel, by decide +kernel, by decide +kernel, by decide +kernel⟩,
   ⟨w9, 5, [9], by decide +kernel, by decide +kernel, by decide +kernel⟩,
   ⟨w10, 5, [], by decide +kernel, by decide +kernel, by decide +kernel⟩,
   ⟨10, by decide +kernel⟩,
   ⟨1, 78, by decide +kernel, by decide +kernel, by decide +kernel⟩,
   ⟨w15, 221, by decide +kernel, canAnswer_of _ (by decide +kernel)⟩,
   ⟨w1, 1, by decide +kernel, by decide +kernel, by decide +kernel, canAnswer_of _ (by decide +kernel)⟩,
   ⟨w0, by decide +kernel, canAnswer_of _ (by decide +kernel)⟩,
   ⟨w8, by decide +kernel, by decide +kernel⟩,
   ⟨w13, by decide +kernel, by decide +kernel⟩⟩

end MemoryService

namespace RecorderAndRestarts

def r1 : LogRec := { code := 0x0701, data := [1,2,3,4,5,6,7,8] }
def r2 : LogRec := { code := 0x0109, data := [1,2] }
def lg (l : Log) (s : State := readyBase) : State := { s with log := { l with logOn := true } }
def fl (f : Flash) : State := { readyBase with nv := { readyBase.nv with flash := f } }
def f0 : Flash := readyBase.nv.flash
def dr (s : State) : State := { s with saf := s.saf.map (fun f => { f with coils := Vector.replicate 3 { driven := true } }),
                                       ses := s.ses.map (fun x => { x with state := .charging }) }
def w0 : State := readyBase
def w2 : State := lg { queue := [r2, r1] }
def w6 : State := lg { budgets := [{ code := 0x0109, count := 100, overrun := 7 }], overrun := 4 }
def w7 : State := lg { fatalCause := some 2, dumped := true }
def w8 : State := lg { fatalCause := some 3, dumped := true } (fl { f0 with restarts := List.replicate 9 120000 })
def w12 : State := dr (lg { fatalCause := some 4 })
def w13 : State := fl { f0 with dumps := #v[{ state := 3 }, { state := 1, bytes := [1] }] }
def w14 : State := fl { f0 with dumps := #v[{ state := 1 }, { state := 3 }] }
def w15 : State := { (lg {}) with nv := { readyBase.nv with flash := { f0 with coded := { recs := [(5, r2)], sector := 3,
                                                                                          used := 4090 } } } }
def w17 : State := State.reset


/-- The hypotheses of every clause of RecorderAndRestarts are met together by these states and operands. -/
theorem test_RecorderAndRestarts_hypotheses :
    (∃ (s : State), s.log.logOn = false)
    ∧ (∃ (s : State) (r : LogRec) (rest : List LogRec), s.log.logOn = true ∧ s.log.queue = r :: rest ∧ s.log.lostDue
      = 0)
    ∧ (∃ (s : State), s.log.logOn = true)
    ∧ (∃ (s : State), s.log.logOn = true)
    ∧ (∃ (s : State), s.log.logOn = true)
    ∧ (∃ (s : State), s.log.logOn = true ∧ MemOk s)
    ∧ (∃ (s : State), s.log.fatalCause = none ∨ s.log.fatalHold = true)
    ∧ (∃ (s : State) (c : ℕ), s.log.fatalCause = some c ∧ s.log.fatalHold = false ∧ s.log.dumped = true ∧
      restartsAfterDump c = true ∧ recentRestarts s < fld s.logCfg 15 12)
    ∧ (∃ (s : State) (c : ℕ), s.log.fatalCause = some c ∧ s.log.fatalHold = false ∧ s.log.dumped = true ∧
      restartsAfterDump c = true ∧ fld s.logCfg 15 12 ≤ recentRestarts s)
    ∧ (∃ (s : State) (k : Fin 2), s.nv.flash.dumps[k].state = 3 ∧ s.log.fatalCause = none)
    ∧ (∃ (s : State) (k : Fin 2), s.nv.flash.dumps[k].state ≠ 3) :=
  ⟨⟨w17, by decide +kernel⟩,
   ⟨w2, { code := 265, bough := 255, flags := 0, opstamp := 0x0000000000000000, caltime := 4294967295, seq := 0, data := [1, 2],
          valid := true, cleared := false }, [{ code := 1793, bough := 255, flags := 0, opstamp := 0x0000000000000000,
                                                caltime := 4294967295, seq := 0, data := [1, 2, 3, 4, 5, 6, 7, 8],
                                                valid := true, cleared := false }], by decide +kernel,
    by decide +kernel, by decide +kernel⟩,
   ⟨w6, by decide +kernel⟩,
   ⟨w0, by decide +kernel⟩,
   ⟨w15, by decide +kernel⟩,
   ⟨w0, by decide +kernel, memOk_of _ (by decide +kernel)⟩,
   ⟨w2, by decide +kernel⟩,
   ⟨w7, 2, by decide +kernel, by decide +kernel, by decide +kernel, by decide +kernel, by decide +kernel⟩,
   ⟨w8, 3, by decide +kernel, by decide +kernel, by decide +kernel, by decide +kernel, by decide +kernel⟩,
   ⟨w14, 1, by decide +kernel, by decide +kernel⟩,
   ⟨w12, 0, by decide +kernel⟩⟩

end RecorderAndRestarts

namespace LogCommands

def r1 : LogRec := { code := 0x0701, data := [1,2,3,4,5,6,7,8], seq := 4 }
def r2 : LogRec := { code := 0x0109, data := [1,2], seq := 5 }
def r3 : LogRec := { code := 0x0C01, data := [1,2], seq := 6 }
def fl (l : Nat) (f : Flash) : State := { readyBase with nv := { readyBase.nv with flash := f, life := l } }
def f0 : Flash := readyBase.nv.flash
def f1 : Flash := { f0 with coded := { recs := [(1, r2), (2, r3)] }, reading := { recs := [(1, r1)] }, general := { recs := [(0, { r2 with cleared := true }), (1, r2), (2, r3)] } }
def w1 : State := fl 2 f1
def w2 : State := fl 1 f1
def w3 : State := fl 7 f1
def w4 : State := fl 0 f1
def w5 : State := { fl 1 f1 with host := { readyBase.host with bulkState := 2 } }
def w6 : State := fl 1 { f0 with dumps := #v[{ state := 1, bytes := [1,2,3] }, { state := 3 }] }
def w7 : State := fl 1 { f0 with dumps := #v[{ state := 3 }, { state := 1, bytes := [1] }] }


/-- The hypotheses of every clause of LogCommands are met together by these states and operands. -/
theorem test_LogCommands_hypotheses :
    (∃ (s : State), CanAnswer s ∧ bulkHeld s = true)
    ∧ (∃ (s : State) (ring : ℕ) (limit : ℕ), CanAnswer s ∧ bulkHeld s = false ∧ (2 < ring ∨ limit = 0 ∨ 262144 <
      limit))
    ∧ (∃ (s : State) (ring : ℕ) (first : ℕ) (limit : ℕ), CanAnswer s ∧ bulkHeld s = false ∧ ring ≤ 2 ∧ 1 ≤ limit ∧
      limit ≤ 262144 ∧ readable s ring first = [])
    ∧ (∃ (s : State) (ring : ℕ) (first : ℕ) (limit : ℕ) (p : LogRec) (ps : List LogRec), CanAnswer s ∧ bulkHeld s =
      false ∧ ring ≤ 2 ∧ 1 ≤ limit ∧ limit ≤ 262144 ∧ readable s ring first = p :: ps ∧ recSize p.data.length
      ≤ limit)
    ∧ (∃ (s : State) (slot : ℕ) (off : ℕ), CanAnswer s ∧ bulkHeld s = false ∧ (1 < slot ∨ off % 262144 ≠ 0))
    ∧ (∃ (s : State) (k : Fin 2), CanAnswer s ∧ bulkHeld s = false ∧ s.nv.flash.dumps[k].state = 0)
    ∧ (∃ (s : State) (k : Fin 2), CanAnswer s ∧ bulkHeld s = false ∧ s.nv.flash.dumps[k].state = 1 ∧
      s.nv.flash.dumps[k].bytes ≠ [])
    ∧ (∃ (s : State), CanAnswer s ∧ (s.lifecycle = lcDeployed ∨ s.lifecycle = lcScrapped))
    ∧ (∃ (s : State) (scope : Byte), CanAnswer s ∧ s.lifecycle ≠ lcDeployed ∧ s.lifecycle ≠ lcScrapped ∧ 8 ≤
      BitVec.toNat scope)
    ∧ (∃ (s : State) (m : Byte), CanAnswer s ∧ 4 ≤ BitVec.toNat m)
    ∧ (∃ (s : State), CanAnswer s ∧ s.log.fatalCause = none ∧ s.nv.flash.dumps[0].state ≠ 0) :=
  ⟨⟨w5, canAnswer_of _ (by decide +kernel), by decide +kernel⟩,
   ⟨w4, 262144, 0, canAnswer_of _ (by decide +kernel), by decide +kernel, by decide +kernel⟩,
   ⟨w6, 2, 100, 100, canAnswer_of _ (by decide +kernel), by decide +kernel, by decide +kernel, by decide +kernel,
    by decide +kernel, by decide +kernel⟩,
   ⟨w4, 2, 2, 100, { code := 1793, bough := 255, flags := 0, opstamp := 0x0000000000000000, caltime := 4294967295, seq := 4,
                     data := [1, 2, 3, 4, 5, 6, 7, 8], valid := true, cleared := false }, [], canAnswer_of _
    (by decide +kernel), by decide +kernel, by decide +kernel, by decide +kernel, by decide +kernel,
    by decide +kernel, by decide +kernel⟩,
   ⟨w1, 0, 2, canAnswer_of _ (by decide +kernel), by decide +kernel, by decide +kernel⟩,
   ⟨w4, 0, canAnswer_of _ (by decide +kernel), by decide +kernel, by decide +kernel⟩,
   ⟨w6, 0, canAnswer_of _ (by decide +kernel), by decide +kernel, by decide +kernel, by decide +kernel⟩,
   ⟨w3, canAnswer_of _ (by decide +kernel), by decide +kernel⟩,
   ⟨w5, 255, canAnswer_of _ (by decide +kernel), by decide +kernel, by decide +kernel, by decide +kernel⟩,
   ⟨w1, 7, canAnswer_of _ (by decide +kernel), by decide +kernel⟩,
   ⟨w7, canAnswer_of _ (by decide +kernel), by decide +kernel, by decide +kernel⟩⟩

end LogCommands

namespace UpdateStaging

def vend : Root := { shareA := 5, shareB := 9, check := checkWord (padTo 32 (beN 32 12)) }
def us (u : Upd) (life : Nat := 0) : State := { readyBase with upd := u, nv := { readyBase.nv with life := life }, bak := { readyBase.bak with roots := #v[some vend, some vend, none, none] } }
def hdr0 (life tl ver : Nat) (sh : List Byte) : List Byte :=
  let b := padTo 96 (ascii "RUPD" ++ leN 1 0 ++ leN 1 8
    ++ leN 1 0 ++ leN 1 0 ++ leN 4 300 ++ leN 4 tl ++ List.replicate 32 0 ++ leN 4 0 ++ padTo 32 sh ++ leN 4 ver ++
    leN 1 (us {} life).rootInUse)
  b ++ hmac ((us {} life).derive (((us {} life).rootOf (us {} life).rootInUse).getD
    []) .updateAuth) b
def h0 : List Byte := hdr0 0 200 3 (sha256 [1])
def image : List Byte :=
  let hdr := withCrc (padTo 60 (ascii "RNF1" ++ leN 2 1 ++ leN 2 64 ++ leN 4 104 ++ leN 2 1
    ++ leN 1 0 ++ leN 1 1 ++ leN 4 3 ++ leN 4 0 ++ leN 1 8 ++ leN 1 0))
  let rec1 := withCrc (leN 2 0x1FFF ++ leN 2
    0)
  let b := hdr ++ rec1
  b ++ hmac ((us {}).derive (((us {}).rootOf 0).getD []) .roniAuth) b
def himg : List Byte := hdr0 0 image.length 3 (sha256 image)
def g0 : Staging := { part := 0, header := h0, received := 128 }
def g1 : Staging := { part := 0, header := h0, received := 136, built := [1,2], ended := false }
def gi : Staging := { part := 0, header := himg, received := 300, built := image, ended := true }
def blk (r : List Byte) (s : State) : State := { s with host := { s.host with bulkState := 0, bulk := memPuts zeroB [] 0 r } }
def w1 : State := { readyBase with host := { readyBase.host with bulkState := 1 } }
def w2 : State := us {}
def w3 : State := us { state := 3 }
def w6 : State := us { stage := some g1, state := 1 }
def w7 : State := putArea 0 (inactiveNo (us {}) 0) image (us { stage := some gi, state := 1 })
def w9 : State := blk [3, 10,0,0,7,0,0,0] (us { stage := some g0, state := 1 })
def w10 : State := blk [3, 10,0,0,0,0,0,0] (us { stage := some g1, state := 1 })
def w12 : State := us {} 2

theorem himg_steps : ∀ e ∈ hdrSteps w2 himg, e.2 = true := by decide +kernel
theorem gi_good : targetGood w7 gi = true := by decide +kernel

/-- The hypotheses of every clause of UpdateStaging are met together by these states and operands. -/
theorem test_UpdateStaging_hypotheses :
    (∃ (s : State), CanAnswer s ∧ updBusy s = true)
    ∧ (∃ (s : State) (hd : List Byte) (k : ℕ), CanAnswer s ∧ updBusy s = false ∧ hd.length = 128 ∧ s.upd.stage =
      none ∧ List.find? (fun (e : ℕ × Bool) => !e.2) (hdrSteps s hd) = some (k, false))
    ∧ (∃ (s : State) (hd : List Byte), CanAnswer s ∧ updBusy s = false ∧ hd.length = 128 ∧ s.upd.stage = none ∧
      s.upd.staged = 0 ∧ ∀ e ∈ hdrSteps s hd, e.2 = true)
    ∧ (∃ (s : State), CanAnswer s ∧ updBusy s = false ∧ s.upd.stage = none)
    ∧ (∃ (s : State) (g : Staging), CanAnswer s ∧ updBusy s = false ∧ s.upd.stage = some g ∧ targetGood s g = false)
    ∧ (∃ (s : State) (g : Staging), CanAnswer s ∧ updBusy s = false ∧ s.upd.stage = some g ∧ targetGood s g = true)
    ∧ (∃ (s : State), CanAnswer s ∧ updBusy s = false ∧ bulkHeld s = true)
    ∧ (∃ (s : State), CanAnswer s ∧ updBusy s = false ∧ bulkHeld s = false ∧ s.upd.stage = none)
    ∧ (∃ (s : State) (g : Staging) (o : ℕ) (l : ℕ), CanAnswer s ∧ updBusy s = false ∧ bulkHeld s = false ∧
      s.upd.stage = some g ∧ (l = 0 ∨ 262144 < l ∨ o ≠ g.received ∨ hdrImgLen g.header < o + l))
    ∧ (∃ (s : State) (g : Staging) (n : ℕ) (v : Byte), CanAnswer s ∧ updBusy s = false ∧ bulkHeld s = false ∧
      s.upd.stage = some g ∧ g.op = [] ∧ g.ended = false ∧ g.received + 8 < hdrImgLen g.header ∧ 1 ≤ n ∧ n < 2
      ^ 24 ∧ g.built.length + n ≤ hdrTargetLen g.header ∧ bulkBytes s 0 8 = 3 :: leN 3 n ++ [v, 0, 0, 0]) :=
  ⟨⟨w3, canAnswer_of _ (by decide +kernel), by decide +kernel⟩,
   ⟨w1, 0x51 :: h0.tail, 1, canAnswer_of _ (by decide +kernel), by decide +kernel, by decide +kernel,
    by decide +kernel, by decide +kernel⟩,
   ⟨w2, himg, canAnswer_of _ (by decide +kernel), by decide +kernel, by decide +kernel, by decide +kernel,
    by decide +kernel, himg_steps⟩,
   ⟨w12, canAnswer_of _ (by decide +kernel), by decide +kernel, by decide +kernel⟩,
   ⟨w6, g1, canAnswer_of _ (by decide +kernel), by decide +kernel, by decide +kernel, by decide +kernel⟩,
   ⟨w7, gi, canAnswer_of _ (by decide +kernel), by decide +kernel, by decide +kernel, gi_good⟩,
   ⟨w1, canAnswer_of _ (by decide +kernel), by decide +kernel, by decide +kernel⟩,
   ⟨w12, canAnswer_of _ (by decide +kernel), by decide +kernel, by decide +kernel, by decide +kernel⟩,
   ⟨w9, g0, 262145, 128, canAnswer_of _ (by decide +kernel), by decide +kernel, by decide +kernel, by decide +kernel,
    by decide +kernel⟩,
   ⟨w10, g1, 10, 0, canAnswer_of _ (by decide +kernel), by decide +kernel, by decide +kernel, by decide +kernel,
    by decide +kernel, by decide +kernel, by decide +kernel, by decide +kernel, by decide +kernel, by decide +kernel,
    by decide +kernel⟩⟩

end UpdateStaging

namespace UpdateActivation

def us (u : Upd) (s : State := readyBase) : State := { s with upd := u }
def hld : State := { readyBase with saf := readyBase.saf.map (fun f => { f with holdUpd := true }) }
def chg : State := ssn { state := .charging } readyBase
def auto (s : State) : State := withCfg [(0xF000, 0x80001E3C)] s
def w2 : State := us { staged := 3, stagedFmt := 1, stagedRange := (0, 2), state := 2 }
def w3 : State := us { staged := 3, stagedFmt := 5, stagedRange := (0, 2), state := 2 }
def w5 : State := us { staged := 1, state := 4 } hld
def w7 : State := us { staged := 1, state := 3, mode := 1, when := 1699999999 } chg
def w8 : State := us { staged := 1, state := 3, mode := 1, when := 1700000001 } chg
def w10 : State := us { state := 5, switched := 3 }
def w11 : State := auto (us { state := 5, switched := 3 })
def w12 : State := us { staged := 1, stage := none, state := 3 }


/-- The hypotheses of every clause of UpdateActivation are met together by these states and operands. -/
theorem test_UpdateActivation_hypotheses :
    (∃ (s : State), CanAnswer s ∧ (s.upd.staged = 0 ∨ s.upd.state = 4))
    ∧ (∃ (s : State) (m : ℕ), CanAnswer s ∧ s.upd.staged ≠ 0 ∧ s.upd.state ≠ 4 ∧ 2 < m)
    ∧ (∃ (s : State) (m : ℕ), CanAnswer s ∧ s.upd.staged ≠ 0 ∧ s.upd.state ≠ 4 ∧ m ≤ 2 ∧ pairAccepted s = false)
    ∧ (∃ (s : State) (m : ℕ), CanAnswer s ∧ s.upd.staged ≠ 0 ∧ s.upd.state ≠ 4 ∧ m ≤ 2 ∧ pairAccepted s = true)
    ∧ (∃ (s : State), s.upd.state ≠ 3)
    ∧ (∃ (s : State), s.upd.state = 3 ∧ conditionHolds s = true)
    ∧ (∃ (s : State), s.upd.state ≠ 4)
    ∧ (∃ (s : State), s.upd.state = 4 ∧ ∀ (b : Bough), heldOut s b = true)
    ∧ (∃ (s : State), s.upd.state = 4 ∧ s.log.fatalCause = none)
    ∧ (∃ (s : State), windowOpen s = false ∧ CanAnswer s)
    ∧ (∃ (s : State), windowOpen s = true)
    ∧ (∃ (s : State), windowOpen s = true)
    ∧ (∃ (s : State), windowOpen s = false ∧ s.upd.stage = none ∧ s.upd.state = 3)
    ∧ (∃ (s : State), windowOpen s = false)
    ∧ (∃ (s : State), windowOpen s = true ∧ bitOf s.updCfg 31 = true)
    ∧ (∃ (s : State), windowOpen s = true ∧ bitOf s.updCfg 31 = false) :=
  ⟨⟨w10, canAnswer_of _ (by decide +kernel), by decide +kernel⟩,
   ⟨w3, 3, canAnswer_of _ (by decide +kernel), by decide +kernel, by decide +kernel, by decide +kernel⟩,
   ⟨w12, 1, canAnswer_of _ (by decide +kernel), by decide +kernel, by decide +kernel, by decide +kernel,
    by decide +kernel⟩,
   ⟨w2, 2, canAnswer_of _ (by decide +kernel), by decide +kernel, by decide +kernel, by decide +kernel,
    by decide +kernel⟩,
   ⟨w2, by decide +kernel⟩,
   ⟨w7, by decide +kernel, by decide +kernel⟩,
   ⟨w7, by decide +kernel⟩,
   ⟨w5, by decide +kernel, by decide +kernel⟩,
   ⟨w5, by decide +kernel, by decide +kernel⟩,
   ⟨w8, by decide +kernel, canAnswer_of _ (by decide +kernel)⟩,
   ⟨w10, by decide +kernel⟩,
   ⟨w10, by decide +kernel⟩,
   ⟨w12, by decide +kernel, by decide +kernel, by decide +kernel⟩,
   ⟨w3, by decide +kernel⟩,
   ⟨w11, by decide +kernel, by decide +kernel⟩,
   ⟨w10, by decide +kernel, by decide +kernel⟩⟩

end UpdateActivation

namespace WholeMachine

def w0 : State := { CreditRecords.w0 with pending := [.calendarSecond] }
def w1 : State := { readyBase with pending := [.calendarSecond], lcd := { readyBase.lcd with state := .showing, backlight := true } }
def w2 : State := { readyBase with pending := [.calendarSecond], saf := readyBase.saf.set 2 { latched := [3] } }
def isNext (r : Host.Outcome State Fault Refusal) : Bool := match r with
  | .next _ => true
  | _ => false

theorem exec_next_of (i : Instr) (s : State) (h : isNext (exec i s) = true) : ∃ t, exec i s = .next t := by
  cases e : exec i s with
  | next t => exact ⟨t, rfl⟩
  | fault f => rw [e] at h; cases h
  | refused r => rw [e] at h; cases h
theorem step_next_of (s : State) (h : isNext (step s) = true) : ∃ t, step s = .next t := by
  cases e : step s with
  | next t => exact ⟨t, rfl⟩
  | fault f => rw [e] at h; cases h
  | refused r => rw [e] at h; cases h

/-- The hypotheses of StepRunsFrontCommand. -/
theorem test_StepRunsFrontCommand_hypotheses :
    (∃ (s : State) (c : Instr) (rest : List Instr), s.pending = c :: rest) ∧ (∃ s : State, s.pending = []) :=
  ⟨⟨w0, _, _, rfl⟩, ⟨State.reset, rfl⟩⟩

/-- The hypotheses of CommandsStopOnlyOnUndefinedBodies. -/
theorem test_CommandsStopOnlyOnUndefinedBodies_hypotheses :
    (∃ (i : Instr) (s : State), i ≠ .commandDispatch ∧ inRange i s = true)
    ∧ (∃ (i : Instr) (s : State), i ≠ .commandDispatch ∧ inRange i s = false) :=
  ⟨⟨.calendarSecond, w0, by decide, rfl⟩, ⟨.sesIdent okHdr [], w0, by decide, rfl⟩⟩

/-- The hypotheses of QueueAndFusesStand. -/
theorem test_QueueAndFusesStand_hypotheses :
    (∃ (i : Instr) (s t : State), exec i s = .next t ∧ i ≠ .lifecycleApply) :=
  ⟨.calendarSecond, w0, (exec_next_of _ _ (by decide +kernel)).choose, (exec_next_of _ _ (by decide +kernel)).choose_spec,
    by decide⟩

/-- The hypotheses of MemoriesStayCanonical, on a memory that holds a ledger record. -/
theorem test_MemoriesStayCanonical_hypotheses : w0.mem.cells ≠ [] ∧ MemOk w0 ∧ ∃ t, step w0 = .next t :=
  ⟨by decide +kernel, memOk_of _ (by decide +kernel), step_next_of _ (by decide +kernel)⟩

/-- The hypotheses of ProtectionsKeepCoilsOpen, on a state in which a latched trip code holds a bough. -/
theorem test_ProtectionsKeepCoilsOpen_hypotheses : heldOpen w2 2 ∧ CoilsSafe w2 ∧ ∃ t, step w2 = .next t :=
  ⟨.inl (by decide +kernel),
   fun b _ => (by decide +kernel : ∀ b : Bough, (∀ k : Fin 3, w2.saf[b].coils[k].driven = false) ∧ w2.saf[b].closing = .none) b,
   step_next_of _ (by decide +kernel)⟩

/-- The hypotheses of BacklightOnlyWhileShowing, on a display that shows its pages. -/
theorem test_BacklightOnlyWhileShowing_hypotheses :
    w1.lcd.backlight = true ∧ w1.lcd.state = .showing ∧ ∃ t, step w1 = .next t :=
  ⟨rfl, rfl, step_next_of _ (by decide +kernel)⟩

/-- The hypothesis of FramesOfTrunkSuppliesAndStart, that the command answers a next state, for a command of each group. -/
theorem test_FramesOfTrunkSuppliesAndStart_hypotheses :
    ([.latticeTick .second 0, .pllLockLoss, .cryptoOperationDone, .supplyTrip 8 true, .resetnLow 2000, .phaseP2 { cells := [], codecOk := true, spareFails := false, beyondSpares := false },
      .commitAccept 3, .commitApply 4, .registerWrite 48 [1], .commandQueueWrite 0x1000 ceilingMessage, .hcsnFalling]
      : List Instr).all (fun i => isNext (exec i readyBase)) = true := by decide +kernel

/-- The hypothesis of FramesOfPortsSessionsAndSafety, for a command of each group. -/
theorem test_FramesOfPortsSessionsAndSafety_hypotheses :
    ([.plateauValue 2 true 9000, .proximityMean 2, .cmSlacMatchReq mac6 run8, .supportedAppProtocol 2 1 [.iso20] false [], .sesStop okHdr,
      .creditCheck 2, .sesCreditDelete okHdr run8, .closingSequence 2 .begin, .ordinaryOpening 2, .emergencyStop 7000 12000,
      .heartbeatPeriodMissed, .safClear okHdr 0] : List Instr).all (fun i => isNext (exec i readyBase)) = true := by
  decide +kernel

/-- The hypothesis of FramesOfMeteringLoadsAndDisplay, for a command of each group. -/
theorem test_FramesOfMeteringLoadsAndDisplay_hypotheses :
    ([.patrolVisitEnd 2, .mtrSwapHot okHdr 3, .cycleEnd 2 (-1) 1, .meteringGapOpen 2 0, .nrgRead okHdr,
      .heartwoodConversion, .rateEvaluation, .bilInfo okHdr, .auxSet okHdr 4 500, .channelOvercurrent 2, .displayFrameStart,
      .dispbtnPress] : List Instr).all (fun i => isNext (exec i readyBase)) = true := by decide +kernel

/-- The hypothesis of FramesOfCanopyTagKeysMemoryLogAndUpdate, for a command of each group. -/
theorem test_FramesOfCanopyTagKeysMemoryLogAndUpdate_hypotheses :
    ([.turnStart, .beaconMissed, .cnpSend okHdr 3 0 [1], .fieldArrived 20, .tagInfo, .keyInfo okHdr, .oscillatorDetector, .scrubRow,
      .memMapGet okHdr, .recordWrite, .logHistGet okHdr, .updEnd okHdr] : List Instr).all (fun i => isNext (exec i readyBase))
      = true := by decide +kernel

end WholeMachine

/-! ## States and operands of the completion statements of every command -/

/-- Hypotheses of TrunkToSafetyCommandsComplete, part 1: states and operands that meet them together. -/
theorem test_TrunkToSafetyCommandsComplete_hypotheses1 :
    (∃ (s : State) (n : ℕ), s.lat.running = true ∧ s.lat.pllLost = false ∧ (n < 24987500 ∨ 25012500 < n))
    ∧ (∃ (s : State) (n : ℕ), s.lat.running = true ∧ s.lat.pllLost = false ∧ 24987500 ≤ n ∧ n ≤ 25012500)
    ∧ (∃ (s : State), s.lat.pllLost = true)
    ∧ (∃ (s : State) (i : Fin 23) (offers : List Flit) (p : Pick) (f : Flit), s.trunk.seg[i].attempts.length < 3 ∧
      pickFlit (takeOffers i offers s) i = some p ∧ pickedFlit (takeOffers i offers s) i p = some f)
    ∧ (∃ (s : State) (i : Fin 23), s.trunk.seg[i].attempts.length = 3)
    ∧ (∃ (s : State) (r : CryptoReq), (r.stop = 8 ∨ r.stop = 2 ∨ r.stop = 3 ∨ r.stop = 0) ∧ handleOk s r = true ∧
      s.crypto.running = none)
    ∧ (∃ (s : State) (r : CryptoReq), s.crypto.running = some r) :=
  ⟨⟨TrunkFlitsAndLanes.w10, 255, by decide +kernel, by decide +kernel, by decide +kernel⟩,
   ⟨TrunkFlitsAndLanes.w11, 25012500, by decide +kernel, by decide +kernel, by decide +kernel, by decide +kernel⟩,
   ⟨LatticeAndPace.w5, by decide +kernel⟩,
   ⟨TrunkFlitsAndLanes.w0, 2, [{ src := 2, port := 0, dst := 5, cls := 2, load := Sys2Proof.Load.other }], { transit := false,
                                                                                                             cls := 2,
                                                                                                             port := 0 },
    { src := 2, port := 0, dst := 5, cls := 2, load := Sys2Proof.Load.other }, by decide +kernel, by decide +kernel,
    by decide +kernel⟩,
   ⟨TrunkFlitsAndLanes.w5, 2, by decide +kernel⟩,
   ⟨TrunkFlitsAndLanes.w12, { stop := 2, op := Sys2Proof.CryptoOp.ecdh, handle := none, label := Sys2Proof.KeyLabel.readingSign },
    by decide +kernel, by decide +kernel, by decide +kernel⟩,
   ⟨CryptoAndMailbox.w1, { stop := 0, op := Sys2Proof.CryptoOp.hkdf, handle := none, label := Sys2Proof.KeyLabel.roniAuth },
    by decide +kernel⟩⟩

/-- Hypotheses of TrunkToSafetyCommandsComplete, part 2: states and operands that meet them together. -/
theorem test_TrunkToSafetyCommandsComplete_hypotheses2 :
    (∃ (s : State) (m : Mail), s.safDev.coreDead.getLsbD ↑m.core = false)
    ∧ (∃ (s : State) (b : Bough) (k : Fin 2) (r : EngResult), s.bilB[b].heldRes[k] = some r) :=
  ⟨⟨TrunkFlitsAndLanes.w13, { core := 0, bough := 2, kind := 0 }, by decide +kernel⟩,
   ⟨EnergyEngine.w13, 2, 0, { seq := 5, flags := 0, totalA := 0x00000000000001f4, totalB := 0x0000000000000000, totalC := 0x0000000000000000,
                              aux := 0 }, by decide +kernel⟩⟩

/-- Hypotheses of TrunkToSafetyCommandsComplete, part 3: states and operands that meet them together. -/
theorem test_TrunkToSafetyCommandsComplete_hypotheses3 :
    (∃ (s : State) (id : Fin 13), s.supply.tripped.getLsbD id.val = false ∧ (id.val = 5 ∨ 8 ≤ id.val) ∧
      s.start.released = true ∧ s.supply.resetHeld = false)
    ∧ (∃ (s : State), s.bak.onVbak = true)
    ∧ (∃ (s : State), s.supply.shutdown = false)
    ∧ (∃ (s : State), s.supply.shutdown = true)
    ∧ (∃ (ns : ℕ), 1000 ≤ ns)
    ∧ (∃ (s : State), s.start.released = false ∧ resetFree s = true ∧ s.nv.flash.present = true)
    ∧ (∃ (s : State), atPhase s 1 = true ∧ s.start.stopNext = none ∧ s.lifecycle ≠ lcScrapped) :=
  ⟨⟨SuppliesAndTemperatures.w9, 11, by decide +kernel, by decide +kernel, by decide +kernel, by decide +kernel⟩,
   ⟨CalendarAndBackupDomain.w1, by decide +kernel⟩,
   ⟨SuppliesAndTemperatures.w9, by decide +kernel⟩,
   ⟨SuppliesAndTemperatures.w4, by decide +kernel⟩,
   ⟨65535, by decide +kernel⟩,
   ⟨SuppliesAndTemperatures.w11, by decide +kernel, by decide +kernel, by decide +kernel⟩,
   ⟨StartSequence.w6, by decide +kernel, by decide +kernel, by decide +kernel⟩⟩

/-- Hypotheses of TrunkToSafetyCommandsComplete, part 4: states and operands that meet them together. -/
theorem test_TrunkToSafetyCommandsComplete_hypotheses4 :
    (∃ (s : State) (p : PatternTest), atPhase s 2 = true ∧ s.start.stopNext = none ∧ beyondRepair p = false)
    ∧ (∃ (s : State), atPhase s 3 = true ∧ loadFailed s = false ∧ imgCheck s (acceptedFormats s) (areaOf s 0 (dirNow
      s).ronif) = none)
    ∧ (∃ (s : State), atPhase s 4 = true ∧ loadFailed s = false ∧ (pickBank s 1).isSome = true)
    ∧ (∃ (s : State), atPhase s 5 = true ∧ loadFailed s = false ∧ (pickBank s 2).isSome = true)
    ∧ (∃ (s : State) (c : SelfCheck), atPhase s 6 = true ∧ s.start.waitSupply = false ∧ loadFailed s = false ∧
      startSupplies s = true ∧ deviceStep c = none ∧ (rebuildLedger (selfCheck c s)).isSome = true)
    ∧ (∃ (s : State), s.start.phase = 6 ∧ s.start.waitSupply = true ∧ startSupplies s = true ∧ s.supply.tripped &&&
      s.start.waitFor = 0)
    ∧ (∃ (s : State), s.start.phase = 7 ∧ s.start.done = 7) :=
  ⟨⟨StartSequence.w7, { cells := [], codecOk := true, spareFails := false, beyondSpares := false }, by decide +kernel,
    by decide +kernel, by decide +kernel⟩,
   ⟨StartSequence.w8, by decide +kernel, by decide +kernel, by decide +kernel⟩,
   ⟨StartSequence.w10, by decide +kernel, by decide +kernel, Option.isSome_of_eq_some StartSequence.pickBank_firmware⟩,
   ⟨StartSequence.w12, by decide +kernel, by decide +kernel, Option.isSome_of_eq_some
    StartSequence.pickBank_heartwood⟩,
   ⟨StartSequence.w14, { lossSeen := true, leftFailsafe := true, linkOk := true, tripLineBad := 4, switchBad := 0x000000000000,
                         stuckOn := 0x000000000000, contactClosed := 4, residualHigh := 0, insulationBad := 0,
                         estopDiffer := false }, by decide +kernel, by decide +kernel, by decide +kernel,
    by decide +kernel, by decide +kernel, by decide +kernel⟩,
   ⟨StartSequence.w15, by decide +kernel, by decide +kernel, by decide +kernel, by decide +kernel⟩,
   ⟨StartSequence.w19, by decide +kernel, by decide +kernel⟩⟩

/-- Hypotheses of TrunkToSafetyCommandsComplete, part 5: states and operands that meet them together. -/
theorem test_TrunkToSafetyCommandsComplete_hypotheses5 :
    (∃ (s : State), s.bak.caltime.toNat < 4294967294)
    ∧ (∃ (s : State), s.bak.caltime = 4294967294) :=
  ⟨⟨SuppliesAndTemperatures.w6, by decide +kernel⟩,
   ⟨CalendarAndBackupDomain.w0, by decide +kernel⟩⟩

/-- Hypotheses of TrunkToSafetyCommandsComplete, part 6: states and operands that meet them together. -/
theorem test_TrunkToSafetyCommandsComplete_hypotheses6 :
    (∃ (s : State), s.open3 = true)
    ∧ (∃ (s : State) (sub : Fin 16), s.ready = true ∧ (snapOf s sub.val).isSome = true ∧ sub ≠ 7 ∧
      s.host.devLeft.getLsbD sub.val = true ∧ deviceBoundary s sub.val = true ∧ leftMask s sub.val = 0 ∧
      s.host.passed.getLsbD sub.val = true)
    ∧ (∃ (s : State) (sub : Fin 16) (b : Bough), s.ready = true ∧ (snapOf s sub.val).isSome = true ∧ (sub = 2 ∨ sub
      = 3 ∨ sub = 4) ∧ leftMask s sub.val = BitVec.ofNat 8 (2 ^ b.val) ∧ boughBoundary s (sub.val) b = true ∧
      s.host.devLeft.getLsbD sub.val = false ∧ s.host.passed.getLsbD sub.val = true)
    ∧ (∃ (s : State), globalOpen s = true ∧ s.host.bulkState = 3)
    ∧ (∃ (s : State) (bs : List Byte), s.open2 = true ∧ 8 ≤ bs.length ∧ 8 + msgLen bs ≤ bs.length ∧ 8 + msgLen bs +
      cqUsed s ≤ 16384)
    ∧ (∃ (s : State) (m : Msg) (rest : List Msg), s.open2 = true ∧ s.host.eq = m :: rest ∧ 8 + m.body.length ≤ 4096)
    ∧ (∃ (s : State) (m : List Byte) (rest : List (List Byte)), s.host.cq = m :: rest ∧ refusal s m = none ∧ msgType
      m = 32770) :=
  ⟨⟨Commits.w24, by decide +kernel⟩,
   ⟨Commits.w4, 9, by decide +kernel, by decide +kernel, by decide +kernel, by decide +kernel, by decide +kernel,
    by decide +kernel, by decide +kernel⟩,
   ⟨Commits.w13, 2, 2, by decide +kernel, by decide +kernel, by decide +kernel, by decide +kernel, by decide +kernel,
    by decide +kernel, by decide +kernel⟩,
   ⟨HostPortLink.w12, by decide +kernel, by decide +kernel⟩,
   ⟨WindowWrites.w1, [3, 0, 9, 0, 0, 0, 7, 7], by decide +kernel, by decide +kernel, by decide +kernel,
    by decide +kernel⟩,
   ⟨HostPortLink.w11, { type := 265, bough := 255, seq := 0, tag := 0, body := [1, 0] }, [{ type := 261, bough := 255,
                                                                                            seq := 1, tag := 0, body := [1, 0, 0, 0] }],
    by decide +kernel, by decide +kernel, by decide +kernel⟩,
   ⟨HostPortLink.w0, [2, 128, 2, 9, 3, 0, 52, 18, 1, 2, 3], [[3, 131, 2, 9, 0, 0, 52, 18]], by decide +kernel,
    by decide +kernel, by decide +kernel⟩⟩

/-- Hypotheses of TrunkToSafetyCommandsComplete, part 7: states and operands that meet them together. -/
theorem test_TrunkToSafetyCommandsComplete_hypotheses7 :
    (∃ (s : State) (body : List Byte), CanAnswer s ∧ body.length ≤ 4088) :=
  ⟨Commits.w9, [83, 3, 2, 2, 82, 1, 9, 83], canAnswer_of _ (by decide +kernel), by decide +kernel⟩

/-- Hypotheses of TrunkToSafetyCommandsComplete, part 8: states and operands that meet them together. -/
theorem test_TrunkToSafetyCommandsComplete_hypotheses8 :
    (∃ (s : State) (b : Bough) (mv : ℤ), pilotLost s b = false ∧ (s.ports[b].out = OutMode.x1 ∨ s.ports[b].out =
      OutMode.x2) ∧ inHold s.ports[b].state mv = true ∧ s.ports[b].state ≠ PilotState.fault ∧ s.ports[b].fresh
      = false)
    ∧ (∃ (s : State) (b : Bough) (mvs : List ℤ), s.ports[b].state = PilotState.fault ∧ heldOut s b = false ∧ forcedF
      s = false ∧ bitOf (s.vehPortCfg b) 31 = true ∧ pilotLost s b = false ∧ threeAB mvs 0 = false)
    ∧ (∃ (s : State) (b : Bough), fld (s.vehPpCfg b) 31 30 = 2)
    ∧ (∃ (s : State) (mac : List Byte) (runId : List Byte), ∀ (r : SlacReq), findReq s mac runId = some r →
      r.assigned = none)
    ∧ (∃ (s : State) (b : Bough) (mac : List Byte) (runId : List Byte) (r : SlacReq), findReq s mac runId = some r ∧
      r.assigned = some b ∧ s.ports[b].slac = 3 ∧ r.heard < 10)
    ∧ (∃ (s : State) (b : Bough) (mac : List Byte) (runId : List Byte) (r : SlacReq), findReq s mac runId = some r ∧
      r.assigned = some b ∧ s.ports[b].slac = 3 ∧ 5 ≤ r.sounds.length ∧ soundsConfirm s r b = true)
    ∧ (∃ (s : State) (b : Bough) (mac : List Byte) (runId : List Byte) (r : SlacReq), findReq s mac runId = some r ∧
      r.assigned = some b ∧ r.confirmed = true ∧ s.crypto.drbgOk = true) :=
  ⟨⟨PilotPlateausAndProximity.w24, 2, 9900, by decide +kernel, by decide +kernel, by decide +kernel,
    by decide +kernel, by decide +kernel⟩,
   ⟨PilotPlateausAndProximity.w18, 2, [], by decide +kernel, by decide +kernel, by decide +kernel, by decide +kernel,
    by decide +kernel, by decide +kernel⟩,
   ⟨PilotPlateausAndProximity.w35, 2, by decide +kernel⟩,
   ⟨Association.w2, [1, 2, 3, 4, 5, 7], [9, 9, 9, 9, 9, 9, 9, 9], by decide +kernel⟩,
   ⟨Association.w3, 2, [1, 2, 3, 4, 5, 6], [9, 9, 9, 9, 9, 9, 9, 9], { mac := [1, 2, 3, 4, 5, 6], runId := [9, 9, 9, 9, 9, 9, 9, 9],
                                                                       atten := #v[40, 40, 10, 40, 40, 40, 40, 40],
                                                                       startAtten := #v[90, 90, 90, 90, 90, 90, 90, 90],
                                                                       profiles := [], sounds := [#v[40, 40, 10, 40, 40, 40, 40, 40], #v[40, 40, 10, 40, 40, 40, 40, 40], #v[40, 40, 10, 40, 40, 40, 40, 40]],
                                                                       heard := 3, assigned := some 2, margin := 0,
                                                                       confirmed := false, heardNow := false },
    by decide +kernel, by decide +kernel, by decide +kernel, by decide +kernel⟩,
   ⟨Association.w6, 2, [1, 2, 3, 4, 5, 6], [9, 9, 9, 9, 9, 9, 9, 9], { mac := [1, 2, 3, 4, 5, 6], runId := [9, 9, 9, 9, 9, 9, 9, 9],
                                                                       atten := #v[40, 40, 10, 40, 40, 40, 40, 40],
                                                                       startAtten := #v[90, 90, 90, 90, 90, 90, 90, 90],
                                                                       profiles := [], sounds := [#v[40, 40, 10, 40, 40, 40, 40, 40], #v[40, 40, 10, 40, 40, 40, 40, 40], #v[40, 40, 10, 40, 40, 40, 40, 40], #v[40, 40, 10, 40, 40, 40, 40, 40], #v[40, 40, 10, 40, 40, 40, 40, 40], #v[40, 40, 10, 40, 40, 40, 40, 40]],
                                                                       heard := 6, assigned := some 2, margin := 0,
                                                                       confirmed := true, heardNow := false },
    by decide +kernel, by decide +kernel, by decide +kernel, by decide +kernel, by decide +kernel⟩,
   ⟨Association.w6, 2, [1, 2, 3, 4, 5, 6], [9, 9, 9, 9, 9, 9, 9, 9], { mac := [1, 2, 3, 4, 5, 6], runId := [9, 9, 9, 9, 9, 9, 9, 9],
                                                                       atten := #v[40, 40, 10, 40, 40, 40, 40, 40],
                                                                       startAtten := #v[90, 90, 90, 90, 90, 90, 90, 90],
                                                                       profiles := [], sounds := [#v[40, 40, 10, 40, 40, 40, 40, 40], #v[40, 40, 10, 40, 40, 40, 40, 40], #v[40, 40, 10, 40, 40, 40, 40, 40], #v[40, 40, 10, 40, 40, 40, 40, 40], #v[40, 40, 10, 40, 40, 40, 40, 40], #v[40, 40, 10, 40, 40, 40, 40, 40]],
                                                                       heard := 6, assigned := some 2, margin := 0,
                                                                       confirmed := true, heardNow := false },
    by decide +kernel, by decide +kernel, by decide +kernel, by decide +kernel⟩⟩

/-- Hypotheses of TrunkToSafetyCommandsComplete, part 9: states and operands that meet them together. -/
theorem test_TrunkToSafetyCommandsComplete_hypotheses9 :
    (∃ (s : State) (b : Bough), answersMatching s b = true ∧ bitOf s.vehSlacCfg 31 = true)
    ∧ (∃ (s : State) (b : Bough), s.links[b].validating = true)
    ∧ (∃ (s : State) (b : Bough), s.ports[b].winOpen = true ∧ s.ports[b].slac ≠ 5)
    ∧ (∃ (s : State) (b : Bough), s.ports[b].slac = 5)
    ∧ (∃ (s : State) (b : Bough) (n : ℕ) (built : ℕ), n ≤ 128 ∧ n ≤ built ∧ pilotIn s b = true)
    ∧ (∃ (s : State) (b : Bough) (list : List Proto) (tls : Bool) (suites : List Cipher) (p : Proto), linked s b =
      true ∧ s.ses[b].state ≠ SesState.stopping ∧ s.links[b].conn = none ∧ p ∈ [Proto.iso20, Proto.iso2,
      Proto.din] ∧ protoOk s b list tls suites p = true)
    ∧ (∃ (s : State) (b : Bough), linked s b = true ∧ s.ses[b].state ≠ SesState.stopping ∧ s.ports[b].proto ≠ 0) :=
  ⟨⟨Association.w7, 2, by decide +kernel, by decide +kernel⟩,
   ⟨PilotPlateausAndProximity.w22, 5, by decide +kernel⟩,
   ⟨Association.w14, 2, by decide +kernel, by decide +kernel⟩,
   ⟨Association.w11, 2, by decide +kernel⟩,
   ⟨ModemFrames.w0, 2, 0, 7, by decide +kernel, by decide +kernel, by decide +kernel⟩,
   ⟨VehicleDialogue.w9, 2, [Sys2Proof.Proto.iso2, Sys2Proof.Proto.din], false, [Sys2Proof.Cipher.ecdheAes128Cbc],
    Sys2Proof.Proto.din, by decide +kernel, by decide +kernel, by decide +kernel, by decide +kernel,
    by decide +kernel⟩,
   ⟨VehicleDialogue.w1, 2, by decide +kernel, by decide +kernel, by decide +kernel⟩⟩

/-- Hypotheses of TrunkToSafetyCommandsComplete, part 10: states and operands that meet them together. -/
theorem test_TrunkToSafetyCommandsComplete_hypotheses10 :
    (∃ (s : State) (b : Bough) (e : List Byte), linked s b = true ∧ s.ses[b].state ≠ SesState.stopping ∧ 2 ≤
      s.ports[b].proto ∧ s.ses[b].state = SesState.connected ∧ e ≠ [])
    ∧ (∃ (s : State) (b : Bough), linked s b = true ∧ s.ses[b].state ≠ SesState.stopping ∧ isDC s b = true ∧
      s.ses[b].state = SesState.authorised)
    ∧ (∃ (s : State) (b : Bough), linked s b = true ∧ s.ses[b].state ≠ SesState.stopping ∧ 2 ≤ s.ports[b].proto)
    ∧ (∃ (s : State) (b : Bough) (k : V2gTimer), linked s b = true ∧ s.ses[b].state ≠ SesState.stopping ∧
      transferring s.ses[b].state = true ∧ coilsClosed s b = true ∧ timerCounts s b k = true) :=
  ⟨⟨VehicleDialogue.w5, 2, [2, 0, 0, 0, 9, 0, 83, 2], by decide +kernel, by decide +kernel, by decide +kernel,
    by decide +kernel, by decide +kernel⟩,
   ⟨VehicleDialogue.w0, 2, by decide +kernel, by decide +kernel, by decide +kernel, by decide +kernel⟩,
   ⟨VehicleDialogue.w5, 2, by decide +kernel, by decide +kernel, by decide +kernel⟩,
   ⟨VehicleDialogue.w8, 2, Sys2Proof.V2gTimer.cpStateDetection, by decide +kernel, by decide +kernel,
    by decide +kernel, by decide +kernel, by decide +kernel⟩⟩

/-- Hypotheses of TrunkToSafetyCommandsComplete, part 11: states and operands that meet them together. -/
theorem test_TrunkToSafetyCommandsComplete_hypotheses11 :
    (∃ (s : State) (b : Bough), coreAlive s b = true ∧ s.ses[b].state = SesState.connected ∧ bitOf (s.sesBoughCfg
      b) 31 = true ∧ s.ses[b].held = [])
    ∧ (∃ (s : State) (b : Bough), coreAlive s b = true ∧ s.ses[b].state = SesState.authorised ∧ fld s.sesAuthCfg 15
      8 ≠ 0)
    ∧ (∃ (s : State) (b : Bough), coreAlive s b = true ∧ s.sesL[b].ceilTimed = true)
    ∧ (∃ (s : State) (b : Bough), coreAlive s b = true ∧ s.ses[b].state = SesState.charging ∧ s.ses[b].ceilW <
      s.sesL[b].vehMin)
    ∧ (∃ (s : State) (b : Bough), coreAlive s b = true ∧ s.ses[b].state = SesState.stopping ∧ s.sesL[b].stopIssued =
      true ∧ coilsClosed s b = true)
    ∧ (∃ (s : State) (b : Bough), coreAlive s b = true ∧ sendsRequests s.ses[b].state = true)
    ∧ (∃ (s : State) (b : Bough) (g : Grant), coreAlive s b = true ∧ transferring s.ses[b].state = true ∧
      coilsClosed s b = true ∧ s.bilB[b].sesOpen = false ∧ s.ses[b].grant = some g ∧ s.ses[b].newGrant = none
      ∧ s.ses[b].cutTo = none ∧ g.amount ≠ 0 ∧ g.amount ≤ ↑s.ses[b].cost) :=
  ⟨⟨SessionTimers.w3, 2, by decide +kernel, by decide +kernel, by decide +kernel, by decide +kernel⟩,
   ⟨SessionTimers.w2, 2, by decide +kernel, by decide +kernel, by decide +kernel⟩,
   ⟨SessionTimers.w4, 2, by decide +kernel, by decide +kernel⟩,
   ⟨SessionTimers.w5, 2, by decide +kernel, by decide +kernel, by decide +kernel⟩,
   ⟨SessionTimers.w6, 2, by decide +kernel, by decide +kernel, by decide +kernel, by decide +kernel⟩,
   ⟨SessionTimers.w5, 2, by decide +kernel, by decide +kernel⟩,
   ⟨SessionTimers.w8, 2, { amount := 5000, expiry := 1700000100, offline := false }, by decide +kernel,
    by decide +kernel, by decide +kernel, by decide +kernel, by decide +kernel, by decide +kernel, by decide +kernel,
    by decide +kernel, by decide +kernel⟩⟩

/-- Hypotheses of TrunkToSafetyCommandsComplete, part 12: states and operands that meet them together. -/
theorem test_TrunkToSafetyCommandsComplete_hypotheses12 :
    (∃ (s : State) (b : Bough) (g : Grant), coreAlive s b = true ∧ transferring s.ses[b].state = true ∧
      coilsClosed s b = true ∧ s.ses[b].grant = some g ∧ g.expiry ≠ 0)
    ∧ (∃ (s : State) (b : Bough), coreAlive s b = true ∧ transferring s.ses[b].state = true ∧ coilsClosed s b = true
      ∧ s.sesL[b].lowered = true ∧ 11 * offeredMa s b + 10000 < 10 * blockMa s b)
    ∧ (∃ (s : State) (b : Bough) (h : CmdHdr), coreAlive s b = true ∧ h.bough = b.val ∧ s.ses[b].state =
      SesState.authorising ∧ s.ses[b].waitTag = some h.tag)
    ∧ (∃ (s : State) (b : Bough) (h : CmdHdr) (ident : List Byte), coreAlive s b = true ∧ h.bough = b.val ∧
      ident.length ≤ 32 ∧ s.ses[b].state = SesState.authorised ∧ namesAuthorised s.ses[b] ident h.tag = true)
    ∧ (∃ (s : State) (b : Bough) (h : CmdHdr) (x : List Byte), coreAlive s b = true ∧ h.bough = b.val ∧ x ≠ [] ∧
      x.length ≤ 32 ∧ s.ses[b].state = SesState.authorising)
    ∧ (∃ (s : State) (b : Bough) (h : CmdHdr), coreAlive s b = true ∧ h.bough = b.val ∧ s.ses[b].state =
      SesState.authorised)
    ∧ (∃ (s : State) (b : Bough) (h : CmdHdr), coreAlive s b = true ∧ h.bough = b.val ∧ authorised s.ses[b].state =
      true) :=
  ⟨⟨SessionTimers.w7, 2, { amount := 5000, expiry := 1700000100, offline := false }, by decide +kernel,
    by decide +kernel, by decide +kernel, by decide +kernel, by decide +kernel⟩,
   ⟨SessionTimers.w0, 2, by decide +kernel, by decide +kernel, by decide +kernel, by decide +kernel,
    by decide +kernel⟩,
   ⟨SessionCommands.w1, 2, { bough := 2, tag := 9 }, by decide +kernel, by decide +kernel, by decide +kernel,
    by decide +kernel⟩,
   ⟨SessionCommands.w2, 2, { bough := 2, tag := 7 }, [1, 2, 3], by decide +kernel, by decide +kernel,
    by decide +kernel, by decide +kernel, by decide +kernel⟩,
   ⟨SessionCommands.w1, 2, { bough := 2, tag := 9 }, [1, 2, 3], by decide +kernel, by decide +kernel,
    by decide +kernel, by decide +kernel, by decide +kernel⟩,
   ⟨SessionTimers.w2, 2, { bough := 2, tag := 65535 }, by decide +kernel, by decide +kernel, by decide +kernel⟩,
   ⟨SessionTimers.w0, 2, { bough := 2, tag := 65535 }, by decide +kernel, by decide +kernel, by decide +kernel⟩⟩

/-- Hypotheses of TrunkToSafetyCommandsComplete, part 13: states and operands that meet them together. -/
theorem test_TrunkToSafetyCommandsComplete_hypotheses13 :
    (∃ (s : State) (b : Bough) (h : CmdHdr) (w : ℕ), coreAlive s b = true ∧ h.bough = b.val ∧ w ≤ 2147483647) :=
  ⟨SessionTimers.w3, 2, { bough := 2, tag := 65535 }, 5000, by decide +kernel, by decide +kernel, by decide +kernel⟩

/-- Hypotheses of TrunkToSafetyCommandsComplete, part 14: states and operands that meet them together. -/
theorem test_TrunkToSafetyCommandsComplete_hypotheses14 :
    (∃ (s : State) (u : State) (d : List Byte) (i : ℕ) (x : ℤ), d.length = 8 ∧ MemOk s ∧ lookup d s = (some i, u)
      ∧ x < 0)
    ∧ (∃ (s : State) (u : State) (d : List Byte) (i : ℕ), d.length = 8 ∧ MemOk s ∧ lookup d s = (some i, u) ∧
      holderOf u i = none) :=
  ⟨⟨CreditRecords.w0, _, CreditRecords.d1, homeSlot CreditRecords.d1, -1, rfl, memOk_of _ (by decide +kernel),
    Prod.ext (by decide +kernel) rfl, by decide⟩,
   ⟨CreditRecords.w0, _, CreditRecords.d1, homeSlot CreditRecords.d1, rfl, memOk_of _ (by decide +kernel), Prod.ext
    (by decide +kernel) rfl, by decide +kernel⟩⟩

/-- Hypotheses of TrunkToSafetyCommandsComplete, part 15: states and operands that meet them together. -/
theorem test_TrunkToSafetyCommandsComplete_hypotheses15 :
    (∃ (s : State) (u : State) (d : List Byte) (i : ℕ) (v : State), d.length = 8 ∧ MemOk s ∧ lookup d s = (none,
      u) ∧ freeFrom d 64 0 u = (some i, v))
    ∧ (∃ (s : State) (d : List Byte) (n : ℕ), d.length = 8 ∧ MemOk s ∧ 1 ≤ n ∧ n ≤ 16384) :=
  ⟨⟨readyBase, _, CreditRecords.d1, homeSlot CreditRecords.d1, _, rfl, memOk_of _ (by decide +kernel), Prod.ext
    (by decide +kernel) rfl, Prod.ext (by decide +kernel) rfl⟩,
   ⟨CreditRecords.w0, CreditRecords.d1, 10, rfl, memOk_of _ (by decide +kernel), by decide, by decide⟩⟩

/-- Hypotheses of TrunkToSafetyCommandsComplete, part 16: states and operands that meet them together. -/
theorem test_TrunkToSafetyCommandsComplete_hypotheses16 :
    (∃ (s : State) (d : List Byte) (n : ℕ), d.length = 8 ∧ MemOk s ∧ 1 ≤ n ∧ n ≤ 16384 ∧ ∀ (b : Bough),
      s.ses[b].slot = none) :=
  ⟨readyBase, CreditRecords.d1, 4, rfl, memOk_of _ (by decide +kernel), by decide, by decide, by decide +kernel⟩

/-- Hypotheses of TrunkToSafetyCommandsComplete, part 17: states and operands that meet them together. -/
theorem test_TrunkToSafetyCommandsComplete_hypotheses17 :
    (∃ (s : State) (b : Bough), s.saf[b].closeReq = true ∧ s.saf[b].closing = Closing.none ∧ mayClose s b = true ∧
      isDC s b = false)
    ∧ (∃ (s : State) (b : Bough), s.saf[b].closeReq = true ∧ s.saf[b].closing = Closing.none ∧ mayClose s b = true ∧
      isDC s b = true)
    ∧ (∃ (s : State) (b : Bough), s.saf[b].closing = Closing.acConfirm ∧ contactsClosed s b = true ∧ s.ses[b].state
      = SesState.energising ∧ coreAlive s b = true ∧ isDC s b = false)
    ∧ (∃ (s : State) (b : Bough), s.saf[b].closing = Closing.acConfirm)
    ∧ (∃ (s : State) (b : Bough), s.saf[b].closing = Closing.dcPrecharge ∧ s.ses[b].state = SesState.energising ∧
      coreAlive s b = true ∧ 1000 * (s.saf[b].side.ch8 - 1000 * s.sesL[b].targetV).natAbs ≤ fld (s.safSenseCfg
      b) 15 8 * (1000 * s.sesL[b].targetV).natAbs)
    ∧ (∃ (s : State) (b : Bough), s.saf[b].openReq = true ∧ s.saf[b].closing = Closing.none)
    ∧ (∃ (s : State) (b : Bough), s.saf[b].opening = true) :=
  ⟨⟨ClosingContactors.w1, 2, by decide +kernel, by decide +kernel, by decide +kernel, by decide +kernel⟩,
   ⟨ClosingContactors.w9, 2, by decide +kernel, by decide +kernel, by decide +kernel, by decide +kernel⟩,
   ⟨ClosingContactors.w11, 2, by decide +kernel, by decide +kernel, by decide +kernel, by decide +kernel,
    by decide +kernel⟩,
   ⟨ClosingContactors.w12, 2, by decide +kernel⟩,
   ⟨ClosingContactors.w19, 2, by decide +kernel, by decide +kernel, by decide +kernel, by decide +kernel⟩,
   ⟨OpeningAndWelds.w5, 2, by decide +kernel, by decide +kernel⟩,
   ⟨OpeningAndWelds.w6, 2, by decide +kernel⟩⟩

/-- Hypotheses of TrunkToSafetyCommandsComplete, part 18: states and operands that meet them together. -/
theorem test_TrunkToSafetyCommandsComplete_hypotheses18 :
    (∃ (s : State) (b : Bough) (k : Fin 3), s.saf[b].coils[k].weldWait = true ∧ s.saf[b].closing = Closing.none ∧
      senseReads s b k = some false)
    ∧ (∃ (s : State) (b : Bough) (k : Fin 3), s.saf[b].coils[k].undet = true ∧ senseReads s b k = some false)
    ∧ (∃ (s : State) (b : Bough) (k : Fin 3), s.saf[b].coils[k].driven = true)
    ∧ (∃ (s : State) (b : Bough), chFails s.mtr[b] 21 = true)
    ∧ (∃ (s : State) (b : Bough), bitOf (s.safBoughCfg b) 28 = true ∧ dcReaches s b 2441 6000 ≠ none)
    ∧ (∃ (s : State) (b : Bough), bitOf (s.safBoughCfg b) 27 = true)
    ∧ (∃ (s : State) (b : Bough) (h : CmdHdr) (m : Byte) (c : ℕ), h.bough = b.val ∧ coilsClosed s b = false ∧
      s.saf[b].latched = [c] ∧ clearSelects m c = true ∧ mayClear s b c = true) :=
  ⟨⟨OpeningAndWelds.w10, 2, 2, by decide +kernel, by decide +kernel, by decide +kernel⟩,
   ⟨OpeningAndWelds.w14, 2, 2, by decide +kernel, by decide +kernel⟩,
   ⟨ClosingContactors.w17, 2, 0, by decide +kernel⟩,
   ⟨ResidualAndInsulation.w1, 2, by decide +kernel⟩,
   ⟨ResidualAndInsulation.w8, 2, by decide +kernel, by decide +kernel⟩,
   ⟨ClosingContactors.w6, 2, by decide +kernel⟩,
   ⟨SafetyCommands.w11, 2, { bough := 2, tag := 9 }, 255, 19, by decide +kernel, by decide +kernel, by decide +kernel,
    by decide +kernel, by decide +kernel⟩⟩

/-- Hypotheses of TrunkToSafetyCommandsComplete, part 19: states and operands that meet them together. -/
theorem test_TrunkToSafetyCommandsComplete_hypotheses19 :
    (∃ (s : State) (i : Fin 48), i.val ∉ s.safDev.skipped)
    ∧ (∃ (s : State) (i : Fin 48), s.saf[switchBough i].coils[switchCoil i].driven = false)
    ∧ (∃ (s : State) (a : ℕ) (b : ℕ), s.safDev.stop = false ∧ (a ≤ 7000 ∨ b ≤ 7000))
    ∧ (∃ (s : State), s.safDev.stop = true ∧ s.safDev.disc = false)
    ∧ (∃ (s : State), s.safDev.estopA ≠ s.safDev.estopB ∧ s.safDev.disc = false)
    ∧ (∃ (s : State), s.lat.pllLost = false ∧ s.supply.resetHeld = false)
    ∧ (∃ (s : State) (n : BitVec 4), n.toNat = s.safDev.hbExpect ∧ s.safDev.firstBeat = true ∧ s.safDev.linkValid <
      9 ∧ s.safDev.hbValid < 9) :=
  ⟨⟨SwitchAndCoilFaults.w7, 23, by decide +kernel⟩,
   ⟨SwitchAndCoilFaults.w2, 2, by decide +kernel⟩,
   ⟨SwitchAndCoilFaults.w2, 11, 0, by decide +kernel, by decide +kernel⟩,
   ⟨EmergencyStops.w5, by decide +kernel, by decide +kernel⟩,
   ⟨EmergencyStops.w5, by decide +kernel, by decide +kernel⟩,
   ⟨SwitchAndCoilFaults.w1, by decide +kernel, by decide +kernel⟩,
   ⟨SwitchAndCoilFaults.w4, 0, by decide +kernel, by decide +kernel, by decide +kernel, by decide +kernel⟩⟩

/-- Hypotheses of TrunkToSafetyCommandsComplete, part 20: states and operands that meet them together. -/
theorem test_TrunkToSafetyCommandsComplete_hypotheses20 :
    (∃ (s : State), s.safDev.hbMissed < 2)
    ∧ (∃ (s : State) (c : Fin 2), s.safDev.coreDead.getLsbD c.val = false ∧ s.safDev.serviced.getLsbD c.val = false) :=
  ⟨⟨SwitchAndCoilFaults.w7, by decide +kernel⟩,
   ⟨SwitchAndCoilFaults.w2, 0, by decide +kernel, by decide +kernel⟩⟩

/-- Hypotheses of SamplingToUpdateCommandsComplete, part 1: states and operands that meet them together. -/
theorem test_SamplingToUpdateCommandsComplete_hypotheses1 :
    (∃ (s : State) (b : Bough) (n : Fin 24), s.mtr[b].rsvState = 0 ∧ s.mtr[b].rsvIn = n.val ∧ s.mtr[b].patrolAt =
      n.val ∧ weakSum s.mtr[b].visA = false ∧ s.mtr[b].ch[n].failed = false ∧ s.mtr[b].served ≠ n.val ∧ n.val
      < nextVisit s.mtr[b] n.val ∧ s.mtr[b].ch[n].k0 = none)
    ∧ (∃ (s : State) (b : Bough) (n : Fin 24), s.mtr[b].ch[n].failed = false ∧ s.mtr[b].served ≠ n.val)
    ∧ (∃ (s : State) (b : Bough) (n : ℕ), s.mtr[b].coldCh = some n)
    ∧ (∃ (s : State) (b : Bough), s.mtr[b].rsvState = 1 ∧ s.mtr[b].fitOn = false)
    ∧ (∃ (s : State) (b : Bough) (r : FitResult), s.mtr[b].rsvState = 1 ∧ s.mtr[b].fitOn = true ∧ calBlocks s ≤
      s.mtr[b].fitBlocks ∧ fitOk s b s.mtr[b].rsvIn r = true)
    ∧ (∃ (s : State) (b : Bough) (ppm : ℕ), s.mtr[b].returning = true ∧ calBlocks s ≤ s.mtr[b].fitBlocks ∧ ppm ≤ fld
      (s.mtrRsvCfg b) 15 0)
    ∧ (∃ (s : State) (b : Bough) (c : CalRun), s.mtr[b].cal = some c ∧ c.n ≤ c.counted) :=
  ⟨⟨ReserveModulator.w1, 2, 2, by decide +kernel, by decide +kernel, by decide +kernel, by decide +kernel,
    by decide +kernel, by decide +kernel, by decide +kernel, by decide +kernel⟩,
   ⟨ReserveModulator.w8, 0, 2, by decide +kernel, by decide +kernel⟩,
   ⟨ReserveModulator.w9, 2, 2, by decide +kernel⟩,
   ⟨ReserveModulator.w10, 2, by decide +kernel, by decide +kernel⟩,
   ⟨ReserveModulator.w12, 2, { residualPpm := 50, rgain := 1073741824, roff := 5, rdelay := 3 }, by decide +kernel,
    by decide +kernel, by decide +kernel, by decide +kernel⟩,
   ⟨ReserveModulator.w15, 2, 500, by decide +kernel, by decide +kernel, by decide +kernel⟩,
   ⟨ReserveModulator.w18, 2, { mask := 15, n := 3, ref := 255, raw := false, begun := false, counted := 3, passed := 0,
                               cur := #v[{ n := 0, sum := 0, sq := 0 }, { n := 0, sum := 0, sq := 0 }, { n := 0, sum := 0,
                                                                                                         sq := 0 }, { n := 0,
                                                                                                                      sum := 0,
                                                                                                                      sq := 0 }, { n := 0,
                                                                                                                                   sum := 0,
                                                                                                                                   sq := 0 }, { n := 0,
                                                                                                                                                sum := 0,
                                                                                                                                                sq := 0 }, { n := 0,
                                                                                                                                                             sum := 0,
                                                                                                                                                             sq := 0 }, { n := 0,
                                                                                                                                                                          sum := 0,
                                                                                                                                                                          sq := 0 }, { n := 0,
                                                                                                                                                                                       sum := 0,
                                                                                                                                                                                       sq := 0 }, { n := 0,
                                                                                                                                                                                                    sum := 0,
                                                                                                                                                                                                    sq := 0 }, { n := 0,
                                                                                                                                                                                                                 sum := 0,
                                                                                                                                                                                                                 sq := 0 }, { n := 0,
                                                                                                                                                                                                                              sum := 0,
                                                                                                                                                                                                                              sq := 0 }, { n := 0,
                                                                                                                                                                                                                                           sum := 0,
                                                                                                                                                                                                                                           sq := 0 }, { n := 0,
                                                                                                                                                                                                                                                        sum := 0,
                                                                                                                                                                                                                                                        sq := 0 }, { n := 0,
                                                                                                                                                                                                                                                                     sum := 0,
                                                                                                                                                                                                                                                                     sq := 0 }, { n := 0,
                                                                                                                                                                                                                                                                                  sum := 0,
                                                                                                                                                                                                                                                                                  sq := 0 }, { n := 0,
                                                                                                                                                                                                                                                                                               sum := 0,
                                                                                                                                                                                                                                                                                               sq := 0 }, { n := 0,
                                                                                                                                                                                                                                                                                                            sum := 0,
                                                                                                                                                                                                                                                                                                            sq := 0 }, { n := 0,
                                                                                                                                                                                                                                                                                                                         sum := 0,
                                                                                                                                                                                                                                                                                                                         sq := 0 }, { n := 0,
                                                                                                                                                                                                                                                                                                                                      sum := 0,
                                                                                                                                                                                                                                                                                                                                      sq := 0 }, { n := 0,
                                                                                                                                                                                                                                                                                                                                                   sum := 0,
                                                                                                                                                                                                                                                                                                                                                   sq := 0 }, { n := 0,
                                                                                                                                                                                                                                                                                                                                                                sum := 0,
                                                                                                                                                                                                                                                                                                                                                                sq := 0 }, { n := 0,
                                                                                                                                                                                                                                                                                                                                                                             sum := 0,
                                                                                                                                                                                                                                                                                                                                                                             sq := 0 }, { n := 0,
                                                                                                                                                                                                                                                                                                                                                                                          sum := 0,
                                                                                                                                                                                                                                                                                                                                                                                          sq := 0 }],
                               tot := #v[{ n := 0, sum := 0, sq := 0 }, { n := 0, sum := 0, sq := 0 }, { n := 0, sum := 0,
                                                                                                         sq := 0 }, { n := 0,
                                                                                                                      sum := 0,
                                                                                                                      sq := 0 }, { n := 0,
                                                                                                                                   sum := 0,
                                                                                                                                   sq := 0 }, { n := 0,
                                                                                                                                                sum := 0,
                                                                                                                                                sq := 0 }, { n := 0,
                                                                                                                                                             sum := 0,
                                                                                                                                                             sq := 0 }, { n := 0,
                                                                                                                                                                          sum := 0,
                                                                                                                                                                          sq := 0 }, { n := 0,
                                                                                                                                                                                       sum := 0,
                                                                                                                                                                                       sq := 0 }, { n := 0,
                                                                                                                                                                                                    sum := 0,
                                                                                                                                                                                                    sq := 0 }, { n := 0,
                                                                                                                                                                                                                 sum := 0,
                                                                                                                                                                                                                 sq := 0 }, { n := 0,
                                                                                                                                                                                                                              sum := 0,
                                                                                                                                                                                                                              sq := 0 }, { n := 0,
                                                                                                                                                                                                                                           sum := 0,
                                                                                                                                                                                                                                           sq := 0 }, { n := 0,
                                                                                                                                                                                                                                                        sum := 0,
                                                                                                                                                                                                                                                        sq := 0 }, { n := 0,
                                                                                                                                                                                                                                                                     sum := 0,
                                                                                                                                                                                                                                                                     sq := 0 }, { n := 0,
                                                                                                                                                                                                                                                                                  sum := 0,
                                                                                                                                                                                                                                                                                  sq := 0 }, { n := 0,
                                                                                                                                                                                                                                                                                               sum := 0,
                                                                                                                                                                                                                                                                                               sq := 0 }, { n := 0,
                                                                                                                                                                                                                                                                                                            sum := 0,
                                                                                                                                                                                                                                                                                                            sq := 0 }, { n := 0,
                                                                                                                                                                                                                                                                                                                         sum := 0,
                                                                                                                                                                                                                                                                                                                         sq := 0 }, { n := 0,
                                                                                                                                                                                                                                                                                                                                      sum := 0,
                                                                                                                                                                                                                                                                                                                                      sq := 0 }, { n := 0,
                                                                                                                                                                                                                                                                                                                                                   sum := 0,
                                                                                                                                                                                                                                                                                                                                                   sq := 0 }, { n := 0,
                                                                                                                                                                                                                                                                                                                                                                sum := 0,
                                                                                                                                                                                                                                                                                                                                                                sq := 0 }, { n := 0,
                                                                                                                                                                                                                                                                                                                                                                             sum := 0,
                                                                                                                                                                                                                                                                                                                                                                             sq := 0 }, { n := 0,
                                                                                                                                                                                                                                                                                                                                                                                          sum := 0,
                                                                                                                                                                                                                                                                                                                                                                                          sq := 0 }],
                               tag := 7 }, by decide +kernel, by decide +kernel⟩⟩

/-- Hypotheses of SamplingToUpdateCommandsComplete, part 2: states and operands that meet them together. -/
theorem test_SamplingToUpdateCommandsComplete_hypotheses2 :
    (∃ (s : State) (b : Bough) (h : CmdHdr) (n : ℕ) (ref : ℕ), h.bough = b.val ∧ 1 ≤ n ∧ n ≤ 250 ∧ (ref < 24 ∨ ref
      = 255) ∧ s.mtr[b].cal = none)
    ∧ (∃ (s : State) (b : Bough) (h : CmdHdr) (ch : ℕ), h.bough = b.val ∧ ch < 24 ∧ swapRuns s b = false ∧
      (s.mtr[b].rsvState = 0 ∨ s.mtr[b].rsvState = 2) ∧ chFails s.mtr[b] ch = false)
    ∧ (∃ (s : State) (b : Bough) (h : CmdHdr) (ch : ℕ) (c : MtrCh), h.bough = b.val ∧ ch < 24 ∧ swapRuns s b = false
      ∧ s.mtr[b].ch[ch]? = some c ∧ s.mtr[b].rsvState = 3 ∧ s.mtr[b].served = ch ∧ c.failed = false ∧ c.lost =
      false ∧ c.readmit = false)
    ∧ (∃ (s : State) (b : Bough) (h : CmdHdr) (ch : ℕ), h.bough = b.val ∧ ch < 24 ∧ s.mtr[b].rsvState = 1)
    ∧ (∃ (s : State) (b : Bough) (h : CmdHdr), h.bough = b.val ∧ s.bil.stopped = false ∧ s.bilB[b].readNow = false)
    ∧ (∃ (s : State) (b : Bough) (x : ℤ) (y : ℤ), s.nrg[b].isDC = false ∧ x < 0 ∧ 0 ≤ y)
    ∧ (∃ (s : State) (b : Bough), s.nrg[b].noGrid = false) :=
  ⟨⟨ReserveModulator.w9, 0, { bough := 0, tag := 9 }, 1, 2, by decide +kernel, by decide +kernel, by decide +kernel,
    by decide +kernel, by decide +kernel⟩,
   ⟨ReserveModulator.w1, 2, { bough := 2, tag := 9 }, 5, by decide +kernel, by decide +kernel, by decide +kernel,
    by decide +kernel, by decide +kernel⟩,
   ⟨ReserveModulator.w8, 2, { bough := 2, tag := 7 }, 2, { failed := false, lost := false, settle := 0, settleS := 0,
                                                           ovrRun := false, ovrNeg := false, ovrRunS := false, ovrNegS := false,
                                                           m3 := [], ovrBlock := false, ovrNow := false, ovrNoted := false,
                                                           markNow := false, k0 := none, readmit := false, value := 0 },
    by decide +kernel, by decide +kernel, by decide +kernel, by decide +kernel, by decide +kernel, by decide +kernel,
    by decide +kernel, by decide +kernel, by decide +kernel⟩,
   ⟨ReserveModulator.w13, 2, { bough := 2, tag := 9 }, 5, by decide +kernel, by decide +kernel, by decide +kernel⟩,
   ⟨ReserveModulator.w13, 2, { bough := 2, tag := 9 }, by decide +kernel, by decide +kernel, by decide +kernel⟩,
   ⟨ReserveModulator.w1, 2, -1000, 0, by decide +kernel, by decide +kernel, by decide +kernel⟩,
   ⟨EnergyEngine.w24, 2, by decide +kernel⟩⟩

/-- Hypotheses of SamplingToUpdateCommandsComplete, part 3: states and operands that meet them together. -/
theorem test_SamplingToUpdateCommandsComplete_hypotheses3 :
    (∃ (s : State) (b : Bough), s.nrg[b].noGrid = true ∧ s.nrg[b].isDC = isDC s b)
    ∧ (∃ (s : State) (b : Bough) (x : Fin 3), 2441 < s.nrg[b].sub[x] ∧ s.nrg[b].gapPh[x] = false)
    ∧ (∃ (s : State) (b : Bough) (g : ℕ), s.nrg[b].pendRead = [g])
    ∧ (∃ (s : State) (b : Bough), 6 ≤ s.start.done ∧ s.bilB[b].gapOpen = false) :=
  ⟨⟨ReserveModulator.w8, 2, by decide +kernel, by decide +kernel⟩,
   ⟨EnergyEngine.w9, 2, 2, by decide +kernel, by decide +kernel⟩,
   ⟨EnergyEngine.w11, 2, 7, by decide +kernel⟩,
   ⟨ReserveModulator.w9, 2, by decide +kernel, by decide +kernel⟩⟩

/-- Hypotheses of SamplingToUpdateCommandsComplete, part 4: states and operands that meet them together. -/
theorem test_SamplingToUpdateCommandsComplete_hypotheses4 :
    (∃ (s : State), 6 ≤ s.start.done ∧ s.bil.stopped = false ∧ s.bil.savedTick ≠ some s.lat.ms)
    ∧ (∃ (s : State), 6 ≤ s.start.done ∧ s.bil.stopped = false ∧ pricing s = false)
    ∧ (∃ (s : State), 6 ≤ s.start.done ∧ s.bil.stopped = false ∧ atBoundary s = true)
    ∧ (∃ (s : State), 6 ≤ s.start.done ∧ s.bil.stopped = false ∧ s.bil.covered = true ∧ s.bil.queue.length +
      s.bil.waiting.length ≤ 1024)
    ∧ (∃ (s : State), 6 ≤ s.start.done ∧ s.bil.stopped = false ∧ sha256 (List.take s.bil.codeLen s.bil.code) ≠
      s.bil.check) :=
  ⟨⟨TariffClock.w5, by decide +kernel, by decide +kernel, by decide +kernel⟩,
   ⟨TariffClock.w2, by decide +kernel, by decide +kernel, by decide +kernel⟩,
   ⟨TariffClock.w2, by decide +kernel, by decide +kernel, by decide +kernel⟩,
   ⟨TariffClock.w4, by decide +kernel, by decide +kernel, by decide +kernel, by decide +kernel⟩,
   ⟨TariffClock.w0, by decide +kernel, by decide +kernel, by decide +kernel⟩⟩

/-- Hypotheses of SamplingToUpdateCommandsComplete, part 5: states and operands that meet them together. -/
theorem test_SamplingToUpdateCommandsComplete_hypotheses5 :
    (∃ (s : State) (utc : BitVec 32), fld s.bilCfg 27 26 = 0 ∧ utc ≠ 4294967295)
    ∧ (∃ (s : State) (r : Reading), s.bil.queue = [r])
    ∧ (∃ (s : State), CanAnswer s)
    ∧ (∃ (s : State) (first : ℕ) (count : ℕ), 1 ≤ count ∧ count ≤ 1024 ∧ loggedReadings s first count ≠ []) :=
  ⟨⟨BillingCommands.w6, 12, by decide +kernel, by decide +kernel⟩,
   ⟨BillingCommands.w3, { no := 3, bough := 0, kind := 0, raw := [1] }, by decide +kernel⟩,
   ⟨BillingCommands.w3, canAnswer_of _ (by decide +kernel)⟩,
   ⟨BillingCommands.w7, 4, 10, by decide +kernel, by decide +kernel, by decide +kernel⟩⟩

/-- Hypotheses of SamplingToUpdateCommandsComplete, part 6: states and operands that meet them together. -/
theorem test_SamplingToUpdateCommandsComplete_hypotheses6 :
    (∃ (s : State) (c : Fin 32) (mask : BitVec 32), ∃ duty ≤ 1000, (∀ (c : Fin 32), mask.getLsbD c.val = true →
      auxOwner s c = 0 ∧ s.aux[c].bridge = false) ∧ mask.getLsbD c.val = true)
    ∧ (∃ (c : Fin 32) (mask : BitVec 32), mask.getLsbD c.val = true)
    ∧ (∃ (s : State) (c : Fin 32), s.aux[c].on = true ∧ s.aux[c].inrush = false ∧ auxFailsafe s = false)
    ∧ (∃ (s : State) (c : Fin 32), s.aux[c].on = true ∧ 0 < auxDuty s c ∧ bitOf (s.auxChCfg c.val) 26 = true ∧ bitOf
      (s.auxChCfg c.val) 25 = false ∧ auxFailsafe s = false ∧ s.aux[c].bridge = false)
    ∧ (∃ (s : State) (c : Fin 32), s.aux[c].retryWait = true ∧ s.aux[c].hot = false ∧ auxFailsafe s = false)
    ∧ (∃ (s : State) (c : Fin 32) (g : Fin 4), s.supply.inRange.getLsbD (9 + g.val) = true ∧ c.val / 8 = g.val)
    ∧ (∃ (s : State), fld s.auxDevCfg 31 30 = 1) :=
  ⟨⟨LoadChannels.w5, 2, 12, 2, by decide +kernel, by decide +kernel, by decide +kernel⟩,
   ⟨2, 516, by decide +kernel⟩,
   ⟨LoadChannels.w3, 2, by decide +kernel, by decide +kernel, by decide +kernel⟩,
   ⟨LoadChannels.w3, 2, by decide +kernel, by decide +kernel, by decide +kernel, by decide +kernel, by decide +kernel,
    by decide +kernel⟩,
   ⟨LoadChannels.w7, 2, by decide +kernel, by decide +kernel, by decide +kernel⟩,
   ⟨LoadChannels.w4, 3, 0, by decide +kernel, by decide +kernel⟩,
   ⟨LoadChannels.w10, by decide +kernel⟩⟩

/-- Hypotheses of SamplingToUpdateCommandsComplete, part 7: states and operands that meet them together. -/
theorem test_SamplingToUpdateCommandsComplete_hypotheses7 :
    (∃ (s : State), heartwoodRuns s = true ∧ s.lcd.glyph.isSome = true ∧ s.lcd.stopCause ≠ 2)
    ∧ (∃ (s : State), s.lcd.faulted = true ∧ heartwoodRuns s = true ∧ s.lcd.state = LcdState.off ∧ bitOf s.lcdCfg 31
      = true ∧ s.lcd.glyph.isSome = true)
    ∧ (∃ (s : State) (mv : ℕ), s.lcd.state = LcdState.showing ∧ vlcdInRange s mv = false)
    ∧ (∃ (s : State), s.lcd.state = LcdState.showing ∧ s.lcd.stopCause = 0 ∧ bitOf s.lcdCfg 30 = true ∧ anyEnergised
      s = false) :=
  ⟨⟨DisplayRuns.w10, by decide +kernel, by decide +kernel, by decide +kernel⟩,
   ⟨DisplayRuns.w10, by decide +kernel, by decide +kernel, by decide +kernel, by decide +kernel, by decide +kernel⟩,
   ⟨DisplayRuns.w3, 0, by decide +kernel, by decide +kernel⟩,
   ⟨DisplayRuns.w11, by decide +kernel, by decide +kernel, by decide +kernel, by decide +kernel⟩⟩

/-- Hypotheses of SamplingToUpdateCommandsComplete, part 8: states and operands that meet them together. -/
theorem test_SamplingToUpdateCommandsComplete_hypotheses8 :
    (∃ (s : State), s.canopy.role = 3 ∧ s.canopy.turnKnown = true ∧ s.canopy.tripDue = [] ∧ s.canopy.ceilDue = [])
    ∧ (∃ (s : State), bitOf s.cnpCfg 30 = true ∧ s.canopy.czcEdge = false)
    ∧ (∃ (s : State), bitOf s.cnpCfg 30 = true ∧ s.canopy.role = 3)
    ∧ (∃ (s : State), s.canopy.listening = true ∧ cnpMayRun s = true ∧ 0 < cnpRank s)
    ∧ (∃ (s : State), s.canopy.role = 2 ∧ s.canopy.tripDue = [] ∧ s.canopy.ceilDue = [] ∧ s.canopy.turnKnown = true
      ∧ s.canopy.missed < 4)
    ∧ (∃ (s : State), mayAllocate s = true)
    ∧ (∃ (s : State), s.canopy.ceilTurns = 0) :=
  ⟨⟨CanopyTurns.w2, by decide +kernel, by decide +kernel, by decide +kernel, by decide +kernel⟩,
   ⟨CanopyTurns.w4, by decide +kernel, by decide +kernel⟩,
   ⟨CanopyTurns.w4, by decide +kernel, by decide +kernel⟩,
   ⟨CanopyTurns.w13, by decide +kernel, by decide +kernel, by decide +kernel⟩,
   ⟨CanopyTurns.w10, by decide +kernel, by decide +kernel, by decide +kernel, by decide +kernel, by decide +kernel⟩,
   ⟨CanopySite.w4, by decide +kernel⟩,
   ⟨CanopyTurns.w1, by decide +kernel⟩⟩

/-- Hypotheses of SamplingToUpdateCommandsComplete, part 9: states and operands that meet them together. -/
theorem test_SamplingToUpdateCommandsComplete_hypotheses9 :
    (∃ (s : State), 16777215 ≤ s.canopy.msgCount)
    ∧ (∃ (s : State) (st : ℕ), s.canopy.role = 3 ∧ st ≠ ownStation s)
    ∧ (∃ (s : State) (dst : ℕ) (cls : ℕ) (data : List Byte), dst ≤ 63 ∧ cls ≤ 1 ∧ data ≠ [] ∧ data.length ≤ 1500 ∧
      joinedSite s = true)
    ∧ (∃ (s : State) (f : CnpRx) (body : List Byte), Delivers 0 f body s ∧ s.canopy.role = 2 ∧ (beaconOf
      body).timeKnown = false ∧ (beaconOf body).memberMap.getLsbD (ownStation s) = true)
    ∧ (∃ (s : State) (f : CnpRx) (body : List Byte), Delivers 6 f body s ∧ s.canopy.role = 3 ∧ fcSrc f ≤ 63 ∧ ∀ e ∈
      s.canopy.members, e.station ≠ fcSrc f)
    ∧ (∃ (s : State) (f : CnpRx) (body : List Byte), Delivers 1 f body s ∧ joinedSite s = true)
    ∧ (∃ (s : State) (f : CnpRx) (m : TxMsg) (mask : BitVec 64), hears s 2 f = true ∧ frameReason s f = none ∧ txTo
      s (fcSrc f) = some m ∧ failedOf m mask = []) :=
  ⟨⟨CanopyMessages.w9, by decide +kernel⟩,
   ⟨CanopyTurns.w1, 40000, by decide +kernel, by decide +kernel⟩,
   ⟨CanopyMessages.w3, 5, 1, [1, 2, 3], by decide +kernel, by decide +kernel, by decide +kernel, by decide +kernel,
    by decide +kernel⟩,
   ⟨CanopyTurns.w5, sealedRx 1 0 255 0 (CanopyTurns.bcn 0 1 0 4), CanopyTurns.bcn 0 1 0 4, delivers_sealedBeacon _ _ _
    _ _ (by decide +kernel), by decide +kernel, by decide +kernel, by decide +kernel⟩,
   ⟨CanopySite.w5, sealedRx 9 6 255 0 ct3, _, delivers_sealed _ _ _ _ _ _ (by decide +kernel), by decide +kernel,
    by decide +kernel, fun e h => nomatch h⟩,
   ⟨CanopyMessages.w11, sealedRx 1 1 2 1 ct3, _, delivers_sealed _ _ _ _ _ _ (by decide +kernel), by decide +kernel⟩,
   ⟨CanopyMessages.w8, { fc := [2, 1, 2, 0, 0, 1, 5, 0, 68, 51, 34, 17, 3, 0, 23, 202], counter := 0x0000000000000005,
                         blocks := [[0, 0, 17, 128, 65, 60, 239, 139, 26, 75, 169, 192, 94, 21, 249, 54, 125, 105, 9, 66, 69, 0, 0, 0, 0, 0, 0, 0, 0, 0, 0, 0, 0, 0, 0, 0, 0, 0, 0, 0, 0, 0, 0, 0, 0, 0, 0, 0, 0, 0, 0, 0, 0, 0, 0, 0, 0, 0, 0, 0, 0, 0, 0, 0, 0, 0, 0, 0, 0, 0, 0, 0, 0, 0, 0, 0, 0, 0, 0, 0, 0, 0, 0, 0, 0, 0, 0, 0, 0, 0, 0, 0, 0, 0, 0, 0, 0, 0, 0, 0, 0, 0, 0, 0, 0, 0, 0, 0, 0, 0, 0, 0, 0, 0, 0, 0, 0, 0, 0, 0, 0, 0, 0, 0, 0, 0, 0, 0, 0, 0, 0, 0, 0, 0, 0, 0, 0, 0, 0, 0, 0, 0, 0, 0, 0, 0, 0, 0, 0, 0, 0, 0, 0, 0, 0, 0, 0, 0, 0, 0, 0, 0, 0, 0, 0, 0, 0, 0, 0, 0, 0, 0, 0, 0, 0, 0, 0, 0, 0, 0, 0, 0, 0, 0, 0, 0, 0, 0, 0, 0, 0, 0, 0, 0, 0, 0, 0, 0, 0, 0, 0, 0, 0, 0, 0, 0, 0, 0, 0, 0, 0, 0, 0, 0, 0, 0, 0, 0, 0, 0, 0, 0, 0, 0, 0, 0, 0, 0, 0, 0, 0, 0, 0, 0, 0, 0, 0, 0, 0, 0, 0, 0, 0, 0, 0, 0, 0, 0, 0, 0, 0, 0, 0, 0, 0, 0, 0, 0, 0, 0, 0, 0, 0, 0, 0, 0, 0, 0, 0, 0, 0, 0, 0, 0, 0, 0, 0, 0, 0, 0, 0, 0, 0, 0, 0, 0, 0, 0, 0, 0, 0, 0, 0, 0, 0, 0, 0, 0, 0, 0, 0, 0, 0, 0, 0, 0, 0, 0, 0, 0, 0, 0, 0, 0, 0, 0, 0, 0, 0, 0, 0, 0, 0, 0, 0, 0, 0, 0, 0, 0, 0, 0, 0, 0, 0, 0, 0, 0, 0, 0, 0, 0, 0, 0, 0, 0, 0, 0, 0, 0, 0, 0, 0, 0, 0, 0, 0, 0, 0, 0, 0, 0, 0, 0, 0, 0, 0, 0, 0, 0, 0, 0, 0, 0, 0, 0, 0, 0, 0, 0, 0, 0, 0, 0, 0, 0, 0, 0, 0, 0, 0, 0, 0, 0, 0, 0, 0, 0, 0, 0, 0, 0, 0, 0, 0, 0, 0, 0, 0, 0, 0, 0, 0, 0, 0, 0, 0, 0, 0, 0, 0, 0, 0, 0, 0, 0, 0, 0, 0, 0, 0, 0, 0, 0, 0, 0, 0, 0, 0, 0, 0, 0, 0, 0, 0, 0, 0, 0, 0, 0, 0, 0, 0, 0, 0, 0, 0, 0, 0, 0, 0, 0, 0, 0, 0, 0, 0, 0, 0, 0, 0, 0, 0, 0, 0, 0, 0, 0, 0, 0, 0, 0, 0, 0, 0, 0, 0, 0, 0, 0, 0, 0, 0, 0, 0, 0, 0, 0, 0, 0, 0, 0, 0, 0, 0, 0, 0, 0, 0, 0, 0, 0, 0, 0, 0, 0, 218, 4, 250, 89]],
                         capacity := 200 }, { dst := 1, cls := 0, typ := 1, blocks := [{ seq := 0, attempts := 8,
                                                                                         bytes := [1] }, { seq := 1,
                                                                                                           attempts := 1,
                                                                                                           bytes := [2] }],
                                              tag := some 7 }, 0x0000000000000003, by decide +kernel,
    by decide +kernel, by decide +kernel, by decide +kernel⟩⟩

/-- Hypotheses of SamplingToUpdateCommandsComplete, part 10: states and operands that meet them together. -/
theorem test_SamplingToUpdateCommandsComplete_hypotheses10 :
    (∃ (s : State) (f : CnpRx) (body : List Byte), Delivers 7 f body s)
    ∧ (∃ (s : State) (f : CnpRx) (body : List Byte), Delivers 3 f body s ∧ s.canopy.role = 3)
    ∧ (∃ (s : State) (f : CnpRx) (body : List Byte), joinedSite s = true ∧ Delivers 4 f body s)
    ∧ (∃ (s : State) (f : CnpRx) (body : List Byte), Delivers 5 f body s) :=
  ⟨⟨CanopyMessages.w1, sealedRx 1 7 255 0 ct3, _, delivers_sealed _ _ _ _ _ _ (by decide +kernel)⟩,
   ⟨CanopySite.w3, sealedRx 1 3 255 1 ct3, _, delivers_sealed _ _ _ _ _ _ (by decide +kernel), by decide +kernel⟩,
   ⟨CanopySite.w8, sealedRx 9 4 255 2 ct3, _, by decide +kernel, delivers_sealed _ _ _ _ _ _ (by decide +kernel)⟩,
   ⟨CanopySite.w2, sealedRx 1 5 255 3 ct3, _, delivers_sealed _ _ _ _ _ _ (by decide +kernel)⟩⟩

/-- Hypotheses of SamplingToUpdateCommandsComplete, part 11: states and operands that meet them together. -/
theorem test_SamplingToUpdateCommandsComplete_hypotheses11 :
    (∃ (s : State) (l : ℕ), s.tag.field = false ∧ 15 ≤ l)
    ∧ (∃ (s : State), s.tag.field = true)
    ∧ (∃ (s : State), s.tag.field = true)
    ∧ (∃ (s : State) (n : ℕ), tagAnswers s = true ∧ s.tag.selected = none ∧ s.tag.halted = false ∧ s.tag.drawn =
      some n)
    ∧ (∃ (s : State) (cid : ℕ), tagAnswers s = true ∧ s.tag.selected = none ∧ s.tag.halted = false ∧ cid ≤ 14)
    ∧ (∃ (s : State) (first : ℕ) (count : ℕ), tagAnswers s = true ∧ s.tag.selected.isSome = true ∧ 1 ≤ count ∧ count
      ≤ 4 ∧ first + count ≤ 256 ∧ ∀ i < count, pageRefused (first + i) = false ∧ pageHasCrc (first + i) =
      false)
    ∧ (∃ (s : State) (page : ℕ) (off : ℕ) (data : List Byte), tagAnswers s = true ∧ s.tag.selected.isSome = true ∧
      off + data.length ≤ 64 ∧ data ≠ [] ∧ 64 ≤ page ∧ page ≤ 71 ∧ pageWriteEn s = true ∧ 25 ≤ s.tag.level) :=
  ⟨⟨TagRadio.w9, 15, by decide +kernel, by decide +kernel⟩,
   ⟨TagRadio.w7, by decide +kernel⟩,
   ⟨TagRadio.w4, by decide +kernel⟩,
   ⟨TagRadio.w5, 5, by decide +kernel, by decide +kernel, by decide +kernel, by decide +kernel⟩,
   ⟨TagRadio.w8, 2, by decide +kernel, by decide +kernel, by decide +kernel, by decide +kernel⟩,
   ⟨TagCommands.w6, 64, 4, by decide +kernel, by decide +kernel, by decide +kernel, by decide +kernel,
    by decide +kernel, by decide +kernel⟩,
   ⟨TagCommands.w7, 71, 63, [9], by decide +kernel, by decide +kernel, by decide +kernel, by decide +kernel,
    by decide +kernel, by decide +kernel, by decide +kernel, by decide +kernel⟩⟩

/-- Hypotheses of SamplingToUpdateCommandsComplete, part 12: states and operands that meet them together. -/
theorem test_SamplingToUpdateCommandsComplete_hypotheses12 :
    (∃ (s : State), s.tag.owner = 0)
    ∧ (∃ (s : State) (a : ℕ), s.tag.marked = [a] ∧ a < 64 * 240)
    ∧ (∃ (s : State), bitOf s.tagCfg 27 = true ∧ heartwoodRuns s = true) :=
  ⟨⟨TagRadio.w8, by decide +kernel⟩,
   ⟨TagCommands.w0, 5, by decide +kernel, by decide +kernel⟩,
   ⟨TagRadio.w0, by decide +kernel, by decide +kernel⟩⟩

/-- Hypotheses of SamplingToUpdateCommandsComplete, part 13: states and operands that meet them together. -/
theorem test_SamplingToUpdateCommandsComplete_hypotheses13 :
    (∃ (s : State), s.crypto.drbgOk = true)
    ∧ (∃ (s : State) (target : ℕ) (nonce : List Byte) (tag : List Byte), lifeResult s target nonce tag = 0)
    ∧ (∃ (s : State) (l : ℕ), s.key.target = some l ∧ l < 3 ∧ s.upd.stage = none ∧ s.upd.staged = 0 ∧ s.upd.state ≠
      4)
    ∧ (∃ (s : State) (slot : Fin 4) (nonce : List Byte) (enc : List Byte) (tag : List Byte), slotInstallable s
      slot.val = true ∧ s.rootOf slot.val = none ∧ (unwrapRoot s (slot.val) nonce enc tag).isSome = true)
    ∧ (∃ (s : State), CanAnswer s)
    ∧ (∃ (s : State), s.bak.tamperCfg.getLsbD 0 = true)
    ∧ (∃ (s : State), s.bak.loopA = 0) :=
  ⟨⟨KeyCommands.w5, by decide +kernel⟩,
   ⟨KeyCommands.w4, 2, [5, 5, 5, 5, 5, 5, 5, 5, 5, 5, 5, 5, 5, 5, 5, 5], [146, 12, 113, 105, 44, 96, 125, 203, 224,
    25, 46, 115, 237, 137, 61, 75, 240, 206, 55, 237, 179, 74, 190, 224, 18, 84, 251, 24, 219, 106, 63, 196],
    by decide +kernel⟩,
   ⟨KeyCommands.w0, 1, by decide +kernel, by decide +kernel, by decide +kernel, by decide +kernel, by decide +kernel⟩,
   ⟨KeyCommands.w5, 1, [5, 5, 5, 5, 5, 5, 5, 5, 5, 5, 5, 5], [68, 236, 210, 97, 185, 149, 65, 131, 22, 162, 83, 67,
    42, 162, 249, 222, 142, 212, 180, 243, 93, 228, 249, 42, 255, 154, 247, 119, 77, 151, 2, 238], [68, 65, 248, 89,
    176, 230, 190, 121, 29, 218, 47, 102, 183, 249, 230, 137], by decide +kernel, by decide +kernel,
    by decide +kernel⟩,
   ⟨KeyCommands.w4, canAnswer_of _ (by decide +kernel)⟩,
   ⟨KeyCommands.w0, by decide +kernel⟩,
   ⟨KeyCommands.w2, by decide +kernel⟩⟩

/-- Hypotheses of SamplingToUpdateCommandsComplete, part 14: states and operands that meet them together. -/
theorem test_SamplingToUpdateCommandsComplete_hypotheses14 :
    (∃ (s : State), s.crypto.drbgFail = true)
    ∧ (∃ (s : State), s.crypto.drbgFail = false) :=
  ⟨⟨TamperAndRandom.w12, by decide +kernel⟩,
   ⟨KeyCommands.w0, by decide +kernel⟩⟩

/-- Hypotheses of SamplingToUpdateCommandsComplete, part 15: states and operands that meet them together. -/
theorem test_SamplingToUpdateCommandsComplete_hypotheses15 :
    (∃ (s : State), bitOf s.memScrubCfg 31 = true ∧ s.trunk.capNow ≠ 0 ∧ s.mem.scrubRow < 98303)
    ∧ (∃ (s : State), bitOf s.memScrubCfg 31 = true)
    ∧ (∃ (s : State) (p : Fin 14) (g : Bool), acceptsSlice p g s = true ∧ s.mem.slices[p] + 1 < slicesOf p)
    ∧ (∃ (s : State), bitOf s.memTestCfg 30 = true ∧ s.trunk.capNow ≠ 0 ∧ s.mem.marchRow + 1 < allRows ∧ badWords s
      (rowBase s.mem.marchRow) = [])
    ∧ (∃ (s : State) (e : BitVec 32) (rest : List (BitVec 32)), s.ready = true ∧ s.mem.softList = e :: rest)
    ∧ (∃ (s : State), ∃ m ≤ 220, weight (flipMask s) < 4 ∧ classify (flipMask s) ≠ 3 ∧ CanAnswer s)
    ∧ (∃ (s : State), s.lifecycle ≠ lcDeployed ∧ targetOk (injectTarget s) = true) :=
  ⟨⟨MemoryService.w5, by decide +kernel, by decide +kernel, by decide +kernel⟩,
   ⟨MemoryService.w16, by decide +kernel⟩,
   ⟨MemoryService.w2, 5, true, by decide +kernel, by decide +kernel⟩,
   ⟨MemoryService.w7, by decide +kernel, by decide +kernel, by decide +kernel, by decide +kernel⟩,
   ⟨MemoryService.w9, 5, [9], by decide +kernel, by decide +kernel⟩,
   ⟨MemoryService.w7, 10, by decide +kernel, by decide +kernel, by decide +kernel, canAnswer_of _ (by decide +kernel)⟩,
   ⟨MemoryService.w1, by decide +kernel, by decide +kernel⟩⟩

/-- Hypotheses of SamplingToUpdateCommandsComplete, part 16: states and operands that meet them together. -/
theorem test_SamplingToUpdateCommandsComplete_hypotheses16 :
    (∃ (s : State) (r : LogRec) (rest : List LogRec), s.log.logOn = true ∧ s.log.queue = r :: rest ∧ s.log.lostDue
      = 0)
    ∧ (∃ (s : State), s.log.logOn = true ∧ MemOk s)
    ∧ (∃ (s : State) (c : ℕ), s.log.fatalCause = some c ∧ s.log.fatalHold = false ∧ s.log.dumped = true ∧
      restartsAfterDump c = true ∧ recentRestarts s < fld s.logCfg 15 12)
    ∧ (∃ (s : State) (k : Fin 2), s.nv.flash.dumps[k].state = 3 ∧ s.log.fatalCause = none)
    ∧ (∃ (s : State) (ring : ℕ) (first : ℕ) (limit : ℕ) (p : LogRec) (ps : List LogRec), bulkHeld s = false ∧ ring ≤
      2 ∧ 1 ≤ limit ∧ limit ≤ 262144 ∧ readable s ring first = p :: ps ∧ recSize p.data.length ≤ limit)
    ∧ (∃ (s : State) (k : Fin 2), bulkHeld s = false ∧ s.nv.flash.dumps[k].state = 1 ∧ s.nv.flash.dumps[k].bytes ≠
      [])
    ∧ (∃ (s : State), s.lifecycle ≠ lcDeployed ∧ s.lifecycle ≠ lcScrapped) :=
  ⟨⟨RecorderAndRestarts.w2, { code := 265, bough := 255, flags := 0, opstamp := 0x0000000000000000, caltime := 4294967295,
                              seq := 0, data := [1, 2], valid := true, cleared := false }, [{ code := 1793, bough := 255,
                                                                                              flags := 0, opstamp := 0x0000000000000000,
                                                                                              caltime := 4294967295,
                                                                                              seq := 0, data := [1, 2, 3, 4, 5, 6, 7, 8],
                                                                                              valid := true, cleared := false }],
    by decide +kernel, by decide +kernel, by decide +kernel⟩,
   ⟨RecorderAndRestarts.w6, by decide +kernel, memOk_of _ (by decide +kernel)⟩,
   ⟨RecorderAndRestarts.w7, 2, by decide +kernel, by decide +kernel, by decide +kernel, by decide +kernel,
    by decide +kernel⟩,
   ⟨RecorderAndRestarts.w13, 0, by decide +kernel, by decide +kernel⟩,
   ⟨LogCommands.w2, 1, 4294967295, 40, { code := 265, bough := 255, flags := 0, opstamp := 0x0000000000000000, caltime := 4294967295,
                                         seq := 5, data := [1, 2], valid := true, cleared := false }, [{ code := 3073,
                                                                                                         bough := 255,
                                                                                                         flags := 0,
                                                                                                         opstamp := 0x0000000000000000,
                                                                                                         caltime := 4294967295,
                                                                                                         seq := 6,
                                                                                                         data := [1, 2],
                                                                                                         valid := true,
                                                                                                         cleared := false }],
    by decide +kernel, by decide +kernel, by decide +kernel, by decide +kernel, by decide +kernel, by decide +kernel⟩,
   ⟨RecorderAndRestarts.w13, 1, by decide +kernel, by decide +kernel, by decide +kernel⟩,
   ⟨RecorderAndRestarts.w14, by decide +kernel, by decide +kernel⟩⟩

/-- Hypotheses of SamplingToUpdateCommandsComplete, part 17: states and operands that meet them together. -/
theorem test_SamplingToUpdateCommandsComplete_hypotheses17 :
    (∃ (s : State), s.log.fatalCause = none ∧ s.nv.flash.dumps[0].state ≠ 0) :=
  ⟨RecorderAndRestarts.w14, by decide +kernel, by decide +kernel⟩

/-- Hypotheses of SamplingToUpdateCommandsComplete, part 18: states and operands that meet them together. -/
theorem test_SamplingToUpdateCommandsComplete_hypotheses18 :
    (∃ (s : State) (hd : List Byte), updBusy s = false ∧ hd.length = 128 ∧ s.upd.stage = none ∧ s.upd.staged = 0 ∧
      ∀ e ∈ hdrSteps s hd, e.2 = true)
    ∧ (∃ (s : State) (g : Staging) (n : ℕ) (v : Byte), updBusy s = false ∧ bulkHeld s = false ∧ s.upd.stage = some g
      ∧ g.op = [] ∧ g.ended = false ∧ g.received + 8 < hdrImgLen g.header ∧ 1 ≤ n ∧ n < 2 ^ 24 ∧
      g.built.length + n ≤ hdrTargetLen g.header ∧ bulkBytes s 0 8 = 3 :: leN 3 n ++ [v, 0, 0, 0])
    ∧ (∃ (s : State) (g : Staging), updBusy s = false ∧ s.upd.stage = some g ∧ targetGood s g = true)
    ∧ (∃ (s : State) (m : ℕ), s.upd.staged ≠ 0 ∧ s.upd.state ≠ 4 ∧ m ≤ 2 ∧ pairAccepted s = true)
    ∧ (∃ (s : State), s.upd.state = 3 ∧ conditionHolds s = true)
    ∧ (∃ (s : State), s.upd.state = 4 ∧ ∀ (b : Bough), heldOut s b = true)
    ∧ (∃ (s : State), s.upd.state = 4 ∧ s.log.fatalCause = none) :=
  ⟨⟨UpdateStaging.w2, [82, 85, 80, 68, 0, 8, 0, 0, 44, 1, 0, 0, 200, 0, 0, 0, 0, 0, 0, 0, 0, 0, 0, 0, 0, 0, 0, 0, 0,
    0, 0, 0, 0, 0, 0, 0, 0, 0, 0, 0, 0, 0, 0, 0, 0, 0, 0, 0, 0, 0, 0, 0, 75, 245, 18, 47, 52, 69, 84, 197, 59, 222,
    46, 187, 140, 210, 183, 227, 209, 96, 10, 214, 49, 195, 133, 165, 215, 204, 226, 60, 119, 133, 69, 154, 3, 0, 0,
    0, 0, 0, 0, 0, 0, 0, 0, 0, 19, 126, 247, 245, 249, 125, 186, 155, 145, 39, 249, 188, 120, 11, 255, 43, 167, 23,
    235, 178, 2, 12, 79, 29, 96, 91, 62, 14, 138, 210, 229, 44], by decide +kernel, by decide +kernel,
    by decide +kernel, by decide +kernel, by decide +kernel⟩,
   ⟨UpdateStaging.w9, { part := 0, header := [82, 85, 80, 68, 0, 8, 0, 0, 44, 1, 0, 0, 200, 0, 0, 0, 0, 0, 0, 0, 0, 0, 0, 0, 0, 0, 0, 0, 0, 0, 0, 0, 0, 0, 0, 0, 0, 0, 0, 0, 0, 0, 0, 0, 0, 0, 0, 0, 0, 0, 0, 0, 75, 245, 18, 47, 52, 69, 84, 197, 59, 222, 46, 187, 140, 210, 183, 227, 209, 96, 10, 214, 49, 195, 133, 165, 215, 204, 226, 60, 119, 133, 69, 154, 3, 0, 0, 0, 0, 0, 0, 0, 0, 0, 0, 0, 19, 126, 247, 245, 249, 125, 186, 155, 145, 39, 249, 188, 120, 11, 255, 43, 167, 23, 235, 178, 2, 12, 79, 29, 96, 91, 62, 14, 138, 210, 229, 44],
                        received := 128, op := [], built := [], ended := false }, 10, 7, by decide +kernel,
    by decide +kernel, by decide +kernel, by decide +kernel, by decide +kernel, by decide +kernel, by decide +kernel,
    by decide +kernel, by decide +kernel, by decide +kernel⟩,
   ⟨UpdateStaging.w7, { part := 0, header := [82, 85, 80, 68, 0, 8, 0, 0, 44, 1, 0, 0, 104, 0, 0, 0, 0, 0, 0, 0, 0, 0, 0, 0, 0, 0, 0, 0, 0, 0, 0, 0, 0, 0, 0, 0, 0, 0, 0, 0, 0, 0, 0, 0, 0, 0, 0, 0, 0, 0, 0, 0, 82, 250, 190, 100, 127, 73, 97, 79, 98, 82, 54, 9, 45, 199, 146, 41, 253, 233, 140, 21, 114, 253, 243, 69, 20, 59, 110, 191, 119, 66, 27, 122, 3, 0, 0, 0, 0, 0, 0, 0, 0, 0, 0, 0, 29, 113, 35, 169, 100, 80, 88, 55, 219, 192, 166, 232, 71, 161, 221, 188, 231, 181, 253, 128, 107, 163, 202, 255, 65, 242, 16, 115, 57, 180, 162, 215],
                        received := 300, op := [], built := [82, 78, 70, 49, 1, 0, 64, 0, 104, 0, 0, 0, 1, 0, 0, 1, 3, 0, 0, 0, 0, 0, 0, 0, 8, 0, 0, 0, 0, 0, 0, 0, 0, 0, 0, 0, 0, 0, 0, 0, 0, 0, 0, 0, 0, 0, 0, 0, 0, 0, 0, 0, 0, 0, 0, 0, 0, 0, 0, 0, 135, 134, 84, 94, 255, 31, 0, 0, 163, 132, 103, 92, 176, 244, 192, 6, 239, 22, 63, 39, 187, 24, 167, 70, 12, 213, 37, 141, 141, 245, 238, 108, 154, 199, 248, 12, 242, 174, 166, 64, 227, 56, 37, 230],
                        ended := true }, by decide +kernel, by decide +kernel, by decide +kernel⟩,
   ⟨UpdateActivation.w2, 2, by decide +kernel, by decide +kernel, by decide +kernel, by decide +kernel⟩,
   ⟨UpdateStaging.w3, by decide +kernel, by decide +kernel⟩,
   ⟨UpdateActivation.w5, by decide +kernel, by decide +kernel⟩,
   ⟨UpdateActivation.w5, by decide +kernel, by decide +kernel⟩⟩

/-- Hypotheses of SamplingToUpdateCommandsComplete, part 19: states and operands that meet them together. -/
theorem test_SamplingToUpdateCommandsComplete_hypotheses19 :
    (∃ (s : State), windowOpen s = true ∧ bitOf s.updCfg 31 = true) :=
  ⟨UpdateActivation.w11, by decide +kernel, by decide +kernel⟩


end Sys2Proof.Tests
end

section
/-! SUPPORT. What a frame over every part but one says of that part, and the interrupt sources under an event. -/

set_option Elab.async false

namespace Sys2Proof.Safety

open Sys2Proof.Machine

/-- The mask of every part but p. -/
def allBut (p : Part) : Nat := 2 ^ 64 - 1 - 2 ^ p.bit

/-- An operation whose frame leaves p out keeps p. -/
theorem Kept.same {p : Part} {s t : State} (h : Kept (allBut p) s t) : p.same s t :=
  h p (by cases p <;> decide)

theorem eqAdvance_irq (c : Nat) (s : State) : (eqAdvance c s).host.irq = s.host.irq := by
  unfold eqAdvance
  split <;> rfl

/-- A lost event raises source 8 and no other (R714). -/
theorem eqLose_irq (n : Nat) (s : State) : (eqLose n s).host.irq = s.host.irq ||| BitVec.ofNat 12 (1 <<< 8) := by
  unfold eqLose
  dsimp only
  split
  · rfl
  · split
    · rw [eqAdvance_irq, recordEvent_host]
      rfl
    · rw [recordEvent_host]
      rfl

/-- Placing an event drops no source that is latched. -/
theorem placeEvent_irq (c b g : Nat) (a : Bool) (d : List Byte) {s : State} {i : Nat} (h : s.host.irq.getLsbD i = true) :
    (placeEvent c b g a d s).host.irq.getLsbD i = true := by
  unfold placeEvent
  dsimp only
  split
  · rw [eqAdvance_irq]
    exact h
  · split
    · exact h
    · rw [eqLose_irq, eqAdvance_irq, BitVec.getLsbD_or, h, Bool.true_or]

/-- An event drops no source that is latched. -/
theorem emit_irq (c b : Nat) (d : List Byte) {s : State} {i : Nat} (h : s.host.irq.getLsbD i = true) :
    (emit c b d s).host.irq.getLsbD i = true := by
  unfold emit
  rw [← recordEvent_host c b 0 d s] at h
  generalize recordEvent c b 0 d s = u at h
  unfold postEvent
  split
  · exact h
  · rw [if_neg (by decide)]
    split
    · exact placeEvent_irq _ _ _ _ _ h
    · exact h

end Sys2Proof.Safety
end

section
/-! SUPPORT. The pace of the trunk (R32, R33), its crystals and its PLL (R47, R48). -/

set_option Elab.async false

namespace Sys2Proof.Safety

open Sys2Proof.Machine

/-! ## HST_PACE -/

/-- Of the first n + 1 segments the fold of slowestSeg names one with the lowest count. -/
theorem foldl_slowest (counts : List Nat) (n : Nat) :
    let g := (List.range (n + 1)).foldl (fun best i => if counts.getD i 0 < counts.getD best 0 then i else best) 0
    g ≤ n ∧ ∀ i ≤ n, counts.getD g 0 ≤ counts.getD i 0 := by
  induction n with
  | zero => simp
  | succ n ih =>
    rw [List.range_succ, List.foldl_append]
    generalize (List.range (n + 1)).foldl _ 0 = g at ih ⊢
    obtain ⟨hg, hmin⟩ := ih
    simp only [List.foldl_cons, List.foldl_nil]
    split
    · refine ⟨le_rfl, fun i hi => ?_⟩
      rcases Nat.le_succ_iff.mp hi with h | rfl
      · exact (Nat.le_of_lt ‹_›).trans (hmin i h)
      · exact le_rfl
    · refine ⟨by omega, fun i hi => ?_⟩
      rcases Nat.le_succ_iff.mp hi with h | rfl
      · exact hmin i h
      · exact Nat.le_of_not_lt ‹_›

theorem slowestSeg_lt (counts : List Nat) : slowestSeg counts < 23 := Nat.lt_succ_of_le (foldl_slowest counts 22).1

theorem slowestSeg_le (counts : List Nat) {i : Nat} (h : i < 23) :
    counts.getD (slowestSeg counts) 0 ≤ counts.getD i 0 := (foldl_slowest counts 22).2 i (Nat.le_of_lt_succ h)

/-- The count of the slowest of 23 segments is one of the counts. -/
theorem slowest_mem {counts : List Nat} (h : counts.length = 23) : counts.getD (slowestSeg counts) 0 ∈ counts := by
  have hg := slowestSeg_lt counts
  rw [List.getD_eq_getElem _ _ (by omega)]
  exact List.getElem_mem _

/-- No count lies below that of the slowest segment. -/
theorem slowest_le {counts : List Nat} (h : counts.length = 23) {c : Nat} (hc : c ∈ counts) :
    counts.getD (slowestSeg counts) 0 ≤ c := by
  obtain ⟨i, hi, rfl⟩ := List.mem_iff_getElem.mp hc
  have := slowestSeg_le counts (i := i) (by omega)
  rwa [List.getD_eq_getElem _ _ hi] at this

/-! ## The pace alarm -/

section
variable (g : Nat) (s : State)

@[simp] theorem paceAlarm_hstPace : (paceAlarm g s).trunk.hstPace = s.trunk.hstPace := by
  unfold paceAlarm
  dsimp only
  (repeat' split) <;> simp

variable {g s}

theorem paceAlarm_disabled (h : bitOf s.sysPaceAlarm 31 = false) :
    paceAlarm g s = { s with trunk.paceLow := false, trunk.paceOk := 0 } := by
  simp [paceAlarm, h]

/-- Below the level the alarm stands, and it raised source 5 if it did not stand before. -/
theorem paceAlarm_below (h : bitOf s.sysPaceAlarm 31 = true) (hp : s.trunk.hstPace < alarmLevel s) :
    (paceAlarm g s).trunk.paceLow = true
      ∧ (s.trunk.paceLow = false → (paceAlarm g s).host.irq.getLsbD 5 = true) := by
  cases hl : s.trunk.paceLow with
  | true => simp [paceAlarm, h, hp, hl]
  | false =>
    have e : paceAlarm g s = emit 0x0101 255 (leN 2 s.trunk.hstPace ++ leN 1 g)
        (raiseIrq 5 { s with trunk.paceLow := true, trunk.paceOk := 0 }) := by simp [paceAlarm, h, hp, hl]
    rw [e]
    refine ⟨by simp, fun _ => emit_irq _ _ _ ?_⟩
    show (s.host.irq ||| BitVec.ofNat 12 (1 <<< 5)).getLsbD 5 = true
    rw [BitVec.getLsbD_or, show (BitVec.ofNat 12 (1 <<< 5)).getLsbD 5 = true by decide, Bool.or_true]

/-- At or above the level the tenth value ends the alarm. -/
theorem paceAlarm_above (h : bitOf s.sysPaceAlarm 31 = true) (hp : alarmLevel s ≤ s.trunk.hstPace)
    (hl : s.trunk.paceLow = true) : (paceAlarm g s).trunk.paceLow = decide (s.trunk.paceOk < 9) := by
  unfold paceAlarm
  dsimp only
  rw [if_neg (by simp [h]), if_neg (by omega), if_pos hl]
  split
  · rw [eq_comm, decide_eq_false_iff_not]
    omega
  · rw [hl, eq_comm, decide_eq_true_eq]
    omega

end

/-- The state in which PACE_COUNT judges the pace alarm: HST_PACE and its extremes follow the counts (R32). -/
def withPace (counts : List Nat) (s : State) : State :=
  let g := slowestSeg counts
  let p := counts.getD g 0 / 1000
  { s with trunk.hstPace := p, trunk.paceMax := max s.trunk.paceMax p,
           trunk.minSeg := if p < s.trunk.paceMin then g else s.trunk.minSeg,
           trunk.paceMin := min s.trunk.paceMin p }

theorem exec_paceCount (counts : List Nat) {s : State} (hr : s.lat.running = true) (hp : s.lat.pllLost = false) :
    exec (.paceCount counts) s = .next (paceAlarm (slowestSeg counts) (withPace counts s)) :=
  if_neg (by simp [hr, hp])

/-- PACE_COUNT on a running lattice with its PLL locked. -/
theorem paceCount_completes (s : State) (counts : List Nat) (hc : counts.length = 23) (hr : s.lat.running = true)
    (hp : s.lat.pllLost = false) :
    Completes (.paceCount counts) s fun t =>
      (∀ c ∈ counts, t.trunk.hstPace ≤ c / 1000) ∧ (∃ c ∈ counts, t.trunk.hstPace = c / 1000)
        ∧ (bitOf s.sysPaceAlarm 31 = false → t.trunk.paceLow = false ∧ t.host.irq = s.host.irq)
        ∧ (bitOf s.sysPaceAlarm 31 = true → t.trunk.hstPace < alarmLevel s → t.trunk.paceLow = true
            ∧ (s.trunk.paceLow = false → t.host.irq.getLsbD 5 = true))
        ∧ (bitOf s.sysPaceAlarm 31 = true → alarmLevel s ≤ t.trunk.hstPace → s.trunk.paceLow = true →
            t.trunk.paceLow = decide (s.trunk.paceOk < 9)) := by
  refine ⟨_, exec_paceCount counts hr hp, ?_⟩
  beta_reduce
  rw [paceAlarm_hstPace]
  refine ⟨fun c h => Nat.div_le_div_right (slowest_le hc h), ⟨_, slowest_mem hc, rfl⟩, fun he => ?_, fun he hl => ?_,
    fun he hl => ?_⟩
  · rw [paceAlarm_disabled (s := withPace counts s) he]
    exact ⟨rfl, rfl⟩
  · exact paceAlarm_below (s := withPace counts s) he hl
  · exact paceAlarm_above (s := withPace counts s) he hl

/-! ## Crystals and PLL -/

/-- A second beyond 500 ppm: the third in a row enters crystal deviation (R47). -/
theorem crystalCheck_far (s : State) (count : Nat) (hr : s.lat.running = true) (hp : s.lat.pllLost = false)
    (hc : count < 24987500 ∨ 25012500 < count) :
    ∃ t, exec (.crystalCheck count) s = .next t ∧ t.lat.devOk = 0 ∧ t.lat.devRun = min 3 (s.lat.devRun + 1)
      ∧ t.lat.deviating = (s.lat.deviating || decide (2 ≤ s.lat.devRun)) := by
  have hd : 12500 < ((count : Int) - 25000000).natAbs := by omega
  show ∃ t, execCrystalCheck count s = .next t ∧ _
  simp only [execCrystalCheck, hr, hp, hd, if_true, Bool.not_true, Bool.or_false, Bool.false_eq_true, if_false]
  split
  · rename_i h
    have h2 : 2 ≤ s.lat.devRun := by omega
    exact ⟨_, rfl, by simp, by simp, by simp [h2]⟩
  · rename_i h
    have hv : s.lat.deviating = true ∨ ¬ 2 ≤ s.lat.devRun := by
      by_contra hc
      obtain ⟨hc1, hc2⟩ := not_or.mp hc
      exact h ⟨by omega, by simpa using hc1⟩
    refine ⟨_, rfl, rfl, rfl, ?_⟩
    rcases hv with hv | hv <;> simp [hv]

/-- A second within 500 ppm: the third in a row leaves crystal deviation (R47). -/
theorem crystalCheck_near (s : State) (count : Nat) (hr : s.lat.running = true) (hp : s.lat.pllLost = false)
    (h1 : 24987500 ≤ count) (h2 : count ≤ 25012500) :
    exec (.crystalCheck count) s = .next { s with
      lat.devRun := 0, lat.devOk := min 3 (s.lat.devOk + 1),
      lat.deviating := s.lat.deviating && decide (min 3 (s.lat.devOk + 1) < 3) } := by
  have hd : ¬ 12500 < ((count : Int) - 25000000).natAbs := by omega
  show execCrystalCheck count s = _
  simp only [execCrystalCheck, hr, hp, hd, Bool.not_true, Bool.or_false, Bool.false_eq_true, if_false]

theorem pllLockLoss_completes (s : State) (hr : s.lat.running = true) (hp : s.lat.pllLost = false)
    (h : CanReport 0x0105 4 s) :
    Completes .pllLockLoss s fun t => t.lat.pllLost = true ∧ t.lat.optime = s.lat.optime ∧ t.lat.smp = s.lat.smp
      ∧ lastEvent t = some (0x0105, 255, 0, [0xFF, 0xFF, 0, 0]) := by
  refine ⟨_, if_neg (by simp [hr, hp]), by simp, by simp, by simp, ?_⟩
  exact emit_last 0x0105 255 [0xFF, 0xFF, 0, 0] (h.of_eq rfl rfl rfl)

theorem pllRecovery_completes (s : State) (hp : s.lat.pllLost = true) (h : CanReport 0x0105 4 s) :
    Completes .pllRecovery s fun t => t.lat.pllLost = false ∧ t.lat.optime = s.lat.optime ∧ t.lat.smp = s.lat.smp
      ∧ lastEvent t = some (0x0105, 255, 0, [0xFE, 0xFF, 0, 0]) := by
  refine ⟨_, if_pos hp, by simp, by simp, by simp, ?_⟩
  exact emit_last 0x0105 255 [0xFE, 0xFF, 0, 0] (h.of_eq rfl rfl rfl)

end Sys2Proof.Safety
end

section
/-! SUPPORT. What is noted of corrected words in this second (R598) stands while sessions are held: the end of a session
writes words of the ledger and reads none. -/

set_option Elab.async false

namespace Sys2Proof.Safety

open Sys2Proof.Machine

/-- What is noted of corrected words is the same. -/
def NoteKept (s t : State) : Prop := t.mem.corrNoted = s.mem.corrNoted

theorem NoteKept.refl (s : State) : NoteKept s s := rfl

theorem NoteKept.trans {s t u : State} (h : NoteKept s t) (k : NoteKept t u) : NoteKept s u := Eq.trans k h

/-- An operation whose frame leaves the memory part out keeps the note. -/
theorem Kept.note {s t : State} (h : Kept (allBut .memory) s t) : NoteKept s t := congrArg Mem.corrNoted h.same

theorem NoteKept.foldl {α : Type} {s t : State} (l : List α) (f : State → α → State) (h : NoteKept s t)
    (hf : ∀ u x, NoteKept u (f u x)) : NoteKept s (l.foldl f t) := by
  induction l generalizing t with
  | nil => exact h
  | cons x l ih => exact ih (h.trans (hf t x))

theorem NoteKept.forMask (m : Nat) (f : Bough → State → State) (s : State) (hf : ∀ b u, NoteKept u (f b u)) :
    NoteKept s (forMask m f s) := by
  unfold Machine.forMask forBoughs
  refine .foldl _ _ (.refl s) fun u b => ?_
  beta_reduce
  split
  · exact hf b u
  · exact .refl u

section
variable (b : Bough) (s : State)

theorem writtenWord_note (a : Nat) : NoteKept s (writtenWord a s) := by
  unfold writtenWord putBad State.free
  dsimp only
  (repeat' split) <;> rfl

theorem sramWrite_note (a : Nat) (bs : List Byte) : NoteKept s (sramWrite a bs s) := by
  unfold sramWrite
  dsimp only
  exact .foldl _ _ rfl fun u w => writtenWord_note u w

theorem debitSession_note : NoteKept s (debitSession b s) := by
  unfold debitSession
  dsimp only
  split
  · rfl
  · exact .trans rfl (sramWrite_note _ _ _)

/-- The session's debit is the only write of closeSession to memory. -/
theorem closeSession_note : NoteKept s (closeSession b s) := by
  unfold closeSession
  dsimp only
  have h0 := lateReading_changes (w₀ := allBut .memory) (reportCost_changes (.refl _ s) b) b
  generalize lateReading b (reportCost b s) = l at h0 ⊢
  generalize hu : (if l.sesL[b].begun && !l.sesL[b].ended then _ else l) = u
  have h1 : Kept (allBut .memory) s u := by
    rw [← hu]
    split
    · exact onSesL_changes (onSes_changes (endReading_changes h0 b) _ _) _ _
    · exact h0
  refine (h1.note.trans (debitSession_note b u)).trans (Kept.note ?_)
  generalize debitSession b u = v
  have h2 := noteHistogram_changes (w₀ := allBut .memory) (.refl _ v) b
  generalize noteHistogram b v = x at h2 ⊢
  refine onSes_changes (discardIdents_changes ?_ _ _) _ _
  split
  · refine answer_changes ?_ _ _ _ _
    split
    · exact journalFor_changes h2 _ _
    · exact h2
  · refine emit_changes ?_ _ _ _
    split
    · exact journalFor_changes h2 _ _
    · exact h2

theorem finishSession_note : NoteKept s (finishSession b s) := by
  unfold finishSession
  exact ((goState_changes (.refl _ _) b _).note.trans (closeSession_note b _)).trans
    (leaveNetwork_changes (.refl _ _) b).note

theorem idleSession_note : NoteKept s (idleSession b s) := (idleSession_changes (.refl _ _) b).note

theorem endEarly_note (r : Nat) : NoteKept s (endEarly b r s) := by
  unfold endEarly
  exact ((onSes_changes (.refl _ _) b _).note.trans (closeSession_note b _)).trans (idleSession_note b _)

theorem stopDone_note : NoteKept s (stopDone b s) := by
  unfold stopDone
  dsimp only
  split
  · exact (finishSession_note b s).trans (idleSession_note b _)
  · exact finishSession_note b s

theorem enterStopping_note (r : Nat) : NoteKept s (enterStopping b r s) := by
  unfold enterStopping
  dsimp only
  generalize hu : goState b .stopping _ = u
  have h : NoteKept s u := by
    rw [← hu]
    exact (goState_changes (onSaf_changes (onSesL_changes (onSes_changes (.refl _ s) _ _) _ _) _ _) b _).note
  split
  · exact h.trans (stopDone_note b u)
  · exact h

theorem leaveSession_note (r : Nat) : NoteKept s (leaveSession b r s) := by
  unfold leaveSession
  split
  · rfl
  · split
    · rfl
    · exact idleSession_note b s
    · exact idleSession_note b s
    · rfl
    · exact endEarly_note b s r
    · exact endEarly_note b s r
    · exact endEarly_note b s r
    · split
      · exact enterStopping_note b s r
      · exact endEarly_note b s r

theorem holdSession_note (r : Nat) : NoteKept s (holdSession b r s) := by
  unfold holdSession
  exact (leaveSession_note b s _).trans (driveOutput_changes (.refl _ _) b).note

theorem holdWhenIdle_note : NoteKept s (holdWhenIdle b s) := by
  unfold holdWhenIdle
  dsimp only
  split
  · split
    · exact .trans rfl (holdSession_note b _ _)
    · exact .trans rfl (holdSession_note b _ _)
    · exact .trans rfl (holdSession_note b _ _)
    · rfl
  · rfl

theorem stopWork_note (t : Tick) (i : Fin 23) : NoteKept s (stopWork t i s) := by
  unfold stopWork
  split
  · exact .forMask _ _ s holdWhenIdle_note
  · exact .forMask _ _ s holdWhenIdle_note
  · exact (Kept.forBoughs _ (.refl _ _) fun b u hu => holdCoils_changes hu b).note
  · exact (auxEdge_changes (.refl _ _)).note
  · unfold endPortSlice
    split <;> rfl
  · exact (Kept.forMask _ _ (.refl _ _) fun b u hu => secondBough_changes hu b).note
  · exact (Kept.forMask _ _ (.refl _ _) fun b u hu => secondBough_changes hu b).note
  · rfl

end

end Sys2Proof.Safety
end

section
/-! SUPPORT. What a tick of the lattice does to the trunk and to the lattice itself (R45, R49). -/

set_option Elab.async false

namespace Sys2Proof.Safety

open Sys2Proof.Machine

/-! ## A tick at one stop -/

/-- The trunk after a tick at stop i: a stop that still works counts an overrun and holds one tick at most; one that has
finished holds none (R49). -/
def tickedTrunk (t : Tick) (busy : Bool) (i : Fin 23) (k : Trunk) : Trunk :=
  if busy then
    { k with overrun := k.overrun.set i (k.overrun[i] + 1),
             heldTick := k.heldTick.set i (some (k.heldTick[i].getD t)) }
  else { k with heldTick := k.heldTick.set i none }

theorem countOverrun_trunk (i : Fin 23) (s : State) :
    (countOverrun i s).trunk = { s.trunk with overrun := s.trunk.overrun.set i (s.trunk.overrun[i] + 1) } := by
  unfold countOverrun
  dsimp only
  split <;> simp

theorem stopWork_trunk (t : Tick) (i : Fin 23) (s : State) : (stopWork t i s).trunk = s.trunk :=
  (stopWork_changes (w₀ := allBut .trunk) (.refl _ _) t i).same

theorem stopTick_trunk (t : Tick) (busy : BitVec 23) (i : Fin 23) (s : State) :
    (stopTick t busy i s).trunk = tickedTrunk t (busy.getLsbD i.val) i s.trunk := by
  unfold stopTick tickedTrunk
  split
  · cases h : s.trunk.heldTick[i] with
    | none =>
      rw [if_neg (by simp), countOverrun_trunk]
      rfl
    | some k =>
      have e : s.trunk.heldTick.set i (some k) = s.trunk.heldTick := by
        rw [← h]
        exact Vector.set_getElem_self _
      rw [if_pos (by simp), countOverrun_trunk, Option.getD_some, e]
  · dsimp only
    rw [stopWork_trunk]
    cases h : s.trunk.heldTick[i] with
    | none => simp [← h]
    | some k => exact stopWork_trunk _ _ _

/-! ## A tick at every stop -/

/-- The tick at the 23 stops in turn. -/
def tickStops (t : Tick) (busy : BitVec 23) (s : State) : State :=
  (List.finRange 23).foldl (fun u i => stopTick t busy i u) s

theorem exec_latticeTick (t : Tick) (busy : BitVec 23) {s : State} (hr : s.lat.running = true)
    (hp : s.lat.pllLost = false) : exec (.latticeTick t busy) s = .next (tickStops t busy (latticeWork t s)) :=
  if_neg (by simp [hr, hp])

section
variable (t : Tick) (busy : BitVec 23) (s : State)

theorem tickStops_lat : (tickStops t busy s).lat = s.lat :=
  (Kept.foldl (w := allBut .lattice) _ _ (.refl _ s) fun _ i h => stopTick_changes h t busy i).same

theorem tickStops_bak : (tickStops t busy s).bak = s.bak :=
  (Kept.foldl (w := allBut .backup) _ _ (.refl _ s) fun _ i h => stopTick_changes h t busy i).same

theorem stopTick_note (i : Fin 23) : NoteKept s (stopTick t busy i s) := by
  unfold stopTick
  split
  · split
    · exact (countOverrun_changes (.refl _ s) i).note
    · refine .trans ?_ (countOverrun_changes (.refl _ _) i).note
      rfl
  · dsimp only
    refine .trans ?_ (stopWork_note _ t i)
    split
    · refine .trans ?_ (stopWork_note _ _ i)
      rfl
    · exact .refl s

theorem tickStops_note : NoteKept s (tickStops t busy s) := .foldl _ _ (.refl s) fun u i => stopTick_note t busy u i

theorem tickStops_trunk : (tickStops t busy s).trunk
    = (List.finRange 23).foldl (fun k i => tickedTrunk t (busy.getLsbD i.val) i k) s.trunk :=
  (List.foldl_hom State.trunk fun u i => (stopTick_trunk t busy i u).symm).symm

theorem tickStops_capNow : (tickStops t busy s).trunk.capNow = s.trunk.capNow := by
  rw [tickStops_trunk]
  refine List.foldlRecOn (motive := fun k : Trunk => k.capNow = s.trunk.capNow) _ _ rfl fun k h i _ => ?_
  rw [← h]
  unfold tickedTrunk
  split <;> rfl

end

/-- The ticks at other stops leave a stop's overruns and held tick alone. -/
theorem foldl_tickedTrunk_other (t : Tick) (busy : BitVec 23) (g : Fin 23) (l : List (Fin 23)) (hg : g ∉ l) (k : Trunk) :
    let k' := l.foldl (fun k i => tickedTrunk t (busy.getLsbD i.val) i k) k
    k'.overrun[g] = k.overrun[g] ∧ k'.heldTick[g] = k.heldTick[g] := by
  induction l generalizing k with
  | nil => exact ⟨rfl, rfl⟩
  | cons i l ih =>
    obtain ⟨hi, hl⟩ := not_or.mp fun h => hg (List.mem_cons.mpr h)
    have hv : i.val ≠ g.val := fun e => hi (Fin.ext e.symm)
    obtain ⟨h1, h2⟩ := ih hl (tickedTrunk t (busy.getLsbD i.val) i k)
    refine ⟨h1.trans ?_, h2.trans ?_⟩ <;>
    · unfold tickedTrunk
      split <;> simp [Vector.getElem_set_ne, hv]

/-- Each stop counts its own overrun and holds its own tick. -/
theorem tickStops_stop (t : Tick) (busy : BitVec 23) (s : State) (g : Fin 23) :
    (tickStops t busy s).trunk.overrun[g] = s.trunk.overrun[g] + b2n (busy.getLsbD g.val)
      ∧ (tickStops t busy s).trunk.heldTick[g].isSome = busy.getLsbD g.val := by
  obtain ⟨l₁, l₂, hl⟩ := List.append_of_mem (List.mem_finRange g)
  have hd := List.nodup_finRange 23
  rw [hl, List.nodup_append, List.nodup_cons] at hd
  obtain ⟨-, ⟨h₂, -⟩, h₁⟩ := hd
  rw [tickStops_trunk, hl, List.foldl_append, List.foldl_cons]
  obtain ⟨a1, -⟩ := foldl_tickedTrunk_other t busy g l₁ (fun h => h₁ g h g List.mem_cons_self rfl) s.trunk
  generalize l₁.foldl _ s.trunk = k at a1 ⊢
  obtain ⟨b1, b2⟩ := foldl_tickedTrunk_other t busy g l₂ h₂ (tickedTrunk t (busy.getLsbD g.val) g k)
  rw [b1, b2, ← a1]
  unfold tickedTrunk
  cases busy.getLsbD g.val <;> simp [b2n]

/-! ## What a tick does besides -/

theorem latticeWork_microsecond_kept (s : State) :
    Kept (parts [.ports, .loads]) { s with lat.us := s.lat.us + 1, lat.usInMs := s.lat.usInMs + 1 }
      (latticeWork .microsecond s) := by
  unfold latticeWork
  refine auxEdges_changes (.forBoughs _ (.refl _ _) fun b u hu => ?_)
  split
  · exact pilotEdge_changes hu b
  · exact hu

theorem latticeWork_millisecond_kept (s : State) :
    Kept (parts [.ports, .loads]) { s with lat.ms := s.lat.ms + 1, lat.usInMs := 0 } (latticeWork .millisecond s) := by
  unfold latticeWork
  exact auxEdges_changes (pilotEdge_changes (.refl _ _) 0)

/-! ## The five ticks -/

section
variable (s : State) (busy : BitVec 23) (hr : s.lat.running = true) (hp : s.lat.pllLost = false)
include hr hp

theorem microsecondTick_completes : Completes (.latticeTick .microsecond busy) s fun t =>
    t.lat = { s.lat with us := s.lat.us + 1, usInMs := s.lat.usInMs + 1 }
    ∧ ∀ g : Fin 23, t.trunk.overrun[g] = s.trunk.overrun[g] + b2n (busy.getLsbD g.val)
      ∧ t.trunk.heldTick[g].isSome = busy.getLsbD g.val := by
  refine ⟨_, exec_latticeTick _ busy hr hp, ?_, fun g => ?_⟩
  · exact (tickStops_lat _ busy _).trans (latticeWork_microsecond_kept s .lattice (by decide))
  · have h : (latticeWork .microsecond s).trunk = s.trunk := latticeWork_microsecond_kept s .trunk (by decide)
    rw [← h]
    exact tickStops_stop _ busy _ g

theorem sampleTick_completes : Completes (.latticeTick .sample busy) s fun t =>
    t.lat = { s.lat with smp := (s.lat.smp + 1) % 2 ^ 24 } ∧ t.trunk.capNow = fld s.sysBgCap 5 0 :=
  ⟨_, exec_latticeTick _ busy hr hp, tickStops_lat _ busy _, tickStops_capNow _ busy _⟩

theorem millisecondTick_completes : Completes (.latticeTick .millisecond busy) s fun t =>
    t.lat = { s.lat with ms := s.lat.ms + 1, usInMs := 0 } :=
  ⟨_, exec_latticeTick _ busy hr hp,
    (tickStops_lat _ busy _).trans (latticeWork_millisecond_kept s .lattice (by decide))⟩

theorem operatingTick_completes (ho : s.lat.stampOn = true) (hl : s.lat.optime < 2 ^ 40 - 1) :
    Completes (.latticeTick .operating busy) s fun t =>
      t.lat.optime = s.lat.optime + 1 ∧ t.lat.opTicks = s.lat.opTicks + 1 ∧ t.bak = s.bak := by
  refine ⟨_, exec_latticeTick _ busy hr hp, ?_, ?_, tickStops_bak _ busy _⟩
  · rw [tickStops_lat]
    simp only [latticeWork, ho, if_true]
    omega
  · rw [tickStops_lat]
    rfl

theorem secondTick_completes : Completes (.latticeTick .second busy) s fun t =>
    t.lat = { s.lat with sec := s.lat.sec + 1 }
      ∧ (∀ g : Fin 23, t.trunk.overrun[g] = b2n (busy.getLsbD g.val)) ∧ t.mem.corrNoted = [] := by
  refine ⟨_, exec_latticeTick _ busy hr hp, tickStops_lat _ busy _, fun g => ?_, tickStops_note _ busy _⟩
  rw [(tickStops_stop _ busy _ g).1]
  simp [latticeWork]

end

/-- Settles O13: the pace alarm and the crystals by their cases, the ticks by the 23 stops, of which each counts its own
overrun and none touches the lattice. -/
theorem latticeAndPace : Obligations.LatticeAndPace := by
  refine ⟨⟨fun s count hr hp => ⟨fun hc h2 => ?_, fun h1 h2 h3 => ?_, fun hc h2 => ?_⟩, pllLockLoss_completes,
    pllRecovery_completes⟩, fun s busy hr => ⟨fun hp => ?_, fun hp k => ?_⟩, paceCount_completes⟩
  · obtain ⟨t, ht, hok, -, hdev⟩ := crystalCheck_far s count hr hp hc
    exact ⟨t, ht, by simp [hdev, h2], hok⟩
  · refine ⟨_, crystalCheck_near s count hr hp h1 h2, ?_, rfl, rfl⟩
    simp [h3]
  · obtain ⟨t, ht, -, hrun, hdev⟩ := crystalCheck_far s count hr hp hc
    exact ⟨t, ht, by simp [hdev, h2], by omega⟩
  · exact ⟨microsecondTick_completes s busy hr hp, sampleTick_completes s busy hr hp, millisecondTick_completes s busy hr hp,
      operatingTick_completes s busy hr hp, secondTick_completes s busy hr hp⟩
  · exact if_pos (by simp [hp])

end Sys2Proof.Safety
end

section
/-! SUPPORT. Calendar time at the end of its range, and the backup domain (R20, R46, R83, R85). -/

set_option Elab.async false

namespace Sys2Proof.Safety

open Sys2Proof.Machine

theorem applyOffset_caltime (s : State) : (applyOffset s).bak.caltime = s.bak.caltime := by
  unfold applyOffset
  split <;> rfl

theorem evalRate_bak (s : State) : (evalRate s).bak = s.bak := (evalRate_changes (w₀ := allBut .backup) (.refl _ _)).same

/-- Past the end of its range calendar time is not known, whether the heartwood runs or not (R20). -/
theorem rangeEnd_caltime (s : State) : (rangeEnd s).bak.caltime = 0xFFFFFFFF := by
  unfold rangeEnd
  dsimp only
  split
  · rw [evalRate_bak, applyOffset_caltime, emit_bak]
  · rfl

section
variable (s : State)

/-- The state in which CALENDAR_SECOND counts: the crystal runs (R584). -/
def oscRuns (s : State) : State := { s with bak.oscOk := true }

theorem calendarSecond_known (h : s.bak.caltime.toNat < 0xFFFFFFFE) :
    exec .calendarSecond s = .next { oscRuns s with bak.caltime := s.bak.caltime + 1 } := by
  have h1 : s.bak.caltime ≠ 0xFFFFFFFF := fun e => by simp [e] at h
  have h2 : s.bak.caltime ≠ 0xFFFFFFFE := fun e => by simp [e] at h
  exact (if_neg h1).trans (if_neg h2)

theorem calendarSecond_last (h : s.bak.caltime = 0xFFFFFFFE) : exec .calendarSecond s = .next (rangeEnd (oscRuns s)) :=
  (if_neg (by simp [h])).trans (if_pos h)

theorem calendarSecond_unknown (h : s.bak.caltime = 0xFFFFFFFF) : exec .calendarSecond s = .next (oscRuns s) :=
  if_pos h

theorem calendarRangeEnd_last (h : s.bak.caltime = 0xFFFFFFFE) : exec .calendarRangeEnd s = .next (rangeEnd s) :=
  if_pos h

end

/-- Settles O15: the seconds by the three cases of calendar time, where only rangeEnd runs other operations. -/
theorem calendarAndBackupDomain : Obligations.CalendarAndBackupDomain := by
  refine ⟨fun s => ⟨fun h => ?_, fun h => ?_, fun h => ?_, fun h => ?_⟩, fun s v => ?_, fun s h => ?_⟩
  · refine ⟨_, calendarSecond_known s h, ?_, rfl⟩
    rw [BitVec.toNat_add]
    exact Nat.mod_eq_of_lt (by simp; omega)
  · exact ⟨_, calendarSecond_last s h, rangeEnd_caltime _⟩
  · exact ⟨_, calendarSecond_unknown s h, h⟩
  · exact ⟨_, calendarRangeEnd_last s h, rangeEnd_caltime _⟩
  · refine ⟨_, rfl, rfl, ?_⟩
    cases v <;> cases h : s.bak.onVbak <;> simp [b2n]
  · exact ⟨_, if_pos h, rfl, rfl, rfl, rfl⟩

end Sys2Proof.Safety
end

section
/-! SUPPORT. Why SES_CREDIT with new flags may leave no answer: an overflowing power request takes the place of an earlier
one (R714), which in a state with shorter messages makes the queue longer than it can hold. -/

set_option Elab.async false

namespace Sys2Proof.Safety

open Sys2Proof.Machine

/-! ## A full queue -/

/-- Event 0x0003 finds no room either. -/
theorem eqLose_full {s : State} (h : 57344 < eqUsed s) (n : Nat) : (eqLose n s).host.eq = s.host.eq := by
  unfold eqLose
  dsimp only
  split
  · rfl
  · generalize hu : recordEvent _ _ _ _ _ = u
    have hq : u.host.eq = s.host.eq := by rw [← hu, recordEvent_host]; rfl
    have hn : ¬ eqUsed u + 8 + (leN 4 1 ++ leN 1 n).length ≤ eqRoom false := by
      have he : eqUsed u = eqUsed s := by unfold eqUsed; rw [hq]
      rw [he, show eqRoom false = 57344 from rfl]
      omega
    rw [if_neg (by simp only [hn, decide_false, Bool.and_false, Bool.false_eq_true, not_false_eq_true]), hq]

/-- An answer that finds no room leaves the queue as it is. -/
theorem answer_full {s : State} (h : 65536 < eqUsed s) (c b g : Nat) (d : List Byte) (hc : c ≠ 0x0304 := by decide) :
    (answer c b g d s).host.eq = s.host.eq := by
  unfold answer
  have hu : eqUsed (recordEvent c b 0 d s) = eqUsed s := eqUsed_recordEvent c b 0 d s
  have hq : (recordEvent c b 0 d s).host.eq = s.host.eq := by rw [recordEvent_host]
  generalize recordEvent c b 0 d s = u at hu hq
  rw [← hq]
  unfold postEvent
  split
  · rfl
  · rw [if_pos rfl]
    unfold placeEvent
    dsimp only
    rw [if_neg (by simp only [eqRoom, if_true]; omega), if_neg (by simp [hc]), eqLose_full, eqAdvance_eq]
    rw [eqUsed_eqAdvance]
    omega

theorem eqUsed_replicate {s : State} {n : Nat} {m : Msg} (h : s.host.eq = List.replicate n m) :
    eqUsed s = n * (8 + m.body.length) := by
  unfold eqUsed
  rw [h, List.map_replicate, List.sum_replicate, smul_eq_mul]

theorem requestFields_length (s : State) (b : Bough) : (requestFields s b).length = 22 := by
  simp [requestFields, leI, leN]

/-- A power request without body. -/
def bareRequest : Msg := { type := 0x0304, bough := 0 }

/-- Bough 0's request in a queue full of such messages replaces every one of them by its own 40 bytes. -/
theorem powerRequest_bareRequests {s : State} {n : Nat} (hn : 57304 < n * 8) (hq : s.host.eq = List.replicate n bareRequest)
    (hs : (sendsRequests s.ses[(0 : Bough)].state && coreAlive s 0) = true) (ho : s.open2 = true)
    (hm : (bitOf s.hstCfg 3 && bitOf s.hstCfg 16) = true) :
    ∃ m : Msg, m.type = 0x0304 ∧ m.body.length = 32 ∧ (powerRequest 0 s).host.eq = List.replicate n m := by
  unfold powerRequest
  rw [if_pos hs]
  dsimp only
  generalize hv : s.onSesL 0 _ = v
  have hvq : v.host.eq = List.replicate n bareRequest := by rw [← hv]; exact hq
  have hvo : v.open2 = true := by rw [← hv]; exact ho
  have hvm : (bitOf v.hstCfg (0x0304 / 256) && (0x0304 != 0x0304 || bitOf v.hstCfg 16)) = true := by
    rw [← hv]
    exact hm
  generalize hd : leN 2 _ ++ requestFields v 0 ++ leN 8 _ = d
  have hl : d.length = 32 := by rw [← hd]; simp [requestFields_length, leN]
  refine ⟨mkMsg 0x0304 0 0 d v, rfl, hl, ?_⟩
  have hu : eqUsed v = n * 8 := eqUsed_replicate hvq
  show (postEvent 0x0304 0 0 false d v).host.eq = _
  unfold postEvent
  rw [hvo, if_neg (by decide), if_neg (by decide), if_pos hvm]
  unfold placeEvent
  dsimp only
  rw [if_neg (by rw [hu, hl, show eqRoom false = 57344 from rfl]; omega),
    if_pos (by rw [hvq]; simp [bareRequest]; omega), hvq]
  simp [bareRequest]

/-- Boughs whose sessions send no requests send none after new flags either. -/
theorem foldl_powerRequest_idle (l : List (Bough × List Byte)) (s : State)
    (h : ∀ p ∈ l, sendsRequests s.ses[p.1].state = false) :
    l.foldl (fun t p => if requestFields t p.1 = p.2 then t else powerRequest p.1 t) s = s := by
  induction l with
  | nil => rfl
  | cons p l ih =>
    have e : powerRequest p.1 s = s := by
      unfold powerRequest
      rw [h p List.mem_cons_self, Bool.false_and, if_neg Bool.false_ne_true]
    rw [List.foldl_cons, e, ite_self, ih fun q hq => h q (List.mem_cons_of_mem _ hq)]

/-! ## The state -/

/-- A record's digest, its slot, and the record without BPT_OK. -/
def credDigest : List Byte := [1, 2, 3, 4, 5, 6, 7, 8]
def credSlot : Nat := homeSlot credDigest
def credRecord : List Byte := mkRecord credDigest 5000 1 0

/-- A running device that charges on bough 0 for that record, discharging where the record permits it, with a queue full of
power requests without body. No command queues such a request: the statement asks of a state that its memories are
canonical and that its queue has room for an answer, and this one meets both. -/
def crowded : State :=
  { State.reset with
    start.done := 8
    mem.cells := memPuts zeroB [] (slotAddr credSlot) credRecord
    links := State.reset.links.set 0 { bpt := true }
    ses := State.reset.ses.set 0 { state := .charging, slot := some credSlot, authBy := 2 }
    sesL := State.reset.sesL.set 0 { discharge := true }
    host.applied := pagePuts [] 0x3100 (leN 4 0x20000000)
    host.eq := List.replicate 7168 bareRequest }

theorem crowded_memOk : MemOk crowded := by
  refine ⟨?_, ?_, ?_, ?_, ?_, ?_⟩ <;> decide +kernel

theorem lookup_crowded : lookup credDigest crowded = (some credSlot, noteProbe 0 crowded) := rfl

theorem crowded_canAnswer : CanAnswer (noteProbe 0 crowded) := by
  refine ⟨rfl, ?_⟩
  rw [eqUsed_replicate (s := noteProbe 0 crowded) (n := 7168) (m := bareRequest) rfl]
  decide

/-- The record with new flags, which permit discharge, written and journalled. -/
def crowdedFlagged : State :=
  journal credSlot (putSlot credSlot (mkRecord credDigest 5000 3 0) (noteProbe 0 crowded))

/-- The header of the host's command. -/
def credHdr : CmdHdr := { bough := 255, tag := 7 }

/-- The new flag changes what the session asks of its power source: discharge in place of charge. -/
theorem crowdedFlagged_fields : requestFields crowdedFlagged 0 ≠ requestFields (noteProbe 0 crowded) 0 := by decide +kernel

theorem exec_setFlags_crowded : exec (.sesCreditSetFlags credHdr credDigest 2) crowded
    = .next (sesAnswer 255 7 0 (powerRequest 0 crowdedFlagged)) := by
  have hl : lookup (padTo 8 credDigest) crowded = (some credSlot, noteProbe 0 crowded) := lookup_crowded
  have hr : mkRecord (recDigest (slotRecord (noteProbe 0 crowded) credSlot))
      (recBalance (slotRecord (noteProbe 0 crowded) credSlot)) (2 ||| 1)
      (recEcUsed (slotRecord (noteProbe 0 crowded) credSlot)) = mkRecord credDigest 5000 3 0 := by decide +kernel
  have hidle : ∀ p ∈ ([1, 2, 3, 4, 5, 6, 7] : List Bough).map fun b => (b, requestFields (noteProbe 0 crowded) b),
      sendsRequests (powerRequest 0 crowdedFlagged).ses[p.1].state = false := by
    have hs : (powerRequest 0 crowdedFlagged).ses = crowdedFlagged.ses :=
      (powerRequest_changes (w₀ := allBut .sessions) (.refl _ _) 0).same
    have hi : ∀ b ∈ ([1, 2, 3, 4, 5, 6, 7] : List Bough), sendsRequests crowdedFlagged.ses[b].state = false := by
      decide +kernel
    intro p hp
    obtain ⟨b, hb, rfl⟩ := List.mem_map.mp hp
    rw [hs]
    exact hi b hb
  show execSesCreditSetFlags credHdr credDigest 2 crowded = _
  unfold execSesCreditSetFlags onRecord
  rw [hl]
  dsimp only
  rw [hr, ← crowdedFlagged, allBoughs, List.map_cons, List.foldl_cons, if_neg crowdedFlagged_fields,
    foldl_powerRequest_idle _ _ hidle]
  rfl

/-- Refutes O27: SES_CREDIT with new flags on the record of a charging session, in a queue of 7,168 power requests without
body. The request that follows the new flags takes the place of every one of them (R714), 40 bytes each, and the answer
0x0308 finds no room behind them. -/
theorem not_creditRecords : ¬ Obligations.CreditRecords := by
  intro h
  obtain ⟨-, hfound, -⟩ := h.1 crowded (noteProbe 0 crowded) credHdr credDigest rfl crowded_memOk
  obtain ⟨-, -, hflags, -⟩ := hfound credSlot lookup_crowded crowded_canAnswer
  obtain ⟨t, ht, -, hlast⟩ := hflags 2
  rw [exec_setFlags_crowded] at ht
  obtain ⟨m, hm, hl, hq⟩ := powerRequest_bareRequests (s := crowdedFlagged) (n := 7168) (by decide) rfl (by decide +kernel)
    (by decide +kernel) (by decide +kernel)
  have hfull : 65536 < eqUsed (powerRequest 0 crowdedFlagged) := by
    rw [eqUsed_replicate hq, hl]
    decide
  have hq' := (answer_full hfull 0x0308 255 7 (leN 1 0)).trans hq
  rw [← Host.Outcome.next.inj ht, sesAnswer, lastEvent, hq', List.getLast?_replicate] at hlast
  simp [hm] at hlast

end Sys2Proof.Safety
end

section
/-! SUPPORT. The crypto engine's queue (R43, R573, R574) and the heartwood mailbox (R66). -/

set_option Elab.async false

namespace Sys2Proof.Safety

open Sys2Proof.Machine

/-! ## Requests -/

/-- A stop that the table of R42 lets use the engine. -/
def mayAskCrypto (stop : Nat) : Prop := stop = 8 ∨ stop = 2 ∨ stop = 3 ∨ stop = 0

section
variable {s : State} {r : CryptoReq} (hstop : mayAskCrypto r.stop)
include hstop

theorem mayAskCrypto.known : (!(r.stop == 8 || isSessionCore r.stop || r.stop == 0)) = false := by
  rcases hstop with h | h | h | h <;> simp [h, isSessionCore]

theorem exec_cryptoRequest_refused (hk : handleOk s r = false) :
    exec (.cryptoRequest r) s = .next (emit 0x0C08 255 (leN 1 r.stop ++ leN 1 (r.handle.getD 0)) s) := by
  show execCryptoRequest r s = _
  rw [execCryptoRequest, hstop.known, if_neg Bool.false_ne_true, if_pos (by simp [hk])]

theorem exec_cryptoRequest_idle (hk : handleOk s r = true) (hr : s.crypto.running = none) :
    exec (.cryptoRequest r) s = .next { s with crypto.running := some r } := by
  show execCryptoRequest r s = _
  simp [execCryptoRequest, hstop.known, hk, hr]

theorem exec_cryptoRequest_busy (hk : handleOk s r = true) (hr : s.crypto.running ≠ none) :
    exec (.cryptoRequest r) s = .next { s with crypto.queue := s.crypto.queue ++ [r] } := by
  have hs : s.crypto.running.isSome = true := Option.isSome_iff_ne_none.mpr hr
  show execCryptoRequest r s = _
  simp [execCryptoRequest, hstop.known, hk, hs]

end

/-- A handle that no key of the requester's stop has is refused (R573). -/
theorem handleOk_unbound {s : State} {r : CryptoReq} {h : Nat} (hh : r.handle = some h)
    (hk : ∀ k ∈ s.crypto.keys, k.handle = h → k.stop ≠ r.stop) : handleOk s r = false := by
  have : s.crypto.keys.any (fun k => k.handle == h && k.stop == r.stop) = false := by
    simpa using hk
  simp [handleOk, hh, this]

/-! ## The end of an operation -/

theorem nextCrypto_mem {q : List CryptoReq} {n : CryptoReq} (h : nextCrypto q = some n) : n ∈ q := by
  unfold nextCrypto at h
  split at h
  · rename_i e
    cases h
    exact List.mem_of_find?_eq_some e
  · split at h
    · rename_i e
      cases h
      exact List.mem_of_find?_eq_some e
    · exact List.mem_of_mem_head? h

theorem cryptoRank_le (stop : Nat) : cryptoRank stop ≤ 2 := by
  unfold cryptoRank
  split
  · decide
  · split <;> decide

/-- A rank that the search did not find is no rank of the queue. -/
theorem rank_ne_of_find {q : List CryptoReq} {k : Nat} (h : q.find? (fun r => cryptoRank r.stop == k) = none) :
    ∀ m ∈ q, cryptoRank m.stop ≠ k := by
  simpa using h

/-- The next request has the lowest rank of the queue (R43). -/
theorem nextCrypto_rank {q : List CryptoReq} {n : CryptoReq} (h : nextCrypto q = some n) :
    ∀ m ∈ q, cryptoRank n.stop ≤ cryptoRank m.stop := by
  intro m hm
  unfold nextCrypto at h
  split at h
  · rename_i e
    cases h
    have hn : cryptoRank n.stop = 0 := by simpa using List.find?_some e
    omega
  · rename_i e0
    have h0 := rank_ne_of_find e0 m hm
    split at h
    · rename_i e
      cases h
      have hn : cryptoRank n.stop = 1 := by simpa using List.find?_some e
      omega
    · rename_i e1
      have h1 := rank_ne_of_find e1 m hm
      have hn := cryptoRank_le n.stop
      omega

/-- The outcome of an operation leaves queue and results alone. -/
theorem finishCrypto_keeps (r : CryptoReq) (s : State) :
    (finishCrypto r s).2.crypto.queue = s.crypto.queue ∧ (finishCrypto r s).2.crypto.results = s.crypto.results := by
  unfold finishCrypto
  split
  · split <;> exact ⟨rfl, rfl⟩
  all_goals exact ⟨rfl, rfl⟩

/-- The running operation gives its result, and the engine takes the next request (R43, R574). -/
theorem cryptoOperationDone_next {s : State} {r : CryptoReq} (hr : s.crypto.running = some r) :
    ∃ t, exec .cryptoOperationDone s = .next t ∧ t.crypto.running = nextCrypto s.crypto.queue
      ∧ ∃ ok, t.crypto.results = { stop := r.stop, op := r.op, ok := ok } :: s.crypto.results := by
  show ∃ t, execCryptoOperationDone s = .next t ∧ _
  unfold execCryptoOperationDone
  rw [hr]
  dsimp only
  have hkeep : ∀ x, x = (if s.crypto.fellOp then (false, s) else finishCrypto r s) →
      x.2.crypto.queue = s.crypto.queue ∧ x.2.crypto.results = s.crypto.results := by
    rintro x rfl
    split
    · exact ⟨rfl, rfl⟩
    · exact finishCrypto_keeps r s
  generalize (if s.crypto.fellOp then (false, s) else finishCrypto r s) = x at hkeep ⊢
  obtain ⟨hq, hres⟩ := hkeep x rfl
  rw [hq, hres]
  cases nextCrypto s.crypto.queue with
  | none => exact ⟨_, rfl, rfl, _, rfl⟩
  | some n => exact ⟨_, rfl, rfl, _, rfl⟩

/-! ## The heartwood mailbox -/

/-- The writes that the mailbox has not yet taken, behind those in it, are the same before and after (R66). -/
theorem admitMail_order (s : State) :
    (admitMail s).trunk.mailbox ++ (admitMail s).trunk.mailWait = s.trunk.mailbox ++ s.trunk.mailWait := by
  unfold admitMail
  split
  · dsimp only
    rw [List.append_assoc, List.take_append_drop]
  · rfl

/-- A write waits only while stop 8 has no class-2 credit or the mailbox is full. -/
theorem admitMail_waits {s : State} (h : (admitMail s).trunk.mailWait ≠ []) :
    2 ≤ (passAt s 8 2).length ∨ Config.mailboxMore < (admitMail s).trunk.mailbox.length := by
  unfold admitMail at h ⊢
  split
  · rename_i hc
    rw [if_pos hc] at h
    right
    have hl : Config.mailboxMore + 1 - s.trunk.mailbox.length < s.trunk.mailWait.length := by
      by_contra hn
      exact h (List.drop_eq_nil_of_le (Nat.le_of_not_lt hn))
    simp only [List.length_append, List.length_take]
    omega
  · exact .inl (by omega)

/-- With room and a credit one waiting write enters the mailbox. -/
theorem admitMail_enters {s : State} {m : Mail} (hw : s.trunk.mailWait = [m])
    (hl : s.trunk.mailbox.length ≤ Config.mailboxMore) (hc : (passAt s 8 2).length < 2) :
    (admitMail s).trunk.mailbox = s.trunk.mailbox ++ [m] ∧ (admitMail s).trunk.mailWait = [] := by
  obtain ⟨n, hn⟩ := Nat.exists_eq_add_of_le' (show 1 ≤ Config.mailboxMore + 1 - s.trunk.mailbox.length by omega)
  simp [admitMail, hc, hw, hn]

/-- Without room or credit nothing moves. -/
theorem admitMail_full {s : State} (h : Config.mailboxMore < s.trunk.mailbox.length ∨ 2 ≤ (passAt s 8 2).length) :
    (admitMail s).trunk.mailbox = s.trunk.mailbox ∧ (admitMail s).trunk.mailWait = s.trunk.mailWait := by
  unfold admitMail
  split
  · have hn : Config.mailboxMore + 1 - s.trunk.mailbox.length = 0 := by omega
    simp [hn]
  · exact ⟨rfl, rfl⟩

/-- The state in which the write of a session core waits behind the writes before it. -/
def withMail (m : Mail) (s : State) : State := { s with trunk.mailWait := s.trunk.mailWait ++ [m] }

theorem exec_heartwoodMailboxWrite {s : State} {m : Mail} (h : s.safDev.coreDead.getLsbD m.core.val = false) :
    exec (.heartwoodMailboxWrite m) s = .next (admitMail (withMail m s)) :=
  if_neg (by simp [h])

/-- Settles O14: a request by the handle and the engine's state, the end of an operation by the search of the queue, a
write of the mailbox by its room. -/
theorem cryptoAndMailbox : Obligations.CryptoAndMailbox := by
  refine ⟨⟨fun s r hstop => ⟨fun hk hr => ?_, fun hk hr => ?_, fun h hh hk hc => ?_⟩, fun s r hr _ => ?_⟩,
    fun s m hd => ⟨?_, fun hw hl hc => ?_, fun h => ?_⟩⟩
  · exact ⟨_, exec_cryptoRequest_idle hstop hk hr, rfl, rfl⟩
  · exact ⟨_, exec_cryptoRequest_busy hstop hk hr, rfl, rfl⟩
  · refine ⟨_, exec_cryptoRequest_refused hstop (handleOk_unbound hh hk), by simp, ?_⟩
    rw [hh]
    exact emit_last 0x0C08 255 _ hc (hl := by simp [leN])
  · obtain ⟨t, ht, hrun, hres⟩ := cryptoOperationDone_next hr
    exact ⟨t, ht, hres, hrun, fun n hn => ⟨nextCrypto_mem (hrun ▸ hn), nextCrypto_rank (hrun ▸ hn)⟩⟩
  · refine ⟨_, exec_heartwoodMailboxWrite hd, ?_, ?_, fun h => admitMail_waits h⟩
    · exact (admitMail_order _).trans (List.append_assoc _ _ _).symm
    · exact (admitMail_changes (w₀ := allBut .heartwood) (.refl _ _)).same
  · exact ⟨_, exec_heartwoodMailboxWrite hd, admitMail_enters (s := withMail m s) (by simp [withMail, hw]) hl hc⟩
  · exact ⟨_, exec_heartwoodMailboxWrite hd, admitMail_full (s := withMail m s) h⟩

end Sys2Proof.Safety
end

section
/-! SUPPORT. A handshake of a segment (R28 to R31, R35): what crosses, what is rejected, lanes that fail. -/

set_option Elab.async false

namespace Sys2Proof.Safety

open Sys2Proof.Machine

/-! ## The flits that wait and pass -/

section
variable (s : State) (i j : Nat) (k l : Fin 4) (f : List Flit → List Flit)

theorem passAt_onPass_same (h : i < 23) : passAt (onPass i k f s) i k = f (passAt s i k) := by
  unfold passAt onPass
  rw [getN_modN _ _ h, modAt_get]

theorem passAt_onPass_ne (h : i ≠ j) : passAt (onPass i k f s) j l = passAt s j l := by
  unfold passAt onPass
  rw [getN_modN_ne _ _ _ h]

theorem waitingAt_onInject_same (h : i < 23) : waitingAt (onInject i f s) i = f (waitingAt s i) := getN_modN _ _ h _ _

theorem waitingAt_onInject_ne (h : i ≠ j) : waitingAt (onInject i f s) j = waitingAt s j := getN_modN_ne _ _ _ h _ _

end

/-- The stop behind segment i. -/
def stopAfter (i : Fin 23) : Nat := (i.val + 1) % 23

theorem stopAfter_lt (i : Fin 23) : stopAfter i < 23 := Nat.mod_lt _ (by decide)

theorem stopAfter_ne (i : Fin 23) : i.val ≠ stopAfter i := by
  unfold stopAfter
  omega

theorem admitMail_trunk (s : State) :
    (admitMail s).trunk.seg = s.trunk.seg ∧ (admitMail s).trunk.pass = s.trunk.pass
      ∧ (admitMail s).trunk.inject = s.trunk.inject ∧ (admitMail s).trunk.resends = s.trunk.resends := by
  unfold admitMail
  split <;> exact ⟨rfl, rfl, rfl, rfl⟩

@[simp] theorem passAt_admitMail (s : State) (i : Nat) (k : Fin 4) : passAt (admitMail s) i k = passAt s i k := by
  unfold passAt
  rw [(admitMail_trunk s).2.1]

@[simp] theorem waitingAt_admitMail (s : State) (i : Nat) : waitingAt (admitMail s) i = waitingAt s i := by
  unfold waitingAt
  rw [(admitMail_trunk s).2.2.1]

/-! ## One handshake -/

/-- The segment's load of the class counts the flit. -/
def countLoad (i : Fin 23) (k : Fin 4) (s : State) : State :=
  onSeg i (fun g => { g with load := modAt g.load k (· + 1) }) s

/-- The state in which a flit that crosses leaves its stop: the ports have brought theirs, the load is counted, the
segment is free again. -/
def atCrossing (i : Fin 23) (offers : List Flit) (k : Fin 4) (s : State) : State :=
  onSeg i (fun g => { g with sending := none, halfSent := false, attempts := [] }) (countLoad i k (takeOffers i offers s))

section
variable {s : State} {i : Fin 23} {offers : List Flit} {errs : BitVec 9} {p : Pick} {f : Flit}
variable (ha : s.trunk.seg[i].attempts.length < 3) (hp : pickFlit (takeOffers i offers s) i = some p)
variable (hf : pickedFlit (takeOffers i offers s) i p = some f)
include ha hp hf

theorem exec_trunkFlit : exec (.trunkFlit i offers errs) s = .next (
    if badLanes s.trunk.seg[i] errs = 0 then crossFlit i p f (countLoad i p.cls (takeOffers i offers s))
    else rejectFlit i p (badLanes s.trunk.seg[i] errs) (countLoad i p.cls (takeOffers i offers s))) := by
  show execTrunkFlit i offers errs s = _
  unfold execTrunkFlit
  dsimp only
  rw [if_neg (show ¬ 3 ≤ (takeOffers i offers s).trunk.seg[i].attempts.length from Nat.not_le_of_lt ha), hp]
  dsimp only
  rw [hf]
  exact (apply_ite Host.Outcome.next _ _ _).symm

/-- On a segment that is not in half mode a flit without error reaches the next stop. -/
theorem exec_trunkFlit_crosses (hb : badLanes s.trunk.seg[i] errs = 0) (hh : s.trunk.seg[i].half = false) :
    exec (.trunkFlit i offers errs) s
      = .next (admitMail (arrive (stopAfter i) f (leaveStop i p f (atCrossing i offers p.cls s)))) := by
  rw [exec_trunkFlit ha hp hf, if_pos hb]
  have h : (countLoad i p.cls (takeOffers i offers s)).trunk.seg[i].half = false := by
    simpa [countLoad, onSeg, takeOffers, onInject] using hh
  unfold crossFlit
  dsimp only
  rw [h, Bool.false_and, if_neg Bool.false_ne_true]
  rfl

end

/-! ## A flit that crosses -/

theorem leaveStop_seg (i : Fin 23) (p : Pick) (f : Flit) (s : State) : (leaveStop i p f s).trunk.seg = s.trunk.seg := by
  unfold leaveStop
  split <;> rfl

theorem leaveStop_resends (i : Fin 23) (p : Pick) (f : Flit) (s : State) :
    (leaveStop i p f s).trunk.resends = s.trunk.resends := by
  unfold leaveStop
  split <;> rfl

/-- The flit leaves its own stop alone. -/
theorem leaveStop_passAt_ne (i : Fin 23) (p : Pick) (f : Flit) (s : State) (j : Nat) (k : Fin 4) (h : i.val ≠ j) :
    passAt (leaveStop i p f s) j k = passAt s j k := by
  unfold leaveStop
  split
  · exact passAt_onPass_ne _ _ _ _ _ _ h
  · rfl

/-- A flit in transit gives its credit back. -/
theorem leaveStop_transit {i : Fin 23} {p : Pick} (h : p.transit = true) (f : Flit) (s : State) :
    passAt (leaveStop i p f s) i.val p.cls = (passAt s i.val p.cls).drop 1 := by
  unfold leaveStop
  rw [if_pos h]
  exact passAt_onPass_same _ _ _ _ i.isLt

/-- A flit of a port waits no longer. -/
theorem leaveStop_port {i : Fin 23} {p : Pick} (h : p.transit = false) (f : Flit) (s : State) :
    waitingAt (leaveStop i p f s) i.val = (waitingAt s i.val).erase f := by
  unfold leaveStop
  rw [h, if_neg Bool.false_ne_true]
  exact waitingAt_onInject_same _ _ _ i.isLt

theorem arrive_passes {n : Nat} {f : Flit} (h : f.dst.val ≠ n) (s : State) :
    arrive n f s = onPass n f.cls (· ++ [f]) s := if_neg h

theorem atCrossing_attempts (i : Fin 23) (offers : List Flit) (k : Fin 4) (s : State) :
    (atCrossing i offers k s).trunk.seg[i].attempts = [] := by simp [atCrossing, onSeg]

/-- A flit that is for another stop than the next crosses into the next stop's pass buffer. -/
theorem trunkFlit_passes {s : State} {i : Fin 23} {offers : List Flit} {errs : BitVec 9} {p : Pick} {f : Flit}
    (ha : s.trunk.seg[i].attempts.length < 3) (hp : pickFlit (takeOffers i offers s) i = some p)
    (hf : pickedFlit (takeOffers i offers s) i p = some f) (hb : badLanes s.trunk.seg[i] errs = 0)
    (hh : s.trunk.seg[i].half = false) (hd : f.dst.val ≠ stopAfter i) :
    Completes (.trunkFlit i offers errs) s fun t =>
      passAt t (stopAfter i) f.cls = passAt s (stopAfter i) f.cls ++ [f]
        ∧ (p.transit = true → passAt t i.val p.cls = (passAt s i.val p.cls).drop 1)
        ∧ (p.transit = false → waitingAt t i.val = (waitingAt (takeOffers i offers s) i.val).erase f)
        ∧ t.trunk.seg[i].attempts = [] ∧ t.trunk.resends = s.trunk.resends := by
  refine ⟨_, exec_trunkFlit_crosses ha hp hf hb hh, ?_⟩
  rw [arrive_passes hd]
  obtain ⟨hseg, -, -, hres⟩ := admitMail_trunk (onPass (stopAfter i) f.cls (· ++ [f]) (leaveStop i p f (atCrossing i offers p.cls s)))
  refine ⟨?_, fun ht => ?_, fun ht => ?_, ?_, ?_⟩
  · rw [passAt_admitMail, passAt_onPass_same _ _ _ _ (stopAfter_lt i), leaveStop_passAt_ne _ _ _ _ _ _ (stopAfter_ne i)]
    rfl
  · rw [passAt_admitMail, passAt_onPass_ne _ _ _ _ _ _ (stopAfter_ne i).symm, leaveStop_transit ht]
    rfl
  · rw [waitingAt_admitMail]
    exact leaveStop_port ht f _
  · rw [hseg]
    show (leaveStop i p f (atCrossing i offers p.cls s)).trunk.seg[i].attempts = []
    rw [leaveStop_seg]
    exact atCrossing_attempts i offers p.cls s
  · rw [hres]
    exact leaveStop_resends i p f _

/-- A flit with an error stays with its sender and is counted (R29, R62). -/
theorem trunkFlit_rejected {s : State} {i : Fin 23} {offers : List Flit} {errs : BitVec 9} {p : Pick} {f : Flit}
    (ha : s.trunk.seg[i].attempts.length < 3) (hp : pickFlit (takeOffers i offers s) i = some p)
    (hf : pickedFlit (takeOffers i offers s) i p = some f) (hb : badLanes s.trunk.seg[i] errs ≠ 0) :
    Completes (.trunkFlit i offers errs) s fun t =>
      t.trunk.resends = min 8191 (s.trunk.resends + 1) ∧ t.trunk.pass = s.trunk.pass
        ∧ t.trunk.seg[i].attempts = s.trunk.seg[i].attempts ++ [badLanes s.trunk.seg[i] errs]
        ∧ t.trunk.seg[i].sending = some p := by
  refine ⟨_, (exec_trunkFlit ha hp hf).trans (congrArg _ (if_neg hb)), rfl, rfl, ?_, ?_⟩ <;>
    simp [rejectFlit, countLoad, onSeg, takeOffers, onInject]

/-! ## What a stop sends (R35, R36) -/

/-- A pick of class k has a credit, and injects only where no flit of the class may go on in transit. -/
theorem pickClass_some {s : State} {i : Fin 23} {k : Fin 4} {p : Pick} (h : pickClass s i k = some p) :
    p.cls = k ∧ hasCredit s i.val k = true
      ∧ (p.transit = false → passAt s i.val k = [] ∨ transitRoom s i k = false) := by
  unfold pickClass at h
  split at h
  · cases h
  · rename_i hc
    have hc' : hasCredit s i.val k = true := by simpa using hc
    split at h
    · cases h
      exact ⟨rfl, hc', fun e => absurd e (by simp)⟩
    · rename_i ht
      split at h
      · cases h
      · obtain ⟨q, -, rfl⟩ := Option.map_eq_some_iff.mp h
        refine ⟨rfl, hc', fun _ => ?_⟩
        simpa [Decidable.or_iff_not_imp_left] using ht

/-- Lower classes go first: those below the picked one have nothing to send. -/
theorem pickFlit_first {s : State} {i : Fin 23} {p : Pick} (hs : s.trunk.seg[i].sending = none)
    (hp : pickFlit s i = some p) : pickClass s i p.cls = some p ∧ ∀ k : Fin 4, k < p.cls → pickClass s i k = none := by
  unfold pickFlit at hp
  rw [hs] at hp
  obtain ⟨l₁, k, l₂, hl, hk, hn⟩ := List.findSome?_eq_some_iff.mp hp
  obtain ⟨rfl, -⟩ := pickClass_some hk
  refine ⟨hk, fun k hlt => hn k ?_⟩
  have hsort : (l₁ ++ p.cls :: l₂).Pairwise (· < ·) := by
    rw [← hl]
    decide
  have hmem : k ∈ l₁ ++ p.cls :: l₂ := hl ▸ (show ∀ k : Fin 4, k ∈ ([0, 1, 2, 3] : List (Fin 4)) by decide) k
  rcases List.mem_append.mp hmem with h | h
  · exact h
  · obtain ⟨-, h2, -⟩ := List.pairwise_append.mp hsort
    rcases List.mem_cons.mp h with rfl | h
    · exact absurd hlt (lt_irrefl _)
    · exact absurd ((List.pairwise_cons.mp h2).1 k h) (not_lt_of_gt hlt)

/-! ## Lanes that fail (R29, R31) -/

/-- The lane is named, declared failed, and the attempts are over. -/
def laneDeclared (g : Fin 23) (s : State) : State :=
  onSeg g (fun x => { x with failed := x.failed ||| BitVec.ofNat 9 (1 <<< failedLane s.trunk.seg[g]), attempts := [] })
    { s with trunk.lastSeg := g.val, trunk.lastLane := failedLane s.trunk.seg[g] }

/-- The unused and usable spare lane takes the failed lane's bits. -/
theorem exec_laneFailed_spare {s : State} {g : Fin 23} (ha : ¬ s.trunk.seg[g].attempts.length < 3)
    (hc : s.trunk.seg[g].carried = none) (hb : s.trunk.seg[g].spareBad = false) (hh : s.trunk.seg[g].half = false) :
    exec (.laneFailed g) s = .next (emit 0x0102 255 (leN 1 g.val ++ leN 1 (failedLane s.trunk.seg[g]))
      (onSeg g (fun x => { x with carried := some (failedLane s.trunk.seg[g]) })
        { laneDeclared g s with mem.softList := s.mem.softList ++ [laneEntry g.val (failedLane s.trunk.seg[g])] })) := by
  show execLaneFailed g s = _
  unfold execLaneFailed
  dsimp only
  rw [if_neg ha, hc, hb, hh, if_pos (by decide)]
  rfl

theorem laneFailed_spare {s : State} {g : Fin 23} (ha : s.trunk.seg[g].attempts.length = 3)
    (hc : s.trunk.seg[g].carried = none) (hb : s.trunk.seg[g].spareBad = false) (hh : s.trunk.seg[g].half = false) :
    Completes (.laneFailed g) s fun t =>
      t.trunk.seg[g].carried = some (failedLane s.trunk.seg[g]) ∧ t.trunk.seg[g].attempts = []
        ∧ t.trunk.lastSeg = g.val ∧ t.trunk.lastLane = failedLane s.trunk.seg[g] ∧ t.trunk.pass = s.trunk.pass := by
  refine ⟨_, exec_laneFailed_spare (by omega) hc hb hh, ?_⟩
  simp [onSeg, laneDeclared]

/-- A segment after the pattern of its spare lane: an unused one that fails is marked (R31). -/
def patterned (bad : Bool) (g : Seg) : Seg := if bad && g.carried.isNone then { g with spareBad := true } else g

/-- The pattern at segment i. -/
def patternStep (bad : BitVec 23) (t : State) (i : Fin 23) : State :=
  let g := t.trunk.seg[i]
  if bad.getLsbD i.val && g.carried.isNone && !g.spareBad then
    emit 0x0107 255 (leN 1 i.val)
      (onSeg i (fun g => { g with spareBad := true }) { t with mem.softList := t.mem.softList ++ [laneEntry i.val 8] })
  else t

theorem patternStep_seg (bad : BitVec 23) (t : State) (i : Fin 23) :
    (patternStep bad t i).trunk.seg = modAt t.trunk.seg i (patterned (bad.getLsbD i.val)) := by
  have hself : ∀ x, x = t.trunk.seg[i] → t.trunk.seg = t.trunk.seg.set i x := by
    rintro x rfl
    exact (Vector.set_getElem_self _).symm
  unfold patternStep modAt patterned
  dsimp only
  split
  · rename_i h
    have h' : (bad.getLsbD i.val && t.trunk.seg[i].carried.isNone) = true := by simp_all
    rw [if_pos h', emit_trunk]
    rfl
  · rename_i h
    refine hself _ ?_
    split
    · have hs : t.trunk.seg[i].spareBad = true := by simp_all
      generalize t.trunk.seg[i] = g at hs ⊢
      cases g
      subst hs
      rfl
    · rfl

/-- Each segment is judged by its own pattern. -/
theorem foldl_pattern (bad : BitVec 23) (g : Fin 23) (l : List (Fin 23)) (hl : l.Nodup) (s : State) :
    (l.foldl (patternStep bad) s).trunk.seg[g]
      = if g ∈ l then patterned (bad.getLsbD g.val) s.trunk.seg[g] else s.trunk.seg[g] := by
  induction l generalizing s with
  | nil => rfl
  | cons i l ih =>
    obtain ⟨hi, hl⟩ := List.nodup_cons.mp hl
    rw [List.foldl_cons, ih hl, patternStep_seg, modAt_fin]
    by_cases e : i = g
    · subst e
      simp [hi]
    · simp [e, Ne.symm e]

theorem spareLanePattern_seg {s : State} (bad : BitVec 23) (hr : s.lat.running = true) (hp : s.lat.pllLost = false) :
    ∃ t, exec (.spareLanePattern bad) s = .next t
      ∧ ∀ g : Fin 23, t.trunk.seg[g] = patterned (bad.getLsbD g.val) s.trunk.seg[g] := by
  refine ⟨(List.finRange 23).foldl (patternStep bad) s, if_neg (by simp [hr, hp]), fun g => ?_⟩
  rw [foldl_pattern bad g _ (List.nodup_finRange 23), if_pos (List.mem_finRange g)]

theorem patterned_fields (bad : Bool) (g : Seg) :
    (patterned bad g).spareBad = (g.spareBad || (bad && g.carried.isNone)) ∧ (patterned bad g).failed = g.failed
      ∧ (patterned bad g).half = g.half := by
  unfold patterned
  split <;> simp_all

/-- Settles O11: a flit that crosses by what leaves and what arrives, the pick by the search over the classes, the
pattern segment by segment. -/
theorem trunkFlitsAndLanes : Obligations.TrunkFlitsAndLanes := by
  refine ⟨fun s i offers errs p f ha hp hf => ⟨fun hb hh hd => ?_, fun hb => ?_⟩, fun s i p hs hp => ?_,
    fun s g ha hc hb hh => ?_, fun s bad g hr hp => ?_⟩
  · exact trunkFlit_passes ha hp hf hb hh hd
  · exact trunkFlit_rejected ha hp hf hb
  · obtain ⟨hk, hlow⟩ := pickFlit_first hs hp
    obtain ⟨-, hcred, htr⟩ := pickClass_some hk
    exact ⟨hlow, hcred, htr⟩
  · exact laneFailed_spare ha hc hb hh
  · obtain ⟨t, ht, hseg⟩ := spareLanePattern_seg bad hr hp
    refine ⟨t, ht, ?_⟩
    beta_reduce
    rw [hseg g]
    exact patterned_fields _ _

end Sys2Proof.Safety
end

section
/-! SUPPORT. A flit served by SRAM (R42, R597, R598, R605): the word written, the access refused, the word corrected. -/

set_option Elab.async false

namespace Sys2Proof.Safety

open Sys2Proof.Machine

/-! ## Bytes of a word -/

@[simp] theorem leN_length (n x : Nat) : (leN n x).length = n := by
  induction n generalizing x with
  | zero => rfl
  | succ n ih => rw [leN, List.length_cons, ih]

theorem leN_getElem (n x k : Nat) (h : k < (leN n x).length) : (leN n x)[k] = BitVec.ofNat 8 (x >>> (8 * k)) := by
  induction n generalizing x k with
  | zero => cases h
  | succ n ih =>
    cases k with
    | zero => rfl
    | succ k =>
      simp only [leN, List.getElem_cons_succ]
      rw [ih, show 8 * (k + 1) = 8 + 8 * k by omega, Nat.shiftRight_add, Nat.shiftRight_eq_div_pow x 8]

/-! ## Wrong bits of a word -/

theorem badAt_addr (s : State) (a : Nat) : (badAt s a).addr = a := by
  unfold badAt
  cases h : s.mem.bad.find? (fun w => w.addr == a) with
  | none => rfl
  | some w => simpa using List.find?_some h

/-- A word that is not listed has no wrong bits. -/
theorem badAt_unlisted {s : State} {a : Nat} (h : s.mem.bad.any (fun x => x.addr == a) = false) :
    badAt s a = { addr := a } := by
  unfold badAt
  rw [List.find?_eq_none.mpr (by simpa using h)]
  rfl

/-- A word put without wrong and hard bits is listed no longer. -/
theorem badAt_putBad_clean {w : BadWord} (s : State) (hf : w.flips = 0) (hh : w.hard = 0) :
    badAt (putBad w s) w.addr = { addr := w.addr } := by
  refine badAt_unlisted ?_
  simp [putBad, hf, hh]

/-! ## A write (R605) -/

/-- A word without hard bits is right once it is written. -/
theorem writtenWord_clean {s : State} {a : Nat} (hh : (badAt s a).hard = 0) (ha : s.mem.armed = false) :
    writtenWord a s = putBad { badAt s a with flips := 0 } s := by
  unfold writtenWord
  dsimp only
  rw [if_pos hh]
  simp [ha]

theorem writtenWord_cells (a : Nat) (s : State) : (writtenWord a s).mem.cells = s.mem.cells := by
  unfold writtenWord putBad State.free
  dsimp only
  (repeat' split) <;> rfl

theorem sramWrite_cells (a : Nat) (bs : List Byte) (s : State) :
    (sramWrite a bs s).mem.cells = memPuts zeroB s.mem.cells a bs := by
  unfold sramWrite
  dsimp only
  exact List.foldlRecOn (motive := fun t : State => t.mem.cells = memPuts zeroB s.mem.cells a bs) _ _ rfl
    fun t h w _ => (writtenWord_cells w t).trans h

/-- The one word that eight bytes from its address touch. -/
theorem wordsOf_word {a : Nat} (h : a % 8 = 0) : wordsOf a 8 = [a] := by
  have ha : a / 8 * 8 = a := by omega
  simp [wordsOf, h, ha]

theorem sramWrite_flips {s : State} {a : Nat} {bs : List Byte} (h8 : a % 8 = 0) (hl : bs.length = 8)
    (hh : (badAt s a).hard = 0) (ha : s.mem.armed = false) : (badAt (sramWrite a bs s) a).flips = 0 := by
  unfold sramWrite
  dsimp only
  rw [hl, wordsOf_word h8]
  generalize hu : ({ s with mem.cells := memPuts zeroB s.mem.cells a bs } : State) = u
  have hbad : u.mem.bad = s.mem.bad := by rw [← hu]
  have harm : u.mem.armed = false := by rw [← hu]; exact ha
  have hhard : (badAt u a).hard = 0 := by
    unfold badAt
    rw [hbad]
    exact hh
  cases hb : s.mem.bad.any (fun x => x.addr == a) with
  | false =>
    rw [List.filter_cons_of_neg (by simp [hb, ha])]
    rw [List.filter_nil, List.foldl_nil, badAt_unlisted (hbad ▸ hb)]
  | true =>
    rw [List.filter_cons_of_pos (by simp [hb])]
    rw [List.filter_nil, List.foldl_cons, List.foldl_nil, writtenWord_clean hhard harm]
    have h := badAt_putBad_clean (w := { badAt u a with flips := 0 }) u rfl hhard
    rw [show ({ badAt u a with flips := 0 } : BadWord).addr = a from badAt_addr u a] at h
    rw [h]

/-! ## A read that finds one wrong bit (R597, R598) -/

/-- The decoder corrects each of the 79 codeword bits. -/
theorem oneBit_corrected : ∀ k < 79, weight (cwBit k) < 4 ∧ classify (cwBit k) = 1 := by decide +kernel

/-- What a correction leaves where no bit is hard: the word is right again, and the read is counted. -/
theorem corrected_soft {s : State} {a : Nat} (n stop : Nat) (hh : (badAt s a).hard = 0) :
    (corrected a n stop s).mem.cells = s.mem.cells ∧ (corrected a n stop s).mem.corr = min 65535 (s.mem.corr + 1)
      ∧ (badAt (corrected a n stop s) a).flips = 0 := by
  have hand : (badAt s a).flips &&& (badAt s a).hard = 0 := by rw [hh]; exact BitVec.and_zero
  unfold corrected
  dsimp only
  rw [hand, List.filter_eq_nil_iff.mpr (by simp), List.foldl_nil]
  generalize hu : putBad _ _ = u
  have hc : u.mem.cells = s.mem.cells := by rw [← hu]; rfl
  have hn : u.mem.corr = min 65535 (s.mem.corr + 1) := by rw [← hu]; rfl
  have hb : (badAt u a).flips = 0 := by
    have h := badAt_putBad_clean (w := { badAt s a with flips := 0 })
      (eccLast a n { s with mem.corr := min 65535 (s.mem.corr + 1) }) rfl hh
    rw [show ({ badAt s a with flips := 0 } : BadWord).addr = a from badAt_addr s a, hu] at h
    rw [h]
  split
  · exact ⟨hc, hn, hb⟩
  · refine ⟨by simpa using hc, by simpa using hn, ?_⟩
    unfold badAt at hb ⊢
    rw [emit_mem]
    exact hb

theorem readWord_oneBit {s : State} {a stop k : Nat} (hk : k < 79) (hf : (badAt s a).flips = cwBit k) :
    readWord a stop s = (true, corrected a 1 stop s) := by
  obtain ⟨hw, hc⟩ := oneBit_corrected k hk
  simp [readWord, outcome, hf, hw, hc]

/-! ## Serving the flit -/

/-- The state in which the next stop serves the flit. -/
def atServe (i : Fin 23) (f : Flit) (p : Pick) (s : State) : State := leaveStop i p f (atCrossing i [f] p.cls s)

/-- Nothing but the trunk has changed by then. -/
theorem atServe_eq (i : Fin 23) (f : Flit) (p : Pick) (s : State) :
    atServe i f p s = { s with trunk := (atServe i f p s).trunk } := by
  unfold atServe leaveStop
  split <;> rfl

theorem atServe_mem (i : Fin 23) (f : Flit) (p : Pick) (s : State) : (atServe i f p s).mem = s.mem := by
  rw [atServe_eq]

theorem atServe_nv (i : Fin 23) (f : Flit) (p : Pick) (s : State) : (atServe i f p s).nv = s.nv := by
  rw [atServe_eq]

/-- The wrong bits of a word are those that the memory lists. -/
theorem badAt_of_bad {s t : State} (h : t.mem.bad = s.mem.bad) (a : Nat) : badAt t a = badAt s a := by
  unfold badAt
  rw [h]

theorem admitMail_eq (s : State) : admitMail s = { s with trunk := (admitMail s).trunk } := by
  unfold admitMail
  split <;> rfl

@[simp] theorem admitMail_mem (s : State) : (admitMail s).mem = s.mem := by rw [admitMail_eq]
@[simp] theorem admitMail_nv (s : State) : (admitMail s).nv = s.nv := by rw [admitMail_eq]

theorem badLanes_none (g : Seg) : badLanes g 0 = 0 := by
  have h : lanesOf 0 = [] := by decide
  unfold badLanes
  rw [h]
  rfl

section
variable {s : State} {i : Fin 23} {f : Flit} {x : Access} {p : Pick}

/-- The access of a flit for the next stop is served there. -/
theorem exec_trunkFlit_serves (ha : s.trunk.seg[i].attempts = []) (hh : s.trunk.seg[i].half = false)
    (hp : pickFlit (takeOffers i [f] s) i = some p) (hf : pickedFlit (takeOffers i [f] s) i p = some f)
    (hd : f.dst.val = stopAfter i) (hl : f.load = .access x) :
    exec (.trunkFlit i [f] 0) s = .next (admitMail (serveAccess f x (atServe i f p s))) := by
  rw [exec_trunkFlit_crosses (by rw [ha]; decide) hp hf (badLanes_none _) hh]
  unfold arrive
  rw [if_pos hd, hl]
  rfl

/-- A response waits at the stop that gives it. -/
theorem respondTo_waits (f : Flit) (refused : Bool) (a : Nat) (w : Option (BitVec 64)) (u : State) :
    { src := f.dst, port := 0, dst := f.src, cls := f.cls, load := .reply refused a w }
      ∈ waitingAt (admitMail (respondTo f refused a w u)) f.dst.val := by
  rw [waitingAt_admitMail]
  unfold respondTo
  rw [waitingAt_onInject_same _ _ _ f.dst.isLt]
  exact List.mem_append_right _ List.mem_cons_self

/-! ## Main SRAM at a session core's access -/

/-- The address map lets session cores read and write main SRAM. -/
theorem accessAllowed_mainSram (u : State) {stop a : Nat} (w : Bool) (hs : stop = 2) (ha : a < 0x00800000) :
    accessAllowed u stop w a = true := by
  unfold accessAllowed
  rw [if_pos ha]
  simp [hs, isSessionCore]

theorem macroOf_mainSram {a : Nat} (ha : a < 0x00800000) : (macroOf (a / 8 * 8)).isSome = true := by
  have h : a / 8 * 8 < 0x00800000 := by omega
  simp [macroOf, h]

theorem restartChannel_fields (x : Access) (u : State) :
    (restartChannel x u).mem.cells = u.mem.cells ∧ (restartChannel x u).mem.bad = u.mem.bad
      ∧ (restartChannel x u).mem.armed = u.mem.armed ∧ (restartChannel x u).nv = u.nv := by
  unfold restartChannel
  split <;> exact ⟨rfl, rfl, rfl, rfl⟩

theorem serveAccess_write {v : BitVec 64} (u : State) (hw : x.write = some v) (hs : x.stop = 2) (ha : x.addr < 0x00800000) :
    serveAccess f x u = sramWrite (x.addr / 8 * 8) (leN 8 v.toNat) (restartChannel x u) := by
  unfold serveAccess serveWrite
  rw [accessAllowed_mainSram u _ hs ha, hw]
  simp only [Bool.not_true, Bool.false_eq_true, if_false, macroOf_mainSram ha, if_true]

theorem serveAccess_read {u : State} (hw : x.write = none) (hs : x.stop = 2) (ha : x.addr < 0x00800000)
    (hh : u.mem.halted = false) {k : Nat} (hk : k < 79) (hf : (badAt u (x.addr / 8 * 8)).flips = cwBit k) :
    serveAccess f x u = respondTo f false x.addr
      (some (wordOf (memGets zeroB (corrected (x.addr / 8 * 8) 1 2 u).mem.cells (x.addr / 8 * 8) 8)))
      (corrected (x.addr / 8 * 8) 1 2 u) := by
  have hr : restartChannel x u = u := by simp [restartChannel, hh]
  unfold serveAccess serveRead
  rw [accessAllowed_mainSram u _ hs ha, hw, hs, hr]
  simp only [Bool.not_true, Bool.false_eq_true, if_false, macroOf_mainSram ha, if_true, readWord_oneBit hk hf]

theorem serveAccess_refused {u : State} (h : accessAllowed u x.stop x.write.isSome x.addr = false) :
    serveAccess f x u = respondTo f true x.addr none (emit 0x0108 255 (leN 1 x.stop ++ leN 4 x.addr) u) := by
  unfold serveAccess
  rw [h]
  rfl

section
variable (ha : s.trunk.seg[i].attempts = []) (hh : s.trunk.seg[i].half = false)
variable (hp : pickFlit (takeOffers i [f] s) i = some p) (hf : pickedFlit (takeOffers i [f] s) i p = some f)
variable (hd : f.dst.val = stopAfter i) (hl : f.load = .access x)
include ha hh hp hf hd hl

/-- A word written by a session core stands there and nowhere else (R605). -/
theorem trunkFlit_writesWord {v : BitVec 64} (hw : x.write = some v) (hs : x.stop = 2) (hx : x.addr < 0x00800000)
    (hok : MemOk s) (hhard : (badAt s (x.addr / 8 * 8)).hard = 0) (harm : s.mem.armed = false) :
    Completes (.trunkFlit i [f] 0) s fun t =>
      (∀ k < 8, memGet zeroB t.mem.cells (x.addr / 8 * 8 + k) = v.extractLsb' (8 * k) 8)
        ∧ (∀ a, a < x.addr / 8 * 8 ∨ x.addr / 8 * 8 + 8 ≤ a → memGet zeroB t.mem.cells a = memGet zeroB s.mem.cells a)
        ∧ (badAt t (x.addr / 8 * 8)).flips = 0 ∧ t.nv.tagMem = s.nv.tagMem := by
  refine ⟨_, exec_trunkFlit_serves ha hh hp hf hd hl, ?_⟩
  rw [serveAccess_write _ hw hs hx]
  obtain ⟨hcells, hbad, harm', hnv⟩ := restartChannel_fields x (atServe i f p s)
  rw [atServe_mem] at hcells hbad harm'
  rw [atServe_nv] at hnv
  generalize restartChannel x (atServe i f p s) = w at hcells hbad harm' hnv
  have hwf : memWf zeroB w.mem.cells = true := hcells ▸ hok.cells
  refine ⟨fun k hk => ?_, fun a ha => ?_, ?_, ?_⟩
  · rw [admitMail_mem, sramWrite_cells, memGet_memPuts _ _ hwf k (by simpa using hk), leN_getElem]
    rfl
  · rw [admitMail_mem, sramWrite_cells, memGet_memPuts_other _ (by simpa using ha), hcells]
  · rw [badAt_of_bad (congrArg Mem.bad (admitMail_mem _))]
    exact sramWrite_flips (by omega) (leN_length 8 _) (badAt_of_bad hbad _ ▸ hhard) (harm'.trans harm)
  · rw [admitMail_nv, ← hnv]
    exact (sramWrite_changes (w₀ := allBut .tagMem) (.refl _ w) _ _).same

/-- An access that the address map does not allow is refused (R42, R53). -/
theorem trunkFlit_refusesAccess (hna : accessAllowed s x.stop x.write.isSome x.addr = false) (hc : CanReport 0x0108 5 s) :
    Completes (.trunkFlit i [f] 0) s fun t => t.mem = s.mem ∧ t.nv.tagMem = s.nv.tagMem
      ∧ { src := f.dst, port := 0, dst := f.src, cls := f.cls, load := .reply true x.addr none } ∈ waitingAt t f.dst.val
      ∧ lastEvent t = some (0x0108, 255, 0, leN 1 x.stop ++ leN 4 x.addr) := by
  refine ⟨_, exec_trunkFlit_serves ha hh hp hf hd hl, ?_⟩
  have hu := atServe_eq i f p s
  generalize atServe i f p s = u at hu
  have hna' : accessAllowed u x.stop x.write.isSome x.addr = false := by
    rw [hu]
    exact hna
  rw [serveAccess_refused hna']
  refine ⟨?_, ?_, respondTo_waits f true x.addr none _, ?_⟩
  · rw [admitMail_mem]
    exact (emit_mem _ _ _ u).trans (by rw [hu])
  · rw [admitMail_nv]
    exact congrArg Nonvol.tagMem ((emit_nv _ _ _ u).trans (by rw [hu]))
  · rw [admitMail_eq]
    exact emit_last 0x0108 255 _ (hc.of_eq (by rw [hu]) (by rw [hu]) (by rw [hu]))

/-- A word with one wrong bit is corrected and goes back (R598, R599). -/
theorem trunkFlit_correctsWord (hw : x.write = none) (hs : x.stop = 2) (hx : x.addr < 0x00800000)
    (hhalt : s.mem.halted = false) {k : Nat} (hk : k < 79) (hfl : (badAt s (x.addr / 8 * 8)).flips = cwBit k)
    (hhard : (badAt s (x.addr / 8 * 8)).hard = 0) :
    Completes (.trunkFlit i [f] 0) s fun t => t.mem.cells = s.mem.cells
      ∧ t.mem.corr = min 65535 (s.mem.corr + 1) ∧ (badAt t (x.addr / 8 * 8)).flips = 0
      ∧ { src := f.dst, port := 0, dst := f.src, cls := f.cls, load := .reply false x.addr
            (some (wordOf (memGets zeroB s.mem.cells (x.addr / 8 * 8) 8))) } ∈ waitingAt t f.dst.val := by
  refine ⟨_, exec_trunkFlit_serves ha hh hp hf hd hl, ?_⟩
  have hmem := atServe_mem i f p s
  generalize atServe i f p s = u at hmem
  have hbad := badAt_of_bad (congrArg Mem.bad hmem) (x.addr / 8 * 8)
  obtain ⟨hcells, hcorr, hflips⟩ := corrected_soft 1 2 (hbad ▸ hhard)
  rw [serveAccess_read hw hs hx (hmem ▸ hhalt) hk (hbad ▸ hfl), hcells, hmem]
  refine ⟨?_, ?_, ?_, respondTo_waits f false x.addr _ _⟩
  · rw [admitMail_mem]
    exact hcells.trans (congrArg Mem.cells hmem)
  · rw [admitMail_mem, ← hmem]
    exact hcorr
  · rw [badAt_of_bad (congrArg Mem.bad (admitMail_mem _))]
    exact hflips

end

end

/-- Settles O12: the flit is served at the next stop; there the word is written, the access refused or the word
corrected. -/
theorem sramAccesses : Obligations.SramAccesses := by
  intro s i f x p ha hh hp hf hd hl
  refine ⟨fun v hw hs hx hok hhard harm => ?_, fun hna hc => ?_, fun hw hs hx hhalt k hk hfl hhard => ?_⟩
  · exact trunkFlit_writesWord ha hh hp hf hd hl hw hs hx hok hhard harm
  · exact trunkFlit_refusesAccess ha hh hp hf hd hl hna hc
  · exact trunkFlit_correctsWord ha hh hp hf hd hl hw hs hx hhalt hk hfl hhard

end Sys2Proof.Safety
end

section
/-! SUPPORT. Modem frames (R52, R204, R205, R209): blocks received and placed, blocks sent again, frames that start. -/

set_option Elab.async false

namespace Sys2Proof.Safety

open Sys2Proof.Machine

/-! ## Blocks in their positions (R204) -/

section
variable (bs : List RxBlock) (m : List (Nat × List Byte))

/-- A block is placed behind those already there, or discarded. -/
theorem placeBlocks_cons (x : RxBlock) : placeBlocks m (x :: bs)
    = placeBlocks (if x.ok && !m.any (fun e => e.1 == x.seq) then m ++ [(x.seq, x.data)] else m) bs := rfl

theorem placeBlocks_keeps {e : Nat × List Byte} (h : e ∈ m) : e ∈ placeBlocks m bs := by
  induction bs generalizing m with
  | nil => exact h
  | cons x bs ih =>
    rw [placeBlocks_cons]
    refine ih _ ?_
    split
    · exact List.mem_append_left _ h
    · exact h

/-- Every block that passes has its position filled. -/
theorem placeBlocks_fills {x : RxBlock} (hx : x ∈ bs) (hok : x.ok = true) : ∃ d, (x.seq, d) ∈ placeBlocks m bs := by
  induction bs generalizing m with
  | nil => cases hx
  | cons y bs ih =>
    rw [placeBlocks_cons]
    rcases List.mem_cons.mp hx with rfl | hx
    · cases ha : m.any (fun e => e.1 == x.seq) with
      | false =>
        rw [if_pos (by simp [hok])]
        exact ⟨x.data, placeBlocks_keeps _ _ (List.mem_append_right _ List.mem_cons_self)⟩
      | true =>
        rw [if_neg (by simp)]
        obtain ⟨⟨n, d⟩, hm, he⟩ := List.any_eq_true.mp ha
        obtain rfl : n = x.seq := by simpa using he
        exact ⟨d, placeBlocks_keeps _ _ hm⟩
    · exact ih _ hx

/-- What is new is the content of a block that passes. -/
theorem placeBlocks_new {e : Nat × List Byte} (he : e ∈ placeBlocks m bs) (hn : e ∉ m) :
    ∃ x ∈ bs, x.ok = true ∧ e = (x.seq, x.data) := by
  induction bs generalizing m with
  | nil => exact absurd he hn
  | cons y bs ih =>
    rw [placeBlocks_cons] at he
    by_cases hy : e ∈ (if y.ok && !m.any (fun e => e.1 == y.seq) then m ++ [(y.seq, y.data)] else m)
    · split at hy
      · rename_i hok
        rcases List.mem_append.mp hy with h | h
        · exact absurd h hn
        · exact ⟨y, List.mem_cons_self, (Bool.and_eq_true _ _ ▸ hok).1, List.mem_singleton.mp h⟩
      · exact absurd hy hn
    · obtain ⟨x, hx, h⟩ := ih _ he hy
      exact ⟨x, List.mem_cons_of_mem _ hx, h⟩

end

/-! ## A frame received -/

/-- A symbol marks whether its values are erased; the blocks stand. -/
theorem foldl_takeSymbol (b : Bough) (symbols : List (List Int)) (s : State) :
    let l := (symbols.foldl (fun t xs => takeSymbol b xs t) s).links[b]
    l.rxErased.length = s.links[b].rxErased.length + symbols.length ∧ l.rxBlocks = s.links[b].rxBlocks
      ∧ l.ackFailed = s.links[b].ackFailed := by
  induction symbols generalizing s with
  | nil => exact ⟨rfl, rfl, rfl⟩
  | cons xs symbols ih =>
    obtain ⟨h1, h2, h3⟩ := ih (takeSymbol b xs s)
    refine ⟨h1.trans ?_, h2.trans ?_, h3.trans ?_⟩ <;> simp [takeSymbol]
    omega

theorem noteBurst_link (b : Bough) (s : State) :
    (noteBurst b s).links[b].rxErased = s.links[b].rxErased ∧ (noteBurst b s).links[b].rxBlocks = s.links[b].rxBlocks
      ∧ (noteBurst b s).links[b].ackFailed = s.links[b].ackFailed := by
  unfold noteBurst
  dsimp only
  split <;> simp

/-- The state in which the port decides on the frame's blocks: the symbols have been taken. -/
def symbolsTaken (b : Bough) (symbols : List (List Int)) (s : State) : State :=
  let s := symbols.foldl (fun t xs => takeSymbol b xs t) ((noteVrx b s).onLink b (fun l => { l with rxErased := [] }))
  if s.links[b].rxErased.any id then noteBurst b s else s

theorem symbolsTaken_link (b : Bough) (symbols : List (List Int)) (s : State) :
    (symbolsTaken b symbols s).links[b].rxErased.length = symbols.length
      ∧ (symbolsTaken b symbols s).links[b].rxBlocks = s.links[b].rxBlocks
      ∧ (symbolsTaken b symbols s).links[b].ackFailed = s.links[b].ackFailed := by
  have hv : (noteVrx b s).links = s.links := (noteVrx_changes (w₀ := allBut .modems) (.refl _ s) b).same
  obtain ⟨h1, h2, h3⟩ := foldl_takeSymbol b symbols ((noteVrx b s).onLink b (fun l => { l with rxErased := [] }))
  simp only [State.onLink_links, modAt_get, hv, List.length_nil, Nat.zero_add] at h1 h2 h3
  unfold symbolsTaken
  dsimp only
  generalize List.foldl _ _ symbols = t at h1 h2 h3 ⊢
  split
  · obtain ⟨e1, e2, e3⟩ := noteBurst_link b t
    rw [e1, e2, e3]
    exact ⟨h1, h2, h3⟩
  · exact ⟨h1, h2, h3⟩

theorem exec_modemFrameReceived (b : Bough) (symbols : List (List Int)) (blocks : List RxBlock) (s : State) :
    exec (.modemFrameReceived b symbols true blocks) s = .next ((symbolsTaken b symbols s).onLink b fun l =>
      { l with rxBlocks := placeBlocks l.rxBlocks blocks, ackFailed := (blocks.filter (fun x => !x.ok)).map (·.seq) }) := rfl

/-! ## Blocks sent again (R205) -/

/-- The failed blocks that may be sent once more, each with its attempt counted. -/
def sentAgain (failed : List Nat) (l : PortLink) : List SentBlock :=
  ((l.txBlocks.filter (fun x => failed.contains x.seq)).filter (fun x => decide (x.attempts < 4))).map
    (fun x => { x with attempts := x.attempts + 1 })

theorem selectiveAckReceived_next (b : Bough) (failed : List Nat) (s : State) :
    ∃ t, exec (.selectiveAckReceived b failed) s = .next t ∧ t.links[b].txBlocks = sentAgain failed s.links[b]
      ∧ t.links[b].transmitting = false
      ∧ t.ports[b].retx = min 255 (s.ports[b].retx + (sentAgain failed s.links[b]).length) := by
  show ∃ t, execSelectiveAckReceived b failed s = .next t ∧ _
  unfold execSelectiveAckReceived
  dsimp only
  generalize hu : List.foldl _ s _ = u
  have hp : u.ports = s.ports := by
    rw [← hu]
    exact (Kept.foldl (w := allBut .ports) _ _ (.refl _ s) fun t x h => abandonBlock_changes h b x.attempts).same
  refine ⟨_, rfl, ?_, ?_, ?_⟩
  · simp [sentAgain]
  · simp
  · simp [hp, sentAgain]

/-! ## Frames that start (R52, R209) -/

/-- Modem 0 to 7 sends at its bough. -/
theorem exec_modemFrameTransmit (b : Bough) (symbols built : Nat) (blocks : List TxBlock) (m : Medium) (s : State) :
    exec (.modemFrameTransmit b.castSucc symbols built blocks m) s = .next (startFrame b symbols built blocks s) := by
  have h : ∀ b : Bough, allBoughs.find? (fun c => c.val == b.castSucc.val) = some b := by decide
  show execModemFrameTransmit b.castSucc symbols built blocks m s = _
  unfold execModemFrameTransmit
  rw [h b]

theorem startFrame_link (b : Bough) (symbols built : Nat) (blocks : List TxBlock) (s : State) :
    let l := (startFrame b symbols built blocks s).links[b]
    l.transmitting = (decide (symbols ≤ 128) && decide (symbols ≤ built) && pilotIn s b)
      ∧ l.txWaiting = !l.transmitting ∧ (s.links[b].resend = true → l.txBlocks = s.links[b].txBlocks) := by
  unfold startFrame
  dsimp only
  simp only [State.onLink_links, modAt_get]
  refine ⟨rfl, trivial, fun h => ?_⟩
  rw [h]
  rfl

theorem contend_busy (e : CnpFrame) (s : State) : (contend e .busy s).1 = false := rfl

/-- A canopy frame starts only once it is built and while the link runs, and one that contends not on a busy line. -/
theorem startCanopyFrame_canopy (symbols built : Nat) (m : Medium) (s : State) :
    let t := startCanopyFrame symbols built m s
    (t.canopy.transmitting = true → symbols ≤ 128 ∧ symbols ≤ built ∧ s.canopy.role ≠ 0)
      ∧ ∀ e, nextOut s = some e → contends s e = true → m = .busy → t.canopy.transmitting = false := by
  unfold startCanopyFrame
  dsimp only
  split
  · exact ⟨fun h => absurd h Bool.false_ne_true, fun _ _ _ _ => rfl⟩
  · rename_i hr
    have hready : symbols ≤ 128 ∧ symbols ≤ built ∧ s.canopy.role ≠ 0 := by simpa [and_assoc] using hr
    refine ⟨fun _ => hready, fun e he hc hm => ?_⟩
    rw [show nextOut { s with canopy.txSymbols := min built 128 } = some e from he]
    dsimp only
    rw [if_pos (show contends { s with canopy.txSymbols := min built 128 } e = true from hc), hm]
    exact contend_busy _ _

theorem exec_modemFrameTransmit_canopy (symbols built : Nat) (blocks : List TxBlock) (m : Medium) (s : State) :
    exec (.modemFrameTransmit 8 symbols built blocks m) s = .next (startCanopyFrame symbols built m s) := rfl

/-- Settles O23: the blocks placed by induction over the frame, the frames sent by what lets them start. -/
theorem modemFrames : Obligations.ModemFrames := by
  refine ⟨fun s b symbols blocks => ⟨?_, ?_⟩, fun s b failed => ?_, fun s b symbols built blocks m => ?_,
    fun s symbols built blocks m => ?_⟩
  · obtain ⟨herased, hblocks, hack⟩ := symbolsTaken_link b symbols s
    exact ⟨symbolsTaken b symbols s, rfl, hblocks, hack, herased⟩
  · obtain ⟨-, hblocks, -⟩ := symbolsTaken_link b symbols s
    refine ⟨_, exec_modemFrameReceived b symbols blocks s, ?_⟩
    simp only [State.onLink_links, modAt_get, hblocks]
    exact ⟨trivial, fun x hx => placeBlocks_keeps _ _ hx, fun x hx hok => placeBlocks_fills _ _ hx hok,
      fun e he hn => placeBlocks_new _ _ he hn⟩
  · obtain ⟨t, ht, hblocks, htx, hretx⟩ := selectiveAckReceived_next b failed s
    exact ⟨t, ht, hblocks, htx, hblocks ▸ hretx⟩
  · obtain ⟨hgo, hwait, hres⟩ := startFrame_link b symbols built blocks s
    exact ⟨_, exec_modemFrameTransmit b symbols built blocks m s, hgo, hwait, rfl, hres⟩
  · obtain ⟨hgo, hbusy⟩ := startCanopyFrame_canopy symbols built m s
    exact ⟨_, exec_modemFrameTransmit_canopy symbols built blocks m s,
      (startCanopyFrame_changes (w₀ := allBut .modems) (.refl _ s) symbols built m).same, hgo, hbusy⟩

end Sys2Proof.Safety
end

section
/-! SUPPORT. Frames of commands: how a command's answer is put together from the frames of the operations that it calls,
and what an update of one part of the state may change. -/

set_option Elab.async false

namespace Sys2Proof.Safety

open Sys2Proof.Machine

/-! ## Answers -/

section
variable {w : Nat} {s : State}

theorem KeptR.ite {a b : Res} {c : Prop} [Decidable c] (h : c → KeptR w s a) (k : ¬c → KeptR w s b) :
    KeptR w s (if c then a else b) := by
  split
  · exact h ‹_›
  · exact k ‹_›

theorem KeptR.mono {v : Nat} {a : Res} (h : KeptR v s a) (hs : within v w = true) : KeptR w s a :=
  fun t e => (h t e).mono hs

/-- A command's frame from the state s is one from any state before it. -/
theorem KeptR.after {v : Nat} {t : State} {a : Res} (h : Kept w s t) (k : KeptR v t a) (hs : within v w = true) :
    KeptR w s a := fun u e => h.trans (k u e) hs

/-- A command that answers the state itself changes nothing. -/
theorem KeptR.same : KeptR w s (.next s) := .next (.refl w s)

end

/-! ## Updates of one part -/

section
variable {w : Nat} {s t : State} (h : Kept w s t)
include h

theorem setFree_changes (x : Nat) (hw : within (parts [.free]) w = true := by decide) :
    Kept w s { t with freeCount := x } :=
  h.trans (v := parts [.free]) (fun p hp => by cases p <;> first | rfl | exact absurd hp (by decide)) hw

theorem setTrunk_changes (x : Trunk) (hw : within (parts [.trunk]) w = true := by decide) :
    Kept w s { t with trunk := x } :=
  h.trans (v := parts [.trunk]) (fun p hp => by cases p <;> first | rfl | exact absurd hp (by decide)) hw

theorem setLattice_changes (x : Lattice) (hw : within (parts [.lattice]) w = true := by decide) :
    Kept w s { t with lat := x } :=
  h.trans (v := parts [.lattice]) (fun p hp => by cases p <;> first | rfl | exact absurd hp (by decide)) hw

theorem setCrypto_changes (x : Crypto) (hw : within (parts [.crypto]) w = true := by decide) :
    Kept w s { t with crypto := x } :=
  h.trans (v := parts [.crypto]) (fun p hp => by cases p <;> first | rfl | exact absurd hp (by decide)) hw

theorem setSupply_changes (x : Supply) (hw : within (parts [.supply]) w = true := by decide) :
    Kept w s { t with supply := x } :=
  h.trans (v := parts [.supply]) (fun p hp => by cases p <;> first | rfl | exact absurd hp (by decide)) hw

theorem setStart_changes (x : Start) (hw : within (parts [.start]) w = true := by decide) :
    Kept w s { t with start := x } :=
  h.trans (v := parts [.start]) (fun p hp => by cases p <;> first | rfl | exact absurd hp (by decide)) hw

theorem setHeartwood_changes (x : Bil) (hw : within (parts [.heartwood]) w = true := by decide) :
    Kept w s { t with bil := x } :=
  h.trans (v := parts [.heartwood]) (fun p hp => by cases p <;> first | rfl | exact absurd hp (by decide)) hw

theorem setLoads_changes (x : Vector AuxCh 32) (hw : within (parts [.loads]) w = true := by decide) :
    Kept w s { t with aux := x } :=
  h.trans (v := parts [.loads]) (fun p hp => by cases p <;> first | rfl | exact absurd hp (by decide)) hw

theorem setLoadDev_changes (x : AuxDev) (hw : within (parts [.loadDev]) w = true := by decide) :
    Kept w s { t with auxDev := x } :=
  h.trans (v := parts [.loadDev]) (fun p hp => by cases p <;> first | rfl | exact absurd hp (by decide)) hw

theorem setKeys_changes (x : KeyDev) (hw : within (parts [.keys]) w = true := by decide) :
    Kept w s { t with key := x } :=
  h.trans (v := parts [.keys]) (fun p hp => by cases p <;> first | rfl | exact absurd hp (by decide)) hw

theorem setRecorder_changes (x : Log) (hw : within (parts [.recorder]) w = true := by decide) :
    Kept w s { t with log := x } :=
  h.trans (v := parts [.recorder]) (fun p hp => by cases p <;> first | rfl | exact absurd hp (by decide)) hw

theorem setUpdate_changes (x : Machine.Upd) (hw : within (parts [.update]) w = true := by decide) :
    Kept w s { t with upd := x } :=
  h.trans (v := parts [.update]) (fun p hp => by cases p <;> first | rfl | exact absurd hp (by decide)) hw

theorem setBackup_changes (x : Backup) (hw : within (parts [.backup]) w = true := by decide) :
    Kept w s { t with bak := x } :=
  h.trans (v := parts [.backup]) (fun p hp => by cases p <;> first | rfl | exact absurd hp (by decide)) hw

theorem setFlash_changes (x : Flash) (hw : within (parts [.flash]) w = true := by decide) :
    Kept w s { t with nv.flash := x } :=
  h.trans (v := parts [.flash]) (fun p hp => by cases p <;> first | rfl | exact absurd hp (by decide)) hw

/-- The tag's own state, its mirror left alone. -/
theorem setTag_changes (x : Tag) (hm : x.mirror = t.tag.mirror) (hw : within (parts [.tag]) w = true := by decide) :
    Kept w s { t with tag := x } :=
  h.trans (v := parts [.tag]) (fun p hp => by cases p <;> first | rfl | exact hm | exact absurd hp (by decide)) hw

/-- The memory block's own state, its cells left alone. -/
theorem setMemory_changes (x : Mem) (hm : x.cells = t.mem.cells) (hw : within (parts [.memory]) w = true := by decide) :
    Kept w s { t with mem := x } :=
  h.trans (v := parts [.memory]) (fun p hp => by cases p <;> first | rfl | exact hm | exact absurd hp (by decide)) hw

/-- Registers of the command queue. -/
theorem setCommands_changes (cq : List (List Byte)) (accepted dropped lastReason : Nat)
    (hw : within (parts [.commands]) w = true := by decide) :
    Kept w s { t with host.cq := cq, host.accepted := accepted, host.dropped := dropped, host.lastReason := lastReason } :=
  h.trans (v := parts [.commands]) (fun p hp => by cases p <;> first | rfl | exact absurd hp (by decide)) hw

/-- The messages of the event queue. -/
theorem setEvents_changes (eq : List Msg) (hw : within (parts [.events]) w = true := by decide) :
    Kept w s { t with host.eq := eq } :=
  h.trans (v := parts [.events]) (fun p hp => by cases p <;> first | rfl | exact absurd hp (by decide)) hw

/-- The counters and the test of the host link. -/
theorem setLink_changes (badOp cut : Nat) (running retry csLow : Bool) (hw : within (parts [.link]) w = true := by decide) :
    Kept w s { t with host.badOp := badOp, host.cut := cut, host.bistRunning := running, host.bistRetry := retry,
                      host.csLow := csLow } :=
  h.trans (v := parts [.link]) (fun p hp => by cases p <;> first | rfl | exact absurd hp (by decide)) hw

end

end Sys2Proof.Safety
end

section
/-! SUPPORT. Frames of the host's commands to the sessions, the ledger and the safety block (R234, R291). -/

set_option Elab.async false

namespace Sys2Proof.Safety

open Sys2Proof.Machine

/-! ## Sessions -/

theorem sesAuthAccept_frame (h : CmdHdr) (remote : Bool) (amount : Int) (expiry : Nat) (ident : List Byte) :
    Changes [.free, .events, .ports, .modems, .association, .sessions, .powerLinks, .sessionDev, .safety, .loads,
      .display, .memory, .cells, .recorder] (.sesAuthAccept h remote amount expiry ident) := fun s =>
  KeptR.ite (fun _ => .fault _) fun _ => onSesHdr_keeps (.refl _ s) _ _ fun _ => .next (authAccept_changes (.refl _ s) _ _ _ _ _)

theorem sesAuthRefuse_frame (h : CmdHdr) (ident : List Byte) :
    Changes [.free, .events, .ports, .modems, .association, .sessions, .powerLinks, .sessionDev, .safety, .billed,
      .heartwood, .loads, .display, .memory, .cells, .recorder, .flash] (.sesAuthRefuse h ident) := fun s =>
  KeptR.ite (fun _ => .fault _) fun _ => onSesHdr_keeps (.refl _ s) _ _ fun _ => .next (authRefuse_changes (.refl _ s) _ _ _)

theorem sesIdent_frame (h : CmdHdr) (credential : List Byte) :
    Changes [.free, .events, .ports, .modems, .association, .sessions, .powerLinks, .sessionDev, .safety, .loads,
      .display, .memory, .cells, .recorder] (.sesIdent h credential) := fun s => by
  refine KeptR.ite (fun _ => .fault _) fun _ => onSesHdr_keeps (.refl _ s) _ _ fun b => ?_
  split
  · exact .next (sesAnswer_changes (.refl _ s) _ _ _)
  · exact .next (offerIdent_changes (.refl _ s) _ _)
  · exact .next (offerIdent_changes (.refl _ s) _ _)
  · exact .next (authResult_changes (.refl _ s) _ _ _ _)

theorem sesStop_frame (h : CmdHdr) :
    Changes [.free, .events, .ports, .modems, .association, .sessions, .powerLinks, .safety, .billed, .heartwood,
      .loads, .display, .memory, .cells, .recorder, .flash] (.sesStop h) := fun s => by
  refine onSesHdr_keeps (.refl _ s) _ _ fun b => ?_
  split
  case h_5 => exact .next (stopSession_changes (onSes_changes (.refl _ s) _ _) _ _)
  all_goals exact .next (sesAnswer_changes (.refl _ s) _ _ _)

theorem sesGrant_frame (h : CmdHdr) (amount : Int) (expiry : Nat) :
    Changes [.events, .sessions, .recorder] (.sesGrant h amount expiry) := fun s =>
  onSesHdr_keeps (.refl _ s) _ _ fun _ => KeptR.ite
    (fun _ => .next (sesAnswer_changes (onSes_changes (.refl _ s) _ _) _ _ _))
    (fun _ => .next (sesAnswer_changes (.refl _ s) _ _ _))

theorem sesCeiling_frame (h : CmdHdr) (watts validity : Nat) :
    Changes [.events, .ports, .modems, .association, .sessions, .powerLinks, .safety, .recorder]
      (.sesCeiling h watts validity) := fun s =>
  KeptR.ite (fun _ => .fault _) fun _ => onSesHdr_keeps (.refl _ s) _ _ fun _ => .next (sesAnswer_changes
    (withRequest_changes (.refl _ s) _ _ fun _ hu => onSesL_changes hu _ _) _ _ _)

/-! ## Credit records -/

theorem sesCreditAdd_frame (h : CmdHdr) (digest : List Byte) (amount : Int) :
    Changes [.free, .events, .sessions, .sessionDev, .memory, .cells, .recorder, .flash]
      (.sesCreditAdd h digest amount) := fun s => by
  show KeptR _ s (onRecord h digest s (addCredit h amount))
  exact onRecord_keeps (.refl _ s) _ _ _ fun _ _ _ hu => addCredit_changes hu _ _ _ _

theorem sesCreditSet_frame (h : CmdHdr) (digest : List Byte) (amount : Int) :
    Changes [.free, .events, .sessions, .sessionDev, .memory, .cells, .recorder, .flash]
      (.sesCreditSet h digest amount) := fun s => by
  show KeptR _ s (execSesCreditSet h digest amount s)
  unfold execSesCreditSet
  exact onRecord_keeps (.refl _ s) _ _ _ fun _ _ _ hu => noteCut_changes (putCredit_changes hu _ _ _ _ _) _ _

theorem sesCreditCreate_frame (h : CmdHdr) (digest : List Byte) (flags : Byte) (amount : Int) :
    Changes [.free, .events, .sessionDev, .memory, .cells, .recorder, .flash]
      (.sesCreditCreate h digest flags amount) := fun s => by
  have hl := lookup_changes (.refl (parts [.free, .events, .sessionDev, .memory, .cells, .recorder, .flash]) s) (padTo 8 digest)
  show KeptR _ s (execSesCreditCreate h digest flags amount s)
  unfold execSesCreditCreate
  dsimp only
  split
  · rename_i e
    exact .next (sesAnswer_changes (.ofPair e hl) _ _ _)
  · rename_i e
    have hi := insertRecord_changes (.ofPair e hl) (mkRecord (padTo 8 digest) (clampBalance amount) (flags ||| 1) 0)
    split
    · rename_i e'
      exact .next (sesAnswer_changes (journal_changes (.ofPair e' hi) _) _ _ _)
    · rename_i e'
      exact .next (sesAnswer_changes (.ofPair e' hi) _ _ _)

theorem sesCreditDelete_frame (h : CmdHdr) (digest : List Byte) :
    Changes [.free, .events, .sessionDev, .memory, .cells, .recorder, .flash] (.sesCreditDelete h digest) := fun s => by
  show KeptR _ s (execSesCreditDelete h digest s)
  unfold execSesCreditDelete
  refine onRecord_keeps (.refl _ s) _ _ _ fun _ _ _ hu => ?_
  split
  · exact sesAnswer_changes hu _ _ _
  · exact sesAnswer_changes (journal_changes (putSlot_changes hu _ _) _) _ _ _

theorem sesCreditSetFlags_frame (h : CmdHdr) (digest : List Byte) (flags : Byte) :
    Changes [.free, .events, .powerLinks, .sessionDev, .memory, .cells, .recorder, .flash]
      (.sesCreditSetFlags h digest flags) := fun s => by
  show KeptR _ s (execSesCreditSetFlags h digest flags s)
  unfold execSesCreditSetFlags
  refine onRecord_keeps (.refl _ s) _ _ _ fun _ _ _ hu => sesAnswer_changes (.foldl _ _ ?_ fun _ _ hv => ?_) _ _ _
  · exact journal_changes (putSlot_changes hu _ _) _
  · split
    · exact hv
    · exact powerRequest_changes hv _

theorem sesLedgerLoadMerge_frame (h : CmdHdr) (count : Nat) :
    Changes [.free, .events, .bulk, .sessionDev, .memory, .cells, .recorder, .flash] (.sesLedgerLoadMerge h count) := fun s => by
  show KeptR _ s (execSesLedgerLoadMerge h count s)
  unfold execSesLedgerLoadMerge
  refine KeptR.ite (fun _ => .fault _) fun _ => ?_
  dsimp only
  refine .next (loadAnswer_changes (loadAll_changes ?_ _ _ fun _ _ _ hu => mergeOne_changes hu _ _) _ _ _)
  split
  · exact .refl _ s
  · exact compact_changes (.refl _ s)

theorem sesLedgerLoadReplace_frame (h : CmdHdr) (count : Nat) :
    Changes [.free, .events, .bulk, .sessionDev, .memory, .cells, .recorder, .flash] (.sesLedgerLoadReplace h count) := fun s => by
  show KeptR _ s (execSesLedgerLoadReplace h count s)
  unfold execSesLedgerLoadReplace
  refine KeptR.ite (fun _ => .fault _) fun _ => KeptR.ite (fun _ => ?_) fun _ => ?_
  · exact .next (loadAnswer_changes (.refl _ s) _ _ _)
  · dsimp only
    exact .next (loadAnswer_changes (compact_changes (loadAll_changes (emptyBank_changes (.refl _ s)) _ _
      fun _ _ _ hu => replaceOne_changes hu _ _)) _ _ _)

/-! ## The safety block -/

theorem safClear_frame (h : CmdHdr) (mask : Byte) :
    Changes [.free, .events, .coils, .safety, .loads, .recorder] (.safClear h mask) := fun s => by
  show KeptR _ s (execSafClear h mask s)
  unfold execSafClear
  exact onHdr_keeps (.refl _ s) _ _ fun _ => .next (answer_changes (clearLatches_changes (.refl _ s) _ _) _ _ _ _)

theorem safHoldSet_frame (h : CmdHdr) :
    Changes [.free, .events, .ports, .modems, .association, .sessions, .powerLinks, .safety, .billed, .heartwood,
      .loads, .display, .memory, .cells, .recorder, .flash] (.safHoldSet h) := fun s => by
  show KeptR _ s (execSafHoldSet h s)
  unfold execSafHoldSet
  refine onHdr_keeps (.refl _ s) _ _ fun _ => .next (answer_changes (holdSession_changes ?_ _ _) _ _ _ _)
  exact onSaf_changes_view (.refl _ s) _ _ (.of fun _ => rfl)

theorem safHoldRelease_frame (h : CmdHdr) :
    Changes [.events, .ports, .modems, .association, .safety, .recorder] (.safHoldRelease h) := fun s => by
  show KeptR _ s (execSafHoldRelease h s)
  unfold execSafHoldRelease
  refine onHdr_keeps (.refl _ s) _ _ fun _ => .next (answer_changes (driveOutput_changes ?_ _) _ _ _ _)
  exact onSaf_changes_view (.refl _ s) _ _ (.of fun _ => rfl)

end Sys2Proof.Safety
end

section
/-! SUPPORT. Frames of the host's commands to sampling, the energy engine, the heartwood, the load channels and the canopy
link (R339, R380, R432, R465, R525). -/

set_option Elab.async false

namespace Sys2Proof.Safety

open Sys2Proof.Machine

/-! ## Sampling and energy -/

theorem mtrCal_frame (h : CmdHdr) (mask : BitVec 24) (n ref : Nat) (raw : Bool) :
    Changes [.events, .sampling, .recorder] (.mtrCal h mask n ref raw) := fun s => by
  show KeptR _ s (execMtrCal h mask n ref raw s)
  unfold execMtrCal
  refine onHdr_keeps (.refl _ s) _ _ fun b => KeptR.ite (fun _ => .fault _) fun _ => KeptR.ite (fun _ => ?_) fun _ => ?_
  · exact mtrAnswer_keeps (.refl _ s) _ _ _
  · exact .next (onMtr_changes (.refl _ s) _ _)

theorem mtrSwapHot_frame (h : CmdHdr) (ch : Nat) :
    Changes [.events, .sampling, .recorder] (.mtrSwapHot h ch) := fun s => by
  show KeptR _ s (execMtrSwapHot h ch s)
  unfold execMtrSwapHot
  refine onHdr_keeps (.refl _ s) _ _ fun b => KeptR.ite (fun _ => .fault _) fun _ =>
    KeptR.ite (fun _ => mtrAnswer_keeps (.refl _ s) _ _ _) fun _ =>
    KeptR.ite (fun _ => mtrAnswer_keeps (.refl _ s) _ _ _) fun _ =>
    KeptR.ite (fun _ => mtrAnswer_keeps (.refl _ s) _ _ _) fun _ => ?_
  exact .next (startFit_changes (.refl _ s) _ _ _)

theorem mtrSwapReturn_frame (h : CmdHdr) (ch : Nat) :
    Changes [.events, .sampling, .recorder] (.mtrSwapReturn h ch) := fun s => by
  show KeptR _ s (execMtrSwapReturn h ch s)
  unfold execMtrSwapReturn
  refine onHdr_keeps (.refl _ s) _ _ fun b => KeptR.ite (fun _ => .fault _) fun _ =>
    KeptR.ite (fun _ => mtrAnswer_keeps (.refl _ s) _ _ _) fun _ =>
    KeptR.ite (fun _ => mtrAnswer_keeps (.refl _ s) _ _ _) fun _ => ?_
  exact .next (onMtr_changes (.refl _ s) _ _)

theorem mtrSwapAbort_frame (h : CmdHdr) (ch : Nat) :
    Changes [.events, .sampling, .recorder] (.mtrSwapAbort h ch) := fun s => by
  show KeptR _ s (execMtrSwapAbort h ch s)
  unfold execMtrSwapAbort
  refine onHdr_keeps (.refl _ s) _ _ fun b => KeptR.ite (fun _ => .fault _) fun _ =>
    KeptR.ite (fun _ => ?_) fun _ => KeptR.ite (fun _ => ?_) fun _ => ?_
  · exact mtrAnswer_keeps (idleReserve_changes (fitAnswer_changes (.refl _ s) _ _) _) _ _ _
  · exact mtrAnswer_keeps (onMtr_changes (fitAnswer_changes (.refl _ s) _ _) _ _) _ _ _
  · exact mtrAnswer_keeps (.refl _ s) _ _ _

theorem mtrSwapReadmit_frame (h : CmdHdr) (ch : Nat) :
    Changes [.events, .sampling, .recorder] (.mtrSwapReadmit h ch) := fun s => by
  show KeptR _ s (execMtrSwapReadmit h ch s)
  unfold execMtrSwapReadmit
  refine onHdr_keeps (.refl _ s) _ _ fun b => KeptR.ite (fun _ => .fault _) fun _ =>
    KeptR.ite (fun _ => mtrAnswer_keeps (.refl _ s) _ _ _) fun _ => KeptR.ite (fun _ => ?_) fun _ => ?_
  · exact mtrAnswer_keeps (onMtr_changes (.refl _ s) _ _) _ _ _
  · exact mtrAnswer_keeps (onMtr_changes (.refl _ s) _ _) _ _ _

theorem nrgRead_frame (h : CmdHdr) : Changes [.energy] (.nrgRead h) := fun s => by
  show KeptR _ s (execNrgRead h s)
  unfold execNrgRead
  exact onHdr_keeps (.refl _ s) _ _ fun _ => .next (onNrg_changes (.refl _ s) _ _)

/-! ## The heartwood -/

theorem bilTimeSet_frame (h : CmdHdr) (utc : BitVec 32) (offset : Byte) :
    Changes [.free, .pages, .commits, .events, .billed, .heartwood, .recorder, .backup, .flash]
      (.bilTimeSet h utc offset) := fun s => by
  show KeptR _ s (execBilTimeSet h utc offset s)
  unfold execBilTimeSet
  dsimp only
  refine .next (answer_changes (.ite (fun _ => hostSetTime_changes (.ite (fun _ => ?_) fun _ => ?_) _) fun _ => ?_) _ _ _ _)
  · exact .refl _ s
  · exact setOffset_changes (.refl _ s) _
  · exact .refl _ s

theorem bilReadAck_frame (h : CmdHdr) (no : Nat) :
    Changes [.events, .heartwood, .recorder] (.bilReadAck h no) := fun s => by
  show KeptR _ s (execBilReadAck h no s)
  unfold execBilReadAck
  split
  · exact .next (answer_changes (setHeartwood_changes (.refl _ s) _) _ _ _ _)
  · exact .next (answer_changes (.refl _ s) _ _ _ _)

theorem bilReadNow_frame (h : CmdHdr) :
    Changes [.free, .events, .billed, .heartwood, .recorder, .flash] (.bilReadNow h) := fun s => by
  show KeptR _ s (execBilReadNow h s)
  unfold execBilReadNow
  refine onHdr_keeps (.refl _ s) _ _ fun b => KeptR.ite (fun _ => ?_) fun _ => KeptR.ite (fun _ => ?_) fun _ => ?_
  · exact .next (answer_changes (.refl _ s) _ _ _ _)
  · exact .next (answer_changes (free_changes (.refl _ s) 8) _ _ _ _)
  · exact .next (answer_changes (signReading_changes (onBil_changes (.refl _ s) _ _) _ _) _ _ _ _)

theorem bilInfo_frame (h : CmdHdr) : Changes [.events, .recorder] (.bilInfo h) := fun s => by
  show KeptR _ s (execBilInfo h s)
  unfold execBilInfo
  exact .next (answer_changes (.refl _ s) _ _ _ _)

theorem bilReadGet_frame (h : CmdHdr) (first count : Nat) :
    Changes [.events, .bulk, .recorder] (.bilReadGet h first count) := fun s => by
  show KeptR _ s (execBilReadGet h first count s)
  unfold execBilReadGet
  refine KeptR.ite (fun _ => .next (answer_changes (.refl _ s) _ _ _ _)) fun _ => ?_
  split
  · exact .next (answer_changes (.refl _ s) _ _ _ _)
  · exact .next (answer_changes (bulkOut_changes (.refl _ s) _ _) _ _ _ _)

/-! ## Load channels and canopy -/

theorem auxSet_frame (h : CmdHdr) (mask : BitVec 32) (duty : Nat) :
    Changes [.events, .loads, .recorder] (.auxSet h mask duty) := fun s => by
  show KeptR _ s (execAuxSet h mask duty s)
  unfold execAuxSet
  dsimp only
  refine .next (answer_changes (.ite (fun _ => .foldl _ _ (.refl _ s) fun _ _ hu => ?_) fun _ => .refl _ s) _ _ _ _)
  exact onAux_changes hu _ _

theorem auxClear_frame (h : CmdHdr) (mask : BitVec 32) :
    Changes [.free, .events, .loads, .recorder] (.auxClear h mask) := fun s => by
  show KeptR _ s (execAuxClear h mask s)
  unfold execAuxClear
  exact .next (answer_changes (.foldl _ _ (.refl _ s) fun _ _ hu => auxDrive_changes (onAux_changes hu _ _) _) _ _ _ _)

theorem cnpSend_frame (h : CmdHdr) (dst cls : Nat) (data : List Byte) :
    Changes [.events, .canopy, .recorder] (.cnpSend h dst cls data) := fun s => by
  show KeptR _ s (execCnpSend h dst cls data s)
  unfold execCnpSend
  refine KeptR.ite (fun _ => ?_) fun _ => KeptR.ite (fun _ => ?_) fun _ => KeptR.ite (fun _ => ?_) fun _ => ?_
  · exact .next (answer_changes (.refl _ s) _ _ _ _)
  · exact .next (answer_changes (.refl _ s) _ _ _ _)
  · exact .next (answer_changes (sendMsg_changes (.refl _ s) _ _ _ _ _) _ _ _ _)
  · exact .next (sendMsg_changes (.refl _ s) _ _ _ _ _)

end Sys2Proof.Safety
end

section
/-! SUPPORT. Frames of the host's commands to the service tag, the keys, the memories, the recorder and the update (R556,
R567, R605, R664, R688). -/

set_option Elab.async false

namespace Sys2Proof.Safety

open Sys2Proof.Machine

/-! ## The service tag and the keys -/

theorem tagFlush_frame (h : CmdHdr) (fin : FlushEnd) :
    Changes [.free, .events, .tag, .mirror, .recorder, .tagMem, .stored] (.tagFlush h fin) := fun s => by
  have hdone : Kept (parts [.free, .events, .tag, .mirror, .recorder, .tagMem, .stored]) s
      (answer 0x0B04 255 h.tag (leN 1 0) ((markedPages s).foldl (fun t p => flushPage p t) s)) :=
    answer_changes (.foldl _ _ (.refl _ s) fun _ _ hu => flushPage_changes hu _) _ _ _ _
  show KeptR _ s (execTagFlush h fin s)
  unfold execTagFlush
  dsimp only
  split
  · exact .next hdone
  · refine KeptR.ite (fun _ => ?_) fun _ => .next hdone
    exact .next (answer_changes (abandonPage_changes (flushBelow_changes (.refl _ s) _) _) _ _ _ _)
  · refine KeptR.ite (fun _ => .next hdone) fun _ => KeptR.ite (fun _ => ?_) fun _ => ?_
    · exact .next (flushPage_changes (flushBelow_changes (.refl _ s) _) _)
    · exact .next (setTag_changes (cutWrite_changes (flushBelow_changes (.refl _ s) _) _ _ _) _ rfl)

theorem keyChallenge_frame (h : CmdHdr) : Changes [.free, .events, .keys, .recorder] (.keyChallenge h) := fun s => by
  show KeptR _ s (execKeyChallenge h s)
  unfold execKeyChallenge
  refine KeptR.ite (fun _ => ?_) fun _ => ?_
  · exact .next (answer_changes (.refl _ s) _ _ _ _)
  · refine .next (answer_changes ?_ _ _ _ _)
    exact setKeys_changes (t := { s with freeCount := s.freeCount + 1 }) (setFree_changes (.refl _ s) _) _

theorem keyLifecycle_frame (h : CmdHdr) (target : Nat) (nonce tag : List Byte) :
    Changes [.events, .keys, .recorder] (.keyLifecycle h target nonce tag) := fun s => by
  show KeptR _ s (execKeyLifecycle h target nonce tag s)
  unfold execKeyLifecycle
  refine KeptR.ite (fun _ => ?_) fun _ => ?_
  · exact .next (setKeys_changes (.refl _ s) _)
  · exact .next (answer_changes (setKeys_changes (.refl _ s) _) _ _ _ _)

theorem keyInstall_frame (h : CmdHdr) (slot : Nat) (nonce enc tag : List Byte) :
    Changes [.free, .events, .recorder, .backup] (.keyInstall h slot nonce enc tag) := fun s => by
  show KeptR _ s (execKeyInstall h slot nonce enc tag s)
  unfold execKeyInstall
  refine KeptR.ite (fun _ => ?_) fun _ => KeptR.ite (fun _ => ?_) fun _ => ?_
  · exact .next (answer_changes (.refl _ s) _ _ _ _)
  · exact .next (answer_changes (.refl _ s) _ _ _ _)
  · split
    · exact .next (answer_changes (.refl _ s) _ _ _ _)
    · refine .next (answer_changes (emit_changes ?_ _ _ _) _ _ _ _)
      exact setBackup_changes (t := { s with freeCount := s.freeCount + 1 }) (setFree_changes (.refl _ s) _) _

theorem keyInfo_frame (h : CmdHdr) : Changes [.events, .recorder] (.keyInfo h) := fun s => by
  show KeptR _ s (execKeyInfo h s)
  unfold execKeyInfo
  exact .next (answer_changes (.refl _ s) _ _ _ _)

/-! ## The memories -/

theorem memInjectMode0_frame (h : CmdHdr) (ramMacro : Nat) (data : BitVec 64) :
    Changes [.free, .events, .memory, .recorder] (.memInjectMode0 h ramMacro data) := fun s => by
  show KeptR _ s (execMemInjectMode0 h ramMacro data s)
  unfold execMemInjectMode0
  refine KeptR.ite (fun _ => .next (answer_changes (.refl _ s) _ _ _ _)) fun _ => ?_
  refine .next (answer_changes (injectedData_changes (outcome_changes ?_ _) _ _) _ _ _ _)
  exact setMemory_changes (.refl _ s) _ rfl

theorem memInjectMode1_frame (h : CmdHdr) : Changes [.events, .memory, .recorder] (.memInjectMode1 h) := fun s => by
  show KeptR _ s (execMemInjectMode1 h s)
  unfold execMemInjectMode1
  refine KeptR.ite (fun _ => ?_) fun _ => KeptR.ite (fun _ => .fault _) fun _ => ?_
  · exact .next (answer_changes (.refl _ s) _ _ _ _)
  · refine .next (answer_changes ?_ _ _ _ _)
    exact setMemory_changes (.refl _ s) _ rfl

theorem memMapGet_frame (h : CmdHdr) : Changes [.events, .bulk, .recorder] (.memMapGet h) := fun s => by
  show KeptR _ s (execMemMapGet h s)
  unfold execMemMapGet
  exact .next (answer_changes (bulkOut_changes (.refl _ s) _ _) _ _ _ _)

/-! ## The recorder -/

theorem logRead_frame (h : CmdHdr) (ring first limit : Nat) :
    Changes [.events, .bulk, .recorder] (.logRead h ring first limit) := fun s => by
  show KeptR _ s (execLogRead h ring first limit s)
  unfold execLogRead
  refine KeptR.ite (fun _ => logAnswer_keeps (.refl _ s) _ _ _) fun _ =>
    KeptR.ite (fun _ => logAnswer_keeps (.refl _ s) _ _ _) fun _ => ?_
  split
  · exact logAnswer_keeps (.refl _ s) _ _ _
  · split
    · exact logAnswer_keeps (.refl _ s) _ _ _
    · exact logAnswer_keeps (bulkOut_changes (.refl _ s) _ _) _ _ _

theorem logClear_frame (h : CmdHdr) (scope : Byte) :
    Changes [.events, .tag, .mirror, .recorder, .flash, .tagMem] (.logClear h scope) := fun s => by
  show KeptR _ s (execLogClear h scope s)
  unfold execLogClear
  refine KeptR.ite (fun _ => logAnswer_keeps (.refl _ s) _ _ _) fun _ =>
    KeptR.ite (fun _ => logAnswer_keeps (.refl _ s) _ _ _) fun _ => ?_
  extract_lets coded general gone top u v₁ f₁ v v₂ f₂ w l x
  have hu : Kept (parts [.events, .tag, .mirror, .recorder, .flash, .tagMem]) s u := emit_changes (.refl _ s) _ _ _
  have hv : Kept (parts [.events, .tag, .mirror, .recorder, .flash, .tagMem]) s v :=
    .ite (fun _ => setFlash_changes hu _) fun _ => hu
  have hw : Kept (parts [.events, .tag, .mirror, .recorder, .flash, .tagMem]) s w :=
    .ite (fun _ => setFlash_changes hv _) fun _ => hv
  have hx : Kept (parts [.events, .tag, .mirror, .recorder, .flash, .tagMem]) s x :=
    .ite (fun _ => summarise_changes (snapshotHists_changes (setRecorder_changes hw _))) fun _ => hw
  exact logAnswer_keeps hx _ _ _

theorem logDumpRead_frame (h : CmdHdr) (slot off : Nat) :
    Changes [.events, .bulk, .recorder] (.logDumpRead h slot off) := fun s => by
  show KeptR _ s (execLogDumpRead h slot off s)
  unfold execLogDumpRead
  refine KeptR.ite (fun _ => logAnswer_keeps (.refl _ s) _ _ _) fun _ =>
    KeptR.ite (fun _ => logAnswer_keeps (.refl _ s) _ _ _) fun _ => ?_
  dsimp only
  refine KeptR.ite (fun _ => logAnswer_keeps (.refl _ s) _ _ _) fun _ =>
    KeptR.ite (fun _ => logAnswer_keeps (.refl _ s) _ _ _) fun _ => ?_
  exact logAnswer_keeps (bulkOut_changes (.refl _ s) _ _) _ _ _

theorem logDumpAck_frame (h : CmdHdr) (mask : Byte) :
    Changes [.events, .recorder, .flash] (.logDumpAck h mask) := fun s => by
  show KeptR _ s (execLogDumpAck h mask s)
  unfold execLogDumpAck
  refine KeptR.ite (fun _ => logAnswer_keeps (.refl _ s) _ _ _) fun _ => ?_
  exact logAnswer_keeps (eraseSlots_changes (.refl _ s) _) _ _ _

theorem logHistGet_frame (h : CmdHdr) : Changes [.events, .bulk, .recorder] (.logHistGet h) := fun s => by
  show KeptR _ s (execLogHistGet h s)
  unfold execLogHistGet
  refine KeptR.ite (fun _ => logAnswer_keeps (.refl _ s) _ _ _) fun _ => ?_
  exact logAnswer_keeps (bulkOut_changes (.refl _ s) _ _) _ _ _

/-! ## The update -/

theorem updBegin_frame (h : CmdHdr) (header : List Byte) :
    Changes [.events, .recorder, .update, .flash] (.updBegin h header) := fun s => by
  show KeptR _ s (execUpdBegin h header s)
  unfold execUpdBegin
  refine KeptR.ite (fun _ => .next (updAnswer_changes (.refl _ s) _ _ _)) fun _ => ?_
  have hd := dropStage_changes (.refl (parts [.events, .recorder, .update, .flash]) s) 1
  dsimp only
  split
  · exact .next (updAnswer_changes (setUpdate_changes hd _) _ _ _)
  · exact .next (updAnswer_changes (setUpdate_changes (putArea_changes (dropStaged_changes hd _) _ _ _) _) _ _ _)

theorem updChunk_frame (h : CmdHdr) (off len : Nat) :
    Changes [.events, .bulk, .recorder, .update, .flash] (.updChunk h off len) := fun s => by
  have hb := bulkIn_changes (.refl (parts [.events, .bulk, .recorder, .update, .flash]) s) 0x8F02
  show KeptR _ s (execUpdChunk h off len s)
  unfold execUpdChunk
  refine KeptR.ite (fun _ => .next (updAnswer_changes (.refl _ s) _ _ _)) fun _ => ?_
  split
  · exact .next (updAnswer_changes hb _ _ _)
  · refine KeptR.ite (fun _ => .next (updAnswer_changes hb _ _ _)) fun _ => ?_
    dsimp only
    refine KeptR.ite (fun _ => ?_) fun _ => ?_
    · exact .next (updAnswer_changes (setUpdate_changes hb _) _ _ _)
    · exact .next (updAnswer_changes (putArea_changes (setUpdate_changes hb _) _ _ _) _ _ _)

theorem updEnd_frame (h : CmdHdr) : Changes [.events, .recorder, .update] (.updEnd h) := fun s => by
  show KeptR _ s (execUpdEnd h s)
  unfold execUpdEnd
  refine KeptR.ite (fun _ => .next (updAnswer_changes (.refl _ s) _ _ _)) fun _ => ?_
  split
  · exact .next (updAnswer_changes (.refl _ s) _ _ _)
  · refine KeptR.ite (fun _ => ?_) fun _ => ?_
    · exact .next (updAnswer_changes (setUpdate_changes (.refl _ s) _) _ _ _)
    · exact .next (updAnswer_changes (emit_changes (setUpdate_changes (.refl _ s) _) _ _ _) _ _ _)

theorem updSchedule_frame (h : CmdHdr) (mode value : Nat) :
    Changes [.events, .recorder, .update] (.updSchedule h mode value) := fun s => by
  show KeptR _ s (execUpdSchedule h mode value s)
  unfold execUpdSchedule
  refine KeptR.ite (fun _ => .next (updAnswer_changes (.refl _ s) _ _ _)) fun _ =>
    KeptR.ite (fun _ => .next (updAnswer_changes (.refl _ s) _ _ _)) fun _ =>
    KeptR.ite (fun _ => .next (updAnswer_changes (.refl _ s) _ _ _)) fun _ => ?_
  exact .next (updAnswer_changes (setUpdate_changes (.refl _ s) _) _ _ _)

theorem updConfirm_frame (h : CmdHdr) :
    Changes [.start, .events, .recorder, .update, .flash] (.updConfirm h) := fun s => by
  show KeptR _ s (execUpdConfirm h s)
  unfold execUpdConfirm
  refine KeptR.ite (fun _ => ?_) fun _ => .next (updAnswer_changes (.refl _ s) _ _ _)
  exact .next (updAnswer_changes (confirmUpdate_changes (.refl _ s) _) _ _ _)

theorem updAbort_frame (h : CmdHdr) :
    Changes [.trunk, .lattice, .crypto, .supply, .start, .pages, .commits, .events, .commands, .bulk, .link,
      .ports, .modems, .association, .sessions, .powerLinks, .sessionDev, .coils, .safety, .measures, .stops,
      .powerDie, .sampling, .energy, .averages, .quantities, .billed, .heartwood, .loads, .loadDev, .display, .canopy,
      .tag, .mirror, .keys, .memory, .cells, .recorder, .update, .flash] (.updAbort h) := fun s => by
  show KeptR _ s (execUpdAbort h s)
  unfold execUpdAbort
  refine KeptR.ite (fun _ => ?_) fun _ => ?_
  · exact .next (orderedReset_changes (updAnswer_changes (fallBack_changes (.refl _ s) _ _) _ _ _))
  · dsimp only
    have hd := dropStage_changes (.refl (parts [.trunk, .lattice, .crypto, .supply, .start, .pages, .commits, .events,
      .commands, .bulk, .link, .ports, .modems, .association, .sessions, .powerLinks, .sessionDev, .coils, .safety,
      .measures, .stops, .powerDie, .sampling, .energy, .averages, .quantities, .billed, .heartwood, .loads, .loadDev,
      .display, .canopy, .tag, .mirror, .keys, .memory, .cells, .recorder, .update, .flash]) s) 2
    exact .next (updAnswer_changes (.ite (fun _ => hd) fun _ => dropSchedule_changes hd) _ _ _)

end Sys2Proof.Safety
end

section
/-! SUPPORT. The frame of COMMAND_DISPATCH (R709, R735): whichever command the message spells, the queue of commands, the
fuses and the life cycle stand. -/

set_option Elab.async false

namespace Sys2Proof.Safety

open Sys2Proof.Machine

/-- Every part but the queue of commands, the fuses and the life cycle. -/
def hostParts : List Part :=
  [.free, .trunk, .lattice, .crypto, .supply, .start, .pages, .commits, .events, .commands, .bulk, .link,
    .ports, .modems, .association, .sessions, .powerLinks, .sessionDev, .coils, .safety, .measures, .stops,
    .powerDie, .sampling, .energy, .averages, .quantities, .billed, .heartwood, .loads, .loadDev, .display, .canopy,
    .tag, .mirror, .keys, .memory, .cells, .recorder, .update, .backup, .flash, .tagMem, .stored]

/-- A command's own frame lies within what a command of the host may change. -/
theorem Changes.host {ps : List Part} {i : Instr} (h : Changes ps i) (s : State)
    (hw : within (parts ps) (parts hostParts) = true := by decide) : KeptR (parts hostParts) s (exec i s) :=
  KeptR.mono (h s) hw

theorem hstRestart_frame (h : CmdHdr) (body : List Byte) :
    Changes [.trunk, .lattice, .crypto, .supply, .start, .pages, .commits, .events, .commands, .bulk, .link,
      .ports, .modems, .association, .sessions, .powerLinks, .sessionDev, .coils, .safety, .measures, .stops,
      .powerDie, .sampling, .energy, .averages, .quantities, .billed, .heartwood, .loads, .loadDev, .display, .canopy,
      .tag, .mirror, .keys, .memory, .cells, .recorder, .update] (.hstRestart h body) := fun s => by
  show KeptR _ s (execHstRestart h body s)
  unfold execHstRestart
  exact KeptR.ite (fun _ => .next (deviceReset_changes (.refl _ s))) fun _ => .same

theorem hstEcho_frame (h : CmdHdr) (body : List Byte) : Changes [.events, .recorder] (.hstEcho h body) := fun s => by
  show KeptR _ s (execHstEcho h body s)
  unfold execHstEcho
  exact .next (answer_changes (.refl _ s) _ _ _ _)

/-- The command that the host's message spells, by its own frame. -/
theorem runHost_keeps (i : Instr) (s : State) : KeptR (parts hostParts) s (runHost i s) := by
  cases i
  case sesAuthAccept h r a e x => exact (sesAuthAccept_frame h r a e x).host s
  case sesAuthRefuse h x => exact (sesAuthRefuse_frame h x).host s
  case sesIdent h x => exact (sesIdent_frame h x).host s
  case sesStop h => exact (sesStop_frame h).host s
  case sesGrant h a e => exact (sesGrant_frame h a e).host s
  case sesCeiling h w v => exact (sesCeiling_frame h w v).host s
  case sesCreditAdd h d a => exact (sesCreditAdd_frame h d a).host s
  case sesCreditSet h d a => exact (sesCreditSet_frame h d a).host s
  case sesCreditCreate h d f a => exact (sesCreditCreate_frame h d f a).host s
  case sesCreditDelete h d => exact (sesCreditDelete_frame h d).host s
  case sesCreditSetFlags h d f => exact (sesCreditSetFlags_frame h d f).host s
  case sesLedgerLoadMerge h n => exact (sesLedgerLoadMerge_frame h n).host s
  case sesLedgerLoadReplace h n => exact (sesLedgerLoadReplace_frame h n).host s
  case safClear h m => exact (safClear_frame h m).host s
  case safHoldSet h => exact (safHoldSet_frame h).host s
  case safHoldRelease h => exact (safHoldRelease_frame h).host s
  case mtrCal h m n r x => exact (mtrCal_frame h m n r x).host s
  case mtrSwapHot h c => exact (mtrSwapHot_frame h c).host s
  case mtrSwapReturn h c => exact (mtrSwapReturn_frame h c).host s
  case mtrSwapAbort h c => exact (mtrSwapAbort_frame h c).host s
  case mtrSwapReadmit h c => exact (mtrSwapReadmit_frame h c).host s
  case nrgRead h => exact (nrgRead_frame h).host s
  case bilTimeSet h u o => exact (bilTimeSet_frame h u o).host s
  case bilReadAck h n => exact (bilReadAck_frame h n).host s
  case bilReadNow h => exact (bilReadNow_frame h).host s
  case bilInfo h => exact (bilInfo_frame h).host s
  case bilReadGet h f n => exact (bilReadGet_frame h f n).host s
  case auxSet h m d => exact (auxSet_frame h m d).host s
  case auxClear h m => exact (auxClear_frame h m).host s
  case cnpSend h d c x => exact (cnpSend_frame h d c x).host s
  case tagFlush h f => exact (tagFlush_frame h f).host s
  case keyChallenge h => exact (keyChallenge_frame h).host s
  case keyLifecycle h t n g => exact (keyLifecycle_frame h t n g).host s
  case keyInstall h l n e g => exact (keyInstall_frame h l n e g).host s
  case keyInfo h => exact (keyInfo_frame h).host s
  case memInjectMode0 h m d => exact (memInjectMode0_frame h m d).host s
  case memInjectMode1 h => exact (memInjectMode1_frame h).host s
  case memMapGet h => exact (memMapGet_frame h).host s
  case logRead h r f l => exact (logRead_frame h r f l).host s
  case logClear h c => exact (logClear_frame h c).host s
  case logDumpRead h l o => exact (logDumpRead_frame h l o).host s
  case logDumpAck h m => exact (logDumpAck_frame h m).host s
  case logHistGet h => exact (logHistGet_frame h).host s
  case updBegin h x => exact (updBegin_frame h x).host s
  case updChunk h o l => exact (updChunk_frame h o l).host s
  case updEnd h => exact (updEnd_frame h).host s
  case updSchedule h m v => exact (updSchedule_frame h m v).host s
  case updConfirm h => exact (updConfirm_frame h).host s
  case updAbort h => exact (updAbort_frame h).host s
  case hstRestart h x => exact (hstRestart_frame h x).host s
  case hstEcho h x => exact (hstEcho_frame h x).host s
  all_goals exact .same

theorem commandDispatch_frame : Changes hostParts .commandDispatch := fun s => by
  show KeptR _ s (execCommandDispatch s)
  unfold execCommandDispatch
  split
  · exact .same
  · dsimp only
    split
    · refine .next (answer_changes ?_ _ _ _ _)
      exact setCommands_changes (.refl _ s) _ _ _ _
    · split
      · refine .after (t := { s with host.cq := _, host.accepted := _ }) ?_ (runHost_keeps _ _) (by decide)
        exact setCommands_changes (.refl _ s) _ _ _ _
      · exact .fault _

end Sys2Proof.Safety
end

section
/-! SUPPORT. Frames of the commands of the trunk, the lattice and the supplies (R28, R45, R86). -/

set_option Elab.async false

namespace Sys2Proof.Safety

open Sys2Proof.Machine

/-! ## The trunk -/

theorem latticeTick_frame (t : Tick) (busy : BitVec 23) :
    Changes [.free, .trunk, .lattice, .events, .link, .ports, .modems, .association, .sessions, .powerLinks, .coils,
      .safety, .sampling, .energy, .averages, .quantities, .billed, .heartwood, .loads, .display, .memory, .cells,
      .recorder, .flash] (.latticeTick t busy) := fun s => by
  show KeptR _ s (execLatticeTick t busy s)
  unfold execLatticeTick
  exact KeptR.ite (fun _ => .same) fun _ => .next
    (.foldl _ _ (latticeWork_changes (.refl _ s) _) fun u i hu => stopTick_changes hu _ _ _)

theorem trunkFlit_frame (seg : Fin 23) (offers : List Flit) (errs : BitVec 9) :
    Changes [.free, .trunk, .start, .events, .modems, .powerLinks, .powerDie, .heartwood, .display, .tag, .mirror,
      .memory, .cells, .recorder, .flash, .tagMem] (.trunkFlit seg offers errs) := fun s => by
  show KeptR _ s (execTrunkFlit seg offers errs s)
  have ht := takeOffers_changes (.refl (parts [.free, .trunk, .start, .events, .modems, .powerLinks, .powerDie,
    .heartwood, .display, .tag, .mirror, .memory, .cells, .recorder, .flash, .tagMem]) s) seg offers
  unfold execTrunkFlit
  dsimp only
  refine KeptR.ite (fun _ => .next ht) fun _ => ?_
  split
  · exact .next ht
  · split
    · exact .next ht
    · exact KeptR.ite (fun _ => .next (crossFlit_changes (onSeg_changes ht _ _) _ _ _))
        fun _ => .next (rejectFlit_changes (onSeg_changes ht _ _) _ _ _)

theorem laneFailed_frame (seg : Fin 23) :
    Changes [.free, .trunk, .events, .powerLinks, .powerDie, .heartwood, .display, .tag, .mirror, .memory, .recorder,
      .flash, .tagMem] (.laneFailed seg) := fun s => by
  show KeptR _ s (execLaneFailed seg s)
  unfold execLaneFailed
  refine KeptR.ite (fun _ => .same) fun _ => ?_
  extract_lets lane trunk t u mem v w g x
  have hu : Kept (parts [.free, .trunk, .events, .powerLinks, .powerDie, .heartwood, .display, .tag, .mirror, .memory,
      .recorder, .flash, .tagMem]) s u :=
    onSeg_changes (setTrunk_changes (.refl _ s) _) _ _
  have hx := emit_changes (onSeg_changes hu seg fun g => { g with half := true, halfSent := false }) 0x0103 255
    (leN 1 seg.val ++ leN 4 (lanesOf g.failed).length)
  refine KeptR.ite (fun _ => .next (emit_changes (onSeg_changes ?_ _ _) _ _ _)) fun _ =>
    .next (.ite (fun _ => fatalError_changes hx _ _ _) fun _ => hx)
  exact setMemory_changes hu _ rfl

theorem spareLanePattern_frame (bad : BitVec 23) :
    Changes [.trunk, .events, .memory, .recorder] (.spareLanePattern bad) := fun s => by
  show KeptR _ s (execSpareLanePattern bad s)
  unfold execSpareLanePattern
  refine KeptR.ite (fun _ => .same) fun _ => .next (.foldl _ _ (.refl _ s) fun u i hu => .ite (fun _ => ?_) fun _ => hu)
  refine emit_changes (onSeg_changes ?_ _ _) _ _ _
  exact setMemory_changes hu _ rfl

theorem paceCount_frame (counts : List Nat) : Changes [.trunk, .events, .recorder] (.paceCount counts) := fun s => by
  show KeptR _ s (execPaceCount counts s)
  unfold execPaceCount
  exact KeptR.ite (fun _ => .same) fun _ => .next (paceAlarm_changes (setTrunk_changes (.refl _ s) _) _)

theorem heartwoodMailboxWrite_frame (m : Mail) : Changes [.trunk] (.heartwoodMailboxWrite m) := fun s => by
  show KeptR _ s (execHeartwoodMailboxWrite m s)
  unfold execHeartwoodMailboxWrite
  exact KeptR.ite (fun _ => .same) fun _ => .next (admitMail_changes (setTrunk_changes (.refl _ s) _))

/-! ## The lattice clock -/

theorem crystalCheck_frame (count : Nat) : Changes [.lattice, .events, .recorder] (.crystalCheck count) := fun s => by
  show KeptR _ s (execCrystalCheck count s)
  unfold execCrystalCheck
  refine KeptR.ite (fun _ => .same) fun _ => KeptR.ite (fun _ => KeptR.ite (fun _ => .next ?_) fun _ => .next ?_)
    fun _ => .next (setLattice_changes (.refl _ s) _)
  · exact emit_changes (setLattice_changes (.refl _ s) _) _ _ _
  · exact setLattice_changes (.refl _ s) _

theorem pllLockLoss_frame : Changes [.lattice, .events, .recorder] .pllLockLoss := fun s => by
  show KeptR _ s (execPllLockLoss s)
  unfold execPllLockLoss
  exact KeptR.ite (fun _ => .same) fun _ => .next (emit_changes (setLattice_changes (.refl _ s) _) _ _ _)

theorem pllRecovery_frame : Changes [.lattice, .events, .recorder] .pllRecovery := fun s => by
  show KeptR _ s (execPllRecovery s)
  unfold execPllRecovery
  exact KeptR.ite (fun _ => .next (emit_changes (setLattice_changes (.refl _ s) _) _ _ _)) fun _ => .same

/-! ## The crypto engine -/

theorem cryptoRequest_frame (r : CryptoReq) : Changes [.free, .crypto, .events, .recorder] (.cryptoRequest r) := fun s => by
  show KeptR _ s (execCryptoRequest r s)
  unfold execCryptoRequest
  exact KeptR.ite (fun _ => .next (emit_changes (free_changes (.refl _ s) 32) _ _ _)) fun _ =>
    KeptR.ite (fun _ => .next (emit_changes (.refl _ s) _ _ _)) fun _ =>
      KeptR.ite (fun _ => .next (setCrypto_changes (.refl _ s) _)) fun _ => .next (setCrypto_changes (.refl _ s) _)

theorem cryptoOperationDone_frame : Changes [.free, .crypto] .cryptoOperationDone := fun s => by
  show KeptR _ s (execCryptoOperationDone s)
  unfold execCryptoOperationDone
  split
  · exact .same
  · rename_i r _
    have hf : Kept (parts [.free, .crypto]) s (if s.crypto.fellOp then (false, s) else finishCrypto r s).2 := by
      split
      · exact .refl _ s
      · exact finishCrypto_changes (.refl _ s) r
    dsimp only
    split
    · exact .next (setCrypto_changes hf _)
    · exact .next (setCrypto_changes hf _)

/-! ## The supplies -/

theorem supplyTrip_frame (id : Fin 13) (high : Bool) :
    Changes [.free, .trunk, .lattice, .crypto, .supply, .start, .pages, .commits, .events, .commands, .bulk, .link,
      .ports, .modems, .association, .sessions, .powerLinks, .sessionDev, .coils, .safety, .measures, .stops,
      .powerDie, .sampling, .energy, .averages, .quantities, .billed, .heartwood, .loads, .loadDev, .display, .canopy,
      .tag, .mirror, .keys, .memory, .cells, .recorder, .update, .backup, .flash] (.supplyTrip id high) := fun s => by
  show KeptR _ s (execSupplyTrip id high s)
  unfold execSupplyTrip
  refine KeptR.ite (fun _ => .same) fun _ => KeptR.ite (fun _ => .next ?_) fun _ =>
    KeptR.ite (fun _ => .next ?_) fun _ => .next ?_
  · exact tripInReset_changes (flagTrip_changes (setSupply_changes (.refl _ s) _) _ _) _
  · exact deviceReset_changes (flagTrip_changes (keepTrips_changes (setSupply_changes (.refl _ s) _)) _ _)
  · refine tripReaction_changes (emit_changes ?_ _ _ _) _
    exact setStart_changes (setSupply_changes (.refl _ s) _) _

/-- RSTOUTN given back once no supply of the reset's cause is tripped (R87). -/
theorem supplyRecovery_frame (id : Fin 13) :
    Changes [.free, .supply, .start, .events, .ports, .modems, .association, .safety, .stops, .powerDie, .loads,
      .loadDev, .recorder] (.supplyRecovery id) := fun s => by
  show KeptR _ s (execSupplyRecovery id s)
  unfold execSupplyRecovery
  extract_lets was absent supply t supply' start u v
  have ht : Kept (parts [.free, .supply, .start, .events, .ports, .modems, .association, .safety, .stops, .powerDie,
      .loads, .loadDev, .recorder]) s t := setSupply_changes (.refl _ s) _
  have hu := Kept.ite (c := t.supply.rstHold && t.supply.tripped == 0)
    (fun _ => setStart_changes (setSupply_changes ht { t.supply with rstHold := false })
      { t.start with rstOutN := t.start.rstOutN || decide (1 ≤ t.start.done) }) fun _ => ht
  have hv := Kept.ite (c := absent) (fun _ => groupWaits_changes hu id) fun _ => hu
  exact .next (.ite (fun _ => recoveryAction_changes hv _) fun _ => hv)

theorem backupSwitchover_frame (toVbak : Bool) : Changes [.backup] (.backupSwitchover toVbak) := fun s =>
  KeptR.next (setBackup_changes (.refl _ s) _)

theorem backupDomainLoss_frame : Changes [.backup] .backupDomainLoss := fun s => by
  show KeptR _ s (execBackupDomainLoss s)
  unfold execBackupDomainLoss
  exact KeptR.ite (fun _ => .next (setBackup_changes (.refl _ s) _)) fun _ => .same

theorem dieTempUpdate_frame (logic mixed power : Int) :
    Changes [.supply, .events, .recorder] (.dieTempUpdate logic mixed power) := fun s => by
  show KeptR _ s (execDieTempUpdate logic mixed power s)
  unfold execDieTempUpdate
  dsimp only
  split
  · refine KeptR.ite (fun _ => .next (emit_changes ?_ _ _ _)) fun _ => .next ?_
    · exact setSupply_changes (.refl _ s) _
    · exact setSupply_changes (.refl _ s) _
  · exact .next (setSupply_changes (.refl _ s) _)

theorem powerDieThermalShutdown_frame (temp : Int) :
    Changes [.free, .supply, .events, .ports, .modems, .association, .sessions, .powerLinks, .coils, .safety, .stops,
      .powerDie, .billed, .heartwood, .loads, .loadDev, .display, .canopy, .memory, .cells, .recorder, .flash]
      (.powerDieThermalShutdown temp) := fun s => by
  show KeptR _ s (execPowerDieThermalShutdown temp s)
  unfold execPowerDieThermalShutdown
  refine KeptR.ite (fun _ => .same) fun _ => .next (fsEnter_changes (emit_changes ?_ _ _ _) _ _)
  exact setLoadDev_changes (t := { s with supply.shutdown := true }) (setSupply_changes (.refl _ s) _) _

theorem powerDieThermalRecovery_frame :
    Changes [.free, .supply, .events, .ports, .modems, .association, .safety, .stops, .powerDie, .loads, .loadDev,
      .recorder] .powerDieThermalRecovery := fun s => by
  show KeptR _ s (execPowerDieThermalRecovery s)
  unfold execPowerDieThermalRecovery
  refine KeptR.ite (fun _ => .next (auxAll_changes (fsLeave_changes ?_ _))) fun _ => .same
  exact setLoadDev_changes (t := { s with supply.shutdown := false }) (setSupply_changes (.refl _ s) _) _

end Sys2Proof.Safety
end

section
/-! SUPPORT. Frames of the reset and of the start's phases (R116 to R126). -/

set_option Elab.async false

namespace Sys2Proof.Safety

open Sys2Proof.Machine

/-! ## The reset -/

theorem resetnLow_frame (ns : Nat) :
    Changes [.free, .trunk, .lattice, .crypto, .supply, .start, .pages, .commits, .events, .commands, .bulk, .link,
      .ports, .modems, .association, .sessions, .powerLinks, .sessionDev, .coils, .safety, .measures, .stops,
      .powerDie, .sampling, .energy, .averages, .quantities, .billed, .heartwood, .loads, .loadDev, .display, .canopy,
      .tag, .mirror, .keys, .memory, .cells, .recorder, .update] (.resetnLow ns) := fun s => by
  show KeptR _ s (execResetnLow ns s)
  unfold execResetnLow
  refine KeptR.ite (fun _ => .same) fun _ => KeptR.ite (fun _ => .next (deviceReset_changes (.refl _ s))) fun _ => .next ?_
  exact .ite (fun _ => deviceReset_changes (free_changes (.refl _ s) 1)) fun _ => free_changes (.refl _ s) 1

theorem resetRelease_frame (viohMv : Nat) (pllLocks : Bool) :
    Changes [.free, .lattice, .supply, .start, .events, .ports, .modems, .association, .safety, .loads, .tag, .mirror,
      .recorder, .tagMem] (.resetRelease viohMv pllLocks) := fun s => by
  show KeptR _ s (execResetRelease viohMv pllLocks s)
  unfold execResetRelease
  extract_lets start supply t u v
  have hu : Kept (parts [.free, .lattice, .supply, .start, .events, .ports, .modems, .association, .safety, .loads,
      .tag, .mirror, .recorder, .tagMem]) s u := by
    refine auxAll_changes ?_
    exact setSupply_changes (setStart_changes (.refl _ s) { s.start with released := true, mrstN := true }) _
  have hv := setLattice_changes hu { u.lat with running := true }
  refine KeptR.ite (fun _ => .same) fun _ => KeptR.ite (fun _ => .next (stopStart_changes hu _ _)) fun _ =>
    KeptR.ite (fun _ => .next (stopAfterTest_changes hv _ _)) fun _ => .next (driveAll_changes (phaseDone_changes ?_ _))
  exact setStart_changes hv _

/-! ## The phases -/

theorem phaseP1_frame (fusesOk : Bool) (readBackAt : Option (Fin 3)) :
    Changes [.trunk, .lattice, .crypto, .start, .events, .sampling, .canopy, .tag, .mirror, .memory, .recorder,
      .update, .backup, .flash, .tagMem] (.phaseP1 fusesOk readBackAt) := fun s => by
  show KeptR _ s (execPhaseP1 fusesOk readBackAt s)
  unfold execPhaseP1
  extract_lets start t start' u v
  have ht : Kept (parts [.trunk, .lattice, .crypto, .start, .events, .sampling, .canopy, .tag, .mirror, .memory,
    .recorder, .update, .backup, .flash, .tagMem]) s t := setStart_changes (.refl _ s) _
  have hu := setStart_changes ht { t.start with lifeValid := true }
  have hv := applyReserves_changes (applyMaps_changes hu)
  refine KeptR.ite (fun _ => .same) fun _ => KeptR.ite (fun _ => .next (stopAfterTest_changes ht _ _)) fun _ =>
    KeptR.ite (fun _ => .next (stopAfterTest_changes hu _ _)) fun _ => ?_
  split
  · exact .next (stopAfterTest_changes (tornStarts_changes hv _) _ _)
  · refine .next (phaseDone_changes (startIdentity_changes ?_) _)
    exact setCrypto_changes (reportBackup_changes (reportSupplies_changes (actOnState_changes
      (readDirectory_changes (writeStartEntry_changes hv _))))) _

theorem phaseP2_frame (t : PatternTest) :
    Changes [.start, .events, .bulk, .tag, .mirror, .memory, .cells, .recorder, .tagMem] (.phaseP2 t) := fun s => by
  show KeptR _ s (execPhaseP2 t s)
  have ht := patternTest_changes (.refl (parts [.start, .events, .bulk, .tag, .mirror, .memory, .cells, .recorder,
    .tagMem]) s) t
  unfold execPhaseP2
  split
  · refine .next (stopStart_changes ?_ _ _)
    exact setStart_changes ht _
  · exact KeptR.ite (fun _ => .same) fun _ =>
      .next (.ite (fun _ => stopStart_changes ht _ _) fun _ => phaseDone_changes ht _)

theorem phaseP3_frame :
    Changes [.free, .trunk, .start, .pages, .events, .ports, .modems, .association, .safety, .sampling, .energy,
      .heartwood, .loads, .loadDev, .display, .canopy, .tag, .mirror, .recorder, .backup, .tagMem, .stored]
      .phaseP3 := fun s => by
  show KeptR _ s (execPhaseP3 s)
  unfold execPhaseP3
  refine KeptR.ite (fun _ => .same) fun _ => KeptR.ite (fun _ => .next (stopStart_changes (.refl _ s) _ _)) fun _ => ?_
  dsimp only
  split
  · exact .next (phaseDone_changes (useSlot_changes (.refl _ s) _) _)
  · rename_i k _
    have he := emit_changes (.refl (parts [.free, .trunk, .start, .pages, .events, .ports, .modems, .association,
      .safety, .sampling, .energy, .heartwood, .loads, .loadDev, .display, .canopy, .tag, .mirror, .recorder, .backup,
      .tagMem, .stored]) s) 0x010E 255 (leN 1 (dirNow s).ronif ++ leN 1 k)
    split
    · exact .next (phaseDone_changes (useSlot_changes he _) _)
    · exact .next (stopStart_changes (emit_changes he _ _ _) _ _)

theorem phaseP4_frame :
    Changes [.start, .events, .tag, .mirror, .recorder, .update, .flash, .tagMem] .phaseP4 := fun s => by
  show KeptR _ s (execPhaseP4 s)
  unfold execPhaseP4
  refine KeptR.ite (fun _ => .same) fun _ => KeptR.ite (fun _ => .next (stopStart_changes (.refl _ s) _ _)) fun _ => ?_
  split
  · exact .next (stopStart_changes (.refl _ s) _ _)
  · refine .next (phaseDone_changes (startLog_changes (noteBank_changes ?_ _ _)) _)
    exact setStart_changes (.refl _ s) _

theorem phaseP5_frame :
    Changes [.free, .start, .events, .sessions, .sessionDev, .sampling, .energy, .billed, .heartwood, .display, .tag,
      .mirror, .recorder, .update, .backup, .flash, .tagMem] .phaseP5 := fun s => by
  show KeptR _ s (execPhaseP5 s)
  unfold execPhaseP5
  refine KeptR.ite (fun _ => .same) fun _ => KeptR.ite (fun _ => .next (stopStart_changes (.refl _ s) _ _)) fun _ => ?_
  split
  · exact .next (stopStart_changes (checkPage_changes (loadHeartwood_changes (.refl _ s) _) _ _) _ _)
  · exact .next (phaseDone_changes (startHeartwood_changes (checkPage_changes (noteBank_changes
      (loadHeartwood_changes (.refl _ s) _) _ _) _ _)) _)

theorem waitSupplyEnd_frame : Changes [.start] .waitSupplyEnd := fun s => by
  show KeptR _ s (execWaitSupplyEnd s)
  unfold execWaitSupplyEnd
  exact KeptR.ite (fun _ => .next (setStart_changes (.refl _ s) _)) fun _ => .same

/-- The ledger bank rebuilt touches the memory, the flash with its journal, the events and the flag that it is built. -/
theorem rebuildLedger_changes {w : Nat} {s t u : State} (h : Kept w s t) (e : rebuildLedger t = some u)
    (hw : within (parts [.start, .events, .memory, .cells, .recorder, .flash]) w = true := by decide) : Kept w s u := by
  refine h.trans (v := parts [.start, .events, .memory, .cells, .recorder, .flash]) ?_ hw
  unfold rebuildLedger at e
  dsimp only at e
  split at e
  · obtain rfl := Option.some.inj e
    intro p hp
    cases p <;> first | rfl | exact absurd hp (by decide)
  · split at e
    · obtain rfl := Option.some.inj e
      refine emit_changes ?_ _ _ _
      intro p hp
      cases p <;> first | rfl | exact absurd hp (by decide)
    · exact absurd e (by simp)

theorem phaseP6_frame (c : SelfCheck) :
    Changes [.free, .start, .events, .ports, .modems, .association, .sessions, .powerLinks, .coils, .safety, .stops,
      .powerDie, .billed, .heartwood, .loads, .display, .canopy, .tag, .mirror, .memory, .cells, .recorder, .flash,
      .tagMem] (.phaseP6 c) := fun s => by
  show KeptR _ s (execPhaseP6 c s)
  have hc := selfCheck_changes (.refl (parts [.free, .start, .events, .ports, .modems, .association, .sessions,
    .powerLinks, .coils, .safety, .stops, .powerDie, .billed, .heartwood, .loads, .display, .canopy, .tag, .mirror,
    .memory, .cells, .recorder, .flash, .tagMem]) s) c
  unfold execPhaseP6
  refine KeptR.ite (fun _ => .same) fun _ => KeptR.ite (fun _ => .next (stopStart_changes (.refl _ s) _ _)) fun _ =>
    KeptR.ite (fun _ => .next (setStart_changes (.refl _ s) _)) fun _ => ?_
  split
  · exact .next (stopStart_changes (checkEvent_changes (.refl _ s) _ _) _ _)
  · dsimp only
    split
    · exact .next (stopStart_changes hc _ _)
    · rename_i u hu
      exact .next (phaseDone_changes (.forBoughs _ (rebuildLedger_changes hc hu) fun b v hv => closeInterrupted_changes hv b) _)

theorem phaseP7_frame (startMs : Nat) :
    Changes [.free, .start, .events, .ports, .modems, .association, .safety, .loads, .canopy, .tag, .mirror,
      .recorder, .update, .tagMem] (.phaseP7 startMs) := fun s => by
  show KeptR _ s (execPhaseP7 startMs s)
  unfold execPhaseP7
  extract_lets start t u v x y z
  have hu : Kept (parts [.free, .start, .events, .ports, .modems, .association, .safety, .loads, .canopy, .tag,
      .mirror, .recorder, .update, .tagMem]) s u := emit_changes (setStart_changes (.refl _ s) _) _ _ _
  have hv := setLoads_changes hu (u.aux.map fun a => { a with fsFault := false, on := a.on && auxFailsafe u })
  have hx := auxAll_changes (auxEdge_changes (driveAll_changes (raiseIrq_changes hv 0)))
  have hz := clearSummary_changes (serviceRequest_changes
    (Kept.ite (c := cnpMayRun x = true) (fun _ => cnpListen_changes hx 1) fun _ => hx))
  exact KeptR.ite (fun _ => .same) fun _ => .next (.ite (fun _ => setUpdate_changes hz _) fun _ => hz)

end Sys2Proof.Safety
end

section
/-! SUPPORT. Frames of the commits and of the host port (R143, R700), and the frames of every command of the trunk, the
supplies, the start, the commits and the host port. -/

set_option Elab.async false

namespace Sys2Proof.Safety

open Sys2Proof.Machine

/-! ## The commits -/

theorem commitAccept_frame (req : BitVec 16) : Changes [.commits] (.commitAccept req) := fun s =>
  KeptR.next (acceptCommits_changes (.refl _ s) req)

theorem commitApply_frame (sub : Fin 16) :
    Changes [.free, .trunk, .pages, .commits, .events, .ports, .modems, .association, .sessions, .powerLinks,
      .safety, .billed, .heartwood, .loads, .loadDev, .display, .canopy, .tag, .mirror, .recorder, .backup, .flash,
      .tagMem] (.commitApply sub) := fun s => by
  show KeptR _ s (execCommitApply sub s)
  unfold execCommitApply
  exact KeptR.ite (fun _ => .same) fun _ => KeptR.ite (fun _ => .next (applyBilCommit_changes (.refl _ s))) fun _ =>
    .next (checked_changes (.refl _ s) _ _ fun u hu => applyDevice_changes hu _)

theorem commitBoughApply_frame (sub : Fin 16) (b : Bough) :
    Changes [.free, .pages, .commits, .events, .ports, .modems, .association, .sessions, .powerLinks, .safety,
      .sampling, .energy, .averages, .quantities, .billed, .heartwood, .loads, .recorder, .flash]
      (.commitBoughApply sub b) := fun s => by
  show KeptR _ s (execCommitBoughApply sub b s)
  unfold execCommitBoughApply
  exact KeptR.ite (fun _ => .same) fun _ =>
    .next (checked_changes (.refl _ s) _ _ fun u hu => applyBough_changes hu _ _)

/-! ## The host port -/

theorem registerWrite_frame (addr : Nat) (bytes : List Byte) :
    Changes [.pages, .commits, .events, .commands, .bulk, .link, .tag, .mirror, .recorder]
      (.registerWrite addr bytes) := fun s => by
  show KeptR _ s (execRegisterWrite addr bytes s)
  unfold execRegisterWrite
  dsimp only
  refine KeptR.ite (fun _ => .next (endTransaction_changes (queueCommand_changes (.refl _ s) _ _))) fun _ =>
    .next (endTransaction_changes (.ite (fun _ => ?_) fun _ => writeSpan_changes ?_ _ _))
  all_goals exact writeSpan_changes (.refl _ s) _ _

theorem commandQueueWrite_frame (addr : Nat) (bytes : List Byte) :
    Changes [.events, .commands, .link, .recorder] (.commandQueueWrite addr bytes) := fun s =>
  KeptR.next (endTransaction_changes
    (.ite (c := inQueueWindow addr = true) (fun _ => queueCommand_changes (.refl _ s) _ _) fun _ => .refl _ s))

theorem eventQueueRead_frame (addr len : Nat) : Changes [.events, .link] (.eventQueueRead addr len) := fun s => by
  have he := endTransaction_changes (.refl (parts [.events, .link]) s)
  show KeptR _ s (execEventQueueRead addr len s)
  unfold execEventQueueRead
  exact KeptR.ite (fun _ => .next (setEvents_changes he _)) fun _ => .next he

theorem hstIrqClear_frame (mask : BitVec 32) : Changes [.events, .link] (.hstIrqClear mask) := fun s =>
  KeptR.next (endTransaction_changes (clearIrq_changes (.refl _ s) mask))

theorem hstCommitDoneClear_frame (mask : BitVec 32) : Changes [.commits, .link] (.hstCommitDoneClear mask) := fun s =>
  KeptR.next (endTransaction_changes (clearDone_changes (.refl _ s) mask))

theorem bulkRelease_frame : Changes [.bulk, .link] .bulkRelease := fun s =>
  KeptR.next (endTransaction_changes (releaseBulk_changes (.refl _ s)))

theorem hostBadOpcode_frame : Changes [.link] .hostBadOpcode := fun s => by
  refine KeptR.next (endTransaction_changes (s := { s with host.badOp := min 255 (s.host.badOp + 1) }) ?_)
  exact setLink_changes (.refl _ s) _ _ _ _ _

theorem hcsnCut_frame : Changes [.link] .hcsnCut := fun s => by
  refine KeptR.next (endTransaction_changes (s := { s with host.cut := min 255 (s.host.cut + 1) }) ?_)
  exact setLink_changes (.refl _ s) _ _ _ _ _

theorem hcsnFalling_frame : Changes [.link, .memory] .hcsnFalling := fun s => by
  have hl (running retry : Bool) := setLink_changes (.refl (parts [.link, .memory]) s) s.host.badOp s.host.cut running
    retry true
  show KeptR _ s (execHcsnFalling s)
  unfold execHcsnFalling
  refine KeptR.ite (fun _ => .next ?_) fun _ => .next (hl _ _)
  exact setMemory_changes (hl false true) _ rfl

/-! ## All of them -/

/-- Settles O55: each command's frame is put together from the frames of the operations that it calls. -/
theorem framesOfTrunkSuppliesAndStart : Obligations.FramesOfTrunkSuppliesAndStart := by
  unfold Obligations.FramesOfTrunkSuppliesAndStart
  exact ⟨latticeTick_frame, trunkFlit_frame, laneFailed_frame, spareLanePattern_frame, paceCount_frame,
    crystalCheck_frame, cryptoRequest_frame, heartwoodMailboxWrite_frame, supplyTrip_frame,
    supplyRecovery_frame, backupSwitchover_frame, dieTempUpdate_frame, powerDieThermalShutdown_frame,
    resetnLow_frame, resetRelease_frame, phaseP1_frame, phaseP2_frame, phaseP6_frame, phaseP7_frame,
    commitAccept_frame, commitApply_frame, commitBoughApply_frame, registerWrite_frame,
    commandQueueWrite_frame, eventQueueRead_frame, hstIrqClear_frame, hstCommitDoneClear_frame,
    hstRestart_frame, hstEcho_frame, pllLockLoss_frame, pllRecovery_frame, cryptoOperationDone_frame,
    backupDomainLoss_frame, powerDieThermalRecovery_frame, phaseP3_frame, phaseP4_frame, phaseP5_frame,
    waitSupplyEnd_frame, commandDispatch_frame, hostBadOpcode_frame, hcsnCut_frame, bulkRelease_frame,
    hcsnFalling_frame⟩

end Sys2Proof.Safety
end

section
/-! SUPPORT. A STAGGER_RELEASE that ends the matching of its bough (R165, R172, R206): the counterexample to the claim that
every command of the trunk, the start, the host port, the ports, the sessions and the safety block has its own effect in
every state. -/

set_option Elab.async false

namespace Sys2Proof.Safety

open Sys2Proof.Machine

/-- A device in operation whose port 0 is held by stagger and still shows state F, though nothing forces mode F any
longer: port 0 is enabled, the heartbeats have begun and all the supplies are in range. -/
def heldInF : State :=
  { State.reset with
    start.done := 8
    safDev.fsCauses := []
    safDev.firstBeat := true
    supply.inRange := 0x1FFF
    host.applied := pagePuts State.reset.host.applied 0x2000 (leN 4 0x80000000)
    ports := State.reset.ports.set 0 { slac := 5 } }

/-- A stagger that ends at once drives the pilot of its bough anew. -/
theorem exec_staggerRelease {s : State} {b : Bough} (h : s.ports[b].slac = 5) :
    exec (.staggerRelease b) s
      = .next (driveOutput b (s.onPort b fun p => { p with slac := 1, awaits := none })) := by
  show execStaggerRelease b s = _
  simp only [execStaggerRelease, h, if_true]

/-- The pilot leaves mode F, so the port returns to state A: its window closes, and SLAC is 0 again. -/
theorem heldInF_released :
    (driveOutput 0 (heldInF.onPort 0 fun p => { p with slac := 1, awaits := none })).ports[(0 : Bough)].slac = 0 := by
  decide +kernel

/-- Refutes O59: in `heldInF` STAGGER_RELEASE completes, but the port leaves mode F with it and so returns to state A,
which ends its matching (SLAC 0), where the claim asks for SLAC 1. -/
theorem not_trunkToSafetyCommandsComplete : ¬ Obligations.TrunkToSafetyCommandsComplete := by
  unfold Obligations.TrunkToSafetyCommandsComplete
  intro h
  obtain ⟨-, -, -, ports, -⟩ := h
  obtain ⟨-, -, -, -, -, -, -, -, -, stagger, -⟩ := ports heldInF 0
  have held : heldInF.ports[(0 : Bough)].slac = 5 := by decide +kernel
  obtain ⟨t, ht, slac⟩ := stagger held
  rw [exec_staggerRelease held] at ht
  obtain rfl := Host.Outcome.next.inj ht
  exact absurd (heldInF_released.symm.trans slac) (by decide)

end Sys2Proof.Safety
end

section
/-! SUPPORT. Trips and recoveries of the supply monitors (R86, R87), the temperatures of the dies (R94, R95, R108) and the
reset pin (R117). -/

namespace Sys2Proof.Safety

open Sys2Proof.Machine

/-! ## The fail-safe of the power die -/

/-- The coils that are driven are part of what the protections look at. -/
theorem driven_of_view {f g : SafBough} (e : coilView g = coilView f) (k : Fin 3) :
    g.coils[k].driven = f.coils[k].driven := by
  have := congrArg (fun v => v.1[k]) e
  simpa only [coilView, Fin.getElem_fin, Vector.getElem_map] using this

/-- An operation that leaves the power die alone keeps its causes. -/
theorem mem_causes_of_kept {c : FsCause} {s t : State} (k : Kept (allBut .powerDie) s t) (h : c ∈ s.safDev.fsCauses) :
    c ∈ t.safDev.fsCauses := by
  have e : t.safDev = s.safDev := k.same
  rwa [e]

/-- A cause that begins is noted, whether it is new or not. -/
theorem mem_fsEnter_causes (c : FsCause) (code : Nat) (s : State) : c ∈ (fsEnter c code s).safDev.fsCauses := by
  unfold fsEnter
  dsimp only
  split
  · exact List.contains_iff_mem.mp ‹_›
  · refine mem_causes_of_kept (auxAll_changes (driveAll_changes (.ite (fun _ => .forBoughs _ (.refl _ _) fun b u hu => ?_)
      fun _ => tripAll_changes (.refl _ _) code))) ?_
    · exact faultSession_changes (openNow_changes (abandonClosing_changes hu _ _) _ _) _ _
    · split <;> simp

/-- A new cause with a trip code opens every coil. -/
theorem fsEnter_opens {c : FsCause} {code : Nat} {s : State} (h : c ∉ s.safDev.fsCauses) (hc : code ≠ 0) (b : Bough) :
    Opened (fsEnter c code s).saf[b] := by
  unfold fsEnter
  dsimp only
  rw [if_neg (mt List.contains_iff_mem.mp h), if_neg hc]
  exact opened_kept (auxAll_changes (driveAll_changes (.refl _ _))) (tripAll_opens _ _ b)

theorem fsEnter_supply (c : FsCause) (code : Nat) (s : State) : (fsEnter c code s).supply = s.supply :=
  (fsEnter_changes (w₀ := allBut .supply) (.refl _ s) c code).same

theorem fsEnter_auxDev (c : FsCause) (code : Nat) (s : State) : (fsEnter c code s).auxDev = s.auxDev :=
  (fsEnter_changes (w₀ := allBut .loadDev) (.refl _ s) c code).same

/-! ## SUPPLY_TRIP (R86, R87) -/

/-- The trip as the supply block notes it. -/
def noteTrip (id : Fin 13) (high : Bool) (s : State) : State :=
  { s with supply.tripped := s.supply.tripped ||| supplyBit id,
           supply.trippedHigh := if high then s.supply.trippedHigh ||| supplyBit id else s.supply.trippedHigh,
           supply.inRange := s.supply.inRange &&& ~~~supplyBit id,
           supply.lastTrip := id.val, supply.lastHigh := high }

/-- A trip that resets the device, as the supply block notes it. -/
def noteResetTrip (id : Fin 13) (s : State) : State :=
  { noteTrip id false s with supply.resetHeld := true, supply.rstHold := true }

/-- A trip while the reset is held; a low one of monitor 0 to 4 holds it too. -/
def holdReset (low : Bool) (s : State) : State :=
  { s with supply.resetHeld := s.supply.resetHeld || low, supply.rstHold := s.supply.rstHold || low }

/-- P6 waits for a supply of the power die that trips during its self-check. -/
def noteWait (id : Fin 13) (s : State) : State :=
  let wait := s.start.phase == 6 && decide (5 ≤ id.val) && (!s.start.waitSupply || s.start.waitFor != 0)
  { s with start.waitSupply := s.start.waitSupply || wait,
           start.waitFor := if wait then s.start.waitFor ||| supplyBit id else s.start.waitFor }

section
variable {s : State} {id : Fin 13} {high : Bool} (ht : s.supply.tripped.getLsbD id.val = false)
include ht

/-- In operation a low trip of monitor 0 to 4 resets the device. -/
theorem exec_supplyTrip_reset (hh : s.supply.resetHeld = false) (hr : s.start.released = true) (hid : id.val ≤ 4) :
    exec (.supplyTrip id false) s = .next (deviceReset (flagTrip id false (keepTrips (noteResetTrip id s)))) := by
  show execSupplyTrip id false s = _
  unfold execSupplyTrip
  rw [if_neg (Bool.eq_false_iff.mp ht), if_neg (by simp [hh, hr]), if_pos ⟨hid, rfl⟩]
  rfl

/-- Any other trip in operation is event 0x0109 and its reaction. -/
theorem exec_supplyTrip_running (hh : s.supply.resetHeld = false) (hr : s.start.released = true)
    (hid : id.val ≤ 4 → high = true) :
    exec (.supplyTrip id high) s = .next (tripReaction id (emit 0x0109 255 (leN 1 id.val ++ leN 1 (b2n high))
      (noteWait id (noteTrip id high s)))) := by
  show execSupplyTrip id high s = _
  unfold execSupplyTrip
  rw [if_neg (Bool.eq_false_iff.mp ht), if_neg (by simp [hh, hr]), if_neg fun h => by simp [hid h.1] at h]
  rfl

/-- While the reset is held, or before its release, a trip enters the flag. -/
theorem exec_supplyTrip_inReset (hr : s.supply.resetHeld = true ∨ s.start.released = false) :
    exec (.supplyTrip id high) s = .next (tripInReset id (flagTrip id high
      (holdReset (decide (id.val ≤ 4) && !high) (noteTrip id high s)))) := by
  show execSupplyTrip id high s = _
  unfold execSupplyTrip
  rw [if_neg (Bool.eq_false_iff.mp ht), if_pos (by simpa using hr)]
  rfl

end

/-- With no trip's record waiting to be written, no earlier trip is entered in the flag. -/
theorem keepTrips_none {s : State} (h : ∀ r ∈ s.log.held ++ s.log.queue, r.code ≠ 0x0109) : keepTrips s = s := by
  unfold keepTrips
  rw [List.filter_eq_nil_iff.mpr fun r hr => by simp [h r hr]]
  rfl

/-- A trip enters the flag of a backup domain that a supply holds up. -/
theorem flagTrip_held {s : State} (id : Fin 13) (high : Bool) (h : (s.bak.onVbak && s.bak.lost) = false) :
    flagTrip id high s = { s with
      bak.tripBits := s.bak.tripBits ||| supplyBit id,
      bak.highBits := if high then s.bak.highBits ||| supplyBit id else s.bak.highBits } :=
  if_neg (by simp [h])

/-- Trips of the logic supplies and of monitor 8 have no reaction. -/
theorem tripReaction_none {id : Fin 13} (h : id.val ≤ 4 ∨ id.val = 8) (s : State) : tripReaction id s = s := by
  unfold tripReaction
  split
  case h_8 => rfl
  all_goals omega

/-- The reaction to a trip of VPWR (R86). -/
theorem tripReaction_vpwr {id : Fin 13} (h : id.val = 5) (s : State) :
    tripReaction id s = fsEnter .vpwr 17 { s with auxDev.vpwrOff := true } := by
  obtain rfl : id = 5 := Fin.ext h
  rfl

/-- A low trip of monitor 0 to 4 in operation. -/
theorem supplyTrip_resets (s : State) (id : Fin 13) (ht : s.supply.tripped.getLsbD id.val = false)
    (hh : s.supply.resetHeld = false) (hr : s.start.released = true) (hid : id.val ≤ 4)
    (hb : (s.bak.onVbak && s.bak.lost) = false) (hl : ∀ r ∈ s.log.held ++ s.log.queue, r.code ≠ 0x0109) :
    Completes (.supplyTrip id false) s fun t =>
      t.supply.resetHeld = true ∧ t.supply.rstHold = true ∧ t.start = {} ∧ t.ports = Vector.replicate 8 {} ∧ t.nv = s.nv
        ∧ t.bak = { s.bak with tripBits := s.bak.tripBits ||| supplyBit id } := by
  refine ⟨_, exec_supplyTrip_reset ht hh hr hid, ?_⟩
  rw [keepTrips_none (s := noteResetTrip id s) hl, flagTrip_held (s := noteResetTrip id s) id false hb]
  exact ⟨rfl, rfl, rfl, rfl, rfl, rfl⟩

/-- A trip without a reaction is an event only. -/
theorem supplyTrip_reports (s : State) (id : Fin 13) (high : Bool) (ht : s.supply.tripped.getLsbD id.val = false)
    (hh : s.supply.resetHeld = false) (hr : s.start.released = true) (hid : id.val ≤ 4 ∨ id.val = 8)
    (hc : CanReport 0x0109 2 s) (hi : id.val ≤ 4 → high = true) :
    Completes (.supplyTrip id high) s fun t =>
      t.saf = s.saf ∧ t.ports = s.ports ∧ t.aux = s.aux ∧ t.bak = s.bak ∧ t.supply.lastTrip = id.val
        ∧ lastEvent t = some (0x0109, 255, 0, [BitVec.ofNat 8 id.val, BitVec.ofNat 8 (b2n high)]) := by
  refine ⟨_, exec_supplyTrip_running ht hh hr hi, ?_⟩
  rw [tripReaction_none hid]
  have hw : CanReport 0x0109 2 (noteWait id (noteTrip id high s)) := hc
  exact ⟨emit_saf _ _ _ _, emit_ports _ _ _ _, emit_aux _ _ _ _, emit_bak _ _ _ _,
    congrArg (·.lastTrip) (emit_supply _ _ _ _), emit_last _ _ _ hw⟩

/-- A trip of VPWR in operation. -/
theorem supplyTrip_opens (s : State) (id : Fin 13) (high : Bool) (ht : s.supply.tripped.getLsbD id.val = false)
    (hh : s.supply.resetHeld = false) (hr : s.start.released = true) (hid : id.val = 5) :
    Completes (.supplyTrip id high) s fun t =>
      t.auxDev.vpwrOff = true ∧ FsCause.vpwr ∈ t.safDev.fsCauses
        ∧ ∀ (b : Bough) (k : Fin 3), FsCause.vpwr ∉ s.safDev.fsCauses → t.saf[b].coils[k].driven = false := by
  refine ⟨_, exec_supplyTrip_running ht hh hr (by omega), ?_⟩
  rw [tripReaction_vpwr hid]
  refine ⟨?_, mem_fsEnter_causes _ _ _, fun b k h => ?_⟩
  · rw [fsEnter_auxDev]
  · refine (fsEnter_opens ?_ (by decide) b).1 k
    rw [emit_safDev]
    exact h

/-- A trip while the reset is held. -/
theorem supplyTrip_entersFlag (s : State) (id : Fin 13) (high : Bool) (ht : s.supply.tripped.getLsbD id.val = false)
    (hr : s.supply.resetHeld = true ∨ s.start.released = false) (hb : (s.bak.onVbak && s.bak.lost) = false) :
    Completes (.supplyTrip id high) s fun t =>
      t.bak.tripBits = s.bak.tripBits ||| supplyBit id
        ∧ t.bak.highBits = (if high then s.bak.highBits ||| supplyBit id else s.bak.highBits)
        ∧ t.supply.resetHeld = (s.supply.resetHeld || (decide (id.val ≤ 4) && !high)) := by
  refine ⟨_, exec_supplyTrip_inReset ht hr, ?_⟩
  rw [flagTrip_held (s := holdReset _ (noteTrip id high s)) id high hb]
  generalize hu : ({ holdReset _ _ with bak := _ } : State) = u
  have hbak : (tripInReset id u).bak = u.bak := (tripInReset_changes (w₀ := allBut .backup) (.refl _ u) id).same
  have hsup : (tripInReset id u).supply = u.supply := (tripInReset_changes (w₀ := allBut .supply) (.refl _ u) id).same
  rw [hbak, hsup, ← hu]
  exact ⟨rfl, rfl, rfl⟩

/-! ## SUPPLY_RECOVERY (R87) -/

/-- The monitor reads within range again. -/
def noteReturn (id : Fin 13) (s : State) : State :=
  { s with supply.tripped := s.supply.tripped &&& ~~~supplyBit id,
           supply.trippedHigh := s.supply.trippedHigh &&& ~~~supplyBit id,
           supply.inRange := s.supply.inRange ||| supplyBit id }

/-- RSTOUTN released once no supply is tripped. -/
def releaseRstOut (s : State) : State :=
  if s.supply.rstHold && s.supply.tripped == 0 then
    { s with supply.rstHold := false, start.rstOutN := s.start.rstOutN || decide (1 ≤ s.start.done) } else s

/-- What follows the recovery on the power die leaves the supply block alone. -/
theorem supplyRecovery_supply (id : Fin 13) (s : State) :
    Completes (.supplyRecovery id) s fun t => t.supply = (releaseRstOut (noteReturn id s)).supply := by
  refine ⟨_, rfl, Kept.same (p := .supply) (s := releaseRstOut (noteReturn id s)) ?_⟩
  have hg := Kept.ite (c := (!s.supply.inRange.getLsbD id.val) = true)
    (fun _ => groupWaits_changes (.refl (allBut .supply) (releaseRstOut (noteReturn id s))) id) fun _ => .refl _ _
  exact .ite (fun _ => recoveryAction_changes hg id) fun _ => hg

theorem releaseRstOut_others (s : State) :
    (releaseRstOut s).supply = { s.supply with rstHold := (releaseRstOut s).supply.rstHold } := by
  unfold releaseRstOut
  split <;> rfl

/-- RSTOUTN, held low, stays so exactly while a supply is tripped. -/
theorem releaseRstOut_rstHold {s : State} (h : s.supply.rstHold = true) :
    (releaseRstOut s).supply.rstHold = !(s.supply.tripped == 0) := by
  unfold releaseRstOut
  rw [h, Bool.true_and]
  split
  · rename_i h0
    rw [h0]
    rfl
  · rename_i h0
    rw [h, Bool.eq_false_iff.mpr h0]
    rfl

theorem supplyRecovery_returns (s : State) (id : Fin 13) : Completes (.supplyRecovery id) s fun t =>
    t.supply.tripped = s.supply.tripped &&& ~~~supplyBit id ∧ t.supply.inRange = s.supply.inRange ||| supplyBit id
      ∧ t.supply.resetHeld = s.supply.resetHeld
      ∧ (s.supply.rstHold = true → t.supply.rstHold = !(t.supply.tripped == 0)) := by
  obtain ⟨t, he, ht⟩ := supplyRecovery_supply id s
  refine ⟨t, he, ?_⟩
  beta_reduce
  rw [ht]
  have ho := releaseRstOut_others (noteReturn id s)
  have htr : (releaseRstOut (noteReturn id s)).supply.tripped = (noteReturn id s).supply.tripped := by rw [ho]
  refine ⟨htr, by rw [ho]; rfl, by rw [ho]; rfl, fun h => ?_⟩
  rw [htr]
  exact releaseRstOut_rstHold (s := noteReturn id s) h

/-! ## DIE_TEMP_UPDATE (R94, R108) -/

/-- The three temperatures taken over. -/
def takeTemps (l m p : Int) (s : State) : State := { s with supply.tLogic := l, supply.tMixed := m, supply.tPower := p }

/-- The lowest die at the level, with its temperature. -/
def hotDie (level l m p : Int) : Option (Nat × Int) :=
  if level ≤ l then some (0, l) else if level ≤ m then some (1, m) else if level ≤ p then some (2, p) else none

/-- All three dies have fallen 5 K below the level. -/
def allCool (level l m p : Int) : Bool :=
  decide (l ≤ level - 5) && decide (m ≤ level - 5) && decide (p ≤ level - 5)

/-- What DIE_TEMP_UPDATE answers once the temperatures are taken over: by the die at the level, if there is one. -/
def tempAnswer (cool : Bool) (u : State) : Option (Nat × Int) → Res
  | some (die, x) =>
    if bitOf u.sysTempWarn 31 && !u.supply.warned then
      .next (emit 0x010B 255 (leN 1 die ++ leI 4 x) { u with supply.warned := true })
    else .next u
  | none => .next { u with supply.warned := u.supply.warned && !cool }

theorem exec_dieTempUpdate (l m p : Int) (s : State) : exec (.dieTempUpdate l m p) s
    = tempAnswer (allCool (warnLevel s) l m p) (takeTemps l m p s) (hotDie (warnLevel s) l m p) := rfl

/-- Whatever the answer, only the warning and its event go beyond the temperatures. -/
theorem tempAnswer_next (cool : Bool) (u : State) (hot : Option (Nat × Int)) :
    ∃ t, tempAnswer cool u hot = .next t ∧ t.supply = { u.supply with warned := t.supply.warned }
      ∧ t.saf = u.saf ∧ t.aux = u.aux := by
  match hot with
  | none => exact ⟨_, rfl, rfl, rfl, rfl⟩
  | some (die, x) =>
    dsimp only [tempAnswer]
    split
    · refine ⟨_, rfl, ?_, emit_saf _ _ _ _, emit_aux _ _ _ _⟩
      rw [emit_supply]
    · exact ⟨_, rfl, rfl, rfl, rfl⟩

/-- A warning that has been given is not given again, and stands until all three dies are cool. -/
theorem tempAnswer_warned {u : State} (h : u.supply.warned = true) (hot : Option (Nat × Int)) :
    tempAnswer false u hot = .next u := by
  match hot with
  | none =>
    have e : ({ u with supply.warned := u.supply.warned && !false } : State) = u := by simp
    exact congrArg _ e
  | some (die, x) => exact if_neg (by simp [h])

theorem dieTempUpdate_takes (s : State) (l m p : Int) : Completes (.dieTempUpdate l m p) s fun t =>
    t.supply.tLogic = l ∧ t.supply.tMixed = m ∧ t.supply.tPower = p ∧ t.saf = s.saf ∧ t.aux = s.aux := by
  obtain ⟨t, ht, hs, hsaf, haux⟩ :=
    tempAnswer_next (allCool (warnLevel s) l m p) (takeTemps l m p s) (hotDie (warnLevel s) l m p)
  refine ⟨t, (exec_dieTempUpdate l m p s).trans ht, ?_⟩
  beta_reduce
  rw [hs]
  exact ⟨rfl, rfl, rfl, hsaf, haux⟩

/-- The warning names the logic die where that is at the level. -/
theorem dieTempUpdate_warns (s : State) (l m p : Int) (he : bitOf s.sysTempWarn 31 = true)
    (hw : s.supply.warned = false) (hl : warnLevel s ≤ l) (hc : CanReport 0x010B 5 s) :
    Completes (.dieTempUpdate l m p) s fun t =>
      lastEvent t = some (0x010B, 255, 0, 0 :: leI 4 l) ∧ t.supply.warned = true := by
  have hh : hotDie (warnLevel s) l m p = some (0, l) := if_pos hl
  have hr : bitOf (takeTemps l m p s).sysTempWarn 31 && !(takeTemps l m p s).supply.warned := by
    show (bitOf s.sysTempWarn 31 && !s.supply.warned) = true
    rw [he, hw]
    rfl
  have hc' : CanReport 0x010B 5 { takeTemps l m p s with supply.warned := true } := hc
  refine ⟨_, (exec_dieTempUpdate l m p s).trans ((congrArg _ hh).trans (if_pos hr)),
    emit_last _ _ _ hc' (hl := by simp [leI]), ?_⟩
  rw [emit_supply]

theorem dieTempUpdate_warnsOnce (s : State) (l m p : Int) (hw : s.supply.warned = true) (hl : warnLevel s - 5 < l) :
    Completes (.dieTempUpdate l m p) s fun t => t.supply.warned = true ∧ t.host.eq = s.host.eq := by
  have hc : allCool (warnLevel s) l m p = false := by
    unfold allCool
    rw [decide_eq_false (by omega), Bool.false_and, Bool.false_and]
  refine ⟨takeTemps l m p s, ?_, hw, rfl⟩
  rw [exec_dieTempUpdate, hc]
  exact tempAnswer_warned (u := takeTemps l m p s) hw _

/-! ## The power die's shutdown (R95) and the reset pin (R117) -/

theorem powerDieThermalShutdown_opens (s : State) (temp : Int) (h : s.supply.shutdown = false)
    (hf : FsCause.thermal ∉ s.safDev.fsCauses) :
    Completes (.powerDieThermalShutdown temp) s fun t =>
      t.supply.shutdown = true ∧ t.auxDev.thermalOff = true ∧ FsCause.thermal ∈ t.safDev.fsCauses
        ∧ ∀ (b : Bough) (k : Fin 3), t.saf[b].coils[k].driven = false := by
  refine ⟨_, if_neg (by simp [h]), ?_, ?_, mem_fsEnter_causes _ _ _, fun b k => ?_⟩
  · rw [fsEnter_supply, emit_supply]
  · rw [fsEnter_auxDev, emit_auxDev]
  · refine (fsEnter_opens ?_ (by decide) b).1 k
    rw [emit_safDev]
    exact hf

theorem powerDieThermalRecovery_ends (s : State) (h : s.supply.shutdown = true) :
    Completes .powerDieThermalRecovery s fun t =>
      t.supply.shutdown = false ∧ t.auxDev.thermalOff = false ∧ FsCause.thermal ∉ t.safDev.fsCauses
        ∧ ∀ (b : Bough) (k : Fin 3), t.saf[b].coils[k].driven = s.saf[b].coils[k].driven := by
  refine ⟨_, if_pos h, ?_⟩
  generalize hu : ({ s with supply.shutdown := _, auxDev.thermalOff := _ } : State) = u
  have hsup : (auxAll (fsLeave .thermal u)).supply = u.supply :=
    (auxAll_changes (fsLeave_changes (w₀ := allBut .supply) (.refl _ u) _)).same
  have hdev : (auxAll (fsLeave .thermal u)).auxDev = u.auxDev :=
    (auxAll_changes (fsLeave_changes (w₀ := allBut .loadDev) (.refl _ u) _)).same
  have hdie : (auxAll (fsLeave .thermal u)).safDev = (fsLeave .thermal u).safDev :=
    (auxAll_changes (w₀ := allBut .powerDie) (.refl _ (fsLeave .thermal u))).same
  have hcoils : Part.coils.same u (auxAll (fsLeave .thermal u)) :=
    (auxAll_changes (fsLeave_changes (w₀ := allBut .coils) (.refl _ u) _)).same
  have hcauses := (fsLeave_causes .thermal u).1
  refine ⟨by rw [hsup, ← hu], by rw [hdev, ← hu], by rw [hdie, hcauses]; simp, fun b k => ?_⟩
  have hsaf : u.saf = s.saf := by rw [← hu]
  rw [driven_of_view (coilView_get hcoils b) k, hsaf]

theorem resetnLow_resets (s : State) (ns : Nat) (h : 1000 ≤ ns) : Completes (.resetnLow ns) s fun t =>
    t.nv = s.nv ∧ t.bak = s.bak ∧ t.start = {} ∧ t.host = {} ∧ t.ports = Vector.replicate 8 {} :=
  ⟨deviceReset s, (if_neg (by omega)).trans (if_pos h), rfl, rfl, rfl, rfl, rfl⟩

theorem resetnLow_filtered (s : State) (ns : Nat) (h : ns < 100) : exec (.resetnLow ns) s = .next s := if_pos h

/-- Settles O16: each command by the branches of its own definition; the coils drop because a new fail-safe cause opens
every bough, and what the commands leave alone comes from the frames of the operations that they call. -/
theorem suppliesAndTemperatures : Obligations.SuppliesAndTemperatures := by
  unfold Obligations.SuppliesAndTemperatures
  refine ⟨⟨fun s id ht hh hr => ⟨?_, ?_, ?_⟩, ?_, supplyRecovery_returns⟩, dieTempUpdate_takes, dieTempUpdate_warns,
    dieTempUpdate_warnsOnce, powerDieThermalShutdown_opens, powerDieThermalRecovery_ends, fun s ns => ?_⟩
  · exact supplyTrip_resets s id ht hh hr
  · exact fun hid hc high hi => supplyTrip_reports s id high ht hh hr hid hc hi
  · exact fun hid high => supplyTrip_opens s id high ht hh hr hid
  · exact supplyTrip_entersFlag
  · exact ⟨resetnLow_resets s ns, resetnLow_filtered s ns⟩

end Sys2Proof.Safety
end

section
/-! SUPPORT. Updates of the association, the display, the canopy, the power die and the field map, and the frames of the
commands of the ports, the sessions and the safety block that write no byte memory (R165, R189, R213, R260, R273). -/

set_option Elab.async false

namespace Sys2Proof.Safety

open Sys2Proof.Machine

/-! ## Updates of one part -/

section
variable {w : Nat} {s t : State} (h : Kept w s t)
include h

theorem setAssociation_changes (x : Assoc) (hw : within (parts [.association]) w = true := by decide) :
    Kept w s { t with assoc := x } :=
  h.trans (v := parts [.association]) (fun p hp => by cases p <;> first | rfl | exact absurd hp (by decide)) hw

theorem setDisplay_changes (x : Lcd) (hw : within (parts [.display]) w = true := by decide) :
    Kept w s { t with lcd := x } :=
  h.trans (v := parts [.display]) (fun p hp => by cases p <;> first | rfl | exact absurd hp (by decide)) hw

theorem setCanopy_changes (x : Canopy) (hw : within (parts [.canopy]) w = true := by decide) :
    Kept w s { t with canopy := x } :=
  h.trans (v := parts [.canopy]) (fun p hp => by cases p <;> first | rfl | exact absurd hp (by decide)) hw

/-- The power die's own state, the causes of its fail-safe and the emergency stop left alone. -/
theorem setPowerDie_changes (x : SafDev) (hx : (x.fsCauses, x.stop) = (t.safDev.fsCauses, t.safDev.stop))
    (hw : within (parts [.powerDie]) w = true := by decide) : Kept w s { t with safDev := x } :=
  h.trans (v := parts [.powerDie]) (fun p hp => by cases p <;> first | rfl | exact hx | exact absurd hp (by decide)) hw

theorem setStops_changes (x : SafDev) (hw : within (parts [.stops, .powerDie]) w = true := by decide) :
    Kept w s { t with safDev := x } :=
  h.trans (v := parts [.stops, .powerDie]) (fun p hp => by cases p <;> first | rfl | exact absurd hp (by decide)) hw

theorem setFieldMap_changes (x : List (BitVec 32)) (hw : within (parts [.stored]) w = true := by decide) :
    Kept w s { t with nv.fieldMap := x } :=
  h.trans (v := parts [.stored]) (fun p hp => by cases p <;> first | rfl | exact absurd hp (by decide)) hw

end

/-! ## The pilot and the association -/

theorem pilotFaultProbe_frame (b : Bough) (mvs : List Int) :
    Changes [.events, .ports, .modems, .association, .safety, .recorder] (.pilotFaultProbe b mvs) := fun s => by
  show KeptR _ s (execPilotFaultProbe b mvs s)
  unfold execPilotFaultProbe
  refine KeptR.ite (fun _ => .same) fun _ => KeptR.ite (fun _ => .next ?_) fun _ => .next ?_
  · exact driveOutput_changes (onPort_changes (backToA_changes (onPort_changes (.refl _ s) _ _) _) _ _) _
  · exact onPort_changes (.refl _ s) _ _

theorem cmSlacParmReq_frame (mac runId : List Byte) (atten : Vector (Option Nat) 8) :
    Changes [.modems, .association] (.cmSlacParmReq mac runId atten) := fun s => by
  show KeptR _ s (execCmSlacParmReq mac runId atten s)
  unfold execCmSlacParmReq
  dsimp only
  split
  · exact .next (sendParmCnf_changes (onReq_changes (.refl _ s) _ _ _) _)
  · exact .next (setAssociation_changes (.refl _ s) _)

theorem cmStartAttenCharInd_frame (mac runId : List Byte) (atten : Vector (Option Nat) 8) :
    Changes [.ports, .association] (.cmStartAttenCharInd mac runId atten) := fun s => by
  show KeptR _ s (execCmStartAttenCharInd mac runId atten s)
  unfold execCmStartAttenCharInd
  split
  · exact .next (onPort_changes (onReq_changes (.refl _ s) _ _ _) _ _)
  · exact .same

theorem cmMnbcSoundInd_frame (mac runId : List Byte) (atten : Vector (Option Nat) 8) (erased : Vector Nat 8)
    (groups : Vector Nat 58) :
    Changes [.association] (.cmMnbcSoundInd mac runId atten erased groups) := fun s => by
  show KeptR _ s (execCmMnbcSoundInd mac runId atten erased groups s)
  unfold execCmMnbcSoundInd
  split
  · exact KeptR.ite (fun _ => .same) fun _ => .next (onReq_changes (.refl _ s) _ _ _)
  · exact .same

theorem soundingEnd_frame (mac runId : List Byte) :
    Changes [.events, .ports, .modems, .association, .recorder] (.soundingEnd mac runId) := fun s => by
  show KeptR _ s (execSoundingEnd mac runId s)
  unfold execSoundingEnd
  split
  · split
    · exact .same
    · refine KeptR.ite (fun _ => .same) fun _ => KeptR.ite (fun _ => .next ?_) fun _ => KeptR.ite (fun _ =>
        .next ?_) fun _ => .next ?_
      · exact releaseReq_changes (.refl _ s) _ _ _ _
      · exact releaseReq_changes (.refl _ s) _ _ _ _
      · exact reply_changes (onPort_changes (onReq_changes (.refl _ s) _ _ _) _ _) _ _
  · exact .same

theorem cmSlacMatchReq_frame (mac runId : List Byte) :
    Changes [.free, .events, .ports, .modems, .association, .safety, .recorder]
      (.cmSlacMatchReq mac runId) := fun s => by
  show KeptR _ s (execCmSlacMatchReq mac runId s)
  unfold execCmSlacMatchReq
  split
  · split
    · exact .next (.ite (fun _ => associate_changes (.refl _ s) _ _) fun _ => .refl _ s)
    · exact .same
  · exact .same

theorem cmValidateReq_frame (b : Bough) (count : Nat) : Changes [.modems] (.cmValidateReq b count) := fun s => by
  show KeptR _ s (execCmValidateReq b count s)
  unfold execCmValidateReq
  refine KeptR.ite (fun _ => .same) fun _ => KeptR.ite (fun _ => .next ?_) fun _ => .next ?_
  · exact onLink_changes (.refl _ s) _ _
  · exact reply_changes (.refl _ s) _ _

theorem validateCountEnd_frame (b : Bough) : Changes [.modems] (.validateCountEnd b) := fun s => by
  show KeptR _ s (execValidateCountEnd b s)
  unfold execValidateCountEnd
  exact KeptR.ite (fun _ => .same) fun _ => .next (onLink_changes (.refl _ s) _ _)

theorem slacWindowExpired_frame (b : Bough) :
    Changes [.events, .ports, .modems, .association, .safety, .recorder] (.slacWindowExpired b) := fun s => by
  show KeptR _ s (execSlacWindowExpired b s)
  unfold execSlacWindowExpired
  refine KeptR.ite (fun _ => .same) fun _ => .next (driveOutput_changes (emit_changes (onPort_changes ?_ _ _) _ _ _) _)
  exact closeWindow_changes (setAssociation_changes (.refl _ s) _) _

theorem staggerRelease_frame (b : Bough) :
    Changes [.events, .ports, .modems, .association, .safety, .recorder] (.staggerRelease b) := fun s => by
  show KeptR _ s (execStaggerRelease b s)
  unfold execStaggerRelease
  exact KeptR.ite (fun _ => .next (driveOutput_changes (onPort_changes (.refl _ s) _ _) _)) fun _ => .same

theorem decisionWindowEnd_frame :
    Changes [.events, .ports, .modems, .association, .safety, .recorder] .decisionWindowEnd := fun s => by
  show KeptR _ s (execDecisionWindowEnd s)
  unfold execDecisionWindowEnd
  refine .next (setAssociation_changes (.foldl _ _ (.foldl _ _ (.refl _ s) fun _ _ hu => ?_) fun _ _ hu => ?_) _)
  · exact assignReq_changes hu _ _
  · exact withholdReq_changes hu _ _ _

/-! ## The modem and the dialogue -/

theorem modemFrameReceived_frame (b : Bough) (symbols : List (List Int)) (fcOk : Bool) (blocks : List RxBlock) :
    Changes [.trunk, .events, .modems, .recorder] (.modemFrameReceived b symbols fcOk blocks) := fun s => by
  show KeptR _ s (execModemFrameReceived b symbols fcOk blocks s)
  unfold execModemFrameReceived
  extract_lets u v w bad
  have hv : Kept (parts [.trunk, .events, .modems, .recorder]) s v :=
    .foldl _ _ (onLink_changes (noteVrx_changes (.refl _ s) _) _ _) fun _ _ hu => takeSymbol_changes hu _ _
  have hw : Kept (parts [.trunk, .events, .modems, .recorder])
      s w := .ite (fun _ => noteBurst_changes hv _) fun _ => hv
  exact KeptR.ite (fun _ => .next hw) fun _ => .next (onLink_changes hw _ _)

theorem selectiveAckReceived_frame (b : Bough) (failed : List Nat) :
    Changes [.events, .ports, .modems, .recorder] (.selectiveAckReceived b failed) := fun s => by
  show KeptR _ s (execSelectiveAckReceived b failed s)
  unfold execSelectiveAckReceived
  refine .next (onLink_changes (onPort_changes (.foldl _ _ (.refl _ s) fun _ _ hu => ?_) _ _) _ _)
  exact abandonBlock_changes hu _ _

theorem seccDiscoveryReq_frame (b : Bough) (linkLocal : Bool) (udpPort : Nat) :
    Changes [.modems] (.seccDiscoveryReq b linkLocal udpPort) := fun s => by
  show KeptR _ s (execSeccDiscoveryReq b linkLocal udpPort s)
  unfold execSeccDiscoveryReq
  exact KeptR.ite (fun _ => onLinked_keeps (.refl _ s) _ _ fun _ hu => reply_changes hu _ _) fun _ => .same

theorem supportedAppProtocol_frame (b : Bough) (conn : Nat) (list : List Proto) (tlsAsked : Bool)
    (suites : List Cipher) :
    Changes [.events, .ports, .modems, .recorder] (.supportedAppProtocol b conn list tlsAsked suites) := fun s => by
  show KeptR _ s (execSupportedAppProtocol b conn list tlsAsked suites s)
  unfold execSupportedAppProtocol
  refine onLinked_keeps (.refl _ s) _ _ fun u hu => .ite (fun _ => hu) fun _ => ?_
  have hl := onLink_changes hu b fun l => { l with conn := some conn }
  dsimp only
  split
  · exact reply_changes hl _ _
  · exact reply_changes (emit_changes (onLink_changes (onPort_changes hl _ _) _ _) _ _ _) _ _

theorem cableCheckReq_frame (b : Bough) :
    Changes [.free, .events, .ports, .modems, .association, .sessions, .powerLinks, .safety, .loads, .display,
      .recorder] (.cableCheckReq b) := fun s => by
  show KeptR _ s (execCableCheckReq b s)
  unfold execCableCheckReq
  refine onLinked_keeps (.refl _ s) _ _ fun u hu => ?_
  extract_lets v r
  have hi := onSaf_changes_view hu b (fun f => { f with isolation := 0 }) (.of fun _ => rfl)
  have hv : Kept (parts [.free, .events, .ports, .modems, .association, .sessions, .powerLinks, .safety, .loads,
      .display, .recorder]) s v := .ite (fun _ => energise_changes hi _) fun _ => hu
  exact .ite (fun _ => respond_changes hv _ _) fun _ => respond_changes hv _ _

theorem certificateInstallationReq_frame (b : Bough) :
    Changes [.modems, .powerLinks] (.certificateInstallationReq b) := fun s => by
  show KeptR _ s (execCertificateInstallationReq b s)
  unfold execCertificateInstallationReq
  exact onLinked_keeps (.refl _ s) _ _ fun _ hu => .ite (fun _ => respond_changes hu _ _)
    fun _ => relayCertificate_changes hu _

/-! ## Sessions -/

theorem hostCeilingExpired_frame (b : Bough) :
    Changes [.events, .ports, .modems, .association, .sessions, .powerLinks, .safety, .recorder]
      (.hostCeilingExpired b) := fun s => by
  show KeptR _ s (execHostCeilingExpired b s)
  unfold execHostCeilingExpired
  exact onCore_keeps (.refl _ s) _ _ fun _ hu => .ite
    (fun _ => withRequest_changes hu _ _ fun _ hv => onSesL_changes hv _ _) fun _ => hu

theorem ceilingBelowMinimum_frame (b : Bough) :
    Changes [.free, .events, .ports, .modems, .association, .sessions, .powerLinks, .safety, .billed, .heartwood,
      .loads, .display, .recorder, .flash] (.ceilingBelowMinimum b) := fun s => by
  show KeptR _ s (execCeilingBelowMinimum b s)
  unfold execCeilingBelowMinimum
  exact onCore_keeps (.refl _ s) _ _ fun _ hu => .ite (fun _ => suspend_changes hu _) fun _ => hu

theorem stopWaitEnd_frame (b : Bough) : Changes [.powerLinks, .safety] (.stopWaitEnd b) := fun s => by
  show KeptR _ s (execStopWaitEnd b s)
  unfold execStopWaitEnd
  exact onCore_keeps (.refl _ s) _ _ fun _ hu => .ite
    (fun _ => requestOpening_changes (onSesL_changes hu _ _) _) fun _ => hu

theorem powerRequest_frame (b : Bough) : Changes [.events, .powerLinks, .recorder] (.powerRequest b) := fun s =>
  KeptR.next (powerRequest_changes (.refl _ s) _)

/-! ## Contactors and the power die -/

theorem contactConfirmed_frame (b : Bough) :
    Changes [.free, .events, .ports, .modems, .association, .sessions, .powerLinks, .coils, .safety, .measures,
      .billed, .heartwood, .loads, .display, .recorder, .flash] (.contactConfirmed b) := fun s => by
  show KeptR _ s (execContactConfirmed b s)
  unfold execContactConfirmed
  split
  · refine KeptR.ite (fun _ => .same) fun _ => KeptR.ite (fun _ => .next ?_) fun _ => .next ?_
    · exact beginInsulation_changes (.refl _ s) _
    · exact reportClosed_changes (.refl _ s) _
  · exact .next (mainClosed_changes (.refl _ s) _)
  · exact .same

theorem prechargeComplete_frame (b : Bough) :
    Changes [.free, .events, .ports, .modems, .association, .sessions, .powerLinks, .coils, .safety, .billed,
      .heartwood, .loads, .display, .recorder, .flash] (.prechargeComplete b) := fun s => by
  show KeptR _ s (execPrechargeComplete b s)
  unfold execPrechargeComplete
  exact KeptR.ite (fun _ => .next (reportClosed_changes (.refl _ s) _)) fun _ => .same

theorem ordinaryOpening_frame (b : Bough) :
    Changes [.events, .ports, .modems, .association, .sessions, .powerLinks, .coils, .safety, .recorder]
      (.ordinaryOpening b) := fun s => by
  show KeptR _ s (execOrdinaryOpening b s)
  unfold execOrdinaryOpening
  refine KeptR.ite (fun _ => .same) fun _ => .next (emit_changes (onSaf_changes ?_ _ _) _ _ _)
  exact release_changes (release_changes (abandonClosing_changes (.refl _ s) _ _) _ _) _ _

theorem secondRelease_frame (b : Bough) : Changes [.coils, .safety] (.secondRelease b) := fun s => by
  show KeptR _ s (execSecondRelease b s)
  unfold execSecondRelease
  exact KeptR.ite (fun _ => .next (release_changes (onSaf_changes (.refl _ s) _ _) _ _)) fun _ => .same

theorem heartbeatSend_frame (disagree : Bool) : Changes [.powerDie] (.heartbeatSend disagree) := fun s => by
  show KeptR _ s (execHeartbeatSend disagree s)
  unfold execHeartbeatSend
  exact KeptR.ite (fun _ => .same) fun _ => .next (setPowerDie_changes (.refl _ s) _ rfl)

theorem coreService_frame (c : Fin 2) : Changes [.powerDie] (.coreService c) := fun s => by
  show KeptR _ s (execCoreService c s)
  unfold execCoreService
  exact KeptR.ite (fun _ => .same) fun _ => .next (setPowerDie_changes (.refl _ s) _ rfl)

theorem emergencyStopRelease_frame :
    Changes [.free, .events, .ports, .modems, .association, .safety, .stops, .powerDie, .loads, .recorder]
      .emergencyStopRelease := fun s => by
  show KeptR _ s (execEmergencyStopRelease s)
  unfold execEmergencyStopRelease
  have hs := setStops_changes (.refl (parts [.free, .events, .ports, .modems, .association, .safety, .stops,
      .powerDie, .loads, .recorder]) s)
    { s.safDev with estopA := true, estopB := true }
  refine KeptR.ite (fun _ => .next hs) fun _ => KeptR.ite (fun _ => .next ?_) fun _ => .next hs
  exact driveAll_changes (fsLeave_changes (stopEvent_changes (setStops_changes hs _)) _)

end Sys2Proof.Safety
end

section
/-! SUPPORT. Frames of the commands of sampling, energy, the heartwood, the load channels and the display that write no byte
memory (R311, R365, R395, R459, R483). -/

set_option Elab.async false

namespace Sys2Proof.Safety

open Sys2Proof.Machine

/-! ## Samples and the reserve modulator -/

theorem sampleFrame_frame (bs : Vector BoughSamples 8) :
    Changes [.trunk, .events, .ports, .safety, .measures, .sampling, .energy, .averages, .billed, .loads, .recorder]
      (.sampleFrame bs) := fun s => by
  show KeptR _ s (execSampleFrame bs s)
  unfold execSampleFrame
  exact KeptR.ite (fun _ => .same) fun _ => .next (.forBoughs _ (.refl _ s) fun _ _ hu => takeSamples_changes hu _ _)

theorem patrolVisitEnd_frame (b : Bough) : Changes [.events, .sampling, .recorder] (.patrolVisitEnd b) := fun s => by
  show KeptR _ s (execPatrolVisitEnd b s)
  unfold execPatrolVisitEnd
  refine KeptR.ite (fun _ => .same) fun _ => .next (.ite (fun _ => judgeCycle_changes ?_ _) fun _ => ?_)
  all_goals exact onMtr_changes (.ite (fun _ => .refl _ s) fun _ => visit_changes (.refl _ s) _ _ _) _ _

theorem modulatorStuck_frame (b : Bough) (n : Fin 25) :
    Changes [.events, .sampling, .recorder] (.modulatorStuck b n) := fun s => by
  show KeptR _ s (execModulatorStuck b n s)
  unfold execModulatorStuck
  refine KeptR.ite (fun _ => .next ?_) fun _ => .next ?_
  · exact stuckReserve_changes (.refl _ s) _
  · exact stuckActive_changes (.refl _ s) _ _

theorem reserveChainsFilled_frame (b : Bough) :
    Changes [.free, .events, .sampling, .billed, .heartwood, .recorder, .flash]
      (.reserveChainsFilled b) := fun s => by
  show KeptR _ s (execReserveChainsFilled b s)
  unfold execReserveChainsFilled
  split
  · exact .same
  · exact .next (swapApplied_changes (onMtr_changes (.refl _ s) _ _) _ _ _ _ _)

theorem hotSwapFitStart_frame (b : Bough) : Changes [.sampling] (.hotSwapFitStart b) := fun s => by
  show KeptR _ s (execHotSwapFitStart b s)
  unfold execHotSwapFitStart
  exact KeptR.ite (fun _ => .next (onMtr_changes (.refl _ s) _ _)) fun _ => .same

theorem hotSwapFitEnd_frame (b : Bough) (r : FitResult) :
    Changes [.free, .events, .sampling, .billed, .heartwood, .recorder, .flash] (.hotSwapFitEnd b r) := fun s => by
  show KeptR _ s (execHotSwapFitEnd b r s)
  unfold execHotSwapFitEnd
  have hf := fitFailed_changes (.refl (parts [.free, .events, .sampling, .billed, .heartwood, .recorder, .flash]) s) b
  refine KeptR.ite (fun _ => .same) fun _ => KeptR.ite (fun _ => KeptR.ite (fun _ => .next ?_) fun _ => .next hf)
    fun _ => KeptR.ite (fun _ => .next hf) fun _ => .same
  exact fitAnswer_changes (swapApplied_changes (onMtr_changes (.refl _ s) _ _) _ _ _ _ _) _ _

theorem mtrCalEnd_frame (b : Bough) : Changes [.events, .sampling, .recorder] (.mtrCalEnd b) := fun s => by
  show KeptR _ s (execMtrCalEnd b s)
  unfold execMtrCalEnd
  split
  · exact .same
  · refine KeptR.ite (fun _ => .same) fun _ => .next (answer_changes (onMtr_changes ?_ _ _) _ _ _ _)
    exact .foldl _ _ (.refl _ s) fun _ _ hu => calEvent_changes hu _ _ _

theorem swapReturnCompareEnd_frame (b : Bough) (ppm : Nat) :
    Changes [.free, .events, .sampling, .billed, .heartwood, .recorder, .flash]
      (.swapReturnCompareEnd b ppm) := fun s => by
  show KeptR _ s (execSwapReturnCompareEnd b ppm s)
  unfold execSwapReturnCompareEnd
  refine KeptR.ite (fun _ => .same) fun _ => KeptR.ite (fun _ => ?_) fun _ => KeptR.ite (fun _ => .next ?_) fun _ =>
    .same
  · dsimp only
    split
    · exact .next (answer_changes (swapApplied_changes (onMtr_changes (.refl _ s) _ _) _ _ _ _ _) _ _ _ _)
    · exact .next (swapApplied_changes (onMtr_changes (.refl _ s) _ _) _ _ _ _ _)
  · exact onMtr_changes (fitAnswer_changes (.refl _ s) _ _) _ _

/-! ## The energy engine -/

theorem cycleEnd_frame (b : Bough) (before after : Int) :
    Changes [.events, .ports, .modems, .association, .sessions, .powerLinks, .safety, .sampling, .energy, .averages,
      .quantities, .recorder] (.cycleEnd b before after) := fun s => by
  show KeptR _ s (execCycleEnd b before after s)
  unfold execCycleEnd
  refine KeptR.ite (fun _ => .same) fun _ => ?_
  have hn := noteCrossing_changes (.refl (parts [.events, .ports, .modems, .association, .sessions, .powerLinks,
      .safety, .sampling, .energy, .averages, .quantities, .recorder]) s) b before after
  dsimp only
  split
  · exact .next hn
  · exact .next (.ite (fun _ => searchCycle_changes hn _ _) fun _ => gridCycle_changes hn _ _)

theorem noCrossingTimeout_frame (b : Bough) :
    Changes [.events, .ports, .modems, .association, .sessions, .powerLinks, .safety, .sampling, .energy, .averages,
      .quantities, .recorder] (.noCrossingTimeout b) := fun s => by
  show KeptR _ s (execNoCrossingTimeout b s)
  unfold execNoCrossingTimeout
  refine KeptR.ite (fun _ => .same) fun _ => .next (gridLost_changes (onNrg_changes ?_ _ _) _ _)
  exact endCycle_changes (.refl _ s) _

theorem noGridCycle_frame (b : Bough) :
    Changes [.events, .ports, .modems, .association, .sessions, .powerLinks, .safety, .sampling, .energy, .averages,
      .quantities, .recorder] (.noGridCycle b) := fun s => by
  show KeptR _ s (execNoGridCycle b s)
  unfold execNoGridCycle
  refine KeptR.ite (fun _ => .same) fun _ => .next (.ite (fun _ => blockDone_changes ?_ _) fun _ => ?_)
  all_goals exact takeType_changes (endCycle_changes (.refl _ s) _) _

theorem meteringGapOpen_frame (b : Bough) (phase : Fin 3) :
    Changes [.events, .energy, .recorder] (.meteringGapOpen b phase) := fun s => by
  show KeptR _ s (execMeteringGapOpen b phase s)
  unfold execMeteringGapOpen
  exact KeptR.ite (fun _ => .same) fun _ => .next (emit_changes (onNrg_changes (.refl _ s) _ _) _ _ _)

theorem nrgReadReply_frame (b : Bough) : Changes [.events, .energy, .recorder] (.nrgReadReply b) := fun s => by
  show KeptR _ s (execNrgReadReply b s)
  unfold execNrgReadReply
  exact .next (.foldl _ _ (onNrg_changes (.refl _ s) _ _) fun _ _ hu => answer_changes hu _ _ _ _)

/-! ## The heartwood -/

theorem energyResultAccept_frame (b : Bough) (kind : Fin 2) :
    Changes [.free, .events, .billed, .heartwood, .recorder] (.energyResultAccept b kind) := fun s => by
  show KeptR _ s (execEnergyResultAccept b kind s)
  unfold execEnergyResultAccept
  split
  · exact .same
  · refine .next (.ite (fun _ => openGate_changes (noteMarks_changes ?_ _ _) _)
      fun _ => closeGate_changes (noteMarks_changes ?_ _ _) _)
    all_goals exact onBil_changes (.refl _ s) _ _

theorem gateSilence_frame (b : Bough) : Changes [.billed] (.gateSilence b) := fun s => by
  show KeptR _ s (execGateSilence b s)
  unfold execGateSilence
  exact KeptR.ite (fun _ => .same) fun _ => .next (openGate_changes (.refl _ s) _)

theorem heartwoodConversion_frame :
    Changes [.free, .trunk, .sessions, .billed, .heartwood] .heartwoodConversion := fun s => by
  show KeptR _ s (execHeartwoodConversion s)
  unfold execHeartwoodConversion
  refine KeptR.ite (fun _ => .same) fun _ => .next (.forBoughs _ ?_ fun _ _ hu => ?_)
  · exact convertAll_changes (emptyMailbox_changes (.refl _ s))
  · exact .ite (fun _ => reportCost_changes hu _) fun _ => hu

theorem calendarSecond_frame :
    Changes [.free, .events, .billed, .heartwood, .recorder, .backup] .calendarSecond := fun s => by
  show KeptR _ s (execCalendarSecond s)
  unfold execCalendarSecond
  have hs := setBackup_changes (.refl (parts [.free, .events, .billed, .heartwood, .recorder, .backup])
      s) { s.bak with oscOk := true }
  refine KeptR.ite (fun _ => .next hs) fun _ => KeptR.ite (fun _ => .next ?_) fun _ => .next ?_
  · exact rangeEnd_changes hs
  · exact setBackup_changes hs _

theorem calendarRangeEnd_frame :
    Changes [.free, .events, .billed, .heartwood, .recorder, .backup] .calendarRangeEnd := fun s => by
  show KeptR _ s (execCalendarRangeEnd s)
  unfold execCalendarRangeEnd
  exact KeptR.ite (fun _ => .next (rangeEnd_changes (.refl _ s))) fun _ => .same

theorem rateEvaluation_frame : Changes [.free, .billed, .heartwood] .rateEvaluation := fun s => by
  show KeptR _ s (execRateEvaluation s)
  unfold execRateEvaluation
  exact KeptR.ite (fun _ => .next (evalRate_changes (.refl _ s))) fun _ => .same

theorem readingRelease_frame :
    Changes [.free, .events, .billed, .heartwood, .recorder, .flash] .readingRelease := fun s =>
  KeptR.next (releaseReadings_changes (.refl _ s))

/-! ## The load channels -/

theorem inrushWindowEnd_frame (ch : Fin 32) : Changes [.loads] (.inrushWindowEnd ch) := fun s =>
  KeptR.next (onAux_changes (.refl _ s) _ _)

theorem channelLimitReached_frame (ch : Fin 32) : Changes [.loads] (.channelLimitReached ch) := fun s => by
  show KeptR _ s (execChannelLimitReached ch s)
  unfold execChannelLimitReached
  exact KeptR.ite (fun _ => .next (onAux_changes (.refl _ s) _ _)) fun _ => .same

theorem channelOvercurrent_frame (ch : Fin 32) :
    Changes [.free, .events, .loads, .recorder] (.channelOvercurrent ch) := fun s => by
  show KeptR _ s (execChannelOvercurrent ch s)
  unfold execChannelOvercurrent
  exact KeptR.ite (fun _ => .next (auxFault_changes (.refl _ s) _ _)) fun _ => .same

theorem channelThermalFault_frame (ch : Fin 32) (temp : Int) :
    Changes [.free, .events, .loads, .recorder] (.channelThermalFault ch temp) := fun s => by
  show KeptR _ s (execChannelThermalFault ch temp s)
  unfold execChannelThermalFault
  refine KeptR.ite (fun _ => .next ?_) fun _ => .next ?_
  · exact auxFault_changes (onAux_changes (.refl _ s) _ _) _ _
  · exact auxDrive_changes (onAux_changes (.refl _ s) _ _) _

theorem hotClear_frame (ch : Fin 32) (temp : Int) : Changes [.free, .loads] (.hotClear ch temp) := fun s =>
  KeptR.next (auxRetry_changes (onAux_changes (.refl _ s) _ _) _)

theorem retryRestart_frame (ch : Fin 32) : Changes [.free, .loads] (.retryRestart ch) := fun s =>
  KeptR.next (auxRetry_changes (onAux_changes (.refl _ s) _ _) _)

theorem retryCountReset_frame (ch : Fin 32) : Changes [.loads] (.retryCountReset ch) := fun s => by
  show KeptR _ s (execRetryCountReset ch s)
  unfold execRetryCountReset
  exact KeptR.ite (fun _ => .next (onAux_changes (.refl _ s) _ _)) fun _ => .same

theorem lampCompensation_frame (ch : Fin 32) (vs : Nat) :
    Changes [.free, .loads, .loadDev] (.lampCompensation ch vs) := fun s => by
  show KeptR _ s (execLampCompensation ch vs s)
  unfold execLampCompensation
  refine .next (.ite (fun _ => auxDrive_changes ?_ _) fun _ => ?_)
  all_goals exact setLoadDev_changes (.refl _ s) _

theorem groupSupplyReturn_frame (g : Fin 4) : Changes [.free, .loads] (.groupSupplyReturn g) := fun s => by
  show KeptR _ s (execGroupSupplyReturn g s)
  unfold execGroupSupplyReturn
  refine KeptR.ite (fun _ => .same) fun _ => .next (.foldl _ _ (.refl _ s) fun _ _ hu => ?_)
  exact auxDrive_changes (onAux_changes hu _ _) _

theorem isenseScanStep_frame : Changes [.loadDev] .isenseScanStep := fun s => by
  show KeptR _ s (execIsenseScanStep s)
  unfold execIsenseScanStep
  exact KeptR.ite (fun _ => .next (setLoadDev_changes (.refl _ s) _)) fun _ => .next (setLoadDev_changes (.refl _ s) _)

/-! ## The display -/

theorem displayUpdate_frame : Changes [.free, .display] .displayUpdate := fun s => by
  show KeptR _ s (execDisplayUpdate s)
  unfold execDisplayUpdate
  split
  · extract_lets u
    have hu : Kept (parts [.free, .display])
        s u := .ite (fun _ => startDisplay_changes (.refl _ s)) fun _ => .refl _ s
    have hl : Kept (parts [.free, .display]) s (if u.lcd.page = 16 then rateLabel u else ([], u)).2 := by
      split
      · exact rateLabel_changes hu
      · exact hu
    exact .next (setDisplay_changes hl _)
  · exact .same

theorem displayFrameStart_frame :
    Changes [.free, .events, .loads, .display, .recorder] .displayFrameStart := fun s => by
  show KeptR _ s (execDisplayFrameStart s)
  unfold execDisplayFrameStart
  have h₀ := setDisplay_changes (.refl (parts [.free, .events, .loads, .display, .recorder])
      s) { s.lcd with phaseLen := framePhase s }
  dsimp only
  split
  · exact .next h₀
  · exact KeptR.ite (fun _ => .next (stopFrame_changes h₀)) fun _ =>
      .next (measureVlcd_changes (setDisplay_changes h₀ _) _ _)
  · refine KeptR.ite (fun _ => .next (stopFrame_changes h₀)) fun _ => KeptR.ite (fun _ => .next ?_) fun _ => .next ?_
    · exact setDisplay_changes h₀ _
    · exact auxAll_changes (copyLines_changes (emit_changes (setDisplay_changes h₀ _) _ _ _))
  · exact KeptR.ite (fun _ => .next (stopFrame_changes h₀)) fun _ => .next (copyLines_changes h₀)
  · exact KeptR.ite (fun _ => .next (stopFrame_changes h₀)) fun _ => .next (copyLines_changes h₀)
  · exact .next (stopFrame_changes h₀)

theorem vlcdAdjust_frame : Changes [.display] .vlcdAdjust := fun s =>
  KeptR.next (setDisplay_changes (.refl _ s) _)

theorem vlcdOutOfRange_frame (mv : Nat) :
    Changes [.free, .events, .loads, .display, .recorder] (.vlcdOutOfRange mv) := fun s => by
  show KeptR _ s (execVlcdOutOfRange mv s)
  unfold execVlcdOutOfRange
  refine KeptR.ite (fun _ => .same) fun _ => .next (auxAll_changes ?_)
  exact setDisplay_changes (emit_changes (.refl _ s) _ _ _) _

theorem displayRestart_frame : Changes [.display] .displayRestart := fun s => by
  show KeptR _ s (execDisplayRestart s)
  unfold execDisplayRestart
  exact KeptR.ite (fun _ => .next (startDisplay_changes (.refl _ s))) fun _ => .same

theorem updateTimeout_frame : Changes [.events, .display, .recorder] .updateTimeout := fun s => by
  show KeptR _ s (execUpdateTimeout s)
  unfold execUpdateTimeout
  split
  · exact .next (orderStop_changes (.refl _ s) _)
  · exact .next (orderStop_changes (.refl _ s) _)
  · exact .same

theorem dispbtnHold_frame : Changes [.display] .dispbtnHold := fun s => by
  show KeptR _ s (execDispbtnHold s)
  unfold execDispbtnHold
  exact KeptR.ite (fun _ => .next (setDisplay_changes (.refl _ s) _)) fun _ => .same

theorem pageIdleReturn_frame : Changes [.display] .pageIdleReturn := fun s => by
  show KeptR _ s (execPageIdleReturn s)
  unfold execPageIdleReturn
  exact KeptR.ite (fun _ => .next (setDisplay_changes (.refl _ s) _)) fun _ => .same

theorem lowPowerEntry_frame : Changes [.free, .loads, .display] .lowPowerEntry := fun s => by
  show KeptR _ s (execLowPowerEntry s)
  unfold execLowPowerEntry
  exact KeptR.ite (fun _ => .next (auxAll_changes (setDisplay_changes (.refl _ s) _))) fun _ => .same

end Sys2Proof.Safety
end

section
/-! SUPPORT. Frames of the commands of the canopy link, the service tag, the keys, the memory, the recorder and the update that
write no byte memory (R495, R545, R578, R605, R640, R688). -/

set_option Elab.async false

namespace Sys2Proof.Safety

open Sys2Proof.Machine

/-! ## The canopy link -/

theorem modemFrameTransmit_frame (port : Fin 9) (symbols built : Nat) (blocks : List TxBlock) (medium : Medium) :
    Changes [.free, .modems, .canopy] (.modemFrameTransmit port symbols built blocks medium) := fun s => by
  show KeptR _ s (execModemFrameTransmit port symbols built blocks medium s)
  unfold execModemFrameTransmit
  split
  · exact .next (startFrame_changes (.refl _ s) _ _ _ _)
  · exact .next (startCanopyFrame_changes (.refl _ s) _ _ _)

theorem turnStart_frame : Changes [.free, .events, .canopy, .recorder] .turnStart := fun s => by
  show KeptR _ s (execTurnStart s)
  unfold execTurnStart
  refine KeptR.ite (fun _ => .same) fun _ =>
    .next (sendMsg_changes (free_changes (setCanopy_changes ?_ _) 16) _ _ _ _ _)
  have ht := passTurn_changes (coordTurn_changes (.refl (parts [.free, .events, .canopy, .recorder]) s))
  exact ageMembers_changes (setCanopy_changes (setCanopy_changes ht _) _)

theorem czcEdge_frame (pairUs : Nat) : Changes [.canopy] (.czcEdge pairUs) := fun s => by
  show KeptR _ s (execCzcEdge pairUs s)
  unfold execCzcEdge
  refine KeptR.ite (fun _ => .same) fun _ => KeptR.ite (fun _ => .next ?_) fun _ => .next ?_
  · exact czcPair_changes (setCanopy_changes (.refl _ s) _) _
  · exact setCanopy_changes (.refl _ s) _

theorem czcEdgeAbsent_frame : Changes [.canopy] .czcEdgeAbsent := fun s => by
  show KeptR _ s (execCzcEdgeAbsent s)
  unfold execCzcEdgeAbsent
  exact KeptR.ite (fun _ => .next (loseCzc_changes (setCanopy_changes (.refl _ s) _))) fun _ => .same

theorem beaconListenEnd_frame : Changes [.events, .canopy, .recorder] .beaconListenEnd := fun s => by
  show KeptR _ s (execBeaconListenEnd s)
  unfold execBeaconListenEnd
  refine KeptR.ite (fun _ => .same) fun _ => KeptR.ite (fun _ => .next ?_) fun _ => .next ?_
  · exact setRole_changes (.refl _ s) _
  · exact setRole_changes (setMembers_changes (setCanopy_changes (.refl _ s) _) _) _

theorem beaconMissed_frame : Changes [.events, .canopy, .recorder] .beaconMissed := fun s => by
  show KeptR _ s (execBeaconMissed s)
  unfold execBeaconMissed
  have ht := passTurn_changes (countTurn_changes (setCanopy_changes (.refl (parts [.events, .canopy, .recorder]) s)
    { s.canopy with missed := min 31 (s.canopy.missed + 1) }))
  refine KeptR.ite (fun _ => .same) fun _ => KeptR.ite (fun _ => .next ?_) fun _ => KeptR.ite (fun _ => .next ?_)
    fun _ => .next ht
  · exact cnpListen_changes (emit_changes ht _ _ _) _
  · exact sendStatus_changes ht

theorem joinRequest_frame (f : CnpRx) : Changes [.trunk, .events, .canopy, .recorder] (.joinRequest f) := fun s => by
  show KeptR _ s (execJoinRequest f s)
  unfold execJoinRequest
  exact onFrame_keeps (.refl _ s) _ _ _ fun _ _ hu => .ite (fun _ => hu) fun _ => setMembers_changes hu _

theorem memberTimeout_frame (station : Nat) : Changes [.canopy] (.memberTimeout station) := fun s => by
  show KeptR _ s (execMemberTimeout station s)
  unfold execMemberTimeout
  exact KeptR.ite (fun _ => .same) fun _ => .next (setMembers_changes (.refl _ s) _)

theorem canopyDataFrame_frame (f : CnpRx) :
    Changes [.trunk, .events, .canopy, .recorder] (.canopyDataFrame f) := fun s => by
  show KeptR _ s (execCanopyDataFrame f s)
  unfold execCanopyDataFrame
  exact onFrame_keeps (.refl _ s) _ _ _ fun _ _ hu => .ite (fun _ => emit_changes hu _ _ _) fun _ => hu

theorem canopyAck_frame (f : CnpRx) (mask : BitVec 64) :
    Changes [.trunk, .events, .canopy, .recorder] (.canopyAck f mask) := fun s => by
  show KeptR _ s (execCanopyAck f mask s)
  unfold execCanopyAck
  have hc := noteCrx_changes (.refl (parts [.trunk, .events, .canopy, .recorder]) s)
  refine KeptR.ite (fun _ => .next hc) fun _ => ?_
  split
  · exact .next (refuseFrame_changes hc _ _)
  · exact .next (takeAck_changes hc _ _)
  · exact .next hc

theorem toneMapFrame_frame (f : CnpRx) (num bits : Nat) :
    Changes [.trunk, .events, .canopy, .recorder] (.toneMapFrame f num bits) := fun s => by
  show KeptR _ s (execToneMapFrame f num bits s)
  unfold execToneMapFrame
  exact onFrame_keeps (.refl _ s) _ _ _ fun _ _ hu => emit_changes (putPeer_changes hu _) _ _ _

theorem toneMapExpired_frame (station : Nat) :
    Changes [.events, .canopy, .recorder] (.toneMapExpired station) := fun s =>
  KeptR.next (dropMap_changes (.refl _ s) _)

theorem statusFrame_frame (f : CnpRx) : Changes [.trunk, .events, .canopy, .recorder] (.statusFrame f) := fun s => by
  show KeptR _ s (execStatusFrame f s)
  unfold execStatusFrame
  exact onFrame_keeps (.refl _ s) _ _ _ fun _ _ hu => .ite (fun _ => hu) fun _ => setMembers_changes hu _

theorem loadAllocation_frame :
    Changes [.events, .ports, .modems, .association, .sessions, .powerLinks, .safety, .canopy, .recorder]
      .loadAllocation := fun s => by
  show KeptR _ s (execLoadAllocation s)
  unfold execLoadAllocation
  refine KeptR.ite (fun _ => .same) fun _ => .next (takeCeilings_changes (setCanopy_changes ?_ _) _ _ _ _)
  exact setMembers_changes (setCanopy_changes (.refl _ s) _) _

theorem ceilingFrame_frame (f : CnpRx) :
    Changes [.trunk, .events, .ports, .modems, .association, .sessions, .powerLinks, .safety, .canopy, .recorder]
      (.ceilingFrame f) := fun s => by
  show KeptR _ s (execCeilingFrame f s)
  unfold execCeilingFrame
  exact onFrame_keeps (.refl _ s) _ _ _ fun _ _ hu => .ite (fun _ => takeCeilings_changes hu _ _ _ _) fun _ => hu

theorem ceilingValidityExpired_frame :
    Changes [.events, .ports, .modems, .association, .sessions, .powerLinks, .safety, .canopy, .recorder]
      .ceilingValidityExpired := fun s => by
  show KeptR _ s (execCeilingValidityExpired s)
  unfold execCeilingValidityExpired
  exact KeptR.ite (fun _ => .next (dropSiteCeil_changes (.refl _ s))) fun _ => .same

theorem tripFrame_frame (f : CnpRx) :
    Changes [.trunk, .events, .ports, .modems, .association, .sessions, .powerLinks, .safety, .canopy, .recorder]
      (.tripFrame f) := fun s => by
  show KeptR _ s (execTripFrame f s)
  unfold execTripFrame
  refine onFrame_keeps (.refl _ s) _ _ _ fun body u hu => ?_
  have he := emit_changes (setCanopy_changes hu { u.canopy with heardTrip := true }) 0x0A06 255
    (leN 1 (fcSrc f) ++ bytesAt body 1 2)
  exact .ite (fun _ => recalcAll_changes (setCanopy_changes he _)) fun _ => he

theorem tripFollowExpired_frame :
    Changes [.events, .ports, .modems, .association, .sessions, .powerLinks, .safety, .canopy, .recorder]
      .tripFollowExpired := fun s =>
  KeptR.next (recalcAll_changes (setCanopy_changes (.refl _ s) _))

theorem messageCounterRollover_frame : Changes [.canopy] .messageCounterRollover := fun s =>
  KeptR.next (rollCounter_changes (.refl _ s))

/-! ## The field of the service tag -/

theorem fieldArrived_frame (level : Nat) : Changes [.events, .tag, .recorder] (.fieldArrived level) := fun s => by
  show KeptR _ s (execFieldArrived level s)
  unfold execFieldArrived
  refine KeptR.ite (fun _ => .next (setTag_changes (.refl _ s) _ rfl)) fun _ => KeptR.ite (fun _ => .same) fun _ => ?_
  refine .next (whileVio_changes ?_ _ fun _ hu => emit_changes (raiseIrq_changes hu _) _ _ _)
  exact setTag_changes (.refl _ s) _ rfl

theorem fieldLeft_frame : Changes [.events, .tag, .recorder] .fieldLeft := fun s =>
  KeptR.next (fieldGone_changes (.refl _ s))

theorem reqb_frame (afi : Byte) (slots : Nat) : Changes [.free, .tag] (.reqb afi slots) := fun s => by
  show KeptR _ s (execReqb afi slots s)
  unfold execReqb
  exact KeptR.ite (fun _ => .same) fun _ => .next (anticollision_changes (.refl _ s) _ _)

theorem wupb_frame (afi : Byte) (slots : Nat) : Changes [.free, .tag] (.wupb afi slots) := fun s => by
  show KeptR _ s (execWupb afi slots s)
  unfold execWupb
  refine .next (anticollision_changes ?_ _ _)
  exact setTag_changes (.refl _ s) _ rfl

theorem slotMarker_frame (slot : Nat) : Changes [.tag] (.slotMarker slot) := fun s => by
  show KeptR _ s (execSlotMarker slot s)
  unfold execSlotMarker
  exact KeptR.ite (fun _ => .next (setTag_changes (.refl _ s) _ rfl)) fun _ => .same

theorem attrib_frame (pupi : List Byte) (cid : Nat) : Changes [.tag] (.attrib pupi cid) := fun s => by
  show KeptR _ s (execAttrib pupi cid s)
  unfold execAttrib
  exact KeptR.ite (fun _ => .next (setTag_changes (.refl _ s) _ rfl)) fun _ => .same

theorem hltb_frame : Changes [.tag] .hltb := fun s => by
  show KeptR _ s (execHltb s)
  unfold execHltb
  exact KeptR.ite (fun _ => .next (setTag_changes (.refl _ s) _ rfl)) fun _ => .same

theorem tagRead_frame (first count : Nat) : Changes [.events, .tag, .recorder] (.tagRead first count) := fun s => by
  show KeptR _ s (execTagRead first count s)
  unfold execTagRead
  refine whenSelected_keeps (.refl _ s) _ fun u hu => .ite (fun _ => fieldAnswer_changes hu _ _)
    fun _ => fieldAnswer_changes (.foldl _ _ hu fun _ _ hv => ?_) _ _
  exact notePageCrc_changes hv _

theorem tagInfo_frame : Changes [.tag] .tagInfo := fun s => by
  show KeptR _ s (execTagInfo s)
  unfold execTagInfo
  exact whenSelected_keeps (.refl _ s) _ fun _ hu => fieldAnswer_changes hu _ _

theorem tagArbiterGrant_frame (fieldWaits trunkWaits : Bool) :
    Changes [.tag] (.tagArbiterGrant fieldWaits trunkWaits) := fun s => by
  show KeptR _ s (execTagArbiterGrant fieldWaits trunkWaits s)
  unfold execTagArbiterGrant
  exact KeptR.ite (fun _ => .next (setTag_changes (.refl _ s) _ rfl)) fun _ => .next (setTag_changes (.refl _ s) _ rfl)

/-! ## Keys, tampers and random numbers -/

theorem tamperSample_frame (loopB : Bool) (cls : LoopClass) (level : Nat) :
    Changes [.crypto, .events, .ports, .modems, .association, .sessions, .powerLinks, .safety, .canopy, .keys,
      .recorder, .update, .backup] (.tamperSample loopB cls level) := fun s => by
  show KeptR _ s (execTamperSample loopB cls level s)
  unfold execTamperSample
  refine KeptR.ite (fun _ => .same) fun _ => KeptR.ite (fun _ => .next ?_) fun _ => KeptR.ite (fun _ => .next ?_)
    fun _ => .next ?_
  · exact loopMarginal_changes (setLoop_changes (.refl _ s) _ _ _ _) _ _
  · exact loopTamper_changes (setLoop_changes (.refl _ s) _ _ _ _) _
  · exact setLoop_changes (.refl _ s) _ _ _ _

theorem oscillatorDetector_frame :
    Changes [.crypto, .events, .ports, .modems, .association, .sessions, .powerLinks, .safety, .canopy, .keys,
      .recorder, .update, .backup] .oscillatorDetector := fun s => by
  show KeptR _ s (execOscillatorDetector s)
  unfold execOscillatorDetector
  refine KeptR.ite (fun _ => .same) fun _ => KeptR.ite (fun _ => .next ?_) fun _ => .next ?_
  · exact fellLine_changes (setBackup_changes (.refl _ s) _) _
  · exact setBackup_changes (.refl _ s) _

theorem loopRearm_frame (loopB : Bool) : Changes [.backup] (.loopRearm loopB) := fun s => by
  show KeptR _ s (execLoopRearm loopB s)
  unfold execLoopRearm
  exact KeptR.ite (fun _ => .next (setArmed_changes (.refl _ s) _ _)) fun _ => .same

theorem drbgReseed_frame : Changes [.crypto] .drbgReseed := fun s => by
  show KeptR _ s (execDrbgReseed s)
  unfold execDrbgReseed
  exact KeptR.ite (fun _ => .same) fun _ => .next (setCrypto_changes (.refl _ s) _)

theorem drbgHealthFail_frame (test : Nat) : Changes [.crypto, .events, .recorder] (.drbgHealthFail test) := fun s =>
  KeptR.next (emit_changes (setCrypto_changes (.refl _ s) _) _ _ _)

theorem drbgRetest_frame (ok : Bool) : Changes [.crypto] (.drbgRetest ok) := fun s => by
  show KeptR _ s (execDrbgRetest ok s)
  unfold execDrbgRetest
  exact KeptR.ite (fun _ => .next (setCrypto_changes (.refl _ s) _)) fun _ => .same

theorem maskRenewal_frame : Changes [.free, .backup] .maskRenewal := fun s => by
  show KeptR _ s (execMaskRenewal s)
  unfold execMaskRenewal
  refine .next ?_
  exact setBackup_changes (t := { s with freeCount := s.freeCount + 4 }) (setFree_changes (.refl _ s) _) _

theorem lifecycleApply_frame :
    Changes [.crypto, .events, .ports, .modems, .association, .sessions, .powerLinks, .safety, .canopy, .keys,
      .recorder, .update, .backup, .lifecycle] .lifecycleApply := fun s => by
  show KeptR _ s (execLifecycleApply s)
  unfold execLifecycleApply
  split
  · exact .same
  · refine .next (answer_changes (emit_changes (setLife_changes (discardStaging_changes ?_ _) _) _ _ _) _ _ _ _)
    exact .ite (fun _ => fellLine_changes (setKeys_changes (.refl _ s) _) _) fun _ => setKeys_changes (.refl _ s) _

/-! ## The field map, the recorder and the update -/

theorem fieldMapWrite_frame : Changes [.events, .memory, .recorder, .stored] .fieldMapWrite := fun s => by
  show KeptR _ s (execFieldMapWrite s)
  unfold execFieldMapWrite
  refine KeptR.ite (fun _ => .same) fun _ => ?_
  split
  · exact .same
  · rename_i rest _
    have hm := setMemory_changes (.refl (parts [.events, .memory, .recorder, .stored])
        s) { s.mem with softList := rest } rfl
    refine KeptR.ite (fun _ => .next (emit_changes ?_ _ _ _)) fun _ => .next (emit_changes hm _ _ _)
    exact setFieldMap_changes hm _

theorem recordWrite_frame : Changes [.events, .recorder, .flash] .recordWrite := fun s => by
  show KeptR _ s (execRecordWrite s)
  unfold execRecordWrite
  refine KeptR.ite (fun _ => .same) fun _ => ?_
  split
  · exact .next (reportLost_changes (.refl _ s))
  · exact .next (reportLost_changes (putRecord_changes (setRecorder_changes (.refl _ s) _) _))

theorem budgetWindowEnd_frame : Changes [.events, .recorder] .budgetWindowEnd := fun s => by
  show KeptR _ s (execBudgetWindowEnd s)
  unfold execBudgetWindowEnd
  exact .next (.ite (fun _ => endWindow_changes (.refl _ s)) fun _ => .refl _ s)

theorem histogramSample_frame (id : Fin 40) :
    Changes [.powerLinks, .sessionDev, .recorder] (.histogramSample id) := fun s => by
  show KeptR _ s (execHistogramSample id s)
  unfold execHistogramSample
  refine KeptR.ite (fun _ => .same) fun _ => .next (.ite (fun _ => ?_) fun _ => ?_)
  · exact sampleBough_changes (.refl _ s) _ _
  · exact sampleDevice_changes (.refl _ s) _

theorem histogramSnapshot_frame : Changes [.recorder, .flash] .histogramSnapshot := fun s => by
  show KeptR _ s (execHistogramSnapshot s)
  unfold execHistogramSnapshot
  exact .next (.ite (fun _ => snapshotHists_changes (.refl _ s)) fun _ => .refl _ s)

theorem dumpSlotErased_frame (slot : Fin 2) :
    Changes [.events, .recorder, .flash] (.dumpSlotErased slot) := fun s => by
  show KeptR _ s (execDumpSlotErased slot s)
  unfold execDumpSlotErased
  exact KeptR.ite (fun _ => .next (emit_changes (setFlash_changes (.refl _ s) _) _ _ _)) fun _ => .same

theorem drainTimeout_frame :
    Changes [.events, .ports, .modems, .association, .powerLinks, .safety, .recorder, .update]
      .drainTimeout := fun s => by
  show KeptR _ s (execDrainTimeout s)
  unfold execDrainTimeout
  exact KeptR.ite (fun _ => .same) fun _ => .next (emit_changes (dropSchedule_changes (.refl _ s)) _ _ _)

end Sys2Proof.Safety
end

section
/-! SUPPORT. That a command keeps the byte memories canonical, said of its answer: the branches of an answer, and the operations
that choose it by header, record, link, frame or field. -/

set_option Elab.async false

namespace Sys2Proof.Safety

open Sys2Proof.Machine

/-! ## Answers -/

/-- The byte memories are in canonical form in the next state that is answered, if one is. -/
def MemOkR (r : Res) : Prop := ∀ t, r = .next t → MemOk t

/-- From a state with canonical memories the command answers none but such states. -/
def KeepsMemories (i : Instr) : Prop := ∀ s, MemOk s → MemOkR (exec i s)

theorem MemOkR.next {t : State} (h : MemOk t) : MemOkR (.next t) := by
  rintro u ⟨⟩
  exact h

theorem MemOkR.fault (e : Fault) : MemOkR (.fault e) := by rintro u ⟨⟩

theorem MemOkR.ite {a b : Res} {c : Prop} [Decidable c] (h : c → MemOkR a) (k : ¬c → MemOkR b) :
    MemOkR (if c then a else b) := by
  split
  · exact h ‹_›
  · exact k ‹_›

/-- A command whose frame holds no byte memory keeps them canonical. -/
theorem Changes.keepsMemories {ps : List Part} {i : Instr} (h : Changes ps i)
    (hw : within (parts ps) offMemory = true := by decide) : KeepsMemories i := fun s hs t e =>
      .of ((h s t e).mono hw) hs

/-! ## Operations that choose the answer -/

section
variable {s : State} (hs : MemOk s)
include hs

theorem onHdr_memOk (h : CmdHdr) (f : Bough → Res) (hf : ∀ b, MemOkR (f b)) : MemOkR (onHdr h s f) := by
  unfold onHdr
  split
  · exact hf _
  · exact .next hs

theorem onSesHdr_memOk (h : CmdHdr) (f : Bough → Res) (hf : ∀ b, MemOkR (f b)) : MemOkR (onSesHdr h s f) := by
  unfold onSesHdr
  split
  · exact .ite (fun _ => hf _) fun _ => .next hs
  · exact .next (.of (sesAnswer_changes (.refl _ s) _ _ _) hs)

theorem onRecord_memOk (h : CmdHdr) (digest : List Byte) (f : Nat → List Byte → State → State)
    (hf : ∀ i r u, MemOk u → MemOk (f i r u)) : MemOkR (onRecord h digest s f) := by
  have hl := lookup_memOk hs (padTo 8 digest)
  unfold onRecord
  split
  · rename_i e
    exact .next (hf _ _ _ (.ofPair e hl))
  · rename_i e
    exact .next (.of (sesAnswer_changes (.refl _ _) _ _ _) (.ofPair e hl))

theorem onCore_memOk (b : Bough) (f : State → State) (hf : ∀ u, MemOk u → MemOk (f u)) : MemOkR (onCore b s f) :=
  .next (.ite (fun _ => hf s hs) fun _ => hs)

theorem onLinked_memOk (b : Bough) (f : State → State) (hf : ∀ u, MemOk u → MemOk (f u)) : MemOkR (onLinked b s f) :=
  .ite (fun _ => .next (hf s hs)) fun _ => .next hs

theorem whenSelected_memOk (f : State → State) (hf : ∀ u, MemOk u → MemOk (f u)) : MemOkR (whenSelected s f) :=
  .ite (fun _ => .next (hf s hs)) fun _ => .next hs

theorem logAnswer_memOk (h : CmdHdr) (r : Nat) (data : List Byte) : MemOkR (logAnswer h r data s) :=
  .next (.of (answer_changes (.refl _ s) _ _ _ _) hs)

theorem takeMessage_memOk (f : CnpRx) (msg : List Byte) (act : List Byte → State → State)
    (ha : ∀ m u, MemOk u → MemOk (act m u)) : MemOk (takeMessage f msg act s) := by
  have hr := MemOk.of (refuseFrame_changes (.refl _ s) (fcSrc f) 1) hs
  unfold takeMessage
  refine .ite (fun _ => hr) fun _ => ?_
  split
  · exact ha _ _ hs
  · exact hr

theorem onFrame_memOk (typ : Nat) (f : CnpRx) (act : List Byte → State → State)
    (ha : ∀ m u, MemOk u → MemOk (act m u)) : MemOkR (onFrame typ f s act) := by
  have hc := MemOk.of (noteCrx_changes (.refl _ s)) hs
  unfold onFrame
  dsimp only
  refine MemOkR.ite (fun _ => .next hc) fun _ => ?_
  split
  · exact .next (.of (refuseFrame_changes (.refl _ _) _ _) hc)
  · have hm := MemOk.of (collect_changes (deriveMap_changes (acknowledge_changes (.refl _ _) f) f) f) hc
    split
    · rename_i e
      exact .next (takeMessage_memOk (.ofPair e hm) _ _ _ ha)
    · rename_i e
      exact .next (.ofPair e hm)

/-- The ledger bank rebuilt is written whole, so it is canonical. -/
theorem rebuildLedger_memOk {t : State} (e : rebuildLedger s = some t) : MemOk t := by
  obtain ⟨hshadow, happlied, hbulk, hmirror, hcells, htag⟩ := hs
  unfold rebuildLedger at e
  split at e
  · obtain rfl := Option.some.inj e
    exact ⟨hshadow, happlied, hbulk, hmirror, memMerge_wf _ hcells, htag⟩
  · split at e
    · obtain rfl := Option.some.inj e
      exact .of (emit_changes (.refl _ _) _ _ _) ⟨hshadow, happlied, hbulk, hmirror, hcells, htag⟩
    · cases e

end

end Sys2Proof.Safety
end

section
/-! SUPPORT. The commands of the trunk, the start, the commits, the host port, the ports and the sessions that write a byte memory
(R53, R116, R144, R700, R226) keep it canonical. -/

set_option Elab.async false

namespace Sys2Proof.Safety

open Sys2Proof.Machine

/-! ## The trunk, the supplies and the start -/

theorem latticeTick_keepsMemories (t : Tick) (busy : BitVec 23) :
    KeepsMemories (.latticeTick t busy) := fun s hs => by
  show MemOkR (execLatticeTick t busy s)
  unfold execLatticeTick
  exact MemOkR.ite (fun _ => .next hs) fun _ => .next (.foldl _ _ (.of (latticeWork_changes (.refl _ _) _) hs)
    fun _ _ hu => stopTick_memOk hu _ _ _)

theorem trunkFlit_keepsMemories (i : Fin 23) (offers : List Flit) (errs : BitVec 9) :
    KeepsMemories (.trunkFlit i offers errs) := fun s hs => by
  show MemOkR (execTrunkFlit i offers errs s)
  unfold execTrunkFlit
  have ht := MemOk.of (takeOffers_changes (.refl _ s) i offers) hs
  dsimp only
  refine MemOkR.ite (fun _ => .next ht) fun _ => ?_
  split
  · exact .next ht
  · split
    · exact .next ht
    · exact MemOkR.ite (fun _ => .next (crossFlit_memOk (.of (onSeg_changes (.refl _ _) _ _) ht) _ _ _))
        fun _ => .next (.of (rejectFlit_changes (onSeg_changes (.refl _ _) _ _) _ _ _) ht)

theorem laneFailed_keepsMemories (seg : Fin 23) : KeepsMemories (.laneFailed seg) := fun s hs => by
  show MemOkR (execLaneFailed seg s)
  unfold execLaneFailed
  refine MemOkR.ite (fun _ => .next hs) fun _ => ?_
  extract_lets lane trunk t u mem v w g x
  have hu : Kept offMemory s u := onSeg_changes (setTrunk_changes (.refl _ s) _) _ _
  have hx : MemOk x := .of (emit_changes (onSeg_changes hu seg fun g =>
    { g with half := true, halfSent := false }) 0x0103
    255 (leN 1 seg.val ++ leN 4 (lanesOf g.failed).length)) hs
  refine MemOkR.ite (fun _ => .next (.of (emit_changes (onSeg_changes ?_ _ _) _ _ _) hs)) fun _ =>
    .next (.ite (fun _ => fatalError_memOk hx _ _ _) fun _ => hx)
  exact setMemory_changes hu _ rfl

theorem supplyTrip_keepsMemories (id : Fin 13) (high : Bool) : KeepsMemories (.supplyTrip id high) := fun s hs => by
  show MemOkR (execSupplyTrip id high s)
  unfold execSupplyTrip
  refine MemOkR.ite (fun _ => .next hs) fun _ => MemOkR.ite (fun _ => .next ?_) fun _ =>
    MemOkR.ite (fun _ => .next ?_) fun _ => .next ?_
  · exact .of (tripInReset_changes (flagTrip_changes (setSupply_changes (.refl _ s) _) _ _) _) hs
  · exact deviceReset_memOk (.of (flagTrip_changes (keepTrips_changes (setSupply_changes (.refl _ s) _)) _ _) hs)
  · refine tripReaction_memOk (.of (emit_changes ?_ _ _ _) hs) _
    exact setStart_changes (setSupply_changes (.refl _ s) _) _

theorem powerDieThermalShutdown_keepsMemories (temp : Int) :
    KeepsMemories (.powerDieThermalShutdown temp) := fun s hs => by
  show MemOkR (execPowerDieThermalShutdown temp s)
  unfold execPowerDieThermalShutdown
  refine MemOkR.ite (fun _ => .next hs) fun _ => .next (fsEnter_memOk (.of (emit_changes ?_ _ _ _) hs) _ _)
  exact setLoadDev_changes (t := { s with supply.shutdown := true }) (setSupply_changes (.refl _ s) _) _

theorem resetnLow_keepsMemories (ns : Nat) : KeepsMemories (.resetnLow ns) := fun s hs => by
  show MemOkR (execResetnLow ns s)
  unfold execResetnLow
  have hf := MemOk.of (free_changes (.refl _ s) 1) hs
  exact MemOkR.ite (fun _ => .next hs) fun _ => MemOkR.ite (fun _ => .next (deviceReset_memOk hs))
    fun _ => .next (.ite (fun _ => deviceReset_memOk hf) fun _ => hf)

theorem resetRelease_keepsMemories (viohMv : Nat) (pllLocks : Bool) :
    KeepsMemories (.resetRelease viohMv pllLocks) := fun s hs => by
  show MemOkR (execResetRelease viohMv pllLocks s)
  unfold execResetRelease
  extract_lets start supply t u v
  have hu : Kept offMemory s u := by
    refine auxAll_changes ?_
    exact setSupply_changes (setStart_changes (.refl _ s) { s.start with released := true, mrstN := true }) _
  have hv := setLattice_changes hu { u.lat with running := true }
  refine MemOkR.ite (fun _ => .next hs) fun _ => MemOkR.ite (fun _ => .next (stopStart_memOk (.of hu hs) _ _)) fun _ =>
    MemOkR.ite (fun _ => .next (.of (stopAfterTest_changes hv _ _) hs)) fun _ =>
      .next (.of (driveAll_changes (phaseDone_changes ?_ _)) hs)
  exact setStart_changes hv _

theorem phaseP1_keepsMemories (fusesOk : Bool) (readBackAt : Option (Fin 3)) :
    KeepsMemories (.phaseP1 fusesOk readBackAt) := fun s hs => by
  show MemOkR (execPhaseP1 fusesOk readBackAt s)
  unfold execPhaseP1
  extract_lets start t start' u v
  have ht : Kept offMemory s t := setStart_changes (.refl _ s) _
  have hu := setStart_changes ht { t.start with lifeValid := true }
  have hv := applyReserves_changes (applyMaps_changes hu)
  refine MemOkR.ite (fun _ => .next hs) fun _ => MemOkR.ite (fun _ => .next (.of (stopAfterTest_changes ht _ _) hs))
    fun _ => MemOkR.ite (fun _ => .next (.of (stopAfterTest_changes hu _ _) hs)) fun _ => ?_
  split
  · exact .next (.of (stopAfterTest_changes (tornStarts_changes hv _) _ _) hs)
  · refine .next (.of (phaseDone_changes (.refl _ _) _) (startIdentity_memOk (.of ?_ hs)))
    exact setCrypto_changes (reportBackup_changes (reportSupplies_changes (actOnState_changes
      (readDirectory_changes (writeStartEntry_changes hv _))))) _

theorem phaseP2_keepsMemories (t : PatternTest) : KeepsMemories (.phaseP2 t) := fun s hs => by
  show MemOkR (execPhaseP2 t s)
  unfold execPhaseP2
  have ht := patternTest_memOk hs t
  split
  · refine .next (stopStart_memOk (.of ?_ ht) _ _)
    exact setStart_changes (.refl _ _) _
  · exact MemOkR.ite (fun _ => .next hs) fun _ =>
      .next (.ite (fun _ => stopStart_memOk ht _ _) fun _ => .of (phaseDone_changes (.refl _ _) _) ht)

theorem phaseP3_keepsMemories : KeepsMemories .phaseP3 := fun s hs => by
  show MemOkR (execPhaseP3 s)
  unfold execPhaseP3
  refine MemOkR.ite (fun _ => .next hs) fun _ => MemOkR.ite (fun _ => .next (stopStart_memOk hs _ _)) fun _ => ?_
  dsimp only
  split
  · exact .next (.of (phaseDone_changes (.refl _ _) _) (useSlot_memOk hs _))
  · rename_i k _
    have he := MemOk.of (emit_changes (.refl _ s) 0x010E 255 (leN 1 (dirNow s).ronif ++ leN 1 k)) hs
    split
    · exact .next (.of (phaseDone_changes (.refl _ _) _) (useSlot_memOk he _))
    · exact .next (stopStart_memOk (.of (emit_changes (.refl _ _) _ _ _) he) _ _)

theorem phaseP4_keepsMemories : KeepsMemories .phaseP4 := fun s hs => by
  show MemOkR (execPhaseP4 s)
  unfold execPhaseP4
  refine MemOkR.ite (fun _ => .next hs) fun _ => MemOkR.ite (fun _ => .next (stopStart_memOk hs _ _)) fun _ => ?_
  split
  · exact .next (stopStart_memOk hs _ _)
  · refine .next (.of (phaseDone_changes (startLog_changes (noteBank_changes ?_ _ _)) _) hs)
    exact setStart_changes (.refl _ s) _

theorem phaseP5_keepsMemories : KeepsMemories .phaseP5 := fun s hs => by
  show MemOkR (execPhaseP5 s)
  unfold execPhaseP5
  refine MemOkR.ite (fun _ => .next hs) fun _ => MemOkR.ite (fun _ => .next (stopStart_memOk hs _ _)) fun _ => ?_
  split
  · exact .next (stopStart_memOk (checkPage_memOk (.of (loadHeartwood_changes (.refl _ s) _) hs) _ _) _ _)
  · refine .next (.of (phaseDone_changes (.refl _ _) _) (startHeartwood_memOk (checkPage_memOk (.of ?_ hs) _ _)))
    exact noteBank_changes (loadHeartwood_changes (.refl _ s) _) _ _

theorem phaseP6_keepsMemories (c : SelfCheck) : KeepsMemories (.phaseP6 c) := fun s hs => by
  show MemOkR (execPhaseP6 c s)
  unfold execPhaseP6
  have hc := selfCheck_memOk hs c
  refine MemOkR.ite (fun _ => .next hs) fun _ => MemOkR.ite (fun _ => .next (stopStart_memOk hs _ _)) fun _ =>
    MemOkR.ite (fun _ => .next (.of (setStart_changes (.refl _ s) _) hs)) fun _ => ?_
  split
  · exact .next (stopStart_memOk (.of (checkEvent_changes (.refl _ s) _ _) hs) _ _)
  · dsimp only
    split
    · exact .next (stopStart_memOk hc _ _)
    · rename_i u hu
      exact .next (.of (phaseDone_changes (.refl _ _) _)
        (.forBoughs _ (rebuildLedger_memOk hc hu) fun b v hv => closeInterrupted_memOk hv b))

theorem phaseP7_keepsMemories (startMs : Nat) : KeepsMemories (.phaseP7 startMs) := fun s hs => by
  show MemOkR (execPhaseP7 startMs s)
  unfold execPhaseP7
  extract_lets start t u v x y z
  have hu : Kept offMemory s u := emit_changes (setStart_changes (.refl _ s) _) _ _ _
  have hv := setLoads_changes hu (u.aux.map fun a => { a with fsFault := false, on := a.on && auxFailsafe u })
  have hx := auxAll_changes (auxEdge_changes (driveAll_changes (raiseIrq_changes hv 0)))
  have hy : Kept offMemory s y := .ite (fun _ => cnpListen_changes hx 1) fun _ => hx
  have hz : MemOk z := clearSummary_memOk (.of (serviceRequest_changes hy) hs)
  exact MemOkR.ite (fun _ => .next hs) fun _ => .next (.ite (fun _ =>
    .of (setUpdate_changes (.refl _ z) _) hz) fun _ => hz)

/-! ## The commits and the host port -/

theorem commitApply_keepsMemories (sub : Fin 16) : KeepsMemories (.commitApply sub) := fun s hs => by
  show MemOkR (execCommitApply sub s)
  unfold execCommitApply
  exact MemOkR.ite (fun _ => .next hs) fun _ => MemOkR.ite (fun _ => .next (applyBilCommit_memOk hs))
    fun _ => .next (checked_memOk hs _ _ fun _ hu => applyDevice_memOk hu _)

theorem commitBoughApply_keepsMemories (sub : Fin 16) (b : Bough) :
    KeepsMemories (.commitBoughApply sub b) := fun s hs => by
  show MemOkR (execCommitBoughApply sub b s)
  unfold execCommitBoughApply
  exact MemOkR.ite (fun _ => .next hs) fun _ => .next (checked_memOk hs _ _ fun _ hu => applyBough_memOk hu _ _)

theorem registerWrite_keepsMemories (addr : Nat) (bytes : List Byte) :
    KeepsMemories (.registerWrite addr bytes) := fun s hs => by
  show MemOkR (execRegisterWrite addr bytes s)
  unfold execRegisterWrite
  refine MemOkR.ite (fun _ => .next ?_) fun _ => .next (.of (endTransaction_changes (.refl _ _)) (.ite (fun _ =>
    ?_) fun _ => ?_))
  · exact .of (endTransaction_changes (queueCommand_changes (.refl _ s) _ _)) hs
  · exact writeSpan_memOk hs _ _
  · exact writeSpan_memOk (writeSpan_memOk hs _ _) _ _

theorem bulkRelease_keepsMemories : KeepsMemories .bulkRelease := fun _ hs =>
  MemOkR.next (.of (endTransaction_changes (.refl _ _)) (releaseBulk_memOk hs))

theorem hstRestart_keepsMemories (h : CmdHdr) (body : List Byte) :
    KeepsMemories (.hstRestart h body) := fun s hs => by
  show MemOkR (execHstRestart h body s)
  unfold execHstRestart
  exact MemOkR.ite (fun _ => .next (deviceReset_memOk hs)) fun _ => .next hs

/-! ## The ports and the dialogue -/

theorem plateauValue_keepsMemories (b : Bough) (positive : Bool) (mv : Int) :
    KeepsMemories (.plateauValue b positive mv) := fun s hs => by
  show MemOkR (execPlateauValue b positive mv s)
  unfold execPlateauValue
  dsimp only
  split
  · exact .next hs
  · exact .next hs
  · exact .next (.ite (fun _ => positivePlateau_memOk hs _ _) fun _ => hs)
  · exact .next (.ite (fun _ => positivePlateau_memOk hs _ _) fun _ => negativePlateau_memOk hs _ _)

theorem proximityMean_keepsMemories (b : Bough) : KeepsMemories (.proximityMean b) := fun s hs => by
  show MemOkR (execProximityMean b s)
  unfold execProximityMean
  refine MemOkR.ite (fun _ => .next ?_) fun _ => MemOkR.ite (fun _ => .next ?_) fun _ =>
    MemOkR.ite (fun _ => .next (.ite (fun _ => cableGone_memOk ?_ _) fun _ => ?_)) fun _ =>
      MemOkR.ite (fun _ => .next (.ite (fun _ => cableGone_memOk ?_ _) fun _ => ?_)) fun _ => .next ?_
  · exact .of (confirmPp_changes (onPort_changes (onPort_changes (.refl _ s) _ _) _ _) _ _) hs
  · exact .of (onPort_changes (.refl _ s) _ _) hs
  · exact .of (onPort_changes (onPort_changes (onPort_changes (.refl _ s) _ _) _ _) _ _) hs
  · exact .of (onPort_changes (onPort_changes (onPort_changes (.refl _ s) _ _) _ _) _ _) hs
  · exact .of (confirmPp_changes (onPort_changes (onPort_changes (onPort_changes (.refl _ s) _ _) _ _) _ _) _ _) hs
  · exact .of (confirmPp_changes (onPort_changes (onPort_changes (onPort_changes (.refl _ s) _ _) _ _) _ _) _ _) hs
  · exact .of (onPort_changes (onPort_changes (onPort_changes (.refl _ s) _ _) _ _) _ _) hs

theorem v2gRequest_keepsMemories (b : Bough) (r : V2G) : KeepsMemories (.v2gRequest b r) := fun s hs => by
  show MemOkR (execV2gRequest b r s)
  unfold execV2gRequest
  exact onLinked_memOk hs _ _ fun _ hu => .ite (fun _ => serveV2g_memOk hu _ _) fun _ =>
    .of (respond_changes (.refl _ _) _ _) hu

theorem paymentDetailsReq_keepsMemories (b : Bough) (emaid : List Byte) (subCas : Nat) (chainOk inDate : Bool) :
    KeepsMemories (.paymentDetailsReq b emaid subCas chainOk inDate) := fun s hs => by
  show MemOkR (execPaymentDetailsReq b emaid subCas chainOk inDate s)
  unfold execPaymentDetailsReq
  exact onLinked_memOk hs _ _ fun _ hu => .ite (fun _ => .of (respond_changes (.refl _ _) _ _) hu)
    fun _ => .of (respond_changes (.refl _ _) _ _) (offerIdent_memOk hu _ _)

theorem powerDeliveryReq_keepsMemories (b : Bough) (k : PowerDelivery) :
    KeepsMemories (.powerDeliveryReq b k) := fun s hs => by
  show MemOkR (execPowerDeliveryReq b k s)
  unfold execPowerDeliveryReq
  refine onLinked_memOk hs _ _ fun u hu => ?_
  split
  · exact .of (respond_changes (resume_changes (.refl _ u) _) _ _) hu
  · exact .of (respond_changes (.refl _ _) _ _) (stopTransfer_memOk hu _ _)
  · exact .of (respond_changes (suspend_changes (.refl _ u) _) _ _) hu
  · exact .of (respond_changes (suspend_changes (.refl _ u) _) _ _) hu

theorem sessionStopReq_keepsMemories (b : Bough) : KeepsMemories (.sessionStopReq b) := fun s hs => by
  show MemOkR (execSessionStopReq b s)
  unfold execSessionStopReq
  exact onLinked_memOk hs _ _ fun _ hu => .of (respond_changes (.refl _ _) _ _) (stopTransfer_memOk hu _ _)

theorem v2gTimerExpired_keepsMemories (b : Bough) (k : V2gTimer) :
    KeepsMemories (.v2gTimerExpired b k) := fun s hs => by
  show MemOkR (execV2gTimerExpired b k s)
  unfold execV2gTimerExpired
  exact onLinked_memOk hs _ _ fun _ hu => .ite (fun _ => stopTransfer_memOk hu _ _) fun _ => hu

/-! ## The sessions -/

theorem hostWaitExpired_keepsMemories (b : Bough) : KeepsMemories (.hostWaitExpired b) := fun s hs => by
  show MemOkR (execHostWaitExpired b s)
  unfold execHostWaitExpired
  refine onCore_memOk hs _ _ fun u hu => ?_
  split
  · exact .ite (fun _ => decideSilence_memOk hu _) fun _ => hu
  · exact .of (freeVendNow_changes (.refl _ u) _) hu
  · exact hu

theorem authHoldExpired_keepsMemories (b : Bough) : KeepsMemories (.authHoldExpired b) := fun s hs => by
  show MemOkR (execAuthHoldExpired b s)
  unfold execAuthHoldExpired
  exact onCore_memOk hs _ _ fun u hu => .ite (fun _ => finishSession_memOk (.of (onSes_changes (.refl _ u) _ _) hu) _)
    fun _ => hu

theorem creditCheck_keepsMemories (b : Bough) : KeepsMemories (.creditCheck b) := fun s hs => by
  show MemOkR (execCreditCheck b s)
  unfold execCreditCheck
  refine onCore_memOk hs _ _ fun u hu => .ite (fun _ => ?_) fun _ => .ite (fun _ => checkLimits_memOk ?_ _) fun _ => ?_
  · exact .of (reportCost_changes (.refl _ u) _) hu
  all_goals exact .of (takeNewGrant_changes (reportCost_changes (.refl _ u) _) _) hu

theorem grantExpired_keepsMemories (b : Bough) : KeepsMemories (.grantExpired b) := fun s hs => by
  show MemOkR (execGrantExpired b s)
  unfold execGrantExpired
  refine onCore_memOk hs _ _ fun u hu => ?_
  split
  · exact .ite (fun _ => stopTransfer_memOk hu _ _) fun _ => hu
  · exact hu

theorem currentAllowanceExpired_keepsMemories (b : Bough) :
    KeepsMemories (.currentAllowanceExpired b) := fun s hs => by
  show MemOkR (execCurrentAllowanceExpired b s)
  unfold execCurrentAllowanceExpired
  exact onCore_memOk hs _ _ fun _ hu => .ite (fun _ => stopTransfer_memOk hu _ _) fun _ => hu

theorem sesAuthAccept_keepsMemories (h : CmdHdr) (remote : Bool) (amount : Int) (expiry : Nat) (ident : List Byte) :
    KeepsMemories (.sesAuthAccept h remote amount expiry ident) := fun s hs => by
  show MemOkR (execSesAuthAccept h remote amount expiry ident s)
  unfold execSesAuthAccept
  exact MemOkR.ite (fun _ => .fault _) fun _ => onSesHdr_memOk hs _ _ fun _ => .next (authAccept_memOk hs _ _ _ _ _)

theorem sesAuthRefuse_keepsMemories (h : CmdHdr) (ident : List Byte) :
    KeepsMemories (.sesAuthRefuse h ident) := fun s hs => by
  show MemOkR (execSesAuthRefuse h ident s)
  unfold execSesAuthRefuse
  exact MemOkR.ite (fun _ => .fault _) fun _ => onSesHdr_memOk hs _ _ fun _ => .next (authRefuse_memOk hs _ _ _)

theorem sesIdent_keepsMemories (h : CmdHdr) (credential : List Byte) :
    KeepsMemories (.sesIdent h credential) := fun s hs => by
  show MemOkR (execSesIdent h credential s)
  unfold execSesIdent
  refine MemOkR.ite (fun _ => .fault _) fun _ => onSesHdr_memOk hs _ _ fun _ => ?_
  split
  · exact .next (.of (sesAnswer_changes (.refl _ s) _ _ _) hs)
  · exact .next (offerIdent_memOk hs _ _)
  · exact .next (offerIdent_memOk hs _ _)
  · exact .next (.of (authResult_changes (.refl _ s) _ _ _ _) hs)

theorem sesStop_keepsMemories (h : CmdHdr) : KeepsMemories (.sesStop h) := fun s hs => by
  show MemOkR (execSesStop h s)
  unfold execSesStop
  refine onSesHdr_memOk hs _ _ fun b => ?_
  split
  case h_5 => exact .next (stopSession_memOk (.of (onSes_changes (.refl _ s) _ _) hs) _ _)
  all_goals exact .next (.of (sesAnswer_changes (.refl _ s) _ _ _) hs)

theorem sesCreditAdd_keepsMemories (h : CmdHdr) (digest : List Byte) (amount : Int) :
    KeepsMemories (.sesCreditAdd h digest amount) := fun s hs => by
  show MemOkR (execSesCreditAdd h digest amount s)
  unfold execSesCreditAdd
  exact onRecord_memOk hs _ _ _ fun _ _ _ hu => addCredit_memOk hu _ _ _ _

theorem sesCreditSet_keepsMemories (h : CmdHdr) (digest : List Byte) (amount : Int) :
    KeepsMemories (.sesCreditSet h digest amount) := fun s hs => by
  show MemOkR (execSesCreditSet h digest amount s)
  unfold execSesCreditSet
  exact onRecord_memOk hs _ _ _ fun _ _ _ hu => .of (noteCut_changes (.refl _ _) _ _) (putCredit_memOk hu _ _ _ _ _)

theorem sesCreditCreate_keepsMemories (h : CmdHdr) (digest : List Byte) (flags : Byte) (amount : Int) :
    KeepsMemories (.sesCreditCreate h digest flags amount) := fun s hs => by
  show MemOkR (execSesCreditCreate h digest flags amount s)
  unfold execSesCreditCreate
  have hl := lookup_memOk hs (padTo 8 digest)
  dsimp only
  split
  · rename_i e
    exact .next (.of (sesAnswer_changes (.refl _ _) _ _ _) (.ofPair e hl))
  · rename_i e
    have hi := insertRecord_memOk (.ofPair e hl) (mkRecord (padTo 8 digest) (clampBalance amount) (flags ||| 1) 0)
    split
    · rename_i e'
      exact .next (.of (sesAnswer_changes (journal_changes (.refl _ _) _) _ _ _) (.ofPair e' hi))
    · rename_i e'
      exact .next (.of (sesAnswer_changes (.refl _ _) _ _ _) (.ofPair e' hi))

theorem sesCreditDelete_keepsMemories (h : CmdHdr) (digest : List Byte) :
    KeepsMemories (.sesCreditDelete h digest) := fun s hs => by
  show MemOkR (execSesCreditDelete h digest s)
  unfold execSesCreditDelete
  refine onRecord_memOk hs _ _ _ fun _ _ u hu => .ite (fun _ => ?_) fun _ => ?_
  · exact .of (sesAnswer_changes (.refl _ u) _ _ _) hu
  · exact .of (sesAnswer_changes (journal_changes (.refl _ _) _) _ _ _) (putSlot_memOk hu _ _)

theorem sesCreditSetFlags_keepsMemories (h : CmdHdr) (digest : List Byte) (flags : Byte) :
    KeepsMemories (.sesCreditSetFlags h digest flags) := fun s hs => by
  show MemOkR (execSesCreditSetFlags h digest flags s)
  unfold execSesCreditSetFlags
  refine onRecord_memOk hs _ _ _ fun _ _ _ hu => .of (sesAnswer_changes (.foldl _ _ (journal_changes (.refl _ _) _)
    fun _ _ hv => ?_) _ _ _) (putSlot_memOk hu _ _)
  exact .ite (fun _ => hv) fun _ => powerRequest_changes hv _

theorem sesLedgerLoadMerge_keepsMemories (h : CmdHdr) (count : Nat) :
    KeepsMemories (.sesLedgerLoadMerge h count) := fun s hs => by
  show MemOkR (execSesLedgerLoadMerge h count s)
  unfold execSesLedgerLoadMerge
  refine MemOkR.ite (fun _ => .fault _) fun _ => ?_
  dsimp only
  refine .next (loadAnswer_memOk (loadAll_memOk (.ite (fun _ => hs) fun _ => ?_) _ _ fun _ _ _ hu =>
    mergeOne_memOk hu _ _) _ _ _)
  exact .of (compact_changes (.refl _ s)) hs

theorem sesLedgerLoadReplace_keepsMemories (h : CmdHdr) (count : Nat) :
    KeepsMemories (.sesLedgerLoadReplace h count) := fun s hs => by
  show MemOkR (execSesLedgerLoadReplace h count s)
  unfold execSesLedgerLoadReplace
  refine MemOkR.ite (fun _ => .fault _) fun _ => MemOkR.ite (fun _ => .next (loadAnswer_memOk hs _ _ _)) fun _ => ?_
  dsimp only
  exact .next (loadAnswer_memOk (.of (compact_changes (.refl _ _)) (loadAll_memOk (emptyBank_memOk hs) _ _
    fun _ _ _ hu => replaceOne_memOk hu _ _)) _ _ _)

end Sys2Proof.Safety
end

section
/-! SUPPORT. The commands of the contactors, the power die, energy, the heartwood, the display, the canopy, the service tag, the
memories, the recorder and the update that write a byte memory (R278, R434, R550, R598, R664, R688) keep it canonical. -/

set_option Elab.async false

namespace Sys2Proof.Safety

open Sys2Proof.Machine

/-! ## The contactors -/

theorem closingSequence_keepsMemories (b : Bough) (k : AcStep) :
    KeepsMemories (.closingSequence b k) := fun s hs => by
  show MemOkR (execClosingSequence b k s)
  unfold execClosingSequence
  split
  · refine MemOkR.ite (fun _ => .next hs) fun _ => MemOkR.ite (fun _ => .next ?_) fun _ => .next ?_
    · exact .of (beginClosing_changes (.refl _ s) _ _) hs
    · exact trip_memOk (.of (onSaf_changes (.refl _ s) _ _) hs) _ _ _
  · exact MemOkR.ite (fun _ => .next (.of (followClosing_changes (.refl _ s) _ _ _) hs)) fun _ => .next hs

theorem dcClosingSequence_keepsMemories (b : Bough) (k : DcStep) :
    KeepsMemories (.dcClosingSequence b k) := fun s hs => by
  show MemOkR (execDcClosingSequence b k s)
  unfold execDcClosingSequence
  split
  · refine MemOkR.ite (fun _ => .next hs) fun _ => MemOkR.ite (fun _ => .next ?_) fun _ => .next ?_
    · exact trip_memOk (.of (onSaf_changes (.refl _ s) _ _) hs) _ _ _
    · exact .of (beginClosing_changes (.refl _ s) _ _) hs
  · refine MemOkR.ite (fun _ => .next hs) fun _ => MemOkR.ite (fun _ => .next ?_) fun _ => .next ?_
    all_goals exact .of (followClosing_changes (.refl _ s) _ _ _) hs
  · refine MemOkR.ite (fun _ => .next ?_) fun _ => .next hs
    exact .of (driveRequired_changes (onSaf_changes (.refl _ s) _ _) _ _) hs
  · exact .next (.of (mainClosed_changes (.refl _ s) _) hs)
  · exact .next (preReleased_memOk hs _)
  · exact .next (insulationDone_memOk hs _)

theorem closingConfirmTimeout_keepsMemories (b : Bough) : KeepsMemories (.closingConfirmTimeout b) := fun s hs => by
  show MemOkR (execClosingConfirmTimeout b s)
  unfold execClosingConfirmTimeout
  split
  case h_4 => exact .next hs
  all_goals exact .next (trip_memOk hs _ _ _)

theorem weldCheck_keepsMemories (b : Bough) (k : Fin 3) : KeepsMemories (.weldCheck b k) := fun s hs => by
  show MemOkR (execWeldCheck b k s)
  unfold execWeldCheck
  exact MemOkR.ite (fun _ => .next (preReleased_memOk hs _)) fun _ =>
    MemOkR.ite (fun _ => .next (weldResult_memOk hs _ _)) fun _ => .next hs

theorem weldRecheck_keepsMemories (b : Bough) (k : Fin 3) : KeepsMemories (.weldRecheck b k) := fun s hs => by
  show MemOkR (execWeldRecheck b k s)
  unfold execWeldRecheck
  exact MemOkR.ite (fun _ => .next (weldResult_memOk hs _ _)) fun _ => .next hs

theorem switchTestSlot_keepsMemories (slot : Fin 48) (r : TestResult) :
    KeepsMemories (.switchTestSlot slot r) := fun s hs => by
  show MemOkR (execSwitchTestSlot slot r s)
  unfold execSwitchTestSlot
  extract_lets bough k side again die t
  have ht : Kept offMemory s t := by
    refine .ite (fun _ => ?_) fun _ => ?_
    all_goals exact setStops_changes (.refl _ s) _
  split
  case h_1 => exact .next (.of (onCoil_changes ht _ _ _) hs)
  case h_6 => exact .next (.of (setStops_changes ht _) hs)
  case h_7 => exact .next (.of ht hs)
  all_goals exact .next (testFailed_memOk (.of ht hs) _ _ _ _ _)

theorem stuckOnCheck_keepsMemories (on : BitVec 48) : KeepsMemories (.stuckOnCheck on) := fun _ hs =>
  MemOkR.next (.foldl _ _ hs fun _ _ hu => stuckCheck_memOk hu _ _)

theorem coilCurrentLimit_keepsMemories (b : Bough) (_k : Fin 3) :
    KeepsMemories (.coilCurrentLimit b _k) := fun _ hs =>
  MemOkR.next (trip_memOk hs _ _ _)

theorem coilOpenDetect_keepsMemories (b : Bough) (k : Fin 3) : KeepsMemories (.coilOpenDetect b k) := fun s hs => by
  show MemOkR (execCoilOpenDetect b k s)
  unfold execCoilOpenDetect
  exact MemOkR.ite (fun _ => .next (trip_memOk hs _ _ _)) fun _ => .next hs

theorem coilSupplyLow_keepsMemories (b : Bough) : KeepsMemories (.coilSupplyLow b) := fun s hs => by
  show MemOkR (execCoilSupplyLow b s)
  unfold execCoilSupplyLow
  exact MemOkR.ite (fun _ => .next (trip_memOk hs _ _ _)) fun _ => .next hs

/-! ## The power die, residual current and insulation -/

theorem emergencyStop_keepsMemories (mvA mvB : Nat) : KeepsMemories (.emergencyStop mvA mvB) := fun s hs => by
  show MemOkR (execEmergencyStop mvA mvB s)
  unfold execEmergencyStop
  refine MemOkR.ite (fun _ => .next (fsEnter_memOk (.of (stopEvent_changes ?_) hs) _ _)) fun _ => .next ?_
  · exact setStops_changes (setPowerDie_changes (.refl _ s) _ rfl) _
  · exact .of (setPowerDie_changes (.refl _ s) _ rfl) hs

theorem estopDiscrepancy_keepsMemories : KeepsMemories .estopDiscrepancy := fun s hs => by
  show MemOkR (execEstopDiscrepancy s)
  unfold execEstopDiscrepancy
  exact MemOkR.ite (fun _ => .next hs) fun _ => .next (tripAll_memOk (.of (setStops_changes (.refl _ s) _) hs) _)

theorem heartbeatFrame_keepsMemories (beat : Bool) (counter : BitVec 4) (crcOk : Bool) :
    KeepsMemories (.heartbeatFrame beat counter crcOk) := fun s hs => by
  show MemOkR (execHeartbeatFrame beat counter crcOk s)
  unfold execHeartbeatFrame
  have hg := MemOk.of (linkGood_changes (.refl _ s)) hs
  refine MemOkR.ite (fun _ => .next (linkBad_memOk hs)) fun _ => MemOkR.ite (fun _ => .next hg) fun _ =>
    MemOkR.ite (fun _ => .next ?_) fun _ => .next ?_
  · exact .of (beatGood_changes (.refl _ _) _) hg
  · exact .of (setPowerDie_changes (.refl _ _) _ rfl) hg

theorem heartbeatPeriodMissed_keepsMemories : KeepsMemories .heartbeatPeriodMissed := fun s hs => by
  show MemOkR (execHeartbeatPeriodMissed s)
  unfold execHeartbeatPeriodMissed
  have hp := MemOk.of (setPowerDie_changes (.refl _ s)
    { s.safDev with hbMissed := s.safDev.hbMissed + 1, hbValid := 0, crcFails := 0 } rfl) hs
  exact MemOkR.ite (fun _ => .next (fsEnter_memOk hp _ _)) fun _ => .next hp

theorem logicWatchdogExpired_keepsMemories (c : Fin 2) : KeepsMemories (.logicWatchdogExpired c) := fun s hs => by
  show MemOkR (execLogicWatchdogExpired c s)
  unfold execLogicWatchdogExpired
  refine MemOkR.ite (fun _ => .next (.of (setStops_changes (.refl _ s) _) hs)) fun _ =>
    .next (.forBoughs _ (.of (emit_changes (setStops_changes (.refl _ s) _) _ _ _) hs) fun _ _ hu => ?_)
  exact .ite (fun _ => trip_memOk hu _ _ _) fun _ => hu

theorem safHoldSet_keepsMemories (h : CmdHdr) : KeepsMemories (.safHoldSet h) := fun s hs => by
  show MemOkR (execSafHoldSet h s)
  unfold execSafHoldSet
  refine onHdr_memOk hs _ _ fun _ =>
    .next (.of (answer_changes (.refl _ _) _ _ _ _) (holdSession_memOk (.of ?_ hs) _ _))
  exact onSaf_changes (.refl _ s) _ _

theorem sidePathSample_keepsMemories (b : Bough) (v : SideSample) : KeepsMemories (.sidePathSample b v) := fun s hs =>
  MemOkR.next (overvoltage_memOk (residualTrips_memOk
    (.of (measureResidual_changes (takeSide_changes (.refl _ s) _ _) _) hs) _) _)

theorem dcResidualPersistence_keepsMemories (b : Bough) (w : DcWindow) :
    KeepsMemories (.dcResidualPersistence b w) := fun s hs => by
  show MemOkR (execDcResidualPersistence b w s)
  unfold execDcResidualPersistence
  dsimp only
  split
  · exact .next (trip_memOk hs _ _ _)
  · exact .next hs

theorem bridgeStateEnd_keepsMemories (b : Bough) : KeepsMemories (.bridgeStateEnd b) := fun s hs => by
  show MemOkR (execBridgeStateEnd b s)
  unfold execBridgeStateEnd
  refine MemOkR.ite (fun _ => .next hs) fun _ => .next ?_
  exact .of (toggleBridge_changes (onMeas_changes (.refl _ _) _ _) _) (judgeInsulation_memOk hs _ _)

/-! ## Energy, the heartwood and the display -/

theorem saveTick_keepsMemories (slotFails : Nat) (halfFails : Bool) :
    KeepsMemories (.saveTick slotFails halfFails) := fun s hs => by
  show MemOkR (execSaveTick slotFails halfFails s)
  unfold execSaveTick
  refine MemOkR.ite (fun _ => .next hs) fun _ => ?_
  extract_lets nv flash t bil u cause bil' v w
  have hu : MemOk u := by
    refine .of (s := s) (failSlots_changes ?_ _) hs
    exact setHeartwood_changes (setFlash_changes (.refl _ s) _) _
  have hv : Kept offMemory u v := setHeartwood_changes (.refl _ u) _
  have hw : Kept offMemory u w := .ite (fun _ => hv) fun _ => writeSave_changes hv _
  exact MemOkR.ite (fun _ => .next (fatalError_memOk hu _ _ _)) fun _ =>
    .next (.forBoughs _ (.of hw hu) fun _ _ hx => journalSession_memOk hx _)

theorem bilTimeSet_keepsMemories (h : CmdHdr) (utc : BitVec 32) (offset : Byte) :
    KeepsMemories (.bilTimeSet h utc offset) := fun s hs => by
  show MemOkR (execBilTimeSet h utc offset s)
  unfold execBilTimeSet
  dsimp only
  refine .next (.of (answer_changes (.refl _ _) _ _ _ _) (.ite (fun _ => hostSetTime_memOk (.ite (fun _ =>
    hs) fun _ => ?_) _)
    fun _ => hs))
  exact .of (setOffset_changes (.refl _ s) _) hs

theorem bilReadGet_keepsMemories (h : CmdHdr) (first count : Nat) :
    KeepsMemories (.bilReadGet h first count) := fun s hs => by
  show MemOkR (execBilReadGet h first count s)
  unfold execBilReadGet
  refine MemOkR.ite (fun _ => .next (.of (answer_changes (.refl _ s) _ _ _ _) hs)) fun _ => ?_
  split
  · exact .next (.of (answer_changes (.refl _ s) _ _ _ _) hs)
  · exact .next (.of (answer_changes (.refl _ _) _ _ _ _) (bulkOut_memOk hs _ _))

theorem billingBoundary_keepsMemories : KeepsMemories .billingBoundary := fun s hs => by
  show MemOkR (execBillingBoundary s)
  unfold execBillingBoundary
  exact MemOkR.ite (fun _ => .next (boundary_memOk hs)) fun _ => .next hs

theorem checkValueRecompute_keepsMemories : KeepsMemories .checkValueRecompute := fun s hs => by
  show MemOkR (execCheckValueRecompute s)
  unfold execCheckValueRecompute
  exact MemOkR.ite (fun _ => .next (recomputeCheck_memOk hs)) fun _ => .next hs

theorem dispbtnPress_keepsMemories : KeepsMemories .dispbtnPress := fun s hs => by
  show MemOkR (execDispbtnPress s)
  unfold execDispbtnPress
  refine MemOkR.ite (fun _ => .next hs) fun _ => MemOkR.ite (fun _ => .next ?_) fun _ => MemOkR.ite (fun _ => .next ?_)
    fun _ => .next hs
  · exact .of (auxAll_changes (leaveLowPower_changes (.refl _ s))) hs
  · have hp := MemOk.of (setDisplay_changes (.refl _ s) { s.lcd with page := nextPage s }) hs
    exact .ite (fun _ => recomputeCheck_memOk hp) fun _ => hp

/-! ## The canopy link and the service tag -/

theorem beaconReceived_keepsMemories (f : CnpRx) : KeepsMemories (.beaconReceived f) := fun s hs => by
  show MemOkR (execBeaconReceived f s)
  unfold execBeaconReceived
  refine onFrame_memOk hs _ _ _ fun body u hu => ?_
  have he := MemOk.of (emit_changes (.refl _ u) 0x0A0D 255
    (leN 1 (fcSrc f) ++ leN 1 (beaconOf body).rank ++ leN 1 (b2n (keepsRole (fcSrc f) (beaconOf body) u)))) hu
  refine .ite (fun _ => .ite (fun _ => he) fun _ => heardBeacon_memOk (.of ?_ he) _ _) fun _ => heardBeacon_memOk hu _ _
  exact setCanopy_changes (.refl _ _) _

theorem tagWrite_keepsMemories (page off : Nat) (data : List Byte) (fin : WriteEnd) :
    KeepsMemories (.tagWrite page off data fin) := fun s hs => by
  show MemOkR (execTagWrite page off data fin s)
  unfold execTagWrite
  refine whenSelected_memOk hs _ fun u hu => .ite (fun _ => .of (refuseWrite_changes (.refl _ u) _ _) hu) fun _ => ?_
  split
  · exact writeField_memOk hu _ _ _
  · exact .of (refuseWrite_changes (.refl _ _) _ _) (abandonPage_memOk hu _)
  · refine .of (fieldGone_changes (.refl _ _)) (.ite (fun _ => ?_) fun _ => ?_)
    · exact writeField_memOk hu _ _ _
    · exact cutWrite_memOk hu _ _ _

theorem tagFlush_keepsMemories (h : CmdHdr) (fin : FlushEnd) : KeepsMemories (.tagFlush h fin) := fun s hs => by
  show MemOkR (execTagFlush h fin s)
  unfold execTagFlush
  have hdone := MemOk.of (answer_changes (.refl _ _) 0x0B04 255 h.tag (leN 1 0))
    (.foldl (markedPages s) (fun t p => flushPage p t) hs fun _ _ hu => flushPage_memOk hu _)
  dsimp only
  split
  · exact .next hdone
  · refine MemOkR.ite (fun _ => .next ?_) fun _ => .next hdone
    exact .of (answer_changes (.refl _ _) _ _ _ _) (abandonPage_memOk (flushBelow_memOk hs _) _)
  · refine MemOkR.ite (fun _ => .next hdone) fun _ => MemOkR.ite (fun _ => .next ?_) fun _ => .next ?_
    · exact flushPage_memOk (flushBelow_memOk hs _) _
    · rename_i p k _ _
      have hc := cutWrite_memOk (flushBelow_memOk hs p) p (flushContent (flushBelow p s) p) k.val
      exact .of (setTag_changes (.refl _ _) _ rfl) hc

theorem tagPowerUp_keepsMemories : KeepsMemories .tagPowerUp := fun s hs => by
  show MemOkR (execTagPowerUp s)
  unfold execTagPowerUp
  refine MemOkR.ite (fun _ => .next hs) fun _ => .next ?_
  have hr := MemOk.of (setTag_changes (.refl _ s) { s.tag with recovered := false } rfl) hs
  exact .of (setTag_changes (.refl _ _) _ rfl) (.foldl _ _ hr fun _ _ hu => recoverPair_memOk hu _)

theorem meterSnapshot_keepsMemories : KeepsMemories .meterSnapshot := fun s hs => by
  show MemOkR (execMeterSnapshot s)
  unfold execMeterSnapshot
  exact MemOkR.ite (fun _ => .next (meterSnapshot_memOk hs)) fun _ => .next hs

/-! ## The memories -/

theorem lbistSlice_keepsMemories (part : Fin 14) (granted : Bool) (sig : BitVec 32) :
    KeepsMemories (.lbistSlice part granted sig) := fun s hs => by
  show MemOkR (execLbistSlice part granted sig s)
  unfold execLbistSlice
  refine MemOkR.ite (fun _ => .next hs) fun _ => MemOkR.ite (fun _ => .next (.ite (fun _ => ?_) fun _ =>
    ?_)) fun _ => .next ?_
  · refine .of ?_ hs
    exact setMemory_changes (t := { s with host.bistRunning := true, host.bistRetry := false })
      (setLink_changes (.refl _ s) _ _ _ _ _) _ rfl
  · exact .of (setMemory_changes (.refl _ s) _ rfl) hs
  · refine endRun_memOk (.of ?_ hs) _ _
    exact setMemory_changes (t := { s with host.bistRetry := s.host.bistRetry && part != 3 })
      (setLink_changes (.refl _ s) _ _ _ _ _) _ rfl

theorem marchSlice_keepsMemories (hard : List (Nat × Nat)) : KeepsMemories (.marchSlice hard) := fun s hs => by
  show MemOkR (execMarchSlice hard s)
  unfold execMarchSlice
  refine MemOkR.ite (fun _ => .next hs) fun _ => MemOkR.ite (fun _ => MemOkR.ite (fun _ => .next ?_) fun _ => .next ?_)
    fun _ => ?_
  · exact .of (setMemory_changes (setMemory_changes (.refl _ s) _ rfl) _ rfl) hs
  · refine .of (marchNext_changes (.refl _ _)) (marchAt_memOk (.of ?_ hs) _ _)
    exact setMemory_changes (.refl _ s) _ rfl
  · split
    · refine .next (.of (marchNext_changes (.refl _ _)) (marchAt_memOk (.of ?_ hs) _ _))
      exact setMemory_changes (.refl _ s) _ rfl
    · exact .next (.of (marchNext_changes (.refl _ s)) hs)

theorem scrubRow_keepsMemories : KeepsMemories .scrubRow := fun s hs => by
  show MemOkR (execScrubRow s)
  unfold execScrubRow
  refine MemOkR.ite (fun _ => .next hs) fun _ => MemOkR.ite (fun _ => .next ?_) fun _ => .next ?_
  all_goals exact .of (setMemory_changes (.refl _ _) _ rfl) (scrubAt_memOk hs _)

theorem heartwoodScrubRow_keepsMemories : KeepsMemories .heartwoodScrubRow := fun s hs => by
  show MemOkR (execHeartwoodScrubRow s)
  unfold execHeartwoodScrubRow
  refine MemOkR.ite (fun _ => .next hs) fun _ => .next ?_
  exact .of (setMemory_changes (.refl _ _) _ rfl) (scrubAt_memOk hs _)

theorem memMapGet_keepsMemories (h : CmdHdr) : KeepsMemories (.memMapGet h) := fun s hs => by
  show MemOkR (execMemMapGet h s)
  unfold execMemMapGet
  exact .next (.of (answer_changes (.refl _ _) _ _ _ _) (bulkOut_memOk hs _ _))

/-! ## The recorder and the update -/

theorem logRead_keepsMemories (h : CmdHdr) (ring first limit : Nat) :
    KeepsMemories (.logRead h ring first limit) := fun s hs => by
  show MemOkR (execLogRead h ring first limit s)
  unfold execLogRead
  refine MemOkR.ite (fun _ => logAnswer_memOk hs _ _ _) fun _ => MemOkR.ite (fun _ =>
    logAnswer_memOk hs _ _ _) fun _ => ?_
  split
  · exact logAnswer_memOk hs _ _ _
  · split
    · exact logAnswer_memOk hs _ _ _
    · exact logAnswer_memOk (bulkOut_memOk hs _ _) _ _ _

theorem logClear_keepsMemories (h : CmdHdr) (scope : Byte) : KeepsMemories (.logClear h scope) := fun s hs => by
  show MemOkR (execLogClear h scope s)
  unfold execLogClear
  refine MemOkR.ite (fun _ => logAnswer_memOk hs _ _ _) fun _ => MemOkR.ite (fun _ =>
    logAnswer_memOk hs _ _ _) fun _ => ?_
  extract_lets coded general gone top u v₁ f₁ v v₂ f₂ w l x
  have hv : Kept offMemory s v :=
    .ite (fun _ => setFlash_changes (emit_changes (.refl _ s) _ _ _) _) fun _ => emit_changes (.refl _ s) _ _ _
  have hw : Kept offMemory s w := .ite (fun _ => setFlash_changes hv _) fun _ => hv
  have hx : MemOk x := .ite (fun _ => summarise_memOk (.of (snapshotHists_changes (setRecorder_changes hw _)) hs))
    fun _ => .of hw hs
  exact logAnswer_memOk hx _ _ _

theorem logDumpRead_keepsMemories (h : CmdHdr) (slot off : Nat) :
    KeepsMemories (.logDumpRead h slot off) := fun s hs => by
  show MemOkR (execLogDumpRead h slot off s)
  unfold execLogDumpRead
  refine MemOkR.ite (fun _ => logAnswer_memOk hs _ _ _) fun _ => MemOkR.ite (fun _ =>
    logAnswer_memOk hs _ _ _) fun _ => ?_
  dsimp only
  refine MemOkR.ite (fun _ => logAnswer_memOk hs _ _ _) fun _ => MemOkR.ite (fun _ =>
    logAnswer_memOk hs _ _ _) fun _ => ?_
  exact logAnswer_memOk (bulkOut_memOk hs _ _) _ _ _

theorem logHistGet_keepsMemories (h : CmdHdr) : KeepsMemories (.logHistGet h) := fun s hs => by
  show MemOkR (execLogHistGet h s)
  unfold execLogHistGet
  exact MemOkR.ite (fun _ => logAnswer_memOk hs _ _ _) fun _ => logAnswer_memOk (bulkOut_memOk hs _ _) _ _ _

theorem tagHistogramSummary_keepsMemories : KeepsMemories .tagHistogramSummary := fun s hs => by
  show MemOkR (execTagHistogramSummary s)
  unfold execTagHistogramSummary
  exact .next (.ite (fun _ => summarise_memOk hs) fun _ => hs)

theorem fatalRestart_keepsMemories : KeepsMemories .fatalRestart := fun s hs => by
  show MemOkR (execFatalRestart s)
  unfold execFatalRestart
  split
  · exact .next hs
  · refine MemOkR.ite (fun _ => .next hs) fun _ => ?_
    extract_lets first t after waits recent flash
    have ht : MemOk t := .ite (fun _ => finishDump_memOk hs) fun _ => hs
    exact MemOkR.ite (fun _ => .next (.of (setRecorder_changes (.refl _ t) _) ht)) fun _ =>
      MemOkR.ite (fun _ => .next ht) fun _ => MemOkR.ite (fun _ => .next (enterHold_memOk ht))
        fun _ => .next (deviceReset_memOk (.of (setFlash_changes (.refl _ t) _) ht))

theorem updChunk_keepsMemories (h : CmdHdr) (off len : Nat) : KeepsMemories (.updChunk h off len) := fun s hs => by
  show MemOkR (execUpdChunk h off len s)
  unfold execUpdChunk
  have hb := bulkIn_memOk hs 0x8F02
  refine MemOkR.ite (fun _ => .next (.of (updAnswer_changes (.refl _ s) _ _ _) hs)) fun _ => ?_
  split
  · exact .next (.of (updAnswer_changes (.refl _ _) _ _ _) hb)
  · refine MemOkR.ite (fun _ => .next (.of (updAnswer_changes (.refl _ _) _ _ _) hb)) fun _ => ?_
    dsimp only
    refine MemOkR.ite (fun _ => ?_) fun _ => ?_
    · exact .next (.of (updAnswer_changes (setUpdate_changes (.refl _ _) _) _ _ _) hb)
    · exact .next (.of (updAnswer_changes (putArea_changes (setUpdate_changes (.refl _ _) _) _ _ _) _ _ _) hb)

theorem activationCondition_keepsMemories : KeepsMemories .activationCondition := fun s hs => by
  show MemOkR (execActivationCondition s)
  unfold execActivationCondition
  refine MemOkR.ite (fun _ => .next hs) fun _ => .next (.forBoughs _ (.of (emit_changes ?_ _ _ _) hs) fun _ u hu =>
    .ite (fun _ => ?_) fun _ => ?_)
  · exact setUpdate_changes (.refl _ s) _
  · exact .of (onSesL_changes (.refl _ u) _ _) hu
  · exact holdSession_memOk (.of (onSaf_changes (.refl _ u) _ _) hu) _ _

theorem drainEnd_keepsMemories : KeepsMemories .drainEnd := fun s hs => by
  show MemOkR (execDrainEnd s)
  unfold execDrainEnd
  refine MemOkR.ite (fun _ => .next hs) fun _ =>
    .next (orderedReset_memOk (.of (emit_changes (writeDir_changes ?_ _ _ _) _ _ _) hs))
  exact .ite (fun _ => writeSave_changes (.refl _ s) _) fun _ => .refl _ s

theorem updAbort_keepsMemories (h : CmdHdr) : KeepsMemories (.updAbort h) := fun s hs => by
  show MemOkR (execUpdAbort h s)
  unfold execUpdAbort
  refine MemOkR.ite (fun _ => .next (orderedReset_memOk ?_)) fun _ => .next (.of (updAnswer_changes (.ite (fun _ =>
    ?_) fun _ => ?_) _ _ _) hs)
  · exact .of (updAnswer_changes (fallBack_changes (.refl _ s) _ _) _ _ _) hs
  · exact dropStage_changes (.refl _ s) _
  · exact dropSchedule_changes (dropStage_changes (.refl _ s) _)

theorem confirmationWindowEnd_keepsMemories : KeepsMemories .confirmationWindowEnd := fun s hs => by
  show MemOkR (execConfirmationWindowEnd s)
  unfold execConfirmationWindowEnd
  refine MemOkR.ite (fun _ => .next hs) fun _ => MemOkR.ite (fun _ => .next ?_) fun _ => .next (deviceReset_memOk ?_)
  · exact .of (confirmUpdate_changes (.refl _ s) _) hs
  · exact .of (writeDir_changes (.refl _ s) _ _ _) hs

end Sys2Proof.Safety
end

section
/-! SUPPORT. Every step keeps the byte memories canonical: the commands put together, and the dispatch of a host's message, which
runs one of them. -/

set_option Elab.async false

namespace Sys2Proof.Safety

open Sys2Proof.Machine

/-- Each command but the dispatch keeps the byte memories: by its frame where that holds none of them, else by the
operations that write them. -/
theorem exec_keepsMemories (i : Instr) (hi : i ≠ .commandDispatch) : KeepsMemories i := by
  cases i
  case commandDispatch => exact absurd rfl hi
  case latticeTick a b => exact latticeTick_keepsMemories a b
  case trunkFlit a b c => exact trunkFlit_keepsMemories a b c
  case laneFailed a => exact laneFailed_keepsMemories a
  case spareLanePattern a => exact (spareLanePattern_frame a).keepsMemories
  case paceCount a => exact (paceCount_frame a).keepsMemories
  case crystalCheck a => exact (crystalCheck_frame a).keepsMemories
  case cryptoRequest a => exact (cryptoRequest_frame a).keepsMemories
  case heartwoodMailboxWrite a => exact (heartwoodMailboxWrite_frame a).keepsMemories
  case sampleFrame a => exact (sampleFrame_frame a).keepsMemories
  case energyResultAccept a b => exact (energyResultAccept_frame a b).keepsMemories
  case supplyTrip a b => exact supplyTrip_keepsMemories a b
  case supplyRecovery a => exact (supplyRecovery_frame a).keepsMemories
  case backupSwitchover a => exact (backupSwitchover_frame a).keepsMemories
  case dieTempUpdate a b c => exact (dieTempUpdate_frame a b c).keepsMemories
  case powerDieThermalShutdown a => exact powerDieThermalShutdown_keepsMemories a
  case resetnLow a => exact resetnLow_keepsMemories a
  case resetRelease a b => exact resetRelease_keepsMemories a b
  case phaseP1 a b => exact phaseP1_keepsMemories a b
  case phaseP2 a => exact phaseP2_keepsMemories a
  case phaseP6 a => exact phaseP6_keepsMemories a
  case phaseP7 a => exact phaseP7_keepsMemories a
  case commitAccept a => exact (commitAccept_frame a).keepsMemories
  case commitApply a => exact commitApply_keepsMemories a
  case commitBoughApply a b => exact commitBoughApply_keepsMemories a b
  case registerWrite a b => exact registerWrite_keepsMemories a b
  case plateauValue a b c => exact plateauValue_keepsMemories a b c
  case pilotFaultProbe a b => exact (pilotFaultProbe_frame a b).keepsMemories
  case proximityMean a => exact proximityMean_keepsMemories a
  case cmSlacParmReq a b c => exact (cmSlacParmReq_frame a b c).keepsMemories
  case cmStartAttenCharInd a b c => exact (cmStartAttenCharInd_frame a b c).keepsMemories
  case cmMnbcSoundInd a b c d e => exact (cmMnbcSoundInd_frame a b c d e).keepsMemories
  case soundingEnd a b => exact (soundingEnd_frame a b).keepsMemories
  case cmSlacMatchReq a b => exact (cmSlacMatchReq_frame a b).keepsMemories
  case cmValidateReq a b => exact (cmValidateReq_frame a b).keepsMemories
  case validateCountEnd a => exact (validateCountEnd_frame a).keepsMemories
  case slacWindowExpired a => exact (slacWindowExpired_frame a).keepsMemories
  case staggerRelease a => exact (staggerRelease_frame a).keepsMemories
  case modemFrameReceived a b c d => exact (modemFrameReceived_frame a b c d).keepsMemories
  case selectiveAckReceived a b => exact (selectiveAckReceived_frame a b).keepsMemories
  case modemFrameTransmit a b c d e => exact (modemFrameTransmit_frame a b c d e).keepsMemories
  case seccDiscoveryReq a b c => exact (seccDiscoveryReq_frame a b c).keepsMemories
  case supportedAppProtocol a b c d e => exact (supportedAppProtocol_frame a b c d e).keepsMemories
  case v2gRequest a b => exact v2gRequest_keepsMemories a b
  case paymentDetailsReq a b c d e => exact paymentDetailsReq_keepsMemories a b c d e
  case cableCheckReq a => exact (cableCheckReq_frame a).keepsMemories
  case powerDeliveryReq a b => exact powerDeliveryReq_keepsMemories a b
  case sessionStopReq a => exact sessionStopReq_keepsMemories a
  case certificateInstallationReq a => exact (certificateInstallationReq_frame a).keepsMemories
  case v2gTimerExpired a b => exact v2gTimerExpired_keepsMemories a b
  case hostWaitExpired a => exact hostWaitExpired_keepsMemories a
  case authHoldExpired a => exact authHoldExpired_keepsMemories a
  case creditCheck a => exact creditCheck_keepsMemories a
  case grantExpired a => exact grantExpired_keepsMemories a
  case hostCeilingExpired a => exact (hostCeilingExpired_frame a).keepsMemories
  case ceilingBelowMinimum a => exact (ceilingBelowMinimum_frame a).keepsMemories
  case stopWaitEnd a => exact (stopWaitEnd_frame a).keepsMemories
  case powerRequest a => exact (powerRequest_frame a).keepsMemories
  case currentAllowanceExpired a => exact currentAllowanceExpired_keepsMemories a
  case sesAuthAccept a b c d e => exact sesAuthAccept_keepsMemories a b c d e
  case sesAuthRefuse a b => exact sesAuthRefuse_keepsMemories a b
  case sesIdent a b => exact sesIdent_keepsMemories a b
  case sesStop a => exact sesStop_keepsMemories a
  case sesGrant a b c => exact (sesGrant_frame a b c).keepsMemories
  case sesCeiling a b c => exact (sesCeiling_frame a b c).keepsMemories
  case sesCreditAdd a b c => exact sesCreditAdd_keepsMemories a b c
  case sesCreditSet a b c => exact sesCreditSet_keepsMemories a b c
  case sesCreditCreate a b c d => exact sesCreditCreate_keepsMemories a b c d
  case sesCreditDelete a b => exact sesCreditDelete_keepsMemories a b
  case sesCreditSetFlags a b c => exact sesCreditSetFlags_keepsMemories a b c
  case sesLedgerLoadMerge a b => exact sesLedgerLoadMerge_keepsMemories a b
  case sesLedgerLoadReplace a b => exact sesLedgerLoadReplace_keepsMemories a b
  case closingSequence a b => exact closingSequence_keepsMemories a b
  case dcClosingSequence a b => exact dcClosingSequence_keepsMemories a b
  case contactConfirmed a => exact (contactConfirmed_frame a).keepsMemories
  case closingConfirmTimeout a => exact closingConfirmTimeout_keepsMemories a
  case prechargeComplete a => exact (prechargeComplete_frame a).keepsMemories
  case ordinaryOpening a => exact (ordinaryOpening_frame a).keepsMemories
  case secondRelease a => exact (secondRelease_frame a).keepsMemories
  case weldCheck a b => exact weldCheck_keepsMemories a b
  case weldRecheck a b => exact weldRecheck_keepsMemories a b
  case switchTestSlot a b => exact switchTestSlot_keepsMemories a b
  case stuckOnCheck a => exact stuckOnCheck_keepsMemories a
  case coilCurrentLimit a b => exact coilCurrentLimit_keepsMemories a b
  case coilOpenDetect a b => exact coilOpenDetect_keepsMemories a b
  case coilSupplyLow a => exact coilSupplyLow_keepsMemories a
  case emergencyStop a b => exact emergencyStop_keepsMemories a b
  case sidePathSample a b => exact sidePathSample_keepsMemories a b
  case dcResidualPersistence a b => exact dcResidualPersistence_keepsMemories a b
  case bridgeStateEnd a => exact bridgeStateEnd_keepsMemories a
  case heartbeatSend a => exact (heartbeatSend_frame a).keepsMemories
  case heartbeatFrame a b c => exact heartbeatFrame_keepsMemories a b c
  case coreService a => exact (coreService_frame a).keepsMemories
  case logicWatchdogExpired a => exact logicWatchdogExpired_keepsMemories a
  case safClear a b => exact (safClear_frame a b).keepsMemories
  case safHoldSet a => exact safHoldSet_keepsMemories a
  case safHoldRelease a => exact (safHoldRelease_frame a).keepsMemories
  case patrolVisitEnd a => exact (patrolVisitEnd_frame a).keepsMemories
  case modulatorStuck a b => exact (modulatorStuck_frame a b).keepsMemories
  case reserveChainsFilled a => exact (reserveChainsFilled_frame a).keepsMemories
  case hotSwapFitStart a => exact (hotSwapFitStart_frame a).keepsMemories
  case hotSwapFitEnd a b => exact (hotSwapFitEnd_frame a b).keepsMemories
  case mtrCal a b c d e => exact (mtrCal_frame a b c d e).keepsMemories
  case mtrCalEnd a => exact (mtrCalEnd_frame a).keepsMemories
  case mtrSwapHot a b => exact (mtrSwapHot_frame a b).keepsMemories
  case mtrSwapReturn a b => exact (mtrSwapReturn_frame a b).keepsMemories
  case swapReturnCompareEnd a b => exact (swapReturnCompareEnd_frame a b).keepsMemories
  case mtrSwapAbort a b => exact (mtrSwapAbort_frame a b).keepsMemories
  case mtrSwapReadmit a b => exact (mtrSwapReadmit_frame a b).keepsMemories
  case cycleEnd a b c => exact (cycleEnd_frame a b c).keepsMemories
  case noCrossingTimeout a => exact (noCrossingTimeout_frame a).keepsMemories
  case noGridCycle a => exact (noGridCycle_frame a).keepsMemories
  case meteringGapOpen a b => exact (meteringGapOpen_frame a b).keepsMemories
  case saveTick a b => exact saveTick_keepsMemories a b
  case nrgRead a => exact (nrgRead_frame a).keepsMemories
  case nrgReadReply a => exact (nrgReadReply_frame a).keepsMemories
  case gateSilence a => exact (gateSilence_frame a).keepsMemories
  case bilTimeSet a b c => exact bilTimeSet_keepsMemories a b c
  case bilReadAck a b => exact (bilReadAck_frame a b).keepsMemories
  case bilReadNow a => exact (bilReadNow_frame a).keepsMemories
  case bilInfo a => exact (bilInfo_frame a).keepsMemories
  case bilReadGet a b c => exact bilReadGet_keepsMemories a b c
  case auxSet a b c => exact (auxSet_frame a b c).keepsMemories
  case auxClear a b => exact (auxClear_frame a b).keepsMemories
  case inrushWindowEnd a => exact (inrushWindowEnd_frame a).keepsMemories
  case channelOvercurrent a => exact (channelOvercurrent_frame a).keepsMemories
  case channelThermalFault a b => exact (channelThermalFault_frame a b).keepsMemories
  case hotClear a b => exact (hotClear_frame a b).keepsMemories
  case retryRestart a => exact (retryRestart_frame a).keepsMemories
  case retryCountReset a => exact (retryCountReset_frame a).keepsMemories
  case lampCompensation a b => exact (lampCompensation_frame a b).keepsMemories
  case groupSupplyReturn a => exact (groupSupplyReturn_frame a).keepsMemories
  case vlcdOutOfRange a => exact (vlcdOutOfRange_frame a).keepsMemories
  case czcEdge a => exact (czcEdge_frame a).keepsMemories
  case beaconReceived a => exact beaconReceived_keepsMemories a
  case joinRequest a => exact (joinRequest_frame a).keepsMemories
  case memberTimeout a => exact (memberTimeout_frame a).keepsMemories
  case canopyDataFrame a => exact (canopyDataFrame_frame a).keepsMemories
  case canopyAck a b => exact (canopyAck_frame a b).keepsMemories
  case toneMapFrame a b c => exact (toneMapFrame_frame a b c).keepsMemories
  case toneMapExpired a => exact (toneMapExpired_frame a).keepsMemories
  case statusFrame a => exact (statusFrame_frame a).keepsMemories
  case ceilingFrame a => exact (ceilingFrame_frame a).keepsMemories
  case tripFrame a => exact (tripFrame_frame a).keepsMemories
  case cnpSend a b c d => exact (cnpSend_frame a b c d).keepsMemories
  case fieldArrived a => exact (fieldArrived_frame a).keepsMemories
  case reqb a b => exact (reqb_frame a b).keepsMemories
  case wupb a b => exact (wupb_frame a b).keepsMemories
  case slotMarker a => exact (slotMarker_frame a).keepsMemories
  case attrib a b => exact (attrib_frame a b).keepsMemories
  case tagRead a b => exact (tagRead_frame a b).keepsMemories
  case tagWrite a b c d => exact tagWrite_keepsMemories a b c d
  case tagArbiterGrant a b => exact (tagArbiterGrant_frame a b).keepsMemories
  case tagFlush a b => exact tagFlush_keepsMemories a b
  case keyChallenge a => exact (keyChallenge_frame a).keepsMemories
  case keyLifecycle a b c d => exact (keyLifecycle_frame a b c d).keepsMemories
  case keyInstall a b c d e => exact (keyInstall_frame a b c d e).keepsMemories
  case keyInfo a => exact (keyInfo_frame a).keepsMemories
  case tamperSample a b c => exact (tamperSample_frame a b c).keepsMemories
  case loopRearm a => exact (loopRearm_frame a).keepsMemories
  case drbgHealthFail a => exact (drbgHealthFail_frame a).keepsMemories
  case drbgRetest a => exact (drbgRetest_frame a).keepsMemories
  case lbistSlice a b c => exact lbistSlice_keepsMemories a b c
  case marchSlice a => exact marchSlice_keepsMemories a
  case memInjectMode0 a b c => exact (memInjectMode0_frame a b c).keepsMemories
  case memInjectMode1 a => exact (memInjectMode1_frame a).keepsMemories
  case memMapGet a => exact memMapGet_keepsMemories a
  case histogramSample a => exact (histogramSample_frame a).keepsMemories
  case dumpSlotErased a => exact (dumpSlotErased_frame a).keepsMemories
  case logRead a b c d => exact logRead_keepsMemories a b c d
  case logClear a b => exact logClear_keepsMemories a b
  case logDumpRead a b c => exact logDumpRead_keepsMemories a b c
  case logDumpAck a b => exact (logDumpAck_frame a b).keepsMemories
  case logHistGet a => exact logHistGet_keepsMemories a
  case updBegin a b => exact (updBegin_frame a b).keepsMemories
  case updChunk a b c => exact updChunk_keepsMemories a b c
  case updEnd a => exact (updEnd_frame a).keepsMemories
  case updSchedule a b c => exact (updSchedule_frame a b c).keepsMemories
  case updConfirm a => exact (updConfirm_frame a).keepsMemories
  case updAbort a => exact updAbort_keepsMemories a
  case commandQueueWrite a b => exact (commandQueueWrite_frame a b).keepsMemories
  case eventQueueRead a b => exact (eventQueueRead_frame a b).keepsMemories
  case hstIrqClear a => exact (hstIrqClear_frame a).keepsMemories
  case hstCommitDoneClear a => exact (hstCommitDoneClear_frame a).keepsMemories
  case hstRestart a b => exact hstRestart_keepsMemories a b
  case hstEcho a b => exact (hstEcho_frame a b).keepsMemories
  case channelLimitReached a => exact (channelLimitReached_frame a).keepsMemories
  case calendarSecond => exact calendarSecond_frame.keepsMemories
  case calendarRangeEnd => exact calendarRangeEnd_frame.keepsMemories
  case pllLockLoss => exact pllLockLoss_frame.keepsMemories
  case pllRecovery => exact pllRecovery_frame.keepsMemories
  case cryptoOperationDone => exact cryptoOperationDone_frame.keepsMemories
  case backupDomainLoss => exact backupDomainLoss_frame.keepsMemories
  case powerDieThermalRecovery => exact powerDieThermalRecovery_frame.keepsMemories
  case phaseP3 => exact phaseP3_keepsMemories
  case phaseP4 => exact phaseP4_keepsMemories
  case phaseP5 => exact phaseP5_keepsMemories
  case waitSupplyEnd => exact waitSupplyEnd_frame.keepsMemories
  case decisionWindowEnd => exact decisionWindowEnd_frame.keepsMemories
  case emergencyStopRelease => exact emergencyStopRelease_frame.keepsMemories
  case estopDiscrepancy => exact estopDiscrepancy_keepsMemories
  case heartbeatPeriodMissed => exact heartbeatPeriodMissed_keepsMemories
  case heartwoodConversion => exact heartwoodConversion_frame.keepsMemories
  case rateEvaluation => exact rateEvaluation_frame.keepsMemories
  case billingBoundary => exact billingBoundary_keepsMemories
  case readingRelease => exact readingRelease_frame.keepsMemories
  case checkValueRecompute => exact checkValueRecompute_keepsMemories
  case isenseScanStep => exact isenseScanStep_frame.keepsMemories
  case displayUpdate => exact displayUpdate_frame.keepsMemories
  case displayFrameStart => exact displayFrameStart_frame.keepsMemories
  case vlcdAdjust => exact vlcdAdjust_frame.keepsMemories
  case displayRestart => exact displayRestart_frame.keepsMemories
  case updateTimeout => exact updateTimeout_frame.keepsMemories
  case dispbtnPress => exact dispbtnPress_keepsMemories
  case dispbtnHold => exact dispbtnHold_frame.keepsMemories
  case pageIdleReturn => exact pageIdleReturn_frame.keepsMemories
  case lowPowerEntry => exact lowPowerEntry_frame.keepsMemories
  case turnStart => exact turnStart_frame.keepsMemories
  case beaconListenEnd => exact beaconListenEnd_frame.keepsMemories
  case beaconMissed => exact beaconMissed_frame.keepsMemories
  case loadAllocation => exact loadAllocation_frame.keepsMemories
  case ceilingValidityExpired => exact ceilingValidityExpired_frame.keepsMemories
  case tripFollowExpired => exact tripFollowExpired_frame.keepsMemories
  case messageCounterRollover => exact messageCounterRollover_frame.keepsMemories
  case fieldLeft => exact fieldLeft_frame.keepsMemories
  case tagPowerUp => exact tagPowerUp_keepsMemories
  case hltb => exact hltb_frame.keepsMemories
  case tagInfo => exact tagInfo_frame.keepsMemories
  case meterSnapshot => exact meterSnapshot_keepsMemories
  case lifecycleApply => exact lifecycleApply_frame.keepsMemories
  case maskRenewal => exact maskRenewal_frame.keepsMemories
  case oscillatorDetector => exact oscillatorDetector_frame.keepsMemories
  case drbgReseed => exact drbgReseed_frame.keepsMemories
  case scrubRow => exact scrubRow_keepsMemories
  case heartwoodScrubRow => exact heartwoodScrubRow_keepsMemories
  case fieldMapWrite => exact fieldMapWrite_frame.keepsMemories
  case recordWrite => exact recordWrite_frame.keepsMemories
  case budgetWindowEnd => exact budgetWindowEnd_frame.keepsMemories
  case histogramSnapshot => exact histogramSnapshot_frame.keepsMemories
  case tagHistogramSummary => exact tagHistogramSummary_keepsMemories
  case fatalRestart => exact fatalRestart_keepsMemories
  case activationCondition => exact activationCondition_keepsMemories
  case drainEnd => exact drainEnd_keepsMemories
  case drainTimeout => exact drainTimeout_frame.keepsMemories
  case confirmationWindowEnd => exact confirmationWindowEnd_keepsMemories
  case hostBadOpcode => exact hostBadOpcode_frame.keepsMemories
  case hcsnCut => exact hcsnCut_frame.keepsMemories
  case bulkRelease => exact bulkRelease_keepsMemories
  case czcEdgeAbsent => exact czcEdgeAbsent_frame.keepsMemories
  case hcsnFalling => exact hcsnFalling_frame.keepsMemories

/-- The port runs what a message spells as the command of that name, or passes over it. -/
theorem runHost_eq (i : Instr) (s : State) :
    i ≠ .commandDispatch ∧ runHost i s = exec i s ∨ runHost i s = .next s := by
  cases i <;> first | exact .inr rfl | exact .inl ⟨nofun, rfl⟩

theorem runHost_memOk {s : State} (hs : MemOk s) (i : Instr) : MemOkR (runHost i s) := by
  rcases runHost_eq i s with ⟨hi, e⟩ | e
  · rw [e]
    exact exec_keepsMemories i hi s hs
  · rw [e]
    exact .next hs

theorem commandDispatch_keepsMemories : KeepsMemories .commandDispatch := fun s hs => by
  have hc (cq : List (List Byte)) (n d l : Nat) := MemOk.of (setCommands_changes (.refl _ s) cq n d l) hs
  show MemOkR (execCommandDispatch s)
  unfold execCommandDispatch
  split
  · exact .next hs
  · dsimp only
    split
    · exact .next (.of (answer_changes (.refl _ _) _ _ _ _) (hc _ _ _ _))
    · split
      · exact runHost_memOk (hc _ _ _ _) _
      · exact .fault _

/-- Settles O5: each command's own lemma, on the state whose queue has given up its front command. -/
theorem memoriesStayCanonical : Obligations.MemoriesStayCanonical := by
  unfold Obligations.MemoriesStayCanonical
  intro s t hs e
  unfold step at e
  split at e
  · obtain rfl := Host.Outcome.next.inj e
    exact hs
  · rename_i c rest _
    have hq : MemOk { s with pending := rest } := hs
    by_cases hc : c = .commandDispatch
    · subst hc
      exact commandDispatch_keepsMemories _ hq t e
    · exact exec_keepsMemories c hc _ hq t e

end Sys2Proof.Safety
end

section
/-! SUPPORT. The commit path (R143 to R145, R154): the snapshots that an acceptance takes, and what a rejection and a
completion leave of the commit's registers. -/

set_option Elab.async false

namespace Sys2Proof.Safety

open Sys2Proof.Machine

/-! ## The bit of a subsystem -/

theorem subBit_getLsbD (i : Nat) (k : Fin 16) : (subBit i).getLsbD k.val = decide (i = k.val) := by
  rw [subBit, BitVec.getLsbD_ofNat, Nat.one_shiftLeft, Nat.testBit_two_pow]
  simp

theorem subBit_set (x : BitVec 16) (k : Fin 16) : (x ||| subBit k.val).getLsbD k.val = true := by
  simp [subBit_getLsbD]

theorem subBit_cleared (x : BitVec 16) (k : Fin 16) : (x &&& ~~~subBit k.val).getLsbD k.val = false := by
  simp [subBit_getLsbD]

/-! ## Acceptance -/

/-- The snapshots of the other subsystems are found as before. -/
theorem find_snap_filter (snaps : List (Nat × List Host.Cell)) (sub k : Nat) :
    (snaps.filter (fun e => e.1 != sub)).find? (fun e => e.1 == k)
      = if k = sub then none else snaps.find? (fun e => e.1 == k) := by
  split
  case isTrue hk => exact List.find?_eq_none.mpr fun e he => by simpa [hk] using (List.mem_filter.mp he).2
  case isFalse hk =>
    rw [List.find?_filter]
    congr 1
    funext e
    by_cases h : e.1 = k
    · simp [h, hk]
    · simp [h]

theorem snapOf_acceptOne (sub k : Nat) (s : State) :
    snapOf (acceptOne sub s) k
      = if k = sub then some (s.host.shadow.filter (fun c => c.1 / 0x1000 == sub)) else snapOf s k := by
  unfold snapOf acceptOne
  rw [List.find?_append, find_snap_filter]
  by_cases hk : k = sub
  · simp [hk]
  · simp [hk, Ne.symm hk]

/-- The commits of a list of subsystems accepted, as far as the request has their bits. -/
def acceptEach (req : BitVec 16) (l : List Nat) (s : State) : State :=
  l.foldl (fun t i => if req.getLsbD i then acceptOne i t else t) s

theorem acceptEach_cons (req : BitVec 16) (i : Nat) (l : List Nat) (s : State) :
    acceptEach req (i :: l) s = acceptEach req l (if req.getLsbD i then acceptOne i s else s) := rfl

theorem acceptCommits_eq (req : BitVec 16) {s : State} (h : s.open3 = true) :
    acceptCommits req s = acceptEach req (List.range 16) s := if_pos h

theorem acceptEach_pendingC (req : BitVec 16) (l : List Nat) (s : State) (k : Fin 16) :
    (acceptEach req l s).host.pendingC.getLsbD k.val
      = (s.host.pendingC.getLsbD k.val || (decide (k.val ∈ l) && req.getLsbD k.val)) := by
  induction l generalizing s with
  | nil => simp [acceptEach]
  | cons i l ih =>
    rw [acceptEach_cons, ih]
    by_cases hi : req.getLsbD i = true
    · rw [if_pos hi]
      show ((s.host.pendingC ||| subBit i).getLsbD k.val || _) = _
      rw [BitVec.getLsbD_or, subBit_getLsbD]
      by_cases hk : i = k.val
      · simp [hk ▸ hi, hk]
      · simp [hk, Ne.symm hk]
    · rw [if_neg hi]
      by_cases hk : k.val = i
      · simp [hk, hi]
      · simp [hk]

theorem snapOf_acceptEach (req : BitVec 16) (l : List Nat) (s : State) (k : Nat) :
    snapOf (acceptEach req l s) k
      = if k ∈ l ∧ req.getLsbD k = true then some (s.host.shadow.filter (fun c => c.1 / 0x1000 == k))
        else snapOf s k := by
  induction l generalizing s with
  | nil => simp [acceptEach]
  | cons i l ih =>
    rw [acceptEach_cons, ih]
    by_cases hi : req.getLsbD i = true
    · rw [if_pos hi, snapOf_acceptOne]
      show (if k ∈ l ∧ req.getLsbD k = true then some (s.host.shadow.filter _) else _) = _
      by_cases hk : k = i
      · simp [hk, hi]
      · simp [hk]
    · rw [if_neg hi]
      by_cases hk : k = i
      · simp [hk, hi]
      · simp [hk]

/-- A commit accepted takes a snapshot of each page requested, marks it pending, and leaves every setting (R143,
R154). -/
theorem commitAccept_completes (s : State) (req : BitVec 16) (h : s.open3 = true) :
    Completes (.commitAccept req) s fun t =>
      t.host.pendingC = s.host.pendingC ||| req ∧ t.host.applied = s.host.applied ∧ t.host.shadow = s.host.shadow
        ∧ ∀ i : Fin 16, (req.getLsbD i.val = true → snapOf t i.val
              = some (s.host.shadow.filter (fun c => c.1 / 0x1000 == i.val)))
            ∧ (req.getLsbD i.val = false → snapOf t i.val = snapOf s i.val) := by
  have hp := (acceptCommits_changes (w₀ := allBut .pages) (.refl _ s) req).same
  refine ⟨_, rfl, ?_, congrArg Prod.snd hp, congrArg Prod.fst hp, fun i => ?_⟩
  · rw [acceptCommits_eq req h]
    refine BitVec.eq_of_getLsbD_eq fun k hk => ?_
    rw [acceptEach_pendingC req _ s ⟨k, hk⟩, BitVec.getLsbD_or]
    simp [hk]
  · rw [acceptCommits_eq req h, snapOf_acceptEach]
    have hi : i.val ∈ List.range 16 := List.mem_range.mpr i.isLt
    exact ⟨fun hr => if_pos ⟨hi, hr⟩, fun hr => if_neg fun hx => Bool.false_ne_true (hr.symm.trans hx.2)⟩

/-! ## Rejection and completion -/

theorem finishCommit_pending (sub : Fin 16) (r : Bool) (s : State) :
    (finishCommit sub.val r s).host.pendingC.getLsbD sub.val = false := subBit_cleared _ _

theorem finishCommit_done (sub : Fin 16) (r : Bool) (s : State) :
    (finishCommit sub.val r s).host.doneC.getLsbD sub.val = true := subBit_set _ _

theorem finishCommit_rejected (sub : Fin 16) (r : Bool) (s : State) :
    (finishCommit sub.val r s).host.rejected.getLsbD sub.val = r := by
  cases r
  · exact subBit_cleared _ _
  · exact subBit_set _ _

/-- A rejected commit leaves every setting in force, and no longer waits (R144). -/
theorem rejectAll_leaves (sub : Fin 16) (r : Nat) (s : State) :
    (rejectAll sub.val r s).host.applied = s.host.applied
      ∧ (rejectAll sub.val r s).host.pendingC.getLsbD sub.val = false
      ∧ (rejectAll sub.val r s).host.doneC.getLsbD sub.val = true
      ∧ (rejectAll sub.val r s).host.rejected.getLsbD sub.val = true := by
  have hp := (rejectAll_changes (w₀ := allBut .pages) (.refl _ s) sub.val r).same
  unfold rejectAll rejectCommit at *
  rw [emit_host_pendingC, emit_host_doneC, emit_host_rejected]
  exact ⟨congrArg Prod.snd hp, finishCommit_pending _ _ _, finishCommit_done _ _ _, finishCommit_rejected _ _ _⟩

/-- Event 0x0113 names the subsystem and the reason (R144). -/
theorem rejectAll_last {s : State} (sub r : Nat) (h : CanReport 0x0113 2 s) :
    lastEvent (rejectAll sub r s) = some (0x0113, 255, 0, [BitVec.ofNat 8 sub, BitVec.ofNat 8 r]) := by
  have he := (setLeft_changes (w₀ := allBut .events) (.refl _ s) sub 0).same
  have hs := (setLeft_changes (w₀ := allBut .start) (.refl _ s) sub 0).same
  have ha := (setLeft_changes (w₀ := allBut .pages) (.refl _ s) sub 0).same
  exact emit_last 0x0113 255 _ (h.of_eq (congrArg Prod.fst he) hs (congrArg Prod.snd ha))

theorem checked_of_refused {s : State} {sub r : Nat} (act : State → State) (hp : s.host.passed.getLsbD sub = false)
    (hr : snapVerdict s sub = some r) : checked sub act s = rejectAll sub r s := by
  unfold checked
  rw [if_neg (by simp [hp]), hr]

/-- A snapshot that passes, now or before, applies; only the mark that it passed is set (R144). -/
theorem checked_of_passed {s : State} {sub : Nat} (act : State → State)
    (h : s.host.passed.getLsbD sub = true ∨ snapVerdict s sub = none) :
    ∃ p, checked sub act s = act { s with host.passed := p } := by
  unfold checked
  by_cases hp : s.host.passed.getLsbD sub = true
  · exact ⟨s.host.passed, if_pos hp⟩
  · rw [if_neg hp, h.resolve_left hp]
    exact ⟨_, rfl⟩

theorem completeIfDone_eq {s : State} {sub : Nat} (hd : s.host.devLeft.getLsbD sub = false) (hl : leftMask s sub = 0) :
    completeIfDone sub s = finishCommit sub false s := by
  unfold completeIfDone
  rw [hd, hl]
  rfl

theorem leftMask_of_commits {s t : State} (h : Part.commits.same s t) (sub : Nat) :
    leftMask t sub = leftMask s sub := by
  simp only [Part.same, Prod.mk.injEq] at h
  obtain ⟨-, -, -, -, -, saf, ses, veh, mtr, nrg, -⟩ := h
  unfold leftMask
  split <;> first | assumption | rfl

theorem devLeft_of_commits {s t : State} (h : Part.commits.same s t) : t.host.devLeft = s.host.devLeft := by
  simp only [Part.same, Prod.mk.injEq] at h
  obtain ⟨-, -, -, -, -, -, -, -, -, -, dev, -⟩ := h
  exact dev

theorem leftMask_devLeft (s : State) (x : BitVec 16) (sub : Nat) :
    leftMask { s with host.devLeft := x } sub = leftMask s sub := by
  unfold leftMask
  split <;> rfl

theorem leftMask_applied (s : State) (x : List Host.Cell) (sub : Nat) :
    leftMask { s with host.applied := x } sub = leftMask s sub := by
  unfold leftMask
  split <;> rfl

theorem leftMask_passed (s : State) (x : BitVec 16) (sub : Nat) :
    leftMask { s with host.passed := x } sub = leftMask s sub := by
  unfold leftMask
  split <;> rfl

theorem setLeft_devLeft (sub : Nat) (m : BitVec 8) (s : State) : (setLeft sub m s).host.devLeft = s.host.devLeft := by
  unfold setLeft
  split <;> rfl

/-- The mask of a subsystem without boughs stays empty. -/
theorem leftMask_setLeft_zero (sub : Nat) (s : State) : leftMask (setLeft sub 0 s) sub = 0 := by
  unfold setLeft
  split
  case h_6 => unfold leftMask; split <;> first | rfl | contradiction
  all_goals rfl

theorem applySnap_eq {s : State} {sub : Nat} {m : List Host.Cell} (h : snapOf s sub = some m) (p : Nat → Bool) :
    applySnap sub p s = { s with host.applied := pageTake p s.host.applied m } := by
  unfold applySnap
  rw [h]

/-! ## The device-wide fields -/

/-- What follows the device-wide fields touches neither the settings in force nor the commits that wait. -/
theorem applyDevice_done (sub : Fin 16) {s : State} {m : List Host.Cell} (hm : snapOf s sub.val = some m)
    (hl : leftMask s sub.val = 0) :
    (applyDevice sub.val s).host.applied = pageTake (ofDevice sub.val) s.host.applied m
      ∧ (applyDevice sub.val s).host.pendingC.getLsbD sub.val = false
      ∧ (applyDevice sub.val s).host.doneC.getLsbD sub.val = true
      ∧ (applyDevice sub.val s).host.rejected.getLsbD sub.val = false := by
  unfold applyDevice
  rw [applySnap_eq hm]
  generalize hv : { s with host.applied := pageTake (ofDevice sub.val) s.host.applied m } = v
  have ha := (afterDevice_changes (w₀ := allBut .pages) (.refl _ v) s sub.val).same
  have hc := (afterDevice_changes (w₀ := allBut .commits) (.refl _ v) s sub.val).same
  have hz : leftMask (afterDevice sub.val s v) sub.val = 0 :=
    (leftMask_of_commits hc _).trans (by rw [← hv, leftMask_applied, hl])
  have hva : v.host.applied = pageTake (ofDevice sub.val) s.host.applied m := congrArg (·.host.applied) hv.symm
  generalize afterDevice sub.val s v = u at ha hz
  rw [completeIfDone_eq (subBit_cleared _ _) (by rw [leftMask_devLeft]; exact hz)]
  exact ⟨(congrArg Prod.snd ha).trans hva, finishCommit_pending _ _ _, finishCommit_done _ _ _,
    finishCommit_rejected _ _ _⟩

theorem exec_commitApply {s : State} {sub : Fin 16} (hr : s.ready = true) (hc : commitPending s sub.val = true)
    (h7 : sub ≠ 7) (hd : s.host.devLeft.getLsbD sub.val = true) (hb : deviceBoundary s sub.val = true) :
    exec (.commitApply sub) s = .next (checked sub.val (applyDevice sub.val) s) := by
  show execCommitApply sub s = _
  unfold execCommitApply
  have hv : sub.val ≠ 7 := fun h => h7 (Fin.ext h)
  rw [if_neg (by simp [hr, hc, hd, hb]), if_neg hv]

/-! ## A bough's fields -/

/-- The ceiling, the pilot and the power request follow what changes the request of a session. -/
theorem withRequest_after (b : Bough) (f : State → State) (s : State) :
    Kept (parts [.events, .ports, .modems, .association, .sessions, .powerLinks, .safety, .recorder]) (f s)
      (withRequest b f s) :=
  Kept.ite (fun _ => driveOutput_changes (recalcCeil_changes (.refl _ _) _) _) fun _ =>
    powerRequest_changes (driveOutput_changes (recalcCeil_changes (.refl _ _) _) _) _

/-- In subsystems 2, 3 and 4 nothing waits: a bough takes its fields, and what follows touches neither the settings in
force nor the commits that wait. -/
theorem applyBough_takes {sub : Nat} (hs : sub = 2 ∨ sub = 3 ∨ sub = 4) (b : Bough) (s : State) :
    ∃ t, Kept (parts [.free, .events, .ports, .modems, .association, .sessions, .powerLinks, .safety, .loads,
          .recorder]) (applySnap sub (ofBough sub b) s) t
      ∧ applyBough sub b s
        = completeIfDone sub (setLeft sub (leftMask t sub &&& ~~~BitVec.ofNat 8 (1 <<< b.val)) t) := by
  have hw := fun sub => (withRequest_after b (applySnap sub (ofBough sub b)) s).mono
    (w := parts [.free, .events, .ports, .modems, .association, .sessions, .powerLinks, .safety, .loads, .recorder])
    (by decide)
  rcases hs with rfl | rfl | rfl
  · exact ⟨_, .ite (fun _ => takeRating_changes (hw 2) _ _) fun _ => hw 2, rfl⟩
  · exact ⟨_, hw 3, rfl⟩
  · exact ⟨_, takeBridges_changes (hw 4), rfl⟩

theorem applyBough_done (sub : Fin 16) {s : State} {m : List Host.Cell} {b : Bough}
    (hs : sub.val = 2 ∨ sub.val = 3 ∨ sub.val = 4) (hm : snapOf s sub.val = some m)
    (hl : leftMask s sub.val = BitVec.ofNat 8 (2 ^ b.val)) (hd : s.host.devLeft.getLsbD sub.val = false) :
    (applyBough sub.val b s).host.applied = pageTake (ofBough sub.val b) s.host.applied m
      ∧ (applyBough sub.val b s).host.pendingC.getLsbD sub.val = false
      ∧ (applyBough sub.val b s).host.doneC.getLsbD sub.val = true := by
  obtain ⟨t, hk, he⟩ := applyBough_takes hs b s
  rw [applySnap_eq hm] at hk
  have ha : t.host.applied = pageTake (ofBough sub.val b) s.host.applied m := congrArg Prod.snd (hk .pages (by decide))
  have hc := hk .commits (by decide)
  have hz : leftMask t sub.val &&& ~~~BitVec.ofNat 8 (1 <<< b.val) = 0 := by
    rw [leftMask_of_commits hc, leftMask_applied, hl, Nat.one_shiftLeft]
    exact BitVec.and_not_self _
  have hdt : t.host.devLeft = s.host.devLeft := devLeft_of_commits hc
  have hap := (setLeft_changes (w₀ := allBut .pages) (.refl _ t) sub.val 0).same
  rw [he, hz, completeIfDone_eq (by rw [setLeft_devLeft, hdt]; exact hd) (leftMask_setLeft_zero _ _)]
  exact ⟨(congrArg Prod.snd hap).trans ha, finishCommit_pending _ _ _, finishCommit_done _ _ _⟩

theorem exec_commitBoughApply {s : State} {sub : Fin 16} {b : Bough} (hr : s.ready = true)
    (hc : commitPending s sub.val = true) (hl : (leftMask s sub.val).getLsbD b.val = true)
    (hb : boughBoundary s sub.val b = true) :
    exec (.commitBoughApply sub b) s = .next (checked sub.val (applyBough sub.val b) s) := by
  show execCommitBoughApply sub b s = _
  unfold execCommitBoughApply
  rw [if_neg (by simp [hr, hc, hl, hb])]

end Sys2Proof.Safety
end

section
/-! SUPPORT. Commits accepted, rejected and applied. -/

set_option Elab.async false

namespace Sys2Proof.Safety

open Sys2Proof.Machine

/-- Settles O18. Acceptance folds over the requested subsystems; a snapshot is either rejected, which leaves the
settings, or applies, and what follows its fields leaves the settings and the commits that wait. -/
theorem commits : Obligations.Commits := by
  refine ⟨fun s req => ⟨commitAccept_completes s req, fun h => ?_⟩,
    fun s sub r hr hc h7 hp hv hrep => ⟨fun hd hb => ?_, fun b hl hb => ?_⟩,
    fun s sub m hr hm h7 hd hb hl hpass => ?_, fun s sub m b hr hm hsub hl hb hd hpass => ?_⟩
  · exact congrArg Host.Outcome.next (if_neg (by simp [h]))
  · obtain ⟨ha, hpc, hdc, hrj⟩ := rejectAll_leaves sub r s
    exact ⟨_, (exec_commitApply hr hc h7 hd hb).trans (congrArg _ (checked_of_refused _ hp hv)), ha, hpc, hdc, hrj,
      rejectAll_last _ _ hrep⟩
  · obtain ⟨ha, hpc, -, hrj⟩ := rejectAll_leaves sub r s
    exact ⟨_, (exec_commitBoughApply hr hc hl hb).trans (congrArg _ (checked_of_refused _ hp hv)), ha, hpc, hrj⟩
  · obtain ⟨p, hx⟩ := checked_of_passed (applyDevice sub.val) hpass
    have hc : commitPending s sub.val = true := by simp [commitPending, hm]
    exact ⟨_, (exec_commitApply hr hc h7 hd hb).trans (congrArg _ hx),
      applyDevice_done sub (s := { s with host.passed := p }) hm (by rw [leftMask_passed]; exact hl)⟩
  · obtain ⟨p, hx⟩ := checked_of_passed (applyBough sub.val b) hpass
    have hc : commitPending s sub.val = true := by simp [commitPending, hm]
    have hlb : (leftMask s sub.val).getLsbD b.val = true := by
      rw [hl, BitVec.getLsbD_ofNat, Nat.testBit_two_pow]
      simp
    have hs : sub.val = 2 ∨ sub.val = 3 ∨ sub.val = 4 := by
      rcases hsub with rfl | rfl | rfl <;> simp
    exact ⟨_, (exec_commitBoughApply hr hc hlb hb).trans (congrArg _ hx),
      applyBough_done sub (s := { s with host.passed := p }) hs hm (by rw [leftMask_passed]; exact hl) hd⟩

end Sys2Proof.Safety
end

section
/-! SUPPORT. The stops of the start and the completion of its phases (R121, R126, R601). -/

set_option Elab.async false

namespace Sys2Proof.Safety

open Sys2Proof.Machine

/-! ## What a frame over every part but one says -/

theorem Kept.start_eq {s t : State} (h : Kept (allBut .start) s t) : t.start = s.start := h.same

theorem Kept.lat_eq {s t : State} (h : Kept (allBut .lattice) s t) : t.lat = s.lat := h.same

theorem Kept.supply_eq {s t : State} (h : Kept (allBut .supply) s t) : t.supply = s.supply := h.same

theorem Kept.flash_eq {s t : State} (h : Kept (allBut .flash) s t) : t.nv.flash = s.nv.flash := h.same

/-! ## Stops -/

theorem raiseIrq_raised (i : Fin 12) (s : State) : (raiseIrq i.val s).host.irq.getLsbD i.val = true := by
  show (s.host.irq ||| BitVec.ofNat 12 (1 <<< i.val)).getLsbD i.val = true
  rw [BitVec.getLsbD_or, BitVec.getLsbD_ofNat, Nat.one_shiftLeft, Nat.testBit_two_pow]
  simp

/-- A phase that completes leaves the start at the next one. -/
@[simp] theorem phaseDone_start (p : Nat) (s : State) :
    (phaseDone p s).start = { s.start with phase := p + 1, done := p + 1, loadHalts := 0 } := rfl

theorem stopStart_start (p r : Nat) (s : State) :
    (stopStart p r s).start
      = { s.start with phase := 0xF, stopPhase := p, stopReason := r, waitSupply := false } := by
  unfold stopStart
  exact (stopSummary_changes (w₀ := allBut .start) (emit_changes (.refl _ _) _ _ _)).same

/-- The start stops in phase p (R126). -/
theorem completes_stop {i : Instr} {s u : State} {p r : Nat} (e : exec i s = .next (stopStart p r u))
    (hd : u.start.done = s.start.done) :
    Completes i s fun t => t.start.phase = 0xF ∧ t.start.stopPhase = p ∧ t.start.stopReason = r
      ∧ t.host.irq.getLsbD 1 = true ∧ t.start.done = s.start.done := by
  have h := stopStart_start p r u
  exact ⟨_, e, congrArg Start.phase h, congrArg Start.stopPhase h, congrArg Start.stopReason h, raiseIrq_raised 1 _,
    (congrArg Start.done h).trans hd⟩

/-- The stop waits for the pattern test (R126). -/
theorem completes_wait {i : Instr} {s u : State} {p r : Nat} (e : exec i s = .next (stopAfterTest p r u))
    (hd : u.start.done = s.start.done) (hp : u.start.phase = s.start.phase) :
    Completes i s fun t =>
      t.start.stopNext = some (p, r) ∧ t.start.done = s.start.done ∧ t.start.phase = s.start.phase :=
  ⟨_, e, rfl, hd, hp⟩

end Sys2Proof.Safety
end

section
/-! SUPPORT. Reset release, phase P1 with its stamp and phase P2 with its pattern test (R116, R118, R123, R124,
R613). -/

set_option Elab.async false
set_option linter.unnecessarySeqFocus false

namespace Sys2Proof.Safety

open Sys2Proof.Machine

/-! ## Reset release -/

/-- T0: the reset released, supply monitors 0 to 4 in range (R116). -/
def atRelease (mv : Nat) (s : State) : State :=
  auxAll { s with start.released := true, start.mrstN := true,
                  supply.inRange := s.supply.inRange ||| (0x1F &&& ~~~s.supply.tripped), supply.resetHeld := false,
                  supply.vioh33 := decide (2500 < mv) }

theorem atRelease_start (mv : Nat) (s : State) :
    (atRelease mv s).start = { s.start with released := true, mrstN := true } := by
  unfold atRelease
  rw [(auxAll_changes (.refl _ _)).start_eq]

theorem atRelease_done (mv : Nat) (s : State) : (atRelease mv s).start.done = s.start.done := by
  rw [atRelease_start]

theorem atRelease_rstHold (mv : Nat) (s : State) : (atRelease mv s).supply.rstHold = s.supply.rstHold := by
  unfold atRelease
  rw [(auxAll_changes (.refl _ _)).supply_eq]

theorem atRelease_flash (mv : Nat) (s : State) : (atRelease mv s).nv.flash = s.nv.flash := by
  unfold atRelease
  rw [(auxAll_changes (.refl _ _)).flash_eq]

/-- What follows T0: the PLL, the flash, and RSTOUTN unless a monitor's reset still holds it (R118, R126, R87). -/
def afterRelease (pllLocks : Bool) (s : State) : Res :=
  if !pllLocks then .next (stopStart 0 0x01 s)
  else
    let s := { s with lat.running := true }
    if !s.nv.flash.present then .next (stopAfterTest 0 0x02 s)
    else .next (driveAll (phaseDone 0 { s with start.rstOutN := !s.supply.rstHold }))

theorem exec_resetRelease {s : State} (mv : Nat) (pll : Bool) (hr : s.start.released = false)
    (hf : resetFree s = true) : exec (.resetRelease mv pll) s = afterRelease pll (atRelease mv s) := by
  show execResetRelease mv pll s = _
  unfold execResetRelease atRelease
  rw [if_neg (by simp [hr, hf])]
  rfl

/-- The PLL locked and the flash present, P0 completes. -/
theorem afterRelease_present {s : State} (h : s.nv.flash.present = true) :
    ∃ t, afterRelease true s = .next t ∧ t.lat.running = true
      ∧ t.start = { s.start with rstOutN := !s.supply.rstHold, phase := 1, done := 1, loadHalts := 0 } := by
  refine ⟨driveAll (phaseDone 0 { { s with lat.running := true } with start.rstOutN := !s.supply.rstHold }), ?_, ?_,
    (driveAll_changes (.refl _ _)).start_eq⟩
  · unfold afterRelease
    rw [if_neg (by decide), if_neg (by simp [h])]
  · rw [(driveAll_changes (.refl _ _)).lat_eq]
    rfl

theorem resetRelease_completes {s : State} (mv : Nat) (hr : s.start.released = false) (hf : resetFree s = true)
    (hp : s.nv.flash.present = true) :
    Completes (.resetRelease mv true) s fun t => t.start.released = true ∧ t.start.done = 1 ∧ t.start.phase = 1
      ∧ t.start.rstOutN = !s.supply.rstHold ∧ t.start.mrstN = true ∧ t.lat.running = true := by
  obtain ⟨t, ht, hl, hs⟩ := afterRelease_present (s := atRelease mv s) (by rw [atRelease_flash, hp])
  refine ⟨t, (exec_resetRelease mv true hr hf).trans ht, ?_⟩
  beta_reduce
  rw [hs, hl, atRelease_start, atRelease_rstHold]
  exact ⟨rfl, rfl, rfl, rfl, rfl, rfl⟩

theorem resetRelease_noPll {s : State} (mv : Nat) (hr : s.start.released = false) (hf : resetFree s = true) :
    exec (.resetRelease mv false) s = .next (stopStart 0 0x01 (atRelease mv s)) :=
  (exec_resetRelease mv false hr hf).trans (if_pos rfl)

/-- Without the flash the stop of P0 waits for the pattern test (R126). -/
theorem afterRelease_noFlash {s : State} (h : s.nv.flash.present = false) :
    ∃ u, afterRelease true s = .next (stopAfterTest 0 0x02 u) ∧ u.start = s.start := by
  refine ⟨{ s with lat.running := true }, ?_, rfl⟩
  unfold afterRelease
  rw [if_neg (by decide), if_pos (by simp [h])]

theorem resetRelease_waits {s : State} (mv : Nat) (hr : s.start.released = false) (hf : resetFree s = true)
    (hp : s.nv.flash.present = false) :
    Completes (.resetRelease mv true) s fun t =>
      t.start.stopNext = some (0, 2) ∧ t.start.done = s.start.done ∧ t.start.phase = s.start.phase := by
  obtain ⟨u, he, hu⟩ := afterRelease_noFlash (s := atRelease mv s) (by rw [atRelease_flash, hp])
  exact completes_wait ((exec_resetRelease mv true hr hf).trans he) (by rw [hu, atRelease_start])
    (by rw [hu, atRelease_start])

/-! ## P1 -/

theorem newestEntry_congr {s t : State} (h : t.nv.flash = s.nv.flash) : newestEntry t = newestEntry s := by
  unfold newestEntry newestSave
  rw [h]

/-- The stamp of this start: CYCLES one above the newest entry's, or 1 (R123). -/
theorem startStamp_eq (s : State) :
    startStamp s = ((newestEntry s).elim 1 (fun e => min 0xFFFFFF (e.toNat / 2 ^ 40 + 1)),
      (newestEntry s).elim 0 (fun e => min (2 ^ 40 - 1) (e.toNat % 2 ^ 40 + 4096))) := by
  unfold startStamp
  split <;> rename_i h <;> rw [h] <;> rfl

/-- The stamp of this start set running. -/
def stamped (s : State) : State :=
  { s with lat.cycles := (startStamp s).1, lat.optime := (startStamp s).2, lat.stampOn := true,
           canopy.msgTime := (startStamp s).2, canopy.msgCount := 0 }

/-- The start entry written changes the stamp no further (R123, R124). -/
theorem writeStartEntry_lat (n : Fin 3) (s : State) : (writeStartEntry n s).lat = (stamped s).lat := by
  unfold writeStartEntry
  exact (Kept.ite (fun _ => emit_changes (setRecorder_changes (putStart_changes (tornStarts_changes (.refl _ _) _) _) _)
    _ _ _) fun _ => setRecorder_changes (putStart_changes (tornStarts_changes (.refl _ (stamped s)) _) _) _).lat_eq

/-- The fuses and the repair maps pass their check (R126). -/
def fusesHold (s : State) : State := { { s with start.fuseOk := true } with start.lifeValid := true }

/-- The repair maps and the reserves they assign taken (R612, R319). -/
def mapsTaken (s : State) : State := applyReserves (applyMaps (fusesHold s))

theorem mapsTaken_changes (s : State) :
    Kept (parts [.trunk, .start, .events, .memory, .recorder, .sampling]) s (mapsTaken s) :=
  applyReserves_changes (applyMaps_changes (setStart_changes (setStart_changes (.refl _ s) _) _))

theorem mapsTaken_start (s : State) : (mapsTaken s).start = (fusesHold s).start :=
  (applyReserves_changes (applyMaps_changes (.refl _ _))).start_eq

/-- What follows the maps: the start entry, then the directory, the supplies and the backup domain (R124, R126, R129,
R683, R87, R564). -/
def afterMaps (readBackAt : Option (Fin 3)) (s : State) : Res :=
  match readBackAt with
  | none => .next (stopAfterTest 1 0x04 (tornStarts 3 s))
  | some n =>
    let s := writeStartEntry n s
    let s := actOnState (readDirectory s)
    let s := reportBackup (reportSupplies s)
    .next (phaseDone 1 (startIdentity { s with crypto.drbgOk := true }))

/-- The start entry read back, P1 completes, and nothing after it changes the stamp. -/
theorem afterMaps_written (n : Fin 3) (s : State) :
    ∃ t, afterMaps (some n) s = .next (phaseDone 1 t)
      ∧ t.lat = { s.lat with cycles := (startStamp s).1, optime := (startStamp s).2, stampOn := true } := by
  refine ⟨_, rfl, ?_⟩
  rw [(startIdentity_changes (setCrypto_changes (reportBackup_changes (reportSupplies_changes (actOnState_changes
    (readDirectory_changes (.refl _ (writeStartEntry n s)))))) _)).lat_eq, writeStartEntry_lat]
  rfl

theorem exec_phaseP1_failed {s : State} (n : Option (Fin 3)) (ha : atPhase s 1 = true) (hn : s.start.stopNext = none) :
    exec (.phaseP1 false n) s = .next (stopAfterTest 1 0x03 { s with start.fuseOk := false }) := by
  show execPhaseP1 false n s = _
  unfold execPhaseP1
  rw [if_neg (by simp [ha, hn])]
  rfl

/-- What follows the fuses: the life-cycle, then the maps (R126, R612). -/
def afterFuses (readBackAt : Option (Fin 3)) (s : State) : Res :=
  if s.lifecycle = lcScrapped then .next (stopAfterTest 1 0x05 s)
  else afterMaps readBackAt (applyReserves (applyMaps s))

theorem exec_phaseP1 {s : State} (n : Option (Fin 3)) (ha : atPhase s 1 = true) (hn : s.start.stopNext = none) :
    exec (.phaseP1 true n) s = afterFuses n (fusesHold s) := by
  show execPhaseP1 true n s = _
  unfold execPhaseP1 fusesHold
  rw [if_neg (by simp [ha, hn])]
  dsimp only [afterFuses, afterMaps] <;> rfl

theorem exec_phaseP1_scrapped {s : State} (n : Option (Fin 3)) (ha : atPhase s 1 = true)
    (hn : s.start.stopNext = none) (hl : s.lifecycle = lcScrapped) :
    exec (.phaseP1 true n) s = .next (stopAfterTest 1 0x05 (fusesHold s)) :=
  (exec_phaseP1 n ha hn).trans (if_pos hl)

theorem exec_phaseP1_maps {s : State} (n : Option (Fin 3)) (ha : atPhase s 1 = true) (hn : s.start.stopNext = none)
    (hl : s.lifecycle ≠ lcScrapped) : exec (.phaseP1 true n) s = afterMaps n (mapsTaken s) :=
  (exec_phaseP1 n ha hn).trans (if_neg hl)

theorem phaseP1_completes {s : State} (n : Fin 3) (ha : atPhase s 1 = true) (hn : s.start.stopNext = none)
    (hl : s.lifecycle ≠ lcScrapped) :
    Completes (.phaseP1 true (some n)) s fun t => t.start.done = 2 ∧ t.start.phase = 2 ∧ t.lat.stampOn = true
      ∧ t.lat.cycles = (newestEntry s).elim 1 (fun e => min 0xFFFFFF (e.toNat / 2 ^ 40 + 1))
      ∧ t.lat.optime = (newestEntry s).elim 0 (fun e => min (2 ^ 40 - 1) (e.toNat % 2 ^ 40 + 4096)) := by
  obtain ⟨t, ht, hlat⟩ := afterMaps_written n (mapsTaken s)
  have hf : (mapsTaken s).nv.flash = s.nv.flash := mapsTaken_changes s .flash (by decide)
  refine ⟨_, (exec_phaseP1_maps (some n) ha hn hl).trans ht, rfl, rfl, ?_⟩
  show t.lat.stampOn = true ∧ t.lat.cycles = _ ∧ t.lat.optime = _
  rw [hlat, startStamp_eq, newestEntry_congr hf]
  exact ⟨rfl, rfl, rfl⟩

/-! ## P2 -/

/-- The pattern test leaves SRAM with zero data and the mirror as the tag memory (R613). -/
theorem patternTest_leaves (p : PatternTest) (s : State) :
    (patternTest p s).mem.cells = [] ∧ (patternTest p s).tag.mirror = s.nv.tagMem
      ∧ (patternTest p s).start = s.start := by
  unfold patternTest
  dsimp only
  rw [emit_mem, emit_tag, emit_start]
  generalize hu : ({ s with mem.cells := _, mem.bad := _, host.bulk := _, tag.mirror := _ } : State) = u
  have hk := Kept.foldl (w := parts [.events, .memory, .recorder]) p.cells
    (fun x c => repairHard p.cells (rowAddr c.1 c.2.1) c.2.2 x) (.refl _ u) fun t c ht => repairHard_changes ht _ _ _
  exact ⟨(hk .cells (by decide)).trans (by rw [← hu]), (hk .mirror (by decide)).trans (by rw [← hu]),
    (hk .start (by decide)).trans (by rw [← hu])⟩

theorem patternTest_done (p : PatternTest) (s : State) : (patternTest p s).start.done = s.start.done := by
  obtain ⟨-, -, hs⟩ := patternTest_leaves p s
  rw [hs]

theorem exec_phaseP2 {s : State} (p : PatternTest) (ha : atPhase s 2 = true) (hn : s.start.stopNext = none) :
    exec (.phaseP2 p) s
      = .next (if beyondRepair p then stopStart 2 0x06 (patternTest p s) else phaseDone 2 (patternTest p s)) := by
  show execPhaseP2 p s = _
  unfold execPhaseP2
  rw [hn]
  exact if_neg (by simp [ha])

theorem exec_phaseP2_done {s : State} {p : PatternTest} (ha : atPhase s 2 = true) (hn : s.start.stopNext = none)
    (hp : beyondRepair p = false) : exec (.phaseP2 p) s = .next (phaseDone 2 (patternTest p s)) := by
  rw [exec_phaseP2 p ha hn, if_neg (by simp [hp])]

theorem exec_phaseP2_beyond {s : State} {p : PatternTest} (ha : atPhase s 2 = true) (hn : s.start.stopNext = none)
    (hp : beyondRepair p = true) : exec (.phaseP2 p) s = .next (stopStart 2 0x06 (patternTest p s)) := by
  rw [exec_phaseP2 p ha hn, if_pos hp]

theorem exec_phaseP2_stop {s : State} {k r : Nat} (p : PatternTest) (hn : s.start.stopNext = some (k, r)) :
    exec (.phaseP2 p) s = .next (stopStart k r { patternTest p s with start.stopNext := none }) := by
  show execPhaseP2 p s = _
  unfold execPhaseP2
  rw [hn]

end Sys2Proof.Safety
end

section
/-! SUPPORT. Phase P3: the records of an image leave the slot that the start has taken (R137, R138). -/

set_option Elab.async false

namespace Sys2Proof.Safety

open Sys2Proof.Machine

/-- The start has taken slot n. -/
def SlotIs (n : Nat) (s : State) : Prop := s.start.ronifSlot = n

section
variable {n : Nat} {s t : State} (h : SlotIs n s)
include h

theorem SlotIs.set (e : t.start.ronifSlot = s.start.ronifSlot) : SlotIs n t := e.trans h

theorem SlotIs.kept (k : Kept (allBut .start) s t) : SlotIs n t := h.set (congrArg Start.ronifSlot k.same)

theorem SlotIs.applied (m : List Host.Cell) : SlotIs n { s with host.applied := m } := h.set rfl

theorem SlotIs.emit (c b : Nat) (d : List Byte) : SlotIs n (emit c b d s) := h.kept (emit_changes (.refl _ s) c b d)

theorem SlotIs.foldl {α : Type} (l : List α) (f : State → α → State) (hf : ∀ t x, SlotIs n t → SlotIs n (f t x)) :
    SlotIs n (l.foldl f s) := by
  induction l generalizing s with
  | nil => exact h
  | cons x l ih => exact ih (hf s x h)

theorem SlotIs.forBoughs (f : Bough → State → State) (hf : ∀ b t, SlotIs n t → SlotIs n (f b t)) :
    SlotIs n (forBoughs f s) := h.foldl _ _ fun t b ht => hf b t ht

theorem holdAtStart_slot (b : Bough) : SlotIs n (holdAtStart b s) := h.set rfl

theorem ignoreRecord_slot (t r : Nat) : SlotIs n (ignoreRecord t r s) := by
  unfold ignoreRecord
  refine SlotIs.emit ?_ _ _ _
  exact h.set rfl

theorem missing_slot (t : Nat) : SlotIs n (missing t s) := by
  unfold missing
  refine SlotIs.emit ?_ _ _ _
  exact h.set rfl

theorem loadTable_slot (active : Option Nat) (t : Nat) (body : List Byte) : SlotIs n (loadTable active t body s) := by
  unfold loadTable
  split
  · exact ignoreRecord_slot h _ _
  · dsimp only
    have hc : SlotIs n (if (tableOf s t).isSome then Machine.emit 0x0110 255 (leN 2 t ++ leN 1 4) s else s) := by
      split
      · exact h.emit _ _ _
      · exact h
    generalize (if (tableOf s t).isSome then Machine.emit 0x0110 255 (leN 2 t ++ leN 1 4) s else s) = u at hc
    split
    · exact hc.set rfl
    · exact hc.set rfl

end

theorem SlotIs.ite {n : Nat} {s t : State} {c : Prop} [Decidable c] (h : SlotIs n s) (k : SlotIs n t) :
    SlotIs n (if c then s else t) := by
  split
  · exact h
  · exact k

theorem loadPage_slot {n : Nat} {l : Loading} (h : SlotIs n l.1) (t : Nat) (body : List Byte) :
    SlotIs n (loadPage t body l).1 := by
  unfold loadPage
  dsimp only
  split
  · exact ignoreRecord_slot h _ _
  split
  · exact ignoreRecord_slot h _ _
  split
  · exact ignoreRecord_slot h _ _
  · refine SlotIs.kept ?_ (overwrites_changes (.refl _ _) _ _ _)
    exact h.set rfl

theorem imageRecord_slot {n : Nat} {l : Loading} (h : SlotIs n l.1) (active : Option Nat) (r : ImgRec) :
    SlotIs n (imageRecord active l r).1 := by
  obtain ⟨t, body, diff⟩ := r
  unfold imageRecord
  dsimp only
  split
  · exact h
  cases diff with
  | some i =>
    refine SlotIs.foldl (SlotIs.emit ?_ _ _ _) _ _ fun t b ht => holdAtStart_slot ht b
    exact h.set rfl
  | none =>
    dsimp only
    split
    · exact loadPage_slot h _ _
    split
    · exact loadTable_slot h _ _ _
    · exact ignoreRecord_slot h _ _

theorem foldl_imageRecord_slot {n : Nat} (active : Option Nat) (rs : List ImgRec) {l : Loading} (h : SlotIs n l.1) :
    SlotIs n (rs.foldl (imageRecord active) l).1 := by
  induction rs generalizing l with
  | nil => exact h
  | cons r rs ih => exact ih (imageRecord_slot h active r)

theorem requireRecords_slot {n : Nat} {s : State} (h : SlotIs n s) (written : List (Nat × Nat)) :
    SlotIs n (requireRecords written s) := by
  have need (ty : Nat) (act : State → State) (ha : ∀ t, SlotIs n t → SlotIs n (act t)) (t : State) (ht : SlotIs n t) :
      SlotIs n (if (tableOf t ty).isSome then t else act (missing ty t)) := .ite ht (ha _ (missing_slot ht _))
  refine need _ _ (fun t ht => ht.forBoughs _ fun b u hu => holdAtStart_slot hu b) _
    (need _ _ (fun _ ht => ht) _ (need _ _ (fun _ ht => ht) _ (h.forBoughs _ fun b t ht => ?_)))
  have hc : SlotIs n (if safetyCovered written b then t else holdAtStart b (missing 0x4000 t)) :=
    .ite ht (holdAtStart_slot (missing_slot ht _) b)
  exact .ite hc (holdAtStart_slot (missing_slot hc _) b)

/-- The settings and tables of an image leave the slot. -/
theorem loadRecords_slot {n : Nat} {s : State} (h : SlotIs n s) (rs : List ImgRec) : SlotIs n (loadRecords rs s) := by
  unfold loadRecords
  dsimp only
  refine SlotIs.kept (requireRecords_slot ?_ _) (settingsInForce_changes (.refl _ _))
  refine SlotIs.kept ?_ (setHeartwood_changes (takeMac_changes (takeMembership_changes (takeBudgets_changes
    (takeGlyphs_changes (takeFailsafe_changes (.refl _ _)))))) _)
  refine SlotIs.kept ?_ (imageConflicts_changes (.refl _ _) _)
  refine SlotIs.applied (SlotIs.foldl (SlotIs.kept ?_ (completeInverse_changes (.refl _ _) _)) _ _ fun t a ht =>
    ht.kept (checkSafetyReg_changes (.refl _ t) _ a)) _
  refine foldl_imageRecord_slot _ rs ?_
  exact h.set rfl

theorem useSlot_slot (n : Nat) (s : State) : SlotIs n (useSlot n s) := by
  unfold useSlot
  refine loadRecords_slot ?_ _
  unfold SlotIs
  rfl

theorem exec_phaseP3 {s : State} (ha : atPhase s 3 = true) (hl : loadFailed s = false)
    (hi : imgCheck s (acceptedFormats s) (areaOf s 0 (dirNow s).ronif) = none) :
    exec .phaseP3 s = .next (phaseDone 3 (useSlot (dirNow s).ronif s)) := by
  show execPhaseP3 s = _
  unfold execPhaseP3
  rw [if_neg (by simp [ha]), if_neg (by simp [hl])]
  dsimp only
  rw [hi]

theorem exec_phaseP3_failed {s : State} (ha : atPhase s 3 = true) (hl : loadFailed s = true) :
    exec .phaseP3 s = .next (stopStart 3 0x07 s) := (if_neg (by simp [ha])).trans (if_pos hl)

end Sys2Proof.Safety
end

section
/-! SUPPORT. Phase P4: once the event log is available an event holds no record back (R640, R641). -/

set_option Elab.async false

namespace Sys2Proof.Safety

open Sys2Proof.Machine

/-- The event log is available and holds no record back. -/
def LogOpen (s : State) : Prop := s.log.logOn = true ∧ s.log.held = []

theorem LogOpen.of_eq {s t : State} (h : LogOpen s) (e : t.log = s.log) : LogOpen t := by
  unfold LogOpen
  rw [e]
  exact h

theorem LogOpen.set {s t : State} (h : LogOpen s) (eo : t.log.logOn = s.log.logOn) (eh : t.log.held = s.log.held) :
    LogOpen t := ⟨eo.trans h.1, eh.trans h.2⟩

theorem LogOpen.ite {s t : State} {c : Prop} [Decidable c] (h : LogOpen s) (k : LogOpen t) :
    LogOpen (if c then s else t) := by
  split
  · exact h
  · exact k

theorem enqueueRec_logOpen {s : State} (h : LogOpen s) (r : LogRec) : LogOpen (enqueueRec r s) := by
  unfold enqueueRec
  refine LogOpen.ite ?_ ?_
  · exact h.set rfl rfl
  · exact h.set rfl rfl

theorem decideRec_logOpen {s : State} (h : LogOpen s) (r : LogRec) : LogOpen (decideRec r s) := by
  have hb (e : Budget) : LogOpen (putBudget e s) := h.set rfl rfl
  have ho (e : Budget) (d : Bool) (x : BitVec 64) : LogOpen (countOver e d x s) := h.set rfl rfl
  unfold decideRec
  dsimp only
  split
  · exact enqueueRec_logOpen h r
  split
  · exact enqueueRec_logOpen (hb _) _
  split
  · exact enqueueRec_logOpen (ho _ _ _) _
  · exact ho _ _ _

theorem recordEvent_logOpen {s : State} (h : LogOpen s) (c b f : Nat) (d : List Byte) :
    LogOpen (recordEvent c b f d s) := by
  unfold recordEvent
  split
  · exact h
  · rw [if_pos h.1]
    exact decideRec_logOpen h _

theorem eqAdvance_log (c : Nat) (s : State) : (eqAdvance c s).log = s.log := by
  unfold eqAdvance
  split <;> rfl

theorem eqLose_logOpen {s : State} (h : LogOpen s) (n : Nat) : LogOpen (eqLose n s) := by
  unfold eqLose
  dsimp only
  split
  · exact h.set rfl rfl
  · generalize hu : recordEvent _ _ _ _ _ = u
    have ho : LogOpen u := by
      rw [← hu]
      refine recordEvent_logOpen ?_ _ _ _ _
      exact h.set rfl rfl
    split
    · exact (ho.set (t := { u with host.eq := _ }) rfl rfl).of_eq (eqAdvance_log _ _)
    · exact ho

theorem placeEvent_logOpen {s : State} (h : LogOpen s) (c b g : Nat) (a : Bool) (d : List Byte) :
    LogOpen (placeEvent c b g a d s) := by
  unfold placeEvent
  dsimp only
  split
  · exact (h.set (t := { s with host.eq := _ }) rfl rfl).of_eq (eqAdvance_log _ _)
  split
  · exact h.set rfl rfl
  · exact eqLose_logOpen (h.of_eq (eqAdvance_log _ _)) _

theorem postEvent_logOpen {s : State} (h : LogOpen s) (c b g : Nat) (a : Bool) (d : List Byte) :
    LogOpen (postEvent c b g a d s) := by
  unfold postEvent
  split
  · exact h
  split
  · exact placeEvent_logOpen h _ _ _ _ _
  split
  · exact placeEvent_logOpen h _ _ _ _ _
  · exact h

theorem emit_logOpen {s : State} (h : LogOpen s) (c b : Nat) (d : List Byte) : LogOpen (emit c b d s) :=
  postEvent_logOpen (recordEvent_logOpen h _ _ _ _) _ _ _ _ _

theorem emitAtStart_logOpen {s : State} (h : LogOpen s) (c b : Nat) (d : List Byte) : LogOpen (emitAtStart c b d s) :=
  postEvent_logOpen (recordEvent_logOpen h _ _ _ _) _ _ _ _ _

theorem resumeHists_logOpen {s : State} (h : LogOpen s) : LogOpen (resumeHists s) := by
  unfold resumeHists
  split
  · exact h.set rfl rfl
  · exact h

theorem reportFatal_logOpen {s : State} (h : LogOpen s) : LogOpen (reportFatal s) := by
  unfold reportFatal
  split
  · exact h
  · refine emitAtStart_logOpen ?_ _ _ _
    exact h.set rfl rfl

theorem foldl_decideRec_logOpen (rs : List LogRec) {s : State} (h : LogOpen s) :
    LogOpen (rs.foldl (fun t r => decideRec r t) s) := by
  induction rs generalizing s with
  | nil => exact h
  | cons r rs ih => exact ih (decideRec_logOpen h r)

/-- The log becomes available; the records held are decided, and none stays held (R640, R641). -/
theorem startLog_logOpen (s : State) : LogOpen (startLog s) := by
  unfold startLog
  dsimp only
  refine reportFatal_logOpen (resumeHists_logOpen ?_)
  split
  · exact foldl_decideRec_logOpen _ ⟨rfl, rfl⟩
  · refine emit_logOpen (LogOpen.set ?_ rfl rfl) _ _ _
    exact foldl_decideRec_logOpen _ ⟨rfl, rfl⟩

theorem writeDir_start (d : Dir) (st : Nat) (sw : BitVec 3) (s : State) : (writeDir d st sw s).start = s.start :=
  (writeDir_changes (.refl _ s) d st sw).start_eq

/-- A bank used in place of the one named leaves the bank that the start has taken (R674). -/
theorem noteBank_fwBank (part i : Nat) (s : State) : (noteBank part i s).start.fwBank = s.start.fwBank := by
  unfold noteBank
  split
  · rfl
  dsimp only
  split
  · rw [emit_start]
  · rw [emit_start]
    dsimp only
    rw [writeDir_start, emit_start]

theorem exec_phaseP4 {s : State} {i : Nat} (ha : atPhase s 4 = true) (hl : loadFailed s = false)
    (hi : pickBank s 1 = some i) :
    exec .phaseP4 s = .next (phaseDone 4 (startLog (noteBank 1 i { s with start.fwBank := i }))) := by
  show execPhaseP4 s = _
  unfold execPhaseP4
  rw [if_neg (by simp [ha]), if_neg (by simp [hl]), hi]

theorem exec_phaseP4_stop {s : State} (ha : atPhase s 4 = true) (h : loadFailed s = true ∨ pickBank s 1 = none) :
    exec .phaseP4 s = .next (stopStart 4 0x08 s) := by
  show execPhaseP4 s = _
  unfold execPhaseP4
  rw [if_neg (by simp [ha])]
  split
  · rfl
  · rw [h.resolve_left ‹_›]

theorem phaseP4_completes {s : State} {i : Nat} (ha : atPhase s 4 = true) (hl : loadFailed s = false)
    (hi : pickBank s 1 = some i) :
    Completes .phaseP4 s fun t => t.start.done = 5 ∧ t.start.phase = 5 ∧ t.start.fwBank = i ∧ t.log.logOn = true
      ∧ t.log.held = [] ∧ t.open4 = true := by
  have hb : (startLog (noteBank 1 i { s with start.fwBank := i })).start.fwBank = i := by
    rw [(startLog_changes (.refl _ _)).start_eq, noteBank_fwBank]
  obtain ⟨hon, hheld⟩ := startLog_logOpen (noteBank 1 i { s with start.fwBank := i })
  exact ⟨_, exec_phaseP4 ha hl hi, rfl, rfl, hb, hon, hheld, rfl⟩

end Sys2Proof.Safety
end

section
/-! SUPPORT. Phases P5 to P7: the heartwood bank, the supplies, the self-check with the ledger, and the start-ready
source (R119, R122, R125, R226, R279). -/

set_option Elab.async false
set_option linter.unnecessarySeqFocus false

namespace Sys2Proof.Safety

open Sys2Proof.Machine

/-! ## P5 -/

theorem exec_phaseP5 {s : State} {i : Nat} (ha : atPhase s 5 = true) (hl : loadFailed s = false)
    (hi : pickBank s 2 = some i) :
    exec .phaseP5 s = .next (phaseDone 5 (startHeartwood (checkPage i true (noteBank 2 i (loadHeartwood i s))))) := by
  show execPhaseP5 s = _
  unfold execPhaseP5
  rw [if_neg (by simp [ha]), if_neg (by simp [hl]), hi]

theorem exec_phaseP5_failed {s : State} (ha : atPhase s 5 = true) (hl : loadFailed s = true) :
    exec .phaseP5 s = .next (stopStart 5 0x09 s) := (if_neg (by simp [ha])).trans (if_pos hl)

theorem exec_phaseP5_noBank {s : State} (ha : atPhase s 5 = true) (hl : loadFailed s = false)
    (hi : pickBank s 2 = none) :
    exec .phaseP5 s = .next (stopStart 5 0x09
      (checkPage (activeArea (dirNow s) 2) false (loadHeartwood (activeArea (dirNow s) 2) s))) := by
  show execPhaseP5 s = _
  unfold execPhaseP5
  rw [if_neg (by simp [ha]), if_neg (by simp [hl]), hi]

theorem checkPage_done (bank n : Nat) (good : Bool) (s : State) :
    (checkPage bank good (loadHeartwood n s)).start.done = s.start.done := by
  rw [(checkPage_changes (.refl _ _) _ _).start_eq]
  rfl

/-! ## P6 -/

/-- The self-check with the supplies in range (R279). -/
theorem exec_phaseP6 {s : State} (c : SelfCheck) (ha : atPhase s 6 = true) (hw : s.start.waitSupply = false)
    (hl : loadFailed s = false) (hs : startSupplies s = true) :
    exec (.phaseP6 c) s = match deviceStep c with
      | some step => .next (stopStart 6 0x0A (checkEvent step 255 s))
      | none => match rebuildLedger (selfCheck c s) with
        | none => .next (stopStart 6 0x0B (selfCheck c s))
        | some t => .next (phaseDone 6 (forBoughs closeInterrupted t)) := by
  show execPhaseP6 c s = _
  unfold execPhaseP6
  rw [if_neg (by simp [ha, hw]), if_neg (by simp [hl]), if_neg (by simp [hs])] <;> rfl

theorem exec_phaseP6_waits {s : State} (c : SelfCheck) (ha : atPhase s 6 = true) (hw : s.start.waitSupply = false)
    (hl : loadFailed s = false) (hs : startSupplies s = false) :
    exec (.phaseP6 c) s = .next { s with start.waitSupply := true } := by
  show execPhaseP6 c s = _
  unfold execPhaseP6
  rw [if_neg (by simp [ha, hw]), if_neg (by simp [hl]), if_pos (by simp [hs])]

theorem exec_phaseP6_failed {s : State} (c : SelfCheck) (ha : atPhase s 6 = true) (hw : s.start.waitSupply = false)
    (hl : loadFailed s = true) : exec (.phaseP6 c) s = .next (stopStart 6 0x0B s) := by
  show execPhaseP6 c s = _
  unfold execPhaseP6
  rw [if_neg (by simp [ha, hw]), if_pos hl]

theorem exec_waitSupplyEnd {s : State} (hp : s.start.phase = 6) (hw : s.start.waitSupply = true)
    (hs : startSupplies s = true) (ht : s.supply.tripped &&& s.start.waitFor = 0) :
    exec .waitSupplyEnd s = .next { s with start.waitSupply := false, start.waitFor := 0 } := if_pos ⟨hp, hw, hs, ht⟩

/-- The self-check is recorded and leaves the rest of the start (R279). -/
theorem selfCheck_done (c : SelfCheck) (s : State) : (selfCheck c s).start.done = s.start.done := by
  have h := Kept.forBoughs (checkBough c) (heartbeatTest_changes (w₀ := allBut .start) (.refl _ s)) fun b t ht =>
    checkBough_changes ht c b
  unfold selfCheck
  dsimp only
  generalize forBoughs (checkBough c) (heartbeatTest s) = u at h ⊢
  have h5 := Kept.ite (c := c.estopDiffer = true) (fun _ => checkEvent_changes h 5 255) fun _ => h
  generalize (if c.estopDiffer then checkEvent 5 255 u else u) = v at h5 ⊢
  rw [(Kept.ite (fun _ => checkEvent_changes h5 0 255) fun _ => h5).start_eq]

theorem rebuildLedger_built {s t : State} (h : rebuildLedger s = some t) : t.start.ledgerBuilt = true := by
  unfold rebuildLedger at h
  dsimp only at h
  split at h
  · obtain rfl := Option.some.inj h
    rfl
  · split at h
    · obtain rfl := Option.some.inj h
      rw [emit_start]
    · exact absurd h (by simp)

theorem phaseP6_completes {s : State} (c : SelfCheck) (ha : atPhase s 6 = true) (hw : s.start.waitSupply = false)
    (hl : loadFailed s = false) (hs : startSupplies s = true) (hd : deviceStep c = none)
    (hr : (rebuildLedger (selfCheck c s)).isSome = true) :
    Completes (.phaseP6 c) s fun t => t.start.done = 7 ∧ t.start.phase = 7 ∧ t.start.ledgerBuilt = true := by
  obtain ⟨t, ht⟩ := Option.isSome_iff_exists.mp hr
  have hc : (forBoughs closeInterrupted t).start = t.start :=
    (Kept.forBoughs _ (.refl _ t) fun b u hu => closeInterrupted_changes hu b).start_eq
  have he : exec (.phaseP6 c) s = .next (phaseDone 6 (forBoughs closeInterrupted t)) := by
    rw [exec_phaseP6 c ha hw hl hs, hd, ht]
  refine ⟨_, he, rfl, rfl, ?_⟩
  rw [phaseDone_start, hc]
  exact rebuildLedger_built ht

/-! ## P7 -/

/-- Source i of HST_IRQ is latched (R718). -/
def Latched (i : Nat) (s : State) : Prop := s.host.irq.getLsbD i = true

section
variable {i : Nat} {s t : State} (h : Latched i s)
include h

theorem Latched.set (e : t.host.irq = s.host.irq) : Latched i t := by
  unfold Latched
  rw [e]
  exact h

theorem Latched.kept (k : Kept (allBut .events) s t) : Latched i t := by
  have e := k.same
  simp only [Part.same, Prod.mk.injEq] at e
  obtain ⟨-, -, -, -, hirq⟩ := e
  exact h.set hirq

theorem Latched.emit (c b : Nat) (d : List Byte) : Latched i (emit c b d s) := emit_irq c b d h

theorem Latched.emitAtStart (c b : Nat) (d : List Byte) : Latched i (emitAtStart c b d s) := by
  have hr : (recordEvent c b 2 d s).host.irq.getLsbD i = true := by
    rw [recordEvent_host]
    exact h
  unfold Machine.emitAtStart postEvent
  generalize recordEvent c b 2 d s = u at hr
  split
  · exact hr
  · rw [if_neg (by decide)]
    split
    · exact placeEvent_irq _ _ _ _ _ hr
    · exact hr

theorem Latched.forBoughs (f : Bough → State → State) (hf : ∀ b t, Latched i t → Latched i (f b t)) :
    Latched i (forBoughs f s) := by
  unfold Machine.forBoughs
  generalize allBoughs = bs
  induction bs generalizing s with
  | nil => exact h
  | cons b bs ih => exact ih (hf b s h)

theorem Latched.ite {c : Prop} [Decidable c] (k : Latched i t) : Latched i (if c then s else t) := by
  split
  · exact h
  · exact k

end

theorem setOutput_latched {i : Nat} {s : State} (h : Latched i s) (b : Bough) : Latched i (setOutput b s) := by
  unfold setOutput
  dsimp only
  have hp (f : Port → Port) : Latched i (s.onPort b f) := h.set rfl
  have hf (f : Port → Port) (g : SafBough → SafBough) : Latched i ((s.onPort b f).onSaf b g) := h.set rfl
  exact Latched.ite (Latched.emit (Latched.ite (hf _ _) (hp _)) _ _ _) (Latched.ite (hf _ _) (hp _))

theorem releaseHeld_latched {i : Nat} {s : State} (h : Latched i s) (b : Bough) : Latched i (releaseHeld b s) :=
  h.forBoughs _ fun b' t ht =>
    Latched.ite (setOutput_latched (ht.kept (onPort_changes (.refl _ t) b' _)) b') ht

theorem backToA_latched {i : Nat} {s : State} (h : Latched i s) (b : Bough) : Latched i (backToA b s) := by
  unfold backToA closeWindow
  refine Latched.kept (releaseHeld_latched ?_ b) (onPort_changes (.refl _ _) _ _)
  exact h.kept (onPort_changes (leaveNetwork_changes (.refl _ s) b) _ _)

theorem driveOutput_latched {i : Nat} {s : State} (h : Latched i s) (b : Bough) : Latched i (driveOutput b s) :=
  .ite (backToA_latched (setOutput_latched h b) b) (setOutput_latched h b)

theorem driveAll_latched {i : Nat} {s : State} (h : Latched i s) : Latched i (driveAll s) :=
  h.forBoughs _ fun b _ ht => driveOutput_latched ht b

theorem cnpListen_latched {i : Nat} {s : State} (h : Latched i s) (r : Nat) : Latched i (cnpListen r s) := by
  unfold cnpListen setRole
  refine Latched.ite ?_ (Latched.emit ?_ _ _ _)
  · exact h.set rfl
  · exact h.set rfl

theorem serviceRequest_latched {i : Nat} {s : State} (h : Latched i s) : Latched i (serviceRequest s) :=
  .ite (h.emitAtStart _ _ _) h

/-- The work of P7 once its fields are set: event 0x010D, the loads out of their fail-safe, the start-ready source, the
pilots, the canopy and the tag's pages (R122, R444, R506, R553). -/
def readyWork (s : State) : State :=
  let s := emit 0x010D 255 (leN 2 s.start.startMs ++ leN 1 s.start.ronifSlot ++ leN 1 s.start.fwBank
    ++ leN 1 s.start.hwBank) s
  let s := { s with aux := s.aux.map (fun a => { a with fsFault := false, on := a.on && auxFailsafe s }) }
  let s := auxAll (auxEdge (driveAll (raiseIrq 0 s)))
  let s := if cnpMayRun s then cnpListen 1 s else s
  clearSummary (serviceRequest s)

theorem readyWork_start (s : State) : (readyWork s).start = s.start := by
  have hk (t : State) (ht : Kept (allBut .start) s t) :
      Kept (allBut .start) s (auxAll (auxEdge (driveAll (raiseIrq 0 t)))) :=
    auxAll_changes (auxEdge_changes (driveAll_changes (raiseIrq_changes ht 0)))
  have hl (d : List Byte) (x : Vector AuxCh 32) : Kept (allBut .start) s { emit 0x010D 255 d s with aux := x } :=
    setLoads_changes (emit_changes (.refl _ s) _ _ _) x
  unfold readyWork
  refine (clearSummary_changes (serviceRequest_changes (Kept.ite (fun _ => cnpListen_changes ?_ _) fun _ =>
    ?_))).start_eq
  · exact hk _ (hl _ _)
  · exact hk _ (hl _ _)

theorem readyWork_latched (s : State) : Latched 0 (readyWork s) := by
  unfold readyWork
  dsimp only
  refine Latched.kept (serviceRequest_latched ?_) (clearSummary_changes (.refl _ _))
  have h (t : State) : Latched 0 (auxAll (auxEdge (driveAll (raiseIrq 0 t)))) :=
    (driveAll_latched (raiseIrq_raised 0 t)).kept (auxAll_changes (auxEdge_changes (.refl _ _)))
  exact .ite (cnpListen_latched (h _) 1) (h _)

/-- A trial start sets the end of its confirmation window (R684). -/
def beginWindow (s : State) : State :=
  if s.start.trial then { s with upd.endAt := s.lat.optime + minuteTicks * fld s.updCfg 15 8 } else s

theorem exec_phaseP7 {s : State} (ms : Nat) (hp : s.start.phase = 7) (hd : s.start.done = 7) :
    exec (.phaseP7 ms) s
      = .next (beginWindow (readyWork { s with start.done := 8, start.startMs := min 2047 ms })) := by
  show execPhaseP7 ms s = _
  unfold execPhaseP7
  rw [if_neg (by simp [hp, hd])]
  dsimp only [beginWindow, readyWork]

theorem phaseP7_completes {s : State} (ms : Nat) (hp : s.start.phase = 7) (hd : s.start.done = 7) :
    Completes (.phaseP7 ms) s fun t =>
      t.ready = true ∧ t.start.startMs = min 2047 ms ∧ t.host.irq.getLsbD 0 = true := by
  refine ⟨_, exec_phaseP7 ms hp hd, ?_⟩
  have hs := readyWork_start { s with start.done := 8, start.startMs := min 2047 ms }
  have hq := readyWork_latched { s with start.done := 8, start.startMs := min 2047 ms }
  generalize readyWork { s with start.done := 8, start.startMs := min 2047 ms } = t at hs hq
  have hb : (beginWindow t).start = t.start ∧ Latched 0 (beginWindow t) := by
    unfold beginWindow
    split
    · exact ⟨rfl, hq.set rfl⟩
    · exact ⟨rfl, hq⟩
  refine ⟨?_, congrArg Start.startMs (hb.1.trans hs), hb.2⟩
  unfold State.ready
  rw [hb.1, hs]
  rfl

end Sys2Proof.Safety
end

section
/-! SUPPORT. The start: its phases and its stops. -/

set_option Elab.async false

namespace Sys2Proof.Safety

open Sys2Proof.Machine

theorem phaseP2_completes {s : State} {p : PatternTest} (ha : atPhase s 2 = true) (hn : s.start.stopNext = none)
    (hp : beyondRepair p = false) :
    Completes (.phaseP2 p) s fun t => t.start.done = 3 ∧ t.start.phase = 3 ∧ t.mem.cells = []
      ∧ t.tag.mirror = s.nv.tagMem ∧ t.open2 = true := by
  obtain ⟨hcells, hmirror, -⟩ := patternTest_leaves p s
  exact ⟨_, exec_phaseP2_done ha hn hp, rfl, rfl, hcells, hmirror, rfl⟩

theorem phaseP3_completes {s : State} (ha : atPhase s 3 = true) (hl : loadFailed s = false)
    (hi : imgCheck s (acceptedFormats s) (areaOf s 0 (dirNow s).ronif) = none) :
    Completes .phaseP3 s fun t => t.start.done = 4 ∧ t.start.phase = 4 ∧ t.start.ronifSlot = (dirNow s).ronif
      ∧ t.open3 = true := by
  have hslot : SlotIs (dirNow s).ronif (useSlot (dirNow s).ronif s) := useSlot_slot _ s
  refine ⟨_, exec_phaseP3 ha hl hi, ?_⟩
  generalize useSlot (dirNow s).ronif s = t at hslot
  exact ⟨rfl, rfl, hslot, rfl⟩

/-- In P1 every stop waits, and neither PHASE nor what has completed changes (R126). -/
theorem phaseP1_waits {s : State} (n : Option (Fin 3)) (ha : atPhase s 1 = true) (hn : s.start.stopNext = none) :
    let Waits := fun (i : Instr) (r : Nat) => Completes i s fun t =>
      t.start.stopNext = some (1, r) ∧ t.start.done = s.start.done ∧ t.start.phase = s.start.phase
    Waits (.phaseP1 false n) 3 ∧ (s.lifecycle = lcScrapped → Waits (.phaseP1 true n) 5)
      ∧ (s.lifecycle ≠ lcScrapped → Waits (.phaseP1 true none) 4) := by
  have hm : (tornStarts 3 (mapsTaken s)).start = (fusesHold s).start := by
    rw [(tornStarts_changes (.refl _ _) 3).start_eq, mapsTaken_start]
  refine ⟨completes_wait (exec_phaseP1_failed n ha hn) rfl rfl,
    fun hl => completes_wait (exec_phaseP1_scrapped n ha hn hl) rfl rfl,
    fun hl => completes_wait (exec_phaseP1_maps none ha hn hl) ((congrArg Start.done hm).trans rfl)
      ((congrArg Start.phase hm).trans rfl)⟩

/-- Settles O17, phase by phase: what each completes with, and the stop of each. -/
theorem startSequence : Obligations.StartSequence := by
  refine ⟨⟨fun s mv hr hf hp => resetRelease_completes mv hr hf hp, fun s n ha hn hl => phaseP1_completes n ha hn hl,
      fun s p ha hn hp => phaseP2_completes ha hn hp, fun s ha hl hi => phaseP3_completes ha hl hi,
      fun s i ha hl hi => phaseP4_completes ha hl hi⟩,
    ⟨fun s i ha hl hi => ⟨_, exec_phaseP5 ha hl hi, rfl, rfl⟩,
      fun s c ha hw hl hs => ⟨_, exec_phaseP6_waits c ha hw hl hs, rfl⟩,
      fun s hp hw hs ht => ⟨_, exec_waitSupplyEnd hp hw hs ht, rfl⟩,
      fun s c ha hw hl hs hd hr => phaseP6_completes c ha hw hl hs hd hr,
      fun s ms hp hd => phaseP7_completes ms hp hd⟩,
    fun s mv hr hf => ⟨?_, fun hp => ?_⟩, fun s n ha hn => phaseP1_waits n ha hn,
    fun s p => ⟨fun k r hn => ?_, fun hn ha hp => ?_⟩,
    fun s hl => ⟨fun ha => ?_, fun ha => ?_, fun ha => ?_, fun ha hw c => ?_⟩, fun s ha hl hi => ?_,
    fun s ha hl hi => ?_, fun s c ha hw hl hs => ⟨fun hd => ?_, fun hd hr => ?_⟩⟩
  · exact completes_stop (resetRelease_noPll mv hr hf) (atRelease_done mv s)
  · exact resetRelease_waits mv hr hf hp
  · exact completes_stop (exec_phaseP2_stop p hn) (patternTest_done p s)
  · exact completes_stop (exec_phaseP2_beyond ha hn hp) (patternTest_done p s)
  · exact completes_stop (exec_phaseP3_failed ha hl) rfl
  · exact completes_stop (exec_phaseP4_stop ha (.inl hl)) rfl
  · exact completes_stop (exec_phaseP5_failed ha hl) rfl
  · exact completes_stop (exec_phaseP6_failed c ha hw hl) rfl
  · exact completes_stop (exec_phaseP4_stop ha (.inr hi)) rfl
  · exact completes_stop (exec_phaseP5_noBank ha hl hi) (checkPage_done _ _ _ _)
  · obtain ⟨step, hstep⟩ := Option.ne_none_iff_exists'.mp hd
    have he : exec (.phaseP6 c) s = .next (stopStart 6 0x0A (checkEvent step 255 s)) := by
      rw [exec_phaseP6 c ha hw hl hs, hstep]
    exact completes_stop he (congrArg Start.done (emit_start _ _ _ _))
  · have he : exec (.phaseP6 c) s = .next (stopStart 6 0x0B (selfCheck c s)) := by
      rw [exec_phaseP6 c ha hw hl hs, hd, hr]
    exact completes_stop he (selfCheck_done c s)

end Sys2Proof.Safety
end

section
/-! SUPPORT. Frames of the remaining commands of the ports, the sessions and the safety block: those that can stop a session,
which closes its accounts (R214, R227), and those that can trip a bough (R278). -/

set_option Elab.async false

namespace Sys2Proof.Safety

open Sys2Proof.Machine

/-- What the offer of an identifier may change: the session that it authorises and the ledger searched for it (R217). -/
def authParts : List Part :=
  [.free, .events, .ports, .modems, .association, .sessions, .powerLinks, .sessionDev, .safety, .loads, .display,
    .memory, .cells, .recorder]

/-- What the end of a session may change: its port and bough, the readings signed, the debit and the journal (R214). -/
def stopParts : List Part :=
  [.free, .events, .ports, .modems, .association, .sessions, .powerLinks, .safety, .billed, .heartwood, .loads, .display,
    .memory, .cells, .recorder, .flash]

/-- What a trip may change: the coils and the canopy, beside what the end of the session may (R278, R518). -/
def tripParts : List Part :=
  [.free, .events, .ports, .modems, .association, .sessions, .powerLinks, .coils, .safety, .billed, .heartwood, .loads,
    .display, .canopy, .memory, .cells, .recorder, .flash]

/-- The measurements beside what a trip may change: those that the insulation check begins anew (R261). -/
def measureParts : List Part :=
  [.free, .events, .ports, .modems, .association, .sessions, .powerLinks, .coils, .safety, .measures, .billed, .heartwood,
    .loads, .display, .canopy, .memory, .cells, .recorder, .flash]

/-- The power die's own state beside what a trip may change: its switch tests, watchdogs and discrepancy. -/
def dieParts : List Part :=
  [.free, .events, .ports, .modems, .association, .sessions, .powerLinks, .coils, .safety, .powerDie, .billed, .heartwood,
    .loads, .display, .canopy, .memory, .cells, .recorder, .flash]

/-- What the fail-safe of the power die may change: its causes and the emergency stop too (R273, R277). -/
def failSafeParts : List Part :=
  [.free, .events, .ports, .modems, .association, .sessions, .powerLinks, .coils, .safety, .stops, .powerDie, .billed,
    .heartwood, .loads, .display, .canopy, .memory, .cells, .recorder, .flash]

/-! ## The pilot and proximity -/

theorem plateauValue_frame (b : Bough) (positive : Bool) (mv : Int) :
    Changes [.free, .events, .ports, .modems, .association, .sessions, .powerLinks, .sessionDev, .coils, .safety,
      .measures, .billed, .heartwood, .loads, .display, .memory, .cells, .recorder, .flash]
      (.plateauValue b positive mv) := fun s => by
  show KeptR _ s (execPlateauValue b positive mv s)
  unfold execPlateauValue
  dsimp only
  split
  · exact .same
  · exact .same
  · exact .next (.ite (fun _ => positivePlateau_changes (.refl _ s) _ _) fun _ => .refl _ s)
  · exact .next (.ite (fun _ => positivePlateau_changes (.refl _ s) _ _) fun _ => negativePlateau_changes (.refl _ s) _ _)

theorem proximityMean_frame (b : Bough) : Changes stopParts (.proximityMean b) := fun s => by
  show KeptR _ s (execProximityMean b s)
  unfold execProximityMean
  extract_lets mode p u v num den w c q x n y z
  have hu : Kept (parts stopParts) s u := onPort_changes (.refl _ s) _ _
  have hw : Kept (parts stopParts) s w := onPort_changes hu _ _
  have hx : Kept (parts stopParts) s x := onPort_changes hw _ _
  have hz : Kept (parts stopParts) s z := confirmPp_changes (onPort_changes hw _ _) _ _
  refine KeptR.ite (fun _ => .next (confirmPp_changes (onPort_changes hu _ _) _ _)) fun _ => KeptR.ite (fun _ => .next hu)
    fun _ => KeptR.ite (fun _ => .next ?_) fun _ => KeptR.ite (fun _ => .next ?_) fun _ => .next (onPort_changes hw _ _)
  · exact .ite (fun _ => cableGone_changes hx _) fun _ => hx
  · exact .ite (fun _ => cableGone_changes hz _) fun _ => hz

/-! ## The dialogue -/

theorem v2gRequest_frame (b : Bough) (r : V2G) : Changes authParts (.v2gRequest b r) := fun s => by
  show KeptR _ s (execV2gRequest b r s)
  unfold execV2gRequest
  exact onLinked_keeps (.refl _ s) _ _ fun _ hu => .ite (fun _ => serveV2g_changes hu _ _) fun _ => respond_changes hu _ _

theorem paymentDetailsReq_frame (b : Bough) (emaid : List Byte) (subCas : Nat) (chainOk inDate : Bool) :
    Changes authParts (.paymentDetailsReq b emaid subCas chainOk inDate) := fun s => by
  show KeptR _ s (execPaymentDetailsReq b emaid subCas chainOk inDate s)
  unfold execPaymentDetailsReq
  exact onLinked_keeps (.refl _ s) _ _ fun _ hu => .ite (fun _ => respond_changes hu _ _)
    fun _ => respond_changes (offerIdent_changes hu _ _) _ _

theorem powerDeliveryReq_frame (b : Bough) (k : PowerDelivery) : Changes stopParts (.powerDeliveryReq b k) := fun s => by
  show KeptR _ s (execPowerDeliveryReq b k s)
  unfold execPowerDeliveryReq
  refine onLinked_keeps (.refl _ s) _ _ fun u hu => ?_
  cases k with
  | start => exact respond_changes (resume_changes hu _) _ _
  | stop => exact respond_changes (stopTransfer_changes hu _ _) _ _
  | stopRenegotiate => exact respond_changes (suspend_changes hu _) _ _
  | pause => exact respond_changes (suspend_changes hu _) _ _

theorem sessionStopReq_frame (b : Bough) : Changes stopParts (.sessionStopReq b) := fun s => by
  show KeptR _ s (execSessionStopReq b s)
  unfold execSessionStopReq
  exact onLinked_keeps (.refl _ s) _ _ fun _ hu => respond_changes (stopTransfer_changes hu _ _) _ _

theorem v2gTimerExpired_frame (b : Bough) (k : V2gTimer) : Changes stopParts (.v2gTimerExpired b k) := fun s => by
  show KeptR _ s (execV2gTimerExpired b k s)
  unfold execV2gTimerExpired
  exact onLinked_keeps (.refl _ s) _ _ fun _ hu => .ite (fun _ => stopTransfer_changes hu _ _) fun _ => hu

/-! ## The session's timers -/

theorem hostWaitExpired_frame (b : Bough) : Changes authParts (.hostWaitExpired b) := fun s => by
  show KeptR _ s (execHostWaitExpired b s)
  unfold execHostWaitExpired
  refine onCore_keeps (.refl _ s) _ _ fun u hu => ?_
  split
  · exact .ite (fun _ => decideSilence_changes hu _) fun _ => hu
  · exact freeVendNow_changes hu _
  · exact hu

theorem authHoldExpired_frame (b : Bough) : Changes stopParts (.authHoldExpired b) := fun s => by
  show KeptR _ s (execAuthHoldExpired b s)
  unfold execAuthHoldExpired
  exact onCore_keeps (.refl _ s) _ _ fun _ hu => .ite (fun _ => finishSession_changes (onSes_changes hu _ _) _) fun _ => hu

theorem creditCheck_frame (b : Bough) : Changes stopParts (.creditCheck b) := fun s => by
  show KeptR _ s (execCreditCheck b s)
  unfold execCreditCheck
  refine onCore_keeps (.refl _ s) _ _ fun u hu => ?_
  have hc := reportCost_changes hu b
  have hg := takeNewGrant_changes hc b
  exact .ite (fun _ => hc) fun _ => .ite (fun _ => checkLimits_changes hg _) fun _ => hg

theorem grantExpired_frame (b : Bough) : Changes stopParts (.grantExpired b) := fun s => by
  show KeptR _ s (execGrantExpired b s)
  unfold execGrantExpired
  refine onCore_keeps (.refl _ s) _ _ fun u hu => ?_
  split
  · exact .ite (fun _ => stopTransfer_changes hu _ _) fun _ => hu
  · exact hu

theorem currentAllowanceExpired_frame (b : Bough) : Changes stopParts (.currentAllowanceExpired b) := fun s => by
  show KeptR _ s (execCurrentAllowanceExpired b s)
  unfold execCurrentAllowanceExpired
  exact onCore_keeps (.refl _ s) _ _ fun _ hu => .ite (fun _ => stopTransfer_changes hu _ _) fun _ => hu

/-! ## The contactors -/

/-- A bough that may not close gives up its closing request and trips (R260, R261). -/
theorem tripUnclosed_changes (s : State) (b : Bough) (f : SafBough → SafBough) :
    Kept (parts tripParts) s (trip b 20 0 (s.onSaf b f)) := trip_changes (onSaf_changes (.refl _ s) _ _) _ _ _

theorem closingSequence_frame (b : Bough) (k : AcStep) : Changes tripParts (.closingSequence b k) := fun s => by
  show KeptR _ s (execClosingSequence b k s)
  unfold execClosingSequence
  cases k with
  | begin =>
    exact KeptR.ite (fun _ => .same) fun _ => KeptR.ite (fun _ => .next (beginClosing_changes (.refl _ s) _ _))
      fun _ => .next (tripUnclosed_changes s _ _)
  | second => exact KeptR.ite (fun _ => .next (followClosing_changes (.refl _ s) _ _ _)) fun _ => .same

theorem dcClosingSequence_frame (b : Bough) (k : DcStep) : Changes measureParts (.dcClosingSequence b k) := fun s => by
  show KeptR _ s (execDcClosingSequence b k s)
  unfold execDcClosingSequence
  cases k with
  | begin =>
    exact KeptR.ite (fun _ => .same) fun _ => KeptR.ite (fun _ => .next ((tripUnclosed_changes s _ _).mono (by decide)))
      fun _ => .next (beginClosing_changes (.refl _ s) _ _)
  | second =>
    exact KeptR.ite (fun _ => .same) fun _ => KeptR.ite (fun _ => .next (followClosing_changes (.refl _ s) _ _ _))
      fun _ => .next (followClosing_changes (.refl _ s) _ _ _)
  | linkReached =>
    exact KeptR.ite (fun _ => .next (driveRequired_changes (onSaf_changes (.refl _ s) _ _) _ _)) fun _ => .same
  | mainClosed => exact .next (mainClosed_changes (.refl _ s) _)
  | preReleased => exact .next (preReleased_changes (.refl _ s) _)
  | insulation => exact .next (insulationDone_changes (.refl _ s) _)

theorem closingConfirmTimeout_frame (b : Bough) : Changes tripParts (.closingConfirmTimeout b) := fun s => by
  show KeptR _ s (execClosingConfirmTimeout b s)
  unfold execClosingConfirmTimeout
  split
  case h_4 => exact .same
  all_goals exact .next (trip_changes (.refl _ s) _ _ _)

theorem weldCheck_frame (b : Bough) (k : Fin 3) : Changes measureParts (.weldCheck b k) := fun s =>
  KeptR.ite (fun _ => .next (preReleased_changes (.refl _ s) _)) fun _ =>
    KeptR.ite (fun _ => .next (weldResult_changes (.refl _ s) _ _)) fun _ => .same

theorem weldRecheck_frame (b : Bough) (k : Fin 3) : Changes tripParts (.weldRecheck b k) := fun s =>
  KeptR.ite (fun _ => .next (weldResult_changes (.refl _ s) _ _)) fun _ => .same

theorem switchTestSlot_frame (slot : Fin 48) (r : TestResult) : Changes dieParts (.switchTestSlot slot r) := fun s => by
  show KeptR _ s (execSwitchTestSlot slot r s)
  unfold execSwitchTestSlot
  extract_lets b k side again skipped u
  have hu : Kept (parts dieParts) s u :=
    .ite (fun _ => setPowerDie_changes (.refl _ s) _ rfl) fun _ => setPowerDie_changes (.refl _ s) _ rfl
  cases r with
  | pass => exact .next (onCoil_changes hu _ _ _)
  | near => exact .next (setPowerDie_changes hu _ rfl)
  | discarded => exact .next hu
  | notOff | notRestored | noMove | partnerStuck => exact .next (testFailed_changes hu _ _ _ _ _)

theorem stuckOnCheck_frame (on : BitVec 48) : Changes tripParts (.stuckOnCheck on) := fun s =>
  KeptR.next (.foldl _ _ (.refl _ s) fun _ _ hu => stuckCheck_changes hu _ _)

theorem coilCurrentLimit_frame (b : Bough) (k : Fin 3) : Changes tripParts (.coilCurrentLimit b k) := fun s =>
  KeptR.next (trip_changes (.refl _ s) _ _ _)

theorem coilOpenDetect_frame (b : Bough) (k : Fin 3) : Changes tripParts (.coilOpenDetect b k) := fun s =>
  KeptR.ite (fun _ => .next (trip_changes (.refl _ s) _ _ _)) fun _ => .same

theorem coilSupplyLow_frame (b : Bough) : Changes tripParts (.coilSupplyLow b) := fun s =>
  KeptR.ite (fun _ => .next (trip_changes (.refl _ s) _ _ _)) fun _ => .same

/-! ## Residual current and insulation -/

theorem sidePathSample_frame (b : Bough) (v : SideSample) :
    Changes [.free, .events, .ports, .modems, .association, .sessions, .powerLinks, .coils, .safety, .measures, .sampling,
      .billed, .heartwood, .loads, .display, .canopy, .memory, .cells, .recorder, .flash] (.sidePathSample b v) := fun s =>
  KeptR.next (overvoltage_changes (residualTrips_changes (measureResidual_changes (takeSide_changes (.refl _ s) _ _) _) _) _)

theorem dcResidualPersistence_frame (b : Bough) (w : DcWindow) :
    Changes tripParts (.dcResidualPersistence b w) := fun s => by
  show KeptR _ s (execDcResidualPersistence b w s)
  unfold execDcResidualPersistence
  dsimp only
  split
  · exact .next (trip_changes (.refl _ s) _ _ _)
  · exact .same

theorem bridgeStateEnd_frame (b : Bough) : Changes measureParts (.bridgeStateEnd b) := fun s =>
  KeptR.ite (fun _ => .same) fun _ => .next (toggleBridge_changes (onMeas_changes (judgeInsulation_changes (.refl _ s) _ _)
    _ _) _)

/-! ## The power die -/

theorem emergencyStop_frame (mvA mvB : Nat) : Changes failSafeParts (.emergencyStop mvA mvB) := fun s =>
  KeptR.ite (fun _ => .next (fsEnter_changes (stopEvent_changes (setStops_changes (.refl _ s) _)) _ _))
    fun _ => .next (setStops_changes (.refl _ s) _)

theorem heartbeatFrame_frame (beat : Bool) (counter : BitVec 4) (crcOk : Bool) :
    Changes failSafeParts (.heartbeatFrame beat counter crcOk) := fun s => by
  have hg := linkGood_changes (.refl (parts failSafeParts) s)
  exact KeptR.ite (fun _ => .next (linkBad_changes (.refl _ s))) fun _ => KeptR.ite (fun _ => .next hg) fun _ =>
    KeptR.ite (fun _ => .next (beatGood_changes hg _)) fun _ => .next (setStops_changes hg _)

theorem logicWatchdogExpired_frame (c : Fin 2) : Changes dieParts (.logicWatchdogExpired c) := fun s => by
  show KeptR _ s (execLogicWatchdogExpired c s)
  unfold execLogicWatchdogExpired
  dsimp only
  refine KeptR.ite (fun _ => .next ?_) fun _ => .next (.forBoughs _ (emit_changes ?_ _ _ _) fun _ _ hu =>
    .ite (fun _ => trip_changes hu _ _ _) fun _ => hu)
  all_goals exact setPowerDie_changes (.refl _ s) _ rfl

theorem estopDiscrepancy_frame : Changes dieParts .estopDiscrepancy := fun s => by
  show KeptR _ s (execEstopDiscrepancy s)
  unfold execEstopDiscrepancy
  refine KeptR.ite (fun _ => .same) fun _ => .next (tripAll_changes ?_ _)
  exact setPowerDie_changes (.refl _ s) _ rfl

theorem heartbeatPeriodMissed_frame : Changes failSafeParts .heartbeatPeriodMissed := fun s =>
  KeptR.ite (fun _ => .next (fsEnter_changes (setStops_changes (.refl _ s) _) _ _))
    fun _ => .next (setStops_changes (.refl _ s) _)

/-! ## All of them -/

/-- Settles O56: each command's frame is put together from the frames of the operations that it calls. -/
theorem framesOfPortsSessionsAndSafety : Obligations.FramesOfPortsSessionsAndSafety := by
  unfold Obligations.FramesOfPortsSessionsAndSafety
  exact ⟨plateauValue_frame, pilotFaultProbe_frame, proximityMean_frame, cmSlacParmReq_frame, cmStartAttenCharInd_frame,
    cmMnbcSoundInd_frame, soundingEnd_frame, cmSlacMatchReq_frame, cmValidateReq_frame, validateCountEnd_frame,
    slacWindowExpired_frame, staggerRelease_frame, modemFrameReceived_frame, selectiveAckReceived_frame,
    seccDiscoveryReq_frame, supportedAppProtocol_frame, v2gRequest_frame, paymentDetailsReq_frame, cableCheckReq_frame,
    powerDeliveryReq_frame, sessionStopReq_frame, certificateInstallationReq_frame, v2gTimerExpired_frame,
    hostWaitExpired_frame, authHoldExpired_frame, creditCheck_frame, grantExpired_frame, hostCeilingExpired_frame,
    ceilingBelowMinimum_frame, stopWaitEnd_frame, powerRequest_frame, currentAllowanceExpired_frame,
    sesAuthAccept_frame, sesAuthRefuse_frame, sesIdent_frame, sesStop_frame, sesGrant_frame, sesCeiling_frame,
    sesCreditAdd_frame, sesCreditSet_frame, sesCreditCreate_frame, sesCreditDelete_frame, sesCreditSetFlags_frame,
    sesLedgerLoadMerge_frame, sesLedgerLoadReplace_frame, closingSequence_frame, dcClosingSequence_frame,
    contactConfirmed_frame, closingConfirmTimeout_frame, prechargeComplete_frame, ordinaryOpening_frame,
    secondRelease_frame, weldCheck_frame, weldRecheck_frame, switchTestSlot_frame, stuckOnCheck_frame,
    coilCurrentLimit_frame, coilOpenDetect_frame, coilSupplyLow_frame, emergencyStop_frame, sidePathSample_frame,
    dcResidualPersistence_frame, bridgeStateEnd_frame, heartbeatSend_frame, heartbeatFrame_frame, coreService_frame,
    logicWatchdogExpired_frame, safClear_frame, safHoldSet_frame, safHoldRelease_frame, decisionWindowEnd_frame,
    emergencyStopRelease_frame, estopDiscrepancy_frame, heartbeatPeriodMissed_frame⟩

end Sys2Proof.Safety
end

section
/-! SUPPORT. The pilot's refutations (R171, R172, R181, R206): a port that offers digital communication and has not confirmed
state B drives mode X1 whatever current is asked, and a bough that leaves mode F returns to state A. -/

set_option Elab.async false

namespace Sys2Proof.Safety

open Sys2Proof.Machine

/-- A device in operation whose port 0 offers digital communication and asks for 16 A, with a vehicle that went from state A
to state C at once: state B was never confirmed. -/
def straightToC : State :=
  { State.reset with
    start.done := 8
    safDev.fsCauses := []
    safDev.firstBeat := true
    supply.inRange := 0x1FFF
    host.applied := pagePuts State.reset.host.applied 0x2000 (leN 4 0xC00000A0)
    ports := State.reset.ports.set 0 { state := .C, ppCode := 2, rating := 200, ratingUse := 200 }
    ses := State.reset.ses.set 0 { acCeil := 160 } }

theorem straightToC_drive : pilotDrive straightToC 0 = (.x1, 1000, 0) := by decide +kernel

/-- Refutes O10: in `straightToC` the port asks for 16 A and is not digital, but until state B is confirmed it offers no
current by PWM: it drives mode X1 where the claim asks for mode X2. -/
theorem not_pilotDuty : ¬ Obligations.PilotDuty := by
  unfold Obligations.PilotDuty
  intro h
  obtain ⟨-, drive⟩ := h
  obtain ⟨-, pwm⟩ := drive straightToC 0 (.inl (congrArg Prod.fst straightToC_drive)) (by decide +kernel)
    (by decide +kernel) (by decide +kernel) (by decide +kernel) (by decide +kernel)
  obtain ⟨d, -, hd⟩ := pwm (by decide +kernel)
  rw [straightToC_drive] at hd
  have hm : OutMode.x1 = .x2 := congrArg Prod.fst hd
  exact absurd hm (by decide)

/-- Refutes O22: in `heldInF` STAGGER_RELEASE completes, but the port leaves mode F with it and so returns to state A, which
ends its matching (SLAC 0), where the claim asks for SLAC 1. -/
theorem not_association : ¬ Obligations.Association := by
  unfold Obligations.Association
  intro h
  obtain ⟨-, -, -, -, -, stagger⟩ := h
  have held : heldInF.ports[(0 : Bough)].slac = 5 := by decide +kernel
  obtain ⟨t, ht, slac, -⟩ := stagger heldInF 0 held
  rw [exec_staggerRelease held] at ht
  obtain rfl := Host.Outcome.next.inj ht
  exact absurd (heldInF_released.symm.trans slac) (by decide)

end Sys2Proof.Safety
end

section
/-! SUPPORT. What a move of the session's state keeps (R214, R231, R232): the pilot and the power request that follow it
leave the session's state and its stop reason as they were set, and of the safety block nothing but the pilot's note
changes. -/

set_option Elab.async false

namespace Sys2Proof.Safety

open Sys2Proof.Machine

/-! ## The safety block under the pilot -/

/-- Of every bough's safety state nothing but the note of states C and D differs. -/
def SafKept (s t : State) : Prop := ∀ b : Bough, t.saf[b] = { s.saf[b] with pilotCD := t.saf[b].pilotCD }

theorem SafKept.of_eq {s t : State} (h : t.saf = s.saf) : SafKept s t := fun b => by rw [h]

theorem SafKept.refl (s : State) : SafKept s s := .of_eq rfl

theorem SafKept.trans {s t u : State} (h : SafKept s t) (k : SafKept t u) : SafKept s u := fun b => by rw [k b, h b]

/-- An operation whose frame leaves the safety block out keeps it. -/
theorem Kept.saf {s t : State} (h : Kept (allBut .safety) s t) : SafKept s t := .of_eq h.same

theorem SafKept.ite {s t u : State} {c : Prop} [Decidable c] (h : SafKept s t) (k : SafKept s u) :
    SafKept s (if c then t else u) := by
  split
  · exact h
  · exact k

theorem SafKept.closeReq {s t : State} (h : SafKept s t) (b : Bough) : t.saf[b].closeReq = s.saf[b].closeReq := by rw [h b]

theorem SafKept.isolation {s t : State} (h : SafKept s t) (b : Bough) : t.saf[b].isolation = s.saf[b].isolation := by
  rw [h b]

/-- The pilot's note of a bough falls. -/
theorem dropPilotCD_saf (b : Bough) (s : State) : SafKept s (s.onSaf b fun f => { f with pilotCD := false }) := fun c => by
  rw [State.onSaf_saf, modAt_fin]
  split <;> rfl

theorem setOutput_saf (b : Bough) (s : State) : SafKept s (setOutput b s) := by
  unfold setOutput
  dsimp only
  have hp (f : Port → Port) : SafKept s (s.onPort b f) := .of_eq rfl
  have hd (f : Port → Port) := (hp f).trans (dropPilotCD_saf b (s.onPort b f))
  refine .ite ?_ (.ite (hd _) (hp _))
  exact (SafKept.ite (hd _) (hp _)).trans (.of_eq (emit_saf _ _ _ _))

theorem releaseHeld_saf (b : Bough) (s : State) : SafKept s (releaseHeld b s) := by
  unfold releaseHeld forBoughs
  refine List.foldlRecOn (motive := SafKept s) _ _ (.refl s) fun t ht c _ => ?_
  refine .ite (ht.trans ?_) ht
  exact .trans (.of_eq rfl) (setOutput_saf c _)

theorem backToA_saf (b : Bough) (s : State) : SafKept s (backToA b s) := by
  unfold backToA closeWindow
  have hl := (leaveNetwork_changes (w₀ := allBut .safety) (.refl _ s) b).saf
  have hp (f : Port → Port) (u : State) : SafKept u (u.onPort b f) := .of_eq rfl
  exact ((hl.trans (hp _ _)).trans (releaseHeld_saf b _)).trans (hp _ _)

theorem driveOutput_saf (b : Bough) (s : State) : SafKept s (driveOutput b s) :=
  .ite ((setOutput_saf b s).trans (backToA_saf b _)) (setOutput_saf b s)

theorem withRequest_saf (b : Bough) (f : State → State) (s : State) : SafKept (f s) (withRequest b f s) := by
  have hd := (recalcCeil_changes (w₀ := allBut .safety) (.refl _ (f s)) b).saf.trans (driveOutput_saf b _)
  exact .ite hd (hd.trans (powerRequest_changes (.refl _ _) b).saf)

/-- A move of the session's state leaves the safety block to the pilot. -/
theorem goState_saf (b : Bough) (st : SesState) (s : State) : SafKept s (goState b st s) := by
  unfold goState
  dsimp only
  generalize hu : (if st = .energising then leaveLowPower s else s) = u
  have h : SafKept s u := by
    rw [← hu]
    exact .ite (leaveLowPower_changes (.refl _ s)).saf (.refl s)
  have hm (c n : Nat) (d : List Byte) (f : Session → Session) : SafKept u (emit c n d (u.onSes b f)) :=
    .of_eq (emit_saf c n d _)
  exact ((h.trans (hm _ _ _ _)).trans (withRequest_saf b _ u)).trans (auxAll_changes (.refl _ _)).saf

/-! ## The session under a move of its state -/

/-- The session with a new ceiling: its state and its stop reason stand. -/
theorem setCeiling_ses (b : Bough) (s : State) (w : Nat) (a k : Nat) :
    let t := s.onSes b fun e => { e with ceilW := w, acCeil := a, binding := k }
    t.ses[b].state = s.ses[b].state ∧ t.ses[b].stopReason = s.ses[b].stopReason := by
  dsimp only
  rw [State.onSes_ses, modAt_get]
  exact ⟨rfl, rfl⟩

theorem recalcCeil_ses (b : Bough) (s : State) :
    (recalcCeil b s).ses[b].state = s.ses[b].state ∧ (recalcCeil b s).ses[b].stopReason = s.ses[b].stopReason := by
  unfold recalcCeil
  extract_lets
  split
  split
  · exact setCeiling_ses b s _ _ _
  · exact setCeiling_ses b (s.onSesL b _) _ _ _

/-- What follows a change of the request leaves the session's state and stop reason as the change set them. -/
theorem withRequest_ses (b : Bough) (f : State → State) (s : State) :
    (withRequest b f s).ses[b].state = (f s).ses[b].state
      ∧ (withRequest b f s).ses[b].stopReason = (f s).ses[b].stopReason := by
  have hd : Kept (allBut .sessions) (recalcCeil b (f s)) (driveOutput b (recalcCeil b (f s))) :=
    driveOutput_changes (.refl _ _) b
  have hw : (withRequest b f s).ses = (recalcCeil b (f s)).ses :=
    (Kept.ite (fun _ => hd) fun _ => powerRequest_changes hd b).same
  rw [hw]
  exact recalcCeil_ses b (f s)

theorem auxAll_ses (s : State) : (auxAll s).ses = s.ses := (auxAll_changes (w₀ := allBut .sessions) (.refl _ s)).same

theorem leaveLowPower_ses (s : State) : (leaveLowPower s).ses = s.ses :=
  (leaveLowPower_changes (w₀ := allBut .sessions) (.refl _ s)).same

/-- The session that moves takes the new state and keeps its stop reason. -/
theorem goState_ses (b : Bough) (st : SesState) (s : State) :
    (goState b st s).ses[b].state = st ∧ (goState b st s).ses[b].stopReason = s.ses[b].stopReason := by
  unfold goState
  dsimp only
  generalize hu : (if st = .energising then leaveLowPower s else s) = u
  have h : u.ses = s.ses := by
    rw [← hu]
    split
    · exact leaveLowPower_ses s
    · rfl
  have hm (c n : Nat) (d : List Byte) : let v := emit c n d (u.onSes b fun e => { e with state := st })
      v.ses[b].state = st ∧ v.ses[b].stopReason = s.ses[b].stopReason := by
    dsimp only
    rw [emit_ses, State.onSes_ses, modAt_get, h]
    exact ⟨rfl, rfl⟩
  rw [auxAll_ses]
  exact ⟨(withRequest_ses b _ u).1.trans (hm _ _ _).1, (withRequest_ses b _ u).2.trans (hm _ _ _).2⟩

/-- A stop with the coils closed (R214, R216): the session waits in STOPPING with its reason, and asks for no closing. -/
theorem enterStopping_closed {s : State} {b : Bough} (r : Nat) (h : coilsClosed s b = true) :
    (enterStopping b r s).ses[b].state = .stopping ∧ (enterStopping b r s).ses[b].stopReason = r
      ∧ (enterStopping b r s).saf[b].closeReq = false := by
  unfold enterStopping
  dsimp only
  rw [h, Bool.not_true, Bool.false_and, if_neg Bool.false_ne_true, (goState_ses b _ _).1, (goState_ses b _ _).2,
    (goState_saf b _ _).closeReq]
  simp only [State.onSaf_ses, State.onSesL_ses, State.onSes_ses, State.onSaf_saf, modAt_get, and_self]

theorem stopTransfer_closed {s : State} {b : Bough} (r : Nat) (ht : transferring s.ses[b].state = true)
    (h : coilsClosed s b = true) :
    (stopTransfer b r s).ses[b].state = .stopping ∧ (stopTransfer b r s).ses[b].stopReason = r
      ∧ (stopTransfer b r s).saf[b].closeReq = false := by
  unfold stopTransfer
  rw [if_pos ht]
  exact enterStopping_closed r h

theorem energise_requests (b : Bough) (s : State) :
    (energise b s).ses[b].state = .energising ∧ (energise b s).saf[b].closeReq = true
      ∧ (energise b s).saf[b].isolation = s.saf[b].isolation := by
  unfold energise
  rw [(goState_ses b _ _).1, (goState_saf b _ _).closeReq, (goState_saf b _ _).isolation]
  simp only [State.onSaf_saf, modAt_get, and_self]

end Sys2Proof.Safety
end

section
/-! SUPPORT. The dialogue with an associated vehicle (R189, R190, R192, R195, R214, R215). -/

set_option Elab.async false

namespace Sys2Proof.Safety

open Sys2Proof.Machine

/-! ## Links -/

/-- The command acts by f over a usable link of the bough, and not at all without one (R183, R190). -/
def OnLink (i : Instr) (b : Bough) (f : State → State) : Prop := ∀ s, exec i s = onLinked b s f

section
variable {i : Instr} {b : Bough} {f : State → State} {s : State}

theorem OnLink.exec_linked (h : OnLink i b f) (hl : linked s b = true) : exec i s = .next (f s) := (h s).trans (if_pos hl)

theorem OnLink.exec_unlinked (h : OnLink i b f) (hl : linked s b = false) : exec i s = .next s :=
  (h s).trans (if_neg (by rw [hl]; exact Bool.false_ne_true))

/-- Over a usable link the command completes with what f answers, here named. -/
theorem OnLink.completes {t : State} {P : State → Prop} (h : OnLink i b f) (hl : linked s b = true) (ht : f s = t)
    (hp : P t) : Completes i s P := ⟨t, (h.exec_linked hl).trans (congrArg _ ht), hp⟩

end

section
variable (b : Bough)

theorem seccDiscoveryReq_onLink : OnLink (.seccDiscoveryReq b true 15118) b (reply b .sdpResponse) := fun _ => rfl

theorem v2gRequest_onLink (r : V2G) : OnLink (.v2gRequest b r) b fun s =>
    if supported s b r then serveV2g b r s else respond b .failed s := fun _ => rfl

theorem paymentDetailsReq_onLink (emaid : List Byte) (subCas : Nat) (chainOk inDate : Bool) :
    ∃ f : State → State, OnLink (.paymentDetailsReq b emaid subCas chainOk inDate) b fun s =>
      if s.ports[b].proto < 2 then respond b .failed s else f s := ⟨_, fun _ => rfl⟩

theorem certificateInstallationReq_onLink : OnLink (.certificateInstallationReq b) b fun s =>
    if s.ports[b].proto < 2 then respond b .failed s else relayCertificate b s := fun _ => rfl

/-- The cable check starts the closing of an authorised DC session, and answers what there is (R214, R261). -/
theorem cableCheckReq_onLink : ∃ r : State → Reply, OnLink (.cableCheckReq b) b fun s =>
    let t := if isDC s b && s.ses[b].state == .authorised then
      energise b (s.onSaf b fun f => { f with isolation := 0 }) else s
    respond b (r t) t := by
  refine ⟨fun t => if !isDC t b || t.ports[b].proto = 0 then .failed
    else if t.saf[b].isolation = 0 then .ongoing else .isolation (isolationStatus t b t.saf[b].isolation), fun s => ?_⟩
  show execCableCheckReq b s = _
  unfold execCableCheckReq
  refine congrArg (onLinked b s) (funext fun u => ?_)
  extract_lets v
  exact (apply_ite (respond b · v) _ _ _).symm

theorem powerDeliveryReq_onLink (k : PowerDelivery) : OnLink (.powerDeliveryReq b k) b fun s =>
    respond b .ok (match k with
      | .start => resume b s
      | .stop => stopTransfer b 0x01 s
      | .stopRenegotiate | .pause => suspend b s) := fun s => by
  cases k <;> rfl

theorem sessionStopReq_onLink : OnLink (.sessionStopReq b) b fun s => respond b .ok (stopTransfer b 0x01 s) := fun _ => rfl

theorem v2gTimerExpired_onLink (k : V2gTimer) : OnLink (.v2gTimerExpired b k) b fun s =>
    if timerCounts s b k then stopTransfer b 0x08 s else s := fun _ => rfl

end

/-- Without a link no request is answered, whatever its addresses (R189, R190). -/
theorem seccDiscoveryReq_unlinked {s : State} {b : Bough} (l : Bool) (u : Nat) (h : linked s b = false) :
    exec (.seccDiscoveryReq b l u) s = .next s := by
  show execSeccDiscoveryReq b l u s = _
  unfold execSeccDiscoveryReq
  split
  · exact if_neg (by rw [h]; exact Bool.false_ne_true)
  · rfl

/-! ## Answers -/

theorem reply_links (b : Bough) (r : Reply) (s : State) : (reply b r s).links[b].reply = some r := by
  unfold reply
  rw [State.onLink_links, modAt_get]

/-- Only a stopping session puts its stop in the place of an answer (R216). -/
theorem respond_running {s : State} {b : Bough} (r : Reply) (h : s.ses[b].state ≠ .stopping) :
    respond b r s = reply b r s := by
  have hs : (s.ses[b].state == .stopping) = false := beq_eq_false_iff_ne.mpr h
  unfold respond
  dsimp only
  rw [hs, Bool.false_and, Bool.false_and, if_neg Bool.false_ne_true]

theorem respond_ses (b : Bough) (r : Reply) (s : State) : (respond b r s).ses = s.ses :=
  (respond_changes (w₀ := allBut .sessions) (.refl _ s) b r).same

theorem respond_saf (b : Bough) (r : Reply) (s : State) : (respond b r s).saf = s.saf :=
  (respond_changes (w₀ := allBut .safety) (.refl _ s) b r).same

/-! ## The choice of the protocol (R189) -/

/-- The number of a protocol in PROTO (R189). -/
def protoNo (p : Proto) : Nat :=
  match p with
  | .iso20 => 3
  | .iso2 => 2
  | .din => 1

/-- Whether a chosen protocol runs over TLS. -/
def protoTls (s : State) (b : Bough) (tlsAsked : Bool) (p : Proto) : Bool :=
  match p with
  | .iso20 => true
  | .iso2 => iso2Tls s b tlsAsked
  | .din => false

/-- The bough after a protocol is chosen, before event 0x020B and the answer. -/
def withProto (b : Bough) (conn : Nat) (tlsAsked : Bool) (suites : List Cipher) (p : Proto) (s : State) : State :=
  ((s.onLink b fun l => { l with conn := some conn }).onPort b fun x =>
      { x with proto := protoNo p, tls := protoTls s b tlsAsked p }).onLink b fun l =>
    { l with cipher := if protoTls s b tlsAsked p then suiteFor p suites else none }

theorem exec_supportedAppProtocol {s : State} {b : Bough} {conn : Nat} {list : List Proto} {tlsAsked : Bool}
    {suites : List Cipher} {p : Proto} (hl : linked s b = true) (hc : ∀ c, s.links[b].conn = some c → c = conn)
    (hp : [Proto.iso20, Proto.iso2, Proto.din].find? (protoOk s b list tlsAsked suites) = some p) :
    exec (.supportedAppProtocol b conn list tlsAsked suites) s
      = .next (reply b .protocolChosen (emit 0x020B b.val
          (leN 1 (protoNo p) ++ leN 1 (b2n (protoTls s b tlsAsked p))) (withProto b conn tlsAsked suites p s))) := by
  have hn : s.links[b].conn.any (· != conn) = false := by
    cases e : s.links[b].conn with
    | none => rfl
    | some c => simp [hc c e]
  have hq : [Proto.iso20, Proto.iso2, Proto.din].find?
      (protoOk (s.onLink b fun l => { l with conn := some conn }) b list tlsAsked suites) = some p := hp
  show execSupportedAppProtocol b conn list tlsAsked suites s = _
  unfold execSupportedAppProtocol onLinked
  rw [if_pos hl]
  beta_reduce
  rw [hn, if_neg Bool.false_ne_true]
  dsimp only
  rw [hq]
  cases p <;> rfl

theorem supportedAppProtocol_completes {s : State} {b : Bough} {conn : Nat} {list : List Proto} {tlsAsked : Bool}
    {suites : List Cipher} {p : Proto} (hl : linked s b = true) (hc : ∀ c, s.links[b].conn = some c → c = conn)
    (hp : [Proto.iso20, Proto.iso2, Proto.din].find? (protoOk s b list tlsAsked suites) = some p)
    (hr : CanReport 0x020B 2 s) :
    Completes (.supportedAppProtocol b conn list tlsAsked suites) s fun t =>
      t.ports[b].proto = protoNo p ∧ t.ports[b].tls = protoTls s b tlsAsked p
        ∧ t.links[b].reply = some .protocolChosen
        ∧ lastEvent t = some (0x020B, b.val, 0, leN 1 t.ports[b].proto ++ leN 1 (b2n t.ports[b].tls)) := by
  refine ⟨_, exec_supportedAppProtocol hl hc hp, ?_⟩
  generalize he : emit _ _ _ (withProto b conn tlsAsked suites p s) = u
  have hu : u.ports[b].proto = protoNo p ∧ u.ports[b].tls = protoTls s b tlsAsked p := by
    rw [← he, emit_ports]
    unfold withProto
    rw [State.onLink_ports, State.onPort_ports, modAt_get]
    exact ⟨rfl, rfl⟩
  have hq : lastEvent u = some (0x020B, b.val, 0, leN 1 (protoNo p) ++ leN 1 (b2n (protoTls s b tlsAsked p))) := by
    rw [← he]
    exact emit_last _ _ _ (hr.of_eq rfl rfl rfl)
  refine ⟨hu.1, hu.2, reply_links b _ u, ?_⟩
  show lastEvent u = some (0x020B, b.val, 0, leN 1 u.ports[b].proto ++ leN 1 (b2n u.ports[b].tls))
  rw [hq, hu.1, hu.2]

/-- A bough has one connection: a message on another is not served (R189). -/
theorem supportedAppProtocol_otherConn {s : State} {b : Bough} {conn c : Nat} (list : List Proto) (tlsAsked : Bool)
    (suites : List Cipher) (hl : linked s b = true) (hc : s.links[b].conn = some c) (hn : c ≠ conn) :
    exec (.supportedAppProtocol b conn list tlsAsked suites) s = .next s := by
  show execSupportedAppProtocol b conn list tlsAsked suites s = _
  unfold execSupportedAppProtocol onLinked
  rw [if_pos hl]
  beta_reduce
  rw [hc, if_pos (by simp [hn])]

/-! ## Requests -/

section
variable {s : State} {b : Bough} (hl : linked s b = true) (hs : s.ses[b].state ≠ .stopping)
include hl hs

theorem v2gRequest_unsupported {r : V2G} (h : supported s b r = false) :
    Completes (.v2gRequest b r) s fun t => t.links[b].reply = some .failed ∧ t.ses = s.ses ∧ t.sesL = s.sesL :=
  (v2gRequest_onLink b r).completes hl (t := reply b .failed s)
    ((if_neg (by rw [h]; exact Bool.false_ne_true)).trans (respond_running _ hs)) ⟨reply_links b _ s, rfl, rfl⟩

theorem serviceDiscovery_completes (h : s.ports[b].proto ≠ 0) :
    Completes (.v2gRequest b .serviceDiscovery) s fun t => t.links[b].reply = some .ok := by
  have hp : supported s b .serviceDiscovery = true := bne_iff_ne.mpr h
  exact (v2gRequest_onLink b _).completes hl (t := reply b .ok s) ((if_pos hp).trans (respond_running _ hs))
    (reply_links b _ s)

theorem paymentDetailsReq_din (emaid : List Byte) (subCas : Nat) (chainOk inDate : Bool) (h : s.ports[b].proto < 2) :
    Completes (.paymentDetailsReq b emaid subCas chainOk inDate) s fun t =>
      t.links[b].reply = some .failed ∧ t.ses = s.ses := by
  obtain ⟨f, hf⟩ := paymentDetailsReq_onLink b emaid subCas chainOk inDate
  exact hf.completes hl (t := reply b .failed s) ((if_pos h).trans (respond_running _ hs)) ⟨reply_links b _ s, rfl⟩

theorem certificateInstallationReq_completes (h : 2 ≤ s.ports[b].proto) :
    Completes (.certificateInstallationReq b) s fun t =>
      t.links[b].reply = some (if bitOf s.sesAuthCfg 31 then .ongoing else .failed) :=
  (certificateInstallationReq_onLink b).completes hl (t := reply b _ s)
    ((if_neg (by omega)).trans (respond_running _ hs)) (reply_links b _ s)

end

/-- The cable check of an authorised DC session starts the closing (R214). -/
theorem cableCheckReq_energises {s : State} {b : Bough} (hl : linked s b = true) (hd : isDC s b = true)
    (ha : s.ses[b].state = .authorised) :
    Completes (.cableCheckReq b) s fun t =>
      t.ses[b].state = .energising ∧ t.saf[b].closeReq = true ∧ t.saf[b].isolation = 0 := by
  obtain ⟨r, hr⟩ := cableCheckReq_onLink b
  refine hr.completes hl rfl ?_
  dsimp only
  rw [hd, ha, if_pos (by decide), respond_ses, respond_saf]
  obtain ⟨hstate, hclose, hiso⟩ := energise_requests b (s.onSaf b fun f => { f with isolation := 0 })
  exact ⟨hstate, hclose, hiso.trans (by rw [State.onSaf_saf, modAt_get])⟩

/-! ## The end of the transfer (R195, R215) -/

theorem respond_stopTransfer {s : State} {b : Bough} (r : Reply) (reason : Nat) (ht : transferring s.ses[b].state = true)
    (hc : coilsClosed s b = true) :
    (respond b r (stopTransfer b reason s)).ses[b].state = .stopping
      ∧ (respond b r (stopTransfer b reason s)).ses[b].stopReason = reason := by
  obtain ⟨hstate, hreason, -⟩ := stopTransfer_closed reason ht hc
  rw [respond_ses]
  exact ⟨hstate, hreason⟩

/-- Settles O24: without a link nothing is answered; on a link each request has its answer while the session does not stop,
and the requests and timers that end a transfer stop it. -/
theorem vehicleDialogue : Obligations.VehicleDialogue := by
  unfold Obligations.VehicleDialogue
  refine ⟨fun s b h => ⟨fun l u => seccDiscoveryReq_unlinked l u h, (sessionStopReq_onLink b).exec_unlinked h,
      fun r => (v2gRequest_onLink b r).exec_unlinked h, fun k => (powerDeliveryReq_onLink b k).exec_unlinked h,
      (cableCheckReq_onLink b).elim fun _ hr => hr.exec_unlinked h, fun k => (v2gTimerExpired_onLink b k).exec_unlinked h⟩,
    fun s b hl hs => ⟨(seccDiscoveryReq_onLink b).completes hl rfl (reply_links b _ s),
      fun conn list tls suites p hc hp hr => ?_,
      fun conn list tls suites c hc hn => supportedAppProtocol_otherConn list tls suites hl hc hn,
      fun r h => v2gRequest_unsupported hl hs h, fun h => serviceDiscovery_completes hl hs h,
      fun h e n c d => paymentDetailsReq_din hl hs e n c d h,
      fun h => certificateInstallationReq_completes hl hs h, fun hd ha => cableCheckReq_energises hl hd ha⟩,
    fun s b hl ht hc => ⟨(powerDeliveryReq_onLink b .stop).completes hl rfl (respond_stopTransfer _ _ ht hc),
      (sessionStopReq_onLink b).completes hl rfl (respond_stopTransfer _ _ ht hc),
      fun k hk => (v2gTimerExpired_onLink b k).completes hl (if_pos hk) (stopTransfer_closed _ ht hc)⟩⟩
  obtain ⟨t, he, hproto, htls, hreply, hlast⟩ := supportedAppProtocol_completes hl hc hp hr
  refine ⟨t, he, ?_, ?_, ?_, hreply, hlast⟩
  · cases p <;> exact hproto
  · rintro rfl
    exact htls
  · rintro rfl
    exact htls

end Sys2Proof.Safety
end

section
/-! SUPPORT. SES_IDENT while an identifier is being decided (R220): the host's identifier is held behind the others, of which
at most three stay, so that in a state with five held the count that stays is another than the statement's. -/

set_option Elab.async false

namespace Sys2Proof.Safety

open Sys2Proof.Machine

theorem hdrBough_of_val {h : CmdHdr} {b : Bough} (hb : h.bough = b.val) : hdrBough h = some b := by
  obtain ⟨n, tag⟩ := h
  obtain rfl : n = b.val := hb
  exact dif_pos b.isLt

/-- On a bough of the device whose session core runs, a session command acts (R67, R234). -/
theorem onSesHdr_alive {s : State} {h : CmdHdr} {b : Bough} (hb : h.bough = b.val) (ha : coreAlive s b = true)
    (f : Bough → Res) : onSesHdr h s f = f b := by
  unfold onSesHdr
  rw [hdrBough_of_val hb]
  exact if_pos ha

/-- No held identifier is tried but at CONNECTED (R220). -/
theorem tryHeld_busy {s : State} {b : Bough} (h : s.ses[b].state ≠ .connected) (n : Nat) : tryHeld b n s = s := by
  cases n with
  | zero => rfl
  | succ n => exact if_pos (bne_iff_ne.mpr h)

theorem discardIdents_ses (b : Bough) (is : List Ident) (s : State) : (discardIdents b is s).ses = s.ses :=
  (discardIdents_changes (w₀ := allBut .sessions) (.refl _ s) b is).same

/-- What a session holds after an identifier has come: the new one behind the three newest of the others (R220). -/
def heldAfter (held : List Ident) (i : Ident) : List Ident := held.drop (held.length - 3) ++ [i]

theorem heldAfter_length_le (held : List Ident) (i : Ident) : (heldAfter held i).length ≤ 4 := by
  simp only [heldAfter, List.length_append, List.length_drop, List.length_singleton]
  omega

/-- While an identifier is being decided another one is held, and none is tried. -/
theorem offerIdent_authorising {s : State} {b : Bough} (h : s.ses[b].state = .authorising) (i : Ident) :
    (offerIdent b i s).ses[b].held = heldAfter s.ses[b].held i := by
  have hg : (s.ses[b].held.take (s.ses[b].held.length - 3)).length = s.ses[b].held.length - 3 :=
    List.length_take_of_le (Nat.sub_le _ _)
  unfold offerIdent
  rw [h]
  dsimp only
  rw [hg, tryHeld_busy]
  · rw [discardIdents_ses, State.onSes_ses, modAt_get, heldAfter]
  · rw [discardIdents_ses, State.onSes_ses, modAt_get, h]
    decide

/-- SES_IDENT at AUTHORISING (R220). -/
theorem sesIdent_authorising {s : State} {h : CmdHdr} {b : Bough} {x : List Byte} (hb : h.bough = b.val)
    (ha : coreAlive s b = true) (hs : s.ses[b].state = .authorising) (hx : x ≠ []) (hl : x.length ≤ 32) :
    Completes (.sesIdent h x) s fun t =>
      t.ses[b].held = heldAfter s.ses[b].held { kind := 2, bytes := x, tag := some h.tag } := by
  refine ⟨offerIdent b { kind := 2, bytes := x, tag := some h.tag } s, ?_, offerIdent_authorising hs _⟩
  have hin : ¬ (x.isEmpty || decide (32 < x.length)) = true := by simp [hx, hl]
  show execSesIdent h x s = _
  unfold execSesIdent
  rw [if_neg hin, onSesHdr_alive hb ha, hs]

/-- Bough 0 decides an identifier and holds five others. No command leaves five: the statement asks nothing of what is held,
and of five it keeps four where R220 and the model keep three. -/
def fiveHeld : State :=
  { State.reset with ses := State.reset.ses.set 0 { state := .authorising, held := List.replicate 5 {} } }

/-- Refutes O26: SES_IDENT on a bough that decides an identifier and holds five others. The command leaves four held, as
R220 bounds them; the statement drops one of the five and appends the new one. -/
theorem not_sessionCommands : ¬ Obligations.SessionCommands := by
  intro h
  have hs : fiveHeld.ses[(0 : Bough)].state = .authorising := rfl
  obtain ⟨-, -, -, -, hident, -⟩ := h.1 fiveHeld { bough := 0, tag := 7 } 0 rfl (by decide +kernel)
  obtain ⟨t, ht, hheld, -⟩ := hident [1] (by decide) (by decide) hs
  obtain ⟨u, hu, hafter⟩ := sesIdent_authorising (s := fiveHeld) (h := { bough := 0, tag := 7 }) (b := 0) (x := [1]) rfl
    (by decide +kernel) hs (by decide) (by decide)
  obtain rfl : t = u := Host.Outcome.next.inj (ht.symm.trans hu)
  have hfour := heldAfter_length_le fiveHeld.ses[(0 : Bough)].held { kind := 2, bytes := [1], tag := some 7 }
  rw [← hafter, hheld] at hfour
  exact absurd hfour (by decide +kernel)

end Sys2Proof.Safety
end

section
/-! SUPPORT. SES_LEDGER_LOAD where the journal half that is not active can't be written (R238): the compaction after a
replace leaves the active half. -/

set_option Elab.async false

namespace Sys2Proof.Safety

open Sys2Proof.Machine

/-- The half of the ledger journal that is not active can't be written. -/
def OtherHalfBad (s : State) : Prop := s.nv.flash.halfBad.getLsbD (1 - s.nv.flash.active) = true

/-- A compaction into a half that can't be written leaves the flash as it is (R225, R238). -/
theorem compact_otherHalfBad {s : State} (h : OtherHalfBad s) : (compact s).nv.flash = s.nv.flash := by
  unfold OtherHalfBad at h
  unfold compact
  dsimp only
  rw [if_pos h, emit_nv]

/-- The records of a replace go to the ledger bank, and none to the journal (R235). -/
theorem replaceAll_flash (n : Nat) (s : State) : (loadAll replaceOne n (emptyBank s)).2.nv.flash = s.nv.flash :=
  (loadAll_changes (w := allBut .flash) (emptyBank_changes (.refl _ s)) _ _ fun _ _ _ hu => replaceOne_changes hu _ _).same

theorem loadAnswer_flash (h : CmdHdr) (r : Nat) (c : LoadCount) (s : State) : (loadAnswer h r c s).nv.flash = s.nv.flash :=
  (loadAnswer_changes (w₀ := allBut .flash) (.refl _ s) h r c).same

/-- A replace completes with its active half where the other can't be written (R235, R238). -/
theorem sesLedgerLoadReplace_otherHalfBad {s : State} {n : Nat} (h : CmdHdr) (h1 : 1 ≤ n) (h2 : n ≤ 16384)
    (hfree : ∀ b : Bough, s.ses[b].slot = none) (hbad : OtherHalfBad s) :
    Completes (.sesLedgerLoadReplace h n) s fun t => t.nv.flash.active = s.nv.flash.active := by
  have hloaded := replaceAll_flash n s
  refine ⟨loadAnswer h 0 (loadAll replaceOne n (emptyBank s)).1 (compact (loadAll replaceOne n (emptyBank s)).2), ?_, ?_⟩
  · have hnone : ¬ allBoughs.any (fun b => s.ses[b].slot.isSome) = true := by
      rw [List.any_eq_true]
      rintro ⟨b, -, hb⟩
      rw [hfree b] at hb
      exact absurd hb (by decide)
    show execSesLedgerLoadReplace h n s = _
    unfold execSesLedgerLoadReplace
    rw [if_neg (by omega), if_neg hnone]
  · have hbad' : OtherHalfBad (loadAll replaceOne n (emptyBank s)).2 := by
      unfold OtherHalfBad at hbad ⊢
      rwa [hloaded]
    dsimp only
    rw [loadAnswer_flash, compact_otherHalfBad hbad', hloaded]

/-- A started device with the note that SAVE_TICK takes of a journal half that can't be written (R238, log entry 182). -/
def halfLost : State := { State.reset with start.done := 8, nv.flash.halfBad := 3 }

/-- Refutes O28: a replace on a device without sessions whose other journal half can't be written (R238). The compaction
that ends the replace leaves half 0 active, and the statement asks for half 1. -/
theorem not_ledgerLoads : ¬ Obligations.LedgerLoads := by
  intro h
  have hfree : ∀ b : Bough, halfLost.ses[b].slot = none := by decide +kernel
  obtain ⟨-, hreplace, -⟩ := h halfLost { bough := 255, tag := 7 } 1 (by decide) (by decide)
  obtain ⟨t, ht, -, -, hactive⟩ := hreplace hfree
  obtain ⟨u, hu, hkept⟩ := sesLedgerLoadReplace_otherHalfBad { bough := 255, tag := 7 } (n := 1) (by decide) (by decide)
    hfree (by unfold OtherHalfBad; decide +kernel)
  obtain rfl : t = u := Host.Outcome.next.inj (ht.symm.trans hu)
  exact absurd (hkept.symm.trans hactive) (by decide +kernel)

end Sys2Proof.Safety
end

section
/-! SUPPORT. That a command keeps every coil open that a protection holds open (R273, R277, R278), said of its answer, and the
commands whose frame leaves coils, latched codes and stops alone. -/

set_option Elab.async false

namespace Sys2Proof.Safety

open Sys2Proof.Machine

/-! ## Answers -/

/-- The coils are safe in the next state that is answered, if one is. -/
def CoilsSafeR (r : Res) : Prop := ∀ t, r = .next t → CoilsSafe t

/-- From a state with safe coils the command answers none but such states. -/
def KeepsCoils (i : Instr) : Prop := ∀ s, CoilsSafe s → CoilsSafeR (exec i s)

theorem CoilsSafeR.next {t : State} (h : CoilsSafe t) : CoilsSafeR (.next t) := by
  rintro u ⟨⟩
  exact h

theorem CoilsSafeR.fault (e : Fault) : CoilsSafeR (.fault e) := by rintro u ⟨⟩

theorem CoilsSafeR.ite {a b : Res} {c : Prop} [Decidable c] (h : c → CoilsSafeR a) (k : ¬c → CoilsSafeR b) :
    CoilsSafeR (if c then a else b) := by
  split
  · exact h ‹_›
  · exact k ‹_›

theorem onHdr_coilsSafe {s : State} (hs : CoilsSafe s) (h : CmdHdr) (f : Bough → Res) (hf : ∀ b, CoilsSafeR (f b)) :
    CoilsSafeR (onHdr h s f) := by
  unfold onHdr
  split
  · exact hf _
  · exact .next hs

/-- A command that changes neither coils nor stops keeps them safe. -/
theorem KeepsCoils.of_kept {i : Instr} (h : ∀ s, KeptR offCoils s (exec i s)) : KeepsCoils i :=
  fun s hs t e => .of (h s t e) hs

theorem Changes.keepsCoils {ps : List Part} {i : Instr} (h : Changes ps i)
    (hw : within (parts ps) offCoils = true := by decide) : KeepsCoils i :=
  .of_kept fun s => KeptR.mono (h s) hw

/-! ## Energy, the heartwood and the display -/

theorem saveTick_keepsCoils (slotFails : Nat) (halfFails : Bool) : KeepsCoils (.saveTick slotFails halfFails) :=
  .of_kept fun s => by
    show KeptR _ s (execSaveTick slotFails halfFails s)
    unfold execSaveTick
    refine KeptR.ite (fun _ => .same) fun _ => ?_
    extract_lets nv flash t bil u cause bil' v w
    have hu : Kept offCoils s u := failSlots_changes (setHeartwood_changes (setFlash_changes (.refl _ s) _) _) _
    have hv : Kept offCoils s v := setHeartwood_changes hu _
    have hw : Kept offCoils s w := .ite (fun _ => hv) fun _ => writeSave_changes hv _
    exact KeptR.ite (fun _ => .next (fatalError_changes hu _ _ _)) fun _ =>
      .next (.forBoughs _ hw fun _ _ hx => journalSession_changes hx _)

theorem billingBoundary_keepsCoils : KeepsCoils .billingBoundary :=
  .of_kept fun s => KeptR.ite (fun _ => .next (boundary_changes (.refl _ s))) fun _ => .same

theorem checkValueRecompute_keepsCoils : KeepsCoils .checkValueRecompute :=
  .of_kept fun s => KeptR.ite (fun _ => .next (recomputeCheck_changes (.refl _ s))) fun _ => .same

theorem dispbtnPress_keepsCoils : KeepsCoils .dispbtnPress := .of_kept fun s => by
  show KeptR _ s (execDispbtnPress s)
  unfold execDispbtnPress
  have hp := setDisplay_changes (.refl offCoils s) { s.lcd with page := nextPage s }
  exact KeptR.ite (fun _ => .same) fun _ =>
    KeptR.ite (fun _ => .next (auxAll_changes (leaveLowPower_changes (.refl _ s)))) fun _ =>
      KeptR.ite (fun _ => .next (.ite (fun _ => recomputeCheck_changes hp) fun _ => hp)) fun _ => .same

/-! ## The canopy link and the service tag -/

theorem beaconReceived_keepsCoils (f : CnpRx) : KeepsCoils (.beaconReceived f) := .of_kept fun s => by
  show KeptR _ s (execBeaconReceived f s)
  unfold execBeaconReceived
  refine onFrame_keeps (.refl _ s) _ _ _ fun body u hu => ?_
  have he := emit_changes hu 0x0A0D 255
    (leN 1 (fcSrc f) ++ leN 1 (beaconOf body).rank ++ leN 1 (b2n (keepsRole (fcSrc f) (beaconOf body) u)))
  exact .ite (fun _ => .ite (fun _ => he) fun _ => heardBeacon_changes (setCanopy_changes he _) _ _)
    fun _ => heardBeacon_changes hu _ _

theorem tagWrite_keepsCoils (page off : Nat) (data : List Byte) (fin : WriteEnd) :
    KeepsCoils (.tagWrite page off data fin) := .of_kept fun s => by
  show KeptR _ s (execTagWrite page off data fin s)
  unfold execTagWrite
  refine whenSelected_keeps (.refl _ s) _ fun u hu => .ite (fun _ => refuseWrite_changes hu _ _) fun _ => ?_
  cases fin with
  | done => exact writeField_changes hu _ _ _
  | failed => exact refuseWrite_changes (abandonPage_changes hu _) _ _
  | cut k =>
    exact fieldGone_changes (.ite (fun _ => writeField_changes hu _ _ _) fun _ => cutWrite_changes hu _ _ _)

theorem tagPowerUp_keepsCoils : KeepsCoils .tagPowerUp := .of_kept fun s => by
  show KeptR _ s (execTagPowerUp s)
  unfold execTagPowerUp
  have hr := setTag_changes (.refl offCoils s) { s.tag with recovered := false } rfl
  exact KeptR.ite (fun _ => .same) fun _ => .next
    (setTag_changes (.foldl _ _ hr fun _ _ hu => recoverPair_changes hu _) _ rfl)

theorem meterSnapshot_keepsCoils : KeepsCoils .meterSnapshot :=
  .of_kept fun s => KeptR.ite (fun _ => .next (meterSnapshot_changes (.refl _ s))) fun _ => .same

theorem tagHistogramSummary_keepsCoils : KeepsCoils .tagHistogramSummary :=
  .of_kept fun s => KeptR.next (.ite (fun _ => summarise_changes (.refl _ s)) fun _ => .refl _ s)

/-! ## The memories -/

theorem lbistSlice_keepsCoils (part : Fin 14) (granted : Bool) (sig : BitVec 32) :
    KeepsCoils (.lbistSlice part granted sig) := .of_kept fun s => by
  show KeptR _ s (execLbistSlice part granted sig s)
  unfold execLbistSlice
  extract_lets n mem t mem' u host v host'
  have ht : Kept offCoils s t := setMemory_changes (.refl _ s) _ rfl
  have hu : Kept offCoils s u := setMemory_changes ht _ rfl
  refine KeptR.ite (fun _ => .same) fun _ => KeptR.ite (fun _ => .next (.ite (fun _ => ?_) fun _ => hu)) fun _ =>
    .next (endRun_changes ?_ _ _)
  · exact setMemory_changes (setLink_changes hu u.host.badOp u.host.cut true false u.host.csLow) _ rfl
  · exact setLink_changes ht t.host.badOp t.host.cut t.host.bistRunning (t.host.bistRetry && part != 3) t.host.csLow

theorem marchSlice_keepsCoils (hard : List (Nat × Nat)) : KeepsCoils (.marchSlice hard) := .of_kept fun s => by
  show KeptR _ s (execMarchSlice hard s)
  unfold execMarchSlice
  have hrow : Kept offCoils s { s with mem.marchRow := s.mem.marchRow + 1 } := setMemory_changes (.refl _ s) _ rfl
  have hskip (i : Nat) : Kept offCoils s { s with mem.marchSkip := s.mem.marchSkip.erase i } :=
    setMemory_changes (.refl _ s) _ rfl
  refine KeptR.ite (fun _ => .same) fun _ => KeptR.ite (fun _ => KeptR.ite (fun _ => .next ?_) fun _ => .next ?_)
    fun _ => ?_
  · exact setMemory_changes hrow _ rfl
  · exact marchNext_changes (marchAt_changes hrow _ _)
  · split
    · exact .next (marchNext_changes (marchAt_changes (hskip _) _ _))
    · exact .next (marchNext_changes (.refl _ s))

theorem scrubRow_keepsCoils : KeepsCoils .scrubRow := .of_kept fun s => by
  show KeptR _ s (execScrubRow s)
  unfold execScrubRow
  refine KeptR.ite (fun _ => .same) fun _ => KeptR.ite (fun _ => .next ?_) fun _ => .next ?_
  all_goals exact setMemory_changes (scrubAt_changes (.refl _ s) _) _ rfl

theorem heartwoodScrubRow_keepsCoils : KeepsCoils .heartwoodScrubRow := .of_kept fun s =>
  KeptR.ite (fun _ => .same) fun _ => .next (setMemory_changes (scrubAt_changes (.refl _ s) _) _ rfl)

end Sys2Proof.Safety
end

section
/-! SUPPORT. The commands of the supplies, the reset, the start, the lattice, the ports, the recorder and the update that reach
the coils or the stops (R87, R95, R117, R126, R252, R652, R681) keep every coil open that a protection holds open. -/

set_option Elab.async false

namespace Sys2Proof.Safety

open Sys2Proof.Machine

/-! ## The lattice and the supplies -/

theorem latticeTick_keepsCoils (t : Tick) (busy : BitVec 23) : KeepsCoils (.latticeTick t busy) := fun s hs => by
  show CoilsSafeR (execLatticeTick t busy s)
  unfold execLatticeTick
  exact CoilsSafeR.ite (fun _ => .next hs) fun _ => .next (.foldl _ _ (.of (latticeWork_changes (.refl _ s) _) hs)
    fun _ _ hu => stopTick_safe hu _ _ _)

theorem supplyTrip_keepsCoils (id : Fin 13) (high : Bool) : KeepsCoils (.supplyTrip id high) := fun s hs => by
  show CoilsSafeR (execSupplyTrip id high s)
  unfold execSupplyTrip
  refine CoilsSafeR.ite (fun _ => .next hs) fun _ => CoilsSafeR.ite (fun _ => .next ?_) fun _ =>
    CoilsSafeR.ite (fun _ => .next (deviceReset_safe _)) fun _ => .next ?_
  · exact tripInReset_safe (.of (flagTrip_changes (setSupply_changes (.refl _ s) _) _ _) hs) _
  · refine tripReaction_safe (.of (emit_changes ?_ _ _ _) hs) _
    exact setStart_changes (setSupply_changes (.refl _ s) _) _

theorem supplyRecovery_keepsCoils (id : Fin 13) : KeepsCoils (.supplyRecovery id) := fun s hs => by
  show CoilsSafeR (execSupplyRecovery id s)
  unfold execSupplyRecovery
  extract_lets was absent supply t supply' start u v
  have ht : Kept offCoils s t := setSupply_changes (.refl _ s) _
  have hu : Kept offCoils s u :=
    .ite (fun _ => setStart_changes (setSupply_changes ht { t.supply with rstHold := false }) _) fun _ => ht
  have hv : CoilsSafe v := .of (.ite (fun _ => groupWaits_changes hu id) fun _ => hu) hs
  exact .next (.ite (fun _ => recoveryAction_safe hv _) fun _ => hv)

theorem powerDieThermalShutdown_keepsCoils (temp : Int) : KeepsCoils (.powerDieThermalShutdown temp) := fun s hs => by
  show CoilsSafeR (execPowerDieThermalShutdown temp s)
  unfold execPowerDieThermalShutdown
  refine CoilsSafeR.ite (fun _ => .next hs) fun _ => .next (fsEnter_safe _ _ fun _ => .of (emit_changes ?_ _ _ _) hs)
  exact setLoadDev_changes (t := { s with supply.shutdown := true }) (setSupply_changes (.refl _ s) _) _

theorem powerDieThermalRecovery_keepsCoils : KeepsCoils .powerDieThermalRecovery := fun s hs => by
  show CoilsSafeR (execPowerDieThermalRecovery s)
  unfold execPowerDieThermalRecovery
  refine CoilsSafeR.ite (fun _ => .next (.of (auxAll_changes (.refl _ _)) (fsLeave_safe (.of ?_ hs) _))) fun _ => .next hs
  exact setLoadDev_changes (t := { s with supply.shutdown := false }) (setSupply_changes (.refl _ s) _) _

/-! ## Resets -/

theorem resetnLow_keepsCoils (ns : Nat) : KeepsCoils (.resetnLow ns) := fun s hs => by
  show CoilsSafeR (execResetnLow ns s)
  unfold execResetnLow
  exact CoilsSafeR.ite (fun _ => .next hs) fun _ => CoilsSafeR.ite (fun _ => .next (deviceReset_safe s)) fun _ =>
    .next (.ite (fun _ => deviceReset_safe _) fun _ => .of (free_changes (.refl _ s) 1) hs)

theorem hstRestart_keepsCoils (h : CmdHdr) (body : List Byte) : KeepsCoils (.hstRestart h body) := fun s hs => by
  show CoilsSafeR (execHstRestart h body s)
  unfold execHstRestart
  exact CoilsSafeR.ite (fun _ => .next (deviceReset_safe s)) fun _ => .next hs

theorem fatalRestart_keepsCoils : KeepsCoils .fatalRestart := fun s hs => by
  show CoilsSafeR (execFatalRestart s)
  unfold execFatalRestart
  split
  · exact .next hs
  · refine CoilsSafeR.ite (fun _ => .next hs) fun _ => ?_
    extract_lets first t after waits recent flash
    have ht : CoilsSafe t := .of (.ite (fun _ => finishDump_changes (.refl _ s)) fun _ => .refl _ s) hs
    exact CoilsSafeR.ite (fun _ => .next (.of (setRecorder_changes (.refl _ t) _) ht)) fun _ =>
      CoilsSafeR.ite (fun _ => .next ht) fun _ => CoilsSafeR.ite (fun _ => .next (enterHold_safe ht)) fun _ =>
        .next (deviceReset_safe _)

/-! ## The start -/

theorem phaseP6_keepsCoils (c : SelfCheck) : KeepsCoils (.phaseP6 c) := fun s hs => by
  show CoilsSafeR (execPhaseP6 c s)
  unfold execPhaseP6
  have hc := selfCheck_safe hs c
  refine CoilsSafeR.ite (fun _ => .next hs) fun _ =>
    CoilsSafeR.ite (fun _ => .next (.of (stopStart_changes (.refl _ s) _ _) hs)) fun _ =>
      CoilsSafeR.ite (fun _ => .next (.of (setStart_changes (.refl _ s) _) hs)) fun _ => ?_
  split
  · exact .next (.of (stopStart_changes (checkEvent_changes (.refl _ s) _ _) _ _) hs)
  · dsimp only
    split
    · exact .next (.of (stopStart_changes (.refl _ _) _ _) hc)
    · rename_i u hu
      exact .next (.of (phaseDone_changes (.forBoughs _ (rebuildLedger_changes (.refl _ _) hu)
        fun b v hv => closeInterrupted_changes hv b) _) hc)

/-! ## The pilot -/

theorem plateauValue_keepsCoils (b : Bough) (positive : Bool) (mv : Int) :
    KeepsCoils (.plateauValue b positive mv) := fun s hs => by
  show CoilsSafeR (execPlateauValue b positive mv s)
  unfold execPlateauValue
  dsimp only
  split
  · exact .next hs
  · exact .next hs
  · exact .next (.ite (fun _ => positivePlateau_safe hs _ _) fun _ => hs)
  · exact .next (.ite (fun _ => positivePlateau_safe hs _ _) fun _ => negativePlateau_safe hs _ _)

/-! ## The update -/

theorem activationCondition_keepsCoils : KeepsCoils .activationCondition := fun s hs => by
  show CoilsSafeR (execActivationCondition s)
  unfold execActivationCondition
  refine CoilsSafeR.ite (fun _ => .next hs) fun _ => .next (.forBoughs _ (.of (emit_changes ?_ _ _ _) hs) fun b u hu =>
    .ite (fun _ => .of (onSesL_changes (.refl _ u) _ _) hu) fun _ => .of (holdSession_changes (.refl _ _) _ _) ?_)
  · exact setUpdate_changes (.refl _ s) _
  · exact onSaf_safe_view hu b _ (SameView.of fun _ => rfl)

theorem drainEnd_keepsCoils : KeepsCoils .drainEnd := fun s hs => by
  show CoilsSafeR (execDrainEnd s)
  unfold execDrainEnd
  exact CoilsSafeR.ite (fun _ => .next hs) fun _ => .next (deviceReset_safe _)

theorem updAbort_keepsCoils (h : CmdHdr) : KeepsCoils (.updAbort h) := fun s hs => by
  show CoilsSafeR (execUpdAbort h s)
  unfold execUpdAbort
  have hd := dropStage_changes (.refl offCoils s) 2
  exact CoilsSafeR.ite (fun _ => .next (deviceReset_safe _)) fun _ =>
    .next (.of (updAnswer_changes (.ite (fun _ => hd) fun _ => dropSchedule_changes hd) _ _ _) hs)

theorem confirmationWindowEnd_keepsCoils : KeepsCoils .confirmationWindowEnd := fun s hs => by
  show CoilsSafeR (execConfirmationWindowEnd s)
  unfold execConfirmationWindowEnd
  exact CoilsSafeR.ite (fun _ => .next hs) fun _ =>
    CoilsSafeR.ite (fun _ => .next (.of (confirmUpdate_changes (.refl _ s) _) hs)) fun _ => .next (deviceReset_safe _)

end Sys2Proof.Safety
end

section
/-! SUPPORT. The commands of the contactors, the switch tests, residual current and insulation and the power die (R257 to R278,
R291) keep every coil open that a protection holds open. -/

set_option Elab.async false

namespace Sys2Proof.Safety

open Sys2Proof.Machine

/-! ## Closing sequences -/

/-- A bough that may not close gives up its closing request and trips (R260, R261). -/
theorem tripUnclosed_safe {s : State} (hs : CoilsSafe s) (b : Bough) :
    CoilsSafe (trip b 20 0 (s.onSaf b fun f => { f with closeReq := false })) :=
  trip_safe (onSaf_safe_view hs b (fun f => { f with closeReq := false }) (SameView.of fun _ => rfl)) _ _ _

theorem closingSequence_keepsCoils (b : Bough) (k : AcStep) : KeepsCoils (.closingSequence b k) := fun s hs => by
  show CoilsSafeR (execClosingSequence b k s)
  unfold execClosingSequence
  cases k with
  | begin =>
    exact CoilsSafeR.ite (fun _ => .next hs) fun _ =>
      CoilsSafeR.ite (fun h => .next (beginClosing_safe hs _ _ (mayClose_free h))) fun _ => .next (tripUnclosed_safe hs b)
  | second =>
    refine CoilsSafeR.ite (fun h => .next (followClosing_safe hs _ _ _ (not_held hs ?_))) fun _ => .next hs
    exact closing_ne (Bool.and_eq_true_iff.mp h).1 (by decide)

theorem dcClosingSequence_keepsCoils (b : Bough) (k : DcStep) : KeepsCoils (.dcClosingSequence b k) := fun s hs => by
  show CoilsSafeR (execDcClosingSequence b k s)
  unfold execDcClosingSequence
  cases k with
  | begin =>
    refine CoilsSafeR.ite (fun _ => .next hs) fun _ => CoilsSafeR.ite (fun _ => .next (tripUnclosed_safe hs b)) fun h =>
      .next (beginClosing_safe hs _ _ (mayClose_free ?_))
    simpa using h
  | second =>
    refine CoilsSafeR.ite (fun _ => .next hs) fun h => ?_
    have hn : ¬heldOpen s b := not_held hs (closing_ne (d := .dcFirst) (by simpa using h) (by decide))
    exact CoilsSafeR.ite (fun _ => .next (followClosing_safe hs _ _ _ hn)) fun _ => .next (followClosing_safe hs _ _ _ hn)
  | linkReached =>
    refine CoilsSafeR.ite (fun h => .next (followClosing_safe hs b [0] .dcMain (not_held hs ?_))) fun _ => .next hs
    exact closing_ne (Bool.and_eq_true_iff.mp h).1 (by decide)
  | mainClosed => exact .next (mainClosed_safe hs _)
  | preReleased => exact .next (preReleased_safe hs _)
  | insulation => exact .next (insulationDone_safe hs _)

theorem contactConfirmed_keepsCoils (b : Bough) : KeepsCoils (.contactConfirmed b) := fun s hs => by
  show CoilsSafeR (execContactConfirmed b s)
  unfold execContactConfirmed
  split
  · rename_i hc
    exact CoilsSafeR.ite (fun _ => .next hs) fun _ =>
      CoilsSafeR.ite (fun _ => .next (beginInsulation_safe hs _ (by rw [hc]; decide))) fun _ => .next (reportClosed_safe hs _)
  · exact .next (mainClosed_safe hs _)
  · exact .next hs

theorem closingConfirmTimeout_keepsCoils (b : Bough) : KeepsCoils (.closingConfirmTimeout b) := fun s hs => by
  show CoilsSafeR (execClosingConfirmTimeout b s)
  unfold execClosingConfirmTimeout
  split
  case h_4 => exact .next hs
  all_goals exact .next (trip_safe hs _ _ _)

theorem prechargeComplete_keepsCoils (b : Bough) : KeepsCoils (.prechargeComplete b) := fun s hs => by
  show CoilsSafeR (execPrechargeComplete b s)
  unfold execPrechargeComplete
  exact CoilsSafeR.ite (fun _ => .next (reportClosed_safe hs _)) fun _ => .next hs

/-! ## Openings and weld checks -/

theorem ordinaryOpening_keepsCoils (b : Bough) : KeepsCoils (.ordinaryOpening b) := fun s hs => by
  show CoilsSafeR (execOrdinaryOpening b s)
  unfold execOrdinaryOpening
  refine CoilsSafeR.ite (fun _ => .next hs) fun _ => .next (.of (emit_changes (.refl _ _) _ _ _) ?_)
  exact onSaf_safe_view (release_safe (release_safe (abandonClosing_safe hs _ _) _ _) _ _) b _ (SameView.of fun _ => rfl)

theorem secondRelease_keepsCoils (b : Bough) : KeepsCoils (.secondRelease b) := fun s hs => by
  show CoilsSafeR (execSecondRelease b s)
  unfold execSecondRelease
  have ho := onSaf_safe_view hs b (fun f => { f with opening := false }) (SameView.of fun _ => rfl)
  exact CoilsSafeR.ite (fun _ => .next (release_safe ho _ _)) fun _ => .next hs

theorem weldCheck_keepsCoils (b : Bough) (k : Fin 3) : KeepsCoils (.weldCheck b k) := fun s hs => by
  show CoilsSafeR (execWeldCheck b k s)
  unfold execWeldCheck
  exact CoilsSafeR.ite (fun _ => .next (preReleased_safe hs _)) fun _ =>
    CoilsSafeR.ite (fun _ => .next (weldResult_safe hs _ _)) fun _ => .next hs

theorem weldRecheck_keepsCoils (b : Bough) (k : Fin 3) : KeepsCoils (.weldRecheck b k) := fun s hs => by
  show CoilsSafeR (execWeldRecheck b k s)
  unfold execWeldRecheck
  exact CoilsSafeR.ite (fun _ => .next (weldResult_safe hs _ _)) fun _ => .next hs

/-! ## Switch tests and coil faults -/

theorem switchTestSlot_keepsCoils (slot : Fin 48) (r : TestResult) : KeepsCoils (.switchTestSlot slot r) := fun s hs => by
  show CoilsSafeR (execSwitchTestSlot slot r s)
  unfold execSwitchTestSlot
  extract_lets b k side again skipped t
  have ht : CoilsSafe t := .ite (fun _ => safDev_safe hs _ rfl rfl) fun _ => safDev_safe hs _ rfl rfl
  cases r with
  | pass => exact .next (onCoil_safe ht b k _ fun c hc => by split <;> exact hc)
  | near => exact .next (safDev_safe ht _ rfl rfl)
  | discarded => exact .next ht
  | notOff | notRestored | noMove | partnerStuck => exact .next (testFailed_safe ht _ _ _ _ _)

theorem stuckOnCheck_keepsCoils (on : BitVec 48) : KeepsCoils (.stuckOnCheck on) := fun _ hs =>
  CoilsSafeR.next (.foldl _ _ hs fun _ _ hu => stuckCheck_safe hu _ _)

theorem coilCurrentLimit_keepsCoils (b : Bough) (k : Fin 3) : KeepsCoils (.coilCurrentLimit b k) := fun _ hs =>
  CoilsSafeR.next (trip_safe hs _ _ _)

theorem coilOpenDetect_keepsCoils (b : Bough) (k : Fin 3) : KeepsCoils (.coilOpenDetect b k) := fun s hs => by
  show CoilsSafeR (execCoilOpenDetect b k s)
  unfold execCoilOpenDetect
  exact CoilsSafeR.ite (fun _ => .next (trip_safe hs _ _ _)) fun _ => .next hs

theorem coilSupplyLow_keepsCoils (b : Bough) : KeepsCoils (.coilSupplyLow b) := fun s hs => by
  show CoilsSafeR (execCoilSupplyLow b s)
  unfold execCoilSupplyLow
  exact CoilsSafeR.ite (fun _ => .next (trip_safe hs _ _ _)) fun _ => .next hs

/-! ## Residual current and insulation -/

theorem sidePathSample_keepsCoils (b : Bough) (v : SideSample) : KeepsCoils (.sidePathSample b v) := fun s hs =>
  CoilsSafeR.next (overvoltage_safe (residualTrips_safe
    (.of (measureResidual_changes (takeSide_changes (.refl _ s) _ _) _) hs) _) _)

theorem dcResidualPersistence_keepsCoils (b : Bough) (w : DcWindow) :
    KeepsCoils (.dcResidualPersistence b w) := fun s hs => by
  show CoilsSafeR (execDcResidualPersistence b w s)
  unfold execDcResidualPersistence
  dsimp only
  split
  · exact .next (trip_safe hs _ _ _)
  · exact .next hs

theorem bridgeStateEnd_keepsCoils (b : Bough) : KeepsCoils (.bridgeStateEnd b) := fun s hs => by
  show CoilsSafeR (execBridgeStateEnd b s)
  unfold execBridgeStateEnd
  exact CoilsSafeR.ite (fun _ => .next hs) fun _ =>
    .next (.of (toggleBridge_changes (onMeas_changes (.refl _ _) _ _) _) (judgeInsulation_safe hs _ _))

/-! ## Stops and the fail-safe -/

/-- A stop beside a cause of the fail-safe that stands holds no other bough open than the cause does. -/
theorem setStop_safe {s : State} (hs : CoilsSafe s) {c : FsCause} (hc : s.safDev.fsCauses.contains c = true)
    (d : SafDev) : CoilsSafe { s with safDev := d } := by
  refine CoilsSafe.fewer (s := s) (fun _ => rfl) (fun _ => ?_) hs
  unfold heldAll
  cases e : s.safDev.fsCauses with
  | nil => rw [e] at hc; exact absurd hc (by simp)
  | cons => rfl

/-- The end of a stop holds no further bough open. -/
theorem endStop_safe {s : State} (hs : CoilsSafe s) (d : SafDev) (hd : d.fsCauses = s.safDev.fsCauses)
    (hstop : d.stop = false) : CoilsSafe { s with safDev := d } := by
  refine CoilsSafe.fewer (s := s) (fun _ => rfl) (fun h => ?_) hs
  unfold heldAll at h ⊢
  rw [hd, hstop, Bool.or_false] at h
  rw [h, Bool.true_or]

theorem emergencyStop_keepsCoils (mvA mvB : Nat) : KeepsCoils (.emergencyStop mvA mvB) := fun s hs => by
  show CoilsSafeR (execEmergencyStop mvA mvB s)
  unfold execEmergencyStop
  extract_lets lowA lowB die t
  have ht : CoilsSafe t := safDev_safe hs die rfl rfl
  refine CoilsSafeR.ite (fun _ => .next (fsEnter_safe _ _ fun hc => .of (stopEvent_changes (.refl _ _)) ?_)) fun _ =>
    .next ht
  rw [stopEvent, emit_safDev] at hc
  exact setStop_safe ht hc _

theorem emergencyStopRelease_keepsCoils : KeepsCoils .emergencyStopRelease := fun s hs => by
  show CoilsSafeR (execEmergencyStopRelease s)
  unfold execEmergencyStopRelease
  extract_lets die t
  have ht : CoilsSafe t := safDev_safe hs die rfl rfl
  have he := endStop_safe ht { t.safDev with stop := false, disc := false, discLow := false } rfl rfl
  exact CoilsSafeR.ite (fun _ => .next ht) fun _ => CoilsSafeR.ite (fun _ => .next (.of (driveAll_changes (.refl _ _))
    (fsLeave_safe (.of (stopEvent_changes (.refl _ _)) he) _))) fun _ => .next ht

theorem estopDiscrepancy_keepsCoils : KeepsCoils .estopDiscrepancy := fun s hs => by
  show CoilsSafeR (execEstopDiscrepancy s)
  unfold execEstopDiscrepancy
  exact CoilsSafeR.ite (fun _ => .next hs) fun _ => .next (safe_of_opened (tripAll_opens _ _))

theorem heartbeatFrame_keepsCoils (beat : Bool) (counter : BitVec 4) (crcOk : Bool) :
    KeepsCoils (.heartbeatFrame beat counter crcOk) := fun s hs => by
  show CoilsSafeR (execHeartbeatFrame beat counter crcOk s)
  unfold execHeartbeatFrame
  have hg := linkGood_safe hs
  exact CoilsSafeR.ite (fun _ => .next (linkBad_safe hs)) fun _ => CoilsSafeR.ite (fun _ => .next hg) fun _ =>
    CoilsSafeR.ite (fun _ => .next (beatGood_safe hg _)) fun _ => .next (safDev_safe hg _ rfl rfl)

theorem heartbeatPeriodMissed_keepsCoils : KeepsCoils .heartbeatPeriodMissed := fun s hs => by
  show CoilsSafeR (execHeartbeatPeriodMissed s)
  unfold execHeartbeatPeriodMissed
  exact CoilsSafeR.ite (fun _ => .next (fsEnter_safe _ _ fun _ => safDev_safe hs _ rfl rfl)) fun _ =>
    .next (safDev_safe hs _ rfl rfl)

theorem logicWatchdogExpired_keepsCoils (c : Fin 2) : KeepsCoils (.logicWatchdogExpired c) := fun s hs => by
  show CoilsSafeR (execLogicWatchdogExpired c s)
  unfold execLogicWatchdogExpired
  refine CoilsSafeR.ite (fun _ => .next (safDev_safe hs _ rfl rfl)) fun _ =>
    .next (.forBoughs _ (.of (emit_changes (.refl _ _) _ _ _) (safDev_safe hs _ rfl rfl)) fun _ _ hu => ?_)
  exact .ite (fun _ => trip_safe hu _ _ _) fun _ => hu

/-! ## The host's commands -/

theorem safClear_keepsCoils (h : CmdHdr) (mask : Byte) : KeepsCoils (.safClear h mask) := fun _ hs =>
  onHdr_coilsSafe hs h _ fun b => .next (.of (answer_changes (.refl _ _) _ _ _ _) (clearLatches_safe hs b mask))

end Sys2Proof.Safety
end

section
/-! SUPPORT. Every step keeps every coil open that a protection holds open: the commands put together, and the dispatch of a
host's message, which runs one of them. -/

set_option Elab.async false

namespace Sys2Proof.Safety

open Sys2Proof.Machine

/-- Each command but the dispatch keeps the coils safe: by its frame where that leaves coils and stops alone, else by the
operations that reach them. -/
theorem exec_keepsCoils (i : Instr) (hi : i ≠ .commandDispatch) : KeepsCoils i := by
  cases i
  case commandDispatch => exact absurd rfl hi
  case latticeTick a b => exact latticeTick_keepsCoils a b
  case trunkFlit a b c => exact (trunkFlit_frame a b c).keepsCoils
  case laneFailed a => exact (laneFailed_frame a).keepsCoils
  case spareLanePattern a => exact (spareLanePattern_frame a).keepsCoils
  case paceCount a => exact (paceCount_frame a).keepsCoils
  case crystalCheck a => exact (crystalCheck_frame a).keepsCoils
  case cryptoRequest a => exact (cryptoRequest_frame a).keepsCoils
  case heartwoodMailboxWrite a => exact (heartwoodMailboxWrite_frame a).keepsCoils
  case sampleFrame a => exact (sampleFrame_frame a).keepsCoils
  case energyResultAccept a b => exact (energyResultAccept_frame a b).keepsCoils
  case supplyTrip a b => exact supplyTrip_keepsCoils a b
  case supplyRecovery a => exact supplyRecovery_keepsCoils a
  case backupSwitchover a => exact (backupSwitchover_frame a).keepsCoils
  case dieTempUpdate a b c => exact (dieTempUpdate_frame a b c).keepsCoils
  case powerDieThermalShutdown a => exact powerDieThermalShutdown_keepsCoils a
  case resetnLow a => exact resetnLow_keepsCoils a
  case resetRelease a b => exact (resetRelease_frame a b).keepsCoils
  case phaseP1 a b => exact (phaseP1_frame a b).keepsCoils
  case phaseP2 a => exact (phaseP2_frame a).keepsCoils
  case phaseP6 a => exact phaseP6_keepsCoils a
  case phaseP7 a => exact (phaseP7_frame a).keepsCoils
  case commitAccept a => exact (commitAccept_frame a).keepsCoils
  case commitApply a => exact (commitApply_frame a).keepsCoils
  case commitBoughApply a b => exact (commitBoughApply_frame a b).keepsCoils
  case registerWrite a b => exact (registerWrite_frame a b).keepsCoils
  case plateauValue a b c => exact plateauValue_keepsCoils a b c
  case pilotFaultProbe a b => exact (pilotFaultProbe_frame a b).keepsCoils
  case proximityMean a => exact (proximityMean_frame a).keepsCoils
  case cmSlacParmReq a b c => exact (cmSlacParmReq_frame a b c).keepsCoils
  case cmStartAttenCharInd a b c => exact (cmStartAttenCharInd_frame a b c).keepsCoils
  case cmMnbcSoundInd a b c d e => exact (cmMnbcSoundInd_frame a b c d e).keepsCoils
  case soundingEnd a b => exact (soundingEnd_frame a b).keepsCoils
  case cmSlacMatchReq a b => exact (cmSlacMatchReq_frame a b).keepsCoils
  case cmValidateReq a b => exact (cmValidateReq_frame a b).keepsCoils
  case validateCountEnd a => exact (validateCountEnd_frame a).keepsCoils
  case slacWindowExpired a => exact (slacWindowExpired_frame a).keepsCoils
  case staggerRelease a => exact (staggerRelease_frame a).keepsCoils
  case modemFrameReceived a b c d => exact (modemFrameReceived_frame a b c d).keepsCoils
  case selectiveAckReceived a b => exact (selectiveAckReceived_frame a b).keepsCoils
  case modemFrameTransmit a b c d e => exact (modemFrameTransmit_frame a b c d e).keepsCoils
  case seccDiscoveryReq a b c => exact (seccDiscoveryReq_frame a b c).keepsCoils
  case supportedAppProtocol a b c d e => exact (supportedAppProtocol_frame a b c d e).keepsCoils
  case v2gRequest a b => exact (v2gRequest_frame a b).keepsCoils
  case paymentDetailsReq a b c d e => exact (paymentDetailsReq_frame a b c d e).keepsCoils
  case cableCheckReq a => exact (cableCheckReq_frame a).keepsCoils
  case powerDeliveryReq a b => exact (powerDeliveryReq_frame a b).keepsCoils
  case sessionStopReq a => exact (sessionStopReq_frame a).keepsCoils
  case certificateInstallationReq a => exact (certificateInstallationReq_frame a).keepsCoils
  case v2gTimerExpired a b => exact (v2gTimerExpired_frame a b).keepsCoils
  case hostWaitExpired a => exact (hostWaitExpired_frame a).keepsCoils
  case authHoldExpired a => exact (authHoldExpired_frame a).keepsCoils
  case creditCheck a => exact (creditCheck_frame a).keepsCoils
  case grantExpired a => exact (grantExpired_frame a).keepsCoils
  case hostCeilingExpired a => exact (hostCeilingExpired_frame a).keepsCoils
  case ceilingBelowMinimum a => exact (ceilingBelowMinimum_frame a).keepsCoils
  case stopWaitEnd a => exact (stopWaitEnd_frame a).keepsCoils
  case powerRequest a => exact (powerRequest_frame a).keepsCoils
  case currentAllowanceExpired a => exact (currentAllowanceExpired_frame a).keepsCoils
  case sesAuthAccept a b c d e => exact (sesAuthAccept_frame a b c d e).keepsCoils
  case sesAuthRefuse a b => exact (sesAuthRefuse_frame a b).keepsCoils
  case sesIdent a b => exact (sesIdent_frame a b).keepsCoils
  case sesStop a => exact (sesStop_frame a).keepsCoils
  case sesGrant a b c => exact (sesGrant_frame a b c).keepsCoils
  case sesCeiling a b c => exact (sesCeiling_frame a b c).keepsCoils
  case sesCreditAdd a b c => exact (sesCreditAdd_frame a b c).keepsCoils
  case sesCreditSet a b c => exact (sesCreditSet_frame a b c).keepsCoils
  case sesCreditCreate a b c d => exact (sesCreditCreate_frame a b c d).keepsCoils
  case sesCreditDelete a b => exact (sesCreditDelete_frame a b).keepsCoils
  case sesCreditSetFlags a b c => exact (sesCreditSetFlags_frame a b c).keepsCoils
  case sesLedgerLoadMerge a b => exact (sesLedgerLoadMerge_frame a b).keepsCoils
  case sesLedgerLoadReplace a b => exact (sesLedgerLoadReplace_frame a b).keepsCoils
  case closingSequence a b => exact closingSequence_keepsCoils a b
  case dcClosingSequence a b => exact dcClosingSequence_keepsCoils a b
  case contactConfirmed a => exact contactConfirmed_keepsCoils a
  case closingConfirmTimeout a => exact closingConfirmTimeout_keepsCoils a
  case prechargeComplete a => exact prechargeComplete_keepsCoils a
  case ordinaryOpening a => exact ordinaryOpening_keepsCoils a
  case secondRelease a => exact secondRelease_keepsCoils a
  case weldCheck a b => exact weldCheck_keepsCoils a b
  case weldRecheck a b => exact weldRecheck_keepsCoils a b
  case switchTestSlot a b => exact switchTestSlot_keepsCoils a b
  case stuckOnCheck a => exact stuckOnCheck_keepsCoils a
  case coilCurrentLimit a b => exact coilCurrentLimit_keepsCoils a b
  case coilOpenDetect a b => exact coilOpenDetect_keepsCoils a b
  case coilSupplyLow a => exact coilSupplyLow_keepsCoils a
  case emergencyStop a b => exact emergencyStop_keepsCoils a b
  case sidePathSample a b => exact sidePathSample_keepsCoils a b
  case dcResidualPersistence a b => exact dcResidualPersistence_keepsCoils a b
  case bridgeStateEnd a => exact bridgeStateEnd_keepsCoils a
  case heartbeatSend a => exact (heartbeatSend_frame a).keepsCoils
  case heartbeatFrame a b c => exact heartbeatFrame_keepsCoils a b c
  case coreService a => exact (coreService_frame a).keepsCoils
  case logicWatchdogExpired a => exact logicWatchdogExpired_keepsCoils a
  case safClear a b => exact safClear_keepsCoils a b
  case safHoldSet a => exact (safHoldSet_frame a).keepsCoils
  case safHoldRelease a => exact (safHoldRelease_frame a).keepsCoils
  case patrolVisitEnd a => exact (patrolVisitEnd_frame a).keepsCoils
  case modulatorStuck a b => exact (modulatorStuck_frame a b).keepsCoils
  case reserveChainsFilled a => exact (reserveChainsFilled_frame a).keepsCoils
  case hotSwapFitStart a => exact (hotSwapFitStart_frame a).keepsCoils
  case hotSwapFitEnd a b => exact (hotSwapFitEnd_frame a b).keepsCoils
  case mtrCal a b c d e => exact (mtrCal_frame a b c d e).keepsCoils
  case mtrCalEnd a => exact (mtrCalEnd_frame a).keepsCoils
  case mtrSwapHot a b => exact (mtrSwapHot_frame a b).keepsCoils
  case mtrSwapReturn a b => exact (mtrSwapReturn_frame a b).keepsCoils
  case swapReturnCompareEnd a b => exact (swapReturnCompareEnd_frame a b).keepsCoils
  case mtrSwapAbort a b => exact (mtrSwapAbort_frame a b).keepsCoils
  case mtrSwapReadmit a b => exact (mtrSwapReadmit_frame a b).keepsCoils
  case cycleEnd a b c => exact (cycleEnd_frame a b c).keepsCoils
  case noCrossingTimeout a => exact (noCrossingTimeout_frame a).keepsCoils
  case noGridCycle a => exact (noGridCycle_frame a).keepsCoils
  case meteringGapOpen a b => exact (meteringGapOpen_frame a b).keepsCoils
  case saveTick a b => exact saveTick_keepsCoils a b
  case nrgRead a => exact (nrgRead_frame a).keepsCoils
  case nrgReadReply a => exact (nrgReadReply_frame a).keepsCoils
  case gateSilence a => exact (gateSilence_frame a).keepsCoils
  case bilTimeSet a b c => exact (bilTimeSet_frame a b c).keepsCoils
  case bilReadAck a b => exact (bilReadAck_frame a b).keepsCoils
  case bilReadNow a => exact (bilReadNow_frame a).keepsCoils
  case bilInfo a => exact (bilInfo_frame a).keepsCoils
  case bilReadGet a b c => exact (bilReadGet_frame a b c).keepsCoils
  case auxSet a b c => exact (auxSet_frame a b c).keepsCoils
  case auxClear a b => exact (auxClear_frame a b).keepsCoils
  case inrushWindowEnd a => exact (inrushWindowEnd_frame a).keepsCoils
  case channelOvercurrent a => exact (channelOvercurrent_frame a).keepsCoils
  case channelThermalFault a b => exact (channelThermalFault_frame a b).keepsCoils
  case hotClear a b => exact (hotClear_frame a b).keepsCoils
  case retryRestart a => exact (retryRestart_frame a).keepsCoils
  case retryCountReset a => exact (retryCountReset_frame a).keepsCoils
  case lampCompensation a b => exact (lampCompensation_frame a b).keepsCoils
  case groupSupplyReturn a => exact (groupSupplyReturn_frame a).keepsCoils
  case vlcdOutOfRange a => exact (vlcdOutOfRange_frame a).keepsCoils
  case czcEdge a => exact (czcEdge_frame a).keepsCoils
  case beaconReceived a => exact beaconReceived_keepsCoils a
  case joinRequest a => exact (joinRequest_frame a).keepsCoils
  case memberTimeout a => exact (memberTimeout_frame a).keepsCoils
  case canopyDataFrame a => exact (canopyDataFrame_frame a).keepsCoils
  case canopyAck a b => exact (canopyAck_frame a b).keepsCoils
  case toneMapFrame a b c => exact (toneMapFrame_frame a b c).keepsCoils
  case toneMapExpired a => exact (toneMapExpired_frame a).keepsCoils
  case statusFrame a => exact (statusFrame_frame a).keepsCoils
  case ceilingFrame a => exact (ceilingFrame_frame a).keepsCoils
  case tripFrame a => exact (tripFrame_frame a).keepsCoils
  case cnpSend a b c d => exact (cnpSend_frame a b c d).keepsCoils
  case fieldArrived a => exact (fieldArrived_frame a).keepsCoils
  case reqb a b => exact (reqb_frame a b).keepsCoils
  case wupb a b => exact (wupb_frame a b).keepsCoils
  case slotMarker a => exact (slotMarker_frame a).keepsCoils
  case attrib a b => exact (attrib_frame a b).keepsCoils
  case tagRead a b => exact (tagRead_frame a b).keepsCoils
  case tagWrite a b c d => exact tagWrite_keepsCoils a b c d
  case tagArbiterGrant a b => exact (tagArbiterGrant_frame a b).keepsCoils
  case tagFlush a b => exact (tagFlush_frame a b).keepsCoils
  case keyChallenge a => exact (keyChallenge_frame a).keepsCoils
  case keyLifecycle a b c d => exact (keyLifecycle_frame a b c d).keepsCoils
  case keyInstall a b c d e => exact (keyInstall_frame a b c d e).keepsCoils
  case keyInfo a => exact (keyInfo_frame a).keepsCoils
  case tamperSample a b c => exact (tamperSample_frame a b c).keepsCoils
  case loopRearm a => exact (loopRearm_frame a).keepsCoils
  case drbgHealthFail a => exact (drbgHealthFail_frame a).keepsCoils
  case drbgRetest a => exact (drbgRetest_frame a).keepsCoils
  case lbistSlice a b c => exact lbistSlice_keepsCoils a b c
  case marchSlice a => exact marchSlice_keepsCoils a
  case memInjectMode0 a b c => exact (memInjectMode0_frame a b c).keepsCoils
  case memInjectMode1 a => exact (memInjectMode1_frame a).keepsCoils
  case memMapGet a => exact (memMapGet_frame a).keepsCoils
  case histogramSample a => exact (histogramSample_frame a).keepsCoils
  case dumpSlotErased a => exact (dumpSlotErased_frame a).keepsCoils
  case logRead a b c d => exact (logRead_frame a b c d).keepsCoils
  case logClear a b => exact (logClear_frame a b).keepsCoils
  case logDumpRead a b c => exact (logDumpRead_frame a b c).keepsCoils
  case logDumpAck a b => exact (logDumpAck_frame a b).keepsCoils
  case logHistGet a => exact (logHistGet_frame a).keepsCoils
  case updBegin a b => exact (updBegin_frame a b).keepsCoils
  case updChunk a b c => exact (updChunk_frame a b c).keepsCoils
  case updEnd a => exact (updEnd_frame a).keepsCoils
  case updSchedule a b c => exact (updSchedule_frame a b c).keepsCoils
  case updConfirm a => exact (updConfirm_frame a).keepsCoils
  case updAbort a => exact updAbort_keepsCoils a
  case commandQueueWrite a b => exact (commandQueueWrite_frame a b).keepsCoils
  case eventQueueRead a b => exact (eventQueueRead_frame a b).keepsCoils
  case hstIrqClear a => exact (hstIrqClear_frame a).keepsCoils
  case hstCommitDoneClear a => exact (hstCommitDoneClear_frame a).keepsCoils
  case hstRestart a b => exact hstRestart_keepsCoils a b
  case hstEcho a b => exact (hstEcho_frame a b).keepsCoils
  case channelLimitReached a => exact (channelLimitReached_frame a).keepsCoils
  case calendarSecond => exact calendarSecond_frame.keepsCoils
  case calendarRangeEnd => exact calendarRangeEnd_frame.keepsCoils
  case pllLockLoss => exact pllLockLoss_frame.keepsCoils
  case pllRecovery => exact pllRecovery_frame.keepsCoils
  case cryptoOperationDone => exact cryptoOperationDone_frame.keepsCoils
  case backupDomainLoss => exact backupDomainLoss_frame.keepsCoils
  case powerDieThermalRecovery => exact powerDieThermalRecovery_keepsCoils
  case phaseP3 => exact phaseP3_frame.keepsCoils
  case phaseP4 => exact phaseP4_frame.keepsCoils
  case phaseP5 => exact phaseP5_frame.keepsCoils
  case waitSupplyEnd => exact waitSupplyEnd_frame.keepsCoils
  case decisionWindowEnd => exact decisionWindowEnd_frame.keepsCoils
  case emergencyStopRelease => exact emergencyStopRelease_keepsCoils
  case estopDiscrepancy => exact estopDiscrepancy_keepsCoils
  case heartbeatPeriodMissed => exact heartbeatPeriodMissed_keepsCoils
  case heartwoodConversion => exact heartwoodConversion_frame.keepsCoils
  case rateEvaluation => exact rateEvaluation_frame.keepsCoils
  case billingBoundary => exact billingBoundary_keepsCoils
  case readingRelease => exact readingRelease_frame.keepsCoils
  case checkValueRecompute => exact checkValueRecompute_keepsCoils
  case isenseScanStep => exact isenseScanStep_frame.keepsCoils
  case displayUpdate => exact displayUpdate_frame.keepsCoils
  case displayFrameStart => exact displayFrameStart_frame.keepsCoils
  case vlcdAdjust => exact vlcdAdjust_frame.keepsCoils
  case displayRestart => exact displayRestart_frame.keepsCoils
  case updateTimeout => exact updateTimeout_frame.keepsCoils
  case dispbtnPress => exact dispbtnPress_keepsCoils
  case dispbtnHold => exact dispbtnHold_frame.keepsCoils
  case pageIdleReturn => exact pageIdleReturn_frame.keepsCoils
  case lowPowerEntry => exact lowPowerEntry_frame.keepsCoils
  case turnStart => exact turnStart_frame.keepsCoils
  case beaconListenEnd => exact beaconListenEnd_frame.keepsCoils
  case beaconMissed => exact beaconMissed_frame.keepsCoils
  case loadAllocation => exact loadAllocation_frame.keepsCoils
  case ceilingValidityExpired => exact ceilingValidityExpired_frame.keepsCoils
  case tripFollowExpired => exact tripFollowExpired_frame.keepsCoils
  case messageCounterRollover => exact messageCounterRollover_frame.keepsCoils
  case fieldLeft => exact fieldLeft_frame.keepsCoils
  case tagPowerUp => exact tagPowerUp_keepsCoils
  case hltb => exact hltb_frame.keepsCoils
  case tagInfo => exact tagInfo_frame.keepsCoils
  case meterSnapshot => exact meterSnapshot_keepsCoils
  case lifecycleApply => exact lifecycleApply_frame.keepsCoils
  case maskRenewal => exact maskRenewal_frame.keepsCoils
  case oscillatorDetector => exact oscillatorDetector_frame.keepsCoils
  case drbgReseed => exact drbgReseed_frame.keepsCoils
  case scrubRow => exact scrubRow_keepsCoils
  case heartwoodScrubRow => exact heartwoodScrubRow_keepsCoils
  case fieldMapWrite => exact fieldMapWrite_frame.keepsCoils
  case recordWrite => exact recordWrite_frame.keepsCoils
  case budgetWindowEnd => exact budgetWindowEnd_frame.keepsCoils
  case histogramSnapshot => exact histogramSnapshot_frame.keepsCoils
  case tagHistogramSummary => exact tagHistogramSummary_keepsCoils
  case fatalRestart => exact fatalRestart_keepsCoils
  case activationCondition => exact activationCondition_keepsCoils
  case drainEnd => exact drainEnd_keepsCoils
  case drainTimeout => exact drainTimeout_frame.keepsCoils
  case confirmationWindowEnd => exact confirmationWindowEnd_keepsCoils
  case hostBadOpcode => exact hostBadOpcode_frame.keepsCoils
  case hcsnCut => exact hcsnCut_frame.keepsCoils
  case bulkRelease => exact bulkRelease_frame.keepsCoils
  case czcEdgeAbsent => exact czcEdgeAbsent_frame.keepsCoils
  case hcsnFalling => exact hcsnFalling_frame.keepsCoils

theorem runHost_coilsSafe {s : State} (hs : CoilsSafe s) (i : Instr) : CoilsSafeR (runHost i s) := by
  rcases runHost_eq i s with ⟨hi, e⟩ | e
  · rw [e]
    exact exec_keepsCoils i hi s hs
  · rw [e]
    exact .next hs

theorem commandDispatch_keepsCoils : KeepsCoils .commandDispatch := fun s hs => by
  have hc (cq : List (List Byte)) (n d l : Nat) := CoilsSafe.of (setCommands_changes (.refl _ s) cq n d l) hs
  show CoilsSafeR (execCommandDispatch s)
  unfold execCommandDispatch
  split
  · exact .next hs
  · dsimp only
    split
    · exact .next (.of (answer_changes (.refl _ _) _ _ _ _) (hc _ _ _ _))
    · split
      · exact runHost_coilsSafe (hc _ _ _ _) _
      · exact .fault _

/-- Settles O6: each command's own lemma, on the state whose queue has given up its front command. -/
theorem protectionsKeepCoilsOpen : Obligations.ProtectionsKeepCoilsOpen := by
  unfold Obligations.ProtectionsKeepCoilsOpen
  intro s t hs e
  unfold step at e
  split at e
  · obtain rfl := Host.Outcome.next.inj e
    exact hs
  · rename_i c rest _
    have hq : CoilsSafe { s with pending := rest } := hs
    by_cases hc : c = .commandDispatch
    · subst hc
      exact commandDispatch_keepsCoils _ hq t e
    · exact exec_keepsCoils c hc _ hq t e

end Sys2Proof.Safety
end

section
/-! SUPPORT. What the session engine leaves of the safety block: a move of a session, its end and its fault change the pilot's
note and the engine's own requests alone (R214, R215, R262). -/

set_option Elab.async false

namespace Sys2Proof.Safety

open Sys2Proof.Machine

/-- Of every bough's safety state nothing but the pilot's note and the requests of the session engine differs. -/
def SafLeft (s t : State) : Prop := ∀ b : Bough,
  t.saf[b] = { s.saf[b] with pilotCD := t.saf[b].pilotCD, closeReq := t.saf[b].closeReq, openReq := t.saf[b].openReq }

theorem SafKept.left {s t : State} (h : SafKept s t) : SafLeft s t := fun b => by rw [h b]

theorem SafLeft.refl (s : State) : SafLeft s s := (SafKept.refl s).left

theorem SafLeft.trans {s t u : State} (h : SafLeft s t) (k : SafLeft t u) : SafLeft s u := fun b => by rw [k b, h b]

theorem SafLeft.ite {s t u : State} {c : Prop} [Decidable c] (h : SafLeft s t) (k : SafLeft s u) :
    SafLeft s (if c then t else u) := by
  split
  · exact h
  · exact k

/-- An operation whose frame leaves the safety block out. -/
theorem Kept.left {s t : State} (h : Kept (allBut .safety) s t) : SafLeft s t := h.saf.left

theorem onSes_left (b : Bough) (f : Session → Session) (s : State) : SafLeft s (s.onSes b f) := (SafKept.of_eq rfl).left

theorem onSesL_left (b : Bough) (f : SesLink → SesLink) (s : State) : SafLeft s (s.onSesL b f) := (SafKept.of_eq rfl).left

theorem onPort_left (b : Bough) (f : Port → Port) (s : State) : SafLeft s (s.onPort b f) := (SafKept.of_eq rfl).left

theorem dropCloseReq_left (b : Bough) (s : State) : SafLeft s (s.onSaf b fun f => { f with closeReq := false }) := fun c => by
  rw [State.onSaf_saf, modAt_fin]
  split <;> rfl

theorem dropRequests_left (b : Bough) (s : State) :
    SafLeft s (s.onSaf b fun f => { f with closeReq := false, openReq := false }) := fun c => by
  rw [State.onSaf_saf, modAt_fin]
  split <;> rfl

section
variable {s t : State} (h : SafLeft s t) (b : Bough)
include h

theorem SafLeft.latched : t.saf[b].latched = s.saf[b].latched := by rw [h b]

theorem SafLeft.testsFailed : t.saf[b].testsFailed = s.saf[b].testsFailed := by rw [h b]

theorem SafLeft.holdCmd : t.saf[b].holdCmd = s.saf[b].holdCmd := by rw [h b]

end

/-! ## Sessions that move, end and fault -/

theorem goState_left (b : Bough) (st : SesState) (s : State) : SafLeft s (goState b st s) := (goState_saf b st s).left

theorem closeSession_left (b : Bough) (s : State) : SafLeft s (closeSession b s) := (closeSession_changes (.refl _ s) b).left

theorem leaveNetwork_left (b : Bough) (s : State) : SafLeft s (leaveNetwork b s) := (leaveNetwork_changes (.refl _ s) b).left

theorem finishSession_left (b : Bough) (s : State) : SafLeft s (finishSession b s) :=
  ((goState_left b _ s).trans (closeSession_left b _)).trans (leaveNetwork_left b _)

theorem idleSession_left (b : Bough) (s : State) : SafLeft s (idleSession b s) := by
  unfold idleSession
  extract_lets t u v w x
  have hv : SafLeft s v := ((goState_left b _ s).trans (onSes_left b _ t)).trans (onSesL_left b _ u)
  have hw : SafLeft s w := hv.trans (onPort_left b _ v)
  have hx : SafLeft s (leaveNetwork b x) := (hw.trans (dropCloseReq_left b w)).trans (leaveNetwork_left b _)
  exact hx.trans (withRequest_saf b id _).left

theorem endEarly_left (b : Bough) (reason : Nat) (s : State) : SafLeft s (endEarly b reason s) :=
  ((onSes_left b _ s).trans (closeSession_left b _)).trans (idleSession_left b _)

theorem stopDone_left (b : Bough) (s : State) : SafLeft s (stopDone b s) := by
  unfold stopDone
  extract_lets t
  have ht : SafLeft s t := finishSession_left b s
  exact .ite (ht.trans (idleSession_left b t)) ht

theorem enterStopping_left (b : Bough) (reason : Nat) (s : State) : SafLeft s (enterStopping b reason s) := by
  unfold enterStopping
  extract_lets isOpen notice t u v w
  have hv : SafLeft s v := ((onSes_left b _ s).trans (onSesL_left b _ t)).trans (dropCloseReq_left b u)
  have hw : SafLeft s w := hv.trans (goState_left b _ v)
  exact .ite (hw.trans (stopDone_left b w)) hw

theorem leaveSession_left (b : Bough) (reason : Nat) (s : State) : SafLeft s (leaveSession b reason s) := by
  unfold leaveSession
  refine .ite (.refl s) ?_
  split
  · exact .refl s
  · exact idleSession_left b s
  · exact idleSession_left b s
  · exact .refl s
  · exact endEarly_left b reason s
  · exact endEarly_left b reason s
  · exact endEarly_left b reason s
  · exact .ite (enterStopping_left b reason s) (endEarly_left b reason s)

theorem holdSession_left (b : Bough) (r : Nat) (s : State) : SafLeft s (holdSession b r s) :=
  (leaveSession_left b _ s).trans (driveOutput_saf b _).left

theorem faultSession_left (b : Bough) (reason : Nat) (s : State) : SafLeft s (faultSession b reason s) := by
  unfold faultSession
  refine .ite (.refl s) ?_
  extract_lets t u
  have hu : SafLeft s u := (onSes_left b _ s).trans (dropRequests_left b t)
  have hf : SafLeft s (leaveNetwork b (closeSession b (goState b .faulted u))) :=
    ((hu.trans (goState_left b _ u)).trans (closeSession_left b _)).trans (leaveNetwork_left b _)
  split
  · exact hf
  · exact hf
  · exact hf
  · exact hf
  · exact .refl s

theorem auxAll_left (s : State) : SafLeft s (auxAll s) := (auxAll_changes (.refl _ s)).left

end Sys2Proof.Safety
end

section
/-! SUPPORT. What a trip does to its bough (R266, R278, R295): the code latched, the failed test counted, every coil open; the
power die's own state stands. What the fail-safe adds: its cause, and every coil open (R277). -/

set_option Elab.async false

namespace Sys2Proof.Safety

open Sys2Proof.Machine

/-! ## The record of a bough's trips -/

/-- The latched codes of a bough and its failed switch tests. -/
def tripRecord (f : SafBough) : List Nat × Nat := (f.latched, f.testsFailed)

/-- The latched codes after a trip: a code that latches stands once (R278, R295). -/
def latchCode (code : Nat) (l : List Nat) : List Nat :=
  if latches code then if l.contains code then l else l ++ [code] else l

theorem mem_latchCode {code : Nat} (h : latches code = true) (l : List Nat) : code ∈ latchCode code l := by
  unfold latchCode
  rw [if_pos h]
  split
  · exact List.contains_iff_mem.mp ‹_›
  · exact List.mem_append_right _ (List.mem_singleton_self code)

theorem latchCode_free {code : Nat} (h : latches code = false) (l : List Nat) : latchCode code l = l := by
  unfold latchCode
  rw [h, if_neg Bool.false_ne_true]

theorem SafLeft.record {s t : State} (h : SafLeft s t) (b : Bough) : tripRecord t.saf[b] = tripRecord s.saf[b] := by
  rw [tripRecord, h.latched b, h.testsFailed b, tripRecord]

theorem onSaf_record (b : Bough) (f : SafBough → SafBough) (s : State) (c : Bough)
    (hf : ∀ x, tripRecord (f x) = tripRecord x) : tripRecord (s.onSaf b f).saf[c] = tripRecord s.saf[c] := by
  rw [State.onSaf_saf, modAt_fin]
  split
  · exact hf _
  · rfl

theorem onCoil_record (b : Bough) (k : Fin 3) (f : Coil → Coil) (s : State) (c : Bough) :
    tripRecord (onCoil b k f s).saf[c] = tripRecord s.saf[c] := onSaf_record b _ s c fun _ => rfl

theorem release_record (b : Bough) (k : Fin 3) (s : State) (c : Bough) :
    tripRecord (release b k s).saf[c] = tripRecord s.saf[c] := onCoil_record b k _ s c

theorem openNow_record (b : Bough) (cause : Nat) (s : State) (c : Bough) :
    tripRecord (openNow b cause s).saf[c] = tripRecord s.saf[c] := by
  unfold openNow
  dsimp only
  rw [apply_ite State.saf, emit_saf, ite_self, onSaf_record]
  · show tripRecord (release b 2 (release b 1 (release b 0 s))).saf[c] = _
    rw [release_record, release_record, release_record]
  · exact fun _ => rfl

theorem abandonClosing_record (b : Bough) (cause : Nat) (s : State) (c : Bough) :
    tripRecord (abandonClosing b cause s).saf[c] = tripRecord s.saf[c] := by
  unfold abandonClosing
  split
  · rfl
  · dsimp only
    rw [(withRequest_saf b _ _).left.record, State.onSesL_saf, onSaf_record, emit_saf]
    exact fun _ => rfl

/-! ## Trips -/

theorem dueTripFrame_saf (mask code : Nat) (s : State) : (dueTripFrame mask code s).saf = s.saf :=
  (dueTripFrame_changes (w₀ := allBut .safety) (.refl _ s) mask code).same

/-- A trip latches its code and leaves the count of failed tests. -/
theorem trip_record (b : Bough) (code : Nat) (v : Int) (s : State) :
    tripRecord (trip b code v s).saf[b] = (latchCode code s.saf[b].latched, s.saf[b].testsFailed) := by
  have ha := abandonClosing_record b (code + 0x20) s b
  unfold trip
  extract_lets t u w
  have hu : u.saf = t.saf := (dueTripFrame_saf _ _ _).trans (emit_saf _ _ _ _)
  rw [← hu] at ha
  obtain ⟨hl, ht⟩ := Prod.mk.inj ha
  rw [(auxAll_left _).record, (faultSession_left _ _ _).record, openNow_record]
  show tripRecord w.saf[b] = _
  unfold latchCode
  by_cases h : latches code = true
  · have hw : w = u.onSaf b _ := if_pos h
    rw [hw, State.onSaf_saf, modAt_get, if_pos h, ← hl, ← ht]
    rfl
  · have hw : w = u := if_neg h
    rw [hw, if_neg h, ← hl, ← ht]
    rfl

theorem trip_latched (b : Bough) (code : Nat) (v : Int) (s : State) :
    (trip b code v s).saf[b].latched = latchCode code s.saf[b].latched :=
  (Prod.mk.inj (trip_record b code v s)).1

/-- The end of a session after a trip leaves open coils open. -/
theorem faultEnd_opened {b c : Bough} (r : Nat) {s : State} (h : Opened s.saf[c]) :
    Opened (auxAll (faultSession b r s)).saf[c] :=
  opened_kept (auxAll_changes (faultSession_changes (.refl _ s) b r)) h

theorem trip_opens (b : Bough) (code : Nat) (v : Int) (s : State) : Opened (trip b code v s).saf[b] :=
  faultEnd_opened _ (openNow_opens _ _ _)

/-- A trip opens its bough and closes no other. -/
theorem trip_stays (b c : Bough) (code : Nat) (v : Int) {s : State} (h : Opened s.saf[c]) :
    Opened (trip b code v s).saf[c] := by
  by_cases e : b = c
  · subst e
    exact trip_opens _ _ _ _
  · unfold trip
    extract_lets t u w
    have hut : u.saf = t.saf := (dueTripFrame_saf _ _ _).trans (emit_saf _ _ _ _)
    have hu : Opened u.saf[c] := by
      rw [hut]
      exact abandonClosing_stays _ _ _ h
    refine faultEnd_opened _ (openNow_stays _ _ _ ?_)
    by_cases hl : latches code = true
    · have hw : w = u.onSaf b _ := if_pos hl
      rwa [hw, State.onSaf_saf, modAt_get_other _ _ _ _ e]
    · have hw : w = u := if_neg hl
      rwa [hw]

theorem tripAll_safDev (code : Nat) (s : State) : (tripAll code s).safDev = s.safDev :=
  (tripAll_changes (w₀ := allBut .powerDie) (.refl _ s) code).same

/-! ## Boughs one after another -/

/-- What an operation on bough b brings about, and the same operation on the others leaves, holds after all of them. -/
theorem forBoughs_at {P : State → Prop} {f : Bough → State → State} (b : Bough) (s : State) (h1 : ∀ u, P (f b u))
    (h2 : ∀ c u, P u → P (f c u)) : P (forBoughs f s) := by
  have hm : ∀ b : Bough, b ∈ allBoughs := by decide
  obtain ⟨before, after, hl⟩ := List.append_of_mem (hm b)
  unfold forBoughs
  rw [hl, List.foldl_append, List.foldl_cons]
  exact List.foldlRecOn _ _ (h1 _) fun u hu c _ => h2 c u hu

/-! ## The fail-safe of the power die -/

/-- An operation whose frame leaves the coils out drives and releases none. -/
theorem Kept.driven {s t : State} (h : Kept (allBut .coils) s t) (b : Bough) (k : Fin 3) :
    t.saf[b].coils[k].driven = s.saf[b].coils[k].driven := driven_of_view (coilView_get h.same b) k

/-- A new cause opens every coil, be it one with a trip code or that of the link's frames. -/
theorem fsEnter_opensAll {c : FsCause} {s : State} (h : c ∉ s.safDev.fsCauses) (code : Nat) (b : Bough) :
    Opened (fsEnter c code s).saf[b] := by
  by_cases hc : code = 0
  · unfold fsEnter
    dsimp only
    rw [if_neg (mt List.contains_iff_mem.mp h), if_pos hc]
    refine opened_kept (auxAll_changes (driveAll_changes (.refl _ _))) ?_
    exact forBoughs_opens _ _ (fun _ _ => faultOpen_opened _ _ _ _)
      (fun _ _ _ h => faultOpen_stays _ _ _ _ (abandonClosing_stays _ _ _ h)) b
  · exact fsEnter_opens h hc b

theorem stop_of_kept {s t : State} (k : Kept (allBut .powerDie) s t) : t.safDev.stop = s.safDev.stop :=
  congrArg SafDev.stop k.same

/-- A cause that begins neither starts an emergency stop nor ends one. -/
theorem fsEnter_stop (c : FsCause) (code : Nat) (s : State) : (fsEnter c code s).safDev.stop = s.safDev.stop := by
  unfold fsEnter
  dsimp only
  split
  · rfl
  · refine (stop_of_kept (auxAll_changes (driveAll_changes (.ite (fun _ => .forBoughs _ (.refl _ _) fun b u hu => ?_)
      fun _ => tripAll_changes (.refl _ _) code)))).trans ?_
    · exact faultSession_changes (openNow_changes (abandonClosing_changes hu _ _) _ _) _ _
    · split
      · rw [emit_safDev]
      · rfl

/-- The end of a cause drives no coil and releases none. -/
theorem fsLeave_driven (c : FsCause) (s : State) (b : Bough) (k : Fin 3) :
    (fsLeave c s).saf[b].coils[k].driven = s.saf[b].coils[k].driven :=
  (fsLeave_changes (.refl (allBut .coils) s) c).driven b k

/-- A cause that ends is gone. -/
theorem not_mem_fsLeave (c : FsCause) (s : State) : c ∉ (fsLeave c s).safDev.fsCauses := by
  rw [(fsLeave_causes c s).1]
  simp

end Sys2Proof.Safety
end

section
/-! SUPPORT. Switch tests, stuck switches and coil faults (R257, R264 to R266). -/

set_option Elab.async false

namespace Sys2Proof.Safety

open Sys2Proof.Machine

/-! ## Switch tests -/

theorem testFailed_record (b : Bough) (k : Fin 3) (side f code : Nat) (s : State) :
    tripRecord (testFailed b k side f code s).saf[b]
      = (latchCode code s.saf[b].latched, min 255 (s.saf[b].testsFailed + 1)) := by
  unfold testFailed
  dsimp only
  rw [trip_record, emit_saf, State.onSaf_saf, modAt_get]

theorem testFailed_opens (b : Bough) (k : Fin 3) (side f code : Nat) (s : State) :
    Opened (testFailed b k side f code s).saf[b] := trip_opens _ _ _ _

/-- The state in which a test of a slot is judged: the slot is noted, or is taken from those that wait (R264). -/
def testState (i : Fin 48) (s : State) : State :=
  if s.safDev.skipped.contains i.val then { s with safDev.skipped := s.safDev.skipped.erase i.val }
  else { s with safDev.slot := i.val }

theorem testState_saf (i : Fin 48) (s : State) : (testState i s).saf = s.saf := by
  unfold testState
  split <;> rfl

theorem testState_new {i : Fin 48} {s : State} (h : i.val ∉ s.safDev.skipped) :
    testState i s = { s with safDev.slot := i.val } := if_neg (by simpa using h)

theorem testState_again {i : Fin 48} {s : State} (h : i.val ∈ s.safDev.skipped) :
    testState i s = { s with safDev.skipped := s.safDev.skipped.erase i.val } := if_pos (by simpa using h)

/-- A passed test noted at its coil, by its side (R266). -/
def passTest (i : Fin 48) (c : Coil) : Coil := if i.val % 2 = 0 then { c with hiPassed := true } else { c with loPassed := true }

theorem switchTestSlot_pass (i : Fin 48) (s : State) : exec (.switchTestSlot i .pass) s
    = .next (onCoil (switchBough i) (switchCoil i) (passTest i) (testState i s)) := rfl

/-- The failure, side and trip code of a failed test (R266). -/
theorem switchTestSlot_fails {r : TestResult} (hr : r = .notOff ∨ r = .partnerStuck ∨ r = .noMove ∨ r = .notRestored)
    (i : Fin 48) (s : State) : ∃ side f,
      exec (.switchTestSlot i r) s = .next (testFailed (switchBough i) (switchCoil i) side f
        (if r = .notOff ∨ r = .partnerStuck then 12 else 13) (testState i s)) := by
  rcases hr with rfl | rfl | rfl | rfl <;> exact ⟨_, _, rfl⟩

/-- A failed test counts, latches its code and opens its bough. -/
theorem switchTestSlot_trips {r : TestResult} {code : Nat}
    (hr : r = .notOff ∨ r = .partnerStuck ∨ r = .noMove ∨ r = .notRestored)
    (hcode : (if r = .notOff ∨ r = .partnerStuck then 12 else 13) = code) (hl : latches code = true) (i : Fin 48) (s : State) :
    Completes (.switchTestSlot i r) s fun t => code ∈ t.saf[switchBough i].latched
      ∧ t.saf[switchBough i].testsFailed = min 255 (s.saf[switchBough i].testsFailed + 1)
      ∧ ∀ k : Fin 3, t.saf[switchBough i].coils[k].driven = false := by
  obtain ⟨side, f, he⟩ := switchTestSlot_fails hr i s
  rw [hcode] at he
  obtain ⟨hlatched, hcount⟩ := Prod.mk.inj (testFailed_record (switchBough i) (switchCoil i) side f code (testState i s))
  rw [testState_saf] at hlatched hcount
  exact ⟨_, he, by rw [hlatched]; exact mem_latchCode hl _, hcount, (testFailed_opens _ _ _ _ _ _).1⟩

/-! ## Runs of on-level checks -/

/-- What the checks of the other switches leave of switch i: the coil's drive, the run and the latched codes. -/
def RunKept (i : Fin 48) (s t : State) : Prop :=
  t.saf[switchBough i].coils[switchCoil i].driven = s.saf[switchBough i].coils[switchCoil i].driven
    ∧ stuckRun t i = stuckRun s i ∧ ∀ b : Bough, t.saf[b].latched = s.saf[b].latched

theorem RunKept.refl (i : Fin 48) (s : State) : RunKept i s s := ⟨rfl, rfl, fun _ => rfl⟩

theorem RunKept.trans {i : Fin 48} {s t u : State} (h : RunKept i s t) (k : RunKept i t u) : RunKept i s u := by
  obtain ⟨h1, h2, h3⟩ := h
  obtain ⟨k1, k2, k3⟩ := k
  exact ⟨k1.trans h1, k2.trans h2, fun b => (k3 b).trans (h3 b)⟩

/-- A coil after another coil, or itself, has changed. -/
theorem onCoil_coil (b c : Bough) (k j : Fin 3) (f : Coil → Coil) (s : State) :
    (onCoil b k f s).saf[c].coils[j] = if b = c ∧ k = j then f s.saf[c].coils[j] else s.saf[c].coils[j] := by
  unfold onCoil
  rw [State.onSaf_saf, modAt_fin]
  by_cases e : b = c
  · rw [if_pos e]
    dsimp only
    rw [modAt_fin]
    simp only [e, true_and]
  · rw [if_neg e, if_neg fun h => e h.1]

theorem onCoil_same (b : Bough) (k : Fin 3) (f : Coil → Coil) (s : State) :
    (onCoil b k f s).saf[b].coils[k] = f s.saf[b].coils[k] := by rw [onCoil_coil, if_pos ⟨rfl, rfl⟩]

theorem onCoil_latched (b c : Bough) (k : Fin 3) (f : Coil → Coil) (s : State) :
    (onCoil b k f s).saf[c].latched = s.saf[c].latched :=
  (Prod.mk.inj (onCoil_record b k f s c)).1

theorem stuckRun_setStuckRun (i : Fin 48) (n : Nat) (s : State) : stuckRun (setStuckRun i n s) i = n := by
  unfold stuckRun setStuckRun
  rw [onCoil_same]
  dsimp only
  split <;> rfl

theorem setStuckRun_latched (i : Fin 48) (n : Nat) (s : State) (b : Bough) :
    (setStuckRun i n s).saf[b].latched = s.saf[b].latched := onCoil_latched _ _ _ _ _

/-- Two switches of one coil are its two sides. -/
theorem side_ne {i j : Fin 48} (h : j ≠ i) (hb : switchBough j = switchBough i) (hk : switchCoil j = switchCoil i) :
    j.val % 2 ≠ i.val % 2 := by
  have hb' := congrArg Fin.val hb
  have hk' := congrArg Fin.val hk
  have := fun e => h (Fin.ext e)
  simp only [switchBough, switchCoil] at hb' hk'
  omega

theorem setStuckRun_other {i j : Fin 48} (h : j ≠ i) (n : Nat) (s : State) : RunKept i s (setStuckRun j n s) := by
  refine ⟨?_, ?_, setStuckRun_latched j n s⟩
  · unfold setStuckRun
    rw [onCoil_coil]
    split
    · split <;> rfl
    · rfl
  · unfold stuckRun setStuckRun
    rw [onCoil_coil]
    by_cases e : switchBough j = switchBough i ∧ switchCoil j = switchCoil i
    · have hs := side_ne h e.1 e.2
      rw [if_pos e]
      by_cases hi : i.val % 2 = 0
      · rw [if_neg (show ¬ j.val % 2 = 0 by omega)]
        simp only [hi, if_true]
      · rw [if_pos (show j.val % 2 = 0 by omega)]
        simp only [hi, if_false]
    · rw [if_neg e]

/-- A check that finds the output of a switch off ends the switch's run. -/
theorem stuckCheck_off {on : BitVec 48} {j : Fin 48} (h : on.getLsbD j.val = false) (s : State) :
    stuckCheck on j s = setStuckRun j 0 s := by
  unfold stuckCheck
  rw [h, if_pos (by simp)]

/-- Checks of switches whose outputs are off leave another switch as it is. -/
theorem stuckChecks_off {on : BitVec 48} {i : Fin 48} (l : List (Fin 48))
    (hl : ∀ j ∈ l, j ≠ i ∧ on.getLsbD j.val = false) (s : State) :
    RunKept i s (l.foldl (fun t j => stuckCheck on j t) s) := by
  refine List.foldlRecOn (motive := RunKept i s) _ _ (.refl i s) fun t ht j hj => ?_
  obtain ⟨hne, hoff⟩ := hl j hj
  rw [stuckCheck_off hoff]
  exact ht.trans (setStuckRun_other hne 0 t)

/-- One check of all switches, told by its check of switch i: what comes before it and after it leaves the switch. -/
theorem stuckOnCheck_split (on : BitVec 48) (i : Fin 48) (hoff : ∀ j, j ≠ i → on.getLsbD j.val = false) (s : State) :
    ∃ u t, RunKept i s u ∧ exec (.stuckOnCheck on) s = .next t ∧ RunKept i (stuckCheck on i u) t := by
  obtain ⟨before, after, hl⟩ := List.append_of_mem (List.mem_finRange i)
  have hn : (before ++ i :: after).Nodup := hl ▸ List.nodup_finRange 48
  rw [List.nodup_middle, List.nodup_cons] at hn
  have hne : ∀ j ∈ before ++ after, j ≠ i ∧ on.getLsbD j.val = false := fun j hj =>
    have e : j ≠ i := fun e => hn.1 (e ▸ hj)
    ⟨e, hoff j e⟩
  refine ⟨before.foldl (fun t j => stuckCheck on j t) s, _, ?_, rfl, ?_⟩
  · exact stuckChecks_off before (fun j hj => hne j (List.mem_append_left _ hj)) s
  · rw [hl, List.foldl_append, List.foldl_cons]
    exact stuckChecks_off after (fun j hj => hne j (List.mem_append_right _ hj)) _

theorem getLsbD_onlyBit (i j : Fin 48) : (BitVec.ofNat 48 (2 ^ i.val)).getLsbD j.val = decide (j = i) := by
  rw [BitVec.getLsbD_ofNat, Nat.testBit_two_pow, decide_eq_true j.isLt, Bool.true_and]
  exact decide_eq_decide.mpr ⟨fun h => Fin.ext h.symm, fun h => by rw [h]⟩

/-- A check at the on level of an off switch's open coil: the run grows, and at ten it is a failed test (R265). -/
theorem stuckCheck_on {i : Fin 48} {s : State} (h : s.saf[switchBough i].coils[switchCoil i].driven = false) :
    stuckCheck (BitVec.ofNat 48 (2 ^ i.val)) i s
      = if min 10 (stuckRun s i + 1) = 10 ∧ stuckRun s i < 10 then
          testFailed (switchBough i) (switchCoil i) (i.val % 2) 0 12 (setStuckRun i (min 10 (stuckRun s i + 1)) s)
        else setStuckRun i (min 10 (stuckRun s i + 1)) s := by
  unfold stuckCheck
  rw [h, getLsbD_onlyBit, decide_eq_true rfl, if_neg (by decide)]

/-- A switch whose output is at the on level alone: its run grows, or is its tenth check. -/
theorem stuckOnCheck_on (i : Fin 48) {s : State} (h : s.saf[switchBough i].coils[switchCoil i].driven = false) :
    (stuckRun s i < 9 → Completes (.stuckOnCheck (BitVec.ofNat 48 (2 ^ i.val))) s fun t =>
      stuckRun t i = stuckRun s i + 1 ∧ t.saf[switchBough i].latched = s.saf[switchBough i].latched)
    ∧ (stuckRun s i = 9 → Completes (.stuckOnCheck (BitVec.ofNat 48 (2 ^ i.val))) s fun t =>
      12 ∈ t.saf[switchBough i].latched) := by
  obtain ⟨u, t, ⟨hdriven, hrun, hlatched⟩, he, -, hrun', hlatched'⟩ :=
    stuckOnCheck_split (BitVec.ofNat 48 (2 ^ i.val)) i (fun j hj => by rw [getLsbD_onlyBit, decide_eq_false hj]) s
  rw [stuckCheck_on (hdriven.trans h), hrun] at hrun' hlatched'
  refine ⟨fun hn => ⟨t, he, ?_⟩, fun hn => ⟨t, he, ?_⟩⟩
  · rw [if_neg (by omega)] at hrun' hlatched'
    refine ⟨?_, (hlatched' _).trans ((setStuckRun_latched _ _ _ _).trans (hlatched _))⟩
    rw [hrun', stuckRun_setStuckRun]
    omega
  · rw [if_pos (by omega)] at hlatched'
    rw [hlatched', (Prod.mk.inj (testFailed_record _ _ _ _ _ _)).1]
    exact mem_latchCode rfl _

/-- No output at the on level: every run is over, and no code latches. -/
theorem stuckOnCheck_none (i : Fin 48) (s : State) : Completes (.stuckOnCheck 0) s fun t =>
    stuckRun t i = 0 ∧ t.saf.map (·.latched) = s.saf.map (·.latched) := by
  obtain ⟨u, t, ⟨-, -, hlatched⟩, he, -, hrun', hlatched'⟩ := stuckOnCheck_split 0 i (fun j _ => BitVec.getLsbD_zero) s
  rw [stuckCheck_off (on := 0) BitVec.getLsbD_zero] at hrun' hlatched'
  refine ⟨t, he, hrun'.trans (stuckRun_setStuckRun i 0 u), Vector.ext fun b hb => ?_⟩
  rw [Vector.getElem_map, Vector.getElem_map]
  exact (hlatched' ⟨b, hb⟩).trans ((setStuckRun_latched _ _ _ _).trans (hlatched ⟨b, hb⟩))

/-! ## Coil faults -/

/-- A trip latches its code, where it latches, and opens its bough (R278). -/
theorem trip_latches (b : Bough) {code : Nat} (hl : latches code = true) (v : Int) (s : State) :
    code ∈ (trip b code v s).saf[b].latched ∧ ∀ j : Fin 3, (trip b code v s).saf[b].coils[j].driven = false :=
  ⟨by rw [trip_latched]; exact mem_latchCode hl _, (trip_opens _ _ _ _).1⟩

theorem coilsClosed_of {s : State} {b : Bough} {k : Fin 3} (h : s.saf[b].coils[k].driven = true) : coilsClosed s b = true :=
  Vector.any_eq_true.mpr ⟨k.val, k.isLt, h⟩

/-- Settles O31: a test by its result, a check of all switches by its check of the switch in question, and the trips. -/
theorem switchAndCoilFaults : Obligations.SwitchAndCoilFaults := by
  unfold Obligations.SwitchAndCoilFaults
  refine ⟨fun s i => ⟨fun hnew => ?_, fun hold => ?_, fun r hr => ?_, fun r hr => ?_, fun hnew => ?_, ?_⟩,
    fun s i h => ⟨(stuckOnCheck_on i h).1, (stuckOnCheck_on i h).2, stuckOnCheck_none i s⟩,
    fun s b k => ⟨_, rfl, trip_latches b rfl 0 s⟩, fun s b k h => ⟨?_, ?_⟩⟩
  · refine ⟨_, switchTestSlot_pass i s, ?_, fun h => ?_, fun h => ?_, ?_⟩
    · rw [testState_new hnew]
      rfl
    · rw [onCoil_same, passTest, if_pos h]
    · rw [onCoil_same, passTest, if_neg (by omega)]
    · rw [onCoil_latched, testState_saf]
  · refine ⟨_, switchTestSlot_pass i s, ?_, ?_⟩
    all_goals
      rw [testState_again hold]
      rfl
  · exact switchTestSlot_trips (by tauto) (if_pos hr) rfl i s
  · obtain ⟨t, ht, hl, -, ho⟩ := switchTestSlot_trips (r := r) (code := 13) (by tauto)
      (if_neg (by rcases hr with rfl | rfl <;> decide)) rfl i s
    exact ⟨t, ht, hl, ho⟩
  · refine ⟨{ testState i s with safDev.skipped := (testState i s).safDev.skipped ++ [i.val] }, rfl, ?_, testState_saf i s⟩
    rw [testState_new hnew]
  · exact ⟨testState i s, rfl, testState_saf i s⟩
  · exact ⟨trip b 19 0 s, if_pos h, trip_latches b rfl 0 s⟩
  · exact ⟨trip b 16 s.saf[b].side.ch21 s, if_pos (coilsClosed_of h),
      (trip_latched _ _ _ _).trans (latchCode_free rfl _), (trip_opens _ _ _ _).1⟩

end Sys2Proof.Safety
end

section
/-! SUPPORT. Emergency stops, heartbeats and watchdogs (R267, R268, R274 to R277). -/

set_option Elab.async false

namespace Sys2Proof.Safety

open Sys2Proof.Machine

/-! ## Emergency stops -/

/-- The power die's state with the inputs read at two voltages, in mV (R267). -/
def readInputs (a b : Nat) (d : SafDev) : SafDev :=
  { d with estopA := estopHigh a, estopB := estopHigh b, discLow := d.discLow || (d.disc && !estopHigh a && !estopHigh b) }

theorem emergencyStop_low {s : State} {a b : Nat} (hs : s.safDev.stop = false) (h : a ≤ 7000 ∨ b ≤ 7000) :
    exec (.emergencyStop a b) s
      = .next (fsEnter .estop 1 (stopEvent { s with safDev := { readInputs a b s.safDev with stop := true } })) := by
  have hlow : (!estopHigh a || !estopHigh b) = true := by
    unfold estopHigh
    simpa using h
  show execEmergencyStop a b s = _
  unfold execEmergencyStop readInputs
  simp only [hlow, hs, Bool.not_not, Bool.not_false, Bool.and_self, if_true]

theorem emergencyStop_still {s : State} {a b : Nat} (h : s.safDev.stop = true ∨ (7000 < a ∧ 7000 < b)) :
    exec (.emergencyStop a b) s = .next { s with safDev := readInputs a b s.safDev } := by
  have hlow : ((!estopHigh a || !estopHigh b) && !s.safDev.stop) = false := by
    unfold estopHigh
    rcases h with h | ⟨ha, hb⟩
    · rw [h, Bool.not_true, Bool.and_false]
    · rw [decide_eq_true ha, decide_eq_true hb]
      rfl
  show execEmergencyStop a b s = _
  unfold execEmergencyStop readInputs
  simp only [hlow, Bool.not_not, Bool.false_eq_true, if_false]

theorem stopEvent_safDev (s : State) : (stopEvent s).safDev = s.safDev := emit_safDev _ _ _ _

theorem stopEvent_saf (s : State) : (stopEvent s).saf = s.saf := emit_saf _ _ _ _

/-- The power die's state once the stop is over (R268). -/
def endedStop (d : SafDev) : SafDev := { d with estopA := true, estopB := true, stop := false, disc := false, discLow := false }

theorem emergencyStopRelease_ends {s : State} (hs : s.safDev.stop = true) (hd : s.safDev.disc = false) :
    exec .emergencyStopRelease s
      = .next (driveAll (fsLeave .estop (stopEvent { s with safDev := endedStop s.safDev }))) := by
  show execEmergencyStopRelease s = _
  unfold execEmergencyStopRelease
  dsimp only
  rw [hd, Bool.false_and, if_neg Bool.false_ne_true, if_pos hs]
  rfl

theorem driveAll_safDev (s : State) : (driveAll s).safDev = s.safDev :=
  (driveAll_changes (w₀ := allBut .powerDie) (.refl _ s)).same

/-- A stop that ends takes its cause with it, and moves no coil. -/
theorem emergencyStopRelease_completes {s : State} (hs : s.safDev.stop = true) (hd : s.safDev.disc = false) :
    Completes .emergencyStopRelease s fun t => t.safDev.stop = false ∧ FsCause.estop ∉ t.safDev.fsCauses
      ∧ ∀ (c : Bough) (k : Fin 3), t.saf[c].coils[k].driven = s.saf[c].coils[k].driven := by
  refine ⟨_, emergencyStopRelease_ends hs hd, ?_, ?_, fun c k => ?_⟩
  · rw [driveAll_safDev, (fsLeave_causes _ _).2, stopEvent_safDev]
    rfl
  · rw [driveAll_safDev]
    exact not_mem_fsLeave _ _
  · rw [(driveAll_changes (.refl (allBut .coils) _)).driven, fsLeave_driven, stopEvent_saf]

/-- Settles O32: a new stop is a cause of the fail-safe, which opens every coil. -/
theorem emergencyStops : Obligations.EmergencyStops := by
  unfold Obligations.EmergencyStops
  refine fun s => ⟨fun hs hn a b h => ?_, fun hs a b => ?_, fun a b ha hb => ?_, emergencyStopRelease_completes,
    fun hd hl => ?_, fun hne hd => ?_⟩
  · have hn' : FsCause.estop ∉
        (stopEvent { s with safDev := { readInputs a b s.safDev with stop := true } }).safDev.fsCauses := by
      rw [stopEvent_safDev]
      exact hn
    refine ⟨_, emergencyStop_low hs h, ?_, mem_fsEnter_causes _ _ _, fun c => (fsEnter_opensAll hn' 1 c).1⟩
    rw [fsEnter_stop, stopEvent_safDev]
  · exact ⟨_, emergencyStop_still (.inl hs), hs, rfl, rfl, rfl⟩
  · exact ⟨_, emergencyStop_still (.inr ⟨ha, hb⟩), rfl, rfl, rfl⟩
  · refine ⟨{ s with safDev := { s.safDev with estopA := true, estopB := true } }, if_pos ?_, rfl, hd, rfl⟩
    simp [hd, hl]
  · refine ⟨tripAll 2 { s with safDev := { s.safDev with disc := true, discLow := false } }, if_neg ?_, ?_,
      fun c => (tripAll_opens 2 _ c).1⟩
    · simp [hne, hd]
    · rw [tripAll_safDev]

/-! ## Heartbeats -/

/-- The power die's state after one more period without a valid heartbeat (R277). -/
def missedPeriod (d : SafDev) : SafDev := { d with hbMissed := d.hbMissed + 1, hbValid := 0, crcFails := 0 }

theorem heartbeatPeriodMissed_eq (s : State) : exec .heartbeatPeriodMissed s
    = if 3 ≤ s.safDev.hbMissed + 1 then .next (fsEnter .wdog 10 { s with safDev := missedPeriod s.safDev })
      else .next { s with safDev := missedPeriod s.safDev } := rfl

/-- A new cause that a command enters: it stands, and every coil is open. -/
theorem fsEnter_completes {i : Instr} {s u : State} {c : FsCause} {code : Nat} (he : exec i s = .next (fsEnter c code u))
    (hn : c ∉ u.safDev.fsCauses) :
    Completes i s fun t => c ∈ t.safDev.fsCauses ∧ ∀ (b : Bough) (k : Fin 3), t.saf[b].coils[k].driven = false :=
  ⟨_, he, mem_fsEnter_causes _ _ _, fun b => (fsEnter_opensAll hn code b).1⟩

/-- The power die's state after a frame that passed its CRC (R277). -/
def goodFrame (d : SafDev) : SafDev := { d with linkValid := d.linkValid + 1 }

/-- The power die's state after a valid heartbeat (R274, R277). -/
def goodBeat (n : Nat) (d : SafDev) : SafDev :=
  { d with hbMissed := 0, crcFails := 0, hbValid := d.hbValid + 1, hbExpect := (n + 1) % 16, firstBeat := true }

theorem beatGood_later {s : State} (n : Nat) (hf : s.safDev.firstBeat = true) : beatGood n s
    = if 10 ≤ s.safDev.hbValid + 1 then fsLeave .wdog { s with safDev := goodBeat n s.safDev }
      else { s with safDev := goodBeat n s.safDev } := by
  unfold beatGood
  extract_lets first die t u
  have hu : u = t := if_neg (by simp [first, hf])
  rw [hu]
  rfl

/-- A heartbeat with the value expected, after the first and before the link's tenth good frame. -/
theorem heartbeatFrame_expected {s : State} {n : BitVec 4} (hn : n.toNat = s.safDev.hbExpect)
    (hf : s.safDev.firstBeat = true) (hl : s.safDev.linkValid < 9) : exec (.heartbeatFrame true n true) s
      = .next (if 10 ≤ s.safDev.hbValid + 1 then fsLeave .wdog { s with safDev := goodBeat n.toNat (goodFrame s.safDev) }
        else { s with safDev := goodBeat n.toNat (goodFrame s.safDev) }) := by
  have hg : linkGood s = { s with safDev := goodFrame s.safDev } := by
    unfold linkGood
    dsimp only
    rw [if_neg (by omega)]
    rfl
  have hb : (n.toNat = (goodFrame s.safDev).hbExpect || !(goodFrame s.safDev).firstBeat) = true := by
    simp [goodFrame, hn]
  show execHeartbeatFrame true n true s = _
  unfold execHeartbeatFrame
  rw [hg, if_neg (by decide), if_neg (by decide), if_pos hb]
  exact congrArg Host.Outcome.next (beatGood_later (s := { s with safDev := goodFrame s.safDev }) _ hf)

/-- The power die's state after a frame that failed its CRC (R277). -/
def badFrame (d : SafDev) : SafDev := { d with linkValid := 0, crcFails := d.crcFails + 1 }

theorem heartbeatFrame_bad (b : Bool) (n : BitVec 4) (s : State) : exec (.heartbeatFrame b n false) s
    = .next (if 16 < s.safDev.crcFails + 1 then fsEnter .link 0 { s with safDev := badFrame s.safDev }
      else { s with safDev := badFrame s.safDev }) := rfl

/-! ## Watchdogs -/

theorem getLsbD_setBit (w : BitVec 2) (c : Fin 2) : (w ||| BitVec.ofNat 2 (1 <<< c.val)).getLsbD c.val = true := by
  revert w c
  decide

theorem getLsbD_clearBit (w : BitVec 2) (c : Fin 2) : (w &&& ~~~BitVec.ofNat 2 (1 <<< c.val)).getLsbD c.val = false := by
  revert w c
  decide

/-- A core that did not serve its watchdog: event 0x040B, and its boughs trip with code 11 (R276, R302). -/
def watchdogTrips (c : Fin 2) (s : State) : State :=
  forBoughs (fun b t => if coreOf b = c then trip b 11 0 t else t) (emit 0x040B 255 (leN 1 c.val)
    { s with safDev.wdog := s.safDev.wdog ||| BitVec.ofNat 2 (1 <<< c.val) })

theorem logicWatchdogExpired_unserved {c : Fin 2} {s : State} (h : s.safDev.serviced.getLsbD c.val = false) :
    exec (.logicWatchdogExpired c) s = .next (watchdogTrips c s) := if_neg (by rw [h]; exact Bool.false_ne_true)

theorem watchdogTrips_safDev (c : Fin 2) (s : State) : (watchdogTrips c s).safDev
    = { s.safDev with wdog := s.safDev.wdog ||| BitVec.ofNat 2 (1 <<< c.val) } := by
  unfold watchdogTrips
  generalize hu : ({ s with safDev.wdog := s.safDev.wdog ||| BitVec.ofNat 2 (1 <<< c.val) } : State) = u
  have h : Kept (allBut .powerDie) u _ := .forBoughs (fun b t => if coreOf b = c then trip b 11 0 t else t)
    (emit_changes (.refl _ u) 0x040B 255 (leN 1 c.val)) fun b v hv => .ite (fun _ => trip_changes hv b _ _) fun _ => hv
  rw [h.same, ← hu]

theorem watchdogTrips_opens {c : Fin 2} {b : Bough} (h : coreOf b = c) (s : State) : Opened (watchdogTrips c s).saf[b] := by
  refine forBoughs_at (P := fun t => Opened t.saf[b]) b _ (fun u => ?_) fun d u hu => ?_
  · rw [if_pos h]
    exact trip_opens _ _ _ _
  · split
    · exact trip_stays _ _ _ _ hu
    · exact hu

/-- Settles O33: the counts of heartbeats, of periods and of bad frames, and what the power die does at their ends. -/
theorem heartbeatAndWatchdogs : Obligations.HeartbeatAndWatchdogs := by
  unfold Obligations.HeartbeatAndWatchdogs
  refine fun s => ⟨fun hp hr => ?_, fun hp => if_pos (by simp [hp]), fun hm => ?_, fun hm hn => ?_,
    fun n hn hf hl => ⟨fun hv => ?_, fun hv => ?_⟩, fun b n hn => ⟨fun hc => ?_, fun hc => ?_⟩,
    fun c => ⟨fun hd => ?_, fun hd => ?_, fun hd => ?_⟩⟩
  · exact ⟨{ s with safDev.hbCount := (s.safDev.hbCount + 1) % 16 }, if_neg (by simp [hp, hr]), rfl⟩
  · exact ⟨_, (heartbeatPeriodMissed_eq s).trans (if_neg (by omega)), rfl, rfl, rfl⟩
  · exact fsEnter_completes ((heartbeatPeriodMissed_eq s).trans (if_pos (by omega))) hn
  · have he := heartbeatFrame_expected hn hf hl
    rw [if_pos (by omega)] at he
    exact ⟨_, he, not_mem_fsLeave _ _, fun c k => fsLeave_driven _ _ c k⟩
  · have he := heartbeatFrame_expected hn hf hl
    rw [if_neg (by omega)] at he
    exact ⟨_, he, rfl, rfl, rfl⟩
  · have he := heartbeatFrame_bad b n s
    rw [if_neg (by omega)] at he
    exact ⟨_, he, rfl, rfl⟩
  · have he := heartbeatFrame_bad b n s
    rw [if_pos (by omega)] at he
    exact fsEnter_completes he hn
  · refine ⟨{ s with safDev.serviced := s.safDev.serviced ||| BitVec.ofNat 2 (1 <<< c.val) }, if_neg ?_,
      getLsbD_setBit _ _, rfl⟩
    rw [hd]
    exact Bool.false_ne_true
  · exact ⟨{ s with safDev.serviced := s.safDev.serviced &&& ~~~BitVec.ofNat 2 (1 <<< c.val) }, if_pos hd,
      getLsbD_clearBit _ _, rfl⟩
  · refine ⟨_, logicWatchdogExpired_unserved hd, ?_, fun b k h => (watchdogTrips_opens h s).1 k⟩
    rw [watchdogTrips_safDev]
    exact getLsbD_setBit _ _

end Sys2Proof.Safety
end

section
/-! SUPPORT. SAF_CLEAR and SAF_HOLD (R278, R288, R291, R748). -/

set_option Elab.async false

namespace Sys2Proof.Safety

open Sys2Proof.Machine

/-! ## Room for the answer -/

/-- An operation that leaves the queue and the phase alone leaves the room for an answer. -/
theorem CanAnswer.kept {s t : State} (h : CanAnswer s) (ke : Kept (allBut .events) s t) (ks : Kept (allBut .start) s t) :
    CanAnswer t := h.of_eq (congrArg Prod.fst ke.same) ks.same

theorem onPort_canAnswer {s : State} (h : CanAnswer s) (b : Bough) (f : Port → Port) : CanAnswer (s.onPort b f) := h

theorem onSaf_canAnswer {s : State} (h : CanAnswer s) (b : Bough) (f : SafBough → SafBough) : CanAnswer (s.onSaf b f) := h

theorem setOutput_canAnswer {s : State} (h : CanAnswer s) (b : Bough) : CanAnswer (setOutput b s) := by
  unfold setOutput
  dsimp only
  have hp (f : Port → Port) := onPort_canAnswer h b f
  have hd (f : Port → Port) (g : SafBough → SafBough) := onSaf_canAnswer (hp f) b g
  split
  · refine emit_canAnswer ?_ _ _ _
    split
    · exact hd _ _
    · exact hp _
  · split
    · exact hd _ _
    · exact hp _

theorem releaseHeld_canAnswer {s : State} (h : CanAnswer s) (b : Bough) : CanAnswer (releaseHeld b s) := by
  unfold releaseHeld forBoughs
  refine List.foldlRecOn (motive := CanAnswer) _ _ h fun t ht c _ => ?_
  dsimp only
  split
  · exact setOutput_canAnswer (onPort_canAnswer ht c _) c
  · exact ht

theorem backToA_canAnswer {s : State} (h : CanAnswer s) (b : Bough) : CanAnswer (backToA b s) := by
  have hl : CanAnswer (leaveNetwork b s) :=
    h.kept (leaveNetwork_changes (.refl _ s) b) (leaveNetwork_changes (.refl _ s) b)
  exact onPort_canAnswer (releaseHeld_canAnswer (onPort_canAnswer hl b _) b) b _

/-- The pilot brought up to date leaves room for an answer. -/
theorem driveOutput_canAnswer {s : State} (h : CanAnswer s) (b : Bough) : CanAnswer (driveOutput b s) := by
  have ho := setOutput_canAnswer h b
  unfold driveOutput
  dsimp only
  split
  · exact backToA_canAnswer ho b
  · exact ho

theorem auxAll_canAnswer {s : State} (h : CanAnswer s) : CanAnswer (auxAll s) :=
  h.kept (auxAll_changes (.refl _ s)) (auxAll_changes (.refl _ s))

/-! ## SAF_CLEAR -/

theorem onHdr_bough {h : CmdHdr} {b : Bough} (hb : h.bough = b.val) (s : State) (f : Bough → Res) : onHdr h s f = f b := by
  unfold onHdr
  rw [hdrBough_of_val hb]

/-- The answer of SAF_CLEAR carries the result of the clearing. -/
theorem safClear_eq {h : CmdHdr} {b : Bough} (hb : h.bough = b.val) (m : Byte) {s u : State} {r : Nat}
    (hc : clearLatches b m s = (r, u)) : exec (.safClear h m) s = .next (answer 0x0408 b.val h.tag (leN 1 r) u) := by
  show onHdr h s _ = _
  rw [onHdr_bough hb, hc]

theorem clearLatches_driven {b : Bough} {s : State} (m : Byte) (h : coilsClosed s b = true) :
    clearLatches b m s = (3, s) := if_pos h

theorem clearLatches_none {b : Bough} {s : State} {m : Byte} (h : coilsClosed s b = false)
    (hsel : s.saf[b].latched.filter (clearSelects m) = []) : clearLatches b m s = (2, s) := by
  unfold clearLatches
  dsimp only
  rw [h, if_neg Bool.false_ne_true, hsel]
  rfl

/-- The bough's safety state without the codes of a list; the mark of a weld goes with code 14 (R748). -/
def withoutCodes (gone : List Nat) (f : SafBough) : SafBough :=
  { f with
    latched := f.latched.filter (fun c => !gone.contains c)
    coils := if gone.contains 14 then f.coils.map (fun c => { c with welded := false }) else f.coils }

/-- A single latched code that the mask selects goes where its condition is met, and stays where it is not. -/
theorem clearLatches_one {b : Bough} {s : State} {m : Byte} {c : Nat} (h : coilsClosed s b = false)
    (hl : s.saf[b].latched = [c]) (hsel : clearSelects m c = true) :
    clearLatches b m s = if mayClear s b c then (0, auxAll (s.onSaf b (withoutCodes [c])))
      else (1, auxAll (s.onSaf b (withoutCodes []))) := by
  have hf : [c].filter (clearSelects m) = [c] := by simp [hsel]
  unfold clearLatches
  dsimp only
  rw [h, if_neg Bool.false_ne_true, hl, hf, if_neg (by simp)]
  by_cases hm : mayClear s b c = true
  · rw [List.filter_cons_of_pos hm, List.filter_nil, if_pos rfl, if_pos hm]
    rfl
  · rw [List.filter_cons_of_neg hm, List.filter_nil, if_neg (by simp), if_neg hm]
    rfl

/-- SAF_CLEAR of a single latched code: what stays latched, and the answer. -/
theorem safClear_one {h : CmdHdr} {b : Bough} (hb : h.bough = b.val) {s : State} {m : Byte} {r : Nat} {gone : List Nat}
    (hc : clearLatches b m s = (r, auxAll (s.onSaf b (withoutCodes gone)))) :
    Completes (.safClear h m) s fun t => t.saf[b].latched = s.saf[b].latched.filter (fun c => !gone.contains c)
      ∧ (CanAnswer s → lastEvent t = some (0x0408, b.val, h.tag, leN 1 r)) := by
  refine ⟨_, safClear_eq hb m hc, ?_, fun ha => answer_last (auxAll_canAnswer (onSaf_canAnswer ha b _)) _ _ _ _⟩
  rw [answer_saf, (auxAll_left _).latched, State.onSaf_saf, modAt_get]
  rfl

/-! ## SAF_HOLD -/

/-- A hold is set at once, whatever the session does (R288, R291). -/
theorem safHoldSet_holds {h : CmdHdr} {b : Bough} (hb : h.bough = b.val) (s : State) :
    Completes (.safHoldSet h) s fun t => t.saf[b].holdCmd = true ∧ heldOut t b = true := by
  have hcmd : (answer 0x0408 b.val h.tag (leN 1 0)
      (holdSession b 0 (s.onSaf b fun f => { f with holdCmd := true }))).saf[b].holdCmd = true := by
    rw [answer_saf, (holdSession_left b 0 _).holdCmd, State.onSaf_saf, modAt_get]
  refine ⟨_, onHdr_bough hb s _, hcmd, ?_⟩
  unfold heldOut
  rw [hcmd]
  rfl

/-- A release ends the hold of the command and no other (R291). -/
theorem safHoldRelease_releases {h : CmdHdr} {b : Bough} (hb : h.bough = b.val) (s : State) :
    Completes (.safHoldRelease h) s fun t => t.saf[b].holdCmd = false ∧ t.saf[b].holdStart = s.saf[b].holdStart
      ∧ t.saf[b].holdOther = s.saf[b].holdOther ∧ t.saf[b].holdUpd = s.saf[b].holdUpd
      ∧ (CanAnswer s → lastEvent t = some (0x0408, b.val, h.tag, [0])) := by
  have hkept := driveOutput_saf b (s.onSaf b fun f => { f with holdCmd := false }) b
  rw [State.onSaf_saf, modAt_get] at hkept
  refine ⟨_, onHdr_bough hb s _, ?_, ?_, ?_, ?_, fun ha =>
    answer_last (driveOutput_canAnswer (onSaf_canAnswer ha b _) b) _ _ _ _⟩
  all_goals rw [answer_saf, hkept]

/-- Settles O35: a clear by its refusals and by the condition of its code, a hold by what its release leaves. -/
theorem safetyCommands : Obligations.SafetyCommands := by
  unfold Obligations.SafetyCommands
  refine fun s h b hb => ⟨fun m hd ha => ?_, fun m ho hsel ha => ?_, fun m c ho hl hsel hm => ?_,
    fun m c ho hl hsel hm => ?_, safHoldSet_holds hb s, safHoldRelease_releases hb s⟩
  · exact ⟨_, safClear_eq hb m (clearLatches_driven m hd), answer_saf _ _ _ _ _, answer_last ha _ _ _ _⟩
  · exact ⟨_, safClear_eq hb m (clearLatches_none ho hsel), answer_saf _ _ _ _ _, answer_last ha _ _ _ _⟩
  · obtain ⟨t, ht, hlatched, hlast⟩ := safClear_one hb ((clearLatches_one ho hl hsel).trans (if_pos hm))
    exact ⟨t, ht, by rw [hlatched, hl]; simp, hlast⟩
  · obtain ⟨t, ht, hlatched, hlast⟩ :=
      safClear_one hb ((clearLatches_one ho hl hsel).trans (if_neg (by rw [hm]; exact Bool.false_ne_true)))
    exact ⟨t, ht, by rw [hlatched, hl]; simp, hlast⟩

end Sys2Proof.Safety
end

section
/-! SUPPORT. Why an ordinary opening may leave no event 0x0402 in the event queue (R262, R294, R714): a closing request that it
ends takes the last room for events with event 0x0407. -/

set_option Elab.async false

namespace Sys2Proof.Safety

open Sys2Proof.Machine

/-- A report of closed coils that the host has not read, 13 bytes of the queue. -/
def unreadClosed : Msg := { type := 0x0401, bough := 0, body := [7, 20, 0, 0, 0] }

/-- A started device whose bough 0 is asked to close and to open, and whose queue has room for 14 bytes of events. -/
def unread : State :=
  { State.reset with
    start.done := 8
    saf := State.reset.saf.set 0 { closeReq := true, openReq := true }
    host.eq := List.replicate 4410 unreadClosed }

theorem unread_canReport : CanReport 0x0402 1 unread := ⟨rfl, by decide +kernel, by decide +kernel⟩

/-- The last event after a command's step. -/
def lastEventAfter (r : Res) : Option (Nat × Nat × Nat × List Byte) :=
  match r with
  | .next t => lastEvent t
  | _ => none

/-- The queue ends with event 0x0407, the step of a closing request and cause 0. -/
theorem lastEvent_ordinaryOpening_unread :
    lastEventAfter (exec (.ordinaryOpening 0) unread) = some (0x0407, 0, 0, [2, 0]) := by decide +kernel

/-- Refutes O30: bough 0 is asked to close and to open, and the queue holds 57,330 of the 57,344 bytes that events may fill.
The opening first ends the closing request, and its event 0x0407 takes 10 bytes (R294); event 0x0402 needs 9 and is lost
(R714). -/
theorem not_openingAndWelds : ¬ Obligations.OpeningAndWelds := by
  intro h
  obtain ⟨t, ht, -, -, -, -, -, hlast⟩ := (h unread 0).1 rfl rfl unread_canReport
  have hafter := lastEvent_ordinaryOpening_unread
  rw [ht] at hafter
  exact absurd (hlast.symm.trans hafter) (by decide)

end Sys2Proof.Safety
end

section
/-! SUPPORT. Frames of the saves, the billing boundary and the check value (R364, R403, R422), and the frames of every
command of sampling, the energy engine, the heartwood, the load channels and the display. -/

set_option Elab.async false

namespace Sys2Proof.Safety

open Sys2Proof.Machine

/-- What a save may change: the entry and the journal written, and what a fatal error does when no slot holds the entry
(R364, R367). -/
def saveParts : List Part :=
  [.free, .events, .sessions, .powerLinks, .powerDie, .billed, .heartwood, .display, .tag, .mirror, .memory, .cells,
    .recorder, .flash, .tagMem]

theorem saveTick_frame (slotFails : Nat) (halfFails : Bool) : Changes saveParts (.saveTick slotFails halfFails) :=
  fun s => by
  show KeptR _ s (execSaveTick slotFails halfFails s)
  unfold execSaveTick
  extract_lets nv flash t bil u cause bil' v w
  have ht : Kept (parts saveParts) s t := setFlash_changes (.refl _ s) _
  have hu : Kept (parts saveParts) s u := failSlots_changes (setHeartwood_changes ht _) _
  have hv : Kept (parts saveParts) s v := setHeartwood_changes hu _
  have hw : Kept (parts saveParts) s w := .ite (fun _ => hv) fun _ => writeSave_changes hv _
  exact KeptR.ite (fun _ => .same) fun _ => KeptR.ite (fun _ => .next (fatalError_changes hu _ _ _)) fun _ =>
    .next (.forBoughs _ hw fun _ _ hx => journalSession_changes hx _)

theorem billingBoundary_frame :
    Changes [.free, .pages, .commits, .events, .billed, .heartwood, .recorder, .backup, .flash] .billingBoundary :=
  fun s => KeptR.ite (fun _ => .next (boundary_changes (.refl _ s))) fun _ => .same

theorem checkValueRecompute_frame :
    Changes [.free, .events, .powerLinks, .powerDie, .heartwood, .display, .tag, .mirror, .recorder, .flash, .tagMem]
      .checkValueRecompute := fun s =>
  KeptR.ite (fun _ => .next (recomputeCheck_changes (.refl _ s))) fun _ => .same

theorem dispbtnPress_frame :
    Changes [.free, .events, .powerLinks, .powerDie, .heartwood, .loads, .display, .tag, .mirror, .recorder, .flash,
      .tagMem] .dispbtnPress := fun s => by
  show KeptR _ s (execDispbtnPress s)
  unfold execDispbtnPress
  have hp := setDisplay_changes (.refl (parts [.free, .events, .powerLinks, .powerDie, .heartwood, .loads, .display,
    .tag, .mirror, .recorder, .flash, .tagMem]) s) { s.lcd with page := nextPage s }
  refine KeptR.ite (fun _ => .same) fun _ => KeptR.ite (fun _ => .next ?_) fun _ => KeptR.ite (fun _ => .next ?_) fun _ =>
    .same
  · exact auxAll_changes (leaveLowPower_changes (.refl _ s))
  · exact .ite (fun _ => recomputeCheck_changes hp) fun _ => hp

/-- Settles O57: each command's frame is put together from the frames of the operations that it calls. -/
theorem framesOfMeteringLoadsAndDisplay : Obligations.FramesOfMeteringLoadsAndDisplay := by
  unfold Obligations.FramesOfMeteringLoadsAndDisplay
  exact ⟨sampleFrame_frame, energyResultAccept_frame, patrolVisitEnd_frame, modulatorStuck_frame,
    reserveChainsFilled_frame, hotSwapFitStart_frame, hotSwapFitEnd_frame, mtrCal_frame, mtrCalEnd_frame,
    mtrSwapHot_frame, mtrSwapReturn_frame, swapReturnCompareEnd_frame, mtrSwapAbort_frame, mtrSwapReadmit_frame,
    cycleEnd_frame, noCrossingTimeout_frame, noGridCycle_frame, meteringGapOpen_frame, saveTick_frame, nrgRead_frame,
    nrgReadReply_frame, gateSilence_frame, bilTimeSet_frame, bilReadAck_frame, bilReadNow_frame, bilInfo_frame,
    bilReadGet_frame, auxSet_frame, auxClear_frame, inrushWindowEnd_frame, channelOvercurrent_frame,
    channelThermalFault_frame, hotClear_frame, retryRestart_frame, retryCountReset_frame, lampCompensation_frame,
    groupSupplyReturn_frame, vlcdOutOfRange_frame, channelLimitReached_frame, calendarSecond_frame,
    calendarRangeEnd_frame, heartwoodConversion_frame, rateEvaluation_frame, billingBoundary_frame,
    readingRelease_frame, checkValueRecompute_frame, isenseScanStep_frame, displayUpdate_frame,
    displayFrameStart_frame, vlcdAdjust_frame, displayRestart_frame, updateTimeout_frame, dispbtnPress_frame,
    dispbtnHold_frame, pageIdleReturn_frame, lowPowerEntry_frame⟩

end Sys2Proof.Safety
end

section
/-! SUPPORT. A tick's samples, bough by bough (R64, R308, R311, R312, R746): what the frame of one bough leaves of another, the
value that it gives a channel, and the flits that it takes of its crossing. -/

set_option Elab.async false

namespace Sys2Proof.Safety

open Sys2Proof.Machine

/-! ## One bough's turn -/

/-- What holds of bough b until its turn and what its turn brings about, when the turns of the others leave both. -/
theorem forBoughs_turn {P Q : State → Prop} {f : Bough → State → State} {s : State} (b : Bough) (h0 : P s)
    (hbefore : ∀ c u, c ≠ b → P u → P (f c u)) (hturn : ∀ u, P u → Q (f b u))
    (hafter : ∀ c u, c ≠ b → Q u → Q (f c u)) : Q (forBoughs f s) := by
  have hm : ∀ b : Bough, b ∈ allBoughs := by decide
  have hd : allBoughs.Nodup := by decide
  obtain ⟨before, after, hl⟩ := List.append_of_mem (hm b)
  rw [hl, List.nodup_middle, List.nodup_cons, List.mem_append, not_or] at hd
  unfold forBoughs
  rw [hl, List.foldl_append, List.foldl_cons]
  have hP := List.foldlRecOn before _ h0 fun u hu c hc => hbefore c u (fun e => hd.1.1 (e ▸ hc)) hu
  exact List.foldlRecOn after _ (hturn _ hP) fun u hu c hc => hafter c u (fun e => hd.1.2 (e ▸ hc)) hu

/-- The settings and the sampling state of bough b are those of s. -/
structure SamplesOf (s : State) (b : Bough) (u : State) : Prop where
  applied : u.host.applied = s.host.applied
  mtr : u.mtr[b] = s.mtr[b]

section
variable (s : State) (b : Bough) (bs : BoughSamples)

theorem takeSamples_applied : (takeSamples b bs s).host.applied = s.host.applied :=
  congrArg Prod.snd (takeSamples_changes (w₀ := allBut .pages) (.refl _ s) b bs).same

/-- The frame's way round the ring leaves the sampling state as the bough kept it. -/
theorem takeSamples_mtr : (takeSamples b bs s).mtr
    = (keepSamples b bs (frameValues (fillChains b bs s) b bs) (fillChains b bs s)).mtr := by
  have hcross (f : List (BitVec 32)) (u : State) : (crossFrame b f u).mtr = u.mtr :=
    (crossFrame_changes (w₀ := allBut .sampling) (.refl _ u) b f).same
  have hnote (ws : List MWord) (u : State) : (noteOverloads b ws u).mtr = u.mtr :=
    (noteOverloads_changes (w₀ := allBut .sampling) (.refl _ u) b ws).same
  unfold takeSamples
  dsimp only
  rw [hcross]
  unfold keepSamples
  simp only [State.onMtr_mtr, hnote]

theorem takeSamples_mtr_other {c : Bough} (h : c ≠ b) : (takeSamples c bs s).mtr[b] = s.mtr[b] := by
  rw [takeSamples_mtr]
  unfold keepSamples fillChains
  simp only [State.onMtr_mtr, modAt_get_other _ _ _ _ h]

theorem keepSamples_value (ws : List MWord) (n : Fin 24) :
    (keepSamples b bs ws s).mtr[b].ch[n].value = (wordAt ws n.val).1 := by
  unfold keepSamples
  simp [keepSample]

theorem wordAt_frameValues (n : Fin 24) : wordAt (frameValues s b bs) n.val = frameValue s b bs n.val := by
  unfold wordAt frameValues
  simp

theorem takeSamples_value (n : Fin 24) :
    (takeSamples b bs s).mtr[b].ch[n].value = (frameValue (fillChains b bs s) b bs n.val).1 := by
  rw [takeSamples_mtr, keepSamples_value, wordAt_frameValues]

end

section
variable {s u : State} {b : Bough}

theorem SamplesOf.fillChains (h : SamplesOf s b u) (bs : BoughSamples) :
    SamplesOf (fillChains b bs s) b (fillChains b bs u) := by
  refine ⟨h.applied, ?_⟩
  unfold Machine.fillChains
  simp only [State.onMtr_mtr, modAt_get, h.mtr]

/-- A channel's value is made of its bough's sampling state and the settings. -/
theorem SamplesOf.frameValue (h : SamplesOf s b u) (bs : BoughSamples) (n : Nat) :
    frameValue u b bs n = frameValue s b bs n := by
  have hc (a : Nat) : u.cfg a = s.cfg a := congrArg (pageWord · a) h.applied
  unfold Machine.frameValue trimmed delayOf State.mtrShape State.mtrOffset State.mtrGain
  simp only [h.mtr, hc]

end

/-- The tick's frames give every channel of every bough the value of its own frame. -/
theorem sampleFrames_value (s : State) (bs : Vector BoughSamples 8) (b : Bough) (n : Fin 24) :
    (forBoughs (fun b t => takeSamples b bs[b] t) s).mtr[b].ch[n].value
      = (frameValue (fillChains b bs[b] s) b bs[b] n.val).1 := by
  refine forBoughs_turn (P := SamplesOf s b)
    (Q := fun t => t.mtr[b].ch[n].value = (frameValue (fillChains b bs[b] s) b bs[b] n.val).1) b ⟨rfl, rfl⟩ ?_ ?_ ?_
  · exact fun c u hc h => ⟨(takeSamples_applied u c _).trans h.applied, (takeSamples_mtr_other u b _ hc).trans h.mtr⟩
  · exact fun u h => by rw [takeSamples_value, (h.fillChains _).frameValue]
  · exact fun c u hc h => by rw [takeSamples_mtr_other u b _ hc, h]

/-! ## The value of a channel -/

section
variable (s : State) (b : Bough) (bs : BoughSamples) (n : Fin 24)

/-- The chains take the tick's sample, and a channel keeps all else. -/
theorem fillChains_ch :
    (fillChains b bs s).mtr[b].ch[n] = { s.mtr[b].ch[n] with m3 := (bs.chans[n].x :: s.mtr[b].ch[n].m3).take 9 } := by
  unfold fillChains
  simp

theorem fillChains_served : (fillChains b bs s).mtr[b].served = s.mtr[b].served := by
  unfold fillChains
  simp

theorem getN_val {α : Type} {k : Nat} (v : Vector α k) (i : Fin k) (d : α) : getN v i.val d = v[i] := dif_pos i.isLt

theorem fillChains_chFails : chFails (fillChains b bs s).mtr[b] n.val = chFails s.mtr[b] n.val := by
  unfold chFails
  simp only [getN_val, fillChains_ch, fillChains_served]

variable {s b bs n}

/-- R311: a channel that no modulator serves gives 0. -/
theorem frameValue_fails (h : chFails s.mtr[b] n.val = true) : (frameValue (fillChains b bs s) b bs n.val).1 = 0 := by
  unfold frameValue
  simp only [fillChains_chFails, h, if_true]

theorem servedBeyond_own (h : s.mtr[b].served ≠ n.val) :
    servedBeyond (fillChains b bs s).mtr[b] n.val bs = bs.chans[n] := by
  unfold servedBeyond
  rw [fillChains_served, if_neg h]
  simp

theorem servedSample_own (h : s.mtr[b].served ≠ n.val) (d : Int) :
    servedSample (fillChains b bs s).mtr[b] n.val d
      = delayed ((bs.chans[n].x :: s.mtr[b].ch[n].m3).take 9) d := by
  unfold servedSample
  rw [fillChains_served, if_pos (bne_iff_ne.mpr h), getN_val, fillChains_ch]

/-- R746: beyond full scale the value is the end of the range on the side of the overload. -/
theorem frameValue_beyond (hf : chFails s.mtr[b] n.val = false) (hs : s.mtr[b].served ≠ n.val)
    (hb : bs.chans[n].beyond = true) : (frameValue (fillChains b bs s) b bs n.val).1
      = overloadValue s.mtr[b].ch[n].ovrRun s.mtr[b].ch[n].ovrNeg bs.chans[n] := by
  unfold frameValue
  simp only [fillChains_chFails, hf, servedBeyond_own hs, hb, getN_val, fillChains_ch, Bool.false_eq_true, if_false,
    if_true]

theorem saturate_fst (x : Int) : (saturate x).1 = clampI (-8388607) 8388607 x := by
  unfold saturate clampI
  split
  · rfl
  · split <;> rfl

/-- R308, R312: within full scale the value is the delayed sample, trimmed and held in the range. -/
theorem frameValue_within (hf : chFails s.mtr[b] n.val = false) (hs : s.mtr[b].served ≠ n.val)
    (hb : bs.chans[n].beyond = false) : (frameValue (fillChains b bs s) b bs n.val).1
      = (trimmed s b n.val (delayed ((bs.chans[n].x :: s.mtr[b].ch[n].m3).take 9) (delayOf s b n.val))).1 := by
  unfold frameValue
  simp only [fillChains_chFails, hf, servedBeyond_own hs, hb, servedSample_own hs, Bool.false_eq_true, if_false]
  rfl

end

/-! ## The flits of a crossing -/

/-- The sample crossing of a bough: boughs 0 to 3 share one, 4 to 7 the other (R64). -/
def crossingOf (b : Bough) : Fin 2 := if b.val < 4 then 0 else 1

/-- The fill of a crossing to which a frame is written, or which drops it for want of 4 flits. -/
def withFrame (fill : Nat) : Nat := if 64 < fill + 4 then fill else fill + 4

theorem crossFrame_fill (b : Bough) (f : List (BitVec 32)) (s : State) :
    (crossFrame b f s).trunk.smpFill = modAt s.trunk.smpFill (crossingOf b) withFrame := by
  have hcopy (is : List Nat) (u : State) : (is.foldl (fun t i => copyAt b f i t) u).trunk = u.trunk :=
    (Kept.foldl (w := allBut .trunk) is _ (.refl _ u) fun _ _ h => copyAt_changes h _ _ _).same
  unfold modAt
  by_cases hfull : 64 < s.trunk.smpFill[crossingOf b] + 4
  · have hdrop : crossFrame b f s = emit 0x0104 b.val (leN 3 s.lat.smp ++ leN 4 1) s := if_pos hfull
    have hfill : withFrame s.trunk.smpFill[crossingOf b] = s.trunk.smpFill[crossingOf b] := if_pos hfull
    rw [hdrop, emit_trunk, hfill]
    exact (Vector.set_getElem_self _).symm
  · have hfill : withFrame s.trunk.smpFill[crossingOf b] = s.trunk.smpFill[crossingOf b] + 4 := if_neg hfull
    unfold crossFrame
    extract_lets x fill
    have hroom : ¬64 < fill := hfull
    rw [if_neg hroom, hcopy, hfill]
    rfl

theorem takeSamples_fill (b : Bough) (bs : BoughSamples) (s : State) (c : Fin 2) :
    (takeSamples b bs s).trunk.smpFill[c]
      = if crossingOf b = c then withFrame s.trunk.smpFill[c] else s.trunk.smpFill[c] := by
  have hbefore (ws : List MWord) :
      (keepSamples b bs ws (noteOverloads b ws (fillChains b bs s))).trunk = s.trunk :=
    (keepSamples_changes (w₀ := allBut .trunk)
      (noteOverloads_changes (fillChains_changes (.refl _ s) _ _) _ _) _ _ _).same
  unfold takeSamples
  dsimp only
  rw [crossFrame_fill, hbefore, modAt_fin]

/-- Each bough of a crossing in turn writes its frame there or drops it. -/
theorem foldl_takeSamples_fill (bs : Vector BoughSamples 8) (c : Fin 2) (l : List Bough) (s : State) :
    (l.foldl (fun t b => takeSamples b bs[b] t) s).trunk.smpFill[c]
      = withFrame^[l.countP (crossingOf · = c)] s.trunk.smpFill[c] := by
  induction l generalizing s with
  | nil => rfl
  | cons b l ih =>
    rw [List.foldl_cons, ih, takeSamples_fill, List.countP_cons]
    by_cases h : crossingOf b = c <;> simp [h]

theorem sampleFrames_fill (bs : Vector BoughSamples 8) (c : Fin 2) (s : State) :
    (forBoughs (fun b t => takeSamples b bs[b] t) s).trunk.smpFill[c] = withFrame^[4] s.trunk.smpFill[c] := by
  have hcount : ∀ c, allBoughs.countP (crossingOf · = c) = 4 := by decide
  unfold forBoughs
  beta_reduce
  rw [foldl_takeSamples_fill, hcount]

theorem withFrame_room {fill : Nat} (h : fill ≤ 60) : withFrame fill = fill + 4 := if_neg (by omega)

theorem withFrame_full {fill : Nat} (h : 60 < fill) : withFrame fill = fill := if_pos (by omega)

theorem withFrame_four_room {fill : Nat} (h : fill ≤ 48) : withFrame^[4] fill = fill + 16 := by
  show withFrame (withFrame (withFrame (withFrame fill))) = fill + 16
  rw [withFrame_room (by omega : fill ≤ 60), withFrame_room (by omega : fill + 4 ≤ 60),
    withFrame_room (by omega : fill + 4 + 4 ≤ 60), withFrame_room (by omega)]

/-! ## The command -/

theorem exec_sampleFrame {s : State} (hr : s.lat.running = true) (hl : s.lat.pllLost = false)
    (bs : Vector BoughSamples 8) :
    exec (.sampleFrame bs) s = .next (forBoughs (fun b t => takeSamples b bs[b] t) s) := by
  show execSampleFrame bs s = _
  simp [execSampleFrame, hr, hl]

theorem exec_sampleFrame_lost {s : State} (hl : s.lat.pllLost = true) (bs : Vector BoughSamples 8) :
    exec (.sampleFrame bs) s = .next s := by
  show execSampleFrame bs s = _
  simp [execSampleFrame, hl]

/-- Settles O36: a bough's values depend on nothing that the frames of the other boughs change, so they are those of its own
frame; the four boughs of a crossing write their flits one after another. -/
theorem sampleFrames : Obligations.SampleFrames := by
  unfold Obligations.SampleFrames
  refine fun s bs => ⟨fun hl => exec_sampleFrame_lost hl bs,
    fun hr hl b n => ⟨_, exec_sampleFrame hr hl bs, fun hf => ?_, fun hf hs hb => ?_, fun hf hs hb => ?_⟩,
    fun hr hl c => ⟨_, exec_sampleFrame hr hl bs, fun h => ?_, fun h => ?_⟩⟩
  · rw [sampleFrames_value, frameValue_fails hf]
  · rw [sampleFrames_value, frameValue_beyond hf hs hb]
    rfl
  · rw [sampleFrames_value, frameValue_within hf hs hb]
    exact saturate_fst _
  · rw [sampleFrames_fill, withFrame_four_room h]
  · rw [sampleFrames_fill, Function.iterate_fixed (withFrame_full h)]

end Sys2Proof.Safety
end

section
/-! SUPPORT. The block means and the record number in the live status mirror (R376, R662), the mirror's bytes as the host
reads them, and a write to it, which counts in IGNORED and moves no status register (R700). -/

set_option Elab.async false

namespace Sys2Proof.Safety

open Sys2Proof.Machine

/-! ## Registers at their offsets -/

/-- A signed value within its field is stored in two's complement. -/
theorem ofNat_fit {x : Int} (hl : -(2 ^ 31) ≤ x) (hu : x < 2 ^ 31) :
    BitVec.ofNat 32 (fit 32 x) = BitVec.ofInt 32 x := by
  have hf : fit 32 x = (x % (2 ^ 32 : Nat)).toNat := if_pos (by omega)
  apply BitVec.eq_of_toNat_eq
  rw [hf, BitVec.toNat_ofNat, BitVec.toNat_ofInt, Nat.mod_eq_of_lt (by omega)]

/-- Offset 0x600 + 0x20 × b + i is NRG register i of bough b. -/
theorem liveWord_nrg (s : State) (b : Bough) {i : Nat} (hi : i < 32) :
    liveWord s (0x600 + 0x20 * b.val + i) = nrgWord s b i := by
  have hb := b.isLt
  have hpage : (0x600 + 0x20 * b.val + i) / 0x100 = 6 := by omega
  have hreg : (0x600 + 0x20 * b.val + i) % 0x100 % 32 = i := by omega
  have hbough : boughAt ((0x600 + 0x20 * b.val + i) % 0x100) 32 = b := Fin.ext (by unfold boughAt; dsimp only; omega)
  unfold liveWord
  dsimp only
  rw [hpage, hbough, hreg]
  rfl

/-- NRG_P, NRG_Q and NRG_S lie side by side (R376). -/
theorem liveWord_means (s : State) (b : Bough) :
    liveWord s (0x604 + 0x20 * b.val) = BitVec.ofNat 32 (fit 32 s.nst[b].p)
      ∧ liveWord s (0x604 + 0x20 * b.val + 4) = BitVec.ofNat 32 (fit 32 s.nst[b].q)
      ∧ liveWord s (0x604 + 0x20 * b.val + 8) = BitVec.ofNat 32 (fit 32 s.nst[b].s) := by
  have at4 : 0x604 + 0x20 * b.val = 0x600 + 0x20 * b.val + 4 := by omega
  refine ⟨?_, ?_, ?_⟩
  · rw [at4, liveWord_nrg s b (by decide)]
    rfl
  · rw [at4, Nat.add_assoc, liveWord_nrg s b (by decide)]
    rfl
  · rw [at4, Nat.add_assoc, liveWord_nrg s b (by decide)]
    rfl

theorem reset_nst (b : Bough) : State.reset.nst[b] = {} := Vector.getElem_replicate b.isLt

theorem liveWord_means_reset (b : Bough) (k : Fin 3) : liveWord State.reset (0x604 + 0x20 * b.val + 4 * k.val) = 0 := by
  obtain ⟨hp, hq, hs⟩ := liveWord_means State.reset b
  rw [reset_nst] at hp hq hs
  match k with
  | 0 => exact hp
  | 1 => exact hq
  | 2 => exact hs

/-- With the first window open, a byte of the mirror is a byte of its register (R704). -/
theorem hostByte_live {s : State} {o : Nat} (k : Fin 4) (hd : 1 ≤ s.start.done) (ho : o % 4 = 0) (h : o < 0x1000) :
    hostByte s (0x30000 + o + k.val) = (liveWord s o).extractLsb' (8 * k.val) 8 := by
  have hk := k.isLt
  have hoff : 0x30000 + o + k.val - 0x30000 - (0x30000 + o + k.val) % 4 = o := by omega
  have hbyte : (0x30000 + o + k.val) % 4 = k.val := by omega
  unfold hostByte
  rw [if_neg (by omega), if_neg (by omega), if_neg (by omega), if_neg (by omega), if_neg (by omega), if_pos (by omega),
    if_pos (.inl hd), hoff, hbyte]
  rfl

/-! ## A write to the mirror -/

theorem liveWord_countIgnored (n : Nat) (s : State) (r : Nat) : liveWord (countIgnored n s) r = liveWord s r := rfl

theorem liveWord_endTransaction (s : State) (r : Nat) : liveWord (endTransaction s) r = liveWord s r := rfl

/-- Beyond the global registers no word acts: it is counted at most (R700). -/
theorem liveWord_writeWord (addr : Nat) (bs : List Byte) {a : Nat} (ha : 0x100 ≤ a) (s : State) (r : Nat) :
    liveWord (writeWord addr bs a s) r = liveWord s r := by
  unfold writeWord
  split
  · rfl
  · split
    · rw [if_neg (by omega), liveWord_countIgnored]
    · rw [liveWord_countIgnored]

theorem touchedWords_ge {lo hi addr n a : Nat} (h : a ∈ touchedWords lo hi addr n) : lo ≤ a := by
  unfold touchedWords at h
  obtain ⟨i, -, rfl⟩ := List.mem_map.mp (List.mem_of_mem_filter h)
  exact Nat.le_add_right lo _

theorem liveWord_writeRegs {lo : Nat} (hlo : 0x100 ≤ lo) (hi addr : Nat) (bs : List Byte) (s : State) (r : Nat) :
    liveWord (writeRegs lo hi addr bs s) r = liveWord s r := by
  unfold writeRegs
  split
  · exact List.foldlRecOn (motive := fun t => liveWord t r = liveWord s r) _ _ rfl fun t ht a ha =>
      (liveWord_writeWord addr bs (hlo.trans (touchedWords_ge ha)) t r).trans ht
  · rfl

/-- A transaction that starts beyond the global registers touches none of them. -/
theorem writeRegs_global {addr : Nat} (h : 0x100 ≤ addr) (bs : List Byte) (s : State) :
    writeRegs 0 0x100 addr bs s = s := by
  have hnone : touchedWords 0 0x100 addr bs.length = [] := by
    refine List.filter_eq_nil_iff.mpr fun a ha => ?_
    obtain ⟨i, hi, rfl⟩ := List.mem_map.mp ha
    have := List.mem_range.mp hi
    simp only [Bool.and_eq_true, decide_eq_true_eq]
    omega
  unfold writeRegs
  rw [hnone, List.foldl_nil, ite_self]

theorem partIn_below {lo hi addr : Nat} (h : hi ≤ addr) (bs : List Byte) : (partIn lo hi addr bs).2 = [] := by
  unfold partIn
  rw [Nat.sub_eq_zero_of_le (h.trans (Nat.le_max_right lo addr)), List.take_zero]

theorem partIn_above {lo addr : Nat} {bs : List Byte} (h : addr + bs.length ≤ lo) (hi : Nat) :
    (partIn lo hi addr bs).2 = [] := by
  unfold partIn
  rw [List.drop_of_length_le (by omega), List.take_nil]

theorem strayCommand_nil (a : Nat) (s : State) : strayCommand a [] s = s := by
  simp [strayCommand]

theorem writeShadow_nil (a : Nat) (s : State) : writeShadow a [] s = s := ite_self _

theorem writeMirror_nil (a : Nat) (s : State) : writeMirror a [] s = s := ite_self _

theorem writeBulk_nil (a : Nat) (s : State) : writeBulk a [] s = s := by
  simp [writeBulk]

/-- A transaction within the live status mirror reaches no other window. -/
theorem writeSpan_live {a : Nat} {bs : List Byte} (hl : 0x30000 ≤ a) (hu : a + bs.length ≤ 0x31000) (s : State) :
    writeSpan a bs s = writeRegs 0x30000 0x31000 a bs (countIgnored (unmappedRuns s a bs.length) s) := by
  have hqueue : (partIn 0x1000 0x2000 a bs).2 = [] := partIn_below (by omega) bs
  have hshadow : (partIn 0x10000 0x20000 a bs).2 = [] := partIn_below (by omega) bs
  have hmirror : (partIn 0x20000 0x24000 a bs).2 = [] := partIn_below (by omega) bs
  have hbulk : (partIn 0x40000 0x80000 a bs).2 = [] := partIn_above (by omega) _
  unfold writeSpan
  dsimp only
  rw [writeRegs_global (by omega), hqueue, strayCommand_nil, hshadow, writeShadow_nil, hmirror, writeMirror_nil, hbulk,
    writeBulk_nil]

/-- A transaction that lies in the live status mirror. -/
theorem exec_registerWrite_live {a : Nat} {bs : List Byte} (hl : 0x30000 ≤ a) (hu : a + bs.length ≤ 0x31000)
    (s : State) : exec (.registerWrite a bs) s = .next (endTransaction (writeSpan a bs s)) := by
  have haddr : a % 0x1000000 = a := Nat.mod_eq_of_lt (by omega)
  have hqueue : inQueueWindow a = false := by
    unfold inQueueWindow
    rw [decide_eq_false (by omega : ¬ a < 0x2000), Bool.and_false]
  show execRegisterWrite a bs s = _
  unfold execRegisterWrite
  dsimp only
  rw [haddr, hqueue, List.take_of_length_le (by omega), List.drop_of_length_le (by omega)]
  rfl

theorem registerWrite_live_completes {a : Nat} {bs : List Byte} (hl : 0x30000 ≤ a) (hu : a + bs.length ≤ 0x31000)
    (s : State) : Completes (.registerWrite a bs) s fun t => ∀ r, liveWord t r = liveWord s r := by
  refine ⟨_, exec_registerWrite_live hl hu s, fun r => ?_⟩
  rw [liveWord_endTransaction, writeSpan_live hl hu, liveWord_writeRegs (by decide), liveWord_countIgnored]

/-- Settles O8: each register stands in the mirror at its offset, and a write there ends in a count. -/
theorem measurementAndLogRegisters : Obligations.MeasurementAndLogRegisters := by
  unfold Obligations.MeasurementAndLogRegisters
  refine ⟨fun s b hp hp' hq hq' hs hs' => ?_, fun s => rfl, fun b k => ⟨liveWord_means_reset b k, rfl⟩,
    fun s o k hd ho h => hostByte_live k hd ho h, fun s o v ho h => registerWrite_live_completes ?_ ?_ s⟩
  · obtain ⟨p, q, a⟩ := liveWord_means s b
    exact ⟨p.trans (ofNat_fit hp hp'), q.trans (ofNat_fit hq hq'), a.trans (ofNat_fit hs hs')⟩
  · exact Nat.le_add_right _ o
  · rw [leN_length]
    omega

end Sys2Proof.Safety
end

section
/-! SUPPORT. What the heartwood's operations leave of its clock: calendar time, the high-water mark, the start of the open
interval (R402 to R411) and the code under the check value (R421), and what a conversion leaves of the rest (R362). -/

set_option Elab.async false

namespace Sys2Proof.Safety

open Sys2Proof.Machine

/-! ## Conversions (R362) -/

/-- Of the heartwood's device-wide state only the rate registers move. -/
def RatesOnly (s t : State) : Prop := t.bil = { s.bil with rates := t.bil.rates }

theorem RatesOnly.of_eq {s t : State} (h : t.bil = s.bil) : RatesOnly s t := by
  unfold RatesOnly
  rw [h]

theorem RatesOnly.trans {s t u : State} (h : RatesOnly s t) (k : RatesOnly t u) : RatesOnly s u := by
  unfold RatesOnly at *
  rw [k, h]

theorem rateAdd_ratesOnly (dImp dExp : Nat) (s : State) : RatesOnly s (rateAdd dImp dExp s) := rfl

theorem priceBough_bil (b : Bough) (whImp whExp : Nat) (s : State) : (priceBough b whImp whExp s).bil = s.bil :=
  (priceBough_changes (w₀ := allBut .heartwood) (.refl _ s) b whImp whExp).same

theorem convertBough_ratesOnly (b : Bough) (s : State) : RatesOnly s (convertBough b s) := by
  unfold convertBough
  extract_lets e imp exp dImp dExp c now t u
  have ht : RatesOnly s t := .of_eq rfl
  have hu : RatesOnly s u := ht.trans (rateAdd_ratesOnly dImp dExp t)
  split
  · split
    · exact hu.trans (.of_eq (priceBough_bil _ _ _ _))
    · exact hu
  · exact ht

theorem convertAll_ratesOnly (s : State) : RatesOnly s (convertAll s) :=
  List.foldlRecOn (motive := RatesOnly s) _ _ (.of_eq rfl) fun t ht b _ => ht.trans (convertBough_ratesOnly b t)

/-! ## The clock -/

/-- What the tariff's clock goes by: calendar time, the heartwood's code, the high-water mark and the start of the interval
that is open. -/
structure Clock where
  caltime : BitVec 32
  code : List Byte
  hwm : Nat
  hasHwm : Bool
  intStart : Nat

/-- The clock of a state. -/
def clockOf (s : State) : Clock :=
  { caltime := s.bak.caltime, code := s.bil.code, hwm := s.bil.hwm, hasHwm := s.bil.hasHwm, intStart := s.bil.intStart }

/-- An operation whose frame leaves out the heartwood and the backup domain leaves the clock. -/
theorem clockOf_kept {s t : State} (h : Kept (allBut .heartwood) s t) (k : Kept (allBut .backup) s t) :
    clockOf t = clockOf s := by
  have hbil : t.bil = s.bil := h.same
  have hbak : t.bak = s.bak := k.same
  unfold clockOf
  rw [hbil, hbak]

theorem clockOf_ratesOnly {s t : State} (h : RatesOnly s t) (k : Kept (allBut .backup) s t) : clockOf t = clockOf s := by
  have hbak : t.bak = s.bak := k.same
  unfold clockOf
  rw [h, hbak]

@[simp] theorem clockOf_emit (c b : Nat) (d : List Byte) (s : State) : clockOf (emit c b d s) = clockOf s :=
  clockOf_kept (emit_changes (.refl _ s) c b d) (emit_changes (.refl _ s) c b d)

@[simp] theorem clockOf_convertBough (b : Bough) (s : State) : clockOf (convertBough b s) = clockOf s :=
  clockOf_ratesOnly (convertBough_ratesOnly b s) (convertBough_changes (.refl _ s) b)

@[simp] theorem clockOf_convertAll (s : State) : clockOf (convertAll s) = clockOf s :=
  clockOf_ratesOnly (convertAll_ratesOnly s) (convertAll_changes (.refl _ s))

/-- What each bough's turn leaves of the clock, all of them leave. -/
theorem clockOf_forBoughs (f : Bough → State → State) (s : State) (h : ∀ b t, clockOf (f b t) = clockOf t) :
    clockOf (forBoughs f s) = clockOf s :=
  List.foldlRecOn (motive := fun t => clockOf t = clockOf s) _ _ rfl fun t ht b _ => (h b t).trans ht

@[simp] theorem clockOf_evalRate (s : State) : clockOf (evalRate s) = clockOf s := by
  unfold evalRate
  dsimp only
  split
  · rfl
  · exact clockOf_convertAll s

@[simp] theorem clockOf_writeSave (cause : Nat) (s : State) : clockOf (writeSave cause s) = clockOf s := by
  rw [← clockOf_convertAll s]
  unfold writeSave
  dsimp only
  generalize convertAll s = u
  rfl

@[simp] theorem clockOf_noteFlagAll (i : Nat) (s : State) : clockOf (noteFlagAll i s) = clockOf s :=
  clockOf_kept (noteFlagAll_changes (.refl _ s) i) (noteFlagAll_changes (.refl _ s) i)

@[simp] theorem clockOf_lrChange (kind bough ch : Nat) (extra : List Byte) (s : State) :
    clockOf (lrChange kind bough ch extra s) = clockOf s := clockOf_emit _ _ _ _

/-! ## Readings (R412 to R416) -/

@[simp] theorem clockOf_signWith (b : Bough) (kind gapWh : Nat) (gapEst : Int) (flags : Nat) (s : State) :
    clockOf (signWith b kind gapWh gapEst flags s) = clockOf s := by
  unfold signWith
  split <;> rfl

@[simp] theorem clockOf_coverOnTick (s : State) : clockOf (coverOnTick s) = clockOf s := by
  unfold coverOnTick
  split
  · split <;> rfl
  · rfl

@[simp] theorem clockOf_signReading (b : Bough) (kind : Nat) (s : State) : clockOf (signReading b kind s) = clockOf s := by
  unfold signReading
  rw [clockOf_coverOnTick, clockOf_signWith, clockOf_convertBough]

@[simp] theorem clockOf_boundaryReadings (activated : Bool) (moved : Nat) (s : State) :
    clockOf (boundaryReadings activated moved s) = clockOf s := by
  refine clockOf_forBoughs _ _ fun b t => ?_
  dsimp only
  generalize Nat.testBit _ _ = due
  cases due with
  | false => rfl
  | true => exact clockOf_signReading b 4 t

/-! ## Boundaries (R402 to R406) -/

@[simp] theorem clockOf_intervalEvent (first last : Int) (count flags : Nat) (demands : List Nat) (s : State) :
    clockOf (intervalEvent first last count flags demands s) = clockOf s := clockOf_emit _ _ _ _

@[simp] theorem clockOf_takeDemands (s : State) : clockOf (takeDemands s) = clockOf s :=
  clockOf_kept (takeDemands_changes (.refl _ s)) (takeDemands_changes (.refl _ s))

/-- A closed interval leaves its boundary as the high-water mark (R403 step 3). -/
@[simp] theorem clockOf_closeInterval (B : Int) (s : State) :
    clockOf (closeInterval B s) = { clockOf s with hwm := B.toNat, hasHwm := true } := by
  have ht := clockOf_takeDemands s
  unfold closeInterval
  dsimp only
  generalize takeDemands s = t at ht
  generalize hu : intervalEvent _ _ _ _ _ t = u
  have h : clockOf u = clockOf s := by rw [← hu, clockOf_intervalEvent, ht]
  rw [← h]
  rfl

@[simp] theorem clockOf_openInterval (t : Int) (s : State) :
    clockOf (openInterval t s) = { clockOf s with intStart := t.toNat } := by
  unfold openInterval
  dsimp only
  rw [← clockOf_forBoughs _ s fun b u => rfl]
  rfl

@[simp] theorem clockOf_activateCalendar (due applied : Nat) (s : State) :
    clockOf (activateCalendar due applied s) = clockOf s := by
  unfold activateCalendar
  split
  · rfl
  · dsimp only
    rw [clockOf_lrChange, clockOf_emit, clockOf_noteFlagAll]
    rfl

@[simp] theorem clockOf_applyBilCommit (s : State) : clockOf (applyBilCommit s) = clockOf s := by
  have h : clockOf (finishCommit 7 false (applySnap 7 (fun a => a / 0x1000 == 7) s)) = clockOf s :=
    clockOf_kept (finishCommit_changes (applySnap_changes (.refl _ s) _ _) _ _)
      (finishCommit_changes (applySnap_changes (.refl _ s) _ _) _ _)
  unfold applyBilCommit
  dsimp only
  split
  · rfl
  · split
    · exact clockOf_emit _ _ _ _
    · split
      · exact (clockOf_lrChange _ _ _ _ _).trans h
      · exact h

@[simp] theorem clockOf_boundaryCommit (B : Int) (s : State) : clockOf (boundaryCommit B s) = clockOf s := by
  unfold boundaryCommit
  split
  · rfl
  · split
    · rfl
    · exact clockOf_applyBilCommit s

@[simp] theorem clockOf_applyOffset (s : State) : clockOf (applyOffset s) = clockOf s := by
  unfold applyOffset
  split <;> rfl

/-- The end of a boundary (R403 steps 4 to 7) leaves the clock. -/
theorem clockOf_boundaryEnd (B : Int) (activated : Bool) (moved : Nat) (s : State) :
    clockOf (writeSave 2 (boundaryReadings activated moved (evalRate (applyOffset (boundaryCommit B s))))) = clockOf s := by
  simp

/-- The clock at boundary B: the high-water mark and the start of the open interval. -/
def Clock.stand (c : Clock) (B : Nat) : Clock := { c with hwm := B, hasHwm := true, intStart := B }

/-- At a boundary the high-water mark and the start of the interval become the boundary (R403). -/
theorem clockOf_boundary (s : State) : clockOf (boundary s) = (clockOf s).stand s.now := by
  unfold boundary
  extract_lets B s₁ moved s₂ s₃ act s₄
  have h₃ : clockOf s₃ = (clockOf s).stand s.now := by simp [s₃, s₂, s₁, B, Clock.stand]
  have h₄ : clockOf s₄ = clockOf s₃ := by
    unfold s₄
    split
    · exact clockOf_activateCalendar _ _ _
    · rfl
  exact (clockOf_boundaryEnd B act moved s₄).trans (h₄.trans h₃)

/-! ## Calendar time set (R408 to R411) -/

/-- A set over boundaries leaves the last of them as the high-water mark and as the start of the interval (R410). -/
theorem clockOf_passBoundaries (a z : Int) (n : Nat) (s : State) :
    clockOf (passBoundaries a z n s) = (clockOf s).stand z.toNat := by
  unfold passBoundaries
  extract_lets s₁ moved s₂ p s₃ s₄ due s₅ bil s₆ s₇
  have h₂ : clockOf s₂ = { clockOf s with hwm := a.toNat, hasHwm := true } := by simp [s₂, s₁]
  have h₄ : clockOf s₄ = clockOf s₂ := by
    unfold s₄
    split
    · exact (clockOf_intervalEvent _ _ _ _ _ _).trans (clockOf_forBoughs _ _ fun _ _ => rfl)
    · rfl
  have h₅ : clockOf s₅ = clockOf s₄ := by
    unfold s₅
    clear_value due
    cases due with
    | none => rfl
    | some i => exact clockOf_activateCalendar _ _ _
  have h₆ : clockOf s₆ = { clockOf s₅ with hwm := z.toNat } := rfl
  have h₇ : clockOf s₇ = (clockOf s).stand z.toNat := by
    unfold s₇
    rw [clockOf_openInterval, h₆, h₅, h₄, h₂]
    rfl
  exact (clockOf_boundaryEnd z _ moved s₇).trans h₇

theorem clockOf_openAtTime (s : State) :
    clockOf (openAtTime s)
      = { clockOf s with intStart := (lastBoundary s.bil.demandMin s.bil.offset s.now).toNat } :=
  clockOf_openInterval _ s

/-- What follows a set leaves the time that was set, and the code. -/
theorem afterSet_clock (old : Option Nat) (s : State) :
    (clockOf (afterSet old s)).caltime = s.bak.caltime ∧ (clockOf (afterSet old s)).code = s.bil.code := by
  unfold afterSet
  extract_lets low
  clear_value low
  split
  · rw [clockOf_evalRate]
    exact ⟨rfl, rfl⟩
  · cases low with
    | none =>
      dsimp only
      rw [clockOf_evalRate, clockOf_openAtTime]
      exact ⟨rfl, rfl⟩
    | some lo =>
      dsimp only
      split
      · rw [clockOf_passBoundaries]
        exact ⟨rfl, rfl⟩
      · rw [clockOf_evalRate]
        exact ⟨rfl, rfl⟩

/-- A set that is taken changes calendar time at once (R408). -/
theorem setTime_clock (v : BitVec 32) (source : Nat) (s : State) :
    (setTime v source s).bak.caltime = v ∧ (setTime v source s).bil.code = s.bil.code := by
  unfold setTime
  extract_lets old bak t below off u
  have hu : clockOf u = { clockOf s with caltime := v } := (clockOf_emit _ _ _ _).trans (clockOf_noteFlagAll _ _)
  obtain ⟨htime, hcode⟩ := afterSet_clock (if old = 0xFFFFFFFF then none else some old.toNat) u
  exact ⟨htime.trans (congrArg Clock.caltime hu), hcode.trans (congrArg Clock.code hu)⟩

end Sys2Proof.Safety
end

section
/-! SUPPORT. Rates evaluated (R395), readings released (R416, R417) and the check value of the heartwood's code (R422). -/

set_option Elab.async false

namespace Sys2Proof.Safety

open Sys2Proof.Machine

/-! ## Rates (R394, R395) -/

/-- The rate evaluated is that of the calendar and the time; the calendar stays. -/
theorem evalRate_rate (s : State) : (evalRate s).bil.rate = rateNow s ∧ (evalRate s).bil.calendar = s.bil.calendar := by
  have hcal : (convertAll s).bil.calendar = s.bil.calendar := by rw [convertAll_ratesOnly s]
  unfold evalRate
  dsimp only
  split
  · rename_i h
    exact ⟨h.symm, rfl⟩
  · exact ⟨rfl, hcal⟩

theorem heartwoodRuns_of {s : State} (h : 6 ≤ s.start.done) (hs : s.bil.stopped = false) : heartwoodRuns s = true := by
  unfold heartwoodRuns
  rw [decide_eq_true h, hs]
  rfl

theorem rateEvaluation_completes {s : State} (h : heartwoodRuns s = true) : Completes .rateEvaluation s fun t =>
    t.bil.rate = rateNow s ∧ t.bil.calendar = s.bil.calendar ∧ t.bak = s.bak := by
  obtain ⟨hrate, hcal⟩ := evalRate_rate s
  exact ⟨evalRate s, if_pos h, hrate, hcal, evalRate_bak s⟩

/-! ## Boundaries (R403) -/

theorem billingBoundary_completes {s : State} (h : heartwoodRuns s = true) (hb : atBoundary s = true) :
    Completes .billingBoundary s fun t =>
      t.bil.hwm = s.now ∧ t.bil.hasHwm = true ∧ t.bil.intStart = s.now ∧ t.bak.caltime = s.bak.caltime := by
  have hc := clockOf_boundary s
  exact ⟨boundary s, if_pos (by rw [h, hb]; rfl), congrArg Clock.hwm hc, congrArg Clock.hasHwm hc,
    congrArg Clock.intStart hc, congrArg Clock.caltime hc⟩

/-- While calendar time is not known there is no boundary (R402). -/
theorem billingBoundary_unknown {s : State} (h : s.timeKnown = false) : exec .billingBoundary s = .next s := by
  have hb : atBoundary s = false := by
    unfold atBoundary
    rw [h]
    rfl
  exact if_neg (by rw [hb, Bool.and_false]; exact Bool.false_ne_true)

/-! ## Readings released (R416, R417) -/

/-- With room in the queue a released reading enters it last. -/
theorem releaseOne_bil (rd : Reading) {s : State} (h : s.bil.queue.length < 1024) :
    (releaseOne rd s).bil = { s.bil with queue := s.bil.queue ++ [rd] } := by
  unfold releaseOne
  dsimp only
  rw [recordEvent_bil, if_pos h]

/-- With room for all of them the released readings follow the queue in their order. -/
theorem releaseAll_bil (rs : List Reading) {s : State} (h : s.bil.queue.length + rs.length ≤ 1024) :
    (rs.foldl (fun t r => releaseOne r t) s).bil = { s.bil with queue := s.bil.queue ++ rs } := by
  induction rs generalizing s with
  | nil => rw [List.append_nil, List.foldl_nil]
  | cons r rs ih =>
    rw [List.length_cons] at h
    have hone := releaseOne_bil r (s := s) (by omega)
    have hall := ih (s := releaseOne r s) (by rw [hone, List.length_append, List.length_singleton]; omega)
    rw [List.foldl_cons, hall, hone]
    simp

theorem releaseReadings_covered {s : State} (hc : s.bil.covered = true)
    (hl : s.bil.queue.length + s.bil.waiting.length ≤ 1024) :
    (releaseReadings s).bil = { s.bil with waiting := [], queue := s.bil.queue ++ s.bil.waiting } := by
  unfold releaseReadings
  by_cases h : s.bil.waiting.isEmpty = true
  · have hw : s.bil.waiting = [] := List.isEmpty_iff.mp h
    rw [if_pos h, hw, List.append_nil, ← hw]
  · rw [if_neg h, if_pos hc]
    exact releaseAll_bil s.bil.waiting (s := { s with bil.waiting := [] }) hl

/-! ## The check value (R422) -/

theorem tagWritePage_bil (p : Nat) (body : List Byte) (s : State) : (tagWritePage p body s).bil = s.bil :=
  (tagWritePage_changes (w₀ := allBut .heartwood) (.refl _ s) p body).same

/-- A fatal error of the heartwood stops it: it signs no reading any more. -/
theorem fatalError_stopped (stop addr : Nat) (s : State) : (fatalError 2 stop addr s).bil.stopped = true := by
  unfold fatalError
  extract_lets u die bil v
  have hv : v.bil.stopped = true := Bool.or_true _
  split
  · exact hv
  · dsimp only
    rw [tagWritePage_bil, tagWritePage_bil, tagWritePage_bil, tagWritePage_bil]
    exact hv

theorem recomputeCheck_match {s : State} (h : sha256 (s.bil.code.take s.bil.codeLen) = s.bil.check) :
    recomputeCheck s = s := if_pos h

theorem recomputeCheck_mismatch {s : State} (h : sha256 (s.bil.code.take s.bil.codeLen) ≠ s.bil.check) :
    (recomputeCheck s).bil.stopped = true := by
  unfold recomputeCheck
  dsimp only
  rw [if_neg h]
  exact fatalError_stopped _ _ _

theorem checkValueRecompute_match {s : State} (h : sha256 (s.bil.code.take s.bil.codeLen) = s.bil.check) :
    exec .checkValueRecompute s = .next s := by
  show execCheckValueRecompute s = _
  unfold execCheckValueRecompute
  rw [recomputeCheck_match h, ite_self]

/-- Settles O39: the rate by the branches of its evaluation, the boundary by its clock, the release by induction over the
waiting readings, the check value by whether the hash still matches. -/
theorem tariffClock : Obligations.TariffClock := by
  unfold Obligations.TariffClock
  refine fun s => ⟨fun h hs => rateEvaluation_completes (heartwoodRuns_of h hs),
    fun h hs hb => billingBoundary_completes (heartwoodRuns_of h hs) hb, billingBoundary_unknown, fun hc hl => ?_,
    checkValueRecompute_match, fun h hs hne => ?_⟩
  · have hr := releaseReadings_covered hc hl
    exact ⟨releaseReadings s, rfl, congrArg Bil.waiting hr, congrArg Bil.queue hr⟩
  · exact ⟨recomputeCheck s, if_pos (heartwoodRuns_of h hs), recomputeCheck_mismatch hne⟩

end Sys2Proof.Safety
end

section
/-! SUPPORT. The answers of BIL_TIME_SET, BIL_READ_ACK, BIL_READ_NOW, BIL_INFO and BIL_READ_GET (R407, R408, R412, R417, R432,
R433). -/

set_option Elab.async false

namespace Sys2Proof.Safety

open Sys2Proof.Machine

/-! ## Answers -/

/-- An answer drops no source that is latched. -/
theorem answer_irq (c b g : Nat) (d : List Byte) {s : State} {i : Nat} (h : s.host.irq.getLsbD i = true) :
    (answer c b g d s).host.irq.getLsbD i = true := by
  unfold answer
  rw [← recordEvent_host c b 0 d s] at h
  generalize recordEvent c b 0 d s = u at h
  unfold postEvent
  split
  · exact h
  · exact placeEvent_irq _ _ _ _ _ h

/-- A command that ends in an answer of a state with room for it answers. -/
theorem answers_of {i : Instr} {s t : State} {c b g : Nat} {d : List Byte} (h : exec i s = .next (answer c b g d t))
    (ha : CanAnswer t) (hc : c ≠ 0x0701 := by decide) (hl : d.length ≤ 8184 := by simp) : Answers i s c b g d :=
  ⟨_, h, answer_last ha c b g d hc hl⟩

/-! ## BIL_TIME_SET (R407, R408) -/

section
variable {s : State}

theorem hostMaySet_canopy (h : fld s.bilCfg 27 26 = 1) : hostMaySet s = false := by
  unfold hostMaySet
  rw [h]
  rfl

theorem hostMaySet_host (h : fld s.bilCfg 27 26 = 0) : hostMaySet s = true := by
  unfold hostMaySet
  rw [h]
  rfl

/-- A set that TIME_SRC refuses is answered with 2 and leaves the state. -/
theorem bilTimeSet_refused (h : CmdHdr) (utc : BitVec 32) (off : Byte) (hs : hostMaySet s = false) :
    exec (.bilTimeSet h utc off) s = .next (answer 0x070A 255 h.tag [2] s) := by
  show execBilTimeSet h utc off s = _
  unfold execBilTimeSet
  rw [hs]
  rfl

/-- A set that TIME_SRC lets through sets the offset, unless it is to stay, and then the time. -/
theorem bilTimeSet_taken (h : CmdHdr) (utc : BitVec 32) (off : Byte) (hs : hostMaySet s = true) :
    exec (.bilTimeSet h utc off) s
      = .next (answer 0x070A 255 h.tag [0] (hostSetTime utc (if off == 0x7F then s else setOffset off.toInt s))) := by
  show execBilTimeSet h utc off s = _
  unfold execBilTimeSet
  rw [hs]
  rfl

end

/-- The offset in force once the next boundary has passed (R406). -/
def dueOffset (s : State) : Int := s.bil.newOffset.getD s.bil.offset

/-- A change of the offset is taken as R21 says, at once or at the next boundary. -/
theorem dueOffset_setOffset (x : Int) (s : State) : dueOffset (setOffset x s) = localOffset x := by
  unfold setOffset
  dsimp only
  split
  · unfold dueOffset
    dsimp only
    split
    · rename_i h
      exact h.symm
    · rfl
  · rfl

theorem dueOffset_evalRate (s : State) : dueOffset (evalRate s) = dueOffset s := by
  have hc : dueOffset (convertAll s) = dueOffset s := by
    unfold dueOffset
    rw [convertAll_ratesOnly s]
  unfold evalRate
  dsimp only
  split
  · rfl
  · exact hc

theorem setOffset_caltime (x : Int) (s : State) : (setOffset x s).bak.caltime = s.bak.caltime := by
  unfold setOffset
  dsimp only
  split <;> rfl

theorem setOffset_canAnswer (x : Int) {s : State} (h : CanAnswer s) : CanAnswer (setOffset x s) :=
  h.kept (setOffset_changes (.refl _ s) x) (setOffset_changes (.refl _ s) x)

theorem evalRate_canAnswer {s : State} (h : CanAnswer s) : CanAnswer (evalRate s) :=
  h.kept (evalRate_changes (.refl _ s)) (evalRate_changes (.refl _ s))

theorem hostSetTime_offset (s : State) : hostSetTime 0xFFFFFFFF s = evalRate (recordOffset 0 s) := if_pos rfl

/-- A set without a time leaves the time. -/
theorem hostSetTime_offset_caltime (s : State) : (hostSetTime 0xFFFFFFFF s).bak.caltime = s.bak.caltime := by
  rw [hostSetTime_offset, evalRate_bak]
  unfold recordOffset
  exact congrArg Backup.caltime (emit_bak _ _ _ _)

theorem dueOffset_hostSetTime (s : State) : dueOffset (hostSetTime 0xFFFFFFFF s) = dueOffset s := by
  rw [hostSetTime_offset, dueOffset_evalRate]
  unfold dueOffset recordOffset
  rw [emit_bil]

theorem hostSetTime_offset_canAnswer {s : State} (h : CanAnswer s) : CanAnswer (hostSetTime 0xFFFFFFFF s) := by
  rw [hostSetTime_offset]
  exact evalRate_canAnswer (emit_canAnswer h _ _ _)

/-- BIL_TIME_SET with an offset alone (R21, R406). -/
theorem bilTimeSet_offset {s : State} (h : CmdHdr) {off : Byte} (hs : hostMaySet s = true) (ho : off ≠ 0x7F) :
    Completes (.bilTimeSet h 0xFFFFFFFF off) s fun t => dueOffset t = localOffset off.toInt
      ∧ t.bak.caltime = s.bak.caltime ∧ (CanAnswer s → lastEvent t = some (0x070A, 255, h.tag, [0])) := by
  refine ⟨_, bilTimeSet_taken h _ _ hs, ?_, ?_, fun ha => ?_⟩
  all_goals rw [if_neg (by simpa using ho)]
  · unfold dueOffset
    rw [answer_bil]
    exact (dueOffset_hostSetTime _).trans (dueOffset_setOffset _ s)
  · rw [answer_bak, hostSetTime_offset_caltime, setOffset_caltime]
  · exact answer_last (hostSetTime_offset_canAnswer (setOffset_canAnswer _ ha)) _ _ _ _

/-- BIL_TIME_SET with a time alone changes calendar time at once (R408). -/
theorem bilTimeSet_time {s : State} (h : CmdHdr) {utc : BitVec 32} (hs : hostMaySet s = true) (hu : utc ≠ 0xFFFFFFFF) :
    Completes (.bilTimeSet h utc 0x7F) s fun t => t.bak.caltime = utc ∧ t.bil.code = s.bil.code := by
  have ht : hostSetTime utc s = setTime utc 0 s := if_neg hu
  obtain ⟨htime, hcode⟩ := setTime_clock utc 0 s
  refine ⟨_, bilTimeSet_taken h _ _ hs, ?_, ?_⟩
  all_goals rw [if_pos (beq_self_eq_true _), ht]
  · rw [answer_bak, htime]
  · rw [answer_bil, hcode]

/-! ## BIL_READ_ACK (R417) -/

/-- The readings up to the first of that number are removed. -/
theorem bilReadAck_found {s : State} (h : CmdHdr) {pre post : List Reading} {r : Reading}
    (hq : s.bil.queue = pre ++ r :: post) (hn : ∀ x ∈ pre, x.no ≠ r.no) :
    exec (.bilReadAck h r.no) s = .next (answer 0x070A 255 h.tag [0] { s with bil.queue := post }) := by
  have hpre : pre.findIdx? (fun x => x.no == r.no) = none :=
    List.findIdx?_eq_none_iff.mpr fun x hx => beq_eq_false_iff_ne.mpr (hn x hx)
  have hi : s.bil.queue.findIdx? (fun x => x.no == r.no) = some pre.length := by
    rw [hq, List.findIdx?_append, hpre, List.findIdx?_cons, beq_self_eq_true]
    simp
  have hd : s.bil.queue.drop (pre.length + 1) = post := by
    rw [hq, List.drop_append]
    simp
  show execBilReadAck h r.no s = _
  unfold execBilReadAck
  rw [hi]
  dsimp only
  rw [hd]
  rfl

theorem bilReadAck_missing {s : State} (h : CmdHdr) {no : Nat} (hn : ∀ x ∈ s.bil.queue, x.no ≠ no) :
    exec (.bilReadAck h no) s = .next (answer 0x070A 255 h.tag [1] s) := by
  have hi : s.bil.queue.findIdx? (fun x => x.no == no) = none :=
    List.findIdx?_eq_none_iff.mpr fun x hx => beq_eq_false_iff_ne.mpr (hn x hx)
  show execBilReadAck h no s = _
  unfold execBilReadAck
  rw [hi]
  rfl

/-! ## BIL_READ_NOW (R412 KIND 7) -/

/-- A reading of bough b of a kind waits, and the next number is drawn (R413, R416). -/
theorem signWith_waiting (b : Bough) (kind gapWh : Nat) (gapEst : Int) (flags : Nat) {s : State}
    (h : s.bil.stopped = false) :
    (∃ rd, (signWith b kind gapWh gapEst flags s).bil.waiting = s.bil.waiting ++ [rd] ∧ rd.no = s.bil.readingNo
        ∧ rd.kind = kind ∧ rd.bough = b.val)
      ∧ (signWith b kind gapWh gapEst flags s).bil.readingNo = (s.bil.readingNo + 1) % 2 ^ 32 := by
  unfold signWith
  rw [if_neg (by rw [h]; exact Bool.false_ne_true)]
  exact ⟨⟨_, rfl, rfl, rfl, rfl⟩, rfl⟩

theorem coverOnTick_waiting (s : State) :
    (coverOnTick s).bil.waiting = s.bil.waiting ∧ (coverOnTick s).bil.readingNo = s.bil.readingNo := by
  unfold coverOnTick
  split
  · split <;> exact ⟨rfl, rfl⟩
  · exact ⟨rfl, rfl⟩

theorem signReading_waiting (b : Bough) (kind : Nat) {s : State} (h : s.bil.stopped = false) :
    (∃ rd, (signReading b kind s).bil.waiting = s.bil.waiting ++ [rd] ∧ rd.no = s.bil.readingNo ∧ rd.kind = kind
        ∧ rd.bough = b.val)
      ∧ (signReading b kind s).bil.readingNo = (s.bil.readingNo + 1) % 2 ^ 32 := by
  have hc := convertBough_ratesOnly b s
  unfold signReading
  dsimp only
  generalize convertBough b s = u at hc
  have hw : u.bil.waiting = s.bil.waiting := by rw [hc]
  have hn : u.bil.readingNo = s.bil.readingNo := by rw [hc]
  have hs : u.bil.stopped = false := by rw [hc]; exact h
  rw [(coverOnTick_waiting _).1, (coverOnTick_waiting _).2, ← hw, ← hn]
  exact signWith_waiting b kind 0 0 _ hs

/-! ### The note that a reading was asked for in this second -/

theorem onBil_readNow (b : Bough) (f : BilBough → BilBough) (hf : ∀ e, (f e).readNow = e.readNow) (s : State) :
    (s.onBil b f).bilB[b].readNow = s.bilB[b].readNow := by
  unfold State.onBil
  rw [modAt_get]
  exact hf _

theorem priceBough_readNow (b : Bough) (whImp whExp : Nat) (s : State) :
    (priceBough b whImp whExp s).bilB[b].readNow = s.bilB[b].readNow := by
  unfold priceBough
  split
  · rfl
  · have h₁ (x : Int) (v : State) : (fitInt 48 x v).2.bilB = v.bilB :=
      (fitInt_changes (w₀ := allBut .billed) (.refl _ v) 48 x).same
    dsimp only
    rw [onBil_readNow, h₁, h₁]
    exact fun _ => rfl

theorem convertBough_readNow (b : Bough) (s : State) : (convertBough b s).bilB[b].readNow = s.bilB[b].readNow := by
  unfold convertBough
  extract_lets e imp exp dImp dExp c now t u
  have ht : t.bilB[b].readNow = s.bilB[b].readNow := by
    refine onBil_readNow b _ ?_ s
    exact fun _ => rfl
  have hu : u.bilB[b].readNow = s.bilB[b].readNow := ht
  split
  · split
    · exact (priceBough_readNow b _ _ u).trans hu
    · exact hu
  · exact ht

theorem signWith_readNow (b : Bough) (kind gapWh : Nat) (gapEst : Int) (flags : Nat) (s : State) :
    (signWith b kind gapWh gapEst flags s).bilB[b].readNow = s.bilB[b].readNow := by
  unfold signWith
  split
  · rfl
  · refine onBil_readNow b _ ?_ s
    exact fun _ => rfl

theorem signReading_readNow (b : Bough) (kind : Nat) (s : State) :
    (signReading b kind s).bilB[b].readNow = s.bilB[b].readNow := by
  have h (v : State) : (coverOnTick v).bilB = v.bilB := (coverOnTick_changes (w₀ := allBut .billed) (.refl _ v)).same
  unfold signReading
  dsimp only
  rw [h, signWith_readNow, convertBough_readNow]

/-- The bough's entry notes that a reading was asked for in this second. -/
def noteReadNow (b : Bough) (s : State) : State := s.onBil b fun e => { e with readNow := true }

theorem noteReadNow_set (b : Bough) (s : State) : (noteReadNow b s).bilB[b].readNow = true := by
  unfold noteReadNow State.onBil
  rw [modAt_get]

section
variable {h : CmdHdr} {b : Bough} {s : State}

theorem bilReadNow_again (hb : h.bough = b.val) (hr : s.bilB[b].readNow = true) :
    exec (.bilReadNow h) s = .next (answer 0x070A b.val h.tag [4] s) := by
  show onHdr h s _ = _
  rw [onHdr_bough hb, if_pos hr]
  rfl

theorem bilReadNow_first (hb : h.bough = b.val) (hs : s.bil.stopped = false) (hr : s.bilB[b].readNow = false) :
    exec (.bilReadNow h) s = .next (answer 0x070A b.val h.tag [0] (signReading b 7 (noteReadNow b s))) := by
  show onHdr h s _ = _
  rw [onHdr_bough hb, if_neg (by rw [hr]; exact Bool.false_ne_true), if_neg (by rw [hs]; exact Bool.false_ne_true)]
  rfl

/-- The first request of the second signs a reading of KIND 7. -/
theorem bilReadNow_first_completes (hb : h.bough = b.val) (hs : s.bil.stopped = false) (hr : s.bilB[b].readNow = false) :
    Completes (.bilReadNow h) s fun t =>
      (∃ rd, t.bil.waiting = s.bil.waiting ++ [rd] ∧ rd.no = s.bil.readingNo ∧ rd.kind = 7 ∧ rd.bough = b.val)
        ∧ t.bil.readingNo = (s.bil.readingNo + 1) % 2 ^ 32 ∧ t.bilB[b].readNow = true := by
  obtain ⟨hrd, hno⟩ := signReading_waiting b 7 (s := noteReadNow b s) hs
  refine ⟨_, bilReadNow_first hb hs hr, ?_, ?_, ?_⟩
  · rw [answer_bil]
    exact hrd
  · rw [answer_bil]
    exact hno
  · rw [answer_bilB, signReading_readNow, noteReadNow_set]

end

/-! ## BIL_INFO (R433) -/

theorem readingKey_length (s : State) : ((readingKey s).getD (List.replicate 65 0)).length = 65 := by
  unfold readingKey
  cases s.heartwoodRoot with
  | none => rfl
  | some r => simp [publicKey, beN]

theorem keyId_length (s : State) : (keyId s).length ≤ 8 := by
  unfold keyId
  split
  · exact List.length_take_le 8 _
  · rfl

/-- What BIL_INFO answers after the check value: the key of readings and the calendars (R433). -/
def infoRest (s : State) : List Byte :=
  let act := match s.bil.passive with
    | some c => leAt c 8 4
    | none => 0
  (readingKey s).getD (List.replicate 65 0) ++ keyId s ++ leN 4 (calId s.bil.calendar) ++ leN 4 (calId s.bil.passive)
    ++ leN 4 act

theorem infoRest_length (s : State) : (infoRest s).length ≤ 85 := by
  have hk := readingKey_length s
  have hi := keyId_length s
  unfold infoRest
  simp only [List.length_append, leN_length]
  omega

theorem bilInfo_eq (h : CmdHdr) (s : State) :
    exec (.bilInfo h) s = .next (answer 0x070B 255 h.tag (padTo 32 s.bil.check ++ infoRest s) s) := by
  show execBilInfo h s = _
  unfold execBilInfo infoRest
  simp only [List.append_assoc] <;> rfl

theorem bilInfo_completes (h : CmdHdr) {s : State} (ha : CanAnswer s) : Completes (.bilInfo h) s fun t =>
    t.bil = s.bil ∧ ∃ d, lastEvent t = some (0x070B, 255, h.tag, d) ∧ d.take 32 = padTo 32 s.bil.check := by
  have hl := infoRest_length s
  have hp := padTo_length 32 s.bil.check
  refine ⟨_, bilInfo_eq h s, answer_bil _ _ _ _ _, _, answer_last ha _ _ _ _ (by decide) ?_, ?_⟩
  · rw [List.length_append]
    omega
  · exact List.take_left' hp

/-! ## BIL_READ_GET (R432) -/

theorem bilReadGet_range (h : CmdHdr) (first : Nat) {count : Nat} (hc : count = 0 ∨ 1024 < count) (s : State) :
    exec (.bilReadGet h first count) s = .next (answer 0x070A 255 h.tag [3] s) := if_pos hc

/-- The readings found go to the bulk window. -/
theorem bilReadGet_found (h : CmdHdr) {first count : Nat} (h1 : 1 ≤ count) (h2 : count ≤ 1024) {s : State}
    (hf : loggedReadings s first count ≠ []) :
    exec (.bilReadGet h first count) s
      = .next (answer 0x070A 255 h.tag [0] (bulkOut 0x8705 ((loggedReadings s first count).flatMap (·.data)) s)) := by
  show execBilReadGet h first count s = _
  unfold execBilReadGet
  rw [if_neg (by omega)]
  cases hr : loggedReadings s first count with
  | nil => exact absurd hr hf
  | cons r rs => rfl

theorem bulkOut_done (type : Nat) (data : List Byte) (s : State) : (bulkOut type data s).host.irq.getLsbD 10 = true := by
  unfold bulkOut raiseIrq
  rw [BitVec.getLsbD_or, show (BitVec.ofNat 12 (1 <<< 10)).getLsbD 10 = true from rfl, Bool.or_true]

theorem bulkOut_canAnswer {s : State} (h : CanAnswer s) (type : Nat) (data : List Byte) :
    CanAnswer (bulkOut type data s) := h

theorem bilReadGet_completes (h : CmdHdr) {first count : Nat} (h1 : 1 ≤ count) (h2 : count ≤ 1024) {s : State}
    (hf : loggedReadings s first count ≠ []) : Completes (.bilReadGet h first count) s fun t =>
      t.host.bulkState = 3 ∧ t.host.irq.getLsbD 10 = true
        ∧ (CanAnswer s → lastEvent t = some (0x070A, 255, h.tag, [0])) := by
  refine ⟨_, bilReadGet_found h h1 h2 hf, ?_, answer_irq _ _ _ _ (bulkOut_done _ _ s),
    fun ha => answer_last (bulkOut_canAnswer ha _ _) _ _ _ _⟩
  rw [answer_host_bulkState]
  rfl

/-- Settles O40: each command by its results, the sets of time by what TIME_SRC lets through. -/
theorem billingCommands : Obligations.BillingCommands := by
  unfold Obligations.BillingCommands
  refine fun s h => ⟨fun utc off hsrc ha => ?_, fun off hsrc ho => bilTimeSet_offset h (hostMaySet_host hsrc) ho,
    fun utc hsrc hu => bilTimeSet_time h (hostMaySet_host hsrc) hu, fun pre post r hq hn => ?_, fun no hn ha => ?_,
    fun b hb hs => ⟨fun hr ha => answers_of (bilReadNow_again hb hr) ha, bilReadNow_first_completes hb hs⟩,
    bilInfo_completes h, fun first count hc ha => answers_of (bilReadGet_range h first hc s) ha,
    fun first count h1 h2 hf => bilReadGet_completes h h1 h2 hf⟩
  · exact ⟨_, bilTimeSet_refused h utc off (hostMaySet_canopy hsrc), answer_bak _ _ _ _ _, answer_bil _ _ _ _ _,
      answer_last ha _ _ _ _⟩
  · have hroom (ha : CanAnswer s) : CanAnswer { s with bil.queue := post } := ha
    exact ⟨_, bilReadAck_found h hq hn, by rw [answer_bil], fun ha => answer_last (hroom ha) _ _ _ _⟩
  · exact ⟨_, bilReadAck_missing h hn, by rw [answer_bil], answer_last ha _ _ _ _⟩

end Sys2Proof.Safety
end

section
/-! SUPPORT. The load channels: what driving, faults and retries do to a channel's entry (R446 to R454), the answers of
AUX_SET and AUX_CLEAR (R465), and the rounding of the lamp compensation (R451). -/

set_option Elab.async false

namespace Sys2Proof.Safety

open Sys2Proof.Machine

/-! ## Driving a channel (R445, R446) -/

/-- A channel's entry without what driving it sets. -/
def undriven (a : AuxCh) : AuxCh :=
  { a with on := false, outDuty := 0, nextDuty := 0, inrush := false, inrushX3 := false, inrushLimit := 0,
           atLimit := false, current := 0 }

section
variable (c e : Fin 32) (s : State)

/-- Driving changes the channel's own entry, and there only what it sets. -/
theorem auxDrive_aux : ∃ f, (auxDrive c s).aux = modAt s.aux c f ∧ ∀ a, undriven (f a) = undriven a := by
  unfold auxDrive
  dsimp only
  split
  · exact ⟨_, State.onAux_aux .., fun _ => rfl⟩
  · split
    · exact ⟨_, State.onAux_aux .., fun _ => rfl⟩
    · exact ⟨_, State.onAux_aux .., fun _ => rfl⟩

theorem auxDrive_undriven : undriven (auxDrive c s).aux[e] = undriven s.aux[e] := by
  obtain ⟨f, hf, hu⟩ := auxDrive_aux c s
  rw [hf, modAt_fin]
  split
  · exact hu _
  · rfl

theorem auxDrive_other {c e : Fin 32} (h : c ≠ e) : (auxDrive c s).aux[e] = s.aux[e] := by
  obtain ⟨f, hf, -⟩ := auxDrive_aux c s
  rw [hf, modAt_get_other _ _ _ _ h]

theorem auxDrive_hot : (auxDrive c s).aux[e].hot = s.aux[e].hot := (congrArg AuxCh.hot (auxDrive_undriven c e s) :)

theorem auxDrive_temp : (auxDrive c s).aux[e].temp = s.aux[e].temp := (congrArg AuxCh.temp (auxDrive_undriven c e s) :)

theorem auxDrive_retryCnt : (auxDrive c s).aux[e].retryCnt = s.aux[e].retryCnt :=
  (congrArg AuxCh.retryCnt (auxDrive_undriven c e s) :)

theorem auxDrive_retryWait : (auxDrive c s).aux[e].retryWait = s.aux[e].retryWait :=
  (congrArg AuxCh.retryWait (auxDrive_undriven c e s) :)

theorem auxDrive_latched : (auxDrive c s).aux[e].latched = s.aux[e].latched :=
  (congrArg AuxCh.latched (auxDrive_undriven c e s) :)

theorem auxDrive_lastFault : (auxDrive c s).aux[e].lastFault = s.aux[e].lastFault :=
  (congrArg AuxCh.lastFault (auxDrive_undriven c e s) :)

theorem auxDrive_uv : (auxDrive c s).aux[e].uv = s.aux[e].uv := (congrArg AuxCh.uv (auxDrive_undriven c e s) :)

end

section
variable {c : Fin 32} {s : State}

/-- A channel without a duty is driven off. -/
theorem auxDrive_off (h : auxDuty s c = 0) : (auxDrive c s).aux[c].on = false := by
  unfold auxDrive
  rw [if_pos h, State.onAux_aux, modAt_get]

/-- A channel that is on takes the compensated duty at its next rising edge. -/
theorem auxDrive_nextDuty (h : auxDuty s c ≠ 0) (hon : s.aux[c].on = true) :
    (auxDrive c s).aux[c].nextDuty = auxOut s c (auxDuty s c) := by
  unfold auxDrive
  rw [if_neg h, if_pos hon, State.onAux_aux, modAt_get]

/-- HOT keeps a channel off for any cause (R448). -/
theorem auxDuty_hot (h : s.aux[c].hot = true) : auxDuty s c = 0 := by
  unfold auxDuty
  simp only [h, Bool.true_or, if_true]

/-- A latch or a retry wait keeps a channel off outside fail-safe (R449, R450). -/
theorem auxDuty_held (hf : auxFailsafe s = false) (h : s.aux[c].latched = true ∨ s.aux[c].retryWait = true) :
    auxDuty s c = 0 := by
  have hh : (s.aux[c].latched || s.aux[c].retryWait) = true := Bool.or_eq_true_iff.mpr h
  unfold auxDuty
  simp only [hf, hh, Bool.false_eq_true, if_false, if_true, ite_self]

end

/-! ## The channels of a mask or a group -/

section
variable {F : State → Fin 32 → State} (hother : ∀ t c e, c ≠ e → (F t c).aux[e] = t.aux[e])
include hother

/-- Channels outside the list stay as they were. -/
theorem foldl_channels_other {e : Fin 32} (l : List (Fin 32)) (he : e ∉ l) (s : State) :
    (l.foldl F s).aux[e] = s.aux[e] := by
  induction l generalizing s with
  | nil => rfl
  | cons c l ih =>
    obtain ⟨hc, hl⟩ := not_or.mp fun h => he (List.mem_cons.mpr h)
    rw [List.foldl_cons, ih hl, hother s c e (Ne.symm hc)]

/-- Each channel of a list without repetitions is changed once. -/
theorem foldl_channels_mem {R : AuxCh → AuxCh → Prop} (hstep : ∀ t c, R t.aux[c] (F t c).aux[c]) {e : Fin 32}
    (l : List (Fin 32)) (hd : l.Nodup) (he : e ∈ l) (s : State) : R s.aux[e] (l.foldl F s).aux[e] := by
  induction l generalizing s with
  | nil => exact absurd he List.not_mem_nil
  | cons c l ih =>
    obtain ⟨hc, hl⟩ := List.nodup_cons.mp hd
    rw [List.foldl_cons]
    by_cases hce : c = e
    · subst hce
      rw [foldl_channels_other hother l hc]
      exact hstep s c
    · have hel : e ∈ l := (List.mem_cons.mp he).resolve_left (Ne.symm hce)
      rw [← hother s c e hce]
      exact ih hl hel (F s c)

end

theorem mem_maskChannels {mask : BitVec 32} {c : Fin 32} : c ∈ maskChannels mask ↔ mask.getLsbD c.val = true := by
  simp [maskChannels, allChannels]

theorem maskChannels_nodup (mask : BitVec 32) : (maskChannels mask).Nodup := (List.nodup_finRange 32).filter _

/-- The channels of load group g (R78). -/
def groupChannels (g : Fin 4) : List (Fin 32) := allChannels.filter fun c => c.val / 8 == g.val

theorem mem_groupChannels {g : Fin 4} {c : Fin 32} : c ∈ groupChannels g ↔ c.val / 8 = g.val := by
  simp [groupChannels, allChannels]

theorem groupChannels_nodup (g : Fin 4) : (groupChannels g).Nodup := (List.nodup_finRange 32).filter _

/-- An entry is changed, then its channel driven: the other channels stay. -/
theorem driveChanged_other (f : AuxCh → AuxCh) (t : State) (c e : Fin 32) (h : c ≠ e) :
    (auxDrive c (t.onAux c f)).aux[e] = t.aux[e] := by
  rw [auxDrive_other _ h, State.onAux_aux, modAt_get_other _ _ _ _ h]

/-! ## AUX_SET and AUX_CLEAR (R444, R450, R465) -/

/-- A channel that the host may not set (R465). -/
def refusesSet (s : State) (c : Fin 32) : Bool := auxOwner s c != 0 || s.aux[c].bridge

/-- A duty waits at a channel for the next tick. -/
def holdDuty (duty : Nat) (t : State) (c : Fin 32) : State := t.onAux c fun a => { a with waitDuty := some duty }

/-- RETRY_CNT and the latch go, and the channel is driven. -/
def clearChannel (t : State) (c : Fin 32) : State :=
  auxDrive c (t.onAux c fun a => { a with retryCnt := 0, latched := false })

section
variable {s : State} (h : CmdHdr) {mask : BitVec 32} {duty : Nat}

theorem auxSet_range (hd : 1000 < duty) : exec (.auxSet h mask duty) s = .next (answer 0x0801 255 h.tag [4] s) := by
  show execAuxSet h mask duty s = _
  unfold execAuxSet
  dsimp only
  rw [if_pos hd]
  rfl

theorem auxSet_refused (hd : duty ≤ 1000) (hr : (maskChannels mask).any (refusesSet s) = true) :
    exec (.auxSet h mask duty) s = .next (answer 0x0801 255 h.tag [2] s) := by
  unfold refusesSet at hr
  show execAuxSet h mask duty s = _
  unfold execAuxSet
  dsimp only
  rw [if_neg (by omega), if_pos hr]
  rfl

theorem auxSet_taken (hd : duty ≤ 1000) (hr : (maskChannels mask).any (refusesSet s) = false) :
    exec (.auxSet h mask duty) s
      = .next (answer 0x0801 255 h.tag [0] ((maskChannels mask).foldl (holdDuty duty) s)) := by
  unfold refusesSet at hr
  show execAuxSet h mask duty s = _
  unfold execAuxSet
  dsimp only
  rw [if_neg (by omega), if_neg (by rw [hr]; exact Bool.false_ne_true)]
  rfl

/-- A mask of host channels that the safety block does not hold takes the duty, and no other channel does. -/
theorem auxSet_completes (hd : duty ≤ 1000)
    (hm : ∀ c : Fin 32, mask.getLsbD c.val = true → auxOwner s c = 0 ∧ s.aux[c].bridge = false) :
    Completes (.auxSet h mask duty) s fun t =>
      ∀ c : Fin 32, t.aux[c] = if mask.getLsbD c.val then { s.aux[c] with waitDuty := some duty } else s.aux[c] := by
  have hr : (maskChannels mask).any (refusesSet s) = false := List.any_eq_false.mpr fun c hc => by
    obtain ⟨ho, hb⟩ := hm c (mem_maskChannels.mp hc)
    rw [refusesSet, ho, hb]
    decide
  have hother (t : State) (c e : Fin 32) (hce : c ≠ e) : (holdDuty duty t c).aux[e] = t.aux[e] :=
    modAt_get_other _ _ _ _ hce
  refine ⟨_, auxSet_taken h hd hr, fun c => ?_⟩
  rw [answer_aux]
  split
  · rename_i hc
    exact foldl_channels_mem hother (R := fun a b => b = { a with waitDuty := some duty }) (fun t e => modAt_get _ _ _)
      _ (maskChannels_nodup mask) (mem_maskChannels.mpr hc) s
  · rename_i hc
    exact foldl_channels_other hother _ (fun hin => hc (mem_maskChannels.mp hin)) s

theorem auxClear_completes (mask : BitVec 32) : Completes (.auxClear h mask) s fun t => ∀ c : Fin 32,
    (mask.getLsbD c.val = true → t.aux[c].retryCnt = 0 ∧ t.aux[c].latched = false)
      ∧ (mask.getLsbD c.val = false → t.aux[c] = s.aux[c]) := by
  have hother : ∀ t c e, c ≠ e → (clearChannel t c).aux[e] = t.aux[e] := driveChanged_other _
  have hstep (t : State) (c : Fin 32) :
      (clearChannel t c).aux[c].retryCnt = 0 ∧ (clearChannel t c).aux[c].latched = false := by
    unfold clearChannel
    rw [auxDrive_retryCnt, auxDrive_latched, State.onAux_aux, modAt_get]
    exact ⟨rfl, rfl⟩
  refine ⟨answer 0x0801 255 h.tag [0] ((maskChannels mask).foldl clearChannel s), rfl, fun c => ?_⟩
  rw [answer_aux]
  refine ⟨fun hc => ?_, fun hc => ?_⟩
  · exact foldl_channels_mem hother (R := fun _ b => b.retryCnt = 0 ∧ b.latched = false) hstep _
      (maskChannels_nodup mask) (mem_maskChannels.mpr hc) s
  · exact foldl_channels_other hother _ (fun hin => Bool.false_ne_true (hc.symm.trans (mem_maskChannels.mp hin))) s

end

/-! ## Faults (R447 to R449) -/

/-- A channel's entry at a fault, before the channel is driven: kept off in fail-safe, latched once the retries are
used, in retry otherwise. -/
def faultEntry (failsafe : Bool) (retries kind : Nat) (a : AuxCh) : AuxCh :=
  let a := { a with lastFault := kind, faultNoted := true }
  if failsafe then { a with fsFault := true }
  else if a.retryCnt = retries then { a with latched := true }
  else { a with retryWait := true, retryDue := false }

theorem faultEntry_sensor (failsafe : Bool) (retries kind : Nat) (a : AuxCh) :
    (faultEntry failsafe retries kind a).hot = a.hot ∧ (faultEntry failsafe retries kind a).temp = a.temp
      ∧ (faultEntry failsafe retries kind a).lastFault = kind := by
  unfold faultEntry
  dsimp only
  split
  · exact ⟨rfl, rfl, rfl⟩
  · split <;> exact ⟨rfl, rfl, rfl⟩

theorem faultEntry_latch {retries kind : Nat} {a : AuxCh} (h : a.retryCnt = retries) :
    faultEntry false retries kind a = { a with lastFault := kind, faultNoted := true, latched := true } := by
  unfold faultEntry
  rw [if_neg Bool.false_ne_true, if_pos h]

theorem faultEntry_retry {retries kind : Nat} {a : AuxCh} (h : a.retryCnt ≠ retries) :
    faultEntry false retries kind a
      = { a with lastFault := kind, faultNoted := true, retryWait := true, retryDue := false } := by
  unfold faultEntry
  rw [if_neg Bool.false_ne_true, if_neg h]

section
variable (c : Fin 32) (kind : Nat) (s : State)

/-- The fault noted in the entry, with event 0x0802 unless it was recorded in this second. -/
def noteFault : State :=
  let t := s.onAux c fun a => { a with lastFault := kind, faultNoted := true }
  if s.aux[c].faultNoted then t
  else emit 0x0802 255 (leN 1 c.val ++ leN 1 (auxOwner t c) ++ leN 1 kind ++ leN 1 s.aux[c].retryCnt
    ++ leN 2 s.aux[c].current ++ leI 2 s.aux[c].temp) t

theorem noteFault_aux :
    (noteFault c kind s).aux = modAt s.aux c fun a => { a with lastFault := kind, faultNoted := true } := by
  unfold noteFault
  dsimp only
  split
  · rfl
  · exact emit_aux _ _ _ _

theorem noteFault_failsafe : auxFailsafe (noteFault c kind s) = auxFailsafe s := by
  unfold noteFault
  dsimp only
  split
  · rfl
  · unfold auxFailsafe State.ready
    rw [emit_safDev, emit_start]
    rfl

theorem noteFault_cfg : (noteFault c kind s).auxChCfg c.val = s.auxChCfg c.val := by
  unfold noteFault
  dsimp only
  split
  · rfl
  · unfold State.auxChCfg State.cfg
    rw [emit_host_applied]
    rfl

theorem auxFault_eq : auxFault c kind s =
    if auxFailsafe s then auxDrive c ((noteFault c kind s).onAux c fun a => { a with fsFault := true })
    else if s.aux[c].retryCnt = fld ((noteFault c kind s).auxChCfg c.val) 13 10 then
      emit 0x0803 255 (leN 1 c.val ++ leN 1 (auxOwner (noteFault c kind s) c) ++ leN 4 (s.aux[c].retryCnt + 1))
        (auxDrive c ((noteFault c kind s).onAux c fun a => { a with latched := true }))
    else auxDrive c ((noteFault c kind s).onAux c fun a => { a with retryWait := true, retryDue := false }) := rfl

/-- A fault drives the channel with the entry of the fault; fail-safe is as before. -/
theorem auxFault_drives : ∃ u, (auxFault c kind s).aux = (auxDrive c u).aux ∧ auxFailsafe u = auxFailsafe s
    ∧ u.aux[c] = faultEntry (auxFailsafe s) (fld (s.auxChCfg c.val) 13 10) kind s.aux[c] := by
  have haux := noteFault_aux c kind s
  have hfs := noteFault_failsafe c kind s
  have hcfg := noteFault_cfg c kind s
  have hentry (f : AuxCh → AuxCh) : ((noteFault c kind s).onAux c f).aux[c]
      = f { s.aux[c] with lastFault := kind, faultNoted := true } := by
    rw [State.onAux_aux, modAt_get, haux, modAt_get]
  rw [auxFault_eq, hcfg]
  unfold faultEntry
  dsimp only
  split
  · exact ⟨_, rfl, hfs, hentry _⟩
  · split
    · exact ⟨_, emit_aux .., hfs, hentry _⟩
    · exact ⟨_, rfl, hfs, hentry _⟩

end

section
variable {c : Fin 32} {kind : Nat} {s : State}

/-- Outside fail-safe a fault turns the channel off, and it waits or latches. -/
theorem auxFault_waits (hf : auxFailsafe s = false) (hcnt : s.aux[c].retryCnt ≠ fld (s.auxChCfg c.val) 13 10) :
    (auxFault c kind s).aux[c].on = false ∧ (auxFault c kind s).aux[c].retryWait = true
      ∧ (auxFault c kind s).aux[c].lastFault = kind ∧ (auxFault c kind s).aux[c].latched = s.aux[c].latched := by
  obtain ⟨u, hu, hfs, hentry⟩ := auxFault_drives c kind s
  rw [hf, faultEntry_retry hcnt] at hentry
  have hoff : auxDuty u c = 0 := auxDuty_held (hfs.trans hf) (.inr (by rw [hentry]))
  rw [hu, auxDrive_off hoff, auxDrive_retryWait, auxDrive_lastFault, auxDrive_latched, hentry]
  exact ⟨rfl, rfl, rfl, rfl⟩

theorem auxFault_latches (hf : auxFailsafe s = false) (hcnt : s.aux[c].retryCnt = fld (s.auxChCfg c.val) 13 10) :
    (auxFault c kind s).aux[c].on = false ∧ (auxFault c kind s).aux[c].latched = true
      ∧ (auxFault c kind s).aux[c].lastFault = kind := by
  obtain ⟨u, hu, hfs, hentry⟩ := auxFault_drives c kind s
  rw [hf, faultEntry_latch hcnt] at hentry
  have hoff : auxDuty u c = 0 := auxDuty_held (hfs.trans hf) (.inl (by rw [hentry]))
  rw [hu, auxDrive_off hoff, auxDrive_latched, auxDrive_lastFault, hentry]
  exact ⟨rfl, rfl, rfl⟩

/-- A fault of a hot channel turns it off, in fail-safe too. -/
theorem auxFault_hot (hh : s.aux[c].hot = true) :
    (auxFault c kind s).aux[c].on = false ∧ (auxFault c kind s).aux[c].hot = true
      ∧ (auxFault c kind s).aux[c].temp = s.aux[c].temp ∧ (auxFault c kind s).aux[c].lastFault = kind := by
  obtain ⟨u, hu, -, hentry⟩ := auxFault_drives c kind s
  obtain ⟨hhot, htemp, hlast⟩ := faultEntry_sensor (auxFailsafe s) (fld (s.auxChCfg c.val) 13 10) kind s.aux[c]
  rw [← hentry] at hhot htemp hlast
  rw [hu, auxDrive_off (auxDuty_hot (hhot.trans hh)), auxDrive_hot, auxDrive_temp, auxDrive_lastFault]
  exact ⟨rfl, hhot.trans hh, htemp, hlast⟩

theorem channelOvercurrent_faults (hon : s.aux[c].on = true) (hi : s.aux[c].inrush = false) :
    exec (.channelOvercurrent c) s = .next (auxFault c 1 s) := if_pos (by rw [hon, hi]; rfl)

/-- Without a current, or inside an inrush window, there is no overcurrent fault (R447). -/
theorem channelOvercurrent_none (h : s.aux[c].on = false ∨ s.aux[c].inrush = true) :
    exec (.channelOvercurrent c) s = .next s := if_neg (by rcases h with h | h <;> rw [h] <;> simp)

/-- The channel's sensor has reached its limit, and HOT is set. -/
def turnHot (c : Fin 32) (temp : Int) (s : State) : State := s.onAux c fun a => { a with hot := true, temp := temp }

theorem channelThermalFault_completes (temp : Int) : Completes (.channelThermalFault c temp) s fun t =>
    t.aux[c].on = false ∧ t.aux[c].hot = true ∧ t.aux[c].temp = temp
      ∧ (s.aux[c].on = true → t.aux[c].lastFault = 2) := by
  have hentry : (turnHot c temp s).aux[c] = { s.aux[c] with hot := true, temp := temp } := modAt_get _ _ _
  have hhot : (turnHot c temp s).aux[c].hot = true := by rw [hentry]
  have htemp : (turnHot c temp s).aux[c].temp = temp := by rw [hentry]
  by_cases hon : s.aux[c].on = true
  · obtain ⟨hoff, hh, ht, hlast⟩ := auxFault_hot (kind := 2) hhot
    exact ⟨_, if_pos hon, hoff, hh, ht.trans htemp, fun _ => hlast⟩
  · exact ⟨_, if_neg hon, auxDrive_off (auxDuty_hot hhot), (auxDrive_hot c c _).trans hhot,
      (auxDrive_temp c c _).trans htemp, fun h => absurd h hon⟩

end

/-! ## Retries (R449, R468) -/

section
variable {c : Fin 32} {s : State}

/-- A restart whose delay has passed is counted, once HOT is clear and outside fail-safe. -/
theorem auxRetry_restarts (hw : s.aux[c].retryWait = true) (hd : s.aux[c].retryDue = true)
    (hh : s.aux[c].hot = false) (hf : auxFailsafe s = false) :
    auxRetry c s
      = auxDrive c (s.onAux c fun a => { a with retryWait := false, retryDue := false, retryCnt := a.retryCnt + 1 }) :=
  if_pos (by rw [hw, hd, hh, hf]; rfl)

/-- HOT puts a restart off. -/
theorem auxRetry_hot (hh : s.aux[c].hot = true) : auxRetry c s = auxDrive c s := if_neg (by rw [hh]; simp)

/-- A restart leaves the sensor. -/
theorem auxRetry_sensor (c : Fin 32) (s : State) :
    (auxRetry c s).aux[c].hot = s.aux[c].hot ∧ (auxRetry c s).aux[c].temp = s.aux[c].temp := by
  unfold auxRetry
  dsimp only
  split
  · rw [auxDrive_hot, auxDrive_temp, State.onAux_aux, modAt_get]
    exact ⟨rfl, rfl⟩
  · exact ⟨auxDrive_hot c c s, auxDrive_temp c c s⟩

theorem hotClear_completes (temp : Int) :
    Completes (.hotClear c temp) s fun t => t.aux[c].hot = false ∧ t.aux[c].temp = temp := by
  obtain ⟨hhot, htemp⟩ := auxRetry_sensor c (s.onAux c fun a => { a with hot := false, temp := temp })
  rw [State.onAux_aux, modAt_get] at hhot htemp
  exact ⟨_, rfl, hhot, htemp⟩

/-- RETRY_MS has passed since the fault. -/
def retryElapsed (c : Fin 32) (s : State) : State := s.onAux c fun a => { a with retryDue := a.retryWait }

theorem retryElapsed_entry (c : Fin 32) (s : State) :
    (retryElapsed c s).aux[c] = { s.aux[c] with retryDue := s.aux[c].retryWait } := modAt_get _ _ _

theorem retryRestart_counts (hw : s.aux[c].retryWait = true) (hh : s.aux[c].hot = false)
    (hf : auxFailsafe s = false) : Completes (.retryRestart c) s fun t =>
      t.aux[c].retryWait = false ∧ t.aux[c].retryCnt = s.aux[c].retryCnt + 1 := by
  have he := retryElapsed_entry c s
  have hfs : auxFailsafe (retryElapsed c s) = false := hf
  refine ⟨auxRetry c (retryElapsed c s), rfl, ?_⟩
  dsimp only
  rw [auxRetry_restarts (by rw [he]; exact hw) (by rw [he]; exact hw) (by rw [he]; exact hh) hfs, auxDrive_retryWait,
    auxDrive_retryCnt, State.onAux_aux, modAt_get, he]
  exact ⟨rfl, rfl⟩

theorem retryRestart_waits (hw : s.aux[c].retryWait = true) (hh : s.aux[c].hot = true) :
    Completes (.retryRestart c) s fun t =>
      t.aux[c].retryWait = true ∧ t.aux[c].retryCnt = s.aux[c].retryCnt := by
  have he := retryElapsed_entry c s
  refine ⟨auxRetry c (retryElapsed c s), rfl, ?_⟩
  dsimp only
  rw [auxRetry_hot (by rw [he]; exact hh), auxDrive_retryWait, auxDrive_retryCnt, he]
  exact ⟨hw, rfl⟩

theorem retryCountReset_completes (hon : s.aux[c].on = true) :
    Completes (.retryCountReset c) s fun t => t.aux[c].retryCnt = 0 ∧ t.aux[c].on = true := by
  refine ⟨_, if_pos hon, ?_⟩
  dsimp only
  rw [State.onAux_aux, modAt_get]
  exact ⟨rfl, hon⟩

/-! ## Inrush window and active limit (R446, R447) -/

theorem inrushWindowEnd_completes (c : Fin 32) (s : State) : Completes (.inrushWindowEnd c) s fun t =>
    t.aux[c].inrush = false ∧ ∀ d, d ≠ c → t.aux[d] = s.aux[d] := by
  refine ⟨_, rfl, ?_, fun d hd => modAt_get_other _ _ _ _ hd.symm⟩
  rw [State.onAux_aux, modAt_get]

theorem channelLimitReached_completes (hon : s.aux[c].on = true) : Completes (.channelLimitReached c) s fun t =>
    t.aux[c].atLimit = true ∧ t.aux[c].current = auxLimit s c := by
  refine ⟨_, if_pos hon, ?_⟩
  dsimp only
  rw [State.onAux_aux, modAt_get]
  exact ⟨rfl, rfl⟩

/-- A channel that is off has no limit to reach, no overcurrent and no good seconds. -/
theorem off_unchanged (hoff : s.aux[c].on = false) : exec (.channelLimitReached c) s = .next s
    ∧ exec (.channelOvercurrent c) s = .next s ∧ exec (.retryCountReset c) s = .next s := by
  have hn : ¬ s.aux[c].on = true := by rw [hoff]; exact Bool.false_ne_true
  exact ⟨if_neg hn, channelOvercurrent_none (.inl hoff), if_neg hn⟩

/-! ## Current sense and group supplies (R452, R454) -/

theorem isenseScanStep_fixed (hm : fld s.auxDevCfg 31 30 = 1) :
    Completes .isenseScanStep s fun t => t.auxDev.isel = some (fld s.auxDevCfg 28 24) := by
  have hsel : senseChannel s s.auxDev.isel = some (fld s.auxDevCfg 28 24) := by
    unfold senseChannel
    rw [hm]
    rfl
  exact ⟨_, if_neg (by rw [hm]; decide), hsel⟩

/-- A channel's group supply is back, and the channel is driven. -/
def supplyBack (t : State) (c : Fin 32) : State := auxDrive c (t.onAux c fun a => { a with uv := false })

theorem groupSupplyReturn_out {g : Fin 4} (hg : s.supply.inRange.getLsbD (9 + g.val) = false) :
    exec (.groupSupplyReturn g) s = .next s := if_pos (by rw [hg]; rfl)

theorem groupSupplyReturn_back {g : Fin 4} (hg : s.supply.inRange.getLsbD (9 + g.val) = true) :
    exec (.groupSupplyReturn g) s = .next ((groupChannels g).foldl supplyBack s) := if_neg (by rw [hg]; decide)

theorem groupSupplyReturn_completes {g : Fin 4} (hg : s.supply.inRange.getLsbD (9 + g.val) = true)
    (hc : c.val / 8 = g.val) : Completes (.groupSupplyReturn g) s fun t => t.aux[c].uv = false := by
  have hstep (t : State) (e : Fin 32) : (supplyBack t e).aux[e].uv = false := by
    unfold supplyBack
    rw [auxDrive_uv, State.onAux_aux, modAt_get]
  exact ⟨_, groupSupplyReturn_back hg, foldl_channels_mem (driveChanged_other _) (R := fun _ b => b.uv = false) hstep _
    (groupChannels_nodup g) (mem_groupChannels.mpr hc) s⟩

/-! ## Lamp compensation (R451) -/

/-- A lamp channel of the 12 V reference outside fail-safe takes the compensated duty. -/
theorem auxOut_lamp {d : Nat} (hd : 0 < d) (hl : bitOf (s.auxChCfg c.val) 26 = true)
    (hv : bitOf (s.auxChCfg c.val) 25 = false) (hf : auxFailsafe s = false) (hb : s.aux[c].bridge = false) :
    auxOut s c d = lampDuty d 1200 (getN s.auxDev.vgrp (c.val / 8) 0) := by
  unfold auxOut
  rw [if_neg (by rw [hl, hf, hb]; simpa using hd.ne'), hv]
  rfl

/-- The supply of a channel's group is measured. -/
def supplyMeasured (c : Fin 32) (vs : Nat) (s : State) : State :=
  { s with auxDev.vgrp := modN s.auxDev.vgrp (c.val / 8) fun _ => vs }

theorem lampCompensation_completes {d : Nat} (vs : Nat) (hon : s.aux[c].on = true) (hd : auxDuty s c = d) (h0 : 0 < d)
    (hl : bitOf (s.auxChCfg c.val) 26 = true) (hv : bitOf (s.auxChCfg c.val) 25 = false)
    (hf : auxFailsafe s = false) (hb : s.aux[c].bridge = false) :
    Completes (.lampCompensation c vs) s fun t => t.aux[c].nextDuty = lampDuty d 1200 vs := by
  have hdu : auxDuty (supplyMeasured c vs s) c = d := hd
  have hvs : getN (supplyMeasured c vs s).auxDev.vgrp (c.val / 8) 0 = vs := getN_modN _ _ (by omega) _ _
  have hout : auxOut (supplyMeasured c vs s) c d = lampDuty d 1200 vs := by
    rw [auxOut_lamp (s := supplyMeasured c vs s) h0 hl hv hf hb, hvs]
  have hnext := auxDrive_nextDuty (s := supplyMeasured c vs s) (by rw [hdu]; exact h0.ne') hon
  rw [hdu, hout] at hnext
  exact ⟨_, congrArg Host.Outcome.next (if_pos hon), hnext⟩

end

section
variable {d vref vs : Nat}

theorem lampDuty_le (d vref vs : Nat) : lampDuty d vref vs ≤ 1000 := min_le_left _ _

/-- The voltage that the compensation divides by is positive. -/
theorem lampFloor_pos (hr : 2 ≤ vref) (vs : Nat) : 0 < max vs (vref / 2) := by omega

/-- At the reference voltage the duty stays. -/
theorem lampDuty_reference (hd : d ≤ 1000) (hr : 2 ≤ vref) : lampDuty d vref vref = d := by
  have hv : max vref (vref / 2) = vref := by omega
  have hp : 0 < vref * vref := by positivity
  have hq : (2 * d * vref * vref + vref * vref) / (2 * vref * vref) = d := by
    refine Nat.div_eq_of_lt_le ?_ ?_ <;> nlinarith
  unfold lampDuty
  dsimp only
  rw [hv, hq, min_eq_right hd]

/-- Below its cap the duty keeps the lamp's power, rounded to the nearest 0.1 % (log entry 30: a tie upwards). -/
theorem lampDuty_rounds (hr : 2 ≤ vref) (hvs : vref ≤ 2 * vs) (hcap : lampDuty d vref vs < 1000) :
    2 * d * vref * vref ≤ (2 * lampDuty d vref vs + 1) * vs * vs
      ∧ 2 * lampDuty d vref vs * vs * vs ≤ 2 * d * vref * vref + vs * vs := by
  have hv : max vs (vref / 2) = vs := by omega
  have hp : 0 < 2 * vs * vs := by
    have : 0 < vs := by omega
    positivity
  have hq : lampDuty d vref vs = (2 * d * vref * vref + vs * vs) / (2 * vs * vs) := by
    unfold lampDuty at hcap ⊢
    dsimp only at hcap ⊢
    rw [hv] at hcap ⊢
    omega
  have hlow := Nat.div_mul_le_self (2 * d * vref * vref + vs * vs) (2 * vs * vs)
  have hhigh := Nat.lt_div_mul_add (a := 2 * d * vref * vref + vs * vs) hp
  rw [← hq] at hlow hhigh
  constructor <;> nlinarith

/-- Halves taken upward, a quotient by a greater square is no greater. -/
theorem roundedQuotient_antitone (A : Nat) {v v' : Nat} (hp : 0 < v) (h : v ≤ v') :
    (A + v' * v') / (2 * v' * v') ≤ (A + v * v) / (2 * v * v) := by
  have hlow := Nat.div_mul_le_self (A + v' * v') (2 * v' * v')
  rw [Nat.le_div_iff_mul_le (by positivity)]
  generalize (A + v' * v') / (2 * v' * v') = q at hlow ⊢
  have hsq : v * v ≤ v' * v' := Nat.mul_le_mul h h
  cases q with
  | zero => omega
  | succ n =>
    have hn : (2 * n + 1) * (v * v) ≤ (2 * n + 1) * (v' * v') := Nat.mul_le_mul_left _ hsq
    nlinarith

theorem lampDuty_antitone (d : Nat) (hr : 2 ≤ vref) {vs' : Nat} (h : vs ≤ vs') :
    lampDuty d vref vs' ≤ lampDuty d vref vs :=
  min_le_min_left 1000 (roundedQuotient_antitone _ (lampFloor_pos hr vs) (max_le_max_right _ h))

end

/-- Settles O41: the two commands by the channels of their mask, each event of a channel by what it does to the
channel's entry and drive, and the lamp compensation by its rounding. -/
theorem loadChannels : Obligations.LoadChannels := by
  unfold Obligations.LoadChannels
  refine ⟨fun s h mask duty => ⟨auxSet_completes h, fun hd ha => ?_, fun c hd hc ho ha => ?_,
      auxClear_completes h mask⟩,
    fun s c => ⟨inrushWindowEnd_completes c s, channelLimitReached_completes, off_unchanged,
      fun _ hi => channelOvercurrent_none (.inr hi), fun hon hi hf => ⟨fun hcnt => ?_, fun hcnt => ?_⟩,
      channelThermalFault_completes, hotClear_completes, retryRestart_counts, retryRestart_waits,
      retryCountReset_completes, fun vs _ => lampCompensation_completes vs, isenseScanStep_fixed,
      fun _ => groupSupplyReturn_out, fun _ => groupSupplyReturn_completes⟩,
    fun d vref vs hd hr => ⟨lampDuty_le d vref vs, lampDuty_reference hd hr, lampDuty_rounds hr,
      fun _ => lampDuty_antitone d hr⟩⟩
  · exact ⟨_, auxSet_range h hd, answer_aux _ _ _ _ _, answer_last ha _ _ _ _⟩
  · have hr : (maskChannels mask).any (refusesSet s) = true :=
      List.any_eq_true.mpr ⟨c, mem_maskChannels.mpr hc, by simp [refusesSet, ho]⟩
    exact ⟨_, auxSet_refused h hd hr, answer_aux _ _ _ _ _, answer_last ha _ _ _ _⟩
  · exact ⟨_, channelOvercurrent_faults hon hi, auxFault_waits hf hcnt⟩
  · exact ⟨_, channelOvercurrent_faults hon hi, auxFault_latches hf hcnt⟩

end Sys2Proof.Safety
end

section
/-! SUPPORT. Frames of the remaining commands of the canopy link, the service tag, the memories, the recorder and the update
(R500, R546, R547, R603, R639, R652, R681), and the frames of every command of those families. -/

set_option Elab.async false

namespace Sys2Proof.Safety

open Sys2Proof.Machine

/-! ## The canopy link and the service tag -/

theorem beaconReceived_frame (f : CnpRx) :
    Changes [.free, .trunk, .pages, .commits, .events, .ports, .modems, .association, .sessions, .powerLinks, .safety,
      .billed, .heartwood, .canopy, .recorder, .backup, .flash] (.beaconReceived f) := fun s => by
  show KeptR _ s (execBeaconReceived f s)
  unfold execBeaconReceived
  refine onFrame_keeps (.refl _ s) _ _ _ fun body u hu => ?_
  have he := emit_changes hu 0x0A0D 255
    (leN 1 (fcSrc f) ++ leN 1 (beaconOf body).rank ++ leN 1 (b2n (keepsRole (fcSrc f) (beaconOf body) u)))
  exact .ite (fun _ => .ite (fun _ => he) fun _ => heardBeacon_changes (setCanopy_changes he _) _ _)
    fun _ => heardBeacon_changes hu _ _

theorem tagWrite_frame (page off : Nat) (data : List Byte) (fin : WriteEnd) :
    Changes [.free, .events, .tag, .mirror, .recorder, .tagMem, .stored] (.tagWrite page off data fin) := fun s => by
  show KeptR _ s (execTagWrite page off data fin s)
  unfold execTagWrite
  refine whenSelected_keeps (.refl _ s) _ fun u hu => .ite (fun _ => refuseWrite_changes hu _ _) fun _ => ?_
  cases fin with
  | done => exact writeField_changes hu _ _ _
  | failed => exact refuseWrite_changes (abandonPage_changes hu _) _ _
  | cut k =>
    exact fieldGone_changes (.ite (fun _ => writeField_changes hu _ _ _) fun _ => cutWrite_changes hu _ _ _)

theorem tagPowerUp_frame : Changes [.events, .tag, .mirror, .recorder, .tagMem, .stored] .tagPowerUp := fun s => by
  show KeptR _ s (execTagPowerUp s)
  unfold execTagPowerUp
  have hr := setTag_changes (.refl (parts [.events, .tag, .mirror, .recorder, .tagMem, .stored]) s)
    { s.tag with recovered := false } rfl
  exact KeptR.ite (fun _ => .same) fun _ => .next
    (setTag_changes (.foldl _ _ hr fun _ _ hu => recoverPair_changes hu _) _ rfl)

theorem meterSnapshot_frame : Changes [.tag, .mirror, .tagMem] .meterSnapshot :=
  fun s => KeptR.ite (fun _ => .next (meterSnapshot_changes (.refl _ s))) fun _ => .same

theorem tagHistogramSummary_frame : Changes [.tag, .mirror, .tagMem] .tagHistogramSummary :=
  fun s => KeptR.next (.ite (fun _ => summarise_changes (.refl _ s)) fun _ => .refl _ s)

/-! ## The memories -/

/-- What the checks of the memories may change: the memory block, and what a fatal error of a failed word does (R603,
R604, R652). -/
def checkParts : List Part :=
  [.free, .events, .powerLinks, .powerDie, .heartwood, .display, .tag, .mirror, .memory, .cells, .recorder, .flash,
    .tagMem]

theorem lbistSlice_frame (part : Fin 14) (granted : Bool) (sig : BitVec 32) :
    Changes [.free, .events, .link, .ports, .modems, .association, .sessions, .powerLinks, .safety, .powerDie, .billed,
      .heartwood, .loads, .display, .canopy, .tag, .mirror, .memory, .cells, .recorder, .flash, .tagMem]
      (.lbistSlice part granted sig) := fun s => by
  show KeptR _ s (execLbistSlice part granted sig s)
  unfold execLbistSlice
  extract_lets n mem t mem' u host v host'
  have ht : Kept _ s t := setMemory_changes (.refl (parts [.memory]) s) _ rfl
  have hu : Kept _ s u := setMemory_changes ht _ rfl
  refine KeptR.ite (fun _ => .same) fun _ => KeptR.ite (fun _ => .next (.ite (fun _ => ?_) fun _ => hu.mono (by decide)))
    fun _ => .next (endRun_changes ?_ _ _)
  · exact setMemory_changes (setLink_changes (hu.mono (by decide)) u.host.badOp u.host.cut true false u.host.csLow) _ rfl
  · exact setLink_changes (ht.mono (by decide)) t.host.badOp t.host.cut t.host.bistRunning
      (t.host.bistRetry && part != 3) t.host.csLow

theorem marchSlice_frame (hard : List (Nat × Nat)) : Changes checkParts (.marchSlice hard) := fun s => by
  show KeptR _ s (execMarchSlice hard s)
  unfold execMarchSlice
  have hrow : Kept (parts checkParts) s { s with mem.marchRow := s.mem.marchRow + 1 } :=
    setMemory_changes (.refl _ s) _ rfl
  have hskip (i : Nat) : Kept (parts checkParts) s { s with mem.marchSkip := s.mem.marchSkip.erase i } :=
    setMemory_changes (.refl _ s) _ rfl
  refine KeptR.ite (fun _ => .same) fun _ => KeptR.ite (fun _ => KeptR.ite (fun _ => .next ?_) fun _ => .next ?_)
    fun _ => ?_
  · exact setMemory_changes hrow _ rfl
  · exact marchNext_changes (marchAt_changes hrow _ _)
  · split
    · exact .next (marchNext_changes (marchAt_changes (hskip _) _ _))
    · exact .next (marchNext_changes (.refl _ s))

theorem scrubRow_frame : Changes checkParts .scrubRow := fun s => by
  show KeptR _ s (execScrubRow s)
  unfold execScrubRow
  refine KeptR.ite (fun _ => .same) fun _ => KeptR.ite (fun _ => .next ?_) fun _ => .next ?_
  all_goals exact setMemory_changes (scrubAt_changes (.refl _ s) _) _ rfl

theorem heartwoodScrubRow_frame : Changes checkParts .heartwoodScrubRow := fun s =>
  KeptR.ite (fun _ => .same) fun _ => .next (setMemory_changes (scrubAt_changes (.refl _ s) _) _ rfl)

/-! ## Resets and the drain -/

/-- What a reset of the device may change, beside what a command of its own does: everything but the queue of commands,
what the free values count, the backup domain and what is stored (R117). -/
def resetParts : List Part :=
  [.trunk, .lattice, .crypto, .supply, .start, .pages, .commits, .events, .commands, .bulk, .link, .ports, .modems,
    .association, .sessions, .powerLinks, .sessionDev, .coils, .safety, .measures, .stops, .powerDie, .sampling, .energy,
    .averages, .quantities, .billed, .heartwood, .loads, .loadDev, .display, .canopy, .tag, .mirror, .keys, .memory,
    .cells, .recorder, .update]

theorem fatalRestart_frame : Changes (.free :: (resetParts ++ [.flash, .tagMem])) .fatalRestart := fun s => by
  show KeptR _ s (execFatalRestart s)
  unfold execFatalRestart
  split
  · exact .same
  · refine KeptR.ite (fun _ => .same) fun _ => ?_
    extract_lets first t after waits recent flash
    have ht : Kept (parts (.free :: (resetParts ++ [.flash, .tagMem]))) s t :=
      .ite (fun _ => finishDump_changes (.refl _ s)) fun _ => .refl _ s
    exact KeptR.ite (fun _ => .next (setRecorder_changes ht _)) fun _ => KeptR.ite (fun _ => .next ht) fun _ =>
      KeptR.ite (fun _ => .next (enterHold_changes ht)) fun _ => .next (deviceReset_changes (setFlash_changes ht _))

theorem activationCondition_frame :
    Changes [.free, .events, .ports, .modems, .association, .sessions, .powerLinks, .safety, .billed, .heartwood, .loads,
      .display, .memory, .cells, .recorder, .update, .flash] .activationCondition := fun s => by
  show KeptR _ s (execActivationCondition s)
  unfold execActivationCondition
  refine KeptR.ite (fun _ => .same) fun _ => .next (.forBoughs _ (emit_changes ?_ _ _ _) fun b u hu =>
    .ite (fun _ => onSesL_changes hu _ _) fun _ => holdSession_changes (onSaf_changes_view hu b _ ?_) _ _)
  · exact setUpdate_changes (.refl _ s) _
  · exact SameView.of fun _ => rfl

theorem drainEnd_frame : Changes (.free :: (resetParts ++ [.flash])) .drainEnd := fun s => by
  show KeptR _ s (execDrainEnd s)
  unfold execDrainEnd
  exact KeptR.ite (fun _ => .same) fun _ => .next (orderedReset_changes (emit_changes
    (writeDir_changes (.ite (fun _ => writeSave_changes (.refl _ s) _) fun _ => .refl _ s) _ _ _) _ _ _))

theorem confirmationWindowEnd_frame : Changes (resetParts ++ [.flash]) .confirmationWindowEnd := fun s => by
  show KeptR _ s (execConfirmationWindowEnd s)
  unfold execConfirmationWindowEnd
  exact KeptR.ite (fun _ => .same) fun _ => KeptR.ite (fun _ => .next (confirmUpdate_changes (.refl _ s) _)) fun _ =>
    .next (deviceReset_changes (writeDir_changes (.refl _ s) _ _ _))

/-! ## All of them -/

/-- Settles O58: each command's frame is put together from the frames of the operations that it calls. -/
theorem framesOfCanopyTagKeysMemoryLogAndUpdate : Obligations.FramesOfCanopyTagKeysMemoryLogAndUpdate := by
  unfold Obligations.FramesOfCanopyTagKeysMemoryLogAndUpdate
  exact ⟨modemFrameTransmit_frame, czcEdge_frame, beaconReceived_frame, joinRequest_frame, memberTimeout_frame,
    canopyDataFrame_frame, canopyAck_frame, toneMapFrame_frame, toneMapExpired_frame, statusFrame_frame,
    ceilingFrame_frame, tripFrame_frame, cnpSend_frame, fieldArrived_frame, reqb_frame, wupb_frame, slotMarker_frame,
    attrib_frame, tagRead_frame, tagWrite_frame, tagArbiterGrant_frame, tagFlush_frame, keyChallenge_frame,
    keyLifecycle_frame, keyInstall_frame, keyInfo_frame, tamperSample_frame, loopRearm_frame, drbgHealthFail_frame,
    drbgRetest_frame, lbistSlice_frame, marchSlice_frame, memInjectMode0_frame, memInjectMode1_frame, memMapGet_frame,
    histogramSample_frame, dumpSlotErased_frame, logRead_frame, logClear_frame, logDumpRead_frame, logDumpAck_frame,
    logHistGet_frame, updBegin_frame, updChunk_frame, updEnd_frame, updSchedule_frame, updConfirm_frame,
    updAbort_frame, turnStart_frame, beaconListenEnd_frame, beaconMissed_frame, loadAllocation_frame,
    ceilingValidityExpired_frame, tripFollowExpired_frame, messageCounterRollover_frame, fieldLeft_frame,
    tagPowerUp_frame, hltb_frame, tagInfo_frame, meterSnapshot_frame, lifecycleApply_frame, maskRenewal_frame,
    oscillatorDetector_frame, drbgReseed_frame, scrubRow_frame, heartwoodScrubRow_frame, fieldMapWrite_frame,
    recordWrite_frame, budgetWindowEnd_frame, histogramSnapshot_frame, tagHistogramSummary_frame, fatalRestart_frame,
    activationCondition_frame, drainEnd_frame, drainTimeout_frame, confirmationWindowEnd_frame, czcEdgeAbsent_frame⟩

end Sys2Proof.Safety
end

section
/-! SUPPORT. The frame of any command: what none of them changes, the life cycle under all but one, and which of them leave the
display alone. -/

set_option Elab.async false

namespace Sys2Proof.Safety

open Sys2Proof.Machine

/-- The commands whose frame reaches the display: its own, and those that may declare a fatal error, stop a session or reset
the device. -/
def reachesDisplay : Instr → Bool
  | .latticeTick .. | .trunkFlit .. | .laneFailed .. | .supplyTrip .. | .powerDieThermalShutdown .. |
    .resetnLow .. | .phaseP6 .. | .commitApply .. | .plateauValue .. | .proximityMean .. | .v2gRequest .. |
    .paymentDetailsReq .. | .cableCheckReq .. | .powerDeliveryReq .. | .sessionStopReq .. | .v2gTimerExpired .. |
    .hostWaitExpired .. | .authHoldExpired .. | .creditCheck .. | .grantExpired .. | .ceilingBelowMinimum .. |
    .currentAllowanceExpired .. | .sesAuthAccept .. | .sesAuthRefuse .. | .sesIdent .. | .sesStop .. |
    .closingSequence .. | .dcClosingSequence .. | .contactConfirmed .. | .closingConfirmTimeout .. |
    .prechargeComplete .. | .weldCheck .. | .weldRecheck .. | .switchTestSlot .. | .stuckOnCheck .. |
    .coilCurrentLimit .. | .coilOpenDetect .. | .coilSupplyLow .. | .emergencyStop .. | .sidePathSample .. |
    .dcResidualPersistence .. | .bridgeStateEnd .. | .heartbeatFrame .. | .logicWatchdogExpired .. |
    .safHoldSet .. | .saveTick .. | .vlcdOutOfRange .. | .lbistSlice .. | .marchSlice .. | .updAbort .. |
    .hstRestart .. | .phaseP3 | .phaseP5 | .estopDiscrepancy | .heartbeatPeriodMissed | .checkValueRecompute |
    .displayUpdate | .displayFrameStart | .vlcdAdjust | .displayRestart | .updateTimeout | .dispbtnPress |
    .dispbtnHold | .pageIdleReturn | .lowPowerEntry | .scrubRow | .heartwoodScrubRow | .fatalRestart |
    .activationCondition | .drainEnd | .confirmationWindowEnd | .commandDispatch => true
  | _ => false

/-- The command leaves the queue, the fuses and the life cycle alone, and unless its frame reaches the display the display
too. -/
def Leaves (i : Instr) : Prop :=
  Changes hostParts i ∧ (reachesDisplay i = false → ∀ s, KeptR (allBut .display) s (exec i s))

theorem Changes.dark {ps : List Part} {i : Instr} (h : Changes ps i)
    (hw : within (parts ps) (parts hostParts) = true := by decide)
    (hd : within (parts ps) (allBut .display) = true := by decide) : Leaves i :=
  ⟨fun s => KeptR.mono (h s) hw, fun _ s => KeptR.mono (h s) hd⟩

theorem Changes.lit {ps : List Part} {i : Instr} (h : Changes ps i) (hi : reachesDisplay i = true)
    (hw : within (parts ps) (parts hostParts) = true := by decide) : Leaves i :=
  ⟨fun s => KeptR.mono (h s) hw, fun hn => absurd (hi.symm.trans hn) (by decide)⟩

/-- Each command but LIFECYCLE_APPLY by its own frame. -/
theorem exec_leaves (i : Instr) (hi : i ≠ .lifecycleApply) : Leaves i := by
  cases i
  case lifecycleApply => exact absurd rfl hi
  case commandDispatch => exact commandDispatch_frame.lit rfl
  case latticeTick a b => exact (latticeTick_frame a b).lit rfl
  case trunkFlit a b c => exact (trunkFlit_frame a b c).lit rfl
  case laneFailed a => exact (laneFailed_frame a).lit rfl
  case spareLanePattern a => exact (spareLanePattern_frame a).dark
  case paceCount a => exact (paceCount_frame a).dark
  case crystalCheck a => exact (crystalCheck_frame a).dark
  case cryptoRequest a => exact (cryptoRequest_frame a).dark
  case heartwoodMailboxWrite a => exact (heartwoodMailboxWrite_frame a).dark
  case sampleFrame a => exact (sampleFrame_frame a).dark
  case energyResultAccept a b => exact (energyResultAccept_frame a b).dark
  case supplyTrip a b => exact (supplyTrip_frame a b).lit rfl
  case supplyRecovery a => exact (supplyRecovery_frame a).dark
  case backupSwitchover a => exact (backupSwitchover_frame a).dark
  case dieTempUpdate a b c => exact (dieTempUpdate_frame a b c).dark
  case powerDieThermalShutdown a => exact (powerDieThermalShutdown_frame a).lit rfl
  case resetnLow a => exact (resetnLow_frame a).lit rfl
  case resetRelease a b => exact (resetRelease_frame a b).dark
  case phaseP1 a b => exact (phaseP1_frame a b).dark
  case phaseP2 a => exact (phaseP2_frame a).dark
  case phaseP6 a => exact (phaseP6_frame a).lit rfl
  case phaseP7 a => exact (phaseP7_frame a).dark
  case commitAccept a => exact (commitAccept_frame a).dark
  case commitApply a => exact (commitApply_frame a).lit rfl
  case commitBoughApply a b => exact (commitBoughApply_frame a b).dark
  case registerWrite a b => exact (registerWrite_frame a b).dark
  case plateauValue a b c => exact (plateauValue_frame a b c).lit rfl
  case pilotFaultProbe a b => exact (pilotFaultProbe_frame a b).dark
  case proximityMean a => exact (proximityMean_frame a).lit rfl
  case cmSlacParmReq a b c => exact (cmSlacParmReq_frame a b c).dark
  case cmStartAttenCharInd a b c => exact (cmStartAttenCharInd_frame a b c).dark
  case cmMnbcSoundInd a b c d e => exact (cmMnbcSoundInd_frame a b c d e).dark
  case soundingEnd a b => exact (soundingEnd_frame a b).dark
  case cmSlacMatchReq a b => exact (cmSlacMatchReq_frame a b).dark
  case cmValidateReq a b => exact (cmValidateReq_frame a b).dark
  case validateCountEnd a => exact (validateCountEnd_frame a).dark
  case slacWindowExpired a => exact (slacWindowExpired_frame a).dark
  case staggerRelease a => exact (staggerRelease_frame a).dark
  case modemFrameReceived a b c d => exact (modemFrameReceived_frame a b c d).dark
  case selectiveAckReceived a b => exact (selectiveAckReceived_frame a b).dark
  case modemFrameTransmit a b c d e => exact (modemFrameTransmit_frame a b c d e).dark
  case seccDiscoveryReq a b c => exact (seccDiscoveryReq_frame a b c).dark
  case supportedAppProtocol a b c d e => exact (supportedAppProtocol_frame a b c d e).dark
  case v2gRequest a b => exact (v2gRequest_frame a b).lit rfl
  case paymentDetailsReq a b c d e => exact (paymentDetailsReq_frame a b c d e).lit rfl
  case cableCheckReq a => exact (cableCheckReq_frame a).lit rfl
  case powerDeliveryReq a b => exact (powerDeliveryReq_frame a b).lit rfl
  case sessionStopReq a => exact (sessionStopReq_frame a).lit rfl
  case certificateInstallationReq a => exact (certificateInstallationReq_frame a).dark
  case v2gTimerExpired a b => exact (v2gTimerExpired_frame a b).lit rfl
  case hostWaitExpired a => exact (hostWaitExpired_frame a).lit rfl
  case authHoldExpired a => exact (authHoldExpired_frame a).lit rfl
  case creditCheck a => exact (creditCheck_frame a).lit rfl
  case grantExpired a => exact (grantExpired_frame a).lit rfl
  case hostCeilingExpired a => exact (hostCeilingExpired_frame a).dark
  case ceilingBelowMinimum a => exact (ceilingBelowMinimum_frame a).lit rfl
  case stopWaitEnd a => exact (stopWaitEnd_frame a).dark
  case powerRequest a => exact (powerRequest_frame a).dark
  case currentAllowanceExpired a => exact (currentAllowanceExpired_frame a).lit rfl
  case sesAuthAccept a b c d e => exact (sesAuthAccept_frame a b c d e).lit rfl
  case sesAuthRefuse a b => exact (sesAuthRefuse_frame a b).lit rfl
  case sesIdent a b => exact (sesIdent_frame a b).lit rfl
  case sesStop a => exact (sesStop_frame a).lit rfl
  case sesGrant a b c => exact (sesGrant_frame a b c).dark
  case sesCeiling a b c => exact (sesCeiling_frame a b c).dark
  case sesCreditAdd a b c => exact (sesCreditAdd_frame a b c).dark
  case sesCreditSet a b c => exact (sesCreditSet_frame a b c).dark
  case sesCreditCreate a b c d => exact (sesCreditCreate_frame a b c d).dark
  case sesCreditDelete a b => exact (sesCreditDelete_frame a b).dark
  case sesCreditSetFlags a b c => exact (sesCreditSetFlags_frame a b c).dark
  case sesLedgerLoadMerge a b => exact (sesLedgerLoadMerge_frame a b).dark
  case sesLedgerLoadReplace a b => exact (sesLedgerLoadReplace_frame a b).dark
  case closingSequence a b => exact (closingSequence_frame a b).lit rfl
  case dcClosingSequence a b => exact (dcClosingSequence_frame a b).lit rfl
  case contactConfirmed a => exact (contactConfirmed_frame a).lit rfl
  case closingConfirmTimeout a => exact (closingConfirmTimeout_frame a).lit rfl
  case prechargeComplete a => exact (prechargeComplete_frame a).lit rfl
  case ordinaryOpening a => exact (ordinaryOpening_frame a).dark
  case secondRelease a => exact (secondRelease_frame a).dark
  case weldCheck a b => exact (weldCheck_frame a b).lit rfl
  case weldRecheck a b => exact (weldRecheck_frame a b).lit rfl
  case switchTestSlot a b => exact (switchTestSlot_frame a b).lit rfl
  case stuckOnCheck a => exact (stuckOnCheck_frame a).lit rfl
  case coilCurrentLimit a b => exact (coilCurrentLimit_frame a b).lit rfl
  case coilOpenDetect a b => exact (coilOpenDetect_frame a b).lit rfl
  case coilSupplyLow a => exact (coilSupplyLow_frame a).lit rfl
  case emergencyStop a b => exact (emergencyStop_frame a b).lit rfl
  case sidePathSample a b => exact (sidePathSample_frame a b).lit rfl
  case dcResidualPersistence a b => exact (dcResidualPersistence_frame a b).lit rfl
  case bridgeStateEnd a => exact (bridgeStateEnd_frame a).lit rfl
  case heartbeatSend a => exact (heartbeatSend_frame a).dark
  case heartbeatFrame a b c => exact (heartbeatFrame_frame a b c).lit rfl
  case coreService a => exact (coreService_frame a).dark
  case logicWatchdogExpired a => exact (logicWatchdogExpired_frame a).lit rfl
  case safClear a b => exact (safClear_frame a b).dark
  case safHoldSet a => exact (safHoldSet_frame a).lit rfl
  case safHoldRelease a => exact (safHoldRelease_frame a).dark
  case patrolVisitEnd a => exact (patrolVisitEnd_frame a).dark
  case modulatorStuck a b => exact (modulatorStuck_frame a b).dark
  case reserveChainsFilled a => exact (reserveChainsFilled_frame a).dark
  case hotSwapFitStart a => exact (hotSwapFitStart_frame a).dark
  case hotSwapFitEnd a b => exact (hotSwapFitEnd_frame a b).dark
  case mtrCal a b c d e => exact (mtrCal_frame a b c d e).dark
  case mtrCalEnd a => exact (mtrCalEnd_frame a).dark
  case mtrSwapHot a b => exact (mtrSwapHot_frame a b).dark
  case mtrSwapReturn a b => exact (mtrSwapReturn_frame a b).dark
  case swapReturnCompareEnd a b => exact (swapReturnCompareEnd_frame a b).dark
  case mtrSwapAbort a b => exact (mtrSwapAbort_frame a b).dark
  case mtrSwapReadmit a b => exact (mtrSwapReadmit_frame a b).dark
  case cycleEnd a b c => exact (cycleEnd_frame a b c).dark
  case noCrossingTimeout a => exact (noCrossingTimeout_frame a).dark
  case noGridCycle a => exact (noGridCycle_frame a).dark
  case meteringGapOpen a b => exact (meteringGapOpen_frame a b).dark
  case saveTick a b => exact (saveTick_frame a b).lit rfl
  case nrgRead a => exact (nrgRead_frame a).dark
  case nrgReadReply a => exact (nrgReadReply_frame a).dark
  case gateSilence a => exact (gateSilence_frame a).dark
  case bilTimeSet a b c => exact (bilTimeSet_frame a b c).dark
  case bilReadAck a b => exact (bilReadAck_frame a b).dark
  case bilReadNow a => exact (bilReadNow_frame a).dark
  case bilInfo a => exact (bilInfo_frame a).dark
  case bilReadGet a b c => exact (bilReadGet_frame a b c).dark
  case auxSet a b c => exact (auxSet_frame a b c).dark
  case auxClear a b => exact (auxClear_frame a b).dark
  case inrushWindowEnd a => exact (inrushWindowEnd_frame a).dark
  case channelOvercurrent a => exact (channelOvercurrent_frame a).dark
  case channelThermalFault a b => exact (channelThermalFault_frame a b).dark
  case hotClear a b => exact (hotClear_frame a b).dark
  case retryRestart a => exact (retryRestart_frame a).dark
  case retryCountReset a => exact (retryCountReset_frame a).dark
  case lampCompensation a b => exact (lampCompensation_frame a b).dark
  case groupSupplyReturn a => exact (groupSupplyReturn_frame a).dark
  case vlcdOutOfRange a => exact (vlcdOutOfRange_frame a).lit rfl
  case czcEdge a => exact (czcEdge_frame a).dark
  case beaconReceived a => exact (beaconReceived_frame a).dark
  case joinRequest a => exact (joinRequest_frame a).dark
  case memberTimeout a => exact (memberTimeout_frame a).dark
  case canopyDataFrame a => exact (canopyDataFrame_frame a).dark
  case canopyAck a b => exact (canopyAck_frame a b).dark
  case toneMapFrame a b c => exact (toneMapFrame_frame a b c).dark
  case toneMapExpired a => exact (toneMapExpired_frame a).dark
  case statusFrame a => exact (statusFrame_frame a).dark
  case ceilingFrame a => exact (ceilingFrame_frame a).dark
  case tripFrame a => exact (tripFrame_frame a).dark
  case cnpSend a b c d => exact (cnpSend_frame a b c d).dark
  case fieldArrived a => exact (fieldArrived_frame a).dark
  case reqb a b => exact (reqb_frame a b).dark
  case wupb a b => exact (wupb_frame a b).dark
  case slotMarker a => exact (slotMarker_frame a).dark
  case attrib a b => exact (attrib_frame a b).dark
  case tagRead a b => exact (tagRead_frame a b).dark
  case tagWrite a b c d => exact (tagWrite_frame a b c d).dark
  case tagArbiterGrant a b => exact (tagArbiterGrant_frame a b).dark
  case tagFlush a b => exact (tagFlush_frame a b).dark
  case keyChallenge a => exact (keyChallenge_frame a).dark
  case keyLifecycle a b c d => exact (keyLifecycle_frame a b c d).dark
  case keyInstall a b c d e => exact (keyInstall_frame a b c d e).dark
  case keyInfo a => exact (keyInfo_frame a).dark
  case tamperSample a b c => exact (tamperSample_frame a b c).dark
  case loopRearm a => exact (loopRearm_frame a).dark
  case drbgHealthFail a => exact (drbgHealthFail_frame a).dark
  case drbgRetest a => exact (drbgRetest_frame a).dark
  case lbistSlice a b c => exact (lbistSlice_frame a b c).lit rfl
  case marchSlice a => exact (marchSlice_frame a).lit rfl
  case memInjectMode0 a b c => exact (memInjectMode0_frame a b c).dark
  case memInjectMode1 a => exact (memInjectMode1_frame a).dark
  case memMapGet a => exact (memMapGet_frame a).dark
  case histogramSample a => exact (histogramSample_frame a).dark
  case dumpSlotErased a => exact (dumpSlotErased_frame a).dark
  case logRead a b c d => exact (logRead_frame a b c d).dark
  case logClear a b => exact (logClear_frame a b).dark
  case logDumpRead a b c => exact (logDumpRead_frame a b c).dark
  case logDumpAck a b => exact (logDumpAck_frame a b).dark
  case logHistGet a => exact (logHistGet_frame a).dark
  case updBegin a b => exact (updBegin_frame a b).dark
  case updChunk a b c => exact (updChunk_frame a b c).dark
  case updEnd a => exact (updEnd_frame a).dark
  case updSchedule a b c => exact (updSchedule_frame a b c).dark
  case updConfirm a => exact (updConfirm_frame a).dark
  case updAbort a => exact (updAbort_frame a).lit rfl
  case commandQueueWrite a b => exact (commandQueueWrite_frame a b).dark
  case eventQueueRead a b => exact (eventQueueRead_frame a b).dark
  case hstIrqClear a => exact (hstIrqClear_frame a).dark
  case hstCommitDoneClear a => exact (hstCommitDoneClear_frame a).dark
  case hstRestart a b => exact (hstRestart_frame a b).lit rfl
  case hstEcho a b => exact (hstEcho_frame a b).dark
  case channelLimitReached a => exact (channelLimitReached_frame a).dark
  case calendarSecond => exact calendarSecond_frame.dark
  case calendarRangeEnd => exact calendarRangeEnd_frame.dark
  case pllLockLoss => exact pllLockLoss_frame.dark
  case pllRecovery => exact pllRecovery_frame.dark
  case cryptoOperationDone => exact cryptoOperationDone_frame.dark
  case backupDomainLoss => exact backupDomainLoss_frame.dark
  case powerDieThermalRecovery => exact powerDieThermalRecovery_frame.dark
  case phaseP3 => exact phaseP3_frame.lit rfl
  case phaseP4 => exact phaseP4_frame.dark
  case phaseP5 => exact phaseP5_frame.lit rfl
  case waitSupplyEnd => exact waitSupplyEnd_frame.dark
  case decisionWindowEnd => exact decisionWindowEnd_frame.dark
  case emergencyStopRelease => exact emergencyStopRelease_frame.dark
  case estopDiscrepancy => exact estopDiscrepancy_frame.lit rfl
  case heartbeatPeriodMissed => exact heartbeatPeriodMissed_frame.lit rfl
  case heartwoodConversion => exact heartwoodConversion_frame.dark
  case rateEvaluation => exact rateEvaluation_frame.dark
  case billingBoundary => exact billingBoundary_frame.dark
  case readingRelease => exact readingRelease_frame.dark
  case checkValueRecompute => exact checkValueRecompute_frame.lit rfl
  case isenseScanStep => exact isenseScanStep_frame.dark
  case displayUpdate => exact displayUpdate_frame.lit rfl
  case displayFrameStart => exact displayFrameStart_frame.lit rfl
  case vlcdAdjust => exact vlcdAdjust_frame.lit rfl
  case displayRestart => exact displayRestart_frame.lit rfl
  case updateTimeout => exact updateTimeout_frame.lit rfl
  case dispbtnPress => exact dispbtnPress_frame.lit rfl
  case dispbtnHold => exact dispbtnHold_frame.lit rfl
  case pageIdleReturn => exact pageIdleReturn_frame.lit rfl
  case lowPowerEntry => exact lowPowerEntry_frame.lit rfl
  case turnStart => exact turnStart_frame.dark
  case beaconListenEnd => exact beaconListenEnd_frame.dark
  case beaconMissed => exact beaconMissed_frame.dark
  case loadAllocation => exact loadAllocation_frame.dark
  case ceilingValidityExpired => exact ceilingValidityExpired_frame.dark
  case tripFollowExpired => exact tripFollowExpired_frame.dark
  case messageCounterRollover => exact messageCounterRollover_frame.dark
  case fieldLeft => exact fieldLeft_frame.dark
  case tagPowerUp => exact tagPowerUp_frame.dark
  case hltb => exact hltb_frame.dark
  case tagInfo => exact tagInfo_frame.dark
  case meterSnapshot => exact meterSnapshot_frame.dark
  case maskRenewal => exact maskRenewal_frame.dark
  case oscillatorDetector => exact oscillatorDetector_frame.dark
  case drbgReseed => exact drbgReseed_frame.dark
  case scrubRow => exact scrubRow_frame.lit rfl
  case heartwoodScrubRow => exact heartwoodScrubRow_frame.lit rfl
  case fieldMapWrite => exact fieldMapWrite_frame.dark
  case recordWrite => exact recordWrite_frame.dark
  case budgetWindowEnd => exact budgetWindowEnd_frame.dark
  case histogramSnapshot => exact histogramSnapshot_frame.dark
  case tagHistogramSummary => exact tagHistogramSummary_frame.dark
  case fatalRestart => exact fatalRestart_frame.lit rfl
  case activationCondition => exact activationCondition_frame.lit rfl
  case drainEnd => exact drainEnd_frame.lit rfl
  case drainTimeout => exact drainTimeout_frame.dark
  case confirmationWindowEnd => exact confirmationWindowEnd_frame.lit rfl
  case hostBadOpcode => exact hostBadOpcode_frame.dark
  case hcsnCut => exact hcsnCut_frame.dark
  case bulkRelease => exact bulkRelease_frame.dark
  case czcEdgeAbsent => exact czcEdgeAbsent_frame.dark
  case hcsnFalling => exact hcsnFalling_frame.dark

/-- A frame without the fuses keeps each of them. -/
theorem Kept.fuses {w : Nat} {s t : State} (h : Kept w s t) (hw : w.testBit (Part.bit .fuses) = false) :
    t.nv.serial = s.nv.serial ∧ t.nv.installSecret = s.nv.installSecret ∧ t.nv.factoryMap = s.nv.factoryMap
      ∧ t.nv.rsvInput = s.nv.rsvInput := by
  have hf : (t.nv.serial, t.nv.installSecret, t.nv.factoryMap, t.nv.rsvInput)
      = (s.nv.serial, s.nv.installSecret, s.nv.factoryMap, s.nv.rsvInput) := h .fuses hw
  simpa only [Prod.mk.injEq] using hf

/-- Settles O4: no command's frame holds the queue or the fuses, and that of LIFECYCLE_APPLY alone holds the life cycle. -/
theorem queueAndFusesStand : Obligations.QueueAndFusesStand := by
  unfold Obligations.QueueAndFusesStand
  intro i s t e
  by_cases hi : i = .lifecycleApply
  · subst hi
    have h := lifecycleApply_frame s t e
    obtain ⟨h1, h2, h3, h4⟩ := h.fuses (by decide)
    exact ⟨h .queue (by decide), h1, h2, h3, h4, fun hn => absurd rfl hn⟩
  · have h := (exec_leaves i hi).1 s t e
    obtain ⟨h1, h2, h3, h4⟩ := h.fuses (by decide)
    exact ⟨h .queue (by decide), h1, h2, h3, h4, fun _ => h .lifecycle (by decide)⟩

/-- Settles O1: a step is by cases on its queue. -/
theorem stepRunsFrontCommand : Obligations.StepRunsFrontCommand := by
  unfold Obligations.StepRunsFrontCommand
  refine ⟨fun s c rest h => ?_, fun s h => ?_⟩
  · unfold step
    rw [h]
  · unfold step
    rw [h]

end Sys2Proof.Safety
end

section
/-! SUPPORT. The backlight is lit in STATE 3 alone (R483): what an operation that reaches the display leaves of this. Most reach
it by a fatal error, which asks for the display's ordered stop (R482), or by a session that energises and so ends low
power (R480). -/

set_option Elab.async false

namespace Sys2Proof.Safety

open Sys2Proof.Machine

/-- The backlight is allowed in STATE 3 alone (R483). -/
def LampOk (s : State) : Prop := s.lcd.backlight = true → s.lcd.state = .showing

/-- What leaves the display alone leaves its backlight as it is. -/
theorem LampOk.of {s t : State} (k : Kept (allBut .display) s t) (h : LampOk s) : LampOk t := by
  have e : t.lcd = s.lcd := k.same
  unfold LampOk
  rw [e]
  exact h

theorem LampOk.ite {t u : State} {c : Prop} [Decidable c] (h : c → LampOk t) (k : ¬c → LampOk u) :
    LampOk (if c then t else u) := by
  split
  · exact h ‹_›
  · exact k ‹_›

theorem LampOk.foldl {α : Type} {s : State} (l : List α) (f : State → α → State) (h : LampOk s)
    (hf : ∀ u x, LampOk u → LampOk (f u x)) : LampOk (l.foldl f s) := by
  induction l generalizing s with
  | nil => exact h
  | cons x l ih => exact ih (hf s x h)

theorem LampOk.forBoughs {s : State} (f : Bough → State → State) (h : LampOk s)
    (hf : ∀ b u, LampOk u → LampOk (f b u)) : LampOk (forBoughs f s) :=
  .foldl _ _ h fun u b hu => hf b u hu

theorem LampOk.forMask {s : State} (m : Nat) (f : Bough → State → State) (h : LampOk s)
    (hf : ∀ b u, LampOk u → LampOk (f b u)) : LampOk (forMask m f s) :=
  .forBoughs _ h fun b u hu => .ite (fun _ => hf b u hu) fun _ => hu

/-- While the backlight is off nothing is asked of the state. -/
theorem LampOk.dark {s : State} (h : s.lcd.backlight = false) : LampOk s := fun hb =>
  absurd (h.symm.trans hb) (by decide)

section
variable {s : State} (h : LampOk s)
include h

/-- Outside STATE 3 the backlight is off. -/
theorem LampOk.off (hs : s.lcd.state ≠ .showing) : s.lcd.backlight = false := by
  cases hb : s.lcd.backlight
  · rfl
  · exact absurd (h hb) hs

/-! ## The display (R480 to R483) -/

theorem orderStop_lampOk (cause : Nat) : LampOk (orderStop cause s) :=
  .ite (fun _ => h) fun _ => .of (emit_changes (.refl _ _) _ _ _) h

theorem leaveLowPower_lampOk : LampOk (leaveLowPower s) := .ite (fun _ _ => rfl) fun _ => h

theorem measureVlcd_lampOk (lo hi : Nat) : LampOk (measureVlcd lo hi s) := h

theorem copyLines_lampOk : LampOk (copyLines s) := h

theorem startDisplay_lampOk : LampOk (startDisplay s) := by
  unfold startDisplay
  split
  · rename_i hc
    simp only [Bool.and_eq_true, decide_eq_true_eq] at hc
    exact .dark (h.off (by rw [hc.1.1]; decide))
  · exact h

omit h in
theorem displayOff_lampOk : LampOk (displayOff s) := .dark rfl

theorem stopFrame_lampOk : LampOk (stopFrame s) :=
  .ite (fun _ => .of (auxAll_changes (.refl _ _)) (.dark rfl)) fun _ => .ite (fun _ => h) fun _ =>
    .ite (fun _ => startDisplay_lampOk displayOff_lampOk) fun _ => displayOff_lampOk

omit h in
/-- A reset clears the display. -/
theorem deviceReset_lampOk (s : State) : LampOk (deviceReset s) := .dark rfl

/-! ## Fatal errors (R652) -/

theorem fatalError_lampOk (cause stop addr : Nat) : LampOk (fatalError cause stop addr s) := by
  unfold fatalError
  extract_lets t die bil u log slot no
  have ht : LampOk t := .ite (fun _ => orderStop_lampOk h 3) fun _ => h
  exact .ite (fun _ => ht) fun _ => ht

theorem recomputeCheck_lampOk : LampOk (recomputeCheck s) :=
  .ite (fun _ => h) fun _ => fatalError_lampOk (.of (emit_changes (.refl _ s) _ _ _) h) _ _ _

/-! ## Sessions that change their state (R213) -/

theorem goState_lampOk (b : Bough) (st : SesState) : LampOk (goState b st s) := by
  unfold goState
  refine .of (auxAll_changes (withRequest_changes (.refl _ _) _ _ fun u hu => ?_))
    (.ite (fun _ => leaveLowPower_lampOk h) fun _ => h)
  exact emit_changes (onSes_changes hu _ _) _ _ _

theorem finishSession_lampOk (b : Bough) : LampOk (finishSession b s) :=
  .of (leaveNetwork_changes (closeSession_changes (.refl _ _) _) _) (goState_lampOk h _ _)

theorem idleSession_lampOk (b : Bough) : LampOk (idleSession b s) := by
  unfold idleSession
  refine .of (withRequest_changes (leaveNetwork_changes ?_ _) _ _ fun u hu => hu) (goState_lampOk h b .idle)
  exact onSaf_changes_view (onPort_changes (onSesL_changes (onSes_changes (.refl _ _) _ _) _ _) _ _) _ _
    (SameView.of fun _ => rfl)

theorem endEarly_lampOk (b : Bough) (reason : Nat) : LampOk (endEarly b reason s) :=
  idleSession_lampOk (.of (closeSession_changes (onSes_changes (.refl _ s) _ _) _) h) b

theorem stopDone_lampOk (b : Bough) : LampOk (stopDone b s) := by
  unfold stopDone
  have hf : LampOk (finishSession b s) := finishSession_lampOk h b
  exact .ite (fun _ => idleSession_lampOk hf b) fun _ => hf

theorem enterStopping_lampOk (b : Bough) (reason : Nat) : LampOk (enterStopping b reason s) := by
  unfold enterStopping
  extract_lets isOpen notice t u v w
  have hv : LampOk v := h
  have hw : LampOk w := goState_lampOk hv b .stopping
  exact .ite (fun _ => stopDone_lampOk hw b) fun _ => hw

theorem stopSession_lampOk (b : Bough) (reason : Nat) : LampOk (stopSession b reason s) := by
  unfold stopSession
  refine .ite (fun _ => h) fun _ => ?_
  split
  · exact enterStopping_lampOk h b reason
  · exact enterStopping_lampOk h b reason
  · exact enterStopping_lampOk h b reason
  · exact finishSession_lampOk (s := s.onSes b _) h b
  · exact finishSession_lampOk (s := s.onSes b _) h b
  · exact finishSession_lampOk (s := s.onSes b _) h b
  · exact h

theorem faultSession_lampOk (b : Bough) (reason : Nat) : LampOk (faultSession b reason s) := by
  unfold faultSession
  refine .ite (fun _ => h) fun _ => ?_
  split
  case h_5 => exact h
  all_goals
    extract_lets t u
    have hu : LampOk u := h
    exact .of (leaveNetwork_changes (closeSession_changes (.refl _ _) _) _) (goState_lampOk hu b .faulted)

theorem leaveSession_lampOk (b : Bough) (reason : Nat) : LampOk (leaveSession b reason s) := by
  unfold leaveSession
  refine .ite (fun _ => h) fun _ => ?_
  split
  case h_1 | h_4 => exact h
  case h_2 | h_3 => exact idleSession_lampOk h b
  case h_8 => exact .ite (fun _ => enterStopping_lampOk h b reason) fun _ => endEarly_lampOk h b reason
  all_goals exact endEarly_lampOk h b reason

theorem connect_lampOk (b : Bough) : LampOk (connect b s) := by
  unfold connect
  refine .ite (fun _ => h) fun _ => ?_
  extract_lets n _ t u v wh
  have hv : LampOk v := h
  exact goState_lampOk (s := (v.onSesL b _).onMeas b _) hv b .connected

theorem energise_lampOk (b : Bough) : LampOk (energise b s) :=
  goState_lampOk (s := s.onSaf b fun f => { f with closeReq := true, reqMs := s.lat.ms }) h b .energising

theorem stopTransfer_lampOk (b : Bough) (reason : Nat) : LampOk (stopTransfer b reason s) :=
  .ite (fun _ => enterStopping_lampOk h b reason) fun _ => h

theorem suspend_lampOk (b : Bough) : LampOk (suspend b s) := by
  unfold suspend
  have hg : LampOk (goState b .suspended s) := goState_lampOk h b .suspended
  refine .ite (fun _ => h) fun _ => .ite (fun _ => ?_) fun _ => .ite (fun _ => ?_) fun _ => ?_
  · exact .of (signReading_changes (requestOpening_changes (.refl _ _) b) b 2) hg
  · exact .of (signReading_changes (.refl _ _) b 2) hg
  · exact .of (onSesL_changes (.refl _ _) b _) hg

theorem resume_lampOk (b : Bough) : LampOk (resume b s) :=
  .ite (fun _ => energise_lampOk (.of (lateReading_changes (.refl _ s) b) h) b) fun _ => h

theorem holdSession_lampOk (b : Bough) (r : Nat) : LampOk (holdSession b r s) := by
  unfold holdSession
  exact .of (driveOutput_changes (.refl _ _) b) (leaveSession_lampOk h b _)

theorem holdWhenIdle_lampOk (b : Bough) : LampOk (holdWhenIdle b s) := by
  unfold holdWhenIdle
  refine .ite (fun _ => ?_) fun _ => h
  split
  case h_4 => exact h
  all_goals
    extract_lets upd
    exact holdSession_lampOk (s := s.onSaf b _) h b _

/-! ## Identifiers and authorisation (R214 to R220) -/

theorem acceptIdent_lampOk (b : Bough) (authBy : Nat) (priced : Bool) (tags : List Nat) :
    LampOk (acceptIdent b authBy priced tags s) := by
  unfold acceptIdent
  extract_lets rest t u v a f w
  have hu : LampOk u := .of (discardIdents_changes (authResult_changes (onSes_changes (.refl _ s) _ _) _ _ _ _) _ _) h
  have hw : LampOk w := .of (onSes_changes (.refl _ _) b _) (goState_lampOk hu b .authorised)
  exact .ite (fun _ => energise_lampOk hw b) fun _ => hw

theorem refuseIdent_lampOk (b : Bough) (reason : Nat) (tags : List Nat) : LampOk (refuseIdent b reason tags s) := by
  unfold refuseIdent
  exact goState_lampOk (.of (onSes_changes (authResult_changes (.refl _ s) _ _ _ _) _ _) h) b .connected

theorem revokeOthers_lampOk (b : Bough) (i : Nat) : LampOk (revokeOthers b i s) :=
  .forBoughs _ h fun c u hu => .ite
    (fun _ => refuseIdent_lampOk (s := (u.onSes c _).onSaf c _) hu c 4 []) fun _ => hu

theorem decideLocal_lampOk (b : Bough) : LampOk (decideLocal b s).2 := by
  unfold decideLocal
  extract_lets e
  have hl : LampOk (if e.current.isSome then lookup e.digest s else (none, s)).2 := by
    split
    · exact .of (lookup_changes (.refl _ s) _) h
    · exact h
  revert hl
  generalize (if e.current.isSome then lookup e.digest s else (none, s)) = x
  obtain ⟨slot, t⟩ := x
  intro (ht : LampOk t)
  cases slot with
  | none =>
    dsimp only
    split
    · exact acceptIdent_lampOk ht b _ _ _
    · exact ht
  | some i =>
    dsimp only
    split
    · exact ht
    · split
      · exact ht
      · refine acceptIdent_lampOk (s := State.onSes _ b _) ?_ b _ _ _
        exact LampOk.ite (t := t) (fun _ => ht) fun _ => revokeOthers_lampOk ht b i

theorem decideAfterChain_lampOk (b : Bough) : LampOk (decideAfterChain b s).2 := by
  unfold decideAfterChain
  split
  · exact .of (askHost_changes (.refl _ s) b) h
  · exact decideLocal_lampOk h b

theorem takeIdent_lampOk (b : Bough) (i : Ident) : LampOk (takeIdent b i s).2 := by
  unfold takeIdent
  extract_lets contract t u
  have hu : LampOk u := goState_lampOk (s := s.onSes b _) h b .authorising
  clear_value u
  split
  · exact hu
  · exact decideAfterChain_lampOk hu b

omit h in
theorem LampOk.ofPair {α : Type} {t : State} {a : α} {x : α × State} (e : x = (a, t)) (h : LampOk x.2) : LampOk t := by
  rw [e] at h
  exact h

theorem tryHeld_lampOk (b : Bough) (n : Nat) : LampOk (tryHeld b n s) := by
  induction n generalizing s with
  | zero => exact h
  | succ n ih =>
    unfold tryHeld
    refine .ite (fun _ => h) fun _ => ?_
    split
    · exact h
    · rename_i i rest _
      have ht := takeIdent_lampOk (s := s.onSes b fun e => { e with held := rest }) h b i
      refine .ite (fun _ => h) fun _ => ?_
      split
      · exact .ofPair ‹_› ht
      · exact ih (refuseIdent_lampOk (.ofPair ‹_› ht) b _ _)

theorem offerIdent_lampOk (b : Bough) (i : Ident) : LampOk (offerIdent b i s) := by
  unfold offerIdent
  split
  case h_3 => exact h
  all_goals exact tryHeld_lampOk (.of (discardIdents_changes (onSes_changes (.refl _ s) _ _) _ _) h) b 5

theorem refuseAndNext_lampOk (b : Bough) (reason : Nat) (tags : List Nat) : LampOk (refuseAndNext b reason tags s) :=
  tryHeld_lampOk (refuseIdent_lampOk h b reason tags) b 5

theorem decideSilence_lampOk (b : Bough) : LampOk (decideSilence b s) := by
  have hd := decideLocal_lampOk (s := s.onSes b fun e => { e with waitTag := none }) h b
  unfold decideSilence
  split
  · exact .ofPair ‹_› hd
  · exact refuseAndNext_lampOk (.ofPair ‹_› hd) b _ _

theorem freeVendNow_lampOk (b : Bough) : LampOk (freeVendNow b s) :=
  .ite (fun _ => acceptIdent_lampOk (goState_lampOk h b .authorising) b 3 false []) fun _ => h

theorem freeVendAtOnce_lampOk (b : Bough) : LampOk (freeVendAtOnce b s) :=
  .ite (fun _ => h) fun _ => freeVendNow_lampOk h b

theorem checkLocal_lampOk (b : Bough) : LampOk (checkLocal b s) := by
  unfold checkLocal
  extract_lets t was isIn u
  have hu : LampOk u := .of (onSes_changes (noteLowCredit_changes (.refl _ s) b) _ _) h
  exact .ite (fun _ => enterStopping_lampOk hu b _) fun _ => hu

theorem checkLimits_lampOk (b : Bough) : LampOk (checkLimits b s) := by
  unfold checkLimits
  extract_lets e
  split
  · exact enterStopping_lampOk (.of (emit_changes (onSes_changes (.refl _ s) _ _) _ _ _) h) b 5
  · exact .ite (fun _ => enterStopping_lampOk h b 6) fun _ => .ite (fun _ => checkLocal_lampOk h b) fun _ => h

theorem hostAccept_lampOk (b : Bough) (remote : Bool) (g : Grant) (tag : Nat) :
    LampOk (hostAccept b remote g tag s) := by
  unfold hostAccept
  refine .ite (fun _ => .ite (fun _ => refuseAndNext_lampOk h b 8 _) fun _ =>
    .of (authResult_changes (.refl _ s) _ _ _ _) h) fun _ => ?_
  have hl : LampOk (if g.amount ≠ 0 && s.ses[b].current.isSome then lookup s.ses[b].digest s else (none, s)).2 := by
    split
    · exact .of (lookup_changes (.refl _ s) _) h
    · exact h
  revert hl
  generalize (if g.amount ≠ 0 && s.ses[b].current.isSome then lookup s.ses[b].digest s else (none, s)) = x
  obtain ⟨slot, t⟩ := x
  intro (ht : LampOk t)
  exact acceptIdent_lampOk (s := t.onSes b _) ht b 1 _ _

theorem authAccept_lampOk (b : Bough) (remote : Bool) (g : Grant) (ident : List Byte) (tag : Nat) :
    LampOk (authAccept b remote g ident tag s) := by
  have ha := LampOk.of (sesAnswer_changes (.refl _ s) b.val tag 2) h
  unfold authAccept
  extract_lets e
  split
  · exact .ite (fun _ => hostAccept_lampOk h b remote g tag) fun _ => ha
  · exact .ite (fun _ => hostAccept_lampOk h b remote g tag) fun _ => hostAccept_lampOk (s := s.onSes b _) h b remote g tag
  · exact .ite (fun _ => .of (authResult_changes (onSes_changes (.refl _ s) _ _) _ _ _ _) h) fun _ => ha

theorem authRefuse_lampOk (b : Bough) (ident : List Byte) (tag : Nat) : LampOk (authRefuse b ident tag s) :=
  .ite (fun _ => refuseAndNext_lampOk h b 2 _) fun _ =>
    .ite (fun _ => .of (authResult_changes (.refl _ _) _ _ _ _) (stopSession_lampOk h b _)) fun _ =>
      .of (sesAnswer_changes (.refl _ s) _ _ _) h

/-! ## Trips and the fail-safe (R277, R278) -/

theorem trip_lampOk (b : Bough) (code : Nat) (value : Int) : LampOk (trip b code value s) := by
  unfold trip
  extract_lets t u v w
  have hu : LampOk u := .of (dueTripFrame_changes (emit_changes (abandonClosing_changes (.refl _ s) _ _) _ _ _) _ _) h
  have hv : LampOk v := .ite (fun _ => hu) fun _ => hu
  have hw : LampOk w := .of (openNow_changes (.refl _ v) _ _) hv
  exact .of (auxAll_changes (.refl _ _)) (faultSession_lampOk hw b _)

theorem tripAll_lampOk (code : Nat) : LampOk (tripAll code s) := by
  unfold tripAll
  refine .forBoughs _ (.of (dueTripFrame_changes (emit_changes ?_ _ _ _) _ _) h) fun b u hu =>
    faultSession_lampOk (.of (openNow_changes (.refl _ u) _ _) hu) b _
  exact .forBoughs _ (.refl _ s) fun b u hu => abandonClosing_changes hu _ _

theorem fsEnter_lampOk (c : FsCause) (code : Nat) : LampOk (fsEnter c code s) := by
  unfold fsEnter
  refine .ite (fun _ => h) fun _ => ?_
  extract_lets first _ t u v
  have hu : LampOk u := .ite (fun _ => .of (emit_changes (.refl _ t) _ _ _) h) fun _ => h
  have hv : LampOk v := .ite
    (fun _ => .forBoughs _ hu fun b x hx =>
      faultSession_lampOk (.of (openNow_changes (abandonClosing_changes (.refl _ x) _ _) _ _) hx) b _)
    fun _ => tripAll_lampOk hu code
  exact .of (auxAll_changes (driveAll_changes (.refl _ v))) hv

theorem testFailed_lampOk (b : Bough) (k : Fin 3) (side f code : Nat) : LampOk (testFailed b k side f code s) := by
  unfold testFailed
  exact trip_lampOk (.of (emit_changes (.refl _ (s.onSaf b _)) _ _ _) h) b code 0

theorem setStuckRun_lampOk (i : Fin 48) (n : Nat) : LampOk (setStuckRun i n s) :=
  .of (setStuckRun_changes (.refl _ s) i n) h

theorem stuckCheck_lampOk (on : BitVec 48) (i : Fin 48) : LampOk (stuckCheck on i s) :=
  .ite (fun _ => setStuckRun_lampOk h i 0) fun _ =>
    .ite (fun _ => testFailed_lampOk (setStuckRun_lampOk h i _) _ _ _ _ _) fun _ => setStuckRun_lampOk h i _

theorem residualTrips_lampOk (b : Bough) : LampOk (residualTrips b s) := by
  unfold residualTrips
  extract_lets x thr run t u
  have ht : LampOk t := h
  have hu : LampOk u := .ite (fun _ => trip_lampOk ht b 4 x) fun _ => ht
  exact .ite (fun _ => trip_lampOk hu b 3 _) fun _ => hu

theorem overvoltage_lampOk (b : Bough) : LampOk (overvoltage b s) := by
  unfold overvoltage
  extract_lets v lim run t
  have ht : LampOk t := h
  exact .ite (fun _ => trip_lampOk ht b 9 v) fun _ => ht

theorem judgeInsulation_lampOk (b : Bough) (r : Option (Nat × Nat)) : LampOk (judgeInsulation b r s) := by
  unfold judgeInsulation
  split
  · exact h
  · extract_lets u below warn reg t v
    have hv : LampOk v := .ite (fun _ => .of (emit_changes (.refl _ (t.onMeas b _)) _ _ _) h) fun _ => h
    exact .ite (fun _ => trip_lampOk (.ite (fun _ => .of (reportIsolation_changes (.refl _ v) _ _) hv) fun _ => hv) b 8 _)
      fun _ => hv

theorem linkBad_lampOk : LampOk (linkBad s) := by
  unfold linkBad
  extract_lets die t
  have ht : LampOk t := h
  exact .ite (fun _ => fsEnter_lampOk ht .link 0) fun _ => ht

/-! ## Closing sequences and weld checks (R257 to R263) -/

theorem weldReport_lampOk (b : Bough) : LampOk (weldReport b s) := by
  have hl : LampOk (lateReading b s) := .of (lateReading_changes (.refl _ s) b) h
  exact .ite (fun _ => h) fun _ => .ite (fun _ => stopDone_lampOk hl b) fun _ => hl

theorem onCoil_lampOk (b : Bough) (k : Fin 3) (f : Coil → Coil) : LampOk (onCoil b k f s) := h

theorem weldResult_lampOk (b : Bough) (k : Fin 3) : LampOk (weldResult b k s) := by
  unfold weldResult
  refine .ite (fun _ => weldReport_lampOk (onCoil_lampOk h b k _) b) fun _ => ?_
  split
  · exact weldReport_lampOk (onCoil_lampOk h b k _) b
  · exact trip_lampOk (.of (emit_changes (.refl _ _) _ _ _) (onCoil_lampOk h b k _)) b 14 _
  · exact .of (emit_changes (.refl _ _) _ _ _) (onCoil_lampOk h b k _)

theorem enterCharging_lampOk (b : Bough) : LampOk (enterCharging b s) := by
  have hg : LampOk (goState b .charging s) := goState_lampOk h b .charging
  exact .ite (fun _ => h) fun _ => .ite (fun _ => hg) fun _ =>
    .of (reportCost_changes (beginReading_changes (onSesL_changes (.refl _ _) _ _) _) _) hg

theorem reportClosed_lampOk (b : Bough) : LampOk (reportClosed b s) := by
  unfold reportClosed
  extract_lets t u v
  have hu : LampOk u := .of (withRequest_changes (.refl _ t) _ _ fun x hx => onSesL_changes hx _ _) h
  have hv : LampOk v := .of (emit_changes (.refl _ u) _ _ _) hu
  exact enterCharging_lampOk hv b

theorem preReleased_lampOk (b : Bough) : LampOk (preReleased b s) := by
  unfold preReleased
  refine .ite (fun _ => h) fun _ => ?_
  split
  · exact .of (beginInsulation_changes (.refl _ _) b) (onCoil_lampOk h b 2 _)
  · exact trip_lampOk (.of (emit_changes (.refl _ _) _ _ _) (onCoil_lampOk h b 2 _)) b 14 _
  · exact trip_lampOk (.of (emit_changes (.refl _ _) _ _ _) (onCoil_lampOk h b 2 _)) b 20 0

theorem insulationDone_lampOk (b : Bough) : LampOk (insulationDone b s) := by
  unfold insulationDone
  extract_lets reached r t
  have hr (n : Nat) : LampOk (reportIsolation b n s) := .of (reportIsolation_changes (.refl _ s) b n) h
  have ht : LampOk t := hr r
  exact .ite (fun _ => h) fun _ => .ite (fun _ => trip_lampOk (hr 3) b 8 _) fun _ =>
    .of (withRequest_changes (.refl _ t) _ _ fun x hx => onSesL_changes hx _ _) ht

/-! ## The pilot (R171) and the vehicle (R189) -/

theorem sesPilot_lampOk (b : Bough) (old : PilotState) : LampOk (sesPilot b old s) := by
  have hc := freeVendAtOnce_lampOk (connect_lampOk h b) b
  have hstop := enterStopping_lampOk h b
  have hready (k : State → State) (hk : LampOk (k s)) : LampOk (if acReady s b then k s else s) :=
    .ite (fun _ => hk) fun _ => h
  unfold sesPilot
  refine .ite (fun _ => h) fun _ => ?_
  split
  · exact leaveSession_lampOk h b 2
  · split
    · exact .ite (fun _ => hc) fun _ => h
    · exact .ite (fun _ => hstop _) fun _ => suspend_lampOk h b
    · exact h
  case h_3 | h_4 =>
    split
    · exact .ite (fun _ => hc) fun _ => h
    · exact hready (energise b) (energise_lampOk h b)
    · exact .ite (fun _ => hstop _) fun _ => hready (resume b) (resume_lampOk h b)
    · exact .ite (fun _ => hstop _) fun _ => h
    · exact .ite (fun _ => hstop _) fun _ => h
    · exact h
  · exact h

theorem pilotFault_lampOk (b : Bough) (kind : Nat) : LampOk (pilotFault b kind s) := by
  unfold pilotFault
  refine leaveSession_lampOk (.of (driveOutput_changes (leaveNetwork_changes (emit_changes ?_ _ _ _) _) _) h) b _
  exact onPort_changes (.refl _ s) _ _

theorem confirmState_lampOk (b : Bough) (st : PilotState) : LampOk (confirmState b st s) := by
  unfold confirmState
  extract_lets old t
  have ht : LampOk t := h
  clear_value t
  split
  · exact pilotFault_lampOk ht b 3
  · refine .of (driveOutput_changes (.refl _ _) b) (sesPilot_lampOk (.of ?_ ht) b old)
    exact clearAtA_changes (countToggle_changes (onPort_changes (backToA_changes (emit_changes (.refl _ t) _ _ _) _) _ _) _) _
  · refine .of (driveOutput_changes (.refl _ _) b) (sesPilot_lampOk
      (.of (countToggle_changes (startDigital_changes (.refl _ _) b) b) (.ite (fun _ => ?_) fun _ => ?_)) b old)
    · exact .of (onSaf_changes_view (.refl _ _) b _ (SameView.of fun _ => rfl))
        (.ite (fun _ => .of (emit_changes (.refl _ t) _ _ _) ht) fun _ => ht)
    · exact .ite (fun _ => .of (emit_changes (.refl _ t) _ _ _) ht) fun _ => ht

theorem runPlateau_lampOk (b : Bough) (k : Option PilotState) : LampOk (runPlateau b k s) := by
  have hp (f : Port → Port) : LampOk (s.onPort b f) := h
  unfold runPlateau
  extract_lets p
  split
  · exact hp _
  · exact .ite (fun _ => hp _) fun _ => .ite (fun _ => confirmState_lampOk (hp _) b _) fun _ => hp _

theorem runBad_lampOk (b : Bough) (bad : Bool) (kind : Nat) : LampOk (runBad b bad kind s) := by
  have hp (f : Port → Port) : LampOk (s.onPort b f) := h
  unfold runBad
  exact .ite (fun _ => pilotFault_lampOk (hp _) b kind) fun _ => hp _

theorem positivePlateau_lampOk (b : Bough) (mv : Int) : LampOk (positivePlateau b mv s) := by
  unfold positivePlateau
  extract_lets t k inX1 u
  have ht : LampOk t := .of (sidePlateau_changes (onPort_changes (.refl _ s) _ _) b mv) h
  have hu : LampOk u := .ite (fun _ => runBad_lampOk ht b _ 1) fun _ => ht
  exact .ite (fun _ => hu) fun _ => runPlateau_lampOk hu b k

theorem negativePlateau_lampOk (b : Bough) (mv : Int) : LampOk (negativePlateau b mv s) := by
  unfold negativePlateau
  extract_lets bcd diode invalid t u
  have ht : LampOk t := h
  have hu : LampOk u := .ite (fun _ => .of (pilotLeft_changes (.refl _ t) b) ht) fun _ => ht
  exact runBad_lampOk hu b _ _

theorem cableGone_lampOk (b : Bough) : LampOk (cableGone b s) :=
  .ite (fun _ => stopTransfer_lampOk h b _) fun _ => h

theorem respond_lampOk (b : Bough) (r : Reply) : LampOk (respond b r s) := .of (respond_changes (.refl _ s) b r) h

theorem serveV2g_lampOk (b : Bough) (r : V2G) : LampOk (serveV2g b r s) := by
  unfold serveV2g
  split
  · extract_lets t u
    have ht : LampOk t := h
    have hu : LampOk u := .ite (fun _ => offerIdent_lampOk ht b _) fun _ => ht
    exact respond_lampOk hu b _
  · exact .of (chooseService_changes (.refl _ s) b _ _) h
  · exact .of (relayCertificate_changes (.refl _ s) b) h
  · exact respond_lampOk (tryHeld_lampOk (s := s.onLink b _) h b 5) b _
  · exact respond_lampOk h b _
  · exact respond_lampOk (.of (withRequest_changes (.refl _ s) _ _ fun x hx => onSesL_changes hx _ _) h) b _
  · exact respond_lampOk (.of (withRequest_changes (.refl _ s) _ _ fun x hx => onSesL_changes hx _ _) h) b _
  · exact respond_lampOk (.of (setTargets_changes (.refl _ s) b _ _) h) b _
  · exact respond_lampOk (.of (setTargets_changes (.refl _ s) b _ _) h) b _
  all_goals exact respond_lampOk h b _

/-! ## Main SRAM and the trunk (R41, R597) -/

theorem readFails_lampOk (x : Access) : LampOk (readFails x s) := by
  unfold readFails
  split
  · extract_lets mem start t
    have ht : LampOk t := .of (uncorrectable_changes (.refl _ _) _ _ _) h
    exact .ite (fun _ => .of (restoreSlot_changes (.refl _ t) _) ht) fun _ => ht
  · exact fatalError_lampOk (.of (uncorrectable_changes (.refl _ s) _ _ _) h) _ _ _

theorem serveRead_lampOk (f : Flit) (x : Access) : LampOk (serveRead f x s) := by
  unfold serveRead
  extract_lets a
  split
  · have hr : LampOk (readWord a x.stop s).2 := .of (readWord_changes (.refl _ s) a x.stop) h
    exact .ite (fun _ => .of (respondTo_changes (.refl _ _) f _ _ _) hr) fun _ => readFails_lampOk hr _
  · refine .ite (fun _ => .of (respondTo_changes (.refl _ s) f _ _ _) h) fun _ => ?_
    split
    · exact .of (respondTo_changes (.refl _ s) f _ _ _) h
    · exact .of (respondTo_changes (free_changes (.refl _ s) 64) f _ _ _) h

theorem serveAccess_lampOk (f : Flit) (x : Access) : LampOk (serveAccess f x s) := by
  have hr : LampOk (restartChannel x s) := .of (restartChannel_changes (.refl _ s) x) h
  unfold serveAccess
  refine .ite (fun _ => .of (respondTo_changes (emit_changes (.refl _ s) _ _ _) f _ _ _) h) fun _ => ?_
  split
  · exact .of (serveWrite_changes (.refl _ _) x _) hr
  · exact serveRead_lampOk hr f x

theorem arrive_lampOk (n : Nat) (f : Flit) : LampOk (arrive n f s) := by
  unfold arrive
  refine .ite (fun _ => ?_) fun _ => .of (onPass_changes (.refl _ s) n _ _) h
  split
  · exact serveAccess_lampOk h f _
  · exact h

theorem crossFlit_lampOk (i : Fin 23) (p : Pick) (f : Flit) : LampOk (crossFlit i p f s) := by
  unfold crossFlit
  refine .ite (fun _ => .of (onSeg_changes (.refl _ s) i _) h) fun _ => .of (admitMail_changes (.refl _ _)) ?_
  exact arrive_lampOk (.of (leaveStop_changes (onSeg_changes (.refl _ s) i _) i p f) h) _ f

theorem stopWork_lampOk (t : Tick) (i : Fin 23) : LampOk (stopWork t i s) := by
  unfold stopWork
  split
  · exact .forMask _ _ h fun b u hu => holdWhenIdle_lampOk hu b
  · exact .forMask _ _ h fun b u hu => holdWhenIdle_lampOk hu b
  · exact .of (.forBoughs _ (.refl _ s) fun b u hu => holdCoils_changes hu b) h
  · exact .of (auxEdge_changes (.refl _ s)) h
  · exact .of (endPortSlice_changes (.refl _ s)) h
  · exact .of (.forMask _ _ (.refl _ s) fun b u hu => secondBough_changes hu b) h
  · exact .of (.forMask _ _ (.refl _ s) fun b u hu => secondBough_changes hu b) h
  · exact h

theorem stopTick_lampOk (t : Tick) (busy : BitVec 23) (i : Fin 23) : LampOk (stopTick t busy i s) := by
  unfold stopTick
  refine .ite (fun _ => .of (countOverrun_changes (.ite (fun _ => .refl _ s) fun _ =>
    setTrunk_changes (.refl _ s) _) i) h) fun _ => stopWork_lampOk ?_ t i
  split
  · exact stopWork_lampOk (s := { s with trunk.heldTick := s.trunk.heldTick.set i none }) h _ i
  · exact h

theorem foundBad_lampOk (a action : Nat) : LampOk (foundBad a action s) := by
  have hu : LampOk (uncorrectable a 22 action s) := .of (uncorrectable_changes (.refl _ s) a 22 action) h
  unfold foundBad
  exact .ite (fun _ => fatalError_lampOk hu 2 8 a) fun _ =>
    .ite (fun _ => .of (restoreSlot_changes (.refl _ _) _) hu) fun _ => hu

theorem scrubWord_lampOk (a : Nat) : LampOk (scrubWord a s) := by
  have ho : LampOk (outcome (badAt s a).flips s).2 := .of (outcome_changes (.refl _ s) _) h
  unfold scrubWord
  exact .ite (fun _ => ho) fun _ => .ite (fun _ => foundBad_lampOk ho a 3) fun _ =>
    .of (corrected_changes (.refl _ _) a _ 22) ho

theorem scrubAt_lampOk (a : Nat) : LampOk (scrubAt a s) := .foldl _ _ h fun _ w hu => scrubWord_lampOk hu w

theorem marchAt_lampOk (a : Nat) (hard : List (Nat × Nat)) : LampOk (marchAt a hard s) := by
  unfold marchAt
  extract_lets m cells t
  refine .of (.foldl _ _ (.refl _ t) fun _ _ hu => repairHard_changes hu _ _ _) (.foldl _ _ h fun u w hu => ?_)
  have ho : LampOk (outcome (badAt u w).flips u).2 := .of (outcome_changes (.refl _ u) _) hu
  exact .ite (fun _ => foundBad_lampOk ho w 4) fun _ => ho

theorem partFailed_lampOk (p : Fin 14) : LampOk (partFailed p s) := by
  unfold partFailed
  split
  · exact fatalError_lampOk h _ _ _
  · exact fatalError_lampOk h _ _ _
  · exact fatalError_lampOk h _ _ _
  · exact h
  · exact .of (cnpOff_changes (setCanopy_changes (.refl _ s) _)) h
  · exact fatalError_lampOk h _ _ _
  · exact holdSession_lampOk (s := s.onSaf _ _) h _ _

theorem endRun_lampOk (p : Fin 14) (sig : BitVec 32) : LampOk (endRun p sig s) := by
  unfold endRun
  extract_lets mem t ev
  have ht : LampOk t := h
  have he (r : Nat) (u : State) (hu : LampOk u) : LampOk (ev r u) := .of (emit_changes (.refl _ u) 0x0D08 255 _) hu
  clear_value t ev
  refine .ite (fun _ => he 0 _ ht) fun _ => .ite (fun _ => he 1 _ ht) fun _ => partFailed_lampOk (he 2 _ ?_) p
  exact ht

/-! ## Reactions of the supplies, the commits, the start and the update -/

theorem tripReaction_lampOk (id : Fin 13) : LampOk (tripReaction id s) := by
  unfold tripReaction
  split
  · exact fsEnter_lampOk (s := { s with auxDev.vpwrOff := true }) h _ _
  · exact .of (driveAll_changes (.refl _ s)) h
  · exact .of (driveAll_changes (.refl _ s)) h
  · exact .of (groupOff_changes (.refl _ s) _) h
  · exact .of (groupOff_changes (.refl _ s) _) h
  · exact .of (groupOff_changes (.refl _ s) _) h
  · exact .of (groupOff_changes (.refl _ s) _) h
  · exact h

theorem enterHold_lampOk : LampOk (enterHold s) := by
  unfold enterHold
  extract_lets log t
  have ht : LampOk t := .of (emit_changes (.refl _ _) _ _ _) h
  exact .forBoughs _ ht fun b u hu => holdSession_lampOk (.of (openNow_changes (.refl _ u) b 0) hu) b 2

theorem checkBough_lampOk (c : SelfCheck) (b : Bough) : LampOk (checkBough c b s) := by
  unfold checkBough
  split
  · exact h
  · extract_lets t u v dc w x
    have ht : LampOk t := .foldl _ _ h fun _ _ hu => testFailed_lampOk hu _ _ _ _ _
    have hu : LampOk u := .foldl _ _ ht fun _ _ hu => testFailed_lampOk hu _ _ _ _ _
    have hv : LampOk v := .ite (fun _ => trip_lampOk hu b 14 0) fun _ => hu
    have hw : LampOk w := .ite (fun _ => trip_lampOk hv b _ dc) fun _ => hv
    have hx : LampOk x := .ite (fun _ => trip_lampOk hw b 8 0) fun _ => hw
    exact .of (checkEvent_changes (holdAtStart_changes (.refl _ x) b) _ _) hx

theorem selfCheck_lampOk (c : SelfCheck) : LampOk (selfCheck c s) := by
  unfold selfCheck
  extract_lets passed t u v
  have ht : LampOk t := .forBoughs _ (.of (heartbeatTest_changes (.refl _ s)) h) fun b _ hu => checkBough_lampOk hu c b
  have hu : LampOk u := .ite (fun _ => .of (checkEvent_changes (.refl _ t) _ _) ht) fun _ => ht
  exact LampOk.ite (c := passed = true) (fun _ => .of (checkEvent_changes (.refl _ u) _ _) hu) fun _ => hu

end

end Sys2Proof.Safety
end

section
/-! SUPPORT. The commands that reach the display keep its backlight off outside STATE 3 (R483): those of the trunk, the supplies,
the start and the commits. -/

set_option Elab.async false

namespace Sys2Proof.Safety

open Sys2Proof.Machine

/-! ## Answers -/

/-- The backlight is off outside STATE 3 in the next state that is answered, if one is. -/
def LampOkR (r : Res) : Prop := ∀ t, r = .next t → LampOk t

/-- From a state with the backlight off outside STATE 3 the command answers none but such states. -/
def KeepsLamp (i : Instr) : Prop := ∀ s, LampOk s → LampOkR (exec i s)

theorem LampOkR.next {t : State} (h : LampOk t) : LampOkR (.next t) := by
  rintro u ⟨⟩
  exact h

theorem LampOkR.fault (e : Fault) : LampOkR (.fault e) := by rintro u ⟨⟩

theorem LampOkR.ite {a b : Res} {c : Prop} [Decidable c] (h : c → LampOkR a) (k : ¬c → LampOkR b) :
    LampOkR (if c then a else b) := by
  split
  · exact h ‹_›
  · exact k ‹_›

section
variable {s : State} (hs : LampOk s)
include hs

theorem onHdr_lampOk (h : CmdHdr) (f : Bough → Res) (hf : ∀ b, LampOkR (f b)) : LampOkR (onHdr h s f) := by
  unfold onHdr
  split
  · exact hf _
  · exact .next hs

theorem onSesHdr_lampOk (h : CmdHdr) (f : Bough → Res) (hf : ∀ b, LampOkR (f b)) : LampOkR (onSesHdr h s f) := by
  unfold onSesHdr
  split
  · exact .ite (fun _ => hf _) fun _ => .next hs
  · exact .next (.of (sesAnswer_changes (.refl _ s) _ _ _) hs)

theorem onCore_lampOk (b : Bough) (f : State → State) (hf : LampOk (f s)) : LampOkR (onCore b s f) :=
  .next (.ite (fun _ => hf) fun _ => hs)

theorem onLinked_lampOk (b : Bough) (f : State → State) (hf : LampOk (f s)) : LampOkR (onLinked b s f) :=
  .ite (fun _ => .next hf) fun _ => .next hs

end

/-! ## The trunk, the supplies and the reset -/

theorem latticeTick_keepsLamp (t : Tick) (busy : BitVec 23) : KeepsLamp (.latticeTick t busy) := fun s hs =>
  LampOkR.ite (fun _ => .next hs) fun _ => .next (.foldl _ _ (.of (latticeWork_changes (.refl _ s) t) hs)
    fun _ i hu => stopTick_lampOk hu t busy i)

theorem trunkFlit_keepsLamp (i : Fin 23) (offers : List Flit) (errs : BitVec 9) :
    KeepsLamp (.trunkFlit i offers errs) := fun s hs => by
  show LampOkR (execTrunkFlit i offers errs s)
  unfold execTrunkFlit
  extract_lets t g
  have ht : LampOk t := .of (takeOffers_changes (.refl _ s) i offers) hs
  refine LampOkR.ite (fun _ => .next ht) fun _ => ?_
  split
  · exact .next ht
  · split
    · exact .next ht
    · extract_lets u
      have hu : LampOk u := .of (onSeg_changes (.refl _ t) i _) ht
      exact .ite (fun _ => .next (crossFlit_lampOk hu i _ _)) fun _ =>
        .next (.of (rejectFlit_changes (.refl _ u) i _ _) hu)

theorem laneFailed_keepsLamp (i : Fin 23) : KeepsLamp (.laneFailed i) := fun s hs => by
  show LampOkR (execLaneFailed i s)
  unfold execLaneFailed
  refine LampOkR.ite (fun _ => .next hs) fun _ => ?_
  extract_lets l trunk t u mem v w g x
  have hu : LampOk u := .of (onSeg_changes (.refl _ t) i _) hs
  have hw : LampOk w := .of (onSeg_changes (.refl _ u) i _) hu
  have hx : LampOk x := .of (emit_changes (.refl _ w) _ _ _) hw
  exact .ite (fun _ => .next (.of (emit_changes (onSeg_changes (.refl _ v) i _) _ _ _) hu)) fun _ =>
    .next (.ite (fun _ => fatalError_lampOk hx 5 _ 0) fun _ => hx)

theorem supplyTrip_keepsLamp (id : Fin 13) (high : Bool) : KeepsLamp (.supplyTrip id high) := fun s hs => by
  show LampOkR (execSupplyTrip id high s)
  unfold execSupplyTrip
  refine LampOkR.ite (fun _ => .next hs) fun _ => LampOkR.ite (fun _ => .next ?_) fun _ =>
    LampOkR.ite (fun _ => .next (deviceReset_lampOk _)) fun _ => .next (tripReaction_lampOk ?_ id)
  · exact .of (tripInReset_changes (flagTrip_changes (setSupply_changes (.refl _ s) _) _ _) _) hs
  · exact .of (emit_changes (setStart_changes (setSupply_changes (.refl _ s) _) _) _ _ _) hs

theorem powerDieThermalShutdown_keepsLamp (temp : Int) : KeepsLamp (.powerDieThermalShutdown temp) := fun s hs => by
  show LampOkR (execPowerDieThermalShutdown temp s)
  unfold execPowerDieThermalShutdown
  refine LampOkR.ite (fun _ => .next hs) fun _ => .next (fsEnter_lampOk (.of (emit_changes (.refl _ _) _ _ _) ?_) _ _)
  exact hs

theorem resetnLow_keepsLamp (ns : Nat) : KeepsLamp (.resetnLow ns) := fun s hs => by
  show LampOkR (execResetnLow ns s)
  unfold execResetnLow
  exact LampOkR.ite (fun _ => .next hs) fun _ => LampOkR.ite (fun _ => .next (deviceReset_lampOk s)) fun _ =>
    .next (.ite (fun _ => deviceReset_lampOk _) fun _ => .of (free_changes (.refl _ s) 1) hs)

theorem hstRestart_keepsLamp (h : CmdHdr) (body : List Byte) : KeepsLamp (.hstRestart h body) := fun s hs => by
  show LampOkR (execHstRestart h body s)
  unfold execHstRestart
  exact LampOkR.ite (fun _ => .next (deviceReset_lampOk s)) fun _ => .next hs

/-! ## The commits (R145) -/

section
variable {s : State} (h : LampOk s)
include h

theorem afterDevice_lampOk (sub : Nat) (old : State) : LampOk (afterDevice sub old s) := by
  unfold afterDevice
  split
  case h_4 =>
    refine .ite (fun _ => orderStop_lampOk h 1) fun _ => .ite (fun _ => ?_) fun _ => h
    exact .of (auxAll_changes (.refl _ _)) (.ite (fun _ => h) fun _ => startDisplay_lampOk h)
  · exact .ite (fun _ => h) fun _ => .ite (fun _ => h) fun _ => h
  · exact .ite (fun _ => h) fun _ => .of (writeSave_changes (.refl _ s) 0) h
  · exact .of (auxAll_changes (.foldl _ _ (setLoadDev_changes (.refl _ s) _) fun u c hu =>
      .ite (fun _ => hu) fun _ => onAux_changes hu c _)) h
  · exact .ite (fun _ => .of (cnpOff_changes (.refl _ s)) h) fun _ =>
      .ite (fun _ => .of (cnpListen_changes (.refl _ s) 1) h) fun _ => h
  · exact .ite (fun _ => h) fun _ => .of (refreshIdentity_changes (.refl _ s)) h
  · exact h
  · exact .ite (fun _ => .of (endWindow_changes (.refl _ s)) h) fun _ => h
  · exact h

theorem applyDevice_lampOk (sub : Nat) : LampOk (applyDevice sub s) := by
  have ht := afterDevice_lampOk (LampOk.of (applySnap_changes (.refl _ s) sub (ofDevice sub)) h) sub s
  exact .of (completeIfDone_changes (.refl _ _) sub) ht

theorem checked_lampOk (sub : Nat) (act : State → State) (ha : ∀ u, LampOk u → LampOk (act u)) :
    LampOk (checked sub act s) := by
  unfold checked
  refine .ite (fun _ => ha s h) fun _ => ?_
  split
  · exact .of (rejectAll_changes (.refl _ s) _ _) h
  · exact ha _ h

end

theorem commitApply_keepsLamp (sub : Fin 16) : KeepsLamp (.commitApply sub) := fun s hs => by
  show LampOkR (execCommitApply sub s)
  unfold execCommitApply
  exact LampOkR.ite (fun _ => .next hs) fun _ =>
    LampOkR.ite (fun _ => .next (.of (applyBilCommit_changes (.refl _ s)) hs)) fun _ =>
      .next (checked_lampOk hs _ _ fun u hu => applyDevice_lampOk hu _)

/-! ## The start (R121) -/

section
variable {s : State} (h : LampOk s)
include h

theorem takeGlyphs_lampOk : LampOk (takeGlyphs s) := by
  unfold takeGlyphs
  split
  · exact .of (emit_changes (.refl _ s) _ _ _) h
  · exact h

theorem loadRecords_lampOk (rs : List ImgRec) : LampOk (loadRecords rs s) := by
  unfold loadRecords
  extract_lets active start host t
  have hf : LampOk (rs.foldl (imageRecord active) (t, [])).1 :=
    .of (.foldlFst _ _ (.refl _ t) fun l r hl => imageRecord_changes hl active r) h
  clear_value t
  revert hf
  generalize rs.foldl (imageRecord active) (t, []) = l
  obtain ⟨u, written⟩ := l
  intro (hu : LampOk u)
  dsimp only
  have hv : LampOk ((pageRegs 4).foldl (fun t a => checkSafetyReg written a t) (completeInverse written u)) :=
    .of (.foldl _ _ (completeInverse_changes (.refl _ u) written) fun _ a hx => checkSafetyReg_changes hx written a) hu
  generalize (pageRegs 4).foldl (fun t a => checkSafetyReg written a t) (completeInverse written u) = v at hv ⊢
  refine .of (settingsInForce_changes (requireRecords_changes (setHeartwood_changes (takeMac_changes
    (takeMembership_changes (takeBudgets_changes (.refl _ _)))) _) written)) (takeGlyphs_lampOk (.of
      (takeFailsafe_changes (imageConflicts_changes (.refl _ _) written)) ?_))
  exact hv

theorem startHeartwood_lampOk : LampOk (startHeartwood s) := by
  unfold startHeartwood
  extract_lets t
  have h1 : LampOk (chooseCalendars t).2 :=
    .of (chooseCalendars_changes (restoreEntry_changes (takeOffset_changes (.refl _ s)))) h
  generalize chooseCalendars t = p at h1 ⊢
  obtain ⟨c1, u⟩ := p
  have h2 : LampOk (findChanges u).2 := .of (findChanges_changes (.refl _ u)) h1
  dsimp only
  generalize findChanges u = p at h2 ⊢
  obtain ⟨c2, v⟩ := p
  have h3 : LampOk (missedBoundaries v).2 := .of (missedBoundaries_changes (.refl _ v)) h2
  dsimp only
  generalize missedBoundaries v = p at h3 ⊢
  obtain ⟨act, w⟩ := p
  have h4 : LampOk (interruptedReadings { w with bil.rate := rateNow w }) :=
    .of (interruptedReadings_changes (setHeartwood_changes (.refl _ w) _)) h3
  refine startDisplay_lampOk (.of (.ite (fun _ => meterSnapshot_changes (.refl _ _)) fun _ => .refl _ _) ?_)
  refine .of (restoreSnapNo_changes (releaseReadings_changes
    (.ite (fun _ => writeSave_changes (.refl _ _) 4) fun _ => .refl _ _))) ?_
  exact .of (.ite (fun _ => .forBoughs _ (.refl _ _) fun b _ hu => signReading_changes hu b 4) fun _ => .refl _ _) h4

theorem phaseDone_lampOk (p : Nat) : LampOk (phaseDone p s) := .of (phaseDone_changes (.refl _ s) p) h

theorem stopStart_lampOk (p reason : Nat) : LampOk (stopStart p reason s) := .of (stopStart_changes (.refl _ s) p reason) h

theorem useSlot_lampOk (n : Nat) : LampOk (useSlot n s) := by
  unfold useSlot
  exact loadRecords_lampOk (s := { s with start.ronifSlot := n, start.ronifSeq := _, start.ronifFormat := _,
                                          start.ronifLabel := _ }) h _

end

theorem phaseP3_keepsLamp : KeepsLamp .phaseP3 := fun s hs => by
  show LampOkR (execPhaseP3 s)
  unfold execPhaseP3
  refine LampOkR.ite (fun _ => .next hs) fun _ => LampOkR.ite (fun _ => .next (stopStart_lampOk hs 3 7)) fun _ => ?_
  extract_lets n range
  split
  · exact .next (phaseDone_lampOk (useSlot_lampOk hs n) 3)
  · extract_lets t
    have ht : LampOk t := .of (emit_changes (.refl _ s) _ _ _) hs
    split
    · exact .next (phaseDone_lampOk (useSlot_lampOk ht _) 3)
    · exact .next (stopStart_lampOk (.of (emit_changes (.refl _ t) _ _ _) ht) 3 7)

theorem phaseP5_keepsLamp : KeepsLamp .phaseP5 := fun s hs => by
  show LampOkR (execPhaseP5 s)
  unfold execPhaseP5
  refine LampOkR.ite (fun _ => .next hs) fun _ => LampOkR.ite (fun _ => .next (stopStart_lampOk hs 5 9)) fun _ => ?_
  split
  · exact .next (stopStart_lampOk (.of (checkPage_changes (loadHeartwood_changes (.refl _ s) _) _ _) hs) 5 9)
  · refine .next (phaseDone_lampOk (startHeartwood_lampOk (.of (checkPage_changes ?_ _ _) hs)) 5)
    exact noteBank_changes (loadHeartwood_changes (.refl _ s) _) _ _

theorem phaseP6_keepsLamp (c : SelfCheck) : KeepsLamp (.phaseP6 c) := fun s hs => by
  show LampOkR (execPhaseP6 c s)
  unfold execPhaseP6
  have hc := selfCheck_lampOk hs c
  refine LampOkR.ite (fun _ => .next hs) fun _ => LampOkR.ite (fun _ => .next (stopStart_lampOk hs 6 0x0B)) fun _ =>
    LampOkR.ite (fun _ => .next hs) fun _ => ?_
  split
  · exact .next (stopStart_lampOk (.of (checkEvent_changes (.refl _ s) _ _) hs) 6 0x0A)
  · dsimp only
    split
    · exact .next (stopStart_lampOk hc 6 0x0B)
    · rename_i u hu
      exact .next (phaseDone_lampOk (.of (.forBoughs _ (rebuildLedger_changes (.refl _ _) hu)
        fun b v hv => closeInterrupted_changes hv b) hc) 6)

end Sys2Proof.Safety
end

section
/-! SUPPORT. The commands of the ports, the sessions, the safety block, the heartwood, the display, the memories, the recorder and
the update that reach the display keep its backlight off outside STATE 3 (R483), and with them every step does. -/

set_option Elab.async false

namespace Sys2Proof.Safety

open Sys2Proof.Machine

/-! ## The ports and the dialogue -/

theorem plateauValue_keepsLamp (b : Bough) (positive : Bool) (mv : Int) : KeepsLamp (.plateauValue b positive mv) :=
  fun s hs => by
  show LampOkR (execPlateauValue b positive mv s)
  unfold execPlateauValue
  dsimp only
  split
  · exact .next hs
  · exact .next hs
  · exact .next (.ite (fun _ => positivePlateau_lampOk hs _ _) fun _ => hs)
  · exact .next (.ite (fun _ => positivePlateau_lampOk hs _ _) fun _ => negativePlateau_lampOk hs _ _)

theorem proximityMean_keepsLamp (b : Bough) : KeepsLamp (.proximityMean b) := fun s hs => by
  have hgone {u : State} (c : Nat) (hu : LampOk u) : LampOk (if c = 0 then cableGone b u else u) :=
    .ite (fun _ => cableGone_lampOk hu b) fun _ => hu
  show LampOkR (execProximityMean b s)
  unfold execProximityMean
  extract_lets mode p t v num den u c q u' n w x
  have hu' : LampOk u' := .of (onPort_changes (onPort_changes (onPort_changes (.refl _ s) b _) b _) b _) hs
  have hw : LampOk w := .of (onPort_changes (onPort_changes (onPort_changes (.refl _ s) b _) b _) b _) hs
  refine LampOkR.ite (fun _ => .next (.of (confirmPp_changes ?_ b 7) hs)) fun _ => LampOkR.ite (fun _ => .next hs) fun _ =>
    LampOkR.ite (fun _ => .next (hgone c hu')) fun _ => LampOkR.ite (fun _ => .next (hgone c ?_)) fun _ => .next hw
  · exact onPort_changes (onPort_changes (.refl _ s) b _) b _
  · exact .of (confirmPp_changes (.refl _ w) b c) hw

theorem v2gRequest_keepsLamp (b : Bough) (r : V2G) : KeepsLamp (.v2gRequest b r) := fun s hs => by
  show LampOkR (execV2gRequest b r s)
  unfold execV2gRequest
  exact onLinked_lampOk hs b _ (.ite (fun _ => serveV2g_lampOk hs b r) fun _ => respond_lampOk hs b _)

theorem paymentDetailsReq_keepsLamp (b : Bough) (emaid : List Byte) (subCas : Nat) (chainOk inDate : Bool) :
    KeepsLamp (.paymentDetailsReq b emaid subCas chainOk inDate) := fun s hs => by
  show LampOkR (execPaymentDetailsReq b emaid subCas chainOk inDate s)
  unfold execPaymentDetailsReq
  refine onLinked_lampOk hs b _ (.ite (fun _ => respond_lampOk hs b _) fun _ => ?_)
  exact respond_lampOk (offerIdent_lampOk hs b _) b _

theorem cableCheckReq_keepsLamp (b : Bough) : KeepsLamp (.cableCheckReq b) := fun s hs => by
  show LampOkR (execCableCheckReq b s)
  unfold execCableCheckReq
  refine onLinked_lampOk hs b _ ?_
  extract_lets t r
  have ht : LampOk t := .ite (fun _ => energise_lampOk (s := s.onSaf b _) hs b) fun _ => hs
  exact .ite (fun _ => respond_lampOk ht b _) fun _ => respond_lampOk ht b _

theorem powerDeliveryReq_keepsLamp (b : Bough) (k : PowerDelivery) : KeepsLamp (.powerDeliveryReq b k) := fun s hs => by
  show LampOkR (execPowerDeliveryReq b k s)
  unfold execPowerDeliveryReq
  refine onLinked_lampOk hs b _ ?_
  cases k with
  | start => exact respond_lampOk (resume_lampOk hs b) b _
  | stop => exact respond_lampOk (stopTransfer_lampOk hs b _) b _
  | stopRenegotiate => exact respond_lampOk (suspend_lampOk hs b) b _
  | pause => exact respond_lampOk (suspend_lampOk hs b) b _

theorem sessionStopReq_keepsLamp (b : Bough) : KeepsLamp (.sessionStopReq b) := fun s hs => by
  show LampOkR (execSessionStopReq b s)
  unfold execSessionStopReq
  exact onLinked_lampOk hs b _ (respond_lampOk (stopTransfer_lampOk hs b _) b _)

theorem v2gTimerExpired_keepsLamp (b : Bough) (k : V2gTimer) : KeepsLamp (.v2gTimerExpired b k) := fun _ hs =>
  onLinked_lampOk hs b _ (.ite (fun _ => stopTransfer_lampOk hs b _) fun _ => hs)

/-! ## The sessions -/

theorem hostWaitExpired_keepsLamp (b : Bough) : KeepsLamp (.hostWaitExpired b) := fun s hs => by
  show LampOkR (execHostWaitExpired b s)
  unfold execHostWaitExpired
  refine onCore_lampOk hs b _ ?_
  split
  · exact .ite (fun _ => decideSilence_lampOk hs b) fun _ => hs
  · exact freeVendNow_lampOk hs b
  · exact hs

theorem authHoldExpired_keepsLamp (b : Bough) : KeepsLamp (.authHoldExpired b) := fun s hs =>
  onCore_lampOk hs b _ (.ite (fun _ => finishSession_lampOk (s := s.onSes b _) hs b) fun _ => hs)

theorem creditCheck_keepsLamp (b : Bough) : KeepsLamp (.creditCheck b) := fun s hs => by
  show LampOkR (execCreditCheck b s)
  unfold execCreditCheck
  refine onCore_lampOk hs b _ ?_
  extract_lets t u
  have ht : LampOk t := .of (reportCost_changes (.refl _ s) b) hs
  have hu : LampOk u := .of (takeNewGrant_changes (.refl _ t) b) ht
  exact .ite (fun _ => ht) fun _ => .ite (fun _ => checkLimits_lampOk hu b) fun _ => hu

theorem grantExpired_keepsLamp (b : Bough) : KeepsLamp (.grantExpired b) := fun s hs => by
  show LampOkR (execGrantExpired b s)
  unfold execGrantExpired
  refine onCore_lampOk hs b _ ?_
  split
  · exact .ite (fun _ => stopTransfer_lampOk hs b _) fun _ => hs
  · exact hs

theorem ceilingBelowMinimum_keepsLamp (b : Bough) : KeepsLamp (.ceilingBelowMinimum b) := fun s hs => by
  show LampOkR (execCeilingBelowMinimum b s)
  unfold execCeilingBelowMinimum
  exact onCore_lampOk hs b _ (.ite (fun _ => suspend_lampOk hs b) fun _ => hs)

theorem currentAllowanceExpired_keepsLamp (b : Bough) : KeepsLamp (.currentAllowanceExpired b) := fun s hs => by
  show LampOkR (execCurrentAllowanceExpired b s)
  unfold execCurrentAllowanceExpired
  exact onCore_lampOk hs b _ (.ite (fun _ => stopTransfer_lampOk hs b _) fun _ => hs)

theorem sesAuthAccept_keepsLamp (h : CmdHdr) (remote : Bool) (amount : Int) (expiry : Nat) (ident : List Byte) :
    KeepsLamp (.sesAuthAccept h remote amount expiry ident) := fun _ hs =>
  LampOkR.ite (fun _ => .fault _) fun _ => onSesHdr_lampOk hs h _ fun b => .next (authAccept_lampOk hs b _ _ _ _)

theorem sesAuthRefuse_keepsLamp (h : CmdHdr) (ident : List Byte) : KeepsLamp (.sesAuthRefuse h ident) := fun _ hs =>
  LampOkR.ite (fun _ => .fault _) fun _ => onSesHdr_lampOk hs h _ fun b => .next (authRefuse_lampOk hs b _ _)

theorem sesIdent_keepsLamp (h : CmdHdr) (credential : List Byte) : KeepsLamp (.sesIdent h credential) := fun s hs => by
  show LampOkR (execSesIdent h credential s)
  unfold execSesIdent
  refine LampOkR.ite (fun _ => .fault _) fun _ => onSesHdr_lampOk hs h _ fun b => ?_
  split
  · exact .next (.of (sesAnswer_changes (.refl _ s) _ _ _) hs)
  · exact .next (offerIdent_lampOk hs b _)
  · exact .next (offerIdent_lampOk hs b _)
  · exact .next (.of (authResult_changes (.refl _ s) b _ _ _) hs)

theorem sesStop_keepsLamp (h : CmdHdr) : KeepsLamp (.sesStop h) := fun s hs => by
  have ha (b : Bough) : LampOk (sesAnswer b.val h.tag 2 s) := .of (sesAnswer_changes (.refl _ s) _ _ _) hs
  show LampOkR (execSesStop h s)
  unfold execSesStop
  refine onSesHdr_lampOk hs h _ fun b => ?_
  split
  case h_5 => exact .next (stopSession_lampOk (s := s.onSes b _) hs b _)
  all_goals exact .next (ha b)

/-! ## The safety block -/

theorem closingSequence_keepsLamp (b : Bough) (k : AcStep) : KeepsLamp (.closingSequence b k) := fun s hs => by
  show LampOkR (execClosingSequence b k s)
  unfold execClosingSequence
  cases k with
  | begin =>
    exact LampOkR.ite (fun _ => .next hs) fun _ => LampOkR.ite
      (fun _ => .next (.of (beginClosing_changes (.refl _ s) b _) hs)) fun _ => .next (trip_lampOk (s := s.onSaf b _) hs b 20 0)
  | second =>
    exact LampOkR.ite (fun _ => .next (.of (followClosing_changes (.refl _ s) b _ _) hs)) fun _ => .next hs

theorem dcClosingSequence_keepsLamp (b : Bough) (k : DcStep) : KeepsLamp (.dcClosingSequence b k) := fun s hs => by
  have hf (ks : List (Fin 3)) (c : Closing) : LampOkR (.next (followClosing b ks c s)) :=
    .next (.of (followClosing_changes (.refl _ s) b ks c) hs)
  show LampOkR (execDcClosingSequence b k s)
  unfold execDcClosingSequence
  cases k with
  | begin =>
    exact LampOkR.ite (fun _ => .next hs) fun _ => LampOkR.ite (fun _ => .next (trip_lampOk (s := s.onSaf b _) hs b 20 0))
      fun _ => .next (.of (beginClosing_changes (.refl _ s) b _) hs)
  | second => exact LampOkR.ite (fun _ => .next hs) fun _ => LampOkR.ite (fun _ => hf _ _) fun _ => hf _ _
  | linkReached => exact LampOkR.ite (fun _ => hf [0] .dcMain) fun _ => .next hs
  | mainClosed => exact .next (.of (mainClosed_changes (.refl _ s) b) hs)
  | preReleased => exact .next (preReleased_lampOk hs b)
  | insulation => exact .next (insulationDone_lampOk hs b)

theorem contactConfirmed_keepsLamp (b : Bough) : KeepsLamp (.contactConfirmed b) := fun s hs => by
  show LampOkR (execContactConfirmed b s)
  unfold execContactConfirmed
  split
  · exact LampOkR.ite (fun _ => .next hs) fun _ =>
      LampOkR.ite (fun _ => .next (.of (beginInsulation_changes (.refl _ s) b) hs)) fun _ => .next (reportClosed_lampOk hs b)
  · exact .next (.of (mainClosed_changes (.refl _ s) b) hs)
  · exact .next hs

theorem closingConfirmTimeout_keepsLamp (b : Bough) : KeepsLamp (.closingConfirmTimeout b) := fun s hs => by
  show LampOkR (execClosingConfirmTimeout b s)
  unfold execClosingConfirmTimeout
  split
  case h_4 => exact .next hs
  all_goals exact .next (trip_lampOk hs b 15 0)

theorem prechargeComplete_keepsLamp (b : Bough) : KeepsLamp (.prechargeComplete b) := fun _ hs =>
  LampOkR.ite (fun _ => .next (reportClosed_lampOk hs b)) fun _ => .next hs

theorem weldCheck_keepsLamp (b : Bough) (k : Fin 3) : KeepsLamp (.weldCheck b k) := fun _ hs =>
  LampOkR.ite (fun _ => .next (preReleased_lampOk hs b)) fun _ =>
    LampOkR.ite (fun _ => .next (weldResult_lampOk hs b k)) fun _ => .next hs

theorem weldRecheck_keepsLamp (b : Bough) (k : Fin 3) : KeepsLamp (.weldRecheck b k) := fun _ hs =>
  LampOkR.ite (fun _ => .next (weldResult_lampOk hs b k)) fun _ => .next hs

theorem switchTestSlot_keepsLamp (slot : Fin 48) (r : TestResult) : KeepsLamp (.switchTestSlot slot r) := fun s hs => by
  show LampOkR (execSwitchTestSlot slot r s)
  unfold execSwitchTestSlot
  extract_lets b k side again die t
  have ht : LampOk t := .ite (fun _ => hs) fun _ => hs
  clear_value t
  cases r with
  | pass => exact .next (onCoil_lampOk ht b k _)
  | near => exact .next ht
  | discarded => exact .next ht
  | notOff => exact .next (testFailed_lampOk ht b k _ _ _)
  | notRestored => exact .next (testFailed_lampOk ht b k _ _ _)
  | noMove => exact .next (testFailed_lampOk ht b k _ _ _)
  | partnerStuck => exact .next (testFailed_lampOk ht b k _ _ _)

theorem stuckOnCheck_keepsLamp (on : BitVec 48) : KeepsLamp (.stuckOnCheck on) := fun _ hs =>
  LampOkR.next (.foldl _ _ hs fun _ i hu => stuckCheck_lampOk hu on i)

theorem coilCurrentLimit_keepsLamp (b : Bough) (k : Fin 3) : KeepsLamp (.coilCurrentLimit b k) := fun _ hs =>
  LampOkR.next (trip_lampOk hs b 19 0)

theorem coilOpenDetect_keepsLamp (b : Bough) (k : Fin 3) : KeepsLamp (.coilOpenDetect b k) := fun _ hs =>
  LampOkR.ite (fun _ => .next (trip_lampOk hs b 19 0)) fun _ => .next hs

theorem coilSupplyLow_keepsLamp (b : Bough) : KeepsLamp (.coilSupplyLow b) := fun _ hs =>
  LampOkR.ite (fun _ => .next (trip_lampOk hs b 16 _)) fun _ => .next hs

theorem emergencyStop_keepsLamp (mvA mvB : Nat) : KeepsLamp (.emergencyStop mvA mvB) := fun s hs => by
  show LampOkR (execEmergencyStop mvA mvB s)
  unfold execEmergencyStop
  extract_lets lowA lowB die t
  have ht : LampOk t := hs
  exact LampOkR.ite (fun _ => .next (fsEnter_lampOk (.of (stopEvent_changes (setStops_changes (.refl _ t) _)) ht) _ _))
    fun _ => .next ht

theorem sidePathSample_keepsLamp (b : Bough) (v : SideSample) : KeepsLamp (.sidePathSample b v) := fun s hs => by
  show LampOkR (execSidePathSample b v s)
  unfold execSidePathSample
  refine .next (overvoltage_lampOk (residualTrips_lampOk (.of ?_ hs) b) b)
  exact measureResidual_changes (takeSide_changes (.refl _ s) b v) b

theorem dcResidualPersistence_keepsLamp (b : Bough) (w : DcWindow) : KeepsLamp (.dcResidualPersistence b w) :=
  fun s hs => by
  show LampOkR (execDcResidualPersistence b w s)
  unfold execDcResidualPersistence
  dsimp only
  split
  · exact .next (trip_lampOk hs b _ _)
  · exact .next hs

theorem bridgeStateEnd_keepsLamp (b : Bough) : KeepsLamp (.bridgeStateEnd b) := fun s hs => by
  show LampOkR (execBridgeStateEnd b s)
  unfold execBridgeStateEnd
  refine LampOkR.ite (fun _ => .next hs) fun _ => .next ?_
  exact .of (toggleBridge_changes (onMeas_changes (.refl _ _) b _) b) (judgeInsulation_lampOk hs b _)

theorem heartbeatFrame_keepsLamp (beat : Bool) (counter : BitVec 4) (crcOk : Bool) :
    KeepsLamp (.heartbeatFrame beat counter crcOk) := fun s hs => by
  show LampOkR (execHeartbeatFrame beat counter crcOk s)
  unfold execHeartbeatFrame
  have ht : LampOk (linkGood s) := .of (linkGood_changes (.refl _ s)) hs
  exact LampOkR.ite (fun _ => .next (linkBad_lampOk hs)) fun _ => LampOkR.ite (fun _ => .next ht) fun _ =>
    LampOkR.ite (fun _ => .next (.of (beatGood_changes (.refl _ _) _) ht)) fun _ =>
      .next (.of (setPowerDie_changes (.refl _ _) _ rfl) ht)

theorem logicWatchdogExpired_keepsLamp (c : Fin 2) : KeepsLamp (.logicWatchdogExpired c) := fun s hs => by
  show LampOkR (execLogicWatchdogExpired c s)
  unfold execLogicWatchdogExpired
  extract_lets bit die t
  refine LampOkR.ite (fun _ => .next hs) fun _ => .next (.forBoughs _ ?_ fun b u hu =>
    .ite (fun _ => trip_lampOk hu b 11 0) fun _ => hu)
  exact .of (emit_changes (.refl _ _) _ _ _) hs

theorem safHoldSet_keepsLamp (h : CmdHdr) : KeepsLamp (.safHoldSet h) := fun s hs =>
  onHdr_lampOk hs h _ fun b => .next (.of (answer_changes (.refl _ _) _ _ _ _) (holdSession_lampOk (s := s.onSaf b _) hs b 0))

theorem estopDiscrepancy_keepsLamp : KeepsLamp .estopDiscrepancy := fun s hs =>
  LampOkR.ite (fun _ => .next hs) fun _ =>
    .next (tripAll_lampOk (s := { s with safDev.disc := true, safDev.discLow := false }) hs 2)

theorem heartbeatPeriodMissed_keepsLamp : KeepsLamp .heartbeatPeriodMissed := fun s hs => by
  show LampOkR (execHeartbeatPeriodMissed s)
  unfold execHeartbeatPeriodMissed
  extract_lets die t
  have ht : LampOk t := hs
  exact LampOkR.ite (fun _ => .next (fsEnter_lampOk ht .wdog 10)) fun _ => .next ht

/-! ## The heartwood and the display -/

theorem saveTick_keepsLamp (slotFails : Nat) (halfFails : Bool) : KeepsLamp (.saveTick slotFails halfFails) :=
  fun s hs => by
  show LampOkR (execSaveTick slotFails halfFails s)
  unfold execSaveTick
  extract_lets nv flash t bil u cause bil' v w
  have hu : LampOk u := .of (failSlots_changes (setHeartwood_changes (setFlash_changes (.refl _ s) _) _) _) hs
  have hw : Kept (allBut .display) u w := .ite (fun _ => setHeartwood_changes (.refl _ u) _) fun _ =>
    writeSave_changes (setHeartwood_changes (.refl _ u) _) _
  exact LampOkR.ite (fun _ => .next hs) fun _ => LampOkR.ite (fun _ => .next (fatalError_lampOk hu 6 8 0)) fun _ =>
    .next (.of (.forBoughs _ hw fun b _ hx => journalSession_changes hx b) hu)

theorem checkValueRecompute_keepsLamp : KeepsLamp .checkValueRecompute := fun _ hs =>
  LampOkR.ite (fun _ => .next (recomputeCheck_lampOk hs)) fun _ => .next hs

theorem vlcdOutOfRange_keepsLamp (mv : Nat) : KeepsLamp (.vlcdOutOfRange mv) := fun s hs => by
  show LampOkR (execVlcdOutOfRange mv s)
  unfold execVlcdOutOfRange
  refine LampOkR.ite (fun _ => .next hs) fun _ => .next (.of (auxAll_changes (.refl _ _)) (.dark rfl))

theorem displayUpdate_keepsLamp : KeepsLamp .displayUpdate := fun s hs => by
  show LampOkR (execDisplayUpdate s)
  unfold execDisplayUpdate
  split
  · extract_lets t
    have ht : LampOk t := .ite (fun _ => startDisplay_lampOk hs) fun _ => hs
    have hu : LampOk (if t.lcd.page = 16 then rateLabel t else ([], t)).2 := by
      split
      · exact .of (rateLabel_changes (.refl _ t)) ht
      · exact ht
    generalize (if t.lcd.page = 16 then rateLabel t else ([], t)) = p at hu ⊢
    obtain ⟨lab, u⟩ := p
    exact .next hu
  · exact .next hs

theorem displayFrameStart_keepsLamp : KeepsLamp .displayFrameStart := fun s hs => by
  have hd (hn : s.lcd.state ≠ .showing) : s.lcd.backlight = false := hs.off hn
  show LampOkR (execDisplayFrameStart s)
  unfold execDisplayFrameStart
  extract_lets lcd t
  have ht : LampOk t := hs
  split
  · exact .next ht
  · rename_i hp
    refine LampOkR.ite (fun _ => .next (stopFrame_lampOk ht)) fun _ => .next (measureVlcd_lampOk (.dark ?_) _ _)
    exact hd fun e => by rw [show t.lcd.state = .showing from e] at hp; exact absurd hp (by decide)
  · refine LampOkR.ite (fun _ => .next (stopFrame_lampOk ht)) fun _ => LampOkR.ite (fun _ => .next ht) fun _ => .next ?_
    refine .of (auxAll_changes (.refl _ _)) (copyLines_lampOk (.of (emit_changes (.refl _ _) _ _ _) ?_))
    exact fun _ => rfl
  · exact LampOkR.ite (fun _ => .next (stopFrame_lampOk ht)) fun _ => .next ht
  · exact LampOkR.ite (fun _ => .next (stopFrame_lampOk ht)) fun _ => .next ht
  · exact .next (stopFrame_lampOk ht)

theorem vlcdAdjust_keepsLamp : KeepsLamp .vlcdAdjust := fun _ hs => LampOkR.next hs

theorem displayRestart_keepsLamp : KeepsLamp .displayRestart := fun _ hs =>
  LampOkR.ite (fun _ => .next (startDisplay_lampOk hs)) fun _ => .next hs

theorem updateTimeout_keepsLamp : KeepsLamp .updateTimeout := fun s hs => by
  show LampOkR (execUpdateTimeout s)
  unfold execUpdateTimeout
  split
  · exact .next (orderStop_lampOk hs 2)
  · exact .next (orderStop_lampOk hs 2)
  · exact .next hs

theorem dispbtnPress_keepsLamp : KeepsLamp .dispbtnPress := fun s hs => by
  show LampOkR (execDispbtnPress s)
  unfold execDispbtnPress
  extract_lets p lcd t
  have ht : LampOk t := hs
  exact LampOkR.ite (fun _ => .next hs) fun _ =>
    LampOkR.ite (fun _ => .next (.of (auxAll_changes (.refl _ _)) (leaveLowPower_lampOk hs))) fun _ =>
      LampOkR.ite (fun _ => .next (.ite (fun _ => recomputeCheck_lampOk ht) fun _ => ht)) fun _ => .next hs

theorem dispbtnHold_keepsLamp : KeepsLamp .dispbtnHold := fun _ hs =>
  LampOkR.ite (fun _ => .next hs) fun _ => .next hs

theorem pageIdleReturn_keepsLamp : KeepsLamp .pageIdleReturn := fun _ hs =>
  LampOkR.ite (fun _ => .next hs) fun _ => .next hs

theorem lowPowerEntry_keepsLamp : KeepsLamp .lowPowerEntry := fun s hs => by
  show LampOkR (execLowPowerEntry s)
  unfold execLowPowerEntry
  exact LampOkR.ite (fun _ => .next (.of (auxAll_changes (.refl _ _)) (.dark rfl))) fun _ => .next hs

/-! ## The memories, the recorder and the update -/

theorem lbistSlice_keepsLamp (part : Fin 14) (granted : Bool) (sig : BitVec 32) :
    KeepsLamp (.lbistSlice part granted sig) := fun s hs => by
  show LampOkR (execLbistSlice part granted sig s)
  unfold execLbistSlice
  extract_lets n mem t mem' u host v host'
  have ht : LampOk t := hs
  have hu : LampOk u := hs
  refine LampOkR.ite (fun _ => .next hs) fun _ => LampOkR.ite (fun _ => .next (.ite (fun _ => ?_) fun _ => hu)) fun _ =>
    .next (endRun_lampOk ?_ _ _)
  · exact hu
  · exact ht

theorem marchSlice_keepsLamp (hard : List (Nat × Nat)) : KeepsLamp (.marchSlice hard) := fun s hs => by
  have hnext {u : State} (hu : LampOk u) : LampOk (marchNext u) := .of (marchNext_changes (.refl _ u)) hu
  show LampOkR (execMarchSlice hard s)
  unfold execMarchSlice
  refine LampOkR.ite (fun _ => .next hs) fun _ => LampOkR.ite (fun _ => LampOkR.ite (fun _ => .next ?_) fun _ => .next ?_)
    fun _ => ?_
  · exact hs
  · exact hnext (marchAt_lampOk (s := { s with mem.marchRow := s.mem.marchRow + 1 }) hs _ _)
  · split
    · exact .next (hnext (marchAt_lampOk (s := { s with mem.marchSkip := s.mem.marchSkip.erase _ }) hs _ _))
    · exact .next (hnext hs)

theorem scrubRow_keepsLamp : KeepsLamp .scrubRow := fun s hs => by
  show LampOkR (execScrubRow s)
  unfold execScrubRow
  refine LampOkR.ite (fun _ => .next hs) fun _ => LampOkR.ite (fun _ => .next ?_) fun _ => .next ?_
  all_goals exact .of (setMemory_changes (.refl _ _) _ rfl) (scrubAt_lampOk hs _)

theorem heartwoodScrubRow_keepsLamp : KeepsLamp .heartwoodScrubRow := fun s hs => by
  show LampOkR (execHeartwoodScrubRow s)
  unfold execHeartwoodScrubRow
  exact LampOkR.ite (fun _ => .next hs) fun _ => .next (.of (setMemory_changes (.refl _ _) _ rfl) (scrubAt_lampOk hs _))

theorem fatalRestart_keepsLamp : KeepsLamp .fatalRestart := fun s hs => by
  show LampOkR (execFatalRestart s)
  unfold execFatalRestart
  split
  · exact .next hs
  · refine LampOkR.ite (fun _ => .next hs) fun _ => ?_
    extract_lets first t after waits recent flash
    have ht : LampOk t := .of (.ite (fun _ => finishDump_changes (.refl _ s)) fun _ => .refl _ s) hs
    exact LampOkR.ite (fun _ => .next (.of (setRecorder_changes (.refl _ t) _) ht)) fun _ =>
      LampOkR.ite (fun _ => .next ht) fun _ => LampOkR.ite (fun _ => .next (enterHold_lampOk ht)) fun _ =>
        .next (deviceReset_lampOk _)

theorem activationCondition_keepsLamp : KeepsLamp .activationCondition := fun s hs => by
  show LampOkR (execActivationCondition s)
  unfold execActivationCondition
  refine LampOkR.ite (fun _ => .next hs) fun _ => .next (.forBoughs _ (.of (emit_changes ?_ _ _ _) hs) fun b u hu =>
    .ite (fun _ => .of (onSesL_changes (.refl _ u) b _) hu) fun _ => holdSession_lampOk (s := u.onSaf b _) hu b 1)
  exact setUpdate_changes (.refl _ s) _

theorem drainEnd_keepsLamp : KeepsLamp .drainEnd := fun s hs => by
  show LampOkR (execDrainEnd s)
  unfold execDrainEnd
  exact LampOkR.ite (fun _ => .next hs) fun _ => .next (deviceReset_lampOk _)

theorem updAbort_keepsLamp (h : CmdHdr) : KeepsLamp (.updAbort h) := fun s hs => by
  show LampOkR (execUpdAbort h s)
  unfold execUpdAbort
  have hd := dropStage_changes (.refl (allBut .display) s) 2
  exact LampOkR.ite (fun _ => .next (deviceReset_lampOk _)) fun _ =>
    .next (.of (updAnswer_changes (.ite (fun _ => hd) fun _ => dropSchedule_changes hd) _ _ _) hs)

theorem confirmationWindowEnd_keepsLamp : KeepsLamp .confirmationWindowEnd := fun s hs => by
  show LampOkR (execConfirmationWindowEnd s)
  unfold execConfirmationWindowEnd
  exact LampOkR.ite (fun _ => .next hs) fun _ =>
    LampOkR.ite (fun _ => .next (.of (confirmUpdate_changes (.refl _ s) _) hs)) fun _ => .next (deviceReset_lampOk _)

/-! ## Every command -/

/-- Each command but the dispatch: by its frame where that leaves the display alone, else by its own lemma. -/
theorem exec_keepsLamp (i : Instr) (hi : i ≠ .commandDispatch) : KeepsLamp i := by
  by_cases hd : reachesDisplay i = true
  · cases i
    case commandDispatch => exact absurd rfl hi
    case latticeTick a b => exact latticeTick_keepsLamp a b
    case trunkFlit a b c => exact trunkFlit_keepsLamp a b c
    case laneFailed a => exact laneFailed_keepsLamp a
    case supplyTrip a b => exact supplyTrip_keepsLamp a b
    case powerDieThermalShutdown a => exact powerDieThermalShutdown_keepsLamp a
    case resetnLow a => exact resetnLow_keepsLamp a
    case phaseP6 a => exact phaseP6_keepsLamp a
    case commitApply a => exact commitApply_keepsLamp a
    case plateauValue a b c => exact plateauValue_keepsLamp a b c
    case proximityMean a => exact proximityMean_keepsLamp a
    case v2gRequest a b => exact v2gRequest_keepsLamp a b
    case paymentDetailsReq a b c d e => exact paymentDetailsReq_keepsLamp a b c d e
    case cableCheckReq a => exact cableCheckReq_keepsLamp a
    case powerDeliveryReq a b => exact powerDeliveryReq_keepsLamp a b
    case sessionStopReq a => exact sessionStopReq_keepsLamp a
    case v2gTimerExpired a b => exact v2gTimerExpired_keepsLamp a b
    case hostWaitExpired a => exact hostWaitExpired_keepsLamp a
    case authHoldExpired a => exact authHoldExpired_keepsLamp a
    case creditCheck a => exact creditCheck_keepsLamp a
    case grantExpired a => exact grantExpired_keepsLamp a
    case ceilingBelowMinimum a => exact ceilingBelowMinimum_keepsLamp a
    case currentAllowanceExpired a => exact currentAllowanceExpired_keepsLamp a
    case sesAuthAccept a b c d e => exact sesAuthAccept_keepsLamp a b c d e
    case sesAuthRefuse a b => exact sesAuthRefuse_keepsLamp a b
    case sesIdent a b => exact sesIdent_keepsLamp a b
    case sesStop a => exact sesStop_keepsLamp a
    case closingSequence a b => exact closingSequence_keepsLamp a b
    case dcClosingSequence a b => exact dcClosingSequence_keepsLamp a b
    case contactConfirmed a => exact contactConfirmed_keepsLamp a
    case closingConfirmTimeout a => exact closingConfirmTimeout_keepsLamp a
    case prechargeComplete a => exact prechargeComplete_keepsLamp a
    case weldCheck a b => exact weldCheck_keepsLamp a b
    case weldRecheck a b => exact weldRecheck_keepsLamp a b
    case switchTestSlot a b => exact switchTestSlot_keepsLamp a b
    case stuckOnCheck a => exact stuckOnCheck_keepsLamp a
    case coilCurrentLimit a b => exact coilCurrentLimit_keepsLamp a b
    case coilOpenDetect a b => exact coilOpenDetect_keepsLamp a b
    case coilSupplyLow a => exact coilSupplyLow_keepsLamp a
    case emergencyStop a b => exact emergencyStop_keepsLamp a b
    case sidePathSample a b => exact sidePathSample_keepsLamp a b
    case dcResidualPersistence a b => exact dcResidualPersistence_keepsLamp a b
    case bridgeStateEnd a => exact bridgeStateEnd_keepsLamp a
    case heartbeatFrame a b c => exact heartbeatFrame_keepsLamp a b c
    case logicWatchdogExpired a => exact logicWatchdogExpired_keepsLamp a
    case safHoldSet a => exact safHoldSet_keepsLamp a
    case saveTick a b => exact saveTick_keepsLamp a b
    case vlcdOutOfRange a => exact vlcdOutOfRange_keepsLamp a
    case lbistSlice a b c => exact lbistSlice_keepsLamp a b c
    case marchSlice a => exact marchSlice_keepsLamp a
    case updAbort a => exact updAbort_keepsLamp a
    case hstRestart a b => exact hstRestart_keepsLamp a b
    case phaseP3 => exact phaseP3_keepsLamp
    case phaseP5 => exact phaseP5_keepsLamp
    case estopDiscrepancy => exact estopDiscrepancy_keepsLamp
    case heartbeatPeriodMissed => exact heartbeatPeriodMissed_keepsLamp
    case checkValueRecompute => exact checkValueRecompute_keepsLamp
    case displayUpdate => exact displayUpdate_keepsLamp
    case displayFrameStart => exact displayFrameStart_keepsLamp
    case vlcdAdjust => exact vlcdAdjust_keepsLamp
    case displayRestart => exact displayRestart_keepsLamp
    case updateTimeout => exact updateTimeout_keepsLamp
    case dispbtnPress => exact dispbtnPress_keepsLamp
    case dispbtnHold => exact dispbtnHold_keepsLamp
    case pageIdleReturn => exact pageIdleReturn_keepsLamp
    case lowPowerEntry => exact lowPowerEntry_keepsLamp
    case scrubRow => exact scrubRow_keepsLamp
    case heartwoodScrubRow => exact heartwoodScrubRow_keepsLamp
    case fatalRestart => exact fatalRestart_keepsLamp
    case activationCondition => exact activationCondition_keepsLamp
    case drainEnd => exact drainEnd_keepsLamp
    case confirmationWindowEnd => exact confirmationWindowEnd_keepsLamp
    all_goals exact absurd (show false = true from hd) (by decide)
  · intro s hs t e
    have hl : i ≠ .lifecycleApply → LampOk t := fun hn =>
      .of ((exec_leaves i hn).2 (by simpa using hd) s t e) hs
    by_cases hn : i = .lifecycleApply
    · subst hn
      exact .of ((lifecycleApply_frame s t e).mono (by decide)) hs
    · exact hl hn

theorem runHost_lampOk {s : State} (hs : LampOk s) (i : Instr) : LampOkR (runHost i s) := by
  rcases runHost_eq i s with ⟨hi, e⟩ | e
  · rw [e]
    exact exec_keepsLamp i hi s hs
  · rw [e]
    exact .next hs

theorem commandDispatch_keepsLamp : KeepsLamp .commandDispatch := fun s hs => by
  have hc (cq : List (List Byte)) (n d l : Nat) := LampOk.of (setCommands_changes (.refl _ s) cq n d l) hs
  show LampOkR (execCommandDispatch s)
  unfold execCommandDispatch
  split
  · exact .next hs
  · dsimp only
    split
    · exact .next (.of (answer_changes (.refl _ _) _ _ _ _) (hc _ _ _ _))
    · split
      · exact runHost_lampOk (hc _ _ _ _) _
      · exact .fault _

/-- Settles O7: each command's own lemma, on the state whose queue has given up its front command. -/
theorem backlightOnlyWhileShowing : Obligations.BacklightOnlyWhileShowing := by
  unfold Obligations.BacklightOnlyWhileShowing
  intro s t hs e
  unfold step at e
  split at e
  · obtain rfl := Host.Outcome.next.inj e
    exact hs
  · rename_i c rest _
    have hq : LampOk { s with pending := rest } := hs
    by_cases hc : c = .commandDispatch
    · subst hc
      exact commandDispatch_keepsLamp _ hq t e
    · exact exec_keepsLamp c hc _ hq t e

end Sys2Proof.Safety
end

section
/-! SUPPORT. Where a command stops (R730, R739): that every branch of a command answers a next state, and the bodies that are left
undefined. -/

set_option Elab.async false

namespace Sys2Proof.Safety

open Sys2Proof.Machine

/-- The command answers a next state. -/
def Total (r : Res) : Prop := ∃ t, r = .next t

theorem Total.next {t : State} : Total (.next t) := ⟨t, rfl⟩

theorem Total.ite {a b : Res} {c : Prop} [Decidable c] (h : Total a) (k : Total b) : Total (if c then a else b) := by
  split
  · exact h
  · exact k

/-- A body in its range passes the test that stops the command for the others. -/
theorem Total.guard {a : Res} {c : Prop} {e : Fault} [Decidable c] (hc : ¬c) (k : Total a) :
    Total (if c then .fault e else a) := by
  rw [if_neg hc]
  exact k

/-! ## What every branch of a shared operation answers -/

theorem onHdr_total (h : CmdHdr) (s : State) {f : Bough → Res} (hf : ∀ b, hdrBough h = some b → Total (f b)) :
    Total (onHdr h s f) := by
  unfold onHdr
  split
  case h_1 b hb => exact hf b hb
  case h_2 => exact .next

theorem onSesHdr_total (h : CmdHdr) (s : State) {f : Bough → Res} (hf : ∀ b, Total (f b)) : Total (onSesHdr h s f) := by
  unfold onSesHdr
  split
  case h_1 b _ => exact .ite (hf b) .next
  case h_2 => exact .next

theorem onRecord_total (h : CmdHdr) (digest : List Byte) (s : State) (f : Nat → List Byte → State → State) :
    Total (onRecord h digest s f) := by
  unfold onRecord
  split <;> exact .next

theorem onFrame_total (typ : Nat) (f : CnpRx) (s : State) (act : List Byte → State → State) :
    Total (onFrame typ f s act) := by
  unfold onFrame
  refine .ite .next ?_
  split
  · exact .next
  · dsimp only
    split <;> exact .next

/-! ## Commands that choose by more than conditions -/

theorem execTrunkFlit_total (i : Fin 23) (offers : List Flit) (errs : BitVec 9) (s : State) :
    Total (execTrunkFlit i offers errs s) := by
  unfold execTrunkFlit
  refine .ite .next ?_
  split
  · exact .next
  · split
    · exact .next
    · exact .ite .next .next

theorem execEnergyResultAccept_total (b : Bough) (kind : Fin 2) (s : State) : Total (execEnergyResultAccept b kind s) := by
  unfold execEnergyResultAccept
  split <;> exact .next

theorem execDieTempUpdate_total (logic mixed power : Int) (s : State) : Total (execDieTempUpdate logic mixed power s) := by
  unfold execDieTempUpdate
  dsimp only
  split
  · exact .ite .next .next
  · exact .next

theorem execPhaseP1_total (ok : Bool) (n : Option (Fin 3)) (s : State) : Total (execPhaseP1 ok n s) := by
  unfold execPhaseP1
  refine .ite .next (.ite .next (.ite .next ?_))
  dsimp only
  split <;> exact .next

theorem execPhaseP2_total (t : PatternTest) (s : State) : Total (execPhaseP2 t s) := by
  unfold execPhaseP2
  split
  · exact .next
  · exact .ite .next .next

theorem execPhaseP3_total (s : State) : Total (execPhaseP3 s) := by
  unfold execPhaseP3
  refine .ite .next (.ite .next ?_)
  dsimp only
  split
  · exact .next
  · split <;> exact .next

theorem execPhaseP4_total (s : State) : Total (execPhaseP4 s) := by
  unfold execPhaseP4
  refine .ite .next (.ite .next ?_)
  split <;> exact .next

theorem execPhaseP5_total (s : State) : Total (execPhaseP5 s) := by
  unfold execPhaseP5
  refine .ite .next (.ite .next ?_)
  split <;> exact .next

theorem execPhaseP6_total (c : SelfCheck) (s : State) : Total (execPhaseP6 c s) := by
  unfold execPhaseP6
  refine .ite .next (.ite .next (.ite .next ?_))
  split
  · exact .next
  · dsimp only
    split <;> exact .next

theorem execPlateauValue_total (b : Bough) (positive : Bool) (mv : Int) (s : State) :
    Total (execPlateauValue b positive mv s) := by
  unfold execPlateauValue
  dsimp only
  split <;> exact .next

theorem execCmSlacParmReq_total (mac runId : List Byte) (atten : Vector (Option Nat) 8) (s : State) :
    Total (execCmSlacParmReq mac runId atten s) := by
  unfold execCmSlacParmReq
  dsimp only
  split <;> exact .next

theorem execCmStartAttenCharInd_total (mac runId : List Byte) (atten : Vector (Option Nat) 8) (s : State) :
    Total (execCmStartAttenCharInd mac runId atten s) := by
  unfold execCmStartAttenCharInd
  split <;> exact .next

theorem execCmMnbcSoundInd_total (mac runId : List Byte) (atten : Vector (Option Nat) 8) (erased : Vector Nat 8)
    (groups : Vector Nat 58) (s : State) : Total (execCmMnbcSoundInd mac runId atten erased groups s) := by
  unfold execCmMnbcSoundInd
  split
  · exact .ite .next .next
  · exact .next

theorem execSoundingEnd_total (mac runId : List Byte) (s : State) : Total (execSoundingEnd mac runId s) := by
  unfold execSoundingEnd
  split
  · split
    · exact .next
    · exact .ite .next (.ite .next (.ite .next .next))
  · exact .next

theorem execCmSlacMatchReq_total (mac runId : List Byte) (s : State) : Total (execCmSlacMatchReq mac runId s) := by
  unfold execCmSlacMatchReq
  split
  · split <;> exact .next
  · exact .next

theorem execModemFrameTransmit_total (port : Fin 9) (symbols built : Nat) (blocks : List TxBlock) (medium : Medium)
    (s : State) : Total (execModemFrameTransmit port symbols built blocks medium s) := by
  unfold execModemFrameTransmit
  split <;> exact .next

theorem execSesStop_total (h : CmdHdr) (s : State) : Total (execSesStop h s) := onSesHdr_total _ _ fun b => by
  split <;> exact .next

theorem execSesGrant_total (h : CmdHdr) (amount : Int) (expiry : Nat) (s : State) : Total (execSesGrant h amount expiry s) :=
  onSesHdr_total _ _ fun _ => .ite .next .next

theorem execSesCreditAdd_total (h : CmdHdr) (digest : List Byte) (amount : Int) (s : State) :
    Total (execSesCreditAdd h digest amount s) := by
  unfold execSesCreditAdd
  exact onRecord_total _ _ _ _

theorem execSesCreditSet_total (h : CmdHdr) (digest : List Byte) (amount : Int) (s : State) :
    Total (execSesCreditSet h digest amount s) := by
  unfold execSesCreditSet
  exact onRecord_total _ _ _ _

theorem execSesCreditDelete_total (h : CmdHdr) (digest : List Byte) (s : State) :
    Total (execSesCreditDelete h digest s) := by
  unfold execSesCreditDelete
  exact onRecord_total _ _ _ _

theorem execSesCreditSetFlags_total (h : CmdHdr) (digest : List Byte) (flags : Byte) (s : State) :
    Total (execSesCreditSetFlags h digest flags s) := by
  unfold execSesCreditSetFlags
  exact onRecord_total _ _ _ _

theorem execSesCreditCreate_total (h : CmdHdr) (digest : List Byte) (flags : Byte) (amount : Int) (s : State) :
    Total (execSesCreditCreate h digest flags amount s) := by
  unfold execSesCreditCreate
  dsimp only
  split
  · exact .next
  · split <;> exact .next

theorem execClosingSequence_total (b : Bough) (k : AcStep) (s : State) : Total (execClosingSequence b k s) := by
  cases k
  case begin => exact .ite .next (.ite .next .next)
  case second => exact .ite .next .next

theorem execDcClosingSequence_total (b : Bough) (k : DcStep) (s : State) : Total (execDcClosingSequence b k s) := by
  cases k
  case begin | second => exact .ite .next (.ite .next .next)
  case linkReached => exact .ite .next .next
  case mainClosed | preReleased | insulation => exact .next

theorem execContactConfirmed_total (b : Bough) (s : State) : Total (execContactConfirmed b s) := by
  unfold execContactConfirmed
  split
  case h_1 => exact .ite .next (.ite .next .next)
  case h_2 | h_3 => exact .next

theorem execClosingConfirmTimeout_total (b : Bough) (s : State) : Total (execClosingConfirmTimeout b s) := by
  unfold execClosingConfirmTimeout
  split <;> exact .next

theorem execSwitchTestSlot_total (slot : Fin 48) (r : TestResult) (s : State) : Total (execSwitchTestSlot slot r s) := by
  cases r <;> exact .next

theorem execDcResidualPersistence_total (b : Bough) (w : DcWindow) (s : State) :
    Total (execDcResidualPersistence b w s) := by
  unfold execDcResidualPersistence
  dsimp only
  split <;> exact .next

theorem execReserveChainsFilled_total (b : Bough) (s : State) : Total (execReserveChainsFilled b s) := by
  unfold execReserveChainsFilled
  split <;> exact .next

theorem execMtrCalEnd_total (b : Bough) (s : State) : Total (execMtrCalEnd b s) := by
  unfold execMtrCalEnd
  split
  · exact .next
  · exact .ite .next .next

theorem execSwapReturnCompareEnd_total (b : Bough) (ppm : Nat) (s : State) : Total (execSwapReturnCompareEnd b ppm s) := by
  unfold execSwapReturnCompareEnd
  refine .ite .next (.ite ?_ (.ite .next .next))
  dsimp only
  split <;> exact .next

theorem execCycleEnd_total (b : Bough) (before after : Int) (s : State) : Total (execCycleEnd b before after s) := by
  unfold execCycleEnd
  refine .ite .next ?_
  dsimp only
  split <;> exact .next

theorem execBilReadAck_total (h : CmdHdr) (no : Nat) (s : State) : Total (execBilReadAck h no s) := by
  unfold execBilReadAck
  split <;> exact .next

theorem execBilReadGet_total (h : CmdHdr) (first count : Nat) (s : State) : Total (execBilReadGet h first count s) := by
  unfold execBilReadGet
  refine .ite .next ?_
  split <;> exact .next

theorem execCanopyAck_total (f : CnpRx) (mask : BitVec 64) (s : State) : Total (execCanopyAck f mask s) := by
  unfold execCanopyAck
  refine .ite .next ?_
  split <;> exact .next

theorem execTagFlush_total (h : CmdHdr) (fin : FlushEnd) (s : State) : Total (execTagFlush h fin s) := by
  cases fin with
  | done => exact .next
  | failed bad => exact .ite .next .next
  | cut p k => exact .ite .next (.ite .next .next)

theorem execKeyInstall_total (h : CmdHdr) (slot : Nat) (nonce enc tag : List Byte) (s : State) :
    Total (execKeyInstall h slot nonce enc tag s) := by
  unfold execKeyInstall
  refine .ite .next (.ite .next ?_)
  split <;> exact .next

theorem execMarchSlice_total (hard : List (Nat × Nat)) (s : State) : Total (execMarchSlice hard s) := by
  unfold execMarchSlice
  refine .ite .next (.ite (.ite .next .next) ?_)
  split <;> exact .next

theorem execLogRead_total (h : CmdHdr) (ring first limit : Nat) (s : State) : Total (execLogRead h ring first limit s) := by
  unfold execLogRead
  refine .ite .next (.ite .next ?_)
  split
  · exact .next
  · split <;> exact .next

theorem execUpdBegin_total (h : CmdHdr) (header : List Byte) (s : State) : Total (execUpdBegin h header s) := by
  unfold execUpdBegin
  refine .ite .next ?_
  dsimp only
  split <;> exact .next

theorem execUpdChunk_total (h : CmdHdr) (off len : Nat) (s : State) : Total (execUpdChunk h off len s) := by
  unfold execUpdChunk
  refine .ite .next ?_
  split
  · exact .next
  · exact .ite .next (.ite .next .next)

theorem execUpdEnd_total (h : CmdHdr) (s : State) : Total (execUpdEnd h s) := by
  unfold execUpdEnd
  refine .ite .next ?_
  split
  · exact .next
  · exact .ite .next .next

theorem execCryptoOperationDone_total (s : State) : Total (execCryptoOperationDone s) := by
  unfold execCryptoOperationDone
  split
  · exact .next
  · dsimp only
    split <;> exact .next

theorem execDisplayUpdate_total (s : State) : Total (execDisplayUpdate s) := by
  unfold execDisplayUpdate
  split <;> exact .next

theorem execDisplayFrameStart_total (s : State) : Total (execDisplayFrameStart s) := by
  unfold execDisplayFrameStart
  dsimp only
  split
  case h_1 | h_6 => exact .next
  case h_2 | h_4 | h_5 => exact .ite .next .next
  case h_3 => exact .ite .next (.ite .next .next)

theorem execUpdateTimeout_total (s : State) : Total (execUpdateTimeout s) := by
  unfold execUpdateTimeout
  split <;> exact .next

theorem execLifecycleApply_total (s : State) : Total (execLifecycleApply s) := by
  unfold execLifecycleApply
  split <;> exact .next

theorem execFieldMapWrite_total (s : State) : Total (execFieldMapWrite s) := by
  unfold execFieldMapWrite
  refine .ite .next ?_
  split
  · exact .next
  · exact .ite .next .next

theorem execRecordWrite_total (s : State) : Total (execRecordWrite s) := by
  unfold execRecordWrite
  refine .ite .next ?_
  split <;> exact .next

theorem execFatalRestart_total (s : State) : Total (execFatalRestart s) := by
  unfold execFatalRestart
  split
  · exact .next
  · exact .ite .next (.ite .next (.ite .next (.ite .next .next)))

/-! ## Bodies with a range (R730, R739) -/

theorem execSesAuthAccept_total {ident : List Byte} (hr : ident.length ≤ 32) (h : CmdHdr) (remote : Bool) (amount : Int)
    (expiry : Nat) (s : State) : Total (execSesAuthAccept h remote amount expiry ident s) :=
  .guard (Nat.not_lt.mpr hr) (onSesHdr_total _ _ fun _ => .next)

theorem execSesAuthRefuse_total {ident : List Byte} (hr : ident.length ≤ 32) (h : CmdHdr) (s : State) :
    Total (execSesAuthRefuse h ident s) :=
  .guard (Nat.not_lt.mpr hr) (onSesHdr_total _ _ fun _ => .next)

theorem execSesIdent_total {credential : List Byte} (he : credential.isEmpty = false) (hr : credential.length ≤ 32)
    (h : CmdHdr) (s : State) : Total (execSesIdent h credential s) := by
  refine .guard (by simp [he, hr]) (onSesHdr_total _ _ fun b => ?_)
  split <;> exact .next

theorem execSesCeiling_total {watts : Nat} (hr : watts ≤ 0x7FFFFFFF) (h : CmdHdr) (validity : Nat) (s : State) :
    Total (execSesCeiling h watts validity s) :=
  .guard (Nat.not_lt.mpr hr) (onSesHdr_total _ _ fun _ => .next)

section
variable {count : Nat} (hlo : 1 ≤ count) (hhi : count ≤ 16384)
include hlo hhi

theorem execSesLedgerLoadMerge_total (h : CmdHdr) (s : State) : Total (execSesLedgerLoadMerge h count s) :=
  .guard (by omega) .next

theorem execSesLedgerLoadReplace_total (h : CmdHdr) (s : State) : Total (execSesLedgerLoadReplace h count s) :=
  .guard (by omega) (.ite .next .next)

end

theorem hdrBough_lt {h : CmdHdr} {b : Bough} (hb : hdrBough h = some b) : h.bough < 8 := by
  by_contra hc
  rw [hdrBough, dif_neg hc] at hb
  exact absurd hb nofun

theorem execMtrCal_total {h : CmdHdr} {n ref : Nat} (hr : h.bough < 8 → 1 ≤ n ∧ n ≤ 250 ∧ (ref < 24 ∨ ref = 255))
    (mask : BitVec 24) (raw : Bool) (s : State) : Total (execMtrCal h mask n ref raw s) :=
  onHdr_total _ _ fun b hb => .guard (by have := hr (hdrBough_lt hb); omega) (.ite .next .next)

section
variable {h : CmdHdr} {ch : Nat} (hr : h.bough < 8 → ch < 24)
include hr

theorem execMtrSwapHot_total (s : State) : Total (execMtrSwapHot h ch s) :=
  onHdr_total _ _ fun _ hb => .guard (Nat.not_le.mpr (hr (hdrBough_lt hb))) (.ite .next (.ite .next (.ite .next .next)))

theorem execMtrSwapReturn_total (s : State) : Total (execMtrSwapReturn h ch s) :=
  onHdr_total _ _ fun _ hb => .guard (Nat.not_le.mpr (hr (hdrBough_lt hb))) (.ite .next (.ite .next .next))

theorem execMtrSwapAbort_total (s : State) : Total (execMtrSwapAbort h ch s) :=
  onHdr_total _ _ fun _ hb => .guard (Nat.not_le.mpr (hr (hdrBough_lt hb))) (.ite .next (.ite .next .next))

end

theorem execMtrSwapReadmit_total {h : CmdHdr} {ch : Nat} (hr : h.bough < 8 → ch < 25) (s : State) :
    Total (execMtrSwapReadmit h ch s) :=
  onHdr_total _ _ fun _ hb => .guard (Nat.not_le.mpr (hr (hdrBough_lt hb))) (.ite .next (.ite .next .next))

theorem execMemInjectMode1_total {s : State} (hr : s.lifecycle = lcDeployed ∨ targetOk (injectTarget s) = true)
    (h : CmdHdr) : Total (execMemInjectMode1 h s) := by
  refine hr.elim (fun hd => ⟨_, if_pos hd⟩) fun ht => .ite .next ?_
  rw [ht]
  exact .next

/-- Every command but the dispatch of a message answers a next state when its body is in its range. -/
theorem exec_total (i : Instr) (s : State) (hd : i ≠ .commandDispatch) (hr : inRange i s = true) : Total (exec i s) := by
  cases i
  case commandDispatch => exact absurd rfl hd
  case sesAuthAccept => exact execSesAuthAccept_total (of_decide_eq_true hr) _ _ _ _ _
  case sesAuthRefuse => exact execSesAuthRefuse_total (of_decide_eq_true hr) _ _
  case sesIdent =>
    simp only [inRange, Bool.and_eq_true, Bool.not_eq_true', decide_eq_true_eq] at hr
    exact execSesIdent_total hr.1 hr.2 _ _
  case sesCeiling => exact execSesCeiling_total (of_decide_eq_true hr) _ _ _
  case sesLedgerLoadMerge =>
    simp only [inRange, Bool.and_eq_true, decide_eq_true_eq] at hr
    exact execSesLedgerLoadMerge_total hr.1 hr.2 _ _
  case sesLedgerLoadReplace =>
    simp only [inRange, Bool.and_eq_true, decide_eq_true_eq] at hr
    exact execSesLedgerLoadReplace_total hr.1 hr.2 _ _
  case mtrCal =>
    simp only [inRange, Bool.or_eq_true, Bool.and_eq_true, decide_eq_true_eq, beq_iff_eq] at hr
    exact execMtrCal_total (by omega) _ _ _
  case mtrSwapHot =>
    simp only [inRange, Bool.or_eq_true, decide_eq_true_eq] at hr
    exact execMtrSwapHot_total (by omega) _
  case mtrSwapReturn =>
    simp only [inRange, Bool.or_eq_true, decide_eq_true_eq] at hr
    exact execMtrSwapReturn_total (by omega) _
  case mtrSwapAbort =>
    simp only [inRange, Bool.or_eq_true, decide_eq_true_eq] at hr
    exact execMtrSwapAbort_total (by omega) _
  case mtrSwapReadmit =>
    simp only [inRange, Bool.or_eq_true, decide_eq_true_eq] at hr
    exact execMtrSwapReadmit_total (by omega) _
  case memInjectMode1 =>
    simp only [inRange, Bool.or_eq_true, beq_iff_eq] at hr
    exact execMemInjectMode1_total hr _
  case supplyRecovery | backupSwitchover | commitAccept | selectiveAckReceived | hostWaitExpired | authHoldExpired |
      creditCheck | grantExpired | hostCeilingExpired | ceilingBelowMinimum | stopWaitEnd | powerRequest |
      currentAllowanceExpired | stuckOnCheck | coilCurrentLimit | sidePathSample | nrgReadReply | bilTimeSet |
      bilInfo | auxSet | auxClear | inrushWindowEnd | hotClear | retryRestart | lampCompensation | toneMapExpired |
      wupb | keyInfo | drbgHealthFail | memMapGet | commandQueueWrite | hstIrqClear | hstCommitDoneClear | hstEcho |
      decisionWindowEnd | readingRelease | vlcdAdjust | tripFollowExpired | messageCounterRollover | fieldLeft |
      maskRenewal | budgetWindowEnd | histogramSnapshot | tagHistogramSummary | hostBadOpcode | hcsnCut |
      bulkRelease => exact .next
  case latticeTick | spareLanePattern | paceCount | heartwoodMailboxWrite | sampleFrame | powerDieThermalShutdown |
      phaseP7 | commitBoughApply | registerWrite | validateCountEnd | slacWindowExpired | staggerRelease |
      modemFrameReceived | supportedAppProtocol | v2gRequest | paymentDetailsReq | cableCheckReq | powerDeliveryReq |
      sessionStopReq | certificateInstallationReq | v2gTimerExpired | prechargeComplete | ordinaryOpening |
      secondRelease | weldRecheck | coilOpenDetect | coilSupplyLow | emergencyStop | bridgeStateEnd | heartbeatSend |
      coreService | logicWatchdogExpired | patrolVisitEnd | modulatorStuck | hotSwapFitStart | noCrossingTimeout |
      noGridCycle | meteringGapOpen | gateSilence | channelOvercurrent | channelThermalFault | retryCountReset |
      groupSupplyReturn | vlcdOutOfRange | memberTimeout | reqb | slotMarker | attrib | tagRead | tagWrite |
      tagArbiterGrant | keyChallenge | keyLifecycle | loopRearm | drbgRetest | memInjectMode0 | histogramSample |
      dumpSlotErased | logDumpAck | logHistGet | updConfirm | updAbort | eventQueueRead | hstRestart |
      channelLimitReached | calendarRangeEnd | pllLockLoss | pllRecovery | backupDomainLoss |
      powerDieThermalRecovery | waitSupplyEnd | estopDiscrepancy | heartbeatPeriodMissed | heartwoodConversion |
      rateEvaluation | billingBoundary | checkValueRecompute | isenseScanStep | displayRestart | dispbtnHold |
      pageIdleReturn | lowPowerEntry | turnStart | loadAllocation | ceilingValidityExpired | tagPowerUp | hltb |
      tagInfo | meterSnapshot | drbgReseed | heartwoodScrubRow | activationCondition | drainEnd | drainTimeout |
      czcEdgeAbsent | hcsnFalling => exact .ite .next .next
  case laneFailed | resetnLow | commitApply | pilotFaultProbe | cmValidateReq | weldCheck | saveTick | czcEdge |
      fieldArrived | lbistSlice | logClear | calendarSecond | emergencyStopRelease | beaconListenEnd |
      oscillatorDetector | scrubRow | confirmationWindowEnd => exact .ite .next (.ite .next .next)
  case cryptoRequest | supplyTrip | resetRelease | heartbeatFrame | cnpSend | tamperSample | updSchedule |
      dispbtnPress | beaconMissed => exact .ite .next (.ite .next (.ite .next .next))
  case proximityMean | logDumpRead => exact .ite .next (.ite .next (.ite .next (.ite .next .next)))
  case seccDiscoveryReq => exact .ite (.ite .next .next) .next
  case crystalCheck => exact .ite .next (.ite (.ite .next .next) .next)
  case hotSwapFitEnd => exact .ite .next (.ite (.ite .next .next) (.ite .next .next))
  case sesCreditAdd => exact execSesCreditAdd_total _ _ _ _
  case sesCreditSet => exact execSesCreditSet_total _ _ _ _
  case sesCreditDelete => exact execSesCreditDelete_total _ _ _
  case sesCreditSetFlags => exact execSesCreditSetFlags_total _ _ _ _
  case beaconReceived | joinRequest | canopyDataFrame | toneMapFrame | statusFrame | ceilingFrame | tripFrame =>
    exact onFrame_total _ _ _ _
  case safClear | safHoldSet | safHoldRelease | nrgRead => exact onHdr_total _ _ fun _ _ => .next
  case bilReadNow => exact onHdr_total _ _ fun _ _ => .ite .next (.ite .next .next)
  case trunkFlit => exact execTrunkFlit_total _ _ _ _
  case energyResultAccept => exact execEnergyResultAccept_total _ _ _
  case dieTempUpdate => exact execDieTempUpdate_total _ _ _ _
  case phaseP1 => exact execPhaseP1_total _ _ _
  case phaseP2 => exact execPhaseP2_total _ _
  case phaseP6 => exact execPhaseP6_total _ _
  case plateauValue => exact execPlateauValue_total _ _ _ _
  case cmSlacParmReq => exact execCmSlacParmReq_total _ _ _ _
  case cmStartAttenCharInd => exact execCmStartAttenCharInd_total _ _ _ _
  case cmMnbcSoundInd => exact execCmMnbcSoundInd_total _ _ _ _ _ _
  case soundingEnd => exact execSoundingEnd_total _ _ _
  case cmSlacMatchReq => exact execCmSlacMatchReq_total _ _ _
  case modemFrameTransmit => exact execModemFrameTransmit_total _ _ _ _ _ _
  case sesStop => exact execSesStop_total _ _
  case sesGrant => exact execSesGrant_total _ _ _ _
  case sesCreditCreate => exact execSesCreditCreate_total _ _ _ _ _
  case closingSequence => exact execClosingSequence_total _ _ _
  case dcClosingSequence => exact execDcClosingSequence_total _ _ _
  case contactConfirmed => exact execContactConfirmed_total _ _
  case closingConfirmTimeout => exact execClosingConfirmTimeout_total _ _
  case switchTestSlot => exact execSwitchTestSlot_total _ _ _
  case dcResidualPersistence => exact execDcResidualPersistence_total _ _ _
  case reserveChainsFilled => exact execReserveChainsFilled_total _ _
  case mtrCalEnd => exact execMtrCalEnd_total _ _
  case swapReturnCompareEnd => exact execSwapReturnCompareEnd_total _ _ _
  case cycleEnd => exact execCycleEnd_total _ _ _ _
  case bilReadAck => exact execBilReadAck_total _ _ _
  case bilReadGet => exact execBilReadGet_total _ _ _ _
  case canopyAck => exact execCanopyAck_total _ _ _
  case tagFlush => exact execTagFlush_total _ _ _
  case keyInstall => exact execKeyInstall_total _ _ _ _ _ _
  case marchSlice => exact execMarchSlice_total _ _
  case logRead => exact execLogRead_total _ _ _ _ _
  case updBegin => exact execUpdBegin_total _ _ _
  case updChunk => exact execUpdChunk_total _ _ _ _
  case updEnd => exact execUpdEnd_total _ _
  case cryptoOperationDone => exact execCryptoOperationDone_total _
  case phaseP3 => exact execPhaseP3_total _
  case phaseP4 => exact execPhaseP4_total _
  case phaseP5 => exact execPhaseP5_total _
  case displayUpdate => exact execDisplayUpdate_total _
  case displayFrameStart => exact execDisplayFrameStart_total _
  case updateTimeout => exact execUpdateTimeout_total _
  case lifecycleApply => exact execLifecycleApply_total _
  case fieldMapWrite => exact execFieldMapWrite_total _
  case recordWrite => exact execRecordWrite_total _
  case fatalRestart => exact execFatalRestart_total _

/-! ## Bodies outside their range -/

/-- The command stops. -/
def Stops (r : Res) : Prop := ∃ e, r = .fault e

theorem Stops.guard {a : Res} {c : Prop} {e : Fault} [Decidable c] (hc : c) : Stops (if c then .fault e else a) :=
  ⟨e, if_pos hc⟩

theorem onHdr_stops {h : CmdHdr} {s : State} {f : Bough → Res} (hb : h.bough < 8) (hf : ∀ b, Stops (f b)) :
    Stops (onHdr h s f) := by
  rw [onHdr, hdrBough, dif_pos hb]
  exact hf _

theorem execMemInjectMode1_stops {s : State} (hl : s.lifecycle ≠ lcDeployed) (ht : targetOk (injectTarget s) = false)
    (h : CmdHdr) : Stops (execMemInjectMode1 h s) := by
  rw [execMemInjectMode1, if_neg hl, ht]
  exact ⟨_, rfl⟩

/-- Every command but the dispatch of a message stops when its body is outside its range. -/
theorem exec_stops (i : Instr) (s : State) (hr : inRange i s = false) : Stops (exec i s) := by
  cases i
  case sesAuthAccept => exact .guard (Nat.not_le.mp (of_decide_eq_false hr))
  case sesAuthRefuse => exact .guard (Nat.not_le.mp (of_decide_eq_false hr))
  case sesIdent =>
    simp only [inRange, Bool.and_eq_false_iff, Bool.not_eq_false', decide_eq_false_iff_not] at hr
    exact .guard (by simpa using hr)
  case sesCeiling => exact .guard (Nat.not_le.mp (of_decide_eq_false hr))
  case sesLedgerLoadMerge | sesLedgerLoadReplace =>
    simp only [inRange, Bool.and_eq_false_iff, decide_eq_false_iff_not] at hr
    exact .guard (by omega)
  case mtrCal =>
    simp only [inRange, Bool.or_eq_false_iff, Bool.and_eq_false_iff, decide_eq_false_iff_not, beq_eq_false_iff_ne] at hr
    exact onHdr_stops (by omega) fun _ => .guard (by omega)
  case mtrSwapHot | mtrSwapReturn | mtrSwapAbort | mtrSwapReadmit =>
    simp only [inRange, Bool.or_eq_false_iff, decide_eq_false_iff_not] at hr
    exact onHdr_stops (by omega) fun _ => .guard (by omega)
  case memInjectMode1 =>
    simp only [inRange, Bool.or_eq_false_iff, beq_eq_false_iff_ne] at hr
    exact execMemInjectMode1_stops hr.1 hr.2 _
  all_goals exact Bool.noConfusion hr

/-- Settles O3: every branch of every command but the dispatch answers a next state when its body is in range, and the
guard on the body stops it when it is not. -/
theorem commandsStopOnlyOnUndefinedBodies : Obligations.CommandsStopOnlyOnUndefinedBodies :=
  fun i s hd => ⟨exec_total i s hd, exec_stops i s⟩

end Sys2Proof.Safety
end

section
/-! SUPPORT. The end of a followed trip on a bough whose pilot goes to mode F (R210, R211, R518): the counterexample to the
claim that it leaves the safety block as it is. -/

set_option Elab.async false

namespace Sys2Proof.Safety

open Sys2Proof.Machine

/-- A started station that follows a trip and whose port 0 is not enabled, while the safety block still holds the pilot's
state C or D of bough 0. -/
def followsTrip : State :=
  { State.reset with
    start.done := 8
    safDev.fsCauses := []
    safDev.firstBeat := true
    supply.inRange := 0x1FFF
    canopy.tripZero := true
    saf := State.reset.saf.set 0 { pilotCD := true } }

/-- The ceilings are computed anew, the pilot of bough 0 is driven to mode F, and with it the safety block loses state C
or D. -/
theorem followsTrip_ended :
    (recalcAll { followsTrip with canopy.tripZero := false }).saf[(0 : Bough)].pilotCD = false := by decide +kernel

/-- Refutes O44: in `followsTrip` TRIP_FOLLOW_EXPIRED drives the pilots anew, and the safety block of bough 0 changes. -/
theorem not_canopySite : ¬ Obligations.CanopySite := by
  unfold Obligations.CanopySite
  intro h
  obtain ⟨-, -, -, -, -, -, -, expired⟩ := h
  obtain ⟨t, ht, -, hsaf⟩ := expired followsTrip
  obtain rfl : recalcAll { followsTrip with canopy.tripZero := false } = t := Host.Outcome.next.inj ht
  have hcd := followsTrip_ended
  rw [hsaf] at hcd
  exact absurd hcd (by decide +kernel)

end Sys2Proof.Safety
end

section
/-! SUPPORT. The turns of the canopy link (R500, R501, R505 to R509): what the traffic of the link leaves of the site, and what a
beacon, a turn and an election make of it. -/

set_option Elab.async false

namespace Sys2Proof.Safety

open Sys2Proof.Machine

/-! ## Traffic -/

/-- The link without its traffic: the counters, the maps of its peers, the messages on their way, what waits for a window
and the validity that runs down. -/
def siteOf (c : Canopy) : Canopy :=
  { c with
    keyIdx := false, msgTime := 0, msgCount := 0, fseq := 0, peers := [], tx := [], rx := [], out := [], ack := []
    heardTrip := false, tripDue := [], ceilDue := [], ceilTurns := 0, joinWait := 0 }

/-- Of the link only the traffic differs. -/
def SiteKept (s t : State) : Prop := siteOf t.canopy = siteOf s.canopy

theorem SiteKept.of_eq {s t : State} (h : t.canopy = s.canopy) : SiteKept s t := congrArg siteOf h

theorem SiteKept.refl (s : State) : SiteKept s s := .of_eq rfl

theorem SiteKept.trans {s t u : State} (h : SiteKept s t) (k : SiteKept t u) : SiteKept s u := Eq.trans k h

theorem SiteKept.ite {s t u : State} {c : Prop} [Decidable c] (h : SiteKept s t) (k : SiteKept s u) :
    SiteKept s (if c then t else u) := by
  split
  · exact h
  · exact k

theorem SiteKept.emit {s t : State} (h : SiteKept s t) (c b : Nat) (d : List Byte) : SiteKept s (emit c b d t) :=
  h.trans (.of_eq (emit_canopy c b d t))

section
variable {s t : State} (h : SiteKept s t)
include h

theorem SiteKept.get {α : Type} (g : Canopy → α) (hg : ∀ c, g (siteOf c) = g c := by exact fun _ => rfl) :
    g t.canopy = g s.canopy := by
  rw [← hg, ← hg s.canopy]
  exact congrArg g h

theorem SiteKept.role : t.canopy.role = s.canopy.role := h.get Canopy.role
theorem SiteKept.record : t.canopy.record = s.canopy.record := h.get Canopy.record
theorem SiteKept.turn : t.canopy.turn = s.canopy.turn := h.get Canopy.turn
theorem SiteKept.turnKnown : t.canopy.turnKnown = s.canopy.turnKnown := h.get Canopy.turnKnown
theorem SiteKept.turnLen : t.canopy.turnLen = s.canopy.turnLen := h.get Canopy.turnLen
theorem SiteKept.missed : t.canopy.missed = s.canopy.missed := h.get Canopy.missed
theorem SiteKept.coord : t.canopy.coord = s.canopy.coord := h.get Canopy.coord
theorem SiteKept.slots : t.canopy.slots = s.canopy.slots := h.get Canopy.slots
theorem SiteKept.members : t.canopy.members = s.canopy.members := h.get Canopy.members
theorem SiteKept.beaconing : t.canopy.beaconing = s.canopy.beaconing := h.get Canopy.beaconing
theorem SiteKept.lmCount : t.canopy.lmCount = s.canopy.lmCount := h.get Canopy.lmCount

theorem SiteKept.ownStation : ownStation t = ownStation s := by unfold Machine.ownStation; rw [h.record]

theorem SiteKept.cnpRank : cnpRank t = cnpRank s := by unfold Machine.cnpRank; rw [h.record]

end

theorem rollCounter_site (s : State) : SiteKept s (rollCounter s) := .ite rfl rfl

theorem sendMsg_site (typ dst cls : Nat) (body : List Byte) (tag : Option Nat) (s : State) :
    SiteKept s (sendMsg typ dst cls body tag s) := (rollCounter_site s).trans (.ite rfl rfl)

theorem sendMap_site (p : Peer) (c : Nat) (s : State) : SiteKept s (sendMap p c s) :=
  .trans (t := putPeer _ s) rfl (sendMsg_site _ _ _ _ _ _)

theorem noteCrx_site (s : State) : SiteKept s (noteCrx s) := .ite rfl rfl

theorem acknowledge_site (f : CnpRx) (s : State) : SiteKept s (acknowledge f s) := .ite rfl rfl

theorem deriveMap_site (f : CnpRx) (s : State) : SiteKept s (deriveMap f s) :=
  .ite rfl (.ite (sendMap_site _ _ _) rfl)

theorem collect_site (f : CnpRx) (s : State) : SiteKept s (collect f s).2 := by
  unfold collect
  dsimp only
  split <;> rfl

theorem passWindow_site (s : State) : SiteKept s (passWindow s) := by
  unfold passWindow
  split
  · refine .ite rfl ?_
    split
    · exact .refl s
    · refine .trans ?_ (sendMsg_site _ _ _ _ _ _)
      rfl
  · have hsend (l : List (List Byte × Nat)) (u : State) :
        SiteKept u (l.foldl (fun t d => sendMsg 5 255 3 d.1 none t) u) := by
      induction l generalizing u with
      | nil => exact .refl u
      | cons d l ih => exact (sendMsg_site _ _ _ _ _ _).trans (ih _)
    refine .trans ?_ (hsend _ _)
    rfl

theorem switchKey_site (s : State) : SiteKept s (switchKey s) :=
  .ite (.emit (t := { s with canopy.keyIdx := true }) rfl _ _ _) (.refl s)

theorem passTurn_site (s : State) : SiteKept s (passTurn s) :=
  (passWindow_site s).trans ((switchKey_site (passWindow s)).trans rfl)

theorem sendStatus_site (s : State) : SiteKept s (sendStatus s) := sendMsg_site _ _ _ _ _ _

/-! ## A frame that delivers its message -/

theorem noteCrx_canopy (s : State) : (noteCrx s).canopy = s.canopy := by
  unfold noteCrx
  split <;> rfl

theorem hears_noteCrx (s : State) (typ : Nat) (f : CnpRx) : hears (noteCrx s) typ f = hears s typ f := by
  unfold hears ownStation
  rw [noteCrx_canopy]

theorem frameReason_noteCrx (s : State) (f : CnpRx) : frameReason (noteCrx s) f = frameReason s f := by
  unfold frameReason cnpSite stationListed
  rw [noteCrx_canopy]

/-- The frame is served with its body, in a state whose link has had traffic. -/
theorem onFrame_delivers {typ : Nat} {f : CnpRx} {body : List Byte} {s : State} (h : Delivers typ f body s) :
    ∃ u, SiteKept s u ∧ ∀ act, onFrame typ f s act = .next (act body u) := by
  obtain ⟨hears, reason, msg, u, hcollect, key, opens⟩ := h
  have hsite := ((noteCrx_site s).trans (acknowledge_site f _)).trans ((deriveMap_site f _).trans (collect_site f _))
  have hh : Machine.hears (noteCrx s) typ f = true := by rw [hears_noteCrx, hears]
  have hr : frameReason (noteCrx s) f = none := by rw [frameReason_noteCrx, reason]
  rw [hcollect] at hsite
  refine ⟨u, hsite, fun act => ?_⟩
  simp [onFrame, hh, hr, hcollect, takeMessage, key, opens]

/-! ## A coordinator's turn (R500, R501) -/

/-- A message is queued as one frame of its type and destination. -/
theorem sendMsg_out (typ dst cls : Nat) (body : List Byte) (tag : Option Nat) (s : State) :
    ∃ e, (sendMsg typ dst cls body tag s).canopy.out = s.canopy.out ++ [e] ∧ e.typ = typ ∧ e.dst = dst := by
  have hroll : (rollCounter s).canopy.out = s.canopy.out := by
    unfold rollCounter
    split <;> rfl
  rw [← hroll]
  unfold sendMsg
  dsimp only
  split <;> exact ⟨_, rfl, rfl, rfl⟩

/-- A broadcast of a beacon waits for no acknowledgement, and the validity of the ceilings stands. -/
theorem sendMsg_ceilTurns (typ dst cls : Nat) (body : List Byte) (tag : Option Nat) (s : State) :
    (sendMsg typ dst cls body tag s).canopy.ceilTurns = s.canopy.ceilTurns := by
  have hroll : (rollCounter s).canopy.ceilTurns = s.canopy.ceilTurns := by
    unfold rollCounter
    split <;> rfl
  rw [← hroll]
  unfold sendMsg
  dsimp only
  split <;> rfl

/-- Nothing waits for the window, and so the turn passes without a frame. -/
theorem passTurn_quiet {s : State} (ht : s.canopy.tripDue = []) (hc : s.canopy.ceilDue = []) :
    (passTurn s).canopy.out = s.canopy.out ∧ (passTurn s).canopy.ceilTurns = s.canopy.ceilTurns - 1 := by
  have hwindow : (passWindow s).canopy.out = s.canopy.out ∧ (passWindow s).canopy.ceilTurns = s.canopy.ceilTurns := by
    unfold passWindow
    rw [ht]
    dsimp only
    rw [hc]
    split <;> exact ⟨rfl, rfl⟩
  have hkey (u : State) : (switchKey u).canopy.out = u.canopy.out ∧ (switchKey u).canopy.ceilTurns = u.canopy.ceilTurns := by
    unfold switchKey
    split
    · simp
    · exact ⟨rfl, rfl⟩
  obtain ⟨hout, hvalid⟩ := hkey (passWindow s)
  exact ⟨hout.trans hwindow.1, congrArg (· - 1) (hvalid.trans hwindow.2)⟩

theorem countTurn_known {s : State} (h : s.canopy.turnKnown = true) :
    countTurn s = { s with canopy.turn := s.canopy.turn + 1 } := if_pos h

theorem coordTurn_known {s : State} (h : s.canopy.turnKnown = true) :
    coordTurn s = { s with canopy.turn := s.canopy.turn + 1 } := (if_pos h).trans (countTurn_known h)

/-- What a coordinator's beacon begins the turn with. -/
def TurnBegun (s t : State) : Prop :=
  t.canopy.turn = s.canopy.turn + 1 ∧ t.canopy.beaconing = true ∧ t.canopy.lmCount = s.canopy.lmCount + 1
    ∧ t.canopy.ceilTurns = s.canopy.ceilTurns - 1
    ∧ t.canopy.turnLen = (if bitOf s.cnpCfg 30 && s.canopy.czcLock then s.canopy.turnLen else 40000)
    ∧ ∃ e, t.canopy.out = s.canopy.out ++ [e] ∧ e.typ = 0 ∧ e.dst = 255

/-- The beacon itself is one broadcast frame. -/
theorem TurnBegun.beacon {s v : State} (hturn : v.canopy.turn = s.canopy.turn + 1) (hbeacon : v.canopy.beaconing = true)
    (hlm : v.canopy.lmCount = s.canopy.lmCount + 1) (hvalid : v.canopy.ceilTurns = s.canopy.ceilTurns - 1)
    (hlen : v.canopy.turnLen = (if bitOf s.cnpCfg 30 && s.canopy.czcLock then s.canopy.turnLen else 40000))
    (hout : v.canopy.out = s.canopy.out) (body : List Byte) : TurnBegun s (sendMsg 0 255 0 body none v) := by
  have hsite := sendMsg_site 0 255 0 body none v
  refine ⟨hsite.turn.trans hturn, hsite.beaconing.trans hbeacon, hsite.lmCount.trans hlm, ?_, hsite.turnLen.trans hlen, ?_⟩
  · rw [sendMsg_ceilTurns, hvalid]
  · rw [← hout]
    exact sendMsg_out 0 255 0 body none v

theorem turnStart_completes {s : State} (hr : s.canopy.role = 3) (hk : s.canopy.turnKnown = true)
    (ht : s.canopy.tripDue = []) (hc : s.canopy.ceilDue = []) : Completes .turnStart s (TurnBegun s) := by
  show ∃ t, execTurnStart s = .next t ∧ TurnBegun s t
  unfold execTurnStart
  rw [if_neg (by simp [hr]), coordTurn_known hk]
  have hsite := passTurn_site { s with canopy.turn := s.canopy.turn + 1 }
  obtain ⟨hout, hvalid⟩ := passTurn_quiet (s := { s with canopy.turn := s.canopy.turn + 1 }) ht hc
  generalize passTurn { s with canopy.turn := s.canopy.turn + 1 } = u at hsite hout hvalid ⊢
  refine ⟨_, rfl, .beacon ?_ ?_ ?_ ?_ ?_ ?_ _⟩
  · exact hsite.turn
  · rfl
  · exact congrArg (· + 1) hsite.lmCount
  · exact hvalid
  · have hlen : u.canopy.turnLen = s.canopy.turnLen := hsite.turnLen
    rw [← hlen]
    rfl
  · exact hout

/-! ## The edges of a coordinator's mains (R501) -/

theorem czcEdge_first {s : State} (hb : bitOf s.cnpCfg 30 = true) (he : s.canopy.czcEdge = false) (p : Nat) :
    exec (.czcEdge p) s = .next { s with canopy.czcEdge := true } := by
  show execCzcEdge p s = _
  unfold execCzcEdge
  rw [if_neg (by simp [hb]), if_neg (by simp [he])]

theorem czcEdge_second {s : State} (hb : bitOf s.cnpCfg 30 = true) (he : s.canopy.czcEdge = true) (p : Nat) :
    exec (.czcEdge p) s = .next (czcPair p { s with canopy.czcEdge := false }) := by
  show execCzcEdge p s = _
  unfold execCzcEdge
  rw [if_neg (by simp [hb]), if_pos he]

theorem loseCzc_canopy {s : State} (hr : s.canopy.role = 3) :
    (loseCzc s).canopy.czcLock = false ∧ (loseCzc s).canopy.czcGood = 0 ∧ (loseCzc s).canopy.turnLen = 40000 :=
  ⟨rfl, rfl, if_pos hr⟩

theorem czcPair_outside (s : State) {p : Nat} (hp : p < 30000 ∨ 45000 < p) : czcPair p s = loseCzc s := if_pos hp

/-- The tenth pair in range aligns a coordinator to its length. -/
theorem czcPair_tenth {s : State} {p : Nat} (hr : s.canopy.role = 3) (hlo : 30000 ≤ p) (hhi : p ≤ 45000)
    (hg : s.canopy.czcGood = 9) : (czcPair p s).canopy.czcLock = true ∧ (czcPair p s).canopy.turnLen = p := by
  unfold czcPair
  rw [if_neg (by omega)]
  simp [hr, hg]

/-! ## A beacon is heard (R505 to R508) -/

/-- The site as a beacon of the coordinator at src leaves it to a member. -/
def Joined (src : Nat) (bc : Beacon) (s t : State) : Prop :=
  t.canopy.role = 2 ∧ t.canopy.missed = 0 ∧ t.canopy.coord = src ∧ t.canopy.slots = bc.slots
    ∧ t.canopy.turnLen = bc.turnLen ∧ t.canopy.members = s.canopy.members
    ∧ (bc.turnKnown = true → t.canopy.turn = bc.turn ∧ t.canopy.turnKnown = true)

theorem setRole_canopy (r : Nat) (s : State) : (setRole r s).canopy = { s.canopy with role := r } := by
  unfold setRole
  split
  · next h => rw [← h]
  · exact emit_canopy _ _ _ _

theorem takeTurn_known {bc : Beacon} (h : bc.turnKnown = true) (s : State) :
    (takeTurn bc s).canopy = { s.canopy with turnKnown := true, turn := bc.turn } := by
  unfold takeTurn
  rw [if_neg (by simp [h])]
  dsimp only
  split
  · simp
  · rfl

theorem takeTurn_unknown {bc : Beacon} (h : bc.turnKnown = false) (s : State) :
    (takeTurn bc s).canopy = { s.canopy with turnKnown := false, turn := 0 } := by
  unfold takeTurn
  rw [h]
  rfl

theorem takeTime_unknown {bc : Beacon} (h : bc.timeKnown = false) (s : State) : takeTime bc s = s := if_pos (by simp [h])

/-- A station that the beacon's map shows is a member and takes the turn. -/
theorem heardBeacon_member {src : Nat} {bc : Beacon} {s : State} (hmap : bc.memberMap.getLsbD (ownStation s) = true)
    (htime : bc.timeKnown = false) : Joined src bc s (heardBeacon src bc s) := by
  have hown : ownStation (followBeacon src bc s) = ownStation s := rfl
  unfold heardBeacon
  dsimp only
  rw [if_pos (hown.symm ▸ hmap), takeTime_unknown htime]
  have hrole := setRole_canopy 2 { followBeacon src bc s with canopy.joinWait := 0 }
  generalize setRole 2 _ = u at hrole ⊢
  have hsite := (passTurn_site (takeTurn bc u)).trans (sendStatus_site _)
  cases hk : bc.turnKnown
  · have hturn := takeTurn_unknown hk u
    rw [hrole] at hturn
    have get {α : Type} (g : Canopy → α) (hg : ∀ c, g (siteOf c) = g c) := (hsite.get g hg).trans (congrArg g hturn)
    exact ⟨get _ fun _ => rfl, get _ fun _ => rfl, get _ fun _ => rfl, get _ fun _ => rfl, get _ fun _ => rfl,
      get _ fun _ => rfl, fun h => absurd (hk.symm.trans h) (by decide)⟩
  · have hturn := takeTurn_known hk u
    rw [hrole] at hturn
    have get {α : Type} (g : Canopy → α) (hg : ∀ c, g (siteOf c) = g c) := (hsite.get g hg).trans (congrArg g hturn)
    exact ⟨get _ fun _ => rfl, get _ fun _ => rfl, get _ fun _ => rfl, get _ fun _ => rfl, get _ fun _ => rfl,
      get _ fun _ => rfl, fun _ => ⟨get _ fun _ => rfl, get _ fun _ => rfl⟩⟩

/-- A coordinator hears the beacon of another: it keeps its role by rank, then by station, else it goes over to it as a
station without members. -/
theorem beaconReceived_coordinator {s : State} {f : CnpRx} {body : List Byte} (h : Delivers 0 f body s)
    (hr : s.canopy.role = 3) :
    ∃ u, SiteKept s u ∧ exec (.beaconReceived f) s = .next
      (if keepsRole (fcSrc f) (beaconOf body) s then u
        else heardBeacon (fcSrc f) (beaconOf body)
          { u with canopy.beaconing := false, canopy.members := [], canopy.ceilDue := [] }) := by
  show ∃ u, SiteKept s u ∧ execBeaconReceived f s = _
  obtain ⟨v, hv, he⟩ := onFrame_delivers h
  have hkeep : keepsRole (fcSrc f) (beaconOf body) v = keepsRole (fcSrc f) (beaconOf body) s := by
    unfold keepsRole
    rw [hv.cnpRank, hv.ownStation]
  unfold execBeaconReceived
  rw [he, if_pos (hv.role.trans hr), hkeep]
  exact ⟨_, hv.emit _ _ _, rfl⟩

theorem beaconReceived_station {s : State} {f : CnpRx} {body : List Byte} (h : Delivers 0 f body s)
    (hr : s.canopy.role ≠ 3) :
    ∃ u, SiteKept s u ∧ exec (.beaconReceived f) s = .next (heardBeacon (fcSrc f) (beaconOf body) u) := by
  show ∃ u, SiteKept s u ∧ execBeaconReceived f s = _
  obtain ⟨v, hv, he⟩ := onFrame_delivers h
  unfold execBeaconReceived
  rw [he, if_neg (hv.role.trans_ne hr)]
  exact ⟨v, hv, rfl⟩

/-! ## Listening and elections (R506, R509) -/

theorem beaconListenEnd_coordinates {s : State} (hl : s.canopy.listening = true) (hm : cnpMayRun s = true)
    (hk : 0 < cnpRank s) : Completes .beaconListenEnd s fun t =>
      t.canopy.role = 3 ∧ t.canopy.listening = false ∧ t.canopy.coord = ownStation s ∧ t.canopy.memberCount = 1 := by
  show ∃ t, execBeaconListenEnd s = .next t ∧ _
  unfold execBeaconListenEnd
  rw [if_neg (by simp [hl, hm]), if_neg (by omega)]
  refine ⟨_, rfl, ?_⟩
  rw [setRole_canopy]
  exact ⟨rfl, rfl, rfl, rfl⟩

theorem beaconListenEnd_listens {s : State} (hl : s.canopy.listening = true) (hm : cnpMayRun s = true)
    (hk : cnpRank s = 0) : Completes .beaconListenEnd s fun t => t.canopy.role = 1 ∧ t.canopy.listening = true := by
  show ∃ t, execBeaconListenEnd s = .next t ∧ _
  unfold execBeaconListenEnd
  rw [if_neg (by simp [hl, hm]), if_pos hk]
  refine ⟨_, rfl, ?_⟩
  rw [setRole_canopy]
  exact ⟨rfl, hl⟩

/-- A missed beacon of a member: the count and the turn go on, and the fifth begins an election. -/
theorem beaconMissed_member {s : State} (hr : s.canopy.role = 2) (hk : s.canopy.turnKnown = true) :
    ∃ u, SiteKept { s with canopy.missed := min 31 (s.canopy.missed + 1), canopy.turn := s.canopy.turn + 1 } u
      ∧ exec .beaconMissed s
        = .next (if s.canopy.missed = 4 then cnpListen 4 (emit 0x0A02 255 (leN 1 5) u) else sendStatus u) := by
  show ∃ u, _ ∧ execBeaconMissed s = _
  unfold execBeaconMissed
  rw [if_neg (by simp [hr])]
  dsimp only
  rw [countTurn_known (s := { s with canopy.missed := min 31 (s.canopy.missed + 1) }) hk]
  generalize hw : ({ s with canopy.missed := min 31 (s.canopy.missed + 1), canopy.turn := s.canopy.turn + 1 } : State) = w
  have hrole : w.canopy.role = 2 := by rw [← hw]; exact hr
  have hu := passTurn_site w
  refine ⟨passTurn w, hu, ?_⟩
  rw [hu.role, hrole]
  by_cases hm : s.canopy.missed = 4
  · rw [if_pos hm, hm]
    rfl
  · have hn : min 31 (s.canopy.missed + 1) ≠ 5 := by omega
    simp [hm, hn]

/-- Settles O43: a turn by what the traffic of the link leaves of the site, a beacon by the role of its hearer. -/
theorem canopyTurns : Obligations.CanopyTurns := by
  unfold Obligations.CanopyTurns
  refine ⟨fun s hr => if_pos (by simpa using hr), fun s hr hk ht hc => turnStart_completes hr hk ht hc,
    ?edges, ?beacons, ?listening, ?missed⟩
  case edges =>
    intro s p hb
    refine ⟨fun he => ?_, fun he hr hlo hhi hg => ?_, fun he hr hp => ?_, fun hr => ?_⟩
    · exact ⟨_, czcEdge_first hb he p, rfl, rfl⟩
    · exact ⟨_, czcEdge_second hb he p, czcPair_tenth hr hlo hhi hg⟩
    · exact ⟨_, (czcEdge_second hb he p).trans (congrArg Host.Outcome.next (czcPair_outside _ hp)), loseCzc_canopy hr⟩
    · exact ⟨_, if_pos hb, loseCzc_canopy hr⟩
  case beacons =>
    intro s f body hd
    refine ⟨fun hr htime hturn hmap => ?_, fun hr hrank => ?_, fun hr hrank htime hmap => ?_⟩
    · obtain ⟨u, hu, he⟩ := beaconReceived_station hd (by rw [hr]; decide)
      obtain ⟨role, missed, coord, slots, len, -, turn⟩ := heardBeacon_member (src := fcSrc f) (hu.ownStation ▸ hmap) htime
      exact ⟨_, he, role, (turn hturn).1, (turn hturn).2, missed, coord, slots, len⟩
    · obtain ⟨u, hu, he⟩ := beaconReceived_coordinator hd hr
      refine ⟨u, he.trans (by rw [if_pos (by simpa [keepsRole] using hrank)]), hu.role.trans hr, hu.members, hu.turn⟩
    · obtain ⟨u, hu, he⟩ := beaconReceived_coordinator hd hr
      rw [if_neg (by simp [keepsRole]; omega)] at he
      obtain ⟨role, -, coord, -, -, members, -⟩ := heardBeacon_member (src := fcSrc f) (bc := beaconOf body)
        (s := { u with canopy.beaconing := false, canopy.members := [], canopy.ceilDue := [] }) (hu.ownStation ▸ hmap) htime
      exact ⟨_, he, role, coord, members⟩
  case listening => exact fun s hl hm => ⟨beaconListenEnd_coordinates hl hm, beaconListenEnd_listens hl hm⟩
  case missed =>
    intro s hr ht hc hk
    obtain ⟨u, hu, he⟩ := beaconMissed_member hr hk
    refine ⟨fun hm => ?_, fun hm => ?_⟩
    · rw [if_neg (by omega)] at he
      have hs := hu.trans (sendStatus_site u)
      have hmissed : min 31 (s.canopy.missed + 1) = s.canopy.missed + 1 := by omega
      exact ⟨_, he, hs.role.trans hr, hs.missed.trans hmissed, hs.turn⟩
    · rw [if_pos hm] at he
      refine ⟨_, he, ?_⟩
      have hlisten (v : State) : (cnpListen 4 v).canopy.role = 4 ∧ (cnpListen 4 v).canopy.listening = true := by
        unfold cnpListen
        rw [setRole_canopy]
        exact ⟨rfl, rfl⟩
      exact hlisten _

end Sys2Proof.Safety
end

section
/-! SUPPORT. The pages of the tag memory (R539, R544, R547): what a commit of a page leaves of every byte outside the journal,
and the field commands, the arbiter, the flush and the snapshots (R545 to R551, R556). -/

set_option Elab.async false

namespace Sys2Proof.Safety

open Sys2Proof.Machine

/-! ## Runs of bytes -/

theorem memGets_length (d : Nat → Byte) (m : List Host.Cell) (a n : Nat) : (memGets d m a n).length = n := by
  induction n generalizing a with
  | zero => rfl
  | succ n ih => exact congrArg (· + 1) (ih _)

theorem memGets_congr {d : Nat → Byte} {m k : List Host.Cell} {a n : Nat}
    (h : ∀ i < n, memGet d m (a + i) = memGet d k (a + i)) : memGets d m a n = memGets d k a n := by
  induction n generalizing a with
  | zero => rfl
  | succ n ih =>
    have hrest := ih (a := a + 1) fun i hi => by simpa only [Nat.add_assoc, Nat.add_comm 1] using h (i + 1) (by omega)
    exact congrArg₂ List.cons (h 0 (by omega)) hrest

/-- Bytes written are read back. -/
theorem memGets_memPuts {d : Nat → Byte} (vs : List Byte) {m : List Host.Cell} (a : Nat) (h : memWf d m = true) :
    memGets d (memPuts d m a vs) a vs.length = vs := by
  induction vs generalizing m a with
  | nil => rfl
  | cons v vs ih =>
    refine congrArg₂ List.cons ?_ (ih (a + 1) (memPut_wf a v h))
    exact memGet_memPuts (v :: vs) a h 0 (Nat.succ_pos _)

/-! ## A page committed -/

theorem padTo_of_length {n : Nat} {bs : List Byte} (h : bs.length = n) : padTo n bs = bs := by
  refine List.ext_getElem (by simp [h]) fun i h1 h2 => ?_
  have he := byteAt_padTo n i bs (by omega)
  simpa [byteAt, List.getD_eq_getElem?_getD, h, h2, show i < n by omega] using he

theorem tagCommit_tagMem (p : Nat) (bs : List Byte) (s : State) :
    (tagCommit p bs s).nv.tagMem
      = memPuts zeroB (memPuts zeroB (memPuts zeroB s.nv.tagMem (64 * (240 + 2 * s.tag.pair)) (padTo 64 bs))
          (64 * (240 + 2 * s.tag.pair + 1)) (List.replicate 64 0)) (64 * p) (padTo 64 bs) := by
  unfold tagCommit
  dsimp only

/-- Outside the page and the journal every byte of the tag memory stands. -/
theorem memGet_tagCommit_other (p : Nat) (bs : List Byte) (s : State) {a : Nat} (ha : a < 64 * 240) (hp : a / 64 ≠ p) :
    memGet zeroB (tagCommit p bs s).nv.tagMem a = memGet zeroB s.nv.tagMem a := by
  have hout : a < 64 * p ∨ 64 * p + (padTo 64 bs).length ≤ a := by rw [padTo_length]; omega
  have hslot : a < 64 * (240 + 2 * s.tag.pair) := by omega
  have hmark : a < 64 * (240 + 2 * s.tag.pair + 1) := by omega
  rw [tagCommit_tagMem, memGet_memPuts_other _ hout, memGet_memPuts_other _ (.inl hmark),
    memGet_memPuts_other _ (.inl hslot)]

/-- Byte i of a page that was committed. -/
theorem memGet_tagCommit_page (p : Nat) {bs : List Byte} {s : State} (h : MemOk s) (hl : bs.length = 64) {i : Nat}
    (hi : i < bs.length) : memGet zeroB (tagCommit p bs s).nv.tagMem (64 * p + i) = bs[i] := by
  rw [tagCommit_tagMem, padTo_of_length hl]
  exact memGet_memPuts bs (64 * p) (memPuts_wf _ _ (memPuts_wf _ _ h.tagMem)) i hi

/-- A page that was committed holds its bytes. -/
theorem tagPage_tagCommit (p : Nat) (bs : List Byte) {s : State} (h : MemOk s) :
    tagPage (tagCommit p bs s) p = padTo 64 bs := by
  have hread := memGets_memPuts (padTo 64 bs) (64 * p) (memPuts_wf (List.replicate 64 0) (64 * (240 + 2 * s.tag.pair + 1))
    (memPuts_wf (padTo 64 bs) (64 * (240 + 2 * s.tag.pair)) h.tagMem))
  rw [padTo_length] at hread
  rw [tagPage, tagCommit_tagMem]
  exact hread

/-- Another page below the journal stands. -/
theorem tagPage_tagCommit_other {p q : Nat} (bs : List Byte) (s : State) (hq : q < 240) (hp : q ≠ p) :
    tagPage (tagCommit p bs s) q = tagPage s q :=
  memGets_congr fun i hi => memGet_tagCommit_other p bs s (by omega) (by omega)

/-! ## Field answers -/

theorem whenSelected_selected {s : State} (ha : tagAnswers s = true) (hs : s.tag.selected.isSome = true)
    (f : State → State) : whenSelected s f = .next (f s) := if_pos (by rw [ha, hs]; rfl)

theorem whileVio_emit_nv (c b : Nat) (d : List Byte) (s : State) : (whileVio (emit c b d) s).nv = s.nv := by
  unfold whileVio
  split
  · exact emit_nv c b d s
  · rfl

theorem whileVio_emit_tag (c b : Nat) (d : List Byte) (s : State) : (whileVio (emit c b d) s).tag = s.tag := by
  unfold whileVio
  split
  · exact emit_tag c b d s
  · rfl

theorem refuseWrite_nv (page st : Nat) (s : State) : (refuseWrite page st s).nv = s.nv := whileVio_emit_nv _ _ _ s

/-! ## Reads (R545) -/

theorem notePageCrc_plain {p : Nat} (h : pageHasCrc p = false) (s : State) : notePageCrc p s = s := if_neg (by simp [h])

theorem notePageCrc_plain_all {ps : List Nat} (h : ∀ p ∈ ps, pageHasCrc p = false) (s : State) :
    ps.foldl (fun t p => notePageCrc p t) s = s := by
  induction ps with
  | nil => rfl
  | cons p ps ih =>
    rw [List.foldl_cons, notePageCrc_plain (h p List.mem_cons_self)]
    exact ih fun q hq => h q (List.mem_cons_of_mem _ hq)

section
variable {s : State} (ha : tagAnswers s = true) (hs : s.tag.selected.isSome = true)
include ha hs

theorem tagRead_pages {first count : Nat} (h1 : 1 ≤ count) (h4 : count ≤ 4) (hm : first + count ≤ 256)
    (hp : ∀ i < count, pageRefused (first + i) = false ∧ pageHasCrc (first + i) = false) :
    exec (.tagRead first count) s
      = .next (fieldAnswer 0 ((List.range count).flatMap fun i => tagPage s (first + i)) s) := by
  have hst : readStatus first count = 0 := by
    unfold readStatus
    rw [if_neg (by omega), if_neg (by omega), if_neg]
    simpa using fun i hi => (hp i hi).1
  have hcrc : ∀ p ∈ (List.range count).map (first + ·), pageHasCrc p = false := by
    simpa using fun i hi => (hp i hi).2
  show execTagRead first count s = _
  unfold execTagRead
  rw [whenSelected_selected ha hs]
  dsimp only
  rw [if_neg (by simp [hst]), notePageCrc_plain_all hcrc, List.flatMap_map]

theorem tagRead_refused {first count : Nat} (h1 : 1 ≤ count) (h4 : count ≤ 4) (hm : first + count ≤ 256)
    (hp : ∃ i < count, pageRefused (first + i) = true) :
    exec (.tagRead first count) s = .next (fieldAnswer 2 [] s) := by
  have hst : readStatus first count = 2 := by
    unfold readStatus
    rw [if_neg (by omega), if_neg (by omega), if_pos]
    simpa using hp
  show execTagRead first count s = _
  unfold execTagRead
  rw [whenSelected_selected ha hs]
  dsimp only
  rw [hst]
  rfl

/-! ## Writes (R546, R549, R551) -/

theorem tagWrite_refused {page off : Nat} {data : List Byte} {st : Nat} (hst : writeStatus page off data.length s = st)
    (h0 : st ≠ 0) (fin : WriteEnd) : exec (.tagWrite page off data fin) s = .next (refuseWrite page st s) := by
  show execTagWrite page off data fin s = _
  unfold execTagWrite
  rw [whenSelected_selected ha hs]
  dsimp only
  rw [hst, if_pos h0]

theorem tagWrite_done {page off : Nat} {data : List Byte} (hst : writeStatus page off data.length s = 0) :
    exec (.tagWrite page off data .done) s = .next (writeField page off data s) := by
  show execTagWrite page off data .done s = _
  unfold execTagWrite
  rw [whenSelected_selected ha hs]
  dsimp only
  rw [if_neg (by simp [hst])]

theorem tagWrite_failed {page off : Nat} {data : List Byte} (hst : writeStatus page off data.length s = 0) :
    exec (.tagWrite page off data .failed) s = .next (refuseWrite page 5 (abandonPage page s)) := by
  show execTagWrite page off data .failed s = _
  unfold execTagWrite
  rw [whenSelected_selected ha hs]
  dsimp only
  rw [if_neg (by simp [hst])]

end

/-- A write whose bytes fit its page is judged by the page, the permission and the field. -/
theorem writeStatus_fits {page off len : Nat} {s : State} (hf : off + len ≤ 64) (hl : len ≠ 0) :
    writeStatus page off len s
      = if 255 < page then 1 else if !(decide (64 ≤ page) && decide (page ≤ 71) && pageWriteEn s) then 2
        else if s.tag.level < 25 then 4 else 0 := if_neg (by omega)

theorem writeField_nv (page off : Nat) (data : List Byte) (s : State) :
    (writeField page off data s).nv = (tagCommit page (mergeAt (tagPage s page) off data) s).nv := by
  unfold writeField
  dsimp only
  split
  · exact whileVio_emit_nv _ _ _ _
  · rfl

theorem writeField_lastStatus (page off : Nat) (data : List Byte) (s : State) :
    (writeField page off data s).tag.lastStatus = 0 := by
  unfold writeField
  dsimp only
  split
  · rw [whileVio_emit_tag]
    rfl
  · rfl

theorem mergeAt_length {old data : List Byte} {off : Nat} (ho : old.length = 64) (h : off + data.length ≤ 64) :
    (mergeAt old off data).length = 64 := by
  simp [mergeAt, ho]
  omega

theorem tagPage_length (s : State) (p : Nat) : (tagPage s p).length = 64 := memGets_length _ _ _ _

theorem abandonPage_tagMem (p : Nat) (s : State) :
    (abandonPage p s).nv.tagMem = memPuts zeroB s.nv.tagMem (64 * p) (leN 64 (s.free 512).1.toNat) := by
  unfold abandonPage mirrorFrom
  dsimp only [State.free]

/-- A write that failed leaves every byte outside its page. -/
theorem memGet_abandonPage_other (p : Nat) (s : State) {a : Nat} (hp : a / 64 ≠ p) :
    memGet zeroB (abandonPage p s).nv.tagMem a = memGet zeroB s.nv.tagMem a := by
  rw [abandonPage_tagMem]
  exact memGet_memPuts_other _ (by rw [leN_length]; omega)

section
variable {s : State} (ha : tagAnswers s = true) (hs : s.tag.selected.isSome = true)
include ha hs

/-- A write into pages 64 to 71 whose field is strong enough. -/
theorem tagWrite_done_page {page off : Nat} {data : List Byte} (hf : off + data.length ≤ 64) (hd : data ≠ [])
    (hlo : 64 ≤ page) (hhi : page ≤ 71) (hen : pageWriteEn s = true) (hl : 25 ≤ s.tag.level) (hm : MemOk s) :
    Completes (.tagWrite page off data .done) s fun t =>
      tagPage t page = mergeAt (tagPage s page) off data ∧ t.tag.lastStatus = 0
        ∧ ∀ a, a < 64 * 240 → a / 64 ≠ page → memGet zeroB t.nv.tagMem a = memGet zeroB s.nv.tagMem a := by
  have hst : writeStatus page off data.length s = 0 := by
    rw [writeStatus_fits hf (by simpa using hd), if_neg (by omega), if_neg (by simp [hlo, hhi, hen]), if_neg (by omega)]
  have hpage : tagPage (writeField page off data s) page = tagPage (tagCommit page (mergeAt (tagPage s page) off data) s) page := by
    unfold tagPage
    rw [writeField_nv]
    rfl
  refine ⟨_, tagWrite_done ha hs hst, ?_, writeField_lastStatus page off data s, fun a hlt hne => ?_⟩
  · rw [hpage, tagPage_tagCommit _ _ hm, padTo_of_length (mergeAt_length (tagPage_length s page) hf)]
  · rw [writeField_nv]
    exact memGet_tagCommit_other _ _ _ hlt hne

theorem tagWrite_failed_page {page off : Nat} {data : List Byte} (hf : off + data.length ≤ 64) (hd : data ≠ [])
    (hlo : 64 ≤ page) (hhi : page ≤ 71) (hen : pageWriteEn s = true) (hl : 25 ≤ s.tag.level) :
    Completes (.tagWrite page off data .failed) s fun t =>
      t.tag.lastStatus = 5 ∧ ∀ a, a / 64 ≠ page → memGet zeroB t.nv.tagMem a = memGet zeroB s.nv.tagMem a := by
  have hst : writeStatus page off data.length s = 0 := by
    rw [writeStatus_fits hf (by simpa using hd), if_neg (by omega), if_neg (by simp [hlo, hhi, hen]), if_neg (by omega)]
  refine ⟨_, tagWrite_failed ha hs hst, rfl, fun a hne => ?_⟩
  rw [refuseWrite_nv]
  exact memGet_abandonPage_other page s hne

/-- A refused write leaves the memory and answers with its status. -/
theorem tagWrite_refused_completes {page off : Nat} {data : List Byte} {st : Nat}
    (hst : writeStatus page off data.length s = st) (h0 : st ≠ 0) (fin : WriteEnd) :
    Completes (.tagWrite page off data fin) s fun t => t.tag.lastStatus = st ∧ t.nv.tagMem = s.nv.tagMem :=
  ⟨_, tagWrite_refused ha hs hst h0 fin, rfl, by rw [refuseWrite_nv]⟩

end

/-! ## The flush (R550, R556) -/

theorem markedPages_one {s : State} {a : Nat} (hm : s.tag.marked = [a]) (ha : a < 64 * 240) :
    markedPages s = [a / 64] := by
  have hmem : a / 64 ∈ List.range 256 := List.mem_range.mpr (by omega)
  have hfilter : markedPages s = (List.range 256).filter (· == a / 64) := by
    unfold markedPages
    rw [hm]
    refine List.filter_congr fun p _ => ?_
    simp [Bool.beq_comm]
  rw [hfilter, List.filter_beq, List.count_eq_one_of_mem List.nodup_range hmem]
  rfl

theorem flushContent_length (s : State) (p : Nat) : (flushContent s p).length = 64 := by simp [flushContent]

/-- A page flushed takes its marked bytes from the mirror and keeps the others. -/
theorem memGet_flushPage {s : State} (hok : MemOk s) {p x : Nat} (hx : x / 64 = p) :
    memGet zeroB (flushPage p s).nv.tagMem x
      = if s.tag.marked.contains x then memGet zeroB s.tag.mirror x else memGet zeroB s.nv.tagMem x := by
  have hi : x % 64 < (flushContent s p).length := by rw [flushContent_length]; omega
  have hread := memGet_tagCommit_page p (s := { s with tag.marked := s.tag.marked.filter (fun a => a / 64 != p) })
    ⟨hok.shadow, hok.applied, hok.bulk, hok.mirror, hok.cells, hok.tagMem⟩ (flushContent_length s p) hi
  rw [show 64 * p + x % 64 = x by omega] at hread
  refine hread.trans ?_
  simp only [flushContent, List.getElem_map, List.getElem_range]
  rw [show 64 * p + x % 64 = x by omega]

/-- The flush of the one marked byte. -/
theorem flushPage_one {s : State} {a : Nat} (hm : s.tag.marked = [a]) (hok : MemOk s) :
    (flushPage (a / 64) s).tag.marked = []
      ∧ memGet zeroB (flushPage (a / 64) s).nv.tagMem a = memGet zeroB s.tag.mirror a
      ∧ ∀ x, x < 64 * 240 → x ≠ a → memGet zeroB (flushPage (a / 64) s).nv.tagMem x = memGet zeroB s.nv.tagMem x := by
  refine ⟨?_, ?_, fun x hx hne => ?_⟩
  · show s.tag.marked.filter (fun x => x / 64 != a / 64) = []
    rw [hm]
    simp
  · rw [memGet_flushPage hok rfl, hm]
    simp
  · by_cases hp : x / 64 = a / 64
    · rw [memGet_flushPage hok hp, hm]
      simp [hne]
    · exact memGet_tagCommit_other _ _ _ hx hp

theorem tagFlush_one {s : State} {a : Nat} (hm : s.tag.marked = [a]) (ha : a < 64 * 240) (h : CmdHdr) :
    exec (.tagFlush h .done) s = .next (answer 0x0B04 255 h.tag (leN 1 0) (flushPage (a / 64) s)) := by
  show execTagFlush h .done s = _
  unfold execTagFlush
  rw [markedPages_one hm ha]
  rfl

theorem flushPage_canAnswer {s : State} (h : CanAnswer s) (p : Nat) : CanAnswer (flushPage p s) := by
  unfold flushPage
  dsimp only
  have hm : CanAnswer { s with tag.marked := s.tag.marked.filter (fun a => a / 64 != p) } := h.of_eq rfl rfl
  generalize ({ s with tag.marked := s.tag.marked.filter (fun a => a / 64 != p) } : State) = u at hm ⊢
  exact hm.kept (tagCommit_changes (.refl _ u) _ _) (tagCommit_changes (.refl _ u) _ _)

/-! ## The arbiter (R539) -/

theorem tagArbiterGrant_held {s : State} (ho : s.tag.owner ≠ 0) (f w : Bool) :
    exec (.tagArbiterGrant f w) s
      = .next { s with tag.fieldWait := f || s.tag.fieldWait, tag.trunkWait := w || s.tag.trunkWait } := if_pos ho

/-- Of two that wait the one that did not hold last takes the memory. -/
theorem tagArbiterGrant_both {s : State} (ho : s.tag.owner = 0) :
    Completes (.tagArbiterGrant true true) s fun t =>
      t.tag.owner = (if s.tag.lastOwner = 1 then 2 else 1) ∧ t.tag.lastOwner = t.tag.owner := by
  refine ⟨_, if_neg (not_not.mpr ho), rfl, ?_⟩
  by_cases hl : s.tag.lastOwner = 1 <;> simp [hl]

/-! ## The snapshots (R544) -/

/-- A page written leaves the number and the place of the snapshots. -/
theorem tagWritePage_snap (p : Nat) (body : List Byte) (s : State) :
    (tagWritePage p body s).tag.snapNo = s.tag.snapNo ∧ (tagWritePage p body s).tag.snapB = s.tag.snapB := ⟨rfl, rfl⟩

/-- The pages of all boughs leave them likewise. -/
theorem forBoughs_snap (base : Nat) (s : State) :
    (forBoughs (fun b t => tagWritePage (base + b.val) (snapBody t b) t) s).tag.snapNo = s.tag.snapNo
      ∧ (forBoughs (fun b t => tagWritePage (base + b.val) (snapBody t b) t) s).tag.snapB = s.tag.snapB := by
  unfold forBoughs
  generalize allBoughs = l
  induction l generalizing s with
  | nil => exact ⟨rfl, rfl⟩
  | cons b l ih =>
    obtain ⟨no, place⟩ := ih (tagWritePage (base + b.val) (snapBody s b) s)
    obtain ⟨no', place'⟩ := tagWritePage_snap (base + b.val) (snapBody s b) s
    exact ⟨no.trans no', place.trans place'⟩

theorem meterSnapshot_tag (s : State) :
    (meterSnapshot s).tag.snapNo = (s.tag.snapNo + 1) % 2 ^ 32 ∧ (meterSnapshot s).tag.snapB = !s.tag.snapB := by
  unfold meterSnapshot
  extract_lets tag u base v
  obtain ⟨no, place⟩ := forBoughs_snap base u
  exact ⟨no, congrArg not place⟩

/-- Settles O47: a read by its pages, a write by its status, a flush by the page of the one marked byte. -/
theorem tagCommands : Obligations.TagCommands := by
  unfold Obligations.TagCommands
  refine ⟨fun s ha hs => ⟨fun first count h1 h4 hm => ⟨fun hp => ?_, fun hp => ?_⟩,
    fun page off data hf hd hlo hhi hen => ?_, fun page off data v hf hd => ?_, ?_⟩, fun s => ⟨fun ho f w => ?_, fun ho => ?_⟩,
    fun s h a hm ha hok => ?_, fun s hb hr => ?_⟩
  · exact ⟨_, tagRead_pages ha hs h1 h4 hm hp, rfl, rfl, rfl⟩
  · exact ⟨_, tagRead_refused ha hs h1 h4 hm hp, rfl, rfl⟩
  · refine ⟨tagWrite_done_page ha hs hf hd hlo hhi hen, tagWrite_failed_page ha hs hf hd hlo hhi hen, fun hl => ?_⟩
    refine tagWrite_refused_completes ha hs ?_ (by decide) .done
    rw [writeStatus_fits hf (by simpa using hd), if_neg (by omega), if_neg (by simp [hlo, hhi, hen]), if_pos hl]
  · refine ⟨fun hp => tagWrite_refused_completes ha hs ?_ (by decide) v,
      fun hp hout => tagWrite_refused_completes ha hs ?_ (by decide) v⟩
    · rw [writeStatus_fits hf (by simpa using hd), if_pos hp]
    · rw [writeStatus_fits hf (by simpa using hd), if_neg (by omega), if_pos (by simp; omega)]
  · exact ⟨_, whenSelected_selected ha hs _, rfl⟩
  · exact ⟨_, tagArbiterGrant_held ho f w, rfl, rfl, rfl⟩
  · exact tagArbiterGrant_both ho
  · obtain ⟨marked, byte, others⟩ := flushPage_one hm hok
    refine ⟨_, tagFlush_one hm ha h, ?_, ?_, fun x hx hne => ?_, fun hc => ?_⟩
    · rw [answer_tag, marked]
    · rw [answer_nv, byte]
    · rw [answer_nv, others x hx hne]
    · exact answer_last (flushPage_canAnswer hc _) _ _ _ _
  · exact ⟨_, if_pos (by rw [hb, hr]; rfl), meterSnapshot_tag s⟩

end Sys2Proof.Safety
end

section
/-! SUPPORT. The commands of the key store (R566 to R568, R585): challenges, life-cycle transitions, the installation of a root
and the report of the keys. -/

set_option Elab.async false

namespace Sys2Proof.Safety

open Sys2Proof.Machine

/-! ## Challenges (R566) -/

theorem keyChallenge_dead {s : State} (h : CmdHdr) (hd : s.crypto.drbgOk = false) :
    exec (.keyChallenge h) s = .next (answer 0x0C06 255 h.tag (leN 1 5) s) := if_pos (by rw [hd]; rfl)

theorem keyChallenge_completes {s : State} (hc : CanAnswer s) (h : CmdHdr) (hd : s.crypto.drbgOk = true) :
    Completes (.keyChallenge h) s fun t => ∃ n, t.key.nonce = some n ∧ n.length = 16 ∧ t.key.nonceMs = s.lat.ms
      ∧ lastEvent t = some (0x0C06, 255, h.tag, 0 :: n) := by
  show ∃ t, execKeyChallenge h s = .next t ∧ _
  unfold execKeyChallenge
  rw [if_neg (by simp [hd])]
  dsimp only
  have hl := leN_length 16 (Config.random s.freeCount).toNat
  generalize leN 16 (Config.random s.freeCount).toNat = n at hl ⊢
  refine ⟨_, rfl, n, ?_, hl, ?_, ?_⟩
  · rw [answer_key]
  · rw [answer_key]
  · have hn : CanAnswer { s with freeCount := s.freeCount + 1, key.nonce := some n, key.nonceMs := s.lat.ms } :=
      hc.of_eq rfl rfl
    rw [answer_last hn _ _ _ _ (by decide) (by rw [List.length_append, leN_length]; omega)]
    rfl

/-! ## Life-cycle transitions (R566, R567) -/

/-- A transition's request uses the nonce up, and is kept or answered with its result. -/
theorem keyLifecycle_eq (h : CmdHdr) (target : Nat) (nonce tag : List Byte) (s : State) :
    exec (.keyLifecycle h target nonce tag) s = .next (
      if lifeResult s target nonce tag = 0 then { s with key.nonce := none, key.target := some target, key.tag := h.tag }
      else answer 0x0C06 255 h.tag (leN 1 (lifeResult s target nonce tag)) { s with key.nonce := none }) := by
  show execKeyLifecycle h target nonce tag s = _
  unfold execKeyLifecycle
  dsimp only
  split <;> rfl

theorem lifeResult_badNonce {s : State} {nonce : List Byte} (target : Nat) (tag : List Byte)
    (hn : s.key.nonce ≠ some (padTo 16 nonce)) : lifeResult s target nonce tag = 1 :=
  if_pos (by simp [nonceOk, hn])

theorem authorisers_scrapped {s : State} (hl : s.lifecycle = lcScrapped) (target : Nat) : authorisers s target = [] := by
  unfold authorisers
  rw [hl]
  rfl

theorem lifeResult_scrapped {s : State} {nonce : List Byte} (target : Nat) (tag : List Byte) (hn : nonceOk s nonce = true)
    (hl : s.lifecycle = lcScrapped) : lifeResult s target nonce tag = 3 := by
  unfold lifeResult
  rw [if_neg (by simp [hn]), if_pos (.inl (authorisers_scrapped hl target))]

/-- What a request for a transition leaves. -/
theorem keyLifecycle_completes {s : State} (hc : CanAnswer s) (h : CmdHdr) (target : Nat) (nonce tag : List Byte) :
    Completes (.keyLifecycle h target nonce tag) s fun t => t.key.nonce = none ∧ t.nv = s.nv
      ∧ (∀ r, lifeResult s target nonce tag = r → r ≠ 0 → t.key.target = s.key.target
        ∧ lastEvent t = some (0x0C06, 255, h.tag, leN 1 r))
      ∧ (lifeResult s target nonce tag = 0 → t.key.target = some target ∧ t.key.tag = h.tag) := by
  refine ⟨_, keyLifecycle_eq h target nonce tag s, ?_⟩
  split
  · next h0 => exact ⟨rfl, rfl, fun r hr hne => absurd (hr.symm.trans h0) hne, fun _ => ⟨rfl, rfl⟩⟩
  · next h0 =>
    refine ⟨?_, ?_, fun r hr _ => ⟨?_, ?_⟩, fun h => absurd h h0⟩
    · rw [answer_key]
    · rw [answer_nv]
    · rw [answer_key]
    · have hn : CanAnswer { s with key.nonce := none } := hc.of_eq rfl rfl
      rw [hr, answer_last hn _ _ _ _ (by decide) (by rw [leN_length]; decide)]

/-- The tick at which a transition to FACTORY, PERSONALISED or DEPLOYED applies. -/
theorem lifecycleApply_completes {s : State} {l : Nat} (ht : s.key.target = some l) (hl : l < 3) :
    Completes .lifecycleApply s fun t => t.nv.life = l ∧ t.bak.service = false ∧ t.key.target = none
      ∧ t.bak.roots = s.bak.roots := by
  show ∃ t, execLifecycleApply s = .next t ∧ _
  unfold execLifecycleApply
  rw [ht]
  dsimp only
  rw [if_neg (show l ≠ lcScrapped by simp [lcScrapped]; omega)]
  have hd : Kept (parts [.events, .ports, .modems, .association, .powerLinks, .safety, .recorder, .update])
      { s with key.target := none } (discardStaging 4 { s with key.target := none }) := discardStaging_changes (.refl _ _) 4
  generalize discardStaging 4 { s with key.target := none } = u at hd ⊢
  have hbak : u.bak = s.bak := hd .backup (by decide)
  have hkey : u.key = { s.key with target := none } := hd .keys (by decide)
  have hlife : setLife l u = { u with nv.life := l, bak.service := false } :=
    if_neg (show l ≠ lcService by simp [lcService]; omega)
  rw [hlife]
  refine ⟨_, rfl, ?_, ?_, ?_, ?_⟩
  · rw [answer_nv, emit_nv]
  · rw [answer_bak, emit_bak]
  · rw [answer_key, emit_key, hkey]
  · rw [answer_bak, emit_bak, ← hbak]

/-! ## Installation (R568) -/

theorem keyInstall_closed {s : State} {slot : Nat} (hi : slotInstallable s slot = false) (h : CmdHdr)
    (nonce enc tag : List Byte) :
    exec (.keyInstall h slot nonce enc tag) s = .next (answer 0x0C06 255 h.tag (leN 1 3) s) := if_pos (by rw [hi]; rfl)

theorem keyInstall_taken {s : State} {slot : Nat} (hi : slotInstallable s slot = true) (hr : (s.rootOf slot).isSome = true)
    (h : CmdHdr) (nonce enc tag : List Byte) :
    exec (.keyInstall h slot nonce enc tag) s = .next (answer 0x0C06 255 h.tag (leN 1 4) s) := by
  show execKeyInstall h slot nonce enc tag s = _
  unfold execKeyInstall
  rw [if_neg (by simp [hi]), if_pos hr]

/-- The two shares of a root combine to it. -/
theorem sharedRoot_xor (s : State) (root : List Byte) :
    (sharedRoot s root).shareA ^^^ (sharedRoot s root).shareB = BitVec.ofNat 256 (ofBe (padTo 32 root)) := by
  unfold sharedRoot
  dsimp only
  rw [← BitVec.xor_assoc, BitVec.xor_self, BitVec.zero_xor]

theorem keyInstall_completes {s : State} {slot : Fin 4} {nonce enc tag root : List Byte}
    (hi : slotInstallable s slot.val = true) (hr : s.rootOf slot.val = none)
    (hu : unwrapRoot s slot.val nonce enc tag = some root) (h : CmdHdr) :
    Completes (.keyInstall h slot.val nonce enc tag) s fun t => t.bak.roots[slot] = some (sharedRoot s root) := by
  show ∃ t, execKeyInstall h slot.val nonce enc tag s = .next t ∧ _
  unfold execKeyInstall
  rw [if_neg (by simp [hi]), if_neg (by simp [hr]), hu]
  refine ⟨_, rfl, ?_⟩
  rw [answer_bak, emit_bak]
  show (modN s.bak.roots slot.val _)[slot] = _
  rw [modN, dif_pos slot.isLt]
  simp

/-! ## The keys reported (R585) -/

theorem beN_length (n x : Nat) : (beN n x).length = n := by simp [beN]

theorem publicKey_length (c : Nat) (x : List Byte) : (publicKey c x).length = 2 * c + 1 := by
  simp [publicKey, beN_length]
  omega

theorem seccKey_length {n : Nat} (hn : n = 65 ∨ n = 133 ∨ n = 57) (s : State) (l : KeyLabel) :
    (seccKey s n l).length = n := by
  unfold seccKey
  split
  · rcases hn with rfl | rfl | rfl
    · exact publicKey_length 32 _
    · exact publicKey_length 66 _
    · exact leN_length 57 _
  · exact List.length_replicate

theorem keyId_length_le (s : State) : (keyId s).length ≤ 8 := by
  unfold keyId
  split
  · exact List.length_take_le _ _
  · exact Nat.le_refl _

theorem keyInfo_completes {s : State} (hc : CanAnswer s) (h : CmdHdr) :
    Completes (.keyInfo h) s fun t => t.bak = s.bak ∧ t.key = s.key
      ∧ ∃ d, lastEvent t = some (0x0C09, 255, h.tag, d) ∧ d.take 65 = seccKey s 65 .seccP256 := by
  have h65 := seccKey_length (.inl rfl) s .seccP256
  have h133 := seccKey_length (.inr (.inl rfl)) s .seccP521
  have h57 := seccKey_length (.inr (.inr rfl)) s .seccEd448
  have hread := readingKey_length s
  have hid := keyId_length_le s
  refine ⟨_, rfl, answer_bak _ _ _ _ _, answer_key _ _ _ _ _, _, answer_last hc _ _ _ _ (by decide) ?_, ?_⟩
  · simp only [List.length_append]
    omega
  · rw [List.append_assoc, List.append_assoc, List.append_assoc, List.take_append_of_le_length (by omega),
      List.take_of_length_le (by omega)]

/-- Settles O49: a challenge by the random source, a transition by its result, an installation by its slot. -/
theorem keyCommands : Obligations.KeyCommands := by
  unfold Obligations.KeyCommands
  intro s h hc
  refine ⟨fun hd => ?_, fun hd => keyChallenge_completes hc h hd, fun target nonce tag => ?_, fun ht => ?_, fun l ht hl _ _ _ =>
    lifecycleApply_completes ht hl, fun slot nonce enc tag hi => ?_, fun slot nonce enc tag hi hr => ?_,
    fun slot nonce enc tag root hi hr hu => ?_, keyInfo_completes hc h⟩
  · exact ⟨_, keyChallenge_dead h hd, answer_last hc _ _ _ _⟩
  · obtain ⟨t, he, hnonce, hnv, hresult, hkept⟩ := keyLifecycle_completes hc h target nonce tag
    exact ⟨t, he, hnonce, hnv, fun hn => hresult 1 (lifeResult_badNonce target tag hn) (by decide),
      fun hn hl => hresult 3 (lifeResult_scrapped target tag hn hl) (by decide), hkept⟩
  · show execLifecycleApply s = _
    unfold execLifecycleApply
    rw [ht]
  · exact ⟨_, keyInstall_closed hi h nonce enc tag, answer_last hc _ _ _ _⟩
  · exact ⟨_, keyInstall_taken hi hr h nonce enc tag, answer_last hc _ _ _ _⟩
  · obtain ⟨t, he, hroot⟩ := keyInstall_completes hi hr hu h
    exact ⟨t, he, _, hroot, sharedRoot_xor s root⟩

end Sys2Proof.Safety
end

section
/-! SUPPORT. Staging an update (R676 to R679, R688 to R691): the header, the chunks with their operations, and the end of the
image. -/

set_option Elab.async false

namespace Sys2Proof.Safety

open Sys2Proof.Machine

theorem updAnswer_last {s : State} (hc : CanAnswer s) (h : CmdHdr) (r step : Nat) :
    lastEvent (updAnswer h r step s) = some (0x0F01, 255, h.tag, leN 1 r ++ leN 1 step) :=
  answer_last hc _ _ _ _

@[simp] theorem updAnswer_upd (h : CmdHdr) (r step : Nat) (s : State) : (updAnswer h r step s).upd = s.upd :=
  answer_upd _ _ _ _ _

@[simp] theorem updAnswer_nv (h : CmdHdr) (r step : Nat) (s : State) : (updAnswer h r step s).nv = s.nv :=
  answer_nv _ _ _ _ _

theorem CanAnswer.upd {s : State} (h : CanAnswer s) (u : Machine.Upd) : CanAnswer { s with upd := u } := h.of_eq rfl rfl

theorem bulkIn_canAnswer {s : State} (h : CanAnswer s) (type : Nat) : CanAnswer (bulkIn type s) := h.of_eq rfl rfl

theorem putArea_canAnswer {s : State} (h : CanAnswer s) (part i : Nat) (bs : List Byte) :
    CanAnswer (putArea part i bs s) := by
  unfold putArea
  split <;> exact h.of_eq rfl rfl

@[simp] theorem putArea_upd (part i : Nat) (bs : List Byte) (s : State) : (putArea part i bs s).upd = s.upd := by
  unfold putArea
  split <;> rfl

theorem dropStage_none {s : State} (h : s.upd.stage = none) (cause : Nat) : dropStage cause s = s := by
  unfold dropStage
  rw [h]

theorem dropStaged_none {s : State} (h : s.upd.staged = 0) (part : Nat) : dropStaged part s = s :=
  if_neg (by rw [h]; simp)

/-! ## A header (R675, R677, R688) -/

section
variable {s : State} (h : CmdHdr) {hd : List Byte} (hb : updBusy s = false) (hl : hd.length = 128)
  (hs : s.upd.stage = none)
include hb hl hs

/-- A header that fails a step. -/
theorem updBegin_fails {k : Nat} (hf : (hdrSteps s hd).find? (fun e => !e.2) = some (k, false)) :
    exec (.updBegin h hd) s
      = .next (updAnswer h 1 k { s with upd.state := if s.upd.state = 6 then 6 else restState s }) := by
  show execUpdBegin h hd s = _
  unfold execUpdBegin
  rw [if_neg (by simp [hb])]
  dsimp only
  rw [padTo_of_length hl, dropStage_none hs, hf]

/-- A header that passes every step opens a staging. -/
theorem updBegin_opens (h0 : s.upd.staged = 0) (hok : ∀ e ∈ hdrSteps s hd, e.2 = true) :
    ∃ u, u.upd = s.upd ∧ (CanAnswer s → CanAnswer u) ∧ exec (.updBegin h hd) s = .next (updAnswer h 0 0
      { u with upd.stage := some { part := hdrPart hd, header := hd, received := 128 }, upd.state := 1 }) := by
  have hf : (hdrSteps s hd).find? (fun e => !e.2) = none := by
    rw [List.find?_eq_none]
    intro e he
    simp [hok e he]
  refine ⟨putArea (hdrPart hd) (inactiveNo s (hdrPart hd)) [] s, putArea_upd _ _ _ _, fun hc => putArea_canAnswer hc _ _ _, ?_⟩
  show execUpdBegin h hd s = _
  unfold execUpdBegin
  rw [if_neg (by simp [hb])]
  dsimp only
  rw [padTo_of_length hl, dropStage_none hs, hf, dropStaged_none h0]

end

/-! ## The end of the image (R679, R690) -/

section
variable {s : State} (h : CmdHdr) (hb : updBusy s = false)
include hb

theorem updEnd_unstaged (hs : s.upd.stage = none) : exec (.updEnd h) s = .next (updAnswer h 2 0 s) := by
  show execUpdEnd h s = _
  unfold execUpdEnd
  rw [if_neg (by simp [hb]), hs]

theorem updEnd_bad {g : Staging} (hs : s.upd.stage = some g) (hg : targetGood s g = false) :
    ∃ n, exec (.updEnd h) s = .next (updAnswer h 6 0 { s with upd.stage := none, upd.state := n }) := by
  refine ⟨restState { s with upd.stage := none }, ?_⟩
  show execUpdEnd h s = _
  unfold execUpdEnd
  rw [if_neg (by simp [hb]), hs]
  dsimp only
  rw [if_pos (by rw [hg]; rfl)]

theorem updEnd_good {g : Staging} (hs : s.upd.stage = some g) (hg : targetGood s g = true) :
    Completes (.updEnd h) s fun t => t.upd.stage = none ∧ t.upd.state = 2
      ∧ t.upd.staged = s.upd.staged ||| BitVec.ofNat 3 (1 <<< g.part) := by
  show ∃ t, execUpdEnd h s = .next t ∧ _
  unfold execUpdEnd
  rw [if_neg (by simp [hb]), hs]
  dsimp only
  rw [if_neg (by simp [hg])]
  refine ⟨_, rfl, ?_⟩
  rw [updAnswer_upd, emit_upd]
  exact ⟨rfl, rfl, rfl⟩

/-! ## Chunks (R676, R678, R689) -/

omit hb in
theorem updChunk_held (hk : bulkHeld s = true) (o l : Nat) : exec (.updChunk h o l) s = .next (updAnswer h 5 0 s) :=
  if_pos (by simp [hk])

variable (hk : bulkHeld s = false)
include hk

theorem updChunk_unstaged (hs : s.upd.stage = none) (o l : Nat) :
    exec (.updChunk h o l) s = .next (updAnswer h 2 0 (bulkIn 0x8F02 s)) := by
  show execUpdChunk h o l s = _
  unfold execUpdChunk
  rw [if_neg (by simp [hb, hk]), hs]

theorem updChunk_disordered {g : Staging} (hs : s.upd.stage = some g) {o l : Nat}
    (ho : l = 0 ∨ 262144 < l ∨ o ≠ g.received ∨ hdrImgLen g.header < o + l) :
    exec (.updChunk h o l) s = .next (updAnswer h 4 0 (bulkIn 0x8F02 s)) := by
  show execUpdChunk h o l s = _
  unfold execUpdChunk
  rw [if_neg (by simp [hb, hk]), hs]
  dsimp only
  rw [if_pos ho]

end

/-- A chunk of an operation that is whole and does not end the image. -/
theorem takeOps_fill {g : Staging} {source : List Byte} {n k : Nat} {v : Byte} (hop : g.op = 3 :: leN 3 n ++ [v, 0, 0, 0])
    (he : g.ended = false) (h1 : 1 ≤ n) (hn : n < 2 ^ 24) (hfit : g.built.length + n ≤ hdrTargetLen g.header) :
    takeOps source (k + 2) g = ({ g with op := [], built := g.built ++ List.replicate n v }, false) := by
  have hlen : leAt g.op 1 3 = n := by
    simp only [hop, leN, leAt, bytesAt, byteAt, ofLe, List.cons_append, List.nil_append, List.getD_cons_succ,
      List.getD_cons_zero, BitVec.toNat_ofNat]
    omega
  have hsize : g.op.length = 8 := by rw [hop]; rfl
  have hrest : g.op.drop 8 = [] := List.drop_of_length_le (by omega)
  have hfill : takeOp source g = ({ g with op := [], built := g.built ++ List.replicate n v }, none) := by
    have hkind : leAt g.op 0 1 = 3 := by rw [hop]; rfl
    have hbyte : byteAt g.op 4 = v := by rw [hop]; rfl
    simp [takeOp, hlen, hsize, hrest, hkind, hbyte, he, h1, hfit]
  rw [takeOps, hfill]
  rfl

/-- A chunk in order that brings one whole fill operation. -/
theorem updChunk_fill {s : State} (h : CmdHdr) (hb : updBusy s = false) (hk : bulkHeld s = false) {g : Staging} {n : Nat}
    {v : Byte} (hs : s.upd.stage = some g) (hop : g.op = []) (he : g.ended = false) (hr : g.received + 8 < hdrImgLen g.header)
    (h1 : 1 ≤ n) (hn : n < 2 ^ 24) (hfit : g.built.length + n ≤ hdrTargetLen g.header)
    (hbs : bulkBytes s 0 8 = 3 :: leN 3 n ++ [v, 0, 0, 0]) :
    ∃ u, (CanAnswer s → CanAnswer u) ∧ u.upd.stage = some { g with
          received := g.received + 8, op := [], built := g.built ++ List.replicate n v }
      ∧ exec (.updChunk h g.received 8) s = .next (updAnswer h 0 0 u) := by
  have hops := takeOps_fill (g := { g with received := g.received + 8, op := g.op ++ bulkBytes s 0 8 })
    (source := areaOf s g.part (activeNo s g.part)) (k := 7) (by rw [hop, hbs]; rfl) he h1 hn hfit
  have hlen : (g.op ++ bulkBytes s 0 8).length + 1 = 7 + 2 := by rw [hop, hbs]; rfl
  refine ⟨putArea g.part (inactiveNo (bulkIn 0x8F02 s) g.part) (g.built ++ List.replicate n v)
    { bulkIn 0x8F02 s with upd.stage := some { g with
        received := g.received + 8, op := [], built := g.built ++ List.replicate n v } },
    fun hc => putArea_canAnswer ((bulkIn_canAnswer hc _).upd _) _ _ _, by rw [putArea_upd], ?_⟩
  show execUpdChunk h g.received 8 s = _
  unfold execUpdChunk
  rw [if_neg (by simp [hb, hk]), hs]
  dsimp only
  rw [if_neg (by omega), hlen, hops]
  dsimp only
  rw [if_neg (by simp; omega)]

/-- Settles O53: a header by the steps it fails, a chunk by its place, the end by the target. -/
theorem updateStaging : Obligations.UpdateStaging := by
  unfold Obligations.UpdateStaging
  intro s h hc
  refine ⟨fun hb => ⟨fun hd => ?_, fun o l => ?_, ?_⟩, fun hb => ⟨fun hd k hl hs hf => ?_, fun hd hl hs h0 hok => ?_,
    fun hs => ?_, fun g hs => ⟨fun hg => ?_, updEnd_good h hb hs⟩, fun hk o l => ?_, fun hk => ⟨fun hs o l => ?_,
    fun g o l hs ho => ?_, fun g n v hs hop he hr h1 hn hfit hbs => ?_⟩⟩⟩
  · exact ⟨_, if_pos hb, updAnswer_last hc h 5 0⟩
  · exact ⟨_, if_pos (by rw [hb]; rfl), updAnswer_last hc h 5 0⟩
  · exact ⟨_, if_pos hb, updAnswer_last hc h 5 0⟩
  · refine ⟨_, updBegin_fails h hb hl hs hf, ?_, ?_, ?_, updAnswer_last (hc.upd _) h 1 k⟩
    · rw [updAnswer_nv]
    · rw [updAnswer_upd, ← hs]
    · rw [updAnswer_upd]
  · obtain ⟨u, -, hu, he⟩ := updBegin_opens h hb hl hs h0 hok
    have hcan := hu hc
    refine ⟨_, he, ?_, ?_, updAnswer_last (hcan.upd _) h 0 0⟩
    · rw [updAnswer_upd]
    · rw [updAnswer_upd]
  · exact ⟨_, updEnd_unstaged h hb hs, updAnswer_last hc h 2 0⟩
  · obtain ⟨n, he⟩ := updEnd_bad h hb hs hg
    refine ⟨_, he, ?_, ?_, updAnswer_last (hc.upd _) h 6 0⟩
    · rw [updAnswer_upd]
    · rw [updAnswer_upd]
  · exact ⟨_, updChunk_held h hk o l, updAnswer_last hc h 5 0⟩
  · exact ⟨_, updChunk_unstaged h hb hk hs o l, updAnswer_last (bulkIn_canAnswer hc _) h 2 0⟩
  · refine ⟨_, updChunk_disordered h hb hk hs ho, ?_, ?_, updAnswer_last (bulkIn_canAnswer hc _) h 4 0⟩
    · rw [updAnswer_upd, ← hs]
      rfl
    · rw [updAnswer_nv]
      rfl
  · obtain ⟨u, hu, hstage, he⟩ := updChunk_fill h hb hk hs hop he hr h1 hn hfit hbs
    refine ⟨_, he, ⟨_, by rw [updAnswer_upd, hstage], rfl, rfl, rfl⟩, updAnswer_last (hu hc) h 0 0⟩

end Sys2Proof.Safety
end

section
/-! SUPPORT. What the end of one bough's session leaves of the others (R213 to R215): their sessions' states, and which boughs
are held. -/

set_option Elab.async false

namespace Sys2Proof.Safety

open Sys2Proof.Machine

/-- The sessions of the other boughs stand in their states, and no bough is held that was not held or released that was. -/
def SesLeft (b : Bough) (s t : State) : Prop :=
  (∀ c, c ≠ b → t.ses[c].state = s.ses[c].state) ∧ ∀ c : Bough, t.sesL[c].held = s.sesL[c].held

section
variable {b : Bough} {s t u : State}

theorem SesLeft.of_eq (h : t.ses = s.ses) (k : t.sesL = s.sesL) : SesLeft b s t :=
  ⟨fun c _ => by rw [h], fun c => by rw [k]⟩

theorem SesLeft.refl (s : State) : SesLeft b s s := .of_eq rfl rfl

theorem SesLeft.trans (h : SesLeft b s t) (k : SesLeft b t u) : SesLeft b s u :=
  ⟨fun c hc => (k.1 c hc).trans (h.1 c hc), fun c => (k.2 c).trans (h.2 c)⟩

theorem SesLeft.ite {c : Prop} [Decidable c] (h : SesLeft b s t) (k : SesLeft b s u) : SesLeft b s (if c then t else u) := by
  split
  · exact h
  · exact k

/-- An operation whose frame leaves the sessions out. -/
theorem Kept.sesLeft (h : Kept (allBut .sessions) s t) (k : Kept (allBut .powerLinks) s t) : SesLeft b s t :=
  .of_eq h.same k.same

end

theorem onSes_sesLeft (b : Bough) (f : Session → Session) (s : State) : SesLeft b s (s.onSes b f) := by
  refine ⟨fun c hc => ?_, fun _ => rfl⟩
  rw [State.onSes_ses, modAt_get_other _ _ _ _ hc.symm]

theorem onSesL_sesLeft (b : Bough) (f : SesLink → SesLink) (s : State) (hf : ∀ l, (f l).held = l.held) :
    SesLeft b s (s.onSesL b f) := by
  refine ⟨fun _ _ => rfl, fun c => ?_⟩
  rw [State.onSesL_sesL, modAt_fin]
  split
  · exact hf _
  · rfl

theorem emit_sesLeft (b : Bough) (c n : Nat) (d : List Byte) (s : State) : SesLeft b s (emit c n d s) :=
  .of_eq (emit_ses _ _ _ _) (emit_sesL _ _ _ _)

/-! ## Requests and moves -/

theorem recalcCeil_sesLeft (b : Bough) (s : State) : SesLeft b s (recalcCeil b s) := by
  unfold recalcCeil
  extract_lets
  split
  refine SesLeft.trans ?_ (onSes_sesLeft b _ _)
  exact .ite (.refl s) (onSesL_sesLeft b _ s fun _ => rfl)

theorem powerRequest_sesLeft (b : Bough) (s : State) : SesLeft b s (powerRequest b s) := by
  unfold powerRequest
  refine .ite (.trans ?_ (emit_sesLeft b _ _ _ _)) (.refl s)
  exact onSesL_sesLeft b _ s fun _ => rfl

theorem driveOutput_sesLeft (b c : Bough) (s : State) : SesLeft b s (driveOutput c s) :=
  (driveOutput_changes (.refl _ s) c).sesLeft (driveOutput_changes (.refl _ s) c)

theorem withRequest_sesLeft {b : Bough} {f : State → State} {s : State} (hf : SesLeft b s (f s)) :
    SesLeft b s (withRequest b f s) := by
  have hd := (hf.trans (recalcCeil_sesLeft b _)).trans (driveOutput_sesLeft b b _)
  exact .ite hd (hd.trans (powerRequest_sesLeft b _))

theorem goState_sesLeft (b : Bough) (st : SesState) (s : State) : SesLeft b s (goState b st s) := by
  unfold goState
  dsimp only
  generalize hu : (if st = .energising then leaveLowPower s else s) = u
  have h : SesLeft b s u := by
    rw [← hu]
    exact .ite ((leaveLowPower_changes (.refl _ s)).sesLeft (leaveLowPower_changes (.refl _ s))) (.refl s)
  refine (h.trans (withRequest_sesLeft ?_)).trans ((auxAll_changes (.refl _ _)).sesLeft (auxAll_changes (.refl _ _)))
  exact (onSes_sesLeft b _ u).trans (emit_sesLeft b _ _ _ _)

theorem leaveNetwork_sesLeft (b c : Bough) (s : State) : SesLeft b s (leaveNetwork c s) :=
  (leaveNetwork_changes (.refl _ s) c).sesLeft (leaveNetwork_changes (.refl _ s) c)

/-! ## The close of a session -/

theorem signReading_sesLeft (b c : Bough) (k : Nat) (s : State) : SesLeft b s (signReading c k s) :=
  (signReading_changes (.refl _ s) c k).sesLeft (signReading_changes (.refl _ s) c k)

theorem lateReading_sesLeft (b : Bough) (s : State) : SesLeft b s (lateReading b s) := by
  unfold lateReading
  refine .ite (.trans ?_ (signReading_sesLeft b b 2 _)) (.refl s)
  exact onSesL_sesLeft b _ s fun _ => rfl

theorem noteHistogram_sesLeft (b : Bough) (s : State) : SesLeft b s (noteHistogram b s) :=
  onSesL_sesLeft b _ s fun l => by split <;> rfl

/-- The exchange credit used goes to every session of the record, whose states stand. -/
theorem keepEc_sesLeft (b : Bough) (i used : Nat) (s : State) : SesLeft b s (keepEc i used s) := by
  refine ⟨fun c _ => ?_, fun _ => rfl⟩
  simp only [keepEc, Fin.getElem_fin, Vector.getElem_map]
  split <;> rfl

theorem putSlot_sesLeft (b : Bough) (i : Nat) (r : List Byte) (s : State) : SesLeft b s (putSlot i r s) :=
  (putSlot_changes (.refl _ s) i r).sesLeft (putSlot_changes (.refl _ s) i r)

theorem debitSession_sesLeft (b : Bough) (s : State) : SesLeft b s (debitSession b s) := by
  unfold debitSession
  extract_lets e
  split
  · exact .refl s
  · extract_lets r room
    generalize debit _ _ _ = p
    obtain ⟨bal, ec⟩ := p
    dsimp -zeta only
    extract_lets used u
    exact ((onSes_sesLeft b _ s).trans (keepEc_sesLeft b _ used _)).trans (putSlot_sesLeft b _ _ u)

theorem closeSession_sesLeft (b : Bough) (s : State) : SesLeft b s (closeSession b s) := by
  unfold closeSession
  extract_lets read ended c priced noted journalled e d reported discarded
  have hread : SesLeft b s read := (onSes_sesLeft b _ s).trans (lateReading_sesLeft b _)
  have hended : SesLeft b s ended :=
    hread.trans ((endReading_changes (.refl _ read) b).sesLeft (endReading_changes (.refl _ read) b))
  have hpriced : SesLeft b s priced := by
    have hcost := hended.trans (onSes_sesLeft b (fun e => { e with cost := c }) ended)
    refine .ite (hcost.trans ?_) hread
    exact onSesL_sesLeft b _ _ fun _ => rfl
  have hnoted : SesLeft b s noted := (hpriced.trans (debitSession_sesLeft b priced)).trans (noteHistogram_sesLeft b _)
  have hjournalled : SesLeft b s journalled := by
    dsimp only [journalled]
    split
    · next i _ =>
      exact hnoted.trans ((journalFor_changes (.refl _ noted) b i).sesLeft (journalFor_changes (.refl _ noted) b i))
    · exact hnoted
  have hreported : SesLeft b s reported := by
    dsimp only [reported]
    split
    · exact hjournalled.trans (.of_eq (answer_ses _ _ _ _ _) (answer_sesL _ _ _ _ _))
    · exact hjournalled.trans (emit_sesLeft b _ _ _ _)
  have hdiscarded : SesLeft b s discarded := hreported.trans
    ((discardIdents_changes (.refl _ reported) b e.held).sesLeft (discardIdents_changes (.refl _ reported) b e.held))
  exact hdiscarded.trans (onSes_sesLeft b _ discarded)

/-! ## Sessions that end -/

theorem finishSession_sesLeft (b : Bough) (s : State) : SesLeft b s (finishSession b s) :=
  ((goState_sesLeft b _ s).trans (closeSession_sesLeft b _)).trans (leaveNetwork_sesLeft b b _)

theorem idleSession_sesLeft (b : Bough) (s : State) : SesLeft b s (idleSession b s) := by
  unfold idleSession
  extract_lets moved cleared linked unheld unasked
  have hmoved : SesLeft b s cleared := (goState_sesLeft b _ s).trans (onSes_sesLeft b _ moved)
  have hlinked : SesLeft b s linked := by
    refine hmoved.trans ?_
    exact onSesL_sesLeft b _ cleared fun _ => rfl
  have hport : SesLeft b s unheld := hlinked.trans (.of_eq rfl rfl)
  have hsaf : SesLeft b s unasked := hport.trans (.of_eq rfl rfl)
  exact (hsaf.trans (leaveNetwork_sesLeft b b unasked)).trans (withRequest_sesLeft (.refl _))

theorem endEarly_sesLeft (b : Bough) (reason : Nat) (s : State) : SesLeft b s (endEarly b reason s) :=
  ((onSes_sesLeft b _ s).trans (closeSession_sesLeft b _)).trans (idleSession_sesLeft b _)

theorem stopDone_sesLeft (b : Bough) (s : State) : SesLeft b s (stopDone b s) := by
  unfold stopDone
  extract_lets t
  have ht : SesLeft b s t := finishSession_sesLeft b s
  exact .ite (ht.trans (idleSession_sesLeft b t)) ht

theorem enterStopping_sesLeft (b : Bough) (reason : Nat) (s : State) : SesLeft b s (enterStopping b reason s) := by
  unfold enterStopping
  extract_lets isOpen notice t u v w
  have ht : SesLeft b s t := onSes_sesLeft b _ s
  have hu : SesLeft b s u := by
    refine ht.trans ?_
    exact onSesL_sesLeft b _ t fun _ => rfl
  have hv : SesLeft b s v := hu.trans (.of_eq rfl rfl)
  have hw : SesLeft b s w := hv.trans (goState_sesLeft b _ v)
  exact .ite (hw.trans (stopDone_sesLeft b w)) hw

theorem leaveSession_sesLeft (b : Bough) (reason : Nat) (s : State) : SesLeft b s (leaveSession b reason s) := by
  unfold leaveSession
  refine .ite (.refl s) ?_
  split
  case h_1 | h_4 => exact .refl s
  case h_2 | h_3 => exact idleSession_sesLeft b s
  case h_5 | h_6 | h_7 => exact endEarly_sesLeft b reason s
  case h_8 => exact .ite (enterStopping_sesLeft b reason s) (endEarly_sesLeft b reason s)

theorem holdSession_sesLeft (b : Bough) (r : Nat) (s : State) : SesLeft b s (holdSession b r s) :=
  (leaveSession_sesLeft b _ s).trans (driveOutput_sesLeft b b _)

end Sys2Proof.Safety
end

section
/-! SUPPORT. Scheduling, draining, activating and confirming an update (R680 to R684, R691, R692). -/

set_option Elab.async false

namespace Sys2Proof.Safety

open Sys2Proof.Machine

/-! ## The directory (R672, R681) -/

theorem dirTarget_lt (s : State) : dirTarget s < 2 := by
  unfold dirTarget
  dsimp only
  split
  · decide
  · split
    · decide
    · split <;> decide

/-- An entry written stands in the directory. -/
theorem writeDir_mem (d : Dir) (st : Nat) (switched : BitVec 3) (s : State) :
    ∃ e ∈ (writeDir d st switched s).nv.flash.dir.toList, e.upd = BitVec.ofNat 8 (st + 8 * switched.toNat) := by
  unfold writeDir
  dsimp only
  rw [modN, dif_pos (dirTarget_lt s)]
  refine ⟨_, Vector.mem_toList_iff.mpr (Vector.mem_set (dirTarget_lt s)), rfl⟩

theorem dirState_of_upd {d : Dir} {st : Nat} {switched : BitVec 3} (h : d.upd = BitVec.ofNat 8 (st + 8 * switched.toNat))
    (hst : st < 8) : dirState d = st := by
  have := switched.isLt
  unfold dirState
  rw [h, BitVec.toNat_ofNat]
  omega

theorem dirSwitched_of_upd {d : Dir} {st : Nat} {switched : BitVec 3} (h : d.upd = BitVec.ofNat 8 (st + 8 * switched.toNat))
    (hst : st < 8) : dirSwitched d = switched := by
  have hlt := switched.isLt
  unfold dirSwitched
  rw [h, BitVec.toNat_ofNat]
  refine BitVec.eq_of_toNat_eq ?_
  rw [BitVec.toNat_ofNat]
  omega

theorem putRecord_dir (r : LogRec) (s : State) : (putRecord r s).nv.flash.dir = s.nv.flash.dir := by
  unfold putRecord
  split
  · rfl
  · split <;> rfl

/-- Writing out the records leaves the directory. -/
theorem flushQueue_dir (s : State) : (flushQueue s).nv.flash.dir = s.nv.flash.dir := by
  have hput (l : List LogRec) (u : State) : (l.foldl (fun t r => putRecord r t) u).nv.flash.dir = u.nv.flash.dir := by
    induction l generalizing u with
    | nil => rfl
    | cons r l ih => exact (ih _).trans (putRecord_dir r u)
  exact hput _ _

/-- A reset in order clears the start and the update, and keeps the backup domain and the directory. -/
theorem orderedReset_kept (s : State) : (orderedReset s).start = {} ∧ (orderedReset s).upd = {}
    ∧ (orderedReset s).bak = s.bak ∧ (orderedReset s).nv.flash.dir = s.nv.flash.dir :=
  ⟨rfl, rfl, (flushQueue_changes (w₀ := allBut .backup) (.refl _ s)).same, flushQueue_dir s⟩

/-! ## Schedules (R680, R690) -/

section
variable {s : State} (h : CmdHdr)

theorem updSchedule_refused {m : Nat} (hs : s.upd.staged = 0 ∨ s.upd.state = 4) (v : Nat) :
    exec (.updSchedule h m v) s = .next (updAnswer h 2 0 s) := if_pos hs

variable (h0 : s.upd.staged ≠ 0) (h4 : s.upd.state ≠ 4)
include h0 h4

theorem updSchedule_unknownMode {m : Nat} (hm : 2 < m) (v : Nat) :
    exec (.updSchedule h m v) s = .next (updAnswer h 4 0 s) :=
  (if_neg (not_or.mpr ⟨h0, h4⟩)).trans (if_pos hm)

theorem updSchedule_unaccepted {m : Nat} (hm : m ≤ 2) (hp : pairAccepted s = false) (v : Nat) :
    exec (.updSchedule h m v) s = .next (updAnswer h 6 0 s) :=
  (if_neg (not_or.mpr ⟨h0, h4⟩)).trans ((if_neg (by omega)).trans (if_pos (by rw [hp]; rfl)))

theorem updSchedule_scheduled {m : Nat} (hm : m ≤ 2) (hp : pairAccepted s = true) (v : Nat) :
    exec (.updSchedule h m v) s
      = .next (updAnswer h 0 0 { s with upd.mode := m, upd.when := v, upd.state := 3 }) :=
  (if_neg (not_or.mpr ⟨h0, h4⟩)).trans ((if_neg (by omega)).trans (if_neg (by rw [hp]; decide)))

end

/-! ## Draining (R681) -/

/-- What the condition does to a bough: one that transfers is to be held when its session lets it, any other is held. -/
def drainBough (b : Bough) (t : State) : State :=
  if energised t b then t.onSesL b (fun l => { l with held := true })
  else holdSession b 1 (t.onSaf b (fun f => { f with holdUpd := true }))

/-- What of a bough the draining looks at and changes. -/
def drainView (s : State) (b : Bough) : Bool × Bool × Bool := (energised s b, s.saf[b].holdUpd, s.sesL[b].held)

theorem drainBough_other {b c : Bough} (hc : c ≠ b) (s : State) : drainView (drainBough b s) c = drainView s c := by
  unfold drainBough
  split
  · have hl : (s.onSesL b fun l => { l with held := true }).sesL[c] = s.sesL[c] := by
      rw [State.onSesL_sesL, modAt_get_other _ _ _ _ hc.symm]
    unfold drainView
    rw [hl]
    rfl
  · generalize hu : (s.onSaf b fun f => { f with holdUpd := true }) = u
    have hsaf : u.saf[c] = s.saf[c] := by rw [← hu, State.onSaf_saf, modAt_get_other _ _ _ _ hc.symm]
    have hses : u.ses = s.ses := by rw [← hu]; rfl
    have hlink : u.sesL = s.sesL := by rw [← hu]; rfl
    obtain ⟨states, held⟩ := holdSession_sesLeft b 1 u
    have hsafe := holdSession_left b 1 u c
    unfold drainView energised
    rw [states c hc, held c, hsafe, hses, hlink, hsaf]

/-- The bough itself. -/
theorem drainBough_self (b : Bough) (s : State) :
    (energised s b = true → (drainBough b s).sesL[b].held = true ∧ (drainBough b s).saf[b].holdUpd = s.saf[b].holdUpd)
      ∧ (energised s b = false → (drainBough b s).saf[b].holdUpd = true) := by
  refine ⟨fun he => ?_, fun he => ?_⟩
  · unfold drainBough
    rw [if_pos he]
    refine ⟨?_, rfl⟩
    rw [State.onSesL_sesL, modAt_get]
  · unfold drainBough
    rw [if_neg (by simp [he]), holdSession_left b 1 _ b]
    show (State.onSaf _ _ _).saf[b].holdUpd = true
    rw [State.onSaf_saf, modAt_get]

/-- A pass over some boughs drains those and leaves the others. -/
theorem drainBoughs (l : List Bough) (hl : l.Nodup) (s : State) (c : Bough) :
    let t := l.foldl (fun t b => drainBough b t) s
    (c ∉ l → drainView t c = drainView s c)
      ∧ (c ∈ l → (energised s c = true → t.sesL[c].held = true ∧ t.saf[c].holdUpd = s.saf[c].holdUpd)
        ∧ (energised s c = false → t.saf[c].holdUpd = true)) := by
  induction l generalizing s with
  | nil => exact ⟨fun _ => rfl, fun h => absurd h List.not_mem_nil⟩
  | cons b l ih =>
    obtain ⟨hb, hl⟩ := List.nodup_cons.mp hl
    obtain ⟨others, mine⟩ := ih hl (drainBough b s)
    refine ⟨fun hc => ?_, fun hc => ?_⟩
    · obtain ⟨hne, hcl⟩ := not_or.mp (mt List.mem_cons.mpr hc)
      exact (others hcl).trans (drainBough_other hne s)
    · by_cases hcb : c = b
      · subst hcb
        have hview := others hb
        simp only [drainView, Prod.mk.injEq] at hview
        obtain ⟨-, hupd, hheld⟩ := hview
        obtain ⟨on, off⟩ := drainBough_self c s
        exact ⟨fun he => ⟨hheld.trans (on he).1, hupd.trans (on he).2⟩, fun he => hupd.trans (off he)⟩
      · have hview := drainBough_other hcb s
        simp only [drainView, Prod.mk.injEq] at hview
        obtain ⟨hen, hupd, -⟩ := hview
        obtain ⟨on, off⟩ := mine ((List.mem_cons.mp hc).resolve_left hcb)
        rw [hen, hupd] at on
        rw [hen] at off
        exact ⟨on, off⟩

theorem drainBough_upd (b : Bough) (s : State) : Kept (allBut .update) s (drainBough b s) := by
  have hheld : Kept (allBut .update) s (s.onSaf b fun f => { f with holdUpd := true }) := onSaf_changes (.refl _ s) _ _
  exact .ite (fun _ => onSesL_changes (.refl _ s) _ _) fun _ => holdSession_changes hheld _ _

theorem activationCondition_drains {s : State} (hs : s.upd.state = 3) (hc : conditionHolds s = true) :
    ∃ u, u.ses = s.ses ∧ u.saf = s.saf ∧ u.upd.state = 4
      ∧ exec .activationCondition s = .next (forBoughs drainBough u) := by
  show ∃ u, _ ∧ _ ∧ _ ∧ execActivationCondition s = _
  unfold execActivationCondition
  rw [if_neg (by simp [hs, hc])]
  exact ⟨emit _ _ _ { s with upd.state := 4, upd.endAt := _ }, emit_ses _ _ _ _, emit_saf _ _ _ _, by rw [emit_upd], rfl⟩

theorem activationCondition_completes {s : State} (hs : s.upd.state = 3) (hc : conditionHolds s = true) :
    Completes .activationCondition s fun t => t.upd.state = 4
      ∧ (∀ b : Bough, energised s b = true → t.sesL[b].held = true ∧ t.saf[b].holdUpd = s.saf[b].holdUpd)
      ∧ ∀ b : Bough, energised s b = false → t.saf[b].holdUpd = true := by
  obtain ⟨u, hses, hsaf, hupd, he⟩ := activationCondition_drains hs hc
  have hkept : Kept (allBut .update) u (forBoughs drainBough u) :=
    .forBoughs _ (.refl _ u) fun b v hv => hv.trans (drainBough_upd b v) (by decide)
  have hen (b : Bough) : energised u b = energised s b := by
    unfold energised
    rw [hses]
  have hdrained (b : Bough) := (drainBoughs allBoughs (by decide) u b).2 (by revert b; decide)
  refine ⟨_, he, (congrArg Machine.Upd.state hkept.same).trans hupd, fun b hb => ?_, fun b hb => ?_⟩
  · rw [← hsaf]
    exact (hdrained b).1 ((hen b).trans hb)
  · exact (hdrained b).2 ((hen b).trans hb)

/-- With every bough held the device writes the directory and resets. -/
theorem drainEnd_completes {s : State} (hs : s.upd.state = 4) (hb : ∀ b : Bough, heldOut s b = true) :
    Completes .drainEnd s fun t => t.start = {} ∧ t.upd = {} ∧ t.bak = s.bak
      ∧ ∃ d ∈ t.nv.flash.dir.toList, dirState d = 1 ∧ dirSwitched d = s.upd.staged := by
  show ∃ t, execDrainEnd s = .next t ∧ _
  unfold execDrainEnd
  rw [if_neg (by simp [hs, hb])]
  dsimp only
  generalize hu : (if s.upd.staged.getLsbD 2 then writeSave 4 s else s) = u
  have hbak : u.bak = s.bak := by
    rw [← hu]
    split
    · exact (writeSave_changes (w₀ := allBut .backup) (.refl _ s) 4).same
    · rfl
  obtain ⟨e, he, hupd⟩ := writeDir_mem (swapParts s.upd.staged (dirNow u)) 1 s.upd.staged u
  have hv : (writeDir (swapParts s.upd.staged (dirNow u)) 1 s.upd.staged u).bak = u.bak := rfl
  generalize writeDir (swapParts s.upd.staged (dirNow u)) 1 s.upd.staged u = v at he hv ⊢
  obtain ⟨start, upd, bak, dir⟩ := orderedReset_kept (emit 0x0F04 255 (leN 1 s.upd.staged.toNat ++ leN 4 (dirNow v).seq) v)
  refine ⟨_, rfl, start, upd, ?_, e, ?_, dirState_of_upd hupd (by decide), dirSwitched_of_upd hupd (by decide)⟩
  · rw [bak, emit_bak, hv, hbak]
  · rw [dir, emit_nv]
    exact he

/-! ## The end of a draining (R684) -/

theorem driveAll_saf (s : State) : SafKept s (driveAll s) :=
  List.foldlRecOn (motive := SafKept s) _ _ (.refl s) fun _ ht c _ => ht.trans (driveOutput_saf c _)

/-- What the end of a draining does to a bough: no bough is held, unless by a fatal error. -/
def releaseBough (keep : Bool) (b : Bough) (t : State) : State :=
  (t.onSaf b (fun f => { f with holdUpd := false })).onSesL b (fun l => { l with held := l.held && keep })

theorem releaseDrain_eq (s : State) :
    releaseDrain s = driveAll (forBoughs (releaseBough s.log.fatalCause.isSome) s) := rfl

theorem releaseBoughs (l : List Bough) (s : State) (c : Bough) :
    let t := l.foldl (fun t b => releaseBough false b t) s
    (c ∈ l ∨ s.saf[c].holdUpd = false → t.saf[c].holdUpd = false)
      ∧ (c ∈ l ∨ s.sesL[c].held = false → t.sesL[c].held = false) := by
  induction l generalizing s with
  | nil => exact ⟨fun h => h.resolve_left List.not_mem_nil, fun h => h.resolve_left List.not_mem_nil⟩
  | cons b l ih =>
    have hsaf : (releaseBough false b s).saf[c].holdUpd = (if b = c then false else s.saf[c].holdUpd) := by
      show (State.onSaf _ _ _).saf[c].holdUpd = _
      rw [State.onSaf_saf, modAt_fin]
      split <;> rfl
    have hlink : (releaseBough false b s).sesL[c].held = (if b = c then false else s.sesL[c].held) := by
      show (State.onSesL _ _ _).sesL[c].held = _
      rw [State.onSesL_sesL, modAt_fin]
      split
      · exact Bool.and_false _
      · rfl
    obtain ⟨upd, held⟩ := ih (releaseBough false b s)
    refine ⟨fun h => upd ?_, fun h => held ?_⟩
    · rw [hsaf]
      grind
    · rw [hlink]
      grind

theorem releaseDrain_released {s : State} (hf : s.log.fatalCause = none) (b : Bough) :
    (releaseDrain s).saf[b].holdUpd = false ∧ (releaseDrain s).sesL[b].held = false := by
  have hmem : b ∈ allBoughs := by revert b; decide
  rw [releaseDrain_eq, hf]
  obtain ⟨upd, held⟩ := releaseBoughs allBoughs s b
  have hlinks : (driveAll (forBoughs (releaseBough false) s)).sesL = (forBoughs (releaseBough false) s).sesL :=
    (driveAll_changes (w₀ := allBut .powerLinks) (.refl _ _)).same
  refine ⟨?_, ?_⟩
  · show (driveAll (forBoughs (releaseBough false) s)).saf[b].holdUpd = false
    rw [driveAll_saf _ b]
    exact upd (.inl hmem)
  · show (driveAll (forBoughs (releaseBough false) s)).sesL[b].held = false
    rw [hlinks]
    exact held (.inl hmem)

theorem releaseDrain_upd (s : State) : (releaseDrain s).upd = s.upd :=
  (releaseDrain_changes (w₀ := allBut .update) (.refl _ s)).same

theorem restState_lt (s : State) : restState s < 3 := by
  unfold restState
  split
  · decide
  · split <;> decide

/-- What is left of a schedule that is dropped. -/
theorem dropSchedule_upd (s : State) : (dropSchedule s).upd.mode = 0 ∧ (dropSchedule s).upd.state < 3
    ∧ (dropSchedule s).upd.staged = s.upd.staged := by
  unfold dropSchedule
  dsimp only
  split
  · rw [releaseDrain_upd]
    exact ⟨rfl, restState_lt s, rfl⟩
  · exact ⟨rfl, restState_lt s, rfl⟩

theorem drainTimeout_completes {s : State} (hs : s.upd.state = 4) (hf : s.log.fatalCause = none) :
    Completes .drainTimeout s fun t => t.upd.mode = 0 ∧ t.upd.state ≠ 4 ∧ t.upd.staged = s.upd.staged
      ∧ ∀ b : Bough, t.saf[b].holdUpd = false ∧ t.sesL[b].held = false := by
  obtain ⟨mode, state, staged⟩ := dropSchedule_upd s
  refine ⟨_, if_neg (not_not.mpr hs), ?_, ?_, ?_, fun b => ?_⟩
  · rw [emit_upd, mode]
  · rw [emit_upd]
    omega
  · rw [emit_upd, staged]
  · rw [emit_saf, emit_sesL]
    unfold dropSchedule
    dsimp only
    rw [hs, if_pos (by rfl)]
    refine releaseDrain_released ?_ b
    exact hf

/-! ## On trial (R682, R683) -/

theorem confirmUpdate_upd (how : Nat) (s : State) : (confirmUpdate how s).upd.switched = 0
    ∧ (confirmUpdate how s).start.trial = false ∧ (confirmUpdate how s).upd.state < 3 := by
  unfold confirmUpdate
  dsimp only
  rw [emit_upd, emit_start]
  exact ⟨rfl, rfl, restState_lt _⟩

/-- An answer reaches the queue where the window is as open and the queue as full. -/
theorem CanAnswer.of_open {s t : State} (h : CanAnswer s) (he : t.host.eq = s.host.eq) (ho : t.open2 = s.open2) :
    CanAnswer t := by
  unfold CanAnswer eqUsed at *
  rwa [he, ho]

theorem confirmUpdate_canAnswer {s : State} (h : CanAnswer s) (how : Nat) : CanAnswer (confirmUpdate how s) := by
  unfold confirmUpdate
  refine emit_canAnswer ?_ _ _ _
  exact h.of_open rfl rfl

theorem updConfirm_closed {s : State} (h : CmdHdr) (hw : windowOpen s = false) :
    exec (.updConfirm h) s = .next (updAnswer h 2 0 s) := if_neg (by simp [hw])

theorem updConfirm_completes {s : State} (h : CmdHdr) (hw : windowOpen s = true) :
    Completes (.updConfirm h) s fun t => t.upd.switched = 0 ∧ t.start.trial = false ∧ t.upd.state ≠ 5
      ∧ (CanAnswer s → lastEvent t = some (0x0F01, 255, h.tag, [0, 0])) := by
  obtain ⟨switched, trial, state⟩ := confirmUpdate_upd 0 s
  refine ⟨_, if_pos hw, ?_, ?_, ?_, fun hc => updAnswer_last (confirmUpdate_canAnswer hc 0) h 0 0⟩
  · rw [updAnswer_upd, switched]
  · rw [updAnswer, answer_start, trial]
  · rw [updAnswer_upd]
    omega

/-- An abort on trial falls back and resets. -/
theorem updAbort_trial {s : State} (h : CmdHdr) (hw : windowOpen s = true) :
    Completes (.updAbort h) s fun t => t.start = {} ∧ t.upd = {} ∧ t.bak = s.bak
      ∧ ∃ d ∈ t.nv.flash.dir.toList, dirState d = 3 := by
  obtain ⟨e, he, hupd⟩ := writeDir_mem (swapParts s.upd.switched (dirNow s)) 3 0 s
  obtain ⟨start, upd, bak, dir⟩ := orderedReset_kept (updAnswer h 0 0 (fallBack s.upd.switched 4 s))
  refine ⟨_, if_pos hw, start, upd, ?_, e, ?_, dirState_of_upd hupd (by decide)⟩
  · rw [bak, updAnswer, answer_bak, fallBack, emit_bak]
    rfl
  · rw [dir, updAnswer_nv, fallBack, emit_nv]
    exact he

/-- An abort of a schedule drops it. -/
theorem updAbort_scheduled {s : State} (h : CmdHdr) (hw : windowOpen s = false) (hg : s.upd.stage = none)
    (hs : s.upd.state = 3) : Completes (.updAbort h) s fun t => t.upd.mode = 0 ∧ t.upd.state ≠ 3
      ∧ t.upd.staged = s.upd.staged ∧ (CanAnswer s → lastEvent t = some (0x0F01, 255, h.tag, [0, 0])) := by
  have hexec : exec (.updAbort h) s = .next (updAnswer h 0 0 (dropSchedule s)) := by
    show execUpdAbort h s = _
    unfold execUpdAbort
    rw [if_neg (by simp [hw]), dropStage_none hg]
    dsimp only
    rw [if_neg (by simp [hs])]
  obtain ⟨mode, state, staged⟩ := dropSchedule_upd s
  refine ⟨_, hexec, ?_, ?_, ?_, fun hc => updAnswer_last ?_ h 0 0⟩
  · rw [updAnswer_upd, mode]
  · rw [updAnswer_upd]
    omega
  · rw [updAnswer_upd, staged]
  · unfold dropSchedule
    dsimp only
    rw [hs, if_neg (by decide)]
    exact CanAnswer.upd hc _

theorem confirmationWindowEnd_closed {s : State} (hw : windowOpen s = false) :
    exec .confirmationWindowEnd s = .next s := if_pos (by rw [hw]; rfl)

theorem confirmationWindowEnd_auto {s : State} (hw : windowOpen s = true) (ha : bitOf s.updCfg 31 = true) :
    exec .confirmationWindowEnd s = .next (confirmUpdate 1 s) := by
  show execConfirmationWindowEnd s = _
  unfold execConfirmationWindowEnd
  rw [if_neg (by simp [hw]), if_pos ha]

theorem confirmationWindowEnd_lapses {s : State} (hw : windowOpen s = true) (ha : bitOf s.updCfg 31 = false) :
    exec .confirmationWindowEnd s = .next (deviceReset (writeDir (dirNow s) 4 s.upd.switched s)) := by
  show execConfirmationWindowEnd s = _
  unfold execConfirmationWindowEnd
  rw [if_neg (by simp [hw]), if_neg (by simp [ha])]

/-- Settles O54: a schedule by its refusals, the draining by a pass over the boughs, and the trial by the directory's
entry. -/
theorem updateActivation : Obligations.UpdateActivation := by
  unfold Obligations.UpdateActivation
  intro s h
  refine ⟨fun hc => ⟨fun m v hs => ?_, fun m v h0 h4 => ⟨fun hm => ?_, fun hm hp => ?_, fun hm hp => ?_⟩⟩, fun hs => ?_,
    activationCondition_completes, fun hs => ⟨?_, ?_⟩, drainEnd_completes, drainTimeout_completes, fun hw hc => ?_,
    updConfirm_completes h, updAbort_trial h, fun hw hg hs => updAbort_scheduled h hw hg hs, confirmationWindowEnd_closed,
    fun hw ha => ?_, fun hw ha => ?_⟩
  · exact ⟨_, updSchedule_refused h hs v, updAnswer_last hc h 2 0⟩
  · exact ⟨_, updSchedule_unknownMode h h0 h4 hm v, updAnswer_last hc h 4 0⟩
  · exact ⟨_, updSchedule_unaccepted h h0 h4 hm hp v, updAnswer_last hc h 6 0⟩
  · refine ⟨_, updSchedule_scheduled h h0 h4 hm hp v, ?_, ?_, ?_, updAnswer_last (CanAnswer.upd hc _) h 0 0⟩
    · rw [updAnswer_upd]
    · rw [updAnswer_upd]
    · rw [updAnswer_upd]
  · exact if_pos (.inl hs)
  · exact if_pos (.inl hs)
  · exact if_pos hs
  · exact ⟨_, updConfirm_closed h hw, updAnswer_last hc h 2 0⟩
  · obtain ⟨switched, trial, -⟩ := confirmUpdate_upd 1 s
    exact ⟨_, confirmationWindowEnd_auto hw ha, switched, trial⟩
  · obtain ⟨e, he, hupd⟩ := writeDir_mem (dirNow s) 4 s.upd.switched s
    exact ⟨_, confirmationWindowEnd_lapses hw ha, rfl, e, he, dirState_of_upd hupd (by decide),
      dirSwitched_of_upd hupd (by decide)⟩

end Sys2Proof.Safety
end

section
/-! SUPPORT. The commands of the record store (R650, R651, R655, R664, R751): reads into the bulk window, the clearing of the
rings and the acknowledgement of dumps. -/

set_option Elab.async false

namespace Sys2Proof.Safety

open Sys2Proof.Machine

/-! ## The histograms under an event -/

theorem enqueueRec_hists (r : LogRec) (s : State) : (enqueueRec r s).log.hists = s.log.hists := by
  unfold enqueueRec
  dsimp only
  (repeat' split) <;> rfl

theorem decideRec_hists (r : LogRec) (s : State) : (decideRec r s).log.hists = s.log.hists := by
  unfold decideRec
  split
  · exact enqueueRec_hists r s
  · dsimp only
    split
    · exact enqueueRec_hists r _
    · split
      · exact enqueueRec_hists _ _
      · rfl

theorem holdRec_hists (r : LogRec) (s : State) : (holdRec r s).log.hists = s.log.hists := by
  unfold holdRec
  dsimp only
  split
  · split <;> rfl
  · split <;> rfl

theorem recordEvent_hists (c b f : Nat) (d : List Byte) (s : State) :
    (recordEvent c b f d s).log.hists = s.log.hists := by
  unfold recordEvent
  split
  · rfl
  · split
    · exact decideRec_hists _ s
    · exact holdRec_hists _ s

theorem eqAdvance_hists (c : Nat) (s : State) : (eqAdvance c s).log.hists = s.log.hists := by
  unfold eqAdvance
  split <;> rfl

theorem eqLose_hists (n : Nat) (s : State) : (eqLose n s).log.hists = s.log.hists := by
  unfold eqLose
  dsimp only
  split
  · rfl
  · split
    · exact (eqAdvance_hists _ _).trans (recordEvent_hists _ _ _ _ _)
    · exact recordEvent_hists _ _ _ _ _

theorem placeEvent_hists (c b g : Nat) (a : Bool) (d : List Byte) (s : State) :
    (placeEvent c b g a d s).log.hists = s.log.hists := by
  unfold placeEvent
  dsimp only
  split
  · exact eqAdvance_hists c _
  · split
    · rfl
    · exact (eqLose_hists _ _).trans (eqAdvance_hists c s)

theorem answer_hists (c b g : Nat) (d : List Byte) (s : State) : (answer c b g d s).log.hists = s.log.hists := by
  unfold answer
  refine Eq.trans ?_ (recordEvent_hists c b 0 d s)
  unfold postEvent
  split
  · rfl
  · exact placeEvent_hists _ _ _ _ _ _

/-! ## What goes to the bulk window -/

/-- An answer of the record store is the queue's last message. -/
theorem logAnswer_last {s : State} (hc : CanAnswer s) (h : CmdHdr) (r : Nat) {data : List Byte}
    (hl : data.length ≤ 8183) :
    lastEvent (answer 0x0E01 255 h.tag (leN 1 r ++ data) s) = some (0x0E01, 255, h.tag, leN 1 r ++ data) :=
  answer_last hc _ _ _ _ (by decide) (by rw [List.length_append, leN_length]; omega)

theorem logAnswer_answers {i : Instr} {s : State} (hc : CanAnswer s) {h : CmdHdr} {r : Nat}
    (he : exec i s = logAnswer h r [] s) : Answers i s 0x0E01 255 h.tag (leN 1 r) :=
  ⟨_, he, logAnswer_last hc h r (data := []) (by decide)⟩

/-- What is read stands in the bulk window, and the answer tells of it. -/
theorem logAnswer_bulk {i : Instr} {s : State} (hc : CanAnswer s) {h : CmdHdr} {type : Nat} {bytes data : List Byte}
    (hl : data.length ≤ 8183) (he : exec i s = logAnswer h 0 data (bulkOut type bytes s)) :
    Completes i s fun t => t.host.bulkState = 3 ∧ t.host.irq.getLsbD 10 = true ∧ t.nv = s.nv ∧ t.log.hists = s.log.hists
      ∧ lastEvent t = some (0x0E01, 255, h.tag, leN 1 0 ++ data) := by
  refine ⟨_, he, ?_, answer_irq _ _ _ _ (bulkOut_done _ _ s), ?_, ?_, logAnswer_last (bulkOut_canAnswer hc _ _) h 0 hl⟩
  · rw [answer_host_bulkState]
    rfl
  · rw [answer_nv]
    rfl
  · rw [answer_hists]
    rfl

/-! ## LOG_READ (R650) -/

section
variable {s : State} (h : CmdHdr)

theorem logRead_busy (hb : bulkHeld s = true) (ring first limit : Nat) :
    exec (.logRead h ring first limit) s = logAnswer h 3 [] s := if_pos hb

theorem logDumpRead_busy (hb : bulkHeld s = true) (slot off : Nat) :
    exec (.logDumpRead h slot off) s = logAnswer h 3 [] s := if_pos hb

theorem logHistGet_busy (hb : bulkHeld s = true) : exec (.logHistGet h) s = logAnswer h 3 [] s := if_pos hb

variable (hb : bulkHeld s = false)
include hb

theorem logRead_bad {ring first limit : Nat} (ha : 2 < ring ∨ limit = 0 ∨ 262144 < limit) :
    exec (.logRead h ring first limit) s = logAnswer h 4 [] s :=
  (if_neg (by simp [hb])).trans (if_pos ha)

theorem logRead_nothing {ring first limit : Nat} (hr : ring ≤ 2) (hl : 1 ≤ limit) (hh : limit ≤ 262144)
    (hn : readable s ring first = []) : exec (.logRead h ring first limit) s = logAnswer h 1 [] s := by
  show execLogRead h ring first limit s = _
  unfold execLogRead
  rw [if_neg (by simp [hb]), if_neg (by omega), hn]

/-- The records that fit are read from the first one on. -/
theorem logRead_records {ring first limit : Nat} (hr : ring ≤ 2) (hl : 1 ≤ limit) (hh : limit ≤ 262144)
    {p : LogRec} {ps : List LogRec} (hn : readable s ring first = p :: ps) (hf : recSize p.data.length ≤ limit) :
    ∃ d bs, d.length = 8 ∧ exec (.logRead h ring first limit) s
      = logAnswer h 0 (leN 4 p.seq.toNat ++ d) (bulkOut 0x8E01 bs s) := by
  have hprefix : prefixRecs limit (p :: ps) = p :: prefixRecs (limit - recSize p.data.length) ps := if_pos hf
  show ∃ d bs, _ ∧ execLogRead h ring first limit s = _
  unfold execLogRead
  rw [if_neg (by simp [hb]), if_neg (by omega), hn]
  dsimp only
  rw [hprefix]
  dsimp only
  rw [List.append_assoc]
  exact ⟨_, _, by rw [List.length_append, leN_length, leN_length], rfl⟩

/-! ## LOG_DUMP_READ and LOG_HIST_GET (R655, R664) -/

theorem logDumpRead_bad {slot off : Nat} (ha : 1 < slot ∨ off % 262144 ≠ 0) :
    exec (.logDumpRead h slot off) s = logAnswer h 4 [] s :=
  (if_neg (by simp [hb])).trans (if_pos ha)

theorem logDumpRead_slot (k : Fin 2) : exec (.logDumpRead h k.val 0) s
    = if s.nv.flash.dumps[k].state = 0 ∨ s.nv.flash.dumps[k].state = 3 then logAnswer h 1 [] s
      else if s.nv.flash.dumps[k].bytes.length ≤ 0 then logAnswer h 4 [] s
      else logAnswer h 0 (leN 4 (s.nv.flash.dumps[k].bytes.take 262144).length)
        (bulkOut 0x8E03 (s.nv.flash.dumps[k].bytes.take 262144) s) := by
  show execLogDumpRead h k.val 0 s = _
  unfold execLogDumpRead
  rw [if_neg (by simp [hb]), if_neg (by rw [Nat.zero_mod]; omega), getN_val]
  rfl

theorem logHistGet_all : exec (.logHistGet h) s
    = logAnswer h 0 (leN 4 40) (bulkOut 0x8E05 (s.log.hists.toList.flatMap histBytes) s) := if_neg (by simp [hb])

end

/-! ## LOG_CLEAR (R651, R751) -/

theorem logClear_refused {s : State} (h : CmdHdr) (hl : s.lifecycle = lcDeployed ∨ s.lifecycle = lcScrapped) (scope : Byte) :
    exec (.logClear h scope) s = logAnswer h 2 [] s := if_pos hl

theorem logClear_bad {s : State} (h : CmdHdr) (hl : ¬(s.lifecycle = lcDeployed ∨ s.lifecycle = lcScrapped)) {scope : Byte}
    (hs : 8 ≤ scope.toNat) : exec (.logClear h scope) s = logAnswer h 4 [] s := (if_neg hl).trans (if_pos hs)

/-- The coded ring alone is cleared. -/
theorem logClear_coded {s : State} (h : CmdHdr) (hl : ¬(s.lifecycle = lcDeployed ∨ s.lifecycle = lcScrapped)) :
    Completes (.logClear h 1) s fun t =>
      t.nv.flash.general = s.nv.flash.general ∧ t.nv.flash.coded = clearRing s.nv.flash.coded := by
  show ∃ t, execLogClear h 1 s = .next t ∧ _
  unfold execLogClear
  rw [if_neg hl, if_neg (by decide)]
  have h0 : (1 : Byte).getLsbD 0 = true := by decide
  have h1 : (1 : Byte).getLsbD 1 = false := by decide
  have h2 : (1 : Byte).getLsbD 2 = false := by decide
  simp only [h0, h1, h2, if_true, Bool.false_eq_true, if_false]
  refine ⟨_, rfl, ?_⟩
  rw [answer_nv]
  dsimp only
  rw [emit_nv]
  exact ⟨rfl, rfl⟩

theorem clearRing_length (g : Ring) : (clearRing g).recs.length = g.recs.length := List.length_map _

/-- A record of a cleared ring that is not to be kept is marked. -/
theorem clearRing_cleared {g : Ring} {e : Nat × LogRec} (he : e ∈ (clearRing g).recs) (hk : keptRec e.2.code = false) :
    e.2.cleared = true := by
  obtain ⟨x, -, rfl⟩ := List.mem_map.mp he
  by_cases hx : keptRec x.2.code = true
  · rw [if_pos hx] at hk
    exact absurd (hx.symm.trans hk) (by decide)
  · rw [if_neg hx]

/-- A record that is to be kept stands. -/
theorem clearRing_kept {g : Ring} {e : Nat × LogRec} (he : e ∈ g.recs) (hk : keptRec e.2.code = true) :
    e ∈ (clearRing g).recs :=
  List.mem_map.mpr ⟨e, he, by rw [if_pos hk]⟩

/-! ## LOG_DUMP_ACK (R655) -/

theorem logDumpAck_bad (h : CmdHdr) (s : State) {m : Byte} (hm : 4 ≤ m.toNat) :
    exec (.logDumpAck h m) s = logAnswer h 4 [] s := if_pos hm

theorem logDumpAck_first {s : State} (h : CmdHdr) (hf : s.log.fatalCause = none)
    (h0 : s.nv.flash.dumps[(0 : Fin 2)].state ≠ 0) : Completes (.logDumpAck h 1) s fun t =>
      t.nv.flash.dumps[(0 : Fin 2)].state = 3 ∧ t.nv.flash.dumps[(1 : Fin 2)] = s.nv.flash.dumps[(1 : Fin 2)] := by
  show ∃ t, execLogDumpAck h 1 s = .next t ∧ _
  unfold execLogDumpAck
  rw [if_neg (by decide)]
  refine ⟨_, rfl, ?_⟩
  rw [answer_nv]
  have h1 : Nat.testBit 1 1 = false := by decide
  have h0' : s.nv.flash.dumps[0].state ≠ 0 := h0
  simp [eraseSlots, hf, h1, h0']

/-- Settles O52: each command by its refusals, what is read by the bulk window, a clearing by the records of its ring. -/
theorem logCommands : Obligations.LogCommands := by
  unfold Obligations.LogCommands
  intro s h hc
  refine ⟨fun hb => ⟨fun a b c => ?_, fun a b => ?_, ?_⟩, fun hb => ⟨fun ring first limit ha => ?_,
    fun ring first limit hr hl hh => ⟨fun hn => ?_, fun p ps hn hf => ?_⟩, fun slot off ha => ?_, fun k hk => ?_,
    fun k hk hne => ?_, ?_⟩, fun hl scope => ?_, fun hd hs => ⟨fun scope hsc => ?_, ?_⟩, fun m hm => ?_,
    logDumpAck_first h⟩
  · exact logAnswer_answers hc (logRead_busy h hb a b c)
  · exact logAnswer_answers hc (logDumpRead_busy h hb a b)
  · exact logAnswer_answers hc (logHistGet_busy h hb)
  · exact logAnswer_answers hc (logRead_bad h hb ha)
  · exact logAnswer_answers hc (logRead_nothing h hb hr hl hh hn)
  · obtain ⟨d, bs, hd, he⟩ := logRead_records h hb hr hl hh hn hf
    obtain ⟨t, ht, bulk, irq, nv, -, last⟩ := logAnswer_bulk hc (by rw [List.length_append, leN_length, hd]; decide) he
    exact ⟨t, ht, bulk, irq, nv, d, by rw [last, List.append_assoc]⟩
  · exact logAnswer_answers hc (logDumpRead_bad h hb ha)
  · exact logAnswer_answers hc ((logDumpRead_slot h hb k).trans (if_pos (.inl hk)))
  · have hread := (logDumpRead_slot h hb k).trans ((if_neg (by omega)).trans
      (if_neg (by rw [Nat.le_zero, List.length_eq_zero_iff]; exact hne)))
    obtain ⟨t, ht, bulk, -, nv, -, last⟩ := logAnswer_bulk hc (by rw [leN_length]; decide) hread
    exact ⟨t, ht, bulk, nv, by rw [last, List.length_take]⟩
  · obtain ⟨t, ht, bulk, -, -, hists, last⟩ := logAnswer_bulk hc (by rw [leN_length]; decide) (logHistGet_all h hb)
    exact ⟨t, ht, bulk, hists, last⟩
  · exact ⟨_, logClear_refused h hl scope, answer_nv _ _ _ _ _, logAnswer_last hc h 2 (data := []) (by decide)⟩
  · exact logAnswer_answers hc (logClear_bad h (not_or.mpr ⟨hd, hs⟩) hsc)
  · obtain ⟨t, ht, general, coded⟩ := logClear_coded h (not_or.mpr ⟨hd, hs⟩)
    refine ⟨t, ht, general, ?_, fun e he hk => ?_, fun e he hk => ?_⟩
    · rw [coded, clearRing_length]
    · rw [coded] at he
      exact clearRing_cleared he hk
    · rw [coded]
      exact clearRing_kept he hk
  · exact logAnswer_answers hc (logDumpAck_bad h s hm)

end Sys2Proof.Safety
end

section
/-! SUPPORT. A budget window that ends while the event queue is full (R644, R714): the counterexample to the claim that its end
leaves no count. -/

set_option Elab.async false

namespace Sys2Proof.Safety

open Sys2Proof.Machine

/-- A started device whose event queue is full, and one of whose codes went over its budget in this window. -/
def overBudget : State :=
  { State.reset with
    start.done := 8
    log.logOn := true
    log.budgets := [{ code := 0x0401, overrun := 1 }]
    host.eq := List.replicate 4410 unreadClosed }

/-- Event 0x0E03 reports the overrun and is lost; event 0x0003 notes the loss, and its record counts in the new window. -/
theorem overBudget_ended : (endWindow overBudget).log.budgets.map (·.code) = [0x0003] := by decide +kernel

/-- Refutes O51: in `overBudget` BUDGET_WINDOW_END clears the counts and then records event 0x0003, whose code has a count
of the new window when the command is done. -/
theorem not_recorderAndRestarts : ¬ Obligations.RecorderAndRestarts := by
  unfold Obligations.RecorderAndRestarts
  intro h
  obtain ⟨-, -, windowEnd, -⟩ := h.1 overBudget
  obtain ⟨t, ht, hbudgets, -⟩ := windowEnd rfl
  obtain rfl : endWindow overBudget = t := Host.Outcome.next.inj ht
  have hcodes := overBudget_ended
  rw [hbudgets] at hcodes
  exact absurd hcodes (by decide)

end Sys2Proof.Safety
end

section
/-! SUPPORT. The decoder on two wrong bits (R597): the syndrome of two bits is the sum of their elements, which no single bit
hides. -/

set_option Elab.async false

namespace Sys2Proof.Safety

open Sys2Proof.Machine

/-- Two places of a range. -/
theorem filter_range_pair {n k l : Nat} (hl : l < k) (hk : k < n) :
    (List.range n).filter (fun m => (m == k) ^^ (m == l)) = [l, k] := by
  induction n with
  | zero => exact absurd hk (Nat.not_lt_zero k)
  | succ n ih =>
    rw [List.range_succ, List.filter_append]
    by_cases hn : k = n
    · subst hn
      have hlow : (List.range k).filter (fun m => (m == k) ^^ (m == l)) = (List.range k).filter (· == l) := by
        refine List.filter_congr fun m hm => ?_
        rw [beq_false_of_ne (Nat.ne_of_lt (List.mem_range.mp hm)), Bool.false_xor]
      rw [hlow, List.filter_beq, List.count_eq_one_of_mem List.nodup_range (List.mem_range.mpr hl)]
      simp [Nat.ne_of_gt hl]
    · have h1 : n ≠ k := fun e => hn e.symm
      have h2 : n ≠ l := by omega
      rw [ih (by omega)]
      simp [h1, h2]

theorem getLsbD_cwBit {k m : Nat} (hm : m < 79) : (cwBit k).getLsbD m = (m == k) := by
  unfold cwBit
  rw [BitVec.getLsbD_ofNat, Nat.testBit_two_pow]
  simp [hm, eq_comm, Bool.beq_eq_decide_eq]

theorem getLsbD_two {k l m : Nat} (hm : m < 79) : (cwBit k ^^^ cwBit l).getLsbD m = ((m == k) ^^ (m == l)) := by
  rw [BitVec.getLsbD_xor, getLsbD_cwBit hm, getLsbD_cwBit hm]

/-- The set bits of a word below a place. -/
def setBits (n : Nat) (c : BitVec 79) : List Nat := (List.range n).filter (fun k => c.getLsbD k)

theorem weight_eq (c : BitVec 79) : weight c = (setBits 79 c).length := rfl

/-- The sum of two elements. -/
def addElem (s e : Nat × Nat) : Nat × Nat := (s.1 ^^^ e.1, s.2 ^^^ e.2)

theorem syndrome_eq (c : BitVec 79) : syndrome c = (setBits 78 c).foldl (fun s k => addElem s (bitElem k)) (0, 0) := by
  unfold setBits
  rw [List.foldl_filter]
  rfl

section
variable {k l : Nat} (hl : l < k)
include hl

theorem setBits_two {n : Nat} (hn : n ≤ 79) (hk : k < n) : setBits n (cwBit k ^^^ cwBit l) = [l, k] := by
  rw [← filter_range_pair hl hk]
  exact List.filter_congr fun m hm => getLsbD_two (Nat.lt_of_lt_of_le (List.mem_range.mp hm) hn)

/-- The parity bit is no part of the syndrome. -/
theorem setBits_parity (hk : k = 78) : setBits 78 (cwBit k ^^^ cwBit l) = [l] := by
  have hrange : l ∈ List.range 78 := List.mem_range.mpr (by omega)
  have hone : setBits 78 (cwBit k ^^^ cwBit l) = (List.range 78).filter (· == l) := by
    refine List.filter_congr fun m hm => ?_
    have hm : m < 78 := List.mem_range.mp hm
    have hmk : m ≠ k := by omega
    rw [getLsbD_two (by omega), beq_false_of_ne hmk, Bool.false_xor]
  rw [hone, List.filter_beq, List.count_eq_one_of_mem List.nodup_range hrange]
  rfl

end

/-! ## The elements of the bits -/

theorem bitElem_nonzero : ∀ k < 78, bitElem k ≠ (0, 0) := by decide +kernel

theorem bitElem_distinct : ∀ k < 78, ∀ l < k, bitElem l ≠ bitElem k := by decide +kernel

theorem oneLocated_bitElem {k : Nat} (hk : k < 78) : oneLocated (bitElem k) = true :=
  List.any_eq_true.mpr ⟨k, List.mem_range.mpr hk, beq_self_eq_true _⟩

theorem twoLocated_sum {k l : Nat} (hl : l < 78) (hk : k < 78) :
    twoLocated (addElem (bitElem l) (bitElem k)) = true := by
  refine List.any_eq_true.mpr ⟨l, List.mem_range.mpr hl, ?_⟩
  simpa [addElem, ← Nat.xor_assoc] using oneLocated_bitElem hk

theorem addElem_ne_zero {d e : Nat × Nat} (h : d ≠ e) : addElem d e ≠ (0, 0) := by
  intro h0
  simp only [addElem, Prod.mk.injEq, Nat.xor_eq_zero_iff] at h0
  exact h (Prod.ext h0.1 h0.2)

/-- Any two wrong bits are located as two. -/
theorem twoBits_corrected {k l : Nat} (hk : k < 79) (hl : l < k) : classify (cwBit k ^^^ cwBit l) = 2 := by
  have hw : weight (cwBit k ^^^ cwBit l) % 2 = 0 := by simp [weight_eq, setBits_two hl (le_refl 79) hk]
  have hlocated : ∀ t, syndrome (cwBit k ^^^ cwBit l) = t → t ≠ (0, 0) → (oneLocated t || twoLocated t) = true →
      classify (cwBit k ^^^ cwBit l) = 2 := by
    intro t ht h0 hlocated
    unfold classify
    rw [ht, if_pos hw, if_neg (by simpa using h0), if_pos hlocated]
  rcases Nat.lt_or_eq_of_le (Nat.le_of_lt_succ hk) with hk | hk
  · refine hlocated (addElem (bitElem l) (bitElem k)) ?_ (addElem_ne_zero (bitElem_distinct k hk l hl)) ?_
    · rw [syndrome_eq, setBits_two hl (by decide) hk]
      simp [addElem]
    · rw [twoLocated_sum (by omega) hk, Bool.or_true]
  · refine hlocated (bitElem l) ?_ (bitElem_nonzero l (by omega)) ?_
    · rw [syndrome_eq, setBits_parity hl hk]
      simp [addElem]
    · rw [oneLocated_bitElem (by omega), Bool.true_or]

end Sys2Proof.Safety
end

section
/-! SUPPORT. What a session's end leaves of the in-service tests (R615): it writes SRAM, and no test's state. -/

set_option Elab.async false

namespace Sys2Proof.Safety

open Sys2Proof.Machine

/-- The partitions that repeat a run and those that failed stand. -/
def TestsKept (s t : State) : Prop :=
  t.mem.repeating = s.mem.repeating ∧ t.mem.failedParts = s.mem.failedParts

section
variable {s t u : State}

theorem TestsKept.of_eq (h : t.mem = s.mem) : TestsKept s t := by
  unfold TestsKept
  rw [h]
  exact ⟨rfl, rfl⟩

theorem TestsKept.refl (s : State) : TestsKept s s := .of_eq rfl

theorem TestsKept.trans (h : TestsKept s t) (k : TestsKept t u) : TestsKept s u := ⟨k.1.trans h.1, k.2.trans h.2⟩

theorem TestsKept.ite {c : Prop} [Decidable c] (h : TestsKept s t) (k : TestsKept s u) :
    TestsKept s (if c then t else u) := by
  split
  · exact h
  · exact k

/-- An operation whose frame leaves the memory out. -/
theorem Kept.tests (h : Kept (allBut .memory) s t) : TestsKept s t := .of_eq h.same

end

theorem writtenWord_tests (a : Nat) (s : State) : TestsKept s (writtenWord a s) := by
  unfold writtenWord putBad State.free
  dsimp only
  (repeat' split) <;> exact ⟨rfl, rfl⟩

theorem sramWrite_tests (a : Nat) (bs : List Byte) (s : State) : TestsKept s (sramWrite a bs s) := by
  unfold sramWrite
  dsimp only
  exact List.foldlRecOn (motive := TestsKept s) _ _ ⟨rfl, rfl⟩ fun t h w _ => h.trans (writtenWord_tests w t)

theorem debitSession_tests (b : Bough) (s : State) : TestsKept s (debitSession b s) := by
  unfold debitSession
  extract_lets e
  split
  · exact .refl s
  · extract_lets r room
    generalize debit _ _ _ = p
    obtain ⟨bal, ec⟩ := p
    dsimp -zeta only
    extract_lets used u
    exact sramWrite_tests _ _ u

theorem closeSession_tests (b : Bough) (s : State) : TestsKept s (closeSession b s) := by
  unfold closeSession
  extract_lets read ended c priced noted journalled e d reported discarded
  have hread : TestsKept s read := by
    dsimp only [read]
    generalize hr : reportCost b s = r
    have hcost : TestsKept s r := hr ▸ (reportCost_changes (.refl _ s) b).tests
    exact hcost.trans (lateReading_changes (.refl _ r) b).tests
  have hended : TestsKept s ended := hread.trans (endReading_changes (.refl _ read) b).tests
  have hpriced : TestsKept s priced := by
    have hcost : TestsKept ended (ended.onSes b fun e => { e with cost := c }) := .of_eq rfl
    have hend : TestsKept s _ := (hended.trans hcost).trans (.of_eq (State.onSesL_mem _ b fun l => { l with ended := true }))
    exact .ite hend hread
  have hnoted : TestsKept s noted :=
    (hpriced.trans (debitSession_tests b priced)).trans (noteHistogram_changes (.refl _ _) b).tests
  have hjournalled : TestsKept s journalled := by
    dsimp only [journalled]
    split
    · next i _ => exact hnoted.trans (journalFor_changes (.refl _ noted) b i).tests
    · exact hnoted
  have hreported : TestsKept s reported := by
    dsimp only [reported]
    split
    · exact hjournalled.trans (.of_eq (answer_mem _ _ _ _ _))
    · exact hjournalled.trans (.of_eq (emit_mem _ _ _ _))
  have hdiscarded : TestsKept s discarded := hreported.trans (discardIdents_changes (.refl _ reported) b e.held).tests
  exact hdiscarded.trans (.of_eq (State.onSes_mem discarded b _))

theorem finishSession_tests (b : Bough) (s : State) : TestsKept s (finishSession b s) :=
  ((goState_changes (.refl _ s) b _).tests.trans (closeSession_tests b _)).trans (leaveNetwork_changes (.refl _ _) b).tests

theorem endEarly_tests (b : Bough) (reason : Nat) (s : State) : TestsKept s (endEarly b reason s) :=
  (onSes_changes (.refl _ s) b _).tests.trans ((closeSession_tests b _).trans (idleSession_changes (.refl _ _) b).tests)

theorem stopDone_tests (b : Bough) (s : State) : TestsKept s (stopDone b s) := by
  unfold stopDone
  extract_lets t
  have ht : TestsKept s t := finishSession_tests b s
  exact .ite (ht.trans (idleSession_changes (.refl _ t) b).tests) ht

theorem enterStopping_tests (b : Bough) (reason : Nat) (s : State) : TestsKept s (enterStopping b reason s) := by
  unfold enterStopping
  extract_lets isOpen notice t u v w
  have hv : TestsKept s v := .of_eq rfl
  have hw : TestsKept s w := hv.trans (goState_changes (.refl _ v) b _).tests
  exact .ite (hw.trans (stopDone_tests b w)) hw

theorem leaveSession_tests (b : Bough) (reason : Nat) (s : State) : TestsKept s (leaveSession b reason s) := by
  unfold leaveSession
  refine .ite (.refl s) ?_
  split
  case h_1 | h_4 => exact .refl s
  case h_2 | h_3 => exact (idleSession_changes (.refl _ s) b).tests
  case h_5 | h_6 | h_7 => exact endEarly_tests b reason s
  case h_8 => exact .ite (enterStopping_tests b reason s) (endEarly_tests b reason s)

theorem holdSession_tests (b : Bough) (r : Nat) (s : State) : TestsKept s (holdSession b r s) :=
  (leaveSession_tests b _ s).trans (driveOutput_changes (.refl _ _) b).tests

/-- A partition that failed is taken out of service, and the tests of the others stand. -/
theorem partFailed_tests (p : Fin 14) (s : State) : TestsKept s (partFailed p s) := by
  unfold partFailed
  split
  case h_1 | h_2 | h_3 | h_6 => exact (fatalError_changes (.refl _ s) _ _ _).tests
  case h_4 => exact .refl s
  case h_5 =>
    have hoff : TestsKept s { s with canopy.offByFault := true } := .of_eq rfl
    exact hoff.trans (cnpOff_changes (.refl _ _)).tests
  case h_7 =>
    have hheld : TestsKept s (s.onSaf (dspBough p) fun f => { f with holdOther := true }) := .of_eq rfl
    exact hheld.trans (holdSession_tests _ 2 _)

end Sys2Proof.Safety
end

section
/-! SUPPORT. The service of the memories: scrubbers (R603, R604), tests in service (R611 to R618), repair maps (R626), the
decoder (R597) and the injection of errors (R605, R606). -/

set_option Elab.async false

namespace Sys2Proof.Safety

open Sys2Proof.Machine

/-! ## Scrubbing (R603, R604) -/

/-- A row without wrong bits is read and nothing is written. -/
theorem scrubAt_clean {a : Nat} {s : State} (h : badWords s a = []) : scrubAt a s = s := by
  unfold scrubAt
  rw [h]
  rfl

theorem badWords_of_none {s : State} (h : s.mem.bad = []) (a : Nat) : badWords s a = [] := by
  unfold badWords
  rw [h]
  rfl

section
variable {s : State}

theorem scrubRow_idle (h : bitOf s.memScrubCfg 31 = false ∨ s.trunk.capNow = 0) : exec .scrubRow s = .next s := by
  show execScrubRow s = _
  unfold execScrubRow
  refine if_pos ?_
  rcases h with h | h <;> simp [h]

/-- The scrubber of the trunk, on a clean row. -/
theorem scrubRow_clean (hon : bitOf s.memScrubCfg 31 = true) (hcap : s.trunk.capNow ≠ 0)
    (hrow : badWords s (rowBase s.mem.scrubRow) = []) :
    exec .scrubRow s = if s.mem.scrubRow + 1 < trunkRows then .next { s with mem.scrubRow := s.mem.scrubRow + 1 }
      else .next { s with mem.scrubRow := 0, mem.passes := min 65535 (s.mem.passes + 1) } := by
  show execScrubRow s = _
  unfold execScrubRow
  rw [if_neg (by simp [hon, hcap])]
  dsimp only
  rw [scrubAt_clean hrow]

theorem scrubRow_next (hon : bitOf s.memScrubCfg 31 = true) (hcap : s.trunk.capNow ≠ 0)
    (hrow : badWords s (rowBase s.mem.scrubRow) = []) (hi : s.mem.scrubRow < 98303) : Completes .scrubRow s fun t =>
      t.mem.scrubRow = s.mem.scrubRow + 1 ∧ t.mem.passes = s.mem.passes ∧ t.mem.cells = s.mem.cells := by
  have hlt : s.mem.scrubRow + 1 < trunkRows := Nat.succ_lt_succ hi
  exact ⟨_, (scrubRow_clean hon hcap hrow).trans (if_pos hlt), rfl, rfl, rfl⟩

theorem scrubRow_wraps (hon : bitOf s.memScrubCfg 31 = true) (hcap : s.trunk.capNow ≠ 0)
    (hrow : badWords s (rowBase s.mem.scrubRow) = []) (hi : s.mem.scrubRow = 98303) : Completes .scrubRow s fun t =>
      t.mem.scrubRow = 0 ∧ t.mem.passes = min 65535 (s.mem.passes + 1) ∧ t.mem.cells = s.mem.cells := by
  have hlast : ¬ s.mem.scrubRow + 1 < trunkRows := by rw [hi]; decide
  exact ⟨_, (scrubRow_clean hon hcap hrow).trans (if_neg hlast), rfl, rfl, rfl⟩

theorem heartwoodScrubRow_clean (hon : bitOf s.memScrubCfg 31 = true) (hbad : s.mem.bad = []) :
    Completes .heartwoodScrubRow s fun t => t.mem.hwScrubRow = (s.mem.hwScrubRow + 1) % 4096 ∧ t.mem.bad = []
      ∧ t.mem.scrubRow = s.mem.scrubRow := by
  show ∃ t, execHeartwoodScrubRow s = .next t ∧ _
  unfold execHeartwoodScrubRow
  rw [if_neg (by simp [hon])]
  dsimp only
  rw [scrubAt_clean (badWords_of_none hbad _)]
  exact ⟨_, rfl, rfl, hbad, rfl⟩

/-! ## Slices of the tests in service (R611, R615) -/

/-- The bit of a partition is its own. -/
theorem partBit_getLsbD (p : Fin 14) : (partBit p).getLsbD p.val = true := by
  revert p
  decide

/-- The mask of a partition picks its bit. -/
theorem and_partBit (x : BitVec 14) (p : Fin 14) : x &&& partBit p = if x.getLsbD p.val then partBit p else 0 := by
  have hmask : partBit p = BitVec.twoPow 14 p.val := by revert p; decide
  rw [hmask, BitVec.and_twoPow]
  rfl

theorem and_partBit_eq_zero (x : BitVec 14) (p : Fin 14) : x &&& partBit p = 0 ↔ x.getLsbD p.val = false := by
  have hne : partBit p ≠ 0 := by revert p; decide
  rw [and_partBit]
  cases x.getLsbD p.val
  · simp
  · simpa using hne

theorem or_partBit_getLsbD (x : BitVec 14) (p : Fin 14) : (x ||| partBit p).getLsbD p.val = true := by
  rw [BitVec.getLsbD_or, partBit_getLsbD, Bool.or_true]

theorem and_not_partBit_getLsbD (x : BitVec 14) (p : Fin 14) : (x &&& ~~~partBit p).getLsbD p.val = false := by
  rw [BitVec.getLsbD_and, BitVec.getLsbD_not, partBit_getLsbD, Bool.not_true, Bool.and_false, Bool.and_false]

theorem lbistSlice_refused {p : Fin 14} {g : Bool} (sig : BitVec 32) (h : acceptsSlice p g s = false) :
    exec (.lbistSlice p g sig) s = .next s := by
  show execLbistSlice p g sig s = _
  exact if_pos (by rw [h]; rfl)

theorem lbistSlice_counts {p : Fin 14} {g : Bool} (sig : BitVec 32) (h : acceptsSlice p g s = true)
    (hn : s.mem.slices[p] + 1 < slicesOf p) : Completes (.lbistSlice p g sig) s fun t =>
      t.mem.slices[p] = s.mem.slices[p] + 1 ∧ t.mem.runs = s.mem.runs ∧ t.mem.failedParts = s.mem.failedParts := by
  show ∃ t, execLbistSlice p g sig s = .next t ∧ _
  unfold execLbistSlice
  rw [if_neg (by simp [h])]
  dsimp only
  rw [if_pos hn]
  refine ⟨_, rfl, ?_⟩
  split
  · exact ⟨by simp, rfl, rfl⟩
  · exact ⟨by simp, rfl, rfl⟩

/-- The state at a run's last slice: its signature is in the partition's register. -/
def lastSlice (p : Fin 14) (sig : BitVec 32) (s : State) : State :=
  { s with mem.misr := s.mem.misr.set p sig, host.bistRetry := s.host.bistRetry && p != 3 }

theorem lbistSlice_ends {p : Fin 14} {g : Bool} (sig : BitVec 32) (h : acceptsSlice p g s = true)
    (hn : slicesOf p ≤ s.mem.slices[p] + 1) :
    exec (.lbistSlice p g sig) s = .next (endRun p sig (lastSlice p sig s)) := by
  show execLbistSlice p g sig s = _
  unfold execLbistSlice
  rw [if_neg (by simp [h])]
  exact if_neg (Nat.not_lt.mpr hn)

/-- A run whose signature is right is counted. -/
theorem endRun_good (p : Fin 14) (s : State) : (endRun p (Config.bistSignature p) s).mem.slices[p] = 0
    ∧ (endRun p (Config.bistSignature p) s).mem.runs = min 16383 (s.mem.runs + 1)
    ∧ (endRun p (Config.bistSignature p) s).mem.failedParts = s.mem.failedParts := by
  unfold endRun
  dsimp only
  rw [if_pos rfl, emit_mem]
  exact ⟨by simp, rfl, rfl⟩

/-- A first wrong signature has the run repeated. -/
theorem endRun_repeats {p : Fin 14} {sig : BitVec 32} (hsig : sig ≠ Config.bistSignature p)
    (hfirst : s.mem.repeating.getLsbD p.val = false) : (endRun p sig s).mem.repeating.getLsbD p.val = true
      ∧ (endRun p sig s).mem.failedParts = s.mem.failedParts := by
  unfold endRun
  dsimp only
  rw [if_neg hsig, if_pos ((and_partBit_eq_zero _ p).mpr hfirst), emit_mem]
  exact ⟨or_partBit_getLsbD _ p, rfl⟩

/-- A second wrong signature fails the partition. -/
theorem endRun_fails {p : Fin 14} {sig : BitVec 32} (hsig : sig ≠ Config.bistSignature p)
    (hagain : s.mem.repeating.getLsbD p.val = true) : (endRun p sig s).mem.repeating.getLsbD p.val = false
      ∧ (endRun p sig s).mem.failedParts.getLsbD p.val = true := by
  have hbit : ¬ s.mem.repeating &&& partBit p = 0 := by
    rw [and_partBit_eq_zero, hagain]
    decide
  unfold endRun
  dsimp only
  rw [if_neg hsig, if_neg hbit]
  obtain ⟨hrep, hfail⟩ := partFailed_tests p (emit 0x0D08 255 _ _)
  rw [hrep, hfail, emit_mem]
  exact ⟨and_not_partBit_getLsbD _ p, or_partBit_getLsbD _ p⟩

/-! ## The march (R616, R617) -/

theorem marchSlice_idle (h : bitOf s.memTestCfg 30 = false ∨ s.trunk.capNow = 0) (hard : List (Nat × Nat)) :
    exec (.marchSlice hard) s = .next s := by
  show execMarchSlice hard s = _
  unfold execMarchSlice
  refine if_pos ?_
  rcases h with h | h <;> simp [h]

/-- A march over a row without wrong bits, that finds no hard error, keeps what the rows hold. -/
theorem marchAt_clean {a : Nat} (h : badWords s a = []) : marchAt a [] s = s := by
  unfold marchAt
  dsimp only
  rw [h]
  rfl

theorem marchNext_within (h : s.mem.marchRow < allRows) : marchNext s = s :=
  if_neg fun hlast => Nat.ne_of_lt h hlast.1

theorem marchSlice_clean (hon : bitOf s.memTestCfg 30 = true) (hcap : s.trunk.capNow ≠ 0)
    (hi : s.mem.marchRow + 1 < allRows) (hrow : badWords s (rowBase s.mem.marchRow) = []) :
    Completes (.marchSlice []) s fun t =>
      t.mem.marchRow = s.mem.marchRow + 1 ∧ t.mem.cells = s.mem.cells ∧ t.mem.bad = s.mem.bad := by
  show ∃ t, execMarchSlice [] s = .next t ∧ _
  unfold execMarchSlice
  rw [if_neg (by simp [hon, hcap]), if_pos (Nat.lt_of_succ_lt hi)]
  dsimp only
  split
  · exact ⟨_, rfl, rfl, rfl, rfl⟩
  · refine ⟨_, rfl, ?_⟩
    rw [marchAt_clean (by exact hrow), marchNext_within (by exact hi)]
    exact ⟨rfl, rfl, rfl⟩

/-! ## The repair maps (R618, R626) -/

theorem fieldMapWrite_room {e : BitVec 32} {rest : List (BitVec 32)} (hr : s.ready = true)
    (hl : s.mem.softList = e :: rest) (hn : s.nv.fieldMap.length < 64) : Completes .fieldMapWrite s fun t =>
      t.nv.fieldMap = s.nv.fieldMap ++ [e] ∧ t.mem.softList = rest := by
  show ∃ t, execFieldMapWrite s = .next t ∧ _
  unfold execFieldMapWrite
  rw [if_neg (by simp [hr]), hl]
  dsimp only
  rw [if_pos hn]
  refine ⟨_, rfl, ?_⟩
  rw [emit_nv, emit_mem]
  exact ⟨rfl, rfl⟩

theorem fieldMapWrite_full {e : BitVec 32} {rest : List (BitVec 32)} (hr : s.ready = true)
    (hl : s.mem.softList = e :: rest) (hn : 64 ≤ s.nv.fieldMap.length) : Completes .fieldMapWrite s fun t =>
      t.nv.fieldMap = s.nv.fieldMap ∧ t.mem.softList = rest := by
  show ∃ t, execFieldMapWrite s = .next t ∧ _
  unfold execFieldMapWrite
  rw [if_neg (by simp [hr]), hl]
  dsimp only
  rw [if_neg (Nat.not_lt.mpr hn)]
  refine ⟨_, rfl, ?_⟩
  rw [emit_nv, emit_mem]
  exact ⟨rfl, rfl⟩

theorem memMapGet_completes (h : CmdHdr) (s : State) : Completes (.memMapGet h) s fun t =>
    t.host.bulkState = 3 ∧ t.host.irq.getLsbD 10 = true ∧ t.nv.fieldMap = s.nv.fieldMap
      ∧ (CanAnswer s → lastEvent t = some (0x0D0A, 255, h.tag,
        leN 4 (usedEntries s.nv.factoryMap) ++ leN 4 (usedEntries s.nv.fieldMap))) := by
  refine ⟨_, rfl, ?_, answer_irq _ _ _ _ (bulkOut_done _ _ s), ?_, fun hc => ?_⟩
  · rw [answer_host_bulkState]
    rfl
  · rw [answer_nv]
    rfl
  · exact answer_last (bulkOut_canAnswer hc _ _) _ _ _ _ (by decide) (by simp [leN_length])

/-! ## The decoder (R597) -/

theorem noBit_clean : classify 0 = 0 := by decide

theorem oneBit_classify : ∀ k < 79, classify (cwBit k) = 1 := fun k hk => (oneBit_corrected k hk).2

theorem anyTwoBits_classify : ∀ k < 79, ∀ l < 79, k ≠ l → classify (cwBit k ^^^ cwBit l) = 2 := by
  intro k hk l hl hne
  rcases Nat.lt_or_gt_of_ne hne with hlt | hgt
  · rw [BitVec.xor_comm]
    exact twoBits_corrected hl hlt
  · exact twoBits_corrected hk hgt

/-! ## The injection of errors (R605, R606) -/

/-- Fewer than four wrong bits have the outcome of the decoder, and draw nothing. -/
theorem outcome_light {e : BitVec 79} (h : weight e < 4) (s : State) : outcome e s = (classify e, s) := if_pos h

theorem injectedData_corrected {o : Nat} (hw : weight (flipMask s) < 4) (ho : o ≠ 3) (d : BitVec 64) :
    injectedData d o s = (d, s) := if_pos ⟨hw, ho⟩

variable (h : CmdHdr)

theorem memInjectMode0_badMacro {m : Nat} (hm : 220 < m) (d : BitVec 64) (hc : CanAnswer s) :
    Answers (.memInjectMode0 h m d) s 0x0D09 255 h.tag [3] :=
  ⟨_, if_pos hm, answer_last hc _ _ _ _⟩

theorem memInjectMode0_completes {m : Nat} (hm : m ≤ 220) (d : BitVec 64) (hw : weight (flipMask s) < 4)
    (ho : classify (flipMask s) ≠ 3) (hc : CanAnswer s) : Completes (.memInjectMode0 h m d) s fun t =>
      t.mem.cells = s.mem.cells ∧ t.mem.bad = s.mem.bad ∧ t.nv.tagMem = s.nv.tagMem
        ∧ lastEvent t = some (0x0D09, 255, h.tag,
          leN 1 0 ++ leN 1 (classify (flipMask s)) ++ leN 4 (classify (flipMask s)) ++ leN 8 d.toNat) := by
  have hcan : CanAnswer { s with mem.armed := false } := hc.of_eq rfl rfl
  show ∃ t, execMemInjectMode0 h m d s = .next t ∧ _
  unfold execMemInjectMode0
  rw [if_neg (Nat.not_lt.mpr hm), outcome_light hw]
  dsimp only
  rw [injectedData_corrected (by exact hw) ho, if_neg ho]
  refine ⟨_, rfl, ?_, ?_, ?_, answer_last hcan _ _ _ _ (by decide) (by simp [leN_length])⟩
  · rw [answer_mem]
  · rw [answer_mem]
  · rw [answer_nv]

theorem memInjectMode1_deployed (hl : s.lifecycle = lcDeployed) (hc : CanAnswer s) :
    Answers (.memInjectMode1 h) s 0x0D09 255 h.tag [4] :=
  ⟨_, if_pos hl, answer_last hc _ _ _ _⟩

theorem memInjectMode1_arms (hl : s.lifecycle ≠ lcDeployed) (ht : targetOk (injectTarget s) = true) :
    Completes (.memInjectMode1 h) s fun t => t.mem.armed = true ∧ t.mem.armAddr = injectTarget s
      ∧ t.mem.armMask = flipMask s ∧ t.mem.bad = s.mem.bad := by
  show ∃ t, execMemInjectMode1 h s = .next t ∧ _
  unfold execMemInjectMode1
  rw [if_neg hl, if_neg (by simp [ht])]
  refine ⟨_, rfl, ?_⟩
  rw [answer_mem]
  exact ⟨rfl, rfl, rfl, rfl⟩

theorem memInjectMode1_undefined (hl : s.lifecycle ≠ lcDeployed) (ht : targetOk (injectTarget s) = false) :
    exec (.memInjectMode1 h) s = .fault .undefinedInjectTarget := by
  show execMemInjectMode1 h s = _
  unfold execMemInjectMode1
  rw [if_neg hl, if_pos (by simp [ht])]

end

/-- Settles O50: each row, slice and map by the lemma of its command; the decoder by its table of syndromes. -/
theorem memoryService : Obligations.MemoryService := by
  refine ⟨fun s => ⟨scrubRow_idle, fun hon hcap hrow => ⟨scrubRow_next hon hcap hrow, scrubRow_wraps hon hcap hrow⟩,
    heartwoodScrubRow_clean, fun p g sig => ⟨lbistSlice_refused sig, lbistSlice_counts sig, fun ha hn => ?_⟩,
    marchSlice_idle, marchSlice_clean, fun e rest hr hl => ⟨fieldMapWrite_room hr hl, fieldMapWrite_full hr hl⟩,
    fun h => memMapGet_completes h s⟩, ⟨noBit_clean, oneBit_classify, anyTwoBits_classify⟩, fun s h => ?_⟩
  · have hend := lbistSlice_ends sig ha hn
    refine ⟨fun hsig => ?_, fun hsig hfirst => ⟨_, hend, endRun_repeats hsig hfirst⟩,
      fun hsig hagain => ⟨_, hend, endRun_fails hsig hagain⟩⟩
    subst hsig
    exact ⟨_, hend, endRun_good p _⟩
  · exact ⟨fun m d hm hc => memInjectMode0_badMacro h hm d hc,
      fun m d hm hw ho hc => memInjectMode0_completes h hm d hw ho hc, memInjectMode1_deployed h, memInjectMode1_arms h,
      memInjectMode1_undefined h⟩

end Sys2Proof.Safety
end
